-- ==== Sys2Proof/Word.lean ====
section
/-!
DEFINITION. The word types of the PL9648 and their plainest arithmetic (spec/00_scope.md, Notation: registers are 32 bits
wide, bit 31 the most significant, ranges written [high:low]).
-/
namespace Sys2Proof

/-- A byte of a frame or of host memory. -/
abbrev Byte := BitVec 8

/-- A 32-bit register (spec/00_scope.md, Notation). -/
abbrev Word := BitVec 32

/-- A 64-bit quantity, a LO/HI register pair (spec/00_scope.md, Notation). -/
abbrev DWord := BitVec 64

end Sys2Proof
end

