-- ==== Sys2Proof/Syntax.lean ====
section
/-!
DEFINITION. The commands of the PL9648: one constructor for each row of spec/opcode_table.json, in the table's order (those that
carry no operand last), with the
operands a command or event of that kind carries.  What comes from outside the device (a frame, a cell, a module's answer, the
host's memory, a reading) is an operand.
-/
namespace Sys2Proof

/-- The commands and events. -/
inductive Instr where
  /-- REG_WRITE (R43): A register write with no behaviour of its own updates the writable fields or shadow, or is discarded and captured when the page is reserved, the enables are partial or the register is read-only. -/
  | regWrite (m : Nat) (page : Nat) (off : Nat) (be : Nat) (data : List Word)
  /-- LO_READ_LATCH (R44): A read of a LO register returns LO and latches HI for that master. -/
  | loReadLatch (m : Nat) (page : Nat) (off : Nat × Nat)
  /-- HI_WRITE (R45): A write of a HI register writes both halves together when a LO write is held for that master, and HI alone otherwise. -/
  | hiWrite (m : Nat) (page : Nat) (off : Nat) (be : Nat) (data : Word)
  /-- PAGE_TIMEOUT (R47): A host read unanswered after 50 µs completes with 0xFFFF_FFFF and is captured with kind 0x008. -/
  | pageTimeout (m : Nat) (page : Nat) (off : Nat)
  /-- BLK_ENABLE (R56): Setting BLK_CTRL.ENABLE lets the block's units take new work; masters other than the permitted four are refused. -/
  | blkEnable (m : Nat) (page : Nat) (data : Word)
  /-- BLK_DISABLE (R56): Clearing BLK_CTRL.ENABLE makes the block finish begun work and take none new. -/
  | blkDisable (m : Nat) (page : Nat) (data : Word)
  /-- BLOCK_DRAINED (R56): A disabled block finishes its last work in progress and BLK_STAT.IDLE sets. -/
  | blockDrained (page : Nat)
  /-- SOFT_RESET (R55): Writing 1 to SOFT_RESET resets the block's units and registers, or is refused with kind 0x007 while ENABLE is 1. -/
  | softReset (m : Nat) (page : Nat) (data : Word)
  /-- SOFT_RESET_DONE (R55): The block reset completes and SOFT_RESET reads 0 again. -/
  | softResetDone (page : Nat)
  /-- FREEZE (R57): Setting or clearing BLK_CTRL.FREEZE holds or releases the page's status view. -/
  | freeze (m : Nat) (page : Nat) (data : Word)
  /-- BLK_INT_CLEAR (R59): A W1C write to BLK_INT_STAT clears the written bits unless hardware sets them in the same clock. -/
  | blkIntClear (m : Nat) (page : Nat) (data : Word) (hw : Word)
  /-- BLK_INT_FORCE (R58): Writing BLK_INT_FORCE sets BLK_INT_STAT bits exactly as their events would. -/
  | blkIntForce (m : Nat) (page : Nat) (data : Word)
  /-- ERRCAP_CLEAR (R60): A W1C write to ERRCAP_CTRL clears VALID and OVERFLOW; an error in the same clock is captured. -/
  | errcapClear (m : Nat) (page : Nat) (data : Word)
  /-- COMMIT (R64): Writing BLK_COMMIT with GO = 1 copies the shadow to the unit domain, or is refused while PENDING or FREEZE is 1. -/
  | commit (m : Nat) (page : Nat) (data : Word)
  /-- COMMIT_TAKEN (R68): Every unit has taken the committed values: PENDING clears and DONE and COMMIT_DONE are set. -/
  | commitTaken (page : Nat)
  /-- TBL_NOP (R77): Table command NOP ends with OK, or with FROZEN while FREEZE is 1. -/
  | tblNop (m : Nat) (page : Nat) (table : Nat) (index : Nat)
  /-- TBL_READ (R79): Table command READ copies the entry at INDEX into KEY, DATA and EXT. -/
  | tblRead (m : Nat) (page : Nat) (table : Nat) (index : Nat)
  /-- TBL_WRITE (R78): Table command WRITE writes KEY, DATA and EXT atomically to the entry at INDEX. -/
  | tblWrite (m : Nat) (page : Nat) (table : Nat) (index : Nat)
  /-- TBL_INSERT (R178): Table command INSERT places the keyed entry in a candidate bucket or the stash, relocating entries or searching further as needed. -/
  | tblInsert (m : Nat) (page : Nat) (table : Nat) (index : Nat)
  /-- TBL_DELETE (R691): Table command DELETE removes the entry matching KEY in a keyed table, or the entry at INDEX in an indexed table. -/
  | tblDelete (m : Nat) (page : Nat) (table : Nat) (index : Nat)
  /-- TBL_SEARCH (R79): Table command SEARCH looks up KEY as the data path would and loads the match. -/
  | tblSearch (m : Nat) (page : Nat) (table : Nat) (index : Nat)
  /-- TBL_NEXT (R79): Table command NEXT loads the first valid entry with an index above INDEX. -/
  | tblNext (m : Nat) (page : Nat) (table : Nat) (index : Nat)
  /-- TBL_OP_DONE (R77): A table operation ends: RESULT, HIT, RES_INDEX and JSEQ are written, BUSY clears and DONE and TBL_DONE are set. -/
  | tblOpDone (page : Nat)
  /-- TBL_LOCK_ACQUIRE (R73): A read of TBL_LOCK grants the window to the reader when it is free or already held by the reader. -/
  | tblLockAcquire (m : Nat) (page : Nat)
  /-- TBL_LOCK_RELEASE (R73): Writing RELEASE frees the window if the writer holds it. -/
  | tblLockRelease (m : Nat) (page : Nat)
  /-- TBL_LOCK_FORCE_RELEASE (R73): Writing FORCE_RELEASE from PF0 or the main core frees the window whoever holds it. -/
  | tblLockForceRelease (m : Nat) (page : Nat)
  /-- TBL_FENCE (R75): A read of TBL_FENCE returns only after every earlier request of the reading source to the page's die has executed. -/
  | tblFence (m : Nat) (page : Nat)
  /-- FLIT_RECEIVE (R15): A die-to-die flit arrives, is CRC-checked and restored to link sequence order before delivery. -/
  | flitReceive (die : Nat) (module : Nat) (seq : Nat) (bad : Bool)
  /-- CROSS_DIE_REQUEST (R29): A master places a cross-die request in the link transmit queue when it holds a credit and releases its bus. -/
  | crossDieRequest (src : Nat) (read : Option Nat × Bool) (page : Nat) (off : Nat) (data : Nat × List Word)
  /-- CROSS_DIE_EXECUTE (R32): The receiving die arbitrates an arrived request onto its internal bus, executes it and returns the credit. -/
  | crossDieExecute (src : Nat)
  /-- CROSS_DIE_RESPONSE (R31): A read response arrives on channel 2 into the space the source reserved. -/
  | crossDieResponse (src : Nat)
  /-- AUTONEG_DONE (R86): Clause 73 negotiation resolves on the single advertised ability and AN_DONE sets. -/
  | autonegDone (port : Nat) (partner : Nat)
  /-- LINK_TRAINING_DONE (R87): Lane training completes and the port may send data. -/
  | linkTrainingDone (port : Nat)
  /-- LINK_TRAINING_TIMEOUT (R87): Training that does not complete within the clause's maximum wait restarts. -/
  | linkTrainingTimeout (port : Nat)
  /-- FRAME_RECEIVE (R231): A frame's first byte arrives at the MAC and the receive FIFO admits it by level and receive priority or discards it with 0xA0. -/
  | frameReceive (port : Nat) (head : List Byte)
  /-- FRAME_TAIL (R236): A frame's last byte arrives and the port checks it, marking a tail error by cause and correcting policer and shaper charges. -/
  | frameTail (port : Nat) (rest : List Byte) (storeErr : Bool)
  /-- PFC_FRAME_RECEIVE (R92): A received PFC or PAUSE frame is consumed and pauses the enabled traffic classes for the given time. -/
  | pfcFrameReceive (port : Nat) (frame : List Byte)
  /-- PFC_PAUSE_EXPIRE (R92): A traffic-class pause time runs out and the scheduler may start its frames again. -/
  | pfcPauseExpire (port : Nat) (tc : Nat)
  /-- PFC_REFRESH (R93): While XOFF holds, the MAC repeats the pause frame every QUANTA × 256 bit times. -/
  | pfcRefresh (port : Nat)
  /-- MODULE_INSERT (R532): MOD_PRESENT_N has been low 100 ms: PRESENT sets, STATE identifying, module held in reset and low power. -/
  | moduleInsert (port : Nat)
  /-- MODULE_RESET_RELEASE (R532): 10 ms after insertion is recognised, MOD_RESET_N is released. -/
  | moduleResetRelease (port : Nat)
  /-- MODULE_POLL (R532): Every 10 ms the device polls lower-page byte 3 until the module reports ModuleLowPwr, then reads the CMIS pages. -/
  | modulePoll (port : Nat) (ack : Bool) (lowPwr : Bool) (ident : Nat) (rev : Nat) (pwrClass : Nat) (copper : Bool) (apps : List Nat) (dpMs : Nat)
  /-- MODULE_READY (R98): The module reports ModuleReady and the device writes and applies the matching application. -/
  | moduleReady (port : Nat) (ack : Bool)
  /-- MODULE_DATAPATH_ACTIVATED (R532): The module reports DataPathActivated: STATE ready and link bring-up begins. -/
  | moduleDatapathActivated (port : Nat)
  /-- MODULE_STEP_TIMEOUT (R533): An insertion step overruns its time, or three transactions go unacknowledged: STATE read error. -/
  | moduleStepTimeout (port : Nat)
  /-- MODULE_REMOVE (R535): MOD_PRESENT_N high for 1 ms: PRESENT clears, STATE empty, sideband reset and any module access ends with ERR. -/
  | moduleRemove (port : Nat)
  /-- CAGE_PWR_MAX_RAISE (R534): A PORT_CAGE_CTRL write raising PWR_MAX re-runs the power check for a cage in REFUSED_POWER. -/
  | cagePwrMaxRaise (m : Nat) (port : Nat) (data : Word)
  /-- MODULE_ACCESS (R100): PORT_MOD_CMD.GO starts a one-byte module access, refused for device-managed bytes while MANUAL is 0. -/
  | moduleAccess (m : Nat) (port : Nat) (data : Word)
  /-- MODULE_ACCESS_DONE (R100): A module access completes and BUSY clears with DATA or ERR. -/
  | moduleAccessDone (port : Nat) (ack : Bool) (data : Nat)
  /-- OVERHEAD_BLOCK_RECEIVE (R107): A FlexE overhead block arrives and drives frame and multiframe lock, CRC checks, and received C, CR and CA. -/
  | overheadBlockReceive (port : Nat) (inst : Nat) (pos : Nat) (pattern : Nat × Nat × Nat) (crcOk : Bool) (omf : Bool) (c : Bool) (cr : Bool) (ca : Bool) (rpf : Bool) (groupNum : Nat) (phyNum : Nat) (slotA : Nat) (slotB : Nat)
  /-- CALENDAR_SWITCH (R113): Writing FLX_CAL_CTRL.SWITCH starts an exchange to the inactive transmit calendar; a write while pending is ignored. -/
  | calendarSwitch (m : Nat) (group : Nat)
  /-- CALENDAR_EXCHANGE_STEP (R113): At a transmit multiframe or overhead frame start the exchange advances: carry contents, set CR, or flip C and swap any armed XC page. -/
  | calendarExchangeStep (group : Nat) (multiframe : Bool)
  /-- CALENDAR_CA_TIMEOUT (R114): CA has not arrived 100 ms after CR: CR is withdrawn, the old calendar kept and an armed XC switch cancelled. -/
  | calendarCaTimeout (group : Nat)
  /-- XC_SWITCH (R118): XC_SWITCH.GO checks every STANDBY entry and swaps or arms the connection pages, or refuses with a code. -/
  | xcSwitch (m : Nat) (data : Word)
  /-- DEFECT_ENTRY (R123): A port, instance, group or client defect meets its entry criterion, suppresses lower defects and triggers consequent actions. -/
  | defectEntry (scope : Nat) (index : Nat) (defect : Nat)
  /-- DEFECT_EXIT (R123): A defect meets its exit criterion; lower defects are judged afresh and consequent actions removed. -/
  | defectExit (scope : Nat) (index : Nat) (defect : Nat)
  /-- PM_SECOND (R128): At each TAI second boundary each port and client second is judged ES or SES and availability and counts are updated. -/
  | pmSecond (client : Bool) (index : Nat) (errored : Nat) (units : Nat × List Nat)
  /-- RX_FIFO_DEQUEUE (R230): A frame with a complete parse window leaves the receive FIFO into its bucket's ingress input queue when it has room. -/
  | rxFifoDequeue (port : Nat)
  /-- INGRESS_PASS (R222): An ingress half takes a packet from its input queue and parses, matches, looks up and runs actions for one pass. -/
  | ingressPass (pipe : Nat) (flips : List (Nat × Nat)) (ctrs : List Nat)
  /-- RECIRC_PASS (R243): A recirculated packet re-enters its ingress half and continues its lookup at the next candidate. -/
  | recircPass (pipe : Nat) (flips : List (Nat × Nat))
  /-- EGRESS_PASS (R133): An egress half reparses a released packet, reads the egress next hop, runs egress lists and rewrites headers. -/
  | egressPass (pipe : Nat) (flips : List (Nat × Nat))
  /-- FRAME_TRANSMIT (R239): An egress port begins a frame when the packet is whole or the receive speed suffices, ending it with the stomp value on an underrun. -/
  | frameTransmit (port : Nat) (underrun : Bool)
  /-- TX_SEQ_RELEASE (R233): A port's transmit stage releases packets from the egress halves to the MAC in transmit-sequence order. -/
  | txSeqRelease (port : Nat)
  /-- TX_GAP_TIMEOUT (R234): A missing sequence value 4 µs after a later one is passed and counted as a transmit gap. -/
  | txGapTimeout (port : Nat)
  /-- BUCKET_WRITE (R227): A software write to PIPE_BUCKET stays pending until the bucket drains. -/
  | bucketWrite (m : Nat) (bucket : Nat) (data : Word)
  /-- BUCKET_MOVE (R226): A bucket with no packet in its old pipeline moves to its new logical pipeline. -/
  | bucketMove (bucket : Nat)
  /-- SEED_WRITE (R181): A hash seed write is accepted only while every keyed family of the page is empty, otherwise discarded. -/
  | seedWrite (m : Nat) (page : Nat) (off : Nat) (data : Word)
  /-- LPM_MEM_USE_WRITE (R177): A write giving a shared bank to a family takes effect only if the families concerned are empty and limits hold, otherwise it is refused. -/
  | lpmMemUseWrite (m : Nat) (off : Nat) (data : Word)
  /-- LPM_REBUILD_START (R193): REBUILD4 or REBUILD6 starts a rebuild of the family's length filter. -/
  | lpmRebuildStart (v6 : Bool)
  /-- LPM_REBUILD_DONE (R193): A rebuild ends and the filter images swap between two lookups. -/
  | lpmRebuildDone (v6 : Bool)
  /-- STASH_REINSERT (R178): In the background the device moves a stash entry back into a bucket as room appears. -/
  | stashReinsert (family : Nat) (index : Nat)
  /-- LEARNER_APPLY (R210): A learner takes a queued event and inserts or moves a MAC entry, or discards it at the limit or when FULL. -/
  | learnerApply (pipe : Nat)
  /-- L2B_NTF_POP (R218): Reading L2B_NTF_DATA3 removes the oldest notification. -/
  | l2bNtfPop (m : Nat)
  /-- TCAM_SCRUB_ROW (R159): The scrubber compares a row with its shadow, rewrites a mismatch and reports hard bank faults and shadow errors. -/
  | tcamScrubRow (flips : List (Nat × Nat)) (uncorr : Nat)
  /-- TCAM_BANK_LOAD_DONE (R160): A takeover or power-up load of a TCAM bank from the shadow completes and the bank is searched again. -/
  | tcamBankLoadDone (bank : Nat)
  /-- STAGING_ADMIT (R261): A packet crossing to the TM die is admitted to ingress staging or refused with 0xB0 or 0xB1. -/
  | stagingAdmit (src : Nat)
  /-- REQ_SEND (R351): A source sends a REQ covering 1 to 4 staged packets of one destination queue. -/
  | reqSend (dev : Nat) (queue : Nat)
  /-- REQ_RECEIVE (R294): The destination tests each packet of a REQ, reserves for grants and returns an ANS, or answers from an existing record. -/
  | reqReceive (link : Nat) (src : Nat) (msg : List Word)
  /-- ANS_RECEIVE (R351): The source acts on each verdict: sends cells for a grant, discards on refusal or expiry, waits on hold. -/
  | ansReceive (link : Nat) (src : Nat) (msg : List Word)
  /-- HOLD_CLEAR (R294): A held request's condition clears and the destination sends an ANS with the new verdict. -/
  | holdClear (src : Nat) (seq : Nat)
  /-- REQ_RESEND (R353): With no ANS after 20 µs, or after HOLD, the source re-sends the REQ; after REQ_TRIES it discards with 0xD7. -/
  | reqResend (dev : Nat) (seq : Nat)
  /-- GRANT_EXPIRE (R354): A grant whose first cell has not arrived within GRANT_TMO_US expires and its reservation is released. -/
  | grantExpire (src : Nat) (seq : Nat)
  /-- RELEASE_RECEIVE (R355): A RELEASE message frees the matching grant's reservation. -/
  | releaseReceive (link : Nat) (src : Nat) (msg : List Word)
  /-- MC_ACK_RECEIVE (R377): An MC_ACK returns window bytes to the source, clamped and counted when excessive. -/
  | mcAckReceive (link : Nat) (src : Nat) (msg : List Word)
  /-- UNREACH_TIMEOUT (R357): A packet whose destination has stayed unreachable for UNREACH_MS is discarded with 0xD0. -/
  | unreachTimeout (dev : Nat)
  /-- CELL_RECEIVE (R334): A cell arrives on a fabric link and is discarded or delivered into its stream's reorder. -/
  | cellReceive (link : Nat) (cell : List Byte) (bad : Bool × Nat)
  /-- CELL_REORDER_TIMEOUT (R346): A gap held for REORDER_US is skipped; the packet is discarded with 0xD1 or a SLOT cell replaced by all-ones. -/
  | cellReorderTimeout (src : Nat) (stream : Nat)
  /-- LINK_CELL_RECEIVE (R338): A LINK cell (HELLO, DOWN, REACH, FC, TEST) updates the link's peer, reach and flow-control state. -/
  | linkCellReceive (link : Nat) (cell : List Byte) (bad : Bool × Nat)
  /-- REACH_TIMEOUT (R343): A link with no REACH for 1 ms reaches no device. -/
  | reachTimeout (link : Nat)
  /-- FABRIC_LINK_RESTART (R339): FLC_LINK_CTRL.RESTART returns the link to TRAINING with a new transmit generation. -/
  | fabricLinkRestart (m : Nat) (link : Nat)
  /-- FABRIC_LINK_TRAINED (R339): Lane training ends and the link moves to ALIGN, or returns to TRAINING after 200 ms. -/
  | fabricLinkTrained (link : Nat) (ok : Bool)
  /-- FABRIC_LINK_ALIGN_END (R339): FEC and marker lock is reached within 1 ms to TEST, or the link returns to TRAINING. -/
  | fabricLinkAlignEnd (link : Nat) (locked : Bool)
  /-- FABRIC_LINK_TEST_END (R339): After 10 ms of test the link moves to HOLDOFF or goes DOWN with cause 10. -/
  | fabricLinkTestEnd (link : Nat) (bad : Bool)
  /-- FABRIC_LINK_HOLDOFF_END (R339): HOLDOFF_MS elapses without a down cause and the link is UP. -/
  | fabricLinkHoldoffEnd (link : Nat)
  /-- FABRIC_LINK_DOWN (R340): A down cause takes the link out of UP, TEST or HOLDOFF, withdraws it from spraying and forgets the peer generation. -/
  | fabricLinkDown (link : Nat) (cause : Nat) (uncorr : Nat)
  /-- FABRIC_LINK_DOWN_END (R339): 1 ms after DOWN the link returns to TRAINING, or to FAILED at FLAP_LIMIT. -/
  | fabricLinkDownEnd (link : Nat)
  /-- MC_SEND (R375): A multicast packet is sent once every member device's window has room, taking from each window. -/
  | mcSend (grp : Nat)
  /-- SLOT_PLAYOUT (R373): A receive channel plays out SLOT cells after its jitter buffer, playing all-ones on underrun. -/
  | slotPlayout (chan : Nat)
  /-- SPILL_BATCH (R267): The spill engine sends a batch from TAIL to HBM or the Granary, or marks the queue BLOCKED. -/
  | spillBatch (queue : Nat) (accs : Nat × List Nat)
  /-- SPILL_WRITE_ACK (R266): The lower tier acknowledges a batch, which leaves TAIL and joins MIDDLE as a segment. -/
  | spillWriteAck (queue : Nat)
  /-- SEGMENT_READ_DONE (R268): A segment read completes and joins HEAD in MIDDLE order, discarding expired packets and resolving twins. -/
  | segmentReadDone (queue : Nat) (seg : Nat) (hdrUe : Nat) (desc : List Nat) (payload : List Nat) (ce : List Nat) (ue : List Nat) (accs : List Nat)
  /-- REGION_IDLE_OFFER (R256): A tier-3 region unassigned for 1 s is offered for partial-array self-refresh. -/
  | regionIdleOffer (sru : Nat)
  /-- BUF_AGE_SWEEP (R278): The age sweeper visits queue heads at least every 1 ms and discards expired packets with 0xB6. -/
  | bufAgeSweep (late : Bool)
  /-- QUEUE_FLUSH (R280): QM_FLUSH.GO discards with 0xC7 every packet the queue holds in any tier. -/
  | queueFlush (m : Nat) (data : Word)
  /-- SCHED_SELECT (R303): When an L0 node can accept a packet, selection walks the tree and releases the chosen queue's head packet. -/
  | schedSelect (port : Nat)
  /-- GATE_ENTRY_CHANGE (R318): Device time reaches the next gate-list entry or cycle start and gate states change, ending FIT_WAIT at openings. -/
  | gateEntryChange (port : Nat)
  /-- GATE_LIST_CHANGE (R325): At instant T the pending list becomes operational and MAX_OPEN is recomputed. -/
  | gateListChange (port : Nat)
  /-- SPD_READ (R389): At enable each DDRC reads and checks SPD bytes of each hub and switches it to I3C. -/
  | spdRead (ch : Nat) (slot0 : List Nat) (slot1 : List Nat)
  /-- SPD_CMD (R391): DDRC_SPD_CMD.GO reads one SPD byte for software. -/
  | spdCmd (m : Nat) (ch : Nat) (data : Word)
  /-- SPD_CMD_DONE (R391): A software SPD read completes with DATA or ERR. -/
  | spdCmdDone (ch : Nat) (ack : Bool) (data : Nat)
  /-- MODULE_TEMP_POLL (R390): Every 100 ms the DDRC reads hub temperatures, doubling refresh or throttling above thresholds. -/
  | moduleTempPoll (ch : Nat) (t0 : Int) (t1 : Int)
  /-- MEM_TRAINING_DONE (R399): A stack or channel completes or fails start-up training; failure excludes it. -/
  | memTrainingDone (target : Nat) (ok : Bool) (lanes : List Nat)
  /-- CONTROL_AREA_FILLED (R399): A tier's control area is zero-filled and the tier becomes READY. -/
  | controlAreaFilled (granary : Bool)
  /-- RETRAIN_PAUSE (R401): Every RETRAIN_MS a stack or channel makes a retraining pause of at most 2 µs. -/
  | retrainPause (target : Nat) (drift : Bool) (lanes : List Nat)
  /-- RETRAIN_REPEAT (R402): A pause finding uncorrectable drift repeats 10 µs later; three failures take the target out of service. -/
  | retrainRepeat (target : Nat) (drift : Bool)
  /-- MEM_SCRUB (R410): The scrubber reads buffer regions and control area once per SCRUB_H hours, poisoning uncorrectable words. -/
  | memScrub (target : Nat) (ce : List Nat) (ue : List Nat)
  /-- MEM_OUT_OF_SERVICE (R414): A stack or channel goes out of service; its tier's segments are discarded and tier 2 rebuilds or the Granary is LOST. -/
  | memOutOfService (target : Nat)
  /-- GRANARY_REENABLE (R414): GRN_CFG.EN written 0 then 1 retrains matching channels and rebuilds the Granary. -/
  | granaryReenable (m : Nat) (data : Word)
  /-- TIME_SOURCE_MEASURE (R423): A source offset measurement moves the state towards LOCKED or reports loss. -/
  | timeSourceMeasure (present : Bool × Bool) (offset : Int)
  /-- PPS_IN_EDGE (R425): A PPS_IN edge captures device time and is used as a whole second when the source is PPS. -/
  | ppsInEdge (falling : Bool)
  /-- TOD_RX_LINE (R427): A TOD_RX line is accepted for seconds if its checksum and timing pass, else ignored with TOD_ERR. -/
  | todRxLine (line : List Byte)
  /-- TSF_POP (R432): Reading PTP_TSF_DATA3 removes the oldest timestamp entry. -/
  | tsfPop (m : Nat)
  /-- BFD_TX (R445): The session engine transmits a BFD control packet at the jittered interval. -/
  | bfdTx (sess : Nat)
  /-- BFD_DETECT_EXPIRE (R446): Detection time expires: the session goes Down and the ECMP member may be invalidated. -/
  | bfdDetectExpire (sess : Nat)
  /-- CCM_TX (R448): A MEP sends a CCM at its period. -/
  | ccmTx (mep : Nat)
  /-- CFM_DEFECT_EXPIRE (R449): 3.5 periods without a valid or erroneous CCM enter LOC or exit ERROR or XCON. -/
  | cfmDefectExpire (mep : Nat)
  /-- SERVICE_CORE_PACKET (R439): A service core takes a packet from its queue and finishes it before removing it. -/
  | serviceCorePacket (core : Nat)
  /-- RTX_COPY_EXPIRE (R450): A stored copy is removed RETAIN_MS after it was stored. -/
  | rtxCopyExpire (flow : Nat)
  /-- MERGE_LEG_TIMEOUT (R456): A leg with no packet for 100 ms clears its OK flag and notifies. -/
  | mergeLegTimeout (grp : Nat) (leg : Nat)
  /-- REC_READOUT (R458): READOUT writes a recorder's records to its queue pair, oldest first. -/
  | recReadout (m : Nat) (rec : Nat) (data : Word)
  /-- REC_REPLAY (R459): REPLAY injects a recorder's records into a queue at recorded spacing or unpaced. -/
  | recReplay (m : Nat) (rec : Nat) (data : Word)
  /-- REC_DONE (R459): A readout or replay ends, BUSY clears and REC_DONE is set. -/
  | recDone (rec : Nat)
  /-- SVC_NTF_POP (R446): Reading SVC_NTF_DATA3 removes the oldest service notification. -/
  | svcNtfPop (m : Nat)
  /-- DB_TX_TAIL (R468): A TX_TAIL doorbell write makes TX descriptors up to the index available, or is discarded. -/
  | dbTxTail (fn : Nat) (tag : Bool) (pasid : Nat) (page : Nat) (data : Word)
  /-- DB_RX_TAIL (R468): An RX_TAIL doorbell write posts RX buffers. -/
  | dbRxTail (fn : Nat) (tag : Bool) (pasid : Nat) (page : Nat) (data : Word)
  /-- DB_CQ_HEAD (R478): A CQ_HEAD doorbell write frees completion-ring entries. -/
  | dbCqHead (fn : Nat) (tag : Bool) (pasid : Nat) (page : Nat) (data : Word)
  /-- DB_ARM (R479): An ARM doorbell write re-arms the queue pair's interrupt. -/
  | dbArm (fn : Nat) (tag : Bool) (pasid : Nat) (page : Nat) (data : Word)
  /-- QPC_WRITE (R495): A doorbell-page control-area write acts as a QP table write with the same checks. -/
  | qpcWrite (fn : Nat) (tag : Bool) (pasid : Nat) (page : Nat) (off : Nat) (data : Word)
  /-- TX_DESC_FETCH (R473): The DMA engine fetches the next TX work in rotation and starts its buffer read or completes it BAD_DESC. -/
  | txDescFetch (desc : List Word)
  /-- TX_READ_DONE (R473): The last byte of a TX packet is read; the packet enters staging or the FE die and a completion is written. -/
  | txReadDone (qp : Nat) (status : Nat) (bytes : List Byte)
  /-- TX_RATE_WAIT (R504): A descriptor finding the instance meter negative waits until it may proceed. -/
  | txRateWait (qp : Nat)
  /-- RECORD_WRITE (R478): A record for a queue pair is written into a posted RX buffer, or discarded with 0xF2 or 0xF3. -/
  | recordWrite (qp : Nat) (desc : List Word)
  /-- COAL_TIMEOUT (R479): COAL_US after the first counted completion an armed queue pair signals. -/
  | coalTimeout (qp : Nat)
  /-- DMA_READ_TIMEOUT (R485): A DMA read times out: AER logged, Contained fault, completion with READ_TIMEOUT and the queue pair enters ERROR. -/
  | dmaReadTimeout (qp : Nat) (descriptors : Bool)
  /-- LATE_COMPLETION (R486): A completion for a timed-out request is discarded and logged as Unexpected Completion. -/
  | lateCompletion (qp : Nat)
  /-- QP_DRAINED (R487): A queue pair draining after EN = 0 completes its issued requests and becomes DISABLED, clearing its fault. -/
  | qpDrained (qp : Nat)
  /-- CONTAINMENT_ENTER (R488): A link-down, reset, PERST, fatal TLP, internal error or PF0 FLR puts the endpoint in containment. -/
  | containmentEnter (cause : Nat)
  /-- CONTAIN_RELEASE (R489): PCIE_CONTAIN.RELEASE ends containment when the link is up, bus mastering enabled and the cause gone, else is refused. -/
  | containRelease (m : Nat) (data : Word)
  /-- BAR4_WRITE (R466): A write to a BAR4 window is discarded and captured as WINDOW_WRITE. -/
  | bar4Write (m : Nat) (addr : Nat) (data : Word)
  /-- VIRT_NOP (R506): VIRT command NOP. -/
  | virtNop (m : Nat) (data : Word)
  /-- VIRT_CREATE (R500): CREATE checks a FREE entry's ranges and PASID and makes the instance ACTIVE. -/
  | virtCreate (m : Nat) (data : Word)
  /-- VIRT_QUIESCE (R507): QUIESCE moves an ACTIVE instance to QUIESCING, stopping fetches and discarding its doorbells and records. -/
  | virtQuiesce (m : Nat) (data : Word)
  /-- VIRT_QUIESCED (R507): No DMA of the instance remains outstanding and it becomes QUIESCED. -/
  | virtQuiesced (inst : Nat)
  /-- QUIESCE_READ_TIMEOUT (R507): A read still outstanding 50 ms into QUIESCING is ended internally as a timeout. -/
  | quiesceReadTimeout (inst : Nat)
  /-- VIRT_RESUME (R506): RESUME returns a QUIESCED instance to ACTIVE. -/
  | virtResume (m : Nat) (data : Word)
  /-- VIRT_RESET (R508): RESET returns the instance's queue pairs and vectors to reset values and increments GEN. -/
  | virtReset (m : Nat) (data : Word)
  /-- VIRT_REMOVE (R508): REMOVE returns the instance's queue pairs to PF0 and writes the entry FREE. -/
  | virtRemove (m : Nat) (data : Word)
  /-- VF_FLR (R509): A VF function-level reset ends its DMA and applies RESET within 100 ms. -/
  | vfFlr (vf : Nat)
  /-- VF_ENABLE_CHANGE (R493): Clearing VF Enable or changing NumVFs resets every affected VF. -/
  | vfEnableChange (enable : Bool) (num : Nat)
  /-- COLD_START (R520): Supplies in range, PWR_GOOD high and RESET_N high start the cold start at stage POWER. -/
  | coldStart (slot : Nat)
  /-- STAGE_ADVANCE (R520): A start-up stage completes and the device enters the next stage. -/
  | stageAdvance (ok : Bool) (defects : List Nat)
  /-- POWER_FAIL_WARNING (R514): PWR_GOOD falls or VIN12 is low 10 µs: PF_WARN is set and no new store write begins. -/
  | powerFailWarning (pin : Bool)
  /-- RESET_N_ASSERT (R517): RESET_N low for at least 1 µs resets as main power-on; shorter than 100 ns is ignored. -/
  | resetNAssert (ns : Nat)
  /-- MAIN_RESTART (R536): DEV_CTRL.MAIN_RESTART from PF0 or JTAG restarts the main core only. -/
  | mainRestart (m : Nat) (data : Word)
  /-- SELF_TEST_PASS_END (R549): A self-test pass of a unit ends, qualifying it or counting a failure. -/
  | selfTestPassEnd (cls : Nat) (unit : Nat) (pass : Bool)
  /-- EPOCH_BOUNDARY (R553): At each 1 µs epoch boundary the scarf store applies a unit's epoch if its mark arrives whole within 100 ns. -/
  | epochBoundary (cls : Nat) (unit : Nat) (whole : Bool)
  /-- UNIT_ERROR_REPORT (R556): A unit parity, checker, heartbeat or memory error triggers a fault takeover. -/
  | unitErrorReport (cls : Nat) (unit : Nat) (fault : Nat × Nat)
  /-- FAULT_TAKEOVER (R557): A declared unit is fenced, a new generation assigned and a qualified spare loaded to take its logical number. -/
  | faultTakeover (cls : Nat)
  /-- TAKEOVER_LOAD_DONE (R557): The spare takes the logical number as ACTIVE and the held queue is released. -/
  | takeoverLoadDone (cls : Nat)
  /-- QUARANTINE_END (R565): The fenced unit's reset and self-test end and it becomes SPARE or FAILED. -/
  | quarantineEnd (cls : Nat) (unit : Nat) (pass : Bool)
  /-- PLANNED_HANDOVER (R558): A unit's place moves to a spare without loss after draining and final epoch copy. -/
  | plannedHandover (cls : Nat) (unit : Nat)
  /-- LKUP_COPY_DONE (R559): A lookup bank copy completes and the device switches banks, poisoning uncorrectable words. -/
  | lkupCopyDone (bad : List Nat)
  /-- REVERT_HOLD_END (R567): A home spare that passed hold-off takes its logical number back by planned handover. -/
  | revertHoldEnd (cls : Nat) (unit : Nat)
  /-- RPR_NOP (R556): RPR command NOP. -/
  | rprNop (m : Nat) (data : Word)
  /-- RPR_HANDOVER (R556): RPR command HANDOVER makes a planned handover followed by quarantine. -/
  | rprHandover (m : Nat) (data : Word)
  /-- RPR_TEST (R551): RPR command TEST rotates the unit now. -/
  | rprTest (m : Nat) (data : Word)
  /-- RPR_RETIRE (R565): RPR command RETIRE makes the unit FAILED. -/
  | rprRetire (m : Nat) (data : Word)
  /-- RPR_UNRETIRE (R641): RPR command UNRETIRE removes a UNIT_FAILED record under presence. -/
  | rprUnretire (m : Nat) (data : Word)
  /-- RPR_REVERT (R567): RPR command REVERT reverts to the home unit now without hold-off. -/
  | rprRevert (m : Nat) (data : Word)
  /-- RPR_EVT_POP (R552): Reading RPR_EVT_DATA3 removes the oldest repair event. -/
  | rprEvtPop (m : Nat)
  /-- CRIER_RECEIVE (R581): The collector extends a crier message's time, logs it and opens or updates an OPEN entry. -/
  | crierReceive (page : Nat)
  /-- FATAL_DETECT (R586): A Fatal condition drives the safe-state line and the device enters the safe state. -/
  | fatalDetect (page : Nat) (kind : Nat) (addr : Nat)
  /-- CRY_LOG_POP (R581): Reading CRY_LOG_DATA5 removes the oldest log entry. -/
  | cryLogPop (m : Nat)
  /-- FATAL_CAPTURE_CLEAR (R584): A write of 1 to CRY_FATAL_STAT.VALID clears the capture unless the Fatal latch is set. -/
  | fatalCaptureClear (m : Nat)
  /-- SNAPSHOT_GO (R602): CNT_SNAP.GO starts one snapshot 1 µs after acceptance. -/
  | snapshotGo (m : Nat) (data : Word)
  /-- DUMP_ENABLE (R605): Setting CNT_DUMP_CFG.EN checks size and alignment, or keeps EN 0 with CFG_ERR. -/
  | dumpEnable (m : Nat) (data : Word)
  /-- UPD_NOP (R637): UPD command NOP. -/
  | updNop (m : Nat) (data : Word)
  /-- UPD_BEGIN (R629): BEGIN writes the target slot PARTIAL and erases it. -/
  | updBegin (m : Nat) (data : Word)
  /-- UPD_BLOCK (R629): BLOCK fetches image bytes by DMA and writes them into the slot. -/
  | updBlock (m : Nat) (data : Word) (bytes : List Byte) (badReads : Nat)
  /-- UPD_VERIFY (R630): VERIFY unwraps the key, checks every section tag and writes the slot VERIFIED. -/
  | updVerify (m : Nat) (data : Word)
  /-- UPD_ACTIVATE (R631): ACTIVATE puts the slot on trial and restarts the main core, starts the rolling update or writes a key slot. -/
  | updActivate (m : Nat) (data : Word)
  /-- UPD_CONFIRM (R635): CONFIRM writes the trial slot GOOD and raises MIN_SVN. -/
  | updConfirm (m : Nat) (data : Word)
  /-- UPD_REVERT (R633): REVERT writes the trial slot BAD and returns to the fallback slot. -/
  | updRevert (m : Nat) (data : Word)
  /-- UPD_ABORT (R629): ABORT makes the target slot EMPTY. -/
  | updAbort (m : Nat) (data : Word)
  /-- UPD_REVOKE (R625): REVOKE revokes a key slot under presence. -/
  | updRevoke (m : Nat) (data : Word)
  /-- UPD_SNAP_SAVE (R638): SNAP_SAVE writes a configuration snapshot into the unmarked slot. -/
  | updSnapSave (m : Nat) (data : Word)
  /-- UPD_SNAP_MARK (R638): SNAP_MARK marks a valid snapshot slot for start-up. -/
  | updSnapMark (m : Nat) (data : Word)
  /-- UPD_SNAP_CLEAR (R638): SNAP_CLEAR removes a snapshot's start-up mark. -/
  | updSnapClear (m : Nat) (data : Word)
  /-- STORE_WRITE (R616): A record write to the store runs erase, data, header and commit steps in an unused area. -/
  | storeWrite (badReads : Nat)
  /-- STORE_WRITE_DONE (R617): A store record's commit page is programmed and the new record stands. -/
  | storeWriteDone (journal : Bool)
  /-- PPR_NOP (R641): PPR command NOP. -/
  | pprNop (m : Nat) (data : Word)
  /-- PPR_BREACH_ACK (R653): BREACH_ACK under presence clears BREACH and LOST while the seal is closed. -/
  | pprBreachAck (m : Nat) (data : Word)
  /-- PPR_RTC_SET (R641): RTC_SET under presence arms a load of the RTC at the next RTC second. -/
  | pprRtcSet (m : Nat) (data : Word)
  /-- PPR_JTAG_UNLOCK (R643): JTAG_UNLOCK under presence opens internal access through the TAP. -/
  | pprJtagUnlock (m : Nat) (data : Word)
  /-- PPR_JTAG_LOCK (R643): JTAG_LOCK returns the TAP to boundary scan only. -/
  | pprJtagLock (m : Nat) (data : Word)
  /-- PPR_CLOSE (R640): CLOSE closes the presence window. -/
  | pprClose (m : Nat) (data : Word)
  /-- SEAL_TEST (R644): Every 31.25 ms the backup domain tests the seal loop and may change the seal state. -/
  | sealTest (pass : Bool)
  /-- VBAT_MEASURE (R650): The backup domain measures VBAT and sets or clears CELL_LOW. -/
  | vbatMeasure (mv : Nat)
  /-- JNL_UNIT_WRITE (R665): With records awaiting persistence the device writes a unit of up to 256 records to the persisted ring. -/
  | jnlUnitWrite (badReads : Nat)
  /-- JNL_HOST_ENABLE (R664): JNL_HOST_CFG.EN rising starts delivery from JNL_HOST_START. -/
  | jnlHostEnable (m : Nat) (data : Word)
  /-- SENSOR_READ (R680): Every 100 µs the junction sensors are read and THERM_ALERT_N updated. -/
  | sensorRead (temps : List Int)
  /-- MODULE_INTERRUPT (R96): A change of MOD_INT_N on a cage sets or clears PORT_CAGE_STAT.INT and raises PORT BLOCK_INT bit 23. -/
  | moduleInterrupt (port : Nat) (asserted : Bool)
  /-- DATA_LINK_UP (R461): The PCIe data link comes up again after a link-down, hot reset or containment, and configuration requests are answered from ROM. -/
  | dataLinkUp (speed : Nat) (width : Nat) (conf : Word)
  /-- MSIX_UNMASK (R482): Software unmasks an MSI-X vector and a message pending on it is sent. -/
  | msixUnmask (fn : Nat) (vec : Nat) (addr : Nat) (data : Word)
  /-- VSB33_LOSS (R646): VSB33 leaves its range: the always-on domain stops and the backup domain runs from VBAT. -/
  | vsb33Loss (vbat : Bool)
  /-- PIPE_HOLD_SPREAD (R570): After 100 µs of holding a pipeline's input queue for a queued recovery, its buckets are spread over the remaining pipelines. -/
  | pipeHoldSpread (pipe : Nat)
  /-- HANDOVER_DONE (R558): A planned handover completes after drain and final epoch copy, the new unit takes the place and RPR_CMD_STAT BUSY ends. -/
  | handoverDone (cls : Nat)
  /-- RESEND_READ_DONE (R453): A retransmission-store read completes, the copy lands in a tier-1 buffer and is enqueued in RTX_QUEUE. -/
  | resendReadDone (flow : Nat)
  /-- ROW_REPAIR_DONE (R411): A row repair completes and accesses waiting on the bank group resume. -/
  | rowRepairDone (target : Nat)
  /-- FAB_SYS_ENABLE (R356): A write of FAB_SYS_CFG.EN or STANDALONE turns the fabric interface on or off, drawing a new EPOCH on a rising edge. -/
  | fabSysEnable (m : Nat) (data : Word)
  /-- PTP_MESSAGE_GENERATION (R431): The service-core firmware sends Sync, Announce, Delay_Req or Pdelay_Req messages at the profile's rates. -/
  | ptpMessageGeneration (port : Nat) (type : Nat)
  /-- DIE_LINK_LOSS (R36): With no working module for 10 µs, outstanding reads get error responses, writes are counted lost and the device goes Fatal. -/
  | dieLinkLoss
  /-- XC_COPY_DONE (R120): The copy of the new ACTIVE page into STANDBY completes and PEND clears. -/
  | xcCopyDone
  /-- BUCKET_REBALANCE (R227): Every 10 µs under AUTO the distributor moves one busy bucket from the most to the least loaded pipeline. -/
  | bucketRebalance
  /-- AGE_SWEEP (R215): The sweeper visits a MAC bucket and clears HIT, sets STALE or removes the entry. -/
  | ageSweep
  /-- STAGING_AGE_EXPIRE (R263): A packet that has waited AGE_MS in staging is discarded with 0xB5. -/
  | stagingAgeExpire
  /-- MERGE_JUDGE (R455): A hitless-merge leg packet whose tail arrived is passed or discarded by its extended sequence number. -/
  | mergeJudge
  /-- QUEUE_FLUSH_DONE (R280): A flush completes and BUSY clears. -/
  | queueFlushDone
  /-- MILL_SETTLE_END (R312): SHP_SETTLE after its last cause ends, a node leaves mill-wheel pacing with empty buckets. -/
  | millSettleEnd
  /-- ACT_TABLE_CLEAR (R405): Every 32 ms the activate-count tables are cleared. -/
  | actTableClear
  /-- TIER2_REBUILD_DONE (R286): Tier 2 finishes rebuilding over the remaining stacks and takes spill again. -/
  | tier2RebuildDone
  /-- TIME_STEP_AT_SECOND (R421): A pending AT_SEC step takes place at the next whole second and PENDING clears. -/
  | timeStepAtSecond
  /-- SLEW_END (R422): A slew completes its offset. -/
  | slewEnd
  /-- HOLDOVER_ENTER (R424): Loss of the source enters HOLDOVER and frequency is held or locked to REF10M_IN. -/
  | holdoverEnter
  /-- PPS_OUT_EDGE (R426): PPS_OUT rises PPS_OUT_ADV_NS before each whole second while TIME_VALID. -/
  | ppsOutEdge
  /-- TOD_TX_LINE (R427): TOD_TX sends one line 100–500 ms after each PPS_OUT edge. -/
  | todTxLine
  /-- REFCLK_LOSS (R676): REFCLK absent 10 µs moves the transmit synthesisers to the always-on resonator. -/
  | refclkLoss
  /-- REFCLK_RETURN (R676): REFCLK present for 1 ms returns the synthesisers to it in small steps. -/
  | refclkReturn
  /-- BFD_RX (R437): A BFD control packet taken by the service unit confirms the session or goes to its owning service core. -/
  | bfdRx
  /-- CCM_RX (R449): A received CCM updates the MEP's defects. -/
  | ccmRx
  /-- BLOCK_IRQ_REPEAT (R482): While the block summary stays nonzero vector 0 is signalled again every 1 ms. -/
  | blockIrqRepeat
  /-- L1_ENTRY (R484): After L1_IDLE_US with no work the endpoint starts L1 entry. -/
  | l1Entry
  /-- PERST_RELEASE (R461): PERST_N deasserts and the endpoint leaves reset and brings up its link. -/
  | perstRelease
  /-- REFCLK_PRESENT (R521): REFCLK appears and a start waiting at FUSES continues. -/
  | refclkPresent
  /-- RAIL_FAIL (R513): A die rail not within limits 4 ms after cold start stops the start and goes Fatal. -/
  | railFail
  /-- MAIN_BOOT_TIMEOUT (R524): The main core not at CORES 2 s after boot is restarted by the boot ROM. -/
  | mainBootTimeout
  /-- POWER_FAIL_CLEAR (R514): PWR_GOOD rises with VIN12 in range and PF_WARN clears; stopped store writes restart. -/
  | powerFailClear
  /-- MAIN_POWER_ON_RESET (R515): VIN12 below 10.8 V for 100 µs resets both dies and stops lane drive. -/
  | mainPowerOnReset
  /-- STANDBY_POWER_ON_RESET (R516): VSB33 rising from below 2.5 V resets the always-on domain. -/
  | standbyPowerOnReset
  /-- WATCHDOG_EXPIRE (R540): The main-core watchdog expires: Contained fault, Degraded on the third in 600 s, and a warm restart. -/
  | watchdogExpire
  /-- MAIN_MEM_UE (R536): An uncorrectable error in main-core memory triggers a warm restart. -/
  | mainMemUe
  /-- MAIN_UP (R539): The restarted main core sets MAIN_UP and reads every block's state. -/
  | mainUp
  /-- ROTATION (R550): Every ROT_MIN minutes one working unit of each rotated class is handed over and tested. -/
  | rotation
  /-- PEG_WRITE (R548): A peg-map change is written as a new copy with the next sequence number. -/
  | pegWrite
  /-- FIRST_WINDOW_CLOSE (R583): 2 µs after the first qualifying message CRY_FIRST captures the earliest one. -/
  | firstWindowClose
  /-- FATAL_CAPTURE (R586): The Fatal message is captured in CRY_FATAL 10 µs after detection. -/
  | fatalCapture
  /-- SNAPSHOT_PERIODIC (R602): At each PERIOD_MS multiple of device time a snapshot starts, or is skipped. -/
  | snapshotPeriodic
  /-- DUMP_DONE (R607): The dump's header is written last, TAIL advances and DUMP_DONE is set. -/
  | dumpDone
  /-- TRACE_DMA_WRITE (R613): A buffered trace record is written to the host ring when it has room. -/
  | traceDmaWrite
  /-- UPD_CMD_DONE (R637): An UPD command ends with its result and BUSY clears. -/
  | updCmdDone
  /-- CONFIRM_TIMEOUT (R633): CONFIRM_S of MONO after the trial's MAIN_UP without CONFIRM reverts the trial. -/
  | confirmTimeout
  /-- ROLLING_UPDATE_STEP (R636): The main core replaces one logical service core's firmware through the spare, then moves to the next. -/
  | rollingUpdateStep
  /-- PRESENCE_PRESS (R639): PRESENCE_N low 100 ms opens or restarts the presence window while MAIN_UP, else is logged. -/
  | presencePress
  /-- PRESENCE_RELEASE (R639): PRESENCE_N high 100 ms is recognised as released. -/
  | presenceRelease
  /-- PRESENCE_WINDOW_EXPIRE (R640): WINDOW_S elapses and the presence window closes. -/
  | presenceWindowExpire
  /-- RTC_SET_LOAD (R641): The armed RTC_SET value loads at the next RTC second. -/
  | rtcSetLoad
  /-- BACKUP_DOMAIN_LOST (R651): Start after total loss of VSB33 and VBAT resets the RTC and log and sets LOST and BREACH. -/
  | backupDomainLost
  /-- RTC_LOAD (R647): At each TAI second that is a multiple of 64 with TIME_VALID the RTC is loaded from device time. -/
  | rtcLoad
  /-- JOURNAL_HOLD_RELEASE (R660): A held writer's record is accepted once ring room appears and the write executes. -/
  | journalHoldRelease
  /-- JNL_HOST_WRITE (R664): A backlog record is written to the host ring when it has room. -/
  | jnlHostWrite
  /-- THROTTLE_ENTER (R682): A sensor at 100 °C for 1 ms starts throttling with a Degraded fault. -/
  | throttleEnter
  /-- THROTTLE_EXIT (R682): Every sensor at 97 °C or less for 100 ms ends throttling. -/
  | throttleExit
  /-- THERMAL_SHUTDOWN (R683): A sensor at 115 °C for 10 µs raises THERM_SHUTDOWN and the safe state. -/
  | thermalShutdown
  /-- L1_EXIT (R484): An L1 exit completes within 8 µs, and records and TLPs that waited during L1 proceed. -/
  | l1Exit
  deriving DecidableEq, Repr

end Sys2Proof
end

