-- ==== Sys2Proof/Decode.lean ====
section
/-!
DEFINITION. The rows of the command table carry no bit fields: no word spells a command (log entry 8).
-/
namespace Sys2Proof

/-- The command that a word spells by the table's bits: the table gives none. -/
def decodeTableWord (_nbits _w : Nat) : Option Instr := none

end Sys2Proof
end

