-- ==== Sys2Proof/Config.lean ====
section
/-!
DEFINITION. What an implementation fixes and the values the spec leaves free.  Every value below has no body: nothing can be
proved about it, so a statement that holds holds for every value it could take.
-/
namespace Sys2Proof.Config

/-- A fresh free value, one for each count of State.fresh: the random source of the device (hash seeds R181, EPOCH R356, sampler
and AQM draws R246, R297) and every value the spec leaves open after which the device goes on.  Log entry 2. -/
opaque freeValue : Nat → BitVec 64

/-- The device serial number read from fuses (R462).  Log entry 3. -/
opaque serialNumber : BitVec 64

/-- The hash of a length filter, whose function the spec does not give (R189): by family, banks of the family, key and number of the hash; hash 0 picks the
512-bit block, the others the bits of the block.  Log entry 4. -/
opaque filterHash : Nat → Nat → Nat → Nat → Nat

/-- The fused SHA-384 of the root public key, key slot 0 (R625).  Log entry 5. -/
opaque rootKeyHash : BitVec 384

/-- SHA-384 of bytes (R623, R625), a standard the spec names and does not spell out.  Log entry 5. -/
opaque sha384 : List Nat → BitVec 384

/-- Whether an ECDSA P-384 signature over bytes verifies under a public key (R623, R627): key, message, signature.  Log entry 5. -/
opaque ecdsaVerifies : List Nat → List Nat → List Nat → Bool

/-- The content key unwrapped from WRAPPED_KEY under the product key per RFC 3394; none when its integrity check fails (R623, R630).
Log entry 5. -/
opaque unwrapKey : List Nat → Option (BitVec 256)

/-- Whether an AES-256-GCM tag holds: content key, IV, tag, ciphertext (R623, R630).  Log entry 5. -/
opaque gcmTagOk : BitVec 256 → List Nat → List Nat → List Nat → Bool

/-- What a register that measures a physical quantity of the device reads at a MONO: supply voltages and power (R514, R686), memory temperature
(R390), FlexE skew.  By register key and MONO.  Log entry 6. -/
opaque measured : Nat → Nat → BitVec 32

/-- The blocks of local fault that a destination of the cross-connect receives while its rate-adaptation queue refills, modulo 9, by destination and MONO of the swap (R121). -/
opaque xcRefill : Nat → Nat → Nat

/-- What the physical row of a TCAM bank that is not powered and loaded reads as (R162): its value bits, mask bits and valid bit, by row and MONO.  Log entry 81. -/
opaque lostRow : Nat → Nat → Nat

/-- The blocks that a local FlexE client receives for the cross-connect (R21, R116): by client, group of 29 blocks and place in it, the sync header in bits 65:64.  Log entry 61. -/
opaque clientBlock : Nat → Nat → Nat → BitVec 66

/-- Whether the cross-connect inserts (1) or deletes (2) an idle block for a destination at a MONO, modulo 3 (R122).  Log entry 61. -/
opaque xcAdapt : Nat → Nat → Nat

/-- The 31 bits that precede the TEST pattern of a fabric link (R338), which the spec leaves open: by link and MONO.  Log entry 95. -/
opaque prbsSeed : Nat → Nat → Nat

/-- The bits of a target address above its grain that select a bank, 8 at most, in a stack or a module; the row of a bank that the address bits above those name; and the row bits
that are XORed into the bank (R392), all of which the spec leaves open.  Log entry 83. -/
opaque bankBits : Bool → Nat
opaque rowOf : Bool → Nat → Nat
opaque rowXor : Bool → Nat → Nat

/-- Whether a periodic refresh of a bank falls between two MONOs, at the single or the double rate (R397, R403), whose interval the spec leaves to the memory.  Log entry 83. -/
opaque bankRefreshed : Nat → Nat → Nat → Bool → Bool

/-- Whether the read of a tier-1 buffer at a MONO meets an error that cannot be corrected (R284).  Log entry 97. -/
opaque tier1Bad : Nat → Nat → Bool

/-- Whether a distributor bucket that holds packets drains within the 10 us after a MONO (R227), which lies in what comes later: by bucket and MONO.  Log entry 37. -/
opaque bucketDrains : Nat → Nat → Bool

end Sys2Proof.Config
end

