-- ==== Sys2Proof/Machine/Sparse.lean ====
section
/-!
DEFINITION. Sparse data by key: a list of key and value pairs in one canonical form (keys strictly rising, no pair whose value
is what an unlisted key reads as), and the bit-field helpers every file uses.
-/
namespace Sys2Proof.Machine

/-- Sparse data: pairs of a key and the value held there.  A key that is not listed reads as the default of its store. -/
abbrev Sp (α : Type) := List (Nat × α)

/-- The value held at key `k`; `d` gives what an unlisted key reads as. -/
def Sp.get {α : Type} (d : Nat → α) : Sp α → Nat → α
  | [], k => d k
  | (j, v) :: r, k => if k = j then v else Sp.get d r k

/-- The store without key `k`. -/
def Sp.drop {α : Type} (m : Sp α) (k : Nat) : Sp α := m.filter (fun kv => kv.1 != k)

/-- A pair put in its place among rising keys. -/
def Sp.insert {α : Type} : Sp α → Nat → α → Sp α
  | [], k, v => [(k, v)]
  | (j, w) :: r, k, v => if k < j then (k, v) :: (j, w) :: r else (j, w) :: Sp.insert r k v

/-- The store with `v` at key `k`.  Writing what an unlisted key reads as removes the pair, so equal stores are equal lists. -/
def Sp.set {α : Type} [DecidableEq α] (d : Nat → α) (m : Sp α) (k : Nat) (v : α) : Sp α :=
  if v = d k then Sp.drop m k else Sp.insert (Sp.drop m k) k v

/-- Every key of the list is above `b`, the keys rise strictly, and no pair holds the default: the canonical form. -/
def Sp.canonAbove {α : Type} [DecidableEq α] (d : Nat → α) : Option Nat → Sp α → Bool
  | _, [] => true
  | b, (j, v) :: r =>
    (match b with
      | none => true
      | some x => decide (x < j)) && decide (v ≠ d j) && Sp.canonAbove d (some j) r

/-- The canonical form of a store. -/
def Sp.canon {α : Type} [DecidableEq α] (d : Nat → α) (m : Sp α) : Bool := Sp.canonAbove d none m

/-- The keys a store lists whose value satisfies `q`, in rising order. -/
def Sp.keysWhere {α : Type} (m : Sp α) (q : Nat → α → Bool) : List Nat :=
  (m.filter (fun kv => q kv.1 kv.2)).map Prod.fst

/-- The field [hi:lo] of a bit vector, as a number. -/
def fieldOf {n : Nat} (w : BitVec n) (hi lo : Nat) : Nat := (w.toNat >>> lo) % 2 ^ (hi + 1 - lo)

/-- The bit vector with its field [hi:lo] set to `v` (cut to the field's width). -/
def setFieldOf {n : Nat} (w : BitVec n) (hi lo v : Nat) : BitVec n :=
  let m : BitVec n := BitVec.ofNat n ((2 ^ (hi + 1 - lo) - 1) <<< lo)
  (w &&& ~~~ m) ||| (BitVec.ofNat n ((v % 2 ^ (hi + 1 - lo)) <<< lo))

/-- Bit `b` of a number. -/
def bitOf (n b : Nat) : Bool := n.testBit b

/-- The number with bit `b` set or cleared. -/
def withBit (n b : Nat) (v : Bool) : Nat :=
  if n.testBit b == v then n else if v then n + 2 ^ b else n - 2 ^ b

/-- 1 for true, 0 for false. -/
def b2n (b : Bool) : Nat := if b then 1 else 0

/-- Addition that stops at the largest `w`-bit value (the saturating counters of the register tables). -/
def satAdd (w a b : Nat) : Nat := min (2 ^ w - 1) (a + b)

end Sys2Proof.Machine
end

