-- ==== Sys2Proof/Machine/Records.lean ====
section
/-!
DEFINITION. The records that State holds: one structure or inductive per kind of thing the spec gives the device (table entries,
crier messages, journal records, packets, queue pairs, links ...).  All of it is plain data.
-/
namespace Sys2Proof.Machine

/-- A table entry as the table command window moves it: KEY0-7, DATA0-15 and EXT0-31, word w at bits 32w+31..32w
(spec/02_register_pages.md, "The table command window"). -/
structure Entry where
  key : BitVec 256 := 0
  data : BitVec 512 := 0
  ext : BitVec 1024 := 0
  deriving DecidableEq, Repr

/-- A crier message (R573) with the source page in place of SRC_TYPE, INSTANCE and DIE, which the page fixes. -/
structure CryMsg where
  page : Nat := 0
  kind : Nat := 0
  cls : Nat := 0
  addr : Nat := 0
  master : Nat := 0xF000
  /-- NS64 >> 10 at detection, 30 bits. -/
  time : Nat := 0
  deriving DecidableEq, Repr

/-- A record of the parish register (R654, R655); `seq` is 0 while the record waits for the START record (R694). -/
structure JRec where
  seq : Nat := 0
  time : Nat := 0
  origin : Nat := 0
  kind : Nat := 0
  persist : Bool := false
  timeValid : Bool := false
  page : Nat := 0
  table : Nat := 0
  off : Nat := 0
  value : Nat := 0
  aux : Nat := 0
  deriving DecidableEq, Repr

/-- A writer that the parish register holds (R52, R660, R662): the access to run again once its record has room. -/
structure Held where
  master : Nat := 0
  page : Nat := 0
  off : Nat := 0
  value : Nat := 0
  /-- 0 a register write, 1 a table command waiting for its record, 2 a record of the presence controller or main core, 3 a queue pair's context write
  of a VF, 4 a read behind the master's held writes (R46), of `value` words, 5 a removal of the sweeper (R216): the slot in `off` and the key in `value`,
  6 the ECMP member in `off` of the BFD session in `value` (R446). -/
  what : Nat := 0
  record : JRec := {}
  /-- The MONO at which the hold began (JNL_HOLD_MAX). -/
  at_ : Nat := 0
  deriving DecidableEq, Repr

/-- A table operation in progress on a page (R77), from the accepted TBL_CMD write to TBL_OP_DONE. -/
structure TblOp where
  op : Nat := 0
  table : Nat := 0
  index : Nat := 0
  master : Nat := 0
  result : Nat := 0
  hit : Bool := false
  resIndex : Nat := 0
  jseq : Nat := 0
  /-- Whether the operation is still to be carried out: a change that waits for its journal record (R52), or an operation that a takeover can still
  end with ABORTED. -/
  waits : Bool := false
  /-- The staging words and TBL_OPT at acceptance, with which a waiting operation is carried out. -/
  staged : Entry := {}
  opt : Nat := 0
  deriving DecidableEq, Repr

/-- The identity that a function's configuration space gives (R462): vendor, device, class code, revision, subsystem vendor, subsystem and the device serial number. -/
structure CfgId where
  vendor : Nat
  device : Nat
  cls : Nat
  revision : Nat
  subVendor : Nat
  subsystem : Nat
  serial : Nat
  deriving DecidableEq, Repr

/-- The attributes of a DMA request (R476, R498): relaxed ordering, no snoop and the PASID of its prefix. -/
structure Dma where
  ro : Bool := false
  ns : Bool := false
  pasid : Option Nat := none
  deriving DecidableEq, Repr

/-- What the device sends out during one step: on its network and fabric lanes, its pins, its die-to-die link and to the host. -/
inductive Emit where
  /-- A refresh of the neighbours of row `row` of a bank of memory target `target` (R406): kind 0 the rows from 2 below to 2 above, 1 a directed refresh-management
  command, 2 a bank refresh-management command. -/
  | refresh (target bank row kind : Nat)
  /-- A frame, with FCS, on network port `port`; `stomped` when the FCS was replaced by the stomp value (R238). -/
  | frame (port : Nat) (bytes : List Byte) (stomped : Bool)
  /-- A PFC (`cls` = enabled classes and times) or link PAUSE frame on a port (R93). -/
  | pause (port : Nat) (tcMask : Nat) (quanta : Nat)
  /-- An MSI-X message of function `fn`, vector `vec` (R479, R482). -/
  | msix (fn vec : Nat) (addr data : Nat)
  /-- Assert_INTA or Deassert_INTA (R483). -/
  | inta (asserted : Bool)
  /-- A DMA write of bytes to host memory by function `fn` (R476). -/
  | dmaWrite (fn : Nat) (addr : Nat) (bytes : List Nat) (attr : Dma)
  /-- A DMA read request to host memory (R473). -/
  | dmaRead (fn : Nat) (addr : Nat) (len : Nat) (attr : Dma)
  /-- A cell sent on a fabric link: its bytes, header first (R332). -/
  | cell (link : Nat) (bytes : List Nat)
  /-- A level driven on a pin. -/
  | pin (name : String) (level : Bool)
  /-- A TOD_TX line (R427). -/
  | tod (line : List Nat)
  /-- A two-wire access to the module in a cage: register write or read (R100). -/
  | twoWire (port : Nat) (write : Bool) (page bank addr data : Nat)
  /-- FlexE overhead sent on instance `inst`: C, CR, CA (R113). -/
  | overhead (group : Nat) (c cr ca : Bool)
  /-- A group's overhead begins to carry the client number of each position of a transmit calendar (R106, R113). -/
  | ohNumbers (group cal : Nat) (nums : List Nat)
  /-- From the next block a group maps (`tx`) or demaps by this calendar: the client index of each position, 128 where unused (R111, R115). -/
  | calendar (group : Nat) (tx : Bool) (clients : List Nat)
  /-- Blocks of 66 bits that the cross-connect hands to a destination client: first `fault` blocks of local fault, then these, the sync header of each in bits 65:64 (R21, R121). -/
  | client (dst fault : Nat) (blocks : List Nat)
  /-- The lanes of a port (R81): the physical lane of each logical lane on receive and on transmit, the lanes powered down with their transmitters idle, and the inverted ones, receive as lane, transmit as 192 + lane. -/
  | lanes (port : Nat) (rx tx off inverted : List Nat)
  /-- A port's auto-negotiation advertises one technology ability, its mode, and the FEC ability of its FEC, or with `training` trains by a protocol: 0 Clause 72 or 92,
  1 Clause 136, 2 Clause 162, 3 IEEE 802.3dj (R86, R87). -/
  | bringUp (port : Nat) (training : Bool) (ability fec : Nat)
  /-- The device reads `n` bytes of a module page from an offset over a cage's two-wire bus (R96). -/
  | moduleRead (port page off n : Nat)
  /-- SYNCE_CLK carries the receive clock of a lane divided to 156.25 MHz, or nothing; and whether the ports' transmit clocks follow it (R428). -/
  | synce (on : Bool) (lane div : Nat) (lock : Bool)
  /-- A controller reads `n` bytes from an offset of the SPD of a channel's hub (R389, R391). -/
  | spdRead (ch hub off n : Nat)
  /-- A signal on the lanes or clients begins (`on`) or ends: 1 local fault to a client, 2 all-ones to a fabric channel, 3 electrical idle
  on a port, 4 remote fault from a port's MAC, 5 RPF in a group's overhead, 6 no drive on a fabric link's lanes, 7 no drive on the host lanes,
  8 local fault from a port (R102, R126, R515, R586); `index` is
  the client, channel, port, group or link. -/
  | signal (what index : Nat) (on : Bool)
  /-- What a read of the register at an offset of a page returns to master `m`; an error response when `err` (R36, R44, R47). -/
  | readData (m page off value : Nat) (err : Bool)
  /-- A flit's content reaches die `die` in its channel, in link order (R15). -/
  | flit (die chan : Nat) (words : List Nat)
  /-- What the configuration space of function `fn` shows of its identity (R9, R462). -/
  | config (fn : Nat) (id : CfgId)
  deriving DecidableEq, Repr

/-- A snapshot being dumped (R599, R606): its instant, MONO at it, whether CNT_SNAP.GO started it and the families it takes. -/
structure Snap where
  time : Nat := 0
  mono : Nat := 0
  go : Bool := false
  mask : Nat := 0
  deriving DecidableEq, Repr

/-- The writable configuration bits of a PCIe function (R461, R463): Bus Master Enable, Memory Space Enable, Interrupt Disable, MSI-X
Enable, the Relaxed Ordering and No Snoop enables, Completion Timeout Value and Disable, ASPM L1, D3hot, VF Enable and NumVFs, and
the sticky AER status bits the device sets (bit 0 Completion Timeout, bit 1 Unexpected Completion). -/
structure PcieFn where
  bme : Bool := false
  mse : Bool := false
  intDis : Bool := false
  msixEn : Bool := false
  roEn : Bool := true
  nsEn : Bool := true
  ctoValue : Nat := 0
  ctoDis : Bool := false
  aspmL1 : Bool := false
  d3hot : Bool := false
  vfEnable : Bool := false
  numVfs : Nat := 0
  aer : Nat := 0
  deriving DecidableEq, Repr

/-- An MSI-X table entry: its mask bit (1 at reset), its pending bit and its message. -/
structure MsixVec where
  masked : Bool := true
  pending : Bool := false
  addr : Nat := 0
  data : Nat := 0
  deriving DecidableEq, Repr

/-- A buffer read for a TX descriptor (R470, R473): the descriptor's ring index and words, and the MONO of its issue. -/
structure TxRead where
  idx : Nat := 0
  desc : List Nat := []
  at_ : Nat := 0
  deriving DecidableEq, Repr

/-- A completion that waits for room in its ring (R477, R478): DIR, REC, TRUNC, STATUS, COOKIE, LENGTH, the ring index of the descriptor, and whether it counts towards the interrupt. -/
structure Cqe where
  dir : Nat := 0
  rec_ : Nat := 0
  trunc : Nat := 0
  status : Nat := 0
  cookie : Nat := 0
  len : Nat := 0
  idx : Nat := 0
  int : Bool := false
  deriving DecidableEq, Repr

/-- What a queue pair holds beside its table entry (R468, R479, R495): the doorbell indices, the arming of its interrupt, the
completions counted since arming, the MONO of the first of them, the phase of its completion ring, the QPC_STAT bits, its reads in flight, a descriptor that
waits for its instance's meter (R504), reads that timed out and may still be answered (R486), and completions that wait for room (R478). -/
structure QpX where
  txTail : Nat := 0
  rxTail : Nat := 0
  cqHead : Nat := 0
  armed : Bool := false
  counted : Nat := 0
  lastInt : Option Nat := none
  coalAt : Option Nat := none
  phase : Bool := true
  signalled : Bool := false
  cfgErr : Bool := false
  refused : Bool := false
  reads : List TxRead := []
  wait : Option TxRead := none
  late : Nat := 0
  cqes : List Cqe := []
  deriving DecidableEq, Repr

/-- What a fabric link holds beside its registers (R339 to R343): the MONO of its entry into its state, the peer generation it has
forgotten (0 none), whether this TEST has seen a HELLO of ROLE 1, a REACH and no error, its reach bitmap with the MONO of the last
REACH, and the MONO of each entry to DOWN. -/
structure LinkX where
  stateAt : Nat := 0
  forgotten : Nat := 0
  gotHello : Bool := false
  gotReach : Bool := false
  testErr : Bool := false
  reach : BitVec 1024 := 0
  reachAt : Option Nat := none
  downs : List Nat := []
  deriving DecidableEq, Repr

/-- A cell in the switch core (R366): its input and output, the link chosen for it, whether it is privileged or SLOT, its type, header and payload, the device it goes to, and its
order of arrival. -/
structure XbCell where
  input : Nat := 0
  out : Nat := 0
  link : Nat := 0
  priv : Bool := false
  type : Nat := 0
  body : Nat := 0
  payload : List Nat := []
  dest : Nat := 0
  serial : Nat := 0
  deriving DecidableEq, Repr

/-- A trace record before its byte form (R611): the fields of words 0 to 7, the stage times, the table entries as two words each and the
action entries as the 128-bit word and the outcome word. -/
structure TraceRec where
  half : Nat := 0
  trigger : Nat := 0
  port : Nat := 0
  logical : Nat := 0
  physical : Nat := 0
  gen : Nat := 0
  passes : Nat := 0
  reason : Nat := 0
  destDev : Nat := 0
  dstPort : Nat := 0
  tc : Nat := 0
  colour : Nat := 0
  lenSrc : Nat := 0
  frameLen : Nat := 0
  ruleId : Nat := 0
  lif : Nat := 0
  exc : Nat := 0
  nhId : Nat := 0
  time : Nat := 0
  seq : Nat := 0
  stages : List Nat := []
  tables : List (Nat × Nat) := []
  actions : List (Nat × Nat) := []
  deriving DecidableEq, Repr

/-- An image slot's record in CONTROL (R628): its state, tries, the header fields a slot shows and the units its image fills. -/
structure ImgSlot where
  st : Nat := 0
  tries : Nat := 0
  type : Nat := 0
  keySlot : Nat := 0
  svn : Nat := 0
  version : Nat := 0
  total : Nat := 0
  deriving DecidableEq, Repr

/-- The CONTROL record of the store (R614, R625, R626, R628): the two image slots, the boot and fallback slots, MIN_SVN, key slots 1 to 3, the
revoked key slots (bit k) and the marked snapshots (bit k). -/
structure Control where
  slotA : ImgSlot := {}
  slotB : ImgSlot := {}
  boot : Nat := 0
  fallback : Nat := 0
  minSvn : Nat := 0
  key1 : Option (BitVec 384) := none
  key2 : Option (BitVec 384) := none
  key3 : Option (BitVec 384) := none
  revoked : Nat := 0
  marked : Nat := 0
  deriving DecidableEq, Repr

/-- A record of the peg map (R547): its kind, class, unit, detail, module serial, address and the NS64 at which it was recorded. -/
structure Peg where
  kind : Nat := 0
  cls : Nat := 0
  unit : Nat := 0
  detail : Nat := 0
  serial : Nat := 0
  addr : Nat := 0
  time : Nat := 0
  deriving DecidableEq, Repr

/-- A configuration snapshot (R638): configuration registers and what the units use, table entries, its journal sequence number and the
MAIN major version it was taken under. -/
structure SnapRec where
  regs : List (Nat × Word) := []
  units : List (Nat × Word) := []
  tables : List (Nat × Entry) := []
  jseq : Nat := 0
  major : Nat := 0
  deriving DecidableEq, Repr

/-- A record on its way into the store (R616): a CONTROL record with the BLOCK_INT bits its commit sets and what follows it (0 nothing, 1 a warm restart, 2 the rolling update to the
boot slot, 3 and 4 the erase of slot A or B), a copy of the peg map, or a snapshot. -/
inductive StoreRec where
  | control (c : Control) (bits after : Nat)
  | peg (map : List Peg) (seq : Nat)
  | snap (k : Nat) (r : SnapRec)
  deriving DecidableEq, Repr

/-- An UPD command in progress (R637): its operation, its result so far, and whether it waits for a store record. -/
structure UpdOp where
  op : Nat := 0
  result : Nat := 0
  waits : Bool := false
  deriving DecidableEq, Repr

/-- A cage (R530 to R535): the insertion step reached (0 none, 2 in reset, 3 polled, 5 accepted, 6 applied, 7 active), the MONO of that
step, unacknowledged transactions in a row, and what the module's pages told: copper media, advertised applications (16 * mode + lanes)
and data-path time. -/
structure CageX where
  step : Nat := 0
  stepAt : Nat := 0
  nacks : Nat := 0
  copper : Bool := false
  apps : List Nat := []
  dpMs : Nat := 0
  first : Bool := false
  deriving DecidableEq, Repr

/-- The receiver of a FlexE instance (R107 to R110, R123): frame lock and the candidates or the last frame start with its misses, multiframe
lock, the frame count, OMF of the last frame and whether that frame passed its CRC, and the calendar comparison. -/
structure InstX where
  lock : Bool := false
  cands : List Nat := []
  last : Nat := 0
  misses : Nat := 0
  mfLock : Bool := false
  frameNo : Option Nat := none
  omf : Bool := false
  omfOk : Bool := false
  mfMiss : Nat := 0
  mfBad : Bool := false
  mfCrc : Bool := false
  calmBad : Nat := 0
  calmGood : Nat := 0
  calm : Bool := false
  deriving DecidableEq, Repr

/-- A calendar exchange of a group (R113): the step waited in (0 none, 1 a multiframe start, 2 the multiframe that carries the contents, 3 CA, 4 an
overhead frame start) and the MONO of step 2's end. -/
structure FlxEx where
  step : Nat := 0
  at_ : Nat := 0
  rxCr : Bool := false
  deriving DecidableEq, Repr

/-- An armed or completed XC switch (R119, R120): the group it waits for, whether it copies, and whether the exchange under way when GO
arrived is still to end. -/
structure XcArm where
  group : Nat := 0
  copy : Bool := false
  skip : Bool := false
  deriving DecidableEq, Repr

/-- Performance monitoring of a port or client (R128 to R130): the last two seconds in which a defect was present, the second last judged, the
judgements of the last ten seconds (ES, SES, unavailable), newest first, and whether it is unavailable. -/
structure PmX where
  marks : List Nat := []
  lastSec : Nat := 0
  hist : List (Bool × Bool × Bool) := []
  unavail : Bool := false
  deriving DecidableEq, Repr

/-- What the repair controller keeps of a physical unit beside RPR table 0 (R549, R556, R565, R567): whether its last pass passed, failed passes in
a row, the MONO of each declaration of the last 24 h, when its fencing or test began, when it last passed quarantine or a hold-off began
afresh, what it is tested for (0 the spare loop, 1 quarantine, 2 rotation, 4 the rolling update), whether a stale output has shown since its fencing, the logical number
that a rotation returns to it, and the words of a lookup bank corrected within 24 h with the MONO of the last correction (R556). -/
structure UnitX where
  passed : Bool := false
  fails : Nat := 0
  deads : List Nat := []
  fencedAt : Option Nat := none
  goodAt : Option Nat := none
  test : Nat := 0
  stale : Bool := false
  back : Option Nat := none
  fixed : List (Nat × Nat) := []
  deriving DecidableEq, Repr

/-- A recovery or planned handover of a class (R557 to R559, R569): the logical number (or place), the unit that leaves, the unit brought in, when
it was declared or asked for, whether it is a fault takeover, what follows for the old unit (0 SPARE, 1 quarantine, 2 rotation's test, 3 FAILED), whether
it is a revert, whether RPR_CMD waits for it, the crier kind of its cause, whether it has begun, whether its class entered the degraded mode for it, and the buckets that left its logical number. -/
structure Recov where
  logical : Nat := 0
  old : Nat := 0
  new : Option Nat := none
  at_ : Nat := 0
  fault : Bool := true
  after : Nat := 1
  revert : Bool := false
  cmd : Bool := false
  cause : Nat := 0
  running : Bool := false
  degraded : Bool := false
  buckets : List Nat := []
  deriving DecidableEq, Repr

/-- Where an ingress half sends a packet: nowhere yet, discarded or trapped with a reason, to a next hop's device, port and queue base, to a
multicast group, or to a queue of this device (R165, R186, R204). -/
inductive Dest where
  | none
  | drop (reason : Nat)
  | trap (reason : Nat)
  | unicast (dev port qbase nh : Nat)
  | mcast (group : Nat)
  | queue (q : Nat)
  deriving DecidableEq, Repr

/-- The next probe of a forwarding lookup (R184, R194, R199, R208). -/
inductive Probe where
  | done
  | ilm (i : Nat)
  | lpm (v6 : Bool) (vrf addr : Nat) (cands : List Nat)
  | bridge (bd lif : Nat) (inner : Bool)
  deriving DecidableEq, Repr

/-- The lookup state of a packet in an ingress half (R195, R243): its parse result, the passes made, the tunnel it terminated (1 VXLAN, 2 GRE), the
next probe, labels popped, whether the popped stack carries Ethernet, the entropy label, the outcome so far, the lists of R166, the
RULE_ID of the last TCAM hit, whether a search found several matches, whether INCOMPLETE_ACT dropped the packet and the table entries
read, for a trace. -/
structure Look where
  p : List (Nat × Nat) := []
  started : Bool := false
  passes : Nat := 0
  term : Nat := 0
  probe : Probe := .done
  pop : Nat := 0
  popEth : Bool := false
  entropy : Option Nat := none
  dest : Dest := .none
  lifList : Option Nat := none
  ig0 : Option Nat := none
  fwd : Option Nat := none
  ig1 : Option Nat := none
  rule : Nat := 0
  multi : Bool := false
  multiCopy : Bool := false
  reads : List (Nat × Nat) := []
  noList : Bool := false
  deriving DecidableEq, Repr

/-- A learn or move event in a learner's queue (R210), with the logical number of its pipeline and the generation it carries (R562). -/
structure LearnEvt where
  bd : Nat := 0
  mac : Nat := 0
  lif : Nat := 0
  port : Nat := 0
  logical : Nat := 0
  gen : Nat := 0
  /-- A move of an entry that the lookup found, instead of a learn. -/
  move : Bool := false
  deriving DecidableEq, Repr

/-- The buckets of a policer in units of 10^-6 bit, and the MONO at which they stood so (R313). -/
structure PolX where
  c : Int := 0
  p : Int := 0
  at_ : Nat := 0
  deriving DecidableEq, Repr

/-- A charge of a policer that the tail corrects (R242): the policer, the bytes charged, whether its committed and its peak or excess bucket were
charged. -/
structure Charge where
  pol : Nat := 0
  len : Nat := 0
  c : Bool := false
  p : Bool := false
  deriving DecidableEq, Repr

/-- The header of a copy made by a sampler instance (R248). -/
structure CopyHdr where
  inst : Nat := 0
  half : Nat := 0
  dropped : Bool := false
  reason : Nat := 0
  srcPort : Nat := 0
  dport : Nat := 0x3F
  dev : Nat := 0
  tc : Nat := 0
  colour : Nat := 0
  lif : Nat := 0
  egLif : Nat := 0
  nh : Nat := 0
  seq : Nat := 0
  time : Nat := 0
  rule : Nat := 0
  deriving DecidableEq, Repr

/-- The stored bytes of a frame or packet: what has arrived, whether its tail has, its tail-error cause (R236), the descriptors that refer to it, the
port it arrived on with its speed, the parser's length to check at the tail, the counters that count its length there, the policer
charges to correct there, and for multicast the SENT and LOST flags and the group (R380). -/
structure Body where
  bytes : List Nat := []
  whole : Bool := false
  tail : Nat := 0
  refs : Nat := 0
  port : Nat := 0x3F
  gbps : Nat := 0
  win : List Nat := []
  winLen : Nat := 0
  winEnds : Bool := false
  lenCtrs : List (Nat × Nat) := []
  charges : List Charge := []
  /-- The buckets charged by a declared length, with that length and the bytes to which the copy charged is cut; 0: it is not cut (R307). -/
  shapes : List (Nat × Nat × Nat) := []
  sent : Bool := false
  lost : Bool := false
  group : Option Nat := none
  deriving DecidableEq, Repr

/-- A tier-1 buffer of an egress device (R253, R257, R272): its size in bytes, the requester it is charged to, its allocation tag, its reference count and the body it holds. -/
structure Buf where
  size : Nat := 0
  req : Nat := 0
  tag : Nat := 0
  held : Nat := 0
  body : Nat := 0
  deriving DecidableEq, Repr

/-- A packet's descriptor, from its parse to its last byte (R140, R166, R204, R235): its bytes (`head` in place of the first `skip` bytes of the
body once an egress half has rewritten it), where it came from and goes, and the metadata that travels with it. -/
structure Pkt where
  body : Nat := 0
  buf : Nat := 0
  head : List Nat := []
  skip : Nat := 0
  trunc : Nat := 0
  srcDev : Nat := 0
  srcPort : Nat := 0x3F
  dev : Nat := 0
  dport : Nat := 0x3F
  queue : Nat := 0
  group : Option Nat := none
  nh : Option Nat := none
  tc : Nat := 0
  colour : Nat := 0
  tag : Nat := 0
  lif : Nat := 0
  egLif : Nat := 0
  term : Nat := 0
  pop : Nat := 0
  popEth : Bool := false
  egList : Option Nat := none
  rule : Nat := 0
  frameLen : Nat := 0
  lenSrc : Nat := 0
  declMax : Nat := 0
  app : Nat := 0
  ecn : Bool := false
  mark : Bool := false
  rxNs : Nat := 0
  rxFrac : Nat := 0
  gen : Nat := 0
  pipe : Nat := 0
  /-- 0: an ordinary packet; 1: a trapped packet or exception copy for the host; 2: a sampler copy; 3: an injection of a service core; 4: a host packet; 5: the
  transmit sequence of a packet discarded after its release. -/
  kind : Nat := 0
  /-- A copy made beside its packet for port 48 (R139, R158, R240). -/
  dup : Bool := false
  reason : Nat := 0
  qp : Nat := 0
  copy : Option CopyHdr := none
  stamp : Nat := 0
  stg : Nat := 0
  txSeq : Nat := 0
  at_ : Nat := 0
  chan : Option Nat := none
  hash : Nat := 0
  svc : Nat := 0
  egOk : Bool := false
  /-- The first test of R294 that a held packet still has to pass. -/
  step : Nat := 1
  /-- The bytes of a host or service packet for this device for which tier 1 was reserved before it was fetched (R259). -/
  resv : Nat := 0
  /-- Its place in the request that granted it, with 4 times the request's packets less one. -/
  reqPos : Nat := 0
  /-- MONO at its release by the scheduler (R327). -/
  rel : Nat := 0
  /-- Its gate has closed while its frame was on the wire (R320). -/
  late : Bool := false
  deriving DecidableEq, Repr

/-- A segment of a queue's MIDDLE (R264, R266): its tier, its descriptors with the tier bytes each took and the twin each refers to, whether it is being
read, whether its read has completed, and what that read lost: the block header (1), and the places of packets whose descriptor or payload could not be corrected. -/
structure Seg where
  tier : Nat := 2
  pkts : List (Pkt × Nat × Option Nat) := []
  reading : Bool := false
  read : Bool := false
  id : Nat := 0
  errs : Nat × List Nat × List Nat := (0, [], [])
  /-- Where its block header lies, as the access operands spell it. -/
  hdr : Nat := 0
  /-- How many of its packets have gone from its front since it was written. -/
  gone : Nat := 0
  deriving DecidableEq, Repr

/-- A gate list that waits for its instant T (R325): T and the base in ns of TAI, the cycle, the six shadowed registers as committed and the entries (STATES,
INTERVAL). -/
structure GatePend where
  at_ : Nat := 0
  base : Nat := 0
  cycle : Nat := 0
  regs : List Word := []
  list : List (Nat × Nat) := []
  deriving DecidableEq, Repr

/-- The gate controller of a port beside its registers (R318, R321, R325): the base of the operational list in ns of TAI, the pending list, and the states that the
scheduler saw last. -/
structure GateX where
  base : Nat := 0
  pend : Option GatePend := none
  sched : Nat := 255
  list : Nat := 0
  deriving DecidableEq, Repr

/-- A twin of a shared buffer in a lower tier (R275, R276): its tier, the address and tag of the original, its own count, its size and requester, and the body. -/
structure Twin where
  id : Nat := 0
  tier : Nat := 2
  buf : Nat := 0
  tag : Nat := 0
  held : Nat := 0
  size : Nat := 0
  req : Nat := 0
  body : Nat := 0
  deriving DecidableEq, Repr

/-- A batch whose write into a lower tier is not yet acknowledged (R266): its tier, how many packets of TAIL it holds and the segment it will become. -/
structure Batch where
  tier : Nat := 2
  n : Nat := 0
  seg : List (Pkt × Nat × Option Nat) := []
  hdr : Nat := 0
  deriving DecidableEq, Repr

/-- A queue of the egress device (R264 to R270, R277, R295, R322): its three parts, its flags, its bytes by tier, outstanding grants, admission meter
(in units of 10^-3 bit, below full) with its MONO, the wait for its gate and a flush in progress. -/
structure QX where
  head : List Pkt := []
  mid : List Seg := []
  tail : List Pkt := []
  spill : Bool := false
  blocked : Bool := false
  sticky : Bool := false
  grnDrain : Bool := false
  starve : Bool := false
  t1 : Nat := 0
  hbm : Nat := 0
  grn : Nat := 0
  granted : Nat := 0
  writing : Option Batch := none
  used : Nat := 0
  usedAt : Nat := 0
  fitWait : Bool := false
  deriving DecidableEq, Repr

/-- The shaper state of a scheduling node (R304, R307, R311): the tokens below its committed and peak buckets' sizes are kept as levels in 10^-3 bit with
their MONO, its next committed and peak slots of the wheel, its virtual finish time and its virtual time. -/
structure ShpX where
  c : Int := 0
  p : Int := 0
  at_ : Nat := 0
  cSlot : Nat := 0
  pSlot : Nat := 0
  f : Nat := 0
  v : Nat := 0
  /-- Whether the node was eligible when its port's selections last saw it (R304). -/
  on : Bool := false
  deriving DecidableEq, Repr

/-- Mill-wheel pacing of a node (R310, R312): its causes in force (bit c for cause c) and the MONO at which the last one ended. -/
structure MillX where
  causes : Nat := 0
  endAt : Option Nat := none
  last : Nat := 0
  deriving DecidableEq, Repr

/-- A request of this device as source (R350, R353): its queue, packets with the verdict of each (none: no answer yet; 1 HOLD), sends, the last
send and link, whether it is privileged and whether an ANS has come. -/
structure ReqOut where
  queue : Nat := 0
  pkts : List (Pkt × Option Nat) := []
  sends : Nat := 0
  sentAt : Nat := 0
  link : Nat := 0
  priv : Bool := false
  answered : Bool := false
  deriving DecidableEq, Repr

/-- A packet of a destination's record (R352): its length, colour and ECN bit, its verdict (0 GRANT, 1 HOLD, 2 REFUSE, 3 EXPIRED, 4 consumed or released), the
reason, the MONO of the grant, the bytes reserved and the requester. -/
structure RecPkt where
  len : Nat := 0
  colour : Nat := 0
  ecn : Bool := false
  verdict : Nat := 1
  reason : Nat := 0
  at_ : Nat := 0
  resv : Nat := 0
  req : Nat := 0
  step : Nat := 1
  deriving DecidableEq, Repr

/-- A record on its way to a queue pair (R475): its REC code, its header bytes, the packet whose bytes follow, and the queue that it left (none: reports and recorder records). -/
structure HostRec where
  rec_ : Nat := 0
  head : List Nat := []
  pkt : Option Pkt := none
  queue : Option Nat := none
  deriving DecidableEq, Repr

/-- A record of a REQ at its destination (R352). -/
structure GrantRec where
  queue : Nat := 0
  priv : Bool := false
  pkts : List RecPkt := []
  deriving DecidableEq, Repr

/-- A receive stream (R345, R346): the next CELL_SEQ (none before its first cell), cells held behind a gap with the MONO of their arrival, the packet being
reassembled (its REQ_SEQ in `txSeq`, its DECL_LEN in `declMax`), and whether the cells of the present packet are discarded as they arrive. -/
structure RxStream where
  next : Option Nat := none
  held : List (Nat × Nat × List Nat) := []
  cur : Option Pkt := none
  skip : Bool := false
  deriving DecidableEq, Repr

/-- A memory target, stack or channel (R382 to R414), beside its registers: the SPD contents of its two hubs and whether they have been read, its last retraining
pause with the failed pauses in a row and the MONO of the last failed one, lanes remapped to spares (channel, lane), the MONO of uncorrectable reads, corrected
reads by row, errored rows by DRAM, DRAMs marked failed, rows under repair, rows repaired, the cause that takes it out of service (0 none), modules refreshed
at the double rate (bits 0, 1) and above TEMP_CRIT (bits 2, 3) with the MONO of the last temperature read, the MONO of its last scrub, and whether its training has passed. -/
structure MemX where
  spd0 : List Nat := []
  spd1 : List Nat := []
  ident : Bool := false
  pauseAt : Nat := 0
  drifts : Nat := 0
  driftAt : Option Nat := none
  lanes : List (Nat × Nat) := []
  ues : List Nat := []
  ces : List (Nat × Nat) := []
  drams : List (Nat × Nat × Nat) := []
  failed : List Nat := []
  repairing : List Nat := []
  repaired : List Nat := []
  failing : Nat := 0
  hot : Nat := 0
  tempAt : Nat := 0
  scrubAt : Nat := 0
  trained : Bool := false
  deriving DecidableEq, Repr

/-- A row of a bank that an access left open (R397): its hint and the MONO of its opening and of its last access. -/
structure OpenRow where
  row : Nat := 0
  hint : Nat := 0
  openedAt : Nat := 0
  lastAt : Nat := 0
  deriving DecidableEq, Repr

/-- The activate counts of a bank (R405, R407): its table of at most 64 rows with their counts, and the activates of the present 32 ms. -/
structure ActTab where
  rows : List (Nat × Nat) := []
  total : Nat := 0
  deriving DecidableEq, Repr

/-- A BFD session of the engine (R445 to R447), beside its entry: the MONO from which its next packet is due, that of the last packet received, what the remote
end sent (DetectMult, DesiredMinTxInterval, RequiredMinRxInterval, state), a poll sequence and a final bit owed, and the intervals in force in us. -/
structure BfdX where
  due : Nat := 0
  rxAt : Option Nat := none
  rMult : Nat := 0
  rMinTx : Nat := 0
  rMinRx : Nat := 1
  rState : Nat := 1
  poll : Bool := false
  fin : Bool := false
  txUs : Nat := 0
  rxUs : Nat := 0
  deriving DecidableEq, Repr

/-- A MEP (R448, R449), beside its entry: when its next CCM is due, the MONO of the last valid CCM and of the last CCM that showed ERROR and XCON, and its CCM
sequence number. -/
structure MepX where
  due : Nat := 0
  okAt : Nat := 0
  errAt : Nat := 0
  xconAt : Nat := 0
  seq : Nat := 0
  deriving DecidableEq, Repr

/-- A copy in the retransmission store (R450, R452): its extended number, the MONO of its storing, the packet as released, its buffer bytes and the MONO of its
last resend. -/
structure RtxCopy where
  ext : Nat := 0
  at_ : Nat := 0
  pkt : Pkt := {}
  size : Nat := 0
  sentAt : Option Nat := none
  deriving DecidableEq, Repr

/-- A protected flow (R450 to R453): whether HIGH is set, its copies in the order stored, resends in the present 10 ms, and copies being read for a resend. -/
structure FlowX where
  started : Bool := false
  copies : List RtxCopy := []
  winAt : Nat := 0
  winN : Nat := 0
  reads : List Pkt := []
  deriving DecidableEq, Repr

/-- A merge group (R455, R456): whether it has seen a packet, the marked extended numbers, discards with 0xE1 in a row, and the MONO of each leg's last packet. -/
structure MergeX where
  started : Bool := false
  marks : List Nat := []
  stale : Nat := 0
  aAt : Nat := 0
  bAt : Nat := 0
  deriving DecidableEq, Repr

/-- A record of a recorder (R457): its number, its 16-byte header, its packet, its padded size, its release time and the tier that holds it. -/
structure RecItem where
  id : Nat := 0
  head : List Nat := []
  pkt : Pkt := {}
  size : Nat := 0
  time : Nat := 0
  tier : Nat := 2
  deriving DecidableEq, Repr

/-- A recorder (R457 to R459): its records oldest first, the number of the next, and a readout (1) or replay (2) in progress from record `pos` up to `upto`, with
the MONO of its start and the release time of its first record. -/
structure RecX where
  items : List RecItem := []
  next : Nat := 0
  job : Nat := 0
  pos : Nat := 0
  upto : Nat := 0
  at_ : Nat := 0
  base : Nat := 0
  deriving DecidableEq, Repr

/-- An instance (R504, R507, R509), beside its entry: the MONO at which QUIESCING began, the meter of its transmit rate in 10^-3 bit below full with its MONO, and
a function-level reset that waits for a command. -/
structure VInst where
  quiesceAt : Option Nat := none
  used : Nat := 0
  usedAt : Nat := 0
  flr : Bool := false
  deriving DecidableEq, Repr

/-- A cross-die request (R29 to R36) of a source: the master whose access it carries, a read of `n` words or a write of the words `data` from an
offset, with the byte enables of a register write; `host`: a write for host memory through the PCIe endpoint; the MONO since which the page holds its
oldest write for the parish register (R52); whether the main core that asked for it has restarted (R538), and the link sequence
number of the flit that carries it, or its response; none while it waits for a credit (R30). -/
structure DieReq where
  read : Bool := false
  master : Nat := 0
  page : Nat := 0
  off : Nat := 0
  be : Nat := 0
  data : List Nat := []
  n : Nat := 1
  host : Bool := false
  heldAt : Option Nat := none
  stale : Bool := false
  sent : Option Nat := none
  deriving DecidableEq, Repr

/-- A flit of the die-to-die link (R15 to R17): its link sequence number, the module it travels on, its channel and what it carries. -/
structure Flit where
  seq : Nat := 0
  module : Nat := 0
  chan : Nat := 0
  words : List Nat := []
  deriving DecidableEq, Repr

/-- The sending end of one direction of the die-to-die link (R15, R16): the next link sequence number and the replay buffer. -/
structure FlitTx where
  next : Nat := 0
  replay : List Flit := []
  deriving DecidableEq, Repr

/-- The receiving end of one direction (R15): the next link sequence number to deliver and the flits that wait behind a gap. -/
structure FlitRx where
  next : Nat := 0
  wait : List Flit := []
  deriving DecidableEq, Repr

/-- The image that a scarf store holds of a unit (R553, R554): the MONO of its last applied boundary, the node states, admission meters and FIT_WAIT flags of an
engine, the sampler counts of a pipeline. -/
structure Scarf where
  at_ : Nat := 0
  nodes : List (Nat × ShpX) := []
  meters : List (Nat × Nat × Nat) := []
  fits : List Nat := []
  smp : List (Nat × Nat) := []
  deriving DecidableEq, Repr

end Sys2Proof.Machine
end

