-- ==== Sys2Proof/Machine/Regs.lean ====
section
/-!
DEFINITION. The registers of the PL9648: every register of spec/01 to spec/21, its page and offset, the place of each of its
fields, its reset value and which of its bits software may write.  Each name is the spec's own; the page argument of a block with
several instances is the instance (port, group, pipeline, stack, channel, cluster), and the arguments after it are the array
indices of the register's heading.
-/
namespace Sys2Proof.Machine

/-- A field of a register: its page, its offset in the page and its bits [hi:lo] (spec/00_scope.md, Notation). -/
structure Fld where
  page : Nat
  off : Nat
  hi : Nat
  lo : Nat
  deriving DecidableEq, Repr

/-- How one register of a block is laid out and what software may do to its bits (R10).  `rw`, `w1c`, `w1s` and `wo` are masks
of the bits of each access code; every other bit is RO or reserved.  The register stands at `off + s1 * i + s2 * j` on each of
`pages` pages from `page`.  `st` masks the status fields that FREEZE holds (R57): those software cannot write but to clear, counts apart. -/
structure RegDecl where
  name : String
  page : Nat
  pages : Nat
  off : Nat
  c1 : Nat
  s1 : Nat
  c2 : Nat
  s2 : Nat
  rw : Nat
  w1c : Nat
  w1s : Nat
  wo : Nat
  reset : Nat
  st : Nat
  shadowed : Bool
  deriving DecidableEq, Repr

/-- D2D_MOD_STAT (spec/01_architecture.md). -/
def D2D_MOD_STAT.reg : Fld := ⟨256, 0x0200, 31, 0⟩
def D2D_MOD_STAT.MOD_UP : Fld := ⟨256, 0x0200, 27, 0⟩
/-- D2D_MOD_ROLE (spec/01_architecture.md). -/
def D2D_MOD_ROLE.reg : Fld := ⟨256, 0x0204, 31, 0⟩
def D2D_MOD_ROLE.SPARE : Fld := ⟨256, 0x0204, 27, 0⟩
/-- D2D_XREQ_STAT (spec/01_architecture.md). -/
def D2D_XREQ_STAT.reg : Fld := ⟨256, 0x0210, 31, 0⟩
def D2D_XREQ_STAT.TM2FE_OUT : Fld := ⟨256, 0x0210, 23, 12⟩
def D2D_XREQ_STAT.FE2TM_OUT : Fld := ⟨256, 0x0210, 11, 0⟩
/-- BLK_ID (spec/02_register_pages.md). -/
def BLK_ID.reg (n : Nat) : Fld := ⟨n, 0x0000, 31, 0⟩
def BLK_ID.TYPE (n : Nat) : Fld := ⟨n, 0x0000, 31, 16⟩
def BLK_ID.INSTANCE (n : Nat) : Fld := ⟨n, 0x0000, 15, 4⟩
def BLK_ID.VERSION (n : Nat) : Fld := ⟨n, 0x0000, 3, 0⟩
/-- BLK_CAPS (spec/02_register_pages.md). -/
def BLK_CAPS.reg (n : Nat) : Fld := ⟨n, 0x0004, 31, 0⟩
def BLK_CAPS.PAGE_SEQ (n : Nat) : Fld := ⟨n, 0x0004, 31, 28⟩
def BLK_CAPS.TBL (n : Nat) : Fld := ⟨n, 0x0004, 27, 27⟩
def BLK_CAPS.SHADOW (n : Nat) : Fld := ⟨n, 0x0004, 26, 26⟩
def BLK_CAPS.BLOCK_CAPS (n : Nat) : Fld := ⟨n, 0x0004, 15, 0⟩
/-- BLK_CTRL (spec/02_register_pages.md). -/
def BLK_CTRL.reg (n : Nat) : Fld := ⟨n, 0x0008, 31, 0⟩
def BLK_CTRL.VIEW_ACTIVE (n : Nat) : Fld := ⟨n, 0x0008, 3, 3⟩
def BLK_CTRL.FREEZE (n : Nat) : Fld := ⟨n, 0x0008, 2, 2⟩
def BLK_CTRL.SOFT_RESET (n : Nat) : Fld := ⟨n, 0x0008, 1, 1⟩
def BLK_CTRL.ENABLE (n : Nat) : Fld := ⟨n, 0x0008, 0, 0⟩
/-- BLK_STAT (spec/02_register_pages.md). -/
def BLK_STAT.reg (n : Nat) : Fld := ⟨n, 0x000C, 31, 0⟩
def BLK_STAT.BLOCK_STAT (n : Nat) : Fld := ⟨n, 0x000C, 31, 16⟩
def BLK_STAT.SPARED (n : Nat) : Fld := ⟨n, 0x000C, 8, 8⟩
def BLK_STAT.OPEN_CLASS (n : Nat) : Fld := ⟨n, 0x000C, 7, 5⟩
def BLK_STAT.TBL_BUSY (n : Nat) : Fld := ⟨n, 0x000C, 4, 4⟩
def BLK_STAT.COMMIT_PEND (n : Nat) : Fld := ⟨n, 0x000C, 3, 3⟩
def BLK_STAT.FROZEN (n : Nat) : Fld := ⟨n, 0x000C, 2, 2⟩
def BLK_STAT.IDLE (n : Nat) : Fld := ⟨n, 0x000C, 1, 1⟩
def BLK_STAT.READY (n : Nat) : Fld := ⟨n, 0x000C, 0, 0⟩
/-- BLK_INT_STAT (spec/02_register_pages.md). -/
def BLK_INT_STAT.reg (n : Nat) : Fld := ⟨n, 0x0010, 31, 0⟩
def BLK_INT_STAT.BLOCK_INT (n : Nat) : Fld := ⟨n, 0x0010, 31, 16⟩
def BLK_INT_STAT.FAULT (n : Nat) : Fld := ⟨n, 0x0010, 3, 3⟩
def BLK_INT_STAT.COMMIT_DONE (n : Nat) : Fld := ⟨n, 0x0010, 2, 2⟩
def BLK_INT_STAT.TBL_DONE (n : Nat) : Fld := ⟨n, 0x0010, 1, 1⟩
def BLK_INT_STAT.ERRCAP (n : Nat) : Fld := ⟨n, 0x0010, 0, 0⟩
/-- BLK_INT_MASK (spec/02_register_pages.md). -/
def BLK_INT_MASK.reg (n : Nat) : Fld := ⟨n, 0x0014, 31, 0⟩
def BLK_INT_MASK.MASK (n : Nat) : Fld := ⟨n, 0x0014, 31, 0⟩
/-- BLK_INT_FORCE (spec/02_register_pages.md). -/
def BLK_INT_FORCE.reg (n : Nat) : Fld := ⟨n, 0x0018, 31, 0⟩
def BLK_INT_FORCE.FORCE (n : Nat) : Fld := ⟨n, 0x0018, 31, 0⟩
/-- ERRCAP_ADDR_LO (spec/02_register_pages.md). -/
def ERRCAP_ADDR_LO.reg (n : Nat) : Fld := ⟨n, 0x0020, 31, 0⟩
def ERRCAP_ADDR_LO.ADDR_LO (n : Nat) : Fld := ⟨n, 0x0020, 31, 0⟩
/-- ERRCAP_ADDR_HI (spec/02_register_pages.md). -/
def ERRCAP_ADDR_HI.reg (n : Nat) : Fld := ⟨n, 0x0024, 31, 0⟩
def ERRCAP_ADDR_HI.ADDR_HI (n : Nat) : Fld := ⟨n, 0x0024, 15, 0⟩
/-- ERRCAP_MASTER (spec/02_register_pages.md). -/
def ERRCAP_MASTER.reg (n : Nat) : Fld := ⟨n, 0x0028, 31, 0⟩
def ERRCAP_MASTER.MASTER (n : Nat) : Fld := ⟨n, 0x0028, 15, 0⟩
/-- ERRCAP_KIND (spec/02_register_pages.md). -/
def ERRCAP_KIND.reg (n : Nat) : Fld := ⟨n, 0x002C, 31, 0⟩
def ERRCAP_KIND.ACCESS (n : Nat) : Fld := ⟨n, 0x002C, 31, 28⟩
def ERRCAP_KIND.SPACE (n : Nat) : Fld := ⟨n, 0x002C, 27, 24⟩
def ERRCAP_KIND.CLASS (n : Nat) : Fld := ⟨n, 0x002C, 18, 16⟩
def ERRCAP_KIND.KIND (n : Nat) : Fld := ⟨n, 0x002C, 9, 0⟩
/-- ERRCAP_TIME_LO (spec/02_register_pages.md). -/
def ERRCAP_TIME_LO.reg (n : Nat) : Fld := ⟨n, 0x0030, 31, 0⟩
def ERRCAP_TIME_LO.TIME (n : Nat) : Fld := ⟨n, 0x0030, 31, 0⟩
/-- ERRCAP_TIME_HI (spec/02_register_pages.md). -/
def ERRCAP_TIME_HI.reg (n : Nat) : Fld := ⟨n, 0x0034, 31, 0⟩
def ERRCAP_TIME_HI.TIME (n : Nat) : Fld := ⟨n, 0x0034, 31, 0⟩
/-- ERRCAP_DATA (spec/02_register_pages.md). -/
def ERRCAP_DATA.reg (n : Nat) : Fld := ⟨n, 0x0038, 31, 0⟩
def ERRCAP_DATA.DATA (n : Nat) : Fld := ⟨n, 0x0038, 31, 0⟩
/-- ERRCAP_CTRL (spec/02_register_pages.md). -/
def ERRCAP_CTRL.reg (n : Nat) : Fld := ⟨n, 0x003C, 31, 0⟩
def ERRCAP_CTRL.MORE (n : Nat) : Fld := ⟨n, 0x003C, 31, 16⟩
def ERRCAP_CTRL.OVERFLOW (n : Nat) : Fld := ⟨n, 0x003C, 1, 1⟩
def ERRCAP_CTRL.VALID (n : Nat) : Fld := ⟨n, 0x003C, 0, 0⟩
/-- BLK_COMMIT (spec/02_register_pages.md). -/
def BLK_COMMIT.reg (n : Nat) : Fld := ⟨n, 0x0040, 31, 0⟩
def BLK_COMMIT.TAG (n : Nat) : Fld := ⟨n, 0x0040, 31, 16⟩
def BLK_COMMIT.GO (n : Nat) : Fld := ⟨n, 0x0040, 0, 0⟩
/-- BLK_COMMIT_STAT (spec/02_register_pages.md). -/
def BLK_COMMIT_STAT.reg (n : Nat) : Fld := ⟨n, 0x0044, 31, 0⟩
def BLK_COMMIT_STAT.TAG (n : Nat) : Fld := ⟨n, 0x0044, 31, 16⟩
def BLK_COMMIT_STAT.REFUSED (n : Nat) : Fld := ⟨n, 0x0044, 2, 2⟩
def BLK_COMMIT_STAT.PENDING (n : Nat) : Fld := ⟨n, 0x0044, 1, 1⟩
def BLK_COMMIT_STAT.DONE (n : Nat) : Fld := ⟨n, 0x0044, 0, 0⟩
/-- DIR_COUNT (spec/02_register_pages.md). -/
def DIR_COUNT.reg : Fld := ⟨0, 0x0200, 31, 0⟩
def DIR_COUNT.COUNT : Fld := ⟨0, 0x0200, 11, 0⟩
/-- DIR_FORMAT (spec/02_register_pages.md). -/
def DIR_FORMAT.reg : Fld := ⟨0, 0x0204, 31, 0⟩
def DIR_FORMAT.FORMAT : Fld := ⟨0, 0x0204, 7, 0⟩
/-- TBL_CMD (spec/02_register_pages.md). -/
def TBL_CMD.reg (n : Nat) : Fld := ⟨n, 0x0100, 31, 0⟩
def TBL_CMD.OP (n : Nat) : Fld := ⟨n, 0x0100, 31, 28⟩
def TBL_CMD.TABLE (n : Nat) : Fld := ⟨n, 0x0100, 27, 22⟩
def TBL_CMD.INDEX (n : Nat) : Fld := ⟨n, 0x0100, 21, 0⟩
/-- TBL_STAT (spec/02_register_pages.md). -/
def TBL_STAT.reg (n : Nat) : Fld := ⟨n, 0x0104, 31, 0⟩
def TBL_STAT.BUSY (n : Nat) : Fld := ⟨n, 0x0104, 31, 31⟩
def TBL_STAT.DONE (n : Nat) : Fld := ⟨n, 0x0104, 30, 30⟩
def TBL_STAT.HIT (n : Nat) : Fld := ⟨n, 0x0104, 29, 29⟩
def TBL_STAT.OVERRUN (n : Nat) : Fld := ⟨n, 0x0104, 28, 28⟩
def TBL_STAT.RESULT (n : Nat) : Fld := ⟨n, 0x0104, 7, 0⟩
/-- TBL_OPT (spec/02_register_pages.md). -/
def TBL_OPT.reg (n : Nat) : Fld := ⟨n, 0x0108, 31, 0⟩
def TBL_OPT.HIT_CLEAR (n : Nat) : Fld := ⟨n, 0x0108, 2, 2⟩
def TBL_OPT.RETURN_OLD (n : Nat) : Fld := ⟨n, 0x0108, 1, 1⟩
def TBL_OPT.REPLACE (n : Nat) : Fld := ⟨n, 0x0108, 0, 0⟩
/-- TBL_RES (spec/02_register_pages.md). -/
def TBL_RES.reg (n : Nat) : Fld := ⟨n, 0x010C, 31, 0⟩
def TBL_RES.RES_INDEX (n : Nat) : Fld := ⟨n, 0x010C, 21, 0⟩
/-- TBL_JSEQ_LO (spec/02_register_pages.md). -/
def TBL_JSEQ_LO.reg (n : Nat) : Fld := ⟨n, 0x0110, 31, 0⟩
def TBL_JSEQ_LO.JSEQ (n : Nat) : Fld := ⟨n, 0x0110, 31, 0⟩
/-- TBL_JSEQ_HI (spec/02_register_pages.md). -/
def TBL_JSEQ_HI.reg (n : Nat) : Fld := ⟨n, 0x0114, 31, 0⟩
def TBL_JSEQ_HI.JSEQ (n : Nat) : Fld := ⟨n, 0x0114, 31, 0⟩
/-- TBL_LOCK (spec/02_register_pages.md). -/
def TBL_LOCK.reg (n : Nat) : Fld := ⟨n, 0x0118, 31, 0⟩
def TBL_LOCK.GRANTED (n : Nat) : Fld := ⟨n, 0x0118, 31, 31⟩
def TBL_LOCK.HELD (n : Nat) : Fld := ⟨n, 0x0118, 30, 30⟩
def TBL_LOCK.FORCE_RELEASE (n : Nat) : Fld := ⟨n, 0x0118, 17, 17⟩
def TBL_LOCK.RELEASE (n : Nat) : Fld := ⟨n, 0x0118, 16, 16⟩
def TBL_LOCK.OWNER (n : Nat) : Fld := ⟨n, 0x0118, 15, 0⟩
/-- TBL_FENCE (spec/02_register_pages.md). -/
def TBL_FENCE.reg (n : Nat) : Fld := ⟨n, 0x011C, 31, 0⟩
/-- PORT_MODE (spec/03_ports_and_framing.md). -/
def PORT_MODE.reg (p : Nat) : Fld := ⟨16 + p, 0x0200, 31, 0⟩
def PORT_MODE.FLEXE (p : Nat) : Fld := ⟨16 + p, 0x0200, 13, 13⟩
def PORT_MODE.LT_EN (p : Nat) : Fld := ⟨16 + p, 0x0200, 12, 12⟩
def PORT_MODE.AN_EN (p : Nat) : Fld := ⟨16 + p, 0x0200, 11, 11⟩
def PORT_MODE.FEC (p : Nat) : Fld := ⟨16 + p, 0x0200, 10, 8⟩
def PORT_MODE.MODE (p : Nat) : Fld := ⟨16 + p, 0x0200, 3, 0⟩
/-- PORT_LANE_MAP (spec/03_ports_and_framing.md). -/
def PORT_LANE_MAP.reg (p : Nat) : Fld := ⟨16 + p, 0x0204, 31, 0⟩
def PORT_LANE_MAP.RX_SEL (p : Nat) : Fld := ⟨16 + p, 0x0204, 23, 16⟩
def PORT_LANE_MAP.TX_SEL (p : Nat) : Fld := ⟨16 + p, 0x0204, 15, 8⟩
def PORT_LANE_MAP.RX_INV (p : Nat) : Fld := ⟨16 + p, 0x0204, 7, 4⟩
def PORT_LANE_MAP.TX_INV (p : Nat) : Fld := ⟨16 + p, 0x0204, 3, 0⟩
/-- PORT_MAC_CFG (spec/03_ports_and_framing.md). -/
def PORT_MAC_CFG.reg (p : Nat) : Fld := ⟨16 + p, 0x0208, 31, 0⟩
def PORT_MAC_CFG.PAUSE_MODE (p : Nat) : Fld := ⟨16 + p, 0x0208, 15, 14⟩
def PORT_MAC_CFG.MAX_FRAME (p : Nat) : Fld := ⟨16 + p, 0x0208, 13, 0⟩
/-- PORT_PAUSE_CFG (spec/03_ports_and_framing.md). -/
def PORT_PAUSE_CFG.reg (p : Nat) : Fld := ⟨16 + p, 0x020C, 31, 0⟩
def PORT_PAUSE_CFG.QUANTA (p : Nat) : Fld := ⟨16 + p, 0x020C, 31, 16⟩
def PORT_PAUSE_CFG.TX_EN (p : Nat) : Fld := ⟨16 + p, 0x020C, 15, 8⟩
def PORT_PAUSE_CFG.RX_EN (p : Nat) : Fld := ⟨16 + p, 0x020C, 7, 0⟩
/-- PORT_TEST (spec/03_ports_and_framing.md). -/
def PORT_TEST.reg (p : Nat) : Fld := ⟨16 + p, 0x0210, 31, 0⟩
def PORT_TEST.PRBS (p : Nat) : Fld := ⟨16 + p, 0x0210, 7, 4⟩
def PORT_TEST.LPBK (p : Nat) : Fld := ⟨16 + p, 0x0210, 1, 0⟩
/-- PORT_STAT (spec/03_ports_and_framing.md). -/
def PORT_STAT.reg (p : Nat) : Fld := ⟨16 + p, 0x0220, 31, 0⟩
def PORT_STAT.PFC_PAUSED (p : Nat) : Fld := ⟨16 + p, 0x0220, 31, 16⟩
def PORT_STAT.CFG_ERR (p : Nat) : Fld := ⟨16 + p, 0x0220, 9, 9⟩
def PORT_STAT.LT_DONE (p : Nat) : Fld := ⟨16 + p, 0x0220, 8, 8⟩
def PORT_STAT.AN_DONE (p : Nat) : Fld := ⟨16 + p, 0x0220, 7, 7⟩
def PORT_STAT.RF (p : Nat) : Fld := ⟨16 + p, 0x0220, 6, 6⟩
def PORT_STAT.LF (p : Nat) : Fld := ⟨16 + p, 0x0220, 5, 5⟩
def PORT_STAT.HI_BER (p : Nat) : Fld := ⟨16 + p, 0x0220, 4, 4⟩
def PORT_STAT.LOL (p : Nat) : Fld := ⟨16 + p, 0x0220, 3, 3⟩
def PORT_STAT.LOS (p : Nat) : Fld := ⟨16 + p, 0x0220, 2, 2⟩
def PORT_STAT.FEC_LOCK (p : Nat) : Fld := ⟨16 + p, 0x0220, 1, 1⟩
def PORT_STAT.LINK_UP (p : Nat) : Fld := ⟨16 + p, 0x0220, 0, 0⟩
/-- PORT_CAGE_CTRL (spec/03_ports_and_framing.md). -/
def PORT_CAGE_CTRL.reg (p : Nat) : Fld := ⟨16 + p, 0x0230, 31, 0⟩
def PORT_CAGE_CTRL.PWR_MAX (p : Nat) : Fld := ⟨16 + p, 0x0230, 7, 5⟩
def PORT_CAGE_CTRL.I2C_SPEED (p : Nat) : Fld := ⟨16 + p, 0x0230, 4, 3⟩
def PORT_CAGE_CTRL.MANUAL (p : Nat) : Fld := ⟨16 + p, 0x0230, 2, 2⟩
def PORT_CAGE_CTRL.LPMODE (p : Nat) : Fld := ⟨16 + p, 0x0230, 1, 1⟩
def PORT_CAGE_CTRL.RESET (p : Nat) : Fld := ⟨16 + p, 0x0230, 0, 0⟩
/-- PORT_CAGE_STAT (spec/03_ports_and_framing.md). -/
def PORT_CAGE_STAT.reg (p : Nat) : Fld := ⟨16 + p, 0x0234, 31, 0⟩
def PORT_CAGE_STAT.IDENT (p : Nat) : Fld := ⟨16 + p, 0x0234, 31, 24⟩
def PORT_CAGE_STAT.CMIS_REV (p : Nat) : Fld := ⟨16 + p, 0x0234, 23, 16⟩
def PORT_CAGE_STAT.PWR_CLASS (p : Nat) : Fld := ⟨16 + p, 0x0234, 15, 12⟩
def PORT_CAGE_STAT.APPSEL (p : Nat) : Fld := ⟨16 + p, 0x0234, 11, 8⟩
def PORT_CAGE_STAT.STATE (p : Nat) : Fld := ⟨16 + p, 0x0234, 4, 2⟩
def PORT_CAGE_STAT.INT (p : Nat) : Fld := ⟨16 + p, 0x0234, 1, 1⟩
def PORT_CAGE_STAT.PRESENT (p : Nat) : Fld := ⟨16 + p, 0x0234, 0, 0⟩
/-- PORT_MOD_ADDR (spec/03_ports_and_framing.md). -/
def PORT_MOD_ADDR.reg (p : Nat) : Fld := ⟨16 + p, 0x0238, 31, 0⟩
def PORT_MOD_ADDR.BANK (p : Nat) : Fld := ⟨16 + p, 0x0238, 31, 24⟩
def PORT_MOD_ADDR.PAGE (p : Nat) : Fld := ⟨16 + p, 0x0238, 23, 16⟩
def PORT_MOD_ADDR.OFFSET (p : Nat) : Fld := ⟨16 + p, 0x0238, 15, 8⟩
/-- PORT_MOD_CMD (spec/03_ports_and_framing.md). -/
def PORT_MOD_CMD.reg (p : Nat) : Fld := ⟨16 + p, 0x023C, 31, 0⟩
def PORT_MOD_CMD.BUSY (p : Nat) : Fld := ⟨16 + p, 0x023C, 31, 31⟩
def PORT_MOD_CMD.ERR (p : Nat) : Fld := ⟨16 + p, 0x023C, 30, 30⟩
def PORT_MOD_CMD.WRITE (p : Nat) : Fld := ⟨16 + p, 0x023C, 16, 16⟩
def PORT_MOD_CMD.DATA (p : Nat) : Fld := ⟨16 + p, 0x023C, 15, 8⟩
def PORT_MOD_CMD.GO (p : Nat) : Fld := ⟨16 + p, 0x023C, 0, 0⟩
/-- PORT_PM_ES (spec/03_ports_and_framing.md). -/
def PORT_PM_ES.reg (p : Nat) : Fld := ⟨16 + p, 0x0240, 31, 0⟩
def PORT_PM_ES.COUNT (p : Nat) : Fld := ⟨16 + p, 0x0240, 31, 0⟩
/-- PORT_PM_SES (spec/03_ports_and_framing.md). -/
def PORT_PM_SES.reg (p : Nat) : Fld := ⟨16 + p, 0x0244, 31, 0⟩
def PORT_PM_SES.COUNT (p : Nat) : Fld := ⟨16 + p, 0x0244, 31, 0⟩
/-- PORT_PM_UAS (spec/03_ports_and_framing.md). -/
def PORT_PM_UAS.reg (p : Nat) : Fld := ⟨16 + p, 0x0248, 31, 0⟩
def PORT_PM_UAS.COUNT (p : Nat) : Fld := ⟨16 + p, 0x0248, 31, 0⟩
/-- PORT_PM_PEND (spec/03_ports_and_framing.md). -/
def PORT_PM_PEND.reg (p : Nat) : Fld := ⟨16 + p, 0x024C, 31, 0⟩
def PORT_PM_PEND.UNAVAIL (p : Nat) : Fld := ⟨16 + p, 0x024C, 31, 31⟩
def PORT_PM_PEND.SES_HIST (p : Nat) : Fld := ⟨16 + p, 0x024C, 9, 0⟩
/-- FLX_GROUP_CFG (spec/03_ports_and_framing.md). -/
def FLX_GROUP_CFG.reg (g : Nat) : Fld := ⟨64 + g, 0x0200, 31, 0⟩
def FLX_GROUP_CFG.EN (g : Nat) : Fld := ⟨64 + g, 0x0200, 31, 31⟩
def FLX_GROUP_CFG.PHY_RATE (g : Nat) : Fld := ⟨64 + g, 0x0200, 30, 29⟩
def FLX_GROUP_CFG.CA_HANDSHAKE (g : Nat) : Fld := ⟨64 + g, 0x0200, 28, 28⟩
def FLX_GROUP_CFG.GROUP_NUM (g : Nat) : Fld := ⟨64 + g, 0x0200, 19, 0⟩
/-- FLX_MEMBER (spec/03_ports_and_framing.md). -/
def FLX_MEMBER.reg (g i : Nat) : Fld := ⟨64 + g, 0x0210 + 4 * i, 31, 0⟩
def FLX_MEMBER.VALID (g i : Nat) : Fld := ⟨64 + g, 0x0210 + 4 * i, 31, 31⟩
def FLX_MEMBER.PORT (g i : Nat) : Fld := ⟨64 + g, 0x0210 + 4 * i, 13, 8⟩
def FLX_MEMBER.PHY_NUM (g i : Nat) : Fld := ⟨64 + g, 0x0210 + 4 * i, 7, 0⟩
/-- FLX_CAL_CTRL (spec/03_ports_and_framing.md). -/
def FLX_CAL_CTRL.reg (g : Nat) : Fld := ⟨64 + g, 0x0240, 31, 0⟩
def FLX_CAL_CTRL.SWITCH (g : Nat) : Fld := ⟨64 + g, 0x0240, 2, 2⟩
def FLX_CAL_CTRL.TX_C (g : Nat) : Fld := ⟨64 + g, 0x0240, 1, 1⟩
def FLX_CAL_CTRL.RX_C (g : Nat) : Fld := ⟨64 + g, 0x0240, 0, 0⟩
/-- FLX_STAT (spec/03_ports_and_framing.md). -/
def FLX_STAT.reg (g : Nat) : Fld := ⟨64 + g, 0x0250, 31, 0⟩
def FLX_STAT.OF_LOCK (g : Nat) : Fld := ⟨64 + g, 0x0250, 31, 24⟩
def FLX_STAT.MF_LOCK (g : Nat) : Fld := ⟨64 + g, 0x0250, 23, 16⟩
def FLX_STAT.RPF_RX (g : Nat) : Fld := ⟨64 + g, 0x0250, 15, 8⟩
def FLX_STAT.CFG_ERR (g : Nat) : Fld := ⟨64 + g, 0x0250, 4, 4⟩
def FLX_STAT.CR_TX (g : Nat) : Fld := ⟨64 + g, 0x0250, 3, 3⟩
def FLX_STAT.CA_RX (g : Nat) : Fld := ⟨64 + g, 0x0250, 2, 2⟩
def FLX_STAT.CALM (g : Nat) : Fld := ⟨64 + g, 0x0250, 1, 1⟩
def FLX_STAT.GSE (g : Nat) : Fld := ⟨64 + g, 0x0250, 0, 0⟩
/-- FLX_SKEW (spec/03_ports_and_framing.md). -/
def FLX_SKEW.reg (g : Nat) : Fld := ⟨64 + g, 0x0254, 31, 0⟩
def FLX_SKEW.SKEW_NS (g : Nat) : Fld := ⟨64 + g, 0x0254, 15, 0⟩
/-- FLX_CL_STAT (spec/03_ports_and_framing.md). -/
def FLX_CL_STAT.reg (g i : Nat) : Fld := ⟨64 + g, 0x1000 + 4 * i, 31, 0⟩
def FLX_CL_STAT.FAILED (g i : Nat) : Fld := ⟨64 + g, 0x1000 + 4 * i, 5, 5⟩
def FLX_CL_STAT.RAO (g i : Nat) : Fld := ⟨64 + g, 0x1000 + 4 * i, 4, 4⟩
def FLX_CL_STAT.AIS (g i : Nat) : Fld := ⟨64 + g, 0x1000 + 4 * i, 3, 3⟩
def FLX_CL_STAT.RF (g i : Nat) : Fld := ⟨64 + g, 0x1000 + 4 * i, 2, 2⟩
def FLX_CL_STAT.LF (g i : Nat) : Fld := ⟨64 + g, 0x1000 + 4 * i, 1, 1⟩
def FLX_CL_STAT.LOSYNC (g i : Nat) : Fld := ⟨64 + g, 0x1000 + 4 * i, 0, 0⟩
/-- FLX_CL_PM word 0 (spec/03_ports_and_framing.md). -/
def FLX_CL_PM0.reg (g i : Nat) : Fld := ⟨64 + g, 0x1400 + 16 * i, 31, 0⟩
def FLX_CL_PM.ES (g i : Nat) : Fld := ⟨64 + g, 0x1400 + 16 * i, 31, 0⟩
/-- FLX_CL_PM word 1 (spec/03_ports_and_framing.md). -/
def FLX_CL_PM1.reg (g i : Nat) : Fld := ⟨64 + g, 0x1404 + 16 * i, 31, 0⟩
def FLX_CL_PM.SES (g i : Nat) : Fld := ⟨64 + g, 0x1404 + 16 * i, 31, 0⟩
/-- FLX_CL_PM word 2 (spec/03_ports_and_framing.md). -/
def FLX_CL_PM2.reg (g i : Nat) : Fld := ⟨64 + g, 0x1408 + 16 * i, 31, 0⟩
def FLX_CL_PM.UAS (g i : Nat) : Fld := ⟨64 + g, 0x1408 + 16 * i, 31, 0⟩
/-- FLX_CL_PM word 3 (spec/03_ports_and_framing.md). -/
def FLX_CL_PM3.reg (g i : Nat) : Fld := ⟨64 + g, 0x140C + 16 * i, 31, 0⟩
def FLX_CL_PM.UNAVAIL (g i : Nat) : Fld := ⟨64 + g, 0x140C + 16 * i, 31, 31⟩
def FLX_CL_PM.SES_HIST (g i : Nat) : Fld := ⟨64 + g, 0x140C + 16 * i, 9, 0⟩
/-- XC_SWITCH (spec/03_ports_and_framing.md). -/
def XC_SWITCH.reg : Fld := ⟨88, 0x0200, 31, 0⟩
def XC_SWITCH.GO : Fld := ⟨88, 0x0200, 31, 31⟩
def XC_SWITCH.COPY : Fld := ⟨88, 0x0200, 30, 30⟩
def XC_SWITCH.MODE : Fld := ⟨88, 0x0200, 29, 28⟩
def XC_SWITCH.GROUP : Fld := ⟨88, 0x0200, 4, 0⟩
/-- XC_STAT (spec/03_ports_and_framing.md). -/
def XC_STAT.reg : Fld := ⟨88, 0x0204, 31, 0⟩
def XC_STAT.PEND : Fld := ⟨88, 0x0204, 31, 31⟩
def XC_STAT.ACTIVE_PAGE : Fld := ⟨88, 0x0204, 16, 16⟩
def XC_STAT.ERR_CODE : Fld := ⟨88, 0x0204, 15, 12⟩
def XC_STAT.ERR_INDEX : Fld := ⟨88, 0x0204, 11, 0⟩
/-- XC_SW_TIME_LO (spec/03_ports_and_framing.md). -/
def XC_SW_TIME_LO.reg : Fld := ⟨88, 0x0208, 31, 0⟩
def XC_SW_TIME_LO.TIME : Fld := ⟨88, 0x0208, 31, 0⟩
/-- XC_SW_TIME_HI (spec/03_ports_and_framing.md). -/
def XC_SW_TIME_HI.reg : Fld := ⟨88, 0x020C, 31, 0⟩
def XC_SW_TIME_HI.TIME : Fld := ⟨88, 0x020C, 31, 0⟩
/-- XC_CH_STAT (spec/03_ports_and_framing.md). -/
def XC_CH_STAT.reg (i : Nat) : Fld := ⟨88, 0x1000 + 4 * i, 31, 0⟩
def XC_CH_STAT.TX_AIS (i : Nat) : Fld := ⟨88, 0x1000 + 4 * i, 1, 1⟩
def XC_CH_STAT.RX_AIS (i : Nat) : Fld := ⟨88, 0x1000 + 4 * i, 0, 0⟩
/-- PRS_TPID (spec/04_parsing_and_classification.md). -/
def PRS_TPID.reg : Fld := ⟨96, 0x0200, 31, 0⟩
def PRS_TPID.CUSTOM_EN : Fld := ⟨96, 0x0200, 16, 16⟩
def PRS_TPID.CUSTOM : Fld := ⟨96, 0x0200, 15, 0⟩
/-- PRS_MPLS_CFG (spec/04_parsing_and_classification.md). -/
def PRS_MPLS_CFG.reg : Fld := ⟨96, 0x0204, 31, 0⟩
def PRS_MPLS_CFG.CW_ETH : Fld := ⟨96, 0x0204, 1, 1⟩
def PRS_MPLS_CFG.GUESS : Fld := ⟨96, 0x0204, 0, 0⟩
/-- PRS_VXLAN (spec/04_parsing_and_classification.md). -/
def PRS_VXLAN.reg : Fld := ⟨96, 0x0208, 31, 0⟩
def PRS_VXLAN.EN : Fld := ⟨96, 0x0208, 16, 16⟩
def PRS_VXLAN.PORT : Fld := ⟨96, 0x0208, 15, 0⟩
/-- PRS_PROTO_EN (spec/04_parsing_and_classification.md). -/
def PRS_PROTO_EN.reg : Fld := ⟨96, 0x020C, 31, 0⟩
def PRS_PROTO_EN.RTP_EN : Fld := ⟨96, 0x020C, 23, 16⟩
def PRS_PROTO_EN.V4_CSUM_CHK : Fld := ⟨96, 0x020C, 5, 5⟩
def PRS_PROTO_EN.GRE_EN : Fld := ⟨96, 0x020C, 4, 4⟩
def PRS_PROTO_EN.CFM_EN : Fld := ⟨96, 0x020C, 3, 3⟩
def PRS_PROTO_EN.BFD_EN : Fld := ⟨96, 0x020C, 2, 2⟩
def PRS_PROTO_EN.PTP_UDP_EN : Fld := ⟨96, 0x020C, 1, 1⟩
def PRS_PROTO_EN.PTP_L2_EN : Fld := ⟨96, 0x020C, 0, 0⟩
/-- PRS_RTP_RANGE (spec/04_parsing_and_classification.md). -/
def PRS_RTP_RANGE.reg (i : Nat) : Fld := ⟨96, 0x0220 + 4 * i, 31, 0⟩
def PRS_RTP_RANGE.HI (i : Nat) : Fld := ⟨96, 0x0220 + 4 * i, 31, 16⟩
def PRS_RTP_RANGE.LO (i : Nat) : Fld := ⟨96, 0x0220 + 4 * i, 15, 0⟩
/-- PRS_EXC_IG (spec/04_parsing_and_classification.md). -/
def PRS_EXC_IG.reg : Fld := ⟨96, 0x0240, 31, 0⟩
def PRS_EXC_IG.ACT : Fld := ⟨96, 0x0240, 31, 2⟩
/-- PRS_EXC_EG (spec/04_parsing_and_classification.md). -/
def PRS_EXC_EG.reg : Fld := ⟨96, 0x0244, 31, 0⟩
def PRS_EXC_EG.DROP : Fld := ⟨96, 0x0244, 15, 1⟩
/-- PMT_CFG (spec/04_parsing_and_classification.md). -/
def PMT_CFG.reg : Fld := ⟨97, 0x0200, 31, 0⟩
def PMT_CFG.EN : Fld := ⟨97, 0x0200, 0, 0⟩
/-- ASM_BANK_MODE (spec/04_parsing_and_classification.md). -/
def ASM_BANK_MODE.reg : Fld := ⟨98, 0x0200, 31, 0⟩
def ASM_BANK_MODE.QUAD_MODE : Fld := ⟨98, 0x0200, 15, 0⟩
/-- ASM_BANK_PWR (spec/04_parsing_and_classification.md). -/
def ASM_BANK_PWR.reg : Fld := ⟨98, 0x0204, 31, 0⟩
def ASM_BANK_PWR.PWR : Fld := ⟨98, 0x0204, 31, 0⟩
/-- ASM_BANK_STAT (spec/04_parsing_and_classification.md). -/
def ASM_BANK_STAT.reg : Fld := ⟨98, 0x0208, 31, 0⟩
def ASM_BANK_STAT.READY : Fld := ⟨98, 0x0208, 31, 0⟩
/-- ASM_SCRUB_CFG (spec/04_parsing_and_classification.md). -/
def ASM_SCRUB_CFG.reg : Fld := ⟨98, 0x020C, 31, 0⟩
def ASM_SCRUB_CFG.EN : Fld := ⟨98, 0x020C, 31, 31⟩
def ASM_SCRUB_CFG.INTERVAL : Fld := ⟨98, 0x020C, 15, 0⟩
/-- ASM_SPARE_STAT (spec/04_parsing_and_classification.md). -/
def ASM_SPARE_STAT.reg : Fld := ⟨98, 0x0210, 31, 0⟩
def ASM_SPARE_STAT.COPYING : Fld := ⟨98, 0x0210, 31, 31⟩
def ASM_SPARE_STAT.LOGICAL : Fld := ⟨98, 0x0210, 21, 16⟩
def ASM_SPARE_STAT.SPARE_PHYS : Fld := ⟨98, 0x0210, 5, 0⟩
/-- ASM_STEP (spec/04_parsing_and_classification.md). -/
def ASM_STEP.reg : Fld := ⟨98, 0x0214, 31, 0⟩
def ASM_STEP.PROFILE : Fld := ⟨98, 0x0214, 5, 0⟩
/-- ASM_PROF_ERR_LO (spec/04_parsing_and_classification.md). -/
def ASM_PROF_ERR_LO.reg : Fld := ⟨98, 0x0218, 31, 0⟩
def ASM_PROF_ERR_LO.ERR : Fld := ⟨98, 0x0218, 31, 0⟩
/-- ASM_PROF_ERR_HI (spec/04_parsing_and_classification.md). -/
def ASM_PROF_ERR_HI.reg : Fld := ⟨98, 0x021C, 31, 0⟩
def ASM_PROF_ERR_HI.ERR : Fld := ⟨98, 0x021C, 31, 0⟩
/-- ASM_STAT (spec/04_parsing_and_classification.md). -/
def ASM_STAT.reg : Fld := ⟨98, 0x0220, 31, 0⟩
def ASM_STAT.MODE_REFUSED : Fld := ⟨98, 0x0220, 7, 0⟩
/-- ASM_PROF_CFG (spec/04_parsing_and_classification.md). -/
def ASM_PROF_CFG.reg (i : Nat) : Fld := ⟨98, 0x1000 + 256 * i, 31, 0⟩
def ASM_PROF_CFG.EN (i : Nat) : Fld := ⟨98, 0x1000 + 256 * i, 31, 31⟩
def ASM_PROF_CFG.WIDTH (i : Nat) : Fld := ⟨98, 0x1000 + 256 * i, 30, 29⟩
def ASM_PROF_CFG.MULTI_COPY (i : Nat) : Fld := ⟨98, 0x1000 + 256 * i, 28, 28⟩
def ASM_PROF_CFG.INCOMPLETE_ACT (i : Nat) : Fld := ⟨98, 0x1000 + 256 * i, 27, 26⟩
/-- ASM_PROF_BANKS (spec/04_parsing_and_classification.md). -/
def ASM_PROF_BANKS.reg (i : Nat) : Fld := ⟨98, 0x1004 + 256 * i, 31, 0⟩
def ASM_PROF_BANKS.SET (i : Nat) : Fld := ⟨98, 0x1004 + 256 * i, 31, 0⟩
/-- ASM_PROF_MISS (spec/04_parsing_and_classification.md). -/
def ASM_PROF_MISS.reg (i : Nat) : Fld := ⟨98, 0x1008 + 256 * i, 31, 0⟩
def ASM_PROF_MISS.VALID (i : Nat) : Fld := ⟨98, 0x1008 + 256 * i, 31, 31⟩
def ASM_PROF_MISS.LIST (i : Nat) : Fld := ⟨98, 0x1008 + 256 * i, 18, 0⟩
/-- ASM_PROF_SEL (spec/04_parsing_and_classification.md). -/
def ASM_PROF_SEL.reg (i j : Nat) : Fld := ⟨98, 0x1080 + 256 * i + 4 * j, 31, 0⟩
def ASM_PROF_SEL.VALID (i j : Nat) : Fld := ⟨98, 0x1080 + 256 * i + 4 * j, 31, 31⟩
def ASM_PROF_SEL.KEY_OFFSET (i j : Nat) : Fld := ⟨98, 0x1080 + 256 * i + 4 * j, 25, 16⟩
def ASM_PROF_SEL.FIELD (i j : Nat) : Fld := ⟨98, 0x1080 + 256 * i + 4 * j, 7, 0⟩
/-- ACT_CFG (spec/04_parsing_and_classification.md). -/
def ACT_CFG.reg : Fld := ⟨104, 0x0200, 31, 0⟩
def ACT_CFG.UDP4_ZERO_KEEP : Fld := ⟨104, 0x0200, 1, 1⟩
def ACT_CFG.L4_CSUM_UPD : Fld := ⟨104, 0x0200, 0, 0⟩
/-- LPM_CFG (spec/05_forwarding_tables.md). -/
def LPM_CFG.reg : Fld := ⟨100, 0x0200, 31, 0⟩
def LPM_CFG.MAX_PASS : Fld := ⟨100, 0x0200, 2, 1⟩
def LPM_CFG.EXHAUST : Fld := ⟨100, 0x0200, 0, 0⟩
/-- LPM_FILTER_CFG (spec/05_forwarding_tables.md). -/
def LPM_FILTER_CFG.reg : Fld := ⟨100, 0x0204, 31, 0⟩
def LPM_FILTER_CFG.REBUILD4 : Fld := ⟨100, 0x0204, 31, 31⟩
def LPM_FILTER_CFG.REBUILD6 : Fld := ⟨100, 0x0204, 30, 30⟩
def LPM_FILTER_CFG.AUTO : Fld := ⟨100, 0x0204, 29, 29⟩
def LPM_FILTER_CFG.DEL_LIMIT : Fld := ⟨100, 0x0204, 21, 0⟩
/-- LPM_STAT (spec/05_forwarding_tables.md). -/
def LPM_STAT.reg : Fld := ⟨100, 0x0208, 31, 0⟩
def LPM_STAT.STASH6_USED : Fld := ⟨100, 0x0208, 31, 20⟩
def LPM_STAT.STASH4_USED : Fld := ⟨100, 0x0208, 19, 8⟩
def LPM_STAT.USE_REFUSED : Fld := ⟨100, 0x0208, 2, 2⟩
def LPM_STAT.BUILD6 : Fld := ⟨100, 0x0208, 1, 1⟩
def LPM_STAT.BUILD4 : Fld := ⟨100, 0x0208, 0, 0⟩
/-- LPM_COUNT4 (spec/05_forwarding_tables.md). -/
def LPM_COUNT4.reg : Fld := ⟨100, 0x0210, 31, 0⟩
def LPM_COUNT4.VALUE : Fld := ⟨100, 0x0210, 23, 0⟩
/-- LPM_COUNT6 (spec/05_forwarding_tables.md). -/
def LPM_COUNT6.reg : Fld := ⟨100, 0x0214, 31, 0⟩
def LPM_COUNT6.VALUE : Fld := ⟨100, 0x0214, 23, 0⟩
/-- LPM_LOAD4 (spec/05_forwarding_tables.md). -/
def LPM_LOAD4.reg : Fld := ⟨100, 0x0218, 31, 0⟩
def LPM_LOAD4.VALUE : Fld := ⟨100, 0x0218, 23, 0⟩
/-- LPM_LOAD6 (spec/05_forwarding_tables.md). -/
def LPM_LOAD6.reg : Fld := ⟨100, 0x021C, 31, 0⟩
def LPM_LOAD6.VALUE : Fld := ⟨100, 0x021C, 23, 0⟩
/-- LPM_HASH_SEED (spec/05_forwarding_tables.md). -/
def LPM_HASH_SEED.reg : Fld := ⟨100, 0x0220, 31, 0⟩
def LPM_HASH_SEED.SEED : Fld := ⟨100, 0x0220, 31, 0⟩
/-- LPM_MEM_USE (spec/05_forwarding_tables.md). -/
def LPM_MEM_USE.reg (i : Nat) : Fld := ⟨100, 0x1000 + 4 * i, 31, 0⟩
def LPM_MEM_USE.USE (i : Nat) : Fld := ⟨100, 0x1000 + 4 * i, 3, 0⟩
/-- EXM_ROUTER_MAC_LO (spec/05_forwarding_tables.md). -/
def EXM_ROUTER_MAC_LO.reg (i : Nat) : Fld := ⟨101, 0x0200 + 8 * i, 31, 0⟩
def EXM_ROUTER_MAC_LO.MAC_LO (i : Nat) : Fld := ⟨101, 0x0200 + 8 * i, 31, 0⟩
/-- EXM_ROUTER_MAC_HI (spec/05_forwarding_tables.md). -/
def EXM_ROUTER_MAC_HI.reg (i : Nat) : Fld := ⟨101, 0x0204 + 8 * i, 31, 0⟩
def EXM_ROUTER_MAC_HI.VALID (i : Nat) : Fld := ⟨101, 0x0204 + 8 * i, 31, 31⟩
def EXM_ROUTER_MAC_HI.MAC_HI (i : Nat) : Fld := ⟨101, 0x0204 + 8 * i, 15, 0⟩
/-- EXM_STAT (spec/05_forwarding_tables.md). -/
def EXM_STAT.reg : Fld := ⟨101, 0x0240, 31, 0⟩
def EXM_STAT.LIFMAP_COUNT : Fld := ⟨101, 0x0240, 20, 0⟩
/-- EXM_HASH_SEED (spec/05_forwarding_tables.md). -/
def EXM_HASH_SEED.reg : Fld := ⟨101, 0x0244, 31, 0⟩
def EXM_HASH_SEED.SEED : Fld := ⟨101, 0x0244, 31, 0⟩
/-- EXM_STASH (spec/05_forwarding_tables.md). -/
def EXM_STASH.reg : Fld := ⟨101, 0x0248, 31, 0⟩
def EXM_STASH.STASH_USED : Fld := ⟨101, 0x0248, 11, 0⟩
/-- L2B_AGE_CFG (spec/05_forwarding_tables.md). -/
def L2B_AGE_CFG.reg : Fld := ⟨102, 0x0200, 31, 0⟩
def L2B_AGE_CFG.EN : Fld := ⟨102, 0x0200, 31, 31⟩
def L2B_AGE_CFG.PERIOD : Fld := ⟨102, 0x0200, 19, 0⟩
/-- L2B_LEARN_CFG (spec/05_forwarding_tables.md). -/
def L2B_LEARN_CFG.reg : Fld := ⟨102, 0x0204, 31, 0⟩
def L2B_LEARN_CFG.EN : Fld := ⟨102, 0x0204, 31, 31⟩
def L2B_LEARN_CFG.NTF_LIMIT : Fld := ⟨102, 0x0204, 3, 3⟩
def L2B_LEARN_CFG.NTF_AGE : Fld := ⟨102, 0x0204, 2, 2⟩
def L2B_LEARN_CFG.NTF_MOVE : Fld := ⟨102, 0x0204, 1, 1⟩
def L2B_LEARN_CFG.NTF_LEARN : Fld := ⟨102, 0x0204, 0, 0⟩
/-- L2B_COUNT (spec/05_forwarding_tables.md). -/
def L2B_COUNT.reg : Fld := ⟨102, 0x0208, 31, 0⟩
def L2B_COUNT.ENTRIES : Fld := ⟨102, 0x0208, 20, 0⟩
/-- L2B_LEARN_DROP (spec/05_forwarding_tables.md). -/
def L2B_LEARN_DROP.reg : Fld := ⟨102, 0x020C, 31, 0⟩
def L2B_LEARN_DROP.COUNT : Fld := ⟨102, 0x020C, 31, 0⟩
/-- L2B_NTF_STAT (spec/05_forwarding_tables.md). -/
def L2B_NTF_STAT.reg : Fld := ⟨102, 0x0210, 31, 0⟩
def L2B_NTF_STAT.OVERFLOW : Fld := ⟨102, 0x0210, 31, 31⟩
def L2B_NTF_STAT.LEVEL : Fld := ⟨102, 0x0210, 12, 0⟩
/-- L2B_NTF_DATA (spec/05_forwarding_tables.md). -/
def L2B_NTF_DATA.reg (i : Nat) : Fld := ⟨102, 0x0220 + 4 * i, 31, 0⟩
def L2B_NTF_DATA.DATA (i : Nat) : Fld := ⟨102, 0x0220 + 4 * i, 31, 0⟩
/-- L2B_HASH_SEED (spec/05_forwarding_tables.md). -/
def L2B_HASH_SEED.reg : Fld := ⟨102, 0x0230, 31, 0⟩
def L2B_HASH_SEED.SEED : Fld := ⟨102, 0x0230, 31, 0⟩
/-- L2B_STASH (spec/05_forwarding_tables.md). -/
def L2B_STASH.reg : Fld := ⟨102, 0x0214, 31, 0⟩
def L2B_STASH.STASH_USED : Fld := ⟨102, 0x0214, 11, 0⟩
/-- L2B_PORT_CFG (spec/05_forwarding_tables.md). -/
def L2B_PORT_CFG.reg (i : Nat) : Fld := ⟨102, 0x1000 + 8 * i, 31, 0⟩
def L2B_PORT_CFG.LEARN_EN (i : Nat) : Fld := ⟨102, 0x1000 + 8 * i, 31, 31⟩
def L2B_PORT_CFG.EXCESS (i : Nat) : Fld := ⟨102, 0x1000 + 8 * i, 30, 30⟩
def L2B_PORT_CFG.LIMIT (i : Nat) : Fld := ⟨102, 0x1000 + 8 * i, 20, 0⟩
/-- L2B_PORT_COUNT (spec/05_forwarding_tables.md). -/
def L2B_PORT_COUNT.reg (i : Nat) : Fld := ⟨102, 0x1004 + 8 * i, 31, 0⟩
def L2B_PORT_COUNT.COUNT (i : Nat) : Fld := ⟨102, 0x1004 + 8 * i, 20, 0⟩
/-- NHP_HASH_CFG (spec/05_forwarding_tables.md). -/
def NHP_HASH_CFG.reg : Fld := ⟨103, 0x0200, 31, 0⟩
def NHP_HASH_CFG.INNER : Fld := ⟨103, 0x0200, 9, 9⟩
def NHP_HASH_CFG.SRC_PORT : Fld := ⟨103, 0x0200, 8, 8⟩
def NHP_HASH_CFG.EL : Fld := ⟨103, 0x0200, 7, 7⟩
def NHP_HASH_CFG.LABELS : Fld := ⟨103, 0x0200, 6, 6⟩
def NHP_HASH_CFG.FLOW_LABEL : Fld := ⟨103, 0x0200, 4, 4⟩
def NHP_HASH_CFG.L4_PORTS : Fld := ⟨103, 0x0200, 3, 3⟩
def NHP_HASH_CFG.PROTO : Fld := ⟨103, 0x0200, 2, 2⟩
def NHP_HASH_CFG.DA : Fld := ⟨103, 0x0200, 1, 1⟩
def NHP_HASH_CFG.SA : Fld := ⟨103, 0x0200, 0, 0⟩
/-- NHP_HASH_SEED (spec/05_forwarding_tables.md). -/
def NHP_HASH_SEED.reg : Fld := ⟨103, 0x0204, 31, 0⟩
def NHP_HASH_SEED.SEED : Fld := ⟨103, 0x0204, 31, 0⟩
/-- PIPE_STAT (spec/06_pipelines.md). -/
def PIPE_STAT.reg (n : Nat) : Fld := ⟨112 + n, 0x0200, 31, 0⟩
def PIPE_STAT.ROLE (n : Nat) : Fld := ⟨112 + n, 0x0200, 31, 29⟩
def PIPE_STAT.LOGICAL (n : Nat) : Fld := ⟨112 + n, 0x0200, 24, 20⟩
def PIPE_STAT.GEN (n : Nat) : Fld := ⟨112 + n, 0x0200, 15, 8⟩
/-- PIPE_LOAD (spec/06_pipelines.md). -/
def PIPE_LOAD.reg (n : Nat) : Fld := ⟨112 + n, 0x0204, 31, 0⟩
def PIPE_LOAD.IG_QLEN (n : Nat) : Fld := ⟨112 + n, 0x0204, 31, 23⟩
def PIPE_LOAD.RECIRC_QLEN (n : Nat) : Fld := ⟨112 + n, 0x0204, 22, 16⟩
def PIPE_LOAD.EG_QLEN (n : Nat) : Fld := ⟨112 + n, 0x0204, 15, 7⟩
/-- PIPE_BUCKETS (spec/06_pipelines.md). -/
def PIPE_BUCKETS.reg (n : Nat) : Fld := ⟨112 + n, 0x0208, 31, 0⟩
def PIPE_BUCKETS.COUNT (n : Nat) : Fld := ⟨112 + n, 0x0208, 8, 0⟩
/-- PIPE_DIST_CFG (spec/06_pipelines.md). -/
def PIPE_DIST_CFG.reg : Fld := ⟨112, 0x0300, 31, 0⟩
def PIPE_DIST_CFG.AUTO : Fld := ⟨112, 0x0300, 31, 31⟩
def PIPE_DIST_CFG.IMBAL : Fld := ⟨112, 0x0300, 23, 16⟩
def PIPE_DIST_CFG.L4_PORTS : Fld := ⟨112, 0x0300, 6, 6⟩
def PIPE_DIST_CFG.PROTO : Fld := ⟨112, 0x0300, 5, 5⟩
def PIPE_DIST_CFG.IP_ADDR : Fld := ⟨112, 0x0300, 4, 4⟩
def PIPE_DIST_CFG.MPLS : Fld := ⟨112, 0x0300, 3, 3⟩
def PIPE_DIST_CFG.VLAN : Fld := ⟨112, 0x0300, 2, 2⟩
def PIPE_DIST_CFG.MAC : Fld := ⟨112, 0x0300, 1, 1⟩
/-- PIPE_DIST_SEED (spec/06_pipelines.md). -/
def PIPE_DIST_SEED.reg : Fld := ⟨112, 0x0304, 31, 0⟩
def PIPE_DIST_SEED.SEED : Fld := ⟨112, 0x0304, 31, 0⟩
/-- PIPE_DIST_STAT (spec/06_pipelines.md). -/
def PIPE_DIST_STAT.reg : Fld := ⟨112, 0x0308, 31, 0⟩
def PIPE_DIST_STAT.PEND : Fld := ⟨112, 0x0308, 31, 31⟩
def PIPE_DIST_STAT.MOVES : Fld := ⟨112, 0x0308, 15, 0⟩
/-- PIPE_CT_CFG (spec/06_pipelines.md). -/
def PIPE_CT_CFG.reg : Fld := ⟨112, 0x030C, 31, 0⟩
def PIPE_CT_CFG.LEN_CHECK : Fld := ⟨112, 0x030C, 2, 2⟩
def PIPE_CT_CFG.CT_EN : Fld := ⟨112, 0x030C, 0, 0⟩
/-- PIPE_RX_LEVEL (spec/06_pipelines.md). -/
def PIPE_RX_LEVEL.reg : Fld := ⟨112, 0x0310, 31, 0⟩
def PIPE_RX_LEVEL.DROP_LEVEL : Fld := ⟨112, 0x0310, 31, 22⟩
def PIPE_RX_LEVEL.XOFF_LEVEL : Fld := ⟨112, 0x0310, 21, 12⟩
def PIPE_RX_LEVEL.XON_LEVEL : Fld := ⟨112, 0x0310, 11, 2⟩
/-- PIPE_RX_PRIO (spec/06_pipelines.md). -/
def PIPE_RX_PRIO.reg : Fld := ⟨112, 0x0314, 31, 0⟩
def PIPE_RX_PRIO.PRIO : Fld := ⟨112, 0x0314, 7, 0⟩
/-- PIPE_RECIRC_CFG (spec/06_pipelines.md). -/
def PIPE_RECIRC_CFG.reg : Fld := ⟨112, 0x0318, 31, 0⟩
def PIPE_RECIRC_CFG.SHARE : Fld := ⟨112, 0x0318, 3, 0⟩
/-- PIPE_BUCKET (spec/06_pipelines.md). -/
def PIPE_BUCKET.reg (i : Nat) : Fld := ⟨112, 0x1000 + 4 * i, 31, 0⟩
def PIPE_BUCKET.PEND (i : Nat) : Fld := ⟨112, 0x1000 + 4 * i, 31, 31⟩
def PIPE_BUCKET.LOGICAL (i : Nat) : Fld := ⟨112, 0x1000 + 4 * i, 4, 0⟩
/-- SMP_INST_CFG (spec/06_pipelines.md). -/
def SMP_INST_CFG.reg (i : Nat) : Fld := ⟨105, 0x1000 + 16 * i, 31, 0⟩
def SMP_INST_CFG.EN (i : Nat) : Fld := ⟨105, 0x1000 + 16 * i, 31, 31⟩
def SMP_INST_CFG.KIND (i : Nat) : Fld := ⟨105, 0x1000 + 16 * i, 30, 30⟩
def SMP_INST_CFG.MODE (i : Nat) : Fld := ⟨105, 0x1000 + 16 * i, 29, 29⟩
def SMP_INST_CFG.TRUNC (i : Nat) : Fld := ⟨105, 0x1000 + 16 * i, 28, 27⟩
def SMP_INST_CFG.N_M1 (i : Nat) : Fld := ⟨105, 0x1000 + 16 * i, 15, 0⟩
/-- SMP_INST_DEST (spec/06_pipelines.md). -/
def SMP_INST_DEST.reg (i : Nat) : Fld := ⟨105, 0x1004 + 16 * i, 31, 0⟩
def SMP_INST_DEST.DEST_DEVICE (i : Nat) : Fld := ⟨105, 0x1004 + 16 * i, 28, 19⟩
def SMP_INST_DEST.QUEUE (i : Nat) : Fld := ⟨105, 0x1004 + 16 * i, 18, 0⟩
/-- SMP_INST_RATE (spec/06_pipelines.md). -/
def SMP_INST_RATE.reg (i : Nat) : Fld := ⟨105, 0x1008 + 16 * i, 31, 0⟩
def SMP_INST_RATE.RATE (i : Nat) : Fld := ⟨105, 0x1008 + 16 * i, 15, 0⟩
/-- SMP_INST_RDROP (spec/06_pipelines.md). -/
def SMP_INST_RDROP.reg (i : Nat) : Fld := ⟨105, 0x100C + 16 * i, 31, 0⟩
def SMP_INST_RDROP.COUNT (i : Nat) : Fld := ⟨105, 0x100C + 16 * i, 31, 0⟩
/-- SMP_PORT_CFG (spec/06_pipelines.md). -/
def SMP_PORT_CFG.reg (i : Nat) : Fld := ⟨105, 0x1400 + 4 * i, 31, 0⟩
def SMP_PORT_CFG.IG_EN (i : Nat) : Fld := ⟨105, 0x1400 + 4 * i, 31, 31⟩
def SMP_PORT_CFG.EG_EN (i : Nat) : Fld := ⟨105, 0x1400 + 4 * i, 30, 30⟩
def SMP_PORT_CFG.EG_INST (i : Nat) : Fld := ⟨105, 0x1400 + 4 * i, 13, 8⟩
def SMP_PORT_CFG.IG_INST (i : Nat) : Fld := ⟨105, 0x1400 + 4 * i, 5, 0⟩
/-- BPM_TIER_CAP (spec/07_buffers.md). -/
def BPM_TIER_CAP.reg (i : Nat) : Fld := ⟨144, 0x0200 + 16 * i, 31, 0⟩
def BPM_TIER_CAP.REGION_SIZE (i : Nat) : Fld := ⟨144, 0x0200 + 16 * i, 31, 30⟩
def BPM_TIER_CAP.REGIONS (i : Nat) : Fld := ⟨144, 0x0200 + 16 * i, 15, 0⟩
/-- BPM_TIER_FREE (spec/07_buffers.md). -/
def BPM_TIER_FREE.reg (i : Nat) : Fld := ⟨144, 0x0204 + 16 * i, 31, 0⟩
def BPM_TIER_FREE.FREE (i : Nat) : Fld := ⟨144, 0x0204 + 16 * i, 15, 0⟩
/-- BPM_TIER_RESV (spec/07_buffers.md). -/
def BPM_TIER_RESV.reg (i : Nat) : Fld := ⟨144, 0x0208 + 16 * i, 31, 0⟩
def BPM_TIER_RESV.RESV (i : Nat) : Fld := ⟨144, 0x0208 + 16 * i, 15, 0⟩
/-- BPM_TIER_LOW (spec/07_buffers.md). -/
def BPM_TIER_LOW.reg (i : Nat) : Fld := ⟨144, 0x020C + 16 * i, 31, 0⟩
def BPM_TIER_LOW.LOW_WATER (i : Nat) : Fld := ⟨144, 0x020C + 16 * i, 15, 0⟩
/-- BPM_REFCNT_ERR (spec/07_buffers.md). -/
def BPM_REFCNT_ERR.reg : Fld := ⟨144, 0x0240, 31, 0⟩
def BPM_REFCNT_ERR.COUNT : Fld := ⟨144, 0x0240, 31, 0⟩
/-- BPM_POOL_FLOOR (spec/07_buffers.md). -/
def BPM_POOL_FLOOR.reg (i j : Nat) : Fld := ⟨144, 0x1000 + 64 * i + 4 * j, 31, 0⟩
def BPM_POOL_FLOOR.FLOOR (i j : Nat) : Fld := ⟨144, 0x1000 + 64 * i + 4 * j, 15, 0⟩
/-- BPM_POOL_STAT word 0 (spec/07_buffers.md). -/
def BPM_POOL_STAT0.reg (i j : Nat) : Fld := ⟨144, 0x1100 + 64 * i + 8 * j, 31, 0⟩
def BPM_POOL_STAT.REGIONS (i j : Nat) : Fld := ⟨144, 0x1100 + 64 * i + 8 * j, 15, 0⟩
/-- BPM_POOL_STAT word 1 (spec/07_buffers.md). -/
def BPM_POOL_STAT1.reg (i j : Nat) : Fld := ⟨144, 0x1104 + 64 * i + 8 * j, 31, 0⟩
def BPM_POOL_STAT.FREE_BUF (i j : Nat) : Fld := ⟨144, 0x1104 + 64 * i + 8 * j, 31, 0⟩
/-- BPM_REQ_CFG word 0 (spec/07_buffers.md). -/
def BPM_REQ_CFG0.reg (i : Nat) : Fld := ⟨144, 0x2000 + 32 * i, 31, 0⟩
def BPM_REQ_CFG.T1_MAX (i : Nat) : Fld := ⟨144, 0x2000 + 32 * i, 31, 16⟩
def BPM_REQ_CFG.T1_MIN (i : Nat) : Fld := ⟨144, 0x2000 + 32 * i, 15, 0⟩
/-- BPM_REQ_CFG word 1 (spec/07_buffers.md). -/
def BPM_REQ_CFG1.reg (i : Nat) : Fld := ⟨144, 0x2004 + 32 * i, 31, 0⟩
def BPM_REQ_CFG.HBM_MAX (i : Nat) : Fld := ⟨144, 0x2004 + 32 * i, 31, 16⟩
def BPM_REQ_CFG.HBM_MIN (i : Nat) : Fld := ⟨144, 0x2004 + 32 * i, 15, 0⟩
/-- BPM_REQ_CFG word 2 (spec/07_buffers.md). -/
def BPM_REQ_CFG2.reg (i : Nat) : Fld := ⟨144, 0x2008 + 32 * i, 31, 0⟩
def BPM_REQ_CFG.GRN_MAX (i : Nat) : Fld := ⟨144, 0x2008 + 32 * i, 31, 16⟩
def BPM_REQ_CFG.GRN_MIN (i : Nat) : Fld := ⟨144, 0x2008 + 32 * i, 15, 0⟩
/-- BPM_REQ_USE word 0 (spec/07_buffers.md). -/
def BPM_REQ_USE0.reg (i : Nat) : Fld := ⟨144, 0x2010 + 32 * i, 31, 0⟩
def BPM_REQ_USE.T1_KIB (i : Nat) : Fld := ⟨144, 0x2010 + 32 * i, 17, 0⟩
/-- BPM_REQ_USE word 1 (spec/07_buffers.md). -/
def BPM_REQ_USE1.reg (i : Nat) : Fld := ⟨144, 0x2014 + 32 * i, 31, 0⟩
def BPM_REQ_USE.HBM_MIB (i : Nat) : Fld := ⟨144, 0x2014 + 32 * i, 16, 0⟩
/-- BPM_REQ_USE word 2 (spec/07_buffers.md). -/
def BPM_REQ_USE2.reg (i : Nat) : Fld := ⟨144, 0x2018 + 32 * i, 31, 0⟩
def BPM_REQ_USE.GRN_MIB (i : Nat) : Fld := ⟨144, 0x2018 + 32 * i, 25, 0⟩
/-- BUF_STG_GLOBAL (spec/07_buffers.md). -/
def BUF_STG_GLOBAL.reg : Fld := ⟨145, 0x0200, 31, 0⟩
def BUF_STG_GLOBAL.GLOBAL_XOFF : Fld := ⟨145, 0x0200, 31, 16⟩
def BUF_STG_GLOBAL.ELASTIC_FLOOR : Fld := ⟨145, 0x0200, 15, 0⟩
/-- BUF_STG_AGE (spec/07_buffers.md). -/
def BUF_STG_AGE.reg : Fld := ⟨145, 0x0204, 31, 0⟩
def BUF_STG_AGE.AGE_MS : Fld := ⟨145, 0x0204, 15, 0⟩
/-- BUF_STG_TC (spec/07_buffers.md). -/
def BUF_STG_TC.reg : Fld := ⟨145, 0x0208, 31, 0⟩
def BUF_STG_TC.LOSSLESS : Fld := ⟨145, 0x0208, 7, 0⟩
/-- BUF_STG_FREE (spec/07_buffers.md). -/
def BUF_STG_FREE.reg : Fld := ⟨145, 0x020C, 31, 0⟩
def BUF_STG_FREE.FREE_KIB : Fld := ⟨145, 0x020C, 14, 0⟩
/-- BUF_SPILL_Q (spec/07_buffers.md). -/
def BUF_SPILL_Q.reg : Fld := ⟨145, 0x0210, 31, 0⟩
def BUF_SPILL_Q.COUNT : Fld := ⟨145, 0x0210, 19, 0⟩
/-- BUF_BLOCKED_Q (spec/07_buffers.md). -/
def BUF_BLOCKED_Q.reg : Fld := ⟨145, 0x0214, 31, 0⟩
def BUF_BLOCKED_Q.COUNT : Fld := ⟨145, 0x0214, 19, 0⟩
/-- BUF_AGE_STAT (spec/07_buffers.md). -/
def BUF_AGE_STAT.reg : Fld := ⟨145, 0x0218, 31, 0⟩
def BUF_AGE_STAT.LATE : Fld := ⟨145, 0x0218, 31, 31⟩
/-- BUF_STG_PORT word 0 (spec/07_buffers.md). -/
def BUF_STG_PORT0.reg (i : Nat) : Fld := ⟨145, 0x1000 + 16 * i, 31, 0⟩
def BUF_STG_PORT.XOFF (i : Nat) : Fld := ⟨145, 0x1000 + 16 * i, 31, 16⟩
def BUF_STG_PORT.XON (i : Nat) : Fld := ⟨145, 0x1000 + 16 * i, 15, 0⟩
/-- BUF_STG_PORT word 1 (spec/07_buffers.md). -/
def BUF_STG_PORT1.reg (i : Nat) : Fld := ⟨145, 0x1004 + 16 * i, 31, 0⟩
def BUF_STG_PORT.LIMIT (i : Nat) : Fld := ⟨145, 0x1004 + 16 * i, 31, 16⟩
def BUF_STG_PORT.ELASTIC_LIMIT (i : Nat) : Fld := ⟨145, 0x1004 + 16 * i, 15, 0⟩
/-- BUF_STG_PORT word 2 (spec/07_buffers.md). -/
def BUF_STG_PORT2.reg (i : Nat) : Fld := ⟨145, 0x1008 + 16 * i, 31, 0⟩
def BUF_STG_PORT.XOFF_TC (i : Nat) : Fld := ⟨145, 0x1008 + 16 * i, 31, 24⟩
def BUF_STG_PORT.USE_KIB (i : Nat) : Fld := ⟨145, 0x1008 + 16 * i, 15, 0⟩
/-- GRN_CFG (spec/07_buffers.md). -/
def GRN_CFG.reg : Fld := ⟨146, 0x0200, 31, 0⟩
def GRN_CFG.EN : Fld := ⟨146, 0x0200, 31, 31⟩
def GRN_CFG.PASR_EN : Fld := ⟨146, 0x0200, 30, 30⟩
/-- GRN_CAP (spec/07_buffers.md). -/
def GRN_CAP.reg : Fld := ⟨146, 0x0204, 31, 0⟩
def GRN_CAP.INSTALLED_GIB : Fld := ⟨146, 0x0204, 31, 16⟩
def GRN_CAP.BUF_REGIONS : Fld := ⟨146, 0x0204, 15, 0⟩
/-- GRN_STAT (spec/07_buffers.md). -/
def GRN_STAT.reg : Fld := ⟨146, 0x0208, 31, 0⟩
def GRN_STAT.STATE : Fld := ⟨146, 0x0208, 31, 29⟩
def GRN_STAT.IDLE_REGIONS : Fld := ⟨146, 0x0208, 15, 0⟩
/-- GRN_LOST_LO (spec/07_buffers.md). -/
def GRN_LOST_LO.reg : Fld := ⟨146, 0x0210, 31, 0⟩
def GRN_LOST_LO.COUNT : Fld := ⟨146, 0x0210, 31, 0⟩
/-- GRN_LOST_HI (spec/07_buffers.md). -/
def GRN_LOST_HI.reg : Fld := ⟨146, 0x0214, 31, 0⟩
def GRN_LOST_HI.COUNT : Fld := ⟨146, 0x0214, 31, 0⟩
/-- GRN_RATE (spec/07_buffers.md). -/
def GRN_RATE.reg : Fld := ⟨146, 0x0218, 31, 0⟩
def GRN_RATE.IN_GBPS : Fld := ⟨146, 0x0218, 31, 16⟩
def GRN_RATE.OUT_GBPS : Fld := ⟨146, 0x0218, 15, 0⟩
/-- QM_PRIV_TC (spec/08_queues_and_scheduling.md). -/
def QM_PRIV_TC.reg : Fld := ⟨176, 0x0200, 31, 0⟩
def QM_PRIV_TC.PRIV : Fld := ⟨176, 0x0200, 7, 0⟩
/-- QM_RPT_CFG (spec/08_queues_and_scheduling.md). -/
def QM_RPT_CFG.reg : Fld := ⟨176, 0x0204, 31, 0⟩
def QM_RPT_CFG.EN : Fld := ⟨176, 0x0204, 31, 31⟩
def QM_RPT_CFG.QPAIR : Fld := ⟨176, 0x0204, 27, 16⟩
def QM_RPT_CFG.N_M1 : Fld := ⟨176, 0x0204, 15, 0⟩
/-- QM_RPT_RATE (spec/08_queues_and_scheduling.md). -/
def QM_RPT_RATE.reg : Fld := ⟨176, 0x0208, 31, 0⟩
def QM_RPT_RATE.RATE : Fld := ⟨176, 0x0208, 15, 0⟩
/-- QM_RPT_DROP (spec/08_queues_and_scheduling.md). -/
def QM_RPT_DROP.reg : Fld := ⟨176, 0x020C, 31, 0⟩
def QM_RPT_DROP.COUNT : Fld := ⟨176, 0x020C, 31, 0⟩
/-- QM_FLUSH (spec/08_queues_and_scheduling.md). -/
def QM_FLUSH.reg : Fld := ⟨176, 0x0210, 31, 0⟩
def QM_FLUSH.GO : Fld := ⟨176, 0x0210, 31, 31⟩
def QM_FLUSH.BUSY : Fld := ⟨176, 0x0210, 30, 30⟩
def QM_FLUSH.QUEUE : Fld := ⟨176, 0x0210, 18, 0⟩
/-- SCH_STAT (spec/08_queues_and_scheduling.md). -/
def SCH_STAT.reg : Fld := ⟨177, 0x0200, 31, 0⟩
def SCH_STAT.FIT_WAIT : Fld := ⟨177, 0x0200, 19, 0⟩
/-- SHP_MILL_STAT (spec/08_queues_and_scheduling.md). -/
def SHP_MILL_STAT.reg : Fld := ⟨178, 0x0200, 31, 0⟩
def SHP_MILL_STAT.NODES : Fld := ⟨178, 0x0200, 19, 0⟩
/-- SHP_SETTLE (spec/08_queues_and_scheduling.md). -/
def SHP_SETTLE.reg : Fld := ⟨178, 0x0204, 31, 0⟩
def SHP_SETTLE.SETTLE_US : Fld := ⟨178, 0x0204, 15, 0⟩
/-- POL_CFG (spec/08_queues_and_scheduling.md). -/
def POL_CFG.reg : Fld := ⟨179, 0x0200, 31, 0⟩
def POL_CFG.OVH20 : Fld := ⟨179, 0x0200, 0, 0⟩
/-- GATE_CFG (spec/08_queues_and_scheduling.md). -/
def GATE_CFG.reg (p : Nat) : Fld := ⟨180 + p, 0x0200, 31, 0⟩
def GATE_CFG.EN (p : Nat) : Fld := ⟨180 + p, 0x0200, 31, 31⟩
def GATE_CFG.FIT_ADJ (p : Nat) : Fld := ⟨180 + p, 0x0200, 23, 16⟩
def GATE_CFG.LEAD_NS (p : Nat) : Fld := ⟨180 + p, 0x0200, 15, 0⟩
/-- GATE_ADMIN_CYCLE (spec/08_queues_and_scheduling.md). -/
def GATE_ADMIN_CYCLE.reg (p : Nat) : Fld := ⟨180 + p, 0x0204, 31, 0⟩
def GATE_ADMIN_CYCLE.CYCLE_NS (p : Nat) : Fld := ⟨180 + p, 0x0204, 29, 0⟩
/-- GATE_ADMIN_LEN (spec/08_queues_and_scheduling.md). -/
def GATE_ADMIN_LEN.reg (p : Nat) : Fld := ⟨180 + p, 0x0208, 31, 0⟩
def GATE_ADMIN_LEN.LEN (p : Nat) : Fld := ⟨180 + p, 0x0208, 10, 0⟩
/-- GATE_ADMIN_BASE_NS (spec/08_queues_and_scheduling.md). -/
def GATE_ADMIN_BASE_NS.reg (p : Nat) : Fld := ⟨180 + p, 0x020C, 31, 0⟩
def GATE_ADMIN_BASE_NS.NS (p : Nat) : Fld := ⟨180 + p, 0x020C, 29, 0⟩
/-- GATE_ADMIN_BASE_SEC_LO (spec/08_queues_and_scheduling.md). -/
def GATE_ADMIN_BASE_SEC_LO.reg (p : Nat) : Fld := ⟨180 + p, 0x0210, 31, 0⟩
def GATE_ADMIN_BASE_SEC_LO.SEC (p : Nat) : Fld := ⟨180 + p, 0x0210, 31, 0⟩
/-- GATE_ADMIN_BASE_SEC_HI (spec/08_queues_and_scheduling.md). -/
def GATE_ADMIN_BASE_SEC_HI.reg (p : Nat) : Fld := ⟨180 + p, 0x0214, 31, 0⟩
def GATE_ADMIN_BASE_SEC_HI.SEC (p : Nat) : Fld := ⟨180 + p, 0x0214, 31, 0⟩
/-- GATE_STAT (spec/08_queues_and_scheduling.md). -/
def GATE_STAT.reg (p : Nat) : Fld := ⟨180 + p, 0x0220, 31, 0⟩
def GATE_STAT.OPER_VALID (p : Nat) : Fld := ⟨180 + p, 0x0220, 31, 31⟩
def GATE_STAT.CFG_ERR (p : Nat) : Fld := ⟨180 + p, 0x0220, 30, 30⟩
def GATE_STAT.CUR_ENTRY (p : Nat) : Fld := ⟨180 + p, 0x0220, 25, 16⟩
def GATE_STAT.STATES (p : Nat) : Fld := ⟨180 + p, 0x0220, 7, 0⟩
/-- GATE_OPER_CYCLE (spec/08_queues_and_scheduling.md). -/
def GATE_OPER_CYCLE.reg (p : Nat) : Fld := ⟨180 + p, 0x0224, 31, 0⟩
def GATE_OPER_CYCLE.VALUE (p : Nat) : Fld := ⟨180 + p, 0x0224, 31, 0⟩
/-- GATE_OPER_LEN (spec/08_queues_and_scheduling.md). -/
def GATE_OPER_LEN.reg (p : Nat) : Fld := ⟨180 + p, 0x0228, 31, 0⟩
def GATE_OPER_LEN.VALUE (p : Nat) : Fld := ⟨180 + p, 0x0228, 31, 0⟩
/-- GATE_CHANGE_TIME_LO (spec/08_queues_and_scheduling.md). -/
def GATE_CHANGE_TIME_LO.reg (p : Nat) : Fld := ⟨180 + p, 0x0230, 31, 0⟩
def GATE_CHANGE_TIME_LO.TIME (p : Nat) : Fld := ⟨180 + p, 0x0230, 31, 0⟩
/-- GATE_CHANGE_TIME_HI (spec/08_queues_and_scheduling.md). -/
def GATE_CHANGE_TIME_HI.reg (p : Nat) : Fld := ⟨180 + p, 0x0234, 31, 0⟩
def GATE_CHANGE_TIME_HI.TIME (p : Nat) : Fld := ⟨180 + p, 0x0234, 31, 0⟩
/-- GATE_OVERRUN (spec/08_queues_and_scheduling.md). -/
def GATE_OVERRUN.reg (p : Nat) : Fld := ⟨180 + p, 0x0238, 31, 0⟩
def GATE_OVERRUN.COUNT (p : Nat) : Fld := ⟨180 + p, 0x0238, 31, 0⟩
/-- GATE_MAX_OPEN (spec/08_queues_and_scheduling.md). -/
def GATE_MAX_OPEN.reg (p i : Nat) : Fld := ⟨180 + p, 0x1000 + 4 * i, 31, 0⟩
def GATE_MAX_OPEN.NS (p i : Nat) : Fld := ⟨180 + p, 0x1000 + 4 * i, 31, 0⟩
/-- FAB_DEV_ID (spec/09_fabric.md). -/
def FAB_DEV_ID.reg : Fld := ⟨240, 0x0200, 31, 0⟩
def FAB_DEV_ID.ID : Fld := ⟨240, 0x0200, 9, 0⟩
/-- FAB_SYS_CFG (spec/09_fabric.md). -/
def FAB_SYS_CFG.reg : Fld := ⟨240, 0x0204, 31, 0⟩
def FAB_SYS_CFG.EN : Fld := ⟨240, 0x0204, 31, 31⟩
def FAB_SYS_CFG.STANDALONE : Fld := ⟨240, 0x0204, 30, 30⟩
def FAB_SYS_CFG.MAX_DEV : Fld := ⟨240, 0x0204, 9, 0⟩
/-- FAB_TIMERS (spec/09_fabric.md). -/
def FAB_TIMERS.reg : Fld := ⟨240, 0x0208, 31, 0⟩
def FAB_TIMERS.REQ_TRIES : Fld := ⟨240, 0x0208, 31, 28⟩
def FAB_TIMERS.REORDER_US : Fld := ⟨240, 0x0208, 27, 23⟩
def FAB_TIMERS.GRANT_TMO_US : Fld := ⟨240, 0x0208, 22, 13⟩
def FAB_TIMERS.UNREACH_MS : Fld := ⟨240, 0x0208, 7, 0⟩
/-- FAB_PRIV_CFG (spec/09_fabric.md). -/
def FAB_PRIV_CFG.reg : Fld := ⟨240, 0x020C, 31, 0⟩
def FAB_PRIV_CFG.SHARE : Fld := ⟨240, 0x020C, 5, 0⟩
/-- FAB_STAT (spec/09_fabric.md). -/
def FAB_STAT.reg : Fld := ⟨240, 0x0210, 31, 0⟩
def FAB_STAT.SAFE : Fld := ⟨240, 0x0210, 31, 31⟩
def FAB_STAT.EPOCH : Fld := ⟨240, 0x0210, 23, 16⟩
def FAB_STAT.LINKS_UP : Fld := ⟨240, 0x0210, 15, 8⟩
/-- FAB_UNREACH (spec/09_fabric.md). -/
def FAB_UNREACH.reg : Fld := ⟨240, 0x0214, 31, 0⟩
def FAB_UNREACH.COUNT : Fld := ⟨240, 0x0214, 10, 0⟩
/-- FAB_OUTSTANDING (spec/09_fabric.md). -/
def FAB_OUTSTANDING.reg : Fld := ⟨240, 0x0218, 31, 0⟩
def FAB_OUTSTANDING.REQ_OUT : Fld := ⟨240, 0x0218, 31, 16⟩
def FAB_OUTSTANDING.GRANTS_HELD : Fld := ⟨240, 0x0218, 15, 0⟩
/-- FAB_BAD_REQ (spec/09_fabric.md). -/
def FAB_BAD_REQ.reg : Fld := ⟨240, 0x021C, 31, 0⟩
def FAB_BAD_REQ.COUNT : Fld := ⟨240, 0x021C, 31, 0⟩
/-- FLC_CFG (spec/09_fabric.md). -/
def FLC_CFG.reg (c : Nat) : Fld := ⟨244 + c, 0x0200, 31, 0⟩
def FLC_CFG.HOLDOFF_MS (c : Nat) : Fld := ⟨244 + c, 0x0200, 31, 24⟩
def FLC_CFG.ERR_LIMIT (c : Nat) : Fld := ⟨244 + c, 0x0200, 23, 16⟩
def FLC_CFG.FLAP_LIMIT (c : Nat) : Fld := ⟨244 + c, 0x0200, 15, 8⟩
/-- FLC_LINK_CTRL (spec/09_fabric.md). -/
def FLC_LINK_CTRL.reg (c i : Nat) : Fld := ⟨244 + c, 0x1000 + 32 * i, 31, 0⟩
def FLC_LINK_CTRL.EN (c i : Nat) : Fld := ⟨244 + c, 0x1000 + 32 * i, 31, 31⟩
def FLC_LINK_CTRL.RESTART (c i : Nat) : Fld := ⟨244 + c, 0x1000 + 32 * i, 30, 30⟩
def FLC_LINK_CTRL.LT_EN (c i : Nat) : Fld := ⟨244 + c, 0x1000 + 32 * i, 29, 29⟩
def FLC_LINK_CTRL.PRBS (c i : Nat) : Fld := ⟨244 + c, 0x1000 + 32 * i, 9, 8⟩
def FLC_LINK_CTRL.LPBK (c i : Nat) : Fld := ⟨244 + c, 0x1000 + 32 * i, 7, 6⟩
def FLC_LINK_CTRL.LANE_SWAP (c i : Nat) : Fld := ⟨244 + c, 0x1000 + 32 * i, 5, 5⟩
def FLC_LINK_CTRL.RX_INV (c i : Nat) : Fld := ⟨244 + c, 0x1000 + 32 * i, 4, 3⟩
def FLC_LINK_CTRL.TX_INV (c i : Nat) : Fld := ⟨244 + c, 0x1000 + 32 * i, 2, 1⟩
/-- FLC_LINK_STAT (spec/09_fabric.md). -/
def FLC_LINK_STAT.reg (c i : Nat) : Fld := ⟨244 + c, 0x1004 + 32 * i, 31, 0⟩
def FLC_LINK_STAT.STATE (c i : Nat) : Fld := ⟨244 + c, 0x1004 + 32 * i, 31, 29⟩
def FLC_LINK_STAT.CAUSE (c i : Nat) : Fld := ⟨244 + c, 0x1004 + 32 * i, 28, 25⟩
def FLC_LINK_STAT.TX_GEN (c i : Nat) : Fld := ⟨244 + c, 0x1004 + 32 * i, 24, 17⟩
def FLC_LINK_STAT.RX_GEN (c i : Nat) : Fld := ⟨244 + c, 0x1004 + 32 * i, 16, 9⟩
def FLC_LINK_STAT.FC (c i : Nat) : Fld := ⟨244 + c, 0x1004 + 32 * i, 8, 7⟩
def FLC_LINK_STAT.REACH_VALID (c i : Nat) : Fld := ⟨244 + c, 0x1004 + 32 * i, 6, 6⟩
/-- FLC_LINK_PEER (spec/09_fabric.md). -/
def FLC_LINK_PEER.reg (c i : Nat) : Fld := ⟨244 + c, 0x1008 + 32 * i, 31, 0⟩
def FLC_LINK_PEER.VALID (c i : Nat) : Fld := ⟨244 + c, 0x1008 + 32 * i, 31, 31⟩
def FLC_LINK_PEER.ROLE (c i : Nat) : Fld := ⟨244 + c, 0x1008 + 32 * i, 24, 24⟩
def FLC_LINK_PEER.PEER_ID (c i : Nat) : Fld := ⟨244 + c, 0x1008 + 32 * i, 23, 8⟩
def FLC_LINK_PEER.PEER_PORT (c i : Nat) : Fld := ⟨244 + c, 0x1008 + 32 * i, 7, 0⟩
/-- FLC_LINK_UNCORR (spec/09_fabric.md). -/
def FLC_LINK_UNCORR.reg (c i : Nat) : Fld := ⟨244 + c, 0x100C + 32 * i, 31, 0⟩
def FLC_LINK_UNCORR.COUNT (c i : Nat) : Fld := ⟨244 + c, 0x100C + 32 * i, 31, 0⟩
/-- FLC_LINK_BAD (spec/09_fabric.md). -/
def FLC_LINK_BAD.reg (c i : Nat) : Fld := ⟨244 + c, 0x1010 + 32 * i, 31, 0⟩
def FLC_LINK_BAD.COUNT (c i : Nat) : Fld := ⟨244 + c, 0x1010 + 32 * i, 31, 0⟩
/-- FLC_LINK_STALE (spec/09_fabric.md). -/
def FLC_LINK_STALE.reg (c i : Nat) : Fld := ⟨244 + c, 0x1014 + 32 * i, 31, 0⟩
def FLC_LINK_STALE.COUNT (c i : Nat) : Fld := ⟨244 + c, 0x1014 + 32 * i, 31, 0⟩
/-- FLC_LINK_DOWNS (spec/09_fabric.md). -/
def FLC_LINK_DOWNS.reg (c i : Nat) : Fld := ⟨244 + c, 0x1018 + 32 * i, 31, 0⟩
def FLC_LINK_DOWNS.COUNT (c i : Nat) : Fld := ⟨244 + c, 0x1018 + 32 * i, 31, 0⟩
/-- XBAR_CFG (spec/09_fabric.md). -/
def XBAR_CFG.reg : Fld := ⟨241, 0x0200, 31, 0⟩
def XBAR_CFG.ITER : Fld := ⟨241, 0x0200, 1, 0⟩
/-- XBAR_STAT (spec/09_fabric.md). -/
def XBAR_STAT.reg : Fld := ⟨241, 0x0204, 31, 0⟩
def XBAR_STAT.MATCH_AVG : Fld := ⟨241, 0x0204, 15, 8⟩
def XBAR_STAT.PRIV_AVG : Fld := ⟨241, 0x0204, 7, 0⟩
/-- MCR_MC_CFG (spec/09_fabric.md). -/
def MCR_MC_CFG.reg : Fld := ⟨242, 0x0200, 31, 0⟩
def MCR_MC_CFG.WINDOW_KIB : Fld := ⟨242, 0x0200, 7, 0⟩
/-- MCR_PARTIAL_LO (spec/09_fabric.md). -/
def MCR_PARTIAL_LO.reg : Fld := ⟨242, 0x0208, 31, 0⟩
def MCR_PARTIAL_LO.COUNT : Fld := ⟨242, 0x0208, 31, 0⟩
/-- MCR_PARTIAL_HI (spec/09_fabric.md). -/
def MCR_PARTIAL_HI.reg : Fld := ⟨242, 0x020C, 31, 0⟩
def MCR_PARTIAL_HI.COUNT : Fld := ⟨242, 0x020C, 31, 0⟩
/-- MCR_UNDELIV_LO (spec/09_fabric.md). -/
def MCR_UNDELIV_LO.reg : Fld := ⟨242, 0x0210, 31, 0⟩
def MCR_UNDELIV_LO.COUNT : Fld := ⟨242, 0x0210, 31, 0⟩
/-- MCR_UNDELIV_HI (spec/09_fabric.md). -/
def MCR_UNDELIV_HI.reg : Fld := ⟨242, 0x0214, 31, 0⟩
def MCR_UNDELIV_HI.COUNT : Fld := ⟨242, 0x0214, 31, 0⟩
/-- MCR_ACK_EXCESS (spec/09_fabric.md). -/
def MCR_ACK_EXCESS.reg : Fld := ⟨242, 0x0218, 31, 0⟩
def MCR_ACK_EXCESS.COUNT : Fld := ⟨242, 0x0218, 31, 0⟩
/-- HBMC_CFG (spec/10_memory_controllers.md). -/
def HBMC_CFG.reg (s : Nat) : Fld := ⟨148 + s, 0x0200, 31, 0⟩
def HBMC_CFG.RETRAIN_MS (s : Nat) : Fld := ⟨148 + s, 0x0200, 31, 24⟩
def HBMC_CFG.SCRUB_H (s : Nat) : Fld := ⟨148 + s, 0x0200, 23, 16⟩
def HBMC_CFG.ACT_THRESH (s : Nat) : Fld := ⟨148 + s, 0x0200, 15, 0⟩
/-- HBMC_CFG2 (spec/10_memory_controllers.md). -/
def HBMC_CFG2.reg (s : Nat) : Fld := ⟨148 + s, 0x0204, 31, 0⟩
def HBMC_CFG2.PAGE_IDLE_NS (s : Nat) : Fld := ⟨148 + s, 0x0204, 31, 16⟩
def HBMC_CFG2.UE_LIMIT (s : Nat) : Fld := ⟨148 + s, 0x0204, 15, 0⟩
/-- HBMC_STAT (spec/10_memory_controllers.md). -/
def HBMC_STAT.reg (s : Nat) : Fld := ⟨148 + s, 0x0210, 31, 0⟩
def HBMC_STAT.STATE (s : Nat) : Fld := ⟨148 + s, 0x0210, 31, 29⟩
def HBMC_STAT.CAUSE (s : Nat) : Fld := ⟨148 + s, 0x0210, 28, 25⟩
def HBMC_STAT.TEMP_C (s : Nat) : Fld := ⟨148 + s, 0x0210, 15, 8⟩
def HBMC_STAT.LANES_SPARED (s : Nat) : Fld := ⟨148 + s, 0x0210, 7, 0⟩
/-- HBMC_ECC_CE (spec/10_memory_controllers.md). -/
def HBMC_ECC_CE.reg (s : Nat) : Fld := ⟨148 + s, 0x0214, 31, 0⟩
def HBMC_ECC_CE.COUNT (s : Nat) : Fld := ⟨148 + s, 0x0214, 31, 0⟩
/-- HBMC_ECC_UE (spec/10_memory_controllers.md). -/
def HBMC_ECC_UE.reg (s : Nat) : Fld := ⟨148 + s, 0x0218, 31, 0⟩
def HBMC_ECC_UE.COUNT (s : Nat) : Fld := ⟨148 + s, 0x0218, 31, 0⟩
/-- HBMC_NREF (spec/10_memory_controllers.md). -/
def HBMC_NREF.reg (s : Nat) : Fld := ⟨148 + s, 0x021C, 31, 0⟩
def HBMC_NREF.COUNT (s : Nat) : Fld := ⟨148 + s, 0x021C, 31, 0⟩
/-- HBMC_REPAIRS (spec/10_memory_controllers.md). -/
def HBMC_REPAIRS.reg (s : Nat) : Fld := ⟨148 + s, 0x0220, 31, 0⟩
def HBMC_REPAIRS.COUNT (s : Nat) : Fld := ⟨148 + s, 0x0220, 31, 0⟩
/-- HBMC_IL_CFG (spec/10_memory_controllers.md). -/
def HBMC_IL_CFG.reg : Fld := ⟨148, 0x0300, 31, 0⟩
def HBMC_IL_CFG.GRAIN : Fld := ⟨148, 0x0300, 3, 0⟩
/-- HBMC_IL_STAT (spec/10_memory_controllers.md). -/
def HBMC_IL_STAT.reg : Fld := ⟨148, 0x0304, 31, 0⟩
def HBMC_IL_STAT.GRAIN_USED : Fld := ⟨148, 0x0304, 31, 28⟩
def HBMC_IL_STAT.STACKS : Fld := ⟨148, 0x0304, 3, 0⟩
/-- HBMC_HINT_MAP (spec/10_memory_controllers.md). -/
def HBMC_HINT_MAP.reg : Fld := ⟨148, 0x0308, 31, 0⟩
def HBMC_HINT_MAP.MAP : Fld := ⟨148, 0x0308, 15, 0⟩
/-- DDRC_CFG (spec/10_memory_controllers.md). -/
def DDRC_CFG.reg (d : Nat) : Fld := ⟨152 + d, 0x0200, 31, 0⟩
def DDRC_CFG.RETRAIN_MS (d : Nat) : Fld := ⟨152 + d, 0x0200, 31, 24⟩
def DDRC_CFG.SCRUB_H (d : Nat) : Fld := ⟨152 + d, 0x0200, 23, 16⟩
def DDRC_CFG.ACT_THRESH (d : Nat) : Fld := ⟨152 + d, 0x0200, 15, 0⟩
/-- DDRC_CFG2 (spec/10_memory_controllers.md). -/
def DDRC_CFG2.reg (d : Nat) : Fld := ⟨152 + d, 0x0204, 31, 0⟩
def DDRC_CFG2.PAGE_IDLE_NS (d : Nat) : Fld := ⟨152 + d, 0x0204, 31, 16⟩
def DDRC_CFG2.UE_LIMIT (d : Nat) : Fld := ⟨152 + d, 0x0204, 15, 0⟩
/-- DDRC_TEMP_CFG (spec/10_memory_controllers.md). -/
def DDRC_TEMP_CFG.reg (d : Nat) : Fld := ⟨152 + d, 0x0208, 31, 0⟩
def DDRC_TEMP_CFG.TEMP_CRIT (d : Nat) : Fld := ⟨152 + d, 0x0208, 15, 8⟩
def DDRC_TEMP_CFG.TEMP_HI (d : Nat) : Fld := ⟨152 + d, 0x0208, 7, 0⟩
/-- DDRC_STAT (spec/10_memory_controllers.md). -/
def DDRC_STAT.reg (d : Nat) : Fld := ⟨152 + d, 0x0210, 31, 0⟩
def DDRC_STAT.STATE (d : Nat) : Fld := ⟨152 + d, 0x0210, 31, 29⟩
def DDRC_STAT.CAUSE (d : Nat) : Fld := ⟨152 + d, 0x0210, 28, 25⟩
def DDRC_STAT.MODULES (d : Nat) : Fld := ⟨152 + d, 0x0210, 24, 23⟩
def DDRC_STAT.THROTTLED (d : Nat) : Fld := ⟨152 + d, 0x0210, 22, 22⟩
def DDRC_STAT.RATE_MTS (d : Nat) : Fld := ⟨152 + d, 0x0210, 15, 0⟩
/-- DDRC_MOD word 0 (spec/10_memory_controllers.md). -/
def DDRC_MOD0.reg (d i : Nat) : Fld := ⟨152 + d, 0x0220 + 16 * i, 31, 0⟩
def DDRC_MOD.TYPE (d i : Nat) : Fld := ⟨152 + d, 0x0220 + 16 * i, 31, 28⟩
def DDRC_MOD.RANKS (d i : Nat) : Fld := ⟨152 + d, 0x0220 + 16 * i, 27, 24⟩
def DDRC_MOD.CAP_GIB (d i : Nat) : Fld := ⟨152 + d, 0x0220 + 16 * i, 15, 0⟩
/-- DDRC_MOD word 1 (spec/10_memory_controllers.md). -/
def DDRC_MOD1.reg (d i : Nat) : Fld := ⟨152 + d, 0x0224 + 16 * i, 31, 0⟩
def DDRC_MOD.SERIAL (d i : Nat) : Fld := ⟨152 + d, 0x0224 + 16 * i, 31, 0⟩
/-- DDRC_MOD word 2 (spec/10_memory_controllers.md). -/
def DDRC_MOD2.reg (d i : Nat) : Fld := ⟨152 + d, 0x0228 + 16 * i, 31, 0⟩
def DDRC_MOD.MFR_ID (d i : Nat) : Fld := ⟨152 + d, 0x0228 + 16 * i, 31, 16⟩
def DDRC_MOD.TEMP_C (d i : Nat) : Fld := ⟨152 + d, 0x0228 + 16 * i, 15, 8⟩
def DDRC_MOD.DRFM (d i : Nat) : Fld := ⟨152 + d, 0x0228 + 16 * i, 1, 1⟩
def DDRC_MOD.PASR (d i : Nat) : Fld := ⟨152 + d, 0x0228 + 16 * i, 0, 0⟩
/-- DDRC_SPD_ADDR (spec/10_memory_controllers.md). -/
def DDRC_SPD_ADDR.reg (d : Nat) : Fld := ⟨152 + d, 0x0240, 31, 0⟩
def DDRC_SPD_ADDR.SLOT (d : Nat) : Fld := ⟨152 + d, 0x0240, 16, 16⟩
def DDRC_SPD_ADDR.OFFSET (d : Nat) : Fld := ⟨152 + d, 0x0240, 9, 0⟩
/-- DDRC_SPD_CMD (spec/10_memory_controllers.md). -/
def DDRC_SPD_CMD.reg (d : Nat) : Fld := ⟨152 + d, 0x0244, 31, 0⟩
def DDRC_SPD_CMD.BUSY (d : Nat) : Fld := ⟨152 + d, 0x0244, 31, 31⟩
def DDRC_SPD_CMD.ERR (d : Nat) : Fld := ⟨152 + d, 0x0244, 30, 30⟩
def DDRC_SPD_CMD.DATA (d : Nat) : Fld := ⟨152 + d, 0x0244, 15, 8⟩
def DDRC_SPD_CMD.GO (d : Nat) : Fld := ⟨152 + d, 0x0244, 0, 0⟩
/-- DDRC_ECC_CE (spec/10_memory_controllers.md). -/
def DDRC_ECC_CE.reg (d : Nat) : Fld := ⟨152 + d, 0x0250, 31, 0⟩
def DDRC_ECC_CE.COUNT (d : Nat) : Fld := ⟨152 + d, 0x0250, 31, 0⟩
/-- DDRC_ECC_UE (spec/10_memory_controllers.md). -/
def DDRC_ECC_UE.reg (d : Nat) : Fld := ⟨152 + d, 0x0254, 31, 0⟩
def DDRC_ECC_UE.COUNT (d : Nat) : Fld := ⟨152 + d, 0x0254, 31, 0⟩
/-- DDRC_NREF (spec/10_memory_controllers.md). -/
def DDRC_NREF.reg (d : Nat) : Fld := ⟨152 + d, 0x0258, 31, 0⟩
def DDRC_NREF.COUNT (d : Nat) : Fld := ⟨152 + d, 0x0258, 31, 0⟩
/-- DDRC_REPAIRS (spec/10_memory_controllers.md). -/
def DDRC_REPAIRS.reg (d : Nat) : Fld := ⟨152 + d, 0x025C, 31, 0⟩
def DDRC_REPAIRS.COUNT (d : Nat) : Fld := ⟨152 + d, 0x025C, 31, 0⟩
/-- DDRC_DEV_FAILED (spec/10_memory_controllers.md). -/
def DDRC_DEV_FAILED.reg (d : Nat) : Fld := ⟨152 + d, 0x0260, 31, 0⟩
def DDRC_DEV_FAILED.COUNT (d : Nat) : Fld := ⟨152 + d, 0x0260, 31, 0⟩
/-- DDRC_IL_CFG (spec/10_memory_controllers.md). -/
def DDRC_IL_CFG.reg : Fld := ⟨152, 0x0300, 31, 0⟩
def DDRC_IL_CFG.GRAIN : Fld := ⟨152, 0x0300, 3, 0⟩
/-- DDRC_IL_STAT (spec/10_memory_controllers.md). -/
def DDRC_IL_STAT.reg : Fld := ⟨152, 0x0304, 31, 0⟩
def DDRC_IL_STAT.GRAIN_USED : Fld := ⟨152, 0x0304, 31, 28⟩
def DDRC_IL_STAT.SRUS : Fld := ⟨152, 0x0304, 23, 16⟩
def DDRC_IL_STAT.CHANNELS : Fld := ⟨152, 0x0304, 15, 0⟩
/-- DDRC_SHARE (spec/10_memory_controllers.md). -/
def DDRC_SHARE.reg : Fld := ⟨152, 0x0308, 31, 0⟩
def DDRC_SHARE.SHARE_GBPS : Fld := ⟨152, 0x0308, 31, 16⟩
def DDRC_SHARE.SRU_GIB : Fld := ⟨152, 0x0308, 15, 0⟩
/-- DDRC_HINT_MAP (spec/10_memory_controllers.md). -/
def DDRC_HINT_MAP.reg : Fld := ⟨152, 0x030C, 31, 0⟩
def DDRC_HINT_MAP.MAP : Fld := ⟨152, 0x030C, 15, 0⟩
/-- PTP_NOW_NS (spec/11_time.md). -/
def PTP_NOW_NS.reg : Fld := ⟨12, 0x0200, 31, 0⟩
def PTP_NOW_NS.NS : Fld := ⟨12, 0x0200, 29, 0⟩
/-- PTP_NOW_SEC_LO (spec/11_time.md). -/
def PTP_NOW_SEC_LO.reg : Fld := ⟨12, 0x0204, 31, 0⟩
def PTP_NOW_SEC_LO.SEC_LO : Fld := ⟨12, 0x0204, 31, 0⟩
/-- PTP_NOW_HI (spec/11_time.md). -/
def PTP_NOW_HI.reg : Fld := ⟨12, 0x0208, 31, 0⟩
def PTP_NOW_HI.FRAC : Fld := ⟨12, 0x0208, 31, 16⟩
def PTP_NOW_HI.SEC_HI : Fld := ⟨12, 0x0208, 15, 0⟩
/-- PTP_MONO_LO (spec/11_time.md). -/
def PTP_MONO_LO.reg : Fld := ⟨12, 0x0210, 31, 0⟩
def PTP_MONO_LO.MONO : Fld := ⟨12, 0x0210, 31, 0⟩
/-- PTP_MONO_HI (spec/11_time.md). -/
def PTP_MONO_HI.reg : Fld := ⟨12, 0x0214, 31, 0⟩
def PTP_MONO_HI.MONO : Fld := ⟨12, 0x0214, 31, 0⟩
/-- PTP_ADJ_FREQ (spec/11_time.md). -/
def PTP_ADJ_FREQ.reg : Fld := ⟨12, 0x0220, 31, 0⟩
def PTP_ADJ_FREQ.ADJ : Fld := ⟨12, 0x0220, 31, 0⟩
/-- PTP_STEP_CTRL (spec/11_time.md). -/
def PTP_STEP_CTRL.reg : Fld := ⟨12, 0x0224, 31, 0⟩
def PTP_STEP_CTRL.GO : Fld := ⟨12, 0x0224, 31, 31⟩
def PTP_STEP_CTRL.AT_SEC : Fld := ⟨12, 0x0224, 30, 30⟩
def PTP_STEP_CTRL.MODE : Fld := ⟨12, 0x0224, 1, 0⟩
/-- PTP_STEP_NS (spec/11_time.md). -/
def PTP_STEP_NS.reg : Fld := ⟨12, 0x0228, 31, 0⟩
def PTP_STEP_NS.VALUE : Fld := ⟨12, 0x0228, 31, 0⟩
/-- PTP_STEP_SEC_LO (spec/11_time.md). -/
def PTP_STEP_SEC_LO.reg : Fld := ⟨12, 0x022C, 31, 0⟩
def PTP_STEP_SEC_LO.VALUE : Fld := ⟨12, 0x022C, 31, 0⟩
/-- PTP_STEP_SEC_HI (spec/11_time.md). -/
def PTP_STEP_SEC_HI.reg : Fld := ⟨12, 0x0230, 31, 0⟩
def PTP_STEP_SEC_HI.VALUE : Fld := ⟨12, 0x0230, 31, 0⟩
/-- PTP_SLEW (spec/11_time.md). -/
def PTP_SLEW.reg : Fld := ⟨12, 0x0234, 31, 0⟩
def PTP_SLEW.NS : Fld := ⟨12, 0x0234, 31, 0⟩
/-- PTP_SRC_CFG (spec/11_time.md). -/
def PTP_SRC_CFG.reg : Fld := ⟨12, 0x0240, 31, 0⟩
def PTP_SRC_CFG.SRC : Fld := ⟨12, 0x0240, 31, 29⟩
def PTP_SRC_CFG.HOLD_REF : Fld := ⟨12, 0x0240, 28, 28⟩
def PTP_SRC_CFG.SYNCE_LOCK : Fld := ⟨12, 0x0240, 27, 27⟩
def PTP_SRC_CFG.SYNCE_OUT_EN : Fld := ⟨12, 0x0240, 26, 26⟩
def PTP_SRC_CFG.SYNCE_PORT : Fld := ⟨12, 0x0240, 25, 20⟩
def PTP_SRC_CFG.PPS_IN_FALL : Fld := ⟨12, 0x0240, 19, 19⟩
def PTP_SRC_CFG.TOD_IN_EN : Fld := ⟨12, 0x0240, 18, 18⟩
def PTP_SRC_CFG.TOD_OUT_EN : Fld := ⟨12, 0x0240, 17, 17⟩
def PTP_SRC_CFG.PPS_OUT_EN : Fld := ⟨12, 0x0240, 16, 16⟩
/-- PTP_PPS_CFG (spec/11_time.md). -/
def PTP_PPS_CFG.reg : Fld := ⟨12, 0x0244, 31, 0⟩
def PTP_PPS_CFG.PPS_IN_DELAY_NS : Fld := ⟨12, 0x0244, 31, 16⟩
def PTP_PPS_CFG.PPS_OUT_ADV_NS : Fld := ⟨12, 0x0244, 15, 0⟩
/-- PTP_CLOCK_CFG (spec/11_time.md). -/
def PTP_CLOCK_CFG.reg : Fld := ⟨12, 0x0250, 31, 0⟩
def PTP_CLOCK_CFG.MODE : Fld := ⟨12, 0x0250, 31, 30⟩
def PTP_CLOCK_CFG.PROFILE : Fld := ⟨12, 0x0250, 29, 27⟩
def PTP_CLOCK_CFG.DOMAIN : Fld := ⟨12, 0x0250, 23, 16⟩
def PTP_CLOCK_CFG.PRIORITY1 : Fld := ⟨12, 0x0250, 15, 8⟩
def PTP_CLOCK_CFG.PRIORITY2 : Fld := ⟨12, 0x0250, 7, 0⟩
/-- PTP_UTC (spec/11_time.md). -/
def PTP_UTC.reg : Fld := ⟨12, 0x0254, 31, 0⟩
def PTP_UTC.VALID : Fld := ⟨12, 0x0254, 31, 31⟩
def PTP_UTC.LEAP61 : Fld := ⟨12, 0x0254, 30, 30⟩
def PTP_UTC.LEAP59 : Fld := ⟨12, 0x0254, 29, 29⟩
def PTP_UTC.OFFSET : Fld := ⟨12, 0x0254, 15, 0⟩
/-- PTP_STAT (spec/11_time.md). -/
def PTP_STAT.reg : Fld := ⟨12, 0x0260, 31, 0⟩
def PTP_STAT.STATE : Fld := ⟨12, 0x0260, 31, 29⟩
def PTP_STAT.TIME_VALID : Fld := ⟨12, 0x0260, 28, 28⟩
def PTP_STAT.SRC_IN_USE : Fld := ⟨12, 0x0260, 27, 25⟩
def PTP_STAT.REF10M_OK : Fld := ⟨12, 0x0260, 24, 24⟩
def PTP_STAT.PPS_IN_OK : Fld := ⟨12, 0x0260, 23, 23⟩
def PTP_STAT.TOD_IN_OK : Fld := ⟨12, 0x0260, 22, 22⟩
/-- PTP_OFFSET (spec/11_time.md). -/
def PTP_OFFSET.reg : Fld := ⟨12, 0x0264, 31, 0⟩
def PTP_OFFSET.NS : Fld := ⟨12, 0x0264, 31, 0⟩
/-- PTP_PPS_IN_TS_LO (spec/11_time.md). -/
def PTP_PPS_IN_TS_LO.reg : Fld := ⟨12, 0x0268, 31, 0⟩
def PTP_PPS_IN_TS_LO.TIME : Fld := ⟨12, 0x0268, 31, 0⟩
/-- PTP_PPS_IN_TS_HI (spec/11_time.md). -/
def PTP_PPS_IN_TS_HI.reg : Fld := ⟨12, 0x026C, 31, 0⟩
def PTP_PPS_IN_TS_HI.TIME : Fld := ⟨12, 0x026C, 31, 0⟩
/-- PTP_TC_SKIPPED (spec/11_time.md). -/
def PTP_TC_SKIPPED.reg : Fld := ⟨12, 0x0270, 31, 0⟩
def PTP_TC_SKIPPED.COUNT : Fld := ⟨12, 0x0270, 31, 0⟩
/-- PTP_TSF_STAT (spec/11_time.md). -/
def PTP_TSF_STAT.reg : Fld := ⟨12, 0x0274, 31, 0⟩
def PTP_TSF_STAT.OVERFLOW : Fld := ⟨12, 0x0274, 31, 31⟩
def PTP_TSF_STAT.LEVEL : Fld := ⟨12, 0x0274, 12, 0⟩
/-- PTP_TSF_DATA (spec/11_time.md). -/
def PTP_TSF_DATA.reg (i : Nat) : Fld := ⟨12, 0x0280 + 4 * i, 31, 0⟩
def PTP_TSF_DATA.DATA (i : Nat) : Fld := ⟨12, 0x0280 + 4 * i, 31, 0⟩
/-- PTP_PORT_CFG (spec/11_time.md). -/
def PTP_PORT_CFG.reg (i : Nat) : Fld := ⟨12, 0x1000 + 8 * i, 31, 0⟩
def PTP_PORT_CFG.EN (i : Nat) : Fld := ⟨12, 0x1000 + 8 * i, 31, 31⟩
def PTP_PORT_CFG.ONE_STEP (i : Nat) : Fld := ⟨12, 0x1000 + 8 * i, 30, 30⟩
def PTP_PORT_CFG.TC (i : Nat) : Fld := ⟨12, 0x1000 + 8 * i, 29, 28⟩
def PTP_PORT_CFG.L2 (i : Nat) : Fld := ⟨12, 0x1000 + 8 * i, 27, 27⟩
def PTP_PORT_CFG.UDP4 (i : Nat) : Fld := ⟨12, 0x1000 + 8 * i, 26, 26⟩
def PTP_PORT_CFG.UDP6 (i : Nat) : Fld := ⟨12, 0x1000 + 8 * i, 25, 25⟩
/-- PTP_PORT_ASYM (spec/11_time.md). -/
def PTP_PORT_ASYM.reg (i : Nat) : Fld := ⟨12, 0x1004 + 8 * i, 31, 0⟩
def PTP_PORT_ASYM.NS (i : Nat) : Fld := ⟨12, 0x1004 + 8 * i, 31, 0⟩
/-- SVC_CFG (spec/12_services.md). -/
def SVC_CFG.reg : Fld := ⟨13, 0x0200, 31, 0⟩
def SVC_CFG.BFD_EN : Fld := ⟨13, 0x0200, 31, 31⟩
def SVC_CFG.CFM_EN : Fld := ⟨13, 0x0200, 30, 30⟩
def SVC_CFG.RTX_EN : Fld := ⟨13, 0x0200, 29, 29⟩
def SVC_CFG.MERGE_EN : Fld := ⟨13, 0x0200, 28, 28⟩
def SVC_CFG.REC_EN : Fld := ⟨13, 0x0200, 27, 27⟩
def SVC_CFG.DISC_BASE : Fld := ⟨13, 0x0200, 17, 0⟩
/-- SVC_BUDGET (spec/12_services.md). -/
def SVC_BUDGET.reg : Fld := ⟨13, 0x0204, 31, 0⟩
def SVC_BUDGET.USED_KPPS : Fld := ⟨13, 0x0204, 13, 0⟩
/-- SVC_NTF_STAT (spec/12_services.md). -/
def SVC_NTF_STAT.reg : Fld := ⟨13, 0x0210, 31, 0⟩
def SVC_NTF_STAT.OVERFLOW : Fld := ⟨13, 0x0210, 31, 31⟩
def SVC_NTF_STAT.LEVEL : Fld := ⟨13, 0x0210, 12, 0⟩
/-- SVC_NTF_DATA (spec/12_services.md). -/
def SVC_NTF_DATA.reg (i : Nat) : Fld := ⟨13, 0x0220 + 4 * i, 31, 0⟩
def SVC_NTF_DATA.DATA (i : Nat) : Fld := ⟨13, 0x0220 + 4 * i, 31, 0⟩
/-- SVC_CORE_STAT (spec/12_services.md). -/
def SVC_CORE_STAT.reg (i : Nat) : Fld := ⟨13, 0x1000 + 4 * i, 31, 0⟩
def SVC_CORE_STAT.ROLE (i : Nat) : Fld := ⟨13, 0x1000 + 4 * i, 31, 29⟩
def SVC_CORE_STAT.GEN (i : Nat) : Fld := ⟨13, 0x1000 + 4 * i, 15, 8⟩
def SVC_CORE_STAT.LOAD (i : Nat) : Fld := ⟨13, 0x1000 + 4 * i, 6, 0⟩
/-- SVC_REC word 0 (spec/12_services.md). -/
def SVC_REC0.reg (i : Nat) : Fld := ⟨13, 0x1100 + 32 * i, 31, 0⟩
def SVC_REC.EN (i : Nat) : Fld := ⟨13, 0x1100 + 32 * i, 31, 31⟩
def SVC_REC.TIER (i : Nat) : Fld := ⟨13, 0x1100 + 32 * i, 30, 30⟩
def SVC_REC.WRAP (i : Nat) : Fld := ⟨13, 0x1100 + 32 * i, 29, 29⟩
def SVC_REC.QUEUE (i : Nat) : Fld := ⟨13, 0x1100 + 32 * i, 18, 0⟩
/-- SVC_REC word 1 (spec/12_services.md). -/
def SVC_REC1.reg (i : Nat) : Fld := ⟨13, 0x1104 + 32 * i, 31, 0⟩
def SVC_REC.MAX_MIB (i : Nat) : Fld := ⟨13, 0x1104 + 32 * i, 25, 0⟩
/-- SVC_REC word 2 (spec/12_services.md). -/
def SVC_REC2.reg (i : Nat) : Fld := ⟨13, 0x1108 + 32 * i, 31, 0⟩
def SVC_REC.USED_MIB (i : Nat) : Fld := ⟨13, 0x1108 + 32 * i, 25, 0⟩
/-- SVC_REC word 3 (spec/12_services.md). -/
def SVC_REC3.reg (i : Nat) : Fld := ⟨13, 0x110C + 32 * i, 31, 0⟩
def SVC_REC.READOUT (i : Nat) : Fld := ⟨13, 0x110C + 32 * i, 31, 31⟩
def SVC_REC.REPLAY (i : Nat) : Fld := ⟨13, 0x110C + 32 * i, 30, 30⟩
def SVC_REC.BUSY (i : Nat) : Fld := ⟨13, 0x110C + 32 * i, 29, 29⟩
def SVC_REC.SPEED (i : Nat) : Fld := ⟨13, 0x110C + 32 * i, 28, 28⟩
def SVC_REC.QPAIR (i : Nat) : Fld := ⟨13, 0x110C + 32 * i, 11, 0⟩
/-- SVC_REC word 4 (spec/12_services.md). -/
def SVC_REC4.reg (i : Nat) : Fld := ⟨13, 0x1110 + 32 * i, 31, 0⟩
def SVC_REC.DEST_DEVICE (i : Nat) : Fld := ⟨13, 0x1110 + 32 * i, 28, 19⟩
def SVC_REC.DEST_QUEUE (i : Nat) : Fld := ⟨13, 0x1110 + 32 * i, 18, 0⟩
/-- SVC_REC word 5 (spec/12_services.md). -/
def SVC_REC5.reg (i : Nat) : Fld := ⟨13, 0x1114 + 32 * i, 31, 0⟩
def SVC_REC.DROPPED (i : Nat) : Fld := ⟨13, 0x1114 + 32 * i, 31, 0⟩
/-- PCIE_LINK_STAT (spec/13_host_interface.md). -/
def PCIE_LINK_STAT.reg : Fld := ⟨2, 0x0200, 31, 0⟩
def PCIE_LINK_STAT.DL_UP : Fld := ⟨2, 0x0200, 31, 31⟩
def PCIE_LINK_STAT.SPEED : Fld := ⟨2, 0x0200, 30, 28⟩
def PCIE_LINK_STAT.WIDTH : Fld := ⟨2, 0x0200, 27, 23⟩
def PCIE_LINK_STAT.IN_L1 : Fld := ⟨2, 0x0200, 22, 22⟩
def PCIE_LINK_STAT.L1_ENTRIES : Fld := ⟨2, 0x0200, 15, 0⟩
/-- PCIE_ASPM_CFG (spec/13_host_interface.md). -/
def PCIE_ASPM_CFG.reg : Fld := ⟨2, 0x0204, 31, 0⟩
def PCIE_ASPM_CFG.L1_IDLE_US : Fld := ⟨2, 0x0204, 15, 0⟩
/-- PCIE_CONTAIN (spec/13_host_interface.md). -/
def PCIE_CONTAIN.reg : Fld := ⟨2, 0x0208, 31, 0⟩
def PCIE_CONTAIN.CONTAINED : Fld := ⟨2, 0x0208, 31, 31⟩
def PCIE_CONTAIN.RELEASE : Fld := ⟨2, 0x0208, 30, 30⟩
def PCIE_CONTAIN.CAUSE : Fld := ⟨2, 0x0208, 23, 20⟩
/-- PCIE_CONTAIN_DROP (spec/13_host_interface.md). -/
def PCIE_CONTAIN_DROP.reg : Fld := ⟨2, 0x020C, 31, 0⟩
def PCIE_CONTAIN_DROP.COUNT : Fld := ⟨2, 0x020C, 31, 0⟩
/-- PCIE_CTO_COUNT (spec/13_host_interface.md). -/
def PCIE_CTO_COUNT.reg : Fld := ⟨2, 0x0210, 31, 0⟩
def PCIE_CTO_COUNT.COUNT : Fld := ⟨2, 0x0210, 31, 0⟩
/-- PCIE_BLK_IRQ_SUM (spec/13_host_interface.md). -/
def PCIE_BLK_IRQ_SUM.reg (i : Nat) : Fld := ⟨2, 0x0300 + 4 * i, 31, 0⟩
def PCIE_BLK_IRQ_SUM.ASSERTED (i : Nat) : Fld := ⟨2, 0x0300 + 4 * i, 31, 0⟩
/-- PCIE_WIN_CFG (spec/13_host_interface.md). -/
def PCIE_WIN_CFG.reg (i : Nat) : Fld := ⟨2, 0x1000 + 4 * i, 31, 0⟩
def PCIE_WIN_CFG.EN (i : Nat) : Fld := ⟨2, 0x1000 + 4 * i, 31, 31⟩
def PCIE_WIN_CFG.SPACE (i : Nat) : Fld := ⟨2, 0x1000 + 4 * i, 30, 27⟩
def PCIE_WIN_CFG.BASE (i : Nat) : Fld := ⟨2, 0x1000 + 4 * i, 21, 0⟩
/-- PCIE_DMA_STAT (spec/13_host_interface.md). -/
def PCIE_DMA_STAT.reg : Fld := ⟨3, 0x0200, 31, 0⟩
def PCIE_DMA_STAT.ENABLED_QPS : Fld := ⟨3, 0x0200, 28, 16⟩
def PCIE_DMA_STAT.ERROR_QPS : Fld := ⟨3, 0x0200, 12, 0⟩
/-- PCIE_DB_DISCARD (spec/13_host_interface.md). -/
def PCIE_DB_DISCARD.reg : Fld := ⟨3, 0x0204, 31, 0⟩
def PCIE_DB_DISCARD.COUNT : Fld := ⟨3, 0x0204, 31, 0⟩
/-- VIRT_CMD (spec/14_virtual_instances.md). -/
def VIRT_CMD.reg : Fld := ⟨4, 0x0200, 31, 0⟩
def VIRT_CMD.OP : Fld := ⟨4, 0x0200, 31, 28⟩
def VIRT_CMD.INSTANCE : Fld := ⟨4, 0x0200, 11, 0⟩
/-- VIRT_CMD_STAT (spec/14_virtual_instances.md). -/
def VIRT_CMD_STAT.reg : Fld := ⟨4, 0x0204, 31, 0⟩
def VIRT_CMD_STAT.BUSY : Fld := ⟨4, 0x0204, 31, 31⟩
def VIRT_CMD_STAT.DONE : Fld := ⟨4, 0x0204, 30, 30⟩
def VIRT_CMD_STAT.RESULT : Fld := ⟨4, 0x0204, 7, 0⟩
/-- VIRT_COUNT (spec/14_virtual_instances.md). -/
def VIRT_COUNT.reg : Fld := ⟨4, 0x0208, 31, 0⟩
def VIRT_COUNT.PF0_QPS : Fld := ⟨4, 0x0208, 28, 16⟩
def VIRT_COUNT.INSTANCES : Fld := ⟨4, 0x0208, 11, 0⟩
/-- DEV_STAT (spec/15_start_up.md). -/
def DEV_STAT.reg : Fld := ⟨1, 0x0200, 31, 0⟩
def DEV_STAT.STAGE : Fld := ⟨1, 0x0200, 31, 28⟩
def DEV_STAT.FWD_READY : Fld := ⟨1, 0x0200, 27, 27⟩
def DEV_STAT.FULL_READY : Fld := ⟨1, 0x0200, 26, 26⟩
def DEV_STAT.MAIN_UP : Fld := ⟨1, 0x0200, 25, 25⟩
def DEV_STAT.RECOVERY : Fld := ⟨1, 0x0200, 24, 24⟩
def DEV_STAT.FATAL_LATCHED : Fld := ⟨1, 0x0200, 23, 23⟩
def DEV_STAT.PF_WARN : Fld := ⟨1, 0x0200, 22, 22⟩
def DEV_STAT.PWR_GOOD : Fld := ⟨1, 0x0200, 21, 21⟩
def DEV_STAT.BOOT_SLOT : Fld := ⟨1, 0x0200, 20, 20⟩
/-- DEV_RESET_CAUSE (spec/15_start_up.md). -/
def DEV_RESET_CAUSE.reg : Fld := ⟨1, 0x0204, 31, 0⟩
def DEV_RESET_CAUSE.RESTART : Fld := ⟨1, 0x0204, 7, 4⟩
def DEV_RESET_CAUSE.COLD : Fld := ⟨1, 0x0204, 3, 0⟩
/-- DEV_CTRL (spec/15_start_up.md). -/
def DEV_CTRL.reg : Fld := ⟨1, 0x0208, 31, 0⟩
def DEV_CTRL.MAIN_RESTART : Fld := ⟨1, 0x0208, 0, 0⟩
/-- DEV_WDOG (spec/15_start_up.md). -/
def DEV_WDOG.reg : Fld := ⟨1, 0x020C, 31, 0⟩
def DEV_WDOG.TIMEOUT_MS : Fld := ⟨1, 0x020C, 13, 0⟩
/-- DEV_RESTARTS (spec/15_start_up.md). -/
def DEV_RESTARTS.reg : Fld := ⟨1, 0x0210, 31, 0⟩
def DEV_RESTARTS.WDOG : Fld := ⟨1, 0x0210, 31, 16⟩
def DEV_RESTARTS.TOTAL : Fld := ⟨1, 0x0210, 15, 0⟩
/-- DEV_SLOT (spec/15_start_up.md). -/
def DEV_SLOT.reg : Fld := ⟨1, 0x0214, 31, 0⟩
def DEV_SLOT.PINS : Fld := ⟨1, 0x0214, 25, 16⟩
def DEV_SLOT.LATCHED : Fld := ⟨1, 0x0214, 9, 0⟩
/-- DEV_SERIAL_LO (spec/15_start_up.md). -/
def DEV_SERIAL_LO.reg : Fld := ⟨1, 0x0218, 31, 0⟩
def DEV_SERIAL_LO.SERIAL : Fld := ⟨1, 0x0218, 31, 0⟩
/-- DEV_SERIAL_HI (spec/15_start_up.md). -/
def DEV_SERIAL_HI.reg : Fld := ⟨1, 0x021C, 31, 0⟩
def DEV_SERIAL_HI.SERIAL : Fld := ⟨1, 0x021C, 31, 0⟩
/-- DEV_STAGE_TIME (spec/15_start_up.md). -/
def DEV_STAGE_TIME.reg (i : Nat) : Fld := ⟨1, 0x1000 + 4 * i, 31, 0⟩
def DEV_STAGE_TIME.US (i : Nat) : Fld := ⟨1, 0x1000 + 4 * i, 31, 0⟩
/-- RPR_CFG (spec/16_repair_and_redundancy.md). -/
def RPR_CFG.reg : Fld := ⟨9, 0x0200, 31, 0⟩
def RPR_CFG.ROT_EN : Fld := ⟨9, 0x0200, 31, 31⟩
def RPR_CFG.REVERT_EN : Fld := ⟨9, 0x0200, 30, 30⟩
def RPR_CFG.ROT_MIN : Fld := ⟨9, 0x0200, 23, 16⟩
def RPR_CFG.REVERT_HOLD_S : Fld := ⟨9, 0x0200, 15, 0⟩
/-- RPR_CMD (spec/16_repair_and_redundancy.md). -/
def RPR_CMD.reg : Fld := ⟨9, 0x0204, 31, 0⟩
def RPR_CMD.OP : Fld := ⟨9, 0x0204, 31, 28⟩
def RPR_CMD.CLASS : Fld := ⟨9, 0x0204, 10, 8⟩
def RPR_CMD.UNIT : Fld := ⟨9, 0x0204, 6, 0⟩
/-- RPR_CMD_STAT (spec/16_repair_and_redundancy.md). -/
def RPR_CMD_STAT.reg : Fld := ⟨9, 0x0208, 31, 0⟩
def RPR_CMD_STAT.BUSY : Fld := ⟨9, 0x0208, 31, 31⟩
def RPR_CMD_STAT.DONE : Fld := ⟨9, 0x0208, 30, 30⟩
def RPR_CMD_STAT.RESULT : Fld := ⟨9, 0x0208, 7, 0⟩
/-- RPR_STAT (spec/16_repair_and_redundancy.md). -/
def RPR_STAT.reg : Fld := ⟨9, 0x020C, 31, 0⟩
def RPR_STAT.NO_SPARE : Fld := ⟨9, 0x020C, 21, 16⟩
def RPR_STAT.DEGRADED : Fld := ⟨9, 0x020C, 13, 8⟩
def RPR_STAT.RECOVERING : Fld := ⟨9, 0x020C, 5, 0⟩
/-- RPR_EVT_STAT (spec/16_repair_and_redundancy.md). -/
def RPR_EVT_STAT.reg : Fld := ⟨9, 0x0220, 31, 0⟩
def RPR_EVT_STAT.OVERFLOW : Fld := ⟨9, 0x0220, 31, 31⟩
def RPR_EVT_STAT.LEVEL : Fld := ⟨9, 0x0220, 10, 0⟩
/-- RPR_EVT_DATA (spec/16_repair_and_redundancy.md). -/
def RPR_EVT_DATA.reg (i : Nat) : Fld := ⟨9, 0x0230 + 4 * i, 31, 0⟩
def RPR_EVT_DATA.DATA (i : Nat) : Fld := ⟨9, 0x0230 + 4 * i, 31, 0⟩
/-- RPR_PEG_STAT (spec/16_repair_and_redundancy.md). -/
def RPR_PEG_STAT.reg : Fld := ⟨9, 0x0240, 31, 0⟩
def RPR_PEG_STAT.PENDING : Fld := ⟨9, 0x0240, 31, 31⟩
def RPR_PEG_STAT.COPY : Fld := ⟨9, 0x0240, 30, 30⟩
def RPR_PEG_STAT.DROPPED : Fld := ⟨9, 0x0240, 15, 0⟩
/-- RPR_PEG_SEQ (spec/16_repair_and_redundancy.md). -/
def RPR_PEG_SEQ.reg : Fld := ⟨9, 0x0244, 31, 0⟩
def RPR_PEG_SEQ.SEQ : Fld := ⟨9, 0x0244, 31, 0⟩
/-- RPR_CLASS_STAT word 0 (spec/16_repair_and_redundancy.md). -/
def RPR_CLASS_STAT0.reg (i : Nat) : Fld := ⟨9, 0x1000 + 16 * i, 31, 0⟩
def RPR_CLASS_STAT.WORKING (i : Nat) : Fld := ⟨9, 0x1000 + 16 * i, 31, 24⟩
def RPR_CLASS_STAT.SPARES (i : Nat) : Fld := ⟨9, 0x1000 + 16 * i, 23, 16⟩
def RPR_CLASS_STAT.QUEUED (i : Nat) : Fld := ⟨9, 0x1000 + 16 * i, 15, 8⟩
def RPR_CLASS_STAT.FAILED (i : Nat) : Fld := ⟨9, 0x1000 + 16 * i, 7, 0⟩
/-- RPR_CLASS_STAT word 1 (spec/16_repair_and_redundancy.md). -/
def RPR_CLASS_STAT1.reg (i : Nat) : Fld := ⟨9, 0x1004 + 16 * i, 31, 0⟩
def RPR_CLASS_STAT.STALE (i : Nat) : Fld := ⟨9, 0x1004 + 16 * i, 31, 0⟩
/-- RPR_CLASS_STAT word 2 (spec/16_repair_and_redundancy.md). -/
def RPR_CLASS_STAT2.reg (i : Nat) : Fld := ⟨9, 0x1008 + 16 * i, 31, 0⟩
def RPR_CLASS_STAT.AHEAD (i : Nat) : Fld := ⟨9, 0x1008 + 16 * i, 31, 0⟩
/-- RPR_CLASS_STAT word 3 (spec/16_repair_and_redundancy.md). -/
def RPR_CLASS_STAT3.reg (i : Nat) : Fld := ⟨9, 0x100C + 16 * i, 31, 0⟩
def RPR_CLASS_STAT.LOST (i : Nat) : Fld := ⟨9, 0x100C + 16 * i, 31, 0⟩
/-- CRY_CFG (spec/17_faults.md). -/
def CRY_CFG.reg : Fld := ⟨5, 0x0200, 31, 0⟩
def CRY_CFG.FIRST_MIN : Fld := ⟨5, 0x0200, 6, 4⟩
def CRY_CFG.LOG_MIN : Fld := ⟨5, 0x0200, 2, 0⟩
/-- CRY_STAT (spec/17_faults.md). -/
def CRY_STAT.reg : Fld := ⟨5, 0x0204, 31, 0⟩
def CRY_STAT.FATAL : Fld := ⟨5, 0x0204, 31, 31⟩
def CRY_STAT.OPEN_DEGRADED : Fld := ⟨5, 0x0204, 24, 12⟩
def CRY_STAT.OPEN_CONTAINED : Fld := ⟨5, 0x0204, 11, 0⟩
/-- CRY_LOG_STAT (spec/17_faults.md). -/
def CRY_LOG_STAT.reg : Fld := ⟨5, 0x0210, 31, 0⟩
def CRY_LOG_STAT.OVERFLOW : Fld := ⟨5, 0x0210, 31, 31⟩
def CRY_LOG_STAT.LOST : Fld := ⟨5, 0x0210, 30, 13⟩
def CRY_LOG_STAT.LEVEL : Fld := ⟨5, 0x0210, 12, 0⟩
/-- CRY_LOG_DATA (spec/17_faults.md). -/
def CRY_LOG_DATA.reg (i : Nat) : Fld := ⟨5, 0x0220 + 4 * i, 31, 0⟩
def CRY_LOG_DATA.DATA (i : Nat) : Fld := ⟨5, 0x0220 + 4 * i, 31, 0⟩
/-- CRY_FIRST_CTRL (spec/17_faults.md). -/
def CRY_FIRST_CTRL.reg : Fld := ⟨5, 0x0240, 31, 0⟩
def CRY_FIRST_CTRL.MORE : Fld := ⟨5, 0x0240, 31, 16⟩
def CRY_FIRST_CTRL.VALID : Fld := ⟨5, 0x0240, 0, 0⟩
/-- CRY_FIRST_MSG (spec/17_faults.md). -/
def CRY_FIRST_MSG.reg (i : Nat) : Fld := ⟨5, 0x0250 + 4 * i, 31, 0⟩
def CRY_FIRST_MSG.VALUE (i : Nat) : Fld := ⟨5, 0x0250 + 4 * i, 31, 0⟩
/-- CRY_FIRST_TIME_LO (spec/17_faults.md). -/
def CRY_FIRST_TIME_LO.reg : Fld := ⟨5, 0x0260, 31, 0⟩
def CRY_FIRST_TIME_LO.VALUE : Fld := ⟨5, 0x0260, 31, 0⟩
/-- CRY_FIRST_TIME_HI (spec/17_faults.md). -/
def CRY_FIRST_TIME_HI.reg : Fld := ⟨5, 0x0264, 31, 0⟩
def CRY_FIRST_TIME_HI.VALUE : Fld := ⟨5, 0x0264, 31, 0⟩
/-- CRY_FATAL_MSG (spec/17_faults.md). -/
def CRY_FATAL_MSG.reg (i : Nat) : Fld := ⟨5, 0x0270 + 4 * i, 31, 0⟩
def CRY_FATAL_MSG.VALUE (i : Nat) : Fld := ⟨5, 0x0270 + 4 * i, 31, 0⟩
/-- CRY_FATAL_TIME_LO (spec/17_faults.md). -/
def CRY_FATAL_TIME_LO.reg : Fld := ⟨5, 0x0280, 31, 0⟩
def CRY_FATAL_TIME_LO.VALUE : Fld := ⟨5, 0x0280, 31, 0⟩
/-- CRY_FATAL_TIME_HI (spec/17_faults.md). -/
def CRY_FATAL_TIME_HI.reg : Fld := ⟨5, 0x0284, 31, 0⟩
def CRY_FATAL_TIME_HI.VALUE : Fld := ⟨5, 0x0284, 31, 0⟩
/-- CRY_FATAL_STAT (spec/17_faults.md). -/
def CRY_FATAL_STAT.reg : Fld := ⟨5, 0x0288, 31, 0⟩
def CRY_FATAL_STAT.COUNT : Fld := ⟨5, 0x0288, 31, 16⟩
def CRY_FATAL_STAT.VALID : Fld := ⟨5, 0x0288, 0, 0⟩
/-- CRY_REFUSED (spec/17_faults.md). -/
def CRY_REFUSED.reg : Fld := ⟨5, 0x0290, 31, 0⟩
def CRY_REFUSED.COUNT : Fld := ⟨5, 0x0290, 31, 0⟩
/-- CRY_DROPPED (spec/17_faults.md). -/
def CRY_DROPPED.reg : Fld := ⟨5, 0x0294, 31, 0⟩
def CRY_DROPPED.COUNT : Fld := ⟨5, 0x0294, 31, 0⟩
/-- CRY_CLASS_COUNT (spec/17_faults.md). -/
def CRY_CLASS_COUNT.reg (i : Nat) : Fld := ⟨5, 0x1000 + 4 * i, 31, 0⟩
def CRY_CLASS_COUNT.COUNT (i : Nat) : Fld := ⟨5, 0x1000 + 4 * i, 31, 0⟩
/-- CNT_DUMP_CFG (spec/18_counters_and_tracing.md). -/
def CNT_DUMP_CFG.reg : Fld := ⟨10, 0x0200, 31, 0⟩
def CNT_DUMP_CFG.EN : Fld := ⟨10, 0x0200, 31, 31⟩
def CNT_DUMP_CFG.RO : Fld := ⟨10, 0x0200, 30, 30⟩
def CNT_DUMP_CFG.PERIOD_MS : Fld := ⟨10, 0x0200, 15, 0⟩
/-- CNT_DUMP_MASK (spec/18_counters_and_tracing.md). -/
def CNT_DUMP_MASK.reg : Fld := ⟨10, 0x0204, 31, 0⟩
def CNT_DUMP_MASK.FAMILY : Fld := ⟨10, 0x0204, 17, 0⟩
/-- CNT_DUMP_BASE_LO (spec/18_counters_and_tracing.md). -/
def CNT_DUMP_BASE_LO.reg : Fld := ⟨10, 0x0208, 31, 0⟩
def CNT_DUMP_BASE_LO.ADDR : Fld := ⟨10, 0x0208, 31, 0⟩
/-- CNT_DUMP_BASE_HI (spec/18_counters_and_tracing.md). -/
def CNT_DUMP_BASE_HI.reg : Fld := ⟨10, 0x020C, 31, 0⟩
def CNT_DUMP_BASE_HI.ADDR : Fld := ⟨10, 0x020C, 31, 0⟩
/-- CNT_DUMP_RING (spec/18_counters_and_tracing.md). -/
def CNT_DUMP_RING.reg : Fld := ⟨10, 0x0210, 31, 0⟩
def CNT_DUMP_RING.COUNT : Fld := ⟨10, 0x0210, 20, 16⟩
def CNT_DUMP_RING.SIZE_MIB : Fld := ⟨10, 0x0210, 8, 0⟩
/-- CNT_DUMP_HEAD (spec/18_counters_and_tracing.md). -/
def CNT_DUMP_HEAD.reg : Fld := ⟨10, 0x0214, 31, 0⟩
def CNT_DUMP_HEAD.FULL : Fld := ⟨10, 0x0214, 31, 31⟩
def CNT_DUMP_HEAD.TAIL : Fld := ⟨10, 0x0214, 19, 16⟩
def CNT_DUMP_HEAD.HEAD : Fld := ⟨10, 0x0214, 3, 0⟩
/-- CNT_SNAP (spec/18_counters_and_tracing.md). -/
def CNT_SNAP.reg : Fld := ⟨10, 0x0218, 31, 0⟩
def CNT_SNAP.GO : Fld := ⟨10, 0x0218, 31, 31⟩
def CNT_SNAP.BUSY : Fld := ⟨10, 0x0218, 30, 30⟩
/-- CNT_DUMP_STAT (spec/18_counters_and_tracing.md). -/
def CNT_DUMP_STAT.reg : Fld := ⟨10, 0x021C, 31, 0⟩
def CNT_DUMP_STAT.CFG_ERR : Fld := ⟨10, 0x021C, 31, 31⟩
def CNT_DUMP_STAT.LAST_SKIP : Fld := ⟨10, 0x021C, 30, 28⟩
def CNT_DUMP_STAT.SKIPPED : Fld := ⟨10, 0x021C, 15, 0⟩
/-- CNT_DUMP_SEQ_LO (spec/18_counters_and_tracing.md). -/
def CNT_DUMP_SEQ_LO.reg : Fld := ⟨10, 0x0220, 31, 0⟩
def CNT_DUMP_SEQ_LO.SEQ : Fld := ⟨10, 0x0220, 31, 0⟩
/-- CNT_DUMP_SEQ_HI (spec/18_counters_and_tracing.md). -/
def CNT_DUMP_SEQ_HI.reg : Fld := ⟨10, 0x0224, 31, 0⟩
def CNT_DUMP_SEQ_HI.SEQ : Fld := ⟨10, 0x0224, 31, 0⟩
/-- CNT_MEM_ERR (spec/18_counters_and_tracing.md). -/
def CNT_MEM_ERR.reg : Fld := ⟨10, 0x0228, 31, 0⟩
def CNT_MEM_ERR.FAMILY : Fld := ⟨10, 0x0228, 31, 27⟩
def CNT_MEM_ERR.INDEX : Fld := ⟨10, 0x0228, 21, 0⟩
/-- CNT_MEM_ERR_COUNT (spec/18_counters_and_tracing.md). -/
def CNT_MEM_ERR_COUNT.reg : Fld := ⟨10, 0x022C, 31, 0⟩
def CNT_MEM_ERR_COUNT.COUNT : Fld := ⟨10, 0x022C, 31, 0⟩
/-- TRC_CFG (spec/18_counters_and_tracing.md). -/
def TRC_CFG.reg : Fld := ⟨11, 0x0200, 31, 0⟩
def TRC_CFG.EN : Fld := ⟨11, 0x0200, 31, 31⟩
def TRC_CFG.IG_EN : Fld := ⟨11, 0x0200, 30, 30⟩
def TRC_CFG.EG_EN : Fld := ⟨11, 0x0200, 29, 29⟩
def TRC_CFG.DMA_EN : Fld := ⟨11, 0x0200, 28, 28⟩
def TRC_CFG.TRIGGER : Fld := ⟨11, 0x0200, 27, 26⟩
def TRC_CFG.N_M1 : Fld := ⟨11, 0x0200, 15, 0⟩
/-- TRC_RATE (spec/18_counters_and_tracing.md). -/
def TRC_RATE.reg : Fld := ⟨11, 0x0204, 31, 0⟩
def TRC_RATE.RATE : Fld := ⟨11, 0x0204, 15, 0⟩
/-- TRC_PORT_MASK_LO (spec/18_counters_and_tracing.md). -/
def TRC_PORT_MASK_LO.reg : Fld := ⟨11, 0x0208, 31, 0⟩
def TRC_PORT_MASK_LO.MASK : Fld := ⟨11, 0x0208, 31, 0⟩
/-- TRC_PORT_MASK_HI (spec/18_counters_and_tracing.md). -/
def TRC_PORT_MASK_HI.reg : Fld := ⟨11, 0x020C, 31, 0⟩
def TRC_PORT_MASK_HI.MASK : Fld := ⟨11, 0x020C, 31, 0⟩
/-- TRC_RING_BASE_LO (spec/18_counters_and_tracing.md). -/
def TRC_RING_BASE_LO.reg : Fld := ⟨11, 0x0210, 31, 0⟩
def TRC_RING_BASE_LO.ADDR : Fld := ⟨11, 0x0210, 31, 0⟩
/-- TRC_RING_BASE_HI (spec/18_counters_and_tracing.md). -/
def TRC_RING_BASE_HI.reg : Fld := ⟨11, 0x0214, 31, 0⟩
def TRC_RING_BASE_HI.ADDR : Fld := ⟨11, 0x0214, 31, 0⟩
/-- TRC_RING_CFG (spec/18_counters_and_tracing.md). -/
def TRC_RING_CFG.reg : Fld := ⟨11, 0x0218, 31, 0⟩
def TRC_RING_CFG.LOG : Fld := ⟨11, 0x0218, 31, 28⟩
def TRC_RING_CFG.TAIL : Fld := ⟨11, 0x0218, 27, 16⟩
def TRC_RING_CFG.HEAD : Fld := ⟨11, 0x0218, 11, 0⟩
/-- TRC_BUF_STAT (spec/18_counters_and_tracing.md). -/
def TRC_BUF_STAT.reg : Fld := ⟨11, 0x021C, 31, 0⟩
def TRC_BUF_STAT.LEVEL : Fld := ⟨11, 0x021C, 27, 16⟩
def TRC_BUF_STAT.HEAD : Fld := ⟨11, 0x021C, 10, 0⟩
/-- TRC_DROPPED (spec/18_counters_and_tracing.md). -/
def TRC_DROPPED.reg : Fld := ⟨11, 0x0220, 31, 0⟩
def TRC_DROPPED.COUNT : Fld := ⟨11, 0x0220, 31, 0⟩
/-- TRC_RATE_SKIP (spec/18_counters_and_tracing.md). -/
def TRC_RATE_SKIP.reg : Fld := ⟨11, 0x0224, 31, 0⟩
def TRC_RATE_SKIP.COUNT : Fld := ⟨11, 0x0224, 31, 0⟩
/-- TRC_SEQ (spec/18_counters_and_tracing.md). -/
def TRC_SEQ.reg : Fld := ⟨11, 0x0228, 31, 0⟩
def TRC_SEQ.COUNT : Fld := ⟨11, 0x0228, 31, 0⟩
/-- UPD_CMD (spec/19_update_and_store.md). -/
def UPD_CMD.reg : Fld := ⟨8, 0x0200, 31, 0⟩
def UPD_CMD.OP : Fld := ⟨8, 0x0200, 31, 28⟩
def UPD_CMD.SLOT : Fld := ⟨8, 0x0200, 25, 25⟩
def UPD_CMD.SNAP : Fld := ⟨8, 0x0200, 24, 24⟩
def UPD_CMD.KEY : Fld := ⟨8, 0x0200, 17, 16⟩
def UPD_CMD.TOTAL_4K : Fld := ⟨8, 0x0200, 15, 0⟩
/-- UPD_CMD_STAT (spec/19_update_and_store.md). -/
def UPD_CMD_STAT.reg : Fld := ⟨8, 0x0204, 31, 0⟩
def UPD_CMD_STAT.BUSY : Fld := ⟨8, 0x0204, 31, 31⟩
def UPD_CMD_STAT.DONE : Fld := ⟨8, 0x0204, 30, 30⟩
def UPD_CMD_STAT.RESULT : Fld := ⟨8, 0x0204, 7, 0⟩
/-- UPD_REJECT (spec/19_update_and_store.md). -/
def UPD_REJECT.reg : Fld := ⟨8, 0x0208, 31, 0⟩
def UPD_REJECT.REASON : Fld := ⟨8, 0x0208, 7, 0⟩
/-- UPD_DL_ADDR_LO (spec/19_update_and_store.md). -/
def UPD_DL_ADDR_LO.reg : Fld := ⟨8, 0x0210, 31, 0⟩
def UPD_DL_ADDR_LO.ADDR : Fld := ⟨8, 0x0210, 31, 0⟩
/-- UPD_DL_ADDR_HI (spec/19_update_and_store.md). -/
def UPD_DL_ADDR_HI.reg : Fld := ⟨8, 0x0214, 31, 0⟩
def UPD_DL_ADDR_HI.ADDR : Fld := ⟨8, 0x0214, 31, 0⟩
/-- UPD_DL_BLOCK (spec/19_update_and_store.md). -/
def UPD_DL_BLOCK.reg : Fld := ⟨8, 0x0218, 31, 0⟩
def UPD_DL_BLOCK.OFFSET_4K : Fld := ⟨8, 0x0218, 31, 16⟩
def UPD_DL_BLOCK.LEN_4K : Fld := ⟨8, 0x0218, 8, 0⟩
/-- UPD_DL_STAT (spec/19_update_and_store.md). -/
def UPD_DL_STAT.reg : Fld := ⟨8, 0x021C, 31, 0⟩
def UPD_DL_STAT.RECEIVED : Fld := ⟨8, 0x021C, 31, 16⟩
def UPD_DL_STAT.TOTAL : Fld := ⟨8, 0x021C, 15, 0⟩
/-- UPD_SLOT_STAT word 0 (spec/19_update_and_store.md). -/
def UPD_SLOT_STAT0.reg (i : Nat) : Fld := ⟨8, 0x0220 + 8 * i, 31, 0⟩
def UPD_SLOT_STAT.STATE (i : Nat) : Fld := ⟨8, 0x0220 + 8 * i, 31, 29⟩
def UPD_SLOT_STAT.TRIES (i : Nat) : Fld := ⟨8, 0x0220 + 8 * i, 28, 27⟩
def UPD_SLOT_STAT.TYPE (i : Nat) : Fld := ⟨8, 0x0220 + 8 * i, 26, 24⟩
def UPD_SLOT_STAT.KEY_SLOT (i : Nat) : Fld := ⟨8, 0x0220 + 8 * i, 17, 16⟩
def UPD_SLOT_STAT.SVN (i : Nat) : Fld := ⟨8, 0x0220 + 8 * i, 15, 0⟩
/-- UPD_SLOT_STAT word 1 (spec/19_update_and_store.md). -/
def UPD_SLOT_STAT1.reg (i : Nat) : Fld := ⟨8, 0x0224 + 8 * i, 31, 0⟩
def UPD_SLOT_STAT.VERSION (i : Nat) : Fld := ⟨8, 0x0224 + 8 * i, 31, 0⟩
/-- UPD_BOOT (spec/19_update_and_store.md). -/
def UPD_BOOT.reg : Fld := ⟨8, 0x0230, 31, 0⟩
def UPD_BOOT.BOOT_SLOT : Fld := ⟨8, 0x0230, 31, 31⟩
def UPD_BOOT.FALLBACK : Fld := ⟨8, 0x0230, 30, 30⟩
def UPD_BOOT.TRIAL : Fld := ⟨8, 0x0230, 29, 29⟩
def UPD_BOOT.ROLLING : Fld := ⟨8, 0x0230, 28, 28⟩
def UPD_BOOT.TRIAL_LEFT_S : Fld := ⟨8, 0x0230, 15, 0⟩
/-- UPD_TRIAL_CFG (spec/19_update_and_store.md). -/
def UPD_TRIAL_CFG.reg : Fld := ⟨8, 0x0234, 31, 0⟩
def UPD_TRIAL_CFG.CONFIRM_S : Fld := ⟨8, 0x0234, 15, 0⟩
/-- UPD_SEC (spec/19_update_and_store.md). -/
def UPD_SEC.reg : Fld := ⟨8, 0x0238, 31, 0⟩
def UPD_SEC.MIN_SVN : Fld := ⟨8, 0x0238, 31, 16⟩
def UPD_SEC.KEY_VALID : Fld := ⟨8, 0x0238, 11, 8⟩
def UPD_SEC.KEY_REVOKED : Fld := ⟨8, 0x0238, 3, 0⟩
/-- UPD_STORE_STAT (spec/19_update_and_store.md). -/
def UPD_STORE_STAT.reg : Fld := ⟨8, 0x0240, 31, 0⟩
def UPD_STORE_STAT.SUSPENDED : Fld := ⟨8, 0x0240, 31, 31⟩
def UPD_STORE_STAT.PENDING : Fld := ⟨8, 0x0240, 30, 24⟩
def UPD_STORE_STAT.MAX_ERASES : Fld := ⟨8, 0x0240, 16, 0⟩
/-- UPD_SNAP_STAT (spec/19_update_and_store.md). -/
def UPD_SNAP_STAT.reg : Fld := ⟨8, 0x0250, 31, 0⟩
def UPD_SNAP_STAT.SNAP1 : Fld := ⟨8, 0x0250, 7, 4⟩
def UPD_SNAP_STAT.SNAP0 : Fld := ⟨8, 0x0250, 3, 0⟩
/-- UPD_SNAP_JSEQ_LO (spec/19_update_and_store.md). -/
def UPD_SNAP_JSEQ_LO.reg (i : Nat) : Fld := ⟨8, 0x0258 + 8 * i, 31, 0⟩
def UPD_SNAP_JSEQ_LO.JSEQ (i : Nat) : Fld := ⟨8, 0x0258 + 8 * i, 31, 0⟩
/-- UPD_SNAP_JSEQ_HI (spec/19_update_and_store.md). -/
def UPD_SNAP_JSEQ_HI.reg (i : Nat) : Fld := ⟨8, 0x025C + 8 * i, 31, 0⟩
def UPD_SNAP_JSEQ_HI.JSEQ (i : Nat) : Fld := ⟨8, 0x025C + 8 * i, 31, 0⟩
/-- PPR_CFG (spec/20_presence_seal_journal.md). -/
def PPR_CFG.reg : Fld := ⟨7, 0x0200, 31, 0⟩
def PPR_CFG.WINDOW_S : Fld := ⟨7, 0x0200, 15, 0⟩
/-- PPR_STAT (spec/20_presence_seal_journal.md). -/
def PPR_STAT.reg : Fld := ⟨7, 0x0204, 31, 0⟩
def PPR_STAT.WINDOW_OPEN : Fld := ⟨7, 0x0204, 31, 31⟩
def PPR_STAT.BREACH : Fld := ⟨7, 0x0204, 30, 30⟩
def PPR_STAT.SEAL_OPEN : Fld := ⟨7, 0x0204, 29, 29⟩
def PPR_STAT.JTAG_UNLOCKED : Fld := ⟨7, 0x0204, 28, 28⟩
def PPR_STAT.PRESSED : Fld := ⟨7, 0x0204, 27, 27⟩
def PPR_STAT.LEFT_S : Fld := ⟨7, 0x0204, 15, 0⟩
/-- PPR_CMD (spec/20_presence_seal_journal.md). -/
def PPR_CMD.reg : Fld := ⟨7, 0x0208, 31, 0⟩
def PPR_CMD.OP : Fld := ⟨7, 0x0208, 31, 28⟩
/-- PPR_CMD_STAT (spec/20_presence_seal_journal.md). -/
def PPR_CMD_STAT.reg : Fld := ⟨7, 0x020C, 31, 0⟩
def PPR_CMD_STAT.BUSY : Fld := ⟨7, 0x020C, 31, 31⟩
def PPR_CMD_STAT.DONE : Fld := ⟨7, 0x020C, 30, 30⟩
def PPR_CMD_STAT.RESULT : Fld := ⟨7, 0x020C, 7, 0⟩
/-- PPR_RTC_SET_LO (spec/20_presence_seal_journal.md). -/
def PPR_RTC_SET_LO.reg : Fld := ⟨7, 0x0210, 31, 0⟩
def PPR_RTC_SET_LO.SEC : Fld := ⟨7, 0x0210, 31, 0⟩
/-- PPR_RTC_SET_HI (spec/20_presence_seal_journal.md). -/
def PPR_RTC_SET_HI.reg : Fld := ⟨7, 0x0214, 31, 0⟩
def PPR_RTC_SET_HI.SEC : Fld := ⟨7, 0x0214, 31, 0⟩
/-- BKP_RTC_LO (spec/20_presence_seal_journal.md). -/
def BKP_RTC_LO.reg : Fld := ⟨7, 0x0220, 31, 0⟩
def BKP_RTC_LO.SEC_LO : Fld := ⟨7, 0x0220, 31, 0⟩
/-- BKP_RTC_HI (spec/20_presence_seal_journal.md). -/
def BKP_RTC_HI.reg : Fld := ⟨7, 0x0224, 31, 0⟩
def BKP_RTC_HI.TICKS : Fld := ⟨7, 0x0224, 30, 16⟩
def BKP_RTC_HI.SEC_HI : Fld := ⟨7, 0x0224, 15, 0⟩
/-- BKP_STAT (spec/20_presence_seal_journal.md). -/
def BKP_STAT.reg : Fld := ⟨7, 0x0228, 31, 0⟩
def BKP_STAT.LOST : Fld := ⟨7, 0x0228, 31, 31⟩
def BKP_STAT.ON_CELL : Fld := ⟨7, 0x0228, 30, 30⟩
def BKP_STAT.CELL_LOW : Fld := ⟨7, 0x0228, 29, 29⟩
def BKP_STAT.LOG_OVERFLOW : Fld := ⟨7, 0x0228, 28, 28⟩
def BKP_STAT.LOG_COUNT : Fld := ⟨7, 0x0228, 27, 23⟩
def BKP_STAT.VBAT_MV : Fld := ⟨7, 0x0228, 11, 0⟩
/-- BKP_LOG word 0 (spec/20_presence_seal_journal.md). -/
def BKP_LOG0.reg (i : Nat) : Fld := ⟨7, 0x1000 + 8 * i, 31, 0⟩
def BKP_LOG.SEC_LO (i : Nat) : Fld := ⟨7, 0x1000 + 8 * i, 31, 0⟩
/-- BKP_LOG word 1 (spec/20_presence_seal_journal.md). -/
def BKP_LOG1.reg (i : Nat) : Fld := ⟨7, 0x1004 + 8 * i, 31, 0⟩
def BKP_LOG.CODE (i : Nat) : Fld := ⟨7, 0x1004 + 8 * i, 31, 28⟩
def BKP_LOG.SUB (i : Nat) : Fld := ⟨7, 0x1004 + 8 * i, 27, 16⟩
def BKP_LOG.SEC_HI (i : Nat) : Fld := ⟨7, 0x1004 + 8 * i, 15, 0⟩
/-- JNL_SEQ_LO (spec/20_presence_seal_journal.md). -/
def JNL_SEQ_LO.reg : Fld := ⟨6, 0x0200, 31, 0⟩
def JNL_SEQ_LO.SEQ : Fld := ⟨6, 0x0200, 31, 0⟩
/-- JNL_SEQ_HI (spec/20_presence_seal_journal.md). -/
def JNL_SEQ_HI.reg : Fld := ⟨6, 0x0204, 31, 0⟩
def JNL_SEQ_HI.SEQ : Fld := ⟨6, 0x0204, 31, 0⟩
/-- JNL_RING_STAT (spec/20_presence_seal_journal.md). -/
def JNL_RING_STAT.reg : Fld := ⟨6, 0x0208, 31, 0⟩
def JNL_RING_STAT.FREE : Fld := ⟨6, 0x0208, 16, 0⟩
/-- JNL_PERSIST_STAT (spec/20_presence_seal_journal.md). -/
def JNL_PERSIST_STAT.reg : Fld := ⟨6, 0x020C, 31, 0⟩
def JNL_PERSIST_STAT.WRITING : Fld := ⟨6, 0x020C, 31, 31⟩
def JNL_PERSIST_STAT.WAITING : Fld := ⟨6, 0x020C, 30, 30⟩
def JNL_PERSIST_STAT.PEND : Fld := ⟨6, 0x020C, 15, 0⟩
/-- JNL_HOST_CFG (spec/20_presence_seal_journal.md). -/
def JNL_HOST_CFG.reg : Fld := ⟨6, 0x0210, 31, 0⟩
def JNL_HOST_CFG.EN : Fld := ⟨6, 0x0210, 31, 31⟩
def JNL_HOST_CFG.LOG : Fld := ⟨6, 0x0210, 4, 0⟩
/-- JNL_HOST_BASE_LO (spec/20_presence_seal_journal.md). -/
def JNL_HOST_BASE_LO.reg : Fld := ⟨6, 0x0214, 31, 0⟩
def JNL_HOST_BASE_LO.ADDR : Fld := ⟨6, 0x0214, 31, 0⟩
/-- JNL_HOST_BASE_HI (spec/20_presence_seal_journal.md). -/
def JNL_HOST_BASE_HI.reg : Fld := ⟨6, 0x0218, 31, 0⟩
def JNL_HOST_BASE_HI.ADDR : Fld := ⟨6, 0x0218, 31, 0⟩
/-- JNL_HOST_HEAD (spec/20_presence_seal_journal.md). -/
def JNL_HOST_HEAD.reg : Fld := ⟨6, 0x021C, 31, 0⟩
def JNL_HOST_HEAD.INDEX : Fld := ⟨6, 0x021C, 23, 0⟩
/-- JNL_HOST_TAIL (spec/20_presence_seal_journal.md). -/
def JNL_HOST_TAIL.reg : Fld := ⟨6, 0x0220, 31, 0⟩
def JNL_HOST_TAIL.INDEX : Fld := ⟨6, 0x0220, 23, 0⟩
/-- JNL_HOST_START_LO (spec/20_presence_seal_journal.md). -/
def JNL_HOST_START_LO.reg : Fld := ⟨6, 0x0224, 31, 0⟩
def JNL_HOST_START_LO.SEQ : Fld := ⟨6, 0x0224, 31, 0⟩
/-- JNL_HOST_START_HI (spec/20_presence_seal_journal.md). -/
def JNL_HOST_START_HI.reg : Fld := ⟨6, 0x0228, 31, 0⟩
def JNL_HOST_START_HI.SEQ : Fld := ⟨6, 0x0228, 31, 0⟩
/-- JNL_BACKLOG (spec/20_presence_seal_journal.md). -/
def JNL_BACKLOG.reg : Fld := ⟨6, 0x022C, 31, 0⟩
def JNL_BACKLOG.HELD : Fld := ⟨6, 0x022C, 23, 0⟩
/-- JNL_OVERWRITTEN_LO (spec/20_presence_seal_journal.md). -/
def JNL_OVERWRITTEN_LO.reg : Fld := ⟨6, 0x0230, 31, 0⟩
def JNL_OVERWRITTEN_LO.COUNT : Fld := ⟨6, 0x0230, 31, 0⟩
/-- JNL_OVERWRITTEN_HI (spec/20_presence_seal_journal.md). -/
def JNL_OVERWRITTEN_HI.reg : Fld := ⟨6, 0x0234, 31, 0⟩
def JNL_OVERWRITTEN_HI.COUNT : Fld := ⟨6, 0x0234, 31, 0⟩
/-- JNL_PERSIST_REFUSED (spec/20_presence_seal_journal.md). -/
def JNL_PERSIST_REFUSED.reg : Fld := ⟨6, 0x0238, 31, 0⟩
def JNL_PERSIST_REFUSED.VALUE : Fld := ⟨6, 0x0238, 31, 0⟩
/-- JNL_HOLD_MAX (spec/20_presence_seal_journal.md). -/
def JNL_HOLD_MAX.reg : Fld := ⟨6, 0x023C, 31, 0⟩
def JNL_HOLD_MAX.VALUE : Fld := ⟨6, 0x023C, 31, 0⟩
/-- PWR_CFG (spec/21_electrical_and_package.md). -/
def PWR_CFG.reg : Fld := ⟨257, 0x0200, 31, 0⟩
def PWR_CFG.ALERT_C : Fld := ⟨257, 0x0200, 7, 0⟩
/-- PWR_STAT (spec/21_electrical_and_package.md). -/
def PWR_STAT.reg : Fld := ⟨257, 0x0204, 31, 0⟩
def PWR_STAT.THROTTLING : Fld := ⟨257, 0x0204, 31, 31⟩
def PWR_STAT.ALERT : Fld := ⟨257, 0x0204, 30, 30⟩
def PWR_STAT.REFCLK_OK : Fld := ⟨257, 0x0204, 29, 29⟩
def PWR_STAT.HOTTEST : Fld := ⟨257, 0x0204, 14, 8⟩
def PWR_STAT.TJ_MAX_C : Fld := ⟨257, 0x0204, 7, 0⟩
/-- PWR_RAILS (spec/21_electrical_and_package.md). -/
def PWR_RAILS.reg : Fld := ⟨257, 0x0208, 31, 0⟩
def PWR_RAILS.VIN12_MV : Fld := ⟨257, 0x0208, 31, 16⟩
def PWR_RAILS.VSB33_MV : Fld := ⟨257, 0x0208, 15, 0⟩
/-- PWR_POWER (spec/21_electrical_and_package.md). -/
def PWR_POWER.reg : Fld := ⟨257, 0x020C, 31, 0⟩
def PWR_POWER.PEAK_W : Fld := ⟨257, 0x020C, 31, 16⟩
def PWR_POWER.AVG_W : Fld := ⟨257, 0x020C, 15, 0⟩
/-- PWR_THROTTLES (spec/21_electrical_and_package.md). -/
def PWR_THROTTLES.reg : Fld := ⟨257, 0x0210, 31, 0⟩
def PWR_THROTTLES.COUNT : Fld := ⟨257, 0x0210, 31, 0⟩
/-- PWR_SENSOR (spec/21_electrical_and_package.md). -/
def PWR_SENSOR.reg (i : Nat) : Fld := ⟨257, 0x1000 + 4 * i, 31, 0⟩
def PWR_SENSOR.DIE (i : Nat) : Fld := ⟨257, 0x1000 + 4 * i, 31, 31⟩
def PWR_SENSOR.MAX_C (i : Nat) : Fld := ⟨257, 0x1000 + 4 * i, 15, 8⟩
def PWR_SENSOR.TEMP_C (i : Nat) : Fld := ⟨257, 0x1000 + 4 * i, 7, 0⟩

/-- The registers of block D2D (spec/01_architecture.md), in the spec's order. -/
def declsD2d : List RegDecl := [
  ⟨"D2D_MOD_STAT", 256, 1, 0x200, 1, 4, 1, 4, 0x0, 0x0, 0x0, 0x0, 0x0, 0xFFFFFFF, false⟩,
  ⟨"D2D_MOD_ROLE", 256, 1, 0x204, 1, 4, 1, 4, 0x0, 0x0, 0x0, 0x0, 0xC000000, 0xFFFFFFF, false⟩,
  ⟨"D2D_XREQ_STAT", 256, 1, 0x210, 1, 4, 1, 4, 0x0, 0x0, 0x0, 0x0, 0x0, 0xFFFFFF, false⟩]

/-- The registers of block BLK (spec/02_register_pages.md), in the spec's order. -/
def declsBlk : List RegDecl := [
  ⟨"BLK_ID", 0, 1024, 0x0, 1, 4, 1, 4, 0x0, 0x0, 0x0, 0x0, 0x1, 0x0, false⟩,
  ⟨"BLK_CAPS", 0, 1024, 0x4, 1, 4, 1, 4, 0x0, 0x0, 0x0, 0x0, 0x0, 0x0, false⟩,
  ⟨"BLK_CTRL", 0, 1024, 0x8, 1, 4, 1, 4, 0xD, 0x0, 0x2, 0x0, 0x0, 0x0, false⟩,
  ⟨"BLK_STAT", 0, 1024, 0xC, 1, 4, 1, 4, 0x0, 0x0, 0x0, 0x0, 0x2, 0x0, false⟩,
  ⟨"BLK_INT_STAT", 0, 1024, 0x10, 1, 4, 1, 4, 0x0, 0xFFFF000F, 0x0, 0x0, 0x0, 0x0, false⟩,
  ⟨"BLK_INT_MASK", 0, 1024, 0x14, 1, 4, 1, 4, 0xFFFFFFFF, 0x0, 0x0, 0x0, 0xFFFFFFFF, 0x0, false⟩,
  ⟨"BLK_INT_FORCE", 0, 1024, 0x18, 1, 4, 1, 4, 0x0, 0x0, 0x0, 0xFFFFFFFF, 0x0, 0x0, false⟩,
  ⟨"BLK_COMMIT", 0, 1024, 0x40, 1, 4, 1, 4, 0x0, 0x0, 0x0, 0xFFFF0001, 0x0, 0x0, false⟩,
  ⟨"BLK_COMMIT_STAT", 0, 1024, 0x44, 1, 4, 1, 4, 0x0, 0x5, 0x0, 0x0, 0x0, 0x0, false⟩]

/-- The registers of block ERRCAP (spec/02_register_pages.md), in the spec's order. -/
def declsErrcap : List RegDecl := [
  ⟨"ERRCAP_ADDR_LO", 0, 1024, 0x20, 1, 4, 1, 4, 0x0, 0x0, 0x0, 0x0, 0x0, 0x0, false⟩,
  ⟨"ERRCAP_ADDR_HI", 0, 1024, 0x24, 1, 4, 1, 4, 0x0, 0x0, 0x0, 0x0, 0x0, 0x0, false⟩,
  ⟨"ERRCAP_MASTER", 0, 1024, 0x28, 1, 4, 1, 4, 0x0, 0x0, 0x0, 0x0, 0x0, 0x0, false⟩,
  ⟨"ERRCAP_KIND", 0, 1024, 0x2C, 1, 4, 1, 4, 0x0, 0x0, 0x0, 0x0, 0x0, 0x0, false⟩,
  ⟨"ERRCAP_TIME_LO", 0, 1024, 0x30, 1, 4, 1, 4, 0x0, 0x0, 0x0, 0x0, 0x0, 0x0, false⟩,
  ⟨"ERRCAP_TIME_HI", 0, 1024, 0x34, 1, 4, 1, 4, 0x0, 0x0, 0x0, 0x0, 0x0, 0x0, false⟩,
  ⟨"ERRCAP_DATA", 0, 1024, 0x38, 1, 4, 1, 4, 0x0, 0x0, 0x0, 0x0, 0x0, 0x0, false⟩,
  ⟨"ERRCAP_CTRL", 0, 1024, 0x3C, 1, 4, 1, 4, 0x0, 0x3, 0x0, 0x0, 0x0, 0x0, false⟩]

/-- The registers of block DIR (spec/02_register_pages.md), in the spec's order. -/
def declsDir : List RegDecl := [
  ⟨"DIR_COUNT", 0, 1, 0x200, 1, 4, 1, 4, 0x0, 0x0, 0x0, 0x0, 0xD0, 0x0, false⟩,
  ⟨"DIR_FORMAT", 0, 1, 0x204, 1, 4, 1, 4, 0x0, 0x0, 0x0, 0x0, 0x1, 0x0, false⟩,
  ⟨"DIR_ENTRY", 0, 1, 0x1000, 3840, 16, 4, 4, 0x0, 0x0, 0x0, 0x0, 0x0, 0x0, false⟩]

/-- The registers of block TBL (spec/02_register_pages.md), in the spec's order. -/
def declsTbl : List RegDecl := [
  ⟨"TBL_CMD", 0, 1024, 0x100, 1, 4, 1, 4, 0xFFFFFFFF, 0x0, 0x0, 0x0, 0x0, 0x0, false⟩,
  ⟨"TBL_STAT", 0, 1024, 0x104, 1, 4, 1, 4, 0x0, 0x0, 0x0, 0x0, 0x0, 0x0, false⟩,
  ⟨"TBL_OPT", 0, 1024, 0x108, 1, 4, 1, 4, 0x7, 0x0, 0x0, 0x0, 0x0, 0x0, false⟩,
  ⟨"TBL_RES", 0, 1024, 0x10C, 1, 4, 1, 4, 0x0, 0x0, 0x0, 0x0, 0x0, 0x0, false⟩,
  ⟨"TBL_JSEQ_LO", 0, 1024, 0x110, 1, 4, 1, 4, 0x0, 0x0, 0x0, 0x0, 0x0, 0x0, false⟩,
  ⟨"TBL_JSEQ_HI", 0, 1024, 0x114, 1, 4, 1, 4, 0x0, 0x0, 0x0, 0x0, 0x0, 0x0, false⟩,
  ⟨"TBL_LOCK", 0, 1024, 0x118, 1, 4, 1, 4, 0x0, 0x0, 0x0, 0x30000, 0x0, 0x0, false⟩,
  ⟨"TBL_FENCE", 0, 1024, 0x11C, 1, 4, 1, 4, 0x0, 0x0, 0x0, 0x0, 0x0, 0x0, false⟩,
  ⟨"TBL_KEY", 0, 1024, 0x120, 8, 4, 1, 4, 0xFFFFFFFF, 0x0, 0x0, 0x0, 0x0, 0x0, false⟩,
  ⟨"TBL_DATA", 0, 1024, 0x140, 16, 4, 1, 4, 0xFFFFFFFF, 0x0, 0x0, 0x0, 0x0, 0x0, false⟩,
  ⟨"TBL_EXT", 0, 1024, 0x180, 32, 4, 1, 4, 0xFFFFFFFF, 0x0, 0x0, 0x0, 0x0, 0x0, false⟩]

/-- The registers of block PORT (spec/03_ports_and_framing.md), in the spec's order. -/
def declsPort : List RegDecl := [
  ⟨"PORT_MODE", 16, 48, 0x200, 1, 4, 1, 4, 0x1F0F, 0x0, 0x0, 0x0, 0x0, 0x2000, true⟩,
  ⟨"PORT_LANE_MAP", 16, 48, 0x204, 1, 4, 1, 4, 0xFFFFFF, 0x0, 0x0, 0x0, 0xE4E400, 0x0, true⟩,
  ⟨"PORT_MAC_CFG", 16, 48, 0x208, 1, 4, 1, 4, 0xFFFF, 0x0, 0x0, 0x0, 0x2800, 0x0, true⟩,
  ⟨"PORT_PAUSE_CFG", 16, 48, 0x20C, 1, 4, 1, 4, 0xFFFFFFFF, 0x0, 0x0, 0x0, 0xFFFF0000, 0x0, true⟩,
  ⟨"PORT_TEST", 16, 48, 0x210, 1, 4, 1, 4, 0xF3, 0x0, 0x0, 0x0, 0x0, 0x0, true⟩,
  ⟨"PORT_STAT", 16, 48, 0x220, 1, 4, 1, 4, 0x0, 0x0, 0x0, 0x0, 0x0, 0xFFFF03FF, false⟩,
  ⟨"PORT_CAGE_CTRL", 16, 48, 0x230, 1, 4, 1, 4, 0xFF, 0x0, 0x0, 0x0, 0xA, 0x0, false⟩,
  ⟨"PORT_CAGE_STAT", 16, 48, 0x234, 1, 4, 1, 4, 0x0, 0x0, 0x0, 0x0, 0x0, 0xFFFFFF1F, false⟩,
  ⟨"PORT_MOD_ADDR", 16, 48, 0x238, 1, 4, 1, 4, 0xFFFFFF00, 0x0, 0x0, 0x0, 0x0, 0x0, false⟩,
  ⟨"PORT_MOD_CMD", 16, 48, 0x23C, 1, 4, 1, 4, 0x1FF00, 0x0, 0x0, 0x1, 0x0, 0xC0000000, false⟩,
  ⟨"PORT_PM_ES", 16, 48, 0x240, 1, 4, 1, 4, 0x0, 0x0, 0x0, 0x0, 0x0, 0x0, false⟩,
  ⟨"PORT_PM_SES", 16, 48, 0x244, 1, 4, 1, 4, 0x0, 0x0, 0x0, 0x0, 0x0, 0x0, false⟩,
  ⟨"PORT_PM_UAS", 16, 48, 0x248, 1, 4, 1, 4, 0x0, 0x0, 0x0, 0x0, 0x0, 0x0, false⟩,
  ⟨"PORT_PM_PEND", 16, 48, 0x24C, 1, 4, 1, 4, 0x0, 0x0, 0x0, 0x0, 0x0, 0x800003FF, false⟩]

/-- The registers of block FLX (spec/03_ports_and_framing.md), in the spec's order. -/
def declsFlx : List RegDecl := [
  ⟨"FLX_GROUP_CFG", 64, 24, 0x200, 1, 4, 1, 4, 0xF00FFFFF, 0x0, 0x0, 0x0, 0x0, 0x0, true⟩,
  ⟨"FLX_MEMBER", 64, 24, 0x210, 8, 4, 1, 4, 0x80003FFF, 0x0, 0x0, 0x0, 0x0, 0x0, true⟩,
  ⟨"FLX_CAL_CTRL", 64, 24, 0x240, 1, 4, 1, 4, 0x0, 0x0, 0x4, 0x0, 0x0, 0x3, false⟩,
  ⟨"FLX_STAT", 64, 24, 0x250, 1, 4, 1, 4, 0x0, 0x0, 0x0, 0x0, 0x0, 0xFFFFFF1F, false⟩,
  ⟨"FLX_SKEW", 64, 24, 0x254, 1, 4, 1, 4, 0x0, 0x0, 0x0, 0x0, 0x0, 0xFFFF, false⟩,
  ⟨"FLX_CL_STAT", 64, 24, 0x1000, 128, 4, 1, 4, 0x0, 0x0, 0x0, 0x0, 0x0, 0x3F, false⟩,
  ⟨"FLX_CL_PM0", 64, 24, 0x1400, 128, 16, 1, 4, 0x0, 0x0, 0x0, 0x0, 0x0, 0x0, false⟩,
  ⟨"FLX_CL_PM1", 64, 24, 0x1404, 128, 16, 1, 4, 0x0, 0x0, 0x0, 0x0, 0x0, 0x0, false⟩,
  ⟨"FLX_CL_PM2", 64, 24, 0x1408, 128, 16, 1, 4, 0x0, 0x0, 0x0, 0x0, 0x0, 0x0, false⟩,
  ⟨"FLX_CL_PM3", 64, 24, 0x140C, 128, 16, 1, 4, 0x0, 0x0, 0x0, 0x0, 0x0, 0x80000000, false⟩]

/-- The registers of block XC (spec/03_ports_and_framing.md), in the spec's order. -/
def declsXc : List RegDecl := [
  ⟨"XC_SWITCH", 88, 1, 0x200, 1, 4, 1, 4, 0x7000001F, 0x0, 0x80000000, 0x0, 0x0, 0x0, false⟩,
  ⟨"XC_STAT", 88, 1, 0x204, 1, 4, 1, 4, 0x0, 0x0, 0x0, 0x0, 0x0, 0x8001FFFF, false⟩,
  ⟨"XC_SW_TIME_LO", 88, 1, 0x208, 1, 4, 1, 4, 0x0, 0x0, 0x0, 0x0, 0x0, 0xFFFFFFFF, false⟩,
  ⟨"XC_SW_TIME_HI", 88, 1, 0x20C, 1, 4, 1, 4, 0x0, 0x0, 0x0, 0x0, 0x0, 0xFFFFFFFF, false⟩,
  ⟨"XC_CH_STAT", 88, 1, 0x1000, 1024, 4, 1, 4, 0x0, 0x0, 0x0, 0x0, 0x0, 0x3, false⟩]

/-- The registers of block PRS (spec/04_parsing_and_classification.md), in the spec's order. -/
def declsPrs : List RegDecl := [
  ⟨"PRS_TPID", 96, 1, 0x200, 1, 4, 1, 4, 0x1FFFF, 0x0, 0x0, 0x0, 0x9100, 0x0, true⟩,
  ⟨"PRS_MPLS_CFG", 96, 1, 0x204, 1, 4, 1, 4, 0x3, 0x0, 0x0, 0x0, 0x1, 0x0, true⟩,
  ⟨"PRS_VXLAN", 96, 1, 0x208, 1, 4, 1, 4, 0x1FFFF, 0x0, 0x0, 0x0, 0x112B5, 0x0, true⟩,
  ⟨"PRS_PROTO_EN", 96, 1, 0x20C, 1, 4, 1, 4, 0xFF003F, 0x0, 0x0, 0x0, 0x3F, 0x0, true⟩,
  ⟨"PRS_RTP_RANGE", 96, 1, 0x220, 8, 4, 1, 4, 0xFFFFFFFF, 0x0, 0x0, 0x0, 0x0, 0x0, true⟩,
  ⟨"PRS_EXC_IG", 96, 1, 0x240, 1, 4, 1, 4, 0xFFFFFFFC, 0x0, 0x0, 0x0, 0x14000, 0x0, true⟩,
  ⟨"PRS_EXC_EG", 96, 1, 0x244, 1, 4, 1, 4, 0xFFFE, 0x0, 0x0, 0x0, 0xC0, 0x0, true⟩]

/-- The registers of block PMT (spec/04_parsing_and_classification.md), in the spec's order. -/
def declsPmt : List RegDecl := [
  ⟨"PMT_CFG", 97, 1, 0x200, 1, 4, 1, 4, 0x1, 0x0, 0x0, 0x0, 0x0, 0x0, true⟩]

/-- The registers of block ASM (spec/04_parsing_and_classification.md), in the spec's order. -/
def declsAsm : List RegDecl := [
  ⟨"ASM_BANK_MODE", 98, 1, 0x200, 1, 4, 1, 4, 0xFFFF, 0x0, 0x0, 0x0, 0x0, 0x0, true⟩,
  ⟨"ASM_BANK_PWR", 98, 1, 0x204, 1, 4, 1, 4, 0xFFFFFFFF, 0x0, 0x0, 0x0, 0xFFFFFFFF, 0x0, true⟩,
  ⟨"ASM_BANK_STAT", 98, 1, 0x208, 1, 4, 1, 4, 0x0, 0x0, 0x0, 0x0, 0x0, 0xFFFFFFFF, false⟩,
  ⟨"ASM_SCRUB_CFG", 98, 1, 0x20C, 1, 4, 1, 4, 0x8000FFFF, 0x0, 0x0, 0x0, 0x80000100, 0x0, true⟩,
  ⟨"ASM_SPARE_STAT", 98, 1, 0x210, 1, 4, 1, 4, 0x0, 0x0, 0x0, 0x0, 0x3F0020, 0x803F003F, false⟩,
  ⟨"ASM_STEP", 98, 1, 0x214, 1, 4, 1, 4, 0x3F, 0x0, 0x0, 0x0, 0x0, 0x0, true⟩,
  ⟨"ASM_PROF_ERR_LO", 98, 1, 0x218, 1, 4, 1, 4, 0x0, 0x0, 0x0, 0x0, 0x0, 0xFFFFFFFF, false⟩,
  ⟨"ASM_PROF_ERR_HI", 98, 1, 0x21C, 1, 4, 1, 4, 0x0, 0x0, 0x0, 0x0, 0x0, 0xFFFFFFFF, false⟩,
  ⟨"ASM_STAT", 98, 1, 0x220, 1, 4, 1, 4, 0x0, 0xFF, 0x0, 0x0, 0x0, 0xFF, false⟩,
  ⟨"ASM_PROF_CFG", 98, 1, 0x1000, 64, 256, 1, 4, 0xFC000000, 0x0, 0x0, 0x0, 0x0, 0x0, true⟩,
  ⟨"ASM_PROF_BANKS", 98, 1, 0x1004, 64, 256, 1, 4, 0xFFFFFFFF, 0x0, 0x0, 0x0, 0x0, 0x0, true⟩,
  ⟨"ASM_PROF_MISS", 98, 1, 0x1008, 64, 256, 1, 4, 0x8007FFFF, 0x0, 0x0, 0x0, 0x0, 0x0, true⟩,
  ⟨"ASM_PROF_SEL", 98, 1, 0x1080, 64, 256, 32, 4, 0x83FF00FF, 0x0, 0x0, 0x0, 0x0, 0x0, true⟩]

/-- The registers of block ACT (spec/04_parsing_and_classification.md), in the spec's order. -/
def declsAct : List RegDecl := [
  ⟨"ACT_CFG", 104, 1, 0x200, 1, 4, 1, 4, 0x3, 0x0, 0x0, 0x0, 0x3, 0x0, true⟩]

/-- The registers of block LPM (spec/05_forwarding_tables.md), in the spec's order. -/
def declsLpm : List RegDecl := [
  ⟨"LPM_CFG", 100, 1, 0x200, 1, 4, 1, 4, 0x7, 0x0, 0x0, 0x0, 0x6, 0x0, false⟩,
  ⟨"LPM_FILTER_CFG", 100, 1, 0x204, 1, 4, 1, 4, 0x203FFFFF, 0x0, 0xC0000000, 0x0, 0x20040000, 0x0, false⟩,
  ⟨"LPM_STAT", 100, 1, 0x208, 1, 4, 1, 4, 0x0, 0x4, 0x0, 0x0, 0x0, 0xFFFFFF07, false⟩,
  ⟨"LPM_COUNT4", 100, 1, 0x210, 1, 4, 1, 4, 0x0, 0x0, 0x0, 0x0, 0x0, 0xFFFFFF, false⟩,
  ⟨"LPM_COUNT6", 100, 1, 0x214, 1, 4, 1, 4, 0x0, 0x0, 0x0, 0x0, 0x0, 0xFFFFFF, false⟩,
  ⟨"LPM_LOAD4", 100, 1, 0x218, 1, 4, 1, 4, 0x0, 0x0, 0x0, 0x0, 0x0, 0xFFFFFF, false⟩,
  ⟨"LPM_LOAD6", 100, 1, 0x21C, 1, 4, 1, 4, 0x0, 0x0, 0x0, 0x0, 0x0, 0xFFFFFF, false⟩,
  ⟨"LPM_HASH_SEED", 100, 1, 0x220, 1, 4, 1, 4, 0xFFFFFFFF, 0x0, 0x0, 0x0, 0x0, 0x0, false⟩,
  ⟨"LPM_MEM_USE", 100, 1, 0x1000, 64, 4, 1, 4, 0xF, 0x0, 0x0, 0x0, 0x0, 0x0, false⟩]

/-- The registers of block EXM (spec/05_forwarding_tables.md), in the spec's order. -/
def declsExm : List RegDecl := [
  ⟨"EXM_ROUTER_MAC_LO", 101, 1, 0x200, 8, 8, 1, 4, 0xFFFFFFFF, 0x0, 0x0, 0x0, 0x0, 0x0, false⟩,
  ⟨"EXM_ROUTER_MAC_HI", 101, 1, 0x204, 8, 8, 1, 4, 0x8000FFFF, 0x0, 0x0, 0x0, 0x0, 0x0, false⟩,
  ⟨"EXM_STAT", 101, 1, 0x240, 1, 4, 1, 4, 0x0, 0x0, 0x0, 0x0, 0x0, 0x1FFFFF, false⟩,
  ⟨"EXM_HASH_SEED", 101, 1, 0x244, 1, 4, 1, 4, 0xFFFFFFFF, 0x0, 0x0, 0x0, 0x0, 0x0, false⟩,
  ⟨"EXM_STASH", 101, 1, 0x248, 1, 4, 1, 4, 0x0, 0x0, 0x0, 0x0, 0x0, 0xFFF, false⟩]

/-- The registers of block L2B (spec/05_forwarding_tables.md), in the spec's order. -/
def declsL2b : List RegDecl := [
  ⟨"L2B_AGE_CFG", 102, 1, 0x200, 1, 4, 1, 4, 0x800FFFFF, 0x0, 0x0, 0x0, 0x80000064, 0x0, false⟩,
  ⟨"L2B_LEARN_CFG", 102, 1, 0x204, 1, 4, 1, 4, 0x8000000F, 0x0, 0x0, 0x0, 0x7, 0x0, false⟩,
  ⟨"L2B_COUNT", 102, 1, 0x208, 1, 4, 1, 4, 0x0, 0x0, 0x0, 0x0, 0x0, 0x1FFFFF, false⟩,
  ⟨"L2B_LEARN_DROP", 102, 1, 0x20C, 1, 4, 1, 4, 0x0, 0x0, 0x0, 0x0, 0x0, 0x0, false⟩,
  ⟨"L2B_NTF_STAT", 102, 1, 0x210, 1, 4, 1, 4, 0x0, 0x80000000, 0x0, 0x0, 0x0, 0x80001FFF, false⟩,
  ⟨"L2B_NTF_DATA", 102, 1, 0x220, 4, 4, 1, 4, 0x0, 0x0, 0x0, 0x0, 0x0, 0xFFFFFFFF, false⟩,
  ⟨"L2B_HASH_SEED", 102, 1, 0x230, 1, 4, 1, 4, 0xFFFFFFFF, 0x0, 0x0, 0x0, 0x0, 0x0, false⟩,
  ⟨"L2B_STASH", 102, 1, 0x214, 1, 4, 1, 4, 0x0, 0x0, 0x0, 0x0, 0x0, 0xFFF, false⟩,
  ⟨"L2B_PORT_CFG", 102, 1, 0x1000, 51, 8, 1, 4, 0xC01FFFFF, 0x0, 0x0, 0x0, 0x80100000, 0x0, false⟩,
  ⟨"L2B_PORT_COUNT", 102, 1, 0x1004, 51, 8, 1, 4, 0x0, 0x0, 0x0, 0x0, 0x0, 0x0, false⟩]

/-- The registers of block NHP (spec/05_forwarding_tables.md), in the spec's order. -/
def declsNhp : List RegDecl := [
  ⟨"NHP_HASH_CFG", 103, 1, 0x200, 1, 4, 1, 4, 0x3DF, 0x0, 0x0, 0x0, 0x9F, 0x0, false⟩,
  ⟨"NHP_HASH_SEED", 103, 1, 0x204, 1, 4, 1, 4, 0xFFFFFFFF, 0x0, 0x0, 0x0, 0x0, 0x0, false⟩]

/-- The registers of block PIPE (spec/06_pipelines.md), in the spec's order. -/
def declsPipe : List RegDecl := [
  ⟨"PIPE_STAT", 112, 17, 0x200, 1, 4, 1, 4, 0x0, 0x0, 0x0, 0x0, 0x1F00000, 0xE1F0FF00, false⟩,
  ⟨"PIPE_LOAD", 112, 17, 0x204, 1, 4, 1, 4, 0x0, 0x0, 0x0, 0x0, 0x0, 0xFFFFFF80, false⟩,
  ⟨"PIPE_BUCKETS", 112, 17, 0x208, 1, 4, 1, 4, 0x0, 0x0, 0x0, 0x0, 0x0, 0x0, false⟩,
  ⟨"PIPE_DIST_CFG", 112, 1, 0x300, 1, 4, 1, 4, 0x80FF007E, 0x0, 0x0, 0x0, 0x800A007E, 0x0, false⟩,
  ⟨"PIPE_DIST_SEED", 112, 1, 0x304, 1, 4, 1, 4, 0xFFFFFFFF, 0x0, 0x0, 0x0, 0x0, 0x0, false⟩,
  ⟨"PIPE_DIST_STAT", 112, 1, 0x308, 1, 4, 1, 4, 0x0, 0x0, 0x0, 0x0, 0x0, 0x80000000, false⟩,
  ⟨"PIPE_CT_CFG", 112, 1, 0x30C, 1, 4, 1, 4, 0x5, 0x0, 0x0, 0x0, 0x5, 0x0, false⟩,
  ⟨"PIPE_RX_LEVEL", 112, 1, 0x310, 1, 4, 1, 4, 0xFFFFFFFC, 0x0, 0x0, 0x0, 0x70100380, 0x0, true⟩,
  ⟨"PIPE_RX_PRIO", 112, 1, 0x314, 1, 4, 1, 4, 0xFF, 0x0, 0x0, 0x0, 0xC0, 0x0, true⟩,
  ⟨"PIPE_RECIRC_CFG", 112, 1, 0x318, 1, 4, 1, 4, 0xF, 0x0, 0x0, 0x0, 0x4, 0x0, false⟩,
  ⟨"PIPE_BUCKET", 112, 1, 0x1000, 256, 4, 1, 4, 0x1F, 0x0, 0x0, 0x0, 0x0, 0x80000000, false⟩]

/-- The registers of block SMP (spec/06_pipelines.md), in the spec's order. -/
def declsSmp : List RegDecl := [
  ⟨"SMP_INST_CFG", 105, 1, 0x1000, 64, 16, 1, 4, 0xF800FFFF, 0x0, 0x0, 0x0, 0x0, 0x0, false⟩,
  ⟨"SMP_INST_DEST", 105, 1, 0x1004, 64, 16, 1, 4, 0x1FFFFFFF, 0x0, 0x0, 0x0, 0x0, 0x0, false⟩,
  ⟨"SMP_INST_RATE", 105, 1, 0x1008, 64, 16, 1, 4, 0xFFFF, 0x0, 0x0, 0x0, 0x0, 0x0, false⟩,
  ⟨"SMP_INST_RDROP", 105, 1, 0x100C, 64, 16, 1, 4, 0x0, 0x0, 0x0, 0x0, 0x0, 0x0, false⟩,
  ⟨"SMP_PORT_CFG", 105, 1, 0x1400, 48, 4, 1, 4, 0xC0003F3F, 0x0, 0x0, 0x0, 0x0, 0x0, false⟩]

/-- The registers of block BPM (spec/07_buffers.md), in the spec's order. -/
def declsBpm : List RegDecl := [
  ⟨"BPM_TIER_CAP", 144, 1, 0x200, 3, 16, 1, 4, 0x0, 0x0, 0x0, 0x0, 0x0, 0xC000FFFF, false⟩,
  ⟨"BPM_TIER_FREE", 144, 1, 0x204, 3, 16, 1, 4, 0x0, 0x0, 0x0, 0x0, 0x0, 0xFFFF, false⟩,
  ⟨"BPM_TIER_RESV", 144, 1, 0x208, 3, 16, 1, 4, 0x0, 0x0, 0x0, 0x0, 0x0, 0xFFFF, false⟩,
  ⟨"BPM_TIER_LOW", 144, 1, 0x20C, 3, 16, 1, 4, 0xFFFF, 0x0, 0x0, 0x0, 0x0, 0x0, false⟩,
  ⟨"BPM_REFCNT_ERR", 144, 1, 0x240, 1, 4, 1, 4, 0x0, 0x0, 0x0, 0x0, 0x0, 0x0, false⟩,
  ⟨"BPM_POOL_FLOOR", 144, 1, 0x1000, 3, 64, 6, 4, 0xFFFF, 0x0, 0x0, 0x0, 0x0, 0x0, false⟩,
  ⟨"BPM_POOL_STAT0", 144, 1, 0x1100, 3, 64, 6, 8, 0x0, 0x0, 0x0, 0x0, 0x0, 0xFFFF, false⟩,
  ⟨"BPM_POOL_STAT1", 144, 1, 0x1104, 3, 64, 6, 8, 0x0, 0x0, 0x0, 0x0, 0x0, 0xFFFFFFFF, false⟩,
  ⟨"BPM_REQ_CFG0", 144, 1, 0x2000, 72, 32, 1, 4, 0xFFFFFFFF, 0x0, 0x0, 0x0, 0xC0000000, 0x0, false⟩,
  ⟨"BPM_REQ_CFG1", 144, 1, 0x2004, 72, 32, 1, 4, 0xFFFFFFFF, 0x0, 0x0, 0x0, 0x16000000, 0x0, false⟩,
  ⟨"BPM_REQ_CFG2", 144, 1, 0x2008, 72, 32, 1, 4, 0xFFFFFFFF, 0x0, 0x0, 0x0, 0xFFFF0000, 0x0, false⟩,
  ⟨"BPM_REQ_USE0", 144, 1, 0x2010, 72, 32, 1, 4, 0x0, 0x0, 0x0, 0x0, 0x0, 0x3FFFF, false⟩,
  ⟨"BPM_REQ_USE1", 144, 1, 0x2014, 72, 32, 1, 4, 0x0, 0x0, 0x0, 0x0, 0x0, 0x1FFFF, false⟩,
  ⟨"BPM_REQ_USE2", 144, 1, 0x2018, 72, 32, 1, 4, 0x0, 0x0, 0x0, 0x0, 0x0, 0x3FFFFFF, false⟩]

/-- The registers of block BUF (spec/07_buffers.md), in the spec's order. -/
def declsBuf : List RegDecl := [
  ⟨"BUF_STG_GLOBAL", 145, 1, 0x200, 1, 4, 1, 4, 0xFFFFFFFF, 0x0, 0x0, 0x0, 0x8001000, 0x0, false⟩,
  ⟨"BUF_STG_AGE", 145, 1, 0x204, 1, 4, 1, 4, 0xFFFF, 0x0, 0x0, 0x0, 0x3E8, 0x0, false⟩,
  ⟨"BUF_STG_TC", 145, 1, 0x208, 1, 4, 1, 4, 0xFF, 0x0, 0x0, 0x0, 0x0, 0x0, false⟩,
  ⟨"BUF_STG_FREE", 145, 1, 0x20C, 1, 4, 1, 4, 0x0, 0x0, 0x0, 0x0, 0x4000, 0x7FFF, false⟩,
  ⟨"BUF_SPILL_Q", 145, 1, 0x210, 1, 4, 1, 4, 0x0, 0x0, 0x0, 0x0, 0x0, 0x0, false⟩,
  ⟨"BUF_BLOCKED_Q", 145, 1, 0x214, 1, 4, 1, 4, 0x0, 0x0, 0x0, 0x0, 0x0, 0x0, false⟩,
  ⟨"BUF_AGE_STAT", 145, 1, 0x218, 1, 4, 1, 4, 0x0, 0x80000000, 0x0, 0x0, 0x0, 0x80000000, false⟩,
  ⟨"BUF_STG_PORT0", 145, 1, 0x1000, 51, 16, 1, 4, 0xFFFFFFFF, 0x0, 0x0, 0x0, 0x10000C0, 0x0, false⟩,
  ⟨"BUF_STG_PORT1", 145, 1, 0x1004, 51, 16, 1, 4, 0xFFFFFFFF, 0x0, 0x0, 0x0, 0x2000100, 0x0, false⟩,
  ⟨"BUF_STG_PORT2", 145, 1, 0x1008, 51, 16, 1, 4, 0x0, 0x0, 0x0, 0x0, 0x0, 0xFF00FFFF, false⟩]

/-- The registers of block GRN (spec/07_buffers.md), in the spec's order. -/
def declsGrn : List RegDecl := [
  ⟨"GRN_CFG", 146, 1, 0x200, 1, 4, 1, 4, 0xC0000000, 0x0, 0x0, 0x0, 0x40000000, 0x0, false⟩,
  ⟨"GRN_CAP", 146, 1, 0x204, 1, 4, 1, 4, 0x0, 0x0, 0x0, 0x0, 0x0, 0xFFFFFFFF, false⟩,
  ⟨"GRN_STAT", 146, 1, 0x208, 1, 4, 1, 4, 0x0, 0x0, 0x0, 0x0, 0x20000000, 0xE000FFFF, false⟩,
  ⟨"GRN_LOST_LO", 146, 1, 0x210, 1, 4, 1, 4, 0x0, 0x0, 0x0, 0x0, 0x0, 0x0, false⟩,
  ⟨"GRN_LOST_HI", 146, 1, 0x214, 1, 4, 1, 4, 0x0, 0x0, 0x0, 0x0, 0x0, 0x0, false⟩,
  ⟨"GRN_RATE", 146, 1, 0x218, 1, 4, 1, 4, 0x0, 0x0, 0x0, 0x0, 0x0, 0xFFFFFFFF, false⟩]

/-- The registers of block QM (spec/08_queues_and_scheduling.md), in the spec's order. -/
def declsQm : List RegDecl := [
  ⟨"QM_PRIV_TC", 176, 1, 0x200, 1, 4, 1, 4, 0xFF, 0x0, 0x0, 0x0, 0x0, 0x0, false⟩,
  ⟨"QM_RPT_CFG", 176, 1, 0x204, 1, 4, 1, 4, 0x8FFFFFFF, 0x0, 0x0, 0x0, 0x3FF, 0x0, false⟩,
  ⟨"QM_RPT_RATE", 176, 1, 0x208, 1, 4, 1, 4, 0xFFFF, 0x0, 0x0, 0x0, 0x64, 0x0, false⟩,
  ⟨"QM_RPT_DROP", 176, 1, 0x20C, 1, 4, 1, 4, 0x0, 0x0, 0x0, 0x0, 0x0, 0x0, false⟩,
  ⟨"QM_FLUSH", 176, 1, 0x210, 1, 4, 1, 4, 0x7FFFF, 0x0, 0x80000000, 0x0, 0x0, 0x40000000, false⟩]

/-- The registers of block SCH (spec/08_queues_and_scheduling.md), in the spec's order. -/
def declsSch : List RegDecl := [
  ⟨"SCH_STAT", 177, 1, 0x200, 1, 4, 1, 4, 0x0, 0x0, 0x0, 0x0, 0x0, 0xFFFFF, false⟩]

/-- The registers of block SHP (spec/08_queues_and_scheduling.md), in the spec's order. -/
def declsShp : List RegDecl := [
  ⟨"SHP_MILL_STAT", 178, 1, 0x200, 1, 4, 1, 4, 0x0, 0x0, 0x0, 0x0, 0x0, 0xFFFFF, false⟩,
  ⟨"SHP_SETTLE", 178, 1, 0x204, 1, 4, 1, 4, 0xFFFF, 0x0, 0x0, 0x0, 0x1000, 0x0, false⟩]

/-- The registers of block POL (spec/08_queues_and_scheduling.md), in the spec's order. -/
def declsPol : List RegDecl := [
  ⟨"POL_CFG", 179, 1, 0x200, 1, 4, 1, 4, 0x1, 0x0, 0x0, 0x0, 0x0, 0x0, false⟩]

/-- The registers of block GATE (spec/08_queues_and_scheduling.md), in the spec's order. -/
def declsGate : List RegDecl := [
  ⟨"GATE_CFG", 180, 48, 0x200, 1, 4, 1, 4, 0x80FFFFFF, 0x0, 0x0, 0x0, 0x100320, 0x0, true⟩,
  ⟨"GATE_ADMIN_CYCLE", 180, 48, 0x204, 1, 4, 1, 4, 0x3FFFFFFF, 0x0, 0x0, 0x0, 0xF4240, 0x0, true⟩,
  ⟨"GATE_ADMIN_LEN", 180, 48, 0x208, 1, 4, 1, 4, 0x7FF, 0x0, 0x0, 0x0, 0x1, 0x0, true⟩,
  ⟨"GATE_ADMIN_BASE_NS", 180, 48, 0x20C, 1, 4, 1, 4, 0x3FFFFFFF, 0x0, 0x0, 0x0, 0x0, 0x0, true⟩,
  ⟨"GATE_ADMIN_BASE_SEC_LO", 180, 48, 0x210, 1, 4, 1, 4, 0xFFFFFFFF, 0x0, 0x0, 0x0, 0x0, 0x0, true⟩,
  ⟨"GATE_ADMIN_BASE_SEC_HI", 180, 48, 0x214, 1, 4, 1, 4, 0xFFFF, 0x0, 0x0, 0x0, 0x0, 0x0, true⟩,
  ⟨"GATE_STAT", 180, 48, 0x220, 1, 4, 1, 4, 0x0, 0x40000000, 0x0, 0x0, 0xFF, 0xC3FF00FF, false⟩,
  ⟨"GATE_OPER_CYCLE", 180, 48, 0x224, 1, 4, 1, 4, 0x0, 0x0, 0x0, 0x0, 0x0, 0xFFFFFFFF, false⟩,
  ⟨"GATE_OPER_LEN", 180, 48, 0x228, 1, 4, 1, 4, 0x0, 0x0, 0x0, 0x0, 0x0, 0xFFFFFFFF, false⟩,
  ⟨"GATE_CHANGE_TIME_LO", 180, 48, 0x230, 1, 4, 1, 4, 0x0, 0x0, 0x0, 0x0, 0x0, 0xFFFFFFFF, false⟩,
  ⟨"GATE_CHANGE_TIME_HI", 180, 48, 0x234, 1, 4, 1, 4, 0x0, 0x0, 0x0, 0x0, 0x0, 0xFFFFFFFF, false⟩,
  ⟨"GATE_OVERRUN", 180, 48, 0x238, 1, 4, 1, 4, 0x0, 0x0, 0x0, 0x0, 0x0, 0x0, false⟩,
  ⟨"GATE_MAX_OPEN", 180, 48, 0x1000, 8, 4, 1, 4, 0x0, 0x0, 0x0, 0x0, 0xFFFFFFFF, 0xFFFFFFFF, false⟩]

/-- The registers of block FAB (spec/09_fabric.md), in the spec's order. -/
def declsFab : List RegDecl := [
  ⟨"FAB_DEV_ID", 240, 1, 0x200, 1, 4, 1, 4, 0x0, 0x0, 0x0, 0x0, 0x0, 0x3FF, false⟩,
  ⟨"FAB_SYS_CFG", 240, 1, 0x204, 1, 4, 1, 4, 0xC00003FF, 0x0, 0x0, 0x0, 0x3FF, 0x0, false⟩,
  ⟨"FAB_TIMERS", 240, 1, 0x208, 1, 4, 1, 4, 0xFFFFE0FF, 0x0, 0x0, 0x0, 0x820C800A, 0x0, false⟩,
  ⟨"FAB_PRIV_CFG", 240, 1, 0x20C, 1, 4, 1, 4, 0x3F, 0x0, 0x0, 0x0, 0x8, 0x0, true⟩,
  ⟨"FAB_STAT", 240, 1, 0x210, 1, 4, 1, 4, 0x0, 0x0, 0x0, 0x0, 0x0, 0x80FFFF00, false⟩,
  ⟨"FAB_UNREACH", 240, 1, 0x214, 1, 4, 1, 4, 0x0, 0x0, 0x0, 0x0, 0x0, 0x0, false⟩,
  ⟨"FAB_OUTSTANDING", 240, 1, 0x218, 1, 4, 1, 4, 0x0, 0x0, 0x0, 0x0, 0x0, 0xFFFFFFFF, false⟩,
  ⟨"FAB_BAD_REQ", 240, 1, 0x21C, 1, 4, 1, 4, 0x0, 0x0, 0x0, 0x0, 0x0, 0x0, false⟩]

/-- The registers of block FLC (spec/09_fabric.md), in the spec's order. -/
def declsFlc : List RegDecl := [
  ⟨"FLC_CFG", 244, 12, 0x200, 1, 4, 1, 4, 0xFFFFFF00, 0x0, 0x0, 0x0, 0x32100500, 0x0, false⟩,
  ⟨"FLC_LINK_CTRL", 244, 12, 0x1000, 12, 32, 1, 4, 0xA00003FE, 0x0, 0x40000000, 0x0, 0x20000000, 0x0, true⟩,
  ⟨"FLC_LINK_STAT", 244, 12, 0x1004, 12, 32, 1, 4, 0x0, 0x0, 0x0, 0x0, 0x20000, 0xFFFFFFC0, false⟩,
  ⟨"FLC_LINK_PEER", 244, 12, 0x1008, 12, 32, 1, 4, 0x0, 0x0, 0x0, 0x0, 0x0, 0x81FFFFFF, false⟩,
  ⟨"FLC_LINK_UNCORR", 244, 12, 0x100C, 12, 32, 1, 4, 0x0, 0x0, 0x0, 0x0, 0x0, 0x0, false⟩,
  ⟨"FLC_LINK_BAD", 244, 12, 0x1010, 12, 32, 1, 4, 0x0, 0x0, 0x0, 0x0, 0x0, 0x0, false⟩,
  ⟨"FLC_LINK_STALE", 244, 12, 0x1014, 12, 32, 1, 4, 0x0, 0x0, 0x0, 0x0, 0x0, 0x0, false⟩,
  ⟨"FLC_LINK_DOWNS", 244, 12, 0x1018, 12, 32, 1, 4, 0x0, 0x0, 0x0, 0x0, 0x0, 0x0, false⟩]

/-- The registers of block XBAR (spec/09_fabric.md), in the spec's order. -/
def declsXbar : List RegDecl := [
  ⟨"XBAR_CFG", 241, 1, 0x200, 1, 4, 1, 4, 0x3, 0x0, 0x0, 0x0, 0x2, 0x0, false⟩,
  ⟨"XBAR_STAT", 241, 1, 0x204, 1, 4, 1, 4, 0x0, 0x0, 0x0, 0x0, 0x0, 0xFFFF, false⟩]

/-- The registers of block MCR (spec/09_fabric.md), in the spec's order. -/
def declsMcr : List RegDecl := [
  ⟨"MCR_MC_CFG", 242, 1, 0x200, 1, 4, 1, 4, 0xFF, 0x0, 0x0, 0x0, 0x10, 0x0, false⟩,
  ⟨"MCR_PARTIAL_LO", 242, 1, 0x208, 1, 4, 1, 4, 0x0, 0x0, 0x0, 0x0, 0x0, 0x0, false⟩,
  ⟨"MCR_PARTIAL_HI", 242, 1, 0x20C, 1, 4, 1, 4, 0x0, 0x0, 0x0, 0x0, 0x0, 0x0, false⟩,
  ⟨"MCR_UNDELIV_LO", 242, 1, 0x210, 1, 4, 1, 4, 0x0, 0x0, 0x0, 0x0, 0x0, 0x0, false⟩,
  ⟨"MCR_UNDELIV_HI", 242, 1, 0x214, 1, 4, 1, 4, 0x0, 0x0, 0x0, 0x0, 0x0, 0x0, false⟩,
  ⟨"MCR_ACK_EXCESS", 242, 1, 0x218, 1, 4, 1, 4, 0x0, 0x0, 0x0, 0x0, 0x0, 0x0, false⟩]

/-- The registers of block HBMC (spec/10_memory_controllers.md), in the spec's order. -/
def declsHbmc : List RegDecl := [
  ⟨"HBMC_CFG", 148, 4, 0x200, 1, 4, 1, 4, 0xFFFFFFFF, 0x0, 0x0, 0x0, 0x64040800, 0x0, true⟩,
  ⟨"HBMC_CFG2", 148, 4, 0x204, 1, 4, 1, 4, 0xFFFFFFFF, 0x0, 0x0, 0x0, 0xC80010, 0x0, true⟩,
  ⟨"HBMC_STAT", 148, 4, 0x210, 1, 4, 1, 4, 0x0, 0x0, 0x0, 0x0, 0x0, 0xFE00FFFF, false⟩,
  ⟨"HBMC_ECC_CE", 148, 4, 0x214, 1, 4, 1, 4, 0x0, 0x0, 0x0, 0x0, 0x0, 0x0, false⟩,
  ⟨"HBMC_ECC_UE", 148, 4, 0x218, 1, 4, 1, 4, 0x0, 0x0, 0x0, 0x0, 0x0, 0x0, false⟩,
  ⟨"HBMC_NREF", 148, 4, 0x21C, 1, 4, 1, 4, 0x0, 0x0, 0x0, 0x0, 0x0, 0x0, false⟩,
  ⟨"HBMC_REPAIRS", 148, 4, 0x220, 1, 4, 1, 4, 0x0, 0x0, 0x0, 0x0, 0x0, 0x0, false⟩,
  ⟨"HBMC_IL_CFG", 148, 1, 0x300, 1, 4, 1, 4, 0xF, 0x0, 0x0, 0x0, 0x4, 0x0, true⟩,
  ⟨"HBMC_IL_STAT", 148, 1, 0x304, 1, 4, 1, 4, 0x0, 0x0, 0x0, 0x0, 0x40000000, 0xF000000F, false⟩,
  ⟨"HBMC_HINT_MAP", 148, 1, 0x308, 1, 4, 1, 4, 0xFFFF, 0x0, 0x0, 0x0, 0x0, 0x0, true⟩]

/-- The registers of block DDRC (spec/10_memory_controllers.md), in the spec's order. -/
def declsDdrc : List RegDecl := [
  ⟨"DDRC_CFG", 152, 16, 0x200, 1, 4, 1, 4, 0xFFFFFFFF, 0x0, 0x0, 0x0, 0x64180800, 0x0, true⟩,
  ⟨"DDRC_CFG2", 152, 16, 0x204, 1, 4, 1, 4, 0xFFFFFFFF, 0x0, 0x0, 0x0, 0xC80010, 0x0, true⟩,
  ⟨"DDRC_TEMP_CFG", 152, 16, 0x208, 1, 4, 1, 4, 0xFFFF, 0x0, 0x0, 0x0, 0x5F55, 0x0, true⟩,
  ⟨"DDRC_STAT", 152, 16, 0x210, 1, 4, 1, 4, 0x0, 0x0, 0x0, 0x0, 0x0, 0xFFC0FFFF, false⟩,
  ⟨"DDRC_MOD0", 152, 16, 0x220, 2, 16, 1, 4, 0x0, 0x0, 0x0, 0x0, 0x0, 0xFF00FFFF, false⟩,
  ⟨"DDRC_MOD1", 152, 16, 0x224, 2, 16, 1, 4, 0x0, 0x0, 0x0, 0x0, 0x0, 0xFFFFFFFF, false⟩,
  ⟨"DDRC_MOD2", 152, 16, 0x228, 2, 16, 1, 4, 0x0, 0x0, 0x0, 0x0, 0x0, 0xFFFFFF03, false⟩,
  ⟨"DDRC_SPD_ADDR", 152, 16, 0x240, 1, 4, 1, 4, 0x103FF, 0x0, 0x0, 0x0, 0x0, 0x0, false⟩,
  ⟨"DDRC_SPD_CMD", 152, 16, 0x244, 1, 4, 1, 4, 0x0, 0x0, 0x0, 0x1, 0x0, 0xC000FF00, false⟩,
  ⟨"DDRC_ECC_CE", 152, 16, 0x250, 1, 4, 1, 4, 0x0, 0x0, 0x0, 0x0, 0x0, 0x0, false⟩,
  ⟨"DDRC_ECC_UE", 152, 16, 0x254, 1, 4, 1, 4, 0x0, 0x0, 0x0, 0x0, 0x0, 0x0, false⟩,
  ⟨"DDRC_NREF", 152, 16, 0x258, 1, 4, 1, 4, 0x0, 0x0, 0x0, 0x0, 0x0, 0x0, false⟩,
  ⟨"DDRC_REPAIRS", 152, 16, 0x25C, 1, 4, 1, 4, 0x0, 0x0, 0x0, 0x0, 0x0, 0x0, false⟩,
  ⟨"DDRC_DEV_FAILED", 152, 16, 0x260, 1, 4, 1, 4, 0x0, 0x0, 0x0, 0x0, 0x0, 0x0, false⟩,
  ⟨"DDRC_IL_CFG", 152, 1, 0x300, 1, 4, 1, 4, 0xF, 0x0, 0x0, 0x0, 0x4, 0x0, true⟩,
  ⟨"DDRC_IL_STAT", 152, 1, 0x304, 1, 4, 1, 4, 0x0, 0x0, 0x0, 0x0, 0x40000000, 0xF0FFFFFF, false⟩,
  ⟨"DDRC_SHARE", 152, 1, 0x308, 1, 4, 1, 4, 0x0, 0x0, 0x0, 0x0, 0x0, 0xFFFFFFFF, false⟩,
  ⟨"DDRC_HINT_MAP", 152, 1, 0x30C, 1, 4, 1, 4, 0xFFFF, 0x0, 0x0, 0x0, 0x0, 0x0, true⟩]

/-- The registers of block PTP (spec/11_time.md), in the spec's order. -/
def declsPtp : List RegDecl := [
  ⟨"PTP_NOW_NS", 12, 1, 0x200, 1, 4, 1, 4, 0x0, 0x0, 0x0, 0x0, 0x0, 0x3FFFFFFF, false⟩,
  ⟨"PTP_NOW_SEC_LO", 12, 1, 0x204, 1, 4, 1, 4, 0x0, 0x0, 0x0, 0x0, 0x0, 0xFFFFFFFF, false⟩,
  ⟨"PTP_NOW_HI", 12, 1, 0x208, 1, 4, 1, 4, 0x0, 0x0, 0x0, 0x0, 0x0, 0xFFFFFFFF, false⟩,
  ⟨"PTP_MONO_LO", 12, 1, 0x210, 1, 4, 1, 4, 0x0, 0x0, 0x0, 0x0, 0x0, 0xFFFFFFFF, false⟩,
  ⟨"PTP_MONO_HI", 12, 1, 0x214, 1, 4, 1, 4, 0x0, 0x0, 0x0, 0x0, 0x0, 0xFFFFFFFF, false⟩,
  ⟨"PTP_ADJ_FREQ", 12, 1, 0x220, 1, 4, 1, 4, 0xFFFFFFFF, 0x0, 0x0, 0x0, 0x0, 0x0, true⟩,
  ⟨"PTP_STEP_CTRL", 12, 1, 0x224, 1, 4, 1, 4, 0xC0000003, 0x0, 0x0, 0x0, 0x0, 0x0, true⟩,
  ⟨"PTP_STEP_NS", 12, 1, 0x228, 1, 4, 1, 4, 0xFFFFFFFF, 0x0, 0x0, 0x0, 0x0, 0x0, true⟩,
  ⟨"PTP_STEP_SEC_LO", 12, 1, 0x22C, 1, 4, 1, 4, 0xFFFFFFFF, 0x0, 0x0, 0x0, 0x0, 0x0, true⟩,
  ⟨"PTP_STEP_SEC_HI", 12, 1, 0x230, 1, 4, 1, 4, 0xFFFF, 0x0, 0x0, 0x0, 0x0, 0x0, true⟩,
  ⟨"PTP_SLEW", 12, 1, 0x234, 1, 4, 1, 4, 0xFFFFFFFF, 0x0, 0x0, 0x0, 0x0, 0x0, true⟩,
  ⟨"PTP_SRC_CFG", 12, 1, 0x240, 1, 4, 1, 4, 0xFFFF0000, 0x0, 0x0, 0x0, 0x0, 0x0, true⟩,
  ⟨"PTP_PPS_CFG", 12, 1, 0x244, 1, 4, 1, 4, 0xFFFFFFFF, 0x0, 0x0, 0x0, 0x0, 0x0, true⟩,
  ⟨"PTP_CLOCK_CFG", 12, 1, 0x250, 1, 4, 1, 4, 0xF8FFFFFF, 0x0, 0x0, 0x0, 0x8080, 0x0, false⟩,
  ⟨"PTP_UTC", 12, 1, 0x254, 1, 4, 1, 4, 0xE000FFFF, 0x0, 0x0, 0x0, 0x25, 0x0, false⟩,
  ⟨"PTP_STAT", 12, 1, 0x260, 1, 4, 1, 4, 0x0, 0x0, 0x0, 0x0, 0x0, 0xFFC00000, false⟩,
  ⟨"PTP_OFFSET", 12, 1, 0x264, 1, 4, 1, 4, 0x0, 0x0, 0x0, 0x0, 0x0, 0xFFFFFFFF, false⟩,
  ⟨"PTP_PPS_IN_TS_LO", 12, 1, 0x268, 1, 4, 1, 4, 0x0, 0x0, 0x0, 0x0, 0x0, 0xFFFFFFFF, false⟩,
  ⟨"PTP_PPS_IN_TS_HI", 12, 1, 0x26C, 1, 4, 1, 4, 0x0, 0x0, 0x0, 0x0, 0x0, 0xFFFFFFFF, false⟩,
  ⟨"PTP_TC_SKIPPED", 12, 1, 0x270, 1, 4, 1, 4, 0x0, 0x0, 0x0, 0x0, 0x0, 0x0, false⟩,
  ⟨"PTP_TSF_STAT", 12, 1, 0x274, 1, 4, 1, 4, 0x0, 0x80000000, 0x0, 0x0, 0x0, 0x80001FFF, false⟩,
  ⟨"PTP_TSF_DATA", 12, 1, 0x280, 4, 4, 1, 4, 0x0, 0x0, 0x0, 0x0, 0x0, 0xFFFFFFFF, false⟩,
  ⟨"PTP_PORT_CFG", 12, 1, 0x1000, 48, 8, 1, 4, 0xFE000000, 0x0, 0x0, 0x0, 0xE000000, 0x0, false⟩,
  ⟨"PTP_PORT_ASYM", 12, 1, 0x1004, 48, 8, 1, 4, 0xFFFFFFFF, 0x0, 0x0, 0x0, 0x0, 0x0, false⟩]

/-- The registers of block SVC (spec/12_services.md), in the spec's order. -/
def declsSvc : List RegDecl := [
  ⟨"SVC_CFG", 13, 1, 0x200, 1, 4, 1, 4, 0xF803FFFF, 0x0, 0x0, 0x0, 0x1, 0x0, false⟩,
  ⟨"SVC_BUDGET", 13, 1, 0x204, 1, 4, 1, 4, 0x0, 0x0, 0x0, 0x0, 0x0, 0x3FFF, false⟩,
  ⟨"SVC_NTF_STAT", 13, 1, 0x210, 1, 4, 1, 4, 0x0, 0x80000000, 0x0, 0x0, 0x0, 0x80001FFF, false⟩,
  ⟨"SVC_NTF_DATA", 13, 1, 0x220, 4, 4, 1, 4, 0x0, 0x0, 0x0, 0x0, 0x0, 0xFFFFFFFF, false⟩,
  ⟨"SVC_CORE_STAT", 13, 1, 0x1000, 9, 4, 1, 4, 0x0, 0x0, 0x0, 0x0, 0x0, 0xE000FF7F, false⟩,
  ⟨"SVC_REC0", 13, 1, 0x1100, 16, 32, 1, 4, 0xE007FFFF, 0x0, 0x0, 0x0, 0x0, 0x0, false⟩,
  ⟨"SVC_REC1", 13, 1, 0x1104, 16, 32, 1, 4, 0x3FFFFFF, 0x0, 0x0, 0x0, 0x0, 0x0, false⟩,
  ⟨"SVC_REC2", 13, 1, 0x1108, 16, 32, 1, 4, 0x0, 0x0, 0x0, 0x0, 0x0, 0x3FFFFFF, false⟩,
  ⟨"SVC_REC3", 13, 1, 0x110C, 16, 32, 1, 4, 0x10000FFF, 0x0, 0xC0000000, 0x0, 0x0, 0x20000000, false⟩,
  ⟨"SVC_REC4", 13, 1, 0x1110, 16, 32, 1, 4, 0x1FFFFFFF, 0x0, 0x0, 0x0, 0x0, 0x0, false⟩,
  ⟨"SVC_REC5", 13, 1, 0x1114, 16, 32, 1, 4, 0x0, 0x0, 0x0, 0x0, 0x0, 0x0, false⟩]

/-- The registers of block PCIE (spec/13_host_interface.md), in the spec's order. -/
def declsPcie : List RegDecl := [
  ⟨"PCIE_LINK_STAT", 2, 1, 0x200, 1, 4, 1, 4, 0x0, 0x0, 0x0, 0x0, 0x0, 0xFFC00000, false⟩,
  ⟨"PCIE_ASPM_CFG", 2, 1, 0x204, 1, 4, 1, 4, 0xFFFF, 0x0, 0x0, 0x0, 0x20, 0x0, false⟩,
  ⟨"PCIE_CONTAIN", 2, 1, 0x208, 1, 4, 1, 4, 0x0, 0x0, 0x40000000, 0x0, 0x0, 0x80F00000, false⟩,
  ⟨"PCIE_CONTAIN_DROP", 2, 1, 0x20C, 1, 4, 1, 4, 0x0, 0x0, 0x0, 0x0, 0x0, 0x0, false⟩,
  ⟨"PCIE_CTO_COUNT", 2, 1, 0x210, 1, 4, 1, 4, 0x0, 0x0, 0x0, 0x0, 0x0, 0x0, false⟩,
  ⟨"PCIE_BLK_IRQ_SUM", 2, 1, 0x300, 32, 4, 1, 4, 0x0, 0x0, 0x0, 0x0, 0x0, 0xFFFFFFFF, false⟩,
  ⟨"PCIE_WIN_CFG", 2, 1, 0x1000, 16, 4, 1, 4, 0xF83FFFFF, 0x0, 0x0, 0x0, 0x0, 0x0, false⟩,
  ⟨"PCIE_DMA_STAT", 3, 1, 0x200, 1, 4, 1, 4, 0x0, 0x0, 0x0, 0x0, 0x0, 0x1FFF1FFF, false⟩,
  ⟨"PCIE_DB_DISCARD", 3, 1, 0x204, 1, 4, 1, 4, 0x0, 0x0, 0x0, 0x0, 0x0, 0x0, false⟩]

/-- The registers of block VIRT (spec/14_virtual_instances.md), in the spec's order. -/
def declsVirt : List RegDecl := [
  ⟨"VIRT_CMD", 4, 1, 0x200, 1, 4, 1, 4, 0xF0000FFF, 0x0, 0x0, 0x0, 0x0, 0x0, false⟩,
  ⟨"VIRT_CMD_STAT", 4, 1, 0x204, 1, 4, 1, 4, 0x0, 0x0, 0x0, 0x0, 0x0, 0xC00000FF, false⟩,
  ⟨"VIRT_COUNT", 4, 1, 0x208, 1, 4, 1, 4, 0x0, 0x0, 0x0, 0x0, 0x10000000, 0x1FFF0FFF, false⟩]

/-- The registers of block DEV (spec/15_start_up.md), in the spec's order. -/
def declsDev : List RegDecl := [
  ⟨"DEV_STAT", 1, 1, 0x200, 1, 4, 1, 4, 0x0, 0x0, 0x0, 0x0, 0x10200000, 0xFFF00000, false⟩,
  ⟨"DEV_RESET_CAUSE", 1, 1, 0x204, 1, 4, 1, 4, 0x0, 0x0, 0x0, 0x0, 0x0, 0xFF, false⟩,
  ⟨"DEV_CTRL", 1, 1, 0x208, 1, 4, 1, 4, 0x0, 0x0, 0x1, 0x0, 0x0, 0x0, false⟩,
  ⟨"DEV_WDOG", 1, 1, 0x20C, 1, 4, 1, 4, 0x3FFF, 0x0, 0x0, 0x0, 0x3E8, 0x0, false⟩,
  ⟨"DEV_RESTARTS", 1, 1, 0x210, 1, 4, 1, 4, 0x0, 0x0, 0x0, 0x0, 0x0, 0x0, false⟩,
  ⟨"DEV_SLOT", 1, 1, 0x214, 1, 4, 1, 4, 0x0, 0x0, 0x0, 0x0, 0x0, 0x3FF03FF, false⟩,
  ⟨"DEV_SERIAL_LO", 1, 1, 0x218, 1, 4, 1, 4, 0x0, 0x0, 0x0, 0x0, 0x0, 0x0, false⟩,
  ⟨"DEV_SERIAL_HI", 1, 1, 0x21C, 1, 4, 1, 4, 0x0, 0x0, 0x0, 0x0, 0x0, 0x0, false⟩,
  ⟨"DEV_STAGE_TIME", 1, 1, 0x1000, 9, 4, 1, 4, 0x0, 0x0, 0x0, 0x0, 0xFFFFFFFF, 0xFFFFFFFF, false⟩]

/-- The registers of block RPR (spec/16_repair_and_redundancy.md), in the spec's order. -/
def declsRpr : List RegDecl := [
  ⟨"RPR_CFG", 9, 1, 0x200, 1, 4, 1, 4, 0xC0FFFFFF, 0x0, 0x0, 0x0, 0xC00A0258, 0x0, false⟩,
  ⟨"RPR_CMD", 9, 1, 0x204, 1, 4, 1, 4, 0xF000077F, 0x0, 0x0, 0x0, 0x0, 0x0, false⟩,
  ⟨"RPR_CMD_STAT", 9, 1, 0x208, 1, 4, 1, 4, 0x0, 0x0, 0x0, 0x0, 0x0, 0xC00000FF, false⟩,
  ⟨"RPR_STAT", 9, 1, 0x20C, 1, 4, 1, 4, 0x0, 0x0, 0x0, 0x0, 0x0, 0x3F3F3F, false⟩,
  ⟨"RPR_EVT_STAT", 9, 1, 0x220, 1, 4, 1, 4, 0x0, 0x80000000, 0x0, 0x0, 0x0, 0x800007FF, false⟩,
  ⟨"RPR_EVT_DATA", 9, 1, 0x230, 4, 4, 1, 4, 0x0, 0x0, 0x0, 0x0, 0x0, 0xFFFFFFFF, false⟩,
  ⟨"RPR_PEG_STAT", 9, 1, 0x240, 1, 4, 1, 4, 0x0, 0x0, 0x0, 0x0, 0x0, 0xC0000000, false⟩,
  ⟨"RPR_PEG_SEQ", 9, 1, 0x244, 1, 4, 1, 4, 0x0, 0x0, 0x0, 0x0, 0x0, 0xFFFFFFFF, false⟩,
  ⟨"RPR_CLASS_STAT0", 9, 1, 0x1000, 6, 16, 1, 4, 0x0, 0x0, 0x0, 0x0, 0x0, 0xFFFFFFFF, false⟩,
  ⟨"RPR_CLASS_STAT1", 9, 1, 0x1004, 6, 16, 1, 4, 0x0, 0x0, 0x0, 0x0, 0x0, 0x0, false⟩,
  ⟨"RPR_CLASS_STAT2", 9, 1, 0x1008, 6, 16, 1, 4, 0x0, 0x0, 0x0, 0x0, 0x0, 0x0, false⟩,
  ⟨"RPR_CLASS_STAT3", 9, 1, 0x100C, 6, 16, 1, 4, 0x0, 0x0, 0x0, 0x0, 0x0, 0x0, false⟩]

/-- The registers of block CRY (spec/17_faults.md), in the spec's order. -/
def declsCry : List RegDecl := [
  ⟨"CRY_CFG", 5, 1, 0x200, 1, 4, 1, 4, 0x77, 0x0, 0x0, 0x0, 0x20, 0x0, false⟩,
  ⟨"CRY_STAT", 5, 1, 0x204, 1, 4, 1, 4, 0x0, 0x0, 0x0, 0x0, 0x0, 0x81FFFFFF, false⟩,
  ⟨"CRY_LOG_STAT", 5, 1, 0x210, 1, 4, 1, 4, 0x0, 0x80000000, 0x0, 0x0, 0x0, 0x80001FFF, false⟩,
  ⟨"CRY_LOG_DATA", 5, 1, 0x220, 6, 4, 1, 4, 0x0, 0x0, 0x0, 0x0, 0x0, 0xFFFFFFFF, false⟩,
  ⟨"CRY_FIRST_CTRL", 5, 1, 0x240, 1, 4, 1, 4, 0x0, 0x1, 0x0, 0x0, 0x0, 0x1, false⟩,
  ⟨"CRY_FIRST_MSG", 5, 1, 0x250, 4, 4, 1, 4, 0x0, 0x0, 0x0, 0x0, 0x0, 0xFFFFFFFF, false⟩,
  ⟨"CRY_FIRST_TIME_LO", 5, 1, 0x260, 1, 4, 1, 4, 0x0, 0x0, 0x0, 0x0, 0x0, 0xFFFFFFFF, false⟩,
  ⟨"CRY_FIRST_TIME_HI", 5, 1, 0x264, 1, 4, 1, 4, 0x0, 0x0, 0x0, 0x0, 0x0, 0xFFFFFFFF, false⟩,
  ⟨"CRY_FATAL_MSG", 5, 1, 0x270, 4, 4, 1, 4, 0x0, 0x0, 0x0, 0x0, 0x0, 0xFFFFFFFF, false⟩,
  ⟨"CRY_FATAL_TIME_LO", 5, 1, 0x280, 1, 4, 1, 4, 0x0, 0x0, 0x0, 0x0, 0x0, 0xFFFFFFFF, false⟩,
  ⟨"CRY_FATAL_TIME_HI", 5, 1, 0x284, 1, 4, 1, 4, 0x0, 0x0, 0x0, 0x0, 0x0, 0xFFFFFFFF, false⟩,
  ⟨"CRY_FATAL_STAT", 5, 1, 0x288, 1, 4, 1, 4, 0x0, 0x1, 0x0, 0x0, 0x0, 0x1, false⟩,
  ⟨"CRY_REFUSED", 5, 1, 0x290, 1, 4, 1, 4, 0x0, 0x0, 0x0, 0x0, 0x0, 0x0, false⟩,
  ⟨"CRY_DROPPED", 5, 1, 0x294, 1, 4, 1, 4, 0x0, 0x0, 0x0, 0x0, 0x0, 0x0, false⟩,
  ⟨"CRY_CLASS_COUNT", 5, 1, 0x1000, 5, 4, 1, 4, 0x0, 0x0, 0x0, 0x0, 0x0, 0x0, false⟩]

/-- The registers of block CNT (spec/18_counters_and_tracing.md), in the spec's order. -/
def declsCnt : List RegDecl := [
  ⟨"CNT_DUMP_CFG", 10, 1, 0x200, 1, 4, 1, 4, 0xC000FFFF, 0x0, 0x0, 0x0, 0x3E8, 0x0, false⟩,
  ⟨"CNT_DUMP_MASK", 10, 1, 0x204, 1, 4, 1, 4, 0x3FFFF, 0x0, 0x0, 0x0, 0x3FFFF, 0x0, false⟩,
  ⟨"CNT_DUMP_BASE_LO", 10, 1, 0x208, 1, 4, 1, 4, 0xFFFFFFFF, 0x0, 0x0, 0x0, 0x0, 0x0, false⟩,
  ⟨"CNT_DUMP_BASE_HI", 10, 1, 0x20C, 1, 4, 1, 4, 0xFFFFFFFF, 0x0, 0x0, 0x0, 0x0, 0x0, false⟩,
  ⟨"CNT_DUMP_RING", 10, 1, 0x210, 1, 4, 1, 4, 0x1F01FF, 0x0, 0x0, 0x0, 0x20030, 0x0, false⟩,
  ⟨"CNT_DUMP_HEAD", 10, 1, 0x214, 1, 4, 1, 4, 0xF, 0x0, 0x0, 0x0, 0x0, 0x800F0000, false⟩,
  ⟨"CNT_SNAP", 10, 1, 0x218, 1, 4, 1, 4, 0x0, 0x0, 0x80000000, 0x0, 0x0, 0x40000000, false⟩,
  ⟨"CNT_DUMP_STAT", 10, 1, 0x21C, 1, 4, 1, 4, 0x0, 0x80000000, 0x0, 0x0, 0x0, 0xF0000000, false⟩,
  ⟨"CNT_DUMP_SEQ_LO", 10, 1, 0x220, 1, 4, 1, 4, 0x0, 0x0, 0x0, 0x0, 0x0, 0xFFFFFFFF, false⟩,
  ⟨"CNT_DUMP_SEQ_HI", 10, 1, 0x224, 1, 4, 1, 4, 0x0, 0x0, 0x0, 0x0, 0x0, 0xFFFFFFFF, false⟩,
  ⟨"CNT_MEM_ERR", 10, 1, 0x228, 1, 4, 1, 4, 0x0, 0x0, 0x0, 0x0, 0x0, 0xF83FFFFF, false⟩,
  ⟨"CNT_MEM_ERR_COUNT", 10, 1, 0x22C, 1, 4, 1, 4, 0x0, 0x0, 0x0, 0x0, 0x0, 0x0, false⟩]

/-- The registers of block TRC (spec/18_counters_and_tracing.md), in the spec's order. -/
def declsTrc : List RegDecl := [
  ⟨"TRC_CFG", 11, 1, 0x200, 1, 4, 1, 4, 0xFC00FFFF, 0x0, 0x0, 0x0, 0x4000FFFF, 0x0, false⟩,
  ⟨"TRC_RATE", 11, 1, 0x204, 1, 4, 1, 4, 0xFFFF, 0x0, 0x0, 0x0, 0x64, 0x0, false⟩,
  ⟨"TRC_PORT_MASK_LO", 11, 1, 0x208, 1, 4, 1, 4, 0xFFFFFFFF, 0x0, 0x0, 0x0, 0xFFFFFFFF, 0x0, false⟩,
  ⟨"TRC_PORT_MASK_HI", 11, 1, 0x20C, 1, 4, 1, 4, 0xFFFF, 0x0, 0x0, 0x0, 0xFFFF, 0x0, false⟩,
  ⟨"TRC_RING_BASE_LO", 11, 1, 0x210, 1, 4, 1, 4, 0xFFFFFFFF, 0x0, 0x0, 0x0, 0x0, 0x0, false⟩,
  ⟨"TRC_RING_BASE_HI", 11, 1, 0x214, 1, 4, 1, 4, 0xFFFFFFFF, 0x0, 0x0, 0x0, 0x0, 0x0, false⟩,
  ⟨"TRC_RING_CFG", 11, 1, 0x218, 1, 4, 1, 4, 0xF0000FFF, 0x0, 0x0, 0x0, 0x60000000, 0xFFF0000, false⟩,
  ⟨"TRC_BUF_STAT", 11, 1, 0x21C, 1, 4, 1, 4, 0x7FF, 0x0, 0x0, 0x0, 0x0, 0xFFF0000, false⟩,
  ⟨"TRC_DROPPED", 11, 1, 0x220, 1, 4, 1, 4, 0x0, 0x0, 0x0, 0x0, 0x0, 0x0, false⟩,
  ⟨"TRC_RATE_SKIP", 11, 1, 0x224, 1, 4, 1, 4, 0x0, 0x0, 0x0, 0x0, 0x0, 0x0, false⟩,
  ⟨"TRC_SEQ", 11, 1, 0x228, 1, 4, 1, 4, 0x0, 0x0, 0x0, 0x0, 0x0, 0x0, false⟩]

/-- The registers of block UPD (spec/19_update_and_store.md), in the spec's order. -/
def declsUpd : List RegDecl := [
  ⟨"UPD_CMD", 8, 1, 0x200, 1, 4, 1, 4, 0xF303FFFF, 0x0, 0x0, 0x0, 0x0, 0x0, false⟩,
  ⟨"UPD_CMD_STAT", 8, 1, 0x204, 1, 4, 1, 4, 0x0, 0x0, 0x0, 0x0, 0x0, 0xC00000FF, false⟩,
  ⟨"UPD_REJECT", 8, 1, 0x208, 1, 4, 1, 4, 0x0, 0x0, 0x0, 0x0, 0x0, 0xFF, false⟩,
  ⟨"UPD_DL_ADDR_LO", 8, 1, 0x210, 1, 4, 1, 4, 0xFFFFFFFF, 0x0, 0x0, 0x0, 0x0, 0x0, false⟩,
  ⟨"UPD_DL_ADDR_HI", 8, 1, 0x214, 1, 4, 1, 4, 0xFFFFFFFF, 0x0, 0x0, 0x0, 0x0, 0x0, false⟩,
  ⟨"UPD_DL_BLOCK", 8, 1, 0x218, 1, 4, 1, 4, 0xFFFF01FF, 0x0, 0x0, 0x0, 0x0, 0x0, false⟩,
  ⟨"UPD_DL_STAT", 8, 1, 0x21C, 1, 4, 1, 4, 0x0, 0x0, 0x0, 0x0, 0x0, 0xFFFFFFFF, false⟩,
  ⟨"UPD_SLOT_STAT0", 8, 1, 0x220, 2, 8, 1, 4, 0x0, 0x0, 0x0, 0x0, 0x0, 0xFF03FFFF, false⟩,
  ⟨"UPD_SLOT_STAT1", 8, 1, 0x224, 2, 8, 1, 4, 0x0, 0x0, 0x0, 0x0, 0x0, 0xFFFFFFFF, false⟩,
  ⟨"UPD_BOOT", 8, 1, 0x230, 1, 4, 1, 4, 0x0, 0x0, 0x0, 0x0, 0x0, 0xF000FFFF, false⟩,
  ⟨"UPD_TRIAL_CFG", 8, 1, 0x234, 1, 4, 1, 4, 0xFFFF, 0x0, 0x0, 0x0, 0x258, 0x0, false⟩,
  ⟨"UPD_SEC", 8, 1, 0x238, 1, 4, 1, 4, 0x0, 0x0, 0x0, 0x0, 0x100, 0xFFFF0F0F, false⟩,
  ⟨"UPD_STORE_STAT", 8, 1, 0x240, 1, 4, 1, 4, 0x0, 0x0, 0x0, 0x0, 0x0, 0xFF01FFFF, false⟩,
  ⟨"UPD_SNAP_STAT", 8, 1, 0x250, 1, 4, 1, 4, 0x0, 0x0, 0x0, 0x0, 0x0, 0xFF, false⟩,
  ⟨"UPD_SNAP_JSEQ_LO", 8, 1, 0x258, 2, 8, 1, 4, 0x0, 0x0, 0x0, 0x0, 0x0, 0xFFFFFFFF, false⟩,
  ⟨"UPD_SNAP_JSEQ_HI", 8, 1, 0x25C, 2, 8, 1, 4, 0x0, 0x0, 0x0, 0x0, 0x0, 0xFFFFFFFF, false⟩]

/-- The registers of block PPR (spec/20_presence_seal_journal.md), in the spec's order. -/
def declsPpr : List RegDecl := [
  ⟨"PPR_CFG", 7, 1, 0x200, 1, 4, 1, 4, 0xFFFF, 0x0, 0x0, 0x0, 0x3C, 0x0, false⟩,
  ⟨"PPR_STAT", 7, 1, 0x204, 1, 4, 1, 4, 0x0, 0x0, 0x0, 0x0, 0x0, 0xF800FFFF, false⟩,
  ⟨"PPR_CMD", 7, 1, 0x208, 1, 4, 1, 4, 0xF0000000, 0x0, 0x0, 0x0, 0x0, 0x0, false⟩,
  ⟨"PPR_CMD_STAT", 7, 1, 0x20C, 1, 4, 1, 4, 0x0, 0x0, 0x0, 0x0, 0x0, 0xC00000FF, false⟩,
  ⟨"PPR_RTC_SET_LO", 7, 1, 0x210, 1, 4, 1, 4, 0xFFFFFFFF, 0x0, 0x0, 0x0, 0x0, 0x0, false⟩,
  ⟨"PPR_RTC_SET_HI", 7, 1, 0x214, 1, 4, 1, 4, 0xFFFF, 0x0, 0x0, 0x0, 0x0, 0x0, false⟩,
  ⟨"BKP_RTC_LO", 7, 1, 0x220, 1, 4, 1, 4, 0x0, 0x0, 0x0, 0x0, 0x0, 0xFFFFFFFF, false⟩,
  ⟨"BKP_RTC_HI", 7, 1, 0x224, 1, 4, 1, 4, 0x0, 0x0, 0x0, 0x0, 0x0, 0x7FFFFFFF, false⟩,
  ⟨"BKP_STAT", 7, 1, 0x228, 1, 4, 1, 4, 0x0, 0x0, 0x0, 0x0, 0x80800000, 0xFF800FFF, false⟩,
  ⟨"BKP_LOG0", 7, 1, 0x1000, 16, 8, 1, 4, 0x0, 0x0, 0x0, 0x0, 0x0, 0xFFFFFFFF, false⟩,
  ⟨"BKP_LOG1", 7, 1, 0x1004, 16, 8, 1, 4, 0x0, 0x0, 0x0, 0x0, 0x0, 0xFFFFFFFF, false⟩]

/-- The registers of block JNL (spec/20_presence_seal_journal.md), in the spec's order. -/
def declsJnl : List RegDecl := [
  ⟨"JNL_SEQ_LO", 6, 1, 0x200, 1, 4, 1, 4, 0x0, 0x0, 0x0, 0x0, 0x0, 0xFFFFFFFF, false⟩,
  ⟨"JNL_SEQ_HI", 6, 1, 0x204, 1, 4, 1, 4, 0x0, 0x0, 0x0, 0x0, 0x0, 0xFFFFFFFF, false⟩,
  ⟨"JNL_RING_STAT", 6, 1, 0x208, 1, 4, 1, 4, 0x0, 0x0, 0x0, 0x0, 0x10000, 0x1FFFF, false⟩,
  ⟨"JNL_PERSIST_STAT", 6, 1, 0x20C, 1, 4, 1, 4, 0x0, 0x0, 0x0, 0x0, 0x0, 0xC000FFFF, false⟩,
  ⟨"JNL_HOST_CFG", 6, 1, 0x210, 1, 4, 1, 4, 0x8000001F, 0x0, 0x0, 0x0, 0x10, 0x0, false⟩,
  ⟨"JNL_HOST_BASE_LO", 6, 1, 0x214, 1, 4, 1, 4, 0xFFFFFFFF, 0x0, 0x0, 0x0, 0x0, 0x0, false⟩,
  ⟨"JNL_HOST_BASE_HI", 6, 1, 0x218, 1, 4, 1, 4, 0xFFFFFFFF, 0x0, 0x0, 0x0, 0x0, 0x0, false⟩,
  ⟨"JNL_HOST_HEAD", 6, 1, 0x21C, 1, 4, 1, 4, 0xFFFFFF, 0x0, 0x0, 0x0, 0x0, 0x0, false⟩,
  ⟨"JNL_HOST_TAIL", 6, 1, 0x220, 1, 4, 1, 4, 0x0, 0x0, 0x0, 0x0, 0x0, 0xFFFFFF, false⟩,
  ⟨"JNL_HOST_START_LO", 6, 1, 0x224, 1, 4, 1, 4, 0xFFFFFFFF, 0x0, 0x0, 0x0, 0x0, 0x0, false⟩,
  ⟨"JNL_HOST_START_HI", 6, 1, 0x228, 1, 4, 1, 4, 0xFFFFFFFF, 0x0, 0x0, 0x0, 0x0, 0x0, false⟩,
  ⟨"JNL_BACKLOG", 6, 1, 0x22C, 1, 4, 1, 4, 0x0, 0x0, 0x0, 0x0, 0x0, 0xFFFFFF, false⟩,
  ⟨"JNL_OVERWRITTEN_LO", 6, 1, 0x230, 1, 4, 1, 4, 0x0, 0x0, 0x0, 0x0, 0x0, 0x0, false⟩,
  ⟨"JNL_OVERWRITTEN_HI", 6, 1, 0x234, 1, 4, 1, 4, 0x0, 0x0, 0x0, 0x0, 0x0, 0x0, false⟩,
  ⟨"JNL_PERSIST_REFUSED", 6, 1, 0x238, 1, 4, 1, 4, 0x0, 0x0, 0x0, 0x0, 0x0, 0x0, false⟩,
  ⟨"JNL_HOLD_MAX", 6, 1, 0x23C, 1, 4, 1, 4, 0x0, 0x0, 0x0, 0x0, 0x0, 0x0, false⟩]

/-- The registers of block PWR (spec/21_electrical_and_package.md), in the spec's order. -/
def declsPwr : List RegDecl := [
  ⟨"PWR_CFG", 257, 1, 0x200, 1, 4, 1, 4, 0xFF, 0x0, 0x0, 0x0, 0x62, 0x0, true⟩,
  ⟨"PWR_STAT", 257, 1, 0x204, 1, 4, 1, 4, 0x0, 0x0, 0x0, 0x0, 0x0, 0xE0007FFF, false⟩,
  ⟨"PWR_RAILS", 257, 1, 0x208, 1, 4, 1, 4, 0x0, 0x0, 0x0, 0x0, 0x0, 0xFFFFFFFF, false⟩,
  ⟨"PWR_POWER", 257, 1, 0x20C, 1, 4, 1, 4, 0x0, 0x0, 0x0, 0x0, 0x0, 0xFFFFFFFF, false⟩,
  ⟨"PWR_THROTTLES", 257, 1, 0x210, 1, 4, 1, 4, 0x0, 0x0, 0x0, 0x0, 0x0, 0x0, false⟩,
  ⟨"PWR_SENSOR", 257, 1, 0x1000, 88, 4, 1, 4, 0x0, 0x0, 0x0, 0x0, 0x8000, 0x8000FFFF, false⟩]

end Sys2Proof.Machine
end

