-- ==== Sys2Proof/Machine/Pages.lean ====
section
/-!
DEFINITION. The page map and the block directory (spec/02_register_pages.md R38, R53, R70), the declaration of the register at an
offset of a page, and what registers and tables read as at reset.
-/
namespace Sys2Proof.Machine

/-- A kind of block of the directory (R70): its name, type code, first page, pages per block, number of blocks, die, index of its
data-path parent, clock domain of its first block and the step from one block's domain to the next, whether its units have a spare
(R541, R546) and whether its pages carry the table command window. -/
structure Block where
  name : String
  type : Nat
  first : Nat
  pages : Nat
  count : Nat
  die : Nat
  parent : Nat
  clk : Nat
  clkStep : Nat
  hasSpare : Bool
  tbl : Bool
  deriving DecidableEq, Repr

/-- The blocks of R70 on pages below 0x090, in directory order. -/
def blocksLow : List Block := [
  ⟨"DIR", 0x0001, 0, 1, 1, 1, 0, 110, 0, false, false⟩,
  ⟨"DEV", 0x0002, 1, 1, 1, 1, 0, 110, 0, false, false⟩,
  ⟨"PCIE", 0x0003, 2, 2, 1, 1, 0, 133, 0, false, true⟩,
  ⟨"VIRT", 0x0004, 4, 1, 1, 1, 0, 110, 0, false, true⟩,
  ⟨"CRY", 0x0005, 5, 1, 1, 1, 0, 110, 0, false, true⟩,
  ⟨"JNL", 0x0006, 6, 1, 1, 1, 0, 110, 0, false, true⟩,
  ⟨"PPR", 0x0007, 7, 1, 1, 1, 0, 136, 0, false, false⟩,
  ⟨"UPD", 0x0008, 8, 1, 1, 1, 0, 139, 0, false, true⟩,
  ⟨"RPR", 0x0009, 9, 1, 1, 1, 0, 110, 0, false, true⟩,
  ⟨"CNT", 0x000A, 10, 1, 1, 1, 0, 110, 0, false, true⟩,
  ⟨"TRC", 0x000B, 11, 1, 1, 0, 1, 109, 0, false, true⟩,
  ⟨"PTP", 0x000C, 12, 1, 1, 1, 0, 135, 0, false, false⟩,
  ⟨"SVC", 0x000D, 13, 1, 1, 1, 0, 110, 0, true, true⟩,
  ⟨"PORT", 0x0010, 16, 1, 48, 0, 1, 48, 1, false, false⟩,
  ⟨"FLX", 0x0011, 64, 1, 24, 0, 1, 109, 0, false, true⟩,
  ⟨"XC", 0x0012, 88, 1, 1, 0, 1, 109, 0, false, true⟩,
  ⟨"PRS", 0x0020, 96, 1, 1, 0, 1, 109, 0, false, false⟩,
  ⟨"PMT", 0x0021, 97, 1, 1, 0, 1, 109, 0, false, true⟩,
  ⟨"ASM", 0x0022, 98, 2, 1, 0, 1, 109, 0, true, true⟩,
  ⟨"LPM", 0x0023, 100, 1, 1, 0, 1, 109, 0, true, true⟩,
  ⟨"EXM", 0x0024, 101, 1, 1, 0, 1, 109, 0, false, true⟩,
  ⟨"L2B", 0x0025, 102, 1, 1, 0, 1, 109, 0, false, true⟩,
  ⟨"NHP", 0x0026, 103, 1, 1, 0, 1, 109, 0, false, true⟩,
  ⟨"ACT", 0x0027, 104, 1, 1, 0, 1, 109, 0, false, true⟩,
  ⟨"SMP", 0x0028, 105, 1, 1, 0, 1, 109, 0, false, false⟩,
  ⟨"PIPE", 0x0029, 112, 1, 17, 0, 1, 109, 0, true, false⟩]

/-- The blocks of R70 on pages from 0x090, in directory order. -/
def blocksHigh : List Block := [
  ⟨"BPM", 0x0030, 144, 1, 1, 1, 2, 110, 0, false, false⟩,
  ⟨"BUF", 0x0031, 145, 1, 1, 1, 2, 110, 0, false, true⟩,
  ⟨"GRN", 0x0032, 146, 1, 1, 1, 2, 110, 0, false, false⟩,
  ⟨"HBMC", 0x0033, 148, 1, 4, 1, 2, 111, 1, false, false⟩,
  ⟨"DDRC", 0x0034, 152, 1, 16, 1, 2, 115, 1, false, false⟩,
  ⟨"QM", 0x0038, 176, 1, 1, 1, 2, 110, 0, false, true⟩,
  ⟨"SCH", 0x0039, 177, 1, 1, 1, 2, 110, 0, true, true⟩,
  ⟨"SHP", 0x003A, 178, 1, 1, 1, 2, 110, 0, false, true⟩,
  ⟨"POL", 0x003B, 179, 1, 1, 0, 1, 109, 0, false, true⟩,
  ⟨"GATE", 0x003C, 180, 1, 48, 1, 2, 110, 0, false, true⟩,
  ⟨"FAB", 0x0040, 240, 1, 1, 1, 2, 108, 0, false, true⟩,
  ⟨"XBAR", 0x0041, 241, 1, 1, 1, 2, 110, 0, false, false⟩,
  ⟨"MCR", 0x0042, 242, 1, 1, 1, 2, 110, 0, false, true⟩,
  ⟨"FLC", 0x0043, 244, 1, 12, 1, 2, 96, 1, false, false⟩,
  ⟨"D2D", 0x0048, 256, 1, 1, 1, 0, 131, 0, true, false⟩,
  ⟨"PWR", 0x0049, 257, 1, 1, 1, 0, 136, 0, false, false⟩]

/-- Every block kind of R70, in directory order. -/
def blocks : List Block := blocksLow ++ blocksHigh

/-- Whether a page belongs to a block of the kind. -/
def Block.owns (b : Block) (page : Nat) : Bool := b.first ≤ page && page < b.first + b.pages * b.count

/-- The block kind of a page; none for a reserved page (R38, R39). -/
def blockOf (page : Nat) : Option Block :=
  (if page < 144 then blocksLow else blocksHigh).find? (fun b => b.owns page)

/-- The instance of the block on a page (BLK_ID.INSTANCE, R53). -/
def instanceOf (page : Nat) : Nat :=
  match blockOf page with
  | some b => (page - b.first) / b.pages
  | none => 0

/-- The position of a page within its block (BLK_CAPS.PAGE_SEQ). -/
def pageSeqOf (page : Nat) : Nat :=
  match blockOf page with
  | some b => (page - b.first) % b.pages
  | none => 0

/-- Whether a page carries the table command window; of the PCIE pages only the second does (spec/13_host_interface.md). -/
def hasWindow (page : Nat) : Bool :=
  match blockOf page with
  | some b => b.tbl && page != 2
  | none => false

/-- The die of a page's block (R12). -/
def dieOf (page : Nat) : Nat :=
  match blockOf page with
  | some b => b.die
  | none => 1

/-- The declarations of the registers that may stand on a page of a block, apart from the common header. -/
def declsOf (name : String) : List RegDecl :=
  if name == "DIR" then declsDir
  else if name == "DEV" then declsDev
  else if name == "PCIE" then declsPcie
  else if name == "VIRT" then declsVirt
  else if name == "CRY" then declsCry
  else if name == "JNL" then declsJnl
  else if name == "PPR" then declsPpr
  else if name == "UPD" then declsUpd
  else if name == "RPR" then declsRpr
  else if name == "CNT" then declsCnt
  else if name == "TRC" then declsTrc
  else if name == "PTP" then declsPtp
  else if name == "SVC" then declsSvc
  else if name == "PORT" then declsPort
  else if name == "FLX" then declsFlx
  else if name == "XC" then declsXc
  else if name == "PRS" then declsPrs
  else if name == "PMT" then declsPmt
  else if name == "ASM" then declsAsm
  else if name == "LPM" then declsLpm
  else if name == "EXM" then declsExm
  else if name == "L2B" then declsL2b
  else if name == "NHP" then declsNhp
  else if name == "ACT" then declsAct
  else if name == "SMP" then declsSmp
  else if name == "PIPE" then declsPipe
  else if name == "BPM" then declsBpm
  else if name == "BUF" then declsBuf
  else if name == "GRN" then declsGrn
  else if name == "HBMC" then declsHbmc
  else if name == "DDRC" then declsDdrc
  else if name == "QM" then declsQm
  else if name == "SCH" then declsSch
  else if name == "SHP" then declsShp
  else if name == "POL" then declsPol
  else if name == "GATE" then declsGate
  else if name == "FAB" then declsFab
  else if name == "XBAR" then declsXbar
  else if name == "MCR" then declsMcr
  else if name == "FLC" then declsFlc
  else if name == "D2D" then declsD2d
  else if name == "PWR" then declsPwr
  else []

/-- Whether the register of a declaration stands at an offset of a page. -/
def RegDecl.covers (d : RegDecl) (page off : Nat) : Bool :=
  d.page ≤ page && page < d.page + d.pages && d.off ≤ off &&
  (let r := off - d.off
   r / d.s1 < d.c1 && (r % d.s1) % d.s2 == 0 && (r % d.s1) / d.s2 < d.c2) &&
  (d.c2 != 1 || (off - d.off) % d.s1 == 0)

/-- The declaration of the register at an offset of a page: the common header of R53, then the block's own registers.  The table
command window's registers stand only on pages that carry it. -/
def declAt (page off : Nat) : Option RegDecl :=
  match blockOf page with
  | none => none
  | some b =>
    if off < 0x100 then (declsBlk ++ declsErrcap).find? (fun d => d.covers page off)
    else if off < 0x200 then (if hasWindow page then declsTbl.find? (fun d => d.covers page off) else none)
    else (declsOf b.name).find? (fun d => d.covers page off)

/-- The key of a register in the register stores. -/
def regKey (page off : Nat) : Nat := page * 65536 + off

/-- Whether a page has shadowed registers (BLK_CAPS.SHADOW). -/
def hasShadow (page : Nat) : Bool :=
  match blockOf page with
  | none => false
  | some b => (declsOf b.name).any (fun d => d.shadowed && d.page ≤ page && page < d.page + d.pages)

/-- The directory node entries of R70: device, FE die, TM die, main core.  Words 0 to 3 of the entry (R69).  VERSION 1 of the nodes is DESIGN CHOICE (log entry 78). -/
def dirNodes : List (List Nat) := [
  [0x00F0 <<< 16 ||| 1, 0, 0xFFF <<< 20 ||| 0xFFF <<< 8 ||| 0xFF, 1],
  [0x00F1 <<< 16 ||| 1, 0, 0 <<< 20 ||| 0xFFF <<< 8 ||| 0xFF, 1],
  [0x00F2 <<< 16 ||| 1, 1 <<< 31, 0 <<< 20 ||| 0xFFF <<< 8 ||| 0xFF, 1],
  [0x00F3 <<< 16 ||| 1, 1 <<< 31, 0xFFF <<< 20 ||| 0xFFF <<< 8 ||| 134, 1]]

/-- The four words of the directory entry of block `i` of a kind (R69).  TBL of PCIE and the page that SHADOWED is taken from are DESIGN CHOICE (log entry 78). -/
def Block.dirEntry (b : Block) (i : Nat) : List Nat := [
  b.type <<< 16 ||| i <<< 4 ||| 1,
  b.die <<< 31 ||| (b.first + i * b.pages) <<< 16 ||| b.pages,
  b.parent <<< 20 ||| 3 <<< 8 ||| (b.clk + b.clkStep * i),
  (if b.hasSpare then 8 else 0) ||| (if hasShadow (b.first + i * b.pages) then 4 else 0) ||| (if b.tbl then 2 else 0) ||| 1]

/-- Directory entry `n` counted from the first block kind of a list: the entry of the block it falls in. -/
def dirBlockEntry : List Block → Nat → List Nat
  | [], _ => [0, 0, 0, 0]
  | b :: r, n => if n < b.count then b.dirEntry n else dirBlockEntry r (n - b.count)

/-- Word `w` of directory entry `i` (R69, R70); entries at or above COUNT read 0. -/
def dirWord (i w : Nat) : Word :=
  BitVec.ofNat 32 ((if i < 4 then (dirNodes[i]?.getD []) else dirBlockEntry blocks (i - 4))[w]?.getD 0)

/-- The reset value of LPM_MEM_USE[b] (R175): the fixed use code of banks 0 to 20, free above. -/
def lpmUseReset (b : Nat) : Nat :=
  if b ≤ 1 then 8 else if b == 2 then 9 else if b ≤ 18 then 10 else if b == 19 then 11 else if b == 20 then 12 else 0

/-- What a register reads as before anything has written it: the reset value of its register table, which some registers give by
their index; the backup domain's registers are as R651 leaves them at its start (BREACH set, one DOMAIN_LOST entry; log entry 33). -/
def regResetAt (page off : Nat) : Word :=
  match blockOf page with
  | none => 0
  | some b =>
    if off == 0 then BitVec.ofNat 32 (b.type <<< 16 ||| instanceOf page <<< 4 ||| 1)
    else if off == 4 then
      BitVec.ofNat 32 (pageSeqOf page <<< 28 ||| (if hasWindow page then 1 <<< 27 else 0) ||| (if hasShadow page then 1 <<< 26 else 0))
    else if page == 7 && off == 0x204 then 0x40000000
    else if page == 7 && off == 0x1004 then 0x50000000
    else if page == 0 && 0x1000 ≤ off then dirWord ((off - 0x1000) / 16) ((off - 0x1000) % 16 / 4)
    else if page == 100 && 0x1000 ≤ off && off < 0x1100 then BitVec.ofNat 32 (lpmUseReset ((off - 0x1000) / 4))
    else if page == 112 && 0x1000 ≤ off && off < 0x1400 then BitVec.ofNat 32 ((off - 0x1000) / 4 % 16)
    else if page == 144 && 0x200 ≤ off && off < 0x230 then
      (let t := (off - 0x200) / 16
       let w := (off - 0x200) % 16
       if w == 0 then BitVec.ofNat 32 (t <<< 30 ||| (if t == 0 then 0x0C00 else if t == 1 then 0x1600 else 0))
       else if w == 12 then (if t == 0 then 0x30 else if t == 1 then 0x100 else 0x10)
       else 0)
    else if page == 144 && 0x1000 ≤ off && off < 0x10C0 && (off - 0x1000) % 0x40 < 24 then
      (let t := (off - 0x1000) / 0x40
       if t == 0 then 8 else if t == 1 then 4 else 1)
    else if page == 144 && 0x2000 ≤ off && off < 0x2000 + 0x20 * 67 && (off - 0x2000) % 0x20 < 12 then
      (let w := (off - 0x2000) % 0x20
       if w == 0 then 0xC0000000 else if w == 4 then 0x16000000 else 0xFFFF0000)
    else if page == 257 && 0x1000 ≤ off && off < 0x1000 + 4 * 88 then
      (if (off - 0x1000) / 4 ≤ 47 then 0x8000 else 0x80008000)
    else
      match declAt page off with
      | some d => BitVec.ofNat 32 d.reset
      | none => 0

/-- The reset value of the register at a register key. -/
def regReset (k : Nat) : Word := regResetAt (k / 65536) (k % 65536)

/-- The key of a table entry in the table store. -/
def tabKey (page table index : Nat) : Nat := page * 2 ^ 28 + table * 2 ^ 22 + index

/-- What a table entry reads as before anything has written it: not valid, but for VIRT's entry 0, which describes PF0 as ACTIVE with
TX_MODE FULL (R499). -/
def tableReset (k : Nat) : Option Entry :=
  if k == tabKey 4 0 0 then some { data := 0x38000000 } else none

end Sys2Proof.Machine
end

