-- ==== Sys2Proof/Machine/State.lean ====
section
/-!
DEFINITION. The state of the PL9648 as plain data: every register, table, queue, buffer, counter, mode and pin the spec gives the
device, and the queue of commands that wait.  State.reset is the device as it leaves the factory, unpowered, before COLD_START
(spec/15_start_up.md); every register stands at the value its register table gives.
-/
namespace Sys2Proof.Machine

/-- A fault of the model.  The device answers every command that its spec describes with a next state, so no meaning raises one. -/
inductive Fault where
  /-- Raised by no meaning: the spec describes no event that stops the device without a next state (its Fatal safe state is a
  state).  Safe. -/
  | none
  deriving DecidableEq, Repr

/-- A refusal of the model. -/
inductive Refusal where
  /-- Raised by Dispatch for a command that has no meaning yet.  Safe. -/
  | notModelled (mnemonic : String)
  /-- Raised by every meaning for a command whose operands name no unit of the device (a port above 47, a link above 143 ...), which
  no sender can send.  Safe. -/
  | illFormed
  deriving DecidableEq, Repr
/-- The part of the state that belongs to what the model itself keeps: emissions of the present step and the count of free values (not the spec's). -/
structure ModelPart where
  /-- what the present step sends out of the device (the model's own). -/
  emitted : List Emit
  /-- the count of free values drawn so far (the model's own). -/
  fresh : Nat
  /-- VIN12 in range (spec/00 R7, spec/15 R511). -/
  supVin12 : Bool
  /-- VSB33 in range (spec/00 R7, spec/15 R511). -/
  supVsb33 : Bool
  deriving DecidableEq, Repr

/-- The part of the state that belongs to the die-to-die link. -/
structure DiePart where
  /-- by receiving die: the link sequence number delivered next and the flits that wait behind a gap (spec/01 R15, R16). -/
  dieRx : Sp FlitRx
  /-- by sending die: the next link sequence number and the replay buffer (spec/01 R15, R16). -/
  dieTx : Sp FlitTx
  /-- by source: requests not yet executed, oldest first; those beyond the source's receive buffers wait in its transmit queue (spec/01 R29, R30, R33). -/
  dieQ : Sp (List DieReq)
  /-- by word address: TM-die memory that FE-die sources write across the link (spec/01 R32). -/
  tmMem : Sp Word
  /-- by source: executed reads, with the data read, whose response has not arrived, oldest first (spec/01 R31). -/
  dieRead : Sp (List DieReq)
  /-- by source: writes lost with the die-to-die link (spec/01 R36). -/
  dieLost : Sp Nat
  /-- by UCIe module: retries counted (spec/01 R16). -/
  modRetries : Sp Nat
  /-- MONO since which no die-to-die module works (spec/01 R36). -/
  dieDownAt : Option Nat
  deriving DecidableEq, Repr

/-- The part of the state that belongs to register pages and table command windows. -/
structure PagePart where
  /-- registers by page * 65536 + offset: the value software wrote or hardware set; for a shadowed register its shadow (spec/02 R37, R43, R64). -/
  regs : Sp Word
  /-- for shadowed registers, by the same key: the value the units are using (spec/02 R64). -/
  units : Sp Word
  /-- for shadowed registers, by the same key: what the units used before the commit that is PENDING (spec/02 R68). -/
  before : Sp Word
  /-- the status view a frozen page holds, by the same key (spec/02 R57). -/
  frozen : Sp Word
  /-- the latched HI offsets and values by page * 65536 + master (spec/02 R44, spec/11 PTP_NOW_NS). -/
  hiLatch : Sp (List (Nat × Word))
  /-- the held LO write (its offset and value) by page * 65536 + master (spec/02 R45). -/
  loHeld : Sp (Option (Nat × Word))
  /-- by page: start-up has brought the block up (spec/02 R48). -/
  blkUp : Sp Bool
  /-- by page: the staging words of the table command window (spec/02 TBL_KEY, TBL_DATA, TBL_EXT). -/
  tblWin : Sp Entry
  /-- by page: the table operation in progress (spec/02 R77). -/
  tblOp : Sp (Option TblOp)
  /-- by page: the pending commit waits for the later point its chapter names (spec/02 R67). -/
  commitLate : Sp Bool
  /-- table entries by page * 2^28 + table * 2^22 + index; none: not valid or never written (spec/02 R78 and each block's tables). -/
  tables : Sp (Option Entry)
  /-- by register key: the value that start-up wrote (spec/02 R690). -/
  startVal : Sp (Option Word)
  /-- by page: the shadowed registers written since its last accepted commit, with their writers (spec/02 R51). -/
  dirty : Sp (List (Nat × Nat))
  deriving DecidableEq, Repr

/-- The part of the state that belongs to ports, cages, FlexE and the cross-connect. -/
structure PortPart where
  /-- by port * 8 + TC: MONO at which the partner's pause ends (spec/03 R92). -/
  pauseUntil : Sp (Option Nat)
  /-- by port: MONO of the last PFC or PAUSE frame sent with a pause time (spec/03 R93). -/
  pauseSentAt : Sp (Option Nat)
  /-- by port: classes and time of pause frames that wait for the frame boundary, oldest first (spec/03 R94). -/
  pauseQ : Sp (List (Nat × Nat))
  /-- by port: what it transmits in place of frames: 0 nothing, 1 local fault, 2 remote fault (spec/03 R102, R126). -/
  macSignal : Sp Nat
  /-- by group: RPF in the transmitted overhead (spec/03 R126). -/
  rpfTx : Sp Bool
  /-- by port * 4 + instance: overhead frames that failed their CRC (spec/03 R110). -/
  ohCrcBad : Sp Nat
  /-- by destination: the local-fault blocks that its next blocks follow, while its rate-adaptation queue refills (spec/03 R121). -/
  xcRefill : Sp Nat
  /-- by port: the FlexE group that holds it (spec/03 R102). -/
  flxHeld : Sp (Option Nat)
  /-- by port * 4 + instance: the FlexE receiver (spec/03 R107 to R110). -/
  instX : Sp InstX
  /-- by destination client: the groups of 29 blocks since an idle block was inserted or deleted, up to 345 (spec/03 R122). -/
  xcAdapt : Sp Nat
  /-- by local client that the cross-connect takes blocks from, 4096 on by switched client without a source: the time of its last 29 blocks in 10^-5 ns (0: none) and their number (spec/03 R21, R116). -/
  clientFeed : Sp (Nat × Nat)
  /-- by group: the calendar exchange (spec/03 R113). -/
  flxEx : Sp FlxEx
  /-- the armed XC switch (spec/03 R119). -/
  xcArm : Option XcArm
  /-- MONO of the swap whose copy is in progress (spec/03 R120). -/
  xcCopyAt : Option Nat
  /-- by port, or 64 + client: performance monitoring (spec/03 R128 to R130). -/
  pmX : Sp PmX
  deriving DecidableEq, Repr

/-- The part of the state that belongs to classification and forwarding tables. -/
structure LookPart where
  /-- by logical bank: MONO at which a load of its rows from the shadow began (spec/04 R160, R162). -/
  tcamLoad : Sp (Option Nat)
  /-- by 4096 * bank + row: the scrub pass in which the row last mismatched its shadow (spec/04 R159). -/
  tcamMiss : Sp (Option Nat)
  /-- by 4096 * bank + row: the bits, 160 of value and 160 of mask, in which a TCAM row differs from its shadow (spec/04 R157, R159). -/
  tcFlip : Sp Nat
  /-- the scrubber's row, counted over its passes (spec/04 R159). -/
  scrubRow : Nat
  /-- MONO of the last row read (spec/04 R159). -/
  scrubAt : Nat
  /-- by family code: the keys added to the length filter in use since it was built, whose bits it has set (spec/05 R189, R192). -/
  lpmKeys : Sp (List Nat)
  /-- by family code: the keys in the filter image that a rebuild is building (spec/05 R193). -/
  lpmBuild : Sp (List Nat)
  /-- by family code: deletions since the filter was last built (spec/05 R193). -/
  lpmDels : Sp Nat
  /-- by physical pipeline: the events of its learner, oldest first, 512 at most (spec/05 R210). -/
  learnQ : Sp (List LearnEvt)
  /-- the bucket the sweeper visits next (spec/05 R215). -/
  sweepPos : Nat
  /-- MONO of the sweeper's last visit (spec/05 R215). -/
  sweepAt : Nat
  /-- the notification FIFO: DATA0 to DATA3 (spec/05 R218). -/
  l2bNtf : List (Nat × Nat × Nat × Nat)
  deriving DecidableEq, Repr

/-- The part of the state that belongs to pipelines, samplers and egress. -/
structure PipePart where
  /-- by port: the link went down during the frame in reception (spec/06 R236). -/
  rxCut : Sp Bool
  /-- by number: the stored bytes of frames and packets (spec/06 R230, spec/07 R272). -/
  bodies : Sp Body
  /-- the next free number of a stored body (spec/06 R230). -/
  bodyNext : Nat
  /-- by port: the body of the frame that is arriving (spec/06 R230). -/
  rxNow : Sp (Option Nat)
  /-- by port: the receive FIFO, oldest first (spec/06 R230). -/
  rxFifo : Sp (List Pkt)
  /-- by port: the receive FIFO has its classes in XOFF (spec/06 R232). -/
  rxXoff : Sp Bool
  /-- by logical pipeline: the input queue of its ingress half, 256 at most (spec/06 R230). -/
  inQ : Sp (List Pkt)
  /-- by physical pipeline: the recirculation queue, 64 at most (spec/06 R243). -/
  recQ : Sp (List (Pkt × Look))
  /-- by physical pipeline: slots of the present 16 used, and those recirculated passes took (spec/06 R243). -/
  slotX : Sp (Nat × Nat)
  /-- by physical pipeline: packets that wait to cross to the TM die (spec/06 R235). -/
  upQ : Sp (List Pkt)
  /-- by physical pipeline: packets that wait for the egress half, 256 at most (spec/06 R233). -/
  egQ : Sp (List Pkt)
  /-- by port: the next transmit sequence the TM die gives (spec/06 R233). -/
  txGive : Sp Nat
  /-- by port: the transmit sequence its transmit stage releases next (spec/06 R233). -/
  txExp : Sp Nat
  /-- by port: packets from the egress halves, held for sequence order (spec/06 R233). -/
  txHold : Sp (List Pkt)
  /-- by port: packets released to the MAC (spec/06 R233, R239). -/
  macQ : Sp (List Pkt)
  /-- by port: the packet whose frame has begun and whose tail is still to come (spec/06 R238, R239). -/
  txNow : Sp (Option Pkt)
  /-- by bucket: the logical number that waits for the bucket to drain (spec/06 R226, R227). -/
  bucketPend : Sp (Option Nat)
  /-- MONO of the last rebalancing (spec/06 R227). -/
  rebalAt : Nat
  /-- by bucket: packets since the last rebalancing (spec/06 R227). -/
  bucketLoad : Sp Nat
  /-- by 64 * (17 * half + physical pipeline) + instance: packets since the last selection (spec/06 R246). -/
  smpSel : Sp Nat
  /-- by instance: its copy count (spec/06 R249). -/
  smpSeq : Sp Nat
  /-- by instance: the millisecond of device time of its last copies, and how many (spec/06 R249). -/
  smpMs : Sp (Nat × Nat)
  deriving DecidableEq, Repr

/-- The part of the state that belongs to buffers and queues of packets. -/
structure BufferPart where
  /-- by port: the traffic classes in XOFF (spec/07 R264, spec/03 R93). -/
  xoff : Sp Nat
  /-- by destination device * 2^19 + queue: unicast packets in ingress staging, oldest first (spec/07 R261, spec/09 R349). -/
  stg : Sp (List Pkt)
  /-- by 8 * port + TC (ports 48 to 50 switch-core inputs): staging bytes (spec/07 R260). -/
  stgUse : Sp Nat
  /-- staging free space holds lossless classes in XOFF (spec/07 R262). -/
  stgGlobal : Bool
  /-- by queue: its packets in three tiers (spec/07 R264). -/
  qx : Sp QX
  /-- by 8 * tier + pool: buffers in use (spec/07 R253). -/
  poolUse : Sp Nat
  /-- by 128 * tier + requester: buffer bytes charged (spec/07 R257). -/
  reqUse : Sp Nat
  /-- by requester: tier-1 bytes held by reservations (spec/07 R259). -/
  reqResv : Sp Nat
  /-- the allocation tag of the next buffer (spec/07 R272). -/
  tagNext : Nat
  /-- twins of shared buffers in tiers 2 and 3 (spec/07 R275, R276). -/
  twins : List Twin
  /-- the next number of a segment or twin (spec/07 R266). -/
  segNext : Nat
  /-- by number: tier-1 buffers in use (spec/07 R253, R272). -/
  bufs : Sp Buf
  /-- the next number of a tier-1 buffer (spec/07 R253). -/
  bufNext : Nat
  /-- by port: classes whose own staging use holds them in XOFF (spec/07 R262). -/
  stgXoff : Sp Nat
  /-- tier 2 takes spill (spec/07 R286, spec/10 R399). -/
  tier2On : Bool
  /-- MONO at which a rebuild of tier 2 began (spec/07 R286, spec/10 R414). -/
  tier2Rebuild : Option Nat
  /-- regions of the Granary that no pool holds: their self-refresh unit, the MONO since which, and how many (spec/07 R256; spec/10 R396). -/
  freeAges : List (Nat × Nat × Nat)
  /-- spill writes acknowledged by tier 2 in the last 1 ms: their MONO and bytes (spec/07 R251). -/
  hbmIn : List (Nat × Nat)
  /-- drain reads of tier 2 completed in the last 1 ms: their MONO and bytes (spec/07 R251). -/
  hbmOut : List (Nat × Nat)
  /-- spill writes acknowledged by the Granary in the last 1 ms: their MONO and bytes (spec/07 GRN_RATE). -/
  grnIn : List (Nat × Nat)
  /-- drain reads of the Granary completed in the last 1 ms: their MONO and bytes (spec/07 GRN_RATE). -/
  grnOut : List (Nat × Nat)
  /-- batches sent to the Granary in the last 1 ms: their MONO and bytes (spec/07 R283). -/
  grnDemand : List (Nat × Nat)
  /-- by 256 * input + reason: packets dropped in staging (spec/07 R261, R700). -/
  stgDrops : Sp Nat
  /-- head starvations (spec/07 R271). -/
  starves : Nat
  deriving DecidableEq, Repr

/-- The part of the state that belongs to scheduling, shaping, policing and gates. -/
structure SchedPart where
  /-- by policer: its buckets (spec/08 R313). -/
  polX : Sp PolX
  /-- by level * 2^20 + node: buckets, wheel slots and virtual times (spec/08 R304, R307, R311). -/
  shpX : Sp ShpX
  /-- MONO at which the buckets last restarted at 0 (spec/08 R312). -/
  shpBase : Nat
  /-- by level * 2^20 + node: mill-wheel pacing of the node (spec/08 R310, R312). -/
  mill : Sp MillX
  /-- the start-up cause, which paces every node (spec/08 R310, spec/15 R522). -/
  millAll : MillX
  /-- the queue being flushed and the MONO at which GO was accepted (spec/08 QM_FLUSH). -/
  flushing : Option (Nat × Nat)
  /-- refusals since the last selection, refusals not reported since the last report, SEQ, the millisecond of the last reports and how many (spec/08 R301). -/
  rptX : Nat × Nat × Nat × Nat × Nat
  /-- by network port: the gate controller (spec/08 R318, R325). -/
  gateX : Sp GateX
  deriving DecidableEq, Repr

/-- The part of the state that belongs to the fabric. -/
structure FabricPart where
  /-- by fabric link: timers, generation forgotten, reach bitmap (spec/09 R339, R342, R343). -/
  linkX : Sp LinkX
  /-- by device ID: the MONO at which it was last found unreachable (spec/09 R357). -/
  unreachAt : Sp Nat
  /-- MONO of the last cell that carried this device's own ID (spec/09 R362, spec/17 R578). -/
  dupIdAt : Option Nat
  /-- the multicast staging, oldest first (spec/09 R375). -/
  stgMc : List Pkt
  /-- by destination device * 65536 + REQ_SEQ: this device's open REQs (spec/09 R350). -/
  reqs : Sp (Option ReqOut)
  /-- by destination device: the next REQ_SEQ (spec/09 R350). -/
  reqNext : Sp Nat
  /-- by source device * 65536 + REQ_SEQ: records of received REQs (spec/09 R352). -/
  recs : Sp (Option GrantRec)
  /-- by source device: the EPOCH last seen (spec/09 R356). -/
  srcEpoch : Sp (Option Nat)
  /-- the cells that wait in the switch core (spec/09 R366). -/
  xbWait : List XbCell
  /-- the core's TM clock (spec/09 R368). -/
  xbT : Nat
  /-- the grant pointers of the outputs (spec/09 R367). -/
  xbGrant : List Nat
  /-- the accept pointers of the inputs (spec/09 R367). -/
  xbAccept : List Nat
  /-- by link: a frame of 64 cell times, and the bytes of privileged and SLOT cells sent in it (spec/09 R369). -/
  privUse : Sp (Nat × Nat)
  /-- by link: privileged and SLOT cells that wait for a share of a later frame (spec/09 R369, R371). -/
  privWait : Sp (List XbCell)
  /-- by transmit channel: the time at which its last cell was due, in 10^-5 ns (0: not sending) (spec/09 R372). -/
  slotTx : Sp Nat
  /-- by stream (device; 1024 + device privileged; 2048 multicast; 8192 + channel): the next CELL_SEQ (spec/09 R345). -/
  cellSeq : Sp Nat
  /-- by stream: the link after the last one used (spec/09 R344). -/
  sprayAt : Sp Nat
  /-- by stream: packets whose cells are being sent, with the bytes sent and the REQ_SEQ (spec/09 R348). -/
  cellOpen : Sp (List (Pkt × Nat × Nat))
  /-- by source device * 8192 + stream (0 unicast, 1 privileged, 2 multicast, 4096 + channel): the receive stream (spec/09 R345, R346). -/
  rxStr : Sp RxStream
  /-- by member device: window bytes outstanding (spec/09 R375). -/
  mcOut : Sp Nat
  /-- by source device: landed amounts whose re-reservation is still to pass, oldest first (spec/09 R376). -/
  mcOwed : Sp (List Nat)
  /-- by receive channel: SLOT payloads in the jitter buffer with their arrival MONO (spec/09 R373). -/
  slotBuf : Sp (List (Nat × List Nat))
  /-- by receive channel: MONO at which its play-out began, payloads played since, blocks starved in a row (spec/09 R373). -/
  slotPlay : Sp (Option Nat × Nat × Nat)
  /-- clocks of the switch core in the last 1 ms: their MONO and the cells moved (spec/09 XBAR_STAT). -/
  xbMoved : List (Nat × Nat)
  /-- the same of privileged and SLOT cells (spec/09 XBAR_STAT). -/
  xbPrivMoved : List (Nat × Nat)
  /-- by receive channel: SLOT cells of another device (spec/09 R373). -/
  chanErrs : Sp Nat
  /-- for how many source devices, from 0 on, the standing multicast reservation has been made (spec/09 R376). -/
  mcMade : Nat
  /-- by fabric link: normal cells that wait in its transmit queue (spec/09 R341). -/
  normWait : Sp (List XbCell)
  /-- by fabric link: its running frame and the bytes of normal cells sent in it (spec/09 R369). -/
  normUse : Sp (Nat × Nat)
  deriving DecidableEq, Repr

/-- The part of the state that belongs to memory controllers. -/
structure MemPart where
  /-- by memory target (stacks 0 to 3, channels 4 to 19): what its controller keeps (spec/10 R382 to R414). -/
  memX : Sp MemX
  /-- by 65536 * memory target + bank: the activate counts (spec/10 R405, R407). -/
  actTab : Sp ActTab
  /-- by 65536 * target + 256 * (pseudo-channel or rank) + bank: the row that stays open (spec/10 R397). -/
  openRow : Sp (Option OpenRow)
  /-- the self-refresh units of the Granary that are masked (spec/10 R403, R404). -/
  sruMask : List Nat
  /-- accesses that wait for the next window of activates: tier, class and the value that names the address (spec/10 R407). -/
  actWait : List (Nat × Nat × Nat)
  /-- MONO at which the activate tables were last cleared (spec/10 R405). -/
  actAt : Nat
  deriving DecidableEq, Repr

/-- The part of the state that belongs to the time base. -/
structure TimePart where
  /-- MONO in units of 2^-16 ns (spec/11 R417). -/
  mono16 : Nat
  /-- device time since the epoch in units of 2^-16 ns (spec/11 R415). -/
  time16 : Nat
  /-- the part of the advance below 2^-16 ns, in 1 part in 256 * 10^9 of that unit (spec/11 R420). -/
  rateRem : Nat
  /-- the part of the slew below 2^-16 ns, in 10^-4 of that unit (spec/11 R422). -/
  slewRem : Nat
  /-- what is left of the slew, in 2^-16 ns (spec/11 R422). -/
  slewLeft : Int
  /-- a step waiting for the next whole second: mode, seconds, nanoseconds and the second at which it falls (spec/11 R421). -/
  stepPend : Option (Nat × Nat × Nat × Nat)
  /-- MONO of the last step of device time (spec/11 R433). -/
  stepAt : Option Nat
  /-- consecutive measurements within 100 ns (spec/11 R423). -/
  lockCount : Nat
  /-- consecutive PPS_IN edges missing (spec/11 R423, R425). -/
  ppsMissed : Nat
  /-- MONO of the last PPS_IN edge (spec/11 R425). -/
  ppsLast : Option Nat
  /-- MONO of the PPS_IN edge that the next expected one is counted from (spec/11 R425). -/
  ppsGood : Option Nat
  /-- the second that begins one second after the edge of ppsGood, from the last accepted TOD_RX line (spec/11 R427). -/
  todSec : Option Nat
  /-- the whole second of the last PPS_OUT edge (spec/11 R426). -/
  ppsOutSec : Nat
  /-- the whole second whose TOD_TX line has been sent (spec/11 R427). -/
  todTxSec : Nat
  /-- PPS_OUT is high (spec/11 R426). -/
  ppsHigh : Bool
  /-- MONO of the last PPS_OUT edge (spec/11 R427). -/
  ppsOutMono : Nat
  /-- the frequency adjustments in force while LOCKED, newest first, with their MONO (spec/11 R424). -/
  freqLog : List (Nat × Int)
  /-- the frequency held in HOLDOVER, 1/256 ppb (spec/11 R424). -/
  holdFreq : Option Int
  /-- the PTP_TSF FIFO: port, message type, domain, sequence id, seconds, nanoseconds (spec/11 R432). -/
  tsf : List (Nat × Nat × Nat × Nat × Nat × Nat)
  /-- what the last step added to device time, in 2^-16 ns (spec/11 R433). -/
  stepDelta : Int
  /-- by port * 16 + message type: the sequence number of the next message the service cores send (spec/11 R431). -/
  ptpSeq : Sp Nat
  deriving DecidableEq, Repr

/-- The part of the state that belongs to services. -/
structure ServicePart where
  /-- by session: the engine's timers and what the remote end sent (spec/12 R445 to R447). -/
  bfdX : Sp BfdX
  /-- by MEP: its timers (spec/12 R448, R449). -/
  mepX : Sp MepX
  /-- by flow: its store (spec/12 R450 to R453). -/
  flowX : Sp FlowX
  /-- by merge group: its map and legs (spec/12 R455, R456). -/
  mergeX : Sp MergeX
  /-- by recorder: its records (spec/12 R457 to R459). -/
  recX : Sp RecX
  /-- packets that the service unit has taken for the session engine, oldest first (spec/12 R437, R438). -/
  svcRx : List Pkt
  /-- leg packets in staging that wait to be judged, with their group and leg (spec/12 R454). -/
  mergeQ : List (Pkt × Nat × Nat)
  /-- by logical service core: packets that port 49 has released and a core has not finished with (spec/12 R439). -/
  svcQ : Sp (List Pkt)
  /-- notifications: DATA0, DATA1 and NS64 (spec/12 R446, SVC_NTF_DATA). -/
  svcNtf : List (Nat × Nat × Nat)
  deriving DecidableEq, Repr

/-- The part of the state that belongs to the host interface and virtual instances. -/
structure HostPart where
  /-- by function (0 PF0, n VF n): the writable configuration bits (spec/13 R461, R463, R482). -/
  pcieFn : Sp PcieFn
  /-- by function * 2048 + vector: the MSI-X table entry and its pending bit (spec/13 R482, spec/14 R508). -/
  msix : Sp MsixVec
  /-- the emulated INTA line, as the Interrupt Status bit (spec/13 R483). -/
  inta : Bool
  /-- MONO of the last vector-0 message while the block summary stays nonzero (spec/13 R482). -/
  irqSince : Option Nat
  /-- by queue pair: doorbells, arming and coalescing (spec/13 R468, R479). -/
  qpx : Sp QpX
  /-- PERST_N asserted (spec/13 R488). -/
  perstLow : Bool
  /-- by queue pair: records that wait for the DMA engine, oldest first (spec/13 R475). -/
  hostQ : Sp (List HostRec)
  /-- by instance: its meter and the progress of a quiesce or reset (spec/14 R504, R507, R509). -/
  vinst : Sp VInst
  /-- the queue pair whose TX work was fetched last (spec/13 R473). -/
  txRot : Nat
  /-- staging bytes reserved for host packets being read (spec/13 R471). -/
  stgResv : Nat
  /-- MONO of the last LOOKUP injection (spec/13 R472). -/
  lookAt : Option Nat
  /-- MONO at which the endpoint last had work (spec/13 R484). -/
  l1At : Nat
  /-- the endpoint's own buffers hold an uncorrectable error (spec/13 R488, R489). -/
  bufBad : Bool
  deriving DecidableEq, Repr

/-- The part of the state that belongs to start-up. -/
structure StartPart where
  /-- the MONO of each main-core watchdog expiry, newest first (spec/15 R540, spec/17 R578). -/
  wdogTimes : List Nat
  /-- by port: the cage (spec/15 R530 to R535). -/
  cageX : Sp CageX
  /-- RESET_N low (spec/15 R516, R517). -/
  resetLow : Bool
  /-- the level of SLOT_ID (spec/15 R518). -/
  slotPins : Nat
  /-- the start in progress follows a main power-on reset and latches SLOT_ID (spec/15 R518). -/
  latchDue : Bool
  /-- REFCLK present (spec/15 R521, spec/21 R676). -/
  refclk : Bool
  /-- MONO of the t0 of the cold start in progress (spec/15 R520). -/
  coldT0 : Option Nat
  /-- MONO at which the boot ROM last started the main core (spec/15 R524). -/
  bootAt : Option Nat
  /-- a rail failure has stopped the start at POWER (spec/15 R513). -/
  stopped : Bool
  deriving DecidableEq, Repr

/-- The part of the state that belongs to self-repair. -/
structure RepairPart where
  /-- by lookup-SRAM word address: poisoned (spec/16 R559). -/
  poisoned : Sp Bool
  /-- the peg map copy in use in the store and its SEQ (spec/16 R547, R548). -/
  pegStore : List Peg × Nat
  /-- units declared and not yet fenced, oldest first: class, physical unit and the crier kind of the cause (spec/16 R556, R557). -/
  declared : List (Nat × Nat × Nat)
  /-- repair events: DATA0, DATA1 and NS64 (spec/16 R552, RPR_EVT_DATA). -/
  rprEvt : List (Nat × Nat × Nat)
  /-- by 128 * class + logical number: the current generation (spec/16 R561). -/
  gens : Sp Nat
  /-- by 128 * class + logical number: one more than the state epoch in which its last generation was assigned (spec/16 R566). -/
  genEpoch : Sp Nat
  /-- by 128 * class + physical unit: the test history of a unit (spec/16 R549, R565, R567). -/
  unitX : Sp UnitX
  /-- by class: the recovery in progress and those waiting (spec/16 R569). -/
  recov : Sp (List Recov)
  /-- by class: the unit rotated last (spec/16 R550). -/
  rotLast : List (Nat × Nat)
  /-- MONO of the last rotation (spec/16 R550). -/
  rotAt : Nat
  /-- by class: MONO of its last rotation (spec/16 R550). -/
  rotClassAt : List (Nat × Nat)
  /-- by UCIe module: MONO of the retries of the last millisecond (spec/16 R556). -/
  modRetry : Sp (List Nat)
  /-- by 128 * class + logical number: the image of the unit that holds it (spec/16 R553, R554). -/
  scarf : Sp Scarf
  /-- the peg map, oldest record first (spec/16 R547). -/
  pegs : List Peg
  /-- MONO of the first change of the peg map that no write holds (spec/16 R548). -/
  pegDue : Option Nat
  deriving DecidableEq, Repr

/-- The part of the state that belongs to faults. -/
structure FaultPart where
  /-- by page: the queue of messages towards the collector, 16 at most (spec/17 R576). -/
  cryQueue : Sp (List CryMsg)
  /-- by page * 1024 + kind: a Contained or Degraded message held in its pending flag (spec/17 R576). -/
  cryPend : Sp (Option CryMsg)
  /-- the collector's log, oldest first, with NS64 times (spec/17 R581). -/
  cryLog : List (CryMsg × Nat)
  /-- qualifying messages of the open first-fault window with their extended times (spec/17 R583). -/
  firstWin : List (CryMsg × Nat)
  /-- MONO at which the first-fault window closes (spec/17 R583). -/
  firstEnd : Option Nat
  /-- the Fatal latch of the always-on domain (spec/17 R586). -/
  fatalLatch : Bool
  /-- Fatal messages on their way to CRY_FATAL, each with the MONO of its detection (spec/17 R584, R586). -/
  fatalQ : List (CryMsg × Nat)
  /-- by OPEN index: the source page of the entry (spec/17 R588). -/
  openPage : Sp Nat
  /-- the master that last wrote GRN_CFG.EN from 0 to 1 (spec/17 R591). -/
  grnBy : Nat
  deriving DecidableEq, Repr

/-- The part of the state that belongs to counters and traces. -/
structure CountPart where
  /-- 64-bit counters by family * 2^24 + index (spec/18 R593, R595). -/
  counters : Sp Nat
  /-- values saved at the first increment after the snapshot instant, by the same key (spec/18 R600). -/
  snapSaved : Sp (Option Nat)
  /-- the snapshot being dumped (spec/18 R599, R600). -/
  snap : Option Snap
  /-- the multiple of the dump period whose snapshot has begun (spec/18 R602). -/
  snapAt : Option Nat
  /-- dumps written since main power-on reset (spec/18 R606). -/
  dumpCount : Nat
  /-- counters restarted since the previous dump (spec/18 R606). -/
  dumpMemErrs : Nat
  /-- the on-chip trace buffer, oldest first, from slot TRC_BUF_STAT.HEAD (spec/18 R612). -/
  traceBuf : List TraceRec
  /-- PHASE of the trace ring's present pass (spec/18 R613). -/
  trcPhase : Bool
  /-- the millisecond of device time in which records were last made, and how many (spec/18 R610). -/
  trcMs : Nat × Nat
  /-- packets seen since the last SAMPLE selection (spec/18 R609). -/
  trcCount : Nat
  deriving DecidableEq, Repr

/-- The part of the state that belongs to images and the nonvolatile store. -/
structure StorePart where
  /-- the valid CONTROL record of the store (spec/19 R614, R628). -/
  ctl : Control
  /-- image bytes by slot * 32768 + unit of 4 KiB; empty: not received (spec/19 R614, R629). -/
  imgUnit : Sp (List Byte)
  /-- the configuration snapshots of slots 0 and 1 (spec/19 R614, R638). -/
  snapSlot : Sp (Option SnapRec)
  /-- records waiting to be written to the store, oldest first (spec/19 R616, R618). -/
  storeQ : List StoreRec
  /-- the oldest record's write is in progress (spec/19 R616). -/
  storeBusy : Bool
  /-- erases of a block of the store: by area, 0 and 1 of CONTROL, 2 and 3 of PEG, 4 and 5 the image slots, 6 and 7 the snapshots, from 16 the blocks of JOURNAL (spec/19 R614 to R616). -/
  erases : Sp Nat
  /-- by region, 0 CONTROL and 1 PEG: the area that holds the copy in use (spec/19 R614, R617). -/
  copyArea : Sp Nat
  /-- the slot that the last BEGIN in RECOVERY named (spec/19 R637). -/
  updSlot : Option Nat
  /-- the UPD command in progress (spec/19 R637). -/
  updOp : Option UpdOp
  /-- MONO at which the trial reverts without CONFIRM (spec/19 R633). -/
  confirmEnd : Option Nat
  /-- the rolling service update: the next logical core and the slot it loads from (spec/19 R636). -/
  roll : Option (Nat × Nat)
  /-- by physical service core: the tag of the SERVICE section it runs (spec/19 R636). -/
  coreTag : Sp Nat
  deriving DecidableEq, Repr

/-- The part of the state that belongs to presence, backup domain and the parish register. -/
structure PresencePart where
  /-- the next SEQ; 0 until the START record (spec/20 R657, R658). -/
  jnlSeq : Nat
  /-- records that arrived before START and wait for a SEQ (spec/20 R694). -/
  jnlPre : List JRec
  /-- on-chip slots by SEQ mod 65536 (spec/20 R659, table RECENT). -/
  jnlRecent : Sp (Option JRec)
  /-- records in SEQ order that await persistence (spec/20 R662). -/
  jnlPersist : List JRec
  /-- the backlog in SEQ order (spec/20 R663). -/
  jnlBacklog : List JRec
  /-- the lowest SEQ not yet delivered to the host ring (spec/20 R664). -/
  jnlNext : Nat
  /-- PHASE of the host ring's present pass (spec/20 R664). -/
  jnlPhase : Bool
  /-- the persisted ring by 256 * unit + position (spec/20 R665, table PERSISTED). -/
  jnlUnits : Sp (Option JRec)
  /-- the next unit to write (spec/20 R665). -/
  jnlUnit : Nat
  /-- the records of the unit being written (spec/20 R665). -/
  jnlWriting : List JRec
  /-- writers held for room, oldest first (spec/20 R52, R660). -/
  jnlHeld : List Held
  /-- the RTC in ns: 48-bit seconds and the part of the second, of which the 15-bit ticks are the top (spec/20 R647). -/
  rtcNs : Nat
  /-- MONO at which the open presence window closes (spec/20 R639). -/
  winEnd : Option Nat
  /-- consecutive failed seal tests (spec/20 R644). -/
  sealFails : Nat
  /-- consecutive passed seal tests (spec/20 R644). -/
  sealPasses : Nat
  /-- the seconds that RTC_SET loads at the next RTC second, and the RTC second in which it was armed (spec/20 R641). -/
  rtcArmed : Option (Nat × Nat)
  /-- the TAI second of the last load of the RTC from device time (spec/20 R647). -/
  rtcLoadedSec : Nat
  /-- backup-log entries copied to records and not yet cleared: index, and the record's VALUE and AUX (spec/20 R649). -/
  bkpCopied : List (Nat × Nat)
  /-- the events that overwrote entry 15 of the backup log (spec/20 R648, R655). -/
  bkpOver : Nat
  deriving DecidableEq, Repr

/-- The part of the state that belongs to power and temperature. -/
structure PowerPart where
  /-- the junction sensors as last read (spec/21 R680). -/
  temps : List Int
  /-- the sensors that read 100 degrees or more, each with the MONO since which it has (spec/21 R682). -/
  hotAt : List (Nat × Nat)
  /-- MONO since which every sensor has read 97 degrees or less (spec/21 R682). -/
  coolAt : Option Nat
  /-- the sensors that read 115 degrees or more, each with the MONO since which it has (spec/21 R683). -/
  shutAt : List (Nat × Nat)
  /-- THERM_ALERT_N asserted (spec/21 R681). -/
  alert : Bool
  deriving DecidableEq, Repr

/-- The state of the device, in parts by chapter.  A field of type Sp holds pairs of a key and a value; what an unlisted key reads as is the default
named beside it (Machine/Act.lean). -/
structure State extends ModelPart, DiePart, PagePart, PortPart, LookPart, PipePart, BufferPart, SchedPart, FabricPart, MemPart, TimePart, ServicePart, HostPart, StartPart, RepairPart, FaultPart, CountPart, StorePart, PresencePart, PowerPart where
  /-- The commands that wait, first in, first out (the model's own queue, not the spec's). -/
  pending : List Instr
  deriving DecidableEq, Repr

/-- The device at reset: nothing powered, no command waiting, every store at its defaults. -/
def State.reset : State where
  pending := []
  regs := []
  units := []
  before := []
  frozen := []
  hiLatch := []
  loHeld := []
  blkUp := []
  tblWin := []
  tblOp := []
  commitLate := []
  tables := []
  counters := []
  snapSaved := []
  cryQueue := []
  cryPend := []
  cryLog := []
  firstWin := []
  firstEnd := none
  fatalLatch := false
  fatalQ := []
  mono16 := 0
  time16 := 0
  rateRem := 0
  slewRem := 0
  slewLeft := 0
  stepPend := none
  stepAt := none
  lockCount := 0
  ppsMissed := 0
  ppsLast := none
  ppsGood := none
  todSec := none
  ppsOutSec := 0
  todTxSec := 0
  ppsHigh := false
  ppsOutMono := 0
  freqLog := []
  holdFreq := none
  tsf := []
  jnlSeq := 0
  jnlPre := []
  jnlRecent := []
  jnlPersist := []
  jnlBacklog := []
  jnlNext := 0
  jnlPhase := true
  jnlUnits := []
  jnlUnit := 0
  jnlWriting := []
  jnlHeld := []
  emitted := []
  fresh := 0
  snap := none
  snapAt := none
  dumpCount := 0
  dumpMemErrs := 0
  pcieFn := []
  msix := []
  inta := false
  irqSince := none
  qpx := []
  perstLow := true
  linkX := []
  unreachAt := []
  openPage := []
  wdogTimes := []
  poisoned := []
  dupIdAt := none
  rtcNs := 0
  winEnd := none
  sealFails := 0
  sealPasses := 0
  rtcArmed := none
  rtcLoadedSec := 0
  bkpCopied := []
  bkpOver := 0
  supVin12 := false
  supVsb33 := false
  traceBuf := []
  trcPhase := true
  trcMs := (0, 0)
  trcCount := 0
  ctl := {}
  imgUnit := []
  snapSlot := []
  storeQ := []
  storeBusy := false
  erases := []
  copyArea := []
  updSlot := none
  pegStore := ([], 0)
  updOp := none
  confirmEnd := none
  roll := none
  coreTag := []
  cageX := []
  pauseUntil := []
  xoff := []
  pauseSentAt := []
  pauseQ := []
  rxCut := []
  macSignal := []
  rpfTx := []
  ohCrcBad := []
  xcRefill := []
  flxHeld := []
  instX := []
  xcAdapt := []
  clientFeed := []
  flxEx := []
  xcArm := none
  xcCopyAt := none
  pmX := []
  declared := []
  rprEvt := []
  gens := []
  genEpoch := []
  unitX := []
  recov := []
  rotLast := []
  rotAt := 0
  rotClassAt := []
  tcamLoad := []
  tcamMiss := []
  tcFlip := []
  scrubRow := 0
  scrubAt := 0
  lpmKeys := []
  lpmBuild := []
  lpmDels := []
  learnQ := []
  sweepPos := 0
  sweepAt := 0
  l2bNtf := []
  polX := []
  bodies := []
  bodyNext := 0
  rxNow := []
  rxFifo := []
  rxXoff := []
  inQ := []
  recQ := []
  slotX := []
  upQ := []
  egQ := []
  txGive := []
  txExp := []
  txHold := []
  macQ := []
  txNow := []
  bucketPend := []
  rebalAt := 0
  bucketLoad := []
  smpSel := []
  smpSeq := []
  smpMs := []
  stg := []
  stgMc := []
  stgUse := []
  stgGlobal := false
  qx := []
  shpX := []
  shpBase := 0
  mill := []
  millAll := {}
  poolUse := []
  reqUse := []
  reqResv := []
  tagNext := 0
  twins := []
  segNext := 0
  flushing := none
  rptX := (0, 0, 0, 0, 0)
  reqs := []
  reqNext := []
  recs := []
  srcEpoch := []
  xbWait := []
  xbT := 0
  xbGrant := List.replicate 13 0
  xbAccept := List.replicate 52 0
  privUse := []
  privWait := []
  slotTx := []
  cellSeq := []
  sprayAt := []
  cellOpen := []
  rxStr := []
  mcOut := []
  mcOwed := []
  slotBuf := []
  gateX := []
  stepDelta := 0
  slotPlay := []
  hostQ := []
  bufs := []
  bufNext := 1
  stgXoff := []
  memX := []
  actTab := []
  openRow := []
  tier2On := false
  tier2Rebuild := none
  bfdX := []
  mepX := []
  flowX := []
  mergeX := []
  recX := []
  svcRx := []
  mergeQ := []
  svcQ := []
  svcNtf := []
  vinst := []
  txRot := 4095
  stgResv := 0
  lookAt := none
  l1At := 0
  bufBad := false
  dieRx := []
  dieTx := []
  dieQ := []
  tmMem := []
  dieRead := []
  dieLost := []
  modRetry := []
  modRetries := []
  dieDownAt := none
  temps := []
  hotAt := []
  coolAt := none
  shutAt := []
  alert := false
  resetLow := true
  slotPins := 0
  latchDue := true
  refclk := false
  coldT0 := none
  bootAt := none
  scarf := []
  ptpSeq := []
  pegs := []
  pegDue := none
  freeAges := []
  sruMask := []
  actWait := []
  hbmIn := []
  hbmOut := []
  grnIn := []
  grnOut := []
  xbMoved := []
  xbPrivMoved := []
  grnDemand := []
  actAt := 0
  grnBy := 0
  startVal := []
  dirty := []
  stopped := false
  stgDrops := []
  starves := 0
  chanErrs := []
  mcMade := 0
  normWait := []
  normUse := []

end Sys2Proof.Machine
end

