-- ==== Sys2Proof/WellFormed.lean ====
section
/-!
DEFINITION. The well-formed commands: those whose operands name units the device has.
-/
namespace Sys2Proof

/-- The master codes that can make an access (R63): a host instance, the main core, a service core, the hardware learner, the
sweeper, JTAG, the presence controller and the repair controller. -/
def masterOk (m : Nat) : Bool :=
  let k := m / 4096
  let b := m % 4096
  if k == 0 || k == 1 then m < 8192
  else if k == 2 then b == 0
  else if k == 3 then b < 9
  else if k == 4 then b < 17
  else k < 9 && b == 0

/-- Whether a command's operands name units of the device. -/
def Instr.wellFormed : Instr → Bool
  | .regWrite m page off _ _ => masterOk m && (page < 1024) && (off < 65536 && off % 4 == 0)
  | .loReadLatch m page off => masterOk m && (page < 18432) && (off.1 < 65536 && off.1 % 4 == 0)
  | .hiWrite m page off be _ => masterOk m && (page < 1024) && (off < 65536 && off % 4 == 0) && (be < 16)
  | .pageTimeout m page off => masterOk m && (page < 1024) && (off < 65536 && off % 4 == 0)
  | .blkEnable m page _ => masterOk m && (page < 1024)
  | .blkDisable m page _ => masterOk m && (page < 1024)
  | .blockDrained page => page < 1024
  | .softReset m page _ => masterOk m && (page < 1024)
  | .softResetDone page => page < 1024
  | .freeze m page _ => masterOk m && (page < 1024)
  | .blkIntClear m page _ _ => masterOk m && (page < 1024)
  | .blkIntForce m page _ => masterOk m && (page < 1024)
  | .errcapClear m page _ => masterOk m && (page < 1024)
  | .commit m page _ => masterOk m && (page < 1024)
  | .commitTaken page => page < 1024
  | .tblNop m page _ _ => masterOk m && (page < 1024)
  | .tblRead m page _ _ => masterOk m && (page < 1024)
  | .tblWrite m page _ _ => masterOk m && (page < 1024)
  | .tblInsert m page _ _ => masterOk m && (page < 1024)
  | .tblDelete m page _ _ => masterOk m && (page < 1024)
  | .tblSearch m page _ _ => masterOk m && (page < 1024)
  | .tblNext m page _ _ => masterOk m && (page < 1024)
  | .tblOpDone page => page < 1024
  | .tblLockAcquire m page => masterOk m && (page < 1024)
  | .tblLockRelease m page => masterOk m && (page < 1024)
  | .tblLockForceRelease m page => masterOk m && (page < 1024)
  | .tblFence m page => masterOk m && (page < 1024)
  | .flitReceive die module _ _ => (die < 2) && (module < 28)
  | .crossDieRequest src read page off data => (src < 18) && (read.1.all (fun k => decide (k ≤ 64))) && (page < 1024) && (off < 65536 && off % 4 == 0) && (data.2.length ≤ 64)
  | .crossDieExecute src => src < 18
  | .crossDieResponse src => src < 18
  | .autonegDone port _ => port < 48
  | .linkTrainingDone port => port < 48
  | .linkTrainingTimeout port => port < 48
  | .frameReceive port head => (port < 48) && (head.length > 0)
  | .frameTail port _ _ => port < 48
  | .pfcFrameReceive port frame => (port < 48) && (frame.length > 0)
  | .pfcPauseExpire port tc => (port < 48) && (tc < 8)
  | .pfcRefresh port => port < 48
  | .moduleInsert port => port < 48
  | .moduleResetRelease port => port < 48
  | .modulePoll port _ _ ident rev pwrClass _ _ _ => (port < 48) && (ident < 256) && (rev < 256) && (0 < pwrClass && pwrClass < 9)
  | .moduleReady port _ => port < 48
  | .moduleDatapathActivated port => port < 48
  | .moduleStepTimeout port => port < 48
  | .moduleRemove port => port < 48
  | .cagePwrMaxRaise m port _ => masterOk m && (port < 48)
  | .moduleAccess m port _ => masterOk m && (port < 48)
  | .moduleAccessDone port _ data => (port < 48) && (data < 256)
  | .overheadBlockReceive port inst _ _ _ _ _ _ _ _ _ phyNum _ _ => (port < 48) && (inst < 4) && (phyNum < 256)
  | .calendarSwitch m group => masterOk m && (group < 24)
  | .calendarExchangeStep group _ => group < 24
  | .calendarCaTimeout group => group < 24
  | .xcSwitch m _ => masterOk m
  | .defectEntry scope _ defect => (scope < 5) && (0 < defect && defect < 13)
  | .defectExit scope _ defect => (scope < 5) && (0 < defect && defect < 13)
  | .pmSecond _ _ _ units => units.2.length ≤ 10
  | .rxFifoDequeue port => port < 48
  | .ingressPass pipe flips _ => (pipe < 17) && (flips.all (fun x => decide (x.1 < 131072) && decide (x.2 < 320)))
  | .recircPass pipe flips => (pipe < 17) && (flips.all (fun x => decide (x.1 < 131072) && decide (x.2 < 320)))
  | .egressPass pipe flips => (pipe < 17) && (flips.all (fun x => decide (x.1 < 131072) && decide (x.2 < 320)))
  | .frameTransmit port _ => port < 48
  | .txSeqRelease port => port < 48
  | .txGapTimeout port => port < 48
  | .bucketWrite m bucket _ => masterOk m && (bucket < 256)
  | .bucketMove bucket => bucket < 256
  | .seedWrite m page off _ => masterOk m && (page < 1024) && (off < 65536 && off % 4 == 0)
  | .lpmMemUseWrite m off _ => masterOk m && (off < 65536 && off % 4 == 0)
  | .lpmRebuildStart _ => true
  | .lpmRebuildDone _ => true
  | .stashReinsert family index => (0 < family && family < 5) && (index < 2048)
  | .learnerApply pipe => pipe < 17
  | .l2bNtfPop m => masterOk m
  | .tcamScrubRow flips uncorr => (flips.all (fun x => decide (x.1 < 131072) && decide (x.2 < 320))) && (uncorr < 4294967296)
  | .tcamBankLoadDone bank => bank < 32
  | .stagingAdmit src => src < 33
  | .reqSend dev queue => (dev < 1024) && (queue < 524288)
  | .reqReceive link src msg => (link < 144) && (src < 1024) && (msg.length == 4)
  | .ansReceive link src msg => (link < 144) && (src < 1024) && (msg.length == 4)
  | .holdClear src seq => (src < 1024) && (seq < 65536)
  | .reqResend dev seq => (dev < 1024) && (seq < 65536)
  | .grantExpire src seq => (src < 1024) && (seq < 65536)
  | .releaseReceive link src msg => (link < 144) && (src < 1024) && (msg.length == 4)
  | .mcAckReceive link src msg => (link < 144) && (src < 1024) && (msg.length == 4)
  | .unreachTimeout dev => dev < 1024
  | .cellReceive link cell _ => (link < 144) && (64 ≤ cell.length && cell.length ≤ 256 && cell.length % 16 == 0)
  | .cellReorderTimeout src stream => (src < 1024) && (stream < 8192)
  | .linkCellReceive link cell _ => (link < 144) && (64 ≤ cell.length && cell.length ≤ 256 && cell.length % 16 == 0)
  | .reachTimeout link => link < 144
  | .fabricLinkRestart m link => masterOk m && (link < 144)
  | .fabricLinkTrained link _ => link < 144
  | .fabricLinkAlignEnd link _ => link < 144
  | .fabricLinkTestEnd link _ => link < 144
  | .fabricLinkHoldoffEnd link => link < 144
  | .fabricLinkDown link cause _ => (link < 144) && (0 < cause && cause < 11 && cause != 7)
  | .fabricLinkDownEnd link => link < 144
  | .mcSend grp => grp < 65536
  | .slotPlayout chan => chan < 1024
  | .spillBatch queue _ => queue < 524288
  | .spillWriteAck queue => queue < 524288
  | .segmentReadDone queue _ _ _ _ _ _ _ => queue < 524288
  | .regionIdleOffer _ => true
  | .bufAgeSweep _ => true
  | .queueFlush m _ => masterOk m
  | .schedSelect port => port < 51
  | .gateEntryChange port => port < 48
  | .gateListChange port => port < 48
  | .spdRead ch _ _ => ch < 16
  | .spdCmd m ch _ => masterOk m && (ch < 16)
  | .spdCmdDone ch _ data => (ch < 16) && (data < 256)
  | .moduleTempPoll ch _ _ => ch < 16
  | .memTrainingDone target _ _ => target < 20
  | .controlAreaFilled _ => true
  | .retrainPause target _ _ => target < 20
  | .retrainRepeat target _ => target < 20
  | .memScrub target _ _ => target < 20
  | .memOutOfService target => target < 20
  | .granaryReenable m _ => masterOk m
  | .timeSourceMeasure _ _ => true
  | .ppsInEdge _ => true
  | .todRxLine _ => true
  | .tsfPop m => masterOk m
  | .bfdTx sess => sess < 16384
  | .bfdDetectExpire sess => sess < 16384
  | .ccmTx mep => mep < 8192
  | .cfmDefectExpire mep => mep < 8192
  | .serviceCorePacket core => core < 9
  | .rtxCopyExpire flow => flow < 16384
  | .mergeLegTimeout grp leg => (grp < 8192) && (leg < 2)
  | .recReadout m rec _ => masterOk m && (rec < 16)
  | .recReplay m rec _ => masterOk m && (rec < 16)
  | .recDone rec => rec < 16
  | .svcNtfPop m => masterOk m
  | .dbTxTail fn _ pasid page _ => (fn < 64) && (pasid < 1048576) && (page < 4096)
  | .dbRxTail fn _ pasid page _ => (fn < 64) && (pasid < 1048576) && (page < 4096)
  | .dbCqHead fn _ pasid page _ => (fn < 64) && (pasid < 1048576) && (page < 4096)
  | .dbArm fn _ pasid page _ => (fn < 64) && (pasid < 1048576) && (page < 4096)
  | .qpcWrite fn _ pasid page _ _ => (fn < 64) && (pasid < 1048576) && (page < 4096)
  | .txDescFetch desc => desc.length == 8
  | .txReadDone qp status _ => (qp < 4096) && (status < 5)
  | .txRateWait qp => qp < 4096
  | .recordWrite qp desc => (qp < 4096) && (desc.length == 4)
  | .coalTimeout qp => qp < 4096
  | .dmaReadTimeout qp _ => qp < 4096
  | .lateCompletion qp => qp < 4096
  | .qpDrained qp => qp < 4096
  | .containmentEnter cause => (0 < cause && cause < 7)
  | .containRelease m _ => masterOk m
  | .bar4Write m _ _ => masterOk m
  | .virtNop m _ => masterOk m
  | .virtCreate m _ => masterOk m
  | .virtQuiesce m _ => masterOk m
  | .virtQuiesced inst => inst < 4096
  | .quiesceReadTimeout inst => inst < 4096
  | .virtResume m _ => masterOk m
  | .virtReset m _ => masterOk m
  | .virtRemove m _ => masterOk m
  | .vfFlr vf => (0 < vf && vf < 64)
  | .vfEnableChange _ _ => true
  | .coldStart slot => slot < 1024
  | .stageAdvance _ _ => true
  | .powerFailWarning _ => true
  | .resetNAssert _ => true
  | .mainRestart m _ => masterOk m
  | .selfTestPassEnd cls unit _ => (cls < 6) && (unit < 128)
  | .epochBoundary cls unit _ => (cls < 6) && (unit < 128)
  | .unitErrorReport cls unit fault => (cls < 6) && (unit < 128) && (fault.2 < 524288)
  | .faultTakeover cls => cls < 6
  | .takeoverLoadDone cls => cls < 6
  | .quarantineEnd cls unit _ => (cls < 6) && (unit < 128)
  | .plannedHandover cls unit => (cls < 6) && (unit < 128)
  | .lkupCopyDone _ => true
  | .revertHoldEnd cls unit => (cls < 6) && (unit < 128)
  | .rprNop m _ => masterOk m
  | .rprHandover m _ => masterOk m
  | .rprTest m _ => masterOk m
  | .rprRetire m _ => masterOk m
  | .rprUnretire m _ => masterOk m
  | .rprRevert m _ => masterOk m
  | .rprEvtPop m => masterOk m
  | .crierReceive page => page < 1024
  | .fatalDetect page _ _ => page < 1024
  | .cryLogPop m => masterOk m
  | .fatalCaptureClear m => masterOk m
  | .snapshotGo m _ => masterOk m
  | .dumpEnable m _ => masterOk m
  | .updNop m _ => masterOk m
  | .updBegin m _ => masterOk m
  | .updBlock m _ _ _ => masterOk m
  | .updVerify m _ => masterOk m
  | .updActivate m _ => masterOk m
  | .updConfirm m _ => masterOk m
  | .updRevert m _ => masterOk m
  | .updAbort m _ => masterOk m
  | .updRevoke m _ => masterOk m
  | .updSnapSave m _ => masterOk m
  | .updSnapMark m _ => masterOk m
  | .updSnapClear m _ => masterOk m
  | .storeWrite _ => true
  | .storeWriteDone _ => true
  | .pprNop m _ => masterOk m
  | .pprBreachAck m _ => masterOk m
  | .pprRtcSet m _ => masterOk m
  | .pprJtagUnlock m _ => masterOk m
  | .pprJtagLock m _ => masterOk m
  | .pprClose m _ => masterOk m
  | .sealTest _ => true
  | .vbatMeasure mv => mv < 4096
  | .jnlUnitWrite _ => true
  | .jnlHostEnable m _ => masterOk m
  | .sensorRead temps => temps.length == 88
  | .moduleInterrupt port _ => port < 48
  | .dataLinkUp speed width _ => (0 < speed && speed < 6) && ([1, 2, 4, 8, 16].contains width)
  | .msixUnmask fn vec _ _ => (fn < 64) && (vec < 2048)
  | .vsb33Loss _ => true
  | .pipeHoldSpread pipe => pipe < 16
  | .handoverDone cls => cls < 6
  | .resendReadDone flow => flow < 16384
  | .rowRepairDone target => target < 20
  | .fabSysEnable m _ => masterOk m
  | .ptpMessageGeneration port type => (port < 48) && (type < 16)
  | .dieLinkLoss => true
  | .xcCopyDone => true
  | .bucketRebalance => true
  | .ageSweep => true
  | .stagingAgeExpire => true
  | .mergeJudge => true
  | .queueFlushDone => true
  | .millSettleEnd => true
  | .actTableClear => true
  | .tier2RebuildDone => true
  | .timeStepAtSecond => true
  | .slewEnd => true
  | .holdoverEnter => true
  | .ppsOutEdge => true
  | .todTxLine => true
  | .refclkLoss => true
  | .refclkReturn => true
  | .bfdRx => true
  | .ccmRx => true
  | .blockIrqRepeat => true
  | .l1Entry => true
  | .perstRelease => true
  | .refclkPresent => true
  | .railFail => true
  | .mainBootTimeout => true
  | .powerFailClear => true
  | .mainPowerOnReset => true
  | .standbyPowerOnReset => true
  | .watchdogExpire => true
  | .mainMemUe => true
  | .mainUp => true
  | .rotation => true
  | .pegWrite => true
  | .firstWindowClose => true
  | .fatalCapture => true
  | .snapshotPeriodic => true
  | .dumpDone => true
  | .traceDmaWrite => true
  | .updCmdDone => true
  | .confirmTimeout => true
  | .rollingUpdateStep => true
  | .presencePress => true
  | .presenceRelease => true
  | .presenceWindowExpire => true
  | .rtcSetLoad => true
  | .backupDomainLost => true
  | .rtcLoad => true
  | .journalHoldRelease => true
  | .jnlHostWrite => true
  | .throttleEnter => true
  | .throttleExit => true
  | .thermalShutdown => true
  | .l1Exit => true

end Sys2Proof
end

