-- ==== Sys2Proof/Machine/Act.lean ====
section
/-!
DEFINITION. The writes a command can make: one Act for each piece of State, and programs of them.  Every meaning is a program, so
whatever holds of every Act and is kept in sequence holds of every command (Laws/Act.lean).
-/
namespace Sys2Proof.Machine

/-- One write of a piece of the part of what the model itself keeps: emissions of the present step and the count of free values (not the spec's). -/
inductive ModelAct where
  | emitted (v : List Emit)
  | fresh (v : Nat)
  | supVin12 (v : Bool)
  | supVsb33 (v : Bool)

/-- One write of a piece of the part of the die-to-die link. -/
inductive DieAct where
  | dieRx (k : Nat) (v : FlitRx)
  | dieTx (k : Nat) (v : FlitTx)
  | dieQ (k : Nat) (v : List DieReq)
  | tmMem (k : Nat) (v : Word)
  | dieRead (k : Nat) (v : List DieReq)
  | dieLost (k : Nat) (v : Nat)
  | modRetries (k : Nat) (v : Nat)
  | dieDownAt (v : Option Nat)

/-- One write of a piece of the part of register pages and table command windows. -/
inductive PageAct where
  | regs (k : Nat) (v : Word)
  | units (k : Nat) (v : Word)
  | before (k : Nat) (v : Word)
  | frozen (k : Nat) (v : Word)
  | hiLatch (k : Nat) (v : List (Nat × Word))
  | loHeld (k : Nat) (v : Option (Nat × Word))
  | blkUp (k : Nat) (v : Bool)
  | tblWin (k : Nat) (v : Entry)
  | tblOp (k : Nat) (v : Option TblOp)
  | commitLate (k : Nat) (v : Bool)
  | tables (k : Nat) (v : Option Entry)
  | startVal (k : Nat) (v : Option Word)
  | dirty (k : Nat) (v : List (Nat × Nat))

/-- One write of a piece of the part of ports, cages, FlexE and the cross-connect. -/
inductive PortAct where
  | pauseUntil (k : Nat) (v : Option Nat)
  | pauseSentAt (k : Nat) (v : Option Nat)
  | pauseQ (k : Nat) (v : List (Nat × Nat))
  | macSignal (k : Nat) (v : Nat)
  | rpfTx (k : Nat) (v : Bool)
  | ohCrcBad (k : Nat) (v : Nat)
  | xcRefill (k : Nat) (v : Nat)
  | flxHeld (k : Nat) (v : Option Nat)
  | instX (k : Nat) (v : InstX)
  | xcAdapt (k : Nat) (v : Nat)
  | clientFeed (k : Nat) (v : Nat × Nat)
  | flxEx (k : Nat) (v : FlxEx)
  | xcArm (v : Option XcArm)
  | xcCopyAt (v : Option Nat)
  | pmX (k : Nat) (v : PmX)

/-- One write of a piece of the part of classification and forwarding tables. -/
inductive LookAct where
  | tcamLoad (k : Nat) (v : Option Nat)
  | tcamMiss (k : Nat) (v : Option Nat)
  | tcFlip (k : Nat) (v : Nat)
  | scrubRow (v : Nat)
  | scrubAt (v : Nat)
  | lpmKeys (k : Nat) (v : List Nat)
  | lpmBuild (k : Nat) (v : List Nat)
  | lpmDels (k : Nat) (v : Nat)
  | learnQ (k : Nat) (v : List LearnEvt)
  | sweepPos (v : Nat)
  | sweepAt (v : Nat)
  | l2bNtf (v : List (Nat × Nat × Nat × Nat))

/-- One write of a piece of the part of pipelines, samplers and egress. -/
inductive PipeAct where
  | rxCut (k : Nat) (v : Bool)
  | bodies (k : Nat) (v : Body)
  | bodyNext (v : Nat)
  | rxNow (k : Nat) (v : Option Nat)
  | rxFifo (k : Nat) (v : List Pkt)
  | rxXoff (k : Nat) (v : Bool)
  | inQ (k : Nat) (v : List Pkt)
  | recQ (k : Nat) (v : List (Pkt × Look))
  | slotX (k : Nat) (v : Nat × Nat)
  | upQ (k : Nat) (v : List Pkt)
  | egQ (k : Nat) (v : List Pkt)
  | txGive (k : Nat) (v : Nat)
  | txExp (k : Nat) (v : Nat)
  | txHold (k : Nat) (v : List Pkt)
  | macQ (k : Nat) (v : List Pkt)
  | txNow (k : Nat) (v : Option Pkt)
  | bucketPend (k : Nat) (v : Option Nat)
  | rebalAt (v : Nat)
  | bucketLoad (k : Nat) (v : Nat)
  | smpSel (k : Nat) (v : Nat)
  | smpSeq (k : Nat) (v : Nat)
  | smpMs (k : Nat) (v : Nat × Nat)

/-- One write of a piece of the part of buffers and queues of packets. -/
inductive BufferAct where
  | xoff (k : Nat) (v : Nat)
  | stg (k : Nat) (v : List Pkt)
  | stgUse (k : Nat) (v : Nat)
  | stgGlobal (v : Bool)
  | qx (k : Nat) (v : QX)
  | poolUse (k : Nat) (v : Nat)
  | reqUse (k : Nat) (v : Nat)
  | reqResv (k : Nat) (v : Nat)
  | tagNext (v : Nat)
  | twins (v : List Twin)
  | segNext (v : Nat)
  | bufs (k : Nat) (v : Buf)
  | bufNext (v : Nat)
  | stgXoff (k : Nat) (v : Nat)
  | tier2On (v : Bool)
  | tier2Rebuild (v : Option Nat)
  | freeAges (v : List (Nat × Nat × Nat))
  | hbmIn (v : List (Nat × Nat))
  | hbmOut (v : List (Nat × Nat))
  | grnIn (v : List (Nat × Nat))
  | grnOut (v : List (Nat × Nat))
  | grnDemand (v : List (Nat × Nat))
  | stgDrops (k : Nat) (v : Nat)
  | starves (v : Nat)

/-- One write of a piece of the part of scheduling, shaping, policing and gates. -/
inductive SchedAct where
  | polX (k : Nat) (v : PolX)
  | shpX (k : Nat) (v : ShpX)
  | shpBase (v : Nat)
  | mill (k : Nat) (v : MillX)
  | millAll (v : MillX)
  | flushing (v : Option (Nat × Nat))
  | rptX (v : Nat × Nat × Nat × Nat × Nat)
  | gateX (k : Nat) (v : GateX)

/-- One write of a piece of the part of the fabric. -/
inductive FabricAct where
  | linkX (k : Nat) (v : LinkX)
  | unreachAt (k : Nat) (v : Nat)
  | dupIdAt (v : Option Nat)
  | stgMc (v : List Pkt)
  | reqs (k : Nat) (v : Option ReqOut)
  | reqNext (k : Nat) (v : Nat)
  | recs (k : Nat) (v : Option GrantRec)
  | srcEpoch (k : Nat) (v : Option Nat)
  | xbWait (v : List XbCell)
  | xbT (v : Nat)
  | xbGrant (v : List Nat)
  | xbAccept (v : List Nat)
  | privUse (k : Nat) (v : Nat × Nat)
  | privWait (k : Nat) (v : List XbCell)
  | slotTx (k : Nat) (v : Nat)
  | cellSeq (k : Nat) (v : Nat)
  | sprayAt (k : Nat) (v : Nat)
  | cellOpen (k : Nat) (v : List (Pkt × Nat × Nat))
  | rxStr (k : Nat) (v : RxStream)
  | mcOut (k : Nat) (v : Nat)
  | mcOwed (k : Nat) (v : List Nat)
  | slotBuf (k : Nat) (v : List (Nat × List Nat))
  | slotPlay (k : Nat) (v : Option Nat × Nat × Nat)
  | xbMoved (v : List (Nat × Nat))
  | xbPrivMoved (v : List (Nat × Nat))
  | chanErrs (k : Nat) (v : Nat)
  | mcMade (v : Nat)
  | normWait (k : Nat) (v : List XbCell)
  | normUse (k : Nat) (v : Nat × Nat)

/-- One write of a piece of the part of memory controllers. -/
inductive MemAct where
  | memX (k : Nat) (v : MemX)
  | actTab (k : Nat) (v : ActTab)
  | openRow (k : Nat) (v : Option OpenRow)
  | sruMask (v : List Nat)
  | actWait (v : List (Nat × Nat × Nat))
  | actAt (v : Nat)

/-- One write of a piece of the part of the time base. -/
inductive TimeAct where
  | time16 (v : Nat)
  | rateRem (v : Nat)
  | slewRem (v : Nat)
  | slewLeft (v : Int)
  | stepPend (v : Option (Nat × Nat × Nat × Nat))
  | stepAt (v : Option Nat)
  | lockCount (v : Nat)
  | ppsMissed (v : Nat)
  | ppsLast (v : Option Nat)
  | ppsGood (v : Option Nat)
  | todSec (v : Option Nat)
  | ppsOutSec (v : Nat)
  | todTxSec (v : Nat)
  | ppsHigh (v : Bool)
  | ppsOutMono (v : Nat)
  | freqLog (v : List (Nat × Int))
  | holdFreq (v : Option Int)
  | tsf (v : List (Nat × Nat × Nat × Nat × Nat × Nat))
  | stepDelta (v : Int)
  | ptpSeq (k : Nat) (v : Nat)

/-- One write of a piece of the part of services. -/
inductive ServiceAct where
  | bfdX (k : Nat) (v : BfdX)
  | mepX (k : Nat) (v : MepX)
  | flowX (k : Nat) (v : FlowX)
  | mergeX (k : Nat) (v : MergeX)
  | recX (k : Nat) (v : RecX)
  | svcRx (v : List Pkt)
  | mergeQ (v : List (Pkt × Nat × Nat))
  | svcQ (k : Nat) (v : List Pkt)
  | svcNtf (v : List (Nat × Nat × Nat))

/-- One write of a piece of the part of the host interface and virtual instances. -/
inductive HostAct where
  | pcieFn (k : Nat) (v : PcieFn)
  | msix (k : Nat) (v : MsixVec)
  | inta (v : Bool)
  | irqSince (v : Option Nat)
  | qpx (k : Nat) (v : QpX)
  | perstLow (v : Bool)
  | hostQ (k : Nat) (v : List HostRec)
  | vinst (k : Nat) (v : VInst)
  | txRot (v : Nat)
  | stgResv (v : Nat)
  | lookAt (v : Option Nat)
  | l1At (v : Nat)
  | bufBad (v : Bool)

/-- One write of a piece of the part of start-up. -/
inductive StartAct where
  | wdogTimes (v : List Nat)
  | cageX (k : Nat) (v : CageX)
  | resetLow (v : Bool)
  | slotPins (v : Nat)
  | latchDue (v : Bool)
  | refclk (v : Bool)
  | coldT0 (v : Option Nat)
  | bootAt (v : Option Nat)
  | stopped (v : Bool)

/-- One write of a piece of the part of self-repair. -/
inductive RepairAct where
  | poisoned (k : Nat) (v : Bool)
  | pegStore (v : List Peg × Nat)
  | declared (v : List (Nat × Nat × Nat))
  | rprEvt (v : List (Nat × Nat × Nat))
  | gens (k : Nat) (v : Nat)
  | genEpoch (k : Nat) (v : Nat)
  | unitX (k : Nat) (v : UnitX)
  | recov (k : Nat) (v : List Recov)
  | rotLast (v : List (Nat × Nat))
  | rotAt (v : Nat)
  | rotClassAt (v : List (Nat × Nat))
  | modRetry (k : Nat) (v : List Nat)
  | scarf (k : Nat) (v : Scarf)
  | pegs (v : List Peg)
  | pegDue (v : Option Nat)

/-- One write of a piece of the part of faults. -/
inductive FaultAct where
  | cryQueue (k : Nat) (v : List CryMsg)
  | cryPend (k : Nat) (v : Option CryMsg)
  | cryLog (v : List (CryMsg × Nat))
  | firstWin (v : List (CryMsg × Nat))
  | firstEnd (v : Option Nat)
  | fatalLatch
  | fatalQ (v : List (CryMsg × Nat))
  | openPage (k : Nat) (v : Nat)
  | grnBy (v : Nat)

/-- One write of a piece of the part of counters and traces. -/
inductive CountAct where
  | counters (k : Nat) (v : Nat)
  | snapSaved (k : Nat) (v : Option Nat)
  | snap (v : Option Snap)
  | snapAt (v : Option Nat)
  | dumpCount (v : Nat)
  | dumpMemErrs (v : Nat)
  | traceBuf (v : List TraceRec)
  | trcPhase (v : Bool)
  | trcMs (v : Nat × Nat)
  | trcCount (v : Nat)

/-- One write of a piece of the part of images and the nonvolatile store. -/
inductive StoreAct where
  | ctl (v : Control)
  | imgUnit (k : Nat) (v : List Byte)
  | snapSlot (k : Nat) (v : Option SnapRec)
  | storeQ (v : List StoreRec)
  | storeBusy (v : Bool)
  | erases (k : Nat) (v : Nat)
  | copyArea (k : Nat) (v : Nat)
  | updSlot (v : Option Nat)
  | updOp (v : Option UpdOp)
  | confirmEnd (v : Option Nat)
  | roll (v : Option (Nat × Nat))
  | coreTag (k : Nat) (v : Nat)

/-- One write of a piece of the part of presence, backup domain and the parish register. -/
inductive PresenceAct where
  | jnlSeq (v : Nat)
  | jnlPre (v : List JRec)
  | jnlRecent (k : Nat) (v : Option JRec)
  | jnlPersist (v : List JRec)
  | jnlBacklog (v : List JRec)
  | jnlNext (v : Nat)
  | jnlPhase (v : Bool)
  | jnlUnits (k : Nat) (v : Option JRec)
  | jnlUnit (v : Nat)
  | jnlWriting (v : List JRec)
  | jnlHeld (v : List Held)
  | rtcNs (v : Nat)
  | winEnd (v : Option Nat)
  | sealFails (v : Nat)
  | sealPasses (v : Nat)
  | rtcArmed (v : Option (Nat × Nat))
  | rtcLoadedSec (v : Nat)
  | bkpCopied (v : List (Nat × Nat))
  | bkpOver (v : Nat)

/-- One write of a piece of the part of power and temperature. -/
inductive PowerAct where
  | temps (v : List Int)
  | hotAt (v : List (Nat × Nat))
  | coolAt (v : Option Nat)
  | shutAt (v : List (Nat × Nat))
  | alert (v : Bool)

/-- One write of one piece of State.  None clears the Fatal latch, changes MONO or touches the queue of commands: only the resets of the device do the first (R517), only
those and the passing of time the second (R417), and only the step the third. -/
inductive Act where
  | model (a : ModelAct)
  | die (a : DieAct)
  | page (a : PageAct)
  | port (a : PortAct)
  | look (a : LookAct)
  | pipe (a : PipeAct)
  | buffer (a : BufferAct)
  | sched (a : SchedAct)
  | fabric (a : FabricAct)
  | mem (a : MemAct)
  | time (a : TimeAct)
  | service (a : ServiceAct)
  | host (a : HostAct)
  | start (a : StartAct)
  | repair (a : RepairAct)
  | fault (a : FaultAct)
  | count (a : CountAct)
  | store (a : StoreAct)
  | presence (a : PresenceAct)
  | power (a : PowerAct)

abbrev Act.regs (k : Nat) (v : Word) : Act := .page (.regs k v)
abbrev Act.units (k : Nat) (v : Word) : Act := .page (.units k v)
abbrev Act.before (k : Nat) (v : Word) : Act := .page (.before k v)
abbrev Act.frozen (k : Nat) (v : Word) : Act := .page (.frozen k v)
abbrev Act.hiLatch (k : Nat) (v : List (Nat × Word)) : Act := .page (.hiLatch k v)
abbrev Act.loHeld (k : Nat) (v : Option (Nat × Word)) : Act := .page (.loHeld k v)
abbrev Act.blkUp (k : Nat) (v : Bool) : Act := .page (.blkUp k v)
abbrev Act.tblWin (k : Nat) (v : Entry) : Act := .page (.tblWin k v)
abbrev Act.tblOp (k : Nat) (v : Option TblOp) : Act := .page (.tblOp k v)
abbrev Act.commitLate (k : Nat) (v : Bool) : Act := .page (.commitLate k v)
abbrev Act.tables (k : Nat) (v : Option Entry) : Act := .page (.tables k v)
abbrev Act.counters (k : Nat) (v : Nat) : Act := .count (.counters k v)
abbrev Act.snapSaved (k : Nat) (v : Option Nat) : Act := .count (.snapSaved k v)
abbrev Act.cryQueue (k : Nat) (v : List CryMsg) : Act := .fault (.cryQueue k v)
abbrev Act.cryPend (k : Nat) (v : Option CryMsg) : Act := .fault (.cryPend k v)
abbrev Act.cryLog (v : List (CryMsg × Nat)) : Act := .fault (.cryLog v)
abbrev Act.firstWin (v : List (CryMsg × Nat)) : Act := .fault (.firstWin v)
abbrev Act.firstEnd (v : Option Nat) : Act := .fault (.firstEnd v)
abbrev Act.fatalLatch : Act := .fault .fatalLatch
abbrev Act.fatalQ (v : List (CryMsg × Nat)) : Act := .fault (.fatalQ v)
abbrev Act.time16 (v : Nat) : Act := .time (.time16 v)
abbrev Act.rateRem (v : Nat) : Act := .time (.rateRem v)
abbrev Act.slewRem (v : Nat) : Act := .time (.slewRem v)
abbrev Act.slewLeft (v : Int) : Act := .time (.slewLeft v)
abbrev Act.stepPend (v : Option (Nat × Nat × Nat × Nat)) : Act := .time (.stepPend v)
abbrev Act.stepAt (v : Option Nat) : Act := .time (.stepAt v)
abbrev Act.lockCount (v : Nat) : Act := .time (.lockCount v)
abbrev Act.ppsMissed (v : Nat) : Act := .time (.ppsMissed v)
abbrev Act.ppsLast (v : Option Nat) : Act := .time (.ppsLast v)
abbrev Act.ppsGood (v : Option Nat) : Act := .time (.ppsGood v)
abbrev Act.todSec (v : Option Nat) : Act := .time (.todSec v)
abbrev Act.ppsOutSec (v : Nat) : Act := .time (.ppsOutSec v)
abbrev Act.todTxSec (v : Nat) : Act := .time (.todTxSec v)
abbrev Act.ppsHigh (v : Bool) : Act := .time (.ppsHigh v)
abbrev Act.ppsOutMono (v : Nat) : Act := .time (.ppsOutMono v)
abbrev Act.freqLog (v : List (Nat × Int)) : Act := .time (.freqLog v)
abbrev Act.holdFreq (v : Option Int) : Act := .time (.holdFreq v)
abbrev Act.tsf (v : List (Nat × Nat × Nat × Nat × Nat × Nat)) : Act := .time (.tsf v)
abbrev Act.jnlSeq (v : Nat) : Act := .presence (.jnlSeq v)
abbrev Act.jnlPre (v : List JRec) : Act := .presence (.jnlPre v)
abbrev Act.jnlRecent (k : Nat) (v : Option JRec) : Act := .presence (.jnlRecent k v)
abbrev Act.jnlPersist (v : List JRec) : Act := .presence (.jnlPersist v)
abbrev Act.jnlBacklog (v : List JRec) : Act := .presence (.jnlBacklog v)
abbrev Act.jnlNext (v : Nat) : Act := .presence (.jnlNext v)
abbrev Act.jnlPhase (v : Bool) : Act := .presence (.jnlPhase v)
abbrev Act.jnlUnits (k : Nat) (v : Option JRec) : Act := .presence (.jnlUnits k v)
abbrev Act.jnlUnit (v : Nat) : Act := .presence (.jnlUnit v)
abbrev Act.jnlWriting (v : List JRec) : Act := .presence (.jnlWriting v)
abbrev Act.jnlHeld (v : List Held) : Act := .presence (.jnlHeld v)
abbrev Act.emitted (v : List Emit) : Act := .model (.emitted v)
abbrev Act.fresh (v : Nat) : Act := .model (.fresh v)
abbrev Act.snap (v : Option Snap) : Act := .count (.snap v)
abbrev Act.snapAt (v : Option Nat) : Act := .count (.snapAt v)
abbrev Act.dumpCount (v : Nat) : Act := .count (.dumpCount v)
abbrev Act.dumpMemErrs (v : Nat) : Act := .count (.dumpMemErrs v)
abbrev Act.pcieFn (k : Nat) (v : PcieFn) : Act := .host (.pcieFn k v)
abbrev Act.msix (k : Nat) (v : MsixVec) : Act := .host (.msix k v)
abbrev Act.inta (v : Bool) : Act := .host (.inta v)
abbrev Act.irqSince (v : Option Nat) : Act := .host (.irqSince v)
abbrev Act.qpx (k : Nat) (v : QpX) : Act := .host (.qpx k v)
abbrev Act.perstLow (v : Bool) : Act := .host (.perstLow v)
abbrev Act.linkX (k : Nat) (v : LinkX) : Act := .fabric (.linkX k v)
abbrev Act.unreachAt (k : Nat) (v : Nat) : Act := .fabric (.unreachAt k v)
abbrev Act.openPage (k : Nat) (v : Nat) : Act := .fault (.openPage k v)
abbrev Act.wdogTimes (v : List Nat) : Act := .start (.wdogTimes v)
abbrev Act.poisoned (k : Nat) (v : Bool) : Act := .repair (.poisoned k v)
abbrev Act.dupIdAt (v : Option Nat) : Act := .fabric (.dupIdAt v)
abbrev Act.rtcNs (v : Nat) : Act := .presence (.rtcNs v)
abbrev Act.winEnd (v : Option Nat) : Act := .presence (.winEnd v)
abbrev Act.sealFails (v : Nat) : Act := .presence (.sealFails v)
abbrev Act.sealPasses (v : Nat) : Act := .presence (.sealPasses v)
abbrev Act.rtcArmed (v : Option (Nat × Nat)) : Act := .presence (.rtcArmed v)
abbrev Act.rtcLoadedSec (v : Nat) : Act := .presence (.rtcLoadedSec v)
abbrev Act.bkpCopied (v : List (Nat × Nat)) : Act := .presence (.bkpCopied v)
abbrev Act.bkpOver (v : Nat) : Act := .presence (.bkpOver v)
abbrev Act.supVin12 (v : Bool) : Act := .model (.supVin12 v)
abbrev Act.supVsb33 (v : Bool) : Act := .model (.supVsb33 v)
abbrev Act.traceBuf (v : List TraceRec) : Act := .count (.traceBuf v)
abbrev Act.trcPhase (v : Bool) : Act := .count (.trcPhase v)
abbrev Act.trcMs (v : Nat × Nat) : Act := .count (.trcMs v)
abbrev Act.trcCount (v : Nat) : Act := .count (.trcCount v)
abbrev Act.ctl (v : Control) : Act := .store (.ctl v)
abbrev Act.imgUnit (k : Nat) (v : List Byte) : Act := .store (.imgUnit k v)
abbrev Act.snapSlot (k : Nat) (v : Option SnapRec) : Act := .store (.snapSlot k v)
abbrev Act.storeQ (v : List StoreRec) : Act := .store (.storeQ v)
abbrev Act.storeBusy (v : Bool) : Act := .store (.storeBusy v)
abbrev Act.erases (k : Nat) (v : Nat) : Act := .store (.erases k v)
abbrev Act.copyArea (k : Nat) (v : Nat) : Act := .store (.copyArea k v)
abbrev Act.updSlot (v : Option Nat) : Act := .store (.updSlot v)
abbrev Act.pegStore (v : List Peg × Nat) : Act := .repair (.pegStore v)
abbrev Act.updOp (v : Option UpdOp) : Act := .store (.updOp v)
abbrev Act.confirmEnd (v : Option Nat) : Act := .store (.confirmEnd v)
abbrev Act.roll (v : Option (Nat × Nat)) : Act := .store (.roll v)
abbrev Act.coreTag (k : Nat) (v : Nat) : Act := .store (.coreTag k v)
abbrev Act.cageX (k : Nat) (v : CageX) : Act := .start (.cageX k v)
abbrev Act.pauseUntil (k : Nat) (v : Option Nat) : Act := .port (.pauseUntil k v)
abbrev Act.xoff (k : Nat) (v : Nat) : Act := .buffer (.xoff k v)
abbrev Act.pauseSentAt (k : Nat) (v : Option Nat) : Act := .port (.pauseSentAt k v)
abbrev Act.pauseQ (k : Nat) (v : List (Nat × Nat)) : Act := .port (.pauseQ k v)
abbrev Act.rxCut (k : Nat) (v : Bool) : Act := .pipe (.rxCut k v)
abbrev Act.macSignal (k : Nat) (v : Nat) : Act := .port (.macSignal k v)
abbrev Act.rpfTx (k : Nat) (v : Bool) : Act := .port (.rpfTx k v)
abbrev Act.ohCrcBad (k : Nat) (v : Nat) : Act := .port (.ohCrcBad k v)
abbrev Act.xcRefill (k : Nat) (v : Nat) : Act := .port (.xcRefill k v)
abbrev Act.flxHeld (k : Nat) (v : Option Nat) : Act := .port (.flxHeld k v)
abbrev Act.instX (k : Nat) (v : InstX) : Act := .port (.instX k v)
abbrev Act.xcAdapt (k : Nat) (v : Nat) : Act := .port (.xcAdapt k v)
abbrev Act.clientFeed (k : Nat) (v : Nat × Nat) : Act := .port (.clientFeed k v)
abbrev Act.flxEx (k : Nat) (v : FlxEx) : Act := .port (.flxEx k v)
abbrev Act.xcArm (v : Option XcArm) : Act := .port (.xcArm v)
abbrev Act.xcCopyAt (v : Option Nat) : Act := .port (.xcCopyAt v)
abbrev Act.pmX (k : Nat) (v : PmX) : Act := .port (.pmX k v)
abbrev Act.declared (v : List (Nat × Nat × Nat)) : Act := .repair (.declared v)
abbrev Act.rprEvt (v : List (Nat × Nat × Nat)) : Act := .repair (.rprEvt v)
abbrev Act.gens (k : Nat) (v : Nat) : Act := .repair (.gens k v)
abbrev Act.genEpoch (k : Nat) (v : Nat) : Act := .repair (.genEpoch k v)
abbrev Act.unitX (k : Nat) (v : UnitX) : Act := .repair (.unitX k v)
abbrev Act.recov (k : Nat) (v : List Recov) : Act := .repair (.recov k v)
abbrev Act.rotLast (v : List (Nat × Nat)) : Act := .repair (.rotLast v)
abbrev Act.rotAt (v : Nat) : Act := .repair (.rotAt v)
abbrev Act.rotClassAt (v : List (Nat × Nat)) : Act := .repair (.rotClassAt v)
abbrev Act.tcamLoad (k : Nat) (v : Option Nat) : Act := .look (.tcamLoad k v)
abbrev Act.tcamMiss (k : Nat) (v : Option Nat) : Act := .look (.tcamMiss k v)
abbrev Act.tcFlip (k : Nat) (v : Nat) : Act := .look (.tcFlip k v)
abbrev Act.scrubRow (v : Nat) : Act := .look (.scrubRow v)
abbrev Act.scrubAt (v : Nat) : Act := .look (.scrubAt v)
abbrev Act.lpmKeys (k : Nat) (v : List Nat) : Act := .look (.lpmKeys k v)
abbrev Act.lpmBuild (k : Nat) (v : List Nat) : Act := .look (.lpmBuild k v)
abbrev Act.lpmDels (k : Nat) (v : Nat) : Act := .look (.lpmDels k v)
abbrev Act.learnQ (k : Nat) (v : List LearnEvt) : Act := .look (.learnQ k v)
abbrev Act.sweepPos (v : Nat) : Act := .look (.sweepPos v)
abbrev Act.sweepAt (v : Nat) : Act := .look (.sweepAt v)
abbrev Act.l2bNtf (v : List (Nat × Nat × Nat × Nat)) : Act := .look (.l2bNtf v)
abbrev Act.polX (k : Nat) (v : PolX) : Act := .sched (.polX k v)
abbrev Act.bodies (k : Nat) (v : Body) : Act := .pipe (.bodies k v)
abbrev Act.bodyNext (v : Nat) : Act := .pipe (.bodyNext v)
abbrev Act.rxNow (k : Nat) (v : Option Nat) : Act := .pipe (.rxNow k v)
abbrev Act.rxFifo (k : Nat) (v : List Pkt) : Act := .pipe (.rxFifo k v)
abbrev Act.rxXoff (k : Nat) (v : Bool) : Act := .pipe (.rxXoff k v)
abbrev Act.inQ (k : Nat) (v : List Pkt) : Act := .pipe (.inQ k v)
abbrev Act.recQ (k : Nat) (v : List (Pkt × Look)) : Act := .pipe (.recQ k v)
abbrev Act.slotX (k : Nat) (v : Nat × Nat) : Act := .pipe (.slotX k v)
abbrev Act.upQ (k : Nat) (v : List Pkt) : Act := .pipe (.upQ k v)
abbrev Act.egQ (k : Nat) (v : List Pkt) : Act := .pipe (.egQ k v)
abbrev Act.txGive (k : Nat) (v : Nat) : Act := .pipe (.txGive k v)
abbrev Act.txExp (k : Nat) (v : Nat) : Act := .pipe (.txExp k v)
abbrev Act.txHold (k : Nat) (v : List Pkt) : Act := .pipe (.txHold k v)
abbrev Act.macQ (k : Nat) (v : List Pkt) : Act := .pipe (.macQ k v)
abbrev Act.txNow (k : Nat) (v : Option Pkt) : Act := .pipe (.txNow k v)
abbrev Act.bucketPend (k : Nat) (v : Option Nat) : Act := .pipe (.bucketPend k v)
abbrev Act.rebalAt (v : Nat) : Act := .pipe (.rebalAt v)
abbrev Act.bucketLoad (k : Nat) (v : Nat) : Act := .pipe (.bucketLoad k v)
abbrev Act.smpSel (k : Nat) (v : Nat) : Act := .pipe (.smpSel k v)
abbrev Act.smpSeq (k : Nat) (v : Nat) : Act := .pipe (.smpSeq k v)
abbrev Act.smpMs (k : Nat) (v : Nat × Nat) : Act := .pipe (.smpMs k v)
abbrev Act.stg (k : Nat) (v : List Pkt) : Act := .buffer (.stg k v)
abbrev Act.stgMc (v : List Pkt) : Act := .fabric (.stgMc v)
abbrev Act.stgUse (k : Nat) (v : Nat) : Act := .buffer (.stgUse k v)
abbrev Act.stgGlobal (v : Bool) : Act := .buffer (.stgGlobal v)
abbrev Act.qx (k : Nat) (v : QX) : Act := .buffer (.qx k v)
abbrev Act.shpX (k : Nat) (v : ShpX) : Act := .sched (.shpX k v)
abbrev Act.shpBase (v : Nat) : Act := .sched (.shpBase v)
abbrev Act.mill (k : Nat) (v : MillX) : Act := .sched (.mill k v)
abbrev Act.millAll (v : MillX) : Act := .sched (.millAll v)
abbrev Act.poolUse (k : Nat) (v : Nat) : Act := .buffer (.poolUse k v)
abbrev Act.reqUse (k : Nat) (v : Nat) : Act := .buffer (.reqUse k v)
abbrev Act.reqResv (k : Nat) (v : Nat) : Act := .buffer (.reqResv k v)
abbrev Act.tagNext (v : Nat) : Act := .buffer (.tagNext v)
abbrev Act.twins (v : List Twin) : Act := .buffer (.twins v)
abbrev Act.segNext (v : Nat) : Act := .buffer (.segNext v)
abbrev Act.flushing (v : Option (Nat × Nat)) : Act := .sched (.flushing v)
abbrev Act.rptX (v : Nat × Nat × Nat × Nat × Nat) : Act := .sched (.rptX v)
abbrev Act.reqs (k : Nat) (v : Option ReqOut) : Act := .fabric (.reqs k v)
abbrev Act.reqNext (k : Nat) (v : Nat) : Act := .fabric (.reqNext k v)
abbrev Act.recs (k : Nat) (v : Option GrantRec) : Act := .fabric (.recs k v)
abbrev Act.srcEpoch (k : Nat) (v : Option Nat) : Act := .fabric (.srcEpoch k v)
abbrev Act.xbWait (v : List XbCell) : Act := .fabric (.xbWait v)
abbrev Act.xbT (v : Nat) : Act := .fabric (.xbT v)
abbrev Act.xbGrant (v : List Nat) : Act := .fabric (.xbGrant v)
abbrev Act.xbAccept (v : List Nat) : Act := .fabric (.xbAccept v)
abbrev Act.privUse (k : Nat) (v : Nat × Nat) : Act := .fabric (.privUse k v)
abbrev Act.privWait (k : Nat) (v : List XbCell) : Act := .fabric (.privWait k v)
abbrev Act.slotTx (k : Nat) (v : Nat) : Act := .fabric (.slotTx k v)
abbrev Act.cellSeq (k : Nat) (v : Nat) : Act := .fabric (.cellSeq k v)
abbrev Act.sprayAt (k : Nat) (v : Nat) : Act := .fabric (.sprayAt k v)
abbrev Act.cellOpen (k : Nat) (v : List (Pkt × Nat × Nat)) : Act := .fabric (.cellOpen k v)
abbrev Act.rxStr (k : Nat) (v : RxStream) : Act := .fabric (.rxStr k v)
abbrev Act.mcOut (k : Nat) (v : Nat) : Act := .fabric (.mcOut k v)
abbrev Act.mcOwed (k : Nat) (v : List Nat) : Act := .fabric (.mcOwed k v)
abbrev Act.slotBuf (k : Nat) (v : List (Nat × List Nat)) : Act := .fabric (.slotBuf k v)
abbrev Act.gateX (k : Nat) (v : GateX) : Act := .sched (.gateX k v)
abbrev Act.stepDelta (v : Int) : Act := .time (.stepDelta v)
abbrev Act.slotPlay (k : Nat) (v : Option Nat × Nat × Nat) : Act := .fabric (.slotPlay k v)
abbrev Act.hostQ (k : Nat) (v : List HostRec) : Act := .host (.hostQ k v)
abbrev Act.bufs (k : Nat) (v : Buf) : Act := .buffer (.bufs k v)
abbrev Act.bufNext (v : Nat) : Act := .buffer (.bufNext v)
abbrev Act.stgXoff (k : Nat) (v : Nat) : Act := .buffer (.stgXoff k v)
abbrev Act.memX (k : Nat) (v : MemX) : Act := .mem (.memX k v)
abbrev Act.actTab (k : Nat) (v : ActTab) : Act := .mem (.actTab k v)
abbrev Act.openRow (k : Nat) (v : Option OpenRow) : Act := .mem (.openRow k v)
abbrev Act.tier2On (v : Bool) : Act := .buffer (.tier2On v)
abbrev Act.tier2Rebuild (v : Option Nat) : Act := .buffer (.tier2Rebuild v)
abbrev Act.bfdX (k : Nat) (v : BfdX) : Act := .service (.bfdX k v)
abbrev Act.mepX (k : Nat) (v : MepX) : Act := .service (.mepX k v)
abbrev Act.flowX (k : Nat) (v : FlowX) : Act := .service (.flowX k v)
abbrev Act.mergeX (k : Nat) (v : MergeX) : Act := .service (.mergeX k v)
abbrev Act.recX (k : Nat) (v : RecX) : Act := .service (.recX k v)
abbrev Act.svcRx (v : List Pkt) : Act := .service (.svcRx v)
abbrev Act.mergeQ (v : List (Pkt × Nat × Nat)) : Act := .service (.mergeQ v)
abbrev Act.svcQ (k : Nat) (v : List Pkt) : Act := .service (.svcQ k v)
abbrev Act.svcNtf (v : List (Nat × Nat × Nat)) : Act := .service (.svcNtf v)
abbrev Act.vinst (k : Nat) (v : VInst) : Act := .host (.vinst k v)
abbrev Act.txRot (v : Nat) : Act := .host (.txRot v)
abbrev Act.stgResv (v : Nat) : Act := .host (.stgResv v)
abbrev Act.lookAt (v : Option Nat) : Act := .host (.lookAt v)
abbrev Act.l1At (v : Nat) : Act := .host (.l1At v)
abbrev Act.bufBad (v : Bool) : Act := .host (.bufBad v)
abbrev Act.dieRx (k : Nat) (v : FlitRx) : Act := .die (.dieRx k v)
abbrev Act.dieTx (k : Nat) (v : FlitTx) : Act := .die (.dieTx k v)
abbrev Act.dieQ (k : Nat) (v : List DieReq) : Act := .die (.dieQ k v)
abbrev Act.tmMem (k : Nat) (v : Word) : Act := .die (.tmMem k v)
abbrev Act.dieRead (k : Nat) (v : List DieReq) : Act := .die (.dieRead k v)
abbrev Act.dieLost (k : Nat) (v : Nat) : Act := .die (.dieLost k v)
abbrev Act.modRetry (k : Nat) (v : List Nat) : Act := .repair (.modRetry k v)
abbrev Act.modRetries (k : Nat) (v : Nat) : Act := .die (.modRetries k v)
abbrev Act.dieDownAt (v : Option Nat) : Act := .die (.dieDownAt v)
abbrev Act.temps (v : List Int) : Act := .power (.temps v)
abbrev Act.hotAt (v : List (Nat × Nat)) : Act := .power (.hotAt v)
abbrev Act.coolAt (v : Option Nat) : Act := .power (.coolAt v)
abbrev Act.shutAt (v : List (Nat × Nat)) : Act := .power (.shutAt v)
abbrev Act.alert (v : Bool) : Act := .power (.alert v)
abbrev Act.resetLow (v : Bool) : Act := .start (.resetLow v)
abbrev Act.slotPins (v : Nat) : Act := .start (.slotPins v)
abbrev Act.latchDue (v : Bool) : Act := .start (.latchDue v)
abbrev Act.refclk (v : Bool) : Act := .start (.refclk v)
abbrev Act.coldT0 (v : Option Nat) : Act := .start (.coldT0 v)
abbrev Act.bootAt (v : Option Nat) : Act := .start (.bootAt v)
abbrev Act.scarf (k : Nat) (v : Scarf) : Act := .repair (.scarf k v)
abbrev Act.ptpSeq (k : Nat) (v : Nat) : Act := .time (.ptpSeq k v)
abbrev Act.pegs (v : List Peg) : Act := .repair (.pegs v)
abbrev Act.pegDue (v : Option Nat) : Act := .repair (.pegDue v)
abbrev Act.freeAges (v : List (Nat × Nat × Nat)) : Act := .buffer (.freeAges v)
abbrev Act.sruMask (v : List Nat) : Act := .mem (.sruMask v)
abbrev Act.actWait (v : List (Nat × Nat × Nat)) : Act := .mem (.actWait v)
abbrev Act.hbmIn (v : List (Nat × Nat)) : Act := .buffer (.hbmIn v)
abbrev Act.hbmOut (v : List (Nat × Nat)) : Act := .buffer (.hbmOut v)
abbrev Act.grnIn (v : List (Nat × Nat)) : Act := .buffer (.grnIn v)
abbrev Act.grnOut (v : List (Nat × Nat)) : Act := .buffer (.grnOut v)
abbrev Act.xbMoved (v : List (Nat × Nat)) : Act := .fabric (.xbMoved v)
abbrev Act.xbPrivMoved (v : List (Nat × Nat)) : Act := .fabric (.xbPrivMoved v)
abbrev Act.grnDemand (v : List (Nat × Nat)) : Act := .buffer (.grnDemand v)
abbrev Act.actAt (v : Nat) : Act := .mem (.actAt v)
abbrev Act.grnBy (v : Nat) : Act := .fault (.grnBy v)
abbrev Act.startVal (k : Nat) (v : Option Word) : Act := .page (.startVal k v)
abbrev Act.dirty (k : Nat) (v : List (Nat × Nat)) : Act := .page (.dirty k v)
abbrev Act.stopped (v : Bool) : Act := .start (.stopped v)
abbrev Act.stgDrops (k : Nat) (v : Nat) : Act := .buffer (.stgDrops k v)
abbrev Act.starves (v : Nat) : Act := .buffer (.starves v)
abbrev Act.chanErrs (k : Nat) (v : Nat) : Act := .fabric (.chanErrs k v)
abbrev Act.mcMade (v : Nat) : Act := .fabric (.mcMade v)
abbrev Act.normWait (k : Nat) (v : List XbCell) : Act := .fabric (.normWait k v)
abbrev Act.normUse (k : Nat) (v : Nat × Nat) : Act := .fabric (.normUse k v)

/-- What an unlisted key of `regs` reads as. -/
def dfltRegs (k : Nat) : Word := regReset k

/-- `regs` at a key: registers by page * 65536 + offset: the value software wrote or hardware set; for a shadowed register its shadow (spec/02 R37, R43, R64). -/
def State.regsAt (s : State) (k : Nat) : Word := Sp.get dfltRegs s.regs k

/-- What an unlisted key of `units` reads as. -/
def dfltUnits (k : Nat) : Word := regReset k

/-- `units` at a key: for shadowed registers, by the same key: the value the units are using (spec/02 R64). -/
def State.unitsAt (s : State) (k : Nat) : Word := Sp.get dfltUnits s.units k

/-- What an unlisted key of `before` reads as. -/
def dfltBefore (k : Nat) : Word := regReset k

/-- `before` at a key: for shadowed registers, by the same key: what the units used before the commit that is PENDING (spec/02 R68). -/
def State.beforeAt (s : State) (k : Nat) : Word := Sp.get dfltBefore s.before k

/-- What an unlisted key of `frozen` reads as. -/
def dfltFrozen (k : Nat) : Word := regReset k

/-- `frozen` at a key: the status view a frozen page holds, by the same key (spec/02 R57). -/
def State.frozenAt (s : State) (k : Nat) : Word := Sp.get dfltFrozen s.frozen k

/-- What an unlisted key of `hiLatch` reads as. -/
def dfltHiLatch (_ : Nat) : List (Nat × Word) := []

/-- `hiLatch` at a key: the latched HI offsets and values by page * 65536 + master (spec/02 R44, spec/11 PTP_NOW_NS). -/
def State.hiLatchAt (s : State) (k : Nat) : List (Nat × Word) := Sp.get dfltHiLatch s.hiLatch k

/-- What an unlisted key of `loHeld` reads as. -/
def dfltLoHeld (_ : Nat) : Option (Nat × Word) := none

/-- `loHeld` at a key: the held LO write (its offset and value) by page * 65536 + master (spec/02 R45). -/
def State.loHeldAt (s : State) (k : Nat) : Option (Nat × Word) := Sp.get dfltLoHeld s.loHeld k

/-- What an unlisted key of `blkUp` reads as. -/
def dfltBlkUp (_ : Nat) : Bool := false

/-- `blkUp` at a key: by page: start-up has brought the block up (spec/02 R48). -/
def State.blkUpAt (s : State) (k : Nat) : Bool := Sp.get dfltBlkUp s.blkUp k

/-- What an unlisted key of `tblWin` reads as. -/
def dfltTblWin (_ : Nat) : Entry := {}

/-- `tblWin` at a key: by page: the staging words of the table command window (spec/02 TBL_KEY, TBL_DATA, TBL_EXT). -/
def State.tblWinAt (s : State) (k : Nat) : Entry := Sp.get dfltTblWin s.tblWin k

/-- What an unlisted key of `tblOp` reads as. -/
def dfltTblOp (_ : Nat) : Option TblOp := none

/-- `tblOp` at a key: by page: the table operation in progress (spec/02 R77). -/
def State.tblOpAt (s : State) (k : Nat) : Option TblOp := Sp.get dfltTblOp s.tblOp k

/-- What an unlisted key of `commitLate` reads as. -/
def dfltCommitLate (_ : Nat) : Bool := false

/-- `commitLate` at a key: by page: the pending commit waits for the later point its chapter names (spec/02 R67). -/
def State.commitLateAt (s : State) (k : Nat) : Bool := Sp.get dfltCommitLate s.commitLate k

/-- What an unlisted key of `tables` reads as. -/
def dfltTables (k : Nat) : Option Entry := tableReset k

/-- `tables` at a key: table entries by page * 2^28 + table * 2^22 + index; none: not valid or never written (spec/02 R78 and each block's tables). -/
def State.tablesAt (s : State) (k : Nat) : Option Entry := Sp.get dfltTables s.tables k

/-- What an unlisted key of `counters` reads as. -/
def dfltCounters (_ : Nat) : Nat := 0

/-- `counters` at a key: 64-bit counters by family * 2^24 + index (spec/18 R593, R595). -/
def State.countersAt (s : State) (k : Nat) : Nat := Sp.get dfltCounters s.counters k

/-- What an unlisted key of `snapSaved` reads as. -/
def dfltSnapSaved (_ : Nat) : Option Nat := none

/-- `snapSaved` at a key: values saved at the first increment after the snapshot instant, by the same key (spec/18 R600). -/
def State.snapSavedAt (s : State) (k : Nat) : Option Nat := Sp.get dfltSnapSaved s.snapSaved k

/-- What an unlisted key of `cryQueue` reads as. -/
def dfltCryQueue (_ : Nat) : List CryMsg := []

/-- `cryQueue` at a key: by page: the queue of messages towards the collector, 16 at most (spec/17 R576). -/
def State.cryQueueAt (s : State) (k : Nat) : List CryMsg := Sp.get dfltCryQueue s.cryQueue k

/-- What an unlisted key of `cryPend` reads as. -/
def dfltCryPend (_ : Nat) : Option CryMsg := none

/-- `cryPend` at a key: by page * 1024 + kind: a Contained or Degraded message held in its pending flag (spec/17 R576). -/
def State.cryPendAt (s : State) (k : Nat) : Option CryMsg := Sp.get dfltCryPend s.cryPend k

/-- What an unlisted key of `jnlRecent` reads as. -/
def dfltJnlRecent (_ : Nat) : Option JRec := none

/-- `jnlRecent` at a key: on-chip slots by SEQ mod 65536 (spec/20 R659, table RECENT). -/
def State.jnlRecentAt (s : State) (k : Nat) : Option JRec := Sp.get dfltJnlRecent s.jnlRecent k

/-- What an unlisted key of `jnlUnits` reads as. -/
def dfltJnlUnits (_ : Nat) : Option JRec := none

/-- `jnlUnits` at a key: the persisted ring by 256 * unit + position (spec/20 R665, table PERSISTED). -/
def State.jnlUnitsAt (s : State) (k : Nat) : Option JRec := Sp.get dfltJnlUnits s.jnlUnits k

/-- What an unlisted key of `pcieFn` reads as. -/
def dfltPcieFn (_ : Nat) : PcieFn := {}

/-- `pcieFn` at a key: by function (0 PF0, n VF n): the writable configuration bits (spec/13 R461, R463, R482). -/
def State.pcieFnAt (s : State) (k : Nat) : PcieFn := Sp.get dfltPcieFn s.pcieFn k

/-- What an unlisted key of `msix` reads as. -/
def dfltMsix (_ : Nat) : MsixVec := {}

/-- `msix` at a key: by function * 2048 + vector: the MSI-X table entry and its pending bit (spec/13 R482, spec/14 R508). -/
def State.msixAt (s : State) (k : Nat) : MsixVec := Sp.get dfltMsix s.msix k

/-- What an unlisted key of `qpx` reads as. -/
def dfltQpx (_ : Nat) : QpX := {}

/-- `qpx` at a key: by queue pair: doorbells, arming and coalescing (spec/13 R468, R479). -/
def State.qpxAt (s : State) (k : Nat) : QpX := Sp.get dfltQpx s.qpx k

/-- What an unlisted key of `linkX` reads as. -/
def dfltLinkX (_ : Nat) : LinkX := {}

/-- `linkX` at a key: by fabric link: timers, generation forgotten, reach bitmap (spec/09 R339, R342, R343). -/
def State.linkXAt (s : State) (k : Nat) : LinkX := Sp.get dfltLinkX s.linkX k

/-- What an unlisted key of `unreachAt` reads as. -/
def dfltUnreachAt (_ : Nat) : Nat := 0

/-- `unreachAt` at a key: by device ID: the MONO at which it was last found unreachable (spec/09 R357). -/
def State.unreachAtAt (s : State) (k : Nat) : Nat := Sp.get dfltUnreachAt s.unreachAt k

/-- What an unlisted key of `openPage` reads as. -/
def dfltOpenPage (_ : Nat) : Nat := 0

/-- `openPage` at a key: by OPEN index: the source page of the entry (spec/17 R588). -/
def State.openPageAt (s : State) (k : Nat) : Nat := Sp.get dfltOpenPage s.openPage k

/-- What an unlisted key of `poisoned` reads as. -/
def dfltPoisoned (_ : Nat) : Bool := false

/-- `poisoned` at a key: by lookup-SRAM word address: poisoned (spec/16 R559). -/
def State.poisonedAt (s : State) (k : Nat) : Bool := Sp.get dfltPoisoned s.poisoned k

/-- What an unlisted key of `imgUnit` reads as. -/
def dfltImgUnit (_ : Nat) : List Byte := []

/-- `imgUnit` at a key: image bytes by slot * 32768 + unit of 4 KiB; empty: not received (spec/19 R614, R629). -/
def State.imgUnitAt (s : State) (k : Nat) : List Byte := Sp.get dfltImgUnit s.imgUnit k

/-- What an unlisted key of `snapSlot` reads as. -/
def dfltSnapSlot (_ : Nat) : Option SnapRec := none

/-- `snapSlot` at a key: the configuration snapshots of slots 0 and 1 (spec/19 R614, R638). -/
def State.snapSlotAt (s : State) (k : Nat) : Option SnapRec := Sp.get dfltSnapSlot s.snapSlot k

/-- What an unlisted key of `erases` reads as. -/
def dfltErases (_ : Nat) : Nat := 0

/-- `erases` at a key: erases of a block of the store: by area, 0 and 1 of CONTROL, 2 and 3 of PEG, 4 and 5 the image slots, 6 and 7 the snapshots, from 16 the blocks of JOURNAL (spec/19 R614 to R616). -/
def State.erasesAt (s : State) (k : Nat) : Nat := Sp.get dfltErases s.erases k

/-- What an unlisted key of `copyArea` reads as. -/
def dfltCopyArea (_ : Nat) : Nat := 0

/-- `copyArea` at a key: by region, 0 CONTROL and 1 PEG: the area that holds the copy in use (spec/19 R614, R617). -/
def State.copyAreaAt (s : State) (k : Nat) : Nat := Sp.get dfltCopyArea s.copyArea k

/-- What an unlisted key of `coreTag` reads as. -/
def dfltCoreTag (_ : Nat) : Nat := 0

/-- `coreTag` at a key: by physical service core: the tag of the SERVICE section it runs (spec/19 R636). -/
def State.coreTagAt (s : State) (k : Nat) : Nat := Sp.get dfltCoreTag s.coreTag k

/-- What an unlisted key of `cageX` reads as. -/
def dfltCageX (_ : Nat) : CageX := {}

/-- `cageX` at a key: by port: the cage (spec/15 R530 to R535). -/
def State.cageXAt (s : State) (k : Nat) : CageX := Sp.get dfltCageX s.cageX k

/-- What an unlisted key of `pauseUntil` reads as. -/
def dfltPauseUntil (_ : Nat) : Option Nat := none

/-- `pauseUntil` at a key: by port * 8 + TC: MONO at which the partner's pause ends (spec/03 R92). -/
def State.pauseUntilAt (s : State) (k : Nat) : Option Nat := Sp.get dfltPauseUntil s.pauseUntil k

/-- What an unlisted key of `xoff` reads as. -/
def dfltXoff (_ : Nat) : Nat := 0

/-- `xoff` at a key: by port: the traffic classes in XOFF (spec/07 R264, spec/03 R93). -/
def State.xoffAt (s : State) (k : Nat) : Nat := Sp.get dfltXoff s.xoff k

/-- What an unlisted key of `pauseSentAt` reads as. -/
def dfltPauseSentAt (_ : Nat) : Option Nat := none

/-- `pauseSentAt` at a key: by port: MONO of the last PFC or PAUSE frame sent with a pause time (spec/03 R93). -/
def State.pauseSentAtAt (s : State) (k : Nat) : Option Nat := Sp.get dfltPauseSentAt s.pauseSentAt k

/-- What an unlisted key of `pauseQ` reads as. -/
def dfltPauseQ (_ : Nat) : List (Nat × Nat) := []

/-- `pauseQ` at a key: by port: classes and time of pause frames that wait for the frame boundary, oldest first (spec/03 R94). -/
def State.pauseQAt (s : State) (k : Nat) : List (Nat × Nat) := Sp.get dfltPauseQ s.pauseQ k

/-- What an unlisted key of `rxCut` reads as. -/
def dfltRxCut (_ : Nat) : Bool := false

/-- `rxCut` at a key: by port: the link went down during the frame in reception (spec/06 R236). -/
def State.rxCutAt (s : State) (k : Nat) : Bool := Sp.get dfltRxCut s.rxCut k

/-- What an unlisted key of `macSignal` reads as. -/
def dfltMacSignal (_ : Nat) : Nat := 0

/-- `macSignal` at a key: by port: what it transmits in place of frames: 0 nothing, 1 local fault, 2 remote fault (spec/03 R102, R126). -/
def State.macSignalAt (s : State) (k : Nat) : Nat := Sp.get dfltMacSignal s.macSignal k

/-- What an unlisted key of `rpfTx` reads as. -/
def dfltRpfTx (_ : Nat) : Bool := false

/-- `rpfTx` at a key: by group: RPF in the transmitted overhead (spec/03 R126). -/
def State.rpfTxAt (s : State) (k : Nat) : Bool := Sp.get dfltRpfTx s.rpfTx k

/-- What an unlisted key of `ohCrcBad` reads as. -/
def dfltOhCrcBad (_ : Nat) : Nat := 0

/-- `ohCrcBad` at a key: by port * 4 + instance: overhead frames that failed their CRC (spec/03 R110). -/
def State.ohCrcBadAt (s : State) (k : Nat) : Nat := Sp.get dfltOhCrcBad s.ohCrcBad k

/-- What an unlisted key of `xcRefill` reads as. -/
def dfltXcRefill (_ : Nat) : Nat := 0

/-- `xcRefill` at a key: by destination: the local-fault blocks that its next blocks follow, while its rate-adaptation queue refills (spec/03 R121). -/
def State.xcRefillAt (s : State) (k : Nat) : Nat := Sp.get dfltXcRefill s.xcRefill k

/-- What an unlisted key of `flxHeld` reads as. -/
def dfltFlxHeld (_ : Nat) : Option Nat := none

/-- `flxHeld` at a key: by port: the FlexE group that holds it (spec/03 R102). -/
def State.flxHeldAt (s : State) (k : Nat) : Option Nat := Sp.get dfltFlxHeld s.flxHeld k

/-- What an unlisted key of `instX` reads as. -/
def dfltInstX (_ : Nat) : InstX := {}

/-- `instX` at a key: by port * 4 + instance: the FlexE receiver (spec/03 R107 to R110). -/
def State.instXAt (s : State) (k : Nat) : InstX := Sp.get dfltInstX s.instX k

/-- What an unlisted key of `xcAdapt` reads as. -/
def dfltXcAdapt (_ : Nat) : Nat := 0

/-- `xcAdapt` at a key: by destination client: the groups of 29 blocks since an idle block was inserted or deleted, up to 345 (spec/03 R122). -/
def State.xcAdaptAt (s : State) (k : Nat) : Nat := Sp.get dfltXcAdapt s.xcAdapt k

/-- What an unlisted key of `clientFeed` reads as. -/
def dfltClientFeed (_ : Nat) : Nat × Nat := (0, 0)

/-- `clientFeed` at a key: by local client that the cross-connect takes blocks from, 4096 on by switched client without a source: the time of its last 29 blocks in 10^-5 ns (0: none) and their number (spec/03 R21, R116). -/
def State.clientFeedAt (s : State) (k : Nat) : Nat × Nat := Sp.get dfltClientFeed s.clientFeed k

/-- What an unlisted key of `flxEx` reads as. -/
def dfltFlxEx (_ : Nat) : FlxEx := {}

/-- `flxEx` at a key: by group: the calendar exchange (spec/03 R113). -/
def State.flxExAt (s : State) (k : Nat) : FlxEx := Sp.get dfltFlxEx s.flxEx k

/-- What an unlisted key of `pmX` reads as. -/
def dfltPmX (_ : Nat) : PmX := {}

/-- `pmX` at a key: by port, or 64 + client: performance monitoring (spec/03 R128 to R130). -/
def State.pmXAt (s : State) (k : Nat) : PmX := Sp.get dfltPmX s.pmX k

/-- What an unlisted key of `gens` reads as. -/
def dfltGens (_ : Nat) : Nat := 0

/-- `gens` at a key: by 128 * class + logical number: the current generation (spec/16 R561). -/
def State.gensAt (s : State) (k : Nat) : Nat := Sp.get dfltGens s.gens k

/-- What an unlisted key of `genEpoch` reads as. -/
def dfltGenEpoch (_ : Nat) : Nat := 0

/-- `genEpoch` at a key: by 128 * class + logical number: one more than the state epoch in which its last generation was assigned (spec/16 R566). -/
def State.genEpochAt (s : State) (k : Nat) : Nat := Sp.get dfltGenEpoch s.genEpoch k

/-- What an unlisted key of `unitX` reads as. -/
def dfltUnitX (_ : Nat) : UnitX := {}

/-- `unitX` at a key: by 128 * class + physical unit: the test history of a unit (spec/16 R549, R565, R567). -/
def State.unitXAt (s : State) (k : Nat) : UnitX := Sp.get dfltUnitX s.unitX k

/-- What an unlisted key of `recov` reads as. -/
def dfltRecov (_ : Nat) : List Recov := []

/-- `recov` at a key: by class: the recovery in progress and those waiting (spec/16 R569). -/
def State.recovAt (s : State) (k : Nat) : List Recov := Sp.get dfltRecov s.recov k

/-- What an unlisted key of `tcamLoad` reads as. -/
def dfltTcamLoad (_ : Nat) : Option Nat := none

/-- `tcamLoad` at a key: by logical bank: MONO at which a load of its rows from the shadow began (spec/04 R160, R162). -/
def State.tcamLoadAt (s : State) (k : Nat) : Option Nat := Sp.get dfltTcamLoad s.tcamLoad k

/-- What an unlisted key of `tcamMiss` reads as. -/
def dfltTcamMiss (_ : Nat) : Option Nat := none

/-- `tcamMiss` at a key: by 4096 * bank + row: the scrub pass in which the row last mismatched its shadow (spec/04 R159). -/
def State.tcamMissAt (s : State) (k : Nat) : Option Nat := Sp.get dfltTcamMiss s.tcamMiss k

/-- What an unlisted key of `tcFlip` reads as. -/
def dfltTcFlip (_ : Nat) : Nat := 0

/-- `tcFlip` at a key: by 4096 * bank + row: the bits, 160 of value and 160 of mask, in which a TCAM row differs from its shadow (spec/04 R157, R159). -/
def State.tcFlipAt (s : State) (k : Nat) : Nat := Sp.get dfltTcFlip s.tcFlip k

/-- What an unlisted key of `lpmKeys` reads as. -/
def dfltLpmKeys (_ : Nat) : List Nat := []

/-- `lpmKeys` at a key: by family code: the keys added to the length filter in use since it was built, whose bits it has set (spec/05 R189, R192). -/
def State.lpmKeysAt (s : State) (k : Nat) : List Nat := Sp.get dfltLpmKeys s.lpmKeys k

/-- What an unlisted key of `lpmBuild` reads as. -/
def dfltLpmBuild (_ : Nat) : List Nat := []

/-- `lpmBuild` at a key: by family code: the keys in the filter image that a rebuild is building (spec/05 R193). -/
def State.lpmBuildAt (s : State) (k : Nat) : List Nat := Sp.get dfltLpmBuild s.lpmBuild k

/-- What an unlisted key of `lpmDels` reads as. -/
def dfltLpmDels (_ : Nat) : Nat := 0

/-- `lpmDels` at a key: by family code: deletions since the filter was last built (spec/05 R193). -/
def State.lpmDelsAt (s : State) (k : Nat) : Nat := Sp.get dfltLpmDels s.lpmDels k

/-- What an unlisted key of `learnQ` reads as. -/
def dfltLearnQ (_ : Nat) : List LearnEvt := []

/-- `learnQ` at a key: by physical pipeline: the events of its learner, oldest first, 512 at most (spec/05 R210). -/
def State.learnQAt (s : State) (k : Nat) : List LearnEvt := Sp.get dfltLearnQ s.learnQ k

/-- What an unlisted key of `polX` reads as. -/
def dfltPolX (_ : Nat) : PolX := {}

/-- `polX` at a key: by policer: its buckets (spec/08 R313). -/
def State.polXAt (s : State) (k : Nat) : PolX := Sp.get dfltPolX s.polX k

/-- What an unlisted key of `bodies` reads as. -/
def dfltBodies (_ : Nat) : Body := {}

/-- `bodies` at a key: by number: the stored bytes of frames and packets (spec/06 R230, spec/07 R272). -/
def State.bodiesAt (s : State) (k : Nat) : Body := Sp.get dfltBodies s.bodies k

/-- What an unlisted key of `rxNow` reads as. -/
def dfltRxNow (_ : Nat) : Option Nat := none

/-- `rxNow` at a key: by port: the body of the frame that is arriving (spec/06 R230). -/
def State.rxNowAt (s : State) (k : Nat) : Option Nat := Sp.get dfltRxNow s.rxNow k

/-- What an unlisted key of `rxFifo` reads as. -/
def dfltRxFifo (_ : Nat) : List Pkt := []

/-- `rxFifo` at a key: by port: the receive FIFO, oldest first (spec/06 R230). -/
def State.rxFifoAt (s : State) (k : Nat) : List Pkt := Sp.get dfltRxFifo s.rxFifo k

/-- What an unlisted key of `rxXoff` reads as. -/
def dfltRxXoff (_ : Nat) : Bool := false

/-- `rxXoff` at a key: by port: the receive FIFO has its classes in XOFF (spec/06 R232). -/
def State.rxXoffAt (s : State) (k : Nat) : Bool := Sp.get dfltRxXoff s.rxXoff k

/-- What an unlisted key of `inQ` reads as. -/
def dfltInQ (_ : Nat) : List Pkt := []

/-- `inQ` at a key: by logical pipeline: the input queue of its ingress half, 256 at most (spec/06 R230). -/
def State.inQAt (s : State) (k : Nat) : List Pkt := Sp.get dfltInQ s.inQ k

/-- What an unlisted key of `recQ` reads as. -/
def dfltRecQ (_ : Nat) : List (Pkt × Look) := []

/-- `recQ` at a key: by physical pipeline: the recirculation queue, 64 at most (spec/06 R243). -/
def State.recQAt (s : State) (k : Nat) : List (Pkt × Look) := Sp.get dfltRecQ s.recQ k

/-- What an unlisted key of `slotX` reads as. -/
def dfltSlotX (_ : Nat) : Nat × Nat := (0, 0)

/-- `slotX` at a key: by physical pipeline: slots of the present 16 used, and those recirculated passes took (spec/06 R243). -/
def State.slotXAt (s : State) (k : Nat) : Nat × Nat := Sp.get dfltSlotX s.slotX k

/-- What an unlisted key of `upQ` reads as. -/
def dfltUpQ (_ : Nat) : List Pkt := []

/-- `upQ` at a key: by physical pipeline: packets that wait to cross to the TM die (spec/06 R235). -/
def State.upQAt (s : State) (k : Nat) : List Pkt := Sp.get dfltUpQ s.upQ k

/-- What an unlisted key of `egQ` reads as. -/
def dfltEgQ (_ : Nat) : List Pkt := []

/-- `egQ` at a key: by physical pipeline: packets that wait for the egress half, 256 at most (spec/06 R233). -/
def State.egQAt (s : State) (k : Nat) : List Pkt := Sp.get dfltEgQ s.egQ k

/-- What an unlisted key of `txGive` reads as. -/
def dfltTxGive (_ : Nat) : Nat := 0

/-- `txGive` at a key: by port: the next transmit sequence the TM die gives (spec/06 R233). -/
def State.txGiveAt (s : State) (k : Nat) : Nat := Sp.get dfltTxGive s.txGive k

/-- What an unlisted key of `txExp` reads as. -/
def dfltTxExp (_ : Nat) : Nat := 0

/-- `txExp` at a key: by port: the transmit sequence its transmit stage releases next (spec/06 R233). -/
def State.txExpAt (s : State) (k : Nat) : Nat := Sp.get dfltTxExp s.txExp k

/-- What an unlisted key of `txHold` reads as. -/
def dfltTxHold (_ : Nat) : List Pkt := []

/-- `txHold` at a key: by port: packets from the egress halves, held for sequence order (spec/06 R233). -/
def State.txHoldAt (s : State) (k : Nat) : List Pkt := Sp.get dfltTxHold s.txHold k

/-- What an unlisted key of `macQ` reads as. -/
def dfltMacQ (_ : Nat) : List Pkt := []

/-- `macQ` at a key: by port: packets released to the MAC (spec/06 R233, R239). -/
def State.macQAt (s : State) (k : Nat) : List Pkt := Sp.get dfltMacQ s.macQ k

/-- What an unlisted key of `txNow` reads as. -/
def dfltTxNow (_ : Nat) : Option Pkt := none

/-- `txNow` at a key: by port: the packet whose frame has begun and whose tail is still to come (spec/06 R238, R239). -/
def State.txNowAt (s : State) (k : Nat) : Option Pkt := Sp.get dfltTxNow s.txNow k

/-- What an unlisted key of `bucketPend` reads as. -/
def dfltBucketPend (_ : Nat) : Option Nat := none

/-- `bucketPend` at a key: by bucket: the logical number that waits for the bucket to drain (spec/06 R226, R227). -/
def State.bucketPendAt (s : State) (k : Nat) : Option Nat := Sp.get dfltBucketPend s.bucketPend k

/-- What an unlisted key of `bucketLoad` reads as. -/
def dfltBucketLoad (_ : Nat) : Nat := 0

/-- `bucketLoad` at a key: by bucket: packets since the last rebalancing (spec/06 R227). -/
def State.bucketLoadAt (s : State) (k : Nat) : Nat := Sp.get dfltBucketLoad s.bucketLoad k

/-- What an unlisted key of `smpSel` reads as. -/
def dfltSmpSel (_ : Nat) : Nat := 0

/-- `smpSel` at a key: by 64 * (17 * half + physical pipeline) + instance: packets since the last selection (spec/06 R246). -/
def State.smpSelAt (s : State) (k : Nat) : Nat := Sp.get dfltSmpSel s.smpSel k

/-- What an unlisted key of `smpSeq` reads as. -/
def dfltSmpSeq (_ : Nat) : Nat := 0

/-- `smpSeq` at a key: by instance: its copy count (spec/06 R249). -/
def State.smpSeqAt (s : State) (k : Nat) : Nat := Sp.get dfltSmpSeq s.smpSeq k

/-- What an unlisted key of `smpMs` reads as. -/
def dfltSmpMs (_ : Nat) : Nat × Nat := (0, 0)

/-- `smpMs` at a key: by instance: the millisecond of device time of its last copies, and how many (spec/06 R249). -/
def State.smpMsAt (s : State) (k : Nat) : Nat × Nat := Sp.get dfltSmpMs s.smpMs k

/-- What an unlisted key of `stg` reads as. -/
def dfltStg (_ : Nat) : List Pkt := []

/-- `stg` at a key: by destination device * 2^19 + queue: unicast packets in ingress staging, oldest first (spec/07 R261, spec/09 R349). -/
def State.stgAt (s : State) (k : Nat) : List Pkt := Sp.get dfltStg s.stg k

/-- What an unlisted key of `stgUse` reads as. -/
def dfltStgUse (_ : Nat) : Nat := 0

/-- `stgUse` at a key: by 8 * port + TC (ports 48 to 50 switch-core inputs): staging bytes (spec/07 R260). -/
def State.stgUseAt (s : State) (k : Nat) : Nat := Sp.get dfltStgUse s.stgUse k

/-- What an unlisted key of `qx` reads as. -/
def dfltQx (_ : Nat) : QX := {}

/-- `qx` at a key: by queue: its packets in three tiers (spec/07 R264). -/
def State.qxAt (s : State) (k : Nat) : QX := Sp.get dfltQx s.qx k

/-- What an unlisted key of `shpX` reads as. -/
def dfltShpX (_ : Nat) : ShpX := {}

/-- `shpX` at a key: by level * 2^20 + node: buckets, wheel slots and virtual times (spec/08 R304, R307, R311). -/
def State.shpXAt (s : State) (k : Nat) : ShpX := Sp.get dfltShpX s.shpX k

/-- What an unlisted key of `mill` reads as. -/
def dfltMill (_ : Nat) : MillX := {}

/-- `mill` at a key: by level * 2^20 + node: mill-wheel pacing of the node (spec/08 R310, R312). -/
def State.millAt (s : State) (k : Nat) : MillX := Sp.get dfltMill s.mill k

/-- What an unlisted key of `poolUse` reads as. -/
def dfltPoolUse (_ : Nat) : Nat := 0

/-- `poolUse` at a key: by 8 * tier + pool: buffers in use (spec/07 R253). -/
def State.poolUseAt (s : State) (k : Nat) : Nat := Sp.get dfltPoolUse s.poolUse k

/-- What an unlisted key of `reqUse` reads as. -/
def dfltReqUse (_ : Nat) : Nat := 0

/-- `reqUse` at a key: by 128 * tier + requester: buffer bytes charged (spec/07 R257). -/
def State.reqUseAt (s : State) (k : Nat) : Nat := Sp.get dfltReqUse s.reqUse k

/-- What an unlisted key of `reqResv` reads as. -/
def dfltReqResv (_ : Nat) : Nat := 0

/-- `reqResv` at a key: by requester: tier-1 bytes held by reservations (spec/07 R259). -/
def State.reqResvAt (s : State) (k : Nat) : Nat := Sp.get dfltReqResv s.reqResv k

/-- What an unlisted key of `reqs` reads as. -/
def dfltReqs (_ : Nat) : Option ReqOut := none

/-- `reqs` at a key: by destination device * 65536 + REQ_SEQ: this device's open REQs (spec/09 R350). -/
def State.reqsAt (s : State) (k : Nat) : Option ReqOut := Sp.get dfltReqs s.reqs k

/-- What an unlisted key of `reqNext` reads as. -/
def dfltReqNext (_ : Nat) : Nat := 0

/-- `reqNext` at a key: by destination device: the next REQ_SEQ (spec/09 R350). -/
def State.reqNextAt (s : State) (k : Nat) : Nat := Sp.get dfltReqNext s.reqNext k

/-- What an unlisted key of `recs` reads as. -/
def dfltRecs (_ : Nat) : Option GrantRec := none

/-- `recs` at a key: by source device * 65536 + REQ_SEQ: records of received REQs (spec/09 R352). -/
def State.recsAt (s : State) (k : Nat) : Option GrantRec := Sp.get dfltRecs s.recs k

/-- What an unlisted key of `srcEpoch` reads as. -/
def dfltSrcEpoch (_ : Nat) : Option Nat := none

/-- `srcEpoch` at a key: by source device: the EPOCH last seen (spec/09 R356). -/
def State.srcEpochAt (s : State) (k : Nat) : Option Nat := Sp.get dfltSrcEpoch s.srcEpoch k

/-- What an unlisted key of `privUse` reads as. -/
def dfltPrivUse (_ : Nat) : Nat × Nat := (0, 0)

/-- `privUse` at a key: by link: a frame of 64 cell times, and the bytes of privileged and SLOT cells sent in it (spec/09 R369). -/
def State.privUseAt (s : State) (k : Nat) : Nat × Nat := Sp.get dfltPrivUse s.privUse k

/-- What an unlisted key of `privWait` reads as. -/
def dfltPrivWait (_ : Nat) : List XbCell := []

/-- `privWait` at a key: by link: privileged and SLOT cells that wait for a share of a later frame (spec/09 R369, R371). -/
def State.privWaitAt (s : State) (k : Nat) : List XbCell := Sp.get dfltPrivWait s.privWait k

/-- What an unlisted key of `slotTx` reads as. -/
def dfltSlotTx (_ : Nat) : Nat := 0

/-- `slotTx` at a key: by transmit channel: the time at which its last cell was due, in 10^-5 ns (0: not sending) (spec/09 R372). -/
def State.slotTxAt (s : State) (k : Nat) : Nat := Sp.get dfltSlotTx s.slotTx k

/-- What an unlisted key of `cellSeq` reads as. -/
def dfltCellSeq (_ : Nat) : Nat := 0

/-- `cellSeq` at a key: by stream (device; 1024 + device privileged; 2048 multicast; 8192 + channel): the next CELL_SEQ (spec/09 R345). -/
def State.cellSeqAt (s : State) (k : Nat) : Nat := Sp.get dfltCellSeq s.cellSeq k

/-- What an unlisted key of `sprayAt` reads as. -/
def dfltSprayAt (_ : Nat) : Nat := 0

/-- `sprayAt` at a key: by stream: the link after the last one used (spec/09 R344). -/
def State.sprayAtAt (s : State) (k : Nat) : Nat := Sp.get dfltSprayAt s.sprayAt k

/-- What an unlisted key of `cellOpen` reads as. -/
def dfltCellOpen (_ : Nat) : List (Pkt × Nat × Nat) := []

/-- `cellOpen` at a key: by stream: packets whose cells are being sent, with the bytes sent and the REQ_SEQ (spec/09 R348). -/
def State.cellOpenAt (s : State) (k : Nat) : List (Pkt × Nat × Nat) := Sp.get dfltCellOpen s.cellOpen k

/-- What an unlisted key of `rxStr` reads as. -/
def dfltRxStr (_ : Nat) : RxStream := {}

/-- `rxStr` at a key: by source device * 8192 + stream (0 unicast, 1 privileged, 2 multicast, 4096 + channel): the receive stream (spec/09 R345, R346). -/
def State.rxStrAt (s : State) (k : Nat) : RxStream := Sp.get dfltRxStr s.rxStr k

/-- What an unlisted key of `mcOut` reads as. -/
def dfltMcOut (_ : Nat) : Nat := 0

/-- `mcOut` at a key: by member device: window bytes outstanding (spec/09 R375). -/
def State.mcOutAt (s : State) (k : Nat) : Nat := Sp.get dfltMcOut s.mcOut k

/-- What an unlisted key of `mcOwed` reads as. -/
def dfltMcOwed (_ : Nat) : List Nat := []

/-- `mcOwed` at a key: by source device: landed amounts whose re-reservation is still to pass, oldest first (spec/09 R376). -/
def State.mcOwedAt (s : State) (k : Nat) : List Nat := Sp.get dfltMcOwed s.mcOwed k

/-- What an unlisted key of `slotBuf` reads as. -/
def dfltSlotBuf (_ : Nat) : List (Nat × List Nat) := []

/-- `slotBuf` at a key: by receive channel: SLOT payloads in the jitter buffer with their arrival MONO (spec/09 R373). -/
def State.slotBufAt (s : State) (k : Nat) : List (Nat × List Nat) := Sp.get dfltSlotBuf s.slotBuf k

/-- What an unlisted key of `gateX` reads as. -/
def dfltGateX (_ : Nat) : GateX := {}

/-- `gateX` at a key: by network port: the gate controller (spec/08 R318, R325). -/
def State.gateXAt (s : State) (k : Nat) : GateX := Sp.get dfltGateX s.gateX k

/-- What an unlisted key of `slotPlay` reads as. -/
def dfltSlotPlay (_ : Nat) : Option Nat × Nat × Nat := (none, 0, 0)

/-- `slotPlay` at a key: by receive channel: MONO at which its play-out began, payloads played since, blocks starved in a row (spec/09 R373). -/
def State.slotPlayAt (s : State) (k : Nat) : Option Nat × Nat × Nat := Sp.get dfltSlotPlay s.slotPlay k

/-- What an unlisted key of `hostQ` reads as. -/
def dfltHostQ (_ : Nat) : List HostRec := []

/-- `hostQ` at a key: by queue pair: records that wait for the DMA engine, oldest first (spec/13 R475). -/
def State.hostQAt (s : State) (k : Nat) : List HostRec := Sp.get dfltHostQ s.hostQ k

/-- What an unlisted key of `bufs` reads as. -/
def dfltBufs (_ : Nat) : Buf := {}

/-- `bufs` at a key: by number: tier-1 buffers in use (spec/07 R253, R272). -/
def State.bufsAt (s : State) (k : Nat) : Buf := Sp.get dfltBufs s.bufs k

/-- What an unlisted key of `stgXoff` reads as. -/
def dfltStgXoff (_ : Nat) : Nat := 0

/-- `stgXoff` at a key: by port: classes whose own staging use holds them in XOFF (spec/07 R262). -/
def State.stgXoffAt (s : State) (k : Nat) : Nat := Sp.get dfltStgXoff s.stgXoff k

/-- What an unlisted key of `memX` reads as. -/
def dfltMemX (_ : Nat) : MemX := {}

/-- `memX` at a key: by memory target (stacks 0 to 3, channels 4 to 19): what its controller keeps (spec/10 R382 to R414). -/
def State.memXAt (s : State) (k : Nat) : MemX := Sp.get dfltMemX s.memX k

/-- What an unlisted key of `actTab` reads as. -/
def dfltActTab (_ : Nat) : ActTab := {}

/-- `actTab` at a key: by 65536 * memory target + bank: the activate counts (spec/10 R405, R407). -/
def State.actTabAt (s : State) (k : Nat) : ActTab := Sp.get dfltActTab s.actTab k

/-- What an unlisted key of `openRow` reads as. -/
def dfltOpenRow (_ : Nat) : Option OpenRow := none

/-- `openRow` at a key: by 65536 * target + 256 * (pseudo-channel or rank) + bank: the row that stays open (spec/10 R397). -/
def State.openRowAt (s : State) (k : Nat) : Option OpenRow := Sp.get dfltOpenRow s.openRow k

/-- What an unlisted key of `bfdX` reads as. -/
def dfltBfdX (_ : Nat) : BfdX := {}

/-- `bfdX` at a key: by session: the engine's timers and what the remote end sent (spec/12 R445 to R447). -/
def State.bfdXAt (s : State) (k : Nat) : BfdX := Sp.get dfltBfdX s.bfdX k

/-- What an unlisted key of `mepX` reads as. -/
def dfltMepX (_ : Nat) : MepX := {}

/-- `mepX` at a key: by MEP: its timers (spec/12 R448, R449). -/
def State.mepXAt (s : State) (k : Nat) : MepX := Sp.get dfltMepX s.mepX k

/-- What an unlisted key of `flowX` reads as. -/
def dfltFlowX (_ : Nat) : FlowX := {}

/-- `flowX` at a key: by flow: its store (spec/12 R450 to R453). -/
def State.flowXAt (s : State) (k : Nat) : FlowX := Sp.get dfltFlowX s.flowX k

/-- What an unlisted key of `mergeX` reads as. -/
def dfltMergeX (_ : Nat) : MergeX := {}

/-- `mergeX` at a key: by merge group: its map and legs (spec/12 R455, R456). -/
def State.mergeXAt (s : State) (k : Nat) : MergeX := Sp.get dfltMergeX s.mergeX k

/-- What an unlisted key of `recX` reads as. -/
def dfltRecX (_ : Nat) : RecX := {}

/-- `recX` at a key: by recorder: its records (spec/12 R457 to R459). -/
def State.recXAt (s : State) (k : Nat) : RecX := Sp.get dfltRecX s.recX k

/-- What an unlisted key of `svcQ` reads as. -/
def dfltSvcQ (_ : Nat) : List Pkt := []

/-- `svcQ` at a key: by logical service core: packets that port 49 has released and a core has not finished with (spec/12 R439). -/
def State.svcQAt (s : State) (k : Nat) : List Pkt := Sp.get dfltSvcQ s.svcQ k

/-- What an unlisted key of `vinst` reads as. -/
def dfltVinst (_ : Nat) : VInst := {}

/-- `vinst` at a key: by instance: its meter and the progress of a quiesce or reset (spec/14 R504, R507, R509). -/
def State.vinstAt (s : State) (k : Nat) : VInst := Sp.get dfltVinst s.vinst k

/-- What an unlisted key of `dieRx` reads as. -/
def dfltDieRx (_ : Nat) : FlitRx := {}

/-- `dieRx` at a key: by receiving die: the link sequence number delivered next and the flits that wait behind a gap (spec/01 R15, R16). -/
def State.dieRxAt (s : State) (k : Nat) : FlitRx := Sp.get dfltDieRx s.dieRx k

/-- What an unlisted key of `dieTx` reads as. -/
def dfltDieTx (_ : Nat) : FlitTx := {}

/-- `dieTx` at a key: by sending die: the next link sequence number and the replay buffer (spec/01 R15, R16). -/
def State.dieTxAt (s : State) (k : Nat) : FlitTx := Sp.get dfltDieTx s.dieTx k

/-- What an unlisted key of `dieQ` reads as. -/
def dfltDieQ (_ : Nat) : List DieReq := []

/-- `dieQ` at a key: by source: requests not yet executed, oldest first; those beyond the source's receive buffers wait in its transmit queue (spec/01 R29, R30, R33). -/
def State.dieQAt (s : State) (k : Nat) : List DieReq := Sp.get dfltDieQ s.dieQ k

/-- What an unlisted key of `tmMem` reads as. -/
def dfltTmMem (_ : Nat) : Word := 0

/-- `tmMem` at a key: by word address: TM-die memory that FE-die sources write across the link (spec/01 R32). -/
def State.tmMemAt (s : State) (k : Nat) : Word := Sp.get dfltTmMem s.tmMem k

/-- What an unlisted key of `dieRead` reads as. -/
def dfltDieRead (_ : Nat) : List DieReq := []

/-- `dieRead` at a key: by source: executed reads, with the data read, whose response has not arrived, oldest first (spec/01 R31). -/
def State.dieReadAt (s : State) (k : Nat) : List DieReq := Sp.get dfltDieRead s.dieRead k

/-- What an unlisted key of `dieLost` reads as. -/
def dfltDieLost (_ : Nat) : Nat := 0

/-- `dieLost` at a key: by source: writes lost with the die-to-die link (spec/01 R36). -/
def State.dieLostAt (s : State) (k : Nat) : Nat := Sp.get dfltDieLost s.dieLost k

/-- What an unlisted key of `modRetry` reads as. -/
def dfltModRetry (_ : Nat) : List Nat := []

/-- `modRetry` at a key: by UCIe module: MONO of the retries of the last millisecond (spec/16 R556). -/
def State.modRetryAt (s : State) (k : Nat) : List Nat := Sp.get dfltModRetry s.modRetry k

/-- What an unlisted key of `modRetries` reads as. -/
def dfltModRetries (_ : Nat) : Nat := 0

/-- `modRetries` at a key: by UCIe module: retries counted (spec/01 R16). -/
def State.modRetriesAt (s : State) (k : Nat) : Nat := Sp.get dfltModRetries s.modRetries k

/-- What an unlisted key of `scarf` reads as. -/
def dfltScarf (_ : Nat) : Scarf := {}

/-- `scarf` at a key: by 128 * class + logical number: the image of the unit that holds it (spec/16 R553, R554). -/
def State.scarfAt (s : State) (k : Nat) : Scarf := Sp.get dfltScarf s.scarf k

/-- What an unlisted key of `ptpSeq` reads as. -/
def dfltPtpSeq (_ : Nat) : Nat := 0

/-- `ptpSeq` at a key: by port * 16 + message type: the sequence number of the next message the service cores send (spec/11 R431). -/
def State.ptpSeqAt (s : State) (k : Nat) : Nat := Sp.get dfltPtpSeq s.ptpSeq k

/-- What an unlisted key of `startVal` reads as. -/
def dfltStartVal (_ : Nat) : Option Word := none

/-- `startVal` at a key: by register key: the value that start-up wrote (spec/02 R690). -/
def State.startValAt (s : State) (k : Nat) : Option Word := Sp.get dfltStartVal s.startVal k

/-- What an unlisted key of `dirty` reads as. -/
def dfltDirty (_ : Nat) : List (Nat × Nat) := []

/-- `dirty` at a key: by page: the shadowed registers written since its last accepted commit, with their writers (spec/02 R51). -/
def State.dirtyAt (s : State) (k : Nat) : List (Nat × Nat) := Sp.get dfltDirty s.dirty k

/-- What an unlisted key of `stgDrops` reads as. -/
def dfltStgDrops (_ : Nat) : Nat := 0

/-- `stgDrops` at a key: by 256 * input + reason: packets dropped in staging (spec/07 R261, R700). -/
def State.stgDropsAt (s : State) (k : Nat) : Nat := Sp.get dfltStgDrops s.stgDrops k

/-- What an unlisted key of `chanErrs` reads as. -/
def dfltChanErrs (_ : Nat) : Nat := 0

/-- `chanErrs` at a key: by receive channel: SLOT cells of another device (spec/09 R373). -/
def State.chanErrsAt (s : State) (k : Nat) : Nat := Sp.get dfltChanErrs s.chanErrs k

/-- What an unlisted key of `normWait` reads as. -/
def dfltNormWait (_ : Nat) : List XbCell := []

/-- `normWait` at a key: by fabric link: normal cells that wait in its transmit queue (spec/09 R341). -/
def State.normWaitAt (s : State) (k : Nat) : List XbCell := Sp.get dfltNormWait s.normWait k

/-- What an unlisted key of `normUse` reads as. -/
def dfltNormUse (_ : Nat) : Nat × Nat := (0, 0)

/-- `normUse` at a key: by fabric link: its running frame and the bytes of normal cells sent in it (spec/09 R369). -/
def State.normUseAt (s : State) (k : Nat) : Nat × Nat := Sp.get dfltNormUse s.normUse k

/-- What a power-on reset or RESET_N leaves (R516): the reset values, with the always-on and backup domains, the nonvolatile store, the levels on the pins and the
registers named, and the commands that wait. -/
def State.restarted (s : State) (keep : List Nat) : State :=
  { State.reset with
    pending := s.pending, fresh := s.fresh, emitted := s.emitted, fatalLatch := s.fatalLatch, fatalQ := s.fatalQ, rtcNs := s.rtcNs, bkpOver := s.bkpOver, sealFails := s.sealFails, sealPasses := s.sealPasses, supVin12 := s.supVin12, supVsb33 := s.supVsb33, ctl := s.ctl, imgUnit := s.imgUnit, erases := s.erases, copyArea := s.copyArea, snapSlot := s.snapSlot, pegStore := s.pegStore, jnlUnits := s.jnlUnits, jnlUnit := s.jnlUnit, perstLow := s.perstLow, resetLow := s.resetLow, slotPins := s.slotPins, refclk := s.refclk, latchDue := s.latchDue,
    regs := s.regs.filter (fun kv => keep.contains kv.1) }

/-- The part of what the model itself keeps: emissions of the present step and the count of free values (not the spec's) after one write. -/
def ModelAct.apply (s : ModelPart) : ModelAct → ModelPart
  | .emitted v => { s with emitted := v }
  | .fresh v => { s with fresh := v }
  | .supVin12 v => { s with supVin12 := v }
  | .supVsb33 v => { s with supVsb33 := v }

/-- The part of the die-to-die link after one write. -/
def DieAct.apply (s : DiePart) : DieAct → DiePart
  | .dieRx k v => { s with dieRx := Sp.set dfltDieRx s.dieRx k v }
  | .dieTx k v => { s with dieTx := Sp.set dfltDieTx s.dieTx k v }
  | .dieQ k v => { s with dieQ := Sp.set dfltDieQ s.dieQ k v }
  | .tmMem k v => { s with tmMem := Sp.set dfltTmMem s.tmMem k v }
  | .dieRead k v => { s with dieRead := Sp.set dfltDieRead s.dieRead k v }
  | .dieLost k v => { s with dieLost := Sp.set dfltDieLost s.dieLost k v }
  | .modRetries k v => { s with modRetries := Sp.set dfltModRetries s.modRetries k v }
  | .dieDownAt v => { s with dieDownAt := v }

/-- The part of register pages and table command windows after one write. -/
def PageAct.apply (s : PagePart) : PageAct → PagePart
  | .regs k v => { s with regs := Sp.set dfltRegs s.regs k v }
  | .units k v => { s with units := Sp.set dfltUnits s.units k v }
  | .before k v => { s with before := Sp.set dfltBefore s.before k v }
  | .frozen k v => { s with frozen := Sp.set dfltFrozen s.frozen k v }
  | .hiLatch k v => { s with hiLatch := Sp.set dfltHiLatch s.hiLatch k v }
  | .loHeld k v => { s with loHeld := Sp.set dfltLoHeld s.loHeld k v }
  | .blkUp k v => { s with blkUp := Sp.set dfltBlkUp s.blkUp k v }
  | .tblWin k v => { s with tblWin := Sp.set dfltTblWin s.tblWin k v }
  | .tblOp k v => { s with tblOp := Sp.set dfltTblOp s.tblOp k v }
  | .commitLate k v => { s with commitLate := Sp.set dfltCommitLate s.commitLate k v }
  | .tables k v => { s with tables := Sp.set dfltTables s.tables k v }
  | .startVal k v => { s with startVal := Sp.set dfltStartVal s.startVal k v }
  | .dirty k v => { s with dirty := Sp.set dfltDirty s.dirty k v }

/-- The part of ports, cages, FlexE and the cross-connect after one write. -/
def PortAct.apply (s : PortPart) : PortAct → PortPart
  | .pauseUntil k v => { s with pauseUntil := Sp.set dfltPauseUntil s.pauseUntil k v }
  | .pauseSentAt k v => { s with pauseSentAt := Sp.set dfltPauseSentAt s.pauseSentAt k v }
  | .pauseQ k v => { s with pauseQ := Sp.set dfltPauseQ s.pauseQ k v }
  | .macSignal k v => { s with macSignal := Sp.set dfltMacSignal s.macSignal k v }
  | .rpfTx k v => { s with rpfTx := Sp.set dfltRpfTx s.rpfTx k v }
  | .ohCrcBad k v => { s with ohCrcBad := Sp.set dfltOhCrcBad s.ohCrcBad k v }
  | .xcRefill k v => { s with xcRefill := Sp.set dfltXcRefill s.xcRefill k v }
  | .flxHeld k v => { s with flxHeld := Sp.set dfltFlxHeld s.flxHeld k v }
  | .instX k v => { s with instX := Sp.set dfltInstX s.instX k v }
  | .xcAdapt k v => { s with xcAdapt := Sp.set dfltXcAdapt s.xcAdapt k v }
  | .clientFeed k v => { s with clientFeed := Sp.set dfltClientFeed s.clientFeed k v }
  | .flxEx k v => { s with flxEx := Sp.set dfltFlxEx s.flxEx k v }
  | .xcArm v => { s with xcArm := v }
  | .xcCopyAt v => { s with xcCopyAt := v }
  | .pmX k v => { s with pmX := Sp.set dfltPmX s.pmX k v }

/-- The part of classification and forwarding tables after one write.  A bounded FIFO never grows past its room. -/
def LookAct.apply (s : LookPart) : LookAct → LookPart
  | .tcamLoad k v => { s with tcamLoad := Sp.set dfltTcamLoad s.tcamLoad k v }
  | .tcamMiss k v => { s with tcamMiss := Sp.set dfltTcamMiss s.tcamMiss k v }
  | .tcFlip k v => { s with tcFlip := Sp.set dfltTcFlip s.tcFlip k v }
  | .scrubRow v => { s with scrubRow := v }
  | .scrubAt v => { s with scrubAt := v }
  | .lpmKeys k v => { s with lpmKeys := Sp.set dfltLpmKeys s.lpmKeys k v }
  | .lpmBuild k v => { s with lpmBuild := Sp.set dfltLpmBuild s.lpmBuild k v }
  | .lpmDels k v => { s with lpmDels := Sp.set dfltLpmDels s.lpmDels k v }
  | .learnQ k v => { s with learnQ := Sp.set dfltLearnQ s.learnQ k v }
  | .sweepPos v => { s with sweepPos := v }
  | .sweepAt v => { s with sweepAt := v }
  | .l2bNtf v => { s with l2bNtf := v.take 4096 }

/-- The part of pipelines, samplers and egress after one write. -/
def PipeAct.apply (s : PipePart) : PipeAct → PipePart
  | .rxCut k v => { s with rxCut := Sp.set dfltRxCut s.rxCut k v }
  | .bodies k v => { s with bodies := Sp.set dfltBodies s.bodies k v }
  | .bodyNext v => { s with bodyNext := v }
  | .rxNow k v => { s with rxNow := Sp.set dfltRxNow s.rxNow k v }
  | .rxFifo k v => { s with rxFifo := Sp.set dfltRxFifo s.rxFifo k v }
  | .rxXoff k v => { s with rxXoff := Sp.set dfltRxXoff s.rxXoff k v }
  | .inQ k v => { s with inQ := Sp.set dfltInQ s.inQ k v }
  | .recQ k v => { s with recQ := Sp.set dfltRecQ s.recQ k v }
  | .slotX k v => { s with slotX := Sp.set dfltSlotX s.slotX k v }
  | .upQ k v => { s with upQ := Sp.set dfltUpQ s.upQ k v }
  | .egQ k v => { s with egQ := Sp.set dfltEgQ s.egQ k v }
  | .txGive k v => { s with txGive := Sp.set dfltTxGive s.txGive k v }
  | .txExp k v => { s with txExp := Sp.set dfltTxExp s.txExp k v }
  | .txHold k v => { s with txHold := Sp.set dfltTxHold s.txHold k v }
  | .macQ k v => { s with macQ := Sp.set dfltMacQ s.macQ k v }
  | .txNow k v => { s with txNow := Sp.set dfltTxNow s.txNow k v }
  | .bucketPend k v => { s with bucketPend := Sp.set dfltBucketPend s.bucketPend k v }
  | .rebalAt v => { s with rebalAt := v }
  | .bucketLoad k v => { s with bucketLoad := Sp.set dfltBucketLoad s.bucketLoad k v }
  | .smpSel k v => { s with smpSel := Sp.set dfltSmpSel s.smpSel k v }
  | .smpSeq k v => { s with smpSeq := Sp.set dfltSmpSeq s.smpSeq k v }
  | .smpMs k v => { s with smpMs := Sp.set dfltSmpMs s.smpMs k v }

/-- The part of buffers and queues of packets after one write. -/
def BufferAct.apply (s : BufferPart) : BufferAct → BufferPart
  | .xoff k v => { s with xoff := Sp.set dfltXoff s.xoff k v }
  | .stg k v => { s with stg := Sp.set dfltStg s.stg k v }
  | .stgUse k v => { s with stgUse := Sp.set dfltStgUse s.stgUse k v }
  | .stgGlobal v => { s with stgGlobal := v }
  | .qx k v => { s with qx := Sp.set dfltQx s.qx k v }
  | .poolUse k v => { s with poolUse := Sp.set dfltPoolUse s.poolUse k v }
  | .reqUse k v => { s with reqUse := Sp.set dfltReqUse s.reqUse k v }
  | .reqResv k v => { s with reqResv := Sp.set dfltReqResv s.reqResv k v }
  | .tagNext v => { s with tagNext := v }
  | .twins v => { s with twins := v }
  | .segNext v => { s with segNext := v }
  | .bufs k v => { s with bufs := Sp.set dfltBufs s.bufs k v }
  | .bufNext v => { s with bufNext := v }
  | .stgXoff k v => { s with stgXoff := Sp.set dfltStgXoff s.stgXoff k v }
  | .tier2On v => { s with tier2On := v }
  | .tier2Rebuild v => { s with tier2Rebuild := v }
  | .freeAges v => { s with freeAges := v }
  | .hbmIn v => { s with hbmIn := v }
  | .hbmOut v => { s with hbmOut := v }
  | .grnIn v => { s with grnIn := v }
  | .grnOut v => { s with grnOut := v }
  | .grnDemand v => { s with grnDemand := v }
  | .stgDrops k v => { s with stgDrops := Sp.set dfltStgDrops s.stgDrops k v }
  | .starves v => { s with starves := v }

/-- The part of scheduling, shaping, policing and gates after one write. -/
def SchedAct.apply (s : SchedPart) : SchedAct → SchedPart
  | .polX k v => { s with polX := Sp.set dfltPolX s.polX k v }
  | .shpX k v => { s with shpX := Sp.set dfltShpX s.shpX k v }
  | .shpBase v => { s with shpBase := v }
  | .mill k v => { s with mill := Sp.set dfltMill s.mill k v }
  | .millAll v => { s with millAll := v }
  | .flushing v => { s with flushing := v }
  | .rptX v => { s with rptX := v }
  | .gateX k v => { s with gateX := Sp.set dfltGateX s.gateX k v }

/-- The part of the fabric after one write. -/
def FabricAct.apply (s : FabricPart) : FabricAct → FabricPart
  | .linkX k v => { s with linkX := Sp.set dfltLinkX s.linkX k v }
  | .unreachAt k v => { s with unreachAt := Sp.set dfltUnreachAt s.unreachAt k v }
  | .dupIdAt v => { s with dupIdAt := v }
  | .stgMc v => { s with stgMc := v }
  | .reqs k v => { s with reqs := Sp.set dfltReqs s.reqs k v }
  | .reqNext k v => { s with reqNext := Sp.set dfltReqNext s.reqNext k v }
  | .recs k v => { s with recs := Sp.set dfltRecs s.recs k v }
  | .srcEpoch k v => { s with srcEpoch := Sp.set dfltSrcEpoch s.srcEpoch k v }
  | .xbWait v => { s with xbWait := v }
  | .xbT v => { s with xbT := v }
  | .xbGrant v => { s with xbGrant := v }
  | .xbAccept v => { s with xbAccept := v }
  | .privUse k v => { s with privUse := Sp.set dfltPrivUse s.privUse k v }
  | .privWait k v => { s with privWait := Sp.set dfltPrivWait s.privWait k v }
  | .slotTx k v => { s with slotTx := Sp.set dfltSlotTx s.slotTx k v }
  | .cellSeq k v => { s with cellSeq := Sp.set dfltCellSeq s.cellSeq k v }
  | .sprayAt k v => { s with sprayAt := Sp.set dfltSprayAt s.sprayAt k v }
  | .cellOpen k v => { s with cellOpen := Sp.set dfltCellOpen s.cellOpen k v }
  | .rxStr k v => { s with rxStr := Sp.set dfltRxStr s.rxStr k v }
  | .mcOut k v => { s with mcOut := Sp.set dfltMcOut s.mcOut k v }
  | .mcOwed k v => { s with mcOwed := Sp.set dfltMcOwed s.mcOwed k v }
  | .slotBuf k v => { s with slotBuf := Sp.set dfltSlotBuf s.slotBuf k v }
  | .slotPlay k v => { s with slotPlay := Sp.set dfltSlotPlay s.slotPlay k v }
  | .xbMoved v => { s with xbMoved := v }
  | .xbPrivMoved v => { s with xbPrivMoved := v }
  | .chanErrs k v => { s with chanErrs := Sp.set dfltChanErrs s.chanErrs k v }
  | .mcMade v => { s with mcMade := v }
  | .normWait k v => { s with normWait := Sp.set dfltNormWait s.normWait k v }
  | .normUse k v => { s with normUse := Sp.set dfltNormUse s.normUse k v }

/-- The part of memory controllers after one write. -/
def MemAct.apply (s : MemPart) : MemAct → MemPart
  | .memX k v => { s with memX := Sp.set dfltMemX s.memX k v }
  | .actTab k v => { s with actTab := Sp.set dfltActTab s.actTab k v }
  | .openRow k v => { s with openRow := Sp.set dfltOpenRow s.openRow k v }
  | .sruMask v => { s with sruMask := v }
  | .actWait v => { s with actWait := v }
  | .actAt v => { s with actAt := v }

/-- The part of the time base after one write.  A bounded FIFO never grows past its room. -/
def TimeAct.apply (s : TimePart) : TimeAct → TimePart
  | .time16 v => { s with time16 := v }
  | .rateRem v => { s with rateRem := v }
  | .slewRem v => { s with slewRem := v }
  | .slewLeft v => { s with slewLeft := v }
  | .stepPend v => { s with stepPend := v }
  | .stepAt v => { s with stepAt := v }
  | .lockCount v => { s with lockCount := v }
  | .ppsMissed v => { s with ppsMissed := v }
  | .ppsLast v => { s with ppsLast := v }
  | .ppsGood v => { s with ppsGood := v }
  | .todSec v => { s with todSec := v }
  | .ppsOutSec v => { s with ppsOutSec := v }
  | .todTxSec v => { s with todTxSec := v }
  | .ppsHigh v => { s with ppsHigh := v }
  | .ppsOutMono v => { s with ppsOutMono := v }
  | .freqLog v => { s with freqLog := v }
  | .holdFreq v => { s with holdFreq := v }
  | .tsf v => { s with tsf := v.take 4096 }
  | .stepDelta v => { s with stepDelta := v }
  | .ptpSeq k v => { s with ptpSeq := Sp.set dfltPtpSeq s.ptpSeq k v }

/-- The part of services after one write.  A bounded FIFO never grows past its room. -/
def ServiceAct.apply (s : ServicePart) : ServiceAct → ServicePart
  | .bfdX k v => { s with bfdX := Sp.set dfltBfdX s.bfdX k v }
  | .mepX k v => { s with mepX := Sp.set dfltMepX s.mepX k v }
  | .flowX k v => { s with flowX := Sp.set dfltFlowX s.flowX k v }
  | .mergeX k v => { s with mergeX := Sp.set dfltMergeX s.mergeX k v }
  | .recX k v => { s with recX := Sp.set dfltRecX s.recX k v }
  | .svcRx v => { s with svcRx := v }
  | .mergeQ v => { s with mergeQ := v }
  | .svcQ k v => { s with svcQ := Sp.set dfltSvcQ s.svcQ k v }
  | .svcNtf v => { s with svcNtf := v.take 4096 }

/-- The part of the host interface and virtual instances after one write. -/
def HostAct.apply (s : HostPart) : HostAct → HostPart
  | .pcieFn k v => { s with pcieFn := Sp.set dfltPcieFn s.pcieFn k v }
  | .msix k v => { s with msix := Sp.set dfltMsix s.msix k v }
  | .inta v => { s with inta := v }
  | .irqSince v => { s with irqSince := v }
  | .qpx k v => { s with qpx := Sp.set dfltQpx s.qpx k v }
  | .perstLow v => { s with perstLow := v }
  | .hostQ k v => { s with hostQ := Sp.set dfltHostQ s.hostQ k v }
  | .vinst k v => { s with vinst := Sp.set dfltVinst s.vinst k v }
  | .txRot v => { s with txRot := v }
  | .stgResv v => { s with stgResv := v }
  | .lookAt v => { s with lookAt := v }
  | .l1At v => { s with l1At := v }
  | .bufBad v => { s with bufBad := v }

/-- The part of start-up after one write. -/
def StartAct.apply (s : StartPart) : StartAct → StartPart
  | .wdogTimes v => { s with wdogTimes := v }
  | .cageX k v => { s with cageX := Sp.set dfltCageX s.cageX k v }
  | .resetLow v => { s with resetLow := v }
  | .slotPins v => { s with slotPins := v }
  | .latchDue v => { s with latchDue := v }
  | .refclk v => { s with refclk := v }
  | .coldT0 v => { s with coldT0 := v }
  | .bootAt v => { s with bootAt := v }
  | .stopped v => { s with stopped := v }

/-- The part of self-repair after one write.  A bounded FIFO never grows past its room. -/
def RepairAct.apply (s : RepairPart) : RepairAct → RepairPart
  | .poisoned k v => { s with poisoned := Sp.set dfltPoisoned s.poisoned k v }
  | .pegStore v => { s with pegStore := v }
  | .declared v => { s with declared := v }
  | .rprEvt v => { s with rprEvt := v.take 1024 }
  | .gens k v => { s with gens := Sp.set dfltGens s.gens k v }
  | .genEpoch k v => { s with genEpoch := Sp.set dfltGenEpoch s.genEpoch k v }
  | .unitX k v => { s with unitX := Sp.set dfltUnitX s.unitX k v }
  | .recov k v => { s with recov := Sp.set dfltRecov s.recov k v }
  | .rotLast v => { s with rotLast := v }
  | .rotAt v => { s with rotAt := v }
  | .rotClassAt v => { s with rotClassAt := v }
  | .modRetry k v => { s with modRetry := Sp.set dfltModRetry s.modRetry k v }
  | .scarf k v => { s with scarf := Sp.set dfltScarf s.scarf k v }
  | .pegs v => { s with pegs := v }
  | .pegDue v => { s with pegDue := v }

/-- The part of faults after one write.  A bounded FIFO never grows past its room. -/
def FaultAct.apply (s : FaultPart) : FaultAct → FaultPart
  | .cryQueue k v => { s with cryQueue := Sp.set dfltCryQueue s.cryQueue k v }
  | .cryPend k v => { s with cryPend := Sp.set dfltCryPend s.cryPend k v }
  | .cryLog v => { s with cryLog := v.take 4096 }
  | .firstWin v => { s with firstWin := v }
  | .firstEnd v => { s with firstEnd := v }
  | .fatalLatch => { s with fatalLatch := true }
  | .fatalQ v => { s with fatalQ := v }
  | .openPage k v => { s with openPage := Sp.set dfltOpenPage s.openPage k v }
  | .grnBy v => { s with grnBy := v }

/-- The part of counters and traces after one write.  A bounded FIFO never grows past its room. -/
def CountAct.apply (s : CountPart) : CountAct → CountPart
  | .counters k v => { s with counters := Sp.set dfltCounters s.counters k v }
  | .snapSaved k v => { s with snapSaved := Sp.set dfltSnapSaved s.snapSaved k v }
  | .snap v => { s with snap := v }
  | .snapAt v => { s with snapAt := v }
  | .dumpCount v => { s with dumpCount := v }
  | .dumpMemErrs v => { s with dumpMemErrs := v }
  | .traceBuf v => { s with traceBuf := v.take 2048 }
  | .trcPhase v => { s with trcPhase := v }
  | .trcMs v => { s with trcMs := v }
  | .trcCount v => { s with trcCount := v }

/-- The part of images and the nonvolatile store after one write. -/
def StoreAct.apply (s : StorePart) : StoreAct → StorePart
  | .ctl v => { s with ctl := v }
  | .imgUnit k v => { s with imgUnit := Sp.set dfltImgUnit s.imgUnit k v }
  | .snapSlot k v => { s with snapSlot := Sp.set dfltSnapSlot s.snapSlot k v }
  | .storeQ v => { s with storeQ := v }
  | .storeBusy v => { s with storeBusy := v }
  | .erases k v => { s with erases := Sp.set dfltErases s.erases k v }
  | .copyArea k v => { s with copyArea := Sp.set dfltCopyArea s.copyArea k v }
  | .updSlot v => { s with updSlot := v }
  | .updOp v => { s with updOp := v }
  | .confirmEnd v => { s with confirmEnd := v }
  | .roll v => { s with roll := v }
  | .coreTag k v => { s with coreTag := Sp.set dfltCoreTag s.coreTag k v }

/-- The part of presence, backup domain and the parish register after one write.  A bounded FIFO never grows past its room. -/
def PresenceAct.apply (s : PresencePart) : PresenceAct → PresencePart
  | .jnlSeq v => { s with jnlSeq := v }
  | .jnlPre v => { s with jnlPre := v.take 65536 }
  | .jnlRecent k v => { s with jnlRecent := Sp.set dfltJnlRecent s.jnlRecent k v }
  | .jnlPersist v => { s with jnlPersist := v.take 61440 }
  | .jnlBacklog v => { s with jnlBacklog := v.take 8388608 }
  | .jnlNext v => { s with jnlNext := v }
  | .jnlPhase v => { s with jnlPhase := v }
  | .jnlUnits k v => { s with jnlUnits := Sp.set dfltJnlUnits s.jnlUnits k v }
  | .jnlUnit v => { s with jnlUnit := v }
  | .jnlWriting v => { s with jnlWriting := v }
  | .jnlHeld v => { s with jnlHeld := v }
  | .rtcNs v => { s with rtcNs := v }
  | .winEnd v => { s with winEnd := v }
  | .sealFails v => { s with sealFails := v }
  | .sealPasses v => { s with sealPasses := v }
  | .rtcArmed v => { s with rtcArmed := v }
  | .rtcLoadedSec v => { s with rtcLoadedSec := v }
  | .bkpCopied v => { s with bkpCopied := v }
  | .bkpOver v => { s with bkpOver := v }

/-- The part of power and temperature after one write. -/
def PowerAct.apply (s : PowerPart) : PowerAct → PowerPart
  | .temps v => { s with temps := v }
  | .hotAt v => { s with hotAt := v }
  | .coolAt v => { s with coolAt := v }
  | .shutAt v => { s with shutAt := v }
  | .alert v => { s with alert := v }

/-- The state after one write. -/
def Act.apply (s : State) : Act → State
  | .model a => { s with toModelPart := a.apply s.toModelPart }
  | .die a => { s with toDiePart := a.apply s.toDiePart }
  | .page a => { s with toPagePart := a.apply s.toPagePart }
  | .port a => { s with toPortPart := a.apply s.toPortPart }
  | .look a => { s with toLookPart := a.apply s.toLookPart }
  | .pipe a => { s with toPipePart := a.apply s.toPipePart }
  | .buffer a => { s with toBufferPart := a.apply s.toBufferPart }
  | .sched a => { s with toSchedPart := a.apply s.toSchedPart }
  | .fabric a => { s with toFabricPart := a.apply s.toFabricPart }
  | .mem a => { s with toMemPart := a.apply s.toMemPart }
  | .time a => { s with toTimePart := a.apply s.toTimePart }
  | .service a => { s with toServicePart := a.apply s.toServicePart }
  | .host a => { s with toHostPart := a.apply s.toHostPart }
  | .start a => { s with toStartPart := a.apply s.toStartPart }
  | .repair a => { s with toRepairPart := a.apply s.toRepairPart }
  | .fault a => { s with toFaultPart := a.apply s.toFaultPart }
  | .count a => { s with toCountPart := a.apply s.toCountPart }
  | .store a => { s with toStorePart := a.apply s.toStorePart }
  | .presence a => { s with toPresencePart := a.apply s.toPresencePart }
  | .power a => { s with toPowerPart := a.apply s.toPowerPart }

/-- A program of writes: nothing, one write, two programs in turn, or a program chosen by looking at the state. -/
inductive Prog where
  | skip
  | put (a : Act)
  | andThen (p q : Prog)
  | look (f : State → Prog)

/-- The state a program leaves. -/
def Prog.run : Prog → State → State
  | .skip, s => s
  | .put a, s => a.apply s
  | .andThen p q, s => q.run (p.run s)
  | .look f, s => (f s).run s

/-- Programs in turn. -/
def seqs : List Prog → Prog
  | [] => .skip
  | [p] => p
  | p :: q :: r => .andThen p (seqs (q :: r))

/-- A program for each element, in order. -/
def each {α : Type} : List α → (α → Prog) → Prog
  | [], _ => .skip
  | a :: r, f => .andThen (f a) (each r f)

/-- A program run only if the condition holds. -/
def onlyIf (b : Bool) (p : Prog) : Prog := if b then p else .skip

/-- The first program if the condition holds, else the second. -/
def either (b : Bool) (p q : Prog) : Prog := if b then p else q

/-- A command: refused when its operands name no unit of the device, else its program, whose emissions start afresh. -/
def command (i : Instr) (p : Prog) (s : State) : Host.Outcome State Fault Refusal :=
  if i.wellFormed then .next ((Prog.andThen (.put (.emitted [])) p).run s) else .refused .illFormed

/-- A command that may reset the device (R516): its program, then, where the condition holds of what that leaves, everything at reset but what `f` keeps, and a last
program. -/
def resetCommand (i : Instr) (first : Prog) (goes : State → Bool) (f : State → State) (last : Prog) (s : State) : Host.Outcome State Fault Refusal :=
  if i.wellFormed then
    let t := (Prog.andThen (.put (.emitted [])) first).run s
    .next (if goes t then last.run (f t) else t)
  else .refused .illFormed

end Sys2Proof.Machine
end

