-- ==== Sys2Proof/Machine/Ops.lean ====
section
/-!
DEFINITION. The operations over State that every block shares: registers and their fields, table entries, the two clocks, counters,
interrupts, error capture, crier messages and the parish register.
-/
namespace Sys2Proof.Machine

/-! ### Registers -/

/-- The whole register at an offset of a page as stored: for a shadowed register, its shadow. -/
def State.reg (s : State) (page off : Nat) : Word := s.regsAt (regKey page off)

/-- A field as stored: for a shadowed register, of its shadow. -/
def State.rd (s : State) (f : Fld) : Nat := fieldOf (s.reg f.page f.off) f.hi f.lo

/-- Whether the register at an offset of a page is shadowed (R64). -/
def isShadowed (page off : Nat) : Bool :=
  match declAt page off with
  | some d => d.shadowed
  | none => false

/-- A field as the block's units use it (R64): of a shadowed register the committed value, of any other the register itself. -/
def State.cfg (s : State) (f : Fld) : Nat :=
  if isShadowed f.page f.off then fieldOf (s.unitsAt (regKey f.page f.off)) f.hi f.lo else s.rd f

/-- A one-bit field as the units use it. -/
def State.on (s : State) (f : Fld) : Bool := s.cfg f == 1

/-- Hardware sets a whole register. -/
def setReg (page off : Nat) (v : Word) : Prog := .put (.regs (regKey page off) v)

/-- Hardware sets a field of a register. -/
def setF (f : Fld) (v : Nat) : Prog := .look fun s => setReg f.page f.off (setFieldOf (s.reg f.page f.off) f.hi f.lo v)

/-- Hardware adds to a saturating field. -/
def bumpF (f : Fld) (n : Nat) : Prog := .look fun s => setF f (satAdd (f.hi + 1 - f.lo) (s.rd f) n)

/-- Hardware sets a bit within a field. -/
def setBitF (f : Fld) (b : Nat) (v : Bool) : Prog := .look fun s => setF f (withBit (s.rd f) b v)

/-- A free value of the count of draws so far, and the count moved on (Config.freeValue). -/
def draw (k : Nat → Prog) : Prog := .look fun s => .andThen (.put (.fresh (s.fresh + 1))) (k (Config.freeValue s.fresh).toNat)

/-- An emission of this step. -/
def emit (e : Emit) : Prog := .look fun s => .put (.emitted (s.emitted ++ [e]))

/-! ### Table entries -/

/-- A field of a table entry: in KEY (0), DATA (1) or EXT (2), its bits counted over the words, word w at 32w+31..32w. -/
structure EF where
  region : Nat
  hi : Nat
  lo : Nat
  deriving DecidableEq, Repr

/-- Field [hi:lo] of KEY word w. -/
def ek (w hi lo : Nat) : EF := ⟨0, 32 * w + hi, 32 * w + lo⟩
/-- Field [hi:lo] of DATA word w. -/
def ed (w hi lo : Nat) : EF := ⟨1, 32 * w + hi, 32 * w + lo⟩
/-- Field [hi:lo] of EXT word w. -/
def ee (w hi lo : Nat) : EF := ⟨2, 32 * w + hi, 32 * w + lo⟩

/-- A field of an entry. -/
def Entry.f (e : Entry) (x : EF) : Nat :=
  if x.region == 0 then fieldOf e.key x.hi x.lo else if x.region == 1 then fieldOf e.data x.hi x.lo else fieldOf e.ext x.hi x.lo

/-- A one-bit field of an entry. -/
def Entry.on (e : Entry) (x : EF) : Bool := e.f x == 1

/-- The entry with a field set. -/
def Entry.put (e : Entry) (x : EF) (v : Nat) : Entry :=
  if x.region == 0 then { e with key := setFieldOf e.key x.hi x.lo v }
  else if x.region == 1 then { e with data := setFieldOf e.data x.hi x.lo v }
  else { e with ext := setFieldOf e.ext x.hi x.lo v }

/-- The entry at an index of a table; none when it is not valid or was never written. -/
def State.tab? (s : State) (page table index : Nat) : Option Entry := s.tablesAt (tabKey page table index)

/-- The entry at an index of a table, all zero when there is none. -/
def State.tab (s : State) (page table index : Nat) : Entry := (s.tab? page table index).getD {}

/-- The entry at an index of a table is written. -/
def setTab (page table index : Nat) (e : Entry) : Prog := .put (.tables (tabKey page table index) (some e))

/-- A field of a table's entry is written. -/
def setTabF (page table index : Nat) (x : EF) (v : Nat) : Prog :=
  .look fun s => setTab page table index ((s.tab page table index).put x v)

/-- A saturating field of a table's entry goes up. -/
def bumpTabF (page table index : Nat) (x : EF) (n : Nat) : Prog :=
  .look fun s => setTabF page table index x (satAdd (x.hi + 1 - x.lo) ((s.tab page table index).f x) n)

/-- The indices of a table's entries that are valid, in rising order. -/
def State.tabIndices (s : State) (page table : Nat) : List Nat :=
  s.tables.filterMap (fun kv => if kv.1 / 2 ^ 22 == page * 64 + table && kv.2.isSome then some (kv.1 % 2 ^ 22) else none)

/-! ### The clocks (R415, R417) -/

/-- MONO in ns. -/
def State.mono (s : State) : Nat := s.mono16 / 65536 % 2 ^ 64
/-- Whole seconds of device time, 48 bits. -/
def State.sec (s : State) : Nat := s.time16 / 65536 / 1000000000 % 2 ^ 48
/-- The nanoseconds field of device time. -/
def State.ns (s : State) : Nat := s.time16 / 65536 % 1000000000
/-- The 16-bit fraction of device time. -/
def State.frac (s : State) : Nat := s.time16 % 65536
/-- Device time as NS64 (R416). -/
def State.ns64 (s : State) : Nat := (s.sec * 1000000000 + s.ns) % 2 ^ 64
/-- TIME_VALID (R423). -/
def State.timeValid (s : State) : Bool := s.rd PTP_STAT.TIME_VALID == 1

/-- Whether a span of ns has passed on MONO since an instant. -/
def State.since (s : State) (t ns : Nat) : Bool := t + ns ≤ s.mono

/-! ### Counters (R593, R595, R596, R600) -/

/-- The number of counters of a family (R593). -/
def familySize (f : Nat) : Nat :=
  [6144, 24576, 544, 1048576, 786432, 262144, 192, 256, 3670016, 32768, 131072, 2304, 65536, 32768, 114688, 24576, 16384, 256][f]?.getD 0

/-- The key of a counter. -/
def cntKey (f i : Nat) : Nat := f * 2 ^ 24 + i

/-- The live value of a counter. -/
def State.counter (s : State) (f i : Nat) : Nat := s.countersAt (cntKey f i)

/-- A counter counts `n`, modulo 2^64.  The first increment after a snapshot's instant to a counter of a family it takes first saves
the counter's value (R600). -/
def count (f i n : Nat) : Prog := .look fun s =>
  let v := s.counter f i
  .andThen
    (match s.snap with
      | some sn => onlyIf (sn.mono ≤ s.mono && bitOf sn.mask f && (s.snapSavedAt (cntKey f i)).isNone) (.put (.snapSaved (cntKey f i) (some v)))
      | none => .skip)
    (.put (.counters (cntKey f i) ((v + n) % 2 ^ 64)))

/-- A discard or trap on the FE die counts under its reason (R593, family 7). -/
def feReason (r : Nat) : Prog := count 7 r 1
/-- A discard or trap on the TM die counts under its reason (family 17). -/
def tmReason (r : Nat) : Prog := count 17 r 1

/-! ### Interrupts (R58, R482, R483) -/

/-- Whether the endpoint is in containment (R488). -/
def State.contained (s : State) : Bool := s.rd PCIE_CONTAIN.CONTAINED == 1

/-- The endpoint has work now; L1 waits for its end (R484). -/
def hostWork : Prog := .look fun s => .put (.l1At s.mono)

/-- The endpoint sends a message of its own; in L1 it wakes the link (R484). -/
def hostSend (o : Emit) : Prog := .look fun s => seqs [onlyIf (s.rd PCIE_LINK_STAT.IN_L1 == 1) (setF PCIE_LINK_STAT.IN_L1 0), hostWork, emit o]

/-- A message on a vector: sent while MSI-X is enabled and the vector unmasked; a masked vector sets its pending bit (R482); a function in D3hot sends
none (R463). -/
def signalVector (fn vec : Nat) : Prog := .look fun s =>
  let v := s.msixAt (fn * 2048 + vec)
  if s.contained || !(s.pcieFnAt fn).msixEn || (s.pcieFnAt fn).d3hot then .skip
  else if v.masked then .put (.msix (fn * 2048 + vec) { v with pending := true })
  else hostSend (.msix fn vec v.addr v.data)

/-- Whether any page asserts its interrupt request (the block summary, R482). -/
def State.irqSummary (s : State) : Bool := (List.range 32).any (fun k => s.reg 2 (0x300 + 4 * k) != 0)

/-- The emulated INTA line follows its sources (R483). -/
def refreshInta : Prog := .look fun s =>
  let f := s.pcieFnAt 0
  let want := !f.msixEn && !f.intDis && (s.irqSummary || s.qpx.any (fun kv => kv.2.signalled))
  onlyIf (want != s.inta) (.andThen (.put (.inta want)) (onlyIf (!s.contained) (hostSend (.inta want))))

/-- A page's interrupt request follows its status and mask (R58); the block summary, vector 0 and INTA follow it (R482, R483). -/
def refreshIrq (page : Nat) : Prog := .look fun s =>
  let want := (s.reg page 0x10 &&& ~~~ s.reg page 0x14) != 0
  seqs [
    setBitF (PCIE_BLK_IRQ_SUM.reg (page / 32)) (page % 32) want,
    .look fun t =>
      onlyIf (!s.irqSummary && t.irqSummary) (.andThen (.put (.irqSince (some t.mono))) (signalVector 0 0)),
    .look fun t => onlyIf (!t.irqSummary) (.put (.irqSince none)),
    refreshInta]

/-- Bits of BLK_INT_STAT are set, as their events set them. -/
def setIntBits (page : Nat) (bits : Word) : Prog := .look fun s =>
  .andThen (setReg page 0x10 (s.reg page 0x10 ||| bits)) (refreshIrq page)

/-- One event bit of BLK_INT_STAT is set. -/
def raise (page bit : Nat) : Prog := setIntBits page (BitVec.ofNat 32 (2 ^ bit))

/-! ### Crier messages and error capture (R60, R61, R573 to R576) -/

/-- A message is placed in its page's queue, or, with the queue full, discarded and counted or held in the pending flag of its kind
(R576); a block that sends one of class Contained or higher sets its FAULT bit (BLK_INT_STAT, R53). -/
def crySend (m : CryMsg) : Prog := .look fun s =>
  let q := s.cryQueueAt m.page
  let pk := m.page * 1024 + m.kind
  let flagged := (s.cryPendAt pk).isSome
  .andThen
    (if m.cls ≤ 1 then
      (if q.length < 16 then .put (.cryQueue m.page (q ++ [m])) else bumpF CRY_DROPPED.reg 1)
    else if flagged then bumpF CRY_DROPPED.reg 1
    else if q.length < 16 then .put (.cryQueue m.page (q ++ [m]))
    else .put (.cryPend pk (some m)))
    (onlyIf (decide (2 ≤ m.cls)) (raise m.page 3))

/-- The page's first-error capture (R60): filled when VALID is 0, else MORE goes up and OVERFLOW is set. -/
def capture (page access space addr master cls kind data : Nat) : Prog := .look fun s =>
  if s.rd (ERRCAP_CTRL.VALID page) == 0 then
    seqs [
      setF (ERRCAP_ADDR_LO.reg page) (addr % 2 ^ 32),
      setF (ERRCAP_ADDR_HI.ADDR_HI page) (addr / 2 ^ 32),
      setF (ERRCAP_MASTER.MASTER page) master,
      setReg page 0x2C (BitVec.ofNat 32 (access <<< 28 ||| space <<< 24 ||| cls <<< 16 ||| kind)),
      setF (ERRCAP_TIME_LO.reg page) (s.ns64 % 2 ^ 32),
      setF (ERRCAP_TIME_HI.reg page) (s.ns64 / 2 ^ 32),
      setF (ERRCAP_DATA.reg page) data,
      setF (ERRCAP_CTRL.VALID page) 1,
      raise page 0]
  else seqs [bumpF (ERRCAP_CTRL.MORE page) 1, setF (ERRCAP_CTRL.OVERFLOW page) 1]

/-- The message of an error, with the fields of its capture (R61, R573). -/
def errorMsg (s : State) (page addr master cls kind : Nat) : CryMsg :=
  { page := page, kind := kind, cls := cls, addr := addr % 2 ^ 48, master := master, time := s.ns64 / 1024 % 2 ^ 30 }

/-- An error: captured if it is the page's first, and always sent as a crier message (R60, R61, R575). -/
def reportError (page access space addr master cls kind data : Nat) : Prog := .look fun s =>
  .andThen (capture page access space addr master cls kind data) (crySend (errorMsg s page addr master cls kind))

/-- An error that unit `unit` of a block reports at an internal address (R62, R63, R578), of a lookup or update or, with `acc` 7, of a scrub or self-test (R61).  The spec does not number
the units within HBMC, DDRC and one PIPE; DESIGN CHOICE (log entry 91): 0 for HBMC and DDRC, the pipeline's number for PIPE. -/
def unitError (page kind cls addr : Nat) (unit : Nat := 0) (acc : Nat := 4) : Prog := reportError page acc 2 addr (0xE000 + unit % 4096) cls kind 0

/-- A report that names no address: its address is 0 and its master none (R573). -/
def report (page kind cls : Nat) (acc : Nat := 4) : Prog := reportError page acc 2 0 0xF000 cls kind 0

/-- A refused access to a register of a page: access type, offset, master, kind (R62) and the data written. -/
def accessError (page off access master kind data : Nat) : Prog :=
  reportError page access 0 (page * 65536 + off) master (if kind == 8 || kind == 9 then 2 else 0) kind data

/-! ### The parish register (R654 to R663) -/

/-- Free slots of the on-chip ring (R659): a slot is used by a record that waits for START or for the persisted ring. -/
def State.jnlFree (s : State) : Nat := 65536 - (s.jnlPre.length + s.jnlPersist.length + s.jnlWriting.length)

/-- Slots whose records await persistence (R662). -/
def State.jnlAwait (s : State) : Nat :=
  s.jnlPersist.length + s.jnlWriting.length + (s.jnlPre.filter (fun r => r.persist)).length

/-- Whether a record of an origin is kept waiting by the ring (R660): learner, sweeper, repair controller and service cores need more
than 4,096 free slots, the others one. -/
def originNeeds (origin : Nat) : Nat :=
  if origin / 4096 == 3 || origin / 4096 == 4 || origin / 4096 == 5 || origin / 4096 == 8 then 4097 else 1

/-- Whether the ring accepts a record now (R660, R662). -/
def State.jnlAccepts (s : State) (r : JRec) : Bool :=
  decide (originNeeds r.origin ≤ s.jnlFree) && !(r.persist && decide (61440 ≤ s.jnlAwait))

/-- Whether a record of a kind and origin is persisted (R655). -/
def persisted (kind origin : Nat) : Bool :=
  if kind == 1 || kind == 2 || kind == 3 || kind == 4 then origin == 0x6000 else kind != 5

/-- Tier-2 stacks in service: HBMC_STAT.STATE READY or OUT_OF_SERVICE is decided in the memory controllers; here, any stack whose
state is READY (R663). -/
def State.tier2InService (s : State) : Bool := (List.range 4).any (fun k => s.rd (HBMC_STAT.STATE k) == 2)

/-- A record enters the backlog (R663): while tier 2 has no stack in service the backlog holds none; when it is full, the oldest record
not delivered to the host ring is overwritten and counted. -/
def backlogAdd (r : JRec) : Prog := .look fun s =>
  if !s.tier2InService then .skip
  else if s.jnlBacklog.length < 8388608 then .put (.jnlBacklog (s.jnlBacklog ++ [r]))
  else
    let old := s.jnlBacklog.filter (fun x => x.seq < s.jnlNext)
    if old.length > 0 then .put (.jnlBacklog (s.jnlBacklog.drop 1 ++ [r]))
    else seqs [
      .put (.jnlBacklog (s.jnlBacklog.drop 1 ++ [r])),
      .look fun t =>
        let n := t.rd JNL_OVERWRITTEN_LO.reg + t.rd JNL_OVERWRITTEN_HI.reg * 2 ^ 32 + 1
        .andThen (setF JNL_OVERWRITTEN_LO.reg (n % 2 ^ 32)) (setF JNL_OVERWRITTEN_HI.reg (n / 2 ^ 32)),
      raise 6 17]

/-- A record takes the next SEQ and its places: the on-chip slot, the backlog and, if it is persisted, the wait for the persisted
ring (R657, R659, R663). -/
def numberRecord (r : JRec) : Prog := .look fun s =>
  let r := { r with seq := s.jnlSeq }
  seqs [
    .put (.jnlSeq (s.jnlSeq + 1)),
    .put (.jnlRecent (r.seq % 65536) (some r)),
    backlogAdd r,
    onlyIf r.persist (.put (.jnlPersist (s.jnlPersist ++ [r])))]

/-- An accepted record: numbered, with a CHECKPOINT record when SEQ reaches a multiple of 2^36 (R658), which the persistence limit may hold (R662), or kept without a SEQ until the
START record (R694). -/
def acceptRecord (r : JRec) : Prog := .look fun s =>
  if s.jnlSeq == 0 then .put (.jnlPre (s.jnlPre ++ [r]))
  else .andThen (numberRecord r) (.look fun t =>
    onlyIf (t.jnlSeq % 2 ^ 36 == 0) (
      let c : JRec := { kind := 13, origin := 0x2000, persist := true, time := t.ns64, timeValid := t.timeValid }
      if t.jnlAccepts c then numberRecord c else .put (.jnlHeld (t.jnlHeld ++ [{ what := 2, record := c, at_ := t.mono }]))))

/-- The record of a change at the present time. -/
def mkRecord (s : State) (kind origin page table off value aux : Nat) : JRec :=
  { time := s.ns64, timeValid := s.timeValid, kind := kind, origin := origin, persist := persisted kind origin,
    page := page, table := table, off := off, value := value, aux := aux }

/-- A change and its record: the record is accepted and the change takes effect, or the writer is held with its access (R52, R657). -/
def journaled (r : State → JRec) (held : Held) (p : Prog) : Prog := .look fun s =>
  if s.jnlAccepts (r s) then .andThen (acceptRecord (r s)) p
  else .put (.jnlHeld (s.jnlHeld ++ [{ held with record := r s, at_ := s.mono }]))

/-- A record that nothing waits for: accepted, or kept with its time until room appears (R662). -/
def recordLater (r : JRec) : Prog := .look fun s =>
  if s.jnlAccepts r then acceptRecord r else .put (.jnlHeld (s.jnlHeld ++ [{ what := 2, record := r, at_ := s.mono }]))

/-- A record of an event at the present time. -/
def recordEvent (kind origin value aux : Nat) : Prog := .look fun s => recordLater (mkRecord s kind origin 0 0 0 value aux)

/-! ### Who reaches a register -/

/-- Whether a master's register accesses reach a page: PF0, but in D3hot (R463), and the device's own masters do, JTAG only when unlocked (R643), VFs and mediated instances never
(R40). -/
def State.reaches (s : State) (m : Nat) : Bool :=
  (m == 0 && !(s.pcieFnAt 0).d3hot) || (2 ≤ m / 4096 && (m / 4096 != 6 || s.rd PPR_STAT.JTAG_UNLOCKED == 1))

/-- PF0, the main core and JTAG. -/
def isManager (m : Nat) : Bool := m == 0 || m == 0x2000 || m == 0x6000

/-- Work that a block takes on: none is taken while its ENABLE is 0 (R56). -/
def whenEnabled (page : Nat) (p : Prog) : Prog := .look fun s => onlyIf (s.rd (BLK_CTRL.ENABLE page) == 1) p

/-- The four masters that may set control bits (R56): PF0, the main core, JTAG and the repair controller. -/
def isController (m : Nat) : Bool := isManager m || m == 0x8000

/-- A write to a page: nothing for a master that does not reach it; a reserved page is captured by DEV with kind 0x001 (R39); a block
that start-up has not brought up discards it (R48). -/
def regAccess (m page off data : Nat) (p : Prog) : Prog := .look fun s =>
  if !s.reaches m then .skip
  else if (blockOf page).isNone then reportError 1 1 0 (page * 65536 + off) m 0 1 data
  else if !s.blkUpAt page then .skip
  else p

/-! ### Configuration space (R9, R462) -/

/-- The identity in the configuration space of PF0 and of every VF: stepping B0 shows as Revision ID 0x10 (R9, R462). -/
def cfgId (fn : Nat) : CfgId :=
  { vendor := 0x1F3D, device := if fn == 0 then 0x9648 else 0x9649, cls := 0x028000, revision := 0x10, subVendor := 0x1F3D, subsystem := 0,
    serial := Config.serialNumber.toNat }

/-- A function's configuration space answers: its identity goes to the host. -/
def showConfig (fn : Nat) : Prog := emit (.config fn (cfgId fn))

/-! ### Sources of accesses to the other die (R29) -/

/-- The sources of cross-die requests (R29): 0 main core, 1 to 9 service cores, 10 PCIe endpoint, 11 repair controller, 12 JTAG bridge on the TM die; 13 learner,
14 sweeper, 15 counter engine, 16 trace engine, 17 crier and journal forwarder on the FE die. -/
def srcDie (k : Nat) : Nat := if k < 13 then 1 else 0

/-- The receive buffers reserved for a source on the other die (R29). -/
def srcCredits (k : Nat) : Nat := [32, 8, 8, 8, 8, 8, 8, 8, 8, 8, 32, 16, 2, 32, 16, 64, 16, 32][k]?.getD 0

/-- The master that a source's register accesses name (R63); the FE die's engines reach memory, not registers. -/
def srcMaster (k : Nat) : Option Nat :=
  if k == 0 then some 0x2000 else if k < 10 then some (0x3000 + (k - 1)) else if k == 10 then some 0 else if k == 11 then some 0x8000
  else if k == 12 then some 0x6000 else none

/-- The source that carries a master's accesses (R29, R63). -/
def masterSrc (m : Nat) : Option Nat :=
  if m / 4096 == 0 || m / 4096 == 1 then some 10 else if m == 0x2000 then some 0 else if m / 4096 == 3 then some (1 + m % 4096 % 9)
  else if m == 0x6000 then some 12 else if m == 0x8000 then some 11 else none

/-- The source whose request carries a master's access to a page of the other die (R28, R46); none where the access stays on the master's die. -/
def crossing (m page : Nat) : Option Nat := (masterSrc m).filter (fun k => dieOf page != srcDie k)

/-- The requests of a source that the link has accepted and the other die has not executed; the rest wait in its transmit queue for a credit (R29, R30). -/
def State.dieAccepted (s : State) (k : Nat) : Nat := ((s.dieQAt k).filter (fun r => r.sent.isSome)).length

/-- The credits that a source holds (R29): its receive buffers less the requests accepted and the credits on their way back on channel 3. -/
def State.dieCredits (s : State) (k : Nat) : Nat :=
  let back (l : List Flit) : Nat := (l.filter (fun f => f.chan == 3 && f.words == [0, k])).length
  srcCredits k - s.dieAccepted k - back ((s.dieTxAt (1 - srcDie k)).replay ++ (s.dieRxAt (srcDie k)).wait)

/-! ### Averages over 1 ms -/

/-- What moved at an instant (its MONO and how much), beside what moved in the last 1 ms. -/
def rateAdd (l : List (Nat × Nat)) (now n : Nat) : List (Nat × Nat) := l.filter (fun x => now < x.1 + 1000000) ++ [(now, n)]

/-- How much moved in the last 1 ms. -/
def rateSum (l : List (Nat × Nat)) (now : Nat) : Nat := (l.filter (fun x => now < x.1 + 1000000)).foldl (fun a x => a + x.2) 0

/-- Bytes of the last 1 ms as an average in Gb/s. -/
def rateGbps (l : List (Nat × Nat)) (now : Nat) : Nat := rateSum l now * 8 / 1000000

end Sys2Proof.Machine
end

