-- ==== Sys2Proof/Machine/Cells.lean ====
section
/-!
DEFINITION. Cells of the fabric links (spec/09_fabric.md R332 to R338): their headers, their check and their byte form.
-/
namespace Sys2Proof.Machine

/-- One byte into a CRC-8 with polynomial x^8 + x^2 + x + 1 (R333). -/
def crc8Byte (crc b : Nat) : Nat :=
  (List.range 8).foldl (fun c _ => if c ≥ 128 then (c * 2 % 256) ^^^ 7 else c * 2 % 256) ((crc ^^^ b) % 256)

/-- The CRC-8 of bytes, from 0x00 (R333). -/
def crc8 (l : List Nat) : Nat := l.foldl crc8Byte 0

/-- The `n` bytes of a number, most significant first. -/
def toBytesBE : Nat → Nat → List Nat
  | 0, _ => []
  | n + 1, v => (v / 256 ^ n % 256) :: toBytesBE n v

/-- The number that bytes hold, most significant first. -/
def ofBytesBE (l : List Nat) : Nat := l.foldl (fun a b => a * 256 + b) 0

/-- The number that bytes hold, least significant first. -/
def ofBytesLE (l : List Nat) : Nat := ofBytesBE l.reverse

/-- The length of a cell that carries `n` payload bytes (R332). -/
def cellLen (n : Nat) : Nat := max 64 ((10 + n + 15) / 16 * 16)

/-- The bytes of a cell: TYPE, LGEN and header bits 67:8, the HCRC over them, the payload and zero padding (R332, R333). -/
def cellBytes (type lgen body : Nat) (payload : List Nat) : List Nat :=
  let head := toBytesBE 9 (type * 2 ^ 68 + lgen % 256 * 2 ^ 60 + body % 2 ^ 60)
  let c := head ++ [crc8 head] ++ payload
  c ++ List.replicate (cellLen payload.length - c.length) 0

/-- The header of a cell that arrived. -/
structure CellHead where
  type : Nat
  lgen : Nat
  body : Nat
  crcOk : Bool
  deriving DecidableEq, Repr

/-- The header of received bytes. -/
def cellHead (c : List Nat) : CellHead :=
  let h := ofBytesBE (c.take 9)
  { type := h / 2 ^ 68, lgen := h / 2 ^ 60 % 256, body := h % 2 ^ 60, crcOk := crc8 (c.take 9) == c.getD 9 0 }

/-- Header bits [hi:lo] of a cell, numbered as R333 numbers them (within 67:8). -/
def CellHead.bits (h : CellHead) (hi lo : Nat) : Nat := h.body / 2 ^ (lo - 8) % 2 ^ (hi + 1 - lo)

/-- A LINK cell (R338). -/
def linkCellBytes (lgen sub : Nat) (payload : List Nat) : List Nat := cellBytes 5 lgen (sub * 2 ^ 56) payload

/-- A number cut into bytes, least significant first. -/
def toBytesLE (n v : Nat) : List Nat := (toBytesBE n v).reverse

end Sys2Proof.Machine
end

