-- ==== Sys2Proof/Machine/Units.lean ====
section
/-!
DEFINITION. The spared units and who holds which place (spec/16_repair_and_redundancy.md R541, R545, R546, R552): what the blocks ask of the
repair controller.
-/
namespace Sys2Proof.Machine

/-- Fields of a UNIT entry (RPR table 0). -/
def UNIT.ROLE : EF := ed 0 31 29
def UNIT.HOME_VALID : EF := ed 0 28 28
def UNIT.HOME : EF := ed 0 22 16
def UNIT.LOGICAL : EF := ed 0 14 8
def UNIT.GEN : EF := ed 0 7 0
def UNIT.PASSES : EF := ed 1 31 16
def UNIT.FAILS : EF := ed 1 15 0
def UNIT.DEAD_COUNT : EF := ed 2 31 16
def UNIT.TAKEOVERS : EF := ed 2 15 0
def UNIT.TIME : EF := ⟨1, 159, 96⟩
def UNIT.LAST_RESULT : EF := ed 5 1 0

/-- The classes of R541. -/
def clsPipe : Nat := 0
def clsScheng : Nat := 1
def clsScore : Nat := 2
def clsD2d : Nat := 3
def clsLkup : Nat := 4
def clsTcam : Nat := 5

/-- Physical units and working units of a class (R541). -/
def classUnits (c : Nat) : Nat := [17, 17, 9, 28, 66, 33][c]?.getD 0
def classWorking (c : Nat) : Nat := [16, 16, 8, 26, 64, 32][c]?.getD 0

/-- The key of a unit: its index in RPR table 0. -/
def unitKey (c u : Nat) : Nat := 128 * c + u

/-- A field of a unit's entry. -/
def State.unit (s : State) (c u : Nat) (x : EF) : Nat := (s.tab 9 0 (unitKey c u)).f x

/-- The role of a unit (R545): 0 NONE, 1 ACTIVE, 2 SPARE, 3 SELF_TEST, 4 FENCED, 5 FAILED. -/
def State.role (s : State) (c u : Nat) : Nat := s.unit c u UNIT.ROLE

/-- The ACTIVE unit that holds a logical number (in D2D, which has none, the module's own number stands for its place). -/
def State.holder (s : State) (c l : Nat) : Option Nat :=
  (List.range (classUnits c)).find? (fun u => s.role c u == 1 && s.unit c u UNIT.LOGICAL == l)

/-- The home unit of a logical number (R546). -/
def State.home (s : State) (c l : Nat) : Option Nat :=
  (List.range (classUnits c)).find? (fun u => s.unit c u UNIT.HOME_VALID == 1 && s.unit c u UNIT.HOME == l)

/-- A qualified spare: role SPARE and its last pass passed (R549). -/
def State.qualified (s : State) (c u : Nat) : Bool := s.role c u == 2 && (s.unitXAt (unitKey c u)).passed

/-- The qualified spares of a class. -/
def State.spares (s : State) (c : Nat) : List Nat := (List.range (classUnits c)).filter (fun u => s.qualified c u)

/-- The current generation of a unit's output (R561): of its logical number, or of a UCIe module itself. -/
def State.curGen (s : State) (c l : Nat) : Nat := if c == clsD2d then s.unit c l UNIT.GEN else s.gensAt (unitKey c l)

/-- How far a generation lies behind the current one, by serial arithmetic (R563); 128 and more: ahead. -/
def genBehind (cur g : Nat) : Nat := (cur + 256 - g % 256) % 256

/-- Whether a planned handover of a unit is under way: it takes no new work (R558). -/
def State.leaving (s : State) (c u : Nat) : Bool := (s.recovAt c).any (fun r => r.running && !r.fault && r.old == u)

/-- A field of a unit's entry is written. -/
def setUnit (c u : Nat) (x : EF) (v : Nat) : Prog := setTabF 9 0 (unitKey c u) x v

/-- A repair event is appended, or lost with 1,024 waiting (R552). -/
def rprEvent (kind c u logical gen detail : Nat) : Prog := .look fun s =>
  .andThen
    (either (s.rprEvt.length < 1024)
      (.put (.rprEvt (s.rprEvt ++ [(kind * 2 ^ 28 + c * 2 ^ 24 + u * 2 ^ 16 + logical * 2 ^ 8 + gen, detail, s.ns64)])))
      (.andThen (setF RPR_EVT_STAT.OVERFLOW 1) (raise 9 17)))
    (raise 9 16)

/-- A unit is declared dead (R556); a unit already fenced, failed or declared is not declared again. -/
def declareUnit (c u cause : Nat) : Prog := .look fun s =>
  onlyIf ((s.role c u == 1 || s.role c u == 2 || s.role c u == 3) && !s.declared.any (fun d => d.1 == c && d.2.1 == u))
    (.put (.declared (s.declared ++ [(c, u, cause)])))

/-- An output of unit `u` with generation `g` is discarded (R563): stale, with an event at the first of the fencing, or ahead. -/
def staleOutput (c u l g : Nat) : Prog := .look fun s =>
  let x := s.unitXAt (unitKey c u)
  if genBehind (s.curGen c l) g < 128 then seqs [
    bumpF (RPR_CLASS_STAT.STALE c) 1,
    raise 9 21,
    onlyIf (!x.stale) (seqs [.put (.unitX (unitKey c u) { x with stale := true }), report 9 0x021 0, rprEvent 10 c u l g 0x021])]
  else seqs [bumpF (RPR_CLASS_STAT.AHEAD c) 1, raise 9 22, report 9 0x022 2]

/-- The unit that holds a logical number is declared dead. -/
def declareLogical (c l cause : Nat) : Prog := .look fun s =>
  match s.holder c l with
  | some u => declareUnit c u cause
  | none => .skip

/-- A takeover touches a table operation that is still to be carried out on a page: it will end with ABORTED and change no entry (R161, R557), or with the refusal that it
meets (R692). -/
def abortOp (page : Nat) (touches : TblOp → Bool) : Prog := .look fun s =>
  match s.tblOpAt page with
  | some o => onlyIf (o.waits && touches o) (.andThen
      (.put (.jnlHeld (s.jnlHeld.filter (fun h => h.what != 1 || h.page != page))))
      (.put (.tblOp page (some { o with result := 0x0B }))))
  | none => .skip

/-! ### The peg map (R547, R548) -/

/-- The peg map changes by a record: the change waits to be written, and makes one record of the parish register. -/
def pegChange (g : Peg) (map : List Peg) : Prog := .look fun s => seqs [
  .put (.pegs map),
  .put (.pegDue (some (s.pegDue.getD s.mono))),
  setF RPR_PEG_STAT.PENDING 1,
  recordLater (mkRecord s 5 0x8000 9 0 0 (g.kind * 2 ^ 28 + g.cls * 2 ^ 24 + g.unit * 2 ^ 16) g.detail)]

/-- A record joins the peg map, in place of one of the same key; a row record for which the map has no room is not stored (R547). -/
def pegAdd (g : Peg) (same : Peg → Bool) : Prog := .look fun s =>
  let rest := s.pegs.filter (fun x => !same x)
  let rows := rest.filter (fun x => decide (4 ≤ x.kind))
  if 4096 ≤ rest.length || (4 ≤ g.kind && 3584 ≤ rows.length) then .andThen (bumpF RPR_PEG_STAT.DROPPED 1) (report 9 0x026 0)
  else pegChange g (rest ++ [{ g with time := s.ns64 }])

/-- The record of a failed unit is removed (UNRETIRE). -/
def pegRemove (g : Peg) (same : Peg → Bool) : Prog := .look fun s => pegChange g (s.pegs.filter (fun x => !same x))

/-- A written copy of the peg map is the copy in use (R548). -/
def pegWritten (map : List Peg) (seq : Nat) : Prog := .look fun s => seqs [
  .put (.pegStore (map, seq)),
  setF RPR_PEG_SEQ.SEQ seq,
  setF RPR_PEG_STAT.COPY (1 - s.rd RPR_PEG_STAT.COPY),
  setF RPR_PEG_STAT.PENDING (b2n s.pegDue.isSome),
  rprEvent 12 0 0 0 0 0]

/-! ### The die-to-die link's flits (R15 to R17) -/

/-- The working modules of the die-to-die link; one that a planned handover takes out takes no new flits (R558). -/
def State.modules (s : State) : List Nat := (List.range 28).filter (fun m => s.role clsD2d m == 1 && !s.leaving clsD2d m)

/-- The module that a flit travels on: traffic is striped flit by flit over the working modules (R15); 28 stands for none, with no working module. -/
def State.stripe (s : State) (seq : Nat) : Nat := s.modules[seq % s.modules.length]?.getD 28

/-- A die sends a flit: it takes the next link sequence number of its direction, goes out on the next working module and stays in the replay buffer until it has
arrived (R15, R16).  DESIGN CHOICE (log entry 70): link sequence numbers start at 0, are not bounded and so never wrap; a flit carries one whole transfer. -/
def sendFlit (die chan : Nat) (words : List Nat) : Prog := .look fun s =>
  let x := s.dieTxAt die
  .put (.dieTx die { next := x.next + 1, replay := x.replay ++ [{ seq := x.next, module := s.stripe x.next, chan := chan, words := words }] })

/-- Whether a flit that die `die` sends now arrives within the same step: a module works and no earlier flit of the direction is still on its way (R15, R36). -/
def State.linkClear (s : State) (die : Nat) : Bool := s.dieDownAt.isNone && (s.dieTxAt die).replay.isEmpty

/-- The sideband aligns the FE die's follower counter in every 64th flit of the TM die (R418). -/
def alignFollower (die seq : Nat) : Prog := .look fun s => onlyIf (die == 1 && seq % 64 == 63) (emit (.flit 0 3 [1, s.time16]))

/-- A flit crosses within the step: it takes the next link sequence number of its direction and is delivered at once, in order (R15). -/
def passFlit (die chan : Nat) (words : List Nat) : Prog := .look fun s =>
  let n := (s.dieTxAt die).next
  seqs [.put (.dieTx die { next := n + 1 }), .put (.dieRx (1 - die) { next := n + 1 }), emit (.flit (1 - die) chan words), alignFollower die n]

/-- A flit crosses at once, or behind the flits of its direction that are still on their way (R15). -/
def crossFlit (die chan : Nat) (words : List Nat) : Prog := .look fun s =>
  if s.linkClear die then passFlit die chan words else sendFlit die chan words

/-- Whether a source's access reaches the other die at once: no earlier request or response of the source is outstanding, the link works, and no flit is on its way in
either direction. -/
def State.crossFree (s : State) (k : Nat) : Bool :=
  (s.dieQAt k).isEmpty && (s.dieReadAt k).isEmpty && s.linkClear (srcDie k) && s.linkClear (1 - srcDie k)

/-- An engine's write crosses at once where crossFree holds: its request on channel 1, its acknowledgement and its credit back (R17, R28, R29). -/
def enginePass (k : Nat) (words : List Nat) : Prog := seqs [passFlit (srcDie k) 1 (k :: words), passFlit (1 - srcDie k) 2 [k], passFlit (1 - srcDie k) 3 [0, k]]

/-- A signal on the sideband, channel 3, from the TM die to the FE die (R17): 1 alignment of the follower counter with its sixteenths of a nanosecond, 2 a generation number with its
place, 3 the safe state, 4 FREEZE of a page with its bit.  DESIGN CHOICE (log entry 70): the codes and the words. -/
def sideband (words : List Nat) : Prog := .look fun s => onlyIf s.dieDownAt.isNone (crossFlit 1 3 words)

/-- The flits in flight on a module that leaves the striping are replayed on the others (R557). -/
def replayModule (m : Nat) : Prog := each [0, 1] fun die => .look fun s =>
  let x := s.dieTxAt die
  .put (.dieTx die { x with replay := x.replay.map (fun f => if f.module == m then { f with module := s.stripe f.seq } else f) })

end Sys2Proof.Machine
end

