-- ==== Sys2Proof/Machine/Links.lean ====
section
/-!
DEFINITION. The states of the fabric links, link control and reachability (spec/09_fabric.md R339 to R343).
-/
namespace Sys2Proof.Machine

/-- The state of a fabric link (FLC_LINK_STAT.STATE). -/
def State.linkState (s : State) (l : Nat) : Nat := s.rd (FLC_LINK_STAT.STATE (l / 12) (l % 12))

/-- Whether a link is UP. -/
def State.linkUp (s : State) (l : Nat) : Bool := s.linkState l == 5

/-- Whether an UP link with a current REACH reaches a device (R343). -/
def State.linkReaches (s : State) (l d : Nat) : Bool :=
  s.linkUp l && s.rd (FLC_LINK_STAT.REACH_VALID (l / 12) (l % 12)) == 1 && (s.linkXAt l).reach.getLsbD d

/-- The devices some UP link reaches, as a bitmap (R343). -/
def State.reachAll (s : State) : BitVec 1024 :=
  (List.range 144).foldl (fun a l =>
    if s.linkUp l && s.rd (FLC_LINK_STAT.REACH_VALID (l / 12) (l % 12)) == 1 then a ||| (s.linkXAt l).reach else a) 0

/-- Whether some UP link reaches a device (R343). -/
def State.reachable (s : State) (d : Nat) : Bool := s.reachAll.getLsbD d

/-- A change of the links' reach: devices up to MAX_DEV that no link reaches any more are noted with the time (R343, R357) and set
FAB BLOCK_INT bit 17. -/
def reachChanged (p : Prog) : Prog := .look fun s => .andThen p (.look fun t =>
  let lost := s.reachAll &&& ~~~ t.reachAll
  let ids := (List.range (t.rd FAB_SYS_CFG.MAX_DEV + 1)).filter (fun d => lost.getLsbD d && d != t.rd FAB_DEV_ID.ID)
  onlyIf (lost != 0) (.andThen (each ids (fun d => .put (.unreachAt d t.mono))) (onlyIf (!ids.isEmpty) (raise 240 17))))

/-- A link enters a state: STATE, the time of entry, the cluster's and FAB's interrupt bits and LINKS_UP (R339). -/
def setLinkState (l st : Nat) : Prog := .look fun s => seqs [
  reachChanged (setF (FLC_LINK_STAT.STATE (l / 12) (l % 12)) st),
  .put (.linkX l { s.linkXAt l with stateAt := s.mono }),
  .look fun t => setF FAB_STAT.LINKS_UP ((List.range 144).filter (fun k => t.linkUp k)).length,
  onlyIf (s.linkState l != st) (.andThen (raise (244 + l / 12) (16 + l % 12)) (raise 240 16))]

/-- A link enters TRAINING under a new transmit generation, 0 skipped (R339). -/
def linkTrain (l : Nat) : Prog := .look fun s =>
  let g := FLC_LINK_STAT.TX_GEN (l / 12) (l % 12)
  seqs [
    setF g (if s.rd g == 255 then 1 else s.rd g + 1),
    setF (FLC_LINK_PEER.VALID (l / 12) (l % 12)) 0,
    setLinkState l 1]

/-- A LINK cell leaves on a link with the link's transmit generation; in the Fatal safe state only DOWN with cause 9 does (R365). -/
def sendLinkCell (l sub : Nat) (payload : List Nat) : Prog := .look fun s =>
  onlyIf (!s.fatalLatch || (sub == 1 && payload == [9])) <| .andThen (emit (.cell l (linkCellBytes (s.rd (FLC_LINK_STAT.TX_GEN (l / 12) (l % 12))) sub payload))) (count 11 (16 * l) 1)

/-- A link leaves UP, TEST or HOLDOFF for DOWN (cause 6: FAILED; cause 8: DISABLED), sends DOWN unless FAB is STANDALONE (R363), forgets the peer's generation and its
reach (R340 to R342).  Entries to DOWN count towards FLAP_LIMIT (R339); while the link stays in DOWN or FAILED it goes on sending DOWN as time passes (fabricTick). -/
def linkDown (l cause : Nat) : Prog := .look fun s =>
  let st := s.linkState l
  let c := l / 12
  let k := l % 12
  onlyIf (3 ≤ st && st ≤ 5) (seqs [
    setF (FLC_LINK_STAT.CAUSE c k) cause,
    onlyIf (s.rd FAB_SYS_CFG.STANDALONE == 0) (sendLinkCell l 1 [cause]),
    setLinkState l (if cause == 6 then 7 else if cause == 8 then 0 else 6),
    setF (FLC_LINK_STAT.RX_GEN c k) 0,
    setF (FLC_LINK_STAT.REACH_VALID c k) 0,
    setF (FLC_LINK_STAT.FC c k) 0,
    onlyIf (cause != 6 && cause != 8) (bumpF (FLC_LINK_DOWNS.reg c k) 1),
    .look fun t =>
      let x := t.linkXAt l
      let g := s.rd (FLC_LINK_STAT.RX_GEN c k)
      .put (.linkX l { x with forgotten := if g == 0 then x.forgotten else g, reach := 0, reachAt := none, gotHello := false, gotReach := false,
                              testErr := false,
                              downs := (if cause == 6 || cause == 8 then [] else [t.mono]) ++ x.downs.filter (fun d => !t.since d 60000000000) })])

/-- Whether a link may leave DISABLED: EN as committed, FAB not STANDALONE (R363), the device not in its safe state (R587). -/
def State.linkMayRun (s : State) (l : Nat) : Bool :=
  s.on (FLC_LINK_CTRL.EN (l / 12) (l % 12)) && s.rd FAB_SYS_CFG.STANDALONE == 0 && !s.fatalLatch

/-- The committed control of a cluster's links takes effect (R339, R340 cause 8, R363). -/
def linksApply (c : Nat) : Prog := each (List.range 12) fun k => .look fun s =>
  let l := 12 * c + k
  if s.linkMayRun l then onlyIf (s.linkState l == 0) (linkTrain l)
  else if s.fatalLatch then .skip
  else .andThen (linkDown l 8) (.look fun t => onlyIf (t.linkState l != 0) (setLinkState l 0))

/-- RESTART returns a link to TRAINING from any state but DISABLED (R339). -/
def linkRestart (l : Nat) : Prog := .look fun s =>
  onlyIf (s.linkState l != 0 && s.linkMayRun l) (.andThen
    (.put (.linkX l { s.linkXAt l with
      forgotten := let g := s.rd (FLC_LINK_STAT.RX_GEN (l / 12) (l % 12)); if g == 0 then (s.linkXAt l).forgotten else g, downs := [] }))
    (.andThen (setF (FLC_LINK_STAT.RX_GEN (l / 12) (l % 12)) 0) (linkTrain l)))

/-- FABRIC_LINK_TRAINED (R330, R339): training ends, at once with LT_EN = 0; without completion for 200 ms the link enters TRAINING again; it
stays in TRAINING while PRBS is on. -/
def execFabricLinkTrained (link : Nat) (ok : Bool) (s : State) : Host.Outcome State Fault Refusal :=
  command (.fabricLinkTrained link ok) (.look fun s =>
    onlyIf (s.linkState link == 1 && s.cfg (FLC_LINK_CTRL.PRBS (link / 12) (link % 12)) == 0) (
      either ((ok && decide (s.mono ≤ (s.linkXAt link).stateAt + 200000000)) || !s.on (FLC_LINK_CTRL.LT_EN (link / 12) (link % 12)))
        (setLinkState link 2)
        (onlyIf (s.since (s.linkXAt link).stateAt 200000000) (linkTrain link)))) s

/-- `n` bits of a PRBS31 stream (x^31 + x^28 + 1) after the last 31, newest first, as bytes, most significant bit first: where in its sequence the stream stands is open (R338). -/
def prbs31 (last : List Bool) (n : Nat) : List Nat :=
  let stream := (List.range n).foldl (fun (a : List Bool) _ => xor (a.getD 30 false) (a.getD 27 false) :: a) last
  let bits := (stream.take n).reverse
  (List.range (n / 8)).map (fun k => (List.range 8).foldl (fun a i => 2 * a + b2n (bits.getD (8 * k + i) false)) 0)

/-- Whether the bytes of a TEST cell are a piece of PRBS31: each bit after the first 31 is the sum of those 31 and 28 before it (R338). -/
def prbsOk (b : List Nat) : Bool :=
  let bits := b.flatMap (fun x => (List.range 8).map (fun i => bitOf x (7 - i)))
  (List.range (bits.length - 31)).all (fun n => bits.getD (n + 31) false == xor (bits.getD n false) (bits.getD (n + 3) false))

/-- FABRIC_LINK_ALIGN_END (R339): lock on both lanes within 1 ms leads to TEST, where a HELLO, the device's own REACH and the TEST pattern are sent; not in the safe state (R365). -/
def execFabricLinkAlignEnd (link : Nat) (locked : Bool) (s : State) : Host.Outcome State Fault Refusal :=
  command (.fabricLinkAlignEnd link locked) (.look fun s =>
    onlyIf (s.linkState link == 2 && !s.fatalLatch) (
      either (locked && (decide (s.mono ≤ (s.linkXAt link).stateAt + 1000000)))
        (seqs [
          setLinkState link 3,
          .look fun t => .put (.linkX link { t.linkXAt link with gotHello := false, gotReach := false, testErr := false }),
          sendLinkCell link 0 ([0] ++ toBytesBE 2 (s.rd FAB_DEV_ID.ID) ++ [link, s.rd (FLC_LINK_STAT.TX_GEN (link / 12) (link % 12))]),
          sendLinkCell link 2 (toBytesLE 128 (2 ^ s.rd FAB_DEV_ID.ID)),
          sendLinkCell link 4 (prbs31 (List.range 31 |>.map (fun i => bitOf (Config.prbsSeed link s.mono) i)) 1024)])
        (linkTrain link))) s

/-- FABRIC_LINK_TEST_END (R339): after 10 ms, HOLDOFF with a HELLO of ROLE 1, a REACH and no error, else DOWN with cause 10. -/
def execFabricLinkTestEnd (link : Nat) (bad : Bool) (s : State) : Host.Outcome State Fault Refusal :=
  command (.fabricLinkTestEnd link bad) (.look fun s =>
    let x := s.linkXAt link
    onlyIf (s.linkState link == 3 && s.since x.stateAt 10000000) (
      either (x.gotHello && x.gotReach && !x.testErr && !bad) (setLinkState link 4) (linkDown link 10))) s

/-- FABRIC_LINK_HOLDOFF_END (R339): HOLDOFF_MS with no down cause leads to UP. -/
def execFabricLinkHoldoffEnd (link : Nat) (s : State) : Host.Outcome State Fault Refusal :=
  command (.fabricLinkHoldoffEnd link) (.look fun s =>
    onlyIf (s.linkState link == 4 && s.since (s.linkXAt link).stateAt (max 1 (s.rd (FLC_CFG.HOLDOFF_MS (link / 12))) * 1000000))
      (setLinkState link 5)) s

/-- FABRIC_LINK_DOWN (R340): a down cause; `uncorr` uncorrectable codewords were counted, and cause 3 needs ERR_LIMIT of them, cause 8 EN
cleared, cause 9 the safe state. -/
def execFabricLinkDown (link cause uncorr : Nat) (s : State) : Host.Outcome State Fault Refusal :=
  command (.fabricLinkDown link cause uncorr) (.look fun s =>
    .andThen (.andThen (bumpF (FLC_LINK_UNCORR.reg (link / 12) (link % 12)) uncorr)
        (onlyIf (uncorr != 0 && s.linkState link == 3) (.put (.linkX link { s.linkXAt link with testErr := true }))))
      (onlyIf (if cause == 3 then decide (max 1 (s.rd (FLC_CFG.ERR_LIMIT (link / 12))) ≤ uncorr)
          else if cause == 8 then !s.on (FLC_LINK_CTRL.EN (link / 12) (link % 12))
          else if cause == 9 then s.fatalLatch else true)
        (linkDown link cause))) s

/-- FABRIC_LINK_DOWN_END (R339): 1 ms after DOWN, TRAINING, or FAILED at FLAP_LIMIT downs within 60 s; in the safe state the link stays
DOWN (R365). -/
def execFabricLinkDownEnd (link : Nat) (s : State) : Host.Outcome State Fault Refusal :=
  command (.fabricLinkDownEnd link) (.look fun s =>
    let x := s.linkXAt link
    let n := (x.downs.filter (fun d => !s.since d 60000000001)).length
    onlyIf (s.linkState link == 6 && s.since x.stateAt 1000000 && !s.fatalLatch) (
      either (max 1 (s.rd (FLC_CFG.FLAP_LIMIT (link / 12))) ≤ n) (setLinkState link 7) (linkTrain link))) s

/-- The check of an arriving cell (R334, R342): a link receives in TEST, HOLDOFF and UP; a bad cell, one of a reserved TYPE or one of
another generation, or that comes before a HELLO has named one, is discarded and counted, and so is every cell in the states in which the link takes none; a HELLO in TEST may
name a new generation. -/
def cellChecked (l : Nat) (cell : List Nat) (bad : Bool) (k : CellHead → Prog) : Prog := .look fun s =>
  let h := cellHead cell
  let c := l / 12
  let i := l % 12
  let x := s.linkXAt l
  let gen := s.rd (FLC_LINK_STAT.RX_GEN c i)
  let hello := h.type == 5 && h.bits 67 64 == 0 && s.linkState l == 3 && gen == 0 && cell.getD 14 0 != x.forgotten &&
    cell.getD 14 0 == h.lgen && h.lgen != 0
  let off := s.linkState l < 3 || 5 < s.linkState l
  onlyIf (s.linkState l != 0) (
    if bad || !h.crcOk || 6 ≤ h.type then
      .andThen (bumpF (FLC_LINK_BAD.reg c i) 1) (onlyIf (s.linkState l == 3) (.put (.linkX l { x with testErr := true })))
    else if hello then seqs [setF (FLC_LINK_STAT.RX_GEN c i) h.lgen, count 11 (16 * l + 1) 1, k h]
    else if off || gen == 0 || h.lgen != gen then bumpF (FLC_LINK_STALE.reg c i) 1
    else .andThen (count 11 (16 * l + 1) 1) (k h))

/-- The codewords that the FEC of an enabled link corrected since its last cell are counted (R593). -/
def fecCorrected (l n : Nat) : Prog := .look fun s => onlyIf (s.linkState l != 0) (count 11 (16 * l + 2) n)

/-- What a LINK cell does (R338): HELLO names the peer (ROLE 0 fails the link, cause 6), DOWN takes the link down with cause 5, REACH
replaces the reach bitmap, FC sets the flow-control bits, and in TEST an error of the TEST pattern, which its first 128 bytes carry, fails the test (R339). -/
def linkCell (l : Nat) (cell : List Nat) (h : CellHead) : Prog := .look fun s =>
  let c := l / 12
  let i := l % 12
  let p := cell.drop 10
  let sub := h.bits 67 64
  if sub == 0 then seqs [
    setF (FLC_LINK_PEER.VALID c i) 1,
    setF (FLC_LINK_PEER.ROLE c i) (p.getD 0 0),
    setF (FLC_LINK_PEER.PEER_ID c i) (ofBytesBE ((p.drop 1).take 2)),
    setF (FLC_LINK_PEER.PEER_PORT c i) (p.getD 3 0),
    .put (.linkX l { s.linkXAt l with gotHello := (s.linkXAt l).gotHello || p.getD 0 0 == 1 }),
    onlyIf (p.getD 0 0 == 0) (linkDown l 6)]
  else if sub == 1 then linkDown l 5
  else if sub == 2 then reachChanged (.andThen
    (.put (.linkX l { s.linkXAt l with gotReach := true, reach := BitVec.ofNat 1024 (ofBytesLE (p.take 128)), reachAt := some s.mono }))
    (setF (FLC_LINK_STAT.REACH_VALID c i) 1))
  else if sub == 3 then setF (FLC_LINK_STAT.FC c i) (p.getD 0 0 % 4)
  else if sub == 4 then onlyIf (s.linkState l == 3 && !prbsOk (p.take 128)) (.put (.linkX l { s.linkXAt l with testErr := true }))
  else .skip

/-- LINK_CELL_RECEIVE (R334, R338): a LINK cell arrives; `bad` says that one of its bytes lay in an uncorrectable codeword, and how many codewords were corrected. -/
def execLinkCellReceive (link : Nat) (cell : List Byte) (bad : Bool × Nat) (s : State) : Host.Outcome State Fault Refusal :=
  command (.linkCellReceive link cell bad) (.andThen (fecCorrected link bad.2)
    (cellChecked link (cell.map BitVec.toNat) bad.1 (fun h => onlyIf (h.type == 5) (linkCell link (cell.map BitVec.toNat) h)))) s

/-- REACH_TIMEOUT (R343): a link with no REACH for 1 ms reaches no device. -/
def execReachTimeout (link : Nat) (s : State) : Host.Outcome State Fault Refusal :=
  command (.reachTimeout link) (.look fun s =>
    onlyIf (match (s.linkXAt link).reachAt with | some t => s.since t 1000000 | none => true)
      (reachChanged (setF (FLC_LINK_STAT.REACH_VALID (link / 12) (link % 12)) 0))) s

end Sys2Proof.Machine
end

