-- ==== Sys2Proof/Machine/Cry.lean ====
section
/-!
DEFINITION. The fault collector (spec/17_faults.md): the log, open faults and their clearing, first-fault capture and the Fatal safe
state.
-/
namespace Sys2Proof.Machine

/-- The latest value no later than `now` whose bits 39:10 are the message's TIME (R577). -/
def extendTime (now t : Nat) : Nat :=
  let q := now / 1024
  let back := (q % 2 ^ 30 + 2 ^ 30 - t % 2 ^ 30) % 2 ^ 30
  min now ((q - back) * 1024 + 1023)

/-- The lower byte of a page's BLK_ID.TYPE. -/
def srcTypeOf (page : Nat) : Nat := match blockOf page with | some b => b.type % 256 | none => 0

/-- A message as its 128 bits (R573). -/
def CryMsg.bits (m : CryMsg) : Nat :=
  srcTypeOf m.page * 2 ^ 120 + instanceOf m.page * 2 ^ 108 + dieOf m.page * 2 ^ 107 + m.kind % 1024 * 2 ^ 97 + m.cls % 8 * 2 ^ 94
    + m.addr % 2 ^ 48 * 2 ^ 46 + m.master % 65536 * 2 ^ 30 + m.time % 2 ^ 30

/-- Fields of an OPEN entry (spec/17_faults.md, CRY table 0). -/
def OPEN.VALID : EF := ed 0 31 31
def OPEN.CLASS : EF := ed 0 30 28
def OPEN.DIE : EF := ed 0 27 27
def OPEN.SRC_TYPE : EF := ed 0 23 16
def OPEN.INSTANCE : EF := ed 0 11 0
def OPEN.KIND : EF := ed 1 25 16
def OPEN.COUNT : EF := ed 1 15 0
def OPEN.FIRST : EF := ⟨1, 127, 64⟩
def OPEN.LAST : EF := ⟨1, 191, 128⟩
def OPEN.ADDR_LO : EF := ed 6 31 0
def OPEN.MASTER : EF := ed 7 31 16
def OPEN.ADDR_HI : EF := ed 7 15 0

/-- The indices of the open entries of CRY table 0. -/
def State.openIndices (s : State) : List Nat := s.tabIndices 5 0

/-- The OPEN entry of a page and kind (R588). -/
def State.openAt (s : State) (page kind : Nat) : Option Nat :=
  s.openIndices.find? (fun i => s.openPageAt i == page && (s.tab 5 0 i).f OPEN.KIND == kind)

/-- The lowest number not in a rising list. -/
def lowestFree : List Nat → Nat → Nat
  | [], k => k
  | j :: r, k => if j == k then lowestFree r (k + 1) else k

/-- OPEN_CLASS of a page and the counts of CRY_STAT follow the open entries and the Fatal capture (R585). -/
def refreshOpen (page : Nat) : Prog := .look fun s =>
  let cls := (s.openIndices.filter (fun i => s.openPageAt i == page)).foldl (fun a i => max a ((s.tab 5 0 i).f OPEN.CLASS)) 0
  let fatalHere := s.fatalLatch && s.rd CRY_FATAL_STAT.VALID == 1 &&
    s.rd (CRY_FATAL_MSG.reg 0) / 2 ^ 24 == srcTypeOf page && s.rd (CRY_FATAL_MSG.reg 0) / 2 ^ 12 % 2 ^ 12 == instanceOf page
  let n (c : Nat) := (s.openIndices.filter (fun i => (s.tab 5 0 i).f OPEN.CLASS == c)).length
  seqs [
    setF (BLK_STAT.OPEN_CLASS page) (if fatalHere then 4 else cls),
    setF CRY_STAT.OPEN_CONTAINED (n 2),
    setF CRY_STAT.OPEN_DEGRADED (n 3)]

/-- A Contained or Degraded message opens an entry at the lowest free index, or adds to the entry of its pair (R588, R592). -/
def openFault (m : CryMsg) (t : Nat) : Prog := .look fun s =>
  .andThen
    (match s.openAt m.page m.kind with
      | some i =>
        let e := s.tab 5 0 i
        setTab 5 0 i ((e.put OPEN.COUNT (satAdd 16 (e.f OPEN.COUNT) 1)).put OPEN.LAST t)
      | none =>
        let i := lowestFree s.openIndices 0
        let e := ((((({ } : Entry).put OPEN.VALID 1).put OPEN.CLASS m.cls).put OPEN.DIE (dieOf m.page)).put OPEN.SRC_TYPE (srcTypeOf m.page)).put
          OPEN.INSTANCE (instanceOf m.page)
        let e := (((e.put OPEN.KIND m.kind).put OPEN.COUNT 1).put OPEN.FIRST t).put OPEN.LAST t
        let e := ((e.put OPEN.ADDR_LO (m.addr % 2 ^ 32)).put OPEN.ADDR_HI (m.addr / 2 ^ 32)).put OPEN.MASTER m.master
        seqs [setTab 5 0 i e, .put (.openPage i m.page), raise 5 16])
    (refreshOpen m.page)

/-- Whether a message comes before another in the first-fault window: by extended time, then from the TM die, then by lower page (R583). -/
def firstBefore (a b : CryMsg × Nat) : Bool :=
  a.2 < b.2 || (a.2 == b.2 && (dieOf b.1.page < dieOf a.1.page || (dieOf a.1.page == dieOf b.1.page && a.1.page < b.1.page)))

/-- Four capture registers take a message, most significant word first, and a LO/HI pair its time. -/
def captureMsg (msg : Nat → Fld) (lo hi : Fld) (m : CryMsg) (t : Nat) : Prog :=
  .andThen (each (List.range 4) (fun i => setF (msg i) (m.bits / 2 ^ (96 - 32 * i) % 2 ^ 32)))
    (.andThen (setF lo (t % 2 ^ 32)) (setF hi (t / 2 ^ 32)))

/-- The first-fault window closes once its 2 µs have passed (R583): CRY_FIRST takes the earliest of its messages. -/
def closeFirst : Prog := .look fun s =>
  match s.firstEnd, s.firstWin with
  | some e, x :: r =>
    onlyIf (e ≤ s.mono) (
      let best := r.foldl (fun a b => if firstBefore b a then b else a) x
      seqs [
        captureMsg CRY_FIRST_MSG.reg CRY_FIRST_TIME_LO.reg CRY_FIRST_TIME_HI.reg best.1 best.2,
        setF CRY_FIRST_CTRL.MORE 0,
        setF CRY_FIRST_CTRL.VALID 1,
        raise 5 19,
        .put (.firstWin []),
        .put (.firstEnd none)])
  | _, _ => .skip

/-- A message reaches the first-fault capture (R583): it opens the 2 µs window, joins it, or counts in MORE. -/
def firstFault (m : CryMsg) (t : Nat) : Prog := .andThen closeFirst <| .look fun s =>
  onlyIf (min 4 (s.rd CRY_CFG.FIRST_MIN) ≤ m.cls) (
    if s.rd CRY_FIRST_CTRL.VALID == 1 then bumpF CRY_FIRST_CTRL.MORE 1
    else .andThen (.put (.firstWin (s.firstWin ++ [(m, t)])))
      (onlyIf s.firstEnd.isNone (.put (.firstEnd (some (s.mono + 2000))))))

/-- A message is appended to the log, or counted as lost when the log is full (R581). -/
def logMessage (m : CryMsg) (t : Nat) : Prog := .look fun s =>
  onlyIf (min 2 (s.rd CRY_CFG.LOG_MIN) ≤ m.cls) (
    either (s.cryLog.length < 4096)
      (.andThen (.put (.cryLog (s.cryLog ++ [(m, t)]))) (raise 5 17))
      (seqs [bumpF CRY_LOG_STAT.LOST 1, setF CRY_LOG_STAT.OVERFLOW 1, raise 5 18]))

/-- What the collector does with a message (R577, R579, R581, R583, R588). -/
def collect (m : CryMsg) : Prog := .look fun s =>
  let t := extendTime s.ns64 m.time
  seqs [
    bumpF (CRY_CLASS_COUNT.reg m.cls) 1,
    logMessage m t,
    firstFault m t,
    onlyIf (m.cls == 2 || m.cls == 3) (openFault m t)]

/-- CRIER_RECEIVE (R576, R581): the oldest message of a page's queue reaches the collector, and a held message of the page takes the room; from the FE die over the
die-to-die link, behind the forwarder's earlier requests (R29, R33, R36). -/
def execCrierReceive (page : Nat) (s : State) : Host.Outcome State Fault Refusal :=
  command (.crierReceive page) (.look fun s =>
    match s.cryQueueAt page with
    | [] => .skip
    | m :: r => onlyIf (dieOf page == 1 || s.crossFree 17) <|
      let held := (s.cryPend.find? (fun kv => kv.1 / 1024 == page)).bind (fun kv => kv.2.map (fun h => (kv.1, h)))
      seqs [
        onlyIf (dieOf page == 0) (enginePass 17 [m.bits]),
        .put (.cryQueue page r),
        (match held with
          | some (k, h) => .andThen (.put (.cryPend k none)) (.put (.cryQueue page (r ++ [h])))
          | none => .skip),
        collect m]) s

/-- FIRST_WINDOW_CLOSE (R583): 2 µs after the first qualifying message CRY_FIRST takes the earliest of the window. -/
def execFirstWindowClose (s : State) : Host.Outcome State Fault Refusal := command .firstWindowClose closeFirst s

/-- The safe state (R586, R587): the Fatal latch, FATAL_N, DEV_STAT, every transmitter idle and every link not DISABLED sending DOWN with
cause 9. -/
def safeState : Prog := .look fun s => onlyIf (!s.fatalLatch) (seqs [
  .put .fatalLatch,
  setF DEV_STAT.FATAL_LATCHED 1,
  setF CRY_STAT.FATAL 1,
  setF FAB_STAT.SAFE 1,
  emit (.pin "FATAL_N" false),
  sideband [3],
  each (List.range 48) (fun p => emit (.signal 3 p true)),
  each (List.range 144) (fun l => .look fun t => onlyIf (t.linkState l != 0)
    (.andThen (onlyIf (!(3 ≤ t.linkState l && t.linkState l ≤ 5)) (sendLinkCell l 1 [9])) (linkDown l 9)))])

/-- A Fatal condition of a kind a block may raise (R578): captured on its page, the safe state entered, the message on its way to
CRY_FATAL (R586). -/
def goFatal (page kind addr : Nat) : Prog := .look fun s => seqs [
  capture page 4 2 addr 0xE000 4 kind 0,
  raise page 3,
  .put (.fatalQ (s.fatalQ ++ [(errorMsg s page addr 0xE000 4 kind, s.mono)])),
  safeState]

/-- The pages and kinds of class Fatal (R578). -/
def isFatalKind (page kind : Nat) : Bool :=
  (page == 1 && (kind == 0x24 || kind == 0x25)) || (page == 9 && kind == 0x25) || (page == 256 && kind == 0x21) || (page == 257 && kind == 0x21)

/-- FATAL_DETECT (R586): a block detects a Fatal condition of one of its kinds. -/
def execFatalDetect (page kind addr : Nat) (s : State) : Host.Outcome State Fault Refusal :=
  command (.fatalDetect page kind addr) (onlyIf (isFatalKind page kind) (goFatal page kind addr)) s

/-- FATAL_CAPTURE (R584, R586): 10 µs after detection the Fatal message is in CRY_FATAL, or counted there when it is not the first. -/
def execFatalCapture (s : State) : Host.Outcome State Fault Refusal :=
  command .fatalCapture (.look fun s =>
    match s.fatalQ with
    | [] => .skip
    | (m, t0) :: r => onlyIf (s.since t0 10000) (seqs [
        .put (.fatalQ r),
        collect m,
        (either (s.rd CRY_FATAL_STAT.VALID == 1)
          (bumpF CRY_FATAL_STAT.COUNT 1)
          (seqs [
            captureMsg CRY_FATAL_MSG.reg CRY_FATAL_TIME_LO.reg CRY_FATAL_TIME_HI.reg m (extendTime s.ns64 m.time),
            setF CRY_FATAL_STAT.VALID 1,
            raise 5 20])),
        refreshOpen m.page])) s

/-- A write of 1 to CRY_FATAL_STAT.VALID (R584): ignored while the Fatal latch is set. -/
def fatalClear : Prog := .look fun s =>
  onlyIf (!s.fatalLatch) (.andThen (setF CRY_FATAL_STAT.VALID 0) (setF CRY_FATAL_STAT.COUNT 0))

/-- Fields of a queue pair's context that the collector and the DMA engine share (spec/13_host_interface.md, PCIE table 0): EN and STATE. -/
def qpStateEF : EF := ed 0 30 29
def qpErrEF : EF := ed 11 7 0

/-- Whether the cause of an open entry's kind persists (R578, R590). -/
def State.causePersists (s : State) (page kind addr : Nat) : Bool :=
  let inst := instanceOf page
  if page == 1 && kind == 0x21 then 3 ≤ (s.wdogTimes.filter (fun t => !s.since t 600000000000)).length
  else if (page == 2 || page == 3) && kind == 0x20 then 2 ≤ (s.tab 3 0 addr).f qpStateEF ||
    (s.tabIndices 3 0).any (fun q => (s.tab 3 0 q).f qpStateEF == 2 || ((s.tab 3 0 q).f qpStateEF == 3 && (s.tab 3 0 q).f qpErrEF != 0))
  else if (page == 2 || page == 3) && kind == 0x21 then s.contained
  else if page == 7 && (kind == 0x20 || kind == 0x21) then s.rd PPR_STAT.BREACH == 1
  else if page == 9 && kind == 0x24 then s.rd RPR_STAT.DEGRADED != 0
  else if (page == 98 || page == 99) && kind == 0x21 then
    s.tables.any (fun kv => kv.1 / 2 ^ 22 == 98 * 64 && (match kv.2 with | some e => e.on (ed 0 28 28) | none => false))
  else if page == 100 && kind == 0x21 then s.poisoned.any (fun kv => kv.2)
  else if page == 146 && kind == 0x20 then s.rd GRN_STAT.STATE == 3
  else if 148 ≤ page && page < 152 && kind == 0x22 then s.rd (HBMC_STAT.STATE inst) == 3
  else if 152 ≤ page && page < 168 && kind == 0x22 then s.rd (DDRC_STAT.STATE inst) == 5
  else if 152 ≤ page && page < 168 && kind == 0x23 then s.rd (DDRC_STAT.THROTTLED inst) == 1
  else if 152 ≤ page && page < 168 && kind == 0x24 then s.rd (DDRC_DEV_FAILED.COUNT inst) != 0
  else if page == 240 && kind == 0x20 then (match s.dupIdAt with | some t => !s.since t 1000000000 | none => false)
  else if page == 257 && kind == 0x20 then s.rd PWR_STAT.THROTTLING == 1
  else false

/-- The FAULT_CLEAR record of an open entry (R582, R655): AUX 0 accepted, 1 refused, 2 release action. -/
def clearRecord (page off kind index origin aux : Nat) (s : State) : JRec :=
  mkRecord s 4 origin page 0 off (kind * 65536 + index) aux

/-- A refused clear (R582, R590): counted, captured with the access that asked for it, `data` being the word it wrote (R61), recorded and shown in BLOCK_INT bit 21. -/
def clearRefused (page off kind index origin data : Nat) : Prog := seqs [
  bumpF CRY_REFUSED.reg 1,
  (if off == 0x100 then reportError 5 2 1 (data % 2 ^ 28) origin 0 0x20 data else reportError 5 1 0 (page * 65536 + off) origin 0 0x20 data),
  raise 5 21,
  .look fun s => recordLater (clearRecord page off kind index origin 1 s)]

/-- The entry at an OPEN index goes, and the page's class follows. -/
def closeOpen (i : Nat) : Prog := .look fun s =>
  .andThen (.put (.tables (tabKey 5 0 i) none)) (refreshOpen (s.openPageAt i))

/-- A successful release action clears the open entry of a page and kind (and of an address, where the kind names a unit), as though the
releasing master had deleted it (R591). -/
def releaseClears (page off kind origin : Nat) (addr : Option Nat) : Prog := .look fun s =>
  match s.openAt page kind with
  | some i =>
    onlyIf (match addr with | some a => (s.tab 5 0 i).f OPEN.ADDR_LO == a | none => true)
      (.andThen (closeOpen i) (recordLater (clearRecord page off kind i origin 2 s)))
  | none => .skip

end Sys2Proof.Machine
end

