-- ==== Sys2Proof/Machine/Rows.lean ====
section
/-!
DEFINITION. The rows of the memories behind the controllers (spec/10_memory_controllers.md R392 to R398, R405 to R409, R412): targets 0 to 3 are the HBM stacks, 4 to 19 the
Granary channels; the address map, the page policy, activate counting, and the errors of accesses.
-/
namespace Sys2Proof.Machine

/-! ### Targets -/

/-- The page of a target's controller. -/
def tgtPage (t : Nat) : Nat := if t < 4 then 148 + t else 148 + t

/-- Whether a target is a stack. -/
def isStack (t : Nat) : Bool := t < 4

/-- The stacks, and the Granary channels, as targets. -/
def stackTargets : List Nat := List.range 4
def channels : List Nat := (List.range 16).map (fun d => d + 4)

/-- A field at the same place in both kinds of controller: STATE, CAUSE, the counts and the settings. -/
def tgtFld (t off off' hi lo : Nat) : Fld := ⟨tgtPage t, if isStack t then off else off', hi, lo⟩

def tgtState (t : Nat) : Fld := tgtFld t 0x210 0x210 31 29
def tgtCause (t : Nat) : Fld := tgtFld t 0x210 0x210 28 25
def tgtRetrainMs (t : Nat) : Fld := tgtFld t 0x200 0x200 31 24
def tgtScrubH (t : Nat) : Fld := tgtFld t 0x200 0x200 23 16
def tgtThresh (t : Nat) : Fld := tgtFld t 0x200 0x200 15 0
def tgtUeLimit (t : Nat) : Fld := tgtFld t 0x204 0x204 15 0
def tgtCe (t : Nat) : Fld := tgtFld t 0x214 0x250 31 0
def tgtUe (t : Nat) : Fld := tgtFld t 0x218 0x254 31 0
def tgtNref (t : Nat) : Fld := tgtFld t 0x21C 0x258 31 0
def tgtRepairs (t : Nat) : Fld := tgtFld t 0x220 0x25C 31 0

/-- STATE codes: READY and OUT_OF_SERVICE. -/
def stReady (t : Nat) : Nat := if isStack t then 2 else 3
def stOut (t : Nat) : Nat := if isStack t then 3 else 5
def stTraining (t : Nat) : Nat := if isStack t then 1 else 2

/-- Whether a target is READY. -/
def State.memReady (s : State) (t : Nat) : Bool := s.rd (tgtState t) == stReady t

/-- A target's state with its cause. -/
def setTgt (t st cause : Nat) : Prog := .andThen (setF (tgtState t) st) (setF (tgtCause t) cause)

/-- What a controller keeps changes. -/
def setMem (t : Nat) (f : MemX → MemX) : Prog := .look fun s => .put (.memX t (f (s.memXAt t)))

/-- The channels that are READY. -/
def State.readyChannels (s : State) : List Nat := channels.filter (fun t => s.memReady t)

/-- The modules of a channel in use: TYPE, RANKS and CAP_GIB of each slot with a usable module. -/
def State.modulesOf (s : State) (d : Nat) : List (Nat × Nat × Nat) :=
  ((s.memXAt (d + 4)).spd0, (s.memXAt (d + 4)).spd1) |> fun x =>
    ([x.1, x.2].filter (fun m => usable m)).map (fun m => (m.getD 1 0, m.getD 4 0, m.getD 5 0))
where
  /-- Whether a module may be used, as its SPD tells (R383, R384): [CRC right, type, x4 DRAMs, check bits, ranks, GiB, ...]. -/
  usable (m : List Nat) : Bool :=
    !m.isEmpty && m.getD 0 0 == 1 && (m.getD 1 0 == 1 || m.getD 1 0 == 2) && m.getD 2 0 == 1 && m.getD 3 0 == 1 &&
      [1, 2, 4].contains (m.getD 4 0) && [64, 96, 128, 192, 256, 512, 1024].contains (m.getD 5 0)

/-- Whether a module's SPD names one that the Granary accepts (R383, R384). -/
def spdUsable (m : List Nat) : Bool := State.modulesOf.usable m

/-- The capacity of a channel in GiB. -/
def State.chanGib (s : State) (d : Nat) : Nat := (s.modulesOf d).foldl (fun a m => a + m.2.2) 0

/-- A target is to go out of service (R413): the first cause stands until MEM_OUT_OF_SERVICE. -/
def failTarget (t cause : Nat) : Prog := setMem t (fun x => if x.failing == 0 then { x with failing := cause } else x)

/-! ### Activates (R405 to R407) -/

/-- The key of a bank of a target. -/
def bankKey (t bank : Nat) : Nat := 65536 * t + bank

/-- The least count of a table, and the first row that has it. -/
def leastRow (rows : List (Nat × Nat)) : Option (Nat × Nat) := rows.find? (fun x => rows.all (fun y => decide (x.2 ≤ y.2)))

/-- A table after an activate of a row (R405). -/
def actRows (rows : List (Nat × Nat)) (r : Nat) : List (Nat × Nat) :=
  if rows.any (fun x => x.1 == r) then rows.map (fun x => if x.1 == r then (r, x.2 + 1) else x)
  else if rows.length < 64 then rows ++ [(r, 1)]
  else match leastRow rows with
    | none => rows
    | some (o, n) => rows.map (fun x => if x.1 == o then (r, n + 1) else x)

/-- The refresh that a target makes for a row's neighbours (R406), by what the SPD of the module that holds the rank advertises. -/
def State.refreshKind (s : State) (t bank : Nat) : Nat :=
  if isStack t then 0
  else
    let x := s.memXAt t
    let slot := if bank / 256 < (if spdUsable x.spd0 then x.spd0.getD 4 0 else 0) then x.spd0 else x.spd1
    if slot.getD 8 0 == 1 then 1 else 2

/-- One activate of a row of a bank: counted, and at ACT_THRESH the neighbours are refreshed, which closes the row, and the count drops to the table's lowest (R405, R406). -/
def activate (t bank r : Nat) : Prog := .look fun s =>
  let k := bankKey t bank
  let x := s.actTabAt k
  let rows := actRows x.rows r
  let n := ((rows.find? (fun y => y.1 == r)).map Prod.snd).getD 0
  let least := ((leastRow rows).map Prod.snd).getD 0
  if max 1024 (s.cfg (tgtThresh t)) ≤ n then seqs [
    .put (.actTab k { rows := rows.map (fun y => if y.1 == r then (r, least) else y), total := x.total + 1 }), bumpF (tgtNref t) 1,
    emit (.refresh t bank r (s.refreshKind t bank)), .put (.openRow k none)]
  else .put (.actTab k { rows := rows, total := x.total + 1 })

/-! ### The address map (R392 to R396) -/

/-- The interleave targets of a tier: 64 pseudo-channels of each stack in service, or the Granary channels, each with its memory target (R392). -/
def State.tierTargets (s : State) (tier : Nat) : List (Nat × Nat) :=
  if tier == 2 then (stackTargets.filter (fun t => s.memReady t)).flatMap (fun t => (List.range 64).map (fun k => (t, k))) else s.readyChannels.map (fun t => (t, 0))

/-- The grain in force in a tier (R393). -/
def State.grain (s : State) (tier : Nat) : Nat := 256 * 2 ^ s.rd (if tier == 2 then HBMC_IL_STAT.GRAIN_USED else DDRC_IL_STAT.GRAIN_USED)

/-- The target of `n` to which an address maps under a grain, and its target address (R392). -/
def mapAddr (n g a : Nat) : Nat × Nat := (a / g % n, a / (g * n) * g + a % g)

/-- The bytes of a Granary channel, and its ranks. -/
def State.chanBytes (s : State) (t : Nat) : Nat := s.chanGib (t - 4) * 2 ^ 30
def State.chanRanks (s : State) (t : Nat) : Nat := max 1 ((s.modulesOf (t - 4)).foldl (fun a m => a + m.2.1) 0)

/-- The bytes of a tier, and of its buffer area, above which the control area lies (R392, R394). -/
def State.tierBytes (s : State) (tier : Nat) : Nat :=
  if tier == 2 then 24 * 2 ^ 30 * (stackTargets.filter (fun t => s.memReady t)).length else s.readyChannels.foldl (fun a t => a + s.chanBytes t) 0
def State.bufferBytes (s : State) (tier : Nat) : Nat :=
  if tier == 2 then 22 * 2 ^ 30 * (stackTargets.filter (fun t => s.memReady t)).length else s.rd GRN_CAP.BUF_REGIONS * 2 ^ 30

/-- The tier address that an operand or a free value names for an access of a class: control data in the control area, a scrub anywhere, packets in the buffer area (R394, R398). -/
def State.accAddr (s : State) (tier cls c : Nat) : Nat :=
  let all := s.tierBytes tier
  let buf := min all (s.bufferBytes tier)
  if cls == 2 || cls == 3 || cls == 7 then buf + c % max 1 (all - buf) else if cls == 6 then c % max 1 all else c % max 1 buf

/-- The bank and row of a target address under a grain: the bits above the grain XORed with row bits, so that consecutive grains fall in different banks (R392). -/
def bankRow (stack : Bool) (g ta : Nat) : Nat × Nat :=
  let banks := 2 ^ min 8 (Config.bankBits stack)
  let row := Config.rowOf stack (ta / g / banks)
  ((ta / g % banks) ^^^ (Config.rowXor stack row % banks), row)

/-- Where a copy of an address lies: the memory target, the bank, 256 times the pseudo-channel or rank and the bank in it, and the row; none outside the tier, or in a self-refresh unit that
is masked.  The second copy of a block header lies at the same target address half the targets on, with one channel in the other half of its ranks (R392, R395, R396, R403). -/
def State.memPlace (s : State) (tier a : Nat) (second : Bool) : Option (Nat × Nat × Nat) :=
  let l := s.tierTargets tier
  let n := l.length
  let g := s.grain tier
  let m := mapAddr (max 1 n) g a
  if s.tierBytes tier ≤ a || (tier == 3 && s.sruMask.contains (a / 2 ^ 30 / max 1 (s.rd DDRC_SHARE.SRU_GIB))) then none
  else (l[if second then (m.1 + n / 2) % max 1 n else m.1]?).map (fun x =>
    if tier == 2 then let b := bankRow true g m.2; (x.1, 256 * x.2 + b.1, b.2)
    else
      let c := max 1 (s.chanBytes x.1)
      let ta := if second && n == 1 then (m.2 + c / 2) % c else m.2 % c
      let rank := max 1 (c / s.chanRanks x.1)
      let b := bankRow false g (ta % rank)
      (x.1, 256 * (ta / rank) + b.1, b.2))

/-! ### Page policy (R397, R398) -/

/-- The hint of a class of requester: 0 AUTO, 1 CLOSE, 2 OPEN, as the tier's HINT_MAP overrides it (R398). -/
def State.hint (s : State) (t cls : Nat) : Nat :=
  let given := [2, 2, 1, 1, 2, 2, 1, 2][cls]?.getD 0
  let map := s.cfg (if isStack t then HBMC_HINT_MAP.MAP else DDRC_HINT_MAP.MAP) / 4 ^ cls % 4
  if map == 1 || map == 2 then map else given

/-- PAGE_IDLE_NS of a target. -/
def tgtPageIdle (t : Nat) : Fld := tgtFld t 0x204 0x204 31 16

/-- Whether a row that an access opened is still open (R397). -/
def State.rowOpen (s : State) (t bank : Nat) (o : OpenRow) (row : Nat) : Bool :=
  o.row == row && o.hint == 2 && !Config.bankRefreshed (bankKey t bank) o.openedAt s.mono ((s.memXAt t).hot % 4 != 0) && decide (s.mono < o.lastAt + s.cfg (tgtPageIdle t)) && decide (s.mono < o.openedAt + 5000)

/-- An access to a row of a bank: an open row is used as it is; another is activated, and stays open when the hint of this access is OPEN (R397, R405).  No requester gives AUTO
and no override forces it (R398). -/
def rowAccess (t bank row cls : Nat) : Prog := .look fun s =>
  let k := bankKey t bank
  let h := s.hint t cls
  let fresh : Prog := .andThen (.put (.openRow k (if h == 2 then some { row := row, hint := h, openedAt := s.mono, lastAt := s.mono } else none))) (activate t bank row)
  match s.openRowAt k with
  | some o => if s.rowOpen t bank o row then .put (.openRow k (some { o with lastAt := s.mono })) else fresh
  | none => fresh

/-- The access of a class to an address of a tier. -/
def memAccess (tier cls : Nat) (second : Bool) (c : Nat) : Prog := .look fun s =>
  match s.memPlace tier (s.accAddr tier cls c) second with
  | some x => rowAccess x.1 x.2.1 x.2.2 cls
  | none => .skip

/-- Both copies of a block header (R395). -/
def headerAccess (tier c : Nat) : Prog := .andThen (memAccess tier 2 false c) (memAccess tier 2 true c)

/-- Whether accesses keep every bank within 65,536 activates in the present window; otherwise they wait (R407). -/
def State.actsFit (s : State) (p : Prog) : Bool := (p.run s).actTab.all (fun kv => decide (kv.2.total ≤ 65536))

/-- An access of a requester that waits for no answer: with the bank at 65,536 activates it is made in the next window (R407). -/
def lateAccess (tier cls c : Nat) : Prog := .look fun s =>
  match s.memPlace tier (s.accAddr tier cls c) false with
  | none => .skip
  | some x =>
    if (s.actTabAt (bankKey x.1 x.2.1)).total < 65536 then rowAccess x.1 x.2.1 x.2.2 cls else .put (.actWait (s.actWait ++ [(tier, cls, c)]))

/-- An access whose place no operand gives: a free value (log entry 83). -/
def freeAccess (tier cls : Nat) : Prog := draw (lateAccess tier cls)

/-- ACT_TABLE_CLEAR (R405, R407): every 32 ms every table is cleared, and the accesses that waited for the window are made. -/
def execActTableClear (s : State) : Host.Outcome State Fault Refusal :=
  command .actTableClear (.look fun s => onlyIf (s.since s.actAt 32000000) (seqs [
    .put (.actAt s.mono), each s.actTab (fun kv => .put (.actTab kv.1 {})),
    .put (.actWait []), each s.actWait (fun x => lateAccess x.1 x.2.1 x.2.2)])) s

/-! ### Errors (R408, R409, R412) -/

/-- Nanoseconds of 24 hours. -/
def dayNs : Nat := 86400000000000

/-- The bank group of a Granary row: everything of its key above the bank. -/
def bankGroup (row : Nat) : Nat := row / 2 ^ 32

/-- An uncorrectable read of a target: counted and reported; more than UE_LIMIT in 1 s take the target out (R409, R413). -/
def eccUncorrectable (acc t : Nat) : Prog := .look fun s =>
  let ues := s.mono :: (s.memXAt t).ues.filter (fun u => !s.since u 1000000000)
  seqs [
    bumpF (tgtUe t) 1,
    raise (tgtPage t) 17,
    unitError (tgtPage t) 0x021 2 0 0 acc,
    setMem t (fun x => { x with ues := ues }),
    onlyIf (s.cfg (tgtUeLimit t) < ues.length) (failTarget t (if isStack t then 3 else 7))]

/-- A corrected error (dram * 2^48 + target * 2^40 + row): written back, counted and reported; a row with three in 24 h is repaired, and a DRAM with 16 rows in 24 h has
failed.  In a subchannel, ten DRAMs, one of which has failed, an error of another can no longer be corrected (R412). -/
def eccCorrected (acc code : Nat) : Prog := .look fun s =>
  let t := code / 2 ^ 40 % 256 % 20
  let dram := code / 2 ^ 48
  let row := code % 2 ^ 40
  let x := s.memXAt t
  let ces := (x.ces.filter (fun c => !s.since c.2 dayNs)) ++ [(row, s.mono)]
  let hit := decide (3 ≤ (ces.filter (fun c => c.1 == row)).length) && !x.repairing.contains row && !x.repaired.contains row
  let free := isStack t || !(x.repairing ++ x.repaired).any (fun r => bankGroup r == bankGroup row)
  let drams := if isStack t then [] else (x.drams.filter (fun d => !s.since d.2.2 dayNs && !(d.1 == dram && d.2.1 == row))) ++ [(dram, row, s.mono)]
  let dead := !isStack t && decide (16 ≤ (drams.filter (fun d => d.1 == dram)).length) && !x.failed.contains dram
  if !isStack t && x.failed.any (fun d => d != dram && d / 10 == dram / 10) then eccUncorrectable acc t else seqs [
    bumpF (tgtCe t) 1,
    raise (tgtPage t) 16,
    unitError (tgtPage t) 0x020 1 row 0 acc,
    setMem t (fun y => { y with ces := ces, drams := drams, repairing := if hit && free then y.repairing ++ [row] else y.repairing,
                                failed := if dead then y.failed ++ [dram] else y.failed }),
    onlyIf dead (seqs [bumpF (DDRC_DEV_FAILED.COUNT (t - 4)) 1, raise (tgtPage t) 22, report (tgtPage t) 0x024 3])]

/-- The errors that a read of a tier meets which no operand gives, as a free value says: none, a corrected one, or one that cannot be corrected, of which `k` is told (log entry 83). -/
def readErrors (tier : Nat) (k : Bool → Prog) : Prog := draw fun v => .look fun s =>
  let t := if tier == 2 then v / 3 % 4 else 4 + v / 3 % 16
  if v % 3 == 1 && s.memReady t then .andThen (eccCorrected 4 (v / 2 ^ 8 % 40 * 2 ^ 48 + t * 2 ^ 40 + v / 2 ^ 16 % 2 ^ 40)) (k false)
  else if v % 3 == 2 && s.memReady t then .andThen (eccUncorrectable 4 t) (k true)
  else k false

end Sys2Proof.Machine
end

