-- ==== Sys2Proof/Machine/Journal.lean ====
section
/-!
DEFINITION. The parish register's rings (spec/20_presence_seal_journal.md R654 to R665, R694): the byte form of a record, the START
record, the persisted ring and the host ring.
-/
namespace Sys2Proof.Machine

/-- One byte into a reflected CRC-32C (R207: Castagnoli, 0x1EDC6F41 reflected is 0x82F63B78). -/
def crc32cByte (crc b : Nat) : Nat :=
  (List.range 8).foldl (fun c _ => if c % 2 == 1 then (c / 2) ^^^ 0x82F63B78 else c / 2) (crc ^^^ (b % 256))

/-- The CRC-32C of bytes (R207). -/
def crc32c (l : List Nat) : Nat := (l.foldl crc32cByte 0xFFFFFFFF) ^^^ 0xFFFFFFFF

/-- The 224 bytes of an entry as a READ would load its words (R655, kind TABLE). -/
def Entry.bytes (e : Entry) : List Nat := toBytesLE 32 e.key.toNat ++ toBytesLE 64 e.data.toNat ++ toBytesLE 128 e.ext.toNat

/-- The AUX of a TABLE record: the CRC-32C of the entry after the change, 0 when the change removed it (R655). -/
def entryAux (e : Option Entry) : Nat := match e with | some x => crc32c x.bytes | none => 0

/-- The record of a change to a table entry (R655): kind 3, offset 0x0100, VALUE the operation and the index. -/
def tableRecord (origin page table op index aux : Nat) (s : State) : JRec :=
  mkRecord s 3 origin page table 0x100 (op * 2 ^ 28 + index) aux

/-- The 32 bytes of a record (R654); `phase` is its PHASE bit in the host ring. -/
def JRec.bytes (r : JRec) (phase : Bool) : List Nat :=
  toBytesLE 8 r.seq ++ toBytesLE 8 r.time ++ toBytesLE 2 r.origin ++ [r.kind, b2n phase * 128 + b2n r.persist * 64 + b2n r.timeValid * 32]
    ++ toBytesLE 4 (r.page % 1024 * 2 ^ 22 + r.table % 64 * 2 ^ 16 + r.off % 65536) ++ toBytesLE 4 r.value ++ toBytesLE 4 r.aux

/-- A record as a table entry (spec/20_presence_seal_journal.md, JNL tables): DATA w holds bytes 4w to 4w + 3. -/
def JRec.entry (r : JRec) : Entry := { data := BitVec.ofNat 512 (ofBytesLE (r.bytes false)) }

/-- The START record (R655, R658, R694): it takes the first SEQ of the start, then the waiting records take the following ones. -/
def journalStart : Prog := .look fun s =>
  let high := s.jnlUnits.foldl (fun a kv => match kv.2 with | some r => max a r.seq | none => a) 0
  let first := if high == 0 then 1 else (high / 2 ^ 36 + 2) * 2 ^ 36 + 1
  let waiting := s.jnlPre
  seqs [
    .put (.jnlSeq first),
    .put (.jnlPre []),
    .look fun t => numberRecord { kind := 12, origin := 0x2000, persist := true, time := t.ns64, timeValid := t.timeValid,
                                  value := t.rd DEV_RESET_CAUSE.COLD, aux := t.rd DEV_STAT.BOOT_SLOT },
    each waiting acceptRecord]

/-- Whether persistence runs (R662): the main core is up and no power-fail warning is present. -/
def State.storeRuns (s : State) : Bool := s.rd DEV_STAT.MAIN_UP == 1 && s.rd DEV_STAT.PF_WARN == 0

/-- An area of the store is erased (R615, R616). -/
def eraseArea (a n : Nat) : Prog := .look fun s => .put (.erases a (min 131071 (s.erasesAt a + n)))

/-- JNL_UNIT_WRITE (R659, R665, R620): with records awaiting persistence and no unit write in progress, a unit of up to 256 of them starts;
the block of 16 units it begins is erased first; `badReads` is how many attempts failed their read-back, and a second failure abandons
the unit with PERSIST_FAIL, its records going into the next.  STORE_WRITE_DONE of region JOURNAL commits it. -/
def execJnlUnitWrite (badReads : Nat) (s : State) : Host.Outcome State Fault Refusal :=
  command (.jnlUnitWrite badReads) (.look fun s =>
    onlyIf (s.storeRuns && s.jnlWriting.isEmpty && !s.jnlPersist.isEmpty) (seqs [
      onlyIf (s.jnlUnit % 16 == 0)
        (.andThen (eraseArea (16 + s.jnlUnit / 16) 1) (each (s.jnlUnits.filter (fun kv => kv.1 / 4096 == s.jnlUnit / 16)) (fun kv => .put (.jnlUnits kv.1 none)))),
      either (badReads < 2)
        (.andThen (.put (.jnlWriting (s.jnlPersist.take 256))) (.put (.jnlPersist (s.jnlPersist.drop 256))))
        (seqs [.put (.jnlUnit ((s.jnlUnit + 1) % 4096)), reportError 6 4 2 s.jnlUnit 0xE000 2 0x20 0, raise 6 3, raise 6 19, report 8 0x21 2, raise 8 3, raise 8 21])])) s

/-- The unit being written is committed to the persisted ring (R665); backup-log entries whose records it holds are cleared (R649). -/
def jnlUnitDone : Prog := .look fun s =>
  onlyIf (!s.jnlWriting.isEmpty) (
    let done := s.bkpCopied.filter (fun x => s.jnlWriting.any (fun r => r.kind == 8 && r.off == x.1 && r.value + r.aux * 2 ^ 32 == x.2))
    seqs [
      each s.jnlWriting.zipIdx (fun x => .put (.jnlUnits (256 * s.jnlUnit + x.2) (some x.1))),
      .put (.jnlUnit ((s.jnlUnit + 1) % 4096)),
      .put (.jnlWriting []),
      each done (fun x => .andThen (setReg 7 (0x1000 + 8 * x.1) 0) (setReg 7 (0x1004 + 8 * x.1) 0)),
      .put (.bkpCopied (s.bkpCopied.filter (fun x => !(done.contains x)))),
      onlyIf (!done.isEmpty) (.look fun t => .andThen
        (setF BKP_STAT.LOG_COUNT (t.rd BKP_STAT.LOG_COUNT - done.length))
        (onlyIf (t.rd BKP_STAT.LOG_COUNT ≤ done.length) (.andThen (setF BKP_STAT.LOG_OVERFLOW 0) (.put (.bkpOver 0)))))])

/-- The size of the host ring in records (JNL_HOST_CFG.LOG: 12 to 24, others act as 12). -/
def State.jnlRing (s : State) : Nat := let l := s.rd JNL_HOST_CFG.LOG; 2 ^ (if 12 ≤ l && l ≤ 24 then l else 12)

/-- EN rises (R664): delivery starts from the first record of the backlog with SEQ at least JNL_HOST_START, on the ring's first pass. -/
def jnlHostRise : Prog := .look fun s => seqs [
  .put (.jnlNext (s.rd JNL_HOST_START_LO.reg + s.rd JNL_HOST_START_HI.reg * 2 ^ 32)),
  setF JNL_HOST_TAIL.INDEX 0,
  .put (.jnlPhase true)]

/-- Whether a function may write or read host memory: no containment, bus mastering enabled, not in D3hot (R461, R463, R488). -/
def State.dmaOn (s : State) (fn : Nat) : Bool := !s.contained && (s.pcieFnAt fn).bme && !(s.pcieFnAt fn).d3hot

/-- Whether the host ring takes the next backlog record: fewer than 2^LOG - 1 records are unread (R664). -/
def State.jnlReady (s : State) : Bool :=
  let size := s.jnlRing
  s.rd JNL_HOST_CFG.EN == 1 && s.jnlBacklog.any (fun r => decide (s.jnlNext ≤ r.seq)) &&
    decide ((s.rd JNL_HOST_TAIL.INDEX + size - s.rd JNL_HOST_HEAD.INDEX % size) % size < size - 1)

/-- JNL_HOST_WRITE (R664): the next backlog record is written to the host ring while fewer than 2^LOG - 1 records are unread. -/
def execJnlHostWrite (s : State) : Host.Outcome State Fault Refusal :=
  command .jnlHostWrite (.look fun s =>
    let size := s.jnlRing
    let tail := s.rd JNL_HOST_TAIL.INDEX
    match s.jnlBacklog.find? (fun r => s.jnlNext ≤ r.seq) with
    | some r => onlyIf (s.jnlReady && s.dmaOn 0 && s.rd PCIE_LINK_STAT.IN_L1 == 0) (seqs [
        emit (.dmaWrite 0 (s.rd JNL_HOST_BASE_LO.reg / 4096 * 4096 + s.rd JNL_HOST_BASE_HI.reg * 2 ^ 32 + 32 * tail) (r.bytes s.jnlPhase) {}),
        setF JNL_HOST_TAIL.INDEX ((tail + 1) % size),
        onlyIf (tail + 1 == size) (.put (.jnlPhase (!s.jnlPhase))),
        .put (.jnlNext (r.seq + 1)),
        raise 6 16])
    | none => .skip) s

end Sys2Proof.Machine
end

