-- ==== Sys2Proof/Machine/Keyed.lean ====
section
/-!
DEFINITION. The keyed families of the lookup memory (spec/05_forwarding_tables.md R174 to R181, R187 to R193, R701): where a key may lie, how it is
found, placed and removed, and the IPv4 and IPv6 length filters.
-/
namespace Sys2Proof.Machine

/-- The keyed families of R176. -/
inductive Fam where
  | lpm4
  | lpm6
  | mac
  | lifmap
  deriving DecidableEq, Repr

/-- The use code of a family. -/
def Fam.code : Fam → Nat
  | .lpm4 => 1 | .lpm6 => 2 | .mac => 3 | .lifmap => 4
/-- The page of a family. -/
def Fam.page : Fam → Nat
  | .lpm4 => 100 | .lpm6 => 100 | .mac => 102 | .lifmap => 101
/-- Entries per bucket. -/
def Fam.per : Fam → Nat
  | .lpm4 => 5 | .lpm6 => 5 | .mac => 5 | .lifmap => 4
/-- Buckets in a bank: 64-byte or 128-byte buckets in 4 MiB. -/
def Fam.buckets : Fam → Nat
  | .lpm6 => 32768 | _ => 65536
/-- Budget per bank. -/
def Fam.budget : Fam → Nat
  | .lpm4 => 262144 | .lpm6 => 131072 | .mac => 262144 | .lifmap => 196608
/-- KEY words that carry the key. -/
def Fam.keyWords : Fam → Nat
  | .lpm6 => 5 | _ => 2
/-- The select code of the keyed table. -/
def Fam.table : Fam → Nat
  | .lpm4 => 48 | .lpm6 => 49 | .mac => 0 | .lifmap => 2
/-- The seed register of the page. -/
def Fam.seed : Fam → Fld
  | .mac => L2B_HASH_SEED.SEED | .lifmap => EXM_HASH_SEED.SEED | _ => LPM_HASH_SEED.SEED

/-- The family that holds a use code. -/
def famOf (code : Nat) : Option Fam :=
  if code == 1 then some .lpm4 else if code == 2 then some .lpm6 else if code == 3 then some .mac else if code == 4 then some .lifmap else none

/-- The logical banks of a family, ascending (R178). -/
def State.famBanks (s : State) (f : Fam) : List Nat := (List.range 64).filter (fun b => s.rd (LPM_MEM_USE.USE b) == f.code)

/-- The place of slot `slot` of the bank at position `k`, or of stash entry `slot` (`stash`): its table select and index. -/
def State.slotAt (s : State) (f : Fam) (stash : Bool) (k slot : Nat) : Nat × Nat :=
  match f with
  | .lpm4 => if stash then (51, slot) else (((s.famBanks f).getD k 21) - 21, slot)
  | .lpm6 => if stash then (52, slot) else (((s.famBanks f).getD k 21) - 21, slot)
  | .mac => (0, if stash then 0x3FF800 + slot else 327680 * k + slot)
  | .lifmap => (2, if stash then 0x3FF800 + slot else 262144 * k + slot)

/-- A place a key may take: a bucket of the bank at a position, or the stash. -/
inductive Node where
  | bucket (k b : Nat)
  | stash
  deriving DecidableEq, Repr

/-- The slots of a node. -/
def State.nodeSlots (s : State) (f : Fam) : Node → List (Nat × Nat)
  | .bucket k b => (List.range f.per).map (fun i => s.slotAt f false k (f.per * b + i))
  | .stash => (List.range 2048).map (fun i => s.slotAt f true 0 i)

/-- The entry in a slot. -/
def State.inSlot (s : State) (f : Fam) (x : Nat × Nat) : Option Entry := s.tab? f.page x.1 x.2

/-- The key of an entry: its key words. -/
def Fam.keyOf (f : Fam) (e : Entry) : Nat := fieldOf e.key (32 * f.keyWords - 1) 0

/-- The bytes of a key: the key words in ascending order, each most significant byte first (R178). -/
def Fam.keyBytes (f : Fam) (key : Nat) : List Nat := ((List.range f.keyWords).map (fun w => toBytesBE 4 (key / 2 ^ (32 * w)))).flatten

/-- h1 (tag 1) or h2 (tag 2) of a key (R178). -/
def State.keyHash (s : State) (f : Fam) (tag key : Nat) : Nat := crc32c (toBytesBE 4 (s.rd f.seed) ++ [tag] ++ f.keyBytes key)

/-- The two candidate buckets of a key (R178); none while the family has no bank. -/
def State.candidates (s : State) (f : Fam) (key : Nat) : List Node :=
  let n := (s.famBanks f).length
  let h1 := s.keyHash f 1 key
  let h2 := s.keyHash f 2 key
  if n == 0 then []
  else
    let p1 := h1 % n
    let c1 := Node.bucket p1 (h1 / n % f.buckets)
    let c2 := if n == 1 then Node.bucket 0 (h2 % f.buckets) else Node.bucket ((p1 + 1 + h2 % (n - 1)) % n) (h2 / n % f.buckets)
    if c1 = c2 then [c1] else [c1, c2]

/-- The tables that hold a family's entries. -/
def State.famTables (s : State) (f : Fam) : List Nat :=
  match f with
  | .lpm4 => (s.famBanks f).map (fun b => b - 21) ++ [51]
  | .lpm6 => (s.famBanks f).map (fun b => b - 21) ++ [52]
  | .mac => [0]
  | .lifmap => [2]

/-- A family's entries: table, index and entry. -/
def State.famEntries (s : State) (f : Fam) : List (Nat × Nat × Entry) :=
  (s.famTables f).flatMap (fun t => s.tables.filterMap (fun kv =>
    if kv.1 / 2 ^ 22 == f.page * 64 + t then kv.2.map (fun e => (t, kv.1 % 2 ^ 22, e)) else none))

/-- The number of a family's entries, stash included. -/
def State.famCount (s : State) (f : Fam) : Nat := (s.famEntries f).length

/-- Whether a place of a family is in its stash. -/
def Fam.inStash (_ : Fam) (table index : Nat) : Bool := table == 51 || table == 52 || (table < 3 && 0x3FF800 ≤ index)

/-- The stash entries of a family. -/
def State.stashCount (s : State) (f : Fam) : Nat := ((s.famEntries f).filter (fun x => f.inStash x.1 x.2.1)).length

/-- A family's budget (R179). -/
def State.famBudget (s : State) (f : Fam) : Nat := f.budget * (s.famBanks f).length

/-- The slot that holds a key: one probe reads both candidate buckets and the stash (R194). -/
def State.findKey (s : State) (f : Fam) (key : Nat) : Option (Nat × Nat) :=
  match ((s.candidates f key).flatMap (s.nodeSlots f)).find? (fun x => match s.inSlot f x with | some e => f.keyOf e == key | none => false) with
  | some x => some x
  | none => ((s.famEntries f).find? (fun x => f.inStash x.1 x.2.1 && f.keyOf x.2.2 == key)).map (fun x => (x.1, x.2.1))

/-- The first free slot of a node. -/
def State.freeSlot (s : State) (f : Fam) (n : Node) : Option (Nat × Nat) := (s.nodeSlots f n).find? (fun x => (s.inSlot f x).isNone)

/-- A chain of relocations from the nodes of a queue to a free slot, nearest first: the slots whose entries move and the free slot (R178, R179);
`stash`: the stash is among the places.  No node is visited twice. -/
def State.chain (s : State) (f : Fam) (stash : Bool) : Nat → List (Node × List (Nat × Nat)) → List Node → Option (List (Nat × Nat) × (Nat × Nat))
  | 0, _, _ => none
  | _, [], _ => none
  | fuel + 1, (n, path) :: rest, seen =>
    match s.freeSlot f n with
    | some x => some (path, x)
    | none =>
      let more := (s.nodeSlots f n).foldl (fun a x =>
        match s.inSlot f x with
        | some e => ((s.candidates f (f.keyOf e)) ++ (if stash then [Node.stash] else [])).foldl
            (fun a m => if seen.contains m || a.any (fun y => decide (y.1 = m)) then a else a ++ [(m, path ++ [x])]) a
        | none => a) ([] : List (Node × List (Nat × Nat)))
      s.chain f stash fuel (rest ++ more) (seen ++ more.map Prod.fst)

/-- How a new key is placed (R178, R179): into a candidate bucket, by up to 128 relocations, into the stash, or by the extended search over every
chain. -/
def State.placement (s : State) (f : Fam) (key : Nat) : Option (List (Nat × Nat) × (Nat × Nat)) :=
  let c := (s.candidates f key).map (fun n => (n, ([] : List (Nat × Nat))))
  if s.famBudget f ≤ s.famCount f then none
  else
    match s.chain f false 128 c (c.map Prod.fst) with
    | some r => some r
    | none =>
      match s.freeSlot f .stash with
      | some x => some ([], x)
      | none => s.chain f true (2 * s.famCount f + 4) (c ++ [(.stash, [])]) (c.map Prod.fst ++ [.stash])

/-- The writes of a chain: each moved entry takes the next slot, from the free slot backwards, and the new entry the first slot; a moved
entry is written into its new slot before its old one changes (R180). -/
def chainWrites (f : Fam) (path : List (Nat × Nat)) (free : Nat × Nat) (e : Entry) : Prog := .look fun s =>
  let dests := (path.drop 1) ++ [free]
  let moved := (path.zip dests).reverse
  .andThen
    (each moved (fun m => .put (.tables (tabKey f.page m.2.1 m.2.2) (s.inSlot f m.1))))
    (let x := path.head?.getD free; .put (.tables (tabKey f.page x.1 x.2) (some e)))

/-- Where a chain puts the new entry. -/
def chainTarget (path : List (Nat × Nat)) (free : Nat × Nat) : Nat × Nat := path.head?.getD free

/-! ### Notifications and ageing of the MAC table (R215, R218) -/

/-- Fields of a MAC entry. -/
def MAC.STATIC : EF := ed 0 31 31
def MAC.HIT : EF := ed 0 30 30
def MAC.STALE : EF := ed 0 29 29
def MAC.DISCARD : EF := ed 0 28 28
def MAC.LIF : EF := ed 0 15 0
def MAC.LEARNED : EF := ed 1 31 31
def MAC.PORT : EF := ed 1 5 0

/-- A notification record is appended, or lost with the FIFO full (R218). -/
def notify (kind index bd mac lif old : Nat) : Prog := .look fun s =>
  let en := if kind == 1 then L2B_LEARN_CFG.NTF_LEARN else if kind == 2 then L2B_LEARN_CFG.NTF_MOVE
    else if kind == 3 then L2B_LEARN_CFG.NTF_AGE else L2B_LEARN_CFG.NTF_LIMIT
  onlyIf (s.rd en == 1) (
    either (s.l2bNtf.length < 4096)
      (seqs [
        .put (.l2bNtf (s.l2bNtf ++ [(kind * 2 ^ 28 + index, mac % 2 ^ 32, bd * 2 ^ 16 + mac / 2 ^ 32, lif * 2 ^ 16 + old)])),
        raise 102 16])
      (.andThen (setF L2B_NTF_STAT.OVERFLOW 1) (raise 102 17)))

/-- The sweeper removes a MAC entry (R215). -/
def ageOut (i : Nat) (e : Entry) : Prog := .andThen (.put (.tables (tabKey 102 0 i) none))
  (notify 3 i (e.f (ek 1 29 16)) (e.f (ek 0 31 0) + e.f (ek 1 15 0) * 2 ^ 32) (e.f MAC.LIF) 0)

/-- A held removal of the sweeper is carried out, unless the entry has gone or become static since (R216). -/
def heldAge (h : Held) : Prog := .look fun s =>
  match s.findKey .mac h.value with
  | some x => (match s.inSlot .mac x with
    | some e => onlyIf (!e.on MAC.STATIC)
        (.andThen (acceptRecord (tableRecord 0x5000 102 0 10 x.2 0 s)) (ageOut x.2 e))
    | none => .skip)
  | none => .skip

/-! ### The length filters (R189 to R193, R701) -/

/-- Fields of an LPM key and of a VRF entry. -/
def lpmVrf (f : Fam) (e : Entry) : Nat := if f = .lpm6 then e.f (ek 4 29 16) else e.f (ek 1 29 16)
def lpmLen (f : Fam) (e : Entry) : Nat := if f = .lpm6 then e.f (ek 4 7 0) else e.f (ek 1 7 0)

/-- The key of a prefix (spec/05, IPv4 entry and IPv6 entry): `addr` is the 32-bit or 128-bit address. -/
def lpmKey (f : Fam) (vrf len addr : Nat) : Nat :=
  if f = .lpm6 then
    addr / 2 ^ 96 % 2 ^ 32 + addr / 2 ^ 64 % 2 ^ 32 * 2 ^ 32 + addr / 2 ^ 32 % 2 ^ 32 * 2 ^ 64 + addr % 2 ^ 32 * 2 ^ 96 + (vrf * 2 ^ 16 + len) * 2 ^ 128
  else addr % 2 ^ 32 + (vrf * 2 ^ 16 + len) * 2 ^ 32

/-- The presence bit of a length in a VRF entry (R190). -/
def presence (f : Fam) (len : Nat) : EF := let b := (if f = .lpm6 then 32 else 0) + (len - 1); ⟨2, b, b⟩

/-- The filter load of a family (R192). -/
def loadOf (f : Fam) : Fld := if f = .lpm6 then LPM_LOAD6.VALUE else LPM_LOAD4.VALUE
/-- BUILD and REBUILD of a family. -/
def buildOf (f : Fam) : Fld := if f = .lpm6 then LPM_STAT.BUILD6 else LPM_STAT.BUILD4
def rebuildOf (f : Fam) : Fld := if f = .lpm6 then LPM_FILTER_CFG.REBUILD6 else LPM_FILTER_CFG.REBUILD4

/-- The bits that a key sets in its family's filter: 6 for IPv4 and 8 for IPv6, all in one 512-bit block of 384 KiB for each bank (R189). -/
def State.filterBits (s : State) (f : Fam) (key : Nat) : List Nat :=
  let n := (s.famBanks f).length
  let h (i : Nat) : Nat := Config.filterHash f.code n key i
  (List.range (if f = .lpm6 then 8 else 6)).map (fun i => h 0 % (6144 * n) * 512 + h (i + 1) % 512)

/-- Whether the filter of a family reports a key: every bit of it has been set by a key added to the image since it was built, the key itself or others
(R189, R192). -/
def State.filterHas (s : State) (f : Fam) (key : Nat) : Bool :=
  let l := s.lpmKeysAt f.code
  l.contains key || (s.filterBits f key).all (fun b => l.any (fun k => (s.filterBits f k).contains b))

/-- A key joins a filter, and the image that a rebuild is building: the VRF's presence bit is set and the load goes up (R190, R192, R193). -/
def filterAdd (f : Fam) (e : Entry) : Prog := .look fun s => seqs [
  setTabF 100 50 (lpmVrf f e) (presence f (lpmLen f e)) 1,
  .put (.lpmKeys f.code (f.keyOf e :: s.lpmKeysAt f.code)),
  onlyIf (s.rd (buildOf f) == 1) (.put (.lpmBuild f.code (f.keyOf e :: s.lpmBuildAt f.code))),
  bumpF (loadOf f) 1]

/-- Whether a rebuild of a family has a trigger (R193). -/
def State.rebuildDue (s : State) (f : Fam) : Bool :=
  s.rd (rebuildOf f) == 1 ||
  (s.rd LPM_FILTER_CFG.AUTO == 1 &&
    (s.rd LPM_FILTER_CFG.DEL_LIMIT ≤ s.lpmDelsAt f.code && 0 < s.lpmDelsAt f.code || s.famBudget f < s.rd (loadOf f)))

/-- A rebuild of a family starts if it has a trigger and LPM's ENABLE is 1 (R193, R701): a second image holds the family's entries, and deletions count afresh. -/
def rebuildStart (f : Fam) : Prog := .look fun s =>
  onlyIf (s.rd (BLK_CTRL.ENABLE 100) == 1 && s.rd (buildOf f) == 0 && s.rebuildDue f) (seqs [
    setF (rebuildOf f) 0, setF (buildOf f) 1, .put (.lpmDels f.code 0),
    .put (.lpmBuild f.code ((s.famEntries f).map (fun x => f.keyOf x.2.2)))])

/-- LPM_REBUILD_START (R193, R701): a rebuild with a trigger starts while LPM's ENABLE is 1. -/
def execLpmRebuildStart (v6 : Bool) (s : State) : Host.Outcome State Fault Refusal :=
  command (.lpmRebuildStart v6) (rebuildStart (if v6 then .lpm6 else .lpm4)) s

/-- LPM_REBUILD_DONE (R193): the images swap: the presence masks show the lengths that hold an entry and the load is the number of keys in the new image. -/
def execLpmRebuildDone (v6 : Bool) (s : State) : Host.Outcome State Fault Refusal :=
  command (.lpmRebuildDone v6) (.look fun s =>
    let f : Fam := if v6 then .lpm6 else .lpm4
    let mask : EF := if v6 then ⟨2, 159, 32⟩ else ⟨2, 31, 0⟩
    let es := (s.famEntries f).map (fun x => x.2.2)
    onlyIf (s.rd (buildOf f) == 1) (seqs [
      each (s.tabIndices 100 50) (fun v =>
        setTabF 100 50 v mask ((List.range 128).foldl (fun a i =>
          if es.any (fun e => lpmVrf f e == v && lpmLen f e == i + 1) then a + 2 ^ i else a) 0)),
      setF (loadOf f) (s.lpmBuildAt f.code).length,
      .put (.lpmKeys f.code (s.lpmBuildAt f.code)),
      .put (.lpmBuild f.code []),
      setF (buildOf f) 0,
      raise 100 16])) s

/-- STASH_REINSERT (R178): a stash entry moves back into one of its candidate buckets that has room. -/
def execStashReinsert (family : Nat) (index : Nat) (s : State) : Host.Outcome State Fault Refusal :=
  command (.stashReinsert family index) (.look fun s =>
    match famOf family with
    | none => .skip
    | some f =>
      let x := s.slotAt f true 0 index
      match s.inSlot f x with
      | none => .skip
      | some e =>
        match (s.candidates f (f.keyOf e)).findSome? (s.freeSlot f) with
        | some y => .andThen (.put (.tables (tabKey f.page y.1 y.2) (some e))) (.put (.tables (tabKey f.page x.1 x.2) none))
        | none => .skip) s

/-! ### Seeds and the lookup-memory map (R177, R181) -/

/-- The families of a page. -/
def famsOf (page : Nat) : List Fam := if page == 100 then [.lpm4, .lpm6] else if page == 101 then [.lifmap] else [.mac]

/-- Whether a write of the seed is accepted (R181): every keyed family of the page is empty. -/
def State.seedFree (s : State) (page : Nat) : Bool := (famsOf page).all (fun f => s.famCount f == 0)

/-- Whether a write of LPM_MEM_USE takes effect (R177). -/
def State.memUseOk (s : State) (b use : Nat) : Bool :=
  let old := s.rd (LPM_MEM_USE.USE b)
  let n (c : Nat) := ((List.range 64).filter (fun k => (if k == b then use else s.rd (LPM_MEM_USE.USE k)) == c)).length
  21 ≤ b && use ≤ 4 &&
  [old, use].all (fun c => match famOf c with | some f => old == use || s.famCount f == 0 | none => true) &&
  n 1 + n 2 ≤ 32 && n 3 ≤ 4 && n 4 ≤ 7

end Sys2Proof.Machine
end

