-- ==== Sys2Proof/Machine/Frames.lean ====
section
/-!
DEFINITION. Ethernet frames on the network ports: the FCS, the speed of a port and the PAUSE and PFC frames
(spec/03_ports_and_framing.md R82, R89 to R93).
-/
namespace Sys2Proof.Machine

/-- One byte into the IEEE 802.3 CRC-32, reflected. -/
def crc32Byte (crc b : Nat) : Nat :=
  (List.range 8).foldl (fun c _ => if c % 2 == 1 then (c / 2) ^^^ 0xEDB88320 else c / 2) (crc ^^^ (b % 256))

/-- The IEEE 802.3 CRC-32 of bytes. -/
def crc32 (l : List Nat) : Nat := (l.foldl crc32Byte 0xFFFFFFFF) ^^^ 0xFFFFFFFF

/-- A frame with its FCS appended. -/
def withFcs (l : List Nat) : List Nat := l ++ toBytesLE 4 (crc32 l)

/-- A frame with the stomp value, the inverted FCS, appended (R238). -/
def withStomp (l : List Nat) : List Nat := l ++ toBytesLE 4 (crc32 l ^^^ 0xFFFFFFFF)

/-- Whether the last four bytes of a frame are its FCS. -/
def fcsOk (l : List Nat) : Bool := 4 ≤ l.length && l.drop (l.length - 4) == toBytesLE 4 (crc32 (l.take (l.length - 4)))

/-- Numbers as bytes. -/
def asBytes (l : List Nat) : List Byte := l.map (BitVec.ofNat 8)

/-- The speed of a mode in Gb/s (R82). -/
def modeGbps (m : Nat) : Nat := [0, 10, 25, 50, 100, 100, 100, 200, 200, 200, 400, 400, 800][m]?.getD 0

/-- The lanes of a mode (R82). -/
def modeLanes (m : Nat) : Nat := [0, 1, 1, 1, 4, 2, 1, 4, 2, 1, 4, 2, 4][m]?.getD 0

/-- The divisor of SYNCE_CLK for lanes of a rate in Gb/s, nominal (R428). -/
def synceDiv (lane : Nat) : Nat := if 200 ≤ lane then 1360 else if 100 ≤ lane then 680 else if 50 ≤ lane then 340 else if 25 ≤ lane then 165 else 66

/-- Whether a mode permits a FEC code (R82). DESIGN CHOICE (log entry 71): mode 0, for which the table shows a dash, permits any FEC code that is not reserved. -/
def fecPermitted (m fec : Nat) : Bool :=
  if m == 0 then fec < 4
  else if m == 1 then fec == 0 || fec == 1
  else if m == 2 then fec == 0 || fec == 1 || fec == 2
  else if m == 4 then fec == 0 || fec == 2
  else m < 13 && fec == 3

/-- The positions of a FlexE calendar that hold a client: table 0 or 1 transmit A or B, 2 or 3 receive A or B (spec/03, FLX tables). -/
def State.calSlots (s : State) (g cal client : Nat) : Nat :=
  ((s.tabIndices (64 + g) cal).filter (fun i => (s.tab (64 + g) cal i).on (ed 0 31 31) && (s.tab (64 + g) cal i).f (ed 0 6 0) == client)).length

/-- The terminated client bound to a port's MAC (R105). -/
def State.boundClient (s : State) (g p : Nat) : Option Nat :=
  (s.tabIndices (64 + g) 4).find? (fun i => (s.tab (64 + g) 4 i).f (ed 0 31 30) == 1 && (s.tab (64 + g) 4 i).f (ed 0 29 24) == p)

/-- The speed of a port's MAC in Gb/s: of its mode, or of the FlexE client bound to it (R82, R105). -/
def State.portGbps (s : State) (p : Nat) : Nat :=
  match s.flxHeldAt p with
  | none => modeGbps (s.cfg (PORT_MODE.MODE p))
  | some g =>
    match s.boundClient g p with
    | some i => 5 * s.calSlots g (s.rd (FLX_CAL_CTRL.TX_C g)) i
    | none => 0

/-- A span of `n` bit times at a port, in ns, rounded up. -/
def State.bitTimes (s : State) (p n : Nat) : Nat := let g := max 1 (s.portGbps p); (n + g - 1) / g

/-- The destination address of MAC control frames. -/
def macControlDa : List Nat := [0x01, 0x80, 0xC2, 0x00, 0x00, 0x01]

/-- Whether a frame is a MAC control frame that the MAC consumes: PAUSE or PFC (R91). -/
def isPauseFrame (l : List Nat) : Bool :=
  l.take 6 == macControlDa && (l.drop 12).take 2 == [0x88, 0x08] && ((l.drop 14).take 2 == [0, 1] || (l.drop 14).take 2 == [1, 1])

/-- A PFC frame that gives the classes of a mask a time. -/
def pfcFrame (mask time : Nat) : List Nat :=
  withFcs ((macControlDa ++ List.replicate 6 0 ++ [0x88, 0x08, 1, 1, 0, mask % 256] ++
    ((List.range 8).map (fun t => if bitOf mask t then toBytesBE 2 time else [0, 0])).flatten ++ List.replicate 26 0).take 60)

/-- A link PAUSE frame of a time. -/
def linkPauseFrame (time : Nat) : List Nat :=
  withFcs (macControlDa ++ List.replicate 6 0 ++ [0x88, 0x08, 0, 1] ++ toBytesBE 2 time ++ List.replicate 42 0)

end Sys2Proof.Machine
end

