-- ==== Sys2Proof/Machine/Parse.lean ====
section
/-!
DEFINITION. The parser and the payload matcher (spec/04_parsing_and_classification.md R131 to R147, R696, R697).
-/
namespace Sys2Proof.Machine

/-- The parse result: field values by the code of R140; fields without a code of their own take the codes from 0x100 below.  A field that
is not listed reads 0. -/
abbrev Parsed := Sp Nat

/-- A field of the parse result. -/
def Parsed.f (p : Parsed) (c : Nat) : Nat := Sp.get (fun _ => 0) p c
/-- The parse result with a field set. -/
def Parsed.put (p : Parsed) (c v : Nat) : Parsed := Sp.set (fun _ => 0) p c v
/-- A bit of HDR_MAP. -/
def Parsed.hdr (p : Parsed) (b : Nat) : Bool := bitOf (p.f 0x06) b
/-- The parse result with a bit of HDR_MAP set. -/
def Parsed.setHdr (p : Parsed) (b : Nat) : Parsed := p.put 0x06 (withBit (p.f 0x06) b true)

/-- OFFSETS: the start of outer L3, outer L4, outer L4 payload, inner L2, inner L3, inner L4, inner L4 payload, application header; 0: absent. -/
def oL3 : Nat := 0x100
def oL4 : Nat := 0x101
def oL4Pay : Nat := 0x102
def oInL2 : Nat := 0x103
def oInL3 : Nat := 0x104
def oInL4 : Nat := 0x105
def oInL4Pay : Nat := 0x106
def oApp : Nat := 0x107
/-- EXC, FRAME_LEN and LEN_SRC. -/
def pExc : Nat := 0x108
def pFrameLen : Nat := 0x109
def pLenSrc : Nat := 0x10A
/-- RTP timestamp, marker and range index. -/
def pRtpTs : Nat := 0x10B
def pRtpMark : Nat := 0x10C
def pRtpRange : Nat := 0x10D
/-- BFD my discriminator, state and detect multiplier. -/
def pBfdMy : Nat := 0x10E
def pBfdState : Nat := 0x10F
def pBfdMult : Nat := 0x110
/-- CFM sequence number, MEP ID, flags and first-TLV offset. -/
def pCfmSeq : Nat := 0x111
def pCfmMep : Nat := 0x112
def pCfmFlags : Nat := 0x113
def pCfmTlv : Nat := 0x114
/-- PTP version, flags, sequenceId and the offsets of correctionField and originTimestamp. -/
def pPtpVersion : Nat := 0x115
def pPtpFlags : Nat := 0x116
def pPtpSeq : Nat := 0x117
def oPtpCorr : Nat := 0x118
def oPtpOrigin : Nat := 0x119
/-- The offset of the header at which an exception stopped the parse; 0: none did. -/
def pStop : Nat := 0x11A
/-- Tags and labels of the outer headers, and the kinds of the outer and inner L3 headers (0, 4 or 6). -/
def pTags : Nat := 0x11B
def pLabels : Nat := 0x11C
def pL3 : Nat := 0x11D
def pInL3 : Nat := 0x11E
/-- The length of the outer L3 packet by its header, and whether it has a hop-by-hop header. -/
def pL3Len : Nat := 0x11F
def pHopByHop : Nat := 0x120
/-- The offsets of the outer EtherType, the first label, the end of the stack and the control word (0: none), the tags of the inner
Ethernet header, the offset of the GRE or VXLAN header, whether the stack lies under GRE and whether GRE carries a key. -/
def oEtype : Nat := 0x121
def oMpls : Nat := 0x122
def oMplsEnd : Nat := 0x123
def oCw : Nat := 0x124
def pInTags : Nat := 0x125
def oTunnel : Nat := 0x126
def pStackInner : Nat := 0x127
def pGreKey : Nat := 0x128
/-- The matcher's first pattern and its offset (R145). -/
def pPmtIdx : Nat := 0x129
def pPmtOff : Nat := 0x12A
/-- The inner Ethernet source address. -/
def pInSmac : Nat := 0x12B

/-- What the parser is configured to recognise (PRS registers). -/
structure PrsCfg where
  custom : Option Nat
  cwEth : Bool
  guess : Bool
  vxlan : Option Nat
  v4Csum : Bool
  gre : Bool
  cfm : Bool
  bfd : Bool
  ptpUdp : Bool
  ptpL2 : Bool
  /-- Enabled RTP ranges: index, lowest and highest port. -/
  rtp : List (Nat × Nat × Nat)
  deriving DecidableEq, Repr

/-- The committed PRS configuration. -/
def State.prsCfg (s : State) : PrsCfg where
  custom := if s.on PRS_TPID.CUSTOM_EN then some (s.cfg PRS_TPID.CUSTOM) else none
  cwEth := s.on PRS_MPLS_CFG.CW_ETH
  guess := s.on PRS_MPLS_CFG.GUESS
  vxlan := if s.on PRS_VXLAN.EN then some (s.cfg PRS_VXLAN.PORT) else none
  v4Csum := s.on PRS_PROTO_EN.V4_CSUM_CHK
  gre := s.on PRS_PROTO_EN.GRE_EN
  cfm := s.on PRS_PROTO_EN.CFM_EN
  bfd := s.on PRS_PROTO_EN.BFD_EN
  ptpUdp := s.on PRS_PROTO_EN.PTP_UDP_EN
  ptpL2 := s.on PRS_PROTO_EN.PTP_L2_EN
  rtp := ((List.range 8).filter (fun k => bitOf (s.cfg PRS_PROTO_EN.RTP_EN) k)).map
    (fun k => (k, s.cfg (PRS_RTP_RANGE.LO k), s.cfg (PRS_RTP_RANGE.HI k)))

/-- The parse window (R131): its bytes, the frame's length without FCS and whether the frame ends within the window. -/
structure Window where
  bytes : List Nat
  flen : Nat
  ends : Bool
  deriving DecidableEq, Repr

/-- The window of the bytes of a frame with its FCS; `whole`: its last byte has arrived (R131, R132). -/
def windowOf (b : List Nat) (whole : Bool) : Window :=
  if whole && b.length < 256 then ⟨b.take (b.length - 4), b.length - 4, true⟩
  else ⟨b.take 256, b.length - 4, whole && b.length == 256⟩

/-- Byte `i` of the window. -/
def Window.at (w : Window) (i : Nat) : Nat := w.bytes.getD i 0
/-- The `n` bytes at `i`, most significant first. -/
def Window.num (w : Window) (i n : Nat) : Nat := ofBytesBE ((w.bytes.drop i).take n)
/-- Whether the `n` bytes at `i` lie in the window. -/
def Window.has (w : Window) (i n : Nat) : Bool := i + n ≤ w.bytes.length

/-- An exception is recorded: its bit of EXC_MAP, and EXC if it is the first (R139). -/
def Parsed.exc (p : Parsed) (e : Nat) : Parsed :=
  let p := p.put 0x07 (withBit (p.f 0x07) e true)
  if p.f pExc == 0 then p.put pExc e else p

/-- An exception stops the parse at the header at `o` (R138). -/
def Parsed.stop (p : Parsed) (e o : Nat) : Parsed := (p.exc e).put pStop o

/-- The parse goes on with a header of `n` bytes at `o`, or stops there: WINDOW_END, or L4_SHORT for an L4 header that the frame cuts
off (R138). -/
def Window.need (w : Window) (p : Parsed) (l4 : Bool) (o n : Nat) (k : Parsed) : Parsed :=
  if w.has o n then k
  else if l4 && w.ends && w.flen < o + n then p.stop 8 o
  else p.stop 1 o

/-! ### Application headers (R134, R696, R697) -/

/-- A PTP message at `o`; over Ethernet its type tells event from general. -/
def parsePtp (w : Window) (o : Nat) (event : Option Bool) (p : Parsed) : Parsed :=
  w.need p false o 34 (
    let msg := w.at o % 16
    let p := (((p.put 0x5C msg).put 0x5D (w.at (o + 4))).put pPtpVersion (w.at (o + 1) % 16)).put pPtpFlags (w.num (o + 6) 2)
    let p := ((p.put pPtpSeq (w.num (o + 30) 2)).put oPtpCorr (o + 8)).put oPtpOrigin (o + 34)
    (p.put 0x08 (if event.getD (msg < 8) then 2 else 3)).put oApp o)

/-- A BFD packet at `o`. -/
def parseBfd (w : Window) (o : Nat) (echo : Bool) (p : Parsed) : Parsed :=
  if echo then (p.put 0x08 5).put oApp o
  else w.need p false o 24 (
    let p := ((p.put 0x60 (w.num (o + 8) 4)).put pBfdMy (w.num (o + 4) 4)).put pBfdState (w.at (o + 1) / 64)
    ((p.put pBfdMult (w.at (o + 2))).put 0x08 4).put oApp o)

/-- A CFM PDU at `o`; a CCM carries a sequence number and a MEP ID. -/
def parseCfm (w : Window) (o : Nat) (p : Parsed) : Parsed :=
  w.need p false o 4 (w.need p false o (if w.at (o + 1) == 1 then 10 else 4) (
    let p := ((p.put 0x61 (w.at o / 32 * 256 + w.at (o + 1))).put pCfmFlags (w.at (o + 2))).put pCfmTlv (w.at (o + 3))
    let p := if w.at (o + 1) == 1 then (p.put pCfmSeq (w.num (o + 4) 4)).put pCfmMep (w.num (o + 8) 2 % 8192) else p
    (p.put 0x08 6).put oApp o))

/-- An RTP header at `o`, of range `k`. -/
def parseRtp (w : Window) (o k : Nat) (p : Parsed) : Parsed :=
  w.need p false o 12 (
    let p := ((p.put 0x58 (w.num (o + 8) 4)).put 0x59 (w.at (o + 1) % 128)).put 0x5A (w.num (o + 2) 2)
    let p := ((p.put pRtpTs (w.num (o + 4) 4)).put pRtpMark (w.at (o + 1) / 128)).put pRtpRange k
    (p.put 0x08 1).put oApp o)

/-- The application header that a UDP destination port takes (R697): PTP, then BFD, then RTP in the lowest enabled range with the port. -/
def udpApp (c : PrsCfg) (w : Window) (o dport : Nat) : Option (Parsed → Parsed) :=
  if c.ptpUdp && (dport == 319 || dport == 320) then some (parsePtp w o (some (dport == 319)))
  else if c.bfd && (dport == 3784 || dport == 4784 || dport == 3785) then some (parseBfd w o (dport == 3785))
  else
    match c.rtp.find? (fun r => r.2.1 ≤ dport && dport ≤ r.2.2) with
    | some r => if w.has o 1 && w.at o / 64 == 2 then some (parseRtp w o r.1) else none
    | none => none

/-! ### Layer 4 -/

/-- The tunnel headers that open inner headers. -/
inductive Tunnel where
  | ip4
  | ip6
  | vxlan
  | gre
  deriving DecidableEq, Repr

/-- The offsets and header bit of an L4 header of `n` bytes at `o`. -/
def Parsed.l4At (p : Parsed) (inner : Bool) (bit o n : Nat) : Parsed :=
  if inner then ((p.setHdr 15).put oInL4 o).put oInL4Pay (o + n) else ((p.setHdr bit).put oL4 o).put oL4Pay (o + n)

/-- The ports of an L4 header. -/
def Parsed.ports (p : Parsed) (inner : Bool) (sp dp : Nat) : Parsed :=
  if inner then (p.put 0x45 sp).put 0x46 dp else (p.put 0x38 sp).put 0x39 dp

/-- What follows an L3 header of protocol `proto` at `o`; `tun` takes the tunnel headers.  On the outer UDP header VXLAN comes first, on an inner one the application headers do
(R697; DESIGN CHOICE, log entry 93). -/
def parseL4 (c : PrsCfg) (w : Window) (inner : Bool) (tun : Tunnel → Nat → Parsed → Parsed) (proto o : Nat) (p : Parsed) : Parsed :=
  if proto == 4 then tun .ip4 o p
  else if proto == 41 then tun .ip6 o p
  else if proto == 47 && c.gre then tun .gre o p
  else if proto == 17 then
    w.need p true o 8 (
      let dp := w.num (o + 2) 2
      let p := (p.ports inner (w.num o 2) dp).l4At inner 8 o 8
      let app := udpApp c w (o + 8) dp
      if c.vxlan == some dp && !(inner && app.isSome) && !w.has (o + 8) 1 then p
      else if c.vxlan == some dp && !(inner && app.isSome) && bitOf (w.at (o + 8)) 3 then tun .vxlan (o + 8) p
      else match app with
        | some f => f p
        | none => p)
  else if proto == 6 then
    let n := max 20 (w.at (o + 12) / 16 * 4)
    w.need p true o 20 (w.need p true o n (
      let p := p.ports inner (w.num o 2) (w.num (o + 2) 2)
      (if inner then p else p.put 0x3A (w.num (o + 12) 2 % 512)).l4At inner 9 o n))
  else if proto == 1 || proto == 58 then
    let n := if proto == 1 then 8 else 4
    w.need p true o n ((if inner then p else p.put 0x3B (w.num o 2)).l4At inner 10 o n)
  else p

/-! ### Layer 3 -/

/-- The ones' complement sum of 16-bit words, most significant byte first, folded to 16 bits. -/
def onesSum : List Nat → Nat
  | a :: b :: r => let t := a * 256 + b + onesSum r; t % 65536 + t / 65536
  | [a] => a * 256
  | [] => 0

/-- The fields of an L3 header. -/
def Parsed.l3At (p : Parsed) (inner : Bool) (kind o sa da proto : Nat) : Parsed :=
  if inner then ((((((p.setHdr 14).put 0x42 sa).put 0x43 da).put 0x44 proto).put oInL3 o).put pInL3 kind)
  else ((((((p.setHdr (if kind == 4 then 3 else 4)).put 0x30 sa).put 0x31 da).put 0x32 proto).put oL3 o).put pL3 kind)

/-- An IPv4 header at `o` (R134, R136, R138). -/
def parseIp4 (c : PrsCfg) (w : Window) (inner : Bool) (l4 : Nat → Nat → Parsed → Parsed) (o : Nat) (p : Parsed) : Parsed :=
  let ihl := w.at o % 16 * 4
  let total := w.num (o + 2) 2
  let frag := w.num (o + 6) 2
  let off := frag % 8192
  let mf := frag / 8192 % 2
  let sum := onesSum ((w.bytes.drop o).take ihl)
  w.need p false o 1 (
    if w.at o / 16 != 4 || ihl < 20 then p.stop 6 o
    else w.need p false o ihl (
      if total < ihl || (c.v4Csum && sum != 65535) || (w.ends && w.flen < o + total) then p.stop 6 o
      else
        let p := p.l3At inner 4 o (w.num (o + 12) 4) (w.num (o + 16) 4) (w.at (o + 9))
        let p := if inner then p else ((p.put 0x33 (w.at (o + 1))).put 0x34 (w.at (o + 8))).put pL3Len total
        let p := if inner || frag % 16384 == 0 then p else (p.setHdr 7).put 0x36 (1 + 2 * mf + (if off != 0 then 4 else 0))
        if off != 0 then p else l4 (w.at (o + 9)) (o + ihl) p))

/-- The segment-routing header of `n` bytes at `o`: segments left and segment list entries 0 to 5; the first one of the packet, under an
outer or an inner IPv6 header, fills the fields (R134, R135, R138; DESIGN CHOICE, log 25). -/
def parseSrh (w : Window) (o n : Nat) (p : Parsed) : Parsed :=
  let p := if p.hdr 6 then p
    else ((List.range 6).filter (fun i => i ≤ w.at (o + 4) && 24 + 16 * i ≤ n)).foldl
      (fun p i => p.put (0x51 + i) (w.num (o + 8 + 16 * i) 16)) ((p.put 0x50 (w.at (o + 3))).setHdr 6)
  if 5 < w.at (o + 3) then p.exc 10 else p

/-- The extension headers of an IPv6 header, `left` of them still permitted (R134, R136, R138). -/
def parseExt (w : Window) (inner : Bool) (l4 : Nat → Nat → Parsed → Parsed) : Nat → Bool → Nat → Nat → Parsed → Parsed
  | left, first, nh, o, p =>
    if !(nh == 0 || nh == 43 || nh == 44 || nh == 60) then l4 nh o p
    else if nh == 0 && !first then p.stop 4 o
    else
      match left with
      | 0 => p.stop 4 o
      | left + 1 =>
        let n := if nh == 44 then 8 else (w.at (o + 1) + 1) * 8
        let nonfirst := nh == 44 && w.num (o + 2) 2 / 8 != 0
        w.need p false o 2 (w.need p false o n (
          let p := if nh == 44 && !inner then (p.setHdr 7).put 0x36 (1 + 2 * (w.at (o + 3) % 2) + (if nonfirst then 4 else 0)) else p
          let p := if nh == 43 && w.at (o + 2) == 4 then parseSrh w o n p else p
          let p := if inner then p.put 0x44 (w.at o) else (p.put 0x32 (w.at o)).setHdr 5
          if nonfirst then p else parseExt w inner l4 left false (w.at o) (o + n) p))

/-- An IPv6 header at `o` (R134, R138). -/
def parseIp6 (w : Window) (inner : Bool) (l4 : Nat → Nat → Parsed → Parsed) (o : Nat) (p : Parsed) : Parsed :=
  let plen := w.num (o + 4) 2
  let nh := w.at (o + 6)
  let vtf := w.num o 4
  w.need p false o 1 (
    if w.at o / 16 != 6 then p.stop 7 o
    else w.need p false o 40 (
      if w.ends && w.flen < o + 40 + plen then p.stop 7 o
      else
        let p := p.l3At inner 6 o (w.num (o + 8) 16) (w.num (o + 24) 16) nh
        let p := if inner then p else
          ((((p.put 0x33 (vtf / 2 ^ 20 % 256)).put 0x34 (w.at (o + 7))).put 0x35 (vtf % 2 ^ 20)).put pL3Len (40 + plen)).put pHopByHop (b2n (nh == 0))
        parseExt w inner l4 4 true nh (o + 40) p))

/-! ### Layer 2 and the tunnels -/

/-- Whether an EtherType is a VLAN TPID (R134). -/
def PrsCfg.isTpid (c : PrsCfg) (t : Nat) : Bool := t == 0x8100 || t == 0x88A8 || c.custom == some t

/-- The tags at `o`, where an EtherType stands, `left` of them still permitted (R134, R138); then what follows. -/
def parseTags (c : PrsCfg) (w : Window) (inner : Bool) (next : Nat → Nat → Parsed → Parsed) : Nat → Nat → Parsed → Parsed
  | left, o, p =>
    let t := w.num o 2
    if !c.isTpid t then (if inner then next t (o + 2) p else next t (o + 2) ((p.put 0x12 t).put oEtype o))
    else
      match left with
      | 0 => p.stop 2 o
      | left + 1 =>
        w.need p false o 6 (
          let n := 1 - left
          let tci := w.num (o + 2) 2
          let p := if inner then p.put pInTags (n + 1)
            else (((p.put (0x13 + 2 * n) (tci % 4096)).put (0x14 + 2 * n) (tci / 4096)).setHdr n).put pTags (n + 1)
          parseTags c w inner next left (o + 4) p)

/-- A further tunnel among the inner headers is TUNNEL_DEPTH; a GRE header is one only when its version and routing-present bit lie in the
window and read 0 (R138, R696; DEDUCED, log 25). -/
def tunnelIn (w : Window) (t : Tunnel) (o : Nat) (p : Parsed) : Parsed :=
  if t == .gre && !w.has o 2 then p
  else p.stop (if t == .gre && (w.num o 2 % 8 != 0 || bitOf (w.num o 2) 14) then 9 else 5) o

/-- Layer 4 among the inner headers (R135, R138). -/
def parseL4In (c : PrsCfg) (w : Window) : Nat → Nat → Parsed → Parsed := parseL4 c w true (tunnelIn w)

/-- An inner Ethernet header at `o` (R135): only IPv4 and IPv6 continue the parse. -/
def parseEthIn (c : PrsCfg) (w : Window) (o : Nat) (p : Parsed) : Parsed :=
  w.need p false o 14 (
    parseTags c w true (fun t o p =>
        if t == 0x0800 then parseIp4 c w true (parseL4In c w) o p
        else if t == 0x86DD then parseIp6 w true (parseL4In c w) o p
        else p)
      2 (o + 12) ((((p.setHdr 13).put 0x41 (w.num o 6)).put pInSmac (w.num (o + 6) 6)).put oInL2 o))

/-- The label entries at `o`, `n` taken so far (R134, R138); then the payload of R137.  A ninth entry with S = 1 ends the parse after the
eighth without an exception (DESIGN CHOICE, log 25). -/
def parseLabels (w : Window) (next : Nat → Parsed → Parsed) : Nat → Nat → Nat → Parsed → Parsed
  | 0, _, o, p => w.need p false o 4 (if bitOf (w.num o 4) 8 then p else p.stop 3 o)
  | left + 1, n, o, p =>
    w.need p false o 4 (
      let e := w.num o 4
      let p := ((p.put (0x20 + n) e).put pLabels (n + 1)).setHdr 2
      if bitOf e 8 then next (o + 4) (p.put oMplsEnd (o + 4)) else parseLabels w next left (n + 1) (o + 4) p)

/-- An MPLS stack at `o` and its payload (R134, R135, R137); under GRE its payload is inner, and a pseudowire is TUNNEL_DEPTH. -/
def parseMpls (c : PrsCfg) (w : Window) (inner : Bool) (l4 : Nat → Nat → Parsed → Parsed) (o : Nat) (p : Parsed) : Parsed :=
  parseLabels w (fun o p =>
      if !c.guess || !w.has o 1 then p
      else if w.at o / 16 == 4 then parseIp4 c w inner l4 o p
      else if w.at o / 16 == 6 then parseIp6 w inner l4 o p
      else if w.at o / 16 == 0 && c.cwEth then
        (if inner then p.stop 5 o else w.need p false o 4 (parseEthIn c w (o + 4) (p.put oCw o)))
      else p)
    8 0 o ((p.put oMpls o).put pStackInner (b2n inner))

/-- A GRE header at `o` (R134, R135, R138, R696). -/
def parseGre (c : PrsCfg) (w : Window) (o : Nat) (p : Parsed) : Parsed :=
  let fl := w.num o 2
  let pt := w.num (o + 2) 2
  let n := 4 * (1 + b2n (bitOf fl 15) + b2n (bitOf fl 13) + b2n (bitOf fl 12))
  let listed := pt == 0x0800 || pt == 0x86DD || pt == 0x8847 || pt == 0x8848 || pt == 0x6558
  if !w.has o 2 then p
  else if fl % 8 != 0 || bitOf fl 14 then p.stop 9 o
  else w.need p false o 4 (
    if !listed then p.stop 9 o
    else w.need p false o n (
      let p := if bitOf fl 13 then (p.put 0x40 (w.num (o + 4 + 4 * b2n (bitOf fl 15)) 4)).put pGreKey 1 else p
      let p := (p.setHdr 11).put oTunnel o
      if pt == 0x0800 then parseIp4 c w true (parseL4In c w) (o + n) p
      else if pt == 0x86DD then parseIp6 w true (parseL4In c w) (o + n) p
      else if pt == 0x6558 then parseEthIn c w (o + n) p
      else if p.hdr 2 then p
      else parseMpls c w true (parseL4In c w) (o + n) p))

/-- A VXLAN header at `o`, recognised by its I flag (R134, R696). -/
def parseVxlan (c : PrsCfg) (w : Window) (o : Nat) (p : Parsed) : Parsed :=
  w.need p false o 8 (parseEthIn c w (o + 8) (((p.put 0x40 (w.num (o + 4) 3)).setHdr 12).put oTunnel o))

/-- The tunnel headers after the outer headers (R135). -/
def parseTunnel (c : PrsCfg) (w : Window) (t : Tunnel) (o : Nat) (p : Parsed) : Parsed :=
  match t with
  | .ip4 => parseIp4 c w true (parseL4In c w) o p
  | .ip6 => parseIp6 w true (parseL4In c w) o p
  | .vxlan => parseVxlan c w o p
  | .gre => parseGre c w o p

/-- Layer 4 after the outer L3 header. -/
def parseL4Out (c : PrsCfg) (w : Window) : Nat → Nat → Parsed → Parsed := parseL4 c w false (parseTunnel c w)

/-- What follows the outer Ethernet header and its tags. -/
def parseAfterEth (c : PrsCfg) (w : Window) (t o : Nat) (p : Parsed) : Parsed :=
  if t == 0x0800 then parseIp4 c w false (parseL4Out c w) o p
  else if t == 0x86DD then parseIp6 w false (parseL4Out c w) o p
  else if t == 0x8847 || t == 0x8848 then parseMpls c w false (parseL4Out c w) o p
  else if t == 0x88F7 && c.ptpL2 then parsePtp w o none p
  else if t == 0x8902 && c.cfm then parseCfm w o p
  else p

/-- FRAME_LEN and LEN_SRC (R141). -/
def frameLength (w : Window) (p : Parsed) : Parsed :=
  let n := p.f oL3 + p.f pL3Len + 4
  if w.ends then (p.put pFrameLen (w.flen + 4)).put pLenSrc 1
  else if (p.f pL3 == 4 || (p.f pL3 == 6 && p.f pHopByHop == 0)) && n ≤ 16383 then (p.put pFrameLen n).put pLenSrc 2
  else p

/-- The parse of a window (R134 to R141). -/
def parse (c : PrsCfg) (w : Window) : Parsed :=
  frameLength w (
    w.need [] false 0 14 (
      parseTags c w false (parseAfterEth c w) 2 12 (Parsed.put (Parsed.put [] 0x10 (w.num 0 6)) 0x11 (w.num 6 6))))

/-! ### Exceptions (R139) -/

/-- Severity of an ingress action: DROP over TRAP over COPY over CONTINUE. -/
def excRank (a : Nat) : Nat := if a == 1 then 3 else if a == 2 then 2 else if a == 3 then 1 else 0

/-- The exceptions raised. -/
def Parsed.excs (p : Parsed) : List Nat := (List.range 16).filter (fun e => bitOf (p.f 0x07) e)

/-- The most severe ingress action of the exceptions raised, with the lowest code that has it (R139). -/
def State.excAction (s : State) (p : Parsed) : Nat × Nat :=
  p.excs.foldl (fun a e => let c := s.cfg PRS_EXC_IG.ACT / 4 ^ (e - 1) % 4; if excRank a.1 < excRank c then (c, e) else a) (0, 0)

/-- The lowest exception raised whose egress action is DROP (R139). -/
def State.excDrop (s : State) (p : Parsed) : Option Nat :=
  p.excs.find? (fun e => 0 < e && bitOf (s.cfg PRS_EXC_EG.DROP) (e - 1))

/-! ### The payload matcher (R142 to R147) -/

/-- Fields of a pattern (PMT table 0). -/
def PAT.VALID : EF := ed 0 31 31
def PAT.FLOATING : EF := ed 0 30 30
def PAT.BASE : EF := ed 0 29 27
def PAT.LENGTH : EF := ed 0 26 22
def PAT.START : EF := ed 0 15 8
def PAT.END : EF := ed 0 7 0

/-- Byte `k` of a pattern or mask of 32 bytes held most significant byte first in words 0 to 7. -/
def patByte {n : Nat} (v : BitVec n) (k : Nat) : Nat := fieldOf v (32 * (k / 4) + 31 - 8 * (k % 4)) (32 * (k / 4) + 24 - 8 * (k % 4))

/-- The base of a pattern: its offset, none when its header is absent or lies at or after the stop point (R142, R144). -/
def patBase (p : Parsed) (base : Nat) : Option Nat :=
  let o := if base == 0 then 0 else p.f ([0, oL3, oL4, oL4Pay, oInL3, oInL4Pay][base]?.getD 0)
  if base ≤ 5 && (base == 0 || o != 0) && (p.f pStop == 0 || o < p.f pStop) then some o else none

/-- Whether a pattern matches at an offset; every byte it compares must lie in the window (R143, R144). -/
def patAt (w : Window) (e : Entry) (o : Nat) : Bool :=
  (List.range (e.f PAT.LENGTH + 1)).all (fun k =>
    let m := patByte e.ext k
    m == 0 || (o + k < w.bytes.length && (w.at (o + k) &&& m) == (patByte e.key k &&& m)))

/-- The first offset at which a pattern matches (R143, R145). -/
def patFirst (w : Window) (p : Parsed) (e : Entry) : Option Nat :=
  match patBase p (e.f PAT.BASE) with
  | none => none
  | some b =>
    let a := e.f PAT.START
    let last := if e.on PAT.FLOATING then e.f PAT.END else a
    ((List.range (last + 1 - a)).map (fun k => b + a + k)).find? (patAt w e)

/-- The matcher's result at ingress (R145, R146): the hit map in codes 0x68 to 0x6B, the first pattern and its offset. -/
def State.matchPayload (s : State) (w : Window) (p : Parsed) : Parsed :=
  if !s.on PMT_CFG.EN then p
  else
    let hits := (s.tabIndices 97 0).filterMap (fun i =>
      let e := s.tab 97 0 i
      if e.on PAT.VALID then (patFirst w p e).map (fun o => (i, o)) else none)
    let p := hits.foldl (fun p h => p.put (0x68 + h.1 / 32) (withBit (p.f (0x68 + h.1 / 32)) (h.1 % 32) true)) p
    match hits with
    | (i, o) :: _ => (p.put pPmtIdx i).put pPmtOff o
    | [] => p

end Sys2Proof.Machine
end

