-- ==== Sys2Proof/Machine/Tcam.lean ====
section
/-!
DEFINITION. The classification TCAM (spec/04_parsing_and_classification.md R148 to R163): profiles, search, scrub, bank loads and power.
-/
namespace Sys2Proof.Machine

/-- Fields of a TCAM entry (ASM table 0). -/
def TCE.VALID : EF := ed 0 31 31
def TCE.WIDTH : EF := ed 0 30 29
def TCE.SHADOW_BAD : EF := ed 0 28 28
def TCE.LIST : EF := ed 0 18 0
def TCE.RULE_ID : EF := ed 1 15 0

/-- The 640 value bits and the 640 mask bits of an entry. -/
def Entry.tcValue (e : Entry) : Nat := e.key.toNat + fieldOf e.ext 383 0 * 2 ^ 256
def Entry.tcMask (e : Entry) : Nat := fieldOf e.ext 1023 384

/-- The 160 value bits, or of `half` 1 the 160 mask bits, of a row's 320 bits. -/
def bits160 (x half : Nat) : Nat := x / 2 ^ (160 * half) % 2 ^ 160

/-- The page that holds the entry of a global index. -/
def tcPage (g : Nat) : Nat := 98 + g / 65536

/-- The mode of the quad of a bank (R149). -/
def State.quadMode (s : State) (q : Nat) : Nat := s.cfg ASM_BANK_MODE.QUAD_MODE / 4 ^ q % 4

/-- The banks an entry of a width spans (R149). -/
def widthSpan (w : Nat) : Nat := if w == 0 then 1 else if w == 1 then 2 else 4

/-- The bits of a key of a width. -/
def widthBits (w : Nat) : Nat := 160 * widthSpan w

/-- Whether a logical bank is powered, loaded and searched. -/
def State.bankReady (s : State) (b : Nat) : Bool := bitOf (s.rd ASM_BANK_STAT.READY) b

/-- The row of bank `b` that row `r` of an entry's first bank belongs to: the first bank of the pair or quad (R149). -/
def State.firstBank (s : State) (b : Nat) : Nat := b - b % widthSpan (s.quadMode (b / 4))

/-- Entry `g`'s bits as the rows of its `n` banks hold them: of `half` 0 the value bits, of 1 the mask bits (R149, R152, R157). -/
def State.rowBits (s : State) (n g half : Nat) (shadow : Nat) : Nat :=
  (List.range n).foldl (fun a i => a ^^^ (bits160 (s.tcFlipAt (g + 4096 * i)) half <<< (160 * i))) shadow

/-- Rows are disturbed: each pair names a row, 4096 * bank + row, and one of its 160 value bits or, from 160 up, its 160 mask bits (R157, R159). -/
def flipRows (l : List (Nat × Nat)) : Prog := each l (fun x => .look fun s => .put (.tcFlip x.1 (s.tcFlipAt x.1 ^^^ 2 ^ x.2)))

/-- The rows of an entry hold what its shadow holds (R152, R157). -/
def rowsWritten (g : Nat) : Prog := .look fun s =>
  each (List.range (widthSpan (s.quadMode (g / 16384)))) (fun i => .put (.tcFlip (g + 4096 * i) 0))

/-- The rows of a bank hold what their shadows hold (R160, R162). -/
def bankRows (b : Nat) : Prog := .look fun s =>
  each ((s.tcFlip.map Prod.fst).filter (fun k => k / 4096 == b)) (fun k => .put (.tcFlip k 0))

/-- The global indices of every valid entry, in rising order. -/
def State.tcIndices (s : State) : List Nat :=
  (s.tabIndices 98 0 ++ s.tabIndices 99 0).filter (fun g => (s.tab (tcPage g) 0 g).on TCE.VALID)

/-- The bits of a coded field of R140; none for a code without a field. -/
def fieldBits (c : Nat) : Option Nat :=
  if c == 0x01 || c == 0x71 then some 6
  else if c == 0x02 || c == 0x05 || c == 0x06 || c == 0x07 || c == 0x12 || c == 0x38 || c == 0x39 || c == 0x3B || c == 0x45 || c == 0x46 || c == 0x5A then some 16
  else if c == 0x03 || c == 0x04 then some 14
  else if c == 0x08 || c == 0x36 || c == 0x72 then some 3
  else if c == 0x10 || c == 0x11 || c == 0x41 then some 48
  else if c == 0x13 || c == 0x15 then some 12
  else if c == 0x14 || c == 0x16 || c == 0x5C then some 4
  else if (0x20 ≤ c && c ≤ 0x27) || c == 0x40 || c == 0x58 || c == 0x60 || (0x68 ≤ c && c ≤ 0x6B) then some 32
  else if c == 0x30 || c == 0x31 || c == 0x42 || c == 0x43 || (0x51 ≤ c && c ≤ 0x56) then some 128
  else if c == 0x32 || c == 0x33 || c == 0x34 || c == 0x44 || c == 0x50 || c == 0x5D then some 8
  else if c == 0x35 then some 20
  else if c == 0x3A then some 9
  else if c == 0x59 then some 7
  else if c == 0x61 then some 11
  else if c == 0x70 then some 22
  else none

/-- The valid selectors of a profile: key offset and field code. -/
def State.selectors (s : State) (k : Nat) : List (Nat × Nat) :=
  ((List.range 32).filter (fun j => s.on (ASM_PROF_SEL.VALID k j))).map
    (fun j => (s.cfg (ASM_PROF_SEL.KEY_OFFSET k j), s.cfg (ASM_PROF_SEL.FIELD k j)))

/-- Whether no two key ranges overlap. -/
def rangesApart : List (Nat × Nat) → Bool
  | [] => true
  | (o, n) :: r => r.all (fun x => o + n ≤ x.1 || x.1 + x.2 ≤ o) && rangesApart r

/-- Whether a profile passes the check of R155. -/
def State.profileOk (s : State) (k : Nat) : Bool :=
  let w := s.cfg (ASM_PROF_CFG.WIDTH k)
  let set := s.cfg (ASM_PROF_BANKS.SET k)
  let sels := s.selectors k
  w != 3 && s.cfg (ASM_PROF_CFG.INCOMPLETE_ACT k) != 3 &&
  (List.range 32).all (fun b => !bitOf set b ||
    (b % widthSpan w == 0 && s.quadMode (b / 4) == w &&
      (List.range (widthSpan w)).all (fun i => bitOf (s.cfg ASM_BANK_PWR.PWR) (b + i)))) &&
  sels.all (fun x => match fieldBits x.2 with | some n => decide (x.1 + n ≤ widthBits w) | none => false) &&
  rangesApart (sels.map (fun x => (x.1, (fieldBits x.2).getD 0)))

/-- The bit of ASM_PROF_ERR of a profile. -/
def profErr (k : Nat) : Fld := if k < 32 then ⟨98, 0x0218, k, k⟩ else ⟨98, 0x021C, k - 32, k - 32⟩

/-- The check of every profile at a commit of page 0x062 (R155). -/
def profileCheck : Prog := each (List.range 64) fun k => .look fun s =>
  let bad := s.on (ASM_PROF_CFG.EN k) && !s.profileOk k
  .andThen (setF (profErr k) (b2n bad)) (onlyIf (bad && s.rd (profErr k) == 0) (raise 98 18))

/-- A logical bank begins to be loaded from its shadow: it is not searched until the load ends (R160, R162). -/
def bankLoad (b : Nat) : Prog := .look fun s => seqs [
  setBitF ASM_BANK_STAT.READY b false,
  bankRows b,
  .put (.tcamLoad b (some s.mono))]

/-- Whether a table operation touches a bank: its entry spans the bank (R149), or its row lies in it. -/
def State.touchesBank (s : State) (b : Nat) (o : TblOp) : Bool :=
  let f := o.index / 4096
  o.op != 0 && ((o.table == 0 && decide (f ≤ b) && decide (b < f + widthSpan (s.quadMode (f / 4)))) || (o.table == 2 && f == b))

/-- The load that a bank takeover makes: shown in ASM_SPARE_STAT; a table command that touches the bank ends with ABORTED (R160, R161). -/
def bankTakeover (b : Nat) : Prog := seqs [
  bankLoad b,
  setF ASM_SPARE_STAT.COPYING 1,
  setF ASM_SPARE_STAT.LOGICAL b,
  .look fun s => abortOp (98 + b / 16) (s.touchesBank b)]

/-- What a commit of page 0x062 does beside copying the shadow: refused mode changes keep the old mode (R151), powered-up banks are loaded and
powered-down ones lose their rows (R162), and the profiles are checked (R155); `old` is what the units had. -/
def asmCommit (oldMode oldPwr : Nat) : Prog := .look fun s =>
  let new := s.cfg ASM_BANK_MODE.QUAD_MODE
  let refused := (List.range 8).filter (fun q =>
    let m := new / 4 ^ q % 4
    m != oldMode / 4 ^ q % 4 && (m == 3 || s.tcIndices.any (fun g => g / 4096 / 4 == q)))
  let force := (List.range 8).foldl (fun a q => a + (if refused.contains q then oldMode / 4 ^ q % 4 else new / 4 ^ q % 4) * 4 ^ q) 0
  seqs [
    .put (.units (regKey 98 0x200) (setFieldOf (s.unitsAt (regKey 98 0x200)) 15 0 force)),
    each refused (fun q => setBitF ASM_STAT.MODE_REFUSED q true),
    onlyIf (!refused.isEmpty) (raise 98 19),
    each (List.range 32) (fun b =>
      let was := bitOf oldPwr b
      let now := bitOf (s.cfg ASM_BANK_PWR.PWR) b
      if now && !was then bankLoad b
      else if was && !now then .andThen (setBitF ASM_BANK_STAT.READY b false) (.put (.tcamLoad b none))
      else .skip),
    profileCheck]

/-- TCAM_BANK_LOAD_DONE (R161, R162): the load of a powered bank ends and the bank is searched again; a takeover's load ends with it. -/
def execTcamBankLoadDone (bank : Nat) (s : State) : Host.Outcome State Fault Refusal :=
  command (.tcamBankLoadDone bank) (.look fun s =>
    onlyIf (s.tcamLoadAt bank).isSome (seqs [
      .put (.tcamLoad bank none),
      onlyIf (bitOf (s.cfg ASM_BANK_PWR.PWR) bank) (setBitF ASM_BANK_STAT.READY bank true),
      onlyIf (s.rd ASM_SPARE_STAT.COPYING == 1 && s.rd ASM_SPARE_STAT.LOGICAL == bank) (seqs [
        setF ASM_SPARE_STAT.COPYING 0, setF ASM_SPARE_STAT.LOGICAL 0x3F, raise 98 20])])) s

/-! ### Search -/

/-- The result of a search (R156, R158, R160). -/
structure TcHit where
  profile : Nat
  hit : Bool := false
  index : Nat := 0
  multi : Bool := false
  incomplete : Bool := false
  deriving DecidableEq, Repr

/-- The entries of a profile whose rows match a key, in rising order of index (R152, R156); a bank being loaded is not searched (R160). -/
def State.tcMatches (s : State) (k key : Nat) : List Nat :=
  let w := s.cfg (ASM_PROF_CFG.WIDTH k)
  let set := s.cfg (ASM_PROF_BANKS.SET k)
  s.tcIndices.filter (fun g =>
    let e := s.tab (tcPage g) 0 g
    e.on TCE.VALID && e.f TCE.WIDTH == w && bitOf set (g / 4096) &&
    (List.range (widthSpan w)).all (fun i => s.bankReady (g / 4096 + i)) &&
    ((s.rowBits (widthSpan w) g 0 e.tcValue ^^^ key) &&& s.rowBits (widthSpan w) g 1 e.tcMask) == 0)

/-- Whether a profile's set includes a bank that is not searched (R160). -/
def State.tcIncomplete (s : State) (k : Nat) : Bool :=
  (List.range 32).any (fun b => bitOf (s.cfg (ASM_PROF_BANKS.SET k)) b &&
    (List.range (widthSpan (s.cfg (ASM_PROF_CFG.WIDTH k)))).any (fun i => !s.bankReady (b + i)))

/-- The search of a profile with a key (R156). -/
def State.tcSearch (s : State) (k key : Nat) : TcHit :=
  match s.tcMatches k key with
  | [] => { profile := k, incomplete := s.tcIncomplete k }
  | g :: r => { profile := k, hit := true, index := g, multi := !r.isEmpty, incomplete := s.tcIncomplete k }

/-- The profile that the select table picks for a slot, ACL class and kind (R153); a disabled profile is no search (R155). -/
def State.tcProfile (s : State) (slot cls kind : Nat) : Option Nat :=
  let e := s.tab 98 4 (1024 * slot + 4 * cls + kind)
  let k := e.f (ed 0 5 0)
  if e.on (ed 0 31 31) && s.on (ASM_PROF_CFG.EN k) && s.rd (profErr k) == 0 then some k else none

/-- The key that a profile builds from field values (R154). -/
def State.tcKey (s : State) (k : Nat) (field : Nat → Nat) : Nat :=
  (s.selectors k).foldl (fun a x => a ||| (field x.2 % 2 ^ ((fieldBits x.2).getD 0)) <<< x.1) 0

/-- A hit whose shadow does not match the key: the search counts as a miss (R157); a SHADOW_BAD entry is not verified (R159). -/
def State.tcVerify (s : State) (h : TcHit) (key : Nat) : TcHit :=
  let e := s.tab (tcPage h.index) 0 h.index
  if h.hit && !e.on TCE.SHADOW_BAD && ((e.tcValue ^^^ key) &&& e.tcMask) != 0 then { h with hit := false } else h

/-- A row that differs from its shadow is rewritten and reported with its physical bank (R63, R157, R159). -/
def rowError (acc b g : Nat) : Prog := .look fun s => .andThen (unitError 98 0x020 1 g ((s.holder clsTcam b).getD 0) acc) (raise 98 16)

/-- What a search leaves in the device: its counters and, for a row that failed its check, its rewriting and the Corrected message (R157, R158). -/
def tcAccount (before after : TcHit) : Prog := seqs [
  count 6 (3 * after.profile + (if after.hit then 0 else 1)) 1,
  onlyIf (after.hit && after.multi) (count 6 (3 * after.profile + 2) 1),
  onlyIf (before.hit && !after.hit) (.andThen (rowsWritten before.index) (rowError 4 (before.index / 4096) before.index))]

/-- What a search selects (R156, R158, R160): a drop, the winner's list, or the miss list. -/
inductive TcFate where
  | drop
  | list (l : Option Nat)
  deriving DecidableEq, Repr

/-- The miss list of a profile. -/
def State.tcMissList (s : State) (k : Nat) : Option Nat :=
  if s.on (ASM_PROF_MISS.VALID k) then some (s.cfg (ASM_PROF_MISS.LIST k)) else none

/-- The fate of a searched packet. -/
def State.tcFate (s : State) (h : TcHit) : TcFate :=
  let act := s.cfg (ASM_PROF_CFG.INCOMPLETE_ACT h.profile)
  if h.incomplete && act == 1 then .drop
  else if h.incomplete && act == 2 then .list (s.tcMissList h.profile)
  else if h.hit then .list (some ((s.tab (tcPage h.index) 0 h.index).f TCE.LIST))
  else .list (s.tcMissList h.profile)

/-! ### Scrub (R159) -/

/-- The entry to which row `r` of bank `b` belongs. -/
def State.tcRowEntry (s : State) (b r : Nat) : Nat := 4096 * s.firstBank b + r

/-- One row of one bank: an uncorrectable shadow error marks the entry, a mismatch rewrites the row, and a second mismatch within three
passes is a hard bank fault (R159, R556). -/
def scrubRow (b row pass : Nat) (uncorr : Bool) : Prog := .look fun s =>
  let g := s.tcRowEntry b row
  let k := 4096 * b + row
  if (s.tab (tcPage g) 0 g).on TCE.SHADOW_BAD then .skip
  else if uncorr then seqs [setTabF (tcPage g) 0 g TCE.SHADOW_BAD 1, unitError 98 0x021 2 g ((s.holder clsTcam b).getD 0) 7, raise 98 17]
  else onlyIf (s.tcFlipAt k != 0) (seqs [
    .put (.tcFlip k 0),
    rowError 7 b g,
    (match s.tcamMissAt k with
      | some q => onlyIf (decide (pass ≤ q + 3)) (declareLogical clsTcam b 0x020)
      | none => .skip),
    .put (.tcamMiss k (some pass))])

/-- TCAM_SCRUB_ROW (R159): every INTERVAL FE clocks of 1.1 GHz, one row of every powered bank is compared with its shadow; `flips` are the bits that rows have lost since,
and `uncorr` says in which banks the shadow of the row is uncorrectable. -/
def execTcamScrubRow (flips : List (Nat × Nat)) (uncorr : Nat) (s : State) : Host.Outcome State Fault Refusal :=
  command (.tcamScrubRow flips uncorr) (.andThen (flipRows flips) (.look fun s =>
    onlyIf (s.rd (BLK_CTRL.ENABLE 98) == 1 && s.on ASM_SCRUB_CFG.EN && s.rd PWR_STAT.THROTTLING == 0 && s.since s.scrubAt (max 64 (s.cfg ASM_SCRUB_CFG.INTERVAL) * 10 / 11)) (seqs [
      each ((List.range 32).filter (fun b => bitOf (s.cfg ASM_BANK_PWR.PWR) b)) (fun b =>
        scrubRow b (s.scrubRow % 4096) (s.scrubRow / 4096) (bitOf uncorr b)),
      .put (.scrubRow (s.scrubRow + 1)),
      .put (.scrubAt s.mono)]))) s

end Sys2Proof.Machine
end

