-- ==== Sys2Proof/Machine/Lookup.lean ====
section
/-!
DEFINITION. The lookup stage of an ingress half (spec/05_forwarding_tables.md R182 to R219): logical interfaces, labels, routes, bridging, next
hops and ECMP; the learners, the sweeper and the notification FIFO.
-/
namespace Sys2Proof.Machine

/-! ### Entry fields -/

/-- Fields of LIF, ILM, VRF, NH, ECMP and BD entries. -/
def LIF.VALID : EF := ed 0 31 31
def LIF.V4_EN : EF := ed 0 30 30
def LIF.V6_EN : EF := ed 0 29 29
def LIF.MPLS_EN : EF := ed 0 28 28
def LIF.L2_EN : EF := ed 0 27 27
def LIF.LEARN_EN : EF := ed 0 26 26
def LIF.VRF : EF := ed 0 13 0
def LIF.BD : EF := ed 1 29 16
def LIF.IG_ACL_CLASS : EF := ed 1 15 8
def LIF.EG_ACL_CLASS : EF := ed 1 7 0
def LIF.LIST_EN : EF := ed 2 31 31
def LIF.LIST : EF := ed 2 18 0
def LIF.BRIDGE_NH : EF := ed 3 21 0
def LIFMAP.LIF : EF := ed 0 15 0
def ILM.VALID : EF := ed 0 31 31
def ILM.ACTION : EF := ed 0 30 28
def ILM.RESULT : EF := ed 0 23 0
def ILM.LIST_EN : EF := ed 1 31 31
def ILM.LIST : EF := ed 1 18 0
def ILM.VRF : EF := ed 2 29 16
def ILM.LIF : EF := ed 2 15 0
def ROUTE.RESULT : EF := ed 0 23 0
def ROUTE.LIST_EN : EF := ed 1 31 31
def ROUTE.LIST : EF := ed 1 18 0
def VRF.VALID : EF := ed 0 31 31
def VRF.DEF4_VALID : EF := ed 0 30 30
def VRF.DEF6_VALID : EF := ed 0 29 29
def VRF.DEF4 : EF := ed 1 23 0
def VRF.DEF6 : EF := ed 2 23 0
def NH.VALID : EF := ed 0 31 31
def NH.KIND : EF := ed 0 30 29
def NH.DEST_DEVICE : EF := ed 0 25 16
def NH.REASON : EF := ed 0 15 8
def NH.DEST_PORT : EF := ed 0 5 0
def NH.QUEUE_BASE : EF := ed 1 18 0
def NH.EG_LIF : EF := ed 2 15 0
def NH.DMAC_LO : EF := ed 3 31 0
def NH.DMAC_HI : EF := ed 4 15 0
def NH.LIST_EN : EF := ed 5 31 31
def NH.LIST : EF := ed 5 18 0
def GRP.VALID : EF := ed 0 31 31
def GRP.SIZE_M1 : EF := ed 0 24 16
def GRP.BASE : EF := ed 1 19 0
def MEM.VALID : EF := ed 0 31 31
def MEM.NH_ID : EF := ed 0 21 0
def BD.VALID : EF := ed 0 31 31
def BD.LEARN_EN : EF := ed 0 29 29
def BD.FLOOD_GROUP : EF := ed 0 15 0
def BD.LIMIT : EF := ed 1 20 0

/-- A list pointer in use. -/
def Entry.listOf (e : Entry) (en l : EF) : Option Nat := if e.on en then some (e.f l) else none

/-! ### Poisoned words (R559) -/

/-- Whether one of the 8-byte words of `len` bytes at an offset of a logical bank is poisoned. -/
def State.poisonIn (s : State) (bank off len : Nat) : Bool :=
  s.poisoned.any (fun kv => kv.2 && bank * 2 ^ 19 + off / 8 ≤ kv.1 && kv.1 * 8 < bank * 2 ^ 22 + off + len)

/-- Whether the entry of a directly indexed table lies in a poisoned word (R175): table 0 ILM, 1 LIF, 2 NH, 3 ECMP_GROUP, 4 ECMP_MEMBER. -/
def State.directPoison (s : State) (t i : Nat) : Bool :=
  if t == 0 then s.poisonIn (i * 8 / 2 ^ 22) (i * 8 % 2 ^ 22) 8
  else if t == 1 then s.poisonIn 2 (i * 64) 64
  else if t == 2 then s.poisonIn (3 + i * 16 / 2 ^ 22) (i * 16 % 2 ^ 22) 16
  else if t == 3 then s.poisonIn 19 (i * 64) 64
  else s.poisonIn 20 (i * 4 / 8 * 8) 8

/-- Whether a candidate bucket of a key has a poisoned word. -/
def State.keyPoison (s : State) (f : Fam) (key : Nat) : Bool :=
  (s.candidates f key).any (fun n =>
    match n with
    | .bucket k b => s.poisonIn ((s.famBanks f).getD k 0) (b * (2 ^ 22 / f.buckets)) (2 ^ 22 / f.buckets)
    | .stash => false)

/-! ### The logical interface (R182, R183, R203) -/

/-- The key of a LIF-map probe. -/
def lifKey (kind port ovid ivid low gre : Nat) : Nat := (kind * 2 ^ 30 + port * 2 ^ 24 + ovid * 2 ^ 12 + ivid + low) + gre * 2 ^ 32

/-- The probes of the LIF stage in order (R182), each with the tunnel it terminates. -/
def lifProbes (p : Parsed) (port : Nat) : List (Nat × Nat) :=
  let tags := p.f pTags
  let ov := p.f 0x13
  let iv := p.f 0x15
  (if p.hdr 12 then [(1, lifKey 1 0 0 0 (p.f 0x40) 0)] else []) ++
  (if p.hdr 11 && p.f pGreKey == 1 then [(2, lifKey 2 0 0 0 0 (p.f 0x40))] else []) ++
  (if tags == 2 && ov != 0 && iv != 0 then [(0, lifKey 0 port ov iv 0 0)] else []) ++
  (if 1 ≤ tags && ov != 0 then [(0, lifKey 0 port ov 0 0 0)] else []) ++
  [(0, lifKey 0 port 0 0 0 0)]

/-- The entry of a LIF. -/
def State.lifE (s : State) (l : Nat) : Entry := s.tab 101 1 l

/-- The first probe that hits: the tunnel terminated and the LIF; a LIF with VALID 0 is a miss (R203). -/
def State.findLif (s : State) (p : Parsed) (port : Nat) : Option (Nat × Nat) :=
  (lifProbes p port).findSome? (fun x =>
    match s.findKey .lifmap x.2 with
    | some y =>
      let l := (s.tab 101 y.1 y.2).f LIFMAP.LIF
      if (s.lifE l).on LIF.VALID then some (x.1, l) else none
    | none => none)

/-- Whether the LIF stage read a poisoned word. -/
def State.lifPoison (s : State) (p : Parsed) (port : Nat) : Bool :=
  ((lifProbes p port).takeWhile (fun x => (s.findKey .lifmap x.2).isNone)).any (fun x => s.keyPoison .lifmap x.2) ||
  (match s.findLif p port with
   | some (_, l) => s.directPoison 1 l
   | none => false)

/-- Whether a MAC address is a router MAC (R183). -/
def State.isRouterMac (s : State) (m : Nat) : Bool :=
  (List.range 8).any (fun k => s.rd (EXM_ROUTER_MAC_HI.VALID k) == 1 &&
    s.rd (EXM_ROUTER_MAC_HI.MAC_HI k) * 2 ^ 32 + s.rd (EXM_ROUTER_MAC_LO.MAC_LO k) == m)

/-- The headers that the lookup uses: whether they are the inner ones, and the kind of the top header (0 non-IP, 1 IPv4, 2 IPv6, 3 MPLS). -/
def lookTop (p : Parsed) (term : Nat) : Nat :=
  let stackHere := p.hdr 2 && (p.f pStackInner == 1) == (term == 2)
  if stackHere && (term != 1) then 3
  else
    let l3 := if term == 0 then p.f pL3 else p.f pInL3
    if l3 == 4 then 1 else if l3 == 6 then 2 else 0

/-- The DMAC of R183. -/
def lookDmac (p : Parsed) (term : Nat) : Nat := if term == 1 then p.f 0x41 else p.f 0x10

/-! ### Routes (R187 to R197) -/

/-- The address of a prefix length: the bits beyond the length zeroed. -/
def maskAddr (v6 : Bool) (len addr : Nat) : Nat := let n := if v6 then 128 else 32; addr / 2 ^ (n - len) * 2 ^ (n - len)

/-- The family of an address. -/
def famV (v6 : Bool) : Fam := if v6 then .lpm6 else .lpm4

/-- The candidates that the length filter reports, longest first (R191, R194): every length whose presence bit is set and whose prefix
the filter reports; it never misses one that is in the family. -/
def State.lpmCandidates (s : State) (v6 : Bool) (vrf addr : Nat) : List Nat :=
  let f := famV v6
  ((List.range (if v6 then 128 else 32)).map (· + 1)).reverse.filter (fun l =>
    let key := lpmKey f vrf l (maskAddr v6 l addr)
    (s.tab 100 50 vrf).f (presence f l) == 1 && ((s.findKey f key).isSome || s.filterHas f key))

/-- The probe that begins a longest-prefix match. -/
def State.lpmStart (s : State) (v6 : Bool) (vrf addr : Nat) : Probe := .lpm v6 vrf addr (s.lpmCandidates v6 vrf addr)

/-! ### Next hops and ECMP (R204 to R207) -/

/-- The bytes of the ECMP hash (R207). -/
def State.ecmpBytes (s : State) (k : Look) (port : Nat) : List Nat :=
  let p : Parsed := k.p
  let inner := s.rd NHP_HASH_CFG.INNER == 1 && (k.term != 0 || k.popEth) && p.f pInL3 != 0
  let l3 := if inner then p.f pInL3 else p.f pL3
  let n := if l3 == 4 then 4 else 16
  let l4 := if inner then p.hdr 15 && (p.f 0x44 == 6 || p.f 0x44 == 17) else p.hdr 8 || p.hdr 9
  let on (f : Fld) (b : Bool) (l : List Nat) : List Nat := if s.rd f == 1 && b then l else []
  toBytesBE 4 (s.rd NHP_HASH_SEED.SEED) ++
  on NHP_HASH_CFG.SA (l3 != 0) (toBytesBE n (p.f (if inner then 0x42 else 0x30))) ++
  on NHP_HASH_CFG.DA (l3 != 0) (toBytesBE n (p.f (if inner then 0x43 else 0x31))) ++
  on NHP_HASH_CFG.PROTO (l3 != 0) [p.f (if inner then 0x44 else 0x32)] ++
  on NHP_HASH_CFG.L4_PORTS l4 (toBytesBE 2 (p.f (if inner then 0x45 else 0x38)) ++ toBytesBE 2 (p.f (if inner then 0x46 else 0x39))) ++
  on NHP_HASH_CFG.FLOW_LABEL (p.f pL3 == 6) (toBytesBE 3 (p.f 0x35)) ++
  on NHP_HASH_CFG.LABELS (p.hdr 2)
    (((List.range 3).filter (fun i => k.pop + i < p.f pLabels)).map (fun i => toBytesBE 3 (p.f (0x20 + k.pop + i) / 4096))).flatten ++
  (match k.entropy with | some e => on NHP_HASH_CFG.EL true (toBytesBE 3 e) | none => []) ++
  on NHP_HASH_CFG.SRC_PORT true [port]

/-- A next hop's destination (R204). -/
def State.resolveNh (s : State) (nh : Nat) : Dest :=
  let e := s.tab 103 0 nh
  if s.directPoison 2 nh then .drop 0xA8
  else if !e.on NH.VALID || e.f NH.KIND == 3 then .drop 0x98
  else if e.f NH.KIND == 1 then .drop (e.f NH.REASON)
  else if e.f NH.KIND == 2 then .trap (e.f NH.REASON)
  else .unicast (e.f NH.DEST_DEVICE) (e.f NH.DEST_PORT) (e.f NH.QUEUE_BASE) nh

/-- The member that the hash selects (R206, R207). -/
def State.ecmpMember (s : State) (k : Look) (port group : Nat) : Nat :=
  let g := s.tab 103 1 group
  g.f GRP.BASE + (crc32c (s.ecmpBytes k port) % 65536 * (g.f GRP.SIZE_M1 + 1)) / 65536

/-- An ECMP group's destination (R206, R207). -/
def State.resolveEcmp (s : State) (k : Look) (port group : Nat) : Dest :=
  let m := s.ecmpMember k port group
  if s.directPoison 3 group then .drop 0xA8
  else if !(s.tab 103 1 group).on GRP.VALID then .drop 0x98
  else if s.directPoison 4 m then .drop 0xA8
  else if !(s.tab 103 2 m).on MEM.VALID then .drop 0x98
  else s.resolveNh ((s.tab 103 2 m).f MEM.NH_ID)

/-- A 24-bit forwarding result (R186). -/
def State.resolve (s : State) (k : Look) (port r : Nat) : Dest :=
  let kind := r / 2 ^ 22
  let v := r % 2 ^ 22
  if kind == 0 then s.resolveNh v
  else if kind == 1 then s.resolveEcmp k port v
  else if kind == 2 then .mcast v
  else if v == 1 then .trap 0x9A
  else if v == 2 then .trap 0x9B
  else .drop 0x92

/-! ### Probes -/

/-- A table entry read, as a trace records it (R611): TABLE code, result, index, prefix length and pass. -/
def Look.read (k : Look) (t r i len : Nat) : Look :=
  { k with reads := k.reads ++ [(t * 2 ^ 24 + r * 2 ^ 22 + i % 2 ^ 22, len * 2 ^ 24 + k.passes % 16 * 2 ^ 20)] }

/-- A lookup decided by an outcome. -/
def Look.decide (k : Look) (d : Dest) : Look := { k with dest := d, probe := .done }

/-- A lookup decided by an entry's result and forwarding list. -/
def Look.found (k : Look) (d : Dest) (list : Option Nat) : Look := { k with dest := d, probe := .done, fwd := list }

/-- The IP payload that lies under the stack: its family and destination, when R137 recognised it. -/
def stackIp (p : Parsed) : Option (Bool × Nat) :=
  if p.f oCw != 0 then none
  else if p.f pStackInner == 1 then
    (if p.f pInL3 == 4 then some (false, p.f 0x43) else if p.f pInL3 == 6 then some (true, p.f 0x43) else none)
  else if p.f pL3 == 4 then some (false, p.f 0x31) else if p.f pL3 == 6 then some (true, p.f 0x31) else none

/-- Reserved labels and the end of the stack, which cost no probe (R199). -/
def labelFree (s : State) (k : Look) : Nat → Nat → Look
  | 0, _ => k.decide (.drop 0x95)
  | fuel + 1, i =>
    let p : Parsed := k.p
    let e := p.f (0x20 + i)
    let label := e / 4096
    let bottom := bitOf e 8
    if p.f pLabels ≤ i then k.decide (.drop 0x95)
    else if label == 0 || label == 2 then
      (if bottom then
        (match stackIp p with
         | some (v6, da) => if v6 == (label == 2) then { k with pop := i + 1, probe := s.lpmStart v6 (p.f 0x03) da } else k.decide (.drop 0x95)
         | none => k.decide (.drop 0x95))
       else labelFree s { k with pop := i + 1 } fuel (i + 1))
    else if label == 7 then
      (if bottom || p.f pLabels ≤ i + 1 then k.decide (.drop 0x95)
       else labelFree s { k with pop := i + 2, entropy := some (p.f (0x21 + i) / 4096) } fuel (i + 2))
    else if label == 13 || label == 14 then k.decide (.trap 0x9C)
    else if label < 16 then k.decide (.drop 0x95)
    else { k with probe := .ilm i }

/-- An ILM probe of label `i` (R200).  The forwarding list is that of the last entry the lookup finds that has one (DEDUCED, log 28). -/
def ilmProbe (s : State) (k : Look) (port i : Nat) : Look :=
  let p : Parsed := k.p
  let e := p.f (0x20 + i)
  let x := s.tab 101 0 (e / 4096)
  let bottom := bitOf e 8
  let list := x.listOf ILM.LIST_EN ILM.LIST
  let k := k.read 3 (b2n (x.on ILM.VALID)) (e / 4096) 0
  if s.directPoison 0 (e / 4096) then k.decide (.drop 0xA8)
  else if !x.on ILM.VALID then k.decide (.drop 0x95)
  else
    let k := { k with fwd := list }
    if x.f ILM.ACTION == 0 then k.decide (s.resolve k port (x.f ILM.RESULT))
    else if x.f ILM.ACTION == 1 then
      (if bottom then k.decide (.drop 0x95) else labelFree s { k with pop := i + 1 } 8 (i + 1))
    else if x.f ILM.ACTION == 2 then
      (match stackIp p with
       | some (v6, da) => if bottom then { k with pop := i + 1, probe := s.lpmStart v6 (x.f ILM.VRF) da } else k.decide (.drop 0x95)
       | none => k.decide (.drop 0x95))
    else if x.f ILM.ACTION == 3 && bottom && p.f oCw != 0 then
      { k with pop := i + 1, popEth := true, probe := .bridge ((s.lifE (x.f ILM.LIF)).f LIF.BD) (x.f ILM.LIF) true }
    else k.decide (.drop 0x95)

/-- The outcome without a hit: the VRF's default or no route (R197). -/
def lpmDefault (s : State) (k : Look) (port vrf : Nat) (v6 : Bool) : Look :=
  let v := s.tab 100 50 vrf
  if v.on (if v6 then VRF.DEF6_VALID else VRF.DEF4_VALID) then (k.read 6 1 vrf 0).decide (s.resolve k port (v.f (if v6 then VRF.DEF6 else VRF.DEF4)))
  else k.decide (.drop 0x99)

/-- An LPM probe of the longest candidate (R194, R196). -/
def lpmProbe (s : State) (k : Look) (port : Nat) (v6 : Bool) (vrf addr : Nat) : List Nat → Look
  | [] => lpmDefault s k port vrf v6
  | l :: r =>
    let key := lpmKey (famV v6) vrf l (maskAddr v6 l addr)
    if s.keyPoison (famV v6) key then k.decide (.drop 0xA8)
    else
      match s.findKey (famV v6) key with
      | some x =>
        let e := s.tab 100 x.1 x.2
        (k.read (if v6 then 5 else 4) 1 x.2 l).found (s.resolve k port (e.f ROUTE.RESULT)) (e.listOf ROUTE.LIST_EN ROUTE.LIST)
      | none => { k.read (if v6 then 5 else 4) 2 0 l with probe := .lpm v6 vrf addr r }

/-! ### Bridging (R208 to R212) -/

/-- The key of a MAC entry. -/
def macKey (bd mac : Nat) : Nat := mac % 2 ^ 32 + (bd * 2 ^ 16 + mac / 2 ^ 32) * 2 ^ 32

/-- The MAC entry of an address in a BD. -/
def State.findMac (s : State) (bd mac : Nat) : Option (Nat × Entry) :=
  match s.findKey .mac (macKey bd mac) with
  | some x => some (x.2, s.tab 102 0 x.2)
  | none => none

/-- Learned entries of a port and of a BD (R211). -/
def State.learnedPort (s : State) (port : Nat) : Nat :=
  ((s.famEntries .mac).filter (fun x => x.2.2.on MAC.LEARNED && x.2.2.f MAC.PORT == port)).length
def State.learnedBd (s : State) (bd : Nat) : Nat :=
  ((s.famEntries .mac).filter (fun x => x.2.2.on MAC.LEARNED && x.2.2.f (ek 1 29 16) == bd)).length

/-- Whether a learning count has reached its limit; 0x10_0000 places none (R211). -/
def State.learnFull (s : State) (port bd : Nat) : Bool :=
  let lp := s.rd (L2B_PORT_CFG.LIMIT port)
  let lb := (s.tab 102 1 bd).f BD.LIMIT
  (lp != 0x100000 && lp ≤ s.learnedPort port) || (lb != 0x100000 && lb ≤ s.learnedBd bd)

/-- A learn or move event joins its pipeline's queue, unless one for its key waits there, the queue is full (R210) or the block is disabled (R56). -/
def learnEvent (pipe : Nat) (e : LearnEvt) : Prog := .look fun s =>
  let q := s.learnQAt pipe
  if s.rd (BLK_CTRL.ENABLE 102) == 0 || q.any (fun x => x.bd == e.bd && x.mac == e.mac) then .skip
  else if q.length < 512 then .andThen (.put (.learnQ pipe (q ++ [{ e with logical := s.unit clsPipe pipe UNIT.LOGICAL, gen := s.unit clsPipe pipe UNIT.GEN }]))) (count 2 (32 * pipe + 5) 1)
  else .andThen (bumpF L2B_LEARN_DROP.COUNT 1) (raise 102 18)

/-- Bridging in a BD (R208, R209, R211): the outcome, and what it leaves behind. -/
def bridgeProbe (s : State) (k : Look) (pipe port bd lif : Nat) (inner : Bool) : Look × Prog :=
  let p : Parsed := k.p
  let da := if inner then p.f 0x41 else p.f 0x10
  let sa := if inner then p.f pInSmac else p.f 0x11
  let b := s.tab 102 1 bd
  let valid := b.on BD.VALID
  let learn := s.rd L2B_LEARN_CFG.EN == 1 && s.rd (L2B_PORT_CFG.LEARN_EN port) == 1 && (s.lifE lif).on LIF.LEARN_EN && valid && b.on BD.LEARN_EN
  let dst := s.findMac bd da
  let src := s.findMac bd sa
  let group := bitOf da 40
  let refuse := learn && src.isNone && s.learnFull port bd
  let out : Dest :=
    if s.keyPoison .mac (macKey bd da) || s.keyPoison .mac (macKey bd sa) then .drop 0xA8
    else if !valid then .mcast 0
    else
      match src with
      | some (_, e) =>
        if e.on MAC.DISCARD then .drop 0x9D
        else if e.f MAC.LIF != lif && e.on MAC.STATIC then .drop 0x97
        else
          match (if group then none else dst) with
          | some (_, d) => if d.on MAC.DISCARD then .drop 0x9D else s.resolveNh ((s.lifE (d.f MAC.LIF)).f LIF.BRIDGE_NH)
          | none => .mcast (b.f BD.FLOOD_GROUP)
      | none =>
        if refuse && s.rd (L2B_PORT_CFG.EXCESS port) == 0 then .drop 0x96
        else
          match (if group then none else dst) with
          | some (_, d) => if d.on MAC.DISCARD then .drop 0x9D else s.resolveNh ((s.lifE (d.f MAC.LIF)).f LIF.BRIDGE_NH)
          | none => .mcast (b.f BD.FLOOD_GROUP)
  let side : Prog :=
    match src with
    | some (i, e) =>
      if e.on MAC.DISCARD then .skip
      else if e.f MAC.LIF == lif then setTabF 102 0 i MAC.HIT 1
      else onlyIf (learn && !e.on MAC.STATIC) (learnEvent pipe { bd := bd, mac := sa, lif := lif, port := port, move := true })
    | none =>
      if refuse then seqs [raise 102 19, onlyIf (s.rd (L2B_PORT_CFG.EXCESS port) == 1) (feReason 0x96), notify 4 0 bd sa lif 0]
      else onlyIf learn (learnEvent pipe { bd := bd, mac := sa, lif := lif, port := port })
  let rd (k : Look) (t : Nat) (x : Option (Nat × Entry)) : Look := match x with | some (i, _) => k.read t 1 i 0 | none => k.read t 0 0 0
  ((rd (rd k 7 src) 8 dst).decide out, side)

/-! ### Passes (R184, R195) -/

/-- The probes of one pass: `left` remain.  The lookup ends, or the pass does with its next probe kept. -/
def lookProbes (s : State) (pipe port : Nat) : Nat → Look → Look × Prog
  | 0, k =>
    match k.probe with
    | .lpm v6 vrf _ [] => (lpmDefault s k port vrf v6, .skip)
    | _ => (k, .skip)
  | left + 1, k =>
    match k.probe with
    | .done => (k, .skip)
    | .ilm i => lookProbes s pipe port left (ilmProbe s k port i)
    | .lpm v6 vrf addr c => if c.isEmpty then (lpmDefault s k port vrf v6, .skip) else lookProbes s pipe port left (lpmProbe s k port v6 vrf addr c)
    | .bridge bd lif inner => if 1 ≤ left then bridgeProbe s k pipe port bd lif inner else (k, .skip)

/-- The forwarding lookup that the LIF decides (R183). -/
def State.lookStart (s : State) (k : Look) (lif : Nat) : Look :=
  let p : Parsed := k.p
  let e := s.lifE lif
  let top := lookTop p k.term
  let da := if k.term == 0 then p.f 0x31 else p.f 0x43
  if s.isRouterMac (lookDmac p k.term) then
    (if top == 3 && e.on LIF.MPLS_EN then labelFree s k 8 0
     else if top == 1 && e.on LIF.V4_EN then { k with probe := s.lpmStart false (e.f LIF.VRF) da }
     else if top == 2 && e.on LIF.V6_EN then { k with probe := s.lpmStart true (e.f LIF.VRF) da }
     else k.decide (.drop 0x94))
  else if e.on LIF.L2_EN then { k with probe := .bridge (e.f LIF.BD) lif (k.term != 0 && p.hdr 13) }
  else k.decide (.drop 0x94)

/-! ### Learners, sweeper and notifications -/

/-- An entry of the MAC table made by a learner. -/
def learnedEntry (e : LearnEvt) : Entry :=
  ((({ key := BitVec.ofNat 256 (macKey e.bd e.mac) } : Entry).put MAC.HIT 1).put MAC.LIF e.lif).put MAC.LEARNED 1 |>.put MAC.PORT e.port

/-- LEARNER_APPLY (R210 to R214, R563): the oldest event of a pipeline's learner, discarded if its generation is not the current one; held while the parish register would not accept its record.  A learn makes an
entry where there is none, a move rewrites one that is not static (DEDUCED, log 27). -/
def execLearnerApply (pipe : Nat) (s : State) : Host.Outcome State Fault Refusal :=
  command (.learnerApply pipe) (.look fun s =>
    let origin := 0x4000 + pipe
    let drop := Prog.andThen (bumpF L2B_LEARN_DROP.COUNT 1) (raise 102 18)
    match s.learnQAt pipe with
    | [] => .skip
    | e :: r =>
      let rest := Prog.put (.learnQ pipe r)
      if e.gen != s.curGen clsPipe e.logical then .andThen rest (staleOutput clsPipe pipe e.logical e.gen) else
      let record (op i : Nat) (x : Entry) := tableRecord origin 102 0 op i (entryAux (some x)) s
      match s.findMac e.bd e.mac with
      | some (i, old) =>
        if !e.move || old.on MAC.STATIC || old.f MAC.LIF == e.lif then rest
        else
          let x := (old.put MAC.LIF e.lif).put MAC.PORT e.port
          onlyIf (s.jnlAccepts (record 3 i x)) (seqs [
            rest, acceptRecord (record 3 i x), setTab 102 0 i x, notify 2 i e.bd e.mac e.lif (old.f MAC.LIF)])
      | none =>
        if e.move then rest
        else if s.learnFull e.port e.bd then .andThen rest drop
        else
          match s.placement .mac (macKey e.bd e.mac) with
          | none => .andThen rest drop
          | some (path, free) =>
            let i := (chainTarget path free).2
            let x := learnedEntry e
            onlyIf (s.jnlAccepts (record 3 i x)) (seqs [
              rest, acceptRecord (record 3 i x), chainWrites .mac path free x, notify 1 i e.bd e.mac e.lif 0])) s

/-- The buckets that the sweeper visits in one period: every bucket of every bank, and the stash as one more (R215). -/
def State.sweepPlaces (s : State) : Nat := 65536 * (s.famBanks .mac).length + 1

/-- The sweeper's visit of one entry (R215): a removal that the parish register does not accept is held, and delayed until it does (R216). -/
def sweepEntry (x : Nat × Nat) : Prog := .look fun s =>
  match s.inSlot .mac x with
  | none => .skip
  | some e =>
    if e.on MAC.STATIC then .skip
    else if e.on MAC.HIT then setTab 102 x.1 x.2 ((e.put MAC.HIT 0).put MAC.STALE 0)
    else if !e.on MAC.STALE then setTab 102 x.1 x.2 (e.put MAC.STALE 1)
    else
      let r := tableRecord 0x5000 102 0 10 x.2 0 s
      if s.jnlAccepts r then .andThen (acceptRecord r) (ageOut x.2 e)
      else .put (.jnlHeld (s.jnlHeld ++ [{ what := 5, master := 0x5000, page := 102, off := x.2, value := Fam.keyOf .mac e, record := r, at_ := s.mono }]))

/-- AGE_SWEEP (R215, R216): the next bucket's visit, evenly spaced over the period; the sweeper waits while the parish register holds a removal of it. -/
def execAgeSweep (s : State) : Host.Outcome State Fault Refusal :=
  command .ageSweep (whenEnabled 102 <| .look fun s =>
    let n := s.sweepPlaces
    let period := min 1000000 (max 1 (s.rd L2B_AGE_CFG.PERIOD)) * 1000000000
    let pos := s.sweepPos % n
    let node : Node := if pos + 1 == n then .stash else .bucket (pos / 65536) (pos % 65536)
    onlyIf (s.rd L2B_AGE_CFG.EN == 1 && !s.jnlHeld.any (fun h => h.what == 5) && s.since s.sweepAt (period / n)) (seqs [
      each (s.nodeSlots .mac node) sweepEntry,
      .put (.sweepPos ((pos + 1) % n)),
      .put (.sweepAt s.mono)])) s

end Sys2Proof.Machine
end

