-- ==== Sys2Proof/Machine/Policer.lean ====
section
/-!
DEFINITION. Ingress policers (spec/08_queues_and_scheduling.md R313 to R317; spec/06_pipelines.md R241, R242).
-/
namespace Sys2Proof.Machine

/-- Fields of a policer (POL table 0). -/
def POL.VALID : EF := ed 0 31 31
def POL.MODE : EF := ed 0 30 30
def POL.RED_DROP : EF := ed 0 29 29
def POL.FILL : EF := ed 0 28 28
def POL.CIR : EF := ed 1 31 0
def POL.PIR : EF := ed 2 31 0
def POL.CBS : EF := ed 3 23 0
def POL.PBS : EF := ed 4 23 0

/-- A byte in the unit of a policer's buckets, 10^-6 bit: a rate of 1 kb/s fills one unit in a nanosecond. -/
def tokenByte : Int := 8000000

/-- A policer's buckets as they stand now (R313): MODE 1 lets committed tokens that overflow CBS fill the excess bucket. -/
def polNow (e : Entry) (x : PolX) (now : Nat) : PolX :=
  let dt : Int := now - x.at_
  let cbs := tokenByte * e.f POL.CBS
  let pbs := tokenByte * e.f POL.PBS
  let c := x.c + dt * e.f POL.CIR
  let spill := if e.f POL.MODE == 1 then max 0 (c - cbs) else 0
  { c := min cbs c, p := min pbs (x.p + dt * e.f POL.PIR + spill), at_ := now }

/-- The colour of a packet of `n` bytes with input colour `inp` (0 green, 1 yellow, 2 red) and the buckets after it, with the buckets charged
(R313; RFC 2698 or RFC 4115). -/
def polMark (e : Entry) (x : PolX) (aware : Bool) (inp n : Nat) : Nat × PolX × Bool × Bool :=
  let b := tokenByte * n
  let inp := if aware then inp else 0
  if e.f POL.PBS < n then (2, x, false, false)
  else if e.f POL.MODE == 0 then
    (if inp == 2 || x.p < b then (2, x, false, false)
     else if inp == 1 || x.c < b then (1, { x with p := x.p - b }, false, true)
     else (0, { x with c := x.c - b, p := x.p - b }, true, true))
  else if inp == 0 && b ≤ x.c then (0, { x with c := x.c - b }, true, false)
  else if inp ≤ 1 && b ≤ x.p then (1, { x with p := x.p - b }, false, true)
  else (2, x, false, false)

/-- The correction at the tail (R242, R315): the difference between the true length and the charge is taken from the buckets charged. -/
def polCorrect (pol : Nat) (true_ charged : Nat) (c p : Bool) : Prog := .look fun s =>
  let e := s.tab 179 0 pol
  let x := polNow e (s.polXAt pol) s.mono
  let d := tokenByte * ((true_ : Int) - (charged : Int))
  .put (.polX pol { x with c := if c then min (tokenByte * e.f POL.CBS) (x.c - d) else x.c, p := if p then min (tokenByte * e.f POL.PBS) (x.p - d) else x.p })

/-- What a WRITE of a policer does to its buckets (R317). -/
def polWritten (pol : Nat) (e : Entry) : Prog := .look fun s =>
  let x := polNow (s.tab 179 0 pol) (s.polXAt pol) s.mono
  let cbs := tokenByte * e.f POL.CBS
  let pbs := tokenByte * e.f POL.PBS
  .put (.polX pol (if e.on POL.FILL then { c := cbs, p := pbs, at_ := s.mono } else { c := min cbs x.c, p := min pbs x.p, at_ := s.mono }))

end Sys2Proof.Machine
end

