-- ==== Sys2Proof/Machine/Actions.lean ====
section
/-!
DEFINITION. Action words (spec/04_parsing_and_classification.md R164 to R173, R695, R698, R699): the lists, their run in an ingress half and in an egress
half, and the rewriting of frames.
-/
namespace Sys2Proof.Machine

/-! ### Words and lists -/

/-- The action word at an address (ACT table 0): DATA0 holds bits 127:96. -/
def State.actWord (s : State) (a : Nat) : Nat :=
  let e := s.tab 104 0 a
  e.f (ed 0 31 0) * 2 ^ 96 + e.f (ed 1 31 0) * 2 ^ 64 + e.f (ed 2 31 0) * 2 ^ 32 + e.f (ed 3 31 0)

/-- Bits [hi:lo] of a word. -/
def bits (w hi lo : Nat) : Nat := w / 2 ^ lo % 2 ^ (hi + 1 - lo)
/-- The opcode of a word. -/
def opcode (w : Nat) : Nat := bits w 127 122

/-- An action word as a half reads it: the list it stands in (R611's code), its address and its bits. -/
structure ActW where
  list : Nat
  addr : Nat
  word : Nat
  deriving DecidableEq, Repr

/-- The words of the list at an address: to END or to the end of its line (R164). -/
def State.listWords (s : State) (list : Nat) : Nat → Nat → List ActW
  | 0, _ => []
  | n + 1, a =>
    let w := s.actWord a
    ⟨list, a, w⟩ :: (if bitOf w 121 || a % 8 == 7 then [] else s.listWords list n (a + 1))

/-- The words of a list that a lookup may have supplied. -/
def State.optList (s : State) (list : Nat) : Option Nat → List ActW
  | some a => s.listWords list 8 a
  | none => []

/-- An action entry of a trace record (R611): the word, and LIST, OUTCOME and address. -/
def ActW.traced (a : ActW) (outcome : Nat) : Nat × Nat := (a.word, a.list * 2 ^ 29 + outcome * 2 ^ 27 + a.addr)

/-- A skipped word or an overflow, recorded in the ACT error capture (R171). -/
def actError (kind : Nat) (a : ActW) : Prog := reportError 104 4 2 a.addr 0xE000 0 kind 0

/-- The most words of an opcode that a half runs for a packet (R171). -/
def wordLimit (op : Nat) : Nat := if op == 0x0A then 2 else if op == 0x0B then 4 else if op == 0x05 then 4 else if op == 0x03 then 2 else 32

/-- Whether an opcode may run in a half (R165). -/
def opIngress (op : Nat) : Bool := op == 0 || (0x08 ≤ op && op ≤ 0x10)
def opEgress (op : Nat) : Bool := op ≤ 0x09 || op == 0x0B || op == 0x0D

/-! ### The ingress run -/

/-- What the ingress lists have done so far. -/
structure IgRun where
  tc : Nat := 0
  colour : Nat := 0
  tag : Nat := 0
  redir : Option (Nat × Nat) := none
  redirected : Bool := false
  trap : Option Nat := none
  egList : Option Nat := none
  drop : Option Nat := none
  final : Bool := false
  words : Nat := 0
  ops : List Nat := []
  mirrors : List Nat := []
  pols : List (Nat × PolX) := []
  listPols : List (Nat × Nat) := []
  charges : List Charge := []
  counts : List Nat := []
  polCount : List (Nat × Nat) := []
  errors : List (Nat × ActW) := []
  trace : List (Nat × Nat) := []
  deriving DecidableEq, Repr

/-- The packet as an ingress word sees it: its parse, its lookup state, its window, its charge length and the instant. -/
structure IgCtx where
  p : Parsed
  look : Look
  win : Window
  len : Nat
  now : Nat
  deriving DecidableEq, Repr

/-- How many labels of the parse stand on top of the frame once the tunnel that the LIF map terminated has been stripped (R170, R182). -/
def topLabels (p : Parsed) (term : Nat) : Nat :=
  if !p.hdr 2 || (term != 0 && p.hdr 13) then 0
  else if p.f pStackInner == 1 then (if term == 2 then p.f pLabels else 0)
  else if term == 2 && p.f pInL3 != 0 then 0
  else p.f pLabels

/-- The TTL that an ingress DEC_TTL checks; none when its target is absent (R170). -/
def IgCtx.ttl (c : IgCtx) (target : Nat) : Option Nat :=
  if target == 0 then (if c.p.f pL3 != 0 then some (c.p.f 0x34) else none)
  else if target == 1 then (if c.look.pop < topLabels c.p c.look.term then some (c.p.f (0x20 + c.look.pop) % 256) else none)
  else if target == 2 then
    (if c.p.f pInL3 == 4 then some (c.win.at (c.p.f oInL3 + 8)) else if c.p.f pInL3 == 6 then some (c.win.at (c.p.f oInL3 + 7)) else none)
  else none

/-- A policer's buckets as earlier words of the same packet left them. -/
def IgRun.polNow (s : State) (r : IgRun) (c : IgCtx) (pol : Nat) : PolX :=
  match r.pols.find? (fun x => x.1 == pol) with
  | some x => x.2
  | none => Machine.polNow (s.tab 179 0 pol) (s.polXAt pol) c.now

/-- A word recorded as skipped (R171, R699): counted, captured with kind 0x020. -/
def IgRun.skip (r : IgRun) (a : ActW) (outcome : Nat) : IgRun :=
  { r with errors := r.errors ++ [(0x20, a)], trace := r.trace ++ [a.traced outcome] }

/-- A POLICE word (R241, R314 to R316). -/
def igPolice (s : State) (c : IgCtx) (r : IgRun) (a : ActW) : IgRun :=
  let pol := bits a.word 17 0
  let e := s.tab 179 0 pol
  if !e.on POL.VALID || r.listPols.contains (a.list, pol) then { r with trace := r.trace ++ [a.traced 1] }
  else
    let n := c.len + (if s.rd POL_CFG.OVH20 == 1 then 20 else 0)
    let m := polMark e (r.polNow s c pol) (bits a.word 112 112 == 1) r.colour n
    { r with
      colour := if r.charges.isEmpty then m.1 else max r.colour m.1
      drop := if m.1 == 2 && e.on POL.RED_DROP then some 0xC0 else r.drop
      pols := (r.pols.filter (fun x => x.1 != pol)) ++ [(pol, m.2.1)]
      listPols := r.listPols ++ [(a.list, pol)]
      charges := r.charges ++ [⟨pol, c.len, m.2.2.1, m.2.2.2⟩]
      polCount := r.polCount ++ [(pol, m.1)]
      trace := r.trace ++ [a.traced 0] }

/-- One ingress word that is in its half and within its limits. -/
def igWord (s : State) (c : IgCtx) (r : IgRun) (a : ActW) : IgRun :=
  let w := a.word
  let op := opcode w
  let did (r : IgRun) : IgRun := { r with trace := r.trace ++ [a.traced 0] }
  if op == 0x09 then did { r with counts := r.counts ++ [bits w 21 0] }
  else if op == 0x0B then did { r with mirrors := r.mirrors ++ [bits w 5 0] }
  else if r.drop.isSome || r.final then { r with trace := r.trace ++ [a.traced 3] }
  else if op == 0x08 then
    (match c.ttl (bits w 113 112) with
     | none => r.skip a 1
     | some t =>
       if 1 < t then did r
       else if bits w 114 114 == 0 then did { r with drop := some (bits w 7 0) }
       else did { r with trap := some (bits w 7 0), redir := none })
  else if op == 0x0A then igPolice s c r a
  else if op == 0x0C then
    (if bits w 115 112 == 4 then did { r with trap := some (bits w 7 0), redir := none, redirected := true }
     else did { r with redir := some (bits w 115 112, bits w 21 0), trap := none, redirected := true })
  else if op == 0x0D then did { r with drop := some (bits w 7 0) }
  else if op == 0x0E then
    did { r with tc := if bits w 117 117 == 1 then bits w 114 112 else r.tc, colour := if bits w 116 115 == 3 then r.colour else bits w 116 115 }
  else if op == 0x0F then did { r with tag := bits w 15 0 }
  else if op == 0x10 then did { r with egList := some (bits w 18 0) }
  else did r

/-- The words of a half in order, under the limits of R171; the 33rd word discards a packet that nothing before it has discarded (R169, R698). -/
def igWords (s : State) (c : IgCtx) : List ActW → IgRun → IgRun
  | [], r => r
  | a :: rest, r =>
    let op := opcode a.word
    if 32 ≤ r.words then { r with drop := if r.drop.isSome || r.final then r.drop else some 0x90, errors := r.errors ++ [(0x21, a)] }
    else
      let r := { r with words := r.words + 1 }
      igWords s c rest (
        if !opIngress op then r.skip a 2
        else if wordLimit op ≤ (r.ops.filter (· == op)).length then r.skip a 1
        else igWord s c { r with ops := r.ops ++ [op] } a)

/-- The ingress lists in the order of R166. -/
def State.igLists (s : State) (k : Look) : List ActW :=
  if k.noList then [] else s.optList 0 k.lifList ++ s.optList 1 k.ig0 ++ s.optList 3 k.fwd ++ s.optList 4 k.ig1

/-- The TAG that the SET_TAG words of the first two lists give before the IG1 search, and whether one of their words redirects (R154, R166). -/
def State.earlyTag (s : State) (c : IgCtx) (k : Look) (dead : Bool) : Nat × Bool :=
  let r := igWords s c (if k.noList then [] else s.optList 0 k.lifList ++ s.optList 1 k.ig0) { final := dead }
  (r.tag, r.redirected)

/-! ### Frames as an egress half edits them -/

/-- A frame's headers in parts: addresses, tags (TPID, TCI), EtherType, label entries and what follows them, with the offset in the received frame of
the first byte of `rest`. -/
structure EgFrame where
  dmac : Nat := 0
  smac : Nat := 0
  tags : List (Nat × Nat) := []
  etype : Nat := 0
  labels : List Nat := []
  rest : List Nat := []
  base : Nat := 0
  /-- With labels: the EtherType of what stands under them, 0 where it is not known. -/
  under : Nat := 0
  /-- The offset in the received frame of the header at which an exception stopped the parse; 0: none did. -/
  stop : Nat := 0
  deriving DecidableEq, Repr

/-- The bytes of a frame in parts. -/
def EgFrame.bytes (x : EgFrame) : List Nat :=
  toBytesBE 6 x.dmac ++ toBytesBE 6 x.smac ++ (x.tags.map (fun t => toBytesBE 2 t.1 ++ toBytesBE 2 t.2)).flatten ++ toBytesBE 2 x.etype ++
  (x.labels.map (toBytesBE 4)).flatten ++ x.rest

/-- Tags at the start of bytes that begin with an EtherType: the tags, the EtherType and what follows. -/
def takeTags (c : PrsCfg) : Nat → List Nat → List (Nat × Nat) × Nat × List Nat
  | 0, b => ([], ofBytesBE (b.take 2), b.drop 2)
  | n + 1, b =>
    let t := ofBytesBE (b.take 2)
    if c.isTpid t && 6 ≤ b.length then
      let r := takeTags c n (b.drop 4)
      ((t, ofBytesBE ((b.drop 2).take 2)) :: r.1, r.2)
    else ([], t, b.drop 2)

/-- An Ethernet frame's bytes in parts, its labels left in `rest`. -/
def EgFrame.ofEth (c : PrsCfg) (b : List Nat) (base : Nat) : EgFrame :=
  let r := takeTags c 2 (b.drop 12)
  { dmac := ofBytesBE (b.take 6), smac := ofBytesBE ((b.drop 6).take 6), tags := r.1, etype := r.2.1, rest := r.2.2,
    base := base + b.length - r.2.2.length }

/-- The EtherType of what R137 recognises at the front of bytes; none when it recognises nothing (2: Ethernet after a control word). -/
def guessPayload (c : PrsCfg) (b : List Nat) : Option Nat :=
  let n := b.getD 0 0 / 16
  if b.isEmpty || !c.guess then none
  else if n == 4 then some 0x0800 else if n == 6 then some 0x86DD else if n == 0 && c.cwEth then some 2 else none

/-- Where labels stand at the front of `rest`, take `n` of them; the payload is known where R137 recognises it. -/
def EgFrame.takeLabels (c : PrsCfg) (x : EgFrame) (n : Nat) : EgFrame :=
  { x with
    labels := (List.range n).map (fun i => ofBytesBE ((x.rest.drop (4 * i)).take 4)), rest := x.rest.drop (4 * n), base := x.base + 4 * n
    under := (guessPayload c (x.rest.drop (4 * n))).getD 0 }

/-- The received frame in parts. -/
def EgFrame.ofWindow (c : PrsCfg) (p : Parsed) (b : List Nat) : EgFrame :=
  let x := { EgFrame.ofEth c b 0 with stop := p.f pStop }
  if p.hdr 2 && p.f pStackInner == 0 then x.takeLabels c (p.f pLabels) else x

/-- An Ethernet payload at an offset of `rest` becomes the frame (R182, R201). -/
def EgFrame.payload (c : PrsCfg) (x : EgFrame) (b : List Nat) (base : Nat) : EgFrame := { EgFrame.ofEth c b base with stop := x.stop }

/-- The frame after the tunnel header that a LIF-map hit terminated has been stripped (R182). -/
def EgFrame.strip (c : PrsCfg) (p : Parsed) (b : List Nat) (term : Nat) (x : EgFrame) : EgFrame :=
  if term != 0 && p.hdr 13 then x.payload c (b.drop (p.f oInL2)) (p.f oInL2)
  else if term == 2 then
    (if p.hdr 2 && p.f pStackInner == 1 then
      ({ x with etype := 0x8847, labels := [], rest := b.drop (p.f oMpls), base := p.f oMpls }).takeLabels c (p.f pLabels)
    else if p.f pInL3 != 0 then
      { x with etype := if p.f pInL3 == 4 then 0x0800 else 0x86DD, labels := [], rest := b.drop (p.f oInL3), base := p.f oInL3 }
    else x)
  else x

/-- The frame after the labels that the ingress half popped, and with `eth` the control word and outer Ethernet header, have been removed (R201). -/
def EgFrame.popped (c : PrsCfg) (n : Nat) (eth : Bool) (x : EgFrame) : EgFrame :=
  if n == 0 then x
  else
    let l := x.labels.drop n
    if !l.isEmpty then { x with labels := l }
    else if eth then x.payload c (x.rest.drop 4) (x.base + 4)
    else { x with labels := [], etype := match guessPayload c x.rest with | some t => (if t == 2 then x.etype else t) | none => x.etype }

/-- The first IP header of the frame, under its labels if it has any: its kind and its offset in `rest`.  A header at which the parse stopped is none (R138, R168). -/
def EgFrame.ip (x : EgFrame) : Option (Nat × Nat) :=
  let t := if x.labels.isEmpty then x.etype else x.under
  let n := x.rest.getD 0 0 / 16
  if x.stop != 0 && x.stop == x.base then none
  else if t == 0x0800 && n == 4 && 20 ≤ x.rest.length then some (4, 0)
  else if t == 0x86DD && n == 6 && 40 ≤ x.rest.length then some (6, 0)
  else none

/-- The offset in `rest` of a header that the parse found at an offset of the received frame, while it still lies in the frame. -/
def EgFrame.at (x : EgFrame) (o : Nat) : Option Nat := if o != 0 && x.base ≤ o && o - x.base < x.rest.length then some (o - x.base) else none

/-- The number of `n` bytes at an offset of `rest`. -/
def EgFrame.get (x : EgFrame) (o n : Nat) : Nat := ofBytesBE ((x.rest.drop o).take n)

/-- The protocol and offset of what follows IPv6 extension headers (R134, R136): at most four, next header 0 in the first position only; none after a fragment that is not the first. -/
def EgFrame.afterExt (x : EgFrame) : Nat → Bool → Nat → Nat → Option (Nat × Nat)
  | left, first, proto, q =>
    if proto == 44 then
      (match left with
       | n + 1 => if x.get (q + 2) 2 / 8 != 0 then none else x.afterExt n false (x.get q 1) (q + 8)
       | 0 => none)
    else if proto == 43 || proto == 60 || (proto == 0 && first) then
      (match left with
       | n + 1 => x.afterExt n false (x.get q 1) (q + 8 + 8 * x.get (q + 1) 1)
       | 0 => none)
    else some (proto, q)

/-- The protocol and L4 offset that an IP header of kind `k` at an offset of `rest` leads to, where the received parse did not reach that header (R167, R168). -/
def EgFrame.l4After (x : EgFrame) (k o : Nat) : Option (Nat × Nat) :=
  let r := if k == 4 then
      (if x.get (o + 6) 2 % 8192 != 0 || x.get o 1 % 16 < 5 then none else some (x.get (o + 9) 1, o + x.get o 1 % 16 * 4))
    else x.afterExt 4 true (x.get (o + 6) 1) (o + 40)
  r.filter (fun y => (y.1 == 6 && y.2 + 20 ≤ x.rest.length) || (y.1 == 17 && y.2 + 8 ≤ x.rest.length))

/-- The protocol and L4 offset in `rest` after the first IP header: 6 or 17 (R167); as the received parse found them, or as the header that the words have left first leads to
them (R168). -/
def EgFrame.l4 (p : Parsed) (x : EgFrame) : Option (Nat × Nat) :=
  let known (proto : Nat) (at_ : Option Nat) : Option (Nat × Nat) := if proto == 6 || proto == 17 then at_.map (fun q => (proto, q)) else none
  match x.ip with
  | none => none
  | some (k, o) =>
    if p.f pInL3 != 0 && x.at (p.f oInL3) == some o then known (p.f 0x44) (x.at (p.f oInL4))
    else if p.f pL3 != 0 && x.at (p.f oL3) == some o then known (p.f 0x32) (x.at (p.f oL4))
    else x.l4After k o

/-- The `n` bytes at an offset of `rest` replaced by a number. -/
def EgFrame.put (x : EgFrame) (o n v : Nat) : EgFrame := { x with rest := x.rest.take o ++ toBytesBE n v ++ x.rest.drop (o + n) }

/-- The ones' complement of a 16-bit number. -/
def not16 (n : Nat) : Nat := 65535 - n % 65536
/-- The ones' complement sum of two 16-bit numbers. -/
def add16 (a b : Nat) : Nat := let t := a % 65536 + b % 65536; t % 65536 + t / 65536

/-- An incremental checksum update (R172): `old` and `new` are equal numbers of 16-bit words as bytes. -/
def csumUpdate (sum : Nat) (old new : List Nat) : Nat :=
  not16 (add16 (add16 (not16 sum) (not16 (onesSum old))) (onesSum new))

/-- The checksum of the IPv4 header at an offset recomputed (R172). -/
def EgFrame.fixAt (x : EgFrame) (o : Nat) : EgFrame :=
  let y := x.put (o + 10) 2 0
  y.put (o + 10) 2 (not16 (onesSum ((y.rest.drop o).take (y.get o 1 % 16 * 4))))

/-- The first IP header's checksum recomputed where it is IPv4 (R172). -/
def EgFrame.fixIp (x : EgFrame) : EgFrame :=
  match x.ip with
  | some (4, o) => x.fixAt o
  | _ => x

/-- The TCP or UDP checksum updated for a change of bytes it covers (R172); an updated UDP checksum is never zero. -/
def EgFrame.fixL4 (p : Parsed) (upd keepZero : Bool) (x : EgFrame) (old new : List Nat) : EgFrame :=
  match x.l4 p with
  | some (proto, q) =>
    let o := q + (if proto == 6 then 16 else 6)
    let sum := x.get o 2
    let v4 := (x.ip).map Prod.fst == some 4
    if !upd || (proto == 17 && v4 && sum == 0 && keepZero) || x.rest.length < o + 2 then x
    else let v := csumUpdate sum old new; x.put o 2 (if proto == 17 && v == 0 then 65535 else v)
  | none => x

/-! ### The egress run -/

/-- What the egress lists have done so far. -/
structure EgRun where
  x : EgFrame := {}
  drop : Option Nat := none
  words : Nat := 0
  ops : List Nat := []
  mirrors : List Nat := []
  counts : List Nat := []
  errors : List (Nat × ActW) := []
  trace : List (Nat × Nat) := []
  /-- The bytes of a packet that was discarded before its rewriting, which a copy of it carries (R247). -/
  raw : Option (List Nat) := none
  deriving DecidableEq, Repr

/-- A word recorded as skipped. -/
def EgRun.skip (r : EgRun) (a : ActW) (outcome : Nat) : EgRun :=
  { r with errors := r.errors ++ [(0x20, a)], trace := r.trace ++ [a.traced outcome] }

/-- (old AND NOT MASK) OR (VALUE AND MASK) in a field of `n` bits (R167). -/
def masked (n old mask value : Nat) : Nat := ((old &&& (2 ^ n - 1 - mask % 2 ^ n)) ||| (value &&& mask)) % 2 ^ n

/-- Bits [hi:lo] of a number replaced. -/
def putBits (w hi lo v : Nat) : Nat := w - bits w hi lo * 2 ^ lo + v % 2 ^ (hi + 1 - lo) * 2 ^ lo

/-- Tag `i`'s TCI with bits [hi:lo] rewritten. -/
def EgFrame.setTag (x : EgFrame) (i hi lo mask value : Nat) : Option EgFrame :=
  match x.tags[i]? with
  | some t => some { x with tags := x.tags.set i (t.1, putBits t.2 hi lo (masked (hi + 1 - lo) (bits t.2 hi lo) mask value)) }
  | none => none

/-- The top label entry with bits [hi:lo] rewritten. -/
def EgFrame.setTop (x : EgFrame) (hi lo mask value : Nat) : Option EgFrame :=
  match x.labels with
  | e :: r => some { x with labels := putBits e hi lo (masked (hi + 1 - lo) (bits e hi lo) mask value) :: r }
  | [] => none

/-- SET_FIELD (R167); none when the field is absent. -/
def setFieldWord (p : Parsed) (upd keepZero : Bool) (x : EgFrame) (field mask value : Nat) : Option EgFrame :=
  let ip := x.ip
  let l4 := x.l4 p
  let port (q : Nat) : EgFrame :=
    let v := masked 16 (x.get q 2) mask value
    (x.fixL4 p upd keepZero (toBytesBE 2 (x.get q 2)) (toBytesBE 2 v)).put q 2 v
  if field == 0x01 then x.setTag 0 11 0 mask value
  else if field == 0x02 then x.setTag 0 15 13 mask value
  else if field == 0x03 then x.setTag 0 12 12 mask value
  else if field == 0x04 then x.setTag 1 11 0 mask value
  else if field == 0x05 then x.setTag 1 15 13 mask value
  else if field == 0x20 then x.setTop 11 9 mask value
  else if field == 0x21 then x.setTop 7 0 mask value
  else if field == 0x22 then x.setTop 31 12 mask value
  else if field == 0x18 then l4.map (fun q => port q.2)
  else if field == 0x19 then l4.map (fun q => port (q.2 + 2))
  else
    match ip with
    | some (4, o) =>
      if field == 0x10 then some (x.put (o + 1) 1 (putBits (x.get (o + 1) 1) 7 2 (masked 6 (x.get (o + 1) 1 / 4) mask value)))
      else if field == 0x11 then some (x.put (o + 1) 1 (putBits (x.get (o + 1) 1) 1 0 (masked 2 (x.get (o + 1) 1 % 4) mask value)))
      else if field == 0x12 then some (x.put (o + 8) 1 (masked 8 (x.get (o + 8) 1) mask value))
      else if field == 0x14 || field == 0x15 then
        let a := o + (if field == 0x14 then 12 else 16)
        let v := masked 32 (x.get a 4) mask value
        some ((x.fixL4 p upd keepZero (toBytesBE 4 (x.get a 4)) (toBytesBE 4 v)).put a 4 v)
      else none
    | some (6, o) =>
      let w := x.get o 4
      if field == 0x10 then some (x.put o 4 (putBits w 27 22 (masked 6 (bits w 27 22) mask value)))
      else if field == 0x11 then some (x.put o 4 (putBits w 21 20 (masked 2 (bits w 21 20) mask value)))
      else if field == 0x12 then some (x.put (o + 7) 1 (masked 8 (x.get (o + 7) 1) mask value))
      else if field == 0x13 then some (x.put o 4 (putBits w 19 0 (masked 20 (bits w 19 0) mask value)))
      else none
    | _ => none

/-- The TTL byte that an egress DEC_TTL targets: in the top label, or at an offset of `rest` (R165, R170). -/
def EgFrame.ttlOf (p : Parsed) (x : EgFrame) (target : Nat) : Option (Option Nat × Nat) :=
  if target == 1 then (match x.labels with | e :: _ => some (none, e % 256) | [] => none)
  else if target == 0 then
    (match x.ip with
     | some (k, o) => let q := if k == 4 then o + 8 else o + 7; some (some q, x.get q 1)
     | none => none)
  else if target == 2 then
    (match x.at (p.f oInL3) with
     | some o => if some o == (x.ip).map Prod.snd then none else let q := if p.f pInL3 == 4 then o + 8 else o + 7; some (some q, x.get q 1)
     | none => none)
  else none

/-- The inner IPv4 header's checksum recomputed after its TTL changed. -/
def EgFrame.fixInner (p : Parsed) (x : EgFrame) : EgFrame :=
  match x.at (p.f oInL3) with
  | some o =>
    if p.f pInL3 == 4 && 20 ≤ x.rest.length - o then x.fixAt o else x
  | none => x

/-- The TTL that PUSH_MPLS takes (R699). -/
def EgFrame.pushTtl (x : EgFrame) (copy : Bool) (operand : Nat) : Nat :=
  if !copy then operand
  else
    match x.labels with
    | e :: _ => e % 256
    | [] =>
      match x.ip with
      | some (k, o) => x.get (if k == 4 then o + 8 else o + 7) 1
      | none => operand

/-- POP_MPLS (R165, R699); none when it is skipped.  The spec does not say whether NEXT is tested while labels remain; DESIGN CHOICE (log entry 93): it is not. -/
def popMpls (c : PrsCfg) (x : EgFrame) (next count : Nat) : Option EgFrame :=
  if count == 0 || x.labels.length < count then none
  else
    let l := x.labels.drop count
    let n := x.rest.getD 0 0 / 16
    let eth (cw : Nat) : Option EgFrame := if x.rest.length < cw + 14 then none else some (x.payload c (x.rest.drop cw) (x.base + cw))
    if !l.isEmpty then some { x with labels := l }
    else if next == 0 then
      (match guessPayload c x.rest with
       | some t => if t == 2 then eth 4 else some { x with labels := [], etype := t }
       | none => none)
    else if next == 1 then (if n == 4 then some { x with labels := [], etype := 0x0800 } else none)
    else if next == 2 then (if n == 6 then some { x with labels := [], etype := 0x86DD } else none)
    else if next == 3 then (if n == 0 then eth 4 else none)
    else if next == 4 then eth 0
    else none

/-- Egress options: the parser's configuration and parse, and the checksum and tag settings. -/
structure EgCtx where
  c : PrsCfg
  p : Parsed
  upd : Bool
  keepZero : Bool
  custom : Nat
  deriving DecidableEq, Repr

/-- One egress word that is in its half and within its limits. -/
def egWord (g : EgCtx) (r : EgRun) (a : ActW) : EgRun :=
  let w := a.word
  let op := opcode w
  let x := r.x
  let did (y : EgFrame) : EgRun := { r with x := y, trace := r.trace ++ [a.traced 0] }
  let try_ (y : Option EgFrame) : EgRun := match y with | some y => did y | none => r.skip a 1
  if op == 0x09 then { r with counts := r.counts ++ [bits w 21 0], trace := r.trace ++ [a.traced 0] }
  else if op == 0x0B then { r with mirrors := r.mirrors ++ [bits w 5 0], trace := r.trace ++ [a.traced 0] }
  else if r.drop.isSome then { r with trace := r.trace ++ [a.traced 3] }
  else if op == 0x01 then
    (match setFieldWord g.p g.upd g.keepZero x (bits w 119 112) (bits w 63 32) (bits w 31 0) with
     | some y => did y
     | none => { r with trace := r.trace ++ [a.traced 1] })
  else if op == 0x02 then did (if bits w 112 112 == 0 then { x with dmac := bits w 47 0 } else { x with smac := bits w 47 0 })
  else if op == 0x03 then
    did { x with tags := ((if bits w 113 112 == 0 then 0x8100 else if bits w 113 112 == 1 then 0x88A8 else g.custom), bits w 15 0) :: x.tags }
  else if op == 0x04 then try_ (if x.tags.length < bits w 113 112 then none else some { x with tags := x.tags.drop (bits w 113 112) })
  else if op == 0x05 then
    try_ (if x.labels.isEmpty && x.etype < 0x600 then none
      else some { x with
        etype := 0x8847
        under := if x.labels.isEmpty then x.etype else x.under
        labels := (bits w 31 12 * 4096 + bits w 11 9 * 512 + b2n x.labels.isEmpty * 256 + x.pushTtl (bits w 112 112 == 1) (bits w 7 0)) :: x.labels })
  else if op == 0x06 then try_ (popMpls g.c x (bits w 119 116) (bits w 115 112))
  else if op == 0x07 then
    try_ (match x.labels with
      | e :: l => some { x with labels := (bits w 31 12 * 4096 + (if bits w 113 113 == 1 then bits e 11 9 else bits w 11 9) * 512 + e % 512) :: l }
      | [] => none)
  else if op == 0x08 then
    (match x.ttlOf g.p (bits w 113 112) with
     | none => r.skip a 1
     | some (q, t) =>
       if t ≤ 1 then { did x with drop := some (bits w 7 0) }
       else
         match q with
         | none => did { x with labels := x.labels.modifyHead (· - 1) }
         | some o => did (let y := x.put o 1 (t - 1); if bits w 113 112 == 2 then y.fixInner g.p else y))
  else if op == 0x0D then { did x with drop := some (bits w 7 0) }
  else did x

/-- The words of an egress half in order, under the limits of R171. -/
def egWords (g : EgCtx) : List ActW → EgRun → EgRun
  | [], r => r
  | a :: rest, r =>
    let op := opcode a.word
    if 32 ≤ r.words then { r with drop := some (r.drop.getD 0x90), errors := r.errors ++ [(0x21, a)] }
    else
      let r := { r with words := r.words + 1 }
      egWords g rest (
        if !opEgress op then r.skip a 2
        else if wordLimit op ≤ (r.ops.filter (· == op)).length then r.skip a 1
        else egWord g { r with ops := r.ops ++ [op] } a)

/-- The first IPv4 or IPv6 header that the parse finds, also behind labels and a control word (R297): its kind and its offset in `rest`. -/
def EgFrame.firstIp (p : Parsed) (x : EgFrame) : Option (Nat × Nat) :=
  match x.ip with
  | some y => some y
  | none => if p.f oCw != 0 && p.f pInL3 != 0 then (x.at (p.f oInL3)).map (fun o => (p.f pInL3, o)) else none

/-- A frame with that header marked CE where its ECN reads 01 or 10 (R297), an IPv4 header's checksum recomputed. -/
def EgFrame.markCe (p : Parsed) (x : EgFrame) : EgFrame :=
  match x.firstIp p with
  | some (4, o) => let b := x.get (o + 1) 1; if b % 4 == 1 || b % 4 == 2 then (x.put (o + 1) 1 (b / 4 * 4 + 3)).fixAt o else x
  | some (6, o) => let w := x.get o 4; let e := bits w 21 20; if e == 1 || e == 2 then x.put o 4 (putBits w 21 20 3) else x
  | _ => x

end Sys2Proof.Machine
end

