-- ==== Sys2Proof/Machine/Ports.lean ====
section
/-!
DEFINITION. The network ports: configuration checks, bring-up, pause (spec/03_ports_and_framing.md R81 to R100) and the optics cages
(spec/15_start_up.md R530 to R535).
-/
namespace Sys2Proof.Machine

/-! ### FlexE membership (R101, R102, R125) -/

/-- The ports of a group's valid members, with their member numbers (R101). -/
def State.flxMembers (s : State) (g : Nat) : List (Nat × Nat) :=
  ((List.range 8).filter (fun k => s.on (FLX_MEMBER.VALID g k))).map (fun k => (k, s.cfg (FLX_MEMBER.PORT g k)))

/-- Whether a group carries overhead and clients: it holds ports, its check having passed (R102). -/
def State.flxCarries (s : State) (g : Nat) : Bool := (List.range 48).any (fun p => s.flxHeldAt p == some g)

/-- Whether a group's clients fail as a whole: its check failed, a member port or instance has a defect of levels 1 to 4, or the group has
one of levels 5 and 6 (R102, R125). -/
def State.groupFailed (s : State) (g : Nat) : Bool :=
  s.cfg (FLX_GROUP_CFG.EN g) == 1 && (
    s.rd (FLX_STAT.CFG_ERR g) == 1 || s.rd (FLX_STAT.GSE g) == 1 || s.rd (FLX_STAT.CALM g) == 1 ||
    (s.flxMembers g).any (fun m => s.rd (PORT_STAT.LOS m.2) == 1 || s.rd (PORT_STAT.LOL m.2) == 1 || s.rd (PORT_STAT.HI_BER m.2) == 1 ||
      !bitOf (s.rd (FLX_STAT.OF_LOCK g)) m.1 || !bitOf (s.rd (FLX_STAT.MF_LOCK g)) m.1))

/-- Whether a client has a defect of its own or its group has failed it. -/
def State.clientDown (s : State) (g i : Nat) : Bool :=
  s.rd (FLX_CL_STAT.FAILED g i) == 1 || fieldOf (s.reg (64 + g) (0x1000 + 4 * i)) 4 0 != 0

/-- The slot counts of the client rates that a MAC terminates: 10, 25, 50, 100, 200 and 400 Gb/s (R105). -/
def macSlots : List Nat := [2, 5, 10, 20, 40, 80]

/-- Whether a port's MAC has something to serve: any port outside FlexE; of a member port only the MAC of a terminated client that has not failed (R101, R105, R126); no
port that an enabled group names without having passed its check (R102). -/
def State.macServes (s : State) (p : Nat) : Bool :=
  match s.flxHeldAt p with
  | some g =>
    (match s.boundClient g p with
     | some i => !s.groupFailed g && !s.clientDown g i && macSlots.contains (s.calSlots g (s.rd (FLX_CAL_CTRL.TX_C g)) i)
     | none => false)
  | none => (List.range 24).all (fun g => !(s.cfg (FLX_GROUP_CFG.EN g) == 1 && (s.flxMembers g).any (fun m => m.2 == p)))

/-- What a port transmits in place of its MAC's frames: 1 local fault, a member of a group whose check failed (R102); 2 remote fault, a MAC that sees local fault because
its port has a defect of level 1 or 2 or receives local fault, or because its client failed (R126); else 0. -/
def State.macFault (s : State) (p : Nat) : Nat :=
  let line := s.rd (PORT_STAT.LOS p) == 1 || s.rd (PORT_STAT.LOL p) == 1 || s.rd (PORT_STAT.HI_BER p) == 1 || s.rd (PORT_STAT.LF p) == 1
  match s.flxHeldAt p with
  | some g => (match s.boundClient g p with | some i => if s.groupFailed g || s.clientDown g i then 2 else 0 | none => 0)
  | none => if !s.macServes p then 1 else if line then 2 else 0

/-! ### Configuration and link -/

/-- Whether a byte of four 2-bit selections is a permutation. -/
def isPerm4 (b : Nat) : Bool := (List.range 4).all (fun v => (List.range 4).any (fun i => b / 4 ^ i % 4 == v))

/-- Whether a port's committed configuration is permitted (R82, R83, R88, R90). -/
def State.portCfgOk (s : State) (p : Nat) : Bool :=
  let m := s.cfg (PORT_MODE.MODE p)
  let training := s.on (PORT_MODE.AN_EN p) || s.on (PORT_MODE.LT_EN p)
  let mx := s.cfg (PORT_MAC_CFG.MAX_FRAME p)
  m < 13 && fecPermitted m (s.cfg (PORT_MODE.FEC p)) && (!training || (s.cageXAt p).copper) &&
  isPerm4 (s.cfg (PORT_LANE_MAP.RX_SEL p)) && isPerm4 (s.cfg (PORT_LANE_MAP.TX_SEL p)) && 64 ≤ mx && mx ≤ 10240

/-- Whether a module of the port's cage carries the lanes: ready, or driven by software (R97 to R99). -/
def State.cageReady (s : State) (p : Nat) : Bool := s.rd (PORT_CAGE_STAT.STATE p) == 2 || s.rd (PORT_CAGE_CTRL.MANUAL p) == 1

/-- Whether a port's MAC may pass frames: enabled, configured, module ready, negotiated and trained as configured, without a defect, not
in test, its MAC serving a port or a client, not in the safe state (R83, R86, R87, R101, R102, R105, R123, R126, R587). -/
def State.portShouldUp (s : State) (p : Nat) : Bool :=
  s.blkUpAt (16 + p) && s.rd (BLK_CTRL.ENABLE (16 + p)) == 1 && s.cfg (PORT_MODE.MODE p) != 0 && s.rd (PORT_STAT.CFG_ERR p) == 0 &&
  s.cageReady p && (!s.on (PORT_MODE.AN_EN p) || s.rd (PORT_STAT.AN_DONE p) == 1) &&
  (!s.on (PORT_MODE.LT_EN p) || s.rd (PORT_STAT.LT_DONE p) == 1) && s.cfg (PORT_TEST.PRBS p) == 0 &&
  s.rd (PORT_STAT.LOS p) == 0 && s.rd (PORT_STAT.LOL p) == 0 && s.rd (PORT_STAT.HI_BER p) == 0 &&
  s.rd (PORT_STAT.LF p) == 0 && s.rd (PORT_STAT.RF p) == 0 && s.macServes p && !s.fatalLatch &&
  (!(s.on (PORT_MODE.AN_EN p) || s.on (PORT_MODE.LT_EN p)) || (s.cageXAt p).copper)

/-- Whether a port's link is up: it stays up while it may be, and comes up again once no commit of its page is pending (R85; log entry 80). -/
def State.portUpNow (s : State) (p : Nat) : Bool :=
  s.portShouldUp p && (s.rd (PORT_STAT.LINK_UP p) == 1 || s.rd (BLK_COMMIT_STAT.PENDING (16 + p)) == 0)

/-! ### Pause (R92 to R94) -/

/-- PFC_PAUSED bits 7:0 show the classes the partner pauses, bits 15:8 those whose XOFF is being sent. -/
def showPaused (p : Nat) : Prog := .look fun s =>
  let mask := (List.range 8).foldl (fun a t => a + (if (s.pauseUntilAt (8 * p + t)).isSome then 2 ^ t else 0)) 0
  setF (PORT_STAT.PFC_PAUSED p) (mask + (s.xoffAt p &&& s.cfg (PORT_PAUSE_CFG.TX_EN p)) * 256)

/-- A PAUSE or PFC frame leaves the MAC, counted (R93). -/
def pauseOut (p : Nat) (x : Nat × Nat) : Prog := .look fun s =>
  if s.cfg (PORT_MAC_CFG.PAUSE_MODE p) == 2 then .andThen
    (emit (.frame p (asBytes (pfcFrame x.1 x.2)) false))
    (each (List.range 8) (fun t => onlyIf (bitOf x.1 t) (count 0 (128 * p + 40 + t) 1)))
  else .andThen (emit (.frame p (asBytes (linkPauseFrame x.2)) false)) (count 0 (128 * p + 55) 1)

/-- The pause frames that waited for the frame boundary go out, ahead of every queued frame (R94). -/
def pauseFlush (p : Nat) : Prog := .look fun s => .andThen (.put (.pauseQ p [])) (each (s.pauseQAt p) (pauseOut p))

/-- The MAC sends the pause frame that the port's XOFF classes call for (R93), at the next frame boundary (R94): PFC for the classes of `mask`, or PAUSE. -/
def pauseSend (p mask time : Nat) : Prog := .look fun s =>
  let m := mask &&& s.cfg (PORT_PAUSE_CFG.TX_EN p)
  let mode := s.cfg (PORT_MAC_CFG.PAUSE_MODE p)
  onlyIf (m != 0 && s.rd (PORT_STAT.LINK_UP p) == 1 && (mode == 1 || mode == 2)) (seqs [
    (if (s.txNowAt p).isSome then .put (.pauseQ p (s.pauseQAt p ++ [(m, time)])) else pauseOut p (m, time)),
    .put (.pauseSentAt p (if time == 0 then s.pauseSentAtAt p else some s.mono))])

/-- A port whose pausing has just become possible or been switched on sends at once for the classes that stand in XOFF (R93); without any, nothing is refreshed. -/
def pauseRefresh (p : Nat) : Prog := .look fun s =>
  let m := s.xoffAt p &&& s.cfg (PORT_PAUSE_CFG.TX_EN p)
  .andThen
    (if m == 0 then .put (.pauseSentAt p none)
     else onlyIf (s.pauseSentAtAt p).isNone (pauseSend p m (s.cfg (PORT_PAUSE_CFG.QUANTA p))))
    (showPaused p)

/-- LINK_UP and FEC_LOCK follow the port's state, and with them what the port transmits in place of frames; a change of LINK_UP sets BLOCK_INT bit 21 (R126).  A frame in
reception when the link goes down is cut (R236); a link that comes up sends the pauses that stand (R93). -/
def linkRefresh (p : Nat) : Prog := .look fun s =>
  let up := s.portUpNow p
  let was := s.rd (PORT_STAT.LINK_UP p) == 1
  let fault := s.macFault p
  let old := s.macSignalAt p
  seqs [
    setF (PORT_STAT.FEC_LOCK p) (b2n (up && s.cfg (PORT_MODE.FEC p) != 0)),
    onlyIf (up != was) (.andThen (setF (PORT_STAT.LINK_UP p) (b2n up)) (raise (16 + p) 21)),
    onlyIf (was && !up) (.andThen (onlyIf (s.rxNowAt p).isSome (.put (.rxCut p true))) (.put (.pauseSentAt p none))),
    onlyIf (fault != old) (seqs [
      .put (.macSignal p fault),
      onlyIf (old == 1 || fault == 1) (emit (.signal 8 p (fault == 1))),
      onlyIf (old == 2 || fault == 2) (emit (.signal 4 p (fault == 2)))]),
    onlyIf (up && !was) (pauseRefresh p)]

/-! ### Bring-up (R86, R87) -/

/-- The training protocol of a mode's lane rate (R87): 0 Clause 72 or 92, 1 Clause 136, 2 Clause 162, 3 IEEE 802.3dj. -/
def trainProtocol (m : Nat) : Nat := [0, 0, 0, 1, 0, 1, 2, 1, 2, 3, 2, 3, 3][m]?.getD 0

/-- A port begins what its configuration asks for before data (R86, R87): auto-negotiation with its single ability, then, or at once with AN_EN 0, training. -/
def bringUp (p : Nat) : Prog := .look fun s =>
  let m := s.cfg (PORT_MODE.MODE p)
  onlyIf (m != 0 && s.rd (PORT_STAT.CFG_ERR p) == 0 && s.cageReady p && (s.cageXAt p).copper) (
    if s.on (PORT_MODE.AN_EN p) && s.rd (PORT_STAT.AN_DONE p) == 0 then emit (.bringUp p false m (s.cfg (PORT_MODE.FEC p)))
    else onlyIf (s.on (PORT_MODE.LT_EN p) && s.rd (PORT_STAT.LT_DONE p) == 0) (emit (.bringUp p true (trainProtocol m) 0)))

/-- AUTONEG_DONE (R86): `partner` has bit m when the partner advertises the technology ability of mode m; negotiation resolves on the single ability that the port
advertises, or not at all.  Training follows negotiation (R87). -/
def execAutonegDone (port partner : Nat) (s : State) : Host.Outcome State Fault Refusal :=
  command (.autonegDone port partner) (.look fun s =>
    onlyIf (s.on (PORT_MODE.AN_EN port) && s.rd (PORT_STAT.CFG_ERR port) == 0 && s.cfg (PORT_MODE.MODE port) != 0)
      (seqs [setF (PORT_STAT.AN_DONE port) (b2n (bitOf partner (s.cfg (PORT_MODE.MODE port)))), setF (PORT_STAT.LT_DONE port) 0, bringUp port, linkRefresh port])) s

/-- LINK_TRAINING_DONE (R87): after negotiation, or directly after a commit with AN_EN 0. -/
def execLinkTrainingDone (port : Nat) (s : State) : Host.Outcome State Fault Refusal :=
  command (.linkTrainingDone port) (.look fun s =>
    onlyIf (s.on (PORT_MODE.LT_EN port) && (!s.on (PORT_MODE.AN_EN port) || s.rd (PORT_STAT.AN_DONE port) == 1) &&
        s.rd (PORT_STAT.CFG_ERR port) == 0 && s.cfg (PORT_MODE.MODE port) != 0)
      (.andThen (setF (PORT_STAT.LT_DONE port) 1) (linkRefresh port))) s

/-- LINK_TRAINING_TIMEOUT (R87): training that has not completed in the clause's maximum wait time starts again, and no data is sent until it completes. -/
def execLinkTrainingTimeout (port : Nat) (s : State) : Host.Outcome State Fault Refusal :=
  command (.linkTrainingTimeout port) (.look fun s =>
    onlyIf (s.on (PORT_MODE.LT_EN port) && s.rd (PORT_STAT.LT_DONE port) == 0) (bringUp port)) s

/-! ### Pause frames received (R91, R92) -/

/-- A received pause of a class: a time of 0 ends it (R92).  DESIGN CHOICE (log entry 72): link PAUSE, which pauses all eight classes "in the same way", also pauses only
the classes whose RX_EN bit is 1. -/
def pauseClass (p t time : Nat) : Prog := .look fun s =>
  onlyIf (bitOf (s.cfg (PORT_PAUSE_CFG.RX_EN p)) t)
    (.put (.pauseUntil (8 * p + t) (if time == 0 then none else some (s.mono + s.bitTimes p (time * 512)))))

/-- What the MAC does with a PAUSE or PFC frame (R91, R92): counted, and acted on as PAUSE_MODE says. -/
def pauseReceived (p : Nat) (f : List Nat) : Prog := .look fun s =>
  let mode := s.cfg (PORT_MAC_CFG.PAUSE_MODE p)
  let time (i : Nat) : Nat := ofBytesBE ((f.drop (18 + 2 * i)).take 2)
  let en := f.getD 17 0
  if (f.drop 14).take 2 == [0, 1] then seqs [
    count 0 (128 * p + 54) 1,
    onlyIf (mode == 1) (each (List.range 8) (fun t => pauseClass p t (ofBytesBE ((f.drop 16).take 2)))),
    showPaused p]
  else seqs [
    each (List.range 8) (fun t => onlyIf (bitOf en t) (count 0 (128 * p + 32 + t) 1)),
    onlyIf (mode == 2) (each (List.range 8) (fun t => onlyIf (bitOf en t) (pauseClass p t (time t)))),
    showPaused p]

/-- PFC_FRAME_RECEIVE (R89, R91, R92): a PAUSE or PFC frame with a good FCS at an UP port. -/
def execPfcFrameReceive (port : Nat) (frame : List Byte) (s : State) : Host.Outcome State Fault Refusal :=
  command (.pfcFrameReceive port frame) (.look fun s =>
    let f := frame.map BitVec.toNat
    onlyIf (s.rd (PORT_STAT.LINK_UP port) == 1 && isPauseFrame f) (
      if f.length < 64 then count 0 (128 * port + 5) 1
      else if !fcsOk f then count 0 (128 * port + 6) 1
      else pauseReceived port f)) s

/-- PFC_PAUSE_EXPIRE (R92). -/
def execPfcPauseExpire (port tc : Nat) (s : State) : Host.Outcome State Fault Refusal :=
  command (.pfcPauseExpire port tc) (.look fun s =>
    match s.pauseUntilAt (8 * port + tc) with
    | some e => onlyIf (e ≤ s.mono) (.andThen (.put (.pauseUntil (8 * port + tc) none)) (showPaused port))
    | none => .skip) s

/-- The XOFF classes of a port change (R93, R264): a class that enters XOFF is paused, one that leaves gets a frame of time 0 (for PAUSE, only
when no class is left in XOFF). -/
def setXoff (p mask : Nat) : Prog := .look fun s =>
  let old := s.xoffAt p
  let te := s.cfg (PORT_PAUSE_CFG.TX_EN p)
  let gone := old &&& (255 - mask % 256)
  onlyIf (old != mask) (seqs [
    .put (.xoff p mask),
    onlyIf (mask &&& (255 - old % 256) != 0) (pauseSend p mask (s.cfg (PORT_PAUSE_CFG.QUANTA p))),
    onlyIf (gone != 0 && (s.cfg (PORT_MAC_CFG.PAUSE_MODE p) == 2 || mask &&& te == 0)) (pauseSend p gone 0),
    onlyIf (mask &&& te == 0) (.put (.pauseSentAt p none)),
    showPaused p])

/-- PFC_REFRESH (R93): while XOFF holds the pause frame is repeated every QUANTA * 256 bit times. -/
def execPfcRefresh (port : Nat) (s : State) : Host.Outcome State Fault Refusal :=
  command (.pfcRefresh port) (.look fun s =>
    match s.pauseSentAtAt port with
    | some t => onlyIf (s.xoffAt port != 0 && s.since t (s.bitTimes port (s.cfg (PORT_PAUSE_CFG.QUANTA port) * 256)))
        (pauseSend port (s.xoffAt port) (s.cfg (PORT_PAUSE_CFG.QUANTA port)))
    | none => .skip) s

/-! ### Cages (R96 to R100, R530 to R535) -/

/-- The sideband pins of a cage. -/
def cagePins (p : Nat) (resetN lpmode : Bool) : Prog :=
  .andThen (emit (.pin ("MOD_RESET_N" ++ toString p) resetN)) (emit (.pin ("MOD_LPMODE" ++ toString p) lpmode))

/-- A cage takes a step of R532 now. -/
def cageStep (p step : Nat) : Prog := .look fun s => .put (.cageX p { s.cageXAt p with step := step, stepAt := s.mono, nacks := 0 })

/-- STATE of a cage, with BLOCK_INT bit 24 for a refusal or an error. -/
def cageState (p st : Nat) : Prog :=
  .andThen (setF (PORT_CAGE_STAT.STATE p) st) (onlyIf (st == 3 || st == 4 || st == 5) (raise (16 + p) 24))

/-- MODULE_INSERT (R532 step 2, R530): recognised after 100 ms; before the PORT page is enabled the module waits in reset; under MANUAL
the pins stay as PORT_CAGE_CTRL drives them (R99), and the device only reads the module (R96), step 8. -/
def execModuleInsert (port : Nat) (s : State) : Host.Outcome State Fault Refusal :=
  command (.moduleInsert port) (.look fun s =>
    onlyIf (s.rd (PORT_CAGE_STAT.PRESENT port) == 0) (seqs [
      setF (PORT_CAGE_STAT.PRESENT port) 1,
      cageState port (if s.rd (PORT_CAGE_CTRL.MANUAL port) == 1 then 6 else 1),
      (if s.rd (PORT_CAGE_CTRL.MANUAL port) == 1 then cagePins port (s.rd (PORT_CAGE_CTRL.RESET port) == 0) (s.rd (PORT_CAGE_CTRL.LPMODE port) == 1)
       else cagePins port false true),
      cageStep port (if !s.blkUpAt (16 + port) then 0 else if s.rd (PORT_CAGE_CTRL.MANUAL port) == 0 then 2 else 8),
      onlyIf (s.blkUpAt (16 + port)) (raise (16 + port) 22)])) s

/-- MODULE_RESET_RELEASE (R532 step 3): 10 ms after insertion is recognised. -/
def execModuleResetRelease (port : Nat) (s : State) : Host.Outcome State Fault Refusal :=
  command (.moduleResetRelease port) (.look fun s =>
    onlyIf ((s.cageXAt port).step == 2 && s.since (s.cageXAt port).stepAt 10000000)
      (.andThen (cagePins port true true) (cageStep port 3))) s

/-- A cage meets an error (R533): STATE read error, MOD_LPMODE high. -/
def cageError (p : Nat) : Prog := seqs [cageState p 5, cageStep p 0, cagePins p true true]

/-- A two-wire transaction that the module did not acknowledge: the third in a row is an error (R533); a module that software drives is then not read further, until
PORT_CAGE_CTRL is written again. -/
def cageNack (p : Nat) : Prog := .look fun s =>
  let n := (s.cageXAt p).nacks + 1
  .andThen (.put (.cageX p { s.cageXAt p with nacks := n })) (onlyIf (3 ≤ n) (if (s.cageXAt p).step == 8 then cageStep p 0 else cageError p))

/-- The power-class check (R97, R532 step 5). -/
def cagePower (p : Nat) : Prog := .look fun s =>
  if s.rd (PORT_CAGE_CTRL.PWR_MAX p) + 1 < s.rd (PORT_CAGE_STAT.PWR_CLASS p) then .andThen (cageState p 3) (cageStep p 0)
  else seqs [cageState p 7, emit (.pin ("MOD_LPMODE" ++ toString p) false), cageStep p 5]

/-- The media type of a module decides whether AN_EN and LT_EN are permitted (R88): a module that makes the committed configuration a configuration error takes the port down
until a commit gives a permitted one (R83). -/
def mediaCheck (p : Nat) : Prog := .look fun s =>
  onlyIf (!s.portCfgOk p && s.rd (PORT_STAT.CFG_ERR p) == 0) (seqs [
    setF (PORT_STAT.CFG_ERR p) 1,
    raise (16 + p) 27,
    setF (PORT_STAT.AN_DONE p) 0,
    setF (PORT_STAT.LT_DONE p) 0,
    linkRefresh p])

/-- MODULE_POLL (R96, R99, R532 step 4): the module's answer; once a CMIS module of revision 4.0 or 5.x reports ModuleLowPwr its pages are read
and its power class is checked.  Another module shows only its identifier, and its media type is not copper (R88).  A CMIS module that software drives is read as well, whatever
its power mode, and nothing follows but the check of its media type. -/
def execModulePoll (port : Nat) (ack lowPwr : Bool) (ident rev pwrClass : Nat) (copper : Bool) (apps : List Nat) (dpMs : Nat) (s : State) :
    Host.Outcome State Fault Refusal :=
  command (.modulePoll port ack lowPwr ident rev pwrClass copper apps dpMs) (.look fun s =>
    let manual := (s.cageXAt port).step == 8
    let cmis := decide (0x40 ≤ rev) && decide (rev ≤ 0x5F)
    onlyIf ((s.cageXAt port).step == 3 || manual) (
      if !ack then cageNack port
      else seqs [.put (.cageX port { s.cageXAt port with nacks := 0 }), setF (PORT_CAGE_STAT.IDENT port) ident, emit (.moduleRead port 0 0 4),
        onlyIf (!cmis) (.andThen (mediaCheck port) (onlyIf manual (cageStep port 0))), (
        onlyIf (cmis && (lowPwr || manual)) (seqs [
          setF (PORT_CAGE_STAT.CMIS_REV port) rev,
          setF (PORT_CAGE_STAT.PWR_CLASS port) pwrClass,
          emit (.moduleRead port 0 0 128),
          emit (.moduleRead port 0 128 128),
          emit (.moduleRead port 1 128 128),
          .put (.cageX port { s.cageXAt port with nacks := 0, copper := copper, apps := apps, dpMs := dpMs }),
          mediaCheck port,
          (if manual then seqs [cageStep port 0, bringUp port, linkRefresh port] else cagePower port)]))])) s

/-- The position of the first element that satisfies a test. -/
def indexWhere {α : Type} (q : α → Bool) : List α → Nat → Option Nat
  | [], _ => none
  | a :: r, k => if q a then some k else indexWhere q r (k + 1)

/-- MODULE_READY (R98, R532 step 6): the first application whose host interface is the committed mode with its lane count is written through
Staged Control Set 0 and applied; with none STATE reads NO_APPLICATION.  DESIGN CHOICE (log entry 73): a MODE committed after the module is ready does not make the
device select again. -/
def execModuleReady (port : Nat) (ack : Bool) (s : State) : Host.Outcome State Fault Refusal :=
  command (.moduleReady port ack) (.look fun s =>
    let m := s.cfg (PORT_MODE.MODE port)
    onlyIf ((s.cageXAt port).step == 5) (
      if !ack then cageNack port
      else match indexWhere (fun a => a == 16 * m + modeLanes m) (s.cageXAt port).apps 0 with
        | some k => seqs [
            setF (PORT_CAGE_STAT.APPSEL port) (k + 1),
            each (List.range (modeLanes m)) (fun l => emit (.twoWire port true 0x10 0 (145 + l) ((k + 1) * 16))),
            emit (.twoWire port true 0x10 0 143 (2 ^ modeLanes m - 1)),
            cageStep port 6]
        | none => .andThen (cageState port 4) (cageStep port 0))) s

/-- MODULE_DATAPATH_ACTIVATED (R532 step 7): STATE ready, and the port begins link bring-up. -/
def execModuleDatapathActivated (port : Nat) (s : State) : Host.Outcome State Fault Refusal :=
  command (.moduleDatapathActivated port) (.look fun s =>
    onlyIf ((s.cageXAt port).step == 6) (seqs [cageState port 2, cageStep port 7, bringUp port, linkRefresh port])) s

/-- MODULE_STEP_TIMEOUT (R533): step 4 after 3 s of polling, step 6 after 5 s, step 7 after the module's data-path time, at most 60 s. -/
def execModuleStepTimeout (port : Nat) (s : State) : Host.Outcome State Fault Refusal :=
  command (.moduleStepTimeout port) (.look fun s =>
    let x := s.cageXAt port
    onlyIf ((x.step == 3 && s.since x.stepAt 3000000000) || (x.step == 5 && s.since x.stepAt 5000000000) ||
        (x.step == 6 && s.since x.stepAt (min 60000 x.dpMs * 1000000)))
      (cageError port)) s

/-- MODULE_REMOVE (R535): removal ends any access in progress with ERR; the port configuration is kept. -/
def execModuleRemove (port : Nat) (s : State) : Host.Outcome State Fault Refusal :=
  command (.moduleRemove port) (.look fun s =>
    onlyIf (s.rd (PORT_CAGE_STAT.PRESENT port) == 1) (seqs [
      setReg (16 + port) 0x234 0,
      .put (.cageX port {}),
      cagePins port false true,
      onlyIf (s.rd (PORT_MOD_CMD.BUSY port) == 1) (.andThen (setF (PORT_MOD_CMD.BUSY port) 0) (setF (PORT_MOD_CMD.ERR port) 1)),
      onlyIf (s.blkUpAt (16 + port)) (raise (16 + port) 22),
      setF (PORT_STAT.AN_DONE port) 0,
      setF (PORT_STAT.LT_DONE port) 0,
      linkRefresh port])) s

/-- MODULE_INTERRUPT: INT follows MOD_INT_N (PORT_CAGE_STAT.INT), with BLOCK_INT bit 23. -/
def execModuleInterrupt (port : Nat) (asserted : Bool) (s : State) : Host.Outcome State Fault Refusal :=
  command (.moduleInterrupt port asserted) (.look fun s =>
    onlyIf (s.rd (PORT_CAGE_STAT.PRESENT port) == 1 && s.rd (PORT_CAGE_STAT.INT port) != b2n asserted)
      (.andThen (setF (PORT_CAGE_STAT.INT port) (b2n asserted)) (raise (16 + port) 23))) s

/-- A write of PORT_CAGE_CTRL has taken effect (R99, R533, R534): MANUAL hands the module to software; a raised PWR_MAX re-runs the power
check of a cage in REFUSED_POWER. -/
def cageCtrlWritten (p oldPwr oldManual : Nat) : Prog := .look fun s =>
  let man := s.rd (PORT_CAGE_CTRL.MANUAL p)
  let present := s.rd (PORT_CAGE_STAT.PRESENT p) == 1
  if man == 1 then seqs [
    onlyIf present (cageState p 6),
    cageStep p (if present && s.blkUpAt (16 + p) && s.rd (PORT_CAGE_STAT.CMIS_REV p) == 0 then 8 else 0),
    cagePins p (s.rd (PORT_CAGE_CTRL.RESET p) == 0) (s.rd (PORT_CAGE_CTRL.LPMODE p) == 1),
    bringUp p,
    linkRefresh p]
  else if oldManual == 1 then seqs [
    onlyIf present (seqs [cageState p 1, cageStep p 2, cagePins p false true]),
    linkRefresh p]
  else onlyIf (oldPwr < s.rd (PORT_CAGE_CTRL.PWR_MAX p) && s.rd (PORT_CAGE_STAT.STATE p) == 3) (cagePower p)

/-- GO of PORT_MOD_CMD (R100): a one-byte access at PORT_MOD_ADDR starts; ignored while BUSY; a write to a byte the device manages is refused
while MANUAL is 0. -/
def moduleAccess (p : Nat) : Prog := .look fun s =>
  let page := s.rd (PORT_MOD_ADDR.PAGE p)
  let off := s.rd (PORT_MOD_ADDR.OFFSET p)
  let wr := s.rd (PORT_MOD_CMD.WRITE p) == 1
  onlyIf (s.rd (PORT_MOD_CMD.BUSY p) == 0) (
    if (wr && s.rd (PORT_CAGE_CTRL.MANUAL p) == 0 && ((off < 128 && 26 ≤ off && off ≤ 31) || (128 ≤ off && page == 0x10))) ||
        s.rd (PORT_CAGE_STAT.PRESENT p) == 0 then setF (PORT_MOD_CMD.ERR p) 1
    else seqs [
      setF (PORT_MOD_CMD.BUSY p) 1,
      setF (PORT_MOD_CMD.ERR p) 0,
      emit (.twoWire p wr page (s.rd (PORT_MOD_ADDR.BANK p)) off (s.rd (PORT_MOD_CMD.DATA p)))])

/-- MODULE_ACCESS_DONE (R100): BUSY clears, with the byte read or ERR. -/
def execModuleAccessDone (port : Nat) (ack : Bool) (data : Nat) (s : State) : Host.Outcome State Fault Refusal :=
  command (.moduleAccessDone port ack data) (.look fun s =>
    onlyIf (s.rd (PORT_MOD_CMD.BUSY port) == 1) (seqs [
      setF (PORT_MOD_CMD.BUSY port) 0,
      setF (PORT_MOD_CMD.ERR port) (b2n (!ack)),
      onlyIf (ack && s.rd (PORT_MOD_CMD.WRITE port) == 0) (setF (PORT_MOD_CMD.DATA port) data)])) s

/-- The PORT page of a cage is enabled at start-up (R531): a module present starts at step 3 of the insertion. -/
def cageEnable (p : Nat) : Prog := .look fun s =>
  onlyIf (s.rd (PORT_CAGE_STAT.PRESENT p) == 1)
    (if s.rd (PORT_CAGE_CTRL.MANUAL p) == 0 then seqs [cageState p 1, cagePins p true true, cageStep p 3] else cageStep p 8)

end Sys2Proof.Machine
end

