-- ==== Sys2Proof/Machine/Shaper.lean ====
section
/-!
DEFINITION. The scheduling tree and its shapers (spec/08_queues_and_scheduling.md R287 to R291, R304 to R312): the path of a queue, buckets, the mill wheel and the
charge of a packet.
-/
namespace Sys2Proof.Machine

/-! ### Entries of SCH (page 0x0B1) and SHP (page 0x0B2) -/

def SCH.EN : EF := ed 0 31 31
def SCH.OVH : EF := ed 0 7 0
def SCH.PRIO : EF := ed 0 30 28
def SCH.WEIGHT : EF := ed 0 27 16
def SCH.PARENT : EF := ed 0 13 0
def SHP.CIR : EF := ed 0 19 0
def SHP.PIR : EF := ed 1 19 0
def SHP.CBS : EF := ed 2 31 16
def SHP.EBS : EF := ed 2 15 0

/-- The key of a node: its level and number. -/
def nodeKey (lvl n : Nat) : Nat := lvl * 2 ^ 20 + n

/-- The scheduling entry of a node. -/
def State.sch (s : State) (lvl n : Nat) : Entry := s.tab 177 lvl n

/-- The shaper entry of a node. -/
def State.shp (s : State) (lvl n : Nat) : Entry := s.tab 178 lvl n

/-- The nodes of a queue's path from L4 up to L0 (R287, R288). -/
def State.path (s : State) (q : Nat) : List (Nat × Nat) :=
  let l3 := q / 8
  let l2 := (s.sch 3 l3).f SCH.PARENT
  let l1 := (s.sch 2 l2).f (ed 0 9 0)
  [(4, q), (3, l3), (2, l2), (1, l1), (0, (s.sch 1 l1).f (ed 0 5 0))]

/-- The scheduling port at the root of a queue's path (R290). -/
def State.rootPort (s : State) (q : Nat) : Nat := ((s.path q).getLast?.getD (0, 0)).2

/-- The L0 node above a node, by its key (R287). -/
def State.nodePort (s : State) (k : Nat) : Nat :=
  let n := k % 2 ^ 20
  let up1 (n : Nat) : Nat := (s.sch 1 n).f (ed 0 5 0)
  let up2 (n : Nat) : Nat := up1 ((s.sch 2 n).f (ed 0 9 0))
  let up3 (n : Nat) : Nat := up2 ((s.sch 3 n).f SCH.PARENT)
  match k / 2 ^ 20 with
  | 0 => n
  | 1 => up1 n
  | 2 => up2 n
  | 3 => up3 n
  | _ => up3 (n / 8)

/-- The key under which the pacing of every node of a scheduler engine is kept; the L0 nodes of engine k are 4k to 4k + 3 (R542). -/
def engineKey (port : Nat) : Nat := nodeKey 5 (port / 4)

/-- The overhead of a scheduling port in bytes, signed (R305). -/
def State.ovh (s : State) (port : Nat) : Int := let o := (s.sch 0 port).f SCH.OVH; if o < 128 then (o : Int) else (o : Int) - 256

/-- A scheduling length: a frame length and the overhead of the port (R305). -/
def State.schedLen (s : State) (port len : Nat) : Nat := ((len : Int) + s.ovh port).toNat

/-! ### Rates and sizes -/

/-- The rate of a network port in Mb/s; ports 48 to 50 have no limit. -/
def State.portMbps (s : State) (port : Nat) : Nat := if port < 48 then 1000 * s.portGbps port else 0

/-- A rate no higher than the port's (R307). -/
def State.capRate (s : State) (port r : Nat) : Nat := if port < 48 && s.portMbps port < r then s.portMbps port else r

/-- The committed and peak rates of a node under a port in Mb/s; 0: none (R307, R308). -/
def State.nodeRates (s : State) (port lvl n : Nat) : Nat × Nat :=
  let e := s.shp lvl n
  if lvl == 0 then (0, if e.f SHP.PIR == 0 then s.portMbps port else s.capRate port (e.f SHP.PIR))
  else (s.capRate port (e.f SHP.CIR), s.capRate port (e.f SHP.PIR))

/-- The sizes of a node's buckets in 10^-3 bit: 64-byte units, and 16 KiB at L0 (R307, R308). -/
def State.nodeSizes (s : State) (lvl n : Nat) : Int × Int :=
  let e := s.shp lvl n
  if lvl == 0 then (0, 16384 * 8000) else (64 * 8000 * (e.f SHP.CBS : Int), 64 * 8000 * (e.f SHP.EBS : Int))

/-! ### Mill-wheel pacing (R310 to R312) -/

/-- Whether a node is paced: its own causes, its engine's or the start-up cause last, or the settling time after them has not ended. -/
def State.paced (s : State) (k : Nat) : Bool :=
  let p (m : MillX) : Bool := m.causes != 0 || m.endAt.isSome
  p s.millAll || p (s.millAt k) || p (s.millAt (engineKey (s.nodePort k)))

/-- The cause shown for a node (SHP table DATA3): 0 none. -/
def State.pacedCause (s : State) (k : Nat) : Nat :=
  let show_ (m : MillX) : Nat := if bitOf m.causes 1 then 1 else if bitOf m.causes 2 then 2 else if bitOf m.causes 3 then 3 else if bitOf m.causes 4 then 4
    else if m.endAt.isSome then m.last else 0
  let l := [s.millAt k, s.millAt (engineKey (s.nodePort k)), s.millAll].map show_
  (l.find? (fun c => c != 0)).getD 0

/-- The nodes now paced (SHP_MILL_STAT): all of them under the start-up cause, else those of paced engines and those paced by themselves. -/
def State.pacedNodes (s : State) : Nat :=
  let p (m : MillX) : Bool := m.causes != 0 || m.endAt.isSome
  let sizes := [64, 1024, 16384, 65536]
  if p s.millAll then sizes.foldl (· + ·) (8 * 65536)
  else
    let l := s.mill.filter (fun kv => p kv.2)
    let engines := (l.filter (fun kv => kv.1 / 2 ^ 20 == 5)).map Prod.fst
    let under (k : Nat) : Bool := engines.contains (engineKey (s.nodePort k))
    let level (lvl : Nat) : Nat := ((List.range (sizes.getD lvl 0)).filter (fun n => under (nodeKey lvl n))).length
    let byEngine := if engines.isEmpty then 0 else level 0 + level 1 + level 2 + 9 * level 3
    byEngine + (l.filter (fun kv => kv.1 / 2 ^ 20 != 5 && !under kv.1)).length

/-- Pacing with a cause begun or ended. -/
def MillX.set (m : MillX) (cause now : Nat) (on : Bool) : MillX :=
  let c := withBit m.causes cause on
  { causes := c, endAt := if c != 0 then none else if m.causes != 0 then some now else m.endAt, last := if on then m.last else cause }

/-- A cause of pacing begins or ends at a node. -/
def setMill (k cause : Nat) (on : Bool) : Prog := .look fun s => .put (.mill k ((s.millAt k).set cause s.mono on))

/-- The start-up cause begins or ends (R310; spec/15 R522). -/
def setMillAll (on : Bool) : Prog := .look fun s => .put (.millAll (s.millAll.set 1 s.mono on))

/-- The settling time in ns (SHP_SETTLE). -/
def State.settleNs (s : State) : Nat := max 4096 (s.rd SHP_SETTLE.SETTLE_US) * 1000

/-- MILL_SETTLE_END (R312): nodes whose last cause ended SHP_SETTLE ago leave pacing; their buckets restart at 0 tokens and their virtual finish times as
though they had just become eligible. -/
def execMillSettleEnd (s : State) : Host.Outcome State Fault Refusal :=
  command .millSettleEnd (.look fun s =>
    let over_ (m : MillX) : Bool := m.causes == 0 && (match m.endAt with | some t => s.since t s.settleNs | none => false)
    .andThen
      (onlyIf (over_ s.millAll) (seqs [
        .put (.millAll {}),
        .put (.shpBase s.mono),
        each s.shpX (fun kv => .put (.shpX kv.1 { f := kv.2.f, v := kv.2.v, at_ := s.mono }))]))
      (each (s.mill.filter (fun kv => over_ kv.2)) (fun kv => .andThen (.put (.mill kv.1 {})) (.look fun t =>
        let restart (k : Nat) : Prog := let x := t.shpXAt k; .put (.shpX k { f := x.f, v := x.v, at_ := t.mono })
        .andThen (restart kv.1) (onlyIf (kv.1 / 2 ^ 20 == 5)
          (each (t.shpX.filter (fun y => engineKey (t.nodePort y.1) == kv.1)) (fun y => restart y.1))))))) s

/-! ### Buckets -/

/-- A node's state with its buckets filled to now (R307). -/
def State.shpNow (s : State) (port lvl n : Nat) : ShpX :=
  let k := nodeKey lvl n
  let x := s.shpXAt k
  let dt : Int := (s.mono : Int) - (max x.at_ (max s.shpBase (s.shpXAt (engineKey port)).at_) : Nat)
  let r := s.nodeRates port lvl n
  let z := s.nodeSizes lvl n
  { x with c := min z.1 (x.c + dt * r.1), p := min z.2 (x.p + dt * r.2), at_ := s.mono }

/-- Whether a node's peak limit permits it now (R302, R307, R311). -/
def State.peakOk (s : State) (port lvl n : Nat) : Bool :=
  let r := (s.nodeRates port lvl n).2
  let k := nodeKey lvl n
  if r == 0 then true
  else if s.paced k then decide ((s.shpXAt k).pSlot ≤ s.mono / 1000)
  else decide (0 ≤ (s.shpNow port lvl n).p)

/-- Whether a node stands in the committed band now (R303, R307, R311). -/
def State.committed (s : State) (port lvl n : Nat) : Bool :=
  let r := (s.nodeRates port lvl n).1
  let k := nodeKey lvl n
  r != 0 && (if s.paced k then decide ((s.shpXAt k).cSlot ≤ s.mono / 1000) else decide (0 < (s.shpNow port lvl n).c))

/-- The wheel distance of a length at a rate in Mb/s, in slots of 1 µs (R311). -/
def wheelDist (len rate : Nat) : Nat := min 4095 ((len * 8 + rate - 1) / rate)

/-- A node charged with a scheduling length: its wheel slots under pacing, else its buckets (R307, R311). -/
def chargeNode (port lvl n len : Nat) : Prog := .look fun s =>
  let k := nodeKey lvl n
  let r := s.nodeRates port lvl n
  let now := s.mono / 1000
  if s.paced k then
    let x := s.shpXAt k
    .put (.shpX k { x with
      pSlot := if r.2 != 0 then now + wheelDist len r.2 else x.pSlot
      cSlot := if r.1 != 0 then now + wheelDist len r.1 else x.cSlot })
  else
    let x := s.shpNow port lvl n
    .put (.shpX k { x with c := x.c - 8000 * len, p := x.p - 8000 * len })

/-- The charge of a released packet on its path (R307, R308). -/
def chargePath (q len : Nat) : Prog := .look fun s => each (s.path q) (fun x => chargeNode (s.rootPort q) x.1 x.2 len)

/-- A node's buckets filled to now at the rates in force until now, before those change (R309). -/
def settleNode (lvl n : Nat) : Prog := .look fun s => let k := nodeKey lvl n; .put (.shpX k (s.shpNow (s.nodePort k) lvl n))

/-- The correction at the tail of a packet that was charged by a declared length (R307): the same buckets take the difference. -/
def shapeCorrect (k : Nat) (true_ charged : Nat) : Prog := .look fun s =>
  let lvl := k / 2 ^ 20
  let x := s.shpNow (s.nodePort k) lvl (k % 2 ^ 20)
  let z := s.nodeSizes lvl (k % 2 ^ 20)
  let d := 8000 * ((true_ : Int) - (charged : Int))
  onlyIf (!s.paced k) (.put (.shpX k { x with c := min z.1 (x.c - d), p := min z.2 (x.p - d) }))

/-! ### Virtual finish times (R304) -/

/-- Whether a tag lies in the window of 2^26 from a virtual time. -/
def inWindow (f v : Nat) : Bool := decide ((f + 2 ^ 32 - v % 2 ^ 32) % 2 ^ 32 < 2 ^ 26)

/-- A child that has become eligible: a tag outside the window restarts at the parent's virtual time. -/
def admitTag (parent child : Nat) : Prog := .look fun s =>
  let v := (s.shpXAt parent).v
  let x := s.shpXAt child
  onlyIf (!x.on) (.put (.shpX child { x with on := true, f := if inWindow x.f v then x.f else v }))

/-- A child served in the excess band (R304). -/
def serveTag (parent child weight len : Nat) : Prog := .look fun s =>
  let x := s.shpXAt child
  let y := s.shpXAt parent
  .andThen (.put (.shpX parent { y with v := x.f })) (.look fun t =>
    let x := t.shpXAt child
    let w := max 1 weight
    .put (.shpX child { x with f := (x.f + (len * 4096 + w - 1) / w) % 2 ^ 32 }))

end Sys2Proof.Machine
end

