-- ==== Sys2Proof/Machine/Buffers.lean ====
section
/-!
DEFINITION. Stored packet bytes and the buffer pool manager (spec/07_buffers.md R250 to R259, R272 to R274): bodies and their references, pools and regions,
requesters, quotas and reservations.
-/
namespace Sys2Proof.Machine

/-- This device's ID (R360). -/
def State.ownId (s : State) : Nat := s.rd FAB_DEV_ID.ID

/-! ### Bodies -/

/-- A new body. -/
def newBody (b : Body) (k : Nat → Prog) : Prog := .look fun s =>
  let i := s.bodyNext
  .andThen (.put (.bodyNext (i + 1))) (.andThen (.put (.bodies i b)) (k i))

/-- Bytes of a packet as they stand (its egress head in place of the first `skip` bytes), without FCS. -/
def State.pktBytes (s : State) (p : Pkt) : List Nat :=
  let b := p.head ++ (s.bodiesAt p.body).bytes.drop p.skip
  if p.trunc == 0 then b else b.take (p.trunc - 4)

/-- Whether the last byte of a packet has arrived. -/
def State.pktWhole (s : State) (p : Pkt) : Bool := (s.bodiesAt p.body).whole

/-- The frame length of a packet with FCS: its true length once its tail has arrived, else FRAME_LEN when LEN_SRC is not 0, else a maximum (R141, R305). -/
def State.frameLen (s : State) (p : Pkt) (maxLen : Nat) : Nat :=
  let n := if (s.bodiesAt p.body).whole then (s.bodiesAt p.body).bytes.length + 4 else if p.lenSrc != 0 then p.frameLen else maxLen
  if p.trunc == 0 then n else min n p.trunc

/-- A descriptor takes a reference on a body. -/
def refBody (i : Nat) : Prog := .look fun s => let b := s.bodiesAt i; .put (.bodies i { b with refs := b.refs + 1 })

/-! ### Pools and regions (R253 to R255) -/

/-- The buffer size of a pool (R253). -/
def poolSize (k : Nat) : Nat := [256, 512, 1024, 2048, 4096, 10240][k]?.getD 10240

/-- The pool of the smallest size that holds `n` bytes. -/
def poolOf (n : Nat) : Nat := ((List.range 6).find? (fun k => decide (n ≤ poolSize k))).getD 5

/-- The region size of a tier (R250). -/
def regionBytes (t : Nat) : Nat := if t == 1 then 65536 else if t == 2 then 2 ^ 24 else 2 ^ 30

/-- Buffers of a pool in one region. -/
def perRegion (t k : Nat) : Nat := regionBytes t / poolSize k

/-- A pool's registers follow its buffers in use. -/
def showPool (t k : Nat) : Prog := .look fun s =>
  setF (BPM_POOL_STAT.FREE_BUF (t - 1) k) (s.rd (BPM_POOL_STAT.REGIONS (t - 1) k) * perRegion t k - s.poolUseAt (8 * t + k))

/-! ### Awake and sleeping regions of the Granary (R256, R396, R403, R404) -/

/-- The self-refresh units that hold buffer regions, and the buffer regions of unit `k`: those of 1 GiB from k times its size on (R394, R396). -/
def State.sruCount (s : State) : Nat := let u := s.rd DDRC_SHARE.SRU_GIB; if u == 0 then 1 else (s.rd GRN_CAP.BUF_REGIONS + u - 1) / u
def State.sruRegions (s : State) (k : Nat) : Nat :=
  let u := s.rd DDRC_SHARE.SRU_GIB
  let n := s.rd GRN_CAP.BUF_REGIONS
  if u == 0 then (if k == 0 then n else 0) else min u (n - k * u)

/-- How many regions a list of free ones holds, and how many of those lie in unit `k`. -/
def regionSum (l : List (Nat × Nat × Nat)) : Nat := l.foldl (fun a x => a + x.2.2) 0
def regionsIn (l : List (Nat × Nat × Nat)) (k : Nat) : Nat := regionSum (l.filter (fun x => x.1 == k))

/-- The list of free regions without the one at a place, and the unit of the one at a place. -/
def regionTake : List (Nat × Nat × Nat) → Nat → List (Nat × Nat × Nat)
  | [], _ => []
  | x :: r, j => if j < x.2.2 then (if x.2.2 ≤ 1 then r else (x.1, x.2.1, x.2.2 - 1) :: r) else x :: regionTake r (j - x.2.2)
def regionUnit : List (Nat × Nat × Nat) → Nat → Nat
  | [], _ => 0
  | x :: r, j => if j < x.2.2 then x.1 else regionUnit r (j - x.2.2)

/-- A region of the Granary is assigned, an awake one before one asleep, or returned; which, the spec leaves open (R255): a free value.  An assignment for which no awake region is free
wakes the whole self-refresh unit that it takes from. -/
def wakeRegion (toPool : Bool) : Prog := draw fun v => .look fun s =>
  let awake := s.freeAges.filter (fun x => !s.sruMask.contains x.1)
  let asleep := s.freeAges.filter (fun x => s.sruMask.contains x.1)
  let held := (List.range s.sruCount).map (fun k => (k, 0, s.sruRegions k - regionsIn s.freeAges k))
  if !toPool then .put (.freeAges (s.freeAges ++ [(regionUnit held (v % max 1 (regionSum held)), s.mono, 1)]))
  else if regionSum awake != 0 then .put (.freeAges (regionTake awake (v % regionSum awake) ++ asleep))
  else
    let j := v % max 1 (regionSum asleep)
    let k := regionUnit asleep j
    onlyIf (regionSum asleep != 0) (seqs [
      .put (.sruMask (s.sruMask.filter (fun x => x != k))),
      setF GRN_STAT.IDLE_REGIONS (s.rd GRN_STAT.IDLE_REGIONS - s.sruRegions k),
      .put (.freeAges (regionTake asleep j))])

/-! ### Rates of the Granary (R283, GRN_RATE) -/

/-- A batch for the Granary; while the batches of the last 1 ms exceed the tier-3 share, the demand does (R283). -/
def grnDemandAdd (n : Nat) : Prog := .look fun s =>
  let l := rateAdd s.grnDemand s.mono n
  .andThen (.put (.grnDemand l)) (onlyIf (s.rd DDRC_SHARE.SHARE_GBPS < rateGbps l s.mono) (raise 146 18))

/-- A region moves between a tier and one of its pools; a tier that falls below LOW_WATER raises its interrupt. -/
def moveRegion (t k : Nat) (toPool : Bool) : Prog := .andThen (onlyIf (t == 3) (wakeRegion toPool)) <| .look fun s =>
  let free := s.rd (BPM_TIER_FREE.FREE (t - 1))
  let n := s.rd (BPM_POOL_STAT.REGIONS (t - 1) k)
  let low := s.rd (BPM_TIER_LOW.LOW_WATER (t - 1))
  if toPool then seqs [
    setF (BPM_TIER_FREE.FREE (t - 1)) (free - 1),
    setF (BPM_POOL_STAT.REGIONS (t - 1) k) (n + 1),
    onlyIf (low ≤ free && free - 1 < low) (raise 144 (15 + t))]
  else .andThen (setF (BPM_TIER_FREE.FREE (t - 1)) (free + 1)) (setF (BPM_POOL_STAT.REGIONS (t - 1) k) (n - 1))

/-- A pool hands out a buffer, taking a free region of the tier when its free list is empty (R255).  The spec does not say what happens when the tier has none, R258 having admitted the
buffer on space in other pools' regions: DESIGN CHOICE (log entry 94), the buffer is handed out all the same, and the pool takes the first region that returns. -/
def poolTake (t k : Nat) : Prog := .look fun s =>
  let used := s.poolUseAt (8 * t + k)
  seqs [
    onlyIf (s.rd (BPM_POOL_STAT.REGIONS (t - 1) k) * perRegion t k ≤ used && s.rd (BPM_TIER_FREE.FREE (t - 1)) != 0) (moveRegion t k true),
    .put (.poolUse (8 * t + k) (used + 1)),
    showPool t k]

/-- The regions that a pool lacks: those of its floor, and those for buffers it handed out without a region. -/
def State.poolLacks (s : State) (t k : Nat) : Nat :=
  max (s.rd (BPM_POOL_FLOOR.FLOOR (t - 1) k)) ((s.poolUseAt (8 * t + k) + perRegion t k - 1) / perRegion t k) - s.rd (BPM_POOL_STAT.REGIONS (t - 1) k)

/-- The pools of a tier take the regions they lack as far as the tier has them (R255). -/
def poolsFill (t : Nat) : Prog := each (List.range 6) fun k => .look fun s =>
  onlyIf (s.poolLacks t k != 0) (.andThen (each (List.range (min (s.poolLacks t k) (s.rd (BPM_TIER_FREE.FREE (t - 1))))) (fun _ => moveRegion t k true)) (showPool t k))

/-- Regions of a pool above its floor that are wholly free return to the tier, and pools that lack regions take them (R255).  At least as many are wholly free as there are more regions
than buffers in use, at most as many as those buffers leave free of the fewest regions; how many between, which depends on the order of hand-out, is not defined: a free value.  A buffer given
back frees at most `step` regions beyond those. -/
def poolReturn (t k step : Nat) : Prog := .look fun s =>
  let used := s.poolUseAt (8 * t + k)
  let n := s.rd (BPM_POOL_STAT.REGIONS (t - 1) k)
  let extra := n - s.rd (BPM_POOL_FLOOR.FLOOR (t - 1) k)
  let must := n - used
  let may := min (must + step) (n - (used + perRegion t k - 1) / perRegion t k)
  let give (m : Nat) : Prog := onlyIf (m != 0) (.andThen (each (List.range m) (fun _ => moveRegion t k false)) (poolsFill t))
  if extra == 0 then .skip
  else if may ≤ must || extra ≤ must then give (min extra must)
  else draw (fun v => give (min extra (must + v % (may - must + 1))))

/-- A pool takes a buffer back. -/
def poolGive (t k : Nat) : Prog := .look fun s =>
  seqs [.put (.poolUse (8 * t + k) (s.poolUseAt (8 * t + k) - 1)), poolReturn t k 1, showPool t k]

/-- A floor that software wrote (R255): the pools take the regions they lack as far as the tier has them, or this one returns those above it. -/
def poolFloor (t k : Nat) : Prog := .look fun s =>
  seqs [poolsFill t, poolReturn t k (s.rd (BPM_POOL_STAT.REGIONS (t - 1) k)), showPool t k]

/-! ### Requesters and quotas (R257 to R259) -/

/-- Bytes of one unit of a requester's MIN and MAX in a tier. -/
def quotaUnit (t : Nat) : Nat := if t == 1 then 4096 else if t == 2 then 2 ^ 24 else 2 ^ 30

/-- MIN and MAX of a requester in a tier, in bytes (R258). -/
def State.quota (s : State) (t r : Nat) : Nat × Nat :=
  let x := if t == 1 then (s.rd (BPM_REQ_CFG.T1_MIN r), s.rd (BPM_REQ_CFG.T1_MAX r))
    else if t == 2 then (s.rd (BPM_REQ_CFG.HBM_MIN r), s.rd (BPM_REQ_CFG.HBM_MAX r)) else (s.rd (BPM_REQ_CFG.GRN_MIN r), s.rd (BPM_REQ_CFG.GRN_MAX r))
  (x.1 * quotaUnit t, x.2 * quotaUnit t)

/-- A requester's use of a tier in bytes; in tier 1 with what its reservations hold. -/
def State.useOf (s : State) (t r : Nat) : Nat := s.reqUseAt (128 * t + r) + (if t == 1 then s.reqResvAt r else 0)

/-- The buffer area of a tier in bytes. -/
def State.tierArea (s : State) (t : Nat) : Nat := s.rd (BPM_TIER_CAP.REGIONS (t - 1)) * regionBytes t

/-- Bytes used or reserved in a tier by every requester. -/
def State.tierUsed (s : State) (t : Nat) : Nat :=
  (s.reqUse.foldl (fun a kv => if kv.1 / 128 == t then a + kv.2 else a) 0) + (if t == 1 then s.reqResv.foldl (fun a kv => a + kv.2) 0 else 0)

/-- Every other requester's unused MIN in a tier. -/
def State.unusedMins (s : State) (t r : Nat) : Nat :=
  (List.range 72).foldl (fun a x => if x == r then a else a + ((s.quota t x).1 - s.useOf t x)) 0

/-- Whether a requester may take `b` bytes in a tier (R258). -/
def State.bpmAdmit (s : State) (t r b : Nat) : Bool :=
  let u := s.useOf t r + b
  let q := s.quota t r
  decide (u ≤ q.2) && (decide (u ≤ q.1) || decide (s.tierUsed t + s.unusedMins t r + b ≤ s.tierArea t))

/-- A requester's registers follow its use (BPM_REQ_USE). -/
def showUse (t r : Nat) : Prog := .look fun s =>
  let u := s.reqUseAt (128 * t + r)
  if t == 1 then setF (BPM_REQ_USE.T1_KIB r) ((u + 1023) / 1024)
  else if t == 2 then setF (BPM_REQ_USE.HBM_MIB r) ((u + 2 ^ 20 - 1) / 2 ^ 20)
  else setF (BPM_REQ_USE.GRN_MIB r) ((u + 2 ^ 20 - 1) / 2 ^ 20)

/-- BPM_TIER_RESV shows regions' worth of unused MIN and of reservations, rounded up. -/
def showResv (t : Nat) : Prog := .look fun s =>
  let mins := (List.range 72).foldl (fun a x => a + ((s.quota t x).1 - s.useOf t x)) 0
  let resv := if t == 1 then s.reqResv.foldl (fun a kv => a + kv.2) 0 else 0
  setF (BPM_TIER_RESV.RESV (t - 1)) ((mins + resv + regionBytes t - 1) / regionBytes t)

/-- A requester's use changes by whole buffers. -/
def setUse (t r v : Nat) : Prog := seqs [.put (.reqUse (128 * t + r) v), showUse t r, showResv t]

/-- A buffer of a tier for `n` bytes, charged to a requester. -/
def takeBuffer (t r n : Nat) : Prog := .look fun s => .andThen (poolTake t (poolOf n)) (setUse t r (s.reqUseAt (128 * t + r) + poolSize (poolOf n)))

/-- A buffer of a tier goes back to its pool and its requester's charge ends. -/
def giveBuffer (t r size : Nat) : Prog := .look fun s => .andThen (poolGive t (poolOf size)) (setUse t r (s.reqUseAt (128 * t + r) - size))

/-- A buffer of a lower tier is taken or given back through the free list that the tier's control area holds (R398). -/
def lowerTake (t r n : Nat) : Prog := .andThen (takeBuffer t r n) (freeAccess t 3)
def lowerGive (t r size : Nat) : Prog := .andThen (giveBuffer t r size) (freeAccess t 3)

/-- A reservation of `n` packet bytes holds 2 * n bytes of tier 1 (R259). -/
def reserve (r n : Nat) : Prog := .look fun s => .andThen (.put (.reqResv r (s.reqResvAt r + 2 * n))) (showResv 1)

/-- A reservation ends. -/
def unreserve (r n : Nat) : Prog := .look fun s => .andThen (.put (.reqResv r (s.reqResvAt r - 2 * n))) (showResv 1)

/-- A body takes a tier-1 buffer of a requester (R254, R272): the pool of its declared length with FCS, a new tag, a count of `refs`. -/
def landBody (i r declared refs : Nat) (k : Nat → Prog) : Prog := .look fun s =>
  let n := declared - 4
  seqs [
    takeBuffer 1 r n,
    .put (.tagNext ((s.tagNext + 1) % 65536)),
    .put (.bufNext (s.bufNext + 1)),
    .put (.bufs s.bufNext { size := poolSize (poolOf n), req := r, tag := s.tagNext, held := refs, body := i }),
    k s.bufNext]

/-- A buffer goes back once no reference holds it and the last byte of its packet has arrived (R273). -/
def freeBuffer (id : Nat) : Prog := .look fun s =>
  let b := s.bufsAt id
  onlyIf (b.size != 0 && b.held == 0 && (s.bodiesAt b.body).whole) (.andThen (giveBuffer 1 b.req b.size) (.put (.bufs id {})))

/-- A descriptor releases its reference on a tier-1 buffer (R273); a release that finds a count of 0 changes nothing (R274). -/
def releaseBuffer (id : Nat) : Prog := .look fun s =>
  let b := s.bufsAt id
  if b.held == 0 then seqs [bumpF BPM_REFCNT_ERR.COUNT 1, unitError 144 0x020 2 id, raise 144 19]
  else .andThen (.put (.bufs id { b with held := b.held - 1 })) (freeBuffer id)

/-- A 64-bit count in a LO and a HI register goes up. -/
def bump64 (lo hi : Fld) : Prog := .look fun s =>
  let n := (s.rd hi * 2 ^ 32 + s.rd lo + 1) % 2 ^ 64
  .andThen (setF lo (n % 2 ^ 32)) (setF hi (n / 2 ^ 32))

/-- The last release of a multicast packet: SENT with LOST is a partial delivery, LOST alone none (R380). -/
def mcOutcome (b : Body) : Prog :=
  match b.group with
  | none => .skip
  | some g =>
    if b.sent && b.lost then .andThen (count 10 (2 * g) 1) (bump64 MCR_PARTIAL_LO.COUNT MCR_PARTIAL_HI.COUNT)
    else if b.lost then .andThen (count 10 (2 * g + 1) 1) (bump64 MCR_UNDELIV_LO.COUNT MCR_UNDELIV_HI.COUNT)
    else .skip

/-- A body's bytes are kept while a descriptor refers to them and until its last byte has arrived. -/
def derefBody (i : Nat) : Prog := .look fun s =>
  let b := s.bodiesAt i
  if 1 < b.refs then .put (.bodies i { b with refs := b.refs - 1 })
  else if b.whole then .andThen (mcOutcome b) (.put (.bodies i {}))
  else .put (.bodies i { b with refs := 0 })

/-- A body whose last byte has arrived: buffers that no reference holds any more go back, and the body goes if no descriptor refers to it. -/
def bodyEnds (i : Nat) : Prog := .look fun s =>
  .andThen (each (s.bufs.filter (fun kv => kv.2.body == i)) (fun kv => freeBuffer kv.1))
    (onlyIf ((s.bodiesAt i).whole && (s.bodiesAt i).refs == 0) (.andThen (mcOutcome (s.bodiesAt i)) (.put (.bodies i {}))))

/-- A multicast packet has lost a copy that was refused, has aged or had a bad tail (R380).  A copy made for a sampler or the host is none of its copies (R249). -/
def markLost (p : Pkt) : Prog := .look fun s =>
  let b := s.bodiesAt p.body
  onlyIf (p.group.isSome && b.group.isSome) (.put (.bodies p.body { b with lost := true }))

/-- A packet whose payload could not be corrected carries tail cause INTERNAL, in bytes of its own (R284), counted at its ingress port where that is this device's (R236). -/
def poisonPkt (p : Pkt) (k : Pkt → Prog) : Prog := .look fun s =>
  let b := s.bodiesAt p.body
  seqs [onlyIf (b.tail == 0 && p.srcDev == s.ownId && p.srcPort < 48) (count 0 (128 * p.srcPort + 51) 1), markLost p, newBody { b with refs := 1, tail := if b.tail == 0 then 4 else b.tail, group := none, sent := false, lost := false } (fun i =>
    .andThen (derefBody p.body) (k { p with body := i }))]

/-- A copy of a multicast packet begins its transmission (R380). -/
def markSent (p : Pkt) : Prog := .look fun s =>
  let b := s.bodiesAt p.body
  onlyIf (p.group.isSome && b.group.isSome) (.put (.bodies p.body { b with sent := true }))

/-- A packet discarded for a bad tail counts at its egress port and in its queue (R237). -/
def tailCounts (port queue : Nat) : Prog := .andThen (onlyIf (port < 48) (count 0 (128 * port + 70) 1)) (count 8 (7 * queue + 6) 1)

/-- A packet longer than the buffer that its declared length took is cut at the buffer's end with a tail error of cause LENGTH (R254). -/
def cutToBuffer (i port : Nat) : Prog := .look fun s =>
  let b := s.bodiesAt i
  let room := (s.bufs.filter (fun kv => kv.2.body == i && kv.2.size != 0)).foldl (fun a kv => min a kv.2.size) b.bytes.length
  onlyIf (room < b.bytes.length) (seqs [
    .put (.bodies i { b with bytes := b.bytes.take room, tail := if b.tail == 0 then 3 else b.tail }),
    onlyIf (b.tail == 0 && port < 48) (count 0 (128 * port + 50) 1)])

/-- A packet whose tail had come before it took its buffer is cut there as well (R254). -/
def cutLanded (p : Pkt) : Prog := .look fun s => onlyIf (s.bodiesAt p.body).whole (cutToBuffer p.body p.srcPort)

/-! ### XOFF of a port (R93, R232, R262) -/

/-- The classes of a port in XOFF from either source. -/
def xoffRefresh (p : Nat) : Prog := .look fun s => setXoff p ((if s.rxXoffAt p then 255 else 0) ||| s.rd (BUF_STG_PORT.XOFF_TC p))

/-- The bytes that a port's receive FIFO holds. -/
def State.rxLevel (s : State) (p : Nat) : Nat := (s.rxFifoAt p).foldl (fun a x => a + (s.bodiesAt x.body).bytes.length) 0

/-- The FIFO's XOFF follows its level (R232). -/
def rxLevelChanged (p : Nat) : Prog := .look fun s =>
  let n := s.rxLevel p
  let off := s.cfg PIPE_RX_LEVEL.XOFF_LEVEL
  let on := min (s.cfg PIPE_RX_LEVEL.XON_LEVEL) (off - 1)
  let x := if s.rxXoffAt p then decide (on * 1024 ≤ n) else decide (off * 1024 < n)
  .andThen (.put (.rxXoff p x)) (xoffRefresh p)

end Sys2Proof.Machine
end

