-- ==== Sys2Proof/Machine/FlexE.lean ====
section
/-!
DEFINITION. FlexE groups, calendars, the slot cross-connect, defects and performance monitoring (spec/03_ports_and_framing.md R101 to
R130).
-/
namespace Sys2Proof.Machine

/-- Whether the numbers of a list are pairwise different. -/
def allDiffer : List Nat → Bool
  | [] => true
  | a :: r => !r.contains a && allDiffer r

/-- The check of an enabled group (R102). -/
def State.flxCheck (s : State) (g : Nat) : Bool :=
  let ms := s.flxMembers g
  let rate := s.cfg (FLX_GROUP_CFG.PHY_RATE g)
  let phys := ms.map (fun m => s.cfg (FLX_MEMBER.PHY_NUM g m.1))
  let num := s.cfg (FLX_GROUP_CFG.GROUP_NUM g)
  let inClass (m : Nat) : Bool :=
    if rate == 0 then 4 ≤ m && m ≤ 6 else if rate == 1 then 7 ≤ m && m ≤ 9 else if rate == 2 then m == 0xA || m == 0xB else false
  !ms.isEmpty && ms.all (fun m => m.2 < 48 && inClass (s.cfg (PORT_MODE.MODE m.2)) &&
    (match s.flxHeldAt m.2 with | some h => h == g | none => true)) &&
  allDiffer (ms.map (fun m => m.2)) && allDiffer phys && phys.all (fun n => n != 0 && n != 255) && num != 0 && num != 0xFFFFF

/-- PORT_MODE.FLEXE, in the shadow and in the units alike. -/
def showFlexe (p : Nat) (v : Bool) : Prog := .look fun s => .andThen (setF (PORT_MODE.FLEXE p) (b2n v))
  (.put (.units (regKey (16 + p) 0x200) (setFieldOf (s.unitsAt (regKey (16 + p) 0x200)) 13 13 (b2n v))))

/-- The entry of the ACTIVE connection page for a destination. -/
def State.xcEntry (s : State) (d : Nat) : Entry := s.tab 88 1 d

/-- Whether the source of a connection has failed (R126). -/
def State.xcSourceDown (s : State) (e : Entry) : Bool :=
  let i := e.f (ed 0 11 0)
  if e.f (ed 0 30 29) == 1 then s.clientDown (i / 128) (i % 128)
  else if e.f (ed 0 30 29) == 2 then s.rd (XC_CH_STAT.RX_AIS i) == 1
  else true

/-- Whether a client is in switched mode. -/
def State.switched (s : State) (i : Nat) : Bool := (s.tab (64 + i / 128) 4 (i % 128)).f (ed 0 31 30) == 2

/-- Whether an entry joins a source to its destination (R116). -/
def Entry.joined (e : Entry) : Bool := e.on (ed 0 31 31) && e.f (ed 0 30 29) != 0

/-- The consequent actions at destinations follow the state of their sources (R126): local fault to switched clients whose source has failed or that have none, with or without an
entry; all-ones on fabric channels whose source has failed; a channel without a connection sends nothing. -/
def xcActionsAt (ds : List Nat) : Prog := .look fun s => each ds fun d =>
  let e := s.xcEntry d
  let joined := e.joined
  let down := s.xcSourceDown e
  if d < 3072 then emit (.signal 1 d (s.switched d && (!joined || down)))
  else
    let n := d - 3072
    onlyIf (s.rd (XC_CH_STAT.TX_AIS n) != b2n (joined && down)) (seqs [
      setF (XC_CH_STAT.TX_AIS n) (b2n (joined && down)), emit (.signal 2 n (joined && down)), onlyIf (joined && down) (raise 88 18)])

/-- The consequent actions at every destination that ACTIVE lists. -/
def xcActions : Prog := .look fun s => xcActionsAt (s.tabIndices 88 1)

/-- Whether a defect of a port or client, or of a scope above it, is present. -/
def State.pmDefectNow (s : State) (client : Bool) (i : Nat) : Bool :=
  if client then s.clientDown (i / 128) (i % 128)
  else s.rd (PORT_STAT.LOS i) == 1 || s.rd (PORT_STAT.LOL i) == 1 || s.rd (PORT_STAT.HI_BER i) == 1 ||
    s.rd (PORT_STAT.LF i) == 1 || s.rd (PORT_STAT.RF i) == 1

/-- A defect of a port or client is entered or left now (R128), which marks the running second: stated before the change, so that a defect that has stood since an earlier second marks
the second before this one too; the marks of the last two seconds are kept. -/
def pmMark (k : Nat) : Prog := .look fun s =>
  let m := (s.pmXAt k).marks
  let stood := (if k < 64 then s.pmDefectNow false k else s.pmDefectNow true (k - 64)) && !m.contains s.sec
  .put (.pmX k { s.pmXAt k with marks := s.sec :: ((if stood then [s.sec - 1] else []) ++ m.filter (fun t => t != s.sec)).take 1 })

/-- FAILED of a client (R125): its group has failed it, or a defect of its own. -/
def State.clientFails (s : State) (g i : Nat) : Bool := s.groupFailed g || fieldOf (s.reg (64 + g) (0x1000 + 4 * i)) 4 0 != 0

/-- The FAILED bits of a group's clients, RPF and the actions that follow them (R125, R126). -/
def groupRefresh (g : Nat) : Prog := .look fun s =>
  let failed := s.groupFailed g && s.flxCarries g
  let clients := (s.tabIndices (64 + g) 4).filter (fun i => (s.tab (64 + g) 4 i).f (ed 0 31 30) != 0)
  let changed := clients.filter (fun i => s.rd (FLX_CL_STAT.FAILED g i) != b2n (s.clientFails g i))
  seqs [
    each changed (fun i => .andThen (pmMark (64 + 128 * g + i)) (setF (FLX_CL_STAT.FAILED g i) (b2n (s.clientFails g i)))),
    onlyIf (!changed.isEmpty) (raise (64 + g) 20),
    onlyIf (s.rpfTxAt g != failed) (.andThen (.put (.rpfTx g failed)) (emit (.signal 5 g failed))),
    each (clients.filter (fun i => (s.tab (64 + g) 4 i).f (ed 0 31 30) == 1)) (fun i => linkRefresh ((s.tab (64 + g) 4 i).f (ed 0 29 24))),
    xcActions]

/-- A client-table entry has been written (R105, R125, R126): an unused client has no status; the client follows its group, the MACs it was and is bound to their bindings, and a
switched client without a connection gets local fault. -/
def clientWritten (g i : Nat) (old e : Entry) : Prog := seqs [
  onlyIf (e.f (ed 0 31 30) == 0) (setReg (64 + g) (0x1000 + 4 * i) 0),
  groupRefresh g,
  each (([old, e].filter (fun x => x.f (ed 0 31 30) == 1)).map (fun x => x.f (ed 0 29 24))) (fun p => onlyIf (p < 48) (linkRefresh p)),
  xcActionsAt [128 * g + i]]

/-- The client index at each position of a calendar, 128 where unused (R111). -/
def State.calClients (s : State) (g cal : Nat) : List Nat := (List.range (20 * 8 * 4)).map fun pos =>
  let e := s.tab (64 + g) cal pos
  if e.on (ed 0 31 31) then e.f (ed 0 6 0) else 128

/-! ### Membership and what it shows (R102, R124) -/

/-- The instances of a port's PHY (R103). -/
def State.phyInsts (s : State) (g : Nat) : Nat := 2 ^ s.cfg (FLX_GROUP_CFG.PHY_RATE g)

/-- OF_LOCK and MF_LOCK of a member: every instance locked. -/
def showLocks (g k p : Nat) : Prog := .look fun s =>
  let xs := (List.range (s.phyInsts g)).map (fun i => s.instXAt (4 * p + i))
  .andThen (setBitF (FLX_STAT.OF_LOCK g) k (xs.all (fun x => x.lock))) (setBitF (FLX_STAT.MF_LOCK g) k (xs.all (fun x => x.lock && x.mfLock)))

/-- Whether a defect above the group stands on a member (R124): levels 1 and 2 of its port, LOF or LOMF of an instance; or the group carries nothing (R102). -/
def State.membersDown (s : State) (g : Nat) : Bool := !s.flxCarries g || (s.flxMembers g).any fun m =>
  s.rd (PORT_STAT.LOS m.2) == 1 || s.rd (PORT_STAT.LOL m.2) == 1 || s.rd (PORT_STAT.HI_BER m.2) == 1 ||
    !bitOf (s.rd (FLX_STAT.OF_LOCK g)) m.1 || !bitOf (s.rd (FLX_STAT.MF_LOCK g)) m.1

/-- The detectors of a group's clients are held in their reset state (R124). -/
def clientsReset (g : Nat) : Prog := .look fun s => each (s.tabIndices (64 + g) 4) fun i =>
  setReg (64 + g) (0x1000 + 4 * i) (s.reg (64 + g) (0x1000 + 4 * i) &&& 0x20)

/-- The calendar comparison of a group's instances is held in its reset state (R124). -/
def calmReset (g : Nat) : Prog := .look fun s => .andThen (setF (FLX_STAT.CALM g) 0)
  (each ((s.flxMembers g).flatMap (fun m => (List.range 4).map (fun i => 4 * m.2 + i))) fun k =>
    .put (.instX k { s.instXAt k with calmBad := 0, calmGood := 0, calm := false, mfCrc := false, mfBad := false }))

/-- The detectors of a group that a present defect of a higher level suppresses are held in their reset state (R124): below the members' defects GSE, CALM and the clients'; below GSE
CALM and the clients'; below CALM the clients'. -/
def groupHold (g : Nat) : Prog := .look fun s =>
  let up := s.membersDown g
  let gse := s.rd (FLX_STAT.GSE g) == 1
  seqs [
    onlyIf up (setF (FLX_STAT.GSE g) 0),
    onlyIf (up || gse) (calmReset g),
    .look fun t => onlyIf (up || gse || t.rd (FLX_STAT.CALM g) == 1) (clientsReset g)]

/-- What FLX_STAT shows of a member that carries nothing: no lock and no RPF. -/
def memberClear (g k : Nat) : Prog :=
  seqs [setBitF (FLX_STAT.OF_LOCK g) k false, setBitF (FLX_STAT.MF_LOCK g) k false, setBitF (FLX_STAT.RPF_RX g) k false]

/-- The ports that a group holds. -/
def State.flxPorts (s : State) (g : Nat) : List Nat := (List.range 48).filter (fun p => s.flxHeldAt p == some g)

/-- A group gives ports back: their instances are searched no longer. -/
def flxRelease (ps : List Nat) : Prog := each ps fun p => seqs [
  .put (.flxHeld p none),
  showFlexe p false,
  each (List.range 4) (fun i => .put (.instX (4 * p + i) {}))]

/-- A group takes a port: LF and RF, which are no defects of a FlexE port, end there (R123), and its instances begin their search. -/
def flxTake (g p : Nat) : Prog := .look fun s => onlyIf (s.flxHeldAt p != some g) (seqs [
  .put (.flxHeld p (some g)),
  showFlexe p true,
  setF (PORT_STAT.LF p) 0,
  setF (PORT_STAT.RF p) 0,
  each (List.range 4) (fun i => .put (.instX (4 * p + i) {}))])

/-- The bits of a group's members follow the ports it holds, and what its defects suppress is held reset (R124); a group that carries nothing has no defect of its own. -/
def flxShow (g : Nat) : Prog := .look fun s => seqs [
  each (List.range 8) (fun k => match (s.flxMembers g).find? (fun m => m.1 == k) with
    | some m => if s.flxHeldAt m.2 == some g then showLocks g k m.2 else memberClear g k
    | none => memberClear g k),
  groupHold g,
  groupRefresh g]

/-- The check of a group at a commit (R102): it takes its ports, or it is down with CFG_ERR. -/
def flxJudge (g : Nat) : Prog := .look fun s =>
  let ms := (s.flxMembers g).map (fun m => m.2)
  let held := s.flxPorts g
  seqs [
    (if s.cfg (FLX_GROUP_CFG.EN g) == 0 then .andThen (flxRelease held) (setF (FLX_STAT.CFG_ERR g) 0)
     else if s.flxCheck g then seqs [
       flxRelease (held.filter (fun p => !ms.contains p)),
       each ms (flxTake g),
       setF (FLX_STAT.CFG_ERR g) 0]
     else seqs [flxRelease held, setF (FLX_STAT.CFG_ERR g) 1, raise (64 + g) 25]),
    flxShow g,
    each ((held ++ ms).filter (fun p => p < 48)) linkRefresh]

/-- The groups that a commit of a port's page concerns are judged (R102): those that can hold their ports no longer give them back before any is judged. -/
def flxJudgePort (p : Nat) : Prog := .look fun s =>
  let gs := (List.range 24).filter (fun g => (s.flxMembers g).any (fun m => m.2 == p) || s.flxHeldAt p == some g)
  let out := gs.filter (fun g => s.cfg (FLX_GROUP_CFG.EN g) == 0 || !s.flxCheck g)
  let ps := out.flatMap s.flxPorts
  seqs [flxRelease ps, each gs flxJudge, each ps linkRefresh]

/-- The frames in flight on a port are lost (R85): a frame in reception ends with a tail error, those that wait to be forwarded or sent are given back. -/
def portLose (p : Nat) : Prog := .look fun s =>
  let drop (l : List Pkt) : Prog := each l (fun x => derefBody x.body)
  seqs [
    onlyIf (s.rxNowAt p).isSome (.put (.rxCut p true)),
    .put (.rxFifo p []),
    drop (s.rxFifoAt p),
    rxLevelChanged p,
    (match s.txNowAt p with | some x => .andThen (.put (.txNow p none)) (drop [x]) | none => .skip),
    .put (.macQ p []),
    drop (s.macQAt p),
    .put (.pauseQ p [])]

/-- The lanes of a port as its committed mode and lane map place them (R81): the first lanes of RX_SEL and TX_SEL, the rest powered down and idle. -/
def portLanes (p : Nat) : Prog := .look fun s =>
  let n := modeLanes (s.cfg (PORT_MODE.MODE p))
  let sel (b : Nat) : List Nat := (List.range n).map (fun i => 4 * p + b / 4 ^ i % 4)
  let tx := sel (s.cfg (PORT_LANE_MAP.TX_SEL p))
  let rx := sel (s.cfg (PORT_LANE_MAP.RX_SEL p))
  let inv := (List.range 8).filter (fun i => bitOf (s.cfg (PORT_LANE_MAP.RX_INV p) + 16 * s.cfg (PORT_LANE_MAP.TX_INV p)) i)
  emit (.lanes p rx tx (((List.range 4).map (fun i => 4 * p + i)).filter (fun l => !tx.contains l)) (inv.map (fun i => i / 4 * 192 + 4 * p + i % 4)))

/-- An accepted commit of a PORT page (R81, R83, R85, R102): the check and the lanes, the link dropped with its frames when MODE or FEC changed, to come up again when the
units have taken the commit (COMMIT_TAKEN), and the groups that name the port.  Negotiation and training that MODE, FEC, AN_EN or LT_EN ask for anew are not done (R86, R87). -/
def portCommit (p : Nat) (old : Word) : Prog := .look fun s =>
  let ok := s.portCfgOk p
  let changed := fieldOf old 3 0 != s.cfg (PORT_MODE.MODE p) || fieldOf old 10 8 != s.cfg (PORT_MODE.FEC p)
  let again := changed || fieldOf old 11 11 != s.cfg (PORT_MODE.AN_EN p)
  seqs [
    setF (PORT_STAT.CFG_ERR p) (b2n (!ok)),
    onlyIf (!ok) (raise (16 + p) 27),
    onlyIf ok (portLanes p),
    onlyIf again (setF (PORT_STAT.AN_DONE p) 0),
    onlyIf (again || fieldOf old 12 12 != s.cfg (PORT_MODE.LT_EN p)) (setF (PORT_STAT.LT_DONE p) 0),
    onlyIf changed (
      onlyIf (s.rd (PORT_STAT.LINK_UP p) == 1) (seqs [setF (PORT_STAT.LINK_UP p) 0, setF (PORT_STAT.FEC_LOCK p) 0, .put (.pauseSentAt p none), raise (16 + p) 21, portLose p])),
    bringUp p,
    flxJudgePort p,
    onlyIf (!changed) (.andThen (linkRefresh p) (onlyIf (s.rd (PORT_STAT.LINK_UP p) == 1) (pauseRefresh p)))]

/-! ### Overhead (R107 to R110) -/

/-- The blocks of an overhead frame (R107). -/
def ohFrame : Nat := 163688

/-- The member of a group that a port is, and the group. -/
def State.flxMember (s : State) (p : Nat) : Option (Nat × Nat) :=
  match s.flxHeldAt p with
  | none => none
  | some g => ((s.flxMembers g).find? (fun m => m.2 == p)).map (fun m => (g, m.1))

/-- The rank of an instance in its group: PHYs in order of PHY number, then instance (R103). -/
def State.instRank (s : State) (g k i : Nat) : Nat :=
  let n := s.cfg (FLX_MEMBER.PHY_NUM g k)
  ((s.flxMembers g).filter (fun m => s.cfg (FLX_MEMBER.PHY_NUM g m.1) < n)).length * s.phyInsts g + i

/-- The client number that a calendar expects at a position, 0 where unused (R106, R111). -/
def State.calNumber (s : State) (g cal pos : Nat) : Nat :=
  let e := s.tab (64 + g) cal pos
  if e.on (ed 0 31 31) then (s.tab (64 + g) 4 (e.f (ed 0 6 0))).f (ed 0 15 0) else 0

/-- The multiframe state of an instance `k` frames on (R109, R110): `good` says whether the frame that starts now is there and passes its CRC, with its OMF bit; the frames between
were missing.  Without a good frame nothing is compared or confirmed, but the frame is counted.  A boundary agrees when OMF is 0 and, where the frame before it was good,
was 1 there.  A candidate whose second boundary does not confirm it, that frame being missing or bad among them, is dropped (R109). -/
def mfStep (x : InstX) (k : Nat) (good omf : Bool) : InstX :=
  let n := (x.frameNo.getD 0 + k) % 32
  let second := x.frameNo.isSome && decide (32 ≤ x.frameNo.getD 0 + k)
  let known := x.omfOk && k == 1
  let falls := known && x.omf && !omf
  let y := { x with frameNo := x.frameNo.map (fun _ => n), omf := if good then omf else x.omf, omfOk := good }
  if !good then (if second && !x.mfLock then { y with frameNo := none } else y)
  else if x.mfLock then
    if n == 0 then
      let miss := if !omf && (!known || x.omf) then 0 else x.mfMiss + 1
      { y with mfMiss := miss, mfLock := decide (miss < 2) }
    else y
  else if falls then { y with frameNo := some 0, mfLock := x.frameNo.isSome && n == 0, mfMiss := 0 }
  else if second then { y with frameNo := none }
  else y

/-- The calendar comparison of an instance (R123 CALM): at the first frame of a multiframe the one before it is judged, if all its 32 frames passed their CRC: three in a row
with a difference, or without one; then the frame counts in its own multiframe.  `was`: the instance was in multiframe lock before; `k`: as in mfStep. -/
def calmStep (x : InstX) (was : Bool) (k : Nat) (good bad : Bool) : InstX :=
  let n := x.frameNo.getD 0
  let x := if was && x.mfLock && x.mfCrc && n + 1 == k then
      (if x.mfBad then { x with calmBad := min 3 (x.calmBad + 1), calmGood := 0, calm := x.calm || decide (3 ≤ x.calmBad + 1) }
       else { x with calmGood := min 3 (x.calmGood + 1), calmBad := 0, calm := x.calm && decide (x.calmGood + 1 < 3) })
    else x
  { x with mfCrc := good && (n == 0 || (k == 1 && x.mfCrc)), mfBad := (x.mfBad && n != 0) || (good && bad) }

/-- The start pattern of an overhead frame (R107): sync header 10, block type 0x4B and O-code 0x5. -/
def isOhStart (sync type ocode : Nat) : Bool := sync == 2 && type == 0x4B && ocode == 5

/-- The lock state of an instance after the block at `pos` (R107, R108): `pattern` says whether the start pattern is there, `good` whether the frame passes its CRC.  The second
part is the number of expected starts in lock that the block reaches or passes, the third whether a frame starts at the block.  A frame that fails its CRC neither is missing nor ends
a run of missing starts (R110). -/
def lockStep (x : InstX) (pos : Nat) (pattern good : Bool) : InstX × Nat × Bool :=
  if x.lock then
    if pos < x.last + ohFrame then (x, 0, false)
    else
      let k := (pos - x.last) / ohFrame
      let found := (pos - x.last) % ohFrame == 0 && pattern
      let missed := x.misses + (if found then k - 1 else k)
      if 5 ≤ missed then ({ x with lock := false, mfLock := false, frameNo := none, misses := 0, cands := if pattern then [pos] else [] }, 0, false)
      else ({ x with last := x.last + k * ohFrame, misses := if found && good then 0 else missed }, k, found)
  else
    let live := x.cands.filter (fun c => pos ≤ c + ohFrame)
    match live with
    | c :: r =>
      if c + ohFrame == pos then
        (if pattern && good then ({ x with lock := true, last := pos, misses := 0, cands := [], frameNo := none, mfLock := false, omfOk := false }, 1, true)
         else ({ x with cands := if pattern then r ++ [pos] else r }, 0, false))
      else ({ x with cands := if pattern then live ++ [pos] else live }, 0, false)
    | [] => ({ x with cands := if pattern then [pos] else [] }, 0, false)

/-- The lock of an instance (R123 levels 3 and 4) changes: shown, with its interrupts; what it suppresses is reset (R124), and the group follows. -/
def lockChanged (g k p : Nat) (old new : InstX) : Prog := seqs [
  showLocks g k p,
  onlyIf (old.lock && !new.lock) (raise (64 + g) 16),
  onlyIf (old.mfLock && !new.mfLock && new.lock) (raise (64 + g) 17),
  onlyIf (old.lock != new.lock || old.mfLock != new.mfLock) (.andThen (groupHold g) (groupRefresh g))]

/-- The member and instance whose slots stand at a position of a group's calendars (R103), as the member's port. -/
def State.posPort (s : State) (g pos : Nat) : Option Nat :=
  ((s.flxMembers g).find? (fun m => s.instRank g m.1 0 ≤ pos / 20 && pos / 20 < s.instRank g m.1 0 + s.phyInsts g)).map (fun m => m.2)

/-- The client number that the overhead carries for a position (R106): 0xFFFF at the positions of an instance whose member is down, which a defect of level 1 or 2 on its port
makes it (log entry 92). -/
def State.ohNumber (s : State) (g cal pos : Nat) : Nat :=
  match s.posPort g pos with
  | some p => if s.rd (PORT_STAT.LOS p) == 1 || s.rd (PORT_STAT.LOL p) == 1 || s.rd (PORT_STAT.HI_BER p) == 1 then 0xFFFF else s.calNumber g cal pos
  | none => s.calNumber g cal pos

/-- A group's overhead carries the client numbers of a transmit calendar, if it carries overhead at all (R102, R106). -/
def sendNumbers (g cal : Nat) : Prog := .look fun s =>
  onlyIf (s.flxCarries g) (emit (.ohNumbers g cal ((List.range 640).map (s.ohNumber g cal))))

/-- A member has gone down or come back: the numbers of the calendar in use, and of the one that an exchange has put into the overhead, follow (R106). -/
def numbersFollow (g : Nat) : Prog := .look fun s =>
  let c := s.rd (FLX_CAL_CTRL.TX_C g)
  .andThen (sendNumbers g c) (onlyIf (2 ≤ (s.flxExAt g).step) (sendNumbers g (1 - c)))

/-- The overhead that a group's members send now (R113, R114): C names the calendar in use, CR the one asked for, or the one in use where none is, CA the one that the partner's CR
names; a group that carries no overhead sends none (R102). -/
def sendOverhead (g : Nat) : Prog := .look fun s =>
  let c := s.rd (FLX_CAL_CTRL.TX_C g) == 1
  onlyIf (s.flxCarries g) <| emit (.overhead g c (c != (s.rd (FLX_STAT.CR_TX g) == 1)) (s.flxExAt g).rxCr)

/-- The overhead fields of a CRC-good frame (R113 to R115, R127): received C, which names the calendar by which the group demaps, the partner's CR and CA, RPF. -/
def ohFields (g k : Nat) (c cr ca rpf : Bool) : Prog := .look fun s =>
  let x := s.flxExAt g
  let want := s.rd (FLX_CAL_CTRL.TX_C g) == 0
  seqs [
    onlyIf (s.rd (FLX_CAL_CTRL.RX_C g) != b2n c) (.andThen (setF (FLX_CAL_CTRL.RX_C g) (b2n c)) (emit (.calendar g false (s.calClients g (if c then 3 else 2))))),
    onlyIf (cr != x.rxCr) (.andThen (.put (.flxEx g { x with rxCr := cr })) (sendOverhead g)),
    onlyIf (x.step == 3 && ca == want) (setF (FLX_STAT.CA_RX g) 1),
    onlyIf (rpf && !bitOf (s.rd (FLX_STAT.RPF_RX g)) k) (raise (64 + g) 23),
    setBitF (FLX_STAT.RPF_RX g) k rpf]

/-- CALM of a group follows its instances, while nothing above suppresses it (R123, R124). -/
def calmFollow (g : Nat) : Prog := .look fun s =>
  let calm := !s.membersDown g && s.rd (FLX_STAT.GSE g) == 0 &&
    (s.flxMembers g).any (fun e => (List.range (s.phyInsts g)).any (fun i => (s.instXAt (4 * e.2 + i)).calm))
  onlyIf (s.rd (FLX_STAT.CALM g) != b2n calm) (seqs [
    setF (FLX_STAT.CALM g) (b2n calm), onlyIf calm (.andThen (raise (64 + g) 19) (clientsReset g)), groupRefresh g])

/-- OVERHEAD_BLOCK_RECEIVE (R107 to R110, R123): the block at position `pos` of an instance's stream, `pattern` being its sync header, block type and O-code, and the fields of the
overhead frame that would start there; `slotA` and `slotB` are the client numbers the frame carries for its slot.  Whether the frame passes its CRC-16 is an operand. -/
def execOverheadBlockReceive (port inst pos : Nat) (pattern : Nat × Nat × Nat) (crcOk omf c cr ca rpf : Bool) (groupNum phyNum slotA slotB : Nat) (s : State) :
    Host.Outcome State Fault Refusal :=
  command (.overheadBlockReceive port inst pos pattern crcOk omf c cr ca rpf groupNum phyNum slotA slotB) (.look fun s =>
    match s.flxMember port with
    | none => .skip
    | some (g, k) =>
      let clear := s.rd (PORT_STAT.LOS port) == 0 && s.rd (PORT_STAT.LOL port) == 0 && s.rd (PORT_STAT.HI_BER port) == 0
      let x := s.instXAt (4 * port + inst)
      let l := lockStep x pos (isOhStart pattern.1 pattern.2.1 pattern.2.2) crcOk
      let good := l.2.2 && crcOk
      let m := if l.2.1 == 0 then l.1 else mfStep l.1 l.2.1 good omf
      let slot := m.frameNo.getD 0
      let posn := 20 * s.instRank g k inst + slot
      let differs := m.mfLock && slot < 20 && (if c then slotB else slotA) != s.calNumber g (if c then 3 else 2) posn
      let bad := groupNum != s.cfg (FLX_GROUP_CFG.GROUP_NUM g) ||
        !((s.flxMembers g).any (fun e => s.cfg (FLX_MEMBER.PHY_NUM g e.1) == phyNum)) || differs
      let y := if l.2.1 == 0 then m else calmStep m x.mfLock l.2.1 good bad
      onlyIf (clear && inst < s.phyInsts g) (seqs [
        .put (.instX (4 * port + inst) y),
        onlyIf (l.2.2 && !crcOk) (.andThen (.put (.ohCrcBad (4 * port + inst) (s.ohCrcBadAt (4 * port + inst) + 1))) (raise (64 + g) 24)),
        onlyIf good (ohFields g k c cr ca rpf),
        lockChanged g k port x y,
        .look fun t => if t.membersDown g || t.rd (FLX_STAT.GSE g) == 1 then calmReset g else calmFollow g])) s

/-! ### Calendars and the cross-connect -/

/-- SWITCH of FLX_CAL_CTRL (R113, R114): an exchange starts; ignored while one is pending. -/
def calendarSwitch (g : Nat) : Prog := .look fun s =>
  onlyIf ((s.flxExAt g).step == 0)
    (.andThen (.put (.flxEx g { s.flxExAt g with step := 1, at_ := s.mono })) (setF (FLX_CAL_CTRL.SWITCH g) 1))

/-- What a connection joins to its destination: kind and index of the source, none without one. -/
def State.xcSource (s : State) (table d : Nat) : Option (Nat × Nat) :=
  let e := s.tab 88 table d
  if e.on (ed 0 31 31) && e.f (ed 0 30 29) != 0 then some (e.f (ed 0 30 29), e.f (ed 0 11 0)) else none

/-- ACTIVE and STANDBY change places (R119): the swap, its time, and the copy that may follow it.  A destination whose source changes refills its rate-adaptation queue, with at most
8 blocks of local fault, how many being left open (Config.xcRefill; log entry 75); the others carry on (R121). -/
def xcSwap (copy : Bool) : Prog := .look fun s =>
  let a := s.tabIndices 88 1
  let b := s.tabIndices 88 0
  seqs [
    each (a ++ b) (fun d => onlyIf (s.xcSource 0 d != s.xcSource 1 d) (.put (.xcRefill d (Config.xcRefill d s.mono % 9)))),
    each (a ++ b) (fun i => .andThen (.put (.tables (tabKey 88 1 i) (s.tab? 88 0 i))) (.put (.tables (tabKey 88 0 i) (s.tab? 88 1 i)))),
    setF XC_STAT.ACTIVE_PAGE (1 - s.rd XC_STAT.ACTIVE_PAGE),
    setF XC_SW_TIME_LO.reg (s.ns64 % 2 ^ 32),
    setF XC_SW_TIME_HI.reg (s.ns64 / 2 ^ 32),
    .put (.xcArm none),
    .put (.xcCopyAt (if copy then some s.mono else none)),
    setF XC_STAT.PEND (b2n copy),
    raise 88 16,
    xcActionsAt (a ++ b).eraseDups]

/-- CALENDAR_EXCHANGE_STEP (R113): the start of a transmit multiframe (`multiframe`) or overhead frame advances a group's exchange. -/
def execCalendarExchangeStep (group : Nat) (multiframe : Bool) (s : State) : Host.Outcome State Fault Refusal :=
  command (.calendarExchangeStep group multiframe) (.look fun s =>
    let x := s.flxExAt group
    let c := s.rd (FLX_CAL_CTRL.TX_C group)
    if x.step == 1 && multiframe then .andThen (.put (.flxEx group { x with step := 2 }))
      (sendNumbers group (1 - c))
    else if x.step == 2 && multiframe then
      let hs := s.cfg (FLX_GROUP_CFG.CA_HANDSHAKE group) == 1
      seqs [
        setF (FLX_STAT.CR_TX group) 1,
        setF (FLX_STAT.CA_RX group) 0,
        sendOverhead group,
        .put (.flxEx group { x with step := if hs then 3 else 4, at_ := s.mono })]
    else if x.step == 4 || (x.step == 3 && s.rd (FLX_STAT.CA_RX group) == 1) then seqs [
      setF (FLX_CAL_CTRL.TX_C group) (1 - c),
      setF (FLX_CAL_CTRL.SWITCH group) 0,
      setF (FLX_STAT.CR_TX group) 0,
      sendOverhead group,
      emit (.calendar group true (s.calClients group (1 - c))),
      .put (.flxEx group { x with step := 0 }),
      raise (64 + group) 21,
      each (s.flxPorts group) linkRefresh,
      (match s.xcArm with
        | some a =>
          if a.group != group then .skip
          else if a.skip then .put (.xcArm (some { a with skip := false }))
          else xcSwap a.copy
        | none => .skip)]
    else .skip) s

/-- CALENDAR_CA_TIMEOUT (R114, R119): CR is withdrawn, the old calendar kept, and a switch armed on the exchange is cancelled with code 4.  DESIGN CHOICE (log entry 92): ERR_INDEX 0 and
BLOCK_INT bit 17 with it, where the spec gives the code alone. -/
def execCalendarCaTimeout (group : Nat) (s : State) : Host.Outcome State Fault Refusal :=
  command (.calendarCaTimeout group) (.look fun s =>
    let x := s.flxExAt group
    onlyIf (x.step == 3 && s.rd (FLX_STAT.CA_RX group) == 0 && s.since x.at_ 100000000) (seqs [
      setF (FLX_STAT.CR_TX group) 0,
      setF (FLX_CAL_CTRL.SWITCH group) 0,
      sendOverhead group,
      .put (.flxEx group { x with step := 0 }),
      raise (64 + group) 22,
      (match s.xcArm with
        | some a =>
          if a.group != group then .skip
          else if a.skip then .put (.xcArm (some { a with skip := false }))
          else seqs [.put (.xcArm none), setF XC_STAT.PEND 0, setF XC_STAT.ERR_CODE 4, setF XC_STAT.ERR_INDEX 0, raise 88 17]
        | none => .skip)])) s

/-- The slots of a client in the calendar in use: transmit (`tx`) or receive; `flip` names a group whose transmit calendar will change. -/
def State.clientSlots (s : State) (tx : Bool) (flip : Option Nat) (i : Nat) : Nat :=
  let g := i / 128
  let c := if tx then (if flip == some g then 1 - s.rd (FLX_CAL_CTRL.TX_C g) else s.rd (FLX_CAL_CTRL.TX_C g)) else 2 + s.rd (FLX_CAL_CTRL.RX_C g)
  s.calSlots g c (i % 128)

/-- The check of one STANDBY entry (R118): the error code, 0 when it passes. -/
def State.xcCheck (s : State) (flip : Option Nat) (d : Nat) : Nat :=
  let e := s.tab 88 0 d
  let kind := e.f (ed 0 30 29)
  let i := e.f (ed 0 11 0)
  let dRate := if d < 3072 then s.clientSlots true flip d else (s.tab 240 1 (d - 3072)).f (ed 1 7 0)
  let sRate := if kind == 1 then s.clientSlots false flip i else (s.tab 240 2 i).f (ed 0 7 0)
  if !e.on (ed 0 31 31) then 0
  else if d < 3072 && !s.switched d then 5
  else if kind == 1 && !s.switched i then 2
  else if kind == 2 && 3072 ≤ d then 3
  else if kind != 0 && dRate != sRate then 1
  else 0

/-! ### Blocks through the cross-connect (R21, R116, R121, R122) -/

/-- An idle block: sync header 10, block type 0x1E, eight idle characters. -/
def idleBlock : Nat := 2 * 2 ^ 64 + 0x1E * 2 ^ 56

/-- A block of local fault: sync header 10, block type 0x4B, data 00 00 01, O-code 0. -/
def faultBlock : Nat := 2 * 2 ^ 64 + 0x4B * 2 ^ 56 + 2 ^ 32

/-- An idle block is inserted beside the first idle block of a gap. -/
def idleInsert : List Nat → List Nat
  | [] => []
  | b :: r => if b == idleBlock then b :: b :: r else b :: idleInsert r

/-- One of two adjacent idle blocks is deleted. -/
def idleDelete : List Nat → List Nat
  | b :: c :: r => if b == idleBlock && c == idleBlock then c :: r else b :: idleDelete (c :: r)
  | l => l

/-- The interval of 29 blocks at a rate of `rate` slots of 5.15625 Gb/s, in units of 10^-5 ns (R337, R372). -/
def slotCellTime (rate : Nat) : Nat := 29 * 66 * 10000000000 / (515625 * max 1 rate)

/-- When the next 29 blocks of a stream are due, in units of 10^-5 ns, after the last at `last` (0: none): one interval later, or now where the stream has stood still. -/
def State.blocksDue (s : State) (last rate : Nat) : Nat :=
  let now := (s.mono + 1) * 100000
  if last == 0 || last + 2 * slotCellTime rate + 200000 < now then now else last + slotCellTime rate

/-- The 29 blocks of 66 bits that a local client receives as the `n`-th of its stream: no command brings them (log entry 61). -/
def clientBlocks (i n : Nat) : List Nat := (List.range 29).map (fun k => (Config.clientBlock i n k).toNat)

/-- Blocks go to a destination client (R121, R122): after the local fault of a queue that refills, and with an idle block inserted or deleted where the rates ask for it, which is open, but
at most once in 10,005 blocks, 100 ppm (log entry 61); the client counts what it sends (R593). -/
def xcDeliver (d : Nat) (blocks : List Nat) : Prog := .look fun s =>
  let x := s.xcAdaptAt d
  let op := if x < 345 then 0 else Config.xcAdapt d s.mono % 3
  let out := if op == 1 then idleInsert blocks else if op == 2 then idleDelete blocks else blocks
  seqs [
    .put (.xcAdapt d (if out.length == blocks.length then min 345 (x + 1) else 0)),
    emit (.client d (s.xcRefillAt d) out),
    count 1 (8 * d + 2) (out.length + s.xcRefillAt d),
    count 1 (8 * d + 5) (out.length - blocks.length),
    count 1 (8 * d + 6) (blocks.length - out.length),
    .put (.xcRefill d 0)]

/-- The blocks of a source that has not failed reach the cross-connect and go to every client that ACTIVE joins to it (R21, R116, R126). -/
def xcFeed (kind i : Nat) (blocks : List Nat) : Prog := .look fun s =>
  each ((s.tabIndices 88 1).filter (fun d => d < 3072 && s.xcSource 1 d == some (kind, i) && !s.xcSourceDown (s.xcEntry d))) fun d => xcDeliver d blocks

/-- A local client whose blocks a connection takes receives its next 29 blocks once they are due, at the rate of its slots, while its group carries it. -/
def clientStep (i : Nat) : Prog := .look fun s =>
  let n := s.clientSlots false none i
  let x := s.clientFeedAt i
  let due := s.blocksDue x.1 n
  onlyIf (n != 0 && s.flxCarries (i / 128) && s.switched i && due ≤ (s.mono + 1) * 100000)
    (.andThen (.put (.clientFeed i (due, x.2 + 1))) (xcFeed 1 i (clientBlocks i x.2)))

/-- A switched client without a live source sends 29 blocks of local fault once they are due, at the rate of its transmit slots (R126, R593). -/
def faultStep (d : Nat) : Prog := .look fun s =>
  let n := s.clientSlots true none d
  let x := s.clientFeedAt (4096 + d)
  let due := s.blocksDue x.1 n
  onlyIf (n != 0 && s.flxCarries (d / 128) && (!(s.xcEntry d).joined || s.xcSourceDown (s.xcEntry d)) && due ≤ (s.mono + 1) * 100000)
    (seqs [.put (.clientFeed (4096 + d) (due, x.2 + 1)), count 1 (8 * d + 2) 29, count 1 (8 * d + 3) 29])

/-- The switched clients. -/
def State.switchedClients (s : State) : List Nat := (List.range 24).flatMap fun g =>
  ((s.tabIndices (64 + g) 4).filter (fun i => s.switched (128 * g + i))).map (fun i => 128 * g + i)

/-- What the cross-connect does as a nanosecond passes: its local sources receive, at most two groups of 29 blocks each, and destinations without a source send local fault. -/
def xcTick : Prog := .look fun s => seqs [
  each ((s.tabIndices 88 1).filterMap (fun d => match s.xcSource 1 d with | some (1, i) => some i | _ => none)).eraseDups (fun i => .andThen (clientStep i) (clientStep i)),
  each s.switchedClients (fun d => .andThen (faultStep d) (faultStep d))]

/-- GO of XC_SWITCH (R118 to R120): busy while a switch is armed or a copy runs (code 6); else the check, and the swap or its arming.  The check uses the calendars after the exchange
at which the swap will take place: one already under way flips TX_C first.  DESIGN CHOICE (log entry 76): MODE 2 and 3, reserved, act as MODE 0, and MODE 1 with a GROUP of 24 or more arms
a swap for which no exchange comes, with PEND left set; (log entry 92): a GO ignored as busy raises BLOCK_INT bit 17 and keeps ERR_INDEX. -/
def xcSwitch : Prog := .look fun s =>
  let armed := s.rd XC_SWITCH.MODE == 1
  let g := s.rd XC_SWITCH.GROUP
  let copy := s.rd XC_SWITCH.COPY == 1
  let flip := if armed && (s.flxExAt g).step == 0 then some g else none
  let bad := (s.tabIndices 88 0).find? (fun d => s.xcCheck flip d != 0)
  if s.rd XC_STAT.PEND == 1 then .andThen (setF XC_STAT.ERR_CODE 6) (raise 88 17)
  else match bad with
  | some d => seqs [
      setF XC_STAT.ERR_CODE (s.xcCheck flip d), setF XC_STAT.ERR_INDEX d, raise 88 17]
  | none => seqs [
      setF XC_STAT.ERR_CODE 0,
      (if armed then .andThen (.put (.xcArm (some { group := g, copy := copy, skip := (s.flxExAt g).step != 0 }))) (setF XC_STAT.PEND 1)
       else xcSwap copy)]

/-- XC_COPY_DONE (R120): the new ACTIVE page is copied into STANDBY and PEND clears. -/
def execXcCopyDone (s : State) : Host.Outcome State Fault Refusal :=
  command .xcCopyDone (.look fun s =>
    onlyIf s.xcCopyAt.isSome (seqs [
      each (s.tabIndices 88 0) (fun i => .put (.tables (tabKey 88 0 i) none)),
      each (s.tabIndices 88 1) (fun i => .put (.tables (tabKey 88 0 i) (s.tab? 88 1 i))),
      .put (.xcCopyAt none),
      setF XC_STAT.PEND 0])) s

/-! ### Defects (R123 to R126) -/

/-- The level of a defect (R123): 1 LOS, 2 LOL, 3 HI_BER, 4 LOF, 5 LOMF, 6 GSE, 7 CALM, 8 LOSYNC, 9 AIS, 10 LF, 11 RF, 12 RAO. -/
def defectLevel (d : Nat) : Nat := [0, 1, 2, 2, 3, 4, 5, 6, 7, 7, 7, 7, 7][d]?.getD 0

/-- The instances of a port are held in their reset state (R124). -/
def instsReset (p : Nat) : Prog := .look fun s => .andThen
  (each (List.range 4) (fun i => onlyIf (s.instXAt (4 * p + i) != {}) (.put (.instX (4 * p + i) {}))))
  (match s.flxMember p with
    | some (g, k) => .andThen (showLocks g k p) (setBitF (FLX_STAT.RPF_RX g) k false)
    | none => .skip)

/-- The PORT_STAT field and BLOCK_INT bit of a port's defect (R123; AIS has none). -/
def portDefect (p d : Nat) : Option (Fld × Nat) :=
  if d == 1 then some (PORT_STAT.LOS p, 16) else if d == 2 then some (PORT_STAT.LOL p, 17) else if d == 3 then some (PORT_STAT.HI_BER p, 18)
  else if d == 10 then some (PORT_STAT.LF p, 19) else if d == 11 then some (PORT_STAT.RF p, 20) else none

/-- Whether a port's present defects suppress one of a level (R124). -/
def State.portSuppresses (s : State) (p level : Nat) : Bool :=
  (1 < level && s.rd (PORT_STAT.LOS p) == 1) || (2 < level && (s.rd (PORT_STAT.LOL p) == 1 || s.rd (PORT_STAT.HI_BER p) == 1))

/-- A defect of a port is entered or left (R123, R124, R126); LF and RF are defects of ports outside FlexE. -/
def portDefectSet (p d : Nat) (v : Bool) : Prog := .look fun s =>
  match portDefect p d with
  | none => .skip
  | some (f, bit) =>
    onlyIf (s.rd f != b2n v && (!v || !s.portSuppresses p (defectLevel d)) && (d ≤ 3 || (s.flxHeldAt p).isNone)) (seqs [
      pmMark p,
      setF f (b2n v),
      onlyIf v (raise (16 + p) bit),
      onlyIf (v && d == 1) (seqs [setF (PORT_STAT.LOL p) 0, setF (PORT_STAT.HI_BER p) 0]),
      onlyIf (v && d ≤ 3) (seqs [setF (PORT_STAT.LF p) 0, setF (PORT_STAT.RF p) 0, instsReset p]),
      linkRefresh p,
      (match s.flxHeldAt p with
        | some g => seqs [onlyIf (v && d ≤ 3) (groupHold g), onlyIf (d ≤ 3) (numbersFollow g), groupRefresh g]
        | none => .skip)])

/-- The FLX_CL_STAT bit of a client's defect. -/
def clientBit (d : Nat) : Option Nat :=
  if d == 8 then some 0 else if d == 10 then some 1 else if d == 11 then some 2 else if d == 9 then some 3 else if d == 12 then some 4 else none

/-- A defect of a client is entered or left (R123, R125). -/
def clientDefectSet (g i d : Nat) (v : Bool) : Prog := .look fun s =>
  match clientBit d with
  | none => .skip
  | some b =>
    onlyIf ((s.reg (64 + g) (0x1000 + 4 * i)).getLsbD b != v && (!v || !(s.membersDown g || s.rd (FLX_STAT.GSE g) == 1 || s.rd (FLX_STAT.CALM g) == 1))) (seqs [
      pmMark (64 + 128 * g + i),
      setReg (64 + g) (0x1000 + 4 * i) (setFieldOf (s.reg (64 + g) (0x1000 + 4 * i)) b b (b2n v)),
      onlyIf v (raise (64 + g) 20),
      groupRefresh g])

/-- A defect of a scope is entered or left: scope 0 port, 1 instance (4 * port + instance; its lock rules enter and leave LOF and LOMF, and an
entry here drops the lock), 2 group, 3 client (128 * group + index), 4 fabric receive channel. -/
def defectSet (scope index d : Nat) (v : Bool) : Prog := .look fun s =>
  if scope == 0 then onlyIf (index < 48) (portDefectSet index d v)
  else if scope == 1 then
    (match s.flxMember (index / 4) with
      | some (g, k) =>
        let x := s.instXAt index
        let y := if d == 4 then { x with lock := false, mfLock := false, frameNo := none, cands := [] } else { x with mfLock := false, frameNo := none }
        onlyIf (v && (d == 4 || d == 5)) (.andThen (.put (.instX index y)) (lockChanged g k (index / 4) x y))
      | none => .skip)
  else if scope == 2 then
    onlyIf (index < 24 && d == 6 && s.rd (FLX_STAT.GSE index) != b2n v && (!v || !s.membersDown index)) (seqs [
      setF (FLX_STAT.GSE index) (b2n v), onlyIf v (.andThen (raise (64 + index) 18) (groupHold index)),
      groupRefresh index])
  else if scope == 3 then onlyIf (index < 3072) (clientDefectSet (index / 128) (index % 128) d v)
  else onlyIf (index < 1024 && d == 9 && s.rd (XC_CH_STAT.RX_AIS index) != b2n v)
    (seqs [setF (XC_CH_STAT.RX_AIS index) (b2n v), onlyIf v (raise 88 18), xcActions])

/-- DEFECT_ENTRY (R123, R124). -/
def execDefectEntry (scope index defect : Nat) (s : State) : Host.Outcome State Fault Refusal :=
  command (.defectEntry scope index defect) (defectSet scope index defect true) s

/-- DEFECT_EXIT (R123, R124). -/
def execDefectExit (scope index defect : Nat) (s : State) : Host.Outcome State Fault Refusal :=
  command (.defectExit scope index defect) (defectSet scope index defect false) s

/-! ### Performance monitoring (R128 to R130) -/

/-- Availability after a second is judged (R129): ten severely errored seconds begin unavailable time and count in it; ten that are not
begin available time and count in it. -/
def pmAvail (h : List (Bool × Bool × Bool)) (unavail : Bool) : List (Bool × Bool × Bool) × Bool :=
  let ten := h.take 10
  if ten.length == 10 && !unavail && ten.all (fun x => x.2.1) then (ten.map (fun x => (x.1, x.2.1, true)) ++ h.drop 10, true)
  else if ten.length == 10 && unavail && ten.all (fun x => !x.2.1) then (ten.map (fun x => (x.1, x.2.1, false)) ++ h.drop 10, false)
  else (h, unavail)

/-- PM_SECOND (R128 to R130): a second of a port, or of client `index` of all groups, is judged at the boundary of TAI seconds that ends it: a
defect was present in it if one was entered or left in it, or stands since before it (R128).  The units of a client's stream count as its blocks, the errored ones as its invalid
blocks; those of a port as uncorrectable codewords with RS-FEC, else as invalid 66-bit blocks, beside the port's corrected codewords and symbols and the codewords of its lanes 0 to 3 (R593): DESIGN CHOICE
(log entry 86), no command of the table brings them singly. -/
def execPmSecond (client : Bool) (index errored : Nat) (units : Nat × List Nat) (s : State) : Host.Outcome State Fault Refusal :=
  command (.pmSecond client index errored units) (.look fun s =>
    let key := if client then 64 + index else index
    let base := if client then 0x1400 + 16 * (index % 128) else 0x240
    let page := if client then 64 + index / 128 else 16 + index
    let x := s.pmXAt key
    let now := s.pmDefectNow client index
    let present := x.marks.contains (s.sec - 1) || (now && !x.marks.contains s.sec)
    let ses := present || (0 < units.1 && 30 * units.1 ≤ 100 * errored)
    let es := ses || 0 < errored
    let a := pmAvail ((es, ses, x.unavail) :: x.hist) x.unavail
    let done := a.1.drop 10
    let bump (o : Nat) : Prog := .look fun t => setReg page (base + o) (BitVec.ofNat 32 (satAdd 32 (t.reg page (base + o)).toNat 1))
    let hist := ((a.1.take 10).zipIdx.foldl (fun n y => n + (if y.1.2.1 then 2 ^ y.2 else 0)) 0)
    onlyIf (if client then decide (index < 3072) else decide (index < 48)) (
      if client then .andThen (count 1 (8 * index) units.1) (count 1 (8 * index + 1) errored)
      else .andThen (count 0 (128 * index + (if s.cfg (PORT_MODE.FEC index) == 2 || s.cfg (PORT_MODE.FEC index) == 3 then 65 else 67)) errored)
        (each (units.2.zip [64, 66, 71, 72, 73, 74, 75, 76, 77, 78]) (fun x => count 0 (128 * index + x.2) x.1)))
    |>.andThen <| onlyIf ((if client then decide (index < 3072) else decide (index < 48)) && x.lastSec < s.sec) (seqs [
      .put (.pmX key { x with lastSec := s.sec, hist := a.1.take 10, unavail := a.2 }),
      each done (fun y => if y.2.2 then bump 8 else .andThen (onlyIf y.1 (bump 0)) (onlyIf y.2.1 (bump 4))),
      setReg page (base + 12) (BitVec.ofNat 32 (b2n a.2 * 2 ^ 31 + hist)),
      onlyIf (!client && ses) (raise page 25),
      onlyIf (!client && a.2 != x.unavail) (raise page 26)])) s

end Sys2Proof.Machine
end

