-- ==== Sys2Proof/Machine/Time.lean ====
section
/-!
DEFINITION. The time base (spec/11_time.md): the two clocks and their steering, the time sources, the timing connector and the
transmit-timestamp FIFO.
-/
namespace Sys2Proof.Machine

/-- A 32-bit register value as a signed number. -/
def signed32 (n : Nat) : Int := if n < 2 ^ 31 then (n : Int) else (n : Int) - 2 ^ 32

/-- A signed number cut to the range [-m, m]. -/
def clampInt (m : Nat) (i : Int) : Int := max (-(m : Int)) (min m i)

/-- The frequency adjustment in force, 1/256 ppb (R420, R424): the committed PTP_ADJ_FREQ within 1,000 ppm; in HOLDOVER the own rate of
REF10M_IN while HOLD_REF and REF10M_OK are 1, and otherwise the frequency held. -/
def State.rateAdj (s : State) : Int :=
  match s.holdFreq with
  | none => clampInt 256000000 (signed32 (s.cfg PTP_ADJ_FREQ.reg))
  | some f => if s.on PTP_SRC_CFG.HOLD_REF && s.rd PTP_STAT.REF10M_OK == 1 then 0 else f

/-- What the time base adds in a clock, in 2^-16 ns and in the parts below it: 1 ns adjusted by the frequency in force (R415, R420). -/
def State.advance (s : State) : Nat × Nat :=
  let d : Nat := 256 * 1000000000
  let total := (65536 * (d : Int) + 65536 * s.rateAdj).toNat + s.rateRem
  (total / d, total % d)

/-- MONO after one clock (R417). -/
def State.monoNext (s : State) : Nat := (s.mono16 + s.advance.1) % (65536 * 2 ^ 64)

/-- One clock of the time base (R415, R417, R422): device time advances as MONO does, and by the slew under way, 100 ppm; the backup domain's RTC counts on its own (R647). -/
def tick : Prog := .look fun s =>
  let sl := 65536 + s.slewRem
  let step : Int := clampInt (sl / 10000) s.slewLeft
  seqs [
    .put (.rateRem s.advance.2),
    .put (.rtcNs ((s.rtcNs + 1) % (2 ^ 48 * 1000000000))),
    .put (.time16 ((s.time16 + s.advance.1 : Nat) + step).toNat),
    onlyIf (s.slewLeft != 0) (.put (.slewRem (sl % 10000))),
    .put (.slewLeft (s.slewLeft - step))]

/-- The number of 2^-16 ns units in 2^48 seconds, where device time wraps (R434). -/
def timeWrap : Nat := 2 ^ 48 * 1000000000 * 65536

/-- A step of device time (R421): SET loads, ADD and SUBTRACT move it; a slew under way is cancelled (R422). -/
def stepTime (mode sec ns : Nat) : Prog := .look fun s =>
  let d := (sec * 1000000000 + ns) * 65536
  let t := if mode == 1 then (s.time16 + d) % timeWrap
    else if mode == 2 then (s.time16 + timeWrap - d % timeWrap) % timeWrap
    else (d + s.frac) % timeWrap
  seqs [.put (.stepDelta ((t : Int) - s.time16)), .put (.time16 t), .put (.slewLeft 0), .put (.stepAt (some s.mono)), .put (.stepPend none), .put (.snapAt none), raise 12 16, sideband [1, t]]

/-- The operands of a step as committed: mode, seconds, nanoseconds. -/
def State.stepArgs (s : State) : Nat × Nat × Nat :=
  (s.cfg PTP_STEP_CTRL.MODE, s.cfg PTP_STEP_SEC_LO.reg + (s.cfg PTP_STEP_SEC_HI.reg % 65536) * 2 ^ 32, s.cfg PTP_STEP_NS.reg % 2 ^ 30)

/-- The state of the time source moves (R423); each change sets STATE_CHG. -/
def setTimeState (st : Nat) : Prog := .look fun s =>
  onlyIf (s.rd PTP_STAT.STATE != st) (.andThen (setF PTP_STAT.STATE st) (raise 12 17))

/-- The selected source (R423): reserved codes act as none. -/
def State.timeSrc (s : State) : Nat := let c := s.cfg PTP_SRC_CFG.SRC; if c < 4 then c else 0

/-- An accepted commit has been taken (R68): PENDING clears, DONE and COMMIT_DONE are set. -/
def commitDone (page : Nat) : Prog := seqs [
  setF (BLK_COMMIT_STAT.PENDING page) 0, setF (BLK_COMMIT_STAT.DONE page) 1, .put (.commitLate page false), raise page 2]

/-- What an accepted commit of the PTP page starts (R420 to R423). -/
def ptpCommit : Prog := .look fun s =>
  let a := s.stepArgs
  let slew := clampInt 1000000000 (signed32 (s.cfg PTP_SLEW.reg))
  seqs [
    onlyIf (s.cfg PTP_STEP_CTRL.GO == 1) (seqs [
      setF PTP_STEP_CTRL.GO 0,
      either (s.cfg PTP_STEP_CTRL.AT_SEC == 1)
        (.andThen (.put (.stepPend (some (a.1, a.2.1, a.2.2, s.sec + 1)))) (.put (.commitLate 12 true)))
        (stepTime a.1 a.2.1 a.2.2)]),
    onlyIf (slew != 0) (seqs [setF PTP_SLEW.reg 0, .put (.slewLeft (slew * 65536)), .put (.slewRem 0)]),
    onlyIf (s.rd PTP_STAT.STATE == 2) (.put (.freqLog ((s.mono, clampInt 256000000 (signed32 (s.cfg PTP_ADJ_FREQ.reg))) :: s.freqLog))),
    onlyIf (s.timeSrc == 0) (seqs [
      setTimeState 0, setF PTP_STAT.TIME_VALID 0, .put (.lockCount 0), .put (.holdFreq none)])]

/-- The frequency averaged over the last 1,000 s in LOCKED (R424), from the log of adjustments, newest first: `t` is the end of the
span still to cover and `left` what is left of the 1,000 s. -/
def avgFreq : List (Nat × Int) → Nat → Nat → Int → Int
  | [], _, left, acc => acc / ((max 1 (1000000000000 - left) : Nat) : Int)
  | (t0, f) :: r, t, left, acc =>
    let span := min left (t - t0)
    if left ≤ span then (acc + f * span) / (1000000000000 : Int) else avgFreq r (min t t0) (left - span) (acc + f * span)

/-- Loss of the source in LOCKED enters HOLDOVER, with the frequency to hold there (R423, R424). -/
def enterHoldover : Prog := .look fun s =>
  onlyIf (s.rd PTP_STAT.STATE == 2) (seqs [
    setTimeState 3,
    .put (.lockCount 0),
    .put (.holdFreq (some (avgFreq s.freqLog s.mono 1000000000000 0)))])

/-- A measurement of the offset to the selected source (R423): it moves the state towards LOCKED, which 16 consecutive offsets within
100 ns reach. -/
def measureSource (offset : Int) : Prog := .look fun s =>
  let good := decide (offset ≤ 100) && decide (-100 ≤ offset)
  let sat := clampInt (2 ^ 31 - 1) offset
  onlyIf (s.timeSrc != 0) (seqs [
    setF PTP_OFFSET.reg (Int.toNat (Int.emod sat 4294967296)),
    onlyIf (s.rd PTP_STAT.STATE == 0 || s.rd PTP_STAT.STATE == 3)
      (seqs [setTimeState 1, .put (.lockCount 0), .put (.holdFreq none)]),
    .look fun t => onlyIf (t.rd PTP_STAT.STATE == 1) (
      let n := if good then t.lockCount + 1 else 0
      .andThen (.put (.lockCount n)) (onlyIf (n == 16) (seqs [
        setTimeState 2, setF PTP_STAT.TIME_VALID 1, setF PTP_STAT.SRC_IN_USE t.timeSrc,
        .put (.freqLog [(t.mono, t.rateAdj)])])))])

/-- SLEW_END (R422): a slew that has applied its whole offset ends; its remainder register of the units reads 0. -/
def execSlewEnd (s : State) : Host.Outcome State Fault Refusal :=
  command .slewEnd (.look fun s => onlyIf (s.slewLeft == 0) (seqs [
    .put (.units (regKey 12 0x234) 0), .put (.slewRem 0)])) s

/-- TIME_SOURCE_MEASURE (R423): an offset measured, or the source found lost; the second part of `present` says whether REF10M_IN is good. -/
def execTimeSourceMeasure (present : Bool × Bool) (offset : Int) (s : State) : Host.Outcome State Fault Refusal :=
  command (.timeSourceMeasure present offset) (whenEnabled 12 <| .andThen (setF PTP_STAT.REF10M_OK (b2n present.2))
    (either present.1 (measureSource offset) (.andThen (.put (.lockCount 0)) enterHoldover))) s

/-- HOLDOVER_ENTER (R423, R424): the announce timeout of the profile, or two consecutive PPS_IN edges missing. -/
def execHoldoverEnter (s : State) : Host.Outcome State Fault Refusal :=
  command .holdoverEnter (.look fun s => onlyIf (s.timeSrc == 1 || 2 ≤ s.ppsMissed ||
        (match s.ppsGood with | some t => s.since t 2000100000 | none => false)) enterHoldover) s

/-- What has passed since the PPS_IN edge that the next one is expected from. -/
def State.ppsSpan (s : State) : Nat := match s.ppsGood with | some g => (s.mono + 2 ^ 64 - g) % 2 ^ 64 | none => 0

/-- Whether an edge comes within 100 µs of an expected instant (R425). DESIGN CHOICE (log 98): whole seconds after the last edge that did, or one second after the previous edge. -/
def State.ppsOnTime (s : State) : Bool :=
  match s.ppsGood with
  | none => true
  | some _ => (decide (999900000 ≤ s.ppsSpan) && decide ((s.ppsSpan + 100000) % 1000000000 ≤ 200000)) ||
      (match s.ppsLast with | some m => s.since m 999900000 && decide (s.mono ≤ m + 1000100000) | none => false)

/-- PPS_IN_EDGE (R425): the selected edge is captured less the cable delay, and with SRC 2 or 3 is the instant of a whole second; an edge
more than 100 µs from the expected instant counts as missing.  A line of TOD_RX names the second of the next edge (R427), the edge after it the second after. -/
def execPpsInEdge (falling : Bool) (s : State) : Host.Outcome State Fault Refusal :=
  command (.ppsInEdge falling) (whenEnabled 12 <| .look fun s =>
    let t : Nat := (s.ns64 + 2 ^ 64 - s.cfg PTP_PPS_CFG.PPS_IN_DELAY_NS) % 2 ^ 64
    let onTime := s.ppsOnTime
    let k : Nat := max 1 ((s.ppsSpan + 500000000) / 1000000000)
    let sub : Nat := t % 1000000000
    let frac : Int := if sub < 500000000 then (sub : Int) else (sub : Int) - 1000000000
    let secErr : Int := match s.timeSrc == 2, s.todSec with
      | true, some n => ((((t + 500000000) / 1000000000 : Nat) : Int) - (n + k - 1 : Nat)) * 1000000000
      | _, _ => 0
    onlyIf (falling == s.on PTP_SRC_CFG.PPS_IN_FALL) (seqs [
      setF PTP_PPS_IN_TS_LO.reg (t % 2 ^ 32), setF PTP_PPS_IN_TS_HI.reg (t / 2 ^ 32),
      raise 12 18,
      .put (.ppsLast (some s.mono)),
      setF PTP_STAT.PPS_IN_OK (b2n onTime),
      either onTime
        (.andThen (seqs [.put (.ppsMissed 0), .put (.ppsGood (some s.mono)), .put (.todSec (s.todSec.map (· + k)))]) (onlyIf (s.timeSrc == 2 || s.timeSrc == 3) (measureSource (frac + secErr))))
        (.andThen (.put (.ppsMissed (s.ppsMissed + 1)))
          (onlyIf (1 ≤ s.ppsMissed && (s.timeSrc == 2 || s.timeSrc == 3)) enterHoldover))])) s

/-- PPS_OUT_EDGE (R426): PPS_OUT rises PPS_OUT_ADV_NS before a whole second of device time, in the clock that reaches it, while TIME_VALID. -/
def execPpsOutEdge (s : State) : Host.Outcome State Fault Refusal :=
  command .ppsOutEdge (.look fun s =>
    let n := (s.ns64 + s.cfg PTP_PPS_CFG.PPS_OUT_ADV_NS) / 1000000000
    onlyIf (s.on PTP_SRC_CFG.PPS_OUT_EN && s.timeValid && (s.ppsOutSec != n || s.since s.ppsOutMono 100) && decide ((s.ns64 + s.cfg PTP_PPS_CFG.PPS_OUT_ADV_NS) % 1000000000 < 2))
      (seqs [.put (.ppsOutSec n), .put (.todTxSec 0), .put (.ppsOutMono s.mono), .put (.ppsHigh true), emit (.pin "PPS_OUT" true)])) s

/-- PPS_OUT falls 100 µs after it rose, and at once while TIME_VALID is 0 (R426). -/
def ppsFall : Prog := .look fun s =>
  onlyIf (s.ppsHigh && (!s.timeValid || s.since s.ppsOutMono 100000)) (.andThen (.put (.ppsHigh false)) (emit (.pin "PPS_OUT" false)))

/-- The characters of a string as byte values. -/
def chars (t : String) : List Nat := t.toList.map Char.toNat

/-- The value of decimal digits; none when a character is no digit or there is none. -/
def decimal? (l : List Nat) : Option Nat :=
  if l.isEmpty || l.any (fun c => c < 48 || 57 < c) then none else some (l.foldl (fun a c => a * 10 + (c - 48)) 0)

/-- The value of a hexadecimal digit. -/
def hexDigit? (c : Nat) : Option Nat :=
  if 48 ≤ c && c ≤ 57 then some (c - 48) else if 65 ≤ c && c ≤ 70 then some (c - 55) else if 97 ≤ c && c ≤ 102 then some (c - 87) else none

/-- The part of a list before a value, and the part after it. -/
def cutAt (v : Nat) : List Nat → Option (List Nat × List Nat)
  | [] => none
  | c :: r => if c == v then some ([], r) else (cutAt v r).map (fun p => (c :: p.1, p.2))

/-- The seconds of a TOD_RX line whose form and checksum are right (R427). -/
def parseTod (line : List Nat) : Option Nat :=
  let head := chars "$PLTOD,"
  if line.take 7 != head then none else
  match cutAt 44 (line.drop 7) with
  | none => none
  | some (secs, r1) =>
  match cutAt 44 r1 with
  | none => none
  | some (utc, r2) =>
  match cutAt 42 r2 with
  | none => none
  | some (flags, r3) =>
    let body := (line.drop 1).take (line.length - r3.length - 2)
    let sum := body.foldl (fun a c => a ^^^ c) 0
    let utcOk := (decimal? (match utc with | 43 :: t => t | 45 :: t => t | t => t)).isSome
    match r3 with
    | [a, b, 13, 10] =>
      match hexDigit? a, hexDigit? b with
      | some x, some y =>
        if x * 16 + y == sum && utcOk && flags.length == 2 && flags.all (fun c => (hexDigit? c).isSome) then decimal? secs else none
      | _, _ => none
    | _ => none

/-- TOD_RX_LINE (R427): accepted for seconds if its checksum passes and it arrives 10 ms to 900 ms after a PPS_IN edge. -/
def execTodRxLine (line : List Byte) (s : State) : Host.Outcome State Fault Refusal :=
  command (.todRxLine line) (whenEnabled 12 <| .look fun s =>
    let inTime := match s.ppsLast with
      | some m => s.since m 10000000 && decide (s.mono ≤ m + 900000000)
      | none => false
    onlyIf (s.on PTP_SRC_CFG.TOD_IN_EN) (
      match parseTod (line.map BitVec.toNat), inTime with
      | some n, true => .andThen (.put (.todSec (some (n - s.ppsSpan / 1000000000)))) (setF PTP_STAT.TOD_IN_OK 1)
      | _, _ => .andThen (setF PTP_STAT.TOD_IN_OK 0) (raise 12 20))) s

/-- The decimal digits of a number, as characters. -/
def digits (n : Nat) : List Nat := (Nat.toDigits 10 n).map Char.toNat

/-- Two upper-case hexadecimal digits. -/
def hex2 (n : Nat) : List Nat := [n / 16 % 16, n % 16].map (fun d => if d < 10 then 48 + d else 55 + d)

/-- The TOD_TX line that names a second (R427). -/
def todLine (s : State) (sec : Nat) : List Nat :=
  let off := s.rd PTP_UTC.OFFSET
  let utc := if off < 32768 then digits off else chars "-" ++ digits (65536 - off)
  let flags := s.rd PTP_STAT.TIME_VALID + 2 * s.rd PTP_UTC.LEAP61 + 4 * s.rd PTP_UTC.LEAP59 + 8 * b2n (s.rd PTP_STAT.STATE == 3)
  let body := chars "PLTOD," ++ digits sec ++ chars "," ++ utc ++ chars "," ++ hex2 flags
  chars "$" ++ body ++ chars "*" ++ hex2 (body.foldl (fun a c => a ^^^ c) 0) ++ [13, 10]

/-- TOD_TX_LINE (R427): one line, 100 ms to 500 ms after each PPS_OUT edge, naming the second that begins at the next edge. -/
def execTodTxLine (s : State) : Host.Outcome State Fault Refusal :=
  command .todTxLine (.look fun s =>
    onlyIf (s.on PTP_SRC_CFG.TOD_OUT_EN && s.todTxSec != s.ppsOutSec && s.since s.ppsOutMono 100000000 &&
        decide (s.mono ≤ s.ppsOutMono + 500000000))
      (.andThen (.put (.todTxSec s.ppsOutSec)) (emit (.tod (todLine s (s.ppsOutSec + 1)))))) s

/-- A transmit timestamp enters the PTP_TSF FIFO, or is discarded with OVERFLOW when it is full (R432). -/
def tsfPush (port msg dom seq sec ns : Nat) : Prog := .look fun s =>
  either (s.tsf.length < 4096)
    (.put (.tsf (s.tsf ++ [(port, msg, dom, seq, sec, ns)])))
    (.andThen (setF PTP_TSF_STAT.OVERFLOW 1) (raise 12 19))

end Sys2Proof.Machine
end

