-- ==== Sys2Proof/Machine/Gates.lean ====
section
/-!
DEFINITION. Time gates (spec/08_queues_and_scheduling.md R318 to R327): gate lists, windows, the fit of a frame, list changes.
-/
namespace Sys2Proof.Machine

/-! ### Lists and windows -/

/-- The entries of a list as one cycle runs them: each (STATES, ns), the last one held to the cycle's end, the list cut there (R318). -/
def gateCycle (cycle : Nat) : List (Nat × Nat) → Nat → List (Nat × Nat)
  | [], _ => []
  | [x], used => if used < cycle then [(x.1, cycle - used)] else []
  | x :: r, used => if cycle ≤ used then [] else (x.1, min x.2 (cycle - used)) :: gateCycle cycle r (used + x.2)

/-- A running list: its cycle's entries, the cycle and the base in ns of TAI. -/
structure GateList where
  entries : List (Nat × Nat)
  cycle : Nat
  base : Nat
  deriving DecidableEq, Repr

/-- The operational list of a port; none: every gate is open (R326). -/
def State.gateOper (s : State) (p : Nat) : Option GateList :=
  if s.rd (GATE_STAT.OPER_VALID p) == 1 then
    let c := s.rd (GATE_OPER_CYCLE.VALUE p)
    let l := (List.range (s.rd (GATE_OPER_LEN.VALUE p))).map (fun i => let e := s.tab (180 + p) 1 i; (e.f (ed 0 7 0), e.f (ed 1 29 0)))
    some { entries := gateCycle c l 0, cycle := c, base := (s.gateXAt p).base }
  else none

/-- The list in force at an instant of TAI: the pending one from its instant T on (R325). -/
def State.gateList (s : State) (p t : Nat) : Option GateList :=
  match (s.gateXAt p).pend with
  | some q => if q.at_ ≤ t then some { entries := gateCycle q.cycle q.list 0, cycle := q.cycle, base := q.base } else s.gateOper p
  | none => s.gateOper p

/-- The place of an instant in a list's cycle. -/
def GateList.offset (g : GateList) (t : Nat) : Nat := (((t : Int) - g.base) % (max 1 g.cycle : Nat)).toNat

/-- The entry at an offset of a cycle: its number, its STATES and what is left of it. -/
def gateFind : List (Nat × Nat) → Nat → Nat → Nat × Nat × Nat
  | [], n, _ => (n, 255, 0)
  | x :: r, n, o => if o < x.2 || r.isEmpty then (n, x.1, x.2 - o) else gateFind r (n + 1) (o - x.2)

/-- The gate states of a port at an instant of TAI (R318, R326). -/
def State.gateStates (s : State) (p t : Nat) : Nat :=
  match s.gateList p t with
  | some g => (gateFind g.entries 0 (g.offset t)).2.1
  | none => 255

/-- How long a class stays open over entries. -/
def openRun (tc : Nat) : List (Nat × Nat) → Nat
  | [] => 0
  | x :: r => if bitOf x.1 tc then x.2 + openRun tc r else 0

/-- The time left of a class's window from an instant; none: endless (R323). -/
def GateList.left (g : GateList) (t tc : Nat) : Option Nat :=
  if g.entries.all (fun x => bitOf x.1 tc) then none
  else
    let f := gateFind g.entries 0 (g.offset t)
    if bitOf f.2.1 tc then some (f.2.2 + openRun tc (g.entries.drop (f.1 + 1) ++ g.entries)) else some 0

/-- The time left of a class's window at a port from an instant of TAI, cut where a pending change falls (R324), from which on the new list is in force; none: endless. -/
def State.gateLeft (s : State) (p t tc : Nat) : Option Nat :=
  match s.gateList p t with
  | none => none
  | some g =>
    match g.left t tc, (s.gateXAt p).pend with
    | l, some q => if t < q.at_ then some (min (l.getD (q.at_ - t)) (q.at_ - t)) else l
    | l, none => l

/-- The time until a class's gate closes at the wire from an instant of TAI: what is open across a pending change stays open (R320); none: it does not close. -/
def State.wireLeft (s : State) (p t tc : Nat) : Option Nat :=
  let oper := match s.gateOper p with | some g => g.left t tc | none => none
  match (s.gateXAt p).pend with
  | none => oper
  | some q =>
    let new (u : Nat) : Option Nat := ({ entries := gateCycle q.cycle q.list 0, cycle := q.cycle, base := q.base } : GateList).left u tc
    if q.at_ ≤ t then new t
    else match oper with
      | some n => if t + n < q.at_ then some n else (new q.at_).map (fun m => q.at_ - t + m)
      | none => (new q.at_).map (fun m => q.at_ - t + m)

/-- The instant of TAI by which the gates treat a released packet at the wire: a step of device time since its release does not move it (R327). -/
def State.gateClock (s : State) (p : Pkt) : Nat :=
  match s.stepAt with
  | some t => if p.rel ≤ t then (((s.ns64 : Int) - s.stepDelta / 65536).toNat) else s.ns64
  | none => s.ns64

/-- The longest window of a class in a list (R323): 0xFFFFFFFF for an endless one. -/
def maxOpen (entries : List (Nat × Nat)) (tc : Nat) : Nat :=
  if entries.all (fun x => bitOf x.1 tc) then 0xFFFFFFFF
  else (List.range entries.length).foldl (fun a k => max a (openRun tc (entries.drop k ++ entries))) 0

/-- The instant that the scheduler sees at a port: device time and LEAD (R319, R321). -/
def State.gateNow (s : State) (p : Nat) : Nat := s.ns64 + s.cfg (GATE_CFG.LEAD_NS p)

/-- Whether a class of a scheduling port is open to the scheduler (R321); ports 48 to 50 have no gates. -/
def State.gateOpen (s : State) (port tc : Nat) : Bool := 48 ≤ port || bitOf (s.gateStates port (s.gateNow port)) tc

/-- The fit duration of a frame length in ns, rounded up (R322). -/
def State.fitNs (s : State) (port len : Nat) : Nat := s.bitTimes port ((len + 20 + s.cfg (GATE_CFG.FIT_ADJ port)) * 8)

/-- Whether a frame fits the window it would be sent in (R322). -/
def State.fits (s : State) (port tc len : Nat) : Bool :=
  48 ≤ port || (match s.gateLeft port (s.gateNow port) tc with | none => true | some n => decide (s.fitNs port len ≤ n))

/-- Whether a frame fits no window of its class (R323); of a class that is never open it only waits. -/
def State.neverFits (s : State) (port tc len : Nat) : Bool :=
  decide (port < 48) && s.rd (GATE_STAT.OPER_VALID port) == 1 &&
    (let m := s.rd (GATE_MAX_OPEN.NS port tc); m != 0 && m != 0xFFFFFFFF && decide (m < s.fitNs port len))

/-! ### Changes -/

/-- What the scheduler and the wire now see: CUR_ENTRY and STATES; a frame on the wire whose gate closes (R320); classes that open to the scheduler end the FIT_WAIT of their
queues (R322).  Every window of a list closes at the instant of its change (R324), so a class open in the new list opens there; `fresh` says that the list changes now. -/
def gateSeen (p : Nat) (fresh : Bool) : Prog := .look fun s =>
  let x := s.gateXAt p
  let wire := match s.gateList p s.ns64 with
    | some g => let f := gateFind g.entries 0 (g.offset s.ns64); (f.1, f.2.1)
    | none => (0, 255)
  let now := s.gateStates p (s.gateNow p)
  let list := match x.pend with | some q => if q.at_ ≤ s.gateNow p then q.at_ else x.list | none => x.list
  let opens (t : Nat) : Bool := bitOf now t && (fresh || !bitOf x.sched t || list != x.list)
  seqs [
    setF (GATE_STAT.CUR_ENTRY p) wire.1,
    setF (GATE_STAT.STATES p) wire.2,
    .put (.gateX p { x with sched := now, list := list }),
    (match s.txNowAt p with
     | some y => onlyIf (!bitOf (s.gateStates p (s.gateClock y)) (y.queue % 8)) (.put (.txNow p (some { y with late := true })))
     | none => .skip),
    each (s.qx.filter (fun kv => kv.2.fitWait && s.rootPort kv.1 == p && opens (kv.1 % 8)))
      (fun kv => .andThen (.put (.qx kv.1 { kv.2 with fitWait := false })) (.look fun t => setF SCH_STAT.FIT_WAIT (t.rd SCH_STAT.FIT_WAIT - 1)))]

/-- The committed copies of the six shadowed GATE registers are what the units use. -/
def gateUnits (p : Nat) (regs : List Word) : Prog :=
  each (List.zip [0x200, 0x204, 0x208, 0x20C, 0x210, 0x214] regs) (fun x => .put (.units (regKey (180 + p) x.1) x.2))

/-- GATE_CHANGE_TIME. -/
def gateTime (p t : Nat) : Prog := .andThen (setF (GATE_CHANGE_TIME_LO.TIME p) (t % 2 ^ 32)) (setF (GATE_CHANGE_TIME_HI.TIME p) (t / 2 ^ 32))

/-- A commit of a GATE page (R325, R326): with EN = 0 every gate opens at once and a pending list is dropped; a list out of range is not applied; else the list waits
for its instant T, the first BASE + n * CYCLE at or after commit arrival + 10 µs.  `wait` says that PENDING stays until T. -/
def gateCommit (p : Nat) (wait done : Prog) : Prog := .look fun s =>
  let regs := [0x200, 0x204, 0x208, 0x20C, 0x210, 0x214].map (s.reg (180 + p))
  let cycle := s.rd (GATE_ADMIN_CYCLE.CYCLE_NS p)
  let len := s.rd (GATE_ADMIN_LEN.LEN p)
  let list := (List.range len).map (fun i => let e := s.tab (180 + p) 0 i; (e.f (ed 0 7 0), e.f (ed 1 29 0)))
  let ns := s.rd (GATE_ADMIN_BASE_NS.NS p)
  let base := (s.rd (GATE_ADMIN_BASE_SEC_LO.SEC p) + s.rd (GATE_ADMIN_BASE_SEC_HI.SEC p) % 65536 * 2 ^ 32) * 1000000000 + ns
  let x := s.gateXAt p
  if s.rd (GATE_CFG.EN p) == 0 then seqs [
    gateUnits p regs, .put (.gateX p { x with pend := none }), setF (GATE_STAT.OPER_VALID p) 0,
    each (List.range 8) (fun t => setF (GATE_MAX_OPEN.NS p t) 0xFFFFFFFF), gateSeen p true, done]
  else if len < 1 || 1024 < len || cycle < 1000 || 1000000000 < cycle || 1000000000 ≤ ns || list.any (fun e => e.2 == 0) then
    seqs [setF (GATE_STAT.CFG_ERR p) 1, raise (180 + p) 17, done]
  else
    let earliest := s.ns64 + 10000
    let t := if earliest ≤ base then base else base + (earliest - base + cycle - 1) / cycle * cycle
    seqs [
      .put (.gateX p { x with pend := some { at_ := t, base := base, cycle := cycle, regs := regs, list := list } }),
      gateTime p t,
      wait]

/-- GATE_ENTRY_CHANGE (R318, R321, R322): the list of a port reaches another entry, at the wire or at the scheduler. -/
def execGateEntryChange (port : Nat) (s : State) : Host.Outcome State Fault Refusal := command (.gateEntryChange port) (gateSeen port false) s

/-- After a step of device time every gate controller takes the place of the new time (R327). -/
def gatesStep : Prog := each (List.range 48) (fun p => gateSeen p false)

/-- TIME_STEP_AT_SECOND (R421): the pending step takes place at the next whole second of the old time, and PENDING may clear. -/
def execTimeStepAtSecond (s : State) : Host.Outcome State Fault Refusal :=
  command .timeStepAtSecond (.look fun s =>
    match s.stepPend with
    | some (m, sec, ns, at_) => onlyIf (at_ ≤ s.sec) (seqs [stepTime m sec ns, gatesStep, onlyIf (s.commitLateAt 12) (commitDone 12)])
    | none => .skip) s

end Sys2Proof.Machine
end

