-- ==== Sys2Proof/Machine/Counters.lean ====
section
/-!
DEFINITION. Snapshots and dumps of the counters, and the trace buffer (spec/18_counters_and_tracing.md).
-/
namespace Sys2Proof.Machine

/-- The families a mask names, in ascending code order. -/
def maskFamilies (mask : Nat) : List Nat := (List.range 18).filter (fun f => bitOf mask f)

/-- The size of a dump of the masked families (R605). -/
def dumpSize (mask : Nat) : Nat := 64 + (maskFamilies mask).foldl (fun a f => a + 16 + 8 * familySize f) 0

/-- The buffers of the dump ring (CNT_DUMP_RING.COUNT: 2 to 16, others act as 2). -/
def State.dumpBufs (s : State) : Nat := let n := s.rd CNT_DUMP_RING.COUNT; if 2 ≤ n && n ≤ 16 then n else 2

/-- A snapshot is skipped for a cause (R603). -/
def snapSkip (cause : Nat) : Prog := seqs [bumpF CNT_DUMP_STAT.SKIPPED 1, setF CNT_DUMP_STAT.LAST_SKIP cause, raise 10 17]

/-- A snapshot is taken at the instant `after` ns from now, or skipped while a dump is being written or the ring is full (R602, R603). -/
def snapStart (go : Bool) (after : Nat) : Prog := .look fun s =>
  if s.snap.isSome then snapSkip 1
  else if s.rd CNT_DUMP_HEAD.FULL == 1 then snapSkip 2
  else .andThen
    (.put (.snap (some { time := s.ns64 + after, mono := s.mono + after, go := go, mask := s.rd CNT_DUMP_MASK.FAMILY })))
    (setF CNT_SNAP.BUSY 1)

/-- SNAPSHOT_PERIODIC (R602): with EN, a snapshot at every multiple of the period of device time, in the clock that reaches it. -/
def execSnapshotPeriodic (s : State) : Host.Outcome State Fault Refusal :=
  command .snapshotPeriodic (whenEnabled 10 <| .look fun s =>
    let p := min 60000 (max 100 (s.rd CNT_DUMP_CFG.PERIOD_MS)) * 1000000
    onlyIf (s.rd CNT_DUMP_CFG.EN == 1 && decide (s.ns64 % p < 2) && s.snapAt != some (s.ns64 / p))
      (.andThen (.put (.snapAt (some (s.ns64 / p)))) (snapStart false 0))) s

/-- The value of a counter at the snapshot's instant (R600). -/
def State.snapValue (s : State) (f i : Nat) : Nat := (s.snapSavedAt (cntKey f i)).getD (s.counter f i)

/-- The section of a family in a dump (R606). -/
def dumpSection (s : State) (f : Nat) : List Nat :=
  let n := familySize f
  [f, 0, 0, 0] ++ toBytesLE 4 n ++ toBytesLE 4 (8 * n) ++ [0, 0, 0, 0] ++ ((List.range n).map (fun i => toBytesLE 8 (s.snapValue f i))).flatten

/-- The 64-byte header of a dump over its body (R606). -/
def dumpHeader (s : State) (sn : Snap) (body : List Nat) : List Nat :=
  toBytesLE 4 0x434E5444 ++ toBytesLE 4 (2 ^ 16 + (maskFamilies sn.mask).length) ++ toBytesLE 8 (s.dumpCount + 1) ++ toBytesLE 8 sn.time
    ++ toBytesLE 8 sn.mono ++ toBytesLE 4 (64 + body.length)
    ++ toBytesLE 4 (b2n sn.go * 2 ^ 31 + s.rd FAB_DEV_ID.ID * 2 ^ 16 + min 65535 s.dumpMemErrs) ++ toBytesLE 4 (crc32c body)
    ++ List.replicate 20 0

/-- The snapshot in hand ends and its saved copies go. -/
def snapEnd : Prog := .look fun s => seqs [
  .put (.snap none), setF CNT_SNAP.BUSY 0, each s.snapSaved (fun kv => .put (.snapSaved kv.1 none))]

/-- DUMP_DONE (R604, R606, R607): the sections are written, those of the FE die over the die-to-die link, then the header; TAIL advances and the ring may be full. -/
def execDumpDone (s : State) : Host.Outcome State Fault Refusal :=
  command .dumpDone (.look fun s =>
    match s.snap with
    | some sn => onlyIf (sn.mono ≤ s.mono && s.dmaOn 0 && s.rd PCIE_LINK_STAT.IN_L1 == 0 && (s.crossFree 15 || sn.mask % 256 == 0)) (
        let tail := s.rd CNT_DUMP_HEAD.TAIL
        let base := s.rd CNT_DUMP_BASE_LO.reg + s.rd CNT_DUMP_BASE_HI.reg * 2 ^ 32 + tail * s.rd CNT_DUMP_RING.SIZE_MIB * 2 ^ 20
        let body := ((maskFamilies sn.mask).map (dumpSection s)).flatten
        let next := (tail + 1) % s.dumpBufs
        seqs [
          onlyIf (sn.mask % 256 != 0) (enginePass 15 [tail]),
          emit (.dmaWrite 0 (base + 64) body { ro := s.rd CNT_DUMP_CFG.RO == 1 && (s.pcieFnAt 0).roEn }),
          emit (.dmaWrite 0 base (dumpHeader s sn body) {}),
          .put (.dumpCount (s.dumpCount + 1)),
          .put (.dumpMemErrs 0),
          setF CNT_DUMP_SEQ_LO.reg ((s.dumpCount + 1) % 2 ^ 32),
          setF CNT_DUMP_SEQ_HI.reg ((s.dumpCount + 1) / 2 ^ 32),
          setF CNT_DUMP_HEAD.TAIL next,
          setF CNT_DUMP_HEAD.FULL (b2n (next == s.rd CNT_DUMP_HEAD.HEAD)),
          snapEnd,
          raise 10 16])
    | none => .skip) s

/-- Containment aborts a dump in progress and clears EN (R608). -/
def dumpAbort : Prog := .look fun s => .andThen (setF CNT_DUMP_CFG.EN 0)
  (onlyIf s.snap.isSome (seqs [snapEnd, setF CNT_DUMP_STAT.LAST_SKIP 3, raise 10 18]))

/-- EN is set (R605): it stays 0 with CFG_ERR when the dump does not fit or its base is not aligned. -/
def dumpEnable : Prog := .look fun s =>
  onlyIf (s.rd CNT_DUMP_MASK.FAMILY < 2 ^ 18 &&
      !(dumpSize (s.rd CNT_DUMP_MASK.FAMILY) ≤ s.rd CNT_DUMP_RING.SIZE_MIB * 2 ^ 20 && s.rd CNT_DUMP_BASE_LO.reg % 4096 == 0))
    (.andThen (setF CNT_DUMP_CFG.EN 0) (setF CNT_DUMP_STAT.CFG_ERR 1))

/-- An uncorrectable error in counter memory restarts a counter at 0 (R597). -/
def counterRestart (f i : Nat) : Prog := .look fun s => seqs [
  .put (.counters (cntKey f i) 0),
  setF CNT_MEM_ERR.FAMILY f,
  setF CNT_MEM_ERR.INDEX i,
  bumpF CNT_MEM_ERR_COUNT.reg 1,
  .put (.dumpMemErrs (s.dumpMemErrs + 1)),
  raise 10 19]

/-- Counters whose memory gave an uncorrectable error when a unit came to count in them, as family * 2^22 + index, restart (R597). -/
def countersFail (l : List Nat) : Prog := each l (fun c => onlyIf (c % 2 ^ 22 < familySize (c / 2 ^ 22)) (counterRestart (c / 2 ^ 22) (c % 2 ^ 22)))

/-- The 1,024 bytes of a trace record (R611), with the PHASE of the host ring. -/
def TraceRec.bytes (r : TraceRec) (phase : Bool) : List Nat :=
  let w0 := b2n phase * 2 ^ 31 + r.half * 2 ^ 30 + r.trigger % 4 * 2 ^ 28 + r.port % 64 * 2 ^ 22 + r.logical % 32 * 2 ^ 17
    + r.physical % 32 * 2 ^ 12 + r.gen % 256 * 2 ^ 4 + r.passes % 16
  let w1 := r.reason % 256 * 2 ^ 24 + min 16 r.tables.length * 2 ^ 16 + min 32 r.actions.length * 2 ^ 10 + r.destDev % 1024
  let w2 := r.dstPort % 64 * 2 ^ 26 + r.tc % 8 * 2 ^ 23 + r.colour % 4 * 2 ^ 21 + b2n (32 < r.actions.length) * 2 ^ 17
    + b2n (16 < r.tables.length) * 2 ^ 16 + r.lenSrc % 4 * 2 ^ 14 + r.frameLen % 2 ^ 14
  let w3 := r.ruleId % 65536 * 2 ^ 16 + r.lif % 65536
  let w4 := r.exc % 16 * 2 ^ 28 + r.nhId % 2 ^ 22
  let stages := (r.stages ++ List.replicate 16 0xFFFF).take 16
  let tables := ((r.tables.take 16).map (fun t => toBytesLE 4 t.1 ++ toBytesLE 4 t.2)).flatten
  let acts := ((r.actions.take 32).map (fun a => toBytesBE 16 a.1 ++ toBytesLE 4 a.2 ++ [0, 0, 0, 0])).flatten
  let head := toBytesLE 4 w0 ++ toBytesLE 4 w1 ++ toBytesLE 4 w2 ++ toBytesLE 4 w3 ++ toBytesLE 4 w4 ++ toBytesLE 8 r.time ++ toBytesLE 4 r.seq
    ++ (stages.map (toBytesLE 2)).flatten ++ List.replicate 64 0
  head ++ (tables ++ List.replicate 128 0).take 128 ++ (acts ++ List.replicate 768 0).take 768

/-- A record selected for tracing (R610, R612): refused by RATE, discarded with the buffer full, or buffered. -/
def traceMake (r : TraceRec) : Prog := .look fun s =>
  let ms := s.ns64 / 1000000
  let n := if s.trcMs.1 == ms then s.trcMs.2 else 0
  if max 1 (s.rd TRC_RATE.RATE) ≤ n then bumpF TRC_RATE_SKIP.reg 1
  else
    let seq := (s.rd TRC_SEQ.reg + 1) % 2 ^ 32
    seqs [
      .put (.trcMs (ms, n + 1)),
      setF TRC_SEQ.reg seq,
      (either (s.traceBuf.length < 2048)
        (seqs [
          .put (.traceBuf (s.traceBuf ++ [{ r with seq := seq }])),
          setF TRC_BUF_STAT.LEVEL (s.traceBuf.length + 1),
          raise 11 16])
        (.andThen (bumpF TRC_DROPPED.reg 1) (raise 11 17)))]

/-- Records leave the on-chip buffer as HEAD advances (R612). -/
def traceFree (n : Nat) : Prog := .look fun s => seqs [
  setF TRC_BUF_STAT.HEAD ((s.rd TRC_BUF_STAT.HEAD + n) % 2048),
  .put (.traceBuf (s.traceBuf.drop n)),
  .look fun t => setF TRC_BUF_STAT.LEVEL t.traceBuf.length]

/-- The size of the trace ring in records, and whether the oldest buffered record may be written to it (R613). -/
def State.traceRing (s : State) : Nat := let l := s.rd TRC_RING_CFG.LOG; 2 ^ (if 4 ≤ l && l ≤ 12 then l else 4)
def State.traceReady (s : State) : Bool :=
  let size := s.traceRing
  s.rd TRC_CFG.DMA_EN == 1 && !s.traceBuf.isEmpty && decide ((s.rd TRC_RING_CFG.TAIL % size + size - s.rd TRC_RING_CFG.HEAD % size) % size < size - 1)

/-- TRACE_DMA_WRITE (R613): the oldest buffered record is written to the host ring when it has room, bytes 64 to 1,023 first; the trace engine's write crosses the die-to-die link behind
its earlier requests (R29, R33). -/
def execTraceDmaWrite (s : State) : Host.Outcome State Fault Refusal :=
  command .traceDmaWrite (.look fun s =>
    let size := s.traceRing
    let tail := s.rd TRC_RING_CFG.TAIL % size
    match s.traceBuf with
    | r :: _ => onlyIf (s.traceReady && s.dmaOn 0 && s.rd PCIE_LINK_STAT.IN_L1 == 0 && s.crossFree 16) (
        let b := r.bytes s.trcPhase
        let addr := s.rd TRC_RING_BASE_LO.reg / 4096 * 4096 + s.rd TRC_RING_BASE_HI.reg * 2 ^ 32 + 1024 * tail
        seqs [
          enginePass 16 b,
          emit (.dmaWrite 0 (addr + 64) (b.drop 64) {}),
          emit (.dmaWrite 0 addr (b.take 64) {}),
          setF TRC_RING_CFG.TAIL ((tail + 1) % size),
          onlyIf (tail + 1 == size) (.put (.trcPhase (!s.trcPhase))),
          traceFree 1])
    | [] => .skip) s

end Sys2Proof.Machine
end

