-- ==== Sys2Proof/Machine/Reports.lean ====
section
/-!
DEFINITION. Entries of the queue tables, records on their way to the host, and sampled refusal reports (spec/08_queues_and_scheduling.md R300, R301; spec/13_host_interface.md R475,
R480, R487, R488).
-/
namespace Sys2Proof.Machine

/-! ### Entries of QM (page 0x0B0) and BUF (page 0x091) -/

def QE.EN : EF := ed 0 31 31
def QE.CLASS : EF := ed 0 30 29
def QE.BUF_PROFILE : EF := ed 0 23 16
def QE.ADM_PROFILE : EF := ed 0 15 8
def QE.MAX_LEN : EF := ed 1 13 0
def ADM.ECN_EN : EF := ed 0 31 31
def ADM.AQM_DROP : EF := ed 0 30 30
def ADM.PMAX : EF := ed 0 6 0
def ADM.ECN_MIN : EF := ed 1 23 0
def ADM.ECN_MAX : EF := ed 2 23 0
def ADM.YEL_PCT : EF := ed 3 31 24
def ADM.RED_PCT : EF := ed 3 23 16
def ADM.BURST : EF := ed 3 15 0
def PROF.SPILL_EN : EF := ed 0 31 31
def PROF.GRN_EN : EF := ed 0 30 30
def PROF.AGE_LIMIT : EF := ed 0 16 0
def PROF.SPILL_ON : EF := ed 1 31 16
def PROF.HEAD_KEEP : EF := ed 1 15 0
def PROF.T1_STOP : EF := ed 2 17 0
def PROF.HBM_LIMIT : EF := ed 3 16 0
def PROF.GRN_LIMIT : EF := ed 4 25 0

/-- A queue's entry (QM table 0), admission profile (QM table 1) and buffer profile (BUF table 1). -/
def State.qe (s : State) (q : Nat) : Entry := s.tab 176 0 q
def State.qAdm (s : State) (q : Nat) : Entry := s.tab 176 1 ((s.qe q).f QE.ADM_PROFILE)
def State.qProf (s : State) (q : Nat) : Entry := s.tab 145 1 ((s.qe q).f QE.BUF_PROFILE)

/-- The buffer bytes of a descriptor in tier 1. -/
def State.bufBytes (s : State) (p : Pkt) : Nat := (s.bufsAt p.buf).size

/-- The buffer bytes of descriptors in tier 1. -/
def State.sumBytes (s : State) (l : List Pkt) : Nat := l.foldl (fun a p => a + s.bufBytes p) 0

/-- Bytes of a queue in all tiers. -/
def QX.bytes (x : QX) : Nat := x.t1 + x.hbm + x.grn

/-! ### Records for the host (R475, R480, R487, R488) -/

def QP.EN : EF := ed 0 31 31
def QP.STATE : EF := ed 0 30 29
def QP.OWNER : EF := ed 1 27 16
def QP.VECTOR : EF := ed 1 10 0
def QP.DROPS : EF := ⟨1, 415, 384⟩

/-- A packet discarded on its way to the host, under its queue (R480, R488). -/
def hostDiscard (p : Pkt) (queue reason : Nat) : Prog := seqs [tmReason reason, count 8 (7 * queue + 6) 1, derefBody p.body]

/-- Whether the instance that owns a queue pair is ACTIVE (R507); PF0 always is. -/
def State.instOpen (s : State) (qp : Nat) : Bool :=
  let o := (s.tab 3 0 qp).f QP.OWNER
  o == 0 || (s.tab 4 0 o).f (ed 0 31 29) == 1

/-- A record for a queue pair: in containment it is discarded (R488), for a queue pair that is not enabled or whose instance is not ACTIVE it is discarded with 0xF0
(R480, R487, R507), else it waits for the DMA engine. -/
def hostPush (qp : Nat) (r : HostRec) : Prog := .look fun s =>
  let gone (reason : Nat) : Prog := match r.pkt, r.queue with
    | some p, some q => hostDiscard p q reason
    | some p, none => .andThen (tmReason reason) (derefBody p.body)
    | none, _ => tmReason reason
  if s.contained then (match r.pkt, r.queue with
    | some p, some q => hostDiscard p q 0xF1
    | some p, none => .andThen (bumpF PCIE_CONTAIN_DROP.COUNT 1) (derefBody p.body)
    | none, _ => bumpF PCIE_CONTAIN_DROP.COUNT 1)
  else if (s.tab 3 0 qp).f QP.STATE != 1 || !s.instOpen qp then .andThen (gone 0xF0) (bumpTabF 3 0 qp QP.DROPS 1)
  else .put (.hostQ qp (s.hostQAt qp ++ [r]))

/-! ### Refusal reports (R300, R301) -/

/-- The scheduling length that an ingress device gives a packet (R301, R305), under the L0 node and the queue that its lookups decided: MAX_LEN of the queue's number in its own
QM table, and where that holds none, which is so of a queue of another device, the receiving port's MAX_FRAME (DESIGN CHOICE, log entry 96). -/
def State.reqLen (s : State) (p : Pkt) : Nat :=
  let m := (s.qe p.queue).f QE.MAX_LEN
  s.schedLen p.dport (s.frameLen p (if m == 0 then p.declMax else m))

/-- A refusal that this device makes: every Nth writes a report, within the rate (R301). -/
def refusalReport (reason queue colour : Nat) (atIngress : Bool) (other srcPort len : Nat) : Prog := .look fun s =>
  let x := s.rptX
  let sel := x.1 + 1
  let skipped := min (2 ^ 32 - 1) (x.2.1 + 1)
  let ms := s.ns64 / 1000000
  let n := if x.2.2.2.1 == ms then x.2.2.2.2 else 0
  let depth := if reason == 0xB0 || reason == 0xB1 || reason == 0xB5 then 0 else (s.qxAt queue).bytes / 1024
  let words := [
    reason * 2 ^ 24 + (s.qe queue).f QE.CLASS * 2 ^ 22 + colour * 2 ^ 20 + b2n atIngress * 2 ^ 19 + queue, other * 2 ^ 22 + srcPort * 2 ^ 16 + len % 16384,
    x.2.2.1, s.ns64 % 2 ^ 32, s.ns64 / 2 ^ 32, depth, skipped - 1, 0]
  onlyIf (s.rd QM_RPT_CFG.EN == 1) (
    if sel < s.rd QM_RPT_CFG.N_M1 + 1 then .put (.rptX (sel, skipped, x.2.2))
    else if max 1 (s.rd QM_RPT_RATE.RATE) ≤ n then seqs [
      .put (.rptX (0, skipped, x.2.2)), bumpF QM_RPT_DROP.COUNT 1, raise 176 16]
    else .andThen (.put (.rptX (0, 0, (x.2.2.1 + 1) % 2 ^ 32, ms, n + 1)))
      (hostPush (s.rd QM_RPT_CFG.QPAIR) { rec_ := 2, head := (words.map (toBytesLE 4)).flatten }))

end Sys2Proof.Machine
end

