-- ==== Sys2Proof/Machine/Ingress.lean ====
section
/-!
DEFINITION. The ingress halves (spec/06_pipelines.md R221 to R232, R235, R241 to R249; spec/04_parsing_and_classification.md R131 to R173): the distributor, the
receive FIFO, the passes of a packet, its actions, its copies and its trace record.
-/
namespace Sys2Proof.Machine

/-! ### The receive FIFO and the distributor -/

/-- The receive priority of a frame (R231). -/
def rxPriority (p : Parsed) : Nat :=
  if p.f pTags != 0 then p.f 0x14 / 2
  else if p.hdr 2 && p.f pStackInner == 0 then bits (p.f 0x20) 11 9
  else if p.f pL3 != 0 then p.f 0x33 / 32
  else 0

/-- One byte into the CRC-16/CCITT-FALSE. -/
def crc16Byte (crc b : Nat) : Nat :=
  (List.range 8).foldl (fun c _ => if bitOf c 15 then (c * 2 % 65536) ^^^ 0x1021 else c * 2 % 65536) (crc ^^^ (b % 256 * 256))

/-- The bucket of a packet (R224). -/
def State.bucketOf (s : State) (p : Parsed) (port : Nat) : Nat :=
  let on (f : Fld) (b : Bool) (l : List Nat) : List Nat := if s.rd f == 1 && b then l else []
  let n := if p.f pL3 == 4 then 4 else 16
  let labels := p.hdr 2 && p.f pStackInner == 0
  let l := toBytesBE 4 (s.rd PIPE_DIST_SEED.SEED) ++ [port] ++
    on PIPE_DIST_CFG.MAC true (toBytesBE 6 (p.f 0x10) ++ toBytesBE 6 (p.f 0x11)) ++
    on PIPE_DIST_CFG.VLAN (p.f pTags != 0) (toBytesBE 2 (p.f 0x13)) ++
    on PIPE_DIST_CFG.MPLS labels (((List.range (min 3 (p.f pLabels))).map (fun i => toBytesBE 3 (p.f (0x20 + i) / 4096))).flatten) ++
    on PIPE_DIST_CFG.IP_ADDR (p.f pL3 != 0 && !labels) (toBytesBE n (p.f 0x30) ++ toBytesBE n (p.f 0x31)) ++
    on PIPE_DIST_CFG.PROTO (p.f pL3 != 0 && !labels) [p.f 0x32] ++
    on PIPE_DIST_CFG.L4_PORTS ((p.hdr 8 || p.hdr 9) && !labels) (toBytesBE 2 (p.f 0x38) ++ toBytesBE 2 (p.f 0x39))
  (l.foldl crc16Byte 0xFFFF) % 256

/-- The parse window of a received frame. -/
def Body.window (b : Body) : Window := ⟨b.win, b.winLen, b.winEnds⟩

/-- FRAME_RECEIVE (R230, R231): a frame whose first bytes, up to 256, are `head` begins to arrive at a port that is up. -/
def execFrameReceive (port : Nat) (head : List Byte) (s : State) : Host.Outcome State Fault Refusal :=
  command (.frameReceive port head) (.look fun s =>
    let b := (head.map BitVec.toNat).take 256
    onlyIf (s.rd (PORT_STAT.LINK_UP port) == 1 && (s.rxNowAt port).isNone && !isPauseFrame b) (
      let w : Window := ⟨b, b.length, false⟩
      let prio := rxPriority (parse s.prsCfg w)
      let n := s.rxLevel port
      let fits := decide (n ≤ min 502 (s.cfg PIPE_RX_LEVEL.DROP_LEVEL) * 1024) || (bitOf (s.cfg PIPE_RX_PRIO.PRIO) prio && decide (n ≤ 502 * 1024))
      let asym := signed32 (s.rd (PTP_PORT_ASYM.NS port))
      newBody { bytes := b, refs := if fits then 1 else 0, port := port, gbps := s.portGbps port, win := b, winLen := b.length - 4, lost := !fits } (fun i => seqs [
        .put (.rxNow port (some i)),
        (if fits then .put (.rxFifo port (s.rxFifoAt port ++ [{
            body := i, srcPort := port, rxNs := (((s.ns64 : Int) + asym).toNat) % 2 ^ 64, rxFrac := s.frac, at_ := s.mono,
            declMax := s.cfg (PORT_MAC_CFG.MAX_FRAME port) }]))
         else seqs [count 0 (128 * port + 56 + prio) 1, feReason 0xA0, raise 112 16]),
        rxLevelChanged port]))) s

/-- A bucket's logical pipeline. -/
def State.bucketPipe (s : State) (k : Nat) : Nat := s.rd (PIPE_BUCKET.LOGICAL k) % 16

/-- RX_FIFO_DEQUEUE (R224, R230): the oldest frame of a port with a complete parse window joins the input queue of its bucket's ingress half while that
queue has room and the pipeline is enabled (R56). -/
def execRxFifoDequeue (port : Nat) (s : State) : Host.Outcome State Fault Refusal :=
  command (.rxFifoDequeue port) (.look fun s =>
    match s.rxFifoAt port with
    | [] => .skip
    | p :: r =>
      let b := s.bodiesAt p.body
      let k := s.bucketOf (parse s.prsCfg b.window) port
      let l := s.bucketPipe k
      onlyIf ((b.whole || b.bytes.length ≥ 256) && (s.inQAt l).length < 256 && s.rd (BLK_CTRL.ENABLE (112 + (s.holder clsPipe l).getD 0)) == 1) (seqs [
        .put (.rxFifo port r),
        .put (.inQ l (s.inQAt l ++ [{ p with hash := k }])),
        .put (.bucketLoad k (s.bucketLoadAt k + 1)),
        rxLevelChanged port])) s

/-! ### Buckets (R226 to R228) -/

/-- Whether a packet of a bucket is inside its pipeline: in its input queue, recirculating, or waiting to cross. -/
def State.bucketBusy (s : State) (k : Nat) : Bool :=
  (s.inQ.any (fun kv => kv.2.any (fun p => p.hash == k))) || s.recQ.any (fun kv => kv.2.any (fun x => x.1.hash == k)) ||
  s.upQ.any (fun kv => kv.2.any (fun p => p.hash == k && p.srcPort < 48))

/-- PIPE_DIST_STAT.PEND shows whether a write waits. -/
def showPend (k : Nat) (v : Bool) : Prog := .andThen (setF (PIPE_BUCKET.PEND k) (b2n v)) (.look fun s =>
  setF PIPE_DIST_STAT.PEND (b2n ((List.range 256).any (fun j => s.rd (PIPE_BUCKET.PEND j) == 1))))

/-- A bucket moves to a logical pipeline (R226). -/
def bucketTo (k l : Nat) (counted : Bool) : Prog := seqs [
  setF (PIPE_BUCKET.LOGICAL k) l,
  .put (.bucketPend k none),
  showPend k false,
  onlyIf counted (bumpF PIPE_DIST_STAT.MOVES 1)]

/-- A move of a bucket: at once when it is drained, else it waits (R226, R227). -/
def bucketMove (k l : Nat) (shown : Bool) : Prog := .look fun s =>
  if s.bucketBusy k then .andThen (.put (.bucketPend k (some l))) (onlyIf shown (showPend k true)) else bucketTo k l true

/-- A software write of PIPE_BUCKET (R227): read-only under AUTO; a LOGICAL above 15 is ignored. -/
def bucketWrite (k l : Nat) : Prog := .look fun s =>
  onlyIf (s.rd PIPE_DIST_CFG.AUTO == 0 && l < 16) (if s.bucketPipe k == l then .andThen (.put (.bucketPend k none)) (showPend k false) else bucketMove k l true)

/-- BUCKET_MOVE (R226): a pending bucket with no packet in its old pipeline moves. -/
def execBucketMove (bucket : Nat) (s : State) : Host.Outcome State Fault Refusal :=
  command (.bucketMove bucket) (.look fun s =>
    match s.bucketPendAt bucket with
    | some l => onlyIf (!s.bucketBusy bucket) (bucketTo bucket l true)
    | none => .skip) s

/-- The load of a logical pipeline since the last rebalancing. -/
def State.pipeLoad (s : State) (l : Nat) : Nat :=
  (List.range 256).foldl (fun a k => if s.bucketPipe k == l then a + s.bucketLoadAt k else a) 0

/-- The element of a list with the largest value, the first of equals. -/
def argMax (f : Nat → Nat) : List Nat → Option Nat
  | [] => none
  | a :: r => some (r.foldl (fun b x => if f b < f x then x else b) a)

/-- BUCKET_REBALANCE (R227): every 10 µs under AUTO, when the most loaded pipeline exceeds the least loaded by more than IMBAL percent of 2.2 Gpps (22,000
packets in 10 µs), its busiest bucket that drains within the next 10 µs moves.  Which of the buckets that hold
packets will have drained by then lies in what comes later: Config.bucketDrains, by bucket and MONO, a free value (log entry 37).  A move of an earlier round that has not come is withdrawn. -/
def execBucketRebalance (s : State) : Host.Outcome State Fault Refusal :=
  command .bucketRebalance (whenEnabled 112 <| .look fun s =>
    let ls := (List.range 16).filter (fun l => (s.holder clsPipe l).isSome)
    onlyIf (s.since s.rebalAt 10000) (seqs [
      .put (.rebalAt s.mono),
      onlyIf (s.rd PIPE_DIST_CFG.AUTO == 1) (each ((s.bucketPend.map Prod.fst).filter (fun k => s.rd (PIPE_BUCKET.PEND k) == 0)) (fun k => .put (.bucketPend k none))),
      (match argMax s.pipeLoad ls, argMax (fun l => 2 ^ 64 - s.pipeLoad l) ls with
       | some hi, some lo =>
         onlyIf (s.rd PIPE_DIST_CFG.AUTO == 1 && s.rd PIPE_DIST_CFG.IMBAL * 220 < s.pipeLoad hi - s.pipeLoad lo)
           (match argMax s.bucketLoadAt ((List.range 256).filter (fun k => s.bucketPipe k == hi && decide (0 < s.bucketLoadAt k) && (!s.bucketBusy k || Config.bucketDrains k s.mono))) with
            | some k => bucketMove k lo false
            | none => .skip)
       | _, _ => .skip),
      each (s.bucketLoad.map Prod.fst) (fun k => .put (.bucketLoad k 0))])) s

/-- The buckets of a logical number left without a pipeline spread at once over those that remain (R228). -/
def spreadBuckets (l : Nat) : Prog := .look fun s =>
  let ls := (List.range 16).filter (fun x => x != l && (s.holder clsPipe x).isSome)
  onlyIf (!ls.isEmpty) (each ((List.range 256).filter (fun k => s.bucketPipe k == l)) (fun k => bucketTo k (ls.getD (k / 16 % ls.length) 0) true))

/-! ### Samplers (R246 to R249) -/

/-- A copy on its way: to a queue of a device (KIND 0) or to a queue pair under scheduling port 50 (KIND 1); `qp` is the queue pair plus 1, 0 for none. -/
def smpPkt (s : State) (inst : Nat) (p : Pkt) (h : CopyHdr) : Pkt :=
  let t := s.rd (SMP_INST_CFG.TRUNC inst)
  let q := s.rd (SMP_INST_DEST.QUEUE inst)
  let own := s.rd FAB_DEV_ID.ID
  let host := s.rd (SMP_INST_CFG.KIND inst) == 1
  { p with
    kind := 2, copy := some h, trunc := if t == 1 then 128 else if t == 2 then 256 else 0, group := none, nh := none, egList := none, reason := 0,
    dev := if host then own else s.rd (SMP_INST_DEST.DEST_DEVICE inst), queue := if host then 524280 + h.tc else q, qp := if host then q % 4096 + 1 else 0,
    tc := if host then h.tc else q % 8, term := 0, pop := 0, popEth := false, mark := false, rule := 0, lif := h.lif, egLif := 0 }

/-- An instance reached by a half (R246, R249): its selection, its rate, and the copy handed to `k`. -/
def smpReach (half pipe inst : Nat) (p : Pkt) (h : CopyHdr) (k : Pkt → Prog) : Prog := .look fun s =>
  let n := s.rd (SMP_INST_CFG.N_M1 inst) + 1
  let key := 64 * (17 * half + pipe) + inst
  let make : Prog := .look fun s =>
    let ms := s.ns64 / 1000000
    let x := s.smpMsAt inst
    let c := if x.1 == ms then x.2 else 0
    let rate := s.rd (SMP_INST_RATE.RATE inst)
    if rate != 0 && rate ≤ c then .andThen (bumpF (SMP_INST_RDROP.COUNT inst) 1) (raise 105 16)
    else seqs [
      .put (.smpMs inst (ms, c + 1)),
      .put (.smpSeq inst ((s.smpSeqAt inst + 1) % 2 ^ 32)),
      k (smpPkt s inst p { h with inst := inst, half := half, seq := s.smpSeqAt inst })]
  onlyIf (s.rd (SMP_INST_CFG.EN inst) == 1) (
    if s.rd (SMP_INST_CFG.MODE inst) == 0 then
      (if s.smpSelAt key + 1 < n then .put (.smpSel key (s.smpSelAt key + 1)) else .andThen (.put (.smpSel key 0)) make)
    else draw (fun v => onlyIf (v % n == 0) make))

/-- The instances that a packet reaches: the port sampler first, then MIRROR words, each once and 5 copies at most (R247). -/
def smpInstances (port : Option Nat) (mirrors : List Nat) : List Nat := (((port.toList ++ mirrors).eraseDups)).take 5

/-! ### Packets that leave an ingress half -/

/-- A packet waits to cross to the TM die, with a reference on its body. -/
def toCross (pipe : Nat) (p : Pkt) : Prog := .andThen (refBody p.body) (.look fun s => .put (.upQ pipe (s.upQAt pipe ++ [p])))

/-- A packet or copy for the host: to port 48 of this device, its queue by TC (R291). -/
def State.trapPkt (s : State) (p : Pkt) (reason : Nat) : Pkt :=
  { p with kind := 1, reason := reason, dev := s.rd FAB_DEV_ID.ID, dport := 48, queue := 524264 + p.tc, group := none, nh := none, egList := none }

/-- A copy for port 48 beside its packet (R139, R158, R240). -/
def State.trapCopy (s : State) (p : Pkt) (reason : Nat) : Pkt := { s.trapPkt p reason with dup := true }

/-- What a settled body still owes its tail: byte counters and policer corrections, paid once its last byte has arrived (R242, R593). -/
def settleBody (i : Nat) : Prog := .look fun s =>
  let b := s.bodiesAt i
  let n := b.bytes.length + (if b.tail == 2 || b.tail == 5 then 0 else 4)
  onlyIf b.whole (seqs [
    each b.lenCtrs (fun c => count c.1 c.2 n),
    each b.charges (fun c => polCorrect c.pol n c.len c.c c.p),
    each b.shapes (fun c => shapeCorrect c.1 (if c.2.2 == 0 then n else min n c.2.2) c.2.1),
    .put (.bodies i { b with lenCtrs := [], charges := [], shapes := [] })])

/-- Stage times of a trace record: those reached at the instant of this pass (R611). -/
def stageTimes (reached now start : Nat) : List Nat :=
  (List.range 16).map (fun k => if bitOf reached k && now - start < 65535 then now - start else 65535)

/-- Whether the trace engine selects a visit (R609), and its packet count moved on. -/
def traceSelect (half port : Nat) (dropped multi : Bool) (r : TraceRec) : Prog := .look fun s =>
  let trig := s.rd TRC_CFG.TRIGGER
  let inMask := port < 48 && bitOf (s.rd TRC_PORT_MASK_LO.MASK + s.rd TRC_PORT_MASK_HI.MASK % 65536 * 2 ^ 32) port
  let en := s.rd (if half == 0 then TRC_CFG.IG_EN else TRC_CFG.EG_EN) == 1
  let r := { r with half := half, trigger := if trig == 3 then 0 else trig, port := port, time := r.time }
  onlyIf (s.rd (BLK_CTRL.ENABLE 11) == 1 && s.rd TRC_CFG.EN == 1 && inMask) (
    if trig == 1 then onlyIf dropped (traceMake r)
    else if trig == 2 then onlyIf multi (traceMake r)
    else onlyIf en (
      if s.trcCount < s.rd TRC_CFG.N_M1 then .put (.trcCount (s.trcCount + 1)) else .andThen (.put (.trcCount 0)) (traceMake r)))

/-- The final outcome of an ingress half: the lookup's, as the lists change it (R168, R169, R698). -/
def State.igDest (s : State) (k : Look) (r : IgRun) (port : Nat) : Dest :=
  match r.drop, r.trap, r.redir with
  | some x, _, _ => .drop x
  | none, some x, _ => .trap x
  | none, none, some (0, t) => s.resolveNh t
  | none, none, some (1, t) => s.resolveEcmp k port (t % 65536)
  | none, none, some (2, t) => .queue (t % 524288)
  | none, none, some (3, t) => .mcast (t % 65536)
  | none, none, _ => k.dest

/-- The metadata that a packet carries to its egress half; ECN of the first IP header that its parse finds, which may stand behind a control word (R294, R297). -/
def igMeta (k : Look) (r : IgRun) (win : Window) (p : Pkt) : Pkt :=
  let q : Parsed := k.p
  let tos := if q.f pL3 != 0 || q.f oCw == 0 then q.f 0x33
    else if q.f pInL3 == 4 then win.at (q.f oInL3 + 1) else if q.f pInL3 == 6 then win.num (q.f oInL3) 4 / 2 ^ 20 % 256 else 0
  { p with
    tc := r.tc, colour := r.colour, tag := r.tag, lif := q.f 0x02, term := k.term, pop := k.pop, popEth := k.popEth, egList := r.egList, rule := k.rule,
    frameLen := q.f pFrameLen, lenSrc := q.f pLenSrc, app := q.f 0x08, ecn := tos % 4 == 1 || tos % 4 == 2 }

/-- The packet as its destination shapes it; none: discarded or trapped. -/
def State.routed (s : State) (d : Dest) (p : Pkt) : Option Pkt :=
  match d with
  | .unicast dev port qb nh => some { p with dev := dev, dport := port, queue := (qb + p.tc) % 524288, nh := some nh }
  | .mcast g => some { p with group := some g }
  | .queue q => some { p with dev := s.rd FAB_DEV_ID.ID, queue := q, dport := s.rootPort q }
  | _ => none

/-- The trace record of an ingress visit (R611). -/
def State.igTrace (s : State) (pipe : Nat) (k : Look) (r : IgRun) (d : Dest) (p : Pkt) : TraceRec :=
  let q : Parsed := k.p
  { logical := s.unit clsPipe pipe UNIT.LOGICAL, physical := pipe, gen := s.unit clsPipe pipe UNIT.GEN, passes := k.passes % 16,
    reason := match d with | .drop x => x | .trap x => x | _ => 0
    destDev := match d with | .unicast v _ _ _ => v | .queue _ => s.rd FAB_DEV_ID.ID | _ => 0
    dstPort := match d with | .unicast _ t _ _ => t | .trap _ => 48 | _ => 0x3F
    nhId := match d with | .unicast _ _ _ n => n | _ => 0
    tc := r.tc, colour := r.colour, lenSrc := q.f pLenSrc, frameLen := q.f pFrameLen, ruleId := k.rule, lif := q.f 0x02, exc := q.f pExc,
    time := p.rxNs, tables := k.reads, actions := r.trace,
    stages := stageTimes (7 + (if q.f 0x02 != 0 then 8 else 0) + (2 ^ min 4 k.passes - 1) * 16 + 256 + 512) s.mono p.at_ }

/-- The refusal report of a policer's red drop (R299, R301), under the queue and the device that the lookups had decided; 0 where they had decided none. -/
def policerReport (k : Look) (r : IgRun) (p : Pkt) : Prog := .look fun s =>
  let x := match k.dest with
    | .unicast dev port qb _ => (dev, (qb + r.tc) % 524288, port)
    | .queue q => (s.rd FAB_DEV_ID.ID, q, s.rootPort q)
    | _ => (0, 0, 0x3F)
  refusalReport 0xC0 x.2.1 r.colour true x.1 p.srcPort (s.reqLen { p with queue := x.2.1, dport := x.2.2 })

/-- Whether a frame is an ESMC frame, a slow-protocol frame of subtype 0x0A (PRESUMED, log entry 84); it goes to port 48 as an ordinary packet (R428). -/
def isEsmc (b : List Nat) : Bool := (b.drop 12).take 3 == [0x88, 0x09, 0x0A]

/-- A lookup that has ended in a discard or a trap, which is final (R698). -/
def Look.dead (k : Look) : Bool := match k.dest with | .drop _ => true | .trap _ => true | _ => false

/-- The end of a packet's last ingress pass: its actions and charges counted, its copies made, and the packet itself handed on, trapped or discarded. -/
def igFinish (pipe : Nat) (p : Pkt) (k : Look) (r : IgRun) (copies : List Nat) : Prog := .look fun s =>
  let port := p.srcPort
  let b := s.bodiesAt p.body
  let d := if isEsmc b.win && !k.dead && r.drop.isNone && r.trap.isNone && r.redir.isNone then Dest.queue (524264 + r.tc) else s.igDest k r port
  let p := igMeta k r b.window p
  let drop := match d with | .drop x => some x | .none => some 0x92 | _ => none
  let h : CopyHdr := {
    srcPort := port, dport := match d with | .unicast _ t _ _ => t | .trap _ => 48 | _ => 0x3F
    dev := match d with | .unicast v _ _ _ => v | _ => s.rd FAB_DEV_ID.ID
    nh := match d with | .unicast _ _ _ n => n | _ => 0
    dropped := drop.isSome, reason := drop.getD 0, tc := r.tc, colour := r.colour, lif := p.lif, time := p.rxNs, rule := k.rule }
  let sampler := if s.rd (SMP_PORT_CFG.IG_EN port) == 1 && port < 48 then some (s.rd (SMP_PORT_CFG.IG_INST port)) else none
  seqs [
    .put (.bodies p.body { b with
      lenCtrs := b.lenCtrs ++ [(2, 32 * pipe + 1)] ++ (if p.lif != 0 || k.lifList.isSome then [(5, 4 * p.lif + 1)] else []) ++ r.counts.map (fun c => (3, 2 * c + 1))
      charges := b.charges ++ r.charges }),
    count 2 (32 * pipe) 1,
    onlyIf (k.started) (count 5 (4 * p.lif) 1),
    each r.errors (fun e => actError e.1 e.2),
    each r.counts (fun c => count 3 (2 * c) 1),
    each r.polCount (fun c => count 4 (3 * c.1 + c.2) 1),
    each r.pols (fun x => .put (.polX x.1 x.2)),
    each (smpInstances sampler r.mirrors) (fun i => smpReach 0 pipe i p h (toCross pipe)),
    each copies (fun c => toCross pipe (s.trapCopy p c)),
    (match d, s.routed d p with
     | .trap x, _ => .andThen (feReason x) (toCross pipe (s.trapPkt p x))
     | _, some q => toCross pipe q
     | .drop x, none => .andThen (feReason x) (onlyIf (x == 0xC0) (policerReport k r p))
     | _, none => feReason 0x92),
    traceSelect 0 port (match d with | .drop _ => true | .trap _ => true | _ => false) k.multi (s.igTrace pipe k r d p),
    settleBody p.body,
    derefBody p.body]

/-! ### Searches in a half -/

/-- The search of a slot (R153 to R160): its hit after verification, and what it leaves behind. -/
def State.slotSearch (s : State) (slot cls kind : Nat) (field : Nat → Nat) : Option (TcHit × Prog) :=
  match s.tcProfile slot cls kind with
  | none => none
  | some k =>
    let key := s.tcKey k field
    let h := s.tcSearch k key
    let v := s.tcVerify h key
    some (v, tcAccount h v)

/-- The kind of the headers that a lookup uses, for the select table (R153). -/
def Look.kind (k : Look) : Nat := lookTop k.p k.term

/-- A searched packet's lookup state: the list it selects, its RULE_ID, MULTI and a drop (R156, R158, R160), which changes no outcome already final (R698). -/
def State.slotResult (s : State) (k : Look) (h : TcHit) (table : Nat) (put_ : Look → Option Nat → Look) : Look :=
  let rule := if h.hit then (s.tab (tcPage h.index) 0 h.index).f TCE.RULE_ID else k.rule
  let k := { k with rule := rule, multi := k.multi || (h.hit && h.multi), multiCopy := k.multiCopy || (h.hit && h.multi && s.on (ASM_PROF_CFG.MULTI_COPY h.profile)) }
  let k := k.read table (b2n h.hit) h.index 0
  match s.tcFate h with
  | .list l => put_ k l
  | .drop => if k.dead then k else k.decide (.drop 0x8E)

/-- The reasons of the copies that a packet leaves for port 48: its exceptions' and a multiple match's (R139, R158). -/
def State.igCopies (s : State) (k : Look) : List Nat :=
  (match s.excAction k.p with | (3, e) => [0x80 + e] | _ => []) ++ (if k.multiCopy then [0x8F] else [])

/-! ### Passes -/

/-- The lookup is over: the IG1 search, the lists in order, and the end of the visit (R154, R166, R698). -/
def igLast (pipe : Nat) (p : Pkt) (k : Look) : Prog := .look fun s =>
  let k := match k.dest with | .none => k.decide (.drop 0x92) | _ => k
  let q : Parsed := k.p
  let b := s.bodiesAt p.body
  let c : IgCtx := { p := q, look := k, win := b.window, len := if q.f pLenSrc != 0 then q.f pFrameLen else p.declMax, now := s.mono }
  let early := s.earlyTag c k k.dead
  let nh := match k.dest with | .unicast _ _ _ n => if early.2 then 0 else n | _ => 0
  let port := match k.dest with | .unicast _ t _ _ => t | _ => 0
  let field (x : Nat) : Nat := if x == 0x05 then early.1 else if x == 0x70 then nh else if x == 0x71 then port else if x == 0x72 then 0 else q.f x
  let found := if k.noList then none else s.slotSearch 1 ((s.lifE (q.f 0x02)).f LIF.IG_ACL_CLASS) k.kind field
  let k := match found with
    | some (h, _) => s.slotResult k h 14 (fun k l => { k with ig1 := l })
    | none => k
  let c := { c with look := k }
  let r := igWords s c (s.igLists k) { final := k.dead }
  .andThen (match found with | some (_, g) => g | none => .skip) (igFinish pipe p k r (s.igCopies k))

/-- After a pass: the end, another pass, or a discard when the passes or the recirculation queue run out (R195, R243, R244). -/
def igNext (pipe : Nat) (p : Pkt) (k : Look) : Prog := .look fun s =>
  let k := { k with passes := k.passes + 1 }
  match k.probe with
  | .done => igLast pipe p k
  | pr =>
    if s.rd LPM_CFG.MAX_PASS + 1 ≤ k.passes then
      (match pr with
       | .lpm .. => seqs [count 2 (32 * pipe + 6) 1, raise 100 17, igLast pipe p (k.decide (if s.rd LPM_CFG.EXHAUST == 1 then .trap 0x91 else .drop 0x91))]
       | _ => igLast pipe p (k.decide (.drop 0xA2)))
    else if (s.recQAt pipe).length < 64 then .put (.recQ pipe (s.recQAt pipe ++ [(p, k)]))
    else .andThen (raise (112 + pipe) 17) (igFinish pipe p { k.decide (.drop 0xA3) with noList := true } { drop := some 0xA3, final := true } (s.igCopies k))

/-- The first pass of a packet: parse, match, interface, IG0 and the first four probes (R132 to R143, R182 to R184). -/
def igFirst (pipe : Nat) (p : Pkt) : Prog := .look fun s =>
  let b := s.bodiesAt p.body
  let q := (s.matchPayload b.window (parse s.prsCfg b.window)).put 0x01 p.srcPort
  let over_ (d : Dest) : Prog := let k : Look := { p := q, dest := d, noList := true, passes := 1 }; igFinish pipe p k { final := true } (s.igCopies k)
  match s.excAction q with
  | (1, e) => over_ (.drop (0x80 + e))
  | (2, e) => over_ (.trap (0x80 + e))
  | _ =>
    if s.lifPoison q p.srcPort then over_ (.drop 0xA8)
    else
      match s.findLif q p.srcPort with
      | none => igNext pipe p { p := q, dest := .drop 0x93, noList := true }
      | some (term, lif) =>
        let e := s.lifE lif
        let q := ((q.put 0x02 lif).put 0x03 (e.f LIF.VRF)).put 0x04 (e.f LIF.BD)
        let k : Look := { p := q, term := term, started := true, lifList := e.listOf LIF.LIST_EN LIF.LIST }
        let k := (k.read 1 1 lif 0).read 2 1 lif 0
        let field (x : Nat) : Nat := if x == 0x05 || x == 0x70 || x == 0x71 || x == 0x72 then 0 else q.f x
        let found := s.slotSearch 0 (e.f LIF.IG_ACL_CLASS) k.kind field
        let k := match found with
          | some (h, _) => s.slotResult k h 13 (fun k l => { k with ig0 := l })
          | none => k
        let k := match k.dest with | .none => s.lookStart k lif | _ => k
        let x := lookProbes s pipe p.srcPort 4 k
        .andThen (match found with | some (_, g) => g | none => .skip) (.andThen x.2 (igNext pipe p x.1))

/-- The packet slots of every 16 that an ingress half may use: 12 while the device throttles (R682). -/
def State.slotCap (s : State) : Nat := if s.rd PWR_STAT.THROTTLING == 1 then 12 else 16

/-- The slots of every 16 that recirculated passes may take (R243). -/
def State.recircShare (s : State) : Nat := max 1 (s.rd PIPE_RECIRC_CFG.SHARE)

/-- A packet slot of a half is used, by a recirculated pass or a new packet; a recirculated pass beyond the share finds the next window begun (R243). -/
def useSlot (pipe : Nat) (recirc : Bool) : Prog := .look fun s =>
  let x := s.slotXAt pipe
  let x := if s.slotCap ≤ x.1 || (recirc && s.recircShare ≤ x.2) then (0, 0) else x
  .put (.slotX pipe (x.1 + 1, x.2 + b2n recirc))

/-- Whether recirculated passes may take the next slot of a half (R243): their share of the window is not used up, or no new packet waits, so that the slots of the window
that remain go by idle. -/
def State.recircTurn (s : State) (pipe : Nat) : Bool :=
  let x := s.slotXAt pipe
  !(s.recQAt pipe).isEmpty && (s.slotCap ≤ x.1 || decide (x.2 < s.recircShare) || (s.inQAt (s.unit clsPipe pipe UNIT.LOGICAL)).isEmpty)

/-- Whether a physical pipeline is active. -/
def State.pipeActive (s : State) (pipe : Nat) : Bool := s.role clsPipe pipe == 1

/-- INGRESS_PASS (R222): an active half takes the oldest packet of its input queue, unless recirculated passes have the slot; `flips` are the bits that TCAM
rows have lost since, `ctrs` the counters (family * 2^22 + index) whose memory fails (R597).  In the Fatal safe state every received frame is discarded (R587). -/
def execIngressPass (pipe : Nat) (flips : List (Nat × Nat)) (ctrs : List Nat) (s : State) : Host.Outcome State Fault Refusal :=
  command (.ingressPass pipe flips ctrs) (.andThen (.andThen (flipRows flips) (countersFail ctrs)) (.look fun s =>
    let l := s.unit clsPipe pipe UNIT.LOGICAL
    onlyIf (s.pipeActive pipe && !s.leaving clsPipe pipe && !s.recircTurn pipe) (
      match s.inQAt l with
      | [] => .skip
      | p :: r => seqs [.put (.inQ l r), useSlot pipe false, if s.fatalLatch then derefBody p.body else igFirst pipe { p with pipe := pipe, gen := s.unit clsPipe pipe UNIT.GEN }]))) s

/-- RECIRC_PASS (R243): a recirculated packet continues its lookup at the next candidate. -/
def execRecircPass (pipe : Nat) (flips : List (Nat × Nat)) (s : State) : Host.Outcome State Fault Refusal :=
  command (.recircPass pipe flips) (.andThen (flipRows flips) (.look fun s =>
    onlyIf (s.pipeActive pipe && s.recircTurn pipe) (
      match s.recQAt pipe with
      | [] => .skip
      | (p, k) :: r =>
        let x := lookProbes s pipe p.srcPort 4 k
        if s.fatalLatch then seqs [.put (.recQ pipe r), useSlot pipe true, derefBody p.body]
        else seqs [.put (.recQ pipe r), useSlot pipe true, count 2 (32 * pipe + 4) 1, x.2, igNext pipe p x.1]))) s

end Sys2Proof.Machine
end

