-- ==== Sys2Proof/Machine/Egress.lean ====
section
/-!
DEFINITION. The egress halves and the transmit side of the ports (spec/06_pipelines.md R233 to R240; spec/04 R133, R166 to R172, R695; spec/11 R432, R433;
spec/08 R319, R320).
-/
namespace Sys2Proof.Machine

/-! ### A packet in an egress half -/

/-- What an egress half sees of a packet: the bytes it edits, whether they are the packet whole, what of the packet's head follows them, how many bytes of
the body they replace, and the parse window. -/
structure EgView where
  bytes : List Nat
  small : Bool
  keep : List Nat
  skip : Nat
  win : Window
  deriving DecidableEq, Repr

/-- The view of a packet: the first 256 bytes, or a shorter packet whole.  The parse window is the one of the frame as it came, its FCS behind the packet's bytes
(R131 to R133). -/
def State.egView (s : State) (p : Pkt) : EgView :=
  let b := s.pktBytes p
  let whole := (s.bodiesAt p.body).whole || p.trunc != 0
  if whole && b.length < 256 then ⟨b, true, [], 16384, windowOf (withFcs b) true⟩
  else ⟨b.take 256, false, p.head.drop 256, p.skip + (256 - min 256 p.head.length), windowOf (b.take 256) false⟩

/-- Whether the parse window of a packet is there (R132). -/
def EgView.ready (e : EgView) : Bool := e.small || e.bytes.length == 256

/-- The egress fields of a packet's next hop on this device (R205): none where it has none that is valid and unicast. -/
def State.egNh (s : State) (p : Pkt) : Option Entry :=
  match p.nh with
  | some n => let e := s.tab 103 0 n; if e.on NH.VALID && e.f NH.KIND == 0 then some e else none
  | none => none

/-- The packet with its next hop's egress interface, and the frame after the tunnel strip, the pops and the next hop's DMAC (R182, R201, R205). -/
def State.egFrame (s : State) (p : Pkt) (q : Parsed) (b : List Nat) (nh : Option Entry) : EgFrame :=
  let c := s.prsCfg
  let x := ((EgFrame.ofWindow c q b).strip c q b p.term).popped c p.pop p.popEth
  match nh with
  | some e => { x with dmac := e.f NH.DMAC_LO + e.f NH.DMAC_HI * 2 ^ 32 }
  | none => x

/-- A field of the EG0 key: of the headers as received, with the metadata that the packet carries (R133, R140, R153). -/
def State.egField (s : State) (p : Pkt) (q : Parsed) (x : Nat) : Nat :=
  let lif := s.lifE p.lif
  let own := p.srcDev == s.rd FAB_DEV_ID.ID
  if x == 0x01 then p.srcPort else if x == 0x02 then p.lif
  else if x == 0x03 then (if own then lif.f LIF.VRF else 0) else if x == 0x04 then (if own then lif.f LIF.BD else 0)
  else if x == 0x05 then p.tag else if x == 0x70 then p.nh.getD 0 else if x == 0x71 then p.dport else if x == 0x72 then p.tc
  else q.f x

/-- A packet dropped in an egress half: its reason, and its place in the transmit sequence, which no later packet waits for (R233, R234). -/
def egDrop (p : Pkt) (reason : Nat) : Prog := seqs [
  feReason reason,
  onlyIf (reason == 0xA8) (count 8 (7 * p.queue + 6) 1),
  derefBody p.body,
  .look fun s => .put (.txHold p.dport (s.txHoldAt p.dport ++ [{ p with kind := 5, stamp := s.mono }]))]

/-- The outcome of the lists of an egress half: copies, counts, the trace record, and the rewritten packet held for its sequence, or its discard. -/
def egFinish (pipe : Nat) (p : Pkt) (q : Parsed) (r : EgRun) (nh : Option Entry) (e : EgView) (multi : Option Bool) (rule : Nat) : Prog := .look fun s =>
  let port := p.dport
  let b := s.bodiesAt p.body
  let x := (if p.mark then r.x.markCe q else r.x).fixIp
  let egLif := match nh with | some e => e.f NH.EG_LIF | none => 0
  let out := { p with head := r.raw.getD x.bytes ++ e.keep, skip := e.skip, trunc := if e.small then 0 else p.trunc, egLif := egLif, egOk := nh.isSome, rule := rule, stamp := s.mono }
  let h : CopyHdr := {
    srcPort := p.srcPort, dport := port, dev := s.rd FAB_DEV_ID.ID, nh := p.nh.getD 0, dropped := r.drop.isSome, reason := r.drop.getD 0,
    tc := p.tc, colour := p.colour, lif := p.lif, egLif := egLif, time := s.ns64, rule := rule }
  let sampler := if s.rd (SMP_PORT_CFG.EG_EN port) == 1 && port < 48 then some (s.rd (SMP_PORT_CFG.EG_INST port)) else none
  let tr : TraceRec := {
    logical := s.unit clsPipe pipe UNIT.LOGICAL, physical := pipe, gen := s.unit clsPipe pipe UNIT.GEN, passes := 1, reason := r.drop.getD 0,
    destDev := s.rd FAB_DEV_ID.ID, dstPort := port, tc := p.tc, colour := p.colour, lenSrc := p.lenSrc, frameLen := p.frameLen, ruleId := rule, lif := p.lif,
    exc := q.f pExc, nhId := p.nh.getD 0, time := s.ns64 - (s.mono - p.stamp), stages := stageTimes 31 s.mono p.stamp,
    tables := [(16 * 2 ^ 24 + b2n nh.isSome * 2 ^ 22 + p.nh.getD 0, 0)], actions := r.trace }
  seqs [
    .put (.bodies p.body { b with lenCtrs := b.lenCtrs ++ [(2, 32 * pipe + 3)] ++ r.counts.map (fun c => (3, 2 * c + 1)) }),
    count 2 (32 * pipe + 2) 1,
    each r.errors (fun e => actError e.1 e.2),
    each r.counts (fun c => count 3 (2 * c) 1),
    each (smpInstances sampler r.mirrors) (fun i => smpReach 1 pipe i { out with srcPort := 50 } h (toCross pipe)),
    onlyIf (multi == some true) (toCross pipe (s.trapCopy p 0x8F)),
    traceSelect 1 port r.drop.isSome multi.isSome tr,
    settleBody p.body,
    (match r.drop with
     | some d => egDrop p d
     | none => .look fun t => .put (.txHold port (t.txHoldAt port ++ [out])))]

/-- EGRESS_PASS (R133, R233): an active half takes the oldest packet that waits for it, once its parse window is there; `flips` are the bits that TCAM rows have
lost since. -/
def execEgressPass (pipe : Nat) (flips : List (Nat × Nat)) (s : State) : Host.Outcome State Fault Refusal :=
  command (.egressPass pipe flips) (.andThen (flipRows flips) (.look fun s =>
    match s.egQAt pipe with
    | [] => .skip
    | p :: rest =>
      let e := s.egView p
      onlyIf (s.pipeActive pipe && e.ready && decide ((s.txHoldAt p.dport).length < 256)) (
        .andThen (.put (.egQ pipe rest)) (
          let q := parse s.prsCfg e.win
          let nh := s.egNh p
          match s.excDrop q with
          | some x => egFinish pipe p q { raw := some e.bytes, drop := some (0x80 + x) } none e none p.rule
          | none =>
            if (match p.nh with | some n => s.directPoison 2 n | none => false) then
              egFinish pipe p q { raw := some e.bytes, drop := some 0xA8 } none e none p.rule
            else
              let eg := match nh with | some y => s.lifE (y.f NH.EG_LIF) | none => {}
              let cls := if eg.on LIF.VALID then eg.f LIF.EG_ACL_CLASS else 0
              let found := s.slotSearch 2 cls (lookTop q p.term) (s.egField p q)
              let g : EgCtx := { c := s.prsCfg, p := q, upd := s.on ACT_CFG.L4_CSUM_UPD, keepZero := s.on ACT_CFG.UDP4_ZERO_KEEP, custom := s.cfg PRS_TPID.CUSTOM }
              let eg0 : Option Nat × Option Nat := match found with
                | some (h, _) => (match s.tcFate h with | .list l => (l, none) | .drop => (none, some 0x8E))
                | none => (none, none)
              let multi := match found with
                | some (h, _) => if h.hit && h.multi then some (s.on (ASM_PROF_CFG.MULTI_COPY h.profile)) else none
                | none => none
              let rule := match found with | some (h, _) => (if h.hit then (s.tab (tcPage h.index) 0 h.index).f TCE.RULE_ID else p.rule) | none => p.rule
              let nhList := match nh with | some y => y.listOf NH.LIST_EN NH.LIST | none => none
              let lists := s.optList 5 p.egList ++ s.optList 6 nhList ++ s.optList 7 eg0.1
              let r := egWords g lists { x := s.egFrame p q e.bytes nh, drop := eg0.2 }
              .andThen (match found with | some (_, a) => a | none => .skip) (egFinish pipe p q r nh e multi rule))))) s

/-! ### Transmit order (R233, R234) -/

/-- Whether a sequence value follows another, serially modulo 2^16. -/
def seqAfter (a b : Nat) : Bool := let d := (a + 65536 - b % 65536) % 65536; d != 0 && d < 32768

/-- The packet at the port's next sequence value, if it is there, goes to the MAC. -/
def txRelease (port : Nat) : Prog := .look fun s =>
  match (s.txHoldAt port).find? (fun p => p.txSeq == s.txExpAt port) with
  | none => .skip
  | some p => seqs [
      .put (.txHold port ((s.txHoldAt port).filter (fun x => x.txSeq != p.txSeq))),
      .put (.txExp port ((s.txExpAt port + 1) % 65536)),
      onlyIf (p.kind != 5) (.put (.macQ port (s.macQAt port ++ [p])))]

/-- TX_SEQ_RELEASE (R233): the port's transmit stage releases packets in sequence order. -/
def execTxSeqRelease (port : Nat) (s : State) : Host.Outcome State Fault Refusal :=
  command (.txSeqRelease port) (each (List.range 256) (fun _ => txRelease port)) s

/-- TX_GAP_TIMEOUT (R234): a sequence value that has not arrived 4 µs after a later one is passed over and counted. -/
def execTxGapTimeout (port : Nat) (s : State) : Host.Outcome State Fault Refusal :=
  command (.txGapTimeout port) (.look fun s =>
    let l := s.txHoldAt port
    let e := s.txExpAt port
    match l.find? (fun p => l.all (fun q => q.txSeq == p.txSeq || seqAfter q.txSeq p.txSeq)) with
    | none => .skip
    | some p =>
      onlyIf (seqAfter p.txSeq e && l.any (fun q => s.since q.stamp 4000)) (seqs [
        .put (.txExp port p.txSeq),
        count 0 (128 * port + 23) 1,
        raise 112 18])) s

/-! ### PTP at the transmit side (R430 to R433) -/

/-- Whether a port stamps PTP messages: it is no FlexE group member (R430). -/
def State.ptpPort (s : State) (port : Nat) : Bool := (s.flxHeldAt port).isNone

/-- Whether PTP on the transport of a parsed message is enabled at a port. -/
def State.ptpTransport (s : State) (port : Nat) (q : Parsed) : Bool :=
  if q.f pL3 == 4 then s.rd (PTP_PORT_CFG.UDP4 port) == 1 else if q.f pL3 == 6 then s.rd (PTP_PORT_CFG.UDP6 port) == 1 else s.rd (PTP_PORT_CFG.L2 port) == 1

/-- Whether the transparent clock of a port corrects a message: an event message of a domain other than the clock's own (R431, R433). -/
def State.tcApplies (s : State) (port : Nat) (p : Pkt) (q : Parsed) : Bool :=
  let t := s.rd (PTP_PORT_CFG.TC port)
  (t == 1 || t == 2) && p.kind == 0 && s.ptpPort port && s.ptpTransport port q && q.f 0x08 == 2 &&
    (s.rd PTP_CLOCK_CFG.MODE == 0 || q.f 0x5D != s.rd PTP_CLOCK_CFG.DOMAIN)

/-- The bytes with `n` bytes at `o` replaced by a number. -/
def putNum (b : List Nat) (o n v : Nat) : List Nat := b.take o ++ toBytesBE n v ++ b.drop (o + n)

/-- A packet whose frame begins on the wire now: the egress stamp (R429), NS64 in `at_` and MONO in `stamp`. -/
def State.stamped (s : State) (p : Pkt) : Pkt := { p with at_ := s.ns64, stamp := s.mono }

/-- The correction of an event message by its residence time, from its receive time to its egress stamp; none: it is forwarded uncorrected and counted (R433). -/
def State.tcCorrect (s : State) (p : Pkt) (q : Parsed) (b : List Nat) : Option (List Nat) :=
  let now := p.at_
  let res := now - p.rxNs
  let stepped := match s.stepAt with
    | some t => decide ((p.stamp : Int) - ((res : Int) - s.stepDelta / 65536) ≤ t) && decide (t ≤ p.stamp)
    | none => false
  let o := q.f oPtpCorr
  let old := ofBytesBE ((b.drop o).take 8)
  let b1 := putNum b o 8 ((old + res * 65536) % 2 ^ 64)
  let l4 := q.f oL4
  let pay := ofBytesBE ((b.drop (l4 + 4)).take 2) - 8
  let msg := ofBytesBE ((b.drop (o - 6)).take 2)
  if p.rxNs == 0 || now < p.rxNs || 1000000000 < res || stepped then none
  else if q.f pL3 == 4 then some (putNum b1 (l4 + 6) 2 0)
  else if q.f pL3 == 6 then
    (if pay < msg + 2 then none
     else
      let e := l4 + 8 + pay - 2
      let swap (n : Nat) : Nat := if pay % 2 == 0 then n else n % 256 * 256 + n / 256
      let last := swap (ofBytesBE ((b.drop e).take 2))
      let new := add16 (add16 last (onesSum ((b.drop o).take 8))) (not16 (onesSum ((b1.drop o).take 8)))
      some (putNum b1 e 2 (swap new)))
  else some b1

/-- The frame as the MAC sends it, and what its PTP content makes the device do: a transparent clock's correction (R433), the timestamp of a Sync message in one step, or an entry in
the PTP_TSF FIFO (R432). -/
def State.ptpSend (s : State) (port : Nat) (p : Pkt) (b : List Nat) : List Nat × Prog :=
  let q := parse s.prsCfg (windowOf (b ++ [0, 0, 0, 0]) true)
  if s.tcApplies port p q then
    (match s.tcCorrect p q b with
     | some c => (c, .skip)
     | none => (b, bumpF PTP_TC_SKIPPED.COUNT 1))
  else if p.kind == 3 && q.f 0x08 == 2 && s.rd (PTP_PORT_CFG.EN port) == 1 && s.ptpPort port && q.f 0x5D == s.rd PTP_CLOCK_CFG.DOMAIN then
    (if s.rd (PTP_PORT_CFG.ONE_STEP port) == 1 && q.f 0x5C == 0 then (putNum b (q.f oPtpOrigin) 10 (p.at_ / 1000000000 * 2 ^ 32 + p.at_ % 1000000000), .skip)
     else (b, tsfPush port (q.f 0x5C) (q.f 0x5D) (q.f pPtpSeq) (p.at_ / 1000000000) (p.at_ % 1000000000)))
  else (b, .skip)

/-! ### Frames on the wire -/

/-- The size bin of a frame length with FCS (R593). -/
def sizeBin (n : Nat) : Nat := if n ≤ 64 then 0 else if n ≤ 127 then 1 else if n ≤ 255 then 2 else if n ≤ 511 then 3 else if n ≤ 1023 then 4
  else if n ≤ 1518 then 5 else if n ≤ 2047 then 6 else 7

/-- The kind of a destination address: 2 unicast, 3 multicast, 4 broadcast (offsets of R593). -/
def daKind (b : List Nat) : Nat := if (b.take 6).all (· == 255) then 4 else if b.getD 0 0 % 2 == 1 then 3 else 2

/-- A frame of `b` without FCS has left a port: its counters (R593). -/
def countSent (port : Nat) (b : List Nat) (stomped underrun : Bool) : Prog :=
  let o := 128 * port + 16
  let n := b.length + 4
  seqs [
    count 0 o 1, count 0 (o + 1) n, count 0 (o + daKind b) 1, onlyIf stomped (count 0 (o + 5) 1), onlyIf underrun (count 0 (o + 6) 1),
    count 0 (o + 8 + sizeBin n) 1]

/-- The end of a frame on the wire: padded to 60 bytes unless an underrun ends it (R695), with its FCS or the stomp value (R238, R239), counted; its gate may have closed
before its last bit (R320). -/
def frameEnd (port : Nat) (p : Pkt) (stomp underrun late : Bool) : Prog := .look fun s =>
  let x := if underrun then (s.pktBytes p, .skip) else s.ptpSend port p (s.pktBytes p)
  let b := if underrun then x.1 else x.1 ++ List.replicate (60 - x.1.length) 0
  seqs [
    x.2,
    emit (.frame port (asBytes (if stomp || underrun then withStomp b else withFcs b)) (stomp || underrun)),
    countSent port b stomp underrun,
    onlyIf p.egOk (.andThen (count 5 (4 * p.egLif + 2) 1) (count 5 (4 * p.egLif + 3) (b.length + 4))),
    onlyIf late (.andThen (bumpF (GATE_OVERRUN.COUNT port) 1) (raise (180 + port) 18)),
    .put (.txNow port none),
    derefBody p.body,
    pauseFlush port]

/-- A packet discarded with 0xA1 at a port that has not begun its frame (R237). -/
def tailDiscard (port : Nat) (p : Pkt) : Prog := seqs [
  feReason 0xA1, tailCounts port p.queue, markLost p, derefBody p.body]

/-- FRAME_TRANSMIT (R238, R239, R319): a port that is up begins its next frame, in an open gate, when the packet is whole or the receiving port is fast enough, and ends the frame
in progress once its tail is there; `underrun` says that a byte had not arrived when it had to be sent. -/
def execFrameTransmit (port : Nat) (underrun : Bool) (s : State) : Host.Outcome State Fault Refusal :=
  command (.frameTransmit port underrun) (.look fun s =>
    onlyIf (s.rd (PORT_STAT.LINK_UP port) == 1 && !s.fatalLatch) (
      match s.txNowAt port with
      | some p =>
        let b := s.bodiesAt p.body
        let late := p.late || !bitOf (s.gateStates port (s.gateClock p)) (p.queue % 8)
        if b.whole then frameEnd port p (b.tail != 0) false late else onlyIf underrun (frameEnd port p false true late)
      | none =>
        match s.macQAt port with
        | [] => .skip
        | p :: rest =>
          let b := s.bodiesAt p.body
          let tc := p.queue % 8
          let now := s.gateClock p
          let late := match s.wireLeft port now tc with
            | some n => decide (n < s.bitTimes port (8 * (8 + max 60 (s.pktBytes p).length + 4)))
            | none => false
          if b.whole && b.tail != 0 then .andThen (.put (.macQ port rest)) (tailDiscard port p)
          else onlyIf (bitOf (s.gateStates port now) tc && (b.whole || decide (s.portGbps port ≤ b.gbps))) (seqs [
            .put (.macQ port rest),
            markSent p,
            (if b.whole then frameEnd port (s.stamped p) false false late else .put (.txNow port (some (s.stamped p))))]))) s

end Sys2Proof.Machine
end

