-- ==== Sys2Proof/Machine/Queues.lean ====
section
/-!
DEFINITION. Queues of the egress device (spec/07_buffers.md R264 to R270, R277 to R283; spec/08_queues_and_scheduling.md R292 to R298): admission, enqueue, discard, and the
refill of HEAD.
-/
namespace Sys2Proof.Machine

/-! ### Capacity (R279, R305) -/

/-- Whether the Granary takes part in spill (R252). -/
def State.grnReady (s : State) : Bool := s.rd GRN_STAT.STATE == 2 && s.rd GRN_CFG.EN == 1

/-- A queue's CAP in bytes (R279). -/
def State.qCap (s : State) (q : Nat) : Nat :=
  let p := s.qProf q
  p.f PROF.T1_STOP * 1024 + (if p.on PROF.SPILL_EN then p.f PROF.HBM_LIMIT * 2 ^ 20 else 0) +
    (if p.on PROF.GRN_EN && s.grnReady then p.f PROF.GRN_LIMIT * 2 ^ 20 else 0)

/-- The second and third conditions of R279 for `n` bytes. -/
def State.qRoom (s : State) (q n : Nat) : Bool :=
  let x := s.qxAt q
  ((x.spill && !x.blocked) || decide (x.t1 + x.granted + n ≤ (s.qProf q).f PROF.T1_STOP * 1024)) && decide (x.bytes + x.granted + n ≤ s.qCap q)

/-- The scheduling length of a packet in a queue (R305). -/
def State.qLen (s : State) (q : Nat) (p : Pkt) : Nat := s.schedLen (s.rootPort q) (s.frameLen p ((s.qe q).f QE.MAX_LEN))

/-- The length that an ingress device declares for a packet, with FCS (R254). -/
def declLen (p : Pkt) : Nat :=
  let n := if p.lenSrc != 0 then p.frameLen else p.declMax
  if p.trunc == 0 then n else min n p.trunc

/-! ### Admission (R294 to R296) -/

/-- Whether P(D) of R296 strikes, for a draw. -/
def aqmStrikes (a : Entry) (d draw_ : Nat) : Bool :=
  let lo := a.f ADM.ECN_MIN * 1024
  let hi := a.f ADM.ECN_MAX * 1024
  if d < lo then false else if hi ≤ d then true else decide (draw_ % (100 * (hi - lo)) < a.f ADM.PMAX * (d - lo))

/-- The admission meter of an Elastic queue (R295): whether it passes, and the meter after; the bucket starts full. -/
def State.qMeter (s : State) (q len : Nat) : Bool × QX :=
  let x := s.qxAt q
  let pir := (s.nodeRates (s.rootPort q) 4 q).2
  let full := (s.qAdm q).f ADM.BURST * 1024 * 8000
  let used := x.used - (s.mono - x.usedAt) * pir
  if pir == 0 then (true, x)
  else if used ≤ full then (true, { x with used := used + 8000 * len, usedAt := s.mono }) else (false, { x with used := used, usedAt := s.mono })

/-- The admission meter filled to now at the PIR in force until now, before it changes (R295, R309). -/
def settleMeter (q : Nat) : Prog := .look fun s =>
  let x := s.qxAt q
  .put (.qx q { x with used := x.used - (s.mono - x.usedAt) * (s.nodeRates (s.rootPort q) 4 q).2, usedAt := s.mono })

/-- The buckets of a port's nodes and the meters of its queues filled to now, before the port's rate changes (R295, R307). -/
def settlePort (port : Nat) : Prog := .look fun s => .andThen
  (each (s.shpX.filter (fun kv => decide (kv.1 / 2 ^ 20 < 5) && s.nodePort kv.1 == port)) (fun kv => settleNode (kv.1 / 2 ^ 20) (kv.1 % 2 ^ 20)))
  (each (s.qx.filter (fun kv => s.rootPort kv.1 == port)) (fun kv => settleMeter kv.1))

/-- A packet of a credit request: the bytes of credit, its scheduling length, colour, whether its IP header is ECN-capable, and the first test it still has to pass. -/
structure Ask where
  n : Nat
  len : Nat
  colour : Nat
  ecn : Bool
  step : Nat
  /-- Its tier-1 reservation stands already (R259). -/
  resv : Bool := false
  deriving DecidableEq, Repr

/-- The decision of R294 for one packet, handed on as the verdict (0 grant, 1 hold, 2 refuse), the reason and the test that held it.  A grant reserves tier 1 and adds to the queue's
outstanding grants (R259, R279). -/
def admitToQueue (q : Nat) (a : Ask) (k : Nat → Nat → Nat → Prog) : Prog := .look fun s =>
  let e := s.qe q
  let cls := e.f QE.CLASS
  let el := cls == 2
  let adm := s.qAdm q
  let r := s.rootPort q
  let last : Prog := .look fun s =>
    let x := s.qxAt q
    if a.resv then .andThen (.put (.qx q { x with granted := x.granted + a.n })) (k 0 0 7)
    else if s.bpmAdmit 1 r (2 * a.n) then
      .andThen (reserve r a.n) (.andThen (.put (.qx q { x with granted := x.granted + a.n })) (k 0 0 7))
    else k 1 0 6
  let colour : Prog := .look fun s =>
    let x := s.qxAt q
    let pct := if a.colour == 1 then adm.f ADM.YEL_PCT else if a.colour == 2 then adm.f ADM.RED_PCT else 100
    if s.qCap q * pct < (x.bytes + x.granted + a.len) * 100 then k 2 0xC2 4
    else if adm.on ADM.AQM_DROP && !a.ecn then draw (fun v => if aqmStrikes adm x.bytes v then k 2 0xC3 5 else last)
    else last
  let room : Prog := .look fun s =>
    if s.qRoom q a.n then (if el && a.step ≤ 5 then colour else last)
    else if cls == 1 then k 1 0 3 else k 2 (if cls == 0 then 0xC4 else 0xC2) 3
  if !e.on QE.EN then k 2 0xC5 1
  else if 6 ≤ a.step then (if s.qRoom q a.n then last else k 1 0 6)
  else if el && a.step ≤ 2 then (let m := s.qMeter q a.len; .andThen (.put (.qx q m.2)) (if m.1 then room else k 2 0xC1 2))
  else room

/-- A grant of `n` bytes to a queue ends: its reservation and its place in the outstanding grants. -/
def ungrant (q r n : Nat) : Prog := .look fun s =>
  let x := s.qxAt q
  .andThen (.put (.qx q { x with granted := x.granted - n })) (unreserve r n)

/-! ### Enqueue and discard (R265, R270, R277, R281) -/

/-- The oldest packets whose buffer bytes reach or first exceed an amount, and the rest (R265). -/
def splitAt_ (size : Pkt → Nat) (keep : Nat) : List Pkt → Nat → List Pkt × List Pkt
  | [], _ => ([], [])
  | p :: r, used => if keep ≤ used then ([], p :: r) else let x := splitAt_ size keep r (used + size p); (p :: x.1, x.2)

/-- Queues in spill state and BLOCKED, as BUF shows them. -/
def spillCount (f : Fld) (on : Bool) : Prog := .look fun s => setF f (if on then s.rd f + 1 else s.rd f - 1)

/-- A packet of a queue that is no longer in any of its parts is discarded with a reason (R280): counted, reported where R301 counts the reason, its buffer
reference and its bytes released. -/
def qDiscard (q : Nat) (p : Pkt) (reason : Nat) : Prog := seqs [
  tmReason reason, count 8 (7 * q + 6) 1,
  onlyIf ([0xB6, 0xB7, 0xB8, 0xC6, 0xC7].contains reason) (.look fun s => refusalReport reason q p.colour false p.srcDev p.srcPort (s.qLen q p)),
  markLost p, onlyIf (p.buf != 0) (releaseBuffer p.buf), derefBody p.body]

/-- Whether a packet of a queue has expired (R277, R278). -/
def State.expired (s : State) (q : Nat) (p : Pkt) : Bool :=
  let ms := let a := (s.qProf q).f PROF.AGE_LIMIT; if a == 0 || 120000 < a then 120000 else a
  let age := (s.mono / 64 + 2 ^ 32 - p.stamp) % 2 ^ 32
  decide (age < 2 ^ 31) && decide (ms * 1000000 < age * 64)

/-! ### Drain (R268, R269, R271) -/

/-- The buffer bytes of a segment. -/
def Seg.bytes (g : Seg) : Nat := g.pkts.foldl (fun a x => a + x.2.1) 0

/-- Whether a refill from tier 3 is under way, as GRN_DRAIN and the queue's pacing show it (R271, R310). -/
def grnDrainShow (q : Nat) : Prog := .look fun s =>
  let x := s.qxAt q
  let on := x.mid.any (fun g => g.tier == 3 && g.reading)
  onlyIf (on != x.grnDrain) (.andThen (.put (.qx q { x with grnDrain := on })) (setMill (nodeKey 4 q) 4 on))

/-- The lower-tier buffer or twin of a descriptor in a segment goes back (R273, R276). -/
def tierRelease (tier req : Nat) (x : Pkt × Nat × Option Nat) : Prog := .look fun s =>
  match x.2.2 with
  | none => lowerGive tier req x.2.1
  | some t =>
    match s.twins.find? (fun w => w.id == t) with
    | none => .skip
    | some w =>
      if 1 < w.held then .put (.twins (s.twins.map (fun y => if y.id == t then { y with held := y.held - 1 } else y)))
      else .andThen (lowerGive w.tier w.req w.size) (.put (.twins (s.twins.filter (fun y => y.id != t))))

/-- One turn of the drain engine (R268): a read of the oldest segment not being read, or the pending write cancelled into HEAD, or the front of TAIL moved. -/
def drainTurn (q : Nat) : Prog := .look fun s =>
  let x := s.qxAt q
  let keep := (s.qProf q).f PROF.HEAD_KEEP * 1024
  let flight := (x.mid.filter (fun g => g.reading)).foldl (fun a g => a + g.bytes) 0
  let reads := (x.mid.filter (fun g => g.reading)).length
  onlyIf (decide (s.sumBytes x.head + flight < keep) && decide (reads < 64)) (
    match x.mid.find? (fun g => !g.reading), x.mid, x.writing with
    | some g, _, _ => .put (.qx q { x with mid := x.mid.map (fun y => if y.id == g.id then { y with reading := true } else y) })
    | none, [], some b => .andThen (.put (.qx q { x with head := x.head ++ x.tail.take b.n, tail := x.tail.drop b.n, writing := none }))
        (each b.seg (tierRelease b.tier (s.rootPort q)))
    | none, [], none =>
      let h := splitAt_ s.bufBytes (keep - s.sumBytes x.head) x.tail 0
      .put (.qx q { x with head := x.head ++ h.1, tail := h.2 })
    | none, _, _ => .skip)

/-- The drain engine starts when HEAD falls below HEAD_KEEP / 2 (R268); spill state ends when MIDDLE is empty and tier 1 holds little (R269). -/
def drainStep (q : Nat) : Prog := .look fun s =>
  let x := s.qxAt q
  let pr := s.qProf q
  onlyIf x.spill (seqs [
    onlyIf (decide (s.sumBytes x.head < pr.f PROF.HEAD_KEEP * 512)) (each (List.range 65) (fun _ => drainTurn q)),
    grnDrainShow q,
    .look fun t =>
      let y := t.qxAt q
      onlyIf (y.mid.isEmpty && y.writing.isNone && decide (y.t1 ≤ pr.f PROF.SPILL_ON * 512)) (seqs [
        .put (.qx q { y with head := y.head ++ y.tail, tail := [], spill := false, blocked := false }),
        spillCount BUF_SPILL_Q.COUNT false,
        onlyIf y.blocked (spillCount BUF_BLOCKED_Q.COUNT false)]),
    .look fun y0 =>
      let y := y0.qxAt q
      let st := y.head.isEmpty && !y.mid.isEmpty
      onlyIf (st != y.starve) (.andThen (.put (.qx q { y with starve := st })) (onlyIf st (.andThen (.put (.starves (y0.starves + 1))) (raise 145 19))))])

/-- A packet that has reached the head of its queue and fits no window of its class is discarded with 0xC6 (R323), and so is the next, `fuel` of them at most. -/
def headFits (q : Nat) : Nat → Prog
  | 0 => .skip
  | fuel + 1 => .look fun s =>
    let x := s.qxAt q
    match x.head with
    | [] => .skip
    | p :: rest =>
      onlyIf (s.neverFits (s.rootPort q) (q % 8) (s.frameLen p ((s.qe q).f QE.MAX_LEN))) (seqs [
        .put (.qx q { x with head := rest, t1 := x.t1 - s.bufBytes p }),
        drainStep q, qDiscard q p 0xC6, headFits q fuel])

/-- The head of a queue after a change of what stands there. -/
def headCheck (q : Nat) : Prog := .look fun s => let x := s.qxAt q; headFits q (x.head.length + x.tail.length + 1)

/-- The drain engine, and what it brings to the head (R268, R269, R323). -/
def drain (q : Nat) : Prog := .andThen (drainStep q) (headCheck q)

/-- The head packet of a queue leaves it; the drain engine follows (R268). -/
def popHead (q : Nat) (p : Pkt) : Prog := .look fun s =>
  let x := s.qxAt q
  .andThen (.put (.qx q { x with head := x.head.drop 1, t1 := x.t1 - s.bufBytes p })) (drain q)

/-- The heads of a port's queues at a list change (R323). -/
def headsFit (port : Nat) : Prog := .look fun s => each (s.qx.filter (fun kv => s.rootPort kv.1 == port)) (fun kv => headCheck kv.1)

/-- A packet that holds its tier-1 buffer joins its queue (R264, R265, R270, R277). -/
def enqueue (q : Nat) (p : Pkt) : Prog := .look fun s =>
  let x := s.qxAt q
  let pr := s.qProf q
  let p := { p with queue := q, stamp := s.mono / 64 % 2 ^ 32 }
  let t1 := x.t1 + s.bufBytes p
  let begin_ := !x.spill && pr.on PROF.SPILL_EN && decide (pr.f PROF.SPILL_ON * 1024 < t1)
  let h := splitAt_ s.bufBytes (pr.f PROF.HEAD_KEEP * 1024) (x.head ++ [p]) 0
  seqs [
    count 8 (7 * q) 1,
    count 8 (7 * q + 1) (s.qLen q p),
    .put (.qx q (if x.spill then { x with tail := x.tail ++ [p], t1 := t1 }
      else if begin_ then { x with head := h.1, tail := h.2, spill := true, t1 := t1 } else { x with head := x.head ++ [p], t1 := t1 })),
    onlyIf begin_ (spillCount BUF_SPILL_Q.COUNT true),
    onlyIf x.head.isEmpty (headCheck q)]

/-- A copy without a grant (R281, R298): enqueued if its queue passes the capacity tests and, if Elastic, tests 2, 4 and 5; else discarded alone. -/
def enqueueCopy (q : Nat) (p : Pkt) : Prog := .look fun s =>
  let e := s.qe q
  let cls := e.f QE.CLASS
  let len := s.qLen q p
  let adm := s.qAdm q
  let refuse (r : Nat) : Prog := seqs [
    tmReason r, count 8 (7 * q + 5) 1, refusalReport r q p.colour false p.srcDev p.srcPort len, markLost p, releaseBuffer p.buf, derefBody p.body]
  if !e.on QE.EN then refuse 0xC5
  else if !s.qRoom q (s.bufBytes p) then refuse (if cls == 1 then 0xB4 else 0xB3)
  else if cls == 2 then
    let m := s.qMeter q len
    let x := s.qxAt q
    let pct := if p.colour == 1 then adm.f ADM.YEL_PCT else if p.colour == 2 then adm.f ADM.RED_PCT else 100
    .andThen (.put (.qx q m.2)) (
      if !m.1 then refuse 0xC1
      else if s.qCap q * pct < (x.bytes + x.granted + len) * 100 then refuse 0xC2
      else if adm.on ADM.AQM_DROP && !p.ecn then draw (fun v => if aqmStrikes adm x.bytes v then refuse 0xC3 else enqueue q p)
      else enqueue q p)
  else enqueue q p

/-- GATE_LIST_CHANGE (R325): at T the pending list becomes the operational one. -/
def execGateListChange (port : Nat) (s : State) : Host.Outcome State Fault Refusal :=
  command (.gateListChange port) (whenEnabled (180 + port) <| .look fun s =>
    let x := s.gateXAt port
    match x.pend with
    | none => .skip
    | some q =>
      let entries := gateCycle q.cycle q.list 0
      onlyIf (q.at_ ≤ s.ns64) (seqs [
        gateUnits port q.regs,
        each (List.zip (List.range q.list.length) q.list) (fun y =>
          .look fun t => setTab (180 + port) 1 y.1 ((({} : Entry).put (ed 0 7 0) y.2.1).put (ed 1 29 0) y.2.2)),
        setF (GATE_OPER_CYCLE.VALUE port) q.cycle,
        setF (GATE_OPER_LEN.VALUE port) q.list.length,
        setF (GATE_STAT.OPER_VALID port) 1,
        each (List.range 8) (fun t => setF (GATE_MAX_OPEN.NS port t) (maxOpen entries t)),
        .put (.gateX port { x with base := q.base, pend := none, list := q.at_ }),
        gateTime port q.at_,
        commitDone (180 + port),
        raise (180 + port) 16,
        gateSeen port (x.list != q.at_),
        headsFit port])) s

/-- The front of MIDDLE where HEAD is empty (R278): expired packets of the oldest segment go without their payloads being read, and with its last packet the segment. -/
def ageMiddle (q : Nat) : Prog := .look fun s =>
  let x := s.qxAt q
  match x.mid with
  | [] => .skip
  | g :: rest =>
    let old := g.pkts.takeWhile (fun y => s.expired q y.1)
    let left := { g with pkts := g.pkts.drop old.length, gone := g.gone + old.length }
    let n := old.foldl (fun a y => a + y.2.1) 0
    onlyIf (!old.isEmpty && !g.read) (seqs [
      .put (.qx q { x with
        mid := if left.pkts.isEmpty then rest else left :: rest
        hbm := if g.tier == 2 then x.hbm - n else x.hbm, grn := if g.tier == 3 then x.grn - n else x.grn,
        sticky := x.sticky && !(g.tier == 3 && x.grn - n == 0) }),
      each old (fun y => .andThen (tierRelease g.tier (s.rootPort q) y) (qDiscard q { y.1 with buf := 0 } 0xB6)),
      drain q])

/-- Expired packets at the front of HEAD are discarded (R278). -/
def ageFront (q : Nat) : Prog := .look fun s =>
  let x := s.qxAt q
  if x.head.isEmpty && !x.mid.isEmpty then ageMiddle q else
  let old := x.head.takeWhile (s.expired q)
  onlyIf (!old.isEmpty) (seqs [
    .put (.qx q { x with head := x.head.drop old.length, t1 := x.t1 - s.sumBytes old, fitWait := false }),
    onlyIf x.fitWait (setF SCH_STAT.FIT_WAIT (s.rd SCH_STAT.FIT_WAIT - 1)),
    each old (fun p => qDiscard q p 0xB6),
    drain q])

/-- Expired packets at the front of a queue are discarded, those that a refill brings to its front too (R278). -/
def ageHead (q : Nat) : Prog := .look fun s => each (List.range ((s.qxAt q).tail.length + 1)) (fun _ => ageFront q)

/-- BUF_AGE_SWEEP (R278): the sweeper has visited the head of every queue; `late` says that the sweep took longer than 1 ms.  Nothing ages in the Fatal safe state (R587). -/
def execBufAgeSweep (late : Bool) (s : State) : Host.Outcome State Fault Refusal :=
  command (.bufAgeSweep late) (whenEnabled 145 <| .look fun s =>
    .andThen (onlyIf (!s.fatalLatch) (each (s.qx.map Prod.fst) ageHead)) (onlyIf late (.andThen (setF BUF_AGE_STAT.LATE 1) (raise 145 20)))) s

/-! ### Flush (QM_FLUSH, R280) -/

/-- Every packet that a queue holds in any tier is discarded; tier-2 and tier-3 segments are freed without being read. -/
def flushQueue (q reason : Nat) : Prog := .look fun s =>
  let x := s.qxAt q
  let r := s.rootPort q
  seqs [
    .put (.qx q { used := x.used, usedAt := x.usedAt, granted := x.granted }),
    onlyIf x.spill (spillCount BUF_SPILL_Q.COUNT false),
    onlyIf x.blocked (spillCount BUF_BLOCKED_Q.COUNT false),
    onlyIf x.fitWait (setF SCH_STAT.FIT_WAIT (s.rd SCH_STAT.FIT_WAIT - 1)),
    onlyIf x.grnDrain (setMill (nodeKey 4 q) 4 false),
    each (match x.writing with | some b => b.seg | none => []) (tierRelease ((x.writing.map Batch.tier).getD 2) r),
    each x.head (fun p => qDiscard q p reason),
    each x.mid (fun g => each g.pkts (fun y => .andThen (tierRelease g.tier r y) (qDiscard q { y.1 with buf := 0 } reason))),
    each x.tail (fun p => qDiscard q p reason)]

/-- The GO of QM_FLUSH (ignored while BUSY). -/
def flushGo (data : Nat) : Prog := .look fun s =>
  let q := data % 2 ^ 19
  .andThen (onlyIf (s.rd QM_FLUSH.BUSY == 0) (setF QM_FLUSH.QUEUE q))
    (onlyIf (bitOf data 31 && s.rd QM_FLUSH.BUSY == 0) (seqs [
      setF QM_FLUSH.GO 1, setF QM_FLUSH.BUSY 1, .put (.flushing (some (q, s.mono))), flushQueue q 0xC7]))

/-- QUEUE_FLUSH_DONE: the flush has ended. -/
def execQueueFlushDone (s : State) : Host.Outcome State Fault Refusal :=
  command .queueFlushDone (.look fun s => onlyIf s.flushing.isSome (seqs [
    .put (.flushing none), setF QM_FLUSH.GO 0, setF QM_FLUSH.BUSY 0, raise 176 17])) s

end Sys2Proof.Machine
end

