-- ==== Sys2Proof/Machine/Switch.lean ====
section
/-!
DEFINITION. The switch core (spec/09_fabric.md R366 to R369, R371): the matching of normal cells, the cyclic pattern of privileged and SLOT cells, and the share of a
link's frames that is reserved for them.
-/
namespace Sys2Proof.Machine

/-! ### A TM clock of the core (R366 to R368) -/

/-- How far a number lies at or after a pointer that goes round `n` places. -/
def after (n ptr x : Nat) : Nat := (x + n - ptr % n) % n

/-- The element of a list that comes first at or after a pointer that goes round `n` places. -/
def firstFrom (n ptr : Nat) (l : List Nat) : Option Nat := l.foldl (fun a x => match a with
  | none => some x
  | some y => if after n ptr x < after n ptr y then some x else some y) none

/-- The first waiting cell of an input in a queue: the privileged queue, or the queue of an output. -/
def xbHead (w : List XbCell) (i : Nat) (priv : Bool) (out : Option Nat) : Option XbCell :=
  w.find? (fun c => c.input == i && c.priv == priv && (match out with | some o => c.out == o | none => true))

/-- The output that an input owns in clock `t`; none when its row takes no part (R368). -/
def xbOwned (t i : Nat) : Option Nat := if i / 13 % 2 == t % 2 then some ((i % 13 + t / 2) % 13) else none

/-- The privileged and SLOT cells that leave in clock `t`: the head of each input that owns its output (R368). -/
def xbPriv (t : Nat) (w : List XbCell) : List XbCell :=
  ((w.filter XbCell.priv).map XbCell.input).eraseDups.filterMap (fun i =>
    match xbHead w i true none with
    | some c => if xbOwned t i == some c.out then some c else none
    | none => none)

/-- The cells of a clock that an output takes: 2, and LOCAL 16 (R366). -/
def xbPlaces (o : Nat) : Nat := if o == 12 then 16 else 2

/-- The matching of normal cells so far in a clock: the pointers and the cells that leave. -/
structure XbMatch where
  grant : List Nat
  accept : List Nat
  sent : List XbCell
  deriving DecidableEq, Repr

/-- One iteration of the matching (R367): each output with a free place grants an unmatched input that requests it, each input accepts one grant; the first iteration moves
the pointers. -/
def xbIterate (w : List XbCell) (first : Bool) (m : XbMatch) : XbMatch :=
  let free (i : Nat) : Bool := !m.sent.any (fun c => c.input == i)
  let wants (i o : Nat) : Bool := (xbHead w i false (some o)).isSome
  let inputs := ((w.filter (fun c => !c.priv && free c.input)).map XbCell.input).eraseDups
  let grants := (List.range 13).filterMap (fun o =>
    if (m.sent.filter (fun c => c.out == o)).length < xbPlaces o then
      (firstFrom 52 (m.grant.getD o 0) (inputs.filter (fun i => wants i o))).map (fun i => (i, o))
    else none)
  inputs.foldl (fun m i =>
    match firstFrom 13 (m.accept.getD i 0) ((grants.filter (fun g => g.1 == i)).map Prod.snd) with
    | none => m
    | some o =>
      match xbHead w i false (some o) with
      | none => m
      | some c => {
          grant := if first then m.grant.set o ((i + 1) % 52) else m.grant
          accept := if first then m.accept.set i ((o + 1) % 13) else m.accept
          sent := m.sent ++ [c] }) m

/-- The iterations of a clock: the first and `n` more (R367). -/
def xbMatch (w : List XbCell) : Nat → Bool → XbMatch → XbMatch
  | 0, first, m => xbIterate w first m
  | n + 1, first, m => xbMatch w n false (xbIterate w first m)

/-! ### Links (R369, R371) -/

/-- The frame of 64 cell times in which a link is: 64 * 256 bytes at 401.5 Gb/s (R330, R369). -/
def State.linkFrame (s : State) : Nat := s.mono * 501875 / 163840000

/-- A cell leaves on a link, under the link's transmit generation. -/
def sendCell (l type body : Nat) (payload : List Nat) : Prog := .look fun s =>
  .andThen (emit (.cell l (cellBytes type (s.rd (FLC_LINK_STAT.TX_GEN (l / 12) (l % 12))) body payload))) (count 11 (16 * l) 1)

/-- The bytes of privileged and SLOT cells that a link has sent in the running frame. -/
def State.privUsed (s : State) (l : Nat) : Nat := if (s.privUseAt l).1 == s.linkFrame then (s.privUseAt l).2 else 0

/-- Whether a privileged cell fits the share of the running frame of a link (R369). -/
def State.privFits (s : State) (l n : Nat) : Bool := decide (s.privUsed l + n ≤ min 24 (s.cfg FAB_PRIV_CFG.SHARE) * 256)

/-- A privileged, SLOT or privileged CTRL cell at its link: it leaves within the share of the frame, or waits behind the earlier ones (R369, R371). -/
def sendPriv (c : XbCell) : Prog := .look fun s =>
  let n := cellLen c.payload.length
  if (s.privWaitAt c.link).isEmpty && s.linkUp c.link && s.privFits c.link n && !s.fatalLatch then
    .andThen (.put (.privUse c.link (s.linkFrame, s.privUsed c.link + n))) (sendCell c.link c.type c.body c.payload)
  else .put (.privWait c.link (s.privWaitAt c.link ++ [c]))

/-- The bytes of normal cells that a link has sent in the running frame. -/
def State.normUsed (s : State) (l : Nat) : Nat := if (s.normUseAt l).1 == s.linkFrame then (s.normUseAt l).2 else 0

/-- Whether a normal cell fits the running frame of a link beside what privileged and normal cells have taken of it: bytes of the share that those leave unused go to normal cells (R369). -/
def State.normFits (s : State) (l n : Nat) : Bool := decide (s.privUsed l + s.normUsed l + n ≤ 64 * 256)

/-- A normal cell at its link's transmit queue: it leaves within the frame, or waits behind the earlier ones (R341, R369). -/
def sendNorm (c : XbCell) : Prog := .look fun s =>
  let n := cellLen c.payload.length
  if (s.normWaitAt c.link).isEmpty && s.linkUp c.link && s.normFits c.link n && !s.fatalLatch then
    .andThen (.put (.normUse c.link (s.linkFrame, s.normUsed c.link + n))) (sendCell c.link c.type c.body c.payload)
  else .put (.normWait c.link (s.normWaitAt c.link ++ [c]))

/-- A cell that has left the core goes to its link; one for LOCAL has arrived (R358). -/
def xbLeave (c : XbCell) : Prog := if c.out == 12 then .skip else if c.priv then sendPriv c else sendNorm c

/-- Cells that waited for room in a new frame leave; those of a link that is no longer UP are sprayed again on another one, and wait while there is none (R341). -/
def normDrain (l : Nat) (other : XbCell → Option Nat) : Prog := .look fun s =>
  let w := s.normWaitAt l
  onlyIf (!w.isEmpty && !s.fatalLatch && (!s.linkUp l || decide ((s.normUseAt l).1 != s.linkFrame))) (
    .andThen (.put (.normWait l [])) (each w (fun c => match (if s.linkUp l then none else other c) with
      | some o => .andThen (count 11 (16 * l + 5) 1) (sendNorm { c with link := o })
      | none => sendNorm c)))

/-- Privileged cells that waited for a share of a new frame leave (R369); those of a link that is no longer UP go to another one, and wait while there is none (R341). -/
def privDrain (l : Nat) (other : XbCell → Option Nat) : Prog := .look fun s =>
  let w := s.privWaitAt l
  onlyIf (!w.isEmpty && !s.fatalLatch && (!s.linkUp l || decide ((s.privUseAt l).1 != s.linkFrame))) (
    .andThen (.put (.privWait l [])) (each w (fun c => match (if s.linkUp l then none else other c) with
      | some o => .andThen (count 11 (16 * l + 5) 1) (sendPriv { c with link := o })
      | none => sendPriv c)))

/-! ### The core -/

/-- TM clocks of the core until the waiting cells have left (R366 to R368). -/
def xbClocks : Nat → Prog
  | 0 => .skip
  | n + 1 => .look fun s =>
    let w := s.xbWait
    let t := s.xbT
    let p := xbPriv t w
    let m := xbMatch w (s.rd XBAR_CFG.ITER) true { grant := s.xbGrant, accept := s.xbAccept, sent := p }
    onlyIf (!w.isEmpty) (seqs [
      .put (.xbWait (w.filter (fun c => !m.sent.contains c))),
      .put (.xbT (t + 1)),
      .put (.xbGrant m.grant),
      .put (.xbAccept m.accept),
      .put (.xbMoved (rateAdd s.xbMoved s.mono m.sent.length)),
      .put (.xbPrivMoved (rateAdd s.xbPrivMoved s.mono p.length)),
      each m.sent xbLeave,
      xbClocks n])

/-- The cells that wait in the core leave it: within 26 clocks each. -/
def xbRun : Prog := .look fun s => xbClocks (26 * s.xbWait.length)

/-- A cell comes to an input of the core, numbered in its order of arrival. -/
def xbEnter (c : XbCell) : Prog := .look fun s => .put (.xbWait (s.xbWait ++ [{ c with serial := ((s.xbWait.getLast?).map (fun x => x.serial + 1)).getD 0 }]))

end Sys2Proof.Machine
end

