-- ==== Sys2Proof/Machine/Fabric.lean ====
section
/-!
DEFINITION. The fabric interface, the switch core's LOCAL path and replication (spec/09_fabric.md R332 to R337, R344 to R363, R372 to R380): cells, credit,
streams, slot channels and multicast.
-/
namespace Sys2Proof.Machine

/-! ### Spraying (R344, R370) -/

/-- A value at header bit `lo` of a cell (R333). -/
def hb (lo v : Nat) : Nat := v * 2 ^ (lo - 8)

/-- Whether FC stops a link for a kind of cell: bit 0 normal cells, bit 1 privileged and SLOT cells (R338). -/
def State.fcStops (s : State) (l : Nat) (priv : Bool) : Bool := bitOf (s.rd (FLC_LINK_STAT.FC (l / 12) (l % 12))) (b2n priv)

/-- The links that may carry cells to a device: UP, reaching it and not stopped. -/
def State.linksTo (s : State) (d : Nat) (priv : Bool) : List Nat := (List.range 144).filter (fun l => s.linkReaches l d && !s.fcStops l priv)

/-- The links for multicast cells: UP links whose reach includes every member that any UP link reaches. -/
def State.linksToAll (s : State) (members : BitVec 1024) : List Nat :=
  let want := members &&& s.reachAll
  let reach (l : Nat) : BitVec 1024 := if s.rd (FLC_LINK_STAT.REACH_VALID (l / 12) (l % 12)) == 1 then (s.linkXAt l).reach else 0
  (List.range 144).filter (fun l => s.linkUp l && !s.fcStops l false && (reach l &&& want == want))

/-- The stream of a destination's unicast cells. -/
def ucStream (d : Nat) (priv : Bool) : Nat := if priv then 1024 + d else d

/-- The link with which a stream's rotation goes on: after the last one used; a privileged stream starts at (ID * 7) mod 144. -/
def State.sprayStart (s : State) (stream : Nat) : Nat :=
  let v := s.sprayAtAt stream
  if v != 0 then v - 1 else if (1024 ≤ stream && stream < 2048) || 4096 ≤ stream then s.ownId * 7 % 144 else 0

/-- The next link of a rotation. -/
def nextLink (links : List Nat) (start : Nat) : Option Nat :=
  match links.find? (fun l => decide (start ≤ l)) with
  | some l => some l
  | none => links.head?

/-- The next link of a stream's rotation among `links`. -/
def spray (stream : Nat) (links : State → List Nat) (k : Nat → Prog) : Prog := .look fun s =>
  match nextLink (links s) (s.sprayStart stream) with
  | none => .skip
  | some l => .andThen (.put (.sprayAt stream ((l + 1) % 144 + 1))) (k l)

/-- Whether the fabric interface works on the links (R356, R363). -/
def State.fabOn (s : State) : Bool := s.rd FAB_SYS_CFG.EN == 1 && s.rd FAB_SYS_CFG.STANDALONE == 0

/-- A control message to a device, in a CTRL cell of its own (R336). -/
def ctrlMsg (d : Nat) (priv : Bool) (msg : Nat) (links : State → List Nat) (k : Nat → Prog) : Prog := .look fun s =>
  onlyIf s.fabOn (spray (ucStream d priv) links (fun l =>
    let body := hb 58 d + hb 48 s.ownId + hb 44 1 + hb 43 (b2n priv)
    .andThen (xbLeave { link := l, priv := priv, type := 3, body := body, payload := toBytesBE 16 msg, dest := d }) (k l)))

/-- The message of an operand's four words, bits 127:96 first. -/
def msgOf (w : List Word) : Nat := w.foldl (fun a x => a * 2 ^ 32 + x.toNat) 0

/-- Bits [hi:lo] of a message. -/
def mb (msg hi lo : Nat) : Nat := msg / 2 ^ lo % 2 ^ (hi + 1 - lo)

/-- How far `b` lies behind `a`, modulo 2^16. -/
def behind (a b : Nat) : Nat := (a % 65536 + 65536 - b % 65536) % 65536

/-! ### Staging use (R260, R262, R700) -/

/-- The switch-core input of a staged packet: its port, 48 host packets, 49 service injections, 50 copies that come back. -/
def Pkt.input (p : Pkt) : Nat :=
  if p.kind == 4 then 48 else if p.kind == 3 then 49
  else if p.srcPort < 48 && !(p.kind == 2 && (p.copy.map CopyHdr.half).getD 0 == 1) then p.srcPort else 50

/-- Whether a packet is a copy for the host, which keeps a tail error and is sent with it (R240). -/
def Pkt.hostCopy (p : Pkt) : Bool := (p.kind == 1 && p.dup) || (p.kind == 2 && p.qp != 0)

/-- Staging bytes in use, with those reserved for host packets. -/
def State.stgUsed (s : State) : Nat := s.stgUse.foldl (fun a kv => a + kv.2) 0 + s.stgResv

/-- Free staging bytes of the 16 MiB. -/
def State.stgFree (s : State) : Nat := 2 ^ 24 - s.stgUsed

/-- The classes of a port in XOFF from staging: a lossless class at its own XOFF until XON, or all lossless ones while free space is short (R262). -/
def State.stgXoffNow (s : State) (p : Nat) (globalOn : Bool) : Nat × Nat :=
  let ll := s.rd BUF_STG_TC.LOSSLESS
  let own := (List.range 8).foldl (fun a t =>
    let u := s.stgUseAt (8 * p + t)
    let on := bitOf ll t && (if bitOf (s.stgXoffAt p) t then decide (min (s.rd (BUF_STG_PORT.XON p)) (s.rd (BUF_STG_PORT.XOFF p) - 1) * 1024 < u) else decide (s.rd (BUF_STG_PORT.XOFF p) * 1024 ≤ u))
    withBit a t on) 0
  (own, if globalOn then ll else own)

/-- A port's XOFF and use registers follow its staging bytes. -/
def stgPort (p : Nat) (g : Bool) : Prog := .look fun s =>
  let x := s.stgXoffNow p g
  let use := (List.range 8).foldl (fun a t => a + s.stgUseAt (8 * p + t)) 0
  seqs [
    .put (.stgXoff p x.1),
    onlyIf (x.2 != s.rd (BUF_STG_PORT.XOFF_TC p)) (.andThen (setF (BUF_STG_PORT.XOFF_TC p) x.2) (raise 145 16)),
    setF (BUF_STG_PORT.USE_KIB p) ((use + 1023) / 1024),
    xoffRefresh p]

/-- Staging changed for an input: its free space, the global hold and the ports' XOFF (R262). -/
def stgChanged (input : Nat) : Prog := .look fun s =>
  let free := s.stgFree
  let lim := s.rd BUF_STG_GLOBAL.GLOBAL_XOFF * 1024
  let g := if s.stgGlobal then decide (free < lim + 2 ^ 20) else decide (free < lim)
  seqs [
    setF BUF_STG_FREE.FREE_KIB (free / 1024),
    .put (.stgGlobal g),
    (if g != s.stgGlobal then each (List.range 48) (fun p => stgPort p g) else onlyIf (input < 48) (stgPort input g))]

/-- XOFF is judged again when software has written its levels (R262). -/
def stgJudge : Prog := .look fun s =>
  let lim := s.rd BUF_STG_GLOBAL.GLOBAL_XOFF * 1024
  let g := if s.stgGlobal then decide (s.stgFree < lim + 2 ^ 20) else decide (s.stgFree < lim)
  .andThen (.put (.stgGlobal g)) (each (List.range 48) (fun p => stgPort p g))

/-- A packet's bytes leave staging. -/
def stgGive (p : Pkt) : Prog := .look fun s =>
  let k := 8 * p.input + p.tc
  .andThen (.put (.stgUse k (s.stgUseAt k - p.stg))) (stgChanged p.input)

/-- A drop in staging is counted by its input and reason (R261, R700), with BLOCK_INT bit 17. -/
def stgDropped (input reason : Nat) : Prog := .look fun s =>
  .andThen (.put (.stgDrops (256 * input + reason) (s.stgDropsAt (256 * input + reason) + 1))) (raise 145 17)

/-- Whether a host or service packet of `n` bytes may be fetched (R259): tier 1 can be reserved for it where its queue is this device's. -/
def State.fetchRoom (s : State) (dev q n : Nat) : Bool := dev != s.ownId || s.bpmAdmit 1 (s.rootPort q) (2 * n)

/-- The reservation of a host or service packet that is fetched. -/
def fetchReserve (dev q n : Nat) : Prog := .look fun s => onlyIf (dev == s.ownId) (reserve (s.rootPort q) n)

/-- The tier-1 reservation of a host or service packet that ends before it lands (R259). -/
def stgUnreserve (p : Pkt) : Prog := .look fun s => onlyIf (p.resv != 0) (unreserve (s.rootPort p.queue) p.resv)

/-- A packet is discarded in staging: its reason, its place in the counters of its destination and TC, its bytes and its reference (R300). -/
def stgDiscard (p : Pkt) (reason off : Nat) : Prog := seqs [
  tmReason reason, count 9 (4 * (8 * p.dev + p.tc) + off) 1, stgGive p, stgUnreserve p, derefBody p.body]

/-- The class of a privileged packet (QM_PRIV_TC). -/
def State.privileged (s : State) (p : Pkt) : Bool := bitOf (s.rd QM_PRIV_TC.PRIV) p.tc

/-! ### The cells of a packet (R332, R335) -/

/-- The receive time as the cell packet header carries it, through LOCAL too: 0 while TIME_VALID is 0 (R433). -/
def State.hdrTime (s : State) (p : Pkt) : Nat := if s.timeValid then p.rxNs else 0

/-- The packet header of a first cell (R335), its words most significant byte first. -/
def State.pktHeader (s : State) (p : Pkt) (seq : Nat) : List Nat :=
  let mc := p.group.isSome
  ([ (if mc then 0 else p.queue) * 2 ^ 13 + p.tc * 2 ^ 10 + p.colour * 2 ^ 8 + b2n p.ecn * 2 ^ 7 + p.srcPort % 64,
     seq * 2 ^ 16 + declLen p % 2 ^ 14,
     p.lif * 2 ^ 16 + p.group.getD 0,
     if mc then 0 else p.nh.getD 0,
     s.hdrTime p % 2 ^ 32, s.hdrTime p / 2 ^ 32,
     s.rd FAB_STAT.EPOCH * 2 ^ 24,
     b2n p.egList.isSome * 2 ^ 31 + p.pop * 2 ^ 27 + b2n p.popEth * 2 ^ 26 + p.egList.getD 0 ].map (toBytesBE 4)).flatten

/-- Cell payloads of 246 bytes, and the last of what is left once the packet is whole (R332). -/
def cellChunks (whole : Bool) : Nat → List Nat → List (List Nat × Bool)
  | 0, _ => []
  | f + 1, b =>
    if 246 < b.length then (b.take 246, false) :: cellChunks whole f (b.drop 246)
    else if whole && !b.isEmpty then [(b, true)] else []

/-- One cell of a packet of a stream (R333): POS, TAIL_ERR on the last cell, LEN and the stream's next CELL_SEQ; it enters the switch core at the packet's input, for the
cluster of the link that its stream's rotation gives (R366). -/
def dataCell (stream : Nat) (p : Pkt) (first last : Bool) (payload : List Nat) (links : State → List Nat) : Prog := .look fun s =>
  let pos := 2 * b2n last + b2n first
  let err := b2n (last && (s.bodiesAt p.body).tail != 0)
  let n := payload.length - 1
  let q := s.cellSeqAt stream
  .andThen (.put (.cellSeq stream ((q + 1) % 2 ^ 20))) (spray stream links (fun l =>
    let c : XbCell := { out := l / 12, link := l, payload := payload, dest := p.dev }
    match p.group with
    | none => xbEnter { c with input := p.input, priv := decide (1024 ≤ stream), type := 1,
                               body := hb 58 p.dev + hb 48 s.ownId + hb 28 q + hb 26 pos + hb 25 err + hb 24 (b2n (decide (1024 ≤ stream))) + hb 16 n }
    | some g => xbEnter { c with input := 51, type := 2, body := hb 52 g + hb 42 s.ownId + hb 22 q + hb 20 pos + hb 19 err + hb 11 n }))

/-- 29 all-ones blocks as a SLOT payload of 240 bytes: 1,914 bits and padding (R337). -/
def allOnes : List Nat := List.replicate 239 0xFF ++ [0xC0]

/-- The links of a stream. -/
def State.streamLinks (s : State) (stream : Nat) (p : Pkt) : List Nat :=
  match p.group with
  | some g => s.linksToAll (s.tab 242 0 g).ext
  | none => s.linksTo p.dev (1024 ≤ stream)

/-- The window bytes of a multicast packet: its buffer bytes, which are multiples of 256 (R375). -/
def mcBytes (p : Pkt) : Nat := poolSize (poolOf (declLen p - 4))

/-- A RELEASE for one packet, granted under a request as its place there says (R355). -/
def releaseOne (p : Pkt) (seq : Nat) : Prog := .look fun s =>
  ctrlMsg p.dev (s.privileged p) (3 * 2 ^ 124 + p.reqPos / 4 * 2 ^ 121 + p.queue * 2 ^ 102 + seq * 2 ^ 86 + s.rd FAB_STAT.EPOCH * 2 ^ 78 + 2 ^ (p.reqPos % 4))
    (fun t => t.linksTo p.dev (t.privileged p)) (fun _ => .skip)

/-- The window bytes of a multicast packet of which no cell was sent go back to its other members (R375). -/
def mcUnsend (p : Pkt) : Prog := .look fun s => match p.group with
  | none => .skip
  | some g => each ((List.range 1024).filter (fun d => (s.tab 242 0 g).ext.getLsbD d && d != s.ownId)) (fun d => .put (.mcOut d (s.mcOutAt d - mcBytes p)))

/-- A packet that was about to be sent leaves staging unsent: a unicast one gives its grant back (R355), a multicast one its window. -/
def unsend (p : Pkt) (seq : Nat) (k : Prog) : Prog := seqs [if p.group.isSome then mcUnsend p else releaseOne p seq, k]

/-- The packets of a stream are sent in order, each as far as its bytes have arrived; a sent packet leaves staging (R344, R345, R349).  One whose tail is known to be bad before its first cell is
discarded (R237, R355), and so is a multicast packet when no link qualifies (R344); a unicast one waits (R357). -/
def streamSend (stream : Nat) : List (Pkt × Nat × Nat) → Prog
  | [] => .put (.cellOpen stream [])
  | (p, sent, seq) :: r => .look fun s =>
    let b := (s.pktHeader p seq ++ s.pktBytes p).drop sent
    let cs := cellChunks (s.pktWhole p) 50 b
    let links (t : State) : List Nat := t.streamLinks stream p
    if sent == 0 && s.pktWhole p && (s.bodiesAt p.body).tail != 0 then .andThen (unsend p seq (stgDiscard p 0xA1 3)) (streamSend stream r)
    else if ((links s).isEmpty || !s.fabOn) && p.group.isSome then
      .andThen (if sent == 0 then unsend p seq (stgDiscard p 0xD5 3) else stgDiscard p 0xD5 3) (streamSend stream r)
    else if (links s).isEmpty || !s.fabOn then .put (.cellOpen stream ((p, sent, seq) :: r))
    else .andThen
      (each ((List.range cs.length).zip cs) (fun x => dataCell stream p (sent == 0 && x.1 == 0) x.2.2 x.2.1 links))
      (if cs.any (fun c => c.2) then .andThen (.andThen (stgGive p) (derefBody p.body)) (streamSend stream r)
       else .put (.cellOpen stream ((p, sent + (cs.map (fun c => c.1.length)).sum, seq) :: r)))

/-- The open packets of streams go on, and their cells through the switch core (R349, R366). -/
def pushCells (streams : List Nat) : Prog := .andThen
  (each streams (fun st => .look fun s => onlyIf (!(s.cellOpenAt st).isEmpty) (streamSend st (s.cellOpenAt st))))
  xbRun

/-! ### The source's requests (R349 to R355) -/

/-- The key of a request or record: device and REQ_SEQ. -/
def reqKey (d seq : Nat) : Nat := d * 65536 + seq % 65536

/-- The key of a staging queue: destination device and queue. -/
def stgKey (d q : Nat) : Nat := d * 2 ^ 19 + q

/-- A request as its message says it (R336). -/
def State.reqMsg (s : State) (seq : Nat) (x : ReqOut) : Nat :=
  let rec_ (p : Pkt) : Nat := min 16383 (s.reqLen p) * 8 + p.colour * 2 + b2n p.ecn
  2 ^ 124 + b2n x.priv * 2 ^ 123 + (x.pkts.length - 1) * 2 ^ 121 + x.queue * 2 ^ 102 + seq * 2 ^ 86 + s.rd FAB_STAT.EPOCH * 2 ^ 78 +
    ((List.range x.pkts.length).zip x.pkts).foldl (fun a y => a + rec_ y.2.1 * 2 ^ (17 * y.1)) 0

/-- A REQ is sent, on a link other than the one used last where another reaches the device (R351, R353). -/
def reqSendMsg (d seq : Nat) (again : Bool) : Prog := .look fun s =>
  match s.reqsAt (reqKey d seq) with
  | none => .skip
  | some x =>
    let links (t : State) : List Nat :=
      let l := t.linksTo d x.priv
      let o := l.filter (fun k => k != x.link)
      if again && !o.isEmpty then o else l
    ctrlMsg d x.priv (s.reqMsg seq x) links (fun l => .andThen
      (count 11 (16 * l + 3) 1)
      (.put (.reqs (reqKey d seq) (some { x with sends := x.sends + 1, sentAt := s.mono, link := l }))))

/-- A RELEASE for packets of a request (R355). -/
def releaseMsg (d seq mask : Nat) (x : ReqOut) : Prog := .look fun s =>
  ctrlMsg d x.priv (3 * 2 ^ 124 + (x.pkts.length - 1) * 2 ^ 121 + x.queue * 2 ^ 102 + seq * 2 ^ 86 + s.rd FAB_STAT.EPOCH * 2 ^ 78 + mask)
    (fun t => t.linksTo d x.priv) (fun _ => .skip)

/-- What a source keeps of a packet of a request that is sent or discarded. -/
def reqGone : Option Nat := some 4

/-- The requests of this device to another, oldest first. -/
def State.reqOrder (s : State) (d : Nat) : List Nat :=
  let l := s.reqs.filterMap (fun kv => if kv.1 / 65536 == d && kv.2.isSome then some (kv.1 % 65536) else none)
  l.mergeSort (fun a b => decide (behind (s.reqNextAt d) b ≤ behind (s.reqNextAt d) a))

/-- The packet at a place of a request is gone. -/
def ReqOut.gone (x : ReqOut) (i : Nat) : ReqOut :=
  { x with pkts := ((List.range x.pkts.length).zip x.pkts).map (fun y => if y.1 == i then (y.2.1, reqGone) else y.2) }

/-- A request changes, and goes once every packet of it has gone. -/
def setReq (d seq : Nat) (x : ReqOut) : Prog := .put (.reqs (reqKey d seq) (if x.pkts.all (fun y => y.2 == reqGone) then none else some x))

/-- Granted packets at the front of a request are handed to their stream, or discarded with 0xA1 and a RELEASE when their tail is known to be bad
(R237, R351, R355); none goes while an earlier packet of its queue still waits in the other stream (R349). -/
def goFront (d seq : Nat) : List (Nat × Pkt × Option Nat) → Prog
  | [] => .skip
  | (i, p, v) :: r =>
    if v == reqGone then goFront d seq r
    else if v == some 0 then .look fun s =>
      match s.reqsAt (reqKey d seq) with
      | none => .skip
      | some x =>
        let b := s.bodiesAt p.body
        let st := ucStream d x.priv
        onlyIf (!(s.cellOpenAt (ucStream d (!x.priv))).any (fun y => y.1.queue == p.queue)) <| seqs [
          setReq d seq (x.gone i),
          (if b.whole && b.tail != 0 then .andThen (releaseMsg d seq (2 ^ i) x) (stgDiscard p 0xA1 3)
           else .put (.cellOpen st (s.cellOpenAt st ++ [({ p with reqPos := 4 * (x.pkts.length - 1) + i }, 0, seq)]))),
          goFront d seq r]
    else .skip

/-- Requests of one destination and queue, oldest first, hand over what may be sent: a packet goes only after every earlier one (R349). -/
def goReqs (d : Nat) : List Nat → Prog
  | [] => .skip
  | seq :: r => .look fun s =>
    match s.reqsAt (reqKey d seq) with
    | none => goReqs d r
    | some x => .andThen (goFront d seq ((List.range x.pkts.length).zip x.pkts)) (.look fun t => onlyIf (t.reqsAt (reqKey d seq)).isNone (goReqs d r))

/-- Whatever a destination's queue may send now is sent, in rounds, since a packet of one stream may follow one of the other. -/
def fabricRounds (d q : Nat) : Nat → Prog
  | 0 => .skip
  | n + 1 => .look fun s => seqs [
    goReqs d ((s.reqOrder d).filter (fun seq => match s.reqsAt (reqKey d seq) with | some x => x.queue == q | none => false)),
    pushCells [ucStream d false, ucStream d true],
    .look fun t => onlyIf (t.reqs != s.reqs) (fabricRounds d q n)]

/-- Whatever a destination's queue may send now is sent. -/
def fabricGo (d q : Nat) : Prog := .look fun s => fabricRounds d q (4 * (s.reqOrder d).length + 1)

/-- A bad tail has arrived: packets of it that hold a grant, wherever they stand in their requests, are discarded at once with a RELEASE (R237, R355). -/
def tailKnown (i : Nat) : Prog := .look fun s =>
  onlyIf ((s.bodiesAt i).whole && (s.bodiesAt i).tail != 0) (each s.reqs fun kv => match kv.2 with
    | none => .skip
    | some x => each ((List.range x.pkts.length).zip x.pkts) fun y => onlyIf (y.2.1.body == i && y.2.2 == some 0) (.look fun t =>
        match t.reqsAt kv.1 with
        | none => .skip
        | some z => seqs [
            setReq (kv.1 / 65536) (kv.1 % 65536) (z.gone y.1),
            releaseMsg (kv.1 / 65536) (kv.1 % 65536) (2 ^ y.1) z,
            stgDiscard y.2.1 0xA1 3,
            fabricGo (kv.1 / 65536) x.queue]))

/-- The streams of a stored frame whose packets are being sent go on (R19, R235), and what waited behind them. -/
def pushBody (i : Nat) : Prog := .look fun s =>
  let mine := s.cellOpen.filter (fun kv => kv.2.any (fun y => y.1.body == i))
  seqs [
    tailKnown i,
    pushCells (mine.map Prod.fst),
    each ((mine.flatMap (fun kv => (kv.2.filter (fun y => y.1.group.isNone)).map (fun y => (y.1.dev, y.1.queue)))).eraseDups) (fun x => fabricGo x.1 x.2)]

/-- The cells of a packet pass the switch core from an input to the LOCAL output (R358, R366). -/
def localCells (input : Nat) (p : Pkt) : Prog := .look fun s =>
  .andThen (each (cellChunks true 50 (s.pktHeader p 0 ++ s.pktBytes p)) (fun c => xbEnter { input := input, out := 12, link := 0, priv := s.privileged p, type := 1, dest := s.ownId, body := 0, payload := c.1 }))
    xbRun

/-- Packets of this device's own ports at the front of a staging queue: tested under R294 and moved to tier 1 without a message (R358). -/
def localGo (q : Nat) : List Pkt → Prog
  | [] => .skip
  | p :: r => .look fun s =>
    let k := stgKey s.ownId q
    let b := s.bodiesAt p.body
    let pop : Prog := .look fun t => .put (.stg k ((t.stgAt k).drop 1))
    if b.whole && b.tail != 0 && !p.hostCopy then seqs [pop, tailCounts (s.rootPort q) q, stgDiscard p 0xA1 3, localGo q r]
    else
      let len := s.qLen q p
      admitToQueue q { n := declLen p, len := len, colour := p.colour, ecn := p.ecn, step := p.step, resv := p.resv != 0 } (fun v reason step =>
        if v == 0 then seqs [
          pop,
          count 9 (4 * (8 * p.dev + p.tc)) 1,
          count 9 (4 * (8 * p.dev + p.tc) + 1) (s.frameLen p p.declMax),
          localCells p.input p,
          ungrant q (s.rootPort q) (declLen p),
          stgGive p,
          landBody p.body (s.rootPort q) (declLen p) 1 (fun i => .andThen (cutLanded p) (enqueue q { p with buf := i, resv := 0, rxNs := s.hdrTime p })),
          localGo q r]
        else if v == 2 then seqs [
          pop,
          count 8 (7 * q + 5) 1,
          refusalReport reason q p.colour false s.ownId p.srcPort len,
          stgDiscard p reason 2,
          localGo q r]
        else .look fun t => .put (.stg k ({ p with step := step } :: (t.stgAt k).drop 1)))

/-- A request of up to four packets at the front of a staging queue (R349, R350): packets of one kind, privileged or not, to a reachable device, while fewer
than 2,048 requests to it are open. -/
def reqStart (d q : Nat) : Prog := .look fun s =>
  let l := s.stgAt (stgKey d q)
  match l with
  | [] => .skip
  | p :: _ =>
    let priv := s.privileged p
    let ps := (l.take 4).takeWhile (fun x => s.privileged x == priv)
    let seq := s.reqNextAt d
    onlyIf (s.fabOn && d ≤ s.rd FAB_SYS_CFG.MAX_DEV && !(s.linksTo d priv).isEmpty && (s.reqOrder d).length < 2048) (seqs [
      .put (.stg (stgKey d q) (l.drop ps.length)),
      .put (.reqNext d ((seq + 1) % 65536)),
      .put (.reqs (reqKey d seq) (some { queue := q, pkts := ps.map (fun x => (x, none)), priv := priv })),
      reqSendMsg d seq false])

/-- REQ_SEND (R351, R358): the packets staged for a device's queue are requested, or tested here when the device is this one. -/
def execReqSend (dev queue : Nat) (s : State) : Host.Outcome State Fault Refusal :=
  command (.reqSend dev queue) (whenEnabled 240 <| .look fun s => if dev == s.ownId then localGo queue (s.stgAt (stgKey dev queue)) else reqStart dev queue) s

/-- The packets of a request that has ended are discarded. -/
def reqDiscard (d seq reason : Nat) (x : ReqOut) : Prog := seqs [
  .put (.reqs (reqKey d seq) none),
  each (x.pkts.filter (fun y => y.2 != reqGone)) (fun y => stgDiscard y.1 reason 3),
  fabricGo d x.queue]

/-- REQ_RESEND (R353): 20 µs after a send without an ANS, or with HOLD, the REQ goes again; after REQ_TRIES sends without an ANS its packets are discarded. -/
def execReqResend (dev seq : Nat) (s : State) : Host.Outcome State Fault Refusal :=
  command (.reqResend dev seq) (.look fun s =>
    match s.reqsAt (reqKey dev seq) with
    | none => .skip
    | some x =>
      let waits := x.pkts.any (fun y => y.2 == none || y.2 == some 1)
      onlyIf (waits && x.sends != 0 && s.since x.sentAt 20000) (
        if max 1 (s.rd FAB_TIMERS.REQ_TRIES) ≤ x.sends && !x.answered then .andThen (reqDiscard dev seq 0xD7 x) (raise 240 19)
        else reqSendMsg dev seq true)) s

/-- What an ANS says of one packet of a request; a grant for a packet whose tail is known to be bad goes back at once (R355). -/
def ansOne (d seq : Nat) (verdict reason i : Nat) : Prog := .look fun s =>
  match s.reqsAt (reqKey d seq) with
  | none => .skip
  | some x =>
    match x.pkts[i]? with
    | none => .skip
    | some (p, v) =>
      let set_ (v : Nat) : ReqOut := { x with pkts := ((List.range x.pkts.length).zip x.pkts).map (fun y => if y.1 == i then (y.2.1, some v) else y.2) }
      if v == reqGone then .skip
      else if verdict == 0 then onlyIf (v != some 0) (seqs [
        count 9 (4 * (8 * d + p.tc)) 1, count 9 (4 * (8 * d + p.tc) + 1) (s.frameLen p p.declMax),
        if (s.bodiesAt p.body).whole && (s.bodiesAt p.body).tail != 0 then seqs [setReq d seq (x.gone i), releaseMsg d seq (2 ^ i) x, stgDiscard p 0xA1 3]
        else setReq d seq (set_ 0)])
      else if verdict == 1 then onlyIf (v != some 0) (setReq d seq (set_ 1))
      else if verdict == 2 then .andThen (setReq d seq (x.gone i)) (stgDiscard p reason 2)
      else .andThen (setReq d seq (x.gone i)) (stgDiscard p 0xD2 3)

/-- An ANS at the source (R351, R354): one with a stale EPOCH is discarded and counted. -/
def ansReceive (link src msg : Nat) : Prog := .look fun s =>
  if mb msg 85 78 != s.rd FAB_STAT.EPOCH then bumpF FAB_BAD_REQ.COUNT 1
  else
    let seq := mb msg 101 86
    .andThen (count 11 (16 * link + 4) 1) (
      match s.reqsAt (reqKey src seq) with
      | none => .skip
      | some x => seqs [
          .put (.reqs (reqKey src seq) (some { x with answered := true, sends := max 1 x.sends })),
          each (List.range (mb msg 122 121 + 1)) (fun i => ansOne src seq (mb msg (10 * i + 9) (10 * i + 8)) (mb msg (10 * i + 7) (10 * i)) i),
          fabricGo src x.queue])

/-! ### The destination's records (R294, R352 to R356) -/

/-- The verdict that an ANS gives a packet of a record: one that is arriving or has arrived was granted. -/
def RecPkt.ans (r : RecPkt) : Nat := if r.verdict < 4 then r.verdict else 0

/-- The ANS of a record (R336). -/
def ansMsg (src seq : Nat) : Prog := .look fun s =>
  match s.recsAt (reqKey src seq) with
  | none => .skip
  | some g =>
    let body := ((List.range g.pkts.length).zip g.pkts).foldl (fun a y => a + (y.2.ans * 2 ^ 8 + y.2.reason) * 2 ^ (10 * y.1)) 0
    ctrlMsg src g.priv (2 * 2 ^ 124 + b2n g.priv * 2 ^ 123 + (g.pkts.length - 1) * 2 ^ 121 + g.queue * 2 ^ 102 + seq * 2 ^ 86 +
      ((s.srcEpochAt src).getD 0) * 2 ^ 78 + body) (fun t => t.linksTo src g.priv) (fun _ => .skip)

/-- A record changes; it is kept until each of its grants is consumed, refused or released, and an expired one until its number is long past (R352, R354). -/
def setRec (src seq : Nat) (g : GrantRec) : Prog :=
  .put (.recs (reqKey src seq) (if g.pkts.all (fun r => r.verdict == 2 || r.verdict == 4) then none else some g))

/-- A grant that is live, or whose packet is arriving, is given back. -/
def recFree (q : Nat) (r : RecPkt) : Prog := onlyIf (r.verdict == 0 || r.verdict == 5) (ungrant q r.req r.resv)

/-- Every record of a source goes with its grants (R356, R357). -/
def freeSource (src : Nat) : Prog := .look fun s =>
  each (s.recs.filter (fun kv => kv.1 / 65536 == src)) (fun kv =>
    .andThen (match kv.2 with | some g => each g.pkts (recFree g.queue) | none => .skip) (.put (.recs kv.1 none)))

/-- The receive streams of a source begin again with the next cell; a packet that was arriving is discarded (R346, R356). -/
def freshStreams (src : Nat) : Prog := .look fun s =>
  each (s.rxStr.filter (fun kv => kv.1 / 8192 == src)) (fun kv => .andThen
    (match kv.2.cur with | some p => .andThen (tmReason 0xD1) (.put (.bodies p.body {})) | none => .skip)
    (.put (.rxStr kv.1 {})))

/-- The EPOCH of a source's message or packet: a new one frees what its earlier life held (R356). -/
def epochSeen (src e : Nat) : Prog := .look fun s =>
  if s.srcEpochAt src == some e then .skip
  else .andThen (onlyIf (s.srcEpochAt src).isSome (.andThen (freeSource src) (freshStreams src))) (.put (.srcEpoch src (some e)))

/-- The tests of a request's packets in order (R294); `n` is the credit of a packet, its scheduling length without the overhead of the queue's port. -/
def testAll (src q : Nat) : List RecPkt → (List RecPkt → Prog) → Prog
  | [], k => k []
  | r :: rest, k => .look fun s =>
    let port := s.rootPort q
    let n := ((r.len : Int) - s.ovh port).toNat
    if r.verdict != 1 then testAll src q rest (fun l => k (r :: l))
    else admitToQueue q { n := n, len := r.len, colour := r.colour, ecn := r.ecn, step := r.step } (fun v reason step =>
      .andThen
        (onlyIf (v == 2) (.andThen (count 8 (7 * q + 5) 1) (refusalReport reason q r.colour false src 0x3F r.len)))
        (testAll src q rest (fun l => k ({ r with verdict := v, reason := reason, step := step, at_ := s.mono, resv := n, req := port } :: l))))

/-- Expired records 2,048 or more behind a new request are forgotten: the source can no longer mean them (R350, R352). -/
def purgeRecs (src seq : Nat) : Prog := .look fun s =>
  each (s.recs.filter (fun kv => kv.1 / 65536 == src && (let d := behind seq (kv.1 % 65536); decide (2048 ≤ d) && decide (d < 32768)) &&
    (match kv.2 with | some g => g.pkts.all (fun r => r.verdict == 2 || r.verdict == 3 || r.verdict == 4) | none => true)))
    (fun kv => .put (.recs kv.1 none))

/-- A REQ at the destination (R294, R352): answered from its record, discarded as older than every open record, or tested. -/
def reqReceive (src msg : Nat) : Prog := .andThen (epochSeen src (mb msg 85 78)) (.look fun s =>
  let seq := mb msg 101 86
  let q := mb msg 120 102
  let open_ := s.recs.filterMap (fun kv => match kv.2 with
    | some g => if kv.1 / 65536 == src && g.pkts.any (fun r => r.verdict == 0 || r.verdict == 1 || r.verdict == 5) then some (kv.1 % 65536) else none
    | none => none)
  match s.recsAt (reqKey src seq) with
  | some _ => ansMsg src seq
  | none =>
    if !open_.isEmpty && open_.all (fun o => behind o seq < 32768) then bumpF FAB_BAD_REQ.COUNT 1
    else
      let asks := (List.range (mb msg 122 121 + 1)).map (fun i =>
        ({ len := mb msg (17 * i + 16) (17 * i + 3), colour := mb msg (17 * i + 2) (17 * i + 1), ecn := bitOf msg (17 * i) } : RecPkt))
      .andThen (purgeRecs src seq) (testAll src q asks (fun l =>
        let g : GrantRec := { queue := q, priv := bitOf msg 123, pkts := l }
        seqs [.put (.recs (reqKey src seq) (some g)), ansMsg src seq, setRec src seq g])))

/-- HOLD_CLEAR (R294): the held packets of a record are tested again from the test that held them; a new verdict is answered. -/
def execHoldClear (src seq : Nat) (s : State) : Host.Outcome State Fault Refusal :=
  command (.holdClear src seq) (.look fun s =>
    match s.recsAt (reqKey src seq) with
    | none => .skip
    | some g => testAll src g.queue g.pkts (fun l =>
        let g' := { g with pkts := l }
        .andThen (.put (.recs (reqKey src seq) (some g')))
          (onlyIf (l.map RecPkt.verdict != g.pkts.map RecPkt.verdict) (.andThen (ansMsg src seq) (setRec src seq g'))))) s

/-- GRANT_EXPIRE (R354): grants whose first cell has not arrived in time are given back. -/
def execGrantExpire (src seq : Nat) (s : State) : Host.Outcome State Fault Refusal :=
  command (.grantExpire src seq) (.look fun s =>
    let tmo := max 50 (s.rd FAB_TIMERS.GRANT_TMO_US) * 1000
    match s.recsAt (reqKey src seq) with
    | none => .skip
    | some g =>
      let old (r : RecPkt) : Bool := r.verdict == 0 && s.since r.at_ tmo
      .andThen (each (g.pkts.filter old) (recFree g.queue))
        (.put (.recs (reqKey src seq) (some { g with pkts := g.pkts.map (fun r => if old r then { r with verdict := 3 } else r) })))) s

/-- A RELEASE at the destination (R355). -/
def releaseReceive (src msg : Nat) : Prog := .andThen (epochSeen src (mb msg 85 78)) (.look fun s =>
  let seq := mb msg 101 86
  match s.recsAt (reqKey src seq) with
  | none => .skip
  | some g =>
    let l := (List.range g.pkts.length).zip g.pkts
    let named (y : Nat × RecPkt) : Bool := y.2.verdict == 0 && bitOf msg y.1
    .andThen (each (l.filter named) (fun y => recFree g.queue y.2))
      (setRec src seq { g with pkts := l.map (fun y => if named y then { y.2 with verdict := 4 } else y.2) }))

/-- An MC_ACK at the source (R376, R377). -/
def mcAckReceive (src msg : Nat) : Prog := .look fun s =>
  let n := msg % 2 ^ 32
  if s.mcOutAt src < n then .andThen (.put (.mcOut src 0)) (bumpF MCR_ACK_EXCESS.COUNT 1) else .put (.mcOut src (s.mcOutAt src - n))

/-- A data or CTRL cell with this device's own ID as its source (R362). -/
def dupId : Prog := .look fun s => seqs [raise 240 18, unitError 240 0x20 2 0, .put (.dupIdAt (some s.mono))]

/-- A control message from a device over an UP link (R336, R339); reserved messages are discarded. -/
def ctrlReceive (link src msg : Nat) : Prog := .look fun s =>
  if src == s.ownId then dupId
  else onlyIf (s.fabOn && s.linkUp link) (
    match mb msg 127 124 with
    | 1 => reqReceive src msg
    | 2 => ansReceive link src msg
    | 3 => releaseReceive src msg
    | 4 => mcAckReceive src msg
    | _ => .skip)

/-- A message of one kind. -/
def ctrlOfKind (kind link src msg : Nat) : Prog := onlyIf (mb msg 127 124 == kind) (ctrlReceive link src msg)

/-- REQ_RECEIVE (R294): a REQ message of `src` arrives on a link. -/
def execReqReceive (link src : Nat) (msg : List Word) (s : State) : Host.Outcome State Fault Refusal :=
  command (.reqReceive link src msg) (ctrlOfKind 1 link src (msgOf msg)) s

/-- ANS_RECEIVE (R351): an ANS message of `src` arrives on a link. -/
def execAnsReceive (link src : Nat) (msg : List Word) (s : State) : Host.Outcome State Fault Refusal :=
  command (.ansReceive link src msg) (ctrlOfKind 2 link src (msgOf msg)) s

/-- RELEASE_RECEIVE (R355): a RELEASE message of `src` arrives on a link. -/
def execReleaseReceive (link src : Nat) (msg : List Word) (s : State) : Host.Outcome State Fault Refusal :=
  command (.releaseReceive link src msg) (ctrlOfKind 3 link src (msgOf msg)) s

/-- MC_ACK_RECEIVE (R377): an MC_ACK message of `src` arrives on a link. -/
def execMcAckReceive (link src : Nat) (msg : List Word) (s : State) : Host.Outcome State Fault Refusal :=
  command (.mcAckReceive link src msg) (ctrlOfKind 4 link src (msgOf msg)) s

/-- UNREACH_TIMEOUT (R357): what is staged for a device out of reach for UNREACH_MS, or above MAX_DEV, is discarded, and what this device holds for it as a source
is released. -/
def execUnreachTimeout (dev : Nat) (s : State) : Host.Outcome State Fault Refusal :=
  command (.unreachTimeout dev) (.look fun s =>
    let gone := !s.reachable dev && s.since (s.unreachAtAt dev) (max 1 (s.rd FAB_TIMERS.UNREACH_MS) * 1000000)
    onlyIf (dev != s.ownId && (gone || s.rd FAB_SYS_CFG.MAX_DEV < dev)) (seqs [
      each (s.stg.filter (fun kv => kv.1 / 2 ^ 19 == dev)) (fun kv => .andThen (.put (.stg kv.1 [])) (each kv.2 (fun p => stgDiscard p 0xD0 3))),
      each (s.reqOrder dev) (fun seq => match s.reqsAt (reqKey dev seq) with
        | some x => .andThen (.put (.reqs (reqKey dev seq) none)) (each (x.pkts.filter (fun y => y.2 != reqGone)) (fun y => stgDiscard y.1 0xD0 3))
        | none => .skip),
      each [dev, 1024 + dev] (fun st => .andThen (each (s.cellOpenAt st) (fun y => stgDiscard y.1 0xD0 3)) (.put (.cellOpen st []))),
      freeSource dev])) s

/-! ### Replication (R374 to R380) -/

def MCG.VALID : EF := ed 0 31 31
def MCG.LIST_BASE : EF := ed 0 19 0
def MCG.LIST_LEN : EF := ed 1 6 0
def REPL.VALID : EF := ed 0 31 31
def REPL.PRUNE : EF := ed 0 30 30
def REPL.NH_ID : EF := ed 0 21 0
def REPL.QUEUE : EF := ed 1 18 0
def REPL.PRUNE_LIF : EF := ed 2 15 0

/-- The multicast window of a member in bytes (R375). -/
def State.mcWindow (s : State) : Nat := max 1 (s.rd MCR_MC_CFG.WINDOW_KIB) * 1024

/-- Whether an MC_ACK can leave for a source now. -/
def State.ackPath (s : State) (src : Nat) : Bool := src == s.ownId || (s.fabOn && !(s.linksTo src false).isEmpty)

/-- The landed amounts of a source are reserved again and acknowledged, one after the other, as far as R258 allows it and a link takes the message (R376). -/
def mcReackList (src : Nat) : List Nat → Prog
  | [] => .skip
  | n :: r => .look fun s => onlyIf (s.bpmAdmit 1 66 (2 * n) && s.ackPath src) (seqs [
      reserve 66 n,
      .put (.mcOwed src r),
      (if src == s.ownId then mcAckReceive src n else ctrlMsg src false (4 * 2 ^ 124 + n) (fun t => t.linksTo src false) (fun _ => .skip)),
      mcReackList src r])

/-- A source's withheld acknowledgements are tried. -/
def mcReack (src : Nat) : Prog := .look fun s => mcReackList src (s.mcOwedAt src)

/-- For how many source devices a standing multicast reservation is kept (R376): all of the system, or, while FAB is not enabled, this device alone, whose packets come through LOCAL. -/
def State.mcWant (s : State) : Nat := if s.rd FAB_SYS_CFG.EN == 1 then s.rd FAB_SYS_CFG.MAX_DEV + 1 else 1

/-- Standing reservations that are still to be made, one after the other as R258 allows it (R259, R376). -/
def mcStandUp : Nat → Prog
  | 0 => .skip
  | n + 1 => .look fun s => onlyIf (s.mcMade < s.mcWant && s.blkUpAt 144 && s.blkUpAt 240 && s.bpmAdmit 1 66 (2 * s.mcWindow))
      (seqs [reserve 66 s.mcWindow, .put (.mcMade (s.mcMade + 1)), mcStandUp n])

/-- The standing reservations follow the number of source devices (R376). -/
def mcStand : Prog := .look fun s =>
  .andThen (onlyIf (s.mcWant < s.mcMade) (.andThen (unreserve 66 ((s.mcMade - s.mcWant) * s.mcWindow)) (.put (.mcMade s.mcWant)))) (mcStandUp (s.mcWant - s.mcMade))

/-- Standing reservations that wait are tried again, and sources whose acknowledgement is withheld. -/
def mcRetry : Prog := .look fun s => .andThen mcStand (each s.mcOwed (fun kv => mcReack kv.1))

/-- A write of the window size, which FAB_SYS_CFG.EN must be 0 for: the standing reservations are made anew (R375, R376). -/
def mcWindowWrite (v : Word) : Prog := .look fun s => onlyIf (s.rd FAB_SYS_CFG.EN == 0) (seqs [
  unreserve 66 (s.mcMade * s.mcWindow),
  .put (.mcMade 0),
  setReg 242 0x200 v,
  mcStand])

/-- The entries of a group's list that make a copy of a packet (R378). -/
def State.mcList (s : State) (g lif : Nat) : List Entry :=
  let e := s.tab 242 0 g
  if !e.on MCG.VALID then []
  else ((List.range (e.f MCG.LIST_LEN)).map (fun i => s.tab 242 1 (e.f MCG.LIST_BASE + i))).filter
    (fun x => x.on REPL.VALID && !(x.on REPL.PRUNE && x.f REPL.PRUNE_LIF == lif))

/-- A copy of a multicast packet with a bad tail is discarded where it would be enqueued (R237, R240, R380). -/
def copyTailDiscard (p : Pkt) : Prog := seqs [tmReason 0xA1, tailCounts p.dport p.queue, markLost p, derefBody p.body]

/-- A multicast packet that has landed is replicated (R376, R378), a packet with a bad tail into copies that are discarded: its buffer takes the place of part of its source's reservation, the count is set before the
first copy is enqueued, and the landed amount is reserved again. -/
def mcReplicate (src g : Nat) (p : Pkt) : Prog := .look fun s =>
  let l := s.mcList g p.lif
  let n := mcBytes p
  let copy (i : Nat) (e : Entry) : Pkt := { p with buf := i, queue := e.f REPL.QUEUE, nh := some (e.f REPL.NH_ID), group := some g, dport := s.rootPort (e.f REPL.QUEUE) }
  let b := s.bodiesAt p.body
  seqs [
    unreserve 66 n,
    (if l.isEmpty then .andThen (tmReason 0xD8) (derefBody p.body)
     else .andThen (.put (.bodies p.body { b with refs := b.refs - 1 + l.length, group := some g, sent := false, lost := false }))
       (if b.whole && b.tail != 0 then each l (fun e => copyTailDiscard (copy 0 e)) else landBody p.body 66 (declLen p) l.length (fun i => .andThen (cutLanded p) (each l (fun e => enqueueCopy (e.f REPL.QUEUE) (copy i e)))))),
    .look fun t => .put (.mcOwed src (t.mcOwedAt src ++ [n])),
    mcReack src]

/-- MC_SEND (R374, R375; the copy through LOCAL has a body of its own, which its SENT and LOST flags go with): the oldest staged packet of a group goes once every member has room: into the fabric when another member is set, and through LOCAL when
this device is. -/
def execMcSend (grp : Nat) (s : State) : Host.Outcome State Fault Refusal :=
  command (.mcSend grp) (whenEnabled 242 <| .look fun s =>
    match s.stgMc.find? (fun p => p.group == some grp) with
    | none => .skip
    | some p =>
      let own := s.ownId
      let bits := (s.tab 242 0 grp).ext
      let n := mcBytes p
      let room := (List.range 1024).all (fun d => !bits.getLsbD d || decide (s.mcOutAt d + n ≤ s.mcWindow))
      let local_ := bits.getLsbD own
      let far := bits &&& ~~~ (BitVec.ofNat 1024 (2 ^ own)) != 0
      let b := s.bodiesAt p.body
      let standalone := s.rd FAB_SYS_CFG.STANDALONE == 1
      let ok := far && s.fabOn && !(s.linksToAll bits).isEmpty
      let rest := s.stgMc.eraseIdx (s.stgMc.findIdx (fun q => q.group == some grp))
      let dests := (List.range 1024).filter (fun d => bits.getLsbD d && (if d == own then true else ok))
      if b.whole && b.tail != 0 then seqs [
        .put (.stgMc rest),
        onlyIf local_ (each (s.mcList grp p.lif) (fun e => tailCounts (s.rootPort (e.f REPL.QUEUE)) (e.f REPL.QUEUE))),
        stgDiscard p 0xA1 3]
      else onlyIf (room && (b.whole || !local_)) (seqs [
        .put (.stgMc rest),
        each dests (fun d => .put (.mcOut d (s.mcOutAt d + n))),
        onlyIf local_ (localCells 51 p),
        onlyIf local_ (newBody { b with refs := 1, lenCtrs := [], charges := [], shapes := [] } (fun i => mcReplicate own grp { p with body := i, rxNs := s.hdrTime p })),
        (if ok then .andThen (.put (.cellOpen 2048 (s.cellOpenAt 2048 ++ [(p, 0, 0)]))) (pushCells [2048])
         else if far then stgDiscard p (if standalone then 0xD0 else 0xD5) 3
         else .andThen (stgGive p) (derefBody p.body))])) s

/-! ### Reassembly (R345, R346, R348) -/

/-- A word of a packet header (R335). -/
def hdrWord (b : List Nat) (w : Nat) : Nat := ofBytesBE ((b.drop (4 * w)).take 4)

/-- The descriptor that a packet header gives (R335). -/
def hdrPkt (src body : Nat) (b : List Nat) : Pkt :=
  let w (i hi lo : Nat) : Nat := bits (hdrWord b i) hi lo
  { body := body, srcDev := src, queue := w 0 31 13, tc := w 0 12 10, colour := w 0 9 8, ecn := w 0 7 7 == 1, srcPort := w 0 5 0,
    txSeq := w 1 31 16, declMax := w 1 13 0, lif := w 2 31 16, nh := some (w 3 21 0), rxNs := hdrWord b 4 + hdrWord b 5 * 2 ^ 32,
    egList := if w 7 31 31 == 1 then some (w 7 18 0) else none, pop := w 7 30 27, popEth := w 7 26 26 == 1 }

/-- A packet that is lost on its way in: discarded at this device with a reason (R280, R346, R354). -/
def rxDiscard (mc : Bool) (p : Pkt) (reason : Nat) : Prog := .andThen (tmReason reason)
  (onlyIf (!mc) (count 8 (7 * p.queue + 6) 1))

/-- The place in a record of the packet that is arriving, or of the next one whose grant is live. -/
def GrantRec.at? (g : GrantRec) (verdict : Nat) : Option Nat := let i := g.pkts.findIdx (fun r => r.verdict == verdict); if i < g.pkts.length then some i else none

/-- A packet of a record changes its verdict. -/
def recVerdict (src seq i v : Nat) : Prog := .look fun s =>
  match s.recsAt (reqKey src seq) with
  | none => .skip
  | some g => setRec src seq { g with pkts := ((List.range g.pkts.length).zip g.pkts).map (fun y => if y.1 == i then { y.2 with verdict := v } else y.2) }

/-- The grant of the packet that is arriving ends; `k` runs after it. -/
def consume (src : Nat) (p : Pkt) : Prog := .look fun s =>
  match s.recsAt (reqKey src p.txSeq) with
  | none => .skip
  | some g =>
    match g.at? 5 with
    | none => .skip
    | some i => .andThen (match g.pkts[i]? with | some r => recFree g.queue r | none => .skip) (recVerdict src p.txSeq i 4)

/-- The stored bytes of a packet that has arrived are cut at its buffer's end (R254). -/
def landed (b : Body) (decl tail : Nat) : Body :=
  let room := poolSize (poolOf (decl - 4))
  { b with bytes := b.bytes.take room, whole := true, tail := if room < b.bytes.length then 3 else tail }

/-- A packet cut at the end of its buffer counts a tail error of cause LENGTH (R254). DESIGN CHOICE (log 94): of a packet from another device, at the port it is to leave by. -/
def cutCount (port : Option Nat) : Prog :=
  match port with
  | some p => onlyIf (p < 48) (count 0 (128 * p + 50) 1)
  | none => .skip

/-- The last cell of a packet has landed: a unicast packet takes its buffer in place of its reservation and is enqueued, or is discarded when its tail is marked;
a multicast packet is replicated (R237, R280, R348, R378). -/
def packetDone (src : Nat) (mc : Bool) (p : Pkt) (err : Bool) : Prog := .look fun s =>
  let b := landed (s.bodiesAt p.body) p.declMax (if err then 4 else 0)
  let port := match p.group with
    | some g => (s.mcList g p.lif).head?.map (fun e => s.rootPort (e.f REPL.QUEUE))
    | none => if mc then none else some (s.rootPort p.queue)
  .andThen (seqs [.put (.bodies p.body b), onlyIf (poolSize (poolOf (p.declMax - 4)) < (s.bodiesAt p.body).bytes.length) (cutCount port)]) (
    match p.group with
    | some g => mcReplicate src g p
    | none => seqs [
        consume src p,
        onlyIf (!mc) (landBody p.body (s.rootPort p.queue) p.declMax 1 (fun i =>
          let q := { p with buf := i, dport := s.rootPort p.queue }
          if b.tail == 0 then enqueue p.queue q
          else seqs [
            count 8 (7 * p.queue) 1,
            count 8 (7 * p.queue + 1) (s.schedLen (s.rootPort p.queue) (b.bytes.length + 4)),
            onlyIf (s.rootPort p.queue < 48) (count 0 (128 * s.rootPort p.queue + 70) 1),
            qDiscard p.queue q 0xA1]))])

/-- The key of a receive stream: 0 unicast, 1 privileged, 2 multicast, 4,096 + channel. -/
def rxKey (src stream : Nat) : Nat := src * 8192 + stream

/-- One data cell in stream order (R335, R346, R348, R354). -/
def rxData (src stream : Nat) (cell : List Nat) : Prog := .look fun s =>
  let mc := stream == 2
  let h := cellHead cell
  let pos := if mc then h.bits 21 20 else h.bits 27 26
  let err := if mc then h.bits 19 19 == 1 else h.bits 25 25 == 1
  let len := (if mc then h.bits 18 11 else h.bits 23 16) + 1
  let data := (cell.drop 10).take len
  let k := rxKey src stream
  let x := s.rxStrAt k
  if pos == 1 || pos == 3 then
    let p0 := { hdrPkt src s.bodyNext data with group := if mc then some (h.bits 67 52) else none, nh := if mc then none else (hdrPkt src 0 data).nh }
    let begin_ : Prog := newBody { bytes := data.drop 32, refs := 1 } (fun _ =>
      if pos == 3 then .andThen (.put (.rxStr k { x with cur := none, skip := false })) (packetDone src mc p0 err)
      else .put (.rxStr k { x with cur := some p0, skip := false }))
    .andThen (epochSeen src (bits (hdrWord data 6) 31 24)) (
      if mc then begin_
      else .look fun s =>
        match s.recsAt (reqKey src p0.txSeq) with
        | some g => match g.at? 0 with
          | some i => .andThen (recVerdict src p0.txSeq i 5) begin_
          | none => .andThen (rxDiscard false p0 0xD2) (.put (.rxStr k { x with cur := none, skip := true }))
        | none => .andThen (rxDiscard false p0 0xD2) (.put (.rxStr k { x with cur := none, skip := true })))
  else match x.cur with
  | none => .andThen (onlyIf (!x.skip) (tmReason 0xD1)) (.put (.rxStr k { x with skip := pos == 0 }))
  | some p =>
    let b := s.bodiesAt p.body
    .andThen (.put (.bodies p.body { b with bytes := b.bytes ++ data }))
      (onlyIf (pos == 2) (.andThen (.put (.rxStr k { x with cur := none })) (packetDone src mc p err)))

/-- One SLOT cell in stream order joins its channel's jitter buffer (R373). -/
def rxSlot (ch : Nat) (payload : List Nat) : Prog := .look fun s => .put (.slotBuf ch (s.slotBufAt ch ++ [(s.mono, payload)]))

/-- A cell in stream order. -/
def rxCell (src stream : Nat) (cell : List Nat) : Prog :=
  if 4096 ≤ stream then rxSlot (stream - 4096) ((cell.drop 10).take 240) else rxData src stream cell

/-- Cells held behind a gap that are now in order are handled. -/
def rxDrain (src stream : Nat) : Nat → Prog
  | 0 => .skip
  | f + 1 => .look fun s =>
    let k := rxKey src stream
    let x := s.rxStrAt k
    match x.held.find? (fun y => some y.1 == x.next) with
    | none => .skip
    | some y => seqs [
        .put (.rxStr k { x with next := some ((y.1 + 1) % 2 ^ 20), held := x.held.filter (fun z => z.1 != y.1) }),
        rxCell src stream y.2.2,
        rxDrain src stream f]

/-- A cell joins its stream (R345, R346): in order, held behind a gap, or discarded as already handled. -/
def rxJoin (src stream seq : Nat) (cell : List Nat) : Prog := .look fun s =>
  let k := rxKey src stream
  let x := s.rxStrAt k
  let d := (seq + 2 ^ 20 - x.next.getD seq) % 2 ^ 20
  if d == 0 then seqs [.put (.rxStr k { x with next := some ((seq + 1) % 2 ^ 20) }), rxCell src stream cell, rxDrain src stream x.held.length]
  else onlyIf (d < 2 ^ 19 && !x.held.any (fun y => y.1 == seq)) (.put (.rxStr k { x with held := x.held ++ [(seq, s.mono, cell)] }))

/-- CELL_REORDER_TIMEOUT (R346): a gap held for REORDER_US is skipped; a packet that lost a cell is discarded with 0xD1 and its grant given back, and a missing SLOT
cell is replaced by 29 all-ones blocks. -/
def execCellReorderTimeout (src stream : Nat) (s : State) : Host.Outcome State Fault Refusal :=
  command (.cellReorderTimeout src stream) (.look fun s =>
    let k := rxKey src stream
    let x := s.rxStrAt k
    let us := let v := s.rd FAB_TIMERS.REORDER_US; if v == 0 then 1 else min 16 v
    match x.next with
    | none => .skip
    | some n =>
      let dist (y : Nat × Nat × List Nat) : Nat := (y.1 + 2 ^ 20 - n) % 2 ^ 20
      match x.held.find? (fun y => x.held.all (fun z => decide (dist y ≤ dist z))) with
      | none => .skip
      | some y => onlyIf (x.held.any (fun z => s.since z.2.1 (us * 1000))) (seqs [
          .put (.rxStr k { x with next := some y.1, cur := none, skip := x.cur.isSome }),
          (if 4096 ≤ stream then each (List.range (min (dist y) 32768)) (fun _ => rxSlot (stream - 4096) (List.replicate 240 255))
           else match x.cur with
             | some p => seqs [rxDiscard (stream == 2) p 0xD1, onlyIf (stream != 2) (consume src p), derefBody p.body, dropBody p.body]
             | none => .skip),
          rxDrain src stream x.held.length])) s
where
  /-- The bytes of a packet that never became whole go with its last reference. -/
  dropBody (i : Nat) : Prog := .put (.bodies i {})

/-- A first cell of a packet carries its source's EPOCH (R335, R356). -/
def cellEpoch (src pos : Nat) (cell : List Nat) : Prog :=
  onlyIf ((pos == 1 || pos == 3) && decide (42 ≤ cell.length)) (epochSeen src (bits (hdrWord (cell.drop 10) 6) 31 24))

/-- The entry of a receive channel. -/
def State.rxChan (s : State) (ch : Nat) : Entry := s.tab 240 2 ch

/-- CELL_RECEIVE (R334, R339): a cell arrives on a link; data, CTRL and SLOT cells are taken on an UP link only. -/
def execCellReceive (link : Nat) (cell : List Byte) (bad : Bool × Nat) (s : State) : Host.Outcome State Fault Refusal :=
  command (.cellReceive link cell bad) (.andThen (fecCorrected link bad.2) <|
    let c := cell.map BitVec.toNat
    cellChecked link c bad.1 (fun h => .look fun s =>
      let own := s.ownId
      let live := s.fabOn && s.linkUp link
      if h.type == 5 then linkCell link c h
      else if h.type == 2 then
        (let src := h.bits 51 42
         if src == own then dupId else onlyIf live (.andThen (cellEpoch src (h.bits 21 20) c) (rxJoin src 2 (h.bits 41 22) c)))
      else if h.type == 1 then
        (let src := h.bits 57 48
         if src == own then dupId else onlyIf (live && h.bits 67 58 == own)
           (.andThen (cellEpoch src (h.bits 27 26) c) (rxJoin src (h.bits 24 24) (h.bits 47 28) c)))
      else if h.type == 3 then
        (let src := h.bits 57 48
         if src == own then dupId else onlyIf (live && h.bits 67 58 == own)
           (each (List.range (h.bits 47 44)) (fun i => ctrlReceive link src (ofBytesBE ((c.drop (10 + 16 * i)).take 16)))))
      else if h.type == 4 then
        (let src := h.bits 57 48
         let ch := h.bits 47 38
         let e := s.rxChan ch
         onlyIf (live && h.bits 67 58 == own) (
           if e.f (ed 0 31 31) == 1 && e.f (ed 0 25 16) == src then rxJoin src (4096 + ch) (h.bits 37 18) c
           else .andThen (.put (.chanErrs ch (s.chanErrsAt ch + 1))) (raise 240 20)))
      else .skip)) s

/-- 29 blocks of 66 bits as a SLOT payload of 240 bytes, the first block's sync header first (R337). -/
def packBlocks (blocks : List Nat) : List Nat :=
  toBytesBE 240 (((List.range 29).foldl (fun n k => n * 2 ^ 66 + blocks.getD k idleBlock % 2 ^ 66) 0) * 2 ^ 6)

/-- The 29 blocks of a SLOT payload (R337). -/
def unpackBlocks (payload : List Nat) : List Nat :=
  (List.range 29).map (fun k => ofBytesBE (payload.take 240) / 2 ^ (6 + 66 * (28 - k)) % 2 ^ 66)

/-- A transmit channel sends its next SLOT cell once it is due at its present RATE: the last 29 blocks of its connection's source, after the local fault of a queue that refills (R121), or all-ones
blocks when the source has failed (R126; counted at the client they stand for, R593), to DEST_CH on DEST_DEV, on the channel's fixed rotation (R370, R372, R373). -/
def slotSend (ch : Nat) : Prog := .look fun s =>
  let e := s.tab 240 1 ch
  let d := e.f (ed 0 25 16)
  let st := 8192 + ch
  let due := s.blocksDue (s.slotTxAt ch) (e.f (ed 1 7 0))
  let ais := s.rd (XC_CH_STAT.TX_AIS ch) == 1
  let src := match s.xcSource 1 (3072 + ch) with | some (1, i) => some i | _ => none
  match e.on (ed 0 31 31) && s.fabOn, src with
  | true, some i =>
    let blocks := (List.replicate (s.xcRefillAt (3072 + ch)) faultBlock ++ clientBlocks i ((s.clientFeedAt i).2 - 1)).take 29
    let payload := if ais then allOnes else packBlocks blocks
    onlyIf (due ≤ (s.mono + 1) * 100000) (seqs [
      .put (.slotTx ch due),
      .put (.xcRefill (3072 + ch) 0),
      onlyIf ais (count 1 (8 * i + 4) 29),
      .put (.cellSeq st ((s.cellSeqAt st + 1) % 2 ^ 20)),
      crossFlit 0 0 payload,
      spray st (fun t => t.linksTo d true) (fun l => xbEnter {
        input := 50, out := l / 12, link := l, priv := true, type := 4, dest := d,
        body := hb 58 d + hb 48 s.ownId + hb 38 (e.f (ed 0 9 0)) + hb 18 (s.cellSeqAt st)
        payload := payload })])
  | _, _ => onlyIf (s.slotTxAt ch != 0) (.put (.slotTx ch 0))

/-- 29 blocks of a fabric receive channel cross to the FE die's cross-connect (R15, R21, R373). -/
def channelFeed (chan : Nat) (payload : List Nat) : Prog := .look fun s =>
  .andThen (onlyIf ((s.tabIndices 88 1).any (fun d => s.xcSource 1 d == some (2, chan))) (crossFlit 1 0 payload)) (xcFeed 2 chan (unpackBlocks payload))

/-- The link that a waiting cell is sprayed on when its own has been withdrawn (R341). -/
def State.otherLink (s : State) (l : Nat) (c : XbCell) : Option Nat :=
  if c.type == 2 then nextLink (s.linksToAll (s.tab 242 0 (c.body / 2 ^ 44)).ext) l else nextLink (s.linksTo c.dest c.priv) l

/-- What the links send of themselves in each cell time of 64 bytes: in the Fatal safe state DOWN with cause 9 on every one that is not DISABLED (R365); else a link in DOWN or FAILED its DOWN
(R340), and one that receives, having sent nothing else, IDLE (R338). -/
def linkTick : Prog := .look fun s => onlyIf (s.mono * 803 / 1024 != (s.mono + 1) * 803 / 1024) (each ((List.range 144).filter (fun l => s.linkState l != 0)) fun l =>
  if s.fatalLatch then sendLinkCell l 1 [9]
  else if 6 ≤ s.linkState l then sendLinkCell l 1 [s.rd (FLC_LINK_STAT.CAUSE (l / 12) (l % 12))]
  else onlyIf (3 ≤ s.linkState l) (.look fun t => onlyIf (!t.emitted.any (fun e => match e with | .cell k _ => k == l | _ => false))
    (emit (.cell l (cellBytes 0 (t.rd (FLC_LINK_STAT.TX_GEN (l / 12) (l % 12))) 0 [])))))

/-- What the fabric does as time passes: the cross-connect's clients and the transmit channels send (R116, R372), packets that waited for a link go on, withheld acknowledgements are tried
again (R376), cells that waited for room on a link leave (R341, R369), and the links send what they send of themselves. -/
def fabricTick : Prog := .look fun s => seqs [
  xcTick,
  each (s.tabIndices 240 1) slotSend,
  pushCells ((s.cellOpen.filter (fun kv => !kv.2.isEmpty)).map Prod.fst),
  mcRetry,
  each (s.privWait.map Prod.fst) (fun l => .look fun t => privDrain l (t.otherLink l)),
  each (s.normWait.map Prod.fst) (fun l => .look fun t => normDrain l (t.otherLink l)),
  linkTick]

/-- SLOT_PLAYOUT (R373): a receive channel plays its next 29 blocks, JIT_US after its first cell and one cell time after the last; an underrun plays all-ones blocks,
and 64 blocks of it put the channel's client into CL_AIS (R123). -/
def execSlotPlayout (chan : Nat) (s : State) : Host.Outcome State Fault Refusal :=
  command (.slotPlayout chan) (.look fun s =>
    let e := s.rxChan chan
    let r := max 1 (e.f (ed 0 7 0))
    let x := s.slotPlayAt chan
    let b := s.slotBufAt chan
    onlyIf (e.f (ed 0 31 31) == 1) (
      match x.1, b with
      | none, [] => .skip
      | none, c :: rest => onlyIf (s.since c.1 (e.f (ed 1 4 0) * 1000)) (seqs [.put (.slotPlay chan (some s.mono, 1, 0)), .put (.slotBuf chan rest), channelFeed chan c.2])
      | some t, _ =>
        onlyIf (t + x.2.1 * 29 * 66 * 100000 / (515625 * r) ≤ s.mono) (
          match b with
          | c :: rest => seqs [.put (.slotBuf chan rest), .put (.slotPlay chan (some t, x.2.1 + 1, 0)), channelFeed chan c.2]
          | [] => seqs [.put (.slotPlay chan (some t, x.2.1 + 1, x.2.2 + 29)), channelFeed chan allOnes, onlyIf (64 ≤ x.2.2 + 29) (defectSet 4 chan 9 true)]))) s

/-! ### Into staging (R261, R357, R363, R374, R700) -/

/-- A packet with its staging charge made takes its place: under its group, or under its destination and queue; one for a device that cannot be reached by rule is
discarded (R357, R363, R374). -/
def stageQueue (p : Pkt) : Prog := .look fun s =>
  match p.group with
  | some g => if (s.tab 242 0 g).on MCG.VALID then .put (.stgMc (s.stgMc ++ [p])) else stgDiscard p 0xD4 3
  | none =>
    if p.dev != s.ownId && (s.rd FAB_SYS_CFG.STANDALONE == 1 || s.rd FAB_SYS_CFG.MAX_DEV < p.dev) then stgDiscard p 0xD0 3
    else .put (.stg (stgKey p.dev p.queue) (s.stgAt (stgKey p.dev p.queue) ++ [p]))

/-- A packet's bytes enter staging. -/
def stgCharge (p : Pkt) (k : Pkt → Prog) : Prog := .look fun s =>
  let q := { p with stg := declLen p, stamp := s.mono }
  seqs [
    .put (.stgUse (8 * q.input + q.tc) (s.stgUseAt (8 * q.input + q.tc) + q.stg)),
    stgChanged q.input,
    k q]

/-- Whether staging admits a packet at its input (R261, R700); none: admitted. -/
def State.stgRefuses (s : State) (p : Pkt) : Option Nat :=
  let n := declLen p
  let i := p.input
  let ll := s.rd BUF_STG_TC.LOSSLESS
  let floor := s.rd BUF_STG_GLOBAL.ELASTIC_FLOOR * 1024
  if 48 ≤ i then (if s.stgFree < floor + n then some 0xB0 else none)
  else if bitOf ll p.tc then
    (if s.rd (BUF_STG_PORT.LIMIT i) * 1024 < s.stgUseAt (8 * i + p.tc) + n || s.stgFree < n then some 0xB1 else none)
  else
    let e := (List.range 8).foldl (fun a t => if bitOf ll t then a else a + s.stgUseAt (8 * i + t)) 0
    if s.rd (BUF_STG_PORT.ELASTIC_LIMIT i) * 1024 < e + n || s.stgFree < floor + n then some 0xB0 else none

/-! ### The fabric interface on and off (R356, R363, R376) -/

/-- A write of FAB_SYS_CFG: a rising EN draws an EPOCH; the standing multicast reservations follow EN and MAX_DEV; STANDALONE takes the links down. -/
def fabSysWrite (data : Nat) : Prog := .look fun s => seqs [
  setReg 240 0x204 (BitVec.ofNat 32 data),
  onlyIf (bitOf data 31 && s.rd FAB_SYS_CFG.EN == 0) (draw (fun v => setF FAB_STAT.EPOCH (v % 256))),
  mcStand,
  each (List.range 12) linksApply]

end Sys2Proof.Machine
end

