-- ==== Sys2Proof/Machine/Services.lean ====
section
/-!
DEFINITION. On-device services (spec/12_services.md R437 to R459): BFD, the CFM continuity check, the retransmission store, hitless merge, recording and replay, and
the service cores.
-/
namespace Sys2Proof.Machine

/-! ### Entries of SVC (page 0x00D) -/

def BFD.VALID : EF := ed 0 31 31
def BFD.IPV6 : EF := ed 0 30 30
def BFD.ADMIN_DOWN : EF := ed 0 29 29
def BFD.STATE : EF := ed 0 28 27
def BFD.TX_TC : EF := ed 0 26 24
def BFD.DETECT_MULT : EF := ed 0 23 16
def BFD.LIF : EF := ed 0 15 0
def BFD.NH_ID : EF := ed 1 21 0
def BFD.MIN_TX : EF := ed 2 23 0
def BFD.MIN_RX : EF := ed 3 23 0
def BFD.REMOTE_DISC : EF := ed 4 31 0
def BFD.DOWN_ACT : EF := ed 5 31 31
def BFD.MEMBER : EF := ed 5 19 0
def BFD.LOCAL_DIAG : EF := ed 6 4 0
def MEP.VALID : EF := ed 0 31 31
def MEP.LEVEL : EF := ed 0 30 28
def MEP.PERIOD : EF := ed 0 27 25
def MEP.MEPID : EF := ed 0 12 0
def MEP.LIF : EF := ed 1 31 16
def MEP.RMEPID : EF := ed 1 12 0
def MEP.NH_ID : EF := ed 2 21 0
def MEP.TX_TC : EF := ed 3 26 24
def MEP.DEFECTS : EF := ed 4 3 0
def FLOW.VALID : EF := ed 0 31 31
def FLOW.TIER : EF := ed 0 30 30
def FLOW.TERMINATE : EF := ed 0 29 29
def FLOW.QUEUE : EF := ed 0 18 0
def FLOW.SSRC : EF := ed 1 31 0
def FLOW.PORT : EF := ed 2 29 24
def FLOW.RTX_QUEUE : EF := ed 2 18 0
def FLOW.RETAIN_MS : EF := ed 3 13 0
def FLOW.HOLD_MS : EF := ed 4 23 16
def FLOW.RTX_LIMIT : EF := ed 4 15 0
def FLOW.HIGH : EF := ed 5 31 0
def MRG.VALID : EF := ed 0 31 31
def MRG.PORT_A : EF := ed 0 29 24
def MRG.PORT_B : EF := ed 0 21 16
def MRG.SSRC_A : EF := ed 1 31 0
def MRG.SSRC_B : EF := ed 2 31 0
def MRG.H : EF := ed 3 31 0
def MRG.LEG_A_OK : EF := ed 4 31 31
def MRG.LEG_B_OK : EF := ed 4 30 30

/-- A notification is appended, or lost with 4,096 waiting (SVC_NTF_STAT). -/
def svcNotify (kind old new index diag : Nat) : Prog := .look fun s =>
  either (s.svcNtf.length < 4096)
    (seqs [
      .put (.svcNtf (s.svcNtf ++ [(kind * 2 ^ 28 + old * 2 ^ 24 + new * 2 ^ 20 + index, diag, s.ns64)])),
      raise 13 16])
    (.andThen (setF SVC_NTF_STAT.OVERFLOW 1) (raise 13 17))

/-! ### Extended RTP sequence numbers (R443) -/

/-- A 16-bit number extended against a reference. -/
def extend (ref s : Nat) : Nat :=
  let d := (s % 65536 + 65536 - ref % 65536) % 65536
  if d < 0x8000 then (ref + d) % 2 ^ 32 else (ref + 2 ^ 32 - (0x10000 - d)) % 2 ^ 32

/-- Whether an extended number follows another (R434). -/
def extAfter (a b : Nat) : Bool := let d := (a + 2 ^ 32 - b % 2 ^ 32) % 2 ^ 32; d != 0 && decide (d < 2 ^ 31)

/-! ### What the service unit and the cores see of a packet -/

/-- The parse result of a packet's first bytes as it was received. -/
def State.parsed (s : State) (p : Pkt) : Parsed :=
  let b := s.bodiesAt p.body
  parse s.prsCfg (if b.win.isEmpty then windowOf (b.bytes.take 256) false else b.window)

/-- Bytes of a packet's application header. -/
def State.appBytes (s : State) (p : Pkt) (n : Nat) : List Nat := ((s.pktBytes p).drop ((s.parsed p).f oApp)).take n

/-! ### Injections (R441) -/

/-- An IPv4 or IPv6 and UDP packet with Ethernet header (its addresses are the egress half's to set). -/
def udpPacket (v6 : Bool) (src dst sport dport ttl : Nat) (pay : List Nat) : List Nat :=
  let udp (sum : Nat) : List Nat := toBytesBE 2 sport ++ toBytesBE 2 dport ++ toBytesBE 2 (8 + pay.length) ++ toBytesBE 2 sum ++ pay
  let eth (t : Nat) : List Nat := List.replicate 12 0 ++ toBytesBE 2 t
  if v6 then
    let sum := not16 (onesSum (toBytesBE 16 src ++ toBytesBE 16 dst ++ toBytesBE 4 (8 + pay.length) ++ [0, 0, 0, 17] ++ udp 0))
    eth 0x86DD ++ [0x60, 0, 0, 0] ++ toBytesBE 2 (8 + pay.length) ++ [17, ttl] ++ toBytesBE 16 src ++ toBytesBE 16 dst ++ udp (if sum == 0 then 65535 else sum)
  else
    let h (sum : Nat) : List Nat := [0x45, 0] ++ toBytesBE 2 (28 + pay.length) ++ [0, 0, 0, 0, ttl, 17] ++ toBytesBE 2 sum ++ toBytesBE 4 src ++ toBytesBE 4 dst
    eth 0x0800 ++ h (not16 (onesSum (h 0))) ++ udp 0

/-- A service injection towards a next hop (R441): it enters staging as input 49 while staging has room, and waits otherwise (R700); `sent` runs when it enters. -/
def injectTo (b : List Nat) (nh tc : Nat) (sent : Prog) : Prog := .look fun s =>
  match s.resolveNh nh with
  | .unicast dev port qb n =>
    let p (i : Nat) : Pkt := { body := i, kind := 3, srcDev := s.ownId, dev := dev, dport := port, queue := (qb + tc) % 2 ^ 19, nh := some n, tc := tc,
                               lenSrc := 1, frameLen := b.length + 4, declMax := b.length + 4, resv := if dev == s.ownId then b.length + 4 else 0 }
    onlyIf ((s.stgRefuses (p 0)).isNone && s.fetchRoom dev ((qb + tc) % 2 ^ 19) (b.length + 4)) (.andThen (.andThen
      (fetchReserve dev ((qb + tc) % 2 ^ 19) (b.length + 4)) <| newBody { bytes := b, whole := true, refs := 1 } (fun i => stgCharge (p i) stageQueue)) sent)
  | _ => .skip

/-- A packet taken for the service cores joins the queue of its logical core (R440). -/
def steer (p : Pkt) (k : Nat) : Prog := stageQueue { p with kind := 3, queue := 524272 + k % 8, dport := 49, group := none, reason := 0 }

/-- A packet that a service has finished with leaves staging. -/
def takeDone (p : Pkt) : Prog := .andThen (stgGive p) (derefBody p.body)

/-! ### BFD (R444 to R447) -/

/-- An interval in force: values below 3,300 µs act as 3,300 (R445). -/
def bfdUs (n : Nat) : Nat := max 3300 n

/-- The transmit interval of a session in µs (R445, R447). -/
def bfdTxUs (e : Entry) (x : BfdX) : Nat :=
  let n := max (bfdUs (if x.txUs != 0 then x.txUs else e.f BFD.MIN_TX)) (bfdUs x.rMinRx)
  if e.f BFD.STATE == 3 then n else max 1000000 n

/-- The detection time of a session in µs (R445, R447). -/
def bfdDetectUs (e : Entry) (x : BfdX) : Nat := x.rMult * max (bfdUs (if x.rxUs != 0 then x.rxUs else e.f BFD.MIN_RX)) (bfdUs x.rMinTx)

/-- The discriminator base (SVC_CFG.DISC_BASE; 0 acts as 1). -/
def State.discBase (s : State) : Nat := max 1 (s.rd SVC_CFG.DISC_BASE)

/-- The local discriminator of a session (R445). -/
def State.bfdDisc (s : State) (i : Nat) : Nat := s.discBase * 2 ^ 14 + i

/-- A session's control packet (RFC 5880). -/
def State.bfdPacket (s : State) (i : Nat) : List Nat :=
  let e := s.tab 13 0 i
  let x := s.bfdXAt i
  let flags := b2n x.poll * 32 + b2n x.fin * 16
  let pay := [32 + e.f BFD.LOCAL_DIAG, e.f BFD.STATE * 64 + flags, max 1 (e.f BFD.DETECT_MULT), 24] ++ toBytesBE 4 (s.bfdDisc i) ++
    toBytesBE 4 (e.f BFD.REMOTE_DISC) ++ toBytesBE 4 (bfdUs (e.f BFD.MIN_TX)) ++ toBytesBE 4 (bfdUs (e.f BFD.MIN_RX)) ++ toBytesBE 4 0
  let six := e.on BFD.IPV6
  let addr (lo hi : EF) : Nat := if six then e.f hi else e.f lo
  udpPacket six (addr (ek 7 31 0) ⟨0, 255, 128⟩) (addr (ek 3 31 0) ⟨0, 127, 0⟩) (49152 + i) 3784 255 pay

/-- BFD_TX (R445): the engine sends a session's packet once its interval has passed, less a random part, while it may enter staging. -/
def execBfdTx (sess : Nat) (s : State) : Host.Outcome State Fault Refusal :=
  command (.bfdTx sess) (whenEnabled 13 <| .look fun s =>
    let e := s.tab 13 0 sess
    let x := s.bfdXAt sess
    onlyIf (s.rd SVC_CFG.BFD_EN == 1 && e.on BFD.VALID && decide (x.due ≤ s.mono)) (
      injectTo (s.bfdPacket sess) (e.f BFD.NH_ID) (e.f BFD.TX_TC) (draw (fun v =>
        let us := bfdTxUs e x
        let less := if e.f BFD.DETECT_MULT ≤ 1 then 10000 + v % 15001 else v % 25001
        .andThen (.put (.bfdX sess { x with due := s.mono + us * 1000 - us * less / 100, fin := false })) (count 12 (4 * sess) 1))))) s

/-- A session changes state, with its diagnostic, its notification and, on leaving Up, its count (R446). -/
def bfdState (i new diag : Nat) : Prog := .look fun s =>
  let old := (s.tab 13 0 i).f BFD.STATE
  onlyIf (old != new) (seqs [
    setTabF 13 0 i BFD.STATE new,
    setTabF 13 0 i BFD.LOCAL_DIAG diag,
    onlyIf (old == 3 && new == 1) (count 12 (4 * i + 2) 1),
    .put (.bfdX i { s.bfdXAt i with due := s.mono }),
    svcNotify 1 old new i diag])

/-- The physical service core that serves a logical number: its holder, or the next logical number's that has one (R440, R543). -/
def State.coreOf (s : State) (k : Nat) : Option Nat := (List.range 8).findSome? (fun j => s.holder clsScore ((k + j) % 8))

/-- An ECMP member is taken out for a session (R446): the write of the service core that owns the session crosses to the FE die behind that core's earlier requests (R29, R33), and the
parish register records it with the core's origin; it is held while the register has no room or the way is not clear (R52, R660). -/
def memberOut (i m : Nat) : Prog := .look fun s =>
  let x := (s.tab 103 2 m).put MEM.VALID 0
  let r := tableRecord (0x3000 + (s.coreOf (i % 8)).getD 0) 103 2 2 m (entryAux (some x)) s
  let k := 1 + (s.coreOf (i % 8)).getD 0
  onlyIf ((s.tab 103 2 m).on MEM.VALID) (
    either (s.jnlAccepts r && s.crossFree k) (seqs [enginePass k [103, m], acceptRecord r, setTab 103 2 m x])
      (.put (.jnlHeld (s.jnlHeld ++ [{ what := 6, master := r.origin, page := 103, off := m, value := i, record := r, at_ := s.mono }]))))

/-- The ECMP member of a session whose detection time expired, with DOWN_ACT (R446). -/
def bfdMemberOut (i : Nat) : Prog := .look fun s =>
  let e := s.tab 13 0 i
  onlyIf (e.on BFD.DOWN_ACT) (memberOut i (e.f BFD.MEMBER))

/-- BFD_DETECT_EXPIRE (R445, R446): the detection time of a session has passed; the remote discriminator is forgotten (RFC 5880 6.8.1), and in Init or Up the session goes Down. -/
def execBfdDetectExpire (sess : Nat) (s : State) : Host.Outcome State Fault Refusal :=
  command (.bfdDetectExpire sess) (.look fun s =>
    let e := s.tab 13 0 sess
    let x := s.bfdXAt sess
    onlyIf (s.rd SVC_CFG.BFD_EN == 1 && e.on BFD.VALID &&
        (match x.rxAt with | some t => x.rMult != 0 && s.since t (bfdDetectUs e x * 1000) | none => false)) (seqs [
      .put (.bfdX sess { x with rxAt := none }),
      setTabF 13 0 sess BFD.REMOTE_DISC 0,
      onlyIf (2 ≤ e.f BFD.STATE) (.andThen (bfdState sess 1 1) (bfdMemberOut sess))])) s

/-- A received control packet: its state, multiplier, flags, discriminators and intervals. -/
structure BfdMsg where
  diag : Nat
  state : Nat
  poll : Bool
  final : Bool
  auth : Bool
  demand : Bool
  mult : Nat
  mine : Nat
  yours : Nat
  minTx : Nat
  minRx : Nat
  deriving DecidableEq, Repr

/-- The control packet in bytes. -/
def bfdMsg (b : List Nat) : BfdMsg :=
  let f := b.getD 1 0
  { diag := b.getD 0 0 % 32, state := f / 64, poll := bitOf f 5, final := bitOf f 4, auth := bitOf f 2, demand := bitOf f 1, mult := b.getD 2 0,
    mine := ofBytesBE ((b.drop 4).take 4), yours := ofBytesBE ((b.drop 8).take 4), minTx := ofBytesBE ((b.drop 12).take 4), minRx := ofBytesBE ((b.drop 16).take 4) }

/-- Whether a received packet is to be discarded (R444; RFC 5880: version 1, a multiplier and a discriminator that are not 0, no multipoint bit, and the other discriminator 0 only in
state AdminDown or Down). -/
def State.bfdBad (s : State) (p : Pkt) (b : List Nat) : Bool :=
  let m := bfdMsg b
  (s.parsed p).f 0x34 != 255 || m.auth || m.demand || b.getD 0 0 / 32 != 1 || m.mult == 0 || m.mine == 0 || b.getD 1 0 % 2 == 1 ||
    (m.yours == 0 && decide (2 ≤ m.state))

/-- A received packet acts on its session (RFC 5880 6.8.6): what the remote end says of itself, a final bit that ends the poll, a poll that is owed a final, and the change of
state. -/
def bfdAct (i : Nat) (m : BfdMsg) : Prog := .look fun s =>
  let e := s.tab 13 0 i
  let x := s.bfdXAt i
  let st := e.f BFD.STATE
  let new := if m.state == 0 then (if st == 1 then 1 else if st == 0 then 0 else 1)
    else if st == 1 then (if m.state == 1 then 2 else if m.state == 2 then 3 else 1)
    else if st == 2 then (if 2 ≤ m.state then 3 else 2)
    else if st == 3 then (if m.state == 1 then 1 else 3) else st
  let done := m.final && x.poll
  let x := { x with
    rxAt := some s.mono, rMult := m.mult, rMinTx := m.minTx, rMinRx := m.minRx, rState := m.state, fin := x.fin || m.poll, poll := x.poll && !done
    txUs := if done then 0 else x.txUs, rxUs := if done then 0 else x.rxUs, due := if m.poll then s.mono else x.due }
  seqs [
    count 12 (4 * i + 1) 1,
    onlyIf (!e.on BFD.ADMIN_DOWN) (seqs [
      .put (.bfdX i x),
      setTabF 13 0 i BFD.REMOTE_DISC m.mine,
      bfdState i new (if new == 1 && 2 ≤ st then 3 else if new == 3 then 0 else e.f BFD.LOCAL_DIAG)])]

/-- Whether a packet only confirms an Up session (R437). -/
def bfdConfirms (e : Entry) (x : BfdX) (m : BfdMsg) : Bool :=
  e.f BFD.STATE == 3 && m.state == 3 && !m.poll && !m.final && m.mult == x.rMult && m.minTx == x.rMinTx && m.minRx == x.rMinRx && m.mine == e.f BFD.REMOTE_DISC

/-- BFD_RX (R437, R444): the engine takes the oldest BFD packet of the service unit: one that confirms an Up session is consumed, any other goes to the core that owns
the session. -/
def execBfdRx (s : State) : Host.Outcome State Fault Refusal :=
  command .bfdRx (.look fun s =>
    match s.svcRx.find? (fun p => p.app == 4 && (s.bodiesAt p.body).whole) with
    | none => .skip
    | some p =>
      let m := bfdMsg (s.appBytes p 24)
      let i := m.yours % 2 ^ 14
      let e := s.tab 13 0 i
      .andThen (.put (.svcRx (s.svcRx.eraseIdx (s.svcRx.findIdx (fun q => q.app == 4 && (s.bodiesAt q.body).whole))))) (
        if (s.bodiesAt p.body).tail != 0 then stgDiscard p 0xA1 3
        else if m.yours == 0 then steer p 0
        else if s.bfdBad p (s.appBytes p 24) then .andThen (count 12 (4 * i + 3) 1) (takeDone p)
        else if bfdConfirms e (s.bfdXAt i) m then .andThen (bfdAct i m) (takeDone p)
        else steer p i)) s

/-! ### CFM continuity check (R448, R449) -/

/-- A MEP's period in ns (R448). -/
def ccmPeriod (code : Nat) : Nat := [0, 3333333, 10000000, 100000000, 1000000000, 10000000000, 0, 0][code]?.getD 0

/-- A MEP's CCM (IEEE 802.1Q clause 20). -/
def State.ccmPacket (s : State) (i : Nat) : List Nat :=
  let e := s.tab 13 1 i
  let rdi := e.f MEP.DEFECTS &&& 13 != 0
  [1, 0x80, 0xC2, 0, 0, 0x30 + e.f MEP.LEVEL, 0, 0, 0, 0, 0, 0, 0x89, 0x02] ++
    [e.f MEP.LEVEL * 32, 1, b2n rdi * 128 + e.f MEP.PERIOD, 70] ++ toBytesBE 4 (s.mepXAt i).seq ++ toBytesBE 2 (e.f MEP.MEPID) ++
    ((List.range 12).map (fun w => toBytesLE 4 (e.f (ee w 31 0)))).flatten ++ List.replicate 16 0 ++ [0]

/-- CCM_TX (R448): a MEP sends its CCM at its period. -/
def execCcmTx (mep : Nat) (s : State) : Host.Outcome State Fault Refusal :=
  command (.ccmTx mep) (whenEnabled 13 <| .look fun s =>
    let e := s.tab 13 1 mep
    let x := s.mepXAt mep
    onlyIf (s.rd SVC_CFG.CFM_EN == 1 && e.on MEP.VALID && decide (x.due ≤ s.mono)) (
      injectTo (s.ccmPacket mep) (e.f MEP.NH_ID) (e.f MEP.TX_TC)
        (.andThen (.put (.mepX mep { x with due := s.mono + ccmPeriod (e.f MEP.PERIOD), seq := (x.seq + 1) % 2 ^ 32 })) (count 13 (4 * mep) 1)))) s

/-- The valid MEPs of a LIF. -/
def State.mepsOf (s : State) (lif : Nat) : List Nat :=
  (s.tabIndices 13 1).filter (fun i => (s.tab 13 1 i).on MEP.VALID && (s.tab 13 1 i).f MEP.LIF == lif)

/-- A MEP's defects change, with a notification and its count of entries (R449). -/
def mepDefects (i new : Nat) : Prog := .look fun s =>
  let old := (s.tab 13 1 i).f MEP.DEFECTS
  onlyIf (old != new) (seqs [
    setTabF 13 1 i MEP.DEFECTS new,
    count 13 (4 * i + 2) ((List.range 4).filter (fun b => bitOf new b && !bitOf old b)).length,
    svcNotify 2 old new i 0])

/-- What a CCM's bytes say against a MEP's entry: another MAID, a MEP ID that is neither the remote one nor its own, another period, RDI, and whether it is valid. -/
structure CcmMsg where
  xcon : Bool
  err : Bool
  rdi : Bool
  valid : Bool
  deriving DecidableEq, Repr

def ccmMsg (e : Entry) (b : List Nat) : CcmMsg :=
  let maid := (b.drop 10).take 48 != ((List.range 12).map (fun w => toBytesLE 4 (e.f (ee w 31 0)))).flatten
  let id := ofBytesBE ((b.drop 8).take 2) % 8192
  let period := b.getD 2 0 % 8 != e.f MEP.PERIOD
  let err := !maid && ((id != e.f MEP.RMEPID && id != e.f MEP.MEPID) || period)
  { xcon := maid, err := err, rdi := 128 ≤ b.getD 2 0, valid := !maid && !err && id == e.f MEP.RMEPID }

/-- A CCM acts on its MEP (R449). -/
def ccmAct (i : Nat) (c : CcmMsg) : Prog := .look fun s =>
  let x := s.mepXAt i
  let d := (s.tab 13 1 i).f MEP.DEFECTS
  let d := if c.xcon then withBit d 3 true else if c.err then withBit d 2 true else d
  let d := if c.valid then withBit (withBit d 0 false) 1 c.rdi else d
  seqs [
    .put (.mepX i { x with okAt := if c.valid then s.mono else x.okAt, errAt := if c.err then s.mono else x.errAt, xconAt := if c.xcon then s.mono else x.xconAt }),
    onlyIf c.valid (count 13 (4 * i + 1) 1),
    mepDefects i d]

/-- CCM_RX (R437, R449): the engine takes the oldest CCM of the service unit: one that confirms a clean MEP is consumed, any other goes to the core that owns the MEP. -/
def execCcmRx (s : State) : Host.Outcome State Fault Refusal :=
  command .ccmRx (.look fun s =>
    match s.svcRx.find? (fun p => p.app == 6 && (s.bodiesAt p.body).whole) with
    | none => .skip
    | some p =>
      let b := s.appBytes p 75
      .andThen (.put (.svcRx (s.svcRx.eraseIdx (s.svcRx.findIdx (fun q => q.app == 6 && (s.bodiesAt q.body).whole))))) (
        match (s.mepsOf p.lif).find? (fun i => (s.tab 13 1 i).f MEP.LEVEL == b.getD 0 0 / 32) with
        | none => takeDone p
        | some i =>
          let c := ccmMsg (s.tab 13 1 i) b
          if (s.bodiesAt p.body).tail != 0 then stgDiscard p 0xA1 3
          else if s.rd SVC_CFG.CFM_EN == 0 then .andThen (count 13 (4 * i + 3) 1) (takeDone p)
          else if c.valid && !c.rdi && (s.tab 13 1 i).f MEP.DEFECTS == 0 then .andThen (ccmAct i c) (takeDone p)
          else steer p i)) s

/-- CFM_DEFECT_EXPIRE (R449): 3.5 periods without a valid CCM enter LOC; as long without an erroneous one end ERROR and XCON. -/
def execCfmDefectExpire (mep : Nat) (s : State) : Host.Outcome State Fault Refusal :=
  command (.cfmDefectExpire mep) (.look fun s =>
    let e := s.tab 13 1 mep
    let x := s.mepXAt mep
    let t := ccmPeriod (e.f MEP.PERIOD) * 7 / 2
    let d := e.f MEP.DEFECTS
    let d := if s.since x.okAt t then withBit d 0 true else d
    let d := if s.since x.errAt t then withBit d 2 false else d
    let d := if s.since x.xconAt t then withBit d 3 false else d
    onlyIf (s.rd SVC_CFG.CFM_EN == 1 && e.on MEP.VALID) (mepDefects mep d)) s

/-! ### Retransmission store (R450 to R453) -/

/-- The tier of a flow or recorder. -/
def svcTier (granary : Nat) : Nat := if granary == 0 then 2 else 3

/-- Whether a lower tier takes writes. -/
def State.tierOn (s : State) (t : Nat) : Bool := if t == 2 then s.tier2On else s.grnReady

/-- Whether an RTP packet type is a media one, outside the range that RTCP reuses (R438). -/
def mediaPt (pt : Nat) : Bool := pt < 64 || 95 < pt

/-- The release tap (R450, R451): a protected RTP packet that leaves its queue is copied to the store, or counted as STORE_MISS. -/
def rtxStore (q : Nat) (p : Pkt) : Prog := .look fun s =>
  onlyIf (s.rd SVC_CFG.RTX_EN == 1 && s.rd (BLK_CTRL.ENABLE 13) == 1) (
    let r := parse s.prsCfg (windowOf ((s.pktBytes p).take 256) false)
    let pt := r.f 0x59
    each ((s.tabIndices 13 2).filter (fun f =>
      let e := s.tab 13 2 f
      e.on FLOW.VALID && e.f FLOW.QUEUE == q && r.f 0x08 == 1 && mediaPt pt && r.f 0x58 == e.f FLOW.SSRC)) (fun f => .look fun s =>
        let e := s.tab 13 2 f
        let x := s.flowXAt f
        let ext := if x.started then extend (e.f FLOW.HIGH) (r.f 0x5A) else r.f 0x5A
        let t := svcTier (e.f FLOW.TIER)
        let n := declLen p - 4
        let size := poolSize (poolOf n)
        seqs [
          onlyIf (!x.started || extAfter ext (e.f FLOW.HIGH)) (setTabF 13 2 f FLOW.HIGH ext),
          (if s.tierOn t && s.bpmAdmit t 64 size then seqs [
             lowerTake t 64 n,
             freeAccess t 4,
             refBody p.body,
             .put (.flowX f { x with started := true, copies := x.copies ++ [{ ext := ext, at_ := s.mono, pkt := { p with buf := 0 }, size := size }] }),
             count 14 (7 * f) 1]
           else .andThen (.put (.flowX f { x with started := true })) (count 14 (7 * f + 1) 1))]))

/-- A copy leaves the store. -/
def rtxDrop (t : Nat) (c : RtxCopy) : Prog := .andThen (lowerGive t 64 c.size) (derefBody c.pkt.body)

/-- A flow's store is cleared. -/
def rtxClear (f : Nat) : Prog := .look fun s =>
  let x := s.flowXAt f
  .andThen (each x.copies (rtxDrop (svcTier ((s.tab 13 2 f).f FLOW.TIER)))) (.put (.flowX f { x with started := false, copies := [] }))

/-- RTX_COPY_EXPIRE (R450): copies stored RETAIN_MS ago are removed. -/
def execRtxCopyExpire (flow : Nat) (s : State) : Host.Outcome State Fault Refusal :=
  command (.rtxCopyExpire flow) (.look fun s =>
    let e := s.tab 13 2 flow
    let x := s.flowXAt flow
    let old := x.copies.takeWhile (fun c => s.since c.at_ (e.f FLOW.RETAIN_MS * 1000000))
    .andThen (.put (.flowX flow { x with copies := x.copies.drop old.length })) (each old (rtxDrop (svcTier (e.f FLOW.TIER))))) s

/-- The numbers that one FCI names (R452). -/
def fciNames (pid blp : Nat) : List Nat := pid :: ((List.range 16).filter (fun i => bitOf blp i)).map (fun i => (pid + i + 1) % 65536)

/-- The numbers that the RTPFB messages of FMT 1 for a media SSRC name in an RTCP packet (R452; RFC 4585). -/
def nackNames (ssrc : Nat) : Nat → List Nat → List Nat
  | 0, _ => []
  | f + 1, b =>
    if b.length < 4 then []
    else
      let n := 4 * (ofBytesBE ((b.drop 2).take 2) + 1)
      let m := b.take n
      let names := if b.getD 1 0 == 205 && b.getD 0 0 % 32 == 1 && ofBytesBE ((m.drop 8).take 4) == ssrc then
          ((List.range ((m.length - 12) / 4)).map (fun i => fciNames (ofBytesBE ((m.drop (12 + 4 * i)).take 2)) (ofBytesBE ((m.drop (14 + 4 * i)).take 2)))).flatten
        else []
      names ++ nackNames ssrc f (b.drop n)

/-- One number of a NACK (R452): its copy is read for a resend, or it is skipped and counted. -/
def rtxOne (f ext : Nat) : Prog := .look fun s =>
  let e := s.tab 13 2 f
  let x := s.flowXAt f
  let win := s.mono / 10000000
  let n := if x.winAt == win then x.winN else 0
  .andThen (count 14 (7 * f + 2) 1) (
    match x.copies.find? (fun c => c.ext == ext) with
    | none => count 14 (7 * f + 4) 1
    | some c =>
      if (match c.sentAt with | some t => !s.since t (e.f FLOW.HOLD_MS * 1000000) | none => false) then count 14 (7 * f + 5) 1
      else if e.f FLOW.RTX_LIMIT ≤ n then count 14 (7 * f + 6) 1
      else .andThen (refBody c.pkt.body) (.put (.flowX f { x with
        winAt := win, winN := n + 1, reads := x.reads ++ [c.pkt],
        copies := x.copies.map (fun y => if y.ext == ext then { y with sentAt := some s.mono } else y) })))

/-- A NACK at its flow's core (R452): its numbers in ascending order. -/
def rtxNack (f : Nat) (p : Pkt) : Prog := .look fun s =>
  let e := s.tab 13 2 f
  let r := s.parsed p
  let o := r.f oApp
  let high := e.f FLOW.HIGH
  let b := (s.pktBytes p).drop o
  let l := ((nackNames (e.f FLOW.SSRC) b.length b).map (extend high)).mergeSort (fun a b => !extAfter a b)
  onlyIf (s.rd SVC_CFG.RTX_EN == 1) (each l (rtxOne f))

/-- RESEND_READ_DONE (R453): the oldest read of a flow completes; the copy takes a new tier-1 buffer and enters RTX_QUEUE. -/
def execResendReadDone (flow : Nat) (s : State) : Host.Outcome State Fault Refusal :=
  command (.resendReadDone flow) (.look fun s =>
    let x := s.flowXAt flow
    match x.reads with
    | [] => .skip
    | p :: rest =>
      let q := (s.tab 13 2 flow).f FLOW.RTX_QUEUE
      let r := s.rootPort q
      let n := declLen p
      let t := svcTier ((s.tab 13 2 flow).f FLOW.TIER)
      .andThen (seqs [.put (.flowX flow { x with reads := rest }), freeAccess t 4]) <| readErrors t fun bad => (if bad then poisonPkt p else fun k => k p) fun p => .look fun s => (
        if s.bpmAdmit 1 r (poolSize (poolOf (n - 4))) then
          .andThen (count 14 (7 * flow + 3) 1) (landBody p.body r n 1 (fun i => enqueueCopy q { p with buf := i, queue := q, dport := r, group := none }))
        else seqs [
          tmReason 0xB2, count 8 (7 * q + 5) 1, refusalReport 0xB2 q p.colour false p.srcDev p.srcPort (s.qLen q p), derefBody p.body])) s

/-! ### Hitless merge (R454 to R456) -/

/-- The valid merge group and leg of an RTP packet (R438). -/
def State.mergeLeg (s : State) (port ssrc : Nat) : Option (Nat × Nat) :=
  (s.tabIndices 13 3).findSome? (fun g =>
    let e := s.tab 13 3 g
    if !e.on MRG.VALID then none
    else if e.f MRG.PORT_A == port && e.f MRG.SSRC_A == ssrc then some (g, 0)
    else if e.f MRG.PORT_B == port && e.f MRG.SSRC_B == ssrc then some (g, 1) else none)

/-- The legs of a group as a notification shows them: LEG_A_OK in bit 1, LEG_B_OK in bit 0. -/
def legsOf (e : Entry) : Nat := e.f MRG.LEG_A_OK * 2 + e.f MRG.LEG_B_OK

/-- A leg's OK flag changes (R456). -/
def legOk (g leg v : Nat) : Prog := .look fun s =>
  let e := s.tab 13 3 g
  let e' := e.put (if leg == 0 then MRG.LEG_A_OK else MRG.LEG_B_OK) v
  onlyIf (legsOf e != legsOf e') (.andThen (setTab 13 3 g e') (svcNotify 3 (legsOf e) (legsOf e') g 0))

/-- MERGE_JUDGE (R454, R455): the oldest leg packet whose tail has arrived in staging is passed or discarded. -/
def execMergeJudge (s : State) : Host.Outcome State Fault Refusal :=
  command .mergeJudge (.look fun s =>
    let ready (y : Pkt × Nat × Nat) : Bool := (s.bodiesAt y.1.body).whole
    match s.mergeQ.find? ready with
    | none => .skip
    | some (p, g, leg) =>
      let x := s.mergeXAt g
      let h := (s.tab 13 3 g).f MRG.H
      let first := !x.started || 64 ≤ x.stale
      let seq := (s.parsed p).f 0x5A
      let ext := if first then seq else extend h seq
      let back := (h + 2 ^ 32 - ext) % 2 ^ 32
      let x := if leg == 0 then { x with aAt := s.mono } else { x with bAt := s.mono }
      let pass (y : MergeX) (h : Nat) : Prog := seqs [
        .put (.mergeX g y), setTabF 13 3 g MRG.H h, count 15 (3 * g) 1, stageQueue p]
      .andThen (.put (.mergeQ (s.mergeQ.eraseIdx (s.mergeQ.findIdx ready)))) (
        if (s.bodiesAt p.body).tail != 0 then stgDiscard p 0xA1 3
        else .andThen (legOk g leg 1) (
          if first then pass { x with started := true, marks := [ext], stale := 0 } ext
          else if extAfter ext h then
            pass { x with marks := (x.marks.filter (fun m => decide ((ext + 2 ^ 32 - m) % 2 ^ 32 < 4096))) ++ [ext], stale := 0 } ext
          else if back < 4096 then
            (if x.marks.contains ext then seqs [.put (.mergeX g { x with stale := 0 }), count 15 (3 * g + 1) 1, stgDiscard p 0xE0 3]
             else pass { x with marks := x.marks ++ [ext], stale := 0 } h)
          else seqs [.put (.mergeX g { x with stale := x.stale + 1 }), count 15 (3 * g + 2) 1, stgDiscard p 0xE1 3]))) s

/-- MERGE_LEG_TIMEOUT (R456): a leg that has delivered no packet for 100 ms loses its OK flag. -/
def execMergeLegTimeout (grp leg : Nat) (s : State) : Host.Outcome State Fault Refusal :=
  command (.mergeLegTimeout grp leg) (.look fun s =>
    let x := s.mergeXAt grp
    onlyIf (s.since (if leg == 0 then x.aAt else x.bAt) 100000000) (legOk grp leg 0)) s

/-! ### Recording and replay (R457 to R459) -/

/-- The tier bytes that a recorder holds. -/
def RecX.bytes (x : RecX) : Nat := x.items.foldl (fun a i => a + i.size) 0

/-- A recorder's use is shown (R457). -/
def recShow (r : Nat) : Prog := .look fun s => setF (SVC_REC.USED_MIB r) (((s.recXAt r).bytes + 2 ^ 20 - 1) / 2 ^ 20)

/-- The oldest record of a recorder goes. -/
def recDropOldest (r : Nat) : Prog := .look fun s =>
  let x := s.recXAt r
  match x.items with
  | [] => .skip
  | i :: rest => seqs [
      lowerGive i.tier 65 (poolSize (poolOf i.size)),
      derefBody i.pkt.body,
      .put (.recX r { x with items := rest })]

/-- Room is made by overwriting the oldest records, `fuel` of them at most. -/
def recRoom (r size cap : Nat) : Nat → Prog
  | 0 => .skip
  | f + 1 => .look fun s =>
    let x := s.recXAt r
    onlyIf (!x.items.isEmpty && (cap < x.bytes + size || !s.bpmAdmit (svcTier (s.rd (SVC_REC.TIER r))) 65 (poolSize (poolOf size))))
      (.andThen (recDropOldest r) (recRoom r size cap f))

/-- A recorder takes a packet that port 50 releases from its queue (R457, R458). -/
def recorderTake (r : Nat) (p : Pkt) : Prog := .look fun s =>
  let n := (s.pktBytes p).length
  let size := 16 + (n + 15) / 16 * 16
  let t := svcTier (s.rd (SVC_REC.TIER r))
  let cap := s.rd (SVC_REC.MAX_MIB r) * 2 ^ 20
  let head := ([p.srcPort % 64 * 2 ^ 26 + n % 2 ^ 14, p.nh.getD 0, s.ns64 % 2 ^ 32, s.ns64 / 2 ^ 32].map (toBytesLE 4)).flatten
  .andThen (onlyIf (s.rd (SVC_REC.WRAP r) == 1) (recRoom r size cap (s.recXAt r).items.length)) (.look fun s =>
    let x := s.recXAt r
    if s.tierOn t && decide (x.bytes + size ≤ cap) && s.bpmAdmit t 65 (poolSize (poolOf size)) then seqs [
      lowerTake t 65 size,
      freeAccess t 5,
      .put (.recX r { x with items := x.items ++ [{ id := x.next, head := head, pkt := { p with buf := 0 }, size := size, time := s.ns64, tier := t }], next := x.next + 1 }),
      recShow r]
    else seqs [bumpF (SVC_REC.DROPPED r) 1, raise 13 19, recShow r, derefBody p.body])

/-- The recorder that takes the packets of a queue. -/
def State.recorderOf (s : State) (q : Nat) : Option Nat :=
  if s.rd SVC_CFG.REC_EN == 1 then (List.range 16).find? (fun r => s.rd (SVC_REC.EN r) == 1 && s.rd (SVC_REC.QUEUE r) == q) else none

/-- A write of a recorder's word 3: the settings, and a readout or replay of the records present, ignored while BUSY (R458, R459) and while SVC
is disabled (R56). -/
def recCommand (r job data : Nat) : Prog := .look fun s =>
  let x := s.recXAt r
  let first := match x.items with | i :: _ => i | [] => {}
  let start := bitOf data (if job == 1 then 31 else 30) && s.rd (SVC_REC.BUSY r) == 0 && s.rd (BLK_CTRL.ENABLE 13) == 1
  seqs [
    setF (SVC_REC.SPEED r) (data / 2 ^ 28 % 2),
    setF (SVC_REC.QPAIR r) (data % 4096),
    onlyIf start (.andThen (setF (SVC_REC.BUSY r) 1)
      (.put (.recX r { x with job := job, pos := if x.items.isEmpty then x.next else first.id, upto := x.next, at_ := s.mono, base := first.time })))]

/-- The next record of a readout or replay, read from its tier: those that a WRAP has overwritten are skipped, and counted by a readout (R458). -/
def recNext (r : Nat) (k : RecItem → Bool → Prog) : Prog := .look fun s =>
  let x := s.recXAt r
  match x.items.find? (fun i => decide (x.pos ≤ i.id)) with
  | none => .put (.recX r { x with pos := x.upto })
  | some i =>
    .andThen (onlyIf (x.job == 1) (bumpF (SVC_REC.DROPPED r) (min i.id x.upto - x.pos)))
      (if x.upto ≤ i.id then .put (.recX r { x with pos := x.upto }) else seqs [
        .put (.recX r { x with pos := i.id + 1 }), freeAccess i.tier 5, readErrors i.tier (k i)])

/-- The next record of a replay that is due enters staging as a service injection, while it may (R459, R700). -/
def replayNext (r : Nat) : Prog := .look fun s =>
  let x := s.recXAt r
  let pace (i : RecItem) : Bool := s.rd (SVC_REC.SPEED r) == 1 || decide (x.at_ + (i.time - x.base) ≤ s.mono)
  onlyIf (x.job == 2 && decide (x.pos < x.upto) && (match x.items.find? (fun i => decide (x.pos ≤ i.id)) with
    | some i => pace i && (s.stgRefuses { i.pkt with kind := 3 }).isNone &&
        s.fetchRoom (s.rd (SVC_REC.DEST_DEVICE r)) (s.rd (SVC_REC.DEST_QUEUE r)) ((s.pktBytes i.pkt).length + 4)
    | none => true)) (recNext r (fun i bad => .look fun s =>
      let q := s.rd (SVC_REC.DEST_QUEUE r)
      let b := s.pktBytes i.pkt
      .andThen (fetchReserve (s.rd (SVC_REC.DEST_DEVICE r)) q (b.length + 4)) <| newBody { bytes := b, whole := true, refs := 1, tail := if bad then 4 else 0 } (fun j => stgCharge
        { body := j, kind := 3, srcDev := s.ownId, srcPort := i.pkt.srcPort, dev := s.rd (SVC_REC.DEST_DEVICE r), resv := if s.rd (SVC_REC.DEST_DEVICE r) == s.ownId then b.length + 4 else 0, queue := q, dport := s.rootPort q, nh := i.pkt.nh,
          tc := q % 8, lif := i.pkt.lif, lenSrc := 1, frameLen := b.length + 4, declMax := b.length + 4 } stageQueue)))

/-- REC_DONE (R459): a readout or replay has reached its last record. -/
def execRecDone (rec_ : Nat) (s : State) : Host.Outcome State Fault Refusal :=
  command (.recDone rec_) (.look fun s =>
    let x := s.recXAt rec_
    onlyIf (x.job != 0 && decide (x.upto ≤ x.pos)) (seqs [
      .put (.recX rec_ { x with job := 0 }), setF (SVC_REC.BUSY rec_) 0, raise 13 20])) s

/-! ### The service unit at staging (R438) -/

/-- Whether a packet's forwarding result is RECEIVE. -/
def Pkt.received (p : Pkt) : Bool := p.kind == 1 && p.reason == 0x9B

/-- The flow that a received NACK belongs to (R438). -/
def State.nackFlow (s : State) (p : Pkt) (r : Parsed) : Option Nat :=
  if r.f 0x08 == 1 && r.f pRtpMark == 1 && r.f 0x59 == 77 && (s.pktBytes p).getD (r.f oApp) 0 % 32 == 1 then
    (s.tabIndices 13 2).find? (fun f => let e := s.tab 13 2 f; e.on FLOW.VALID && e.f FLOW.PORT == p.srcPort && e.f FLOW.SSRC == r.f 0x58)
  else none

/-- A copy of a packet for the service cores enters staging beside it, as one that the TM die sends back (R700): admitted under ELASTIC_FLOOR, or refused with 0xB0 under its input. -/
def steerCopy (p : Pkt) (k : Nat) : Prog := .look fun s =>
  let c := { p with kind := 3, dup := true, dev := s.ownId }
  match s.stgRefuses c with
  | some r => seqs [tmReason r, stgDropped c.input r, count 9 (4 * (8 * c.dev + c.tc) + 3) 1, .look fun s => refusalReport r c.queue c.colour true c.dev c.srcPort (s.reqLen c)]
  | none => .andThen (refBody p.body) (stgCharge c (fun q => steer q k))

/-- The service unit examines a packet whose bytes have entered staging (R438, R440): taken for the engine, a core or a merge group, discarded, or passed on; passed
on while SVC is disabled (R56).  A copy of
a NACK that is also forwarded has a charge and a reference of its own; one whose result is RECEIVE is not trapped beside it. -/
def serviceUnit (p : Pkt) : Prog := .look fun s =>
  let r := s.parsed p
  let own := s.rd (BLK_CTRL.ENABLE 13) == 1 && (p.kind == 0 || p.kind == 1)
  let b := s.appBytes p 24
  let yours := ofBytesBE ((b.drop 8).take 4)
  let level := b.getD 0 0 / 32
  let meps := s.mepsOf p.lif
  if own && p.app == 4 && r.f 0x39 == 3784 && p.received && s.rd SVC_CFG.BFD_EN == 1 && (yours == 0 || yours / 2 ^ 14 == s.discBase) then
    (if yours != 0 && !(s.tab 13 0 (yours % 2 ^ 14)).on BFD.VALID then stgDiscard p 0xE2 3
     else .put (.svcRx (s.svcRx ++ [{ p with kind := 3 }])))
  else if own && p.app == 6 && s.rd SVC_CFG.CFM_EN == 1 && b.getD 1 0 == 1 && meps.any (fun i => (s.tab 13 1 i).f MEP.LEVEL == level) then
    .put (.svcRx (s.svcRx ++ [p]))
  else if own && p.app == 6 && s.rd SVC_CFG.CFM_EN == 1 && meps.any (fun i => decide (level < (s.tab 13 1 i).f MEP.LEVEL)) then
    .andThen (onlyIf (b.getD 1 0 == 1) (each (meps.filter (fun i => decide (level < (s.tab 13 1 i).f MEP.LEVEL)))
      (fun i => ccmAct i { xcon := true, err := false, rdi := false, valid := false }))) (stgDiscard p 0xE3 3)
  else if own && s.rd SVC_CFG.RTX_EN == 1 && (s.nackFlow p r).isSome then
    (match s.nackFlow p r with
     | none => stageQueue p
     | some f =>
       if (s.tab 13 2 f).on FLOW.TERMINATE || p.received then steer p (f % 8)
       else .andThen (steerCopy p (f % 8)) (stageQueue p))
  else if own && (p.kind == 0 || p.received) && s.rd SVC_CFG.MERGE_EN == 1 && r.f 0x08 == 1 && mediaPt (r.f 0x59) then
    (match s.mergeLeg p.srcPort (r.f 0x58) with
     | some x => .put (.mergeQ (s.mergeQ ++ [(p, x.1, x.2)]))
     | none => stageQueue p)
  else stageQueue p

/-! ### The service cores (R439, R440) -/

/-- The logical numbers that a physical core serves: its own, and in the degraded mode those before it that have no core (R571). -/
def State.coreServes (s : State) (core : Nat) : List Nat :=
  let l := s.unit clsScore core UNIT.LOGICAL
  if s.role clsScore core != 1 then []
  else l :: (if bitOf (s.rd RPR_STAT.DEGRADED) clsScore then (List.range 8).filter (fun k => k != l && (s.holder clsScore k).isNone && s.coreOf k == some core) else [])

/-- The session that a BFD packet with YOUR_DISC 0 belongs to (R438). -/
def State.bfdMatch (s : State) (p : Pkt) (r : Parsed) : Option Nat :=
  (s.tabIndices 13 0).find? (fun i =>
    let e := s.tab 13 0 i
    let six := e.on BFD.IPV6
    e.on BFD.VALID && e.f BFD.LIF == p.lif && (r.f pL3 == if six then 6 else 4) &&
      (if six then e.f ⟨0, 127, 0⟩ == r.f 0x30 && e.f ⟨0, 255, 128⟩ == r.f 0x31 else e.f (ek 3 31 0) == r.f 0x30 && e.f (ek 7 31 0) == r.f 0x31))

/-- What a service core does with a packet: BFD, CCM and NACK packets act on what they name; every other packet is the firmware's own. -/
def coreServe (p : Pkt) : Prog := .look fun s =>
  let r := s.parsed p
  let b := s.appBytes p 75
  if p.app == 4 then
    let m := bfdMsg b
    (match (if m.yours == 0 then s.bfdMatch p r else some (m.yours % 2 ^ 14)) with
     | some i =>
       if s.bfdBad p b then count 12 (4 * i + 3) 1
       else onlyIf ((s.tab 13 0 i).on BFD.VALID && s.rd SVC_CFG.BFD_EN == 1) (bfdAct i m)
     | none => tmReason 0xE2)
  else if p.app == 6 then
    (match (s.mepsOf p.lif).find? (fun i => (s.tab 13 1 i).f MEP.LEVEL == b.getD 0 0 / 32) with
     | some i => onlyIf (s.rd SVC_CFG.CFM_EN == 1) (ccmAct i (ccmMsg (s.tab 13 1 i) b))
     | none => .skip)
  else match s.nackFlow p r with
  | some f => rtxNack f p
  | none => .skip

/-- SERVICE_CORE_PACKET (R439): an ACTIVE core serves the oldest packet of its queues and removes it when it has finished. -/
def execServiceCorePacket (core : Nat) (s : State) : Host.Outcome State Fault Refusal :=
  command (.serviceCorePacket core) (.look fun s =>
    match (s.coreServes core).find? (fun k => !(s.svcQAt k).isEmpty) with
    | none => .skip
    | some k =>
      match s.svcQAt k with
      | [] => .skip
      | p :: rest => seqs [coreServe p, .put (.svcQ k rest), derefBody p.body]) s

end Sys2Proof.Machine
end

