-- ==== Sys2Proof/Machine/Mem.lean ====
section
/-!
DEFINITION. The memory controllers (spec/10_memory_controllers.md R381 to R414) and the actions of spec/07_buffers.md R256 and R286: targets 0 to 3 are the HBM
stacks, 4 to 19 the Granary channels.
-/
namespace Sys2Proof.Machine

/-- A block of the memory controllers is enabled (R382, R389, R399): a stack trains with the lanes and rows of the peg map, a channel is identified by SPD bytes 0 to 639 of its two hubs. -/
def memEnable (t : Nat) : Prog := .look fun s =>
  let lanes := (s.pegs.filter (fun g => g.kind == 4 && isStack t && g.unit / 32 == t)).map (fun g => (g.unit % 32, g.detail))
  seqs [
    .put (.memX t { lanes := lanes, repaired := (s.pegs.filter (fun g => g.kind == 5 && isStack t && g.unit / 32 == t)).map (fun g => g.unit % 32 * 2 ^ 35 + g.detail * 2 ^ 34 + g.addr) }),
    setTgt t 1 0,
    onlyIf (isStack t) (setF (HBMC_STAT.LANES_SPARED t) lanes.length),
    onlyIf (!isStack t) (each [0, 1] (fun k => emit (.spdRead (t - 4) k 0 640)))]

/-- The rows that soft repairs of the peg map replace in the modules of a channel: those recorded for the serial number in its socket (R399, R411). -/
def State.ddrRepairs (s : State) (ch : Nat) (spd : List (List Nat)) : List Nat :=
  (s.pegs.filter (fun g => g.kind == 6 && g.unit / 2 == ch && (match spd[g.unit % 2]? with | some m => !m.isEmpty && m.getD 6 0 == g.serial | none => false))).map
    (fun g => g.unit % 2 * 2 ^ 39 + g.detail * 2 ^ 32 + g.addr)

/-! ### Bringing a tier up (R250, R255, R394) -/

/-- The buffer regions of the Granary begin awake and without a pool, but for the `taken` ones that its pools take; no unit is masked. -/
def grnRegions (regions taken : Nat) : Prog := .look fun s => seqs [
  .put (.sruMask []),
  setF GRN_STAT.IDLE_REGIONS 0,
  .put (.freeAges (if regions == 0 then [] else ((List.range s.sruCount).map (fun k => (k, s.mono, s.sruRegions k))).filter (fun x => x.2.2 != 0))),
  each (List.range taken) (fun _ => wakeRegion true)]

/-- A tier begins with empty pools at their floors over a number of regions. -/
def tierUp (t regions : Nat) : Prog := .look fun s =>
  let floors := (List.range 6).foldl (fun (a : List Nat × Nat) k =>
    let n := min a.2 (s.rd (BPM_POOL_FLOOR.FLOOR (t - 1) k)); (a.1 ++ [n], a.2 - n)) ([], regions)
  seqs [
    setF (BPM_TIER_CAP.REGIONS (t - 1)) regions,
    each ((List.range 6).zip floors.1) (fun x => seqs [
      .put (.poolUse (8 * t + x.1) 0),
      setF (BPM_POOL_STAT.REGIONS (t - 1) x.1) x.2,
      setF (BPM_POOL_STAT.FREE_BUF (t - 1) x.1) (x.2 * perRegion t x.1)]),
    each ((List.range 72).filter (fun r => s.reqUseAt (128 * t + r) != 0)) (fun r => setUse t r 0),
    onlyIf (t == 3) (grnRegions regions (regions - floors.2)),
    setF (BPM_TIER_FREE.FREE (t - 1)) floors.2,
    onlyIf (s.rd (BPM_TIER_LOW.LOW_WATER (t - 1)) ≤ s.rd (BPM_TIER_FREE.FREE (t - 1)) && floors.2 < s.rd (BPM_TIER_LOW.LOW_WATER (t - 1))) (raise 144 (15 + t)),
    showResv t]

/-- Regions of tier 2 over S stacks: 22 GiB each, in regions of 16 MiB. -/
def hbmRegions (n : Nat) : Nat := 1408 * n

/-- The stacks that are READY, as a mask. -/
def State.readyStacks (s : State) : Nat := stackTargets.foldl (fun a t => if s.memReady t then a + 2 ^ t else a) 0

/-- The Granary is built over the READY channels (R387, R393, R394, R396, R399): capacity, regions, share and self-refresh units. -/
def granaryUp : Prog := .look fun s =>
  let l := s.readyChannels
  let gib := l.foldl (fun a t => a + s.chanGib (t - 4)) 0
  let rate := match l with | t :: _ => s.rd (DDRC_STAT.RATE_MTS (t - 4)) | [] => 0
  let ranks := match l with | t :: _ => (s.modulesOf (t - 4)).foldl (fun a m => a + m.2.1) 0 | [] => 0
  seqs [
    setF GRN_CAP.INSTALLED_GIB gib,
    setF GRN_CAP.BUF_REGIONS (gib * 10 / 11),
    setF DDRC_SHARE.SRU_GIB (if ranks == 0 then 0 else gib / (8 * ranks)),
    tierUp 3 (gib * 10 / 11),
    setF DDRC_IL_STAT.CHANNELS (l.foldl (fun a t => a + 2 ^ (t - 4)) 0),
    setF DDRC_IL_STAT.GRAIN_USED (min 8 (s.cfg DDRC_IL_CFG.GRAIN)),
    setF DDRC_IL_STAT.SRUS (8 * ranks),
    setF DDRC_SHARE.SHARE_GBPS (4000 * l.length * rate / (16 * 8800)),
    setF GRN_STAT.STATE 2,
    raise 146 16]

/-! ### Module identity (R383 to R391) -/

/-- The words of DDRC_MOD that a module's SPD fills; no module clears them. -/
def modShow (d k : Nat) (m : List Nat) : Prog := seqs [
  setF (DDRC_MOD.TYPE d k) (if m.isEmpty then 0 else if m.getD 1 0 == 1 || m.getD 1 0 == 2 then m.getD 1 0 else 3),
  setF (DDRC_MOD.RANKS d k) (m.getD 4 0),
  setF (DDRC_MOD.CAP_GIB d k) (m.getD 5 0),
  setF (DDRC_MOD.SERIAL d k) (m.getD 6 0),
  setF (DDRC_MOD.MFR_ID d k) (m.getD 7 0),
  setF (DDRC_MOD.DRFM d k) (m.getD 8 0),
  setF (DDRC_MOD.PASR d k) (m.getD 9 0)]

/-- The highest rate of R386 that a type and module count allow and every one of the channels' modules supports. -/
def bestRate (type count : Nat) (limits : List Nat) : Option Nat :=
  let _ := count
  ((if type == 1 then [6400, 5600, 4800] else [8800, 8000, 6400]).find? (fun r => limits.all (fun x => decide (r ≤ x))))

/-- Channels begin to train at a rate. -/
def trainAt (l : List Nat) (r : Nat) : Prog := .andThen
  (each l (fun e => .andThen (setF (DDRC_STAT.RATE_MTS e) r) (setTgt (e + 4) 2 0)))
  (.look fun s => onlyIf (!l.isEmpty && s.rd GRN_STAT.STATE == 0) (setF GRN_STAT.STATE 1))

/-- Once every channel is identified (R385, R386): the reference configuration is the one that most usable channels share, the lowest-numbered channel's among equals;
its channels train at one rate, and the others are EXCLUDED with cause 3.  A channel identified when others train or have trained is held to their reference.  A rate that the SPD of no
module allows is not stated. -/
def fixReference : Prog := .look fun s =>
  let ok := (List.range 16).filter (fun d => s.rd (DDRC_STAT.STATE d) == 1 && !(s.modulesOf d).isEmpty)
  let used := (List.range 16).filter (fun d => [2, 3, 5].contains (s.rd (DDRC_STAT.STATE d)) && !(s.modulesOf d).isEmpty)
  let count (d : Nat) : Nat := (ok.filter (fun e => s.modulesOf e == s.modulesOf d)).length
  let hold (l : List Nat) : Prog := each (ok.filter (fun e => !l.contains e)) (fun e => setTgt (e + 4) 4 3)
  match used, ok.find? (fun d => ok.all (fun e => decide (count e ≤ count d))) with
  | [], none => setF GRN_STAT.STATE 0
  | _ :: _, none => .skip
  | u :: _, some _ => let l := ok.filter (fun e => s.modulesOf e == s.modulesOf u); .andThen (hold l) (trainAt l (s.rd (DDRC_STAT.RATE_MTS u)))
  | [], some d =>
    let ref := s.modulesOf d
    let l := ok.filter (fun e => s.modulesOf e == ref)
    let limits := (l.map (fun e => ([(s.memXAt (e + 4)).spd0, (s.memXAt (e + 4)).spd1].filter spdUsable).map (fun m => m.getD 10 0))).flatten
    .andThen (hold l)
      (match bestRate ((ref.headD (0, 0, 0)).1) ref.length limits with
       | some r => trainAt l r
       | none => draw (fun v => trainAt l (v % 65536)))

/-- SPD_READ (R384, R385, R389): a channel that is being identified has read the hubs of its two sockets; the lists give what their SPD says, empty for an empty socket. -/
def execSpdRead (ch : Nat) (slot0 slot1 : List Nat) (s : State) : Host.Outcome State Fault Refusal :=
  command (.spdRead ch slot0 slot1) (.look fun s =>
    onlyIf (s.rd (DDRC_STAT.STATE ch) == 1 && !(s.memXAt (ch + 4)).ident) (seqs [
      modShow ch 0 slot0,
      modShow ch 1 slot1,
      setMem (ch + 4) (fun x => { x with spd0 := slot0, spd1 := if slot0.isEmpty then [] else slot1, ident := true, repaired := s.ddrRepairs ch [slot0, slot1] }),
      .look fun t =>
        let n := (t.modulesOf ch).length
        .andThen (setF (DDRC_STAT.MODULES ch) n) (
          if slot0.isEmpty && slot1.isEmpty then setTgt (ch + 4) 0 0
          else if slot0.isEmpty then setTgt (ch + 4) 4 4
          else if n == 0 then setTgt (ch + 4) 4 (if slot0.getD 0 0 != 1 then 1 else 2)
          else .skip),
      .look fun t => onlyIf ((List.range 16).all (fun d => (t.memXAt (d + 4)).ident)) fixReference])) s

/-- The GO of DDRC_SPD_CMD (R391), ignored while BUSY. -/
def spdGo (ch data : Nat) : Prog := .look fun s =>
  onlyIf (bitOf data 0 && s.rd (DDRC_SPD_CMD.BUSY ch) == 0) (seqs [
    setF (DDRC_SPD_CMD.BUSY ch) 1,
    setF (DDRC_SPD_CMD.ERR ch) 0,
    emit (.spdRead ch (s.rd (DDRC_SPD_ADDR.SLOT ch)) (s.rd (DDRC_SPD_ADDR.OFFSET ch)) 1)])

/-- SPD_CMD_DONE (R391): the read of one SPD byte ends; without the hub's acknowledge it sets ERR. -/
def execSpdCmdDone (ch : Nat) (ack : Bool) (data : Nat) (s : State) : Host.Outcome State Fault Refusal :=
  command (.spdCmdDone ch ack data) (.look fun s => onlyIf (s.rd (DDRC_SPD_CMD.BUSY ch) == 1) (seqs [
    setF (DDRC_SPD_CMD.BUSY ch) 0,
    setF (DDRC_SPD_CMD.ERR ch) (b2n (!ack)),
    onlyIf ack (setF (DDRC_SPD_CMD.DATA ch) data)])) s

/-- MODULE_TEMP_POLL (R390): every 100 ms the hubs of a READY channel are read; above TEMP_HI a module's refresh doubles, above TEMP_CRIT the channel is throttled; both end
1 degree below their threshold. -/
def execModuleTempPoll (ch : Nat) (t0 t1 : Int) (s : State) : Host.Outcome State Fault Refusal :=
  command (.moduleTempPoll ch t0 t1) (.look fun s =>
    let x := s.memXAt (ch + 4)
    let hi : Int := s.cfg (DDRC_TEMP_CFG.TEMP_HI ch)
    let crit : Int := s.cfg (DDRC_TEMP_CFG.TEMP_CRIT ch)
    let step (h b : Nat) (t lim : Int) : Nat := if lim < t then withBit h b true else if t ≤ lim - 1 then withBit h b false else h
    let use (k : Nat) : Bool := s.rd (DDRC_MOD.TYPE ch k) != 0
    let h := if use 0 then step (step x.hot 0 t0 hi) 2 t0 crit else x.hot
    let h := if use 1 then step (step h 1 t1 hi) 3 t1 crit else h
    let thr := decide (4 ≤ h)
    onlyIf (s.memReady (ch + 4) && s.since x.tempAt 100000000) (seqs [
      setMem (ch + 4) (fun y => { y with hot := h, tempAt := s.mono }),
      onlyIf (use 0) (setF (DDRC_MOD.TEMP_C ch 0) (t0 % 256).toNat),
      onlyIf (use 1) (setF (DDRC_MOD.TEMP_C ch 1) (t1 % 256).toNat),
      setF (DDRC_STAT.THROTTLED ch) (b2n thr),
      onlyIf (thr && s.rd (DDRC_STAT.THROTTLED ch) == 0) (.andThen (raise (152 + ch) 21) (report (152 + ch) 0x023 3))])) s

/-! ### Lanes, training and retraining (R382, R399 to R402) -/

/-- A lane of an HBM channel (channel * 64 + lane) below its margin is remapped to the next of the channel's 4 spares and recorded in the peg map; with no spare left
the stack is to go out of service. -/
def spareLane (t code : Nat) : Prog := .look fun s =>
  let x := s.memXAt t
  let ch := code / 64 % 32
  let used := (x.lanes.filter (fun l => l.1 == ch)).length
  if x.lanes.contains (ch, code % 64) then .skip
  else if 4 ≤ used then failTarget t 4
  else seqs [
    setMem t (fun y => { y with lanes := y.lanes ++ [(ch, code % 64)] }),
    bumpF (HBMC_STAT.LANES_SPARED t) 1,
    pegAdd { kind := 4, unit := t * 32 + ch, detail := code % 64, addr := used } (fun _ => false)]

/-- The lanes that a training or pause of a stack has found failing. -/
def spareLanes (t : Nat) (lanes : List Nat) : Prog := onlyIf (isStack t) (each lanes (spareLane t))

/-- MEM_TRAINING_DONE (R382, R399, R400, R413): a target that is training has passed, or failed: a stack then goes out of service and a channel is EXCLUDED. -/
def execMemTrainingDone (target : Nat) (ok : Bool) (lanes : List Nat) (s : State) : Host.Outcome State Fault Refusal :=
  command (.memTrainingDone target ok lanes) (.look fun s =>
    onlyIf (s.rd (tgtState target) == stTraining target && !(s.memXAt target).trained) (
      if !ok then
        (if isStack target then seqs [setTgt target 3 1, raise (tgtPage target) 19, report (tgtPage target) 0x022 3] else setTgt target 4 5)
      else .andThen (spareLanes target lanes) (.look fun t =>
        if isStack target && (t.memXAt target).failing == 4 then seqs [setTgt target 3 4, raise (tgtPage target) 19, report (tgtPage target) 0x022 3]
        else setMem target (fun x => { x with trained := true })))) s

/-- CONTROL_AREA_FILLED (R399, R400): the control area of a tier that is not built is zero-filled once every target of it has finished its training; its trained targets are READY and the tier
is built over them.  A target that trains beside a tier that is built waits for the next build (R393). -/
def execControlAreaFilled (granary : Bool) (s : State) : Host.Outcome State Fault Refusal :=
  command (.controlAreaFilled granary) (.look fun s =>
    let l := if granary then channels else stackTargets
    let open_ := l.filter (fun t => s.rd (tgtState t) == stTraining t)
    let ident := (granary && l.any (fun t => s.rd (tgtState t) == 1)) || (if granary then s.rd GRN_STAT.STATE != 1 else s.tier2On || s.tier2Rebuild.isSome)
    onlyIf (!open_.isEmpty && !ident && open_.all (fun t => (s.memXAt t).trained)) (.andThen
      (each open_ (fun t => .andThen (setTgt t (stReady t) 0) (setMem t (fun x => { x with pauseAt := s.mono, tempAt := s.mono, scrubAt := s.mono }))))
      (if granary then .andThen granaryUp (.look fun t => onlyIf (t.rd GRN_STAT.STATE == 2) (.andThen (freeAccess 3 7) (releaseClears 146 0x200 0x020 t.grnBy none)))
       else .look fun t => seqs [
         setF HBMC_IL_STAT.STACKS t.readyStacks,
         setF HBMC_IL_STAT.GRAIN_USED (min 8 (t.cfg HBMC_IL_CFG.GRAIN)),
         tierUp 2 (hbmRegions (stackTargets.filter (fun k => t.memReady k)).length),
         .put (.tier2On true),
         freeAccess 2 7]))) s

/-- A retraining pause of a target (R401, R402): its lane check, and the drift it may find; three failed pauses in a row take the target out. -/
def pause (t : Nat) (drift : Bool) (lanes : List Nat) : Prog := .look fun s =>
  let n := if drift then (s.memXAt t).drifts + 1 else 0
  seqs [
    setMem t (fun x => { x with pauseAt := s.mono, drifts := n, driftAt := if drift then some s.mono else none }),
    spareLanes t lanes,
    onlyIf drift (raise (tgtPage t) 20),
    onlyIf (3 ≤ n) (failTarget t (if isStack t then 2 else 6))]

/-- Whether no other target of a kind has paused within 10 us (R401). -/
def State.pauseFree (s : State) (t : Nat) : Bool := (if isStack t then stackTargets else channels).all (fun k => k == t || !s.memReady k || s.since (s.memXAt k).pauseAt 10000)

/-- RETRAIN_PAUSE (R382, R401): every RETRAIN_MS a READY target makes a pause. -/
def execRetrainPause (target : Nat) (drift : Bool) (lanes : List Nat) (s : State) : Host.Outcome State Fault Refusal :=
  command (.retrainPause target drift lanes) (.look fun s =>
    onlyIf (s.memReady target && s.pauseFree target && s.since (s.memXAt target).pauseAt (max 1 (s.cfg (tgtRetrainMs target)) * 1000000)) (pause target drift lanes)) s

/-- RETRAIN_REPEAT (R382, R401, R402): a pause that found drift repeats 10 us after it ends, when no other target pauses; the lanes that its check finds failing are a free value. -/
def execRetrainRepeat (target : Nat) (drift : Bool) (s : State) : Host.Outcome State Fault Refusal :=
  command (.retrainRepeat target drift) (.look fun s =>
    onlyIf (s.memReady target && s.pauseFree target && (match (s.memXAt target).driftAt with | some a => s.since a 10000 | none => false))
      (either (isStack target) (draw (fun v => pause target drift ((List.range 2048).filter (bitOf v)))) (pause target drift []))) s

/-! ### Errors, scrubbing and repair (R408 to R412) -/

/-- MEM_SCRUB (R408 to R412): SCRUB_H hours after the last, a pass of the scrubber over a READY target ends, with the errors it has met: corrected ones as eccCorrected takes them, and uncorrectable words, each rewritten
as poisoned. -/
def execMemScrub (target : Nat) (ce ue : List Nat) (s : State) : Host.Outcome State Fault Refusal :=
  command (.memScrub target ce ue) (.look fun s => onlyIf (s.memReady target && s.rd PWR_STAT.THROTTLING == 0 &&
      s.since (s.memXAt target).scrubAt (max 1 (s.cfg (tgtScrubH target)) * 3600000000000)) (seqs [
    setMem target (fun x => { x with scrubAt := s.mono }),
    each ((0 :: ce) ++ ue) (fun _ => draw (fun v => rowAccess target (v % 16384) (v / 16384) 6)),
    each ce (fun c => eccCorrected 7 (c / 2 ^ 48 * 2 ^ 48 + target * 2 ^ 40 + c % 2 ^ 40)),
    each ue (fun _ => eccUncorrectable 7 target)])) s

/-- The peg record of a repaired row (R411, R547). -/
def State.rowPeg (s : State) (t row : Nat) : Peg :=
  if isStack t then { kind := 5, unit := t * 32 + row / 2 ^ 35, detail := row / 2 ^ 34 % 2, addr := row % 2 ^ 32 }
  else { kind := 6, unit := (t - 4) * 2 + row / 2 ^ 39, detail := bankGroup row % 128, addr := row % 2 ^ 32, serial := s.rd (DDRC_MOD.SERIAL (t - 4) (row / 2 ^ 39 % 2)) }

/-- ROW_REPAIR_DONE (R411): the repair of a target's oldest such row is complete and recorded. -/
def execRowRepairDone (target : Nat) (s : State) : Host.Outcome State Fault Refusal :=
  command (.rowRepairDone target) (.look fun s =>
    match (s.memXAt target).repairing with
    | [] => .skip
    | row :: rest => seqs [
        setMem target (fun x => { x with repairing := rest, repaired := x.repaired ++ [row], ces := x.ces.filter (fun c => c.1 != row) }),
        bumpF (tgtRepairs target) 1,
        raise (tgtPage target) 18,
        pegAdd (s.rowPeg target row) (fun _ => false)]) s

/-! ### Out of service (R286, R413, R414) -/

/-- Every segment of a queue in a lost tier is discarded with 0xB8, and a write on its way there stays in TAIL. -/
def loseQueue (t q : Nat) : Prog := .look fun s =>
  let x := s.qxAt q
  let lost := x.mid.filter (fun g => g.tier == t)
  let n := lost.foldl (fun a g => a + g.pkts.length) 0
  let w := match x.writing with | some b => b.tier == t | none => false
  onlyIf (!lost.isEmpty || w) (seqs [
    .put (.qx q { x with
      mid := x.mid.filter (fun g => g.tier != t), hbm := if t == 2 then 0 else x.hbm, grn := if t == 3 then 0 else x.grn,
      sticky := x.sticky && t != 3, writing := if w then none else x.writing }),
    each lost (fun g => each g.pkts (fun y => qDiscard q { y.1 with buf := 0 } 0xB8)),
    onlyIf (t == 3) (each (List.range n) (fun _ => bump64 GRN_LOST_LO.COUNT GRN_LOST_HI.COUNT)),
    drain q])

/-- A tier is lost (R286): its segments, its twins, and what the retransmission store and the recorders keep there; a copy whose read had begun counts as not held (R451). -/
def loseTier (t : Nat) : Prog := .look fun s => seqs [
  each s.qx (fun kv => loseQueue t kv.1),
  .look fun u => .put (.twins (u.twins.filter (fun w => w.tier != t))),
  each (s.flowX.filter (fun kv => svcTier ((s.tab 13 2 kv.1).f FLOW.TIER) == t)) (fun kv => .andThen
    (.andThen (each kv.2.copies (fun c => derefBody c.pkt.body)) (each kv.2.reads (fun p => .andThen (count 14 (7 * kv.1 + 4) 1) (derefBody p.body))))
    (.put (.flowX kv.1 { kv.2 with copies := [], reads := [] }))),
  each (s.recX.filter (fun kv => kv.2.items.any (fun i => i.tier == t))) (fun kv => seqs [
    each (kv.2.items.filter (fun i => i.tier == t)) (fun i => derefBody i.pkt.body),
    .put (.recX kv.1 { kv.2 with items := kv.2.items.filter (fun i => i.tier != t) }), recShow kv.1])]

/-- The backlog of the parish register is emptied by a rebuild of tier 2, and its undelivered records are counted (R663). -/
def backlogEmpty : Prog := .look fun s =>
  let n := (s.jnlBacklog.filter (fun r => decide (s.jnlNext ≤ r.seq))).length
  let v := s.rd JNL_OVERWRITTEN_LO.reg + s.rd JNL_OVERWRITTEN_HI.reg * 2 ^ 32 + n
  onlyIf (!s.jnlBacklog.isEmpty) (seqs [
    .put (.jnlBacklog []),
    onlyIf (n != 0) (seqs [setF JNL_OVERWRITTEN_LO.reg (v % 2 ^ 32), setF JNL_OVERWRITTEN_HI.reg (v / 2 ^ 32), raise 6 17])])

/-- What follows when a target has left service (R286, R414): tier 2 begins to rebuild over the stacks that remain, or the Granary is LOST. -/
def targetGone (target : Nat) : Prog := .look fun s =>
  if isStack target then seqs [
    .put (.tier2On false),
    loseTier 2,
    backlogEmpty,
    setF HBMC_IL_STAT.STACKS s.readyStacks,
    tierUp 2 (hbmRegions (stackTargets.filter (fun k => s.memReady k)).length),
    .put (.tier2Rebuild (if s.readyStacks == 0 then none else some s.mono))]
  else onlyIf (s.rd GRN_STAT.STATE == 2) (seqs [
    setF GRN_STAT.STATE 3,
    raise 146 17,
    report 146 0x020 3,
    loseTier 3,
    tierUp 3 0])

/-- MEM_OUT_OF_SERVICE (R286, R413, R414): a READY target with a cause of R413 leaves service; tier 2 begins to rebuild over the stacks that remain, or the Granary is LOST. -/
def execMemOutOfService (target : Nat) (s : State) : Host.Outcome State Fault Refusal :=
  command (.memOutOfService target) (.look fun s =>
    let c := (s.memXAt target).failing
    onlyIf (s.memReady target && c != 0) (seqs [
      setTgt target (stOut target) c,
      setMem target (fun x => { x with failing := 0, trained := false }),
      raise (tgtPage target) 19,
      report (tgtPage target) 0x022 3,
      targetGone target])) s

/-- TIER2_REBUILD_DONE (R286, R414): tier 2 takes spill again over the stacks in service. -/
def execTier2RebuildDone (s : State) : Host.Outcome State Fault Refusal :=
  command .tier2RebuildDone (.look fun s => onlyIf s.tier2Rebuild.isSome (seqs [
    .put (.tier2Rebuild none),
    .put (.tier2On (s.readyStacks != 0)),
    setF HBMC_IL_STAT.STACKS s.readyStacks,
    setF HBMC_IL_STAT.GRAIN_USED (min 8 (s.cfg HBMC_IL_CFG.GRAIN))])) s

/-- A write of GRN_CFG (R403, R414): with PASR_EN 0 no unit stays masked; EN written from 0 to 1 while the Granary is LOST trains again each channel that is EXCLUDED or OUT_OF_SERVICE and matches the reference; the
Granary is then built over all channels READY once they have trained. -/
def grnCfgWrite (m data : Nat) : Prog := .look fun s =>
  let rise := bitOf data 31 && s.rd GRN_CFG.EN == 0
  let l := s.readyChannels
  let ref := match l with | t :: _ => s.modulesOf (t - 4) | [] => ((channels.map (fun t => s.modulesOf (t - 4))).find? (fun m => !m.isEmpty)).getD []
  let rate := match l with | t :: _ => s.rd (DDRC_STAT.RATE_MTS (t - 4)) | [] => 0
  let again := channels.filter (fun t => (s.rd (tgtState t) == 4 || s.rd (tgtState t) == 5) && !ref.isEmpty && s.modulesOf (t - 4) == ref)
  let idle := s.rd GRN_STAT.IDLE_REGIONS
  .andThen (seqs [
      setReg 146 0x200 (BitVec.ofNat 32 data),
      onlyIf rise (.put (.grnBy m)),
      onlyIf (!bitOf data 30 && idle != 0) (.andThen (setF GRN_STAT.IDLE_REGIONS 0) (.put (.sruMask [])))])
    (onlyIf (rise && s.rd GRN_STAT.STATE == 3) (seqs [
      setF GRN_STAT.STATE 1,
      each again (fun t => seqs [
        setTgt t 2 0,
        onlyIf (rate != 0) (setF (DDRC_STAT.RATE_MTS (t - 4)) rate),
        setMem t (fun x => { x with trained := false, drifts := 0, driftAt := none, ues := [] })]),
      each l (fun t => .andThen (setTgt t 2 0) (setMem t (fun x => { x with trained := true })))]))

/-! ### Self-refresh units (R256, R403, R404) -/

/-- Whether regions may be offered and masked: PASR_EN and the mask advertised by every Granary module. -/
def State.pasrOn (s : State) : Bool :=
  s.rd GRN_CFG.PASR_EN == 1 && s.readyChannels.all (fun t =>
    (s.rd (DDRC_MOD.TYPE (t - 4) 0) == 0 || s.rd (DDRC_MOD.PASR (t - 4) 0) == 1) && (s.rd (DDRC_MOD.TYPE (t - 4) 1) == 0 || s.rd (DDRC_MOD.PASR (t - 4) 1) == 1))

/-- REGION_IDLE_OFFER (R256, R403): the regions of a self-refresh unit, all of which have been unassigned for 1 s, have been offered; the unit, which holds no control area, is
masked. -/
def execRegionIdleOffer (sru : Nat) (s : State) : Host.Outcome State Fault Refusal :=
  command (.regionIdleOffer sru) (.look fun s =>
    let u := s.rd DDRC_SHARE.SRU_GIB
    onlyIf (s.pasrOn && s.rd GRN_STAT.STATE == 2 && u != 0 && decide ((sru + 1) * u ≤ s.rd GRN_CAP.BUF_REGIONS) && !s.sruMask.contains sru &&
        regionsIn (s.freeAges.filter (fun x => s.since x.2.1 1000000000)) sru == u)
      (.andThen (.put (.sruMask (s.sruMask ++ [sru]))) (setF GRN_STAT.IDLE_REGIONS (s.rd GRN_STAT.IDLE_REGIONS + u)))) s

end Sys2Proof.Machine
end

