-- ==== Sys2Proof/Machine/Spill.lean ====
section
/-!
DEFINITION. Spill and drain (spec/07_buffers.md R266 to R270, R275, R276, R278, R284, R285): batches into the lower tiers and segment reads back into HEAD.
-/
namespace Sys2Proof.Machine

/-! ### Batches (R266, R267, R275) -/

/-- The front batch of a TAIL: packets whose tails have arrived, up to 64 KiB or 128 of them; and whether it is full or stopped, so that it is sent. -/
def State.frontBatch (s : State) : List Pkt → Nat → Nat → List Pkt × Bool
  | [], n, b => ([], n == 128 || b == 65536)
  | p :: r, n, b =>
    if n == 128 || !s.pktWhole p || 65536 < b + s.bufBytes p then ([], true)
    else let x := s.frontBatch r (n + 1) (b + s.bufBytes p); (p :: x.1, x.2)

/-- Whether the twins that a batch's shared buffers still need in a tier pass R258 for their requesters (R275). -/
def State.twinsAdmit (s : State) (t r : Nat) (l : List Pkt) : Bool :=
  let new_ := ((l.filter (fun p => 1 < (s.bufsAt p.buf).held)).map Pkt.buf).eraseDups.filter (fun i => !s.twins.any (fun w => w.tier == t && w.buf == i && w.tag == (s.bufsAt i).tag))
  ((new_.map (fun i => (s.bufsAt i).req)).eraseDups.filter (fun k => k != r)).all (fun k =>
    s.bpmAdmit t k ((new_.filter (fun i => (s.bufsAt i).req == k)).foldl (fun a i => a + (s.bufsAt i).size) 0))

/-- The tier of a batch `l` of `b` bytes (R267). -/
def State.spillTarget (s : State) (q b : Nat) (l : List Pkt) : Option Nat :=
  let x := s.qxAt q
  let pr := s.qProf q
  let r := s.rootPort q
  let hbmOk := s.tier2On && decide (x.hbm + b ≤ pr.f PROF.HBM_LIMIT * 2 ^ 20) && s.bpmAdmit 2 r b && s.twinsAdmit 2 r l
  let grnOk := pr.on PROF.GRN_EN && s.grnReady && decide (x.grn + b ≤ pr.f PROF.GRN_LIMIT * 2 ^ 20) && s.bpmAdmit 3 r b && s.twinsAdmit 3 r l
  if x.sticky then (if grnOk then some 3 else if hbmOk then some 2 else none)
  else if hbmOk then some 2 else if grnOk then some 3 else none

/-- The packets of a batch take their places in the target tier: a buffer of their requester, or, for a shared buffer, a reference on its one twin there. -/
def placeBatch (t r : Nat) : List Pkt → (List (Pkt × Nat × Option Nat) → Prog) → Prog
  | [], k => k []
  | p :: rest, k => .look fun s =>
    let b := s.bufsAt p.buf
    if b.held ≤ 1 then .andThen (lowerTake t r b.size) (placeBatch t r rest (fun l => k ((p, b.size, none) :: l)))
    else match s.twins.find? (fun w => w.tier == t && w.buf == p.buf && w.tag == b.tag) with
      | some w => .andThen (.put (.twins (s.twins.map (fun y => if y.id == w.id then { y with held := y.held + 1 } else y))))
          (placeBatch t r rest (fun l => k ((p, b.size, some w.id) :: l)))
      | none => seqs [
          lowerTake t b.req b.size,
          freeAccess t 3,
          .put (.segNext (s.segNext + 1)),
          .put (.twins (s.twins ++ [{ id := s.segNext, tier := t, buf := p.buf, tag := b.tag, held := 1, size := b.size, req := b.req, body := p.body }])),
          placeBatch t r rest (fun l => k ((p, b.size, some s.segNext) :: l))]

/-- Whether a lower tier carries `n` bytes more in a direction, given what it carried there: while the device throttles its share is halved (R251, R682), and while a channel of the Granary is
limited to half its share the interleave over all of them is (R387, R390). -/
def State.tierRoom (s : State) (tier : Nat) (l : List (Nat × Nat)) (n : Nat) : Bool :=
  let k := (if tier == 3 && s.readyChannels.any (fun t => s.rd (DDRC_STAT.THROTTLED (t - 4)) == 1) then 2 else 1) * (if s.rd PWR_STAT.THROTTLING == 1 then 2 else 1)
  k == 1 || decide (rateGbps (rateAdd l s.mono n) s.mono ≤ (if tier == 2 then 28000 else s.rd DDRC_SHARE.SHARE_GBPS) / k)

/-- SPILL_BATCH (R266, R267): the front batch of a queue in spill state is written to a lower tier, or the queue is BLOCKED; one write is in flight per queue.  `accs` is where the
segment's block header goes and the accesses of its payloads (R392 to R398). -/
def execSpillBatch (queue : Nat) (accs : Nat × List Nat) (s : State) : Host.Outcome State Fault Refusal :=
  command (.spillBatch queue accs) (whenEnabled 145 <| .look fun s =>
    let x := s.qxAt queue
    let b := s.frontBatch x.tail 0 0
    let n := s.sumBytes b.1
    onlyIf (x.spill && x.writing.isNone && b.2 && !b.1.isEmpty) (
      match s.spillTarget queue n b.1 with
      | none => onlyIf (!x.blocked) (seqs [.put (.qx queue { x with blocked := true }), spillCount BUF_BLOCKED_Q.COUNT true, raise 145 18])
      | some t =>
        let access := Prog.andThen (headerAccess t accs.1) (each accs.2 (memAccess t 0 false))
        onlyIf (s.actsFit access && s.tierRoom t (if t == 2 then s.hbmIn else s.grnIn) n) (seqs [
          onlyIf x.blocked (spillCount BUF_BLOCKED_Q.COUNT false),
          placeBatch t (s.rootPort queue) b.1 (fun l => .put (.qx queue { x with
            blocked := false, sticky := x.sticky || t == 3, writing := some { tier := t, n := b.1.length, seg := l, hdr := accs.1 } })),
          access,
          onlyIf (t == 3) (grnDemandAdd n)]))) s

/-- SPILL_WRITE_ACK (R266): the lower tier acknowledges a queue's write; the batch leaves TAIL and becomes the last segment of MIDDLE. -/
def execSpillWriteAck (queue : Nat) (s : State) : Host.Outcome State Fault Refusal :=
  command (.spillWriteAck queue) (.look fun s =>
    let x := s.qxAt queue
    match x.writing with
    | none => .skip
    | some w =>
      let n := w.seg.foldl (fun a y => a + y.2.1) 0
      seqs [
        .put (.segNext (s.segNext + 1)),
        .put (.qx queue { x with
          tail := x.tail.drop w.n, writing := none, t1 := x.t1 - n, hbm := if w.tier == 2 then x.hbm + n else x.hbm, grn := if w.tier == 3 then x.grn + n else x.grn,
          mid := x.mid ++ [{ tier := w.tier, id := s.segNext, hdr := w.hdr, pkts := w.seg.map (fun y => ({ y.1 with buf := 0 }, y.2)) }] }),
        (if w.tier == 3 then .put (.grnIn (rateAdd s.grnIn s.mono n)) else .put (.hbmIn (rateAdd s.hbmIn s.mono n))),
        each w.seg (fun y => releaseBuffer y.1.buf),
        drain queue]) s

/-! ### Segment reads (R268, R276, R278, R284, R285) -/

/-- The live buffer that the back pointer of a twin names (R276). -/
def State.twinLive (s : State) (w : Option Nat) : Bool := match s.twins.find? (fun v => some v.id == w) with
  | some v => (s.bufsAt v.buf).size != 0 && (s.bufsAt v.buf).tag == v.tag && (s.bufsAt v.buf).held != 0
  | none => false

/-- A packet of a read segment joins HEAD in a tier-1 buffer: a new one, or through its twin the live original, with the bytes that it holds, or a new one that the twin then points
at. -/
def joinHead (q tier : Nat) (y : Pkt × Nat × Option Nat) : Prog := .look fun s =>
  let r := s.rootPort q
  let join (i : Nat) : Prog := .look fun t => let x := t.qxAt q; .put (.qx q { x with head := x.head ++ [{ y.1 with buf := i, body := (t.bufsAt i).body }], t1 := x.t1 + y.2.1 })
  match y.2.2 with
  | none => .andThen (tierRelease tier r y) (landBody y.1.body r (y.2.1 + 4) 1 join)
  | some w =>
    match s.twins.find? (fun v => v.id == w) with
    | none => landBody y.1.body r (y.2.1 + 4) 1 join
    | some v =>
      let b := s.bufsAt v.buf
      if s.twinLive (some w) then
        seqs [.put (.bufs v.buf { b with held := b.held + 1 }), refBody b.body, derefBody y.1.body, tierRelease tier r y, join v.buf]
      else landBody y.1.body v.req (y.2.1 + 4) 1 (fun i => .look fun t => seqs [
        .put (.twins (t.twins.map (fun u => if u.id == w then { u with buf := i, tag := (t.bufsAt i).tag } else u))),
        freeAccess tier 3,
        tierRelease tier r y,
        join i])

/-- A packet of a segment, at its place: discarded with its lost descriptor or block header, or as expired, or joining HEAD; a payload that its live original
makes it needless to read has no error (R276). -/
def readPkt (q tier : Nat) (hdrErr : Bool) (desc payload : List Nat) (i : Nat) (y : Pkt × Nat × Option Nat) : Prog := .look fun s =>
  let r := s.rootPort q
  let gone (reason : Nat) : Prog := .andThen (tierRelease tier r y) (qDiscard q { y.1 with buf := 0 } reason)
  if hdrErr || desc.contains i then gone 0xB7
  else if s.expired q y.1 then gone 0xB6
  else if payload.contains i && !s.twinLive y.2.2 then poisonPkt y.1 (fun p => joinHead q tier (p, y.2))
  else joinHead q tier y

/-- Whether the tier-1 buffers that a read segment still needs pass R258 for their requesters. -/
def State.joinAdmit (s : State) (q : Nat) (g : Seg) : Bool :=
  let r := s.rootPort q
  let need := g.pkts.filter (fun y => !s.twinLive y.2.2 && !s.expired q y.1)
  let req (y : Pkt × Nat × Option Nat) : Nat := match s.twins.find? (fun v => some v.id == y.2.2) with | some v => v.req | none => r
  (need.map req).eraseDups.all (fun k => s.bpmAdmit 1 k ((need.filter (fun y => req y == k)).foldl (fun a y => a + poolSize (poolOf y.2.1)) 0))

/-- The oldest segments of a queue whose reads have completed join HEAD, in MIDDLE order. -/
def joinSegments (q : Nat) : Nat → Prog
  | 0 => .skip
  | f + 1 => .look fun s =>
    let x := s.qxAt q
    match x.mid with
    | [] => .skip
    | g :: rest =>
      onlyIf (g.read && (s.joinAdmit q g)) (seqs [
        .put (.qx q { x with mid := rest, hbm := if g.tier == 2 then x.hbm - g.bytes else x.hbm, grn := if g.tier == 3 then x.grn - g.bytes else x.grn,
                             sticky := x.sticky && !(g.tier == 3 && x.grn - g.bytes == 0) }),
        each ((List.range g.pkts.length).zip g.pkts) (fun y => readPkt q g.tier (bitOf g.errs.1 0) g.errs.2.1 g.errs.2.2 (g.gone + y.1) y.2),
        joinSegments q f])

/-- The copies of a segment's block header that are read: the first, and the second where the first could not be corrected, each uncorrectable one counted at its target (R285,
R395, R409). -/
def headerRead (tier hdr hdrUe : Nat) : Prog := .look fun s =>
  let bad (second : Bool) : Prog := match s.memPlace tier (s.accAddr tier 2 hdr) second with | some x => eccUncorrectable 4 x.1 | none => .skip
  seqs [
    memAccess tier 2 false hdr,
    onlyIf (bitOf hdrUe 0) (.andThen (bad false) (memAccess tier 2 true hdr)),
    onlyIf (bitOf hdrUe 0 && bitOf hdrUe 1) (bad true)]

/-- SEGMENT_READ_DONE (R268, R269, R276, R278, R284, R285, R408, R409): the read of a segment completes, `seg` counting the reads in flight from the oldest; `hdrUe`: which copies of its
block header cannot be corrected (bit 0 the first, bit 1 the second); `desc`, `payload`: places of packets whose descriptor or payload could not be corrected; corrected errors,
uncorrectable reads by target, and the accesses made for the payloads. -/
def execSegmentReadDone (queue seg hdrUe : Nat) (desc payload ce ue accs : List Nat) (s : State) : Host.Outcome State Fault Refusal :=
  command (.segmentReadDone queue seg hdrUe desc payload ce ue accs) (.look fun s =>
    let x := s.qxAt queue
    match (x.mid.filter (fun g => g.reading && !g.read))[seg]? with
    | none => .skip
    | some g =>
      let hdrErr := bitOf hdrUe 0 && bitOf hdrUe 1
      let access := Prog.andThen (headerRead g.tier g.hdr hdrUe) (each accs (memAccess g.tier 1 false))
      onlyIf (s.actsFit access && s.tierRoom g.tier (if g.tier == 2 then s.hbmOut else s.grnOut) g.bytes) (seqs [
        access,
        (if g.tier == 3 then .put (.grnOut (rateAdd s.grnOut s.mono g.bytes)) else .put (.hbmOut (rateAdd s.hbmOut s.mono g.bytes))),
        each ce (eccCorrected 4),
        each ue (fun t => eccUncorrectable 4 (t % 20)),
        onlyIf hdrErr (unitError 145 0x021 2 0),
        onlyIf (!hdrErr && !desc.isEmpty) (unitError 145 0x020 2 0),
        onlyIf (hdrErr || !desc.isEmpty) (raise 145 21),
        .put (.qx queue { x with mid := x.mid.map (fun y => if y.id == g.id then { y with read := true, errs := (b2n hdrErr, desc, payload) } else y) }),
        joinSegments queue x.mid.length,
        drain queue])) s

/-- Segments whose reads wait for tier-1 room (R258) join their HEADs as it comes. -/
def joinTick : Prog := .look fun s =>
  each ((s.qx.filter (fun kv => match kv.2.mid with | g :: _ => g.read | [] => false)).map Prod.fst) fun q => .andThen (joinSegments q (s.qxAt q).mid.length) (drain q)

end Sys2Proof.Machine
end

