-- ==== Sys2Proof/Machine/Host.lean ====
section
/-!
DEFINITION. The host's expansion-bus endpoint (spec/13_host_interface.md R461 to R490): queue pairs, doorbells, TX work, records and completions, interrupts, link power,
timeouts and containment, with the instances' part of spec/14_virtual_instances.md (R495, R497, R502 to R504, R507 to R509).
-/
namespace Sys2Proof.Machine

/-! ### Entries of PCIE (page 0x003) and VIRT (page 0x004) -/

def QP.PASID_EN : EF := ed 0 28 28
def QP.PASID : EF := ed 0 19 0
def QP.TX_BASE : EF := ⟨1, 127, 64⟩
def QP.RX_BASE : EF := ⟨1, 191, 128⟩
def QP.CQ_BASE : EF := ⟨1, 255, 192⟩
def QP.TX_LOG : EF := ed 8 31 28
def QP.RX_LOG : EF := ed 8 27 24
def QP.CQ_LOG : EF := ed 8 23 20
def QP.RX_BUF_LEN : EF := ed 8 15 0
def QP.COAL_US : EF := ed 9 31 16
def QP.COAL_CNT : EF := ed 9 15 0
def QP.TX_HEAD : EF := ed 10 31 16
def QP.RX_HEAD : EF := ed 10 15 0
def QP.CQ_TAIL : EF := ed 11 31 16
def QP.ERR : EF := ed 11 7 0
def QMAP.VALID : EF := ed 0 31 31
def QMAP.SPREAD : EF := ed 0 30 30
def QMAP.QPAIR : EF := ed 0 11 0
def INST.STATE : EF := ed 0 31 29
def INST.TX_MODE : EF := ed 0 28 27
def INST.PASID : EF := ed 0 19 0
def INST.QP_COUNT : EF := ed 1 23 16
def INST.QP_BASE : EF := ed 1 11 0
def INST.VEC_COUNT : EF := ed 2 26 16
def INST.VEC_BASE : EF := ed 2 10 0
def INST.LOOKUP_PORT : EF := ed 3 29 24
def INST.TX_RATE_MBPS : EF := ed 3 19 0
def INST.REFUSED : EF := ed 4 31 0
def INST.GEN : EF := ed 5 31 0

/-- A queue pair's entry and owner; an instance's entry. -/
def State.qp (s : State) (q : Nat) : Entry := s.tab 3 0 q
def State.qpOwner (s : State) (q : Nat) : Nat := (s.qp q).f QP.OWNER
def State.inst (s : State) (i : Nat) : Entry := s.tab 4 0 i

/-- The function whose Requester ID a queue pair's DMA uses (R491). -/
def State.qpFn (s : State) (q : Nat) : Nat := if s.qpOwner q < 64 then s.qpOwner q else 0

/-- The attributes of a queue pair's DMA (R476, R498): RO and NS of its descriptor where its function enables them, and the PASID of its instance. -/
def State.qpDma (s : State) (q : Nat) (ro ns : Bool) : Dma :=
  let f := s.pcieFnAt (s.qpFn q)
  { ro := ro && f.roEn, ns := ns && f.nsEn, pasid := if (s.qp q).on QP.PASID_EN then some ((s.qp q).f QP.PASID) else none }

/-- Ring sizes. -/
def Entry.txSize (e : Entry) : Nat := 2 ^ e.f QP.TX_LOG
def Entry.rxSize (e : Entry) : Nat := 2 ^ e.f QP.RX_LOG
def Entry.cqSize (e : Entry) : Nat := 2 ^ e.f QP.CQ_LOG

/-- The instances that hold resources: entries other than PF0's that are not FREE. -/
def State.instances (s : State) : List Nat := (s.tabIndices 4 0).filter (fun i => i != 0 && (s.inst i).f INST.STATE != 0)

/-- The master code of an instance (R63). -/
def instMaster (tag : Bool) (i : Nat) : Nat := b2n tag * 4096 + i

/-! ### States of a queue pair (R468, R487, R488) -/

/-- A queue pair's state, with the counts of PCIE_DMA_STAT. -/
def setQpState (q st : Nat) : Prog := .look fun s =>
  let old := (s.qp q).f QP.STATE
  seqs [
    setTabF 3 0 q QP.STATE st,
    setF PCIE_DMA_STAT.ENABLED_QPS (s.rd PCIE_DMA_STAT.ENABLED_QPS + b2n (st == 1) - b2n (old == 1)),
    setF PCIE_DMA_STAT.ERROR_QPS (s.rd PCIE_DMA_STAT.ERROR_QPS + b2n (st == 2) - b2n (old == 2))]

/-- A waiting record is discarded with a reason, and counted in its queue pair's drops when `drop` says so. -/
def recordGone (q : Nat) (r : HostRec) (reason : Nat) (drop : Bool) : Prog := .andThen
  (match r.pkt, r.queue with
    | some p, some u => hostDiscard p u reason
    | some p, none => .andThen (tmReason reason) (derefBody p.body)
    | none, _ => tmReason reason)
  (onlyIf drop (.andThen (bumpTabF 3 0 q QP.DROPS 1) (onlyIf (reason == 0xF2 || reason == 0xF3) (count 16 (4 * q + 3) 1))))

/-- Every record that waits for a queue pair is discarded with 0xF0. -/
def hostDrop (q : Nat) : Prog := .look fun s => .andThen (.put (.hostQ q [])) (each (s.hostQAt q) (fun r => recordGone q r 0xF0 true))

/-- Fields of a descriptor (R470). -/
def dsc (d : List Nat) (w hi lo : Nat) : Nat := bits (d.getD w 0) hi lo

/-- The staging bytes reserved for a read of a DIRECT packet go back. -/
def unreserveRead (r : TxRead) : Prog := .look fun s =>
  let n := r.desc.getD 0 0 % 2 ^ 14 + 4
  onlyIf (r.desc.getD 0 0 / 2 ^ 30 == 0) (seqs [
    .put (.stgResv (s.stgResv - n)),
    stgChanged 48,
    onlyIf (dsc r.desc 1 28 19 == s.ownId) (unreserve (s.rootPort (dsc r.desc 1 18 0)) n)])

/-- A queue pair has reached DISABLED: the open entry of the timeouts is cleared once no queue pair keeps its cause, as by the master of the queue pair's owner (R487, R591). -/
def timeoutCleared (q : Nat) : Prog := .look fun s =>
  let o := s.qpOwner q
  match s.openAt 2 0x020 with
  | some i => onlyIf (!s.causePersists 2 0x020 ((s.tab 5 0 i).f OPEN.ADDR_LO)) (releaseClears 2 0 0x020 (instMaster (64 ≤ o) o) none)
  | none => .skip

/-- A queue pair is DISABLED at once: reads end with no completion, its indices are 0; `keep` says whether its rings, sizes and error stay. -/
def qpOff (q : Nat) (keep : Bool) : Prog := .look fun s =>
  let e := s.qp q
  let e' : Entry := if keep then (((e.put QP.EN 0).put QP.TX_HEAD 0).put QP.RX_HEAD 0).put QP.CQ_TAIL 0
    else (({} : Entry).put QP.OWNER (e.f QP.OWNER)).put QP.PASID_EN (e.f QP.PASID_EN) |>.put QP.PASID (e.f QP.PASID)
  seqs [
    each (s.qpxAt q).reads unreserveRead,
    setQpState q 0,
    .put (.qpx q {}),
    .put (.tables (tabKey 3 0 q) (if e' == {} then none else some (e'.put QP.STATE 0))),
    timeoutCleared q]

/-! ### Checks of an entry (tables of page 0x003) -/

/-- Whether a QP entry ends with BAD_ENTRY. -/
def qpBad (e : Entry) : Bool :=
  let log (x : EF) : Bool := decide (6 ≤ e.f x) && decide (e.f x ≤ 15)
  let base (x : EF) : Bool := e.f x % 4096 == 0
  !(log QP.TX_LOG && log QP.RX_LOG && log QP.CQ_LOG && base QP.TX_BASE && base QP.RX_BASE && base QP.CQ_BASE && decide (128 ≤ e.f QP.RX_BUF_LEN) && e.f QP.RX_BUF_LEN % 64 == 0 &&
    decide (e.txSize + e.rxSize ≤ e.cqSize) && (if 1 ≤ e.f QP.OWNER && e.f QP.OWNER < 64 then decide (e.f QP.VECTOR ≤ 63) else e.f QP.VECTOR != 0))

/-- The entry with what a WRITE may always change, and what only the device writes, taken from another. -/
def qpFixed (e : Entry) : Entry :=
  { e with data := (setFieldOf (setFieldOf (setFieldOf e.data 31 29 0) 319 288 0) 415 320 0) }

/-- Whether a WRITE of a QP entry ends with DENIED (R498, and the QP table's rule). -/
def State.qpDenied (s : State) (q : Nat) (e : Entry) : Bool :=
  let old := s.qp q
  let owned := s.instances.any (fun i => decide ((s.inst i).f INST.QP_BASE ≤ q) && decide (q < (s.inst i).f INST.QP_BASE + (s.inst i).f INST.QP_COUNT))
  (old.f QP.STATE != 0 && qpFixed e != qpFixed old) || (e.on QP.EN && !old.on QP.EN && s.contained) ||
    (owned && (e.f QP.OWNER != old.f QP.OWNER || e.f QP.PASID_EN != old.f QP.PASID_EN || e.f QP.PASID != old.f QP.PASID))

/-- A write of a QP entry takes effect: the fields only the device writes stay, EN starts a DISABLED queue pair or begins to drain one (R487). -/
def qpApply (q : Nat) (e : Entry) : Prog := .look fun s =>
  let old := s.qp q
  let st := old.f QP.STATE
  let e' : Entry := { e with data := setFieldOf (setFieldOf e.data 415 320 (fieldOf old.data 415 320)) 30 29 st }
  .andThen (setTab 3 0 q e') (
    if e.on QP.EN && st == 0 then .andThen (setTabF 3 0 q QP.ERR 0) (setQpState q 1)
    else if !e.on QP.EN && (st == 1 || st == 2) then .andThen (setQpState q 3) (hostDrop q)
    else .skip)

/-! ### Refusals of an instance (R502) -/

/-- An access of an instance is refused: counted, captured by VIRT with the instance as master, and shown in BLOCK_INT bit 17. -/
def instRefused (i master access addr kind data : Nat) : Prog := seqs [
  onlyIf (i != 0) (bumpTabF 4 0 i INST.REFUSED 1),
  reportError 4 access 0 addr master 0 kind data,
  raise 4 17]

/-- Who writes a doorbell page, and what becomes of the write (R468, R488, R494, R497, R502, R507): the queue pair reached, with the instance. -/
inductive DbTo where
  /-- The address is not decoded: nothing answers. -/
  | lost
  /-- Discarded and counted in PCIE_DB_DISCARD. -/
  | drop
  /-- A word of the function's MSI-X table: the offset of the page's first word in it. -/
  | table (base : Nat)
  /-- Refused: the instance, its master code and the VIRT kind. -/
  | refuse (i master kind : Nat)
  /-- The queue pair, the instance and its master code. -/
  | to_ (q i master : Nat)
  deriving DecidableEq, Repr

/-- The doorbell page that a write reaches. -/
def State.dbTarget (s : State) (fn : Nat) (tag : Bool) (pasid page : Nat) : DbTo :=
  if s.contained then .drop
  else if fn != 0 then
    let e := s.inst fn
    let f := s.pcieFnAt 0
    if !f.vfEnable || f.numVfs < fn || !(s.pcieFnAt fn).mse || (s.pcieFnAt fn).d3hot || 256 ≤ page then .lost
    else if page == 128 then .table 0
    else if e.f INST.STATE == 0 then .lost
    else if 128 ≤ page then .refuse fn fn 0x021
    else if e.f INST.QP_COUNT ≤ page then .refuse fn fn 0x020
    else if e.f INST.STATE != 1 then .drop
    else .to_ (e.f INST.QP_BASE + page) fn fn
  else if !(s.pcieFnAt 0).mse || (s.pcieFnAt 0).d3hot then .lost
  else if 4096 ≤ page then (if page < 4104 then .table ((page - 4096) * 4096) else .lost)
  else if tag then
    let owner := s.qpOwner page
    match s.instances.find? (fun i => 64 ≤ i && (s.inst i).f INST.PASID == pasid) with
    | none => .refuse 0 (instMaster true 0) 0x020
    | some i =>
      if owner != i then .refuse i (instMaster true i) 0x020
      else if (s.inst i).f INST.STATE != 1 then .drop
      else .to_ page i (instMaster true i)
  else
    let owner := s.qpOwner page
    if owner != 0 && owner < 64 then .drop
    else if !s.instOpen page then .drop
    else .to_ page owner 0

/-- A discarded doorbell write is counted (R468, R488, R507). -/
def dbDrop : Prog := bumpF PCIE_DB_DISCARD.COUNT 1

/-- A write of a word of a function's MSI-X table (R463, R482, R502): the address, the data, or the mask, whose clearing sends a message that waits; past the table's end a VF's write
is refused. -/
def tableWrite (fn o data : Nat) : Prog := .look fun s =>
  let k := fn * 2048 + o / 16
  let v := s.msixAt k
  if (if fn == 0 then 2048 else 64) ≤ o / 16 then onlyIf (fn != 0) (instRefused fn fn 1 (0x80000 + o) 0x021 data)
  else match o % 16 / 4 with
    | 0 => .put (.msix k { v with addr := v.addr / 2 ^ 32 * 2 ^ 32 + data / 4 * 4 })
    | 1 => .put (.msix k { v with addr := v.addr % 2 ^ 32 + data * 2 ^ 32 })
    | 2 => .put (.msix k { v with data := data })
    | _ => .andThen (.put (.msix k { v with masked := data % 2 == 1, pending := v.pending && data % 2 == 1 })) (onlyIf (v.pending && data % 2 == 0) (signalVector fn (o / 16)))

/-- A doorbell write: what it does to the queue pair it reaches, if that is enabled. -/
def doorbell (fn : Nat) (tag : Bool) (pasid page off data : Nat) (k : Nat → Prog) : Prog := .look fun s =>
  match s.dbTarget fn tag pasid page with
  | .lost => .skip
  | .drop => dbDrop
  | .table b => tableWrite fn (b + off) data
  | .refuse i m kind => instRefused i m 1 (page * 4096 + off) kind data
  | .to_ q _ _ => if (s.qp q).on QP.EN then .andThen hostWork (k q) else dbDrop

/-! ### Interrupts of a queue pair (R479, R483) -/

/-- A queue pair signals its vector and is no longer armed. -/
def qpSignal (q : Nat) : Prog := .look fun s =>
  let e := s.qp q
  seqs [
    .put (.qpx q { s.qpxAt q with armed := false, counted := 0, coalAt := none, signalled := s.qpFn q == 0 }),
    signalVector (s.qpFn q) (e.f QP.VECTOR),
    refreshInta]

/-- A counted completion (R479): it signals by count or with COAL_US 0, or starts the timer. -/
def qpCounted (q : Nat) : Prog := .look fun s =>
  let e := s.qp q
  let x := s.qpxAt q
  let n := x.counted + 1
  .andThen (.put (.qpx q { x with counted := n, coalAt := if x.armed then some (x.coalAt.getD s.mono) else none }))
    (onlyIf (x.armed && (decide (max 1 (e.f QP.COAL_CNT) ≤ n) || e.f QP.COAL_US == 0)) (qpSignal q))

/-- The ARM doorbell (R479): a counted completion that the host has not read starts the timer. -/
def qpArm (q : Nat) : Prog := .look fun s =>
  let e := s.qp q
  let x := s.qpxAt q
  let n := e.cqSize
  let waits := match x.lastInt with
    | some k => decide ((k + n - x.cqHead % n) % n < (e.f QP.CQ_TAIL + n - x.cqHead % n) % n)
    | none => false
  seqs [
    .put (.qpx q { x with armed := true, counted := 0, signalled := false, coalAt := if waits then some s.mono else none }),
    refreshInta,
    onlyIf (waits && e.f QP.COAL_US == 0) (qpSignal q)]

/-- DB_TX_TAIL (R468, R469). -/
def execDbTxTail (fn : Nat) (tag : Bool) (pasid page : Nat) (data : Word) (s : State) : Host.Outcome State Fault Refusal :=
  command (.dbTxTail fn tag pasid page data) (doorbell fn tag pasid page 0 data.toNat (fun q => .look fun s =>
    .put (.qpx q { s.qpxAt q with txTail := data.toNat % (s.qp q).txSize }))) s

/-- DB_RX_TAIL (R468, R469). -/
def execDbRxTail (fn : Nat) (tag : Bool) (pasid page : Nat) (data : Word) (s : State) : Host.Outcome State Fault Refusal :=
  command (.dbRxTail fn tag pasid page data) (doorbell fn tag pasid page 4 data.toNat (fun q => .look fun s =>
    .put (.qpx q { s.qpxAt q with rxTail := data.toNat % (s.qp q).rxSize }))) s

/-- DB_ARM (R468, R479): any value. -/
def execDbArm (fn : Nat) (tag : Bool) (pasid page : Nat) (data : Word) (s : State) : Host.Outcome State Fault Refusal :=
  command (.dbArm fn tag pasid page data) (doorbell fn tag pasid page 12 data.toNat qpArm) s

/-- COAL_TIMEOUT (R479): COAL_US after the first counted completion since ARM, an armed queue pair signals. -/
def execCoalTimeout (qp : Nat) (s : State) : Host.Outcome State Fault Refusal :=
  command (.coalTimeout qp) (.look fun s =>
    let x := s.qpxAt qp
    match x.coalAt with
    | some t => onlyIf (x.armed && s.since t ((s.qp qp).f QP.COAL_US * 1000)) (qpSignal qp)
    | none => .skip) s

/-- BLOCK_IRQ_REPEAT (R482): while the summary stays nonzero, another message on vector 0 every 1 ms. -/
def execBlockIrqRepeat (s : State) : Host.Outcome State Fault Refusal :=
  command .blockIrqRepeat (.look fun s =>
    match s.irqSince with
    | some t => onlyIf (s.irqSummary && s.since t 1000000) (.andThen (.put (.irqSince (some s.mono))) (signalVector 0 0))
    | none => .skip) s

/-- MSIX_UNMASK (R482, R502): a function's MSI-X table entry is written with its mask bit clear; a message that waits is sent. -/
def execMsixUnmask (fn vec addr : Nat) (data : Word) (s : State) : Host.Outcome State Fault Refusal :=
  command (.msixUnmask fn vec addr data) (.look fun s =>
    let k := fn * 2048 + vec
    let v := s.msixAt k
    onlyIf ((fn == 0 || vec < 64) && (s.pcieFnAt fn).mse) (seqs [
      .put (.msix k { masked := false, pending := false, addr := addr, data := data.toNat }),
      onlyIf v.pending (signalVector fn vec)])) s

/-! ### The queue-pair control area (R495) -/

/-- The entry that a control-area write asks for; none: the offset holds no writable register. -/
def qpcEntry (e : Entry) (off data : Nat) : Option Entry :=
  let half (x : EF) (hi : Bool) : Entry := e.put x (if hi then e.f x % 2 ^ 32 + data * 2 ^ 32 else e.f x / 2 ^ 32 * 2 ^ 32 + data)
  match off with
  | 0x100 => some ((e.put QP.EN (data / 2 ^ 31)).put QP.VECTOR (data % 2048))
  | 0x104 => some { e with data := setFieldOf e.data 287 256 (data / 2 ^ 20 * 2 ^ 20 + data % 65536) }
  | 0x108 => some ((e.put QP.COAL_US (data / 65536)).put QP.COAL_CNT (data % 65536))
  | 0x110 => some (half QP.TX_BASE false)
  | 0x114 => some (half QP.TX_BASE true)
  | 0x118 => some (half QP.RX_BASE false)
  | 0x11C => some (half QP.RX_BASE true)
  | 0x120 => some (half QP.CQ_BASE false)
  | 0x124 => some (half QP.CQ_BASE true)
  | _ => none

/-- Whether a vector is within an instance's rights (R495). -/
def State.vectorOk (s : State) (i vec : Nat) : Bool :=
  if i == 0 then vec != 0 else if i < 64 then vec < 64
  else decide ((s.inst i).f INST.VEC_BASE ≤ vec) && decide (vec < (s.inst i).f INST.VEC_BASE + (s.inst i).f INST.VEC_COUNT)

/-- QPC_WRITE (R495): a control-area write acts as a WRITE of the queue pair's fields, with the same checks: EN = 1 checks the whole entry, and a denied write is discarded. -/
def execQpcWrite (fn : Nat) (tag : Bool) (pasid page off : Nat) (data : Word) (s : State) : Host.Outcome State Fault Refusal :=
  command (.qpcWrite fn tag pasid page off data) (.look fun s =>
    match s.dbTarget fn tag pasid page with
    | .lost => .skip
    | .drop => dbDrop
    | .table b => tableWrite fn (b + off) data.toNat
    | .refuse i m kind => instRefused i m 1 (page * 4096 + off) kind data.toNat
    | .to_ q i m =>
      let x := s.qpxAt q
      match qpcEntry (s.qp q) off data.toNat with
      | none => .skip
      | some e =>
        if s.qpDenied q e then .andThen (.put (.qpx q { x with refused := true })) (onlyIf (m != 0) (instRefused i m 1 (page * 4096 + off) 0x023 data.toNat))
        else if e.on QP.EN && off == 0x100 && (qpBad e || !s.vectorOk (s.qpOwner q) (e.f QP.VECTOR)) then .put (.qpx q { x with cfgErr := true })
        else journaled (tableRecord m 3 0 2 q (entryAux (some e))) { master := m, page := 3, off := off, value := data.toNat, what := 3 }
          (seqs [.put (.qpx q { x with refused := false, cfgErr := false }), qpApply q e])) s

/-! ### Completions (R476 to R478) -/

/-- Free entries of a completion ring. -/
def State.cqRoom (s : State) (q : Nat) : Nat :=
  let e := s.qp q
  (e.cqSize + (s.qpxAt q).cqHead - e.f QP.CQ_TAIL - 1) % e.cqSize

/-- A completion entry is written (R477), counted towards the interrupt when `int` says so. -/
def cqeWrite (q : Nat) (c : Cqe) : Prog := .look fun s =>
  let e := s.qp q
  let x := s.qpxAt q
  let t := e.f QP.CQ_TAIL
  let words := [b2n x.phase * 2 ^ 31 + c.dir * 2 ^ 30 + c.rec_ * 2 ^ 27 + c.trunc * 2 ^ 26 + c.status * 2 ^ 16 + c.cookie % 65536, c.len % 2 ^ 14, c.idx % 65536, 0]
  seqs [
    emit (.dmaWrite (s.qpFn q) (e.f QP.CQ_BASE + 16 * t) ((words.map (toBytesLE 4)).flatten) (s.qpDma q false false)),
    setTabF 3 0 q QP.CQ_TAIL ((t + 1) % e.cqSize),
    .put (.qpx q { x with phase := x.phase != (t + 1 == e.cqSize), lastInt := if c.int then some t else if x.lastInt == some t then none else x.lastInt }),
    hostWork,
    onlyIf c.int (qpCounted q)]

/-- Whether a completion ring has no room, or completions wait for it (R478). -/
def State.cqFull (s : State) (q : Nat) : Bool := s.cqRoom q == 0 || !(s.qpxAt q).cqes.isEmpty

/-- A completion is written, or waits for room in the ring (R478). -/
def complete (q : Nat) (c : Cqe) : Prog := .look fun s =>
  either (s.cqFull q) (.put (.qpx q { s.qpxAt q with cqes := (s.qpxAt q).cqes ++ [c] })) (cqeWrite q c)

/-- Waiting completions are written, oldest first, while the ring has room. -/
def cqeFlush (q : Nat) : List Cqe → Prog
  | [] => .skip
  | c :: r => .look fun s => onlyIf (s.cqRoom q != 0) (seqs [.put (.qpx q { s.qpxAt q with cqes := r }), cqeWrite q c, cqeFlush q r])

/-- DB_CQ_HEAD (R468, R478): what waits for room in the ring is written. -/
def execDbCqHead (fn : Nat) (tag : Bool) (pasid page : Nat) (data : Word) (s : State) : Host.Outcome State Fault Refusal :=
  command (.dbCqHead fn tag pasid page data) (doorbell fn tag pasid page 8 data.toNat (fun q => .look fun s =>
    .andThen (.put (.qpx q { s.qpxAt q with cqHead := data.toNat % (s.qp q).cqSize })) (cqeFlush q (s.qpxAt q).cqes))) s

/-- A TX completion. -/
def txComplete (q : Nat) (r : TxRead) (status : Nat) : Prog :=
  complete q { status := status, cookie := r.desc.getD 3 0 / 65536, idx := r.idx, int := bitOf (r.desc.getD 0 0) 27 }

/-! ### TX work (R470 to R473, R503, R504) -/

/-- The function to which the timeouts of DMA reads belong: the bound of the range that Completion Timeout Value selects (R485), in ns; none: reads never time out. -/
def State.ctoNs (s : State) : Option Nat :=
  let f := s.pcieFnAt 0
  if f.ctoDis then none
  else some (match f.ctoValue with
    | 1 => 100000 | 2 => 10000000 | 5 => 55000000 | 6 => 210000000 | 9 => 900000000 | 10 => 3500000000 | _ => 50000000)

/-- Whether a queue pair has TX work that may be fetched: enabled, its instance ACTIVE, its function mastering, no descriptor of it waiting, and its completion ring not full (R478). -/
def State.txWork (s : State) (q : Nat) : Bool :=
  let e := s.qp q
  let x := s.qpxAt q
  e.f QP.STATE == 1 && s.instOpen q && s.dmaOn (s.qpFn q) && x.wait.isNone && x.txTail != e.f QP.TX_HEAD && !s.cqFull q

/-- The next queue pair in rotation with TX work (R473). -/
def State.txNext (s : State) : Option Nat :=
  let l := (s.tabIndices 3 0).filter s.txWork
  match l.find? (fun q => decide (s.txRot < q)) with
  | some q => some q
  | none => l.head?

/-- Whether a descriptor is not executed (R470, R472, R503). -/
def State.badDesc (s : State) (d : List Nat) : Bool :=
  let kind := dsc d 0 31 30
  let len := dsc d 0 13 0
  decide (2 ≤ kind) || decide (len < 60) || decide (10236 < len) || dsc d 0 15 14 != 0 || dsc d 1 31 29 != 0 || dsc d 2 31 22 != 0 || dsc d 3 15 0 != 0 ||
    d.getD 6 0 != 0 || d.getD 7 0 != 0 || (kind == 0 && decide (s.rd FAB_SYS_CFG.MAX_DEV < dsc d 1 28 19)) ||
    (kind == 1 && (decide (48 ≤ dsc d 0 21 16) || s.cfg (PORT_MODE.MODE (dsc d 0 21 16)) == 0))

/-- Whether an instance's TX_MODE allows a descriptor (R503). -/
def State.txAllowed (s : State) (i : Nat) (d : List Nat) : Bool :=
  let e := s.inst i
  let kind := dsc d 0 31 30
  i == 0 || (match e.f INST.TX_MODE with
    | 0 => false
    | 1 => kind == 1 && dsc d 0 21 16 == e.f INST.LOOKUP_PORT
    | 2 => kind == 1
    | _ => true)

/-- An instance's transmit meter now: whether it is not negative, and the bucket's use before a charge, in 10^-3 bit below full (R504). -/
def State.txMeter (s : State) (i : Nat) : Bool × Nat :=
  let rate := (s.inst i).f INST.TX_RATE_MBPS
  let x := s.vinstAt i
  let used := x.used - (s.mono - x.usedAt) * rate
  (rate == 0 || decide (used ≤ 10240 * 8000), used)

/-- A fetched descriptor is read from its buffer when its instance's meter, staging (R471, R700), the injection rate and the way to the FE die (R472) allow; else it waits. -/
def txProceed (q : Nat) (r : TxRead) : Prog := .look fun s =>
  let i := s.qpOwner q
  let x := s.qpxAt q
  let d := r.desc
  let n := dsc d 0 13 0
  let direct := dsc d 0 31 30 == 0
  let m := s.txMeter i
  let room := if direct then (s.stgRefuses { kind := 4, lenSrc := 1, frameLen := n + 4 }).isNone && s.fetchRoom (dsc d 1 28 19) (dsc d 1 18 0) (n + 4) else s.linkClear 1 && (match s.lookAt with | some t => s.since t 20 | none => true)
  if m.1 && room then seqs [
    onlyIf (i != 0 && (s.inst i).f INST.TX_RATE_MBPS != 0) (.put (.vinst i { s.vinstAt i with used := m.2 + (n + 24) * 8000, usedAt := s.mono })),
    (if direct then seqs [.put (.stgResv (s.stgResv + n + 4)), stgChanged 48, fetchReserve (dsc d 1 28 19) (dsc d 1 18 0) (n + 4)] else .put (.lookAt (some s.mono))),
    .put (.qpx q { x with wait := none, reads := x.reads ++ [{ r with at_ := s.mono }] }),
    emit (.dmaRead (s.qpFn q) (d.getD 4 0 + d.getD 5 0 * 2 ^ 32) n (s.qpDma q (bitOf (d.getD 0 0) 29) (bitOf (d.getD 0 0) 28))),
    hostWork]
  else .put (.qpx q { x with wait := some r })

/-- TX_DESC_FETCH (R469, R470, R473, R503): the next queue pair in rotation with work fetches one descriptor, whose words are given. -/
def execTxDescFetch (desc : List Word) (s : State) : Host.Outcome State Fault Refusal :=
  command (.txDescFetch desc) (whenEnabled 2 <| .look fun s =>
    match s.txNext with
    | none => .skip
    | some q =>
      let e := s.qp q
      let h := e.f QP.TX_HEAD
      let r : TxRead := { idx := h, desc := desc.map BitVec.toNat }
      let i := s.qpOwner q
      onlyIf (s.rd PCIE_LINK_STAT.IN_L1 == 0) (seqs [
        .put (.txRot q),
        emit (.dmaRead (s.qpFn q) (e.f QP.TX_BASE + 32 * h) 32 (s.qpDma q false false)),
        setTabF 3 0 q QP.TX_HEAD ((h + 1) % e.txSize),
        hostWork,
        (if s.badDesc r.desc then txComplete q r 1
         else if !s.txAllowed i r.desc then .andThen (txComplete q r 1) (instRefused i (instMaster (64 ≤ i) i) 5 (e.f QP.TX_BASE + 32 * h) 0x022 (r.desc.getD 0 0))
         else txProceed q r)])) s

/-- TX_RATE_WAIT (R471, R472, R504): a descriptor that waits is read once the meter, staging and the injection rate allow. -/
def execTxRateWait (qp : Nat) (s : State) : Host.Outcome State Fault Refusal :=
  command (.txRateWait qp) (.look fun s =>
    match (s.qpxAt qp).wait with
    | some r => onlyIf (((s.qp qp).f QP.STATE == 1 || (s.qp qp).f QP.STATE == 3) && s.dmaOn (s.qpFn qp)) (txProceed qp r)
    | none => .skip) s

/-- A DIRECT packet whose bytes have been read enters staging as scheduling port 48 (R471). -/
def hostDirect (d b : List Nat) : Prog := .look fun s =>
  let n := b.length + 4
  let q := dsc d 1 18 0
  .andThen (fetchReserve (dsc d 1 28 19) q n) <| newBody { bytes := b, whole := true, refs := 1 } (fun i => stgCharge
    { body := i, kind := 4, resv := if dsc d 1 28 19 == s.ownId then n else 0, srcDev := s.ownId, srcPort := 48, dev := dsc d 1 28 19, queue := q, dport := s.rootPort q, nh := some (dsc d 2 21 0), tc := dsc d 0 26 24,
      colour := dsc d 0 23 22, lenSrc := 1, frameLen := n, declMax := n, rxNs := s.ns64 } stageQueue)

/-- A LOOKUP packet whose bytes have been read crosses on channel 0 and enters the ingress half that the distributor chooses, as a frame of its SRC_PORT (R17, R20, R472); with no die-to-die
module left it does not arrive (R36). -/
def hostLookup (d b : List Nat) : Prog := .look fun s =>
  let port := dsc d 0 21 16
  let w := b.take 256
  let body : Body := { bytes := b, whole := true, refs := 1, port := port, win := w, winLen := if b.length ≤ 252 then b.length else w.length, winEnds := b.length ≤ 252 }
  let k := s.bucketOf (parse s.prsCfg body.window) port
  let l := s.bucketPipe k
  onlyIf s.dieDownAt.isNone <| seqs [
    crossFlit 1 0 b,
    count 0 (128 * port + 68) 1,
    count 0 (128 * port + 69) (b.length + 4),
    newBody body (fun i => .look fun t =>
      let p : Pkt := {
        body := i, srcPort := port, rxNs := s.ns64, rxFrac := s.frac, at_ := s.mono, declMax := s.cfg (PORT_MAC_CFG.MAX_FRAME port), hash := k }
      .put (.inQ l (t.inQAt l ++ [p]))),
    .put (.bucketLoad k (s.bucketLoadAt k + 1))]

/-- TX_READ_DONE (R473, R477): the oldest buffer read of a queue pair completes with its bytes, or with UR or CA (3) or EP (4). -/
def execTxReadDone (qp status : Nat) (bytes : List Byte) (s : State) : Host.Outcome State Fault Refusal :=
  command (.txReadDone qp status bytes) (.look fun s =>
    let x := s.qpxAt qp
    match x.reads with
    | [] => .skip
    | r :: rest =>
      let b := (bytes.map BitVec.toNat)
      let direct := dsc r.desc 0 31 30 == 0
      onlyIf (s.dmaOn (s.qpFn qp) && ((status == 0 && b.length == dsc r.desc 0 13 0) || status == 3 || status == 4)) (seqs [
        .put (.qpx qp { x with reads := rest }),
        unreserveRead r,
        onlyIf (status == 0) (seqs [count 16 (4 * qp) 1, count 16 (4 * qp + 1) b.length, if direct then hostDirect r.desc b else hostLookup r.desc b]),
        txComplete qp r status])) s

/-! ### Records (R474 to R480) -/

/-- The queue pair that a released packet's queue maps to (R480); none: no valid entry. -/
def State.qmapOf (s : State) (q : Nat) : Option Nat :=
  let e := s.tab 3 1 (q / 8)
  if e.on QMAP.VALID then some ((e.f QMAP.QPAIR + (if e.on QMAP.SPREAD then q % 8 else 0)) % 4096) else none

/-- The host header of a PACKET record (R475); TAIL_ERR is added when the record is written. -/
def State.hostHeader (s : State) (p : Pkt) (queue : Nat) : List Nat :=
  ([ p.reason * 2 ^ 24 + p.srcPort % 64 * 2 ^ 18 + p.srcDev * 2 ^ 8 + p.tc * 2 ^ 5, p.lif * 2 ^ 16 + (s.pktBytes { p with trunc := 0 }).length % 2 ^ 14, p.nh.getD 0, queue,
     p.rxNs % 2 ^ 32, p.rxNs / 2 ^ 32, 0, 0 ].map (toBytesLE 4)).flatten

/-- The bytes of a record, header first; a recorder's is padded to 16 bytes (R457). -/
def State.recBytes (s : State) (r : HostRec) : List Nat :=
  let body := match r.pkt with | some p => s.pktBytes p | none => []
  let bad := match r.pkt with | some p => r.rec_ == 0 && (s.bodiesAt p.body).tail != 0 | none => false
  let all := (match r.head with | h :: t => (if bad then h + 16 else h) :: t | [] => []) ++ body
  if r.rec_ == 3 then all ++ List.replicate ((16 - all.length % 16) % 16) 0 else all

/-- A record is written into the next RX buffer, whose descriptor's words are given, and completed; or it is discarded: the queue pair no longer enabled, its completion ring
full, or no buffer posted (R474, R476 to R478, R480). -/
def recordOut (q : Nat) (desc : List Nat) (r : HostRec) : Prog := .look fun s =>
  let e := s.qp q
  let h := e.f QP.RX_HEAD
  let b := s.recBytes r
  let n := e.f QP.RX_BUF_LEN
  let fn := s.qpFn q
  if e.f QP.STATE != 1 || !s.instOpen q then recordGone q r 0xF0 true
  else if s.cqFull q then recordGone q r 0xF3 true
  else if (s.qpxAt q).rxTail == h then recordGone q r 0xF2 true
  else seqs [
    emit (.dmaRead fn (e.f QP.RX_BASE + 16 * h) 16 (s.qpDma q false false)),
    emit (.dmaWrite fn (desc.getD 0 0 + desc.getD 1 0 * 2 ^ 32) (b.take n) (s.qpDma q (bitOf (desc.getD 2 0) 31) (bitOf (desc.getD 2 0) 30))),
    setTabF 3 0 q QP.RX_HEAD ((h + 1) % e.rxSize),
    count 16 (4 * q + 2) 1,
    complete q { dir := 1, rec_ := r.rec_, trunc := b2n (decide (n < b.length)), cookie := desc.getD 3 0 / 65536, len := b.length, idx := h, int := true },
    (match r.pkt with | some p => derefBody p.body | none => .skip)]

/-- RECORD_WRITE (R474, R475, R458): the oldest record that waits for a queue pair is written once all its bytes are there; else the next record of a readout to it. -/
def execRecordWrite (qp : Nat) (desc : List Word) (s : State) : Host.Outcome State Fault Refusal :=
  command (.recordWrite qp desc) (.look fun s =>
    let d := desc.map BitVec.toNat
    onlyIf (s.rd PCIE_LINK_STAT.IN_L1 == 0 && s.dmaOn (s.qpFn qp)) (
      match s.hostQAt qp with
      | r :: rest => onlyIf (match r.pkt with | some p => s.pktWhole p | none => true) (.andThen (.put (.hostQ qp rest)) (recordOut qp d r))
      | [] =>
        match (List.range 16).find? (fun r => let x := s.recXAt r; x.job == 1 && decide (x.pos < x.upto) && s.rd (SVC_REC.QPAIR r) == qp) with
        | none => .skip
        | some r => recNext r (fun i _ => .andThen (refBody i.pkt.body) (recordOut qp d { rec_ := 3, head := i.head, pkt := some i.pkt })))) s

/-! ### Link power (R484) -/

/-- Whether the endpoint has work (R484): a record or a read outstanding, a doorbell to serve, or a dump, trace or journal record to write. -/
def State.hostBusy (s : State) : Bool :=
  s.hostQ.any (fun kv => !kv.2.isEmpty) || s.qpx.any (fun kv => !kv.2.reads.isEmpty) || s.txNext.isSome || s.snap.isSome || s.jnlReady || s.traceReady

/-- L1_ENTRY (R484): with ASPM L1 enabled and L1_IDLE_US without work, the endpoint enters L1. -/
def execL1Entry (s : State) : Host.Outcome State Fault Refusal :=
  command .l1Entry (.look fun s =>
    onlyIf (s.rd PCIE_LINK_STAT.DL_UP == 1 && s.rd PCIE_LINK_STAT.IN_L1 == 0 && (s.pcieFnAt 0).aspmL1 && !s.hostBusy &&
        s.since s.l1At (max 1 (s.rd PCIE_ASPM_CFG.L1_IDLE_US) * 1000))
      (.andThen (setF PCIE_LINK_STAT.IN_L1 1) (bumpF PCIE_LINK_STAT.L1_ENTRIES 1))) s

/-- L1_EXIT (R484): new work of either side ends L1. -/
def execL1Exit (s : State) : Host.Outcome State Fault Refusal :=
  command .l1Exit (.look fun s => onlyIf (s.rd PCIE_LINK_STAT.IN_L1 == 1) (.andThen (setF PCIE_LINK_STAT.IN_L1 0) hostWork)) s

/-! ### Unanswered requests (R485 to R487) -/

/-- A DMA read of a queue pair has gone unanswered: logged, counted and reported; the queue pair enters ERROR with READ_TIMEOUT. -/
def readTimeout (q : Nat) : Prog := .look fun s =>
  let f := s.pcieFnAt 0
  seqs [
    .put (.pcieFn 0 { f with aer := f.aer ||| 1 }),
    bumpF PCIE_CTO_COUNT.COUNT 1,
    unitError 2 0x020 2 q,
    raise 2 17,
    onlyIf ((s.qp q).f QP.STATE == 1) (seqs [setTabF 3 0 q QP.ERR 2, setQpState q 2, raise 2 18, hostDrop q])]

/-- The oldest buffer read of a queue pair ends without its bytes: READ_TIMEOUT. -/
def endRead (q : Nat) : Prog := .look fun s =>
  let x := s.qpxAt q
  match x.reads with
  | [] => .skip
  | r :: rest => seqs [
      .put (.qpx q { x with reads := rest, late := x.late + 1 }), unreserveRead r, txComplete q r 2, readTimeout q]

/-- Whether a queue pair has a descriptor fetch that may be outstanding (R469, R474): of a TX descriptor, or of the RX descriptor of a record that waits; and of which ring. -/
def State.descFetch (s : State) (q : Nat) : Option Nat :=
  if s.txWork q then some 0
  else if (s.qp q).f QP.STATE == 1 && s.instOpen q && s.dmaOn (s.qpFn q) && !(s.hostQAt q).isEmpty && (s.qpxAt q).rxTail != (s.qp q).f QP.RX_HEAD && !s.cqFull q then some 1
  else none

/-- DMA_READ_TIMEOUT (R485): the oldest buffer read of a queue pair, or its fetch of descriptors, has gone unanswered for the bound that Completion Timeout Value selects. -/
def execDmaReadTimeout (qp : Nat) (descriptors : Bool) (s : State) : Host.Outcome State Fault Refusal :=
  command (.dmaReadTimeout qp descriptors) (.look fun s =>
    let x := s.qpxAt qp
    match s.ctoNs with
    | none => .skip
    | some t =>
      if descriptors then
        match s.descFetch qp with
        | some dir => onlyIf (s.since s.l1At t) (.andThen (.put (.qpx qp { x with late := x.late + 1 })) <| .andThen
            (draw (fun v => complete qp { dir := dir, status := 2, cookie := v % 65536, idx := (s.qp qp).f (if dir == 0 then QP.TX_HEAD else QP.RX_HEAD) })) (readTimeout qp))
        | none => .skip
      else match x.reads with
        | r :: _ => onlyIf (s.since r.at_ t && !s.contained) (endRead qp)
        | [] => .skip) s

/-- LATE_COMPLETION (R486): the completion of a read that has timed out arrives and is discarded. -/
def execLateCompletion (qp : Nat) (s : State) : Host.Outcome State Fault Refusal :=
  command (.lateCompletion qp) (.look fun s =>
    let x := s.qpxAt qp
    let f := s.pcieFnAt 0
    onlyIf (x.late != 0) (.andThen (.put (.qpx qp { x with late := x.late - 1 })) (.put (.pcieFn 0 { f with aer := f.aer ||| 2 })))) s

/-- QP_DRAINED (R487, R591): a DRAINING queue pair with no request outstanding is DISABLED, and its CPL_TIMEOUT is cleared; if EN has been written 1 again it starts afresh. -/
def execQpDrained (qp : Nat) (s : State) : Host.Outcome State Fault Refusal :=
  command (.qpDrained qp) (.look fun s =>
    let x := s.qpxAt qp
    onlyIf ((s.qp qp).f QP.STATE == 3 && x.reads.isEmpty) (seqs [
      .put (.qpx qp { x with wait := none, cqes := [] }),
      setQpState qp 0,
      timeoutCleared qp,
      onlyIf ((s.qp qp).on QP.EN) (.andThen (setTabF 3 0 qp QP.ERR 0) (setQpState qp 1))])) s

/-! ### Resets of functions and containment (R461, R488, R489, R508, R509) -/

/-- Every table window that host instances hold is released (R74). -/
def releaseHostLocks : Prog := each (List.range 258) fun p => .look fun s =>
  onlyIf (hasWindow p && s.rd (TBL_LOCK.OWNER p) < 0x2000 && s.rd (TBL_LOCK.HELD p) == 1) (setReg p (TBL_LOCK.HELD p).off 0)

/-- The queue pairs of an instance. -/
def State.instQps (s : State) (i : Nat) : List Nat := (List.range ((s.inst i).f INST.QP_COUNT)).map (fun k => (s.inst i).f INST.QP_BASE + k)

/-- RESET of an instance (R508): its queue pairs at their reset values, a VF's vectors masked with nothing pending, GEN up. -/
def instReset (i : Nat) : Prog := .look fun s => seqs [
  each (s.instQps i) (fun q => .andThen (hostDrop q) (qpOff q false)),
  onlyIf (i < 64) (each (List.range 64) (fun v => .look fun t => .put (.msix (i * 2048 + v) { t.msixAt (i * 2048 + v) with masked := true, pending := false }))),
  setTabF 4 0 i INST.GEN (((s.inst i).f INST.GEN + 1) % 2 ^ 32)]

/-- A function-level reset of a VF's instance (R509): in one step, whatever state it holds. -/
def vfReset (n : Nat) : Prog := .look fun s => .andThen (.put (.pcieFn n {})) (onlyIf ((s.inst n).f INST.STATE != 0) (instReset n))

/-- The writable configuration of PF0 returns to its reset values, with the VFs that it enabled (R461, R488, R493); AER bits stay but for PERST_N. -/
def pfReset (aer : Bool) : Prog := .look fun s =>
  let f := s.pcieFnAt 0
  seqs [
    .put (.pcieFn 0 { aer := if aer then 0 else f.aer }),
    each (List.range 2048) (fun v => .put (.msix v {})),
    each (if f.vfEnable then (List.range f.numVfs).map (· + 1) else []) vfReset,
    releaseHostLocks]

/-- The endpoint enters containment (R488). -/
def contain (cause : Nat) : Prog := .look fun s =>
  seqs [
    setF PCIE_CONTAIN.CAUSE cause,
    onlyIf (!s.contained) (seqs [
      .put (.inta false),
      setF PCIE_CONTAIN.CONTAINED 1,
      each (s.hostQ.filter (fun kv => !kv.2.isEmpty)) (fun kv => .andThen (.put (.hostQ kv.1 [])) (each kv.2 (fun r =>
        if r.queue.isSome then recordGone kv.1 r 0xF1 false
        else .andThen (bumpF PCIE_CONTAIN_DROP.COUNT 1) (match r.pkt with | some p => derefBody p.body | none => .skip)))),
      each (s.tabIndices 3 0) (fun q => qpOff q true),
      setF JNL_HOST_CFG.EN 0,
      dumpAbort,
      setF TRC_CFG.DMA_EN 0,
      unitError 2 0x021 2 cause,
      raise 2 16]),
    onlyIf (cause == 5) (.put (.bufBad true)),
    onlyIf (cause == 3) (.put (.perstLow true)),
    onlyIf (cause ≤ 3 && s.rd PCIE_LINK_STAT.DL_UP == 1) (.andThen (setReg 2 0x200 (s.reg 2 0x200 &&& 0xFFFF)) (raise 2 19)),
    onlyIf (cause ≤ 3 || cause == 6) (pfReset (cause == 3))]

/-- CONTAINMENT_ENTER (R488): DL_Down, hot reset, PERST_N, a fatal TLP error, an error in the endpoint's buffers, or a function-level reset of PF0. -/
def execContainmentEnter (cause : Nat) (s : State) : Host.Outcome State Fault Refusal :=
  command (.containmentEnter cause) (.look fun s =>
    onlyIf (cause == 3 || cause == 5 || s.rd PCIE_LINK_STAT.DL_UP == 1) (contain cause)) s

/-- Whether the conditions of R489 hold. -/
def State.releasable (s : State) : Bool := s.rd PCIE_LINK_STAT.DL_UP == 1 && (s.pcieFnAt 0).bme && !s.perstLow && !s.bufBad

/-- A write of PCIE_CONTAIN.RELEASE (R489, R591). -/
def containWrite (m data : Nat) : Prog := .look fun s =>
  onlyIf (bitOf data 30 && s.contained) (
    if s.releasable then seqs [setF PCIE_CONTAIN.CONTAINED 0, releaseClears 2 0x208 0x021 m none, .put (.inta false), refreshInta]
    else clearRefused 2 0x208 0x021 ((s.openAt 2 0x021).getD 0) m data)

/-- PERST_RELEASE (R461): PERST_N rises; the endpoint leaves reset. -/
def execPerstRelease (s : State) : Host.Outcome State Fault Refusal :=
  command .perstRelease (.put (.perstLow false)) s

/-- DATA_LINK_UP (R461, R463): the data link is up at a speed and width and the root complex has written PF0's configuration: bits 0 Bus Master Enable, 1 Memory Space
Enable, 2 Interrupt Disable, 3 MSI-X Enable, 4 Relaxed Ordering, 5 No Snoop, 6 Completion Timeout Disable, 7 ASPM L1, 8 D3hot, 15:12 Completion Timeout Value. -/
def execDataLinkUp (speed width : Nat) (conf : Word) (s : State) : Host.Outcome State Fault Refusal :=
  command (.dataLinkUp speed width conf) (.look fun s =>
    let f := s.pcieFnAt 0
    let b (k : Nat) : Bool := bitOf conf.toNat k
    let st := 2 ^ 31 + speed % 8 * 2 ^ 28 + width % 32 * 2 ^ 23 + (s.reg 2 0x200).toNat % 2 ^ 23
    onlyIf (!s.perstLow && s.blkUpAt 1) (seqs [
      showConfig 0,
      .put (.pcieFn 0 { f with bme := b 0, mse := b 1, intDis := b 2, msixEn := b 3, roEn := b 4, nsEn := b 5, ctoDis := b 6, aspmL1 := b 7, d3hot := b 8, ctoValue := conf.toNat / 4096 % 16 }),
      onlyIf (BitVec.ofNat 32 st != s.reg 2 0x200) (.andThen (setReg 2 0x200 (BitVec.ofNat 32 st)) (raise 2 19)),
      hostWork,
      refreshInta])) s

/-- BAR4_WRITE (R466): discarded and captured. -/
def execBar4Write (m addr : Nat) (data : Word) (s : State) : Host.Outcome State Fault Refusal :=
  command (.bar4Write m addr data) (.look fun s =>
    onlyIf (m == 0 && (s.pcieFnAt 0).mse) (.andThen (reportError 2 1 2 addr m 0 0x022 data.toNat) (raise 2 20))) s

end Sys2Proof.Machine
end

