-- ==== Sys2Proof/Machine/Bars.lean ====
section
/-!
DEFINITION. What the host reads beside the register pages: BAR2 and the windows of BAR4 of PF0 (spec/13_host_interface.md R464 to R468), and BAR0 of a VF (spec/14_virtual_instances.md
R494 to R496).  As pages of 64 KiB that a read names, BAR2 takes pages 1024 to 1535, BAR4 pages 2048 to 18431, and a VF's BAR0 pages 0 to 15: DESIGN CHOICE (log entry 85).
-/
namespace Sys2Proof.Machine

/-! ### MSI-X table and pending bits (R463, R464, R494) -/

/-- A word of a function's MSI-X table of `n` vectors at a byte offset: the message address, its data, and the mask bit. -/
def State.msixWord (s : State) (fn n o : Nat) : Nat :=
  let v := s.msixAt (fn * 2048 + o / 16)
  if n ≤ o / 16 then 0 else [v.addr % 2 ^ 32, v.addr / 2 ^ 32, v.data, b2n v.masked][o % 16 / 4]?.getD 0

/-- A word of a function's pending-bit array of `n` vectors at a byte offset. -/
def State.pbaWord (s : State) (fn n o : Nat) : Nat :=
  ((List.range 32).filter (fun b => decide (8 * o + b < n) && (s.msixAt (fn * 2048 + 8 * o + b)).pending)).foldl (fun a b => a + 2 ^ b) 0

/-! ### Doorbell pages (R468, R495) -/

/-- A word of a queue pair's doorbell page: the doorbells' current values and the control area. -/
def State.dbWord (s : State) (q x : Nat) : Nat :=
  let e := s.qp q
  let p := s.qpxAt q
  match x with
  | 0x000 => p.txTail
  | 0x004 => p.rxTail
  | 0x008 => p.cqHead
  | 0x00C => b2n p.armed
  | 0x100 => e.f QP.EN * 2 ^ 31 + e.f QP.STATE * 2 ^ 29 + e.f QP.VECTOR
  | 0x104 => e.f QP.TX_LOG * 2 ^ 28 + e.f QP.RX_LOG * 2 ^ 24 + e.f QP.CQ_LOG * 2 ^ 20 + e.f QP.RX_BUF_LEN
  | 0x108 => e.f QP.COAL_US * 2 ^ 16 + e.f QP.COAL_CNT
  | 0x110 => e.f QP.TX_BASE % 2 ^ 32
  | 0x114 => e.f QP.TX_BASE / 2 ^ 32
  | 0x118 => e.f QP.RX_BASE % 2 ^ 32
  | 0x11C => e.f QP.RX_BASE / 2 ^ 32
  | 0x120 => e.f QP.CQ_BASE % 2 ^ 32
  | 0x124 => e.f QP.CQ_BASE / 2 ^ 32
  | 0x128 => b2n p.cfgErr * 2 ^ 31 + b2n p.refused * 2 ^ 30 + e.f QP.ERR
  | _ => 0

/-- A word of BAR2 of PF0 at an offset (R464). -/
def State.bar2Word (s : State) (o : Nat) : Nat :=
  if o < 0x1000000 then s.dbWord (o / 4096) (o % 4096)
  else if o < 0x1008000 then s.msixWord 0 2048 (o - 0x1000000)
  else if 0x1100000 ≤ o && o < 0x1100100 then s.pbaWord 0 2048 (o - 0x1100000)
  else 0

/-! ### BAR0 of a VF (R494, R496) -/

/-- A word of an instance's information page (R496). -/
def State.infoWord (s : State) (i x : Nat) : Nat :=
  let e := s.inst i
  match x with
  | 0x000 => e.f INST.STATE * 2 ^ 29 + i
  | 0x004 => e.f INST.QP_COUNT
  | 0x008 => e.f INST.TX_MODE * 2 ^ 30 + e.f INST.LOOKUP_PORT * 2 ^ 24 + e.f INST.TX_RATE_MBPS
  | 0x00C => s.rd FAB_DEV_ID.ID
  | 0x010 => e.f INST.GEN
  | _ => 0

/-- A word of VF n's BAR0 at an offset. -/
def State.vfWord (s : State) (n o : Nat) : Nat :=
  let e := s.inst n
  if o < 0x80000 then (if e.f INST.STATE == 0 || e.f INST.QP_COUNT ≤ o / 4096 then 0 else s.dbWord (e.f INST.QP_BASE + o / 4096) (o % 4096))
  else if o < 0x80400 then s.msixWord n 64 (o - 0x80000)
  else if 0x81000 ≤ o && o < 0x81008 then s.pbaWord n 64 (o - 0x81000)
  else if 0x90000 ≤ o && o < 0x91000 then s.infoWord n (o - 0x90000)
  else 0

/-! ### Windows of BAR4 (R465, R466) -/

/-- The bytes of a window's space: 64 banks of the lookup SRAM, tier 1, tiers 2 and 3 as far as they are in service, action memory. -/
def State.spaceBytes (s : State) (sp : Nat) : Nat :=
  match sp with
  | 1 => 64 * 2 ^ 22
  | 2 => 192 * 2 ^ 20
  | 3 => 24 * 2 ^ 30 * (stackTargets.filter (fun t => s.memReady t)).length
  | 4 => s.readyChannels.foldl (fun a t => a + s.chanBytes t) 0
  | 5 => 524288 * 16
  | _ => 0

/-- A read that finds no memory is captured by PCIE page 2 and returns 0. -/
def winMiss (page off a : Nat) : Prog := seqs [reportError 2 0 0 a 0 0 0x023 0, raise 2 20, emit (.readData 0 page off 0 false)]

/-- A read of BAR4 (R465, R466).  The bits of lookup and buffer memories are free values, and so is whether a read of a buffer memory meets an uncorrectable error (log entries 2
and 85); it returns an error completion then, as does a poisoned lookup word. -/
def winRead (page off : Nat) : Prog := .look fun s =>
  let a := (page - 2048) * 65536 + off
  let w := a / 2 ^ 26
  let sp := s.rd (PCIE_WIN_CFG.EN w) * s.rd (PCIE_WIN_CFG.SPACE w)
  let x := s.rd (PCIE_WIN_CFG.BASE w) * 2 ^ 26 + a % 2 ^ 26
  if sp == 0 || 6 ≤ sp then emit (.readData 0 page off 0 false)
  else if s.spaceBytes sp ≤ x then winMiss page off a
  else if sp == 5 then emit (.readData 0 page off ((s.tab 104 0 (x / 16)).f ⟨1, 32 * (x % 16 / 4) + 31, 32 * (x % 16 / 4)⟩) false)
  else if sp == 1 && s.poisonedAt (x / 2 ^ 22 * 2 ^ 19 + x % 2 ^ 22 / 8) then emit (.readData 0 page off 0 true)
  else if (sp == 3 || sp == 4) && (s.memPlace (sp - 1) x false).isNone then winMiss page off a
  else draw (fun v => if sp != 1 && v % 2 == 1 then emit (.readData 0 page off 0 true) else emit (.readData 0 page off (v / 2 % 2 ^ 32) false))

/-! ### Reads -/

/-- A read of one word by PF0 or a VF beside the register pages, while its memory space is enabled, it is not in D3hot and, of a VF, VF Enable and NumVFs name it (R463, R493). -/
def barRead (fn page off : Nat) : Prog := .look fun s =>
  let f := s.pcieFnAt fn
  onlyIf (s.blkUpAt 2 && f.mse && !f.d3hot && (fn == 0 || ((s.pcieFnAt 0).vfEnable && decide (fn ≤ (s.pcieFnAt 0).numVfs)))) (
    if fn != 0 then onlyIf (page < 16) (emit (.readData fn page off (s.vfWord fn (page * 65536 + off)) false))
    else if page < 1536 then emit (.readData 0 page off (s.bar2Word ((page - 1024) * 65536 + off)) false)
    else onlyIf (2048 ≤ page) (winRead page off))

/-- A read of `n` words, in ascending address order (R41). -/
def barReads (fn page : Nat) : Nat → Nat → Prog
  | _, 0 => .skip
  | off, n + 1 => .andThen (barRead fn page off) (barReads fn page (off + 4) n)

end Sys2Proof.Machine
end

