-- ==== Sys2Proof/Machine/Power.lean ====
section
/-!
DEFINITION. Temperatures and the reference clock (spec/21_electrical_and_package.md R675, R676, R680 to R683): the junction sensors, THERM_ALERT_N, throttling, the
thermal shutdown and REFCLK.
-/
namespace Sys2Proof.Machine

/-- A reading as its signed byte (PWR_SENSOR, PWR_STAT). -/
def tempByte (t : Int) : Nat := (Int.emod (max (-128) (min 127 t)) 256).toNat

/-- ALERT_C in force: 60 to 100 (PWR_CFG). -/
def State.alertC (s : State) : Int := (min 100 (max 60 (s.cfg PWR_CFG.ALERT_C)) : Nat)

/-- The highest reading, and the lowest-numbered sensor with it. -/
def hottest (l : List Int) : Nat × Int :=
  l.zipIdx.foldl (fun a x => if a.2 < x.1 then (x.2, x.1) else a) (0, l.headD 0)

/-- The sensors at or above a reading, each with the MONO since which it has been. -/
def sensorsAt (s : State) (temps : List Int) (limit : Int) (before : List (Nat × Nat)) : List (Nat × Nat) :=
  (temps.zipIdx.filter (fun x => limit ≤ x.1)).map (fun x => (x.2, match before.find? (fun y => y.1 == x.2) with | some y => y.2 | none => s.mono))

/-- THERM_ALERT_N (R681): asserted while a sensor reads ALERT_C or more and while the device throttles, released when every sensor is 2 degrees below ALERT_C and it does
not throttle. -/
def alertShow : Prog := .look fun s =>
  let throttles := s.rd PWR_STAT.THROTTLING == 1
  let assert_ := throttles || s.temps.any (fun t => s.alertC ≤ t)
  let release := !throttles && s.temps.all (fun t => t ≤ s.alertC - 2)
  if assert_ && !s.alert then seqs [.put (.alert true), setF PWR_STAT.ALERT 1, emit (.pin "THERM_ALERT_N" false), raise 257 16]
  else onlyIf (release && s.alert) (seqs [.put (.alert false), setF PWR_STAT.ALERT 0, emit (.pin "THERM_ALERT_N" true)])

/-- SENSOR_READ (R680, R681): every 100 us the 88 junction sensors are read. -/
def execSensorRead (temps : List Int) (s : State) : Host.Outcome State Fault Refusal :=
  command (.sensorRead temps) (.look fun s => seqs [
    each temps.zipIdx (fun x => .look fun t =>
      let old := t.rd (PWR_SENSOR.MAX_C x.2)
      let high := max x.1 (if old < 128 then (old : Int) else (old : Int) - 256)
      .andThen (setF (PWR_SENSOR.TEMP_C x.2) (tempByte x.1)) (setF (PWR_SENSOR.MAX_C x.2) (tempByte high))),
    .put (.temps temps),
    setF PWR_STAT.HOTTEST (hottest temps).1,
    setF PWR_STAT.TJ_MAX_C (tempByte (hottest temps).2),
    .put (.hotAt (sensorsAt s temps 100 s.hotAt)),
    .put (.coolAt (if temps.all (fun t => t ≤ 97) then some (s.coolAt.getD s.mono) else none)),
    .put (.shutAt (sensorsAt s temps 115 s.shutAt)),
    alertShow]) s

/-- THROTTLE_ENTER (R682): a sensor has read 100 degrees or more for 1 ms. -/
def execThrottleEnter (s : State) : Host.Outcome State Fault Refusal :=
  command .throttleEnter (.look fun s =>
    onlyIf (s.rd PWR_STAT.THROTTLING == 0 && s.hotAt.any (fun x => s.since x.2 1000000)) (seqs [
      setF PWR_STAT.THROTTLING 1,
      bumpF PWR_THROTTLES.COUNT 1,
      report 257 0x020 3,
      raise 257 3,
      raise 257 17,
      alertShow])) s

/-- THROTTLE_EXIT (R682): every sensor has read 97 degrees or less for 100 ms. -/
def execThrottleExit (s : State) : Host.Outcome State Fault Refusal :=
  command .throttleExit (.look fun s =>
    onlyIf (s.rd PWR_STAT.THROTTLING == 1 && (match s.coolAt with | some t => s.since t 100000000 | none => false))
      (.andThen (setF PWR_STAT.THROTTLING 0) alertShow)) s

/-- THERMAL_SHUTDOWN (R683): a sensor has read 115 degrees or more for 10 us. -/
def execThermalShutdown (s : State) : Host.Outcome State Fault Refusal :=
  command .thermalShutdown (.look fun s =>
    match s.shutAt.find? (fun x => s.since x.2 10000) with
    | some x => goFatal 257 0x021 x.1
    | none => .skip) s

/-- REFCLK_LOSS (R676): REFCLK has been absent for more than 10 us; the transmit synthesisers run from the always-on resonator. -/
def execRefclkLoss (s : State) : Host.Outcome State Fault Refusal :=
  command .refclkLoss (.look fun s =>
    onlyIf s.refclk (seqs [.put (.refclk false), onlyIf (2 ≤ s.rd DEV_STAT.STAGE) (.andThen (setF PWR_STAT.REFCLK_OK 0) (raise 257 18))])) s

/-- REFCLK_RETURN (R676): REFCLK has been present for 1 ms and the synthesisers return to it. -/
def execRefclkReturn (s : State) : Host.Outcome State Fault Refusal :=
  command .refclkReturn (.look fun s =>
    onlyIf (2 ≤ s.rd DEV_STAT.STAGE && s.rd PWR_STAT.REFCLK_OK == 0) (.andThen (.put (.refclk true)) (setF PWR_STAT.REFCLK_OK 1))) s

/-- REFCLK_PRESENT (R521): REFCLK appears, and a start that waits at FUSES may go on. -/
def execRefclkPresent (s : State) : Host.Outcome State Fault Refusal :=
  command .refclkPresent (.look fun s =>
    onlyIf (s.rd DEV_STAT.STAGE ≤ 1) (.andThen (.put (.refclk true)) (onlyIf (s.rd DEV_STAT.STAGE == 1) (setF PWR_STAT.REFCLK_OK 1)))) s

end Sys2Proof.Machine
end

