-- ==== Sys2Proof/Machine/Presence.lean ====
section
/-!
DEFINITION. The presence controller, the seal loop and the backup domain (spec/20_presence_seal_journal.md R639 to R653).
-/
namespace Sys2Proof.Machine

/-- Whether the main core is up (DEV_STAT.MAIN_UP). -/
def State.mainUp (s : State) : Bool := s.rd DEV_STAT.MAIN_UP == 1

/-- RTC seconds. -/
def State.rtcSec (s : State) : Nat := s.rtcNs / 1000000000

/-- An event enters the backup log with its RTC time (R648): with 15 entries in use each further event overwrites entry 15 and sets
LOG_OVERFLOW. -/
def bkpLog (code : Nat) : Prog := .look fun s =>
  let free := (List.range 15).find? (fun i => fieldOf (s.reg 7 (0x1004 + 8 * i)) 31 28 == 0)
  let i := free.getD 15
  let used := fieldOf (s.reg 7 (0x1004 + 8 * i)) 31 28 != 0
  seqs [
    .put (.bkpCopied (s.bkpCopied.filter (fun x => x.1 != i))),
    setReg 7 (0x1000 + 8 * i) (BitVec.ofNat 32 s.rtcSec),
    setReg 7 (0x1004 + 8 * i) (BitVec.ofNat 32 (code * 2 ^ 28 + s.rtcNs % 1000000000 * 4096 / 1000000000 * 2 ^ 16 + s.rtcSec / 2 ^ 32 % 65536)),
    onlyIf (!used) (setF BKP_STAT.LOG_COUNT (s.rd BKP_STAT.LOG_COUNT + 1)),
    onlyIf free.isNone (.andThen (setF BKP_STAT.LOG_OVERFLOW 1) (.put (.bkpOver (s.bkpOver + 1))))]

/-- An event of the backup domain (R648): a record of the presence controller while the main core is up, a backup-log entry otherwise. -/
def bkpEvent (code kind value aux : Nat) : Prog := .look fun s =>
  either s.mainUp (recordEvent kind 0x7000 value aux) (bkpLog code)

/-- WINDOW_S in ns, within 10 s to 600 s. -/
def State.windowNs (s : State) : Nat := min 600 (max 10 (s.rd PPR_CFG.WINDOW_S)) * 1000000000

/-- The presence window closes (R640): by 1 time, 2 command, 3 seal, 4 restart. -/
def closeWindow (why : Nat) : Prog := .look fun s =>
  onlyIf (s.rd PPR_STAT.WINDOW_OPEN == 1) (seqs [
    setF PPR_STAT.WINDOW_OPEN 0,
    setF PPR_STAT.LEFT_S 0,
    .put (.winEnd none),
    recordEvent 6 0x7000 why 0,
    raise 7 16])

/-- PRESENCE_PRESS (R639): a press while MAIN_UP opens the window, with a PRESENCE record, or restarts it; otherwise it is logged. -/
def execPresencePress (s : State) : Host.Outcome State Fault Refusal :=
  command .presencePress (.look fun s =>
    onlyIf (s.rd PPR_STAT.PRESSED == 0) (.andThen (setF PPR_STAT.PRESSED 1) (
      either s.mainUp
        (seqs [
          .put (.winEnd (some (s.mono + s.windowNs))),
          setF PPR_STAT.LEFT_S (s.windowNs / 1000000000),
          onlyIf (s.rd PPR_STAT.WINDOW_OPEN == 0) (seqs [setF PPR_STAT.WINDOW_OPEN 1, recordEvent 6 0x7000 0 0, raise 7 16])])
        (bkpLog 3)))) s

/-- PRESENCE_RELEASE (R639). -/
def execPresenceRelease (s : State) : Host.Outcome State Fault Refusal :=
  command .presenceRelease (setF PPR_STAT.PRESSED 0) s

/-- PRESENCE_WINDOW_EXPIRE (R640): WINDOW_S has elapsed. -/
def execPresenceWindowExpire (s : State) : Host.Outcome State Fault Refusal :=
  command .presenceWindowExpire (.look fun s =>
    match s.winEnd with
    | some e => onlyIf (e ≤ s.mono) (closeWindow 1)
    | none => .skip) s

/-- Why a presence-gated command is refused (R642), as the PPR result codes name it; 0 when it is accepted. -/
def State.gateResult (s : State) (breachAck : Bool) : Nat :=
  if 61440 ≤ s.jnlAwait then 6
  else if s.rd PPR_STAT.WINDOW_OPEN == 0 then 1
  else if s.rd PPR_STAT.BREACH == 1 && !breachAck then 2
  else if s.rd DEV_STAT.PF_WARN == 1 then 5
  else 0

/-- The offset of a page's command register: PPR_CMD, UPD_CMD or RPR_CMD. -/
def cmdOff (page : Nat) : Nat := if page == 8 then 0x200 else if page == 9 then 0x204 else 0x208

/-- A gated command of a page and its record (R642): a refusal for want of persistence room makes no record and is counted; any other outcome makes
a GATED_CMD record that names the command's page, its VALUE holding the operation and the result, 0 when the command is accepted (R655). -/
def gated (page m op arg result : Nat) (p : Prog) : Prog := .look fun s =>
  if 61440 ≤ s.jnlAwait then .andThen (bumpF JNL_PERSIST_REFUSED.reg 1) (raise 6 18)
  else .andThen (recordLater (mkRecord s 7 m page 0 (cmdOff page) (op * 2 ^ 28 + result) arg)) (onlyIf (result == 0) p)

/-- A PPR command ends with a result. -/
def pprDone (result : Nat) : Prog := seqs [
  setF PPR_CMD_STAT.BUSY 0, setF PPR_CMD_STAT.RESULT result, setF PPR_CMD_STAT.DONE 1, raise 7 20]

/-- The record, the fault and the interrupt of a breach (R652): BACKUP_LOST when the domain was lost, BREACH otherwise. -/
def breachFault : Prog := .look fun s =>
  let lost := s.rd BKP_STAT.LOST
  seqs [
    recordEvent 9 0x7000 lost 0,
    report 7 (if lost == 1 then 0x21 else 0x20) 3,
    raise 7 3,
    raise 7 18]

/-- A command written to PPR_CMD (R641, R653). -/
def pprCmd (m op : Nat) : Prog := .look fun s =>
  let sec := s.rd PPR_RTC_SET_LO.SEC + s.rd PPR_RTC_SET_HI.SEC % 65536 * 2 ^ 32
  if op == 0 then pprDone 0
  else if op == 1 then
    let g := s.gateResult true
    let r := if g != 0 then g else if s.rd PPR_STAT.SEAL_OPEN == 1 then 3 else 0
    .andThen (gated 7 m op 0 r (seqs [
      setF PPR_STAT.BREACH 0, setF BKP_STAT.LOST 0, recordEvent 9 0x7000 2 0])) (pprDone r)
  else if op == 2 then
    let g := s.gateResult false
    let r := if g != 0 then g else if s.timeValid then 4 else 0
    .andThen (gated 7 m op (sec % 2 ^ 32) r (.put (.rtcArmed (some (sec, s.rtcSec))))) (pprDone r)
  else if op == 3 then
    let r := s.gateResult false
    .andThen (gated 7 m op 0 r (setF PPR_STAT.JTAG_UNLOCKED 1)) (pprDone r)
  else if op == 4 then .andThen (setF PPR_STAT.JTAG_UNLOCKED 0) (pprDone 0)
  else if op == 5 then .andThen (closeWindow 2) (pprDone 0)
  else pprDone 7

/-- RTC_SET_LOAD (R641): the armed value loads at the next RTC second. -/
def execRtcSetLoad (s : State) : Host.Outcome State Fault Refusal :=
  command .rtcSetLoad (.look fun s =>
    match s.rtcArmed with
    | some v => onlyIf (s.rtcSec != v.2) (.andThen (.put (.rtcNs (v.1 * 1000000000 + (s.rtcNs - (v.2 + 1) * 1000000000)))) (.put (.rtcArmed none)))
    | none => .skip) s

/-- SEAL_TEST (R644, R645): two consecutive failed tests make the seal OPEN, set BREACH and close the window; two passed make it
CLOSED. -/
def execSealTest (pass : Bool) (s : State) : Host.Outcome State Fault Refusal :=
  command (.sealTest pass) (.look fun s =>
    let f := if pass then 0 else min 2 (s.sealFails + 1)
    let k := if pass then min 2 (s.sealPasses + 1) else 0
    seqs [
      .put (.sealFails f),
      .put (.sealPasses k),
      onlyIf (f == 2 && s.rd PPR_STAT.SEAL_OPEN == 0) (seqs [
        setF PPR_STAT.SEAL_OPEN 1,
        closeWindow 3,
        bkpEvent 1 10 0 0,
        raise 7 17,
        onlyIf (s.rd PPR_STAT.BREACH == 0) (.andThen (setF PPR_STAT.BREACH 1) (either s.mainUp breachFault (raise 7 18)))]),
      onlyIf (k == 2 && s.rd PPR_STAT.SEAL_OPEN == 1) (seqs [
        setF PPR_STAT.SEAL_OPEN 0, bkpEvent 2 10 1 0, raise 7 17])]) s

/-- VBAT_MEASURE (R650): CELL_LOW sets below 2.6 V and clears above 2.7 V. -/
def execVbatMeasure (mv : Nat) (s : State) : Host.Outcome State Fault Refusal :=
  command (.vbatMeasure mv) (.look fun s =>
    let low := s.rd BKP_STAT.CELL_LOW
    seqs [
      setF BKP_STAT.VBAT_MV mv,
      onlyIf (mv < 2600 && low == 0) (seqs [setF BKP_STAT.CELL_LOW 1, bkpEvent 4 11 mv 0, raise 7 19]),
      onlyIf (2700 < mv && low == 1) (seqs [
        setF BKP_STAT.CELL_LOW 0, onlyIf s.mainUp (recordEvent 11 0x7000 mv 1)])]) s

/-- BACKUP_DOMAIN_LOST (R651): the backup domain starts from a total loss of VSB33 and VBAT. -/
def execBackupDomainLost (s : State) : Host.Outcome State Fault Refusal :=
  command .backupDomainLost (seqs [
    .put (.rtcNs 0),
    .put (.rtcArmed none),
    .put (.bkpCopied []),
    .put (.bkpOver 0),
    each (List.range 16) (fun i => .andThen (setReg 7 (0x1000 + 8 * i) 0) (setReg 7 (0x1004 + 8 * i) 0)),
    setF BKP_STAT.LOG_COUNT 0,
    setF BKP_STAT.LOG_OVERFLOW 0,
    bkpLog 5,
    setF BKP_STAT.LOST 1,
    .look fun s => .andThen (setF PPR_STAT.BREACH 1) (either s.mainUp breachFault (raise 7 18))]) s

/-- RTC_LOAD (R647): at a whole TAI second that is a multiple of 64, within the RTC's first tick of it, with TIME_VALID, the RTC takes device time with ticks at 0. -/
def execRtcLoad (s : State) : Host.Outcome State Fault Refusal :=
  command .rtcLoad (.look fun s =>
    onlyIf (s.timeValid && s.sec % 64 == 0 && s.rtcLoadedSec != s.sec && decide (s.ns64 % 1000000000 * 32768 < 1000000000))
      (.andThen (.put (.rtcNs (s.sec * 1000000000))) (.put (.rtcLoadedSec s.sec)))) s

/-- Every backup-log entry is copied into a BACKUP_EVENT record, oldest first, with one record of code 0 for an overflow (R649). -/
def bkpCopyLog : Prog := .look fun s => .andThen
  (each (List.range 16) (fun i => .look fun t =>
    let w0 := (t.reg 7 (0x1000 + 8 * i)).toNat
    let w1 := t.reg 7 (0x1004 + 8 * i)
    let aux := fieldOf w1 31 28 * 2 ^ 28 + i * 2 ^ 16 + fieldOf w1 15 0
    onlyIf (fieldOf w1 31 28 != 0) (.andThen
      (recordLater { mkRecord t 8 0x7000 0 0 i w0 aux with persist := true })
      (.put (.bkpCopied (t.bkpCopied.filter (fun x => x.1 != i) ++ [(i, w0 + aux * 2 ^ 32)]))))))
  (onlyIf (s.rd BKP_STAT.LOG_OVERFLOW == 1) (recordEvent 8 0x7000 0 (min 4095 s.bkpOver * 2 ^ 16)))

end Sys2Proof.Machine
end

