-- ==== Sys2Proof/Machine/Store.lean ====
section
/-!
DEFINITION. Firmware images, their update stages, the nonvolatile store and the warm restart of the main core
(spec/19_update_and_store.md, spec/15_start_up.md R536 to R540).
-/
namespace Sys2Proof.Machine

/-! ### CONTROL -/

/-- An image slot of a CONTROL record. -/
def Control.slot (c : Control) (k : Nat) : ImgSlot := if k == 0 then c.slotA else c.slotB

/-- A CONTROL record with one image slot changed. -/
def Control.setSlot (c : Control) (k : Nat) (x : ImgSlot) : Control := if k == 0 then { c with slotA := x } else { c with slotB := x }

/-- The hash that a key slot 1 to 3 holds. -/
def Control.key (c : Control) (k : Nat) : Option (BitVec 384) :=
  if k == 1 then c.key1 else if k == 2 then c.key2 else if k == 3 then c.key3 else none

/-- The CONTROL record as the last waiting write will leave it. -/
def State.ctlNext (s : State) : Control :=
  s.storeQ.foldl (fun a r => match r with | .control c _ _ => c | _ => a) s.ctl

/-- The registers that show CONTROL: slot states, the boot record, MIN_SVN, key slots and snapshot marks (spec/19_update_and_store.md, UPD
registers). -/
def ctlShow (c : Control) : Prog := .look fun s =>
  let slotWord (x : ImgSlot) : Word :=
    BitVec.ofNat 32 (x.st % 8 * 2 ^ 29 + x.tries % 4 * 2 ^ 27 + x.type % 8 * 2 ^ 24 + x.keySlot % 4 * 2 ^ 16 + x.svn % 65536)
  let valid (k : Nat) : Nat := b2n (s.snapSlotAt k).isSome * 8 + b2n (bitOf c.marked k) * 4
  let old (f : Fld) : Nat := s.rd f % 4
  seqs [
    .put (.ctl c),
    setReg 8 0x220 (slotWord c.slotA),
    setReg 8 0x224 (BitVec.ofNat 32 c.slotA.version),
    setReg 8 0x228 (slotWord c.slotB),
    setReg 8 0x22C (BitVec.ofNat 32 c.slotB.version),
    setF UPD_BOOT.BOOT_SLOT c.boot,
    setF UPD_BOOT.FALLBACK c.fallback,
    setF UPD_BOOT.TRIAL (b2n ((c.slot c.boot).st == 4)),
    setF UPD_SEC.MIN_SVN c.minSvn,
    setF UPD_SEC.KEY_VALID (1 + 2 * b2n c.key1.isSome + 4 * b2n c.key2.isSome + 8 * b2n c.key3.isSome),
    setF UPD_SEC.KEY_REVOKED c.revoked,
    setF UPD_SNAP_STAT.SNAP0 (valid 0 + old UPD_SNAP_STAT.SNAP0),
    setF UPD_SNAP_STAT.SNAP1 (valid 1 + old UPD_SNAP_STAT.SNAP1)]

/-- A record joins the writes that wait (R616). -/
def storePush (r : StoreRec) : Prog := .look fun s => .andThen
  (.put (.storeQ (s.storeQ ++ [r])))
  (setF UPD_STORE_STAT.PENDING (s.storeQ.length + 1))

/-! ### Images -/

/-- Bytes [off, off + n) of an image slot. -/
def State.imgBytes (s : State) (slot off n : Nat) : List Nat :=
  let us := (List.range ((off % 4096 + n + 4095) / 4096)).map (fun i => (s.imgUnitAt (slot * 32768 + off / 4096 + i)).map BitVec.toNat)
  (us.flatten.drop (off % 4096)).take n

/-- A little-endian number of `n` bytes at an offset. -/
def leAt (h : List Nat) (off n : Nat) : Nat := ofBytesLE ((h.drop off).take n)

/-- A section entry of an image header: TYPE, OFFSET, LENGTH, IV, tag (R623). -/
structure Section where
  type : Nat
  off : Nat
  len : Nat
  iv : List Nat
  tag : List Nat
  deriving DecidableEq, Repr

/-- The used section entries of a header, in order. -/
def headerSections (h : List Nat) : List Section :=
  ((List.range 4).map (fun i =>
    let b := 128 + 48 * i
    { type := h.getD b 0, off := leAt h (b + 4) 4, len := leAt h (b + 8) 4, iv := (h.drop (b + 16)).take 12, tag := (h.drop (b + 32)).take 16 })).filter
    (fun x => x.type != 0)

/-- Whether the sections of a header are those its TYPE requires, within their limits, in ascending OFFSET without overlap (R623, R624). -/
def sectionsOk (h : List Nat) : Bool :=
  let ss := headerSections h
  let payload := leAt h 12 4
  let limit (t : Nat) : Nat := if t == 1 then 8 * 2 ^ 20 else if t == 2 then 32 * 2 ^ 20 else if t == 3 then 16 * 2 ^ 20 else 98
  let types := ss.map (fun x => x.type)
  let wanted := if h.getD 6 0 == 3 then types == [4] else types.length == 3 && [1, 2, 3].all (fun t => types.contains t)
  let chain := (ss.foldl (fun (a : Bool × Nat) x => (a.1 && a.2 ≤ x.off, x.off + x.len)) (true, 0)).1
  wanted && chain && ss.all (fun x => x.len ≤ limit x.type && x.off + x.len ≤ payload && (x.type != 4 || (x.len == 98 && (x.iv ++ x.tag).all (fun b => b == 0))))

/-- Whether every reserved byte and bit of a header is 0 (R627, reason 2). -/
def headerReservedOk (h : List Nat) : Bool :=
  ((h.drop 72).take 56 ++ (h.drop 417).take 511).all (fun b => b == 0) && leAt h 26 2 < 2 && leAt h 28 4 < 2 &&
  (List.range 4).all (fun i =>
    let e := (h.drop (128 + 48 * i)).take 48
    ((e.drop 1).take 3 ++ (e.drop 12).take 4 ++ (e.drop 28).take 4).all (fun b => b == 0))

/-- The SHA-384 that a key slot must match: slot 0 is the fused root key, whose hash an implementation fixes (R625). -/
def State.slotKeyHash (s : State) (k : Nat) : Option (BitVec 384) :=
  if k == 0 then some Config.rootKeyHash else (s.ctlNext).key k

/-- Whether the KEYREC of a slot's KEY image, once its first byte is received, names slot 0 or a revoked slot (R624, R625, R627). -/
def State.keyrecBad (s : State) (slot : Nat) : Bool :=
  match (headerSections (s.imgBytes slot 0 1024)).find? (fun x => x.type == 4) with
  | some x =>
    match s.imgBytes slot (1024 + x.off) 1 with
    | t :: _ => t == 0 || 3 < t || bitOf s.ctlNext.revoked t
    | [] => false
  | none => false

/-- The early checks on an image header (R627): the reason of the first that fails, 0 when all pass. -/
def State.imageReason (s : State) (slot total : Nat) : Nat :=
  let h := s.imgBytes slot 0 1024
  let k := h.getD 7 0
  let payload := leAt h 12 4
  let c := s.ctlNext
  if leAt h 0 4 != 0x464E554D then 1
  else if leAt h 4 2 != 1 || leAt h 8 4 != 1024 || !headerReservedOk h then 2
  else if !(h.getD 6 0 == 1 || h.getD 6 0 == 2 || h.getD 6 0 == 3) then 3
  else if leAt h 28 4 % 2 == 0 then 4
  else if 134216704 < payload || !((total - 1) * 4096 < 1024 + payload && 1024 + payload ≤ total * 4096) then 5
  else if !sectionsOk h then 6
  else if 3 < k || (s.slotKeyHash k).isNone || bitOf c.revoked k || (h.getD 6 0 == 3 && k != 0) || s.keyrecBad slot then 7
  else if some (Config.sha384 ((h.drop 320).take 97)) != s.slotKeyHash k then 8
  else if !Config.ecdsaVerifies ((h.drop 320).take 97) (h.take 928) ((h.drop 928).take 96) then 9
  else if leAt h 24 2 < c.minSvn then 10
  else if (Config.unwrapKey ((h.drop 32).take 40)).isNone then 11
  else 0

/-- The checks VERIFY makes (R627 reasons 12 and 13, R630; it unwraps the content key again): 0 when all pass. -/
def State.verifyReason (s : State) (slot : Nat) : Nat :=
  let h := s.imgBytes slot 0 1024
  let ss := headerSections h
  let b := s.ctl.boot
  let hb := s.imgBytes b 0 1024
  let tagOf (x : List Nat) (t : Nat) : List Nat := match (headerSections x).find? (fun y => y.type == t) with | some y => y.tag | none => []
  match Config.unwrapKey ((h.drop 32).take 40) with
  | none => 11
  | some key =>
    if !(ss.all (fun x => x.type == 4 || Config.gcmTagOk key x.iv x.tag (s.imgBytes slot (1024 + x.off) x.len))) then 12
    else if h.getD 6 0 == 2 && (leAt h 20 4 != leAt hb 16 4 || tagOf h 1 != tagOf hb 1 || tagOf h 3 != tagOf hb 3) then 13
    else 0

/-- Whether the section of a type in a slot passes its tag check (R634). -/
def State.sectionTagOk (s : State) (slot type : Nat) : Bool :=
  let h := s.imgBytes slot 0 1024
  match Config.unwrapKey ((h.drop 32).take 40), (headerSections h).find? (fun x => x.type == type) with
  | some key, some x => Config.gcmTagOk key x.iv x.tag (s.imgBytes slot (1024 + x.off) x.len)
  | _, _ => false

/-- The tag of a slot's SERVICE section, as a number. -/
def State.serviceTag (s : State) (slot : Nat) : Nat :=
  match (headerSections (s.imgBytes slot 0 1024)).find? (fun x => x.type == 2) with
  | some x => ofBytesBE x.tag
  | none => 0

/-! ### Boot, trial and warm restart -/

/-- The boot ROM chooses the slot to start (R524, R632, R634): a TRIAL slot uses a try or, at 0, is written BAD; a slot whose MAIN section
fails its check is passed over; with no slot left the device is in RECOVERY.  The control record after it and the slot. -/
def bootChoose (s : State) (c : Control) : Nat → Control × Option Nat × Bool
  | 0 => (c, none, false)
  | n + 1 =>
    let b := c.boot
    let x := c.slot b
    let other : Control := { c with boot := c.fallback }
    if x.st == 4 then
      if x.tries == 0 then
        (let r := bootChoose s (other.setSlot b { x with st := 6 }) n
         (r.1, r.2.1, true))
      else if s.sectionTagOk b 1 then (c.setSlot b { x with tries := x.tries - 1 }, some b, false)
      else bootChoose s (c.setSlot b { x with tries := x.tries - 1 }) n
    else if x.st == 5 then
      if s.sectionTagOk b 1 then (c, some b, false) else bootChoose s (({ c with boot := c.fallback }).setSlot b { x with st := 6 }) n
    else (c, none, false)

/-- A download that was under way is treated as none: its slot is EMPTY (R628). -/
def Control.noPartial (c : Control) : Control :=
  let c := if (c.slot 0).st == 1 then c.setSlot 0 {} else c
  if (c.slot 1).st == 1 then c.setSlot 1 {} else c

/-- A CONTROL record that waits to be written, with what the boot ROM has changed since it was made. -/
def Control.rebase (old new c : Control) : Control :=
  { c with
    slotA := if c.slotA == old.slotA then new.slotA else c.slotA, slotB := if c.slotB == old.slotB then new.slotB else c.slotB
    boot := if c.boot == old.boot then new.boot else c.boot, fallback := if c.fallback == old.fallback then new.fallback else c.fallback }

/-- A record of CONTROL or PEG stands: the area it was written to holds the copy in use (R616, R617). -/
def areaSwaps (region : Nat) : Prog := .look fun s => .put (.copyArea region (1 - s.copyAreaAt region))

/-- The boot ROM's part of a start of the main core (R524, R628, R632): CONTROL written, BOOT_SLOT and RECOVERY shown; while a power-fail warning stops the write, no core is started
(R618, R632). -/
def bootRom : Prog := .look fun s =>
  let r := bootChoose s s.ctl.noPartial 8
  if r.1 != s.ctl && s.rd DEV_STAT.PF_WARN == 1 then .put (.bootAt none)
  else seqs [
    onlyIf (r.1 != s.ctl) (seqs [
      eraseArea (1 - s.copyAreaAt 0) 1,
      areaSwaps 0,
      .put (.storeQ (s.storeQ.map (fun x => match x with | .control c bits after => .control (s.ctl.rebase r.1 c) bits after | y => y)))]),
    ctlShow r.1,
    onlyIf r.2.2 (raise 8 19),
    (match r.2.1 with
      | some b => .andThen (setF DEV_STAT.BOOT_SLOT b) (setF DEV_STAT.RECOVERY 0)
      | none => .andThen (setF DEV_STAT.RECOVERY 1) (each [5, 7, 8] (fun p => seqs [.put (.blkUp p true), setF (BLK_CTRL.ENABLE p) 1, setF (BLK_STAT.READY p) 1]))),
    .put (.updSlot none),
    .put (.bootAt (some s.mono))]

/-- Every table window that the main core holds is released (R538, R74). -/
def releaseMainLocks : Prog := each (List.range 258) fun p => .look fun s =>
  onlyIf (hasWindow p && s.rd (TBL_LOCK.OWNER p) == 0x2000 && s.rd (TBL_LOCK.HELD p) == 1) (setReg p (TBL_LOCK.HELD p).off 0)

/-- What the main core asked of the FE die when it restarts (R538): accepted writes stay to execute, its reads stay to return their credits but are answered to nobody, and what waits in
its transmit queue goes. -/
def mainLinkOld : Prog := .look fun s => seqs [
  .put (.dieQ 0 (((s.dieQAt 0).filter (fun r => r.sent.isSome)).map (fun r => { r with stale := r.read }))),
  .put (.dieRead 0 ((s.dieReadAt 0).map (fun r => { r with stale := true }))),
  .put (.jnlHeld (s.jnlHeld.filter (fun h => !(h.what == 4 && h.master == 0x2000))))]

/-- A warm restart of the main core (R536, R538): MAIN_UP clears, UPD and PPR are not up, its windows are released, the presence window
closes, stopped store writes will start again, and the boot ROM chooses the slot; before stage MAIN_BOOT no main core runs. -/
def warmRestart (trigger : Nat) : Prog := .look fun s => onlyIf (3 ≤ s.rd DEV_STAT.STAGE) (seqs [
  setF DEV_STAT.MAIN_UP 0,
  setF DEV_RESET_CAUSE.RESTART trigger,
  bumpF DEV_RESTARTS.TOTAL 1,
  .put (.blkUp 7 false),
  .put (.blkUp 8 false),
  closeWindow 4,
  releaseMainLocks,
  mainLinkOld,
  .put (.storeBusy false),
  .put (.updOp none),
  setF UPD_CMD_STAT.BUSY 0,
  .put (.confirmEnd none),
  bootRom])

/-- The rolling service update towards a slot's SERVICE section starts (R633, R636). -/
def rollStart (slot : Nat) : Prog := .andThen (.put (.roll (some (0, slot)))) (setF UPD_BOOT.ROLLING 1)

/-- The CONFIRM_S of a trial run from now (R633). -/
def trialTime : Prog := .look fun s => .put (.confirmEnd (some (s.mono + max 60 (s.rd UPD_TRIAL_CFG.CONFIRM_S) * 1000000000)))

/-- A trial is reverted (R633): one CONTROL record with the slot BAD and the boot slot the fallback; when it stands, a FULL trial restarts the main core, a SERVICE trial rolls back, and
without a GOOD fallback the restart ends in RECOVERY. -/
def revertTrial : Prog := .look fun s =>
  let c := s.ctlNext
  let b := c.boot
  let x := c.slot b
  let c' := { c with boot := c.fallback }.setSlot b { x with st := 6, tries := 0 }
  onlyIf (x.st == 4) (storePush (.control c' (2 ^ 19) (if x.type == 2 && (c'.slot c'.boot).st == 5 then 2 else 1)))

/-- MAIN_RESTART of DEV_CTRL (R536): from PF0 or JTAG only. -/
def mainRestartWrite (m : Nat) : Prog :=
  if m == 0 || m == 0x6000 then warmRestart 1 else accessError 1 0x208 1 m 0xA 1

/-- WATCHDOG_EXPIRE (R536, R540): while the main core is up, or when it never came up after a restart, the firmware has not checked in for TIMEOUT_MS, below 100 acting as 100; a Contained
fault, and a Degraded one at the third expiry within 600 s. -/
def execWatchdogExpire (s : State) : Host.Outcome State Fault Refusal :=
  command .watchdogExpire (.look fun s =>
    let recent := s.mono :: s.wdogTimes.filter (fun t => !s.since t 600000000001)
    onlyIf (4 ≤ s.rd DEV_STAT.STAGE && s.bootAt.isSome && s.since (s.bootAt.getD 0) (max 100 (s.rd DEV_WDOG.TIMEOUT_MS) * 1000000)) (seqs [
      .put (.wdogTimes recent),
      bumpF DEV_RESTARTS.WDOG 1,
      report 1 0x20 2,
      raise 1 3,
      onlyIf (3 ≤ recent.length) (.andThen (report 1 0x21 3) (raise 1 3)),
      warmRestart 2])) s

/-- MAIN_MEM_UE (R536): an uncorrectable error in main-core memory. -/
def execMainMemUe (s : State) : Host.Outcome State Fault Refusal :=
  command .mainMemUe (.look fun s =>
    onlyIf (s.mainUp) (seqs [report 1 0x22 2, raise 1 3, warmRestart 4])) s

/-- MAIN_UP (R539, R633, R649, R652): the restarted core sets MAIN_UP, UPD and PPR are up, the backup log is copied, a trial's time starts and a
rolling update that is not finished resumes: a working or spare core holds another SERVICE section than the boot slot's (R636). -/
def execMainUp (s : State) : Host.Outcome State Fault Refusal :=
  command .mainUp (.look fun s =>
    onlyIf (s.rd DEV_STAT.MAIN_UP == 0 && 4 ≤ s.rd DEV_STAT.STAGE && s.rd DEV_STAT.RECOVERY == 0 && s.bootAt.isSome) (
      let b := s.ctl.boot
      let trial := (s.ctl.slot b).st == 4
      seqs [
        setF DEV_STAT.MAIN_UP 1,
        .put (.blkUp 7 true),
        .put (.blkUp 8 true),
        raise 1 19,
        bkpCopyLog,
        onlyIf (s.rd PPR_STAT.BREACH == 1) breachFault,
        onlyIf trial trialTime,
        onlyIf (s.rd DEV_STAT.STAGE != 8 && (List.range 9).any (fun u => (s.role clsScore u == 1 || s.role clsScore u == 2) && s.coreTagAt u != s.serviceTag b)) (rollStart b)])) s

/-- CONFIRM_TIMEOUT (R633). -/
def execConfirmTimeout (s : State) : Host.Outcome State Fault Refusal :=
  command .confirmTimeout (.look fun s =>
    match s.confirmEnd with
    | some e => onlyIf (e ≤ s.mono) revertTrial
    | none => .skip) s

/-! ### Store writes -/

/-- The area of the store that a record is written to: the one of its region that holds no copy in use (R616). -/
def State.recordArea (s : State) : StoreRec → Nat
  | .control _ _ _ => 1 - s.copyAreaAt 0
  | .peg _ _ => 3 - s.copyAreaAt 1
  | .snap k _ => 6 + k % 2

/-- The UPD command that waits for the oldest record ends with STORE_FAIL (R620). -/
def updStoreFail : Prog := .look fun s =>
  match s.updOp, s.storeQ.drop 1 with
  | some u, rest => onlyIf (u.waits && !rest.any (fun x => match x with | .peg _ _ => false | _ => true)) (.put (.updOp (some { u with waits := false, result := 7 })))
  | none, _ => .skip

/-- STORE_WRITE (R616, R618, R620, R621; in RECOVERY the boot ROM serves UPD, R637): the oldest waiting record's write starts; `badReads` attempts fail their read-back, and a second
failure abandons the write with STORE_WRITE_FAIL. -/
def execStoreWrite (badReads : Nat) (s : State) : Host.Outcome State Fault Refusal :=
  command (.storeWrite badReads) (.look fun s =>
    match s.storeQ with
    | [] => .skip
    | r :: rest => onlyIf ((s.storeRuns || (s.rd DEV_STAT.RECOVERY == 1 && s.rd DEV_STAT.PF_WARN == 0)) && !s.storeBusy) (seqs [
      (match r with
        | .snap k _ => .andThen (.put (.snapSlot k none)) (setBitF (if k == 0 then UPD_SNAP_STAT.SNAP0 else UPD_SNAP_STAT.SNAP1) 3 false)
        | _ => .skip),
      eraseArea (s.recordArea r) (1 + min 1 badReads),
      either (badReads < 2)
        (.put (.storeBusy true))
        (seqs [
          (match r with
            | .peg _ _ => .put (.pegDue (some (s.pegDue.getD s.mono)))
            | _ => updStoreFail),
          .put (.storeQ rest),
          setF UPD_STORE_STAT.PENDING rest.length,
          report 8 0x21 2,
          raise 8 3,
          raise 8 21])])) s

/-- The UPD command that waits for a record ends when the last record but copies of the peg map has been written; `rest` are those that wait. -/
def updRecordDone (rest : List StoreRec) : Prog := .look fun s =>
  match s.updOp with
  | some u => onlyIf (u.waits && !rest.any (fun x => match x with | .peg _ _ => false | _ => true)) (.put (.updOp (some { u with waits := false })))
  | none => .skip

/-- A UPD command that waits for nothing more ends with its result (R637). -/
def updDone : Prog := .look fun s =>
  match s.updOp with
  | some u => onlyIf (!u.waits) (seqs [
      .put (.updOp none),
      setF UPD_CMD_STAT.BUSY 0,
      setF UPD_CMD_STAT.RESULT u.result,
      setF UPD_CMD_STAT.DONE 1,
      raise 8 16])
  | none => .skip

/-- The whole of an image slot is erased (R629). -/
def eraseSlot (t : Nat) : Prog := .look fun s =>
  .andThen (each (s.imgUnit.filter (fun kv => kv.1 / 32768 == t)) (fun kv => .put (.imgUnit kv.1 []))) (eraseArea (4 + t) 1)

/-- A CONTROL record stands (R616, R617): it is the one in use; with a boot slot no longer under trial no confirmation is awaited; then what the record is followed by: 1 a warm restart,
2 the rolling update, for an image under trial with its confirmation time (R631, R633), 3 and 4 the erase of slot A or B (R629). -/
def controlWritten (c : Control) (bits after : Nat) : Prog := seqs [
  areaSwaps 0,
  ctlShow c,
  onlyIf ((c.slot c.boot).st != 4) (.put (.confirmEnd none)),
  onlyIf (bits != 0) (setIntBits 8 (BitVec.ofNat 32 bits)),
  onlyIf (after == 1 || after == 2) updDone,
  onlyIf (after == 3 || after == 4) (eraseSlot (after - 3)),
  onlyIf (after == 1) (warmRestart 3),
  onlyIf (after == 2) (.andThen (rollStart c.boot) (onlyIf ((c.slot c.boot).st == 4) trialTime))]

/-- STORE_WRITE_DONE (R617): the commit page of the oldest record, or of the journal unit being written, is programmed. -/
def execStoreWriteDone (journal : Bool) (s : State) : Host.Outcome State Fault Refusal :=
  command (.storeWriteDone journal) (.look fun s =>
    if journal then onlyIf s.storeRuns jnlUnitDone
    else match s.storeQ with
      | [] => .skip
      | r :: rest => onlyIf s.storeBusy (seqs [
          .put (.storeQ rest),
          .put (.storeBusy false),
          setF UPD_STORE_STAT.PENDING rest.length,
          updRecordDone rest,
          (match r with
            | .control c bits after => controlWritten c bits after
            | .peg m q => .andThen (areaSwaps 1) (pegWritten m q)
            | .snap k x => seqs [
                .put (.snapSlot k (some x)),
                setBitF (if k == 0 then UPD_SNAP_STAT.SNAP0 else UPD_SNAP_STAT.SNAP1) 3 true,
                setF (if k == 0 then UPD_SNAP_JSEQ_LO.JSEQ 0 else UPD_SNAP_JSEQ_LO.JSEQ 1) (x.jseq % 2 ^ 32),
                setF (if k == 0 then UPD_SNAP_JSEQ_HI.JSEQ 0 else UPD_SNAP_JSEQ_HI.JSEQ 1) (x.jseq / 2 ^ 32)])])) s

/-- PEG_WRITE (R548): changes of the peg map that no write holds are written as a complete new copy with the next sequence number, unless a write of the map is in
progress, the main core is down or power is failing. -/
def execPegWrite (s : State) : Host.Outcome State Fault Refusal :=
  command .pegWrite (.look fun s =>
    let busy := s.storeQ.any (fun x => match x with | .peg _ _ => true | _ => false)
    onlyIf (s.storeRuns && s.pegDue.isSome && !busy)
      (.andThen (.put (.pegDue none)) (storePush (.peg s.pegs ((s.pegStore.2 + 1) % 2 ^ 32))))) s

/-- The slot that download, VERIFY, ACTIVATE and ABORT work on (R629, R637): in RECOVERY the one that BEGIN named, SLOT where none has. -/
def State.updTarget (s : State) (data : Word) : Nat :=
  if s.rd DEV_STAT.RECOVERY == 1 then s.updSlot.getD (fieldOf data 25 25) else 1 - s.ctlNext.boot % 2

end Sys2Proof.Machine
end

