-- ==== Sys2Proof/Machine/Sched.lean ====
section
/-!
DEFINITION. The scheduler (spec/08_queues_and_scheduling.md R302 to R308, R321 to R323; spec/16_repair_and_redundancy.md R542, R571): eligibility, the walk from an L0 node
down to a queue, and the release of its head packet.
-/
namespace Sys2Proof.Machine

/-! ### Engines (R542, R557, R558, R571) -/

/-- Whether the engine that holds a logical number makes selections: an ACTIVE unit without a planned handover under way. -/
def State.engineUp (s : State) (l : Nat) : Bool := match s.holder clsScheng l with | some u => !s.leaving clsScheng u | none => false

/-- The engine that serves the L0 nodes of a logical engine without a unit in the degraded mode: the next working engine after it, modulo 16, that serves only its own
nodes (R571); each taken in the order of the numbers without a unit. -/
def State.engineHosts (s : State) : List (Nat × Nat) :=
  (List.range 16).foldl (fun a l =>
    if (s.holder clsScheng l).isSome then a
    else match ((List.range 15).map (fun i => (l + 1 + i) % 16)).find? (fun k => (s.holder clsScheng k).isSome && !a.any (fun x => x.2 == k)) with
      | some k => a ++ [(l, k)]
      | none => a) []

/-- Whether selections are made for a scheduling port. -/
def State.portServed (s : State) (port : Nat) : Bool :=
  let l := port / 4
  s.engineUp l || (bitOf (s.rd RPR_STAT.DEGRADED) clsScheng && (s.holder clsScheng l).isNone &&
    (match s.engineHosts.find? (fun x => x.1 == l) with | some x => s.engineUp x.2 | none => false))

/-! ### Eligibility (R302, R306) -/

/-- Whether the host DMA path takes a packet from ports 48 and 50 (R306): in containment it discards, else one packet at a time waits for the DMA engine. -/
def State.hostTakes (s : State) : Bool :=
  s.contained || (s.rd PCIE_LINK_STAT.DL_UP == 1 && (s.pcieFnAt 0).bme && !s.hostQ.any (fun kv => kv.2.any (fun r => r.queue.isSome)))

/-- The active egress half with the fewest packets waiting, the lowest numbered of several (R233). -/
def State.leastHalf (s : State) : Option Nat :=
  ((List.range 17).filter (fun u => s.role clsPipe u == 1 && !s.leaving clsPipe u)).foldl
    (fun a u => match a with
      | none => some u
      | some v => if (s.egQAt u).length < (s.egQAt v).length then some u else some v) none

/-- Whether a network port's MAC can accept a packet: the link is up, the way to the FE die is clear, no packet waits at the MAC, fewer than 256 are on their way, and a half has room, which
is channel 0's credit for it (R17; log entry 70). -/
def State.macTakes (s : State) (port : Nat) : Bool :=
  s.rd (PORT_STAT.LINK_UP port) == 1 && s.linkClear 1 && (s.macQAt port).isEmpty && decide ((s.txGiveAt port + 65536 - s.txExpAt port) % 65536 < 256) &&
    (match s.leastHalf with | some u => decide ((s.egQAt u).length < 256) | none => false)

/-- Whether a scheduling port takes the head packet `p` of queue `q` (the service cores and recorders of a disabled SVC take none, R56); copies for the host and the cores leave once their tails have arrived (R240). -/
def State.portTakes (s : State) (port q : Nat) (p : Pkt) : Bool :=
  if port < 48 then true
  else s.pktWhole p && (
    if port == 49 then s.rd (BLK_CTRL.ENABLE 13) == 1 && (s.svcQAt (q % 8)).isEmpty
    else if port == 50 && (s.recorderOf q).isSome then s.rd (BLK_CTRL.ENABLE 13) == 1
    else s.hostTakes)

/-- Whether a port's partner has paused a class (R92). -/
def State.pausedTc (s : State) (port tc : Nat) : Bool := decide (port < 48) && (match s.pauseUntilAt (8 * port + tc) with | some t => decide (s.mono < t) | none => false)

/-- Whether a queue meets the conditions of R302 but for peak limits. -/
def State.queueReady (s : State) (port q : Nat) (x : QX) : Bool :=
  match x.head with
  | [] => false
  | p :: _ => s.rootPort q == port && !x.starve && !x.fitWait && !s.pausedTc port (q % 8) && s.gateOpen port (q % 8) && s.portTakes port q p &&
      (s.path q).all (fun n => n.1 == 4 || (s.sch n.1 n.2).on SCH.EN)

/-- Whether a queue is eligible, with its node and every ancestor (R302). -/
def State.queueEligible (s : State) (port q : Nat) (x : QX) : Bool :=
  s.queueReady port q x && (s.path q).all (fun n => s.peakOk port n.1 n.2)

/-- The eligible queues of a scheduling port. -/
def State.eligible (s : State) (port : Nat) : List Nat := (s.qx.filter (fun kv => s.queueEligible port kv.1 kv.2)).map Prod.fst

/-! ### The walk (R303, R304) -/

/-- The node of a queue's path at a level. -/
def State.nodeAt (s : State) (lvl q : Nat) : Nat := (((s.path q).find? (fun n => n.1 == lvl)).getD (0, 0)).2

/-- The eligible nodes under a scheduling port with their parents, as keys (R302): each queue that is ready, and upward from it while every node's own peak limit permits it. -/
def State.eligNodes (s : State) (port : Nat) : List (Nat × Nat) :=
  ((s.qx.filter (fun kv => s.queueReady port kv.1 kv.2)).map (fun kv =>
    (((s.path kv.1).take 4).takeWhile (fun n => s.peakOk port n.1 n.2)).map (fun n => (nodeKey (n.1 - 1) (s.nodeAt (n.1 - 1) kv.1), nodeKey n.1 n.2)))).flatten

/-- What a selection sees of the nodes under its port (R304): those no longer eligible, and those that have become so, whose tags restart (DESIGN CHOICE, log entry 40). -/
def admitAll (port : Nat) : Prog := .look fun s =>
  let l := s.eligNodes port
  .andThen
    (each (s.shpX.filter (fun kv => kv.2.on && s.nodePort kv.1 == port && !l.any (fun x => x.2 == kv.1))) (fun kv => .put (.shpX kv.1 { kv.2 with on := false })))
    (each l (fun x => admitTag x.1 x.2))

/-- Whether child `a` of a parent is chosen before child `b` (R303): the committed band, then PRIO, then the smaller virtual finish time, then the lower number. -/
def State.childBefore (s : State) (port lvl v a b : Nat) : Bool :=
  let band (n : Nat) : Nat := b2n (!s.committed port lvl n)
  let prio (n : Nat) : Nat := 7 - (s.sch lvl n).f SCH.PRIO
  let tag (n : Nat) : Nat := ((s.shpXAt (nodeKey lvl n)).f + 2 ^ 32 - v % 2 ^ 32) % 2 ^ 32
  let key (n : Nat) : List Nat := [band n, prio n, tag n, n]
  decide (key a < key b)

/-- The best of a parent's children at a level among the paths of the queues that remain. -/
def State.bestChild (s : State) (port lvl v : Nat) (leaves : List Nat) : Option Nat :=
  leaves.foldl (fun a q =>
    let n := s.nodeAt lvl q
    match a with
    | none => some n
    | some m => if s.childBefore port lvl v n m then some n else some m) none

/-- The queue that the walk from the L0 node reaches. -/
def State.walk (s : State) (port : Nat) : List Nat → List Nat → Option Nat
  | [], leaves => leaves.head?
  | lvl :: rest, leaves =>
    match leaves with
    | [] => none
    | q :: _ =>
      match s.bestChild port lvl (s.shpXAt (nodeKey (lvl - 1) (s.nodeAt (lvl - 1) q))).v leaves with
      | none => none
      | some n => s.walk port rest (leaves.filter (fun q => s.nodeAt lvl q == n))

/-! ### The release -/

/-- The children served in the excess band move their tags and their parents' virtual times (R304). -/
def serveTags (port q len : Nat) : Prog := .look fun s =>
  each ((s.path q).reverse.drop 1) fun n =>
    onlyIf (!s.committed port n.1 n.2)
      (serveTag (nodeKey (n.1 - 1) (s.nodeAt (n.1 - 1) q)) (nodeKey n.1 n.2) ((s.sch n.1 n.2).f SCH.WEIGHT) len)

/-- The marking of a packet that an Elastic queue releases (R297), by the queue's bytes at that moment. -/
def ecnMark (q : Nat) (p : Pkt) (k : Pkt → Prog) : Prog := .look fun s =>
  let d := (s.qxAt q).bytes
  if (s.qe q).f QE.CLASS == 2 && (s.qAdm q).on ADM.ECN_EN && p.ecn then
    draw (fun v => if aqmStrikes (s.qAdm q) d v then .andThen (count 8 (7 * q + 4) 1) (k { p with mark := true }) else k p)
  else k p

/-- The released packet crosses on channel 0 (R17, R20) to a network port's egress half, with the next value of its transmit sequence (R233). -/
def toHalf (port : Nat) (p : Pkt) : Prog := .look fun s =>
  match s.leastHalf with
  | none => .skip
  | some u => seqs [
      passFlit 1 0 (s.pktBytes p),
      .put (.txGive port ((s.txGiveAt port + 1) % 65536)),
      .put (.egQ u (s.egQAt u ++ [{ p with dport := port, txSeq := s.txGiveAt port, stamp := s.mono, rel := s.mono }]))]

/-- The copy header of a sampler copy (R248); lengths count the FCS. -/
def State.copyHeader (s : State) (p : Pkt) (h : CopyHdr) : List Nat :=
  let b := s.bodiesAt p.body
  let n := p.head.length + (b.bytes.length - p.skip) + 4
  ([ h.inst * 2 ^ 26 + h.half * 2 ^ 25 + b2n (b.tail != 0) * 2 ^ 24 + b2n (p.trunc != 0 && decide (p.trunc < n)) * 2 ^ 23 + b2n h.dropped * 2 ^ 22 +
       h.reason * 2 ^ 14 + n % 2 ^ 14,
     h.srcPort % 64 * 2 ^ 26 + h.dport % 64 * 2 ^ 20 + h.dev * 2 ^ 10 + h.tc * 2 ^ 7 + h.colour * 2 ^ 5, h.lif * 2 ^ 16 + h.egLif, h.nh, h.seq,
     h.time % 2 ^ 32, h.time / 2 ^ 32, h.rule * 2 ^ 16 ].map (toBytesLE 4)).flatten

/-- The released packet goes to a recorder, to the queue pair that its metadata or its queue names, or is discarded with 0xF0 (R457, R480). -/
def toHost (port q : Nat) (p : Pkt) : Prog := .look fun s =>
  match (if port == 50 then s.recorderOf q else none) with
  | some r => .andThen (markSent p) (recorderTake r p)
  | none =>
    match p.copy, p.qp with
    | some h, qp + 1 => .andThen (markSent p) (hostPush qp { rec_ := 1, head := s.copyHeader p h, pkt := some p, queue := some q })
    | _, _ =>
      match s.qmapOf q with
      | none => hostDiscard p q (if s.contained then 0xF1 else 0xF0)
      | some qp => .andThen (markSent p) (hostPush qp { rec_ := 0, head := s.hostHeader p q, pkt := some p, queue := some q })

/-- A queue's head packet leaves tier 1: its path charged, its tags moved, its buffer released, the packet handed to its port. -/
def releaseRead (port q : Nat) (p : Pkt) : Prog := .look fun s =>
  let n := s.frameLen p ((s.qe q).f QE.MAX_LEN)
  let len := s.qLen q p
  let b := s.bodiesAt p.body
  ecnMark q p (fun p => seqs [
    serveTags port q len,
    chargePath q len,
    onlyIf (!b.whole) (.put (.bodies p.body { b with
      shapes := b.shapes ++ ((s.path q).filter (fun x => !s.paced (nodeKey x.1 x.2))).map (fun x => (nodeKey x.1 x.2, n, p.trunc)) })),
    count 8 (7 * q + 2) 1,
    count 8 (7 * q + 3) len,
    rtxStore q p,
    popHead q p,
    releaseBuffer p.buf,
    (let p := { p with buf := 0 }
     if port < 48 then toHalf port p
     else if port == 49 then .andThen (markSent p) <| .look fun t => .put (.svcQ (q % 8) (t.svcQAt (q % 8) ++ [p]))
     else toHost port q p),
    mcRetry])

/-- A queue's head packet is released (R303 to R308); one whose tier-1 payload cannot be corrected carries tail cause INTERNAL (R284). -/
def release (port q : Nat) (p : Pkt) : Prog := .look fun s =>
  if (s.bodiesAt p.body).whole && Config.tier1Bad p.buf s.mono then poisonPkt p (releaseRead port q) else releaseRead port q p

/-- The head packet of a queue is discarded when it is presented (R237, R323). -/
def headDiscard (q : Nat) (p : Pkt) (reason : Nat) : Prog := .andThen (popHead q p) (qDiscard q p reason)

/-- A selection, made again while the head it reaches is discarded or does not fit, `fuel` times at most. -/
def selectQueue (port : Nat) : Nat → Prog
  | 0 => .skip
  | fuel + 1 => .look fun s =>
    let leaves := s.eligible port
    let again := selectQueue port fuel
    .andThen (admitAll port) (.look fun s =>
      match s.walk port [1, 2, 3, 4] leaves with
      | none => .skip
      | some q =>
        match (s.qxAt q).head with
        | [] => .skip
        | p :: _ =>
          let n := s.frameLen p ((s.qe q).f QE.MAX_LEN)
          let b := s.bodiesAt p.body
          if s.expired q p then .andThen (ageHead q) again
          else if port < 48 && b.whole && b.tail != 0 then
            .andThen (headDiscard q p 0xA1) (.andThen (count 0 (128 * port + 70) 1) again)
          else if s.neverFits port (q % 8) n then .andThen (headDiscard q p 0xC6) again
          else if !s.fits port (q % 8) n then
            .andThen (.put (.qx q { s.qxAt q with fitWait := true })) (.andThen (setF SCH_STAT.FIT_WAIT (s.rd SCH_STAT.FIT_WAIT + 1)) again)
          else release port q p)

/-- SCHED_SELECT (R303, R306): an L0 node that can accept a packet makes a selection. -/
def execSchedSelect (port : Nat) (s : State) : Host.Outcome State Fault Refusal :=
  command (.schedSelect port) (whenEnabled 177 <| .look fun s =>
    onlyIf (s.portServed port && !s.fatalLatch && (48 ≤ port || s.macTakes port))
      (.andThen (selectQueue port ((s.qx.foldl (fun a kv => a + kv.2.head.length + 1) 0) + 1)) (admitAll port))) s

end Sys2Proof.Machine
end

