-- ==== Sys2Proof/Machine/Staging.lean ====
section
/-!
DEFINITION. The end of a received frame and ingress staging (spec/06_pipelines.md R235 to R240; spec/03_ports_and_framing.md R89; spec/07_buffers.md R254, R261, R263, R700):
FRAME_TAIL, STAGING_ADMIT and STAGING_AGE_EXPIRE.
-/
namespace Sys2Proof.Machine

/-! ### The end of a frame (R89, R236, R237) -/

/-- The tail-error cause of a frame at its last byte (R236); 0: none.  `all` holds every byte that arrived, `up` says that the port is still up, `lenBad` that the length check
failed. -/
def tailCause (all : List Nat) (maxLen : Nat) (up storeErr lenBad : Bool) : Nat :=
  if !up then 5
  else if maxLen < all.length then 2
  else if fcsOk all then (if storeErr then 4 else if lenBad then 3 else 0)
  else if all == withStomp (all.take (all.length - 4)) then 6
  else 1

/-- The counters of a received frame (R593). -/
def countReceived (port : Nat) (all : List Nat) : Prog :=
  let n := all.length
  seqs [
    count 0 (128 * port) 1,
    count 0 (128 * port + 1) n,
    count 0 (128 * port + daKind all) 1,
    onlyIf (64 ≤ n) (count 0 (128 * port + 8 + sizeBin n) 1)]

/-- The packets of a body with a bad tail that have not crossed to the TM die leave a queue of the FE die; copies for the host stay (R237, R240). -/
def dropTail (i : Nat) (l : List Pkt) (put_ : List Pkt → Prog) : Prog :=
  let bad (p : Pkt) : Bool := p.body == i && !p.hostCopy
  onlyIf (l.any bad) (.andThen (put_ (l.filter (fun p => !bad p))) (each (l.filter bad) (fun p => .andThen (feReason 0xA1) (derefBody p.body))))

/-- Every packet of a body with a bad tail that has not crossed is discarded with 0xA1 (R237). -/
def dropUncrossed (i : Nat) : Prog := .look fun s => seqs [
  each s.rxFifo (fun kv => dropTail i kv.2 (fun l => .put (.rxFifo kv.1 l))),
  each s.inQ (fun kv => dropTail i kv.2 (fun l => .put (.inQ kv.1 l))),
  each s.recQ (fun kv =>
    onlyIf (kv.2.any (fun x => x.1.body == i)) (.andThen (.put (.recQ kv.1 (kv.2.filter (fun x => x.1.body != i))))
      (each (kv.2.filter (fun x => x.1.body == i)) (fun x => .andThen (feReason 0xA1) (derefBody x.1.body))))),
  each s.upQ (fun kv => dropTail i kv.2 (fun l => .put (.upQ kv.1 l)))]

/-- FRAME_TAIL (R89, R236): the last byte of the frame that a port is receiving has arrived after `rest`; `storeErr` is an uncorrectable error of the packet store. -/
def execFrameTail (port : Nat) (rest : List Byte) (storeErr : Bool) (s : State) : Host.Outcome State Fault Refusal :=
  command (.frameTail port rest storeErr) (.look fun s =>
    match s.rxNowAt port with
    | none => .skip
    | some i =>
      let b := s.bodiesAt i
      let all := b.bytes ++ rest.map BitVec.toNat
      let n := all.length
      let maxLen := s.cfg (PORT_MAC_CFG.MAX_FRAME port)
      let w := windowOf all true
      let q := parse s.prsCfg w
      let lenBad := s.rd PIPE_CT_CFG.LEN_CHECK == 1 && q.f pLenSrc == 2 && q.f pFrameLen != n
      let cause := tailCause all maxLen (s.rd (PORT_STAT.LINK_UP port) == 1 && !s.rxCutAt port) storeErr lenBad
      let begun := !(s.rxFifoAt port).any (fun p => p.body == i) && !b.lost
      let runt := decide (n < 64)
      let macDrop := !begun && (runt || cause == 1 || cause == 6)
      let body := { b with
        bytes := if cause == 2 || cause == 5 then all.take maxLen else all.take (n - 4)
        whole := true, tail := cause, win := w.bytes, winLen := w.flen, winEnds := w.ends }
      let bad := macDrop || runt
      seqs [
        .put (.rxNow port none),
        .put (.rxCut port false),
        countReceived port all,
        onlyIf runt (count 0 (128 * port + 5) 1),
        onlyIf (macDrop && !runt) (count 0 (128 * port + 6) 1),
        onlyIf (!bad && cause != 0) (count 0 (128 * port + 47 + cause) 1),
        onlyIf (!bad && cause == 2) (count 0 (128 * port + 7) 1),
        .put (.bodies i body),
        settleBody i,
        (if bad && !begun then .andThen
           (.put (.rxFifo port ((s.rxFifoAt port).filter (fun p => p.body != i))))
           (each ((s.rxFifoAt port).filter (fun p => p.body == i)) (fun p => derefBody p.body))
         else onlyIf (cause != 0) (dropUncrossed i)),
        cutToBuffer i port,
        bodyEnds i,
        rxLevelChanged port,
        pushBody i]) s

/-! ### Into staging (R235, R261) -/

/-- The oldest packet of a pipeline that may cross: with CT_EN = 0 only one whose tail has arrived, and none before an earlier packet of its port and bucket (R225, R235). -/
def State.readyToCross (s : State) : List Pkt → List (Nat × Nat) → Nat → Option (Nat × Pkt)
  | [], _, _ => none
  | p :: r, held, n =>
    if (s.rd PIPE_CT_CFG.CT_EN == 1 || s.pktWhole p) && !held.contains (p.srcPort, p.hash) then some (n, p)
    else s.readyToCross r ((p.srcPort, p.hash) :: held) (n + 1)

/-- A packet that staging refuses is discarded on the FE die (R261, R301, R700). -/
def stgRefused (p : Pkt) (reason : Nat) : Prog := seqs [
  feReason reason,
  stgDropped p.input reason,
  count 9 (4 * (8 * p.dev + p.tc) + 3) 1,
  .look fun s => refusalReport reason p.queue p.colour true p.dev p.srcPort (s.reqLen p),
  derefBody p.body]

/-- STAGING_ADMIT (R261, R459): sources 0 to 16 are the physical pipelines, whose oldest packet crosses to the TM die on channel 0 (R17, R20) and meets the service unit; sources 17 to 32 are the
recorders, whose replay sends its next packet. -/
def execStagingAdmit (src : Nat) (s : State) : Host.Outcome State Fault Refusal :=
  command (.stagingAdmit src) (
    if 17 ≤ src then replayNext (src - 17)
    else .look fun s =>
      let l := s.upQAt src
      onlyIf (s.linkClear 0) (
        match s.readyToCross l [] 0 with
        | none => .skip
        | some (n, p) => .andThen (.put (.upQ src (l.take n ++ l.drop (n + 1)))) (
            match s.stgRefuses p with
            | some r => stgRefused p r
            | none => .andThen (passFlit 0 0 (s.pktBytes p)) (stgCharge p serviceUnit)))) s

/-! ### Age (R263) -/

/-- Whether a packet has waited AGE_MS in staging; an AGE_MS of 0 acts as 1. -/
def State.stgOld (s : State) (p : Pkt) : Bool := s.since p.stamp (max 1 (s.rd BUF_STG_AGE.AGE_MS) * 1000000)

/-- A packet is discarded in staging by age (R263, R301). -/
def stgAged (p : Pkt) : Prog := .andThen (.andThen (stgDropped p.input 0xB5) (stgDiscard p 0xB5 3)) (.look fun s => refusalReport 0xB5 p.queue p.colour true p.dev p.srcPort (s.reqLen p))

/-- The aged packets of a request: one that holds a grant sends a RELEASE (R355). -/
def ageRequest (d seq : Nat) (x : ReqOut) : Prog := .look fun s =>
  let old := ((List.range x.pkts.length).zip x.pkts).filter (fun y => y.2.2 != reqGone && s.stgOld y.2.1)
  let granted := (old.filter (fun y => y.2.2 == some 0)).foldl (fun a y => a + 2 ^ y.1) 0
  onlyIf (!old.isEmpty) (seqs [
    setReq d seq (old.foldl (fun a y => a.gone y.1) x),
    onlyIf (granted != 0) (releaseMsg d seq granted x),
    each old (fun y => stgAged y.2.1),
    fabricGo d x.queue])

/-- STAGING_AGE_EXPIRE (R263): packets that have waited AGE_MS in staging are discarded with 0xB5, whatever their TC; none in the Fatal safe state (R587). -/
def execStagingAgeExpire (s : State) : Host.Outcome State Fault Refusal :=
  command .stagingAgeExpire (.look fun s =>
    let old := s.stgOld
    onlyIf (!s.fatalLatch) (seqs [
      each s.stg (fun kv => onlyIf (kv.2.any old) (.andThen (.put (.stg kv.1 (kv.2.filter (fun p => !old p)))) (each (kv.2.filter old) stgAged))),
      onlyIf (s.stgMc.any old) (.andThen (.put (.stgMc (s.stgMc.filter (fun p => !old p)))) (each (s.stgMc.filter old) stgAged)),
      onlyIf (s.mergeQ.any (fun y => old y.1)) (.andThen (.put (.mergeQ (s.mergeQ.filter (fun y => !old y.1)))) (each (s.mergeQ.filter (fun y => old y.1)) (fun y => stgAged y.1))),
      onlyIf (s.svcRx.any old) (.andThen (.put (.svcRx (s.svcRx.filter (fun p => !old p)))) (each (s.svcRx.filter old) stgAged)),
      each s.cellOpen (fun kv =>
        let gone := kv.2.filter (fun y => y.2.1 == 0 && old y.1)
        onlyIf (!gone.isEmpty) (.andThen (.put (.cellOpen kv.1 (kv.2.filter (fun y => !(y.2.1 == 0 && old y.1))))) (each gone (fun y => unsend y.1 y.2.2 (stgAged y.1))))),
      each s.reqs (fun kv => match kv.2 with | some x => ageRequest (kv.1 / 65536) (kv.1 % 65536) x | none => .skip)])) s

end Sys2Proof.Machine
end

