-- ==== Sys2Proof/Machine/Repair.lean ====
section
/-!
DEFINITION. Self-repair, spares and fencing (spec/16_repair_and_redundancy.md R541 to R572; spec/19_update_and_store.md R632, R636): declarations, fault takeovers, planned
handovers, self-tests, rotation, the RPR commands and the rolling service update.
-/
namespace Sys2Proof.Machine

/-! ### Roles and places -/

/-- The number that stands for no logical number. -/
def noLogical : Nat := 0x7F

/-- The generation after another (R561). -/
def nextGen (g : Nat) : Nat := if g % 256 == 255 then 1 else g % 256 + 1

/-- What the repair controller keeps of a unit changes. -/
def setUnitX (c u : Nat) (f : UnitX → UnitX) : Prog := .look fun s => .put (.unitX (unitKey c u) (f (s.unitXAt (unitKey c u))))

/-- The recovery of a class in progress (R569). -/
def State.inProgress (s : State) (c : Nat) : Option Recov := (s.recovAt c).find? (fun r => r.running)

/-- Whether a class has a recovery in progress or queued. -/
def State.recovering (s : State) (c : Nat) : Bool := !(s.recovAt c).isEmpty

/-- Whether a class is in a degraded mode. -/
def State.isDegraded (s : State) (c : Nat) : Bool := bitOf (s.rd RPR_STAT.DEGRADED) c

/-- The MONO since which no die-to-die module works (R36). -/
def dieShow : Prog := .look fun s =>
  let up := (List.range 28).any (fun m => s.role clsD2d m == 1)
  onlyIf (up == s.dieDownAt.isSome) (.put (.dieDownAt (if up then none else some s.mono)))

/-- A unit takes a role without a logical number or generation. -/
def setRole (c u role : Nat) : Prog := seqs [
  setUnit c u UNIT.ROLE role, setUnit c u UNIT.LOGICAL noLogical, setUnit c u UNIT.GEN 0, onlyIf (c == clsD2d) dieShow]

/-- The next generation of a logical number is assigned (R561); a UCIe module's is its own. -/
def assignGen (c l : Nat) : Prog := .look fun s => onlyIf (c ≤ 2)
  (seqs [.put (.gens (unitKey c l) (nextGen (s.gensAt (unitKey c l)))), .put (.genEpoch (unitKey c l) (s.mono / 1000 + 1)),
    onlyIf (c == clsPipe) (sideband [2, unitKey c l, nextGen (s.gensAt (unitKey c l))])])

/-- Whether a logical number may take a generation in the present state epoch: at most one each (R553, R566). -/
def State.genFree (s : State) (c l : Nat) : Bool := decide (2 < c) || s.genEpochAt (unitKey c l) != s.mono / 1000 + 1

/-- A unit becomes ACTIVE in a place, with the place's generation; a logical number without a home gets this one (R545, R546, R561); a bank's new place joins the peg map (R547). -/
def takePlace (c u l : Nat) : Prog := .look fun s => seqs [
  setUnit c u UNIT.ROLE 1,
  setUnit c u UNIT.LOGICAL (if c == clsD2d then noLogical else l),
  setUnit c u UNIT.GEN (if c ≤ 2 then s.gensAt (unitKey c l) else if c == clsD2d then nextGen (s.gensAt (unitKey c u)) else 0),
  onlyIf (c == clsD2d) (.put (.gens (unitKey c u) (nextGen (s.gensAt (unitKey c u))))),
  setUnitX c u (fun x => { x with back := none, test := 0 }),
  onlyIf (c ≤ 2 && (s.home c l).isNone) (seqs [setUnit c u UNIT.HOME_VALID 1, setUnit c u UNIT.HOME l,
    pegAdd { kind := 2, cls := c, unit := u, detail := l } (fun g => g.kind == 2 && g.cls == c && g.detail == l)]),
  onlyIf (c == clsLkup || c == clsTcam) (pegAdd { kind := 3, cls := c, unit := u, detail := l } (fun g => g.kind == 3 && g.cls == c && g.detail == l)),
  onlyIf (c == clsD2d) dieShow]

/-- A unit becomes FAILED and its number in the peg map; where it was a home, the unit that stands in becomes the home (R546, R547). -/
def failUnit (c u : Nat) : Prog := .look fun s =>
  let h := s.unit c u UNIT.HOME
  let wasHome := s.unit c u UNIT.HOME_VALID == 1
  seqs [
    setRole c u 5,
    setUnit c u UNIT.HOME_VALID 0,
    rprEvent 7 c u noLogical 0 0,
    pegAdd { kind := 1, cls := c, unit := u } (fun g => g.kind == 1 && g.cls == c && g.unit == u),
    onlyIf wasHome (match s.holder c h with
      | some v => onlyIf (v != u) (seqs [
          setUnit c v UNIT.HOME_VALID 1, setUnit c v UNIT.HOME h,
          pegAdd { kind := 2, cls := c, unit := v, detail := h } (fun g => g.kind == 2 && g.cls == c && g.detail == h)])
      | none => .skip)]

/-- Declarations of a unit within the last 24 h. -/
def State.deadsOf (s : State) (c u : Nat) : List Nat := (s.unitXAt (unitKey c u)).deads.filter (fun t => !s.since t 86400000000000)

/-- Quarantine of a fenced unit begins: its reset, then a pass of its self-test; a unit declared dead three times within 24 h fails without one (R565). -/
def quarantine (c u : Nat) : Prog := .look fun s =>
  if 3 ≤ (s.deadsOf c u).length then failUnit c u else .andThen (setRole c u 3) (setUnitX c u (fun x => { x with test := 1, passed := false }))

/-! ### What a takeover loses and restores (R554, R557) -/

/-- Packets that leave a queue of a pipeline taken over are lost. -/
def losePackets (l : List Pkt) : Prog := .andThen (each l (fun p => derefBody p.body)) (bumpF (RPR_CLASS_STAT.LOST clsPipe) l.length)

/-- The body of a frame that the pipeline had begun to send across is ended with a tail error of cause INTERNAL (R557); what is still to arrive of the frame belongs to no packet. -/
def cutCrossing (l : Nat) : Prog := .look fun s =>
  each (List.range 48) fun port =>
    match s.rxNowAt port with
    | none => .skip
    | some i =>
      let b := s.bodiesAt i
      let waits := (s.rxFifoAt port).any (fun p => p.body == i) || (s.inQAt l).any (fun p => p.body == i)
      onlyIf (!b.lost && !waits && s.bucketPipe (s.bucketOf (parse s.prsCfg b.window) port) == l) (
        newBody { b with refs := 0, lost := true, lenCtrs := [], charges := [], shapes := [], group := none } (fun j => seqs [
          .put (.rxNow port (some j)),
          .put (.bodies i { b with whole := true, tail := 4 }),
          count 0 (128 * port + 51) 1,
          settleBody i,
          bodyEnds i,
          pushBody i]))

/-- What the fencing of a pipeline loses: the packets in its halves and in its recirculation queue. -/
def losePipe (u l : Nat) : Prog := .look fun s => seqs [
  cutCrossing l,
  losePackets ((s.recQAt u).map Prod.fst),
  losePackets (s.upQAt u),
  losePackets (s.egQAt u),
  .put (.recQ u []), .put (.upQ u []), .put (.egQ u [])]

/-- The number of the logical engine that serves a node or queue which a table operation names. -/
def State.opEngine (s : State) (page : Nat) (o : TblOp) : Nat :=
  if page == 176 then (if o.table == 0 then s.rootPort o.index / 4 else 16) else s.nodePort (nodeKey o.table o.index) / 4

/-- Commands on the nodes of an engine that are BUSY end with ABORTED, counted in LOST. -/
def abortEngine (l : Nat) : Prog := each [176, 177, 178] fun page => .look fun s =>
  match s.tblOpAt page with
  | some o => onlyIf (s.opEngine page o == l && o.op != 0 && o.waits && o.result != 0x0B) (.andThen (abortOp page (fun _ => true)) (bumpF (RPR_CLASS_STAT.LOST clsScheng) 1))
  | none => .skip

/-- A service core that runs the trial slot's SERVICE section uses a try of the trial; at 0 the trial reverts (R632). -/
def trialTry (u : Nat) : Prog := .look fun s =>
  let b := s.ctlNext.boot
  let x := s.ctlNext.slot b
  onlyIf (x.st == 4 && s.coreTagAt u == s.serviceTag b)
    (if x.tries == 0 then revertTrial else storePush (.control (s.ctlNext.setSlot b { x with tries := x.tries - 1 }) 0 0))

/-- Every table window that a service core holds is released (R74). -/
def releaseCoreLocks (u : Nat) : Prog := each (List.range 258) fun p => .look fun s =>
  onlyIf (hasWindow p && s.rd (TBL_LOCK.OWNER p) == 0x3000 + u && s.rd (TBL_LOCK.HELD p) == 1) (setReg p (TBL_LOCK.HELD p).off 0)

/-- What the fencing of an ACTIVE unit does in its class (R557). -/
def fenceEffect (c u l : Nat) : Prog :=
  if c == clsPipe then losePipe u l
  else if c == clsScheng then .andThen (abortEngine l) (setMill (nodeKey 5 l) 3 true)
  else if c == clsScore then .andThen (releaseCoreLocks u) (trialTry u)
  else if c == clsTcam then setBitF ASM_BANK_STAT.READY l false
  else if c == clsD2d then replayModule u
  else .skip

/-- Whether a node or queue lies under an engine. -/
def State.underEngine (s : State) (l k : Nat) : Bool := k / 2 ^ 20 < 5 && s.nodePort k / 4 == l

/-- The image that a unit's epoch leaves in its scarf store (R553, R554). -/
def State.epochImage (s : State) (c u l : Nat) : Scarf :=
  if c == clsPipe then { at_ := s.mono, smp := s.smpSel.filter (fun kv => kv.1 / 64 % 17 == u) }
  else {
    at_ := s.mono
    nodes := s.shpX.filter (fun kv => s.underEngine l kv.1)
    meters := (s.qx.filter (fun kv => s.rootPort kv.1 / 4 == l)).map (fun kv => (kv.1, kv.2.used, kv.2.usedAt))
    fits := (s.qx.filter (fun kv => s.rootPort kv.1 / 4 == l && kv.2.fitWait)).map Prod.fst }

/-- A unit brought in after a fault has the state of the last applied epoch, and nothing else (R554). -/
def restoreImage (c u l : Nat) : Prog := .look fun s =>
  let x := s.scarfAt (unitKey c l)
  if c == clsPipe then each (List.range 128) fun i =>
    let inst := i % 64
    let half := i / 64
    let v := x.smp.find? (fun kv => kv.1 % 64 == inst && kv.1 / 64 / 17 == half)
    .put (.smpSel (64 * (17 * half + u) + inst) (match v with | some kv => kv.2 | none => 0))
  else if c == clsScheng then seqs [
    each (s.shpX.filter (fun kv => s.underEngine l kv.1)) (fun kv => .put (.shpX kv.1 (match x.nodes.find? (fun y => y.1 == kv.1) with | some y => y.2 | none => {}))),
    each (s.qx.filter (fun kv => s.rootPort kv.1 / 4 == l)) (fun kv =>
      let m := (x.meters.find? (fun y => y.1 == kv.1)).getD (kv.1, 0, 0)
      .put (.qx kv.1 { kv.2 with used := m.2.1, usedAt := m.2.2, fitWait := x.fits.contains kv.1 })),
    .look fun t => setF SCH_STAT.FIT_WAIT (t.qx.filter (fun kv => kv.2.fitWait)).length]
  else .skip

/-- The sampler state of a pipeline goes to the unit that takes its place in a planned handover: the final epoch is exact (R558). -/
def copySamplers (old new : Nat) : Prog := .look fun s => each (List.range 128) fun i =>
  .put (.smpSel (64 * (17 * (i / 64) + new) + i % 64) (s.smpSelAt (64 * (17 * (i / 64) + old) + i % 64)))

/-! ### Buckets of a pipeline without a unit (R228, R570) -/

/-- The buckets of a logical number and its held packets go to the pipelines that remain; the buckets are kept to return. -/
def spreadHeld (l : Nat) (k : List Nat → Prog) : Prog := .look fun s =>
  let bs := (List.range 256).filter (fun b => s.bucketPipe b == l)
  let others := (List.range 16).any (fun x => x != l && (s.holder clsPipe x).isSome)
  if others then seqs [
    spreadBuckets l,
    .put (.inQ l []),
    each (s.inQAt l) (fun p => .look fun t => let d := t.bucketPipe p.hash; .put (.inQ d (t.inQAt d ++ [p]))),
    k bs]
  else k []

/-! ### The order of recoveries (R568 to R572) -/

/-- The recoveries of a class. -/
def setRecov (c : Nat) (l : List Recov) : Prog := .put (.recov c l)

/-- The first recovery of a class for a logical number changes. -/
def changeRecov (c : Nat) (p : Recov → Bool) (f : Recov → Recov) : Prog := .look fun s =>
  let l := s.recovAt c
  let i := l.findIdx p
  setRecov c (l.take i ++ ((l.drop i).take 1).map f ++ l.drop (i + 1))

/-- A qualified spare, the lowest numbered; else a unit under rotation's test that had passed before (R568, R570). -/
def State.spareOf (s : State) (c : Nat) : Option Nat :=
  match s.spares c with
  | u :: _ => some u
  | [] => (List.range (classUnits c)).find? (fun u => s.role c u == 3 && (s.unitXAt (unitKey c u)).test == 2 && (s.unitXAt (unitKey c u)).passed)

/-- The unit that a fault recovery brings in: the home if it is a qualified spare, else any qualified spare (R568). -/
def State.bringIn (s : State) (c l : Nat) : Option Nat :=
  match s.home c l with
  | some h => if s.qualified c h then some h else s.spareOf c
  | none => s.spareOf c

/-- RPR_CMD ends with a result. -/
def rprDone (result : Nat) : Prog := seqs [setF RPR_CMD_STAT.BUSY 0, setF RPR_CMD_STAT.DONE 1, setF RPR_CMD_STAT.RESULT result]

/-- A recovery leaves its class's list. -/
def dropRecov (c : Nat) (r : Recov) : Prog := .look fun s => setRecov c ((s.recovAt c).filter (fun x => x != r))

/-- A recovery begins with the unit brought in; a test that it was in is aborted (R570), a TCAM bank's load starts (R160). -/
def beginRecov (c u : Nat) (r : Recov) : Prog := .look fun s => seqs [
  onlyIf (s.role c u == 3) (.andThen (.andThen (setUnit c u UNIT.LAST_RESULT 3) (setUnit c u UNIT.TIME s.ns64)) (setRole c u 2)),
  changeRecov c (fun x => x == r) (fun x => { x with new := some u, running := true }),
  onlyIf (c == clsTcam) (bankTakeover r.logical)]

/-- A class enters its degraded mode for a recovery that finds no spare (R228, R571, R572); the unit that was fenced goes into quarantine. -/
def enterDegraded (c : Nat) (r : Recov) : Prog := .look fun s => seqs [
  changeRecov c (fun x => x == r) (fun x => { x with degraded := true }),
  onlyIf (!s.isDegraded c) (.andThen (setBitF RPR_STAT.DEGRADED c true) (.andThen (reportError 9 4 2 c 0xF000 3 0x024 0) (raise 9 20))),
  rprEvent 8 c r.old r.logical (s.unit c r.old UNIT.GEN) 0x024,
  onlyIf (c == clsPipe) (
    if (List.range 17).all (fun u => s.role clsPipe u != 1) then goFatal 9 0x025 0
    else spreadHeld r.logical (fun bs => changeRecov c (fun x => x.fault && x.old == r.old) (fun x => { x with buckets := x.buckets ++ bs }))),
  onlyIf (c == clsScheng) (.andThen (setMill (nodeKey 5 r.logical) 3 false)
    (onlyIf (!(s.engineHosts.any (fun x => x.1 == r.logical))) (goFatal 9 0x025 0))),
  onlyIf (c != clsLkup) (quarantine c r.old)]

/-- The next recovery of a class begins, if none is in progress (R569): the oldest fault, with a unit to bring in or the degraded mode. -/
def startNext (c : Nat) : Prog := .look fun s =>
  onlyIf (s.inProgress c).isNone (
    match (s.recovAt c).find? (fun r => r.fault) with
    | none => .skip
    | some r =>
      match s.bringIn c r.logical with
      | some u => beginRecov c u r
      | none => each ((s.recovAt c).filter (fun x => x.fault && !x.degraded)) (enterDegraded c))

/-- The degraded mode of a class ends once no recovery waits in it (R571). -/
def endDegraded (c u l : Nat) : Prog := .look fun s =>
  onlyIf (s.isDegraded c && !(s.recovAt c).any (fun r => r.degraded))
    (.andThen (setBitF RPR_STAT.DEGRADED c false) (rprEvent 9 c u l (s.unit c u UNIT.GEN) 0))

/-- What becomes of the unit that has left its place: SPARE, quarantine, rotation's test, FAILED, or the rolling update's test. -/
def leavePlace (c u l after : Nat) : Prog :=
  if after == 0 then setRole c u 2
  else if after == 1 then quarantine c u
  else if after == 2 then .andThen (setRole c u 3) (setUnitX c u (fun x => { x with test := 2, back := some l }))
  else if after == 3 then failUnit c u
  else seqs [
    setRole c u 3,
    setUnitX c u (fun x => { x with test := 4 }),
    .look fun s => match s.roll with | some x => .put (.coreTag u (s.serviceTag x.2)) | none => .skip]

/-- The end of a fault recovery (R557, step 3 and 4): the unit brought in takes the place with the image of its class, the old unit goes into quarantine, buckets that were spread
return, and the next recovery begins. -/
def endFault (c u : Nat) (r : Recov) : Prog := seqs [
  dropRecov c r,
  takePlace c u r.logical,
  bumpTabF 9 0 (unitKey c u) UNIT.TAKEOVERS 1,
  restoreImage c u r.logical,
  .look fun s => rprEvent 3 c u r.logical (s.unit c u UNIT.GEN) r.cause,
  onlyIf (c == clsScheng && !r.degraded) (setMill (nodeKey 5 r.logical) 3 false),
  onlyIf (r.old != u && (!r.degraded || c == clsLkup)) (quarantine c r.old),
  each r.buckets (fun b => bucketMove b r.logical false),
  endDegraded c u r.logical,
  startNext c]

/-! ### Triggers (R553 to R556) -/

/-- An 8-byte word of a logical lookup bank cannot be corrected: poisoned and reported (R559). -/
def badWord (u l w : Nat) : Prog := seqs [
  .put (.poisoned (l * 2 ^ 19 + w) true),
  unitError 100 0x021 2 (l * 2 ^ 22 + 8 * w) u,
  rprEvent 11 clsLkup u l 0 w]

/-- EPOCH_BOUNDARY (R553, R555): the epoch of an ACTIVE pipeline or engine is applied when its mark arrived whole, else the unit is declared dead. -/
def execEpochBoundary (cls unit : Nat) (whole : Bool) (s : State) : Host.Outcome State Fault Refusal :=
  command (.epochBoundary cls unit whole) (.look fun s =>
    let l := s.unit cls unit UNIT.LOGICAL
    onlyIf (cls ≤ 1 && s.role cls unit == 1)
      (if whole then .put (.scarf (unitKey cls l) (s.epochImage cls unit l)) else declareUnit cls unit 0x020)) s

/-- A word of an ACTIVE lookup bank is corrected (R556, R578): with 64 distinct words in 24 h a planned handover of the bank is asked for. -/
def wordCorrected (u w : Nat) : Prog := .look fun s =>
  let x := s.unitXAt (unitKey clsLkup u)
  let l := s.unit clsLkup u UNIT.LOGICAL
  let l' := (x.fixed.filter (fun y => y.1 != w && !s.since y.2 86400000000000)) ++ [(w, s.mono)]
  let due := decide (64 ≤ l'.length) && !(s.recovAt clsLkup).any (fun r => r.old == u)
  seqs [
    unitError 100 0x020 1 (l * 2 ^ 22 + 8 * w) u,
    setUnitX clsLkup u (fun y => { y with fixed := if due then [] else l' }),
    onlyIf due (setRecov clsLkup (s.recovAt clsLkup ++ [{ logical := l, old := u, at_ := s.mono, fault := false, after := 1 }]))]

/-- UNIT_ERROR_REPORT (R556): an error that a unit reports, with its crier message where its block sends one, declares the unit dead; `fault` is the kind and, of a lookup bank, the word;
kind 0x020 of a bank is a corrected word.  A
lookup bank whose place no spare can take stays in service, the word that could not be corrected poisoned (R571). -/
def execUnitErrorReport (cls unit : Nat) (fault : Nat × Nat) (s : State) : Host.Outcome State Fault Refusal :=
  command (.unitErrorReport cls unit fault) (.look fun s =>
    let kind := fault.1
    let page := if cls == clsPipe then 112 + unit else if cls == clsScheng then 177 else 13
    let w := fault.2 % 2 ^ 19
    onlyIf (unit < classUnits cls) (
      if cls == clsLkup && kind == 0x020 then onlyIf (s.role cls unit == 1) (wordCorrected unit w)
      else seqs [
        onlyIf (cls ≤ 2) (unitError page 0x020 1 unit unit),
        onlyIf (cls == clsLkup && s.role cls unit == 1 && (s.spareOf cls).isNone && (s.inProgress cls).isNone) (badWord unit (s.unit cls unit UNIT.LOGICAL) w),
        declareUnit cls unit (kind % 1024)])) s

/-! ### Takeover (R557) -/

/-- FAULT_TAKEOVER (R557, R564, R569, R570): the oldest declared unit of a class is fenced at once; a place it held gets its next generation and waits in the class's order of
recoveries. -/
def execFaultTakeover (cls : Nat) (s : State) : Host.Outcome State Fault Refusal :=
  command (.faultTakeover cls) (.look fun s =>
    match s.declared.find? (fun d => d.1 == cls) with
    | none => .skip
    | some d => onlyIf (s.role cls d.2.1 != 1 || s.genFree cls (s.unit cls d.2.1 UNIT.LOGICAL)) <|
      let u := d.2.1
      let l := s.unit cls u UNIT.LOGICAL
      let gone := (s.recovAt cls).filter (fun r => !r.fault && (r.old == u || r.new == some u))
      let fence : Prog := seqs [
        setUnit cls u UNIT.ROLE 4,
        setUnitX cls u (fun x => { x with fencedAt := some s.mono, stale := false }),
        rprEvent 6 cls u l (s.unit cls u UNIT.GEN) d.2.2,
        onlyIf (cls == clsD2d) dieShow]
      seqs [
        .put (.declared (s.declared.filter (fun x => !(x.1 == cls && x.2.1 == u)))),
        bumpTabF 9 0 (unitKey cls u) UNIT.DEAD_COUNT 1,
        setUnitX cls u (fun x => { x with deads := s.mono :: s.deadsOf cls u, passed := false }),
        each gone (fun r => .andThen (dropRecov cls r) (onlyIf r.cmd (rprDone 0x01))),
        (if s.role cls u == 1 then seqs [
           onlyIf (cls != clsLkup) fence,
           report 9 0x020 1,
           raise 9 19,
           assignGen cls l,
           fenceEffect cls u l,
           .look fun t => setRecov cls (t.recovAt cls ++ [{ logical := l, old := u, at_ := s.mono, cause := d.2.2 }])]
         else seqs [
           fence,
           changeRecov cls (fun r => r.fault && r.running && r.new == some u) (fun r => { r with new := none, running := false }),
           quarantine cls u]),
        startNext cls]) s

/-- TAKEOVER_LOAD_DONE (R557): the unit brought in has loaded the image and becomes ACTIVE; a lookup bank is copied instead (R559). -/
def execTakeoverLoadDone (cls : Nat) (s : State) : Host.Outcome State Fault Refusal :=
  command (.takeoverLoadDone cls) (.look fun s =>
    match s.inProgress cls with
    | some r =>
      match r.new with
      | some u => onlyIf (r.fault && cls != clsLkup && (cls != clsTcam || (s.tcamLoadAt r.logical).isNone)) (endFault cls u r)
      | none => .skip
    | none => .skip) s

/-! ### Self-tests (R549, R551, R565) -/

/-- The result of a pass of a unit's self-test: its counts, its time, its event (R552). -/
def testResult (c u : Nat) (pass : Bool) : Prog := .look fun s => seqs [
  bumpTabF 9 0 (unitKey c u) (if pass then UNIT.PASSES else UNIT.FAILS) 1,
  setUnit c u UNIT.TIME s.ns64,
  setUnit c u UNIT.LAST_RESULT (if pass then 1 else 2),
  rprEvent (if pass then 1 else 2) c u noLogical 0 (if pass then 0 else 0x023),
  onlyIf (!pass) (.andThen (raise 9 18) (report 9 0x023 0 7))]

/-- A tested unit becomes a qualified spare, for which a recovery may wait. -/
def spareNow (c u : Nat) : Prog := seqs [setRole c u 2, setUnitX c u (fun x => { x with passed := true, fails := 0, test := 0 }), startNext c]

/-- The pass of a unit that rotation has taken out ends (R551): a number that it left returns to it by planned handover. -/
def rotationEnd (c u : Nat) (pass : Bool) : Prog := .look fun s =>
  let x := s.unitXAt (unitKey c u)
  if pass then .andThen (spareNow c u) (.look fun t =>
    match x.back with
    | some l =>
      match t.holder c l with
      | some v => onlyIf (c ≤ 2 && t.role c u == 2) (setRecov c (t.recovAt c ++ [{ logical := l, old := v, new := some u, at_ := t.mono, fault := false, after := 0 }]))
      | none => .skip
    | none => .skip)
  else .andThen (failUnit c u) (match x.back with | some l => onlyIf (c == clsScheng) (setMill (nodeKey 5 l) 2 false) | none => .skip)

/-- SELF_TEST_PASS_END (R549, R551): a pass of a spare's loop qualifies it, or counts towards the second failure in a row that makes it FAILED; a unit under rotation's test
returns to service or fails; a core of the rolling update becomes SPARE again (R636). -/
def execSelfTestPassEnd (cls unit : Nat) (pass : Bool) (s : State) : Host.Outcome State Fault Refusal :=
  command (.selfTestPassEnd cls unit pass) (.look fun s =>
    let x := s.unitXAt (unitKey cls unit)
    let coming := (s.recovAt cls).any (fun r => r.running && r.new == some unit)
    if s.role cls unit == 2 && !coming then .andThen (testResult cls unit pass) (
      if pass then .andThen (setUnitX cls unit (fun x => { x with passed := true, fails := 0 })) (startNext cls)
      else if 1 ≤ x.fails then failUnit cls unit
      else setUnitX cls unit (fun x => { x with passed := false, fails := x.fails + 1, goodAt := some s.mono }))
    else if s.role cls unit == 3 && x.test == 2 then .andThen (testResult cls unit pass) (rotationEnd cls unit pass)
    else onlyIf (s.role cls unit == 3 && x.test == 4) (.andThen (testResult cls unit pass) (if pass then spareNow cls unit else failUnit cls unit))) s

/-- QUARANTINE_END (R565): the pass after a fenced unit's reset makes it SPARE or FAILED. -/
def execQuarantineEnd (cls unit : Nat) (pass : Bool) (s : State) : Host.Outcome State Fault Refusal :=
  command (.quarantineEnd cls unit pass) (.look fun s =>
    onlyIf (s.role cls unit == 3 && (s.unitXAt (unitKey cls unit)).test == 1) (.andThen (testResult cls unit pass)
      (if pass then .andThen (setUnitX cls unit (fun x => { x with goodAt := some s.mono, fencedAt := none })) (spareNow cls unit) else failUnit cls unit))) s

/-! ### Planned handovers (R550, R558, R559, R567) -/

/-- A planned handover begins with the unit it names or a qualified spare; without one it is dropped. -/
def beginPlanned (c : Nat) (r : Recov) : Prog := .look fun s =>
  let new := match r.new with | some u => if s.qualified c u then some u else none | none => (s.spares c).head?
  match new with
  | some u => beginRecov c u r
  | none => .andThen (dropRecov c r) (onlyIf r.cmd (rprDone 0x01))

/-- PLANNED_HANDOVER (R558, R559): the planned handover that waits for a unit begins, once nothing of its class is in progress. -/
def execPlannedHandover (cls unit : Nat) (s : State) : Host.Outcome State Fault Refusal :=
  command (.plannedHandover cls unit) (.look fun s =>
    onlyIf (s.inProgress cls).isNone (
      match (s.recovAt cls).find? (fun r => !r.fault && r.old == unit) with
      | some r => beginPlanned cls r
      | none => .skip)) s

/-- The pacing of an engine's nodes at a planned handover (R558): with cause self-test from a rotation's handover to the return, with cause takeover at a revert. -/
def handoverMill (r : Recov) : Prog :=
  let k := nodeKey 5 r.logical
  if r.after == 2 then setMill k 2 true
  else if r.after == 0 && !r.revert then setMill k 2 false
  else let cause := if r.revert then 3 else 2; .andThen (setMill k cause true) (setMill k cause false)

/-- The end of a planned handover (R558, R561): the place takes its next generation with the new unit; nothing is lost. -/
def endPlanned (c u : Nat) (r : Recov) : Prog := seqs [
  dropRecov c r,
  assignGen c r.logical,
  onlyIf (c == clsPipe) (copySamplers r.old u),
  onlyIf (c == clsScore) (releaseCoreLocks r.old),
  leavePlace c r.old r.logical r.after,
  takePlace c u r.logical,
  onlyIf (c == clsScheng) (handoverMill r),
  .look fun s => rprEvent (if r.revert then 5 else 4) c u r.logical (s.unit c u UNIT.GEN) 0,
  onlyIf r.cmd (rprDone 0),
  startNext c]

/-- Whether nothing is left inside the unit that hands its place over (R558). -/
def State.drained (s : State) (c u l : Nat) : Bool :=
  if c == clsPipe then (s.recQAt u).isEmpty && (s.upQAt u).isEmpty && (s.egQAt u).isEmpty && (s.learnQAt u).isEmpty
  else if c == clsD2d then [0, 1].all (fun die => (s.dieTxAt die).replay.all (fun f => f.module != u))
  else c != clsTcam || (s.tcamLoadAt l).isNone

/-- HANDOVER_DONE (R558): a planned handover completes once the old unit has drained and its final epoch is copied; a lookup bank is copied instead (R559). -/
def execHandoverDone (cls : Nat) (s : State) : Host.Outcome State Fault Refusal :=
  command (.handoverDone cls) (.look fun s =>
    match s.inProgress cls with
    | some r =>
      match r.new with
      | some u => onlyIf (!r.fault && cls != clsLkup && s.drained cls r.old r.logical && s.genFree cls r.logical) (endPlanned cls u r)
      | none => .skip
    | none => .skip) s

/-- LKUP_COPY_DONE (R559): the copy of a lookup bank ends and the device switches to the new bank; `bad` lists the 8-byte words of the bank that could not be corrected. -/
def execLkupCopyDone (bad : List Nat) (s : State) : Host.Outcome State Fault Refusal :=
  command (.lkupCopyDone bad) (.look fun s =>
    match s.inProgress clsLkup with
    | some r =>
      match r.new with
      | some u => .andThen
          (each bad (fun w => badWord u r.logical (w % 2 ^ 19)))
          (if r.fault then endFault clsLkup u r else endPlanned clsLkup u r)
      | none => .skip
    | none => .skip) s

/-- Whether a class skips its rotation (R550). -/
def State.rotationSkips (s : State) (c : Nat) : Bool := (s.spares c).isEmpty || s.recovering c || s.isDegraded c

/-- The next working unit of a class in physical order after the one rotated last (R550). -/
def State.rotationNext (s : State) (c : Nat) : Option Nat :=
  let n := classUnits c
  let last := match s.rotLast.find? (fun x => x.1 == c) with | some x => x.2 | none => n - 1
  ((List.range n).map (fun i => (last + 1 + i) % n)).find? (fun u => s.role c u == 1)

/-- A value kept by class. -/
def byClass (l : List (Nat × Nat)) (c v : Nat) : List (Nat × Nat) := (l.filter (fun x => x.1 != c)) ++ [(c, v)]

/-- ROTATION (R550): the first rotated class whose interval has passed hands over its next working unit, or skips; rotations of different classes begin 1 s apart. -/
def execRotation (s : State) : Host.Outcome State Fault Refusal :=
  command .rotation (whenEnabled 9 <| .look fun s =>
    let ns := max 1 (s.rd RPR_CFG.ROT_MIN) * 60000000000
    let due (c : Nat) : Bool := s.since (match s.rotClassAt.find? (fun x => x.1 == c) with | some x => x.2 | none => 0) ns && !(c == clsScore && s.roll.isSome)
    onlyIf (s.rd RPR_CFG.ROT_EN == 1 && s.rd PWR_STAT.THROTTLING == 0 && s.since s.rotAt 1000000000) (
      match (List.range 5).find? due with
      | none => .skip
      | some c => .andThen (.put (.rotClassAt (byClass s.rotClassAt c s.mono))) (
          match s.rotationNext c with
          | none => .skip
          | some u => onlyIf (!s.rotationSkips c) (seqs [
              .put (.rotAt s.mono),
              .put (.rotLast (byClass s.rotLast c u)),
              setRecov c [{ logical := s.unit c u UNIT.LOGICAL, old := u, at_ := s.mono, fault := false, after := 2 }]])))) s

/-- The revert that a home unit may make (R567): its number held by a stand-in, nothing of its class in progress or queued and no rotation in progress. -/
def State.revertOf (s : State) (c u : Nat) : Option Recov :=
  let l := s.unit c u UNIT.HOME
  if c ≤ 2 && s.unit c u UNIT.HOME_VALID == 1 && s.qualified c u && !s.recovering c &&
      (List.range (classUnits c)).all (fun v => !(s.role c v == 3 && (s.unitXAt (unitKey c v)).test == 2)) then
    match s.holder c l with
    | some v => if v != u then some { logical := l, old := v, new := some u, at_ := s.mono, fault := false, after := 0, revert := true } else none
    | none => none
  else none

/-- REVERT_HOLD_END (R567): a home unit that has been a good spare for REVERT_HOLD_S takes its logical number back. -/
def execRevertHoldEnd (cls unit : Nat) (s : State) : Host.Outcome State Fault Refusal :=
  command (.revertHoldEnd cls unit) (.look fun s =>
    let held := match (s.unitXAt (unitKey cls unit)).goodAt with
      | some t => s.since t (max 1 (s.rd RPR_CFG.REVERT_HOLD_S) * 1000000000)
      | none => false
    match s.revertOf cls unit with
    | some r => onlyIf (s.rd RPR_CFG.REVERT_EN == 1 && held) (setRecov cls [r])
    | none => .skip) s

/-- PIPE_HOLD_SPREAD (R570): after 100 µs of holding, the buckets of a logical number whose recovery is queued spread over the remaining pipelines. -/
def execPipeHoldSpread (pipe : Nat) (s : State) : Host.Outcome State Fault Refusal :=
  command (.pipeHoldSpread pipe) (.look fun s =>
    match (s.recovAt clsPipe).find? (fun r => r.fault && !r.running && !r.degraded && r.logical == pipe) with
    | some r => onlyIf (s.since r.at_ 100000)
        (spreadHeld pipe (fun bs => changeRecov clsPipe (fun x => x.fault && x.old == r.old) (fun x => { x with buckets := x.buckets ++ bs })))
    | none => .skip) s

/-! ### RPR_CMD -/

/-- A command that needs a planned handover: refused when its class recovers or has no spare, else it waits for the handover. -/
def rprHandover (c u after : Nat) (rotated : Bool) : Prog := .look fun s =>
  if s.recovering c then rprDone 0x04
  else if (s.spares c).isEmpty then rprDone 0x01
  else seqs [
    onlyIf rotated (.put (.rotLast (byClass s.rotLast c u))),
    setRecov c [{ logical := s.unit c u UNIT.LOGICAL, old := u, at_ := s.mono, fault := false, after := after, cmd := true }]]

/-- UNRETIRE (R641, R642): under presence, the UNIT_FAILED record is removed and the unit goes through quarantine. -/
def rprUnretire (m c u : Nat) : Prog := .look fun s =>
  let r := if s.gateResult false != 0 then 0x05 else if s.role c u != 5 then 0x03 else 0
  .andThen
    (gated 9 m 4 u r (seqs [
      pegRemove { kind := 1, cls := c, unit := u } (fun g => g.kind == 1 && g.cls == c && g.unit == u),
      setUnitX c u (fun _ => {}),
      quarantine c u]))
    (rprDone r)

/-- The work of an RPR_CMD operation on a unit. -/
def rprOp (m op c u : Nat) : Prog := .look fun s =>
  let role := s.role c u
  if op == 0 then rprDone 0
  else if 6 ≤ op then draw (fun v => rprDone (v % 256))
  else if classUnits c ≤ u || 5 < c then rprDone 0x02
  else if op == 4 then rprUnretire m c u
  else if op == 1 then (if role != 1 then rprDone 0x03 else rprHandover c u 1 false)
  else if op == 2 then (if c == clsTcam then rprDone 0x02 else if role != 1 then rprDone 0x03 else rprHandover c u 2 true)
  else if op == 3 then
    (if role == 1 then rprHandover c u 3 false
     else if role == 5 || role == 0 then rprDone 0x03
     else if (s.recovAt c).any (fun r => r.new == some u) then rprDone 0x04
     else .andThen (failUnit c u) (rprDone 0))
  else
    match s.revertOf c u with
    | some r => setRecov c [{ r with cmd := true }]
    | none => rprDone (if 2 < c then 0x02 else if s.recovering c then 0x04 else if role == 2 && !s.qualified c u then 0x01 else 0x03)

/-- A write of RPR_CMD that leaves `v` in the register (R10): accepted from PF0, the main core and JTAG, others discarded with kind 0x00A; a command while BUSY is 1 is discarded. -/
def rprCmd (m : Nat) (v data : Word) : Prog := .look fun s =>
  if !isManager m then accessError 9 0x204 1 m 0x00A data.toNat
  else onlyIf (s.rd RPR_CMD_STAT.BUSY == 0) (seqs [
    setReg 9 0x204 v,
    setF RPR_CMD_STAT.BUSY 1,
    setF RPR_CMD_STAT.DONE 0,
    rprOp m (fieldOf data 31 28) (fieldOf data 10 8) (fieldOf data 6 0)])

/-! ### The rolling service update (R636) -/

/-- ROLLING_UPDATE_STEP (R636): the next logical core's firmware is replaced through the spare, or in place without one; a SCORE recovery or the pass of the core replaced
last holds the update; after the eighth it ends, with the spare on the new section too. -/
def execRollingUpdateStep (s : State) : Host.Outcome State Fault Refusal :=
  command .rollingUpdateStep (.look fun s =>
    match s.roll with
    | none => .skip
    | some (k, slot) =>
      let tag := s.serviceTag slot
      let next : Prog := .put (.roll (some (k + 1, slot)))
      let busy := s.recovering clsScore || (List.range 9).any (fun u => s.role clsScore u == 3 && (s.unitXAt (unitKey clsScore u)).test == 4)
      onlyIf (s.mainUp && !busy) (
        if 8 ≤ k then seqs [each (s.spares clsScore) (fun u => .put (.coreTag u tag)), .put (.roll none), setF UPD_BOOT.ROLLING 0, raise 8 22]
        else match s.holder clsScore k with
          | none => next
          | some v =>
            if s.coreTagAt v == tag then next
            else match s.spares clsScore with
              | u :: _ => seqs [
                  next,
                  .put (.coreTag u tag),
                  setRecov clsScore [{ logical := k, old := v, new := some u, at_ := s.mono, fault := false, after := 4 }]]
              | [] => seqs [.put (.coreTag v tag), releaseCoreLocks v, next])) s

end Sys2Proof.Machine
end

