-- ==== Sys2Proof/Machine/Virt.lean ====
section
/-!
DEFINITION. Virtual functions and mediated instances (spec/14_virtual_instances.md R491 to R510): the commands of VIRT_CMD and the events that move an instance.
-/
namespace Sys2Proof.Machine

/-- A VIRT command ends with a result. -/
def virtEnds (result : Nat) : Prog := seqs [setF VIRT_CMD_STAT.BUSY 0, setF VIRT_CMD_STAT.DONE 1, setF VIRT_CMD_STAT.RESULT result]

/-- The counts of VIRT_COUNT follow the instances. -/
def virtCount : Prog := .look fun s =>
  let l := s.instances
  .andThen (setF VIRT_COUNT.INSTANCES l.length) (setF VIRT_COUNT.PF0_QPS (4096 - l.foldl (fun a i => a + (s.inst i).f INST.QP_COUNT) 0))

/-- The state of an instance. -/
def setInst (i st : Nat) : Prog := setTabF 4 0 i INST.STATE st

/-- The checks of CREATE in their order (R500); 0 when all pass. -/
def State.createResult (s : State) (i : Nat) : Nat :=
  let e := s.inst i
  let b := e.f INST.QP_BASE
  let n := e.f INST.QP_COUNT
  let others := s.instances.filter (fun j => j != i)
  let med := decide (64 ≤ i)
  if i == 0 then 2
  else if n == 0 || 4096 < b + n || (if med then decide (64 < n) else decide (128 < n)) then 3
  else if others.any (fun j => decide (b < (s.inst j).f INST.QP_BASE + (s.inst j).f INST.QP_COUNT) && decide ((s.inst j).f INST.QP_BASE < b + n)) then 4
  else if (List.range n).any (fun k => (s.qp (b + k)).f QP.STATE != 0) then 5
  else if med && (e.f INST.PASID == 0 || others.any (fun j => decide (64 ≤ j) && (s.inst j).f INST.PASID == e.f INST.PASID)) then 6
  else if med && (e.f INST.VEC_COUNT == 0 || e.f INST.VEC_BASE == 0 || 2048 < e.f INST.VEC_BASE + e.f INST.VEC_COUNT) then 7
  else 0

/-- CREATE (R498, R500): the instance owns its range, each queue pair at its reset values. -/
def virtCreate (i : Nat) : Prog := .look fun s =>
  let e := s.inst i
  let q : Entry := (({} : Entry).put QP.OWNER i).put QP.PASID_EN (b2n (64 ≤ i)) |>.put QP.PASID (if 64 ≤ i then e.f INST.PASID else 0)
  if i != 0 && e.f INST.STATE != 0 then virtEnds 1
  else if s.createResult i != 0 then virtEnds (s.createResult i)
  else seqs [
    each (s.instQps i) (fun k => .andThen (.put (.qpx k {})) (setTab 3 0 k q)),
    setTab 4 0 i (((e.put INST.GEN 0).put INST.STATE 1)),
    .put (.vinst i {}),
    virtCount,
    virtEnds 0]

/-- QUIESCE (R507): the instance's queue pairs fetch no more and receive no more records. -/
def virtQuiesce (i : Nat) : Prog := .look fun s =>
  if i == 0 || (s.inst i).f INST.STATE != 1 then virtEnds 1
  else seqs [setInst i 2, .put (.vinst i { s.vinstAt i with quiesceAt := some s.mono }), each (s.instQps i) hostDrop, virtEnds 0]

/-- RESUME (R506). -/
def virtResume (i : Nat) : Prog := .look fun s => if (s.inst i).f INST.STATE != 3 then virtEnds 1 else .andThen (setInst i 1) (virtEnds 0)

/-- RESET (R508). -/
def virtReset (i : Nat) : Prog := .look fun s => if (s.inst i).f INST.STATE != 3 then virtEnds 1 else .andThen (instReset i) (virtEnds 0)

/-- REMOVE (R74, R508): the range goes back to PF0 at its reset values, and the entry is FREE. -/
def virtRemove (i : Nat) : Prog := .look fun s =>
  if (s.inst i).f INST.STATE != 3 then virtEnds 1
  else seqs [
    each (s.instQps i) (fun q => .andThen (qpOff q false) (.put (.tables (tabKey 3 0 q) none))),
    setInst i 0,
    .put (.vinst i {}),
    virtCount,
    virtEnds 0]

/-- A write of VIRT_CMD starts its command, unless one is running; reserved codes end with WRONG_STATE. -/
def virtCmd (data : Nat) : Prog := .look fun s =>
  let i := data % 4096
  onlyIf (s.rd VIRT_CMD_STAT.BUSY == 0) (
    match data / 2 ^ 28 with
    | 0 => virtEnds 0
    | 1 => virtCreate i
    | 2 => virtQuiesce i
    | 3 => virtResume i
    | 4 => virtReset i
    | 5 => virtRemove i
    | _ => virtEnds 1)

/-- VIRT_QUIESCED (R506, R507): no DMA of a QUIESCING instance is outstanding. -/
def execVirtQuiesced (inst : Nat) (s : State) : Host.Outcome State Fault Refusal :=
  command (.virtQuiesced inst) (.look fun s =>
    onlyIf ((s.inst inst).f INST.STATE == 2 && (s.instQps inst).all (fun q => (s.qpxAt q).reads.isEmpty && (s.qpxAt q).wait.isNone))
      (.andThen (setInst inst 3) (raise 4 16))) s

/-- QUIESCE_READ_TIMEOUT (R507): 50 ms after QUIESCING began, reads still outstanding end as by a completion timeout when timeouts are disabled or longer than 50 ms. -/
def execQuiesceReadTimeout (inst : Nat) (s : State) : Host.Outcome State Fault Refusal :=
  command (.quiesceReadTimeout inst) (.look fun s =>
    let long := match s.ctoNs with | none => true | some t => decide (50000000 < t)
    match (s.vinstAt inst).quiesceAt with
    | some t => onlyIf ((s.inst inst).f INST.STATE == 2 && long && s.since t 50000000)
        (each (s.instQps inst) (fun q => each (s.qpxAt q).reads (fun _ => endRead q)))
    | none => .skip) s

/-- VF_FLR (R74, R509): a function-level reset of an enabled VF: its DMA ends, RESET applies, and the entry keeps the state it had. -/
def execVfFlr (vf : Nat) (s : State) : Host.Outcome State Fault Refusal :=
  command (.vfFlr vf) (.look fun s =>
    let f := s.pcieFnAt 0
    onlyIf (f.vfEnable && vf != 0 && decide (vf ≤ f.numVfs)) (.andThen (vfReset vf) (raise 4 18))) s

/-- VF_ENABLE_CHANGE (R493): PF0's VF Enable and NumVFs are written; a VF that they change is reset, and an enabled one answers with its memory, DMA and vectors enabled. -/
def execVfEnableChange (enable : Bool) (num : Nat) (s : State) : Host.Outcome State Fault Refusal :=
  command (.vfEnableChange enable num) (.look fun s =>
    let f := s.pcieFnAt 0
    let n := min 63 num
    let was (v : Nat) : Bool := f.vfEnable && decide (v ≤ f.numVfs)
    let now_ (v : Nat) : Bool := enable && decide (v ≤ n)
    let all := (List.range 63).map (· + 1)
    seqs [
      .put (.pcieFn 0 { f with vfEnable := enable, numVfs := n }),
      each (all.filter (fun v => was v != now_ v)) vfReset,
      each (all.filter now_) (fun v => .look fun t => .put (.pcieFn v { t.pcieFnAt v with bme := true, mse := true, msixEn := true })),
      each (all.filter (fun v => now_ v && !was v)) showConfig]) s

end Sys2Proof.Machine
end

