-- ==== Sys2Proof/Machine/Tables.lean ====
section
/-!
DEFINITION. The tables of every page as the table command window shows them: their size, the operations they take, where the fields of an entry
lie (spec/02 to spec/20, each block's "registers and tables"), and the checks that end an operation with BAD_INDEX, BAD_ENTRY or DENIED.
-/
namespace Sys2Proof.Machine

/-- A table: its number of indices, the operation codes it takes, the fields software writes and those only the device writes, and the field
that says an entry is valid, where it has one. -/
structure Tbl where
  size : Nat
  ops : List Nat
  rw : List EF
  ro : List EF := []
  valid : Option EF := none
  deriving DecidableEq, Repr

/-- READ and NEXT. -/
def opsRead : List Nat := [1, 6]
/-- READ, WRITE and NEXT. -/
def opsWrite : List Nat := [1, 2, 6]
/-- READ, WRITE, DELETE and NEXT: every operation of an indexed table. -/
def opsAll : List Nat := [1, 2, 4, 6]

/-- The VALID bit of most tables: bit 31 of DATA0. -/
def dValid : EF := ed 0 31 31

/-- The tables of the control pages 0x003 to 0x00D (spec/12 to spec/20). -/
def ctrlTable (page table : Nat) : Option Tbl :=
  if page == 3 && table == 0 then some ⟨4096, opsWrite,
    [dValid, QP.PASID_EN, QP.PASID, QP.OWNER, QP.VECTOR, ⟨1, 255, 64⟩, QP.TX_LOG, QP.RX_LOG, QP.CQ_LOG, QP.RX_BUF_LEN, QP.COAL_US, QP.COAL_CNT],
    [QP.STATE, QP.TX_HEAD, QP.RX_HEAD, QP.CQ_TAIL, QP.ERR, QP.DROPS], none⟩
  else if page == 3 && table == 1 then some ⟨65536, opsWrite, [QMAP.VALID, QMAP.SPREAD, QMAP.QPAIR], [], some dValid⟩
  else if page == 4 && table == 0 then some ⟨4096, opsWrite,
    [INST.TX_MODE, INST.PASID, INST.QP_COUNT, INST.QP_BASE, INST.VEC_COUNT, INST.VEC_BASE, INST.LOOKUP_PORT, INST.TX_RATE_MBPS],
    [INST.STATE, INST.REFUSED, INST.GEN], none⟩
  else if page == 5 && table == 0 then some ⟨4096, [1, 4, 6], [],
    [OPEN.VALID, OPEN.CLASS, OPEN.DIE, OPEN.SRC_TYPE, OPEN.INSTANCE, OPEN.KIND, OPEN.COUNT, OPEN.FIRST, OPEN.LAST, OPEN.ADDR_LO, OPEN.MASTER,
      OPEN.ADDR_HI], some dValid⟩
  else if page == 6 && table == 0 then some ⟨65536, opsRead, [], [⟨1, 255, 0⟩], none⟩
  else if page == 6 && table == 1 then some ⟨1048576, opsRead, [], [⟨1, 255, 0⟩], none⟩
  else if page == 8 && table == 0 then some ⟨1024, opsRead, [], [ed 0 31 0], none⟩
  else if page == 9 && table == 0 then some ⟨768, opsRead, [],
    [UNIT.ROLE, UNIT.HOME_VALID, UNIT.HOME, UNIT.LOGICAL, UNIT.GEN, UNIT.PASSES, UNIT.FAILS, UNIT.DEAD_COUNT, UNIT.TAKEOVERS, UNIT.TIME,
      UNIT.LAST_RESULT], none⟩
  else if page == 9 && table == 1 then some ⟨4096, opsRead, [], [⟨1, 159, 0⟩], some dValid⟩
  else if page == 10 && table < 18 then some ⟨familySize table, opsRead, [], [⟨1, 63, 0⟩], none⟩
  else if page == 11 && table == 0 then some ⟨16384, [1], [], [⟨2, 1023, 0⟩], none⟩
  else if page == 13 && table == 0 then some ⟨16384, opsAll,
    [⟨0, 255, 0⟩, BFD.VALID, BFD.IPV6, BFD.ADMIN_DOWN, BFD.TX_TC, BFD.DETECT_MULT, BFD.LIF, BFD.NH_ID, BFD.MIN_TX, BFD.MIN_RX, BFD.DOWN_ACT,
      BFD.MEMBER], [BFD.STATE, BFD.REMOTE_DISC, BFD.LOCAL_DIAG], some dValid⟩
  else if page == 13 && table == 1 then some ⟨8192, opsAll,
    [MEP.VALID, MEP.LEVEL, MEP.PERIOD, MEP.MEPID, MEP.LIF, MEP.RMEPID, MEP.NH_ID, MEP.TX_TC, ⟨2, 383, 0⟩], [MEP.DEFECTS], some dValid⟩
  else if page == 13 && table == 2 then some ⟨16384, opsAll,
    [FLOW.VALID, FLOW.TIER, FLOW.TERMINATE, FLOW.QUEUE, FLOW.SSRC, FLOW.PORT, FLOW.RTX_QUEUE, FLOW.RETAIN_MS, FLOW.HOLD_MS, FLOW.RTX_LIMIT],
    [FLOW.HIGH], some dValid⟩
  else if page == 13 && table == 3 then some ⟨8192, opsAll, [MRG.VALID, MRG.PORT_A, MRG.PORT_B, MRG.SSRC_A, MRG.SSRC_B],
    [MRG.H, MRG.LEG_A_OK, MRG.LEG_B_OK], some dValid⟩
  else none

/-- The tables of the pages of FlexE, the cross-connect, parsing and classification (spec/03, spec/04). -/
def frontTable (page table : Nat) : Option Tbl :=
  if 64 ≤ page && page < 88 && table < 4 then some ⟨640, opsAll, [dValid, ed 0 6 0], [], some dValid⟩
  else if 64 ≤ page && page < 88 && table == 4 then some ⟨128, opsAll, [ed 0 31 30, ed 0 29 24, ed 0 15 0], [], none⟩
  else if page == 88 && table == 0 then some ⟨4096, opsAll, [dValid, ed 0 30 29, ed 0 11 0], [], some dValid⟩
  else if page == 88 && table == 1 then some ⟨4096, opsRead, [], [dValid, ed 0 30 29, ed 0 11 0], some dValid⟩
  else if page == 97 && table == 0 then some ⟨128, opsAll,
    [⟨0, 255, 0⟩, ⟨2, 255, 0⟩, PAT.VALID, PAT.FLOATING, PAT.BASE, PAT.LENGTH, PAT.START, PAT.END], [], some dValid⟩
  else if (page == 98 || page == 99) && table == 0 then some ⟨131072, opsAll,
    [⟨0, 255, 0⟩, ⟨2, 1023, 0⟩, TCE.VALID, TCE.WIDTH, TCE.LIST, TCE.RULE_ID], [TCE.SHADOW_BAD], some dValid⟩
  else if (page == 98 || page == 99) && table == 2 then some ⟨131072, [1], [], [⟨0, 159, 0⟩, ⟨2, 543, 384⟩, dValid], none⟩
  else if page == 98 && table == 3 then some ⟨131072, [5, 6], [⟨0, 255, 0⟩, ⟨2, 383, 0⟩], [TCE.VALID, TCE.WIDTH, TCE.SHADOW_BAD, TCE.LIST, TCE.RULE_ID],
    some dValid⟩
  else if page == 98 && table == 4 then some ⟨3072, opsWrite, [dValid, ed 0 5 0], [], none⟩
  else if page == 104 && table == 0 then some ⟨524288, [1, 2], [⟨1, 127, 0⟩], [], none⟩
  else if page == 104 && table == 1 then some ⟨65536, [1, 2], [⟨1, 511, 0⟩, ⟨2, 511, 0⟩], [], none⟩
  else none

/-- The fields of an IPv4 or IPv6 route (spec/05, LPM registers and tables). -/
def routeFields (v6 : Bool) : List EF :=
  (if v6 then [⟨0, 127, 0⟩, ek 4 29 16, ek 4 7 0] else [ek 0 31 0, ek 1 29 16, ek 1 7 0]) ++ [ROUTE.RESULT, ROUTE.LIST_EN, ROUTE.LIST]

/-- The tables of the forwarding pages (spec/05); the BANK tables of LPM stand while their bank's use is LPM4 or LPM6. -/
def State.fwdTable (s : State) (page table : Nat) : Option Tbl :=
  if page == 100 && table < 43 then
    (match famOf (s.rd (LPM_MEM_USE.USE (21 + table))) with
      | some .lpm4 => some ⟨327680, opsRead, [], routeFields false ++ [ee 0 31 26, ee 0 18 0], none⟩
      | some .lpm6 => some ⟨163840, opsRead, [], routeFields true ++ [ee 0 31 26, ee 0 18 0], none⟩
      | _ => none)
  else if page == 100 && table == 48 then some ⟨0, [3, 4, 5], routeFields false, [ee 0 31 26, ee 0 18 0], none⟩
  else if page == 100 && table == 49 then some ⟨0, [3, 4, 5], routeFields true, [ee 0 31 26, ee 0 18 0], none⟩
  else if page == 100 && table == 50 then some ⟨16384, opsAll, [VRF.VALID, VRF.DEF4_VALID, VRF.DEF6_VALID, VRF.DEF4, VRF.DEF6],
    [ed 3 31 0, ⟨2, 159, 0⟩], some dValid⟩
  else if page == 100 && (table == 51 || table == 52) then some ⟨2048, opsRead, [], routeFields (table == 52) ++ [ee 0 31 26, ee 0 18 0], none⟩
  else if page == 101 && table == 0 then some ⟨1048576, opsAll, [ILM.VALID, ILM.ACTION, ILM.RESULT, ILM.LIST_EN, ILM.LIST, ILM.VRF, ILM.LIF], [], some dValid⟩
  else if page == 101 && table == 1 then some ⟨65536, opsAll,
    [LIF.VALID, LIF.V4_EN, LIF.V6_EN, LIF.MPLS_EN, LIF.L2_EN, LIF.LEARN_EN, LIF.VRF, LIF.BD, LIF.IG_ACL_CLASS, LIF.EG_ACL_CLASS, LIF.LIST_EN, LIF.LIST,
      LIF.BRIDGE_NH], [], some dValid⟩
  else if page == 101 && table == 2 then some ⟨4194304, [1, 3, 4, 5, 6], [ek 0 31 0, ek 1 31 0, LIFMAP.LIF], [], none⟩
  else if page == 102 && table == 0 then some ⟨4194304, [1, 3, 4, 5, 6], [ek 0 31 0, ek 1 29 16, ek 1 15 0, MAC.STATIC, MAC.DISCARD, MAC.LIF],
    [MAC.HIT, MAC.STALE, MAC.LEARNED, MAC.PORT], none⟩
  else if page == 102 && table == 1 then some ⟨16384, opsAll, [BD.VALID, BD.LEARN_EN, BD.FLOOD_GROUP, BD.LIMIT], [ed 2 20 0], some dValid⟩
  else if page == 103 && table == 0 then some ⟨4194304, opsAll,
    [NH.VALID, NH.KIND, NH.DEST_DEVICE, NH.REASON, NH.DEST_PORT, NH.QUEUE_BASE, NH.EG_LIF, NH.DMAC_LO, NH.DMAC_HI, NH.LIST_EN, NH.LIST], [], some dValid⟩
  else if page == 103 && table == 1 then some ⟨65536, opsAll, [GRP.VALID, GRP.SIZE_M1, GRP.BASE], [], some dValid⟩
  else if page == 103 && table == 2 then some ⟨1048576, opsAll, [MEM.VALID, MEM.NH_ID], [], some dValid⟩
  else none

/-- The number of nodes of a scheduling level (spec/08, SCH tables). -/
def levelSize (l : Nat) : Nat := [64, 1024, 16384, 65536, 524288][l]?.getD 0

/-- The tables of the buffer, queue, gate, fabric and replication pages (spec/07 to spec/09). -/
def tmTable (page table : Nat) : Option Tbl :=
  if page == 145 && table == 0 then some ⟨524288, opsRead, [],
    [ed 0 31 27, ed 0 7 0, ed 1 31 0, ed 2 31 0, ed 3 25 0, ed 4 23 0, ed 5 31 0, ed 6 31 0], none⟩
  else if page == 145 && table == 1 then some ⟨256, opsWrite,
    [PROF.SPILL_EN, PROF.GRN_EN, PROF.AGE_LIMIT, PROF.SPILL_ON, PROF.HEAD_KEEP, PROF.T1_STOP, PROF.HBM_LIMIT, PROF.GRN_LIMIT], [], none⟩
  else if page == 176 && table == 0 then some ⟨524288, opsWrite, [QE.EN, QE.CLASS, QE.BUF_PROFILE, QE.ADM_PROFILE, QE.MAX_LEN], [], some dValid⟩
  else if page == 176 && table == 1 then some ⟨256, opsWrite,
    [ADM.ECN_EN, ADM.AQM_DROP, ADM.PMAX, ADM.ECN_MIN, ADM.ECN_MAX, ADM.YEL_PCT, ADM.RED_PCT, ADM.BURST], [], none⟩
  else if page == 177 && table == 0 then some ⟨64, opsWrite, [SCH.EN, SCH.OVH], [], some dValid⟩
  else if page == 177 && table < 4 then some ⟨levelSize table, opsWrite, [SCH.EN, SCH.PRIO, SCH.WEIGHT, ed 0 (if table == 1 then 5 else if table == 2 then 9 else 13) 0], [],
    some dValid⟩
  else if page == 177 && table == 4 then some ⟨524288, opsWrite, [SCH.PRIO, SCH.WEIGHT], [], none⟩
  else if page == 178 && table == 0 then some ⟨64, opsWrite, [SHP.PIR, SHP.CBS], [ed 3 31 28], none⟩
  else if page == 178 && table < 5 then some ⟨levelSize table, opsWrite, [SHP.CIR, SHP.PIR, SHP.CBS, SHP.EBS], [ed 3 31 28], none⟩
  else if page == 179 && table == 0 then some ⟨262144, opsWrite, [POL.VALID, POL.MODE, POL.RED_DROP, POL.FILL, POL.CIR, POL.PIR, POL.CBS, POL.PBS], [], some dValid⟩
  else if 180 ≤ page && page < 228 && table == 0 then some ⟨1024, opsWrite, [ed 0 7 0, ed 1 29 0], [], none⟩
  else if 180 ≤ page && page < 228 && table == 1 then some ⟨1024, opsRead, [], [ed 0 7 0, ed 1 29 0], none⟩
  else if page == 240 && table == 0 then some ⟨1024, opsRead, [], [⟨1, 159, 0⟩], none⟩
  else if page == 240 && table == 1 then some ⟨1024, opsWrite, [dValid, ed 0 25 16, ed 0 9 0, ed 1 7 0], [], some dValid⟩
  else if page == 240 && table == 2 then some ⟨1024, opsWrite, [dValid, ed 0 25 16, ed 0 7 0, ed 1 4 0], [], some dValid⟩
  else if page == 242 && table == 0 then some ⟨65536, opsAll, [MCG.VALID, MCG.LIST_BASE, MCG.LIST_LEN, ⟨2, 1023, 0⟩], [], some dValid⟩
  else if page == 242 && table == 1 then some ⟨1048576, opsAll, [REPL.VALID, REPL.PRUNE, REPL.NH_ID, REPL.QUEUE, REPL.PRUNE_LIF], [], some dValid⟩
  else none

/-- The table of a select code on a page; none where the code is not implemented (BAD_TABLE). -/
def State.tbl (s : State) (page table : Nat) : Option Tbl :=
  if page < 64 then ctrlTable page table
  else if page < 100 || page == 104 then frontTable page table
  else if page < 104 then s.fwdTable page table
  else tmTable page table

/-- Whether a table is keyed (R691): it takes INSERT. -/
def Tbl.keyed (t : Tbl) : Bool := t.ops.contains 3

/-! ### The bits of an entry -/

/-- The bits of a region that fields cover. -/
def fieldMask (l : List EF) (r : Nat) : Nat := l.foldl (fun a x => if x.region == r then a ||| (2 ^ (x.hi + 1) - 2 ^ x.lo) else a) 0

/-- The bits of the words of a region that fields lie in: the words that the layout uses. -/
def wordMask (l : List EF) (r words : Nat) : Nat :=
  (List.range words).foldl (fun a w =>
    if l.any (fun x => x.region == r && decide (x.lo / 32 ≤ w) && decide (w ≤ x.hi / 32)) then a ||| (2 ^ (32 * w + 32) - 2 ^ (32 * w)) else a) 0

/-- An entry cut to the bits of some fields. -/
def Entry.cut (e : Entry) (l : List EF) : Entry :=
  { key := e.key &&& BitVec.ofNat 256 (fieldMask l 0), data := e.data &&& BitVec.ofNat 512 (fieldMask l 1),
    ext := e.ext &&& BitVec.ofNat 1024 (fieldMask l 2) }

/-- Two entries put together. -/
def Entry.join (a b : Entry) : Entry := { key := a.key ||| b.key, data := a.data ||| b.data, ext := a.ext ||| b.ext }

/-- Whether a reserved bit of a word that the layout uses is set; words that it does not use are not looked at (R655 takes them as 0). -/
def Tbl.reservedSet (t : Tbl) (e : Entry) : Bool :=
  let l := t.rw ++ t.ro
  (e.key.toNat &&& (wordMask l 0 8 ^^^ fieldMask l 0)) != 0 || (e.data.toNat &&& (wordMask l 1 16 ^^^ fieldMask l 1)) != 0 ||
  (e.ext.toNat &&& (wordMask l 2 32 ^^^ fieldMask l 2)) != 0

/-! ### BAD_INDEX -/

/-- Whether an index that READ, WRITE or an indexed DELETE names is not one of the table's (TBL_STAT, BAD_INDEX). -/
def State.badIndex (s : State) (page table : Nat) (t : Tbl) (op i : Nat) (e : Entry) : Bool :=
  t.size ≤ i ||
  (page == 101 && table == 0 && decide (i < 16)) ||
  (op != 6 && (
    (page == 9 && table == 0 && classUnits (i / 128) ≤ i % 128) ||
    (page == 101 && table == 2 && decide (262144 * (s.famBanks .lifmap).length ≤ i) && decide (i < 0x3FF800)) ||
    (page == 102 && table == 0 && decide (327680 * (s.famBanks .mac).length ≤ i) && decide (i < 0x3FF800)) ||
    ((page == 98 || page == 99) && (table == 0 || table == 2) && i / 65536 != page - 98) ||
    ((page == 98 || page == 99) && table == 0 &&
      i / 4096 % widthSpan (if op == 2 then e.f TCE.WIDTH else s.quadMode (i / 16384)) != 0)))

/-! ### BAD_ENTRY -/

/-- Whether a forwarding result has a reserved code or a nonzero bit that R186 shows as zero. -/
def resultBad (r : Nat) : Bool :=
  let k := r / 2 ^ 22
  let v := r % 2 ^ 22
  if k == 0 then false else if k == 3 then 3 ≤ v else 65536 ≤ v

/-- The operand bits that an opcode of an action word names (R165). -/
def wordOperands (op : Nat) : Option Nat :=
  let f (hi lo : Nat) : Nat := 2 ^ (hi + 1) - 2 ^ lo
  if op == 0 then some 0
  else if op == 1 then some (f 119 112 + f 63 0)
  else if op == 2 then some (f 112 112 + f 47 0)
  else if op == 3 then some (f 113 112 + f 15 0)
  else if op == 4 then some (f 113 112)
  else if op == 5 then some (f 112 112 + f 31 9 + f 7 0)
  else if op == 6 then some (f 119 112)
  else if op == 7 then some (f 113 113 + f 31 9)
  else if op == 8 then some (f 114 112 + f 7 0)
  else if op == 9 then some (f 21 0)
  else if op == 10 then some (f 112 112 + f 17 0)
  else if op == 11 then some (f 5 0)
  else if op == 12 then some (f 115 112 + f 21 0)
  else if op == 13 then some (f 7 0)
  else if op == 14 then some (f 117 112)
  else if op == 15 then some (f 15 0)
  else if op == 16 then some (f 18 0)
  else none

/-- Whether an action word is BAD_ENTRY: a reserved opcode, operand bit or code (R165), an unlisted field (R167), a reason outside 0x00 to 0x7F
(R173, R185) or a counter out of range (R594). -/
def wordBad (w : Nat) : Bool :=
  let op := w / 2 ^ 122
  let g (hi lo : Nat) : Nat := w / 2 ^ lo % 2 ^ (hi + 1 - lo)
  match wordOperands op with
  | none => true
  | some m =>
    ((w % 2 ^ 121) &&& (2 ^ 121 - 1 - m)) != 0 ||
    (op == 1 && !([1, 2, 3, 4, 5, 0x10, 0x11, 0x12, 0x13, 0x14, 0x15, 0x18, 0x19, 0x20, 0x21, 0x22].contains (g 119 112))) ||
    (op == 3 && g 113 112 == 3) ||
    (op == 4 && (g 113 112 == 0 || g 113 112 == 3)) ||
    (op == 6 && (decide (4 < g 119 116) || g 115 112 == 0 || decide (8 < g 115 112))) ||
    (op == 8 && (g 113 112 == 3 || decide (0x80 ≤ g 7 0))) ||
    (op == 9 && decide (524288 ≤ g 21 0)) ||
    (op == 12 && (decide (4 < g 115 112) || (g 115 112 == 4 && decide (0x80 ≤ g 21 0)) || (g 115 112 == 2 && decide (524288 ≤ g 21 0)) ||
      ((g 115 112 == 1 || g 115 112 == 3) && decide (65536 ≤ g 21 0)))) ||
    (op == 13 && decide (0x80 ≤ g 7 0))

/-- The action word in four successive words of a region of an entry, bits 127:96 in the first. -/
def Entry.actWord (e : Entry) (region w : Nat) : Nat :=
  let x (i : Nat) : Nat := e.f ⟨region, 32 * (w + i) + 31, 32 * (w + i)⟩
  x 0 * 2 ^ 96 + x 1 * 2 ^ 64 + x 2 * 2 ^ 32 + x 3

/-- The eight words of a LINE entry (spec/04, ACT registers). -/
def Entry.lineWords (e : Entry) : List Nat := (List.range 4).map (fun k => e.actWord 1 (4 * k)) ++ (List.range 4).map (fun k => e.actWord 2 (4 * k))

/-- The key of an entry as a family holds it. -/
def Fam.cutKey (f : Fam) (e : Entry) : Entry := { key := e.key &&& BitVec.ofNat 256 (2 ^ (32 * f.keyWords) - 1) }

/-- Whether the key of a route is out of range: a length above the family's (R187), and for INSERT the cases of R188. -/
def State.routeKeyBad (s : State) (f : Fam) (op : Nat) (e : Entry) : Bool :=
  let n := if f = .lpm6 then 128 else 32
  let len := lpmLen f e
  let addr := if f = .lpm6 then e.f (ek 0 31 0) * 2 ^ 96 + e.f (ek 1 31 0) * 2 ^ 64 + e.f (ek 2 31 0) * 2 ^ 32 + e.f (ek 3 31 0) else e.f (ek 0 31 0)
  decide (n < len) ||
  (op == 3 && (len == 0 || addr % 2 ^ (n - len) != 0 || !(s.tab 100 50 (lpmVrf f e)).on VRF.VALID))

/-- Whether a LIF-map key is out of range (spec/05, EXM tables). -/
def lifmapKeyBad (e : Entry) : Bool :=
  let kind := e.f (ek 0 31 30)
  kind == 3 || (kind == 0 && decide (47 < e.f (ek 0 29 24))) || (kind == 1 && e.f (ek 0 29 24) != 0) || (kind != 2 && e.f (ek 1 31 0) != 0) ||
    (kind == 2 && e.f (ek 0 29 0) != 0)

/-- Whether the fields of an entry of the control tables are out of range. -/
def ctrlBad (page table : Nat) (e : Entry) : Bool :=
  if page == 3 && table == 0 then qpBad e
  else if page == 3 && table == 1 then e.on QMAP.SPREAD && decide (4088 < e.f QMAP.QPAIR)
  else if page == 13 && table == 0 then e.f BFD.DETECT_MULT == 0
  else if page == 13 && table == 1 then [0, 6, 7].contains (e.f MEP.PERIOD)
  else if page == 13 && table == 2 then e.f FLOW.RETAIN_MS == 0 || decide (10000 < e.f FLOW.RETAIN_MS)
  else false

/-- Whether the fields of an entry of the forwarding tables are out of range. -/
def State.fwdBad (s : State) (page table op : Nat) (e : Entry) : Bool :=
  if page == 100 && table == 48 then s.routeKeyBad .lpm4 op e || (op == 3 && resultBad (e.f ROUTE.RESULT))
  else if page == 100 && table == 49 then s.routeKeyBad .lpm6 op e || (op == 3 && resultBad (e.f ROUTE.RESULT))
  else if page == 100 && table == 50 then resultBad (e.f VRF.DEF4) || resultBad (e.f VRF.DEF6)
  else if page == 101 && table == 0 then decide (3 < e.f ILM.ACTION) || resultBad (e.f ILM.RESULT)
  else if page == 101 && table == 2 then lifmapKeyBad e
  else if page == 102 && table == 1 then decide (0x100000 < e.f BD.LIMIT)
  else if page == 103 && table == 0 then e.f NH.KIND == 3 || e.f NH.QUEUE_BASE % 8 != 0 || (e.f NH.KIND != 0 && decide (0x80 ≤ e.f NH.REASON))
  else if page == 103 && table == 1 then decide (512 ≤ e.f GRP.SIZE_M1) || decide (1048576 < e.f GRP.BASE + e.f GRP.SIZE_M1 + 1)
  else false

/-- Whether a client entry is out of range (R105): a used client's number is 0x0001 to 0xFFFE, and a MAC serves at most one terminated client; DESIGN CHOICE (log entry 92): the WRITE of a
second ends with BAD_ENTRY. -/
def State.flxClientBad (s : State) (g i : Nat) (e : Entry) : Bool :=
  let mode := e.f (ed 0 31 30)
  mode == 3 || decide (48 ≤ e.f (ed 0 29 24)) || (mode != 0 && (e.f (ed 0 15 0) == 0 || e.f (ed 0 15 0) == 0xFFFF)) ||
  (mode == 1 && (s.tabIndices (64 + g) 4).any (fun j => j != i && (s.tab (64 + g) 4 j).f (ed 0 31 30) == 1 && (s.tab (64 + g) 4 j).f (ed 0 29 24) == e.f (ed 0 29 24)))

/-- Whether the fields of an entry of the classification and cross-connect tables are out of range (R116, R152, R165). -/
def State.frontBad (s : State) (page table i : Nat) (e : Entry) : Bool :=
  if page == 88 then e.f (ed 0 30 29) == 3 || (e.f (ed 0 30 29) == 1 && decide (3072 ≤ e.f (ed 0 11 0))) ||
    (e.f (ed 0 30 29) == 2 && (decide (1024 ≤ e.f (ed 0 11 0)) || decide (3072 ≤ i)))
  else if 64 ≤ page && page < 88 && table == 4 then s.flxClientBad (page - 64) i e
  else if page == 97 then (e.on PAT.FLOATING && decide (e.f PAT.END < e.f PAT.START)) || decide (5 < e.f PAT.BASE)
  else if (page == 98 || page == 99) && table == 0 then
    e.f TCE.WIDTH != s.quadMode (i / 16384) || e.f TCE.WIDTH == 3 || (e.tcValue &&& ((2 ^ 640 - 1) ^^^ e.tcMask)) != 0 ||
      decide (2 ^ widthBits (e.f TCE.WIDTH) ≤ e.tcValue) || decide (2 ^ widthBits (e.f TCE.WIDTH) ≤ e.tcMask)
  else if page == 104 && table == 0 then wordBad (e.actWord 1 0)
  else if page == 104 && table == 1 then e.lineWords.any wordBad
  else false

/-- Whether the fields of an entry of the TM-die tables are out of range. -/
def State.tmBad (s : State) (page table i : Nat) (e : Entry) : Bool :=
  if page == 145 then e.f PROF.HEAD_KEEP == 0 || decide (e.f PROF.SPILL_ON ≤ e.f PROF.HEAD_KEEP) || decide (e.f PROF.T1_STOP < e.f PROF.SPILL_ON + 128) ||
    decide (90112 < e.f PROF.HBM_LIMIT)
  else if page == 176 && table == 0 then e.f QE.CLASS == 3 || decide (e.f QE.MAX_LEN < 64) || decide (10240 < e.f QE.MAX_LEN)
  else if page == 176 && table == 1 then decide (e.f ADM.ECN_MAX ≤ e.f ADM.ECN_MIN) || decide (100 < e.f ADM.PMAX)
  else if page == 177 && table == 0 then e.on SCH.EN && decide (50 < i)
  else if page == 177 && table == 1 then decide (50 < e.f (ed 0 5 0))
  else if 180 ≤ page && page < 228 then table == 0 && decide (1000000000 < e.f (ed 1 29 0))
  else if page == 179 then e.f POL.MODE == 0 && decide (e.f POL.PIR < e.f POL.CIR)
  else if page == 240 && table == 1 then e.on dValid && (e.f (ed 1 7 0) == 0 || decide (160 < e.f (ed 1 7 0)))
  else if page == 240 && table == 2 then e.on dValid && (e.f (ed 0 7 0) == 0 || decide (160 < e.f (ed 0 7 0)) || e.f (ed 1 4 0) == 0 || decide (16 < e.f (ed 1 4 0)))
  else if page == 242 && table == 0 then decide (1048576 < e.f MCG.LIST_BASE + e.f MCG.LIST_LEN) ||
    decide (2 ^ (s.rd FAB_SYS_CFG.MAX_DEV + 1) ≤ e.ext.toNat)
  else false

/-- Whether WRITE or INSERT of an entry, or a keyed operation's key, ends with BAD_ENTRY. -/
def State.badEntry (s : State) (page table op i : Nat) (t : Tbl) (e : Entry) : Bool :=
  (if op == 2 || op == 3 then t.reservedSet e else t.reservedSet { key := e.key }) ||
  (if op == 2 || op == 3 then ctrlBad page table e || s.frontBad page table i e || s.tmBad page table i e else false) ||
  s.fwdBad page table op e

/-! ### Entries as a READ loads them -/

/-- An entry whose DATA words are given, word 0 first. -/
def dataEntry (l : List Nat) : Entry := { data := BitVec.ofNat 512 (l.zipIdx.foldl (fun a x => a + x.1 % 2 ^ 32 * 2 ^ (32 * x.2)) 0) }

/-- A peg record as PEG shows it (spec/16, RPR tables). -/
def Peg.entry (g : Peg) : Entry :=
  dataEntry [2 ^ 31 + g.kind % 16 * 2 ^ 27 + g.cls % 8 * 2 ^ 24 + g.unit % 256 * 2 ^ 16 + g.detail % 65536, g.serial, g.addr, g.time % 2 ^ 32, g.time / 2 ^ 32]

/-- A number of bytes in units, rounded up. -/
def unitsUp (n u : Nat) : Nat := (n + u - 1) / u

/-- A queue as QSTATE shows it (spec/07, BUF tables). -/
def State.queueEntry (s : State) (q : Nat) : Entry :=
  let x := s.qxAt q
  let packets := x.head ++ (x.mid.flatMap (fun g => g.pkts.map (fun y => y.1))) ++ x.tail
  dataEntry [b2n x.spill * 2 ^ 31 + b2n x.blocked * 2 ^ 30 + b2n x.sticky * 2 ^ 29 + b2n x.grnDrain * 2 ^ 28 + b2n x.starve * 2 ^ 27 + (s.tab 176 0 q).f QE.BUF_PROFILE,
    x.t1, unitsUp x.hbm 1024, unitsUp x.grn (2 ^ 20), x.mid.length, (match packets with | p :: _ => p.stamp / 64 | [] => 0), unitsUp x.granted 1024]

/-- The slot whose received units RXMAP shows (spec/19, UPD table 0). -/
def State.rxSlot (s : State) : Nat := s.updTarget (s.reg 8 0x200)

/-- Entry `i` of RXMAP: bit u is 1 when unit 32 i + u has been received. -/
def State.rxMapEntry (s : State) (i : Nat) : Entry :=
  dataEntry [(List.range 32).foldl (fun a u => if (s.imgUnitAt (s.rxSlot * 32768 + 32 * i + u)).isEmpty then a else a + 2 ^ u) 0]

/-- The trace record in a slot of the on-chip buffer (R612). -/
def State.traceSlot (s : State) (slot : Nat) : Option TraceRec := s.traceBuf[(slot + 2048 - s.rd TRC_BUF_STAT.HEAD) % 2048]?

/-- The physical row of a bank, in the places that an ENTRY gives its value and mask (ASM table 2): the bits it holds, and of a bank that is not powered and loaded
a free value (R157, R162). -/
def State.rowEntry (s : State) (g : Nat) : Entry :=
  let b := g / 4096
  let h := s.tcRowEntry b (g % 4096)
  let e := s.tab (tcPage h) 0 h
  let k := 160 * (b - h / 4096)
  let x := if s.bankReady b then (e.tcValue / 2 ^ k % 2 ^ 160 + e.tcMask / 2 ^ k % 2 ^ 160 * 2 ^ 160 + b2n (e.on TCE.VALID) * 2 ^ 320) ^^^ s.tcFlipAt g
    else Config.lostRow g s.mono
  { key := BitVec.ofNat 256 (bits160 x 0), data := BitVec.ofNat 512 (b2n (bitOf x 320) * 2 ^ 31), ext := BitVec.ofNat 1024 (bits160 x 1 * 2 ^ 384) }

/-- The links that reach a device, as REACH shows them (spec/09, FAB table 0). -/
def State.reachEntry (s : State) (d : Nat) : Entry :=
  { data := BitVec.ofNat 512 ((List.range 144).foldl (fun a l => if s.linkReaches l d then a + 2 ^ l else a) 0) }

/-- The number of prefixes of both families in a VRF (R198). -/
def State.vrfCount (s : State) (v : Nat) : Nat :=
  ((s.famEntries .lpm4).filter (fun x => lpmVrf .lpm4 x.2.2 == v)).length + ((s.famEntries .lpm6).filter (fun x => lpmVrf .lpm6 x.2.2 == v)).length

/-- An entry as a READ loads it; none at an erased position of the JNL tables. -/
def State.view (s : State) (page table i : Nat) : Option Entry :=
  if page == 6 then (if table == 0 then s.jnlRecentAt i else s.jnlUnitsAt i).map JRec.entry
  else if page == 8 then some (s.rxMapEntry i)
  else if page == 9 && table == 1 then some (match s.pegStore.1[i]? with | some g => g.entry | none => {})
  else if page == 10 then some (dataEntry [s.counter table i % 2 ^ 32, s.counter table i / 2 ^ 32])
  else if page == 11 then some { ext := BitVec.ofNat 1024 (match s.traceSlot (i / 8) with
    | some r => ofBytesLE (((r.bytes false).drop (128 * (i % 8))).take 128) | none => 0) }
  else if (page == 98 || page == 99) && table == 2 then some (s.rowEntry i)
  else if page == 100 && (table < 43 || table == 51 || table == 52) then
    some (match s.tab? page table i with
      | some e => (e.put (ee 0 31 26) (if table < 43 then 21 + table else 0x3F)).put (ee 0 18 0) i
      | none => {})
  else if page == 100 && table == 50 then some ((s.tab page table i).put (ed 3 31 0) (s.vrfCount i))
  else if page == 102 && table == 1 then some ((s.tab page table i).put (ed 2 20 0) (s.learnedBd i))
  else if page == 145 && table == 0 then some (s.queueEntry i)
  else if page == 178 then some ((s.tab page table i).put (ed 3 31 28) (b2n (s.paced (nodeKey table i)) * 8 + s.pacedCause (nodeKey table i)))
  else if page == 240 && table == 0 then some (s.reachEntry i)
  else some (s.tab page table i)

/-- Whether a queue holds a packet. -/
def QX.holds (x : QX) : Bool := !x.head.isEmpty || !x.mid.isEmpty || !x.tail.isEmpty

/-- Whether an entry is valid, for DELETE and for the HIT of a READ: its VALID bit; where a table has none, whether it has been written. -/
def State.entryValid (s : State) (page table i : Nat) (t : Tbl) : Bool :=
  match t.valid with
  | some f => ((s.view page table i).getD {}).on f
  | none =>
    if 64 ≤ page && page < 88 then (s.tab page table i).f (ed 0 31 30) != 0
    else if page == 3 || (page == 98 && table == 4) then (s.tab page table i).on dValid
    else if page == 4 then (s.tab page table i).f INST.STATE != 0
    else if page == 145 && table == 0 then (s.qxAt i).holds
    else if page == 177 || page == 178 then (s.tab page table i).data.toNat != 0
    else match s.view page table i with
      | some e => if page < 98 || page == 240 then e != {} else (s.tab? page table i).isSome
      | none => false

/-- The indices among which NEXT looks: those that something is stored at. -/
def State.nextKeys (s : State) (page table : Nat) : List Nat :=
  if page == 6 then (if table == 0 then s.jnlRecent else s.jnlUnits).map Prod.fst
  else if page == 8 then List.range 1024
  else if page == 9 && table == 0 then (List.range 768).filter (fun i => decide (i % 128 < classUnits (i / 128)))
  else if page == 9 then List.range s.pegStore.1.length
  else if page == 10 then (s.counters.filter (fun kv => kv.1 / 2 ^ 24 == table)).map (fun kv => kv.1 % 2 ^ 24)
  else if page == 145 && table == 0 then s.qx.map Prod.fst
  else if page == 240 && table == 0 then List.range 1024
  else if page == 4 then 0 :: s.tabIndices page table
  else s.tabIndices page table

/-- The first valid entry above an index. -/
def State.nextIndex (s : State) (page table i : Nat) (t : Tbl) : Option Nat :=
  (s.nextKeys page table).foldl (fun a k =>
    if decide (i < k) && decide (k < t.size) && (page == 9 || s.entryValid page table k t) && (match a with | some b => decide (k < b) | none => true) then some k else a) none

/-! ### Poisoned words (R559) -/

/-- The table of poisonIn's numbering that a direct table of the lookup memory is. -/
def directTable (page table : Nat) : Option Nat :=
  if page == 101 && table == 0 then some 0 else if page == 101 && table == 1 then some 1 else if page == 103 && table < 3 then some (2 + table) else none

/-- The bank, byte offset and length of an entry of a direct table (R175). -/
def directPlace (t i : Nat) : Nat × Nat × Nat :=
  if t == 0 then (i * 8 / 2 ^ 22, i * 8 % 2 ^ 22, 8)
  else if t == 1 then (2, i * 64, 64)
  else if t == 2 then (3 + i * 16 / 2 ^ 22, i * 16 % 2 ^ 22, 16)
  else if t == 3 then (19, i * 64, 64)
  else (20, i * 4 / 8 * 8, 8)

/-- The bank, byte offset and length of the bucket that a slot of a keyed table lies in; none for a stash slot. -/
def State.keyedPlace (s : State) (page table i : Nat) : Option (Nat × Nat × Nat) :=
  if page == 100 && table < 43 then
    (let f : Fam := if s.rd (LPM_MEM_USE.USE (21 + table)) == 2 then .lpm6 else .lpm4
     some (21 + table, i / f.per * (2 ^ 22 / f.buckets), 2 ^ 22 / f.buckets))
  else if page == 101 && table == 2 && i < 0x3FF800 then some ((s.famBanks .lifmap).getD (i / 262144) 0, i % 262144 / 4 * 64, 64)
  else if page == 102 && table == 0 && i < 0x3FF800 then some ((s.famBanks .mac).getD (i / 327680) 0, i % 327680 / 5 * 64, 64)
  else none

/-- The memory words of an entry of the lookup memory. -/
def State.place (s : State) (page table i : Nat) : Option (Nat × Nat × Nat) :=
  match directTable page table with
  | some t => some (directPlace t i)
  | none => s.keyedPlace page table i

/-- Whether an entry lies in a poisoned word: an operation that reads it ends with MEM_ERROR. -/
def State.entryPoison (s : State) (page table i : Nat) : Bool :=
  match s.place page table i with
  | some (b, o, n) => s.poisonIn b o n
  | none => false

/-- Writing an entry again ends its poisoning. -/
def cureEntry (page table i : Nat) : Prog := .look fun s =>
  match s.place page table i with
  | some (b, o, n) => each (List.range (n / 8)) (fun w => .put (.poisoned (b * 2 ^ 19 + o / 8 + w) false))
  | none => .skip

/-! ### DENIED -/

/-- The client of a FlexE group holds a position in a calendar in use (R112). -/
def State.clientHeld (s : State) (page i : Nat) : Bool :=
  [if s.rd (FLX_CAL_CTRL.TX_C (page - 64)) == 0 then 0 else 1, if s.rd (FLX_CAL_CTRL.RX_C (page - 64)) == 0 then 2 else 3].any
    (fun t => (s.tabIndices page t).any (fun k => (s.tab page t k).on dValid && (s.tab page t k).f (ed 0 6 0) == i))

/-- The packets a second that the sessions and MEPs of SVC tables 0 and 1 transmit, in 10^-6 packet, with the entry of one index of a table
replaced (R442). -/
def State.svcLoad (s : State) (table i : Nat) (e : Entry) : Nat :=
  let at_ (t k : Nat) : Entry := if t == table && k == i then e else s.tab 13 t k
  let keys (t : Nat) : List Nat := if t == table && !(s.tabIndices 13 t).contains i then i :: s.tabIndices 13 t else s.tabIndices 13 t
  (keys 0).foldl (fun a k => a + if (at_ 0 k).on BFD.VALID then 10 ^ 12 / bfdUs ((at_ 0 k).f BFD.MIN_TX) else 0) 0 +
  (keys 1).foldl (fun a k => a + if (at_ 1 k).on MEP.VALID then 10 ^ 15 / max 1 (ccmPeriod ((at_ 1 k).f MEP.PERIOD)) else 0) 0

/-- Whether a queue beneath a node of a level holds a packet. -/
def State.nodeHolds (s : State) (lvl n : Nat) : Bool := s.qx.any (fun kv => kv.2.holds && (s.path kv.1).any (fun x => x.1 == lvl && x.2 == n))

/-- Whether an operation that changes an entry ends with DENIED by its table's access rule; `e` is the entry as it would stand. -/
def State.denied (s : State) (page table op i master : Nat) (e : Entry) : Bool :=
  let old := s.tab page table i
  if page == 3 && table == 0 then s.qpDenied i e
  else if page == 4 then i == 0 || (old.f INST.STATE != 0 && [INST.QP_BASE, INST.QP_COUNT, INST.VEC_BASE, INST.VEC_COUNT, INST.PASID].any (fun x => e.f x != old.f x))
  else if page == 5 then !isManager master
  else if page == 13 && table < 2 then op == 2 && e.on dValid && decide (8000000000000 < s.svcLoad table i e) && decide (s.svcLoad table i old < s.svcLoad table i e)
  else if 64 ≤ page && page < 88 && table < 2 then s.rd (FLX_CAL_CTRL.TX_C (page - 64)) == table  -- DESIGN CHOICE (log entry 77): in a disabled group too
  else if 64 ≤ page && page < 88 && table < 4 then s.rd (FLX_CAL_CTRL.RX_C (page - 64)) == table - 2
  else if 64 ≤ page && page < 88 then s.clientHeld page i
  else if page == 88 && table == 0 then s.xcCopyAt.isSome || s.rd XC_STAT.PEND == 1
  else if page == 100 && table == 50 then op == 4 && s.vrfCount i != 0
  else if page == 176 && table == 0 then e.f QE.CLASS != old.f QE.CLASS && (s.qxAt i).holds
  else if page == 177 && 1 ≤ table && table < 4 then
    let parent := ed 0 (if table == 1 then 5 else if table == 2 then 9 else 13) 0
    e.f parent != old.f parent && (old.on SCH.EN || s.nodeHolds table i)
  else false

end Sys2Proof.Machine
end

