-- ==== Sys2Proof/Machine/Update.lean ====
section
/-!
DEFINITION. The UPD commands: download, VERIFY, ACTIVATE, CONFIRM, REVERT, ABORT, REVOKE and the configuration snapshots (spec/19_update_and_store.md R624 to R638).
-/
namespace Sys2Proof.Machine

/-! ### UPD commands -/

/-- A UPD command is accepted: it runs until UPD_CMD_DONE. -/
def updStart (u : UpdOp) : Prog := .andThen (.put (.updOp (some u))) (.andThen (setF UPD_CMD_STAT.BUSY 1) (setF UPD_CMD_STAT.DONE 0))

/-- A UPD command that ends with a result. -/
def updEnds (op result : Nat) : Prog := updStart { op := op, result := result }

/-- A UPD command that writes CONTROL and ends when the record stands. -/
def updControl (op after bits : Nat) (c : Control) : Prog := .andThen (storePush (.control c bits after)) (updStart { op := op, waits := true })

/-- An image is rejected (R627): the reason shown, the slot EMPTY, the message and the interrupt. -/
def updReject (op slot reason : Nat) : Prog := .look fun s => seqs [
  setF UPD_REJECT.REASON reason,
  storePush (.control (s.ctlNext.setSlot slot {}) 0 0),
  report 8 0x20 0,
  raise 8 17,
  updStart { op := op, result := 3, waits := true }]

/-- BEGIN (R629, R637): the slot is erased when its record PARTIAL stands. -/
def updBegin (data : Word) : Prog := .look fun s =>
  let c := s.ctlNext
  let rec_ := s.rd DEV_STAT.RECOVERY == 1
  let t := if rec_ then fieldOf data 25 25 else s.updTarget data
  let total := fieldOf data 15 0
  if (!rec_ && (c.slot c.boot).st == 4) || (rec_ && (c.slot t).st == 5) then updEnds 1 1
  else if total == 0 || 32768 < total then updEnds 1 2
  else seqs [
    setF UPD_DL_STAT.RECEIVED 0,
    setF UPD_DL_STAT.TOTAL total,
    onlyIf rec_ (.put (.updSlot (some t))),
    updControl 1 (3 + t) 0 (c.setSlot t { st := 1, total := total })]

/-- The units of a list of bytes, 4,096 bytes each. -/
def unitsOf : Nat → List Byte → List (List Byte)
  | 0, _ => []
  | n + 1, l => l.take 4096 :: unitsOf n (l.drop 4096)

/-- The slot record that a header gives a slot. -/
def slotOfHeader (h : List Nat) (st total : Nat) : ImgSlot :=
  { st := st, type := h.getD 6 0, keySlot := h.getD 7 0, svn := leAt h 24 2, version := leAt h 16 4, total := total }

/-- BLOCK (R627, R629): the bytes fetched are `bytes`; fewer than asked for means a DMA error, a timeout or containment. -/
def updBlock (data : Word) (bytes : List Byte) (badReads : Nat) : Prog := .look fun s =>
  let c := s.ctlNext
  let t := s.updTarget data
  let off := s.rd UPD_DL_BLOCK.OFFSET_4K
  let len := s.rd UPD_DL_BLOCK.LEN_4K
  let total := (c.slot t).total
  let have0 := !(s.imgUnitAt (t * 32768)).isEmpty
  let addr := s.rd UPD_DL_ADDR_LO.reg + s.rd UPD_DL_ADDR_HI.reg * 2 ^ 32
  if (c.slot t).st != 1 then updEnds 2 1
  else if len == 0 || 256 < len || total < off + len || (off != 0 && !have0) ||
      (List.range len).any (fun i => !(s.imgUnitAt (t * 32768 + off + i)).isEmpty) then updEnds 2 2
  else .andThen (onlyIf (s.dmaOn 0) (hostSend (.dmaRead 0 addr (4096 * len) {}))) (
    if !s.dmaOn 0 || bytes.length != 4096 * len then updEnds 2 4
    else if 2 ≤ badReads then seqs [report 8 0x21 2, raise 8 3, raise 8 21, updEnds 2 7]
    else .andThen
      (each (unitsOf len bytes).zipIdx (fun x => .put (.imgUnit (t * 32768 + off + x.2) x.1)))
      (.andThen (setF UPD_DL_STAT.RECEIVED (s.rd UPD_DL_STAT.RECEIVED + len)) (.look fun u =>
        let reason := if off == 0 then u.imageReason t total else if u.keyrecBad t then 7 else 0
        if reason != 0 then updReject 2 t reason
        else if u.rd UPD_DL_STAT.RECEIVED == total then
          updControl 2 0 0 (c.setSlot t (slotOfHeader (u.imgBytes t 0 1024) 2 total))
        else updEnds 2 0)))

/-- VERIFY (R630). -/
def updVerify (data : Word) : Prog := .look fun s =>
  let c := s.ctlNext
  let t := s.updTarget data
  if (c.slot t).st != 2 then updEnds 3 1
  else
    let r := s.verifyReason t
    if r != 0 then updReject 3 t r else updControl 3 0 0 (c.setSlot t { c.slot t with st := 3 })

/-- The KEYREC section of a slot's image (R624): the target key slot, then the public key. -/
def State.keyrec (s : State) (slot : Nat) : List Nat :=
  match (headerSections (s.imgBytes slot 0 1024)).find? (fun y => y.type == 4) with
  | some y => s.imgBytes slot (1024 + y.off) 98
  | none => []

/-- ACTIVATE (R624, R625, R631). -/
def updActivate (m : Nat) (data : Word) : Prog := .look fun s =>
  let c := s.ctlNext
  let t := s.updTarget data
  let x := c.slot t
  let keyrec := s.keyrec t
  let k := keyrec.getD 0 0
  if x.st != 3 then updEnds 4 1
  else if x.type == 3 then
    let r := if s.gateResult false == 0 then 0 else 6
    .andThen
      (gated 8 m 4 k r (
        let h := some (Config.sha384 (keyrec.drop 1))
        let c1 := if k == 1 then { c with key1 := h } else if k == 2 then { c with key2 := h } else { c with key3 := h }
        updControl 4 0 0 (c1.setSlot t {})))
      (onlyIf (r != 0) (updEnds 4 6))
  else
    let c1 := { c with boot := t, fallback := c.boot }.setSlot t { x with st := 4, tries := 3 }
    updControl 4 (if x.type == 1 then 1 else 2) (2 ^ 18) c1

/-- CONFIRM (R626, R635). -/
def updConfirm : Prog := .look fun s =>
  let c := s.ctlNext
  let b := c.boot
  let x := c.slot b
  let floor := leAt (s.imgBytes b 0 1024) 26 2 % 2 == 1
  if x.st != 4 || s.roll.isSome then updEnds 5 1
  else updControl 5 0 (2 ^ 20) { c.setSlot b { x with st := 5, tries := 0 } with minSvn := if floor then max c.minSvn x.svn else c.minSvn }

/-- REVOKE (R625, R641): key slots 1 to 3, under presence. -/
def updRevoke (m : Nat) (data : Word) : Prog := .look fun s =>
  let c := s.ctlNext
  let k := fieldOf data 17 16
  let r := if s.gateResult false != 0 then 6 else if k == 0 then 1 else 0
  .andThen
    (gated 8 m 8 k r (updControl 8 0 0 { c with revoked := withBit c.revoked k true }))
    (onlyIf (r != 0) (updEnds 8 r))

/-- Whether a table entry was made by software: all but MAC entries that the device learned (R638; MAC DATA1 bit STATIC). -/
def softwareMade (k : Nat) (e : Entry) : Bool := k / 2 ^ 22 != 102 * 64 || e.on (ed 0 31 31)

/-- The bits of a register that software configures. -/
def rwBits (k : Nat) : Word := match declAt (k / 65536) (k % 65536) with | some d => BitVec.ofNat 32 d.rw | none => 0

/-- The part of a table entry that software made: its writable fields, hit and stale bits and what the device keeps in it left out (R638). -/
def State.madePart (s : State) (k : Nat) (e : Entry) : Option Entry :=
  match s.tbl (k / 2 ^ 28) (k / 2 ^ 22 % 64) with
  | some t => if t.rw.isEmpty || !softwareMade k e then none else some (e.cut t.rw)
  | none => none

/-- The snapshot of the present configuration (R638). -/
def State.snapshotNow (s : State) : SnapRec :=
  let kept (l : List (Nat × Word)) : List (Nat × Word) := (l.filter (fun kv => rwBits kv.1 != 0)).map (fun kv => (kv.1, kv.2 &&& rwBits kv.1))
  { regs := kept s.regs, units := kept s.units,
    tables := s.tables.filterMap (fun kv => (kv.2.bind (s.madePart kv.1)).map (fun e => (kv.1, e))),
    jseq := s.jnlSeq, major := (s.ctl.slot s.ctl.boot).version / 2 ^ 24 }

/-- SNAP_SAVE (R638). -/
def updSnapSave : Prog := .look fun s =>
  let k := if bitOf s.ctlNext.marked 0 then 1 else 0
  let r := s.snapshotNow
  if 320 * 2 ^ 20 < 8 * (r.regs.length + r.units.length) + 232 * r.tables.length then seqs [
    .put (.snapSlot k none), setBitF (if k == 0 then UPD_SNAP_STAT.SNAP0 else UPD_SNAP_STAT.SNAP1) 3 false, updEnds 9 8]
  else .andThen (storePush (.snap k r)) (updStart { op := 9, waits := true })

/-- SNAP_MARK and SNAP_CLEAR (R638): one snapshot at most is marked. -/
def updSnapMark (mark : Bool) (data : Word) : Prog := .look fun s =>
  let k := fieldOf data 24 24
  let c := s.ctlNext
  if mark && (s.snapSlotAt k).isNone then updEnds 10 1
  else updControl (if mark then 10 else 11) 0 0
    { c with marked := if mark then 2 ^ k else withBit c.marked k false }

/-- A command that a power-fail warning refuses ends with PF_WARN (R637); a presence-gated one makes its record (R642). -/
def updPowerFail (m op : Nat) (data : Word) : Prog := .look fun s =>
  let t := s.updTarget data
  .andThen
    (if op == 8 then gated 8 m 8 (fieldOf data 17 16) 5 .skip
     else onlyIf (op == 4 && (s.ctlNext.slot t).st == 3 && (s.ctlNext.slot t).type == 3) (gated 8 m 4 ((s.keyrec t).getD 0 0) 5 .skip))
    (updEnds op 5)

/-- A command written to UPD_CMD (R637): from PF0 and the main core; discarded while BUSY; the commands that write the store end with PF_WARN
during a power-fail warning. -/
def updCmd (m : Nat) (data : Word) (bytes : List Byte) (badReads : Nat) : Prog := .look fun s =>
  let op := fieldOf data 31 28
  let pf := s.rd DEV_STAT.PF_WARN == 1 && [1, 2, 3, 4, 5, 8, 9, 10, 11].contains op
  if s.updOp.isSome then .skip
  else if pf then updPowerFail m op data
  else if op == 0 then updEnds 0 0
  else if op == 1 then updBegin data
  else if op == 2 then updBlock data bytes badReads
  else if op == 3 then updVerify data
  else if op == 4 then updActivate m data
  else if op == 5 then updConfirm
  else if op == 6 then (if (s.ctlNext.slot s.ctlNext.boot).st == 4 then .andThen revertTrial (updStart { op := 6, waits := true }) else updEnds 6 1)
  else if op == 7 then
    (let t := s.updTarget data
     updControl 7 0 0 (s.ctlNext.setSlot t {}))
  else if op == 8 then updRevoke m data
  else if op == 9 then updSnapSave
  else if op == 10 then updSnapMark true data
  else if op == 11 then updSnapMark false data
  else updEnds op 1

/-- UPD_CMD_DONE (R637): a command that waits for nothing more ends with its result. -/
def execUpdCmdDone (s : State) : Host.Outcome State Fault Refusal := command .updCmdDone updDone s

end Sys2Proof.Machine
end

