-- ==== Sys2Proof/Machine/TableOps.lean ====
section
/-!
DEFINITION. Table commands (spec/02_register_pages.md R73 to R80, R691 to R693): the window's lock, the operations and their results, what a written
entry does in its block, and the end of an operation.
-/
namespace Sys2Proof.Machine

/-! ### What a written entry does -/

/-- A BFD entry is written (R445 to R447): a session that becomes valid starts Down, ADMIN_DOWN takes it to AdminDown and back, and a changed timer of an
Up session starts a poll sequence during which the older intervals stay. -/
def bfdWritten (i : Nat) (old e : Entry) : Prog := .look fun s =>
  let x := s.bfdXAt i
  if !e.on BFD.VALID then .andThen (setTab 13 0 i ((e.put BFD.STATE 0).put BFD.REMOTE_DISC 0 |>.put BFD.LOCAL_DIAG 0)) (.put (.bfdX i {}))
  else if !old.on BFD.VALID then .andThen
    (setTab 13 0 i ((e.put BFD.STATE (if e.on BFD.ADMIN_DOWN then 0 else 1)).put BFD.REMOTE_DISC 0 |>.put BFD.LOCAL_DIAG (if e.on BFD.ADMIN_DOWN then 7 else 0)))
    (.put (.bfdX i { due := s.mono }))
  else seqs [
    setTab 13 0 i e,
    onlyIf (old.f BFD.STATE == 3 && (old.f BFD.MIN_TX != e.f BFD.MIN_TX || old.f BFD.MIN_RX != e.f BFD.MIN_RX)) (.put (.bfdX i { x with
      poll := true, due := s.mono
      txUs := if x.txUs != 0 then x.txUs else bfdUs (old.f BFD.MIN_TX)
      rxUs := max x.rxUs (max (bfdUs (old.f BFD.MIN_RX)) (bfdUs (e.f BFD.MIN_RX))) })),
    onlyIf (e.on BFD.ADMIN_DOWN && !old.on BFD.ADMIN_DOWN) (bfdState i 0 7),
    onlyIf (!e.on BFD.ADMIN_DOWN && old.on BFD.ADMIN_DOWN) (bfdState i 1 0)]

/-- A MEP entry is written (R448, R449): a MEP that becomes valid starts without defects. -/
def mepWritten (i : Nat) (old e : Entry) : Prog := .look fun s =>
  if e.on MEP.VALID && old.on MEP.VALID then setTab 13 1 i e
  else .andThen (setTab 13 1 i (e.put MEP.DEFECTS 0)) (.put (.mepX i (if e.on MEP.VALID then { due := s.mono, okAt := s.mono } else {})))

/-- A FLOW entry is written: a change of SSRC, QUEUE or TIER of a valid entry clears the flow's store, as its end does (spec/12, SVC tables). -/
def flowWritten (i : Nat) (old e : Entry) : Prog :=
  let same := [FLOW.SSRC, FLOW.QUEUE, FLOW.TIER].all (fun x => old.f x == e.f x)
  .andThen (onlyIf (old.on FLOW.VALID && !(e.on FLOW.VALID && same)) (rtxClear i)) (setTab 13 2 i e)

/-- A MERGE entry is written: a change of a leg of a valid entry restarts the group (spec/12, SVC tables). -/
def mergeWritten (i : Nat) (old e : Entry) : Prog := .look fun s =>
  let same := [MRG.PORT_A, MRG.PORT_B, MRG.SSRC_A, MRG.SSRC_B].all (fun x => old.f x == e.f x)
  if e.on MRG.VALID && old.on MRG.VALID then
    .andThen (setTab 13 3 i e) (onlyIf (!same) (.put (.mergeX i { s.mergeXAt i with started := false, marks := [], stale := 0 })))
  else .andThen (setTab 13 3 i (((e.put MRG.H 0).put MRG.LEG_A_OK 0).put MRG.LEG_B_OK 0)) (.put (.mergeX i {}))

/-- A line of action memory is written: its eight words are replaced together (R165). -/
def lineWritten (i : Nat) (e : Entry) : Prog := .andThen (setTab 104 1 i e)
  (each e.lineWords.zipIdx (fun w => setTab 104 0 (8 * i + w.2)
    (dataEntry [w.1 / 2 ^ 96 % 2 ^ 32, w.1 / 2 ^ 64 % 2 ^ 32, w.1 / 2 ^ 32 % 2 ^ 32, w.1 % 2 ^ 32])))

/-- The line entry that eight words make (ACT table 1). -/
def State.lineEntry (s : State) (i : Nat) : Entry :=
  let w (k : Nat) : List Nat := (List.range 4).map (fun j => (s.tab 104 0 (8 * i + k)).f ⟨1, 32 * j + 31, 32 * j⟩)
  let lo := dataEntry (w 0 ++ w 1 ++ w 2 ++ w 3)
  let hi := dataEntry (w 4 ++ w 5 ++ w 6 ++ w 7)
  { data := lo.data, ext := BitVec.ofNat 1024 hi.data.toNat }

/-- An instance's transmit meter has filled at the rate in force until now (R504). -/
def settleTx (i : Nat) : Prog := .look fun s => .put (.vinst i { s.vinstAt i with used := (s.txMeter i).2, usedAt := s.mono })

/-- An entry of an indexed table takes its place, with what that does in its block. -/
def tblPut (page table i : Nat) (old e : Entry) : Prog :=
  if page == 3 && table == 0 then qpApply i e
  else if page == 4 && table == 0 then seqs [settleTx i, setTab page table i e, cureEntry page table i]
  else if page == 13 && table == 0 then bfdWritten i old e
  else if page == 13 && table == 1 then mepWritten i old e
  else if page == 13 && table == 2 then flowWritten i old e
  else if page == 13 && table == 3 then mergeWritten i old e
  else if (page == 98 || page == 99) && table == 0 then .andThen (setTab page table i (e.put TCE.SHADOW_BAD 0)) (rowsWritten i)
  else if page == 104 && table == 1 then lineWritten i e
  else if page == 178 then seqs [settleNode table i, onlyIf (table == 4) (settleMeter i), setTab page table i e, cureEntry page table i]
  else if page == 177 && (1 ≤ table && table < 4) && old.f SCH.PARENT % (if table == 1 then 64 else if table == 2 then 1024 else 16384) != e.f SCH.PARENT % (if table == 1 then 64 else if table == 2 then 1024 else 16384) then
    seqs [.look fun s => settlePort (s.nodePort (nodeKey table i)), setTab page table i e, cureEntry page table i]
  else if page == 179 then .andThen (polWritten i e) (setTab page table i (e.put POL.FILL 0))
  else if 64 ≤ page && page < 88 && table == 4 then .andThen (setTab page table i e) (clientWritten (page - 64) i old e)
  else if page == 240 && table == 2 then seqs [setTab page table i e, onlyIf (e != old) (seqs [.put (.slotBuf i []), .put (.slotPlay i (none, 0, 0))])]
  else .andThen (setTab page table i e) (cureEntry page table i)

/-- An entry of an indexed table as a READ finds it; a line of action memory is its eight words. -/
def State.entryAt (s : State) (page table i : Nat) : Option Entry := if page == 104 && table == 1 then some (s.lineEntry i) else s.view page table i

/-! ### The end of an operation and its window -/

/-- An operation has been carried out: its results wait for the end of BUSY (R77). -/
def tblEnd (page : Nat) (o : TblOp) (result : Nat) (hit : Bool) (idx jseq : Nat) : Prog :=
  .put (.tblOp page (some { o with result := result, hit := hit, resIndex := idx, jseq := jseq, waits := false }))

/-- READ, SEARCH and NEXT load KEY, DATA and EXT (R79). -/
def tblLoad (page : Nat) (e : Entry) : Prog := .put (.tblWin page e)

/-- With RETURN_OLD, the previous entry is loaded into DATA and EXT (R79). -/
def tblLoadOld (page : Nat) (o : TblOp) (old : Entry) : Prog := .look fun s =>
  onlyIf (bitOf o.opt 1) (.put (.tblWin page { s.tblWinAt page with data := old.data, ext := old.ext }))

/-- A change with its record (R49, R52, R657): the record is accepted and the change takes effect with its SEQ in JSEQ, or the operation waits for it.  `place`
is the table and index of the entry that the record's AUX covers as it reads after the change.  JSEQ of a change before the START record shows 0: DESIGN CHOICE (log entry 79). -/
def tblChange (page : Nat) (o : TblOp) (idx : Nat) (hit : Bool) (r : JRec) (place : Option (Nat × Nat)) (p : Prog) : Prog := .look fun s =>
  let r := match place with
    | some x => { r with aux := entryAux ((p.run s).entryAt page x.1 x.2) }
    | none => r
  if s.jnlAccepts r then seqs [acceptRecord r, p, tblEnd page o 0 hit idx s.jnlSeq]
  else .andThen (.put (.tblOp page (some { o with waits := true })))
    (.put (.jnlHeld (s.jnlHeld ++ [{ what := 1, master := o.master, page := page, off := 0x100, record := r, at_ := s.mono }])))

/-- The word of a table command. -/
def TblOp.word (o : TblOp) : Nat := o.op * 2 ^ 28 + o.table * 2 ^ 22 + o.index

/-- An uncorrectable error in an entry that the operation reads ends it with MEM_ERROR, recorded with kind 0x009. -/
def tblMemError (page : Nat) (o : TblOp) (i : Nat) : Prog := .andThen
  (reportError page 2 1 (o.table * 2 ^ 22 + i) o.master 2 9 o.word) (tblEnd page o 0x0A false 0 0)

/-- READ, and NEXT at the entry it found (R79, R217): `hit` is what HIT shows. -/
def tblRead (page : Nat) (o : TblOp) (i : Nat) (hit : Bool) : Prog := .look fun s =>
  if s.entryPoison page o.table i then tblMemError page o i
  else
    match s.entryAt page o.table i with
    | none => .andThen (.put (.tblWin page { s.tblWinAt page with data := 0 })) (tblEnd page o 1 false 0 0)
    | some e => seqs [
        tblLoad page e,
        onlyIf (page == 102 && o.table == 0 && bitOf o.opt 2 && e.on MAC.HIT) (setTabF 102 0 i MAC.HIT 0),
        tblEnd page o 0 hit i 0]

/-- WRITE at an index of a table (R78, R79).  HIT shows whether the entry was valid before: DESIGN CHOICE (log entry 79). -/
def tblWrite (page : Nat) (o : TblOp) (t : Tbl) : Prog := .look fun s =>
  let old := (s.entryAt page o.table o.index).getD {}
  let e := (o.staged.cut t.rw).join (old.cut t.ro)
  if s.denied page o.table 2 o.index o.master e then
    .andThen (onlyIf (page == 13) (raise 13 18)) (tblEnd page o 9 false 0 0)
  else if bitOf o.opt 1 && s.entryPoison page o.table o.index then tblMemError page o o.index
  else tblChange page o o.index (s.entryValid page o.table o.index t) (tableRecord o.master page o.table 2 o.index 0 s)
    (some (o.table, o.index)) (.andThen (tblPut page o.table o.index old e) (tblLoadOld page o old))

/-- The entry that is left at an index of an indexed table after DELETE: written invalid (R691). -/
def Tbl.invalid (t : Tbl) (e : Entry) : Entry := match t.valid with | some f => e.put f 0 | none => e.put (ed 0 31 30) 0

/-- DELETE at an index of an indexed table (R691). -/
def tblDeleteAt (page : Nat) (o : TblOp) (t : Tbl) : Prog := .look fun s =>
  let old := (s.entryAt page o.table o.index).getD {}
  if s.denied page o.table 4 o.index o.master (t.invalid (s.tab page o.table o.index)) then tblEnd page o 9 false 0 0
  else if !s.entryValid page o.table o.index t then tblEnd page o 1 false 0 0
  else if s.entryPoison page o.table o.index then tblMemError page o o.index
  else tblChange page o o.index true (tableRecord o.master page o.table 4 o.index 0 s)
    none (.andThen (tblPut page o.table o.index old (t.invalid (s.tab page o.table o.index))) (tblLoadOld page o old))

/-- DELETE on CRY's OPEN table (R582, R589, R590): only PF0, the main core and JTAG clear, and not while the cause persists; the record is FAULT_CLEAR. -/
def tblClear (o : TblOp) : Prog := .look fun s =>
  let i := o.index
  let e := s.tab 5 0 i
  let page := s.openPageAt i
  let kind := e.f OPEN.KIND
  if !isManager o.master then tblEnd 5 o 9 false 0 0
  else if (s.tab? 5 0 i).isNone then tblEnd 5 o 1 false 0 0
  else if s.causePersists page kind (e.f OPEN.ADDR_LO + e.f OPEN.ADDR_HI * 2 ^ 32) then
    .andThen (clearRefused 5 0x100 kind i o.master o.word) (tblEnd 5 o 9 false 0 0)
  else tblChange 5 o i true (clearRecord 5 0x100 kind i o.master 0 s) none (.andThen (closeOpen i) (tblLoadOld 5 o e))

/-! ### Keyed tables -/

/-- The family of a keyed table. -/
def keyFam (page table : Nat) : Option Fam :=
  if page == 100 && table == 48 then some .lpm4
  else if page == 100 && table == 49 then some .lpm6
  else if page == 101 && table == 2 then some .lifmap
  else if page == 102 && table == 0 then some .mac
  else none

/-- Whether a family has a length filter. -/
def Fam.lpm (f : Fam) : Bool := f = .lpm4 || f = .lpm6

/-- INSERT (R178 to R180, R213): a new key takes the place that the placement finds; a present key is replaced or ends the command with EXISTS. -/
def tblInsert (page : Nat) (o : TblOp) (t : Tbl) (f : Fam) : Prog := .look fun s =>
  let e := o.staged.cut t.rw
  let record (x : Nat × Nat) : JRec := tableRecord o.master page o.table 3 x.2 0 s
  match s.findKey f (f.keyOf e) with
  | some x =>
    let old := s.tab page x.1 x.2
    if !bitOf o.opt 0 then tblEnd page o 2 true x.2 0
    else
      let v := if f = .mac then (e.put MAC.HIT (old.f MAC.HIT)).put MAC.STALE (old.f MAC.STALE) else e
      tblChange page o x.2 true (record x) (some x) (seqs [setTab page x.1 x.2 v, cureEntry page x.1 x.2, tblLoadOld page o ((s.view page x.1 x.2).getD {})])
  | none =>
    match s.placement f (f.keyOf e) with
    | none => tblEnd page o 3 false 0 0
    | some (path, free) =>
      let x := chainTarget path free
      tblChange page o x.2 false (record x) (some x) (seqs [
        chainWrites f path free e, cureEntry page x.1 x.2, onlyIf f.lpm (.andThen (filterAdd f e) (rebuildStart f))])

/-- DELETE of a keyed table (R691, R193). -/
def tblDeleteKey (page : Nat) (o : TblOp) (f : Fam) : Prog := .look fun s =>
  let key := f.keyOf o.staged
  if s.keyPoison f key then tblMemError page o 0
  else
    match s.findKey f key with
    | none => tblEnd page o 1 false 0 0
    | some x => tblChange page o x.2 true (tableRecord o.master page o.table 4 x.2 0 s) none (seqs [
        .put (.tables (tabKey page x.1 x.2) none),
        tblLoadOld page o ((s.view page x.1 x.2).getD {}),
        onlyIf f.lpm (.andThen (.put (.lpmDels f.code (s.lpmDelsAt f.code + 1))) (rebuildStart f))])

/-- The slot that the longest-prefix lookup of a key's address finds, with no pass limit (spec/05, tables 48 and 49). -/
def State.longest (s : State) (f : Fam) (e : Entry) : Option (Nat × Nat) :=
  let v6 : Bool := f = .lpm6
  let addr := if v6 then e.f (ek 0 31 0) * 2 ^ 96 + e.f (ek 1 31 0) * 2 ^ 64 + e.f (ek 2 31 0) * 2 ^ 32 + e.f (ek 3 31 0) else e.f (ek 0 31 0)
  (s.lpmCandidates v6 (lpmVrf f e) addr).findSome? (fun l => s.findKey f (lpmKey f (lpmVrf f e) l (maskAddr v6 l addr)))

/-- SEARCH of a keyed table (R79). -/
def tblSearchKey (page : Nat) (o : TblOp) (f : Fam) : Prog := .look fun s =>
  let key := f.keyOf o.staged
  if s.keyPoison f key then tblMemError page o 0
  else
    match (if f.lpm && lpmLen f o.staged == 0 then s.longest f o.staged else s.findKey f key) with
    | none => tblEnd page o 1 false 0 0
    | some x => .andThen (tblLoad page ((s.view page x.1 x.2).getD {})) (tblEnd page o 0 true x.2 0)

/-- SEARCH and NEXT of ASM's STEP table (R163): the entries that match the key in KEY0-7 and EXT0-11, from the one above INDEX.  The spec does not say what STEP finds with a profile whose
EN is 0 or that R155 has disabled; DESIGN CHOICE (log entry 93): it searches all the same. -/
def tblStep (o : TblOp) : Prog := .look fun s =>
  let key := o.staged.key.toNat + fieldOf o.staged.ext 383 0 * 2 ^ 256
  match (s.tcMatches (s.cfg ASM_STEP.PROFILE) key).find? (fun g => o.op == 5 || decide (o.index < g)) with
  | none => tblEnd 98 o 1 false 0 0
  | some g => .andThen
      (tblLoad 98 { o.staged with data := BitVec.ofNat 512 (fieldOf (s.tab (tcPage g) 0 g).data 63 0) })
      (tblEnd 98 o 0 true g 0)

/-! ### Carrying out an operation (R692) -/

/-- An operation that meets no refusal before DENIED. -/
def tblCarry (page : Nat) (o : TblOp) (t : Tbl) : Prog := .look fun s =>
  if page == 88 && o.table == 0 && s.denied 88 0 o.op o.index o.master {} then tblEnd page o 9 false 0 0
  else if page == 98 && o.table == 3 then tblStep o
  else
    match keyFam page o.table with
    | some f =>
      if o.op == 3 then tblInsert page o t f
      else if o.op == 4 then tblDeleteKey page o f
      else if o.op == 5 then tblSearchKey page o f
      else if o.op == 1 then tblRead page o o.index (s.tab? page o.table o.index).isSome
      else match s.nextIndex page o.table o.index t with
        | some i => tblRead page o i true
        | none => tblEnd page o 1 false 0 0
    | none =>
      if o.op == 1 then tblRead page o o.index (s.entryValid page o.table o.index t)
      else if o.op == 2 then tblWrite page o t
      else if o.op == 4 then (if page == 5 then tblClear o else tblDeleteAt page o t)
      else match s.nextIndex page o.table o.index t with
        | some i => tblRead page o i true
        | none => tblEnd page o 1 false 0 0

/-- The refusals that are tested before DENIED, in the order of R692: BAD_TABLE, ILLEGAL_OP, BAD_INDEX and BAD_ENTRY. -/
def State.tblRefusal (s : State) (page : Nat) (o : TblOp) : Option Nat :=
  if o.op == 0 then none
  else
    match s.tbl page o.table with
    | none => some 5
    | some t =>
      let keyedOp := t.keyed && (o.op == 3 || o.op == 4 || o.op == 5)
      if !t.ops.contains o.op then some 6
      else if !keyedOp && o.op != 5 && s.badIndex page o.table t o.op o.index o.staged then some 4
      else if (keyedOp || o.op == 2) && s.badEntry page o.table o.op o.index t o.staged then some 7
      else none

/-- An accepted operation is carried out; the first refusal in the order of R692 ends it. -/
def tblRun (page : Nat) (o : TblOp) : Prog := .look fun s =>
  match s.tblRefusal page o, s.tbl page o.table with
  | some r, _ => tblEnd page o r false 0 0
  | none, some t => if o.op == 0 then tblEnd page o 0 false 0 0 else tblCarry page o t
  | none, none => tblEnd page o 0 false 0 0

/-- An operation that a takeover touched ends: with ABORTED, unless the operation meets a refusal, which comes first (R692).  DENIED is found by carrying the operation out and
looking at its result. -/
def tblAbort (page : Nat) (o : TblOp) : Prog := .look fun s =>
  match (((tblRun page o).run s).tblOpAt page).map (fun x => x.result) with
  | some r => tblEnd page o (if 4 ≤ r && r ≤ 9 then r else 0x0B) false 0 0
  | none => .skip

/-- Whether an operation is carried out as BUSY ends: those that a takeover can still end with ABORTED while BUSY, on TCAM entries and rows (R161) and on queues,
nodes and shapers (R557), and those on payload patterns, which match as before until DONE (R147). -/
def tblDeferred (page table : Nat) : Bool :=
  ((page == 98 || page == 99) && (table == 0 || table == 2)) || page == 97 || (page == 176 && table == 0) || page == 177 || page == 178

/-- A bank that the operation touches is being loaded for a takeover (R161). -/
def State.loadTouches (s : State) (page : Nat) (o : TblOp) : Bool :=
  (page == 98 || page == 99) && o.op != 0 && s.rd ASM_SPARE_STAT.COPYING == 1 && s.touchesBank (s.rd ASM_SPARE_STAT.LOGICAL) o

/-- A TBL_CMD write (R73, R76, R77): discarded from a master without the lock or while BUSY, else accepted; FREEZE ends it with FROZEN (R57). -/
def tblCommand (m page word : Nat) : Prog := .look fun s =>
  if s.rd (TBL_LOCK.HELD page) == 0 || s.rd (TBL_LOCK.OWNER page) != m then accessError page 0x100 1 m 4 word
  else if s.rd (TBL_STAT.BUSY page) == 1 then .andThen (setF (TBL_STAT.OVERRUN page) 1) (accessError page 0x100 2 m 5 word)
  else
    let o : TblOp := { op := word / 2 ^ 28, table := word / 2 ^ 22 % 64, index := word % 2 ^ 22, master := m, staged := s.tblWinAt page,
                       opt := (s.reg page 0x108).toNat }
    seqs [
      setReg page 0x100 (BitVec.ofNat 32 word),
      setReg page 0x104 0x80000000,
      setF (BLK_STAT.TBL_BUSY page) 1,
      (if s.rd (BLK_CTRL.FREEZE page) == 1 then tblEnd page o 8 false 0 0
       else if s.loadTouches page o then .put (.tblOp page (some { o with result := 0x0B, waits := true }))
       else if tblDeferred page o.table then .put (.tblOp page (some { o with waits := true }))
       else tblRun page o)]

/-- The results of an operation are shown: RESULT, HIT, RES_INDEX and JSEQ, then BUSY clears and DONE and TBL_DONE are set (R77, R693). -/
def tblPublish (page : Nat) (o : TblOp) : Prog := .look fun s => seqs [
  setReg page 0x104 (BitVec.ofNat 32 (2 ^ 30 + b2n o.hit * 2 ^ 29 + s.rd (TBL_STAT.OVERRUN page) * 2 ^ 28 + o.result)),
  setReg page 0x10C (BitVec.ofNat 32 o.resIndex),
  setReg page 0x110 (BitVec.ofNat 32 (o.jseq % 2 ^ 32)),
  setReg page 0x114 (BitVec.ofNat 32 (o.jseq / 2 ^ 32)),
  setF (BLK_STAT.TBL_BUSY page) 0,
  .put (.tblOp page none),
  raise page 1]

/-- TBL_OP_DONE (R77, R80): the operation in progress on a page ends; one that waits for its record stays BUSY (R52). -/
def execTblOpDone (page : Nat) (s : State) : Host.Outcome State Fault Refusal :=
  command (.tblOpDone page) (.look fun s =>
    match s.tblOpAt page with
    | none => .skip
    | some o => .andThen
        (onlyIf (o.waits && !s.jnlHeld.any (fun h => h.what == 1 && h.page == page)) (if o.result == 0x0B then tblAbort page o else tblRun page o))
        (.look fun t => match t.tblOpAt page with | some o => onlyIf (!o.waits) (tblPublish page o) | none => .skip)) s

/-! ### The lock -/

/-- A read of TBL_LOCK grants the window if it is free or already held by the reader (R73); the register keeps the holder. -/
def lockRead (m page : Nat) : Prog := .look fun s =>
  onlyIf (s.rd (TBL_LOCK.HELD page) == 0 || s.rd (TBL_LOCK.OWNER page) == m) (setReg page 0x118 (BitVec.ofNat 32 (2 ^ 30 + m)))

/-- A write of TBL_LOCK: RELEASE frees the window its writer holds; FORCE_RELEASE frees it for PF0 and the main core (R62, R73). -/
def lockWrite (m page data : Nat) : Prog := .look fun s =>
  .andThen
    (onlyIf (bitOf data 17) (if m == 0 || m == 0x2000 then setReg page 0x118 0 else accessError page 0x118 1 m 0xA data))
    (onlyIf (bitOf data 16 && s.rd (TBL_LOCK.HELD page) == 1 && s.rd (TBL_LOCK.OWNER page) == m) (setReg page 0x118 0))

end Sys2Proof.Machine
end

