-- ==== Sys2Proof/Machine/View.lean ====
section
/-!
DEFINITION. What a read of a register returns (spec/02_register_pages.md R39, R43, R44, R48, R57, R68): the registers that show state held elsewhere,
the frozen status view, the view of shadowed registers, and the LO/HI latches.
-/
namespace Sys2Proof.Machine

/-- A register with fields replaced by what they show now. -/
def showing (w : Word) (l : List (Fld × Nat)) : Word := l.foldl (fun a x => setFieldOf a x.1.hi x.1.lo x.2) w

/-- Word `w` of the oldest record of a FIFO whose words are given; 0 when the FIFO is empty. -/
def fifoWord (l : List Nat) (w : Nat) : Word := BitVec.ofNat 32 (l[w]?.getD 0)

/-- A measured field (Config.measured; log entry 6). -/
def State.measure (s : State) (x : Fld) : Nat := fieldOf (Config.measured (regKey x.page x.off) s.mono) x.hi x.lo

/-! ### Registers that show state held elsewhere -/

/-- The class of R541 whose units a page's block shows in BLK_STAT.SPARED (R546). -/
def sparedClass (page : Nat) : Option Nat :=
  if 112 ≤ page && page ≤ 128 then some clsPipe
  else if page == 13 then some clsScore
  else if page == 98 || page == 99 then some clsTcam
  else if page == 100 then some clsLkup
  else if page == 256 then some clsD2d
  else none

/-- BLK_STAT.SPARED (R546). -/
def State.spared (s : State) (page : Nat) : Bool :=
  match sparedClass page with
  | none => false
  | some c =>
    let away (u : Nat) : Bool := s.unit c u UNIT.HOME_VALID == 1 && (s.holder c (s.unit c u UNIT.HOME)).any (fun v => v != u)
    (if c == clsPipe then away (page - 112) else c == clsScore && (List.range 9).any away) || (s.inProgress c).isSome || s.isDegraded c

/-- Whether a block holds work in progress (BLK_STAT.IDLE, R53, R56): a table command that is BUSY on the page, and what the units of the block have begun. -/
def State.working (s : State) (page : Nat) : Bool :=
  (hasWindow page && s.rd (TBL_STAT.BUSY page) == 1) ||
  (if 16 ≤ page && page < 64 then
    let p := page - 16
    (s.rxNowAt p).isSome || (s.txNowAt p).isSome || !(s.rxFifoAt p).isEmpty || !(s.macQAt p).isEmpty || !(s.txHoldAt p).isEmpty || s.rd (PORT_MOD_CMD.BUSY p) == 1
  else if 64 ≤ page && page < 88 then (s.flxExAt (page - 64)).step != 0
  else if page == 88 then s.xcArm.isSome || s.xcCopyAt.isSome
  else if page == 98 || page == 99 then s.tcamLoad.any (fun kv => kv.2.isSome)
  else if page == 100 then s.rd LPM_STAT.BUILD4 == 1 || s.rd LPM_STAT.BUILD6 == 1
  else if page == 102 then s.learnQ.any (fun kv => !kv.2.isEmpty)
  else if 112 ≤ page && page ≤ 128 then
    let u := page - 112
    !(s.recQAt u).isEmpty || !(s.upQAt u).isEmpty || !(s.egQAt u).isEmpty ||
      (s.role clsPipe u == 1 && !(s.inQAt (s.unit clsPipe u UNIT.LOGICAL)).isEmpty)
  else if page == 144 || page == 145 then s.bufs.any (fun kv => kv.2.held != 0)
  else if page == 176 then s.flushing.isSome || s.qx.any (fun kv => !kv.2.head.isEmpty || !kv.2.mid.isEmpty || !kv.2.tail.isEmpty)
  else if 180 ≤ page && page < 228 then (s.gateXAt (page - 180)).pend.isSome
  else if page == 240 then s.reqs.any (fun kv => kv.2.isSome) || s.stg.any (fun kv => !kv.2.isEmpty)
  else if page == 242 then !s.stgMc.isEmpty || s.mcOut.any (fun kv => kv.2 != 0)
  else if 148 ≤ page && page < 152 then s.rd (HBMC_STAT.STATE (page - 148)) == 1 || !(s.memXAt (page - 148)).repairing.isEmpty
  else if 152 ≤ page && page < 168 then
    s.rd (DDRC_STAT.STATE (page - 152)) == 1 || s.rd (DDRC_STAT.STATE (page - 152)) == 2 || s.rd (DDRC_SPD_CMD.BUSY (page - 152)) == 1 || !(s.memXAt (page - 148)).repairing.isEmpty
  else if page == 256 then (List.range 18).any (fun k => !(s.dieQAt k).isEmpty || !(s.dieReadAt k).isEmpty)
  else if page == 2 || page == 3 then s.qpx.any (fun kv => !kv.2.reads.isEmpty) || s.hostQ.any (fun kv => !kv.2.isEmpty)
  else if page == 4 then s.rd VIRT_CMD_STAT.BUSY == 1
  else if page == 5 then s.cryQueue.any (fun kv => !kv.2.isEmpty) || !s.fatalQ.isEmpty
  else if page == 6 then s.jnlAwait != 0 || !s.jnlPre.isEmpty
  else if page == 7 then s.rd PPR_CMD_STAT.BUSY == 1
  else if page == 8 then s.updOp.isSome || !s.storeQ.isEmpty
  else if page == 9 then s.rd RPR_CMD_STAT.BUSY == 1 || s.recov.any (fun kv => !kv.2.isEmpty)
  else if page == 10 then s.snap.isSome
  else if page == 11 then !s.traceBuf.isEmpty
  else if page == 13 then
    !s.svcRx.isEmpty || !s.mergeQ.isEmpty || s.svcQ.any (fun kv => !kv.2.isEmpty) || s.recX.any (fun kv => kv.2.job != 0) || s.flowX.any (fun kv => !kv.2.reads.isEmpty)
  else false)

/-- BLK_STAT: SPARED, COMMIT_PEND and FROZEN copy what other registers and the repair controller show; IDLE reads 1 while the block holds no work in
progress and no drain is awaited (R56; log entry 31). -/
def State.blkStat (s : State) (page : Nat) (w : Word) : Word := showing w [
  (BLK_STAT.IDLE page, if s.working page then 0 else s.rd (BLK_STAT.IDLE page)),
  (BLK_STAT.SPARED page, b2n (s.spared page)),
  (BLK_STAT.COMMIT_PEND page, s.rd (BLK_COMMIT_STAT.PENDING page)),
  (BLK_STAT.FROZEN page, s.rd (BLK_CTRL.FREEZE page))]

/-- PIPE_STAT, PIPE_LOAD and PIPE_BUCKETS of physical pipeline `u`. -/
def State.pipeView (s : State) (u off : Nat) (w : Word) : Word :=
  let l := s.unit clsPipe u UNIT.LOGICAL
  let held := s.role clsPipe u == 1
  if off == 0x200 then showing w [
    (PIPE_STAT.ROLE u, s.role clsPipe u), (PIPE_STAT.LOGICAL u, if held then l else 0x1F), (PIPE_STAT.GEN u, s.unit clsPipe u UNIT.GEN)]
  else if off == 0x204 then showing w [
    (PIPE_LOAD.IG_QLEN u, if held then (s.inQAt l).length else 0), (PIPE_LOAD.RECIRC_QLEN u, (s.recQAt u).length), (PIPE_LOAD.EG_QLEN u, (s.egQAt u).length)]
  else if off == 0x208 then showing w [
    (PIPE_BUCKETS.COUNT u, if held then ((List.range 256).filter (fun k => s.bucketPipe k == l)).length else 0)]
  else w

/-- The registers of the parish register that show its rings (R657, R659, R662, R663). -/
def State.jnlView (s : State) (off : Nat) (w : Word) : Word :=
  if off == 0x200 then BitVec.ofNat 32 s.jnlSeq
  else if off == 0x204 then BitVec.ofNat 32 (s.jnlSeq / 2 ^ 32)
  else if off == 0x208 then showing w [(JNL_RING_STAT.FREE, s.jnlFree)]
  else if off == 0x20C then showing w [
    (JNL_PERSIST_STAT.WRITING, b2n (!s.jnlWriting.isEmpty)), (JNL_PERSIST_STAT.WAITING, b2n (!s.storeRuns)), (JNL_PERSIST_STAT.PEND, s.jnlAwait)]
  else if off == 0x22C then showing w [(JNL_BACKLOG.HELD, (s.jnlBacklog.filter (fun r => decide (s.jnlNext ≤ r.seq))).length)]
  else w

/-- The registers of PTP that show device time and MONO, and the timestamp FIFO (R416, R417, R432). -/
def State.ptpView (s : State) (off : Nat) (w : Word) : Word :=
  if off == 0x200 then BitVec.ofNat 32 s.ns
  else if off == 0x204 then BitVec.ofNat 32 s.sec
  else if off == 0x208 then showing w [(PTP_NOW_HI.FRAC, s.frac), (PTP_NOW_HI.SEC_HI, s.sec / 2 ^ 32)]
  else if off == 0x210 then BitVec.ofNat 32 s.mono
  else if off == 0x214 then BitVec.ofNat 32 (s.mono / 2 ^ 32)
  else if off == 0x274 then showing w [(PTP_TSF_STAT.LEVEL, s.tsf.length)]
  else if 0x280 ≤ off && off < 0x290 then
    match s.tsf with
    | (port, msg, dom, seq, sec, ns) :: _ =>
      fifoWord [port * 2 ^ 26 + msg * 2 ^ 22 + dom * 2 ^ 14, seq * 2 ^ 16 + sec / 2 ^ 32 % 2 ^ 16, sec, ns] ((off - 0x280) / 4)
    | [] => 0
  else w

/-- The registers of SVC that show the budget, the notifications and the cores (R442, R446). -/
def State.svcView (s : State) (off : Nat) (w : Word) : Word :=
  if off == 0x204 then showing w [(SVC_BUDGET.USED_KPPS, (s.svcLoad 2 0 {} + 10 ^ 9 - 1) / 10 ^ 9)]
  else if off == 0x210 then showing w [(SVC_NTF_STAT.LEVEL, s.svcNtf.length)]
  else if 0x220 ≤ off && off < 0x230 then
    match s.svcNtf with
    | (a, b, t) :: _ => fifoWord [a, b, t, t / 2 ^ 32] ((off - 0x220) / 4)
    | [] => 0
  else if 0x1000 ≤ off && off < 0x1024 then
    let n := (off - 0x1000) / 4
    showing w [(SVC_CORE_STAT.ROLE n, s.role clsScore n), (SVC_CORE_STAT.GEN n, s.unit clsScore n UNIT.GEN), (SVC_CORE_STAT.LOAD n, min 100 (s.measure (SVC_CORE_STAT.LOAD n)))]
  else w

/-- Bits of a number, one for each element of a list that holds. -/
def bitsOf (n : Nat) (p : Nat → Bool) : Nat := (List.range n).foldl (fun a k => if p k then a + 2 ^ k else a) 0

/-- The registers of RPR that show the units and the recoveries (R541, R552, R569, R571). -/
def State.rprView (s : State) (off : Nat) (w : Word) : Word :=
  if off == 0x20C then showing w [
    (RPR_STAT.NO_SPARE, bitsOf 6 (fun c => (s.spares c).isEmpty)), (RPR_STAT.RECOVERING, bitsOf 6 (fun c => (s.inProgress c).isSome))]
  else if off == 0x220 then showing w [(RPR_EVT_STAT.LEVEL, s.rprEvt.length)]
  else if 0x230 ≤ off && off < 0x240 then
    match s.rprEvt with
    | (a, b, t) :: _ => fifoWord [a, b, t, t / 2 ^ 32] ((off - 0x230) / 4)
    | [] => 0
  else if 0x1000 ≤ off && off < 0x1060 && off % 16 == 0 then
    let c := (off - 0x1000) / 16
    let of (r : Nat) : Nat := ((List.range (classUnits c)).filter (fun u => s.role c u == r)).length
    showing w [
      (RPR_CLASS_STAT.WORKING c, of 1), (RPR_CLASS_STAT.SPARES c, (s.spares c).length),
      (RPR_CLASS_STAT.QUEUED c, ((s.recovAt c).filter (fun r => !r.running)).length), (RPR_CLASS_STAT.FAILED c, of 5)]
  else w

/-- The registers of the keyed tables that count entries (R178, R187, R211). -/
def State.keyedView (s : State) (page off : Nat) (w : Word) : Word :=
  if page == 100 then
    if off == 0x208 then showing w [(LPM_STAT.STASH6_USED, s.stashCount .lpm6), (LPM_STAT.STASH4_USED, s.stashCount .lpm4)]
    else if off == 0x210 then showing w [(LPM_COUNT4.VALUE, s.famCount .lpm4)]
    else if off == 0x214 then showing w [(LPM_COUNT6.VALUE, s.famCount .lpm6)]
    else w
  else if page == 101 then
    if off == 0x240 then showing w [(EXM_STAT.LIFMAP_COUNT, s.famCount .lifmap)]
    else if off == 0x248 then showing w [(EXM_STASH.STASH_USED, s.stashCount .lifmap)]
    else w
  else
    if off == 0x208 then showing w [(L2B_COUNT.ENTRIES, s.famCount .mac)]
    else if off == 0x210 then showing w [(L2B_NTF_STAT.LEVEL, s.l2bNtf.length)]
    else if off == 0x214 then showing w [(L2B_STASH.STASH_USED, s.stashCount .mac)]
    else if 0x220 ≤ off && off < 0x230 then
      match s.l2bNtf with
      | (a, b, c, d) :: _ => fifoWord [a, b, c, d] ((off - 0x220) / 4)
      | [] => 0
    else if 0x1004 ≤ off && (off - 0x1004) % 8 == 0 && off < 0x1004 + 8 * 64 then showing w [(L2B_PORT_COUNT.COUNT ((off - 0x1004) / 8), s.learnedPort ((off - 0x1004) / 8))]
    else w

/-- The registers of the backup domain and the presence controller that run with the RTC and the window (R639, R646). -/
def State.pprView (s : State) (off : Nat) (w : Word) : Word :=
  if off == 0x204 then showing w [(PPR_STAT.LEFT_S, match s.winEnd with | some t => (t - s.mono + 999999999) / 1000000000 | none => 0)]
  else if off == 0x220 then BitVec.ofNat 32 s.rtcSec
  else if off == 0x224 then showing w [(BKP_RTC_HI.TICKS, s.rtcNs % 1000000000 * 32768 / 1000000000), (BKP_RTC_HI.SEC_HI, s.rtcSec / 2 ^ 32)]
  else w

/-- The fault collector's log (R581). -/
def State.cryView (s : State) (off : Nat) (w : Word) : Word :=
  if off == 0x210 then showing w [(CRY_LOG_STAT.LEVEL, s.cryLog.length)]
  else if 0x220 ≤ off && off < 0x238 then
    match s.cryLog with
    | (m, t) :: _ => fifoWord [m.bits / 2 ^ 96, m.bits / 2 ^ 64 % 2 ^ 32, m.bits / 2 ^ 32 % 2 ^ 32, m.bits % 2 ^ 32, t, t / 2 ^ 32] ((off - 0x220) / 4)
    | [] => 0
  else w

/-- Cells of the last 1 ms, per TM clock of 0.8 ns, times 8 (XBAR_STAT, R368). -/
def State.perClock (s : State) (l : List (Nat × Nat)) : Nat := min 255 (rateSum l s.mono * 8 / 1250000)

/-- The fabric interface: unreachable devices and open requests (R343, R350). -/
def State.fabView (s : State) (off : Nat) (w : Word) : Word :=
  if off == 0x214 then showing w [(FAB_UNREACH.COUNT,
    ((List.range (s.rd FAB_SYS_CFG.MAX_DEV + 1)).filter (fun d => d != s.rd FAB_DEV_ID.ID && !s.reachable d)).length)]
  else if off == 0x218 then showing w [
    (FAB_OUTSTANDING.REQ_OUT, (s.reqs.filter (fun kv => kv.2.any (fun r => r.pkts.any (fun y => y.2 == none || y.2 == some 1)))).length),
    (FAB_OUTSTANDING.GRANTS_HELD, s.recs.foldl (fun a kv => a + match kv.2 with | some r => (r.pkts.filter (fun p => p.verdict == 0 || p.verdict == 5)).length | none => 0) 0)]
  else w

/-- The die-to-die modules and the requests on the link (R14, R29). -/
def State.d2dView (s : State) (off : Nat) (w : Word) : Word :=
  let out (l : List Nat) : Nat := l.foldl (fun a k => a + s.dieAccepted k) 0
  if off == 0x200 then showing w [(D2D_MOD_STAT.MOD_UP, bitsOf 28 (fun m => s.role clsD2d m == 1 || s.role clsD2d m == 2))]
  else if off == 0x204 then showing w [(D2D_MOD_ROLE.SPARE, bitsOf 28 (fun m => s.role clsD2d m == 2))]
  else if off == 0x210 then showing w [(D2D_XREQ_STAT.TM2FE_OUT, out (List.range 13)), (D2D_XREQ_STAT.FE2TM_OUT, out [13, 14, 15, 16, 17])]
  else w

/-- Registers that read what a sensor measures (log entry 6). -/
def State.measuredView (s : State) (page off : Nat) (w : Word) : Word :=
  let l : List Fld :=
    if 64 ≤ page && page < 88 && off == 0x254 then [FLX_SKEW.SKEW_NS (page - 64)]
    else if 148 ≤ page && page < 152 && off == 0x210 then [HBMC_STAT.TEMP_C (page - 148)]
    else if 152 ≤ page && page < 168 && 0x228 ≤ off && off < 0x260 && (off - 0x228) % 16 == 0 then [DDRC_MOD.TEMP_C (page - 152) ((off - 0x228) / 16)]
    else if page == 257 && off == 0x208 then [PWR_RAILS.VIN12_MV, PWR_RAILS.VSB33_MV]
    else if page == 257 && off == 0x20C then [PWR_POWER.PEAK_W, PWR_POWER.AVG_W]
    else []
  showing w (l.map (fun x => (x, s.measure x)))

/-- The register at an offset of a page, with what it shows of state held elsewhere. A WO register reads 0 (R43). -/
def State.live (s : State) (page off : Nat) : Word :=
  let w := s.reg page off
  if off == 0x00C then s.blkStat page w
  else if off == 0x018 || off == 0x040 then 0
  else if off < 0x200 then w
  else if 112 ≤ page && page ≤ 128 then s.pipeView (page - 112) off w
  else if page == 1 then
    (if off == 0x214 then showing w [(DEV_SLOT.PINS, s.slotPins)]
     else if off == 0x218 then BitVec.ofNat 32 Config.serialNumber.toNat
     else if off == 0x21C then BitVec.ofNat 32 (Config.serialNumber.toNat / 2 ^ 32) else w)
  else if page == 5 then s.cryView off w
  else if page == 6 then s.jnlView off w
  else if page == 7 then s.pprView off w
  else if page == 8 then
    (if off == 0x230 then showing w [(UPD_BOOT.TRIAL_LEFT_S, match s.confirmEnd with | some t => (t - s.mono + 999999999) / 1000000000 | none => 0)]
     else if off == 0x240 then showing w [(UPD_STORE_STAT.SUSPENDED, s.rd DEV_STAT.PF_WARN), (UPD_STORE_STAT.MAX_ERASES, s.erases.foldl (fun a kv => max a kv.2) 0)] else w)
  else if page == 9 then s.rprView off w
  else if page == 12 then s.ptpView off w
  else if page == 13 then s.svcView off w
  else if page == 98 then
    (if off == 0x210 then showing w [(ASM_SPARE_STAT.SPARE_PHYS, ((List.range 33).find? (fun u => s.role clsTcam u == 2)).getD 0x20)] else w)
  else if 100 ≤ page && page ≤ 102 then s.keyedView page off w
  else if page == 178 then
    (if off == 0x200 then showing w [(SHP_MILL_STAT.NODES, s.pacedNodes)] else w)
  else if page == 146 then
    (if off == 0x218 then showing w [(GRN_RATE.IN_GBPS, rateGbps s.grnIn s.mono), (GRN_RATE.OUT_GBPS, rateGbps s.grnOut s.mono)] else w)
  else if page == 240 then s.fabView off w
  else if page == 241 then
    (if off == 0x204 then showing w [(XBAR_STAT.MATCH_AVG, s.perClock s.xbMoved), (XBAR_STAT.PRIV_AVG, s.perClock s.xbPrivMoved)] else w)
  else if page == 256 then s.d2dView off w
  else s.measuredView page off w

/-! ### Reads -/

/-- The bits of a register that FREEZE holds (R57): BLK_STAT[31:8] and the block's own status fields, counts apart. -/
def statusBits (page off : Nat) : Word :=
  if off == 0x00C then 0xFFFFFF00
  else if off < 0x200 then 0
  else match declAt page off with
    | some d => BitVec.ofNat 32 d.st
    | none => 0

/-- What the registers of a page show, apart from latches and FREEZE: of a shadowed register the shadow or, with VIEW_ACTIVE, what the units use, until DONE the value
before the commit (R68). -/
def State.showsNow (s : State) (page off : Nat) : Word :=
  if isShadowed page off && s.rd (BLK_CTRL.VIEW_ACTIVE page) == 1 then
    (if s.rd (BLK_COMMIT_STAT.PENDING page) == 1 then s.beforeAt (regKey page off) else s.unitsAt (regKey page off))
  else s.live page off

/-- What the registers of a page show, apart from latches: while FREEZE is 1 the status fields hold the frozen view (R57). -/
def State.shows (s : State) (page off : Nat) : Word :=
  let w := s.showsNow page off
  let m := statusBits page off
  if s.rd (BLK_CTRL.FREEZE page) == 1 then (w &&& ~~~m) ||| (s.frozenAt (regKey page off) &&& m) else w

/-- Every offset at which a register of a declaration stands. -/
def RegDecl.offs (d : RegDecl) : List Nat := (List.range d.c1).flatMap (fun i => (List.range d.c2).map (fun j => d.off + i * d.s1 + j * d.s2))

/-- FREEZE takes effect (R57): the page's status view is what its status fields show at this instant. -/
def freezeView (page : Nat) : Prog := .look fun s =>
  let ds : List RegDecl := match blockOf page with
    | some b => (declsOf b.name).filter (fun d => d.st != 0 && d.page ≤ page && page < d.page + d.pages)
    | none => []
  .andThen (.put (.frozen (regKey page 0x00C) (s.live page 0x00C)))
    (each (ds.flatMap RegDecl.offs) (fun off => .put (.frozen (regKey page off) (s.showsNow page off))))

/-- The words of the table command window's staging registers, as its offset names them (R78). -/
def Entry.word (e : Entry) (off : Nat) : Word :=
  if off < 0x140 then BitVec.ofNat 32 (e.f (ek ((off - 0x120) / 4) 31 0))
  else if off < 0x180 then BitVec.ofNat 32 (e.f (ed ((off - 0x140) / 4) 31 0))
  else BitVec.ofNat 32 (e.f (ee ((off - 0x180) / 4) 31 0))

/-- The offsets that a read of an offset latches (R44): HI of a LO/HI pair; PTP_NOW_NS latches both other words of device time (spec/11, PTP_NOW_NS). -/
def latchesOf (page off : Nat) : List Nat :=
  let lo : List Nat :=
    if page == 1 then [0x218] else if page == 5 then [0x260, 0x280] else if page == 6 then [0x200, 0x214, 0x224, 0x230]
    else if page == 7 then [0x210, 0x220] else if page == 8 then [0x210, 0x258, 0x260] else if page == 10 then [0x208, 0x220]
    else if page == 11 then [0x208, 0x210] else if page == 12 then [0x204, 0x210, 0x22C, 0x268] else if page == 88 then [0x208]
    else if page == 98 then [0x218] else if page == 101 then (List.range 8).map (fun k => 0x200 + 8 * k) else if page == 146 then [0x210]
    else if 180 ≤ page && page < 228 then [0x210, 0x230] else if page == 242 then [0x208, 0x210] else []
  if page == 12 && off == 0x200 then [0x204, 0x208]
  else if ([0x20, 0x30] ++ (if hasWindow page then [0x110] else []) ++ lo).contains off then [off + 4]
  else []

/-- The key of a master's latch and held LO write on a page (R44, R45). -/
def pairKey (m page : Nat) : Nat := page * 65536 + m

/-- A read of the last word of a FIFO's oldest entry removes the entry (CRY_LOG, L2B_NTF, RPR_EVT, SVC_NTF and PTP_TSF; R218, R432, R446, R552, R581). -/
def popRead (page off : Nat) : Prog := .look fun s =>
  if page == 5 && off == 0x234 then .put (.cryLog (s.cryLog.drop 1))
  else if page == 102 && off == 0x22C then .put (.l2bNtf (s.l2bNtf.drop 1))
  else if page == 9 && off == 0x23C then .put (.rprEvt (s.rprEvt.drop 1))
  else if page == 13 && off == 0x22C then .put (.svcNtf (s.svcNtf.drop 1))
  else if page == 12 && off == 0x28C then .put (.tsf (s.tsf.drop 1))
  else .skip

/-- A read of a register by a master that reaches it, with the value handed to `k`: a latched HI is returned once, a LO latches its HI (R44); a page that
start-up has not brought up reads 0, but for the directory (R48), and a reserved page reads 0 and is captured by DEV (R39). -/
def regRead (m page off : Nat) (k : Word → Prog) : Prog := .look fun s =>
  if !s.reaches m then .skip
  else if (blockOf page).isNone then .andThen (reportError 1 0 0 (page * 65536 + off) m 0 1 0) (k 0)
  else if page != 0 && !s.blkUpAt page then k 0
  else
    let latched := s.hiLatchAt (pairKey m page)
    let pairs := latchesOf page off
    let value : Word :=
      if 0x120 ≤ off && off < 0x200 then (if hasWindow page then (s.tblWinAt page).word off else 0)
      else if off == 0x118 then (if hasWindow page then
          (let w := s.reg page 0x118; if fieldOf w 30 30 == 0 || fieldOf w 15 0 == m then BitVec.ofNat 32 (2 ^ 31 + 2 ^ 30 + m) else w) else 0)
      else if (declAt page off).isNone then 0
      else s.shows page off
    match latched.find? (fun x => x.1 == off) with
    | some x => .andThen (.put (.hiLatch (pairKey m page) (latched.filter (fun y => y.1 != off)))) (k x.2)
    | none => seqs [
        onlyIf (off == 0x118 && hasWindow page) (lockRead m page),
        onlyIf (!pairs.isEmpty) (.put (.hiLatch (pairKey m page) (pairs.map (fun o => (o, s.shows page o))))),
        popRead page off,
        k value]

end Sys2Proof.Machine
end

