-- ==== Sys2Proof/Machine/RegAccess.lean ====
section
/-!
DEFINITION. Writes of registers (spec/02_register_pages.md R41 to R68): what a write is refused for, what it does, its record in the parish register,
commits of shadowed registers, and held writers (R52, R657, R660).
-/
namespace Sys2Proof.Machine

/-! ### Journaled changes of more than one record -/

/-- Whether the ring accepts a list of records together. -/
def State.jnlAcceptsAll (s : State) (l : List JRec) : Bool :=
  l.all (fun r => s.jnlAccepts r && decide (originNeeds r.origin + l.length ≤ s.jnlFree + 1)) &&
    decide (s.jnlAwait + (l.filter (fun r => r.persist)).length ≤ 61440)

/-- A change that makes several records: all are accepted, in order, and the change takes effect, or the writer is held (R51, R52). -/
def journaledAll (l : State → List JRec) (held : Held) (p : Prog) : Prog := .look fun s =>
  if s.jnlAcceptsAll (l s) then .andThen (each (l s) acceptRecord) p
  else .put (.jnlHeld (s.jnlHeld ++ [{ held with record := ((l s).getLast?).getD {}, at_ := s.mono }]))

/-! ### What a plain write leaves -/

/-- The register after a write, apart from what its W1S and WO bits start: RW bits take the value, W1C bits written 1 clear (R10). -/
def RegDecl.merge (d : RegDecl) (old data : Word) : Word :=
  let rw := BitVec.ofNat 32 d.rw
  ((old &&& ~~~rw) ||| (data &&& rw)) &&& ~~~(data &&& BitVec.ofNat 32 d.w1c)

/-- Whether a register is wholly RO (R43). -/
def RegDecl.readOnly (d : RegDecl) : Bool := d.rw == 0 && d.w1c == 0 && d.w1s == 0 && d.wo == 0

/-- A BPM_REQ_CFG write that would exceed a tier with its MINs, or that raises a MAX of requesters 67 to 71 (spec/07, BPM_REQ_CFG). -/
def State.quotaRefused (s : State) (off data : Nat) : Bool :=
  let r := (off - 0x2000) / 32
  let t := (off - 0x2000) % 32 / 4 + 1
  let mins := (List.range 72).foldl (fun a x => a + if x == r then data % 2 ^ 16 * quotaUnit t else (s.quota t x).1) 0
  decide (s.tierArea t < mins) || (decide (67 ≤ r) && decide (fieldOf (s.reg 144 off) 31 16 < data / 2 ^ 16))

/-- Whether an offset of the BPM page is a BPM_REQ_CFG word. -/
def isQuota (page off : Nat) : Bool := page == 144 && decide (0x2000 ≤ off) && decide (off < 0x2000 + 32 * 72) && decide ((off - 0x2000) % 32 < 12)

/-- A gated command (R641) that the persistence limit refuses makes no record (R642). -/
def State.gatedFull (s : State) (page data : Nat) : Bool :=
  let op := data / 2 ^ 28
  decide (61440 ≤ s.jnlAwait) &&
    ((page == 7 && [1, 2, 3].contains op) || (page == 9 && op == 4) ||
     (page == 8 && (op == 8 || (op == 4 && (s.ctlNext.slot (s.updTarget (BitVec.ofNat 32 data))).type == 3))))

/-- Whether a write of a register starts work of its block: a command register. -/
def startsWork (page off : Nat) : Bool :=
  (page == 4 && off == 0x200) || (page == 7 && off == 0x208) || (page == 8 && off == 0x200) || (page == 9 && off == 0x204) || (page == 10 && off == 0x218) ||
  (decide (16 ≤ page) && decide (page < 64) && off == 0x23C) || (decide (64 ≤ page) && decide (page < 88) && off == 0x240) || (page == 88 && off == 0x200) ||
  (decide (152 ≤ page) && decide (page < 168) && off == 0x244) || (page == 176 && off == 0x210)

/-- Whether a write of the register is refused or discarded and leaves it unchanged (R50), or starts nothing. -/
def State.writeRefused (s : State) (m page off data : Nat) : Bool :=
  if startsWork page off && s.rd (BLK_CTRL.ENABLE page) == 0 then true
  else if page == 1 && off == 0x208 then !bitOf data 0 || !(m == 0 || m == 0x6000)
  else if page == 2 && off == 0x208 then !(bitOf data 30 && s.contained && s.releasable)
  else if page == 4 && off == 0x200 then s.rd VIRT_CMD_STAT.BUSY == 1
  else if page == 7 && off == 0x208 then !isManager m || s.rd PPR_CMD_STAT.BUSY == 1 || s.gatedFull 7 data
  else if page == 8 && off == 0x200 then !(m == 0 || m == 0x2000) || s.updOp.isSome || s.gatedFull 8 data
  else if page == 9 && off == 0x204 then !isManager m || s.rd RPR_CMD_STAT.BUSY == 1 || s.gatedFull 9 data
  else if page == 10 && off == 0x218 then !bitOf data 31
  else if page == 11 && off == 0x21C then s.rd TRC_CFG.DMA_EN == 1
  else if 16 ≤ page && page < 64 && off == 0x23C then s.rd (PORT_MOD_CMD.BUSY (page - 16)) == 1
  else if 64 ≤ page && page < 88 && off == 0x240 then !bitOf data 2 || (s.flxExAt (page - 64)).step != 0
  else if (page == 100 && off == 0x220) || (page == 101 && off == 0x244) || (page == 102 && off == 0x230) then !s.seedFree page
  else if page == 100 && 0x1000 ≤ off then !s.memUseOk ((off - 0x1000) / 4) (data % 16)
  else if page == 112 && 0x1000 ≤ off then s.rd PIPE_DIST_CFG.AUTO == 1 || decide (16 ≤ data % 32)
  else if isQuota page off then s.quotaRefused off data
  else if 152 ≤ page && page < 168 && off == 0x244 then !bitOf data 0 || s.rd (DDRC_SPD_CMD.BUSY (page - 152)) == 1
  else if page == 176 && off == 0x210 then s.rd QM_FLUSH.BUSY == 1
  else if page == 242 && off == 0x200 then s.rd FAB_SYS_CFG.EN == 1
  else false

/-- Whether a write of the register makes no record (R50, R656): the interrupt and capture registers, those that are all W1C, and JNL_HOST_HEAD. -/
def unrecorded (page off : Nat) (d : RegDecl) : Bool :=
  [0x10, 0x14, 0x18, 0x3C, 0x44].contains off || (d.rw == 0 && d.w1s == 0 && d.wo == 0) || (page == 6 && off == 0x21C)

/-! ### What a write does -/

/-- A write of a register of the common header other than BLK_CTRL and BLK_COMMIT (R58 to R60, R68). -/
def headerWrite (page off : Nat) (d : RegDecl) (data : Word) : Prog := .look fun s =>
  let v := d.merge (s.reg page off) data
  if off == 0x18 then setIntBits page (data &&& 0xFFFF000F)
  else if off == 0x3C then setReg page off (if fieldOf v 0 0 == 0 then setFieldOf v 31 16 0 else v)
  else .andThen (setReg page off v) (onlyIf (off == 0x10 || off == 0x14) (refreshIrq page))

/-- A write of a register of the host expansion-bus pages, the virtual instances and the control blocks on pages 1 to 13. -/
def controlWrite (m page off : Nat) (v data : Word) : Prog := .look fun s =>
  let n := data.toNat
  if page == 1 && off == 0x208 then onlyIf (bitOf n 0) (mainRestartWrite m)
  else if page == 2 && off == 0x208 then containWrite m n
  else if page == 4 && off == 0x200 then onlyIf (s.rd VIRT_CMD_STAT.BUSY == 0) (.andThen (setReg 4 off v) (virtCmd n))
  else if page == 5 && off == 0x240 then setReg 5 off (if fieldOf v 0 0 == 0 then setFieldOf v 31 16 0 else v)
  else if page == 5 && off == 0x288 then onlyIf (bitOf n 0) fatalClear
  else if page == 6 && off == 0x210 then
    .andThen (setReg 6 off v) (onlyIf (bitOf n 31 && s.rd JNL_HOST_CFG.EN == 0) jnlHostRise)
  else if page == 7 && off == 0x208 then
    if !isManager m then accessError 7 off 1 m 0x00A n
    else onlyIf (s.rd PPR_CMD_STAT.BUSY == 0) (.andThen (setReg 7 off v) (pprCmd m (n / 2 ^ 28)))
  else if page == 8 && off == 0x200 then
    if !(m == 0 || m == 0x2000) then accessError 8 off 1 m 0x00A n
    else onlyIf s.updOp.isNone (.andThen (setReg 8 off v) (updCmd m data [] 0))
  else if page == 9 && off == 0x204 then rprCmd m v data
  else if page == 10 && off == 0x200 then
    .andThen (setReg 10 off v) (onlyIf (bitOf n 31 && s.rd CNT_DUMP_CFG.EN == 0) dumpEnable)
  else if page == 10 && off == 0x214 then
    .andThen (setReg 10 off v) (onlyIf (s.rd CNT_DUMP_HEAD.HEAD != n % 16) (setF CNT_DUMP_HEAD.FULL 0))
  else if page == 10 && off == 0x218 then onlyIf (bitOf n 31) (snapStart true 1000)
  else if page == 11 && off == 0x21C then
    onlyIf (s.rd TRC_CFG.DMA_EN == 0) (traceFree ((n % 2048 + 2048 - s.rd TRC_BUF_STAT.HEAD) % 2048))
  else if page == 13 && off == 0x200 then
    setReg page off (if (s.tabIndices 13 0).any (fun i => (s.tab 13 0 i).on BFD.VALID) then setFieldOf v 17 0 (s.rd SVC_CFG.DISC_BASE) else v)
  else if page == 13 && 0x1100 ≤ off && off % 32 == 0xC then
    let r := (off - 0x1100) / 32
    .andThen (recCommand r 1 n) (.look fun t => onlyIf (bitOf n 30 && t.rd (SVC_REC.BUSY r) == 0) (recCommand r 2 n))
  else setReg page off v

/-- A write of a register of the FE-die blocks.  DESIGN CHOICE (log entry 74): while BUSY is 1 the whole write of PORT_MOD_CMD is discarded, not its GO alone (R100). -/
def feWrite (page off : Nat) (v data : Word) : Prog := .look fun s =>
  let n := data.toNat
  if 16 ≤ page && page < 64 && off == 0x230 then
    .andThen (setReg page off v) (cageCtrlWritten (page - 16) (s.rd (PORT_CAGE_CTRL.PWR_MAX (page - 16))) (s.rd (PORT_CAGE_CTRL.MANUAL (page - 16))))
  else if 16 ≤ page && page < 64 && off == 0x23C then
    onlyIf (s.rd (PORT_MOD_CMD.BUSY (page - 16)) == 0) (.andThen (setReg page off v) (onlyIf (bitOf n 0) (moduleAccess (page - 16))))
  else if 64 ≤ page && page < 88 && off == 0x240 then onlyIf (bitOf n 2) (calendarSwitch (page - 64))
  else if page == 88 && off == 0x200 then .andThen (setReg page off v) (onlyIf (bitOf n 31) xcSwitch)
  else if page == 100 && off == 0x204 then seqs [
    setReg page off (v ||| (data &&& 0xC0000000)),
    rebuildStart .lpm4,
    rebuildStart .lpm6]
  else if (page == 100 && off == 0x220) || (page == 101 && off == 0x244) || (page == 102 && off == 0x230) then onlyIf (s.seedFree page) (setReg page off v)
  else if page == 100 && 0x1000 ≤ off then
    either (s.memUseOk ((off - 0x1000) / 4) (n % 16)) (setReg page off v) (.andThen (setF LPM_STAT.USE_REFUSED 1) (raise 100 18))
  else if page == 112 && 0x1000 ≤ off then bucketWrite ((off - 0x1000) / 4) (n % 32)
  else setReg page off v

/-- A write of a register of the TM-die blocks. -/
def tmWrite (m page off : Nat) (v data : Word) : Prog := .look fun s =>
  let n := data.toNat
  if isQuota page off then
    either (s.quotaRefused off n) (reportError page 1 0 (page * 65536 + off) m 0 0x021 n) (.andThen (setReg page off v) (showResv ((off - 0x2000) % 32 / 4 + 1)))
  else if page == 144 && 0x1000 ≤ off && off < 0x10C0 && (off - 0x1000) % 64 < 24 then
    .andThen (setReg page off v) (poolFloor ((off - 0x1000) / 64 + 1) ((off - 0x1000) % 64 / 4))
  else if page == 145 && (off == 0x200 || off == 0x208) then .andThen (setReg page off v) stgJudge
  else if page == 145 && 0x1000 ≤ off && off < 0x1300 then .andThen (setReg page off v) (stgPort ((off - 0x1000) / 16) s.stgGlobal)
  else if page == 146 && off == 0x200 then grnCfgWrite m v.toNat
  else if 152 ≤ page && page < 168 && off == 0x244 then spdGo (page - 152) n
  else if page == 176 && off == 0x210 then flushGo n
  else if page == 240 && off == 0x204 then fabSysWrite v.toNat
  else if page == 242 && off == 0x200 then mcWindowWrite v
  else setReg page off v

/-- A write of a register that is not shadowed has its effect. -/
def regDo (m page off : Nat) (d : RegDecl) (data : Word) : Prog := .look fun s =>
  let v := d.merge (s.reg page off) data
  if off < 0x200 then headerWrite page off d data
  else if startsWork page off && s.rd (BLK_CTRL.ENABLE page) == 0 then .skip
  else if page ≤ 13 then controlWrite m page off v data
  else if page ≤ 128 || page == 179 then feWrite page off v data
  else tmWrite m page off v data

/-! ### Shadowed registers and commits (R64 to R68) -/

/-- A write to a shadow (R51, R64): noted for the record of the next commit, first writes in order and the last writer of each.  RESTART of a fabric link holds no
value and acts at once (R339). -/
def shadowWrite (m page off : Nat) (d : RegDecl) (data : Word) : Prog := .look fun s =>
  let l := s.dirtyAt page
  seqs [
    setReg page off (d.merge (s.reg page off) data),
    .put (.dirty page (if l.any (fun x => x.1 == off) then l.map (fun x => if x.1 == off then (off, m) else x) else l ++ [(off, m)])),
    onlyIf (244 ≤ page && page < 256 && data.getLsbD 30) (linkRestart (12 * (page - 244) + (off - 0x1000) / 32))]

/-- The records of a commit (R51, R655): one for each register written since the last accepted commit, then the commit's own. -/
def commitRecords (m page tag : Nat) (s : State) : List JRec :=
  (s.dirtyAt page).map (fun x => mkRecord s 1 x.2 page 0 x.1 (s.reg page x.1).toNat (2 ^ 31 + tag)) ++
    [mkRecord s 2 m page 0 0x40 (s.dirtyAt page).length tag]

/-- The offsets of a page's shadowed registers. -/
def shadowOffs (page : Nat) : List Nat :=
  match blockOf page with
  | some b => ((declsOf b.name).filter (fun d => d.shadowed && d.page ≤ page && page < d.page + d.pages)).flatMap RegDecl.offs
  | none => []

/-- The units take the whole shadow of a page (R64). -/
def takeShadow (page : Nat) : Prog := each (shadowOffs page) fun off => .look fun s => .put (.units (regKey page off) (s.reg page off))

/-- What a commit of PTP_SRC_CFG makes of SYNCE_CLK and of the transmit clocks (R428). -/
def synceOut : Prog := .look fun s =>
  let p := s.cfg PTP_SRC_CFG.SYNCE_PORT
  emit (.synce (s.on PTP_SRC_CFG.SYNCE_OUT_EN) (4 * p) (synceDiv (s.portGbps p / max 1 (modeLanes (s.cfg (PORT_MODE.MODE p))))) (s.on PTP_SRC_CFG.SYNCE_LOCK))

/-- SYNCE_CLK and the transmit clocks that follow it when the port they are taken from commits another mode (R428). -/
def synceMode (p : Nat) : Prog := .look fun s =>
  onlyIf (s.cfg PTP_SRC_CFG.SYNCE_PORT == p && (s.on PTP_SRC_CFG.SYNCE_OUT_EN || s.on PTP_SRC_CFG.SYNCE_LOCK)) synceOut

/-- What the values of an accepted commit start in the block; a GATE list waits for its own instant (R67, R325). -/
def commitEffect (page : Nat) (old : State) : Prog :=
  if page == 12 then seqs [ptpCommit, gatesStep, synceOut]
  else if 16 ≤ page && page < 64 then .andThen (portCommit (page - 16) (old.unitsAt (regKey page 0x200))) (synceMode (page - 16))
  else if 64 ≤ page && page < 88 then flxJudge (page - 64)
  else if page == 98 then asmCommit (fieldOf (old.unitsAt (regKey 98 0x200)) 15 0) (old.unitsAt (regKey 98 0x204)).toNat
  else if 180 ≤ page && page < 228 then gateCommit (page - 180) (.put (.commitLate page true)) .skip
  else if 244 ≤ page && page < 256 then linksApply (page - 244)
  else .skip

/-- An accepted commit (R64, R68): the shadow reaches the units, PENDING is set with the TAG, and DONE clears. -/
def commitTake (page tag : Nat) : Prog := .look fun s => seqs [
  .put (.dirty page []),
  each (shadowOffs page) (fun off => .put (.before (regKey page off) (s.unitsAt (regKey page off)))),
  onlyIf (16 ≤ page && page < 64) (settlePort (page - 16)),
  onlyIf (!(180 ≤ page && page < 228)) (takeShadow page),
  setF (BLK_COMMIT_STAT.TAG page) tag,
  setF (BLK_COMMIT_STAT.PENDING page) 1,
  setF (BLK_COMMIT_STAT.DONE page) 0,
  .put (.commitLate page false),
  commitEffect page s]

/-- Whether a commit would drop the gate list that is pending (R326), which PENDING does not refuse (DEDUCED, log entry 96). -/
def State.dropsList (s : State) (page : Nat) : Bool :=
  180 ≤ page && page < 228 && (s.gateXAt (page - 180)).pend.isSome && s.rd (GATE_CFG.EN (page - 180)) == 0

/-- A write of BLK_COMMIT: nothing with GO 0; refused while PENDING or FREEZE is 1 (R57, R64), but for one that drops a pending gate list (R326). -/
def commitWrite (m page : Nat) (data : Word) : Prog := .look fun s =>
  if fieldOf data 0 0 == 0 then .skip
  else if (s.rd (BLK_COMMIT_STAT.PENDING page) == 1 && !s.dropsList page) || s.rd (BLK_CTRL.FREEZE page) == 1 then
    .andThen (setF (BLK_COMMIT_STAT.REFUSED page) 1) (accessError page 0x40 3 m 6 data.toNat)
  else journaledAll (commitRecords m page (fieldOf data 31 16)) { master := m, page := page, off := 0x40, value := data.toNat } (commitTake page (fieldOf data 31 16))

/-! ### BLK_CTRL (R55 to R57) -/

/-- The counts of a port or client begin afresh (PORT_PM_ES and FLX_CL_PM: since the block was last enabled). -/
def pmClear (page off k : Nat) : Prog := .andThen (each [0, 4, 8, 12] (fun o => setReg page (off + o) 0)) (.look fun s => .put (.pmX k { marks := (s.pmXAt k).marks, lastSec := (s.pmXAt k).lastSec }))

/-- ENABLE rises: a port starts its cage (R531), a memory controller that has not trained trains (R399), a rebuild that is due starts (R701). -/
def enableEffect (page : Nat) : Prog := .look fun s =>
  if 16 ≤ page && page < 64 then seqs [pmClear page 0x240 (page - 16), cageEnable (page - 16), bringUp (page - 16), linkRefresh (page - 16)]
  else if 64 ≤ page && page < 88 then each (List.range 128) (fun i => pmClear page (0x1400 + 16 * i) (64 + 128 * (page - 64) + i))
  else if 148 ≤ page && page < 168 then onlyIf (s.rd (tgtState (page - 148)) == 0) (memEnable (page - 148))
  else if page == 100 then .andThen (rebuildStart .lpm4) (rebuildStart .lpm6)
  else .skip

/-- ENABLE falls: the block finishes its work (R56); IDLE reads 0 until BLOCK_DRAINED.  Log entry 31. -/
def disableEffect (page : Nat) : Prog :=
  .andThen (setF (BLK_STAT.IDLE page) 0) (onlyIf (16 ≤ page && page < 64) (linkRefresh (page - 16)))

/-- A write of BLK_CTRL (R55, R56): ENABLE and SOFT_RESET from the permitted masters only, SOFT_RESET refused while ENABLE was 1. -/
def ctrlWrite (m page : Nat) (data : Word) : Prog := .look fun s =>
  let old := s.reg page 8
  let en0 := fieldOf old 0 0
  let ok := isController m
  let en := if ok then fieldOf data 0 0 else en0
  let sr := fieldOf data 1 1 == 1
  let start := ok && sr && en0 == 0
  let barred := !ok && (fieldOf data 0 0 != en0 || sr)
  let busy := ok && sr && en0 == 1
  let new := BitVec.ofNat 32 (fieldOf data 3 2 * 4 + (if start then 2 else fieldOf old 1 1 * 2) + en)
  let p := seqs [
    onlyIf barred (accessError page 8 1 m 0x00A data.toNat),
    onlyIf busy (accessError page 8 1 m 7 data.toNat),
    onlyIf (fieldOf data 2 2 == 1 && fieldOf old 2 2 == 0) (freezeView page),
    onlyIf (dieOf page == 0 && fieldOf data 2 2 != fieldOf old 2 2) (sideband [4, page, fieldOf data 2 2]),
    setReg page 8 new,
    onlyIf (en == 1 && en0 == 0) (enableEffect page),
    onlyIf (en == 0 && en0 == 1) (disableEffect page)]
  if (barred || busy) && new == old then p
  else journaled (fun t => mkRecord t 1 m page 0 8 (fieldOf data 3 2 * 4 + b2n start * 2 + en) 0) { master := m, page := page, off := 8, value := data.toNat } p

/-! ### The write as a master makes it -/

/-- A write within the table command window (R73): the command, the lock, or a staging register of the lock's holder. -/
def windowWrite (m page off : Nat) (d : RegDecl) (data : Word) : Prog := .look fun s =>
  if off == 0x100 then tblCommand m page data.toNat
  else if off == 0x118 then lockWrite m page data.toNat
  else if d.readOnly then accessError page off 1 m 3 data.toNat
  else if s.rd (TBL_LOCK.HELD page) == 0 || s.rd (TBL_LOCK.OWNER page) != m then accessError page off 1 m 4 data.toNat
  else if off == 0x108 then setReg page off (d.merge (s.reg page off) data)
  else
    let f := if off < 0x140 then ek ((off - 0x120) / 4) 31 0 else if off < 0x180 then ed ((off - 0x140) / 4) 31 0 else ee ((off - 0x180) / 4) 31 0
    .put (.tblWin page ((s.tblWinAt page).put f data.toNat))

/-- A write of one register, no LO being held for it (R43, R49 to R51, R64). -/
def oneWrite (m page off : Nat) (d : RegDecl) (data : Word) : Prog := .look fun s =>
  if d.shadowed then shadowWrite m page off d data
  else if off == 8 then ctrlWrite m page data
  else if off == 0x40 then commitWrite m page data
  else if unrecorded page off d || s.writeRefused m page off data.toNat then regDo m page off d data
  else journaled (fun t => mkRecord t 1 m page 0 off data.toNat 0) { master := m, page := page, off := off, value := data.toNat } (regDo m page off d data)

/-- Both halves of a LO/HI pair are written together (R45), each with its record. -/
def pairWrite (m page lo : Nat) (low : Word) (d : RegDecl) (data : Word) : Prog := .look fun s =>
  let dl := (declAt page lo).getD d
  let p := seqs [
    .put (.loHeld (pairKey m page) none),
    (if d.shadowed then .andThen (shadowWrite m page lo dl low) (shadowWrite m page (lo + 4) d data)
     else .andThen (regDo m page lo dl low) (regDo m page (lo + 4) d data))]
  if d.shadowed || s.writeRefused m page (lo + 4) data.toNat then p
  else journaledAll (fun t => [mkRecord t 1 m page 0 lo low.toNat 0, mkRecord t 1 m page 0 (lo + 4) data.toNat 0])
    { master := m, page := page, off := lo + 4, value := data.toNat } p

/-- The write of a register that the master's earlier writes do not hold up.  DESIGN CHOICE (log entry 91): a page holds one LO of each master, so that a LO of another pair takes the place
of one whose HI has not come (R45). -/
def writeNow (m page off : Nat) (data : Word) : Prog := .look fun s =>
  match declAt page off with
  | none => .skip
  | some d =>
    if 0x100 ≤ off && off < 0x200 then windowWrite m page off d data
    else if d.readOnly then accessError page off 1 m 3 data.toNat
    else if !(latchesOf page off).isEmpty then .put (.loHeld (pairKey m page) (some (off, data)))
    else
      match s.loHeldAt (pairKey m page) with
      | some (lo, low) => if lo + 4 == off then pairWrite m page lo low d data else oneWrite m page off d data
      | none => oneWrite m page off d data

/-- Whether a held access keeps its place among its master's accesses to the die (R46, R52). -/
def Held.ordered (h : Held) : Bool := h.what == 0 || h.what == 3 || h.what == 4

/-- Whether an earlier access of a master to the same die is held, so that its later accesses wait (R46, R52). -/
def State.waitsBehind (s : State) (m page : Nat) : Bool :=
  s.jnlHeld.any (fun h => h.ordered && h.master == m && dieOf h.page == dieOf page)

/-- One 32-bit write by a master at the page's own die (R39, R42, R46, R48): byte enables must all be set; a write behind a held access of the same master waits in
turn. -/
def writeWord (m page off be : Nat) (data : Word) : Prog := regAccess m page off data.toNat (.look fun s =>
  if be % 16 != 15 then accessError page off 1 m 2 data.toNat
  else if s.waitsBehind m page then
    .put (.jnlHeld (s.jnlHeld ++ [{ master := m, page := page, off := off, value := data.toNat, record := mkRecord s 1 m page 0 off data.toNat 0, at_ := s.mono }]))
  else writeNow m page off data)

/-- A write of several words: 32-bit accesses in ascending address order (R41), four byte enables to each. -/
def writeWords (m page : Nat) : Nat → Nat → List Word → Prog
  | _, _, [] => .skip
  | off, be, w :: ws => .andThen (writeWord m page off (be % 16) w) (writeWords m page (off + 4) (be / 16) ws)

/-- A read of `n` words: 32-bit accesses in ascending address order (R41); `k` takes each offset with its value.  A read behind a held access of the same master
waits for it, to be answered after it (R46). -/
def readWords (m page : Nat) (k : Nat → Word → Prog) : Nat → Nat → Prog
  | _, 0 => .skip
  | off, n + 1 => .andThen
      (.look fun s =>
        if s.waitsBehind m page then .put (.jnlHeld (s.jnlHeld ++ [{ what := 4, master := m, page := page, off := off, at_ := s.mono }]))
        else regRead m page off (k off))
      (readWords m page k (off + 4) n)

/-- The value that a read returns to its master. -/
def answerRead (m page off : Nat) (w : Word) : Prog := emit (.readData m page off w.toNat false)

/-! ### Accesses to pages of the other die (R28 to R36, R46) -/

/-- What a request's flit carries. -/
def DieReq.flit (r : DieReq) (k : Nat) : List Nat := [k, b2n r.read, r.page, r.off, if r.read then r.n else r.be] ++ r.data

/-- A request is placed in its source's transmit queue behind the earlier ones, and goes out on channel 1 if the source holds a credit for it (R29, R30). -/
def crossPlace (k : Nat) (r : DieReq) : Prog := .look fun s =>
  if 0 < s.dieCredits k && (s.dieQAt k).all (fun x => x.sent.isSome) then
    .andThen (.put (.dieQ k (s.dieQAt k ++ [{ r with sent := some (s.dieTxAt (srcDie k)).next }]))) (sendFlit (srcDie k) 1 (r.flit k))
  else .put (.dieQ k (s.dieQAt k ++ [r]))

/-- A source that holds a credit again sends the oldest request that waits for one (R29, R30). -/
def dieIssue (k : Nat) : Prog := .look fun s =>
  match (s.dieQAt k).find? (fun r => r.sent.isNone) with
  | some r => onlyIf (decide (0 < s.dieCredits k)) (
      let q := s.dieQAt k
      .andThen (.put (.dieQ k (q.takeWhile (fun x => x.sent.isSome) ++ [{ r with sent := some (s.dieTxAt (srcDie k)).next }] ++ (q.dropWhile (fun x => x.sent.isSome)).drop 1)))
        (sendFlit (srcDie k) 1 (r.flit k)))
  | none => .skip

/-- The credit of an executed request goes back to its source on channel 3 (R29). -/
def creditBack (k : Nat) : Prog := .look fun s =>
  if s.linkClear (1 - srcDie k) then .andThen (passFlit (1 - srcDie k) 3 [0, k]) (dieIssue k) else sendFlit (1 - srcDie k) 3 [0, k]

/-- The parish register would hold the write that a program makes (R52). -/
def State.wouldHold (s : State) (p : Prog) : Bool :=
  decide ((s.jnlHeld.filter Held.ordered).length < ((p.run s).jnlHeld.filter Held.ordered).length)

/-- A write request of source `k` executes word by word on the other die (R32, R35).  While the parish register holds a word, what is left of the request keeps its
receive buffer, and so its credit, and later requests of the source wait behind it (R29, R33, R52).  Executed whole, it is acknowledged on channel 2 and its credit
returns (R17, R29). -/
def crossWrite (k : Nat) (r : DieReq) : Nat → Nat → List Nat → Prog
  | _, _, [] => .look fun s => seqs [
      (match r.heldAt with
       | some t => onlyIf (r.master < 0x2000 && s.rd JNL_HOLD_MAX.VALUE < s.mono - t) (setF JNL_HOLD_MAX.VALUE (min (2 ^ 32 - 1) (s.mono - t)))
       | none => .skip),
      crossFlit (1 - srcDie k) 2 [k, r.page, r.off],
      creditBack k]
  | off, be, w :: ws => .look fun s =>
      let p := writeWord r.master r.page off (be % 16) (BitVec.ofNat 32 w)
      if s.wouldHold p then .put (.dieQ k ({ r with off := off, be := be, data := w :: ws, heldAt := some (r.heldAt.getD s.mono) } :: s.dieQAt k))
      else .andThen p (crossWrite k r (off + 4) (be / 16) ws)

/-- The part of a write that one request carries: up to 256 bytes (R29). -/
def crossChunks (r : DieReq) : Nat → List Nat → List DieReq
  | 0, _ => []
  | fuel + 1, ws => if ws.isEmpty then [] else
      { r with data := ws.take 64 } :: crossChunks { r with off := r.off + 256, be := r.be / 16 ^ 64 } fuel (ws.drop 64)

/-- A write request enters: executed at once where nothing is before it, else placed on the link. -/
def crossSend (k : Nat) (r : DieReq) : Prog := .look fun s =>
  if s.crossFree k then .andThen (passFlit (srcDie k) 1 (r.flit k)) (crossWrite k { r with sent := some (s.dieTxAt (srcDie k)).next } r.off r.be r.data)
  else crossPlace k r

/-- A read request enters: answered at once where nothing is before it, its response crossing back on channel 2, else placed on the link. -/
def crossRead (k : Nat) (r : DieReq) : Prog := .look fun s =>
  if s.crossFree k then seqs [
    passFlit (srcDie k) 1 (r.flit k),
    readWords r.master r.page (fun off w => .andThen (crossFlit (1 - srcDie k) 2 [k, r.page, off, w.toNat]) (answerRead r.master r.page off w)) r.off r.n,
    creditBack k]
  else crossPlace k r

/-- A write by a master (R41, R46): on its own die, or posted across the link (R28). -/
def hostWrites (m page off be : Nat) (data : List Word) : Prog :=
  match crossing m page with
  | none => writeWords m page off be data
  | some k => .look fun s => onlyIf (s.reaches m)
      (each (crossChunks { master := m, page := page, off := off, be := be } (data.length + 1) (data.map BitVec.toNat)) (crossSend k))

/-- The write of one register by a master. -/
def hostWrite (m page off be : Nat) (data : Word) : Prog := hostWrites m page off be [data]

/-- A read by a master (R41, R46): on its own die, or split across the link, in requests of at most 256 bytes each (R28, R29). -/
def hostRead (m page off n : Nat) : Prog :=
  match crossing m page with
  | none => readWords m page (answerRead m page) off n
  | some k => .look fun s => onlyIf (s.reaches m)
      (each (List.range ((n + 63) / 64)) fun i =>
        crossRead k { read := true, master := m, page := page, off := off + 256 * i, n := min 64 (n - 64 * i) })

/-! ### Held writers (R52, R660, R662) -/

/-- Whether a held writer's record can now be accepted. -/
def State.heldFits (s : State) (h : Held) : Bool :=
  if h.what == 0 && h.off == 0x40 then
    s.rd (BLK_COMMIT_STAT.PENDING h.page) == 1 || s.rd (BLK_CTRL.FREEZE h.page) == 1 ||
      s.jnlAcceptsAll (commitRecords h.master h.page (fieldOf (BitVec.ofNat 32 h.value) 31 16) s)
  else if h.what == 0 then
    match s.loHeldAt (pairKey h.master h.page) with
    | some (lo, _) => s.jnlAcceptsAll (if lo + 4 == h.off then [h.record, h.record] else [h.record])
    | none => s.jnlAccepts h.record
  else h.what == 4 || s.jnlAccepts h.record

/-- The oldest held access that can go on, with what stands before and after it; a master's accesses to a die keep their order. -/
def heldNext (s : State) : List Held → List Held → Option (List Held × Held × List Held)
  | _, [] => none
  | before, h :: rest =>
    if s.heldFits h && !(h.ordered && before.any (fun b => b.ordered && b.master == h.master && dieOf b.page == dieOf h.page))
    then some (before, h, rest) else heldNext s (before ++ [h]) rest

/-- A held access goes on (R46, R52): its write, command or read executes, or its event is recorded with the time it has kept (R662).  A command that is carried out as BUSY ends
(R147, R161) is carried out then. -/
def heldRun (h : Held) : Prog := .look fun s =>
  if h.what == 0 then writeNow h.master h.page h.off (BitVec.ofNat 32 h.value)
  else if h.what == 1 then
    match s.tblOpAt h.page with
    | some o => onlyIf (!tblDeferred h.page o.table) (tblRun h.page { o with waits := false })
    | none => .skip
  else if h.what == 2 then acceptRecord h.record
  else if h.what == 5 then heldAge h
  else if h.what == 6 then memberOut h.value h.off
  else if h.what == 4 then regRead h.master h.page h.off (answerRead h.master h.page h.off)
  else
    let q := h.record.value % 2 ^ 22
    .andThen (acceptRecord { h.record with time := s.ns64, timeValid := s.timeValid })
      (match qpcEntry (s.qp q) h.off h.value with
       | some e => .andThen (.put (.qpx q { s.qpxAt q with refused := false, cfgErr := false })) (qpApply q e)
       | none => .skip)

/-- JOURNAL_HOLD_RELEASE (R52, R660 to R662): ring room lets the oldest writer that it fits go on; JNL_HOLD_MAX keeps the longest hold of a host instance. -/
def execJournalHoldRelease (s : State) : Host.Outcome State Fault Refusal :=
  command .journalHoldRelease (.look fun s =>
    match heldNext s [] s.jnlHeld with
    | none => .skip
    | some (before, h, rest) => seqs [
        .put (.jnlHeld (before ++ rest)),
        onlyIf (h.master < 0x2000 && h.what != 2 && h.what != 4 && s.rd JNL_HOLD_MAX.VALUE < s.mono - h.at_) (setF JNL_HOLD_MAX.VALUE (min (2 ^ 32 - 1) (s.mono - h.at_))),
        heldRun h]) s

end Sys2Proof.Machine
end

