-- ==== Sys2Proof/Machine/Blocks.lean ====
section
/-!
DEFINITION. The common page header's commands (spec/02_register_pages.md R41 to R68): register writes and reads, enable, soft reset, freeze,
interrupts, error capture and commits.
-/
namespace Sys2Proof.Machine

/-- REG_WRITE (R41, R43): a write of the words `data` from an offset; `be` gives four byte enables to each. -/
def execRegWrite (m page off be : Nat) (data : List Word) (s : State) : Host.Outcome State Fault Refusal :=
  command (.regWrite m page off be data) (hostWrites m page off be data) s

/-- HI_WRITE (R45): with a LO held for the master, both halves are written together. -/
def execHiWrite (m page off be : Nat) (data : Word) (s : State) : Host.Outcome State Fault Refusal :=
  command (.hiWrite m page off be data) (hostWrite m page off be data) s

/-- LO_READ_LATCH (R41, R44): a read at `off.1` of `off.2` words, answered once the master's earlier accesses to the die have executed (R46); of the host's other BARs by PF0 and the VFs (R464 to R466,
R494; log entry 85). -/
def execLoReadLatch (m page : Nat) (off : Nat × Nat) (s : State) : Host.Outcome State Fault Refusal :=
  command (.loReadLatch m page off) (if m < 64 && (m != 0 || 1024 ≤ page) then barReads m page off.1 off.2 else hostRead m page off.1 off.2) s

/-- A waiting read of the host that ends unanswered: behind a held write, or on the link (R46, R47). -/
def hostReadEnds (page off : Nat) : Prog := .look fun s => .andThen
  (.put (.jnlHeld (s.jnlHeld.filter (fun h => !(h.what == 4 && h.master == 0 && h.page == page && h.off == off)))))
  (.put (.dieQ 10 ((s.dieQAt 10).filter (fun r => !(r.read && r.master == 0 && r.page == page && r.off == off)))))

/-- PAGE_TIMEOUT (R47): a host read that a page has not answered in 50 microseconds ends with all ones and is captured by PCIE page 2. -/
def execPageTimeout (m page off : Nat) (s : State) : Host.Outcome State Fault Refusal :=
  command (.pageTimeout m page off) (onlyIf (m == 0) (seqs [
    hostReadEnds page off,
    emit (.readData m page off 0xFFFFFFFF false),
    reportError 2 0 0 (page * 65536 + off) m 2 8 0])) s

/-- BLK_ENABLE (R56): a BLK_CTRL write with ENABLE 1. -/
def execBlkEnable (m page : Nat) (data : Word) (s : State) : Host.Outcome State Fault Refusal :=
  command (.blkEnable m page data) (hostWrite m page 8 15 (data ||| 1)) s

/-- BLK_DISABLE (R56): a BLK_CTRL write with ENABLE 0. -/
def execBlkDisable (m page : Nat) (data : Word) (s : State) : Host.Outcome State Fault Refusal :=
  command (.blkDisable m page data) (hostWrite m page 8 15 (data &&& ~~~1)) s

/-- BLOCK_DRAINED (R56, R701): a disabled block has finished its work, a filter rebuild under way (R701) among it; IDLE stays 0 while State.working finds any. -/
def execBlockDrained (page : Nat) (s : State) : Host.Outcome State Fault Refusal :=
  command (.blockDrained page) (.look fun s =>
    onlyIf (s.rd (BLK_CTRL.ENABLE page) == 0 && !s.working page)
      (setF (BLK_STAT.IDLE page) 1)) s

/-- FREEZE (R57): a BLK_CTRL write. -/
def execFreeze (m page : Nat) (data : Word) (s : State) : Host.Outcome State Fault Refusal :=
  command (.freeze m page data) (hostWrite m page 8 15 data) s

/-! ### Soft reset (R55, R690) -/

/-- SOFT_RESET (R55): a BLK_CTRL write with SOFT_RESET 1. -/
def execSoftReset (m page : Nat) (data : Word) (s : State) : Host.Outcome State Fault Refusal :=
  command (.softReset m page data) (hostWrite m page 8 15 (data ||| 2)) s

/-- The pages of the block that holds a page. -/
def pagesWith (page : Nat) : List Nat :=
  match blockOf page with
  | some b => (List.range b.pages).map (fun k => page - pageSeqOf page + k)
  | none => []

/-- Status registers that show what a block's reset leaves as it is, the registers of their pages apart: the fatal capture and the always-on and backup domains, the
interrupt lines of other pages, the link, start-up's stages and the slot, the store, degraded classes and the peg map, tier capacities and the buffers in use, READY of
the TCAM banks, memory modules in their slots, the device's own ID and sensor places (log entry 32, DESIGN CHOICE). -/
def statusKept (page off : Nat) : Bool :=
  (page == 1 && ([0x200, 0x204, 0x214].contains off || 0x1000 ≤ off)) ||
  (page == 2 && (off == 0x200 || off == 0x208 || (0x300 ≤ off && off < 0x380))) ||
  (page == 5 && 0x270 ≤ off && off < 0x290) ||
  (page == 7 && (off == 0x204 || 0x220 ≤ off)) ||
  (page == 8 && (0x220 ≤ off && off < 0x280)) ||
  (page == 9 && (off == 0x20C || off == 0x240 || off == 0x244)) ||
  (page == 144 && ((0x200 ≤ off && off < 0x240) || (0x1100 ≤ off && off < 0x2000) || (0x2000 ≤ off && 16 ≤ off % 32))) ||
  (page == 145 && ([0x20C, 0x210, 0x214].contains off || (0x1000 ≤ off && off % 16 == 8))) ||
  (page == 146 && (off == 0x204 || off == 0x208)) ||
  (page == 240 && (off == 0x200 || off == 0x210)) ||
  (page == 257 && (off == 0x204 || 0x1000 ≤ off)) ||
  (16 ≤ page && page < 64 && off == 0x234) ||
  (page == 98 && (off == 0x208 || off == 0x210)) ||
  (148 ≤ page && page < 168 && (0x300 ≤ off || (152 ≤ page && 0x220 ≤ off && off < 0x240)))

/-- Registers that keep their values through a soft reset: BLK_ID, BLK_CAPS, BLK_STAT's READY and open class, ERRCAP, the table command window (R55), the seeds, LPM_MEM_USE
and ASM_BANK_MODE (R690), and the status of what the reset leaves as it is. -/
def keepsReset (page off : Nat) : Bool :=
  off < 8 || off == 0x0C || (0x20 ≤ off && off < 0x40) || (0x100 ≤ off && off < 0x200) ||
  (page == 100 && (off == 0x220 || 0x1000 ≤ off)) || (page == 101 && off == 0x244) || (page == 102 && off == 0x230) || (page == 98 && off == 0x200) ||
  statusKept page off

/-- The value that a register returns to: what start-up wrote, else its reset value (R690). -/
def State.afterReset (s : State) (k : Nat) : Word := (s.startValAt k).getD (regReset k)

/-- The registers of a page return to their reset values, in the shadow and in the units alike.  DESIGN CHOICE (log entry 32): the latched HI values and held LO writes of the page's masters
go with them, of which R55 says nothing. -/
def resetRegs (page : Nat) : Prog := .look fun s =>
  let back (k : Nat) : Bool := k / 65536 == page && !keepsReset page (k % 65536)
  seqs [
    each (s.regs.filter (fun kv => back kv.1)) (fun kv => .put (.regs kv.1 (s.afterReset kv.1))),
    each (s.startVal.filter (fun kv => back kv.1)) (fun kv => .put (.regs kv.1 (s.afterReset kv.1))),
    onlyIf (!(180 ≤ page && page < 228)) (each ((shadowOffs page).filter (fun o => !keepsReset page o)) (fun o => .put (.units (regKey page o) (s.afterReset (regKey page o))))),
    .put (.dirty page []),
    .put (.commitLate page false),
    setF (BLK_STAT.IDLE page) 1,
    .look fun t => each (t.hiLatch.filter (fun kv => kv.1 / 65536 == page)) (fun kv => .put (.hiLatch kv.1 [])),
    .look fun t => each (t.loHeld.filter (fun kv => kv.1 / 65536 == page)) (fun kv => .put (.loHeld kv.1 none)),
    refreshIrq page]

/-- The units of SVC return to their reset state: the packets they hold, the store and the recordings go, with their buffers, and the engines start afresh. -/
def resetServices : Prog := .look fun s => seqs [
  .put (.svcNtf []),
  .put (.svcRx []), each s.svcRx takeDone,
  .put (.mergeQ []), each s.mergeQ (fun y => takeDone y.1),
  each s.svcQ (fun kv => .andThen (.put (.svcQ kv.1 [])) (each kv.2 (fun p => derefBody p.body))),
  each s.flowX (fun kv => seqs [rtxClear kv.1, each kv.2.reads (fun p => derefBody p.body), .put (.flowX kv.1 {})]),
  each s.recX (fun kv => seqs [each kv.2.items (fun i => .andThen (lowerGive i.tier 65 (poolSize (poolOf i.size))) (derefBody i.pkt.body)),
    .put (.recX kv.1 {})]),
  each s.mergeX (fun kv => .put (.mergeX kv.1 {})),
  each s.bfdX (fun kv => .put (.bfdX kv.1 { due := s.mono })),
  each s.mepX (fun kv => .put (.mepX kv.1 { due := s.mono, okAt := s.mono }))]

/-- The units of a block return to their reset state, before its registers do: work they hold is lost (log entry 32). -/
def resetUnits (page : Nat) : Prog := .look fun s =>
  let drop (l : List Pkt) : Prog := each l (fun p => derefBody p.body)
  if 16 ≤ page && page < 64 then
    let p := page - 16
    seqs [
      each (List.range 8) (fun t => .put (.pauseUntil (8 * p + t) none)), .put (.xoff p 0), .put (.pauseSentAt p none),
      portLose p, drop (s.txHoldAt p), .put (.txHold p []), .put (.pmX p {})]
  else if 64 ≤ page && page < 88 then .andThen (.put (.flxEx (page - 64) {})) (each (List.range 128) (fun i => .put (.pmX (64 + 128 * (page - 64) + i) {})))
  else if page == 88 then .andThen (.put (.xcArm none)) (.put (.xcCopyAt none))
  else if page == 102 then .andThen (.put (.l2bNtf [])) (each s.learnQ (fun kv => .put (.learnQ kv.1 [])))
  else if page == 105 then seqs [
    each s.smpSel (fun kv => .put (.smpSel kv.1 0)), each s.smpSeq (fun kv => .put (.smpSeq kv.1 0)), each s.smpMs (fun kv => .put (.smpMs kv.1 (0, 0)))]
  else if 112 ≤ page && page ≤ 128 then losePipe (page - 112) (s.unit clsPipe (page - 112) UNIT.LOGICAL)
  else if 148 ≤ page && page < 168 then
    .andThen (onlyIf (s.memReady (page - 148)) (.andThen (setTgt (page - 148) 0 0) (targetGone (page - 148)))) (.put (.memX (page - 148) {}))
  else if page == 11 then .put (.traceBuf [])
  else if page == 144 || page == 145 || page == 176 then seqs [
    each s.qx (fun kv => flushQueue kv.1 0xC7),
    onlyIf (page == 145) (.andThen
      (each s.stg (fun kv => .andThen (.put (.stg kv.1 [])) (each kv.2 (fun p => stgDiscard p 0xC7 3))))
      (.andThen (.put (.stgMc [])) (each s.stgMc (fun p => stgDiscard p 0xC7 3)))),
    onlyIf (page == 176) (.put (.flushing none))]
  else if page == 242 then .andThen (.put (.stgMc [])) (.andThen (each s.stgMc (fun p => stgDiscard p 0xC7 3)) (each s.mcOut (fun kv => .put (.mcOut kv.1 0))))
  else if 244 ≤ page && page < 256 then each (List.range 12) (fun k => linkRestart (12 * (page - 244) + k))
  else if page == 177 || page == 178 then each s.shpX (fun kv => .put (.shpX kv.1 {}))
  else if page == 179 then each s.polX (fun kv => .put (.polX kv.1 {}))
  else if 180 ≤ page && page < 228 then .put (.gateX (page - 180) {})
  else if page == 240 then onlyIf (s.rd FAB_SYS_CFG.EN == 1) (fabSysWrite 0)
  else if page == 5 then seqs [.put (.cryLog []), .put (.firstWin []), .put (.firstEnd none)]
  else if page == 8 then .put (.updOp none)
  else if page == 10 then .put (.snap none)
  else if page == 12 then seqs [
    .put (.stepPend none), .put (.slewLeft 0), .put (.slewRem 0), .put (.lockCount 0), .put (.tsf []), .put (.holdFreq none), .put (.freqLog []),
    .put (.ppsLast none), .put (.ppsGood none), .put (.ppsMissed 0), .put (.todSec none)]
  else if page == 13 then resetServices
  else if page == 4 then each s.vinst (fun kv => .put (.vinst kv.1 { quiesceAt := kv.2.quiesceAt, flr := kv.2.flr }))
  else if page == 9 then seqs [.put (.rprEvt []), .put (.rotLast []), .put (.rotClassAt []), .put (.rotAt s.mono)]
  else .skip

/-- What follows when the values of a block have returned to reset: the checks and states that its commits and writes keep up. -/
def resetFollows (page : Nat) (old : State) : Prog :=
  if 16 ≤ page && page < 64 then portCommit (page - 16) (old.unitsAt (regKey page 0x200))
  else if 64 ≤ page && page < 88 then flxJudge (page - 64)
  else if page == 98 then asmCommit (fieldOf (old.unitsAt (regKey 98 0x200)) 15 0) (old.unitsAt (regKey 98 0x204)).toNat
  else if 180 ≤ page && page < 228 then gateCommit (page - 180) .skip .skip
  else if 244 ≤ page && page < 256 then linksApply (page - 244)
  else .skip

/-- SOFT_RESET_DONE (R55, R690): the reset of the page's block, once no table command is BUSY and no filter rebuild is under way (R701); SOFT_RESET reads 0 again. -/
def execSoftResetDone (page : Nat) (s : State) : Host.Outcome State Fault Refusal :=
  command (.softResetDone page) (.look fun s =>
    let ps := pagesWith page
    let building := page == 100 && (s.rd LPM_STAT.BUILD4 == 1 || s.rd LPM_STAT.BUILD6 == 1)
    onlyIf (s.rd (BLK_CTRL.SOFT_RESET page) == 1 && !building && ps.all (fun p => s.rd (TBL_STAT.BUSY p) == 0)) (seqs [
      each ps resetUnits,
      each ps resetRegs,
      each ps (fun p => resetFollows p s)])) s

/-! ### Interrupts and error capture -/

/-- BLK_INT_CLEAR (R59): a W1C write in a clock in which hardware sets the bits of `hw`: those stay set. -/
def execBlkIntClear (m page : Nat) (data hw : Word) (s : State) : Host.Outcome State Fault Refusal :=
  command (.blkIntClear m page data hw) (.andThen
    (hostWrite m page 0x10 15 (data &&& ~~~hw))
    (.look fun s => onlyIf (s.blkUpAt page && (blockOf page).isSome) (setIntBits page (hw &&& 0xFFFF000F)))) s

/-- BLK_INT_FORCE (R58). -/
def execBlkIntForce (m page : Nat) (data : Word) (s : State) : Host.Outcome State Fault Refusal :=
  command (.blkIntForce m page data) (hostWrite m page 0x18 15 data) s

/-- ERRCAP_CLEAR (R60): MORE clears with VALID. -/
def execErrcapClear (m page : Nat) (data : Word) (s : State) : Host.Outcome State Fault Refusal :=
  command (.errcapClear m page data) (hostWrite m page 0x3C 15 data) s

/-! ### Commits -/

/-- COMMIT (R64): BLK_COMMIT written with GO 1. -/
def execCommit (m page : Nat) (data : Word) (s : State) : Host.Outcome State Fault Refusal :=
  command (.commit m page data) (hostWrite m page 0x40 15 (data ||| 1)) s

/-- COMMIT_TAKEN (R67, R68, R72): every unit has taken the committed values; a commit whose chapter names a later point ends there. -/
def execCommitTaken (page : Nat) (s : State) : Host.Outcome State Fault Refusal :=
  command (.commitTaken page) (.look fun s =>
    onlyIf (s.rd (BLK_COMMIT_STAT.PENDING page) == 1 && !s.commitLateAt page) (.andThen (commitDone page) (onlyIf (16 ≤ page && page < 64) (linkRefresh (page - 16))))) s

end Sys2Proof.Machine
end

