-- ==== Sys2Proof/Machine/DieLink.lean ====
section
/-!
DEFINITION. The die-to-die link (spec/01_architecture.md R13 to R19, R28 to R36): flits and their order, requests from one die to the other, their
execution and responses, and the loss of the link.
-/
namespace Sys2Proof.Machine

/-! ### Flits (R15, R16) -/

/-- The flits that follow the next number in order, of those that wait behind a gap, and the receiving end once they are delivered; `fuel` bounds how many. -/
def flitsFollow : Nat → FlitRx → List Flit × FlitRx
  | 0, x => ([], x)
  | fuel + 1, x =>
    match x.wait.find? (fun f => f.seq == x.next) with
    | some f =>
      let y := flitsFollow fuel { next := x.next + 1, wait := x.wait.filter (fun g => g.seq != x.next) }
      (f :: y.1, y.2)
    | none => ([], x)

/-- A good flit arrives: what it lets be delivered, each flit once and in the order of the link sequence numbers.  The numbers start at 0 and do not wrap: DESIGN CHOICE (log entry 70). -/
def flitTake (x : FlitRx) (f : Flit) : List Flit × FlitRx :=
  if f.seq < x.next || x.wait.any (fun g => g.seq == f.seq) then ([], x)
  else flitsFollow (x.wait.length + 1) { x with wait := x.wait ++ [f] }

/-- A retry (R16): it is counted for its module, sends a Corrected message that names the module, and more than 16 on a module within 1 ms declare it dead (R556).  The spec does not
say which module a retried flit goes out on; DESIGN CHOICE (log entry 70): the working module at place seq + retries of the module + 1, modulo the working modules. -/
def flitRetry (die seq module : Nat) : Prog := .look fun s =>
  let times := s.mono :: (s.modRetryAt module).filter (fun t => !s.since t 1000000)
  let x := s.dieTxAt (1 - die)
  seqs [
    unitError 256 0x020 1 seq module,
    .put (.modRetries module (s.modRetriesAt module + 1)),
    .put (.modRetry module times),
    onlyIf (decide (16 < times.length)) (declareUnit clsD2d module 0x020),
    .put (.dieTx (1 - die) { x with replay := x.replay.map (fun f => if f.seq == seq then { f with module := s.stripe (seq + s.modRetriesAt module + 1) } else f) })]

/-- A flit is delivered at a die; one of channel 3 that carries a credit lets its source send the next request that waits for one (R17, R29). -/
def flitDeliver (die : Nat) (f : Flit) : Prog := .andThen (.andThen (emit (.flit die f.chan f.words)) (alignFollower (1 - die) f.seq))
  (match f.chan, f.words with
   | 3, [0, k] => dieIssue k
   | _, _ => .skip)

/-- FLIT_RECEIVE (R15, R16, R563): the flit with a link sequence number arrives at a die on a module, as the other die's replay buffer holds it; a flit of a module that
does not work is discarded as stale, one whose CRC fails is sent again, and a good one is delivered once, in order. -/
def execFlitReceive (die module seq : Nat) (bad : Bool) (s : State) : Host.Outcome State Fault Refusal :=
  command (.flitReceive die module seq bad) (.look fun s =>
    let tx := s.dieTxAt (1 - die)
    if s.role clsD2d module != 1 then staleOutput clsD2d module module (s.unit clsD2d module UNIT.GEN)
    else if bad then flitRetry die seq module
    else
      match tx.replay.find? (fun f => f.seq == seq && f.module == module) with
      | some f =>
        let y := flitTake (s.dieRxAt die) f
        seqs [
          .put (.dieTx (1 - die) { tx with replay := tx.replay.filter (fun g => g.seq != seq) }),
          .put (.dieRx die y.2),
          each y.1 (flitDeliver die)]
      | none => .skip) s

/-! ### Requests -/

/-- CROSS_DIE_REQUEST (R28 to R31): a source places a request on the link: a read of
`read.1` words, or a posted write of the words `data.2` with the byte enables `data.1`, to a page of the other die or, with `read.2`, to host memory through the PCIe
endpoint.  One beyond its credits waits in its transmit queue and sends no flit (R30). -/
def execCrossDieRequest (src : Nat) (read : Option Nat × Bool) (page off : Nat) (data : Nat × List Word) (s : State) : Host.Outcome State Fault Refusal :=
  command (.crossDieRequest src read page off data) (.look fun s =>
    let r : DieReq := { read := read.1.isSome, master := (srcMaster src).getD 0xE000, page := page, off := off, be := data.1, data := data.2.map BitVec.toNat,
                        n := read.1.getD 0, host := read.2 }
    onlyIf (dieOf page != srcDie src && (srcMaster src).all (fun m => s.reaches m))
      (crossPlace src r)) s

/-- The address of a word of TM-die memory that the FE die's sources reach.  DESIGN CHOICE (log entry 60): the spec does not say which TM-die memory these requests name; the model keeps
one store of its own for them, joined to no table or buffer, at page * 65536 + offset. -/
def tmWord (page off : Nat) : Nat := page * 65536 + off

/-- The words of a read of host memory: what the host answers, free values. -/
def hostWords : Nat → List Nat → (List Nat → Prog) → Prog
  | 0, ws, k => k ws
  | n + 1, ws, k => draw (fun v => hostWords n (ws ++ [v % 2 ^ 32]) k)

/-- A request of an FE-die source executes on the TM die (R32): a write reaches host memory or TM-die memory; a read takes what TM-die memory holds, or reads host memory
through the PCIe endpoint. -/
def tmExecute (r : DieReq) (answer : List Nat → Prog) : Prog := .look fun s =>
  if r.read && r.host then .andThen (emit (.dmaRead 0 (tmWord r.page r.off) (4 * r.n) {})) (hostWords r.n [] answer)
  else if r.read then answer ((List.range r.n).map (fun i => (s.tmMemAt (tmWord r.page (r.off + 4 * i))).toNat))
  else if r.host then emit (.dmaWrite 0 (tmWord r.page r.off) (r.data.flatMap (toBytesLE 4)) {})
  else each r.data.zipIdx (fun w => .put (.tmMem (tmWord r.page (r.off + 4 * w.2)) (BitVec.ofNat 32 w.1)))

/-- An executed read keeps its words until its response arrives; the response goes out on channel 2 (R28). -/
def crossAnswer (k : Nat) (r : DieReq) (ws : List Nat) : Prog := .look fun s =>
  .andThen (.put (.dieRead k (s.dieReadAt k ++ [{ r with data := ws, sent := some (s.dieTxAt (1 - srcDie k)).next }])))
    (crossFlit (1 - srcDie k) 2 ([k, r.page, r.off] ++ ws))

/-- The words of a read by a source that names a master, gathered one by one. -/
def gatherWords (k : Nat) (r : DieReq) : Nat → Nat → List Nat → Prog
  | _, 0, ws => crossAnswer k r ws
  | off, n + 1, ws => regRead r.master r.page off (fun w => gatherWords k r (off + 4) n (ws ++ [w.toNat]))

/-- Whether what a flit carries has been delivered at a die, in link sequence order (R15). -/
def State.delivered (s : State) (die : Nat) (r : DieReq) : Bool := r.sent.any (fun q => decide (q < (s.dieRxAt die).next))

/-- Whether a request to host memory may go out of the PCIe endpoint (R463, R488). -/
def State.hostMay (s : State) (r : DieReq) : Bool := !r.host || (s.dmaOn 0 && s.rd PCIE_LINK_STAT.IN_L1 == 0)

/-- CROSS_DIE_EXECUTE (R32, R33, R35): the oldest request of a source, once its flit has been delivered, executes whole on the other die and its credit returns on channel 3.  A response
follows on channel 2 whatever its die placed on channel 1 before the read executed: the link keeps one sequence (R15, R33). -/
def execCrossDieExecute (src : Nat) (s : State) : Host.Outcome State Fault Refusal :=
  command (.crossDieExecute src) (.look fun s =>
    match s.dieQAt src with
    | [] => .skip
    | r :: rest => onlyIf (s.dieDownAt.isNone && s.delivered (1 - srcDie src) r && s.hostMay r) (seqs [
        .put (.dieQ src rest),
        (match srcMaster src with
         | some _ => if r.read then .andThen (gatherWords src r r.off r.n []) (creditBack src) else crossWrite src r r.off r.be r.data
         | none => seqs [
             tmExecute r (crossAnswer src r),
             onlyIf (!r.read) (crossFlit (1 - srcDie src) 2 [src, r.page, r.off]),
             creditBack src])])) s

/-- CROSS_DIE_RESPONSE (R31, R33, R538): the oldest read response, once its flit has been delivered, reaches its source; one for the old main core is discarded. -/
def execCrossDieResponse (src : Nat) (s : State) : Host.Outcome State Fault Refusal :=
  command (.crossDieResponse src) (.look fun s =>
    match s.dieReadAt src with
    | [] => .skip
    | r :: rest => onlyIf (s.dieDownAt.isNone && s.delivered (srcDie src) r)
        (.andThen (.put (.dieRead src rest)) (onlyIf (!r.stale) <| each r.data.zipIdx (fun w => emit (.readData r.master r.page (r.off + 4 * w.2) w.1 false))))) s

/-- Whether a held access is the service core's own write of an ECMP member on the FE die that waits to cross (R446). -/
def State.heldOut (s : State) (k : Nat) (h : Held) : Bool := h.what == 6 && masterSrc h.master == some k

/-- What a source loses with the link (R36): error responses to its reads, its writes counted. -/
def srcLost (k : Nat) : Prog := .look fun s =>
  let reads := (s.dieQAt k).filter (fun r => r.read) ++ s.dieReadAt k
  seqs [
    each (reads.filter (fun r => !r.stale)) (fun r => emit (.readData r.master r.page r.off 0 true)),
    .put (.dieLost k (s.dieLostAt k + ((s.dieQAt k).filter (fun r => !r.read)).length + (s.jnlHeld.filter (s.heldOut k)).length)),
    .put (.dieQ k []),
    .put (.dieRead k []),
    onlyIf (s.jnlHeld.any (s.heldOut k)) (.put (.jnlHeld (s.jnlHeld.filter (fun h => !s.heldOut k h))))]

/-- DIE_LINK_LOSS (R36): for 10 microseconds no module has worked; outstanding reads get errors, writes are lost and the device goes Fatal. -/
def execDieLinkLoss (s : State) : Host.Outcome State Fault Refusal :=
  command .dieLinkLoss (.look fun s =>
    match s.dieDownAt with
    | some t => onlyIf (s.since t 10000 && (!s.fatalLatch || (List.range 18).any (fun k => !(s.dieQAt k).isEmpty || !(s.dieReadAt k).isEmpty))) (.andThen (each (List.range 18) srcLost) (goFatal 256 0x021 0))
    | none => .skip) s

end Sys2Proof.Machine
end

