-- ==== Sys2Proof/Machine/PtpTx.lean ====
section
/-!
DEFINITION. The messages of the PTP clock that the service cores' firmware sends (spec/11_time.md R430 to R432).
-/
namespace Sys2Proof.Machine

/-- `8 * n` free bytes, handed to `k`. -/
def drawBytes : Nat → List Nat → (List Nat → Prog) → Prog
  | 0, acc, k => k acc
  | n + 1, acc, k => draw (fun v => drawBytes n (acc ++ toBytesBE 8 v) k)

/-- The length of a PTP message of a type (IEEE 1588, log entry 45); none for the reserved types. -/
def ptpLength (type : Nat) : Option Nat :=
  [some 44, some 44, some 54, some 54, none, none, none, none, some 44, some 54, some 54, some 64, some 44, some 48, none, none][type]?.getD none

/-- The profile in force: 5 to 7, reserved, act as 0 (PTP_CLOCK_CFG). -/
def State.ptpProfile (s : State) : Nat := if 5 ≤ s.rd PTP_CLOCK_CFG.PROFILE then 0 else s.rd PTP_CLOCK_CFG.PROFILE

/-- Whether the clock's profile has messages of a type (R431): the delay mechanism of the profile, request-response, peer-to-peer, or in ST 2059-2 either. -/
def profileHas (profile type : Nat) : Bool :=
  if profile == 1 then !(type == 1 || type == 9) else profile == 4 || !(type == 2 || type == 3 || type == 10)

/-- What a grandmaster's own Announce carries: the UTC offset with its flags, priority1 and priority2 (PTP_UTC, PTP_CLOCK_CFG; log entry 45). -/
def State.ptpAnnounce (s : State) (type : Nat) (b : List Nat) : List Nat :=
  if type == 11 && s.rd PTP_CLOCK_CFG.MODE == 3 then
    let flags := s.rd PTP_UTC.LEAP61 + 2 * s.rd PTP_UTC.LEAP59 + 4 * s.rd PTP_UTC.VALID + 8
    let b := b.take 7 ++ [flags] ++ b.drop 8
    b.take 44 ++ toBytesBE 2 (s.rd PTP_UTC.OFFSET) ++ (b.drop 46).take 1 ++ [s.rd PTP_CLOCK_CFG.PRIORITY1] ++ (b.drop 48).take 4 ++ [s.rd PTP_CLOCK_CFG.PRIORITY2] ++ b.drop 53
  else b

/-- A PTP message: its header names the clock's domain, the port and the sequence number; what the firmware's protocol decides is free. -/
def State.ptpMessage (s : State) (port type len : Nat) (free : List Nat) : List Nat :=
  let twoStep := s.rd (PTP_PORT_CFG.ONE_STEP port) == 0 && (type == 0 || type == 3)
  let control := if type == 0 then 0 else if type == 1 then 1 else if type == 8 then 2 else if type == 9 then 3 else if type == 13 then 4 else 5
  s.ptpAnnounce type <| ([type, 0x12] ++ toBytesBE 2 len ++ [s.rd PTP_CLOCK_CFG.DOMAIN, 0, if twoStep then 2 else 0, 0] ++ List.replicate 12 0 ++ free.take 8 ++
    toBytesBE 2 (port + 1) ++ toBytesBE 2 (s.ptpSeqAt (16 * port + type)) ++ [control] ++ (free.drop 8)).take len

/-- A PTP message in its transport: Ethernet, UDP/IPv4 or UDP/IPv6, as the port and the profile permit, G.8275.1 Ethernet, G.8275.2 and
ST 2059-2 UDP (R431, PTP_PORT_CFG; log entry 45). -/
def State.ptpFrame (s : State) (port type : Nat) (smac src pay : List Nat) : Option (List Nat) :=
  let udp := if type < 4 then 319 else 320
  let peer := type == 2 || type == 3 || type == 10
  if s.rd (PTP_PORT_CFG.L2 port) == 1 && s.ptpProfile < 3 then
    some ((if peer then [0x01, 0x80, 0xC2, 0, 0, 0x0E] else [0x01, 0x1B, 0x19, 0, 0, 0]) ++ smac.take 6 ++ [0x88, 0xF7] ++ pay)
  else if s.rd (PTP_PORT_CFG.UDP4 port) == 1 && s.ptpProfile != 2 then
    some (udpPacket false (ofBytesBE (src.take 4)) (if peer then 0xE000006B else 0xE0000181) udp udp 1 pay)
  else if s.rd (PTP_PORT_CFG.UDP6 port) == 1 && s.ptpProfile != 2 then
    some (udpPacket true (ofBytesBE (src.take 16)) ((if peer then 0xFF02 else 0xFF0E) * 2 ^ 112 + (if peer then 0x6B else 0x181)) udp udp 1 pay)
  else none

/-- PTP_MESSAGE_GENERATION (R431): the firmware sends a message of a type on a port that takes part in the clock.  It joins the port's MAC queue: the queue
it is charged to is free (log entry 45). -/
def execPtpMessageGeneration (port type : Nat) (s : State) : Host.Outcome State Fault Refusal :=
  command (.ptpMessageGeneration port type) (whenEnabled 12 <| .look fun s =>
    let mode := s.rd PTP_CLOCK_CFG.MODE
    let sends := mode != 0 && profileHas s.ptpProfile type && (mode != 2 || [1, 2, 3, 10, 12, 13].contains type)
    match ptpLength type with
    | none => .skip
    | some len =>
      onlyIf (sends && s.rd (PTP_PORT_CFG.EN port) == 1 && s.ptpPort port && s.rd (PORT_STAT.LINK_UP port) == 1 && (s.coreOf 0).isSome)
        (drawBytes 9 [] fun free => match s.ptpFrame port type (free.drop 48) (free.drop 56) (s.ptpMessage port type len free) with
          | none => .skip
          | some b => .andThen (.put (.ptpSeq (16 * port + type) ((s.ptpSeqAt (16 * port + type) + 1) % 65536)))
              (draw (fun v => newBody { bytes := b, whole := true, refs := 1 } (fun i => .look fun t =>
                let p : Pkt := { body := i, kind := 3, srcDev := t.ownId, dev := t.ownId, dport := port, queue := v % 2 ^ 19,
                                 frameLen := b.length + 4, declMax := b.length + 4 }
                .put (.macQ port (t.macQAt port ++ [p]))))))) s

end Sys2Proof.Machine
end

