-- ==== Sys2Proof/Machine/StartUp.lean ====
section
/-!
DEFINITION. Power-up, the resets of the whole device and the stages of the cold start (spec/15_start_up.md R511 to R529).
-/
namespace Sys2Proof.Machine

/-! ### What a reset of the device keeps -/

/-- The registers of the backup domain (R646): PPR_STAT and the BKP registers. -/
def backupRegs : List Nat :=
  ([0x204, 0x220, 0x224, 0x228] ++ (List.range 32).map (fun i => 0x1000 + 4 * i)).map (regKey 7)

/-- The registers of the always-on domain (R512): the reset cause, the SLOT_ID latch with its copy in FAB_DEV_ID, and the CRY_FATAL capture (R584). -/
def alwaysOnRegs : List Nat :=
  [regKey 1 0x204, regKey 1 0x214, regKey 240 0x200] ++ (List.range 7).map (fun i => regKey 5 (0x270 + 4 * i))

/-- Lanes that are no longer driven (R515). -/
def stopLanes : Prog := seqs [
  each (List.range 48) (fun p => emit (.signal 3 p true)),
  each (List.range 144) (fun l => emit (.signal 6 l true)),
  emit (.signal 7 0 true)]

/-- What follows a reset of the device: the presence window is closed and the TAP locked (R640, R643), and Fatal messages on their way to CRY_FATAL stay on their way. -/
def afterRestart (cold : Nat) : Prog := seqs [
  setF PPR_STAT.WINDOW_OPEN 0,
  setF PPR_STAT.LEFT_S 0,
  setF PPR_STAT.JTAG_UNLOCKED 0,
  setF DEV_RESET_CAUSE.RESTART 0,
  setF DEV_RESET_CAUSE.COLD cold,
  .look fun s => .put (.fatalQ (s.fatalQ.map (fun x => (x.1, 0)))),
  stopLanes]

/-- The state after a power-on reset: the Fatal latch is clear (R517). -/
def State.powered (s : State) (keep : List Nat) : State := { s.restarted keep with fatalLatch := false, fatalQ := [], latchDue := true }

/-- FATAL_N is released with the Fatal latch (R517). -/
def releaseFatal : Prog := .look fun s => onlyIf s.fatalLatch (emit (.pin "FATAL_N" true))

/-- MAIN_POWER_ON_RESET (R515 to R518): VIN12 has been below 10.8 V for 100 us. -/
def execMainPowerOnReset (s : State) : Host.Outcome State Fault Refusal :=
  resetCommand .mainPowerOnReset releaseFatal (fun _ => true) (fun t => t.powered (alwaysOnRegs ++ backupRegs))
    (.andThen (.put (.supVin12 false)) (afterRestart 1)) s

/-- STANDBY_POWER_ON_RESET (R516, R517, R530): VSB33 has risen through 3.0 V from below 2.5 V; the whole always-on domain is reset, and the start begins anew (log entry 34). -/
def execStandbyPowerOnReset (s : State) : Host.Outcome State Fault Refusal :=
  resetCommand .standbyPowerOnReset .skip (fun t => !t.supVsb33) (fun t => t.powered backupRegs)
    (seqs [
      .put (.supVsb33 true),
      setF BKP_STAT.ON_CELL 0,
      afterRestart 0,
      each (List.range 48) (fun p => cagePins p false true)]) s

/-- Whether a low pulse of `ns` on RESET_N resets the device (R516, R517): below 100 ns it does not, from 1 us it does, and between them the manual leaves it open: a free
value decides (log entry 2). -/
def resetNActs (ns draws : Nat) : Bool := decide (1000 ≤ ns) || (decide (100 ≤ ns) && (Config.freeValue draws).toNat % 2 == 1)

/-- RESET_N_ASSERT (R516, R517): as main power-on reset, with the Fatal latch and the SLOT_ID latch kept. -/
def execResetNAssert (ns : Nat) (s : State) : Host.Outcome State Fault Refusal :=
  resetCommand (.resetNAssert ns) (onlyIf (100 ≤ ns && ns < 1000) (.put (.fresh (s.fresh + 1)))) (fun _ => resetNActs ns s.fresh)
    (fun t => t.restarted (alwaysOnRegs ++ backupRegs)) (.andThen (.put (.resetLow true)) (afterRestart 2)) s

/-- VSB33_LOSS (R512, R646, R672): VSB33 leaves its range; with `vbat` the backup domain runs on its cell, and FATAL_N and THERM_ALERT_N are no longer driven. -/
def execVsb33Loss (vbat : Bool) (s : State) : Host.Outcome State Fault Refusal :=
  command (.vsb33Loss vbat) (.look fun s => seqs [
    onlyIf s.supVsb33 (.andThen releaseFatal (onlyIf s.alert (emit (.pin "THERM_ALERT_N" true)))),
    .put (.supVsb33 false),
    setF BKP_STAT.ON_CELL (b2n vbat)]) s

/-! ### Power-fail warning (R514, R618) -/

/-- POWER_FAIL_WARNING (R514): PWR_GOOD falls (`pin`), or VIN12 is below 10.8 V for 10 us; a store write in progress stops (R618). -/
def execPowerFailWarning (pin : Bool) (s : State) : Host.Outcome State Fault Refusal :=
  command (.powerFailWarning pin) (seqs [
    either pin (setF DEV_STAT.PWR_GOOD 0) (.put (.supVin12 false)),
    .look fun s => onlyIf (s.rd DEV_STAT.PF_WARN == 0) (seqs [
      setF DEV_STAT.PF_WARN 1,
      .put (.storeBusy false),
      raise 1 20,
      raise 257 19])]) s

/-- POWER_FAIL_CLEAR (R514, R618): PWR_GOOD is high and VIN12 in range; the stopped write may start again, and a start of the main core that waited for one is made. -/
def execPowerFailClear (s : State) : Host.Outcome State Fault Refusal :=
  command .powerFailClear (.look fun s => onlyIf (s.rd DEV_STAT.PF_WARN == 1) (seqs [
    setF DEV_STAT.PWR_GOOD 1,
    .put (.supVin12 true),
    setF DEV_STAT.PF_WARN 0,
    onlyIf (3 ≤ s.rd DEV_STAT.STAGE && s.bootAt.isNone && s.rd DEV_STAT.MAIN_UP == 0 && s.rd DEV_STAT.RECOVERY == 0) bootRom])) s

/-! ### The cold start (R519 to R529) -/

/-- The start enters a stage: STAGE, its time from t0 in us, BLOCK_INT bit 16 (R520, R528). -/
def enterStage (k : Nat) : Prog := .look fun s => seqs [
  setF DEV_STAT.STAGE k,
  setF (DEV_STAGE_TIME.US k) ((s.mono - s.coldT0.getD s.mono) / 1000),
  onlyIf (k != 0) (raise 1 16)]

/-- COLD_START (R511, R520): both supplies in range, PWR_GOOD and RESET_N high, with SLOT_ID at `slot`: t0 of the cold start.  MONO restarts at 0 (R417). -/
def execColdStart (slot : Nat) (s : State) : Host.Outcome State Fault Refusal :=
  resetCommand (.coldStart slot) .skip (fun t => t.coldT0.isNone) (fun t => { t with mono16 := 0 }) (.look fun s => seqs [
    .put (.coldT0 (some 0)),
    .put (.supVin12 true),
    .put (.supVsb33 true),
    .put (.resetLow false),
    .put (.slotPins slot),
    setF DEV_SLOT.PINS slot,
    setF DEV_STAT.PWR_GOOD 1,
    setF BKP_STAT.ON_CELL 0,
    onlyIf s.fatalLatch (seqs [setF DEV_STAT.FATAL_LATCHED 1, setF CRY_STAT.FATAL 1, setF FAB_STAT.SAFE 1]),
    enterStage 0]) s

/-- RAIL_FAIL (R513): a die rail is not within its limits 4 ms after t0; the start stops at stage POWER, in the safe state. -/
def execRailFail (s : State) : Host.Outcome State Fault Refusal :=
  command .railFail (.look fun s => onlyIf (s.coldT0.isSome && s.rd DEV_STAT.STAGE == 0 && !s.stopped)
    (.andThen (.put (.stopped true)) (goFatal 1 0x24 0))) s

/-- A block's pages are up, enabled and ready. -/
def blockUp (page : Nat) : Prog := seqs [
  .put (.blkUp page true),
  setF (BLK_CTRL.ENABLE page) 1,
  setF (BLK_STAT.READY page) 1]

/-- Device time from the real-time clock (R419), or 0 when the backup domain was lost. -/
def timeFromRtc : Prog := .look fun s =>
  if s.rd BKP_STAT.LOST == 1 then .andThen (.put (.time16 0)) (setF PTP_STAT.SRC_IN_USE 4)
  else .andThen (.put (.time16 (s.rtcSec * 1000000000 * 65536))) (setF PTP_STAT.SRC_IN_USE 0)

/-- Stage FUSES (R518, R520 step 2). -/
def toFuses : Prog := .look fun s => seqs [
  each [0, 1, 2, 3] blockUp,
  onlyIf s.latchDue (seqs [
    .put (.latchDue false),
    setF DEV_SLOT.LATCHED s.slotPins,
    setF FAB_DEV_ID.ID s.slotPins]),
  timeFromRtc,
  onlyIf s.refclk (setF PWR_STAT.REFCLK_OK 1),
  enterStage 1]

/-- Stage REPAIR (R520 step 3, R522): the newer copy of the peg map that passes its check, or an empty map, which is to be written, with a Notice. -/
def toRepair (pegOk : Bool) : Prog := .look fun s => seqs [
  either pegOk
    (seqs [.put (.pegs s.pegStore.1), setF RPR_PEG_SEQ.SEQ s.pegStore.2, setF RPR_PEG_STAT.COPY (s.pegStore.2 % 2)])
    (seqs [.put (.pegs []), .put (.pegDue (some s.mono)), setF RPR_PEG_STAT.PENDING 1, report 1 0x023 0]),
  enterStage 2]

/-! ### Units at the start (R520 steps 3 and 4, R523, R546, R547) -/

/-- Whether the peg map names a unit as failed. -/
def State.pegFailed (s : State) (c u : Nat) : Bool := s.pegs.any (fun g => g.kind == 1 && g.cls == c && g.unit == u)

/-- The unit that the peg map gives a logical number: its home, or its bank. -/
def State.pegHome (s : State) (c l : Nat) : Nat :=
  match s.pegs.find? (fun g => g.kind == (if c ≤ 2 then 2 else 3) && g.cls == c && g.detail == l) with
  | some g => g.unit
  | none => l

/-- The unit that takes each of a class's places at start: its own, or, where that one has failed, the lowest-numbered working unit that none needs. -/
def startPlaces (units working : Nat) (own : Nat → Nat) (bad : Nat → Bool) : List (Nat × Option Nat) :=
  let kept := (List.range working).filter (fun l => !bad (own l))
  let free := (List.range units).filter (fun u => !bad u && !kept.any (fun l => own l == u))
  let need := (List.range working).filter (fun l => bad (own l))
  (List.range working).map (fun l => (l, if bad (own l) then free[need.idxOf l]? else some (own l)))

/-- A place without a unit: its class starts in the degraded mode (R523, R571). -/
def startDegraded (c l old : Nat) : Prog := .look fun s =>
  let r : Recov := { logical := l, old := old, at_ := s.mono, cause := 0x24, degraded := true }
  seqs [
    .put (.recov c (s.recovAt c ++ [r])),
    onlyIf (!s.isDegraded c) (.andThen (setBitF RPR_STAT.DEGRADED c true) (.andThen (reportError 9 4 2 c 0xF000 3 0x024 0) (raise 9 20))),
    rprEvent 8 c old l 0 0x024,
    onlyIf (c == clsPipe) (spreadHeld l (fun bs => changeRecov c (fun x => x.old == old && x.logical == l) (fun x => { x with buckets := x.buckets ++ bs })))]

/-- A unit is ACTIVE in a place from the start (R546, R561). -/
def startPlace (c u l : Nat) : Prog := .look fun s => seqs [
  setUnit c u UNIT.ROLE 1,
  setUnit c u UNIT.LOGICAL (if c == clsD2d then noLogical else l),
  setUnit c u UNIT.GEN (if c ≤ 2 then s.gensAt (unitKey c l) else if c == clsD2d then 1 else 0),
  onlyIf (c == clsD2d) (.put (.gens (unitKey c u) 1)),
  onlyIf (c ≤ 2) (.andThen (setUnit c u UNIT.HOME_VALID 1) (setUnit c u UNIT.HOME l))]

/-- The units of a class take their roles. -/
def startClass (c : Nat) : Prog := .look fun s =>
  let bad (u : Nat) : Bool := s.pegFailed c u
  let places := startPlaces (classUnits c) (classWorking c) (s.pegHome c) bad
  seqs [
    each (List.range (classUnits c)) (fun u => .andThen (setRole c u (if bad u then 5 else 2)) (setUnitX c u (fun x => { x with passed := !bad u }))),
    each places (fun x => match x.2 with
      | none => .skip
      | some u => seqs [
          assignGen c x.1,
          startPlace c u x.1,
          onlyIf (u != s.pegHome c x.1 && c != clsD2d) (
            let k := if c ≤ 2 then 2 else 3
            pegAdd { kind := k, cls := c, unit := u, detail := x.1 } (fun g => g.kind == k && g.cls == c && g.detail == x.1))]),
    each places (fun x => onlyIf x.2.isNone (startDegraded c x.1 (s.pegHome c x.1))),
    onlyIf (c == clsD2d) dieShow,
    .look fun t => onlyIf ((c == clsPipe || c == clsScheng || c == clsD2d) && (List.range (classUnits c)).all (fun u => t.role c u != 1)) (goFatal 1 0x025 c)]

/-- A failing lane of a UCIe module (lanes 0 to 63 one direction, 64 to 127 the other) is remapped onto the next of the direction's two spares, 64 and 65, and
recorded in the peg map; with no spare left the module has failed (R544, R547).  DESIGN CHOICE (log entry 99): the lane numbers, and that the module fails. -/
def spareUcie (m lane : Nat) : Prog := .look fun s =>
  let mine := s.pegs.filter (fun g => g.kind == 7 && g.unit == m)
  let used := (mine.filter (fun g => g.detail / 64 == lane / 64)).length
  if mine.any (fun g => g.detail == lane) then .skip
  else if 2 ≤ used then pegAdd { kind := 1, cls := clsD2d, unit := m } (fun g => g.kind == 1 && g.cls == clsD2d && g.unit == m)
  else pegAdd { kind := 7, unit := m, detail := lane, addr := 64 + used } (fun _ => false)

/-- The defects that BIST and the UCIe training have found join the peg map (R523), 128 * class + unit for a unit and 1024 + 128 * module + lane for a lane, and every
class takes its roles. -/
def startUnits (defects : List Nat) : Prog := seqs [
  each (defects.filter (fun d => 1024 ≤ d && d < 1024 + 28 * 128)) (fun d => spareUcie (d / 128 - 8) (d % 128)),
  each (defects.filter (fun d => d % 128 < classUnits (d / 128))) (fun d =>
    pegAdd { kind := 1, cls := d / 128, unit := d % 128 } (fun g => g.kind == 1 && g.cls == d / 128 && g.unit == d % 128)),
  each [0, 1, 2, 3, 4, 5] startClass]

/-! ### CORES and HELD (R519, R520 step 6) -/

/-- What the main core does when it first runs (R582, R649, R652, R658): the START record, the backup log copied, the BREACH record and fault, the FATAL record. -/
def mainStarts : Prog := seqs [
  setF DEV_STAT.MAIN_UP 1,
  journalStart,
  bkpCopyLog,
  .look fun s => onlyIf (s.rd PPR_STAT.BREACH == 1) breachFault,
  .look fun s => onlyIf (s.rd CRY_FATAL_STAT.VALID == 1)
    (recordLater { mkRecord s 14 0x2000 0 0 0 (s.reg 5 0x270).toNat (s.rd CRY_FATAL_STAT.COUNT) with persist := true }),
  each [0, 1] (fun k => .look fun s => match s.snapSlotAt k with
    | some x => .andThen (setF (UPD_SNAP_JSEQ_LO.JSEQ k) (x.jseq % 2 ^ 32)) (setF (UPD_SNAP_JSEQ_HI.JSEQ k) (x.jseq / 2 ^ 32))
    | none => .skip)]

/-- Every page of every block. -/
def allPages : List Nat := (blocks.map (fun b => (List.range (b.pages * b.count)).map (fun k => b.first + k))).flatten

/-- Stage HELD (R519); OPEN_CLASS of the page that CRY_FATAL names shows the latched Fatal (R585). -/
def toHeld : Prog := seqs [each [5, 6, 7, 8] blockUp, mainStarts, each allPages refreshOpen, enterStage 8]

/-- Stage CORES: the service cores loaded from the booted image, and the trial's confirmation time (R633). -/
def toCores : Prog := .look fun s => seqs [
  each [5, 6, 7, 8, 9] blockUp,
  each (List.range 9) (fun u => .put (.coreTag u (s.serviceTag s.ctl.boot))),
  mainStarts,
  onlyIf ((s.ctl.slot s.ctl.boot).st == 4) trialTime,
  enterStage 4]

/-! ### BLOCKS (R520 step 7, R525) -/

/-- Start-up writes a register: for a shadowed one, its shadow and what the units use. -/
def startReg (f : Fld) (v : Word) : Prog := seqs [
  setReg f.page f.off v,
  .put (.units (regKey f.page f.off) v),
  .put (.startVal (regKey f.page f.off) (some v))]

/-- The hash and distributor seeds from the random source (R181, R207, R229): free values (log entry 2). -/
def startSeeds : Prog :=
  each [LPM_HASH_SEED.reg, EXM_HASH_SEED.reg, L2B_HASH_SEED.reg, NHP_HASH_SEED.reg, PIPE_DIST_SEED.reg] (fun f => draw (fun v => startReg f (BitVec.ofNat 32 v)))

/-- The paths and queues of ports 48 to 50 and the L0 entries (R291). -/
def startPaths : Prog := seqs [
  each (List.range 64) (fun p => .andThen (setTabF 177 0 p SCH.EN 1) (setTabF 177 0 p SCH.OVH 20)),
  each [0, 1, 2] (fun i => seqs [
    setTabF 177 1 (1021 + i) SCH.EN 1, setTabF 177 1 (1021 + i) SCH.PARENT (48 + i),
    setTabF 177 2 (16381 + i) SCH.EN 1, setTabF 177 2 (16381 + i) SCH.PARENT (1021 + i),
    setTabF 177 3 (65533 + i) SCH.EN 1, setTabF 177 3 (65533 + i) SCH.PARENT (16381 + i)]),
  each (List.range 24) (fun i => seqs [
    setTabF 176 0 (524264 + i) QE.EN 1, setTabF 176 0 (524264 + i) QE.CLASS 2, setTabF 176 0 (524264 + i) QE.MAX_LEN 10240])]

/-- The admission and buffer profiles (QM table 1, BUF table 1). -/
def startProfiles : Prog := each (List.range 256) (fun i => seqs [
  setTabF 176 1 i ADM.PMAX 10, setTabF 176 1 i ADM.ECN_MIN 1024, setTabF 176 1 i ADM.ECN_MAX 4096,
  setTabF 176 1 i ADM.YEL_PCT 75, setTabF 176 1 i ADM.RED_PCT 50, setTabF 176 1 i ADM.BURST 64,
  setTabF 145 1 i PROF.SPILL_ON 1024, setTabF 145 1 i PROF.HEAD_KEEP 512, setTabF 145 1 i PROF.T1_STOP 2048])

/-- The pages whose READY waits for FWD_READY or FULL: HBMC, GRN and DDRC. -/
def readyLater (page : Nat) : Bool := page == 146 || (148 ≤ page && page < 168)

/-- The values of a configuration snapshot come into force (R638).  DESIGN CHOICE (log entry 35): they are not the value that start-up wrote in the sense of R690, so SOFT_RESET goes back to
the Reset column or the seed. -/
def applySnap (x : SnapRec) : Prog := .look fun s => seqs [
  each x.regs (fun kv => .put (.regs kv.1 ((s.regsAt kv.1 &&& ~~~ rwBits kv.1) ||| kv.2))),
  each x.units (fun kv => .put (.units kv.1 ((s.unitsAt kv.1 &&& ~~~ rwBits kv.1) ||| kv.2))),
  each x.tables (fun kv => .put (.tables kv.1 (some (((s.tablesAt kv.1).getD {}).cut (((s.tbl (kv.1 / 2 ^ 28) (kv.1 / 2 ^ 22 % 64)).map (fun t => t.ro)).getD []) |>.join kv.2)))),
  each allPages (fun p => resetFollows p s)]

/-- The marked snapshot of start-up, if it is valid and was taken under the MAIN major version that runs (R638). -/
def startSnap : Prog := .look fun s =>
  each [0, 1] (fun k => onlyIf (bitOf s.ctl.marked k) (
    let shown := if k == 0 then UPD_SNAP_STAT.SNAP0 else UPD_SNAP_STAT.SNAP1
    match s.snapSlotAt k with
    | some x => either (x.major == (s.ctl.slot s.ctl.boot).version / 2 ^ 24) (.andThen (applySnap x) (setBitF shown 1 true)) (setBitF shown 0 true)
    | none => setBitF shown 0 true))

/-- Stage BLOCKS (R520 step 7, R525). -/
def toBlocks : Prog := seqs [
  each allPages (fun p => seqs [
    .put (.blkUp p true),
    setF (BLK_CTRL.ENABLE p) 1,
    onlyIf (!readyLater p) (setF (BLK_STAT.READY p) 1)]),
  setF ASM_BANK_STAT.READY 0xFFFFFFFF,
  startSeeds,
  startPaths,
  startProfiles,
  setMillAll true,
  each (List.range 20) memEnable,
  startSnap,
  each (List.range 48) cageEnable,
  each (List.range 48) (fun p => .look fun s => onlyIf (s.rd (PORT_CAGE_STAT.PRESENT p) == 1) (.put (.cageX p { s.cageXAt p with first := true }))),
  each (List.range 48) linkRefresh,
  enterStage 5]

/-! ### FWD_READY and FULL (R520 steps 8 and 9, R526, R527) -/

/-- Whether tier 2 is in service, or no stack can bring it there. -/
def State.tier2Start (s : State) : Bool := s.tier2On || stackTargets.all (fun t => s.rd (tgtState t) == 3)

/-- Whether the Granary is READY or ABSENT or has every channel EXCLUDED, and no cage is identifying. -/
def State.fullStart (s : State) : Bool :=
  (s.rd GRN_STAT.STATE == 2 || s.rd GRN_STAT.STATE == 0 || channels.all (fun t => [0, 4, 5].contains (s.rd (tgtState t)))) &&
    (List.range 48).all (fun p => s.rd (PORT_CAGE_STAT.STATE p) != 1 || !(s.cageXAt p).first)

/-- Stage FWD_READY. -/
def toFwdReady : Prog := seqs [
  each [148, 149, 150, 151] (fun p => setF (BLK_STAT.READY p) 1),
  setF DEV_STAT.FWD_READY 1,
  raise 1 17,
  setMillAll false,
  enterStage 6]

/-- Stage FULL; the DDR_ROW records of modules that are no longer present are discarded (R547). -/
def toFull : Prog := .look fun s => seqs [
  each (146 :: (List.range 16).map (fun d => 152 + d)) (fun p => setF (BLK_STAT.READY p) 1),
  each (s.pegs.filter (fun g => g.kind == 6 && s.rd (DDRC_MOD.SERIAL (g.unit / 2) (g.unit % 2)) != g.serial)) (fun g => .look fun t => pegChange g (t.pegs.filter (fun x => x != g))),
  setF DEV_STAT.FULL_READY 1,
  raise 1 18,
  enterStage 7]

/-- STAGE_ADVANCE (R519 to R528): the present stage completes; a SERVICE or MICROCODE section that fails its check as the main core loads it is a failed start (R634).  `ok` tells, at FUSES, that a copy of the peg map passes its check; `defects` are what BIST found in stage REPAIR. -/
def execStageAdvance (ok : Bool) (defects : List Nat) (s : State) : Host.Outcome State Fault Refusal :=
  command (.stageAdvance ok defects) (.look fun s => onlyIf s.coldT0.isSome (
    let st := s.rd DEV_STAT.STAGE
    if st == 0 then onlyIf (!s.stopped) toFuses
    else if st == 1 then onlyIf s.refclk (toRepair ok)
    else if st == 2 then seqs [startUnits defects, enterStage 3, bootRom]
    else if st == 3 then onlyIf (s.rd DEV_STAT.RECOVERY == 0 && s.bootAt.isSome)
      (if s.fatalLatch then toHeld else if s.sectionTagOk s.ctl.boot 2 && s.sectionTagOk s.ctl.boot 3 then toCores else bootRom)
    else if st == 4 then toBlocks
    else if st == 5 then onlyIf s.tier2Start toFwdReady
    else if st == 6 then onlyIf s.fullStart toFull
    else .skip)) s

/-- MAIN_BOOT_TIMEOUT (R524, R632): the main core has not reached CORES within 2 s of its start; the boot ROM starts it again. -/
def execMainBootTimeout (s : State) : Host.Outcome State Fault Refusal :=
  command .mainBootTimeout (.look fun s =>
    onlyIf (s.coldT0.isSome && s.rd DEV_STAT.STAGE == 3 && s.rd DEV_STAT.RECOVERY == 0 &&
      (match s.bootAt with | some t => s.since t 2000000000 | none => false)) bootRom) s

end Sys2Proof.Machine
end

