-- ==== Sys2Proof/Machine/Window.lean ====
section
/-!
DEFINITION. The commands of the table command window as masters make them (spec/02_register_pages.md R34, R73 to R77): the operations, the lock, the fence and
the FIFOs, each an access to a register of the page.
-/
namespace Sys2Proof.Machine

/-- A table command: a write of TBL_CMD (R73, R76, R77). -/
def tblAccess (m page op table index : Nat) : Prog := hostWrite m page 0x100 15 (BitVec.ofNat 32 (op * 2 ^ 28 + table % 64 * 2 ^ 22 + index % 2 ^ 22))

/-- TBL_NOP (R57, R77). -/
def execTblNop (m page table index : Nat) (s : State) : Host.Outcome State Fault Refusal := command (.tblNop m page table index) (tblAccess m page 0 table index) s
/-- TBL_READ (R78, R79). -/
def execTblRead (m page table index : Nat) (s : State) : Host.Outcome State Fault Refusal := command (.tblRead m page table index) (tblAccess m page 1 table index) s
/-- TBL_WRITE (R78, R79). -/
def execTblWrite (m page table index : Nat) (s : State) : Host.Outcome State Fault Refusal := command (.tblWrite m page table index) (tblAccess m page 2 table index) s
/-- TBL_INSERT (R178, R179). -/
def execTblInsert (m page table index : Nat) (s : State) : Host.Outcome State Fault Refusal := command (.tblInsert m page table index) (tblAccess m page 3 table index) s
/-- TBL_DELETE (R691, R582). -/
def execTblDelete (m page table index : Nat) (s : State) : Host.Outcome State Fault Refusal := command (.tblDelete m page table index) (tblAccess m page 4 table index) s
/-- TBL_SEARCH (R79). -/
def execTblSearch (m page table index : Nat) (s : State) : Host.Outcome State Fault Refusal := command (.tblSearch m page table index) (tblAccess m page 5 table index) s
/-- TBL_NEXT (R79). -/
def execTblNext (m page table index : Nat) (s : State) : Host.Outcome State Fault Refusal := command (.tblNext m page table index) (tblAccess m page 6 table index) s

/-- TBL_LOCK_ACQUIRE (R73): a read of TBL_LOCK. -/
def execTblLockAcquire (m page : Nat) (s : State) : Host.Outcome State Fault Refusal := command (.tblLockAcquire m page) (hostRead m page 0x118 1) s
/-- TBL_LOCK_RELEASE (R73): a write of RELEASE. -/
def execTblLockRelease (m page : Nat) (s : State) : Host.Outcome State Fault Refusal := command (.tblLockRelease m page) (hostWrite m page 0x118 15 0x10000) s
/-- TBL_LOCK_FORCE_RELEASE (R73): a write of FORCE_RELEASE. -/
def execTblLockForceRelease (m page : Nat) (s : State) : Host.Outcome State Fault Refusal := command (.tblLockForceRelease m page) (hostWrite m page 0x118 15 0x20000) s
/-- TBL_FENCE (R34, R75): the read returns once every earlier request of the reading source to the page's die has executed; it waits behind them as every read does
(R33, R46). -/
def execTblFence (m page : Nat) (s : State) : Host.Outcome State Fault Refusal := command (.tblFence m page) (hostRead m page 0x11C 1) s

/-! ### FIFOs that a read of their last word pops -/

/-- CRY_LOG_POP (R581): a read of CRY_LOG_DATA5 removes the oldest entry. -/
def execCryLogPop (m : Nat) (s : State) : Host.Outcome State Fault Refusal := command (.cryLogPop m) (hostRead m 5 0x234 1) s
/-- L2B_NTF_POP (R218): a read of L2B_NTF_DATA3 removes the oldest record. -/
def execL2bNtfPop (m : Nat) (s : State) : Host.Outcome State Fault Refusal := command (.l2bNtfPop m) (hostRead m 102 0x22C 1) s
/-- RPR_EVT_POP (R552): a read of RPR_EVT_DATA3 removes the oldest event. -/
def execRprEvtPop (m : Nat) (s : State) : Host.Outcome State Fault Refusal := command (.rprEvtPop m) (hostRead m 9 0x23C 1) s
/-- SVC_NTF_POP (R446): a read of SVC_NTF_DATA3 removes the oldest notification. -/
def execSvcNtfPop (m : Nat) (s : State) : Host.Outcome State Fault Refusal := command (.svcNtfPop m) (hostRead m 13 0x22C 1) s
/-- TSF_POP (R432): a read of PTP_TSF_DATA3 removes the oldest entry. -/
def execTsfPop (m : Nat) (s : State) : Host.Outcome State Fault Refusal := command (.tsfPop m) (hostRead m 12 0x28C 1) s

end Sys2Proof.Machine
end

