-- ==== Sys2Proof/Machine/Writes.lean ====
section
/-!
DEFINITION. The commands that are a write of one register with a behaviour of its own: each is that write, with the operation or start bit the command
names, and is refused, recorded and held as any write is (spec/02_register_pages.md R39 to R63).
-/
namespace Sys2Proof.Machine

/-- CAGE_PWR_MAX_RAISE (R534): a write of PORT_CAGE_CTRL. -/
def execCagePwrMaxRaise (m port : Nat) (data : Word) (s : State) : Host.Outcome State Fault Refusal :=
  command (.cagePwrMaxRaise m port data) (hostWrite m (16 + port) 0x230 15 data) s

/-- MODULE_ACCESS (R100): PORT_MOD_CMD with GO. -/
def execModuleAccess (m port : Nat) (data : Word) (s : State) : Host.Outcome State Fault Refusal :=
  command (.moduleAccess m port data) (hostWrite m (16 + port) 0x23C 15 (data ||| 1)) s

/-- CALENDAR_SWITCH (R113): SWITCH of FLX_CAL_CTRL. -/
def execCalendarSwitch (m group : Nat) (s : State) : Host.Outcome State Fault Refusal :=
  command (.calendarSwitch m group) (hostWrite m (64 + group) 0x240 15 4) s

/-- XC_SWITCH (R118 to R120): XC_SWITCH with GO. -/
def execXcSwitch (m : Nat) (data : Word) (s : State) : Host.Outcome State Fault Refusal :=
  command (.xcSwitch m data) (hostWrite m 88 0x200 15 (setFieldOf data 31 31 1)) s

/-- SEED_WRITE (R181). -/
def execSeedWrite (m page off : Nat) (data : Word) (s : State) : Host.Outcome State Fault Refusal :=
  command (.seedWrite m page off data) (hostWrite m page off 15 data) s

/-- LPM_MEM_USE_WRITE (R177). -/
def execLpmMemUseWrite (m off : Nat) (data : Word) (s : State) : Host.Outcome State Fault Refusal :=
  command (.lpmMemUseWrite m off data) (hostWrite m 100 off 15 data) s

/-- BUCKET_WRITE (R227). -/
def execBucketWrite (m bucket : Nat) (data : Word) (s : State) : Host.Outcome State Fault Refusal :=
  command (.bucketWrite m bucket data) (hostWrite m 112 (0x1000 + 4 * bucket) 15 data) s

/-- QUEUE_FLUSH (R280): QM_FLUSH with GO. -/
def execQueueFlush (m : Nat) (data : Word) (s : State) : Host.Outcome State Fault Refusal :=
  command (.queueFlush m data) (hostWrite m 176 0x210 15 (setFieldOf data 31 31 1)) s

/-- SPD_CMD (R391): DDRC_SPD_CMD with GO. -/
def execSpdCmd (m ch : Nat) (data : Word) (s : State) : Host.Outcome State Fault Refusal :=
  command (.spdCmd m ch data) (hostWrite m (152 + ch) 0x244 15 (data ||| 1)) s

/-- GRANARY_REENABLE (R286, R414, R591): a write of GRN_CFG. -/
def execGranaryReenable (m : Nat) (data : Word) (s : State) : Host.Outcome State Fault Refusal :=
  command (.granaryReenable m data) (hostWrite m 146 0x200 15 data) s

/-- FAB_SYS_ENABLE (R356, R363): a write of FAB_SYS_CFG. -/
def execFabSysEnable (m : Nat) (data : Word) (s : State) : Host.Outcome State Fault Refusal :=
  command (.fabSysEnable m data) (hostWrite m 240 0x204 15 data) s

/-- FABRIC_LINK_RESTART (R339): FLC_LINK_CTRL of a link written as its shadow reads, with RESTART. -/
def execFabricLinkRestart (m link : Nat) (s : State) : Host.Outcome State Fault Refusal :=
  command (.fabricLinkRestart m link) (.look fun s =>
    hostWrite m (244 + link / 12) (0x1000 + 32 * (link % 12)) 15 (setFieldOf (s.reg (244 + link / 12) (0x1000 + 32 * (link % 12))) 30 30 1)) s

/-- REC_READOUT (R458): READOUT of a recorder. -/
def execRecReadout (m rec_ : Nat) (data : Word) (s : State) : Host.Outcome State Fault Refusal :=
  command (.recReadout m rec_ data) (hostWrite m 13 (0x110C + 32 * rec_) 15 (setFieldOf data 31 30 2)) s

/-- REC_REPLAY (R459): REPLAY of a recorder. -/
def execRecReplay (m rec_ : Nat) (data : Word) (s : State) : Host.Outcome State Fault Refusal :=
  command (.recReplay m rec_ data) (hostWrite m 13 (0x110C + 32 * rec_) 15 (setFieldOf data 31 30 1)) s

/-- CONTAIN_RELEASE (R489): RELEASE of PCIE_CONTAIN. -/
def execContainRelease (m : Nat) (data : Word) (s : State) : Host.Outcome State Fault Refusal :=
  command (.containRelease m data) (hostWrite m 2 0x208 15 (setFieldOf data 30 30 1)) s

/-- FATAL_CAPTURE_CLEAR (R584): VALID of CRY_FATAL_STAT. -/
def execFatalCaptureClear (m : Nat) (s : State) : Host.Outcome State Fault Refusal :=
  command (.fatalCaptureClear m) (hostWrite m 5 0x288 15 1) s

/-- SNAPSHOT_GO (R602): CNT_SNAP with GO. -/
def execSnapshotGo (m : Nat) (data : Word) (s : State) : Host.Outcome State Fault Refusal :=
  command (.snapshotGo m data) (hostWrite m 10 0x218 15 (setFieldOf data 31 31 1)) s

/-- DUMP_ENABLE (R605): CNT_DUMP_CFG with EN. -/
def execDumpEnable (m : Nat) (data : Word) (s : State) : Host.Outcome State Fault Refusal :=
  command (.dumpEnable m data) (hostWrite m 10 0x200 15 (setFieldOf data 31 31 1)) s

/-- JNL_HOST_ENABLE (R664): JNL_HOST_CFG with EN. -/
def execJnlHostEnable (m : Nat) (data : Word) (s : State) : Host.Outcome State Fault Refusal :=
  command (.jnlHostEnable m data) (hostWrite m 6 0x210 15 (setFieldOf data 31 31 1)) s

/-- MAIN_RESTART (R536): MAIN_RESTART of DEV_CTRL. -/
def execMainRestart (m : Nat) (data : Word) (s : State) : Host.Outcome State Fault Refusal :=
  command (.mainRestart m data) (hostWrite m 1 0x208 15 (data ||| 1)) s

/-! ### Instance, repair, presence and update commands -/

/-- A word with its operation, bits 31:28. -/
def withOp (op : Nat) (data : Word) : Word := setFieldOf data 31 28 op

/-- VIRT_NOP. -/
def execVirtNop (m : Nat) (data : Word) (s : State) : Host.Outcome State Fault Refusal :=
  command (.virtNop m data) (hostWrite m 4 0x200 15 (withOp 0 data)) s

/-- VIRT_CREATE (R500). -/
def execVirtCreate (m : Nat) (data : Word) (s : State) : Host.Outcome State Fault Refusal :=
  command (.virtCreate m data) (hostWrite m 4 0x200 15 (withOp 1 data)) s

/-- VIRT_QUIESCE (R506). -/
def execVirtQuiesce (m : Nat) (data : Word) (s : State) : Host.Outcome State Fault Refusal :=
  command (.virtQuiesce m data) (hostWrite m 4 0x200 15 (withOp 2 data)) s

/-- VIRT_RESUME (R506). -/
def execVirtResume (m : Nat) (data : Word) (s : State) : Host.Outcome State Fault Refusal :=
  command (.virtResume m data) (hostWrite m 4 0x200 15 (withOp 3 data)) s

/-- VIRT_RESET (R508). -/
def execVirtReset (m : Nat) (data : Word) (s : State) : Host.Outcome State Fault Refusal :=
  command (.virtReset m data) (hostWrite m 4 0x200 15 (withOp 4 data)) s

/-- VIRT_REMOVE (R508). -/
def execVirtRemove (m : Nat) (data : Word) (s : State) : Host.Outcome State Fault Refusal :=
  command (.virtRemove m data) (hostWrite m 4 0x200 15 (withOp 5 data)) s

/-- RPR_NOP (R556). -/
def execRprNop (m : Nat) (data : Word) (s : State) : Host.Outcome State Fault Refusal :=
  command (.rprNop m data) (hostWrite m 9 0x204 15 (withOp 0 data)) s

/-- RPR_HANDOVER (R556, R558). -/
def execRprHandover (m : Nat) (data : Word) (s : State) : Host.Outcome State Fault Refusal :=
  command (.rprHandover m data) (hostWrite m 9 0x204 15 (withOp 1 data)) s

/-- RPR_TEST (R551). -/
def execRprTest (m : Nat) (data : Word) (s : State) : Host.Outcome State Fault Refusal :=
  command (.rprTest m data) (hostWrite m 9 0x204 15 (withOp 2 data)) s

/-- RPR_RETIRE (R565). -/
def execRprRetire (m : Nat) (data : Word) (s : State) : Host.Outcome State Fault Refusal :=
  command (.rprRetire m data) (hostWrite m 9 0x204 15 (withOp 3 data)) s

/-- RPR_UNRETIRE (R641). -/
def execRprUnretire (m : Nat) (data : Word) (s : State) : Host.Outcome State Fault Refusal :=
  command (.rprUnretire m data) (hostWrite m 9 0x204 15 (withOp 4 data)) s

/-- RPR_REVERT (R567). -/
def execRprRevert (m : Nat) (data : Word) (s : State) : Host.Outcome State Fault Refusal :=
  command (.rprRevert m data) (hostWrite m 9 0x204 15 (withOp 5 data)) s

/-- PPR_NOP. -/
def execPprNop (m : Nat) (data : Word) (s : State) : Host.Outcome State Fault Refusal :=
  command (.pprNop m data) (hostWrite m 7 0x208 15 (withOp 0 data)) s

/-- PPR_BREACH_ACK (R653). -/
def execPprBreachAck (m : Nat) (data : Word) (s : State) : Host.Outcome State Fault Refusal :=
  command (.pprBreachAck m data) (hostWrite m 7 0x208 15 (withOp 1 data)) s

/-- PPR_RTC_SET (R641). -/
def execPprRtcSet (m : Nat) (data : Word) (s : State) : Host.Outcome State Fault Refusal :=
  command (.pprRtcSet m data) (hostWrite m 7 0x208 15 (withOp 2 data)) s

/-- PPR_JTAG_UNLOCK (R643). -/
def execPprJtagUnlock (m : Nat) (data : Word) (s : State) : Host.Outcome State Fault Refusal :=
  command (.pprJtagUnlock m data) (hostWrite m 7 0x208 15 (withOp 3 data)) s

/-- PPR_JTAG_LOCK (R643). -/
def execPprJtagLock (m : Nat) (data : Word) (s : State) : Host.Outcome State Fault Refusal :=
  command (.pprJtagLock m data) (hostWrite m 7 0x208 15 (withOp 4 data)) s

/-- PPR_CLOSE (R640). -/
def execPprClose (m : Nat) (data : Word) (s : State) : Host.Outcome State Fault Refusal :=
  command (.pprClose m data) (hostWrite m 7 0x208 15 (withOp 5 data)) s

/-- UPD_NOP. -/
def execUpdNop (m : Nat) (data : Word) (s : State) : Host.Outcome State Fault Refusal :=
  command (.updNop m data) (hostWrite m 8 0x200 15 (withOp 0 data)) s

/-- UPD_BEGIN (R629). -/
def execUpdBegin (m : Nat) (data : Word) (s : State) : Host.Outcome State Fault Refusal :=
  command (.updBegin m data) (hostWrite m 8 0x200 15 (withOp 1 data)) s

/-- UPD_VERIFY (R630). -/
def execUpdVerify (m : Nat) (data : Word) (s : State) : Host.Outcome State Fault Refusal :=
  command (.updVerify m data) (hostWrite m 8 0x200 15 (withOp 3 data)) s

/-- UPD_ACTIVATE (R631). -/
def execUpdActivate (m : Nat) (data : Word) (s : State) : Host.Outcome State Fault Refusal :=
  command (.updActivate m data) (hostWrite m 8 0x200 15 (withOp 4 data)) s

/-- UPD_CONFIRM (R635). -/
def execUpdConfirm (m : Nat) (data : Word) (s : State) : Host.Outcome State Fault Refusal :=
  command (.updConfirm m data) (hostWrite m 8 0x200 15 (withOp 5 data)) s

/-- UPD_REVERT (R633). -/
def execUpdRevert (m : Nat) (data : Word) (s : State) : Host.Outcome State Fault Refusal :=
  command (.updRevert m data) (hostWrite m 8 0x200 15 (withOp 6 data)) s

/-- UPD_ABORT (R637). -/
def execUpdAbort (m : Nat) (data : Word) (s : State) : Host.Outcome State Fault Refusal :=
  command (.updAbort m data) (hostWrite m 8 0x200 15 (withOp 7 data)) s

/-- UPD_REVOKE (R625). -/
def execUpdRevoke (m : Nat) (data : Word) (s : State) : Host.Outcome State Fault Refusal :=
  command (.updRevoke m data) (hostWrite m 8 0x200 15 (withOp 8 data)) s

/-- UPD_SNAP_SAVE (R638). -/
def execUpdSnapSave (m : Nat) (data : Word) (s : State) : Host.Outcome State Fault Refusal :=
  command (.updSnapSave m data) (hostWrite m 8 0x200 15 (withOp 9 data)) s

/-- UPD_SNAP_MARK (R638). -/
def execUpdSnapMark (m : Nat) (data : Word) (s : State) : Host.Outcome State Fault Refusal :=
  command (.updSnapMark m data) (hostWrite m 8 0x200 15 (withOp 10 data)) s

/-- UPD_SNAP_CLEAR (R638). -/
def execUpdSnapClear (m : Nat) (data : Word) (s : State) : Host.Outcome State Fault Refusal :=
  command (.updSnapClear m data) (hostWrite m 8 0x200 15 (withOp 11 data)) s

/-- UPD_BLOCK (R629, R630): UPD_CMD with BLOCK; `bytes` are what its DMA reads return, empty when they fail, and `badReads` the attempts of the store write whose
read-back fails. -/
def execUpdBlock (m : Nat) (data : Word) (bytes : List Byte) (badReads : Nat) (s : State) : Host.Outcome State Fault Refusal :=
  command (.updBlock m data bytes badReads) (.look fun s =>
    let w := withOp 2 data
    if !s.waitsBehind m 8 && s.blkUpAt 8 && s.reaches m && !s.writeRefused m 8 0x200 w.toNat then
      journaled (fun t => mkRecord t 1 m 8 0 0x200 w.toNat 0) { master := m, page := 8, off := 0x200, value := w.toNat }
        (.andThen (setReg 8 0x200 (match declAt 8 0x200 with | some d => d.merge (s.reg 8 0x200) w | none => w)) (updCmd m w bytes badReads))
    else hostWrite m 8 0x200 15 w) s

end Sys2Proof.Machine
end

