-- ==== Sys2Proof/Machine/Dispatch.lean ====
section
/-!
DEFINITION. Which meaning each command has: one arm per constructor of Instr.
-/
namespace Sys2Proof.Machine

open Sys2Proof

def exec (i : Instr) (s : State) : Host.Outcome State Fault Refusal :=
  match i with
  | .regWrite m page off be data => Sys2Proof.Machine.execRegWrite m page off be data s
  | .loReadLatch m page off => Sys2Proof.Machine.execLoReadLatch m page off s
  | .hiWrite m page off be data => Sys2Proof.Machine.execHiWrite m page off be data s
  | .pageTimeout m page off => Sys2Proof.Machine.execPageTimeout m page off s
  | .blkEnable m page data => Sys2Proof.Machine.execBlkEnable m page data s
  | .blkDisable m page data => Sys2Proof.Machine.execBlkDisable m page data s
  | .blockDrained page => Sys2Proof.Machine.execBlockDrained page s
  | .softReset m page data => Sys2Proof.Machine.execSoftReset m page data s
  | .softResetDone page => Sys2Proof.Machine.execSoftResetDone page s
  | .freeze m page data => Sys2Proof.Machine.execFreeze m page data s
  | .blkIntClear m page data hw => Sys2Proof.Machine.execBlkIntClear m page data hw s
  | .blkIntForce m page data => Sys2Proof.Machine.execBlkIntForce m page data s
  | .errcapClear m page data => Sys2Proof.Machine.execErrcapClear m page data s
  | .commit m page data => Sys2Proof.Machine.execCommit m page data s
  | .commitTaken page => Sys2Proof.Machine.execCommitTaken page s
  | .tblNop m page table index => Sys2Proof.Machine.execTblNop m page table index s
  | .tblRead m page table index => Sys2Proof.Machine.execTblRead m page table index s
  | .tblWrite m page table index => Sys2Proof.Machine.execTblWrite m page table index s
  | .tblInsert m page table index => Sys2Proof.Machine.execTblInsert m page table index s
  | .tblDelete m page table index => Sys2Proof.Machine.execTblDelete m page table index s
  | .tblSearch m page table index => Sys2Proof.Machine.execTblSearch m page table index s
  | .tblNext m page table index => Sys2Proof.Machine.execTblNext m page table index s
  | .tblOpDone page => Sys2Proof.Machine.execTblOpDone page s
  | .tblLockAcquire m page => Sys2Proof.Machine.execTblLockAcquire m page s
  | .tblLockRelease m page => Sys2Proof.Machine.execTblLockRelease m page s
  | .tblLockForceRelease m page => Sys2Proof.Machine.execTblLockForceRelease m page s
  | .tblFence m page => Sys2Proof.Machine.execTblFence m page s
  | .flitReceive die module seq bad => Sys2Proof.Machine.execFlitReceive die module seq bad s
  | .crossDieRequest src read page off data => Sys2Proof.Machine.execCrossDieRequest src read page off data s
  | .crossDieExecute src => Sys2Proof.Machine.execCrossDieExecute src s
  | .crossDieResponse src => Sys2Proof.Machine.execCrossDieResponse src s
  | .autonegDone port partner => Sys2Proof.Machine.execAutonegDone port partner s
  | .linkTrainingDone port => Sys2Proof.Machine.execLinkTrainingDone port s
  | .linkTrainingTimeout port => Sys2Proof.Machine.execLinkTrainingTimeout port s
  | .frameReceive port head => Sys2Proof.Machine.execFrameReceive port head s
  | .frameTail port rest storeErr => Sys2Proof.Machine.execFrameTail port rest storeErr s
  | .pfcFrameReceive port frame => Sys2Proof.Machine.execPfcFrameReceive port frame s
  | .pfcPauseExpire port tc => Sys2Proof.Machine.execPfcPauseExpire port tc s
  | .pfcRefresh port => Sys2Proof.Machine.execPfcRefresh port s
  | .moduleInsert port => Sys2Proof.Machine.execModuleInsert port s
  | .moduleResetRelease port => Sys2Proof.Machine.execModuleResetRelease port s
  | .modulePoll port ack lowPwr ident rev pwrClass copper apps dpMs => Sys2Proof.Machine.execModulePoll port ack lowPwr ident rev pwrClass copper apps dpMs s
  | .moduleReady port ack => Sys2Proof.Machine.execModuleReady port ack s
  | .moduleDatapathActivated port => Sys2Proof.Machine.execModuleDatapathActivated port s
  | .moduleStepTimeout port => Sys2Proof.Machine.execModuleStepTimeout port s
  | .moduleRemove port => Sys2Proof.Machine.execModuleRemove port s
  | .cagePwrMaxRaise m port data => Sys2Proof.Machine.execCagePwrMaxRaise m port data s
  | .moduleAccess m port data => Sys2Proof.Machine.execModuleAccess m port data s
  | .moduleAccessDone port ack data => Sys2Proof.Machine.execModuleAccessDone port ack data s
  | .overheadBlockReceive port inst pos pattern crcOk omf c cr ca rpf groupNum phyNum slotA slotB => Sys2Proof.Machine.execOverheadBlockReceive port inst pos pattern crcOk omf c cr ca rpf groupNum phyNum slotA slotB s
  | .calendarSwitch m group => Sys2Proof.Machine.execCalendarSwitch m group s
  | .calendarExchangeStep group multiframe => Sys2Proof.Machine.execCalendarExchangeStep group multiframe s
  | .calendarCaTimeout group => Sys2Proof.Machine.execCalendarCaTimeout group s
  | .xcSwitch m data => Sys2Proof.Machine.execXcSwitch m data s
  | .defectEntry scope index defect => Sys2Proof.Machine.execDefectEntry scope index defect s
  | .defectExit scope index defect => Sys2Proof.Machine.execDefectExit scope index defect s
  | .pmSecond client index errored units => Sys2Proof.Machine.execPmSecond client index errored units s
  | .rxFifoDequeue port => Sys2Proof.Machine.execRxFifoDequeue port s
  | .ingressPass pipe flips ctrs => Sys2Proof.Machine.execIngressPass pipe flips ctrs s
  | .recircPass pipe flips => Sys2Proof.Machine.execRecircPass pipe flips s
  | .egressPass pipe flips => Sys2Proof.Machine.execEgressPass pipe flips s
  | .frameTransmit port underrun => Sys2Proof.Machine.execFrameTransmit port underrun s
  | .txSeqRelease port => Sys2Proof.Machine.execTxSeqRelease port s
  | .txGapTimeout port => Sys2Proof.Machine.execTxGapTimeout port s
  | .bucketWrite m bucket data => Sys2Proof.Machine.execBucketWrite m bucket data s
  | .bucketMove bucket => Sys2Proof.Machine.execBucketMove bucket s
  | .seedWrite m page off data => Sys2Proof.Machine.execSeedWrite m page off data s
  | .lpmMemUseWrite m off data => Sys2Proof.Machine.execLpmMemUseWrite m off data s
  | .lpmRebuildStart v6 => Sys2Proof.Machine.execLpmRebuildStart v6 s
  | .lpmRebuildDone v6 => Sys2Proof.Machine.execLpmRebuildDone v6 s
  | .stashReinsert family index => Sys2Proof.Machine.execStashReinsert family index s
  | .learnerApply pipe => Sys2Proof.Machine.execLearnerApply pipe s
  | .l2bNtfPop m => Sys2Proof.Machine.execL2bNtfPop m s
  | .tcamScrubRow flips uncorr => Sys2Proof.Machine.execTcamScrubRow flips uncorr s
  | .tcamBankLoadDone bank => Sys2Proof.Machine.execTcamBankLoadDone bank s
  | .stagingAdmit src => Sys2Proof.Machine.execStagingAdmit src s
  | .reqSend dev queue => Sys2Proof.Machine.execReqSend dev queue s
  | .reqReceive link src msg => Sys2Proof.Machine.execReqReceive link src msg s
  | .ansReceive link src msg => Sys2Proof.Machine.execAnsReceive link src msg s
  | .holdClear src seq => Sys2Proof.Machine.execHoldClear src seq s
  | .reqResend dev seq => Sys2Proof.Machine.execReqResend dev seq s
  | .grantExpire src seq => Sys2Proof.Machine.execGrantExpire src seq s
  | .releaseReceive link src msg => Sys2Proof.Machine.execReleaseReceive link src msg s
  | .mcAckReceive link src msg => Sys2Proof.Machine.execMcAckReceive link src msg s
  | .unreachTimeout dev => Sys2Proof.Machine.execUnreachTimeout dev s
  | .cellReceive link cell bad => Sys2Proof.Machine.execCellReceive link cell bad s
  | .cellReorderTimeout src stream => Sys2Proof.Machine.execCellReorderTimeout src stream s
  | .linkCellReceive link cell bad => Sys2Proof.Machine.execLinkCellReceive link cell bad s
  | .reachTimeout link => Sys2Proof.Machine.execReachTimeout link s
  | .fabricLinkRestart m link => Sys2Proof.Machine.execFabricLinkRestart m link s
  | .fabricLinkTrained link ok => Sys2Proof.Machine.execFabricLinkTrained link ok s
  | .fabricLinkAlignEnd link locked => Sys2Proof.Machine.execFabricLinkAlignEnd link locked s
  | .fabricLinkTestEnd link bad => Sys2Proof.Machine.execFabricLinkTestEnd link bad s
  | .fabricLinkHoldoffEnd link => Sys2Proof.Machine.execFabricLinkHoldoffEnd link s
  | .fabricLinkDown link cause uncorr => Sys2Proof.Machine.execFabricLinkDown link cause uncorr s
  | .fabricLinkDownEnd link => Sys2Proof.Machine.execFabricLinkDownEnd link s
  | .mcSend grp => Sys2Proof.Machine.execMcSend grp s
  | .slotPlayout chan => Sys2Proof.Machine.execSlotPlayout chan s
  | .spillBatch queue accs => Sys2Proof.Machine.execSpillBatch queue accs s
  | .spillWriteAck queue => Sys2Proof.Machine.execSpillWriteAck queue s
  | .segmentReadDone queue seg hdrUe desc payload ce ue accs => Sys2Proof.Machine.execSegmentReadDone queue seg hdrUe desc payload ce ue accs s
  | .regionIdleOffer sru => Sys2Proof.Machine.execRegionIdleOffer sru s
  | .bufAgeSweep late => Sys2Proof.Machine.execBufAgeSweep late s
  | .queueFlush m data => Sys2Proof.Machine.execQueueFlush m data s
  | .schedSelect port => Sys2Proof.Machine.execSchedSelect port s
  | .gateEntryChange port => Sys2Proof.Machine.execGateEntryChange port s
  | .gateListChange port => Sys2Proof.Machine.execGateListChange port s
  | .spdRead ch slot0 slot1 => Sys2Proof.Machine.execSpdRead ch slot0 slot1 s
  | .spdCmd m ch data => Sys2Proof.Machine.execSpdCmd m ch data s
  | .spdCmdDone ch ack data => Sys2Proof.Machine.execSpdCmdDone ch ack data s
  | .moduleTempPoll ch t0 t1 => Sys2Proof.Machine.execModuleTempPoll ch t0 t1 s
  | .memTrainingDone target ok lanes => Sys2Proof.Machine.execMemTrainingDone target ok lanes s
  | .controlAreaFilled granary => Sys2Proof.Machine.execControlAreaFilled granary s
  | .retrainPause target drift lanes => Sys2Proof.Machine.execRetrainPause target drift lanes s
  | .retrainRepeat target drift => Sys2Proof.Machine.execRetrainRepeat target drift s
  | .memScrub target ce ue => Sys2Proof.Machine.execMemScrub target ce ue s
  | .memOutOfService target => Sys2Proof.Machine.execMemOutOfService target s
  | .granaryReenable m data => Sys2Proof.Machine.execGranaryReenable m data s
  | .timeSourceMeasure present offset => Sys2Proof.Machine.execTimeSourceMeasure present offset s
  | .ppsInEdge falling => Sys2Proof.Machine.execPpsInEdge falling s
  | .todRxLine line => Sys2Proof.Machine.execTodRxLine line s
  | .tsfPop m => Sys2Proof.Machine.execTsfPop m s
  | .bfdTx sess => Sys2Proof.Machine.execBfdTx sess s
  | .bfdDetectExpire sess => Sys2Proof.Machine.execBfdDetectExpire sess s
  | .ccmTx mep => Sys2Proof.Machine.execCcmTx mep s
  | .cfmDefectExpire mep => Sys2Proof.Machine.execCfmDefectExpire mep s
  | .serviceCorePacket core => Sys2Proof.Machine.execServiceCorePacket core s
  | .rtxCopyExpire flow => Sys2Proof.Machine.execRtxCopyExpire flow s
  | .mergeLegTimeout grp leg => Sys2Proof.Machine.execMergeLegTimeout grp leg s
  | .recReadout m rec data => Sys2Proof.Machine.execRecReadout m rec data s
  | .recReplay m rec data => Sys2Proof.Machine.execRecReplay m rec data s
  | .recDone rec => Sys2Proof.Machine.execRecDone rec s
  | .svcNtfPop m => Sys2Proof.Machine.execSvcNtfPop m s
  | .dbTxTail fn tag pasid page data => Sys2Proof.Machine.execDbTxTail fn tag pasid page data s
  | .dbRxTail fn tag pasid page data => Sys2Proof.Machine.execDbRxTail fn tag pasid page data s
  | .dbCqHead fn tag pasid page data => Sys2Proof.Machine.execDbCqHead fn tag pasid page data s
  | .dbArm fn tag pasid page data => Sys2Proof.Machine.execDbArm fn tag pasid page data s
  | .qpcWrite fn tag pasid page off data => Sys2Proof.Machine.execQpcWrite fn tag pasid page off data s
  | .txDescFetch desc => Sys2Proof.Machine.execTxDescFetch desc s
  | .txReadDone qp status bytes => Sys2Proof.Machine.execTxReadDone qp status bytes s
  | .txRateWait qp => Sys2Proof.Machine.execTxRateWait qp s
  | .recordWrite qp desc => Sys2Proof.Machine.execRecordWrite qp desc s
  | .coalTimeout qp => Sys2Proof.Machine.execCoalTimeout qp s
  | .dmaReadTimeout qp descriptors => Sys2Proof.Machine.execDmaReadTimeout qp descriptors s
  | .lateCompletion qp => Sys2Proof.Machine.execLateCompletion qp s
  | .qpDrained qp => Sys2Proof.Machine.execQpDrained qp s
  | .containmentEnter cause => Sys2Proof.Machine.execContainmentEnter cause s
  | .containRelease m data => Sys2Proof.Machine.execContainRelease m data s
  | .bar4Write m addr data => Sys2Proof.Machine.execBar4Write m addr data s
  | .virtNop m data => Sys2Proof.Machine.execVirtNop m data s
  | .virtCreate m data => Sys2Proof.Machine.execVirtCreate m data s
  | .virtQuiesce m data => Sys2Proof.Machine.execVirtQuiesce m data s
  | .virtQuiesced inst => Sys2Proof.Machine.execVirtQuiesced inst s
  | .quiesceReadTimeout inst => Sys2Proof.Machine.execQuiesceReadTimeout inst s
  | .virtResume m data => Sys2Proof.Machine.execVirtResume m data s
  | .virtReset m data => Sys2Proof.Machine.execVirtReset m data s
  | .virtRemove m data => Sys2Proof.Machine.execVirtRemove m data s
  | .vfFlr vf => Sys2Proof.Machine.execVfFlr vf s
  | .vfEnableChange enable num => Sys2Proof.Machine.execVfEnableChange enable num s
  | .coldStart slot => Sys2Proof.Machine.execColdStart slot s
  | .stageAdvance ok defects => Sys2Proof.Machine.execStageAdvance ok defects s
  | .powerFailWarning pin => Sys2Proof.Machine.execPowerFailWarning pin s
  | .resetNAssert ns => Sys2Proof.Machine.execResetNAssert ns s
  | .mainRestart m data => Sys2Proof.Machine.execMainRestart m data s
  | .selfTestPassEnd cls unit pass => Sys2Proof.Machine.execSelfTestPassEnd cls unit pass s
  | .epochBoundary cls unit whole => Sys2Proof.Machine.execEpochBoundary cls unit whole s
  | .unitErrorReport cls unit fault => Sys2Proof.Machine.execUnitErrorReport cls unit fault s
  | .faultTakeover cls => Sys2Proof.Machine.execFaultTakeover cls s
  | .takeoverLoadDone cls => Sys2Proof.Machine.execTakeoverLoadDone cls s
  | .quarantineEnd cls unit pass => Sys2Proof.Machine.execQuarantineEnd cls unit pass s
  | .plannedHandover cls unit => Sys2Proof.Machine.execPlannedHandover cls unit s
  | .lkupCopyDone bad => Sys2Proof.Machine.execLkupCopyDone bad s
  | .revertHoldEnd cls unit => Sys2Proof.Machine.execRevertHoldEnd cls unit s
  | .rprNop m data => Sys2Proof.Machine.execRprNop m data s
  | .rprHandover m data => Sys2Proof.Machine.execRprHandover m data s
  | .rprTest m data => Sys2Proof.Machine.execRprTest m data s
  | .rprRetire m data => Sys2Proof.Machine.execRprRetire m data s
  | .rprUnretire m data => Sys2Proof.Machine.execRprUnretire m data s
  | .rprRevert m data => Sys2Proof.Machine.execRprRevert m data s
  | .rprEvtPop m => Sys2Proof.Machine.execRprEvtPop m s
  | .crierReceive page => Sys2Proof.Machine.execCrierReceive page s
  | .fatalDetect page kind addr => Sys2Proof.Machine.execFatalDetect page kind addr s
  | .cryLogPop m => Sys2Proof.Machine.execCryLogPop m s
  | .fatalCaptureClear m => Sys2Proof.Machine.execFatalCaptureClear m s
  | .snapshotGo m data => Sys2Proof.Machine.execSnapshotGo m data s
  | .dumpEnable m data => Sys2Proof.Machine.execDumpEnable m data s
  | .updNop m data => Sys2Proof.Machine.execUpdNop m data s
  | .updBegin m data => Sys2Proof.Machine.execUpdBegin m data s
  | .updBlock m data bytes badReads => Sys2Proof.Machine.execUpdBlock m data bytes badReads s
  | .updVerify m data => Sys2Proof.Machine.execUpdVerify m data s
  | .updActivate m data => Sys2Proof.Machine.execUpdActivate m data s
  | .updConfirm m data => Sys2Proof.Machine.execUpdConfirm m data s
  | .updRevert m data => Sys2Proof.Machine.execUpdRevert m data s
  | .updAbort m data => Sys2Proof.Machine.execUpdAbort m data s
  | .updRevoke m data => Sys2Proof.Machine.execUpdRevoke m data s
  | .updSnapSave m data => Sys2Proof.Machine.execUpdSnapSave m data s
  | .updSnapMark m data => Sys2Proof.Machine.execUpdSnapMark m data s
  | .updSnapClear m data => Sys2Proof.Machine.execUpdSnapClear m data s
  | .storeWrite badReads => Sys2Proof.Machine.execStoreWrite badReads s
  | .storeWriteDone journal => Sys2Proof.Machine.execStoreWriteDone journal s
  | .pprNop m data => Sys2Proof.Machine.execPprNop m data s
  | .pprBreachAck m data => Sys2Proof.Machine.execPprBreachAck m data s
  | .pprRtcSet m data => Sys2Proof.Machine.execPprRtcSet m data s
  | .pprJtagUnlock m data => Sys2Proof.Machine.execPprJtagUnlock m data s
  | .pprJtagLock m data => Sys2Proof.Machine.execPprJtagLock m data s
  | .pprClose m data => Sys2Proof.Machine.execPprClose m data s
  | .sealTest pass => Sys2Proof.Machine.execSealTest pass s
  | .vbatMeasure mv => Sys2Proof.Machine.execVbatMeasure mv s
  | .jnlUnitWrite badReads => Sys2Proof.Machine.execJnlUnitWrite badReads s
  | .jnlHostEnable m data => Sys2Proof.Machine.execJnlHostEnable m data s
  | .sensorRead temps => Sys2Proof.Machine.execSensorRead temps s
  | .moduleInterrupt port asserted => Sys2Proof.Machine.execModuleInterrupt port asserted s
  | .dataLinkUp speed width conf => Sys2Proof.Machine.execDataLinkUp speed width conf s
  | .msixUnmask fn vec addr data => Sys2Proof.Machine.execMsixUnmask fn vec addr data s
  | .vsb33Loss vbat => Sys2Proof.Machine.execVsb33Loss vbat s
  | .pipeHoldSpread pipe => Sys2Proof.Machine.execPipeHoldSpread pipe s
  | .handoverDone cls => Sys2Proof.Machine.execHandoverDone cls s
  | .resendReadDone flow => Sys2Proof.Machine.execResendReadDone flow s
  | .rowRepairDone target => Sys2Proof.Machine.execRowRepairDone target s
  | .fabSysEnable m data => Sys2Proof.Machine.execFabSysEnable m data s
  | .ptpMessageGeneration port type => Sys2Proof.Machine.execPtpMessageGeneration port type s
  | .dieLinkLoss => Sys2Proof.Machine.execDieLinkLoss s
  | .xcCopyDone => Sys2Proof.Machine.execXcCopyDone s
  | .bucketRebalance => Sys2Proof.Machine.execBucketRebalance s
  | .ageSweep => Sys2Proof.Machine.execAgeSweep s
  | .stagingAgeExpire => Sys2Proof.Machine.execStagingAgeExpire s
  | .mergeJudge => Sys2Proof.Machine.execMergeJudge s
  | .queueFlushDone => Sys2Proof.Machine.execQueueFlushDone s
  | .millSettleEnd => Sys2Proof.Machine.execMillSettleEnd s
  | .actTableClear => Sys2Proof.Machine.execActTableClear s
  | .tier2RebuildDone => Sys2Proof.Machine.execTier2RebuildDone s
  | .timeStepAtSecond => Sys2Proof.Machine.execTimeStepAtSecond s
  | .slewEnd => Sys2Proof.Machine.execSlewEnd s
  | .holdoverEnter => Sys2Proof.Machine.execHoldoverEnter s
  | .ppsOutEdge => Sys2Proof.Machine.execPpsOutEdge s
  | .todTxLine => Sys2Proof.Machine.execTodTxLine s
  | .refclkLoss => Sys2Proof.Machine.execRefclkLoss s
  | .refclkReturn => Sys2Proof.Machine.execRefclkReturn s
  | .bfdRx => Sys2Proof.Machine.execBfdRx s
  | .ccmRx => Sys2Proof.Machine.execCcmRx s
  | .blockIrqRepeat => Sys2Proof.Machine.execBlockIrqRepeat s
  | .l1Entry => Sys2Proof.Machine.execL1Entry s
  | .perstRelease => Sys2Proof.Machine.execPerstRelease s
  | .refclkPresent => Sys2Proof.Machine.execRefclkPresent s
  | .railFail => Sys2Proof.Machine.execRailFail s
  | .mainBootTimeout => Sys2Proof.Machine.execMainBootTimeout s
  | .powerFailClear => Sys2Proof.Machine.execPowerFailClear s
  | .mainPowerOnReset => Sys2Proof.Machine.execMainPowerOnReset s
  | .standbyPowerOnReset => Sys2Proof.Machine.execStandbyPowerOnReset s
  | .watchdogExpire => Sys2Proof.Machine.execWatchdogExpire s
  | .mainMemUe => Sys2Proof.Machine.execMainMemUe s
  | .mainUp => Sys2Proof.Machine.execMainUp s
  | .rotation => Sys2Proof.Machine.execRotation s
  | .pegWrite => Sys2Proof.Machine.execPegWrite s
  | .firstWindowClose => Sys2Proof.Machine.execFirstWindowClose s
  | .fatalCapture => Sys2Proof.Machine.execFatalCapture s
  | .snapshotPeriodic => Sys2Proof.Machine.execSnapshotPeriodic s
  | .dumpDone => Sys2Proof.Machine.execDumpDone s
  | .traceDmaWrite => Sys2Proof.Machine.execTraceDmaWrite s
  | .updCmdDone => Sys2Proof.Machine.execUpdCmdDone s
  | .confirmTimeout => Sys2Proof.Machine.execConfirmTimeout s
  | .rollingUpdateStep => Sys2Proof.Machine.execRollingUpdateStep s
  | .presencePress => Sys2Proof.Machine.execPresencePress s
  | .presenceRelease => Sys2Proof.Machine.execPresenceRelease s
  | .presenceWindowExpire => Sys2Proof.Machine.execPresenceWindowExpire s
  | .rtcSetLoad => Sys2Proof.Machine.execRtcSetLoad s
  | .backupDomainLost => Sys2Proof.Machine.execBackupDomainLost s
  | .rtcLoad => Sys2Proof.Machine.execRtcLoad s
  | .journalHoldRelease => Sys2Proof.Machine.execJournalHoldRelease s
  | .jnlHostWrite => Sys2Proof.Machine.execJnlHostWrite s
  | .throttleEnter => Sys2Proof.Machine.execThrottleEnter s
  | .throttleExit => Sys2Proof.Machine.execThrottleExit s
  | .thermalShutdown => Sys2Proof.Machine.execThermalShutdown s
  | .l1Exit => Sys2Proof.Machine.execL1Exit s

end Sys2Proof.Machine
end

