-- ==== Sys2Proof/Machine/Idle.lean ====
section
/-!
DEFINITION. What the block does when no command waits: one nanosecond of its time base passes (spec/11_time.md R415, R417; log entry 7).
-/
namespace Sys2Proof.Machine

/-- A step without a command: the time base advances, the fabric's transmit channels and waiting privileged cells go on (R369, R372), and an error that the endpoint's buffers held is no longer met. -/
def idle (s : State) : Host.Outcome State Fault Refusal :=
  .next { (seqs [.put (.emitted []), .put (.bufBad false), tick, ppsFall, fabricTick, joinTick]).run s with mono16 := s.monoNext }

end Sys2Proof.Machine
end

