-- ==== Sys2Proof/Safety.lean ====
section
/-!
DEFINITION. What counts as a safe run: every step of it answers a next state, and every state of it is well formed: each sparse store in
its canonical form, so that equal contents are equal data, and each bounded FIFO within the room the spec gives it.  The pieces of State by name, and
when two states agree in one.
-/
namespace Sys2Proof.Machine

/-- The part of the die-to-die link: its stores are in canonical form. -/
def DiePart.wf (s : DiePart) : Bool :=
  Sp.canon dfltDieRx s.dieRx &&
  Sp.canon dfltDieTx s.dieTx &&
  Sp.canon dfltDieQ s.dieQ &&
  Sp.canon dfltTmMem s.tmMem &&
  Sp.canon dfltDieRead s.dieRead &&
  Sp.canon dfltDieLost s.dieLost &&
  Sp.canon dfltModRetries s.modRetries

/-- The part of register pages and table command windows: its stores are in canonical form. -/
def PagePart.wf (s : PagePart) : Bool :=
  Sp.canon dfltRegs s.regs &&
  Sp.canon dfltUnits s.units &&
  Sp.canon dfltBefore s.before &&
  Sp.canon dfltFrozen s.frozen &&
  Sp.canon dfltHiLatch s.hiLatch &&
  Sp.canon dfltLoHeld s.loHeld &&
  Sp.canon dfltBlkUp s.blkUp &&
  Sp.canon dfltTblWin s.tblWin &&
  Sp.canon dfltTblOp s.tblOp &&
  Sp.canon dfltCommitLate s.commitLate &&
  Sp.canon dfltTables s.tables &&
  Sp.canon dfltStartVal s.startVal &&
  Sp.canon dfltDirty s.dirty

/-- The part of ports, cages, FlexE and the cross-connect: its stores are in canonical form. -/
def PortPart.wf (s : PortPart) : Bool :=
  Sp.canon dfltPauseUntil s.pauseUntil &&
  Sp.canon dfltPauseSentAt s.pauseSentAt &&
  Sp.canon dfltPauseQ s.pauseQ &&
  Sp.canon dfltMacSignal s.macSignal &&
  Sp.canon dfltRpfTx s.rpfTx &&
  Sp.canon dfltOhCrcBad s.ohCrcBad &&
  Sp.canon dfltXcRefill s.xcRefill &&
  Sp.canon dfltFlxHeld s.flxHeld &&
  Sp.canon dfltInstX s.instX &&
  Sp.canon dfltXcAdapt s.xcAdapt &&
  Sp.canon dfltClientFeed s.clientFeed &&
  Sp.canon dfltFlxEx s.flxEx &&
  Sp.canon dfltPmX s.pmX

/-- The part of classification and forwarding tables: its stores are in canonical form, its bounded FIFOs are within their room. -/
def LookPart.wf (s : LookPart) : Bool :=
  Sp.canon dfltTcamLoad s.tcamLoad &&
  Sp.canon dfltTcamMiss s.tcamMiss &&
  Sp.canon dfltTcFlip s.tcFlip &&
  Sp.canon dfltLpmKeys s.lpmKeys &&
  Sp.canon dfltLpmBuild s.lpmBuild &&
  Sp.canon dfltLpmDels s.lpmDels &&
  Sp.canon dfltLearnQ s.learnQ &&
  decide (s.l2bNtf.length ≤ 4096)

/-- The part of pipelines, samplers and egress: its stores are in canonical form. -/
def PipePart.wf (s : PipePart) : Bool :=
  Sp.canon dfltRxCut s.rxCut &&
  Sp.canon dfltBodies s.bodies &&
  Sp.canon dfltRxNow s.rxNow &&
  Sp.canon dfltRxFifo s.rxFifo &&
  Sp.canon dfltRxXoff s.rxXoff &&
  Sp.canon dfltInQ s.inQ &&
  Sp.canon dfltRecQ s.recQ &&
  Sp.canon dfltSlotX s.slotX &&
  Sp.canon dfltUpQ s.upQ &&
  Sp.canon dfltEgQ s.egQ &&
  Sp.canon dfltTxGive s.txGive &&
  Sp.canon dfltTxExp s.txExp &&
  Sp.canon dfltTxHold s.txHold &&
  Sp.canon dfltMacQ s.macQ &&
  Sp.canon dfltTxNow s.txNow &&
  Sp.canon dfltBucketPend s.bucketPend &&
  Sp.canon dfltBucketLoad s.bucketLoad &&
  Sp.canon dfltSmpSel s.smpSel &&
  Sp.canon dfltSmpSeq s.smpSeq &&
  Sp.canon dfltSmpMs s.smpMs

/-- The part of buffers and queues of packets: its stores are in canonical form. -/
def BufferPart.wf (s : BufferPart) : Bool :=
  Sp.canon dfltXoff s.xoff &&
  Sp.canon dfltStg s.stg &&
  Sp.canon dfltStgUse s.stgUse &&
  Sp.canon dfltQx s.qx &&
  Sp.canon dfltPoolUse s.poolUse &&
  Sp.canon dfltReqUse s.reqUse &&
  Sp.canon dfltReqResv s.reqResv &&
  Sp.canon dfltBufs s.bufs &&
  Sp.canon dfltStgXoff s.stgXoff &&
  Sp.canon dfltStgDrops s.stgDrops

/-- The part of scheduling, shaping, policing and gates: its stores are in canonical form. -/
def SchedPart.wf (s : SchedPart) : Bool :=
  Sp.canon dfltPolX s.polX &&
  Sp.canon dfltShpX s.shpX &&
  Sp.canon dfltMill s.mill &&
  Sp.canon dfltGateX s.gateX

/-- The part of the fabric: its stores are in canonical form. -/
def FabricPart.wf (s : FabricPart) : Bool :=
  Sp.canon dfltLinkX s.linkX &&
  Sp.canon dfltUnreachAt s.unreachAt &&
  Sp.canon dfltReqs s.reqs &&
  Sp.canon dfltReqNext s.reqNext &&
  Sp.canon dfltRecs s.recs &&
  Sp.canon dfltSrcEpoch s.srcEpoch &&
  Sp.canon dfltPrivUse s.privUse &&
  Sp.canon dfltPrivWait s.privWait &&
  Sp.canon dfltSlotTx s.slotTx &&
  Sp.canon dfltCellSeq s.cellSeq &&
  Sp.canon dfltSprayAt s.sprayAt &&
  Sp.canon dfltCellOpen s.cellOpen &&
  Sp.canon dfltRxStr s.rxStr &&
  Sp.canon dfltMcOut s.mcOut &&
  Sp.canon dfltMcOwed s.mcOwed &&
  Sp.canon dfltSlotBuf s.slotBuf &&
  Sp.canon dfltSlotPlay s.slotPlay &&
  Sp.canon dfltChanErrs s.chanErrs &&
  Sp.canon dfltNormWait s.normWait &&
  Sp.canon dfltNormUse s.normUse

/-- The part of memory controllers: its stores are in canonical form. -/
def MemPart.wf (s : MemPart) : Bool :=
  Sp.canon dfltMemX s.memX &&
  Sp.canon dfltActTab s.actTab &&
  Sp.canon dfltOpenRow s.openRow

/-- The part of the time base: its stores are in canonical form, its bounded FIFOs are within their room. -/
def TimePart.wf (s : TimePart) : Bool :=
  Sp.canon dfltPtpSeq s.ptpSeq &&
  decide (s.tsf.length ≤ 4096)

/-- The part of services: its stores are in canonical form, its bounded FIFOs are within their room. -/
def ServicePart.wf (s : ServicePart) : Bool :=
  Sp.canon dfltBfdX s.bfdX &&
  Sp.canon dfltMepX s.mepX &&
  Sp.canon dfltFlowX s.flowX &&
  Sp.canon dfltMergeX s.mergeX &&
  Sp.canon dfltRecX s.recX &&
  Sp.canon dfltSvcQ s.svcQ &&
  decide (s.svcNtf.length ≤ 4096)

/-- The part of the host interface and virtual instances: its stores are in canonical form. -/
def HostPart.wf (s : HostPart) : Bool :=
  Sp.canon dfltPcieFn s.pcieFn &&
  Sp.canon dfltMsix s.msix &&
  Sp.canon dfltQpx s.qpx &&
  Sp.canon dfltHostQ s.hostQ &&
  Sp.canon dfltVinst s.vinst

/-- The part of start-up: its stores are in canonical form. -/
def StartPart.wf (s : StartPart) : Bool :=
  Sp.canon dfltCageX s.cageX

/-- The part of self-repair: its stores are in canonical form, its bounded FIFOs are within their room. -/
def RepairPart.wf (s : RepairPart) : Bool :=
  Sp.canon dfltPoisoned s.poisoned &&
  Sp.canon dfltGens s.gens &&
  Sp.canon dfltGenEpoch s.genEpoch &&
  Sp.canon dfltUnitX s.unitX &&
  Sp.canon dfltRecov s.recov &&
  Sp.canon dfltModRetry s.modRetry &&
  Sp.canon dfltScarf s.scarf &&
  decide (s.rprEvt.length ≤ 1024)

/-- The part of faults: its stores are in canonical form, its bounded FIFOs are within their room. -/
def FaultPart.wf (s : FaultPart) : Bool :=
  Sp.canon dfltCryQueue s.cryQueue &&
  Sp.canon dfltCryPend s.cryPend &&
  Sp.canon dfltOpenPage s.openPage &&
  decide (s.cryLog.length ≤ 4096)

/-- The part of counters and traces: its stores are in canonical form, its bounded FIFOs are within their room. -/
def CountPart.wf (s : CountPart) : Bool :=
  Sp.canon dfltCounters s.counters &&
  Sp.canon dfltSnapSaved s.snapSaved &&
  decide (s.traceBuf.length ≤ 2048)

/-- The part of images and the nonvolatile store: its stores are in canonical form. -/
def StorePart.wf (s : StorePart) : Bool :=
  Sp.canon dfltImgUnit s.imgUnit &&
  Sp.canon dfltSnapSlot s.snapSlot &&
  Sp.canon dfltErases s.erases &&
  Sp.canon dfltCopyArea s.copyArea &&
  Sp.canon dfltCoreTag s.coreTag

/-- The part of presence, backup domain and the parish register: its stores are in canonical form, its bounded FIFOs are within their room. -/
def PresencePart.wf (s : PresencePart) : Bool :=
  Sp.canon dfltJnlRecent s.jnlRecent &&
  Sp.canon dfltJnlUnits s.jnlUnits &&
  decide (s.jnlPre.length ≤ 65536) &&
  decide (s.jnlPersist.length ≤ 61440) &&
  decide (s.jnlBacklog.length ≤ 8388608)

/-- Every sparse store is in canonical form, and every bounded FIFO within its room. -/
def State.wf (s : State) : Bool :=
  s.toDiePart.wf && s.toPagePart.wf && s.toPortPart.wf && s.toLookPart.wf && s.toPipePart.wf && s.toBufferPart.wf && s.toSchedPart.wf && s.toFabricPart.wf && s.toMemPart.wf && s.toTimePart.wf && s.toServicePart.wf && s.toHostPart.wf && s.toStartPart.wf && s.toRepairPart.wf && s.toFaultPart.wf && s.toCountPart.wf && s.toStorePart.wf && s.toPresencePart.wf

/-- A well-formed state. -/
def State.Inv (s : State) : Prop := s.wf = true

/-- A safe run of `n` steps from a state. -/
def Safe (n : Nat) (s : State) : Prop := ∃ t, Host.Core.run Sys2Proof.core n s = .next t

/-- The pieces of State, each under the name of its field. -/
inductive Piece where
  | pending
  | emitted
  | fresh
  | supVin12
  | supVsb33
  | dieRx
  | dieTx
  | dieQ
  | tmMem
  | dieRead
  | dieLost
  | modRetries
  | dieDownAt
  | regs
  | units
  | before
  | frozen
  | hiLatch
  | loHeld
  | blkUp
  | tblWin
  | tblOp
  | commitLate
  | tables
  | startVal
  | dirty
  | pauseUntil
  | pauseSentAt
  | pauseQ
  | macSignal
  | rpfTx
  | ohCrcBad
  | xcRefill
  | flxHeld
  | instX
  | xcAdapt
  | clientFeed
  | flxEx
  | xcArm
  | xcCopyAt
  | pmX
  | tcamLoad
  | tcamMiss
  | tcFlip
  | scrubRow
  | scrubAt
  | lpmKeys
  | lpmBuild
  | lpmDels
  | learnQ
  | sweepPos
  | sweepAt
  | l2bNtf
  | rxCut
  | bodies
  | bodyNext
  | rxNow
  | rxFifo
  | rxXoff
  | inQ
  | recQ
  | slotX
  | upQ
  | egQ
  | txGive
  | txExp
  | txHold
  | macQ
  | txNow
  | bucketPend
  | rebalAt
  | bucketLoad
  | smpSel
  | smpSeq
  | smpMs
  | xoff
  | stg
  | stgUse
  | stgGlobal
  | qx
  | poolUse
  | reqUse
  | reqResv
  | tagNext
  | twins
  | segNext
  | bufs
  | bufNext
  | stgXoff
  | tier2On
  | tier2Rebuild
  | freeAges
  | hbmIn
  | hbmOut
  | grnIn
  | grnOut
  | grnDemand
  | stgDrops
  | starves
  | polX
  | shpX
  | shpBase
  | mill
  | millAll
  | flushing
  | rptX
  | gateX
  | linkX
  | unreachAt
  | dupIdAt
  | stgMc
  | reqs
  | reqNext
  | recs
  | srcEpoch
  | xbWait
  | xbT
  | xbGrant
  | xbAccept
  | privUse
  | privWait
  | slotTx
  | cellSeq
  | sprayAt
  | cellOpen
  | rxStr
  | mcOut
  | mcOwed
  | slotBuf
  | slotPlay
  | xbMoved
  | xbPrivMoved
  | chanErrs
  | mcMade
  | normWait
  | normUse
  | memX
  | actTab
  | openRow
  | sruMask
  | actWait
  | actAt
  | mono16
  | time16
  | rateRem
  | slewRem
  | slewLeft
  | stepPend
  | stepAt
  | lockCount
  | ppsMissed
  | ppsLast
  | ppsGood
  | todSec
  | ppsOutSec
  | todTxSec
  | ppsHigh
  | ppsOutMono
  | freqLog
  | holdFreq
  | tsf
  | stepDelta
  | ptpSeq
  | bfdX
  | mepX
  | flowX
  | mergeX
  | recX
  | svcRx
  | mergeQ
  | svcQ
  | svcNtf
  | pcieFn
  | msix
  | inta
  | irqSince
  | qpx
  | perstLow
  | hostQ
  | vinst
  | txRot
  | stgResv
  | lookAt
  | l1At
  | bufBad
  | wdogTimes
  | cageX
  | resetLow
  | slotPins
  | latchDue
  | refclk
  | coldT0
  | bootAt
  | stopped
  | poisoned
  | pegStore
  | declared
  | rprEvt
  | gens
  | genEpoch
  | unitX
  | recov
  | rotLast
  | rotAt
  | rotClassAt
  | modRetry
  | scarf
  | pegs
  | pegDue
  | cryQueue
  | cryPend
  | cryLog
  | firstWin
  | firstEnd
  | fatalLatch
  | fatalQ
  | openPage
  | grnBy
  | counters
  | snapSaved
  | snap
  | snapAt
  | dumpCount
  | dumpMemErrs
  | traceBuf
  | trcPhase
  | trcMs
  | trcCount
  | ctl
  | imgUnit
  | snapSlot
  | storeQ
  | storeBusy
  | erases
  | copyArea
  | updSlot
  | updOp
  | confirmEnd
  | roll
  | coreTag
  | jnlSeq
  | jnlPre
  | jnlRecent
  | jnlPersist
  | jnlBacklog
  | jnlNext
  | jnlPhase
  | jnlUnits
  | jnlUnit
  | jnlWriting
  | jnlHeld
  | rtcNs
  | winEnd
  | sealFails
  | sealPasses
  | rtcArmed
  | rtcLoadedSec
  | bkpCopied
  | bkpOver
  | temps
  | hotAt
  | coolAt
  | shutAt
  | alert
  deriving DecidableEq, Repr

/-- Two states agree in a piece. -/
def State.same (s t : State) : Piece → Prop
  | .pending => s.pending = t.pending
  | .emitted => s.emitted = t.emitted
  | .fresh => s.fresh = t.fresh
  | .supVin12 => s.supVin12 = t.supVin12
  | .supVsb33 => s.supVsb33 = t.supVsb33
  | .dieRx => s.dieRx = t.dieRx
  | .dieTx => s.dieTx = t.dieTx
  | .dieQ => s.dieQ = t.dieQ
  | .tmMem => s.tmMem = t.tmMem
  | .dieRead => s.dieRead = t.dieRead
  | .dieLost => s.dieLost = t.dieLost
  | .modRetries => s.modRetries = t.modRetries
  | .dieDownAt => s.dieDownAt = t.dieDownAt
  | .regs => s.regs = t.regs
  | .units => s.units = t.units
  | .before => s.before = t.before
  | .frozen => s.frozen = t.frozen
  | .hiLatch => s.hiLatch = t.hiLatch
  | .loHeld => s.loHeld = t.loHeld
  | .blkUp => s.blkUp = t.blkUp
  | .tblWin => s.tblWin = t.tblWin
  | .tblOp => s.tblOp = t.tblOp
  | .commitLate => s.commitLate = t.commitLate
  | .tables => s.tables = t.tables
  | .startVal => s.startVal = t.startVal
  | .dirty => s.dirty = t.dirty
  | .pauseUntil => s.pauseUntil = t.pauseUntil
  | .pauseSentAt => s.pauseSentAt = t.pauseSentAt
  | .pauseQ => s.pauseQ = t.pauseQ
  | .macSignal => s.macSignal = t.macSignal
  | .rpfTx => s.rpfTx = t.rpfTx
  | .ohCrcBad => s.ohCrcBad = t.ohCrcBad
  | .xcRefill => s.xcRefill = t.xcRefill
  | .flxHeld => s.flxHeld = t.flxHeld
  | .instX => s.instX = t.instX
  | .xcAdapt => s.xcAdapt = t.xcAdapt
  | .clientFeed => s.clientFeed = t.clientFeed
  | .flxEx => s.flxEx = t.flxEx
  | .xcArm => s.xcArm = t.xcArm
  | .xcCopyAt => s.xcCopyAt = t.xcCopyAt
  | .pmX => s.pmX = t.pmX
  | .tcamLoad => s.tcamLoad = t.tcamLoad
  | .tcamMiss => s.tcamMiss = t.tcamMiss
  | .tcFlip => s.tcFlip = t.tcFlip
  | .scrubRow => s.scrubRow = t.scrubRow
  | .scrubAt => s.scrubAt = t.scrubAt
  | .lpmKeys => s.lpmKeys = t.lpmKeys
  | .lpmBuild => s.lpmBuild = t.lpmBuild
  | .lpmDels => s.lpmDels = t.lpmDels
  | .learnQ => s.learnQ = t.learnQ
  | .sweepPos => s.sweepPos = t.sweepPos
  | .sweepAt => s.sweepAt = t.sweepAt
  | .l2bNtf => s.l2bNtf = t.l2bNtf
  | .rxCut => s.rxCut = t.rxCut
  | .bodies => s.bodies = t.bodies
  | .bodyNext => s.bodyNext = t.bodyNext
  | .rxNow => s.rxNow = t.rxNow
  | .rxFifo => s.rxFifo = t.rxFifo
  | .rxXoff => s.rxXoff = t.rxXoff
  | .inQ => s.inQ = t.inQ
  | .recQ => s.recQ = t.recQ
  | .slotX => s.slotX = t.slotX
  | .upQ => s.upQ = t.upQ
  | .egQ => s.egQ = t.egQ
  | .txGive => s.txGive = t.txGive
  | .txExp => s.txExp = t.txExp
  | .txHold => s.txHold = t.txHold
  | .macQ => s.macQ = t.macQ
  | .txNow => s.txNow = t.txNow
  | .bucketPend => s.bucketPend = t.bucketPend
  | .rebalAt => s.rebalAt = t.rebalAt
  | .bucketLoad => s.bucketLoad = t.bucketLoad
  | .smpSel => s.smpSel = t.smpSel
  | .smpSeq => s.smpSeq = t.smpSeq
  | .smpMs => s.smpMs = t.smpMs
  | .xoff => s.xoff = t.xoff
  | .stg => s.stg = t.stg
  | .stgUse => s.stgUse = t.stgUse
  | .stgGlobal => s.stgGlobal = t.stgGlobal
  | .qx => s.qx = t.qx
  | .poolUse => s.poolUse = t.poolUse
  | .reqUse => s.reqUse = t.reqUse
  | .reqResv => s.reqResv = t.reqResv
  | .tagNext => s.tagNext = t.tagNext
  | .twins => s.twins = t.twins
  | .segNext => s.segNext = t.segNext
  | .bufs => s.bufs = t.bufs
  | .bufNext => s.bufNext = t.bufNext
  | .stgXoff => s.stgXoff = t.stgXoff
  | .tier2On => s.tier2On = t.tier2On
  | .tier2Rebuild => s.tier2Rebuild = t.tier2Rebuild
  | .freeAges => s.freeAges = t.freeAges
  | .hbmIn => s.hbmIn = t.hbmIn
  | .hbmOut => s.hbmOut = t.hbmOut
  | .grnIn => s.grnIn = t.grnIn
  | .grnOut => s.grnOut = t.grnOut
  | .grnDemand => s.grnDemand = t.grnDemand
  | .stgDrops => s.stgDrops = t.stgDrops
  | .starves => s.starves = t.starves
  | .polX => s.polX = t.polX
  | .shpX => s.shpX = t.shpX
  | .shpBase => s.shpBase = t.shpBase
  | .mill => s.mill = t.mill
  | .millAll => s.millAll = t.millAll
  | .flushing => s.flushing = t.flushing
  | .rptX => s.rptX = t.rptX
  | .gateX => s.gateX = t.gateX
  | .linkX => s.linkX = t.linkX
  | .unreachAt => s.unreachAt = t.unreachAt
  | .dupIdAt => s.dupIdAt = t.dupIdAt
  | .stgMc => s.stgMc = t.stgMc
  | .reqs => s.reqs = t.reqs
  | .reqNext => s.reqNext = t.reqNext
  | .recs => s.recs = t.recs
  | .srcEpoch => s.srcEpoch = t.srcEpoch
  | .xbWait => s.xbWait = t.xbWait
  | .xbT => s.xbT = t.xbT
  | .xbGrant => s.xbGrant = t.xbGrant
  | .xbAccept => s.xbAccept = t.xbAccept
  | .privUse => s.privUse = t.privUse
  | .privWait => s.privWait = t.privWait
  | .slotTx => s.slotTx = t.slotTx
  | .cellSeq => s.cellSeq = t.cellSeq
  | .sprayAt => s.sprayAt = t.sprayAt
  | .cellOpen => s.cellOpen = t.cellOpen
  | .rxStr => s.rxStr = t.rxStr
  | .mcOut => s.mcOut = t.mcOut
  | .mcOwed => s.mcOwed = t.mcOwed
  | .slotBuf => s.slotBuf = t.slotBuf
  | .slotPlay => s.slotPlay = t.slotPlay
  | .xbMoved => s.xbMoved = t.xbMoved
  | .xbPrivMoved => s.xbPrivMoved = t.xbPrivMoved
  | .chanErrs => s.chanErrs = t.chanErrs
  | .mcMade => s.mcMade = t.mcMade
  | .normWait => s.normWait = t.normWait
  | .normUse => s.normUse = t.normUse
  | .memX => s.memX = t.memX
  | .actTab => s.actTab = t.actTab
  | .openRow => s.openRow = t.openRow
  | .sruMask => s.sruMask = t.sruMask
  | .actWait => s.actWait = t.actWait
  | .actAt => s.actAt = t.actAt
  | .mono16 => s.mono16 = t.mono16
  | .time16 => s.time16 = t.time16
  | .rateRem => s.rateRem = t.rateRem
  | .slewRem => s.slewRem = t.slewRem
  | .slewLeft => s.slewLeft = t.slewLeft
  | .stepPend => s.stepPend = t.stepPend
  | .stepAt => s.stepAt = t.stepAt
  | .lockCount => s.lockCount = t.lockCount
  | .ppsMissed => s.ppsMissed = t.ppsMissed
  | .ppsLast => s.ppsLast = t.ppsLast
  | .ppsGood => s.ppsGood = t.ppsGood
  | .todSec => s.todSec = t.todSec
  | .ppsOutSec => s.ppsOutSec = t.ppsOutSec
  | .todTxSec => s.todTxSec = t.todTxSec
  | .ppsHigh => s.ppsHigh = t.ppsHigh
  | .ppsOutMono => s.ppsOutMono = t.ppsOutMono
  | .freqLog => s.freqLog = t.freqLog
  | .holdFreq => s.holdFreq = t.holdFreq
  | .tsf => s.tsf = t.tsf
  | .stepDelta => s.stepDelta = t.stepDelta
  | .ptpSeq => s.ptpSeq = t.ptpSeq
  | .bfdX => s.bfdX = t.bfdX
  | .mepX => s.mepX = t.mepX
  | .flowX => s.flowX = t.flowX
  | .mergeX => s.mergeX = t.mergeX
  | .recX => s.recX = t.recX
  | .svcRx => s.svcRx = t.svcRx
  | .mergeQ => s.mergeQ = t.mergeQ
  | .svcQ => s.svcQ = t.svcQ
  | .svcNtf => s.svcNtf = t.svcNtf
  | .pcieFn => s.pcieFn = t.pcieFn
  | .msix => s.msix = t.msix
  | .inta => s.inta = t.inta
  | .irqSince => s.irqSince = t.irqSince
  | .qpx => s.qpx = t.qpx
  | .perstLow => s.perstLow = t.perstLow
  | .hostQ => s.hostQ = t.hostQ
  | .vinst => s.vinst = t.vinst
  | .txRot => s.txRot = t.txRot
  | .stgResv => s.stgResv = t.stgResv
  | .lookAt => s.lookAt = t.lookAt
  | .l1At => s.l1At = t.l1At
  | .bufBad => s.bufBad = t.bufBad
  | .wdogTimes => s.wdogTimes = t.wdogTimes
  | .cageX => s.cageX = t.cageX
  | .resetLow => s.resetLow = t.resetLow
  | .slotPins => s.slotPins = t.slotPins
  | .latchDue => s.latchDue = t.latchDue
  | .refclk => s.refclk = t.refclk
  | .coldT0 => s.coldT0 = t.coldT0
  | .bootAt => s.bootAt = t.bootAt
  | .stopped => s.stopped = t.stopped
  | .poisoned => s.poisoned = t.poisoned
  | .pegStore => s.pegStore = t.pegStore
  | .declared => s.declared = t.declared
  | .rprEvt => s.rprEvt = t.rprEvt
  | .gens => s.gens = t.gens
  | .genEpoch => s.genEpoch = t.genEpoch
  | .unitX => s.unitX = t.unitX
  | .recov => s.recov = t.recov
  | .rotLast => s.rotLast = t.rotLast
  | .rotAt => s.rotAt = t.rotAt
  | .rotClassAt => s.rotClassAt = t.rotClassAt
  | .modRetry => s.modRetry = t.modRetry
  | .scarf => s.scarf = t.scarf
  | .pegs => s.pegs = t.pegs
  | .pegDue => s.pegDue = t.pegDue
  | .cryQueue => s.cryQueue = t.cryQueue
  | .cryPend => s.cryPend = t.cryPend
  | .cryLog => s.cryLog = t.cryLog
  | .firstWin => s.firstWin = t.firstWin
  | .firstEnd => s.firstEnd = t.firstEnd
  | .fatalLatch => s.fatalLatch = t.fatalLatch
  | .fatalQ => s.fatalQ = t.fatalQ
  | .openPage => s.openPage = t.openPage
  | .grnBy => s.grnBy = t.grnBy
  | .counters => s.counters = t.counters
  | .snapSaved => s.snapSaved = t.snapSaved
  | .snap => s.snap = t.snap
  | .snapAt => s.snapAt = t.snapAt
  | .dumpCount => s.dumpCount = t.dumpCount
  | .dumpMemErrs => s.dumpMemErrs = t.dumpMemErrs
  | .traceBuf => s.traceBuf = t.traceBuf
  | .trcPhase => s.trcPhase = t.trcPhase
  | .trcMs => s.trcMs = t.trcMs
  | .trcCount => s.trcCount = t.trcCount
  | .ctl => s.ctl = t.ctl
  | .imgUnit => s.imgUnit = t.imgUnit
  | .snapSlot => s.snapSlot = t.snapSlot
  | .storeQ => s.storeQ = t.storeQ
  | .storeBusy => s.storeBusy = t.storeBusy
  | .erases => s.erases = t.erases
  | .copyArea => s.copyArea = t.copyArea
  | .updSlot => s.updSlot = t.updSlot
  | .updOp => s.updOp = t.updOp
  | .confirmEnd => s.confirmEnd = t.confirmEnd
  | .roll => s.roll = t.roll
  | .coreTag => s.coreTag = t.coreTag
  | .jnlSeq => s.jnlSeq = t.jnlSeq
  | .jnlPre => s.jnlPre = t.jnlPre
  | .jnlRecent => s.jnlRecent = t.jnlRecent
  | .jnlPersist => s.jnlPersist = t.jnlPersist
  | .jnlBacklog => s.jnlBacklog = t.jnlBacklog
  | .jnlNext => s.jnlNext = t.jnlNext
  | .jnlPhase => s.jnlPhase = t.jnlPhase
  | .jnlUnits => s.jnlUnits = t.jnlUnits
  | .jnlUnit => s.jnlUnit = t.jnlUnit
  | .jnlWriting => s.jnlWriting = t.jnlWriting
  | .jnlHeld => s.jnlHeld = t.jnlHeld
  | .rtcNs => s.rtcNs = t.rtcNs
  | .winEnd => s.winEnd = t.winEnd
  | .sealFails => s.sealFails = t.sealFails
  | .sealPasses => s.sealPasses = t.sealPasses
  | .rtcArmed => s.rtcArmed = t.rtcArmed
  | .rtcLoadedSec => s.rtcLoadedSec = t.rtcLoadedSec
  | .bkpCopied => s.bkpCopied = t.bkpCopied
  | .bkpOver => s.bkpOver = t.bkpOver
  | .temps => s.temps = t.temps
  | .hotAt => s.hotAt = t.hotAt
  | .coolAt => s.coolAt = t.coolAt
  | .shutAt => s.shutAt = t.shutAt
  | .alert => s.alert = t.alert

/-- The two states agree in every piece but those named. -/
def State.onlyIn (s t : State) (l : List Piece) : Prop := ∀ f, f ∉ l → s.same t f

/-! ### Frames: what a command may change -/

/-- Bit `b` of the register with key `k` belongs to the field. -/
def Fld.covers (f : Fld) (k b : Nat) : Prop := regKey f.page f.off = k ∧ f.lo ≤ b ∧ b ≤ f.hi

/-- From `s` to `t` nothing changes but the pieces `l`, the register fields `R` and the table entries with keys in `T`: every other piece of
State, every other bit of every register and every other entry of every table is as before. -/
def State.framed (s t : State) (l : List Piece) (R : List Fld) (T : List Nat) : Prop :=
  s.onlyIn t (.regs :: .tables :: l) ∧
  (∀ k b, (∀ f ∈ R, ¬ f.covers k b) → (t.regsAt k).getLsbD b = (s.regsAt k).getLsbD b) ∧
  (∀ k, k ∉ T → t.tablesAt k = s.tablesAt k)

/-- The fields that an interrupt event of a page writes (R58, R482): its bit of BLK_INT_STAT, the page's bit of the block summary, and IN_L1,
which a message ends (R484). -/
def irqFlds (page bit : Nat) : List Fld := [⟨page, 0x10, bit, bit⟩, ⟨2, 0x300 + 4 * (page / 32), page % 32, page % 32⟩, PCIE_LINK_STAT.IN_L1]

/-- The other pieces that an interrupt event writes (R482, R483): messages sent, pending vectors, INTA, the time of the summary's rise and of the
endpoint's last work. -/
def irqPieces : List Piece := [.emitted, .msix, .inta, .irqSince, .l1At]

/-- The fields that a refresh of a port's link state writes (R81, R93, R126): its link and pause bits and interrupt bit 21 of its page. -/
def linkFlds (port : Nat) : List Fld :=
  [PORT_STAT.FEC_LOCK port, PORT_STAT.LINK_UP port, PORT_STAT.PFC_PAUSED port] ++ irqFlds (16 + port) 21

/-- The other pieces that a refresh of a port's link state writes (R93, R126, R236): those of its interrupt, what the MAC signals, a frame cut in
its reception, and the pause frames that a link coming up sends and counts. -/
def linkPieces : List Piece := [.macSignal, .rxCut, .pauseSentAt, .pauseQ, .counters, .snapSaved] ++ irqPieces

/-- The pieces that a control message writes (R349, R350, R369): where its stream's spraying stands, the privileged cells sent and waiting, the
link's counters, the other cells sent and waiting. -/
def ctrlPieces : List Piece := [.emitted, .sprayAt, .privUse, .privWait, .normUse, .normWait, .counters, .snapSaved]

/-- The pieces that giving back staging bytes writes (R250, R257): the bodies and the staging store's use, and the pause of a port that follows. -/
def stagePieces : List Piece := [.bodies, .stgUse, .stgGlobal, .stgXoff, .xoff, .pauseSentAt, .pauseQ, .counters, .snapSaved] ++ irqPieces

/-- The pieces that sending the cells of open streams writes (R345, R350, R367 to R369). -/
def streamPieces : List Piece :=
  [.cellOpen, .cellSeq, .sprayAt, .privUse, .privWait, .normUse, .normWait, .xbWait, .xbT, .xbGrant, .xbAccept, .xbMoved, .xbPrivMoved] ++ stagePieces

/-- The fields that a reported error writes (R53, R60, R576): the page's error capture, its interrupt bits 0 and, for a class of Contained or higher, 3, and CRY_DROPPED. -/
def errFlds (page : Nat) : List Fld :=
  [ERRCAP_ADDR_LO.reg page, ERRCAP_ADDR_HI.reg page, ERRCAP_MASTER.reg page, ERRCAP_KIND.reg page, ERRCAP_TIME_LO.reg page,
   ERRCAP_TIME_HI.reg page, ERRCAP_DATA.reg page, ERRCAP_CTRL.reg page, CRY_DROPPED.reg] ++ irqFlds page 0 ++ irqFlds page 3

/-- The other pieces that a reported error writes (R573, R576): those of its interrupt and the queue of its page's crier messages. -/
def errPieces : List Piece := [.cryQueue, .cryPend] ++ irqPieces

/-- The fields that a record of the parish register may write (R663): the count of overwritten records and its interrupt. -/
def recFlds : List Fld := [JNL_OVERWRITTEN_LO.reg, JNL_OVERWRITTEN_HI.reg] ++ irqFlds 6 17

/-- The other pieces that a record of the parish register may write (R657 to R663). -/
def recPieces : List Piece := [.jnlSeq, .jnlRecent, .jnlBacklog, .jnlPersist, .jnlPre, .jnlHeld] ++ irqPieces

/-- The pieces that an event with its interrupt and its count can write (R58, R600): those of an interrupt, the counters and the registers. -/
def countPieces : List Piece := [.regs, .counters, .snapSaved] ++ irqPieces

/-- The pieces that discarding a packet can write, wherever it stands (R231, R468, R573): its body, its counts and an error report, and the records
for the host. -/
def dropPieces : List Piece := [.bodies, .cryPend, .cryQueue, .hostQ, .tables] ++ countPieces

/-- The pieces that giving back a read's or a packet's place in the staging store can write (R250, R257, R474): its use, the pauses that follow and
the queue pair. -/
def placePieces : List Piece := [.pauseQ, .pauseSentAt, .qpx, .stgGlobal, .stgResv, .stgXoff, .xoff] ++ countPieces

/-- The pieces that a register write of a master writes beside what it starts (R15, R52): flits of the die-to-die link, and its record. -/
def hostPieces : List Piece := [.dieTx, .dieRx] ++ recPieces

/-- The pieces that an access of tiers 2 and 3 can write (R397, R405, R407): activate counts, open rows and the accesses that wait for the window, and the free value that
says where it goes. -/
def rowPieces : List Piece := [.actTab, .openRow, .actWait, .fresh, .emitted]

/-- The counts of row-refresh commands of every target, which an access of tiers 2 and 3 can raise (R406). -/
def nrefFlds : List Fld := (List.range 20).map tgtNref

/-- The pieces that a discarded buffer can write (R276, R281, R294): its queue and pools, its free copies and reports, and what a discarded packet
writes. -/
def bufferPieces : List Piece := [.bufs, .freeAges, .fresh, .mill, .poolUse, .qx, .reqUse, .rptX, .twins] ++ dropPieces

/-- The pieces that a pass of a pipeline can write (R222, R305, R606): policers, shapers, samples and traces, and what a discarded packet writes. -/
def passPieces : List Piece := [.polX, .shpX, .smpMs, .smpSel, .smpSeq, .tcFlip, .traceBuf, .trcCount, .trcMs, .upQ, .fresh, .bodies, .cryPend, .cryQueue, .tables] ++ countPieces

/-- The counts of multicast packets lost in part or whole, which the end of a body can write (R380). -/
def mcFlds : List Fld := [MCR_PARTIAL_LO.reg, MCR_PARTIAL_HI.reg, MCR_UNDELIV_LO.reg, MCR_UNDELIV_HI.reg]

/-- The fields that giving back a body and its place in the staging store can write (R250, R257, R261, R262, R380): what is free, the ports' use and XOFF, their
PAUSED, the reservations that BPM shows, and the counts of multicast packets lost. -/
def stageFlds : List Fld := BUF_STG_FREE.reg :: mcFlds ++ irqFlds 145 16 ++
  (List.range 48).flatMap (fun p => [BUF_STG_PORT2.reg p, PORT_STAT.PFC_PAUSED p]) ++ (List.range 3).map BPM_TIER_RESV.RESV

/-- The fields that a refusal of a packet and its report can write (R261, R301, R489). -/
def refuseFlds : List Fld := [QM_RPT_DROP.reg, PCIE_CONTAIN_DROP.reg] ++ irqFlds 145 17 ++ irqFlds 176 16

/-- The fields that the buffer manager's accounts show (R253 to R259, R403): its regions, pools and requesters, their interrupts, and the idle regions. -/
def poolFlds : List Fld := GRN_STAT.reg :: (List.range 4096).map (fun k => ⟨144, 4 * k, 31, 0⟩) ++ irqFlds 144 16 ++ irqFlds 144 17 ++ irqFlds 144 18

/-- The fields that the gates show (R318, R322, R326). -/
def gateFlds : List Fld := SCH_STAT.FIT_WAIT :: (List.range 48).map GATE_STAT.reg

/-- The fields that samples, traces and a faulty action can write in a pass (R245 to R249, R579, R605, R606). -/
def passFlds : List Fld := [TRC_RATE_SKIP.reg, TRC_SEQ.reg, TRC_BUF_STAT.reg, TRC_DROPPED.reg] ++ irqFlds 11 16 ++ irqFlds 11 17 ++ irqFlds 105 16 ++
  (List.range 64).map SMP_INST_RDROP.COUNT ++ errFlds 104

/-- The queue pairs' entries, whose DROPS a refused report counts (R489). -/
def qpKeys : List Nat := (List.range 4096).map (tabKey 3 0)

/-- The pieces that the recovery of a unit can write (R541 to R570): the units and recoveries, their events and records, the Fatal state that a lost
unit brings, and the links and queues of a unit that stops. -/
def recoveryPieces : List Piece := [
  .bucketPend, .cryPend, .cryQueue, .dieDownAt, .fatalLatch, .fatalQ, .inQ, .linkX, .mill, .pegDue, .pegs, .recov, .rprEvt, .tables, .tcFlip,
  .tcamLoad, .unitX, .unreachAt] ++ recPieces ++ countPieces

/-! ### The table command window: when a page takes a command -/

/-- The operation that an accepted TBL_CMD of master `m` begins on a page (R77): its code, table and index, with the words and options staged. -/
def State.tblCmd (s : State) (m page op table index : Nat) : TblOp :=
  { op := op, table := table, index := index, master := m, staged := s.tblWinAt page, opt := (s.reg page 0x108).toNat }

/-- An access of a master to a page is not behind another on the die-to-die link, or does not cross it (R28, R33). -/
def State.crossClear (s : State) (m page : Nat) : Bool := match crossing m page with | none => true | some k => s.crossFree k

/-- The page takes the operation and carries it out at once (R73, R76, R57): the master reaches a page that is up and has a window, it holds the
window, nothing runs in it, the page is not frozen, and the operation neither touches a bank that is being loaded nor waits for a unit. -/
def State.takesTbl (s : State) (page : Nat) (o : TblOp) : Bool :=
  s.reaches o.master && s.crossClear o.master page && !s.waitsBehind o.master page && hasWindow page && s.blkUpAt page && s.rd (TBL_LOCK.HELD page) == 1 && s.rd (TBL_LOCK.OWNER page) == o.master &&
    s.rd (TBL_STAT.BUSY page) == 0 && s.rd (BLK_CTRL.FREEZE page) == 0 && !s.loadTouches page o && !tblDeferred page o.table &&
    decide (o.table < 64) && decide (o.index < 2 ^ 22)

/-- A write of master `m` to a register of the page is carried out at once (R44 to R48, R52): the master reaches a page that is up, no write of its
waits before it for the journal, it holds no LO half there, and the journal accepts a record of it. -/
def State.takesWrite (s : State) (m page : Nat) : Bool :=
  s.reaches m && s.crossClear m page && (blockOf page).isSome && s.blkUpAt page && !s.waitsBehind m page && (s.loHeldAt (pairKey m page)).isNone &&
    s.jnlAccepts (mkRecord s 1 m page 0 0 0 0)

/-- A command written to a page's command register by master `m` is carried out at once (R56): the write is, and the block is enabled. -/
def State.takesCmd (s : State) (m page : Nat) : Bool := s.takesWrite m page && s.rd (BLK_CTRL.ENABLE page) == 1

/-- An access of a page by master `m` is served at once (R33, R46, R48): the master reaches a page that is up, or
page 0, and nothing of its own waits before it. -/
def State.serves (s : State) (m page : Nat) : Bool :=
  s.reaches m && s.crossClear m page && (blockOf page).isSome && (page == 0 || s.blkUpAt page) && !s.waitsBehind m page

/-- The pieces that a register write can reach through whatever it starts (the restart of the main core and the table commands among it); every other
piece is out of the reach of every write. -/
def writePieces : List Piece := [
  .actTab, .actWait, .before, .bfdX, .blkUp, .bodies, .bootAt, .bucketPend, .bufs, .cageX, .commitLate, .confirmEnd, .copyArea, .counters, .cryPend,
  .cryQueue, .ctl, .dieDownAt, .dieQ, .dieRead, .dieRx, .dieTx, .dirty, .emitted, .erases, .flowX, .flushing, .flxEx, .flxHeld, .freeAges, .freqLog,
  .fresh, .frozen, .gateX, .grnBy, .holdFreq, .hostQ, .imgUnit, .instX, .inta, .irqSince, .jnlBacklog, .jnlHeld, .jnlNext, .jnlPersist, .jnlPhase,
  .jnlPre, .jnlRecent, .jnlSeq, .l1At, .linkX, .loHeld, .lockCount, .lpmBuild, .lpmDels, .lpmKeys, .macQ, .macSignal, .mcMade, .memX, .mepX, .mergeX,
  .mill, .msix, .openRow, .pauseQ, .pauseSentAt, .pegDue, .pegs, .pmX, .poisoned, .polX, .poolUse, .qpx, .qx, .recX, .recov, .regs, .reqResv,
  .reqUse, .rotLast, .rpfTx, .rprEvt, .rptX, .rtcArmed, .rxCut, .rxFifo, .rxXoff, .shpX, .slewLeft, .slewRem, .slotBuf, .slotPlay, .snap, .snapSaved,
  .snapAt, .snapSlot, .sruMask, .stepAt, .stepDelta, .stepPend, .stgGlobal, .stgResv, .stgXoff, .storeBusy, .storeQ, .svcNtf, .tables, .tblOp, .tblWin,
  .tcFlip, .tcamLoad, .time16, .traceBuf, .twins, .txNow, .unitX, .units, .unreachAt, .updOp, .updSlot, .vinst, .winEnd, .xcArm, .xcCopyAt,
  .xcRefill, .xoff]

end Sys2Proof.Machine
end

