-- ==== Sys2Proof/Certificates/Slice0/Obligations.lean ====
section
/-!
DEFINITION. The statements about the model: one definition for each, named after what it states.  Each clause of a family's statement says of one
command that, on the operands and states named, `Sys2Proof.Machine.exec` answers a next state, what it does there and what it leaves alone; where another
statement says what a family's commands leave alone, its text names it.
-/
open Sys2Proof Sys2Proof.Machine

/-- Every well-formed command answers a next state in every state; every other one is refused by name. Well-formed means that the operands name units of
the device. No command faults: what the device turns away it turns away with the effect its rule gives. (00_scope.md.) -/
def Obligations.WellFormedCommandsComplete : Prop :=
  (∀ (i : Instr) (s : State), i.wellFormed = true → ∃ t, exec i s = .next t) ∧
  (∀ (i : Instr) (s : State), i.wellFormed = false → exec i s = .refused .illFormed)

/-- Registers are written and read. REG_WRITE, HI_WRITE, LO_READ_LATCH and PAGE_TIMEOUT. What they leave alone is stated in JournalWrites.
(02_register_pages.md R39, 02_register_pages.md R42, 02_register_pages.md R43, 02_register_pages.md R44, 02_register_pages.md R45,
02_register_pages.md R47, 02_register_pages.md R48, 02_register_pages.md R64.) -/
def Obligations.RegisterAccesses : Prop :=
  (∀ (m page off be : Nat) (data : Word) (d : RegDecl) (s : State), Instr.wellFormed (.regWrite m page off be [data]) → s.takesWrite m page →
    be = 15 → declAt page off = some d → d.shadowed → d.readOnly = false → latchesOf page off = [] → 0x200 ≤ off → (page < 244 ∨ 256 ≤ page) →
    (s.dirtyAt page).all (fun x => x.1 != off) → ∃ t, exec (.regWrite m page off be [data]) s = .next t ∧
    t.reg page off = d.merge (s.reg page off) data ∧ t.unitsAt (regKey page off) = s.unitsAt (regKey page off) ∧
    t.dirtyAt page = s.dirtyAt page ++ [(off, m)]) ∧
  (∀ (m page off be : Nat) (data : Word) (s : State), Instr.wellFormed (.regWrite m page off be [data]) → s.takesWrite m page → be % 16 ≠ 15 →
    s.rd (ERRCAP_CTRL.VALID page) = 0 → ∃ t, exec (.regWrite m page off be [data]) s = .next t ∧ t.rd (ERRCAP_CTRL.VALID page) = 1 ∧
    fieldOf (t.reg page 0x2C) 15 0 = 2) ∧
  (∀ (m page off be : Nat) (data : Word) (s : State), Instr.wellFormed (.regWrite m page off be [data]) → s.reaches m → (blockOf page).isSome →
    page ≠ 0 → s.blkUpAt page = false → s.crossClear m page → ∃ t, exec (.regWrite m page off be [data]) s = .next t ∧
    t.reg page off = s.reg page off) ∧
  (∀ (m be : Nat) (data : Word) (s : State), Instr.wellFormed (.regWrite m 6 0x21C be [data]) → s.takesWrite m 6 → be = 15 →
    ∃ t, exec (.regWrite m 6 0x21C be [data]) s = .next t ∧
    t.rd JNL_HOST_HEAD.INDEX = data.toNat % 2 ^ (JNL_HOST_HEAD.INDEX.hi + 1 - JNL_HOST_HEAD.INDEX.lo)) ∧
  (∀ (m page off be : Nat) (data : Word) (a b : RegDecl) (lo : Word) (s : State), Instr.wellFormed (.hiWrite m page off be data) → s.serves m page →
    be = 15 → 0x204 ≤ off → declAt page (off - 4) = some a → declAt page off = some b → a.shadowed → b.shadowed → b.readOnly = false →
    latchesOf page off = [] → s.loHeldAt (pairKey m page) = some (off - 4, lo) → off % 4 = 0 → (page < 244 ∨ 256 ≤ page) →
    ∃ t, exec (.hiWrite m page off be data) s = .next t ∧ t.reg page (off - 4) = a.merge (s.reg page (off - 4)) lo ∧
    t.reg page off = b.merge (s.reg page off) data ∧ t.loHeldAt (pairKey m page) = none) ∧
  (∀ (m page : Nat) (off : Nat) (s : State), Instr.wellFormed (.loReadLatch m page (off,1)) → (m = 0 ∧ page < 1024 ∨ 64 ≤ m) → s.serves m page →
    latchesOf page off ≠ [] → (off < 0x100 ∨ 0x200 ≤ off) → (declAt page off).isSome → (s.hiLatchAt (pairKey m page)).all (fun x => x.1 != off) →
    ∃ t, exec (.loReadLatch m page (off,1)) s = .next t ∧ t.hiLatchAt (pairKey m page) = (latchesOf page off).map (fun o => (o, s.shows page o)) ∧
    .readData m page off (s.shows page off).toNat false ∈ t.emitted) ∧
  (∀ (m page off : Nat) (s : State), Instr.wellFormed (.pageTimeout m page off) → m = 0 → ∃ t, exec (.pageTimeout m page off) s = .next t ∧
    .readData m page off 0xFFFFFFFF false ∈ t.emitted)

/-- A step runs the command at the front of the queue; with none waiting 1 ns passes (the model's choice, log entry 7). Whatever the queue's rest, a
step with a command in front is that command's execution on the state with the rest. With an empty queue the step answers a next state whose MONO is
one nanosecond of the adjusted rate on: log entry 7 chose that, no rule states it. (00_scope.md.) -/
def Obligations.StepRunsTheFrontCommand : Prop :=
  (∀ (c : Instr) (rest : List Instr) (s : State), step (s.withRest (c :: rest)) = exec c (s.withRest rest)) ∧
  (∀ (s : State), s.pending = [] → ∃ t, step s = .next t ∧ t.pending = [] ∧ t.mono16 = s.monoNext ∧ t.bufBad = false)

/-- Frames arrive, are spread over the pipelines and cross to staging. FRAME_RECEIVE, FRAME_TAIL, RX_FIFO_DEQUEUE, BUCKET_MOVE, BUCKET_REBALANCE,
STAGING_ADMIT and STAGING_AGE_EXPIRE. What they leave alone is stated in TcamAndShapers. (06_pipelines.md R226, 06_pipelines.md R227,
06_pipelines.md R230, 06_pipelines.md R231, 06_pipelines.md R236, 07_buffers.md R261, 07_buffers.md R263.) -/
def Obligations.FramesAndBuckets : Prop :=
  (∀ (port : Nat) (head : List Byte) (b : List Nat) (s : State), Instr.wellFormed (.frameReceive port head) → b = (head.map BitVec.toNat).take 256 →
    s.rd (PORT_STAT.LINK_UP port) = 1 → s.rxNowAt port = none → isPauseFrame b = false →
    s.rxLevel port ≤ min 502 (s.cfg PIPE_RX_LEVEL.DROP_LEVEL) * 1024 → ∃ t, exec (.frameReceive port head) s = .next t ∧
    t.rxNowAt port = some s.bodyNext ∧ t.bodyNext = s.bodyNext + 1 ∧ (t.bodiesAt s.bodyNext).bytes = b ∧ (t.bodiesAt s.bodyNext).whole = false ∧
    (t.rxFifoAt port).map (fun p => p.body) = (s.rxFifoAt port).map (fun p => p.body) ++ [s.bodyNext]) ∧
  (∀ (port : Nat) (rest : List Byte) (storeErr : Bool) (i : Nat) (a : List Nat) (s : State), Instr.wellFormed (.frameTail port rest storeErr) →
    s.rxNowAt port = some i → a = (s.bodiesAt i).bytes ++ rest.map BitVec.toNat → 64 ≤ a.length → s.rd PIPE_CT_CFG.LEN_CHECK = 0 →
    tailCause a (s.cfg (PORT_MAC_CFG.MAX_FRAME port)) (s.rd (PORT_STAT.LINK_UP port) == 1) storeErr false = 0 → (s.bodiesAt i).lost = false →
    (s.rxFifoAt port).any (fun p => p.body == i) → 0 < (s.bodiesAt i).refs → (s.bodiesAt i).lenCtrs = [] → (s.bodiesAt i).charges = [] →
    (s.bodiesAt i).shapes = [] → s.bufs.all (fun kv => kv.2.body != i) → s.cellOpen.all (fun kv => kv.2.all (fun y => y.1.body != i)) →
    ∃ t, exec (.frameTail port rest storeErr) s = .next t ∧ t.rxNowAt port = none ∧ (t.bodiesAt i).whole ∧
    (t.bodiesAt i).bytes = a.take (a.length - 4) ∧ t.counter 0 (128 * port) = (s.counter 0 (128 * port) + 1) % 2 ^ 64) ∧
  (∀ (port : Nat) (p : Pkt) (r : List Pkt) (k : Nat) (s : State), Instr.wellFormed (.rxFifoDequeue port) → s.rxFifoAt port = p :: r →
    (s.bodiesAt p.body).whole → k = s.bucketOf (parse s.prsCfg (s.bodiesAt p.body).window) port → (s.inQAt (s.bucketPipe k)).length < 256 →
    s.rd (BLK_CTRL.ENABLE (112 + (s.holder clsPipe (s.bucketPipe k)).getD 0)) = 1 → ∃ t, exec (.rxFifoDequeue port) s = .next t ∧
    t.rxFifoAt port = r ∧ t.inQAt (s.bucketPipe k) = s.inQAt (s.bucketPipe k) ++ [{ p with hash := k }] ∧ t.bucketLoadAt k = s.bucketLoadAt k + 1) ∧
  (∀ (bucket : Nat) (l : Nat) (s : State), Instr.wellFormed (.bucketMove bucket) → s.bucketPendAt bucket = some l → s.bucketBusy bucket = false →
    l < 16 → ∃ t, exec (.bucketMove bucket) s = .next t ∧ t.bucketPipe bucket = l ∧ t.bucketPendAt bucket = none) ∧
  (∀ (a b k : Nat) (s : State), Instr.wellFormed .bucketRebalance → s.rd (BLK_CTRL.ENABLE 112) = 1 → s.since s.rebalAt 10000 →
    s.rd PIPE_DIST_CFG.AUTO = 1 → argMax s.pipeLoad ((List.range 16).filter (fun l => (s.holder clsPipe l).isSome)) = some a →
    argMax (fun l => 2 ^ 64 - s.pipeLoad l) ((List.range 16).filter (fun l => (s.holder clsPipe l).isSome)) = some b →
    s.rd PIPE_DIST_CFG.IMBAL * 220 < s.pipeLoad a - s.pipeLoad b →
    argMax s.bucketLoadAt ((List.range 256).filter (fun k => s.bucketPipe k == a && 0 < s.bucketLoadAt k)) = some k → s.bucketBusy k = false →
    ∃ t, exec (.bucketRebalance) s = .next t ∧ t.bucketPipe k = b ∧ t.bucketLoadAt k = 0 ∧ t.rebalAt = s.mono) ∧
  (∀ (src : Nat) (n : Nat) (p : Pkt) (s : State), Instr.wellFormed (.stagingAdmit src) → src < 17 → s.linkClear 0 →
    s.readyToCross (s.upQAt src) [] 0 = some (n, p) → ∃ t, exec (.stagingAdmit src) s = .next t ∧
    t.upQAt src = (s.upQAt src).take n ++ (s.upQAt src).drop (n + 1)) ∧
  (∀ (k : Nat) (s : State), Instr.wellFormed .stagingAgeExpire → s.fatalLatch = false → ∃ t, exec (.stagingAgeExpire) s = .next t ∧
    (t.stgAt k).all (fun p => !s.stgOld p) ∧ t.svcRx = s.svcRx.filter (fun p => !s.stgOld p) ∧ t.stgMc = s.stgMc.filter (fun p => !s.stgOld p))

/-- Every step keeps every map of the state in canonical form. The invariant is that of every sparse map of State: its keys rise strictly and no entry
equals what an unlisted key reads as, so that equal registers, tables, memories and queues are equal data. Every step that answers a next state
keeps it, from any state that has it. (02_register_pages.md R53, 00_scope.md.) -/
def Obligations.StepKeepsInvariant : Prop :=
  ∀ (s t : State), s.Inv → step s = .next t → t.Inv

/-- Instances are created, quiesced, reset and removed. The operations of VIRT_CMD, VIRT_QUIESCED, QUIESCE_READ_TIMEOUT, VF_FLR and VF_ENABLE_CHANGE.
What they leave alone is stated in DoorbellsAndInterrupts. (14_virtual_instances.md R493, 14_virtual_instances.md R500, 14_virtual_instances.md
R506, 14_virtual_instances.md R507, 14_virtual_instances.md R508, 14_virtual_instances.md R509.) -/
def Obligations.VirtualInstances : Prop :=
  (∀ (m : Nat) (data : Word) (s : State), Instr.wellFormed (.virtNop m data) → s.takesCmd m 4 → s.rd VIRT_CMD_STAT.BUSY = 0 →
    ∃ t, exec (.virtNop m data) s = .next t ∧ t.rd VIRT_CMD_STAT.DONE = 1 ∧ t.rd VIRT_CMD_STAT.RESULT = 0) ∧
  (∀ (m : Nat) (data : Word) (i : Nat) (s : State), Instr.wellFormed (.virtCreate m data) → s.takesCmd m 4 → s.rd VIRT_CMD_STAT.BUSY = 0 →
    i = data.toNat % 4096 → (s.inst i).f INST.STATE = 0 → s.createResult i = 0 → ∃ t, exec (.virtCreate m data) s = .next t ∧
    (t.inst i).f INST.STATE = 1 ∧ (t.inst i).f INST.GEN = 0 ∧ t.rd VIRT_CMD_STAT.RESULT = 0 ∧
    (s.instQps i).all (fun k => (t.qp k).f QP.OWNER == i)) ∧
  (∀ (m : Nat) (data : Word) (i : Nat) (s : State), Instr.wellFormed (.virtQuiesce m data) → s.takesCmd m 4 → s.rd VIRT_CMD_STAT.BUSY = 0 →
    i = data.toNat % 4096 → i ≠ 0 → (s.inst i).f INST.STATE = 1 → ∃ t, exec (.virtQuiesce m data) s = .next t ∧ (t.inst i).f INST.STATE = 2 ∧
    (t.vinstAt i).quiesceAt = some s.mono ∧ t.rd VIRT_CMD_STAT.RESULT = 0) ∧
  (∀ (m : Nat) (data : Word) (i : Nat) (s : State), Instr.wellFormed (.virtResume m data) → s.takesCmd m 4 → s.rd VIRT_CMD_STAT.BUSY = 0 →
    i = data.toNat % 4096 → (s.inst i).f INST.STATE = 3 → ∃ t, exec (.virtResume m data) s = .next t ∧ (t.inst i).f INST.STATE = 1 ∧
    t.rd VIRT_CMD_STAT.RESULT = 0) ∧
  (∀ (m : Nat) (data : Word) (i : Nat) (s : State), Instr.wellFormed (.virtReset m data) → s.takesCmd m 4 → s.rd VIRT_CMD_STAT.BUSY = 0 →
    i = data.toNat % 4096 → (s.inst i).f INST.STATE = 3 → ∃ t, exec (.virtReset m data) s = .next t ∧
    (t.inst i).f INST.GEN = ((s.inst i).f INST.GEN + 1) % 2 ^ 32 ∧ (s.instQps i).all (fun k => (t.qp k).f QP.STATE == 0) ∧
    t.rd VIRT_CMD_STAT.RESULT = 0) ∧
  (∀ (m : Nat) (data : Word) (i : Nat) (s : State), Instr.wellFormed (.virtRemove m data) → s.takesCmd m 4 → s.rd VIRT_CMD_STAT.BUSY = 0 →
    i = data.toNat % 4096 → (s.inst i).f INST.STATE = 3 → ∃ t, exec (.virtRemove m data) s = .next t ∧ (t.inst i).f INST.STATE = 0 ∧
    (s.instQps i).all (fun k => t.tablesAt (tabKey 3 0 k) == none) ∧ t.rd VIRT_CMD_STAT.RESULT = 0) ∧
  (∀ (inst : Nat) (s : State), Instr.wellFormed (.virtQuiesced inst) → (s.inst inst).f INST.STATE = 2 →
    (s.instQps inst).all (fun q => (s.qpxAt q).reads.isEmpty && (s.qpxAt q).wait.isNone) → ∃ t, exec (.virtQuiesced inst) s = .next t ∧
    (t.inst inst).f INST.STATE = 3 ∧ (t.regsAt (regKey 4 0x10)).getLsbD 16) ∧
  (∀ (inst : Nat) (q c : Nat) (r : TxRead) (s : State), Instr.wellFormed (.quiesceReadTimeout inst) → (s.inst inst).f INST.STATE = 2 →
    (s.vinstAt inst).quiesceAt = some c → s.since c 50000000 → s.ctoNs = none → s.instQps inst = [q] → (s.qpxAt q).reads = [r] →
    ∃ t, exec (.quiesceReadTimeout inst) s = .next t ∧ (t.qpxAt q).reads = [] ∧ (t.qpxAt q).late = (s.qpxAt q).late + 1) ∧
  (∀ (vf : Nat) (s : State), Instr.wellFormed (.vfFlr vf) → (s.pcieFnAt 0).vfEnable → vf ≤ (s.pcieFnAt 0).numVfs → (s.inst vf).f INST.STATE ≠ 0 →
    ∃ t, exec (.vfFlr vf) s = .next t ∧ t.pcieFnAt vf = {} ∧ (t.inst vf).f INST.GEN = ((s.inst vf).f INST.GEN + 1) % 2 ^ 32 ∧
    (t.regsAt (regKey 4 0x10)).getLsbD 18) ∧
  (∀ (enable : Bool) (num : Nat) (s : State), Instr.wellFormed (.vfEnableChange enable num) → ∃ t, exec (.vfEnableChange enable num) s = .next t ∧
    (t.pcieFnAt 0).vfEnable = enable ∧ (t.pcieFnAt 0).numVfs = min 63 num)

/-- The Fatal latch clears at main and standby power-on reset and by nothing else. A pulse of RESET_N below 100 ns changes nothing but what the step
sends; main power-on reset clears the latch; so does standby power-on reset, whether or not VBAT was there when VSB33 was lost; and no other command
clears it, from any state, nor does the time that passes with none waiting: RESET_N, PERST_N (a containment of cause 3) and every register write
among them. (15_start_up.md R517.) -/
def Obligations.FatalLatchClearsAtPowerOnOnly : Prop :=
  (∀ (i : Instr) (s t : State), i ≠ .mainPowerOnReset → i ≠ .standbyPowerOnReset → exec i s = .next t → s.fatalLatch = true → t.fatalLatch = true) ∧
  (∀ (s t : State), s.pending = [] → step s = .next t → s.fatalLatch = true → t.fatalLatch = true) ∧
  (∀ (s : State), ∃ t, exec .mainPowerOnReset s = .next t ∧ t.fatalLatch = false) ∧
  (∀ (vbat : Bool) (s : State), ∃ t u, exec (.vsb33Loss vbat) s = .next t ∧ exec .standbyPowerOnReset t = .next u ∧ u.fatalLatch = false) ∧
  (∀ (ns : Nat) (s : State), ns < 100 → ∃ t, exec (.resetNAssert ns) s = .next t ∧ s.onlyIn t [.emitted])

/-- Register writes that start something in the data path's blocks. CAGE_PWR_MAX_RAISE, MODULE_ACCESS, CALENDAR_SWITCH, XC_SWITCH, SEED_WRITE,
LPM_MEM_USE_WRITE, BUCKET_WRITE, QUEUE_FLUSH, SPD_CMD, GRANARY_REENABLE, FAB_SYS_ENABLE and FABRIC_LINK_RESTART. What they leave alone is stated in
LinkTraining, ModuleFaultsAndAccess, CalendarExchange, TcamAndShapers, MemoryStartAndModules and QueuesAndScheduling. (03_ports_and_framing.md R100,
03_ports_and_framing.md R113, 03_ports_and_framing.md R118, 05_forwarding_tables.md R177, 05_forwarding_tables.md R181, 06_pipelines.md R227,
07_buffers.md R280, 09_fabric.md R339, 09_fabric.md R356, 10_memory_controllers.md R391, 10_memory_controllers.md R414, 15_start_up.md R534.) -/
def Obligations.UnitRegisterWrites : Prop :=
  (∀ (m port : Nat) (data : Word) (c : Nat) (s : State), Instr.wellFormed (.cagePwrMaxRaise m port data) → s.takesWrite m (16 + port) →
    c = fieldOf data (PORT_CAGE_CTRL.PWR_MAX port).hi (PORT_CAGE_CTRL.PWR_MAX port).lo →
    fieldOf data (PORT_CAGE_CTRL.MANUAL port).hi (PORT_CAGE_CTRL.MANUAL port).lo = 0 → s.rd (PORT_CAGE_CTRL.MANUAL port) = 0 →
    s.rd (PORT_CAGE_STAT.STATE port) = 3 → s.rd (PORT_CAGE_CTRL.PWR_MAX port) < c → s.rd (PORT_CAGE_STAT.PWR_CLASS port) ≤ c + 1 →
    ∃ t, exec (.cagePwrMaxRaise m port data) s = .next t ∧ t.rd (PORT_CAGE_CTRL.PWR_MAX port) = c ∧ t.rd (PORT_CAGE_STAT.STATE port) = 7 ∧
    (t.cageXAt port).step = 5) ∧
  (∀ (m port : Nat) (data : Word) (s : State), Instr.wellFormed (.moduleAccess m port data) → s.takesCmd m (16 + port) →
    s.rd (PORT_MOD_CMD.BUSY port) = 0 → s.rd (PORT_CAGE_STAT.PRESENT port) = 1 →
    fieldOf data (PORT_MOD_CMD.WRITE port).hi (PORT_MOD_CMD.WRITE port).lo = 0 → ∃ t, exec (.moduleAccess m port data) s = .next t ∧
    t.rd (PORT_MOD_CMD.BUSY port) = 1 ∧ t.rd (PORT_MOD_CMD.ERR port) = 0) ∧
  (∀ (m group : Nat) (s : State), Instr.wellFormed (.calendarSwitch m group) → s.takesCmd m (64 + group) → (s.flxExAt group).step = 0 →
    ∃ t, exec (.calendarSwitch m group) s = .next t ∧ (t.flxExAt group).step = 1 ∧ (t.flxExAt group).at_ = s.mono ∧
    t.rd (FLX_CAL_CTRL.SWITCH group) = 1) ∧
  (∀ (m : Nat) (data : Word) (s : State), Instr.wellFormed (.xcSwitch m data) → s.takesCmd m 88 →
    fieldOf data XC_SWITCH.MODE.hi XC_SWITCH.MODE.lo = 1 → s.rd XC_STAT.PEND = 0 → s.tabIndices 88 0 = [] →
    ∃ t, exec (.xcSwitch m data) s = .next t ∧ t.rd XC_STAT.PEND = 1 ∧
    t.xcArm.map (fun x => x.group) = some (fieldOf data XC_SWITCH.GROUP.hi XC_SWITCH.GROUP.lo) ∧ t.rd XC_STAT.ERR_CODE = 0) ∧
  (∀ (m page off : Nat) (data : Word) (d : RegDecl) (s : State), Instr.wellFormed (.seedWrite m page off data) → s.takesWrite m page →
    (page, off) ∈ [(100, 0x220), (101, 0x244), (102, 0x230)] → s.seedFree page → declAt page off = some d →
    ∃ t, exec (.seedWrite m page off data) s = .next t ∧ t.reg page off = d.merge (s.reg page off) data) ∧
  (∀ (m off : Nat) (data : Word) (b : Nat) (s : State), Instr.wellFormed (.lpmMemUseWrite m off data) → s.takesWrite m 100 → off = 0x1000 + 4 * b →
    b < 64 → s.memUseOk b (data.toNat % 16) → ∃ t, exec (.lpmMemUseWrite m off data) s = .next t ∧ t.rd (LPM_MEM_USE.USE b) = data.toNat % 16) ∧
  (∀ (m bucket : Nat) (data : Word) (s : State), Instr.wellFormed (.bucketWrite m bucket data) → s.takesWrite m 112 → s.rd PIPE_DIST_CFG.AUTO = 0 →
    data.toNat % 32 < 16 → s.bucketPipe bucket ≠ data.toNat % 32 → s.bucketBusy bucket = false →
    ∃ t, exec (.bucketWrite m bucket data) s = .next t ∧ t.bucketPipe bucket = data.toNat % 32 ∧ t.bucketPendAt bucket = none) ∧
  (∀ (m : Nat) (data : Word) (s : State), Instr.wellFormed (.queueFlush m data) → s.takesCmd m 176 → s.rd QM_FLUSH.BUSY = 0 →
    ∃ t, exec (.queueFlush m data) s = .next t ∧ t.rd QM_FLUSH.BUSY = 1 ∧ t.flushing = some (data.toNat % 2 ^ 19, s.mono) ∧
    (t.qxAt (data.toNat % 2 ^ 19)).head = [] ∧ (t.qxAt (data.toNat % 2 ^ 19)).mid = [] ∧ (t.qxAt (data.toNat % 2 ^ 19)).tail = []) ∧
  (∀ (m ch : Nat) (data : Word) (s : State), Instr.wellFormed (.spdCmd m ch data) → s.takesCmd m (152 + ch) → s.rd (DDRC_SPD_CMD.BUSY ch) = 0 →
    ∃ t, exec (.spdCmd m ch data) s = .next t ∧ t.rd (DDRC_SPD_CMD.BUSY ch) = 1 ∧ t.rd (DDRC_SPD_CMD.ERR ch) = 0) ∧
  (∀ (m : Nat) (data : Word) (s : State), Instr.wellFormed (.granaryReenable m data) → s.takesWrite m 146 → data.getLsbD 31 → s.rd GRN_CFG.EN = 0 →
    s.rd GRN_STAT.STATE = 3 → ∃ t, exec (.granaryReenable m data) s = .next t ∧ t.rd GRN_CFG.EN = 1 ∧ t.rd GRN_STAT.STATE = 1 ∧ t.grnBy = m) ∧
  (∀ (m : Nat) (data : Word) (s : State), Instr.wellFormed (.fabSysEnable m data) → s.takesWrite m 240 → data.getLsbD 31 → s.rd FAB_SYS_CFG.EN = 0 →
    ∃ t, exec (.fabSysEnable m data) s = .next t ∧ t.rd FAB_SYS_CFG.EN = 1 ∧
    t.rd FAB_SYS_CFG.MAX_DEV = fieldOf data FAB_SYS_CFG.MAX_DEV.hi FAB_SYS_CFG.MAX_DEV.lo ∧
    t.rd FAB_STAT.EPOCH = (Config.freeValue s.fresh).toNat % 256) ∧
  (∀ (m link : Nat) (s : State), Instr.wellFormed (.fabricLinkRestart m link) → s.takesWrite m (244 + link / 12) → s.linkState link ≠ 0 →
    s.linkMayRun link → ∃ t, exec (.fabricLinkRestart m link) s = .next t ∧ t.linkState link = 1 ∧
    (t.rd (FLC_LINK_STAT.TX_GEN (link / 12) (link % 12)) = if s.rd (FLC_LINK_STAT.TX_GEN (link / 12) (link % 12)) = 255 then 1 else s.rd
      (FLC_LINK_STAT.TX_GEN (link / 12) (link % 12)) + 1) ∧ t.rd (FLC_LINK_STAT.RX_GEN (link / 12) (link % 12)) = 0)

/-- The state after reset has the invariant, and no command waits. (15_start_up.md R516.) -/
def Obligations.InvariantAtReset : Prop :=
  State.reset.Inv ∧ State.reset.pending = []

/-- The steps of a module's insertion. MODULE_INSERT, MODULE_RESET_RELEASE, MODULE_POLL, MODULE_READY and MODULE_DATAPATH_ACTIVATED carry a module from
its cage to a link. What they leave alone is stated in ModuleFaultsAndAccess. (15_start_up.md R530, 15_start_up.md R532, 03_ports_and_framing.md
R96, 03_ports_and_framing.md R98.) -/
def Obligations.ModuleInsertion : Prop :=
  (∀ (port : Nat) (s : State), Instr.wellFormed (.moduleInsert port) → s.rd (PORT_CAGE_STAT.PRESENT port) = 0 →
    s.rd (PORT_CAGE_CTRL.MANUAL port) = 0 → s.blkUpAt (16 + port) → ∃ t, exec (.moduleInsert port) s = .next t ∧
    t.rd (PORT_CAGE_STAT.PRESENT port) = 1 ∧ t.rd (PORT_CAGE_STAT.STATE port) = 1 ∧ (t.cageXAt port).step = 2 ∧ (t.cageXAt port).stepAt = s.mono) ∧
  (∀ (port : Nat) (s : State), Instr.wellFormed (.moduleResetRelease port) → (s.cageXAt port).step = 2 → s.since (s.cageXAt port).stepAt 10000000 →
    ∃ t, exec (.moduleResetRelease port) s = .next t ∧ (t.cageXAt port).step = 3 ∧
    t.emitted = [.pin ("MOD_RESET_N" ++ toString port) true, .pin ("MOD_LPMODE" ++ toString port) true]) ∧
  (∀ (port : Nat) (ack lowPwr : Bool) (ident rev pwrClass : Nat) (copper : Bool) (apps : List Nat) (dpMs : Nat) (s : State),
    Instr.wellFormed (.modulePoll port ack lowPwr ident rev pwrClass copper apps dpMs) → (s.cageXAt port).step = 3 → ack → lowPwr → 0x40 ≤ rev →
    rev ≤ 0x5F → pwrClass ≤ s.rd (PORT_CAGE_CTRL.PWR_MAX port) + 1 →
    ∃ t, exec (.modulePoll port ack lowPwr ident rev pwrClass copper apps dpMs) s = .next t ∧ t.rd (PORT_CAGE_STAT.IDENT port) = ident ∧
    t.rd (PORT_CAGE_STAT.CMIS_REV port) = rev ∧ t.rd (PORT_CAGE_STAT.PWR_CLASS port) = pwrClass ∧ t.rd (PORT_CAGE_STAT.STATE port) = 7 ∧
    (t.cageXAt port).step = 5 ∧ (t.cageXAt port).apps = apps ∧ .moduleRead port 0 0 128 ∈ t.emitted) ∧
  (∀ (port : Nat) (ack : Bool) (k : Nat) (s : State), Instr.wellFormed (.moduleReady port ack) → (s.cageXAt port).step = 5 → ack →
    indexWhere (fun a => a == 16 * s.cfg (PORT_MODE.MODE port) + modeLanes (s.cfg (PORT_MODE.MODE port))) (s.cageXAt port).apps 0 = some k →
    k < 15 → ∃ t, exec (.moduleReady port ack) s = .next t ∧ t.rd (PORT_CAGE_STAT.APPSEL port) = k + 1 ∧ (t.cageXAt port).step = 6) ∧
  (∀ (port : Nat) (s : State), Instr.wellFormed (.moduleDatapathActivated port) → (s.cageXAt port).step = 6 →
    ∃ t, exec (.moduleDatapathActivated port) s = .next t ∧ t.rd (PORT_CAGE_STAT.STATE port) = 2 ∧ (t.cageXAt port).step = 7)

/-- The SLOT_ID latch takes the pins after main power-on reset and is kept at RESET_N. Main power-on reset leaves the latch due, and the end of stage
POWER that follows takes the pins into DEV_SLOT and FAB_DEV_ID; RESET_N leaves it neither changed nor due, and the stages after it take nothing.
(15_start_up.md R518.) -/
def Obligations.SlotLatchTakenAtMainPowerOn : Prop :=
  (∀ (s : State), ∃ t, exec .mainPowerOnReset s = .next t ∧ t.latchDue = true) ∧
  (∀ (ok : Bool) (defects : List Nat) (s : State), Instr.wellFormed (.stageAdvance ok defects) → s.coldT0.isSome → s.rd DEV_STAT.STAGE = 0 →
    s.stopped = false → s.slotPins < 1024 → ∃ t, exec (.stageAdvance ok defects) s = .next t ∧ t.latchDue = false ∧
    (t.rd DEV_SLOT.LATCHED = if s.latchDue then s.slotPins else s.rd DEV_SLOT.LATCHED) ∧
    (t.rd FAB_DEV_ID.ID = if s.latchDue then s.slotPins else s.rd FAB_DEV_ID.ID)) ∧
  (∀ (ns : Nat) (s : State), Instr.wellFormed (.resetNAssert ns) → 1000 ≤ ns → ∃ t, exec (.resetNAssert ns) s = .next t ∧ t.latchDue = s.latchDue ∧
    t.rd DEV_SLOT.LATCHED = s.rd DEV_SLOT.LATCHED ∧ t.rd FAB_DEV_ID.ID = s.rd FAB_DEV_ID.ID)

/-- Blocks are enabled, frozen, reset and committed. BLK_ENABLE, BLK_DISABLE, BLOCK_DRAINED, FREEZE, SOFT_RESET, SOFT_RESET_DONE, BLK_INT_CLEAR,
BLK_INT_FORCE, ERRCAP_CLEAR, COMMIT and COMMIT_TAKEN. What they leave alone is stated in TableWindow and JournalWrites. (02_register_pages.md R55,
02_register_pages.md R56, 02_register_pages.md R57, 02_register_pages.md R58, 02_register_pages.md R59, 02_register_pages.md R60,
02_register_pages.md R64, 02_register_pages.md R67, 02_register_pages.md R68.) -/
def Obligations.BlockControl : Prop :=
  (∀ (m page : Nat) (data : Word) (s : State), Instr.wellFormed (.blkEnable m page data) → s.takesWrite m page → isController m →
    s.rd (BLK_CTRL.ENABLE page) = 0 → fieldOf data 2 1 = 0 → ∃ t, exec (.blkEnable m page data) s = .next t ∧ t.rd (BLK_CTRL.ENABLE page) = 1) ∧
  (∀ (m page : Nat) (data : Word) (s : State), Instr.wellFormed (.blkEnable m page data) → s.takesWrite m page → isController m →
    s.rd (BLK_CTRL.ENABLE page) = 0 → fieldOf data 2 1 = 0 → (page < 16 ∨ 88 ≤ page ∧ page < 100 ∨ 100 < page ∧ page < 148 ∨ 168 ≤ page) →
    ∃ t, exec (.blkEnable m page data) s = .next t ∧ t.reg page 8 = BitVec.ofNat 32 (fieldOf data 3 3 * 8 + fieldOf (s.reg page 8) 1 1 * 2 + 1)) ∧
  (∀ (m page : Nat) (data : Word) (s : State), Instr.wellFormed (.blkDisable m page data) → s.takesCmd m page → isController m →
    fieldOf data 2 1 = 0 → (page < 16 ∨ 64 ≤ page) → ∃ t, exec (.blkDisable m page data) s = .next t ∧ t.rd (BLK_CTRL.ENABLE page) = 0 ∧
    t.rd (BLK_STAT.IDLE page) = 0) ∧
  (∀ (m page : Nat) (data : Word) (s : State), Instr.wellFormed (.blkDisable m page data) → s.takesCmd m page → isController m →
    fieldOf data 2 1 = 0 → 16 ≤ page → page < 64 → ∃ t, exec (.blkDisable m page data) s = .next t ∧ t.rd (BLK_CTRL.ENABLE page) = 0 ∧
    t.rd (BLK_STAT.IDLE page) = 0) ∧
  (∀ (page : Nat) (s : State), Instr.wellFormed (.blockDrained page) → s.rd (BLK_CTRL.ENABLE page) = 0 → page ≠ 100 →
    ∃ t, exec (.blockDrained page) s = .next t ∧ t.rd (BLK_STAT.IDLE page) = 1) ∧
  (∀ (m page : Nat) (data : Word) (s : State), Instr.wellFormed (.freeze m page data) → s.takesWrite m page → fieldOf data 2 0 = 4 →
    s.rd (BLK_CTRL.ENABLE page) = 0 → s.rd (BLK_CTRL.FREEZE page) = 0 → ∃ t, exec (.freeze m page data) s = .next t ∧
    t.rd (BLK_CTRL.FREEZE page) = 1 ∧ (page ≠ 6 → t.frozenAt (regKey page 0x00C) = s.live page 0x00C)) ∧
  (∀ (m page : Nat) (data : Word) (s : State), Instr.wellFormed (.softReset m page data) → s.takesWrite m page → isController m →
    s.rd (BLK_CTRL.ENABLE page) = 0 → fieldOf data 2 0 = 2 → ∃ t, exec (.softReset m page data) s = .next t ∧
    t.rd (BLK_CTRL.SOFT_RESET page) = 1 ∧ t.rd (BLK_CTRL.ENABLE page) = 0) ∧
  (∀ (page : Nat) (s : State), Instr.wellFormed (.softResetDone page) → s.rd (BLK_CTRL.SOFT_RESET page) = 1 → pagesWith page = [page] →
    s.rd (TBL_STAT.BUSY page) = 0 → page ∈ [6, 7, 9, 12, 13, 144] → ∃ t, exec (.softResetDone page) s = .next t ∧
    t.reg page 8 = s.afterReset (regKey page 8) ∧ t.rd (BLK_STAT.IDLE page) = 1) ∧
  (∀ (m page : Nat) (data hw : Word) (s : State), Instr.wellFormed (.blkIntClear m page data hw) → s.takesWrite m page → s.blkUpAt page →
    ∃ t, exec (.blkIntClear m page data hw) s = .next t ∧
    t.reg page 0x10 = (s.reg page 0x10 &&& ~~~ (data &&& ~~~ hw &&& 0xFFFF000F)) ||| (hw &&& 0xFFFF000F)) ∧
  (∀ (m page : Nat) (data : Word) (s : State), Instr.wellFormed (.blkIntForce m page data) → s.takesWrite m page →
    ∃ t, exec (.blkIntForce m page data) s = .next t ∧ t.reg page 0x10 = s.reg page 0x10 ||| (data &&& 0xFFFF000F)) ∧
  (∀ (m page : Nat) (data : Word) (s : State), Instr.wellFormed (.errcapClear m page data) → s.takesWrite m page → data.getLsbD 0 →
    (declAt page 0x3C).isSome → ∃ t, exec (.errcapClear m page data) s = .next t ∧ t.rd (ERRCAP_CTRL.VALID page) = 0 ∧
    t.rd (ERRCAP_CTRL.MORE page) = 0) ∧
  (∀ (m page : Nat) (data : Word) (s : State), Instr.wellFormed (.commit m page data) → s.takesWrite m page →
    s.rd (BLK_COMMIT_STAT.PENDING page) = 0 → s.rd (BLK_CTRL.FREEZE page) = 0 → (declAt page 0x40).isSome → s.dirtyAt page = [] →
    page ∈ [5, 6, 7, 9, 13, 88, 104, 144] → ∃ t, exec (.commit m page data) s = .next t ∧ t.rd (BLK_COMMIT_STAT.PENDING page) = 1 ∧
    t.rd (BLK_COMMIT_STAT.DONE page) = 0 ∧ t.rd (BLK_COMMIT_STAT.TAG page) = fieldOf data 31 16 ∧
    (shadowOffs page).all (fun o => t.unitsAt (regKey page o) == s.reg page o) ∧ t.dirtyAt page = []) ∧
  (∀ (m : Nat) (data : Word) (s : State), Instr.wellFormed (.commit m 12 data) → s.takesWrite m 12 → s.rd (BLK_COMMIT_STAT.PENDING 12) = 0 →
    s.rd (BLK_CTRL.FREEZE 12) = 0 → s.dirtyAt 12 = [] → ∃ t, exec (.commit m 12 data) s = .next t ∧
    t.rd (BLK_COMMIT_STAT.TAG 12) = fieldOf data 31 16 ∧ (shadowOffs 12).all (fun o => t.unitsAt (regKey 12 o) == s.reg 12 o) ∧ t.dirtyAt 12 = []) ∧
  (∀ (page : Nat) (s : State), Instr.wellFormed (.commitTaken page) → s.rd (BLK_COMMIT_STAT.PENDING page) = 1 → s.commitLateAt page = false →
    (page < 16 ∨ 64 ≤ page) → ∃ t, exec (.commitTaken page) s = .next t ∧ t.rd (BLK_COMMIT_STAT.PENDING page) = 0 ∧
    t.rd (BLK_COMMIT_STAT.DONE page) = 1 ∧ (t.regsAt (regKey page 0x10)).getLsbD 2) ∧
  (∀ (page : Nat) (s : State), Instr.wellFormed (.commitTaken page) → 16 ≤ page → page < 64 → s.rd (BLK_COMMIT_STAT.PENDING page) = 1 →
    s.commitLateAt page = false → ∃ t, exec (.commitTaken page) s = .next t ∧ t.rd (BLK_COMMIT_STAT.PENDING page) = 0 ∧
    t.rd (BLK_COMMIT_STAT.DONE page) = 1 ∧ (t.regsAt (regKey page 0x10)).getLsbD 2)

/-- Reading LO latches HI for the reader, whose next read of HI returns it. Reads of registers outside the table command window, of a page that is up
and declared, by a master that reaches it and whose writes do not wait. Reading LO answers LO and latches HI for that master and page alone; that
master's next read of HI answers the latched value and ends the latch; a read of HI with no latch pending answers the live value. Latches of every
other master and page are unchanged. (02_register_pages.md R44.) -/
def Obligations.LoHiLatchOfEachMaster : Prop :=
  (∀ (m page : Nat) (off : Nat) (hi : Nat) (s : State), Instr.wellFormed (.loReadLatch m page (off,1)) → s.serves m page → (m = 0 ∧
    page < 1024 ∨ 64 ≤ m) → (off < 0x100 ∨ 0x200 ≤ off) → (declAt page off).isSome → latchesOf page off = [hi] →
    (s.hiLatchAt (pairKey m page)).all (fun x => x.1 != off) → ∃ t, exec (.loReadLatch m page (off,1)) s = .next t ∧
    .readData m page off (s.shows page off).toNat false ∈ t.emitted ∧ t.hiLatchAt (pairKey m page) = [(hi, s.shows page hi)] ∧
    (∀ k, k ≠ pairKey m page → t.hiLatchAt k = s.hiLatchAt k) ∧ s.framed t [.hiLatch, .emitted, .dieTx, .dieRx] [] []) ∧
  (∀ (m page : Nat) (off : Nat) (w : Word) (s : State), Instr.wellFormed (.loReadLatch m page (off,1)) → s.serves m page → (m = 0 ∧
    page < 1024 ∨ 64 ≤ m) → (off < 0x100 ∨ 0x200 ≤ off) → s.hiLatchAt (pairKey m page) = [(off, w)] →
    ∃ t, exec (.loReadLatch m page (off,1)) s = .next t ∧ .readData m page off w.toNat false ∈ t.emitted ∧ t.hiLatchAt (pairKey m page) = [] ∧
    (∀ k, k ≠ pairKey m page → t.hiLatchAt k = s.hiLatchAt k) ∧ s.framed t [.hiLatch, .emitted, .dieTx, .dieRx] [] []) ∧
  (∀ (m page : Nat) (off : Nat) (s : State), Instr.wellFormed (.loReadLatch m page (off,1)) → s.serves m page → (m = 0 ∧ page < 1024 ∨ 64 ≤ m) →
    (off < 0x100 ∨ 0x200 ≤ off) → (declAt page off).isSome → latchesOf page off = [] → s.hiLatchAt (pairKey m page) = [] →
    ∃ t, exec (.loReadLatch m page (off,1)) s = .next t ∧ .readData m page off (s.shows page off).toNat false ∈ t.emitted ∧
    s.framed t [.emitted, .dieTx, .dieRx] [] [])

/-- The update's commands. The operations of UPD_CMD, which PF0 and the main core may send while none runs and no power fails; the store has no record
waiting. What they leave alone is stated in RestartAndStore. (19_update_and_store.md R629, 19_update_and_store.md R630, 19_update_and_store.md R631,
19_update_and_store.md R633, 19_update_and_store.md R635, 19_update_and_store.md R637.) -/
def Obligations.UpdateCommands : Prop :=
  (∀ (m : Nat) (data : Word) (s : State), Instr.wellFormed (.updNop m data) → s.takesCmd m 8 → (m = 0 ∨ m = 0x2000) → s.updOp = none →
    ∃ t, exec (.updNop m data) s = .next t ∧ t.updOp = some { op := 0 } ∧ t.rd UPD_CMD_STAT.BUSY = 1 ∧ t.rd UPD_CMD_STAT.DONE = 0) ∧
  (∀ (m : Nat) (data : Word) (k : Nat) (s : State), Instr.wellFormed (.updBegin m data) → s.takesCmd m 8 → (m = 0 ∨ m = 0x2000) → s.updOp = none →
    s.rd DEV_STAT.PF_WARN = 0 → s.rd DEV_STAT.RECOVERY = 0 → s.storeQ = [] → (s.ctl.slot s.ctl.boot).st ≠ 4 → k = fieldOf data 15 0 → 0 < k →
    k ≤ 32768 → ∃ t, exec (.updBegin m data) s = .next t ∧
    t.storeQ = [.control (s.ctl.setSlot (1 - s.ctl.boot % 2) { st := 1, total := k }) 0 (3 + (1 - s.ctl.boot % 2))] ∧
    t.updOp = some { op := 1, waits := true } ∧ t.rd UPD_DL_STAT.TOTAL = k ∧ t.rd UPD_DL_STAT.RECEIVED = 0) ∧
  (∀ (m : Nat) (data : Word) (bytes : List Byte) (badReads : Nat) (k off len : Nat) (s : State),
    Instr.wellFormed (.updBlock m data bytes badReads) → s.takesCmd m 8 → (m = 0 ∨ m = 0x2000) → s.updOp = none → s.rd DEV_STAT.PF_WARN = 0 →
    s.writeRefused m 8 0x200 (withOp 2 data).toNat = false → k = s.updTarget (withOp 2 data) → off = s.rd UPD_DL_BLOCK.OFFSET_4K →
    len = s.rd UPD_DL_BLOCK.LEN_4K → (s.ctlNext.slot k).st = 1 → len = 1 → off ≠ 0 → off + len < (s.ctlNext.slot k).total →
    s.imgUnitAt (k * 32768) ≠ [] → s.imgUnitAt (k * 32768 + off) = [] → s.dmaOn 0 → bytes.length = 4096 * len → badReads < 2 →
    s.rd UPD_DL_STAT.RECEIVED + len < (s.ctlNext.slot k).total → (s.ctlNext.slot k).total ≤ 32768 →
    ∃ t, exec (.updBlock m data bytes badReads) s = .next t ∧ t.imgUnitAt (k * 32768 + off) = bytes ∧
    t.rd UPD_DL_STAT.RECEIVED = s.rd UPD_DL_STAT.RECEIVED + len ∧ t.updOp = some { op := 2 }) ∧
  (∀ (m : Nat) (data : Word) (k : Nat) (s : State), Instr.wellFormed (.updVerify m data) → s.takesCmd m 8 → (m = 0 ∨ m = 0x2000) → s.updOp = none →
    s.rd DEV_STAT.PF_WARN = 0 → s.storeQ = [] → k = s.updTarget data → (s.ctl.slot k).st = 2 → ∃ t, exec (.updVerify m data) s = .next t ∧
    (t.updOp = some { op := 3, result := if s.verifyReason k = 0 then 0 else 3, waits := true }) ∧
    (t.storeQ = [.control (s.ctl.setSlot k (if s.verifyReason k = 0 then { s.ctl.slot k with st := 3 } else {})) 0 0])) ∧
  (∀ (m : Nat) (data : Word) (k : Nat) (s : State), Instr.wellFormed (.updActivate m data) → s.takesCmd m 8 → (m = 0 ∨ m = 0x2000) →
    s.updOp = none → s.rd DEV_STAT.PF_WARN = 0 → s.storeQ = [] → k = s.updTarget data → (s.ctl.slot k).st = 3 → (s.ctl.slot k).type ≠ 3 →
    ∃ t, exec (.updActivate m data) s = .next t ∧
    (t.storeQ = [.control ({ s.ctl with boot := k, fallback := s.ctl.boot }.setSlot k { s.ctl.slot k with st := 4, tries := 3 }) (2 ^ 18) (if
      (s.ctl.slot k).type = 1 then 1 else 2)]) ∧ t.updOp = some { op := 4, waits := true }) ∧
  (∀ (m : Nat) (data : Word) (s : State), Instr.wellFormed (.updConfirm m data) → s.takesCmd m 8 → (m = 0 ∨ m = 0x2000) → s.updOp = none →
    s.rd DEV_STAT.PF_WARN = 0 → s.storeQ = [] → (s.ctl.slot s.ctl.boot).st = 4 → s.roll = none → ∃ t, exec (.updConfirm m data) s = .next t ∧
    t.updOp = some { op := 5, waits := true } ∧ t.storeQ.length = 1 ∧ (t.ctlNext.slot s.ctl.boot).st = 5) ∧
  (∀ (m : Nat) (data : Word) (s : State), Instr.wellFormed (.updRevert m data) → s.takesCmd m 8 → (m = 0 ∨ m = 0x2000) → s.updOp = none →
    s.rd DEV_STAT.PF_WARN = 0 → s.storeQ = [] → s.ctl.boot = 1 → s.ctl.fallback = 0 → (s.ctl.slot 1).st = 4 → (s.ctl.slot 1).type = 2 →
    (s.ctl.slot 0).st = 5 → ∃ t, exec (.updRevert m data) s = .next t ∧
    t.storeQ = [.control ({ s.ctl with boot := 0 }.setSlot 1 { s.ctl.slot 1 with st := 6, tries := 0 }) (2 ^ 19) 2] ∧
    t.updOp = some { op := 6, waits := true } ∧ t.confirmEnd = s.confirmEnd)

/-- No command changes the queue, and none but the resets and a cold start changes MONO. MONO starts at 0 at power-on reset and advances with the time
base (an empty queue's step, the model's choice of log entry 7); steps and slews of the time, and every other command, leave it. (11_time.md R417.) -/
def Obligations.QueueAndMonoKept : Prop :=
  (∀ (i : Instr) (s t : State), exec i s = .next t → t.pending = s.pending) ∧
  (∀ (i : Instr) (s t : State), i ≠ .mainPowerOnReset → i ≠ .standbyPowerOnReset → (∀ ns, i ≠ .resetNAssert ns) → (∀ k, i ≠ .coldStart k) →
    exec i s = .next t → t.mono16 = s.mono16)

/-- Packets pass the pipelines and frames leave the ports. INGRESS_PASS, RECIRC_PASS, EGRESS_PASS, TX_SEQ_RELEASE, TX_GAP_TIMEOUT and FRAME_TRANSMIT.
What they leave alone is stated in Learning. (04_parsing_and_classification.md R133, 06_pipelines.md R222, 06_pipelines.md R233, 06_pipelines.md
R234, 06_pipelines.md R239, 06_pipelines.md R243.) -/
def Obligations.PipelinePasses : Prop :=
  (∀ (pipe : Nat) (flips : List (Nat × Nat)) (ctrs : List Nat) (p : Pkt) (r : List Pkt) (s : State),
    Instr.wellFormed (.ingressPass pipe flips ctrs) → s.pipeActive pipe → s.leaving clsPipe pipe = false → s.recircTurn pipe = false →
    s.inQAt (s.unit clsPipe pipe UNIT.LOGICAL) = p :: r → ∃ t, exec (.ingressPass pipe flips ctrs) s = .next t ∧
    t.inQAt (s.unit clsPipe pipe UNIT.LOGICAL) = r ∧
    ((t.slotXAt pipe).1 = (if s.slotCap ≤ (s.slotXAt pipe).1 then 0 else (s.slotXAt pipe).1) + 1)) ∧
  (∀ (pipe : Nat) (p : Pkt) (r : List Pkt) (s : State), Instr.wellFormed (.ingressPass pipe [] []) → s.fatalLatch → s.pipeActive pipe →
    s.leaving clsPipe pipe = false → s.recircTurn pipe = false → s.inQAt (s.unit clsPipe pipe UNIT.LOGICAL) = p :: r →
    1 < (s.bodiesAt p.body).refs → ∃ t, exec (.ingressPass pipe [] []) s = .next t ∧ t.inQAt (s.unit clsPipe pipe UNIT.LOGICAL) = r ∧
    (t.bodiesAt p.body).refs = (s.bodiesAt p.body).refs - 1) ∧
  (∀ (pipe : Nat) (flips : List (Nat × Nat)) (p : Pkt) (k : Look) (r : List (Pkt × Look)) (s : State), Instr.wellFormed (.recircPass pipe flips) →
    s.pipeActive pipe → s.recircTurn pipe → s.recQAt pipe = (p, k) :: r → ∃ t, exec (.recircPass pipe flips) s = .next t ∧
    (t.recQAt pipe = r ∨ (t.recQAt pipe).dropLast = r) ∧
    ((t.slotXAt pipe).2 = (if s.slotCap ≤ (s.slotXAt pipe).1 ∨ s.recircShare ≤ (s.slotXAt pipe).2 then 0 else (s.slotXAt pipe).2) + 1)) ∧
  (∀ (pipe : Nat) (flips : List (Nat × Nat)) (p : Pkt) (r : List Pkt) (s : State), Instr.wellFormed (.egressPass pipe flips) → s.pipeActive pipe →
    s.egQAt pipe = p :: r → (s.egView p).ready → (s.txHoldAt p.dport).length < 256 → ∃ t, exec (.egressPass pipe flips) s = .next t ∧
    t.egQAt pipe = r) ∧
  (∀ (port : Nat) (p : Pkt) (s : State), Instr.wellFormed (.txSeqRelease port) → s.txHoldAt port = [p] → p.txSeq = s.txExpAt port → p.kind ≠ 5 →
    ∃ t, exec (.txSeqRelease port) s = .next t ∧ t.txHoldAt port = [] ∧ t.macQAt port = s.macQAt port ++ [p] ∧
    t.txExpAt port = (s.txExpAt port + 1) % 65536) ∧
  (∀ (port : Nat) (p : Pkt) (s : State), Instr.wellFormed (.txGapTimeout port) → s.txHoldAt port = [p] → seqAfter p.txSeq (s.txExpAt port) →
    s.since p.stamp 4000 → ∃ t, exec (.txGapTimeout port) s = .next t ∧ t.txExpAt port = p.txSeq ∧
    t.counter 0 (128 * port + 23) = (s.counter 0 (128 * port + 23) + 1) % 2 ^ 64 ∧ (t.regsAt (regKey 112 0x10)).getLsbD 18) ∧
  (∀ (port : Nat) (underrun : Bool) (p : Pkt) (r : List Pkt) (b : List Nat) (s : State), Instr.wellFormed (.frameTransmit port underrun) →
    s.rd (PORT_STAT.LINK_UP port) = 1 → s.fatalLatch = false → s.txNowAt port = none → s.macQAt port = p :: r → (s.bodiesAt p.body).whole →
    (s.bodiesAt p.body).tail = 0 → bitOf (s.gateStates port s.ns64) (p.queue % 8) →
    b = (s.ptpSend port (s.stamped p) (s.pktBytes (s.stamped p))).1 → ∃ t, exec (.frameTransmit port underrun) s = .next t ∧ t.macQAt port = r ∧
    t.txNowAt port = none ∧ .frame port (asBytes (withFcs (b ++ List.replicate (60 - b.length) 0))) false ∈ t.emitted)

/-- What the state holds after reset, where the specification gives it. MONO is 0, the Fatal latch is clear, and registers of the classes, links, queues
and services read the reset values of their tables. No word spells a command: the command table gives its rows no bits. (15_start_up.md R516,
11_time.md R417, 05_forwarding_tables.md, 06_pipelines.md, 07_buffers.md, 09_fabric.md, 13_host_interface.md, 16_repair_and_redundancy.md,
17_faults.md, 19_update_and_store.md, 20_presence_seal_journal.md, 21_electrical_and_package.md.) -/
def Obligations.RegistersAfterReset : Prop :=
  State.reset.mono16 = 0 ∧ State.reset.fatalLatch = false ∧ State.reset.rd PPR_CFG.WINDOW_S = 60 ∧ State.reset.rd RPR_CFG.ROT_MIN = 10 ∧
    State.reset.rd RPR_CFG.REVERT_HOLD_S = 600 ∧ State.reset.rd UPD_TRIAL_CFG.CONFIRM_S = 600 ∧ State.reset.rd BUF_STG_AGE.AGE_MS = 1000 ∧
    State.reset.rd PWR_CFG.ALERT_C = 98 ∧ State.reset.rd PIPE_DIST_CFG.IMBAL = 10 ∧ State.reset.rd PCIE_ASPM_CFG.L1_IDLE_US = 32 ∧
    State.reset.rd FAB_SYS_CFG.MAX_DEV = 1023 ∧ State.reset.rd CRY_CFG.LOG_MIN = 0 ∧ State.reset.rd CRY_CFG.FIRST_MIN = 2 ∧
    State.reset.rd LPM_CFG.MAX_PASS = 3 ∧ State.reset.rd MCR_MC_CFG.WINDOW_KIB = 16 ∧ State.reset.rd CNT_DUMP_MASK.FAMILY = 0x3FFFF ∧
    State.reset.rd DEV_STAT.STAGE = 1 ∧ State.reset.rd (PORT_MAC_CFG.MAX_FRAME 47) = 10240 ∧ (∀ nbits w, Sys2Proof.decodeTableWord nbits w = none)

/-- The repair controller's commands. The operations of RPR_CMD, which PF0, the main core and JTAG may send while none runs. What they leave alone is
stated in UnitsDeclaredAndTaken. (16_repair_and_redundancy.md R551, 16_repair_and_redundancy.md R556, 16_repair_and_redundancy.md R565,
16_repair_and_redundancy.md R567, 20_presence_seal_journal.md R641.) -/
def Obligations.RepairCommands : Prop :=
  (∀ (m : Nat) (data : Word) (s : State), Instr.wellFormed (.rprNop m data) → s.takesCmd m 9 → isManager m → s.rd RPR_CMD_STAT.BUSY = 0 →
    ∃ t, exec (.rprNop m data) s = .next t ∧ t.rd RPR_CMD_STAT.BUSY = 0 ∧ t.rd RPR_CMD_STAT.DONE = 1 ∧ t.rd RPR_CMD_STAT.RESULT = 0) ∧
  (∀ (m : Nat) (data : Word) (c u : Nat) (s : State), Instr.wellFormed (.rprHandover m data) → s.takesCmd m 9 → isManager m →
    s.rd RPR_CMD_STAT.BUSY = 0 → c = fieldOf data 10 8 → u = fieldOf data 6 0 → c ≤ 5 → u < classUnits c → s.role c u = 1 → s.recovAt c = [] →
    s.spares c ≠ [] → ∃ t, exec (.rprHandover m data) s = .next t ∧
    t.recovAt c = [{ logical := s.unit c u UNIT.LOGICAL, old := u, at_ := s.mono, fault := false, after := 1, cmd := true }] ∧
    t.rd RPR_CMD_STAT.BUSY = 1) ∧
  (∀ (m : Nat) (data : Word) (c u : Nat) (s : State), Instr.wellFormed (.rprTest m data) → s.takesCmd m 9 → isManager m →
    s.rd RPR_CMD_STAT.BUSY = 0 → c = fieldOf data 10 8 → u = fieldOf data 6 0 → c < 5 → u < classUnits c → s.role c u = 1 → s.recovAt c = [] →
    s.spares c ≠ [] → ∃ t, exec (.rprTest m data) s = .next t ∧
    t.recovAt c = [{ logical := s.unit c u UNIT.LOGICAL, old := u, at_ := s.mono, fault := false, after := 2, cmd := true }] ∧
    t.rd RPR_CMD_STAT.BUSY = 1) ∧
  (∀ (m : Nat) (data : Word) (c u : Nat) (s : State), Instr.wellFormed (.rprRetire m data) → s.takesCmd m 9 → isManager m →
    s.rd RPR_CMD_STAT.BUSY = 0 → c = fieldOf data 10 8 → u = fieldOf data 6 0 → c ≤ 2 → u < classUnits c → s.role c u = 2 → s.recovAt c = [] →
    ∃ t, exec (.rprRetire m data) s = .next t ∧ t.role c u = 5 ∧ t.rd RPR_CMD_STAT.RESULT = 0 ∧ t.rd RPR_CMD_STAT.DONE = 1) ∧
  (∀ (m : Nat) (data : Word) (c u : Nat) (s : State), Instr.wellFormed (.rprUnretire m data) → s.takesCmd m 9 → isManager m →
    s.rd RPR_CMD_STAT.BUSY = 0 → c = fieldOf data 10 8 → u = fieldOf data 6 0 → c ≤ 2 → u < classUnits c → s.role c u = 5 →
    s.gateResult false = 0 → s.jnlAwait < 61430 → ∃ t, exec (.rprUnretire m data) s = .next t ∧ t.role c u = 3 ∧
    (t.unitXAt (unitKey c u)).test = 1 ∧ t.rd RPR_CMD_STAT.RESULT = 0) ∧
  (∀ (m : Nat) (data : Word) (c u : Nat) (r : Recov) (s : State), Instr.wellFormed (.rprRevert m data) → s.takesCmd m 9 → isManager m →
    s.rd RPR_CMD_STAT.BUSY = 0 → c = fieldOf data 10 8 → u = fieldOf data 6 0 → c ≤ 5 → u < classUnits c → s.revertOf c u = some r →
    ∃ t, exec (.rprRevert m data) s = .next t ∧ t.recovAt c = [{ r with cmd := true }] ∧ t.rd RPR_CMD_STAT.BUSY = 1)

/-- Overhead blocks of a FlexE member. OVERHEAD_BLOCK_RECEIVE on a member without LOS, LOL or high BER. (03_ports_and_framing.md R107,
03_ports_and_framing.md R108, 03_ports_and_framing.md R127.) -/
def Obligations.FlexeReceive : Prop :=
  (∀ (port inst pos : Nat) (crcOk omf c cr ca rpf : Bool) (groupNum phyNum slotA slotB : Nat) (sync type ocode : Nat) (g k : Nat) (r : List Nat) (s
      : State), Instr.wellFormed (.overheadBlockReceive port inst pos (sync,type,ocode) crcOk omf c cr ca rpf groupNum phyNum slotA slotB) →
    s.flxMember port = some (g, k) → s.rd (PORT_STAT.LOS port) = 0 → s.rd (PORT_STAT.LOL port) = 0 → s.rd (PORT_STAT.HI_BER port) = 0 →
    inst < s.phyInsts g → (s.instXAt (4 * port + inst)).lock = false → (s.instXAt (4 * port + inst)).cands = (pos - ohFrame) :: r →
    ohFrame ≤ pos → sync = 2 → type = 0x4B → ocode = 5 → crcOk →
    ∃ t, exec (.overheadBlockReceive port inst pos (sync,type,ocode) crcOk omf c cr ca rpf groupNum phyNum slotA slotB) s = .next t ∧
    (t.instXAt (4 * port + inst)).lock ∧ (t.instXAt (4 * port + inst)).last = pos ∧ t.rd (FLX_CAL_CTRL.RX_C g) = b2n c ∧
    s.onlyIn t [[.regs, .instX, .flxEx, .pmX, .ohCrcBad, .rpfTx], linkPieces].flatten) ∧
  (∀ (port inst pos : Nat) (crcOk omf c cr ca rpf : Bool) (groupNum phyNum slotA slotB : Nat) (sync type ocode : Nat) (g k : Nat) (s : State),
    Instr.wellFormed (.overheadBlockReceive port inst pos (sync,type,ocode) crcOk omf c cr ca rpf groupNum phyNum slotA slotB) →
    s.flxMember port = some (g, k) → k < 8 → s.rd (PORT_STAT.LOS port) = 0 → s.rd (PORT_STAT.LOL port) = 0 → s.rd (PORT_STAT.HI_BER port) = 0 →
    inst < s.phyInsts g → (s.instXAt (4 * port + inst)).lock → (s.instXAt (4 * port + inst)).misses < 5 →
    pos = (s.instXAt (4 * port + inst)).last + ohFrame → sync = 2 → type = 0x4B → ocode = 5 → crcOk →
    ∃ t, exec (.overheadBlockReceive port inst pos (sync,type,ocode) crcOk omf c cr ca rpf groupNum phyNum slotA slotB) s = .next t ∧
    (t.instXAt (4 * port + inst)).lock ∧ (t.instXAt (4 * port + inst)).last = pos ∧ t.rd (FLX_CAL_CTRL.RX_C g) = b2n c ∧
    bitOf (t.rd (FLX_STAT.RPF_RX g)) k = rpf ∧ s.onlyIn t [[.regs, .instX, .flxEx, .pmX, .ohCrcBad, .rpfTx], linkPieces].flatten)

/-- Received and sent pause. PFC_FRAME_RECEIVE, PFC_PAUSE_EXPIRE and PFC_REFRESH. What they leave alone is stated in QueuesAndScheduling.
(03_ports_and_framing.md R91, 03_ports_and_framing.md R92, 03_ports_and_framing.md R93.) -/
def Obligations.PauseFrames : Prop :=
  (∀ (port : Nat) (frame : List Byte) (f : List Nat) (tc : Nat) (s : State), Instr.wellFormed (.pfcFrameReceive port frame) →
    f = frame.map BitVec.toNat → s.rd (PORT_STAT.LINK_UP port) = 1 → isPauseFrame f → 64 ≤ f.length → fcsOk f → (f.drop 14).take 2 = [0, 1] →
    s.cfg (PORT_MAC_CFG.PAUSE_MODE port) = 1 → tc < 8 → bitOf (s.cfg (PORT_PAUSE_CFG.RX_EN port)) tc →
    ∃ t, exec (.pfcFrameReceive port frame) s = .next t ∧
    (t.pauseUntilAt (8 * port + tc) = (if ofBytesBE ((f.drop 16).take 2) = 0 then none else some (s.mono + s.bitTimes port (ofBytesBE ((f.drop
      16).take 2) * 512)))) ∧ t.counter 0 (128 * port + 54) = (s.counter 0 (128 * port + 54) + 1) % 2 ^ 64) ∧
  (∀ (port : Nat) (frame : List Byte) (f : List Nat) (tc : Nat) (s : State), Instr.wellFormed (.pfcFrameReceive port frame) →
    f = frame.map BitVec.toNat → s.rd (PORT_STAT.LINK_UP port) = 1 → isPauseFrame f → 64 ≤ f.length → fcsOk f → (f.drop 14).take 2 = [1, 1] →
    s.cfg (PORT_MAC_CFG.PAUSE_MODE port) = 2 → tc < 8 → bitOf (f.getD 17 0) tc → bitOf (s.cfg (PORT_PAUSE_CFG.RX_EN port)) tc →
    ∃ t, exec (.pfcFrameReceive port frame) s = .next t ∧
    (t.pauseUntilAt (8 * port + tc) = (if ofBytesBE ((f.drop (18 + 2 * tc)).take 2) = 0 then none else some (s.mono + s.bitTimes port (ofBytesBE
      ((f.drop (18 + 2 * tc)).take 2) * 512))))) ∧
  (∀ (port tc : Nat) (e : Nat) (s : State), Instr.wellFormed (.pfcPauseExpire port tc) → s.pauseUntilAt (8 * port + tc) = some e → e ≤ s.mono →
    ∃ t, exec (.pfcPauseExpire port tc) s = .next t ∧ t.pauseUntilAt (8 * port + tc) = none) ∧
  (∀ (port : Nat) (a : Nat) (s : State), Instr.wellFormed (.pfcRefresh port) → s.pauseSentAtAt port = some a →
    s.xoffAt port &&& s.cfg (PORT_PAUSE_CFG.TX_EN port) ≠ 0 → s.since a (s.bitTimes port (s.cfg (PORT_PAUSE_CFG.QUANTA port) * 256)) →
    s.rd (PORT_STAT.LINK_UP port) = 1 → s.cfg (PORT_MAC_CFG.PAUSE_MODE port) = 2 → s.cfg (PORT_PAUSE_CFG.QUANTA port) ≠ 0 →
    s.txNowAt port = none → ∃ t, exec (.pfcRefresh port) s = .next t ∧ t.pauseSentAtAt port = some s.mono ∧
    t.emitted = [.frame port (asBytes (pfcFrame (s.xoffAt port &&& s.cfg (PORT_PAUSE_CFG.TX_EN port)) (s.cfg (PORT_PAUSE_CFG.QUANTA port))))
      false])

/-- The time base acquires, locks and holds over. TIME_SOURCE_MEASURE, PPS_IN_EDGE and HOLDOVER_ENTER. (11_time.md R423, 11_time.md R424, 11_time.md
R425.) -/
def Obligations.TimeSource : Prop :=
  (∀ (offset : Int) (present ref10m : Bool) (s : State), Instr.wellFormed (.timeSourceMeasure (present,ref10m) offset) →
    s.rd (BLK_CTRL.ENABLE 12) = 1 → present → s.timeSrc ≠ 0 → s.rd PTP_STAT.STATE = 1 → s.lockCount = 15 → -100 ≤ offset → offset ≤ 100 →
    ∃ t, exec (.timeSourceMeasure (present,ref10m) offset) s = .next t ∧ t.rd PTP_STAT.STATE = 2 ∧ t.rd PTP_STAT.TIME_VALID = 1 ∧
    t.rd PTP_STAT.SRC_IN_USE = s.timeSrc ∧ t.rd PTP_STAT.REF10M_OK = b2n ref10m ∧
    s.framed t [[.lockCount, .freqLog, .holdFreq], irqPieces].flatten [[PTP_OFFSET.reg, PTP_STAT.STATE, PTP_STAT.TIME_VALID, PTP_STAT.SRC_IN_USE,
      PTP_STAT.REF10M_OK], irqFlds 12 17].flatten []) ∧
  (∀ (offset : Int) (present ref10m : Bool) (s : State), Instr.wellFormed (.timeSourceMeasure (present,ref10m) offset) →
    s.rd (BLK_CTRL.ENABLE 12) = 1 → present = false → s.rd PTP_STAT.STATE = 2 →
    ∃ t, exec (.timeSourceMeasure (present,ref10m) offset) s = .next t ∧ t.rd PTP_STAT.STATE = 3 ∧ t.lockCount = 0 ∧
    t.rd PTP_STAT.REF10M_OK = b2n ref10m ∧ t.holdFreq = some (avgFreq s.freqLog s.mono 1000000000000 0) ∧
    s.framed t [[.lockCount, .holdFreq], irqPieces].flatten [[PTP_STAT.STATE, PTP_STAT.REF10M_OK], irqFlds 12 17].flatten []) ∧
  (∀ (falling : Bool) (s : State), Instr.wellFormed (.ppsInEdge falling) → s.rd (BLK_CTRL.ENABLE 12) = 1 → s.on PTP_SRC_CFG.PPS_IN_FALL = falling →
    ∃ t, exec (.ppsInEdge falling) s = .next t ∧
    t.rd PTP_PPS_IN_TS_LO.reg = (s.ns64 + 2 ^ 64 - s.cfg PTP_PPS_CFG.PPS_IN_DELAY_NS) % 2 ^ 64 % 2 ^ 32 ∧
    t.rd PTP_PPS_IN_TS_HI.reg = (s.ns64 + 2 ^ 64 - s.cfg PTP_PPS_CFG.PPS_IN_DELAY_NS) % 2 ^ 64 / 2 ^ 32 ∧ t.ppsLast = some s.mono ∧
    s.framed t [[.lockCount, .freqLog, .holdFreq, .ppsLast, .ppsGood, .ppsMissed, .todSec], irqPieces].flatten [[PTP_PPS_IN_TS_LO.reg,
      PTP_PPS_IN_TS_HI.reg, PTP_STAT.PPS_IN_OK, PTP_OFFSET.reg, PTP_STAT.STATE, PTP_STAT.TIME_VALID, PTP_STAT.SRC_IN_USE], irqFlds 12 17, irqFlds
      12 18].flatten []) ∧
  (∀ (s : State), Instr.wellFormed .holdoverEnter → 2 ≤ s.ppsMissed → s.rd PTP_STAT.STATE = 2 → ∃ t, exec (.holdoverEnter) s = .next t ∧
    t.rd PTP_STAT.STATE = 3 ∧ t.holdFreq = some (avgFreq s.freqLog s.mono 1000000000000 0) ∧
    s.framed t [[.lockCount, .holdFreq], irqPieces].flatten [[PTP_STAT.STATE], irqFlds 12 17].flatten [])

/-- The presence controller's commands. The operations of PPR_CMD; BREACH_ACK, RTC_SET and JTAG_UNLOCK need an open window. What they leave alone is
stated in PresenceAndSeal. (20_presence_seal_journal.md R640, 20_presence_seal_journal.md R641, 20_presence_seal_journal.md R642,
20_presence_seal_journal.md R643, 20_presence_seal_journal.md R653.) -/
def Obligations.PresenceCommands : Prop :=
  (∀ (m : Nat) (data : Word) (s : State), Instr.wellFormed (.pprNop m data) → s.takesCmd m 7 → isManager m → s.rd PPR_CMD_STAT.BUSY = 0 →
    ∃ t, exec (.pprNop m data) s = .next t ∧ t.rd PPR_CMD_STAT.RESULT = 0 ∧ t.rd PPR_CMD_STAT.DONE = 1 ∧ (t.regsAt (regKey 7 0x10)).getLsbD 20) ∧
  (∀ (m : Nat) (data : Word) (s : State), Instr.wellFormed (.pprBreachAck m data) → s.takesCmd m 7 → isManager m → s.rd PPR_CMD_STAT.BUSY = 0 →
    s.gateResult true = 0 → s.jnlAwait < 61430 → s.rd PPR_STAT.SEAL_OPEN = 0 → ∃ t, exec (.pprBreachAck m data) s = .next t ∧
    t.rd PPR_STAT.BREACH = 0 ∧ t.rd BKP_STAT.LOST = 0 ∧ t.rd PPR_CMD_STAT.RESULT = 0) ∧
  (∀ (m : Nat) (data : Word) (s : State), Instr.wellFormed (.pprRtcSet m data) → s.takesCmd m 7 → isManager m → s.rd PPR_CMD_STAT.BUSY = 0 →
    s.gateResult false = 0 → s.jnlAwait < 61430 → s.timeValid = false → ∃ t, exec (.pprRtcSet m data) s = .next t ∧
    t.rtcArmed = some (s.rd PPR_RTC_SET_LO.SEC + s.rd PPR_RTC_SET_HI.SEC % 65536 * 2 ^ 32, s.rtcSec) ∧ t.rd PPR_CMD_STAT.RESULT = 0) ∧
  (∀ (m : Nat) (data : Word) (s : State), Instr.wellFormed (.pprJtagUnlock m data) → s.takesCmd m 7 → isManager m → s.rd PPR_CMD_STAT.BUSY = 0 →
    s.gateResult false = 0 → s.jnlAwait < 61430 → ∃ t, exec (.pprJtagUnlock m data) s = .next t ∧ t.rd PPR_STAT.JTAG_UNLOCKED = 1 ∧
    t.reaches 0x6000 ∧ t.rd PPR_CMD_STAT.RESULT = 0) ∧
  (∀ (m : Nat) (data : Word) (s : State), Instr.wellFormed (.pprJtagUnlock m data) → s.takesCmd m 7 → isManager m → s.rd PPR_CMD_STAT.BUSY = 0 →
    s.rd PPR_STAT.WINDOW_OPEN = 0 → s.jnlAwait < 61430 → ∃ t, exec (.pprJtagUnlock m data) s = .next t ∧
    t.rd PPR_STAT.JTAG_UNLOCKED = s.rd PPR_STAT.JTAG_UNLOCKED ∧ t.rd PPR_CMD_STAT.RESULT = 1) ∧
  (∀ (m : Nat) (data : Word) (s : State), Instr.wellFormed (.pprJtagLock m data) → s.takesCmd m 7 → isManager m → s.rd PPR_CMD_STAT.BUSY = 0 →
    ∃ t, exec (.pprJtagLock m data) s = .next t ∧ t.rd PPR_STAT.JTAG_UNLOCKED = 0 ∧ t.rd PPR_CMD_STAT.RESULT = 0) ∧
  (∀ (m : Nat) (data : Word) (s : State), Instr.wellFormed (.pprClose m data) → s.takesCmd m 7 → isManager m → s.rd PPR_CMD_STAT.BUSY = 0 →
    ∃ t, exec (.pprClose m data) s = .next t ∧ t.rd PPR_STAT.WINDOW_OPEN = 0 ∧ t.rd PPR_CMD_STAT.RESULT = 0)

/-- The end of a fabric link and what its link cells do. FABRIC_LINK_DOWN, FABRIC_LINK_DOWN_END, LINK_CELL_RECEIVE and REACH_TIMEOUT. (09_fabric.md
R338, 09_fabric.md R339, 09_fabric.md R340, 09_fabric.md R341, 09_fabric.md R342, 09_fabric.md R343.) -/
def Obligations.LinkLoss : Prop :=
  (∀ (link cause uncorr : Nat) (s : State), Instr.wellFormed (.fabricLinkDown link cause uncorr) → s.linkState link = 5 → cause < 16 → cause ≠ 3 →
    cause ≠ 6 → cause ≠ 8 → cause ≠ 9 → ∃ t, exec (.fabricLinkDown link cause uncorr) s = .next t ∧ t.linkState link = 6 ∧
    t.rd (FLC_LINK_STAT.CAUSE (link / 12) (link % 12)) = cause ∧ t.rd (FLC_LINK_STAT.RX_GEN (link / 12) (link % 12)) = 0 ∧
    t.rd (FLC_LINK_STAT.REACH_VALID (link / 12) (link % 12)) = 0 ∧
    t.rd (FLC_LINK_DOWNS.reg (link / 12) (link % 12)) = satAdd 32 (s.rd (FLC_LINK_DOWNS.reg (link / 12) (link % 12))) 1 ∧
    s.framed t [[.linkX, .unreachAt, .counters, .snapSaved], irqPieces].flatten [[FLC_LINK_STAT.STATE (link / 12) (link % 12), FLC_LINK_STAT.CAUSE
      (link / 12) (link % 12), FLC_LINK_STAT.RX_GEN (link / 12) (link % 12), FLC_LINK_STAT.FC (link / 12) (link % 12), FLC_LINK_STAT.REACH_VALID
      (link / 12) (link % 12), FLC_LINK_UNCORR.reg (link / 12) (link % 12), FLC_LINK_DOWNS.reg (link / 12) (link % 12), FAB_STAT.LINKS_UP] ++
      irqFlds (244 + link / 12) (16 + link % 12), irqFlds 240 16, irqFlds 240 17].flatten []) ∧
  (∀ (link : Nat) (s : State), Instr.wellFormed (.fabricLinkDownEnd link) → s.linkState link = 6 → s.since (s.linkXAt link).stateAt 1000000 →
    s.fatalLatch = false →
    ((s.linkXAt link).downs.filter (fun d => !s.since d 60000000001)).length < max 1 (s.rd (FLC_CFG.FLAP_LIMIT (link / 12))) →
    ∃ t, exec (.fabricLinkDownEnd link) s = .next t ∧ t.linkState link = 1 ∧
    (t.rd (FLC_LINK_STAT.TX_GEN (link / 12) (link % 12)) = (if s.rd (FLC_LINK_STAT.TX_GEN (link / 12) (link % 12)) = 255 then 1 else s.rd
      (FLC_LINK_STAT.TX_GEN (link / 12) (link % 12)) + 1)) ∧ t.rd (FLC_LINK_PEER.VALID (link / 12) (link % 12)) = 0 ∧
    s.framed t [[.linkX, .unreachAt, .counters, .snapSaved], irqPieces].flatten [[FLC_LINK_STAT.STATE (link / 12) (link % 12),
      FLC_LINK_STAT.TX_GEN (link / 12) (link % 12), FLC_LINK_PEER.VALID (link / 12) (link % 12), FAB_STAT.LINKS_UP], irqFlds (244 + link / 12) (16
      + link % 12), irqFlds 240 16, irqFlds 240 17].flatten []) ∧
  (∀ (link : Nat) (s : State), Instr.wellFormed (.fabricLinkDownEnd link) → s.linkState link = 6 → s.since (s.linkXAt link).stateAt 1000000 →
    s.fatalLatch = false →
    max 1 (s.rd (FLC_CFG.FLAP_LIMIT (link / 12))) ≤ ((s.linkXAt link).downs.filter (fun d => !s.since d 60000000001)).length →
    ∃ t, exec (.fabricLinkDownEnd link) s = .next t ∧ t.linkState link = 7 ∧
    s.framed t [[.linkX, .unreachAt, .counters, .snapSaved], irqPieces].flatten [[FLC_LINK_STAT.STATE (link / 12) (link % 12), FAB_STAT.LINKS_UP]
      ++ irqFlds (244 + link / 12) (16 + link % 12), irqFlds 240 16, irqFlds 240 17].flatten []) ∧
  (∀ (link : Nat) (cell : List Byte) (bad : Bool) (corrected : Nat) (s : State), Instr.wellFormed (.linkCellReceive link cell (bad,corrected)) →
    bad = false → 3 ≤ s.linkState link → s.linkState link ≤ 5 → (cellHead (cell.map BitVec.toNat)).crcOk →
    (cellHead (cell.map BitVec.toNat)).type = 5 → (cellHead (cell.map BitVec.toNat)).lgen = s.rd (FLC_LINK_STAT.RX_GEN (link / 12) (link % 12)) →
    (cellHead (cell.map BitVec.toNat)).bits 67 64 = 3 → ∃ t, exec (.linkCellReceive link cell (bad,corrected)) s = .next t ∧
    t.rd (FLC_LINK_STAT.FC (link / 12) (link % 12)) = (cell.map BitVec.toNat).getD 10 0 % 4 ∧
    s.framed t [.emitted, .counters, .snapSaved] [FLC_LINK_STAT.FC (link / 12) (link % 12)] []) ∧
  (∀ (link : Nat) (a : Nat) (s : State), Instr.wellFormed (.reachTimeout link) → (s.linkXAt link).reachAt = some a → s.since a 1000000 →
    ∃ t, exec (.reachTimeout link) s = .next t ∧ t.rd (FLC_LINK_STAT.REACH_VALID (link / 12) (link % 12)) = 0 ∧
    s.framed t [[.unreachAt], irqPieces].flatten [[FLC_LINK_STAT.REACH_VALID (link / 12) (link % 12)], irqFlds 240 17].flatten [])

/-- Register writes that start something in the control and service blocks. REC_READOUT, REC_REPLAY, CONTAIN_RELEASE, FATAL_CAPTURE_CLEAR, SNAPSHOT_GO,
DUMP_ENABLE, JNL_HOST_ENABLE and MAIN_RESTART. What they leave alone is stated in MediaServices, DoorbellsAndInterrupts, CrierRecords,
SnapshotsAndTraces, JournalWrites and RestartAndStore. (12_services.md R458, 12_services.md R459, 13_host_interface.md R489, 15_start_up.md R536,
17_faults.md R584, 17_faults.md R587, 18_counters_and_tracing.md R602, 18_counters_and_tracing.md R605, 20_presence_seal_journal.md R664.) -/
def Obligations.ServiceRegisterWrites : Prop :=
  (∀ (m rc : Nat) (data : Word) (s : State), Instr.wellFormed (.recReadout m rc data) → s.takesCmd m 13 → s.rd (SVC_REC.BUSY rc) = 0 →
    ∃ t, exec (.recReadout m rc data) s = .next t ∧ t.rd (SVC_REC.BUSY rc) = 1 ∧ (t.recXAt rc).job = 1 ∧ (t.recXAt rc).upto = (s.recXAt rc).next ∧
    t.rd (SVC_REC.QPAIR rc) = data.toNat % 4096) ∧
  (∀ (m rc : Nat) (data : Word) (s : State), Instr.wellFormed (.recReplay m rc data) → s.takesCmd m 13 → s.rd (SVC_REC.BUSY rc) = 0 →
    ∃ t, exec (.recReplay m rc data) s = .next t ∧ t.rd (SVC_REC.BUSY rc) = 1 ∧ (t.recXAt rc).job = 2 ∧ (t.recXAt rc).upto = (s.recXAt rc).next) ∧
  (∀ (m : Nat) (data : Word) (s : State), Instr.wellFormed (.containRelease m data) → s.takesWrite m 2 → s.contained → s.releasable →
    ∃ t, exec (.containRelease m data) s = .next t ∧ t.contained = false) ∧
  (∀ (m : Nat) (s : State), Instr.wellFormed (.fatalCaptureClear m) → s.takesWrite m 5 → s.fatalLatch = false →
    ∃ t, exec (.fatalCaptureClear m) s = .next t ∧ t.rd CRY_FATAL_STAT.VALID = 0 ∧ t.rd CRY_FATAL_STAT.COUNT = 0) ∧
  (∀ (m : Nat) (s : State), Instr.wellFormed (.fatalCaptureClear m) → s.takesWrite m 5 → s.fatalLatch →
    ∃ t, exec (.fatalCaptureClear m) s = .next t ∧ t.rd CRY_FATAL_STAT.VALID = s.rd CRY_FATAL_STAT.VALID ∧ t.fatalLatch) ∧
  (∀ (m : Nat) (data : Word) (s : State), Instr.wellFormed (.snapshotGo m data) → s.takesCmd m 10 → s.snap = none → s.rd CNT_DUMP_HEAD.FULL = 0 →
    ∃ t, exec (.snapshotGo m data) s = .next t ∧
    t.snap = some { time := s.ns64 + 1000, mono := s.mono + 1000, go := true, mask := s.rd CNT_DUMP_MASK.FAMILY } ∧ t.rd CNT_SNAP.BUSY = 1) ∧
  (∀ (m : Nat) (data : Word) (s : State), Instr.wellFormed (.dumpEnable m data) → s.takesWrite m 10 → s.rd CNT_DUMP_CFG.EN = 0 →
    dumpSize (s.rd CNT_DUMP_MASK.FAMILY) ≤ s.rd CNT_DUMP_RING.SIZE_MIB * 2 ^ 20 → s.rd CNT_DUMP_BASE_LO.reg % 4096 = 0 →
    ∃ t, exec (.dumpEnable m data) s = .next t ∧ t.rd CNT_DUMP_CFG.EN = 1) ∧
  (∀ (m : Nat) (data : Word) (s : State), Instr.wellFormed (.jnlHostEnable m data) → s.takesWrite m 6 → s.rd JNL_HOST_CFG.EN = 0 →
    ∃ t, exec (.jnlHostEnable m data) s = .next t ∧ t.rd JNL_HOST_CFG.EN = 1 ∧ t.rd JNL_HOST_TAIL.INDEX = 0 ∧ t.jnlPhase ∧
    t.jnlNext = s.rd JNL_HOST_START_LO.reg + s.rd JNL_HOST_START_HI.reg * 2 ^ 32) ∧
  (∀ (m : Nat) (data : Word) (s : State), Instr.wellFormed (.mainRestart m data) → s.takesWrite m 1 → (m = 0 ∨ m = 0x6000) →
    3 ≤ s.rd DEV_STAT.STAGE → s.rd DEV_RESTARTS.TOTAL < 100 → ∃ t, exec (.mainRestart m data) s = .next t ∧ t.rd DEV_STAT.MAIN_UP = 0 ∧
    t.rd DEV_RESET_CAUSE.RESTART = 1 ∧ t.rd DEV_RESTARTS.TOTAL = s.rd DEV_RESTARTS.TOTAL + 1)

/-- Pulses, time lines, steps and slews. PPS_OUT_EDGE, TOD_RX_LINE, TOD_TX_LINE, TSF_POP, TIME_STEP_AT_SECOND and SLEW_END. (11_time.md R417, 11_time.md
R421, 11_time.md R422, 11_time.md R426, 11_time.md R427, 11_time.md R432.) -/
def Obligations.TimeOutputsAndSteps : Prop :=
  (∀ (s : State), Instr.wellFormed .ppsOutEdge → s.on PTP_SRC_CFG.PPS_OUT_EN → s.timeValid →
    s.ppsOutSec ≠ (s.ns64 + s.cfg PTP_PPS_CFG.PPS_OUT_ADV_NS) / 1000000000 → (s.ns64 + s.cfg PTP_PPS_CFG.PPS_OUT_ADV_NS) % 1000000000 < 2 →
    ∃ t, exec (.ppsOutEdge) s = .next t ∧ t.ppsOutSec = (s.ns64 + s.cfg PTP_PPS_CFG.PPS_OUT_ADV_NS) / 1000000000 ∧
    t.emitted = [.pin "PPS_OUT" true] ∧ t.ppsHigh ∧ s.framed t [.emitted, .ppsOutSec, .todTxSec, .ppsOutMono, .ppsHigh] [] []) ∧
  (∀ (line : List Byte) (n a : Nat) (s : State), Instr.wellFormed (.todRxLine line) → s.rd (BLK_CTRL.ENABLE 12) = 1 → s.on PTP_SRC_CFG.TOD_IN_EN →
    parseTod (line.map BitVec.toNat) = some n → s.ppsLast = some a → a + 10000000 ≤ s.mono → s.mono ≤ a + 900000000 →
    ∃ t, exec (.todRxLine line) s = .next t ∧ t.todSec = some (n - s.ppsSpan / 1000000000) ∧ t.rd PTP_STAT.TOD_IN_OK = 1 ∧
    s.framed t [.emitted, .todSec] [PTP_STAT.TOD_IN_OK] []) ∧
  (∀ (s : State), Instr.wellFormed .todTxLine → s.on PTP_SRC_CFG.TOD_OUT_EN → s.todTxSec ≠ s.ppsOutSec → s.ppsOutMono + 100000000 ≤ s.mono →
    s.mono ≤ s.ppsOutMono + 500000000 → ∃ t, exec (.todTxLine) s = .next t ∧ t.todTxSec = s.ppsOutSec ∧
    t.emitted = [.tod (todLine s (s.ppsOutSec + 1))] ∧ s.framed t [.emitted, .todTxSec] [] []) ∧
  (∀ (m : Nat) (s : State), Instr.wellFormed (.tsfPop m) → s.serves m 12 → (s.hiLatchAt (pairKey m 12)).all (fun x => x.1 != 0x28C) →
    ∃ t, exec (.tsfPop m) s = .next t ∧ t.tsf = s.tsf.drop 1 ∧ .readData m 12 0x28C (s.shows 12 0x28C).toNat false ∈ t.emitted ∧
    s.framed t [.emitted, .dieTx, .dieRx, .tsf] [] []) ∧
  (∀ (mode sec ns at_ : Nat) (s : State), Instr.wellFormed .timeStepAtSecond → s.stepPend = some (mode, sec, ns, at_) → at_ ≤ s.sec →
    ∃ t, exec (.timeStepAtSecond) s = .next t ∧
    (t.time16 = (if mode = 1 then (s.time16 + (sec * 1000000000 + ns) * 65536) % timeWrap else if mode = 2 then (s.time16 + timeWrap - (sec *
      1000000000 + ns) * 65536 % timeWrap) % timeWrap else ((sec * 1000000000 + ns) * 65536 + s.frac) % timeWrap)) ∧ t.mono16 = s.mono16 ∧
    t.stepPend = none ∧ t.slewLeft = 0 ∧
    s.framed t [[.time16, .stepDelta, .slewLeft, .stepAt, .stepPend, .snapAt, .commitLate, .dieTx, .dieRx, .gateX, .qx, .txNow],
      irqPieces].flatten [[BLK_COMMIT_STAT.PENDING 12, BLK_COMMIT_STAT.DONE 12, SCH_STAT.FIT_WAIT], (List.range 48).map GATE_STAT.CUR_ENTRY,
      (List.range 48).map GATE_STAT.STATES, irqFlds 12 16, irqFlds 12 2].flatten []) ∧
  (∀ (s : State), Instr.wellFormed .slewEnd → s.slewLeft = 0 → ∃ t, exec (.slewEnd) s = .next t ∧ t.unitsAt (regKey 12 0x234) = 0 ∧ t.slewRem = 0 ∧
    s.framed t [.emitted, .units, .slewRem] [] [])

/-- Negotiation and training report into PORT_STAT. AUTONEG_DONE, LINK_TRAINING_DONE and LINK_TRAINING_TIMEOUT report into PORT_STAT. What they leave
alone is stated in DefectsAndMonitoring. (03_ports_and_framing.md R86, 03_ports_and_framing.md R87, 03_ports_and_framing.md R126.) -/
def Obligations.PortLinkBringUp : Prop :=
  (∀ (port partner : Nat) (s : State), Instr.wellFormed (.autonegDone port partner) → s.on (PORT_MODE.AN_EN port) →
    s.rd (PORT_STAT.CFG_ERR port) = 0 → s.cfg (PORT_MODE.MODE port) ≠ 0 → ∃ t, exec (.autonegDone port partner) s = .next t ∧
    t.rd (PORT_STAT.AN_DONE port) = b2n (bitOf partner (s.cfg (PORT_MODE.MODE port))) ∧ t.rd (PORT_STAT.LT_DONE port) = 0) ∧
  (∀ (port : Nat) (s : State), Instr.wellFormed (.linkTrainingDone port) → s.on (PORT_MODE.LT_EN port) →
    (s.on (PORT_MODE.AN_EN port) = false ∨ s.rd (PORT_STAT.AN_DONE port) = 1) → s.rd (PORT_STAT.CFG_ERR port) = 0 →
    s.cfg (PORT_MODE.MODE port) ≠ 0 → ∃ t, exec (.linkTrainingDone port) s = .next t ∧ t.rd (PORT_STAT.LT_DONE port) = 1) ∧
  (∀ (port : Nat) (s : State), Instr.wellFormed (.linkTrainingTimeout port) → s.on (PORT_MODE.LT_EN port) → s.rd (PORT_STAT.LT_DONE port) = 0 →
    (s.on (PORT_MODE.AN_EN port) = false ∨ s.rd (PORT_STAT.AN_DONE port) = 1) → s.rd (PORT_STAT.CFG_ERR port) = 0 →
    s.cfg (PORT_MODE.MODE port) ≠ 0 → s.cageReady port → (s.cageXAt port).copper → ∃ t, exec (.linkTrainingTimeout port) s = .next t ∧
    .bringUp port true (trainProtocol (s.cfg (PORT_MODE.MODE port))) 0 ∈ t.emitted) ∧
  (∀ (port : Nat) (s : State), Instr.wellFormed (.linkTrainingTimeout port) → (s.cageXAt port).copper = false →
    ∃ t, exec (.linkTrainingTimeout port) s = .next t ∧ t.emitted = [])

/-- A source's requests and what comes back. REQ_SEND, REQ_RESEND, ANS_RECEIVE and MC_ACK_RECEIVE at the source of packets for another device.
(09_fabric.md R349, 09_fabric.md R350, 09_fabric.md R351, 09_fabric.md R353, 09_fabric.md R377.) -/
def Obligations.RequestsOfTheSource : Prop :=
  (∀ (dev queue : Nat) (p : Pkt) (s : State), Instr.wellFormed (.reqSend dev queue) → s.rd (BLK_CTRL.ENABLE 240) = 1 → dev ≠ s.ownId →
    s.stgAt (stgKey dev queue) = [p] → s.fabOn → dev ≤ s.rd FAB_SYS_CFG.MAX_DEV → s.linksTo dev (s.privileged p) ≠ [] →
    (s.reqOrder dev).length < 2048 → ∃ t, exec (.reqSend dev queue) s = .next t ∧ t.stgAt (stgKey dev queue) = [] ∧
    t.reqNextAt dev = (s.reqNextAt dev + 1) % 65536 ∧ (t.reqsAt (reqKey dev (s.reqNextAt dev))).map ReqOut.pkts = some [(p, none)] ∧
    (t.reqsAt (reqKey dev (s.reqNextAt dev))).map ReqOut.sends = some 1 ∧ s.framed t [[.stg, .reqNext, .reqs], ctrlPieces].flatten [] []) ∧
  (∀ (dev seq : Nat) (x : ReqOut) (s : State), Instr.wellFormed (.reqResend dev seq) → s.reqsAt (reqKey dev seq) = some x →
    x.pkts.any (fun y => y.2 == none || y.2 == some 1) → x.sends ≠ 0 → x.sends < max 1 (s.rd FAB_TIMERS.REQ_TRIES) → s.since x.sentAt 20000 →
    s.fabOn → s.linksTo dev x.priv ≠ [] → ∃ t, exec (.reqResend dev seq) s = .next t ∧
    (t.reqsAt (reqKey dev seq)).map ReqOut.sends = some (x.sends + 1) ∧ (t.reqsAt (reqKey dev seq)).map ReqOut.sentAt = some s.mono ∧
    (t.reqsAt (reqKey dev seq)).map ReqOut.pkts = some x.pkts ∧ s.framed t [[.reqs], ctrlPieces].flatten [] []) ∧
  (∀ (link src : Nat) (msg : List Word) (m : Nat) (x : ReqOut) (p : Pkt) (s : State), Instr.wellFormed (.ansReceive link src msg) → m = msgOf msg →
    mb m 127 124 = 2 → src ≠ s.ownId → s.fabOn → s.linkUp link → mb m 85 78 = s.rd FAB_STAT.EPOCH →
    s.reqs = [(reqKey src (mb m 101 86), some x)] → x.pkts = [(p, none)] → mb m 122 121 = 0 → mb m 9 8 = 1 →
    s.cellOpenAt (ucStream src false) = [] → s.cellOpenAt (ucStream src true) = [] → s.xbWait = [] →
    ∃ t, exec (.ansReceive link src msg) s = .next t ∧
    t.reqsAt (reqKey src (mb m 101 86)) = some { x with answered := true, sends := max 1 x.sends, pkts := [(p, some 1)] } ∧
    t.counter 11 (16 * link + 4) = (s.counter 11 (16 * link + 4) + 1) % 2 ^ 64 ∧ s.framed t [.emitted, .reqs, .counters, .snapSaved] [] []) ∧
  (∀ (link src : Nat) (msg : List Word) (m : Nat) (s : State), Instr.wellFormed (.mcAckReceive link src msg) → m = msgOf msg → mb m 127 124 = 4 →
    src ≠ s.ownId → s.fabOn → s.linkUp link → m % 2 ^ 32 ≤ s.mcOutAt src → ∃ t, exec (.mcAckReceive link src msg) s = .next t ∧
    t.mcOutAt src = s.mcOutAt src - m % 2 ^ 32 ∧ s.framed t [.emitted, .mcOut] [] []) ∧
  (∀ (link src : Nat) (msg : List Word) (m : Nat) (s : State), Instr.wellFormed (.mcAckReceive link src msg) → m = msgOf msg → mb m 127 124 = 4 →
    src ≠ s.ownId → s.fabOn → s.linkUp link → s.mcOutAt src < m % 2 ^ 32 → ∃ t, exec (.mcAckReceive link src msg) s = .next t ∧
    t.mcOutAt src = 0 ∧ t.rd MCR_ACK_EXCESS.COUNT = satAdd 32 (s.rd MCR_ACK_EXCESS.COUNT) 1 ∧
    s.framed t [.emitted, .mcOut] [MCR_ACK_EXCESS.COUNT] [])

/-- The update's other commands and its snapshots. ABORT, REVOKE, SNAP_SAVE, SNAP_MARK and SNAP_CLEAR of UPD_CMD. What they leave alone is stated in
RestartAndStore. (19_update_and_store.md R625, 19_update_and_store.md R629, 19_update_and_store.md R637, 19_update_and_store.md R638.) -/
def Obligations.UpdateAbortAndSnapshots : Prop :=
  (∀ (m : Nat) (data : Word) (k : Nat) (s : State), Instr.wellFormed (.updAbort m data) → s.takesCmd m 8 → (m = 0 ∨ m = 0x2000) → s.updOp = none →
    s.storeQ = [] → k = s.updTarget data → ∃ t, exec (.updAbort m data) s = .next t ∧ t.storeQ = [.control (s.ctl.setSlot k {}) 0 0] ∧
    t.updOp = some { op := 7, waits := true }) ∧
  (∀ (m : Nat) (data : Word) (k : Nat) (s : State), Instr.wellFormed (.updRevoke m data) → s.takesCmd m 8 → (m = 0 ∨ m = 0x2000) → s.updOp = none →
    s.storeQ = [] → s.gateResult false = 0 → s.jnlAwait < 61430 → k = fieldOf data 17 16 → k ≠ 0 → ∃ t, exec (.updRevoke m data) s = .next t ∧
    t.storeQ = [.control { s.ctl with revoked := withBit s.ctl.revoked k true } 0 0] ∧ t.updOp = some { op := 8, waits := true }) ∧
  (∀ (m : Nat) (data : Word) (k : Nat) (s : State), Instr.wellFormed (.updSnapSave m data) → s.takesCmd m 8 → (m = 0 ∨ m = 0x2000) →
    s.updOp = none → s.rd DEV_STAT.PF_WARN = 0 → s.jnlSeq = 0 → s.regs.length + s.units.length + s.tables.length < 2 ^ 20 →
    (k = if bitOf s.ctlNext.marked 0 then 1 else 0) → ∃ t, exec (.updSnapSave m data) s = .next t ∧ t.storeQ.length = s.storeQ.length + 1 ∧
    (match t.storeQ.getLast? with | some (.snap j _) => j == k | _ => false) ∧ t.updOp = some { op := 9, waits := true }) ∧
  (∀ (m : Nat) (data : Word) (k : Nat) (s : State), Instr.wellFormed (.updSnapMark m data) → s.takesCmd m 8 → (m = 0 ∨ m = 0x2000) →
    s.updOp = none → s.rd DEV_STAT.PF_WARN = 0 → s.storeQ = [] → k = fieldOf data 24 24 → (s.snapSlotAt k).isSome →
    ∃ t, exec (.updSnapMark m data) s = .next t ∧ t.storeQ = [.control { s.ctl with marked := 2 ^ k } 0 0] ∧
    t.updOp = some { op := 10, waits := true }) ∧
  (∀ (m : Nat) (data : Word) (k : Nat) (s : State), Instr.wellFormed (.updSnapClear m data) → s.takesCmd m 8 → (m = 0 ∨ m = 0x2000) →
    s.updOp = none → s.rd DEV_STAT.PF_WARN = 0 → s.storeQ = [] → k = fieldOf data 24 24 → ∃ t, exec (.updSnapClear m data) s = .next t ∧
    t.storeQ = [.control { s.ctl with marked := withBit s.ctl.marked k false } 0 0] ∧ t.rd UPD_CMD_STAT.BUSY = 1)

/-- A destination's grants. REQ_RECEIVE, HOLD_CLEAR, GRANT_EXPIRE and RELEASE_RECEIVE at the destination; n is the request's length less the port's
overhead. (09_fabric.md R352, 09_fabric.md R354, 09_fabric.md R355, 08_queues_and_scheduling.md R294.) -/
def Obligations.RequestsAtTheDestination : Prop :=
  (∀ (link src : Nat) (msg : List Word) (m q n : Nat) (s : State), Instr.wellFormed (.reqReceive link src msg) → m = msgOf msg → q = mb m 120 102 →
    n = ((mb m 16 3 : Int) - s.ovh (s.rootPort q)).toNat → mb m 127 124 = 1 → src ≠ s.ownId → s.fabOn → s.linkUp link →
    s.srcEpochAt src = some (mb m 85 78) → s.recs = [] → mb m 122 121 = 0 → (s.qe q).on QE.EN → (s.qe q).f QE.CLASS = 0 → s.qRoom q n →
    s.bpmAdmit 1 (s.rootPort q) (2 * n) → ∃ t, exec (.reqReceive link src msg) s = .next t ∧
    t.recsAt (reqKey src (mb m 101 86)) = some
      { queue := q, priv := bitOf m 123, pkts := [{ len := mb m 16 3, colour := mb m 2 1, ecn := bitOf m 0, verdict := 0, reason := 0, step := 7, at_ := s.mono, resv := n, req := s.rootPort q }] } ∧
    (t.qxAt q).granted = (s.qxAt q).granted + n ∧ t.reqResvAt (s.rootPort q) = s.reqResvAt (s.rootPort q) + 2 * n ∧
    s.framed t [[.recs, .qx, .reqResv], ctrlPieces].flatten [BPM_TIER_RESV.RESV 0] []) ∧
  (∀ (src seq : Nat) (g : GrantRec) (r : RecPkt) (n : Nat) (s : State), Instr.wellFormed (.holdClear src seq) → s.recsAt (reqKey src seq) = some g →
    g.pkts = [r] → r.verdict = 1 → n = ((r.len : Int) - s.ovh (s.rootPort g.queue)).toNat → (s.qe g.queue).on QE.EN →
    (s.qe g.queue).f QE.CLASS = 0 → r.step < 6 → s.qRoom g.queue n → s.bpmAdmit 1 (s.rootPort g.queue) (2 * n) →
    ∃ t, exec (.holdClear src seq) s = .next t ∧
    t.recsAt (reqKey src seq) = some
      { g with pkts := [{ r with verdict := 0, reason := 0, step := 7, at_ := s.mono, resv := n, req := s.rootPort g.queue }] } ∧
    (t.qxAt g.queue).granted = (s.qxAt g.queue).granted + n ∧ s.framed t [[.recs, .qx, .reqResv], ctrlPieces].flatten [BPM_TIER_RESV.RESV 0] []) ∧
  (∀ (src seq : Nat) (g : GrantRec) (r : RecPkt) (s : State), Instr.wellFormed (.grantExpire src seq) → s.recsAt (reqKey src seq) = some g →
    g.pkts = [r] → r.verdict = 0 → s.since r.at_ (max 50 (s.rd FAB_TIMERS.GRANT_TMO_US) * 1000) → ∃ t, exec (.grantExpire src seq) s = .next t ∧
    t.recsAt (reqKey src seq) = some { g with pkts := [{ r with verdict := 3 }] } ∧ (t.qxAt g.queue).granted = (s.qxAt g.queue).granted - r.resv ∧
    t.reqResvAt r.req = s.reqResvAt r.req - 2 * r.resv ∧ s.framed t [.emitted, .recs, .qx, .reqResv] [BPM_TIER_RESV.RESV 0] []) ∧
  (∀ (link src : Nat) (msg : List Word) (m : Nat) (g : GrantRec) (r : RecPkt) (s : State), Instr.wellFormed (.releaseReceive link src msg) →
    m = msgOf msg → mb m 127 124 = 3 → src ≠ s.ownId → s.fabOn → s.linkUp link → s.srcEpochAt src = some (mb m 85 78) →
    s.recsAt (reqKey src (mb m 101 86)) = some g → g.pkts = [r] → r.verdict = 0 → bitOf m 0 →
    ∃ t, exec (.releaseReceive link src msg) s = .next t ∧ t.recsAt (reqKey src (mb m 101 86)) = none ∧
    (t.qxAt g.queue).granted = (s.qxAt g.queue).granted - r.resv ∧ s.framed t [.emitted, .recs, .qx, .reqResv] [BPM_TIER_RESV.RESV 0] [])

/-- A cold start and its stages. COLD_START, RAIL_FAIL, STAGE_ADVANCE and MAIN_BOOT_TIMEOUT. (15_start_up.md R511, 15_start_up.md R513, 15_start_up.md
R518, 15_start_up.md R519, 15_start_up.md R520, 15_start_up.md R524, 15_start_up.md R528, 15_start_up.md R529.) -/
def Obligations.ColdStart : Prop :=
  (∀ (slot : Nat) (s : State), Instr.wellFormed (.coldStart slot) → s.coldT0 = none → ∃ t, exec (.coldStart slot) s = .next t ∧ t.coldT0 = some 0 ∧
    t.mono16 = 0 ∧ t.rd DEV_STAT.STAGE = 0 ∧ t.rd DEV_SLOT.PINS = slot ∧ t.fatalLatch = s.fatalLatch ∧ (s.fatalLatch = true →
    t.rd DEV_STAT.FATAL_LATCHED = 1 ∧ t.rd CRY_STAT.FATAL = 1 ∧ t.rd FAB_STAT.SAFE = 1) ∧
    s.framed t [[.mono16, .coldT0, .supVin12, .supVsb33, .resetLow, .slotPins], irqPieces].flatten [DEV_SLOT.PINS, DEV_STAT.PWR_GOOD,
      BKP_STAT.ON_CELL, DEV_STAT.FATAL_LATCHED, CRY_STAT.FATAL, FAB_STAT.SAFE, DEV_STAT.STAGE, DEV_STAGE_TIME.US 0] []) ∧
  (∀ (s : State), Instr.wellFormed .railFail → s.coldT0.isSome → s.rd DEV_STAT.STAGE = 0 → s.stopped = false → s.fatalLatch = false →
    (List.range 144).all (fun l => s.linkState l == 0) → ∃ t, exec (.railFail) s = .next t ∧ t.stopped ∧ t.fatalLatch ∧ t.rd DEV_STAT.STAGE = 0 ∧
    t.fatalQ = s.fatalQ ++ [(errorMsg s 1 0 0xE000 4 0x24, s.mono)] ∧
    s.onlyIn t [countPieces, [.dieRx, .dieTx, .fatalLatch, .fatalQ, .linkX, .stopped, .unreachAt]].flatten) ∧
  (∀ (ok : Bool) (defects : List Nat) (s : State), Instr.wellFormed (.stageAdvance ok defects) → s.coldT0.isSome → s.rd DEV_STAT.STAGE = 0 →
    s.stopped = false → s.latchDue → s.slotPins < 1024 → ∃ t, exec (.stageAdvance ok defects) s = .next t ∧ t.rd DEV_STAT.STAGE = 1 ∧
    t.blkUpAt 0 = true ∧ t.blkUpAt 1 = true ∧ t.blkUpAt 2 = true ∧ t.blkUpAt 3 = true ∧ t.rd DEV_SLOT.LATCHED = s.slotPins ∧
    t.rd FAB_DEV_ID.ID = s.slotPins ∧ t.latchDue = false ∧ (t.regsAt (regKey 1 0x10)).getLsbD 16 ∧
    s.onlyIn t [hostPieces, linkPieces, [.bkpCopied, .blkUp, .bodies, .bootAt, .bucketPend, .cageX, .confirmEnd, .copyArea, .coreTag, .cryPend,
      .cryQueue, .ctl, .dieDownAt, .erases, .fatalLatch, .fatalQ, .flxHeld, .fresh, .gateX, .genEpoch, .gens, .inQ, .instX, .latchDue, .linkX,
      .macQ, .memX, .millAll, .pegDue, .pegs, .pmX, .qx, .recov, .regs, .rpfTx, .rprEvt, .rxFifo, .rxXoff, .startVal, .storeQ, .tables, .tcFlip,
      .tcamLoad, .time16, .txNow, .unitX, .units, .unreachAt, .updSlot, .xoff]].flatten) ∧
  (∀ (ok : Bool) (defects : List Nat) (s : State), Instr.wellFormed (.stageAdvance ok defects) → s.coldT0.isSome → s.rd DEV_STAT.STAGE = 3 →
    s.rd DEV_STAT.RECOVERY = 0 → s.bootAt.isSome → s.fatalLatch → ∃ t, exec (.stageAdvance ok defects) s = .next t ∧ t.rd DEV_STAT.STAGE = 8 ∧
    t.rd DEV_STAT.MAIN_UP = 1 ∧ t.blkUpAt 5 = true ∧ t.blkUpAt 6 = true ∧ t.blkUpAt 7 = true ∧ t.blkUpAt 8 = true ∧ t.fatalLatch ∧
    s.onlyIn t [hostPieces, linkPieces, [.bkpCopied, .blkUp, .bodies, .bootAt, .bucketPend, .cageX, .confirmEnd, .copyArea, .coreTag, .cryPend,
      .cryQueue, .ctl, .dieDownAt, .erases, .fatalLatch, .fatalQ, .flxHeld, .fresh, .gateX, .genEpoch, .gens, .inQ, .instX, .latchDue, .linkX,
      .macQ, .memX, .millAll, .pegDue, .pegs, .pmX, .qx, .recov, .regs, .rpfTx, .rprEvt, .rxFifo, .rxXoff, .startVal, .storeQ, .tables, .tcFlip,
      .tcamLoad, .time16, .txNow, .unitX, .units, .unreachAt, .updSlot, .xoff]].flatten) ∧
  (∀ (ok : Bool) (defects : List Nat) (s : State), Instr.wellFormed (.stageAdvance ok defects) → s.coldT0.isSome → s.rd DEV_STAT.STAGE = 6 →
    s.fullStart → s.pegs = [] → ∃ t, exec (.stageAdvance ok defects) s = .next t ∧ t.rd DEV_STAT.STAGE = 7 ∧ t.rd DEV_STAT.FULL_READY = 1 ∧
    (t.regsAt (regKey 1 0x10)).getLsbD 18 ∧
    s.onlyIn t [hostPieces, linkPieces, [.bkpCopied, .blkUp, .bodies, .bootAt, .bucketPend, .cageX, .confirmEnd, .copyArea, .coreTag, .cryPend,
      .cryQueue, .ctl, .dieDownAt, .erases, .fatalLatch, .fatalQ, .flxHeld, .fresh, .gateX, .genEpoch, .gens, .inQ, .instX, .latchDue, .linkX,
      .macQ, .memX, .millAll, .pegDue, .pegs, .pmX, .qx, .recov, .regs, .rpfTx, .rprEvt, .rxFifo, .rxXoff, .startVal, .storeQ, .tables, .tcFlip,
      .tcamLoad, .time16, .txNow, .unitX, .units, .unreachAt, .updSlot, .xoff]].flatten) ∧
  (∀ (u : Nat) (s : State), Instr.wellFormed .mainBootTimeout → s.coldT0.isSome → s.rd DEV_STAT.STAGE = 3 → s.rd DEV_STAT.RECOVERY = 0 →
    s.bootAt = some u → s.since u 2000000000 → s.rd DEV_STAT.PF_WARN = 0 → (bootChoose s s.ctl.noPartial 8).2.1 = none →
    ∃ t, exec (.mainBootTimeout) s = .next t ∧ t.rd DEV_STAT.RECOVERY = 1 ∧ t.bootAt = some s.mono ∧ t.blkUpAt 5 = true ∧ t.blkUpAt 7 = true ∧
    t.blkUpAt 8 = true ∧ t.ctl = (bootChoose s s.ctl.noPartial 8).1 ∧
    s.onlyIn t [[.regs, .blkUp, .bootAt, .ctl, .copyArea, .erases, .storeQ, .updSlot], irqPieces].flatten)

/-- The life of a fabric link up to UP. FABRIC_LINK_TRAINED, FABRIC_LINK_ALIGN_END, FABRIC_LINK_TEST_END and FABRIC_LINK_HOLDOFF_END take a link from
TRAIN to ALIGN, TEST, HOLDOFF and UP; only the link's own status, LINKS_UP and the interrupts change. Beside these, what FAB_SYS_ENABLE,
FABRIC_LINK_RESTART leave alone where they complete. (09_fabric.md R339, 09_fabric.md R340, 09_fabric.md R341, 03_ports_and_framing.md,
05_forwarding_tables.md, 06_pipelines.md, 07_buffers.md, 10_memory_controllers.md, 15_start_up.md.) -/
def Obligations.LinkTraining : Prop :=
  (∀ (link : Nat) (ok : Bool) (s : State), Instr.wellFormed (.fabricLinkTrained link ok) → s.linkState link = 1 →
    s.cfg (FLC_LINK_CTRL.PRBS (link / 12) (link % 12)) = 0 → ok → s.mono ≤ (s.linkXAt link).stateAt + 200000000 →
    ∃ t, exec (.fabricLinkTrained link ok) s = .next t ∧ t.linkState link = 2 ∧ (t.linkXAt link).stateAt = s.mono ∧
    s.framed t [[.linkX, .unreachAt, .counters, .snapSaved], irqPieces].flatten [[FLC_LINK_STAT.STATE (link / 12) (link % 12), FAB_STAT.LINKS_UP]
      ++ irqFlds (244 + link / 12) (16 + link % 12), irqFlds 240 16, irqFlds 240 17].flatten []) ∧
  (∀ (link : Nat) (locked : Bool) (s : State), Instr.wellFormed (.fabricLinkAlignEnd link locked) → s.linkState link = 2 → locked →
    s.fatalLatch = false → s.mono ≤ (s.linkXAt link).stateAt + 1000000 → ∃ t, exec (.fabricLinkAlignEnd link locked) s = .next t ∧
    t.linkState link = 3 ∧ (t.linkXAt link).gotHello = false ∧ (t.linkXAt link).gotReach = false ∧ (t.linkXAt link).testErr = false ∧
    s.framed t [[.linkX, .unreachAt, .counters, .snapSaved], irqPieces].flatten [[FLC_LINK_STAT.STATE (link / 12) (link % 12), FAB_STAT.LINKS_UP]
      ++ irqFlds (244 + link / 12) (16 + link % 12), irqFlds 240 16, irqFlds 240 17].flatten []) ∧
  (∀ (link : Nat) (bad : Bool) (s : State), Instr.wellFormed (.fabricLinkTestEnd link bad) → s.linkState link = 3 →
    s.since (s.linkXAt link).stateAt 10000000 → (s.linkXAt link).gotHello → (s.linkXAt link).gotReach → (s.linkXAt link).testErr = false →
    bad = false → ∃ t, exec (.fabricLinkTestEnd link bad) s = .next t ∧ t.linkState link = 4 ∧
    s.framed t [[.linkX, .unreachAt, .counters, .snapSaved], irqPieces].flatten [[FLC_LINK_STAT.STATE (link / 12) (link % 12), FAB_STAT.LINKS_UP]
      ++ irqFlds (244 + link / 12) (16 + link % 12), irqFlds 240 16, irqFlds 240 17].flatten []) ∧
  (∀ (link : Nat) (s : State), Instr.wellFormed (.fabricLinkHoldoffEnd link) → s.linkState link = 4 →
    s.since (s.linkXAt link).stateAt (max 1 (s.rd (FLC_CFG.HOLDOFF_MS (link / 12))) * 1000000) →
    ∃ t, exec (.fabricLinkHoldoffEnd link) s = .next t ∧ t.linkState link = 5 ∧
    s.framed t [[.linkX, .unreachAt, .counters, .snapSaved], irqPieces].flatten [[FLC_LINK_STAT.STATE (link / 12) (link % 12), FAB_STAT.LINKS_UP]
      ++ irqFlds (244 + link / 12) (16 + link % 12), irqFlds 240 16, irqFlds 240 17].flatten []) ∧
  (∀ (m : Nat) (data : Word) (s : State), Instr.wellFormed (.fabSysEnable m data) → s.takesWrite m 240 → data.getLsbD 31 → s.rd FAB_SYS_CFG.EN = 0 →
    ∃ t, exec (.fabSysEnable m data) s = .next t ∧
    s.framed t [hostPieces, (irqPieces ++ [.counters, .fresh, .linkX, .mcMade, .reqResv, .snapSaved, .unreachAt])].flatten [[FAB_SYS_CFG.reg,
      FAB_STAT.reg], (List.range 144).flatMap (fun l => [FLC_LINK_STAT.reg (l / 12) (l % 12), FLC_LINK_DOWNS.reg (l / 12) (l % 12),
      FLC_LINK_PEER.VALID (l / 12) (l % 12)] ++ irqFlds (244 + l / 12) (16 + l % 12)), (List.range 3).map BPM_TIER_RESV.RESV, irqFlds 240 16,
      irqFlds 240 17, recFlds].flatten []) ∧
  (∀ (m link : Nat) (s : State), Instr.wellFormed (.fabricLinkRestart m link) → s.takesWrite m (244 + link / 12) → s.linkState link ≠ 0 →
    s.linkMayRun link → ∃ t, exec (.fabricLinkRestart m link) s = .next t ∧
    s.framed t [[.dirty], .linkX :: .unreachAt :: hostPieces].flatten [[FAB_STAT.LINKS_UP, FLC_LINK_CTRL.reg (link / 12) (link % 12),
      FLC_LINK_STAT.reg (link / 12) (link % 12), FLC_LINK_PEER.VALID (link / 12) (link % 12)], irqFlds 240 16, irqFlds 240 17, irqFlds (244 + link
      / 12) (16 + link % 12), recFlds].flatten [])

/-- A module's errors, removal, two-wire access and interrupt. MODULE_STEP_TIMEOUT, MODULE_REMOVE, MODULE_ACCESS_DONE, MODULE_INTERRUPT, and MODULE_POLL
on a module of too high a power class. Beside these, what CAGE_PWR_MAX_RAISE, MODULE_ACCESS, MODULE_INSERT, MODULE_RESET_RELEASE, MODULE_POLL,
MODULE_READY, MODULE_DATAPATH_ACTIVATED leave alone where they complete. (03_ports_and_framing.md R96, 03_ports_and_framing.md R97,
03_ports_and_framing.md R100, 15_start_up.md R532, 15_start_up.md R533, 15_start_up.md R535, 05_forwarding_tables.md, 06_pipelines.md,
07_buffers.md, 09_fabric.md, 10_memory_controllers.md.) -/
def Obligations.ModuleFaultsAndAccess : Prop :=
  (∀ (port : Nat) (s : State), Instr.wellFormed (.moduleStepTimeout port) → (s.cageXAt port).step = 3 → s.since (s.cageXAt port).stepAt 3000000000 →
    ∃ t, exec (.moduleStepTimeout port) s = .next t ∧ t.rd (PORT_CAGE_STAT.STATE port) = 5 ∧ (t.cageXAt port).step = 0 ∧
    s.framed t [[.cageX], irqPieces].flatten [[PORT_CAGE_STAT.STATE port], irqFlds (16 + port) 24].flatten []) ∧
  (∀ (port : Nat) (s : State), Instr.wellFormed (.moduleRemove port) → s.rd (PORT_CAGE_STAT.PRESENT port) = 1 →
    ∃ t, exec (.moduleRemove port) s = .next t ∧ t.reg (16 + port) 0x234 = 0 ∧ t.cageXAt port = {} ∧
    s.framed t [[.cageX], linkPieces].flatten [[PORT_CAGE_STAT.reg port, PORT_MOD_CMD.BUSY port, PORT_MOD_CMD.ERR port, PORT_STAT.AN_DONE port,
      PORT_STAT.LT_DONE port] ++ irqFlds (16 + port) 22, linkFlds port].flatten []) ∧
  (∀ (port : Nat) (ack : Bool) (data : Nat) (s : State), Instr.wellFormed (.moduleAccessDone port ack data) → s.rd (PORT_MOD_CMD.BUSY port) = 1 →
    s.rd (PORT_MOD_CMD.WRITE port) = 0 → ack → ∃ t, exec (.moduleAccessDone port ack data) s = .next t ∧ t.rd (PORT_MOD_CMD.BUSY port) = 0 ∧
    t.rd (PORT_MOD_CMD.ERR port) = 0 ∧ t.rd (PORT_MOD_CMD.DATA port) = data ∧
    s.framed t [.emitted] [PORT_MOD_CMD.BUSY port, PORT_MOD_CMD.ERR port, PORT_MOD_CMD.DATA port] []) ∧
  (∀ (port : Nat) (asserted : Bool) (s : State), Instr.wellFormed (.moduleInterrupt port asserted) → s.rd (PORT_CAGE_STAT.PRESENT port) = 1 →
    s.rd (PORT_CAGE_STAT.INT port) ≠ b2n asserted → ∃ t, exec (.moduleInterrupt port asserted) s = .next t ∧
    t.rd (PORT_CAGE_STAT.INT port) = b2n asserted ∧ s.framed t irqPieces [[PORT_CAGE_STAT.INT port], irqFlds (16 + port) 23].flatten []) ∧
  (∀ (port : Nat) (ack lowPwr : Bool) (ident rev pwrClass : Nat) (copper : Bool) (apps : List Nat) (dpMs : Nat) (s : State),
    Instr.wellFormed (.modulePoll port ack lowPwr ident rev pwrClass copper apps dpMs) → (s.cageXAt port).step = 3 → ack → lowPwr → 0x40 ≤ rev →
    rev ≤ 0x5F → s.rd (PORT_CAGE_CTRL.PWR_MAX port) + 1 < pwrClass →
    ∃ t, exec (.modulePoll port ack lowPwr ident rev pwrClass copper apps dpMs) s = .next t ∧ t.rd (PORT_CAGE_STAT.STATE port) = 3 ∧
    (t.reg (16 + port) 0x10).getLsbD 24 ∧ (t.cageXAt port).step = 0 ∧
    s.framed t [[.cageX], linkPieces].flatten [[PORT_CAGE_STAT.IDENT port, PORT_CAGE_STAT.CMIS_REV port, PORT_CAGE_STAT.PWR_CLASS port,
      PORT_CAGE_STAT.STATE port, PORT_STAT.CFG_ERR port, PORT_STAT.AN_DONE port, PORT_STAT.LT_DONE port], irqFlds (16 + port) 24, irqFlds (16 +
      port) 27, linkFlds port].flatten []) ∧
  (∀ (m port : Nat) (data : Word) (c : Nat) (s : State), Instr.wellFormed (.cagePwrMaxRaise m port data) → s.takesWrite m (16 + port) →
    c = fieldOf data (PORT_CAGE_CTRL.PWR_MAX port).hi (PORT_CAGE_CTRL.PWR_MAX port).lo →
    fieldOf data (PORT_CAGE_CTRL.MANUAL port).hi (PORT_CAGE_CTRL.MANUAL port).lo = 0 → s.rd (PORT_CAGE_CTRL.MANUAL port) = 0 →
    s.rd (PORT_CAGE_STAT.STATE port) = 3 → s.rd (PORT_CAGE_CTRL.PWR_MAX port) < c → s.rd (PORT_CAGE_STAT.PWR_CLASS port) ≤ c + 1 →
    ∃ t, exec (.cagePwrMaxRaise m port data) s = .next t ∧
    s.framed t [[.cageX], linkPieces, hostPieces].flatten [[PORT_CAGE_CTRL.reg port, PORT_CAGE_STAT.reg port], linkFlds port, irqFlds (16 + port)
      24, recFlds].flatten []) ∧
  (∀ (m port : Nat) (data : Word) (s : State), Instr.wellFormed (.moduleAccess m port data) → s.takesCmd m (16 + port) →
    s.rd (PORT_MOD_CMD.BUSY port) = 0 → s.rd (PORT_CAGE_STAT.PRESENT port) = 1 →
    fieldOf data (PORT_MOD_CMD.WRITE port).hi (PORT_MOD_CMD.WRITE port).lo = 0 → ∃ t, exec (.moduleAccess m port data) s = .next t ∧
    s.framed t hostPieces [[PORT_MOD_CMD.reg port], recFlds].flatten []) ∧
  (∀ (port : Nat) (s : State), Instr.wellFormed (.moduleInsert port) → s.rd (PORT_CAGE_STAT.PRESENT port) = 0 →
    s.rd (PORT_CAGE_CTRL.MANUAL port) = 0 → s.blkUpAt (16 + port) → ∃ t, exec (.moduleInsert port) s = .next t ∧
    s.framed t [[.cageX], irqPieces].flatten [[PORT_CAGE_STAT.PRESENT port, PORT_CAGE_STAT.STATE port], irqFlds (16 + port) 22].flatten []) ∧
  (∀ (port : Nat) (s : State), Instr.wellFormed (.moduleResetRelease port) → (s.cageXAt port).step = 2 → s.since (s.cageXAt port).stepAt 10000000 →
    ∃ t, exec (.moduleResetRelease port) s = .next t ∧ s.framed t [.emitted, .cageX] [] []) ∧
  (∀ (port : Nat) (ack lowPwr : Bool) (ident rev pwrClass : Nat) (copper : Bool) (apps : List Nat) (dpMs : Nat) (s : State),
    Instr.wellFormed (.modulePoll port ack lowPwr ident rev pwrClass copper apps dpMs) → (s.cageXAt port).step = 3 → ack → lowPwr → 0x40 ≤ rev →
    rev ≤ 0x5F → pwrClass ≤ s.rd (PORT_CAGE_CTRL.PWR_MAX port) + 1 →
    ∃ t, exec (.modulePoll port ack lowPwr ident rev pwrClass copper apps dpMs) s = .next t ∧
    s.framed t [[.cageX], linkPieces].flatten [[PORT_CAGE_STAT.IDENT port, PORT_CAGE_STAT.CMIS_REV port, PORT_CAGE_STAT.PWR_CLASS port,
      PORT_CAGE_STAT.STATE port, PORT_STAT.CFG_ERR port, PORT_STAT.AN_DONE port, PORT_STAT.LT_DONE port], irqFlds (16 + port) 27, linkFlds
      port].flatten []) ∧
  (∀ (port : Nat) (ack : Bool) (k : Nat) (s : State), Instr.wellFormed (.moduleReady port ack) → (s.cageXAt port).step = 5 → ack →
    indexWhere (fun a => a == 16 * s.cfg (PORT_MODE.MODE port) + modeLanes (s.cfg (PORT_MODE.MODE port))) (s.cageXAt port).apps 0 = some k →
    k < 15 → ∃ t, exec (.moduleReady port ack) s = .next t ∧ s.framed t [.emitted, .cageX] [PORT_CAGE_STAT.APPSEL port] []) ∧
  (∀ (port : Nat) (s : State), Instr.wellFormed (.moduleDatapathActivated port) → (s.cageXAt port).step = 6 →
    ∃ t, exec (.moduleDatapathActivated port) s = .next t ∧
    s.framed t [[.cageX], linkPieces].flatten [[PORT_CAGE_STAT.STATE port], linkFlds port].flatten [])

/-- Cells, multicast and SLOT play-out. CELL_RECEIVE, CELL_REORDER_TIMEOUT, MC_SEND, SLOT_PLAYOUT and UNREACH_TIMEOUT. (09_fabric.md R334, 09_fabric.md
R343, 09_fabric.md R345, 09_fabric.md R346, 09_fabric.md R357, 09_fabric.md R366, 09_fabric.md R372, 09_fabric.md R373, 09_fabric.md R375.) -/
def Obligations.CellsAndMulticast : Prop :=
  (∀ (link : Nat) (cell : List Byte) (bad : Bool) (corrected : Nat) (c : List Nat) (n : Nat) (s : State),
    Instr.wellFormed (.cellReceive link cell (bad,corrected)) → c = cell.map BitVec.toNat → bad = false → s.linkState link = 5 → s.fabOn →
    (cellHead c).crcOk → (cellHead c).type = 1 → (cellHead c).lgen = s.rd (FLC_LINK_STAT.RX_GEN (link / 12) (link % 12)) →
    (cellHead c).bits 67 58 = s.ownId → (cellHead c).bits 57 48 ≠ s.ownId →
    s.srcEpochAt ((cellHead c).bits 57 48) = some (bits (hdrWord (c.drop 10) 6) 31 24) →
    (s.rxStrAt (rxKey ((cellHead c).bits 57 48) ((cellHead c).bits 24 24))).next = some n → 0 < ((cellHead c).bits 47 28 + 2 ^ 20 - n) % 2 ^ 20 →
    ((cellHead c).bits 47 28 + 2 ^ 20 - n) % 2 ^ 20 < 2 ^ 19 → (s.rxStrAt (rxKey ((cellHead c).bits 57 48) ((cellHead c).bits 24 24))).held = [] →
    ∃ t, exec (.cellReceive link cell (bad,corrected)) s = .next t ∧
    (t.rxStrAt (rxKey ((cellHead c).bits 57 48) ((cellHead c).bits 24 24))).held = [((cellHead c).bits 47 28, s.mono, c)] ∧
    (t.rxStrAt (rxKey ((cellHead c).bits 57 48) ((cellHead c).bits 24 24))).next = some n ∧
    t.counter 11 (16 * link + 1) = (s.counter 11 (16 * link + 1) + 1) % 2 ^ 64 ∧
    t.counter 11 (16 * link + 2) = (s.counter 11 (16 * link + 2) + corrected) % 2 ^ 64 ∧
    s.framed t [.emitted, .rxStr, .counters, .snapSaved] [] []) ∧
  (∀ (src stream : Nat) (n at_ : Nat) (c : List Nat) (s : State), Instr.wellFormed (.cellReorderTimeout src stream) → 4096 ≤ stream → n < 2 ^ 20 →
    (s.rxStrAt (rxKey src stream)).next = some n → (s.rxStrAt (rxKey src stream)).held = [((n + 1) % 2 ^ 20, at_, c)] → s.since at_ 16000 →
    ∃ t, exec (.cellReorderTimeout src stream) s = .next t ∧ (t.rxStrAt (rxKey src stream)).next = some (((n + 1) % 2 ^ 20 + 1) % 2 ^ 20) ∧
    (t.rxStrAt (rxKey src stream)).held = [] ∧
    t.slotBufAt (stream - 4096) = s.slotBufAt (stream - 4096) ++ [(s.mono, List.replicate 240 255)] ++ [(s.mono, (c.drop 10).take 240)] ∧
    s.framed t [.emitted, .rxStr, .slotBuf] [] []) ∧
  (∀ (grp : Nat) (p : Pkt) (s : State), Instr.wellFormed (.mcSend grp) → s.rd (BLK_CTRL.ENABLE 242) = 1 → s.stgMc = [p] → p.group = some grp →
    (s.bodiesAt p.body).whole → (s.bodiesAt p.body).tail = 0 → (s.tab 242 0 grp).ext.getLsbD s.ownId = false → s.ownId < 1024 →
    (s.tab 242 0 grp).ext ≠ 0 → s.fabOn → s.linksToAll (s.tab 242 0 grp).ext ≠ [] →
    ((List.range 1024).all (fun d => !(s.tab 242 0 grp).ext.getLsbD d || decide (s.mcOutAt d + mcBytes p ≤ s.mcWindow))) →
    ∃ t, exec (.mcSend grp) s = .next t ∧ t.stgMc = [] ∧ (∀ d, d < 1024 →
    (t.mcOutAt d = if (s.tab 242 0 grp).ext.getLsbD d = true then s.mcOutAt d + mcBytes p else s.mcOutAt d)) ∧
    s.onlyIn t [[.regs, .stgMc, .mcOut], streamPieces].flatten) ∧
  (∀ (chan : Nat) (c : Nat × List Nat) (r : List (Nat × List Nat)) (s : State), Instr.wellFormed (.slotPlayout chan) →
    (s.rxChan chan).f (ed 0 31 31) = 1 → (s.slotPlayAt chan).1 = none → s.slotBufAt chan = c :: r →
    s.since c.1 ((s.rxChan chan).f (ed 1 4 0) * 1000) → ∃ t, exec (.slotPlayout chan) s = .next t ∧ t.slotPlayAt chan = (some s.mono, 1, 0) ∧
    t.slotBufAt chan = r ∧ s.framed t [.emitted, .slotPlay, .slotBuf, .counters, .snapSaved, .xcRefill, .xcAdapt, .dieTx, .dieRx] [] []) ∧
  (∀ (dev : Nat) (s : State), Instr.wellFormed (.unreachTimeout dev) → dev ≠ s.ownId → s.reachable dev = false →
    s.since (s.unreachAtAt dev) (max 1 (s.rd FAB_TIMERS.UNREACH_MS) * 1000000) → ∃ t, exec (.unreachTimeout dev) s = .next t ∧ (∀ q, q < 2 ^ 19 →
    t.stgAt (stgKey dev q) = []) ∧ t.cellOpenAt (ucStream dev false) = [] ∧ t.cellOpenAt (ucStream dev true) = [] ∧
    s.onlyIn t [[.regs, .cellOpen, .qx, .recs, .reqResv, .reqs, .stg], stagePieces].flatten)

/-- A calendar exchange and the copy after a cross-connect switch. CALENDAR_EXCHANGE_STEP, CALENDAR_CA_TIMEOUT and XC_COPY_DONE. Beside these, what
CALENDAR_SWITCH, XC_SWITCH leave alone where they complete. (03_ports_and_framing.md R113, 03_ports_and_framing.md R114, 03_ports_and_framing.md
R120, 05_forwarding_tables.md, 06_pipelines.md, 07_buffers.md, 09_fabric.md, 10_memory_controllers.md, 15_start_up.md.) -/
def Obligations.CalendarExchange : Prop :=
  (∀ (group : Nat) (multiframe : Bool) (s : State), Instr.wellFormed (.calendarExchangeStep group multiframe) → (s.flxExAt group).step = 2 →
    multiframe → ∃ t, exec (.calendarExchangeStep group multiframe) s = .next t ∧ t.rd (FLX_STAT.CR_TX group) = 1 ∧
    t.rd (FLX_STAT.CA_RX group) = 0 ∧ ((t.flxExAt group).step = (if s.cfg (FLX_GROUP_CFG.CA_HANDSHAKE group) = 1 then 3 else 4)) ∧
    (t.flxExAt group).at_ = s.mono ∧ s.framed t [.emitted, .flxEx] [FLX_STAT.CR_TX group, FLX_STAT.CA_RX group] []) ∧
  (∀ (group : Nat) (multiframe : Bool) (s : State), Instr.wellFormed (.calendarExchangeStep group multiframe) → (s.flxExAt group).step = 3 →
    s.rd (FLX_STAT.CA_RX group) = 1 → s.xcArm = none → ∃ t, exec (.calendarExchangeStep group multiframe) s = .next t ∧
    t.rd (FLX_CAL_CTRL.TX_C group) = 1 - s.rd (FLX_CAL_CTRL.TX_C group) ∧ t.rd (FLX_CAL_CTRL.SWITCH group) = 0 ∧ t.rd (FLX_STAT.CR_TX group) = 0 ∧
    (t.flxExAt group).step = 0 ∧
    s.framed t [[.flxEx], linkPieces].flatten [[FLX_CAL_CTRL.TX_C group, FLX_CAL_CTRL.SWITCH group, FLX_STAT.CR_TX group], irqFlds (64 + group)
      21, (s.flxPorts group).flatMap linkFlds].flatten []) ∧
  (∀ (group : Nat) (s : State), Instr.wellFormed (.calendarCaTimeout group) → (s.flxExAt group).step = 3 → s.rd (FLX_STAT.CA_RX group) = 0 →
    s.since (s.flxExAt group).at_ 100000000 → s.xcArm = none → ∃ t, exec (.calendarCaTimeout group) s = .next t ∧
    t.rd (FLX_CAL_CTRL.SWITCH group) = 0 ∧ t.rd (FLX_STAT.CR_TX group) = 0 ∧ t.rd (FLX_CAL_CTRL.TX_C group) = s.rd (FLX_CAL_CTRL.TX_C group) ∧
    (t.flxExAt group).step = 0 ∧ (t.reg (64 + group) 0x10).getLsbD 22 ∧
    s.framed t [[.flxEx], irqPieces].flatten [[FLX_CAL_CTRL.SWITCH group, FLX_STAT.CR_TX group], irqFlds (64 + group) 22].flatten []) ∧
  (∀ (s : State), Instr.wellFormed .xcCopyDone → s.xcCopyAt.isSome → ∃ t, exec (.xcCopyDone) s = .next t ∧ (∀ i, i < 2 ^ 22 →
    t.tab? 88 0 i = s.tab? 88 1 i) ∧ t.xcCopyAt = none ∧ t.rd XC_STAT.PEND = 0 ∧
    s.framed t [.emitted, .xcCopyAt] [XC_STAT.PEND] ((s.tabIndices 88 0 ++ s.tabIndices 88 1).map (tabKey 88 0))) ∧
  (∀ (m group : Nat) (s : State), Instr.wellFormed (.calendarSwitch m group) → s.takesCmd m (64 + group) → (s.flxExAt group).step = 0 →
    ∃ t, exec (.calendarSwitch m group) s = .next t ∧ s.framed t [[.flxEx], hostPieces].flatten [[FLX_CAL_CTRL.reg group], recFlds].flatten []) ∧
  (∀ (m : Nat) (data : Word) (s : State), Instr.wellFormed (.xcSwitch m data) → s.takesCmd m 88 →
    fieldOf data XC_SWITCH.MODE.hi XC_SWITCH.MODE.lo = 1 → s.rd XC_STAT.PEND = 0 → s.tabIndices 88 0 = [] →
    ∃ t, exec (.xcSwitch m data) s = .next t ∧ s.framed t [[.xcArm], hostPieces].flatten [[XC_SWITCH.reg, XC_STAT.reg], recFlds].flatten [])

/-- A port's gate list. GATE_ENTRY_CHANGE and GATE_LIST_CHANGE. (08_queues_and_scheduling.md R317, 08_queues_and_scheduling.md R318,
08_queues_and_scheduling.md R319, 08_queues_and_scheduling.md R325.) -/
def Obligations.GateLists : Prop :=
  (∀ (port : Nat) (g : GateList) (s : State), Instr.wellFormed (.gateEntryChange port) → s.gateList port s.ns64 = some g →
    ∃ t, exec (.gateEntryChange port) s = .next t ∧ t.rd (GATE_STAT.CUR_ENTRY port) = (gateFind g.entries 0 (g.offset s.ns64)).1 % 2 ^ 10 ∧
    t.rd (GATE_STAT.STATES port) = (gateFind g.entries 0 (g.offset s.ns64)).2.1 % 2 ^ 8 ∧
    s.framed t [.emitted, .gateX, .qx, .txNow] [GATE_STAT.CUR_ENTRY port, GATE_STAT.STATES port, SCH_STAT.FIT_WAIT] []) ∧
  (∀ (port : Nat) (s : State), Instr.wellFormed (.gateEntryChange port) → s.gateList port s.ns64 = none →
    ∃ t, exec (.gateEntryChange port) s = .next t ∧ t.rd (GATE_STAT.CUR_ENTRY port) = 0 ∧ t.rd (GATE_STAT.STATES port) = 255 ∧
    s.framed t [.emitted, .gateX, .qx, .txNow] [GATE_STAT.CUR_ENTRY port, GATE_STAT.STATES port, SCH_STAT.FIT_WAIT] []) ∧
  (∀ (port : Nat) (q : GatePend) (s : State), Instr.wellFormed (.gateListChange port) → s.rd (BLK_CTRL.ENABLE (180 + port)) = 1 →
    (s.gateXAt port).pend = some q → q.at_ ≤ s.ns64 → ∃ t, exec (.gateListChange port) s = .next t ∧
    t.rd (GATE_OPER_CYCLE.VALUE port) = q.cycle % 2 ^ 32 ∧ t.rd (GATE_OPER_LEN.VALUE port) = q.list.length % 2 ^ 32 ∧
    t.rd (GATE_STAT.OPER_VALID port) = 1 ∧ (t.gateXAt port).pend = none ∧ (t.gateXAt port).base = q.base ∧
    t.rd (BLK_COMMIT_STAT.PENDING (180 + port)) = 0 ∧
    s.framed t [[.units, .gateX, .qx, .txNow, .commitLate, .actTab, .openRow, .actWait, .sruMask, .reqResv], bufferPieces].flatten
      [[GATE_OPER_CYCLE.VALUE port, GATE_OPER_LEN.VALUE port, GATE_STAT.OPER_VALID port, GATE_STAT.CUR_ENTRY port, GATE_STAT.STATES port,
      GATE_CHANGE_TIME_LO.TIME port, GATE_CHANGE_TIME_HI.TIME port, BLK_COMMIT_STAT.PENDING (180 + port), BLK_COMMIT_STAT.DONE (180 + port),
      SCH_STAT.FIT_WAIT], (List.range 8).map (GATE_MAX_OPEN.NS port), [BUF_SPILL_Q.COUNT, BUF_BLOCKED_Q.COUNT], poolFlds, mcFlds, refuseFlds,
      nrefFlds, errFlds 144, irqFlds 144 19, irqFlds 145 19 ++ irqFlds (180 + port) 2, irqFlds (180 + port) 16].flatten [(List.range
      q.list.length).map (tabKey (180 + port) 1), qpKeys].flatten)

/-- TCAM upkeep and the end of mill-wheel pacing. TCAM_SCRUB_ROW, TCAM_BANK_LOAD_DONE and MILL_SETTLE_END. Beside these, what FRAME_RECEIVE, FRAME_TAIL,
RX_FIFO_DEQUEUE, BUCKET_MOVE, BUCKET_REBALANCE, STAGING_ADMIT, STAGING_AGE_EXPIRE, SEED_WRITE, LPM_MEM_USE_WRITE leave alone where they complete.
(04_parsing_and_classification.md R157, 04_parsing_and_classification.md R159, 04_parsing_and_classification.md R160,
04_parsing_and_classification.md R161, 08_queues_and_scheduling.md R311, 08_queues_and_scheduling.md R312, 06_pipelines.md, 07_buffers.md,
03_ports_and_framing.md, 05_forwarding_tables.md, 09_fabric.md, 10_memory_controllers.md.) -/
def Obligations.TcamAndShapers : Prop :=
  (∀ (flips : List (Nat × Nat)) (uncorr : Nat) (b g : Nat) (s : State), Instr.wellFormed (.tcamScrubRow flips uncorr) → flips = [] →
    s.rd (BLK_CTRL.ENABLE 98) = 1 → s.on ASM_SCRUB_CFG.EN → s.rd PWR_STAT.THROTTLING = 0 →
    s.since s.scrubAt (max 64 (s.cfg ASM_SCRUB_CFG.INTERVAL) * 10 / 11) →
    (List.range 32).filter (fun k => bitOf (s.cfg ASM_BANK_PWR.PWR) k) = [b] → bitOf uncorr b → s.tcRowEntry b (s.scrubRow % 4096) = g →
    (s.tab (tcPage g) 0 g).on TCE.SHADOW_BAD = false → ∃ t, exec (.tcamScrubRow flips uncorr) s = .next t ∧
    (t.tab (tcPage g) 0 g).f TCE.SHADOW_BAD = 1 ∧ t.scrubRow = s.scrubRow + 1 ∧ t.scrubAt = s.mono ∧
    s.framed t [[.scrubRow, .scrubAt], errPieces].flatten [errFlds 98, irqFlds 98 17].flatten [tabKey (tcPage g) 0 g]) ∧
  (∀ (bank : Nat) (s : State), Instr.wellFormed (.tcamBankLoadDone bank) → bank < 32 → (s.tcamLoadAt bank).isSome →
    bitOf (s.cfg ASM_BANK_PWR.PWR) bank → s.rd ASM_SPARE_STAT.COPYING = 0 → ∃ t, exec (.tcamBankLoadDone bank) s = .next t ∧
    t.tcamLoadAt bank = none ∧ bitOf (t.rd ASM_BANK_STAT.READY) bank ∧
    s.framed t [.emitted, .tcamLoad]
      [⟨ASM_BANK_STAT.READY.page, ASM_BANK_STAT.READY.off, ASM_BANK_STAT.READY.lo + bank, ASM_BANK_STAT.READY.lo + bank⟩] []) ∧
  (∀ (a : Nat) (s : State), Instr.wellFormed .millSettleEnd → s.mill = [] → s.millAll.causes = 0 → s.millAll.endAt = some a → s.since a s.settleNs →
    ∃ t, exec (.millSettleEnd) s = .next t ∧ t.millAll = {} ∧ t.shpBase = s.mono ∧ (∀ k x, (k, x) ∈ s.shpX → ((t.shpXAt k).at_ = s.mono ∧
    (t.shpXAt k).p = 0 ∧ (t.shpXAt k).c = 0)) ∧ s.framed t [.emitted, .millAll, .shpBase, .shpX] [] []) ∧
  (∀ (port : Nat) (head : List Byte) (b : List Nat) (s : State), Instr.wellFormed (.frameReceive port head) → b = (head.map BitVec.toNat).take 256 →
    s.rd (PORT_STAT.LINK_UP port) = 1 → s.rxNowAt port = none → isPauseFrame b = false →
    s.rxLevel port ≤ min 502 (s.cfg PIPE_RX_LEVEL.DROP_LEVEL) * 1024 → ∃ t, exec (.frameReceive port head) s = .next t ∧
    s.framed t [irqPieces, [.bodies, .bodyNext, .counters, .pauseQ, .pauseSentAt, .rxFifo, .rxNow, .rxXoff, .snapSaved, .xoff]].flatten
      [[PORT_STAT.PFC_PAUSED port], irqFlds 112 16].flatten []) ∧
  (∀ (port : Nat) (rest : List Byte) (storeErr : Bool) (i : Nat) (a : List Nat) (s : State), Instr.wellFormed (.frameTail port rest storeErr) →
    s.rxNowAt port = some i → a = (s.bodiesAt i).bytes ++ rest.map BitVec.toNat → 64 ≤ a.length → s.rd PIPE_CT_CFG.LEN_CHECK = 0 →
    tailCause a (s.cfg (PORT_MAC_CFG.MAX_FRAME port)) (s.rd (PORT_STAT.LINK_UP port) == 1) storeErr false = 0 → (s.bodiesAt i).lost = false →
    (s.rxFifoAt port).any (fun p => p.body == i) → 0 < (s.bodiesAt i).refs → (s.bodiesAt i).lenCtrs = [] → (s.bodiesAt i).charges = [] →
    (s.bodiesAt i).shapes = [] → s.bufs.all (fun kv => kv.2.body != i) → s.cellOpen.all (fun kv => kv.2.all (fun y => y.1.body != i)) →
    ∃ t, exec (.frameTail port rest storeErr) s = .next t ∧
    s.framed t [stagePieces, ctrlPieces, [.bufs, .cellOpen, .cellSeq, .freeAges, .fresh, .inQ, .mcOut, .polX, .poolUse, .recQ, .reqResv, .reqUse,
      .reqs, .rxCut, .rxFifo, .rxNow, .rxXoff, .shpX, .sruMask, .upQ, .xbAccept, .xbGrant, .xbMoved, .xbPrivMoved, .xbT, .xbWait]].flatten
      [stageFlds, poolFlds].flatten []) ∧
  (∀ (port : Nat) (p : Pkt) (r : List Pkt) (k : Nat) (s : State), Instr.wellFormed (.rxFifoDequeue port) → s.rxFifoAt port = p :: r →
    (s.bodiesAt p.body).whole → k = s.bucketOf (parse s.prsCfg (s.bodiesAt p.body).window) port → (s.inQAt (s.bucketPipe k)).length < 256 →
    s.rd (BLK_CTRL.ENABLE (112 + (s.holder clsPipe (s.bucketPipe k)).getD 0)) = 1 → ∃ t, exec (.rxFifoDequeue port) s = .next t ∧
    s.framed t [.bucketLoad, .counters, .emitted, .inQ, .pauseQ, .pauseSentAt, .rxFifo, .rxXoff, .snapSaved, .xoff] [PORT_STAT.PFC_PAUSED port]
      []) ∧
  (∀ (bucket : Nat) (l : Nat) (s : State), Instr.wellFormed (.bucketMove bucket) → s.bucketPendAt bucket = some l → s.bucketBusy bucket = false →
    l < 16 → ∃ t, exec (.bucketMove bucket) s = .next t ∧ s.framed t [.bucketPend, .emitted] [PIPE_BUCKET.reg bucket, PIPE_DIST_STAT.reg] []) ∧
  (∀ (a b k : Nat) (s : State), Instr.wellFormed .bucketRebalance → s.rd (BLK_CTRL.ENABLE 112) = 1 → s.since s.rebalAt 10000 →
    s.rd PIPE_DIST_CFG.AUTO = 1 → argMax s.pipeLoad ((List.range 16).filter (fun l => (s.holder clsPipe l).isSome)) = some a →
    argMax (fun l => 2 ^ 64 - s.pipeLoad l) ((List.range 16).filter (fun l => (s.holder clsPipe l).isSome)) = some b →
    s.rd PIPE_DIST_CFG.IMBAL * 220 < s.pipeLoad a - s.pipeLoad b →
    argMax s.bucketLoadAt ((List.range 256).filter (fun k => s.bucketPipe k == a && 0 < s.bucketLoadAt k)) = some k → s.bucketBusy k = false →
    ∃ t, exec (.bucketRebalance) s = .next t ∧
    s.framed t [.bucketPend, .bucketLoad, .rebalAt, .emitted] [PIPE_BUCKET.reg k, PIPE_DIST_STAT.reg] []) ∧
  (∀ (src : Nat) (n : Nat) (p : Pkt) (s : State), Instr.wellFormed (.stagingAdmit src) → src < 17 → s.linkClear 0 →
    s.readyToCross (s.upQAt src) [] 0 = some (n, p) → ∃ t, exec (.stagingAdmit src) s = .next t ∧
    s.framed t [stagePieces, [.dieRx, .dieTx, .hostQ, .mepX, .mergeQ, .reqResv, .rptX, .stg, .stgDrops, .stgMc, .svcNtf, .svcRx, .upQ]].flatten
      [stageFlds, refuseFlds, [SVC_NTF_STAT.reg], irqFlds 13 16, irqFlds 13 17].flatten [qpKeys, (List.range 4096).map (tabKey 13 1)].flatten) ∧
  (∀ (k : Nat) (s : State), Instr.wellFormed .stagingAgeExpire → s.fatalLatch = false → ∃ t, exec (.stagingAgeExpire) s = .next t ∧
    s.framed t [stagePieces, ctrlPieces, [.cellOpen, .cellSeq, .hostQ, .mcOut, .mergeQ, .reqResv, .reqs, .rptX, .stg, .stgDrops, .stgMc, .svcRx,
      .xbAccept, .xbGrant, .xbMoved, .xbPrivMoved, .xbT, .xbWait]].flatten [stageFlds, refuseFlds].flatten qpKeys) ∧
  (∀ (m page off : Nat) (data : Word) (d : RegDecl) (s : State), Instr.wellFormed (.seedWrite m page off data) → s.takesWrite m page →
    (page, off) ∈ [(100, 0x220), (101, 0x244), (102, 0x230)] → s.seedFree page → declAt page off = some d →
    ∃ t, exec (.seedWrite m page off data) s = .next t ∧ s.framed t hostPieces [[⟨page, off, 31, 0⟩], recFlds].flatten []) ∧
  (∀ (m off : Nat) (data : Word) (b : Nat) (s : State), Instr.wellFormed (.lpmMemUseWrite m off data) → s.takesWrite m 100 → off = 0x1000 + 4 * b →
    b < 64 → s.memUseOk b (data.toNat % 16) → ∃ t, exec (.lpmMemUseWrite m off data) s = .next t ∧
    s.framed t hostPieces [[LPM_MEM_USE.USE b], recFlds].flatten [])

/-- Batches leave and segments return. SPILL_BATCH, SPILL_WRITE_ACK and SEGMENT_READ_DONE. (07_buffers.md R265, 07_buffers.md R266, 07_buffers.md R267,
07_buffers.md R268, 07_buffers.md R269.) -/
def Obligations.Spilling : Prop :=
  (∀ (queue : Nat) (hdr : Nat) (accs : List Nat) (p : Pkt) (s : State), Instr.wellFormed (.spillBatch queue (hdr,accs)) →
    s.rd (BLK_CTRL.ENABLE 145) = 1 → (s.qxAt queue).spill → (s.qxAt queue).writing = none → s.frontBatch (s.qxAt queue).tail 0 0 = ([p], true) →
    s.actsFit (.andThen (headerAccess 2 hdr) (each accs (memAccess 2 0 false))) → s.spillTarget queue (s.sumBytes [p]) [p] = some 2 →
    (s.bufsAt p.buf).held ≤ 1 → ∃ t, exec (.spillBatch queue (hdr,accs)) s = .next t ∧
    (t.qxAt queue).writing = some { tier := 2, n := 1, seg := [(p, (s.bufsAt p.buf).size, none)], hdr := hdr } ∧ (t.qxAt queue).blocked = false ∧
    (t.qxAt queue).tail = (s.qxAt queue).tail ∧
    s.onlyIn t [irqPieces, rowPieces, [.freeAges, .grnDemand, .poolUse, .qx, .regs, .reqUse, .segNext, .sruMask, .twins]].flatten) ∧
  (∀ (queue : Nat) (w : Batch) (s : State), Instr.wellFormed (.spillWriteAck queue) → (s.qxAt queue).writing = some w → w.tier = 2 →
    (s.qProf queue).f PROF.HEAD_KEEP = 0 → ∃ t, exec (.spillWriteAck queue) s = .next t ∧ t.segNext = s.segNext + 1 ∧
    (t.qxAt queue).writing = none ∧ (t.qxAt queue).tail = (s.qxAt queue).tail.drop w.n ∧
    (t.qxAt queue).hbm = (s.qxAt queue).hbm + w.seg.foldl (fun a y => a + y.2.1) 0 ∧
    s.onlyIn t [bufferPieces, [.actTab, .actWait, .grnIn, .hbmIn, .openRow, .segNext, .sruMask, .starves]].flatten) ∧
  (∀ (queue seg hdrUe : Nat) (desc payload ce ue accs : List Nat) (a g : Seg) (s : State),
    Instr.wellFormed (.segmentReadDone queue seg hdrUe desc payload ce ue accs) → (s.qxAt queue).mid = [a, g] → a.read = false →
    a.reading = false → g.reading → g.read = false → a.id ≠ g.id → seg = 0 → hdrUe = 0 → desc = [] → ce = [] → ue = [] →
    s.actsFit (.andThen (headerRead g.tier g.hdr hdrUe) (each accs (memAccess g.tier 1 false))) → (s.qProf queue).f PROF.HEAD_KEEP = 0 →
    ∃ t, exec (.segmentReadDone queue seg hdrUe desc payload ce ue accs) s = .next t ∧
    (t.qxAt queue).mid = [a, { g with read := true, errs := (0, [], payload) }] ∧
    s.onlyIn t [bufferPieces, [.actTab, .actWait, .bodyNext, .bufNext, .grnOut, .hbmOut, .memX, .openRow, .sruMask, .starves, .tagNext]].flatten)

/-- Modules are read, targets train and come into service. SPD_READ, SPD_CMD_DONE, MODULE_TEMP_POLL, MEM_TRAINING_DONE, CONTROL_AREA_FILLED and
REGION_IDLE_OFFER. Beside these, what SPD_CMD, GRANARY_REENABLE leave alone where they complete. (07_buffers.md R256, 10_memory_controllers.md R385,
10_memory_controllers.md R389, 10_memory_controllers.md R390, 10_memory_controllers.md R391, 10_memory_controllers.md R392, 10_memory_controllers.md
R399, 10_memory_controllers.md R400, 03_ports_and_framing.md, 05_forwarding_tables.md, 06_pipelines.md, 09_fabric.md.) -/
def Obligations.MemoryStartAndModules : Prop :=
  (∀ (ch : Nat) (slot0 slot1 : List Nat) (d : Nat) (s : State), Instr.wellFormed (.spdRead ch slot0 slot1) → s.rd (DDRC_STAT.STATE ch) = 1 →
    (s.memXAt (ch + 4)).ident = false → d < 16 → d ≠ ch → (s.memXAt (d + 4)).ident = false → slot0 ≠ [] →
    ∃ t, exec (.spdRead ch slot0 slot1) s = .next t ∧ (t.memXAt (ch + 4)).ident ∧ (t.memXAt (ch + 4)).spd0 = slot0 ∧
    (t.memXAt (ch + 4)).spd1 = slot1 ∧
    t.rd (DDRC_MOD.CAP_GIB ch 0) = slot0.getD 5 0 % 2 ^ ((DDRC_MOD.CAP_GIB ch 0).hi + 1 - (DDRC_MOD.CAP_GIB ch 0).lo) ∧
    t.rd (DDRC_STAT.MODULES ch) = (t.modulesOf ch).length ∧
    s.framed t [.emitted, .memX] ([DDRC_MOD.TYPE ch 0, DDRC_MOD.RANKS ch 0, DDRC_MOD.CAP_GIB ch 0, DDRC_MOD.SERIAL ch 0, DDRC_MOD.MFR_ID ch 0,
      DDRC_MOD.DRFM ch 0, DDRC_MOD.PASR ch 0, DDRC_MOD.TYPE ch 1, DDRC_MOD.RANKS ch 1, DDRC_MOD.CAP_GIB ch 1, DDRC_MOD.SERIAL ch 1,
      DDRC_MOD.MFR_ID ch 1, DDRC_MOD.DRFM ch 1, DDRC_MOD.PASR ch 1, DDRC_STAT.MODULES ch, tgtState (ch + 4), tgtCause (ch + 4)]) []) ∧
  (∀ (ch : Nat) (ack : Bool) (data : Nat) (s : State), Instr.wellFormed (.spdCmdDone ch ack data) → s.rd (DDRC_SPD_CMD.BUSY ch) = 1 → ack →
    ∃ t, exec (.spdCmdDone ch ack data) s = .next t ∧ t.rd (DDRC_SPD_CMD.BUSY ch) = 0 ∧ t.rd (DDRC_SPD_CMD.ERR ch) = 0 ∧
    t.rd (DDRC_SPD_CMD.DATA ch) = data % 2 ^ ((DDRC_SPD_CMD.DATA ch).hi + 1 - (DDRC_SPD_CMD.DATA ch).lo) ∧
    s.framed t [.emitted] [DDRC_SPD_CMD.BUSY ch, DDRC_SPD_CMD.ERR ch, DDRC_SPD_CMD.DATA ch] []) ∧
  (∀ (ch : Nat) (t0 t1 : Int) (s : State), Instr.wellFormed (.moduleTempPoll ch t0 t1) → s.memReady (ch + 4) →
    s.since (s.memXAt (ch + 4)).tempAt 100000000 → s.rd (DDRC_MOD.TYPE ch 0) ≠ 0 → ∃ t, exec (.moduleTempPoll ch t0 t1) s = .next t ∧
    t.rd (DDRC_MOD.TEMP_C ch 0) = (t0 % 256).toNat ∧ (t.memXAt (ch + 4)).tempAt = s.mono ∧
    s.framed t [[.memX], errPieces].flatten [[DDRC_MOD.TEMP_C ch 0, DDRC_MOD.TEMP_C ch 1, DDRC_STAT.THROTTLED ch], errFlds (152 + ch), irqFlds
      (152 + ch) 21].flatten []) ∧
  (∀ (target : Nat) (ok : Bool) (lanes : List Nat) (s : State), Instr.wellFormed (.memTrainingDone target ok lanes) →
    s.rd (tgtState target) = stTraining target → (s.memXAt target).trained = false → (s.memXAt target).failing ≠ 4 → ok → lanes = [] →
    ∃ t, exec (.memTrainingDone target ok lanes) s = .next t ∧ (t.memXAt target).trained ∧ s.framed t [.emitted, .memX] [] []) ∧
  (∀ (granary : Bool) (k : Nat) (s : State), Instr.wellFormed (.controlAreaFilled granary) → granary = false → s.tier2On = false →
    s.tier2Rebuild = none → stackTargets.filter (fun t => s.rd (tgtState t) == stTraining t) = [k] → (s.memXAt k).trained →
    ∃ t, exec (.controlAreaFilled granary) s = .next t ∧ t.memReady k ∧ t.tier2On ∧ (t.memXAt k).pauseAt = s.mono ∧
    s.onlyIn t [[.regs, .memX, .poolUse, .reqUse, .tier2On], rowPieces, irqPieces].flatten) ∧
  (∀ (sru : Nat) (u : Nat) (s : State), Instr.wellFormed (.regionIdleOffer sru) → s.pasrOn → s.rd GRN_STAT.STATE = 2 → u = s.rd DDRC_SHARE.SRU_GIB →
    0 < u → (sru + 1) * u ≤ s.rd GRN_CAP.BUF_REGIONS → s.sruMask.contains sru = false →
    regionsIn (s.freeAges.filter (fun x => s.since x.2.1 1000000000)) sru = u → s.rd GRN_STAT.IDLE_REGIONS + u < 2 ^ 16 →
    ∃ t, exec (.regionIdleOffer sru) s = .next t ∧ t.rd GRN_STAT.IDLE_REGIONS = s.rd GRN_STAT.IDLE_REGIONS + u ∧ t.sruMask = s.sruMask ++ [sru] ∧
    s.framed t [.emitted, .sruMask] [GRN_STAT.IDLE_REGIONS] []) ∧
  (∀ (m ch : Nat) (data : Word) (s : State), Instr.wellFormed (.spdCmd m ch data) → s.takesCmd m (152 + ch) → s.rd (DDRC_SPD_CMD.BUSY ch) = 0 →
    ∃ t, exec (.spdCmd m ch data) s = .next t ∧ s.framed t hostPieces [[DDRC_SPD_CMD.reg ch], recFlds].flatten []) ∧
  (∀ (m : Nat) (data : Word) (s : State), Instr.wellFormed (.granaryReenable m data) → s.takesWrite m 146 → data.getLsbD 31 → s.rd GRN_CFG.EN = 0 →
    s.rd GRN_STAT.STATE = 3 → ∃ t, exec (.granaryReenable m data) s = .next t ∧
    s.framed t [[.grnBy, .memX, .sruMask], hostPieces].flatten [[GRN_CFG.reg, GRN_STAT.reg], (List.range 16).flatMap (fun c => [tgtState (c + 4),
      tgtCause (c + 4), DDRC_STAT.reg c]), recFlds].flatten [])

/-- Retraining, scrubbing, row repair and leaving service. RETRAIN_PAUSE, RETRAIN_REPEAT, ACT_TABLE_CLEAR, MEM_SCRUB, ROW_REPAIR_DONE,
MEM_OUT_OF_SERVICE and TIER2_REBUILD_DONE. (07_buffers.md R286, 10_memory_controllers.md R401, 10_memory_controllers.md R402,
10_memory_controllers.md R404, 10_memory_controllers.md R405, 10_memory_controllers.md R407, 10_memory_controllers.md R409, 10_memory_controllers.md
R410, 10_memory_controllers.md R411, 10_memory_controllers.md R414.) -/
def Obligations.MemoryUpkeep : Prop :=
  (∀ (target : Nat) (drift : Bool) (lanes : List Nat) (s : State), Instr.wellFormed (.retrainPause target drift lanes) → s.memReady target →
    s.pauseFree target → s.since (s.memXAt target).pauseAt (max 1 (s.cfg (tgtRetrainMs target)) * 1000000) → drift = false → lanes = [] →
    ∃ t, exec (.retrainPause target drift lanes) s = .next t ∧ (t.memXAt target).pauseAt = s.mono ∧ (t.memXAt target).drifts = 0 ∧
    (t.memXAt target).driftAt = none ∧ s.framed t [.emitted, .memX] [] []) ∧
  (∀ (target : Nat) (drift : Bool) (a : Nat) (s : State), Instr.wellFormed (.retrainRepeat target drift) → s.memReady target →
    isStack target = false → s.pauseFree target → (s.memXAt target).driftAt = some a → s.since a 10000 → drift → (s.memXAt target).drifts < 2 →
    ∃ t, exec (.retrainRepeat target drift) s = .next t ∧ (t.memXAt target).drifts = (s.memXAt target).drifts + 1 ∧
    (t.memXAt target).driftAt = some s.mono ∧ (t.reg (tgtPage target) 0x10).getLsbD 20 ∧
    s.framed t [[.memX], irqPieces].flatten (irqFlds (tgtPage target) 20) []) ∧
  (∀ (target : Nat) (drift : Bool) (a : Nat) (s : State), Instr.wellFormed (.retrainRepeat target drift) → s.memReady target → isStack target →
    s.pauseFree target → (s.memXAt target).driftAt = some a → s.since a 10000 → ∃ t, exec (.retrainRepeat target drift) s = .next t ∧
    t.fresh = s.fresh + 1 ∧ s.onlyIn t [recPieces, [.cryPend, .cryQueue, .fresh, .memX, .pegDue, .pegs, .regs]].flatten) ∧
  (∀ (s : State), Instr.wellFormed .actTableClear → s.since s.actAt 32000000 → s.actWait = [] → ∃ t, exec (.actTableClear) s = .next t ∧
    t.actAt = s.mono ∧ (∀ k, t.actTabAt k = {}) ∧ s.framed t [.emitted, .actAt, .actTab] [] []) ∧
  (∀ (tier cls c : Nat) (s : State), Instr.wellFormed .actTableClear → s.since s.actAt 32000000 → s.actWait = [(tier, cls, c)] →
    ∃ t, exec (.actTableClear) s = .next t ∧ t.actAt = s.mono ∧ t.actWait = [] ∧ s.framed t [[.emitted, .actAt], rowPieces].flatten nrefFlds []) ∧
  (∀ (target : Nat) (ce ue : List Nat) (c : Nat) (s : State), Instr.wellFormed (.memScrub target ce ue) → s.memReady target →
    s.rd PWR_STAT.THROTTLING = 0 → s.since (s.memXAt target).scrubAt (max 1 (s.cfg (tgtScrubH target)) * 3600000000000) → ce = [c] → ue = [] →
    (s.memXAt target).drams = [] → ∃ t, exec (.memScrub target ce ue) s = .next t ∧ (t.memXAt target).scrubAt = s.mono ∧
    t.rd (tgtCe target) = satAdd 32 (s.rd (tgtCe target)) 1 ∧ (t.reg (tgtPage target) 0x10).getLsbD 16 ∧
    s.framed t [[.memX], rowPieces, errPieces].flatten [[tgtCe target], nrefFlds, errFlds (tgtPage target), irqFlds (tgtPage target) 16].flatten
      []) ∧
  (∀ (target : Nat) (row : Nat) (r : List Nat) (s : State), Instr.wellFormed (.rowRepairDone target) → (s.memXAt target).repairing = row :: r →
    ∃ t, exec (.rowRepairDone target) s = .next t ∧ (t.memXAt target).repairing = r ∧
    (t.memXAt target).repaired = (s.memXAt target).repaired ++ [row] ∧ t.rd (tgtRepairs target) = satAdd 32 (s.rd (tgtRepairs target)) 1 ∧
    s.onlyIn t [recPieces, [.cryPend, .cryQueue, .memX, .pegDue, .pegs, .regs]].flatten) ∧
  (∀ (target : Nat) (s : State), Instr.wellFormed (.memOutOfService target) → isStack target → s.memReady target → (s.memXAt target).failing ≠ 0 →
    (s.memXAt target).failing < 8 → ∃ t, exec (.memOutOfService target) s = .next t ∧ t.rd (tgtState target) = 3 ∧
    t.rd (tgtCause target) = (s.memXAt target).failing ∧ (t.memXAt target).failing = 0 ∧ (t.memXAt target).trained = false ∧ t.tier2On = false ∧
    s.onlyIn t [bufferPieces, [.actTab, .actWait, .flowX, .jnlBacklog, .memX, .openRow, .recX, .sruMask, .starves, .tier2On,
      .tier2Rebuild]].flatten) ∧
  (∀ (s : State), Instr.wellFormed .tier2RebuildDone → s.tier2Rebuild.isSome → ∃ t, exec (.tier2RebuildDone) s = .next t ∧ t.tier2Rebuild = none ∧
    t.tier2On = (s.readyStacks != 0) ∧ t.rd HBMC_IL_STAT.STACKS = s.readyStacks ∧
    s.framed t [.emitted, .tier2Rebuild, .tier2On] [HBMC_IL_STAT.STACKS, HBMC_IL_STAT.GRAIN_USED] [])

/-- Learner, sweeper, filter rebuild and stash of the keyed tables. LEARNER_APPLY, AGE_SWEEP, L2B_NTF_POP, LPM_REBUILD_START, LPM_REBUILD_DONE and
STASH_REINSERT. Beside these, what INGRESS_PASS, RECIRC_PASS, EGRESS_PASS, TX_SEQ_RELEASE, TX_GAP_TIMEOUT, FRAME_TRANSMIT leave alone where they
complete. (02_register_pages.md R51, 05_forwarding_tables.md R178, 05_forwarding_tables.md R193, 05_forwarding_tables.md R210,
05_forwarding_tables.md R214, 05_forwarding_tables.md R215, 05_forwarding_tables.md R218, 04_parsing_and_classification.md, 06_pipelines.md.) -/
def Obligations.Learning : Prop :=
  (∀ (pipe : Nat) (e : LearnEvt) (r : List LearnEvt) (i : Nat) (old new : Entry) (s : State), Instr.wellFormed (.learnerApply pipe) →
    s.learnQAt pipe = e :: r → e.gen = s.curGen clsPipe e.logical → s.findMac e.bd e.mac = some (i, old) → e.move → old.on MAC.STATIC = false →
    old.f MAC.LIF ≠ e.lif → new = (old.put MAC.LIF e.lif).put MAC.PORT e.port →
    s.jnlAccepts (tableRecord (0x4000 + pipe) 102 0 3 i (entryAux (some new)) s) → ∃ t, exec (.learnerApply pipe) s = .next t ∧
    t.tab? 102 0 i = some new ∧ t.learnQAt pipe = r ∧
    s.framed t [[.learnQ, .l2bNtf], recPieces].flatten [[L2B_NTF_STAT.OVERFLOW], irqFlds 102 16, irqFlds 102 17, recFlds].flatten [tabKey 102 0
      i]) ∧
  (∀ (j : Nat) (e : Entry) (s : State), Instr.wellFormed .ageSweep → s.rd (BLK_CTRL.ENABLE 102) = 1 → j < 2048 → s.rd L2B_AGE_CFG.EN = 1 →
    s.since s.sweepAt (min 1000000 (max 1 (s.rd L2B_AGE_CFG.PERIOD)) * 1000000000 / s.sweepPlaces) → s.sweepPos + 1 = s.sweepPlaces →
    s.jnlHeld.any (fun x => x.what == 5) = false → s.tab? 102 0 (0x3FF800 + j) = some e → e.on MAC.STATIC = false → e.on MAC.HIT →
    ∃ t, exec (.ageSweep) s = .next t ∧ t.tab? 102 0 (0x3FF800 + j) = some ((e.put MAC.HIT 0).put MAC.STALE 0) ∧ t.sweepPos = 0 ∧
    t.sweepAt = s.mono ∧
    s.framed t [[.sweepPos, .sweepAt, .l2bNtf], recPieces].flatten [[L2B_NTF_STAT.OVERFLOW], irqFlds 102 16, irqFlds 102 17, recFlds].flatten
      ((List.range 2048).map (fun j => tabKey 102 0 (0x3FF800 + j)))) ∧
  (∀ (m : Nat) (s : State), Instr.wellFormed (.l2bNtfPop m) → s.serves m 102 → (s.hiLatchAt (pairKey m 102)).all (fun x => x.1 != 0x22C) →
    ∃ t, exec (.l2bNtfPop m) s = .next t ∧ t.l2bNtf = s.l2bNtf.drop 1 ∧ .readData m 102 0x22C (s.shows 102 0x22C).toNat false ∈ t.emitted ∧
    s.framed t [.emitted, .dieTx, .dieRx, .l2bNtf] [] []) ∧
  (∀ (v6 : Bool) (f : Fam) (s : State), Instr.wellFormed (.lpmRebuildStart v6) → (f = (if v6 = true then .lpm6 else .lpm4)) →
    s.rd (BLK_CTRL.ENABLE 100) = 1 → s.rd (buildOf f) = 0 → s.rebuildDue f → ∃ t, exec (.lpmRebuildStart v6) s = .next t ∧ t.rd (buildOf f) = 1 ∧
    t.rd (rebuildOf f) = 0 ∧ t.lpmDelsAt f.code = 0 ∧ t.lpmBuildAt f.code = (s.famEntries f).map (fun x => f.keyOf x.2.2) ∧
    s.framed t [.emitted, .lpmDels, .lpmBuild] [rebuildOf f, buildOf f] []) ∧
  (∀ (v6 : Bool) (f : Fam) (s : State), Instr.wellFormed (.lpmRebuildDone v6) → (f = (if v6 = true then .lpm6 else .lpm4)) → s.rd (buildOf f) = 1 →
    ∃ t, exec (.lpmRebuildDone v6) s = .next t ∧ t.rd (buildOf f) = 0 ∧ t.lpmKeysAt f.code = s.lpmBuildAt f.code ∧
    t.rd (loadOf f) = (s.lpmBuildAt f.code).length % 2 ^ ((loadOf f).hi + 1 - (loadOf f).lo) ∧ (t.reg 100 0x10).getLsbD 16 ∧
    s.framed t [[.lpmKeys, .lpmBuild], irqPieces].flatten [[loadOf f, buildOf f], irqFlds 100 16].flatten ((s.tabIndices 100 50).map (tabKey 100
      50))) ∧
  (∀ (family index : Nat) (f : Fam) (x y : Nat × Nat) (e : Entry) (s : State), Instr.wellFormed (.stashReinsert family index) →
    famOf family = some f → x = s.slotAt f true 0 index → s.inSlot f x = some e → (s.candidates f (f.keyOf e)).findSome? (s.freeSlot f) = some y →
    ∃ t, exec (.stashReinsert family index) s = .next t ∧ t.inSlot f y = some e ∧ t.inSlot f x = none ∧
    s.framed t [.emitted] [] [tabKey f.page x.1 x.2, tabKey f.page y.1 y.2]) ∧
  (∀ (pipe : Nat) (flips : List (Nat × Nat)) (ctrs : List Nat) (p : Pkt) (r : List Pkt) (s : State),
    Instr.wellFormed (.ingressPass pipe flips ctrs) → s.pipeActive pipe → s.leaving clsPipe pipe = false → s.recircTurn pipe = false →
    s.inQAt (s.unit clsPipe pipe UNIT.LOGICAL) = p :: r → ∃ t, exec (.ingressPass pipe flips ctrs) s = .next t ∧
    s.onlyIn t [passPieces, [.dumpMemErrs, .hostQ, .inQ, .l2bNtf, .learnQ, .recQ, .rptX, .slotX]].flatten) ∧
  (∀ (pipe : Nat) (p : Pkt) (r : List Pkt) (s : State), Instr.wellFormed (.ingressPass pipe [] []) → s.fatalLatch → s.pipeActive pipe →
    s.leaving clsPipe pipe = false → s.recircTurn pipe = false → s.inQAt (s.unit clsPipe pipe UNIT.LOGICAL) = p :: r →
    1 < (s.bodiesAt p.body).refs → ∃ t, exec (.ingressPass pipe [] []) s = .next t ∧ s.framed t [.inQ, .slotX, .bodies, .emitted] [] []) ∧
  (∀ (pipe : Nat) (flips : List (Nat × Nat)) (p : Pkt) (k : Look) (r : List (Pkt × Look)) (s : State), Instr.wellFormed (.recircPass pipe flips) →
    s.pipeActive pipe → s.recircTurn pipe → s.recQAt pipe = (p, k) :: r → ∃ t, exec (.recircPass pipe flips) s = .next t ∧
    s.onlyIn t [passPieces, [.hostQ, .l2bNtf, .learnQ, .recQ, .rptX, .slotX]].flatten) ∧
  (∀ (pipe : Nat) (flips : List (Nat × Nat)) (p : Pkt) (r : List Pkt) (s : State), Instr.wellFormed (.egressPass pipe flips) → s.pipeActive pipe →
    s.egQAt pipe = p :: r → (s.egView p).ready → (s.txHoldAt p.dport).length < 256 → ∃ t, exec (.egressPass pipe flips) s = .next t ∧
    s.framed t [errPieces, [.bodies, .counters, .egQ, .fresh, .polX, .shpX, .smpMs, .smpSel, .smpSeq, .snapSaved, .tcFlip, .traceBuf, .trcCount,
      .trcMs, .txHold, .upQ]].flatten [passFlds, mcFlds].flatten []) ∧
  (∀ (port : Nat) (p : Pkt) (s : State), Instr.wellFormed (.txSeqRelease port) → s.txHoldAt port = [p] → p.txSeq = s.txExpAt port → p.kind ≠ 5 →
    ∃ t, exec (.txSeqRelease port) s = .next t ∧ s.framed t [.txHold, .macQ, .txExp, .emitted] [] []) ∧
  (∀ (port : Nat) (p : Pkt) (s : State), Instr.wellFormed (.txGapTimeout port) → s.txHoldAt port = [p] → seqAfter p.txSeq (s.txExpAt port) →
    s.since p.stamp 4000 → ∃ t, exec (.txGapTimeout port) s = .next t ∧
    s.framed t [[.txExp, .counters, .snapSaved], irqPieces].flatten (irqFlds 112 18) []) ∧
  (∀ (port : Nat) (underrun : Bool) (p : Pkt) (r : List Pkt) (b : List Nat) (s : State), Instr.wellFormed (.frameTransmit port underrun) →
    s.rd (PORT_STAT.LINK_UP port) = 1 → s.fatalLatch = false → s.txNowAt port = none → s.macQAt port = p :: r → (s.bodiesAt p.body).whole →
    (s.bodiesAt p.body).tail = 0 → bitOf (s.gateStates port s.ns64) (p.queue % 8) →
    b = (s.ptpSend port (s.stamped p) (s.pktBytes (s.stamped p))).1 → ∃ t, exec (.frameTransmit port underrun) s = .next t ∧
    s.framed t [irqPieces, [.bodies, .counters, .macQ, .pauseQ, .snapSaved, .txNow]].flatten [[GATE_OVERRUN.COUNT port], mcFlds, irqFlds (180 +
      port) 18].flatten [])

/-- BFD sessions transmit, receive and fail. BFD_TX, BFD_RX, BFD_DETECT_EXPIRE, SERVICE_CORE_PACKET and SVC_NTF_POP. (12_services.md R437,
12_services.md R439, 12_services.md R441, 12_services.md R445, 12_services.md R446, 12_services.md R447.) -/
def Obligations.BfdSessions : Prop :=
  (∀ (sess : Nat) (dev port qb n : Nat) (s : State), Instr.wellFormed (.bfdTx sess) → s.rd (BLK_CTRL.ENABLE 13) = 1 → s.rd SVC_CFG.BFD_EN = 1 →
    (s.tab 13 0 sess).on BFD.VALID → (s.bfdXAt sess).due ≤ s.mono → s.resolveNh ((s.tab 13 0 sess).f BFD.NH_ID) = .unicast dev port qb n →
    (s.stgRefuses
      { body := 0, kind := 3, srcDev := s.ownId, dev := dev, dport := port, queue := (qb + (s.tab 13 0 sess).f BFD.TX_TC) % 2 ^ 19, nh := some n, tc := (s.tab 13 0 sess).f BFD.TX_TC, lenSrc := 1, frameLen := (s.bfdPacket sess).length + 4, declMax := (s.bfdPacket sess).length + 4 }) = none →
    ∃ t, exec (.bfdTx sess) s = .next t ∧ (t.bfdXAt sess).fin = false ∧
    s.mono + bfdTxUs (s.tab 13 0 sess) (s.bfdXAt sess) * 750 ≤ (t.bfdXAt sess).due ∧
    (t.bfdXAt sess).due ≤ s.mono + bfdTxUs (s.tab 13 0 sess) (s.bfdXAt sess) * 1000 ∧
    t.counter 12 (4 * sess) = (s.counter 12 (4 * sess) + 1) % 2 ^ 64 ∧
    s.onlyIn t [stagePieces, [.bfdX, .bodyNext, .fresh, .regs, .reqResv, .stg, .stgMc]].flatten) ∧
  (∀ (sess : Nat) (a : Nat) (s : State), Instr.wellFormed (.bfdDetectExpire sess) → s.rd SVC_CFG.BFD_EN = 1 → (s.tab 13 0 sess).on BFD.VALID →
    (s.tab 13 0 sess).f BFD.STATE = 3 → (s.bfdXAt sess).rxAt = some a → (s.bfdXAt sess).rMult ≠ 0 →
    s.since a (bfdDetectUs (s.tab 13 0 sess) (s.bfdXAt sess) * 1000) → (s.tab 13 0 sess).on BFD.DOWN_ACT = false →
    ∃ t, exec (.bfdDetectExpire sess) s = .next t ∧ (t.tab 13 0 sess).f BFD.STATE = 1 ∧ (t.tab 13 0 sess).f BFD.LOCAL_DIAG = 1 ∧
    (t.tab 13 0 sess).f BFD.REMOTE_DISC = 0 ∧ (t.bfdXAt sess).rxAt = none ∧
    t.counter 12 (4 * sess + 2) = (s.counter 12 (4 * sess + 2) + 1) % 2 ^ 64 ∧
    s.framed t [[.bfdX, .svcNtf, .counters, .snapSaved], irqPieces].flatten [[SVC_NTF_STAT.LEVEL, SVC_NTF_STAT.OVERFLOW], irqFlds 13 16, irqFlds
      13 17].flatten [tabKey 13 0 sess]) ∧
  (∀ (p : Pkt) (i : Nat) (s : State), Instr.wellFormed .bfdRx → s.svcRx = [p] → p.app = 4 → (s.bodiesAt p.body).whole →
    (s.bodiesAt p.body).tail = 0 → s.bfdBad p (s.appBytes p 24) = false → (bfdMsg (s.appBytes p 24)).yours ≠ 0 →
    i = (bfdMsg (s.appBytes p 24)).yours % 2 ^ 14 → bfdConfirms (s.tab 13 0 i) (s.bfdXAt i) (bfdMsg (s.appBytes p 24)) →
    (s.tab 13 0 i).on BFD.ADMIN_DOWN = false → ∃ t, exec (.bfdRx) s = .next t ∧ t.svcRx = [] ∧ (t.bfdXAt i).rxAt = some s.mono ∧
    t.counter 12 (4 * i + 1) = (s.counter 12 (4 * i + 1) + 1) % 2 ^ 64 ∧
    s.onlyIn t [stagePieces, [.bfdX, .regs, .reqResv, .stg, .stgMc, .svcNtf, .svcRx, .tables]].flatten) ∧
  (∀ (core : Nat) (k i : Nat) (p : Pkt) (r : List Pkt) (s : State), Instr.wellFormed (.serviceCorePacket core) →
    (s.coreServes core).find? (fun k => !(s.svcQAt k).isEmpty) = some k → s.svcQAt k = p :: r → p.app = 4 → (bfdMsg (s.appBytes p 75)).yours ≠ 0 →
    i = (bfdMsg (s.appBytes p 75)).yours % 2 ^ 14 → (s.tab 13 0 i).on BFD.VALID → s.rd SVC_CFG.BFD_EN = 1 →
    ∃ t, exec (.serviceCorePacket core) s = .next t ∧ t.svcQAt k = r ∧ t.counter 12 (4 * i + 1) = (s.counter 12 (4 * i + 1) + 1) % 2 ^ 64 ∧
    s.onlyIn t [countPieces, [.bfdX, .bodies, .flowX, .mepX, .svcNtf, .svcQ, .tables]].flatten) ∧
  (∀ (m : Nat) (s : State), Instr.wellFormed (.svcNtfPop m) → s.serves m 13 → (s.hiLatchAt (pairKey m 13)).all (fun x => x.1 != 0x22C) →
    ∃ t, exec (.svcNtfPop m) s = .next t ∧ t.svcNtf = s.svcNtf.drop 1 ∧ .readData m 13 0x22C (s.shows 13 0x22C).toNat false ∈ t.emitted ∧
    s.framed t [.emitted, .dieTx, .dieRx, .svcNtf] [] [])

/-- A unit's epoch, its error, its takeover and the bank copy. EPOCH_BOUNDARY, UNIT_ERROR_REPORT, FAULT_TAKEOVER, TAKEOVER_LOAD_DONE, LKUP_COPY_DONE and
PIPE_HOLD_SPREAD. Beside these, what RPR_NOP, RPR_HANDOVER, RPR_TEST, RPR_RETIRE, RPR_UNRETIRE, RPR_REVERT leave alone where they complete.
(16_repair_and_redundancy.md R553, 16_repair_and_redundancy.md R555, 16_repair_and_redundancy.md R556, 16_repair_and_redundancy.md R557,
16_repair_and_redundancy.md R559, 16_repair_and_redundancy.md R563, 16_repair_and_redundancy.md R564, 16_repair_and_redundancy.md R570,
16_repair_and_redundancy.md R571, 20_presence_seal_journal.md.) -/
def Obligations.UnitsDeclaredAndTaken : Prop :=
  (∀ (cls unit : Nat) (whole : Bool) (s : State), Instr.wellFormed (.epochBoundary cls unit whole) → cls ≤ 1 → s.role cls unit = 1 → whole →
    ∃ t, exec (.epochBoundary cls unit whole) s = .next t ∧
    t.scarfAt (unitKey cls (s.unit cls unit UNIT.LOGICAL)) = s.epochImage cls unit (s.unit cls unit UNIT.LOGICAL) ∧
    s.framed t [.scarf, .emitted] [] []) ∧
  (∀ (cls unit : Nat) (kind word : Nat) (s : State), Instr.wellFormed (.unitErrorReport cls unit (kind,word)) → cls = 4 → kind ≠ 0x20 →
    unit < classUnits cls → s.role cls unit = 1 → (s.spareOf cls).isSome → s.declared = [] →
    ∃ t, exec (.unitErrorReport cls unit (kind,word)) s = .next t ∧ t.declared = [(cls, unit, kind % 1024)] ∧
    s.framed t [.declared, .emitted] [] []) ∧
  (∀ (cls : Nat) (u cause : Nat) (s : State), Instr.wellFormed (.faultTakeover cls) → s.declared = [(cls, u, cause)] → cls = 2 → s.role cls u = 2 →
    s.recovAt cls = [] → (s.deadsOf cls u).length ≤ 1 → ∃ t, exec (.faultTakeover cls) s = .next t ∧ t.declared = [] ∧ t.role cls u = 3 ∧
    (t.unitXAt (unitKey cls u)).test = 1 ∧ (t.unitXAt (unitKey cls u)).fencedAt = some s.mono ∧ t.recovAt cls = [] ∧
    s.onlyIn t [recoveryPieces, stagePieces, ctrlPieces, [.bodyNext, .bufs, .cellOpen, .cellSeq, .declared, .dieRx, .dieTx, .egQ, .freeAges,
      .fresh, .genEpoch, .gens, .mcOut, .polX, .poolUse, .recQ, .reqResv, .reqUse, .reqs, .rxNow, .shpX, .sruMask, .storeQ, .tblOp, .upQ,
      .xbAccept, .xbGrant, .xbMoved, .xbPrivMoved, .xbT, .xbWait]].flatten) ∧
  (∀ (cls : Nat) (q : Recov) (u : Nat) (s : State), Instr.wellFormed (.takeoverLoadDone cls) → s.recovAt cls = [q] → q.running → q.fault →
    q.new = some u → q.old ≠ u → q.degraded = false → q.buckets = [] → cls = 2 → (s.home cls q.logical).isSome →
    (s.deadsOf cls q.old).length < 3 → u < 9 → ∃ t, exec (.takeoverLoadDone cls) s = .next t ∧ t.role cls u = 1 ∧
    t.unit cls u UNIT.LOGICAL = q.logical % 2 ^ (UNIT.LOGICAL.hi + 1 - UNIT.LOGICAL.lo) ∧ t.role cls q.old = 3 ∧ t.recovAt cls = [] ∧
    s.onlyIn t [recoveryPieces, [.dieRx, .dieTx, .gens, .qx, .shpX, .smpSel, .tblOp]].flatten) ∧
  (∀ (bad : List Nat) (q : Recov) (u : Nat) (s : State), Instr.wellFormed (.lkupCopyDone bad) → s.recovAt clsLkup = [q] → q.running → q.fault →
    q.new = some u → q.old ≠ u → q.degraded = false → q.buckets = [] → bad = [] → (s.deadsOf clsLkup q.old).length < 3 →
    ∃ t, exec (.lkupCopyDone bad) s = .next t ∧ t.role clsLkup u = 1 ∧
    t.unit clsLkup u UNIT.LOGICAL = q.logical % 2 ^ (UNIT.LOGICAL.hi + 1 - UNIT.LOGICAL.lo) ∧ t.unit clsLkup u UNIT.GEN = 0 ∧
    t.recovAt clsLkup = [] ∧
    s.onlyIn t [recoveryPieces, [.coreTag, .dieRx, .dieTx, .genEpoch, .gens, .poisoned, .qx, .shpX, .smpSel, .tblOp]].flatten) ∧
  (∀ (pipe : Nat) (q : Recov) (v : Nat) (s : State), Instr.wellFormed (.pipeHoldSpread pipe) → s.recovAt clsPipe = [q] → q.fault →
    q.running = false → q.degraded = false → q.logical = pipe → s.since q.at_ 100000 → s.holder clsPipe v = some 5 → v < 16 → v ≠ pipe →
    s.inQAt pipe = [] → ∃ t, exec (.pipeHoldSpread pipe) s = .next t ∧ t.inQAt pipe = [] ∧ (∀ k, k < 256 → s.bucketPipe k ≠ pipe →
    t.bucketPipe k = s.bucketPipe k) ∧ (∀ k, k < 256 → s.bucketPipe k = pipe → ((t.recovAt clsPipe).getD 0 {}).buckets.contains k = true) ∧
    s.onlyIn t [.bucketPend, .emitted, .inQ, .recov, .regs]) ∧
  (∀ (m : Nat) (data : Word) (s : State), Instr.wellFormed (.rprNop m data) → s.takesCmd m 9 → isManager m → s.rd RPR_CMD_STAT.BUSY = 0 →
    ∃ t, exec (.rprNop m data) s = .next t ∧ s.framed t hostPieces [[RPR_CMD.reg, RPR_CMD_STAT.reg], recFlds].flatten []) ∧
  (∀ (m : Nat) (data : Word) (c u : Nat) (s : State), Instr.wellFormed (.rprHandover m data) → s.takesCmd m 9 → isManager m →
    s.rd RPR_CMD_STAT.BUSY = 0 → c = fieldOf data 10 8 → u = fieldOf data 6 0 → c ≤ 5 → u < classUnits c → s.role c u = 1 → s.recovAt c = [] →
    s.spares c ≠ [] → ∃ t, exec (.rprHandover m data) s = .next t ∧
    s.framed t [[.recov], hostPieces].flatten [[RPR_CMD.reg, RPR_CMD_STAT.reg], recFlds].flatten []) ∧
  (∀ (m : Nat) (data : Word) (c u : Nat) (s : State), Instr.wellFormed (.rprTest m data) → s.takesCmd m 9 → isManager m →
    s.rd RPR_CMD_STAT.BUSY = 0 → c = fieldOf data 10 8 → u = fieldOf data 6 0 → c < 5 → u < classUnits c → s.role c u = 1 → s.recovAt c = [] →
    s.spares c ≠ [] → ∃ t, exec (.rprTest m data) s = .next t ∧
    s.framed t [[.recov], .rotLast :: hostPieces].flatten [[RPR_CMD.reg, RPR_CMD_STAT.reg], recFlds].flatten []) ∧
  (∀ (m : Nat) (data : Word) (c u : Nat) (s : State), Instr.wellFormed (.rprRetire m data) → s.takesCmd m 9 → isManager m →
    s.rd RPR_CMD_STAT.BUSY = 0 → c = fieldOf data 10 8 → u = fieldOf data 6 0 → c ≤ 2 → u < classUnits c → s.role c u = 2 → s.recovAt c = [] →
    ∃ t, exec (.rprRetire m data) s = .next t ∧
    s.framed t [[.unitX, .pegs, .pegDue, .rprEvt], errPieces, hostPieces].flatten [[RPR_CMD.reg, RPR_CMD_STAT.reg, RPR_PEG_STAT.reg,
      RPR_EVT_STAT.reg], errFlds 9, recFlds, irqFlds 9 16, irqFlds 9 17].flatten ((List.range (classUnits c)).map (fun v => tabKey 9 0 (unitKey c
      v)))) ∧
  (∀ (m : Nat) (data : Word) (c u : Nat) (s : State), Instr.wellFormed (.rprUnretire m data) → s.takesCmd m 9 → isManager m →
    s.rd RPR_CMD_STAT.BUSY = 0 → c = fieldOf data 10 8 → u = fieldOf data 6 0 → c ≤ 2 → u < classUnits c → s.role c u = 5 →
    s.gateResult false = 0 → s.jnlAwait < 61430 → ∃ t, exec (.rprUnretire m data) s = .next t ∧
    s.framed t [[.unitX, .pegs, .pegDue, .rprEvt], errPieces, hostPieces].flatten [[RPR_CMD.reg, RPR_CMD_STAT.reg, RPR_PEG_STAT.reg,
      RPR_EVT_STAT.reg], errFlds 9, recFlds, irqFlds 9 16, irqFlds 9 17].flatten ((List.range (classUnits c)).map (fun v => tabKey 9 0 (unitKey c
      v)))) ∧
  (∀ (m : Nat) (data : Word) (c u : Nat) (r : Recov) (s : State), Instr.wellFormed (.rprRevert m data) → s.takesCmd m 9 → isManager m →
    s.rd RPR_CMD_STAT.BUSY = 0 → c = fieldOf data 10 8 → u = fieldOf data 6 0 → c ≤ 5 → u < classUnits c → s.revertOf c u = some r →
    ∃ t, exec (.rprRevert m data) s = .next t ∧ s.framed t [[.recov], hostPieces].flatten [[RPR_CMD.reg, RPR_CMD_STAT.reg], recFlds].flatten [])

/-- Continuity-check messages and their defects. CCM_TX, CCM_RX and CFM_DEFECT_EXPIRE. (12_services.md R448, 12_services.md R449.) -/
def Obligations.ContinuityChecks : Prop :=
  (∀ (mep : Nat) (dev port qb n : Nat) (s : State), Instr.wellFormed (.ccmTx mep) → s.rd (BLK_CTRL.ENABLE 13) = 1 → s.rd SVC_CFG.CFM_EN = 1 →
    (s.tab 13 1 mep).on MEP.VALID → (s.mepXAt mep).due ≤ s.mono → s.resolveNh ((s.tab 13 1 mep).f MEP.NH_ID) = .unicast dev port qb n →
    (s.stgRefuses
      { body := 0, kind := 3, srcDev := s.ownId, dev := dev, dport := port, queue := (qb + (s.tab 13 1 mep).f MEP.TX_TC) % 2 ^ 19, nh := some n, tc := (s.tab 13 1 mep).f MEP.TX_TC, lenSrc := 1, frameLen := (s.ccmPacket mep).length + 4, declMax := (s.ccmPacket mep).length + 4 }) = none →
    ∃ t, exec (.ccmTx mep) s = .next t ∧ (t.mepXAt mep).seq = ((s.mepXAt mep).seq + 1) % 2 ^ 32 ∧
    (t.mepXAt mep).due = s.mono + ccmPeriod ((s.tab 13 1 mep).f MEP.PERIOD) ∧ t.counter 13 (4 * mep) = (s.counter 13 (4 * mep) + 1) % 2 ^ 64 ∧
    s.onlyIn t [stagePieces, [.bodyNext, .mepX, .regs, .reqResv, .stg, .stgMc]].flatten) ∧
  (∀ (p : Pkt) (i : Nat) (s : State), Instr.wellFormed .ccmRx → s.svcRx = [p] → p.app = 6 → s.rd SVC_CFG.CFM_EN = 1 →
    (s.mepsOf p.lif).find? (fun i => (s.tab 13 1 i).f MEP.LEVEL == (s.appBytes p 75).getD 0 0 / 32) = some i → (s.bodiesAt p.body).whole →
    (s.bodiesAt p.body).tail = 0 → (ccmMsg (s.tab 13 1 i) (s.appBytes p 75)).valid → (ccmMsg (s.tab 13 1 i) (s.appBytes p 75)).rdi = false →
    (s.tab 13 1 i).f MEP.DEFECTS = 0 → ∃ t, exec (.ccmRx) s = .next t ∧ t.svcRx = [] ∧ (t.mepXAt i).okAt = s.mono ∧
    t.counter 13 (4 * i + 1) = (s.counter 13 (4 * i + 1) + 1) % 2 ^ 64 ∧
    s.onlyIn t [stagePieces, [.mepX, .regs, .reqResv, .stg, .stgMc, .svcNtf, .svcRx, .tables]].flatten) ∧
  (∀ (mep : Nat) (s : State), Instr.wellFormed (.cfmDefectExpire mep) → s.rd SVC_CFG.CFM_EN = 1 → (s.tab 13 1 mep).on MEP.VALID →
    s.since (s.mepXAt mep).okAt (ccmPeriod ((s.tab 13 1 mep).f MEP.PERIOD) * 7 / 2) → (s.tab 13 1 mep).f MEP.DEFECTS = 0 →
    ∃ t, exec (.cfmDefectExpire mep) s = .next t ∧ bitOf ((t.tab 13 1 mep).f MEP.DEFECTS) 0 ∧
    t.counter 13 (4 * mep + 2) = (s.counter 13 (4 * mep + 2) + 1) % 2 ^ 64 ∧
    s.framed t [[.svcNtf, .counters, .snapSaved], irqPieces].flatten [[SVC_NTF_STAT.LEVEL, SVC_NTF_STAT.OVERFLOW], irqFlds 13 16, irqFlds 13
      17].flatten [tabKey 13 1 mep])

/-- A table operation ends; the window is acquired and released. TBL_OP_DONE, TBL_LOCK_ACQUIRE, TBL_LOCK_RELEASE and TBL_LOCK_FORCE_RELEASE. Beside
these, what BLK_ENABLE, BLK_DISABLE, BLOCK_DRAINED, FREEZE, SOFT_RESET, SOFT_RESET_DONE leave alone where they complete. (02_register_pages.md R73,
02_register_pages.md R77, 02_register_pages.md R693.) -/
def Obligations.TableWindow : Prop :=
  (∀ (page : Nat) (o : TblOp) (s : State), Instr.wellFormed (.tblOpDone page) → s.tblOpAt page = some o → o.waits = false → o.result < 16 →
    o.resIndex < 2 ^ 22 → ∃ t, exec (.tblOpDone page) s = .next t ∧ t.tblOpAt page = none ∧ t.rd (TBL_STAT.BUSY page) = 0 ∧
    t.rd (TBL_STAT.DONE page) = 1 ∧ t.rd (TBL_STAT.HIT page) = b2n o.hit ∧ t.rd (TBL_STAT.RESULT page) = o.result ∧
    t.rd (BLK_STAT.TBL_BUSY page) = 0 ∧ (t.reg page 0x110).toNat = o.jseq % 2 ^ 32 ∧ (t.regsAt (regKey page 0x10)).getLsbD 1 ∧
    s.framed t [[.tblOp], irqPieces].flatten [[TBL_STAT.reg page, ⟨page, 0x10C, 31, 0⟩, ⟨page, 0x110, 31, 0⟩, ⟨page, 0x114, 31, 0⟩,
      BLK_STAT.TBL_BUSY page], irqFlds page 1].flatten []) ∧
  (∀ (m page : Nat) (s : State), Instr.wellFormed (.tblLockAcquire m page) → s.serves m page → hasWindow page → s.rd (TBL_LOCK.HELD page) = 0 →
    ∃ t, exec (.tblLockAcquire m page) s = .next t ∧ t.rd (TBL_LOCK.HELD page) = 1 ∧ t.rd (TBL_LOCK.OWNER page) = m ∧
    s.framed t [.emitted, .dieTx, .dieRx] [TBL_LOCK.reg page] []) ∧
  (∀ (m page : Nat) (s : State), Instr.wellFormed (.tblLockRelease m page) → s.serves m page → hasWindow page → s.rd (TBL_LOCK.HELD page) = 1 →
    s.rd (TBL_LOCK.OWNER page) = m → ∃ t, exec (.tblLockRelease m page) s = .next t ∧ t.rd (TBL_LOCK.HELD page) = 0 ∧
    s.framed t [.emitted, .dieTx, .dieRx] [TBL_LOCK.reg page] []) ∧
  (∀ (m page : Nat) (s : State), Instr.wellFormed (.tblLockForceRelease m page) → s.serves m page → (m = 0 ∨ m = 0x2000) → hasWindow page →
    ∃ t, exec (.tblLockForceRelease m page) s = .next t ∧ t.rd (TBL_LOCK.HELD page) = 0 ∧
    s.framed t [.emitted, .dieTx, .dieRx] [TBL_LOCK.reg page] []) ∧
  (∀ (m page : Nat) (data : Word) (s : State), Instr.wellFormed (.blkEnable m page data) → s.takesWrite m page → isController m →
    s.rd (BLK_CTRL.ENABLE page) = 0 → fieldOf data 2 1 = 0 → ∃ t, exec (.blkEnable m page data) s = .next t ∧ s.onlyIn t writePieces) ∧
  (∀ (m page : Nat) (data : Word) (s : State), Instr.wellFormed (.blkEnable m page data) → s.takesWrite m page → isController m →
    s.rd (BLK_CTRL.ENABLE page) = 0 → fieldOf data 2 1 = 0 → (page < 16 ∨ 88 ≤ page ∧ page < 100 ∨ 100 < page ∧ page < 148 ∨ 168 ≤ page) →
    ∃ t, exec (.blkEnable m page data) s = .next t ∧ s.framed t hostPieces [[⟨page, 8, 31, 0⟩], recFlds].flatten []) ∧
  (∀ (m page : Nat) (data : Word) (s : State), Instr.wellFormed (.blkDisable m page data) → s.takesCmd m page → isController m →
    fieldOf data 2 1 = 0 → (page < 16 ∨ 64 ≤ page) → ∃ t, exec (.blkDisable m page data) s = .next t ∧
    s.framed t hostPieces [[⟨page, 8, 31, 0⟩, BLK_STAT.IDLE page], recFlds].flatten []) ∧
  (∀ (m page : Nat) (data : Word) (s : State), Instr.wellFormed (.blkDisable m page data) → s.takesCmd m page → isController m →
    fieldOf data 2 1 = 0 → 16 ≤ page → page < 64 → ∃ t, exec (.blkDisable m page data) s = .next t ∧
    s.framed t [linkPieces, hostPieces].flatten [[⟨page, 8, 31, 0⟩, BLK_STAT.IDLE page], linkFlds (page - 16), recFlds].flatten []) ∧
  (∀ (page : Nat) (s : State), Instr.wellFormed (.blockDrained page) → s.rd (BLK_CTRL.ENABLE page) = 0 → page ≠ 100 →
    ∃ t, exec (.blockDrained page) s = .next t ∧ s.framed t [.emitted] [BLK_STAT.IDLE page] []) ∧
  (∀ (m page : Nat) (data : Word) (s : State), Instr.wellFormed (.freeze m page data) → s.takesWrite m page → fieldOf data 2 0 = 4 →
    s.rd (BLK_CTRL.ENABLE page) = 0 → s.rd (BLK_CTRL.FREEZE page) = 0 → ∃ t, exec (.freeze m page data) s = .next t ∧
    s.framed t [[.frozen], hostPieces].flatten [[⟨page, 8, 31, 0⟩], recFlds].flatten []) ∧
  (∀ (m page : Nat) (data : Word) (s : State), Instr.wellFormed (.softReset m page data) → s.takesWrite m page → isController m →
    s.rd (BLK_CTRL.ENABLE page) = 0 → fieldOf data 2 0 = 2 → ∃ t, exec (.softReset m page data) s = .next t ∧
    s.framed t hostPieces [[⟨page, 8, 31, 0⟩], recFlds].flatten []) ∧
  (∀ (page : Nat) (s : State), Instr.wellFormed (.softResetDone page) → s.rd (BLK_CTRL.SOFT_RESET page) = 1 → pagesWith page = [page] →
    s.rd (TBL_STAT.BUSY page) = 0 → page ∈ [6, 7, 9, 12, 13, 144] → ∃ t, exec (.softResetDone page) s = .next t ∧
    s.framed t [[.units], .dirty :: .commitLate :: .hiLatch :: .loHeld :: (stagePieces ++ rowPieces ++ [.bfdX, .flowX, .freeAges, .mepX, .mergeQ,
      .mergeX, .poolUse, .recX, .reqUse, .sruMask, .svcNtf, .svcQ, .svcRx]), (errPieces ++ rowPieces ++ [.bodies, .bufs, .counters, .freeAges,
      .hostQ, .mill, .poolUse, .qx, .reqUse, .rptX, .snapSaved, .sruMask, .twins]), [.stepPend, .slewLeft, .slewRem, .lockCount, .tsf, .holdFreq,
      .freqLog, .ppsLast, .ppsGood, .ppsMissed, .todSec, .rprEvt, .rotLast, .rotClassAt, .rotAt]].flatten [(List.range 16384).map (fun k =>
      ⟨page, 4 * k, 31, 0⟩), irqFlds page 0, stageFlds, poolFlds, refuseFlds, nrefFlds, [SCH_STAT.FIT_WAIT, BUF_SPILL_Q.COUNT,
      BUF_BLOCKED_Q.COUNT, SVC_NTF_STAT.reg]].flatten qpKeys)

/-- Queue ageing, flush, selection, and PTP messages. BUF_AGE_SWEEP, QUEUE_FLUSH_DONE, SCHED_SELECT and PTP_MESSAGE_GENERATION. Beside these, what
BUCKET_WRITE, QUEUE_FLUSH, PFC_FRAME_RECEIVE, PFC_PAUSE_EXPIRE, PFC_REFRESH leave alone where they complete. (07_buffers.md R277, 07_buffers.md
R278, 07_buffers.md R280, 07_buffers.md R281, 08_queues_and_scheduling.md R302, 08_queues_and_scheduling.md R303, 08_queues_and_scheduling.md R308,
11_time.md R431, 03_ports_and_framing.md, 05_forwarding_tables.md, 06_pipelines.md, 09_fabric.md.) -/
def Obligations.QueuesAndScheduling : Prop :=
  (∀ (late : Bool) (q : Nat) (x : QX) (p : Pkt) (s : State), Instr.wellFormed (.bufAgeSweep late) → s.rd (BLK_CTRL.ENABLE 145) = 1 →
    s.fatalLatch = false → s.qx = [(q, x)] → x.head = [p] → x.spill = false → s.expired q p → ∃ t, exec (.bufAgeSweep late) s = .next t ∧
    (t.qxAt q).head = [] ∧ (t.qxAt q).t1 = x.t1 - s.bufBytes p ∧ (t.qxAt q).fitWait = false ∧
    s.onlyIn t [bufferPieces, [.actTab, .actWait, .openRow, .sruMask, .starves]].flatten) ∧
  (∀ (s : State), Instr.wellFormed .queueFlushDone → s.flushing.isSome → ∃ t, exec (.queueFlushDone) s = .next t ∧ t.flushing = none ∧
    t.rd QM_FLUSH.GO = 0 ∧ t.rd QM_FLUSH.BUSY = 0 ∧ (t.reg 176 0x10).getLsbD 17 ∧
    s.framed t [[.flushing], irqPieces].flatten [[QM_FLUSH.GO, QM_FLUSH.BUSY], irqFlds 176 17].flatten []) ∧
  (∀ (q : Nat) (p : Pkt) (r : List Pkt) (s : State), Instr.wellFormed (.schedSelect 49) → s.rd (BLK_CTRL.ENABLE 177) = 1 → s.portServed 49 →
    s.fatalLatch = false → s.eligible 49 = [q] → (s.qxAt q).head = p :: r → (s.qxAt q).spill = false → s.expired q p = false →
    (s.qe q).f QE.CLASS ≠ 2 → s.rd SVC_CFG.RTX_EN = 0 → s.mcOwed = [] → ∃ t, exec (.schedSelect 49) s = .next t ∧ (t.qxAt q).head = r ∧
    t.svcQAt (q % 8) = s.svcQAt (q % 8) ++ [{ p with buf := 0 }] ∧ t.counter 8 (7 * q + 2) = (s.counter 8 (7 * q + 2) + 1) % 2 ^ 64 ∧
    s.onlyIn t [bufferPieces, ctrlPieces, [.actTab, .actWait, .bodyNext, .dieRx, .dieTx, .egQ, .flowX, .mcMade, .mcOut, .mcOwed, .openRow, .recX,
      .reqResv, .shpX, .sruMask, .starves, .svcQ, .txGive]].flatten) ∧
  (∀ (port type : Nat) (len : Nat) (s : State), Instr.wellFormed (.ptpMessageGeneration port type) → s.rd (BLK_CTRL.ENABLE 12) = 1 →
    s.rd PTP_CLOCK_CFG.MODE ≠ 0 → s.rd PTP_CLOCK_CFG.MODE ≠ 2 → profileHas s.ptpProfile type → s.ptpProfile < 3 → ptpLength type = some len →
    s.rd (PTP_PORT_CFG.EN port) = 1 → s.ptpPort port → s.rd (PORT_STAT.LINK_UP port) = 1 → (s.coreOf 0).isSome → s.rd (PTP_PORT_CFG.L2 port) = 1 →
    ∃ t, exec (.ptpMessageGeneration port type) s = .next t ∧ t.ptpSeqAt (16 * port + type) = (s.ptpSeqAt (16 * port + type) + 1) % 65536 ∧
    (t.macQAt port).length = (s.macQAt port).length + 1 ∧ s.framed t [.emitted, .fresh, .ptpSeq, .bodies, .bodyNext, .macQ] [] []) ∧
  (∀ (m bucket : Nat) (data : Word) (s : State), Instr.wellFormed (.bucketWrite m bucket data) → s.takesWrite m 112 → s.rd PIPE_DIST_CFG.AUTO = 0 →
    data.toNat % 32 < 16 → s.bucketPipe bucket ≠ data.toNat % 32 → s.bucketBusy bucket = false →
    ∃ t, exec (.bucketWrite m bucket data) s = .next t ∧
    s.framed t [[.bucketPend], hostPieces].flatten [[PIPE_BUCKET.reg bucket, PIPE_DIST_STAT.reg], recFlds].flatten []) ∧
  (∀ (m : Nat) (data : Word) (s : State), Instr.wellFormed (.queueFlush m data) → s.takesCmd m 176 → s.rd QM_FLUSH.BUSY = 0 →
    ∃ t, exec (.queueFlush m data) s = .next t ∧
    s.framed t [[.flushing], hostPieces, (errPieces ++ rowPieces ++ [.bodies, .bufs, .counters, .freeAges, .hostQ, .mill, .poolUse, .qx, .reqUse,
      .rptX, .snapSaved, .sruMask, .twins])].flatten [[QM_FLUSH.reg], SCH_STAT.FIT_WAIT :: BUF_SPILL_Q.COUNT :: BUF_BLOCKED_Q.COUNT :: poolFlds,
      stageFlds, refuseFlds, errFlds 144, irqFlds 144 19, nrefFlds, recFlds].flatten qpKeys) ∧
  (∀ (port : Nat) (frame : List Byte) (f : List Nat) (tc : Nat) (s : State), Instr.wellFormed (.pfcFrameReceive port frame) →
    f = frame.map BitVec.toNat → s.rd (PORT_STAT.LINK_UP port) = 1 → isPauseFrame f → 64 ≤ f.length → fcsOk f → (f.drop 14).take 2 = [0, 1] →
    s.cfg (PORT_MAC_CFG.PAUSE_MODE port) = 1 → tc < 8 → bitOf (s.cfg (PORT_PAUSE_CFG.RX_EN port)) tc →
    ∃ t, exec (.pfcFrameReceive port frame) s = .next t ∧
    s.framed t [.emitted, .counters, .snapSaved, .pauseUntil] [PORT_STAT.PFC_PAUSED port] []) ∧
  (∀ (port : Nat) (frame : List Byte) (f : List Nat) (tc : Nat) (s : State), Instr.wellFormed (.pfcFrameReceive port frame) →
    f = frame.map BitVec.toNat → s.rd (PORT_STAT.LINK_UP port) = 1 → isPauseFrame f → 64 ≤ f.length → fcsOk f → (f.drop 14).take 2 = [1, 1] →
    s.cfg (PORT_MAC_CFG.PAUSE_MODE port) = 2 → tc < 8 → bitOf (f.getD 17 0) tc → bitOf (s.cfg (PORT_PAUSE_CFG.RX_EN port)) tc →
    ∃ t, exec (.pfcFrameReceive port frame) s = .next t ∧
    s.framed t [.emitted, .counters, .snapSaved, .pauseUntil] [PORT_STAT.PFC_PAUSED port] []) ∧
  (∀ (port tc : Nat) (e : Nat) (s : State), Instr.wellFormed (.pfcPauseExpire port tc) → s.pauseUntilAt (8 * port + tc) = some e → e ≤ s.mono →
    ∃ t, exec (.pfcPauseExpire port tc) s = .next t ∧ s.framed t [.emitted, .pauseUntil] [PORT_STAT.PFC_PAUSED port] []) ∧
  (∀ (port : Nat) (a : Nat) (s : State), Instr.wellFormed (.pfcRefresh port) → s.pauseSentAtAt port = some a →
    s.xoffAt port &&& s.cfg (PORT_PAUSE_CFG.TX_EN port) ≠ 0 → s.since a (s.bitTimes port (s.cfg (PORT_PAUSE_CFG.QUANTA port) * 256)) →
    s.rd (PORT_STAT.LINK_UP port) = 1 → s.cfg (PORT_MAC_CFG.PAUSE_MODE port) = 2 → s.cfg (PORT_PAUSE_CFG.QUANTA port) ≠ 0 →
    s.txNowAt port = none → ∃ t, exec (.pfcRefresh port) s = .next t ∧ s.framed t [.emitted, .counters, .snapSaved, .pauseSentAt] [] [])

/-- Flits and requests between the dies arrive in order or the link is lost. FLIT_RECEIVE, CROSS_DIE_REQUEST, CROSS_DIE_EXECUTE, CROSS_DIE_RESPONSE,
TBL_FENCE and DIE_LINK_LOSS. (01_architecture.md R15, 01_architecture.md R28, 01_architecture.md R29, 01_architecture.md R31, 01_architecture.md
R32, 01_architecture.md R33, 01_architecture.md R34, 01_architecture.md R36, 02_register_pages.md R75.) -/
def Obligations.DieToDieLink : Prop :=
  (∀ (die module seq : Nat) (bad : Bool) (f : Flit) (s : State), Instr.wellFormed (.flitReceive die module seq bad) → s.role clsD2d module = 1 →
    bad = false → (s.dieTxAt (1 - die)).replay.find? (fun g => g.seq == seq && g.module == module) = some f → s.dieRxAt die = { next := seq } →
    f.chan ≠ 3 → ∃ t, exec (.flitReceive die module seq bad) s = .next t ∧ t.dieRxAt die = { next := seq + 1 } ∧
    t.dieTxAt (1 - die) = { s.dieTxAt (1 - die) with replay := (s.dieTxAt (1 - die)).replay.filter (fun g => g.seq != seq) } ∧
    .flit die f.chan f.words ∈ t.emitted ∧ s.framed t [.dieRx, .dieTx, .emitted] [] []) ∧
  (∀ (die module seq : Nat) (bad : Bool) (k : Nat) (r : DieReq) (l : List DieReq) (f : Flit) (s : State),
    Instr.wellFormed (.flitReceive die module seq bad) → s.role clsD2d module = 1 → bad = false →
    (s.dieTxAt (1 - die)).replay.find? (fun g => g.seq == seq && g.module == module) = some f → s.dieRxAt die = { next := seq } → f.chan = 3 →
    f.words = [0, k] → srcDie k = die → die < 2 → s.dieQAt k = r :: l → r.sent = none → 0 < s.dieCredits k →
    ∃ t, exec (.flitReceive die module seq bad) s = .next t ∧ t.dieRxAt die = { next := seq + 1 } ∧
    t.dieQAt k = { r with sent := some (s.dieTxAt die).next } :: l ∧ (t.dieTxAt die).next = (s.dieTxAt die).next + 1 ∧
    s.framed t [.dieRx, .dieTx, .dieQ, .emitted] [] []) ∧
  (∀ (src page off : Nat) (n : Option Nat) (host : Bool) (be : Nat) (data : List Word) (s : State),
    Instr.wellFormed (.crossDieRequest src (n,host) page off (be,data)) → dieOf page ≠ srcDie src → (srcMaster src).all (fun m => s.reaches m) →
    0 < s.dieCredits src → (s.dieQAt src).all (fun x => x.sent.isSome) →
    ∃ t, exec (.crossDieRequest src (n,host) page off (be,data)) s = .next t ∧
    t.dieQAt src = s.dieQAt src ++
      [{ read := n.isSome, master := (srcMaster src).getD 0xE000, page := page, off := off, be := be, data := data.map BitVec.toNat, n := n.getD 0, host := host, sent := some (s.dieTxAt (srcDie src)).next }] ∧
    (t.dieTxAt (srcDie src)).next = (s.dieTxAt (srcDie src)).next + 1 ∧ s.framed t [.dieQ, .dieTx, .emitted] [] []) ∧
  (∀ (src page off : Nat) (n : Option Nat) (host : Bool) (be : Nat) (data : List Word) (s : State),
    Instr.wellFormed (.crossDieRequest src (n,host) page off (be,data)) → dieOf page ≠ srcDie src → (srcMaster src).all (fun m => s.reaches m) →
    s.dieCredits src = 0 → ∃ t, exec (.crossDieRequest src (n,host) page off (be,data)) s = .next t ∧
    t.dieQAt src = s.dieQAt src ++
      [{ read := n.isSome, master := (srcMaster src).getD 0xE000, page := page, off := off, be := be, data := data.map BitVec.toNat, n := n.getD 0, host := host }] ∧
    s.framed t [.dieQ, .emitted] [] []) ∧
  (∀ (src : Nat) (q : DieReq) (m : Nat) (s : State), Instr.wellFormed (.crossDieExecute src) → s.dieQAt src = [q] → s.dieDownAt = none →
    s.delivered (1 - srcDie src) q → s.hostMay q → q.read → q.n = 1 → srcMaster src = some m → s.reaches q.master → (blockOf q.page).isSome →
    q.page ≠ 0 → s.blkUpAt q.page = false → ∃ t, exec (.crossDieExecute src) s = .next t ∧ t.dieQAt src = [] ∧
    t.dieReadAt src = s.dieReadAt src ++ [{ q with data := [0], sent := some (s.dieTxAt (1 - srcDie src)).next }] ∧
    s.framed t [.dieQ, .dieRead, .dieTx, .dieRx, .emitted] [] []) ∧
  (∀ (src : Nat) (q : DieReq) (m : Nat) (s : State), Instr.wellFormed (.crossDieExecute src) → s.dieQAt src = [q] → s.dieDownAt = none →
    s.delivered (1 - srcDie src) q → s.hostMay q → q.read = false → srcMaster src = some m → s.reaches q.master → (blockOf q.page).isSome →
    q.page ≠ 0 → s.blkUpAt q.page = false → s.waitsBehind q.master q.page = false → ∃ t, exec (.crossDieExecute src) s = .next t ∧
    t.dieQAt src = [] ∧ t.dieReadAt src = s.dieReadAt src ∧ s.onlyIn t [writePieces, [.cryLog, .hiLatch, .l2bNtf, .tmMem, .tsf]].flatten) ∧
  (∀ (src : Nat) (q : DieReq) (l : List DieReq) (v : Nat) (s : State), Instr.wellFormed (.crossDieResponse src) → s.dieReadAt src = q :: l →
    s.dieDownAt = none → s.delivered (srcDie src) q → q.data = [v] → q.stale = false → ∃ t, exec (.crossDieResponse src) s = .next t ∧
    t.dieReadAt src = l ∧ .readData q.master q.page q.off v false ∈ t.emitted ∧ s.framed t [.dieRead, .emitted] [] []) ∧
  (∀ (m page : Nat) (k : Nat) (s : State), Instr.wellFormed (.tblFence m page) → masterSrc m = some k → s.dieQAt k = [] → s.serves m page →
    hasWindow page → (s.hiLatchAt (pairKey m page)) = [] → latchesOf page 0x11C = [] → ∃ t, exec (.tblFence m page) s = .next t ∧
    (.readData m page 0x11C (if (declAt page 0x11C).isNone then 0 else (s.shows page 0x11C).toNat) false ∈ t.emitted) ∧
    s.framed t [.emitted, .dieTx, .dieRx] [] []) ∧
  (∀ (d : Nat) (s : State), Instr.wellFormed .dieLinkLoss → s.dieDownAt = some d → s.since d 10000 → s.fatalLatch = false →
    (List.range 144).all (fun l => s.linkState l == 0) → ∃ t, exec (.dieLinkLoss) s = .next t ∧ t.fatalLatch ∧ (∀ k, k < 18 → t.dieQAt k = [] ∧
    t.dieReadAt k = [] ∧ t.dieLostAt k = s.dieLostAt k + ((s.dieQAt k).filter (fun q => !q.read)).length) ∧
    t.fatalQ = s.fatalQ ++ [(errorMsg s 256 0 0xE000 4 0x021, s.mono)] ∧
    s.onlyIn t [countPieces, [.dieLost, .dieQ, .dieRead, .dieRx, .dieTx, .fatalLatch, .fatalQ, .jnlHeld, .linkX, .unreachAt]].flatten)

/-- The presence window, the real-time clock, the seal and the backup domain. PRESENCE_PRESS, PRESENCE_RELEASE, PRESENCE_WINDOW_EXPIRE, RTC_SET_LOAD,
RTC_LOAD, SEAL_TEST, VBAT_MEASURE and BACKUP_DOMAIN_LOST. Beside these, what PPR_NOP, PPR_BREACH_ACK, PPR_RTC_SET, PPR_JTAG_UNLOCK, PPR_JTAG_LOCK,
PPR_CLOSE leave alone where they complete. (20_presence_seal_journal.md R639, 20_presence_seal_journal.md R640, 20_presence_seal_journal.md R641,
20_presence_seal_journal.md R644, 20_presence_seal_journal.md R645, 20_presence_seal_journal.md R647, 20_presence_seal_journal.md R648,
20_presence_seal_journal.md R649, 20_presence_seal_journal.md R650, 20_presence_seal_journal.md R651.) -/
def Obligations.PresenceAndSeal : Prop :=
  (∀ (s : State), Instr.wellFormed .presencePress → s.rd PPR_STAT.PRESSED = 0 → s.rd PPR_STAT.WINDOW_OPEN = 0 → s.rd DEV_STAT.MAIN_UP = 1 →
    ∃ t, exec (.presencePress) s = .next t ∧ t.rd PPR_STAT.PRESSED = 1 ∧ t.rd PPR_STAT.WINDOW_OPEN = 1 ∧
    t.rd PPR_STAT.LEFT_S = s.windowNs / 1000000000 ∧ t.winEnd = some (s.mono + s.windowNs) ∧ (t.regsAt (regKey 7 0x10)).getLsbD 16 ∧
    s.framed t [[.winEnd], recPieces].flatten [[PPR_STAT.PRESSED, PPR_STAT.LEFT_S, PPR_STAT.WINDOW_OPEN], recFlds, irqFlds 7 16].flatten []) ∧
  (∀ (s : State), Instr.wellFormed .presenceRelease → ∃ t, exec (.presenceRelease) s = .next t ∧ t.rd PPR_STAT.PRESSED = 0 ∧
    s.framed t [.emitted] [PPR_STAT.PRESSED] []) ∧
  (∀ (e : Nat) (s : State), Instr.wellFormed .presenceWindowExpire → s.winEnd = some e → e ≤ s.mono → s.rd PPR_STAT.WINDOW_OPEN = 1 →
    ∃ t, exec (.presenceWindowExpire) s = .next t ∧ t.rd PPR_STAT.WINDOW_OPEN = 0 ∧ t.rd PPR_STAT.LEFT_S = 0 ∧ t.winEnd = none ∧
    s.framed t [[.winEnd], recPieces].flatten [[PPR_STAT.LEFT_S, PPR_STAT.WINDOW_OPEN], recFlds, irqFlds 7 16].flatten []) ∧
  (∀ (v a : Nat) (s : State), Instr.wellFormed .rtcSetLoad → s.rtcArmed = some (v, a) → s.rtcSec ≠ a → ∃ t, exec (.rtcSetLoad) s = .next t ∧
    t.rtcNs = v * 1000000000 ∧ t.rtcArmed = none ∧ s.framed t [.rtcNs, .rtcArmed, .emitted] [] []) ∧
  (∀ (s : State), Instr.wellFormed .rtcLoad → s.timeValid → s.sec % 64 = 0 → s.rtcLoadedSec ≠ s.sec → ∃ t, exec (.rtcLoad) s = .next t ∧
    t.rtcNs = s.sec * 1000000000 ∧ t.rtcLoadedSec = s.sec ∧ s.framed t [.rtcNs, .rtcLoadedSec, .emitted] [] []) ∧
  (∀ (pass : Bool) (s : State), Instr.wellFormed (.sealTest pass) → pass = false → s.sealFails = 1 → s.rd PPR_STAT.SEAL_OPEN = 0 →
    s.rd PPR_STAT.BREACH = 0 → s.rd PPR_STAT.WINDOW_OPEN = 0 → s.rd DEV_STAT.MAIN_UP = 0 →
    (List.range 15).any (fun i => fieldOf (s.reg 7 (0x1004 + 8 * i)) 31 28 == 0) → s.rd BKP_STAT.LOG_COUNT < 15 →
    ∃ t, exec (.sealTest pass) s = .next t ∧ t.sealFails = 2 ∧ t.rd PPR_STAT.SEAL_OPEN = 1 ∧ t.rd PPR_STAT.BREACH = 1 ∧
    t.rd BKP_STAT.LOG_COUNT = s.rd BKP_STAT.LOG_COUNT + 1 ∧ (t.regsAt (regKey 7 0x10)).getLsbD 17 ∧ (t.regsAt (regKey 7 0x10)).getLsbD 18 ∧
    s.onlyIn t [[.regs, .sealFails, .sealPasses, .bkpCopied], irqPieces].flatten) ∧
  (∀ (pass : Bool) (s : State), Instr.wellFormed (.sealTest pass) → pass → s.sealPasses = 1 → s.rd PPR_STAT.SEAL_OPEN = 1 →
    ∃ t, exec (.sealTest pass) s = .next t ∧ t.sealPasses = 2 ∧ t.sealFails = 0 ∧ t.rd PPR_STAT.SEAL_OPEN = 0 ∧
    t.rd PPR_STAT.BREACH = s.rd PPR_STAT.BREACH ∧
    s.onlyIn t [recPieces, [.bkpCopied, .bkpOver, .cryPend, .cryQueue, .regs, .sealFails, .sealPasses, .winEnd]].flatten) ∧
  (∀ (mv : Nat) (s : State), Instr.wellFormed (.vbatMeasure mv) → mv < 2600 → s.rd BKP_STAT.CELL_LOW = 0 → ∃ t, exec (.vbatMeasure mv) s = .next t ∧
    t.rd BKP_STAT.VBAT_MV = mv ∧ t.rd BKP_STAT.CELL_LOW = 1 ∧ (t.regsAt (regKey 7 0x10)).getLsbD 19 ∧
    s.onlyIn t [recPieces, [.bkpCopied, .bkpOver, .regs]].flatten) ∧
  (∀ (mv : Nat) (s : State), Instr.wellFormed (.vbatMeasure mv) → 2600 ≤ mv → mv ≤ 2700 → ∃ t, exec (.vbatMeasure mv) s = .next t ∧
    t.rd BKP_STAT.VBAT_MV = mv ∧ s.framed t [.emitted] [BKP_STAT.VBAT_MV] []) ∧
  (∀ (s : State), Instr.wellFormed .backupDomainLost → s.rd DEV_STAT.MAIN_UP = 0 → ∃ t, exec (.backupDomainLost) s = .next t ∧ t.rtcNs = 0 ∧
    t.rtcArmed = none ∧ t.rd BKP_STAT.LOST = 1 ∧ t.rd BKP_STAT.LOG_COUNT = 1 ∧ t.rd BKP_STAT.LOG_OVERFLOW = 0 ∧ t.rd PPR_STAT.BREACH = 1 ∧
    fieldOf (t.reg 7 0x1004) 31 28 = 5 ∧ t.reg 7 0x1078 = 0 ∧ s.onlyIn t [[.rtcNs, .rtcArmed, .bkpCopied, .bkpOver, .regs], irqPieces].flatten) ∧
  (∀ (m : Nat) (data : Word) (s : State), Instr.wellFormed (.pprNop m data) → s.takesCmd m 7 → isManager m → s.rd PPR_CMD_STAT.BUSY = 0 →
    ∃ t, exec (.pprNop m data) s = .next t ∧ s.framed t hostPieces [[PPR_CMD.reg, PPR_CMD_STAT.reg], recFlds, irqFlds 7 20].flatten []) ∧
  (∀ (m : Nat) (data : Word) (s : State), Instr.wellFormed (.pprBreachAck m data) → s.takesCmd m 7 → isManager m → s.rd PPR_CMD_STAT.BUSY = 0 →
    s.gateResult true = 0 → s.jnlAwait < 61430 → s.rd PPR_STAT.SEAL_OPEN = 0 → ∃ t, exec (.pprBreachAck m data) s = .next t ∧
    s.framed t hostPieces [[PPR_CMD.reg, PPR_CMD_STAT.reg, PPR_STAT.BREACH, BKP_STAT.LOST], recFlds, irqFlds 7 20].flatten []) ∧
  (∀ (m : Nat) (data : Word) (s : State), Instr.wellFormed (.pprRtcSet m data) → s.takesCmd m 7 → isManager m → s.rd PPR_CMD_STAT.BUSY = 0 →
    s.gateResult false = 0 → s.jnlAwait < 61430 → s.timeValid = false → ∃ t, exec (.pprRtcSet m data) s = .next t ∧
    s.framed t [[.rtcArmed], hostPieces].flatten [[PPR_CMD.reg, PPR_CMD_STAT.reg], recFlds, irqFlds 7 20].flatten []) ∧
  (∀ (m : Nat) (data : Word) (s : State), Instr.wellFormed (.pprJtagUnlock m data) → s.takesCmd m 7 → isManager m → s.rd PPR_CMD_STAT.BUSY = 0 →
    s.gateResult false = 0 → s.jnlAwait < 61430 → ∃ t, exec (.pprJtagUnlock m data) s = .next t ∧
    s.framed t hostPieces [[PPR_CMD.reg, PPR_CMD_STAT.reg, PPR_STAT.JTAG_UNLOCKED], recFlds, irqFlds 7 20].flatten []) ∧
  (∀ (m : Nat) (data : Word) (s : State), Instr.wellFormed (.pprJtagUnlock m data) → s.takesCmd m 7 → isManager m → s.rd PPR_CMD_STAT.BUSY = 0 →
    s.rd PPR_STAT.WINDOW_OPEN = 0 → s.jnlAwait < 61430 → ∃ t, exec (.pprJtagUnlock m data) s = .next t ∧
    s.framed t hostPieces [[PPR_CMD.reg, PPR_CMD_STAT.reg], recFlds, irqFlds 7 20].flatten []) ∧
  (∀ (m : Nat) (data : Word) (s : State), Instr.wellFormed (.pprJtagLock m data) → s.takesCmd m 7 → isManager m → s.rd PPR_CMD_STAT.BUSY = 0 →
    ∃ t, exec (.pprJtagLock m data) s = .next t ∧
    s.framed t hostPieces [[PPR_CMD.reg, PPR_CMD_STAT.reg, PPR_STAT.JTAG_UNLOCKED], recFlds, irqFlds 7 20].flatten []) ∧
  (∀ (m : Nat) (data : Word) (s : State), Instr.wellFormed (.pprClose m data) → s.takesCmd m 7 → isManager m → s.rd PPR_CMD_STAT.BUSY = 0 →
    ∃ t, exec (.pprClose m data) s = .next t ∧
    s.framed t [[.winEnd], hostPieces].flatten [[PPR_CMD.reg, PPR_CMD_STAT.reg, PPR_STAT.WINDOW_OPEN, PPR_STAT.LEFT_S], irqFlds 7 16, recFlds,
      irqFlds 7 20].flatten [])

/-- Sensors are read, the device throttles and shuts down. SENSOR_READ, THROTTLE_ENTER, THROTTLE_EXIT and THERMAL_SHUTDOWN.
(21_electrical_and_package.md R680, 21_electrical_and_package.md R681, 21_electrical_and_package.md R682, 21_electrical_and_package.md R683.) -/
def Obligations.SensorsAndThrottling : Prop :=
  (∀ (temps : List Int) (s : State), Instr.wellFormed (.sensorRead temps) → s.alert = false → temps.any (fun c => decide (s.alertC ≤ c)) →
    temps.all (fun c => decide (-128 ≤ c) && decide (c ≤ 127)) → ∃ t, exec (.sensorRead temps) s = .next t ∧ t.temps = temps ∧
    t.rd (PWR_SENSOR.TEMP_C 5) = tempByte (temps.getD 5 0) ∧ t.rd PWR_STAT.HOTTEST = (hottest temps).1 ∧
    t.rd PWR_STAT.TJ_MAX_C = tempByte (hottest temps).2 ∧ t.alert ∧ t.rd PWR_STAT.ALERT = 1 ∧ .pin "THERM_ALERT_N" false ∈ t.emitted ∧
    s.framed t [[.temps, .hotAt, .coolAt, .shutAt, .alert], irqPieces].flatten [(List.range 88).map PWR_SENSOR.TEMP_C, (List.range 88).map
      PWR_SENSOR.MAX_C ++ [PWR_STAT.HOTTEST, PWR_STAT.TJ_MAX_C, PWR_STAT.ALERT], irqFlds 257 16].flatten []) ∧
  (∀ (s : State), Instr.wellFormed .throttleEnter → s.rd PWR_STAT.THROTTLING = 0 → s.hotAt.any (fun x => s.since x.2 1000000) →
    ∃ t, exec (.throttleEnter) s = .next t ∧ t.rd PWR_STAT.THROTTLING = 1 ∧
    t.rd PWR_THROTTLES.COUNT = min (2 ^ (PWR_THROTTLES.COUNT.hi + 1 - PWR_THROTTLES.COUNT.lo) - 1) (s.rd PWR_THROTTLES.COUNT + 1) ∧
    (t.regsAt (regKey 257 0x10)).getLsbD 17 ∧
    s.framed t [[.alert], errPieces].flatten [[PWR_STAT.THROTTLING, PWR_THROTTLES.COUNT, PWR_STAT.ALERT], errFlds 257, irqFlds 257 3, irqFlds 257
      16, irqFlds 257 17].flatten []) ∧
  (∀ (c : Nat) (s : State), Instr.wellFormed .throttleExit → s.rd PWR_STAT.THROTTLING = 1 → s.coolAt = some c → s.since c 100000000 →
    ∃ t, exec (.throttleExit) s = .next t ∧ t.rd PWR_STAT.THROTTLING = 0 ∧
    s.framed t [[.alert], irqPieces].flatten [[PWR_STAT.THROTTLING, PWR_STAT.ALERT], irqFlds 257 16].flatten []) ∧
  (∀ (i c : Nat) (s : State), Instr.wellFormed .thermalShutdown → s.shutAt = [(i, c)] → s.since c 10000 → s.fatalLatch = false →
    (List.range 144).all (fun l => s.linkState l == 0) → ∃ t, exec (.thermalShutdown) s = .next t ∧ t.fatalLatch ∧
    t.rd DEV_STAT.FATAL_LATCHED = 1 ∧ t.fatalQ = s.fatalQ ++ [(errorMsg s 257 i 0xE000 4 0x021, s.mono)] ∧
    s.onlyIn t [countPieces, [.dieRx, .dieTx, .fatalLatch, .fatalQ, .linkX, .unreachAt]].flatten)

/-- Retransmission, seamless merging and recorders. RTX_COPY_EXPIRE, RESEND_READ_DONE, MERGE_JUDGE, MERGE_LEG_TIMEOUT and REC_DONE. Beside these, what
REC_READOUT, REC_REPLAY leave alone where they complete. (12_services.md R450, 12_services.md R451, 12_services.md R453, 12_services.md R455,
12_services.md R456, 12_services.md R458, 12_services.md R459, 13_host_interface.md, 15_start_up.md, 17_faults.md, 18_counters_and_tracing.md,
20_presence_seal_journal.md.) -/
def Obligations.MediaServices : Prop :=
  (∀ (flow : Nat) (c : RtxCopy) (s : State), Instr.wellFormed (.rtxCopyExpire flow) → (s.flowXAt flow).copies = [c] →
    s.since c.at_ ((s.tab 13 2 flow).f FLOW.RETAIN_MS * 1000000) → ∃ t, exec (.rtxCopyExpire flow) s = .next t ∧ (t.flowXAt flow).copies = [] ∧
    s.onlyIn t [countPieces, rowPieces, [.bodies, .flowX, .freeAges, .poolUse, .reqUse, .sruMask]].flatten) ∧
  (∀ (flow : Nat) (p : Pkt) (r : List Pkt) (s : State), Instr.wellFormed (.resendReadDone flow) → (s.flowXAt flow).reads = p :: r →
    s.bpmAdmit 1 (s.rootPort ((s.tab 13 2 flow).f FLOW.RTX_QUEUE)) (poolSize (poolOf (declLen p - 4))) →
    ∃ t, exec (.resendReadDone flow) s = .next t ∧ (t.flowXAt flow).reads = r ∧
    t.counter 14 (7 * flow + 3) = (s.counter 14 (7 * flow + 3) + 1) % 2 ^ 64 ∧
    s.onlyIn t [bufferPieces, [.actTab, .actWait, .bodyNext, .bufNext, .flowX, .memX, .openRow, .sruMask, .starves, .tagNext]].flatten) ∧
  (∀ (p : Pkt) (g leg : Nat) (s : State), Instr.wellFormed .mergeJudge → s.mergeQ = [(p, g, leg)] → (s.bodiesAt p.body).whole →
    (s.bodiesAt p.body).tail = 0 → (s.mergeXAt g).started = false → ∃ t, exec (.mergeJudge) s = .next t ∧ t.mergeQ = [] ∧ (t.mergeXAt g).started ∧
    (t.mergeXAt g).marks = [(s.parsed p).f 0x5A] ∧ (t.tab 13 3 g).f MRG.H = (s.parsed p).f 0x5A % 2 ^ 32 ∧
    t.counter 15 (3 * g) = (s.counter 15 (3 * g) + 1) % 2 ^ 64 ∧
    s.onlyIn t [stagePieces, [.mergeQ, .mergeX, .regs, .reqResv, .stg, .stgMc, .svcNtf, .tables]].flatten) ∧
  (∀ (grp leg : Nat) (s : State), Instr.wellFormed (.mergeLegTimeout grp leg) → leg = 0 → s.since (s.mergeXAt grp).aAt 100000000 →
    ∃ t, exec (.mergeLegTimeout grp leg) s = .next t ∧ (t.tab 13 3 grp).f MRG.LEG_A_OK = 0 ∧
    s.framed t [[.svcNtf], irqPieces].flatten [[SVC_NTF_STAT.LEVEL, SVC_NTF_STAT.OVERFLOW], irqFlds 13 16, irqFlds 13 17].flatten [tabKey 13 3
      grp]) ∧
  (∀ (rec_ : Nat) (s : State), Instr.wellFormed (.recDone rec_) → (s.recXAt rec_).job ≠ 0 → (s.recXAt rec_).upto ≤ (s.recXAt rec_).pos →
    ∃ t, exec (.recDone rec_) s = .next t ∧ (t.recXAt rec_).job = 0 ∧ t.rd (SVC_REC.BUSY rec_) = 0 ∧ (t.reg 13 0x10).getLsbD 20 ∧
    s.framed t [[.recX], irqPieces].flatten [[SVC_REC.BUSY rec_], irqFlds 13 20].flatten []) ∧
  (∀ (m rc : Nat) (data : Word) (s : State), Instr.wellFormed (.recReadout m rc data) → s.takesCmd m 13 → s.rd (SVC_REC.BUSY rc) = 0 →
    ∃ t, exec (.recReadout m rc data) s = .next t ∧ s.framed t [[.recX], hostPieces].flatten [[SVC_REC3.reg rc], recFlds].flatten []) ∧
  (∀ (m rc : Nat) (data : Word) (s : State), Instr.wellFormed (.recReplay m rc data) → s.takesCmd m 13 → s.rd (SVC_REC.BUSY rc) = 0 →
    ∃ t, exec (.recReplay m rc data) s = .next t ∧ s.framed t [[.recX], hostPieces].flatten [[SVC_REC3.reg rc], recFlds].flatten [])

/-- Doorbells move their queue's indices, and interrupts go out. DB_TX_TAIL, DB_RX_TAIL, DB_CQ_HEAD, DB_ARM, COAL_TIMEOUT, BLOCK_IRQ_REPEAT, MSIX_UNMASK
and QPC_WRITE. Beside these, what VIRT_NOP, VIRT_CREATE, VIRT_QUIESCE, VIRT_RESUME, VIRT_RESET, VIRT_REMOVE, VIRT_QUIESCED, QUIESCE_READ_TIMEOUT,
VF_FLR, VF_ENABLE_CHANGE, CONTAIN_RELEASE leave alone where they complete. (13_host_interface.md R468, 13_host_interface.md R478,
13_host_interface.md R479, 13_host_interface.md R482, 13_host_interface.md R483, 14_virtual_instances.md R495, 12_services.md, 15_start_up.md,
17_faults.md, 18_counters_and_tracing.md, 20_presence_seal_journal.md.) -/
def Obligations.DoorbellsAndInterrupts : Prop :=
  (∀ (fn : Nat) (tag : Bool) (pasid page : Nat) (data : Word) (q i m : Nat) (s : State), Instr.wellFormed (.dbTxTail fn tag pasid page data) →
    s.dbTarget fn tag pasid page = .to_ q i m → (s.qp q).on QP.EN → ∃ t, exec (.dbTxTail fn tag pasid page data) s = .next t ∧
    (t.qpxAt q).txTail = data.toNat % (s.qp q).txSize ∧ s.framed t [.qpx, .l1At, .emitted] [] []) ∧
  (∀ (fn : Nat) (tag : Bool) (pasid page : Nat) (data : Word) (q i m : Nat) (s : State), Instr.wellFormed (.dbRxTail fn tag pasid page data) →
    s.dbTarget fn tag pasid page = .to_ q i m → (s.qp q).on QP.EN → ∃ t, exec (.dbRxTail fn tag pasid page data) s = .next t ∧
    (t.qpxAt q).rxTail = data.toNat % (s.qp q).rxSize ∧ s.framed t [.qpx, .l1At, .emitted] [] []) ∧
  (∀ (fn : Nat) (tag : Bool) (pasid page : Nat) (data : Word) (q i m : Nat) (s : State), Instr.wellFormed (.dbCqHead fn tag pasid page data) →
    s.dbTarget fn tag pasid page = .to_ q i m → (s.qp q).on QP.EN → ∃ t, exec (.dbCqHead fn tag pasid page data) s = .next t ∧
    (t.qpxAt q).cqHead = data.toNat % (s.qp q).cqSize ∧ s.framed t [.qpx, .l1At, .emitted] [] []) ∧
  (∀ (fn : Nat) (tag : Bool) (pasid page : Nat) (data : Word) (q i m : Nat) (s : State), Instr.wellFormed (.dbTxTail fn tag pasid page data) →
    s.dbTarget fn tag pasid page = .to_ q i m → (s.qp q).on QP.EN = false → s.rd PCIE_DB_DISCARD.COUNT < 2 ^ 16 - 1 →
    ∃ t, exec (.dbTxTail fn tag pasid page data) s = .next t ∧ t.rd PCIE_DB_DISCARD.COUNT = s.rd PCIE_DB_DISCARD.COUNT + 1 ∧
    s.framed t [.emitted] [PCIE_DB_DISCARD.COUNT] []) ∧
  (∀ (fn : Nat) (tag : Bool) (pasid page : Nat) (data : Word) (q i m : Nat) (s : State), Instr.wellFormed (.dbArm fn tag pasid page data) →
    s.dbTarget fn tag pasid page = .to_ q i m → (s.qp q).on QP.EN → (s.qpxAt q).counted = 0 →
    ∃ t, exec (.dbArm fn tag pasid page data) s = .next t ∧ (t.qpxAt q).armed ∧ (t.qpxAt q).signalled = false ∧ (t.qpxAt q).coalAt = none ∧
    s.framed t [[.qpx], irqPieces].flatten [PCIE_LINK_STAT.IN_L1] []) ∧
  (∀ (qp : Nat) (c : Nat) (s : State), Instr.wellFormed (.coalTimeout qp) → (s.qpxAt qp).coalAt = some c → (s.qpxAt qp).armed →
    s.since c ((s.qp qp).f QP.COAL_US * 1000) → ∃ t, exec (.coalTimeout qp) s = .next t ∧ (t.qpxAt qp).armed = false ∧ (t.qpxAt qp).signalled ∧
    (t.qpxAt qp).coalAt = none ∧ s.framed t [[.qpx], irqPieces].flatten [PCIE_LINK_STAT.IN_L1] []) ∧
  (∀ (c : Nat) (s : State), Instr.wellFormed .blockIrqRepeat → s.irqSince = some c → s.irqSummary → s.since c 1000000 → s.contained = false →
    (s.pcieFnAt 0).msixEn → (s.pcieFnAt 0).d3hot = false → (s.msixAt 0).masked = false → ∃ t, exec (.blockIrqRepeat) s = .next t ∧
    t.irqSince = some s.mono ∧ .msix 0 0 (s.msixAt 0).addr (s.msixAt 0).data ∈ t.emitted ∧ s.framed t irqPieces [PCIE_LINK_STAT.IN_L1] []) ∧
  (∀ (fn vec addr : Nat) (data : Word) (s : State), Instr.wellFormed (.msixUnmask fn vec addr data) → (fn == 0 || decide (vec < 64)) →
    (s.pcieFnAt fn).mse → (s.pcieFnAt fn).msixEn → (s.pcieFnAt fn).d3hot = false → s.contained = false → (s.msixAt (fn * 2048 + vec)).pending →
    ∃ t, exec (.msixUnmask fn vec addr data) s = .next t ∧ .msix fn vec addr data.toNat ∈ t.emitted ∧
    (t.msixAt (fn * 2048 + vec)).masked = false ∧ (t.msixAt (fn * 2048 + vec)).pending = false ∧ s.framed t irqPieces [PCIE_LINK_STAT.IN_L1] []) ∧
  (∀ (fn : Nat) (tag : Bool) (pasid page off : Nat) (data : Word) (q i m : Nat) (e : Entry) (s : State),
    Instr.wellFormed (.qpcWrite fn tag pasid page off data) → s.dbTarget fn tag pasid page = .to_ q i m →
    qpcEntry (s.qp q) off data.toNat = some e → s.qpDenied q e = false → e.on QP.EN = (s.qp q).on QP.EN → (s.qp q).f QP.STATE = 0 →
    e.on QP.EN = false → s.jnlAccepts (tableRecord m 3 0 2 q (entryAux (some e)) s) →
    (s.jnlHeld.any (fun h => h.what == 0 || h.what == 3)) = false → ∃ t, exec (.qpcWrite fn tag pasid page off data) s = .next t ∧
    t.tab 3 0 q = { e with data := setFieldOf (setFieldOf e.data 415 320 (fieldOf (s.qp q).data 415 320)) 30 29 0 } ∧
    (t.qpxAt q).refused = false ∧ s.framed t [[.qpx], recPieces].flatten recFlds [tabKey 3 0 q]) ∧
  (∀ (m : Nat) (data : Word) (s : State), Instr.wellFormed (.virtNop m data) → s.takesCmd m 4 → s.rd VIRT_CMD_STAT.BUSY = 0 →
    ∃ t, exec (.virtNop m data) s = .next t ∧ s.framed t hostPieces [[VIRT_CMD.reg, VIRT_CMD_STAT.reg], recFlds, irqFlds 4 20].flatten []) ∧
  (∀ (m : Nat) (data : Word) (i : Nat) (s : State), Instr.wellFormed (.virtCreate m data) → s.takesCmd m 4 → s.rd VIRT_CMD_STAT.BUSY = 0 →
    i = data.toNat % 4096 → (s.inst i).f INST.STATE = 0 → s.createResult i = 0 → ∃ t, exec (.virtCreate m data) s = .next t ∧
    s.framed t [[.dieTx], .dieRx :: recPieces, [.bodies, .counters, .hostQ, .pauseQ, .pauseSentAt, .qpx, .reqResv, .snapSaved, .stgGlobal,
      .stgResv, .stgXoff, .vinst, .xoff]].flatten [[VIRT_CMD.reg, VIRT_CMD_STAT.reg, VIRT_COUNT.reg], recFlds].flatten [[tabKey 4 0 i], (s.instQps
      i).map (tabKey 3 0)].flatten) ∧
  (∀ (m : Nat) (data : Word) (i : Nat) (s : State), Instr.wellFormed (.virtQuiesce m data) → s.takesCmd m 4 → s.rd VIRT_CMD_STAT.BUSY = 0 →
    i = data.toNat % 4096 → i ≠ 0 → (s.inst i).f INST.STATE = 1 → ∃ t, exec (.virtQuiesce m data) s = .next t ∧
    s.framed t [[.vinst], hostPieces].flatten [[VIRT_CMD.reg, VIRT_CMD_STAT.reg], recFlds].flatten [tabKey 4 0 i]) ∧
  (∀ (m : Nat) (data : Word) (i : Nat) (s : State), Instr.wellFormed (.virtResume m data) → s.takesCmd m 4 → s.rd VIRT_CMD_STAT.BUSY = 0 →
    i = data.toNat % 4096 → (s.inst i).f INST.STATE = 3 → ∃ t, exec (.virtResume m data) s = .next t ∧
    s.framed t [[.vinst], hostPieces].flatten [[VIRT_CMD.reg, VIRT_CMD_STAT.reg], recFlds].flatten [tabKey 4 0 i]) ∧
  (∀ (m : Nat) (data : Word) (i : Nat) (s : State), Instr.wellFormed (.virtReset m data) → s.takesCmd m 4 → s.rd VIRT_CMD_STAT.BUSY = 0 →
    i = data.toNat % 4096 → (s.inst i).f INST.STATE = 3 → ∃ t, exec (.virtReset m data) s = .next t ∧
    s.framed t [[.dieTx], .dieRx :: recPieces, [.bodies, .counters, .hostQ, .pauseQ, .pauseSentAt, .qpx, .reqResv, .snapSaved, .stgGlobal,
      .stgResv, .stgXoff, .vinst, .xoff]].flatten [[VIRT_CMD.reg, VIRT_CMD_STAT.reg, VIRT_COUNT.reg, PCIE_DMA_STAT.reg, CRY_STAT.reg,
      BLK_STAT.OPEN_CLASS 2], stageFlds, recFlds].flatten [[tabKey 4 0 i], (s.instQps i).map (tabKey 3 0), s.openIndices.map (tabKey 5
      0)].flatten) ∧
  (∀ (m : Nat) (data : Word) (i : Nat) (s : State), Instr.wellFormed (.virtRemove m data) → s.takesCmd m 4 → s.rd VIRT_CMD_STAT.BUSY = 0 →
    i = data.toNat % 4096 → (s.inst i).f INST.STATE = 3 → ∃ t, exec (.virtRemove m data) s = .next t ∧
    s.framed t [[.dieTx], .dieRx :: recPieces, [.bodies, .counters, .hostQ, .pauseQ, .pauseSentAt, .qpx, .reqResv, .snapSaved, .stgGlobal,
      .stgResv, .stgXoff, .vinst, .xoff]].flatten [[VIRT_CMD.reg, VIRT_CMD_STAT.reg, VIRT_COUNT.reg, PCIE_DMA_STAT.reg, CRY_STAT.reg,
      BLK_STAT.OPEN_CLASS 2], stageFlds, recFlds].flatten [[tabKey 4 0 i], (s.instQps i).map (tabKey 3 0), s.openIndices.map (tabKey 5
      0)].flatten) ∧
  (∀ (inst : Nat) (s : State), Instr.wellFormed (.virtQuiesced inst) → (s.inst inst).f INST.STATE = 2 →
    (s.instQps inst).all (fun q => (s.qpxAt q).reads.isEmpty && (s.qpxAt q).wait.isNone) → ∃ t, exec (.virtQuiesced inst) s = .next t ∧
    s.framed t irqPieces (irqFlds 4 16) [tabKey 4 0 inst]) ∧
  (∀ (inst : Nat) (q c : Nat) (r : TxRead) (s : State), Instr.wellFormed (.quiesceReadTimeout inst) → (s.inst inst).f INST.STATE = 2 →
    (s.vinstAt inst).quiesceAt = some c → s.since c 50000000 → s.ctoNs = none → s.instQps inst = [q] → (s.qpxAt q).reads = [r] →
    ∃ t, exec (.quiesceReadTimeout inst) s = .next t ∧
    s.framed t [errPieces, [.bodies, .counters, .hostQ, .pauseQ, .pauseSentAt, .pcieFn, .qpx, .reqResv, .snapSaved, .stgGlobal, .stgResv,
      .stgXoff, .xoff]].flatten [[PCIE_CTO_COUNT.reg, PCIE_DMA_STAT.reg], errFlds 2, irqFlds 2 17, irqFlds 2 18, stageFlds].flatten ((s.instQps
      inst).map (tabKey 3 0))) ∧
  (∀ (vf : Nat) (s : State), Instr.wellFormed (.vfFlr vf) → (s.pcieFnAt 0).vfEnable → vf ≤ (s.pcieFnAt 0).numVfs → (s.inst vf).f INST.STATE ≠ 0 →
    ∃ t, exec (.vfFlr vf) s = .next t ∧
    s.framed t [recPieces, [.bodies, .counters, .hostQ, .pauseQ, .pauseSentAt, .pcieFn, .qpx, .reqResv, .snapSaved, .stgGlobal, .stgResv,
      .stgXoff, .xoff]].flatten [[PCIE_DMA_STAT.reg, CRY_STAT.reg, BLK_STAT.OPEN_CLASS 2], irqFlds 4 18, stageFlds, recFlds].flatten [[tabKey 4 0
      vf], (s.instQps vf).map (tabKey 3 0), s.openIndices.map (tabKey 5 0)].flatten) ∧
  (∀ (enable : Bool) (num : Nat) (s : State), Instr.wellFormed (.vfEnableChange enable num) → ∃ t, exec (.vfEnableChange enable num) s = .next t ∧
    s.framed t [recPieces, [.bodies, .counters, .hostQ, .pauseQ, .pauseSentAt, .pcieFn, .qpx, .reqResv, .snapSaved, .stgGlobal, .stgResv,
      .stgXoff, .xoff]].flatten [[PCIE_DMA_STAT.reg, CRY_STAT.reg, BLK_STAT.OPEN_CLASS 2], stageFlds, recFlds].flatten [(List.range 64).map
      (tabKey 4 0), (List.range 63).flatMap (fun v => (s.instQps (v + 1)).map (tabKey 3 0)), s.openIndices.map (tabKey 5 0)].flatten) ∧
  (∀ (m : Nat) (data : Word) (s : State), Instr.wellFormed (.containRelease m data) → s.takesWrite m 2 → s.contained → s.releasable →
    ∃ t, exec (.containRelease m data) s = .next t ∧
    s.framed t hostPieces [[PCIE_CONTAIN.reg, CRY_STAT.reg, BLK_STAT.OPEN_CLASS 2], recFlds].flatten (s.openIndices.map (tabKey 5 0)))

/-- REFCLK is lost, comes back and appears. REFCLK_LOSS, REFCLK_RETURN and REFCLK_PRESENT. (21_electrical_and_package.md R676, 15_start_up.md R521.) -/
def Obligations.ReferenceClock : Prop :=
  (∀ (s : State), Instr.wellFormed .refclkLoss → s.refclk → 2 ≤ s.rd DEV_STAT.STAGE → ∃ t, exec (.refclkLoss) s = .next t ∧ t.refclk = false ∧
    t.rd PWR_STAT.REFCLK_OK = 0 ∧ (t.regsAt (regKey 257 0x10)).getLsbD 18 ∧
    s.framed t [[.refclk], irqPieces].flatten [[PWR_STAT.REFCLK_OK], irqFlds 257 18].flatten []) ∧
  (∀ (s : State), Instr.wellFormed .refclkReturn → 2 ≤ s.rd DEV_STAT.STAGE → s.rd PWR_STAT.REFCLK_OK = 0 → ∃ t, exec (.refclkReturn) s = .next t ∧
    t.refclk ∧ t.rd PWR_STAT.REFCLK_OK = 1 ∧ s.framed t [.refclk, .emitted] [PWR_STAT.REFCLK_OK] []) ∧
  (∀ (s : State), Instr.wellFormed .refclkPresent → s.rd DEV_STAT.STAGE = 1 → ∃ t, exec (.refclkPresent) s = .next t ∧ t.refclk ∧
    t.rd PWR_STAT.REFCLK_OK = 1 ∧ s.framed t [.refclk, .emitted] [PWR_STAT.REFCLK_OK] [])

/-- Crier messages are collected, the first fault found, a Fatal condition latched. CRIER_RECEIVE, FIRST_WINDOW_CLOSE, FATAL_DETECT, FATAL_CAPTURE and
CRY_LOG_POP. Beside these, what FATAL_CAPTURE_CLEAR leaves alone where it completes. (17_faults.md R573, 17_faults.md R574, 17_faults.md R575,
17_faults.md R576, 17_faults.md R579, 17_faults.md R581, 17_faults.md R582, 17_faults.md R583, 17_faults.md R586, 17_faults.md R587, 17_faults.md
R588, 12_services.md.) -/
def Obligations.CrierRecords : Prop :=
  (∀ (page : Nat) (m : CryMsg) (r : List CryMsg) (s : State), Instr.wellFormed (.crierReceive page) → s.cryQueueAt page = m :: r → m.cls = 1 →
    s.cryPend = [] → s.rd CRY_CFG.LOG_MIN ≤ 1 → 1 < s.rd CRY_CFG.FIRST_MIN → s.cryLog.length < 4096 → (dieOf page = 1 ∨ s.crossFree 17 = true) →
    s.firstEnd = none → page < 65536 → ∃ t, exec (.crierReceive page) s = .next t ∧ t.cryQueueAt page = r ∧
    t.cryLog = s.cryLog ++ [(m, extendTime s.ns64 m.time)] ∧ t.rd (CRY_CLASS_COUNT.reg 1) = min (2 ^ 32 - 1) (s.rd (CRY_CLASS_COUNT.reg 1) + 1) ∧
    s.framed t [[.cryQueue, .cryLog, .dieTx, .dieRx], irqPieces].flatten [[CRY_CLASS_COUNT.reg 1], irqFlds 5 17].flatten []) ∧
  (∀ (e : Nat) (m : CryMsg) (u : Nat) (s : State), Instr.wellFormed .firstWindowClose → s.firstEnd = some e → s.firstWin = [(m, u)] → e ≤ s.mono →
    ∃ t, exec (.firstWindowClose) s = .next t ∧ t.firstEnd = none ∧ t.firstWin = [] ∧ t.rd CRY_FIRST_CTRL.VALID = 1 ∧
    t.rd CRY_FIRST_CTRL.MORE = 0 ∧ t.rd (CRY_FIRST_MSG.reg 3) = m.bits % 2 ^ 32 ∧ t.rd (CRY_FIRST_MSG.reg 0) = m.bits / 2 ^ 96 % 2 ^ 32 ∧
    t.rd CRY_FIRST_TIME_LO.reg = u % 2 ^ 32 ∧
    s.framed t [[.firstEnd, .firstWin], irqPieces].flatten [[CRY_FIRST_MSG.reg 0, CRY_FIRST_MSG.reg 1, CRY_FIRST_MSG.reg 2, CRY_FIRST_MSG.reg 3,
      CRY_FIRST_TIME_LO.reg, CRY_FIRST_TIME_HI.reg, CRY_FIRST_CTRL.MORE, CRY_FIRST_CTRL.VALID], irqFlds 5 19].flatten []) ∧
  (∀ (page kind addr : Nat) (s : State), Instr.wellFormed (.fatalDetect page kind addr) → isFatalKind page kind → s.fatalLatch = false →
    (List.range 144).all (fun l => s.linkState l == 0) → s.rd (ERRCAP_CTRL.VALID page) = 0 → ∃ t, exec (.fatalDetect page kind addr) s = .next t ∧
    t.fatalLatch ∧ t.rd DEV_STAT.FATAL_LATCHED = 1 ∧ t.rd CRY_STAT.FATAL = 1 ∧ t.rd FAB_STAT.SAFE = 1 ∧ .pin "FATAL_N" false ∈ t.emitted ∧
    (∀ p, p < 48 → .signal 3 p true ∈ t.emitted) ∧ t.fatalQ = s.fatalQ ++ [(errorMsg s page addr 0xE000 4 kind, s.mono)] ∧
    t.rd (ERRCAP_CTRL.VALID page) = 1 ∧ s.onlyIn t [countPieces, [.dieRx, .dieTx, .fatalLatch, .fatalQ, .linkX, .unreachAt]].flatten) ∧
  (∀ (m : CryMsg) (u : Nat) (s : State), Instr.wellFormed .fatalCapture → s.fatalQ = [(m, u)] → s.since u 10000 → s.rd CRY_FATAL_STAT.VALID = 0 →
    m.cls = 4 → ∃ t, exec (.fatalCapture) s = .next t ∧ t.fatalQ = [] ∧ t.rd CRY_FATAL_STAT.VALID = 1 ∧
    t.rd (CRY_FATAL_MSG.reg 2) = m.bits / 2 ^ 32 % 2 ^ 32 ∧ t.rd CRY_FATAL_TIME_LO.reg = extendTime s.ns64 m.time % 2 ^ 32 ∧
    s.onlyIn t [irqPieces, [.cryLog, .fatalQ, .firstEnd, .firstWin, .openPage, .regs, .tables]].flatten) ∧
  (∀ (m : Nat) (s : State), Instr.wellFormed (.cryLogPop m) → s.serves m 5 → (s.hiLatchAt (pairKey m 5)).all (fun x => x.1 != 0x234) →
    ∃ t, exec (.cryLogPop m) s = .next t ∧ t.cryLog = s.cryLog.drop 1 ∧ .readData m 5 0x234 (s.shows 5 0x234).toNat false ∈ t.emitted ∧
    s.framed t [.emitted, .dieTx, .dieRx, .cryLog] [] []) ∧
  (∀ (m : Nat) (s : State), Instr.wellFormed (.fatalCaptureClear m) → s.takesWrite m 5 → s.fatalLatch = false →
    ∃ t, exec (.fatalCaptureClear m) s = .next t ∧ s.framed t hostPieces [[CRY_FATAL_STAT.reg], recFlds].flatten []) ∧
  (∀ (m : Nat) (s : State), Instr.wellFormed (.fatalCaptureClear m) → s.takesWrite m 5 → s.fatalLatch →
    ∃ t, exec (.fatalCaptureClear m) s = .next t ∧ s.framed t hostPieces recFlds [])

/-- Defects come and go; a second of performance monitoring. DEFECT_ENTRY, DEFECT_EXIT and PM_SECOND. Beside these, what AUTONEG_DONE,
LINK_TRAINING_DONE, LINK_TRAINING_TIMEOUT leave alone where they complete. (03_ports_and_framing.md R123, 03_ports_and_framing.md R128,
03_ports_and_framing.md R129.) -/
def Obligations.DefectsAndMonitoring : Prop :=
  (∀ (port : Nat) (s : State), Instr.wellFormed (.defectEntry 0 port 1) → port < 48 → s.rd (PORT_STAT.LOS port) = 0 → s.flxHeldAt port = none →
    ∃ t, exec (.defectEntry 0 port 1) s = .next t ∧ t.rd (PORT_STAT.LOS port) = 1 ∧ t.rd (PORT_STAT.LOL port) = 0 ∧
    t.rd (PORT_STAT.HI_BER port) = 0 ∧ t.rd (PORT_STAT.LF port) = 0 ∧ t.rd (PORT_STAT.RF port) = 0 ∧
    s.framed t [[.instX], .pmX :: linkPieces].flatten [[PORT_STAT.LOS port, PORT_STAT.LOL port, PORT_STAT.HI_BER port, PORT_STAT.LF port,
      PORT_STAT.RF port] ++ irqFlds (16 + port) 16, linkFlds port].flatten []) ∧
  (∀ (port : Nat) (s : State), Instr.wellFormed (.defectExit 0 port 1) → port < 48 → s.rd (PORT_STAT.LOS port) = 1 → s.flxHeldAt port = none →
    ∃ t, exec (.defectExit 0 port 1) s = .next t ∧ t.rd (PORT_STAT.LOS port) = 0 ∧
    s.framed t [[.pmX], linkPieces].flatten [[PORT_STAT.LOS port], linkFlds port].flatten []) ∧
  (∀ (index : Nat) (s : State), Instr.wellFormed (.defectEntry 4 index 9) → index < 1024 → s.rd (XC_CH_STAT.RX_AIS index) = 0 →
    ∃ t, exec (.defectEntry 4 index 9) s = .next t ∧ t.rd (XC_CH_STAT.RX_AIS index) = 1 ∧ (t.reg 88 0x10).getLsbD 18 ∧
    s.onlyIn t [[.regs], irqPieces].flatten) ∧
  (∀ (client : Bool) (index errored : Nat) (es ses : Bool) (h : List (Bool × Bool × Bool)) (units : Nat) (codewords : List Nat) (s : State),
    Instr.wellFormed (.pmSecond client index errored (units,codewords)) → client = false → index < 48 → (s.pmXAt index).lastSec < s.sec →
    (s.pmXAt index).marks.contains (s.sec - 1) = false → s.pmDefectNow false index = false → errored = 0 → 0 < units →
    (s.pmXAt index).hist = h ++ [(es, ses, false)] → h.length = 9 → (s.pmXAt index).unavail = false →
    ∃ t, exec (.pmSecond client index errored (units,codewords)) s = .next t ∧ (t.pmXAt index).hist = (false, false, false) :: h ∧
    (t.pmXAt index).lastSec = s.sec ∧ t.counter 0 (128 * index + 64) = (s.counter 0 (128 * index + 64) + codewords.getD 0 0) % 2 ^ 64 ∧
    ((t.reg (16 + index) 0x240).toNat = (if es = true then satAdd 32 (s.reg (16 + index) 0x240).toNat 1 else (s.reg (16 + index) 0x240).toNat)) ∧
    ((t.reg (16 + index) 0x244).toNat = (if ses = true then satAdd 32 (s.reg (16 + index) 0x244).toNat 1 else (s.reg (16 + index) 0x244).toNat)) ∧
    s.framed t [.emitted, .pmX, .counters, .snapSaved] [⟨16 + index, 0x240, 31, 0⟩, ⟨16 + index, 0x244, 31, 0⟩, ⟨16 + index, 0x24C, 31, 0⟩] []) ∧
  (∀ (port partner : Nat) (s : State), Instr.wellFormed (.autonegDone port partner) → s.on (PORT_MODE.AN_EN port) →
    s.rd (PORT_STAT.CFG_ERR port) = 0 → s.cfg (PORT_MODE.MODE port) ≠ 0 → ∃ t, exec (.autonegDone port partner) s = .next t ∧
    s.framed t linkPieces [[PORT_STAT.AN_DONE port], PORT_STAT.LT_DONE port :: linkFlds port].flatten []) ∧
  (∀ (port : Nat) (s : State), Instr.wellFormed (.linkTrainingDone port) → s.on (PORT_MODE.LT_EN port) →
    (s.on (PORT_MODE.AN_EN port) = false ∨ s.rd (PORT_STAT.AN_DONE port) = 1) → s.rd (PORT_STAT.CFG_ERR port) = 0 →
    s.cfg (PORT_MODE.MODE port) ≠ 0 → ∃ t, exec (.linkTrainingDone port) s = .next t ∧
    s.framed t linkPieces [[PORT_STAT.LT_DONE port], linkFlds port].flatten []) ∧
  (∀ (port : Nat) (s : State), Instr.wellFormed (.linkTrainingTimeout port) → s.on (PORT_MODE.LT_EN port) → s.rd (PORT_STAT.LT_DONE port) = 0 →
    (s.on (PORT_MODE.AN_EN port) = false ∨ s.rd (PORT_STAT.AN_DONE port) = 1) → s.rd (PORT_STAT.CFG_ERR port) = 0 →
    s.cfg (PORT_MODE.MODE port) ≠ 0 → s.cageReady port → (s.cageXAt port).copper → ∃ t, exec (.linkTrainingTimeout port) s = .next t ∧
    s.framed t [.emitted] [] []) ∧
  (∀ (port : Nat) (s : State), Instr.wellFormed (.linkTrainingTimeout port) → (s.cageXAt port).copper = false →
    ∃ t, exec (.linkTrainingTimeout port) s = .next t ∧ s.framed t [.emitted] [] [])

/-- Spares are tested, rotated and handed over. SELF_TEST_PASS_END, QUARANTINE_END, PLANNED_HANDOVER, HANDOVER_DONE, ROTATION, REVERT_HOLD_END,
RPR_EVT_POP and ROLLING_UPDATE_STEP. (16_repair_and_redundancy.md R549, 16_repair_and_redundancy.md R550, 16_repair_and_redundancy.md R551,
16_repair_and_redundancy.md R552, 16_repair_and_redundancy.md R558, 16_repair_and_redundancy.md R565, 16_repair_and_redundancy.md R567,
16_repair_and_redundancy.md R569, 19_update_and_store.md R636.) -/
def Obligations.SparesTestedAndRotated : Prop :=
  (∀ (cls unit : Nat) (pass : Bool) (s : State), Instr.wellFormed (.selfTestPassEnd cls unit pass) → s.role cls unit = 2 → s.recovAt cls = [] →
    pass = false → (s.unitXAt (unitKey cls unit)).fails = 0 → cls ≤ 2 → unit < 128 → ∃ t, exec (.selfTestPassEnd cls unit pass) s = .next t ∧
    t.qualified cls unit = false ∧ (t.unitXAt (unitKey cls unit)).fails = 1 ∧ (t.unitXAt (unitKey cls unit)).goodAt = some s.mono ∧
    t.unit cls unit UNIT.LAST_RESULT = 2 ∧
    t.unit cls unit UNIT.FAILS = min (2 ^ (UNIT.FAILS.hi + 1 - UNIT.FAILS.lo) - 1) (s.unit cls unit UNIT.FAILS + 1) ∧
    s.onlyIn t [recoveryPieces, [.dieRx, .dieTx, .tblOp]].flatten) ∧
  (∀ (cls unit : Nat) (pass : Bool) (s : State), Instr.wellFormed (.quarantineEnd cls unit pass) → s.role cls unit = 3 →
    (s.unitXAt (unitKey cls unit)).test = 1 → pass → cls ≤ 2 → unit < 128 → s.recovAt cls = [] →
    ∃ t, exec (.quarantineEnd cls unit pass) s = .next t ∧ t.role cls unit = 2 ∧ t.unit cls unit UNIT.LAST_RESULT = 1 ∧
    (t.unitXAt (unitKey cls unit)).fencedAt = none ∧ t.qualified cls unit ∧ s.onlyIn t [recoveryPieces, [.dieRx, .dieTx, .tblOp]].flatten) ∧
  (∀ (cls unit : Nat) (q : Recov) (u : Nat) (s : State), Instr.wellFormed (.plannedHandover cls unit) → s.recovAt cls = [q] → q.running = false →
    q.fault = false → q.old = unit → q.new = some u → s.qualified cls u → cls ≤ 2 → ∃ t, exec (.plannedHandover cls unit) s = .next t ∧
    t.recovAt cls = [{ q with running := true }] ∧
    s.onlyIn t [.dieDownAt, .emitted, .jnlHeld, .recov, .regs, .tables, .tblOp, .tcFlip, .tcamLoad]) ∧
  (∀ (cls : Nat) (q : Recov) (u : Nat) (s : State), Instr.wellFormed (.handoverDone cls) → s.recovAt cls = [q] → q.running → q.fault = false →
    q.new = some u → q.old ≠ u → q.cmd = false → q.after = 0 → cls = 2 → u < 9 → q.old < 9 → q.logical < 8 → (s.home cls q.logical).isSome →
    s.drained cls q.old q.logical → s.genFree cls q.logical → ∃ t, exec (.handoverDone cls) s = .next t ∧ t.role cls u = 1 ∧
    t.unit cls u UNIT.LOGICAL = q.logical ∧ t.unit cls u UNIT.GEN = nextGen (s.gensAt (unitKey cls q.logical)) ∧ t.role cls q.old = 2 ∧
    t.recovAt cls = [] ∧ s.onlyIn t [recoveryPieces, [.coreTag, .dieRx, .dieTx, .genEpoch, .gens, .smpSel, .tblOp]].flatten) ∧
  (∀ (u : Nat) (s : State), Instr.wellFormed .rotation → s.rd (BLK_CTRL.ENABLE 9) = 1 → s.rd RPR_CFG.ROT_EN = 1 → s.rd RPR_CFG.ROT_MIN = 1 →
    s.rd PWR_STAT.THROTTLING = 0 → s.since s.rotAt 1000000000 → s.since 0 60000000000 → s.rotClassAt = [] → s.rotationNext 0 = some u →
    s.rotationSkips 0 = false → ∃ t, exec (.rotation) s = .next t ∧
    t.recovAt 0 = [{ logical := s.unit 0 u UNIT.LOGICAL, old := u, at_ := s.mono, fault := false, after := 2 }] ∧ t.rotAt = s.mono ∧
    s.framed t [.rotClassAt, .rotAt, .rotLast, .recov, .emitted] [] []) ∧
  (∀ (cls unit : Nat) (g : Nat) (q : Recov) (s : State), Instr.wellFormed (.revertHoldEnd cls unit) → s.rd RPR_CFG.REVERT_EN = 1 →
    (s.unitXAt (unitKey cls unit)).goodAt = some g → s.since g (max 1 (s.rd RPR_CFG.REVERT_HOLD_S) * 1000000000) → s.revertOf cls unit = some q →
    ∃ t, exec (.revertHoldEnd cls unit) s = .next t ∧ t.recovAt cls = [q] ∧ s.framed t [.recov, .emitted] [] []) ∧
  (∀ (m : Nat) (s : State), Instr.wellFormed (.rprEvtPop m) → s.serves m 9 → (s.hiLatchAt (pairKey m 9)).all (fun x => x.1 != 0x23C) →
    ∃ t, exec (.rprEvtPop m) s = .next t ∧ t.rprEvt = s.rprEvt.drop 1 ∧ .readData m 9 0x23C (s.shows 9 0x23C).toNat false ∈ t.emitted ∧
    s.framed t [.emitted, .dieTx, .dieRx, .rprEvt] [] []) ∧
  (∀ (k slot : Nat) (s : State), Instr.wellFormed .rollingUpdateStep → s.roll = some (k, slot) → 8 ≤ k → s.mainUp → s.recovAt clsScore = [] →
    (List.range 9).any (fun u => s.role clsScore u == 3 && (s.unitXAt (unitKey clsScore u)).test == 4) = false →
    ∃ t, exec (.rollingUpdateStep) s = .next t ∧ t.roll = none ∧ t.rd UPD_BOOT.ROLLING = 0 ∧ (t.regsAt (regKey 8 0x10)).getLsbD 22 ∧
    s.framed t [[.roll], irqPieces].flatten [[UPD_BOOT.ROLLING], irqFlds 8 22].flatten [])

/-- Snapshots, dumps and the trace ring. SNAPSHOT_PERIODIC, DUMP_DONE and TRACE_DMA_WRITE. Beside these, what SNAPSHOT_GO, DUMP_ENABLE leave alone where
they complete. (18_counters_and_tracing.md R600, 18_counters_and_tracing.md R602, 18_counters_and_tracing.md R606, 18_counters_and_tracing.md R607,
18_counters_and_tracing.md R612, 18_counters_and_tracing.md R613, 12_services.md, 13_host_interface.md, 15_start_up.md, 17_faults.md,
20_presence_seal_journal.md.) -/
def Obligations.SnapshotsAndTraces : Prop :=
  (∀ (s : State), Instr.wellFormed .snapshotPeriodic → s.rd (BLK_CTRL.ENABLE 10) = 1 → s.rd CNT_DUMP_CFG.EN = 1 →
    s.ns64 % (min 60000 (max 100 (s.rd CNT_DUMP_CFG.PERIOD_MS)) * 1000000) < 2 →
    s.snapAt ≠ some (s.ns64 / (min 60000 (max 100 (s.rd CNT_DUMP_CFG.PERIOD_MS)) * 1000000)) → s.snap = none → s.rd CNT_DUMP_HEAD.FULL = 0 →
    ∃ t, exec (.snapshotPeriodic) s = .next t ∧ t.snap = some { time := s.ns64, mono := s.mono, go := false, mask := s.rd CNT_DUMP_MASK.FAMILY } ∧
    t.rd CNT_SNAP.BUSY = 1 ∧ s.framed t [.emitted, .snap, .snapAt] [CNT_SNAP.BUSY] []) ∧
  (∀ (sn : Snap) (s : State), Instr.wellFormed .dumpDone → s.snap = some sn → sn.mono ≤ s.mono → s.dmaOn 0 → s.rd PCIE_LINK_STAT.IN_L1 = 0 →
    (s.crossFree 15 = true ∨ sn.mask % 256 = 0) → s.rd CNT_DUMP_HEAD.TAIL < 16 → ∃ t, exec (.dumpDone) s = .next t ∧ t.snap = none ∧
    t.rd CNT_SNAP.BUSY = 0 ∧ t.dumpCount = s.dumpCount + 1 ∧ t.rd CNT_DUMP_HEAD.TAIL = (s.rd CNT_DUMP_HEAD.TAIL + 1) % s.dumpBufs ∧
    (t.reg 10 0x10).getLsbD 16 ∧
    s.framed t [[.snap, .snapSaved, .dumpCount, .dumpMemErrs, .dieTx, .dieRx], irqPieces].flatten [[CNT_SNAP.BUSY, CNT_DUMP_SEQ_LO.reg,
      CNT_DUMP_SEQ_HI.reg, CNT_DUMP_HEAD.TAIL, CNT_DUMP_HEAD.FULL], irqFlds 10 16].flatten []) ∧
  (∀ (r : TraceRec) (l : List TraceRec) (size : Nat) (s : State), Instr.wellFormed .traceDmaWrite → s.traceBuf = r :: l →
    (size = 2 ^ (if 4 ≤ s.rd TRC_RING_CFG.LOG ∧ s.rd TRC_RING_CFG.LOG ≤ 12 then s.rd TRC_RING_CFG.LOG else 4)) → s.rd TRC_CFG.DMA_EN = 1 →
    s.dmaOn 0 → s.rd PCIE_LINK_STAT.IN_L1 = 0 → s.crossFree 16 →
    (s.rd TRC_RING_CFG.TAIL % size + size - s.rd TRC_RING_CFG.HEAD % size) % size < size - 1 → ∃ t, exec (.traceDmaWrite) s = .next t ∧
    t.traceBuf = l ∧ t.rd TRC_RING_CFG.TAIL = (s.rd TRC_RING_CFG.TAIL % size + 1) % size ∧
    s.framed t [.emitted, .dieTx, .dieRx, .traceBuf, .trcPhase] [TRC_RING_CFG.TAIL, TRC_BUF_STAT.HEAD, TRC_BUF_STAT.LEVEL] []) ∧
  (∀ (m : Nat) (data : Word) (s : State), Instr.wellFormed (.snapshotGo m data) → s.takesCmd m 10 → s.snap = none → s.rd CNT_DUMP_HEAD.FULL = 0 →
    ∃ t, exec (.snapshotGo m data) s = .next t ∧ s.framed t [[.snap], hostPieces].flatten [[CNT_SNAP.reg], recFlds].flatten []) ∧
  (∀ (m : Nat) (data : Word) (s : State), Instr.wellFormed (.dumpEnable m data) → s.takesWrite m 10 → s.rd CNT_DUMP_CFG.EN = 0 →
    dumpSize (s.rd CNT_DUMP_MASK.FAMILY) ≤ s.rd CNT_DUMP_RING.SIZE_MIB * 2 ^ 20 → s.rd CNT_DUMP_BASE_LO.reg % 4096 = 0 →
    ∃ t, exec (.dumpEnable m data) s = .next t ∧ s.framed t hostPieces [[CNT_DUMP_CFG.reg], recFlds].flatten [])

/-- What the resets and the supplies clear and keep. MAIN_POWER_ON_RESET, STANDBY_POWER_ON_RESET, RESET_N_ASSERT, VSB33_LOSS, POWER_FAIL_WARNING and
POWER_FAIL_CLEAR. (15_start_up.md R512, 15_start_up.md R514, 15_start_up.md R515, 15_start_up.md R516, 15_start_up.md R517, 15_start_up.md R518,
20_presence_seal_journal.md R646.) -/
def Obligations.Resets : Prop :=
  (∀ (s : State), Instr.wellFormed .mainPowerOnReset → ∃ t, exec (.mainPowerOnReset) s = .next t ∧ t.fatalLatch = false ∧ t.mono16 = 0 ∧
    t.tables = [] ∧ t.stopped = false ∧ t.latchDue ∧ t.supVin12 = false ∧ t.rd DEV_RESET_CAUSE.COLD = 1 ∧ (∀ k, k ∈ backupRegs →
    t.regsAt k = s.regsAt k) ∧ (∀ i, i < 7 → t.reg 5 (0x270 + 4 * i) = s.reg 5 (0x270 + 4 * i)) ∧ (∀ k, k ∉ alwaysOnRegs ++ backupRegs →
    k ≠ regKey 7 0x200 → t.regsAt k = State.reset.regsAt k) ∧ t.pegStore = s.pegStore ∧ t.ctl = s.ctl ∧ t.rtcNs = s.rtcNs ∧
    t.jnlUnits = s.jnlUnits ∧ t.imgUnit = s.imgUnit ∧ t.snapSlot = s.snapSlot ∧ t.pending = s.pending) ∧
  (∀ (s : State), Instr.wellFormed .standbyPowerOnReset → s.supVsb33 = false → ∃ t, exec (.standbyPowerOnReset) s = .next t ∧ t.fatalLatch = false ∧
    t.supVsb33 ∧ t.rd DEV_RESET_CAUSE.COLD = 0 ∧ t.rd CRY_FATAL_STAT.VALID = 0 ∧ t.rd DEV_SLOT.LATCHED = 0 ∧ (∀ k, k ∈ backupRegs →
    k ≠ regKey BKP_STAT.ON_CELL.page BKP_STAT.ON_CELL.off → t.regsAt k = s.regsAt k) ∧ t.pegStore = s.pegStore ∧ t.ctl = s.ctl ∧
    t.rtcNs = s.rtcNs ∧ t.jnlUnits = s.jnlUnits ∧ t.imgUnit = s.imgUnit ∧ t.snapSlot = s.snapSlot ∧ t.pending = s.pending) ∧
  (∀ (ns : Nat) (s : State), Instr.wellFormed (.resetNAssert ns) → 1000 ≤ ns → ∃ t, exec (.resetNAssert ns) s = .next t ∧
    t.fatalLatch = s.fatalLatch ∧ t.mono16 = 0 ∧ t.tables = [] ∧ t.resetLow ∧ t.rd DEV_SLOT.LATCHED = s.rd DEV_SLOT.LATCHED ∧
    t.rd DEV_RESET_CAUSE.COLD = 2 ∧ (∀ k, k ∈ backupRegs → t.regsAt k = s.regsAt k) ∧ (∀ i, i < 7 →
    t.reg 5 (0x270 + 4 * i) = s.reg 5 (0x270 + 4 * i)) ∧ t.pegStore = s.pegStore ∧ t.ctl = s.ctl ∧ t.rtcNs = s.rtcNs ∧ t.jnlUnits = s.jnlUnits ∧
    t.imgUnit = s.imgUnit ∧ t.snapSlot = s.snapSlot ∧ t.pending = s.pending) ∧
  (∀ (ns : Nat) (s : State), Instr.wellFormed (.resetNAssert ns) → ns < 100 → ∃ t, exec (.resetNAssert ns) s = .next t ∧
    t.fatalLatch = s.fatalLatch ∧ s.framed t [.emitted] [] []) ∧
  (∀ (vbat : Bool) (s : State), Instr.wellFormed (.vsb33Loss vbat) → ∃ t, exec (.vsb33Loss vbat) s = .next t ∧ t.supVsb33 = false ∧
    t.rd BKP_STAT.ON_CELL = b2n vbat ∧ s.framed t [.supVsb33, .emitted] [BKP_STAT.ON_CELL] []) ∧
  (∀ (pin : Bool) (s : State), Instr.wellFormed (.powerFailWarning pin) → s.rd DEV_STAT.PF_WARN = 0 →
    ∃ t, exec (.powerFailWarning pin) s = .next t ∧ t.rd DEV_STAT.PF_WARN = 1 ∧ t.storeBusy = false ∧ (t.regsAt (regKey 1 0x10)).getLsbD 20 ∧
    (t.regsAt (regKey 257 0x10)).getLsbD 19 ∧ t.supVin12 = (pin && s.supVin12) ∧
    (t.rd DEV_STAT.PWR_GOOD = if pin then 0 else s.rd DEV_STAT.PWR_GOOD) ∧
    s.framed t [[.supVin12, .storeBusy], irqPieces].flatten [[DEV_STAT.PF_WARN, DEV_STAT.PWR_GOOD], irqFlds 1 20, irqFlds 257 19].flatten []) ∧
  (∀ (s : State), Instr.wellFormed .powerFailClear → s.rd DEV_STAT.PF_WARN = 1 → (s.bootAt.isSome = true ∨ s.rd DEV_STAT.STAGE < 3) →
    ∃ t, exec (.powerFailClear) s = .next t ∧ t.rd DEV_STAT.PF_WARN = 0 ∧ t.rd DEV_STAT.PWR_GOOD = 1 ∧ t.supVin12 ∧
    s.framed t [.supVin12, .emitted] [DEV_STAT.PF_WARN, DEV_STAT.PWR_GOOD] []) ∧
  (∀ (s : State), Instr.wellFormed .powerFailClear → s.rd DEV_STAT.PF_WARN = 1 → s.bootAt = none → 3 ≤ s.rd DEV_STAT.STAGE →
    s.rd DEV_STAT.MAIN_UP = 0 → s.rd DEV_STAT.RECOVERY = 0 → ∃ t, exec (.powerFailClear) s = .next t ∧ t.rd DEV_STAT.PF_WARN = 0 ∧
    t.bootAt = some s.mono ∧ t.ctl = (bootChoose s s.ctl.noPartial 8).1 ∧
    s.onlyIn t [[.supVin12, .regs, .blkUp, .bootAt, .ctl, .copyArea, .erases, .storeQ, .updSlot], irqPieces].flatten)

/-- The journal writes its units and the host ring, and releases what it held. JNL_UNIT_WRITE, JNL_HOST_WRITE and JOURNAL_HOLD_RELEASE. Beside these,
what REG_WRITE, HI_WRITE, LO_READ_LATCH, PAGE_TIMEOUT, BLK_INT_CLEAR, BLK_INT_FORCE, ERRCAP_CLEAR, COMMIT, COMMIT_TAKEN, JNL_HOST_ENABLE leave alone
where they complete. (20_presence_seal_journal.md R657, 20_presence_seal_journal.md R660, 20_presence_seal_journal.md R661,
20_presence_seal_journal.md R662, 20_presence_seal_journal.md R664, 20_presence_seal_journal.md R665, 02_register_pages.md, 12_services.md,
13_host_interface.md, 15_start_up.md, 17_faults.md, 18_counters_and_tracing.md.) -/
def Obligations.JournalWrites : Prop :=
  (∀ (badReads : Nat) (s : State), Instr.wellFormed (.jnlUnitWrite badReads) → s.storeRuns → s.jnlWriting = [] → s.jnlPersist ≠ [] →
    s.jnlUnit % 16 ≠ 0 → badReads < 2 → ∃ t, exec (.jnlUnitWrite badReads) s = .next t ∧ t.jnlWriting = s.jnlPersist.take 256 ∧
    t.jnlPersist = s.jnlPersist.drop 256 ∧ s.framed t [.jnlWriting, .jnlPersist, .emitted] [] []) ∧
  (∀ (q : JRec) (s : State), Instr.wellFormed .jnlHostWrite → s.jnlBacklog.find? (fun r => s.jnlNext ≤ r.seq) = some q → s.rd JNL_HOST_CFG.EN = 1 →
    s.dmaOn 0 → s.rd PCIE_LINK_STAT.IN_L1 = 0 →
    (s.rd JNL_HOST_TAIL.INDEX + s.jnlRing - s.rd JNL_HOST_HEAD.INDEX % s.jnlRing) % s.jnlRing < s.jnlRing - 1 →
    ∃ t, exec (.jnlHostWrite) s = .next t ∧
    t.rd JNL_HOST_TAIL.INDEX = (s.rd JNL_HOST_TAIL.INDEX + 1) % s.jnlRing % 2 ^ (JNL_HOST_TAIL.INDEX.hi + 1 - JNL_HOST_TAIL.INDEX.lo) ∧
    t.jnlNext = q.seq + 1 ∧
    .dmaWrite 0 (s.rd JNL_HOST_BASE_LO.reg / 4096 * 4096 + s.rd JNL_HOST_BASE_HI.reg * 2 ^ 32 + 32 * s.rd JNL_HOST_TAIL.INDEX) (q.bytes
      s.jnlPhase) {} ∈ t.emitted ∧ s.framed t [[.jnlNext, .jnlPhase], irqPieces].flatten [[JNL_HOST_TAIL.INDEX], irqFlds 6 16].flatten []) ∧
  (∀ (h : Held) (s : State), Instr.wellFormed .journalHoldRelease → heldNext s [] s.jnlHeld = some ([], h, []) → h.what = 2 → s.jnlSeq ≠ 0 →
    (s.jnlSeq + 1) % 2 ^ 36 ≠ 0 → ∃ t, exec (.journalHoldRelease) s = .next t ∧ t.jnlHeld = [] ∧ t.jnlSeq = s.jnlSeq + 1 ∧
    s.onlyIn t [writePieces, [.cryLog, .hiLatch, .l2bNtf, .tsf]].flatten) ∧
  (∀ (m page off be : Nat) (data : Word) (d : RegDecl) (s : State), Instr.wellFormed (.regWrite m page off be [data]) → s.takesWrite m page →
    be = 15 → declAt page off = some d → d.shadowed → d.readOnly = false → latchesOf page off = [] → 0x200 ≤ off → (page < 244 ∨ 256 ≤ page) →
    (s.dirtyAt page).all (fun x => x.1 != off) → ∃ t, exec (.regWrite m page off be [data]) s = .next t ∧
    s.framed t [.dirty, .emitted, .dieTx, .dieRx] [⟨page, off, 31, 0⟩] []) ∧
  (∀ (m page off be : Nat) (data : Word) (s : State), Instr.wellFormed (.regWrite m page off be [data]) → s.takesWrite m page → be % 16 ≠ 15 →
    s.rd (ERRCAP_CTRL.VALID page) = 0 → ∃ t, exec (.regWrite m page off be [data]) s = .next t ∧
    s.framed t [[.dieTx], .dieRx :: errPieces].flatten (errFlds page) []) ∧
  (∀ (m page off be : Nat) (data : Word) (s : State), Instr.wellFormed (.regWrite m page off be [data]) → s.reaches m → (blockOf page).isSome →
    page ≠ 0 → s.blkUpAt page = false → s.crossClear m page → ∃ t, exec (.regWrite m page off be [data]) s = .next t ∧
    s.framed t [.emitted, .dieTx, .dieRx] [] []) ∧
  (∀ (m be : Nat) (data : Word) (s : State), Instr.wellFormed (.regWrite m 6 0x21C be [data]) → s.takesWrite m 6 → be = 15 →
    ∃ t, exec (.regWrite m 6 0x21C be [data]) s = .next t ∧ s.framed t [.emitted, .dieTx, .dieRx] [⟨6, 0x21C, 31, 0⟩] []) ∧
  (∀ (m page off be : Nat) (data : Word) (a b : RegDecl) (lo : Word) (s : State), Instr.wellFormed (.hiWrite m page off be data) → s.serves m page →
    be = 15 → 0x204 ≤ off → declAt page (off - 4) = some a → declAt page off = some b → a.shadowed → b.shadowed → b.readOnly = false →
    latchesOf page off = [] → s.loHeldAt (pairKey m page) = some (off - 4, lo) → off % 4 = 0 → (page < 244 ∨ 256 ≤ page) →
    ∃ t, exec (.hiWrite m page off be data) s = .next t ∧
    s.framed t [.loHeld, .dirty, .emitted, .dieTx, .dieRx] [⟨page, off - 4, 31, 0⟩, ⟨page, off, 31, 0⟩] []) ∧
  (∀ (m page : Nat) (off : Nat) (s : State), Instr.wellFormed (.loReadLatch m page (off,1)) → (m = 0 ∧ page < 1024 ∨ 64 ≤ m) → s.serves m page →
    latchesOf page off ≠ [] → (off < 0x100 ∨ 0x200 ≤ off) → (declAt page off).isSome → (s.hiLatchAt (pairKey m page)).all (fun x => x.1 != off) →
    ∃ t, exec (.loReadLatch m page (off,1)) s = .next t ∧ s.framed t [.hiLatch, .emitted, .dieTx, .dieRx] [] []) ∧
  (∀ (m page off : Nat) (s : State), Instr.wellFormed (.pageTimeout m page off) → m = 0 → ∃ t, exec (.pageTimeout m page off) s = .next t ∧
    s.framed t [[.dieQ], .jnlHeld :: errPieces].flatten (errFlds 2) []) ∧
  (∀ (m page : Nat) (data hw : Word) (s : State), Instr.wellFormed (.blkIntClear m page data hw) → s.takesWrite m page → s.blkUpAt page →
    ∃ t, exec (.blkIntClear m page data hw) s = .next t ∧
    s.framed t [[.dieTx], .dieRx :: irqPieces].flatten [BLK_INT_STAT.reg page, ⟨2, 0x300 + 4 * (page / 32), page % 32, page % 32⟩,
      PCIE_LINK_STAT.IN_L1] []) ∧
  (∀ (m page : Nat) (data : Word) (s : State), Instr.wellFormed (.blkIntForce m page data) → s.takesWrite m page →
    ∃ t, exec (.blkIntForce m page data) s = .next t ∧
    s.framed t [[.dieTx], .dieRx :: irqPieces].flatten [BLK_INT_STAT.reg page, ⟨2, 0x300 + 4 * (page / 32), page % 32, page % 32⟩,
      PCIE_LINK_STAT.IN_L1] []) ∧
  (∀ (m page : Nat) (data : Word) (s : State), Instr.wellFormed (.errcapClear m page data) → s.takesWrite m page → data.getLsbD 0 →
    (declAt page 0x3C).isSome → ∃ t, exec (.errcapClear m page data) s = .next t ∧
    s.framed t [.emitted, .dieTx, .dieRx] [ERRCAP_CTRL.reg page] []) ∧
  (∀ (m page : Nat) (data : Word) (s : State), Instr.wellFormed (.commit m page data) → s.takesWrite m page →
    s.rd (BLK_COMMIT_STAT.PENDING page) = 0 → s.rd (BLK_CTRL.FREEZE page) = 0 → (declAt page 0x40).isSome → s.dirtyAt page = [] →
    page ∈ [5, 6, 7, 9, 13, 88, 104, 144] → ∃ t, exec (.commit m page data) s = .next t ∧
    s.framed t [[.units, .dirty, .before, .commitLate], hostPieces].flatten [[BLK_COMMIT_STAT.reg page], recFlds].flatten []) ∧
  (∀ (m : Nat) (data : Word) (s : State), Instr.wellFormed (.commit m 12 data) → s.takesWrite m 12 → s.rd (BLK_COMMIT_STAT.PENDING 12) = 0 →
    s.rd (BLK_CTRL.FREEZE 12) = 0 → s.dirtyAt 12 = [] → ∃ t, exec (.commit m 12 data) s = .next t ∧
    s.framed t [[.units], .dirty :: .before :: hostPieces, (irqPieces ++ [.commitLate, .dieRx, .dieTx, .freqLog, .gateX, .holdFreq, .lockCount,
      .qx, .slewLeft, .slewRem, .snapAt, .stepAt, .stepDelta, .stepPend, .time16, .txNow])].flatten [gateFlds, ((List.range 1024).map (fun k =>
      ⟨12, 4 * k, 31, 0⟩)), irqFlds 12 16, irqFlds 12 17, recFlds].flatten []) ∧
  (∀ (page : Nat) (s : State), Instr.wellFormed (.commitTaken page) → s.rd (BLK_COMMIT_STAT.PENDING page) = 1 → s.commitLateAt page = false →
    (page < 16 ∨ 64 ≤ page) → ∃ t, exec (.commitTaken page) s = .next t ∧
    s.framed t [[.commitLate], irqPieces].flatten [[BLK_COMMIT_STAT.PENDING page, BLK_COMMIT_STAT.DONE page], irqFlds page 2].flatten []) ∧
  (∀ (page : Nat) (s : State), Instr.wellFormed (.commitTaken page) → 16 ≤ page → page < 64 → s.rd (BLK_COMMIT_STAT.PENDING page) = 1 →
    s.commitLateAt page = false → ∃ t, exec (.commitTaken page) s = .next t ∧
    s.framed t [[.commitLate], linkPieces].flatten [[BLK_COMMIT_STAT.PENDING page, BLK_COMMIT_STAT.DONE page], irqFlds page 2, linkFlds (page -
      16)].flatten []) ∧
  (∀ (m : Nat) (data : Word) (s : State), Instr.wellFormed (.jnlHostEnable m data) → s.takesWrite m 6 → s.rd JNL_HOST_CFG.EN = 0 →
    ∃ t, exec (.jnlHostEnable m data) s = .next t ∧
    s.framed t [[.jnlPhase, .jnlNext], hostPieces].flatten [[JNL_HOST_CFG.reg, JNL_HOST_TAIL.reg], recFlds].flatten [])

/-- Table commands begin, and their entries change. TBL_NOP, TBL_READ, TBL_WRITE, TBL_INSERT, TBL_DELETE, TBL_SEARCH and TBL_NEXT; TBL_OP_DONE publishes
what they found. (02_register_pages.md R52, 02_register_pages.md R73, 02_register_pages.md R76, 02_register_pages.md R77, 02_register_pages.md R78,
02_register_pages.md R79, 02_register_pages.md R691, 02_register_pages.md R693, 05_forwarding_tables.md R178.) -/
def Obligations.TableCommands : Prop :=
  (∀ (m page table index : Nat) (s : State), Instr.wellFormed (.tblNop m page table index) → s.takesTbl page (s.tblCmd m page 0 table index) →
    ∃ t, exec (.tblNop m page table index) s = .next t ∧ t.tblOpAt page = some (s.tblCmd m page 0 table index) ∧ t.rd (TBL_STAT.BUSY page) = 1 ∧
    t.rd (TBL_STAT.DONE page) = 0 ∧ t.rd (BLK_STAT.TBL_BUSY page) = 1 ∧
    s.framed t [.tblOp, .emitted, .dieTx, .dieRx] [TBL_CMD.reg page, TBL_STAT.reg page, BLK_STAT.TBL_BUSY page] []) ∧
  (∀ (m page table index : Nat) (d : Tbl) (e : Entry) (s : State), Instr.wellFormed (.tblRead m page table index) →
    s.takesTbl page (s.tblCmd m page 1 table index) → s.tbl page table = some d → d.ops.contains 1 → keyFam page table = none →
    s.badIndex page table d 1 index (s.tblWinAt page) = false → s.entryPoison page table index = false → s.entryAt page table index = some e →
    (page, table) ≠ (98, 3) → (page == 88 && table == 0 && s.denied 88 0 1 index m {}) = false →
    ∃ t, exec (.tblRead m page table index) s = .next t ∧
    t.tblOpAt page = some { s.tblCmd m page 1 table index with hit := s.entryValid page table index d, resIndex := index } ∧ t.tblWinAt page = e ∧
    t.rd (TBL_STAT.BUSY page) = 1 ∧
    s.framed t [.tblOp, .tblWin, .emitted, .dieTx, .dieRx] [TBL_CMD.reg page, TBL_STAT.reg page, BLK_STAT.TBL_BUSY page] []) ∧
  (∀ (m page table index : Nat) (d : Tbl) (s : State), Instr.wellFormed (.tblWrite m page table index) →
    s.takesTbl page (s.tblCmd m page 2 table index) → s.tbl page table = some d → d.ops.contains 2 → keyFam page table = none →
    page ∉ [3, 13, 88, 98, 99, 104, 179, 240] → s.badIndex page table d 2 index (s.tblWinAt page) = false →
    s.badEntry page table 2 index d (s.tblWinAt page) = false →
    s.denied page table 2 index m (((s.tblWinAt page).cut d.rw).join (((s.entryAt page table index).getD {}).cut d.ro)) = false →
    s.entryPoison page table index = false → s.jnlAccepts (tableRecord m page table 2 index 0 s) →
    ∃ t, exec (.tblWrite m page table index) s = .next t ∧
    t.tab page table index = ((s.tblWinAt page).cut d.rw).join (((s.entryAt page table index).getD {}).cut d.ro) ∧
    t.tblOpAt page = some { s.tblCmd m page 2 table index with hit := s.entryValid page table index d, resIndex := index, jseq := s.jnlSeq } ∧
    s.framed t [[.tblOp, .tblWin, .poisoned, .dieTx, .dieRx], recPieces].flatten [[TBL_CMD.reg page, TBL_STAT.reg page, BLK_STAT.TBL_BUSY page],
      recFlds].flatten [tabKey page table index]) ∧
  (∀ (m page table index : Nat) (d : Tbl) (g : Fam) (l : List (Nat × Nat)) (y : Nat × Nat) (s : State),
    Instr.wellFormed (.tblInsert m page table index) → s.takesTbl page (s.tblCmd m page 3 table index) → s.tbl page table = some d →
    d.ops.contains 3 → keyFam page table = some g → s.badEntry page table 3 index d (s.tblWinAt page) = false →
    s.findKey g (g.keyOf ((s.tblWinAt page).cut d.rw)) = none → s.placement g (g.keyOf ((s.tblWinAt page).cut d.rw)) = some (l, y) →
    (chainTarget l y).1 ≠ 50 → (chainTarget l y).2 < 2 ^ 22 → s.jnlAccepts (tableRecord m page table 3 (chainTarget l y).2 0 s) →
    ∃ t, exec (.tblInsert m page table index) s = .next t ∧
    t.tablesAt (tabKey page (chainTarget l y).1 (chainTarget l y).2) = some ((s.tblWinAt page).cut d.rw) ∧
    t.tblOpAt page = some { s.tblCmd m page 3 table index with hit := false, resIndex := (chainTarget l y).2, jseq := s.jnlSeq } ∧
    s.onlyIn t writePieces) ∧
  (∀ (m page table index : Nat) (g : Fam) (d : Tbl) (y : Nat × Nat) (s : State), Instr.wellFormed (.tblDelete m page table index) →
    s.takesTbl page (s.tblCmd m page 4 table index) → s.tbl page table = some d → d.ops.contains 4 → keyFam page table = some g →
    s.badEntry page table 4 index d (s.tblWinAt page) = false → s.keyPoison g (g.keyOf (s.tblWinAt page)) = false →
    s.findKey g (g.keyOf (s.tblWinAt page)) = some y → s.jnlAccepts (tableRecord m page table 4 y.2 0 s) →
    ∃ t, exec (.tblDelete m page table index) s = .next t ∧ t.tablesAt (tabKey page y.1 y.2) = none ∧
    t.tblOpAt page = some { s.tblCmd m page 4 table index with hit := true, resIndex := y.2, jseq := s.jnlSeq } ∧ s.onlyIn t writePieces) ∧
  (∀ (m page table index : Nat) (g : Fam) (d : Tbl) (y : Nat × Nat) (s : State), Instr.wellFormed (.tblSearch m page table index) →
    s.takesTbl page (s.tblCmd m page 5 table index) → s.tbl page table = some d → d.ops.contains 5 → keyFam page table = some g → g.lpm = false →
    s.badEntry page table 5 index d (s.tblWinAt page) = false → s.keyPoison g (g.keyOf (s.tblWinAt page)) = false →
    s.findKey g (g.keyOf (s.tblWinAt page)) = some y → ∃ t, exec (.tblSearch m page table index) s = .next t ∧
    t.tblWinAt page = (s.view page y.1 y.2).getD {} ∧ t.tblOpAt page = some { s.tblCmd m page 5 table index with hit := true, resIndex := y.2 } ∧
    s.framed t [.tblOp, .tblWin, .emitted, .dieTx, .dieRx] [TBL_CMD.reg page, TBL_STAT.reg page, BLK_STAT.TBL_BUSY page] []) ∧
  (∀ (m page table index : Nat) (d : Tbl) (i : Nat) (e : Entry) (s : State), Instr.wellFormed (.tblNext m page table index) →
    s.takesTbl page (s.tblCmd m page 6 table index) → s.tbl page table = some d → d.ops.contains 6 → keyFam page table = none →
    s.badIndex page table d 6 index (s.tblWinAt page) = false → (page, table) ≠ (98, 3) →
    (page == 88 && table == 0 && s.denied 88 0 6 index m {}) = false → s.nextIndex page table index d = some i →
    s.entryPoison page table i = false → s.entryAt page table i = some e → ∃ t, exec (.tblNext m page table index) s = .next t ∧
    t.tblWinAt page = e ∧ t.tblOpAt page = some { s.tblCmd m page 6 table index with hit := true, resIndex := i } ∧
    s.framed t [.tblOp, .tblWin, .emitted, .dieTx, .dieRx] [TBL_CMD.reg page, TBL_STAT.reg page, BLK_STAT.TBL_BUSY page] [])

/-- The main core restarts and the store writes its records. WATCHDOG_EXPIRE, MAIN_MEM_UE, MAIN_UP, CONFIRM_TIMEOUT, STORE_WRITE, STORE_WRITE_DONE,
PEG_WRITE and UPD_CMD_DONE. Beside these, what UPD_NOP, UPD_BEGIN, UPD_BLOCK, UPD_VERIFY, UPD_ACTIVATE, UPD_CONFIRM, UPD_REVERT, MAIN_RESTART,
UPD_ABORT, UPD_REVOKE, UPD_SNAP_SAVE, UPD_SNAP_MARK, UPD_SNAP_CLEAR leave alone where they complete. (15_start_up.md R536, 15_start_up.md R538,
15_start_up.md R539, 15_start_up.md R540, 16_repair_and_redundancy.md R548, 19_update_and_store.md R615, 19_update_and_store.md R616,
19_update_and_store.md R617, 19_update_and_store.md R633, 19_update_and_store.md R637, 12_services.md, 13_host_interface.md.) -/
def Obligations.RestartAndStore : Prop :=
  (∀ (b : Nat) (s : State), Instr.wellFormed .watchdogExpire → 4 ≤ s.rd DEV_STAT.STAGE → s.bootAt = some b →
    s.since b (max 100 (s.rd DEV_WDOG.TIMEOUT_MS) * 1000000) → s.rd DEV_RESTARTS.WDOG < 100 → s.rd DEV_RESTARTS.TOTAL < 100 →
    ∃ t, exec (.watchdogExpire) s = .next t ∧ t.rd DEV_STAT.MAIN_UP = 0 ∧ t.rd DEV_RESTARTS.WDOG = s.rd DEV_RESTARTS.WDOG + 1 ∧
    t.rd DEV_RESTARTS.TOTAL = s.rd DEV_RESTARTS.TOTAL + 1 ∧ t.rd DEV_RESET_CAUSE.RESTART = 2 ∧ t.storeBusy = false ∧ t.updOp = none ∧
    t.rd PPR_STAT.WINDOW_OPEN = 0 ∧
    s.onlyIn t [recPieces, [.blkUp, .bootAt, .confirmEnd, .copyArea, .cryPend, .cryQueue, .ctl, .dieQ, .dieRead, .erases, .regs, .storeBusy,
      .storeQ, .updOp, .updSlot, .wdogTimes, .winEnd]].flatten) ∧
  (∀ (s : State), Instr.wellFormed .mainMemUe → s.rd DEV_STAT.MAIN_UP = 1 → 3 ≤ s.rd DEV_STAT.STAGE → s.rd DEV_RESTARTS.TOTAL < 100 →
    ∃ t, exec (.mainMemUe) s = .next t ∧ t.rd DEV_STAT.MAIN_UP = 0 ∧ t.rd DEV_RESET_CAUSE.RESTART = 4 ∧
    t.rd DEV_RESTARTS.TOTAL = s.rd DEV_RESTARTS.TOTAL + 1 ∧ t.updOp = none ∧
    s.onlyIn t [recPieces, [.blkUp, .bootAt, .confirmEnd, .copyArea, .cryPend, .cryQueue, .ctl, .dieQ, .dieRead, .erases, .regs, .storeBusy,
      .storeQ, .updOp, .updSlot, .winEnd]].flatten) ∧
  (∀ (s : State), Instr.wellFormed .mainUp → s.rd DEV_STAT.MAIN_UP = 0 → 4 ≤ s.rd DEV_STAT.STAGE → s.rd DEV_STAT.RECOVERY = 0 → s.bootAt.isSome →
    ∃ t, exec (.mainUp) s = .next t ∧ t.rd DEV_STAT.MAIN_UP = 1 ∧ t.blkUpAt 7 = true ∧ t.blkUpAt 8 = true ∧
    (t.regsAt (regKey 1 0x10)).getLsbD 19 ∧ ((s.ctl.slot s.ctl.boot).st = 4 →
    t.confirmEnd = some (s.mono + max 60 (s.rd UPD_TRIAL_CFG.CONFIRM_S) * 1000000000)) ∧
    s.onlyIn t [recPieces, [.bkpCopied, .blkUp, .confirmEnd, .cryPend, .cryQueue, .regs, .roll]].flatten) ∧
  (∀ (e : Nat) (s : State), Instr.wellFormed .confirmTimeout → s.confirmEnd = some e → e ≤ s.mono → (s.ctl.slot s.ctl.boot).st = 4 →
    (s.ctl.slot s.ctl.boot).type ≠ 2 → ∃ t, exec (.confirmTimeout) s = .next t ∧
    t.storeQ = s.storeQ ++ [.control ({ s.ctl with boot := s.ctl.fallback }.setSlot s.ctl.boot { s.ctl.slot s.ctl.boot with st := 6, tries := 0 })
      (2 ^ 19) 1] ∧ s.framed t [.storeQ, .emitted] [UPD_STORE_STAT.PENDING] []) ∧
  (∀ (badReads : Nat) (m : List Peg) (q : Nat) (l : List StoreRec) (s : State), Instr.wellFormed (.storeWrite badReads) → s.storeRuns →
    s.storeBusy = false → s.storeQ = .peg m q :: l → badReads < 2 → ∃ t, exec (.storeWrite badReads) s = .next t ∧ t.storeBusy ∧
    t.storeQ = s.storeQ ∧ t.erasesAt (s.recordArea (.peg m q)) = min 131071 (s.erasesAt (s.recordArea (.peg m q)) + (1 + min 1 badReads)) ∧
    s.framed t [.storeBusy, .erases, .emitted] [] []) ∧
  (∀ (journal : Bool) (m : List Peg) (q : Nat) (s : State), Instr.wellFormed (.storeWriteDone journal) → journal = false → s.storeBusy →
    s.storeQ = [.peg m q] → q < 2 ^ 32 → ∃ t, exec (.storeWriteDone journal) s = .next t ∧ t.pegStore = (m, q) ∧ t.storeQ = [] ∧
    t.storeBusy = false ∧ t.rd RPR_PEG_SEQ.SEQ = q ∧ t.rd RPR_PEG_STAT.COPY = 1 - s.rd RPR_PEG_STAT.COPY ∧ t.rd UPD_STORE_STAT.PENDING = 0 ∧
    s.onlyIn t [[.regs, .storeQ, .storeBusy, .pegStore, .rprEvt, .updOp, .copyArea], irqPieces].flatten) ∧
  (∀ (journal : Bool) (c : Control) (s : State), Instr.wellFormed (.storeWriteDone journal) → journal = false → s.storeBusy →
    s.storeQ = [.control c 0 0] → s.updOp = none → ∃ t, exec (.storeWriteDone journal) s = .next t ∧ t.ctl = c ∧ t.storeQ = [] ∧
    t.storeBusy = false ∧ t.rd UPD_STORE_STAT.PENDING = 0 ∧ s.onlyIn t [.regs, .storeQ, .storeBusy, .ctl, .copyArea, .confirmEnd, .emitted]) ∧
  (∀ (journal : Bool) (c : Control) (k : Nat) (s : State), Instr.wellFormed (.storeWriteDone journal) → journal = false → s.storeBusy → k < 2 →
    s.storeQ = [.control c 0 (3 + k)] → s.updOp = some { op := 1, waits := true } → ∃ t, exec (.storeWriteDone journal) s = .next t ∧ t.ctl = c ∧
    t.storeQ = [] ∧ t.updOp = some { op := 1, waits := false } ∧ (∀ i, i < 32768 → t.imgUnitAt (32768 * k + i) = []) ∧
    s.onlyIn t [.regs, .storeQ, .storeBusy, .ctl, .copyArea, .confirmEnd, .emitted, .updOp, .imgUnit, .erases]) ∧
  (∀ (journal : Bool) (r : JRec) (s : State), Instr.wellFormed (.storeWriteDone journal) → journal → s.storeRuns → s.jnlWriting = [r] →
    s.bkpCopied = [] → ∃ t, exec (.storeWriteDone journal) s = .next t ∧ t.jnlUnitsAt (256 * s.jnlUnit) = some r ∧
    t.jnlUnit = (s.jnlUnit + 1) % 4096 ∧ t.jnlWriting = [] ∧ s.framed t [.jnlUnits, .jnlUnit, .jnlWriting, .bkpCopied, .emitted] [] []) ∧
  (∀ (s : State), Instr.wellFormed .pegWrite → s.storeRuns → s.pegDue.isSome → s.storeQ = [] → ∃ t, exec (.pegWrite) s = .next t ∧ t.pegDue = none ∧
    t.storeQ = [.peg s.pegs ((s.pegStore.2 + 1) % 2 ^ 32)] ∧ t.rd UPD_STORE_STAT.PENDING = 1 ∧
    s.framed t [.pegDue, .storeQ, .emitted] [UPD_STORE_STAT.PENDING] []) ∧
  (∀ (u : UpdOp) (s : State), Instr.wellFormed .updCmdDone → s.updOp = some u → u.waits = false → u.result < 16 →
    ∃ t, exec (.updCmdDone) s = .next t ∧ t.updOp = none ∧ t.rd UPD_CMD_STAT.BUSY = 0 ∧ t.rd UPD_CMD_STAT.RESULT = u.result ∧
    t.rd UPD_CMD_STAT.DONE = 1 ∧ (t.regsAt (regKey 8 0x10)).getLsbD 16 ∧
    s.framed t [[.updOp], irqPieces].flatten [[UPD_CMD_STAT.BUSY, UPD_CMD_STAT.RESULT, UPD_CMD_STAT.DONE], irqFlds 8 16].flatten []) ∧
  (∀ (m : Nat) (data : Word) (s : State), Instr.wellFormed (.updNop m data) → s.takesCmd m 8 → (m = 0 ∨ m = 0x2000) → s.updOp = none →
    ∃ t, exec (.updNop m data) s = .next t ∧ s.framed t [[.updOp], hostPieces].flatten [[UPD_CMD.reg, UPD_CMD_STAT.reg], recFlds].flatten []) ∧
  (∀ (m : Nat) (data : Word) (k : Nat) (s : State), Instr.wellFormed (.updBegin m data) → s.takesCmd m 8 → (m = 0 ∨ m = 0x2000) → s.updOp = none →
    s.rd DEV_STAT.PF_WARN = 0 → s.rd DEV_STAT.RECOVERY = 0 → s.storeQ = [] → (s.ctl.slot s.ctl.boot).st ≠ 4 → k = fieldOf data 15 0 → 0 < k →
    k ≤ 32768 → ∃ t, exec (.updBegin m data) s = .next t ∧
    s.framed t [[.updOp], .storeQ :: hostPieces].flatten [[UPD_CMD.reg, UPD_CMD_STAT.reg, UPD_STORE_STAT.PENDING, UPD_DL_STAT.reg],
      recFlds].flatten []) ∧
  (∀ (m : Nat) (data : Word) (bytes : List Byte) (badReads : Nat) (k off len : Nat) (s : State),
    Instr.wellFormed (.updBlock m data bytes badReads) → s.takesCmd m 8 → (m = 0 ∨ m = 0x2000) → s.updOp = none → s.rd DEV_STAT.PF_WARN = 0 →
    s.writeRefused m 8 0x200 (withOp 2 data).toNat = false → k = s.updTarget (withOp 2 data) → off = s.rd UPD_DL_BLOCK.OFFSET_4K →
    len = s.rd UPD_DL_BLOCK.LEN_4K → (s.ctlNext.slot k).st = 1 → len = 1 → off ≠ 0 → off + len < (s.ctlNext.slot k).total →
    s.imgUnitAt (k * 32768) ≠ [] → s.imgUnitAt (k * 32768 + off) = [] → s.dmaOn 0 → bytes.length = 4096 * len → badReads < 2 →
    s.rd UPD_DL_STAT.RECEIVED + len < (s.ctlNext.slot k).total → (s.ctlNext.slot k).total ≤ 32768 →
    ∃ t, exec (.updBlock m data bytes badReads) s = .next t ∧
    s.framed t [[.updOp], .imgUnit :: .l1At :: hostPieces].flatten [[UPD_CMD.reg, UPD_CMD_STAT.reg, UPD_DL_STAT.RECEIVED, PCIE_LINK_STAT.IN_L1],
      recFlds].flatten []) ∧
  (∀ (m : Nat) (data : Word) (k : Nat) (s : State), Instr.wellFormed (.updVerify m data) → s.takesCmd m 8 → (m = 0 ∨ m = 0x2000) → s.updOp = none →
    s.rd DEV_STAT.PF_WARN = 0 → s.storeQ = [] → k = s.updTarget data → (s.ctl.slot k).st = 2 → ∃ t, exec (.updVerify m data) s = .next t ∧
    s.framed t [[.updOp], .storeQ :: hostPieces, errPieces].flatten [[UPD_CMD.reg, UPD_CMD_STAT.reg, UPD_STORE_STAT.PENDING, UPD_REJECT.reg],
      errFlds 8, recFlds, irqFlds 8 17].flatten []) ∧
  (∀ (m : Nat) (data : Word) (k : Nat) (s : State), Instr.wellFormed (.updActivate m data) → s.takesCmd m 8 → (m = 0 ∨ m = 0x2000) →
    s.updOp = none → s.rd DEV_STAT.PF_WARN = 0 → s.storeQ = [] → k = s.updTarget data → (s.ctl.slot k).st = 3 → (s.ctl.slot k).type ≠ 3 →
    ∃ t, exec (.updActivate m data) s = .next t ∧
    s.framed t [[.updOp], .storeQ :: hostPieces].flatten [[UPD_CMD.reg, UPD_CMD_STAT.reg, UPD_STORE_STAT.PENDING], recFlds].flatten []) ∧
  (∀ (m : Nat) (data : Word) (s : State), Instr.wellFormed (.updConfirm m data) → s.takesCmd m 8 → (m = 0 ∨ m = 0x2000) → s.updOp = none →
    s.rd DEV_STAT.PF_WARN = 0 → s.storeQ = [] → (s.ctl.slot s.ctl.boot).st = 4 → s.roll = none → ∃ t, exec (.updConfirm m data) s = .next t ∧
    s.framed t [[.updOp], .storeQ :: hostPieces].flatten [[UPD_CMD.reg, UPD_CMD_STAT.reg, UPD_STORE_STAT.PENDING], recFlds].flatten []) ∧
  (∀ (m : Nat) (data : Word) (s : State), Instr.wellFormed (.updRevert m data) → s.takesCmd m 8 → (m = 0 ∨ m = 0x2000) → s.updOp = none →
    s.rd DEV_STAT.PF_WARN = 0 → s.storeQ = [] → s.ctl.boot = 1 → s.ctl.fallback = 0 → (s.ctl.slot 1).st = 4 → (s.ctl.slot 1).type = 2 →
    (s.ctl.slot 0).st = 5 → ∃ t, exec (.updRevert m data) s = .next t ∧
    s.framed t [[.updOp], .storeQ :: hostPieces].flatten [[UPD_CMD.reg, UPD_CMD_STAT.reg, UPD_STORE_STAT.PENDING], recFlds].flatten []) ∧
  (∀ (m : Nat) (data : Word) (s : State), Instr.wellFormed (.mainRestart m data) → s.takesWrite m 1 → (m = 0 ∨ m = 0x6000) →
    3 ≤ s.rd DEV_STAT.STAGE → s.rd DEV_RESTARTS.TOTAL < 100 → ∃ t, exec (.mainRestart m data) s = .next t ∧
    s.framed t [[.dieTx], .dieRx :: recPieces, [.blkUp, .bootAt, .confirmEnd, .copyArea, .cryPend, .cryQueue, .ctl, .dieQ, .dieRead, .erases,
      .storeBusy, .storeQ, .updOp, .updSlot, .winEnd]].flatten [[DEV_CTRL.reg, DEV_STAT.reg, DEV_RESET_CAUSE.reg, DEV_RESTARTS.reg,
      UPD_CMD_STAT.BUSY, PPR_STAT.WINDOW_OPEN, PPR_STAT.LEFT_S], (List.range 258).map TBL_LOCK.reg, irqFlds 7 16, irqFlds 8 19, ([5, 7, 8].flatMap
      (fun p => [⟨p, 8, 31, 0⟩, ⟨p, 0x0C, 31, 0⟩])), ((List.range 16).map (fun k => ⟨8, 0x220 + 4 * k, 31, 0⟩)), recFlds].flatten []) ∧
  (∀ (m : Nat) (data : Word) (k : Nat) (s : State), Instr.wellFormed (.updAbort m data) → s.takesCmd m 8 → (m = 0 ∨ m = 0x2000) → s.updOp = none →
    s.storeQ = [] → k = s.updTarget data → ∃ t, exec (.updAbort m data) s = .next t ∧
    s.framed t [[.updOp], .storeQ :: hostPieces].flatten [[UPD_CMD.reg, UPD_CMD_STAT.reg, UPD_STORE_STAT.PENDING], recFlds].flatten []) ∧
  (∀ (m : Nat) (data : Word) (k : Nat) (s : State), Instr.wellFormed (.updRevoke m data) → s.takesCmd m 8 → (m = 0 ∨ m = 0x2000) → s.updOp = none →
    s.storeQ = [] → s.gateResult false = 0 → s.jnlAwait < 61430 → k = fieldOf data 17 16 → k ≠ 0 → ∃ t, exec (.updRevoke m data) s = .next t ∧
    s.framed t [[.updOp], .storeQ :: hostPieces].flatten [[UPD_CMD.reg, UPD_CMD_STAT.reg, UPD_STORE_STAT.PENDING], recFlds].flatten []) ∧
  (∀ (m : Nat) (data : Word) (k : Nat) (s : State), Instr.wellFormed (.updSnapSave m data) → s.takesCmd m 8 → (m = 0 ∨ m = 0x2000) →
    s.updOp = none → s.rd DEV_STAT.PF_WARN = 0 → s.jnlSeq = 0 → s.regs.length + s.units.length + s.tables.length < 2 ^ 20 →
    (k = if bitOf s.ctlNext.marked 0 then 1 else 0) → ∃ t, exec (.updSnapSave m data) s = .next t ∧
    s.framed t [[.updOp], .storeQ :: hostPieces].flatten [[UPD_CMD.reg, UPD_CMD_STAT.reg, UPD_STORE_STAT.PENDING], recFlds].flatten []) ∧
  (∀ (m : Nat) (data : Word) (k : Nat) (s : State), Instr.wellFormed (.updSnapMark m data) → s.takesCmd m 8 → (m = 0 ∨ m = 0x2000) →
    s.updOp = none → s.rd DEV_STAT.PF_WARN = 0 → s.storeQ = [] → k = fieldOf data 24 24 → (s.snapSlotAt k).isSome →
    ∃ t, exec (.updSnapMark m data) s = .next t ∧
    s.framed t [[.updOp], .storeQ :: hostPieces].flatten [[UPD_CMD.reg, UPD_CMD_STAT.reg, UPD_STORE_STAT.PENDING], recFlds].flatten []) ∧
  (∀ (m : Nat) (data : Word) (k : Nat) (s : State), Instr.wellFormed (.updSnapClear m data) → s.takesCmd m 8 → (m = 0 ∨ m = 0x2000) →
    s.updOp = none → s.rd DEV_STAT.PF_WARN = 0 → s.storeQ = [] → k = fieldOf data 24 24 → ∃ t, exec (.updSnapClear m data) s = .next t ∧
    s.framed t [[.updOp], .storeQ :: hostPieces].flatten [[UPD_CMD.reg, UPD_CMD_STAT.reg, UPD_STORE_STAT.PENDING], recFlds].flatten [])

/-- Descriptors, records and completions of the queue pairs; the link, its L1 state and containment. TX_DESC_FETCH, TX_RATE_WAIT, TX_READ_DONE,
RECORD_WRITE, QP_DRAINED, DMA_READ_TIMEOUT, LATE_COMPLETION, L1_ENTRY, L1_EXIT, CONTAINMENT_ENTER, PERST_RELEASE, DATA_LINK_UP and BAR4_WRITE.
(13_host_interface.md R461, 13_host_interface.md R465, 13_host_interface.md R466, 13_host_interface.md R473, 13_host_interface.md R474,
13_host_interface.md R478, 13_host_interface.md R484, 13_host_interface.md R485, 13_host_interface.md R486, 13_host_interface.md R487,
13_host_interface.md R488, 14_virtual_instances.md R504.) -/
def Obligations.QueuePairsAndLink : Prop :=
  (∀ (desc : List Word) (q n : Nat) (s : State), Instr.wellFormed (.txDescFetch desc) → s.rd (BLK_CTRL.ENABLE 2) = 1 → s.txNext = some q →
    s.rd PCIE_LINK_STAT.IN_L1 = 0 → s.badDesc (desc.map BitVec.toNat) = false → s.qpOwner q = 0 → dsc (desc.map BitVec.toNat) 0 31 30 = 0 →
    n = dsc (desc.map BitVec.toNat) 0 13 0 → (s.stgRefuses { kind := 4, lenSrc := 1, frameLen := n + 4 }) = none →
    s.fetchRoom (dsc (desc.map BitVec.toNat) 1 28 19) (dsc (desc.map BitVec.toNat) 1 18 0) (n + 4) → ∃ t, exec (.txDescFetch desc) s = .next t ∧
    t.txRot = q ∧ (t.qp q).f QP.TX_HEAD = ((s.qp q).f QP.TX_HEAD + 1) % (s.qp q).txSize % 2 ^ (QP.TX_HEAD.hi + 1 - QP.TX_HEAD.lo) ∧
    (t.qpxAt q).reads = (s.qpxAt q).reads ++ [{ idx := (s.qp q).f QP.TX_HEAD, desc := desc.map BitVec.toNat, at_ := s.mono }] ∧
    .dmaRead 0 ((s.qp q).f QP.TX_BASE + 32 * (s.qp q).f QP.TX_HEAD) 32 (s.qpDma q false false) ∈ t.emitted ∧
    s.onlyIn t [placePieces, [.cryPend, .cryQueue, .lookAt, .reqResv, .tables, .txRot, .vinst]].flatten) ∧
  (∀ (qp : Nat) (r : TxRead) (s : State), Instr.wellFormed (.txRateWait qp) → (s.qpxAt qp).wait = some r → (s.qp qp).f QP.STATE = 1 →
    s.dmaOn (s.qpFn qp) → s.qpOwner qp = 0 → dsc r.desc 0 31 30 = 1 → s.lookAt = none → s.linkClear 1 → ∃ t, exec (.txRateWait qp) s = .next t ∧
    (t.qpxAt qp).wait = none ∧ (t.qpxAt qp).reads = (s.qpxAt qp).reads ++ [{ r with at_ := s.mono }] ∧
    s.onlyIn t [placePieces, [.lookAt, .reqResv, .vinst]].flatten) ∧
  (∀ (qp status : Nat) (bytes : List Byte) (r : TxRead) (l : List TxRead) (s : State), Instr.wellFormed (.txReadDone qp status bytes) →
    (s.qpxAt qp).reads = r :: l → status = 3 → s.dmaOn (s.qpFn qp) → bitOf (r.desc.getD 0 0) 27 = false →
    ∃ t, exec (.txReadDone qp status bytes) s = .next t ∧ (t.qpxAt qp).reads = l ∧
    (t.qp qp).f QP.CQ_TAIL = ((s.qp qp).f QP.CQ_TAIL + 1) % (s.qp qp).cqSize % 2 ^ (QP.CQ_TAIL.hi + 1 - QP.CQ_TAIL.lo) ∧
    s.onlyIn t [placePieces, [.bodies, .bodyNext, .bucketLoad, .dieRx, .dieTx, .inQ, .reqResv, .stg, .stgMc, .stgUse, .tables]].flatten) ∧
  (∀ (qp : Nat) (desc : List Word) (r : HostRec) (l : List HostRec) (s : State), Instr.wellFormed (.recordWrite qp desc) → s.hostQAt qp = r :: l →
    s.rd PCIE_LINK_STAT.IN_L1 = 0 → s.dmaOn (s.qpFn qp) → r.pkt = none → (s.qp qp).f QP.STATE = 1 → s.instOpen qp → s.cqFull qp = false →
    (s.qpxAt qp).rxTail ≠ (s.qp qp).f QP.RX_HEAD → ∃ t, exec (.recordWrite qp desc) s = .next t ∧ t.hostQAt qp = l ∧
    (t.qp qp).f QP.RX_HEAD = ((s.qp qp).f QP.RX_HEAD + 1) % (s.qp qp).rxSize % 2 ^ (QP.RX_HEAD.hi + 1 - QP.RX_HEAD.lo) ∧
    .dmaRead (s.qpFn qp) ((s.qp qp).f QP.RX_BASE + 16 * (s.qp qp).f QP.RX_HEAD) 16 (s.qpDma qp false false) ∈ t.emitted ∧
    s.onlyIn t [dropPieces, rowPieces, [.memX, .qpx, .recX]].flatten) ∧
  (∀ (qp : Nat) (s : State), Instr.wellFormed (.qpDrained qp) → (s.qp qp).f QP.STATE = 3 → (s.qpxAt qp).reads = [] → (s.qp qp).on QP.EN = false →
    qp < 2 ^ 22 → ∃ t, exec (.qpDrained qp) s = .next t ∧ (t.qp qp).f QP.STATE = 0 ∧ (t.qpxAt qp).wait = none ∧
    s.onlyIn t [recPieces, [.qpx, .regs, .tables]].flatten) ∧
  (∀ (qp : Nat) (descriptors : Bool) (r : TxRead) (c : Nat) (s : State), Instr.wellFormed (.dmaReadTimeout qp descriptors) → descriptors = false →
    s.ctoNs = some c → (s.qpxAt qp).reads = [r] → s.since r.at_ c → s.contained = false → s.rd PCIE_CTO_COUNT.COUNT < 100 →
    ∃ t, exec (.dmaReadTimeout qp descriptors) s = .next t ∧ (t.qpxAt qp).reads = [] ∧ (t.qpxAt qp).late = (s.qpxAt qp).late + 1 ∧
    (t.pcieFnAt 0).aer = (s.pcieFnAt 0).aer ||| 1 ∧ t.rd PCIE_CTO_COUNT.COUNT = s.rd PCIE_CTO_COUNT.COUNT + 1 ∧
    s.onlyIn t [placePieces, dropPieces, [.fresh, .pcieFn, .reqResv]].flatten) ∧
  (∀ (qp : Nat) (s : State), Instr.wellFormed (.lateCompletion qp) → (s.qpxAt qp).late ≠ 0 → ∃ t, exec (.lateCompletion qp) s = .next t ∧
    (t.qpxAt qp).late = (s.qpxAt qp).late - 1 ∧ (t.pcieFnAt 0).aer = (s.pcieFnAt 0).aer ||| 2 ∧ s.framed t [.qpx, .pcieFn, .emitted] [] []) ∧
  (∀ (s : State), Instr.wellFormed .l1Entry → s.rd PCIE_LINK_STAT.DL_UP = 1 → s.rd PCIE_LINK_STAT.IN_L1 = 0 → (s.pcieFnAt 0).aspmL1 →
    s.hostBusy = false → s.since s.l1At (max 1 (s.rd PCIE_ASPM_CFG.L1_IDLE_US) * 1000) → s.rd PCIE_LINK_STAT.L1_ENTRIES < 100 →
    ∃ t, exec (.l1Entry) s = .next t ∧ t.rd PCIE_LINK_STAT.IN_L1 = 1 ∧ t.rd PCIE_LINK_STAT.L1_ENTRIES = s.rd PCIE_LINK_STAT.L1_ENTRIES + 1 ∧
    s.framed t [.emitted] [PCIE_LINK_STAT.IN_L1, PCIE_LINK_STAT.L1_ENTRIES] []) ∧
  (∀ (s : State), Instr.wellFormed .l1Exit → s.rd PCIE_LINK_STAT.IN_L1 = 1 → ∃ t, exec (.l1Exit) s = .next t ∧ t.rd PCIE_LINK_STAT.IN_L1 = 0 ∧
    t.l1At = s.mono ∧ s.framed t [.l1At, .emitted] [PCIE_LINK_STAT.IN_L1] []) ∧
  (∀ (cause : Nat) (s : State), Instr.wellFormed (.containmentEnter cause) → cause = 4 → s.rd PCIE_LINK_STAT.DL_UP = 1 → s.contained = false →
    ∃ t, exec (.containmentEnter cause) s = .next t ∧ t.contained ∧ t.rd PCIE_CONTAIN.CAUSE = cause ∧
    (s.tabIndices 3 0).all (fun q => !(t.qp q).on QP.EN) ∧ t.rd TRC_CFG.DMA_EN = 0 ∧ t.rd JNL_HOST_CFG.EN = 0 ∧
    (t.regsAt (regKey 2 0x10)).getLsbD 16 ∧
    s.onlyIn t [placePieces, dropPieces, recPieces, [.bufBad, .pcieFn, .perstLow, .reqResv, .snap]].flatten) ∧
  (∀ (s : State), Instr.wellFormed .perstRelease → ∃ t, exec (.perstRelease) s = .next t ∧ t.perstLow = false ∧
    s.framed t [.perstLow, .emitted] [] []) ∧
  (∀ (speed width : Nat) (conf : Word) (s : State), Instr.wellFormed (.dataLinkUp speed width conf) → s.perstLow = false → s.blkUpAt 1 → speed < 8 →
    width < 32 → ∃ t, exec (.dataLinkUp speed width conf) s = .next t ∧ t.rd PCIE_LINK_STAT.DL_UP = 1 ∧ t.rd PCIE_LINK_STAT.SPEED = speed ∧
    t.rd PCIE_LINK_STAT.WIDTH = width ∧ (t.pcieFnAt 0).bme = bitOf conf.toNat 0 ∧ (t.pcieFnAt 0).mse = bitOf conf.toNat 1 ∧
    (t.pcieFnAt 0).msixEn = bitOf conf.toNat 3 ∧ s.framed t [[.pcieFn, .l1At], irqPieces].flatten [[⟨2, 0x200, 31, 0⟩], irqFlds 2 19].flatten []) ∧
  (∀ (m addr : Nat) (data : Word) (s : State), Instr.wellFormed (.bar4Write m addr data) → m = 0 → (s.pcieFnAt 0).mse →
    ∃ t, exec (.bar4Write m addr data) s = .next t ∧ (t.regsAt (regKey 2 0x10)).getLsbD 20 ∧
    s.framed t errPieces [errFlds 2, irqFlds 2 20].flatten [])
end

