-- ==== Sys2Proof/Laws/Sparse.lean ====
section
/-!
SUPPORT. Sparse stores: reading after writing, and the canonical form that every write keeps.
-/
namespace Sys2Proof.Machine

variable {α : Type}

theorem Sp.canonAbove_weaken [DecidableEq α] {d : Nat → α} {b c : Option Nat} (m : Sp α)
    (h : ∀ x, c = some x → ∃ y, b = some y ∧ x ≤ y) (hm : Sp.canonAbove d b m = true) : Sp.canonAbove d c m = true := by
  cases m with
  | nil => rfl
  | cons kv r =>
    obtain ⟨j, v⟩ := kv
    simp only [Sp.canonAbove, Bool.and_eq_true] at hm ⊢
    refine ⟨⟨?_, hm.1.2⟩, hm.2⟩
    cases c with
    | none => rfl
    | some x =>
      obtain ⟨y, rfl, hxy⟩ := h x rfl
      have := hm.1.1
      simp only [decide_eq_true_eq] at this ⊢
      omega

/-- Dropping pairs keeps the canonical form. -/
theorem Sp.canonAbove_filter [DecidableEq α] {d : Nat → α} (p : Nat × α → Bool) (m : Sp α) :
    ∀ b, Sp.canonAbove d b m = true → Sp.canonAbove d b (m.filter p) = true := by
  induction m with
  | nil => intro b h; exact h
  | cons kv r ih =>
    obtain ⟨j, w⟩ := kv
    intro b h
    simp only [List.filter_cons]
    have h' := h
    simp only [Sp.canonAbove, Bool.and_eq_true] at h
    split
    · simp only [Sp.canonAbove, Bool.and_eq_true]
      exact ⟨h.1, ih _ h.2⟩
    · refine ih b (Sp.canonAbove_weaken (b := some j) r (fun x hx => ⟨j, rfl, ?_⟩) h.2)
      subst hx
      have := h.1.1
      simp only [decide_eq_true_eq] at this
      omega

theorem Sp.canon_filter [DecidableEq α] {d : Nat → α} {m : Sp α} (p : Nat × α → Bool) (h : Sp.canon d m = true) :
    Sp.canon d (m.filter p) = true := Sp.canonAbove_filter p m none h

theorem Sp.canonAbove_insert [DecidableEq α] {d : Nat → α} (k : Nat) (v : α) (hv : v ≠ d k) (m : Sp α) :
    ∀ b, (∀ x, b = some x → x < k) → (∀ kv ∈ m, kv.1 ≠ k) → Sp.canonAbove d b m = true → Sp.canonAbove d b (Sp.insert m k v) = true := by
  induction m with
  | nil =>
    intro b hb _ _
    simp only [Sp.insert, Sp.canonAbove, Bool.and_true, Bool.and_eq_true, decide_eq_true_eq]
    refine ⟨?_, hv⟩
    cases b with
    | none => rfl
    | some x => simpa using hb x rfl
  | cons kv r ih =>
    obtain ⟨j, w⟩ := kv
    intro b hb hne hm
    have hj : j ≠ k := hne (j, w) (by simp)
    simp only [Sp.canonAbove, Bool.and_eq_true] at hm
    unfold Sp.insert
    split
    · next hkj =>
      simp only [Sp.canonAbove, Bool.and_eq_true, decide_eq_true_eq]
      refine ⟨⟨?_, hv⟩, ⟨hkj, by simpa using hm.1.2⟩, hm.2⟩
      cases b with
      | none => rfl
      | some x => simpa using hb x rfl
    · next hkj =>
      simp only [Sp.canonAbove, Bool.and_eq_true]
      exact ⟨hm.1, ih (some j) (fun x hx => by cases hx; omega) (fun kv h => hne kv (by simp [h])) hm.2⟩

/-- A write keeps the canonical form. -/
theorem Sp.canon_set [DecidableEq α] {d : Nat → α} {m : Sp α} (k : Nat) (v : α) (h : Sp.canon d m = true) :
    Sp.canon d (Sp.set d m k v) = true := by
  unfold Sp.set
  split
  · exact Sp.canon_filter _ h
  · next hv =>
    exact Sp.canonAbove_insert k v hv _ none (by simp) (fun kv hkv => by simpa [Sp.drop] using (List.mem_filter.mp hkv).2) (Sp.canon_filter _ h)

theorem Sp.get_drop {d : Nat → α} (m : Sp α) (k k' : Nat) : Sp.get d (Sp.drop m k) k' = if k' = k then d k else Sp.get d m k' := by
  induction m with
  | nil => by_cases h : k' = k <;> simp [Sp.drop, Sp.get, h]
  | cons kv r ih =>
    obtain ⟨j, w⟩ := kv
    unfold Sp.drop at ih ⊢
    by_cases hj : j = k
    · subst hj
      simp only [List.filter_cons, bne_self_eq_false, Bool.false_eq_true, if_false, ih]
      by_cases h : k' = j <;> simp [Sp.get, h]
    · have : (j != k) = true := by simpa using hj
      simp only [List.filter_cons, this, if_true, Sp.get, ih]
      by_cases h : k' = j
      · subst h; simp [hj]
      · simp [h]

theorem Sp.get_insert {d : Nat → α} (m : Sp α) (k : Nat) (v : α) (k' : Nat) (hk : ∀ kv ∈ m, kv.1 ≠ k) :
    Sp.get d (Sp.insert m k v) k' = if k' = k then v else Sp.get d m k' := by
  induction m with
  | nil => simp [Sp.insert, Sp.get]
  | cons kv r ih =>
    obtain ⟨j, w⟩ := kv
    have hj : j ≠ k := hk (j, w) (by simp)
    have ih := ih (fun kv h => hk kv (by simp [h]))
    unfold Sp.insert
    split
    · simp [Sp.get]
    · simp only [Sp.get, ih]
      by_cases h : k' = j
      · subst h; simp [hj]
      · simp [h]

/-- Reading after writing. -/
theorem Sp.get_set [DecidableEq α] {d : Nat → α} (m : Sp α) (k : Nat) (v : α) (k' : Nat) :
    Sp.get d (Sp.set d m k v) k' = if k' = k then v else Sp.get d m k' := by
  unfold Sp.set
  split
  · next hv => rw [Sp.get_drop]; split <;> simp_all
  · rw [Sp.get_insert _ _ _ _ (fun kv hkv => by simpa [Sp.drop] using (List.mem_filter.mp hkv).2), Sp.get_drop]
    split <;> simp_all

end Sys2Proof.Machine
end

