-- ==== Sys2Proof/Laws/Act.lean ====
section
/-!
SUPPORT. What holds of every write holds of every program and so of every command: the well-formed states are kept, the Fatal latch only sets,
MONO and the queue of commands stay, and a piece that no write of a program names stays.
-/
namespace Sys2Proof.Machine

theorem DieAct.wf_apply (a : DieAct) (s : DiePart) (h : s.wf = true) : (a.apply s).wf = true := by
  simp only [DiePart.wf, Bool.and_eq_true] at h ⊢
  cases a <;> simp only [DieAct.apply, h, Sp.canon_set, and_self]

theorem PageAct.wf_apply (a : PageAct) (s : PagePart) (h : s.wf = true) : (a.apply s).wf = true := by
  simp only [PagePart.wf, Bool.and_eq_true] at h ⊢
  cases a <;> simp only [PageAct.apply, h, Sp.canon_set, and_self]

theorem PortAct.wf_apply (a : PortAct) (s : PortPart) (h : s.wf = true) : (a.apply s).wf = true := by
  simp only [PortPart.wf, Bool.and_eq_true] at h ⊢
  cases a <;> simp only [PortAct.apply, h, Sp.canon_set, and_self]

theorem LookAct.wf_apply (a : LookAct) (s : LookPart) (h : s.wf = true) : (a.apply s).wf = true := by
  simp only [LookPart.wf, Bool.and_eq_true, decide_eq_true_eq] at h ⊢
  cases a <;> simp only [LookAct.apply, h, Sp.canon_set, List.length_take, Nat.min_le_left, and_self]

theorem PipeAct.wf_apply (a : PipeAct) (s : PipePart) (h : s.wf = true) : (a.apply s).wf = true := by
  simp only [PipePart.wf, Bool.and_eq_true] at h ⊢
  cases a <;> simp only [PipeAct.apply, h, Sp.canon_set, and_self]

theorem BufferAct.wf_apply (a : BufferAct) (s : BufferPart) (h : s.wf = true) : (a.apply s).wf = true := by
  simp only [BufferPart.wf, Bool.and_eq_true] at h ⊢
  cases a <;> simp only [BufferAct.apply, h, Sp.canon_set, and_self]

theorem SchedAct.wf_apply (a : SchedAct) (s : SchedPart) (h : s.wf = true) : (a.apply s).wf = true := by
  simp only [SchedPart.wf, Bool.and_eq_true] at h ⊢
  cases a <;> simp only [SchedAct.apply, h, Sp.canon_set, and_self]

theorem FabricAct.wf_apply (a : FabricAct) (s : FabricPart) (h : s.wf = true) : (a.apply s).wf = true := by
  simp only [FabricPart.wf, Bool.and_eq_true] at h ⊢
  cases a <;> simp only [FabricAct.apply, h, Sp.canon_set, and_self]

theorem MemAct.wf_apply (a : MemAct) (s : MemPart) (h : s.wf = true) : (a.apply s).wf = true := by
  simp only [MemPart.wf, Bool.and_eq_true] at h ⊢
  cases a <;> simp only [MemAct.apply, h, Sp.canon_set, and_self]

theorem TimeAct.wf_apply (a : TimeAct) (s : TimePart) (h : s.wf = true) : (a.apply s).wf = true := by
  simp only [TimePart.wf, Bool.and_eq_true, decide_eq_true_eq] at h ⊢
  cases a <;> simp only [TimeAct.apply, h, Sp.canon_set, List.length_take, Nat.min_le_left, and_self]

theorem ServiceAct.wf_apply (a : ServiceAct) (s : ServicePart) (h : s.wf = true) : (a.apply s).wf = true := by
  simp only [ServicePart.wf, Bool.and_eq_true, decide_eq_true_eq] at h ⊢
  cases a <;> simp only [ServiceAct.apply, h, Sp.canon_set, List.length_take, Nat.min_le_left, and_self]

theorem HostAct.wf_apply (a : HostAct) (s : HostPart) (h : s.wf = true) : (a.apply s).wf = true := by
  simp only [HostPart.wf, Bool.and_eq_true] at h ⊢
  cases a <;> simp only [HostAct.apply, h, Sp.canon_set, and_self]

theorem StartAct.wf_apply (a : StartAct) (s : StartPart) (h : s.wf = true) : (a.apply s).wf = true := by
  simp only [StartPart.wf] at h ⊢
  cases a <;> simp only [StartAct.apply, h, Sp.canon_set]

theorem RepairAct.wf_apply (a : RepairAct) (s : RepairPart) (h : s.wf = true) : (a.apply s).wf = true := by
  simp only [RepairPart.wf, Bool.and_eq_true, decide_eq_true_eq] at h ⊢
  cases a <;> simp only [RepairAct.apply, h, Sp.canon_set, List.length_take, Nat.min_le_left, and_self]

theorem FaultAct.wf_apply (a : FaultAct) (s : FaultPart) (h : s.wf = true) : (a.apply s).wf = true := by
  simp only [FaultPart.wf, Bool.and_eq_true, decide_eq_true_eq] at h ⊢
  cases a <;> simp only [FaultAct.apply, h, Sp.canon_set, List.length_take, Nat.min_le_left, and_self]

theorem CountAct.wf_apply (a : CountAct) (s : CountPart) (h : s.wf = true) : (a.apply s).wf = true := by
  simp only [CountPart.wf, Bool.and_eq_true, decide_eq_true_eq] at h ⊢
  cases a <;> simp only [CountAct.apply, h, Sp.canon_set, List.length_take, Nat.min_le_left, and_self]

theorem StoreAct.wf_apply (a : StoreAct) (s : StorePart) (h : s.wf = true) : (a.apply s).wf = true := by
  simp only [StorePart.wf, Bool.and_eq_true] at h ⊢
  cases a <;> simp only [StoreAct.apply, h, Sp.canon_set, and_self]

theorem PresenceAct.wf_apply (a : PresenceAct) (s : PresencePart) (h : s.wf = true) : (a.apply s).wf = true := by
  simp only [PresencePart.wf, Bool.and_eq_true, decide_eq_true_eq] at h ⊢
  cases a <;> simp only [PresenceAct.apply, h, Sp.canon_set, List.length_take, Nat.min_le_left, and_self]

theorem State.wf_iff (s : State) : s.wf = true ↔ s.toDiePart.wf = true ∧ s.toPagePart.wf = true ∧ s.toPortPart.wf = true ∧ s.toLookPart.wf = true ∧ s.toPipePart.wf = true ∧ s.toBufferPart.wf = true ∧ s.toSchedPart.wf = true ∧ s.toFabricPart.wf = true ∧ s.toMemPart.wf = true ∧ s.toTimePart.wf = true ∧ s.toServicePart.wf = true ∧ s.toHostPart.wf = true ∧ s.toStartPart.wf = true ∧ s.toRepairPart.wf = true ∧ s.toFaultPart.wf = true ∧ s.toCountPart.wf = true ∧ s.toStorePart.wf = true ∧ s.toPresencePart.wf = true := by
  simp only [State.wf, Bool.and_eq_true, and_assoc]

/-- Every write keeps a state well formed. -/
theorem Act.inv_apply (a : Act) (s : State) (h : s.Inv) : (a.apply s).Inv := by
  unfold State.Inv at h ⊢
  rw [State.wf_iff] at h ⊢
  obtain ⟨h1, h2, h3, h4, h5, h6, h7, h8, h9, h10, h11, h12, h13, h14, h15, h16, h17, h18⟩ := h
  cases a with
  | model a => exact ⟨h1, h2, h3, h4, h5, h6, h7, h8, h9, h10, h11, h12, h13, h14, h15, h16, h17, h18⟩
  | die a => exact ⟨a.wf_apply _ h1, h2, h3, h4, h5, h6, h7, h8, h9, h10, h11, h12, h13, h14, h15, h16, h17, h18⟩
  | page a => exact ⟨h1, a.wf_apply _ h2, h3, h4, h5, h6, h7, h8, h9, h10, h11, h12, h13, h14, h15, h16, h17, h18⟩
  | port a => exact ⟨h1, h2, a.wf_apply _ h3, h4, h5, h6, h7, h8, h9, h10, h11, h12, h13, h14, h15, h16, h17, h18⟩
  | look a => exact ⟨h1, h2, h3, a.wf_apply _ h4, h5, h6, h7, h8, h9, h10, h11, h12, h13, h14, h15, h16, h17, h18⟩
  | pipe a => exact ⟨h1, h2, h3, h4, a.wf_apply _ h5, h6, h7, h8, h9, h10, h11, h12, h13, h14, h15, h16, h17, h18⟩
  | buffer a => exact ⟨h1, h2, h3, h4, h5, a.wf_apply _ h6, h7, h8, h9, h10, h11, h12, h13, h14, h15, h16, h17, h18⟩
  | sched a => exact ⟨h1, h2, h3, h4, h5, h6, a.wf_apply _ h7, h8, h9, h10, h11, h12, h13, h14, h15, h16, h17, h18⟩
  | fabric a => exact ⟨h1, h2, h3, h4, h5, h6, h7, a.wf_apply _ h8, h9, h10, h11, h12, h13, h14, h15, h16, h17, h18⟩
  | mem a => exact ⟨h1, h2, h3, h4, h5, h6, h7, h8, a.wf_apply _ h9, h10, h11, h12, h13, h14, h15, h16, h17, h18⟩
  | time a => exact ⟨h1, h2, h3, h4, h5, h6, h7, h8, h9, a.wf_apply _ h10, h11, h12, h13, h14, h15, h16, h17, h18⟩
  | service a => exact ⟨h1, h2, h3, h4, h5, h6, h7, h8, h9, h10, a.wf_apply _ h11, h12, h13, h14, h15, h16, h17, h18⟩
  | host a => exact ⟨h1, h2, h3, h4, h5, h6, h7, h8, h9, h10, h11, a.wf_apply _ h12, h13, h14, h15, h16, h17, h18⟩
  | start a => exact ⟨h1, h2, h3, h4, h5, h6, h7, h8, h9, h10, h11, h12, a.wf_apply _ h13, h14, h15, h16, h17, h18⟩
  | repair a => exact ⟨h1, h2, h3, h4, h5, h6, h7, h8, h9, h10, h11, h12, h13, a.wf_apply _ h14, h15, h16, h17, h18⟩
  | fault a => exact ⟨h1, h2, h3, h4, h5, h6, h7, h8, h9, h10, h11, h12, h13, h14, a.wf_apply _ h15, h16, h17, h18⟩
  | count a => exact ⟨h1, h2, h3, h4, h5, h6, h7, h8, h9, h10, h11, h12, h13, h14, h15, a.wf_apply _ h16, h17, h18⟩
  | store a => exact ⟨h1, h2, h3, h4, h5, h6, h7, h8, h9, h10, h11, h12, h13, h14, h15, h16, a.wf_apply _ h17, h18⟩
  | presence a => exact ⟨h1, h2, h3, h4, h5, h6, h7, h8, h9, h10, h11, h12, h13, h14, h15, h16, h17, a.wf_apply _ h18⟩
  | power a => exact ⟨h1, h2, h3, h4, h5, h6, h7, h8, h9, h10, h11, h12, h13, h14, h15, h16, h17, h18⟩

/-- The Fatal latch only sets. -/
theorem Act.latch_apply (a : Act) (s : State) (h : s.fatalLatch = true) : (a.apply s).fatalLatch = true := by
  cases a with
  | fault a => cases a <;> first | exact h | rfl
  | _ => exact h

theorem Act.mono16_apply (a : Act) (s : State) : (a.apply s).mono16 = s.mono16 := by
  cases a with
  | time a => cases a <;> rfl
  | _ => rfl

theorem Act.pending_apply (a : Act) (s : State) : (a.apply s).pending = s.pending := by cases a <;> rfl

/-- What every write keeps, every program keeps. -/
theorem Prog.run_keeps {Q : State → Prop} (hQ : ∀ (a : Act) (s : State), Q s → Q (a.apply s)) (p : Prog) : ∀ s, Q s → Q (p.run s) := by
  induction p with
  | skip => intro s h; exact h
  | put a => intro s h; exact hQ a s h
  | andThen p q ihp ihq => intro s h; exact ihq _ (ihp s h)
  | look f ih => intro s h; exact ih s s h

theorem Prog.inv_run (p : Prog) (s : State) (h : s.Inv) : (p.run s).Inv := Prog.run_keeps Act.inv_apply p s h
theorem Prog.latch_run (p : Prog) (s : State) (h : s.fatalLatch = true) : (p.run s).fatalLatch = true := Prog.run_keeps Act.latch_apply p s h
theorem Prog.mono16_run (p : Prog) (s : State) : (p.run s).mono16 = s.mono16 :=
  Prog.run_keeps (Q := fun t => t.mono16 = s.mono16) (fun a t h => (a.mono16_apply t).trans h) p s rfl
theorem Prog.pending_run (p : Prog) (s : State) : (p.run s).pending = s.pending :=
  Prog.run_keeps (Q := fun t => t.pending = s.pending) (fun a t h => (a.pending_apply t).trans h) p s rfl

/-! ### Programs by the writes they may make -/

/-- Every write that a program may make satisfies a condition. -/
def Prog.All (W : Act → Prop) : Prog → Prop
  | .skip => True
  | .put a => W a
  | .andThen p q => p.All W ∧ q.All W
  | .look f => ∀ s, (f s).All W

theorem Prog.All.mono {W V : Act → Prop} (hWV : ∀ a, W a → V a) {p : Prog} (h : p.All W) : p.All V := by
  induction p with
  | skip => trivial
  | put a => exact hWV a h
  | andThen p q ihp ihq => exact ⟨ihp h.1, ihq h.2⟩
  | look f ih => exact fun s => ih s (h s)

theorem all_seqs {W : Act → Prop} : ∀ l : List Prog, (∀ p ∈ l, p.All W) → (seqs l).All W
  | [], _ => trivial
  | [p], h => h p (by simp)
  | p :: q :: r, h => ⟨h p (by simp), all_seqs (q :: r) (fun x hx => h x (by simp [hx]))⟩

theorem all_each {W : Act → Prop} {α : Type} (f : α → Prog) : ∀ l : List α, (∀ a ∈ l, (f a).All W) → (each l f).All W
  | [], _ => trivial
  | a :: r, h => ⟨h a (by simp), all_each f r (fun x hx => h x (by simp [hx]))⟩

theorem all_onlyIf {W : Act → Prop} {b : Bool} {p : Prog} (h : b = true → p.All W) : (onlyIf b p).All W := by
  unfold onlyIf; split
  · next hb => exact h hb
  · trivial

theorem all_either {W : Act → Prop} {b : Bool} {p q : Prog} (hp : b = true → p.All W) (hq : b = false → q.All W) : (either b p q).All W := by
  unfold either; split
  · next hb => exact hp hb
  · next hb => exact hq (by simpa using hb)

/-- What every write of a kind keeps, a program that makes only such writes keeps. -/
theorem Prog.All.keeps {W : Act → Prop} {Q : State → Prop} (hQ : ∀ (a : Act) (s : State), W a → Q s → Q (a.apply s)) {p : Prog} (h : p.All W) :
    ∀ s, Q s → Q (p.run s) := by
  induction p with
  | skip => intro s hs; exact hs
  | put a => intro s hs; exact hQ a s h hs
  | andThen p q ihp ihq => intro s hs; exact ihq h.2 _ (ihp h.1 s hs)
  | look f ih => intro s hs; exact ih s (h s) s hs

/-- The piece that a write changes. -/
@[simp] def ModelAct.piece : ModelAct → Piece
  | .emitted _ => .emitted
  | .fresh _ => .fresh
  | .supVin12 _ => .supVin12
  | .supVsb33 _ => .supVsb33

/-- The piece that a write changes. -/
@[simp] def DieAct.piece : DieAct → Piece
  | .dieRx _ _ => .dieRx
  | .dieTx _ _ => .dieTx
  | .dieQ _ _ => .dieQ
  | .tmMem _ _ => .tmMem
  | .dieRead _ _ => .dieRead
  | .dieLost _ _ => .dieLost
  | .modRetries _ _ => .modRetries
  | .dieDownAt _ => .dieDownAt

/-- The piece that a write changes. -/
@[simp] def PageAct.piece : PageAct → Piece
  | .regs _ _ => .regs
  | .units _ _ => .units
  | .before _ _ => .before
  | .frozen _ _ => .frozen
  | .hiLatch _ _ => .hiLatch
  | .loHeld _ _ => .loHeld
  | .blkUp _ _ => .blkUp
  | .tblWin _ _ => .tblWin
  | .tblOp _ _ => .tblOp
  | .commitLate _ _ => .commitLate
  | .tables _ _ => .tables
  | .startVal _ _ => .startVal
  | .dirty _ _ => .dirty

/-- The piece that a write changes. -/
@[simp] def PortAct.piece : PortAct → Piece
  | .pauseUntil _ _ => .pauseUntil
  | .pauseSentAt _ _ => .pauseSentAt
  | .pauseQ _ _ => .pauseQ
  | .macSignal _ _ => .macSignal
  | .rpfTx _ _ => .rpfTx
  | .ohCrcBad _ _ => .ohCrcBad
  | .xcRefill _ _ => .xcRefill
  | .flxHeld _ _ => .flxHeld
  | .instX _ _ => .instX
  | .xcAdapt _ _ => .xcAdapt
  | .clientFeed _ _ => .clientFeed
  | .flxEx _ _ => .flxEx
  | .xcArm _ => .xcArm
  | .xcCopyAt _ => .xcCopyAt
  | .pmX _ _ => .pmX

/-- The piece that a write changes. -/
@[simp] def LookAct.piece : LookAct → Piece
  | .tcamLoad _ _ => .tcamLoad
  | .tcamMiss _ _ => .tcamMiss
  | .tcFlip _ _ => .tcFlip
  | .scrubRow _ => .scrubRow
  | .scrubAt _ => .scrubAt
  | .lpmKeys _ _ => .lpmKeys
  | .lpmBuild _ _ => .lpmBuild
  | .lpmDels _ _ => .lpmDels
  | .learnQ _ _ => .learnQ
  | .sweepPos _ => .sweepPos
  | .sweepAt _ => .sweepAt
  | .l2bNtf _ => .l2bNtf

/-- The piece that a write changes. -/
@[simp] def PipeAct.piece : PipeAct → Piece
  | .rxCut _ _ => .rxCut
  | .bodies _ _ => .bodies
  | .bodyNext _ => .bodyNext
  | .rxNow _ _ => .rxNow
  | .rxFifo _ _ => .rxFifo
  | .rxXoff _ _ => .rxXoff
  | .inQ _ _ => .inQ
  | .recQ _ _ => .recQ
  | .slotX _ _ => .slotX
  | .upQ _ _ => .upQ
  | .egQ _ _ => .egQ
  | .txGive _ _ => .txGive
  | .txExp _ _ => .txExp
  | .txHold _ _ => .txHold
  | .macQ _ _ => .macQ
  | .txNow _ _ => .txNow
  | .bucketPend _ _ => .bucketPend
  | .rebalAt _ => .rebalAt
  | .bucketLoad _ _ => .bucketLoad
  | .smpSel _ _ => .smpSel
  | .smpSeq _ _ => .smpSeq
  | .smpMs _ _ => .smpMs

/-- The piece that a write changes. -/
@[simp] def BufferAct.piece : BufferAct → Piece
  | .xoff _ _ => .xoff
  | .stg _ _ => .stg
  | .stgUse _ _ => .stgUse
  | .stgGlobal _ => .stgGlobal
  | .qx _ _ => .qx
  | .poolUse _ _ => .poolUse
  | .reqUse _ _ => .reqUse
  | .reqResv _ _ => .reqResv
  | .tagNext _ => .tagNext
  | .twins _ => .twins
  | .segNext _ => .segNext
  | .bufs _ _ => .bufs
  | .bufNext _ => .bufNext
  | .stgXoff _ _ => .stgXoff
  | .tier2On _ => .tier2On
  | .tier2Rebuild _ => .tier2Rebuild
  | .freeAges _ => .freeAges
  | .hbmIn _ => .hbmIn
  | .hbmOut _ => .hbmOut
  | .grnIn _ => .grnIn
  | .grnOut _ => .grnOut
  | .grnDemand _ => .grnDemand
  | .stgDrops _ _ => .stgDrops
  | .starves _ => .starves

/-- The piece that a write changes. -/
@[simp] def SchedAct.piece : SchedAct → Piece
  | .polX _ _ => .polX
  | .shpX _ _ => .shpX
  | .shpBase _ => .shpBase
  | .mill _ _ => .mill
  | .millAll _ => .millAll
  | .flushing _ => .flushing
  | .rptX _ => .rptX
  | .gateX _ _ => .gateX

/-- The piece that a write changes. -/
@[simp] def FabricAct.piece : FabricAct → Piece
  | .linkX _ _ => .linkX
  | .unreachAt _ _ => .unreachAt
  | .dupIdAt _ => .dupIdAt
  | .stgMc _ => .stgMc
  | .reqs _ _ => .reqs
  | .reqNext _ _ => .reqNext
  | .recs _ _ => .recs
  | .srcEpoch _ _ => .srcEpoch
  | .xbWait _ => .xbWait
  | .xbT _ => .xbT
  | .xbGrant _ => .xbGrant
  | .xbAccept _ => .xbAccept
  | .privUse _ _ => .privUse
  | .privWait _ _ => .privWait
  | .slotTx _ _ => .slotTx
  | .cellSeq _ _ => .cellSeq
  | .sprayAt _ _ => .sprayAt
  | .cellOpen _ _ => .cellOpen
  | .rxStr _ _ => .rxStr
  | .mcOut _ _ => .mcOut
  | .mcOwed _ _ => .mcOwed
  | .slotBuf _ _ => .slotBuf
  | .slotPlay _ _ => .slotPlay
  | .xbMoved _ => .xbMoved
  | .xbPrivMoved _ => .xbPrivMoved
  | .chanErrs _ _ => .chanErrs
  | .mcMade _ => .mcMade
  | .normWait _ _ => .normWait
  | .normUse _ _ => .normUse

/-- The piece that a write changes. -/
@[simp] def MemAct.piece : MemAct → Piece
  | .memX _ _ => .memX
  | .actTab _ _ => .actTab
  | .openRow _ _ => .openRow
  | .sruMask _ => .sruMask
  | .actWait _ => .actWait
  | .actAt _ => .actAt

/-- The piece that a write changes. -/
@[simp] def TimeAct.piece : TimeAct → Piece
  | .time16 _ => .time16
  | .rateRem _ => .rateRem
  | .slewRem _ => .slewRem
  | .slewLeft _ => .slewLeft
  | .stepPend _ => .stepPend
  | .stepAt _ => .stepAt
  | .lockCount _ => .lockCount
  | .ppsMissed _ => .ppsMissed
  | .ppsLast _ => .ppsLast
  | .ppsGood _ => .ppsGood
  | .todSec _ => .todSec
  | .ppsOutSec _ => .ppsOutSec
  | .todTxSec _ => .todTxSec
  | .ppsHigh _ => .ppsHigh
  | .ppsOutMono _ => .ppsOutMono
  | .freqLog _ => .freqLog
  | .holdFreq _ => .holdFreq
  | .tsf _ => .tsf
  | .stepDelta _ => .stepDelta
  | .ptpSeq _ _ => .ptpSeq

/-- The piece that a write changes. -/
@[simp] def ServiceAct.piece : ServiceAct → Piece
  | .bfdX _ _ => .bfdX
  | .mepX _ _ => .mepX
  | .flowX _ _ => .flowX
  | .mergeX _ _ => .mergeX
  | .recX _ _ => .recX
  | .svcRx _ => .svcRx
  | .mergeQ _ => .mergeQ
  | .svcQ _ _ => .svcQ
  | .svcNtf _ => .svcNtf

/-- The piece that a write changes. -/
@[simp] def HostAct.piece : HostAct → Piece
  | .pcieFn _ _ => .pcieFn
  | .msix _ _ => .msix
  | .inta _ => .inta
  | .irqSince _ => .irqSince
  | .qpx _ _ => .qpx
  | .perstLow _ => .perstLow
  | .hostQ _ _ => .hostQ
  | .vinst _ _ => .vinst
  | .txRot _ => .txRot
  | .stgResv _ => .stgResv
  | .lookAt _ => .lookAt
  | .l1At _ => .l1At
  | .bufBad _ => .bufBad

/-- The piece that a write changes. -/
@[simp] def StartAct.piece : StartAct → Piece
  | .wdogTimes _ => .wdogTimes
  | .cageX _ _ => .cageX
  | .resetLow _ => .resetLow
  | .slotPins _ => .slotPins
  | .latchDue _ => .latchDue
  | .refclk _ => .refclk
  | .coldT0 _ => .coldT0
  | .bootAt _ => .bootAt
  | .stopped _ => .stopped

/-- The piece that a write changes. -/
@[simp] def RepairAct.piece : RepairAct → Piece
  | .poisoned _ _ => .poisoned
  | .pegStore _ => .pegStore
  | .declared _ => .declared
  | .rprEvt _ => .rprEvt
  | .gens _ _ => .gens
  | .genEpoch _ _ => .genEpoch
  | .unitX _ _ => .unitX
  | .recov _ _ => .recov
  | .rotLast _ => .rotLast
  | .rotAt _ => .rotAt
  | .rotClassAt _ => .rotClassAt
  | .modRetry _ _ => .modRetry
  | .scarf _ _ => .scarf
  | .pegs _ => .pegs
  | .pegDue _ => .pegDue

/-- The piece that a write changes. -/
@[simp] def FaultAct.piece : FaultAct → Piece
  | .cryQueue _ _ => .cryQueue
  | .cryPend _ _ => .cryPend
  | .cryLog _ => .cryLog
  | .firstWin _ => .firstWin
  | .firstEnd _ => .firstEnd
  | .fatalLatch => .fatalLatch
  | .fatalQ _ => .fatalQ
  | .openPage _ _ => .openPage
  | .grnBy _ => .grnBy

/-- The piece that a write changes. -/
@[simp] def CountAct.piece : CountAct → Piece
  | .counters _ _ => .counters
  | .snapSaved _ _ => .snapSaved
  | .snap _ => .snap
  | .snapAt _ => .snapAt
  | .dumpCount _ => .dumpCount
  | .dumpMemErrs _ => .dumpMemErrs
  | .traceBuf _ => .traceBuf
  | .trcPhase _ => .trcPhase
  | .trcMs _ => .trcMs
  | .trcCount _ => .trcCount

/-- The piece that a write changes. -/
@[simp] def StoreAct.piece : StoreAct → Piece
  | .ctl _ => .ctl
  | .imgUnit _ _ => .imgUnit
  | .snapSlot _ _ => .snapSlot
  | .storeQ _ => .storeQ
  | .storeBusy _ => .storeBusy
  | .erases _ _ => .erases
  | .copyArea _ _ => .copyArea
  | .updSlot _ => .updSlot
  | .updOp _ => .updOp
  | .confirmEnd _ => .confirmEnd
  | .roll _ => .roll
  | .coreTag _ _ => .coreTag

/-- The piece that a write changes. -/
@[simp] def PresenceAct.piece : PresenceAct → Piece
  | .jnlSeq _ => .jnlSeq
  | .jnlPre _ => .jnlPre
  | .jnlRecent _ _ => .jnlRecent
  | .jnlPersist _ => .jnlPersist
  | .jnlBacklog _ => .jnlBacklog
  | .jnlNext _ => .jnlNext
  | .jnlPhase _ => .jnlPhase
  | .jnlUnits _ _ => .jnlUnits
  | .jnlUnit _ => .jnlUnit
  | .jnlWriting _ => .jnlWriting
  | .jnlHeld _ => .jnlHeld
  | .rtcNs _ => .rtcNs
  | .winEnd _ => .winEnd
  | .sealFails _ => .sealFails
  | .sealPasses _ => .sealPasses
  | .rtcArmed _ => .rtcArmed
  | .rtcLoadedSec _ => .rtcLoadedSec
  | .bkpCopied _ => .bkpCopied
  | .bkpOver _ => .bkpOver

/-- The piece that a write changes. -/
@[simp] def PowerAct.piece : PowerAct → Piece
  | .temps _ => .temps
  | .hotAt _ => .hotAt
  | .coolAt _ => .coolAt
  | .shutAt _ => .shutAt
  | .alert _ => .alert

/-- The piece that a write changes. -/
@[simp] def Act.piece : Act → Piece
  | .model a => a.piece
  | .die a => a.piece
  | .page a => a.piece
  | .port a => a.piece
  | .look a => a.piece
  | .pipe a => a.piece
  | .buffer a => a.piece
  | .sched a => a.piece
  | .fabric a => a.piece
  | .mem a => a.piece
  | .time a => a.piece
  | .service a => a.piece
  | .host a => a.piece
  | .start a => a.piece
  | .repair a => a.piece
  | .fault a => a.piece
  | .count a => a.piece
  | .store a => a.piece
  | .presence a => a.piece
  | .power a => a.piece

theorem ModelAct.same_apply (a : ModelAct) (s : State) (f : Piece) (h : f ≠ a.piece) : s.same ((Act.model a).apply s) f := by
  cases f with
  | emitted => cases a <;> first | rfl | exact absurd rfl h
  | fresh => cases a <;> first | rfl | exact absurd rfl h
  | supVin12 => cases a <;> first | rfl | exact absurd rfl h
  | supVsb33 => cases a <;> first | rfl | exact absurd rfl h
  | _ => rfl

theorem DieAct.same_apply (a : DieAct) (s : State) (f : Piece) (h : f ≠ a.piece) : s.same ((Act.die a).apply s) f := by
  cases f with
  | dieRx => cases a <;> first | rfl | exact absurd rfl h
  | dieTx => cases a <;> first | rfl | exact absurd rfl h
  | dieQ => cases a <;> first | rfl | exact absurd rfl h
  | tmMem => cases a <;> first | rfl | exact absurd rfl h
  | dieRead => cases a <;> first | rfl | exact absurd rfl h
  | dieLost => cases a <;> first | rfl | exact absurd rfl h
  | modRetries => cases a <;> first | rfl | exact absurd rfl h
  | dieDownAt => cases a <;> first | rfl | exact absurd rfl h
  | _ => rfl

theorem PageAct.same_apply (a : PageAct) (s : State) (f : Piece) (h : f ≠ a.piece) : s.same ((Act.page a).apply s) f := by
  cases f with
  | regs => cases a <;> first | rfl | exact absurd rfl h
  | units => cases a <;> first | rfl | exact absurd rfl h
  | before => cases a <;> first | rfl | exact absurd rfl h
  | frozen => cases a <;> first | rfl | exact absurd rfl h
  | hiLatch => cases a <;> first | rfl | exact absurd rfl h
  | loHeld => cases a <;> first | rfl | exact absurd rfl h
  | blkUp => cases a <;> first | rfl | exact absurd rfl h
  | tblWin => cases a <;> first | rfl | exact absurd rfl h
  | tblOp => cases a <;> first | rfl | exact absurd rfl h
  | commitLate => cases a <;> first | rfl | exact absurd rfl h
  | tables => cases a <;> first | rfl | exact absurd rfl h
  | startVal => cases a <;> first | rfl | exact absurd rfl h
  | dirty => cases a <;> first | rfl | exact absurd rfl h
  | _ => rfl

theorem PortAct.same_apply (a : PortAct) (s : State) (f : Piece) (h : f ≠ a.piece) : s.same ((Act.port a).apply s) f := by
  cases f with
  | pauseUntil => cases a <;> first | rfl | exact absurd rfl h
  | pauseSentAt => cases a <;> first | rfl | exact absurd rfl h
  | pauseQ => cases a <;> first | rfl | exact absurd rfl h
  | macSignal => cases a <;> first | rfl | exact absurd rfl h
  | rpfTx => cases a <;> first | rfl | exact absurd rfl h
  | ohCrcBad => cases a <;> first | rfl | exact absurd rfl h
  | xcRefill => cases a <;> first | rfl | exact absurd rfl h
  | flxHeld => cases a <;> first | rfl | exact absurd rfl h
  | instX => cases a <;> first | rfl | exact absurd rfl h
  | xcAdapt => cases a <;> first | rfl | exact absurd rfl h
  | clientFeed => cases a <;> first | rfl | exact absurd rfl h
  | flxEx => cases a <;> first | rfl | exact absurd rfl h
  | xcArm => cases a <;> first | rfl | exact absurd rfl h
  | xcCopyAt => cases a <;> first | rfl | exact absurd rfl h
  | pmX => cases a <;> first | rfl | exact absurd rfl h
  | _ => rfl

theorem LookAct.same_apply (a : LookAct) (s : State) (f : Piece) (h : f ≠ a.piece) : s.same ((Act.look a).apply s) f := by
  cases f with
  | tcamLoad => cases a <;> first | rfl | exact absurd rfl h
  | tcamMiss => cases a <;> first | rfl | exact absurd rfl h
  | tcFlip => cases a <;> first | rfl | exact absurd rfl h
  | scrubRow => cases a <;> first | rfl | exact absurd rfl h
  | scrubAt => cases a <;> first | rfl | exact absurd rfl h
  | lpmKeys => cases a <;> first | rfl | exact absurd rfl h
  | lpmBuild => cases a <;> first | rfl | exact absurd rfl h
  | lpmDels => cases a <;> first | rfl | exact absurd rfl h
  | learnQ => cases a <;> first | rfl | exact absurd rfl h
  | sweepPos => cases a <;> first | rfl | exact absurd rfl h
  | sweepAt => cases a <;> first | rfl | exact absurd rfl h
  | l2bNtf => cases a <;> first | rfl | exact absurd rfl h
  | _ => rfl

theorem PipeAct.same_apply (a : PipeAct) (s : State) (f : Piece) (h : f ≠ a.piece) : s.same ((Act.pipe a).apply s) f := by
  cases f with
  | rxCut => cases a <;> first | rfl | exact absurd rfl h
  | bodies => cases a <;> first | rfl | exact absurd rfl h
  | bodyNext => cases a <;> first | rfl | exact absurd rfl h
  | rxNow => cases a <;> first | rfl | exact absurd rfl h
  | rxFifo => cases a <;> first | rfl | exact absurd rfl h
  | rxXoff => cases a <;> first | rfl | exact absurd rfl h
  | inQ => cases a <;> first | rfl | exact absurd rfl h
  | recQ => cases a <;> first | rfl | exact absurd rfl h
  | slotX => cases a <;> first | rfl | exact absurd rfl h
  | upQ => cases a <;> first | rfl | exact absurd rfl h
  | egQ => cases a <;> first | rfl | exact absurd rfl h
  | txGive => cases a <;> first | rfl | exact absurd rfl h
  | txExp => cases a <;> first | rfl | exact absurd rfl h
  | txHold => cases a <;> first | rfl | exact absurd rfl h
  | macQ => cases a <;> first | rfl | exact absurd rfl h
  | txNow => cases a <;> first | rfl | exact absurd rfl h
  | bucketPend => cases a <;> first | rfl | exact absurd rfl h
  | rebalAt => cases a <;> first | rfl | exact absurd rfl h
  | bucketLoad => cases a <;> first | rfl | exact absurd rfl h
  | smpSel => cases a <;> first | rfl | exact absurd rfl h
  | smpSeq => cases a <;> first | rfl | exact absurd rfl h
  | smpMs => cases a <;> first | rfl | exact absurd rfl h
  | _ => rfl

theorem BufferAct.same_apply (a : BufferAct) (s : State) (f : Piece) (h : f ≠ a.piece) : s.same ((Act.buffer a).apply s) f := by
  cases f with
  | xoff => cases a <;> first | rfl | exact absurd rfl h
  | stg => cases a <;> first | rfl | exact absurd rfl h
  | stgUse => cases a <;> first | rfl | exact absurd rfl h
  | stgGlobal => cases a <;> first | rfl | exact absurd rfl h
  | qx => cases a <;> first | rfl | exact absurd rfl h
  | poolUse => cases a <;> first | rfl | exact absurd rfl h
  | reqUse => cases a <;> first | rfl | exact absurd rfl h
  | reqResv => cases a <;> first | rfl | exact absurd rfl h
  | tagNext => cases a <;> first | rfl | exact absurd rfl h
  | twins => cases a <;> first | rfl | exact absurd rfl h
  | segNext => cases a <;> first | rfl | exact absurd rfl h
  | bufs => cases a <;> first | rfl | exact absurd rfl h
  | bufNext => cases a <;> first | rfl | exact absurd rfl h
  | stgXoff => cases a <;> first | rfl | exact absurd rfl h
  | tier2On => cases a <;> first | rfl | exact absurd rfl h
  | tier2Rebuild => cases a <;> first | rfl | exact absurd rfl h
  | freeAges => cases a <;> first | rfl | exact absurd rfl h
  | hbmIn => cases a <;> first | rfl | exact absurd rfl h
  | hbmOut => cases a <;> first | rfl | exact absurd rfl h
  | grnIn => cases a <;> first | rfl | exact absurd rfl h
  | grnOut => cases a <;> first | rfl | exact absurd rfl h
  | grnDemand => cases a <;> first | rfl | exact absurd rfl h
  | stgDrops => cases a <;> first | rfl | exact absurd rfl h
  | starves => cases a <;> first | rfl | exact absurd rfl h
  | _ => rfl

theorem SchedAct.same_apply (a : SchedAct) (s : State) (f : Piece) (h : f ≠ a.piece) : s.same ((Act.sched a).apply s) f := by
  cases f with
  | polX => cases a <;> first | rfl | exact absurd rfl h
  | shpX => cases a <;> first | rfl | exact absurd rfl h
  | shpBase => cases a <;> first | rfl | exact absurd rfl h
  | mill => cases a <;> first | rfl | exact absurd rfl h
  | millAll => cases a <;> first | rfl | exact absurd rfl h
  | flushing => cases a <;> first | rfl | exact absurd rfl h
  | rptX => cases a <;> first | rfl | exact absurd rfl h
  | gateX => cases a <;> first | rfl | exact absurd rfl h
  | _ => rfl

theorem FabricAct.same_apply (a : FabricAct) (s : State) (f : Piece) (h : f ≠ a.piece) : s.same ((Act.fabric a).apply s) f := by
  cases f with
  | linkX => cases a <;> first | rfl | exact absurd rfl h
  | unreachAt => cases a <;> first | rfl | exact absurd rfl h
  | dupIdAt => cases a <;> first | rfl | exact absurd rfl h
  | stgMc => cases a <;> first | rfl | exact absurd rfl h
  | reqs => cases a <;> first | rfl | exact absurd rfl h
  | reqNext => cases a <;> first | rfl | exact absurd rfl h
  | recs => cases a <;> first | rfl | exact absurd rfl h
  | srcEpoch => cases a <;> first | rfl | exact absurd rfl h
  | xbWait => cases a <;> first | rfl | exact absurd rfl h
  | xbT => cases a <;> first | rfl | exact absurd rfl h
  | xbGrant => cases a <;> first | rfl | exact absurd rfl h
  | xbAccept => cases a <;> first | rfl | exact absurd rfl h
  | privUse => cases a <;> first | rfl | exact absurd rfl h
  | privWait => cases a <;> first | rfl | exact absurd rfl h
  | slotTx => cases a <;> first | rfl | exact absurd rfl h
  | cellSeq => cases a <;> first | rfl | exact absurd rfl h
  | sprayAt => cases a <;> first | rfl | exact absurd rfl h
  | cellOpen => cases a <;> first | rfl | exact absurd rfl h
  | rxStr => cases a <;> first | rfl | exact absurd rfl h
  | mcOut => cases a <;> first | rfl | exact absurd rfl h
  | mcOwed => cases a <;> first | rfl | exact absurd rfl h
  | slotBuf => cases a <;> first | rfl | exact absurd rfl h
  | slotPlay => cases a <;> first | rfl | exact absurd rfl h
  | xbMoved => cases a <;> first | rfl | exact absurd rfl h
  | xbPrivMoved => cases a <;> first | rfl | exact absurd rfl h
  | chanErrs => cases a <;> first | rfl | exact absurd rfl h
  | mcMade => cases a <;> first | rfl | exact absurd rfl h
  | normWait => cases a <;> first | rfl | exact absurd rfl h
  | normUse => cases a <;> first | rfl | exact absurd rfl h
  | _ => rfl

theorem MemAct.same_apply (a : MemAct) (s : State) (f : Piece) (h : f ≠ a.piece) : s.same ((Act.mem a).apply s) f := by
  cases f with
  | memX => cases a <;> first | rfl | exact absurd rfl h
  | actTab => cases a <;> first | rfl | exact absurd rfl h
  | openRow => cases a <;> first | rfl | exact absurd rfl h
  | sruMask => cases a <;> first | rfl | exact absurd rfl h
  | actWait => cases a <;> first | rfl | exact absurd rfl h
  | actAt => cases a <;> first | rfl | exact absurd rfl h
  | _ => rfl

theorem TimeAct.same_apply (a : TimeAct) (s : State) (f : Piece) (h : f ≠ a.piece) : s.same ((Act.time a).apply s) f := by
  cases f with
  | mono16 => cases a <;> first | rfl | exact absurd rfl h
  | time16 => cases a <;> first | rfl | exact absurd rfl h
  | rateRem => cases a <;> first | rfl | exact absurd rfl h
  | slewRem => cases a <;> first | rfl | exact absurd rfl h
  | slewLeft => cases a <;> first | rfl | exact absurd rfl h
  | stepPend => cases a <;> first | rfl | exact absurd rfl h
  | stepAt => cases a <;> first | rfl | exact absurd rfl h
  | lockCount => cases a <;> first | rfl | exact absurd rfl h
  | ppsMissed => cases a <;> first | rfl | exact absurd rfl h
  | ppsLast => cases a <;> first | rfl | exact absurd rfl h
  | ppsGood => cases a <;> first | rfl | exact absurd rfl h
  | todSec => cases a <;> first | rfl | exact absurd rfl h
  | ppsOutSec => cases a <;> first | rfl | exact absurd rfl h
  | todTxSec => cases a <;> first | rfl | exact absurd rfl h
  | ppsHigh => cases a <;> first | rfl | exact absurd rfl h
  | ppsOutMono => cases a <;> first | rfl | exact absurd rfl h
  | freqLog => cases a <;> first | rfl | exact absurd rfl h
  | holdFreq => cases a <;> first | rfl | exact absurd rfl h
  | tsf => cases a <;> first | rfl | exact absurd rfl h
  | stepDelta => cases a <;> first | rfl | exact absurd rfl h
  | ptpSeq => cases a <;> first | rfl | exact absurd rfl h
  | _ => rfl

theorem ServiceAct.same_apply (a : ServiceAct) (s : State) (f : Piece) (h : f ≠ a.piece) : s.same ((Act.service a).apply s) f := by
  cases f with
  | bfdX => cases a <;> first | rfl | exact absurd rfl h
  | mepX => cases a <;> first | rfl | exact absurd rfl h
  | flowX => cases a <;> first | rfl | exact absurd rfl h
  | mergeX => cases a <;> first | rfl | exact absurd rfl h
  | recX => cases a <;> first | rfl | exact absurd rfl h
  | svcRx => cases a <;> first | rfl | exact absurd rfl h
  | mergeQ => cases a <;> first | rfl | exact absurd rfl h
  | svcQ => cases a <;> first | rfl | exact absurd rfl h
  | svcNtf => cases a <;> first | rfl | exact absurd rfl h
  | _ => rfl

theorem HostAct.same_apply (a : HostAct) (s : State) (f : Piece) (h : f ≠ a.piece) : s.same ((Act.host a).apply s) f := by
  cases f with
  | pcieFn => cases a <;> first | rfl | exact absurd rfl h
  | msix => cases a <;> first | rfl | exact absurd rfl h
  | inta => cases a <;> first | rfl | exact absurd rfl h
  | irqSince => cases a <;> first | rfl | exact absurd rfl h
  | qpx => cases a <;> first | rfl | exact absurd rfl h
  | perstLow => cases a <;> first | rfl | exact absurd rfl h
  | hostQ => cases a <;> first | rfl | exact absurd rfl h
  | vinst => cases a <;> first | rfl | exact absurd rfl h
  | txRot => cases a <;> first | rfl | exact absurd rfl h
  | stgResv => cases a <;> first | rfl | exact absurd rfl h
  | lookAt => cases a <;> first | rfl | exact absurd rfl h
  | l1At => cases a <;> first | rfl | exact absurd rfl h
  | bufBad => cases a <;> first | rfl | exact absurd rfl h
  | _ => rfl

theorem StartAct.same_apply (a : StartAct) (s : State) (f : Piece) (h : f ≠ a.piece) : s.same ((Act.start a).apply s) f := by
  cases f with
  | wdogTimes => cases a <;> first | rfl | exact absurd rfl h
  | cageX => cases a <;> first | rfl | exact absurd rfl h
  | resetLow => cases a <;> first | rfl | exact absurd rfl h
  | slotPins => cases a <;> first | rfl | exact absurd rfl h
  | latchDue => cases a <;> first | rfl | exact absurd rfl h
  | refclk => cases a <;> first | rfl | exact absurd rfl h
  | coldT0 => cases a <;> first | rfl | exact absurd rfl h
  | bootAt => cases a <;> first | rfl | exact absurd rfl h
  | stopped => cases a <;> first | rfl | exact absurd rfl h
  | _ => rfl

theorem RepairAct.same_apply (a : RepairAct) (s : State) (f : Piece) (h : f ≠ a.piece) : s.same ((Act.repair a).apply s) f := by
  cases f with
  | poisoned => cases a <;> first | rfl | exact absurd rfl h
  | pegStore => cases a <;> first | rfl | exact absurd rfl h
  | declared => cases a <;> first | rfl | exact absurd rfl h
  | rprEvt => cases a <;> first | rfl | exact absurd rfl h
  | gens => cases a <;> first | rfl | exact absurd rfl h
  | genEpoch => cases a <;> first | rfl | exact absurd rfl h
  | unitX => cases a <;> first | rfl | exact absurd rfl h
  | recov => cases a <;> first | rfl | exact absurd rfl h
  | rotLast => cases a <;> first | rfl | exact absurd rfl h
  | rotAt => cases a <;> first | rfl | exact absurd rfl h
  | rotClassAt => cases a <;> first | rfl | exact absurd rfl h
  | modRetry => cases a <;> first | rfl | exact absurd rfl h
  | scarf => cases a <;> first | rfl | exact absurd rfl h
  | pegs => cases a <;> first | rfl | exact absurd rfl h
  | pegDue => cases a <;> first | rfl | exact absurd rfl h
  | _ => rfl

theorem FaultAct.same_apply (a : FaultAct) (s : State) (f : Piece) (h : f ≠ a.piece) : s.same ((Act.fault a).apply s) f := by
  cases f with
  | cryQueue => cases a <;> first | rfl | exact absurd rfl h
  | cryPend => cases a <;> first | rfl | exact absurd rfl h
  | cryLog => cases a <;> first | rfl | exact absurd rfl h
  | firstWin => cases a <;> first | rfl | exact absurd rfl h
  | firstEnd => cases a <;> first | rfl | exact absurd rfl h
  | fatalLatch => cases a <;> first | rfl | exact absurd rfl h
  | fatalQ => cases a <;> first | rfl | exact absurd rfl h
  | openPage => cases a <;> first | rfl | exact absurd rfl h
  | grnBy => cases a <;> first | rfl | exact absurd rfl h
  | _ => rfl

theorem CountAct.same_apply (a : CountAct) (s : State) (f : Piece) (h : f ≠ a.piece) : s.same ((Act.count a).apply s) f := by
  cases f with
  | counters => cases a <;> first | rfl | exact absurd rfl h
  | snapSaved => cases a <;> first | rfl | exact absurd rfl h
  | snap => cases a <;> first | rfl | exact absurd rfl h
  | snapAt => cases a <;> first | rfl | exact absurd rfl h
  | dumpCount => cases a <;> first | rfl | exact absurd rfl h
  | dumpMemErrs => cases a <;> first | rfl | exact absurd rfl h
  | traceBuf => cases a <;> first | rfl | exact absurd rfl h
  | trcPhase => cases a <;> first | rfl | exact absurd rfl h
  | trcMs => cases a <;> first | rfl | exact absurd rfl h
  | trcCount => cases a <;> first | rfl | exact absurd rfl h
  | _ => rfl

theorem StoreAct.same_apply (a : StoreAct) (s : State) (f : Piece) (h : f ≠ a.piece) : s.same ((Act.store a).apply s) f := by
  cases f with
  | ctl => cases a <;> first | rfl | exact absurd rfl h
  | imgUnit => cases a <;> first | rfl | exact absurd rfl h
  | snapSlot => cases a <;> first | rfl | exact absurd rfl h
  | storeQ => cases a <;> first | rfl | exact absurd rfl h
  | storeBusy => cases a <;> first | rfl | exact absurd rfl h
  | erases => cases a <;> first | rfl | exact absurd rfl h
  | copyArea => cases a <;> first | rfl | exact absurd rfl h
  | updSlot => cases a <;> first | rfl | exact absurd rfl h
  | updOp => cases a <;> first | rfl | exact absurd rfl h
  | confirmEnd => cases a <;> first | rfl | exact absurd rfl h
  | roll => cases a <;> first | rfl | exact absurd rfl h
  | coreTag => cases a <;> first | rfl | exact absurd rfl h
  | _ => rfl

theorem PresenceAct.same_apply (a : PresenceAct) (s : State) (f : Piece) (h : f ≠ a.piece) : s.same ((Act.presence a).apply s) f := by
  cases f with
  | jnlSeq => cases a <;> first | rfl | exact absurd rfl h
  | jnlPre => cases a <;> first | rfl | exact absurd rfl h
  | jnlRecent => cases a <;> first | rfl | exact absurd rfl h
  | jnlPersist => cases a <;> first | rfl | exact absurd rfl h
  | jnlBacklog => cases a <;> first | rfl | exact absurd rfl h
  | jnlNext => cases a <;> first | rfl | exact absurd rfl h
  | jnlPhase => cases a <;> first | rfl | exact absurd rfl h
  | jnlUnits => cases a <;> first | rfl | exact absurd rfl h
  | jnlUnit => cases a <;> first | rfl | exact absurd rfl h
  | jnlWriting => cases a <;> first | rfl | exact absurd rfl h
  | jnlHeld => cases a <;> first | rfl | exact absurd rfl h
  | rtcNs => cases a <;> first | rfl | exact absurd rfl h
  | winEnd => cases a <;> first | rfl | exact absurd rfl h
  | sealFails => cases a <;> first | rfl | exact absurd rfl h
  | sealPasses => cases a <;> first | rfl | exact absurd rfl h
  | rtcArmed => cases a <;> first | rfl | exact absurd rfl h
  | rtcLoadedSec => cases a <;> first | rfl | exact absurd rfl h
  | bkpCopied => cases a <;> first | rfl | exact absurd rfl h
  | bkpOver => cases a <;> first | rfl | exact absurd rfl h
  | _ => rfl

theorem PowerAct.same_apply (a : PowerAct) (s : State) (f : Piece) (h : f ≠ a.piece) : s.same ((Act.power a).apply s) f := by
  cases f with
  | temps => cases a <;> first | rfl | exact absurd rfl h
  | hotAt => cases a <;> first | rfl | exact absurd rfl h
  | coolAt => cases a <;> first | rfl | exact absurd rfl h
  | shutAt => cases a <;> first | rfl | exact absurd rfl h
  | alert => cases a <;> first | rfl | exact absurd rfl h
  | _ => rfl

/-- A write changes no piece but its own. -/
theorem Act.same_apply (a : Act) (s : State) (f : Piece) (h : f ≠ a.piece) : s.same (a.apply s) f := by
  cases a with
  | model a => exact a.same_apply s f h
  | die a => exact a.same_apply s f h
  | page a => exact a.same_apply s f h
  | port a => exact a.same_apply s f h
  | look a => exact a.same_apply s f h
  | pipe a => exact a.same_apply s f h
  | buffer a => exact a.same_apply s f h
  | sched a => exact a.same_apply s f h
  | fabric a => exact a.same_apply s f h
  | mem a => exact a.same_apply s f h
  | time a => exact a.same_apply s f h
  | service a => exact a.same_apply s f h
  | host a => exact a.same_apply s f h
  | start a => exact a.same_apply s f h
  | repair a => exact a.same_apply s f h
  | fault a => exact a.same_apply s f h
  | count a => exact a.same_apply s f h
  | store a => exact a.same_apply s f h
  | presence a => exact a.same_apply s f h
  | power a => exact a.same_apply s f h

theorem State.same_trans {s t u : State} {f : Piece} (h : s.same t f) (h' : t.same u f) : s.same u f := by
  cases f <;> exact Eq.trans h h'

theorem State.same_refl (s : State) (f : Piece) : s.same s f := by cases f <;> rfl

/-- Every write of the program changes one of the pieces named. -/
def Prog.Only (l : List Piece) (p : Prog) : Prop := p.All (fun a => a.piece ∈ l)

theorem Prog.Only.onlyIn {l : List Piece} {p : Prog} (h : p.Only l) (s : State) : s.onlyIn (p.run s) l := fun f hf =>
  Prog.All.keeps (Q := fun t => s.same t f)
    (fun a t ha hs => State.same_trans hs (a.same_apply t f (fun e => hf (e ▸ ha)))) h s (s.same_refl f)

theorem Prog.Only.mono {l l' : List Piece} (hl : ∀ f ∈ l, f ∈ l') {p : Prog} (h : p.Only l) : p.Only l' :=
  Prog.All.mono (fun _ ha => hl _ ha) h

/-- Every write of the program to a register goes to a key of the set. -/
def Act.regsIn (R : Nat → Prop) : Act → Prop
  | .page (.regs k _) => R k
  | _ => True

theorem State.regsAt_apply (s : State) (k : Nat) (v : Word) (k' : Nat) : ((Act.regs k v).apply s).regsAt k' = if k' = k then v else s.regsAt k' :=
  Sp.get_set _ _ _ _

theorem Prog.regsAt_run {R : Nat → Prop} {p : Prog} (h : p.All (Act.regsIn R)) (s : State) (k : Nat) (hk : ¬R k) :
    (p.run s).regsAt k = s.regsAt k := by
  refine Prog.All.keeps (W := Act.regsIn R) (Q := fun t => t.regsAt k = s.regsAt k) ?_ h s rfl
  intro a t ha hs
  cases a with
  | page a =>
    cases a with
    | regs j v =>
      rw [show Act.page (.regs j v) = Act.regs j v from rfl, State.regsAt_apply, if_neg (fun e => hk (by subst e; exact ha))]; exact hs
    | _ => exact hs
  | _ => exact hs

/-- What a command answers, if it answers a next state: its program's state. -/
theorem command_next {i : Instr} {p : Prog} {s t : State} (h : command i p s = .next t) :
    i.wellFormed = true ∧ t = (Prog.andThen (.put (.emitted [])) p).run s := by
  unfold command at h
  split at h
  · next hw => cases h; exact ⟨hw, rfl⟩
  · cases h

/-- A command with operands of the device answers its program's state. -/
theorem command_runs {i : Instr} (p : Prog) (s : State) (h : i.wellFormed = true) :
    command i p s = .next (p.run { s with emitted := [] }) := by simp only [command, h, if_true]; rfl

end Sys2Proof.Machine
end

