-- ==== Sys2Proof/Laws/Fields.lean ====
section
/-!
SUPPORT. What each field of the state reads after it was written: one lemma for each write of one piece of state.
-/
namespace Sys2Proof.Machine

@[simp] theorem Act.emitted_apply (v) (s : State) : ((Act.emitted v).apply s).emitted = v := rfl

@[simp] theorem Act.fresh_apply (v) (s : State) : ((Act.fresh v).apply s).fresh = v := rfl

@[simp] theorem Act.supVin12_apply (v) (s : State) : ((Act.supVin12 v).apply s).supVin12 = v := rfl

@[simp] theorem Act.supVsb33_apply (v) (s : State) : ((Act.supVsb33 v).apply s).supVsb33 = v := rfl

@[simp] theorem Act.dieRx_apply (k : Nat) (v) (s : State) (k' : Nat) : ((Act.dieRx k v).apply s).dieRxAt k' = if k' = k then v else s.dieRxAt k' :=
  Sp.get_set s.dieRx k v k'

@[simp] theorem Act.dieTx_apply (k : Nat) (v) (s : State) (k' : Nat) : ((Act.dieTx k v).apply s).dieTxAt k' = if k' = k then v else s.dieTxAt k' :=
  Sp.get_set s.dieTx k v k'

@[simp] theorem Act.dieQ_apply (k : Nat) (v) (s : State) (k' : Nat) : ((Act.dieQ k v).apply s).dieQAt k' = if k' = k then v else s.dieQAt k' :=
  Sp.get_set s.dieQ k v k'

@[simp] theorem Act.tmMem_apply (k : Nat) (v) (s : State) (k' : Nat) : ((Act.tmMem k v).apply s).tmMemAt k' = if k' = k then v else s.tmMemAt k' :=
  Sp.get_set s.tmMem k v k'

@[simp] theorem Act.dieRead_apply (k : Nat) (v) (s : State) (k' : Nat) : ((Act.dieRead k v).apply s).dieReadAt k' = if k' = k then v else s.dieReadAt k' :=
  Sp.get_set s.dieRead k v k'

@[simp] theorem Act.dieLost_apply (k : Nat) (v) (s : State) (k' : Nat) : ((Act.dieLost k v).apply s).dieLostAt k' = if k' = k then v else s.dieLostAt k' :=
  Sp.get_set s.dieLost k v k'

@[simp] theorem Act.modRetries_apply (k : Nat) (v) (s : State) (k' : Nat) : ((Act.modRetries k v).apply s).modRetriesAt k' = if k' = k then v else s.modRetriesAt k' :=
  Sp.get_set s.modRetries k v k'

@[simp] theorem Act.dieDownAt_apply (v) (s : State) : ((Act.dieDownAt v).apply s).dieDownAt = v := rfl

@[simp] theorem Act.regs_apply (k : Nat) (v) (s : State) (k' : Nat) : ((Act.regs k v).apply s).regsAt k' = if k' = k then v else s.regsAt k' :=
  Sp.get_set s.regs k v k'

@[simp] theorem Act.units_apply (k : Nat) (v) (s : State) (k' : Nat) : ((Act.units k v).apply s).unitsAt k' = if k' = k then v else s.unitsAt k' :=
  Sp.get_set s.units k v k'

@[simp] theorem Act.before_apply (k : Nat) (v) (s : State) (k' : Nat) : ((Act.before k v).apply s).beforeAt k' = if k' = k then v else s.beforeAt k' :=
  Sp.get_set s.before k v k'

@[simp] theorem Act.frozen_apply (k : Nat) (v) (s : State) (k' : Nat) : ((Act.frozen k v).apply s).frozenAt k' = if k' = k then v else s.frozenAt k' :=
  Sp.get_set s.frozen k v k'

@[simp] theorem Act.hiLatch_apply (k : Nat) (v) (s : State) (k' : Nat) : ((Act.hiLatch k v).apply s).hiLatchAt k' = if k' = k then v else s.hiLatchAt k' :=
  Sp.get_set s.hiLatch k v k'

@[simp] theorem Act.loHeld_apply (k : Nat) (v) (s : State) (k' : Nat) : ((Act.loHeld k v).apply s).loHeldAt k' = if k' = k then v else s.loHeldAt k' :=
  Sp.get_set s.loHeld k v k'

@[simp] theorem Act.blkUp_apply (k : Nat) (v) (s : State) (k' : Nat) : ((Act.blkUp k v).apply s).blkUpAt k' = if k' = k then v else s.blkUpAt k' :=
  Sp.get_set s.blkUp k v k'

@[simp] theorem Act.tblWin_apply (k : Nat) (v) (s : State) (k' : Nat) : ((Act.tblWin k v).apply s).tblWinAt k' = if k' = k then v else s.tblWinAt k' :=
  Sp.get_set s.tblWin k v k'

@[simp] theorem Act.tblOp_apply (k : Nat) (v) (s : State) (k' : Nat) : ((Act.tblOp k v).apply s).tblOpAt k' = if k' = k then v else s.tblOpAt k' :=
  Sp.get_set s.tblOp k v k'

@[simp] theorem Act.commitLate_apply (k : Nat) (v) (s : State) (k' : Nat) : ((Act.commitLate k v).apply s).commitLateAt k' = if k' = k then v else s.commitLateAt k' :=
  Sp.get_set s.commitLate k v k'

@[simp] theorem Act.tables_apply (k : Nat) (v) (s : State) (k' : Nat) : ((Act.tables k v).apply s).tablesAt k' = if k' = k then v else s.tablesAt k' :=
  Sp.get_set s.tables k v k'

@[simp] theorem Act.startVal_apply (k : Nat) (v) (s : State) (k' : Nat) : ((Act.startVal k v).apply s).startValAt k' = if k' = k then v else s.startValAt k' :=
  Sp.get_set s.startVal k v k'

@[simp] theorem Act.dirty_apply (k : Nat) (v) (s : State) (k' : Nat) : ((Act.dirty k v).apply s).dirtyAt k' = if k' = k then v else s.dirtyAt k' :=
  Sp.get_set s.dirty k v k'

@[simp] theorem Act.pauseUntil_apply (k : Nat) (v) (s : State) (k' : Nat) : ((Act.pauseUntil k v).apply s).pauseUntilAt k' = if k' = k then v else s.pauseUntilAt k' :=
  Sp.get_set s.pauseUntil k v k'

@[simp] theorem Act.pauseSentAt_apply (k : Nat) (v) (s : State) (k' : Nat) : ((Act.pauseSentAt k v).apply s).pauseSentAtAt k' = if k' = k then v else s.pauseSentAtAt k' :=
  Sp.get_set s.pauseSentAt k v k'

@[simp] theorem Act.pauseQ_apply (k : Nat) (v) (s : State) (k' : Nat) : ((Act.pauseQ k v).apply s).pauseQAt k' = if k' = k then v else s.pauseQAt k' :=
  Sp.get_set s.pauseQ k v k'

@[simp] theorem Act.macSignal_apply (k : Nat) (v) (s : State) (k' : Nat) : ((Act.macSignal k v).apply s).macSignalAt k' = if k' = k then v else s.macSignalAt k' :=
  Sp.get_set s.macSignal k v k'

@[simp] theorem Act.rpfTx_apply (k : Nat) (v) (s : State) (k' : Nat) : ((Act.rpfTx k v).apply s).rpfTxAt k' = if k' = k then v else s.rpfTxAt k' :=
  Sp.get_set s.rpfTx k v k'

@[simp] theorem Act.ohCrcBad_apply (k : Nat) (v) (s : State) (k' : Nat) : ((Act.ohCrcBad k v).apply s).ohCrcBadAt k' = if k' = k then v else s.ohCrcBadAt k' :=
  Sp.get_set s.ohCrcBad k v k'

@[simp] theorem Act.xcRefill_apply (k : Nat) (v) (s : State) (k' : Nat) : ((Act.xcRefill k v).apply s).xcRefillAt k' = if k' = k then v else s.xcRefillAt k' :=
  Sp.get_set s.xcRefill k v k'

@[simp] theorem Act.flxHeld_apply (k : Nat) (v) (s : State) (k' : Nat) : ((Act.flxHeld k v).apply s).flxHeldAt k' = if k' = k then v else s.flxHeldAt k' :=
  Sp.get_set s.flxHeld k v k'

@[simp] theorem Act.instX_apply (k : Nat) (v) (s : State) (k' : Nat) : ((Act.instX k v).apply s).instXAt k' = if k' = k then v else s.instXAt k' :=
  Sp.get_set s.instX k v k'

@[simp] theorem Act.xcAdapt_apply (k : Nat) (v) (s : State) (k' : Nat) : ((Act.xcAdapt k v).apply s).xcAdaptAt k' = if k' = k then v else s.xcAdaptAt k' :=
  Sp.get_set s.xcAdapt k v k'

@[simp] theorem Act.clientFeed_apply (k : Nat) (v) (s : State) (k' : Nat) : ((Act.clientFeed k v).apply s).clientFeedAt k' = if k' = k then v else s.clientFeedAt k' :=
  Sp.get_set s.clientFeed k v k'

@[simp] theorem Act.flxEx_apply (k : Nat) (v) (s : State) (k' : Nat) : ((Act.flxEx k v).apply s).flxExAt k' = if k' = k then v else s.flxExAt k' :=
  Sp.get_set s.flxEx k v k'

@[simp] theorem Act.xcArm_apply (v) (s : State) : ((Act.xcArm v).apply s).xcArm = v := rfl

@[simp] theorem Act.xcCopyAt_apply (v) (s : State) : ((Act.xcCopyAt v).apply s).xcCopyAt = v := rfl

@[simp] theorem Act.pmX_apply (k : Nat) (v) (s : State) (k' : Nat) : ((Act.pmX k v).apply s).pmXAt k' = if k' = k then v else s.pmXAt k' :=
  Sp.get_set s.pmX k v k'

@[simp] theorem Act.tcamLoad_apply (k : Nat) (v) (s : State) (k' : Nat) : ((Act.tcamLoad k v).apply s).tcamLoadAt k' = if k' = k then v else s.tcamLoadAt k' :=
  Sp.get_set s.tcamLoad k v k'

@[simp] theorem Act.tcamMiss_apply (k : Nat) (v) (s : State) (k' : Nat) : ((Act.tcamMiss k v).apply s).tcamMissAt k' = if k' = k then v else s.tcamMissAt k' :=
  Sp.get_set s.tcamMiss k v k'

@[simp] theorem Act.tcFlip_apply (k : Nat) (v) (s : State) (k' : Nat) : ((Act.tcFlip k v).apply s).tcFlipAt k' = if k' = k then v else s.tcFlipAt k' :=
  Sp.get_set s.tcFlip k v k'

@[simp] theorem Act.scrubRow_apply (v) (s : State) : ((Act.scrubRow v).apply s).scrubRow = v := rfl

@[simp] theorem Act.scrubAt_apply (v) (s : State) : ((Act.scrubAt v).apply s).scrubAt = v := rfl

@[simp] theorem Act.lpmKeys_apply (k : Nat) (v) (s : State) (k' : Nat) : ((Act.lpmKeys k v).apply s).lpmKeysAt k' = if k' = k then v else s.lpmKeysAt k' :=
  Sp.get_set s.lpmKeys k v k'

@[simp] theorem Act.lpmBuild_apply (k : Nat) (v) (s : State) (k' : Nat) : ((Act.lpmBuild k v).apply s).lpmBuildAt k' = if k' = k then v else s.lpmBuildAt k' :=
  Sp.get_set s.lpmBuild k v k'

@[simp] theorem Act.lpmDels_apply (k : Nat) (v) (s : State) (k' : Nat) : ((Act.lpmDels k v).apply s).lpmDelsAt k' = if k' = k then v else s.lpmDelsAt k' :=
  Sp.get_set s.lpmDels k v k'

@[simp] theorem Act.learnQ_apply (k : Nat) (v) (s : State) (k' : Nat) : ((Act.learnQ k v).apply s).learnQAt k' = if k' = k then v else s.learnQAt k' :=
  Sp.get_set s.learnQ k v k'

@[simp] theorem Act.sweepPos_apply (v) (s : State) : ((Act.sweepPos v).apply s).sweepPos = v := rfl

@[simp] theorem Act.sweepAt_apply (v) (s : State) : ((Act.sweepAt v).apply s).sweepAt = v := rfl

@[simp] theorem Act.l2bNtf_apply (v) (s : State) : ((Act.l2bNtf v).apply s).l2bNtf = v.take 4096 := rfl

@[simp] theorem Act.rxCut_apply (k : Nat) (v) (s : State) (k' : Nat) : ((Act.rxCut k v).apply s).rxCutAt k' = if k' = k then v else s.rxCutAt k' :=
  Sp.get_set s.rxCut k v k'

@[simp] theorem Act.bodies_apply (k : Nat) (v) (s : State) (k' : Nat) : ((Act.bodies k v).apply s).bodiesAt k' = if k' = k then v else s.bodiesAt k' :=
  Sp.get_set s.bodies k v k'

@[simp] theorem Act.bodyNext_apply (v) (s : State) : ((Act.bodyNext v).apply s).bodyNext = v := rfl

@[simp] theorem Act.rxNow_apply (k : Nat) (v) (s : State) (k' : Nat) : ((Act.rxNow k v).apply s).rxNowAt k' = if k' = k then v else s.rxNowAt k' :=
  Sp.get_set s.rxNow k v k'

@[simp] theorem Act.rxFifo_apply (k : Nat) (v) (s : State) (k' : Nat) : ((Act.rxFifo k v).apply s).rxFifoAt k' = if k' = k then v else s.rxFifoAt k' :=
  Sp.get_set s.rxFifo k v k'

@[simp] theorem Act.rxXoff_apply (k : Nat) (v) (s : State) (k' : Nat) : ((Act.rxXoff k v).apply s).rxXoffAt k' = if k' = k then v else s.rxXoffAt k' :=
  Sp.get_set s.rxXoff k v k'

@[simp] theorem Act.inQ_apply (k : Nat) (v) (s : State) (k' : Nat) : ((Act.inQ k v).apply s).inQAt k' = if k' = k then v else s.inQAt k' :=
  Sp.get_set s.inQ k v k'

@[simp] theorem Act.recQ_apply (k : Nat) (v) (s : State) (k' : Nat) : ((Act.recQ k v).apply s).recQAt k' = if k' = k then v else s.recQAt k' :=
  Sp.get_set s.recQ k v k'

@[simp] theorem Act.slotX_apply (k : Nat) (v) (s : State) (k' : Nat) : ((Act.slotX k v).apply s).slotXAt k' = if k' = k then v else s.slotXAt k' :=
  Sp.get_set s.slotX k v k'

@[simp] theorem Act.upQ_apply (k : Nat) (v) (s : State) (k' : Nat) : ((Act.upQ k v).apply s).upQAt k' = if k' = k then v else s.upQAt k' :=
  Sp.get_set s.upQ k v k'

@[simp] theorem Act.egQ_apply (k : Nat) (v) (s : State) (k' : Nat) : ((Act.egQ k v).apply s).egQAt k' = if k' = k then v else s.egQAt k' :=
  Sp.get_set s.egQ k v k'

@[simp] theorem Act.txGive_apply (k : Nat) (v) (s : State) (k' : Nat) : ((Act.txGive k v).apply s).txGiveAt k' = if k' = k then v else s.txGiveAt k' :=
  Sp.get_set s.txGive k v k'

@[simp] theorem Act.txExp_apply (k : Nat) (v) (s : State) (k' : Nat) : ((Act.txExp k v).apply s).txExpAt k' = if k' = k then v else s.txExpAt k' :=
  Sp.get_set s.txExp k v k'

@[simp] theorem Act.txHold_apply (k : Nat) (v) (s : State) (k' : Nat) : ((Act.txHold k v).apply s).txHoldAt k' = if k' = k then v else s.txHoldAt k' :=
  Sp.get_set s.txHold k v k'

@[simp] theorem Act.macQ_apply (k : Nat) (v) (s : State) (k' : Nat) : ((Act.macQ k v).apply s).macQAt k' = if k' = k then v else s.macQAt k' :=
  Sp.get_set s.macQ k v k'

@[simp] theorem Act.txNow_apply (k : Nat) (v) (s : State) (k' : Nat) : ((Act.txNow k v).apply s).txNowAt k' = if k' = k then v else s.txNowAt k' :=
  Sp.get_set s.txNow k v k'

@[simp] theorem Act.bucketPend_apply (k : Nat) (v) (s : State) (k' : Nat) : ((Act.bucketPend k v).apply s).bucketPendAt k' = if k' = k then v else s.bucketPendAt k' :=
  Sp.get_set s.bucketPend k v k'

@[simp] theorem Act.rebalAt_apply (v) (s : State) : ((Act.rebalAt v).apply s).rebalAt = v := rfl

@[simp] theorem Act.bucketLoad_apply (k : Nat) (v) (s : State) (k' : Nat) : ((Act.bucketLoad k v).apply s).bucketLoadAt k' = if k' = k then v else s.bucketLoadAt k' :=
  Sp.get_set s.bucketLoad k v k'

@[simp] theorem Act.smpSel_apply (k : Nat) (v) (s : State) (k' : Nat) : ((Act.smpSel k v).apply s).smpSelAt k' = if k' = k then v else s.smpSelAt k' :=
  Sp.get_set s.smpSel k v k'

@[simp] theorem Act.smpSeq_apply (k : Nat) (v) (s : State) (k' : Nat) : ((Act.smpSeq k v).apply s).smpSeqAt k' = if k' = k then v else s.smpSeqAt k' :=
  Sp.get_set s.smpSeq k v k'

@[simp] theorem Act.smpMs_apply (k : Nat) (v) (s : State) (k' : Nat) : ((Act.smpMs k v).apply s).smpMsAt k' = if k' = k then v else s.smpMsAt k' :=
  Sp.get_set s.smpMs k v k'

@[simp] theorem Act.xoff_apply (k : Nat) (v) (s : State) (k' : Nat) : ((Act.xoff k v).apply s).xoffAt k' = if k' = k then v else s.xoffAt k' :=
  Sp.get_set s.xoff k v k'

@[simp] theorem Act.stg_apply (k : Nat) (v) (s : State) (k' : Nat) : ((Act.stg k v).apply s).stgAt k' = if k' = k then v else s.stgAt k' :=
  Sp.get_set s.stg k v k'

@[simp] theorem Act.stgUse_apply (k : Nat) (v) (s : State) (k' : Nat) : ((Act.stgUse k v).apply s).stgUseAt k' = if k' = k then v else s.stgUseAt k' :=
  Sp.get_set s.stgUse k v k'

@[simp] theorem Act.stgGlobal_apply (v) (s : State) : ((Act.stgGlobal v).apply s).stgGlobal = v := rfl

@[simp] theorem Act.qx_apply (k : Nat) (v) (s : State) (k' : Nat) : ((Act.qx k v).apply s).qxAt k' = if k' = k then v else s.qxAt k' :=
  Sp.get_set s.qx k v k'

@[simp] theorem Act.poolUse_apply (k : Nat) (v) (s : State) (k' : Nat) : ((Act.poolUse k v).apply s).poolUseAt k' = if k' = k then v else s.poolUseAt k' :=
  Sp.get_set s.poolUse k v k'

@[simp] theorem Act.reqUse_apply (k : Nat) (v) (s : State) (k' : Nat) : ((Act.reqUse k v).apply s).reqUseAt k' = if k' = k then v else s.reqUseAt k' :=
  Sp.get_set s.reqUse k v k'

@[simp] theorem Act.reqResv_apply (k : Nat) (v) (s : State) (k' : Nat) : ((Act.reqResv k v).apply s).reqResvAt k' = if k' = k then v else s.reqResvAt k' :=
  Sp.get_set s.reqResv k v k'

@[simp] theorem Act.tagNext_apply (v) (s : State) : ((Act.tagNext v).apply s).tagNext = v := rfl

@[simp] theorem Act.twins_apply (v) (s : State) : ((Act.twins v).apply s).twins = v := rfl

@[simp] theorem Act.segNext_apply (v) (s : State) : ((Act.segNext v).apply s).segNext = v := rfl

@[simp] theorem Act.bufs_apply (k : Nat) (v) (s : State) (k' : Nat) : ((Act.bufs k v).apply s).bufsAt k' = if k' = k then v else s.bufsAt k' :=
  Sp.get_set s.bufs k v k'

@[simp] theorem Act.bufNext_apply (v) (s : State) : ((Act.bufNext v).apply s).bufNext = v := rfl

@[simp] theorem Act.stgXoff_apply (k : Nat) (v) (s : State) (k' : Nat) : ((Act.stgXoff k v).apply s).stgXoffAt k' = if k' = k then v else s.stgXoffAt k' :=
  Sp.get_set s.stgXoff k v k'

@[simp] theorem Act.tier2On_apply (v) (s : State) : ((Act.tier2On v).apply s).tier2On = v := rfl

@[simp] theorem Act.tier2Rebuild_apply (v) (s : State) : ((Act.tier2Rebuild v).apply s).tier2Rebuild = v := rfl

@[simp] theorem Act.freeAges_apply (v) (s : State) : ((Act.freeAges v).apply s).freeAges = v := rfl

@[simp] theorem Act.hbmIn_apply (v) (s : State) : ((Act.hbmIn v).apply s).hbmIn = v := rfl

@[simp] theorem Act.hbmOut_apply (v) (s : State) : ((Act.hbmOut v).apply s).hbmOut = v := rfl

@[simp] theorem Act.grnIn_apply (v) (s : State) : ((Act.grnIn v).apply s).grnIn = v := rfl

@[simp] theorem Act.grnOut_apply (v) (s : State) : ((Act.grnOut v).apply s).grnOut = v := rfl

@[simp] theorem Act.grnDemand_apply (v) (s : State) : ((Act.grnDemand v).apply s).grnDemand = v := rfl

@[simp] theorem Act.stgDrops_apply (k : Nat) (v) (s : State) (k' : Nat) : ((Act.stgDrops k v).apply s).stgDropsAt k' = if k' = k then v else s.stgDropsAt k' :=
  Sp.get_set s.stgDrops k v k'

@[simp] theorem Act.starves_apply (v) (s : State) : ((Act.starves v).apply s).starves = v := rfl

@[simp] theorem Act.polX_apply (k : Nat) (v) (s : State) (k' : Nat) : ((Act.polX k v).apply s).polXAt k' = if k' = k then v else s.polXAt k' :=
  Sp.get_set s.polX k v k'

@[simp] theorem Act.shpX_apply (k : Nat) (v) (s : State) (k' : Nat) : ((Act.shpX k v).apply s).shpXAt k' = if k' = k then v else s.shpXAt k' :=
  Sp.get_set s.shpX k v k'

@[simp] theorem Act.shpBase_apply (v) (s : State) : ((Act.shpBase v).apply s).shpBase = v := rfl

@[simp] theorem Act.mill_apply (k : Nat) (v) (s : State) (k' : Nat) : ((Act.mill k v).apply s).millAt k' = if k' = k then v else s.millAt k' :=
  Sp.get_set s.mill k v k'

@[simp] theorem Act.millAll_apply (v) (s : State) : ((Act.millAll v).apply s).millAll = v := rfl

@[simp] theorem Act.flushing_apply (v) (s : State) : ((Act.flushing v).apply s).flushing = v := rfl

@[simp] theorem Act.rptX_apply (v) (s : State) : ((Act.rptX v).apply s).rptX = v := rfl

@[simp] theorem Act.gateX_apply (k : Nat) (v) (s : State) (k' : Nat) : ((Act.gateX k v).apply s).gateXAt k' = if k' = k then v else s.gateXAt k' :=
  Sp.get_set s.gateX k v k'

@[simp] theorem Act.linkX_apply (k : Nat) (v) (s : State) (k' : Nat) : ((Act.linkX k v).apply s).linkXAt k' = if k' = k then v else s.linkXAt k' :=
  Sp.get_set s.linkX k v k'

@[simp] theorem Act.unreachAt_apply (k : Nat) (v) (s : State) (k' : Nat) : ((Act.unreachAt k v).apply s).unreachAtAt k' = if k' = k then v else s.unreachAtAt k' :=
  Sp.get_set s.unreachAt k v k'

@[simp] theorem Act.dupIdAt_apply (v) (s : State) : ((Act.dupIdAt v).apply s).dupIdAt = v := rfl

@[simp] theorem Act.stgMc_apply (v) (s : State) : ((Act.stgMc v).apply s).stgMc = v := rfl

@[simp] theorem Act.reqs_apply (k : Nat) (v) (s : State) (k' : Nat) : ((Act.reqs k v).apply s).reqsAt k' = if k' = k then v else s.reqsAt k' :=
  Sp.get_set s.reqs k v k'

@[simp] theorem Act.reqNext_apply (k : Nat) (v) (s : State) (k' : Nat) : ((Act.reqNext k v).apply s).reqNextAt k' = if k' = k then v else s.reqNextAt k' :=
  Sp.get_set s.reqNext k v k'

@[simp] theorem Act.recs_apply (k : Nat) (v) (s : State) (k' : Nat) : ((Act.recs k v).apply s).recsAt k' = if k' = k then v else s.recsAt k' :=
  Sp.get_set s.recs k v k'

@[simp] theorem Act.srcEpoch_apply (k : Nat) (v) (s : State) (k' : Nat) : ((Act.srcEpoch k v).apply s).srcEpochAt k' = if k' = k then v else s.srcEpochAt k' :=
  Sp.get_set s.srcEpoch k v k'

@[simp] theorem Act.xbWait_apply (v) (s : State) : ((Act.xbWait v).apply s).xbWait = v := rfl

@[simp] theorem Act.xbT_apply (v) (s : State) : ((Act.xbT v).apply s).xbT = v := rfl

@[simp] theorem Act.xbGrant_apply (v) (s : State) : ((Act.xbGrant v).apply s).xbGrant = v := rfl

@[simp] theorem Act.xbAccept_apply (v) (s : State) : ((Act.xbAccept v).apply s).xbAccept = v := rfl

@[simp] theorem Act.privUse_apply (k : Nat) (v) (s : State) (k' : Nat) : ((Act.privUse k v).apply s).privUseAt k' = if k' = k then v else s.privUseAt k' :=
  Sp.get_set s.privUse k v k'

@[simp] theorem Act.privWait_apply (k : Nat) (v) (s : State) (k' : Nat) : ((Act.privWait k v).apply s).privWaitAt k' = if k' = k then v else s.privWaitAt k' :=
  Sp.get_set s.privWait k v k'

@[simp] theorem Act.slotTx_apply (k : Nat) (v) (s : State) (k' : Nat) : ((Act.slotTx k v).apply s).slotTxAt k' = if k' = k then v else s.slotTxAt k' :=
  Sp.get_set s.slotTx k v k'

@[simp] theorem Act.cellSeq_apply (k : Nat) (v) (s : State) (k' : Nat) : ((Act.cellSeq k v).apply s).cellSeqAt k' = if k' = k then v else s.cellSeqAt k' :=
  Sp.get_set s.cellSeq k v k'

@[simp] theorem Act.sprayAt_apply (k : Nat) (v) (s : State) (k' : Nat) : ((Act.sprayAt k v).apply s).sprayAtAt k' = if k' = k then v else s.sprayAtAt k' :=
  Sp.get_set s.sprayAt k v k'

@[simp] theorem Act.cellOpen_apply (k : Nat) (v) (s : State) (k' : Nat) : ((Act.cellOpen k v).apply s).cellOpenAt k' = if k' = k then v else s.cellOpenAt k' :=
  Sp.get_set s.cellOpen k v k'

@[simp] theorem Act.rxStr_apply (k : Nat) (v) (s : State) (k' : Nat) : ((Act.rxStr k v).apply s).rxStrAt k' = if k' = k then v else s.rxStrAt k' :=
  Sp.get_set s.rxStr k v k'

@[simp] theorem Act.mcOut_apply (k : Nat) (v) (s : State) (k' : Nat) : ((Act.mcOut k v).apply s).mcOutAt k' = if k' = k then v else s.mcOutAt k' :=
  Sp.get_set s.mcOut k v k'

@[simp] theorem Act.mcOwed_apply (k : Nat) (v) (s : State) (k' : Nat) : ((Act.mcOwed k v).apply s).mcOwedAt k' = if k' = k then v else s.mcOwedAt k' :=
  Sp.get_set s.mcOwed k v k'

@[simp] theorem Act.slotBuf_apply (k : Nat) (v) (s : State) (k' : Nat) : ((Act.slotBuf k v).apply s).slotBufAt k' = if k' = k then v else s.slotBufAt k' :=
  Sp.get_set s.slotBuf k v k'

@[simp] theorem Act.slotPlay_apply (k : Nat) (v) (s : State) (k' : Nat) : ((Act.slotPlay k v).apply s).slotPlayAt k' = if k' = k then v else s.slotPlayAt k' :=
  Sp.get_set s.slotPlay k v k'

@[simp] theorem Act.xbMoved_apply (v) (s : State) : ((Act.xbMoved v).apply s).xbMoved = v := rfl

@[simp] theorem Act.xbPrivMoved_apply (v) (s : State) : ((Act.xbPrivMoved v).apply s).xbPrivMoved = v := rfl

@[simp] theorem Act.chanErrs_apply (k : Nat) (v) (s : State) (k' : Nat) : ((Act.chanErrs k v).apply s).chanErrsAt k' = if k' = k then v else s.chanErrsAt k' :=
  Sp.get_set s.chanErrs k v k'

@[simp] theorem Act.mcMade_apply (v) (s : State) : ((Act.mcMade v).apply s).mcMade = v := rfl

@[simp] theorem Act.normWait_apply (k : Nat) (v) (s : State) (k' : Nat) : ((Act.normWait k v).apply s).normWaitAt k' = if k' = k then v else s.normWaitAt k' :=
  Sp.get_set s.normWait k v k'

@[simp] theorem Act.normUse_apply (k : Nat) (v) (s : State) (k' : Nat) : ((Act.normUse k v).apply s).normUseAt k' = if k' = k then v else s.normUseAt k' :=
  Sp.get_set s.normUse k v k'

@[simp] theorem Act.memX_apply (k : Nat) (v) (s : State) (k' : Nat) : ((Act.memX k v).apply s).memXAt k' = if k' = k then v else s.memXAt k' :=
  Sp.get_set s.memX k v k'

@[simp] theorem Act.actTab_apply (k : Nat) (v) (s : State) (k' : Nat) : ((Act.actTab k v).apply s).actTabAt k' = if k' = k then v else s.actTabAt k' :=
  Sp.get_set s.actTab k v k'

@[simp] theorem Act.openRow_apply (k : Nat) (v) (s : State) (k' : Nat) : ((Act.openRow k v).apply s).openRowAt k' = if k' = k then v else s.openRowAt k' :=
  Sp.get_set s.openRow k v k'

@[simp] theorem Act.sruMask_apply (v) (s : State) : ((Act.sruMask v).apply s).sruMask = v := rfl

@[simp] theorem Act.actWait_apply (v) (s : State) : ((Act.actWait v).apply s).actWait = v := rfl

@[simp] theorem Act.actAt_apply (v) (s : State) : ((Act.actAt v).apply s).actAt = v := rfl

@[simp] theorem Act.time16_apply (v) (s : State) : ((Act.time16 v).apply s).time16 = v := rfl

@[simp] theorem Act.rateRem_apply (v) (s : State) : ((Act.rateRem v).apply s).rateRem = v := rfl

@[simp] theorem Act.slewRem_apply (v) (s : State) : ((Act.slewRem v).apply s).slewRem = v := rfl

@[simp] theorem Act.slewLeft_apply (v) (s : State) : ((Act.slewLeft v).apply s).slewLeft = v := rfl

@[simp] theorem Act.stepPend_apply (v) (s : State) : ((Act.stepPend v).apply s).stepPend = v := rfl

@[simp] theorem Act.stepAt_apply (v) (s : State) : ((Act.stepAt v).apply s).stepAt = v := rfl

@[simp] theorem Act.lockCount_apply (v) (s : State) : ((Act.lockCount v).apply s).lockCount = v := rfl

@[simp] theorem Act.ppsMissed_apply (v) (s : State) : ((Act.ppsMissed v).apply s).ppsMissed = v := rfl

@[simp] theorem Act.ppsLast_apply (v) (s : State) : ((Act.ppsLast v).apply s).ppsLast = v := rfl

@[simp] theorem Act.ppsGood_apply (v) (s : State) : ((Act.ppsGood v).apply s).ppsGood = v := rfl

@[simp] theorem Act.todSec_apply (v) (s : State) : ((Act.todSec v).apply s).todSec = v := rfl

@[simp] theorem Act.ppsOutSec_apply (v) (s : State) : ((Act.ppsOutSec v).apply s).ppsOutSec = v := rfl

@[simp] theorem Act.todTxSec_apply (v) (s : State) : ((Act.todTxSec v).apply s).todTxSec = v := rfl

@[simp] theorem Act.ppsHigh_apply (v) (s : State) : ((Act.ppsHigh v).apply s).ppsHigh = v := rfl

@[simp] theorem Act.ppsOutMono_apply (v) (s : State) : ((Act.ppsOutMono v).apply s).ppsOutMono = v := rfl

@[simp] theorem Act.freqLog_apply (v) (s : State) : ((Act.freqLog v).apply s).freqLog = v := rfl

@[simp] theorem Act.holdFreq_apply (v) (s : State) : ((Act.holdFreq v).apply s).holdFreq = v := rfl

@[simp] theorem Act.tsf_apply (v) (s : State) : ((Act.tsf v).apply s).tsf = v.take 4096 := rfl

@[simp] theorem Act.stepDelta_apply (v) (s : State) : ((Act.stepDelta v).apply s).stepDelta = v := rfl

@[simp] theorem Act.ptpSeq_apply (k : Nat) (v) (s : State) (k' : Nat) : ((Act.ptpSeq k v).apply s).ptpSeqAt k' = if k' = k then v else s.ptpSeqAt k' :=
  Sp.get_set s.ptpSeq k v k'

@[simp] theorem Act.bfdX_apply (k : Nat) (v) (s : State) (k' : Nat) : ((Act.bfdX k v).apply s).bfdXAt k' = if k' = k then v else s.bfdXAt k' :=
  Sp.get_set s.bfdX k v k'

@[simp] theorem Act.mepX_apply (k : Nat) (v) (s : State) (k' : Nat) : ((Act.mepX k v).apply s).mepXAt k' = if k' = k then v else s.mepXAt k' :=
  Sp.get_set s.mepX k v k'

@[simp] theorem Act.flowX_apply (k : Nat) (v) (s : State) (k' : Nat) : ((Act.flowX k v).apply s).flowXAt k' = if k' = k then v else s.flowXAt k' :=
  Sp.get_set s.flowX k v k'

@[simp] theorem Act.mergeX_apply (k : Nat) (v) (s : State) (k' : Nat) : ((Act.mergeX k v).apply s).mergeXAt k' = if k' = k then v else s.mergeXAt k' :=
  Sp.get_set s.mergeX k v k'

@[simp] theorem Act.recX_apply (k : Nat) (v) (s : State) (k' : Nat) : ((Act.recX k v).apply s).recXAt k' = if k' = k then v else s.recXAt k' :=
  Sp.get_set s.recX k v k'

@[simp] theorem Act.svcRx_apply (v) (s : State) : ((Act.svcRx v).apply s).svcRx = v := rfl

@[simp] theorem Act.mergeQ_apply (v) (s : State) : ((Act.mergeQ v).apply s).mergeQ = v := rfl

@[simp] theorem Act.svcQ_apply (k : Nat) (v) (s : State) (k' : Nat) : ((Act.svcQ k v).apply s).svcQAt k' = if k' = k then v else s.svcQAt k' :=
  Sp.get_set s.svcQ k v k'

@[simp] theorem Act.svcNtf_apply (v) (s : State) : ((Act.svcNtf v).apply s).svcNtf = v.take 4096 := rfl

@[simp] theorem Act.pcieFn_apply (k : Nat) (v) (s : State) (k' : Nat) : ((Act.pcieFn k v).apply s).pcieFnAt k' = if k' = k then v else s.pcieFnAt k' :=
  Sp.get_set s.pcieFn k v k'

@[simp] theorem Act.msix_apply (k : Nat) (v) (s : State) (k' : Nat) : ((Act.msix k v).apply s).msixAt k' = if k' = k then v else s.msixAt k' :=
  Sp.get_set s.msix k v k'

@[simp] theorem Act.inta_apply (v) (s : State) : ((Act.inta v).apply s).inta = v := rfl

@[simp] theorem Act.irqSince_apply (v) (s : State) : ((Act.irqSince v).apply s).irqSince = v := rfl

@[simp] theorem Act.qpx_apply (k : Nat) (v) (s : State) (k' : Nat) : ((Act.qpx k v).apply s).qpxAt k' = if k' = k then v else s.qpxAt k' :=
  Sp.get_set s.qpx k v k'

@[simp] theorem Act.perstLow_apply (v) (s : State) : ((Act.perstLow v).apply s).perstLow = v := rfl

@[simp] theorem Act.hostQ_apply (k : Nat) (v) (s : State) (k' : Nat) : ((Act.hostQ k v).apply s).hostQAt k' = if k' = k then v else s.hostQAt k' :=
  Sp.get_set s.hostQ k v k'

@[simp] theorem Act.vinst_apply (k : Nat) (v) (s : State) (k' : Nat) : ((Act.vinst k v).apply s).vinstAt k' = if k' = k then v else s.vinstAt k' :=
  Sp.get_set s.vinst k v k'

@[simp] theorem Act.txRot_apply (v) (s : State) : ((Act.txRot v).apply s).txRot = v := rfl

@[simp] theorem Act.stgResv_apply (v) (s : State) : ((Act.stgResv v).apply s).stgResv = v := rfl

@[simp] theorem Act.lookAt_apply (v) (s : State) : ((Act.lookAt v).apply s).lookAt = v := rfl

@[simp] theorem Act.l1At_apply (v) (s : State) : ((Act.l1At v).apply s).l1At = v := rfl

@[simp] theorem Act.bufBad_apply (v) (s : State) : ((Act.bufBad v).apply s).bufBad = v := rfl

@[simp] theorem Act.wdogTimes_apply (v) (s : State) : ((Act.wdogTimes v).apply s).wdogTimes = v := rfl

@[simp] theorem Act.cageX_apply (k : Nat) (v) (s : State) (k' : Nat) : ((Act.cageX k v).apply s).cageXAt k' = if k' = k then v else s.cageXAt k' :=
  Sp.get_set s.cageX k v k'

@[simp] theorem Act.resetLow_apply (v) (s : State) : ((Act.resetLow v).apply s).resetLow = v := rfl

@[simp] theorem Act.slotPins_apply (v) (s : State) : ((Act.slotPins v).apply s).slotPins = v := rfl

@[simp] theorem Act.latchDue_apply (v) (s : State) : ((Act.latchDue v).apply s).latchDue = v := rfl

@[simp] theorem Act.refclk_apply (v) (s : State) : ((Act.refclk v).apply s).refclk = v := rfl

@[simp] theorem Act.coldT0_apply (v) (s : State) : ((Act.coldT0 v).apply s).coldT0 = v := rfl

@[simp] theorem Act.bootAt_apply (v) (s : State) : ((Act.bootAt v).apply s).bootAt = v := rfl

@[simp] theorem Act.stopped_apply (v) (s : State) : ((Act.stopped v).apply s).stopped = v := rfl

@[simp] theorem Act.poisoned_apply (k : Nat) (v) (s : State) (k' : Nat) : ((Act.poisoned k v).apply s).poisonedAt k' = if k' = k then v else s.poisonedAt k' :=
  Sp.get_set s.poisoned k v k'

@[simp] theorem Act.pegStore_apply (v) (s : State) : ((Act.pegStore v).apply s).pegStore = v := rfl

@[simp] theorem Act.declared_apply (v) (s : State) : ((Act.declared v).apply s).declared = v := rfl

@[simp] theorem Act.rprEvt_apply (v) (s : State) : ((Act.rprEvt v).apply s).rprEvt = v.take 1024 := rfl

@[simp] theorem Act.gens_apply (k : Nat) (v) (s : State) (k' : Nat) : ((Act.gens k v).apply s).gensAt k' = if k' = k then v else s.gensAt k' :=
  Sp.get_set s.gens k v k'

@[simp] theorem Act.genEpoch_apply (k : Nat) (v) (s : State) (k' : Nat) : ((Act.genEpoch k v).apply s).genEpochAt k' = if k' = k then v else s.genEpochAt k' :=
  Sp.get_set s.genEpoch k v k'

@[simp] theorem Act.unitX_apply (k : Nat) (v) (s : State) (k' : Nat) : ((Act.unitX k v).apply s).unitXAt k' = if k' = k then v else s.unitXAt k' :=
  Sp.get_set s.unitX k v k'

@[simp] theorem Act.recov_apply (k : Nat) (v) (s : State) (k' : Nat) : ((Act.recov k v).apply s).recovAt k' = if k' = k then v else s.recovAt k' :=
  Sp.get_set s.recov k v k'

@[simp] theorem Act.rotLast_apply (v) (s : State) : ((Act.rotLast v).apply s).rotLast = v := rfl

@[simp] theorem Act.rotAt_apply (v) (s : State) : ((Act.rotAt v).apply s).rotAt = v := rfl

@[simp] theorem Act.rotClassAt_apply (v) (s : State) : ((Act.rotClassAt v).apply s).rotClassAt = v := rfl

@[simp] theorem Act.modRetry_apply (k : Nat) (v) (s : State) (k' : Nat) : ((Act.modRetry k v).apply s).modRetryAt k' = if k' = k then v else s.modRetryAt k' :=
  Sp.get_set s.modRetry k v k'

@[simp] theorem Act.scarf_apply (k : Nat) (v) (s : State) (k' : Nat) : ((Act.scarf k v).apply s).scarfAt k' = if k' = k then v else s.scarfAt k' :=
  Sp.get_set s.scarf k v k'

@[simp] theorem Act.pegs_apply (v) (s : State) : ((Act.pegs v).apply s).pegs = v := rfl

@[simp] theorem Act.pegDue_apply (v) (s : State) : ((Act.pegDue v).apply s).pegDue = v := rfl

@[simp] theorem Act.cryQueue_apply (k : Nat) (v) (s : State) (k' : Nat) : ((Act.cryQueue k v).apply s).cryQueueAt k' = if k' = k then v else s.cryQueueAt k' :=
  Sp.get_set s.cryQueue k v k'

@[simp] theorem Act.cryPend_apply (k : Nat) (v) (s : State) (k' : Nat) : ((Act.cryPend k v).apply s).cryPendAt k' = if k' = k then v else s.cryPendAt k' :=
  Sp.get_set s.cryPend k v k'

@[simp] theorem Act.cryLog_apply (v) (s : State) : ((Act.cryLog v).apply s).cryLog = v.take 4096 := rfl

@[simp] theorem Act.firstWin_apply (v) (s : State) : ((Act.firstWin v).apply s).firstWin = v := rfl

@[simp] theorem Act.firstEnd_apply (v) (s : State) : ((Act.firstEnd v).apply s).firstEnd = v := rfl

@[simp] theorem Act.fatalLatch_apply (s : State) : (Act.fatalLatch.apply s).fatalLatch = true := rfl

@[simp] theorem Act.fatalQ_apply (v) (s : State) : ((Act.fatalQ v).apply s).fatalQ = v := rfl

@[simp] theorem Act.openPage_apply (k : Nat) (v) (s : State) (k' : Nat) : ((Act.openPage k v).apply s).openPageAt k' = if k' = k then v else s.openPageAt k' :=
  Sp.get_set s.openPage k v k'

@[simp] theorem Act.grnBy_apply (v) (s : State) : ((Act.grnBy v).apply s).grnBy = v := rfl

@[simp] theorem Act.counters_apply (k : Nat) (v) (s : State) (k' : Nat) : ((Act.counters k v).apply s).countersAt k' = if k' = k then v else s.countersAt k' :=
  Sp.get_set s.counters k v k'

@[simp] theorem Act.snapSaved_apply (k : Nat) (v) (s : State) (k' : Nat) : ((Act.snapSaved k v).apply s).snapSavedAt k' = if k' = k then v else s.snapSavedAt k' :=
  Sp.get_set s.snapSaved k v k'

@[simp] theorem Act.snap_apply (v) (s : State) : ((Act.snap v).apply s).snap = v := rfl

@[simp] theorem Act.snapAt_apply (v) (s : State) : ((Act.snapAt v).apply s).snapAt = v := rfl

@[simp] theorem Act.dumpCount_apply (v) (s : State) : ((Act.dumpCount v).apply s).dumpCount = v := rfl

@[simp] theorem Act.dumpMemErrs_apply (v) (s : State) : ((Act.dumpMemErrs v).apply s).dumpMemErrs = v := rfl

@[simp] theorem Act.traceBuf_apply (v) (s : State) : ((Act.traceBuf v).apply s).traceBuf = v.take 2048 := rfl

@[simp] theorem Act.trcPhase_apply (v) (s : State) : ((Act.trcPhase v).apply s).trcPhase = v := rfl

@[simp] theorem Act.trcMs_apply (v) (s : State) : ((Act.trcMs v).apply s).trcMs = v := rfl

@[simp] theorem Act.trcCount_apply (v) (s : State) : ((Act.trcCount v).apply s).trcCount = v := rfl

@[simp] theorem Act.ctl_apply (v) (s : State) : ((Act.ctl v).apply s).ctl = v := rfl

@[simp] theorem Act.imgUnit_apply (k : Nat) (v) (s : State) (k' : Nat) : ((Act.imgUnit k v).apply s).imgUnitAt k' = if k' = k then v else s.imgUnitAt k' :=
  Sp.get_set s.imgUnit k v k'

@[simp] theorem Act.snapSlot_apply (k : Nat) (v) (s : State) (k' : Nat) : ((Act.snapSlot k v).apply s).snapSlotAt k' = if k' = k then v else s.snapSlotAt k' :=
  Sp.get_set s.snapSlot k v k'

@[simp] theorem Act.storeQ_apply (v) (s : State) : ((Act.storeQ v).apply s).storeQ = v := rfl

@[simp] theorem Act.storeBusy_apply (v) (s : State) : ((Act.storeBusy v).apply s).storeBusy = v := rfl

@[simp] theorem Act.erases_apply (k : Nat) (v) (s : State) (k' : Nat) : ((Act.erases k v).apply s).erasesAt k' = if k' = k then v else s.erasesAt k' :=
  Sp.get_set s.erases k v k'

@[simp] theorem Act.copyArea_apply (k : Nat) (v) (s : State) (k' : Nat) : ((Act.copyArea k v).apply s).copyAreaAt k' = if k' = k then v else s.copyAreaAt k' :=
  Sp.get_set s.copyArea k v k'

@[simp] theorem Act.updSlot_apply (v) (s : State) : ((Act.updSlot v).apply s).updSlot = v := rfl

@[simp] theorem Act.updOp_apply (v) (s : State) : ((Act.updOp v).apply s).updOp = v := rfl

@[simp] theorem Act.confirmEnd_apply (v) (s : State) : ((Act.confirmEnd v).apply s).confirmEnd = v := rfl

@[simp] theorem Act.roll_apply (v) (s : State) : ((Act.roll v).apply s).roll = v := rfl

@[simp] theorem Act.coreTag_apply (k : Nat) (v) (s : State) (k' : Nat) : ((Act.coreTag k v).apply s).coreTagAt k' = if k' = k then v else s.coreTagAt k' :=
  Sp.get_set s.coreTag k v k'

@[simp] theorem Act.jnlSeq_apply (v) (s : State) : ((Act.jnlSeq v).apply s).jnlSeq = v := rfl

@[simp] theorem Act.jnlPre_apply (v) (s : State) : ((Act.jnlPre v).apply s).jnlPre = v.take 65536 := rfl

@[simp] theorem Act.jnlRecent_apply (k : Nat) (v) (s : State) (k' : Nat) : ((Act.jnlRecent k v).apply s).jnlRecentAt k' = if k' = k then v else s.jnlRecentAt k' :=
  Sp.get_set s.jnlRecent k v k'

@[simp] theorem Act.jnlPersist_apply (v) (s : State) : ((Act.jnlPersist v).apply s).jnlPersist = v.take 61440 := rfl

@[simp] theorem Act.jnlBacklog_apply (v) (s : State) : ((Act.jnlBacklog v).apply s).jnlBacklog = v.take 8388608 := rfl

@[simp] theorem Act.jnlNext_apply (v) (s : State) : ((Act.jnlNext v).apply s).jnlNext = v := rfl

@[simp] theorem Act.jnlPhase_apply (v) (s : State) : ((Act.jnlPhase v).apply s).jnlPhase = v := rfl

@[simp] theorem Act.jnlUnits_apply (k : Nat) (v) (s : State) (k' : Nat) : ((Act.jnlUnits k v).apply s).jnlUnitsAt k' = if k' = k then v else s.jnlUnitsAt k' :=
  Sp.get_set s.jnlUnits k v k'

@[simp] theorem Act.jnlUnit_apply (v) (s : State) : ((Act.jnlUnit v).apply s).jnlUnit = v := rfl

@[simp] theorem Act.jnlWriting_apply (v) (s : State) : ((Act.jnlWriting v).apply s).jnlWriting = v := rfl

@[simp] theorem Act.jnlHeld_apply (v) (s : State) : ((Act.jnlHeld v).apply s).jnlHeld = v := rfl

@[simp] theorem Act.rtcNs_apply (v) (s : State) : ((Act.rtcNs v).apply s).rtcNs = v := rfl

@[simp] theorem Act.winEnd_apply (v) (s : State) : ((Act.winEnd v).apply s).winEnd = v := rfl

@[simp] theorem Act.sealFails_apply (v) (s : State) : ((Act.sealFails v).apply s).sealFails = v := rfl

@[simp] theorem Act.sealPasses_apply (v) (s : State) : ((Act.sealPasses v).apply s).sealPasses = v := rfl

@[simp] theorem Act.rtcArmed_apply (v) (s : State) : ((Act.rtcArmed v).apply s).rtcArmed = v := rfl

@[simp] theorem Act.rtcLoadedSec_apply (v) (s : State) : ((Act.rtcLoadedSec v).apply s).rtcLoadedSec = v := rfl

@[simp] theorem Act.bkpCopied_apply (v) (s : State) : ((Act.bkpCopied v).apply s).bkpCopied = v := rfl

@[simp] theorem Act.bkpOver_apply (v) (s : State) : ((Act.bkpOver v).apply s).bkpOver = v := rfl

@[simp] theorem Act.temps_apply (v) (s : State) : ((Act.temps v).apply s).temps = v := rfl

@[simp] theorem Act.hotAt_apply (v) (s : State) : ((Act.hotAt v).apply s).hotAt = v := rfl

@[simp] theorem Act.coolAt_apply (v) (s : State) : ((Act.coolAt v).apply s).coolAt = v := rfl

@[simp] theorem Act.shutAt_apply (v) (s : State) : ((Act.shutAt v).apply s).shutAt = v := rfl

@[simp] theorem Act.alert_apply (v) (s : State) : ((Act.alert v).apply s).alert = v := rfl

end Sys2Proof.Machine
end

