-- ==== Sys2Proof/Laws/State.lean ====
section
/-!
SUPPORT. What reading a register, a field or a table entry answers after writing one: bit by bit, by field and by key.
-/
namespace Sys2Proof.Machine

/-! ### Fields of words -/

theorem testBit_fieldOf {n : Nat} (w : BitVec n) (hi lo i : Nat) :
    (fieldOf w hi lo).testBit i = (decide (i < hi + 1 - lo) && w.getLsbD (lo + i)) := by
  simp [fieldOf, Nat.testBit_mod_two_pow, Nat.testBit_shiftRight, BitVec.getLsbD]

/-- Bit `b` after a field is set: the field's own bit of the value, or as before. -/
theorem getLsbD_setFieldOf {n : Nat} (w : BitVec n) (hi lo v b : Nat) (hb : b < n) :
    (setFieldOf w hi lo v).getLsbD b = if lo ≤ b ∧ b ≤ hi then v.testBit (b - lo) else w.getLsbD b := by
  simp only [setFieldOf, BitVec.getLsbD_or, BitVec.getLsbD_and, BitVec.getLsbD_not, BitVec.getLsbD_ofNat, hb, decide_true,
    Bool.true_and, Nat.testBit_shiftLeft, Nat.testBit_two_pow_sub_one, Nat.testBit_mod_two_pow]
  by_cases h1 : lo ≤ b
  · by_cases h2 : b ≤ hi
    · have : b - lo < hi + 1 - lo := by omega
      simp [h1, h2, this]
    · have : ¬ b - lo < hi + 1 - lo := by omega
      simp [h1, h2, this]
  · simp [h1]

/-- A field that was just set reads as the value, cut to the field's width. -/
theorem fieldOf_setFieldOf {n : Nat} (w : BitVec n) (hi lo v : Nat) (hn : hi < n) :
    fieldOf (setFieldOf w hi lo v) hi lo = v % 2 ^ (hi + 1 - lo) := by
  apply Nat.eq_of_testBit_eq
  intro i
  rw [testBit_fieldOf, Nat.testBit_mod_two_pow]
  by_cases h : i < hi + 1 - lo
  · rw [getLsbD_setFieldOf _ _ _ _ _ (by omega), if_pos (by omega)]; simp
  · simp [h]

/-- Two words that agree in a field's bits hold the same field. -/
theorem fieldOf_congr {n : Nat} {w u : BitVec n} {hi lo : Nat} (h : ∀ b, lo ≤ b → b ≤ hi → w.getLsbD b = u.getLsbD b) :
    fieldOf w hi lo = fieldOf u hi lo := by
  apply Nat.eq_of_testBit_eq
  intro i
  rw [testBit_fieldOf, testBit_fieldOf]
  by_cases hi' : i < hi + 1 - lo
  · rw [h (lo + i) (by omega) (by omega)]
  · simp [hi']

/-- A field is unchanged when a field that shares no bit with it is set. -/
theorem fieldOf_setFieldOf_disjoint {n : Nat} (w : BitVec n) (hi lo hi' lo' v : Nat) (hn : hi < n) (h : hi < lo' ∨ hi' < lo) :
    fieldOf (setFieldOf w hi' lo' v) hi lo = fieldOf w hi lo :=
  fieldOf_congr fun b h1 h2 => by rw [getLsbD_setFieldOf _ _ _ _ _ (by omega), if_neg (by omega)]

theorem fieldOf_lt {n : Nat} (w : BitVec n) (hi lo : Nat) : fieldOf w hi lo < 2 ^ (hi + 1 - lo) := Nat.mod_lt _ (Nat.two_pow_pos _)

theorem testBit_succ_of_even {q : Nat} (h : q % 2 = 0) (j : Nat) : (q + 1).testBit j = if j = 0 then true else q.testBit j := by
  cases j with
  | zero => simp; omega
  | succ j => simp only [Nat.testBit_succ, Nat.add_eq_zero_iff, Nat.one_ne_zero, and_false, if_false]; congr 1; omega

theorem testBit_pred_of_odd {q : Nat} (h : q % 2 = 1) (j : Nat) : (q - 1).testBit j = if j = 0 then false else q.testBit j := by
  cases j with
  | zero => simp; omega
  | succ j => simp only [Nat.testBit_succ, Nat.add_eq_zero_iff, Nat.one_ne_zero, and_false, if_false]; congr 1; omega

/-- A bit is set, the others stay. -/
theorem testBit_withBit (n b : Nat) (v : Bool) (i : Nat) : (withBit n b v).testBit i = if i = b then v else n.testBit i := by
  have hn : 2 ^ b * (n / 2 ^ b) + n % 2 ^ b = n := Nat.div_add_mod n (2 ^ b)
  have hr : n % 2 ^ b < 2 ^ b := Nat.mod_lt _ (Nat.two_pow_pos b)
  have hbit : n.testBit b = decide (n / 2 ^ b % 2 = 1) := Nat.testBit_eq_decide_div_mod_eq
  have hall : n.testBit i = if i < b then (n % 2 ^ b).testBit i else (n / 2 ^ b).testBit (i - b) := by
    conv_lhs => rw [← hn]
    exact Nat.testBit_two_pow_mul_add _ hr i
  unfold withBit
  split
  · next h =>
    split
    · next e => subst e; simpa using h
    · rfl
  · next h =>
    cases v
    · have hq : n / 2 ^ b % 2 = 1 := by simpa [hbit] using h
      have e : n - 2 ^ b = 2 ^ b * (n / 2 ^ b - 1) + n % 2 ^ b := by
        have : 2 ^ b * (n / 2 ^ b - 1) = 2 ^ b * (n / 2 ^ b) - 2 ^ b := by rw [Nat.mul_sub, Nat.mul_one]
        have : 2 ^ b ≤ 2 ^ b * (n / 2 ^ b) := Nat.le_mul_of_pos_right _ (Nat.pos_of_ne_zero fun h0 => by simp [h0] at hq)
        omega
      rw [if_neg (by simp), e, Nat.testBit_two_pow_mul_add _ hr, testBit_pred_of_odd hq, hall]
      by_cases h1 : i < b
      · simp [h1, Nat.ne_of_lt h1]
      · by_cases h2 : i = b
        · simp [h2]
        · have : i - b ≠ 0 := by omega
          simp [h1, h2, this]
    · have hq : n / 2 ^ b % 2 = 0 := by have := h; simp [hbit] at this; omega
      have e : n + 2 ^ b = 2 ^ b * (n / 2 ^ b + 1) + n % 2 ^ b := by rw [Nat.mul_add, Nat.mul_one]; omega
      rw [if_pos rfl, e, Nat.testBit_two_pow_mul_add _ hr, testBit_succ_of_even hq, hall]
      by_cases h1 : i < b
      · simp [h1, Nat.ne_of_lt h1]
      · by_cases h2 : i = b
        · simp [h2]
        · have : i - b ≠ 0 := by omega
          simp [h1, h2, this]

end Sys2Proof.Machine
end

