-- ==== Sys2Proof/Laws/Frames.lean ====
section
/-!
SUPPORT. Frames of programs: what a program may change, said once for each operation that the commands share (Machine/Ops.lean), and how the
frame of a program follows from those of its parts.
-/
namespace Sys2Proof.Machine

/-! ### Frames of states -/

theorem State.framed_refl (s : State) (l : List Piece) (R : List Fld) (T : List Nat) : s.framed s l R T :=
  ⟨fun f _ => s.same_refl f, fun _ _ _ => rfl, fun _ _ => rfl⟩

theorem State.framed_trans {s t u : State} {l : List Piece} {R : List Fld} {T : List Nat} (h : s.framed t l R T) (h' : t.framed u l R T) :
    s.framed u l R T :=
  ⟨fun f hf => State.same_trans (h.1 f hf) (h'.1 f hf), fun k b hk => (h'.2.1 k b hk).trans (h.2.1 k b hk),
   fun k hk => (h'.2.2 k hk).trans (h.2.2 k hk)⟩

theorem State.framed_mono {s t : State} {l l' : List Piece} {R R' : List Fld} {T T' : List Nat} (h : s.framed t l R T)
    (hl : l ⊆ l') (hR : R ⊆ R') (hT : T ⊆ T') : s.framed t l' R' T' :=
  ⟨fun f hf => h.1 f (fun hm => hf (by
      simp only [List.mem_cons] at hm ⊢
      rcases hm with h1 | h1 | h1
      · exact .inl h1
      · exact .inr (.inl h1)
      · exact .inr (.inr (hl h1)))),
   fun k b hk => h.2.1 k b (fun f hf => hk f (hR hf)), fun k hk => h.2.2 k (fun hm => hk (hT hm))⟩

/-- A register that no field of the frame stands in is as before. -/
theorem State.framed_regsAt {s t : State} {l : List Piece} {R : List Fld} {T : List Nat} (h : s.framed t l R T) (k : Nat)
    (hk : ∀ f ∈ R, regKey f.page f.off ≠ k) : t.regsAt k = s.regsAt k :=
  BitVec.eq_of_getLsbD_eq fun b _ => h.2.1 k b fun f hf hc => hk f hf hc.1

theorem regKey_inj {p o p' o' : Nat} (h : o < 65536) (h' : o' < 65536) (e : regKey p o = regKey p' o') : p = p' ∧ o = o' := by
  unfold regKey at e
  have h1 : (p * 65536 + o) / 65536 = (p' * 65536 + o') / 65536 := by rw [e]
  have h2 : (p * 65536 + o) % 65536 = (p' * 65536 + o') % 65536 := by rw [e]
  rw [Nat.mul_comm p, Nat.mul_comm p', Nat.mul_add_div (by decide), Nat.mul_add_div (by decide), Nat.div_eq_of_lt h, Nat.div_eq_of_lt h'] at h1
  rw [Nat.mul_comm p, Nat.mul_comm p', Nat.mul_add_mod, Nat.mul_add_mod, Nat.mod_eq_of_lt h, Nat.mod_eq_of_lt h'] at h2
  exact ⟨h1, h2⟩

/-- Two fields in different pages, different registers or with no bit in common. -/
def Fld.apart (f g : Fld) : Prop := f.page ≠ g.page ∨ f.off ≠ g.off ∨ f.hi < g.lo ∨ g.hi < f.lo

/-- A field that shares no bit with a field of the frame reads as before. -/
theorem State.framed_rd {s t : State} {l : List Piece} {R : List Fld} {T : List Nat} (h : s.framed t l R T) (f : Fld) (hf : f.off < 65536)
    (hR : ∀ g ∈ R, g.off < 65536 ∧ g.apart f) : t.rd f = s.rd f :=
  fieldOf_congr fun b h1 h2 => h.2.1 _ b fun g hg hc => by
    obtain ⟨ho, ha⟩ := hR g hg
    have hk := regKey_inj ho hf hc.1
    rcases ha with e | e | e | e
    · exact e hk.1
    · exact e hk.2
    · have := hc.2.2; omega
    · have := hc.2.1; omega

/-- A piece that the frame does not name is as before. -/
theorem State.framed_same {s t : State} {l : List Piece} {R : List Fld} {T : List Nat} (h : s.framed t l R T) (f : Piece)
    (hf : f ∉ Piece.regs :: Piece.tables :: l) : s.same t f := h.1 f hf

/-! ### Frames of programs -/

/-- From every state, the program changes nothing but what the frame names. -/
def Prog.Keeps (l : List Piece) (R : List Fld) (T : List Nat) (p : Prog) : Prop := ∀ s : State, s.framed (p.run s) l R T

variable {l : List Piece} {R : List Fld} {T : List Nat}

theorem Prog.Keeps.mono {p : Prog} (h : p.Keeps l R T) {l' : List Piece} {R' : List Fld} {T' : List Nat} (hl : l ⊆ l') (hR : R ⊆ R') (hT : T ⊆ T') :
    p.Keeps l' R' T' := fun s => State.framed_mono (h s) hl hR hT

theorem keeps_skip : Prog.skip.Keeps l R T := fun s => s.framed_refl l R T

theorem keeps_andThen {p q : Prog} (hp : p.Keeps l R T) (hq : q.Keeps l R T) : (Prog.andThen p q).Keeps l R T :=
  fun s => State.framed_trans (hp s) (hq (p.run s))

theorem keeps_look {f : State → Prog} (h : ∀ s, (f s).Keeps l R T) : (Prog.look f).Keeps l R T := fun s => h s s

theorem keeps_seqs : ∀ {ps : List Prog}, (∀ p ∈ ps, p.Keeps l R T) → (seqs ps).Keeps l R T
  | [], _ => keeps_skip
  | [p], h => h p (by simp)
  | p :: q :: r, h => keeps_andThen (h p (by simp)) (keeps_seqs (ps := q :: r) (fun x hx => h x (by simp [hx])))

theorem keeps_seqs_nil : (seqs []).Keeps l R T := keeps_skip

theorem keeps_seqs_cons {p : Prog} : ∀ {ps : List Prog}, p.Keeps l R T → (seqs ps).Keeps l R T → (seqs (p :: ps)).Keeps l R T
  | [], hp, _ => hp
  | _ :: _, hp, hq => keeps_andThen hp hq

theorem keeps_each {α : Type} {f : α → Prog} : ∀ {as : List α}, (∀ a ∈ as, (f a).Keeps l R T) → (each as f).Keeps l R T
  | [], _ => keeps_skip
  | a :: r, h => keeps_andThen (h a (by simp)) (keeps_each (as := r) (fun x hx => h x (by simp [hx])))

theorem keeps_ite {c : Prop} [Decidable c] {p q : Prog} (hp : c → p.Keeps l R T) (hq : ¬c → q.Keeps l R T) : (if c then p else q).Keeps l R T := by
  split
  · next h => exact hp h
  · next h => exact hq h

theorem keeps_onlyIf {b : Bool} {p : Prog} (h : b = true → p.Keeps l R T) : (onlyIf b p).Keeps l R T :=
  keeps_ite h (fun _ => keeps_skip)

theorem keeps_either {b : Bool} {p q : Prog} (hp : b = true → p.Keeps l R T) (hq : b = false → q.Keeps l R T) : (either b p q).Keeps l R T :=
  keeps_ite hp (fun h => hq (by simpa using h))

/-- A write to a piece that the frame names. -/
theorem keeps_put {a : Act} (ha : a.piece ∈ l) (hr : a.piece ≠ .regs) (ht : a.piece ≠ .tables) : (Prog.put a).Keeps l R T := fun s =>
  ⟨fun f hf => a.same_apply s f (fun e => hf (e ▸ List.mem_cons_of_mem _ (List.mem_cons_of_mem _ ha))),
   fun k b _ => by
     have h := a.same_apply s .regs hr.symm
     show ((a.apply s).regsAt k).getLsbD b = _
     unfold State.regsAt
     rw [show (a.apply s).regs = s.regs from h.symm],
   fun k _ => by
     have h := a.same_apply s .tables ht.symm
     show (a.apply s).tablesAt k = _
     unfold State.tablesAt
     rw [show (a.apply s).tables = s.tables from h.symm]⟩

theorem framed_regs {s : State} {k : Nat} {v : Word}
    (h : ∀ b, (∀ f ∈ R, ¬ f.covers k b) → v.getLsbD b = (s.regsAt k).getLsbD b) : s.framed ((Act.regs k v).apply s) l R T :=
  ⟨fun f hf => (Act.regs k v).same_apply s f (fun e => hf (by rw [e]; exact List.mem_cons_self ..)),
   fun j b hj => by
     rw [State.regsAt_apply]
     split
     · next e => subst e; exact h b hj
     · rfl,
   fun _ _ => rfl⟩

theorem framed_setReg {s : State} {page off : Nat} {v : Word}
    (h : ∀ b, (∀ f ∈ R, ¬ f.covers (regKey page off) b) → v.getLsbD b = (s.reg page off).getLsbD b) :
    s.framed ((setReg page off v).run s) l R T := framed_regs h

/-- A table entry with a key that the frame names is written. -/
theorem keeps_tables {k : Nat} {e : Option Entry} (h : k ∈ T) : (Prog.put (.tables k e)).Keeps l R T := fun s =>
  ⟨fun f hf => (Act.tables k e).same_apply s f (fun e => hf (by rw [e]; exact List.mem_cons_of_mem _ (List.mem_cons_self ..))), fun _ _ _ => rfl,
   fun j hj => by
     show Sp.get _ (Sp.set _ _ _ _) j = _
     rw [Sp.get_set, if_neg (fun c => hj (by rw [c]; exact h))]; rfl⟩

/-! ### The shared operations -/

theorem keeps_setReg {page off : Nat} {v : Word} (h : ⟨page, off, 31, 0⟩ ∈ R) : (setReg page off v).Keeps l R T := fun s =>
  framed_regs fun b hb => by
    have h1 := hb _ h
    by_cases hlt : b < 32
    · exact absurd ⟨rfl, Nat.zero_le _, Nat.le_of_lt_succ hlt⟩ h1
    · rw [BitVec.getLsbD_of_ge _ _ (by omega), BitVec.getLsbD_of_ge _ _ (by omega)]

theorem keeps_setF {f : Fld} {v : Nat} (h : f ∈ R) : (setF f v).Keeps l R T := fun s =>
  framed_regs fun b hb => by
    have h1 := hb _ h
    by_cases hlt : b < 32
    · rw [getLsbD_setFieldOf _ _ _ _ _ hlt, if_neg (fun hc => h1 ⟨rfl, hc.1, hc.2⟩)]; rfl
    · rw [BitVec.getLsbD_of_ge _ _ (by omega), BitVec.getLsbD_of_ge _ _ (by omega)]

theorem keeps_bumpF {f : Fld} {n : Nat} (h : f ∈ R) : (bumpF f n).Keeps l R T := keeps_look fun _ => keeps_setF h

/-- One bit of a field is set or cleared: no other bit changes. -/
theorem keeps_setBitF {f : Fld} {b : Nat} {v : Bool} (h : ⟨f.page, f.off, f.lo + b, f.lo + b⟩ ∈ R) : (setBitF f b v).Keeps l R T := fun s =>
  framed_regs fun i hi => by
    have h1 := hi _ h
    by_cases hlt : i < 32
    · rw [getLsbD_setFieldOf _ _ _ _ _ hlt]
      split
      · next hc =>
        rw [testBit_withBit, if_neg (fun e => h1 ⟨rfl, (by show f.lo + b ≤ i; omega), (by show i ≤ f.lo + b; omega)⟩), State.rd, testBit_fieldOf, decide_eq_true (by omega), Bool.true_and]
        rw [show f.lo + (i - f.lo) = i by omega]; rfl
      · rfl
    · rw [BitVec.getLsbD_of_ge _ _ (by omega), BitVec.getLsbD_of_ge _ _ (by omega)]

theorem keeps_emit {e : Emit} (h : .emitted ∈ l) : (emit e).Keeps l R T :=
  keeps_look fun _ => keeps_put h (by simp) (by simp)

theorem keeps_draw {f : Nat → Prog} (h : .fresh ∈ l) (hf : ∀ n, (f n).Keeps l R T) : (draw f).Keeps l R T :=
  keeps_look fun _ => keeps_andThen (keeps_put h (by simp) (by simp)) (hf _)

theorem keeps_setTab {page table index : Nat} {e : Entry} (h : tabKey page table index ∈ T) : (setTab page table index e).Keeps l R T :=
  keeps_tables h

theorem keeps_setTabF {page table index : Nat} {x : EF} {v : Nat} (h : tabKey page table index ∈ T) : (setTabF page table index x v).Keeps l R T :=
  keeps_look fun _ => keeps_setTab h

theorem keeps_bumpTabF {page table index : Nat} {x : EF} {n : Nat} (h : tabKey page table index ∈ T) : (bumpTabF page table index x n).Keeps l R T :=
  keeps_look fun _ => keeps_setTabF h

theorem keeps_count {f i n : Nat} (h : .counters ∈ l) (h' : .snapSaved ∈ l) : (count f i n).Keeps l R T :=
  keeps_look fun s => keeps_andThen
    (by
      split
      · exact keeps_onlyIf fun _ => keeps_put h' (by simp) (by simp)
      · exact keeps_skip)
    (keeps_put h (by simp) (by simp))

theorem keeps_hostWork (h : .l1At ∈ l) : hostWork.Keeps l R T := keeps_look fun _ => keeps_put h (by simp) (by simp)

/-- A message of the endpoint's own writes what it sends, the time of the endpoint's last work and IN_L1. -/
theorem keeps_hostSend {o : Emit} (h : .emitted ∈ l) (hw : .l1At ∈ l) (hL : PCIE_LINK_STAT.IN_L1 ∈ R) : (hostSend o).Keeps l R T :=
  keeps_look fun _ => keeps_seqs_cons (keeps_onlyIf fun _ => keeps_setF hL) (keeps_seqs_cons (keeps_hostWork hw) (keeps_seqs_cons (keeps_emit h) keeps_seqs_nil))

theorem keeps_signalVector {fn vec : Nat} (h : .msix ∈ l) (h' : .emitted ∈ l) (hw : .l1At ∈ l) (hL : PCIE_LINK_STAT.IN_L1 ∈ R) :
    (signalVector fn vec).Keeps l R T :=
  keeps_look fun s => keeps_ite (fun _ => keeps_skip) fun _ => keeps_ite (fun _ => keeps_put h (by simp) (by simp)) fun _ => keeps_hostSend h' hw hL

theorem keeps_refreshInta (h : .inta ∈ l) (h' : .emitted ∈ l) (hw : .l1At ∈ l) (hL : PCIE_LINK_STAT.IN_L1 ∈ R) : refreshInta.Keeps l R T :=
  keeps_look fun s => keeps_onlyIf fun _ => keeps_andThen
    (keeps_put h (by simp) (by simp)) (keeps_onlyIf fun _ => keeps_hostSend h' hw hL)

theorem irqPieces_mem {l : List Piece} (hl : irqPieces ⊆ l) : .emitted ∈ l ∧ .msix ∈ l ∧ .inta ∈ l ∧ .irqSince ∈ l ∧ .l1At ∈ l :=
  ⟨hl (by simp [irqPieces]), hl (by simp [irqPieces]), hl (by simp [irqPieces]), hl (by simp [irqPieces]), hl (by simp [irqPieces])⟩

theorem keeps_refreshIrq {page : Nat} (hl : irqPieces ⊆ l) (hR : ⟨2, 0x300 + 4 * (page / 32), page % 32, page % 32⟩ ∈ R) (hL : PCIE_LINK_STAT.IN_L1 ∈ R) :
    (refreshIrq page).Keeps l R T := by
  obtain ⟨h1, h2, h3, h4, h5⟩ := irqPieces_mem hl
  refine keeps_look fun s => keeps_seqs fun p hp => ?_
  simp only [List.mem_cons, List.not_mem_nil, or_false] at hp
  rcases hp with rfl | rfl | rfl | rfl
  · exact keeps_setBitF (by simpa [PCIE_BLK_IRQ_SUM.reg] using hR)
  · exact keeps_look fun t => keeps_onlyIf fun _ => keeps_andThen
      (keeps_put h4 (by simp) (by simp)) (keeps_signalVector h2 h1 h5 hL)
  · exact keeps_look fun t => keeps_onlyIf fun _ => keeps_put h4 (by simp) (by simp)
  · exact keeps_refreshInta h3 h1 h5 hL

theorem keeps_whenEnabled {page : Nat} {p : Prog} (hp : p.Keeps l R T) : (whenEnabled page p).Keeps l R T := keeps_look fun _ => keeps_onlyIf fun _ => hp

theorem keeps_setIntBits {page : Nat} {bits : Word} (hl : irqPieces ⊆ l) (h : ⟨page, 0x10, 31, 0⟩ ∈ R)
    (h' : ⟨2, 0x300 + 4 * (page / 32), page % 32, page % 32⟩ ∈ R) (hL : PCIE_LINK_STAT.IN_L1 ∈ R) : (setIntBits page bits).Keeps l R T :=
  keeps_look fun _ => keeps_andThen (keeps_setReg h) (keeps_refreshIrq hl h' hL)

/-- An event bit sets its own bit of BLK_INT_STAT and no other. -/
theorem keeps_raise {page bit : Nat} (hl : irqPieces ⊆ l) (hR : irqFlds page bit ⊆ R) : (raise page bit).Keeps l R T := by
  have h1 : ⟨page, 0x10, bit, bit⟩ ∈ R := hR (by simp [irqFlds])
  intro s
  have h3 : (raise page bit).run s = (refreshIrq page).run ((setReg page 0x10 (s.reg page 0x10 ||| BitVec.ofNat 32 (2 ^ bit))).run s) := by
    unfold raise setIntBits
    simp only [Prog.run]
  rw [h3]
  refine State.framed_trans (framed_setReg (R := R) (l := l) fun b hb => ?_) (keeps_refreshIrq hl (hR (by simp [irqFlds])) (hR (by simp [irqFlds])) _)
  have h2 := hb _ h1
  have hne : b ≠ bit := fun e => h2 ⟨rfl, by rw [e], by rw [e]⟩
  simp only [State.reg, BitVec.getLsbD_or, BitVec.getLsbD_ofNat, Nat.testBit_two_pow]
  simp [Ne.symm hne]

theorem keeps_crySend {m : CryMsg} (h : .cryQueue ∈ l) (h' : .cryPend ∈ l) (hR : CRY_DROPPED.reg ∈ R) (hl : irqPieces ⊆ l) (hF : irqFlds m.page 3 ⊆ R) :
    (crySend m).Keeps l R T := by
  have a : ∀ k v, (Prog.put (.cryQueue k v)).Keeps l R T := fun k v => keeps_put h (by simp) (by simp)
  have b : ∀ k v, (Prog.put (.cryPend k v)).Keeps l R T := fun k v => keeps_put h' (by simp) (by simp)
  exact keeps_look fun s => keeps_andThen
    (keeps_ite (fun _ => keeps_ite (fun _ => a _ _) fun _ => keeps_bumpF hR)
      fun _ => keeps_ite (fun _ => keeps_bumpF hR) fun _ => keeps_ite (fun _ => a _ _) fun _ => b _ _)
    (keeps_onlyIf fun _ => keeps_raise hl hF)

/-- A field of a register that the frame names whole. -/
theorem keeps_setF_in {f : Fld} {v : Nat} (h : ⟨f.page, f.off, 31, 0⟩ ∈ R) : (setF f v).Keeps l R T := keeps_look fun _ => keeps_setReg h

theorem keeps_bumpF_in {f : Fld} {n : Nat} (h : ⟨f.page, f.off, 31, 0⟩ ∈ R) : (bumpF f n).Keeps l R T := keeps_look fun _ => keeps_setF_in h

theorem keeps_capture {page access space addr master cls kind data : Nat} (hl : errPieces ⊆ l) (hR : errFlds page ⊆ R) :
    (capture page access space addr master cls kind data).Keeps l R T := by
  have hi : irqPieces ⊆ l := fun x hx => hl (List.mem_append_right _ hx)
  have hq : irqFlds page 0 ⊆ R := fun x hx => hR (List.mem_append_left _ (List.mem_append_right _ hx))
  refine keeps_look fun s => keeps_ite (fun _ => keeps_seqs fun p hp => ?_) fun _ => keeps_seqs fun p hp => ?_
  · simp only [List.mem_cons, List.not_mem_nil, or_false] at hp
    rcases hp with rfl | rfl | rfl | rfl | rfl | rfl | rfl | rfl | rfl
    · exact keeps_setF (hR (by simp [errFlds]))
    · exact keeps_setF_in (hR (by simp [errFlds, ERRCAP_ADDR_HI.reg, ERRCAP_ADDR_HI.ADDR_HI]))
    · exact keeps_setF_in (hR (by simp [errFlds, ERRCAP_MASTER.reg, ERRCAP_MASTER.MASTER]))
    · exact keeps_setReg (hR (by simp [errFlds, ERRCAP_KIND.reg]))
    · exact keeps_setF (hR (by simp [errFlds]))
    · exact keeps_setF (hR (by simp [errFlds]))
    · exact keeps_setF (hR (by simp [errFlds]))
    · exact keeps_setF_in (hR (by simp [errFlds, ERRCAP_CTRL.reg, ERRCAP_CTRL.VALID]))
    · exact keeps_raise hi hq
  · simp only [List.mem_cons, List.not_mem_nil, or_false] at hp
    rcases hp with rfl | rfl
    · exact keeps_bumpF_in (hR (by simp [errFlds, ERRCAP_CTRL.reg, ERRCAP_CTRL.MORE]))
    · exact keeps_setF_in (hR (by simp [errFlds, ERRCAP_CTRL.reg, ERRCAP_CTRL.OVERFLOW]))

theorem keeps_reportError {page access space addr master cls kind data : Nat} (hl : errPieces ⊆ l) (hR : errFlds page ⊆ R) :
    (reportError page access space addr master cls kind data).Keeps l R T :=
  keeps_look fun s => keeps_andThen (keeps_capture hl hR)
    (keeps_crySend (hl (by simp [errPieces])) (hl (by simp [errPieces])) (hR (by simp [errFlds])) (fun x hx => hl (List.mem_append_right _ hx))
      (fun x hx => hR (List.mem_append_right _ hx)))

theorem keeps_unitError {page kind cls addr unit : Nat} (hl : errPieces ⊆ l) (hR : errFlds page ⊆ R) : (unitError page kind cls addr unit).Keeps l R T :=
  keeps_reportError hl hR

theorem keeps_report {page kind cls : Nat} (hl : errPieces ⊆ l) (hR : errFlds page ⊆ R) : (report page kind cls).Keeps l R T :=
  keeps_reportError hl hR

theorem keeps_accessError {page off access master kind data : Nat} (hl : errPieces ⊆ l) (hR : errFlds page ⊆ R) :
    (accessError page off access master kind data).Keeps l R T := keeps_reportError hl hR

theorem recPieces_irq {l : List Piece} (hl : recPieces ⊆ l) : irqPieces ⊆ l := fun x hx => hl (List.mem_append_right _ hx)

theorem keeps_backlogAdd {r : JRec} (hl : recPieces ⊆ l) (hR : recFlds ⊆ R) : (backlogAdd r).Keeps l R T := by
  have hb : ∀ v, (Prog.put (.jnlBacklog v)).Keeps l R T := fun v =>
    keeps_put (hl (by simp [recPieces])) (by simp) (by simp)
  refine keeps_look fun s => keeps_ite (fun _ => keeps_skip) fun _ => keeps_ite (fun _ => hb _) fun _ =>
    keeps_ite (fun _ => hb _) fun _ => keeps_seqs fun p hp => ?_
  simp only [List.mem_cons, List.not_mem_nil, or_false] at hp
  rcases hp with rfl | rfl | rfl
  · exact hb _
  · exact keeps_look fun t => keeps_andThen (keeps_setF (hR (by simp [recFlds]))) (keeps_setF (hR (by simp [recFlds])))
  · exact keeps_raise (recPieces_irq hl) (fun x hx => hR (List.mem_append_right _ hx))

theorem keeps_numberRecord {r : JRec} (hl : recPieces ⊆ l) (hR : recFlds ⊆ R) : (numberRecord r).Keeps l R T := by
  refine keeps_look fun s => keeps_seqs fun p hp => ?_
  simp only [List.mem_cons, List.not_mem_nil, or_false] at hp
  rcases hp with rfl | rfl | rfl | rfl
  · exact keeps_put (hl (by simp [recPieces])) (by simp) (by simp)
  · exact keeps_put (hl (by simp [recPieces])) (by simp) (by simp)
  · exact keeps_backlogAdd hl hR
  · exact keeps_onlyIf fun _ => keeps_put (hl (by simp [recPieces])) (by simp) (by simp)

theorem keeps_acceptRecord {r : JRec} (hl : recPieces ⊆ l) (hR : recFlds ⊆ R) : (acceptRecord r).Keeps l R T :=
  keeps_look fun s => keeps_ite
    (fun _ => keeps_put (hl (by simp [recPieces])) (by simp) (by simp))
    fun _ => keeps_andThen (keeps_numberRecord hl hR) (keeps_look fun t => keeps_onlyIf fun _ => keeps_ite (fun _ => keeps_numberRecord hl hR)
      fun _ => keeps_put (hl (by simp [recPieces])) (by simp) (by simp))

theorem keeps_journaled {r : State → JRec} {held : Held} {p : Prog} (hl : recPieces ⊆ l) (hR : recFlds ⊆ R) (hp : p.Keeps l R T) :
    (journaled r held p).Keeps l R T :=
  keeps_look fun s => keeps_ite (fun _ => keeps_andThen (keeps_acceptRecord hl hR) hp)
    fun _ => keeps_put (hl (by simp [recPieces])) (by simp) (by simp)

theorem keeps_recordLater {r : JRec} (hl : recPieces ⊆ l) (hR : recFlds ⊆ R) : (recordLater r).Keeps l R T :=
  keeps_look fun s => keeps_ite (fun _ => keeps_acceptRecord hl hR)
    fun _ => keeps_put (hl (by simp [recPieces])) (by simp) (by simp)

theorem keeps_recordEvent {kind origin value aux : Nat} (hl : recPieces ⊆ l) (hR : recFlds ⊆ R) : (recordEvent kind origin value aux).Keeps l R T :=
  keeps_look fun _ => keeps_recordLater hl hR

theorem keeps_regAccess {m page off data : Nat} {p : Prog} (hl : errPieces ⊆ l) (hR : errFlds 1 ⊆ R) (hp : p.Keeps l R T) :
    (regAccess m page off data p).Keeps l R T :=
  keeps_look fun s => keeps_ite (fun _ => keeps_skip) fun _ => keeps_ite (fun _ => keeps_reportError hl hR) fun _ => keeps_ite (fun _ => keeps_skip) fun _ => hp

/-! ### Reading what a program wrote -/

/-- A register as set. -/
theorem regsAt_setReg (s : State) (page off : Nat) (v : Word) (k : Nat) :
    ((setReg page off v).run s).regsAt k = if k = regKey page off then v else s.regsAt k := State.regsAt_apply s _ v k

/-- A field as set, cut to its width. -/
theorem rd_setF (s : State) (f : Fld) (v : Nat) (hf : f.hi < 32) : ((setF f v).run s).rd f = v % 2 ^ (f.hi + 1 - f.lo) := by
  have h : ((setF f v).run s).reg f.page f.off = setFieldOf (s.reg f.page f.off) f.hi f.lo v :=
    (regsAt_setReg s f.page f.off _ _).trans (if_pos rfl)
  rw [State.rd, h, fieldOf_setFieldOf _ _ _ _ hf]

/-- A table entry as set. -/
theorem tab_setTab (s : State) (page table index : Nat) (e : Entry) : ((setTab page table index e).run s).tab page table index = e := by
  have h : ((setTab page table index e).run s).tablesAt (tabKey page table index) = some e := by
    show Sp.get _ (Sp.set _ _ _ _) _ = _
    rw [Sp.get_set, if_pos rfl]
  simp only [State.tab, State.tab?, h, Option.getD_some]

/-- The state in which a command's program starts: no emission of this step yet. -/
def State.begun (s : State) : State := (Act.emitted []).apply s

@[simp] theorem State.begun_rd (s : State) (f : Fld) : s.begun.rd f = s.rd f := rfl
@[simp] theorem State.begun_reg (s : State) (page off : Nat) : s.begun.reg page off = s.reg page off := rfl
@[simp] theorem State.begun_cfg (s : State) (f : Fld) : s.begun.cfg f = s.cfg f := rfl
@[simp] theorem State.begun_on (s : State) (f : Fld) : s.begun.on f = s.on f := rfl
@[simp] theorem State.begun_tab (s : State) (page table index : Nat) : s.begun.tab page table index = s.tab page table index := rfl

/-- A command of the device answers its program's state, which its frame bounds. -/
theorem command_ok {i : Instr} {p : Prog} {E : State → Prop} (s : State) (h : i.wellFormed = true) (he : .emitted ∈ l) (hp : p.Keeps l R T)
    (hE : E (p.run s.begun)) : ∃ t, command i p s = .next t ∧ E t ∧ s.framed t l R T :=
  ⟨_, command_runs p s h, hE, State.framed_trans (keeps_put (a := .emitted []) he (by simp) (by simp) s) (hp _)⟩

end Sys2Proof.Machine
end

