-- ==== Sys2Proof/Tests/Slice0.lean ====
section
/-!
SUPPORT. Small tests: the operands that WellFormed refuses, what single commands do on small states, and for every clause of a statement a state and operands
that meet its hypotheses together.
-/
namespace Sys2Proof.Tests
open Sys2Proof Sys2Proof.Machine
set_option Elab.async false

/-- The reset state at an instant of MONO, in ns. -/
def resetAt (ns : Nat) : State := { State.reset with mono16 := ns * 65536 }

/-- A state with the writes made. -/
def placed (ps : List Prog) (s : State) : State := (seqs ps).run s

/-- The value of a field that the block's units use is set, as a commit would. -/
def useF (f : Fld) (v : Nat) : Prog := .look fun s =>
  .put (.units (regKey f.page f.off) (setFieldOf (s.unitsAt (regKey f.page f.off)) f.hi f.lo v))

-- MORE
/-- Fabric link `l` is up and reaches device `d`. -/
def linkTo (l d : Nat) : Prog := seqs [
  setF (FLC_LINK_STAT.STATE (l / 12) (l % 12)) 5, setF (FLC_LINK_STAT.REACH_VALID (l / 12) (l % 12)) 1,
  setF (FLC_LINK_STAT.RX_GEN (l / 12) (l % 12)) 9,
  .put (.linkX l { State.reset.linkXAt l with reach := BitVec.ofNat 1024 (2 ^ d) })]

/-- The fabric interface runs in a system of 8 devices, in which this device is number 1. -/
def fabricOn : Prog := seqs [
  setF FAB_SYS_CFG.EN 1, setF FAB_SYS_CFG.STANDALONE 0, setF FAB_SYS_CFG.MAX_DEV 7, setF FAB_DEV_ID.ID 1]

/-- A packet of the tests. -/
def pkt : Pkt := { body := 3, dev := 2, queue := 40, tc := 1, declMax := 100 }

/-- A control message of 128 bits as four words. -/
def msgWords (m : Nat) : List Word := [m / 2 ^ 96, m / 2 ^ 64, m / 2 ^ 32, m].map (BitVec.ofNat 32)

/-- A queue of class Guaranteed with room for a megabyte, charged without bound. -/
def roomy (q : Nat) : Prog := seqs [
  setTab 176 0 q (({} : Entry).put QE.EN 1), setTab 145 1 0 (({} : Entry).put PROF.T1_STOP 1000),
  setF (BPM_REQ_CFG.T1_MIN 0) 100, setF (BPM_REQ_CFG.T1_MAX 0) 100]

/-- The declaration of a register that exists. -/
def declOf (page off : Nat) : RegDecl := (declAt page off).getD ⟨"", 0, 0, 0, 0, 0, 0, 0, 0, 0, 0, 0, 0, 0, false⟩
-- END

/-! ### Witnesses of the statements over every command -/

/-- The state of the tests below: module 9 stands in its cage, the Fatal latch is set, and MODULE_REMOVE of its port waits. -/
def waiting : State :=
  { placed [setF (PORT_CAGE_STAT.PRESENT 9) 1, .put .fatalLatch] State.reset with pending := [.moduleRemove 9] }

theorem waiting_inv : waiting.Inv := (by decide +kernel : waiting.wf = true)

theorem removes (s : State) : ∃ t, Sys2Proof.Machine.exec (.moduleRemove 9) s = .next t := by
  show ∃ t, execModuleRemove 9 s = .next t
  unfold execModuleRemove
  exact ⟨_, command_runs _ s rfl⟩

theorem waiting_steps : ∃ t, step waiting = .next t := removes (waiting.withRest [])

theorem witness_StepRunsTheFrontCommand : ∃ s : State, s.pending = [] := ⟨State.reset, by decide +kernel⟩

theorem witness_StepKeepsInvariant : ∃ s t : State, s.Inv ∧ step s = .next t :=
  ⟨waiting, waiting_steps.choose, waiting_inv, waiting_steps.choose_spec⟩

theorem witness_StepKeepsInvariant_idle : ∃ s t : State, s.Inv ∧ step s = .next t :=
  ⟨State.reset, _, (by decide +kernel : State.reset.wf = true), rfl⟩

theorem witness_FatalLatchClearsAtPowerOnOnly : ∃ (i : Instr) (s t : State), i ≠ .mainPowerOnReset ∧ i ≠ .standbyPowerOnReset ∧
    Sys2Proof.Machine.exec i s = .next t ∧ s.fatalLatch = true :=
  ⟨.moduleRemove 9, waiting, (removes waiting).choose, by decide, by decide, (removes waiting).choose_spec, by decide +kernel⟩

theorem witness_FatalLatchClearsAtPowerOnOnly_b : ∃ s t : State, s.pending = [] ∧ step s = .next t ∧ s.fatalLatch = true :=
  ⟨placed [.put .fatalLatch] State.reset, _, by decide +kernel, rfl, by decide +kernel⟩

theorem witness_FatalLatchClearsAtPowerOnOnly_c : ∃ (ns : Nat) (_s : State), ns < 100 := ⟨99, State.reset, by decide⟩

theorem witness_QueueAndMonoKept : ∃ (i : Instr) (s t : State), Sys2Proof.Machine.exec i s = .next t :=
  ⟨.moduleRemove 9, waiting, removes waiting⟩

theorem witness_QueueAndMonoKept_b : ∃ (i : Instr) (s t : State), i ≠ .mainPowerOnReset ∧ i ≠ .standbyPowerOnReset ∧
    (∀ ns, i ≠ .resetNAssert ns) ∧ (∀ k, i ≠ .coldStart k) ∧ Sys2Proof.Machine.exec i s = .next t :=
  ⟨.moduleRemove 9, waiting, (removes waiting).choose, by decide, by decide, nofun, nofun, (removes waiting).choose_spec⟩

theorem witness_WellFormedCommandsComplete : ∃ (i : Instr) (_s : State), i.wellFormed = true :=
  ⟨.moduleRemove 47, State.reset, by decide +kernel⟩

theorem witness_WellFormedCommandsComplete_b : ∃ (i : Instr) (_s : State), i.wellFormed = false :=
  ⟨.moduleRemove 48, State.reset, by decide +kernel⟩

/-! ### Single steps -/

/-- What a step answers, read by `f`; none where it does not answer a next state. -/
def after {α : Type} (o : Host.Outcome State Fault Refusal) (f : State → α) : Option α :=
  match o with
  | .next t => some (f t)
  | _ => none

/-- No word spells a command, so a word placed for fetching changes nothing. -/
theorem test_fetchWord (n w : Nat) (s : State) : Sys2Proof.decodeTableWord n w = none ∧ s.withFetchWord n w = s := ⟨rfl, rfl⟩

/-- A command whose operands name no unit is refused by name (port 48 of ports 0 to 47). -/
theorem test_refusal : step { State.reset with pending := [.moduleRemove 48] } = .refused .illFormed := rfl

/-- The front command runs, and the rest waits. -/
theorem test_queue : after (step { State.reset with pending := [.moduleRemove 9, .moduleRemove 10] }) State.pending = some [.moduleRemove 10] := by
  decide +kernel

/-- R360: at the end of stage POWER the device number is the slot's. -/
theorem test_slot : after (Sys2Proof.Machine.exec (.stageAdvance true [])
    (placed [.put (.coldT0 (some 0)), setF DEV_STAT.STAGE 0, .put (.slotPins 77), .put (.latchDue true)] State.reset))
    (fun t => (t.rd DEV_SLOT.LATCHED, t.rd FAB_DEV_ID.ID, t.latchDue)) = some (77, 77, false) := by decide +kernel

/-- R517: a low pulse of 99 ns on RESET_N is ignored. -/
theorem test_shortReset : after (Sys2Proof.Machine.exec (.resetNAssert 99) waiting) (fun t => (t.regs == waiting.regs, t.fatalLatch)) =
    some (true, true) := by decide +kernel

/-! ### The operands that are refused -/

/-- Each of these terms fails one check and is refused. -/
theorem test_illFormed_a : ([
  .regWrite 9216 0 0 0 [],
  .regWrite 0 1024 0 0 [],
  .regWrite 0 0 65536 0 [],
  .regWrite 0 0 2 0 [],
  .loReadLatch 0 18432 (0, 0),
  .loReadLatch 0 0 (65536, 0),
  .loReadLatch 0 0 (2, 0),
  .hiWrite 0 0 0 16 0,
  .flitReceive 2 0 0 false,
  .flitReceive 0 28 0 false,
  .crossDieRequest 18 (none, false) 0 0 (0, []),
  .crossDieRequest 0 (some 65, false) 0 0 (0, [])] : List Instr).all (fun c => !c.wellFormed) = true := by decide +kernel

/-- The same terms with that operand mended are well formed. -/
theorem test_wellFormed_a : ([
  .regWrite 0 0 0 0 [],
  .regWrite 0 0 0 0 [],
  .regWrite 0 0 0 0 [],
  .regWrite 0 0 0 0 [],
  .loReadLatch 0 0 (0, 0),
  .loReadLatch 0 0 (0, 0),
  .loReadLatch 0 0 (0, 0),
  .hiWrite 0 0 0 0 0,
  .flitReceive 0 0 0 false,
  .flitReceive 0 0 0 false,
  .crossDieRequest 0 (none, false) 0 0 (0, []),
  .crossDieRequest 0 (none, false) 0 0 (0, [])] : List Instr).all Instr.wellFormed = true := by decide +kernel

/-- Each of these terms fails one check and is refused. -/
theorem test_illFormed_b : ([
  .crossDieRequest 0 (none, false) 0 0 (0, List.replicate 65 0),
  .autonegDone 48 0,
  .frameReceive 0 [],
  .pfcFrameReceive 0 [],
  .pfcPauseExpire 0 8,
  .modulePoll 0 false false 256 0 1 false [] 0,
  .modulePoll 0 false false 0 256 1 false [] 0,
  .modulePoll 0 false false 0 0 0 false [] 0,
  .modulePoll 0 false false 0 0 9 false [] 0,
  .moduleAccessDone 0 false 256,
  .overheadBlockReceive 0 4 0 (0, 0, 0) false false false false false false 0 0 0 0,
  .overheadBlockReceive 0 0 0 (0, 0, 0) false false false false false false 0 256 0 0] : List Instr).all (fun c => !c.wellFormed) = true := by decide +kernel

/-- The same terms with that operand mended are well formed. -/
theorem test_wellFormed_b : ([
  .crossDieRequest 0 (none, false) 0 0 (0, []),
  .autonegDone 0 0,
  .frameReceive 0 [0],
  .pfcFrameReceive 0 [0],
  .pfcPauseExpire 0 0,
  .modulePoll 0 false false 0 0 1 false [] 0,
  .modulePoll 0 false false 0 0 1 false [] 0,
  .modulePoll 0 false false 0 0 1 false [] 0,
  .modulePoll 0 false false 0 0 1 false [] 0,
  .moduleAccessDone 0 false 0,
  .overheadBlockReceive 0 0 0 (0, 0, 0) false false false false false false 0 0 0 0,
  .overheadBlockReceive 0 0 0 (0, 0, 0) false false false false false false 0 0 0 0] : List Instr).all Instr.wellFormed = true := by decide +kernel

/-- Each of these terms fails one check and is refused. -/
theorem test_illFormed_c : ([
  .calendarSwitch 0 24,
  .defectEntry 5 0 1,
  .defectEntry 0 0 0,
  .defectEntry 0 0 13,
  .pmSecond false 0 0 (0, List.replicate 11 0),
  .ingressPass 17 [] [],
  .ingressPass 0 [(131072, 0)] [],
  .bucketWrite 0 256 0,
  .stashReinsert 0 0,
  .stashReinsert 5 0,
  .stashReinsert 1 2048,
  .tcamScrubRow [] 4294967296] : List Instr).all (fun c => !c.wellFormed) = true := by decide +kernel

/-- The same terms with that operand mended are well formed. -/
theorem test_wellFormed_c : ([
  .calendarSwitch 0 0,
  .defectEntry 0 0 1,
  .defectEntry 0 0 1,
  .defectEntry 0 0 1,
  .pmSecond false 0 0 (0, []),
  .ingressPass 0 [] [],
  .ingressPass 0 [] [],
  .bucketWrite 0 0 0,
  .stashReinsert 1 0,
  .stashReinsert 1 0,
  .stashReinsert 1 0,
  .tcamScrubRow [] 0] : List Instr).all Instr.wellFormed = true := by decide +kernel

/-- Each of these terms fails one check and is refused. -/
theorem test_illFormed_d : ([
  .tcamBankLoadDone 32,
  .stagingAdmit 33,
  .reqSend 1024 0,
  .reqSend 0 524288,
  .reqReceive 144 0 (List.replicate 4 0),
  .reqReceive 0 1024 (List.replicate 4 0),
  .reqReceive 0 0 (List.replicate 5 0),
  .holdClear 0 65536,
  .cellReceive 0 (List.replicate 48 0) (false, 0),
  .cellReceive 0 (List.replicate 272 0) (false, 0),
  .cellReceive 0 (List.replicate 65 0) (false, 0),
  .cellReorderTimeout 0 8192] : List Instr).all (fun c => !c.wellFormed) = true := by decide +kernel

/-- The same terms with that operand mended are well formed. -/
theorem test_wellFormed_d : ([
  .tcamBankLoadDone 0,
  .stagingAdmit 0,
  .reqSend 0 0,
  .reqSend 0 0,
  .reqReceive 0 0 (List.replicate 4 0),
  .reqReceive 0 0 (List.replicate 4 0),
  .reqReceive 0 0 (List.replicate 4 0),
  .holdClear 0 0,
  .cellReceive 0 (List.replicate 64 0) (false, 0),
  .cellReceive 0 (List.replicate 64 0) (false, 0),
  .cellReceive 0 (List.replicate 64 0) (false, 0),
  .cellReorderTimeout 0 0] : List Instr).all Instr.wellFormed = true := by decide +kernel

/-- Each of these terms fails one check and is refused. -/
theorem test_illFormed_e : ([
  .fabricLinkDown 0 0 0,
  .fabricLinkDown 0 11 0,
  .fabricLinkDown 0 7 0,
  .mcSend 65536,
  .slotPlayout 1024,
  .schedSelect 51,
  .spdRead 16 [] [],
  .memTrainingDone 20 false [],
  .bfdTx 16384,
  .ccmTx 8192,
  .serviceCorePacket 9,
  .rtxCopyExpire 16384] : List Instr).all (fun c => !c.wellFormed) = true := by decide +kernel

/-- The same terms with that operand mended are well formed. -/
theorem test_wellFormed_e : ([
  .fabricLinkDown 0 1 0,
  .fabricLinkDown 0 1 0,
  .fabricLinkDown 0 1 0,
  .mcSend 0,
  .slotPlayout 0,
  .schedSelect 0,
  .spdRead 0 [] [],
  .memTrainingDone 0 false [],
  .bfdTx 0,
  .ccmTx 0,
  .serviceCorePacket 0,
  .rtxCopyExpire 0] : List Instr).all Instr.wellFormed = true := by decide +kernel

/-- Each of these terms fails one check and is refused. -/
theorem test_illFormed_f : ([
  .mergeLegTimeout 8192 0,
  .mergeLegTimeout 0 2,
  .recReadout 0 16 0,
  .dbTxTail 64 false 0 0 0,
  .dbTxTail 0 false 1048576 0 0,
  .dbTxTail 0 false 0 4096 0,
  .txDescFetch (List.replicate 9 0),
  .txReadDone 4096 0 [],
  .txReadDone 0 5 [],
  .recordWrite 0 (List.replicate 5 0),
  .containmentEnter 7,
  .virtQuiesced 4096] : List Instr).all (fun c => !c.wellFormed) = true := by decide +kernel

/-- The same terms with that operand mended are well formed. -/
theorem test_wellFormed_f : ([
  .mergeLegTimeout 0 0,
  .mergeLegTimeout 0 0,
  .recReadout 0 0 0,
  .dbTxTail 0 false 0 0 0,
  .dbTxTail 0 false 0 0 0,
  .dbTxTail 0 false 0 0 0,
  .txDescFetch (List.replicate 8 0),
  .txReadDone 0 0 [],
  .txReadDone 0 0 [],
  .recordWrite 0 (List.replicate 4 0),
  .containmentEnter 1,
  .virtQuiesced 0] : List Instr).all Instr.wellFormed = true := by decide +kernel

/-- Each of these terms fails one check and is refused. -/
theorem test_illFormed_g : ([
  .vfFlr 0,
  .vfFlr 64,
  .coldStart 1024,
  .selfTestPassEnd 6 0 false,
  .selfTestPassEnd 0 128 false,
  .unitErrorReport 0 0 (0, 524288),
  .vbatMeasure 4096,
  .sensorRead (List.replicate 89 0),
  .dataLinkUp 0 1 0,
  .dataLinkUp 6 1 0,
  .dataLinkUp 1 3 0,
  .msixUnmask 0 2048 0 0] : List Instr).all (fun c => !c.wellFormed) = true := by decide +kernel

/-- The same terms with that operand mended are well formed. -/
theorem test_wellFormed_g : ([
  .vfFlr 1,
  .vfFlr 1,
  .coldStart 0,
  .selfTestPassEnd 0 0 false,
  .selfTestPassEnd 0 0 false,
  .unitErrorReport 0 0 (0, 0),
  .vbatMeasure 0,
  .sensorRead (List.replicate 88 0),
  .dataLinkUp 1 1 0,
  .dataLinkUp 1 1 0,
  .dataLinkUp 1 1 0,
  .msixUnmask 0 0 0 0] : List Instr).all Instr.wellFormed = true := by decide +kernel

/-- Each of these terms fails one check and is refused. -/
theorem test_illFormed_h : ([
  .pipeHoldSpread 16,
  .ptpMessageGeneration 0 16] : List Instr).all (fun c => !c.wellFormed) = true := by decide +kernel

/-- The same terms with that operand mended are well formed. -/
theorem test_wellFormed_h : ([
  .pipeHoldSpread 0,
  .ptpMessageGeneration 0 0] : List Instr).all Instr.wellFormed = true := by decide +kernel

/-! ### Witnesses of the clauses -/

theorem witness_regWrite : ∃ (m page off be : Nat) (data : Word) (d : RegDecl) (s : State),
  (Instr.regWrite m page off be [data]).wellFormed = true ∧ s.takesWrite m page = true ∧ be = 15 ∧ declAt page off = some d ∧ d.shadowed = true ∧
  d.readOnly = false ∧ latchesOf page off = [] ∧ 0x200 ≤ off ∧ (page < 244 ∨ 256 ≤ page) ∧ (s.dirtyAt page).all (fun x => x.1 != off) = true :=
  ⟨0x2000, 180, 0x204, 15, 7, (declOf 180 0x204), (placed [.put (.blkUp 180 true)] State.reset), by decide +kernel⟩

theorem witness_regWrite_b : ∃ (m page off be : Nat) (data : Word) (s : State), (Instr.regWrite m page off be [data]).wellFormed = true ∧
  s.takesWrite m page = true ∧ be % 16 ≠ 15 ∧ s.rd (ERRCAP_CTRL.VALID page) = 0 :=
  ⟨0x2000, 5, 0x204, 7, 9, (placed [.put (.blkUp 5 true)] State.reset), by decide +kernel⟩

theorem witness_regWrite_c : ∃ (m page off be : Nat) (data : Word) (s : State), (Instr.regWrite m page off be [data]).wellFormed = true ∧
  s.reaches m = true ∧ (blockOf page).isSome = true ∧ page ≠ 0 ∧ s.blkUpAt page = false ∧ s.crossClear m page = true :=
  ⟨0x2000, 5, 0x204, 15, 9, State.reset, by decide +kernel⟩

theorem witness_regWrite_d : ∃ (m be : Nat) (data : Word) (s : State), (Instr.regWrite m 6 0x21C be [data]).wellFormed = true ∧
  s.takesWrite m 6 = true ∧ be = 15 :=
  ⟨0x2000, 15, 9, (placed [.put (.blkUp 6 true)] State.reset), by decide +kernel⟩

theorem witness_hiWrite : ∃ (m page off be : Nat) (data : Word) (a b : RegDecl) (lo : Word) (s : State),
  (Instr.hiWrite m page off be data).wellFormed = true ∧ s.serves m page = true ∧ be = 15 ∧ 0x204 ≤ off ∧ declAt page (off - 4) = some a ∧
  declAt page off = some b ∧ a.shadowed = true ∧ b.shadowed = true ∧ b.readOnly = false ∧ latchesOf page off = [] ∧
  s.loHeldAt (pairKey m page) = some (off - 4, lo) ∧ off % 4 = 0 ∧ (page < 244 ∨ 256 ≤ page) :=
  ⟨0x2000, 180, 0x214, 15, 7, (declOf 180 0x210), (declOf 180 0x214), 9, (placed [.put (.blkUp 180 true), .put (.loHeld (pairKey 0x2000 180) (some (0x210, 9)))] State.reset), by decide +kernel⟩

theorem witness_loReadLatch : ∃ (m page : Nat) (off : Nat) (s : State), (Instr.loReadLatch m page (off,1)).wellFormed = true ∧ (m = 0 ∧
  page < 1024 ∨ 64 ≤ m) ∧ s.serves m page = true ∧ latchesOf page off ≠ [] ∧ (off < 0x100 ∨ 0x200 ≤ off) ∧ (declAt page off).isSome = true ∧
  (s.hiLatchAt (pairKey m page)).all (fun x => x.1 != off) = true :=
  ⟨0x2000, 6, 0x200, (placed [.put (.blkUp 6 true)] State.reset), by decide +kernel⟩

theorem witness_pageTimeout : ∃ (m page off : Nat) (s : State), (Instr.pageTimeout m page off).wellFormed = true ∧ m = 0 :=
  ⟨0, 5, 0x200, State.reset, by decide +kernel⟩

theorem witness_frameReceive : ∃ (port : Nat) (head : List Byte) (b : List Nat) (s : State), (Instr.frameReceive port head).wellFormed = true ∧
  b = (head.map BitVec.toNat).take 256 ∧ s.rd (PORT_STAT.LINK_UP port) = 1 ∧ s.rxNowAt port = none ∧ isPauseFrame b = false ∧
  s.rxLevel port ≤ min 502 (s.cfg PIPE_RX_LEVEL.DROP_LEVEL) * 1024 :=
  ⟨3, (List.replicate 64 1), (List.replicate 64 1), (placed [setF (PORT_STAT.LINK_UP 3) 1, useF PIPE_RX_LEVEL.DROP_LEVEL 100] State.reset), by decide +kernel⟩

theorem witness_frameTail : ∃ (port : Nat) (rest : List Byte) (storeErr : Bool) (i : Nat) (a : List Nat) (s : State),
  (Instr.frameTail port rest storeErr).wellFormed = true ∧ s.rxNowAt port = some i ∧ a = (s.bodiesAt i).bytes ++ rest.map BitVec.toNat ∧
  64 ≤ a.length ∧ s.rd PIPE_CT_CFG.LEN_CHECK = 0 ∧
  tailCause a (s.cfg (PORT_MAC_CFG.MAX_FRAME port)) (s.rd (PORT_STAT.LINK_UP port) == 1) storeErr false = 0 ∧ (s.bodiesAt i).lost = false ∧
  (s.rxFifoAt port).any (fun p => p.body == i) = true ∧ 0 < (s.bodiesAt i).refs ∧ (s.bodiesAt i).lenCtrs = [] ∧ (s.bodiesAt i).charges = [] ∧
  (s.bodiesAt i).shapes = [] ∧ s.bufs.all (fun kv => kv.2.body != i) = true ∧
  s.cellOpen.all (fun kv => kv.2.all (fun y => y.1.body != i)) = true :=
  ⟨3, ((withFcs (List.replicate 60 1)).map (BitVec.ofNat 8)), false, 5, (withFcs (List.replicate 60 1)), (placed [setF (PORT_STAT.LINK_UP 3) 1, .put (.rxNow 3 (some 5)), .put (.bodies 5 { State.reset.bodiesAt 5 with refs := 1, port := 3 }), .put (.rxFifo 3 [{ pkt with body := 5 }]), setF PIPE_CT_CFG.LEN_CHECK 0, useF (PORT_MAC_CFG.MAX_FRAME 3) 1518] State.reset), by decide +kernel⟩

theorem witness_rxFifoDequeue : ∃ (port : Nat) (p : Pkt) (r : List Pkt) (k : Nat) (s : State), (Instr.rxFifoDequeue port).wellFormed = true ∧
  s.rxFifoAt port = p :: r ∧ (s.bodiesAt p.body).whole = true ∧ k = s.bucketOf (parse s.prsCfg (s.bodiesAt p.body).window) port ∧
  (s.inQAt (s.bucketPipe k)).length < 256 ∧ s.rd (BLK_CTRL.ENABLE (112 + (s.holder clsPipe (s.bucketPipe k)).getD 0)) = 1 :=
  ⟨3, pkt, [], (State.reset.bucketOf (parse State.reset.prsCfg ({ bytes := List.replicate 64 1, whole := true, refs := 1 } : Body).window) 3), (placed [.put (.rxFifo 3 [pkt]), .put (.bodies 3 { bytes := List.replicate 64 1, whole := true, refs := 1 }), each (List.range 17) (fun p => setF (BLK_CTRL.ENABLE (112 + p)) 1)] State.reset), by decide +kernel⟩

theorem witness_bucketMove : ∃ (bucket : Nat) (l : Nat) (s : State), (Instr.bucketMove bucket).wellFormed = true ∧
  s.bucketPendAt bucket = some l ∧ s.bucketBusy bucket = false ∧ l < 16 :=
  ⟨9, 5, (placed [.put (.bucketPend 9 (some 5))] State.reset), by decide +kernel⟩

theorem witness_bucketRebalance : ∃ (a b k : Nat) (s : State), (Instr.bucketRebalance).wellFormed = true ∧ s.rd (BLK_CTRL.ENABLE 112) = 1 ∧
  s.since s.rebalAt 10000 = true ∧ s.rd PIPE_DIST_CFG.AUTO = 1 ∧
  argMax s.pipeLoad ((List.range 16).filter (fun l => (s.holder clsPipe l).isSome)) = some a ∧
  argMax (fun l => 2 ^ 64 - s.pipeLoad l) ((List.range 16).filter (fun l => (s.holder clsPipe l).isSome)) = some b ∧
  s.rd PIPE_DIST_CFG.IMBAL * 220 < s.pipeLoad a - s.pipeLoad b ∧
  argMax s.bucketLoadAt ((List.range 256).filter (fun k => s.bucketPipe k == a && 0 < s.bucketLoadAt k)) = some k ∧ s.bucketBusy k = false :=
  ⟨3, 5, 9, (placed [setF PIPE_DIST_CFG.AUTO 1, setUnit 0 5 UNIT.ROLE 1, setUnit 0 5 UNIT.LOGICAL 5, setUnit 0 3 UNIT.ROLE 1, setUnit 0 3 UNIT.LOGICAL 3, setF (PIPE_BUCKET.LOGICAL 9) 3, .put (.bucketLoad 9 100000), setF (BLK_CTRL.ENABLE 112) 1] (resetAt 10000)), by decide +kernel⟩

theorem witness_stagingAdmit : ∃ (src : Nat) (n : Nat) (p : Pkt) (s : State), (Instr.stagingAdmit src).wellFormed = true ∧ src < 17 ∧
  s.linkClear 0 = true ∧ s.readyToCross (s.upQAt src) [] 0 = some (n, p) :=
  ⟨3, 0, pkt, (placed [.put (.upQ 3 [pkt]), .put (.bodies 3 { State.reset.bodiesAt 3 with bytes := List.replicate 64 1, whole := true, refs := 1 }), roomy 40] State.reset), by decide +kernel⟩

theorem witness_stagingAgeExpire : ∃ (k : Nat) (s : State), (Instr.stagingAgeExpire).wellFormed = true ∧ s.fatalLatch = false :=
  ⟨40, (placed [.put (.stg 40 [pkt]), .put (.svcRx [{ pkt with body := 4 }]), .put (.bodies 3 { State.reset.bodiesAt 3 with bytes := List.replicate 64 1, whole := true, refs := 1 }), .put (.bodies 4 { State.reset.bodiesAt 4 with bytes := List.replicate 64 1, whole := true, refs := 1 })] (resetAt 100000000000)), by decide +kernel⟩

theorem witness_virtNop : ∃ (m : Nat) (data : Word) (s : State), (Instr.virtNop m data).wellFormed = true ∧ s.takesCmd m 4 = true ∧
  s.rd VIRT_CMD_STAT.BUSY = 0 :=
  ⟨0x2000, 0, (placed [.put (.blkUp 4 true), setF (BLK_CTRL.ENABLE 4) 1] State.reset), by decide +kernel⟩

theorem witness_virtCreate : ∃ (m : Nat) (data : Word) (i : Nat) (s : State), (Instr.virtCreate m data).wellFormed = true ∧
  s.takesCmd m 4 = true ∧ s.rd VIRT_CMD_STAT.BUSY = 0 ∧ i = data.toNat % 4096 ∧ (s.inst i).f INST.STATE = 0 ∧ s.createResult i = 0 :=
  ⟨0x2000, 70, 70, (placed [.put (.blkUp 4 true), setTab 4 0 70 (((((({} : Entry).put INST.QP_BASE 100).put INST.QP_COUNT 2).put INST.PASID 5).put INST.VEC_BASE 9).put INST.VEC_COUNT 1), setF (BLK_CTRL.ENABLE 4) 1] State.reset), by decide +kernel⟩

theorem witness_virtQuiesce : ∃ (m : Nat) (data : Word) (i : Nat) (s : State), (Instr.virtQuiesce m data).wellFormed = true ∧
  s.takesCmd m 4 = true ∧ s.rd VIRT_CMD_STAT.BUSY = 0 ∧ i = data.toNat % 4096 ∧ i ≠ 0 ∧ (s.inst i).f INST.STATE = 1 :=
  ⟨0x2000, 70, 70, (placed [.put (.blkUp 4 true), setTab 4 0 70 (({} : Entry).put INST.STATE 1), setF (BLK_CTRL.ENABLE 4) 1] State.reset), by decide +kernel⟩

theorem witness_virtResume : ∃ (m : Nat) (data : Word) (i : Nat) (s : State), (Instr.virtResume m data).wellFormed = true ∧
  s.takesCmd m 4 = true ∧ s.rd VIRT_CMD_STAT.BUSY = 0 ∧ i = data.toNat % 4096 ∧ (s.inst i).f INST.STATE = 3 :=
  ⟨0x2000, 70, 70, (placed [.put (.blkUp 4 true), setTab 4 0 70 (({} : Entry).put INST.STATE 3), setF (BLK_CTRL.ENABLE 4) 1] State.reset), by decide +kernel⟩

theorem witness_virtReset : ∃ (m : Nat) (data : Word) (i : Nat) (s : State), (Instr.virtReset m data).wellFormed = true ∧ s.takesCmd m 4 = true ∧
  s.rd VIRT_CMD_STAT.BUSY = 0 ∧ i = data.toNat % 4096 ∧ (s.inst i).f INST.STATE = 3 :=
  ⟨0x2000, 70, 70, (placed [.put (.blkUp 4 true), setTab 4 0 70 (((({} : Entry).put INST.STATE 3).put INST.QP_BASE 100).put INST.QP_COUNT 2), setTab 3 0 100 (({} : Entry).put QP.STATE 1), setF (BLK_CTRL.ENABLE 4) 1] State.reset), by decide +kernel⟩

theorem witness_virtRemove : ∃ (m : Nat) (data : Word) (i : Nat) (s : State), (Instr.virtRemove m data).wellFormed = true ∧
  s.takesCmd m 4 = true ∧ s.rd VIRT_CMD_STAT.BUSY = 0 ∧ i = data.toNat % 4096 ∧ (s.inst i).f INST.STATE = 3 :=
  ⟨0x2000, 70, 70, (placed [.put (.blkUp 4 true), setTab 4 0 70 (((({} : Entry).put INST.STATE 3).put INST.QP_BASE 100).put INST.QP_COUNT 2), setTab 3 0 100 (({} : Entry).put QP.STATE 1), setF (BLK_CTRL.ENABLE 4) 1] State.reset), by decide +kernel⟩

theorem witness_virtQuiesced : ∃ (inst : Nat) (s : State), (Instr.virtQuiesced inst).wellFormed = true ∧ (s.inst inst).f INST.STATE = 2 ∧
  (s.instQps inst).all (fun q => (s.qpxAt q).reads.isEmpty && (s.qpxAt q).wait.isNone) = true :=
  ⟨70, (placed [setTab 4 0 70 (({} : Entry).put INST.STATE 2)] State.reset), by decide +kernel⟩

theorem witness_quiesceReadTimeout : ∃ (inst : Nat) (q c : Nat) (r : TxRead) (s : State), (Instr.quiesceReadTimeout inst).wellFormed = true ∧
  (s.inst inst).f INST.STATE = 2 ∧ (s.vinstAt inst).quiesceAt = some c ∧ s.since c 50000000 = true ∧ s.ctoNs = none ∧ s.instQps inst = [q] ∧
  (s.qpxAt q).reads = [r] :=
  ⟨70, 100, 0, { idx := 3, desc := [2 ^ 30 + 100, 0, 0, 0, 0x2000, 0, 0, 0] }, (placed [setTab 4 0 70 (((({} : Entry).put INST.STATE 2).put INST.QP_BASE 100).put INST.QP_COUNT 1), .put (.vinst 70 { State.reset.vinstAt 70 with quiesceAt := some 0 }), .put (.pcieFn 0 { State.reset.pcieFnAt 0 with ctoDis := true }), .put (.qpx 100 { State.reset.qpxAt 100 with reads := [{ idx := 3, desc := [2 ^ 30 + 100, 0, 0, 0, 0x2000, 0, 0, 0] }] })] (resetAt 50000000)), by decide +kernel⟩

theorem witness_vfFlr : ∃ (vf : Nat) (s : State), (Instr.vfFlr vf).wellFormed = true ∧ (s.pcieFnAt 0).vfEnable = true ∧
  vf ≤ (s.pcieFnAt 0).numVfs ∧ (s.inst vf).f INST.STATE ≠ 0 :=
  ⟨3, (placed [.put (.pcieFn 0 { State.reset.pcieFnAt 0 with vfEnable := true, numVfs := 4 }), setTab 4 0 3 (({} : Entry).put INST.STATE 1)] State.reset), by decide +kernel⟩

theorem witness_vfEnableChange : ∃ (enable : Bool) (num : Nat) (s : State), (Instr.vfEnableChange enable num).wellFormed = true :=
  ⟨true, 4, State.reset, by decide +kernel⟩

theorem witness_cagePwrMaxRaise : ∃ (m port : Nat) (data : Word) (c : Nat) (s : State), (Instr.cagePwrMaxRaise m port data).wellFormed = true ∧
  s.takesWrite m (16 + port) = true ∧ c = fieldOf data (PORT_CAGE_CTRL.PWR_MAX port).hi (PORT_CAGE_CTRL.PWR_MAX port).lo ∧
  fieldOf data (PORT_CAGE_CTRL.MANUAL port).hi (PORT_CAGE_CTRL.MANUAL port).lo = 0 ∧ s.rd (PORT_CAGE_CTRL.MANUAL port) = 0 ∧
  s.rd (PORT_CAGE_STAT.STATE port) = 3 ∧ s.rd (PORT_CAGE_CTRL.PWR_MAX port) < c ∧ s.rd (PORT_CAGE_STAT.PWR_CLASS port) ≤ c + 1 :=
  ⟨0x2000, 3, (BitVec.ofNat 32 (5 * 2 ^ (PORT_CAGE_CTRL.PWR_MAX 3).lo)), 5, (placed [.put (.blkUp 19 true), setF (PORT_CAGE_STAT.STATE 3) 3, setF (PORT_CAGE_STAT.PWR_CLASS 3) 6, setF (PORT_CAGE_CTRL.PWR_MAX 3) 2] State.reset), by decide +kernel⟩

theorem witness_moduleAccess : ∃ (m port : Nat) (data : Word) (s : State), (Instr.moduleAccess m port data).wellFormed = true ∧
  s.takesCmd m (16 + port) = true ∧ s.rd (PORT_MOD_CMD.BUSY port) = 0 ∧ s.rd (PORT_CAGE_STAT.PRESENT port) = 1 ∧
  fieldOf data (PORT_MOD_CMD.WRITE port).hi (PORT_MOD_CMD.WRITE port).lo = 0 :=
  ⟨0x2000, 3, 1, (placed [.put (.blkUp 19 true), setF (PORT_CAGE_STAT.PRESENT 3) 1, setF (BLK_CTRL.ENABLE (16 + 3)) 1] State.reset), by decide +kernel⟩

theorem witness_calendarSwitch : ∃ (m group : Nat) (s : State), (Instr.calendarSwitch m group).wellFormed = true ∧
  s.takesCmd m (64 + group) = true ∧ (s.flxExAt group).step = 0 :=
  ⟨0x2000, 3, (placed [.put (.blkUp 67 true), setF (BLK_CTRL.ENABLE (64 + 3)) 1] State.reset), by decide +kernel⟩

theorem witness_xcSwitch : ∃ (m : Nat) (data : Word) (s : State), (Instr.xcSwitch m data).wellFormed = true ∧ s.takesCmd m 88 = true ∧
  fieldOf data XC_SWITCH.MODE.hi XC_SWITCH.MODE.lo = 1 ∧ s.rd XC_STAT.PEND = 0 ∧ s.tabIndices 88 0 = [] :=
  ⟨0x2000, (BitVec.ofNat 32 (2 ^ 28 + 3)), (placed [.put (.blkUp 88 true), setF (BLK_CTRL.ENABLE 88) 1] State.reset), by decide +kernel⟩

theorem witness_seedWrite : ∃ (m page off : Nat) (data : Word) (d : RegDecl) (s : State), (Instr.seedWrite m page off data).wellFormed = true ∧
  s.takesWrite m page = true ∧ (page, off) ∈ [(100, 0x220), (101, 0x244), (102, 0x230)] ∧ s.seedFree page = true ∧ declAt page off = some d :=
  ⟨0x2000, 102, 0x230, 77, (declOf 102 0x230), (placed [.put (.blkUp 102 true)] State.reset), by decide +kernel⟩

theorem witness_lpmMemUseWrite : ∃ (m off : Nat) (data : Word) (b : Nat) (s : State), (Instr.lpmMemUseWrite m off data).wellFormed = true ∧
  s.takesWrite m 100 = true ∧ off = 0x1000 + 4 * b ∧ b < 64 ∧ s.memUseOk b (data.toNat % 16) = true :=
  ⟨0x2000, 0x1078, 3, 30, (placed [.put (.blkUp 100 true)] State.reset), by decide +kernel⟩

theorem witness_bucketWrite : ∃ (m bucket : Nat) (data : Word) (s : State), (Instr.bucketWrite m bucket data).wellFormed = true ∧
  s.takesWrite m 112 = true ∧ s.rd PIPE_DIST_CFG.AUTO = 0 ∧ data.toNat % 32 < 16 ∧ s.bucketPipe bucket ≠ data.toNat % 32 ∧
  s.bucketBusy bucket = false :=
  ⟨0x2000, 9, 5, (placed [.put (.blkUp 112 true), setF PIPE_DIST_CFG.AUTO 0] State.reset), by decide +kernel⟩

theorem witness_queueFlush : ∃ (m : Nat) (data : Word) (s : State), (Instr.queueFlush m data).wellFormed = true ∧ s.takesCmd m 176 = true ∧
  s.rd QM_FLUSH.BUSY = 0 :=
  ⟨0x2000, 40, (placed [.put (.blkUp 176 true), .put (.qx 40 { State.reset.qxAt 40 with head := [pkt] }), .put (.bodies 3 { State.reset.bodiesAt 3 with bytes := [1, 2], whole := true, refs := 1 }), setF (BLK_CTRL.ENABLE 176) 1] State.reset), by decide +kernel⟩

theorem witness_spdCmd : ∃ (m ch : Nat) (data : Word) (s : State), (Instr.spdCmd m ch data).wellFormed = true ∧ s.takesCmd m (152 + ch) = true ∧
  s.rd (DDRC_SPD_CMD.BUSY ch) = 0 :=
  ⟨0x2000, 6, 1, (placed [.put (.blkUp 158 true), setF (BLK_CTRL.ENABLE (152 + 6)) 1] State.reset), by decide +kernel⟩

theorem witness_granaryReenable : ∃ (m : Nat) (data : Word) (s : State), (Instr.granaryReenable m data).wellFormed = true ∧
  s.takesWrite m 146 = true ∧ data.getLsbD 31 = true ∧ s.rd GRN_CFG.EN = 0 ∧ s.rd GRN_STAT.STATE = 3 :=
  ⟨0x2000, 0x80000000, (placed [.put (.blkUp 146 true), setF GRN_STAT.STATE 3, setF GRN_CFG.EN 0] State.reset), by decide +kernel⟩

theorem witness_fabSysEnable : ∃ (m : Nat) (data : Word) (s : State), (Instr.fabSysEnable m data).wellFormed = true ∧ s.takesWrite m 240 = true ∧
  data.getLsbD 31 = true ∧ s.rd FAB_SYS_CFG.EN = 0 :=
  ⟨0x2000, 0x80000007, (placed [.put (.blkUp 240 true)] State.reset), by decide +kernel⟩

theorem witness_fabricLinkRestart : ∃ (m link : Nat) (s : State), (Instr.fabricLinkRestart m link).wellFormed = true ∧
  s.takesWrite m (244 + link / 12) = true ∧ s.linkState link ≠ 0 ∧ s.linkMayRun link = true :=
  ⟨0x2000, 13, (placed [.put (.blkUp 245 true), linkTo 13 2, useF (FLC_LINK_CTRL.EN 1 1) 1, setF FAB_SYS_CFG.STANDALONE 0] State.reset), by decide +kernel⟩

theorem witness_moduleInsert : ∃ (port : Nat) (s : State), (Instr.moduleInsert port).wellFormed = true ∧ s.rd (PORT_CAGE_STAT.PRESENT port) = 0 ∧
  s.rd (PORT_CAGE_CTRL.MANUAL port) = 0 ∧ s.blkUpAt (16 + port) = true :=
  ⟨9, (placed [.put (.blkUp 25 true)] State.reset), by decide +kernel⟩

theorem witness_moduleResetRelease : ∃ (port : Nat) (s : State), (Instr.moduleResetRelease port).wellFormed = true ∧ (s.cageXAt port).step = 2 ∧
  s.since (s.cageXAt port).stepAt 10000000 = true :=
  ⟨9, (placed [.put (.cageX 9 { State.reset.cageXAt 9 with step := 2 })] (resetAt 10000000)), by decide +kernel⟩

theorem witness_modulePoll : ∃ (port : Nat) (ack lowPwr : Bool) (ident rev pwrClass : Nat) (copper : Bool) (apps : List Nat) (dpMs : Nat) (s :
    State), (Instr.modulePoll port ack lowPwr ident rev pwrClass copper apps dpMs).wellFormed = true ∧ (s.cageXAt port).step = 3 ∧ ack = true ∧
  lowPwr = true ∧ 0x40 ≤ rev ∧ rev ≤ 0x5F ∧ pwrClass ≤ s.rd (PORT_CAGE_CTRL.PWR_MAX port) + 1 :=
  ⟨9, true, true, 0x1E, 0x52, 3, false, [0x54], 100, (placed [.put (.cageX 9 { State.reset.cageXAt 9 with step := 3 }), setF (PORT_CAGE_CTRL.PWR_MAX 9) 7] State.reset), by decide +kernel⟩

theorem witness_moduleReady : ∃ (port : Nat) (ack : Bool) (k : Nat) (s : State), (Instr.moduleReady port ack).wellFormed = true ∧
  (s.cageXAt port).step = 5 ∧ ack = true ∧
  indexWhere (fun a => a == 16 * s.cfg (PORT_MODE.MODE port) + modeLanes (s.cfg (PORT_MODE.MODE port))) (s.cageXAt port).apps 0 = some k ∧
  k < 15 :=
  ⟨9, true, 1, (placed [.put (.cageX 9 { State.reset.cageXAt 9 with step := 5, apps := [7, 0x52] }), useF (PORT_MODE.MODE 9) 5] State.reset), by decide +kernel⟩

theorem witness_moduleDatapathActivated : ∃ (port : Nat) (s : State), (Instr.moduleDatapathActivated port).wellFormed = true ∧
  (s.cageXAt port).step = 6 :=
  ⟨9, (placed [.put (.cageX 9 { State.reset.cageXAt 9 with step := 6 })] State.reset), by decide +kernel⟩

theorem witness_stageAdvance : ∃ (ok : Bool) (defects : List Nat) (s : State), (Instr.stageAdvance ok defects).wellFormed = true ∧
  s.coldT0.isSome = true ∧ s.rd DEV_STAT.STAGE = 0 ∧ s.stopped = false ∧ s.slotPins < 1024 :=
  ⟨true, [], (placed [.put (.coldT0 (some 0)), setF DEV_STAT.STAGE 0, .put (.slotPins 77), .put (.latchDue true)] State.reset), by decide +kernel⟩

theorem witness_resetNAssert : ∃ (ns : Nat) (s : State), (Instr.resetNAssert ns).wellFormed = true ∧ 1000 ≤ ns :=
  ⟨1000, (placed [setF DEV_SLOT.LATCHED 5] State.reset), by decide +kernel⟩

theorem witness_blkEnable : ∃ (m page : Nat) (data : Word) (s : State), (Instr.blkEnable m page data).wellFormed = true ∧
  s.takesWrite m page = true ∧ isController m = true ∧ s.rd (BLK_CTRL.ENABLE page) = 0 ∧ fieldOf data 2 1 = 0 :=
  ⟨0x2000, 13, 1, (placed [.put (.blkUp 13 true)] State.reset), by decide +kernel⟩

theorem witness_blkEnable_b : ∃ (m page : Nat) (data : Word) (s : State), (Instr.blkEnable m page data).wellFormed = true ∧
  s.takesWrite m page = true ∧ isController m = true ∧ s.rd (BLK_CTRL.ENABLE page) = 0 ∧ fieldOf data 2 1 = 0 ∧ (page < 16 ∨ 88 ≤ page ∧
  page < 100 ∨ 100 < page ∧ page < 148 ∨ 168 ≤ page) :=
  ⟨0x2000, 13, 1, (placed [.put (.blkUp 13 true)] State.reset), by decide +kernel⟩

theorem witness_blkDisable : ∃ (m page : Nat) (data : Word) (s : State), (Instr.blkDisable m page data).wellFormed = true ∧
  s.takesCmd m page = true ∧ isController m = true ∧ fieldOf data 2 1 = 0 ∧ (page < 16 ∨ 64 ≤ page) :=
  ⟨0x2000, 13, 0, (placed [.put (.blkUp 13 true), setF (BLK_CTRL.ENABLE 13) 1] State.reset), by decide +kernel⟩

theorem witness_blkDisable_b : ∃ (m page : Nat) (data : Word) (s : State), (Instr.blkDisable m page data).wellFormed = true ∧
  s.takesCmd m page = true ∧ isController m = true ∧ fieldOf data 2 1 = 0 ∧ 16 ≤ page ∧ page < 64 :=
  ⟨0x2000, 19, 0, (placed [.put (.blkUp 19 true), setF (BLK_CTRL.ENABLE 19) 1, setF (PORT_STAT.LINK_UP 3) 1] State.reset), by decide +kernel⟩

theorem witness_blockDrained : ∃ (page : Nat) (s : State), (Instr.blockDrained page).wellFormed = true ∧ s.rd (BLK_CTRL.ENABLE page) = 0 ∧
  page ≠ 100 :=
  ⟨13, State.reset, by decide +kernel⟩

theorem witness_freeze : ∃ (m page : Nat) (data : Word) (s : State), (Instr.freeze m page data).wellFormed = true ∧ s.takesWrite m page = true ∧
  fieldOf data 2 0 = 4 ∧ s.rd (BLK_CTRL.ENABLE page) = 0 ∧ s.rd (BLK_CTRL.FREEZE page) = 0 :=
  ⟨0x2000, 13, 4, (placed [.put (.blkUp 13 true)] State.reset), by decide +kernel⟩

theorem witness_softReset : ∃ (m page : Nat) (data : Word) (s : State), (Instr.softReset m page data).wellFormed = true ∧
  s.takesWrite m page = true ∧ isController m = true ∧ s.rd (BLK_CTRL.ENABLE page) = 0 ∧ fieldOf data 2 0 = 2 :=
  ⟨0x2000, 13, 2, (placed [.put (.blkUp 13 true)] State.reset), by decide +kernel⟩

theorem witness_softResetDone : ∃ (page : Nat) (s : State), (Instr.softResetDone page).wellFormed = true ∧ s.rd (BLK_CTRL.SOFT_RESET page) = 1 ∧
  pagesWith page = [page] ∧ s.rd (TBL_STAT.BUSY page) = 0 ∧ page ∈ [6, 7, 9, 12, 13, 144] :=
  ⟨13, (placed [setF (BLK_CTRL.SOFT_RESET 13) 1] State.reset), by decide +kernel⟩

theorem witness_blkIntClear : ∃ (m page : Nat) (data hw : Word) (s : State), (Instr.blkIntClear m page data hw).wellFormed = true ∧
  s.takesWrite m page = true ∧ s.blkUpAt page = true :=
  ⟨0x2000, 13, 0x30000, 0x10000, (placed [.put (.blkUp 13 true), raise 13 16, raise 13 17, raise 13 18] State.reset), by decide +kernel⟩

theorem witness_blkIntForce : ∃ (m page : Nat) (data : Word) (s : State), (Instr.blkIntForce m page data).wellFormed = true ∧
  s.takesWrite m page = true :=
  ⟨0x2000, 13, 0x10000, (placed [.put (.blkUp 13 true)] State.reset), by decide +kernel⟩

theorem witness_errcapClear : ∃ (m page : Nat) (data : Word) (s : State), (Instr.errcapClear m page data).wellFormed = true ∧
  s.takesWrite m page = true ∧ data.getLsbD 0 = true ∧ (declAt page 0x3C).isSome = true :=
  ⟨0x2000, 13, 1, (placed [.put (.blkUp 13 true), setF (ERRCAP_CTRL.VALID 13) 1, setF (ERRCAP_CTRL.MORE 13) 5] State.reset), by decide +kernel⟩

theorem witness_commit : ∃ (m page : Nat) (data : Word) (s : State), (Instr.commit m page data).wellFormed = true ∧ s.takesWrite m page = true ∧
  s.rd (BLK_COMMIT_STAT.PENDING page) = 0 ∧ s.rd (BLK_CTRL.FREEZE page) = 0 ∧ (declAt page 0x40).isSome = true ∧ s.dirtyAt page = [] ∧
  page ∈ [5, 6, 7, 9, 13, 88, 104, 144] :=
  ⟨0x2000, 13, 0x70001, (placed [.put (.blkUp 13 true), setReg 13 0x200 3] State.reset), by decide +kernel⟩

theorem witness_commit_b : ∃ (m : Nat) (data : Word) (s : State), (Instr.commit m 12 data).wellFormed = true ∧ s.takesWrite m 12 = true ∧
  s.rd (BLK_COMMIT_STAT.PENDING 12) = 0 ∧ s.rd (BLK_CTRL.FREEZE 12) = 0 ∧ s.dirtyAt 12 = [] :=
  ⟨0x2000, 0x70001, (placed [.put (.blkUp 12 true), setReg 12 0x200 3] State.reset), by decide +kernel⟩

theorem witness_commitTaken : ∃ (page : Nat) (s : State), (Instr.commitTaken page).wellFormed = true ∧ s.rd (BLK_COMMIT_STAT.PENDING page) = 1 ∧
  s.commitLateAt page = false ∧ (page < 16 ∨ 64 ≤ page) :=
  ⟨13, (placed [setF (BLK_COMMIT_STAT.PENDING 13) 1] State.reset), by decide +kernel⟩

theorem witness_commitTaken_b : ∃ (page : Nat) (s : State), (Instr.commitTaken page).wellFormed = true ∧ 16 ≤ page ∧ page < 64 ∧
  s.rd (BLK_COMMIT_STAT.PENDING page) = 1 ∧ s.commitLateAt page = false :=
  ⟨19, (placed [setF (BLK_COMMIT_STAT.PENDING 19) 1] State.reset), by decide +kernel⟩

theorem witness_loReadLatch_b : ∃ (m page : Nat) (off : Nat) (hi : Nat) (s : State), (Instr.loReadLatch m page (off,1)).wellFormed = true ∧
  s.serves m page = true ∧ (m = 0 ∧ page < 1024 ∨ 64 ≤ m) ∧ (off < 0x100 ∨ 0x200 ≤ off) ∧ (declAt page off).isSome = true ∧
  latchesOf page off = [hi] ∧ (s.hiLatchAt (pairKey m page)).all (fun x => x.1 != off) = true :=
  ⟨0x2000, 6, 0x200, 0x204, (placed [.put (.blkUp 6 true)] State.reset), by decide +kernel⟩

theorem witness_loReadLatch_c : ∃ (m page : Nat) (off : Nat) (w : Word) (s : State), (Instr.loReadLatch m page (off,1)).wellFormed = true ∧
  s.serves m page = true ∧ (m = 0 ∧ page < 1024 ∨ 64 ≤ m) ∧ (off < 0x100 ∨ 0x200 ≤ off) ∧ s.hiLatchAt (pairKey m page) = [(off, w)] :=
  ⟨0x2000, 6, 0x204, 7, (placed [.put (.blkUp 6 true), .put (.hiLatch (pairKey 0x2000 6) [(0x204, 7)])] State.reset), by decide +kernel⟩

theorem witness_loReadLatch_d : ∃ (m page : Nat) (off : Nat) (s : State), (Instr.loReadLatch m page (off,1)).wellFormed = true ∧
  s.serves m page = true ∧ (m = 0 ∧ page < 1024 ∨ 64 ≤ m) ∧ (off < 0x100 ∨ 0x200 ≤ off) ∧ (declAt page off).isSome = true ∧
  latchesOf page off = [] ∧ s.hiLatchAt (pairKey m page) = [] :=
  ⟨0x2000, 6, 0x204, (placed [.put (.blkUp 6 true)] State.reset), by decide +kernel⟩

theorem witness_updNop : ∃ (m : Nat) (data : Word) (s : State), (Instr.updNop m data).wellFormed = true ∧ s.takesCmd m 8 = true ∧
  (m = 0 ∨ m = 0x2000) ∧ s.updOp = none :=
  ⟨0x2000, 0, (placed [.put (.blkUp 8 true), setF (BLK_CTRL.ENABLE 8) 1] State.reset), by decide +kernel⟩

theorem witness_updBegin : ∃ (m : Nat) (data : Word) (k : Nat) (s : State), (Instr.updBegin m data).wellFormed = true ∧ s.takesCmd m 8 = true ∧
  (m = 0 ∨ m = 0x2000) ∧ s.updOp = none ∧ s.rd DEV_STAT.PF_WARN = 0 ∧ s.rd DEV_STAT.RECOVERY = 0 ∧ s.storeQ = [] ∧
  (s.ctl.slot s.ctl.boot).st ≠ 4 ∧ k = fieldOf data 15 0 ∧ 0 < k ∧ k ≤ 32768 :=
  ⟨0x2000, 9, 9, (placed [.put (.blkUp 8 true), setF (BLK_CTRL.ENABLE 8) 1] State.reset), by decide +kernel⟩

theorem witness_updBlock : ∃ (m : Nat) (data : Word) (bytes : List Byte) (badReads : Nat) (k off len : Nat) (s : State),
  (Instr.updBlock m data bytes badReads).wellFormed = true ∧ s.takesCmd m 8 = true ∧ (m = 0 ∨ m = 0x2000) ∧ s.updOp = none ∧
  s.rd DEV_STAT.PF_WARN = 0 ∧ s.writeRefused m 8 0x200 (withOp 2 data).toNat = false ∧ k = s.updTarget (withOp 2 data) ∧
  off = s.rd UPD_DL_BLOCK.OFFSET_4K ∧ len = s.rd UPD_DL_BLOCK.LEN_4K ∧ (s.ctlNext.slot k).st = 1 ∧ len = 1 ∧ off ≠ 0 ∧
  off + len < (s.ctlNext.slot k).total ∧ s.imgUnitAt (k * 32768) ≠ [] ∧ s.imgUnitAt (k * 32768 + off) = [] ∧ s.dmaOn 0 = true ∧
  bytes.length = 4096 * len ∧ badReads < 2 ∧ s.rd UPD_DL_STAT.RECEIVED + len < (s.ctlNext.slot k).total ∧ (s.ctlNext.slot k).total ≤ 32768 :=
  ⟨0x2000, 0, (List.replicate 4096 7), 0, 1, 5, 1, (placed [.put (.blkUp 8 true), .put (.ctl { slotB := { st := 1, total := 20 } }), setF UPD_DL_BLOCK.OFFSET_4K 5, setF UPD_DL_BLOCK.LEN_4K 1, .put (.imgUnit 32768 [1]), .put (.pcieFn 0 { State.reset.pcieFnAt 0 with bme := true }), setF (BLK_CTRL.ENABLE 8) 1] State.reset), by decide +kernel⟩

theorem witness_updVerify : ∃ (m : Nat) (data : Word) (k : Nat) (s : State), (Instr.updVerify m data).wellFormed = true ∧ s.takesCmd m 8 = true ∧
  (m = 0 ∨ m = 0x2000) ∧ s.updOp = none ∧ s.rd DEV_STAT.PF_WARN = 0 ∧ s.storeQ = [] ∧ k = s.updTarget data ∧ (s.ctl.slot k).st = 2 :=
  ⟨0x2000, 0, 1, (placed [.put (.blkUp 8 true), .put (.ctl { slotB := { st := 2, total := 20 } }), setF (BLK_CTRL.ENABLE 8) 1] State.reset), by decide +kernel⟩

theorem witness_updActivate : ∃ (m : Nat) (data : Word) (k : Nat) (s : State), (Instr.updActivate m data).wellFormed = true ∧
  s.takesCmd m 8 = true ∧ (m = 0 ∨ m = 0x2000) ∧ s.updOp = none ∧ s.rd DEV_STAT.PF_WARN = 0 ∧ s.storeQ = [] ∧ k = s.updTarget data ∧
  (s.ctl.slot k).st = 3 ∧ (s.ctl.slot k).type ≠ 3 :=
  ⟨0x2000, 0, 1, (placed [.put (.blkUp 8 true), .put (.ctl { slotB := { st := 3, type := 1, total := 20 } }), setF (BLK_CTRL.ENABLE 8) 1] State.reset), by decide +kernel⟩

theorem witness_updConfirm : ∃ (m : Nat) (data : Word) (s : State), (Instr.updConfirm m data).wellFormed = true ∧ s.takesCmd m 8 = true ∧
  (m = 0 ∨ m = 0x2000) ∧ s.updOp = none ∧ s.rd DEV_STAT.PF_WARN = 0 ∧ s.storeQ = [] ∧ (s.ctl.slot s.ctl.boot).st = 4 ∧ s.roll = none :=
  ⟨0x2000, 0, (placed [.put (.blkUp 8 true), .put (.ctl { slotA := { st := 4, total := 20 } }), .put (.confirmEnd (some 9)), setF (BLK_CTRL.ENABLE 8) 1] State.reset), by decide +kernel⟩

theorem witness_updRevert : ∃ (m : Nat) (data : Word) (s : State), (Instr.updRevert m data).wellFormed = true ∧ s.takesCmd m 8 = true ∧
  (m = 0 ∨ m = 0x2000) ∧ s.updOp = none ∧ s.rd DEV_STAT.PF_WARN = 0 ∧ s.storeQ = [] ∧ s.ctl.boot = 1 ∧ s.ctl.fallback = 0 ∧
  (s.ctl.slot 1).st = 4 ∧ (s.ctl.slot 1).type = 2 ∧ (s.ctl.slot 0).st = 5 :=
  ⟨0x2000, 0, (placed [.put (.blkUp 8 true), .put (.ctl { slotA := { st := 5 }, slotB := { st := 4, type := 2 }, boot := 1, fallback := 0 }), .put (.confirmEnd (some 9)), setF (BLK_CTRL.ENABLE 8) 1] State.reset), by decide +kernel⟩

theorem witness_ingressPass : ∃ (pipe : Nat) (flips : List (Nat × Nat)) (ctrs : List Nat) (p : Pkt) (r : List Pkt) (s : State),
  (Instr.ingressPass pipe flips ctrs).wellFormed = true ∧ s.pipeActive pipe = true ∧ s.leaving clsPipe pipe = false ∧ s.recircTurn pipe = false ∧
  s.inQAt (s.unit clsPipe pipe UNIT.LOGICAL) = p :: r :=
  ⟨3, [], [], pkt, [], (placed [setUnit 0 3 UNIT.ROLE 1, setUnit 0 3 UNIT.LOGICAL 3, .put (.inQ 3 [pkt]), .put (.bodies 3 { State.reset.bodiesAt 3 with bytes := List.replicate 64 1, whole := true, refs := 1 })] State.reset), by decide +kernel⟩

theorem witness_ingressPass_b : ∃ (pipe : Nat) (p : Pkt) (r : List Pkt) (s : State), (Instr.ingressPass pipe [] []).wellFormed = true ∧
  s.fatalLatch = true ∧ s.pipeActive pipe = true ∧ s.leaving clsPipe pipe = false ∧ s.recircTurn pipe = false ∧
  s.inQAt (s.unit clsPipe pipe UNIT.LOGICAL) = p :: r ∧ 1 < (s.bodiesAt p.body).refs :=
  ⟨3, pkt, [], (placed [setUnit 0 3 UNIT.ROLE 1, setUnit 0 3 UNIT.LOGICAL 3, .put (.inQ 3 [pkt]), .put (.bodies 3 { State.reset.bodiesAt 3 with bytes := List.replicate 64 1, whole := true, refs := 2 }), .put .fatalLatch] State.reset), by decide +kernel⟩

theorem witness_recircPass : ∃ (pipe : Nat) (flips : List (Nat × Nat)) (p : Pkt) (k : Look) (r : List (Pkt × Look)) (s : State),
  (Instr.recircPass pipe flips).wellFormed = true ∧ s.pipeActive pipe = true ∧ s.recircTurn pipe = true ∧ s.recQAt pipe = (p, k) :: r :=
  ⟨3, [], pkt, { probe := .lpm false 0 5 [] }, [], (placed [setUnit 0 3 UNIT.ROLE 1, setUnit 0 3 UNIT.LOGICAL 3, .put (.recQ 3 [(pkt, { probe := .lpm false 0 5 [] })]), .put (.bodies 3 { State.reset.bodiesAt 3 with bytes := List.replicate 64 1, whole := true, refs := 1 })] State.reset), by decide +kernel⟩

theorem witness_egressPass : ∃ (pipe : Nat) (flips : List (Nat × Nat)) (p : Pkt) (r : List Pkt) (s : State),
  (Instr.egressPass pipe flips).wellFormed = true ∧ s.pipeActive pipe = true ∧ s.egQAt pipe = p :: r ∧ (s.egView p).ready = true ∧
  (s.txHoldAt p.dport).length < 256 :=
  ⟨3, [], pkt, [], (placed [setUnit 0 3 UNIT.ROLE 1, setUnit 0 3 UNIT.LOGICAL 3, .put (.egQ 3 [pkt]), .put (.bodies 3 { State.reset.bodiesAt 3 with bytes := List.replicate 64 1, whole := true, refs := 1 })] State.reset), by decide +kernel⟩

theorem witness_txSeqRelease : ∃ (port : Nat) (p : Pkt) (s : State), (Instr.txSeqRelease port).wellFormed = true ∧ s.txHoldAt port = [p] ∧
  p.txSeq = s.txExpAt port ∧ p.kind ≠ 5 :=
  ⟨3, pkt, (placed [.put (.txHold 3 [pkt])] State.reset), by decide +kernel⟩

theorem witness_txGapTimeout : ∃ (port : Nat) (p : Pkt) (s : State), (Instr.txGapTimeout port).wellFormed = true ∧ s.txHoldAt port = [p] ∧
  seqAfter p.txSeq (s.txExpAt port) = true ∧ s.since p.stamp 4000 = true :=
  ⟨3, { pkt with txSeq := 7 }, (placed [.put (.txHold 3 [{ pkt with txSeq := 7 }])] (resetAt 4000)), by decide +kernel⟩

theorem witness_frameTransmit : ∃ (port : Nat) (underrun : Bool) (p : Pkt) (r : List Pkt) (b : List Nat) (s : State),
  (Instr.frameTransmit port underrun).wellFormed = true ∧ s.rd (PORT_STAT.LINK_UP port) = 1 ∧ s.fatalLatch = false ∧ s.txNowAt port = none ∧
  s.macQAt port = p :: r ∧ (s.bodiesAt p.body).whole = true ∧ (s.bodiesAt p.body).tail = 0 ∧
  bitOf (s.gateStates port s.ns64) (p.queue % 8) = true ∧ b = (s.ptpSend port (s.stamped p) (s.pktBytes (s.stamped p))).1 :=
  ⟨3, false, pkt, [], (List.replicate 64 1), (placed [setF (PORT_STAT.LINK_UP 3) 1, .put (.macQ 3 [pkt]), .put (.bodies 3 { State.reset.bodiesAt 3 with bytes := List.replicate 64 1, whole := true, refs := 1 })] State.reset), by decide +kernel⟩

theorem witness_rprNop : ∃ (m : Nat) (data : Word) (s : State), (Instr.rprNop m data).wellFormed = true ∧ s.takesCmd m 9 = true ∧
  isManager m = true ∧ s.rd RPR_CMD_STAT.BUSY = 0 :=
  ⟨0x2000, 0, (placed [.put (.blkUp 9 true), setF (BLK_CTRL.ENABLE 9) 1] State.reset), by decide +kernel⟩

theorem witness_rprHandover : ∃ (m : Nat) (data : Word) (c u : Nat) (s : State), (Instr.rprHandover m data).wellFormed = true ∧
  s.takesCmd m 9 = true ∧ isManager m = true ∧ s.rd RPR_CMD_STAT.BUSY = 0 ∧ c = fieldOf data 10 8 ∧ u = fieldOf data 6 0 ∧ c ≤ 5 ∧
  u < classUnits c ∧ s.role c u = 1 ∧ s.recovAt c = [] ∧ s.spares c ≠ [] :=
  ⟨0x2000, 0x203, 2, 3, (placed [.put (.blkUp 9 true), setUnit 2 3 UNIT.ROLE 1, setUnit 2 8 UNIT.ROLE 2, setUnitX 2 8 (fun x => { x with passed := true }), setF (BLK_CTRL.ENABLE 9) 1] State.reset), by decide +kernel⟩

theorem witness_rprTest : ∃ (m : Nat) (data : Word) (c u : Nat) (s : State), (Instr.rprTest m data).wellFormed = true ∧ s.takesCmd m 9 = true ∧
  isManager m = true ∧ s.rd RPR_CMD_STAT.BUSY = 0 ∧ c = fieldOf data 10 8 ∧ u = fieldOf data 6 0 ∧ c < 5 ∧ u < classUnits c ∧ s.role c u = 1 ∧
  s.recovAt c = [] ∧ s.spares c ≠ [] :=
  ⟨0x2000, 0x203, 2, 3, (placed [.put (.blkUp 9 true), setUnit 2 3 UNIT.ROLE 1, setUnit 2 8 UNIT.ROLE 2, setUnitX 2 8 (fun x => { x with passed := true }), setF (BLK_CTRL.ENABLE 9) 1] State.reset), by decide +kernel⟩

theorem witness_rprRetire : ∃ (m : Nat) (data : Word) (c u : Nat) (s : State), (Instr.rprRetire m data).wellFormed = true ∧
  s.takesCmd m 9 = true ∧ isManager m = true ∧ s.rd RPR_CMD_STAT.BUSY = 0 ∧ c = fieldOf data 10 8 ∧ u = fieldOf data 6 0 ∧ c ≤ 2 ∧
  u < classUnits c ∧ s.role c u = 2 ∧ s.recovAt c = [] :=
  ⟨0x2000, 0x208, 2, 8, (placed [.put (.blkUp 9 true), setUnit 2 8 UNIT.ROLE 2, setF (BLK_CTRL.ENABLE 9) 1] State.reset), by decide +kernel⟩

theorem witness_rprUnretire : ∃ (m : Nat) (data : Word) (c u : Nat) (s : State), (Instr.rprUnretire m data).wellFormed = true ∧
  s.takesCmd m 9 = true ∧ isManager m = true ∧ s.rd RPR_CMD_STAT.BUSY = 0 ∧ c = fieldOf data 10 8 ∧ u = fieldOf data 6 0 ∧ c ≤ 2 ∧
  u < classUnits c ∧ s.role c u = 5 ∧ s.gateResult false = 0 ∧ s.jnlAwait < 61430 :=
  ⟨0x2000, 0x208, 2, 8, (placed [.put (.blkUp 9 true), setUnit 2 8 UNIT.ROLE 5, setF PPR_STAT.WINDOW_OPEN 1, setF PPR_STAT.BREACH 0, setF (BLK_CTRL.ENABLE 9) 1] State.reset), by decide +kernel⟩

theorem witness_rprRevert : ∃ (m : Nat) (data : Word) (c u : Nat) (r : Recov) (s : State), (Instr.rprRevert m data).wellFormed = true ∧
  s.takesCmd m 9 = true ∧ isManager m = true ∧ s.rd RPR_CMD_STAT.BUSY = 0 ∧ c = fieldOf data 10 8 ∧ u = fieldOf data 6 0 ∧ c ≤ 5 ∧
  u < classUnits c ∧ s.revertOf c u = some r :=
  ⟨0x2000, 0x203, 2, 3, { logical := 3, old := 8, new := some 3, fault := false, after := 0, revert := true }, (placed [.put (.blkUp 9 true), setUnit 2 3 UNIT.ROLE 2, setUnit 2 3 UNIT.HOME_VALID 1, setUnit 2 3 UNIT.HOME 3, setUnitX 2 3 (fun x => { x with passed := true }), setUnit 2 8 UNIT.ROLE 1, setUnit 2 8 UNIT.LOGICAL 3, setF (BLK_CTRL.ENABLE 9) 1] State.reset), by decide +kernel⟩

theorem witness_overheadBlockReceive : ∃ (port inst pos : Nat) (crcOk omf c cr ca rpf : Bool) (groupNum phyNum slotA slotB : Nat) (sync type ocode
    : Nat) (g k : Nat) (r : List Nat) (s : State),
  (Instr.overheadBlockReceive port inst pos (sync,type,ocode) crcOk omf c cr ca rpf groupNum phyNum slotA slotB).wellFormed = true ∧
  s.flxMember port = some (g, k) ∧ s.rd (PORT_STAT.LOS port) = 0 ∧ s.rd (PORT_STAT.LOL port) = 0 ∧ s.rd (PORT_STAT.HI_BER port) = 0 ∧
  inst < s.phyInsts g ∧ (s.instXAt (4 * port + inst)).lock = false ∧ (s.instXAt (4 * port + inst)).cands = (pos - ohFrame) :: r ∧ ohFrame ≤ pos ∧
  sync = 2 ∧ type = 0x4B ∧ ocode = 5 ∧ crcOk = true :=
  ⟨5, 0, 200000, true, false, true, false, false, false, 1, 0, 0, 0, 2, 0x4B, 5, 3, 0, [], (placed [.put (.flxHeld 5 (some 3)), useF (FLX_MEMBER.reg 3 0) 0xFFFFFFFF, useF (FLX_MEMBER.PORT 3 0) 5, .put (.instX 20 { State.reset.instXAt 0 with cands := [36312] })] State.reset), by decide +kernel⟩

theorem witness_overheadBlockReceive_b : ∃ (port inst pos : Nat) (crcOk omf c cr ca rpf : Bool) (groupNum phyNum slotA slotB : Nat) (sync type
    ocode : Nat) (g k : Nat) (s : State),
  (Instr.overheadBlockReceive port inst pos (sync,type,ocode) crcOk omf c cr ca rpf groupNum phyNum slotA slotB).wellFormed = true ∧
  s.flxMember port = some (g, k) ∧ k < 8 ∧ s.rd (PORT_STAT.LOS port) = 0 ∧ s.rd (PORT_STAT.LOL port) = 0 ∧ s.rd (PORT_STAT.HI_BER port) = 0 ∧
  inst < s.phyInsts g ∧ (s.instXAt (4 * port + inst)).lock = true ∧ (s.instXAt (4 * port + inst)).misses < 5 ∧
  pos = (s.instXAt (4 * port + inst)).last + ohFrame ∧ sync = 2 ∧ type = 0x4B ∧ ocode = 5 ∧ crcOk = true :=
  ⟨5, 0, 163688, true, false, true, false, false, true, 1, 0, 0, 0, 2, 0x4B, 5, 3, 0, (placed [.put (.flxHeld 5 (some 3)), useF (FLX_MEMBER.reg 3 0) 0xFFFFFFFF, useF (FLX_MEMBER.PORT 3 0) 5, .put (.instX 20 { State.reset.instXAt 0 with lock := true })] State.reset), by decide +kernel⟩

theorem witness_pfcFrameReceive : ∃ (port : Nat) (frame : List Byte) (f : List Nat) (tc : Nat) (s : State),
  (Instr.pfcFrameReceive port frame).wellFormed = true ∧ f = frame.map BitVec.toNat ∧ s.rd (PORT_STAT.LINK_UP port) = 1 ∧ isPauseFrame f = true ∧
  64 ≤ f.length ∧ fcsOk f = true ∧ (f.drop 14).take 2 = [0, 1] ∧ s.cfg (PORT_MAC_CFG.PAUSE_MODE port) = 1 ∧ tc < 8 ∧
  bitOf (s.cfg (PORT_PAUSE_CFG.RX_EN port)) tc = true :=
  ⟨2, ((linkPauseFrame 100).map (BitVec.ofNat 8)), (((linkPauseFrame 100).map (BitVec.ofNat 8)).map BitVec.toNat), 5, (placed [setF (PORT_STAT.LINK_UP 2) 1, useF (PORT_MAC_CFG.PAUSE_MODE 2) 1, useF (PORT_PAUSE_CFG.RX_EN 2) 0x20] State.reset), by decide +kernel⟩

theorem witness_pfcFrameReceive_b : ∃ (port : Nat) (frame : List Byte) (f : List Nat) (tc : Nat) (s : State),
  (Instr.pfcFrameReceive port frame).wellFormed = true ∧ f = frame.map BitVec.toNat ∧ s.rd (PORT_STAT.LINK_UP port) = 1 ∧ isPauseFrame f = true ∧
  64 ≤ f.length ∧ fcsOk f = true ∧ (f.drop 14).take 2 = [1, 1] ∧ s.cfg (PORT_MAC_CFG.PAUSE_MODE port) = 2 ∧ tc < 8 ∧
  bitOf (f.getD 17 0) tc = true ∧ bitOf (s.cfg (PORT_PAUSE_CFG.RX_EN port)) tc = true :=
  ⟨2, ((pfcFrame 0x20 100).map (BitVec.ofNat 8)), (((pfcFrame 0x20 100).map (BitVec.ofNat 8)).map BitVec.toNat), 5, (placed [setF (PORT_STAT.LINK_UP 2) 1, useF (PORT_MAC_CFG.PAUSE_MODE 2) 2, useF (PORT_PAUSE_CFG.RX_EN 2) 0x20] State.reset), by decide +kernel⟩

theorem witness_pfcPauseExpire : ∃ (port tc : Nat) (e : Nat) (s : State), (Instr.pfcPauseExpire port tc).wellFormed = true ∧
  s.pauseUntilAt (8 * port + tc) = some e ∧ e ≤ s.mono :=
  ⟨7, 1, 5, (placed [.put (.pauseUntil 57 (some 5))] (resetAt 9)), by decide +kernel⟩

theorem witness_pfcRefresh : ∃ (port : Nat) (a : Nat) (s : State), (Instr.pfcRefresh port).wellFormed = true ∧ s.pauseSentAtAt port = some a ∧
  s.xoffAt port &&& s.cfg (PORT_PAUSE_CFG.TX_EN port) ≠ 0 ∧ s.since a (s.bitTimes port (s.cfg (PORT_PAUSE_CFG.QUANTA port) * 256)) = true ∧
  s.rd (PORT_STAT.LINK_UP port) = 1 ∧ s.cfg (PORT_MAC_CFG.PAUSE_MODE port) = 2 ∧ s.cfg (PORT_PAUSE_CFG.QUANTA port) ≠ 0 ∧ s.txNowAt port = none :=
  ⟨4, 0, (placed [.put (.pauseSentAt 4 (some 0)), .put (.xoff 4 1), useF (PORT_PAUSE_CFG.TX_EN 4) 1, setF (PORT_STAT.LINK_UP 4) 1, useF (PORT_MAC_CFG.PAUSE_MODE 4) 2, useF (PORT_PAUSE_CFG.QUANTA 4) 10, useF (PORT_MODE.MODE 4) 1] (resetAt 1000000)), by decide +kernel⟩

theorem witness_timeSourceMeasure : ∃ (offset : Int) (present ref10m : Bool) (s : State),
  (Instr.timeSourceMeasure (present,ref10m) offset).wellFormed = true ∧ s.rd (BLK_CTRL.ENABLE 12) = 1 ∧ present = true ∧ s.timeSrc ≠ 0 ∧
  s.rd PTP_STAT.STATE = 1 ∧ s.lockCount = 15 ∧ -100 ≤ offset ∧ offset ≤ 100 :=
  ⟨(-40), true, true, (placed [setF (BLK_CTRL.ENABLE 12) 1, useF PTP_SRC_CFG.SRC 1, setF PTP_STAT.STATE 1, .put (.lockCount 15)] State.reset), by decide +kernel⟩

theorem witness_timeSourceMeasure_b : ∃ (offset : Int) (present ref10m : Bool) (s : State),
  (Instr.timeSourceMeasure (present,ref10m) offset).wellFormed = true ∧ s.rd (BLK_CTRL.ENABLE 12) = 1 ∧ present = false ∧
  s.rd PTP_STAT.STATE = 2 :=
  ⟨0, false, false, (placed [setF (BLK_CTRL.ENABLE 12) 1, setF PTP_STAT.STATE 2] State.reset), by decide +kernel⟩

theorem witness_ppsInEdge : ∃ (falling : Bool) (s : State), (Instr.ppsInEdge falling).wellFormed = true ∧ s.rd (BLK_CTRL.ENABLE 12) = 1 ∧
  s.on PTP_SRC_CFG.PPS_IN_FALL = falling :=
  ⟨false, (placed [setF (BLK_CTRL.ENABLE 12) 1, .put (.time16 (7000000123 * 65536)), useF PTP_PPS_CFG.PPS_IN_DELAY_NS 100] State.reset), by decide +kernel⟩

theorem witness_holdoverEnter : ∃ (s : State), (Instr.holdoverEnter).wellFormed = true ∧ 2 ≤ s.ppsMissed ∧ s.rd PTP_STAT.STATE = 2 :=
  ⟨(placed [setF PTP_STAT.STATE 2, .put (.ppsMissed 2)] State.reset), by decide +kernel⟩

theorem witness_pprNop : ∃ (m : Nat) (data : Word) (s : State), (Instr.pprNop m data).wellFormed = true ∧ s.takesCmd m 7 = true ∧
  isManager m = true ∧ s.rd PPR_CMD_STAT.BUSY = 0 :=
  ⟨0x2000, 0, (placed [.put (.blkUp 7 true), setF (BLK_CTRL.ENABLE 7) 1] State.reset), by decide +kernel⟩

theorem witness_pprBreachAck : ∃ (m : Nat) (data : Word) (s : State), (Instr.pprBreachAck m data).wellFormed = true ∧ s.takesCmd m 7 = true ∧
  isManager m = true ∧ s.rd PPR_CMD_STAT.BUSY = 0 ∧ s.gateResult true = 0 ∧ s.jnlAwait < 61430 ∧ s.rd PPR_STAT.SEAL_OPEN = 0 :=
  ⟨0x2000, 0, (placed [.put (.blkUp 7 true), setF PPR_STAT.WINDOW_OPEN 1, setF PPR_STAT.BREACH 1, setF (BLK_CTRL.ENABLE 7) 1] State.reset), by decide +kernel⟩

theorem witness_pprRtcSet : ∃ (m : Nat) (data : Word) (s : State), (Instr.pprRtcSet m data).wellFormed = true ∧ s.takesCmd m 7 = true ∧
  isManager m = true ∧ s.rd PPR_CMD_STAT.BUSY = 0 ∧ s.gateResult false = 0 ∧ s.jnlAwait < 61430 ∧ s.timeValid = false :=
  ⟨0x2000, 0, (placed [.put (.blkUp 7 true), setF PPR_STAT.WINDOW_OPEN 1, setF PPR_STAT.BREACH 0, setF PPR_RTC_SET_LO.SEC 9, setF (BLK_CTRL.ENABLE 7) 1] State.reset), by decide +kernel⟩

theorem witness_pprJtagUnlock : ∃ (m : Nat) (data : Word) (s : State), (Instr.pprJtagUnlock m data).wellFormed = true ∧ s.takesCmd m 7 = true ∧
  isManager m = true ∧ s.rd PPR_CMD_STAT.BUSY = 0 ∧ s.gateResult false = 0 ∧ s.jnlAwait < 61430 :=
  ⟨0x2000, 0, (placed [.put (.blkUp 7 true), setF PPR_STAT.WINDOW_OPEN 1, setF PPR_STAT.BREACH 0, setF (BLK_CTRL.ENABLE 7) 1] State.reset), by decide +kernel⟩

theorem witness_pprJtagUnlock_b : ∃ (m : Nat) (data : Word) (s : State), (Instr.pprJtagUnlock m data).wellFormed = true ∧ s.takesCmd m 7 = true ∧
  isManager m = true ∧ s.rd PPR_CMD_STAT.BUSY = 0 ∧ s.rd PPR_STAT.WINDOW_OPEN = 0 ∧ s.jnlAwait < 61430 :=
  ⟨0x2000, 0, (placed [.put (.blkUp 7 true), setF (BLK_CTRL.ENABLE 7) 1] State.reset), by decide +kernel⟩

theorem witness_pprJtagLock : ∃ (m : Nat) (data : Word) (s : State), (Instr.pprJtagLock m data).wellFormed = true ∧ s.takesCmd m 7 = true ∧
  isManager m = true ∧ s.rd PPR_CMD_STAT.BUSY = 0 :=
  ⟨0x2000, 0, (placed [.put (.blkUp 7 true), setF PPR_STAT.JTAG_UNLOCKED 1, setF (BLK_CTRL.ENABLE 7) 1] State.reset), by decide +kernel⟩

theorem witness_pprClose : ∃ (m : Nat) (data : Word) (s : State), (Instr.pprClose m data).wellFormed = true ∧ s.takesCmd m 7 = true ∧
  isManager m = true ∧ s.rd PPR_CMD_STAT.BUSY = 0 :=
  ⟨0x2000, 0, (placed [.put (.blkUp 7 true), setF PPR_STAT.WINDOW_OPEN 1, .put (.winEnd (some 9)), setF (BLK_CTRL.ENABLE 7) 1] State.reset), by decide +kernel⟩

theorem witness_fabricLinkDown : ∃ (link cause uncorr : Nat) (s : State), (Instr.fabricLinkDown link cause uncorr).wellFormed = true ∧
  s.linkState link = 5 ∧ cause < 16 ∧ cause ≠ 3 ∧ cause ≠ 6 ∧ cause ≠ 8 ∧ cause ≠ 9 :=
  ⟨30, 1, 7, (placed [setF (FLC_LINK_STAT.STATE 2 6) 5] State.reset), by decide +kernel⟩

theorem witness_fabricLinkDownEnd : ∃ (link : Nat) (s : State), (Instr.fabricLinkDownEnd link).wellFormed = true ∧ s.linkState link = 6 ∧
  s.since (s.linkXAt link).stateAt 1000000 = true ∧ s.fatalLatch = false ∧
  ((s.linkXAt link).downs.filter (fun d => !s.since d 60000000001)).length < max 1 (s.rd (FLC_CFG.FLAP_LIMIT (link / 12))) :=
  ⟨30, (placed [setF (FLC_LINK_STAT.STATE 2 6) 6] (resetAt 1000000)), by decide +kernel⟩

theorem witness_fabricLinkDownEnd_b : ∃ (link : Nat) (s : State), (Instr.fabricLinkDownEnd link).wellFormed = true ∧ s.linkState link = 6 ∧
  s.since (s.linkXAt link).stateAt 1000000 = true ∧ s.fatalLatch = false ∧
  max 1 (s.rd (FLC_CFG.FLAP_LIMIT (link / 12))) ≤ ((s.linkXAt link).downs.filter (fun d => !s.since d 60000000001)).length :=
  ⟨30, (placed [setF (FLC_LINK_STAT.STATE 2 6) 6, .put (.linkX 30 { State.reset.linkXAt 30 with downs := List.replicate 16 1000 })] (resetAt 1001000)), by decide +kernel⟩

theorem witness_linkCellReceive : ∃ (link : Nat) (cell : List Byte) (bad : Bool) (corrected : Nat) (s : State),
  (Instr.linkCellReceive link cell (bad,corrected)).wellFormed = true ∧ bad = false ∧ 3 ≤ s.linkState link ∧ s.linkState link ≤ 5 ∧
  (cellHead (cell.map BitVec.toNat)).crcOk = true ∧ (cellHead (cell.map BitVec.toNat)).type = 5 ∧
  (cellHead (cell.map BitVec.toNat)).lgen = s.rd (FLC_LINK_STAT.RX_GEN (link / 12) (link % 12)) ∧
  (cellHead (cell.map BitVec.toNat)).bits 67 64 = 3 :=
  ⟨30, ((linkCellBytes 9 3 [2]).map (BitVec.ofNat 8)), false, 3, (placed [setF (FLC_LINK_STAT.STATE 2 6) 5, setF (FLC_LINK_STAT.RX_GEN 2 6) 9] State.reset), by decide +kernel⟩

theorem witness_reachTimeout : ∃ (link : Nat) (a : Nat) (s : State), (Instr.reachTimeout link).wellFormed = true ∧
  (s.linkXAt link).reachAt = some a ∧ s.since a 1000000 = true :=
  ⟨30, 5, (placed [setF (FLC_LINK_STAT.REACH_VALID 2 6) 1, .put (.linkX 30 { State.reset.linkXAt 30 with reachAt := some 5 })] (resetAt 1000005)), by decide +kernel⟩

theorem witness_recReadout : ∃ (m rc : Nat) (data : Word) (s : State), (Instr.recReadout m rc data).wellFormed = true ∧ s.takesCmd m 13 = true ∧
  s.rd (SVC_REC.BUSY rc) = 0 :=
  ⟨0x2000, 3, 9, (placed [.put (.blkUp 13 true), setF (BLK_CTRL.ENABLE 13) 1] State.reset), by decide +kernel⟩

theorem witness_recReplay : ∃ (m rc : Nat) (data : Word) (s : State), (Instr.recReplay m rc data).wellFormed = true ∧ s.takesCmd m 13 = true ∧
  s.rd (SVC_REC.BUSY rc) = 0 :=
  ⟨0x2000, 3, 9, (placed [.put (.blkUp 13 true), setF (BLK_CTRL.ENABLE 13) 1] State.reset), by decide +kernel⟩

theorem witness_containRelease : ∃ (m : Nat) (data : Word) (s : State), (Instr.containRelease m data).wellFormed = true ∧
  s.takesWrite m 2 = true ∧ s.contained = true ∧ s.releasable = true :=
  ⟨0x2000, 0, (placed [.put (.blkUp 2 true), setF PCIE_CONTAIN.CONTAINED 1, setF PCIE_LINK_STAT.DL_UP 1, .put (.pcieFn 0 { State.reset.pcieFnAt 0 with bme := true }), .put (.perstLow false)] State.reset), by decide +kernel⟩

theorem witness_fatalCaptureClear : ∃ (m : Nat) (s : State), (Instr.fatalCaptureClear m).wellFormed = true ∧ s.takesWrite m 5 = true ∧
  s.fatalLatch = false :=
  ⟨0x2000, (placed [.put (.blkUp 5 true), setF CRY_FATAL_STAT.VALID 1] State.reset), by decide +kernel⟩

theorem witness_fatalCaptureClear_b : ∃ (m : Nat) (s : State), (Instr.fatalCaptureClear m).wellFormed = true ∧ s.takesWrite m 5 = true ∧
  s.fatalLatch = true :=
  ⟨0x2000, (placed [.put (.blkUp 5 true), setF CRY_FATAL_STAT.VALID 1, .put .fatalLatch] State.reset), by decide +kernel⟩

theorem witness_snapshotGo : ∃ (m : Nat) (data : Word) (s : State), (Instr.snapshotGo m data).wellFormed = true ∧ s.takesCmd m 10 = true ∧
  s.snap = none ∧ s.rd CNT_DUMP_HEAD.FULL = 0 :=
  ⟨0x2000, 0, (placed [.put (.blkUp 10 true), setF (BLK_CTRL.ENABLE 10) 1] State.reset), by decide +kernel⟩

theorem witness_dumpEnable : ∃ (m : Nat) (data : Word) (s : State), (Instr.dumpEnable m data).wellFormed = true ∧ s.takesWrite m 10 = true ∧
  s.rd CNT_DUMP_CFG.EN = 0 ∧ dumpSize (s.rd CNT_DUMP_MASK.FAMILY) ≤ s.rd CNT_DUMP_RING.SIZE_MIB * 2 ^ 20 ∧ s.rd CNT_DUMP_BASE_LO.reg % 4096 = 0 :=
  ⟨0x2000, 0, (placed [.put (.blkUp 10 true), setF CNT_DUMP_RING.SIZE_MIB 1, setF CNT_DUMP_MASK.FAMILY 1] State.reset), by decide +kernel⟩

theorem witness_jnlHostEnable : ∃ (m : Nat) (data : Word) (s : State), (Instr.jnlHostEnable m data).wellFormed = true ∧ s.takesWrite m 6 = true ∧
  s.rd JNL_HOST_CFG.EN = 0 :=
  ⟨0x2000, 0, (placed [.put (.blkUp 6 true), setF JNL_HOST_TAIL.INDEX 9] State.reset), by decide +kernel⟩

theorem witness_mainRestart : ∃ (m : Nat) (data : Word) (s : State), (Instr.mainRestart m data).wellFormed = true ∧ s.takesWrite m 1 = true ∧
  (m = 0 ∨ m = 0x6000) ∧ 3 ≤ s.rd DEV_STAT.STAGE ∧ s.rd DEV_RESTARTS.TOTAL < 100 :=
  ⟨0, 1, (placed [.put (.blkUp 1 true), setF DEV_STAT.STAGE 7, setF DEV_STAT.MAIN_UP 1] State.reset), by decide +kernel⟩

theorem witness_ppsOutEdge : ∃ (s : State), (Instr.ppsOutEdge).wellFormed = true ∧ s.on PTP_SRC_CFG.PPS_OUT_EN = true ∧ s.timeValid = true ∧
  s.ppsOutSec ≠ (s.ns64 + s.cfg PTP_PPS_CFG.PPS_OUT_ADV_NS) / 1000000000 ∧ (s.ns64 + s.cfg PTP_PPS_CFG.PPS_OUT_ADV_NS) % 1000000000 < 2 :=
  ⟨(placed [useF PTP_SRC_CFG.PPS_OUT_EN 1, setF PTP_STAT.TIME_VALID 1, .put (.time16 (7000000001 * 65536))] State.reset), by decide +kernel⟩

theorem witness_todRxLine : ∃ (line : List Byte) (n a : Nat) (s : State), (Instr.todRxLine line).wellFormed = true ∧
  s.rd (BLK_CTRL.ENABLE 12) = 1 ∧ s.on PTP_SRC_CFG.TOD_IN_EN = true ∧ parseTod (line.map BitVec.toNat) = some n ∧ s.ppsLast = some a ∧
  a + 10000000 ≤ s.mono ∧ s.mono ≤ a + 900000000 :=
  ⟨((todLine State.reset 77).map (BitVec.ofNat 8)), 77, 0, (placed [setF (BLK_CTRL.ENABLE 12) 1, useF PTP_SRC_CFG.TOD_IN_EN 1, .put (.ppsLast (some 0)), .put (.ppsGood (some 0))] (resetAt 20000000)), by decide +kernel⟩

theorem witness_todTxLine : ∃ (s : State), (Instr.todTxLine).wellFormed = true ∧ s.on PTP_SRC_CFG.TOD_OUT_EN = true ∧ s.todTxSec ≠ s.ppsOutSec ∧
  s.ppsOutMono + 100000000 ≤ s.mono ∧ s.mono ≤ s.ppsOutMono + 500000000 :=
  ⟨(placed [useF PTP_SRC_CFG.TOD_OUT_EN 1, .put (.ppsOutSec 7)] (resetAt 200000000)), by decide +kernel⟩

theorem witness_tsfPop : ∃ (m : Nat) (s : State), (Instr.tsfPop m).wellFormed = true ∧ s.serves m 12 = true ∧
  (s.hiLatchAt (pairKey m 12)).all (fun x => x.1 != 0x28C) = true :=
  ⟨0, (placed [.put (.blkUp 12 true)] State.reset), by decide +kernel⟩

theorem witness_timeStepAtSecond : ∃ (mode sec ns at_ : Nat) (s : State), (Instr.timeStepAtSecond).wellFormed = true ∧
  s.stepPend = some (mode, sec, ns, at_) ∧ at_ ≤ s.sec :=
  ⟨1, 3, 4, 5, (placed [.put (.stepPend (some (1, 3, 4, 5))), .put (.time16 (7000000123 * 65536))] State.reset), by decide +kernel⟩

theorem witness_slewEnd : ∃ (s : State), (Instr.slewEnd).wellFormed = true ∧ s.slewLeft = 0 :=
  ⟨(placed [.put (.units (regKey 12 0x234) 5)] State.reset), by decide +kernel⟩

theorem witness_autonegDone : ∃ (port partner : Nat) (s : State), (Instr.autonegDone port partner).wellFormed = true ∧
  s.on (PORT_MODE.AN_EN port) = true ∧ s.rd (PORT_STAT.CFG_ERR port) = 0 ∧ s.cfg (PORT_MODE.MODE port) ≠ 0 :=
  ⟨3, 0x20, (placed [useF (PORT_MODE.AN_EN 3) 1, useF (PORT_MODE.MODE 3) 5] State.reset), by decide +kernel⟩

theorem witness_linkTrainingDone : ∃ (port : Nat) (s : State), (Instr.linkTrainingDone port).wellFormed = true ∧
  s.on (PORT_MODE.LT_EN port) = true ∧ (s.on (PORT_MODE.AN_EN port) = false ∨ s.rd (PORT_STAT.AN_DONE port) = 1) ∧
  s.rd (PORT_STAT.CFG_ERR port) = 0 ∧ s.cfg (PORT_MODE.MODE port) ≠ 0 :=
  ⟨47, (placed [useF (PORT_MODE.LT_EN 47) 1, useF (PORT_MODE.MODE 47) 12] State.reset), by decide +kernel⟩

theorem witness_linkTrainingTimeout : ∃ (port : Nat) (s : State), (Instr.linkTrainingTimeout port).wellFormed = true ∧
  s.on (PORT_MODE.LT_EN port) = true ∧ s.rd (PORT_STAT.LT_DONE port) = 0 ∧
  (s.on (PORT_MODE.AN_EN port) = false ∨ s.rd (PORT_STAT.AN_DONE port) = 1) ∧ s.rd (PORT_STAT.CFG_ERR port) = 0 ∧
  s.cfg (PORT_MODE.MODE port) ≠ 0 ∧ s.cageReady port = true ∧ (s.cageXAt port).copper = true :=
  ⟨0, (placed [.put (.cageX 0 { State.reset.cageXAt 0 with copper := true }), useF (PORT_MODE.LT_EN 0) 1, useF (PORT_MODE.MODE 0) 12, setF (PORT_CAGE_STAT.PRESENT 0) 1, setF (PORT_CAGE_STAT.STATE 0) 2] State.reset), by decide +kernel⟩

theorem witness_linkTrainingTimeout_b : ∃ (port : Nat) (s : State), (Instr.linkTrainingTimeout port).wellFormed = true ∧
  (s.cageXAt port).copper = false :=
  ⟨3, (placed [setF (PORT_STAT.LINK_UP 3) 1] State.reset), by decide +kernel⟩

theorem witness_reqSend : ∃ (dev queue : Nat) (p : Pkt) (s : State), (Instr.reqSend dev queue).wellFormed = true ∧
  s.rd (BLK_CTRL.ENABLE 240) = 1 ∧ dev ≠ s.ownId ∧ s.stgAt (stgKey dev queue) = [p] ∧ s.fabOn = true ∧ dev ≤ s.rd FAB_SYS_CFG.MAX_DEV ∧
  s.linksTo dev (s.privileged p) ≠ [] ∧ (s.reqOrder dev).length < 2048 :=
  ⟨2, 40, pkt, (placed [fabricOn, linkTo 5 2, .put (.stg (stgKey 2 40) [pkt]), setF (BLK_CTRL.ENABLE 240) 1] State.reset), by decide +kernel⟩

theorem witness_reqResend : ∃ (dev seq : Nat) (x : ReqOut) (s : State), (Instr.reqResend dev seq).wellFormed = true ∧
  s.reqsAt (reqKey dev seq) = some x ∧ x.pkts.any (fun y => y.2 == none || y.2 == some 1) = true ∧ x.sends ≠ 0 ∧
  x.sends < max 1 (s.rd FAB_TIMERS.REQ_TRIES) ∧ s.since x.sentAt 20000 = true ∧ s.fabOn = true ∧ s.linksTo dev x.priv ≠ [] :=
  ⟨2, 7, { queue := 40, pkts := [(pkt, none)], sends := 1 }, (placed [fabricOn, linkTo 5 2, setF FAB_TIMERS.REQ_TRIES 4, .put (.reqs (reqKey 2 7) (some { queue := 40, pkts := [(pkt, none)], sends := 1 }))] (resetAt 20000)), by decide +kernel⟩

theorem witness_ansReceive : ∃ (link src : Nat) (msg : List Word) (m : Nat) (x : ReqOut) (p : Pkt) (s : State),
  (Instr.ansReceive link src msg).wellFormed = true ∧ m = msgOf msg ∧ mb m 127 124 = 2 ∧ src ≠ s.ownId ∧ s.fabOn = true ∧ s.linkUp link = true ∧
  mb m 85 78 = s.rd FAB_STAT.EPOCH ∧ s.reqs = [(reqKey src (mb m 101 86), some x)] ∧ x.pkts = [(p, none)] ∧ mb m 122 121 = 0 ∧ mb m 9 8 = 1 ∧
  s.cellOpenAt (ucStream src false) = [] ∧ s.cellOpenAt (ucStream src true) = [] ∧ s.xbWait = [] :=
  ⟨5, 2, (msgWords (2 * 2 ^ 124 + 7 * 2 ^ 86 + 256)), (2 * 2 ^ 124 + 7 * 2 ^ 86 + 256), { queue := 40, pkts := [(pkt, none)], sends := 1 }, pkt, (placed [fabricOn, linkTo 5 2, .put (.reqs (reqKey 2 7) (some { queue := 40, pkts := [(pkt, none)], sends := 1 }))] State.reset), by decide +kernel⟩

theorem witness_mcAckReceive : ∃ (link src : Nat) (msg : List Word) (m : Nat) (s : State), (Instr.mcAckReceive link src msg).wellFormed = true ∧
  m = msgOf msg ∧ mb m 127 124 = 4 ∧ src ≠ s.ownId ∧ s.fabOn = true ∧ s.linkUp link = true ∧ m % 2 ^ 32 ≤ s.mcOutAt src :=
  ⟨5, 2, (msgWords (4 * 2 ^ 124 + 100)), (4 * 2 ^ 124 + 100), (placed [fabricOn, linkTo 5 2, .put (.mcOut 2 250)] State.reset), by decide +kernel⟩

theorem witness_mcAckReceive_b : ∃ (link src : Nat) (msg : List Word) (m : Nat) (s : State), (Instr.mcAckReceive link src msg).wellFormed = true ∧
  m = msgOf msg ∧ mb m 127 124 = 4 ∧ src ≠ s.ownId ∧ s.fabOn = true ∧ s.linkUp link = true ∧ s.mcOutAt src < m % 2 ^ 32 :=
  ⟨5, 2, (msgWords (4 * 2 ^ 124 + 100)), (4 * 2 ^ 124 + 100), (placed [fabricOn, linkTo 5 2, .put (.mcOut 2 50)] State.reset), by decide +kernel⟩

theorem witness_updAbort : ∃ (m : Nat) (data : Word) (k : Nat) (s : State), (Instr.updAbort m data).wellFormed = true ∧ s.takesCmd m 8 = true ∧
  (m = 0 ∨ m = 0x2000) ∧ s.updOp = none ∧ s.storeQ = [] ∧ k = s.updTarget data :=
  ⟨0x2000, 0, 1, (placed [.put (.blkUp 8 true), setF (BLK_CTRL.ENABLE 8) 1] State.reset), by decide +kernel⟩

theorem witness_updRevoke : ∃ (m : Nat) (data : Word) (k : Nat) (s : State), (Instr.updRevoke m data).wellFormed = true ∧ s.takesCmd m 8 = true ∧
  (m = 0 ∨ m = 0x2000) ∧ s.updOp = none ∧ s.storeQ = [] ∧ s.gateResult false = 0 ∧ s.jnlAwait < 61430 ∧ k = fieldOf data 17 16 ∧ k ≠ 0 :=
  ⟨0x2000, 0x20000, 2, (placed [.put (.blkUp 8 true), setF PPR_STAT.WINDOW_OPEN 1, setF PPR_STAT.BREACH 0, setF (BLK_CTRL.ENABLE 8) 1] State.reset), by decide +kernel⟩

theorem witness_updSnapSave : ∃ (m : Nat) (data : Word) (k : Nat) (s : State), (Instr.updSnapSave m data).wellFormed = true ∧
  s.takesCmd m 8 = true ∧ (m = 0 ∨ m = 0x2000) ∧ s.updOp = none ∧ s.rd DEV_STAT.PF_WARN = 0 ∧ s.jnlSeq = 0 ∧
  s.regs.length + s.units.length + s.tables.length < 2 ^ 20 ∧ (k = if bitOf s.ctlNext.marked 0 then 1 else 0) :=
  ⟨0x2000, 0, 0, (placed [.put (.blkUp 8 true), setF (BLK_CTRL.ENABLE 8) 1] State.reset), by decide +kernel⟩

theorem witness_updSnapMark : ∃ (m : Nat) (data : Word) (k : Nat) (s : State), (Instr.updSnapMark m data).wellFormed = true ∧
  s.takesCmd m 8 = true ∧ (m = 0 ∨ m = 0x2000) ∧ s.updOp = none ∧ s.rd DEV_STAT.PF_WARN = 0 ∧ s.storeQ = [] ∧ k = fieldOf data 24 24 ∧
  (s.snapSlotAt k).isSome = true :=
  ⟨0x2000, 0x1000000, 1, (placed [.put (.blkUp 8 true), .put (.snapSlot 1 (some {})), setF (BLK_CTRL.ENABLE 8) 1] State.reset), by decide +kernel⟩

theorem witness_updSnapClear : ∃ (m : Nat) (data : Word) (k : Nat) (s : State), (Instr.updSnapClear m data).wellFormed = true ∧
  s.takesCmd m 8 = true ∧ (m = 0 ∨ m = 0x2000) ∧ s.updOp = none ∧ s.rd DEV_STAT.PF_WARN = 0 ∧ s.storeQ = [] ∧ k = fieldOf data 24 24 :=
  ⟨0x2000, 0x1000000, 1, (placed [.put (.blkUp 8 true), setF (BLK_CTRL.ENABLE 8) 1] State.reset), by decide +kernel⟩

theorem witness_reqReceive : ∃ (link src : Nat) (msg : List Word) (m q n : Nat) (s : State), (Instr.reqReceive link src msg).wellFormed = true ∧
  m = msgOf msg ∧ q = mb m 120 102 ∧ n = ((mb m 16 3 : Int) - s.ovh (s.rootPort q)).toNat ∧ mb m 127 124 = 1 ∧ src ≠ s.ownId ∧ s.fabOn = true ∧
  s.linkUp link = true ∧ s.srcEpochAt src = some (mb m 85 78) ∧ s.recs = [] ∧ mb m 122 121 = 0 ∧ (s.qe q).on QE.EN = true ∧
  (s.qe q).f QE.CLASS = 0 ∧ s.qRoom q n = true ∧ s.bpmAdmit 1 (s.rootPort q) (2 * n) = true :=
  ⟨5, 2, (msgWords (2 ^ 124 + 40 * 2 ^ 102 + 7 * 2 ^ 86 + 100 * 8)), (2 ^ 124 + 40 * 2 ^ 102 + 7 * 2 ^ 86 + 100 * 8), 40, 100, (placed [fabricOn, linkTo 5 2, .put (.srcEpoch 2 (some 0)), roomy 40] State.reset), by decide +kernel⟩

theorem witness_holdClear : ∃ (src seq : Nat) (g : GrantRec) (r : RecPkt) (n : Nat) (s : State), (Instr.holdClear src seq).wellFormed = true ∧
  s.recsAt (reqKey src seq) = some g ∧ g.pkts = [r] ∧ r.verdict = 1 ∧ n = ((r.len : Int) - s.ovh (s.rootPort g.queue)).toNat ∧
  (s.qe g.queue).on QE.EN = true ∧ (s.qe g.queue).f QE.CLASS = 0 ∧ r.step < 6 ∧ s.qRoom g.queue n = true ∧
  s.bpmAdmit 1 (s.rootPort g.queue) (2 * n) = true :=
  ⟨2, 7, { queue := 40, pkts := [{ len := 100 }] }, { len := 100 }, 100, (placed [fabricOn, linkTo 5 2, .put (.recs (reqKey 2 7) (some { queue := 40, pkts := [{ len := 100 }] })), roomy 40] State.reset), by decide +kernel⟩

theorem witness_grantExpire : ∃ (src seq : Nat) (g : GrantRec) (r : RecPkt) (s : State), (Instr.grantExpire src seq).wellFormed = true ∧
  s.recsAt (reqKey src seq) = some g ∧ g.pkts = [r] ∧ r.verdict = 0 ∧ s.since r.at_ (max 50 (s.rd FAB_TIMERS.GRANT_TMO_US) * 1000) = true :=
  ⟨2, 7, { queue := 40, pkts := [{ len := 100, verdict := 0, resv := 90 }] }, { len := 100, verdict := 0, resv := 90 }, (placed [.put (.recs (reqKey 2 7) (some { queue := 40, pkts := [{ len := 100, verdict := 0, resv := 90 }] }))] (resetAt 1000000)), by decide +kernel⟩

theorem witness_releaseReceive : ∃ (link src : Nat) (msg : List Word) (m : Nat) (g : GrantRec) (r : RecPkt) (s : State),
  (Instr.releaseReceive link src msg).wellFormed = true ∧ m = msgOf msg ∧ mb m 127 124 = 3 ∧ src ≠ s.ownId ∧ s.fabOn = true ∧
  s.linkUp link = true ∧ s.srcEpochAt src = some (mb m 85 78) ∧ s.recsAt (reqKey src (mb m 101 86)) = some g ∧ g.pkts = [r] ∧ r.verdict = 0 ∧
  bitOf m 0 = true :=
  ⟨5, 2, (msgWords (3 * 2 ^ 124 + 40 * 2 ^ 102 + 7 * 2 ^ 86 + 1)), (3 * 2 ^ 124 + 40 * 2 ^ 102 + 7 * 2 ^ 86 + 1), { queue := 40, pkts := [{ len := 100, verdict := 0, resv := 90 }] }, { len := 100, verdict := 0, resv := 90 }, (placed [fabricOn, linkTo 5 2, .put (.srcEpoch 2 (some 0)), .put (.recs (reqKey 2 7) (some { queue := 40, pkts := [{ len := 100, verdict := 0, resv := 90 }] }))] State.reset), by decide +kernel⟩

theorem witness_coldStart : ∃ (slot : Nat) (s : State), (Instr.coldStart slot).wellFormed = true ∧ s.coldT0 = none :=
  ⟨77, (placed [.put .fatalLatch] (resetAt 5000)), by decide +kernel⟩

theorem witness_railFail : ∃ (s : State), (Instr.railFail).wellFormed = true ∧ s.coldT0.isSome = true ∧ s.rd DEV_STAT.STAGE = 0 ∧
  s.stopped = false ∧ s.fatalLatch = false ∧ (List.range 144).all (fun l => s.linkState l == 0) = true :=
  ⟨(placed [.put (.coldT0 (some 0)), setF DEV_STAT.STAGE 0] State.reset), by decide +kernel⟩

theorem witness_stageAdvance_b : ∃ (ok : Bool) (defects : List Nat) (s : State), (Instr.stageAdvance ok defects).wellFormed = true ∧
  s.coldT0.isSome = true ∧ s.rd DEV_STAT.STAGE = 0 ∧ s.stopped = false ∧ s.latchDue = true ∧ s.slotPins < 1024 :=
  ⟨true, [], (placed [.put (.coldT0 (some 0)), setF DEV_STAT.STAGE 0, .put (.slotPins 77), .put (.latchDue true)] State.reset), by decide +kernel⟩

theorem witness_stageAdvance_c : ∃ (ok : Bool) (defects : List Nat) (s : State), (Instr.stageAdvance ok defects).wellFormed = true ∧
  s.coldT0.isSome = true ∧ s.rd DEV_STAT.STAGE = 3 ∧ s.rd DEV_STAT.RECOVERY = 0 ∧ s.bootAt.isSome = true ∧ s.fatalLatch = true :=
  ⟨true, [], (placed [.put (.coldT0 (some 0)), setF DEV_STAT.STAGE 3, .put (.bootAt (some 0)), .put .fatalLatch] State.reset), by decide +kernel⟩

theorem witness_stageAdvance_d : ∃ (ok : Bool) (defects : List Nat) (s : State), (Instr.stageAdvance ok defects).wellFormed = true ∧
  s.coldT0.isSome = true ∧ s.rd DEV_STAT.STAGE = 6 ∧ s.fullStart = true ∧ s.pegs = [] :=
  ⟨true, [], (placed [.put (.coldT0 (some 0)), setF DEV_STAT.STAGE 6, setF GRN_STAT.STATE 2] State.reset), by decide +kernel⟩

theorem witness_mainBootTimeout : ∃ (u : Nat) (s : State), (Instr.mainBootTimeout).wellFormed = true ∧ s.coldT0.isSome = true ∧
  s.rd DEV_STAT.STAGE = 3 ∧ s.rd DEV_STAT.RECOVERY = 0 ∧ s.bootAt = some u ∧ s.since u 2000000000 = true ∧ s.rd DEV_STAT.PF_WARN = 0 ∧
  (bootChoose s s.ctl.noPartial 8).2.1 = none :=
  ⟨0, (placed [.put (.coldT0 (some 0)), setF DEV_STAT.STAGE 3, .put (.bootAt (some 0))] (resetAt 2000000000)), by decide +kernel⟩

theorem witness_fabricLinkTrained : ∃ (link : Nat) (ok : Bool) (s : State), (Instr.fabricLinkTrained link ok).wellFormed = true ∧
  s.linkState link = 1 ∧ s.cfg (FLC_LINK_CTRL.PRBS (link / 12) (link % 12)) = 0 ∧ ok = true ∧ s.mono ≤ (s.linkXAt link).stateAt + 200000000 :=
  ⟨30, true, (placed [setF (FLC_LINK_STAT.STATE 2 6) 1] State.reset), by decide +kernel⟩

theorem witness_fabricLinkAlignEnd : ∃ (link : Nat) (locked : Bool) (s : State), (Instr.fabricLinkAlignEnd link locked).wellFormed = true ∧
  s.linkState link = 2 ∧ locked = true ∧ s.fatalLatch = false ∧ s.mono ≤ (s.linkXAt link).stateAt + 1000000 :=
  ⟨143, true, (placed [setF (FLC_LINK_STAT.STATE 11 11) 2] State.reset), by decide +kernel⟩

theorem witness_fabricLinkTestEnd : ∃ (link : Nat) (bad : Bool) (s : State), (Instr.fabricLinkTestEnd link bad).wellFormed = true ∧
  s.linkState link = 3 ∧ s.since (s.linkXAt link).stateAt 10000000 = true ∧ (s.linkXAt link).gotHello = true ∧ (s.linkXAt link).gotReach = true ∧
  (s.linkXAt link).testErr = false ∧ bad = false :=
  ⟨30, false, (placed [setF (FLC_LINK_STAT.STATE 2 6) 3, .put (.linkX 30 { State.reset.linkXAt 30 with gotHello := true, gotReach := true })] (resetAt 10000000)), by decide +kernel⟩

theorem witness_fabricLinkHoldoffEnd : ∃ (link : Nat) (s : State), (Instr.fabricLinkHoldoffEnd link).wellFormed = true ∧ s.linkState link = 4 ∧
  s.since (s.linkXAt link).stateAt (max 1 (s.rd (FLC_CFG.HOLDOFF_MS (link / 12))) * 1000000) = true :=
  ⟨30, (placed [setF (FLC_LINK_STAT.STATE 2 6) 4] (resetAt 1000000000)), by decide +kernel⟩

theorem witness_moduleStepTimeout : ∃ (port : Nat) (s : State), (Instr.moduleStepTimeout port).wellFormed = true ∧ (s.cageXAt port).step = 3 ∧
  s.since (s.cageXAt port).stepAt 3000000000 = true :=
  ⟨9, (placed [.put (.cageX 9 { State.reset.cageXAt 9 with step := 3 })] (resetAt 3000000000)), by decide +kernel⟩

theorem witness_moduleRemove : ∃ (port : Nat) (s : State), (Instr.moduleRemove port).wellFormed = true ∧ s.rd (PORT_CAGE_STAT.PRESENT port) = 1 :=
  ⟨9, (placed [setF (PORT_CAGE_STAT.reg 9) 0xFFFF] State.reset), by decide +kernel⟩

theorem witness_moduleAccessDone : ∃ (port : Nat) (ack : Bool) (data : Nat) (s : State),
  (Instr.moduleAccessDone port ack data).wellFormed = true ∧ s.rd (PORT_MOD_CMD.BUSY port) = 1 ∧ s.rd (PORT_MOD_CMD.WRITE port) = 0 ∧
  ack = true :=
  ⟨9, true, 0xA5, (placed [setF (PORT_MOD_CMD.BUSY 9) 1] State.reset), by decide +kernel⟩

theorem witness_moduleInterrupt : ∃ (port : Nat) (asserted : Bool) (s : State), (Instr.moduleInterrupt port asserted).wellFormed = true ∧
  s.rd (PORT_CAGE_STAT.PRESENT port) = 1 ∧ s.rd (PORT_CAGE_STAT.INT port) ≠ b2n asserted :=
  ⟨9, true, (placed [setF (PORT_CAGE_STAT.PRESENT 9) 1] State.reset), by decide +kernel⟩

theorem witness_modulePoll_b : ∃ (port : Nat) (ack lowPwr : Bool) (ident rev pwrClass : Nat) (copper : Bool) (apps : List Nat) (dpMs : Nat) (s :
    State), (Instr.modulePoll port ack lowPwr ident rev pwrClass copper apps dpMs).wellFormed = true ∧ (s.cageXAt port).step = 3 ∧ ack = true ∧
  lowPwr = true ∧ 0x40 ≤ rev ∧ rev ≤ 0x5F ∧ s.rd (PORT_CAGE_CTRL.PWR_MAX port) + 1 < pwrClass :=
  ⟨9, true, true, 0x1E, 0x52, 8, false, [0x54], 100, (placed [.put (.cageX 9 { State.reset.cageXAt 9 with step := 3 }), setF (PORT_CAGE_CTRL.PWR_MAX 9) 2] State.reset), by decide +kernel⟩

theorem witness_cellReceive : ∃ (link : Nat) (cell : List Byte) (bad : Bool) (corrected : Nat) (c : List Nat) (n : Nat) (s : State),
  (Instr.cellReceive link cell (bad,corrected)).wellFormed = true ∧ c = cell.map BitVec.toNat ∧ bad = false ∧ s.linkState link = 5 ∧
  s.fabOn = true ∧ (cellHead c).crcOk = true ∧ (cellHead c).type = 1 ∧ (cellHead c).lgen = s.rd (FLC_LINK_STAT.RX_GEN (link / 12) (link % 12)) ∧
  (cellHead c).bits 67 58 = s.ownId ∧ (cellHead c).bits 57 48 ≠ s.ownId ∧
  s.srcEpochAt ((cellHead c).bits 57 48) = some (bits (hdrWord (c.drop 10) 6) 31 24) ∧
  (s.rxStrAt (rxKey ((cellHead c).bits 57 48) ((cellHead c).bits 24 24))).next = some n ∧ 0 < ((cellHead c).bits 47 28 + 2 ^ 20 - n) % 2 ^ 20 ∧
  ((cellHead c).bits 47 28 + 2 ^ 20 - n) % 2 ^ 20 < 2 ^ 19 ∧ (s.rxStrAt (rxKey ((cellHead c).bits 57 48) ((cellHead c).bits 24 24))).held = [] :=
  ⟨5, ((cellBytes 1 9 (hb 58 1 + hb 48 2 + hb 28 12 + hb 26 3 + hb 16 49) (List.replicate 50 7)).map (BitVec.ofNat 8)), false, 4, (cellBytes 1 9 (hb 58 1 + hb 48 2 + hb 28 12 + hb 26 3 + hb 16 49) (List.replicate 50 7)), 10, (placed [fabricOn, linkTo 5 2, .put (.srcEpoch 2 (some 7)), .put (.rxStr (rxKey 2 0) { State.reset.rxStrAt 0 with next := some 10 })] State.reset), by decide +kernel⟩

theorem witness_cellReorderTimeout : ∃ (src stream : Nat) (n at_ : Nat) (c : List Nat) (s : State),
  (Instr.cellReorderTimeout src stream).wellFormed = true ∧ 4096 ≤ stream ∧ n < 2 ^ 20 ∧ (s.rxStrAt (rxKey src stream)).next = some n ∧
  (s.rxStrAt (rxKey src stream)).held = [((n + 1) % 2 ^ 20, at_, c)] ∧ s.since at_ 16000 = true :=
  ⟨2, 4099, 7, 0, (List.replicate 256 5), (placed [.put (.rxStr (rxKey 2 4099) { State.reset.rxStrAt 0 with next := some 7, held := [(8, 0, List.replicate 256 5)] })] (resetAt 16000)), by decide +kernel⟩

theorem witness_mcSend : ∃ (grp : Nat) (p : Pkt) (s : State), (Instr.mcSend grp).wellFormed = true ∧ s.rd (BLK_CTRL.ENABLE 242) = 1 ∧
  s.stgMc = [p] ∧ p.group = some grp ∧ (s.bodiesAt p.body).whole = true ∧ (s.bodiesAt p.body).tail = 0 ∧
  (s.tab 242 0 grp).ext.getLsbD s.ownId = false ∧ s.ownId < 1024 ∧ (s.tab 242 0 grp).ext ≠ 0 ∧ s.fabOn = true ∧
  s.linksToAll (s.tab 242 0 grp).ext ≠ [] ∧
  ((List.range 1024).all (fun d => !(s.tab 242 0 grp).ext.getLsbD d || decide (s.mcOutAt d + mcBytes p ≤ s.mcWindow))) = true :=
  ⟨9, { pkt with group := some 9 }, (placed [fabricOn, linkTo 5 2, .put (.stgMc [{ pkt with group := some 9 }]), .put (.bodies 3 { State.reset.bodiesAt 3 with bytes := List.replicate 100 1, whole := true, refs := 1 }), setTab 242 0 9 { State.reset.tab 242 0 9 with ext := 4 }, setF MCR_MC_CFG.WINDOW_KIB 100, setF (BLK_CTRL.ENABLE 242) 1] State.reset), by decide +kernel⟩

theorem witness_slotPlayout : ∃ (chan : Nat) (c : Nat × List Nat) (r : List (Nat × List Nat)) (s : State),
  (Instr.slotPlayout chan).wellFormed = true ∧ (s.rxChan chan).f (ed 0 31 31) = 1 ∧ (s.slotPlayAt chan).1 = none ∧ s.slotBufAt chan = c :: r ∧
  s.since c.1 ((s.rxChan chan).f (ed 1 4 0) * 1000) = true :=
  ⟨6, (0, [1]), [], (placed [setTab 240 2 6 (({} : Entry).put (ed 0 31 31) 1), .put (.slotBuf 6 [(0, [1])])] (resetAt 10000)), by decide +kernel⟩

theorem witness_unreachTimeout : ∃ (dev : Nat) (s : State), (Instr.unreachTimeout dev).wellFormed = true ∧ dev ≠ s.ownId ∧
  s.reachable dev = false ∧ s.since (s.unreachAtAt dev) (max 1 (s.rd FAB_TIMERS.UNREACH_MS) * 1000000) = true :=
  ⟨2, (placed [fabricOn, .put (.stg (stgKey 2 40) [pkt]), .put (.reqs (reqKey 2 7) (some { queue := 40, pkts := [(pkt, none)], sends := 1 }))] (resetAt 1000000000)), by decide +kernel⟩

theorem witness_calendarExchangeStep : ∃ (group : Nat) (multiframe : Bool) (s : State),
  (Instr.calendarExchangeStep group multiframe).wellFormed = true ∧ (s.flxExAt group).step = 2 ∧ multiframe = true :=
  ⟨4, true, (placed [.put (.flxEx 4 { State.reset.flxExAt 4 with step := 2 })] State.reset), by decide +kernel⟩

theorem witness_calendarExchangeStep_b : ∃ (group : Nat) (multiframe : Bool) (s : State),
  (Instr.calendarExchangeStep group multiframe).wellFormed = true ∧ (s.flxExAt group).step = 3 ∧ s.rd (FLX_STAT.CA_RX group) = 1 ∧
  s.xcArm = none :=
  ⟨4, false, (placed [.put (.flxEx 4 { State.reset.flxExAt 4 with step := 3 }), setF (FLX_STAT.CA_RX 4) 1] State.reset), by decide +kernel⟩

theorem witness_calendarCaTimeout : ∃ (group : Nat) (s : State), (Instr.calendarCaTimeout group).wellFormed = true ∧ (s.flxExAt group).step = 3 ∧
  s.rd (FLX_STAT.CA_RX group) = 0 ∧ s.since (s.flxExAt group).at_ 100000000 = true ∧ s.xcArm = none :=
  ⟨4, (placed [.put (.flxEx 4 { State.reset.flxExAt 4 with step := 3 })] (resetAt 100000000)), by decide +kernel⟩

theorem witness_xcCopyDone : ∃ (s : State), (Instr.xcCopyDone).wellFormed = true ∧ s.xcCopyAt.isSome = true :=
  ⟨(placed [.put (.xcCopyAt (some 5)), setTab 88 1 7 { State.reset.tab 88 1 7 with data := 3 }, setTab 88 0 9 { State.reset.tab 88 1 7 with data := 4 }] State.reset), by decide +kernel⟩

theorem witness_gateEntryChange : ∃ (port : Nat) (g : GateList) (s : State), (Instr.gateEntryChange port).wellFormed = true ∧
  s.gateList port s.ns64 = some g :=
  ⟨3, ((State.reset.gateList 3 0).getD { entries := gateCycle 1000 [(0x55, 600), (0xAA, 400)] 0, cycle := 1000, base := 0 }), (placed [.put (.gateX 3 { State.reset.gateXAt 3 with pend := some { list := [(0x55, 600), (0xAA, 400)], cycle := 1000 } })] State.reset), by decide +kernel⟩

theorem witness_gateEntryChange_b : ∃ (port : Nat) (s : State), (Instr.gateEntryChange port).wellFormed = true ∧ s.gateList port s.ns64 = none :=
  ⟨3, State.reset, by decide +kernel⟩

theorem witness_gateListChange : ∃ (port : Nat) (q : GatePend) (s : State), (Instr.gateListChange port).wellFormed = true ∧
  s.rd (BLK_CTRL.ENABLE (180 + port)) = 1 ∧ (s.gateXAt port).pend = some q ∧ q.at_ ≤ s.ns64 :=
  ⟨3, { list := [(0x55, 600), (0xAA, 400)], cycle := 1000 }, (placed [.put (.gateX 3 { State.reset.gateXAt 3 with pend := some { list := [(0x55, 600), (0xAA, 400)], cycle := 1000 } }), setF (BLK_CTRL.ENABLE 183) 1] State.reset), by decide +kernel⟩

theorem witness_tcamScrubRow : ∃ (flips : List (Nat × Nat)) (uncorr : Nat) (b g : Nat) (s : State),
  (Instr.tcamScrubRow flips uncorr).wellFormed = true ∧ flips = [] ∧ s.rd (BLK_CTRL.ENABLE 98) = 1 ∧ s.on ASM_SCRUB_CFG.EN = true ∧
  s.rd PWR_STAT.THROTTLING = 0 ∧ s.since s.scrubAt (max 64 (s.cfg ASM_SCRUB_CFG.INTERVAL) * 10 / 11) = true ∧
  (List.range 32).filter (fun k => bitOf (s.cfg ASM_BANK_PWR.PWR) k) = [b] ∧ bitOf uncorr b = true ∧ s.tcRowEntry b (s.scrubRow % 4096) = g ∧
  (s.tab (tcPage g) 0 g).on TCE.SHADOW_BAD = false :=
  ⟨[], 4, 2, 8192, (placed [useF ASM_SCRUB_CFG.EN 1, setF (BLK_CTRL.ENABLE 98) 1, useF ASM_BANK_PWR.PWR 4, setTab 98 0 8192 (({} : Entry).put TCE.VALID 1)] (resetAt 1000)), by decide +kernel⟩

theorem witness_tcamBankLoadDone : ∃ (bank : Nat) (s : State), (Instr.tcamBankLoadDone bank).wellFormed = true ∧ bank < 32 ∧
  (s.tcamLoadAt bank).isSome = true ∧ bitOf (s.cfg ASM_BANK_PWR.PWR) bank = true ∧ s.rd ASM_SPARE_STAT.COPYING = 0 :=
  ⟨6, (placed [.put (.tcamLoad 6 (some 0)), useF ASM_BANK_PWR.PWR 0x40] State.reset), by decide +kernel⟩

theorem witness_millSettleEnd : ∃ (a : Nat) (s : State), (Instr.millSettleEnd).wellFormed = true ∧ s.mill = [] ∧ s.millAll.causes = 0 ∧
  s.millAll.endAt = some a ∧ s.since a s.settleNs = true :=
  ⟨5, (placed [.put (.millAll { causes := 0, endAt := some 5 }), .put (.shpX 9 { State.reset.shpXAt 9 with f := 7, at_ := 2 })] (resetAt 10000000)), by decide +kernel⟩

theorem witness_spillBatch : ∃ (queue : Nat) (hdr : Nat) (accs : List Nat) (p : Pkt) (s : State),
  (Instr.spillBatch queue (hdr,accs)).wellFormed = true ∧ s.rd (BLK_CTRL.ENABLE 145) = 1 ∧ (s.qxAt queue).spill = true ∧
  (s.qxAt queue).writing = none ∧ s.frontBatch (s.qxAt queue).tail 0 0 = ([p], true) ∧
  s.actsFit (.andThen (headerAccess 2 hdr) (each accs (memAccess 2 0 false))) = true ∧ s.spillTarget queue (s.sumBytes [p]) [p] = some 2 ∧
  (s.bufsAt p.buf).held ≤ 1 :=
  ⟨40, 0, [], pkt, (placed [.put (.qx 40 { spill := true, tail := [pkt, { pkt with body := 4 }] }), .put (.bodies 3 { State.reset.bodiesAt 3 with whole := true, refs := 1 }), .put (.bufs 0 { size := 65536, held := 1, body := 3 }), .put (.tier2On true), setTab 145 1 0 (({} : Entry).put PROF.HBM_LIMIT 1000), setF (BPM_REQ_CFG.HBM_MIN 0) 100, setF (BPM_REQ_CFG.HBM_MAX 0) 100, setF (BLK_CTRL.ENABLE 145) 1] State.reset), by decide +kernel⟩

theorem witness_spillWriteAck : ∃ (queue : Nat) (w : Batch) (s : State), (Instr.spillWriteAck queue).wellFormed = true ∧
  (s.qxAt queue).writing = some w ∧ w.tier = 2 ∧ (s.qProf queue).f PROF.HEAD_KEEP = 0 :=
  ⟨40, { tier := 2, n := 1, seg := [(pkt, 256, none)] }, (placed [.put (.qx 40 { spill := true, tail := [pkt, { pkt with body := 4 }], t1 := 512, writing := some { tier := 2, n := 1, seg := [(pkt, 256, none)] } }), .put (.bufs 0 { size := 256, held := 1, body := 3 })] State.reset), by decide +kernel⟩

theorem witness_segmentReadDone : ∃ (queue seg hdrUe : Nat) (desc payload ce ue accs : List Nat) (a g : Seg) (s : State),
  (Instr.segmentReadDone queue seg hdrUe desc payload ce ue accs).wellFormed = true ∧ (s.qxAt queue).mid = [a, g] ∧ a.read = false ∧
  a.reading = false ∧ g.reading = true ∧ g.read = false ∧ a.id ≠ g.id ∧ seg = 0 ∧ hdrUe = 0 ∧ desc = [] ∧ ce = [] ∧ ue = [] ∧
  s.actsFit (.andThen (headerRead g.tier g.hdr hdrUe) (each accs (memAccess g.tier 1 false))) = true ∧ (s.qProf queue).f PROF.HEAD_KEEP = 0 :=
  ⟨40, 0, 0, [], [], [], [], [], { id := 1 }, { id := 2, reading := true }, (placed [.put (.qx 40 { spill := true, mid := [{ id := 1 }, { id := 2, reading := true }] })] State.reset), by decide +kernel⟩

theorem witness_spdRead : ∃ (ch : Nat) (slot0 slot1 : List Nat) (d : Nat) (s : State), (Instr.spdRead ch slot0 slot1).wellFormed = true ∧
  s.rd (DDRC_STAT.STATE ch) = 1 ∧ (s.memXAt (ch + 4)).ident = false ∧ d < 16 ∧ d ≠ ch ∧ (s.memXAt (d + 4)).ident = false ∧ slot0 ≠ [] :=
  ⟨6, [1, 1, 1, 1, 2, 128, 77, 5, 1, 1, 8800], [], 3, (placed [setF (DDRC_STAT.STATE 6) 1] State.reset), by decide +kernel⟩

theorem witness_spdCmdDone : ∃ (ch : Nat) (ack : Bool) (data : Nat) (s : State), (Instr.spdCmdDone ch ack data).wellFormed = true ∧
  s.rd (DDRC_SPD_CMD.BUSY ch) = 1 ∧ ack = true :=
  ⟨6, true, 0x5A, (placed [setF (DDRC_SPD_CMD.BUSY 6) 1] State.reset), by decide +kernel⟩

theorem witness_moduleTempPoll : ∃ (ch : Nat) (t0 t1 : Int) (s : State), (Instr.moduleTempPoll ch t0 t1).wellFormed = true ∧
  s.memReady (ch + 4) = true ∧ s.since (s.memXAt (ch + 4)).tempAt 100000000 = true ∧ s.rd (DDRC_MOD.TYPE ch 0) ≠ 0 :=
  ⟨6, (-3), 0, (placed [setF (tgtState 10) 3, setF (DDRC_MOD.TYPE 6 0) 1] (resetAt 100000000)), by decide +kernel⟩

theorem witness_memTrainingDone : ∃ (target : Nat) (ok : Bool) (lanes : List Nat) (s : State),
  (Instr.memTrainingDone target ok lanes).wellFormed = true ∧ s.rd (tgtState target) = stTraining target ∧ (s.memXAt target).trained = false ∧
  (s.memXAt target).failing ≠ 4 ∧ ok = true ∧ lanes = [] :=
  ⟨2, true, [], (placed [setF (tgtState 2) 1] State.reset), by decide +kernel⟩

theorem witness_controlAreaFilled : ∃ (granary : Bool) (k : Nat) (s : State), (Instr.controlAreaFilled granary).wellFormed = true ∧
  granary = false ∧ s.tier2On = false ∧ s.tier2Rebuild = none ∧ stackTargets.filter (fun t => s.rd (tgtState t) == stTraining t) = [k] ∧
  (s.memXAt k).trained = true :=
  ⟨false, 2, (placed [setF (tgtState 2) 1, .put (.memX 2 { State.reset.memXAt 2 with trained := true })] State.reset), by decide +kernel⟩

theorem witness_regionIdleOffer : ∃ (sru : Nat) (u : Nat) (s : State), (Instr.regionIdleOffer sru).wellFormed = true ∧ s.pasrOn = true ∧
  s.rd GRN_STAT.STATE = 2 ∧ u = s.rd DDRC_SHARE.SRU_GIB ∧ 0 < u ∧ (sru + 1) * u ≤ s.rd GRN_CAP.BUF_REGIONS ∧ s.sruMask.contains sru = false ∧
  regionsIn (s.freeAges.filter (fun x => s.since x.2.1 1000000000)) sru = u ∧ s.rd GRN_STAT.IDLE_REGIONS + u < 2 ^ 16 :=
  ⟨3, 4, (placed [setF GRN_CFG.PASR_EN 1, setF GRN_STAT.STATE 2, setF GRN_CAP.BUF_REGIONS 64, setF DDRC_SHARE.SRU_GIB 4, .put (.freeAges [(3, 0, 4)])] (resetAt 1000000000)), by decide +kernel⟩

theorem witness_retrainPause : ∃ (target : Nat) (drift : Bool) (lanes : List Nat) (s : State),
  (Instr.retrainPause target drift lanes).wellFormed = true ∧ s.memReady target = true ∧ s.pauseFree target = true ∧
  s.since (s.memXAt target).pauseAt (max 1 (s.cfg (tgtRetrainMs target)) * 1000000) = true ∧ drift = false ∧ lanes = [] :=
  ⟨2, false, [], (placed [setF (tgtState 2) 2] (resetAt 1000000000)), by decide +kernel⟩

theorem witness_retrainRepeat : ∃ (target : Nat) (drift : Bool) (a : Nat) (s : State), (Instr.retrainRepeat target drift).wellFormed = true ∧
  s.memReady target = true ∧ isStack target = false ∧ s.pauseFree target = true ∧ (s.memXAt target).driftAt = some a ∧ s.since a 10000 = true ∧
  drift = true ∧ (s.memXAt target).drifts < 2 :=
  ⟨6, true, 0, (placed [setF (tgtState 6) (stReady 6), .put (.memX 6 { State.reset.memXAt 6 with driftAt := some 0, drifts := 1 })] (resetAt 10000)), by decide +kernel⟩

theorem witness_retrainRepeat_b : ∃ (target : Nat) (drift : Bool) (a : Nat) (s : State), (Instr.retrainRepeat target drift).wellFormed = true ∧
  s.memReady target = true ∧ isStack target = true ∧ s.pauseFree target = true ∧ (s.memXAt target).driftAt = some a ∧ s.since a 10000 = true :=
  ⟨2, true, 0, (placed [setF (tgtState 2) 2, .put (.memX 2 { State.reset.memXAt 2 with driftAt := some 0, drifts := 1 })] (resetAt 10000)), by decide +kernel⟩

theorem witness_actTableClear : ∃ (s : State), (Instr.actTableClear).wellFormed = true ∧ s.since s.actAt 32000000 = true ∧ s.actWait = [] :=
  ⟨(placed [.put (.actTab 7 { rows := [(3, 4)], total := 4 })] (resetAt 32000000)), by decide +kernel⟩

theorem witness_actTableClear_b : ∃ (tier cls c : Nat) (s : State), (Instr.actTableClear).wellFormed = true ∧ s.since s.actAt 32000000 = true ∧
  s.actWait = [(tier, cls, c)] :=
  ⟨2, 1, 0, (placed [.put (.actWait [(2, 1, 0)])] (resetAt 32000000)), by decide +kernel⟩

theorem witness_memScrub : ∃ (target : Nat) (ce ue : List Nat) (c : Nat) (s : State), (Instr.memScrub target ce ue).wellFormed = true ∧
  s.memReady target = true ∧ s.rd PWR_STAT.THROTTLING = 0 ∧
  s.since (s.memXAt target).scrubAt (max 1 (s.cfg (tgtScrubH target)) * 3600000000000) = true ∧ ce = [c] ∧ ue = [] ∧
  (s.memXAt target).drams = [] :=
  ⟨2, [77], [], 77, (placed [setF (tgtState 2) 2] (resetAt 4000000000000000)), by decide +kernel⟩

theorem witness_rowRepairDone : ∃ (target : Nat) (row : Nat) (r : List Nat) (s : State), (Instr.rowRepairDone target).wellFormed = true ∧
  (s.memXAt target).repairing = row :: r :=
  ⟨2, 77, [78], (placed [.put (.memX 2 { State.reset.memXAt 2 with repairing := [77, 78] })] State.reset), by decide +kernel⟩

theorem witness_memOutOfService : ∃ (target : Nat) (s : State), (Instr.memOutOfService target).wellFormed = true ∧ isStack target = true ∧
  s.memReady target = true ∧ (s.memXAt target).failing ≠ 0 ∧ (s.memXAt target).failing < 8 :=
  ⟨2, (placed [setF (tgtState 2) 2, .put (.memX 2 { State.reset.memXAt 2 with failing := 2, trained := true })] State.reset), by decide +kernel⟩

theorem witness_tier2RebuildDone : ∃ (s : State), (Instr.tier2RebuildDone).wellFormed = true ∧ s.tier2Rebuild.isSome = true :=
  ⟨(placed [.put (.tier2Rebuild (some 4)), setF (tgtState 2) 2] State.reset), by decide +kernel⟩

theorem witness_learnerApply : ∃ (pipe : Nat) (e : LearnEvt) (r : List LearnEvt) (i : Nat) (old new : Entry) (s : State),
  (Instr.learnerApply pipe).wellFormed = true ∧ s.learnQAt pipe = e :: r ∧ e.gen = s.curGen clsPipe e.logical ∧
  s.findMac e.bd e.mac = some (i, old) ∧ e.move = true ∧ old.on MAC.STATIC = false ∧ old.f MAC.LIF ≠ e.lif ∧
  new = (old.put MAC.LIF e.lif).put MAC.PORT e.port ∧ s.jnlAccepts (tableRecord (0x4000 + pipe) 102 0 3 i (entryAux (some new)) s) = true :=
  ⟨3, { bd := 5, mac := 7, lif := 9, port := 2, move := true }, [], 0x3FF800, (({ key := BitVec.ofNat 256 (macKey 5 7) } : Entry).put MAC.LIF 4), ((({ key := BitVec.ofNat 256 (macKey 5 7) } : Entry).put MAC.LIF 4).put MAC.LIF 9 |>.put MAC.PORT 2), (placed [.put (.learnQ 3 [{ bd := 5, mac := 7, lif := 9, port := 2, move := true }]), setTab 102 0 0x3FF800 (({ key := BitVec.ofNat 256 (macKey 5 7) } : Entry).put MAC.LIF 4)] State.reset), by decide +kernel⟩

theorem witness_ageSweep : ∃ (j : Nat) (e : Entry) (s : State), (Instr.ageSweep).wellFormed = true ∧ s.rd (BLK_CTRL.ENABLE 102) = 1 ∧ j < 2048 ∧
  s.rd L2B_AGE_CFG.EN = 1 ∧ s.since s.sweepAt (min 1000000 (max 1 (s.rd L2B_AGE_CFG.PERIOD)) * 1000000000 / s.sweepPlaces) = true ∧
  s.sweepPos + 1 = s.sweepPlaces ∧ s.jnlHeld.any (fun x => x.what == 5) = false ∧ s.tab? 102 0 (0x3FF800 + j) = some e ∧ e.on MAC.STATIC = false ∧
  e.on MAC.HIT = true :=
  ⟨3, (({ key := BitVec.ofNat 256 (macKey 5 7) } : Entry).put MAC.HIT 1), (placed [setF L2B_AGE_CFG.EN 1, setTab 102 0 0x3FF803 (({ key := BitVec.ofNat 256 (macKey 5 7) } : Entry).put MAC.HIT 1), setF (BLK_CTRL.ENABLE 102) 1] (resetAt 1000000000000000)), by decide +kernel⟩

theorem witness_l2bNtfPop : ∃ (m : Nat) (s : State), (Instr.l2bNtfPop m).wellFormed = true ∧ s.serves m 102 = true ∧
  (s.hiLatchAt (pairKey m 102)).all (fun x => x.1 != 0x22C) = true :=
  ⟨0, (placed [.put (.blkUp 102 true), .put (.l2bNtf [(1, 2, 3, 4), (5, 6, 7, 8)])] State.reset), by decide +kernel⟩

theorem witness_lpmRebuildStart : ∃ (v6 : Bool) (f : Fam) (s : State), (Instr.lpmRebuildStart v6).wellFormed = true ∧
  (f = (if v6 = true then .lpm6 else .lpm4)) ∧ s.rd (BLK_CTRL.ENABLE 100) = 1 ∧ s.rd (buildOf f) = 0 ∧ s.rebuildDue f = true :=
  ⟨true, .lpm6, (placed [setF (BLK_CTRL.ENABLE 100) 1, setF LPM_FILTER_CFG.REBUILD6 1] State.reset), by decide +kernel⟩

theorem witness_lpmRebuildDone : ∃ (v6 : Bool) (f : Fam) (s : State), (Instr.lpmRebuildDone v6).wellFormed = true ∧
  (f = (if v6 = true then .lpm6 else .lpm4)) ∧ s.rd (buildOf f) = 1 :=
  ⟨false, .lpm4, (placed [setF LPM_STAT.BUILD4 1] State.reset), by decide +kernel⟩

theorem witness_stashReinsert : ∃ (family index : Nat) (f : Fam) (x y : Nat × Nat) (e : Entry) (s : State),
  (Instr.stashReinsert family index).wellFormed = true ∧ famOf family = some f ∧ x = s.slotAt f true 0 index ∧ s.inSlot f x = some e ∧
  (s.candidates f (f.keyOf e)).findSome? (s.freeSlot f) = some y :=
  ⟨4, 3, .lifmap, (2, 0x3FF803), (2, 118448), { data := 5 }, (placed [setF (LPM_MEM_USE.USE 30) 4, setTab 101 2 0x3FF803 { data := 5 }] State.reset), by decide +kernel⟩

theorem witness_bfdTx : ∃ (sess : Nat) (dev port qb n : Nat) (s : State), (Instr.bfdTx sess).wellFormed = true ∧ s.rd (BLK_CTRL.ENABLE 13) = 1 ∧
  s.rd SVC_CFG.BFD_EN = 1 ∧ (s.tab 13 0 sess).on BFD.VALID = true ∧ (s.bfdXAt sess).due ≤ s.mono ∧
  s.resolveNh ((s.tab 13 0 sess).f BFD.NH_ID) = .unicast dev port qb n ∧
  (s.stgRefuses
    { body := 0, kind := 3, srcDev := s.ownId, dev := dev, dport := port, queue := (qb + (s.tab 13 0 sess).f BFD.TX_TC) % 2 ^ 19, nh := some n, tc := (s.tab 13 0 sess).f BFD.TX_TC, lenSrc := 1, frameLen := (s.bfdPacket sess).length + 4, declMax := (s.bfdPacket sess).length + 4 }) = none :=
  ⟨9, 2, 0, 40, 7, (placed [setF SVC_CFG.BFD_EN 1, setTab 13 0 9 ((({} : Entry).put BFD.VALID 1).put BFD.NH_ID 7), setTab 103 0 7 (((({} : Entry).put NH.VALID 1).put NH.DEST_DEVICE 2).put NH.QUEUE_BASE 40), setF (BLK_CTRL.ENABLE 13) 1] State.reset), by decide +kernel⟩

theorem witness_bfdDetectExpire : ∃ (sess : Nat) (a : Nat) (s : State), (Instr.bfdDetectExpire sess).wellFormed = true ∧ s.rd SVC_CFG.BFD_EN = 1 ∧
  (s.tab 13 0 sess).on BFD.VALID = true ∧ (s.tab 13 0 sess).f BFD.STATE = 3 ∧ (s.bfdXAt sess).rxAt = some a ∧ (s.bfdXAt sess).rMult ≠ 0 ∧
  s.since a (bfdDetectUs (s.tab 13 0 sess) (s.bfdXAt sess) * 1000) = true ∧ (s.tab 13 0 sess).on BFD.DOWN_ACT = false :=
  ⟨9, 0, (placed [setF SVC_CFG.BFD_EN 1, setTab 13 0 9 ((({} : Entry).put BFD.VALID 1).put BFD.STATE 3), .put (.bfdX 9 { State.reset.bfdXAt 9 with rxAt := some 0, rMult := 3 })] (resetAt 100000000000)), by decide +kernel⟩

theorem witness_bfdRx : ∃ (p : Pkt) (i : Nat) (s : State), (Instr.bfdRx).wellFormed = true ∧ s.svcRx = [p] ∧ p.app = 4 ∧
  (s.bodiesAt p.body).whole = true ∧ (s.bodiesAt p.body).tail = 0 ∧ s.bfdBad p (s.appBytes p 24) = false ∧ (bfdMsg (s.appBytes p 24)).yours ≠ 0 ∧
  i = (bfdMsg (s.appBytes p 24)).yours % 2 ^ 14 ∧ bfdConfirms (s.tab 13 0 i) (s.bfdXAt i) (bfdMsg (s.appBytes p 24)) = true ∧
  (s.tab 13 0 i).on BFD.ADMIN_DOWN = false :=
  ⟨{ pkt with app := 4 }, 9, (placed [.put (.svcRx [{ pkt with app := 4 }]), .put (.bodies 3 { State.reset.bodiesAt 3 with bytes := udpPacket false 1 2 49152 3784 255 [0x20, 0xC0, 3, 24, 0, 0, 0, 5, 0, 0, 0, 9, 0, 0, 0, 0, 0, 0, 0, 0, 0, 0, 0, 0], whole := true, refs := 1 }), setTab 13 0 9 (((({} : Entry).put BFD.VALID 1).put BFD.STATE 3).put BFD.REMOTE_DISC 5), .put (.bfdX 9 { State.reset.bfdXAt 9 with rMult := 3, rMinTx := 0, rMinRx := 0 })] State.reset), by decide +kernel⟩

theorem witness_serviceCorePacket : ∃ (core : Nat) (k i : Nat) (p : Pkt) (r : List Pkt) (s : State),
  (Instr.serviceCorePacket core).wellFormed = true ∧ (s.coreServes core).find? (fun k => !(s.svcQAt k).isEmpty) = some k ∧ s.svcQAt k = p :: r ∧
  p.app = 4 ∧ (bfdMsg (s.appBytes p 75)).yours ≠ 0 ∧ i = (bfdMsg (s.appBytes p 75)).yours % 2 ^ 14 ∧ (s.tab 13 0 i).on BFD.VALID = true ∧
  s.rd SVC_CFG.BFD_EN = 1 :=
  ⟨3, 5, 9, { pkt with app := 4 }, [], (placed [setUnit clsScore 3 UNIT.ROLE 1, setUnit clsScore 3 UNIT.LOGICAL 5, setF SVC_CFG.BFD_EN 1, .put (.svcQ 5 [{ pkt with app := 4 }]), .put (.bodies 3 { State.reset.bodiesAt 3 with bytes := udpPacket false 1 2 49152 3784 255 [0x20, 0xC0, 3, 24, 0, 0, 0, 5, 0, 0, 0, 9, 0, 0, 0, 0, 0, 0, 0, 0, 0, 0, 0, 0], whole := true, refs := 1 }), setTab 13 0 9 (((({} : Entry).put BFD.VALID 1).put BFD.STATE 3).put BFD.REMOTE_DISC 5)] State.reset), by decide +kernel⟩

theorem witness_svcNtfPop : ∃ (m : Nat) (s : State), (Instr.svcNtfPop m).wellFormed = true ∧ s.serves m 13 = true ∧
  (s.hiLatchAt (pairKey m 13)).all (fun x => x.1 != 0x22C) = true :=
  ⟨0, (placed [.put (.blkUp 13 true), .put (.svcNtf [(1, 2, 3), (4, 5, 6)])] State.reset), by decide +kernel⟩

theorem witness_epochBoundary : ∃ (cls unit : Nat) (whole : Bool) (s : State), (Instr.epochBoundary cls unit whole).wellFormed = true ∧ cls ≤ 1 ∧
  s.role cls unit = 1 ∧ whole = true :=
  ⟨0, 3, true, (placed [setUnit 0 3 UNIT.ROLE 1, setUnit 0 3 UNIT.LOGICAL 3] State.reset), by decide +kernel⟩

theorem witness_unitErrorReport : ∃ (cls unit : Nat) (kind word : Nat) (s : State),
  (Instr.unitErrorReport cls unit (kind,word)).wellFormed = true ∧ cls = 4 ∧ kind ≠ 0x20 ∧ unit < classUnits cls ∧ s.role cls unit = 1 ∧
  (s.spareOf cls).isSome = true ∧ s.declared = [] :=
  ⟨4, 7, 0x21, 0, (placed [setUnit 4 7 UNIT.ROLE 1, setUnit 4 64 UNIT.ROLE 2, setUnitX 4 64 (fun x => { x with passed := true })] State.reset), by decide +kernel⟩

theorem witness_faultTakeover : ∃ (cls : Nat) (u cause : Nat) (s : State), (Instr.faultTakeover cls).wellFormed = true ∧
  s.declared = [(cls, u, cause)] ∧ cls = 2 ∧ s.role cls u = 2 ∧ s.recovAt cls = [] ∧ (s.deadsOf cls u).length ≤ 1 :=
  ⟨2, 8, 0x20, (placed [setUnit 2 8 UNIT.ROLE 2, .put (.declared [(2, 8, 0x20)])] State.reset), by decide +kernel⟩

theorem witness_takeoverLoadDone : ∃ (cls : Nat) (q : Recov) (u : Nat) (s : State), (Instr.takeoverLoadDone cls).wellFormed = true ∧
  s.recovAt cls = [q] ∧ q.running = true ∧ q.fault = true ∧ q.new = some u ∧ q.old ≠ u ∧ q.degraded = false ∧ q.buckets = [] ∧ cls = 2 ∧
  (s.home cls q.logical).isSome = true ∧ (s.deadsOf cls q.old).length < 3 ∧ u < 9 :=
  ⟨2, { logical := 3, old := 3, new := some 8, running := true, cause := 0x20 }, 8, (placed [.put (.recov 2 [{ logical := 3, old := 3, new := some 8, running := true, cause := 0x20 }]), setUnit 2 3 UNIT.HOME_VALID 1, setUnit 2 3 UNIT.HOME 3] State.reset), by decide +kernel⟩

theorem witness_lkupCopyDone : ∃ (bad : List Nat) (q : Recov) (u : Nat) (s : State), (Instr.lkupCopyDone bad).wellFormed = true ∧
  s.recovAt clsLkup = [q] ∧ q.running = true ∧ q.fault = true ∧ q.new = some u ∧ q.old ≠ u ∧ q.degraded = false ∧ q.buckets = [] ∧ bad = [] ∧
  (s.deadsOf clsLkup q.old).length < 3 :=
  ⟨[], { logical := 3, old := 3, new := some 64, running := true, cause := 0x20 }, 64, (placed [.put (.recov 4 [{ logical := 3, old := 3, new := some 64, running := true, cause := 0x20 }])] State.reset), by decide +kernel⟩

theorem witness_pipeHoldSpread : ∃ (pipe : Nat) (q : Recov) (v : Nat) (s : State), (Instr.pipeHoldSpread pipe).wellFormed = true ∧
  s.recovAt clsPipe = [q] ∧ q.fault = true ∧ q.running = false ∧ q.degraded = false ∧ q.logical = pipe ∧ s.since q.at_ 100000 = true ∧
  s.holder clsPipe v = some 5 ∧ v < 16 ∧ v ≠ pipe ∧ s.inQAt pipe = [] :=
  ⟨3, { logical := 3, old := 3 }, 5, (placed [.put (.recov 0 [{ logical := 3, old := 3 }]), setUnit 0 5 UNIT.ROLE 1, setUnit 0 5 UNIT.LOGICAL 5, setF (PIPE_BUCKET.LOGICAL 9) 3] (resetAt 100000)), by decide +kernel⟩

theorem witness_ccmTx : ∃ (mep : Nat) (dev port qb n : Nat) (s : State), (Instr.ccmTx mep).wellFormed = true ∧ s.rd (BLK_CTRL.ENABLE 13) = 1 ∧
  s.rd SVC_CFG.CFM_EN = 1 ∧ (s.tab 13 1 mep).on MEP.VALID = true ∧ (s.mepXAt mep).due ≤ s.mono ∧
  s.resolveNh ((s.tab 13 1 mep).f MEP.NH_ID) = .unicast dev port qb n ∧
  (s.stgRefuses
    { body := 0, kind := 3, srcDev := s.ownId, dev := dev, dport := port, queue := (qb + (s.tab 13 1 mep).f MEP.TX_TC) % 2 ^ 19, nh := some n, tc := (s.tab 13 1 mep).f MEP.TX_TC, lenSrc := 1, frameLen := (s.ccmPacket mep).length + 4, declMax := (s.ccmPacket mep).length + 4 }) = none :=
  ⟨9, 2, 0, 40, 7, (placed [setF SVC_CFG.CFM_EN 1, setTab 13 1 9 (((({} : Entry).put MEP.VALID 1).put MEP.NH_ID 7).put MEP.PERIOD 4), setTab 103 0 7 (((({} : Entry).put NH.VALID 1).put NH.DEST_DEVICE 2).put NH.QUEUE_BASE 40), setF (BLK_CTRL.ENABLE 13) 1] State.reset), by decide +kernel⟩

theorem witness_ccmRx : ∃ (p : Pkt) (i : Nat) (s : State), (Instr.ccmRx).wellFormed = true ∧ s.svcRx = [p] ∧ p.app = 6 ∧ s.rd SVC_CFG.CFM_EN = 1 ∧
  (s.mepsOf p.lif).find? (fun i => (s.tab 13 1 i).f MEP.LEVEL == (s.appBytes p 75).getD 0 0 / 32) = some i ∧ (s.bodiesAt p.body).whole = true ∧
  (s.bodiesAt p.body).tail = 0 ∧ (ccmMsg (s.tab 13 1 i) (s.appBytes p 75)).valid = true ∧ (ccmMsg (s.tab 13 1 i) (s.appBytes p 75)).rdi = false ∧
  (s.tab 13 1 i).f MEP.DEFECTS = 0 :=
  ⟨{ pkt with app := 6, lif := 4 }, 9, (placed [setF SVC_CFG.CFM_EN 1, .put (.svcRx [{ pkt with app := 6, lif := 4 }]), .put (.bodies 3 { State.reset.bodiesAt 3 with bytes := List.replicate 12 0 ++ [0x89, 0x02, 0xA0, 1, 4, 70, 0, 0, 0, 1, 0, 8] ++ List.replicate 63 0, whole := true, refs := 1 }), setTab 13 1 9 ((((((({} : Entry).put MEP.VALID 1).put MEP.LIF 4).put MEP.LEVEL 5).put MEP.PERIOD 4).put MEP.RMEPID 8).put MEP.MEPID 3)] State.reset), by decide +kernel⟩

theorem witness_cfmDefectExpire : ∃ (mep : Nat) (s : State), (Instr.cfmDefectExpire mep).wellFormed = true ∧ s.rd SVC_CFG.CFM_EN = 1 ∧
  (s.tab 13 1 mep).on MEP.VALID = true ∧ s.since (s.mepXAt mep).okAt (ccmPeriod ((s.tab 13 1 mep).f MEP.PERIOD) * 7 / 2) = true ∧
  (s.tab 13 1 mep).f MEP.DEFECTS = 0 :=
  ⟨9, (placed [setF SVC_CFG.CFM_EN 1, setTab 13 1 9 ((({} : Entry).put MEP.VALID 1).put MEP.PERIOD 4)] (resetAt 3500000000)), by decide +kernel⟩

theorem witness_tblOpDone : ∃ (page : Nat) (o : TblOp) (s : State), (Instr.tblOpDone page).wellFormed = true ∧ s.tblOpAt page = some o ∧
  o.waits = false ∧ o.result < 16 ∧ o.resIndex < 2 ^ 22 :=
  ⟨13, { op := 1, result := 1, hit := false, resIndex := 5 }, (placed [.put (.tblOp 13 (some { op := 1, result := 1, hit := false, resIndex := 5 }))] State.reset), by decide +kernel⟩

theorem witness_tblLockAcquire : ∃ (m page : Nat) (s : State), (Instr.tblLockAcquire m page).wellFormed = true ∧ s.serves m page = true ∧
  hasWindow page = true ∧ s.rd (TBL_LOCK.HELD page) = 0 :=
  ⟨0x2000, 13, (placed [.put (.blkUp 13 true)] State.reset), by decide +kernel⟩

theorem witness_tblLockRelease : ∃ (m page : Nat) (s : State), (Instr.tblLockRelease m page).wellFormed = true ∧ s.serves m page = true ∧
  hasWindow page = true ∧ s.rd (TBL_LOCK.HELD page) = 1 ∧ s.rd (TBL_LOCK.OWNER page) = m :=
  ⟨0x2000, 13, (placed [.put (.blkUp 13 true), setReg 13 0x118 (BitVec.ofNat 32 (2 ^ 30 + 0x2000))] State.reset), by decide +kernel⟩

theorem witness_tblLockForceRelease : ∃ (m page : Nat) (s : State), (Instr.tblLockForceRelease m page).wellFormed = true ∧
  s.serves m page = true ∧ (m = 0 ∨ m = 0x2000) ∧ hasWindow page = true :=
  ⟨0x2000, 13, (placed [.put (.blkUp 13 true), setReg 13 0x118 (BitVec.ofNat 32 (2 ^ 30 + 0x3000))] State.reset), by decide +kernel⟩

theorem witness_bufAgeSweep : ∃ (late : Bool) (q : Nat) (x : QX) (p : Pkt) (s : State), (Instr.bufAgeSweep late).wellFormed = true ∧
  s.rd (BLK_CTRL.ENABLE 145) = 1 ∧ s.fatalLatch = false ∧ s.qx = [(q, x)] ∧ x.head = [p] ∧ x.spill = false ∧ s.expired q p = true :=
  ⟨false, 40, { head := [pkt], t1 := 256 }, pkt, (placed [.put (.qx 40 { head := [pkt], t1 := 256 }), setF (BLK_CTRL.ENABLE 145) 1] (resetAt 130000000000)), by decide +kernel⟩

theorem witness_queueFlushDone : ∃ (s : State), (Instr.queueFlushDone).wellFormed = true ∧ s.flushing.isSome = true :=
  ⟨(placed [.put (.flushing (some 0)), setF QM_FLUSH.BUSY 1] State.reset), by decide +kernel⟩

theorem witness_schedSelect : ∃ (q : Nat) (p : Pkt) (r : List Pkt) (s : State), (Instr.schedSelect 49).wellFormed = true ∧
  s.rd (BLK_CTRL.ENABLE 177) = 1 ∧ s.portServed 49 = true ∧ s.fatalLatch = false ∧ s.eligible 49 = [q] ∧ (s.qxAt q).head = p :: r ∧
  (s.qxAt q).spill = false ∧ s.expired q p = false ∧ (s.qe q).f QE.CLASS ≠ 2 ∧ s.rd SVC_CFG.RTX_EN = 0 ∧ s.mcOwed = [] :=
  ⟨0, pkt, [], (placed [setTab 177 1 0 ((({} : Entry).put (ed 0 5 0) 49).put SCH.EN 1), setTab 177 0 49 (({} : Entry).put SCH.EN 1), setTab 177 2 0 (({} : Entry).put SCH.EN 1), setTab 177 3 0 (({} : Entry).put SCH.EN 1), setTab 177 4 0 (({} : Entry).put SCH.EN 1), .put (.qx 0 { head := [pkt], t1 := 256 }), .put (.bodies 3 { State.reset.bodiesAt 3 with bytes := List.replicate 100 1, whole := true, refs := 1 }), .put (.bufs 0 { size := 256, held := 1, body := 3 }), setUnit clsScheng 12 UNIT.ROLE 1, setUnit clsScheng 12 UNIT.LOGICAL 12, setF (BLK_CTRL.ENABLE 177) 1, setF (BLK_CTRL.ENABLE 13) 1] State.reset), by decide +kernel⟩

theorem witness_ptpMessageGeneration : ∃ (port type : Nat) (len : Nat) (s : State), (Instr.ptpMessageGeneration port type).wellFormed = true ∧
  s.rd (BLK_CTRL.ENABLE 12) = 1 ∧ s.rd PTP_CLOCK_CFG.MODE ≠ 0 ∧ s.rd PTP_CLOCK_CFG.MODE ≠ 2 ∧ profileHas s.ptpProfile type = true ∧
  s.ptpProfile < 3 ∧ ptpLength type = some len ∧ s.rd (PTP_PORT_CFG.EN port) = 1 ∧ s.ptpPort port = true ∧ s.rd (PORT_STAT.LINK_UP port) = 1 ∧
  (s.coreOf 0).isSome = true ∧ s.rd (PTP_PORT_CFG.L2 port) = 1 :=
  ⟨4, 0, 44, (placed [setF PTP_CLOCK_CFG.MODE 1, setF (PTP_PORT_CFG.EN 4) 1, setF (PORT_STAT.LINK_UP 4) 1, setF (PTP_PORT_CFG.L2 4) 1, setUnit clsScore 0 UNIT.ROLE 1, setF (BLK_CTRL.ENABLE 12) 1] State.reset), by decide +kernel⟩

theorem witness_flitReceive : ∃ (die module seq : Nat) (bad : Bool) (f : Flit) (s : State),
  (Instr.flitReceive die module seq bad).wellFormed = true ∧ s.role clsD2d module = 1 ∧ bad = false ∧
  (s.dieTxAt (1 - die)).replay.find? (fun g => g.seq == seq && g.module == module) = some f ∧ s.dieRxAt die = { next := seq } ∧ f.chan ≠ 3 :=
  ⟨1, 3, 0, false, { module := 3, chan := 1 }, (placed [setUnit 3 3 UNIT.ROLE 1, .put (.dieTx 0 { next := 1, replay := [{ module := 3, chan := 1 }] })] State.reset), by decide +kernel⟩

theorem witness_flitReceive_b : ∃ (die module seq : Nat) (bad : Bool) (k : Nat) (r : DieReq) (l : List DieReq) (f : Flit) (s : State),
  (Instr.flitReceive die module seq bad).wellFormed = true ∧ s.role clsD2d module = 1 ∧ bad = false ∧
  (s.dieTxAt (1 - die)).replay.find? (fun g => g.seq == seq && g.module == module) = some f ∧ s.dieRxAt die = { next := seq } ∧ f.chan = 3 ∧
  f.words = [0, k] ∧ srcDie k = die ∧ die < 2 ∧ s.dieQAt k = r :: l ∧ r.sent = none ∧ 0 < s.dieCredits k :=
  ⟨1, 3, 0, false, 1, { page := 100 }, [], { module := 3, chan := 3, words := [0, 1] }, (placed [setUnit 3 3 UNIT.ROLE 1, .put (.dieTx 0 { next := 1, replay := [{ module := 3, chan := 3, words := [0, 1] }] }), .put (.dieQ 1 [{ page := 100 }])] State.reset), by decide +kernel⟩

theorem witness_crossDieRequest : ∃ (src page off : Nat) (n : Option Nat) (host : Bool) (be : Nat) (data : List Word) (s : State),
  (Instr.crossDieRequest src (n,host) page off (be,data)).wellFormed = true ∧ dieOf page ≠ srcDie src ∧
  (srcMaster src).all (fun m => s.reaches m) = true ∧ 0 < s.dieCredits src ∧ (s.dieQAt src).all (fun x => x.sent.isSome) = true :=
  ⟨0, 100, 0x100, (some 4), false, 15, [0], State.reset, by decide +kernel⟩

theorem witness_crossDieRequest_b : ∃ (src page off : Nat) (n : Option Nat) (host : Bool) (be : Nat) (data : List Word) (s : State),
  (Instr.crossDieRequest src (n,host) page off (be,data)).wellFormed = true ∧ dieOf page ≠ srcDie src ∧
  (srcMaster src).all (fun m => s.reaches m) = true ∧ s.dieCredits src = 0 :=
  ⟨1, 100, 0x100, (some 4), false, 15, [0], (placed [.put (.dieQ 1 (List.replicate 8 { sent := some 0 }))] State.reset), by decide +kernel⟩

theorem witness_crossDieExecute : ∃ (src : Nat) (q : DieReq) (m : Nat) (s : State), (Instr.crossDieExecute src).wellFormed = true ∧
  s.dieQAt src = [q] ∧ s.dieDownAt = none ∧ s.delivered (1 - srcDie src) q = true ∧ s.hostMay q = true ∧ q.read = true ∧ q.n = 1 ∧
  srcMaster src = some m ∧ s.reaches q.master = true ∧ (blockOf q.page).isSome = true ∧ q.page ≠ 0 ∧ s.blkUpAt q.page = false :=
  ⟨0, { read := true, master := 0x2000, page := 100, off := 0x100, sent := some 0 }, 0x2000, (placed [.put (.dieQ 0 [{ read := true, master := 0x2000, page := 100, off := 0x100, sent := some 0 }]), .put (.dieRx 0 { next := 1 }), .put (.dieRx 1 { next := 1 })] State.reset), by decide +kernel⟩

theorem witness_crossDieExecute_b : ∃ (src : Nat) (q : DieReq) (m : Nat) (s : State), (Instr.crossDieExecute src).wellFormed = true ∧
  s.dieQAt src = [q] ∧ s.dieDownAt = none ∧ s.delivered (1 - srcDie src) q = true ∧ s.hostMay q = true ∧ q.read = false ∧ srcMaster src = some m ∧
  s.reaches q.master = true ∧ (blockOf q.page).isSome = true ∧ q.page ≠ 0 ∧ s.blkUpAt q.page = false ∧ s.waitsBehind q.master q.page = false :=
  ⟨0, { master := 0x2000, page := 100, off := 0x100, data := [5], be := 15, sent := some 0 }, 0x2000, (placed [.put (.dieQ 0 [{ master := 0x2000, page := 100, off := 0x100, data := [5], be := 15, sent := some 0 }]), .put (.dieRx 0 { next := 1 }), .put (.dieRx 1 { next := 1 })] State.reset), by decide +kernel⟩

theorem witness_crossDieResponse : ∃ (src : Nat) (q : DieReq) (l : List DieReq) (v : Nat) (s : State),
  (Instr.crossDieResponse src).wellFormed = true ∧ s.dieReadAt src = q :: l ∧ s.dieDownAt = none ∧ s.delivered (srcDie src) q = true ∧
  q.data = [v] ∧ q.stale = false :=
  ⟨0, { read := true, page := 100, off := 0x100, data := [7], sent := some 0 }, [], 7, (placed [.put (.dieRead 0 [{ read := true, page := 100, off := 0x100, data := [7], sent := some 0 }]), .put (.dieRx 0 { next := 1 }), .put (.dieRx 1 { next := 1 })] State.reset), by decide +kernel⟩

theorem witness_tblFence : ∃ (m page : Nat) (k : Nat) (s : State), (Instr.tblFence m page).wellFormed = true ∧ masterSrc m = some k ∧
  s.dieQAt k = [] ∧ s.serves m page = true ∧ hasWindow page = true ∧ (s.hiLatchAt (pairKey m page)) = [] ∧ latchesOf page 0x11C = [] :=
  ⟨0x2000, 100, 0, (placed [.put (.blkUp 100 true)] State.reset), by decide +kernel⟩

theorem witness_dieLinkLoss : ∃ (d : Nat) (s : State), (Instr.dieLinkLoss).wellFormed = true ∧ s.dieDownAt = some d ∧ s.since d 10000 = true ∧
  s.fatalLatch = false ∧ (List.range 144).all (fun l => s.linkState l == 0) = true :=
  ⟨0, (placed [.put (.dieDownAt (some 0)), .put (.dieQ 3 [{ read := false, page := 100, off := 0x100, data := [5] }])] (resetAt 10000)), by decide +kernel⟩

theorem witness_presencePress : ∃ (s : State), (Instr.presencePress).wellFormed = true ∧ s.rd PPR_STAT.PRESSED = 0 ∧
  s.rd PPR_STAT.WINDOW_OPEN = 0 ∧ s.rd DEV_STAT.MAIN_UP = 1 :=
  ⟨(placed [setF DEV_STAT.MAIN_UP 1] State.reset), by decide +kernel⟩

theorem witness_presenceRelease : ∃ (s : State), (Instr.presenceRelease).wellFormed = true :=
  ⟨(placed [setF PPR_STAT.PRESSED 1] State.reset), by decide +kernel⟩

theorem witness_presenceWindowExpire : ∃ (e : Nat) (s : State), (Instr.presenceWindowExpire).wellFormed = true ∧ s.winEnd = some e ∧ e ≤ s.mono ∧
  s.rd PPR_STAT.WINDOW_OPEN = 1 :=
  ⟨0, (placed [setF PPR_STAT.WINDOW_OPEN 1, .put (.winEnd (some 0))] State.reset), by decide +kernel⟩

theorem witness_rtcSetLoad : ∃ (v a : Nat) (s : State), (Instr.rtcSetLoad).wellFormed = true ∧ s.rtcArmed = some (v, a) ∧ s.rtcSec ≠ a :=
  ⟨5, 9, (placed [.put (.rtcArmed (some (5, 9)))] State.reset), by decide +kernel⟩

theorem witness_rtcLoad : ∃ (s : State), (Instr.rtcLoad).wellFormed = true ∧ s.timeValid = true ∧ s.sec % 64 = 0 ∧ s.rtcLoadedSec ≠ s.sec :=
  ⟨(placed [setF PTP_STAT.TIME_VALID 1, .put (.time16 (64 * 1000000000 * 65536))] State.reset), by decide +kernel⟩

theorem witness_sealTest : ∃ (pass : Bool) (s : State), (Instr.sealTest pass).wellFormed = true ∧ pass = false ∧ s.sealFails = 1 ∧
  s.rd PPR_STAT.SEAL_OPEN = 0 ∧ s.rd PPR_STAT.BREACH = 0 ∧ s.rd PPR_STAT.WINDOW_OPEN = 0 ∧ s.rd DEV_STAT.MAIN_UP = 0 ∧
  (List.range 15).any (fun i => fieldOf (s.reg 7 (0x1004 + 8 * i)) 31 28 == 0) = true ∧ s.rd BKP_STAT.LOG_COUNT < 15 :=
  ⟨false, (placed [.put (.sealFails 1), setF PPR_STAT.BREACH 0] State.reset), by decide +kernel⟩

theorem witness_sealTest_b : ∃ (pass : Bool) (s : State), (Instr.sealTest pass).wellFormed = true ∧ pass = true ∧ s.sealPasses = 1 ∧
  s.rd PPR_STAT.SEAL_OPEN = 1 :=
  ⟨true, (placed [.put (.sealPasses 1), setF PPR_STAT.SEAL_OPEN 1, setF PPR_STAT.BREACH 1] State.reset), by decide +kernel⟩

theorem witness_vbatMeasure : ∃ (mv : Nat) (s : State), (Instr.vbatMeasure mv).wellFormed = true ∧ mv < 2600 ∧ s.rd BKP_STAT.CELL_LOW = 0 :=
  ⟨2599, State.reset, by decide +kernel⟩

theorem witness_vbatMeasure_b : ∃ (mv : Nat) (s : State), (Instr.vbatMeasure mv).wellFormed = true ∧ 2600 ≤ mv ∧ mv ≤ 2700 :=
  ⟨2600, State.reset, by decide +kernel⟩

theorem witness_backupDomainLost : ∃ (s : State), (Instr.backupDomainLost).wellFormed = true ∧ s.rd DEV_STAT.MAIN_UP = 0 :=
  ⟨(placed [setF BKP_STAT.LOG_COUNT 7, .put (.rtcNs 7)] State.reset), by decide +kernel⟩

theorem witness_sensorRead : ∃ (temps : List Int) (s : State), (Instr.sensorRead temps).wellFormed = true ∧ s.alert = false ∧
  temps.any (fun c => decide (s.alertC ≤ c)) = true ∧ temps.all (fun c => decide (-128 ≤ c) && decide (c ≤ 127)) = true :=
  ⟨(List.replicate 88 99), (placed [setF PWR_CFG.ALERT_C 95] State.reset), by decide +kernel⟩

theorem witness_throttleEnter : ∃ (s : State), (Instr.throttleEnter).wellFormed = true ∧ s.rd PWR_STAT.THROTTLING = 0 ∧
  s.hotAt.any (fun x => s.since x.2 1000000) = true :=
  ⟨(placed [.put (.hotAt [(3, 0)])] (resetAt 1000000)), by decide +kernel⟩

theorem witness_throttleExit : ∃ (c : Nat) (s : State), (Instr.throttleExit).wellFormed = true ∧ s.rd PWR_STAT.THROTTLING = 1 ∧
  s.coolAt = some c ∧ s.since c 100000000 = true :=
  ⟨0, (placed [setF PWR_STAT.THROTTLING 1, .put (.coolAt (some 0))] (resetAt 100000000)), by decide +kernel⟩

theorem witness_thermalShutdown : ∃ (i c : Nat) (s : State), (Instr.thermalShutdown).wellFormed = true ∧ s.shutAt = [(i, c)] ∧
  s.since c 10000 = true ∧ s.fatalLatch = false ∧ (List.range 144).all (fun l => s.linkState l == 0) = true :=
  ⟨3, 0, (placed [.put (.shutAt [(3, 0)])] (resetAt 10000)), by decide +kernel⟩

theorem witness_rtxCopyExpire : ∃ (flow : Nat) (c : RtxCopy) (s : State), (Instr.rtxCopyExpire flow).wellFormed = true ∧
  (s.flowXAt flow).copies = [c] ∧ s.since c.at_ ((s.tab 13 2 flow).f FLOW.RETAIN_MS * 1000000) = true :=
  ⟨6, {}, (placed [.put (.flowX 6 { State.reset.flowXAt 6 with copies := [{}] })] State.reset), by decide +kernel⟩

theorem witness_resendReadDone : ∃ (flow : Nat) (p : Pkt) (r : List Pkt) (s : State), (Instr.resendReadDone flow).wellFormed = true ∧
  (s.flowXAt flow).reads = p :: r ∧ s.bpmAdmit 1 (s.rootPort ((s.tab 13 2 flow).f FLOW.RTX_QUEUE)) (poolSize (poolOf (declLen p - 4))) = true :=
  ⟨6, pkt, [], (placed [.put (.flowX 6 { State.reset.flowXAt 6 with reads := [pkt] }), setF (BPM_REQ_CFG.T1_MIN 0) 100, setF (BPM_REQ_CFG.T1_MAX 0) 100] State.reset), by decide +kernel⟩

theorem witness_mergeJudge : ∃ (p : Pkt) (g leg : Nat) (s : State), (Instr.mergeJudge).wellFormed = true ∧ s.mergeQ = [(p, g, leg)] ∧
  (s.bodiesAt p.body).whole = true ∧ (s.bodiesAt p.body).tail = 0 ∧ (s.mergeXAt g).started = false :=
  ⟨pkt, 4, 0, (placed [.put (.mergeQ [(pkt, 4, 0)]), .put (.bodies 3 { State.reset.bodiesAt 3 with bytes := List.replicate 80 5, whole := true, refs := 1 })] State.reset), by decide +kernel⟩

theorem witness_mergeLegTimeout : ∃ (grp leg : Nat) (s : State), (Instr.mergeLegTimeout grp leg).wellFormed = true ∧ leg = 0 ∧
  s.since (s.mergeXAt grp).aAt 100000000 = true :=
  ⟨4, 0, (placed [setTab 13 3 4 (({} : Entry).put MRG.LEG_A_OK 1)] (resetAt 100000000)), by decide +kernel⟩

theorem witness_recDone : ∃ (rec_ : Nat) (s : State), (Instr.recDone rec_).wellFormed = true ∧ (s.recXAt rec_).job ≠ 0 ∧
  (s.recXAt rec_).upto ≤ (s.recXAt rec_).pos :=
  ⟨2, (placed [.put (.recX 2 { State.reset.recXAt 2 with job := 1 }), setF (SVC_REC.BUSY 2) 1] State.reset), by decide +kernel⟩

theorem witness_dbTxTail : ∃ (fn : Nat) (tag : Bool) (pasid page : Nat) (data : Word) (q i m : Nat) (s : State),
  (Instr.dbTxTail fn tag pasid page data).wellFormed = true ∧ s.dbTarget fn tag pasid page = .to_ q i m ∧ (s.qp q).on QP.EN = true :=
  ⟨0, false, 0, 5, 9, 5, 0, 0, (placed [.put (.pcieFn 0 { State.reset.pcieFnAt 0 with mse := true, bme := true }), setTab 3 0 5 (({} : Entry).put QP.EN 1)] State.reset), by decide +kernel⟩

theorem witness_dbRxTail : ∃ (fn : Nat) (tag : Bool) (pasid page : Nat) (data : Word) (q i m : Nat) (s : State),
  (Instr.dbRxTail fn tag pasid page data).wellFormed = true ∧ s.dbTarget fn tag pasid page = .to_ q i m ∧ (s.qp q).on QP.EN = true :=
  ⟨0, false, 0, 5, 9, 5, 0, 0, (placed [.put (.pcieFn 0 { State.reset.pcieFnAt 0 with mse := true, bme := true }), setTab 3 0 5 (({} : Entry).put QP.EN 1)] State.reset), by decide +kernel⟩

theorem witness_dbCqHead : ∃ (fn : Nat) (tag : Bool) (pasid page : Nat) (data : Word) (q i m : Nat) (s : State),
  (Instr.dbCqHead fn tag pasid page data).wellFormed = true ∧ s.dbTarget fn tag pasid page = .to_ q i m ∧ (s.qp q).on QP.EN = true :=
  ⟨0, false, 0, 5, 9, 5, 0, 0, (placed [.put (.pcieFn 0 { State.reset.pcieFnAt 0 with mse := true, bme := true }), setTab 3 0 5 (({} : Entry).put QP.EN 1)] State.reset), by decide +kernel⟩

theorem witness_dbTxTail_b : ∃ (fn : Nat) (tag : Bool) (pasid page : Nat) (data : Word) (q i m : Nat) (s : State),
  (Instr.dbTxTail fn tag pasid page data).wellFormed = true ∧ s.dbTarget fn tag pasid page = .to_ q i m ∧ (s.qp q).on QP.EN = false ∧
  s.rd PCIE_DB_DISCARD.COUNT < 2 ^ 16 - 1 :=
  ⟨0, false, 0, 5, 9, 5, 0, 0, (placed [.put (.pcieFn 0 { State.reset.pcieFnAt 0 with mse := true, bme := true })] State.reset), by decide +kernel⟩

theorem witness_dbArm : ∃ (fn : Nat) (tag : Bool) (pasid page : Nat) (data : Word) (q i m : Nat) (s : State),
  (Instr.dbArm fn tag pasid page data).wellFormed = true ∧ s.dbTarget fn tag pasid page = .to_ q i m ∧ (s.qp q).on QP.EN = true ∧
  (s.qpxAt q).counted = 0 :=
  ⟨0, false, 0, 5, 9, 5, 0, 0, (placed [.put (.pcieFn 0 { State.reset.pcieFnAt 0 with mse := true, bme := true }), setTab 3 0 5 (({} : Entry).put QP.EN 1)] State.reset), by decide +kernel⟩

theorem witness_coalTimeout : ∃ (qp : Nat) (c : Nat) (s : State), (Instr.coalTimeout qp).wellFormed = true ∧ (s.qpxAt qp).coalAt = some c ∧
  (s.qpxAt qp).armed = true ∧ s.since c ((s.qp qp).f QP.COAL_US * 1000) = true :=
  ⟨5, 0, (placed [.put (.qpx 5 { State.reset.qpxAt 5 with armed := true, counted := 1, coalAt := some 0 })] State.reset), by decide +kernel⟩

theorem witness_blockIrqRepeat : ∃ (c : Nat) (s : State), (Instr.blockIrqRepeat).wellFormed = true ∧ s.irqSince = some c ∧ s.irqSummary = true ∧
  s.since c 1000000 = true ∧ s.contained = false ∧ (s.pcieFnAt 0).msixEn = true ∧ (s.pcieFnAt 0).d3hot = false ∧ (s.msixAt 0).masked = false :=
  ⟨0, (placed [.put (.irqSince (some 0)), setReg 2 0x304 1, .put (.pcieFn 0 { State.reset.pcieFnAt 0 with msixEn := true }), .put (.msix 0 { State.reset.msixAt 0 with masked := false })] (resetAt 1000000)), by decide +kernel⟩

theorem witness_msixUnmask : ∃ (fn vec addr : Nat) (data : Word) (s : State), (Instr.msixUnmask fn vec addr data).wellFormed = true ∧
  (fn == 0 || decide (vec < 64)) = true ∧ (s.pcieFnAt fn).mse = true ∧ (s.pcieFnAt fn).msixEn = true ∧ (s.pcieFnAt fn).d3hot = false ∧
  s.contained = false ∧ (s.msixAt (fn * 2048 + vec)).pending = true :=
  ⟨0, 3, 0x1000, 7, (placed [.put (.pcieFn 0 { State.reset.pcieFnAt 0 with mse := true, msixEn := true }), .put (.msix 3 { State.reset.msixAt 3 with pending := true })] State.reset), by decide +kernel⟩

theorem witness_qpcWrite : ∃ (fn : Nat) (tag : Bool) (pasid page off : Nat) (data : Word) (q i m : Nat) (e : Entry) (s : State),
  (Instr.qpcWrite fn tag pasid page off data).wellFormed = true ∧ s.dbTarget fn tag pasid page = .to_ q i m ∧
  qpcEntry (s.qp q) off data.toNat = some e ∧ s.qpDenied q e = false ∧ e.on QP.EN = (s.qp q).on QP.EN ∧ (s.qp q).f QP.STATE = 0 ∧
  e.on QP.EN = false ∧ s.jnlAccepts (tableRecord m 3 0 2 q (entryAux (some e)) s) = true ∧
  (s.jnlHeld.any (fun h => h.what == 0 || h.what == 3)) = false :=
  ⟨0, false, 0, 5, 0x110, 0x1000, 5, 0, 0, (({} : Entry).put QP.TX_BASE 0x1000), (placed [.put (.pcieFn 0 { State.reset.pcieFnAt 0 with mse := true, bme := true })] State.reset), by decide +kernel⟩

theorem witness_refclkLoss : ∃ (s : State), (Instr.refclkLoss).wellFormed = true ∧ s.refclk = true ∧ 2 ≤ s.rd DEV_STAT.STAGE :=
  ⟨(placed [.put (.refclk true), setF DEV_STAT.STAGE 6] State.reset), by decide +kernel⟩

theorem witness_refclkReturn : ∃ (s : State), (Instr.refclkReturn).wellFormed = true ∧ 2 ≤ s.rd DEV_STAT.STAGE ∧ s.rd PWR_STAT.REFCLK_OK = 0 :=
  ⟨(placed [setF DEV_STAT.STAGE 6, setF PWR_STAT.REFCLK_OK 0] State.reset), by decide +kernel⟩

theorem witness_refclkPresent : ∃ (s : State), (Instr.refclkPresent).wellFormed = true ∧ s.rd DEV_STAT.STAGE = 1 :=
  ⟨(placed [setF DEV_STAT.STAGE 1] State.reset), by decide +kernel⟩

theorem witness_crierReceive : ∃ (page : Nat) (m : CryMsg) (r : List CryMsg) (s : State), (Instr.crierReceive page).wellFormed = true ∧
  s.cryQueueAt page = m :: r ∧ m.cls = 1 ∧ s.cryPend = [] ∧ s.rd CRY_CFG.LOG_MIN ≤ 1 ∧ 1 < s.rd CRY_CFG.FIRST_MIN ∧ s.cryLog.length < 4096 ∧
  (dieOf page = 1 ∨ s.crossFree 17 = true) ∧ s.firstEnd = none ∧ page < 65536 :=
  ⟨100, { page := 100, kind := 0x20, cls := 1 }, [], (placed [.put (.cryQueue 100 [{ page := 100, kind := 0x20, cls := 1 }]), setF CRY_CFG.LOG_MIN 1, setF CRY_CFG.FIRST_MIN 2] State.reset), by decide +kernel⟩

theorem witness_firstWindowClose : ∃ (e : Nat) (m : CryMsg) (u : Nat) (s : State), (Instr.firstWindowClose).wellFormed = true ∧
  s.firstEnd = some e ∧ s.firstWin = [(m, u)] ∧ e ≤ s.mono :=
  ⟨2000, { page := 100, kind := 0x20, cls := 2 }, 77, (placed [.put (.firstEnd (some 2000)), .put (.firstWin [({ page := 100, kind := 0x20, cls := 2 }, 77)])] (resetAt 2000)), by decide +kernel⟩

theorem witness_fatalDetect : ∃ (page kind addr : Nat) (s : State), (Instr.fatalDetect page kind addr).wellFormed = true ∧
  isFatalKind page kind = true ∧ s.fatalLatch = false ∧ (List.range 144).all (fun l => s.linkState l == 0) = true ∧
  s.rd (ERRCAP_CTRL.VALID page) = 0 :=
  ⟨1, 0x24, 5, State.reset, by decide +kernel⟩

theorem witness_fatalCapture : ∃ (m : CryMsg) (u : Nat) (s : State), (Instr.fatalCapture).wellFormed = true ∧ s.fatalQ = [(m, u)] ∧
  s.since u 10000 = true ∧ s.rd CRY_FATAL_STAT.VALID = 0 ∧ m.cls = 4 :=
  ⟨{ page := 1, kind := 0x24, cls := 4 }, 0, (placed [.put (.fatalQ [({ page := 1, kind := 0x24, cls := 4 }, 0)])] (resetAt 10000)), by decide +kernel⟩

theorem witness_cryLogPop : ∃ (m : Nat) (s : State), (Instr.cryLogPop m).wellFormed = true ∧ s.serves m 5 = true ∧
  (s.hiLatchAt (pairKey m 5)).all (fun x => x.1 != 0x234) = true :=
  ⟨0x2000, (placed [.put (.blkUp 5 true)] State.reset), by decide +kernel⟩

theorem witness_defectEntry : ∃ (port : Nat) (s : State), (Instr.defectEntry 0 port 1).wellFormed = true ∧ port < 48 ∧
  s.rd (PORT_STAT.LOS port) = 0 ∧ s.flxHeldAt port = none :=
  ⟨5, (placed [setF (PORT_STAT.RF 5) 1] State.reset), by decide +kernel⟩

theorem witness_defectExit : ∃ (port : Nat) (s : State), (Instr.defectExit 0 port 1).wellFormed = true ∧ port < 48 ∧
  s.rd (PORT_STAT.LOS port) = 1 ∧ s.flxHeldAt port = none :=
  ⟨5, (placed [setF (PORT_STAT.LOS 5) 1] State.reset), by decide +kernel⟩

theorem witness_defectEntry_b : ∃ (index : Nat) (s : State), (Instr.defectEntry 4 index 9).wellFormed = true ∧ index < 1024 ∧
  s.rd (XC_CH_STAT.RX_AIS index) = 0 :=
  ⟨1023, State.reset, by decide +kernel⟩

theorem witness_pmSecond : ∃ (client : Bool) (index errored : Nat) (es ses : Bool) (h : List (Bool × Bool × Bool)) (units : Nat) (codewords : List
    Nat) (s : State), (Instr.pmSecond client index errored (units,codewords)).wellFormed = true ∧ client = false ∧ index < 48 ∧
  (s.pmXAt index).lastSec < s.sec ∧ (s.pmXAt index).marks.contains (s.sec - 1) = false ∧ s.pmDefectNow false index = false ∧ errored = 0 ∧
  0 < units ∧ (s.pmXAt index).hist = h ++ [(es, ses, false)] ∧ h.length = 9 ∧ (s.pmXAt index).unavail = false :=
  ⟨false, 6, 0, true, false, (List.replicate 9 (true, false, false)), 100, [5, 6, 7], (placed [.put (.pmX 6 { State.reset.pmXAt 6 with hist := List.replicate 10 (true, false, false) }), .put (.time16 (7000000000 * 65536))] State.reset), by decide +kernel⟩

theorem witness_selfTestPassEnd : ∃ (cls unit : Nat) (pass : Bool) (s : State), (Instr.selfTestPassEnd cls unit pass).wellFormed = true ∧
  s.role cls unit = 2 ∧ s.recovAt cls = [] ∧ pass = false ∧ (s.unitXAt (unitKey cls unit)).fails = 0 ∧ cls ≤ 2 ∧ unit < 128 :=
  ⟨2, 8, false, (placed [setUnit 2 8 UNIT.ROLE 2, setUnitX 2 8 (fun x => { x with passed := true })] State.reset), by decide +kernel⟩

theorem witness_quarantineEnd : ∃ (cls unit : Nat) (pass : Bool) (s : State), (Instr.quarantineEnd cls unit pass).wellFormed = true ∧
  s.role cls unit = 3 ∧ (s.unitXAt (unitKey cls unit)).test = 1 ∧ pass = true ∧ cls ≤ 2 ∧ unit < 128 ∧ s.recovAt cls = [] :=
  ⟨2, 8, true, (placed [setUnit 2 8 UNIT.ROLE 3, setUnitX 2 8 (fun x => { x with test := 1 })] State.reset), by decide +kernel⟩

theorem witness_plannedHandover : ∃ (cls unit : Nat) (q : Recov) (u : Nat) (s : State), (Instr.plannedHandover cls unit).wellFormed = true ∧
  s.recovAt cls = [q] ∧ q.running = false ∧ q.fault = false ∧ q.old = unit ∧ q.new = some u ∧ s.qualified cls u = true ∧ cls ≤ 2 :=
  ⟨2, 3, { logical := 3, old := 3, new := some 8, fault := false }, 8, (placed [.put (.recov 2 [{ logical := 3, old := 3, new := some 8, fault := false }]), setUnit 2 8 UNIT.ROLE 2, setUnitX 2 8 (fun x => { x with passed := true })] State.reset), by decide +kernel⟩

theorem witness_handoverDone : ∃ (cls : Nat) (q : Recov) (u : Nat) (s : State), (Instr.handoverDone cls).wellFormed = true ∧ s.recovAt cls = [q] ∧
  q.running = true ∧ q.fault = false ∧ q.new = some u ∧ q.old ≠ u ∧ q.cmd = false ∧ q.after = 0 ∧ cls = 2 ∧ u < 9 ∧ q.old < 9 ∧ q.logical < 8 ∧
  (s.home cls q.logical).isSome = true ∧ s.drained cls q.old q.logical = true ∧ s.genFree cls q.logical = true :=
  ⟨2, { logical := 3, old := 3, new := some 8, fault := false, running := true, after := 0 }, 8, (placed [.put (.recov 2 [{ logical := 3, old := 3, new := some 8, fault := false, running := true, after := 0 }]), setUnit 2 3 UNIT.HOME_VALID 1, setUnit 2 3 UNIT.HOME 3] State.reset), by decide +kernel⟩

theorem witness_rotation : ∃ (u : Nat) (s : State), (Instr.rotation).wellFormed = true ∧ s.rd (BLK_CTRL.ENABLE 9) = 1 ∧ s.rd RPR_CFG.ROT_EN = 1 ∧
  s.rd RPR_CFG.ROT_MIN = 1 ∧ s.rd PWR_STAT.THROTTLING = 0 ∧ s.since s.rotAt 1000000000 = true ∧ s.since 0 60000000000 = true ∧ s.rotClassAt = [] ∧
  s.rotationNext 0 = some u ∧ s.rotationSkips 0 = false :=
  ⟨4, (placed [setF RPR_CFG.ROT_EN 1, setF RPR_CFG.ROT_MIN 1, setUnit 0 4 UNIT.ROLE 1, setUnit 0 16 UNIT.ROLE 2, setUnitX 0 16 (fun x => { x with passed := true }), setF (BLK_CTRL.ENABLE 9) 1] (resetAt 61000000000)), by decide +kernel⟩

theorem witness_revertHoldEnd : ∃ (cls unit : Nat) (g : Nat) (q : Recov) (s : State), (Instr.revertHoldEnd cls unit).wellFormed = true ∧
  s.rd RPR_CFG.REVERT_EN = 1 ∧ (s.unitXAt (unitKey cls unit)).goodAt = some g ∧
  s.since g (max 1 (s.rd RPR_CFG.REVERT_HOLD_S) * 1000000000) = true ∧ s.revertOf cls unit = some q :=
  ⟨2, 3, 0, { logical := 3, old := 8, new := some 3, at_ := 61000000000, fault := false, after := 0, revert := true }, (placed [setF RPR_CFG.REVERT_EN 1, setF RPR_CFG.REVERT_HOLD_S 60, setUnit 2 3 UNIT.ROLE 2, setUnit 2 3 UNIT.HOME_VALID 1, setUnit 2 3 UNIT.HOME 3, setUnitX 2 3 (fun x => { x with passed := true, goodAt := some 0 }), setUnit 2 8 UNIT.ROLE 1, setUnit 2 8 UNIT.LOGICAL 3] (resetAt 61000000000)), by decide +kernel⟩

theorem witness_rprEvtPop : ∃ (m : Nat) (s : State), (Instr.rprEvtPop m).wellFormed = true ∧ s.serves m 9 = true ∧
  (s.hiLatchAt (pairKey m 9)).all (fun x => x.1 != 0x23C) = true :=
  ⟨0x2000, (placed [.put (.blkUp 9 true), .put (.rprEvt [(1, 2, 3), (4, 5, 6)])] State.reset), by decide +kernel⟩

theorem witness_rollingUpdateStep : ∃ (k slot : Nat) (s : State), (Instr.rollingUpdateStep).wellFormed = true ∧ s.roll = some (k, slot) ∧ 8 ≤ k ∧
  s.mainUp = true ∧ s.recovAt clsScore = [] ∧
  (List.range 9).any (fun u => s.role clsScore u == 3 && (s.unitXAt (unitKey clsScore u)).test == 4) = false :=
  ⟨8, 1, (placed [.put (.roll (some (8, 1))), setF UPD_BOOT.ROLLING 1, setF DEV_STAT.MAIN_UP 1] State.reset), by decide +kernel⟩

theorem witness_snapshotPeriodic : ∃ (s : State), (Instr.snapshotPeriodic).wellFormed = true ∧ s.rd (BLK_CTRL.ENABLE 10) = 1 ∧
  s.rd CNT_DUMP_CFG.EN = 1 ∧ s.ns64 % (min 60000 (max 100 (s.rd CNT_DUMP_CFG.PERIOD_MS)) * 1000000) < 2 ∧
  s.snapAt ≠ some (s.ns64 / (min 60000 (max 100 (s.rd CNT_DUMP_CFG.PERIOD_MS)) * 1000000)) ∧ s.snap = none ∧ s.rd CNT_DUMP_HEAD.FULL = 0 :=
  ⟨(placed [setF CNT_DUMP_CFG.EN 1, setF (BLK_CTRL.ENABLE 10) 1] State.reset), by decide +kernel⟩

theorem witness_dumpDone : ∃ (sn : Snap) (s : State), (Instr.dumpDone).wellFormed = true ∧ s.snap = some sn ∧ sn.mono ≤ s.mono ∧
  s.dmaOn 0 = true ∧ s.rd PCIE_LINK_STAT.IN_L1 = 0 ∧ (s.crossFree 15 = true ∨ sn.mask % 256 = 0) ∧ s.rd CNT_DUMP_HEAD.TAIL < 16 :=
  ⟨{ time := 0, mono := 0 }, (placed [.put (.snap (some { time := 0, mono := 0 })), .put (.pcieFn 0 { State.reset.pcieFnAt 0 with bme := true })] State.reset), by decide +kernel⟩

theorem witness_traceDmaWrite : ∃ (r : TraceRec) (l : List TraceRec) (size : Nat) (s : State), (Instr.traceDmaWrite).wellFormed = true ∧
  s.traceBuf = r :: l ∧ (size = 2 ^ (if 4 ≤ s.rd TRC_RING_CFG.LOG ∧ s.rd TRC_RING_CFG.LOG ≤ 12 then s.rd TRC_RING_CFG.LOG else 4)) ∧
  s.rd TRC_CFG.DMA_EN = 1 ∧ s.dmaOn 0 = true ∧ s.rd PCIE_LINK_STAT.IN_L1 = 0 ∧ s.crossFree 16 = true ∧
  (s.rd TRC_RING_CFG.TAIL % size + size - s.rd TRC_RING_CFG.HEAD % size) % size < size - 1 :=
  ⟨{}, [], 16, (placed [setF TRC_RING_CFG.LOG 4, .put (.traceBuf [{}]), setF TRC_CFG.DMA_EN 1, .put (.pcieFn 0 { State.reset.pcieFnAt 0 with bme := true })] State.reset), by decide +kernel⟩

theorem witness_mainPowerOnReset : ∃ (s : State), (Instr.mainPowerOnReset).wellFormed = true :=
  ⟨(placed [.put .fatalLatch] State.reset), by decide +kernel⟩

theorem witness_standbyPowerOnReset : ∃ (s : State), (Instr.standbyPowerOnReset).wellFormed = true ∧ s.supVsb33 = false :=
  ⟨(placed [.put (.supVsb33 false), .put .fatalLatch] State.reset), by decide +kernel⟩

theorem witness_resetNAssert_b : ∃ (ns : Nat) (s : State), (Instr.resetNAssert ns).wellFormed = true ∧ 1000 ≤ ns :=
  ⟨1000, (placed [.put .fatalLatch, setF DEV_SLOT.LATCHED 5] State.reset), by decide +kernel⟩

theorem witness_resetNAssert_c : ∃ (ns : Nat) (s : State), (Instr.resetNAssert ns).wellFormed = true ∧ ns < 100 :=
  ⟨99, State.reset, by decide +kernel⟩

theorem witness_vsb33Loss : ∃ (vbat : Bool) (s : State), (Instr.vsb33Loss vbat).wellFormed = true :=
  ⟨true, State.reset, by decide +kernel⟩

theorem witness_powerFailWarning : ∃ (pin : Bool) (s : State), (Instr.powerFailWarning pin).wellFormed = true ∧ s.rd DEV_STAT.PF_WARN = 0 :=
  ⟨true, State.reset, by decide +kernel⟩

theorem witness_powerFailClear : ∃ (s : State), (Instr.powerFailClear).wellFormed = true ∧ s.rd DEV_STAT.PF_WARN = 1 ∧
  (s.bootAt.isSome = true ∨ s.rd DEV_STAT.STAGE < 3) :=
  ⟨(placed [setF DEV_STAT.PF_WARN 1] State.reset), by decide +kernel⟩

theorem witness_powerFailClear_b : ∃ (s : State), (Instr.powerFailClear).wellFormed = true ∧ s.rd DEV_STAT.PF_WARN = 1 ∧ s.bootAt = none ∧
  3 ≤ s.rd DEV_STAT.STAGE ∧ s.rd DEV_STAT.MAIN_UP = 0 ∧ s.rd DEV_STAT.RECOVERY = 0 :=
  ⟨(placed [setF DEV_STAT.PF_WARN 1, setF DEV_STAT.STAGE 3] State.reset), by decide +kernel⟩

theorem witness_jnlUnitWrite : ∃ (badReads : Nat) (s : State), (Instr.jnlUnitWrite badReads).wellFormed = true ∧ s.storeRuns = true ∧
  s.jnlWriting = [] ∧ s.jnlPersist ≠ [] ∧ s.jnlUnit % 16 ≠ 0 ∧ badReads < 2 :=
  ⟨0, (placed [.put (.jnlPersist [{ seq := 4 }]), .put (.jnlUnit 5), setF DEV_STAT.MAIN_UP 1] State.reset), by decide +kernel⟩

theorem witness_jnlHostWrite : ∃ (q : JRec) (s : State), (Instr.jnlHostWrite).wellFormed = true ∧
  s.jnlBacklog.find? (fun r => s.jnlNext ≤ r.seq) = some q ∧ s.rd JNL_HOST_CFG.EN = 1 ∧ s.dmaOn 0 = true ∧ s.rd PCIE_LINK_STAT.IN_L1 = 0 ∧
  (s.rd JNL_HOST_TAIL.INDEX + s.jnlRing - s.rd JNL_HOST_HEAD.INDEX % s.jnlRing) % s.jnlRing < s.jnlRing - 1 :=
  ⟨{ seq := 4 }, (placed [.put (.jnlBacklog [{ seq := 4 }]), setF JNL_HOST_CFG.EN 1, .put (.pcieFn 0 { State.reset.pcieFnAt 0 with bme := true })] State.reset), by decide +kernel⟩

theorem witness_journalHoldRelease : ∃ (h : Held) (s : State), (Instr.journalHoldRelease).wellFormed = true ∧
  heldNext s [] s.jnlHeld = some ([], h, []) ∧ h.what = 2 ∧ s.jnlSeq ≠ 0 ∧ (s.jnlSeq + 1) % 2 ^ 36 ≠ 0 :=
  ⟨{ what := 2, record := { kind := 5 } }, (placed [.put (.jnlHeld [{ what := 2, record := { kind := 5 } }]), .put (.jnlSeq 7)] State.reset), by decide +kernel⟩

theorem witness_tblNop : ∃ (m page table index : Nat) (s : State), (Instr.tblNop m page table index).wellFormed = true ∧
  s.takesTbl page (s.tblCmd m page 0 table index) = true :=
  ⟨0x2000, 13, 0, 5, (placed [.put (.blkUp 13 true), setReg 13 0x118 (BitVec.ofNat 32 (2 ^ 30 + 0x2000))] State.reset), by decide +kernel⟩

theorem witness_tblRead : ∃ (m page table index : Nat) (d : Tbl) (e : Entry) (s : State), (Instr.tblRead m page table index).wellFormed = true ∧
  s.takesTbl page (s.tblCmd m page 1 table index) = true ∧ s.tbl page table = some d ∧ d.ops.contains 1 = true ∧ keyFam page table = none ∧
  s.badIndex page table d 1 index (s.tblWinAt page) = false ∧ s.entryPoison page table index = false ∧ s.entryAt page table index = some e ∧
  (page, table) ≠ (98, 3) ∧ (page == 88 && table == 0 && s.denied 88 0 1 index m {}) = false :=
  ⟨0x2000, 103, 0, 5, ((State.reset.tbl 103 0).getD { size := 0, ops := [], rw := [] }), ({} : Entry), (placed [.put (.blkUp 103 true), setReg 103 0x118 (BitVec.ofNat 32 (2 ^ 30 + 0x2000))] State.reset), by decide +kernel⟩

theorem witness_tblWrite : ∃ (m page table index : Nat) (d : Tbl) (s : State), (Instr.tblWrite m page table index).wellFormed = true ∧
  s.takesTbl page (s.tblCmd m page 2 table index) = true ∧ s.tbl page table = some d ∧ d.ops.contains 2 = true ∧ keyFam page table = none ∧
  page ∉ [3, 13, 88, 98, 99, 104, 179, 240] ∧ s.badIndex page table d 2 index (s.tblWinAt page) = false ∧
  s.badEntry page table 2 index d (s.tblWinAt page) = false ∧
  s.denied page table 2 index m (((s.tblWinAt page).cut d.rw).join (((s.entryAt page table index).getD {}).cut d.ro)) = false ∧
  s.entryPoison page table index = false ∧ s.jnlAccepts (tableRecord m page table 2 index 0 s) = true :=
  ⟨0x2000, 103, 0, 5, ((State.reset.tbl 103 0).getD { size := 0, ops := [], rw := [] }), (placed [.put (.blkUp 103 true), setReg 103 0x118 (BitVec.ofNat 32 (2 ^ 30 + 0x2000)), .put (.tblWin 103 ((({} : Entry).put NH.VALID 1).put NH.DEST_DEVICE 2)), .put (.jnlSeq 7)] State.reset), by decide +kernel⟩

theorem witness_tblInsert : ∃ (m page table index : Nat) (d : Tbl) (g : Fam) (l : List (Nat × Nat)) (y : Nat × Nat) (s : State),
  (Instr.tblInsert m page table index).wellFormed = true ∧ s.takesTbl page (s.tblCmd m page 3 table index) = true ∧ s.tbl page table = some d ∧
  d.ops.contains 3 = true ∧ keyFam page table = some g ∧ s.badEntry page table 3 index d (s.tblWinAt page) = false ∧
  s.findKey g (g.keyOf ((s.tblWinAt page).cut d.rw)) = none ∧ s.placement g (g.keyOf ((s.tblWinAt page).cut d.rw)) = some (l, y) ∧
  (chainTarget l y).1 ≠ 50 ∧ (chainTarget l y).2 < 2 ^ 22 ∧ s.jnlAccepts (tableRecord m page table 3 (chainTarget l y).2 0 s) = true :=
  ⟨0x2000, 102, 0, 0, ((State.reset.tbl 102 0).getD { size := 0, ops := [], rw := [] }), .mac, [], (0, 148060), (placed [.put (.blkUp 102 true), setReg 102 0x118 (BitVec.ofNat 32 (2 ^ 30 + 0x2000)), .put (.jnlSeq 7), setF (LPM_MEM_USE.USE 0) Fam.mac.code] State.reset), by decide +kernel⟩

theorem witness_tblDelete : ∃ (m page table index : Nat) (g : Fam) (d : Tbl) (y : Nat × Nat) (s : State),
  (Instr.tblDelete m page table index).wellFormed = true ∧ s.takesTbl page (s.tblCmd m page 4 table index) = true ∧ s.tbl page table = some d ∧
  d.ops.contains 4 = true ∧ keyFam page table = some g ∧ s.badEntry page table 4 index d (s.tblWinAt page) = false ∧
  s.keyPoison g (g.keyOf (s.tblWinAt page)) = false ∧ s.findKey g (g.keyOf (s.tblWinAt page)) = some y ∧
  s.jnlAccepts (tableRecord m page table 4 y.2 0 s) = true :=
  ⟨0x2000, 102, 0, 0, .mac, ((State.reset.tbl 102 0).getD { size := 0, ops := [], rw := [] }), (0, 148060), (placed [.put (.blkUp 102 true), setReg 102 0x118 (BitVec.ofNat 32 (2 ^ 30 + 0x2000)), .put (.jnlSeq 7), setF (LPM_MEM_USE.USE 0) Fam.mac.code, .put (.tables (tabKey 102 (0, 148060).1 (0, 148060).2) (some {}))] State.reset), by decide +kernel⟩

theorem witness_tblSearch : ∃ (m page table index : Nat) (g : Fam) (d : Tbl) (y : Nat × Nat) (s : State),
  (Instr.tblSearch m page table index).wellFormed = true ∧ s.takesTbl page (s.tblCmd m page 5 table index) = true ∧ s.tbl page table = some d ∧
  d.ops.contains 5 = true ∧ keyFam page table = some g ∧ g.lpm = false ∧ s.badEntry page table 5 index d (s.tblWinAt page) = false ∧
  s.keyPoison g (g.keyOf (s.tblWinAt page)) = false ∧ s.findKey g (g.keyOf (s.tblWinAt page)) = some y :=
  ⟨0x2000, 102, 0, 0, .mac, ((State.reset.tbl 102 0).getD { size := 0, ops := [], rw := [] }), (0, 148060), (placed [.put (.blkUp 102 true), setReg 102 0x118 (BitVec.ofNat 32 (2 ^ 30 + 0x2000)), .put (.jnlSeq 7), setF (LPM_MEM_USE.USE 0) Fam.mac.code, .put (.tables (tabKey 102 (0, 148060).1 (0, 148060).2) (some {}))] State.reset), by decide +kernel⟩

theorem witness_tblNext : ∃ (m page table index : Nat) (d : Tbl) (i : Nat) (e : Entry) (s : State),
  (Instr.tblNext m page table index).wellFormed = true ∧ s.takesTbl page (s.tblCmd m page 6 table index) = true ∧ s.tbl page table = some d ∧
  d.ops.contains 6 = true ∧ keyFam page table = none ∧ s.badIndex page table d 6 index (s.tblWinAt page) = false ∧ (page, table) ≠ (98, 3) ∧
  (page == 88 && table == 0 && s.denied 88 0 6 index m {}) = false ∧ s.nextIndex page table index d = some i ∧
  s.entryPoison page table i = false ∧ s.entryAt page table i = some e :=
  ⟨0x2000, 103, 0, 5, ((State.reset.tbl 103 0).getD { size := 0, ops := [], rw := [] }), 9, (({} : Entry).put NH.VALID 1), (placed [.put (.blkUp 103 true), setReg 103 0x118 (BitVec.ofNat 32 (2 ^ 30 + 0x2000)), setTab 103 0 9 (({} : Entry).put NH.VALID 1)] State.reset), by decide +kernel⟩

theorem witness_watchdogExpire : ∃ (b : Nat) (s : State), (Instr.watchdogExpire).wellFormed = true ∧ 4 ≤ s.rd DEV_STAT.STAGE ∧ s.bootAt = some b ∧
  s.since b (max 100 (s.rd DEV_WDOG.TIMEOUT_MS) * 1000000) = true ∧ s.rd DEV_RESTARTS.WDOG < 100 ∧ s.rd DEV_RESTARTS.TOTAL < 100 :=
  ⟨0, (placed [setF DEV_STAT.STAGE 7, setF DEV_STAT.MAIN_UP 1, setF PPR_STAT.WINDOW_OPEN 1, .put (.bootAt (some 0))] (resetAt 100000000000)), by decide +kernel⟩

theorem witness_mainMemUe : ∃ (s : State), (Instr.mainMemUe).wellFormed = true ∧ s.rd DEV_STAT.MAIN_UP = 1 ∧ 3 ≤ s.rd DEV_STAT.STAGE ∧
  s.rd DEV_RESTARTS.TOTAL < 100 :=
  ⟨(placed [setF DEV_STAT.STAGE 7, setF DEV_STAT.MAIN_UP 1] State.reset), by decide +kernel⟩

theorem witness_mainUp : ∃ (s : State), (Instr.mainUp).wellFormed = true ∧ s.rd DEV_STAT.MAIN_UP = 0 ∧ 4 ≤ s.rd DEV_STAT.STAGE ∧
  s.rd DEV_STAT.RECOVERY = 0 ∧ s.bootAt.isSome = true :=
  ⟨(placed [setF DEV_STAT.STAGE 7, .put (.bootAt (some 0))] State.reset), by decide +kernel⟩

theorem witness_confirmTimeout : ∃ (e : Nat) (s : State), (Instr.confirmTimeout).wellFormed = true ∧ s.confirmEnd = some e ∧ e ≤ s.mono ∧
  (s.ctl.slot s.ctl.boot).st = 4 ∧ (s.ctl.slot s.ctl.boot).type ≠ 2 :=
  ⟨0, (placed [.put (.confirmEnd (some 0)), .put (.ctl { slotA := { st := 4 }, slotB := { st := 6 }, boot := 0, fallback := 1 })] State.reset), by decide +kernel⟩

theorem witness_storeWrite : ∃ (badReads : Nat) (m : List Peg) (q : Nat) (l : List StoreRec) (s : State),
  (Instr.storeWrite badReads).wellFormed = true ∧ s.storeRuns = true ∧ s.storeBusy = false ∧ s.storeQ = .peg m q :: l ∧ badReads < 2 :=
  ⟨0, [], 1, [], (placed [setF DEV_STAT.MAIN_UP 1, .put (.storeQ [.peg [] 1])] State.reset), by decide +kernel⟩

theorem witness_storeWriteDone : ∃ (journal : Bool) (m : List Peg) (q : Nat) (s : State), (Instr.storeWriteDone journal).wellFormed = true ∧
  journal = false ∧ s.storeBusy = true ∧ s.storeQ = [.peg m q] ∧ q < 2 ^ 32 :=
  ⟨false, [], 9, (placed [.put (.storeBusy true), .put (.storeQ [.peg [] 9])] State.reset), by decide +kernel⟩

theorem witness_storeWriteDone_b : ∃ (journal : Bool) (c : Control) (s : State), (Instr.storeWriteDone journal).wellFormed = true ∧
  journal = false ∧ s.storeBusy = true ∧ s.storeQ = [.control c 0 0] ∧ s.updOp = none :=
  ⟨false, { boot := 1 }, (placed [.put (.storeBusy true), .put (.storeQ [.control { boot := 1 } 0 0])] State.reset), by decide +kernel⟩

theorem witness_storeWriteDone_c : ∃ (journal : Bool) (c : Control) (k : Nat) (s : State), (Instr.storeWriteDone journal).wellFormed = true ∧
  journal = false ∧ s.storeBusy = true ∧ k < 2 ∧ s.storeQ = [.control c 0 (3 + k)] ∧ s.updOp = some { op := 1, waits := true } :=
  ⟨false, { boot := 1 }, 0, (placed [.put (.storeBusy true), .put (.storeQ [.control { boot := 1 } 0 3]), .put (.updOp (some { op := 1, waits := true })), .put (.imgUnit 0 [1])] State.reset), by decide +kernel⟩

theorem witness_storeWriteDone_d : ∃ (journal : Bool) (r : JRec) (s : State), (Instr.storeWriteDone journal).wellFormed = true ∧ journal = true ∧
  s.storeRuns = true ∧ s.jnlWriting = [r] ∧ s.bkpCopied = [] :=
  ⟨true, { seq := 5 }, (placed [setF DEV_STAT.MAIN_UP 1, .put (.jnlWriting [{ seq := 5 }])] State.reset), by decide +kernel⟩

theorem witness_pegWrite : ∃ (s : State), (Instr.pegWrite).wellFormed = true ∧ s.storeRuns = true ∧ s.pegDue.isSome = true ∧ s.storeQ = [] :=
  ⟨(placed [setF DEV_STAT.MAIN_UP 1, .put (.pegDue (some 0))] State.reset), by decide +kernel⟩

theorem witness_updCmdDone : ∃ (u : UpdOp) (s : State), (Instr.updCmdDone).wellFormed = true ∧ s.updOp = some u ∧ u.waits = false ∧
  u.result < 16 :=
  ⟨{ op := 2, result := 3 }, (placed [.put (.updOp (some { op := 2, result := 3 }))] State.reset), by decide +kernel⟩

theorem witness_txDescFetch : ∃ (desc : List Word) (q n : Nat) (s : State), (Instr.txDescFetch desc).wellFormed = true ∧
  s.rd (BLK_CTRL.ENABLE 2) = 1 ∧ s.txNext = some q ∧ s.rd PCIE_LINK_STAT.IN_L1 = 0 ∧ s.badDesc (desc.map BitVec.toNat) = false ∧ s.qpOwner q = 0 ∧
  dsc (desc.map BitVec.toNat) 0 31 30 = 0 ∧ n = dsc (desc.map BitVec.toNat) 0 13 0 ∧
  (s.stgRefuses { kind := 4, lenSrc := 1, frameLen := n + 4 }) = none ∧
  s.fetchRoom (dsc (desc.map BitVec.toNat) 1 28 19) (dsc (desc.map BitVec.toNat) 1 18 0) (n + 4) = true :=
  ⟨[100, 0, 0, 0, 0x2000, 0, 0, 0], 5, 100, (placed [.put (.pcieFn 0 { State.reset.pcieFnAt 0 with mse := true, bme := true }), setTab 3 0 5 (((({} : Entry).put QP.EN 1).put QP.STATE 1).put QP.CQ_LOG 4), .put (.qpx 5 { State.reset.qpxAt 5 with txTail := 1 }), setF (BLK_CTRL.ENABLE 2) 1] State.reset), by decide +kernel⟩

theorem witness_txRateWait : ∃ (qp : Nat) (r : TxRead) (s : State), (Instr.txRateWait qp).wellFormed = true ∧ (s.qpxAt qp).wait = some r ∧
  (s.qp qp).f QP.STATE = 1 ∧ s.dmaOn (s.qpFn qp) = true ∧ s.qpOwner qp = 0 ∧ dsc r.desc 0 31 30 = 1 ∧ s.lookAt = none ∧ s.linkClear 1 = true :=
  ⟨5, { idx := 3, desc := [2 ^ 30 + 100, 0, 0, 0, 0x2000, 0, 0, 0] }, (placed [.put (.pcieFn 0 { State.reset.pcieFnAt 0 with mse := true, bme := true }), setTab 3 0 5 (((({} : Entry).put QP.EN 1).put QP.STATE 1).put QP.CQ_LOG 4), .put (.qpx 5 { State.reset.qpxAt 5 with wait := some { idx := 3, desc := [2 ^ 30 + 100, 0, 0, 0, 0x2000, 0, 0, 0] } })] State.reset), by decide +kernel⟩

theorem witness_txReadDone : ∃ (qp status : Nat) (bytes : List Byte) (r : TxRead) (l : List TxRead) (s : State),
  (Instr.txReadDone qp status bytes).wellFormed = true ∧ (s.qpxAt qp).reads = r :: l ∧ status = 3 ∧ s.dmaOn (s.qpFn qp) = true ∧
  bitOf (r.desc.getD 0 0) 27 = false :=
  ⟨5, 3, [], { idx := 3, desc := [2 ^ 30 + 100, 0, 0, 0, 0x2000, 0, 0, 0] }, [], (placed [.put (.pcieFn 0 { State.reset.pcieFnAt 0 with mse := true, bme := true }), .put (.qpx 5 { State.reset.qpxAt 5 with reads := [{ idx := 3, desc := [2 ^ 30 + 100, 0, 0, 0, 0x2000, 0, 0, 0] }] })] State.reset), by decide +kernel⟩

theorem witness_recordWrite : ∃ (qp : Nat) (desc : List Word) (r : HostRec) (l : List HostRec) (s : State),
  (Instr.recordWrite qp desc).wellFormed = true ∧ s.hostQAt qp = r :: l ∧ s.rd PCIE_LINK_STAT.IN_L1 = 0 ∧ s.dmaOn (s.qpFn qp) = true ∧
  r.pkt = none ∧ (s.qp qp).f QP.STATE = 1 ∧ s.instOpen qp = true ∧ s.cqFull qp = false ∧ (s.qpxAt qp).rxTail ≠ (s.qp qp).f QP.RX_HEAD :=
  ⟨5, [0x4000, 0, 0, 0], { rec_ := 4 }, [], (placed [.put (.hostQ 5 [{ rec_ := 4 }]), .put (.pcieFn 0 { State.reset.pcieFnAt 0 with mse := true, bme := true }), setTab 3 0 5 (((({} : Entry).put QP.EN 1).put QP.STATE 1).put QP.CQ_LOG 4), .put (.qpx 5 { State.reset.qpxAt 5 with rxTail := 1 })] State.reset), by decide +kernel⟩

theorem witness_qpDrained : ∃ (qp : Nat) (s : State), (Instr.qpDrained qp).wellFormed = true ∧ (s.qp qp).f QP.STATE = 3 ∧
  (s.qpxAt qp).reads = [] ∧ (s.qp qp).on QP.EN = false ∧ qp < 2 ^ 22 :=
  ⟨5, (placed [setTab 3 0 5 (({} : Entry).put QP.STATE 3)] State.reset), by decide +kernel⟩

theorem witness_dmaReadTimeout : ∃ (qp : Nat) (descriptors : Bool) (r : TxRead) (c : Nat) (s : State),
  (Instr.dmaReadTimeout qp descriptors).wellFormed = true ∧ descriptors = false ∧ s.ctoNs = some c ∧ (s.qpxAt qp).reads = [r] ∧
  s.since r.at_ c = true ∧ s.contained = false ∧ s.rd PCIE_CTO_COUNT.COUNT < 100 :=
  ⟨5, false, { idx := 3, desc := [2 ^ 30 + 100, 0, 0, 0, 0x2000, 0, 0, 0] }, 50000000, (placed [.put (.qpx 5 { State.reset.qpxAt 5 with reads := [{ idx := 3, desc := [2 ^ 30 + 100, 0, 0, 0, 0x2000, 0, 0, 0] }] })] (resetAt 50000000)), by decide +kernel⟩

theorem witness_lateCompletion : ∃ (qp : Nat) (s : State), (Instr.lateCompletion qp).wellFormed = true ∧ (s.qpxAt qp).late ≠ 0 :=
  ⟨5, (placed [.put (.qpx 5 { State.reset.qpxAt 5 with late := 1 })] State.reset), by decide +kernel⟩

theorem witness_l1Entry : ∃ (s : State), (Instr.l1Entry).wellFormed = true ∧ s.rd PCIE_LINK_STAT.DL_UP = 1 ∧ s.rd PCIE_LINK_STAT.IN_L1 = 0 ∧
  (s.pcieFnAt 0).aspmL1 = true ∧ s.hostBusy = false ∧ s.since s.l1At (max 1 (s.rd PCIE_ASPM_CFG.L1_IDLE_US) * 1000) = true ∧
  s.rd PCIE_LINK_STAT.L1_ENTRIES < 100 :=
  ⟨(placed [setF PCIE_LINK_STAT.DL_UP 1, .put (.pcieFn 0 { State.reset.pcieFnAt 0 with aspmL1 := true })] (resetAt 1000000000)), by decide +kernel⟩

theorem witness_l1Exit : ∃ (s : State), (Instr.l1Exit).wellFormed = true ∧ s.rd PCIE_LINK_STAT.IN_L1 = 1 :=
  ⟨(placed [setF PCIE_LINK_STAT.IN_L1 1] State.reset), by decide +kernel⟩

theorem witness_containmentEnter : ∃ (cause : Nat) (s : State), (Instr.containmentEnter cause).wellFormed = true ∧ cause = 4 ∧
  s.rd PCIE_LINK_STAT.DL_UP = 1 ∧ s.contained = false :=
  ⟨4, (placed [setF PCIE_LINK_STAT.DL_UP 1, setTab 3 0 5 (({} : Entry).put QP.EN 1)] State.reset), by decide +kernel⟩

theorem witness_perstRelease : ∃ (s : State), (Instr.perstRelease).wellFormed = true :=
  ⟨(placed [.put (.perstLow true)] State.reset), by decide +kernel⟩

theorem witness_dataLinkUp : ∃ (speed width : Nat) (conf : Word) (s : State), (Instr.dataLinkUp speed width conf).wellFormed = true ∧
  s.perstLow = false ∧ s.blkUpAt 1 = true ∧ speed < 8 ∧ width < 32 :=
  ⟨5, 16, 0xB, (placed [.put (.blkUp 1 true), .put (.perstLow false)] State.reset), by decide +kernel⟩

theorem witness_bar4Write : ∃ (m addr : Nat) (data : Word) (s : State), (Instr.bar4Write m addr data).wellFormed = true ∧ m = 0 ∧
  (s.pcieFnAt 0).mse = true :=
  ⟨0, 0x100, 7, (placed [.put (.pcieFn 0 { State.reset.pcieFnAt 0 with mse := true })] State.reset), by decide +kernel⟩

end Sys2Proof.Tests
end

