-- ==== Sys2Proof/Proofs/DieLinkLoss.lean ====
section
/-!
PROOF. The loss of the die-to-die link with a write that has not yet joined its source's queue (spec/01_architecture.md R36).  R36 counts each unexecuted
write as lost.  A service core's write of an ECMP member on the FE die is made by the device itself (spec/12_services.md R446); while the link is down it is
held in `jnlHeld`, and `srcLost` counts it beside the posted writes of the queue.
-/
namespace Sys2Proof.Machine

/-- The link has been down for 10 µs when BFD session 0, owned by service core 0, takes out ECMP member 5: the write cannot cross and is held. -/
def memberHeldAtLoss : State :=
  (memberOut 0 5).run
    ((setTab 103 2 5 (({} : Entry).put MEM.VALID 1)).run { State.reset with mono16 := 10000 * 65536, dieDownAt := some 0 })

/-- Source 1 is service core 0: its queue is empty, and the one write it has outstanding is held. -/
theorem memberHeldAtLoss_outstanding :
    memberHeldAtLoss.dieQAt 1 = [] ∧ memberHeldAtLoss.jnlHeld.map (memberHeldAtLoss.heldOut 1) = [true] := by decide +kernel

/-- DIE_LINK_LOSS counts the held write as lost for its source. -/
theorem dieLinkLoss_counts_heldMember {t : State} (h : exec .dieLinkLoss memberHeldAtLoss = .next t) : t.dieLostAt 1 = 1 := by
  change execDieLinkLoss memberHeldAtLoss = .next t at h
  unfold execDieLinkLoss at h
  rw [command_runs _ _ rfl] at h
  obtain rfl := Host.Outcome.next.inj h
  decide +kernel

/-- Refutes O46: its last clause lets DIE_LINK_LOSS count a source's queued posted writes and nothing else, but the model also counts, as R36 asks, the
ECMP member writes that still wait to join the queue.  In `memberHeldAtLoss` the clause asks for a count of 0 and the model gives 1. -/
theorem not_dieToDieLink : ¬ Obligations.DieToDieLink := by
  intro h
  obtain ⟨-, -, -, -, -, -, -, -, hLoss⟩ := h
  obtain ⟨t, ht, -, hSources, -⟩ := hLoss 0 memberHeldAtLoss rfl (by decide +kernel) (by decide +kernel) (by decide +kernel) (by decide +kernel)
  obtain ⟨-, -, hClaimed⟩ := hSources 1 (by decide)
  have hBefore : memberHeldAtLoss.dieLostAt 1 = 0 := by decide +kernel
  rw [dieLinkLoss_counts_heldMember ht, hBefore, memberHeldAtLoss_outstanding.1] at hClaimed
  exact absurd hClaimed (by decide)

end Sys2Proof.Machine
end

