-- ==== Sys2Proof/Proofs/StepInvariant.lean ====
section
/-!
PROOF. Every step keeps the sparse stores in canonical form and the bounded FIFOs within their room: the writes of programs by the lemma of
Laws/Act.lean, and the resets of the device because what they leave stands in the reset state or is kept whole or in part.
-/
namespace Sys2Proof.Machine

theorem State.reset_inv : State.reset.Inv := by unfold State.Inv; decide +kernel

/-- The registers of well-formed pages are in canonical form. -/
theorem canon_regs {p : PagePart} (h : p.wf = true) : Sp.canon dfltRegs p.regs = true := by
  simp only [PagePart.wf, Bool.and_eq_true] at h
  simp only [h]

/-- A reset of the device leaves stores that the reset state has, or that it keeps whole or in part. -/
theorem State.inv_restarted (s : State) (keep : List Nat) (h : s.Inv) : (s.restarted keep).Inv := by
  have hReset := State.reset_inv
  unfold State.Inv at h hReset ⊢
  rw [State.wf_iff] at h hReset ⊢
  obtain ⟨-, hPage, -, -, -, -, -, -, -, -, -, -, -, -, -, -, hStore, hPresence⟩ := h
  obtain ⟨hd, rPage, hp, hl, hi, hb, hs, hf, hm, ht, hv, hh, hu, hr, ha, hc, rStore, rPresence⟩ := hReset
  simp only [PagePart.wf, Bool.and_eq_true] at rPage
  simp only [StorePart.wf, PresencePart.wf, Bool.and_eq_true] at hStore hPresence rStore rPresence
  refine ⟨hd, ?_, hp, hl, hi, hb, hs, hf, hm, ht, hv, hh, hu, hr, ha, hc, ?_, ?_⟩
  · rw [show (s.restarted keep).toPagePart = { State.reset.toPagePart with regs := s.regs.filter (fun kv => keep.contains kv.1) } from rfl]
    simp only [PagePart.wf, Bool.and_eq_true, Sp.canon_filter _ (canon_regs hPage), rPage, and_self]
  · obtain ⟨hStores, -⟩ := hStore
    obtain ⟨-, hCoreTag⟩ := rStore
    simp only [StorePart.wf, Bool.and_eq_true]
    exact ⟨hStores, hCoreTag⟩
  · obtain ⟨⟨⟨⟨hRecent, -⟩, hPre⟩, hPersist⟩, hBacklog⟩ := rPresence
    obtain ⟨⟨⟨⟨-, hUnits⟩, -⟩, -⟩, -⟩ := hPresence
    simp only [PresencePart.wf, Bool.and_eq_true]
    exact ⟨⟨⟨⟨hRecent, hUnits⟩, hPre⟩, hPersist⟩, hBacklog⟩

/-- What a command that runs a program answers, if it answers a next state, is well formed. -/
theorem inv_command {i : Instr} {p : Prog} {s t : State} (hs : s.Inv) (h : command i p s = .next t) : t.Inv := by
  obtain ⟨-, rfl⟩ := command_next h
  exact Prog.inv_run _ s hs

/-- What a command that may reset the device answers is well formed, if what the reset leaves is. -/
theorem inv_resetCommand {i : Instr} {first last : Prog} {goes : State → Bool} {f : State → State} {s t : State} (hs : s.Inv)
    (hf : ∀ u : State, u.Inv → (f u).Inv) (h : resetCommand i first goes f last s = .next t) : t.Inv := by
  have hFirst := Prog.inv_run (Prog.andThen (.put (.emitted [])) first) s hs
  unfold resetCommand at h
  split at h
  · obtain rfl := Host.Outcome.next.inj h
    split
    · exact Prog.inv_run last _ (hf _ hFirst)
    · exact hFirst
  · cases h

theorem State.inv_powered (s : State) (keep : List Nat) (h : s.Inv) : (s.powered keep).Inv := s.inv_restarted keep h

/-- Every command keeps a state well formed: all but four run one program of writes, and those four reset the device. -/
theorem inv_exec {i : Instr} {s t : State} (hs : s.Inv) (h : exec i s = .next t) : t.Inv := by
  cases i with
  | mainPowerOnReset => simp only [exec] at h; exact inv_resetCommand hs (fun u => u.inv_powered _) h
  | standbyPowerOnReset => simp only [exec] at h; exact inv_resetCommand hs (fun u => u.inv_powered _) h
  | resetNAssert ns => simp only [exec] at h; exact inv_resetCommand hs (fun u => u.inv_restarted _) h
  | coldStart slot => simp only [exec] at h; exact inv_resetCommand (f := fun u => { u with mono16 := 0 }) hs (fun _ hu => hu) h
  | _ => simp only [exec] at h; exact inv_command hs h

/-- With no command waiting, programs of writes run and MONO, which no store holds, moves on. -/
theorem inv_idle {s t : State} (hs : s.Inv) (h : idle s = .next t) : t.Inv := by
  obtain rfl := Host.Outcome.next.inj h
  exact Prog.inv_run (seqs [.put (.emitted []), .put (.bufBad false), tick, ppsFall, fabricTick, joinTick]) s hs

/-- Settles O5: every write of a program keeps every store canonical and every FIFO within its room, and so does what a reset of the device leaves. -/
theorem stepKeepsInvariant : Obligations.StepKeepsInvariant := by
  intro s t hs h
  unfold step at h
  split at h
  · exact inv_idle hs h
  · next c rest hc => exact inv_exec (s := s.withRest rest) hs h
end Sys2Proof.Machine
end

