-- ==== Sys2Proof/Proofs/RegisterPageRefutations.lean ====
section
/-!
PROOF. Statements about the register pages that a concrete state refutes: a block with work in progress (spec/02_register_pages.md R56), a read that removes
the oldest entry of a FIFO (R581), a latched value in the place of the lock (R44, R73), a VIRT table entry whose write settles its transmit meter
(spec/14_virtual_instances.md R504), and a FIFO that holds more entries than it has room for (spec/05_forwarding_tables.md R218).
-/
namespace Sys2Proof.Machine

/-- The state that a command which answers a next state leaves is the one its program leaves. -/
theorem command_state {i : Instr} {p : Prog} {s t : State} (h : command i p s = .next t) : t = p.run { s with emitted := [] } := (command_next h).2

/-! ### A disabled block with work in progress (R56) -/

/-- TRC is disabled and its buffer holds a trace record that has not been read: the block still works. -/
def traceHeld : State := (seqs [.put (.traceBuf [{}]), setF (BLK_STAT.IDLE 11) 0]).run State.reset

/-- BLOCK_DRAINED does not show the block idle while it has a record to deliver. -/
theorem traceHeld_notIdle {t : State} (h : exec (.blockDrained 11) traceHeld = .next t) : t.rd (BLK_STAT.IDLE 11) = 0 := by
  simp only [exec, execBlockDrained] at h
  rw [command_state h]
  decide +kernel

/-- Refutes O12: its fifth clause has IDLE set by BLOCK_DRAINED in every disabled block, and leaves out that the block must have nothing left (R56).  In
`traceHeld` a trace record waits, and IDLE stays 0. -/
theorem not_blockControl : ¬ Obligations.BlockControl := by
  intro h
  obtain ⟨-, -, -, -, hDrained, -⟩ := h
  obtain ⟨t, ht, hIdle⟩ := hDrained 11 traceHeld rfl (by decide +kernel) (by decide)
  rw [traceHeld_notIdle ht] at hIdle
  exact absurd hIdle (by decide)

/-! ### A read that removes the oldest entry of a FIFO (R581) -/

/-- The fault collector is up and its log holds one message. -/
def faultLogged : State := (seqs [.put (.blkUp 5 true), .put (.cryLog [({}, 0)])]).run State.reset

/-- PF0's read of CRY_LOG_DATA5 removes the message. -/
theorem faultLogged_popped {t : State} (h : exec (.loReadLatch 0 5 (0x234, 1)) faultLogged = .next t) : t.cryLog = [] := by
  simp only [exec, execLoReadLatch] at h
  rw [command_state h]
  decide +kernel

/-- Refutes O13: its last clause lets a read of a register that latches nothing change nothing but what it sends, but a read of the last word of a FIFO's oldest
entry removes the entry (R581).  In `faultLogged` the read of CRY_LOG_DATA5 empties the log. -/
theorem not_loHiLatchOfEachMaster : ¬ Obligations.LoHiLatchOfEachMaster := by
  intro h
  obtain ⟨-, -, hLive⟩ := h
  obtain ⟨t, ht, -, hFrame⟩ := hLive 0 5 0x234 faultLogged rfl (by decide +kernel) (by decide) (by decide) (by decide +kernel) (by decide +kernel)
    (by decide +kernel)
  have hSame : faultLogged.cryLog = t.cryLog := State.framed_same hFrame .cryLog (by decide)
  rw [faultLogged_popped ht] at hSame
  exact absurd hSame (by decide +kernel)

/-! ### A latched value in the place of the lock (R44, R73) -/

/-- FlexE group 0 is up, its window is free, and the latch of PF0 there holds a value for the offset of TBL_LOCK. -/
def lockLatched : State := (seqs [.put (.blkUp 64 true), .put (.hiLatch (pairKey 0 64) [(0x118, 0)])]).run State.reset

/-- PF0's read of TBL_LOCK answers the latched value and takes nothing. -/
theorem lockLatched_notHeld {t : State} (h : exec (.tblLockAcquire 0 64) lockLatched = .next t) : t.rd (TBL_LOCK.HELD 64) = 0 := by
  simp only [exec, execTblLockAcquire] at h
  rw [command_state h]
  decide +kernel

/-- Refutes O44: its second clause has every read of a free TBL_LOCK take the window, in states, too, where the reader has a value latched for that offset, which the
read answers instead (R44).  No read latches that offset, so the device does not reach `lockLatched`; the clause leaves such states in. -/
theorem not_tableWindow : ¬ Obligations.TableWindow := by
  intro h
  obtain ⟨-, hAcquire, -⟩ := h
  obtain ⟨t, ht, hHeld, -⟩ := hAcquire 0 64 lockLatched rfl (by decide +kernel) (by decide +kernel) (by decide +kernel)
  rw [lockLatched_notHeld ht] at hHeld
  exact absurd hHeld (by decide)

/-! ### An entry of VIRT's table (spec/14_virtual_instances.md R504) -/

/-- One nanosecond after reset, VIRT is up and PF0 holds its table command window. -/
def windowHeld : State := (seqs [.put (.blkUp 4 true), setReg 4 0x118 0x40000000]).run { State.reset with mono16 := 65536 }

/-- A write of entry 1 of VIRT's table brings its transmit meter up to the present time. -/
theorem windowHeld_settles {t : State} (h : exec (.tblWrite 0 4 0 1) windowHeld = .next t) : (t.vinstAt 1).usedAt = 1 := by
  simp only [exec, execTblWrite] at h
  rw [command_state h]
  decide +kernel

/-- Refutes O58: its third clause has a WRITE of an indexed table change no piece of state but the window's and the record's, but a WRITE of VIRT's table also
settles the entry's transmit meter at the rate in force until now (R504).  In `windowHeld` the meter's time moves from 0 to 1 ns. -/
theorem not_tableCommands : ¬ Obligations.TableCommands := by
  intro h
  obtain ⟨-, -, hWrite, -⟩ := h
  obtain ⟨t, ht, -, -, hFrame⟩ := hWrite 0 4 0 1 _ windowHeld rfl (by decide +kernel) rfl (by decide +kernel) (by decide +kernel) (by decide)
    (by decide +kernel) (by decide +kernel) (by decide +kernel) (by decide +kernel) (by decide +kernel)
  have hSame : windowHeld.vinst = t.vinst := State.framed_same hFrame .vinst (by decide)
  have hSettled := windowHeld_settles ht
  rw [State.vinstAt, ← hSame] at hSettled
  exact absurd hSettled (by decide +kernel)

/-! ### Notifications (spec/05_forwarding_tables.md R218) -/

/-- L2B is up and 4,098 notifications wait, two more than the FIFO has room for. -/
def ntfOverfull : State := { (Prog.put (.blkUp 102 true)).run State.reset with l2bNtf := List.replicate 4098 (0, 0, 0, 0) }

/-- After one is read no more than the FIFO's room is left. -/
theorem ntfOverfull_cut {t : State} (h : exec (.l2bNtfPop 0x2000) ntfOverfull = .next t) : t.l2bNtf.length = 4096 := by
  simp only [exec, execL2bNtfPop] at h
  rw [command_state h]
  decide +kernel

/-- Refutes O40: its third clause has a read of L2B_NTF_DATA3 remove one notification and no other, in states, too, that hold more notifications than the FIFO has
room for; a write of the FIFO keeps its 4,096 oldest (R218).  The device does not reach `ntfOverfull`; the clause leaves such states in. -/
theorem not_learning : ¬ Obligations.Learning := by
  intro h
  obtain ⟨-, -, hPop, -⟩ := h
  obtain ⟨t, ht, hRest, -, -⟩ := hPop 0x2000 ntfOverfull rfl (by decide +kernel) (by decide +kernel)
  have hLength := ntfOverfull_cut ht
  rw [hRest] at hLength
  exact absurd hLength (by decide +kernel)

end Sys2Proof.Machine
end

