-- ==== Sys2Proof/Proofs/AccessPath.lean ====
section
/-!
SUPPORT. The path of a master's access to a register (spec/02_register_pages.md R41 to R48, spec/01_architecture.md R28 to R36): what an access sends besides what it
does on its page, the write and the read that reach the page, and the reads of registers after writes of others.
-/
namespace Sys2Proof.Machine

/-! ### Running programs -/

theorem run_seqs_cons (p : Prog) (ps : List Prog) (s : State) : (seqs (p :: ps)).run s = (seqs ps).run (p.run s) := by
  cases ps <;> rfl

@[simp] theorem run_seqs_nil (s : State) : (seqs []).run s = s := rfl

theorem run_onlyIf_false {b : Bool} (p : Prog) (s : State) (h : b = false) : (onlyIf b p).run s = s := by subst h; rfl

theorem run_onlyIf_true {b : Bool} (p : Prog) (s : State) (h : b = true) : (onlyIf b p).run s = p.run s := by subst h; rfl

/-! ### What an access sends -/

/-- From `s` to `t` nothing happens but on the die-to-die link and in what the step sends out, where `t` has all that `s` has. -/
def State.sends (s t : State) : Prop := ∃ tx rx es, t = { s with dieTx := tx, dieRx := rx, emitted := s.emitted ++ es }

theorem State.sends_refl (s : State) : s.sends s := ⟨s.dieTx, s.dieRx, [], by rw [List.append_nil]⟩

theorem State.sends_trans {s t u : State} (h : s.sends t) (h' : t.sends u) : s.sends u := by
  obtain ⟨_, _, es, rfl⟩ := h
  obtain ⟨tx, rx, fs, rfl⟩ := h'
  exact ⟨tx, rx, es ++ fs, by rw [List.append_assoc]⟩

section Reads
variable {s t : State} (h : s.sends t)
include h

theorem State.sends_reg (page off : Nat) : t.reg page off = s.reg page off := by obtain ⟨_, _, _, rfl⟩ := h; rfl
theorem State.sends_rd (f : Fld) : t.rd f = s.rd f := by obtain ⟨_, _, _, rfl⟩ := h; rfl
theorem State.sends_unitsAt (k : Nat) : t.unitsAt k = s.unitsAt k := by obtain ⟨_, _, _, rfl⟩ := h; rfl
theorem State.sends_dirtyAt (k : Nat) : t.dirtyAt k = s.dirtyAt k := by obtain ⟨_, _, _, rfl⟩ := h; rfl
theorem State.sends_loHeldAt (k : Nat) : t.loHeldAt k = s.loHeldAt k := by obtain ⟨_, _, _, rfl⟩ := h; rfl
theorem State.sends_hiLatchAt (k : Nat) : t.hiLatchAt k = s.hiLatchAt k := by obtain ⟨_, _, _, rfl⟩ := h; rfl
theorem State.sends_blkUpAt (k : Nat) : t.blkUpAt k = s.blkUpAt k := by obtain ⟨_, _, _, rfl⟩ := h; rfl
theorem State.sends_reaches (m : Nat) : t.reaches m = s.reaches m := by obtain ⟨_, _, _, rfl⟩ := h; rfl
theorem State.sends_waitsBehind (m page : Nat) : t.waitsBehind m page = s.waitsBehind m page := by obtain ⟨_, _, _, rfl⟩ := h; rfl
theorem State.sends_dieQ : t.dieQ = s.dieQ := by obtain ⟨_, _, _, rfl⟩ := h; rfl
theorem State.sends_dieQAt (k : Nat) : t.dieQAt k = s.dieQAt k := by rw [State.dieQAt, State.sends_dieQ h]; rfl
theorem State.sends_shows (page off : Nat) : t.shows page off = s.shows page off := by obtain ⟨_, _, _, rfl⟩ := h; rfl
theorem State.sends_emitted {e : Emit} (he : e ∈ s.emitted) : e ∈ t.emitted := by
  obtain ⟨_, _, _, rfl⟩ := h
  exact List.mem_append_left _ he

end Reads

/-- From every state, the program does nothing but send. -/
def Prog.Sends (p : Prog) : Prop := ∀ s : State, s.sends (p.run s)

theorem sends_skip : Prog.skip.Sends := State.sends_refl

theorem sends_andThen {p q : Prog} (hp : p.Sends) (hq : q.Sends) : (Prog.andThen p q).Sends := fun s => State.sends_trans (hp s) (hq _)

theorem sends_look {f : State → Prog} (h : ∀ s, (f s).Sends) : (Prog.look f).Sends := fun s => h s s

theorem sends_seqs_cons {p : Prog} {ps : List Prog} (hp : p.Sends) (hq : (seqs ps).Sends) : (seqs (p :: ps)).Sends := fun s =>
  run_seqs_cons p ps s ▸ State.sends_trans (hp s) (hq _)

theorem sends_onlyIf {b : Bool} {p : Prog} (h : p.Sends) : (onlyIf b p).Sends := by
  cases b
  · exact sends_skip
  · exact h

theorem sends_emit (e : Emit) : (emit e).Sends := fun s => ⟨s.dieTx, s.dieRx, [e], rfl⟩

theorem sends_dieTx (k : Nat) (x : FlitTx) : (Prog.put (.dieTx k x)).Sends := fun s => ⟨_, s.dieRx, [], by rw [List.append_nil]; rfl⟩

theorem sends_dieRx (k : Nat) (x : FlitRx) : (Prog.put (.dieRx k x)).Sends := fun s => ⟨s.dieTx, _, [], by rw [List.append_nil]; rfl⟩

theorem sends_sendFlit (die chan : Nat) (words : List Nat) : (sendFlit die chan words).Sends := sends_look fun _ => sends_dieTx _ _

theorem sends_alignFollower (die seq : Nat) : (alignFollower die seq).Sends := sends_look fun _ => sends_onlyIf (sends_emit _)

theorem sends_passFlit (die chan : Nat) (words : List Nat) : (passFlit die chan words).Sends := sends_look fun _ =>
  sends_seqs_cons (sends_dieTx _ _) (sends_seqs_cons (sends_dieRx _ _) (sends_seqs_cons (sends_emit _) (sends_alignFollower _ _)))

theorem sends_crossFlit (die chan : Nat) (words : List Nat) : (crossFlit die chan words).Sends := sends_look fun s => by
  split
  · exact sends_passFlit die chan words
  · exact sends_sendFlit die chan words

theorem sends_answerRead (m page off : Nat) (w : Word) : (answerRead m page off w).Sends := sends_emit _

/-- A credit that goes back lets no request out where none waits. -/
theorem creditBack_sends (k : Nat) (s : State) (h : s.dieQAt k = []) : s.sends ((creditBack k).run s) := by
  simp only [creditBack, Prog.run]
  split
  · have hPass := sends_passFlit (1 - srcDie k) 3 [0, k] s
    have hQueue : ((passFlit (1 - srcDie k) 3 [0, k]).run s).dieQAt k = [] := (State.sends_dieQAt hPass k).trans h
    simpa only [Prog.run, dieIssue, hQueue, List.find?_nil] using hPass
  · exact sends_sendFlit _ _ _ s

/-! ### A write that reaches its page -/

/-- A program that leaves the held accesses and the link's requests alone from a state. -/
def Prog.KeepsHeld (p : Prog) (s : State) : Prop := (p.run s).jnlHeld = s.jnlHeld ∧ (p.run s).dieQ = s.dieQ

/-- The acknowledgement of a write request and the return of its credit do nothing but send. -/
theorem writeEnd_sends (k die chan : Nat) (words : List Nat) (s : State) (hQueue : s.dieQAt k = []) :
    s.sends ((seqs [.skip, crossFlit die chan words, creditBack k]).run s) := by
  have hFlit := sends_crossFlit die chan words s
  exact State.sends_trans hFlit (creditBack_sends k _ ((State.sends_dieQAt hFlit k).trans hQueue))

/-- A write of one register, on the master's own die or across a free link, is the write at the page between states that differ in what was sent alone. -/
theorem hostWrite_run {m page off be : Nat} {data : Word} {s : State} (hReach : s.reaches m = true) (hClear : s.crossClear m page = true)
    (hKeeps : ∀ u, s.sends u → (writeWord m page off (be % 16) data).KeepsHeld u) :
    ∃ u, s.sends u ∧ ((writeWord m page off (be % 16) data).run u).sends ((hostWrite m page off be data).run s) := by
  unfold hostWrite hostWrites
  cases hCross : crossing m page with
  | none =>
    refine ⟨s, s.sends_refl, ?_⟩
    simp only [writeWords, Prog.run]
    exact State.sends_refl _
  | some k =>
    simp only [State.crossClear, hCross, State.crossFree, Bool.and_eq_true, List.isEmpty_iff] at hClear
    obtain ⟨⟨⟨hQueue, hRead⟩, hOut⟩, hBack⟩ := hClear
    have hFree : s.crossFree k = true := by simp [State.crossFree, hQueue, hRead, hOut, hBack]
    have hPass := sends_passFlit (srcDie k) 1 (DieReq.flit { master := m, page := page, off := off, be := be, data := [data.toNat] } k) s
    refine ⟨_, hPass, ?_⟩
    obtain ⟨hHeld, hKept⟩ := hKeeps _ hPass
    simp only [Prog.run, hReach, run_onlyIf_true, crossChunks, List.length_cons, List.length_nil, List.map_cons, List.map_nil, List.isEmpty_cons, List.take,
      List.drop, List.isEmpty_nil, if_true, each, crossSend, hFree, crossWrite, Bool.false_eq_true, if_false, BitVec.ofNat_toNat, BitVec.setWidth_eq,
      State.wouldHold, hHeld, Nat.lt_irrefl, decide_false]
    refine writeEnd_sends k _ _ _ _ ?_
    rw [State.dieQAt, hKept]
    exact (State.sends_dieQAt hPass k).trans hQueue

/-- The write of a page that is up, by a master that nothing holds up, is the write of its register. -/
theorem writeWord_run {m page off be : Nat} {data : Word} {s : State} (hReach : s.reaches m = true) (hBlock : (blockOf page).isSome = true)
    (hUp : s.blkUpAt page = true) (hWait : s.waitsBehind m page = false) (hBe : be % 16 = 15) :
    (writeWord m page off be data).run s = (writeNow m page off data).run s := by
  simp [writeWord, regAccess, Prog.run, hReach, Option.isNone_eq_false_iff.mpr hBlock, hUp, hWait, hBe]

/-! ### Reads of registers after writes -/

/-- A register after another, or itself, was set. -/
theorem reg_setReg (s : State) {page off page' off' : Nat} (v : Word) (h : off < 65536) (h' : off' < 65536) :
    ((setReg page off v).run s).reg page' off' = if page = page' ∧ off = off' then v else s.reg page' off' := by
  rw [State.reg, regsAt_setReg]
  by_cases hk : page = page' ∧ off = off'
  · obtain ⟨rfl, rfl⟩ := hk
    simp
  · rw [if_neg hk, if_neg fun e => hk (by obtain ⟨h1, h2⟩ := regKey_inj h' h e; exact ⟨h1.symm, h2.symm⟩)]
    rfl

/-- A register after a field of another was set. -/
theorem reg_setF_ne (s : State) (f : Fld) (v : Nat) {page off : Nat} (h : f.off < 65536) (h' : off < 65536) (hne : f.off ≠ off) :
    ((setF f v).run s).reg page off = s.reg page off := by
  rw [setF, Prog.run, reg_setReg _ _ h h', if_neg (fun e => hne e.2)]

/-! ### The read that reaches its page -/

/-- A read of one register, on the master's own die or across a free link, is the read at the page, whose value goes on to a program that sends the answer. -/
theorem hostRead_run {m page off : Nat} {s : State} (hServes : s.serves m page = true)
    (hKeeps : ∀ (u : State) (K : Word → Prog), s.sends u → (∀ w, (K w).Sends) → ((regRead m page off K).run u).dieQ = u.dieQ) :
    ∃ (u : State) (K : Word → Prog), s.sends u ∧ (∀ w v, v.sends ((K w).run v) ∧ .readData m page off w.toNat false ∈ ((K w).run v).emitted) ∧
      ((regRead m page off K).run u).sends ((hostRead m page off 1).run s) := by
  simp only [State.serves, Bool.and_eq_true, Bool.not_eq_true'] at hServes
  obtain ⟨⟨⟨⟨hReach, hClear⟩, -⟩, -⟩, hWait⟩ := hServes
  have hAnswer : ∀ w (v : State), .readData m page off w.toNat false ∈ ((answerRead m page off w).run v).emitted := fun w v =>
    List.mem_append_right _ (List.mem_singleton.mpr rfl)
  unfold hostRead
  cases hCross : crossing m page with
  | none =>
    refine ⟨s, answerRead m page off, s.sends_refl, fun w v => ⟨sends_answerRead _ _ _ _ v, hAnswer w v⟩, ?_⟩
    simp only [readWords, Prog.run, hWait, Bool.false_eq_true, if_false]
    exact State.sends_refl _
  | some k =>
    simp only [State.crossClear, hCross, State.crossFree, Bool.and_eq_true, List.isEmpty_iff] at hClear
    obtain ⟨⟨⟨hQueue, hRead⟩, hOut⟩, hBack⟩ := hClear
    have hFree : s.crossFree k = true := by simp [State.crossFree, hQueue, hRead, hOut, hBack]
    let r : DieReq := { read := true, master := m, page := page, off := off, n := 1 }
    let K : Word → Prog := fun w => .andThen (crossFlit (1 - srcDie k) 2 [k, page, off, w.toNat]) (answerRead m page off w)
    have hK : ∀ w, (K w).Sends := fun w => sends_andThen (sends_crossFlit _ _ _) (sends_answerRead _ _ _ _)
    have hPass := sends_passFlit (srcDie k) 1 (r.flit k) s
    refine ⟨_, K, hPass, fun w v => ⟨hK w v, hAnswer w _⟩, ?_⟩
    have hQueue' : ((regRead m page off K).run ((passFlit (srcDie k) 1 (r.flit k)).run s)).dieQAt k = [] := by
      rw [State.dieQAt, hKeeps _ K hPass hK]
      exact (State.sends_dieQAt hPass k).trans hQueue
    have hCredit := creditBack_sends k _ hQueue'
    simpa [Prog.run, hReach, run_onlyIf_true, each, crossRead, hFree, run_seqs_cons, readWords, State.sends_waitsBehind hPass, hWait, r, K] using hCredit

/-- The value that a register outside the table command window shows is what a read of it hands on, and a LO latches the offsets named for it. -/
theorem regRead_run_lo {m page off : Nat} {s : State} (K : Word → Prog) (hReach : s.reaches m = true) (hBlock : (blockOf page).isSome = true)
    (hUp : (page == 0 || s.blkUpAt page) = true) (hLo : latchesOf page off ≠ []) (hOff : off < 0x100 ∨ 0x200 ≤ off) (hDecl : (declAt page off).isSome = true)
    (hNone : (s.hiLatchAt (pairKey m page)).all (fun x => x.1 != off) = true) :
    (regRead m page off K).run s = (K (s.shows page off)).run
      ((Prog.put (.hiLatch (pairKey m page) ((latchesOf page off).map fun o => (o, s.shows page o)))).run s) := by
  have hPop : ∀ u : State, (popRead page off).run u = u := by
    have hNot : ∀ p o, latchesOf p o = [] → ¬(page = p ∧ off = o) := fun p o h ⟨hp, ho⟩ => hLo (hp ▸ ho ▸ h)
    have h1 := hNot 5 0x234 (by decide +kernel)
    have h2 := hNot 102 0x22C (by decide +kernel)
    have h3 := hNot 9 0x23C (by decide +kernel)
    have h4 := hNot 13 0x22C (by decide +kernel)
    have h5 := hNot 12 0x28C (by decide +kernel)
    intro u
    simp [popRead, Prog.run, h1, h2, h3, h4, h5]
  have hFind : (s.hiLatchAt (pairKey m page)).find? (fun x => x.1 == off) = none := by
    rw [List.find?_eq_none]
    intro x hx
    simpa using List.all_eq_true.mp hNone x hx
  have hDown : ¬(¬page = 0 ∧ s.blkUpAt page = false) := fun ⟨h0, h1⟩ => by simp [h0, h1] at hUp
  have hWin : (decide (0x120 ≤ off) && decide (off < 0x200)) = false := by
    simp only [Bool.and_eq_false_iff, decide_eq_false_iff_not]
    omega
  have hLock : (off == 0x118) = false := beq_false_of_ne (by omega)
  have hEmpty : (latchesOf page off).isEmpty = false := by simpa using hLo
  simp [regRead, Prog.run, hReach, Option.isNone_eq_false_iff.mpr hBlock, hDown, hFind, hWin, hLock, hEmpty, Option.isNone_eq_false_iff.mpr hDecl,
    run_seqs_cons, hPop, onlyIf]

end Sys2Proof.Machine
end

