-- ==== Sys2Proof/Proofs/ErrorReports.lean ====
section
/-!
SUPPORT. What an error report leaves: the emissions of the step, and the first error of a page in its capture (spec/02_register_pages.md R60, R61).
-/
namespace Sys2Proof.Machine

/-! ### What stays among the emissions of a step -/

/-- From every state, the program takes no emission back. -/
def Prog.KeepsEmitted (p : Prog) : Prop := ∀ (s : State) (e : Emit), e ∈ s.emitted → e ∈ (p.run s).emitted

theorem emitted_skip : Prog.skip.KeepsEmitted := fun _ _ h => h

theorem emitted_andThen {p q : Prog} (hp : p.KeepsEmitted) (hq : q.KeepsEmitted) : (Prog.andThen p q).KeepsEmitted := fun s e h => hq _ e (hp s e h)

theorem emitted_look {f : State → Prog} (h : ∀ s, (f s).KeepsEmitted) : (Prog.look f).KeepsEmitted := fun s => h s s

theorem emitted_seqs : ∀ {ps : List Prog}, (∀ p ∈ ps, p.KeepsEmitted) → (seqs ps).KeepsEmitted
  | [], _ => emitted_skip
  | [p], h => h p (by simp)
  | p :: q :: r, h => emitted_andThen (h p (by simp)) (emitted_seqs (ps := q :: r) fun x hx => h x (List.mem_cons_of_mem _ hx))

theorem emitted_ite {c : Prop} [Decidable c] {p q : Prog} (hp : p.KeepsEmitted) (hq : q.KeepsEmitted) : (if c then p else q).KeepsEmitted := by
  split
  · exact hp
  · exact hq

theorem emitted_onlyIf {b : Bool} {p : Prog} (h : p.KeepsEmitted) : (onlyIf b p).KeepsEmitted := emitted_ite h emitted_skip

/-- A write of any other piece. -/
theorem emitted_put {a : Act} (h : a.piece ≠ .emitted) : (Prog.put a).KeepsEmitted := fun s e he => by
  have hSame : s.emitted = (a.apply s).emitted := a.same_apply s .emitted h.symm
  exact hSame ▸ he

theorem emitted_emit (o : Emit) : (emit o).KeepsEmitted := fun _ _ h => List.mem_append_left _ h

theorem emitted_setReg (page off : Nat) (v : Word) : (setReg page off v).KeepsEmitted := emitted_put (by simp)

theorem emitted_setF (f : Fld) (v : Nat) : (setF f v).KeepsEmitted := emitted_look fun _ => emitted_setReg _ _ _

theorem emitted_bumpF (f : Fld) (n : Nat) : (bumpF f n).KeepsEmitted := emitted_look fun _ => emitted_setF _ _

theorem emitted_setBitF (f : Fld) (b : Nat) (v : Bool) : (setBitF f b v).KeepsEmitted := emitted_look fun _ => emitted_setF _ _

theorem emitted_hostSend (o : Emit) : (hostSend o).KeepsEmitted := emitted_look fun _ => emitted_seqs fun p hp => by
  simp only [List.mem_cons, List.not_mem_nil, or_false] at hp
  rcases hp with rfl | rfl | rfl
  · exact emitted_onlyIf (emitted_setF _ _)
  · exact emitted_look fun _ => emitted_put (by simp)
  · exact emitted_emit o

theorem emitted_signalVector (fn vec : Nat) : (signalVector fn vec).KeepsEmitted :=
  emitted_look fun _ => emitted_ite emitted_skip (emitted_ite (emitted_put (by simp)) (emitted_hostSend _))

theorem emitted_refreshInta : refreshInta.KeepsEmitted :=
  emitted_look fun _ => emitted_onlyIf (emitted_andThen (emitted_put (by simp)) (emitted_onlyIf (emitted_hostSend _)))

theorem emitted_refreshIrq (page : Nat) : (refreshIrq page).KeepsEmitted := emitted_look fun _ => emitted_seqs fun p hp => by
  simp only [List.mem_cons, List.not_mem_nil, or_false] at hp
  rcases hp with rfl | rfl | rfl | rfl
  · exact emitted_setBitF _ _ _
  · exact emitted_look fun _ => emitted_onlyIf (emitted_andThen (emitted_put (by simp)) (emitted_signalVector _ _))
  · exact emitted_look fun _ => emitted_onlyIf (emitted_put (by simp))
  · exact emitted_refreshInta

theorem emitted_raise (page bit : Nat) : (raise page bit).KeepsEmitted :=
  emitted_look fun _ => emitted_andThen (emitted_setReg _ _ _) (emitted_refreshIrq _)

theorem emitted_crySend (m : CryMsg) : (crySend m).KeepsEmitted := emitted_look fun _ => emitted_andThen
  (emitted_ite (emitted_ite (emitted_put (by simp)) (emitted_bumpF _ _))
    (emitted_ite (emitted_bumpF _ _) (emitted_ite (emitted_put (by simp)) (emitted_put (by simp)))))
  (emitted_onlyIf (emitted_raise _ _))

theorem emitted_capture (page access space addr master cls kind data : Nat) : (capture page access space addr master cls kind data).KeepsEmitted :=
  emitted_look fun _ => emitted_ite
    (emitted_seqs fun p hp => by
      simp only [List.mem_cons, List.not_mem_nil, or_false] at hp
      rcases hp with rfl | rfl | rfl | rfl | rfl | rfl | rfl | rfl | rfl
      · exact emitted_setF _ _
      · exact emitted_setF _ _
      · exact emitted_setF _ _
      · exact emitted_setReg _ _ _
      · exact emitted_setF _ _
      · exact emitted_setF _ _
      · exact emitted_setF _ _
      · exact emitted_setF _ _
      · exact emitted_raise _ _)
    (emitted_andThen (emitted_bumpF _ _) (emitted_setF _ _))

theorem emitted_reportError (page access space addr master cls kind data : Nat) : (reportError page access space addr master cls kind data).KeepsEmitted :=
  emitted_look fun _ => emitted_andThen (emitted_capture _ _ _ _ _ _ _ _) (emitted_crySend _)

/-! ### The first error of a page -/

/-- Interrupt bit 0 of a page leaves the page's error capture as it is. -/
theorem reg_raise_capture {s : State} {page off : Nat} (hPage : page < 1024) (h : 0x20 ≤ off) (h' : off < 0x40) :
    ((raise page 0).run s).reg page off = s.reg page off := by
  refine State.framed_regsAt (keeps_raise (l := irqPieces) (R := irqFlds page 0) (T := []) (fun _ => id) (fun _ => id) s) _ fun f hf e => ?_
  simp only [irqFlds, List.mem_cons, List.not_mem_nil, or_false] at hf
  rcases hf with rfl | rfl | rfl
  · have := (regKey_inj (by decide : (0x10 : Nat) < 65536) (by omega) e).2
    omega
  · have := (regKey_inj (show 0x300 + 4 * (page / 32) < 65536 by omega) (by omega) e).2
    omega
  · have := (regKey_inj (by decide : PCIE_LINK_STAT.IN_L1.off < 65536) (by omega) e).2
    simp only [PCIE_LINK_STAT.IN_L1] at this
    omega

/-- The message of an error below class Contained leaves every page's error capture as it is. -/
theorem reg_crySend_capture {s : State} {m : CryMsg} {page off : Nat} (hCls : m.cls ≤ 1) (h' : off < 0x40) :
    ((crySend m).run s).reg page off = s.reg page off := by
  have hNot : ¬ 2 ≤ m.cls := by omega
  simp only [crySend, Prog.run, if_pos hCls, onlyIf, hNot, decide_false, Bool.false_eq_true, if_false]
  split
  · rfl
  · exact reg_setF_ne s CRY_DROPPED.reg _ (by decide) (by omega) (by simp only [CRY_DROPPED.reg]; omega)

/-- The first error of a page fills the capture, then sets VALID and the page's interrupt bit 0. -/
theorem capture_run_first {s : State} {page access space addr master cls kind data : Nat} (hFirst : s.rd (ERRCAP_CTRL.VALID page) = 0) :
    ∃ u : State, (capture page access space addr master cls kind data).run s = (raise page 0).run ((setF (ERRCAP_CTRL.VALID page) 1).run u) ∧
      u.reg page 0x2C = BitVec.ofNat 32 (access <<< 28 ||| space <<< 24 ||| cls <<< 16 ||| kind) := by
  simp only [capture, Prog.run, hFirst, BEq.rfl, if_true]
  iterate 9 rw [run_seqs_cons]
  rw [run_seqs_nil]
  refine ⟨_, rfl, ?_⟩
  rw [reg_setF_ne _ (ERRCAP_DATA.reg page) _ (by simp [ERRCAP_DATA.reg]) (by decide) (by simp [ERRCAP_DATA.reg]),
    reg_setF_ne _ (ERRCAP_TIME_HI.reg page) _ (by simp [ERRCAP_TIME_HI.reg]) (by decide) (by simp [ERRCAP_TIME_HI.reg]),
    reg_setF_ne _ (ERRCAP_TIME_LO.reg page) _ (by simp [ERRCAP_TIME_LO.reg]) (by decide) (by simp [ERRCAP_TIME_LO.reg]),
    reg_setReg _ _ (by decide) (by decide), if_pos ⟨rfl, rfl⟩]

/-- The first error of a page, below class Contained, is captured: VALID is set and ERRCAP_KIND holds what the access was and its kind. -/
theorem reportError_captured {s : State} {page access space addr master cls kind data : Nat} (hPage : page < 1024) (hCls : cls ≤ 1)
    (hFirst : s.rd (ERRCAP_CTRL.VALID page) = 0) :
    ((reportError page access space addr master cls kind data).run s).rd (ERRCAP_CTRL.VALID page) = 1 ∧
      ((reportError page access space addr master cls kind data).run s).reg page 0x2C =
        BitVec.ofNat 32 (access <<< 28 ||| space <<< 24 ||| cls <<< 16 ||| kind) := by
  obtain ⟨u, hRun, hKind⟩ := capture_run_first (access := access) (space := space) (addr := addr) (master := master) (cls := cls) (kind := kind)
    (data := data) hFirst
  have hReg : ∀ off, 0x20 ≤ off → off < 0x40 → ((reportError page access space addr master cls kind data).run s).reg page off =
      ((setF (ERRCAP_CTRL.VALID page) 1).run u).reg page off := fun off h h' => by
    simp only [reportError, Prog.run, hRun]
    rw [reg_crySend_capture hCls h', reg_raise_capture hPage h h']
  constructor
  · show fieldOf (((reportError page access space addr master cls kind data).run s).reg page 0x3C) 0 0 = 1
    rw [hReg _ (by decide) (by decide)]
    exact rd_setF u (ERRCAP_CTRL.VALID page) 1 (show 0 < 32 by decide)
  · rw [hReg _ (by decide) (by decide), reg_setF_ne u (ERRCAP_CTRL.VALID page) _ (by simp [ERRCAP_CTRL.VALID]) (by decide) (by simp [ERRCAP_CTRL.VALID]), hKind]

end Sys2Proof.Machine
end

