-- ==== Sys2Proof/Proofs/RegisterAccesses.lean ====
section
/-!
PROOF. Writes and reads of registers (spec/02_register_pages.md R42 to R48, R64): each clause of RegisterAccesses from what the access does at its page.
-/
namespace Sys2Proof.Machine

/-! ### Writes of registers that are not started by anything else -/

/-- A write that `takesWrite` lets through reaches its page with no LO half held. -/
theorem takesWrite_serves {s : State} {m page : Nat} (h : s.takesWrite m page = true) :
    s.reaches m = true ∧ s.crossClear m page = true ∧ (blockOf page).isSome = true ∧ s.blkUpAt page = true ∧ s.waitsBehind m page = false ∧
      s.loHeldAt (pairKey m page) = none := by
  simp only [State.takesWrite, Bool.and_eq_true, Bool.not_eq_true', Option.isNone_iff_eq_none] at h
  obtain ⟨⟨⟨⟨⟨⟨hReach, hClear⟩, hBlock⟩, hUp⟩, hWait⟩, hHeld⟩, -⟩ := h
  exact ⟨hReach, hClear, hBlock, hUp, hWait, hHeld⟩

/-- A block's register outside the table command window has its write, if no LO half waits for it and it is none itself. -/
theorem writeNow_run_one {m page off : Nat} {data : Word} {d : RegDecl} {s : State} (hDecl : declAt page off = some d) (hOff : 0x200 ≤ off)
    (hRw : d.readOnly = false) (hLo : latchesOf page off = []) (hHeld : s.loHeldAt (pairKey m page) = none) :
    (writeNow m page off data).run s = (oneWrite m page off d data).run s := by
  have hWin : (decide (0x100 ≤ off) && decide (off < 0x200)) = false := by
    simp only [Bool.and_eq_false_iff, decide_eq_false_iff_not]
    omega
  simp [writeNow, Prog.run, hDecl, hWin, hRw, hLo, hHeld]

/-- A HI register is written together with the LO half that its master has left before it. -/
theorem writeNow_run_pair {m page off lo : Nat} {low data : Word} {d : RegDecl} {s : State} (hDecl : declAt page off = some d) (hOff : 0x200 ≤ off)
    (hRw : d.readOnly = false) (hLo : latchesOf page off = []) (hHeld : s.loHeldAt (pairKey m page) = some (lo, low)) (hPair : lo + 4 = off) :
    (writeNow m page off data).run s = (pairWrite m page lo low d data).run s := by
  have hWin : (decide (0x100 ≤ off) && decide (off < 0x200)) = false := by
    simp only [Bool.and_eq_false_iff, decide_eq_false_iff_not]
    omega
  simp [writeNow, Prog.run, hDecl, hWin, hRw, hLo, hHeld, hPair]

/-- A write to a shadow sets the shadow and notes the register for the next commit; it starts nothing but on a page of fabric links. -/
theorem shadowWrite_run {m page off : Nat} {d : RegDecl} {data : Word} {s : State} (hPage : page < 244 ∨ 256 ≤ page) :
    ∃ l, (shadowWrite m page off d data).run s = (Prog.put (.dirty page l)).run ((setReg page off (d.merge (s.reg page off) data)).run s) ∧
      ((s.dirtyAt page).all (fun x => x.1 != off) = true → l = s.dirtyAt page ++ [(off, m)]) := by
  have hLink : (decide (244 ≤ page) && decide (page < 256) && data.getLsbD 30) = false := by
    have : ¬(244 ≤ page ∧ page < 256) := by omega
    simp [this]
  simp only [shadowWrite, Prog.run]
  rw [run_seqs_cons, run_seqs_cons, run_seqs_cons, run_seqs_nil, run_onlyIf_false _ _ hLink]
  refine ⟨_, rfl, fun hNew => if_neg ?_⟩
  simp only [List.any_eq_true, not_exists, not_and, beq_iff_eq]
  intro x hx
  simpa using List.all_eq_true.mp hNew x hx

/-- A write that is turned away with an error leaves the held accesses and the link's requests alone. -/
theorem keepsHeld_accessError (page off access master kind data : Nat) (s : State) : (accessError page off access master kind data).KeepsHeld s := by
  have hFrame := keeps_accessError (l := errPieces) (R := errFlds page) (T := []) (page := page) (off := off) (access := access) (master := master)
    (kind := kind) (data := data) (fun _ => id) (fun _ => id) s
  exact ⟨(State.framed_same hFrame .jnlHeld (by decide)).symm, (State.framed_same hFrame .dieQ (by decide)).symm⟩

/-! ### The clauses of RegisterAccesses -/

/-- REG_WRITE of one word is the write at its page, between states that differ in what was sent alone. -/
theorem regWrite_run {m page off be : Nat} {data : Word} {s : State} (hWf : Instr.wellFormed (.regWrite m page off be [data]) = true)
    (hReach : s.reaches m = true) (hClear : s.crossClear m page = true)
    (hKeeps : ∀ u, s.begun.sends u → (writeWord m page off (be % 16) data).KeepsHeld u) :
    ∃ u t, s.begun.sends u ∧ ((writeWord m page off (be % 16) data).run u).sends t ∧ exec (.regWrite m page off be [data]) s = .next t := by
  obtain ⟨u, hu, hSent⟩ := hostWrite_run (s := s.begun) (be := be) hReach hClear hKeeps
  exact ⟨u, _, hu, hSent, by simp only [exec, execRegWrite]; exact command_runs _ s hWf⟩

/-- HI_WRITE is the write at its page, between states that differ in what was sent alone. -/
theorem hiWrite_run {m page off be : Nat} {data : Word} {s : State} (hWf : Instr.wellFormed (.hiWrite m page off be data) = true)
    (hReach : s.reaches m = true) (hClear : s.crossClear m page = true)
    (hKeeps : ∀ u, s.begun.sends u → (writeWord m page off (be % 16) data).KeepsHeld u) :
    ∃ u t, s.begun.sends u ∧ ((writeWord m page off (be % 16) data).run u).sends t ∧ exec (.hiWrite m page off be data) s = .next t := by
  obtain ⟨u, hu, hSent⟩ := hostWrite_run (s := s.begun) (be := be) hReach hClear hKeeps
  exact ⟨u, _, hu, hSent, by simp only [exec, execHiWrite]; exact command_runs _ s hWf⟩

/-- A write that `takesWrite` lets through, with all bytes enabled, is the write of its register. -/
theorem writeWord_run_taken {m page off be : Nat} {data : Word} {s u : State} (hTakes : s.takesWrite m page = true) (hBe : be = 15) (hu : s.begun.sends u) :
    (writeWord m page off (be % 16) data).run u = (writeNow m page off data).run u ∧ u.loHeldAt (pairKey m page) = none := by
  obtain ⟨hReach, -, hBlock, hUp, hWait, hHeld⟩ := takesWrite_serves hTakes
  exact ⟨writeWord_run ((State.sends_reaches hu m).trans hReach) hBlock ((State.sends_blkUpAt hu page).trans hUp)
    ((State.sends_waitsBehind hu m page).trans hWait) (by rw [hBe]), (State.sends_loHeldAt hu _).trans hHeld⟩

/-- A write of a shadowed register changes its shadow and marks it for the next commit (R64). -/
theorem regWrite_shadow {m page off be : Nat} {data : Word} {d : RegDecl} {s : State} (hWf : Instr.wellFormed (.regWrite m page off be [data]) = true)
    (hTakes : s.takesWrite m page = true) (hBe : be = 15) (hDecl : declAt page off = some d) (hShadow : d.shadowed = true) (hRw : d.readOnly = false)
    (hLo : latchesOf page off = []) (hOff : 0x200 ≤ off) (hPage : page < 244 ∨ 256 ≤ page)
    (hNew : (s.dirtyAt page).all (fun x => x.1 != off) = true) :
    ∃ t, exec (.regWrite m page off be [data]) s = .next t ∧ t.reg page off = d.merge (s.reg page off) data ∧
      t.unitsAt (regKey page off) = s.unitsAt (regKey page off) ∧ t.dirtyAt page = s.dirtyAt page ++ [(off, m)] := by
  obtain ⟨hReach, hClear, -⟩ := takesWrite_serves hTakes
  have hRun : ∀ u : State, s.begun.sends u → (writeWord m page off (be % 16) data).run u =
      (Prog.put (.dirty page (s.dirtyAt page ++ [(off, m)]))).run ((setReg page off (d.merge (s.reg page off) data)).run u) := by
    intro u hu
    obtain ⟨hWrite, hHeld⟩ := writeWord_run_taken (off := off) (data := data) hTakes hBe hu
    obtain ⟨l, hShadowed, hDirty⟩ := shadowWrite_run (m := m) (off := off) (d := d) (data := data) (s := u) hPage
    have hReg : u.reg page off = s.reg page off := State.sends_reg hu page off
    have hList : u.dirtyAt page = s.dirtyAt page := State.sends_dirtyAt hu page
    rw [hReg, hDirty (hList ▸ hNew), hList] at hShadowed
    rw [hWrite, writeNow_run_one hDecl hOff hRw hLo hHeld, ← hShadowed]
    simp only [oneWrite, Prog.run, hShadow, if_true]
  obtain ⟨u, t, hu, hSent, hExec⟩ := regWrite_run hWf hReach hClear fun u hu => by rw [Prog.KeepsHeld, hRun u hu]; exact ⟨rfl, rfl⟩
  rw [hRun u hu] at hSent
  refine ⟨t, hExec, ?_, ?_, ?_⟩
  · exact (State.sends_reg hSent page off).trans ((regsAt_setReg u page off _ _).trans (if_pos rfl))
  · exact (State.sends_unitsAt hSent _).trans (State.sends_unitsAt hu _)
  · exact (State.sends_dirtyAt hSent page).trans ((Act.dirty_apply page _ _ page).trans (if_pos rfl))

/-- A write whose byte enables are not all set is discarded and captured with kind 0x002 (R42). -/
theorem regWrite_partial {m page off be : Nat} {data : Word} {s : State} (hWf : Instr.wellFormed (.regWrite m page off be [data]) = true)
    (hTakes : s.takesWrite m page = true) (hBe : be % 16 ≠ 15) (hFirst : s.rd (ERRCAP_CTRL.VALID page) = 0) :
    ∃ t, exec (.regWrite m page off be [data]) s = .next t ∧ t.rd (ERRCAP_CTRL.VALID page) = 1 ∧ fieldOf (t.reg page 0x2C) 15 0 = 2 := by
  obtain ⟨hReach, hClear, hBlock, hUp, -⟩ := takesWrite_serves hTakes
  have hPage : page < 1024 := by
    simp only [Instr.wellFormed, Bool.and_eq_true, decide_eq_true_eq] at hWf
    exact hWf.1.2
  have hRun : ∀ u : State, s.begun.sends u → (writeWord m page off (be % 16) data).run u = (accessError page off 1 m 2 data.toNat).run u := by
    intro u hu
    have hReach' : u.reaches m = true := (State.sends_reaches hu m).trans hReach
    have hUp' : u.blkUpAt page = true := (State.sends_blkUpAt hu page).trans hUp
    simp [writeWord, regAccess, Prog.run, hReach', Option.isNone_eq_false_iff.mpr hBlock, hUp', hBe]
  obtain ⟨u, t, hu, hSent, hExec⟩ := regWrite_run hWf hReach hClear fun u hu => by
    rw [Prog.KeepsHeld, hRun u hu]
    exact keepsHeld_accessError _ _ _ _ _ _ u
  rw [hRun u hu] at hSent
  obtain ⟨hValid, hKind⟩ := reportError_captured (access := 1) (space := 0) (addr := page * 65536 + off) (master := m) (cls := 0) (kind := 2)
    (data := data.toNat) hPage (by decide) ((State.sends_rd hu _).trans hFirst)
  exact ⟨t, hExec, (State.sends_rd hSent _).trans hValid, by rw [State.sends_reg hSent]; exact hKind ▸ (by decide)⟩

/-- A write to a page whose block is not up is discarded (R48). -/
theorem regWrite_down {m page off be : Nat} {data : Word} {s : State} (hWf : Instr.wellFormed (.regWrite m page off be [data]) = true)
    (hReach : s.reaches m = true) (hBlock : (blockOf page).isSome = true) (hDown : s.blkUpAt page = false) (hClear : s.crossClear m page = true) :
    ∃ t, exec (.regWrite m page off be [data]) s = .next t ∧ t.reg page off = s.reg page off := by
  have hRun : ∀ u : State, s.begun.sends u → (writeWord m page off (be % 16) data).run u = u := by
    intro u hu
    have hReach' : u.reaches m = true := (State.sends_reaches hu m).trans hReach
    have hDown' : u.blkUpAt page = false := (State.sends_blkUpAt hu page).trans hDown
    simp [writeWord, regAccess, Prog.run, hReach', Option.isNone_eq_false_iff.mpr hBlock, hDown']
  obtain ⟨u, t, hu, hSent, hExec⟩ := regWrite_run hWf hReach hClear fun u hu => by rw [Prog.KeepsHeld, hRun u hu]; exact ⟨rfl, rfl⟩
  rw [hRun u hu] at hSent
  exact ⟨t, hExec, (State.sends_reg hSent page off).trans (State.sends_reg hu page off)⟩

/-- Bits that are writable, and not cleared by a 1, read as written. -/
theorem fieldOf_merge {d : RegDecl} {old data : Word} {hi lo : Nat} (hRw : ∀ b, lo ≤ b → b ≤ hi → (BitVec.ofNat 32 d.rw).getLsbD b = true)
    (hClear : d.w1c = 0) : fieldOf (d.merge old data) hi lo = fieldOf data hi lo :=
  fieldOf_congr fun b hb hb' => by
    simp only [RegDecl.merge, hClear, BitVec.getLsbD_and, BitVec.getLsbD_or, BitVec.getLsbD_not, hRw b hb hb']
    by_cases h : b < 32
    · simp [h]
    · simp [h, BitVec.getLsbD_of_ge data b (by omega)]

/-- The declaration of JNL_HOST_HEAD: INDEX alone is writable. -/
theorem declAt_jnlHostHead : ∃ d, declAt 6 0x21C = some d ∧ d.rw = 0xFFFFFF ∧ d.w1c = 0 ∧ d.shadowed = false ∧ d.readOnly = false :=
  ⟨{ name := "JNL_HOST_HEAD", page := 6, pages := 1, off := 540, c1 := 1, s1 := 4, c2 := 1, s2 := 4, rw := 16777215, w1c := 0, w1s := 0, wo := 0,
     reset := 0, st := 0, shadowed := false }, by decide +kernel⟩

/-- The journal's host head takes its value at once (R50). -/
theorem regWrite_jnlHostHead {m be : Nat} {data : Word} {s : State} (hWf : Instr.wellFormed (.regWrite m 6 0x21C be [data]) = true)
    (hTakes : s.takesWrite m 6 = true) (hBe : be = 15) :
    ∃ t, exec (.regWrite m 6 0x21C be [data]) s = .next t ∧
      t.rd JNL_HOST_HEAD.INDEX = data.toNat % 2 ^ (JNL_HOST_HEAD.INDEX.hi + 1 - JNL_HOST_HEAD.INDEX.lo) := by
  obtain ⟨hReach, hClear, -⟩ := takesWrite_serves hTakes
  obtain ⟨d, hDecl, hBits, hW1c, hShadow, hRw⟩ := declAt_jnlHostHead
  have hRun : ∀ u : State, s.begun.sends u →
      (writeWord m 6 0x21C (be % 16) data).run u = (setReg 6 0x21C (d.merge (u.reg 6 0x21C) data)).run u := by
    intro u hu
    obtain ⟨hWrite, hHeld⟩ := writeWord_run_taken (off := 0x21C) (data := data) hTakes hBe hu
    rw [hWrite, writeNow_run_one hDecl (by decide) hRw (by decide) hHeld]
    simp [oneWrite, unrecorded, regDo, startsWork, controlWrite, Prog.run, hShadow]
  obtain ⟨u, t, hu, hSent, hExec⟩ := regWrite_run hWf hReach hClear fun u hu => by rw [Prog.KeepsHeld, hRun u hu]; exact ⟨rfl, rfl⟩
  rw [hRun u hu] at hSent
  refine ⟨t, hExec, (State.sends_rd hSent _).trans ?_⟩
  have hReg : ((setReg 6 0x21C (d.merge (u.reg 6 0x21C) data)).run u).reg 6 0x21C = d.merge (u.reg 6 0x21C) data :=
    (regsAt_setReg u 6 0x21C _ _).trans (if_pos rfl)
  calc fieldOf (((setReg 6 0x21C (d.merge (u.reg 6 0x21C) data)).run u).reg 6 0x21C) 23 0
      = fieldOf data 23 0 := by rw [hReg, fieldOf_merge (fun b _ hb => by rw [hBits]; interval_cases b <;> rfl) hW1c]
    _ = data.toNat % 2 ^ 24 := by simp [fieldOf]

/-- No register of the directory is shadowed. -/
theorem declAt_zero_notShadowed {off : Nat} {d : RegDecl} (hOff : 0x200 ≤ off) (h : declAt 0 off = some d) : d.shadowed = false := by
  have hNone : (match blockOf 0 with | some b => (declsOf b.name).all (fun d => !d.shadowed) | none => true) = true := by decide +kernel
  unfold declAt at h
  cases hBlock : blockOf 0 with
  | none => simp [hBlock] at h
  | some b =>
    simp only [hBlock, show ¬off < 0x100 by omega, show ¬off < 0x200 by omega, if_false] at h hNone
    simpa using List.all_eq_true.mp hNone d (List.mem_of_find?_eq_some h)

/-- A write of HI after LO of a shadowed pair writes both shadows together (R45). -/
theorem hiWrite_shadowPair {m page off be : Nat} {data lo : Word} {a b : RegDecl} {s : State}
    (hWf : Instr.wellFormed (.hiWrite m page off be data) = true) (hServes : s.serves m page = true) (hBe : be = 15) (hOff : 0x204 ≤ off)
    (hLoDecl : declAt page (off - 4) = some a) (hHiDecl : declAt page off = some b) (hShadow : b.shadowed = true)
    (hRw : b.readOnly = false) (hLatch : latchesOf page off = []) (hHeld : s.loHeldAt (pairKey m page) = some (off - 4, lo))
    (hPage : page < 244 ∨ 256 ≤ page) :
    ∃ t, exec (.hiWrite m page off be data) s = .next t ∧ t.reg page (off - 4) = a.merge (s.reg page (off - 4)) lo ∧
      t.reg page off = b.merge (s.reg page off) data ∧ t.loHeldAt (pairKey m page) = none := by
  have hOff' : off < 65536 := by
    simp only [Instr.wellFormed, Bool.and_eq_true, decide_eq_true_eq] at hWf
    exact hWf.1.2.1
  simp only [State.serves, Bool.and_eq_true, Bool.not_eq_true', Bool.or_eq_true, beq_iff_eq] at hServes
  obtain ⟨⟨⟨⟨hReach, hClear⟩, hBlock⟩, hUp⟩, hWait⟩ := hServes
  have hUp : s.blkUpAt page = true := hUp.resolve_left fun h0 => by
    subst h0
    exact absurd (declAt_zero_notShadowed (by omega) hHiDecl) (by simp [hShadow])
  have hRun : ∀ u : State, s.begun.sends u → ∃ l l', (writeWord m page off (be % 16) data).run u =
      (Prog.put (.dirty page l')).run ((setReg page off (b.merge (s.reg page off) data)).run
        ((Prog.put (.dirty page l)).run ((setReg page (off - 4) (a.merge (s.reg page (off - 4)) lo)).run ((Prog.put (.loHeld (pairKey m page) none)).run u)))) := by
    intro u hu
    have hPair : off - 4 + 4 = off := by omega
    obtain ⟨l, hLow, -⟩ := shadowWrite_run (m := m) (off := off - 4) (d := a) (data := lo) (s := (Prog.put (.loHeld (pairKey m page) none)).run u) hPage
    obtain ⟨l', hHigh, -⟩ := shadowWrite_run (m := m) (off := off) (d := b) (data := data)
      (s := (shadowWrite m page (off - 4) a lo).run ((Prog.put (.loHeld (pairKey m page) none)).run u)) hPage
    refine ⟨l, l', ?_⟩
    rw [writeWord_run ((State.sends_reaches hu m).trans hReach) hBlock ((State.sends_blkUpAt hu page).trans hUp)
      ((State.sends_waitsBehind hu m page).trans hWait) (by rw [hBe]),
      writeNow_run_pair hHiDecl (by omega) hRw hLatch ((State.sends_loHeldAt hu _).trans hHeld) hPair]
    have hRegLow : ((Prog.put (.loHeld (pairKey m page) none)).run u).reg page (off - 4) = s.reg page (off - 4) := State.sends_reg hu page (off - 4)
    have hRegHigh : ((shadowWrite m page (off - 4) a lo).run ((Prog.put (.loHeld (pairKey m page) none)).run u)).reg page off = s.reg page off := by
      rw [hLow]
      refine (reg_setReg _ _ (by omega) hOff').trans ((if_neg (by omega)).trans ?_)
      exact State.sends_reg hu page off
    rw [hRegHigh, hLow, hRegLow] at hHigh
    rw [← hHigh, ← hRegLow, ← hLow]
    simp only [pairWrite, Prog.run, hShadow, Bool.true_or, if_true, hLoDecl, Option.getD_some, hPair]
    rw [run_seqs_cons, run_seqs_cons, run_seqs_nil]
    rfl
  obtain ⟨u, t, hu, hSent, hExec⟩ := hiWrite_run hWf hReach hClear fun u hu => by
    obtain ⟨l, l', hl⟩ := hRun u hu
    rw [Prog.KeepsHeld, hl]
    exact ⟨rfl, rfl⟩
  obtain ⟨l, l', hl⟩ := hRun u hu
  rw [hl] at hSent
  refine ⟨t, hExec, ?_, ?_, ?_⟩
  · refine (State.sends_reg hSent page (off - 4)).trans ((reg_setReg _ _ hOff' (by omega)).trans ((if_neg (by omega)).trans ?_))
    exact (regsAt_setReg _ page (off - 4) _ _).trans (if_pos rfl)
  · exact (State.sends_reg hSent page off).trans ((regsAt_setReg _ page off _ _).trans (if_pos rfl))
  · have hFreed : ((Prog.put (.loHeld (pairKey m page) none)).run u).loHeldAt (pairKey m page) = none :=
      (Act.loHeld_apply (pairKey m page) none u _).trans (if_pos rfl)
    exact (State.sends_loHeldAt hSent _).trans hFreed

/-- A read of LO answers LO and latches HI for the reader (R44). -/
theorem loReadLatch_latches {m page off : Nat} {s : State} (hWf : Instr.wellFormed (.loReadLatch m page (off, 1)) = true)
    (hBar : m = 0 ∧ page < 1024 ∨ 64 ≤ m) (hServes : s.serves m page = true) (hLo : latchesOf page off ≠ []) (hOff : off < 0x100 ∨ 0x200 ≤ off)
    (hDecl : (declAt page off).isSome = true) (hNone : (s.hiLatchAt (pairKey m page)).all (fun x => x.1 != off) = true) :
    ∃ t, exec (.loReadLatch m page (off, 1)) s = .next t ∧
      t.hiLatchAt (pairKey m page) = (latchesOf page off).map (fun o => (o, s.shows page o)) ∧
      .readData m page off (s.shows page off).toNat false ∈ t.emitted := by
  have hHost : (decide (m < 64) && (m != 0 || decide (1024 ≤ page))) = false := by
    simp only [Bool.and_eq_false_iff, Bool.or_eq_false_iff, decide_eq_false_iff_not, bne_eq_false_iff_eq]
    omega
  have hRead : ∀ (u : State) (K : Word → Prog), s.begun.sends u → (regRead m page off K).run u = (K (s.shows page off)).run
      ((Prog.put (.hiLatch (pairKey m page) ((latchesOf page off).map fun o => (o, s.shows page o)))).run u) := by
    intro u K hu
    have hServed := hServes
    simp only [State.serves, Bool.and_eq_true] at hServed
    obtain ⟨⟨⟨⟨hReach, -⟩, hBlock⟩, hUp⟩, -⟩ := hServed
    have hLatch : u.hiLatchAt (pairKey m page) = s.hiLatchAt (pairKey m page) := State.sends_hiLatchAt hu _
    have hShows : ∀ o, u.shows page o = s.shows page o := State.sends_shows hu page
    have hUpAt : u.blkUpAt page = s.blkUpAt page := State.sends_blkUpAt hu page
    rw [regRead_run_lo K ((State.sends_reaches hu m).trans hReach) hBlock (hUpAt ▸ hUp) hLo hOff hDecl (hLatch ▸ hNone)]
    simp only [hShows]
  obtain ⟨u, K, hu, hK, hSent⟩ := hostRead_run (s := s.begun) (off := off) hServes fun u K hu hK => by
    obtain ⟨_, _, _, hSends⟩ := hK (s.shows page off) ((Prog.put (.hiLatch (pairKey m page) ((latchesOf page off).map fun o => (o, s.shows page o)))).run u)
    rw [hRead u K hu, hSends]
    rfl
  rw [hRead u K hu] at hSent
  obtain ⟨hSends, hAnswer⟩ := hK (s.shows page off) ((Prog.put (.hiLatch (pairKey m page) ((latchesOf page off).map fun o => (o, s.shows page o)))).run u)
  refine ⟨_, ?_, ?_, State.sends_emitted hSent hAnswer⟩
  · simp only [exec, execLoReadLatch, hHost, Bool.false_eq_true, if_false]
    exact command_runs _ s hWf
  · exact (State.sends_hiLatchAt (State.sends_trans hSends hSent) _).trans ((Act.hiLatch_apply _ _ u _).trans (if_pos rfl))

/-- A host read that its page does not answer is answered with all ones (R47). -/
theorem pageTimeout_answers {m page off : Nat} {s : State} (hWf : Instr.wellFormed (.pageTimeout m page off) = true) (hHost : m = 0) :
    ∃ t, exec (.pageTimeout m page off) s = .next t ∧ .readData m page off 0xFFFFFFFF false ∈ t.emitted := by
  refine ⟨_, by simp only [exec, execPageTimeout]; exact command_runs _ s hWf, ?_⟩
  rw [run_onlyIf_true _ _ (by rw [hHost]; rfl), run_seqs_cons, run_seqs_cons, run_seqs_cons, run_seqs_nil]
  refine emitted_reportError _ _ _ _ _ _ _ _ _ _ ?_
  exact List.mem_append_right _ (List.mem_singleton.mpr rfl)

/-- Settles O2: every access, on the master's own die or across a free link, is an access at its page between states that differ in what was sent alone, and each clause
follows from what that access does there. -/
theorem registerAccesses : Obligations.RegisterAccesses := by
  refine ⟨?_, ?_, ?_, ?_, ?_, ?_, ?_⟩
  · intro m page off be data d s hWf hTakes hBe hDecl hShadow hRw hLo hOff hPage hNew
    exact regWrite_shadow hWf hTakes hBe hDecl hShadow hRw hLo hOff hPage hNew
  · intro m page off be data s hWf hTakes hBe hFirst
    exact regWrite_partial hWf hTakes hBe hFirst
  · intro m page off be data s hWf hReach hBlock _ hDown hClear
    exact regWrite_down hWf hReach hBlock hDown hClear
  · intro m be data s hWf hTakes hBe
    exact regWrite_jnlHostHead hWf hTakes hBe
  · intro m page off be data a b lo s hWf hServes hBe hOff hLoDecl hHiDecl _ hShadow hRw hLatch hHeld _ hPage
    exact hiWrite_shadowPair hWf hServes hBe hOff hLoDecl hHiDecl hShadow hRw hLatch hHeld hPage
  · intro m page off s hWf hBar hServes hLo hOff hDecl hNone
    exact loReadLatch_latches hWf hBar hServes hLo hOff hDecl hNone
  · intro m page off s hWf hHost
    exact pageTimeout_answers hWf hHost

end Sys2Proof.Machine
end
-- ==== Sys2Proof/Proofs/DefectsAndMonitoring.lean ====
section
/-!
PROOF. Performance monitoring (spec/03_ports_and_framing.md R129): a concrete state refutes the statement on the count of codewords.
-/
namespace Sys2Proof.Machine

/-- Two seconds after reset, port 0 has ten good seconds in its history and a count of received codewords that stands at 2^64, one more than a counter holds. -/
def codewordsOverrun : State :=
  (seqs [.put (.counters (cntKey 0 64) (2 ^ 64)), .put (.pmX 0 { hist := List.replicate 10 (false, false, false) })]).run
    { State.reset with time16 := 2 * 1000000000 * 65536 }

/-- A second that brings no codewords leaves the count as it is. -/
theorem codewordsOverrun_kept {t : State} (h : exec (.pmSecond false 0 0 (1, [])) codewordsOverrun = .next t) : t.counter 0 64 = 2 ^ 64 := by
  simp only [exec, execPmSecond] at h
  rw [command_state h]
  decide +kernel

/-- Refutes O53: the statement adds `codewords.getD 0 0` to the count of codewords and wraps it at 2^64 even when a second brings no codewords at all; such a second
leaves the count, and a count of 2^64 stays. -/
theorem not_defectsAndMonitoring : ¬ Obligations.DefectsAndMonitoring := by
  intro h
  obtain ⟨-, -, -, hSecond, -⟩ := h
  obtain ⟨t, ht, -, -, hCount, -⟩ := hSecond false 0 0 false false (List.replicate 9 (false, false, false)) 1 [] codewordsOverrun rfl rfl (by decide)
    (by decide +kernel) (by decide +kernel) (by decide +kernel) rfl (by decide) (by decide +kernel) rfl (by decide +kernel)
  have hBefore : codewordsOverrun.counter 0 64 = 2 ^ 64 := by decide +kernel
  rw [show 128 * 0 + 64 = 64 from rfl, codewordsOverrun_kept ht, hBefore] at hCount
  exact absurd hCount (by decide)

end Sys2Proof.Machine
end
-- ==== Sys2Proof/Proofs/PortPrograms.lean ====
section
/-!
SUPPORT. Commands that run one program, the fields that a program leaves, interrupt events, and the refresh of a port's link
(spec/03_ports_and_framing.md R93, R126, spec/02_register_pages.md R58, R482).
-/
namespace Sys2Proof.Machine

/-! ### Commands whose program runs from the state they meet -/

/-- A command of the device answers its program's state. -/
theorem command_answers {i : Instr} {p : Prog} {E : State → Prop} {s : State} (h : i.wellFormed = true) (hE : E (p.run s.begun)) :
    ∃ t, command i p s = .next t ∧ E t := ⟨_, command_runs p s h, hE⟩

/-- The start of a command takes back what the step before sent out. -/
theorem begun_framed {l : List Piece} {R : List Fld} {T : List Nat} (he : .emitted ∈ l) (s : State) : s.framed s.begun l R T :=
  keeps_put (a := .emitted []) he (by simp) (by simp) s

/-- The same with what the program changes from this state. -/
theorem command_framed {i : Instr} {p : Prog} {E : State → Prop} {s : State} {l : List Piece} {R : List Fld} {T : List Nat}
    (h : i.wellFormed = true) (he : .emitted ∈ l) (hE : E (p.run s.begun)) (hF : s.begun.framed (p.run s.begun) l R T) :
    ∃ t, command i p s = .next t ∧ E t ∧ s.framed t l R T :=
  ⟨_, command_runs p s h, hE, State.framed_trans (begun_framed he s) hF⟩

/-- A program that waits for a condition, which holds in the state it meets. -/
theorem run_look_onlyIf {c : State → Bool} {q : State → Prog} {s : State} (h : c s = true) :
    (Prog.look fun s => onlyIf (c s) (q s)).run s = (q s).run s := run_onlyIf_true _ s h

theorem run_look_skip {c : State → Bool} {q : State → Prog} {s : State} (h : c s = false) :
    (Prog.look fun s => onlyIf (c s) (q s)).run s = s := run_onlyIf_false _ s h

theorem run_look (f : State → Prog) (s : State) : (Prog.look f).run s = (f s).run s := rfl

theorem run_andThen (p q : Prog) (s : State) : (Prog.andThen p q).run s = q.run (p.run s) := rfl

theorem run_put (a : Act) (s : State) : (Prog.put a).run s = a.apply s := rfl

theorem b2n_lt_two (b : Bool) : b2n b < 2 := by cases b <;> decide

/-- A field that takes a value of its width reads as the value. -/
theorem rd_setF_fits (s : State) {f : Fld} {v : Nat} (h : f.hi < 32 ∧ v < 2 ^ (f.hi + 1 - f.lo)) : ((setF f v).run s).rd f = v :=
  (rd_setF s f v h.1).trans (Nat.mod_eq_of_lt h.2)


/-! ### Fields that a program leaves -/

section Keeps
variable {l : List Piece} {R : List Fld} {T : List Nat} {p : Prog}

theorem Prog.Keeps.rd (h : p.Keeps l R T) (s : State) (f : Fld) (hf : f.off < 65536) (hR : ∀ g ∈ R, g.off < 65536 ∧ g.apart f) :
    (p.run s).rd f = s.rd f := State.framed_rd (h s) f hf hR

theorem Prog.Keeps.same (h : p.Keeps l R T) (s : State) (f : Piece) (hf : f ∉ Piece.regs :: Piece.tables :: l) : s.same (p.run s) f :=
  State.framed_same (h s) f hf

end Keeps

/-- A field after another, with no bit in common, was set. -/
theorem rd_setF_apart (s : State) {f g : Fld} (v : Nat) (h : f.off < 65536 ∧ g.off < 65536 ∧ g.apart f) :
    ((setF g v).run s).rd f = s.rd f :=
  Prog.Keeps.rd (l := []) (R := [g]) (T := []) (keeps_setF (List.mem_singleton_self g)) s f h.1 fun _ hx => List.mem_singleton.mp hx ▸ h.2

/-- What an interrupt event of a page writes is apart from every other register of the pages but that of the host's summary. -/
theorem irqFlds_apart {page bit : Nat} {f : Fld} (hPage : page < 1024) (hSum : f.page ≠ 2) (hStat : f.page ≠ page ∨ f.off ≠ 0x10) :
    ∀ g ∈ irqFlds page bit, g.off < 65536 ∧ g.apart f := by
  intro g hg
  simp only [irqFlds, List.mem_cons, List.not_mem_nil, or_false] at hg
  rcases hg with rfl | rfl | rfl <;> simp only [Fld.apart, PCIE_LINK_STAT.IN_L1] <;> omega

/-- An interrupt event leaves every field outside BLK_INT_STAT and the host's summary. -/
theorem rd_raise (s : State) {page bit : Nat} {f : Fld} (h : page < 1024 ∧ f.off < 65536 ∧ f.page ≠ 2 ∧ (f.page ≠ page ∨ f.off ≠ 0x10)) :
    ((raise page bit).run s).rd f = s.rd f :=
  Prog.Keeps.rd (l := irqPieces) (T := []) (keeps_raise (List.Subset.refl _) (List.Subset.refl _)) s f h.2.1 (irqFlds_apart h.1 h.2.2.1 h.2.2.2)

/-- An interrupt event sets its bit of BLK_INT_STAT. -/
theorem getLsbD_raise (s : State) {page bit : Nat} (hBit : bit < 32) (hPage : page < 1024) (hSum : page ≠ 2) :
    (((raise page bit).run s).reg page 0x10).getLsbD bit = true := by
  have hKeeps : (refreshIrq page).Keeps irqPieces [⟨2, 0x300 + 4 * (page / 32), page % 32, page % 32⟩, PCIE_LINK_STAT.IN_L1] [] :=
    keeps_refreshIrq (List.Subset.refl _) (by simp) (by simp)
  have hRun : (raise page bit).run s = (refreshIrq page).run ((setReg page 0x10 (s.reg page 0x10 ||| BitVec.ofNat 32 (2 ^ bit))).run s) := by
    unfold raise setIntBits
    simp only [Prog.run]
  have hReg : ((raise page bit).run s).reg page 0x10 = s.reg page 0x10 ||| BitVec.ofNat 32 (2 ^ bit) := by
    rw [hRun]
    refine (State.framed_regsAt (hKeeps _) (regKey page 0x10) fun f hf e => ?_).trans ((regsAt_setReg s page 0x10 _ _).trans (if_pos rfl))
    simp only [List.mem_cons, List.not_mem_nil, or_false] at hf
    rcases hf with rfl | rfl
    · have := (regKey_inj (show 0x300 + 4 * (page / 32) < 65536 by omega) (by decide) e).1
      simp only at this
      omega
    · have := (regKey_inj (by decide) (by decide) e).1
      simp only [PCIE_LINK_STAT.IN_L1] at this
      omega
  rw [hReg, BitVec.getLsbD_or, BitVec.getLsbD_ofNat, Nat.testBit_two_pow_self]
  simp [hBit]

/-! ### The link of a port (R93, R126) -/

section Link
variable {l : List Piece} {R : List Fld} {T : List Nat} {p : Nat}

theorem linkPieces_irq (hl : linkPieces ⊆ l) : irqPieces ⊆ l := fun _ hx => hl (List.mem_append_right _ hx)

theorem linkPieces_mem (hl : linkPieces ⊆ l) :
    .macSignal ∈ l ∧ .rxCut ∈ l ∧ .pauseSentAt ∈ l ∧ .pauseQ ∈ l ∧ .counters ∈ l ∧ .snapSaved ∈ l ∧ .emitted ∈ l := by
  simp only [linkPieces, List.append_subset, List.cons_subset] at hl
  obtain ⟨⟨h1, h2, h3, h4, h5, h6, -⟩, hIrq⟩ := hl
  exact ⟨h1, h2, h3, h4, h5, h6, (irqPieces_mem hIrq).1⟩

theorem keeps_showPaused (h : PORT_STAT.PFC_PAUSED p ∈ R) : (showPaused p).Keeps l R T := keeps_look fun _ => keeps_setF h

theorem keeps_pauseOut {x : Nat × Nat} (he : .emitted ∈ l) (hc : .counters ∈ l) (hs : .snapSaved ∈ l) : (pauseOut p x).Keeps l R T :=
  keeps_look fun _ => keeps_ite
    (fun _ => keeps_andThen (keeps_emit he) (keeps_each fun _ _ => keeps_onlyIf fun _ => keeps_count hc hs))
    fun _ => keeps_andThen (keeps_emit he) (keeps_count hc hs)

theorem keeps_pauseSend {mask time : Nat} (hl : linkPieces ⊆ l) : (pauseSend p mask time).Keeps l R T := by
  obtain ⟨-, -, hSent, hQueue, hCount, hSaved, hEmit⟩ := linkPieces_mem hl
  exact keeps_look fun _ => keeps_onlyIf fun _ => keeps_seqs_cons
    (keeps_ite (fun _ => keeps_put hQueue (by simp) (by simp)) fun _ => keeps_pauseOut hEmit hCount hSaved)
    (keeps_seqs_cons (keeps_put hSent (by simp) (by simp)) keeps_seqs_nil)

theorem keeps_pauseRefresh (hl : linkPieces ⊆ l) (h : PORT_STAT.PFC_PAUSED p ∈ R) : (pauseRefresh p).Keeps l R T := by
  obtain ⟨-, -, hSent, -⟩ := linkPieces_mem hl
  exact keeps_look fun _ => keeps_andThen
    (keeps_ite (fun _ => keeps_put hSent (by simp) (by simp)) fun _ => keeps_onlyIf fun _ => keeps_pauseSend hl)
    (keeps_showPaused h)

theorem linkFlds_irq (hR : linkFlds p ⊆ R) : irqFlds (16 + p) 21 ⊆ R := fun _ hx => hR (List.mem_append_right _ hx)

theorem keeps_linkRefresh (hl : linkPieces ⊆ l) (hR : linkFlds p ⊆ R) : (linkRefresh p).Keeps l R T := by
  have hStat : PORT_STAT.FEC_LOCK p ∈ R ∧ PORT_STAT.LINK_UP p ∈ R ∧ PORT_STAT.PFC_PAUSED p ∈ R :=
    ⟨hR (by simp [linkFlds]), hR (by simp [linkFlds]), hR (by simp [linkFlds])⟩
  obtain ⟨hFec, hUp, hPaused⟩ := hStat
  obtain ⟨hSignal, hCut, hSent, -, -, -, hEmit⟩ := linkPieces_mem hl
  refine keeps_look fun s => keeps_seqs fun q hq => ?_
  simp only [List.mem_cons, List.not_mem_nil, or_false] at hq
  rcases hq with rfl | rfl | rfl | rfl | rfl
  · exact keeps_setF hFec
  · exact keeps_onlyIf fun _ => keeps_andThen (keeps_setF hUp) (keeps_raise (linkPieces_irq hl) (linkFlds_irq hR))
  · exact keeps_onlyIf fun _ => keeps_andThen (keeps_onlyIf fun _ => keeps_put hCut (by simp) (by simp)) (keeps_put hSent (by simp) (by simp))
  · exact keeps_onlyIf fun _ => keeps_seqs_cons (keeps_put hSignal (by simp) (by simp))
      (keeps_seqs_cons (keeps_onlyIf fun _ => keeps_emit hEmit) (keeps_seqs_cons (keeps_onlyIf fun _ => keeps_emit hEmit) keeps_seqs_nil))
  · exact keeps_onlyIf fun _ => keeps_pauseRefresh hl hPaused

theorem keeps_bringUp (he : .emitted ∈ l) : (bringUp p).Keeps l R T :=
  keeps_look fun _ => keeps_onlyIf fun _ => keeps_ite (fun _ => keeps_emit he) fun _ => keeps_onlyIf fun _ => keeps_emit he

end Link

/-- A field that the refresh of a link does not write: outside LINK_UP, FEC_LOCK, PFC_PAUSED and BLK_INT_STAT of the port, and the host's summary. -/
def Fld.offLink (f : Fld) (p : Nat) : Prop :=
  f.off < 65536 ∧ f.page ≠ 2 ∧ (f.page ≠ 16 + p ∨ f.off ≠ 0x10 ∧ (f.off ≠ 0x220 ∨ 2 ≤ f.lo ∧ f.hi < 16))

theorem linkFlds_apart {p : Nat} {f : Fld} (hp : p < 64) (hf : f.offLink p) : ∀ g ∈ linkFlds p, g.off < 65536 ∧ g.apart f := by
  obtain ⟨-, hSum, hStat⟩ := hf
  intro g hg
  rcases List.mem_append.mp hg with h | h
  · simp only [List.mem_cons, List.not_mem_nil, or_false] at h
    rcases h with rfl | rfl | rfl <;> simp only [Fld.apart, PORT_STAT.FEC_LOCK, PORT_STAT.LINK_UP, PORT_STAT.PFC_PAUSED] <;> omega
  · exact irqFlds_apart (by omega) hSum (by omega) g h

theorem rd_linkRefresh (s : State) {p : Nat} {f : Fld} (hp : p < 64) (hf : f.offLink p) : ((linkRefresh p).run s).rd f = s.rd f :=
  Prog.Keeps.rd (l := linkPieces) (T := []) (keeps_linkRefresh (List.Subset.refl _) (List.Subset.refl _)) s f hf.1 (linkFlds_apart hp hf)

/-- What begins before data is sent out alone. -/
theorem rd_bringUp (s : State) (p : Nat) {f : Fld} (hf : f.off < 65536) : ((bringUp p).run s).rd f = s.rd f :=
  Prog.Keeps.rd (l := [.emitted]) (R := []) (T := []) (keeps_bringUp (List.mem_singleton_self _)) s f hf fun _ h => absurd h List.not_mem_nil

end Sys2Proof.Machine
end
-- ==== Sys2Proof/Proofs/PortLinkBringUp.lean ====
section
/-!
PROOF. Negotiation and training (spec/03_ports_and_framing.md R86, R87, R126): each report's bit of PORT_STAT and what begins after it.
-/
namespace Sys2Proof.Machine

/-- What is set in the state of a port stays when its link is refreshed after it. -/
theorem rd_setF_linkRefresh (s : State) {p v : Nat} {f : Fld} (hp : p < 64) (hf : f.offLink p) (hFits : f.hi < 32 ∧ v < 2 ^ (f.hi + 1 - f.lo)) :
    ((linkRefresh p).run ((setF f v).run s)).rd f = v := by
  rw [rd_linkRefresh _ hp hf, rd_setF_fits s hFits]

theorem an_done_offLink (p : Nat) : (PORT_STAT.AN_DONE p).offLink p := by simp only [Fld.offLink, PORT_STAT.AN_DONE]; omega

theorem lt_done_offLink (p : Nat) : (PORT_STAT.LT_DONE p).offLink p := by simp only [Fld.offLink, PORT_STAT.LT_DONE]; omega

theorem autonegDone_reports {port partner : Nat} {s : State} (hWf : Instr.wellFormed (.autonegDone port partner) = true)
    (hOn : s.on (PORT_MODE.AN_EN port) = true) (hErr : s.rd (PORT_STAT.CFG_ERR port) = 0) (hMode : s.cfg (PORT_MODE.MODE port) ≠ 0) :
    ∃ t, exec (.autonegDone port partner) s = .next t ∧ t.rd (PORT_STAT.AN_DONE port) = b2n (bitOf partner (s.cfg (PORT_MODE.MODE port))) ∧
      t.rd (PORT_STAT.LT_DONE port) = 0 := by
  have hPort : port < 48 := by simpa only [Instr.wellFormed, decide_eq_true_eq] using hWf
  simp only [exec, execAutonegDone]
  refine command_answers hWf ?_
  rw [run_look_onlyIf (by simp [hOn, hErr, hMode])]
  simp only [run_seqs_cons]
  rw [run_seqs_nil, rd_linkRefresh _ (by omega) (an_done_offLink port), rd_linkRefresh _ (by omega) (lt_done_offLink port),
    rd_bringUp _ _ (an_done_offLink port).1, rd_bringUp _ _ (lt_done_offLink port).1]
  constructor
  · rw [rd_setF_apart _ _ (by simp only [Fld.apart, PORT_STAT.AN_DONE, PORT_STAT.LT_DONE]; omega), State.begun_cfg]
    exact rd_setF_fits _ ⟨by simp only [PORT_STAT.AN_DONE]; omega, b2n_lt_two _⟩
  · exact rd_setF_fits _ (by simp only [PORT_STAT.LT_DONE]; omega)

theorem linkTrainingDone_reports {port : Nat} {s : State} (hWf : Instr.wellFormed (.linkTrainingDone port) = true)
    (hOn : s.on (PORT_MODE.LT_EN port) = true) (hNeg : s.on (PORT_MODE.AN_EN port) = false ∨ s.rd (PORT_STAT.AN_DONE port) = 1)
    (hErr : s.rd (PORT_STAT.CFG_ERR port) = 0) (hMode : s.cfg (PORT_MODE.MODE port) ≠ 0) :
    ∃ t, exec (.linkTrainingDone port) s = .next t ∧ t.rd (PORT_STAT.LT_DONE port) = 1 := by
  have hPort : port < 48 := by simpa only [Instr.wellFormed, decide_eq_true_eq] using hWf
  simp only [exec, execLinkTrainingDone]
  refine command_answers hWf ?_
  rw [run_look_onlyIf (by simp [hOn, hNeg, hErr, hMode]), run_andThen]
  exact rd_setF_linkRefresh _ (by omega) (lt_done_offLink port) (by simp only [PORT_STAT.LT_DONE]; omega)

/-- A port whose training is due, on a ready module of copper, begins it. -/
theorem bringUp_trains {p : Nat} {s : State} (hOn : s.on (PORT_MODE.LT_EN p) = true) (hDone : s.rd (PORT_STAT.LT_DONE p) = 0)
    (hNeg : s.on (PORT_MODE.AN_EN p) = false ∨ s.rd (PORT_STAT.AN_DONE p) = 1) (hErr : s.rd (PORT_STAT.CFG_ERR p) = 0)
    (hMode : s.cfg (PORT_MODE.MODE p) ≠ 0) (hReady : s.cageReady p = true) (hCopper : (s.cageXAt p).copper = true) :
    .bringUp p true (trainProtocol (s.cfg (PORT_MODE.MODE p))) 0 ∈ ((bringUp p).run s).emitted := by
  have hNegotiated : ¬ (s.on (PORT_MODE.AN_EN p) && s.rd (PORT_STAT.AN_DONE p) == 0) = true := by
    rcases hNeg with h | h <;> simp [h]
  have hRun : (bringUp p).run s = (emit (.bringUp p true (trainProtocol (s.cfg (PORT_MODE.MODE p))) 0)).run s := by
    unfold bringUp
    rw [run_look_onlyIf (by simp [hMode, hErr, hReady, hCopper]), if_neg hNegotiated, run_onlyIf_true _ _ (by simp [hOn, hDone])]
  rw [hRun]
  simp [emit, Prog.run]

theorem linkTrainingTimeout_trains {port : Nat} {s : State} (hWf : Instr.wellFormed (.linkTrainingTimeout port) = true)
    (hOn : s.on (PORT_MODE.LT_EN port) = true) (hDone : s.rd (PORT_STAT.LT_DONE port) = 0)
    (hNeg : s.on (PORT_MODE.AN_EN port) = false ∨ s.rd (PORT_STAT.AN_DONE port) = 1) (hErr : s.rd (PORT_STAT.CFG_ERR port) = 0)
    (hMode : s.cfg (PORT_MODE.MODE port) ≠ 0) (hReady : s.cageReady port = true) (hCopper : (s.cageXAt port).copper = true) :
    ∃ t, exec (.linkTrainingTimeout port) s = .next t ∧ .bringUp port true (trainProtocol (s.cfg (PORT_MODE.MODE port))) 0 ∈ t.emitted := by
  simp only [exec, execLinkTrainingTimeout]
  refine command_answers hWf ?_
  rw [run_look_onlyIf (by simp [hOn, hDone])]
  exact bringUp_trains (s := s.begun) hOn hDone hNeg hErr hMode hReady hCopper

/-- Nothing is brought up over a module that is not copper. -/
theorem bringUp_optical {p : Nat} {s : State} (h : (s.cageXAt p).copper = false) : (bringUp p).run s = s := by
  unfold bringUp
  exact run_look_skip (by simp [h])

theorem linkTrainingTimeout_optical {port : Nat} {s : State} (hWf : Instr.wellFormed (.linkTrainingTimeout port) = true)
    (hCopper : (s.cageXAt port).copper = false) : ∃ t, exec (.linkTrainingTimeout port) s = .next t ∧ t.emitted = [] := by
  simp only [exec, execLinkTrainingTimeout]
  refine command_answers hWf ?_
  have hRun : (bringUp port).run s.begun = s.begun := bringUp_optical (s := s.begun) hCopper
  rw [run_look]
  cases hDue : s.begun.on (PORT_MODE.LT_EN port) && s.begun.rd (PORT_STAT.LT_DONE port) == 0 with
  | true => rw [run_onlyIf_true _ _ rfl, hRun]; rfl
  | false => rw [run_onlyIf_false _ _ rfl]; rfl

/-- Settles O26: each report writes its bit of PORT_STAT, which the refresh of the link that follows does not write. -/
theorem portLinkBringUp : Obligations.PortLinkBringUp := by
  unfold Obligations.PortLinkBringUp
  exact ⟨fun _ _ _ => autonegDone_reports, fun _ _ => linkTrainingDone_reports, fun _ _ => linkTrainingTimeout_trains,
    fun _ _ => linkTrainingTimeout_optical⟩

end Sys2Proof.Machine
end
-- ==== Sys2Proof/Proofs/PauseFrames.lean ====
section
/-!
PROOF. Received and sent pause (spec/03_ports_and_framing.md R91 to R93).
-/
namespace Sys2Proof.Machine

/-! ### A program for each of a list -/

/-- Of a program run for each of a list, the run for one of them brings about what the others leave. -/
theorem run_each_establishes {α : Type} {f : α → Prog} {J K : State → Prop} {a : α} (hJ : ∀ b u, J u → J ((f b).run u))
    (hBegin : ∀ u, J u → K ((f a).run u)) (hKeep : ∀ b u, J u → K u → K ((f b).run u)) :
    ∀ {as : List α} {s : State}, J s → a ∈ as ∨ K s → K ((each as f).run s)
  | [], _, _, h => h.resolve_left List.not_mem_nil
  | b :: as, s, hs, h => by
    refine run_each_establishes (as := as) hJ hBegin hKeep (hJ b s hs) ?_
    rcases h with h | h
    · rcases List.mem_cons.mp h with rfl | h
      · exact .inr (hBegin s hs)
      · exact .inl h
    · exact .inr (hKeep b s hs h)

/-- What each run leaves, all leave. -/
theorem run_each_leaves {α β : Type} {f : α → Prog} (P : State → β) (h : ∀ a u, P ((f a).run u) = P u) : ∀ (as : List α) (s : State), P ((each as f).run s) = P s
  | [], _ => rfl
  | a :: as, s => (run_each_leaves P h as _).trans (h a s)

/-! ### Counters (R595, R600) -/

/-- A count writes the counter and what a snapshot saves of it. -/
theorem count_leaves {β : Type} (P : State → β) (hCount : ∀ k v u, P ((Act.counters k v).apply u) = P u)
    (hSave : ∀ k v u, P ((Act.snapSaved k v).apply u) = P u) (f i n : Nat) (s : State) : P ((count f i n).run s) = P s := by
  unfold count
  rw [run_look, run_andThen, run_put, hCount]
  cases s.snap with
  | none => rfl
  | some sn =>
    simp only [onlyIf]
    split
    · exact hSave _ _ _
    · rfl

theorem counter_count (f i n : Nat) (s : State) : ((count f i n).run s).counter f i = (s.counter f i + n) % 2 ^ 64 := by
  unfold count
  rw [run_look, run_andThen, run_put, State.counter, Act.counters_apply, if_pos rfl]

/-! ### Received pauses (R91, R92) -/

/-- The end of a class's pause, as a received time sets it. -/
def State.pauseEnd (s : State) (p time : Nat) : Option Nat := if time = 0 then none else some (s.mono + s.bitTimes p (time * 512))

/-- What decides a class's pause besides the frame. -/
def State.pauseBasis (s : State) (p time : Nat) : Nat × Option Nat := (s.cfg (PORT_PAUSE_CFG.RX_EN p), s.pauseEnd p time)

theorem count_pauseBasis (f i n p time : Nat) (s : State) : ((count f i n).run s).pauseBasis p time = s.pauseBasis p time :=
  count_leaves (fun s => s.pauseBasis p time) (fun _ _ _ => rfl) (fun _ _ _ => rfl) f i n s

/-- A pause of a class writes the end of that class's pause, and only where RX_EN names it. -/
theorem pauseClass_run (p t time : Nat) (s : State) :
    (pauseClass p t time).run s = if bitOf (s.cfg (PORT_PAUSE_CFG.RX_EN p)) t then (Act.pauseUntil (8 * p + t) (s.pauseEnd p time)).apply s else s := by
  unfold pauseClass State.pauseEnd
  rw [run_look]
  cases bitOf (s.cfg (PORT_PAUSE_CFG.RX_EN p)) t with
  | false => rfl
  | true => simp only [onlyIf, if_true, run_put, beq_iff_eq]

theorem pauseClass_pauseBasis (p t time time' : Nat) (s : State) : ((pauseClass p t time).run s).pauseBasis p time' = s.pauseBasis p time' := by
  rw [pauseClass_run]
  split <;> rfl

theorem pauseClass_same {p t time : Nat} {s : State} (h : bitOf (s.cfg (PORT_PAUSE_CFG.RX_EN p)) t = true) :
    ((pauseClass p t time).run s).pauseUntilAt (8 * p + t) = s.pauseEnd p time := by
  rw [pauseClass_run, if_pos h, Act.pauseUntil_apply, if_pos rfl]

theorem pauseClass_other {p t t' time : Nat} {s : State} (h : t' ≠ t) :
    ((pauseClass p t' time).run s).pauseUntilAt (8 * p + t) = s.pauseUntilAt (8 * p + t) := by
  rw [pauseClass_run]
  split
  · rw [Act.pauseUntil_apply, if_neg (by omega)]
  · rfl

/-- Pauses of the classes of a list, each with its time where its bit is set: a class of the list whose bit is set is paused. -/
theorem pauseUntilAt_eachClass {p tc : Nat} {ts : List Nat} {sel : Nat → Bool} {time : Nat → Nat} {s : State} (hMem : tc ∈ ts) (hSel : sel tc = true)
    (hEn : bitOf (s.cfg (PORT_PAUSE_CFG.RX_EN p)) tc = true) :
    ((each ts fun t => onlyIf (sel t) (pauseClass p t (time t))).run s).pauseUntilAt (8 * p + tc) = s.pauseEnd p (time tc) := by
  have hStep : ∀ t (u : State), ((onlyIf (sel t) (pauseClass p t (time t))).run u).pauseBasis p (time tc) = u.pauseBasis p (time tc) := by
    intro t u
    cases sel t with
    | false => rfl
    | true => exact pauseClass_pauseBasis p t (time t) (time tc) u
  refine run_each_establishes (J := fun u => u.pauseBasis p (time tc) = s.pauseBasis p (time tc))
    (K := fun u => u.pauseUntilAt (8 * p + tc) = s.pauseEnd p (time tc)) (a := tc)
    (fun t u hu => (hStep t u).trans hu) ?begin ?keep rfl (.inl hMem)
  case begin =>
    intro u hu
    obtain ⟨hCfg, hEnd⟩ := Prod.mk.inj hu
    rw [run_onlyIf_true _ _ hSel, pauseClass_same (hCfg ▸ hEn)]
    exact hEnd
  case keep =>
    intro t u hu hKeep
    obtain ⟨hCfg, hEnd⟩ := Prod.mk.inj hu
    by_cases ht : t = tc
    · subst ht
      rw [run_onlyIf_true _ _ hSel, pauseClass_same (hCfg ▸ hEn)]
      exact hEnd
    · cases sel t with
      | false => exact hKeep
      | true => exact (pauseClass_other ht).trans hKeep

theorem keeps_pauseClass {l : List Piece} {R : List Fld} {T : List Nat} {p t time : Nat} (h : .pauseUntil ∈ l) : (pauseClass p t time).Keeps l R T :=
  keeps_look fun _ => keeps_onlyIf fun _ => keeps_put h (by simp) (by simp)

/-- PFC_PAUSED, which is shown last, is in a register. -/
theorem showPaused_pauseUntilAt (p k : Nat) (s : State) : ((showPaused p).run s).pauseUntilAt k = s.pauseUntilAt k := rfl

theorem showPaused_counter (p f i : Nat) (s : State) : ((showPaused p).run s).counter f i = s.counter f i := rfl

/-- A PAUSE or PFC frame with a good FCS at an UP port reaches the MAC. -/
theorem pfcFrameReceive_answers {port : Nat} {frame : List Byte} {s : State} {E : State → Prop}
    (hWf : Instr.wellFormed (.pfcFrameReceive port frame) = true) (hUp : s.rd (PORT_STAT.LINK_UP port) = 1)
    (hPause : isPauseFrame (frame.map BitVec.toNat) = true) (hLen : 64 ≤ (frame.map BitVec.toNat).length) (hFcs : fcsOk (frame.map BitVec.toNat) = true)
    (hE : E ((pauseReceived port (frame.map BitVec.toNat)).run s.begun)) : ∃ t, exec (.pfcFrameReceive port frame) s = .next t ∧ E t := by
  simp only [exec, execPfcFrameReceive]
  refine command_answers hWf ?_
  rw [run_look_onlyIf (by simp [hUp, hPause]), if_neg (by omega), if_neg (by simp [hFcs])]
  exact hE

theorem linkPause_received {port : Nat} {f : List Nat} {tc : Nat} {s : State} (hOp : (f.drop 14).take 2 = [0, 1])
    (hMode : s.cfg (PORT_MAC_CFG.PAUSE_MODE port) = 1) (hTc : tc < 8) (hEn : bitOf (s.cfg (PORT_PAUSE_CFG.RX_EN port)) tc = true) :
    ((pauseReceived port f).run s).pauseUntilAt (8 * port + tc) = s.pauseEnd port (ofBytesBE ((f.drop 16).take 2)) ∧
      ((pauseReceived port f).run s).counter 0 (128 * port + 54) = (s.counter 0 (128 * port + 54) + 1) % 2 ^ 64 := by
  unfold pauseReceived
  rw [run_look, if_pos (by simp [hOp])]
  simp only [run_seqs_cons]
  rw [run_seqs_nil, showPaused_pauseUntilAt, showPaused_counter, run_onlyIf_true _ _ (by simp [hMode])]
  obtain ⟨hCfg, hEnd⟩ := Prod.mk.inj (count_pauseBasis 0 (128 * port + 54) 1 port (ofBytesBE ((f.drop 16).take 2)) s)
  constructor
  · rw [← hEnd]
    exact pauseUntilAt_eachClass (sel := fun _ => true) (List.mem_range.mpr hTc) rfl (hCfg ▸ hEn)
  · have hKeeps : (each (List.range 8) fun t => pauseClass port t (ofBytesBE ((f.drop 16).take 2))).Keeps [.pauseUntil] [] [] :=
      keeps_each fun _ _ => keeps_pauseClass (by simp)
    have hSame := hKeeps.same ((count 0 (128 * port + 54) 1).run s) .counters (by decide)
    rw [← counter_count]
    exact (congrArg (fun c => Sp.get 0 c (cntKey 0 (128 * port + 54))) hSame).symm

theorem pfc_received {port : Nat} {f : List Nat} {tc : Nat} {s : State} (hOp : (f.drop 14).take 2 = [1, 1])
    (hMode : s.cfg (PORT_MAC_CFG.PAUSE_MODE port) = 2) (hTc : tc < 8) (hSel : bitOf (f.getD 17 0) tc = true)
    (hEn : bitOf (s.cfg (PORT_PAUSE_CFG.RX_EN port)) tc = true) :
    ((pauseReceived port f).run s).pauseUntilAt (8 * port + tc) = s.pauseEnd port (ofBytesBE ((f.drop (18 + 2 * tc)).take 2)) := by
  unfold pauseReceived
  rw [run_look, if_neg (by simp [hOp])]
  simp only [run_seqs_cons]
  rw [run_seqs_nil, showPaused_pauseUntilAt, run_onlyIf_true _ _ (by simp [hMode])]
  have hCounts := run_each_leaves (f := fun t => onlyIf (bitOf (f.getD 17 0) t) (count 0 (128 * port + 32 + t) 1))
    (fun u => u.pauseBasis port (ofBytesBE ((f.drop (18 + 2 * tc)).take 2))) (fun t u => by
      cases bitOf (f.getD 17 0) t with
      | false => rfl
      | true => exact count_pauseBasis _ _ _ _ _ u) (List.range 8) s
  obtain ⟨hCfg, hEnd⟩ := Prod.mk.inj hCounts
  rw [pauseUntilAt_eachClass (List.mem_range.mpr hTc) hSel (hCfg ▸ hEn)]
  exact hEnd

theorem pfcPauseExpire_ends {port tc e : Nat} {s : State} (hWf : Instr.wellFormed (.pfcPauseExpire port tc) = true)
    (hUntil : s.pauseUntilAt (8 * port + tc) = some e) (hDue : e ≤ s.mono) :
    ∃ t, exec (.pfcPauseExpire port tc) s = .next t ∧ t.pauseUntilAt (8 * port + tc) = none := by
  simp only [exec, execPfcPauseExpire]
  refine command_answers hWf ?_
  have hBegun : s.begun.pauseUntilAt (8 * port + tc) = some e := hUntil
  have hDueBegun : decide (e ≤ s.begun.mono) = true := decide_eq_true hDue
  rw [run_look, hBegun]
  simp only [hDueBegun]
  rw [run_onlyIf_true _ _ rfl, run_andThen, showPaused_pauseUntilAt, run_put, Act.pauseUntil_apply, if_pos rfl]

/-! ### Pauses sent (R93) -/

/-- A PFC frame that leaves the MAC, all its counts included, is one frame sent. -/
theorem emitted_pauseOut {p mask time : Nat} {s : State} (hMode : s.cfg (PORT_MAC_CFG.PAUSE_MODE p) = 2) :
    ((pauseOut p (mask, time)).run s).emitted = s.emitted ++ [.frame p (asBytes (pfcFrame mask time)) false] := by
  unfold pauseOut
  rw [run_look, if_pos (by simp [hMode]), run_andThen]
  refine (run_each_leaves (fun u => u.emitted) (fun t u => ?_) _ _).trans rfl
  cases bitOf mask t with
  | false => rfl
  | true => exact count_leaves (fun u => u.emitted) (fun _ _ _ => rfl) (fun _ _ _ => rfl) _ _ _ u

/-- A pause that may be sent at once goes out, and its refresh counts from now. -/
theorem pauseSend_sends {p mask time : Nat} {s : State} (hMask : mask &&& s.cfg (PORT_PAUSE_CFG.TX_EN p) ≠ 0) (hUp : s.rd (PORT_STAT.LINK_UP p) = 1)
    (hMode : s.cfg (PORT_MAC_CFG.PAUSE_MODE p) = 2) (hTime : time ≠ 0) (hIdle : s.txNowAt p = none) :
    ((pauseSend p mask time).run s).pauseSentAtAt p = some s.mono ∧
      ((pauseSend p mask time).run s).emitted = s.emitted ++ [.frame p (asBytes (pfcFrame (mask &&& s.cfg (PORT_PAUSE_CFG.TX_EN p)) time)) false] := by
  unfold pauseSend
  rw [run_look_onlyIf (by simp [hMask, hUp, hMode]), run_seqs_cons, run_seqs_cons, run_seqs_nil, run_put,
    if_neg (show ¬ (time == 0) = true by simpa using hTime), if_neg (show ¬ (s.txNowAt p).isSome = true by simp [hIdle])]
  constructor
  · rw [Act.pauseSentAt_apply, if_pos rfl]
  · exact emitted_pauseOut hMode

theorem pfcRefresh_sends {port a : Nat} {s : State} (hWf : Instr.wellFormed (.pfcRefresh port) = true) (hSent : s.pauseSentAtAt port = some a)
    (hXoff : s.xoffAt port &&& s.cfg (PORT_PAUSE_CFG.TX_EN port) ≠ 0)
    (hDue : s.since a (s.bitTimes port (s.cfg (PORT_PAUSE_CFG.QUANTA port) * 256)) = true) (hUp : s.rd (PORT_STAT.LINK_UP port) = 1)
    (hMode : s.cfg (PORT_MAC_CFG.PAUSE_MODE port) = 2) (hQuanta : s.cfg (PORT_PAUSE_CFG.QUANTA port) ≠ 0) (hIdle : s.txNowAt port = none) :
    ∃ t, exec (.pfcRefresh port) s = .next t ∧ t.pauseSentAtAt port = some s.mono ∧
      t.emitted = [.frame port (asBytes (pfcFrame (s.xoffAt port &&& s.cfg (PORT_PAUSE_CFG.TX_EN port)) (s.cfg (PORT_PAUSE_CFG.QUANTA port)))) false] := by
  simp only [exec, execPfcRefresh]
  refine command_answers hWf ?_
  have hSentBegun : s.begun.pauseSentAtAt port = some a := hSent
  have hSome : (s.xoffAt port != 0) = true := bne_iff_ne.mpr fun h => hXoff (by rw [h, Nat.zero_and])
  have hCond : (s.begun.xoffAt port != 0 &&
      s.begun.since a (s.begun.bitTimes port (s.begun.cfg (PORT_PAUSE_CFG.QUANTA port) * 256))) = true :=
    Bool.and_eq_true_iff.mpr ⟨hSome, hDue⟩
  rw [run_look, hSentBegun]
  simp only [hCond]
  rw [run_onlyIf_true _ _ rfl]
  exact pauseSend_sends (s := s.begun) hXoff hUp hMode hQuanta hIdle

/-- Settles O20: a received pause writes the end of each class that it names, one after the other, and what is shown or counted leaves these. -/
theorem pauseFrames : Obligations.PauseFrames := by
  unfold Obligations.PauseFrames
  refine ⟨?_, ?_, fun _ _ _ _ => pfcPauseExpire_ends, fun _ _ _ => pfcRefresh_sends⟩
  · rintro port frame f tc s hWf rfl hUp hPause hLen hFcs hOp hMode hTc hEn
    exact pfcFrameReceive_answers hWf hUp hPause hLen hFcs (linkPause_received (s := s.begun) hOp hMode hTc hEn)
  · rintro port frame f tc s hWf rfl hUp hPause hLen hFcs hOp hMode hTc hSel hEn
    exact pfcFrameReceive_answers hWf hUp hPause hLen hFcs (pfc_received (s := s.begun) hOp hMode hTc hSel hEn)

end Sys2Proof.Machine
end
-- ==== Sys2Proof/Proofs/PageWrites.lean ====
section
/-!
SUPPORT. A master's write of a register that takes effect at once, with its record (spec/02_register_pages.md R43, R49, R50, spec/01_architecture.md R28 to R36): what
it leaves is what the register's own program leaves.
-/
namespace Sys2Proof.Machine

/-! ### A master's write of one register -/

theorem State.sends_onlyIn {s t : State} (h : s.sends t) : s.onlyIn t [.dieTx, .dieRx, .emitted] := fun f hf => by
  obtain ⟨tx, rx, es, rfl⟩ := h
  cases f with
  | dieTx | dieRx | emitted => exact absurd hf (by decide)
  | _ => rfl

theorem sent_subset : [Piece.dieTx, .dieRx, .emitted] ⊆ hostPieces := by decide

theorem State.sends_framed {s t : State} {l : List Piece} (R : List Fld) (T : List Nat) (h : s.sends t) (hl : hostPieces ⊆ l) : s.framed t l R T := by
  have hPieces : s.onlyIn t (.regs :: .tables :: l) := fun f hf => State.sends_onlyIn h f fun hm =>
    hf (List.mem_cons_of_mem _ (List.mem_cons_of_mem _ (hl (sent_subset hm))))
  obtain ⟨tx, rx, es, rfl⟩ := h
  exact ⟨hPieces, fun _ _ _ => rfl, fun _ _ => rfl⟩

/-- From `s` to `t` the accesses that the parish register holds and the link's queues of requests stay. -/
def State.quiet (s t : State) : Prop := t.jnlHeld = s.jnlHeld ∧ t.dieQ = s.dieQ

theorem State.framed_quiet {s t : State} {l : List Piece} {R : List Fld} {T : List Nat} (h : s.framed t l R T) (hl : .jnlHeld ∉ l ∧ .dieQ ∉ l) : s.quiet t :=
  ⟨(State.framed_same h .jnlHeld (by simpa using hl.1)).symm, (State.framed_same h .dieQ (by simpa using hl.2)).symm⟩

/-- A program that leaves a write of its master's without a wait: it holds no access in order, and asks for nothing on the link. -/
def Prog.HoldsNone (p : Prog) (s : State) : Prop :=
  (p.run s).jnlHeld.filter Held.ordered = s.jnlHeld.filter Held.ordered ∧ (p.run s).dieQ = s.dieQ

theorem Prog.HoldsNone.wouldHold {p : Prog} {s : State} (h : p.HoldsNone s) : s.wouldHold p = false := by
  rw [State.wouldHold, h.1]
  exact decide_eq_false (Nat.lt_irrefl _)

/-- A write that holds nothing is the write at its page, on the master's own die or across a free link, between states that differ in what was sent alone. -/
theorem hostWrite_reaches {m page off : Nat} {data : Word} {s : State} (hReach : s.reaches m = true) (hClear : s.crossClear m page = true)
    (hNone : ∀ u, s.sends u → (writeWord m page off 15 data).HoldsNone u) :
    ∃ u, s.sends u ∧ ((writeWord m page off 15 data).run u).sends ((hostWrite m page off 15 data).run s) := by
  unfold hostWrite hostWrites
  cases hCross : crossing m page with
  | none => exact ⟨s, s.sends_refl, State.sends_refl _⟩
  | some k =>
    have hFree : s.crossFree k = true := by simpa only [State.crossClear, hCross] using hClear
    have hQueue : s.dieQAt k = [] := by
      simp only [State.crossFree, Bool.and_eq_true, List.isEmpty_iff] at hFree
      exact hFree.1.1.1
    have hPass := sends_passFlit (srcDie k) 1 (DieReq.flit { master := m, page := page, off := off, be := 15, data := [data.toNat] } k) s
    refine ⟨_, hPass, ?_⟩
    have hHold := (hNone _ hPass).wouldHold
    simp only [Prog.run, hReach, run_onlyIf_true, crossChunks, List.length_cons, List.length_nil, List.map_cons, List.map_nil, List.isEmpty_cons, List.take,
      List.drop, List.isEmpty_nil, if_true, each, crossSend, hFree, crossWrite, Bool.false_eq_true, if_false, BitVec.ofNat_toNat, BitVec.setWidth_eq,
      hHold, Nat.reduceMod]
    refine writeEnd_sends k _ _ _ _ ?_
    rw [State.dieQAt, (hNone _ hPass).2]
    exact (State.sends_dieQAt hPass k).trans hQueue

/-! ### The pieces that a record writes (R657, R663) -/

section Only
variable {l : List Piece}

theorem only_setF {f : Fld} {v : Nat} (h : .regs ∈ l) : (setF f v).Only l := fun _ => h

theorem only_hostSend {o : Emit} (h : .regs ∈ l) (hl : irqPieces ⊆ l) : (hostSend o).Only l := fun s => by
  obtain ⟨hEmit, -, -, -, hWork⟩ := irqPieces_mem hl
  exact ⟨all_onlyIf fun _ => only_setF h, fun _ => hWork, fun _ => hEmit⟩

theorem all_ite {W : Act → Prop} {c : Prop} [Decidable c] {p q : Prog} (hp : p.All W) (hq : q.All W) : (if c then p else q).All W := by
  split
  · exact hp
  · exact hq

theorem only_signalVector {fn vec : Nat} (h : .regs ∈ l) (hl : irqPieces ⊆ l) : (signalVector fn vec).Only l := fun s => by
  obtain ⟨-, hMsix, -⟩ := irqPieces_mem hl
  exact all_ite trivial (all_ite hMsix (only_hostSend h hl))

theorem only_raise {page bit : Nat} (h : .regs ∈ l) (hl : irqPieces ⊆ l) : (raise page bit).Only l := fun s => by
  obtain ⟨hEmit, -, hInta, hSince, -⟩ := irqPieces_mem hl
  refine ⟨h, fun _ => ⟨fun _ => only_setF h, fun t => ?_, fun t => ?_, fun t => ?_⟩⟩
  · exact all_onlyIf fun _ => ⟨hSince, only_signalVector h hl⟩
  · exact all_onlyIf fun _ => hSince
  · exact all_onlyIf fun _ => ⟨hInta, all_onlyIf fun _ => only_hostSend h hl⟩

theorem only_backlogAdd {r : JRec} (h : .regs ∈ l) (hb : .jnlBacklog ∈ l) (hl : irqPieces ⊆ l) : (backlogAdd r).Only l := fun _ =>
  all_ite trivial (all_ite hb (all_ite hb ⟨hb, fun _ => ⟨only_setF h, only_setF h⟩, only_raise h hl⟩))

/-- The pieces that numbering a record writes: all but the accesses held. -/
def numberPieces : List Piece := [.regs, .jnlSeq, .jnlRecent, .jnlBacklog, .jnlPersist] ++ irqPieces

theorem only_numberRecord (r : JRec) : (numberRecord r).Only numberPieces := fun s => by
  have hMem : ∀ f ∈ [Piece.regs, .jnlSeq, .jnlRecent, .jnlBacklog, .jnlPersist], f ∈ numberPieces := fun f hf => List.mem_append_left _ hf
  have hBacklog : (backlogAdd { r with seq := s.jnlSeq }).Only numberPieces :=
    only_backlogAdd (hMem _ (by decide)) (hMem _ (by decide)) fun _ hx => List.mem_append_right _ hx
  exact ⟨hMem .jnlSeq (by decide), hMem .jnlRecent (by decide), hBacklog, all_onlyIf fun _ => hMem .jnlPersist (by decide)⟩

theorem only_acceptRecord (r : JRec) : (acceptRecord r).Only (.regs :: recPieces) := fun s => by
  have hNumber : ∀ r : JRec, (numberRecord r).Only (.regs :: recPieces) := fun r => (only_numberRecord r).mono (by decide)
  exact all_ite (show Piece.jnlPre ∈ _ by decide) ⟨hNumber _, fun t => all_onlyIf fun _ => all_ite (hNumber _) (show Piece.jnlHeld ∈ _ by decide)⟩

theorem jnlHeld_numberRecord (r : JRec) (s : State) : ((numberRecord r).run s).jnlHeld = s.jnlHeld :=
  ((only_numberRecord r).onlyIn s .jnlHeld (by decide)).symm

end Only

/-- A record accepted may leave a checkpoint waiting for room, which keeps no master's access. -/
theorem acceptRecord_holdsNone (r : JRec) (s : State) : (acceptRecord r).HoldsNone s := by
  have hQueue := (keeps_acceptRecord (T := []) (r := r) (List.Subset.refl recPieces) (List.Subset.refl recFlds)).same s .dieQ (by decide)
  refine ⟨?_, hQueue.symm⟩
  unfold acceptRecord
  rw [run_look]
  split
  · rfl
  · rw [run_andThen, run_look]
    cases ((numberRecord r).run s).jnlSeq % 2 ^ 36 == 0 with
    | false => rw [run_onlyIf_false _ _ rfl, jnlHeld_numberRecord]
    | true =>
      rw [run_onlyIf_true _ _ rfl]
      simp only
      split
      · rw [jnlHeld_numberRecord, jnlHeld_numberRecord]
      · rw [run_put]
        show (((numberRecord r).run s).jnlHeld ++ _).filter Held.ordered = _
        rw [List.filter_append, jnlHeld_numberRecord]
        exact List.append_nil _

/-! ### Writes that take effect at once, with their record (R49, R50) -/

/-- A register whose write has its effect when it comes, and a record: it is outside the header and the table command window, not shadowed, no half of a pair. -/
structure PlainReg (page off : Nat) (d : RegDecl) : Prop where
  decl : declAt page off = some d
  body : 0x200 ≤ off
  shadowed : d.shadowed = false
  written : d.readOnly = false
  single : latchesOf page off = []
  recorded : unrecorded page off d = false

/-- The same as a test, with the bits that a write sets. -/
def plainReg (page off rw : Nat) : Bool :=
  match declAt page off with
  | none => false
  | some d => decide (0x200 ≤ off) && !d.shadowed && !d.readOnly && (latchesOf page off).isEmpty && !unrecorded page off d && d.rw == rw && d.w1c == 0

theorem plainReg_decl {page off rw : Nat} (h : plainReg page off rw = true) : ∃ d, PlainReg page off d ∧ d.rw = rw ∧ d.w1c = 0 := by
  unfold plainReg at h
  cases hDecl : declAt page off with
  | none => simp [hDecl] at h
  | some d =>
    simp only [hDecl, Bool.and_eq_true, decide_eq_true_eq, Bool.not_eq_true', List.isEmpty_iff, beq_iff_eq] at h
    obtain ⟨⟨⟨⟨⟨⟨hBody, hShadow⟩, hRead⟩, hLatch⟩, hRec⟩, hRw⟩, hClear⟩ := h
    exact ⟨d, ⟨hDecl, hBody, hShadow, hRead, hLatch, hRec⟩, hRw, hClear⟩

/-- From `s` to `v` a master's access has crossed to its page and its record has been accepted; nothing else has changed. -/
structure State.recorded (s v : State) : Prop where
  framed : s.framed v hostPieces recFlds []
  onlyIn : s.onlyIn v (.regs :: hostPieces)

/-- A record is accepted according to its master alone. -/
theorem jnlAccepts_write {s : State} {m page off value : Nat} (h : s.jnlAccepts (mkRecord s 1 m page 0 0 0 0) = true) {u : State} (hu : s.begun.sends u) :
    u.jnlAccepts (mkRecord u 1 m page 0 off value 0) = true := by
  obtain ⟨_, _, _, rfl⟩ := hu
  exact h

/-- The page's write of a plain register, when the write is not refused, is its record and then its effect. -/
theorem writeWord_plain {m page off : Nat} {data : Word} {d : RegDecl} {s u : State} (hTakes : s.takesWrite m page = true) (hPlain : PlainReg page off d)
    (hu : s.begun.sends u) (hStarts : u.writeRefused m page off data.toNat = false) :
    (writeWord m page off 15 data).run u = (regDo m page off d data).run ((acceptRecord (mkRecord u 1 m page 0 off data.toNat 0)).run u) := by
  obtain ⟨hWrite, hHeld⟩ := writeWord_run_taken (off := off) (data := data) hTakes rfl hu
  have hAccepts : s.jnlAccepts (mkRecord s 1 m page 0 0 0 0) = true := by
    simp only [State.takesWrite, Bool.and_eq_true] at hTakes
    exact hTakes.2
  have hOff8 : (off == 8) = false := beq_false_of_ne (by have := hPlain.body; omega)
  have hOff40 : (off == 0x40) = false := beq_false_of_ne (by have := hPlain.body; omega)
  rw [hWrite, writeNow_run_one hPlain.decl hPlain.body hPlain.written hPlain.single hHeld]
  unfold oneWrite journaled
  simp [run_look, hPlain.shadowed, hOff8, hOff40, hPlain.recorded, hStarts, jnlAccepts_write hAccepts hu, run_andThen]

theorem State.recorded.trans {s u v : State} (h : s.recorded u) (h' : u.recorded v) : s.recorded v :=
  ⟨State.framed_trans h.framed h'.framed, fun f hf => State.same_trans (h.onlyIn f hf) (h'.onlyIn f hf)⟩

theorem State.sends_recorded {s u : State} (h : s.begun.sends u) : s.recorded u := by
  refine ⟨State.framed_trans (begun_framed (by decide) s) (State.sends_framed _ _ h (List.Subset.refl _)), fun f hf => ?_⟩
  have hBegun : s.same s.begun f := (Act.emitted []).same_apply s f fun e => hf (by subst e; decide)
  exact State.same_trans hBegun (State.sends_onlyIn h f fun hm => hf (List.mem_cons_of_mem _ (sent_subset hm)))

theorem acceptRecord_recorded (r : JRec) (u : State) : u.recorded ((acceptRecord r).run u) :=
  ⟨keeps_acceptRecord (fun _ h => List.mem_append_right _ h) (List.Subset.refl _) u,
   ((only_acceptRecord r).mono fun _ h => (List.mem_cons.mp h).elim (fun e => e ▸ List.mem_cons_self) fun h' =>
     List.mem_cons_of_mem _ (List.mem_append_right _ h')).onlyIn u⟩

/-- A master's write of a plain register: from a state that differs from this one in the record and what crosses the link alone, its effect; then nothing but what
is sent. -/
theorem hostWrite_plain {m page off : Nat} {data : Word} {d : RegDecl} {s : State} (hTakes : s.takesWrite m page = true) (hPlain : PlainReg page off d)
    (hStarts : ∀ u, s.recorded u → u.writeRefused m page off data.toNat = false) (hQuiet : ∀ v, s.recorded v → v.quiet ((regDo m page off d data).run v)) :
    ∃ v, s.recorded v ∧ ((regDo m page off d data).run v).sends ((hostWrite m page off 15 data).run s.begun) := by
  obtain ⟨hReach, hClear, -⟩ := takesWrite_serves hTakes
  have hRecorded : ∀ u, s.begun.sends u → s.recorded u := fun u hu => State.sends_recorded hu
  have hRun : ∀ u, s.begun.sends u → (writeWord m page off 15 data).run u =
      (regDo m page off d data).run ((acceptRecord (mkRecord u 1 m page 0 off data.toNat 0)).run u) := fun u hu =>
    writeWord_plain hTakes hPlain hu (hStarts u (hRecorded u hu))
  have hNone : ∀ u, s.begun.sends u → (writeWord m page off 15 data).HoldsNone u := by
    intro u hu
    obtain ⟨hHeld, hQueue⟩ := hQuiet _ ((hRecorded u hu).trans (acceptRecord_recorded (mkRecord u 1 m page 0 off data.toNat 0) u))
    obtain ⟨hHeld', hQueue'⟩ := acceptRecord_holdsNone (mkRecord u 1 m page 0 off data.toNat 0) u
    rw [Prog.HoldsNone, hRun u hu, hHeld, hQueue]
    exact ⟨hHeld', hQueue'⟩
  obtain ⟨u, hu, hSent⟩ := hostWrite_reaches (s := s.begun) hReach hClear hNone
  rw [hRun u hu] at hSent
  exact ⟨_, (hRecorded u hu).trans (acceptRecord_recorded _ u), hSent⟩

/-- A command that is a master's write of a plain register leaves what the register's write leaves. -/
theorem command_hostWrite {i : Instr} {m page off : Nat} {data : Word} {d : RegDecl} {s : State} {E : State → Prop} (hWf : i.wellFormed = true)
    (hTakes : s.takesWrite m page = true) (hPlain : PlainReg page off d)
    (hStarts : ∀ u, s.recorded u → u.writeRefused m page off data.toNat = false) (hQuiet : ∀ v, s.recorded v → v.quiet ((regDo m page off d data).run v))
    (hE : ∀ v t, s.recorded v → ((regDo m page off d data).run v).sends t → E t) :
    ∃ t, command i (hostWrite m page off 15 data) s = .next t ∧ E t := by
  obtain ⟨v, hv, hSent⟩ := hostWrite_plain hTakes hPlain hStarts hQuiet
  exact command_answers hWf (hE v _ hv hSent)

/-- The same, with its frame: that of the register's write, and that of the access. -/
theorem command_hostWrite_framed {i : Instr} {m page off : Nat} {data : Word} {d : RegDecl} {s : State} {E : State → Prop} {l l' : List Piece}
    {R R' : List Fld} {T : List Nat} (hWf : i.wellFormed = true) (hTakes : s.takesWrite m page = true) (hPlain : PlainReg page off d)
    (hStarts : ∀ u, s.recorded u → u.writeRefused m page off data.toNat = false)
    (hFrame : ∀ v, s.recorded v → v.framed ((regDo m page off d data).run v) l R T) (hHeld : .jnlHeld ∉ l ∧ .dieQ ∉ l)
    (hl : l ⊆ l' ∧ hostPieces ⊆ l') (hR : R ⊆ R' ∧ recFlds ⊆ R')
    (hE : ∀ v t, s.recorded v → ((regDo m page off d data).run v).sends t → E t) :
    ∃ t, command i (hostWrite m page off 15 data) s = .next t ∧ E t ∧ s.framed t l' R' T :=
  command_hostWrite hWf hTakes hPlain hStarts (fun v hv => State.framed_quiet (hFrame v hv) hHeld) fun v t hv hSent =>
    ⟨hE v t hv hSent, State.framed_trans (State.framed_mono hv.framed hl.2 hR.2 (List.nil_subset _))
      (State.framed_trans (State.framed_mono (hFrame v hv) hl.1 hR.1 (List.Subset.refl _)) (State.sends_framed R' T hSent hl.2))⟩

/-- What a record leaves: every register but those of the parish register and of the host's summary. -/
theorem recFlds_apart {f : Fld} (h : f.page ≠ 2 ∧ f.page ≠ 6) : ∀ g ∈ recFlds, g.off < 65536 ∧ g.apart f := by
  intro g hg
  rcases List.mem_append.mp hg with hg | hg
  · simp only [List.mem_cons, List.not_mem_nil, or_false] at hg
    rcases hg with rfl | rfl <;> simp only [Fld.apart, JNL_OVERWRITTEN_LO.reg, JNL_OVERWRITTEN_HI.reg] <;> omega
  · exact irqFlds_apart (by decide) h.1 (.inl h.2) g hg

theorem State.recorded.rd {s v : State} (h : s.recorded v) {f : Fld} (hf : f.off < 65536 ∧ f.page ≠ 2 ∧ f.page ≠ 6) :
    v.rd f = s.rd f := State.framed_rd h.framed f hf.1 (recFlds_apart hf.2)

theorem State.recorded.reg {s v : State} (h : s.recorded v) {page off : Nat}
    (hf : off < 65536 ∧ page ≠ 2 ∧ page ≠ 6) : v.reg page off = s.reg page off :=
  State.framed_regsAt h.framed _ fun g hg e => by
    obtain ⟨hOff, hApart⟩ := recFlds_apart (f := ⟨page, off, 31, 0⟩) hf.2 g hg
    have hKey := regKey_inj hOff hf.1 e
    have hPages : ∀ g ∈ recFlds, g.page = 2 ∨ g.page = 6 := by decide
    have := hPages g hg
    omega

/-! ### The effect of a plain register's write -/

theorem takesCmd_takes {s : State} {m page : Nat} (h : s.takesCmd m page = true) : s.takesWrite m page = true ∧ s.rd (BLK_CTRL.ENABLE page) = 1 := by
  simpa only [State.takesCmd, Bool.and_eq_true, beq_iff_eq] using h

/-- A block that is enabled stays so while a master's access is recorded. -/
theorem State.recorded.enabled {s v : State} (h : s.recorded v) {page : Nat} (hPage : page ≠ 2 ∧ page ≠ 6) (hEn : s.rd (BLK_CTRL.ENABLE page) = 1) :
    v.rd (BLK_CTRL.ENABLE page) = 1 := (h.rd ⟨(by decide : (8 : Nat) < 65536), hPage⟩).trans hEn

/-- On the pages of the FE die's blocks. -/
theorem regDo_fe {m page off : Nat} {d : RegDecl} {data : Word} {s : State} (hPage : 13 < page ∧ page ≤ 128) (hOff : 0x200 ≤ off)
    (hStarts : startsWork page off = false ∨ s.rd (BLK_CTRL.ENABLE page) = 1) :
    (regDo m page off d data).run s = (feWrite page off (d.merge (s.reg page off) data) data).run s := by
  have hGo : (startsWork page off && s.rd (BLK_CTRL.ENABLE page) == 0) = false := by rcases hStarts with h | h <;> simp [h]
  unfold regDo
  rw [run_look]
  simp only [hGo]
  rw [if_neg (by omega), if_neg (by simp), if_neg (by omega), if_pos (by simp; omega)]

theorem Prog.Keeps.congr {p q : Prog} {l : List Piece} {R : List Fld} {T : List Nat} (h : q.Keeps l R T) (hRun : ∀ s, p.run s = q.run s) : p.Keeps l R T :=
  fun s => hRun s ▸ h s

theorem keeps_regDo_fe {m page off : Nat} {d : RegDecl} {data : Word} {l : List Piece} {R : List Fld} {T : List Nat} (hPage : 13 < page ∧ page ≤ 128)
    (hOff : 0x200 ≤ off) (h : ∀ v, (feWrite page off v data).Keeps l R T) : (regDo m page off d data).Keeps l R T := by
  refine keeps_look fun s => ?_
  simp only
  rw [if_neg (by omega), if_neg (c := page ≤ 13) (by omega), if_pos (c := (decide (page ≤ 128) || page == 179) = true) (by simp; omega)]
  exact keeps_ite (fun _ => keeps_skip) fun _ => h _

theorem keeps_regDo_tm {m page off : Nat} {d : RegDecl} {data : Word} {l : List Piece} {R : List Fld} {T : List Nat} (hPage : 128 < page ∧ page ≠ 179)
    (hOff : 0x200 ≤ off) (h : ∀ v, (tmWrite m page off v data).Keeps l R T) : (regDo m page off d data).Keeps l R T := by
  refine keeps_look fun s => ?_
  simp only
  rw [if_neg (by omega), if_neg (c := page ≤ 13) (by omega), if_neg (c := (decide (page ≤ 128) || page == 179) = true) (by simp; omega)]
  exact keeps_ite (fun _ => keeps_skip) fun _ => h _

/-- On the pages of the TM die's blocks. -/
theorem regDo_tm {m page off : Nat} {d : RegDecl} {data : Word} {s : State} (hPage : 128 < page ∧ page ≠ 179) (hOff : 0x200 ≤ off)
    (hStarts : startsWork page off = false ∨ s.rd (BLK_CTRL.ENABLE page) = 1) :
    (regDo m page off d data).run s = (tmWrite m page off (d.merge (s.reg page off) data) data).run s := by
  have hGo : (startsWork page off && s.rd (BLK_CTRL.ENABLE page) == 0) = false := by rcases hStarts with h | h <;> simp [h]
  unfold regDo
  rw [run_look]
  simp only [hGo]
  rw [if_neg (by omega), if_neg (by simp), if_neg (by omega), if_neg (by simp; omega)]

theorem bitOf_toNat {n : Nat} (w : BitVec n) (b : Nat) : bitOf w.toNat b = w.getLsbD b := rfl

/-- The bit that a command sets for GO. -/
theorem getLsbD_setBit31 (data : Word) : (setFieldOf data 31 31 1).getLsbD 31 = true := by
  rw [getLsbD_setFieldOf _ _ _ _ _ (by decide), if_pos ⟨Nat.le_refl _, Nat.le_refl _⟩]
  rfl

/-- A register as set reads as set. -/
theorem rd_setReg_same (s : State) (f : Fld) (v : Word) : ((setReg f.page f.off v).run s).rd f = fieldOf v f.hi f.lo := by
  rw [State.rd, State.reg, regsAt_setReg, if_pos rfl]

/-- A register that is set leaves the others. -/
theorem rd_setReg_apart (s : State) {f : Fld} {page off : Nat} (v : Word) (h : f.off < 65536 ∧ off < 65536 ∧ (f.page ≠ page ∨ f.off ≠ off)) :
    ((setReg page off v).run s).rd f = s.rd f := by
  rw [State.rd, reg_setReg _ _ h.2.1 h.1, if_neg (by omega)]
  rfl

end Sys2Proof.Machine
end
-- ==== Sys2Proof/Proofs/CalendarExchange.lean ====
section
/-!
PROOF. Calendar exchanges of FlexE groups and the copy after a cross-connect switch (spec/03_ports_and_framing.md R113 to R120).
-/
namespace Sys2Proof.Machine

/-! ### Programs of a calendar exchange (R113, R114) -/

section Keeps
variable {l : List Piece} {R : List Fld} {T : List Nat}

theorem keeps_sendOverhead {g : Nat} (h : .emitted ∈ l) : (sendOverhead g).Keeps l R T := keeps_look fun _ => keeps_onlyIf fun _ => keeps_emit h

theorem keeps_eachRefresh {ps : List Nat} (hl : linkPieces ⊆ l) (hR : ps.flatMap linkFlds ⊆ R) : (each ps linkRefresh).Keeps l R T :=
  keeps_each fun _ hp => keeps_linkRefresh hl fun _ hx => hR (List.mem_flatMap.mpr ⟨_, hp, hx⟩)

theorem keeps_calendarSwitch {g : Nat} (h : .flxEx ∈ l) (hR : FLX_CAL_CTRL.reg g ∈ R) : (calendarSwitch g).Keeps l R T :=
  keeps_look fun _ => keeps_onlyIf fun _ => keeps_andThen (keeps_put h (by simp) (by simp)) (keeps_setF_in hR)

end Keeps

theorem rd_sendOverhead (s : State) (g : Nat) (f : Fld) : ((sendOverhead g).run s).rd f = s.rd f := by
  unfold sendOverhead
  rw [run_look]
  cases s.flxCarries g <;> rfl

/-- The refresh of the links of ports leaves the pages above theirs. -/
theorem rd_eachRefresh (s : State) {ps : List Nat} {f : Fld} (hps : ∀ p ∈ ps, p < 48) (hf : f.off < 65536 ∧ 64 ≤ f.page) :
    ((each ps linkRefresh).run s).rd f = s.rd f := by
  refine Prog.Keeps.rd (l := linkPieces) (T := []) (keeps_eachRefresh (List.Subset.refl _) (List.Subset.refl _)) s f hf.1 fun g hg => ?_
  obtain ⟨p, hp, hg⟩ := List.mem_flatMap.mp hg
  have := hps p hp
  exact linkFlds_apart (by omega) ⟨hf.1, by omega, .inl (by omega)⟩ g hg

/-- Where the exchanges are as before, so is each. -/
theorem State.same_flxExAt {s t : State} (h : s.same t .flxEx) (g : Nat) : t.flxExAt g = s.flxExAt g := by
  have hSame : s.flxEx = t.flxEx := h
  rw [State.flxExAt, ← hSame]
  rfl

theorem flxEx_eachRefresh (s : State) (ps : List Nat) (g : Nat) : ((each ps linkRefresh).run s).flxExAt g = s.flxExAt g :=
  State.same_flxExAt (Prog.Keeps.same (keeps_eachRefresh (T := []) (List.Subset.refl linkPieces) (List.Subset.refl (ps.flatMap linkFlds))) s .flxEx (by decide)) g

theorem flxEx_raise (s : State) (page bit g : Nat) : ((raise page bit).run s).flxExAt g = s.flxExAt g :=
  State.same_flxExAt (Prog.Keeps.same (keeps_raise (T := []) (List.Subset.refl irqPieces) (List.Subset.refl (irqFlds page bit))) s .flxEx (by decide)) g

/-- A write of anything but a register leaves every register. -/
theorem reg_put (s : State) {a : Act} (h : Piece.regs ≠ a.piece) (page off : Nat) : ((Prog.put a).run s).reg page off = s.reg page off := by
  have hRegs : s.regs = (a.apply s).regs := a.same_apply s .regs h
  rw [run_put, State.reg, State.regsAt, ← hRegs]
  rfl

theorem rd_put (s : State) {a : Act} (h : Piece.regs ≠ a.piece) (f : Fld) : ((Prog.put a).run s).rd f = s.rd f :=
  congrArg (fieldOf · f.hi f.lo) (reg_put s h f.page f.off)

theorem run_skip (s : State) : Prog.skip.run s = s := rfl

theorem rd_emit (s : State) (e : Emit) (f : Fld) : ((emit e).run s).rd f = s.rd f := rfl

theorem flxEx_put_same (s : State) (g : Nat) (x : FlxEx) : ((Prog.put (.flxEx g x)).run s).flxExAt g = x := by
  rw [run_put, Act.flxEx_apply, if_pos rfl]

theorem flxPorts_lt {s : State} {g p : Nat} (h : p ∈ s.flxPorts g) : p < 48 := List.mem_range.mp (List.mem_filter.mp h).1

/-! ### CALENDAR_EXCHANGE_STEP and CALENDAR_CA_TIMEOUT -/

theorem calendarExchangeStep_asks {g : Nat} {multiframe : Bool} {s : State} (hWf : Instr.wellFormed (.calendarExchangeStep g multiframe) = true)
    (hStep : (s.flxExAt g).step = 2) (hFrame : multiframe = true) : ∃ t, exec (.calendarExchangeStep g multiframe) s = .next t ∧
      t.rd (FLX_STAT.CR_TX g) = 1 ∧ t.rd (FLX_STAT.CA_RX g) = 0 ∧
      ((t.flxExAt g).step = if s.cfg (FLX_GROUP_CFG.CA_HANDSHAKE g) = 1 then 3 else 4) ∧ (t.flxExAt g).at_ = s.mono ∧
      s.framed t [.emitted, .flxEx] [FLX_STAT.CR_TX g, FLX_STAT.CA_RX g] [] := by
  have hBegun : (s.begun.flxExAt g).step = 2 := hStep
  simp only [exec, execCalendarExchangeStep]
  refine command_answers hWf ?_
  rw [run_look, if_neg (by simp [hBegun]), if_pos (by simp [hBegun, hFrame])]
  refine ⟨?_, ?_, ?_, ?_, State.framed_trans (begun_framed (by simp) s) (keeps_seqs_cons (keeps_setF (by simp)) (keeps_seqs_cons (keeps_setF (by simp))
    (keeps_seqs_cons (keeps_sendOverhead (by simp)) (keeps_seqs_cons (keeps_put (by simp) (by simp) (by simp)) keeps_seqs_nil))) _)⟩
  all_goals
    iterate 4 rw [run_seqs_cons]
    rw [run_seqs_nil]
  · rw [rd_put _ (by simp), rd_sendOverhead, rd_setF_apart _ _ (by simp only [Fld.apart, FLX_STAT.CR_TX, FLX_STAT.CA_RX]; omega)]
    exact rd_setF_fits _ (by simp only [FLX_STAT.CR_TX]; omega)
  · rw [rd_put _ (by simp), rd_sendOverhead]
    exact rd_setF_fits _ (by simp only [FLX_STAT.CA_RX]; omega)
  · rw [flxEx_put_same]
    simp only [beq_iff_eq, State.begun_cfg]
  · rw [flxEx_put_same]
    rfl

/-- The fields of an exchange's end: the calendar in use, and what was asked for. -/
theorem calendarExchangeStep_changes {g : Nat} {multiframe : Bool} {s : State} (hWf : Instr.wellFormed (.calendarExchangeStep g multiframe) = true)
    (hStep : (s.flxExAt g).step = 3) (hAck : s.rd (FLX_STAT.CA_RX g) = 1) (hArm : s.xcArm = none) :
    ∃ t, exec (.calendarExchangeStep g multiframe) s = .next t ∧ t.rd (FLX_CAL_CTRL.TX_C g) = 1 - s.rd (FLX_CAL_CTRL.TX_C g) ∧
      t.rd (FLX_CAL_CTRL.SWITCH g) = 0 ∧ t.rd (FLX_STAT.CR_TX g) = 0 ∧ (t.flxExAt g).step = 0 ∧
      s.framed t [[.flxEx], linkPieces].flatten [[FLX_CAL_CTRL.TX_C g, FLX_CAL_CTRL.SWITCH g, FLX_STAT.CR_TX g], irqFlds (64 + g) 21,
        (s.flxPorts g).flatMap linkFlds].flatten [] := by
  have hGroup : g < 24 := by simpa only [Instr.wellFormed, decide_eq_true_eq] using hWf
  have hBegun : (s.begun.flxExAt g).step = 3 := hStep
  have hArmBegun : s.begun.xcArm = none := hArm
  have hPorts : ∀ p ∈ s.begun.flxPorts g, p < 48 := fun _ h => flxPorts_lt h
  simp only [exec, execCalendarExchangeStep]
  refine command_answers hWf ?_
  rw [run_look, if_neg (by simp [hBegun]), if_neg (by simp [hBegun]), if_pos (by simp [hBegun, hAck]), hArmBegun]
  refine ⟨?_, ?_, ?_, ?_, ?frame⟩
  case frame =>
    refine State.framed_trans (begun_framed (by simp [linkPieces, irqPieces]) s) (keeps_seqs (fun p hp => ?_) _)
    have hLink : linkPieces ⊆ [[.flxEx], linkPieces].flatten := by simp
    have hEmit : .emitted ∈ [[.flxEx], linkPieces].flatten := by simp [linkPieces, irqPieces]
    simp only [List.mem_cons, List.not_mem_nil, or_false] at hp
    rcases hp with rfl | rfl | rfl | rfl | rfl | rfl | rfl | rfl | rfl
    · exact keeps_setF (by simp)
    · exact keeps_setF (by simp)
    · exact keeps_setF (by simp)
    · exact keeps_sendOverhead hEmit
    · exact keeps_emit hEmit
    · exact keeps_put (by simp) (by simp) (by simp)
    · exact keeps_raise (linkPieces_irq hLink) fun _ h => by simp [h]
    · exact keeps_eachRefresh hLink fun _ h => List.mem_flatten_of_mem (List.mem_cons_of_mem _ (List.mem_cons_of_mem _ (List.mem_singleton_self _))) h
    · exact keeps_skip
  all_goals
    iterate 9 rw [run_seqs_cons]
    rw [run_seqs_nil]
  · rw [run_skip, rd_eachRefresh _ hPorts (by simp only [FLX_CAL_CTRL.TX_C]; omega), rd_raise _ (by simp only [FLX_CAL_CTRL.TX_C]; omega),
      rd_put _ (by simp), rd_emit, rd_sendOverhead, rd_setF_apart _ _ (by simp only [Fld.apart, FLX_CAL_CTRL.TX_C, FLX_STAT.CR_TX]; omega),
      rd_setF_apart _ _ (by simp only [Fld.apart, FLX_CAL_CTRL.TX_C, FLX_CAL_CTRL.SWITCH]; omega),
      rd_setF_fits _ (by simp only [FLX_CAL_CTRL.TX_C]; omega), State.begun_rd]
  · rw [run_skip, rd_eachRefresh _ hPorts (by simp only [FLX_CAL_CTRL.SWITCH]; omega), rd_raise _ (by simp only [FLX_CAL_CTRL.SWITCH]; omega),
      rd_put _ (by simp), rd_emit, rd_sendOverhead, rd_setF_apart _ _ (by simp only [Fld.apart, FLX_CAL_CTRL.SWITCH, FLX_STAT.CR_TX]; omega)]
    exact rd_setF_fits _ (by simp only [FLX_CAL_CTRL.SWITCH]; omega)
  · rw [run_skip, rd_eachRefresh _ hPorts (by simp only [FLX_STAT.CR_TX]; omega), rd_raise _ (by simp only [FLX_STAT.CR_TX]; omega),
      rd_put _ (by simp), rd_emit, rd_sendOverhead]
    exact rd_setF_fits _ (by simp only [FLX_STAT.CR_TX]; omega)
  · rw [run_skip, flxEx_eachRefresh, flxEx_raise, flxEx_put_same]

theorem calendarCaTimeout_ends {g : Nat} {s : State} (hWf : Instr.wellFormed (.calendarCaTimeout g) = true) (hStep : (s.flxExAt g).step = 3)
    (hAck : s.rd (FLX_STAT.CA_RX g) = 0) (hLate : s.since (s.flxExAt g).at_ 100000000 = true) (hArm : s.xcArm = none) :
    ∃ t, exec (.calendarCaTimeout g) s = .next t ∧ t.rd (FLX_CAL_CTRL.SWITCH g) = 0 ∧ t.rd (FLX_STAT.CR_TX g) = 0 ∧
      t.rd (FLX_CAL_CTRL.TX_C g) = s.rd (FLX_CAL_CTRL.TX_C g) ∧ (t.flxExAt g).step = 0 ∧ (t.reg (64 + g) 0x10).getLsbD 22 = true ∧
      s.framed t [[.flxEx], irqPieces].flatten [[FLX_CAL_CTRL.SWITCH g, FLX_STAT.CR_TX g], irqFlds (64 + g) 22].flatten [] := by
  have hGroup : g < 24 := by simpa only [Instr.wellFormed, decide_eq_true_eq] using hWf
  have hBegun : (s.begun.flxExAt g).step = 3 := hStep
  have hLateBegun : s.begun.since (s.begun.flxExAt g).at_ 100000000 = true := hLate
  have hArmBegun : s.begun.xcArm = none := hArm
  simp only [exec, execCalendarCaTimeout]
  refine command_answers hWf ?_
  rw [run_look_onlyIf (by simp [hBegun, hAck, hLateBegun]), hArmBegun]
  refine ⟨?_, ?_, ?_, ?_, ?_, ?frame⟩
  case frame =>
    have hIrq : irqPieces ⊆ [[.flxEx], irqPieces].flatten := by simp
    have hEmit : .emitted ∈ [[.flxEx], irqPieces].flatten := by simp [irqPieces]
    refine State.framed_trans (begun_framed hEmit s) (keeps_seqs (fun p hp => ?_) _)
    simp only [List.mem_cons, List.not_mem_nil, or_false] at hp
    rcases hp with rfl | rfl | rfl | rfl | rfl | rfl
    · exact keeps_setF (by simp)
    · exact keeps_setF (by simp)
    · exact keeps_sendOverhead hEmit
    · exact keeps_put (by simp) (by simp) (by simp)
    · exact keeps_raise hIrq fun _ h => by simp [h]
    · exact keeps_skip
  all_goals
    simp only [run_seqs_cons]
    rw [run_seqs_nil]
  · rw [run_skip, rd_raise _ (by simp only [FLX_CAL_CTRL.SWITCH]; omega), rd_put _ (by simp), rd_sendOverhead]
    exact rd_setF_fits _ (by simp only [FLX_CAL_CTRL.SWITCH]; omega)
  · rw [run_skip, rd_raise _ (by simp only [FLX_STAT.CR_TX]; omega), rd_put _ (by simp), rd_sendOverhead, rd_setF_apart _ _ (by simp only [Fld.apart, FLX_CAL_CTRL.SWITCH, FLX_STAT.CR_TX]; omega)]
    exact rd_setF_fits _ (by simp only [FLX_STAT.CR_TX]; omega)
  · rw [run_skip, rd_raise _ (by simp only [FLX_CAL_CTRL.TX_C]; omega), rd_put _ (by simp), rd_sendOverhead, rd_setF_apart _ _ (by simp only [Fld.apart, FLX_CAL_CTRL.TX_C, FLX_CAL_CTRL.SWITCH]; omega),
      rd_setF_apart _ _ (by simp only [Fld.apart, FLX_CAL_CTRL.TX_C, FLX_STAT.CR_TX]; omega), State.begun_rd]
  · rw [run_skip, flxEx_raise, flxEx_put_same]
  · rw [run_skip]
    exact getLsbD_raise _ (by decide) (by omega) (by omega)

/-! ### XC_COPY_DONE (R120) -/

theorem tablesAt_put (s : State) (k : Nat) (e : Option Entry) (j : Nat) : ((Prog.put (.tables k e)).run s).tablesAt j = if j = k then e else s.tablesAt j :=
  Sp.get_set _ _ _ _

/-- Entries written one after another, each with a value of its own, read as written; the rest stay. -/
theorem tablesAt_each {key : Nat → Nat} (hInj : ∀ a b, key a = key b → a = b) (e : Nat → Option Entry) : ∀ (is : List Nat) (s : State) (i : Nat),
    ((each is fun i => .put (.tables (key i) (e i))).run s).tablesAt (key i) = if i ∈ is then e i else s.tablesAt (key i)
  | [], s, i => (if_neg List.not_mem_nil).symm
  | j :: is, s, i => by
    refine (tablesAt_each hInj e is _ i).trans ?_
    by_cases hi : i ∈ is
    · rw [if_pos hi, if_pos (List.mem_cons_of_mem _ hi)]
    · rw [if_neg hi, tablesAt_put]
      by_cases hj : i = j
      · subst hj
        rw [if_pos rfl, if_pos List.mem_cons_self]
      · rw [if_neg fun h => hj (hInj _ _ h), if_neg fun h => (List.mem_cons.mp h).elim hj hi]

theorem Sp.get_eq_default {α : Type} {d : Nat → α} {m : Sp α} {k : Nat} (h : ∀ v, (k, v) ∉ m) : Sp.get d m k = d k := by
  induction m with
  | nil => rfl
  | cons kv m ih =>
    obtain ⟨j, v⟩ := kv
    rw [Sp.get, if_neg, ih fun v hv => h v (List.mem_cons_of_mem _ hv)]
    rintro rfl
    exact h v List.mem_cons_self

/-- What a store reads at a key is the default or stands in its list. -/
theorem Sp.get_mem_or_default {α : Type} (d : Nat → α) (m : Sp α) (k : Nat) : Sp.get d m k = d k ∨ (k, Sp.get d m k) ∈ m := by
  induction m with
  | nil => exact .inl rfl
  | cons kv m ih =>
    obtain ⟨j, v⟩ := kv
    by_cases hk : k = j
    · subst hk
      rw [Sp.get, if_pos rfl]
      exact .inr List.mem_cons_self
    · rw [Sp.get, if_neg hk]
      exact ih.imp id (List.mem_cons_of_mem _)

/-- An entry of the cross-connect's pages that no index names is not there. -/
theorem tab?_of_not_mem {s : State} {page table i : Nat} (hPage : page ≠ 4) (hTable : table < 64) (hIndex : i < 2 ^ 22) (h : i ∉ s.tabIndices page table) :
    s.tab? page table i = none := by
  have hKey : tabKey page table i ≠ tabKey 4 0 0 := by unfold tabKey; omega
  rcases Sp.get_mem_or_default dfltTables s.tables (tabKey page table i) with hDflt | hMem
  · exact hDflt.trans (if_neg (by simpa using hKey))
  · by_contra hSome
    refine h (List.mem_filterMap.mpr ⟨_, hMem, ?_⟩)
    have hDiv : tabKey page table i / 2 ^ 22 = page * 64 + table := by unfold tabKey; omega
    have hMod : tabKey page table i % 2 ^ 22 = i := by unfold tabKey; omega
    have hSome' : (Sp.get dfltTables s.tables (tabKey page table i)).isSome = true := Option.isSome_iff_ne_none.mpr hSome
    simp only [hDiv, hMod, hSome', beq_self_eq_true, Bool.and_self, if_true]

theorem tabKey_inj (page table : Nat) : ∀ a b, tabKey page table a = tabKey page table b → a = b := fun _ _ h => Nat.add_left_cancel h

theorem xcCopyDone_copies {s : State} (hWf : Instr.wellFormed .xcCopyDone = true) (hDue : s.xcCopyAt.isSome = true) :
    ∃ t, exec .xcCopyDone s = .next t ∧ (∀ i, i < 2 ^ 22 → t.tab? 88 0 i = s.tab? 88 1 i) ∧ t.xcCopyAt = none ∧ t.rd XC_STAT.PEND = 0 ∧
      s.framed t [.emitted, .xcCopyAt] [XC_STAT.PEND] ((s.tabIndices 88 0 ++ s.tabIndices 88 1).map (tabKey 88 0)) := by
  simp only [exec, execXcCopyDone]
  refine command_answers hWf ?_
  rw [run_look_onlyIf (show s.begun.xcCopyAt.isSome = true from hDue)]
  have hKeeps : ∀ (is : List Nat) (e : Nat → Option Entry), is ⊆ s.tabIndices 88 0 ++ s.tabIndices 88 1 →
      (each is fun i => .put (.tables (tabKey 88 0 i) (e i))).Keeps [.emitted, .xcCopyAt] [XC_STAT.PEND]
        ((s.tabIndices 88 0 ++ s.tabIndices 88 1).map (tabKey 88 0)) :=
    fun is e h => keeps_each fun i hi => keeps_tables (List.mem_map_of_mem (h hi))
  refine ⟨fun i hi => ?_, ?_, ?_, State.framed_trans (begun_framed (by simp) s) (keeps_seqs_cons (hKeeps _ (fun _ => none) (List.subset_append_left _ _))
    (keeps_seqs_cons (hKeeps _ (s.begun.tab? 88 1) (List.subset_append_right _ _)) (keeps_seqs_cons (keeps_put (by simp) (by simp) (by simp))
      (keeps_seqs_cons (keeps_setF (by simp)) keeps_seqs_nil))) _)⟩
  all_goals
    iterate 4 rw [run_seqs_cons]
    rw [run_seqs_nil]
  · have hTail : ∀ (u : State) (k : Nat), ((setF XC_STAT.PEND 0).run ((Prog.put (.xcCopyAt none)).run u)).tablesAt k = u.tablesAt k := fun u k =>
      (keeps_andThen (keeps_put (l := [.xcCopyAt]) (by simp) (by simp) (by simp)) (keeps_setF (List.mem_singleton_self _)) u).2.2 k List.not_mem_nil
    have hActive : s.begun.tab? 88 1 i = s.tab? 88 1 i := rfl
    rw [State.tab?, hTail, tablesAt_each (tabKey_inj 88 0) (s.begun.tab? 88 1)]
    by_cases hi1 : i ∈ s.begun.tabIndices 88 1
    · rw [if_pos hi1, hActive]
    · rw [if_neg hi1, ← hActive, tab?_of_not_mem (by decide) (by decide) hi hi1, tablesAt_each (tabKey_inj 88 0) fun _ => none]
      by_cases hi0 : i ∈ s.begun.tabIndices 88 0
      · rw [if_pos hi0]
      · rw [if_neg hi0]
        exact tab?_of_not_mem (by decide) (by decide) hi hi0
  · rfl
  · exact rd_setF_fits _ (by decide)

/-! ### Writes that start a switch (R113, R118) -/

theorem plainReg_calendarSwitch : ∀ g, g < 24 → plainReg (64 + g) 0x240 0 = true := by decide +kernel

theorem plainReg_xcSwitch : plainReg 88 0x200 0x7000001F = true := by decide +kernel

/-- The write of FLX_CAL_CTRL with its SWITCH bit, at its page. -/
theorem feWrite_calendarSwitch {g : Nat} (hg : g < 24) (v : Word) (s : State) : (feWrite (64 + g) 0x240 v 4).run s = (calendarSwitch g).run s := by
  unfold feWrite
  rw [run_look]
  simp only
  rw [if_neg (by simp), if_neg (by simp), if_pos (by simp; omega), run_onlyIf_true _ _ (by decide), Nat.add_sub_cancel_left]

theorem State.recorded.flxExAt {s v : State} (h : s.recorded v) (g : Nat) : v.flxExAt g = s.flxExAt g := State.same_flxExAt (h.onlyIn .flxEx (by decide)) g

theorem State.recorded.mono {s v : State} (h : s.recorded v) : v.mono = s.mono := by
  have hSame : s.mono16 = v.mono16 := h.onlyIn .mono16 (by decide)
  rw [State.mono, ← hSame]
  rfl

/-- A group with no exchange running begins one. -/
theorem calendarSwitch_run {g : Nat} {s : State} (hIdle : (s.flxExAt g).step = 0) :
    (calendarSwitch g).run s = (setF (FLX_CAL_CTRL.SWITCH g) 1).run ((Prog.put (.flxEx g { s.flxExAt g with step := 1, at_ := s.mono })).run s) := by
  unfold calendarSwitch
  rw [run_look_onlyIf (by simp [hIdle]), run_andThen]

theorem calendarSwitch_begins {m g : Nat} {s : State} (hWf : Instr.wellFormed (.calendarSwitch m g) = true) (hTakes : s.takesCmd m (64 + g) = true)
    (hIdle : (s.flxExAt g).step = 0) :
    ∃ t, exec (.calendarSwitch m g) s = .next t ∧
      ((t.flxExAt g).step = 1 ∧ (t.flxExAt g).at_ = s.mono ∧ t.rd (FLX_CAL_CTRL.SWITCH g) = 1) ∧
      s.framed t [[.flxEx], hostPieces].flatten [[FLX_CAL_CTRL.reg g], recFlds].flatten [] := by
  obtain ⟨hWrite, hEn⟩ := takesCmd_takes hTakes
  have hGroup : g < 24 := by
    simp only [Instr.wellFormed, Bool.and_eq_true, decide_eq_true_eq] at hWf
    exact hWf.2
  obtain ⟨d, hPlain, -⟩ := plainReg_decl (plainReg_calendarSwitch g hGroup)
  have hKeeps : (regDo m (64 + g) 0x240 d 4).Keeps [.flxEx] [FLX_CAL_CTRL.reg g] [] :=
    keeps_regDo_fe (by omega) (by decide) fun v => (keeps_calendarSwitch (by simp) (by simp)).congr (feWrite_calendarSwitch hGroup v)
  have hStarts : ∀ u, s.recorded u → u.writeRefused m (64 + g) 0x240 (4 : Word).toNat = false := by
    intro u hu
    have hStep : (u.flxExAt g).step = 0 := hu.flxExAt g ▸ hIdle
    have hOn := hu.enabled (page := 64 + g) (by omega) hEn
    have hPage : 64 + g < 88 := by omega
    have hBit : bitOf 4 2 = true := by decide
    simp [State.writeRefused, hOn, hStep, hPage, hBit]
  simp only [exec, execCalendarSwitch]
  refine command_hostWrite_framed hWf hWrite hPlain hStarts (fun v _ => hKeeps v) (by decide) (by simp) (by simp) fun v t hv hSent => ?_
  rw [regDo_fe (by omega) (by decide) (.inr (hv.enabled (by omega) hEn)), feWrite_calendarSwitch hGroup, calendarSwitch_run (hv.flxExAt g ▸ hIdle)] at hSent
  have hEx : t.flxExAt g = { v.flxExAt g with step := 1, at_ := v.mono } :=
    (State.same_flxExAt (State.sends_onlyIn hSent .flxEx (by decide)) g).trans (flxEx_put_same v g _)
  rw [hEx, State.sends_rd hSent]
  exact ⟨rfl, hv.mono, rd_setF_fits _ (by simp only [FLX_CAL_CTRL.SWITCH]; omega)⟩

/-! ### XC_SWITCH -/

theorem feWrite_xcSwitch {data : Word} (hGo : bitOf data.toNat 31 = true) (v : Word) (s : State) :
    (feWrite 88 0x200 v data).run s = xcSwitch.run ((setReg 88 0x200 v).run s) := by
  unfold feWrite
  rw [run_look]
  simp [hGo, onlyIf, run_andThen]

/-- With nothing to check and nothing under way, a GO in mode ARMED waits for the group's exchange. -/
theorem xcSwitch_arms {s : State} (hMode : s.rd XC_SWITCH.MODE = 1) (hPend : s.rd XC_STAT.PEND = 0) (hNone : s.tabIndices 88 0 = []) :
    xcSwitch.run s = (setF XC_STAT.PEND 1).run ((Prog.put (.xcArm (some { group := s.rd XC_SWITCH.GROUP, copy := s.rd XC_SWITCH.COPY == 1, skip := (s.flxExAt (s.rd XC_SWITCH.GROUP)).step != 0 }))).run
      ((setF XC_STAT.ERR_CODE 0).run s)) := by
  unfold xcSwitch
  rw [run_look]
  simp only [hMode, hPend, hNone, List.find?_nil]
  rw [if_neg (by decide), run_seqs_cons, run_seqs_cons, run_seqs_nil, if_pos (by decide), run_andThen]

/-- The fields of XC_SWITCH that its write with GO leaves, as written. -/
theorem fieldOf_xcSwitch {d : RegDecl} (hRw : d.rw = 0x7000001F) (hClear : d.w1c = 0) (old data : Word) :
    fieldOf (d.merge old (setFieldOf data 31 31 1)) 29 28 = fieldOf data 29 28 ∧ fieldOf (d.merge old (setFieldOf data 31 31 1)) 4 0 = fieldOf data 4 0 := by
  constructor
  · rw [fieldOf_merge (fun b hb hb' => by rw [hRw]; interval_cases b <;> rfl) hClear, fieldOf_setFieldOf_disjoint _ _ _ _ _ _ (by decide) (by decide)]
  · rw [fieldOf_merge (fun b hb hb' => by rw [hRw]; interval_cases b <;> rfl) hClear, fieldOf_setFieldOf_disjoint _ _ _ _ _ _ (by decide) (by decide)]

theorem keeps_xcArms {l : List Piece} {R : List Fld} {x : XcArm} (h : .xcArm ∈ l) (hR : XC_STAT.reg ∈ R) :
    (seqs [setF XC_STAT.ERR_CODE 0, .put (.xcArm (some x)), setF XC_STAT.PEND 1]).Keeps l R [] :=
  keeps_seqs_cons (keeps_setF_in hR) (keeps_seqs_cons (keeps_put h (by simp) (by simp)) (keeps_setF_in hR))

theorem xcSwitch_begins {m : Nat} {data : Word} {s : State} (hWf : Instr.wellFormed (.xcSwitch m data) = true) (hTakes : s.takesCmd m 88 = true)
    (hMode : fieldOf data XC_SWITCH.MODE.hi XC_SWITCH.MODE.lo = 1) (hPend : s.rd XC_STAT.PEND = 0) (hNone : s.tabIndices 88 0 = []) :
    ∃ t, exec (.xcSwitch m data) s = .next t ∧
      (t.rd XC_STAT.PEND = 1 ∧ t.xcArm.map (fun x => x.group) = some (fieldOf data XC_SWITCH.GROUP.hi XC_SWITCH.GROUP.lo) ∧ t.rd XC_STAT.ERR_CODE = 0) ∧
      s.framed t [[.xcArm], hostPieces].flatten [[XC_SWITCH.reg, XC_STAT.reg], recFlds].flatten [] := by
  obtain ⟨hWrite, hEn⟩ := takesCmd_takes hTakes
  obtain ⟨d, hPlain, hRw, hClear⟩ := plainReg_decl plainReg_xcSwitch
  have hGo : bitOf (setFieldOf data 31 31 1).toNat 31 = true := getLsbD_setBit31 data
  have hStarts : ∀ u, s.recorded u → u.writeRefused m 88 0x200 (setFieldOf data 31 31 1).toNat = false := by
    intro u hu
    have hOn := hu.enabled (page := 88) (by decide) hEn
    simp [State.writeRefused, hOn, isQuota]
  have hRun : ∀ v, s.recorded v → ∃ x : XcArm, x.group = fieldOf data 4 0 ∧ (regDo m 88 0x200 d (setFieldOf data 31 31 1)).run v =
      (seqs [setF XC_STAT.ERR_CODE 0, .put (.xcArm (some x)), setF XC_STAT.PEND 1]).run
        ((setReg 88 0x200 (d.merge (v.reg 88 0x200) (setFieldOf data 31 31 1))).run v) := by
    intro v hv
    obtain ⟨hModeMerged, hGroupMerged⟩ := fieldOf_xcSwitch hRw hClear (v.reg 88 0x200) data
    have hModeSet : ((setReg 88 0x200 (d.merge (v.reg 88 0x200) (setFieldOf data 31 31 1))).run v).rd XC_SWITCH.MODE = 1 :=
      (rd_setReg_same v XC_SWITCH.MODE _).trans (hModeMerged.trans hMode)
    have hPendSet : ((setReg 88 0x200 (d.merge (v.reg 88 0x200) (setFieldOf data 31 31 1))).run v).rd XC_STAT.PEND = 0 :=
      (rd_setReg_apart v _ (by decide)).trans ((hv.rd (by decide)).trans hPend)
    have hTables : s.tables = ((setReg 88 0x200 (d.merge (v.reg 88 0x200) (setFieldOf data 31 31 1))).run v).tables :=
      State.same_trans (f := .tables) (hv.onlyIn .tables (by decide)) ((Act.regs _ _).same_apply v .tables (by simp))
    rw [regDo_fe (by decide) (by decide) (.inr (hv.enabled (by decide) hEn)), feWrite_xcSwitch hGo,
      xcSwitch_arms hModeSet hPendSet (by rw [State.tabIndices, ← hTables]; exact hNone)]
    exact ⟨_, (rd_setReg_same v XC_SWITCH.GROUP _).trans hGroupMerged, rfl⟩
  simp only [exec, execXcSwitch]
  refine command_hostWrite_framed (l := [.xcArm]) (R := [XC_SWITCH.reg, XC_STAT.reg]) hWf hWrite hPlain hStarts (fun v hv => ?_) (by decide) (by simp)
    (by simp) fun v t hv hSent => ?_
  · obtain ⟨x, -, hDo⟩ := hRun v hv
    rw [hDo]
    exact State.framed_trans (keeps_setReg (by simp [XC_SWITCH.reg]) v) (keeps_xcArms (by simp) (by simp) _)
  · obtain ⟨x, hGroup, hDo⟩ := hRun v hv
    rw [hDo] at hSent
    iterate 3 rw [run_seqs_cons] at hSent
    rw [run_seqs_nil] at hSent
    have hArm : t.xcArm = some x := (State.sends_onlyIn hSent .xcArm (by decide)).symm
    rw [State.sends_rd hSent, State.sends_rd hSent, hArm, Option.map_some, hGroup, rd_setF_apart (f := XC_STAT.ERR_CODE) _ _ (by unfold Fld.apart; decide),
      rd_put _ (by simp)]
    exact ⟨rd_setF_fits _ (by decide), rfl, rd_setF_fits _ (by decide)⟩

/-- Settles O34: an exchange's step writes its fields, which the interrupt and the links that follow leave; the copy writes, entry by entry, what the other page holds; and
a write that starts a switch changes that switch alone. -/
theorem calendarExchange : Obligations.CalendarExchange := by
  unfold Obligations.CalendarExchange
  refine ⟨fun _ _ _ => calendarExchangeStep_asks, fun _ _ _ hWf hStep hAck hArm => calendarExchangeStep_changes hWf hStep hAck hArm,
    fun _ _ hWf hStep hAck hLate hArm => calendarCaTimeout_ends hWf hStep hAck hLate hArm, fun _ => xcCopyDone_copies, ?_, ?_⟩
  · intro m g s hWf hTakes hIdle
    obtain ⟨t, hNext, -, hFramed⟩ := calendarSwitch_begins hWf hTakes hIdle
    exact ⟨t, hNext, hFramed⟩
  · intro m data s hWf hTakes hMode hPend hNone
    obtain ⟨t, hNext, -, hFramed⟩ := xcSwitch_begins hWf hTakes hMode hPend hNone
    exact ⟨t, hNext, hFramed⟩

end Sys2Proof.Machine
end
-- ==== Sys2Proof/Proofs/CageCommands.lean ====
section
/-!
PROOF. Commands of a cage (spec/03_ports_and_framing.md R96, R99, R100, spec/15_start_up.md R532, R533): what its programs leave, and the steps of a module.
-/
namespace Sys2Proof.Machine

/-! ### Programs of a cage (R96 to R100, R532, R533) -/

section Keeps
variable {l : List Piece} {R : List Fld} {T : List Nat} {p : Nat}

theorem keeps_cagePins {resetN lpmode : Bool} (h : .emitted ∈ l) : (cagePins p resetN lpmode).Keeps l R T := keeps_andThen (keeps_emit h) (keeps_emit h)

theorem keeps_cageStep {step : Nat} (h : .cageX ∈ l) : (cageStep p step).Keeps l R T := keeps_look fun _ => keeps_put h (by simp) (by simp)

theorem keeps_cageState {st : Nat} (hl : irqPieces ⊆ l) (h : PORT_CAGE_STAT.STATE p ∈ R) (hR : irqFlds (16 + p) 24 ⊆ R) : (cageState p st).Keeps l R T :=
  keeps_andThen (keeps_setF h) (keeps_onlyIf fun _ => keeps_raise hl hR)

/-- A STATE that is neither a refusal nor an error is shown alone. -/
theorem keeps_cageState_silent {st : Nat} (hSt : st ≠ 3 ∧ st ≠ 4 ∧ st ≠ 5) (h : PORT_CAGE_STAT.STATE p ∈ R) : (cageState p st).Keeps l R T :=
  keeps_andThen (keeps_setF h) (keeps_onlyIf fun hc => by simp [hSt] at hc)

theorem keeps_cagePower (hl : irqPieces ⊆ l) (hx : .cageX ∈ l) (h : PORT_CAGE_STAT.STATE p ∈ R) (hR : irqFlds (16 + p) 24 ⊆ R) : (cagePower p).Keeps l R T :=
  keeps_look fun _ => keeps_ite (fun _ => keeps_andThen (keeps_cageState hl h hR) (keeps_cageStep hx)) fun _ =>
    keeps_seqs_cons (keeps_cageState hl h hR) (keeps_seqs_cons (keeps_emit (irqPieces_mem hl).1) (keeps_seqs_cons (keeps_cageStep hx) keeps_seqs_nil))

/-- What the check of a module's media type writes beside the link of its port. -/
theorem keeps_mediaCheck (hl : linkPieces ⊆ l) (hStat : [PORT_STAT.CFG_ERR p, PORT_STAT.AN_DONE p, PORT_STAT.LT_DONE p] ⊆ R) (hR : irqFlds (16 + p) 27 ⊆ R)
    (hLink : linkFlds p ⊆ R) : (mediaCheck p).Keeps l R T := by
  have hFlds : PORT_STAT.CFG_ERR p ∈ R ∧ PORT_STAT.AN_DONE p ∈ R ∧ PORT_STAT.LT_DONE p ∈ R := by simpa using hStat
  obtain ⟨hErr, hAn, hLt⟩ := hFlds
  exact keeps_look fun _ => keeps_onlyIf fun _ => keeps_seqs_cons (keeps_setF hErr) (keeps_seqs_cons (keeps_raise (linkPieces_irq hl) hR)
    (keeps_seqs_cons (keeps_setF hAn) (keeps_seqs_cons (keeps_setF hLt) (keeps_seqs_cons (keeps_linkRefresh hl hLink) keeps_seqs_nil))))

theorem keeps_cageCtrlWritten {oldPwr oldManual : Nat} (hl : linkPieces ⊆ l) (hx : .cageX ∈ l) (h : PORT_CAGE_STAT.STATE p ∈ R)
    (hR : irqFlds (16 + p) 24 ⊆ R) (hLink : linkFlds p ⊆ R) : (cageCtrlWritten p oldPwr oldManual).Keeps l R T := by
  obtain ⟨-, -, -, -, -, -, hEmit⟩ := linkPieces_mem hl
  have hState : ∀ st, (cageState p st).Keeps l R T := fun _ => keeps_cageState (linkPieces_irq hl) h hR
  exact keeps_look fun _ => keeps_ite
    (fun _ => keeps_seqs_cons (keeps_onlyIf fun _ => hState _) (keeps_seqs_cons (keeps_cageStep hx) (keeps_seqs_cons (keeps_cagePins hEmit)
      (keeps_seqs_cons (keeps_bringUp hEmit) (keeps_seqs_cons (keeps_linkRefresh hl hLink) keeps_seqs_nil)))))
    fun _ => keeps_ite
      (fun _ => keeps_seqs_cons (keeps_onlyIf fun _ => keeps_seqs_cons (hState _) (keeps_seqs_cons (keeps_cageStep hx)
        (keeps_seqs_cons (keeps_cagePins hEmit) keeps_seqs_nil))) (keeps_seqs_cons (keeps_linkRefresh hl hLink) keeps_seqs_nil))
      fun _ => keeps_onlyIf fun _ => keeps_cagePower (linkPieces_irq hl) hx h hR

theorem keeps_moduleAccess (h : .emitted ∈ l) (hR : PORT_MOD_CMD.reg p ∈ R) : (moduleAccess p).Keeps l R T :=
  keeps_look fun _ => keeps_onlyIf fun _ => keeps_ite (fun _ => keeps_setF_in hR) fun _ =>
    keeps_seqs_cons (keeps_setF_in hR) (keeps_seqs_cons (keeps_setF_in hR) (keeps_seqs_cons (keeps_emit h) keeps_seqs_nil))

end Keeps

/-! ### What they leave and show -/

theorem State.same_cageXAt {s t : State} (h : s.same t .cageX) (p : Nat) : t.cageXAt p = s.cageXAt p := by
  have hSame : s.cageX = t.cageX := h
  rw [State.cageXAt, ← hSame]
  rfl

theorem rd_cagePins (s : State) (p : Nat) (resetN lpmode : Bool) (f : Fld) : ((cagePins p resetN lpmode).run s).rd f = s.rd f := rfl

theorem rd_cageStep (s : State) (p step : Nat) (f : Fld) : ((cageStep p step).run s).rd f = s.rd f := rd_put s (by simp) f

theorem reg_cageStep (s : State) (p step page off : Nat) : ((cageStep p step).run s).reg page off = s.reg page off := reg_put s (by simp) page off

theorem cageXAt_cagePins (s : State) (p q : Nat) (resetN lpmode : Bool) : ((cagePins p resetN lpmode).run s).cageXAt q = s.cageXAt q := rfl

theorem cageXAt_cageStep (s : State) (p step : Nat) :
    ((cageStep p step).run s).cageXAt p = { s.cageXAt p with step := step, stepAt := s.mono, nacks := 0 } := by
  unfold cageStep
  rw [run_look, run_put, Act.cageX_apply, if_pos rfl]

theorem cageState_run (s : State) (p st : Nat) :
    (cageState p st).run s = (onlyIf (st == 3 || st == 4 || st == 5) (raise (16 + p) 24)).run ((setF (PORT_CAGE_STAT.STATE p) st).run s) := rfl

/-- Where a program leaves a state's aspect, it does so under a condition. -/
theorem run_onlyIf_leaves {β : Type} (P : State → β) {b : Bool} {p : Prog} {s : State} (h : P (p.run s) = P s) : P ((onlyIf b p).run s) = P s := by
  cases b
  · rfl
  · exact h

theorem rd_cageState (s : State) {p st : Nat} (hp : p < 64) (hSt : st < 8) : ((cageState p st).run s).rd (PORT_CAGE_STAT.STATE p) = st := by
  have hLeft : ∀ u : State, ((onlyIf (st == 3 || st == 4 || st == 5) (raise (16 + p) 24)).run u).rd (PORT_CAGE_STAT.STATE p) =
      u.rd (PORT_CAGE_STAT.STATE p) := fun u =>
    run_onlyIf_leaves (fun u => u.rd (PORT_CAGE_STAT.STATE p)) (rd_raise u (by simp only [PORT_CAGE_STAT.STATE]; omega))
  rw [cageState_run, hLeft]
  exact rd_setF_fits _ (by simp only [PORT_CAGE_STAT.STATE]; omega)

/-- A refusal or an error sets the cage's interrupt bit. -/
theorem getLsbD_cageState (s : State) {p st : Nat} (hp : p < 64) (hSt : st = 3 ∨ st = 4 ∨ st = 5) :
    (((cageState p st).run s).reg (16 + p) 0x10).getLsbD 24 = true := by
  have hShown : (st == 3 || st == 4 || st == 5) = true := by simp; omega
  rw [cageState_run, run_onlyIf_true _ _ hShown]
  exact getLsbD_raise _ (by decide) (by omega) (by omega)

/-! ### Commands of a module -/

theorem moduleStepTimeout_fails {port : Nat} {s : State} (hWf : Instr.wellFormed (.moduleStepTimeout port) = true) (hStep : (s.cageXAt port).step = 3)
    (hLate : s.since (s.cageXAt port).stepAt 3000000000 = true) :
    ∃ t, exec (.moduleStepTimeout port) s = .next t ∧ t.rd (PORT_CAGE_STAT.STATE port) = 5 ∧ (t.cageXAt port).step = 0 ∧
      s.framed t [[.cageX], irqPieces].flatten [[PORT_CAGE_STAT.STATE port], irqFlds (16 + port) 24].flatten [] := by
  have hPort : port < 48 := by simpa only [Instr.wellFormed, decide_eq_true_eq] using hWf
  have hStepBegun : (s.begun.cageXAt port).step = 3 := hStep
  have hLateBegun : s.begun.since (s.begun.cageXAt port).stepAt 3000000000 = true := hLate
  have hIrq : irqPieces ⊆ [[.cageX], irqPieces].flatten := by simp
  have hEmit : .emitted ∈ [[.cageX], irqPieces].flatten := (irqPieces_mem hIrq).1
  simp only [exec, execModuleStepTimeout]
  refine command_answers hWf ?_
  rw [run_look_onlyIf (by simp [hStepBegun, hLateBegun])]
  refine ⟨?_, ?_, State.framed_trans (begun_framed hEmit s) (keeps_seqs_cons (keeps_cageState hIrq (by simp) fun _ h => by simp [h])
    (keeps_seqs_cons (keeps_cageStep (by simp)) (keeps_seqs_cons (keeps_cagePins hEmit) keeps_seqs_nil)) _)⟩
  all_goals
    unfold cageError
    iterate 3 rw [run_seqs_cons]
    rw [run_seqs_nil]
  · rw [rd_cagePins, rd_cageStep]
    exact rd_cageState _ (by omega) (by decide)
  · rw [cageXAt_cagePins, cageXAt_cageStep]

theorem moduleAccessDone_reads {port data : Nat} {ack : Bool} {s : State} (hWf : Instr.wellFormed (.moduleAccessDone port ack data) = true)
    (hBusy : s.rd (PORT_MOD_CMD.BUSY port) = 1) (hRead : s.rd (PORT_MOD_CMD.WRITE port) = 0) (hAck : ack = true) :
    ∃ t, exec (.moduleAccessDone port ack data) s = .next t ∧ t.rd (PORT_MOD_CMD.BUSY port) = 0 ∧ t.rd (PORT_MOD_CMD.ERR port) = 0 ∧
      t.rd (PORT_MOD_CMD.DATA port) = data ∧ s.framed t [.emitted] [PORT_MOD_CMD.BUSY port, PORT_MOD_CMD.ERR port, PORT_MOD_CMD.DATA port] [] := by
  have hBounds : port < 48 ∧ data < 256 := by simpa only [Instr.wellFormed, Bool.and_eq_true, decide_eq_true_eq] using hWf
  subst hAck
  simp only [exec, execModuleAccessDone]
  refine command_answers hWf ?_
  rw [run_look_onlyIf (by simp [hBusy])]
  refine ⟨?_, ?_, ?_, State.framed_trans (begun_framed (by simp) s) (keeps_seqs_cons (keeps_setF (by simp)) (keeps_seqs_cons (keeps_setF (by simp))
    (keeps_seqs_cons (keeps_onlyIf fun _ => keeps_setF (by simp)) keeps_seqs_nil)) _)⟩
  all_goals
    iterate 3 rw [run_seqs_cons]
    rw [run_seqs_nil, run_onlyIf_true _ _ (by simp [hRead])]
  · rw [rd_setF_apart _ _ (by simp only [Fld.apart, PORT_MOD_CMD.BUSY, PORT_MOD_CMD.DATA]; omega),
      rd_setF_apart _ _ (by simp only [Fld.apart, PORT_MOD_CMD.BUSY, PORT_MOD_CMD.ERR]; omega)]
    exact rd_setF_fits _ (by simp only [PORT_MOD_CMD.BUSY]; omega)
  · rw [rd_setF_apart _ _ (by simp only [Fld.apart, PORT_MOD_CMD.ERR, PORT_MOD_CMD.DATA]; omega)]
    exact rd_setF_fits _ ⟨by simp only [PORT_MOD_CMD.ERR]; omega, b2n_lt_two (!true)⟩
  · exact rd_setF_fits _ (by simp only [PORT_MOD_CMD.DATA]; omega)

theorem moduleInterrupt_follows {port : Nat} {asserted : Bool} {s : State} (hWf : Instr.wellFormed (.moduleInterrupt port asserted) = true)
    (hPresent : s.rd (PORT_CAGE_STAT.PRESENT port) = 1) (hInt : s.rd (PORT_CAGE_STAT.INT port) ≠ b2n asserted) :
    ∃ t, exec (.moduleInterrupt port asserted) s = .next t ∧ t.rd (PORT_CAGE_STAT.INT port) = b2n asserted ∧
      s.framed t irqPieces [[PORT_CAGE_STAT.INT port], irqFlds (16 + port) 23].flatten [] := by
  have hPort : port < 48 := by simpa only [Instr.wellFormed, decide_eq_true_eq] using hWf
  simp only [exec, execModuleInterrupt]
  refine command_answers hWf ?_
  rw [run_look_onlyIf (by simp [hPresent, hInt])]
  refine ⟨?_, State.framed_trans (begun_framed (by decide) s) (keeps_andThen (keeps_setF (by simp)) (keeps_raise (List.Subset.refl _) fun _ h => by simp [h]) _)⟩
  rw [run_andThen, rd_raise _ (by simp only [PORT_CAGE_STAT.INT]; omega)]
  exact rd_setF_fits _ ⟨by simp only [PORT_CAGE_STAT.INT]; omega, b2n_lt_two _⟩

theorem moduleInsert_framed {port : Nat} {s : State} (hWf : Instr.wellFormed (.moduleInsert port) = true) (hPresent : s.rd (PORT_CAGE_STAT.PRESENT port) = 0)
    (hManual : s.rd (PORT_CAGE_CTRL.MANUAL port) = 0) :
    ∃ t, exec (.moduleInsert port) s = .next t ∧
      s.framed t [[.cageX], irqPieces].flatten [[PORT_CAGE_STAT.PRESENT port, PORT_CAGE_STAT.STATE port], irqFlds (16 + port) 22].flatten [] := by
  have hIrq : irqPieces ⊆ [[.cageX], irqPieces].flatten := by simp
  have hEmit : .emitted ∈ [[.cageX], irqPieces].flatten := (irqPieces_mem hIrq).1
  have hManualBegun : ¬ (s.begun.rd (PORT_CAGE_CTRL.MANUAL port) == 1) = true := by simp [hManual]
  simp only [exec, execModuleInsert]
  refine command_answers hWf ?_
  rw [run_look_onlyIf (by simp [hPresent]), if_neg hManualBegun, if_neg hManualBegun]
  refine State.framed_trans (begun_framed hEmit s) (keeps_seqs (fun q hq => ?_) _)
  simp only [List.mem_cons, List.not_mem_nil, or_false] at hq
  rcases hq with rfl | rfl | rfl | rfl | rfl
  · exact keeps_setF (by simp)
  · exact keeps_cageState_silent (by decide) (by simp)
  · exact keeps_cagePins hEmit
  · exact keeps_cageStep (by simp)
  · exact keeps_onlyIf fun _ => keeps_raise hIrq fun _ h => by simp [h]

theorem moduleResetRelease_framed {port : Nat} {s : State} (hWf : Instr.wellFormed (.moduleResetRelease port) = true) :
    ∃ t, exec (.moduleResetRelease port) s = .next t ∧ s.framed t [.emitted, .cageX] [] [] := by
  simp only [exec, execModuleResetRelease]
  refine command_answers hWf (State.framed_trans (begun_framed (by simp) s) (keeps_look (fun _ => keeps_onlyIf fun _ => ?_) _))
  exact keeps_andThen (keeps_cagePins (by simp)) (keeps_cageStep (by simp))

theorem moduleReady_framed {port k : Nat} {ack : Bool} {s : State} (hWf : Instr.wellFormed (.moduleReady port ack) = true)
    (hStep : (s.cageXAt port).step = 5) (hAck : ack = true)
    (hApp : indexWhere (fun a => a == 16 * s.cfg (PORT_MODE.MODE port) + modeLanes (s.cfg (PORT_MODE.MODE port))) (s.cageXAt port).apps 0 = some k) :
    ∃ t, exec (.moduleReady port ack) s = .next t ∧ s.framed t [.emitted, .cageX] [PORT_CAGE_STAT.APPSEL port] [] := by
  have hStepBegun : (s.begun.cageXAt port).step = 5 := hStep
  have hAppBegun : indexWhere (fun a => a == 16 * s.begun.cfg (PORT_MODE.MODE port) + modeLanes (s.begun.cfg (PORT_MODE.MODE port)))
    (s.begun.cageXAt port).apps 0 = some k := hApp
  subst hAck
  simp only [exec, execModuleReady]
  refine command_answers hWf ?_
  rw [run_look_onlyIf (by simp [hStepBegun]), if_neg (by decide), hAppBegun]
  exact State.framed_trans (begun_framed (by simp) s) (keeps_seqs_cons (keeps_setF (by simp)) (keeps_seqs_cons (keeps_each fun _ _ => keeps_emit (by simp))
    (keeps_seqs_cons (keeps_emit (by simp)) (keeps_seqs_cons (keeps_cageStep (by simp)) keeps_seqs_nil))) _)

theorem moduleDatapathActivated_framed {port : Nat} {s : State} (hWf : Instr.wellFormed (.moduleDatapathActivated port) = true) :
    ∃ t, exec (.moduleDatapathActivated port) s = .next t ∧
      s.framed t [[.cageX], linkPieces].flatten [[PORT_CAGE_STAT.STATE port], linkFlds port].flatten [] := by
  have hLink : linkPieces ⊆ [[.cageX], linkPieces].flatten := by simp
  obtain ⟨-, -, -, -, -, -, hEmit⟩ := linkPieces_mem hLink
  simp only [exec, execModuleDatapathActivated]
  refine command_answers hWf (State.framed_trans (begun_framed hEmit s) (keeps_look (fun _ => keeps_onlyIf fun _ => ?_) _))
  exact keeps_seqs_cons (keeps_cageState_silent (by decide) (by simp)) (keeps_seqs_cons (keeps_cageStep (by simp))
    (keeps_seqs_cons (keeps_bringUp hEmit) (keeps_seqs_cons (keeps_linkRefresh hLink fun _ h => by simp [h]) keeps_seqs_nil)))

end Sys2Proof.Machine
end
-- ==== Sys2Proof/Proofs/ModuleRemovalAndPoll.lean ====
section
/-!
PROOF. The removal of a module and the poll that finds its power class (spec/03_ports_and_framing.md R97, spec/15_start_up.md R532, R535).
-/
namespace Sys2Proof.Machine

/-! ### MODULE_REMOVE (R535) -/

theorem cageXAt_linkRefresh (s : State) (p q : Nat) : ((linkRefresh p).run s).cageXAt q = s.cageXAt q :=
  State.same_cageXAt (Prog.Keeps.same (keeps_linkRefresh (T := []) (List.Subset.refl linkPieces) (List.Subset.refl (linkFlds p))) s .cageX (by decide)) q

theorem cageXAt_setF (s : State) (f : Fld) (v q : Nat) : ((setF f v).run s).cageXAt q = s.cageXAt q :=
  State.same_cageXAt (Prog.Keeps.same (keeps_setF (l := []) (T := []) (List.mem_singleton_self f)) s .cageX (by decide)) q

theorem cageXAt_raise (s : State) (page bit q : Nat) : ((raise page bit).run s).cageXAt q = s.cageXAt q :=
  State.same_cageXAt (Prog.Keeps.same (keeps_raise (T := []) (List.Subset.refl irqPieces) (List.Subset.refl (irqFlds page bit))) s .cageX (by decide)) q

/-- A register whose whole field reads 0 is 0. -/
theorem reg_eq_zero {s : State} {page off : Nat} (h : s.rd ⟨page, off, 31, 0⟩ = 0) : s.reg page off = 0 := by
  refine BitVec.eq_of_toNat_eq ?_
  have hMod : (s.reg page off).toNat % 2 ^ 32 = 0 := h
  rwa [Nat.mod_eq_of_lt (s.reg page off).isLt] at hMod

/-- What the removal of a module ends: an access in progress, the link bring-up, the link. -/
def cageEmptied (p : Nat) (busy up : Bool) : Prog := seqs [
  onlyIf busy (.andThen (setF (PORT_MOD_CMD.BUSY p) 0) (setF (PORT_MOD_CMD.ERR p) 1)),
  onlyIf up (raise (16 + p) 22),
  setF (PORT_STAT.AN_DONE p) 0,
  setF (PORT_STAT.LT_DONE p) 0,
  linkRefresh p]

def emptiedFlds (p : Nat) : List Fld :=
  [PORT_MOD_CMD.BUSY p, PORT_MOD_CMD.ERR p, PORT_STAT.AN_DONE p, PORT_STAT.LT_DONE p] ++ irqFlds (16 + p) 22 ++ linkFlds p

theorem keeps_cageEmptied (p : Nat) (busy up : Bool) : (cageEmptied p busy up).Keeps linkPieces (emptiedFlds p) [] :=
  keeps_seqs_cons (keeps_onlyIf fun _ => keeps_andThen (keeps_setF (by simp [emptiedFlds])) (keeps_setF (by simp [emptiedFlds])))
    (keeps_seqs_cons (keeps_onlyIf fun _ => keeps_raise (linkPieces_irq (List.Subset.refl _)) fun _ h => by simp [emptiedFlds, h])
      (keeps_seqs_cons (keeps_setF (by simp [emptiedFlds])) (keeps_seqs_cons (keeps_setF (by simp [emptiedFlds]))
        (keeps_seqs_cons (keeps_linkRefresh (List.Subset.refl _) fun _ h => by simp [emptiedFlds, h]) keeps_seqs_nil))))

/-- PORT_CAGE_STAT has none of these fields. -/
theorem emptiedFlds_apart {p : Nat} (hp : p < 48) : ∀ g ∈ emptiedFlds p, g.off < 65536 ∧ g.apart (PORT_CAGE_STAT.reg p) := by
  intro g hg
  rcases List.mem_append.mp hg with hg | hg
  · rcases List.mem_append.mp hg with hg | hg
    · simp only [List.mem_cons, List.not_mem_nil, or_false] at hg
      rcases hg with rfl | rfl | rfl | rfl <;>
        simp only [Fld.apart, PORT_MOD_CMD.BUSY, PORT_MOD_CMD.ERR, PORT_STAT.AN_DONE, PORT_STAT.LT_DONE, PORT_CAGE_STAT.reg] <;> omega
    · exact irqFlds_apart (by omega) (by simp only [PORT_CAGE_STAT.reg]; omega) (.inr (by simp only [PORT_CAGE_STAT.reg]; omega)) g hg
  · exact linkFlds_apart (by omega) (by simp only [Fld.offLink, PORT_CAGE_STAT.reg]; omega) g hg

theorem moduleRemove_forgets {port : Nat} {s : State} (hWf : Instr.wellFormed (.moduleRemove port) = true) (hPresent : s.rd (PORT_CAGE_STAT.PRESENT port) = 1) :
    ∃ t, exec (.moduleRemove port) s = .next t ∧ t.reg (16 + port) 0x234 = 0 ∧ t.cageXAt port = {} ∧
      s.framed t [[.cageX], linkPieces].flatten [[PORT_CAGE_STAT.reg port, PORT_MOD_CMD.BUSY port, PORT_MOD_CMD.ERR port, PORT_STAT.AN_DONE port,
        PORT_STAT.LT_DONE port] ++ irqFlds (16 + port) 22, linkFlds port].flatten [] := by
  have hPort : port < 48 := by simpa only [Instr.wellFormed, decide_eq_true_eq] using hWf
  have hEmit : .emitted ∈ [[.cageX], linkPieces].flatten := by decide
  simp only [exec, execModuleRemove]
  refine command_answers hWf ?_
  rw [run_look_onlyIf (by simp [hPresent])]
  iterate 3 rw [run_seqs_cons]
  have hTail := keeps_cageEmptied port (s.begun.rd (PORT_MOD_CMD.BUSY port) == 1) (s.begun.blkUpAt (16 + port))
  have hCleared : ∀ u : State, ((cagePins port false true).run ((Prog.put (.cageX port {})).run u)).rd (PORT_CAGE_STAT.reg port) = u.rd (PORT_CAGE_STAT.reg port) :=
    fun u => (rd_cagePins _ _ _ _ _).trans (rd_put u (by simp) _)
  have hZero : ((setReg (16 + port) 0x234 0).run s.begun).rd (PORT_CAGE_STAT.reg port) = 0 :=
    (rd_setReg_same s.begun (PORT_CAGE_STAT.reg port) 0).trans (show fieldOf (0 : Word) 31 0 = 0 by decide)
  refine ⟨reg_eq_zero ((hTail.rd _ (PORT_CAGE_STAT.reg port) (by simp only [PORT_CAGE_STAT.reg]; omega) (emptiedFlds_apart hPort)).trans ((hCleared _).trans hZero)),
    (State.same_cageXAt (hTail.same _ .cageX (by decide)) port).trans ?_, ?_⟩
  · rw [cageXAt_cagePins, run_put, Act.cageX_apply, if_pos rfl]
  · refine State.framed_trans (begun_framed hEmit s) (State.framed_trans (keeps_setReg (by simp [PORT_CAGE_STAT.reg]) _) (State.framed_trans
      (keeps_put (by simp) (by simp) (by simp) _) (State.framed_trans (keeps_cagePins hEmit _) (State.framed_mono (hTail _) (by simp) ?_ (List.Subset.refl _)))))
    intro f hf
    simp only [emptiedFlds, List.mem_append, List.mem_cons, List.not_mem_nil, or_false] at hf
    simp only [List.flatten_cons, List.flatten_nil, List.mem_append, List.mem_cons, List.not_mem_nil, or_false]
    tauto

/-! ### MODULE_POLL (R97, R532) -/

/-- The fields that the pages of a polled module show, and those of the check of its media type. -/
def polledFlds (p : Nat) : List Fld :=
  [PORT_CAGE_STAT.IDENT p, PORT_CAGE_STAT.CMIS_REV p, PORT_CAGE_STAT.PWR_CLASS p, PORT_STAT.CFG_ERR p, PORT_STAT.AN_DONE p, PORT_STAT.LT_DONE p] ++
    irqFlds (16 + p) 27 ++ linkFlds p

/-- The check of a module's media type leaves the cage's registers. -/
theorem rd_mediaCheck (s : State) {p : Nat} {f : Fld} (hp : p < 48) (hf : f.page = 16 + p ∧ 0x224 ≤ f.off ∧ f.off < 65536) :
    ((mediaCheck p).run s).rd f = s.rd f := by
  refine Prog.Keeps.rd (R := [PORT_STAT.CFG_ERR p, PORT_STAT.AN_DONE p, PORT_STAT.LT_DONE p] ++ irqFlds (16 + p) 27 ++ linkFlds p)
    (keeps_mediaCheck (T := []) (List.Subset.refl _) (by simp) (fun _ h => by simp [h]) fun _ h => by simp [h]) s f hf.2.2 fun g hg => ?_
  rcases List.mem_append.mp hg with hg | hg
  · rcases List.mem_append.mp hg with hg | hg
    · simp only [List.mem_cons, List.not_mem_nil, or_false] at hg
      rcases hg with rfl | rfl | rfl <;> simp only [Fld.apart, PORT_STAT.CFG_ERR, PORT_STAT.AN_DONE, PORT_STAT.LT_DONE] <;> omega
    · exact irqFlds_apart (by omega) (by omega) (.inr (by omega)) g hg
  · exact linkFlds_apart (by omega) ⟨hf.2.2, by omega, .inr (by omega)⟩ g hg

/-- The pages of a polled CMIS module, read before the check of its power class. -/
def polled (p ident rev pwrClass : Nat) (x y : CageX) : Prog := seqs [
  .put (.cageX p x), setF (PORT_CAGE_STAT.IDENT p) ident, emit (.moduleRead p 0 0 4), .skip,
  setF (PORT_CAGE_STAT.CMIS_REV p) rev, setF (PORT_CAGE_STAT.PWR_CLASS p) pwrClass, emit (.moduleRead p 0 0 128), emit (.moduleRead p 0 128 128),
  emit (.moduleRead p 1 128 128), .put (.cageX p y), mediaCheck p]

theorem keeps_polled (p ident rev pwrClass : Nat) (x y : CageX) : (polled p ident rev pwrClass x y).Keeps [[.cageX], linkPieces].flatten (polledFlds p) [] := by
  have hEmit : .emitted ∈ [[.cageX], linkPieces].flatten := by decide
  refine keeps_seqs fun q hq => ?_
  simp only [List.mem_cons, List.not_mem_nil, or_false] at hq
  rcases hq with rfl | rfl | rfl | rfl | rfl | rfl | rfl | rfl | rfl | rfl | rfl
  · exact keeps_put (by simp) (by simp) (by simp)
  · exact keeps_setF (by simp [polledFlds])
  · exact keeps_emit hEmit
  · exact keeps_skip
  · exact keeps_setF (by simp [polledFlds])
  · exact keeps_setF (by simp [polledFlds])
  · exact keeps_emit hEmit
  · exact keeps_emit hEmit
  · exact keeps_emit hEmit
  · exact keeps_put (by simp) (by simp) (by simp)
  · exact keeps_mediaCheck (by simp) (by simp [polledFlds]) (fun _ h => by simp [polledFlds, h]) fun _ h => by simp [polledFlds, h]

/-- What the check of the power class finds. -/
theorem polled_power {p ident rev pwrClass : Nat} (hp : p < 48) (hClass : pwrClass < 16) (x y : CageX) (s : State) :
    ((polled p ident rev pwrClass x y).run s).rd (PORT_CAGE_STAT.PWR_CLASS p) = pwrClass ∧
      ((polled p ident rev pwrClass x y).run s).rd (PORT_CAGE_CTRL.PWR_MAX p) = s.rd (PORT_CAGE_CTRL.PWR_MAX p) := by
  unfold polled
  iterate 11 rw [run_seqs_cons]
  rw [run_seqs_nil]
  constructor
  · rw [rd_mediaCheck _ hp (by simp [PORT_CAGE_STAT.PWR_CLASS]), rd_put _ (by simp), rd_emit, rd_emit, rd_emit]
    exact rd_setF_fits _ (by simp only [PORT_CAGE_STAT.PWR_CLASS]; omega)
  · rw [rd_mediaCheck _ hp (by simp [PORT_CAGE_CTRL.PWR_MAX]), rd_put _ (by simp), rd_emit, rd_emit, rd_emit,
      rd_setF_apart _ _ (by simp only [Fld.apart, PORT_CAGE_CTRL.PWR_MAX, PORT_CAGE_STAT.PWR_CLASS]; omega),
      rd_setF_apart _ _ (by simp only [Fld.apart, PORT_CAGE_CTRL.PWR_MAX, PORT_CAGE_STAT.CMIS_REV]; omega), run_skip, rd_emit,
      rd_setF_apart _ _ (by simp only [Fld.apart, PORT_CAGE_CTRL.PWR_MAX, PORT_CAGE_STAT.IDENT]; omega), rd_put _ (by simp)]

/-- The answer of a CMIS module in low power leads to the check of its power class. -/
theorem modulePoll_checks {port ident rev pwrClass dpMs : Nat} {ack lowPwr copper : Bool} {apps : List Nat} {s : State} {E : State → Prop}
    (hWf : Instr.wellFormed (.modulePoll port ack lowPwr ident rev pwrClass copper apps dpMs) = true) (hStep : (s.cageXAt port).step = 3) (hAck : ack = true)
    (hLow : lowPwr = true) (hRev : 0x40 ≤ rev ∧ rev ≤ 0x5F)
    (hE : ∀ x y, E ((cagePower port).run ((polled port ident rev pwrClass x y).run s.begun))) :
    ∃ t, exec (.modulePoll port ack lowPwr ident rev pwrClass copper apps dpMs) s = .next t ∧ E t := by
  have hStepBegun : (s.begun.cageXAt port).step = 3 := hStep
  have hCmis : (decide (0x40 ≤ rev) && decide (rev ≤ 0x5F)) = true := by simp [hRev]
  subst hAck hLow
  simp only [exec, execModulePoll]
  refine command_answers hWf ?_
  rw [run_look]
  simp only [hStepBegun, hCmis]
  rw [run_onlyIf_true _ _ (by decide), if_neg (by decide)]
  iterate 5 rw [run_seqs_cons]
  rw [run_seqs_nil, run_onlyIf_false (b := !true) _ _ rfl, run_onlyIf_true (b := true && (true || 3 == 8)) _ _ (by decide)]
  iterate 8 rw [run_seqs_cons]
  rw [run_seqs_nil, if_neg (by decide)]
  have h := hE { s.begun.cageXAt port with step := 3, nacks := 0 } { s.begun.cageXAt port with step := 3, nacks := 0, copper := copper, apps := apps, dpMs := dpMs }
  unfold polled at h
  iterate 11 rw [run_seqs_cons] at h
  rw [run_seqs_nil, run_skip] at h
  exact h

theorem moduleRefused {port ident rev pwrClass dpMs : Nat} {ack lowPwr copper : Bool} {apps : List Nat} {s : State}
    (hWf : Instr.wellFormed (.modulePoll port ack lowPwr ident rev pwrClass copper apps dpMs) = true) (hStep : (s.cageXAt port).step = 3) (hAck : ack = true)
    (hLow : lowPwr = true) (hRev : 0x40 ≤ rev ∧ rev ≤ 0x5F) (hPower : s.rd (PORT_CAGE_CTRL.PWR_MAX port) + 1 < pwrClass) :
    ∃ t, exec (.modulePoll port ack lowPwr ident rev pwrClass copper apps dpMs) s = .next t ∧ t.rd (PORT_CAGE_STAT.STATE port) = 3 ∧
      (t.reg (16 + port) 0x10).getLsbD 24 = true ∧ (t.cageXAt port).step = 0 ∧
      s.framed t [[.cageX], linkPieces].flatten [[PORT_CAGE_STAT.IDENT port, PORT_CAGE_STAT.CMIS_REV port, PORT_CAGE_STAT.PWR_CLASS port,
        PORT_CAGE_STAT.STATE port, PORT_STAT.CFG_ERR port, PORT_STAT.AN_DONE port, PORT_STAT.LT_DONE port], irqFlds (16 + port) 24, irqFlds (16 + port) 27,
        linkFlds port].flatten [] := by
  have hBounds : port < 48 ∧ pwrClass < 9 := by
    simp only [Instr.wellFormed, Bool.and_eq_true, decide_eq_true_eq] at hWf
    exact ⟨hWf.1.1.1, hWf.2.2⟩
  refine modulePoll_checks hWf hStep hAck hLow hRev fun x y => ?_
  obtain ⟨hClass, hMax⟩ := polled_power (ident := ident) (rev := rev) hBounds.1 (show pwrClass < 16 by omega) x y s.begun
  have hRun : ∀ u : State, u.rd (PORT_CAGE_CTRL.PWR_MAX port) + 1 < u.rd (PORT_CAGE_STAT.PWR_CLASS port) →
      (cagePower port).run u = (cageStep port 0).run ((cageState port 3).run u) := by
    intro u hu
    unfold cagePower
    rw [run_look, if_pos hu, run_andThen]
  rw [hRun _ (by rw [hClass, hMax]; exact hPower)]
  refine ⟨?_, ?_, ?_, State.framed_trans (begun_framed (by decide) s) (State.framed_trans (State.framed_mono (keeps_polled _ _ _ _ _ _ _)
    (List.Subset.refl _) (fun f hf => ?_) (List.Subset.refl _)) (State.framed_trans (keeps_cageState (by decide) (by simp) (fun _ h => by simp [h]) _)
      (keeps_cageStep (by simp) _)))⟩
  · rw [rd_cageStep]
    exact rd_cageState _ (by omega) (by decide)
  · rw [reg_cageStep]
    exact getLsbD_cageState _ (by omega) (.inl rfl)
  · rw [cageXAt_cageStep]
  · simp only [polledFlds, List.mem_append, List.mem_cons, List.not_mem_nil, or_false] at hf
    simp only [List.flatten_cons, List.flatten_nil, List.mem_append, List.mem_cons, List.not_mem_nil, or_false]
    tauto

end Sys2Proof.Machine
end
-- ==== Sys2Proof/Proofs/ModuleFaultsAndAccess.lean ====
section
/-!
PROOF. Writes of a cage's registers (spec/03_ports_and_framing.md R97, R100), and every clause on modules put together.
-/
namespace Sys2Proof.Machine

/-- A module whose class is within PWR_MAX is taken out of low power. -/
theorem cagePower_powers {p : Nat} {s : State} (h : s.rd (PORT_CAGE_STAT.PWR_CLASS p) ≤ s.rd (PORT_CAGE_CTRL.PWR_MAX p) + 1) :
    (cagePower p).run s =
      (cageStep p 5).run ((emit (.pin ("MOD_LPMODE" ++ toString p) false)).run ((setF (PORT_CAGE_STAT.STATE p) 7).run s)) := by
  unfold cagePower
  rw [run_look, if_neg (by omega), run_seqs_cons, run_seqs_cons, run_seqs_cons, run_seqs_nil, cageState_run, run_onlyIf_false _ _ (by decide)]

theorem keeps_powers {l : List Piece} {R : List Fld} {p : Nat} (he : .emitted ∈ l) (hx : .cageX ∈ l) (hR : PORT_CAGE_STAT.STATE p ∈ R) (s : State) :
    s.framed ((cageStep p 5).run ((emit (.pin ("MOD_LPMODE" ++ toString p) false)).run ((setF (PORT_CAGE_STAT.STATE p) 7).run s))) l R [] :=
  State.framed_trans (keeps_setF hR s) (State.framed_trans (keeps_emit he _) (keeps_cageStep hx _))

theorem modulePowered_framed {port ident rev pwrClass dpMs : Nat} {ack lowPwr copper : Bool} {apps : List Nat} {s : State}
    (hWf : Instr.wellFormed (.modulePoll port ack lowPwr ident rev pwrClass copper apps dpMs) = true) (hStep : (s.cageXAt port).step = 3) (hAck : ack = true)
    (hLow : lowPwr = true) (hRev : 0x40 ≤ rev ∧ rev ≤ 0x5F) (hPower : pwrClass ≤ s.rd (PORT_CAGE_CTRL.PWR_MAX port) + 1) :
    ∃ t, exec (.modulePoll port ack lowPwr ident rev pwrClass copper apps dpMs) s = .next t ∧
      s.framed t [[.cageX], linkPieces].flatten [[PORT_CAGE_STAT.IDENT port, PORT_CAGE_STAT.CMIS_REV port, PORT_CAGE_STAT.PWR_CLASS port,
        PORT_CAGE_STAT.STATE port, PORT_STAT.CFG_ERR port, PORT_STAT.AN_DONE port, PORT_STAT.LT_DONE port], irqFlds (16 + port) 27,
        linkFlds port].flatten [] := by
  have hBounds : port < 48 ∧ pwrClass < 9 := by
    simp only [Instr.wellFormed, Bool.and_eq_true, decide_eq_true_eq] at hWf
    exact ⟨hWf.1.1.1, hWf.2.2⟩
  refine modulePoll_checks hWf hStep hAck hLow hRev fun x y => ?_
  obtain ⟨hClass, hMax⟩ := polled_power (ident := ident) (rev := rev) hBounds.1 (show pwrClass < 16 by omega) x y s.begun
  rw [cagePower_powers (by rw [hClass, hMax]; exact hPower)]
  refine State.framed_trans (begun_framed (by decide) s) (State.framed_trans (State.framed_mono (keeps_polled _ _ _ _ _ _ _) (List.Subset.refl _)
    (fun f hf => ?_) (List.Subset.refl _)) (keeps_powers (by decide) (by simp) (by simp) _))
  simp only [polledFlds, List.mem_append, List.mem_cons, List.not_mem_nil, or_false] at hf
  simp only [List.flatten_cons, List.flatten_nil, List.mem_append, List.mem_cons, List.not_mem_nil, or_false]
  tauto

/-! ### Writes of a cage's registers (R97, R100) -/

theorem plainReg_cageCtrl : ∀ p, p < 48 → plainReg (16 + p) 0x230 0xFF = true := by decide +kernel

theorem plainReg_modCmd : ∀ p, p < 48 → plainReg (16 + p) 0x23C 0x1FF00 = true := by decide +kernel

theorem feWrite_cageCtrl {p : Nat} (hp : p < 48) (v data : Word) (s : State) : (feWrite (16 + p) 0x230 v data).run s =
    (cageCtrlWritten p (s.rd (PORT_CAGE_CTRL.PWR_MAX p)) (s.rd (PORT_CAGE_CTRL.MANUAL p))).run ((setReg (16 + p) 0x230 v).run s) := by
  unfold feWrite
  rw [run_look]
  simp only [Nat.add_sub_cancel_left]
  rw [if_pos (by simp; omega), run_andThen]

theorem feWrite_modCmd {p : Nat} (hp : p < 48) {data : Word} (hGo : bitOf data.toNat 0 = true) {v : Word} {s : State}
    (hBusy : s.rd (PORT_MOD_CMD.BUSY p) = 0) : (feWrite (16 + p) 0x23C v data).run s = (moduleAccess p).run ((setReg (16 + p) 0x23C v).run s) := by
  unfold feWrite
  rw [run_look]
  simp only [Nat.add_sub_cancel_left]
  rw [if_neg (by simp), if_pos (by simp; omega), run_onlyIf_true _ _ (by simp [hBusy]), run_andThen, run_onlyIf_true _ _ hGo]

theorem cagePwrMaxRaise_powers {m port c : Nat} {data : Word} {s : State} (hWf : Instr.wellFormed (.cagePwrMaxRaise m port data) = true)
    (hTakes : s.takesWrite m (16 + port) = true) (hMax : c = fieldOf data (PORT_CAGE_CTRL.PWR_MAX port).hi (PORT_CAGE_CTRL.PWR_MAX port).lo)
    (hManual : fieldOf data (PORT_CAGE_CTRL.MANUAL port).hi (PORT_CAGE_CTRL.MANUAL port).lo = 0) (hWas : s.rd (PORT_CAGE_CTRL.MANUAL port) = 0)
    (hRefused : s.rd (PORT_CAGE_STAT.STATE port) = 3) (hRaise : s.rd (PORT_CAGE_CTRL.PWR_MAX port) < c)
    (hClass : s.rd (PORT_CAGE_STAT.PWR_CLASS port) ≤ c + 1) :
    ∃ t, exec (.cagePwrMaxRaise m port data) s = .next t ∧
      (t.rd (PORT_CAGE_CTRL.PWR_MAX port) = c ∧ t.rd (PORT_CAGE_STAT.STATE port) = 7 ∧ (t.cageXAt port).step = 5) ∧
      s.framed t [[.cageX], linkPieces, hostPieces].flatten [[PORT_CAGE_CTRL.reg port, PORT_CAGE_STAT.reg port], linkFlds port, irqFlds (16 + port) 24,
        recFlds].flatten [] := by
  have hPort : port < 48 := by
    simp only [Instr.wellFormed, Bool.and_eq_true, decide_eq_true_eq] at hWf
    exact hWf.2
  obtain ⟨d, hPlain, hRw, hClear⟩ := plainReg_decl (plainReg_cageCtrl port hPort)
  have hStarts : ∀ u, s.recorded u → u.writeRefused m (16 + port) 0x230 data.toNat = false := by
    intro u _
    have hPage : 16 + port ≠ 102 ∧ 16 + port ≠ 144 := by omega
    simp [State.writeRefused, startsWork, isQuota, hPage]
  have hRun : ∀ v, s.recorded v → (regDo m (16 + port) 0x230 d data).run v = (cageStep port 5).run ((emit (.pin ("MOD_LPMODE" ++ toString port) false)).run
      ((setF (PORT_CAGE_STAT.STATE port) 7).run ((setReg (16 + port) 0x230 (d.merge (v.reg (16 + port) 0x230) data)).run v))) ∧
      ((setReg (16 + port) 0x230 (d.merge (v.reg (16 + port) 0x230) data)).run v).rd (PORT_CAGE_CTRL.PWR_MAX port) = c := by
    intro v hv
    let u := (setReg (16 + port) 0x230 (d.merge (v.reg (16 + port) 0x230) data)).run v
    have hMaxSet : u.rd (PORT_CAGE_CTRL.PWR_MAX port) = c := (rd_setReg_same v (PORT_CAGE_CTRL.PWR_MAX port) _).trans
      ((fieldOf_merge (fun b hb hb' => by rw [hRw]; simp only [PORT_CAGE_CTRL.PWR_MAX] at hb hb'; interval_cases b <;> rfl) hClear).trans hMax.symm)
    have hManualSet : u.rd (PORT_CAGE_CTRL.MANUAL port) = 0 := (rd_setReg_same v (PORT_CAGE_CTRL.MANUAL port) _).trans
      ((fieldOf_merge (fun b hb hb' => by rw [hRw]; simp only [PORT_CAGE_CTRL.MANUAL] at hb hb'; interval_cases b; rfl) hClear).trans hManual)
    have hStat : ∀ f : Fld, f.page = 16 + port → f.off = 0x234 → u.rd f = s.rd f := fun f hPage hOff =>
      (rd_setReg_apart v _ (by omega)).trans (hv.rd (by omega))
    have hCtrl : ∀ f : Fld, f.page = 16 + port → f.off = 0x230 → v.rd f = s.rd f := fun f hPage hOff => hv.rd (by omega)
    refine ⟨?_, hMaxSet⟩
    rw [regDo_fe (by omega) (by decide) (.inl (by simp [startsWork])), feWrite_cageCtrl hPort, hCtrl _ rfl rfl, hCtrl _ rfl rfl, hWas]
    unfold cageCtrlWritten
    rw [run_look]
    simp only
    rw [if_neg (by simpa using ne_of_eq_of_ne hManualSet (by decide)), if_neg (by decide), run_onlyIf_true _ _ (by
      simp only [Bool.and_eq_true, decide_eq_true_eq, beq_iff_eq]
      exact ⟨hMaxSet.symm ▸ hRaise, (hStat _ rfl rfl).trans hRefused⟩)]
    exact cagePower_powers (by rw [hMaxSet, hStat _ rfl rfl]; exact hClass)
  simp only [exec, execCagePwrMaxRaise]
  refine command_hostWrite_framed (l := [.cageX, .emitted]) (R := [PORT_CAGE_CTRL.reg port, PORT_CAGE_STAT.reg port]) hWf hTakes hPlain hStarts
    (fun v hv => ?_) (by decide) ⟨by decide, by decide⟩ ⟨by simp, fun _ h => by simp [h]⟩ fun v t hv hSent => ?_
  · rw [(hRun v hv).1]
    refine State.framed_trans (keeps_setReg (by simp [PORT_CAGE_CTRL.reg]) v) (State.framed_trans (keeps_setF_in (by simp [PORT_CAGE_STAT.STATE, PORT_CAGE_STAT.reg]) _)
      (State.framed_trans (keeps_emit (by simp) _) (keeps_cageStep (by simp) _)))
  · obtain ⟨hDo, hMaxSet⟩ := hRun v hv
    rw [hDo] at hSent
    rw [State.sends_rd hSent, State.sends_rd hSent, State.same_cageXAt (State.sends_onlyIn hSent .cageX (by decide)), cageXAt_cageStep, rd_cageStep, rd_cageStep,
      rd_emit, rd_emit, rd_setF_apart (f := PORT_CAGE_CTRL.PWR_MAX port) _ _ (by simp only [Fld.apart, PORT_CAGE_CTRL.PWR_MAX, PORT_CAGE_STAT.STATE]; omega)]
    exact ⟨hMaxSet, rd_setF_fits _ (by simp only [PORT_CAGE_STAT.STATE]; omega), rfl⟩

/-- Bits that are not writable stay as they were. -/
theorem fieldOf_merge_kept {d : RegDecl} {old data : Word} {hi lo : Nat} (hRw : ∀ b, lo ≤ b → b ≤ hi → (BitVec.ofNat 32 d.rw).getLsbD b = false)
    (hClear : d.w1c = 0) : fieldOf (d.merge old data) hi lo = fieldOf old hi lo :=
  fieldOf_congr fun b hb hb' => by
    simp only [RegDecl.merge, hClear, BitVec.getLsbD_and, BitVec.getLsbD_or, BitVec.getLsbD_not, hRw b hb hb']
    by_cases h : b < 32
    · simp [h]
    · simp [h, BitVec.getLsbD_of_ge old b (by omega)]

/-- A read of a present module that is not busy begins. -/
theorem moduleAccess_begins {p : Nat} {s : State} (hBusy : s.rd (PORT_MOD_CMD.BUSY p) = 0) (hRead : s.rd (PORT_MOD_CMD.WRITE p) = 0)
    (hPresent : s.rd (PORT_CAGE_STAT.PRESENT p) = 1) : ∃ e, (moduleAccess p).run s =
      (emit e).run ((setF (PORT_MOD_CMD.ERR p) 0).run ((setF (PORT_MOD_CMD.BUSY p) 1).run s)) := by
  unfold moduleAccess
  rw [run_look_onlyIf (by simp [hBusy]), if_neg (by simp [hRead, hPresent]), run_seqs_cons, run_seqs_cons, run_seqs_cons, run_seqs_nil]
  exact ⟨_, rfl⟩

theorem moduleAccess_reads {m port : Nat} {data : Word} {s : State} (hWf : Instr.wellFormed (.moduleAccess m port data) = true)
    (hTakes : s.takesCmd m (16 + port) = true) (hBusy : s.rd (PORT_MOD_CMD.BUSY port) = 0) (hPresent : s.rd (PORT_CAGE_STAT.PRESENT port) = 1)
    (hRead : fieldOf data (PORT_MOD_CMD.WRITE port).hi (PORT_MOD_CMD.WRITE port).lo = 0) :
    ∃ t, exec (.moduleAccess m port data) s = .next t ∧ (t.rd (PORT_MOD_CMD.BUSY port) = 1 ∧ t.rd (PORT_MOD_CMD.ERR port) = 0) ∧
      s.framed t hostPieces [[PORT_MOD_CMD.reg port], recFlds].flatten [] := by
  obtain ⟨hWrite, hEn⟩ := takesCmd_takes hTakes
  have hPort : port < 48 := by
    simp only [Instr.wellFormed, Bool.and_eq_true, decide_eq_true_eq] at hWf
    exact hWf.2
  obtain ⟨d, hPlain, hRw, hClear⟩ := plainReg_decl (plainReg_modCmd port hPort)
  have hGo : bitOf (data ||| 1).toNat 0 = true := by
    rw [bitOf_toNat, BitVec.getLsbD_or]
    simp
  have hBusyRec : ∀ u, s.recorded u → u.rd (PORT_MOD_CMD.BUSY port) = 0 := fun u hu => (hu.rd (by simp only [PORT_MOD_CMD.BUSY]; omega)).trans hBusy
  have hStarts : ∀ u, s.recorded u → u.writeRefused m (16 + port) 0x23C (data ||| 1).toNat = false := by
    intro u hu
    have hOn := hu.enabled (page := 16 + port) (by omega) hEn
    have hPage : 16 + port < 64 ∧ 16 + port ≠ 9 := by omega
    simp [State.writeRefused, hOn, hPage, hBusyRec u hu]
  have hRun : ∀ v, s.recorded v → ∃ e, (regDo m (16 + port) 0x23C d (data ||| 1)).run v = (emit e).run ((setF (PORT_MOD_CMD.ERR port) 0).run
      ((setF (PORT_MOD_CMD.BUSY port) 1).run ((setReg (16 + port) 0x23C (d.merge (v.reg (16 + port) 0x23C) (data ||| 1))).run v))) := by
    intro v hv
    rw [regDo_fe (by omega) (by decide) (.inr (hv.enabled (by omega) hEn)), feWrite_modCmd hPort hGo (hBusyRec v hv)]
    refine moduleAccess_begins ?_ ?_ ?_
    · exact (rd_setReg_same v (PORT_MOD_CMD.BUSY port) _).trans ((fieldOf_merge_kept (fun b hb hb' => by
        rw [hRw]; simp only [PORT_MOD_CMD.BUSY] at hb hb'; interval_cases b; rfl) hClear).trans (hBusyRec v hv))
    · refine (rd_setReg_same v (PORT_MOD_CMD.WRITE port) _).trans ((fieldOf_merge (fun b hb hb' => by
        rw [hRw]; simp only [PORT_MOD_CMD.WRITE] at hb hb'; interval_cases b; rfl) hClear).trans (Eq.trans (fieldOf_congr fun b hb hb' => ?_) hRead))
      simp only [PORT_MOD_CMD.WRITE] at hb hb'
      rw [BitVec.getLsbD_or, show b = 16 by omega]
      simp
    · exact (rd_setReg_apart v _ (by simp only [PORT_CAGE_STAT.PRESENT]; omega)).trans ((hv.rd (by simp only [PORT_CAGE_STAT.PRESENT]; omega)).trans hPresent)
  simp only [exec, execModuleAccess]
  refine command_hostWrite_framed (l := [.emitted]) (R := [PORT_MOD_CMD.reg port]) hWf hWrite hPlain hStarts (fun v hv => ?_) (by decide) ⟨by decide, by simp⟩
    (by simp) fun v t hv hSent => ?_
  · obtain ⟨e, hDo⟩ := hRun v hv
    rw [hDo]
    exact State.framed_trans (keeps_setReg (by simp [PORT_MOD_CMD.reg]) v) (State.framed_trans (keeps_setF_in (by simp [PORT_MOD_CMD.BUSY, PORT_MOD_CMD.reg]) _)
      (State.framed_trans (keeps_setF_in (by simp [PORT_MOD_CMD.ERR, PORT_MOD_CMD.reg]) _) (keeps_emit (by simp) _)))
  · obtain ⟨e, hDo⟩ := hRun v hv
    rw [hDo] at hSent
    rw [State.sends_rd hSent, State.sends_rd hSent, rd_emit, rd_emit, rd_setF_apart (f := PORT_MOD_CMD.BUSY port) _ _ (by
      simp only [Fld.apart, PORT_MOD_CMD.BUSY, PORT_MOD_CMD.ERR]; omega)]
    exact ⟨rd_setF_fits _ (by simp only [PORT_MOD_CMD.BUSY]; omega), rd_setF_fits _ (by simp only [PORT_MOD_CMD.ERR]; omega)⟩

/-- Settles O32: each step of a module writes the fields of its cage, and what follows it, the interrupt, the check of the media type, the link of the port, leaves
these. -/
theorem moduleFaultsAndAccess : Obligations.ModuleFaultsAndAccess := by
  unfold Obligations.ModuleFaultsAndAccess
  refine ⟨fun _ _ => moduleStepTimeout_fails, fun _ _ => moduleRemove_forgets, fun _ _ _ _ => moduleAccessDone_reads, fun _ _ _ => moduleInterrupt_follows,
    fun _ _ _ _ _ _ _ _ _ _ hWf hStep hAck hLow hLe hGe => moduleRefused hWf hStep hAck hLow ⟨hLe, hGe⟩, ?_, ?_,
    fun _ _ hWf hPresent hManual _ => moduleInsert_framed hWf hPresent hManual, fun _ _ hWf _ _ => moduleResetRelease_framed hWf,
    fun _ _ _ _ _ _ _ _ _ _ hWf hStep hAck hLow hLe hGe => modulePowered_framed hWf hStep hAck hLow ⟨hLe, hGe⟩,
    fun _ _ _ _ hWf hStep hAck hApp _ => moduleReady_framed hWf hStep hAck hApp, fun _ _ hWf _ => moduleDatapathActivated_framed hWf⟩
  · intro m port data c s hWf hTakes hMax hManual hWas hRefused hRaise hClass
    obtain ⟨t, hNext, -, hFramed⟩ := cagePwrMaxRaise_powers hWf hTakes hMax hManual hWas hRefused hRaise hClass
    exact ⟨t, hNext, hFramed⟩
  · intro m port data s hWf hTakes hBusy hPresent hRead
    obtain ⟨t, hNext, -, hFramed⟩ := moduleAccess_reads hWf hTakes hBusy hPresent hRead
    exact ⟨t, hNext, hFramed⟩

end Sys2Proof.Machine
end
-- ==== Sys2Proof/Proofs/FlexeReceive.lean ====
section
/-!
PROOF. Overhead blocks of a FlexE member (spec/03_ports_and_framing.md R107, R108, R127).
-/
namespace Sys2Proof.Machine

/-! ### What follows the fields of an overhead frame (R123 to R126) -/

/-- The pieces that an overhead block writes. -/
def ohPieces : List Piece := [[.regs, .instX, .flxEx, .pmX, .ohCrcBad, .rpfTx], linkPieces].flatten

/-- The field has no bit of a group's RX_C, nor of its RPF_RX. -/
def Fld.clearOf (f : Fld) (g : Nat) : Prop :=
  (regKey f.page f.off ≠ regKey (64 + g) 0x240 ∨ 0 < f.lo) ∧ (regKey f.page f.off ≠ regKey (64 + g) 0x250 ∨ f.hi < 8 ∨ 15 < f.lo)

/-- From `s` to `t` an overhead block's pieces alone have changed, and of these neither what a group has received, RX_C and RPF_RX, nor the frame lock of any instance. -/
structure State.settled (g : Nat) (s t : State) : Prop where
  pieces : s.onlyIn t ohPieces
  rxC : t.rd (FLX_CAL_CTRL.RX_C g) = s.rd (FLX_CAL_CTRL.RX_C g)
  rpf : t.rd (FLX_STAT.RPF_RX g) = s.rd (FLX_STAT.RPF_RX g)
  locks : ∀ j, (t.instXAt j).lock = (s.instXAt j).lock ∧ (t.instXAt j).last = (s.instXAt j).last

theorem State.settled_refl (g : Nat) (s : State) : s.settled g s := ⟨fun f _ => s.same_refl f, rfl, rfl, fun _ => ⟨rfl, rfl⟩⟩

theorem State.settled_trans {g : Nat} {s t u : State} (h : s.settled g t) (h' : t.settled g u) : s.settled g u :=
  ⟨fun f hf => State.same_trans (h.pieces f hf) (h'.pieces f hf), h'.rxC.trans h.rxC, h'.rpf.trans h.rpf,
   fun j => ⟨(h'.locks j).1.trans (h.locks j).1, (h'.locks j).2.trans (h.locks j).2⟩⟩

/-- A program that leaves a group's received fields and every lock, from every state. -/
def Prog.Settled (g : Nat) (p : Prog) : Prop := ∀ s : State, s.settled g (p.run s)

section Settled
variable {g : Nat}

theorem settled_skip : Prog.skip.Settled g := State.settled_refl g

theorem settled_andThen {p q : Prog} (hp : p.Settled g) (hq : q.Settled g) : (Prog.andThen p q).Settled g := fun s => State.settled_trans (hp s) (hq _)

theorem settled_look {f : State → Prog} (h : ∀ s, (f s).Settled g) : (Prog.look f).Settled g := fun s => h s s

theorem settled_seqs : ∀ {ps : List Prog}, (∀ p ∈ ps, p.Settled g) → (seqs ps).Settled g
  | [], _ => settled_skip
  | p :: ps, h => fun s => by
    rw [run_seqs_cons]
    exact State.settled_trans (h p List.mem_cons_self s) (settled_seqs (fun q hq => h q (List.mem_cons_of_mem _ hq)) _)

theorem settled_each {α : Type} {f : α → Prog} : ∀ {as : List α}, (∀ a ∈ as, (f a).Settled g) → (each as f).Settled g
  | [], _ => settled_skip
  | a :: _, h => settled_andThen (h a List.mem_cons_self) (settled_each fun b hb => h b (List.mem_cons_of_mem _ hb))

theorem settled_ite {c : Prop} [Decidable c] {p q : Prog} (hp : p.Settled g) (hq : q.Settled g) : (if c then p else q).Settled g := by
  split
  · exact hp
  · exact hq

theorem settled_onlyIf {b : Bool} {p : Prog} (h : p.Settled g) : (onlyIf b p).Settled g := settled_ite h settled_skip

theorem State.same_instXAt {s t : State} (h : s.same t .instX) (j : Nat) : t.instXAt j = s.instXAt j := by
  have hSame : s.instX = t.instX := h
  rw [State.instXAt, ← hSame]
  rfl

/-- A program that writes pieces of an overhead block, but no instance, and fields clear of the group's. -/
theorem settled_of_keeps {p : Prog} {l : List Piece} {R : List Fld} {T : List Nat} (h : p.Keeps l R T) (hOnly : p.Only ohPieces) (hInst : .instX ∉ l)
    (hR : ∀ f ∈ R, f.clearOf g) : p.Settled g := by
  intro s
  have hFrame := h s
  have hInstX : s.same (p.run s) .instX := h.same s .instX (by simpa using hInst)
  refine ⟨hOnly.onlyIn s, ?_, ?_, fun j => by rw [State.same_instXAt hInstX]; exact ⟨rfl, rfl⟩⟩
  · refine fieldOf_congr fun b hb hb' => hFrame.2.1 _ b fun f hf hc => ?_
    obtain ⟨hKey, hLo, hHi⟩ := hc
    have hClear := (hR f hf).1
    simp only [FLX_CAL_CTRL.RX_C] at hKey hb hb'
    omega
  · refine fieldOf_congr fun b hb hb' => hFrame.2.1 _ b fun f hf hc => ?_
    obtain ⟨hKey, hLo, hHi⟩ := hc
    have hClear := (hR f hf).2
    simp only [FLX_STAT.RPF_RX] at hKey hb hb'
    omega

theorem settled_put {a : Act} (h : a.piece ∈ ohPieces) (hr : a.piece ≠ .regs) (ht : a.piece ≠ .tables) (hi : .instX ≠ a.piece) : (Prog.put a).Settled g :=
  settled_of_keeps (keeps_put (R := []) (T := []) (List.mem_singleton_self _) hr ht) h (by simpa using hi) fun _ hf => absurd hf List.not_mem_nil

theorem settled_setF {f : Fld} {v : Nat} (h : f.clearOf g) : (setF f v).Settled g :=
  settled_of_keeps (keeps_setF (l := []) (T := []) (List.mem_singleton_self f)) (only_setF (by decide)) List.not_mem_nil fun _ hf => List.mem_singleton.mp hf ▸ h

theorem settled_setBitF {f : Fld} {b : Nat} {v : Bool} (h : (⟨f.page, f.off, f.lo + b, f.lo + b⟩ : Fld).clearOf g) : (setBitF f b v).Settled g :=
  settled_of_keeps (keeps_setBitF (l := []) (T := []) (List.mem_singleton_self _)) (fun _ => only_setF (by decide)) List.not_mem_nil
    fun _ hf => List.mem_singleton.mp hf ▸ h

theorem settled_setReg {page off : Nat} {v : Word} (h : (⟨page, off, 31, 0⟩ : Fld).clearOf g) : (setReg page off v).Settled g :=
  settled_of_keeps (keeps_setReg (l := []) (T := []) (List.mem_singleton_self _)) (show Piece.regs ∈ ohPieces by decide) List.not_mem_nil
    fun _ hf => List.mem_singleton.mp hf ▸ h

theorem settled_emit {e : Emit} : (emit e).Settled g := settled_look fun _ => settled_put (show Piece.emitted ∈ ohPieces by decide) (by simp) (by simp) (by simp)

theorem settled_count {f i n : Nat} : (count f i n).Settled g := settled_look fun s => settled_andThen
  (by
    cases s.snap with
    | none => exact settled_skip
    | some _ => exact settled_onlyIf (settled_put (show Piece.snapSaved ∈ ohPieces by decide) (by simp) (by simp) (by simp)))
  (settled_put (show Piece.counters ∈ ohPieces by decide) (by simp) (by simp) (by simp))

/-- An interrupt of a block page up to the group's. -/
theorem settled_raise {page bit : Nat} (hPage : page ≤ 64 + g ∨ page < 1024) : (raise page bit).Settled g := by
  refine settled_of_keeps (keeps_raise (T := []) (List.Subset.refl irqPieces) (List.Subset.refl (irqFlds page bit))) (only_raise (by decide) (by decide)) (by decide)
    fun f hf => ?_
  simp only [irqFlds, List.mem_cons, List.not_mem_nil, or_false] at hf
  rcases hf with rfl | rfl | rfl <;> simp only [Fld.clearOf, regKey, PCIE_LINK_STAT.IN_L1] <;> omega

/-! ### The link of a port of the group -/

theorem settled_showPaused {p : Nat} : (showPaused p).Settled g :=
  settled_look fun _ => settled_setF (by simp only [Fld.clearOf, regKey, PORT_STAT.PFC_PAUSED]; omega)

theorem settled_pauseOut {p : Nat} {x : Nat × Nat} : (pauseOut p x).Settled g := settled_look fun _ => settled_ite
  (settled_andThen settled_emit (settled_each fun _ _ => settled_onlyIf settled_count)) (settled_andThen settled_emit settled_count)

theorem settled_linkPut {a : Act} (h : a.piece ∈ linkPieces) : (Prog.put a).Settled g :=
  have hOther : ∀ f ∈ linkPieces, f ∈ ohPieces ∧ f ≠ .regs ∧ f ≠ .tables ∧ .instX ≠ f := by decide
  settled_put (hOther _ h).1 (hOther _ h).2.1 (hOther _ h).2.2.1 (hOther _ h).2.2.2

theorem settled_pauseSend {p mask time : Nat} : (pauseSend p mask time).Settled g := settled_look fun _ => settled_onlyIf
  (settled_andThen (settled_ite (settled_linkPut (show Piece.pauseQ ∈ linkPieces by decide)) settled_pauseOut)
    (settled_linkPut (show Piece.pauseSentAt ∈ linkPieces by decide)))

theorem settled_pauseRefresh {p : Nat} : (pauseRefresh p).Settled g := settled_look fun _ => settled_andThen
  (settled_ite (settled_linkPut (show Piece.pauseSentAt ∈ linkPieces by decide)) (settled_onlyIf settled_pauseSend)) settled_showPaused

theorem settled_linkRefresh {p : Nat} (hp : p < 64) : (linkRefresh p).Settled g := by
  refine settled_look fun s => settled_seqs fun q hq => ?_
  simp only [List.mem_cons, List.not_mem_nil, or_false] at hq
  rcases hq with rfl | rfl | rfl | rfl | rfl
  · exact settled_setF (by simp only [Fld.clearOf, regKey, PORT_STAT.FEC_LOCK]; omega)
  · exact settled_onlyIf (settled_andThen (settled_setF (by simp only [Fld.clearOf, regKey, PORT_STAT.LINK_UP]; omega)) (settled_raise (by omega)))
  · exact settled_onlyIf (settled_andThen (settled_onlyIf (settled_linkPut (show Piece.rxCut ∈ linkPieces by decide)))
      (settled_linkPut (show Piece.pauseSentAt ∈ linkPieces by decide)))
  · exact settled_onlyIf (settled_andThen (settled_linkPut (show Piece.macSignal ∈ linkPieces by decide))
      (settled_andThen (settled_onlyIf settled_emit) (settled_onlyIf settled_emit)))
  · exact settled_onlyIf settled_pauseRefresh

/-! ### The group and its clients -/

theorem settled_xcActionsAt {ds : List Nat} : (xcActionsAt ds).Settled g := settled_look fun _ => settled_each fun _ _ => settled_ite settled_emit
  (settled_onlyIf (settled_andThen (settled_setF (by simp only [Fld.clearOf, regKey, XC_CH_STAT.TX_AIS]; omega))
    (settled_andThen settled_emit (settled_onlyIf (settled_raise (.inr (by decide)))))))

theorem settled_groupRefresh : (groupRefresh g).Settled g := by
  refine settled_look fun s => settled_seqs fun q hq => ?_
  simp only [List.mem_cons, List.not_mem_nil, or_false] at hq
  rcases hq with rfl | rfl | rfl | rfl | rfl
  · exact settled_each fun i _ => settled_andThen (settled_look fun _ => settled_put (show Piece.pmX ∈ ohPieces by decide) (by simp) (by simp) (by simp))
      (settled_setF (by simp only [Fld.clearOf, regKey, FLX_CL_STAT.FAILED]; omega))
  · exact settled_onlyIf (settled_raise (.inl (Nat.le_refl _)))
  · exact settled_onlyIf (settled_andThen (settled_put (show Piece.rpfTx ∈ ohPieces by decide) (by simp) (by simp) (by simp)) settled_emit)
  · exact settled_each fun i _ => settled_linkRefresh (Nat.mod_lt _ (by decide))
  · exact settled_look fun _ => settled_xcActionsAt

theorem settled_clientsReset : (clientsReset g).Settled g :=
  settled_look fun _ => settled_each fun i _ => settled_setReg (by simp only [Fld.clearOf, regKey]; omega)

theorem settled_setCalm {v : Nat} : (setF (FLX_STAT.CALM g) v).Settled g := settled_setF (by simp only [Fld.clearOf, regKey, FLX_STAT.CALM]; omega)

/-- An instance written with the lock that it has. -/
theorem settled_putInst {s u : State} {j : Nat} {x : InstX} (h : s.settled g u) (hx : x.lock = (s.instXAt j).lock ∧ x.last = (s.instXAt j).last) :
    s.settled g ((Prog.put (.instX j x)).run u) := by
  refine ⟨fun f hf => State.same_trans (h.pieces f hf) ((Act.instX j x).same_apply u f fun e => hf (by subst e; exact show Piece.instX ∈ ohPieces by decide)),
    (rd_put u (by simp) _).trans h.rxC, (rd_put u (by simp) _).trans h.rpf, fun i => ?_⟩
  rw [run_put, Act.instX_apply]
  split
  · next hi => subst hi; exact hx
  · exact h.locks i

theorem settled_eachInst {s : State} {x : Nat → InstX} (hx : ∀ j, (x j).lock = (s.instXAt j).lock ∧ (x j).last = (s.instXAt j).last) :
    ∀ (js : List Nat) {u : State}, s.settled g u → s.settled g ((each js fun j => .put (.instX j (x j))).run u)
  | [], _, h => h
  | j :: js, _, h => settled_eachInst hx js (settled_putInst h (hx j))

theorem settled_calmReset : (calmReset g).Settled g := fun s =>
  settled_eachInst (x := fun j => { s.instXAt j with calmBad := 0, calmGood := 0, calm := false, mfCrc := false, mfBad := false }) (fun _ => ⟨rfl, rfl⟩) _
    (settled_setCalm s)

theorem settled_calmFollow : (calmFollow g).Settled g := settled_look fun _ => settled_onlyIf (settled_andThen settled_setCalm
  (settled_andThen (settled_onlyIf (settled_andThen (settled_raise (.inl (Nat.le_refl _))) settled_clientsReset)) settled_groupRefresh))

theorem settled_groupHold : (groupHold g).Settled g := settled_look fun _ => settled_andThen
  (settled_onlyIf (settled_setF (by simp only [Fld.clearOf, regKey, FLX_STAT.GSE]; omega)))
  (settled_andThen (settled_onlyIf settled_calmReset) (settled_look fun _ => settled_onlyIf settled_clientsReset))

theorem settled_showLocks {k p : Nat} : (showLocks g k p).Settled g := settled_look fun _ => settled_andThen
  (settled_setBitF (by simp only [Fld.clearOf, regKey, FLX_STAT.OF_LOCK]; omega)) (settled_setBitF (by simp only [Fld.clearOf, regKey, FLX_STAT.MF_LOCK]; omega))

theorem settled_lockChanged {k p : Nat} {old new : InstX} : (lockChanged g k p old new).Settled g :=
  settled_andThen settled_showLocks (settled_andThen (settled_onlyIf (settled_raise (.inl (Nat.le_refl _))))
    (settled_andThen (settled_onlyIf (settled_raise (.inl (Nat.le_refl _)))) (settled_onlyIf (settled_andThen settled_groupHold settled_groupRefresh))))

end Settled

/-! ### The fields of a frame (R113 to R115, R127) -/

/-- A bit of a field after it was set. -/
theorem bitOf_setBitF (s : State) {f : Fld} {b : Nat} (v : Bool) (h : f.hi < 32 ∧ f.lo + b ≤ f.hi) : bitOf (((setBitF f b v).run s).rd f) b = v := by
  have hRun : (setBitF f b v).run s = (setF f (withBit (s.rd f) b v)).run s := rfl
  have hLt : b < f.hi + 1 - f.lo := by omega
  rw [hRun, rd_setF _ _ _ h.1, bitOf, Nat.testBit_mod_two_pow, testBit_withBit, if_pos rfl]
  simp [hLt]

theorem instXAt_setBitF (s : State) (f : Fld) (b : Nat) (v : Bool) (j : Nat) : ((setBitF f b v).run s).instXAt j = s.instXAt j :=
  State.same_instXAt (Prog.Keeps.same (keeps_setBitF (l := []) (T := []) (List.mem_singleton_self _)) s .instX (by decide)) j

/-- The received C is taken over, with the calendar that follows it. -/
def ohTakeC (g : Nat) (c : Bool) (s : State) : Prog :=
  onlyIf (s.rd (FLX_CAL_CTRL.RX_C g) != b2n c) (.andThen (setF (FLX_CAL_CTRL.RX_C g) (b2n c)) (emit (.calendar g false (s.calClients g (if c then 3 else 2)))))

/-- The partner's CR and CA are answered, and a new RPF is signalled. -/
def ohAnswer (g k : Nat) (cr ca rpf : Bool) (s : State) : Prog := seqs [
  onlyIf (cr != (s.flxExAt g).rxCr) (.andThen (.put (.flxEx g { s.flxExAt g with rxCr := cr })) (sendOverhead g)),
  onlyIf ((s.flxExAt g).step == 3 && ca == (s.rd (FLX_CAL_CTRL.TX_C g) == 0)) (setF (FLX_STAT.CA_RX g) 1),
  onlyIf (rpf && !bitOf (s.rd (FLX_STAT.RPF_RX g)) k) (raise (64 + g) 23)]

theorem ohFields_run (g k : Nat) (c cr ca rpf : Bool) (s : State) :
    (ohFields g k c cr ca rpf).run s = (setBitF (FLX_STAT.RPF_RX g) k rpf).run ((ohAnswer g k cr ca rpf s).run ((ohTakeC g c s).run s)) := rfl

theorem ohTakeC_takes (g : Nat) (c : Bool) (s : State) : ((ohTakeC g c s).run s).rd (FLX_CAL_CTRL.RX_C g) = b2n c := by
  unfold ohTakeC
  by_cases h : s.rd (FLX_CAL_CTRL.RX_C g) = b2n c
  · rw [run_onlyIf_false _ _ (by simpa using h), h]
  · rw [run_onlyIf_true _ _ (by simpa using h), run_andThen, rd_emit]
    exact rd_setF_fits _ ⟨by simp only [FLX_CAL_CTRL.RX_C]; omega, b2n_lt_two c⟩

theorem ohTakeC_leaves (g : Nat) (c : Bool) (s : State) :
    s.onlyIn ((ohTakeC g c s).run s) ohPieces ∧ ∀ j, ((ohTakeC g c s).run s).instXAt j = s.instXAt j := by
  have hOnly : (ohTakeC g c s).Only ohPieces := all_onlyIf fun _ => ⟨only_setF (by decide), fun _ => show Piece.emitted ∈ ohPieces by decide⟩
  have hKeeps : (ohTakeC g c s).Keeps [.emitted] [FLX_CAL_CTRL.RX_C g] [] := keeps_onlyIf fun _ => keeps_andThen (keeps_setF (by simp)) (keeps_emit (by simp))
  exact ⟨hOnly.onlyIn s, State.same_instXAt (hKeeps.same s .instX (by decide))⟩

theorem settled_sendOverhead {g : Nat} : (sendOverhead g).Settled g := settled_look fun _ => settled_onlyIf settled_emit

theorem settled_ohAnswer {g k : Nat} {cr ca rpf : Bool} {s : State} : (ohAnswer g k cr ca rpf s).Settled g := settled_andThen
  (settled_onlyIf (settled_andThen (settled_put (show Piece.flxEx ∈ ohPieces by decide) (by simp) (by simp) (by simp)) settled_sendOverhead))
  (settled_andThen (settled_onlyIf (settled_setF (by simp only [Fld.clearOf, regKey, FLX_STAT.CA_RX]; omega)))
    (settled_onlyIf (settled_raise (.inl (Nat.le_refl _)))))

/-- What a frame's fields leave: C and the member's RPF as received, and every instance's lock. -/
theorem ohFields_receives {g k : Nat} {c cr ca rpf : Bool} (hk : k < 8) (s : State) :
    ((ohFields g k c cr ca rpf).run s).rd (FLX_CAL_CTRL.RX_C g) = b2n c ∧ bitOf (((ohFields g k c cr ca rpf).run s).rd (FLX_STAT.RPF_RX g)) k = rpf ∧
      s.onlyIn ((ohFields g k c cr ca rpf).run s) ohPieces ∧
      ∀ j, (((ohFields g k c cr ca rpf).run s).instXAt j).lock = (s.instXAt j).lock ∧ (((ohFields g k c cr ca rpf).run s).instXAt j).last = (s.instXAt j).last := by
  obtain ⟨hPieces, hInst⟩ := ohTakeC_leaves g c s
  have hAnswer := settled_ohAnswer (g := g) (k := k) (cr := cr) (ca := ca) (rpf := rpf) (s := s) ((ohTakeC g c s).run s)
  have hRpf : (setBitF (FLX_STAT.RPF_RX g) k rpf).Only ohPieces := fun _ => only_setF (by decide)
  rw [ohFields_run]
  refine ⟨?_, bitOf_setBitF _ rpf (by simp only [FLX_STAT.RPF_RX]; omega), fun f hf => State.same_trans (hPieces f hf)
    (State.same_trans (hAnswer.pieces f hf) (hRpf.onlyIn _ f hf)), fun j => ?_⟩
  · exact (rd_setF_apart _ _ (by simp only [Fld.apart, FLX_CAL_CTRL.RX_C, FLX_STAT.RPF_RX]; omega)).trans (hAnswer.rxC.trans (ohTakeC_takes g c s))
  · rw [instXAt_setBitF, ← hInst j]
    exact hAnswer.locks j

/-! ### Frame lock (R107, R108) -/

theorem mfStep_lock (x : InstX) (k : Nat) (good omf : Bool) : (mfStep x k good omf).lock = x.lock ∧ (mfStep x k good omf).last = x.last := by
  unfold mfStep
  simp only
  repeat' split
  all_goals exact ⟨rfl, rfl⟩

theorem calmStep_lock (x : InstX) (was : Bool) (k : Nat) (good bad : Bool) :
    (calmStep x was k good bad).lock = x.lock ∧ (calmStep x was k good bad).last = x.last := by
  unfold calmStep
  simp only
  repeat' split
  all_goals exact ⟨rfl, rfl⟩

/-- The pattern one frame after a candidate gains frame lock there. -/
theorem lockStep_gains {x : InstX} {pos : Nat} {r : List Nat} (hLock : x.lock = false) (hCands : x.cands = (pos - ohFrame) :: r) (hPos : ohFrame ≤ pos) :
    (lockStep x pos true true).1.lock = true ∧ (lockStep x pos true true).1.last = pos ∧ (lockStep x pos true true).2 = (1, true) := by
  have hBack : pos - ohFrame + ohFrame = pos := Nat.sub_add_cancel hPos
  unfold lockStep
  simp [hLock, hCands, hBack]

/-- The pattern one frame after the last keeps the lock. -/
theorem lockStep_keeps {x : InstX} {pos : Nat} (hLock : x.lock = true) (hMisses : x.misses < 5) (hPos : pos = x.last + ohFrame) :
    (lockStep x pos true true).1.lock = true ∧ (lockStep x pos true true).1.last = pos ∧ (lockStep x pos true true).2 = (1, true) := by
  have hSpan : ohFrame / ohFrame = 1 := by decide
  subst hPos
  unfold lockStep
  simp [hLock, hSpan, Nat.not_le.mpr hMisses]

/-- A member of a group stands in one of its eight places. -/
theorem flxMember_lt {s : State} {p g k : Nat} (h : s.flxMember p = some (g, k)) : k < 8 := by
  unfold State.flxMember at h
  split at h
  · exact absurd h (by simp)
  · simp only [Option.map_eq_some_iff, Prod.mk.injEq] at h
    obtain ⟨m, hFind, -, rfl⟩ := h
    have hMem := List.mem_of_find?_eq_some hFind
    unfold State.flxMembers at hMem
    obtain ⟨j, hj, rfl⟩ := List.mem_map.mp hMem
    exact List.mem_range.mp (List.mem_filter.mp hj).1

/-- From `s` to `t` an instance has received the frame at a position: it is locked there, and the group has taken over C and the member's RPF. -/
def State.receives (s t : State) (g k j pos : Nat) (c rpf : Bool) : Prop :=
  (t.instXAt j).lock = true ∧ (t.instXAt j).last = pos ∧ t.rd (FLX_CAL_CTRL.RX_C g) = b2n c ∧ bitOf (t.rd (FLX_STAT.RPF_RX g)) k = rpf ∧ s.onlyIn t ohPieces

/-- A frame is received, and what follows it leaves it so. -/
theorem frame_received {g k j pos : Nat} {c cr ca rpf : Bool} {y : InstX} {q : Prog} (hk : k < 8) (hy : y.lock = true ∧ y.last = pos) (hq : q.Settled g)
    (s : State) : s.receives (q.run ((ohFields g k c cr ca rpf).run ((Prog.put (.instX j y)).run s))) g k j pos c rpf := by
  obtain ⟨hC, hRpf, hPieces, hLocks⟩ := ohFields_receives (g := g) (c := c) (cr := cr) (ca := ca) (rpf := rpf) hk ((Prog.put (.instX j y)).run s)
  have hAfter := hq ((ohFields g k c cr ca rpf).run ((Prog.put (.instX j y)).run s))
  have hPut : ((Prog.put (.instX j y)).run s).instXAt j = y := by rw [run_put, Act.instX_apply, if_pos rfl]
  have hWritten : s.onlyIn ((Prog.put (.instX j y)).run s) ohPieces := fun f hf =>
    (Act.instX j y).same_apply s f fun e => hf (by subst e; exact show Piece.instX ∈ ohPieces by decide)
  refine ⟨?_, ?_, hAfter.rxC.trans hC, by rw [hAfter.rpf, hRpf], fun f hf =>
    State.same_trans (hWritten f hf) (State.same_trans (hPieces f hf) (hAfter.pieces f hf))⟩
  · rw [(hAfter.locks j).1, (hLocks j).1, hPut, hy.1]
  · rw [(hAfter.locks j).2, (hLocks j).2, hPut, hy.2]

/-- A frame with the pattern and a good CRC, one frame after where the lock is looked for, is received. -/
theorem overheadBlock_received {port inst pos : Nat} {omf c cr ca rpf : Bool} {groupNum phyNum slotA slotB g k : Nat} {s : State}
    (hWf : Instr.wellFormed (.overheadBlockReceive port inst pos (2, 0x4B, 5) true omf c cr ca rpf groupNum phyNum slotA slotB) = true)
    (hMember : s.flxMember port = some (g, k)) (hLos : s.rd (PORT_STAT.LOS port) = 0) (hLol : s.rd (PORT_STAT.LOL port) = 0)
    (hBer : s.rd (PORT_STAT.HI_BER port) = 0) (hInst : inst < s.phyInsts g)
    (hLock : (lockStep (s.instXAt (4 * port + inst)) pos true true).1.lock = true ∧ (lockStep (s.instXAt (4 * port + inst)) pos true true).1.last = pos ∧
      (lockStep (s.instXAt (4 * port + inst)) pos true true).2 = (1, true)) :
    ∃ t, exec (.overheadBlockReceive port inst pos (2, 0x4B, 5) true omf c cr ca rpf groupNum phyNum slotA slotB) s = .next t ∧
      s.begun.receives t g k (4 * port + inst) pos c rpf := by
  obtain ⟨hLocked, hLast, hFrame⟩ := hLock
  have hMemberBegun : s.begun.flxMember port = some (g, k) := hMember
  have hInstBegun : inst < s.begun.phyInsts g := hInst
  have hFrameBegun : (lockStep (s.begun.instXAt (4 * port + inst)) pos true true).2 = (1, true) := hFrame
  simp only [exec, execOverheadBlockReceive]
  refine command_answers hWf ?_
  rw [run_look, hMemberBegun]
  simp only [show isOhStart 2 0x4B 5 = true from rfl, hFrameBegun, show (1 == 0) = false from rfl, Bool.false_eq_true, if_false, Bool.and_self, Bool.not_true,
    Bool.and_false]
  rw [run_onlyIf_true _ _ (by simp [hLos, hLol, hBer, hInstBegun]), run_seqs_cons, run_seqs_cons, run_seqs_cons, run_onlyIf_false (b := false) _ _ rfl,
    run_onlyIf_true (b := true) _ _ rfl]
  refine frame_received (flxMember_lt hMember) ?_ (settled_andThen settled_lockChanged (settled_look fun _ => settled_ite settled_calmReset settled_calmFollow)) _
  obtain ⟨hCalmLock, hCalmLast⟩ := calmStep_lock (mfStep (lockStep (s.begun.instXAt (4 * port + inst)) pos true true).1 1 true omf)
    (s.begun.instXAt (4 * port + inst)).mfLock 1 true _
  obtain ⟨hMfLock, hMfLast⟩ := mfStep_lock (lockStep (s.begun.instXAt (4 * port + inst)) pos true true).1 1 true omf
  exact ⟨hCalmLock.trans (hMfLock.trans hLocked), hCalmLast.trans (hMfLast.trans hLast)⟩

theorem begun_onlyIn {s t : State} {l : List Piece} (he : .emitted ∈ l) (h : s.begun.onlyIn t l) : s.onlyIn t l := fun f hf =>
  State.same_trans ((Act.emitted []).same_apply s f fun e => hf (by subst e; exact he)) (h f hf)

/-- Settles O19: the block's place gives the lock, the frame's fields C and RPF; what the group's defects make of the rest leaves these. -/
theorem flexeReceive : Obligations.FlexeReceive := by
  unfold Obligations.FlexeReceive
  constructor
  · rintro port inst pos crcOk omf c cr ca rpf groupNum phyNum slotA slotB sync type ocode g k r s hWf hMember hLos hLol hBer hInst hFree hCands hPos rfl rfl rfl hCrc
    obtain rfl : crcOk = true := hCrc
    obtain ⟨t, hNext, hLock, hLast, hC, -, hOnly⟩ := overheadBlock_received hWf hMember hLos hLol hBer hInst (lockStep_gains hFree hCands hPos)
    exact ⟨t, hNext, hLock, hLast, hC, begun_onlyIn (by decide) hOnly⟩
  · rintro port inst pos crcOk omf c cr ca rpf groupNum phyNum slotA slotB sync type ocode g k s hWf hMember _ hLos hLol hBer hInst hHeld hMisses hPos rfl rfl rfl hCrc
    obtain rfl : crcOk = true := hCrc
    obtain ⟨t, hNext, hLock, hLast, hC, hRpf, hOnly⟩ := overheadBlock_received hWf hMember hLos hLol hBer hInst (lockStep_keeps hHeld hMisses hPos)
    exact ⟨t, hNext, hLock, hLast, hC, hRpf, begun_onlyIn (by decide) hOnly⟩

end Sys2Proof.Machine
end
-- ==== Sys2Proof/Proofs/BegunOperations.lean ====
section
/-!
PROOF. What a started operation leaves to its end, and the writes of seeds, uses of banks, buckets and SPD commands (spec/05_forwarding_tables.md R177, R181,
spec/06_pipelines.md R227, spec/10_memory_controllers.md R391).
-/
namespace Sys2Proof.Machine

/-! ### What a started operation leaves to its end -/

/-- The pieces in which the operations of the data path's blocks keep what they have begun, and those of a master's access that waits. -/
def begunPieces : List Piece := [.jnlHeld, .dieQ, .flushing, .qx, .grnBy, .bucketPend]

/-- The two fields share no bit. -/
abbrev Fld.clear (g f : Fld) : Prop := regKey g.page g.off ≠ regKey f.page f.off ∨ g.hi < f.lo ∨ f.hi < g.lo

/-- From `s` to `t` the field and what the operations have begun are as before. -/
structure State.avoids (f : Fld) (s t : State) : Prop where
  pieces : ∀ x ∈ begunPieces, s.same t x
  field : t.rd f = s.rd f

/-- A program that leaves the field and what the operations have begun, from every state. -/
def Prog.Avoids (f : Fld) (p : Prog) : Prop := ∀ s : State, s.avoids f (p.run s)

theorem State.avoids_trans {f : Fld} {s t u : State} (h : s.avoids f t) (h' : t.avoids f u) : s.avoids f u :=
  ⟨fun x hx => State.same_trans (h.pieces x hx) (h'.pieces x hx), h'.field.trans h.field⟩

theorem State.quiet_trans {s t u : State} (h : s.quiet t) (h' : t.quiet u) : s.quiet u := ⟨h'.1.trans h.1, h'.2.trans h.2⟩

theorem State.avoids.quiet {f : Fld} {s t : State} (h : s.avoids f t) : s.quiet t :=
  ⟨(h.pieces .jnlHeld (by decide)).symm, (h.pieces .dieQ (by decide)).symm⟩

section Avoids
variable {f : Fld}

theorem avoids_skip : Prog.skip.Avoids f := fun s => ⟨fun x _ => s.same_refl x, rfl⟩

theorem avoids_andThen {p q : Prog} (hp : p.Avoids f) (hq : q.Avoids f) : (Prog.andThen p q).Avoids f := fun s => State.avoids_trans (hp s) (hq _)

theorem avoids_look {g : State → Prog} (h : ∀ s, (g s).Avoids f) : (Prog.look g).Avoids f := fun s => h s s

theorem avoids_seqs_nil : (seqs []).Avoids f := avoids_skip

theorem avoids_seqs_cons {p : Prog} {ps : List Prog} (hp : p.Avoids f) (hq : (seqs ps).Avoids f) : (seqs (p :: ps)).Avoids f := fun s => by
  rw [run_seqs_cons]
  exact State.avoids_trans (hp s) (hq _)

theorem avoids_each {α : Type} {g : α → Prog} : ∀ {as : List α}, (∀ a ∈ as, (g a).Avoids f) → (each as g).Avoids f
  | [], _ => avoids_skip
  | a :: _, h => avoids_andThen (h a List.mem_cons_self) (avoids_each fun b hb => h b (List.mem_cons_of_mem _ hb))

theorem avoids_ite {c : Prop} [Decidable c] {p q : Prog} (hp : p.Avoids f) (hq : q.Avoids f) : (if c then p else q).Avoids f := by
  split
  · exact hp
  · exact hq

theorem avoids_onlyIf {b : Bool} {p : Prog} (h : p.Avoids f) : (onlyIf b p).Avoids f := avoids_ite h avoids_skip

/-- A program whose frame names none of the pieces and has no bit of the field. -/
theorem avoids_of_keeps {p : Prog} {l : List Piece} {R : List Fld} {T : List Nat} (h : p.Keeps l R T)
    (hPieces : ∀ x ∈ begunPieces, x ∉ Piece.regs :: Piece.tables :: l) (hFields : ∀ g ∈ R, g.clear f) : p.Avoids f := fun s =>
  ⟨fun x hx => h.same s x (hPieces x hx), fieldOf_congr fun b hb hb' => (h s).2.1 _ b fun g hg hc => by
    obtain ⟨hKey, hLo, hHi⟩ := hc
    have := hFields g hg
    omega⟩

theorem avoids_put {a : Act} (h : a.piece ∉ begunPieces) (hr : a.piece ≠ .regs) (ht : a.piece ≠ .tables) : (Prog.put a).Avoids f :=
  avoids_of_keeps (l := [a.piece]) (R := []) (T := []) (keeps_put (List.mem_singleton_self _) hr ht)
    (fun x hx hm => by
      simp only [List.mem_cons, List.not_mem_nil, or_false] at hm
      rcases hm with rfl | rfl | rfl
      · exact absurd hx (by decide)
      · exact absurd hx (by decide)
      · exact h hx)
    fun _ hg => absurd hg List.not_mem_nil

theorem avoids_setReg {page off : Nat} {v : Word} (h : (⟨page, off, 31, 0⟩ : Fld).clear f) : (setReg page off v).Avoids f :=
  avoids_of_keeps (l := []) (T := []) (keeps_setReg (List.mem_singleton_self _)) (by decide) fun _ hg => List.mem_singleton.mp hg ▸ h

theorem avoids_setF {g : Fld} {v : Nat} (h : g.clear f) : (setF g v).Avoids f :=
  avoids_of_keeps (l := []) (T := []) (keeps_setF (List.mem_singleton_self _)) (by decide) fun _ hg => List.mem_singleton.mp hg ▸ h

theorem avoids_bumpF {g : Fld} {n : Nat} (h : g.clear f) : (bumpF g n).Avoids f := avoids_look fun _ => avoids_setF h

theorem avoids_emit {e : Emit} : (emit e).Avoids f := avoids_look fun _ => avoids_put (show Piece.emitted ∉ begunPieces by decide) (by simp) (by simp)

theorem avoids_draw {g : Nat → Prog} (h : ∀ n, (g n).Avoids f) : (draw g).Avoids f :=
  avoids_look fun _ => avoids_andThen (avoids_put (show Piece.fresh ∉ begunPieces by decide) (by simp) (by simp)) (h _)

theorem avoids_count {c i n : Nat} : (count c i n).Avoids f :=
  avoids_of_keeps (l := [.counters, .snapSaved]) (R := []) (T := []) (keeps_count (by decide) (by decide)) (by decide) fun _ hg => absurd hg List.not_mem_nil

theorem avoids_bumpTabF {page table index n : Nat} {x : EF} : (bumpTabF page table index x n).Avoids f :=
  avoids_of_keeps (l := []) (R := []) (keeps_bumpTabF (List.mem_singleton_self _)) (by decide) fun _ hg => absurd hg List.not_mem_nil

/-- An interrupt event of a page, for a field of another page or register. -/
theorem avoids_raise {page bit : Nat} (h : ∀ g ∈ irqFlds page bit, g.clear f) : (raise page bit).Avoids f :=
  avoids_of_keeps (T := []) (keeps_raise (List.Subset.refl irqPieces) (List.Subset.refl _)) (by decide) h

end Avoids

/-! ### Seeds and uses of banks (R177, R181) -/

theorem plainReg_seed : ∀ x ∈ [(100, 0x220), (101, 0x244), (102, 0x230)], plainReg x.1 x.2 (2 ^ 32 - 1) = true := by decide +kernel

theorem plainReg_memUse : ∀ b < 64, plainReg 100 (0x1000 + 4 * b) 0xF = true := by decide +kernel

theorem plainReg_bucket : ∀ k < 256, plainReg 112 (0x1000 + 4 * k) 0x1F = true := by decide +kernel

/-- The registers of the uses of banks are read as they were. -/
theorem State.recorded.bankUse {s u : State} (h : s.recorded u) {b : Nat} (hb : b < 64) : u.rd (LPM_MEM_USE.USE b) = s.rd (LPM_MEM_USE.USE b) :=
  h.rd (by simp only [LPM_MEM_USE.USE]; omega)

theorem State.recorded.famBanks {s u : State} (h : s.recorded u) (f : Fam) : u.famBanks f = s.famBanks f :=
  List.filter_congr fun _ hb => by rw [h.bankUse (List.mem_range.mp hb)]

theorem State.recorded.famCount {s u : State} (h : s.recorded u) (f : Fam) : u.famCount f = s.famCount f := by
  have hTables : s.tables = u.tables := h.onlyIn .tables (by decide)
  have hFam : u.famTables f = s.famTables f := by cases f <;> simp only [State.famTables, h.famBanks]
  rw [State.famCount, State.famEntries, hFam, ← hTables]
  rfl

theorem State.recorded.seedFree {s u : State} (h : s.recorded u) (page : Nat) : u.seedFree page = s.seedFree page := by
  simp only [State.seedFree, h.famCount]

theorem State.recorded.memUseOk {s u : State} (h : s.recorded u) {b : Nat} (hb : b < 64) (use : Nat) : u.memUseOk b use = s.memUseOk b use := by
  have hCount : ∀ c, (List.range 64).filter (fun k => (if k == b then use else u.rd (LPM_MEM_USE.USE k)) == c) =
      (List.range 64).filter (fun k => (if k == b then use else s.rd (LPM_MEM_USE.USE k)) == c) := fun c =>
    List.filter_congr fun k hk => by rw [h.bankUse (List.mem_range.mp hk)]
  simp only [State.memUseOk, hCount, h.bankUse hb, h.famCount]

theorem setReg_quiet (s : State) (page off : Nat) (v : Word) : s.quiet ((setReg page off v).run s) := ⟨rfl, rfl⟩

theorem feWrite_seed {page off : Nat} {v data : Word} {s : State} (hPlace : (page, off) ∈ [(100, 0x220), (101, 0x244), (102, 0x230)])
    (hFree : s.seedFree page = true) : (feWrite page off v data).run s = (setReg page off v).run s := by
  simp only [List.mem_cons, Prod.mk.injEq, List.not_mem_nil, or_false] at hPlace
  unfold feWrite
  rw [run_look]
  rcases hPlace with ⟨rfl, rfl⟩ | ⟨rfl, rfl⟩ | ⟨rfl, rfl⟩ <;> simp [run_onlyIf_true, hFree]

theorem seedWrite_sets {m page off : Nat} {data : Word} {d : RegDecl} {s : State} (hWf : Instr.wellFormed (.seedWrite m page off data) = true)
    (hTakes : s.takesWrite m page = true) (hPlace : (page, off) ∈ [(100, 0x220), (101, 0x244), (102, 0x230)]) (hFree : s.seedFree page = true)
    (hDecl : declAt page off = some d) :
    ∃ t, exec (.seedWrite m page off data) s = .next t ∧ t.reg page off = d.merge (s.reg page off) data := by
  obtain ⟨d', hPlain, -, -⟩ := plainReg_decl (plainReg_seed _ hPlace)
  obtain rfl : d' = d := Option.some.inj (hPlain.decl.symm.trans hDecl)
  have hPage : 13 < page ∧ page ≤ 128 ∧ off < 65536 ∧ startsWork page off = false := by
    simp only [List.mem_cons, Prod.mk.injEq, List.not_mem_nil, or_false] at hPlace
    rcases hPlace with ⟨rfl, rfl⟩ | ⟨rfl, rfl⟩ | ⟨rfl, rfl⟩ <;> decide
  obtain ⟨hLow, hHigh, hOff, hStart⟩ := hPage
  have hStarts : ∀ u, s.recorded u → u.writeRefused m page off data.toNat = false := by
    intro u hu
    have hFreeRec : u.seedFree page = true := (hu.seedFree page).trans hFree
    simp only [List.mem_cons, Prod.mk.injEq, List.not_mem_nil, or_false] at hPlace
    rcases hPlace with ⟨rfl, rfl⟩ | ⟨rfl, rfl⟩ | ⟨rfl, rfl⟩ <;> simp [State.writeRefused, startsWork, hFreeRec]
  have hRun : ∀ v, s.recorded v → (regDo m page off d' data).run v = (setReg page off (d'.merge (v.reg page off) data)).run v := fun v hv => by
    rw [regDo_fe ⟨hLow, hHigh⟩ hPlain.body (.inl hStart), feWrite_seed hPlace ((hv.seedFree page).trans hFree)]
  simp only [exec, execSeedWrite]
  refine command_hostWrite hWf hTakes hPlain hStarts (fun v hv => hRun v hv ▸ setReg_quiet v _ _ _) fun v t hv hSent => ?_
  rw [hRun v hv] at hSent
  rw [State.sends_reg hSent, State.reg, regsAt_setReg, if_pos rfl, hv.reg (by omega)]

theorem feWrite_memUse {b : Nat} {v data : Word} {s : State} (hb : b < 64) (hOk : s.memUseOk b (data.toNat % 16) = true) :
    (feWrite 100 (0x1000 + 4 * b) v data).run s = (setReg 100 (0x1000 + 4 * b) v).run s := by
  have hBank : (0x1000 + 4 * b - 0x1000) / 4 = b := by omega
  unfold feWrite
  rw [run_look]
  simp only [hBank]
  rw [if_neg (by simp), if_neg (by simp), if_neg (by simp), if_neg (by simp), if_neg (by simp; omega), if_neg (by simp; omega), if_pos (by simp)]
  simp [either, hOk]

theorem lpmMemUseWrite_sets {m off : Nat} {data : Word} {b : Nat} {s : State} (hWf : Instr.wellFormed (.lpmMemUseWrite m off data) = true)
    (hTakes : s.takesWrite m 100 = true) (hOff : off = 0x1000 + 4 * b) (hb : b < 64) (hOk : s.memUseOk b (data.toNat % 16) = true) :
    ∃ t, exec (.lpmMemUseWrite m off data) s = .next t ∧ t.rd (LPM_MEM_USE.USE b) = data.toNat % 16 := by
  subst hOff
  obtain ⟨d, hPlain, hRw, hClear⟩ := plainReg_decl (plainReg_memUse b hb)
  have hBank : (0x1000 + 4 * b - 0x1000) / 4 = b := by omega
  have hOkRec : ∀ u, s.recorded u → u.memUseOk b (data.toNat % 16) = true := fun u hu => (hu.memUseOk hb _).trans hOk
  have hStarts : ∀ u, s.recorded u → u.writeRefused m 100 (0x1000 + 4 * b) data.toNat = false := by
    intro u hu
    simp [State.writeRefused, startsWork, hOkRec u hu]
    omega
  have hRun : ∀ v, s.recorded v → (regDo m 100 (0x1000 + 4 * b) d data).run v =
      (setReg 100 (0x1000 + 4 * b) (d.merge (v.reg 100 (0x1000 + 4 * b)) data)).run v := fun v hv => by
    rw [regDo_fe (by decide) (by omega) (.inl (by simp [startsWork])), feWrite_memUse hb (hOkRec v hv)]
  simp only [exec, execLpmMemUseWrite]
  refine command_hostWrite hWf hTakes hPlain hStarts (fun v hv => hRun v hv ▸ setReg_quiet v _ _ _) fun v t hv hSent => ?_
  rw [hRun v hv] at hSent
  rw [State.sends_rd hSent]
  refine (rd_setReg_same v (LPM_MEM_USE.USE b) _).trans ((fieldOf_merge (fun i hi hi' => ?_) hClear).trans ?_)
  · rw [hRw]
    simp only [LPM_MEM_USE.USE] at hi hi'
    interval_cases i <;> rfl
  · simp [fieldOf, LPM_MEM_USE.USE]

/-! ### The move of a bucket, and the read of a module's SPD (R227, R391) -/

/-- A drained bucket that software names another pipeline for moves at once. -/
theorem bucketWrite_moves {k l : Nat} {s : State} (hAuto : s.rd PIPE_DIST_CFG.AUTO = 0) (hl : l < 16) (hNew : s.bucketPipe k ≠ l)
    (hDrained : s.bucketBusy k = false) : (bucketWrite k l).run s = (seqs [showPend k false, bumpF PIPE_DIST_STAT.MOVES 1]).run
      ((Prog.put (.bucketPend k none)).run ((setF (PIPE_BUCKET.LOGICAL k) l).run s)) := by
  unfold bucketWrite bucketMove bucketTo
  rw [run_look_onlyIf (by simp [hAuto, hl]), if_neg (by simpa using hNew), run_look, if_neg (by simp [hDrained]), run_seqs_cons, run_seqs_cons]
  rfl

theorem avoids_showPend {k : Nat} {v : Bool} {f : Fld} (h : (PIPE_BUCKET.PEND k).clear f) (hAny : PIPE_DIST_STAT.PEND.clear f) : (showPend k v).Avoids f :=
  avoids_andThen (avoids_setF h) (avoids_look fun _ => avoids_setF hAny)

theorem State.recorded.bucketBusy {s u : State} (h : s.recorded u) (k : Nat) : u.bucketBusy k = s.bucketBusy k := by
  have hIn : s.inQ = u.inQ := h.onlyIn .inQ (by decide)
  have hRec : s.recQ = u.recQ := h.onlyIn .recQ (by decide)
  have hUp : s.upQ = u.upQ := h.onlyIn .upQ (by decide)
  rw [State.bucketBusy, ← hIn, ← hRec, ← hUp]
  rfl

theorem State.same_bucketPendAt {s t : State} (h : s.same t .bucketPend) (k : Nat) : t.bucketPendAt k = s.bucketPendAt k := by
  have hSame : s.bucketPend = t.bucketPend := h
  rw [State.bucketPendAt, ← hSame]
  rfl

theorem bucketPendAt_put (s : State) (k : Nat) (v : Option Nat) : ((Prog.put (.bucketPend k v)).run s).bucketPendAt k = v :=
  (Sp.get_set _ _ _ _).trans (if_pos rfl)

theorem feWrite_bucket {k : Nat} {v data : Word} {s : State} : (feWrite 112 (0x1000 + 4 * k) v data).run s = (bucketWrite k (data.toNat % 32)).run s := by
  have hBucket : (0x1000 + 4 * k - 0x1000) / 4 = k := by omega
  unfold feWrite
  rw [run_look]
  simp only [hBucket]
  rw [if_neg (by simp), if_neg (by simp), if_neg (by simp), if_neg (by simp), if_neg (by simp), if_neg (by simp), if_neg (by simp), if_pos (by simp)]

theorem bucketWrite_sets {m bucket : Nat} {data : Word} {s : State} (hWf : Instr.wellFormed (.bucketWrite m bucket data) = true)
    (hTakes : s.takesWrite m 112 = true) (hAuto : s.rd PIPE_DIST_CFG.AUTO = 0) (hl : data.toNat % 32 < 16) (hNew : s.bucketPipe bucket ≠ data.toNat % 32)
    (hDrained : s.bucketBusy bucket = false) :
    ∃ t, exec (.bucketWrite m bucket data) s = .next t ∧ t.bucketPipe bucket = data.toNat % 32 ∧ t.bucketPendAt bucket = none := by
  have hBucket : bucket < 256 := by
    simp only [Instr.wellFormed, Bool.and_eq_true, decide_eq_true_eq] at hWf
    exact hWf.2
  obtain ⟨d, hPlain, -, -⟩ := plainReg_decl (plainReg_bucket bucket hBucket)
  have hAutoRec : ∀ u, s.recorded u → u.rd PIPE_DIST_CFG.AUTO = 0 := fun u hu => (hu.rd (by decide)).trans hAuto
  have hStarts : ∀ u, s.recorded u → u.writeRefused m 112 (0x1000 + 4 * bucket) data.toNat = false := by
    intro u hu
    simp [State.writeRefused, startsWork, hAutoRec u hu, hl]
  have hRun : ∀ v, s.recorded v → (regDo m 112 (0x1000 + 4 * bucket) d data).run v = (seqs [showPend bucket false, bumpF PIPE_DIST_STAT.MOVES 1]).run
      ((Prog.put (.bucketPend bucket none)).run ((setF (PIPE_BUCKET.LOGICAL bucket) (data.toNat % 32)).run v)) := by
    intro v hv
    have hPipe : v.bucketPipe bucket = s.bucketPipe bucket := by rw [State.bucketPipe, hv.rd (by simp only [PIPE_BUCKET.LOGICAL]; omega)]; rfl
    rw [regDo_fe (by decide) (by omega) (.inl (by simp [startsWork])), feWrite_bucket]
    exact bucketWrite_moves (hAutoRec v hv) hl (hPipe ▸ hNew) ((hv.bucketBusy bucket).trans hDrained)
  have hTail : (seqs [showPend bucket false, bumpF PIPE_DIST_STAT.MOVES 1]).Avoids (PIPE_BUCKET.LOGICAL bucket) :=
    avoids_seqs_cons (avoids_showPend (by simp only [Fld.clear, PIPE_BUCKET.PEND, PIPE_BUCKET.LOGICAL]; omega)
        (by simp only [Fld.clear, PIPE_DIST_STAT.PEND, PIPE_BUCKET.LOGICAL, regKey]; omega))
      (avoids_seqs_cons (avoids_bumpF (by simp only [Fld.clear, PIPE_DIST_STAT.MOVES, PIPE_BUCKET.LOGICAL, regKey]; omega)) avoids_seqs_nil)
  have hBegin : ∀ v : State, v.quiet ((Prog.put (.bucketPend bucket none)).run ((setF (PIPE_BUCKET.LOGICAL bucket) (data.toNat % 32)).run v)) :=
    fun _ => ⟨rfl, rfl⟩
  simp only [exec, execBucketWrite]
  refine command_hostWrite hWf hTakes hPlain hStarts (fun v hv => ?_) fun v t hv hSent => ?_
  · rw [hRun v hv]
    exact State.quiet_trans (hBegin v) (hTail _).quiet
  · rw [hRun v hv] at hSent
    have hKept := hTail ((Prog.put (.bucketPend bucket none)).run ((setF (PIPE_BUCKET.LOGICAL bucket) (data.toNat % 32)).run v))
    constructor
    · rw [State.bucketPipe, State.sends_rd hSent, hKept.field, rd_put _ (by simp), rd_setF_fits _ (by simp only [PIPE_BUCKET.LOGICAL]; omega)]
      omega
    · rw [State.same_bucketPendAt (State.sends_onlyIn hSent .bucketPend (by decide)), State.same_bucketPendAt (hKept.pieces .bucketPend (by decide)),
        bucketPendAt_put]

theorem plainReg_spdCmd : ∀ ch < 16, plainReg (152 + ch) 0x244 0 = true := by decide +kernel

theorem tmWrite_spdCmd {m ch : Nat} (hCh : ch < 16) (v data : Word) (s : State) : (tmWrite m (152 + ch) 0x244 v data).run s = (spdGo ch data.toNat).run s := by
  unfold tmWrite
  rw [run_look]
  simp only [Nat.add_sub_cancel_left]
  rw [if_neg (by simp [isQuota]), if_neg (by simp), if_neg (by simp), if_neg (by simp), if_neg (by simp), if_pos (by simp; omega)]

theorem spdCmd_begins {m ch : Nat} {data : Word} {s : State} (hWf : Instr.wellFormed (.spdCmd m ch data) = true) (hTakes : s.takesCmd m (152 + ch) = true)
    (hBusy : s.rd (DDRC_SPD_CMD.BUSY ch) = 0) :
    ∃ t, exec (.spdCmd m ch data) s = .next t ∧ t.rd (DDRC_SPD_CMD.BUSY ch) = 1 ∧ t.rd (DDRC_SPD_CMD.ERR ch) = 0 := by
  obtain ⟨hWrite, hEn⟩ := takesCmd_takes hTakes
  have hCh : ch < 16 := by
    simp only [Instr.wellFormed, Bool.and_eq_true, decide_eq_true_eq] at hWf
    exact hWf.2
  obtain ⟨d, hPlain, -, -⟩ := plainReg_decl (plainReg_spdCmd ch hCh)
  have hGo : bitOf (data ||| 1).toNat 0 = true := by
    rw [bitOf_toNat, BitVec.getLsbD_or]
    simp
  generalize hData : data ||| 1 = n at hGo
  have hBusyRec : ∀ u, s.recorded u → u.rd (DDRC_SPD_CMD.BUSY ch) = 0 := fun u hu => (hu.rd (by simp only [DDRC_SPD_CMD.BUSY]; omega)).trans hBusy
  have hStarts : ∀ u, s.recorded u → u.writeRefused m (152 + ch) 0x244 n.toNat = false := by
    intro u hu
    have hOn := hu.enabled (page := 152 + ch) (by omega) hEn
    have hPage : 152 + ch < 168 ∧ 152 + ch ≠ 101 := by omega
    simp [State.writeRefused, hOn, hBusyRec u hu, hGo, isQuota, hPage]
  have hRun : ∀ v, s.recorded v → ∃ e, (regDo m (152 + ch) 0x244 d n).run v =
      (emit e).run ((setF (DDRC_SPD_CMD.ERR ch) 0).run ((setF (DDRC_SPD_CMD.BUSY ch) 1).run v)) := by
    intro v hv
    rw [regDo_tm (by omega) (by decide) (.inr (hv.enabled (by omega) hEn)), tmWrite_spdCmd hCh]
    unfold spdGo
    rw [run_look_onlyIf (by simp [hGo, hBusyRec v hv]), run_seqs_cons, run_seqs_cons, run_seqs_cons, run_seqs_nil]
    exact ⟨_, rfl⟩
  simp only [exec, execSpdCmd, hData]
  refine command_hostWrite hWf hWrite hPlain hStarts (fun v hv => ?_) fun v t hv hSent => ?_
  · obtain ⟨e, hDo⟩ := hRun v hv
    rw [hDo]
    exact ⟨rfl, rfl⟩
  · obtain ⟨e, hDo⟩ := hRun v hv
    rw [hDo] at hSent
    rw [State.sends_rd hSent, State.sends_rd hSent, rd_emit, rd_emit, rd_setF_apart (f := DDRC_SPD_CMD.BUSY ch) _ _ (by
      simp only [Fld.apart, DDRC_SPD_CMD.BUSY, DDRC_SPD_CMD.ERR]; omega)]
    exact ⟨rd_setF_fits _ (by simp only [DDRC_SPD_CMD.BUSY]; omega), rd_setF_fits _ (by simp only [DDRC_SPD_CMD.ERR]; omega)⟩

end Sys2Proof.Machine
end
-- ==== Sys2Proof/Proofs/QueueFlush.lean ====
section
/-!
PROOF. The flush of a queue (spec/07_buffers.md R280): what it gives back and discards leaves it begun.
-/
namespace Sys2Proof.Machine

/-!
### Buffers that go back (R254, R255, R273)

A lemma `flush_p` says that the program `p`, which a flush runs for what its queue held, leaves QM_FLUSH.BUSY and what has begun.
-/

theorem flush_raise {page bit : Nat} (hPage : page < 1024) : (raise page bit).Avoids QM_FLUSH.BUSY := avoids_raise fun g hg => by
  simp only [irqFlds, List.mem_cons, List.not_mem_nil, or_false] at hg
  rcases hg with rfl | rfl | rfl <;> simp only [Fld.clear, regKey, PCIE_LINK_STAT.IN_L1, QM_FLUSH.BUSY] <;> omega

theorem flush_showPool {t k : Nat} : (showPool t k).Avoids QM_FLUSH.BUSY :=
  avoids_look fun _ => avoids_setF (by simp only [Fld.clear, regKey, BPM_POOL_STAT.FREE_BUF, QM_FLUSH.BUSY]; omega)

theorem flush_putFreeAges {v : List (Nat × Nat × Nat)} : (Prog.put (.freeAges v)).Avoids QM_FLUSH.BUSY :=
  avoids_put (show Piece.freeAges ∉ begunPieces by decide) (by simp) (by simp)

theorem flush_wakeRegion {toPool : Bool} : (wakeRegion toPool).Avoids QM_FLUSH.BUSY := avoids_draw fun _ => avoids_look fun _ =>
  avoids_ite flush_putFreeAges (avoids_ite flush_putFreeAges (avoids_onlyIf (avoids_seqs_cons
    (avoids_put (show Piece.sruMask ∉ begunPieces by decide) (by simp) (by simp))
    (avoids_seqs_cons (avoids_setF (by decide)) (avoids_seqs_cons flush_putFreeAges avoids_seqs_nil)))))

theorem flush_setFree {t v : Nat} : (setF (BPM_TIER_FREE.FREE t) v).Avoids QM_FLUSH.BUSY :=
  avoids_setF (by simp only [Fld.clear, BPM_TIER_FREE.FREE, QM_FLUSH.BUSY]; omega)

theorem flush_setRegions {t k v : Nat} : (setF (BPM_POOL_STAT.REGIONS t k) v).Avoids QM_FLUSH.BUSY :=
  avoids_setF (by simp only [Fld.clear, BPM_POOL_STAT.REGIONS, QM_FLUSH.BUSY]; omega)

theorem flush_moveRegion {t k : Nat} {toPool : Bool} : (moveRegion t k toPool).Avoids QM_FLUSH.BUSY :=
  avoids_andThen (avoids_onlyIf flush_wakeRegion) (avoids_look fun _ => avoids_ite
    (avoids_seqs_cons flush_setFree (avoids_seqs_cons flush_setRegions (avoids_seqs_cons (avoids_onlyIf (flush_raise (by decide))) avoids_seqs_nil)))
    (avoids_andThen flush_setFree flush_setRegions))

theorem flush_poolsFill {t : Nat} : (poolsFill t).Avoids QM_FLUSH.BUSY := avoids_each fun _ _ => avoids_look fun _ => avoids_onlyIf
  (avoids_andThen (avoids_each fun _ _ => flush_moveRegion) flush_showPool)

theorem flush_poolReturn {t k step : Nat} : (poolReturn t k step).Avoids QM_FLUSH.BUSY :=
  have hGive : ∀ m, (onlyIf (m != 0) (.andThen (each (List.range m) (fun _ => moveRegion t k false)) (poolsFill t))).Avoids QM_FLUSH.BUSY := fun _ =>
    avoids_onlyIf (avoids_andThen (avoids_each fun _ _ => flush_moveRegion) flush_poolsFill)
  avoids_look fun _ => avoids_ite avoids_skip (avoids_ite (hGive _) (avoids_draw fun _ => hGive _))

theorem flush_poolGive {t k : Nat} : (poolGive t k).Avoids QM_FLUSH.BUSY := avoids_look fun _ =>
  avoids_seqs_cons (avoids_put (show Piece.poolUse ∉ begunPieces by decide) (by simp) (by simp))
    (avoids_seqs_cons flush_poolReturn (avoids_seqs_cons flush_showPool avoids_seqs_nil))

theorem flush_showUse {t r : Nat} : (showUse t r).Avoids QM_FLUSH.BUSY := avoids_look fun _ => avoids_ite
  (avoids_setF (by simp only [Fld.clear, BPM_REQ_USE.T1_KIB, QM_FLUSH.BUSY]; omega))
  (avoids_ite (avoids_setF (by simp only [Fld.clear, BPM_REQ_USE.HBM_MIB, QM_FLUSH.BUSY]; omega))
    (avoids_setF (by simp only [Fld.clear, BPM_REQ_USE.GRN_MIB, QM_FLUSH.BUSY]; omega)))

theorem avoids_showResv {f : Fld} {t : Nat} (h : (BPM_TIER_RESV.RESV (t - 1)).clear f) : (showResv t).Avoids f := avoids_look fun _ => avoids_setF h

theorem flush_giveBuffer {t r size : Nat} : (giveBuffer t r size).Avoids QM_FLUSH.BUSY := avoids_look fun _ => avoids_andThen flush_poolGive
  (avoids_seqs_cons (avoids_put (show Piece.reqUse ∉ begunPieces by decide) (by simp) (by simp)) (avoids_seqs_cons flush_showUse
    (avoids_seqs_cons (avoids_showResv (by simp only [Fld.clear, BPM_TIER_RESV.RESV, QM_FLUSH.BUSY]; omega)) avoids_seqs_nil)))

theorem flush_freeBuffer {id : Nat} : (freeBuffer id).Avoids QM_FLUSH.BUSY := avoids_look fun _ => avoids_onlyIf
  (avoids_andThen flush_giveBuffer (avoids_put (show Piece.bufs ∉ begunPieces by decide) (by simp) (by simp)))

theorem flush_reportError {access space addr master cls kind data : Nat} :
    (reportError 144 access space addr master cls kind data).Avoids QM_FLUSH.BUSY :=
  avoids_of_keeps (T := []) (keeps_reportError (List.Subset.refl errPieces) (List.Subset.refl _)) (by decide) (by decide)

theorem flush_releaseBuffer {id : Nat} : (releaseBuffer id).Avoids QM_FLUSH.BUSY := avoids_look fun _ => avoids_ite
  (avoids_seqs_cons (avoids_bumpF (by decide)) (avoids_seqs_cons flush_reportError (avoids_seqs_cons (flush_raise (by decide)) avoids_seqs_nil)))
  (avoids_andThen (avoids_put (show Piece.bufs ∉ begunPieces by decide) (by simp) (by simp)) flush_freeBuffer)

/-! ### Accesses to the lower tiers (R397, R405, R407) -/

theorem flush_activate {t bank r : Nat} : (activate t bank r).Avoids QM_FLUSH.BUSY := by
  have hTable : ∀ k x, (Prog.put (.actTab k x)).Avoids QM_FLUSH.BUSY := fun _ _ =>
    avoids_put (show Piece.actTab ∉ begunPieces by decide) (by simp) (by simp)
  have hCount : (tgtNref t).clear QM_FLUSH.BUSY := by
    simp only [Fld.clear, regKey, tgtNref, tgtFld, tgtPage, QM_FLUSH.BUSY]
    cases isStack t <;> simp <;> omega
  exact avoids_look fun _ => avoids_ite (avoids_seqs_cons (hTable _ _) (avoids_seqs_cons (avoids_bumpF hCount) (avoids_seqs_cons avoids_emit
    (avoids_seqs_cons (avoids_put (show Piece.openRow ∉ begunPieces by decide) (by simp) (by simp)) avoids_seqs_nil)))) (hTable _ _)

theorem flush_rowAccess {t bank row cls : Nat} : (rowAccess t bank row cls).Avoids QM_FLUSH.BUSY := by
  have hRow : ∀ k x, (Prog.put (.openRow k x)).Avoids QM_FLUSH.BUSY := fun _ _ =>
    avoids_put (show Piece.openRow ∉ begunPieces by decide) (by simp) (by simp)
  refine avoids_look fun s => ?_
  simp only
  cases s.openRowAt (bankKey t bank) with
  | none => exact avoids_andThen (hRow _ _) flush_activate
  | some o => exact avoids_ite (hRow _ _) (avoids_andThen (hRow _ _) flush_activate)

theorem flush_lateAccess {tier cls c : Nat} : (lateAccess tier cls c).Avoids QM_FLUSH.BUSY := by
  refine avoids_look fun s => ?_
  cases s.memPlace tier (s.accAddr tier cls c) false with
  | none => exact avoids_skip
  | some x => exact avoids_ite flush_rowAccess (avoids_put (show Piece.actWait ∉ begunPieces by decide) (by simp) (by simp))

theorem flush_lowerGive {t r size : Nat} : (lowerGive t r size).Avoids QM_FLUSH.BUSY :=
  avoids_andThen flush_giveBuffer (avoids_draw fun _ => flush_lateAccess)

theorem flush_tierRelease {tier req : Nat} {x : Pkt × Nat × Option Nat} : (tierRelease tier req x).Avoids QM_FLUSH.BUSY := by
  have hTwins : ∀ v, (Prog.put (.twins v)).Avoids QM_FLUSH.BUSY := fun _ => avoids_put (show Piece.twins ∉ begunPieces by decide) (by simp) (by simp)
  refine avoids_look fun s => ?_
  cases x.2.2 with
  | none => exact flush_lowerGive
  | some t =>
    simp only
    cases s.twins.find? (fun w => w.id == t) with
    | none => exact avoids_skip
    | some w => exact avoids_ite (hTwins _) (avoids_andThen flush_lowerGive (hTwins _))

/-! ### Packets discarded (R231, R280, R301) -/

theorem flush_putBody {i : Nat} {b : Body} : (Prog.put (.bodies i b)).Avoids QM_FLUSH.BUSY :=
  avoids_put (show Piece.bodies ∉ begunPieces by decide) (by simp) (by simp)

theorem flush_mcOutcome {b : Body} : (mcOutcome b).Avoids QM_FLUSH.BUSY := by
  unfold mcOutcome
  cases b.group with
  | none => exact avoids_skip
  | some g =>
    have hPartial : (bump64 MCR_PARTIAL_LO.COUNT MCR_PARTIAL_HI.COUNT).Avoids QM_FLUSH.BUSY :=
      avoids_look fun _ => avoids_andThen (avoids_setF (by decide)) (avoids_setF (by decide))
    have hUndelivered : (bump64 MCR_UNDELIV_LO.COUNT MCR_UNDELIV_HI.COUNT).Avoids QM_FLUSH.BUSY :=
      avoids_look fun _ => avoids_andThen (avoids_setF (by decide)) (avoids_setF (by decide))
    exact avoids_ite (avoids_andThen avoids_count hPartial) (avoids_ite (avoids_andThen avoids_count hUndelivered) avoids_skip)

theorem flush_derefBody {i : Nat} : (derefBody i).Avoids QM_FLUSH.BUSY := avoids_look fun _ => avoids_ite flush_putBody
  (avoids_ite (avoids_andThen flush_mcOutcome flush_putBody) flush_putBody)

/-- A record of no packet for the host. -/
theorem flush_hostPush {qp rec_ : Nat} {head : List Nat} : (hostPush qp { rec_ := rec_, head := head }).Avoids QM_FLUSH.BUSY :=
  avoids_look fun _ => avoids_ite (avoids_bumpF (by decide)) (avoids_ite (avoids_andThen avoids_count avoids_bumpTabF)
    (avoids_put (show Piece.hostQ ∉ begunPieces by decide) (by simp) (by simp)))

theorem flush_refusalReport {reason queue colour other srcPort len : Nat} {atIngress : Bool} :
    (refusalReport reason queue colour atIngress other srcPort len).Avoids QM_FLUSH.BUSY := by
  have hReport : ∀ v, (Prog.put (.rptX v)).Avoids QM_FLUSH.BUSY := fun _ => avoids_put (show Piece.rptX ∉ begunPieces by decide) (by simp) (by simp)
  exact avoids_look fun _ => avoids_onlyIf (avoids_ite (hReport _) (avoids_ite
    (avoids_seqs_cons (hReport _) (avoids_seqs_cons (avoids_bumpF (by decide)) (avoids_seqs_cons (flush_raise (by decide)) avoids_seqs_nil)))
    (avoids_andThen (hReport _) flush_hostPush)))

theorem flush_qDiscard {q reason : Nat} {p : Pkt} : (qDiscard q p reason).Avoids QM_FLUSH.BUSY :=
  avoids_seqs_cons avoids_count (avoids_seqs_cons avoids_count (avoids_seqs_cons (avoids_onlyIf (avoids_look fun _ => flush_refusalReport))
    (avoids_seqs_cons (avoids_look fun _ => avoids_onlyIf flush_putBody) (avoids_seqs_cons (avoids_onlyIf flush_releaseBuffer)
      (avoids_seqs_cons flush_derefBody avoids_seqs_nil)))))

/-- A queue without its packets: what it uses and what it was granted. -/
def QX.flushed (x : QX) : QX := { used := x.used, usedAt := x.usedAt, granted := x.granted }

/-- What a flush gives back and discards: all but the queue itself. -/
def flushRest (q reason : Nat) (s : State) : Prog :=
  let x := s.qxAt q
  let r := s.rootPort q
  seqs [
    onlyIf x.spill (spillCount BUF_SPILL_Q.COUNT false),
    onlyIf x.blocked (spillCount BUF_BLOCKED_Q.COUNT false),
    onlyIf x.fitWait (setF SCH_STAT.FIT_WAIT (s.rd SCH_STAT.FIT_WAIT - 1)),
    onlyIf x.grnDrain (setMill (nodeKey 4 q) 4 false),
    each (match x.writing with | some b => b.seg | none => []) (tierRelease ((x.writing.map Batch.tier).getD 2) r),
    each x.head (fun p => qDiscard q p reason),
    each x.mid (fun g => each g.pkts (fun y => .andThen (tierRelease g.tier r y) (qDiscard q { y.1 with buf := 0 } reason))),
    each x.tail (fun p => qDiscard q p reason)]

theorem flushQueue_run (q reason : Nat) (s : State) : (flushQueue q reason).run s = (flushRest q reason s).run
    ((Prog.put (.qx q (s.qxAt q).flushed)).run s) := rfl

theorem flush_rest {q reason : Nat} {s : State} : (flushRest q reason s).Avoids QM_FLUSH.BUSY :=
  avoids_seqs_cons (avoids_onlyIf (avoids_look fun _ => avoids_setF (by decide)))
    (avoids_seqs_cons (avoids_onlyIf (avoids_look fun _ => avoids_setF (by decide)))
      (avoids_seqs_cons (avoids_onlyIf (avoids_setF (by decide)))
        (avoids_seqs_cons (avoids_onlyIf (avoids_look fun _ => avoids_put (show Piece.mill ∉ begunPieces by decide) (by simp) (by simp)))
          (avoids_seqs_cons (avoids_each fun _ _ => flush_tierRelease)
            (avoids_seqs_cons (avoids_each fun _ _ => flush_qDiscard)
              (avoids_seqs_cons (avoids_each fun _ _ => avoids_each fun _ _ => avoids_andThen flush_tierRelease flush_qDiscard)
                (avoids_seqs_cons (avoids_each fun _ _ => flush_qDiscard) avoids_seqs_nil)))))))

/-! ### QUEUE_FLUSH (R280) -/

theorem plainReg_flush : plainReg 176 0x210 0x7FFFF = true := by decide +kernel

/-- The number of the queue is below the bit that starts the flush. -/
theorem queue_setBit31 (data : Word) : (setFieldOf data 31 31 1).toNat % 2 ^ 19 = data.toNat % 2 ^ 19 := by
  have hField : fieldOf (setFieldOf data 31 31 1) 18 0 = fieldOf data 18 0 := fieldOf_congr fun b _ hb => by
    rw [getLsbD_setFieldOf _ _ _ _ _ (by omega), if_neg (by omega)]
  simpa [fieldOf] using hField

/-- The state in which a flush has begun, its queue still full. -/
def flushBegun (q : Nat) (s : State) : State :=
  (Prog.put (.flushing (some (q, s.mono)))).run ((setF QM_FLUSH.BUSY 1).run ((setF QM_FLUSH.GO 1).run ((setF QM_FLUSH.QUEUE q).run s)))

theorem flushGo_run {n : Nat} {s : State} (hGo : bitOf n 31 = true) (hBusy : s.rd QM_FLUSH.BUSY = 0) :
    (flushGo n).run s = (flushQueue (n % 2 ^ 19) 0xC7).run (flushBegun (n % 2 ^ 19) s) := by
  unfold flushGo
  rw [run_look, run_andThen, run_onlyIf_true _ _ (by simp [hBusy, hGo]), run_onlyIf_true _ _ (by simp [hBusy]), run_seqs_cons, run_seqs_cons, run_seqs_cons,
    run_seqs_cons, run_seqs_nil]
  rfl

theorem tmWrite_flush {m : Nat} (v data : Word) (s : State) : (tmWrite m 176 0x210 v data).run s = (flushGo data.toNat).run s := rfl

theorem State.same_qxAt {s t : State} (h : s.same t .qx) (q : Nat) : t.qxAt q = s.qxAt q := by
  have hSame : s.qx = t.qx := h
  rw [State.qxAt, ← hSame]
  rfl

theorem qxAt_put (s : State) (q : Nat) (x : QX) : ((Prog.put (.qx q x)).run s).qxAt q = x := (Sp.get_set _ _ _ _).trans (if_pos rfl)

/-- A flush that has begun shows BUSY, its queue and the time, and leaves the queue empty. -/
theorem flushQueue_flushes (q reason : Nat) (s : State) :
    ((flushQueue q reason).run (flushBegun q s)).rd QM_FLUSH.BUSY = 1 ∧ ((flushQueue q reason).run (flushBegun q s)).flushing = some (q, s.mono) ∧
      (((flushQueue q reason).run (flushBegun q s)).qxAt q).head = [] ∧ (((flushQueue q reason).run (flushBegun q s)).qxAt q).mid = [] ∧
      (((flushQueue q reason).run (flushBegun q s)).qxAt q).tail = [] := by
  have hRest := flush_rest (q := q) (reason := reason) (s := flushBegun q s)
    ((Prog.put (.qx q ((flushBegun q s).qxAt q).flushed)).run (flushBegun q s))
  rw [← flushQueue_run] at hRest
  refine ⟨?_, (show _ = _ from hRest.pieces .flushing (by decide)).symm, ?_⟩
  · rw [hRest.field, rd_put _ (by simp), flushBegun, rd_put _ (by simp)]
    exact rd_setF_fits _ (by decide)
  · rw [State.same_qxAt (hRest.pieces .qx (by decide)), qxAt_put]
    exact ⟨rfl, rfl, rfl⟩

theorem flushQueue_quiet (q reason : Nat) (s : State) : s.quiet ((flushQueue q reason).run (flushBegun q s)) := by
  have hBegun : s.quiet (flushBegun q s) := ⟨rfl, rfl⟩
  have hPut : ∀ x, (flushBegun q s).quiet ((Prog.put (.qx q x)).run (flushBegun q s)) := fun _ => ⟨rfl, rfl⟩
  rw [flushQueue_run]
  exact State.quiet_trans hBegun (State.quiet_trans (hPut _) (flush_rest _).quiet)

theorem queueFlush_empties {m : Nat} {data : Word} {s : State} (hWf : Instr.wellFormed (.queueFlush m data) = true) (hTakes : s.takesCmd m 176 = true)
    (hBusy : s.rd QM_FLUSH.BUSY = 0) :
    ∃ t, exec (.queueFlush m data) s = .next t ∧ t.rd QM_FLUSH.BUSY = 1 ∧ t.flushing = some (data.toNat % 2 ^ 19, s.mono) ∧
      (t.qxAt (data.toNat % 2 ^ 19)).head = [] ∧ (t.qxAt (data.toNat % 2 ^ 19)).mid = [] ∧ (t.qxAt (data.toNat % 2 ^ 19)).tail = [] := by
  obtain ⟨hWrite, hEn⟩ := takesCmd_takes hTakes
  obtain ⟨d, hPlain, -, -⟩ := plainReg_decl plainReg_flush
  have hGo : bitOf (setFieldOf data 31 31 1).toNat 31 = true := (bitOf_toNat _ _).trans (getLsbD_setBit31 data)
  have hQueue := queue_setBit31 data
  have hBusyRec : ∀ u, s.recorded u → u.rd QM_FLUSH.BUSY = 0 := fun u hu => (hu.rd (by decide)).trans hBusy
  have hStarts : ∀ u, s.recorded u → u.writeRefused m 176 0x210 (setFieldOf data 31 31 1).toNat = false := by
    intro u hu
    simp [State.writeRefused, hu.enabled (page := 176) (by decide) hEn, hBusyRec u hu, isQuota]
  have hRun : ∀ v, s.recorded v → (regDo m 176 0x210 d (setFieldOf data 31 31 1)).run v =
      (flushQueue (data.toNat % 2 ^ 19) 0xC7).run (flushBegun (data.toNat % 2 ^ 19) v) := by
    intro v hv
    rw [regDo_tm (by decide) (by decide) (.inr (hv.enabled (by decide) hEn)), tmWrite_flush, flushGo_run hGo (hBusyRec v hv), hQueue]
  simp only [exec, execQueueFlush]
  refine command_hostWrite hWf hWrite hPlain hStarts (fun v hv => ?_) fun v t hv hSent => ?_
  · rw [hRun v hv]
    exact flushQueue_quiet _ _ v
  · rw [hRun v hv] at hSent
    obtain ⟨hShown, hFlushing, hEmpty⟩ := flushQueue_flushes (data.toNat % 2 ^ 19) 0xC7 v
    have hMono : v.mono = s.mono := hv.mono
    rw [State.sends_rd hSent, State.same_qxAt (State.sends_onlyIn hSent .qx (by decide)), ← hMono]
    exact ⟨hShown, (show _ = t.flushing from State.sends_onlyIn hSent .flushing (by decide)).symm.trans hFlushing, hEmpty⟩

end Sys2Proof.Machine
end
-- ==== Sys2Proof/Proofs/GranaryAndLinks.lean ====
section
/-!
PROOF. The Granary enabled again (spec/10_memory_controllers.md R414, spec/07_buffers.md R286), and the states of fabric links (spec/09_fabric.md R339, R343).
-/
namespace Sys2Proof.Machine

/-! ### The Granary enabled again (R286, R414) -/

/-- With PASR_EN 0 no unit stays masked. -/
def grnUnmask (n idle : Nat) : Prog := onlyIf (!bitOf n 30 && idle != 0) (.andThen (setF GRN_STAT.IDLE_REGIONS 0) (.put (.sruMask [])))

/-- The channels that train again, at a rate, and those that stay trained. -/
def grnRetrain (again l : List Nat) (rate : Nat) : Prog := seqs [
  each again (fun t => seqs [
    setTgt t 2 0,
    onlyIf (rate != 0) (setF (DDRC_STAT.RATE_MTS (t - 4)) rate),
    setMem t (fun x => { x with trained := false, drifts := 0, driftAt := none, ues := [] })]),
  each l (fun t => .andThen (setTgt t 2 0) (setMem t (fun x => { x with trained := true })))]

/-- EN that rises on a lost Granary names its master, and trains. -/
theorem grnCfgWrite_rises {m n : Nat} {s : State} (hOn : bitOf n 31 = true) (hOff : s.rd GRN_CFG.EN = 0) (hLost : s.rd GRN_STAT.STATE = 3) :
    ∃ again l rate, (grnCfgWrite m n).run s = (grnRetrain again l rate).run ((setF GRN_STAT.STATE 1).run ((grnUnmask n (s.rd GRN_STAT.IDLE_REGIONS)).run
      ((Prog.put (.grnBy m)).run ((setReg 146 0x200 (BitVec.ofNat 32 n)).run s)))) := by
  unfold grnCfgWrite
  rw [run_look, run_andThen, run_onlyIf_true _ _ (by simp [hOn, hOff, hLost]), run_seqs_cons (setF GRN_STAT.STATE 1), run_seqs_cons (setReg _ _ _),
    run_seqs_cons (onlyIf _ _), run_onlyIf_true _ _ (by simp [hOn, hOff])]
  exact ⟨_, _, _, rfl⟩

/-- A field of the Granary's page above the count of idle regions. -/
def Fld.ofGranary (f : Fld) : Prop := f.page = 146 ∧ (f.off = 0x200 ∨ f.off = 0x208 ∧ 16 ≤ f.lo)

section Granary
variable {f : Fld}

theorem avoids_grnUnmask {n idle : Nat} (h : f.ofGranary) : (grnUnmask n idle).Avoids f := by
  obtain ⟨hPage, hPlace⟩ := h
  exact avoids_onlyIf (avoids_andThen (avoids_setF (by simp only [Fld.clear, regKey, GRN_STAT.IDLE_REGIONS]; omega))
    (avoids_put (show Piece.sruMask ∉ begunPieces by decide) (by simp) (by simp)))

theorem tgt_clear {t hi lo : Nat} (h : f.ofGranary) : (tgtFld t 0x210 0x210 hi lo).clear f := by
  obtain ⟨hPage, hPlace⟩ := h
  simp only [Fld.clear, regKey, tgtFld, ite_self]
  omega

theorem avoids_setTgt {t st cause : Nat} (h : f.ofGranary) : (setTgt t st cause).Avoids f :=
  avoids_andThen (avoids_setF (tgt_clear h)) (avoids_setF (tgt_clear h))

theorem avoids_setMem {t : Nat} {g : MemX → MemX} : (setMem t g).Avoids f :=
  avoids_look fun _ => avoids_put (show Piece.memX ∉ begunPieces by decide) (by simp) (by simp)

theorem avoids_grnRetrain {again l : List Nat} {rate : Nat} (h : f.ofGranary) : (grnRetrain again l rate).Avoids f := by
  have hRate : ∀ d, (DDRC_STAT.RATE_MTS d).clear f := fun d => by
    obtain ⟨hPage, hPlace⟩ := h
    simp only [Fld.clear, regKey, DDRC_STAT.RATE_MTS]
    omega
  exact avoids_seqs_cons
    (avoids_each fun _ _ => avoids_seqs_cons (avoids_setTgt h) (avoids_seqs_cons (avoids_onlyIf (avoids_setF (hRate _)))
      (avoids_seqs_cons avoids_setMem avoids_seqs_nil)))
    (avoids_seqs_cons (avoids_each fun _ _ => avoids_andThen (avoids_setTgt h) avoids_setMem) avoids_seqs_nil)

end Granary

theorem plainReg_grnCfg : plainReg 146 0x200 0xC0000000 = true := by decide +kernel

theorem tmWrite_grnCfg {m : Nat} (v data : Word) (s : State) : (tmWrite m 146 0x200 v data).run s = (grnCfgWrite m v.toNat).run s := rfl

theorem getLsbD_merge {d : RegDecl} {old data : Word} {b : Nat} (hRw : (BitVec.ofNat 32 d.rw).getLsbD b = true) (hClear : d.w1c = 0) (hb : b < 32) :
    (d.merge old data).getLsbD b = data.getLsbD b := by
  simp only [RegDecl.merge, hClear, BitVec.getLsbD_and, BitVec.getLsbD_or, BitVec.getLsbD_not, hRw]
  simp [hb]

theorem fieldOf_bit (w : Word) (b : Nat) : fieldOf w b b = b2n (w.getLsbD b) := by
  rw [fieldOf, Nat.shiftRight_eq_div_pow, Nat.add_sub_cancel_left, pow_one, ← Nat.toNat_testBit, BitVec.getLsbD]
  cases w.toNat.testBit b <;> rfl

theorem State.same_grnBy {s t : State} (h : s.same t .grnBy) : t.grnBy = s.grnBy := Eq.symm h

theorem grnBy_put (s : State) (m : Nat) : ((Prog.put (.grnBy m)).run s).grnBy = m := rfl

theorem grnBy_setF (s : State) (f : Fld) (v : Nat) : ((setF f v).run s).grnBy = s.grnBy := rfl

theorem granaryReenable_rises {m : Nat} {data : Word} {s : State} (hWf : Instr.wellFormed (.granaryReenable m data) = true)
    (hTakes : s.takesWrite m 146 = true) (hOn : data.getLsbD 31 = true) (hOff : s.rd GRN_CFG.EN = 0) (hLost : s.rd GRN_STAT.STATE = 3) :
    ∃ t, exec (.granaryReenable m data) s = .next t ∧ t.rd GRN_CFG.EN = 1 ∧ t.rd GRN_STAT.STATE = 1 ∧ t.grnBy = m := by
  obtain ⟨d, hPlain, hRw, hClear⟩ := plainReg_decl plainReg_grnCfg
  have hBit : (BitVec.ofNat 32 d.rw).getLsbD 31 = true := by rw [hRw]; rfl
  have hStarts : ∀ u, s.recorded u → u.writeRefused m 146 0x200 data.toNat = false := fun u _ => by
    simp [State.writeRefused, startsWork, isQuota]
  have hEnSet : ∀ old : Word, (d.merge old data).getLsbD 31 = true := fun old => (getLsbD_merge hBit hClear (by decide)).trans hOn
  have hRun : ∀ v, s.recorded v → ∃ again l rate, (regDo m 146 0x200 d data).run v = (grnRetrain again l rate).run ((setF GRN_STAT.STATE 1).run
      ((grnUnmask (d.merge (v.reg 146 0x200) data).toNat (v.rd GRN_STAT.IDLE_REGIONS)).run ((Prog.put (.grnBy m)).run
        ((setReg 146 0x200 (d.merge (v.reg 146 0x200) data)).run v)))) := by
    intro v hv
    obtain ⟨again, l, rate, hRises⟩ := grnCfgWrite_rises (m := m) (n := (d.merge (v.reg 146 0x200) data).toNat) (s := v)
      ((bitOf_toNat _ _).trans (hEnSet _)) ((hv.rd (by decide)).trans hOff) ((hv.rd (by decide)).trans hLost)
    rw [BitVec.ofNat_toNat, BitVec.setWidth_eq] at hRises
    exact ⟨again, l, rate, by rw [regDo_tm (by decide) (by decide) (.inl rfl), tmWrite_grnCfg, hRises]⟩
  have hBegin : ∀ (v : State) w, v.quiet ((Prog.put (.grnBy m)).run ((setReg 146 0x200 w).run v)) := fun _ _ => ⟨rfl, rfl⟩
  have hState : ∀ v : State, v.quiet ((setF GRN_STAT.STATE 1).run v) := fun _ => ⟨rfl, rfl⟩
  have hEnField : GRN_CFG.EN.ofGranary := ⟨rfl, .inl rfl⟩
  have hStateField : GRN_STAT.STATE.ofGranary := ⟨rfl, .inr ⟨rfl, by decide⟩⟩
  simp only [exec, execGranaryReenable]
  refine command_hostWrite hWf hTakes hPlain hStarts (fun v hv => ?_) fun v t hv hSent => ?_
  · obtain ⟨again, l, rate, hDo⟩ := hRun v hv
    rw [hDo]
    exact State.quiet_trans (hBegin v _) (State.quiet_trans (avoids_grnUnmask hEnField _).quiet
      (State.quiet_trans (hState _) (avoids_grnRetrain hEnField _).quiet))
  · obtain ⟨again, l, rate, hDo⟩ := hRun v hv
    rw [hDo] at hSent
    rw [State.sends_rd hSent, State.sends_rd hSent, State.same_grnBy (State.sends_onlyIn hSent .grnBy (by decide)), (avoids_grnRetrain hEnField _).field,
      (avoids_grnRetrain hStateField _).field, State.same_grnBy ((avoids_grnRetrain hEnField _).pieces .grnBy (by decide)),
      rd_setF_apart (f := GRN_CFG.EN) _ _ (by simp only [Fld.apart, GRN_CFG.EN, GRN_STAT.STATE]; omega), (avoids_grnUnmask hEnField _).field]
    refine ⟨?_, rd_setF_fits _ (by decide), ?_⟩
    · rw [rd_put _ (by simp)]
      refine (rd_setReg_same v GRN_CFG.EN _).trans ((fieldOf_bit _ 31).trans ?_)
      rw [hEnSet]
      rfl
    · exact (grnBy_setF _ _ _).trans ((State.same_grnBy ((avoids_grnUnmask hEnField _).pieces .grnBy (by decide))).trans (grnBy_put _ m))

/-! ### Links trained (R339, R343) -/

/-- Devices that are lost with a change of the links, told after it. -/
def reachLost (s : State) : Prog := .look fun t =>
  let lost := s.reachAll &&& ~~~ t.reachAll
  let ids := (List.range (t.rd FAB_SYS_CFG.MAX_DEV + 1)).filter (fun d => lost.getLsbD d && d != t.rd FAB_DEV_ID.ID)
  onlyIf (lost != 0) (.andThen (each ids (fun d => .put (.unreachAt d t.mono))) (onlyIf (!ids.isEmpty) (raise 240 17)))

/-- What follows a link's new state: its time, the count of links that are up and the interrupts. -/
def linkFollow (l st : Nat) (s : State) : Prog := seqs [
  .put (.linkX l { s.linkXAt l with stateAt := s.mono }),
  .look fun t => setF FAB_STAT.LINKS_UP ((List.range 144).filter (fun k => t.linkUp k)).length,
  onlyIf (s.linkState l != st) (.andThen (raise (244 + l / 12) (16 + l % 12)) (raise 240 16))]

theorem setLinkState_run (l st : Nat) (s : State) : (setLinkState l st).run s =
    (linkFollow l st s).run ((reachLost s).run ((setF (FLC_LINK_STAT.STATE (l / 12) (l % 12)) st).run s)) := rfl

/-- A field that a change of links does not write beside the link's own fields: no interrupt's, and not LINKS_UP. -/
def Fld.offFabric (f : Fld) : Prop := f.off < 65536 ∧ f.off ≠ 0x10 ∧ f.page ≠ 2 ∧ (f.page ≠ 240 ∨ f.off ≠ 0x210 ∨ 16 ≤ f.lo)

section Links
variable {f : Fld}

theorem avoids_fabricRaise {page bit : Nat} (h : f.offFabric) (hPage : page < 1024) : (raise page bit).Avoids f := avoids_raise fun g hg => by
  obtain ⟨hOff, hIrq, hSum, -⟩ := h
  simp only [irqFlds, List.mem_cons, List.not_mem_nil, or_false] at hg
  rcases hg with rfl | rfl | rfl <;> simp only [Fld.clear, regKey, PCIE_LINK_STAT.IN_L1] <;> omega

theorem avoids_reachLost {s : State} (h : f.offFabric) : (reachLost s).Avoids f := avoids_look fun _ => avoids_onlyIf
  (avoids_andThen (avoids_each fun _ _ => avoids_put (show Piece.unreachAt ∉ begunPieces by decide) (by simp) (by simp))
    (avoids_onlyIf (avoids_fabricRaise h (by decide))))

theorem avoids_putLink {l : Nat} {x : LinkX} : (Prog.put (.linkX l x)).Avoids f := avoids_put (show Piece.linkX ∉ begunPieces by decide) (by simp) (by simp)

theorem avoids_linkFollow {l st : Nat} {s : State} (hl : l < 144) (h : f.offFabric) : (linkFollow l st s).Avoids f := by
  have hUp : FAB_STAT.LINKS_UP.clear f := by
    obtain ⟨hOff, -, -, hCount⟩ := h
    simp only [Fld.clear, regKey, FAB_STAT.LINKS_UP]
    omega
  exact avoids_seqs_cons avoids_putLink (avoids_seqs_cons (avoids_look fun _ => avoids_setF hUp)
    (avoids_seqs_cons (avoids_onlyIf (avoids_andThen (avoids_fabricRaise h (by omega)) (avoids_fabricRaise h (by decide)))) avoids_seqs_nil))

theorem avoids_setLinkState {l st : Nat} (hl : l < 144) (h : f.offFabric) (hState : (FLC_LINK_STAT.STATE (l / 12) (l % 12)).clear f) :
    (setLinkState l st).Avoids f := fun s => by
  rw [setLinkState_run]
  exact State.avoids_trans (avoids_setF hState s) (State.avoids_trans (avoids_reachLost h _) (avoids_linkFollow hl h _))

/-- The fields of a link itself are in the page of its cluster. -/
theorem offFabric_link {l : Nat} (hl : l < 144) {off : Nat} (hf : f.page = 244 + l / 12 ∧ f.off = off) (hOff : 0x1000 ≤ off ∧ off < 65536) :
    f.offFabric := by
  simp only [Fld.offFabric]
  omega

end Links

/-- A link that enters a state shows it. -/
theorem setLinkState_shows {l st : Nat} (hl : l < 144) (hst : st < 8) (s : State) : ((setLinkState l st).run s).linkState l = st := by
  have hField : (FLC_LINK_STAT.STATE (l / 12) (l % 12)).offFabric := offFabric_link (off := 0x1004 + 32 * (l % 12)) hl ⟨rfl, rfl⟩ (by omega)
  rw [setLinkState_run, State.linkState, (avoids_linkFollow hl hField _).field, (avoids_reachLost hField _).field]
  exact rd_setF_fits _ (by simp only [FLC_LINK_STAT.STATE]; omega)

theorem linkTrain_run (l : Nat) (s : State) : (linkTrain l).run s = (setLinkState l 1).run ((setF (FLC_LINK_PEER.VALID (l / 12) (l % 12)) 0).run
    ((setF (FLC_LINK_STAT.TX_GEN (l / 12) (l % 12)) (if s.rd (FLC_LINK_STAT.TX_GEN (l / 12) (l % 12)) == 255 then 1
      else s.rd (FLC_LINK_STAT.TX_GEN (l / 12) (l % 12)) + 1)).run s)) := rfl

end Sys2Proof.Machine
end
-- ==== Sys2Proof/Proofs/FabricEnable.lean ====
section
/-!
PROOF. The fabric interface enabled (spec/09_fabric.md R356, R363, R376).
-/
namespace Sys2Proof.Machine

/-! ### The fabric interface enabled (R356, R363, R376) -/

/-- A field of FAB that a change of links does not write. -/
def Fld.ofFab (f : Fld) : Prop := f.page = 240 ∧ f.offFabric

/-- The fields of the clusters are in pages of their own. -/
theorem cluster_clear {f g : Fld} (h : f.ofFab) (hPage : 244 ≤ g.page) : g.clear f := by
  obtain ⟨hFab, hOff, -⟩ := h
  simp only [Fld.clear, regKey]
  omega

section Fab
variable {f : Fld} {l : Nat}

theorem fab_setLinkState {st : Nat} (hl : l < 144) (h : f.ofFab) : (setLinkState l st).Avoids f :=
  avoids_setLinkState hl h.2 (cluster_clear h (Nat.le_add_right 244 _))

theorem fab_setCluster {g : Fld} {v : Nat} (h : f.ofFab) (hPage : 244 ≤ g.page) : (setF g v).Avoids f := avoids_setF (cluster_clear h hPage)

theorem fab_linkTrain (hl : l < 144) (h : f.ofFab) : (linkTrain l).Avoids f := avoids_look fun _ =>
  avoids_seqs_cons (fab_setCluster h (Nat.le_add_right 244 _)) (avoids_seqs_cons (fab_setCluster h (Nat.le_add_right 244 _))
    (avoids_seqs_cons (fab_setLinkState hl h) avoids_seqs_nil))

theorem avoids_sendLinkCell {sub : Nat} {payload : List Nat} : (sendLinkCell l sub payload).Avoids f :=
  avoids_look fun _ => avoids_onlyIf (avoids_andThen avoids_emit avoids_count)

theorem fab_linkDown {cause : Nat} (hl : l < 144) (h : f.ofFab) : (linkDown l cause).Avoids f := by
  refine avoids_look fun s => avoids_onlyIf ?_
  exact avoids_seqs_cons (fab_setCluster h (Nat.le_add_right 244 _)) (avoids_seqs_cons (avoids_onlyIf avoids_sendLinkCell)
    (avoids_seqs_cons (fab_setLinkState hl h) (avoids_seqs_cons (fab_setCluster h (Nat.le_add_right 244 _))
      (avoids_seqs_cons (fab_setCluster h (Nat.le_add_right 244 _)) (avoids_seqs_cons (fab_setCluster h (Nat.le_add_right 244 _))
        (avoids_seqs_cons (avoids_onlyIf (avoids_bumpF (cluster_clear h (Nat.le_add_right 244 _))))
          (avoids_seqs_cons (avoids_look fun _ => avoids_putLink) avoids_seqs_nil)))))))

theorem fab_linksApply {c : Nat} (hc : c < 12) (h : f.ofFab) : (linksApply c).Avoids f := avoids_each fun k hk => avoids_look fun _ => by
  have hl : 12 * c + k < 144 := by have := List.mem_range.mp hk; omega
  exact avoids_ite (avoids_onlyIf (fab_linkTrain hl h)) (avoids_ite avoids_skip
    (avoids_andThen (fab_linkDown hl h) (avoids_look fun _ => avoids_onlyIf (fab_setLinkState hl h))))

theorem fab_showResv (h : f.ofFab) : (showResv 1).Avoids f := avoids_showResv (by
  obtain ⟨hFab, hOff, -⟩ := h
  simp only [Fld.clear, regKey, BPM_TIER_RESV.RESV]
  omega)

theorem fab_putResv {r v : Nat} : (Prog.put (.reqResv r v)).Avoids f := avoids_put (show Piece.reqResv ∉ begunPieces by decide) (by simp) (by simp)

theorem avoids_putMcMade {n : Nat} : (Prog.put (.mcMade n)).Avoids f := avoids_put (show Piece.mcMade ∉ begunPieces by decide) (by simp) (by simp)

theorem fab_mcStandUp (h : f.ofFab) : ∀ n, (mcStandUp n).Avoids f
  | 0 => avoids_skip
  | n + 1 => avoids_look fun _ => avoids_onlyIf (avoids_seqs_cons (avoids_look fun _ => avoids_andThen fab_putResv (fab_showResv h))
      (avoids_seqs_cons avoids_putMcMade (avoids_seqs_cons (fab_mcStandUp h n) avoids_seqs_nil)))

theorem fab_mcStand (h : f.ofFab) : mcStand.Avoids f := avoids_look fun _ => avoids_andThen
  (avoids_onlyIf (avoids_andThen (avoids_look fun _ => avoids_andThen fab_putResv (fab_showResv h)) avoids_putMcMade)) (fab_mcStandUp h _)

/-- What follows FAB_SYS_CFG and its EPOCH: the standing reservations and the links. -/
def fabFollow : Prog := seqs [mcStand, each (List.range 12) linksApply]

theorem avoids_fabFollow (h : f.ofFab) : fabFollow.Avoids f := avoids_seqs_cons (fab_mcStand h)
  (avoids_seqs_cons (avoids_each fun _ hc => fab_linksApply (List.mem_range.mp hc) h) avoids_seqs_nil)

end Fab

theorem fabSysWrite_draws {n : Nat} {s : State} (hOn : bitOf n 31 = true) (hOff : s.rd FAB_SYS_CFG.EN = 0) :
    (fabSysWrite n).run s = fabFollow.run ((setF FAB_STAT.EPOCH ((Config.freeValue s.fresh).toNat % 256)).run
      ((Prog.put (.fresh (s.fresh + 1))).run ((setReg 240 0x204 (BitVec.ofNat 32 n)).run s))) := by
  unfold fabSysWrite
  rw [run_look, run_seqs_cons, run_seqs_cons (onlyIf _ _), run_onlyIf_true _ _ (by simp [hOn, hOff])]
  rfl

theorem plainReg_fabSysCfg : plainReg 240 0x204 0xC00003FF = true := by decide +kernel

theorem tmWrite_fabSysCfg {m : Nat} (v data : Word) (s : State) : (tmWrite m 240 0x204 v data).run s = (fabSysWrite v.toNat).run s := rfl

theorem State.recorded.fresh {s v : State} (h : s.recorded v) : v.fresh = s.fresh := Eq.symm (h.onlyIn .fresh (by decide))

theorem fabSysEnable_draws {m : Nat} {data : Word} {s : State} (hWf : Instr.wellFormed (.fabSysEnable m data) = true) (hTakes : s.takesWrite m 240 = true)
    (hOn : data.getLsbD 31 = true) (hOff : s.rd FAB_SYS_CFG.EN = 0) :
    ∃ t, exec (.fabSysEnable m data) s = .next t ∧ t.rd FAB_SYS_CFG.EN = 1 ∧
      t.rd FAB_SYS_CFG.MAX_DEV = fieldOf data FAB_SYS_CFG.MAX_DEV.hi FAB_SYS_CFG.MAX_DEV.lo ∧
      t.rd FAB_STAT.EPOCH = (Config.freeValue s.fresh).toNat % 256 := by
  obtain ⟨d, hPlain, hRw, hClear⟩ := plainReg_decl plainReg_fabSysCfg
  have hBit : (BitVec.ofNat 32 d.rw).getLsbD 31 = true := by rw [hRw]; rfl
  have hStarts : ∀ u, s.recorded u → u.writeRefused m 240 0x204 data.toNat = false := fun u _ => by
    simp [State.writeRefused, startsWork, isQuota]
  have hEnSet : ∀ old : Word, (d.merge old data).getLsbD 31 = true := fun old => (getLsbD_merge hBit hClear (by decide)).trans hOn
  have hRun : ∀ v, s.recorded v → (regDo m 240 0x204 d data).run v = fabFollow.run ((setF FAB_STAT.EPOCH ((Config.freeValue s.fresh).toNat % 256)).run
      ((Prog.put (.fresh (s.fresh + 1))).run ((setReg 240 0x204 (d.merge (v.reg 240 0x204) data)).run v))) := by
    intro v hv
    rw [regDo_tm (by decide) (by decide) (.inl rfl), tmWrite_fabSysCfg, fabSysWrite_draws ((bitOf_toNat _ _).trans (hEnSet _))
      ((hv.rd (by decide)).trans hOff), BitVec.ofNat_toNat, BitVec.setWidth_eq, hv.fresh]
  have hBegin : ∀ (v : State) w n e, v.quiet ((setF FAB_STAT.EPOCH e).run ((Prog.put (.fresh n)).run ((setReg 240 0x204 w).run v))) := fun _ _ _ _ =>
    ⟨rfl, rfl⟩
  have hField : ∀ g ∈ [FAB_SYS_CFG.EN, FAB_SYS_CFG.MAX_DEV, FAB_STAT.EPOCH], g.ofFab := by
    simp only [Fld.ofFab, Fld.offFabric]
    decide
  simp only [exec, execFabSysEnable]
  refine command_hostWrite hWf hTakes hPlain hStarts (fun v hv => ?_) fun v t hv hSent => ?_
  · rw [hRun v hv]
    exact State.quiet_trans (hBegin v _ _ _) (avoids_fabFollow (hField _ (.head _)) _).quiet
  · rw [hRun v hv] at hSent
    have hKept : ∀ g ∈ [FAB_SYS_CFG.EN, FAB_SYS_CFG.MAX_DEV, FAB_STAT.EPOCH], t.rd g = _ := fun g hg =>
      (State.sends_rd hSent g).trans (avoids_fabFollow (hField g hg) _).field
    have hCfg : ∀ g : Fld, g.page = 240 → g.off = 0x204 → g ∈ [FAB_SYS_CFG.EN, FAB_SYS_CFG.MAX_DEV, FAB_STAT.EPOCH] →
        t.rd g = fieldOf (d.merge (v.reg 240 0x204) data) g.hi g.lo := by
      rintro ⟨p, o, hi, lo⟩ rfl rfl hg
      rw [hKept _ hg, rd_setF_apart _ _ (by simp only [Fld.apart, FAB_STAT.EPOCH]; omega), rd_put _ (by simp)]
      exact rd_setReg_same v ⟨240, 0x204, hi, lo⟩ _
    refine ⟨?_, ?_, ?_⟩
    · rw [hCfg _ rfl rfl (by simp)]
      exact (fieldOf_bit _ 31).trans (by rw [hEnSet]; rfl)
    · rw [hCfg _ rfl rfl (by simp)]
      exact fieldOf_merge (fun b hb hb' => by rw [hRw]; simp only [FAB_SYS_CFG.MAX_DEV] at hb hb'; interval_cases b <;> rfl) hClear
    · rw [hKept _ (by simp)]
      exact rd_setF_fits _ (by simp only [FAB_STAT.EPOCH]; omega)

end Sys2Proof.Machine
end
-- ==== Sys2Proof/Proofs/UnitRegisterWrites.lean ====
section
/-!
PROOF. A fabric link restarted (spec/09_fabric.md R339), and every clause on writes that start something put together.
-/
namespace Sys2Proof.Machine

/-! ### A fabric link restarted (R339) -/

/-- A restart forgets the peer's generation and the entries to DOWN, then trains. -/
theorem linkRestart_run {l : Nat} {s : State} (hState : s.linkState l ≠ 0) (hRun : s.linkMayRun l = true) :
    ∃ x, (linkRestart l).run s = (linkTrain l).run ((setF (FLC_LINK_STAT.RX_GEN (l / 12) (l % 12)) 0).run ((Prog.put (.linkX l x)).run s)) := by
  unfold linkRestart
  rw [run_look_onlyIf (by simp [hState, hRun]), run_andThen, run_andThen]
  exact ⟨_, rfl⟩

/-- Training shows the state and the next generation, and leaves the link's other fields of FLC_LINK_STAT. -/
theorem linkTrain_shows {l : Nat} (hl : l < 144) (s : State) :
    ((linkTrain l).run s).linkState l = 1 ∧
      ((linkTrain l).run s).rd (FLC_LINK_STAT.TX_GEN (l / 12) (l % 12)) = (if s.rd (FLC_LINK_STAT.TX_GEN (l / 12) (l % 12)) = 255 then 1
        else s.rd (FLC_LINK_STAT.TX_GEN (l / 12) (l % 12)) + 1) ∧
      ((linkTrain l).run s).rd (FLC_LINK_STAT.RX_GEN (l / 12) (l % 12)) = s.rd (FLC_LINK_STAT.RX_GEN (l / 12) (l % 12)) := by
  have hNext : (if s.rd (FLC_LINK_STAT.TX_GEN (l / 12) (l % 12)) = 255 then 1 else s.rd (FLC_LINK_STAT.TX_GEN (l / 12) (l % 12)) + 1) < 2 ^ 8 := by
    have : s.rd (FLC_LINK_STAT.TX_GEN (l / 12) (l % 12)) < 2 ^ 8 := fieldOf_lt _ _ _
    split <;> omega
  have hTx : (setLinkState l 1).Avoids (FLC_LINK_STAT.TX_GEN (l / 12) (l % 12)) := avoids_setLinkState hl
    (offFabric_link (off := 0x1004 + 32 * (l % 12)) hl ⟨rfl, rfl⟩ (by omega)) (by simp only [Fld.clear, FLC_LINK_STAT.STATE, FLC_LINK_STAT.TX_GEN]; omega)
  have hRx : (setLinkState l 1).Avoids (FLC_LINK_STAT.RX_GEN (l / 12) (l % 12)) := avoids_setLinkState hl
    (offFabric_link (off := 0x1004 + 32 * (l % 12)) hl ⟨rfl, rfl⟩ (by omega)) (by simp only [Fld.clear, FLC_LINK_STAT.STATE, FLC_LINK_STAT.RX_GEN]; omega)
  have hPeer : ∀ g : Fld, g.off = 0x1004 + 32 * (l % 12) → ∀ u : State, ((setF (FLC_LINK_PEER.VALID (l / 12) (l % 12)) 0).run u).rd g = u.rd g :=
    fun g hg u => rd_setF_apart u 0 (by simp only [Fld.apart, FLC_LINK_PEER.VALID]; omega)
  rw [linkTrain_run, (hTx _).field, (hRx _).field, hPeer _ rfl, hPeer _ rfl,
    rd_setF_apart (f := FLC_LINK_STAT.RX_GEN _ _) _ _ (by simp only [Fld.apart, FLC_LINK_STAT.RX_GEN, FLC_LINK_STAT.TX_GEN]; omega)]
  refine ⟨setLinkState_shows hl (by decide) _, ?_, rfl⟩
  simp only [beq_iff_eq]
  exact rd_setF_fits _ ⟨by simp only [FLC_LINK_STAT.TX_GEN]; omega, hNext⟩

theorem linkTrain_quiet {l : Nat} (hl : l < 144) (s : State) : s.quiet ((linkTrain l).run s) :=
  (fab_linkTrain (f := FAB_SYS_CFG.EN) hl (by simp only [Fld.ofFab, Fld.offFabric]; decide) s).quiet

/-- A shadowed register of one word, outside the header and the table command window. -/
def shadowReg (page off : Nat) : Bool :=
  match declAt page off with
  | none => false
  | some d => d.shadowed && !d.readOnly && (latchesOf page off).isEmpty

theorem shadowReg_decl {page off : Nat} (h : shadowReg page off = true) :
    ∃ d, declAt page off = some d ∧ d.shadowed = true ∧ d.readOnly = false ∧ latchesOf page off = [] := by
  unfold shadowReg at h
  cases hDecl : declAt page off with
  | none => simp [hDecl] at h
  | some d =>
    simp only [hDecl, Bool.and_eq_true, Bool.not_eq_true', List.isEmpty_iff] at h
    obtain ⟨⟨hShadow, hRead⟩, hLatch⟩ := h
    exact ⟨d, rfl, hShadow, hRead, hLatch⟩

theorem shadowReg_linkCtrl : ∀ c < 12, ∀ i < 12, shadowReg (244 + c) (0x1000 + 32 * i) = true := by decide +kernel

/-- The bit that a command sets for RESTART. -/
theorem getLsbD_setBit30 (data : Word) : (setFieldOf data 30 30 1).getLsbD 30 = true := by
  rw [getLsbD_setFieldOf _ _ _ _ _ (by decide), if_pos ⟨Nat.le_refl _, Nat.le_refl _⟩]
  rfl

/-- RESTART acts when it is written, after its word is in the shadow. -/
theorem shadowWrite_restarts {m l : Nat} {d : RegDecl} {data : Word} (hl : l < 144) (hRestart : data.getLsbD 30 = true) (s : State) :
    ∃ w dirty, (shadowWrite m (244 + l / 12) (0x1000 + 32 * (l % 12)) d data).run s =
      (linkRestart l).run ((Prog.put (.dirty (244 + l / 12) dirty)).run ((setReg (244 + l / 12) (0x1000 + 32 * (l % 12)) w).run s)) := by
  have hLink : 12 * (244 + l / 12 - 244) + (0x1000 + 32 * (l % 12) - 0x1000) / 32 = l := by omega
  unfold shadowWrite
  rw [run_look]
  simp only
  rw [run_seqs_cons, run_seqs_cons, run_seqs_cons, run_seqs_nil, hLink, run_onlyIf_true _ _ (by simp [hRestart]; omega)]
  exact ⟨_, _, rfl⟩

theorem isShadowed_linkEn : ∀ c < 12, ∀ i < 12, isShadowed (FLC_LINK_CTRL.EN c i).page (FLC_LINK_CTRL.EN c i).off = true := by decide +kernel

/-- A word in the shadow leaves the links as they are until it is committed. -/
theorem shadow_leaves {l : Nat} (hl : l < 144) (w : Word) (dirty : List (Nat × Nat)) (s : State) {u : State}
    (hu : u = (Prog.put (.dirty (244 + l / 12) dirty)).run ((setReg (244 + l / 12) (0x1000 + 32 * (l % 12)) w).run s)) :
    s.quiet u ∧ (∀ f : Fld, f.off < 65536 → (f.page = 240 ∨ f.off = 0x1004 + 32 * (l % 12)) → u.rd f = s.rd f) ∧ u.linkMayRun l = s.linkMayRun l := by
  have hFields : ∀ f : Fld, f.off < 65536 → (f.page = 240 ∨ f.off = 0x1004 + 32 * (l % 12)) → u.rd f = s.rd f := fun f hOff hf => by
    rw [hu, rd_put _ (by simp)]
    exact rd_setReg_apart s w (by omega)
  have hEn : u.on (FLC_LINK_CTRL.EN (l / 12) (l % 12)) = s.on (FLC_LINK_CTRL.EN (l / 12) (l % 12)) := by
    have hShadow := isShadowed_linkEn (l / 12) (by omega) (l % 12) (Nat.mod_lt _ (by decide))
    rw [State.on, State.on, State.cfg, State.cfg, if_pos hShadow, if_pos hShadow, hu]
    rfl
  have hLatch : u.fatalLatch = s.fatalLatch := by rw [hu]; rfl
  refine ⟨by rw [hu]; exact ⟨rfl, rfl⟩, hFields, ?_⟩
  rw [State.linkMayRun, hEn, hLatch, hFields FAB_SYS_CFG.STANDALONE (by decide) (.inl rfl)]
  rfl

/-- From `s` to `t` a link has been restarted: it trains under the next generation, and its peer's is forgotten. -/
def State.retrained (t s : State) (l : Nat) : Prop :=
  t.linkState l = 1 ∧ (t.rd (FLC_LINK_STAT.TX_GEN (l / 12) (l % 12)) = if s.rd (FLC_LINK_STAT.TX_GEN (l / 12) (l % 12)) = 255 then 1
    else s.rd (FLC_LINK_STAT.TX_GEN (l / 12) (l % 12)) + 1) ∧ t.rd (FLC_LINK_STAT.RX_GEN (l / 12) (l % 12)) = 0

theorem State.sends_linkMayRun {s t : State} (h : s.sends t) (l : Nat) : t.linkMayRun l = s.linkMayRun l := by
  obtain ⟨_, _, _, rfl⟩ := h
  rfl

/-- A link restarted from a state whose links stand as before. -/
theorem linkRestart_restarts {l : Nat} {s u : State} (hl : l < 144) (hStat : ∀ f : Fld, f.off < 65536 → f.off = 0x1004 + 32 * (l % 12) → u.rd f = s.rd f)
    (hRuns : u.linkMayRun l = s.linkMayRun l) (hState : s.linkState l ≠ 0) (hMay : s.linkMayRun l = true) :
    u.quiet ((linkRestart l).run u) ∧ ((linkRestart l).run u).retrained s l := by
  have hOff : 0x1004 + 32 * (l % 12) < 65536 := by omega
  have hUp : u.linkState l ≠ 0 := by rw [State.linkState, hStat _ hOff rfl]; exact hState
  obtain ⟨x, hDo⟩ := linkRestart_run hUp (hRuns.trans hMay)
  have hBegin : u.quiet ((setF (FLC_LINK_STAT.RX_GEN (l / 12) (l % 12)) 0).run ((Prog.put (.linkX l x)).run u)) := ⟨rfl, rfl⟩
  obtain ⟨hShown, hTx, hRx⟩ := linkTrain_shows hl ((setF (FLC_LINK_STAT.RX_GEN (l / 12) (l % 12)) 0).run ((Prog.put (.linkX l x)).run u))
  rw [rd_setF_apart (f := FLC_LINK_STAT.TX_GEN _ _) _ _ (by simp only [Fld.apart, FLC_LINK_STAT.RX_GEN, FLC_LINK_STAT.TX_GEN]; omega), rd_put _ (by simp),
    hStat _ hOff rfl] at hTx
  rw [hDo]
  exact ⟨State.quiet_trans hBegin (linkTrain_quiet hl _), hShown, hTx, hRx.trans (rd_setF_fits _ (by simp only [FLC_LINK_STAT.RX_GEN]; omega))⟩

theorem fabricLinkRestart_trains {m link : Nat} {s : State} (hWf : Instr.wellFormed (.fabricLinkRestart m link) = true)
    (hTakes : s.takesWrite m (244 + link / 12) = true) (hState : s.linkState link ≠ 0) (hMay : s.linkMayRun link = true) :
    ∃ t, exec (.fabricLinkRestart m link) s = .next t ∧ t.linkState link = 1 ∧
      (t.rd (FLC_LINK_STAT.TX_GEN (link / 12) (link % 12)) = if s.rd (FLC_LINK_STAT.TX_GEN (link / 12) (link % 12)) = 255 then 1 else s.rd
        (FLC_LINK_STAT.TX_GEN (link / 12) (link % 12)) + 1) ∧ t.rd (FLC_LINK_STAT.RX_GEN (link / 12) (link % 12)) = 0 := by
  have hl : link < 144 := by
    simp only [Instr.wellFormed, Bool.and_eq_true, decide_eq_true_eq] at hWf
    exact hWf.2
  obtain ⟨hReach, hClear, -⟩ := takesWrite_serves hTakes
  obtain ⟨d, hDecl, hShadow, hRead, hLatch⟩ := shadowReg_decl (shadowReg_linkCtrl (link / 12) (by omega) (link % 12) (Nat.mod_lt _ (by decide)))
  have hRun : ∀ u, s.begun.sends u → ∀ data : Word, data.getLsbD 30 = true →
      u.quiet ((writeWord m (244 + link / 12) (0x1000 + 32 * (link % 12)) 15 data).run u) ∧
        ((writeWord m (244 + link / 12) (0x1000 + 32 * (link % 12)) 15 data).run u).retrained s link := by
    intro u hu data hRestart
    obtain ⟨hWrite, hHeld⟩ := writeWord_run_taken (off := 0x1000 + 32 * (link % 12)) (data := data) hTakes rfl hu
    have hOne : (oneWrite m (244 + link / 12) (0x1000 + 32 * (link % 12)) d data).run u =
        (shadowWrite m (244 + link / 12) (0x1000 + 32 * (link % 12)) d data).run u := by
      unfold oneWrite
      rw [run_look, if_pos hShadow]
    obtain ⟨w, dirty, hShadowed⟩ := shadowWrite_restarts (m := m) (d := d) (data := data) hl hRestart u
    obtain ⟨hQuiet, hFields, hRuns⟩ := shadow_leaves hl w dirty u rfl
    obtain ⟨hTrains, hRestarted⟩ := linkRestart_restarts (s := s) hl (fun f hOff hf => (hFields f hOff (.inr hf)).trans (State.sends_rd hu f))
      (hRuns.trans (State.sends_linkMayRun hu link)) hState hMay
    rw [hWrite, writeNow_run_one hDecl (by omega) hRead hLatch hHeld, hOne, hShadowed]
    exact ⟨State.quiet_trans hQuiet hTrains, hRestarted⟩
  simp only [exec, execFabricLinkRestart]
  refine command_answers hWf ?_
  rw [run_look]
  obtain ⟨u, hu, hSent⟩ := hostWrite_run (be := 15) (s := s.begun) hReach hClear fun u hu => (hRun u hu _ (getLsbD_setBit30 _)).1
  obtain ⟨hShown, hTx, hRx⟩ := (hRun u hu _ (getLsbD_setBit30 _)).2
  refine ⟨?_, ?_, ?_⟩
  · rw [State.linkState, State.sends_rd hSent]
    exact hShown
  · rw [State.sends_rd hSent]
    exact hTx
  · rw [State.sends_rd hSent]
    exact hRx

/-- Settles O8: each write is its record and its register's effect; what an effect begins stands to its end, since what follows it avoids it. -/
theorem unitRegisterWrites : Obligations.UnitRegisterWrites := by
  unfold Obligations.UnitRegisterWrites
  refine ⟨?_, ?_, ?_, ?_, fun _ _ _ _ _ _ hWf hTakes hPlace hFree hDecl => seedWrite_sets hWf hTakes hPlace hFree hDecl,
    fun _ _ _ _ _ hWf hTakes hOff hBank hOk => lpmMemUseWrite_sets hWf hTakes hOff hBank hOk,
    fun _ _ _ _ hWf hTakes hAuto hPipe hNew hDrained => bucketWrite_sets hWf hTakes hAuto hPipe hNew hDrained,
    fun _ _ _ hWf hTakes hBusy => queueFlush_empties hWf hTakes hBusy, fun _ _ _ _ hWf hTakes hBusy => spdCmd_begins hWf hTakes hBusy,
    fun _ _ _ hWf hTakes hOn hOff hLost => granaryReenable_rises hWf hTakes hOn hOff hLost,
    fun _ _ _ hWf hTakes hOn hOff => fabSysEnable_draws hWf hTakes hOn hOff,
    fun _ _ _ hWf hTakes hState hMay => fabricLinkRestart_trains hWf hTakes hState hMay⟩
  · intro m port data c s hWf hTakes hMax hManual hWas hRefused hRaise hClass
    obtain ⟨t, hNext, hPowered, -⟩ := cagePwrMaxRaise_powers hWf hTakes hMax hManual hWas hRefused hRaise hClass
    exact ⟨t, hNext, hPowered⟩
  · intro m port data s hWf hTakes hBusy hPresent hRead
    obtain ⟨t, hNext, hReads, -⟩ := moduleAccess_reads hWf hTakes hBusy hPresent hRead
    exact ⟨t, hNext, hReads⟩
  · intro m group s hWf hTakes hIdle
    obtain ⟨t, hNext, hBegun, -⟩ := calendarSwitch_begins hWf hTakes hIdle
    exact ⟨t, hNext, hBegun⟩
  · intro m data s hWf hTakes hMode hPend hEmpty
    obtain ⟨t, hNext, hArmed, -⟩ := xcSwitch_begins hWf hTakes hMode hPend hEmpty
    exact ⟨t, hNext, hArmed⟩

end Sys2Proof.Machine
end
-- ==== Sys2Proof/Proofs/PassesAndUpkeepRefutations.lean ====
section
/-!
PROOF. Statements about the pipelines and the staging store that a concrete state refutes: a frame that was released before device time was stepped
(spec/08_queues_and_scheduling.md R327), and a MEP with an index above 4,095 (spec/12_services.md R449; the device has 8,192 MEPs).
-/
namespace Sys2Proof.Machine

/-! ### A frame released before a step of device time (R327) -/

/-- A packet of class 0 that was released at MONO 0. -/
def releasedEarly : Pkt := { body := 3, rel := 0 }

/-- Port 0 is up and runs a gate list with a cycle of 200 ns: class 0 is open in its first half and no class in its second.  Device time was 150 ns into a cycle
when a step set it on by 100 ns.  The one packet of the port, class 0 and whole, had been released before. -/
def steppedSinceRelease : State :=
  (seqs [
    setF (PORT_STAT.LINK_UP 0) 1,
    setF (GATE_STAT.OPER_VALID 0) 1, setF (GATE_OPER_CYCLE.VALUE 0) 200, setF (GATE_OPER_LEN.VALUE 0) 2,
    setTab 180 1 0 ((({} : Entry).put (ed 0 7 0) 1).put (ed 1 29 0) 100),
    setTab 180 1 1 (({} : Entry).put (ed 1 29 0) 100),
    .put (.bodies 3 { bytes := List.replicate 64 1, whole := true, refs := 1 }),
    .put (.macQ 0 [releasedEarly]),
    .put (.stepAt (some 0)), .put (.stepDelta (100 * 65536))]).run { State.reset with time16 := 250 * 65536 }

/-- By the new device time the packet's gate is open, by the time that it was released under the gate is closed. -/
theorem steppedSinceRelease_gate :
    bitOf (steppedSinceRelease.gateStates 0 steppedSinceRelease.ns64) 0 = true ∧
    bitOf (steppedSinceRelease.gateStates 0 (steppedSinceRelease.gateClock releasedEarly)) 0 = false := by decide +kernel

/-- The packet, sent as released, waits for its gate. -/
theorem steppedSinceRelease_waits {t : State} (h : exec (.frameTransmit 0 false) steppedSinceRelease = .next t) : t.macQAt 0 = [releasedEarly] := by
  simp only [exec, execFrameTransmit] at h
  rw [command_state h]
  decide +kernel

/-- Refutes O16: its last clause lets a frame leave whenever its gate is open by device time, but a frame that was released before a step of device time is sent as
released, by the time without the step (R327).  In `steppedSinceRelease` that gate is closed, and the packet stays in the port's queue. -/
theorem not_pipelinePasses : ¬ Obligations.PipelinePasses := by
  intro h
  obtain ⟨-, -, -, -, -, -, hTransmit⟩ := h
  obtain ⟨t, ht, hLeft, -, -⟩ := hTransmit 0 false releasedEarly [] _ steppedSinceRelease rfl (by decide +kernel) (by decide +kernel)
    (by decide +kernel) (by decide +kernel) (by decide +kernel) (by decide +kernel) steppedSinceRelease_gate.1 rfl
  rw [steppedSinceRelease_waits ht] at hLeft
  exact absurd hLeft (by decide)

/-! ### A CCM below the level of a MEP with a high index (R449) -/

/-- A continuity-check frame of maintenance level 0: group address, source address, EtherType 0x8902, level and version, opcode 1. -/
def ccmFrame : List Nat := [1, 0x80, 0xC2, 0, 0, 0x30, 2, 0, 0, 0, 0, 1, 0x89, 0x02, 0, 1] ++ List.replicate 48 0

/-- The packet of that frame, which port 0 received on LIF 7. -/
def lowCcm : Pkt := { body := 3, srcPort := 0, lif := 7, app := 6, declMax := 68 }

/-- SVC runs with CFM on, MEP 4096 is valid on LIF 7 at level 5, and the CCM of level 0 waits in pipeline 0 to cross. -/
def lowCcmForHighMep : State :=
  (seqs [
    setF (BLK_CTRL.ENABLE 13) 1, setF SVC_CFG.CFM_EN 1,
    setTab 13 1 4096 (((({} : Entry).put MEP.VALID 1).put MEP.LEVEL 5).put MEP.LIF 7),
    .put (.bodies 3 { bytes := ccmFrame, whole := true, refs := 1 }),
    .put (.upQ 0 [lowCcm])]).run State.reset

/-- The service unit enters XCON, bit 3 of DEFECTS, in the MEP's entry. -/
theorem lowCcmForHighMep_xcon {t : State} (h : exec (.stagingAdmit 0) lowCcmForHighMep = .next t) : (t.tab 13 1 4096).f MEP.DEFECTS = 8 := by
  simp only [exec, execStagingAdmit] at h
  rw [command_state h]
  decide +kernel

/-- What STAGING_ADMIT may write of the tables, by the statement, leaves the entries of MEPs from 4,096 on out. -/
theorem highMep_outside {i : Nat} (hHigh : 4096 ≤ i) : tabKey 13 1 i ∉ [qpKeys, (List.range 4096).map (tabKey 13 1)].flatten := by
  simp only [qpKeys, tabKey, List.flatten_cons, List.flatten_nil, List.append_nil, List.mem_append, List.mem_map, List.mem_range]
  rintro (⟨k, hk, hKey⟩ | ⟨k, hk, hKey⟩)
  · omega
  · omega

/-- Refutes O36: its clause on STAGING_ADMIT names the entries of MEPs 0 to 4,095 as those that the command may change, but the device has 8,192 MEPs, and a CCM below
a MEP's level sets XCON in the entry whatever its index (R449).  In `lowCcmForHighMep` the entry of MEP 4096 changes. -/
theorem not_tcamAndShapers : ¬ Obligations.TcamAndShapers := by
  intro h
  obtain ⟨-, -, -, -, -, -, -, -, hAdmit, -⟩ := h
  obtain ⟨t, ht, -, -, hTables⟩ := hAdmit 0 0 lowCcm lowCcmForHighMep rfl (by decide) (by decide +kernel) (by decide +kernel)
  have hSame : t.tab 13 1 4096 = lowCcmForHighMep.tab 13 1 4096 := by
    simp only [State.tab, State.tab?, hTables _ (highMep_outside (Nat.le_refl 4096))]
  have hBefore : (lowCcmForHighMep.tab 13 1 4096).f MEP.DEFECTS = 0 := by decide +kernel
  rw [← hSame, lowCcmForHighMep_xcon ht] at hBefore
  exact absurd hBefore (by decide)

end Sys2Proof.Machine
end
-- ==== Sys2Proof/Proofs/FramesAndBucketsRefutation.lean ====
section
/-!
PROOF. The statement on how frames arrive calls a frame good by the state of its port's link at its last byte.  A concrete run refutes it: the link went down while the
frame was arriving and came up again before its end, which is tail error 5, ABORTED (spec/06_pipelines.md R236).
-/
namespace Sys2Proof.Machine

/-- The bytes of a frame before its FCS. -/
def cutFramePayload : List Nat := List.replicate 60 1

/-- Port 0 runs, its link is up, no length check is on, and body 3 holds a frame of which all has arrived but the FCS; the frame stands in the receive FIFO. -/
def frameArriving : State :=
  (seqs [
    .put (.blkUp 16 true), setF (BLK_CTRL.ENABLE 16) 1, setF (PORT_CAGE_CTRL.MANUAL 0) 1, setF PIPE_CT_CFG.LEN_CHECK 0,
    .put (.units (regKey (PORT_MODE.MODE 0).page (PORT_MODE.MODE 0).off) 1),
    setF (PORT_STAT.LINK_UP 0) 1,
    .put (.rxNow 0 (some 3)),
    .put (.bodies 3 { bytes := cutFramePayload, refs := 1, port := 0 }),
    .put (.rxFifo 0 [{ body := 3, srcPort := 0 }])]).run State.reset

/-- The port loses its signal while the frame is arriving, so that its link goes down. -/
def linkLostInFrame : State := (seqs [setF (PORT_STAT.LOS 0) 1, linkRefresh 0]).run frameArriving

/-- The signal is back, and the link is up again, before the frame's last byte. -/
def linkBackInFrame : State := (seqs [setF (PORT_STAT.LOS 0) 0, linkRefresh 0]).run linkLostInFrame

/-- The FCS of the frame, the bytes that end it: they are the right ones. -/
def cutFrameFcs : List Byte := asBytes (toBytesLE 4 (crc32 cutFramePayload))

/-- The link left LINK_UP during the frame, whatever it shows at the end. -/
theorem linkBackInFrame_cut :
    linkLostInFrame.rd (PORT_STAT.LINK_UP 0) = 0 ∧ linkBackInFrame.rd (PORT_STAT.LINK_UP 0) = 1 ∧ linkBackInFrame.rxCutAt 0 = true := by decide +kernel

/-- By the link's state at the last byte alone, the frame has no tail error. -/
theorem linkBackInFrame_looksGood :
    tailCause ((linkBackInFrame.bodiesAt 3).bytes ++ cutFrameFcs.map BitVec.toNat) (linkBackInFrame.cfg (PORT_MAC_CFG.MAX_FRAME 0))
      (linkBackInFrame.rd (PORT_STAT.LINK_UP 0) == 1) false false = 0 := by
  obtain ⟨-, hUp, -⟩ := linkBackInFrame_cut
  rw [hUp]
  decide +kernel

/-- The frame ends with tail error 5, which its port counts: it leaves the receive FIFO (R237), and its body, which nothing else refers to, is given back. -/
theorem linkBackInFrame_aborts {t : State} (h : exec (.frameTail 0 cutFrameFcs false) linkBackInFrame = .next t) :
    t.counter 0 (47 + 5) = 1 ∧ t.rxFifoAt 0 = [] ∧ t.bodiesAt 3 = {} := by
  simp only [exec, execFrameTail] at h
  rw [command_state h]
  decide +kernel

/-- Refutes O4: its clause on FRAME_TAIL takes a frame for good when the port is up at the last byte, but one whose port left LINK_UP before is ABORTED (R236) and
discarded with 0xA1 where it has not crossed (R237).  In `linkBackInFrame` the link is up again, and the frame's body is not completed. -/
theorem not_framesAndBuckets : ¬ Obligations.FramesAndBuckets := by
  intro h
  obtain ⟨-, hTail, -⟩ := h
  obtain ⟨t, ht, -, hWhole, -⟩ := hTail 0 cutFrameFcs false 3 _ linkBackInFrame rfl (by decide +kernel) rfl (by decide +kernel) (by decide +kernel)
    linkBackInFrame_looksGood (by decide +kernel) (by decide +kernel) (by decide +kernel) (by decide +kernel) (by decide +kernel) (by decide +kernel)
    (by decide +kernel) (by decide +kernel)
  obtain ⟨-, -, hGone⟩ := linkBackInFrame_aborts ht
  rw [hGone] at hWhole
  exact absurd hWhole (by decide)

end Sys2Proof.Machine
end

