-- ==== Sys2Proof/Proofs/SpillAndFlushRefutations.lean ====
section
/-!
PROOF. Statements about the buffers and the queues that a concrete state refutes: a batch for tier 2 while the device throttles (spec/07_buffers.md R251,
spec/21_electrical_and_package.md R682), and the flush of a queue whose buffer is charged to a requester that the device does not have (spec/07_buffers.md R257).
-/
namespace Sys2Proof.Machine
-- The kernel's evaluations one after another: each that waits for another would hold a thread and its stack.
set_option Elab.async false

/-! ### A batch while the device throttles (R251, R266, R682) -/

/-- The packet of a batch, whole and in buffer 0, and the one behind it, whose last bytes have not arrived. -/
def spillPkts : List Pkt := [{ body := 3 }, { body := 4 }]

/-- Queue 40 is in spill state with a full batch of one packet for tier 2, which has room.  The device throttles, and tier 2 has taken 2 GB in the last 1 ms, 16,000 Gb/s:
less than it carries otherwise, more than the half that it carries now. -/
def throttledSpill : State :=
  (seqs [
    setF (BLK_CTRL.ENABLE 145) 1, setF PWR_STAT.THROTTLING 1,
    .put (.tier2On true), setTab 145 1 0 (({} : Entry).put PROF.HBM_LIMIT 1000), setF (BPM_REQ_CFG.HBM_MIN 0) 100, setF (BPM_REQ_CFG.HBM_MAX 0) 100,
    .put (.hbmIn [(0, 2000000000)]),
    .put (.bodies 3 { whole := true, refs := 1 }), .put (.bufs 0 { size := 256, held := 1, body := 3 }),
    .put (.qx 40 { spill := true, tail := spillPkts })]).run State.reset

/-- The batch waits. -/
theorem throttledSpill_waits {t : State} (h : exec (.spillBatch 40 (0, [])) throttledSpill = .next t) : (t.qxAt 40).writing = none := by
  simp only [exec, execSpillBatch] at h
  rw [command_state h]
  decide +kernel

/-- Refutes O37: its first clause has a full batch for which tier 2 has space written there, but while the device throttles tier 2 carries half its bandwidth (R251, R682), which a
batch waits for.  In `throttledSpill` that half is used up, and nothing is being written. -/
theorem not_spilling : ¬ Obligations.Spilling := by
  intro h
  obtain ⟨hBatch, -⟩ := h
  obtain ⟨t, ht, hWriting, -⟩ := hBatch 40 0 [] { body := 3 } throttledSpill rfl (by decide +kernel) (by decide +kernel) (by decide +kernel)
    (by decide +kernel) (by decide +kernel) (by decide +kernel) (by decide +kernel)
  rw [throttledSpill_waits ht] at hWriting
  exact absurd hWriting (by decide)

/-! ### A requester that the device does not have (R257) -/

/-- QM is up and enabled, and queue 40 holds a whole packet in a buffer of 256 bytes that is charged to requester 300 with 2,048 bytes in all. -/
def strangeRequester : State :=
  (seqs [
    .put (.blkUp 176 true), setF (BLK_CTRL.ENABLE 176) 1,
    .put (.bodies 3 { whole := true, refs := 1 }), .put (.bufs 7 { size := 256, req := 300, held := 1, body := 3 }), .put (.reqUse (128 + 300) 2048),
    .put (.qx 40 { head := [{ body := 3, buf := 7 }] })]).run State.reset

/-- The word of BPM_REQ_USE that would show the use of tier 1 by requester 300. -/
def strangeUseKey : Nat := regKey (BPM_REQ_USE0.reg 300).page (BPM_REQ_USE0.reg 300).off

/-- The flush gives the buffer back and shows the 2 KiB that the requester still uses. -/
theorem strangeRequester_shown {t : State} (h : exec (.queueFlush 0x2000 40) strangeRequester = .next t) : (t.regsAt strangeUseKey).getLsbD 1 = true := by
  simp only [exec, execQueueFlush] at h
  rw [command_state h]
  decide +kernel

/-- The fields that a flush may write, by the statement. -/
def flushFlds : List Fld := [[QM_FLUSH.reg], SCH_STAT.FIT_WAIT :: BUF_SPILL_Q.COUNT :: BUF_BLOCKED_Q.COUNT :: poolFlds, stageFlds, refuseFlds, errFlds 144,
  irqFlds 144 19, nrefFlds, recFlds].flatten

/-- The word of requester 300 lies beyond the registers that the statement names. -/
theorem strangeUse_outside : ∀ f ∈ flushFlds, regKey f.page f.off ≠ strangeUseKey := by
  have hAll : flushFlds.all (fun f => decide (regKey f.page f.off ≠ strangeUseKey)) = true := by decide +kernel
  exact fun f hf => of_decide_eq_true (List.all_eq_true.mp hAll f hf)

/-- Refutes O45: its clause on QUEUE_FLUSH names the registers of BPM among those that a flush may write, in states, too, where a buffer is charged to a requester beyond the 72 that
BPM has (R257), whose use is shown past them.  No command charges such a one, so the device does not reach `strangeRequester`; the clause leaves such states in. -/
theorem not_queuesAndScheduling : ¬ Obligations.QueuesAndScheduling := by
  intro h
  obtain ⟨-, -, -, -, -, hFlush, -⟩ := h
  obtain ⟨t, ht, hFrame⟩ := hFlush 0x2000 40 strangeRequester rfl (by decide +kernel) (by decide +kernel)
  have hSame : t.regsAt strangeUseKey = strangeRequester.regsAt strangeUseKey := State.framed_regsAt hFrame _ strangeUse_outside
  have hShown := strangeRequester_shown ht
  rw [hSame] at hShown
  exact absurd hShown (by decide +kernel)

end Sys2Proof.Machine
end

