-- ==== Sys2Proof/Proofs/MemoryAccesses.lean ====
section
/-!
PROOF. What the accesses to a memory target and its errors may change: rows and their activates (spec/10_memory_controllers.md R397, R405 to R407) and errors that
cannot be corrected (R409, R412, R413).
-/
namespace Sys2Proof.Machine

/-! ### Rows accessed (R397, R405 to R407) -/

section Keeps
variable {l : List Piece} {R : List Fld} {T : List Nat}

theorem rowPieces_mem (hl : rowPieces ⊆ l) : .actTab ∈ l ∧ .openRow ∈ l ∧ .actWait ∈ l ∧ .fresh ∈ l ∧ .emitted ∈ l := by
  simpa only [rowPieces, List.cons_subset, List.nil_subset, and_true] using hl

theorem keeps_activate {t bank r : Nat} (hl : rowPieces ⊆ l) (hR : tgtNref t ∈ R) : (activate t bank r).Keeps l R T := by
  obtain ⟨hTable, hRow, -, -, hEmit⟩ := rowPieces_mem hl
  exact keeps_look fun _ => keeps_ite
    (fun _ => keeps_seqs_cons (keeps_put hTable (by simp) (by simp)) (keeps_seqs_cons (keeps_bumpF hR) (keeps_seqs_cons (keeps_emit hEmit)
      (keeps_seqs_cons (keeps_put hRow (by simp) (by simp)) keeps_seqs_nil))))
    fun _ => keeps_put hTable (by simp) (by simp)

theorem keeps_rowAccess {t bank row cls : Nat} (hl : rowPieces ⊆ l) (hR : tgtNref t ∈ R) : (rowAccess t bank row cls).Keeps l R T := by
  obtain ⟨-, hRow, -⟩ := rowPieces_mem hl
  have hPut : ∀ k x, (Prog.put (.openRow k x)).Keeps l R T := fun _ _ => keeps_put hRow (by simp) (by simp)
  refine keeps_look fun s => ?_
  simp only
  cases s.openRowAt (bankKey t bank) with
  | none => exact keeps_andThen (hPut _ _) (keeps_activate hl hR)
  | some o => exact keeps_ite (fun _ => hPut _ _) fun _ => keeps_andThen (hPut _ _) (keeps_activate hl hR)

/-! ### Errors that cannot be corrected (R409, R413) -/

theorem keeps_setMem {t : Nat} {f : MemX → MemX} (h : .memX ∈ l) : (setMem t f).Keeps l R T := keeps_look fun _ => keeps_put h (by simp) (by simp)

theorem keeps_failTarget {t cause : Nat} (h : .memX ∈ l) : (failTarget t cause).Keeps l R T := keeps_setMem h

theorem errPieces_irq (hl : errPieces ⊆ l) : irqPieces ⊆ l := fun _ hx => hl (List.mem_append_right _ hx)

theorem keeps_eccUncorrectable {acc t : Nat} (h : .memX ∈ l) (hl : errPieces ⊆ l) (hCount : tgtUe t ∈ R) (hIrq : irqFlds (tgtPage t) 17 ⊆ R)
    (hErr : errFlds (tgtPage t) ⊆ R) : (eccUncorrectable acc t).Keeps l R T :=
  keeps_look fun _ => keeps_seqs_cons (keeps_bumpF hCount) (keeps_seqs_cons (keeps_raise (errPieces_irq hl) hIrq) (keeps_seqs_cons (keeps_reportError hl hErr)
    (keeps_seqs_cons (keeps_setMem h) (keeps_seqs_cons (keeps_onlyIf fun _ => keeps_failTarget h) keeps_seqs_nil))))

end Keeps

/-- In a subchannel with a failed DRAM an error of another DRAM cannot be corrected (R412). -/
theorem eccCorrected_beside_failed {acc code : Nat} {s : State} (hChannel : isStack (code / 2 ^ 40 % 256 % 20) = false)
    (hFailed : (s.memXAt (code / 2 ^ 40 % 256 % 20)).failed.any (fun d => d != code / 2 ^ 48 && d / 10 == code / 2 ^ 48 / 10) = true) :
    (eccCorrected acc code).run s = (eccUncorrectable acc (code / 2 ^ 40 % 256 % 20)).run s := by
  unfold eccCorrected
  rw [run_look]
  simp only
  rw [if_pos (by rw [hChannel, hFailed]; rfl)]

theorem run_each_nil {α : Type} (f : α → Prog) (s : State) : (each [] f).run s = s := rfl

theorem run_each_cons {α : Type} (a : α) (r : List α) (f : α → Prog) (s : State) : (each (a :: r) f).run s = (each r f).run ((f a).run s) := rfl

theorem State.same_memXAt {s t : State} (h : s.same t .memX) (k : Nat) : t.memXAt k = s.memXAt k := by
  have hSame : s.memX = t.memX := h
  rw [State.memXAt, ← hSame]
  rfl

end Sys2Proof.Machine
end

