-- ==== Sys2Proof/Proofs/MemoryUpkeepRefutation.lean ====
section
/-!
PROOF. A statement about the memory's upkeep that a concrete state refutes: a scrub that meets an error beside a failed DRAM (spec/10_memory_controllers.md R408,
R412).
-/
namespace Sys2Proof.Machine
-- The kernel's evaluations one after another: each that waits for another would hold a thread and its stack.
set_option Elab.async false

/-! ### A scrub that meets an error beside a failed DRAM (R408, R412) -/

/-- Channel 0, target 4, is READY, its DRAM 1 has failed, and its last scrub was more than 46 days ago. -/
def scrubDueBesideFailed : State :=
  (seqs [setF (tgtState 4) 3, .put (.memX 4 { failed := [1] })]).run { State.reset with mono16 := 4000000000000000 * 65536 }

/-- The accesses of a scrub's pass, one and one for each error. -/
def scrubReads (target : Nat) (errors : List Nat) : Prog := each (0 :: errors) fun _ => draw fun v => rowAccess target (v % 16384) (v / 16384) 6

theorem keeps_scrubReads {target : Nat} {errors : List Nat} : (scrubReads target errors).Keeps rowPieces [tgtNref target] [] := keeps_each fun _ _ =>
  keeps_draw (by decide) fun _ => keeps_rowAccess (List.Subset.refl _) (List.mem_singleton_self _)

/-- A pass of the scrubber over a target that begins now. -/
def scrubBegin (target : Nat) (s : State) : State := (setMem target (fun x => { x with scrubAt := s.mono })).run s

/-- The place of an error of a pass among those of all targets. -/
def scrubCode (target c : Nat) : Nat := c / 2 ^ 48 * 2 ^ 48 + target * 2 ^ 40 + c % 2 ^ 40

/-- A pass that is due and meets one error, told as corrected. -/
theorem memScrub_run {target c : Nat} {s t : State} (h : exec (.memScrub target [c] []) s = .next t) (hReady : s.memReady target = true)
    (hCool : s.rd PWR_STAT.THROTTLING = 0) (hDue : s.since (s.memXAt target).scrubAt (max 1 (s.cfg (tgtScrubH target)) * 3600000000000) = true) :
    t = (eccCorrected 7 (scrubCode target c)).run ((scrubReads target [c]).run (scrubBegin target s.begun)) := by
  have hReadyBegun : s.begun.memReady target = true := hReady
  have hDueBegun : s.begun.since (s.begun.memXAt target).scrubAt (max 1 (s.begun.cfg (tgtScrubH target)) * 3600000000000) = true := hDue
  simp only [exec, execMemScrub] at h
  rw [command_state h]
  change (Prog.look _).run s.begun = _
  rw [run_look_onlyIf (by rw [hReadyBegun, s.begun_rd, hCool, hDueBegun]; rfl), List.append_nil, run_seqs_cons, run_seqs_cons, run_seqs_cons, run_seqs_cons,
    run_seqs_nil, run_each_nil, run_each_cons, run_each_nil]
  rfl

/-- A pass over channel 0 that meets an error of DRAM 0 comes, beside failed DRAM 1, to one that cannot be corrected. -/
theorem scrubDueBesideFailed_run {t : State} (h : exec (.memScrub 4 [0] []) scrubDueBesideFailed = .next t) :
    t = (eccUncorrectable 7 4).run ((scrubReads 4 [0]).run (scrubBegin 4 scrubDueBesideFailed.begun)) := by
  have hMem : ((scrubReads 4 [0]).run (scrubBegin 4 scrubDueBesideFailed.begun)).memXAt 4 = (scrubBegin 4 scrubDueBesideFailed.begun).memXAt 4 :=
    State.same_memXAt (keeps_scrubReads.same _ .memX (by decide)) 4
  have hBegun : ((scrubBegin 4 scrubDueBesideFailed.begun).memXAt 4).failed = [1] := by decide +kernel
  have hPlace : scrubCode 4 0 / 2 ^ 40 % 256 % 20 = 4 ∧ scrubCode 4 0 / 2 ^ 48 = 0 := by decide
  obtain ⟨hTarget, hDram⟩ := hPlace
  have hRun := eccCorrected_beside_failed (acc := 7) (code := scrubCode 4 0) (s := (scrubReads 4 [0]).run (scrubBegin 4 scrubDueBesideFailed.begun))
    (by rw [hTarget]; rfl) (by rw [hTarget, hDram, hMem, hBegun]; rfl)
  rw [hTarget] at hRun
  exact (memScrub_run h (by decide +kernel) (by decide +kernel) (by decide +kernel)).trans hRun

/-- The pass counts no corrected error. -/
theorem scrubDueBesideFailed_uncounted {t : State} (h : exec (.memScrub 4 [0] []) scrubDueBesideFailed = .next t) : t.rd (tgtCe 4) = 0 := by
  have hError : (eccUncorrectable 7 4).Keeps (.memX :: errPieces) ([tgtUe 4] ++ irqFlds (tgtPage 4) 17 ++ errFlds (tgtPage 4)) [] :=
    keeps_eccUncorrectable (by simp) (fun _ hx => List.mem_cons_of_mem _ hx) (by simp) (fun _ hx => by simp [hx]) fun _ hx => by simp [hx]
  have hApart : ∀ g ∈ [tgtUe 4] ++ irqFlds (tgtPage 4) 17 ++ errFlds (tgtPage 4), g.off < 65536 ∧ g.apart (tgtCe 4) := by
    unfold Fld.apart
    decide
  have hApart' : ∀ g ∈ [tgtNref 4], g.off < 65536 ∧ g.apart (tgtCe 4) := by
    unfold Fld.apart
    decide
  have hBegun : (scrubBegin 4 scrubDueBesideFailed.begun).rd (tgtCe 4) = 0 := by decide +kernel
  rw [scrubDueBesideFailed_run h, hError.rd _ _ (by decide) hApart, keeps_scrubReads.rd _ _ (by decide) hApart', hBegun]

/-- Refutes O39: its clause on MEM_SCRUB has an error that the scrub's operands call corrected counted as one, whatever DRAMs of the channel have failed, but beside a failed DRAM of its
subchannel an error of another cannot be corrected (R412).  In `scrubDueBesideFailed` the count stays 0. -/
theorem not_memoryUpkeep : ¬ Obligations.MemoryUpkeep := by
  intro h
  obtain ⟨-, -, -, -, -, hScrub, -⟩ := h
  obtain ⟨t, ht, -, hCount, -⟩ := hScrub 4 [0] [] 0 scrubDueBesideFailed rfl (by decide +kernel) (by decide +kernel) (by decide +kernel) rfl rfl
    (by decide +kernel)
  have hBefore : scrubDueBesideFailed.rd (tgtCe 4) = 0 := by decide +kernel
  rw [scrubDueBesideFailed_uncounted ht, hBefore] at hCount
  exact absurd hCount (by decide)

end Sys2Proof.Machine
end

