-- ==== Sys2Proof/Proofs/MemoryModules.lean ====
section
/-!
PROOF. What targets and modules show, the reads of a module's SPD (spec/10_memory_controllers.md R384, R385, R389, R391), its temperature (R390), training (R399, R400) and regions offered
(spec/07_buffers.md R256).
-/
namespace Sys2Proof.Machine

theorem command_reaches {i : Instr} {p : Prog} {s v : State} (h : i.wellFormed = true) (hRun : p.run s.begun = v) : command i p s = .next v :=
  (command_runs p s h).trans (congrArg Host.Outcome.next hRun)

/-! ### What targets and modules show (R383 to R391, R399) -/

/-- The fields of DDRC_MOD that a module's SPD fills. -/
def modFlds (d k : Nat) : List Fld := [DDRC_MOD.TYPE d k, DDRC_MOD.RANKS d k, DDRC_MOD.CAP_GIB d k, DDRC_MOD.SERIAL d k, DDRC_MOD.MFR_ID d k,
  DDRC_MOD.DRFM d k, DDRC_MOD.PASR d k]

section Keeps
variable {l : List Piece} {R : List Fld} {T : List Nat}

theorem keeps_setTgt {t st cause : Nat} (h : tgtState t ∈ R) (h' : tgtCause t ∈ R) : (setTgt t st cause).Keeps l R T :=
  keeps_andThen (keeps_setF h) (keeps_setF h')

theorem keeps_modShow {d k : Nat} {m : List Nat} (hR : modFlds d k ⊆ R) : (modShow d k m).Keeps l R T := by
  simp only [modFlds, List.cons_subset] at hR
  obtain ⟨hType, hRanks, hCap, hSerial, hMfr, hDrfm, hPasr, -⟩ := hR
  exact keeps_seqs_cons (keeps_setF hType) (keeps_seqs_cons (keeps_setF hRanks) (keeps_seqs_cons (keeps_setF hCap) (keeps_seqs_cons (keeps_setF hSerial)
    (keeps_seqs_cons (keeps_setF hMfr) (keeps_seqs_cons (keeps_setF hDrfm) (keeps_seqs_cons (keeps_setF hPasr) keeps_seqs_nil))))))

end Keeps

theorem memXAt_setMem (s : State) (t : Nat) (f : MemX → MemX) (k : Nat) : ((setMem t f).run s).memXAt k = if k = t then f (s.memXAt t) else s.memXAt k := by
  unfold setMem
  rw [run_look, run_put, Act.memX_apply]

theorem rd_setMem (s : State) (t : Nat) (f : MemX → MemX) (g : Fld) : ((setMem t f).run s).rd g = s.rd g := rd_put s (by simp) g

theorem State.modulesOf_congr {s t : State} {d : Nat} (h : t.memXAt (d + 4) = s.memXAt (d + 4)) : t.modulesOf d = s.modulesOf d := by
  unfold State.modulesOf
  rw [h]

/-- A channel has two sockets. -/
theorem length_modulesOf_le (s : State) (d : Nat) : (s.modulesOf d).length ≤ 2 := by
  unfold State.modulesOf
  rw [List.length_map]
  exact List.length_filter_le _ [_, _]

theorem rd_modShow_cap (s : State) (d : Nat) {k : Nat} (m : List Nat) (hk : k < 2) :
    ((modShow d k m).run s).rd (DDRC_MOD.CAP_GIB d k) = m.getD 5 0 % 2 ^ ((DDRC_MOD.CAP_GIB d k).hi + 1 - (DDRC_MOD.CAP_GIB d k).lo) := by
  unfold modShow
  iterate 7 rw [run_seqs_cons]
  rw [run_seqs_nil]
  iterate 4 rw [rd_setF_apart _ _ (by simp only [Fld.apart, DDRC_MOD.CAP_GIB, DDRC_MOD.SERIAL, DDRC_MOD.MFR_ID, DDRC_MOD.DRFM, DDRC_MOD.PASR]; omega)]
  exact rd_setF _ _ _ (by simp only [DDRC_MOD.CAP_GIB]; omega)

/-- What a channel shows once its modules have been read: how many it uses, and where it uses none, that it is empty or EXCLUDED and why (R384, R385). -/
def modulesShow (ch : Nat) (slot0 slot1 : List Nat) : Prog := .look fun t =>
  let n := (t.modulesOf ch).length
  .andThen (setF (DDRC_STAT.MODULES ch) n) (
    if slot0.isEmpty && slot1.isEmpty then setTgt (ch + 4) 0 0
    else if slot0.isEmpty then setTgt (ch + 4) 4 4
    else if n == 0 then setTgt (ch + 4) 4 (if slot0.getD 0 0 != 1 then 1 else 2)
    else .skip)

/-- The fields that it writes. -/
def modulesFlds (ch : Nat) : List Fld := [DDRC_STAT.MODULES ch, tgtState (ch + 4), tgtCause (ch + 4)]

theorem keeps_modulesShow {ch : Nat} {slot0 slot1 : List Nat} : (modulesShow ch slot0 slot1).Keeps [] (modulesFlds ch) [] := by
  have hTgt : ∀ st cause, (setTgt (ch + 4) st cause).Keeps [] (modulesFlds ch) [] := fun _ _ =>
    keeps_setTgt (by simp [modulesFlds]) (by simp [modulesFlds])
  exact keeps_look fun _ => keeps_andThen (keeps_setF (by simp [modulesFlds])) (keeps_ite (fun _ => hTgt _ _) fun _ => keeps_ite (fun _ => hTgt _ _)
    fun _ => keeps_ite (fun _ => hTgt _ _) fun _ => keeps_skip)

/-- A channel's STATE and CAUSE stand beside the other fields of their register. -/
theorem rd_setTgt (s : State) {t st cause : Nat} {f : Fld} (hf : f.off < 65536) (hApart : f.off ≠ 0x210 ∨ f.hi < 25) :
    ((setTgt t st cause).run s).rd f = s.rd f := by
  have hFlds : ∀ g ∈ [tgtState t, tgtCause t], g.off < 65536 ∧ g.apart f := by
    intro g hg
    simp only [List.mem_cons, List.not_mem_nil, or_false] at hg
    rcases hg with rfl | rfl <;> simp only [Fld.apart, tgtState, tgtCause, tgtFld, ite_self] <;> omega
  exact Prog.Keeps.rd (l := []) (T := []) (keeps_setTgt (by simp) (by simp)) s f hf hFlds

/-- MODULES shows how many modules the channel uses. -/
theorem rd_modulesShow (s : State) (ch : Nat) (slot0 slot1 : List Nat) :
    ((modulesShow ch slot0 slot1).run s).rd (DDRC_STAT.MODULES ch) = (s.modulesOf ch).length := by
  have hCount : ((setF (DDRC_STAT.MODULES ch) (s.modulesOf ch).length).run s).rd (DDRC_STAT.MODULES ch) = (s.modulesOf ch).length := by
    have hTwo := length_modulesOf_le s ch
    exact rd_setF_fits s (by simp only [DDRC_STAT.MODULES]; omega)
  have hTgt : ∀ (u : State) st cause, ((setTgt (ch + 4) st cause).run u).rd (DDRC_STAT.MODULES ch) = u.rd (DDRC_STAT.MODULES ch) := fun u _ _ =>
    rd_setTgt u (by simp only [DDRC_STAT.MODULES]; omega) (.inr (by simp only [DDRC_STAT.MODULES]; omega))
  refine Eq.trans ?_ hCount
  unfold modulesShow
  rw [run_look, run_andThen]
  split
  · exact hTgt _ _ _
  · split
    · exact hTgt _ _ _
    · split
      · exact hTgt _ _ _
      · rfl

/-! ### SPD_READ (R384, R385, R389) -/

/-- A channel whose hubs have been read, with its modules' words and what it keeps of their SPD. -/
def spdKept (ch : Nat) (slot0 slot1 : List Nat) (s : State) : State :=
  (setMem (ch + 4) (fun x => { x with spd0 := slot0, spd1 := if slot0.isEmpty then [] else slot1, ident := true, repaired := s.ddrRepairs ch [slot0, slot1] })).run
    ((modShow ch 1 slot1).run ((modShow ch 0 slot0).run s))

theorem memXAt_modShow (s : State) (d k : Nat) (m : List Nat) (t : Nat) : ((modShow d k m).run s).memXAt t = s.memXAt t :=
  State.same_memXAt (Prog.Keeps.same (l := []) (T := []) (keeps_modShow (List.Subset.refl (modFlds d k))) s .memX (by decide)) t

theorem memXAt_modulesShow (s : State) (ch : Nat) (slot0 slot1 : List Nat) (t : Nat) : ((modulesShow ch slot0 slot1).run s).memXAt t = s.memXAt t :=
  State.same_memXAt (keeps_modulesShow.same s .memX (by decide)) t

/-- What the channel keeps of the SPD. -/
theorem memXAt_spdKept (s : State) (ch : Nat) (slot0 slot1 : List Nat) (t : Nat) : (spdKept ch slot0 slot1 s).memXAt t =
    if t = ch + 4 then { s.memXAt (ch + 4) with spd0 := slot0, spd1 := if slot0.isEmpty then [] else slot1, ident := true, repaired := s.ddrRepairs ch [slot0, slot1] }
    else s.memXAt t := by
  unfold spdKept
  rw [memXAt_setMem, memXAt_modShow, memXAt_modShow, memXAt_modShow, memXAt_modShow]

theorem rd_spdKept_cap (s : State) (ch : Nat) (slot0 slot1 : List Nat) : (spdKept ch slot0 slot1 s).rd (DDRC_MOD.CAP_GIB ch 0) =
    slot0.getD 5 0 % 2 ^ ((DDRC_MOD.CAP_GIB ch 0).hi + 1 - (DDRC_MOD.CAP_GIB ch 0).lo) := by
  have hSecond : ∀ g ∈ modFlds ch 1, g.off < 65536 ∧ g.apart (DDRC_MOD.CAP_GIB ch 0) := by
    intro g hg
    simp only [modFlds, List.mem_cons, List.not_mem_nil, or_false] at hg
    rcases hg with rfl | rfl | rfl | rfl | rfl | rfl | rfl <;>
      simp only [Fld.apart, DDRC_MOD.TYPE, DDRC_MOD.RANKS, DDRC_MOD.CAP_GIB, DDRC_MOD.SERIAL, DDRC_MOD.MFR_ID, DDRC_MOD.DRFM, DDRC_MOD.PASR] <;> omega
  unfold spdKept
  rw [rd_setMem, Prog.Keeps.rd (l := []) (T := []) (keeps_modShow (List.Subset.refl (modFlds ch 1))) _ _ (by simp only [DDRC_MOD.CAP_GIB]; omega) hSecond]
  exact rd_modShow_cap s ch slot0 (by decide)

/-- The pieces and fields that reading a channel's modules may write. -/
theorem spdKept_framed (s : State) (ch : Nat) (slot0 slot1 : List Nat) : s.framed (spdKept ch slot0 slot1 s) [.emitted, .memX] (modFlds ch 0 ++ modFlds ch 1) [] :=
  State.framed_trans (keeps_modShow (by simp) s) (State.framed_trans (keeps_modShow (by simp) _) (keeps_setMem (by simp) _))

/-- Once every channel has been identified, the reference module is fixed (R385). -/
def fixOnceIdentified : Prog := .look fun t => onlyIf ((List.range 16).all (fun d => (t.memXAt (d + 4)).ident)) fixReference

theorem fixOnceIdentified_waits {s : State} {d : Nat} (hd : d < 16) (h : (s.memXAt (d + 4)).ident = false) : fixOnceIdentified.run s = s :=
  run_look_skip (List.all_eq_false.mpr ⟨d, List.mem_range.mpr hd, by simp [h]⟩)

/-- What SPD_READ does. -/
def spdReadSteps (ch : Nat) (slot0 slot1 : List Nat) : Prog := .look fun s =>
  onlyIf (s.rd (DDRC_STAT.STATE ch) == 1 && !(s.memXAt (ch + 4)).ident) (seqs [
    modShow ch 0 slot0,
    modShow ch 1 slot1,
    setMem (ch + 4) (fun x => { x with spd0 := slot0, spd1 := if slot0.isEmpty then [] else slot1, ident := true, repaired := s.ddrRepairs ch [slot0, slot1] }),
    modulesShow ch slot0 slot1,
    fixOnceIdentified])

theorem exec_spdRead (ch : Nat) (slot0 slot1 : List Nat) (s : State) :
    exec (.spdRead ch slot0 slot1) s = command (.spdRead ch slot0 slot1) (spdReadSteps ch slot0 slot1) s := rfl

/-- A channel in training and not yet identified: its modules are read and shown. -/
theorem spdReadSteps_run {ch : Nat} {slot0 slot1 : List Nat} {s : State} (hState : s.rd (DDRC_STAT.STATE ch) = 1) (hNew : (s.memXAt (ch + 4)).ident = false) :
    (spdReadSteps ch slot0 slot1).run s = fixOnceIdentified.run ((modulesShow ch slot0 slot1).run (spdKept ch slot0 slot1 s)) := by
  unfold spdReadSteps spdKept
  rw [run_look_onlyIf (by simp [hState, hNew])]
  iterate 5 rw [run_seqs_cons]
  rw [run_seqs_nil]

/-- The state that SPD_READ leaves while another channel has still to be identified: no reference is fixed. -/
theorem spdRead_answers {ch d : Nat} {slot0 slot1 : List Nat} {s : State} (hWf : Instr.wellFormed (.spdRead ch slot0 slot1) = true)
    (hState : s.rd (DDRC_STAT.STATE ch) = 1) (hNew : (s.memXAt (ch + 4)).ident = false) (hd : d < 16) (hOther : d ≠ ch)
    (hOpen : (s.memXAt (d + 4)).ident = false) :
    exec (.spdRead ch slot0 slot1) s = .next ((modulesShow ch slot0 slot1).run (spdKept ch slot0 slot1 s.begun)) := by
  have hOpenShown : (((modulesShow ch slot0 slot1).run (spdKept ch slot0 slot1 s.begun)).memXAt (d + 4)).ident = false := by
    rw [memXAt_modulesShow, memXAt_spdKept, if_neg (by omega)]
    exact hOpen
  rw [exec_spdRead]
  exact command_reaches hWf ((spdReadSteps_run (s := s.begun) hState hNew).trans (fixOnceIdentified_waits hd hOpenShown))

theorem spdRead_identifies {ch d : Nat} {slot0 slot1 : List Nat} {s : State} (hWf : Instr.wellFormed (.spdRead ch slot0 slot1) = true)
    (hState : s.rd (DDRC_STAT.STATE ch) = 1) (hNew : (s.memXAt (ch + 4)).ident = false) (hd : d < 16) (hOther : d ≠ ch)
    (hOpen : (s.memXAt (d + 4)).ident = false) (hFull : slot0 ≠ []) :
    ∃ t, exec (.spdRead ch slot0 slot1) s = .next t ∧ (t.memXAt (ch + 4)).ident ∧ (t.memXAt (ch + 4)).spd0 = slot0 ∧ (t.memXAt (ch + 4)).spd1 = slot1 ∧
      t.rd (DDRC_MOD.CAP_GIB ch 0) = slot0.getD 5 0 % 2 ^ ((DDRC_MOD.CAP_GIB ch 0).hi + 1 - (DDRC_MOD.CAP_GIB ch 0).lo) ∧
      t.rd (DDRC_STAT.MODULES ch) = (t.modulesOf ch).length ∧
      s.framed t [.emitted, .memX] (modFlds ch 0 ++ modFlds ch 1 ++ modulesFlds ch) [] := by
  have hMem := memXAt_modulesShow (spdKept ch slot0 slot1 s.begun) ch slot0 slot1 (ch + 4)
  have hSpd1 : (if slot0.isEmpty then [] else slot1) = slot1 := if_neg (by simpa using hFull)
  have hCap : ∀ g ∈ modulesFlds ch, g.off < 65536 ∧ g.apart (DDRC_MOD.CAP_GIB ch 0) := by
    intro g hg
    simp only [modulesFlds, List.mem_cons, List.not_mem_nil, or_false] at hg
    rcases hg with rfl | rfl | rfl <;> simp only [Fld.apart, DDRC_MOD.CAP_GIB, DDRC_STAT.MODULES, tgtState, tgtCause, tgtFld, ite_self] <;> omega
  refine ⟨_, spdRead_answers hWf hState hNew hd hOther hOpen, ?_, ?_, ?_, ?_, ?_, ?_⟩
  · rw [hMem, memXAt_spdKept, if_pos rfl]
  · rw [hMem, memXAt_spdKept, if_pos rfl]
  · rw [hMem, memXAt_spdKept, if_pos rfl]
    exact hSpd1
  · rw [keeps_modulesShow.rd _ _ (by simp only [DDRC_MOD.CAP_GIB]; omega) hCap]
    exact rd_spdKept_cap s.begun ch slot0 slot1
  · rw [rd_modulesShow, State.modulesOf_congr hMem]
  · exact State.framed_trans (begun_framed (by simp) s) (State.framed_trans
      (State.framed_mono (spdKept_framed s.begun ch slot0 slot1) (List.Subset.refl _) (List.subset_append_left _ _) (List.Subset.refl _))
      (State.framed_mono (keeps_modulesShow _) (List.nil_subset _) (List.subset_append_right _ _) (List.Subset.refl _)))

/-! ### One byte of an SPD (R391) -/

theorem spdCmdDone_reads {ch data : Nat} {ack : Bool} {s : State} (hWf : Instr.wellFormed (.spdCmdDone ch ack data) = true)
    (hBusy : s.rd (DDRC_SPD_CMD.BUSY ch) = 1) (hAck : ack = true) :
    ∃ t, exec (.spdCmdDone ch ack data) s = .next t ∧ t.rd (DDRC_SPD_CMD.BUSY ch) = 0 ∧ t.rd (DDRC_SPD_CMD.ERR ch) = 0 ∧
      t.rd (DDRC_SPD_CMD.DATA ch) = data % 2 ^ ((DDRC_SPD_CMD.DATA ch).hi + 1 - (DDRC_SPD_CMD.DATA ch).lo) ∧
      s.framed t [.emitted] [DDRC_SPD_CMD.BUSY ch, DDRC_SPD_CMD.ERR ch, DDRC_SPD_CMD.DATA ch] [] := by
  subst hAck
  simp only [exec, execSpdCmdDone]
  refine command_answers hWf ?_
  rw [run_look_onlyIf (by simp [hBusy])]
  refine ⟨?_, ?_, ?_, State.framed_trans (begun_framed (by simp) s) (keeps_seqs_cons (keeps_setF (by simp)) (keeps_seqs_cons (keeps_setF (by simp))
    (keeps_seqs_cons (keeps_onlyIf fun _ => keeps_setF (by simp)) keeps_seqs_nil)) _)⟩
  all_goals
    iterate 3 rw [run_seqs_cons]
    rw [run_seqs_nil, run_onlyIf_true _ _ rfl]
  · rw [rd_setF_apart _ _ (by simp only [Fld.apart, DDRC_SPD_CMD.BUSY, DDRC_SPD_CMD.DATA]; omega),
      rd_setF_apart _ _ (by simp only [Fld.apart, DDRC_SPD_CMD.BUSY, DDRC_SPD_CMD.ERR]; omega)]
    exact rd_setF_fits _ (by simp only [DDRC_SPD_CMD.BUSY]; omega)
  · rw [rd_setF_apart _ _ (by simp only [Fld.apart, DDRC_SPD_CMD.ERR, DDRC_SPD_CMD.DATA]; omega)]
    exact rd_setF_fits _ ⟨by simp only [DDRC_SPD_CMD.ERR]; omega, b2n_lt_two (!true)⟩
  · exact rd_setF _ _ _ (by simp only [DDRC_SPD_CMD.DATA]; omega)

/-! ### MODULE_TEMP_POLL (R390) -/

/-- What follows the first module's temperature: the second's, the throttling of the channel, and its report where it begins. -/
def tempFollow (ch : Nat) (t1 : Int) (hot : Nat) (s : State) : Prog := seqs [
  onlyIf (s.rd (DDRC_MOD.TYPE ch 1) != 0) (setF (DDRC_MOD.TEMP_C ch 1) (t1 % 256).toNat),
  setF (DDRC_STAT.THROTTLED ch) (b2n (decide (4 ≤ hot))),
  onlyIf (decide (4 ≤ hot) && s.rd (DDRC_STAT.THROTTLED ch) == 0) (.andThen (raise (152 + ch) 21) (report (152 + ch) 0x023 3))]

/-- The fields that it writes. -/
def tempFlds (ch : Nat) : List Fld := [DDRC_MOD.TEMP_C ch 1, DDRC_STAT.THROTTLED ch] ++ errFlds (152 + ch) ++ irqFlds (152 + ch) 21

theorem keeps_tempFollow {ch hot : Nat} {t1 : Int} {u : State} : (tempFollow ch t1 hot u).Keeps errPieces (tempFlds ch) [] :=
  keeps_seqs_cons (keeps_onlyIf fun _ => keeps_setF (by simp [tempFlds])) (keeps_seqs_cons (keeps_setF (by simp [tempFlds])) (keeps_seqs_cons
    (keeps_onlyIf fun _ => keeps_andThen (keeps_raise (errPieces_irq (List.Subset.refl _)) fun _ hx => by simp [tempFlds, hx])
      (keeps_reportError (List.Subset.refl _) fun _ hx => by simp [tempFlds, hx])) keeps_seqs_nil))

/-- What a poll that is due does, with the marks of heat that it comes to. -/
def tempPollSteps (ch : Nat) (t0 t1 : Int) (hot : Nat) (s : State) : Prog :=
  .andThen (setMem (ch + 4) (fun y => { y with hot := hot, tempAt := s.mono }))
    (.andThen (onlyIf (s.rd (DDRC_MOD.TYPE ch 0) != 0) (setF (DDRC_MOD.TEMP_C ch 0) (t0 % 256).toNat)) (tempFollow ch t1 hot s))

theorem exec_moduleTempPoll (ch : Nat) (t0 t1 : Int) : ∃ hot : State → Nat, ∀ s, exec (.moduleTempPoll ch t0 t1) s = command (.moduleTempPoll ch t0 t1)
    (.look fun u => onlyIf (u.memReady (ch + 4) && u.since (u.memXAt (ch + 4)).tempAt 100000000) (tempPollSteps ch t0 t1 (hot u) u)) s :=
  ⟨_, fun _ => rfl⟩

/-- What an error of a page writes is apart from the page's own registers. -/
theorem errFlds_apart {page : Nat} {f : Fld} (hPage : page < 1024) (hf : f.page ≠ 2 ∧ f.page ≠ 5 ∧ 0x200 ≤ f.off) :
    ∀ g ∈ errFlds page, g.off < 65536 ∧ g.apart f := by
  intro g hg
  simp only [errFlds, List.mem_append] at hg
  rcases hg with (hg | hg) | hg
  · simp only [List.mem_cons, List.not_mem_nil, or_false] at hg
    rcases hg with rfl | rfl | rfl | rfl | rfl | rfl | rfl | rfl | rfl <;>
      simp only [Fld.apart, ERRCAP_ADDR_LO.reg, ERRCAP_ADDR_HI.reg, ERRCAP_MASTER.reg, ERRCAP_KIND.reg, ERRCAP_TIME_LO.reg, ERRCAP_TIME_HI.reg,
        ERRCAP_DATA.reg, ERRCAP_CTRL.reg, CRY_DROPPED.reg] <;> omega
  · exact irqFlds_apart hPage hf.1 (.inr (by omega)) g hg
  · exact irqFlds_apart hPage hf.1 (.inr (by omega)) g hg

/-- A poll that is due keeps its time, shows the first module's temperature, and goes on to the rest. -/
theorem moduleTempPoll_answers {ch : Nat} {t0 t1 : Int} {s : State} (hWf : Instr.wellFormed (.moduleTempPoll ch t0 t1) = true)
    (hReady : s.memReady (ch + 4) = true) (hDue : s.since (s.memXAt (ch + 4)).tempAt 100000000 = true) (hModule : s.rd (DDRC_MOD.TYPE ch 0) ≠ 0) :
    ∃ hot, exec (.moduleTempPoll ch t0 t1) s = .next ((tempFollow ch t1 hot s.begun).run ((setF (DDRC_MOD.TEMP_C ch 0) (t0 % 256).toNat).run
      ((setMem (ch + 4) (fun y => { y with hot := hot, tempAt := s.mono })).run s.begun))) := by
  have hReadyBegun : s.begun.memReady (ch + 4) = true := hReady
  have hDueBegun : s.begun.since (s.begun.memXAt (ch + 4)).tempAt 100000000 = true := hDue
  obtain ⟨hot, hExec⟩ := exec_moduleTempPoll ch t0 t1
  refine ⟨hot s.begun, (hExec s).trans (command_reaches hWf ?_)⟩
  rw [run_look_onlyIf (by simp [hReadyBegun, hDueBegun])]
  unfold tempPollSteps
  rw [run_andThen, run_andThen, run_onlyIf_true _ _ (by simp [hModule])]
  rfl

theorem moduleTempPoll_shows {ch : Nat} {t0 t1 : Int} {s : State} (hWf : Instr.wellFormed (.moduleTempPoll ch t0 t1) = true)
    (hReady : s.memReady (ch + 4) = true) (hDue : s.since (s.memXAt (ch + 4)).tempAt 100000000 = true) (hModule : s.rd (DDRC_MOD.TYPE ch 0) ≠ 0) :
    ∃ t, exec (.moduleTempPoll ch t0 t1) s = .next t ∧ t.rd (DDRC_MOD.TEMP_C ch 0) = (t0 % 256).toNat ∧ (t.memXAt (ch + 4)).tempAt = s.mono ∧
      s.framed t [[.memX], errPieces].flatten [[DDRC_MOD.TEMP_C ch 0, DDRC_MOD.TEMP_C ch 1, DDRC_STAT.THROTTLED ch], errFlds (152 + ch),
        irqFlds (152 + ch) 21].flatten [] := by
  have hCh : ch < 16 := by simpa only [Instr.wellFormed, decide_eq_true_eq] using hWf
  obtain ⟨hot, hRun⟩ := moduleTempPoll_answers (t1 := t1) (t0 := t0) hWf hReady hDue hModule
  have hApart : ∀ g ∈ tempFlds ch, g.off < 65536 ∧ g.apart (DDRC_MOD.TEMP_C ch 0) := by
    intro g hg
    simp only [tempFlds, List.mem_append] at hg
    rcases hg with (hg | hg) | hg
    · simp only [List.mem_cons, List.not_mem_nil, or_false] at hg
      rcases hg with rfl | rfl <;> simp only [Fld.apart, DDRC_MOD.TEMP_C, DDRC_STAT.THROTTLED] <;> omega
    · exact errFlds_apart (by omega) (by simp only [DDRC_MOD.TEMP_C]; omega) g hg
    · exact irqFlds_apart (by omega) (by simp only [DDRC_MOD.TEMP_C]; omega) (.inr (by simp only [DDRC_MOD.TEMP_C]; omega)) g hg
  refine ⟨_, hRun, ?_, ?_, ?_⟩
  · rw [keeps_tempFollow.rd _ _ (by simp only [DDRC_MOD.TEMP_C]; omega) hApart]
    exact rd_setF_fits _ (by simp only [DDRC_MOD.TEMP_C]; omega)
  · rw [State.same_memXAt (keeps_tempFollow.same _ .memX (by decide)), show ∀ u : State, ((setF (DDRC_MOD.TEMP_C ch 0) (t0 % 256).toNat).run u).memXAt (ch + 4) =
      u.memXAt (ch + 4) from fun _ => rfl, memXAt_setMem, if_pos rfl]
  · refine State.framed_trans (begun_framed (by decide) s) (State.framed_trans (keeps_setMem (by simp) _) (State.framed_trans (keeps_setF (by simp) _)
      (State.framed_mono (keeps_tempFollow _) (by simp) ?_ (List.Subset.refl _))))
    intro g hg
    simp only [tempFlds, List.mem_append, List.flatten_cons, List.flatten_nil, List.append_nil] at hg ⊢
    rcases hg with (hg | hg) | hg
    · exact .inl (List.mem_cons_of_mem _ hg)
    · exact .inr (.inl hg)
    · exact .inr (.inr hg)

/-! ### MEM_TRAINING_DONE (R382, R399, R400) -/

theorem run_spareLanes_nil (t : Nat) (s : State) : (spareLanes t []).run s = s := by
  unfold spareLanes
  cases isStack t <;> rfl

theorem memTrainingDone_trains {target : Nat} {ok : Bool} {lanes : List Nat} {s : State} (hWf : Instr.wellFormed (.memTrainingDone target ok lanes) = true)
    (hTraining : s.rd (tgtState target) = stTraining target) (hNew : (s.memXAt target).trained = false) (hSpare : (s.memXAt target).failing ≠ 4)
    (hOk : ok = true) (hLanes : lanes = []) :
    ∃ t, exec (.memTrainingDone target ok lanes) s = .next t ∧ (t.memXAt target).trained ∧ s.framed t [.emitted, .memX] [] [] := by
  have hNewBegun : (s.begun.memXAt target).trained = false := hNew
  have hSpareBegun : ((s.begun.memXAt target).failing == 4) = false := beq_false_of_ne hSpare
  subst hOk hLanes
  have hRun : exec (.memTrainingDone target true []) s = .next ((setMem target (fun x => { x with trained := true })).run s.begun) := by
    simp only [exec, execMemTrainingDone]
    refine command_reaches hWf ?_
    rw [run_look_onlyIf (by simp [hTraining, hNewBegun]), if_neg (by decide), run_andThen, run_spareLanes_nil, run_look, if_neg (by simp [hSpareBegun])]
  refine ⟨_, hRun, ?_, State.framed_trans (begun_framed (by simp) s) (keeps_setMem (by simp) _)⟩
  rw [memXAt_setMem, if_pos rfl]

/-! ### REGION_IDLE_OFFER (R256, R403) -/

theorem regionIdleOffer_masks {sru u : Nat} {s : State} (hWf : Instr.wellFormed (.regionIdleOffer sru) = true) (hPasr : s.pasrOn = true)
    (hUp : s.rd GRN_STAT.STATE = 2) (hUnit : u = s.rd DDRC_SHARE.SRU_GIB) (hPos : 0 < u) (hIn : (sru + 1) * u ≤ s.rd GRN_CAP.BUF_REGIONS)
    (hAwake : s.sruMask.contains sru = false) (hFree : regionsIn (s.freeAges.filter (fun x => s.since x.2.1 1000000000)) sru = u)
    (hFits : s.rd GRN_STAT.IDLE_REGIONS + u < 2 ^ 16) :
    ∃ t, exec (.regionIdleOffer sru) s = .next t ∧ t.rd GRN_STAT.IDLE_REGIONS = s.rd GRN_STAT.IDLE_REGIONS + u ∧ t.sruMask = s.sruMask ++ [sru] ∧
      s.framed t [.emitted, .sruMask] [GRN_STAT.IDLE_REGIONS] [] := by
  subst hUnit
  have hRun : exec (.regionIdleOffer sru) s = .next ((setF GRN_STAT.IDLE_REGIONS (s.rd GRN_STAT.IDLE_REGIONS + s.rd DDRC_SHARE.SRU_GIB)).run
      ((Prog.put (.sruMask (s.sruMask ++ [sru]))).run s.begun)) := by
    have hOffer : (s.begun.pasrOn && s.begun.rd GRN_STAT.STATE == 2 && s.begun.rd DDRC_SHARE.SRU_GIB != 0 &&
        decide ((sru + 1) * s.begun.rd DDRC_SHARE.SRU_GIB ≤ s.begun.rd GRN_CAP.BUF_REGIONS) && !s.begun.sruMask.contains sru &&
        regionsIn (s.begun.freeAges.filter (fun x => s.begun.since x.2.1 1000000000)) sru == s.begun.rd DDRC_SHARE.SRU_GIB) = true := by
      rw [show s.begun.pasrOn = true from hPasr, show s.begun.sruMask.contains sru = false from hAwake,
        show regionsIn (s.begun.freeAges.filter (fun x => s.begun.since x.2.1 1000000000)) sru = s.rd DDRC_SHARE.SRU_GIB from hFree]
      simp only [s.begun_rd, hUp, hIn, decide_true, Bool.and_true, Bool.true_and, beq_self_eq_true, Bool.not_false, bne_iff_ne]
      omega
    simp only [exec, execRegionIdleOffer]
    refine command_reaches hWf ?_
    rw [run_look_onlyIf hOffer]
    rfl
  refine ⟨_, hRun, rd_setF_fits _ ⟨by decide, hFits⟩, rfl, State.framed_trans (begun_framed (by simp) s)
    (State.framed_trans (keeps_put (by simp) (by simp) (by simp) _) (keeps_setF (by simp) _))⟩

end Sys2Proof.Machine
end

