-- ==== Sys2Proof/Proofs/TierTwoBuild.lean ====
section
/-!
PROOF. Tier 2 is built over a stack that has trained (spec/10_memory_controllers.md R399, R400): what a program leaves alone, by its pieces and registers, and CONTROL_AREA_FILLED.
-/
namespace Sys2Proof.Machine

/-! ### Programs by their pieces and registers -/

/-- Every write of the program is to one of the pieces named, and none is to the register that shows a stack's STATE. -/
def Prog.Beside (l : List Piece) (k : Nat) (p : Prog) : Prop := p.All fun a => a.piece ∈ l ∧ a.regsIn (· ≠ regKey (tgtPage k) 0x210)

section Beside
variable {l : List Piece} {k : Nat}

theorem Prog.Beside.onlyIn {p : Prog} (h : p.Beside l k) (s : State) : s.onlyIn (p.run s) l := Prog.Only.onlyIn (Prog.All.mono (fun _ ha => ha.1) h) s

theorem Prog.Beside.rd_state {p : Prog} (h : p.Beside l k) (s : State) : (p.run s).rd (tgtState k) = s.rd (tgtState k) := by
  have hReg := Prog.regsAt_run (Prog.All.mono (fun _ ha => ha.2) h) s (regKey (tgtPage k) 0x210) (fun hne => hne rfl)
  have hOff : (tgtState k).off = 0x210 := ite_self _
  rw [State.rd, State.rd, State.reg, State.reg, hOff]
  exact congrArg (fieldOf · _ _) hReg

theorem Prog.Beside.memReady {p : Prog} (h : p.Beside l k) (s : State) : (p.run s).memReady k = s.memReady k := by
  rw [State.memReady, State.memReady, h.rd_state]

/-- A field of another page, or at another offset, than the stack's STATE. -/
def Fld.besideState (f : Fld) (k : Nat) : Prop := f.off < 65536 ∧ (f.page ≠ tgtPage k ∨ f.off ≠ 0x210)

theorem Fld.besideState.key {f : Fld} (h : f.besideState k) : regKey f.page f.off ≠ regKey (tgtPage k) 0x210 := fun e =>
  h.2.elim (fun hne => hne (regKey_inj h.1 (by decide) e).1) fun hne => hne (regKey_inj h.1 (by decide) e).2

theorem beside_setF {f : Fld} {v : Nat} (hl : .regs ∈ l) (h : f.besideState k) : (setF f v).Beside l k := fun _ => ⟨hl, h.key⟩

theorem beside_put {a : Act} (hl : a.piece ∈ l) (h : a.piece ≠ .regs) : (Prog.put a).Beside l k := by
  refine ⟨hl, ?_⟩
  cases a with
  | page a => cases a with
    | regs j v => exact absurd rfl h
    | _ => trivial
  | _ => trivial

theorem beside_bumpF {f : Fld} {n : Nat} (hl : .regs ∈ l) (h : f.besideState k) : (bumpF f n).Beside l k := fun _ => beside_setF hl h

theorem beside_emit {e : Emit} (hl : .emitted ∈ l) : (emit e).Beside l k := fun _ => beside_put hl (by simp)

theorem beside_hostSend {o : Emit} (hl : .regs ∈ l) (hIrq : irqPieces ⊆ l) : (hostSend o).Beside l k := fun s => by
  obtain ⟨hEmit, -, -, -, hWork⟩ := irqPieces_mem hIrq
  exact ⟨all_onlyIf fun _ => beside_setF hl ⟨by decide, .inr (by decide)⟩, fun _ => beside_put hWork (by simp),
    beside_emit hEmit⟩

theorem beside_signalVector {fn vec : Nat} (hl : .regs ∈ l) (hIrq : irqPieces ⊆ l) : (signalVector fn vec).Beside l k := fun s => by
  obtain ⟨-, hMsix, -⟩ := irqPieces_mem hIrq
  exact all_ite trivial (all_ite (beside_put hMsix (by simp)) (beside_hostSend hl hIrq))

/-- An interrupt event of any page leaves the stacks' STATE alone. -/
theorem beside_raise {page bit : Nat} (hl : .regs ∈ l) (hIrq : irqPieces ⊆ l) (hPage : page < 1024) : (raise page bit).Beside l k := fun s => by
  obtain ⟨-, -, hInta, hSince, -⟩ := irqPieces_mem hIrq
  have hSum : (PCIE_BLK_IRQ_SUM.reg (page / 32)).besideState k :=
    ⟨by simp only [PCIE_BLK_IRQ_SUM.reg]; omega, .inr (by simp only [PCIE_BLK_IRQ_SUM.reg]; omega)⟩
  have hStat : Fld.besideState ⟨page, 0x10, 31, 0⟩ k := ⟨by simp, .inr (by simp)⟩
  refine ⟨⟨hl, hStat.key⟩, fun _ => ⟨fun _ => beside_setF hl hSum, fun t => ?_, fun t => ?_, fun t => ?_⟩⟩
  · exact all_onlyIf fun _ => ⟨beside_put hSince (by simp), beside_signalVector hl hIrq⟩
  · exact all_onlyIf fun _ => beside_put hSince (by simp)
  · exact all_onlyIf fun _ => ⟨beside_put hInta (by simp), all_onlyIf fun _ => beside_hostSend hl hIrq⟩

/-! ### Rows accessed (R397, R405 to R407) -/

/-- The count of a target's row refreshes stands beside every STATE. -/
theorem besideState_tgtNref {t : Nat} : (tgtNref t).besideState k := by
  unfold Fld.besideState tgtNref tgtFld
  constructor
  · dsimp only; split <;> decide
  · right; dsimp only; split <;> decide

theorem beside_activate {t bank r : Nat} (hl : .regs ∈ l) (hRow : rowPieces ⊆ l) : (activate t bank r).Beside l k := fun s => by
  obtain ⟨hTable, hOpen, -, -, hEmit⟩ := rowPieces_mem hRow
  exact all_ite ⟨beside_put hTable (by simp), beside_bumpF hl besideState_tgtNref, beside_emit hEmit, beside_put hOpen (by simp)⟩
    (beside_put hTable (by simp))

theorem beside_rowAccess {t bank row cls : Nat} (hl : .regs ∈ l) (hRow : rowPieces ⊆ l) : (rowAccess t bank row cls).Beside l k := fun s => by
  obtain ⟨-, hOpen, -⟩ := rowPieces_mem hRow
  have hPut : ∀ key x, (Prog.put (.openRow key x)).Beside l k := fun _ _ => beside_put hOpen (by simp)
  simp only
  cases s.openRowAt (bankKey t bank) with
  | none => exact ⟨hPut _ _, beside_activate hl hRow⟩
  | some o => exact all_ite (hPut _ _) ⟨hPut _ _, beside_activate hl hRow⟩

theorem beside_lateAccess {tier cls c : Nat} (hl : .regs ∈ l) (hRow : rowPieces ⊆ l) : (lateAccess tier cls c).Beside l k := fun s => by
  obtain ⟨-, -, hWait, -⟩ := rowPieces_mem hRow
  simp only
  cases s.memPlace tier (s.accAddr tier cls c) false with
  | none => trivial
  | some x => exact all_ite (beside_rowAccess hl hRow) (beside_put hWait (by simp))

theorem beside_freeAccess {tier cls : Nat} (hl : .regs ∈ l) (hRow : rowPieces ⊆ l) : (freeAccess tier cls).Beside l k := fun s => by
  obtain ⟨-, -, -, hFresh, -⟩ := rowPieces_mem hRow
  exact ⟨beside_put hFresh (by simp), beside_lateAccess hl hRow⟩

/-! ### Tier 2 is built (R399, R400) -/

/-- A field of the buffer manager stands beside every stack's STATE. -/
theorem besideState_bpm {f : Fld} (hk : k < 4) (hPage : f.page = 144) (hOff : f.off < 65536) : f.besideState k :=
  ⟨hOff, .inl (by rw [hPage, tgtPage]; split <;> omega)⟩

theorem beside_setUse {r v : Nat} (hl : .regs ∈ l) (hUse : .reqUse ∈ l) (hk : k < 4) (hr : r < 72) : (setUse 2 r v).Beside l k :=
  ⟨beside_put hUse (by simp), fun _ => beside_setF hl (besideState_bpm hk rfl (by simp only [BPM_REQ_USE.HBM_MIB]; omega)),
    fun _ => beside_setF hl (besideState_bpm hk rfl (by decide))⟩

theorem beside_tierUp {regions : Nat} (hl : .regs ∈ l) (hPool : .poolUse ∈ l) (hUse : .reqUse ∈ l) (hIrq : irqPieces ⊆ l) (hk : k < 4) :
    (tierUp 2 regions).Beside l k := fun s => by
  have hRaise : (raise 144 (15 + 2)).Beside l k := beside_raise hl hIrq (by decide)
  refine ⟨beside_setF hl (besideState_bpm hk rfl (by decide)), all_each _ _ fun x hx => ?_, all_each _ _ fun r hr => ?_, all_onlyIf fun h => ?_,
    beside_setF hl (besideState_bpm hk rfl (by decide)), all_onlyIf fun _ => hRaise,
    fun _ => beside_setF hl (besideState_bpm hk rfl (by decide))⟩
  · have hPoolLt : x.1 < 6 := List.mem_range.mp (List.of_mem_zip (a := x.1) (b := x.2) hx).1
    exact ⟨beside_put hPool (by simp), beside_setF hl (besideState_bpm hk rfl (by simp only [BPM_POOL_STAT.REGIONS]; omega)),
      beside_setF hl (besideState_bpm hk rfl (by simp only [BPM_POOL_STAT.FREE_BUF]; omega))⟩
  · exact beside_setUse hl hUse hk (List.mem_range.mp (List.mem_filter.mp hr).1)
  · exact absurd h (by decide)

end Beside

/-! ### CONTROL_AREA_FILLED (R399, R400) -/

/-- A target that has trained is READY, and its upkeep counts from now. -/
def targetUp (t now : Nat) : Prog := .andThen (setTgt t (stReady t) 0) (setMem t (fun x => { x with pauseAt := now, tempAt := now, scrubAt := now }))

/-- Tier 2 is built over the stacks that are READY. -/
def tier2Up : Prog := .look fun t => seqs [
  setF HBMC_IL_STAT.STACKS t.readyStacks,
  setF HBMC_IL_STAT.GRAIN_USED (min 8 (t.cfg HBMC_IL_CFG.GRAIN)),
  tierUp 2 (hbmRegions (stackTargets.filter (fun k => t.memReady k)).length),
  .put (.tier2On true),
  freeAccess 2 7]

theorem exec_controlAreaFilled_hbm (s : State) : exec (.controlAreaFilled false) s = command (.controlAreaFilled false) (.look fun u =>
    let open_ := stackTargets.filter (fun t => u.rd (tgtState t) == stTraining t)
    onlyIf (!open_.isEmpty && !(u.tier2On || u.tier2Rebuild.isSome) && open_.all (fun t => (u.memXAt t).trained))
      (.andThen (each open_ fun t => targetUp t u.mono) tier2Up)) s := rfl

/-- The pieces that building tier 2 writes: nothing that the controllers keep. -/
def tier2Pieces : List Piece := [[.regs, .poolUse, .reqUse, .tier2On], rowPieces, irqPieces].flatten

theorem memReady_targetUp {k now : Nat} {s : State} : ((targetUp k now).run s).memReady k = true := by
  have hReady : stReady k < 2 ^ 3 := by unfold stReady; split <;> decide
  have hShown : ((targetUp k now).run s).rd (tgtState k) = stReady k := by
    rw [targetUp, run_andThen, rd_setMem, setTgt, run_andThen, rd_setF_apart _ _ (by simp only [Fld.apart, tgtState, tgtCause, tgtFld, ite_self]; omega)]
    exact rd_setF_fits s ⟨by simp only [tgtState, tgtFld]; omega, hReady⟩
  rw [State.memReady, hShown]
  exact beq_self_eq_true _

theorem pauseAt_targetUp {k now : Nat} {s : State} : (((targetUp k now).run s).memXAt k).pauseAt = now := by
  rw [targetUp, run_andThen, memXAt_setMem, if_pos rfl]

theorem only_targetUp {k now : Nat} : (targetUp k now).Only [.regs, .memX] :=
  ⟨⟨only_setF (by decide), only_setF (by decide)⟩, fun _ => show Piece.memX ∈ _ by decide⟩

theorem beside_tier2Up {k : Nat} (hk : k < 4) : tier2Up.Beside tier2Pieces k := fun _ =>
  ⟨beside_setF (by decide) ⟨by decide, .inr (by decide)⟩, beside_setF (by decide) ⟨by decide, .inr (by decide)⟩,
    beside_tierUp (by decide) (by decide) (by decide) (by decide) hk, beside_put (by decide) (by simp), beside_freeAccess (by decide) (by decide)⟩

theorem tier2On_tier2Up (s : State) {k : Nat} : (tier2Up.run s).tier2On = true := by
  have hAccess : (freeAccess 2 7).Beside (.regs :: rowPieces) k := beside_freeAccess (by decide) (by decide)
  unfold tier2Up
  rw [run_look]
  iterate 5 rw [run_seqs_cons]
  rw [run_seqs_nil]
  exact (hAccess.onlyIn _ .tier2On (by decide)).symm

theorem controlAreaFilled_builds {granary : Bool} {k : Nat} {s : State} (hWf : Instr.wellFormed (.controlAreaFilled granary) = true)
    (hTier : granary = false) (hOff : s.tier2On = false) (hRebuild : s.tier2Rebuild = none)
    (hOpen : stackTargets.filter (fun t => s.rd (tgtState t) == stTraining t) = [k]) (hTrained : (s.memXAt k).trained = true) :
    ∃ t, exec (.controlAreaFilled granary) s = .next t ∧ t.memReady k ∧ t.tier2On ∧ (t.memXAt k).pauseAt = s.mono ∧
      s.onlyIn t [[.regs, .memX, .poolUse, .reqUse, .tier2On], rowPieces, irqPieces].flatten := by
  subst hTier
  have hk : k < 4 := List.mem_range.mp (List.mem_filter.mp (hOpen ▸ List.mem_singleton_self k : k ∈ stackTargets.filter _)).1
  have hOpenBegun : stackTargets.filter (fun t => s.begun.rd (tgtState t) == stTraining t) = [k] := hOpen
  have hTrainedBegun : (s.begun.memXAt k).trained = true := hTrained
  have hOffBegun : (s.begun.tier2On || s.begun.tier2Rebuild.isSome) = false := by
    rw [show s.begun.tier2On = false from hOff, show s.begun.tier2Rebuild = none from hRebuild]
    rfl
  have hTarget : [Piece.regs, .memX] ⊆ [[.regs, .memX, .poolUse, .reqUse, .tier2On], rowPieces, irqPieces].flatten := by decide
  have hBuild : tier2Pieces ⊆ [[.regs, .memX, .poolUse, .reqUse, .tier2On], rowPieces, irqPieces].flatten := by decide
  have hRun : exec (.controlAreaFilled false) s = .next (tier2Up.run ((targetUp k s.mono).run s.begun)) := by
    refine (exec_controlAreaFilled_hbm s).trans (command_reaches hWf ?_)
    simp only
    rw [run_look, hOpenBegun, hOffBegun, run_onlyIf_true _ _ (by simp [hTrainedBegun]), run_andThen, run_each_cons, run_each_nil]
    rfl
  refine ⟨_, hRun, ?_, tier2On_tier2Up (k := k) _, ?_, begun_onlyIn (by decide) fun f hf => ?_⟩
  · rw [(beside_tier2Up hk).memReady]
    exact memReady_targetUp
  · rw [State.same_memXAt ((beside_tier2Up hk).onlyIn _ .memX (by decide))]
    exact pauseAt_targetUp
  · exact State.same_trans (only_targetUp.onlyIn _ f fun h => hf (hTarget h)) ((beside_tier2Up hk).onlyIn _ f fun h => hf (hBuild h))

end Sys2Proof.Machine
end

