-- ==== Sys2Proof/Proofs/MemoryStartAndModules.lean ====
section
/-!
PROOF. The register writes SPD_CMD (spec/10_memory_controllers.md R391) and GRANARY_REENABLE (spec/07_buffers.md R286, spec/10_memory_controllers.md R414), and the statement about the
memory's start.
-/
namespace Sys2Proof.Machine

/-! ### SPD_CMD (R391) -/

theorem keeps_spdGo {ch n : Nat} : (spdGo ch n).Keeps [.emitted] [DDRC_SPD_CMD.reg ch] [] :=
  keeps_look fun _ => keeps_onlyIf fun _ => keeps_seqs_cons (keeps_setF_in (List.mem_singleton_self _)) (keeps_seqs_cons
    (keeps_setF_in (List.mem_singleton_self _)) (keeps_seqs_cons (keeps_emit (List.mem_singleton_self _)) keeps_seqs_nil))

theorem spdCmd_framed {m ch : Nat} {data : Word} {s : State} (hWf : Instr.wellFormed (.spdCmd m ch data) = true) (hTakes : s.takesCmd m (152 + ch) = true)
    (hBusy : s.rd (DDRC_SPD_CMD.BUSY ch) = 0) :
    ∃ t, exec (.spdCmd m ch data) s = .next t ∧ s.framed t hostPieces [[DDRC_SPD_CMD.reg ch], recFlds].flatten [] := by
  obtain ⟨hWrite, hEn⟩ := takesCmd_takes hTakes
  have hCh : ch < 16 := by
    simp only [Instr.wellFormed, Bool.and_eq_true, decide_eq_true_eq] at hWf
    exact hWf.2
  obtain ⟨d, hPlain, -, -⟩ := plainReg_decl (plainReg_spdCmd ch hCh)
  have hGo : bitOf (data ||| 1).toNat 0 = true := by
    rw [bitOf_toNat, BitVec.getLsbD_or]
    simp
  have hStarts : ∀ u, s.recorded u → u.writeRefused m (152 + ch) 0x244 (data ||| 1).toNat = false := by
    intro u hu
    have hBusyRec : u.rd (DDRC_SPD_CMD.BUSY ch) = 0 := (hu.rd (by simp only [DDRC_SPD_CMD.BUSY]; omega)).trans hBusy
    have hOn := hu.enabled (page := 152 + ch) (by omega) hEn
    have hPage : 152 + ch < 168 ∧ 152 + ch ≠ 101 := by omega
    generalize data ||| 1 = n at hGo ⊢
    simp [State.writeRefused, hOn, hBusyRec, hGo, isQuota, hPage]
  have hWriteGo : ∀ v : Word, (tmWrite m (152 + ch) 0x244 v (data ||| 1)).Keeps [.emitted] [DDRC_SPD_CMD.reg ch] [] := fun v u => by
    rw [tmWrite_spdCmd hCh]
    exact keeps_spdGo u
  simp only [exec, execSpdCmd]
  obtain ⟨t, ht, -, hFrame⟩ := command_hostWrite_framed (E := fun _ => True) hWf hWrite hPlain hStarts
    (fun v _ => keeps_regDo_tm (by omega) (by decide) hWriteGo v) (by decide) (l' := hostPieces) (by decide)
    (R' := [[DDRC_SPD_CMD.reg ch], recFlds].flatten) (by simp) fun _ _ _ _ => trivial
  exact ⟨t, ht, hFrame⟩

/-! ### GRANARY_REENABLE (R286, R414) -/

/-- The fields that a write of GRN_CFG writes. -/
def grnCfgFlds : List Fld := [GRN_CFG.reg, GRN_STAT.reg] ++ (List.range 16).flatMap fun c => [tgtState (c + 4), tgtCause (c + 4), DDRC_STAT.reg c]

theorem channelFlds_mem {t : Nat} (h : t ∈ channels) : tgtState t ∈ grnCfgFlds ∧ tgtCause t ∈ grnCfgFlds ∧ DDRC_STAT.reg (t - 4) ∈ grnCfgFlds := by
  obtain ⟨c, hc, rfl⟩ := List.mem_map.mp h
  have hMem : ∀ f ∈ [tgtState (c + 4), tgtCause (c + 4), DDRC_STAT.reg c], f ∈ grnCfgFlds := fun f hf =>
    List.mem_append_right _ (List.mem_flatMap.mpr ⟨c, hc, hf⟩)
  exact ⟨hMem _ (by simp), hMem _ (by simp), hMem _ (by simp)⟩

theorem keeps_grnCfgWrite {m n : Nat} : (grnCfgWrite m n).Keeps [.grnBy, .memX, .sruMask] grnCfgFlds [] := by
  have hStat : GRN_STAT.reg ∈ grnCfgFlds := by simp [grnCfgFlds]
  refine keeps_look fun s => keeps_andThen ?_ (keeps_onlyIf fun _ => ?_)
  · exact keeps_seqs_cons (keeps_setReg (by simp [grnCfgFlds, GRN_CFG.reg])) (keeps_seqs_cons (keeps_onlyIf fun _ => keeps_put (by simp) (by simp) (by simp))
      (keeps_seqs_cons (keeps_onlyIf fun _ => keeps_andThen (keeps_setF_in hStat) (keeps_put (by simp) (by simp) (by simp))) keeps_seqs_nil))
  · refine keeps_seqs_cons (keeps_setF_in hStat) (keeps_seqs_cons (keeps_each fun t ht => ?_) (keeps_seqs_cons (keeps_each fun t ht => ?_) keeps_seqs_nil))
    · obtain ⟨hState, hCause, hReg⟩ := channelFlds_mem (List.mem_filter.mp ht).1
      exact keeps_seqs_cons (keeps_setTgt hState hCause) (keeps_seqs_cons (keeps_onlyIf fun _ => keeps_setF_in hReg)
        (keeps_seqs_cons (keeps_setMem (by simp)) keeps_seqs_nil))
    · obtain ⟨hState, hCause, -⟩ := channelFlds_mem (List.mem_filter.mp ht).1
      exact keeps_andThen (keeps_setTgt hState hCause) (keeps_setMem (by simp))

theorem granaryReenable_framed {m : Nat} {data : Word} {s : State} (hWf : Instr.wellFormed (.granaryReenable m data) = true)
    (hTakes : s.takesWrite m 146 = true) :
    ∃ t, exec (.granaryReenable m data) s = .next t ∧ s.framed t [[.grnBy, .memX, .sruMask], hostPieces].flatten [[GRN_CFG.reg, GRN_STAT.reg],
      (List.range 16).flatMap (fun c => [tgtState (c + 4), tgtCause (c + 4), DDRC_STAT.reg c]), recFlds].flatten [] := by
  obtain ⟨d, hPlain, -, -⟩ := plainReg_decl plainReg_grnCfg
  have hStarts : ∀ u, s.recorded u → u.writeRefused m 146 0x200 data.toNat = false := fun u _ => by
    simp [State.writeRefused, startsWork, isQuota]
  simp only [exec, execGranaryReenable]
  obtain ⟨t, ht, -, hFrame⟩ := command_hostWrite_framed (E := fun _ => True) hWf hTakes hPlain hStarts
    (fun v _ => keeps_regDo_tm (by decide) (by decide) (fun w u => by rw [tmWrite_grnCfg]; exact keeps_grnCfgWrite u) v) (by decide)
    (l' := [[.grnBy, .memX, .sruMask], hostPieces].flatten) (by decide)
    (R' := grnCfgFlds ++ recFlds) (by simp) fun _ _ _ _ => trivial
  refine ⟨t, ht, ?_⟩
  simpa only [grnCfgFlds, List.flatten_cons, List.flatten_nil, List.append_nil, List.append_assoc] using hFrame

/-- Settles O38, clause by clause: the steps of each command on its state, and what they may write. -/
theorem memoryStartAndModules : Obligations.MemoryStartAndModules := by
  unfold Obligations.MemoryStartAndModules
  refine ⟨fun ch slot0 slot1 d s => spdRead_identifies, fun ch ack data s => spdCmdDone_reads, fun ch t0 t1 s => moduleTempPoll_shows,
    fun target ok lanes s => memTrainingDone_trains, fun granary k s => controlAreaFilled_builds, fun sru u s => regionIdleOffer_masks,
    fun m ch data s => spdCmd_framed, fun m data s hWf hTakes _ _ _ => granaryReenable_framed hWf hTakes⟩

end Sys2Proof.Machine
end

