-- ==== Sys2Proof/Proofs/GateListsRefutation.lean ====
section
/-!
PROOF. A list change of the time gates that empties the HEAD of a queue in spill state (spec/08_queues_and_scheduling.md R323, R325; spec/07_buffers.md R271).
-/
namespace Sys2Proof.Machine

/-- Port 0 has a pending list whose instant has come: a window of 10 ns in a cycle of 1,000 ns.  Queue 40, of the port's class 0, is in spill state: HEAD holds one frame of 9,000
bytes, longer than 10 ns at every port rate, and MIDDLE one segment in tier 2. -/
def starvingChange : State :=
  (seqs [
    setF (BLK_CTRL.ENABLE 180) 1,
    .put (.gateX 0 { pend := some { cycle := 1000, list := [(0xFF, 10), (0, 990)] } }),
    setTab 145 1 0 (({} : Entry).put PROF.HEAD_KEEP 64),
    .put (.bodies 3 { refs := 1 }), .put (.bodies 4 { refs := 1 }), .put (.bufs 7 { size := 10240, held := 1, body := 3 }),
    .put (.qx 40 { spill := true, t1 := 10240, hbm := 10240,
                   head := [{ body := 3, buf := 7, lenSrc := 1, frameLen := 9000 }], mid := [{ pkts := [({ body := 4 }, 10240, none)] }] })]).run State.reset

theorem starvingChange_pend : (starvingChange.gateXAt 0).pend = some { cycle := 1000, list := [(0xFF, 10), (0, 990)] } := by decide +kernel

/-- No head starvation has been counted. -/
theorem starvingChange_starves : starvingChange.starves = 0 := by decide +kernel

/-- The frame fits no window of the new list and is discarded; HEAD is then empty while MIDDLE is not, which is counted as a head starvation. -/
theorem starvingChange_counts {t : State} (h : exec (.gateListChange 0) starvingChange = .next t) : t.starves = 1 := by
  simp only [exec, execGateListChange] at h
  rw [command_state h]
  decide +kernel

/-- Refutes O35: its clause on GATE_LIST_CHANGE leaves the count of head starvations out of what the command may write, though it names the interrupt that goes with it (BUF
BLOCK_INT bit 19).  In `starvingChange` the new list makes the only frame in HEAD one that can never be sent; its discard (R323) empties HEAD before MIDDLE, and that is counted
(R271). -/
theorem not_gateLists : ¬ Obligations.GateLists := by
  intro h
  obtain ⟨-, -, hChange⟩ := h
  obtain ⟨t, ht, -, -, -, -, -, -, hFrame⟩ := hChange 0 _ starvingChange rfl (by decide +kernel) starvingChange_pend (Nat.zero_le _)
  have hSame : starvingChange.starves = t.starves := State.framed_same hFrame .starves (by decide)
  rw [starvingChange_starves, starvingChange_counts ht] at hSame
  exact absurd hSame (by decide)

end Sys2Proof.Machine
end

