-- ==== Sys2Proof/Proofs/FabricRefutations.lean ====
section
/-!
PROOF. Statements about the fabric that a concrete state refutes: a cell that comes before a HELLO has named a generation (spec/09_fabric.md R342), and a multicast packet that goes
behind one which no link takes any more (R344, R375).
-/
namespace Sys2Proof.Machine

/-! ### A cell before the peer's HELLO (R342) -/

/-- Link 30 has just entered TEST: no HELLO has named its peer's generation, which RX_GEN shows as 0. -/
def unnamedPeer : State := (setF (FLC_LINK_STAT.STATE 2 6) 3).run State.reset

/-- An FC cell of generation 0 that stops privileged and SLOT cells. -/
def unnamedFc : List Byte := (linkCellBytes 0 3 [2]).map (BitVec.ofNat 8)

/-- The cell is discarded: the link's flow-control state stays. -/
theorem unnamedFc_discarded {t : State} (h : exec (.linkCellReceive 30 unnamedFc (false, 0)) unnamedPeer = .next t) : t.rd (FLC_LINK_STAT.FC 2 6) = 0 := by
  simp only [exec, execLinkCellReceive] at h
  rw [command_state h]
  decide +kernel

/-- Refutes O23: its clause on LINK_CELL_RECEIVE takes RX_GEN for the peer's generation also where it is 0, but then no HELLO has named one, and every cell is discarded
(R342).  In `unnamedPeer` the clause asks that an FC cell of LGEN 0 sets FC to 2, and the model leaves it 0. -/
theorem not_linkLoss : ¬ Obligations.LinkLoss := by
  intro h
  obtain ⟨-, -, -, hCell, -⟩ := h
  obtain ⟨t, ht, hFc, -⟩ := hCell 30 unnamedFc false 0 unnamedPeer rfl rfl (by decide +kernel) (by decide +kernel) (by decide +kernel) (by decide +kernel)
    (by decide +kernel) (by decide +kernel)
  rw [unnamedFc_discarded ht] at hFc
  exact absurd hFc (by decide +kernel)

/-! ### A multicast packet behind one that no link takes (R344, R375) -/

/-- A packet of group 10, devices 2 and 3, none of whose bytes has arrived yet. -/
def partedPkt : Pkt := { body := 4, dev := 2, queue := 40, tc := 1, declMax := 100, group := some 10 }

/-- A whole packet of group 9, device 2. -/
def followingPkt : Pkt := { body := 3, dev := 2, queue := 40, tc := 1, declMax := 100, group := some 9 }

/-- The packet of group 10 is open in the multicast stream with its bytes taken from both windows, when the link that reached both its devices has gone: link 5 reaches device 2,
link 6 device 3, and none both.  The packet of group 9 is staged behind it. -/
def partedLinks : State := (seqs [
    setF FAB_SYS_CFG.EN 1, setF FAB_SYS_CFG.MAX_DEV 7, setF FAB_DEV_ID.ID 1, setF (BLK_CTRL.ENABLE 242) 1, setF MCR_MC_CFG.WINDOW_KIB 100,
    setF (FLC_LINK_STAT.STATE 0 5) 5, setF (FLC_LINK_STAT.REACH_VALID 0 5) 1, .put (.linkX 5 { reach := 4 }),
    setF (FLC_LINK_STAT.STATE 0 6) 5, setF (FLC_LINK_STAT.REACH_VALID 0 6) 1, .put (.linkX 6 { reach := 8 }),
    setTab 242 0 9 { ext := 4 }, setTab 242 0 10 { ext := 12 },
    .put (.bodies 4 { refs := 1 }), .put (.cellOpen 2048 [(partedPkt, 0, 0)]), .put (.mcOut 2 256), .put (.mcOut 3 256),
    .put (.bodies 3 { bytes := List.replicate 100 1, whole := true, refs := 1 }), .put (.stgMc [followingPkt])]).run State.reset

/-- MC_SEND of group 9 takes 256 bytes of device 2's window, and the stream, going on, gives back the 256 bytes of the packet of group 10, for which no link qualifies. -/
theorem partedLinks_gives {t : State} (h : exec (.mcSend 9) partedLinks = .next t) : t.mcOutAt 2 = 256 := by
  simp only [exec, execMcSend] at h
  rw [command_state h]
  decide +kernel

/-- Refutes O33: its clause on MC_SEND has each member owe the packet's bytes beside what it owed before, whatever is open in the multicast stream, but the stream goes on with the
packets ahead, and one of which no cell was sent and for which no link qualifies is discarded (R344) and gives its window back (R375).  In `partedLinks` the clause asks for 512
bytes of device 2, and the model gives 256. -/
theorem not_cellsAndMulticast : ¬ Obligations.CellsAndMulticast := by
  intro h
  obtain ⟨-, -, hSend, -⟩ := h
  obtain ⟨t, ht, -, hOut, -⟩ := hSend 9 followingPkt partedLinks rfl (by decide +kernel) (by decide +kernel) rfl (by decide +kernel) (by decide +kernel)
    (by decide +kernel) (by decide +kernel) (by decide +kernel) (by decide +kernel) (by decide +kernel) (by decide +kernel)
  have hTwo := hOut 2 (by decide)
  rw [partedLinks_gives ht] at hTwo
  exact absurd hTwo (by decide +kernel)

end Sys2Proof.Machine
end

