-- ==== Sys2Proof/Proofs/FabricLinkFrames.lean ====
section
/-!
SUPPORT. What a fabric link's change of state may write and what it leaves of the link (spec/09_fabric.md R339, R343).
-/
namespace Sys2Proof.Machine

/-! ### What a link's change of state may write (R339, R343) -/

/-- Every bit of the first field stands in the second. -/
def Fld.within (f g : Fld) : Prop := g.page = f.page ∧ g.off = f.off ∧ g.lo ≤ f.lo ∧ f.hi ≤ g.hi

/-- A frame holds with fields that contain its own. -/
theorem State.framed_widen {s t : State} {l : List Piece} {R R' : List Fld} {T : List Nat} (h : s.framed t l R T) (hR : ∀ f ∈ R, ∃ g ∈ R', f.within g) :
    s.framed t l R' T :=
  ⟨h.1, fun k b hk => h.2.1 k b fun f hf hc => by
    obtain ⟨g, hg, hPage, hOff, hLo, hHi⟩ := hR f hf
    obtain ⟨hKey, hFrom, hTo⟩ := hc
    exact hk g hg ⟨by rw [hPage, hOff, hKey], hLo.trans hFrom, hTo.trans hHi⟩, h.2.2⟩

/-- The pieces that a link's entry into a state writes. -/
def linkStatePieces : List Piece := [.linkX, .unreachAt] ++ irqPieces

/-- The fields that a link's entry into a state writes: STATE, the count of links that are UP, and the interrupts of its cluster and of FAB. -/
def linkStateFlds (k : Nat) : List Fld := [[FLC_LINK_STAT.STATE (k / 12) (k % 12), FAB_STAT.LINKS_UP] ++ irqFlds (244 + k / 12) (16 + k % 12),
  irqFlds 240 16, irqFlds 240 17].flatten

section Keeps
variable {l : List Piece} {R : List Fld} {T : List Nat} {k : Nat}

theorem linkStatePieces_irq (hl : linkStatePieces ⊆ l) : irqPieces ⊆ l := fun _ hx => hl (List.mem_append_right _ hx)

theorem keeps_putLinkX {x : LinkX} (h : .linkX ∈ l) : (Prog.put (.linkX k x)).Keeps l R T := keeps_put h (by simp) (by simp)

theorem keeps_reachLost {s : State} (h : .unreachAt ∈ l) (hl : irqPieces ⊆ l) (hR : irqFlds 240 17 ⊆ R) : (reachLost s).Keeps l R T :=
  keeps_look fun _ => keeps_onlyIf fun _ => keeps_andThen (keeps_each fun _ _ => keeps_put h (by simp) (by simp)) (keeps_onlyIf fun _ => keeps_raise hl hR)

theorem keeps_linkFollow {st : Nat} {s : State} (hl : linkStatePieces ⊆ l) (hR : linkStateFlds k ⊆ R) : (linkFollow k st s).Keeps l R T := by
  have hIrq := linkStatePieces_irq hl
  exact keeps_seqs_cons (keeps_putLinkX (hl (by simp [linkStatePieces])))
    (keeps_seqs_cons (keeps_look fun _ => keeps_setF (hR (by simp [linkStateFlds])))
      (keeps_seqs_cons (keeps_onlyIf fun _ => keeps_andThen (keeps_raise hIrq fun _ hf => hR (by simp [linkStateFlds, hf]))
        (keeps_raise hIrq fun _ hf => hR (by simp [linkStateFlds, hf]))) keeps_seqs_nil))

theorem keeps_setLinkState {st : Nat} (hl : linkStatePieces ⊆ l) (hR : linkStateFlds k ⊆ R) : (setLinkState k st).Keeps l R T := fun s => by
  rw [setLinkState_run]
  exact State.framed_trans (keeps_setF (hR (by simp [linkStateFlds])) s)
    (State.framed_trans (keeps_reachLost (hl (by simp [linkStatePieces])) (linkStatePieces_irq hl) (fun _ hf => hR (by simp [linkStateFlds, hf])) _)
      (keeps_linkFollow hl hR _))

theorem keeps_linkTrain (hl : linkStatePieces ⊆ l) (hTx : FLC_LINK_STAT.TX_GEN (k / 12) (k % 12) ∈ R) (hPeer : FLC_LINK_PEER.VALID (k / 12) (k % 12) ∈ R)
    (hR : linkStateFlds k ⊆ R) : (linkTrain k).Keeps l R T :=
  keeps_look fun _ => keeps_seqs_cons (keeps_setF hTx) (keeps_seqs_cons (keeps_setF hPeer) (keeps_seqs_cons (keeps_setLinkState hl hR) keeps_seqs_nil))

theorem keeps_sendLinkCell {sub : Nat} {payload : List Nat} (he : .emitted ∈ l) (hc : .counters ∈ l) (hs : .snapSaved ∈ l) :
    (sendLinkCell k sub payload).Keeps l R T := keeps_look fun _ => keeps_onlyIf fun _ => keeps_andThen (keeps_emit he) (keeps_count hc hs)

end Keeps

/-! ### What a link knows of itself -/

theorem State.same_linkXAt {s t : State} (h : s.same t .linkX) (k : Nat) : t.linkXAt k = s.linkXAt k := by
  have hSame : s.linkX = t.linkX := h
  rw [State.linkXAt, ← hSame]
  rfl

theorem linkXAt_put (s : State) (k : Nat) (x : LinkX) : ((Prog.put (.linkX k x)).run s).linkXAt k = x := (Sp.get_set _ _ _ _).trans (if_pos rfl)

/-- A link that enters a state notes the time, and forgets nothing. -/
theorem linkXAt_setLinkState (s : State) (k st : Nat) : ((setLinkState k st).run s).linkXAt k = { s.linkXAt k with stateAt := s.mono } := by
  have hRest : (seqs [.look fun t => setF FAB_STAT.LINKS_UP ((List.range 144).filter (fun j => t.linkUp j)).length,
      onlyIf (s.linkState k != st) (.andThen (raise (244 + k / 12) (16 + k % 12)) (raise 240 16))]).Keeps irqPieces (linkStateFlds k) [] :=
    keeps_seqs_cons (keeps_look fun _ => keeps_setF (by simp [linkStateFlds]))
      (keeps_seqs_cons (keeps_onlyIf fun _ => keeps_andThen (keeps_raise (List.Subset.refl _) fun _ hf => by simp [linkStateFlds, hf])
        (keeps_raise (List.Subset.refl _) fun _ hf => by simp [linkStateFlds, hf])) keeps_seqs_nil)
  rw [setLinkState_run, linkFollow, run_seqs_cons, State.same_linkXAt (hRest.same _ .linkX (by decide)), linkXAt_put]

end Sys2Proof.Machine
end

