-- ==== Sys2Proof/Proofs/LinkTraining.lean ====
section
/-!
PROOF. The life of a fabric link up to UP (spec/09_fabric.md R339 to R341), and what FAB_SYS_ENABLE and RESTART leave alone (R356, R363, R376).
-/
namespace Sys2Proof.Machine

/-! ### From TRAIN to UP (R339 to R341) -/

/-- What a program changes beside the emissions of the step before, which a command takes back. -/
theorem Prog.Keeps.begun {q : Prog} {l : List Piece} {R : List Fld} {T : List Nat} (h : q.Keeps l R T) (he : .emitted ∈ l) (s : State) :
    s.framed (q.run s.begun) l R T := State.framed_trans (begun_framed he s) (h _)

theorem run_either_true {b : Bool} (p q : Prog) (s : State) (h : b = true) : (either b p q).run s = p.run s := by subst h; rfl

/-- The pieces that a link's command writes, with the cells that it sends. -/
def linkSentPieces : List Piece := [[.linkX, .unreachAt, .counters, .snapSaved], irqPieces].flatten

theorem linkStatePieces_sent : linkStatePieces ⊆ linkSentPieces := by decide

theorem setLinkState_begun (k st : Nat) (s : State) : s.framed ((setLinkState k st).run s.begun) linkSentPieces (linkStateFlds k) [] :=
  (keeps_setLinkState linkStatePieces_sent (List.Subset.refl _)).begun (by decide) s

theorem fabricLinkTrained_aligns {k : Nat} {ok : Bool} {s : State} (hWf : Instr.wellFormed (.fabricLinkTrained k ok) = true) (hState : s.linkState k = 1)
    (hPrbs : s.cfg (FLC_LINK_CTRL.PRBS (k / 12) (k % 12)) = 0) (hOk : ok = true) (hTime : s.mono ≤ (s.linkXAt k).stateAt + 200000000) :
    ∃ t, exec (.fabricLinkTrained k ok) s = .next t ∧ t.linkState k = 2 ∧ (t.linkXAt k).stateAt = s.mono ∧
      s.framed t linkSentPieces (linkStateFlds k) [] := by
  have hk : k < 144 := by simpa [Instr.wellFormed] using hWf
  have hDue : s.begun.linkState k = 1 ∧ s.begun.cfg (FLC_LINK_CTRL.PRBS (k / 12) (k % 12)) = 0 ∧ s.begun.mono ≤ (s.begun.linkXAt k).stateAt + 200000000 :=
    ⟨hState, hPrbs, hTime⟩
  obtain ⟨hTrain, hStill, hSoon⟩ := hDue
  simp only [exec, execFabricLinkTrained]
  refine ⟨(setLinkState k 2).run s.begun, command_reaches hWf ?_, setLinkState_shows hk (by decide) _, ?_, setLinkState_begun k 2 s⟩
  · rw [run_look, run_onlyIf_true _ _ (by simp [hTrain, hStill]), run_either_true _ _ _ (by simp [hOk, hSoon])]
  · rw [linkXAt_setLinkState]
    rfl

/-- What a link sends when it enters TEST: its HELLO, the device's own REACH and the TEST pattern. -/
def testSends (k : Nat) (s : State) : Prog := seqs [
  sendLinkCell k 0 ([0] ++ toBytesBE 2 (s.rd FAB_DEV_ID.ID) ++ [k, s.rd (FLC_LINK_STAT.TX_GEN (k / 12) (k % 12))]),
  sendLinkCell k 2 (toBytesLE 128 (2 ^ s.rd FAB_DEV_ID.ID)),
  sendLinkCell k 4 (prbs31 (List.range 31 |>.map (fun i => bitOf (Config.prbsSeed k s.mono) i)) 1024)]

/-- What a link in TEST has heard from its peer is forgotten. -/
def testForgets (k : Nat) : Prog := .look fun t => .put (.linkX k { t.linkXAt k with gotHello := false, gotReach := false, testErr := false })

theorem keeps_testSends {l : List Piece} {R : List Fld} {T : List Nat} {k : Nat} {s : State} (he : .emitted ∈ l) (hc : .counters ∈ l) (hs : .snapSaved ∈ l) :
    (testSends k s).Keeps l R T :=
  keeps_seqs_cons (keeps_sendLinkCell he hc hs) (keeps_seqs_cons (keeps_sendLinkCell he hc hs) (keeps_seqs_cons (keeps_sendLinkCell he hc hs) keeps_seqs_nil))

theorem fabricLinkAlignEnd_tests {k : Nat} {locked : Bool} {s : State} (hWf : Instr.wellFormed (.fabricLinkAlignEnd k locked) = true) (hState : s.linkState k = 2)
    (hLocked : locked = true) (hSafe : s.fatalLatch = false) (hTime : s.mono ≤ (s.linkXAt k).stateAt + 1000000) :
    ∃ t, exec (.fabricLinkAlignEnd k locked) s = .next t ∧ t.linkState k = 3 ∧ (t.linkXAt k).gotHello = false ∧ (t.linkXAt k).gotReach = false ∧
      (t.linkXAt k).testErr = false ∧ s.framed t linkSentPieces (linkStateFlds k) [] := by
  have hk : k < 144 := by simpa [Instr.wellFormed] using hWf
  have hDue : s.begun.linkState k = 2 ∧ s.begun.fatalLatch = false ∧ s.begun.mono ≤ (s.begun.linkXAt k).stateAt + 1000000 := ⟨hState, hSafe, hTime⟩
  obtain ⟨hAlign, hLatch, hSoon⟩ := hDue
  have hSent := keeps_testSends (l := [.emitted, .counters, .snapSaved]) (R := []) (T := []) (k := k) (s := s.begun) (by decide) (by decide) (by decide)
    ((testForgets k).run ((setLinkState k 3).run s.begun))
  have hLink : ((testSends k s.begun).run ((testForgets k).run ((setLinkState k 3).run s.begun))).linkXAt k =
      { ((setLinkState k 3).run s.begun).linkXAt k with gotHello := false, gotReach := false, testErr := false } :=
    (State.same_linkXAt (State.framed_same hSent .linkX (by decide)) k).trans (linkXAt_put _ _ _)
  simp only [exec, execFabricLinkAlignEnd]
  refine ⟨(testSends k s.begun).run ((testForgets k).run ((setLinkState k 3).run s.begun)), command_reaches hWf ?_, ?_, ?_⟩
  · rw [run_look, run_onlyIf_true _ _ (by simp [hAlign, hLatch]), run_either_true _ _ _ (by simp [hLocked, hSoon]), run_seqs_cons, run_seqs_cons]
    rfl
  · rw [State.linkState, State.framed_rd hSent _ (by simp only [FLC_LINK_STAT.STATE]; omega) nofun]
    exact setLinkState_shows hk (by decide) _
  · rw [hLink]
    refine ⟨rfl, rfl, rfl, State.framed_trans (setLinkState_begun k 3 s) (State.framed_trans ?_ (State.framed_mono hSent (by decide) nofun nofun))⟩
    exact keeps_putLinkX (by decide) _

theorem fabricLinkTestEnd_holdsOff {k : Nat} {bad : Bool} {s : State} (hWf : Instr.wellFormed (.fabricLinkTestEnd k bad) = true) (hState : s.linkState k = 3)
    (hTime : s.since (s.linkXAt k).stateAt 10000000 = true) (hHello : (s.linkXAt k).gotHello = true) (hReach : (s.linkXAt k).gotReach = true)
    (hErr : (s.linkXAt k).testErr = false) (hBad : bad = false) :
    ∃ t, exec (.fabricLinkTestEnd k bad) s = .next t ∧ t.linkState k = 4 ∧ s.framed t linkSentPieces (linkStateFlds k) [] := by
  have hk : k < 144 := by simpa [Instr.wellFormed] using hWf
  have hDue : s.begun.linkState k = 3 ∧ s.begun.since (s.begun.linkXAt k).stateAt 10000000 = true := ⟨hState, hTime⟩
  have hHeard : s.begun.linkXAt k = s.linkXAt k := rfl
  obtain ⟨hTest, hDone⟩ := hDue
  simp only [exec, execFabricLinkTestEnd]
  refine ⟨(setLinkState k 4).run s.begun, command_reaches hWf ?_, setLinkState_shows hk (by decide) _, setLinkState_begun k 4 s⟩
  rw [run_look, run_onlyIf_true _ _ (by simp only [hTest, hDone, beq_self_eq_true, Bool.and_self]),
    run_either_true _ _ _ (by simp [hHeard, hHello, hReach, hErr, hBad])]

theorem fabricLinkHoldoffEnd_comesUp {k : Nat} {s : State} (hWf : Instr.wellFormed (.fabricLinkHoldoffEnd k) = true) (hState : s.linkState k = 4)
    (hTime : s.since (s.linkXAt k).stateAt (max 1 (s.rd (FLC_CFG.HOLDOFF_MS (k / 12))) * 1000000) = true) :
    ∃ t, exec (.fabricLinkHoldoffEnd k) s = .next t ∧ t.linkState k = 5 ∧ s.framed t linkSentPieces (linkStateFlds k) [] := by
  have hk : k < 144 := by simpa [Instr.wellFormed] using hWf
  have hDue : (s.begun.linkState k == 4 && s.begun.since (s.begun.linkXAt k).stateAt (max 1 (s.begun.rd (FLC_CFG.HOLDOFF_MS (k / 12))) * 1000000)) = true :=
    Bool.and_eq_true_iff.mpr ⟨beq_iff_eq.mpr hState, hTime⟩
  simp only [exec, execFabricLinkHoldoffEnd]
  exact ⟨(setLinkState k 5).run s.begun, command_reaches hWf (run_look_onlyIf hDue), setLinkState_shows hk (by decide) _, setLinkState_begun k 5 s⟩

/-! ### The fabric interface enabled: what it leaves alone (R356, R363, R376) -/

/-- The fields of a link that its training and its end write. -/
def linkEndFlds (k : Nat) : List Fld := [FLC_LINK_STAT.CAUSE (k / 12) (k % 12), FLC_LINK_STAT.TX_GEN (k / 12) (k % 12), FLC_LINK_STAT.RX_GEN (k / 12) (k % 12),
  FLC_LINK_STAT.FC (k / 12) (k % 12), FLC_LINK_STAT.REACH_VALID (k / 12) (k % 12), FLC_LINK_PEER.VALID (k / 12) (k % 12),
  FLC_LINK_DOWNS.reg (k / 12) (k % 12)] ++ linkStateFlds k

section Keeps
variable {l : List Piece} {R : List Fld} {T : List Nat}

theorem keeps_linkDown {k cause : Nat} (hl : linkSentPieces ⊆ l) (hR : linkEndFlds k ⊆ R) : (linkDown k cause).Keeps l R T := by
  have hSend : ∀ payload, (sendLinkCell k 1 payload).Keeps l R T := fun _ =>
    keeps_sendLinkCell (hl (by decide)) (hl (by decide)) (hl (by decide))
  refine keeps_look fun s => keeps_onlyIf fun _ => ?_
  exact keeps_seqs_cons (keeps_setF (hR (by simp [linkEndFlds]))) (keeps_seqs_cons (keeps_onlyIf fun _ => hSend _)
    (keeps_seqs_cons (keeps_setLinkState (fun _ hx => hl (linkStatePieces_sent hx)) (fun _ hf => hR (by simp [linkEndFlds, hf])))
      (keeps_seqs_cons (keeps_setF (hR (by simp [linkEndFlds]))) (keeps_seqs_cons (keeps_setF (hR (by simp [linkEndFlds])))
        (keeps_seqs_cons (keeps_setF (hR (by simp [linkEndFlds]))) (keeps_seqs_cons (keeps_onlyIf fun _ => keeps_bumpF (hR (by simp [linkEndFlds])))
          (keeps_seqs_cons (keeps_look fun _ => keeps_putLinkX (hl (by decide))) keeps_seqs_nil)))))))

theorem keeps_linkTrainOf {k : Nat} (hl : linkStatePieces ⊆ l) (hR : linkEndFlds k ⊆ R) : (linkTrain k).Keeps l R T :=
  keeps_linkTrain hl (hR (by simp [linkEndFlds])) (hR (by simp [linkEndFlds])) fun _ hf => hR (by simp [linkEndFlds, hf])

theorem keeps_linksApply {c : Nat} (hc : c < 12) (hl : linkSentPieces ⊆ l) (hR : ∀ k < 144, linkEndFlds k ⊆ R) : (linksApply c).Keeps l R T := by
  have hState : linkStatePieces ⊆ l := fun _ hx => hl (linkStatePieces_sent hx)
  refine keeps_each fun i hi => keeps_look fun _ => ?_
  have hk : 12 * c + i < 144 := by have := List.mem_range.mp hi; omega
  exact keeps_ite (fun _ => keeps_onlyIf fun _ => keeps_linkTrainOf hState (hR _ hk))
    fun _ => keeps_ite (fun _ => keeps_skip) fun _ => keeps_andThen (keeps_linkDown hl (hR _ hk))
      (keeps_look fun _ => keeps_onlyIf fun _ => keeps_setLinkState hState fun _ hf => hR _ hk (by simp [linkEndFlds, hf]))

theorem keeps_showResv {t : Nat} (h : BPM_TIER_RESV.RESV (t - 1) ∈ R) : (showResv t).Keeps l R T := keeps_look fun _ => keeps_setF h

theorem keeps_reserve {r n : Nat} (h : .reqResv ∈ l) (hR : BPM_TIER_RESV.RESV 0 ∈ R) : (reserve r n).Keeps l R T :=
  keeps_look fun _ => keeps_andThen (keeps_put h (by simp) (by simp)) (keeps_showResv hR)

theorem keeps_unreserve {r n : Nat} (h : .reqResv ∈ l) (hR : BPM_TIER_RESV.RESV 0 ∈ R) : (unreserve r n).Keeps l R T :=
  keeps_look fun _ => keeps_andThen (keeps_put h (by simp) (by simp)) (keeps_showResv hR)

theorem keeps_putMcMade {n : Nat} (h : .mcMade ∈ l) : (Prog.put (.mcMade n)).Keeps l R T := keeps_put h (by simp) (by simp)

theorem keeps_mcStandUp (h : .reqResv ∈ l) (hMade : .mcMade ∈ l) (hR : BPM_TIER_RESV.RESV 0 ∈ R) : ∀ n, (mcStandUp n).Keeps l R T
  | 0 => keeps_skip
  | n + 1 => keeps_look fun _ => keeps_onlyIf fun _ => keeps_seqs_cons (keeps_reserve h hR)
      (keeps_seqs_cons (keeps_putMcMade hMade) (keeps_seqs_cons (keeps_mcStandUp h hMade hR n) keeps_seqs_nil))

theorem keeps_mcStand (h : .reqResv ∈ l) (hMade : .mcMade ∈ l) (hR : BPM_TIER_RESV.RESV 0 ∈ R) : mcStand.Keeps l R T := keeps_look fun _ =>
  keeps_andThen (keeps_onlyIf fun _ => keeps_andThen (keeps_unreserve h hR) (keeps_putMcMade hMade)) (keeps_mcStandUp h hMade hR _)

end Keeps

/-- The fields that a write of FAB_SYS_CFG may write. -/
def fabSysFlds : List Fld := [FAB_SYS_CFG.reg, FAB_STAT.EPOCH, BPM_TIER_RESV.RESV 0] ++ (List.range 144).flatMap linkEndFlds

/-- The pieces that a write of FAB_SYS_CFG may write. -/
def fabSysPieces : List Piece := irqPieces ++ [.counters, .fresh, .linkX, .mcMade, .reqResv, .snapSaved, .unreachAt]

theorem keeps_fabSysWrite {n : Nat} : (fabSysWrite n).Keeps fabSysPieces fabSysFlds [] := by
  have hLinks : ∀ k < 144, linkEndFlds k ⊆ fabSysFlds := fun k hk f hf =>
    List.mem_append_right _ (List.mem_flatMap.mpr ⟨k, List.mem_range.mpr hk, hf⟩)
  exact keeps_look fun _ => keeps_seqs_cons (keeps_setReg (by simp [fabSysFlds, FAB_SYS_CFG.reg]))
    (keeps_seqs_cons (keeps_onlyIf fun _ => keeps_draw (by decide) fun _ => keeps_setF (by simp [fabSysFlds]))
      (keeps_seqs_cons (keeps_mcStand (by decide) (by decide) (by simp [fabSysFlds]))
        (keeps_seqs_cons (keeps_each fun _ hc => keeps_linksApply (List.mem_range.mp hc) (by decide) hLinks) keeps_seqs_nil)))

/-- The fields of a link in which they stand, some of them whole registers. -/
def linkShownFlds (k : Nat) : List Fld := [FLC_LINK_STAT.reg (k / 12) (k % 12), FLC_LINK_DOWNS.reg (k / 12) (k % 12), FLC_LINK_PEER.VALID (k / 12) (k % 12)] ++
  irqFlds (244 + k / 12) (16 + k % 12)

/-- The fields that FAB_SYS_ENABLE may change, some of them whole registers. -/
def fabEnableFlds : List Fld := [[FAB_SYS_CFG.reg, FAB_STAT.reg], (List.range 144).flatMap linkShownFlds, (List.range 3).map BPM_TIER_RESV.RESV, irqFlds 240 16,
  irqFlds 240 17, recFlds].flatten

theorem Fld.within_refl (f : Fld) : f.within f := ⟨rfl, rfl, Nat.le_refl _, Nat.le_refl _⟩

theorem linkEndFlds_within {k : Nat} (hk : k < 144) {f : Fld} (hf : f ∈ linkEndFlds k) : ∃ g ∈ fabEnableFlds, f.within g := by
  have hLink : ∀ g ∈ linkShownFlds k, g ∈ fabEnableFlds := fun g hg => by
    have hAll := List.mem_flatMap.mpr ⟨k, List.mem_range.mpr hk, hg⟩
    simp only [fabEnableFlds, List.flatten_cons, List.mem_append]
    exact .inr (.inl hAll)
  have hStat : FLC_LINK_STAT.reg (k / 12) (k % 12) ∈ fabEnableFlds := hLink _ (by simp [linkShownFlds])
  have hFab : FAB_STAT.reg ∈ fabEnableFlds := by simp [fabEnableFlds]
  have hInStat : ∀ hi lo, hi ≤ 31 → ∃ g ∈ fabEnableFlds, (⟨244 + k / 12, 0x1004 + 32 * (k % 12), hi, lo⟩ : Fld).within g := fun hi lo h =>
    ⟨_, hStat, rfl, rfl, Nat.zero_le _, h⟩
  simp only [linkEndFlds, linkStateFlds, List.flatten_cons, List.flatten_nil, List.mem_append, List.mem_cons, List.not_mem_nil, or_false] at hf
  rcases hf with (rfl | rfl | rfl | rfl | rfl | rfl | rfl) | ((rfl | rfl) | hf) | hf | hf
  · exact hInStat _ _ (by decide)
  · exact hInStat _ _ (by decide)
  · exact hInStat _ _ (by decide)
  · exact hInStat _ _ (by decide)
  · exact hInStat _ _ (by decide)
  · exact ⟨_, hLink _ (by simp [linkShownFlds]), Fld.within_refl _⟩
  · exact ⟨_, hLink _ (by simp [linkShownFlds]), Fld.within_refl _⟩
  · exact hInStat _ _ (by decide)
  · exact ⟨_, hFab, rfl, rfl, by decide, by decide⟩
  · exact ⟨f, hLink f (by simp [linkShownFlds, hf]), Fld.within_refl f⟩
  · exact ⟨f, by simp [fabEnableFlds, hf], Fld.within_refl f⟩
  · exact ⟨f, by simp [fabEnableFlds, hf], Fld.within_refl f⟩

theorem fabSysFlds_within : ∀ f ∈ fabSysFlds ++ recFlds, ∃ g ∈ fabEnableFlds, f.within g := by
  intro f hf
  simp only [fabSysFlds, List.mem_append, List.mem_cons, List.not_mem_nil, or_false, List.mem_flatMap, List.mem_range] at hf
  rcases hf with ((rfl | rfl | rfl) | ⟨k, hk, hf⟩) | hf
  · exact ⟨_, by simp [fabEnableFlds], Fld.within_refl _⟩
  · exact ⟨FAB_STAT.reg, by simp [fabEnableFlds], rfl, rfl, by decide, by decide⟩
  · have hResv : BPM_TIER_RESV.RESV 0 ∈ (List.range 3).map BPM_TIER_RESV.RESV := List.mem_map_of_mem (List.mem_range.mpr (by decide))
    exact ⟨_, by simp only [fabEnableFlds, List.flatten_cons, List.mem_append]; exact .inr (.inr (.inl hResv)), Fld.within_refl _⟩
  · exact linkEndFlds_within hk hf
  · exact ⟨f, by simp [fabEnableFlds, hf], Fld.within_refl f⟩

theorem fabSysEnable_framed {m : Nat} {data : Word} {s : State} (hWf : Instr.wellFormed (.fabSysEnable m data) = true) (hTakes : s.takesWrite m 240 = true) :
    ∃ t, exec (.fabSysEnable m data) s = .next t ∧ s.framed t [hostPieces, fabSysPieces].flatten fabEnableFlds [] := by
  obtain ⟨d, hPlain, -, -⟩ := plainReg_decl plainReg_fabSysCfg
  have hStarts : ∀ u, s.recorded u → u.writeRefused m 240 0x204 data.toNat = false := fun u _ => by
    simp [State.writeRefused, startsWork, isQuota]
  simp only [exec, execFabSysEnable]
  obtain ⟨t, ht, -, hFrame⟩ := command_hostWrite_framed (E := fun _ => True) hWf hTakes hPlain hStarts
    (fun v _ => keeps_regDo_tm (by decide) (by decide) (fun w u => by rw [tmWrite_fabSysCfg]; exact keeps_fabSysWrite u) v) (by decide)
    (l' := [hostPieces, fabSysPieces].flatten) (by decide) (R' := fabSysFlds ++ recFlds) (by simp) fun _ _ _ _ => trivial
  exact ⟨t, ht, State.framed_widen hFrame fabSysFlds_within⟩

/-! ### A link restarted: what it leaves alone (R339) -/

/-- The fields that a restart of a link may change, with those of the register write that asks for it. -/
def restartFlds (k : Nat) : List Fld := [[FAB_STAT.LINKS_UP, FLC_LINK_CTRL.reg (k / 12) (k % 12), FLC_LINK_STAT.reg (k / 12) (k % 12),
  FLC_LINK_PEER.VALID (k / 12) (k % 12)], irqFlds 240 16, irqFlds 240 17, irqFlds (244 + k / 12) (16 + k % 12), recFlds].flatten

/-- The fields that a restart of a link writes, one by one. -/
def restartedFlds (k : Nat) : List Fld := [FLC_LINK_CTRL.reg (k / 12) (k % 12), FLC_LINK_STAT.RX_GEN (k / 12) (k % 12), FLC_LINK_STAT.TX_GEN (k / 12) (k % 12),
  FLC_LINK_PEER.VALID (k / 12) (k % 12)] ++ linkStateFlds k

theorem restartedFlds_within {k : Nat} : ∀ f ∈ restartedFlds k, ∃ g ∈ restartFlds k, f.within g := by
  have hInStat : ∀ hi lo, hi ≤ 31 → ∃ g ∈ restartFlds k, (⟨244 + k / 12, 0x1004 + 32 * (k % 12), hi, lo⟩ : Fld).within g := fun hi lo h =>
    ⟨FLC_LINK_STAT.reg (k / 12) (k % 12), by simp [restartFlds], rfl, rfl, Nat.zero_le _, h⟩
  intro f hf
  simp only [restartedFlds, linkStateFlds, List.flatten_cons, List.flatten_nil, List.mem_append, List.mem_cons, List.not_mem_nil, or_false] at hf
  rcases hf with (rfl | rfl | rfl | rfl) | ((rfl | rfl) | hf) | hf | hf
  · exact ⟨_, by simp [restartFlds], Fld.within_refl _⟩
  · exact hInStat _ _ (by decide)
  · exact hInStat _ _ (by decide)
  · exact ⟨_, by simp [restartFlds], Fld.within_refl _⟩
  · exact hInStat _ _ (by decide)
  · exact ⟨_, by simp [restartFlds], Fld.within_refl _⟩
  · exact ⟨f, by simp [restartFlds, hf], Fld.within_refl f⟩
  · exact ⟨f, by simp [restartFlds, hf], Fld.within_refl f⟩
  · exact ⟨f, by simp [restartFlds, hf], Fld.within_refl f⟩

theorem keeps_linkRestart {l : List Piece} {R : List Fld} {T : List Nat} {k : Nat} (hl : linkStatePieces ⊆ l) (hR : restartedFlds k ⊆ R) :
    (linkRestart k).Keeps l R T :=
  keeps_look fun _ => keeps_onlyIf fun _ => keeps_andThen (keeps_putLinkX (hl (by decide))) (keeps_andThen (keeps_setF (hR (by simp [restartedFlds])))
    (keeps_linkTrain hl (hR (by simp [restartedFlds])) (hR (by simp [restartedFlds])) fun _ hf => hR (by simp [restartedFlds, hf])))

/-- The pieces that a restart may change, with those of the register write that asks for it. -/
def restartPieces : List Piece := [[.dirty], .linkX :: .unreachAt :: hostPieces].flatten

/-- The write of RESTART, with its word in the shadow, changes nothing beside the link and its shadow. -/
theorem writeWord_restart_framed {m k : Nat} {data : Word} {s u : State} (hk : k < 144) (hTakes : s.takesWrite m (244 + k / 12) = true) (hu : s.begun.sends u)
    (hRestart : data.getLsbD 30 = true) :
    u.framed ((writeWord m (244 + k / 12) (0x1000 + 32 * (k % 12)) 15 data).run u) [.dirty, .linkX, .unreachAt, .emitted, .msix, .inta, .irqSince, .l1At]
      (restartedFlds k) [] := by
  obtain ⟨d, hDecl, hShadow, hRead, hLatch⟩ := shadowReg_decl (shadowReg_linkCtrl (k / 12) (by omega) (k % 12) (Nat.mod_lt _ (by decide)))
  obtain ⟨hWrite, hHeld⟩ := writeWord_run_taken (off := 0x1000 + 32 * (k % 12)) (data := data) hTakes rfl hu
  have hOne : (oneWrite m (244 + k / 12) (0x1000 + 32 * (k % 12)) d data).run u = (shadowWrite m (244 + k / 12) (0x1000 + 32 * (k % 12)) d data).run u := by
    unfold oneWrite
    rw [run_look, if_pos hShadow]
  obtain ⟨w, dirty, hShadowed⟩ := shadowWrite_restarts (m := m) (d := d) (data := data) hk hRestart u
  rw [hWrite, writeNow_run_one hDecl (by omega) hRead hLatch hHeld, hOne, hShadowed]
  exact State.framed_trans (keeps_setReg (by simp [restartedFlds, FLC_LINK_CTRL.reg]) _)
    (State.framed_trans (keeps_put (show Piece.dirty ∈ _ by decide) (by simp) (by simp) _) (keeps_linkRestart (by decide) (List.Subset.refl _) _))

theorem fabricLinkRestart_framed {m k : Nat} {s : State} (hWf : Instr.wellFormed (.fabricLinkRestart m k) = true)
    (hTakes : s.takesWrite m (244 + k / 12) = true) : ∃ t, exec (.fabricLinkRestart m k) s = .next t ∧ s.framed t restartPieces (restartFlds k) [] := by
  have hk : k < 144 := by
    simp only [Instr.wellFormed, Bool.and_eq_true, decide_eq_true_eq] at hWf
    exact hWf.2
  obtain ⟨hReach, hClear, -⟩ := takesWrite_serves hTakes
  simp only [exec, execFabricLinkRestart]
  refine command_answers hWf ?_
  rw [run_look]
  have hRestart := getLsbD_setBit30 (s.begun.reg (244 + k / 12) (0x1000 + 32 * (k % 12)))
  generalize setFieldOf (s.begun.reg (244 + k / 12) (0x1000 + 32 * (k % 12))) 30 30 1 = data at hRestart ⊢
  obtain ⟨u, hu, hSent⟩ := hostWrite_run (be := 15) (data := data) (s := s.begun) hReach hClear fun u hu =>
    State.framed_quiet (writeWord_restart_framed hk hTakes hu hRestart) (by decide)
  have hWrite := State.framed_widen (writeWord_restart_framed hk hTakes hu hRestart) restartedFlds_within
  exact State.framed_trans (begun_framed (by decide) s) (State.framed_trans (State.sends_framed _ _ hu (by decide))
    (State.framed_trans (State.framed_mono hWrite (by decide) (List.Subset.refl _) (List.Subset.refl _)) (State.sends_framed _ _ hSent (by decide))))

/-- Settles O31, clause by clause: the steps of a link up to UP are each one entry into a state, and what FAB_SYS_CFG and RESTART start stays within the links and the
reservations. -/
theorem linkTraining : Obligations.LinkTraining := by
  unfold Obligations.LinkTraining
  exact ⟨fun _ _ _ hWf hState hPrbs hOk hTime => fabricLinkTrained_aligns hWf hState hPrbs hOk hTime,
    fun _ _ _ hWf hState hLocked hSafe hTime => fabricLinkAlignEnd_tests hWf hState hLocked hSafe hTime,
    fun _ _ _ hWf hState hTime hHello hReach hErr hBad => fabricLinkTestEnd_holdsOff hWf hState hTime hHello hReach hErr hBad,
    fun _ _ hWf hState hTime => fabricLinkHoldoffEnd_comesUp hWf hState hTime,
    fun _ _ _ hWf hTakes _ _ => fabSysEnable_framed hWf hTakes,
    fun _ _ _ hWf hTakes _ _ => fabricLinkRestart_framed hWf hTakes⟩

end Sys2Proof.Machine
end

