-- ==== Sys2Proof/Proofs/FabricMessages.lean ====
section
/-!
SUPPORT. Control messages of the fabric interface (spec/09_fabric.md R336, R344, R369): what sending one may write, and that one with a link to go on is sent.
-/
namespace Sys2Proof.Machine

/-! ### What sending a message writes (R344, R369) -/

section Keeps
variable {l : List Piece} {R : List Fld} {T : List Nat}

theorem keeps_sendCell {k type body : Nat} {payload : List Nat} (hl : ctrlPieces ⊆ l) : (sendCell k type body payload).Keeps l R T :=
  keeps_look fun _ => keeps_andThen (keeps_emit (hl (by decide))) (keeps_count (hl (by decide)) (hl (by decide)))

theorem keeps_sendPriv {c : XbCell} (hl : ctrlPieces ⊆ l) : (sendPriv c).Keeps l R T := keeps_look fun _ => keeps_ite
  (fun _ => keeps_andThen (keeps_put (hl (show Piece.privUse ∈ _ by decide)) (by simp) (by simp)) (keeps_sendCell hl))
  fun _ => keeps_put (hl (show Piece.privWait ∈ _ by decide)) (by simp) (by simp)

theorem keeps_sendNorm {c : XbCell} (hl : ctrlPieces ⊆ l) : (sendNorm c).Keeps l R T := keeps_look fun _ => keeps_ite
  (fun _ => keeps_andThen (keeps_put (hl (show Piece.normUse ∈ _ by decide)) (by simp) (by simp)) (keeps_sendCell hl))
  fun _ => keeps_put (hl (show Piece.normWait ∈ _ by decide)) (by simp) (by simp)

theorem keeps_xbLeave {c : XbCell} (hl : ctrlPieces ⊆ l) : (xbLeave c).Keeps l R T :=
  keeps_ite (fun _ => keeps_skip) fun _ => keeps_ite (fun _ => keeps_sendPriv hl) fun _ => keeps_sendNorm hl

theorem keeps_putSprayAt {k v : Nat} (hl : ctrlPieces ⊆ l) : (Prog.put (.sprayAt k v)).Keeps l R T :=
  keeps_put (hl (show Piece.sprayAt ∈ _ by decide)) (by simp) (by simp)

theorem keeps_spray {stream : Nat} {links : State → List Nat} {k : Nat → Prog} (hl : ctrlPieces ⊆ l) (hk : ∀ i, (k i).Keeps l R T) :
    (spray stream links k).Keeps l R T := by
  refine keeps_look fun s => ?_
  cases nextLink (links s) (s.sprayStart stream) with
  | none => exact keeps_skip
  | some i => exact keeps_andThen (keeps_putSprayAt hl) (hk i)

theorem keeps_ctrlMsg {d msg : Nat} {priv : Bool} {links : State → List Nat} {k : Nat → Prog} (hl : ctrlPieces ⊆ l) (hk : ∀ i, (k i).Keeps l R T) :
    (ctrlMsg d priv msg links k).Keeps l R T :=
  keeps_look fun _ => keeps_onlyIf fun _ => keeps_spray hl fun i => keeps_andThen (keeps_xbLeave hl) (hk i)

end Keeps

/-! ### A message that is sent (R336, R344) -/

/-- A rotation that has a link goes on with one. -/
theorem nextLink_some {links : List Nat} (h : links ≠ []) (start : Nat) : ∃ i, nextLink links start = some i := by
  unfold nextLink
  cases links.find? (fun i => decide (start ≤ i)) with
  | some i => exact ⟨i, rfl⟩
  | none =>
    cases links with
    | nil => exact absurd rfl h
    | cons i r => exact ⟨i, rfl⟩

/-- With the interface on and a link to go on, a message leaves, and what waits for it runs. -/
theorem ctrlMsg_run {d msg : Nat} {priv : Bool} {links : State → List Nat} {k : Nat → Prog} {s : State} (hOn : s.fabOn = true) (hLinks : links s ≠ []) :
    ∃ i u, (ctrlMsg d priv msg links k).run s = (k i).run u ∧ s.framed u ctrlPieces [] [] := by
  obtain ⟨i, hNext⟩ := nextLink_some hLinks (s.sprayStart (ucStream d priv))
  unfold ctrlMsg spray
  rw [run_look_onlyIf hOn, run_look, hNext]
  exact ⟨i, _, rfl, State.framed_trans (keeps_putSprayAt (List.Subset.refl _) _) (keeps_xbLeave (List.Subset.refl _) _)⟩

/-! ### A message that is received (R336) -/

/-- What a message of a kind does; reserved ones do nothing. -/
def ctrlMessage (kind link src msg : Nat) : Prog :=
  match kind with
  | 1 => reqReceive src msg
  | 2 => ansReceive link src msg
  | 3 => releaseReceive src msg
  | 4 => mcAckReceive src msg
  | _ => .skip

/-- A message of another device, of the kind awaited, over a link that is UP. -/
theorem ctrlOfKind_run {kind link src msg : Nat} {s : State} (hKind : mb msg 127 124 = kind) (hSrc : src ≠ s.ownId) (hOn : s.fabOn = true)
    (hUp : s.linkUp link = true) : (ctrlOfKind kind link src msg).run s = (ctrlMessage kind link src msg).run s := by
  subst hKind
  unfold ctrlOfKind ctrlReceive
  rw [run_onlyIf_true _ _ (by simp), run_look, if_neg (by simpa using hSrc), run_onlyIf_true _ _ (by simp [hOn, hUp])]
  rfl

end Sys2Proof.Machine
end

