-- ==== Sys2Proof/Proofs/RequestsOfTheSource.lean ====
section
/-!
PROOF. A source's requests and what comes back (spec/09_fabric.md R349 to R351, R353, R377).
-/
namespace Sys2Proof.Machine

/-! ### A request that is sent (R351, R353) -/

/-- A request as it stands once it has been sent again, on a link. -/
def ReqOut.sent (x : ReqOut) (now link : Nat) : ReqOut := { x with sends := x.sends + 1, sentAt := now, link := link }

/-- A REQ with a link to go on is sent: beside what the message writes, only its request changes. -/
theorem reqSendMsg_run {d seq : Nat} {again : Bool} {x : ReqOut} {s : State} (hReq : s.reqsAt (reqKey d seq) = some x) (hOn : s.fabOn = true)
    (hLinks : s.linksTo d x.priv ≠ []) :
    ∃ i u, (reqSendMsg d seq again).run s = (Prog.put (.reqs (reqKey d seq) (some (x.sent s.mono i)))).run u ∧ s.framed u ctrlPieces [] [] := by
  unfold reqSendMsg
  rw [run_look]
  simp only [hReq]
  obtain ⟨i, u, hRun, hFrame⟩ := ctrlMsg_run (d := d) (msg := s.reqMsg seq x) (priv := x.priv) (s := s)
    (links := fun t => if again && !((t.linksTo d x.priv).filter (fun k => k != x.link)).isEmpty then (t.linksTo d x.priv).filter (fun k => k != x.link)
      else t.linksTo d x.priv)
    (k := fun i => .andThen (count 11 (16 * i + 3) 1) (.put (.reqs (reqKey d seq) (some (x.sent s.mono i))))) hOn (by
      split
      · next hOther => simp only [Bool.and_eq_true, Bool.not_eq_true', List.isEmpty_eq_false_iff] at hOther; exact hOther.2
      · exact hLinks)
  exact ⟨i, _, hRun, State.framed_trans hFrame (keeps_count (by decide) (by decide) u)⟩

/-- The frame of a REQ that is sent, from a state in which the request stands. -/
theorem reqSent_framed {s u : State} {k : Nat} {x : Option ReqOut} (h : s.framed u ctrlPieces [] []) :
    s.framed ((Prog.put (.reqs k x)).run u) [[.reqs], ctrlPieces].flatten [] [] :=
  State.framed_trans (State.framed_mono h (by decide) (List.Subset.refl _) (List.Subset.refl _))
    (keeps_put (show Piece.reqs ∈ _ by decide) (by simp) (by simp) _)

/-- The one packet of a staging queue has left it under the next REQ_SEQ. -/
def requested (d q : Nat) (p : Pkt) (s : State) : State :=
  (Prog.put (.reqs (reqKey d (s.reqNextAt d)) (some { queue := q, pkts := [(p, none)], priv := s.privileged p }))).run
    ((Prog.put (.reqNext d ((s.reqNextAt d + 1) % 65536))).run ((Prog.put (.stg (stgKey d q) [])).run s))

theorem reqStart_run {d q : Nat} {p : Pkt} {s : State} (hStg : s.stgAt (stgKey d q) = [p]) (hOn : s.fabOn = true) (hDev : d ≤ s.rd FAB_SYS_CFG.MAX_DEV)
    (hLinks : s.linksTo d (s.privileged p) ≠ []) (hOrder : (s.reqOrder d).length < 2048) :
    (reqStart d q).run s = (reqSendMsg d (s.reqNextAt d) false).run (requested d q p s) := by
  have hOne : ([p].take 4).takeWhile (fun x => s.privileged x == s.privileged p) = [p] := by simp
  unfold reqStart
  rw [run_look]
  simp only [hStg, hOne]
  rw [run_onlyIf_true _ _ (by simp [hOn, hDev, hOrder, hLinks])]
  rfl

theorem requested_framed (d q : Nat) (p : Pkt) (s : State) : s.framed (requested d q p s) [.stg, .reqNext, .reqs] [] [] :=
  State.framed_trans (keeps_put (show Piece.stg ∈ _ by decide) (by simp) (by simp) _)
    (State.framed_trans (keeps_put (show Piece.reqNext ∈ _ by decide) (by simp) (by simp) _) (keeps_put (show Piece.reqs ∈ _ by decide) (by simp) (by simp) _))

theorem reqSend_requests {d q : Nat} {p : Pkt} {s : State} (hWf : Instr.wellFormed (.reqSend d q) = true) (hEn : s.rd (BLK_CTRL.ENABLE 240) = 1)
    (hOther : d ≠ s.ownId) (hStg : s.stgAt (stgKey d q) = [p]) (hOn : s.fabOn = true) (hDev : d ≤ s.rd FAB_SYS_CFG.MAX_DEV)
    (hLinks : s.linksTo d (s.privileged p) ≠ []) (hOrder : (s.reqOrder d).length < 2048) :
    ∃ t, exec (.reqSend d q) s = .next t ∧ t.stgAt (stgKey d q) = [] ∧ t.reqNextAt d = (s.reqNextAt d + 1) % 65536 ∧
      (t.reqsAt (reqKey d (s.reqNextAt d))).map ReqOut.pkts = some [(p, none)] ∧ (t.reqsAt (reqKey d (s.reqNextAt d))).map ReqOut.sends = some 1 ∧
      s.framed t [[.stg, .reqNext, .reqs], ctrlPieces].flatten [] [] := by
  have hBegun : s.begun.stgAt (stgKey d q) = [p] ∧ s.begun.linksTo d (s.begun.privileged p) ≠ [] ∧ (s.begun.reqOrder d).length < 2048 := ⟨hStg, hLinks, hOrder⟩
  obtain ⟨hStaged, hGo, hFew⟩ := hBegun
  have hReq : (requested d q p s.begun).reqsAt (reqKey d (s.reqNextAt d)) = some { queue := q, pkts := [(p, none)], priv := s.privileged p } := by
    simp only [requested, run_put]
    exact (Act.reqs_apply _ _ _ _).trans (if_pos rfl)
  obtain ⟨i, u, hSend, hFrame⟩ := reqSendMsg_run (again := false) hReq hOn hLinks
  have hStgKept : u.stgAt (stgKey d q) = [] := by
    have hSame : (requested d q p s.begun).stg = u.stg := State.framed_same hFrame .stg (by decide)
    rw [State.stgAt, ← hSame]
    exact (Act.stg_apply _ _ s.begun _).trans (if_pos rfl)
  have hNextKept : u.reqNextAt d = (s.reqNextAt d + 1) % 65536 := by
    have hSame : (requested d q p s.begun).reqNext = u.reqNext := State.framed_same hFrame .reqNext (by decide)
    rw [State.reqNextAt, ← hSame]
    exact (Act.reqNext_apply _ _ s.begun _).trans (if_pos rfl)
  simp only [exec, execReqSend]
  refine ⟨(Prog.put (.reqs (reqKey d (s.reqNextAt d)) (some (({ queue := q, pkts := [(p, none)], priv := s.privileged p } : ReqOut).sent s.mono i)))).run u,
    command_reaches hWf ?_, hStgKept, hNextKept, ?_⟩
  · have hNotOwn : d ≠ s.begun.ownId := hOther
    unfold whenEnabled
    rw [run_look_onlyIf (by simp [hEn]), run_look, if_neg (by simpa using hNotOwn), reqStart_run hStaged hOn hDev hGo hFew]
    exact hSend
  · rw [run_put, Act.reqs_apply, if_pos rfl]
    refine ⟨rfl, rfl, State.framed_trans (begun_framed (by decide) s) (State.framed_trans
      (State.framed_mono (requested_framed d q p s.begun) (by decide) (List.Subset.refl _) (List.Subset.refl _))
      (State.framed_mono (reqSent_framed hFrame) (by decide) (List.Subset.refl _) (List.Subset.refl _)))⟩

theorem reqResend_resends {d seq : Nat} {x : ReqOut} {s : State} (hWf : Instr.wellFormed (.reqResend d seq) = true) (hReq : s.reqsAt (reqKey d seq) = some x)
    (hWaits : x.pkts.any (fun y => y.2 == none || y.2 == some 1) = true) (hSent : x.sends ≠ 0) (hTries : x.sends < max 1 (s.rd FAB_TIMERS.REQ_TRIES))
    (hDue : s.since x.sentAt 20000 = true) (hOn : s.fabOn = true) (hLinks : s.linksTo d x.priv ≠ []) :
    ∃ t, exec (.reqResend d seq) s = .next t ∧ (t.reqsAt (reqKey d seq)).map ReqOut.sends = some (x.sends + 1) ∧
      (t.reqsAt (reqKey d seq)).map ReqOut.sentAt = some s.mono ∧ (t.reqsAt (reqKey d seq)).map ReqOut.pkts = some x.pkts ∧
      s.framed t [[.reqs], ctrlPieces].flatten [] [] := by
  have hBegun : s.begun.reqsAt (reqKey d seq) = some x ∧ s.begun.since x.sentAt 20000 = true ∧ s.begun.fabOn = true ∧ s.begun.linksTo d x.priv ≠ [] :=
    ⟨hReq, hDue, hOn, hLinks⟩
  obtain ⟨hStands, hLate, hUp, hGo⟩ := hBegun
  obtain ⟨i, u, hSend, hFrame⟩ := reqSendMsg_run (again := true) hStands hUp hGo
  simp only [exec, execReqResend]
  refine ⟨(Prog.put (.reqs (reqKey d seq) (some (x.sent s.mono i)))).run u, command_reaches hWf ?_, ?_⟩
  · rw [run_look]
    simp only [hStands]
    rw [run_onlyIf_true _ _ (by rw [hWaits, hLate]; simpa using hSent), if_neg (by simp only [State.begun_rd]; simp; omega)]
    exact hSend
  · rw [run_put, Act.reqs_apply, if_pos rfl]
    exact ⟨rfl, rfl, rfl, State.framed_trans (begun_framed (by decide) s) (reqSent_framed hFrame)⟩

/-! ### An answer HOLD (R351, R354) -/

/-- A request of one packet whose packet waits under a HOLD. -/
def ReqOut.holds (x : ReqOut) : Prop := ∃ p, x.pkts = [(p, some 1)]

theorem goFront_holds {d seq : Nat} {x : ReqOut} (h : x.holds) : goFront d seq ((List.range x.pkts.length).zip x.pkts) = .skip := by
  obtain ⟨p, hPkts⟩ := h
  rw [hPkts]
  rfl

/-- Requests whose packets wait hand over nothing. -/
theorem goReqs_holds {d : Nat} {s : State} (h : ∀ seq x, s.reqsAt (reqKey d seq) = some x → x.holds) : ∀ seqs : List Nat, (goReqs d seqs).run s = s
  | [] => rfl
  | seq :: r => by
    unfold goReqs
    rw [run_look]
    cases hReq : s.reqsAt (reqKey d seq) with
    | none => exact goReqs_holds h r
    | some x =>
      simp only
      rw [goFront_holds (h seq x hReq), run_andThen, run_skip, run_look_skip (by simp [hReq])]

/-- Streams without an open packet, and a switch core without cells, stay as they are. -/
theorem pushCells_idle {s : State} (hCore : s.xbWait = []) : ∀ {streams : List Nat}, (∀ st ∈ streams, s.cellOpenAt st = []) → (pushCells streams).run s = s := by
  intro streams hOpen
  have hEach : ∀ as : List Nat, (∀ st ∈ as, s.cellOpenAt st = []) →
      (each as (fun st => .look fun s => onlyIf (!(s.cellOpenAt st).isEmpty) (streamSend st (s.cellOpenAt st)))).run s = s := by
    intro as
    induction as with
    | nil => exact fun _ => rfl
    | cons st r ih =>
      intro h
      rw [run_each_cons, run_look_skip (by simp [h st List.mem_cons_self])]
      exact ih fun a ha => h a (List.mem_cons_of_mem _ ha)
  unfold pushCells xbRun
  rw [run_andThen, hEach streams hOpen, run_look, hCore]
  rfl

/-- A destination whose requests wait, and whose streams are idle, sends nothing. -/
theorem fabricGo_holds {d q : Nat} {s : State} (h : ∀ seq x, s.reqsAt (reqKey d seq) = some x → x.holds) (hCore : s.xbWait = [])
    (hOpen : s.cellOpenAt (ucStream d false) = [] ∧ s.cellOpenAt (ucStream d true) = []) : (fabricGo d q).run s = s := by
  have hIdle : (pushCells [ucStream d false, ucStream d true]).run s = s := pushCells_idle hCore fun st hst => by
    simp only [List.mem_cons, List.not_mem_nil, or_false] at hst
    rcases hst with rfl | rfl
    · exact hOpen.1
    · exact hOpen.2
  unfold fabricGo
  rw [run_look, fabricRounds, run_look, run_seqs_cons, goReqs_holds h, run_seqs_cons, hIdle]
  exact run_look_skip (by simp)

/-- The answer HOLD for the one packet of a request leaves it waiting. -/
theorem ansOne_holds {d seq reason : Nat} {x : ReqOut} {p : Pkt} {s : State} (hReq : s.reqsAt (reqKey d seq) = some x) (hPkts : x.pkts = [(p, none)]) :
    (ansOne d seq 1 reason 0).run s = (Prog.put (.reqs (reqKey d seq) (some { x with pkts := [(p, some 1)] }))).run s := by
  unfold ansOne
  rw [run_look]
  simp only [hReq, hPkts]
  rfl

/-- The requests after an answer HOLD for the only one. -/
def answered (link src seq : Nat) (x : ReqOut) (p : Pkt) (s : State) : State :=
  (Prog.put (.reqs (reqKey src seq) (some { x with answered := true, sends := max 1 x.sends, pkts := [(p, some 1)] }))).run
    ((Prog.put (.reqs (reqKey src seq) (some { x with answered := true, sends := max 1 x.sends }))).run ((count 11 (16 * link + 4) 1).run s))

theorem answered_framed (link src seq : Nat) (x : ReqOut) (p : Pkt) (s : State) :
    s.framed (answered link src seq x p s) [.emitted, .reqs, .counters, .snapSaved] [] [] :=
  State.framed_trans (keeps_count (by decide) (by decide) s) (State.framed_trans (keeps_put (show Piece.reqs ∈ _ by decide) (by simp) (by simp) _)
    (keeps_put (show Piece.reqs ∈ _ by decide) (by simp) (by simp) _))

theorem reqsAt_count (f i n k : Nat) (s : State) : ((count f i n).run s).reqsAt k = s.reqsAt k :=
  count_leaves (fun t => t.reqsAt k) (fun _ _ _ => rfl) (fun _ _ _ => rfl) f i n s

theorem reqsAt_answered (link src seq : Nat) (x : ReqOut) (p : Pkt) (s : State) (k : Nat) : (answered link src seq x p s).reqsAt k =
    if k = reqKey src seq then some { x with answered := true, sends := max 1 x.sends, pkts := [(p, some 1)] } else s.reqsAt k := by
  rw [answered, run_put, run_put, Act.reqs_apply, Act.reqs_apply, reqsAt_count]
  split
  · rfl
  · rfl

theorem ansReceive_holds {link src : Nat} {msg : List Word} {m : Nat} {x : ReqOut} {p : Pkt} {s : State}
    (hWf : Instr.wellFormed (.ansReceive link src msg) = true) (hMsg : m = msgOf msg) (hKind : mb m 127 124 = 2) (hSrc : src ≠ s.ownId) (hOn : s.fabOn = true)
    (hUp : s.linkUp link = true) (hEpoch : mb m 85 78 = s.rd FAB_STAT.EPOCH) (hReqs : s.reqs = [(reqKey src (mb m 101 86), some x)])
    (hPkts : x.pkts = [(p, none)]) (hOne : mb m 122 121 = 0) (hHold : mb m 9 8 = 1) (hOpen : s.cellOpenAt (ucStream src false) = [])
    (hPriv : s.cellOpenAt (ucStream src true) = []) (hCore : s.xbWait = []) :
    ∃ t, exec (.ansReceive link src msg) s = .next t ∧
      t.reqsAt (reqKey src (mb m 101 86)) = some { x with answered := true, sends := max 1 x.sends, pkts := [(p, some 1)] } ∧
      t.counter 11 (16 * link + 4) = (s.counter 11 (16 * link + 4) + 1) % 2 ^ 64 ∧ s.framed t [.emitted, .reqs, .counters, .snapSaved] [] [] := by
  subst hMsg
  generalize hSeq : mb (msgOf msg) 101 86 = seq at hReqs ⊢
  have hReq : ∀ k, s.begun.reqsAt k = if k = reqKey src seq then some x else none := fun k => by
    show Sp.get dfltReqs s.reqs k = _
    rw [hReqs]
    rfl
  have hStands : s.begun.reqsAt (reqKey src seq) = some x := (hReq _).trans (if_pos rfl)
  have hFrame := answered_framed link src seq x p s.begun
  have hAnswered := reqsAt_answered link src seq x p s.begun
  have hQuiet : (fabricGo src x.queue).run (answered link src seq x p s.begun) = answered link src seq x p s.begun := by
    have hCells : s.cellOpen = (answered link src seq x p s.begun).cellOpen := State.framed_same hFrame .cellOpen (by decide)
    have hWait : s.xbWait = (answered link src seq x p s.begun).xbWait := State.framed_same hFrame .xbWait (by decide)
    refine fabricGo_holds (fun r y hy => ?_) (hWait ▸ hCore) ⟨?_, ?_⟩
    · rw [hAnswered, hReq] at hy
      split at hy
      · exact ⟨p, by rw [← Option.some.inj hy]⟩
      · cases hy
    · rw [State.cellOpenAt, ← hCells]
      exact hOpen
    · rw [State.cellOpenAt, ← hCells]
      exact hPriv
  have hCounted : (answered link src seq x p s.begun).counter 11 (16 * link + 4) = (s.counter 11 (16 * link + 4) + 1) % 2 ^ 64 :=
    counter_count 11 (16 * link + 4) 1 s.begun
  simp only [exec, execAnsReceive]
  refine ⟨answered link src seq x p s.begun, command_reaches hWf ?_, (hAnswered _).trans (if_pos rfl), hCounted,
    State.framed_trans (begun_framed (by decide) s) hFrame⟩
  rw [ctrlOfKind_run (s := s.begun) hKind hSrc hOn hUp, ctrlMessage, ansReceive, run_look, if_neg (by simp [hEpoch])]
  simp only [hSeq, hOne, hStands]
  rw [run_andThen, run_seqs_cons, run_seqs_cons, List.range_one, run_each_cons, run_each_nil]
  simp only [Nat.mul_zero, Nat.zero_add, hHold]
  rw [ansOne_holds (x := { x with answered := true, sends := max 1 x.sends }) (p := p) (by rw [run_put, Act.reqs_apply, if_pos rfl]) hPkts]
  exact hQuiet

/-! ### Multicast acknowledgements (R376, R377) -/

/-- A counter that stops at its maximum fits its width. -/
theorem satAdd_lt (w a b : Nat) : satAdd w a b < 2 ^ w := Nat.lt_of_le_of_lt (Nat.min_le_left _ _) (Nat.sub_lt (Nat.two_pow_pos w) Nat.one_pos)

/-- A count in a field stops at the field's maximum. -/
theorem rd_bumpF (s : State) {f : Fld} (n : Nat) (h : f.hi < 32) : ((bumpF f n).run s).rd f = satAdd (f.hi + 1 - f.lo) (s.rd f) n :=
  rd_setF_fits s ⟨h, satAdd_lt _ _ _⟩

theorem mcOutAt_bumpF (f : Fld) (n k : Nat) (s : State) : ((bumpF f n).run s).mcOutAt k = s.mcOutAt k := by
  have hSame : s.mcOut = ((bumpF f n).run s).mcOut := State.framed_same (keeps_bumpF (l := []) (R := [f]) (T := []) (by simp) s) .mcOut (by decide)
  rw [State.mcOutAt, State.mcOutAt, hSame]

theorem mcAckReceive_returns {link src : Nat} {msg : List Word} {m : Nat} {s : State} (hWf : Instr.wellFormed (.mcAckReceive link src msg) = true)
    (hMsg : m = msgOf msg) (hKind : mb m 127 124 = 4) (hSrc : src ≠ s.ownId) (hOn : s.fabOn = true) (hUp : s.linkUp link = true)
    (hOwed : m % 2 ^ 32 ≤ s.mcOutAt src) :
    ∃ t, exec (.mcAckReceive link src msg) s = .next t ∧ t.mcOutAt src = s.mcOutAt src - m % 2 ^ 32 ∧ s.framed t [.emitted, .mcOut] [] [] := by
  subst hMsg
  have hEnough : ¬ s.begun.mcOutAt src < msgOf msg % 2 ^ 32 := Nat.not_lt.mpr hOwed
  simp only [exec, execMcAckReceive]
  refine ⟨(Prog.put (.mcOut src (s.mcOutAt src - msgOf msg % 2 ^ 32))).run s.begun, command_reaches hWf ?_, (Act.mcOut_apply _ _ _ _).trans (if_pos rfl),
    Prog.Keeps.begun (keeps_put (show Piece.mcOut ∈ _ by decide) (by simp) (by simp)) (by decide) s⟩
  rw [ctrlOfKind_run (s := s.begun) hKind hSrc hOn hUp, ctrlMessage, mcAckReceive, run_look, if_neg hEnough]
  rfl

theorem mcAckReceive_exceeds {link src : Nat} {msg : List Word} {m : Nat} {s : State} (hWf : Instr.wellFormed (.mcAckReceive link src msg) = true)
    (hMsg : m = msgOf msg) (hKind : mb m 127 124 = 4) (hSrc : src ≠ s.ownId) (hOn : s.fabOn = true) (hUp : s.linkUp link = true)
    (hOwed : s.mcOutAt src < m % 2 ^ 32) :
    ∃ t, exec (.mcAckReceive link src msg) s = .next t ∧ t.mcOutAt src = 0 ∧ t.rd MCR_ACK_EXCESS.COUNT = satAdd 32 (s.rd MCR_ACK_EXCESS.COUNT) 1 ∧
      s.framed t [.emitted, .mcOut] [MCR_ACK_EXCESS.COUNT] [] := by
  subst hMsg
  have hMore : s.begun.mcOutAt src < msgOf msg % 2 ^ 32 := hOwed
  simp only [exec, execMcAckReceive]
  refine ⟨(bumpF MCR_ACK_EXCESS.COUNT 1).run ((Prog.put (.mcOut src 0)).run s.begun), command_reaches hWf ?_, (mcOutAt_bumpF _ _ _ _).trans ((Act.mcOut_apply _ _ _ _).trans (if_pos rfl)),
    rd_bumpF _ 1 (by decide), ?_⟩
  · rw [ctrlOfKind_run (s := s.begun) hKind hSrc hOn hUp, ctrlMessage, mcAckReceive, run_look, if_pos hMore]
    rfl
  · exact Prog.Keeps.begun (q := .andThen (.put (.mcOut src 0)) (bumpF MCR_ACK_EXCESS.COUNT 1))
      (keeps_andThen (keeps_put (show Piece.mcOut ∈ _ by decide) (by simp) (by simp)) (keeps_bumpF (by simp))) (by decide) s

/-- Settles O27, clause by clause: a REQ that has a link to go on is sent under its request; an answer HOLD changes its request alone, since nothing of it may be sent. -/
theorem requestsOfTheSource : Obligations.RequestsOfTheSource := by
  unfold Obligations.RequestsOfTheSource
  exact ⟨fun _ _ _ _ hWf hEn hOther hStg hOn hDev hLinks hOrder => reqSend_requests hWf hEn hOther hStg hOn hDev hLinks hOrder,
    fun _ _ _ _ hWf hReq hWaits hSent hTries hDue hOn hLinks => reqResend_resends hWf hReq hWaits hSent hTries hDue hOn hLinks,
    fun _ _ _ _ _ _ _ hWf hMsg hKind hSrc hOn hUp hEpoch hReqs hPkts hOne hHold hOpen hPriv hCore =>
      ansReceive_holds hWf hMsg hKind hSrc hOn hUp hEpoch hReqs hPkts hOne hHold hOpen hPriv hCore,
    fun _ _ _ _ _ hWf hMsg hKind hSrc hOn hUp hOwed => mcAckReceive_returns hWf hMsg hKind hSrc hOn hUp hOwed,
    fun _ _ _ _ _ hWf hMsg hKind hSrc hOn hUp hOwed => mcAckReceive_exceeds hWf hMsg hKind hSrc hOn hUp hOwed⟩

end Sys2Proof.Machine
end

