-- ==== Sys2Proof/Proofs/RequestsAtTheDestination.lean ====
section
/-!
PROOF. A destination's grants (spec/09_fabric.md R352, R354, R355; spec/08_queues_and_scheduling.md R294).
-/
namespace Sys2Proof.Machine

/-! ### What a grant charges and gives back (R294) -/

theorem reqResvAt_showResv (t r : Nat) (s : State) : ((showResv t).run s).reqResvAt r = s.reqResvAt r := by
  have hSame : s.reqResv = ((showResv t).run s).reqResv :=
    State.framed_same (keeps_showResv (l := []) (R := [BPM_TIER_RESV.RESV (t - 1)]) (T := []) (by simp) s) .reqResv (by decide)
  rw [State.reqResvAt, State.reqResvAt, hSame]

theorem reqResvAt_reserve (r n : Nat) (s : State) : ((reserve r n).run s).reqResvAt r = s.reqResvAt r + 2 * n := by
  unfold reserve
  rw [run_look, run_andThen, reqResvAt_showResv, run_put, Act.reqResv_apply, if_pos rfl]

theorem reqResvAt_unreserve (r n : Nat) (s : State) : ((unreserve r n).run s).reqResvAt r = s.reqResvAt r - 2 * n := by
  unfold unreserve
  rw [run_look, run_andThen, reqResvAt_showResv, run_put, Act.reqResv_apply, if_pos rfl]

theorem reqResvAt_qx (q r : Nat) (x : QX) (s : State) : ((Prog.put (.qx q x)).run s).reqResvAt r = s.reqResvAt r := rfl

/-- The queue and the requester are charged with a grant. -/
def charged (q n : Nat) (s : State) : State :=
  (Prog.put (.qx q { s.qxAt q with granted := (s.qxAt q).granted + n })).run ((reserve (s.rootPort q) n).run s)

theorem granted_charged (q n : Nat) (s : State) : ((charged q n s).qxAt q).granted = (s.qxAt q).granted + n := by
  rw [charged, run_put, Act.qx_apply, if_pos rfl]

theorem reqResvAt_charged (q n : Nat) (s : State) : (charged q n s).reqResvAt (s.rootPort q) = s.reqResvAt (s.rootPort q) + 2 * n := by
  rw [charged, reqResvAt_qx, reqResvAt_reserve]

theorem charged_framed (q n : Nat) (s : State) : s.framed (charged q n s) [.qx, .reqResv] [BPM_TIER_RESV.RESV 0] [] :=
  State.framed_trans (keeps_reserve (by decide) (by simp) s) (keeps_put (show Piece.qx ∈ _ by decide) (by simp) (by simp) _)

theorem keeps_ungrant {q r n : Nat} : (ungrant q r n).Keeps [.qx, .reqResv] [BPM_TIER_RESV.RESV 0] [] :=
  keeps_look fun _ => keeps_andThen (keeps_put (show Piece.qx ∈ _ by decide) (by simp) (by simp)) (keeps_unreserve (by decide) (by simp))

theorem granted_ungrant (q r n : Nat) (s : State) : (((ungrant q r n).run s).qxAt q).granted = (s.qxAt q).granted - n := by
  have hSame : ∀ u : State, u.qx = ((unreserve r n).run u).qx := fun u =>
    State.framed_same (keeps_unreserve (l := [.reqResv]) (R := [BPM_TIER_RESV.RESV 0]) (T := []) (by decide) (by simp) u) .qx (by decide)
  unfold ungrant
  rw [run_look, run_andThen, State.qxAt, ← hSame]
  exact congrArg QX.granted ((Act.qx_apply q _ s q).trans (if_pos rfl))

theorem reqResvAt_ungrant (q r n : Nat) (s : State) : ((ungrant q r n).run s).reqResvAt r = s.reqResvAt r - 2 * n := by
  unfold ungrant
  rw [run_look, run_andThen, reqResvAt_unreserve]
  rfl

/-! ### The test of a requested packet (R352) -/

/-- A packet of a request as it stands once it is granted. -/
def RecPkt.granted (r : RecPkt) (now n port : Nat) : RecPkt := { r with verdict := 0, reason := 0, step := 7, at_ := now, resv := n, req := port }

/-- A queue that takes packets of class Guaranteed, has room, and whose requester's tier admits the bytes. -/
def State.takes (s : State) (q n : Nat) : Prop :=
  (s.qe q).on QE.EN = true ∧ (s.qe q).f QE.CLASS = 0 ∧ s.qRoom q n = true ∧ s.bpmAdmit 1 (s.rootPort q) (2 * n) = true

/-- A Guaranteed queue with room charges the bytes asked for and grants. -/
theorem admitToQueue_grants {q : Nat} {a : Ask} {k : Nat → Nat → Nat → Prog} {s : State} (hTakes : s.takes q a.n) (hStep : a.step < 6)
    (hResv : a.resv = false) : (admitToQueue q a k).run s = (k 0 0 7).run (charged q a.n s) := by
  obtain ⟨hEn, hClass, hRoom, hAdmit⟩ := hTakes
  have hEarly : ¬ 6 ≤ a.step := Nat.not_le.mpr hStep
  unfold admitToQueue
  rw [run_look]
  simp only [hEn, hClass, hEarly, hResv, Bool.not_true, Bool.false_eq_true, if_false, Nat.reduceBEq, Bool.false_and]
  rw [run_look, if_pos hRoom, run_look, if_pos hAdmit]
  rfl

/-- A single packet awaiting its test is granted by a queue that takes it. -/
theorem testAll_grants {src q n : Nat} {r : RecPkt} {k : List RecPkt → Prog} {s : State} (hWaits : r.verdict = 1) (hStep : r.step < 6)
    (hLen : n = ((r.len : Int) - s.ovh (s.rootPort q)).toNat) (hTakes : s.takes q n) :
    (testAll src q [r] k).run s = (k [r.granted s.mono n (s.rootPort q)]).run (charged q n s) := by
  subst hLen
  unfold testAll
  rw [run_look, if_neg (by simp [hWaits]), admitToQueue_grants hTakes hStep rfl]
  rfl

/-! ### The record and its answer (R352, R354) -/

section Keeps
variable {l : List Piece} {R : List Fld} {T : List Nat}

theorem keeps_ansMsg {src seq : Nat} (hl : ctrlPieces ⊆ l) : (ansMsg src seq).Keeps l R T := by
  refine keeps_look fun s => ?_
  cases s.recsAt (reqKey src seq) with
  | none => exact keeps_skip
  | some g => exact keeps_ctrlMsg hl fun _ => keeps_skip

end Keeps

/-- A record stands and its answer has left. -/
def answeredRec (src seq : Nat) (g : GrantRec) (s : State) : State :=
  (Prog.put (.recs (reqKey src seq) (some g))).run ((ansMsg src seq).run ((Prog.put (.recs (reqKey src seq) (some g))).run s))

theorem recsAt_answeredRec (src seq : Nat) (g : GrantRec) (s : State) : (answeredRec src seq g s).recsAt (reqKey src seq) = some g := by
  rw [answeredRec, run_put, Act.recs_apply, if_pos rfl]

theorem answeredRec_framed (src seq : Nat) (g : GrantRec) (s : State) : s.framed (answeredRec src seq g s) [[.recs], ctrlPieces].flatten [] [] :=
  State.framed_trans (keeps_put (show Piece.recs ∈ _ by decide) (by simp) (by simp) _)
    (State.framed_trans (keeps_ansMsg (by decide) _) (keeps_put (show Piece.recs ∈ _ by decide) (by simp) (by simp) _))

/-- A record with a granted packet stands. -/
theorem setRec_stands {src seq : Nat} {g : GrantRec} {r : RecPkt} (hPkts : g.pkts = [r]) (hGranted : r.verdict = 0) :
    setRec src seq g = .put (.recs (reqKey src seq) (some g)) := by
  simp [setRec, hPkts, hGranted]

/-- A grant that has been charged and answered: its record stands, and the queue and the requester owe it. -/
theorem answered_grant {src seq q n : Nat} {g : GrantRec} {s t : State} (hRun : t = answeredRec src seq g (charged q n s.begun)) :
    t.recsAt (reqKey src seq) = some g ∧ (t.qxAt q).granted = (s.qxAt q).granted + n ∧
      t.reqResvAt (s.rootPort q) = s.reqResvAt (s.rootPort q) + 2 * n ∧ s.framed t [[.recs, .qx, .reqResv], ctrlPieces].flatten [BPM_TIER_RESV.RESV 0] [] := by
  subst hRun
  have hFrame := answeredRec_framed src seq g (charged q n s.begun)
  have hQx : (charged q n s.begun).qx = (answeredRec src seq g (charged q n s.begun)).qx := State.framed_same hFrame .qx (by decide)
  have hResv : (charged q n s.begun).reqResv = (answeredRec src seq g (charged q n s.begun)).reqResv := State.framed_same hFrame .reqResv (by decide)
  refine ⟨recsAt_answeredRec _ _ _ _, ?_, ?_, ?_⟩
  · rw [State.qxAt, ← hQx]
    exact granted_charged q n s.begun
  · rw [State.reqResvAt, ← hResv]
    exact reqResvAt_charged q n s.begun
  · exact State.framed_trans (begun_framed (by decide) s)
      (State.framed_trans (State.framed_mono (charged_framed q n s.begun) (by decide) (List.Subset.refl _) (List.Subset.refl _))
        (State.framed_mono hFrame (by decide) (by simp) (List.Subset.refl _)))

/-! ### A REQ received (R352) -/

theorem epochSeen_known {src e : Nat} {s : State} (h : s.srcEpochAt src = some e) : (epochSeen src e).run s = s := by
  unfold epochSeen
  rw [run_look, if_pos (by simp [h])]
  rfl

theorem reqReceive_grants {link src : Nat} {msg : List Word} {m q n : Nat} {s : State} (hWf : Instr.wellFormed (.reqReceive link src msg) = true)
    (hMsg : m = msgOf msg) (hQueue : q = mb m 120 102) (hLen : n = ((mb m 16 3 : Int) - s.ovh (s.rootPort q)).toNat) (hKind : mb m 127 124 = 1)
    (hSrc : src ≠ s.ownId) (hOn : s.fabOn = true) (hUp : s.linkUp link = true) (hEpoch : s.srcEpochAt src = some (mb m 85 78)) (hRecs : s.recs = [])
    (hOne : mb m 122 121 = 0) (hTakes : s.takes q n) :
    ∃ t, exec (.reqReceive link src msg) s = .next t ∧ t.recsAt (reqKey src (mb m 101 86)) = some
        { queue := q, priv := bitOf m 123, pkts := [({ len := mb m 16 3, colour := mb m 2 1, ecn := bitOf m 0 } : RecPkt).granted s.mono n (s.rootPort q)] } ∧
      (t.qxAt q).granted = (s.qxAt q).granted + n ∧ t.reqResvAt (s.rootPort q) = s.reqResvAt (s.rootPort q) + 2 * n ∧
      s.framed t [[.recs, .qx, .reqResv], ctrlPieces].flatten [BPM_TIER_RESV.RESV 0] [] := by
  subst hMsg hQueue
  have hNone : s.begun.recsAt (reqKey src (mb (msgOf msg) 101 86)) = none := by
    show Sp.get dfltRecs s.recs _ = _
    rw [hRecs]
    rfl
  have hNoRecs : s.begun.recs = [] := hRecs
  have hGrants : s.begun.takes (mb (msgOf msg) 120 102) n := hTakes
  simp only [exec, execReqReceive]
  refine ⟨_, command_reaches hWf ?_, answered_grant rfl⟩
  rw [ctrlOfKind_run (s := s.begun) hKind hSrc hOn hUp, ctrlMessage, reqReceive, run_andThen, epochSeen_known (s := s.begun) hEpoch, run_look]
  simp only [hNone, hNoRecs, hOne]
  rw [if_neg (by simp), run_andThen, purgeRecs, run_look, hNoRecs, List.filter_nil, run_each_nil]
  simp only [Nat.zero_add, List.range_one, List.map_cons, List.map_nil, Nat.mul_zero]
  rw [testAll_grants (s := s.begun) rfl (show 1 < 6 by decide) hLen hGrants, run_seqs_cons, run_seqs_cons, run_seqs_cons, run_seqs_nil, setRec_stands rfl rfl]
  rfl

/-! ### A packet held at first (R354) -/

theorem holdClear_grants {src seq : Nat} {g : GrantRec} {r : RecPkt} {n : Nat} {s : State} (hWf : Instr.wellFormed (.holdClear src seq) = true)
    (hRec : s.recsAt (reqKey src seq) = some g) (hPkts : g.pkts = [r]) (hHeld : r.verdict = 1)
    (hLen : n = ((r.len : Int) - s.ovh (s.rootPort g.queue)).toNat) (hStep : r.step < 6) (hTakes : s.takes g.queue n) :
    ∃ t, exec (.holdClear src seq) s = .next t ∧ t.recsAt (reqKey src seq) = some { g with pkts := [r.granted s.mono n (s.rootPort g.queue)] } ∧
      (t.qxAt g.queue).granted = (s.qxAt g.queue).granted + n ∧ s.framed t [[.recs, .qx, .reqResv], ctrlPieces].flatten [BPM_TIER_RESV.RESV 0] [] := by
  have hStands : s.begun.recsAt (reqKey src seq) = some g := hRec
  have hGrants : s.begun.takes g.queue n := hTakes
  simp only [exec, execHoldClear]
  obtain ⟨hGranted, hCharged, -, hFrame⟩ := answered_grant (src := src) (seq := seq) (q := g.queue) (n := n)
    (g := { g with pkts := [r.granted s.mono n (s.rootPort g.queue)] }) (s := s) rfl
  refine ⟨_, command_reaches hWf ?_, hGranted, hCharged, hFrame⟩
  rw [run_look]
  simp only [hStands, hPkts]
  rw [testAll_grants (s := s.begun) hHeld hStep hLen hGrants, run_andThen, run_onlyIf_true _ _ (by simp [RecPkt.granted, hHeld]), run_andThen, setRec_stands rfl rfl]
  rfl

/-! ### A grant that ends (R355) -/

/-- A granted packet gives back what it was charged. -/
theorem recFree_granted {q : Nat} {r : RecPkt} (h : r.verdict = 0) (s : State) : (recFree q r).run s = (ungrant q r.req r.resv).run s := by
  unfold recFree
  exact run_onlyIf_true _ _ (by simp [h])

/-- A record as set after one of its packets gave back its reservation. -/
def freed (k : Nat) (g : Option GrantRec) (q : Nat) (r : RecPkt) (s : State) : State := (Prog.put (.recs k g)).run ((ungrant q r.req r.resv).run s)

theorem qxAt_recs (k q : Nat) (g : Option GrantRec) (s : State) : ((Prog.put (.recs k g)).run s).qxAt q = s.qxAt q := rfl

theorem reqResvAt_recs (k r : Nat) (g : Option GrantRec) (s : State) : ((Prog.put (.recs k g)).run s).reqResvAt r = s.reqResvAt r := rfl

theorem freed_effect (k : Nat) (g : Option GrantRec) (q : Nat) (r : RecPkt) (s : State) :
    (freed k g q r s.begun).recsAt k = g ∧ ((freed k g q r s.begun).qxAt q).granted = (s.qxAt q).granted - r.resv ∧
      (freed k g q r s.begun).reqResvAt r.req = s.reqResvAt r.req - 2 * r.resv ∧
      s.framed (freed k g q r s.begun) [.emitted, .recs, .qx, .reqResv] [BPM_TIER_RESV.RESV 0] [] := by
  refine ⟨?_, ?_, ?_, ?_⟩
  · rw [freed, run_put, Act.recs_apply, if_pos rfl]
  · rw [freed, qxAt_recs, granted_ungrant]
    rfl
  · rw [freed, reqResvAt_recs, reqResvAt_ungrant]
    rfl
  · exact State.framed_trans (begun_framed (by decide) s)
      (State.framed_trans (State.framed_mono (keeps_ungrant s.begun) (by decide) (List.Subset.refl _) (List.Subset.refl _))
        (keeps_put (show Piece.recs ∈ _ by decide) (by simp) (by simp) _))

theorem grantExpire_frees {src seq : Nat} {g : GrantRec} {r : RecPkt} {s : State} (hWf : Instr.wellFormed (.grantExpire src seq) = true)
    (hRec : s.recsAt (reqKey src seq) = some g) (hPkts : g.pkts = [r]) (hGranted : r.verdict = 0)
    (hOld : s.since r.at_ (max 50 (s.rd FAB_TIMERS.GRANT_TMO_US) * 1000) = true) :
    ∃ t, exec (.grantExpire src seq) s = .next t ∧ t.recsAt (reqKey src seq) = some { g with pkts := [{ r with verdict := 3 }] } ∧
      (t.qxAt g.queue).granted = (s.qxAt g.queue).granted - r.resv ∧ t.reqResvAt r.req = s.reqResvAt r.req - 2 * r.resv ∧
      s.framed t [.emitted, .recs, .qx, .reqResv] [BPM_TIER_RESV.RESV 0] [] := by
  have hStands : s.begun.recsAt (reqKey src seq) = some g := hRec
  have hLate : s.begun.since r.at_ (max 50 (s.begun.rd FAB_TIMERS.GRANT_TMO_US) * 1000) = true := hOld
  simp only [exec, execGrantExpire]
  refine ⟨_, command_reaches hWf ?_, freed_effect (reqKey src seq) (some { g with pkts := [{ r with verdict := 3 }] }) g.queue r s⟩
  rw [run_look]
  simp only [hStands, hPkts, List.filter_cons, List.filter_nil, List.map_cons, List.map_nil, hGranted, hLate]
  rw [run_andThen]
  simp only [BEq.rfl, Bool.and_self, if_true]
  rw [run_each_cons, run_each_nil, recFree_granted hGranted]
  rfl

theorem releaseReceive_frees {link src : Nat} {msg : List Word} {m : Nat} {g : GrantRec} {r : RecPkt} {s : State}
    (hWf : Instr.wellFormed (.releaseReceive link src msg) = true) (hMsg : m = msgOf msg) (hKind : mb m 127 124 = 3) (hSrc : src ≠ s.ownId)
    (hOn : s.fabOn = true) (hUp : s.linkUp link = true) (hEpoch : s.srcEpochAt src = some (mb m 85 78))
    (hRec : s.recsAt (reqKey src (mb m 101 86)) = some g) (hPkts : g.pkts = [r]) (hGranted : r.verdict = 0) (hNamed : bitOf m 0 = true) :
    ∃ t, exec (.releaseReceive link src msg) s = .next t ∧ t.recsAt (reqKey src (mb m 101 86)) = none ∧
      (t.qxAt g.queue).granted = (s.qxAt g.queue).granted - r.resv ∧ s.framed t [.emitted, .recs, .qx, .reqResv] [BPM_TIER_RESV.RESV 0] [] := by
  subst hMsg
  have hStands : s.begun.recsAt (reqKey src (mb (msgOf msg) 101 86)) = some g := hRec
  obtain ⟨hGone, hFreed, -, hFrame⟩ := freed_effect (reqKey src (mb (msgOf msg) 101 86)) none g.queue r s
  simp only [exec, execReleaseReceive]
  refine ⟨_, command_reaches hWf ?_, hGone, hFreed, hFrame⟩
  rw [ctrlOfKind_run (s := s.begun) hKind hSrc hOn hUp, ctrlMessage, releaseReceive, run_andThen, epochSeen_known (s := s.begun) hEpoch, run_look]
  simp only [hStands, hPkts, List.length_singleton, List.range_one, List.zip_cons_cons, List.zip_nil_right, List.filter_cons, List.filter_nil, List.map_cons,
    List.map_nil, hGranted, hNamed, BEq.rfl, Bool.and_self, if_true]
  rw [run_andThen, run_each_cons, run_each_nil, recFree_granted hGranted]
  rfl

/-- Settles O29, clause by clause: a grant charges its queue and requester before its record is answered, and its end gives the charge back. -/
theorem requestsAtTheDestination : Obligations.RequestsAtTheDestination := by
  unfold Obligations.RequestsAtTheDestination
  exact ⟨fun _ _ _ _ _ _ _ hWf hMsg hQueue hLen hKind hSrc hOn hUp hEpoch hRecs hOne hEn hClass hRoom hAdmit =>
      reqReceive_grants hWf hMsg hQueue hLen hKind hSrc hOn hUp hEpoch hRecs hOne ⟨hEn, hClass, hRoom, hAdmit⟩,
    fun _ _ _ _ _ _ hWf hRec hPkts hHeld hLen hEn hClass hStep hRoom hAdmit =>
      holdClear_grants hWf hRec hPkts hHeld hLen hStep ⟨hEn, hClass, hRoom, hAdmit⟩,
    fun _ _ _ _ _ hWf hRec hPkts hGranted hOld => grantExpire_frees hWf hRec hPkts hGranted hOld,
    fun _ _ _ _ _ _ _ hWf hMsg hKind hSrc hOn hUp hEpoch hRec hPkts hGranted hNamed =>
      releaseReceive_frees hWf hMsg hKind hSrc hOn hUp hEpoch hRec hPkts hGranted hNamed⟩

end Sys2Proof.Machine
end

