-- ==== Sys2Proof/Proofs/QueueAndMono.lean ====
section
/-!
PROOF. What commands leave of the queue and of MONO (spec/11_time.md R417): no write of a program names either, the resets of the device keep the queue, and
only they and a cold start set MONO.
-/
namespace Sys2Proof.Machine

/-- Every command runs one program of writes, but the four that may reset the device or start it. -/
theorem exec_runs {i : Instr} (s : State) (hMain : i ≠ .mainPowerOnReset) (hStandby : i ≠ .standbyPowerOnReset) (hReset : ∀ ns, i ≠ .resetNAssert ns)
    (hCold : ∀ slot, i ≠ .coldStart slot) : ∃ p, exec i s = command i p s := by
  cases i with
  | mainPowerOnReset => exact absurd rfl hMain
  | standbyPowerOnReset => exact absurd rfl hStandby
  | resetNAssert ns => exact absurd rfl (hReset ns)
  | coldStart slot => exact absurd rfl (hCold slot)
  | _ => exact ⟨_, rfl⟩

theorem State.pending_powered (s : State) (keep : List Nat) : (s.powered keep).pending = s.pending := rfl

theorem State.pending_restarted (s : State) (keep : List Nat) : (s.restarted keep).pending = s.pending := rfl

/-- A command that may reset the device leaves the queue, if the reset does. -/
theorem pending_resetCommand {i : Instr} {first last : Prog} {goes : State → Bool} {f : State → State} {s t : State}
    (hf : ∀ u : State, (f u).pending = u.pending) (h : resetCommand i first goes f last s = .next t) : t.pending = s.pending := by
  have hFirst := Prog.pending_run (Prog.andThen (.put (.emitted [])) first) s
  unfold resetCommand at h
  split at h
  · obtain rfl := Host.Outcome.next.inj h
    split
    · rw [Prog.pending_run, hf, hFirst]
    · exact hFirst
  · cases h

/-- No command changes the queue. -/
theorem pending_exec {i : Instr} {s t : State} (h : exec i s = .next t) : t.pending = s.pending := by
  by_cases hMain : i = .mainPowerOnReset
  · subst hMain
    exact pending_resetCommand (fun u => u.pending_powered _) (show execMainPowerOnReset s = .next t from h)
  by_cases hStandby : i = .standbyPowerOnReset
  · subst hStandby
    exact pending_resetCommand (fun u => u.pending_powered _) (show execStandbyPowerOnReset s = .next t from h)
  by_cases hReset : ∃ ns, i = .resetNAssert ns
  · obtain ⟨ns, rfl⟩ := hReset
    exact pending_resetCommand (fun u => u.pending_restarted _) (show execResetNAssert ns s = .next t from h)
  by_cases hCold : ∃ slot, i = .coldStart slot
  · obtain ⟨slot, rfl⟩ := hCold
    exact pending_resetCommand (f := fun u => { u with mono16 := 0 }) (fun _ => rfl) (show execColdStart slot s = .next t from h)
  obtain ⟨p, hRun⟩ := exec_runs s hMain hStandby (not_exists.mp hReset) (not_exists.mp hCold)
  obtain ⟨-, rfl⟩ := command_next (hRun ▸ h)
  exact Prog.pending_run _ s

/-- Settles O15, from what every program of writes leaves; only the four commands that reset the device or start it anew do more than run one. -/
theorem queueAndMonoKept : Obligations.QueueAndMonoKept := by
  unfold Obligations.QueueAndMonoKept
  refine ⟨fun _ _ _ => pending_exec, fun i s t hMain hStandby hReset hCold h => ?_⟩
  obtain ⟨p, hRun⟩ := exec_runs s hMain hStandby hReset hCold
  obtain ⟨-, rfl⟩ := command_next (hRun ▸ h)
  exact Prog.mono16_run _ s

end Sys2Proof.Machine
end

