-- ==== Sys2Proof/Proofs/TimeSource.lean ====
section
/-!
PROOF. The time base acquires its source, locks and holds over (spec/11_time.md R423 to R425): what a change of PTP_STAT.STATE, the entry into HOLDOVER and a
measurement do and leave, and from these the commands.
-/
namespace Sys2Proof.Machine

/-! ### What the steps of the time source may change (R423, R424) -/

section Keeps
variable {l : List Piece} {R : List Fld} {T : List Nat}

theorem keeps_setTimeState {st : Nat} (hl : irqPieces ⊆ l) (hState : PTP_STAT.STATE ∈ R) (hIrq : irqFlds 12 17 ⊆ R) : (setTimeState st).Keeps l R T :=
  keeps_look fun _ => keeps_onlyIf fun _ => keeps_andThen (keeps_setF hState) (keeps_raise hl hIrq)

theorem keeps_enterHoldover (hl : irqPieces ⊆ l) (hPieces : [.lockCount, .holdFreq] ⊆ l) (hState : PTP_STAT.STATE ∈ R) (hIrq : irqFlds 12 17 ⊆ R) :
    enterHoldover.Keeps l R T :=
  keeps_look fun _ => keeps_onlyIf fun _ => keeps_seqs_cons (keeps_setTimeState hl hState hIrq) (keeps_seqs_cons
    (keeps_put (hPieces (by simp)) (by simp) (by simp)) (keeps_seqs_cons (keeps_put (hPieces (by simp)) (by simp) (by simp)) keeps_seqs_nil))

/-- The fields that a measurement of the source writes, its interrupt apart. -/
def measureFlds : List Fld := [PTP_OFFSET.reg, PTP_STAT.STATE, PTP_STAT.TIME_VALID, PTP_STAT.SRC_IN_USE]

theorem keeps_measureSource {offset : Int} (hl : irqPieces ⊆ l) (hPieces : [.lockCount, .freqLog, .holdFreq] ⊆ l) (hFlds : measureFlds ⊆ R)
    (hIrq : irqFlds 12 17 ⊆ R) : (measureSource offset).Keeps l R T := by
  have hMove : ∀ st, (setTimeState st).Keeps l R T := fun st => keeps_setTimeState hl (hFlds (by simp [measureFlds])) hIrq
  have hCount : ∀ n, (Prog.put (.lockCount n)).Keeps l R T := fun n => keeps_put (hPieces (by simp)) (by simp) (by simp)
  have hAcquire : (seqs [setTimeState 1, .put (.lockCount 0), .put (.holdFreq none)]).Keeps l R T :=
    keeps_seqs_cons (hMove 1) (keeps_seqs_cons (hCount 0) (keeps_seqs_cons (keeps_put (hPieces (by simp)) (by simp) (by simp)) keeps_seqs_nil))
  have hLock : ∀ src log, (seqs [setTimeState 2, setF PTP_STAT.TIME_VALID 1, setF PTP_STAT.SRC_IN_USE src, .put (.freqLog log)]).Keeps l R T :=
    fun src log => keeps_seqs_cons (hMove 2) (keeps_seqs_cons (keeps_setF (hFlds (by simp [measureFlds]))) (keeps_seqs_cons
      (keeps_setF (hFlds (by simp [measureFlds]))) (keeps_seqs_cons (keeps_put (hPieces (by simp)) (by simp) (by simp)) keeps_seqs_nil)))
  exact keeps_look fun _ => keeps_onlyIf fun _ => keeps_seqs_cons (keeps_setF (hFlds (by simp [measureFlds]))) (keeps_seqs_cons
    (keeps_onlyIf fun _ => hAcquire) (keeps_seqs_cons (keeps_look fun _ => keeps_onlyIf fun _ => keeps_andThen (hCount _)
      (keeps_onlyIf fun _ => hLock _ _)) keeps_seqs_nil))

end Keeps

/-! ### What they show -/

/-- A change of state is shown. -/
theorem rd_setTimeState_state (s : State) {st : Nat} (hFits : st < 8) : ((setTimeState st).run s).rd PTP_STAT.STATE = st := by
  unfold setTimeState
  by_cases hSame : s.rd PTP_STAT.STATE = st
  · rw [run_look_skip (by simp [hSame]), hSame]
  · rw [run_look_onlyIf (by simpa using hSame), run_andThen, rd_raise _ (by decide), rd_setF_fits _ ⟨by decide, hFits⟩]

/-- Loss of the source in LOCKED: HOLDOVER, at the frequency averaged over the last 1,000 s. -/
theorem enterHoldover_enters {s : State} (hLocked : s.rd PTP_STAT.STATE = 2) :
    (enterHoldover.run s).rd PTP_STAT.STATE = 3 ∧ (enterHoldover.run s).lockCount = 0 ∧
      (enterHoldover.run s).holdFreq = some (avgFreq s.freqLog s.mono 1000000000000 0) := by
  unfold enterHoldover
  rw [run_look_onlyIf (by simp [hLocked]), run_seqs_cons, run_seqs_cons, run_seqs_cons, run_seqs_nil]
  exact ⟨by rw [rd_put _ (by simp), rd_put _ (by simp), rd_setTimeState_state _ (by decide)], rfl, rfl⟩

/-- A write of a field leaves what the units use of another, committed or not. -/
theorem cfg_setF_apart (s : State) {f g : Fld} (v : Nat) (h : g.off < 65536 ∧ f.off < 65536 ∧ f.apart g) : ((setF f v).run s).cfg g = s.cfg g := by
  have hUnits : s.units = ((setF f v).run s).units :=
    Prog.Keeps.same (l := []) (R := [f]) (T := []) (keeps_setF (List.mem_singleton_self f)) s .units (by decide)
  unfold State.cfg State.unitsAt
  rw [rd_setF_apart s v h, hUnits]

/-- In particular the source that is selected. -/
theorem timeSrc_setF_apart (s : State) {f : Fld} (v : Nat) (h : f.off < 65536 ∧ f.apart PTP_SRC_CFG.SRC) : ((setF f v).run s).timeSrc = s.timeSrc := by
  unfold State.timeSrc
  rw [cfg_setF_apart s v ⟨by decide, h⟩]

/-- The sixteenth offset in a row within 100 ns of a source that is being acquired locks the time base. -/
theorem measureSource_locks {offset : Int} {s : State} (hSrc : s.timeSrc ≠ 0) (hState : s.rd PTP_STAT.STATE = 1) (hCount : s.lockCount = 15)
    (hLow : -100 ≤ offset) (hHigh : offset ≤ 100) :
    ((measureSource offset).run s).rd PTP_STAT.STATE = 2 ∧ ((measureSource offset).run s).rd PTP_STAT.TIME_VALID = 1 ∧
      ((measureSource offset).run s).rd PTP_STAT.SRC_IN_USE = s.timeSrc := by
  have hSrcFits : s.timeSrc < 2 ^ 3 := by
    simp only [State.timeSrc]
    split <;> omega
  have hStill : ∀ v, ((setF PTP_OFFSET.reg v).run s).rd PTP_STAT.STATE = 1 := fun v => (rd_setF_apart s v (by unfold Fld.apart; decide)).trans hState
  have hCountStill : ∀ v, ((setF PTP_OFFSET.reg v).run s).lockCount = 15 := fun _ => hCount
  unfold measureSource
  rw [run_look_onlyIf (by simpa using hSrc), run_seqs_cons, run_seqs_cons, run_onlyIf_false _ _ (by simp [hState]), run_seqs_cons, run_seqs_nil, run_look,
    run_onlyIf_true _ _ (by simp [hStill]), run_andThen, run_onlyIf_true _ _ (by simp [hCountStill, hLow, hHigh]), run_seqs_cons, run_seqs_cons, run_seqs_cons,
    run_seqs_cons, run_seqs_nil, rd_put _ (by simp), rd_put _ (by simp), rd_put _ (by simp), timeSrc_setF_apart _ _ (by unfold Fld.apart; decide)]
  refine ⟨?_, ?_, rd_setF_fits _ ⟨by decide, hSrcFits⟩⟩
  · rw [rd_setF_apart _ _ (by unfold Fld.apart; decide), rd_setF_apart _ _ (by unfold Fld.apart; decide), rd_setTimeState_state _ (by decide)]
  · rw [rd_setF_apart _ _ (by unfold Fld.apart; decide), rd_setF_fits _ (by decide)]

/-- A measurement leaves what PTP_STAT shows of REF10M_IN. -/
theorem rd_measureSource_refOk (offset : Int) (s : State) : ((measureSource offset).run s).rd PTP_STAT.REF10M_OK = s.rd PTP_STAT.REF10M_OK :=
  (keeps_measureSource (l := [.lockCount, .freqLog, .holdFreq] ++ irqPieces) (R := measureFlds ++ irqFlds 12 17) (T := []) (List.subset_append_right _ _)
    (List.subset_append_left _ _) (List.subset_append_left _ _) (List.subset_append_right _ _)).rd s _ (by decide) (by unfold Fld.apart; decide)

/-! ### TIME_SOURCE_MEASURE -/

/-- A measurement of an enabled block shows whether REF10M_IN is good, and judges the source. -/
theorem timeSourceMeasure_run {offset : Int} {present ref10m : Bool} {s : State} (hEn : s.rd (BLK_CTRL.ENABLE 12) = 1) :
    (whenEnabled 12 (.andThen (setF PTP_STAT.REF10M_OK (b2n ref10m))
      (either present (measureSource offset) (.andThen (.put (.lockCount 0)) enterHoldover)))).run s =
    (either present (measureSource offset) (.andThen (.put (.lockCount 0)) enterHoldover)).run ((setF PTP_STAT.REF10M_OK (b2n ref10m)).run s) := by
  unfold whenEnabled
  rw [run_look_onlyIf (by simp [hEn]), run_andThen]

theorem rd_setF_refOk (s : State) (b : Bool) : ((setF PTP_STAT.REF10M_OK (b2n b)).run s).rd PTP_STAT.REF10M_OK = b2n b :=
  rd_setF_fits s ⟨by decide, b2n_lt_two b⟩

theorem timeSourceMeasure_locks {offset : Int} {ref10m : Bool} {s : State} (hWf : Instr.wellFormed (.timeSourceMeasure (true, ref10m) offset) = true)
    (hEn : s.rd (BLK_CTRL.ENABLE 12) = 1) (hSrc : s.timeSrc ≠ 0) (hState : s.rd PTP_STAT.STATE = 1) (hCount : s.lockCount = 15)
    (hLow : -100 ≤ offset) (hHigh : offset ≤ 100) :
    ∃ t, exec (.timeSourceMeasure (true, ref10m) offset) s = .next t ∧ t.rd PTP_STAT.STATE = 2 ∧ t.rd PTP_STAT.TIME_VALID = 1 ∧
      t.rd PTP_STAT.SRC_IN_USE = s.timeSrc ∧ t.rd PTP_STAT.REF10M_OK = b2n ref10m ∧
      s.framed t [[.lockCount, .freqLog, .holdFreq], irqPieces].flatten [[PTP_OFFSET.reg, PTP_STAT.STATE, PTP_STAT.TIME_VALID, PTP_STAT.SRC_IN_USE,
        PTP_STAT.REF10M_OK], irqFlds 12 17].flatten [] := by
  have hSrc' : ((setF PTP_STAT.REF10M_OK (b2n ref10m)).run s.begun).timeSrc = s.timeSrc := timeSrc_setF_apart s.begun _ (by unfold Fld.apart; decide)
  have hState' : ((setF PTP_STAT.REF10M_OK (b2n ref10m)).run s.begun).rd PTP_STAT.STATE = 1 := (rd_setF_apart s.begun _ (by unfold Fld.apart; decide)).trans hState
  obtain ⟨hLocked, hValid, hInUse⟩ := measureSource_locks (s := (setF PTP_STAT.REF10M_OK (b2n ref10m)).run s.begun) (by rw [hSrc']; exact hSrc) hState'
    hCount hLow hHigh
  simp only [exec, execTimeSourceMeasure]
  refine command_answers hWf ?_
  rw [timeSourceMeasure_run (s := s.begun) hEn, either, if_pos rfl]
  exact ⟨hLocked, hValid, hInUse.trans hSrc', (rd_measureSource_refOk _ _).trans (rd_setF_refOk _ _), State.framed_trans (begun_framed (by decide) s)
    (State.framed_trans (keeps_setF (by decide) _) (keeps_measureSource (by decide) (by decide) (by decide) (by decide) _))⟩

theorem timeSourceMeasure_holdsOver {offset : Int} {ref10m : Bool} {s : State} (hWf : Instr.wellFormed (.timeSourceMeasure (false, ref10m) offset) = true)
    (hEn : s.rd (BLK_CTRL.ENABLE 12) = 1) (hLocked : s.rd PTP_STAT.STATE = 2) :
    ∃ t, exec (.timeSourceMeasure (false, ref10m) offset) s = .next t ∧ t.rd PTP_STAT.STATE = 3 ∧ t.lockCount = 0 ∧
      t.rd PTP_STAT.REF10M_OK = b2n ref10m ∧ t.holdFreq = some (avgFreq s.freqLog s.mono 1000000000000 0) ∧
      s.framed t [[.lockCount, .holdFreq], irqPieces].flatten [[PTP_STAT.STATE, PTP_STAT.REF10M_OK], irqFlds 12 17].flatten [] := by
  have hStill : ((Prog.put (.lockCount 0)).run ((setF PTP_STAT.REF10M_OK (b2n ref10m)).run s.begun)).rd PTP_STAT.STATE = 2 :=
    (rd_put _ (by simp) _).trans ((rd_setF_apart s.begun _ (by unfold Fld.apart; decide)).trans hLocked)
  obtain ⟨hState, hCount, hFreq⟩ := enterHoldover_enters hStill
  have hHold : enterHoldover.Keeps ([.lockCount, .holdFreq] ++ irqPieces) (PTP_STAT.STATE :: irqFlds 12 17) [] :=
    keeps_enterHoldover (by decide) (by decide) (by decide) (by decide)
  simp only [exec, execTimeSourceMeasure]
  refine command_answers hWf ?_
  rw [timeSourceMeasure_run (s := s.begun) hEn, either, if_neg Bool.false_ne_true, run_andThen]
  refine ⟨hState, hCount, ?_, hFreq, State.framed_trans (begun_framed (by decide) s) (State.framed_trans (keeps_setF (by decide) _)
    (State.framed_trans (keeps_put (by decide) (by simp) (by simp) _) (State.framed_mono (hHold _) (by decide) (by decide) (by decide))))⟩
  rw [hHold.rd _ _ (by decide) (by unfold Fld.apart; decide), rd_put _ (by simp), rd_setF_refOk]

/-! ### HOLDOVER_ENTER -/

theorem holdoverEnter_enters {s : State} (hWf : Instr.wellFormed .holdoverEnter = true) (hMissed : 2 ≤ s.ppsMissed) (hLocked : s.rd PTP_STAT.STATE = 2) :
    ∃ t, exec .holdoverEnter s = .next t ∧ t.rd PTP_STAT.STATE = 3 ∧ t.holdFreq = some (avgFreq s.freqLog s.mono 1000000000000 0) ∧
      s.framed t [[.lockCount, .holdFreq], irqPieces].flatten [[PTP_STAT.STATE], irqFlds 12 17].flatten [] := by
  have hMissed' : 2 ≤ s.begun.ppsMissed := hMissed
  obtain ⟨hState, -, hFreq⟩ := enterHoldover_enters (s := s.begun) hLocked
  simp only [exec, execHoldoverEnter]
  refine command_answers hWf ?_
  rw [run_look_onlyIf (by simp [hMissed'])]
  exact ⟨hState, hFreq, State.framed_trans (begun_framed (by decide) s) (keeps_enterHoldover (by decide) (by decide) (by decide) (by decide) _)⟩

/-! ### PPS_IN_EDGE (R425) -/

/-- The pieces that the judgement of an edge writes: those of a measurement, the last good edge, the edges missed and the second that TOD_RX named. -/
def ppsPieces : List Piece := [.lockCount, .freqLog, .holdFreq, .ppsGood, .ppsMissed, .todSec] ++ irqPieces

/-- The fields that it writes: those of a measurement and PPS_IN_OK. -/
def ppsFlds : List Fld := PTP_STAT.PPS_IN_OK :: measureFlds ++ irqFlds 12 17

/-- The edge is captured and its instant kept, whatever its judgement `ps` does after that. -/
theorem ppsCapture_shows {v at_ : Nat} {ps : List Prog} {s : State} {l : List Piece} {R : List Fld} (hv : v < 2 ^ 64)
    (hJudge : (seqs ps).Keeps ppsPieces ppsFlds []) (hl : .ppsLast :: ppsPieces ⊆ l)
    (hR : [PTP_PPS_IN_TS_LO.reg, PTP_PPS_IN_TS_HI.reg] ++ irqFlds 12 18 ++ ppsFlds ⊆ R) :
    let t := (seqs (setF PTP_PPS_IN_TS_LO.reg (v % 2 ^ 32) :: setF PTP_PPS_IN_TS_HI.reg (v / 2 ^ 32) :: raise 12 18 :: .put (.ppsLast (some at_)) :: ps)).run
      s.begun
    t.rd PTP_PPS_IN_TS_LO.reg = v % 2 ^ 32 ∧ t.rd PTP_PPS_IN_TS_HI.reg = v / 2 ^ 32 ∧ t.ppsLast = some at_ ∧ s.framed t l R [] := by
  have hLo : v % 2 ^ 32 < 2 ^ 32 := Nat.mod_lt _ (by decide)
  have hHi : v / 2 ^ 32 < 2 ^ 32 := by omega
  simp only [run_seqs_cons]
  refine ⟨?_, ?_, (hJudge.same _ .ppsLast (by decide)).symm, ?_⟩
  · rw [hJudge.rd _ _ (by decide) (by unfold Fld.apart; decide), rd_put _ (by simp), rd_raise _ (by decide), rd_setF_apart _ _ (by unfold Fld.apart; decide),
      rd_setF_fits _ ⟨by decide, hLo⟩]
  · rw [hJudge.rd _ _ (by decide) (by unfold Fld.apart; decide), rd_put _ (by simp), rd_raise _ (by decide), rd_setF_fits _ ⟨by decide, hHi⟩]
  · exact State.framed_mono (State.framed_trans (begun_framed (l := .ppsLast :: ppsPieces) (by decide) s) (State.framed_trans (keeps_setF (by decide) _)
      (State.framed_trans (keeps_setF (by decide) _) (State.framed_trans (keeps_raise (by decide) (by decide) _)
        (State.framed_trans (keeps_put (by simp) (by simp) (by simp) _) (State.framed_mono (hJudge _) (by decide) (by decide) (by decide)))))))
      hl hR (List.Subset.refl _)

/-- The judgement of an edge that comes when it is expected: it ends a row of missing edges, and may measure the source. -/
theorem keeps_ppsOnTime {good : Option Nat} {tod : Option Nat} {measures : Bool} {offset : Int} :
    (Prog.andThen (seqs [.put (.ppsMissed 0), .put (.ppsGood good), .put (.todSec tod)]) (onlyIf measures (measureSource offset))).Keeps ppsPieces ppsFlds [] :=
  keeps_andThen (keeps_seqs_cons (keeps_put (by simp [ppsPieces]) (by simp) (by simp)) (keeps_seqs_cons (keeps_put (by simp [ppsPieces]) (by simp) (by simp))
    (keeps_seqs_cons (keeps_put (by simp [ppsPieces]) (by simp) (by simp)) keeps_seqs_nil)))
    (keeps_onlyIf fun _ => keeps_measureSource (by decide) (by decide) (by decide) (by decide))

/-- The judgement of one that does not: it counts as missing, and may enter HOLDOVER. -/
theorem keeps_ppsMissed {n : Nat} {enters : Bool} : (Prog.andThen (.put (.ppsMissed n)) (onlyIf enters enterHoldover)).Keeps ppsPieces ppsFlds [] :=
  keeps_andThen (keeps_put (by simp [ppsPieces]) (by simp) (by simp))
    (keeps_onlyIf fun _ => keeps_enterHoldover (by decide) (by decide) (by decide) (by decide))

theorem ppsInEdge_captures {falling : Bool} {s : State} (hWf : Instr.wellFormed (.ppsInEdge falling) = true) (hEn : s.rd (BLK_CTRL.ENABLE 12) = 1)
    (hSense : s.on PTP_SRC_CFG.PPS_IN_FALL = falling) :
    ∃ t, exec (.ppsInEdge falling) s = .next t ∧
      t.rd PTP_PPS_IN_TS_LO.reg = (s.ns64 + 2 ^ 64 - s.cfg PTP_PPS_CFG.PPS_IN_DELAY_NS) % 2 ^ 64 % 2 ^ 32 ∧
      t.rd PTP_PPS_IN_TS_HI.reg = (s.ns64 + 2 ^ 64 - s.cfg PTP_PPS_CFG.PPS_IN_DELAY_NS) % 2 ^ 64 / 2 ^ 32 ∧ t.ppsLast = some s.mono ∧
      s.framed t [[.lockCount, .freqLog, .holdFreq, .ppsLast, .ppsGood, .ppsMissed, .todSec], irqPieces].flatten [[PTP_PPS_IN_TS_LO.reg,
        PTP_PPS_IN_TS_HI.reg, PTP_STAT.PPS_IN_OK, PTP_OFFSET.reg, PTP_STAT.STATE, PTP_STAT.TIME_VALID, PTP_STAT.SRC_IN_USE], irqFlds 12 17, irqFlds
        12 18].flatten [] := by
  simp only [exec, execPpsInEdge]
  refine command_answers hWf ?_
  unfold whenEnabled
  rw [run_look_onlyIf (by simp [hEn]), run_look_onlyIf (by simp [hSense])]
  exact ppsCapture_shows (Nat.mod_lt _ (by decide)) (keeps_seqs_cons (keeps_setF (by simp [ppsFlds]))
    (keeps_seqs_cons (keeps_either (fun _ => keeps_ppsOnTime) fun _ => keeps_ppsMissed) keeps_seqs_nil)) (by decide) (by decide)

/-- Settles O21, clause by clause: the sixteenth good measurement locks, the loss of the source in LOCKED holds over, and an edge is captured before it is judged. -/
theorem timeSource : Obligations.TimeSource := by
  unfold Obligations.TimeSource
  refine ⟨fun offset present ref10m s hWf hEn hPresent => ?_, fun offset present ref10m s hWf hEn hAbsent => ?_, fun _ _ => ppsInEdge_captures,
    fun _ => holdoverEnter_enters⟩
  · subst hPresent
    exact timeSourceMeasure_locks hWf hEn
  · subst hAbsent
    exact timeSourceMeasure_holdsOver hWf hEn

end Sys2Proof.Machine
end

