-- ==== Sys2Proof/Proofs/TimeOutputsRefutation.lean ====
section
/-!
PROOF. The statement on the time's outputs and steps is refuted by a FIFO of transmit time stamps that holds more entries than it has room for
(spec/11_time.md R432).
-/
namespace Sys2Proof.Machine

/-- PTP is up and 4,098 transmit time stamps wait, two more than the FIFO has room for. -/
def tsfOverfull : State := { (Prog.put (.blkUp 12 true)).run State.reset with tsf := List.replicate 4098 (0, 0, 0, 0, 0, 0) }

/-- The main core's read of the oldest one leaves what the FIFO has room for. -/
theorem tsfOverfull_popped {t : State} (h : exec (.tsfPop 0x2000) tsfOverfull = .next t) : t.tsf = (tsfOverfull.tsf.drop 1).take 4096 := by
  rw [command_state (show command (.tsfPop 0x2000) (hostRead 0x2000 12 0x28C 1) tsfOverfull = .next t from h)]
  rfl

/-- Refutes O25: its fourth clause has a read of PTP_TSF_DATA3 remove one time stamp and no other, in states, too, that hold more time stamps than the FIFO has
room for; a write of the FIFO keeps its 4,096 oldest (R432).  The device does not reach `tsfOverfull` (its FIFOs stay within their room,
`stepKeepsInvariant`); the clause leaves such states in. -/
theorem not_timeOutputsAndSteps : ¬ Obligations.TimeOutputsAndSteps := by
  intro h
  obtain ⟨-, -, -, hPop, -⟩ := h
  obtain ⟨t, ht, hRest, -⟩ := hPop 0x2000 tsfOverfull rfl rfl rfl
  have hWaiting : tsfOverfull.tsf.length = 4098 := List.length_replicate
  have hCut := congrArg List.length (hRest.symm.trans (tsfOverfull_popped ht))
  rw [List.length_take, List.length_drop, hWaiting] at hCut
  exact absurd hCut (by decide)

end Sys2Proof.Machine
end

