-- ==== Sys2Proof/Proofs/ServiceEnginesRefutation.lean ====
section
/-!
PROOF. The statements on the BFD and continuity-check engines are refuted by a session and a MEP whose packet staging would take, and for whose queue tier 1
cannot be reserved: their packet waits (spec/12_services.md R441, spec/07_buffers.md R259).
-/
namespace Sys2Proof.Machine

/-- The service block works, a MEP and a BFD session are due, and their packets go out at the device's own port 0, which may not use tier 1 at all. -/
def tierOneShut : State := (seqs [
  setF (BLK_CTRL.ENABLE 13) 1, setF SVC_CFG.BFD_EN 1, setF SVC_CFG.CFM_EN 1,
  setTab 13 0 9 ((({} : Entry).put BFD.VALID 1).put BFD.NH_ID 7),
  setTab 13 1 9 (((({} : Entry).put MEP.VALID 1).put MEP.NH_ID 7).put MEP.PERIOD 4),
  setTab 103 0 7 ((({} : Entry).put NH.VALID 1).put NH.QUEUE_BASE 40),
  setF (BPM_REQ_CFG.T1_MAX 0) 0]).run State.reset

/-- A service injection for whose queue tier 1 cannot be reserved does nothing: it waits. -/
theorem injectTo_waits {b : List Nat} {nh tc dev port qb n : Nat} {sent : Prog} {s : State} (hWay : s.resolveNh nh = .unicast dev port qb n)
    (hRoom : s.fetchRoom dev ((qb + tc) % 2 ^ 19) (b.length + 4) = false) : (injectTo b nh tc sent).run s = s := by
  unfold injectTo
  rw [run_look]
  simp only [hWay, hRoom, Bool.and_false]
  rfl

/-- The session's packet waits, and it is not counted as sent. -/
theorem tierOneShut_bfdTx {t : State} (h : exec (.bfdTx 9) tierOneShut = .next t) : t.counter 12 (4 * 9) = 0 := by
  simp only [exec, execBfdTx] at h
  rw [command_state h]
  unfold whenEnabled
  rw [run_look_onlyIf (by decide +kernel), run_look_onlyIf (by decide +kernel),
    injectTo_waits (dev := 0) (port := 0) (qb := 40) (n := 7) (by decide +kernel) (by decide +kernel)]
  decide +kernel

/-- The MEP's message waits, and it is not counted as sent. -/
theorem tierOneShut_ccmTx {t : State} (h : exec (.ccmTx 9) tierOneShut = .next t) : t.counter 13 (4 * 9) = 0 := by
  simp only [exec, execCcmTx] at h
  rw [command_state h]
  unfold whenEnabled
  rw [run_look_onlyIf (by decide +kernel), run_look_onlyIf (by decide +kernel),
    injectTo_waits (dev := 0) (port := 0) (qb := 40) (n := 7) (by decide +kernel) (by decide +kernel)]
  decide +kernel

/-- Refutes O41: its first clause has a due session send whenever staging would take its packet.  A packet for one of the device's own queues also needs its
tier-1 reservation before it is fetched (R259); where the port may not take that space, the packet waits and is not counted. -/
theorem not_bfdSessions : ¬ Obligations.BfdSessions := by
  intro h
  obtain ⟨hTx, -⟩ := h
  obtain ⟨t, ht, -, -, -, hCounted, -⟩ := hTx 9 0 0 40 7 tierOneShut rfl (by decide +kernel) (by decide +kernel) (by decide +kernel) (by decide +kernel)
    (by decide +kernel) (by decide +kernel)
  rw [tierOneShut_bfdTx ht] at hCounted
  exact absurd hCounted (by decide +kernel)

/-- Refutes O43: its first clause has a due MEP send whenever staging would take its message.  A message for one of the device's own queues also needs its
tier-1 reservation before it is fetched (R259); where the port may not take that space, the message waits and is not counted. -/
theorem not_continuityChecks : ¬ Obligations.ContinuityChecks := by
  intro h
  obtain ⟨hTx, -⟩ := h
  obtain ⟨t, ht, -, -, hCounted, -⟩ := hTx 9 0 0 40 7 tierOneShut rfl (by decide +kernel) (by decide +kernel) (by decide +kernel) (by decide +kernel)
    (by decide +kernel) (by decide +kernel)
  rw [tierOneShut_ccmTx ht] at hCounted
  exact absurd hCounted (by decide +kernel)

end Sys2Proof.Machine
end

