-- ==== Sys2Proof/Proofs/MediaServicesRefutation.lean ====
section
/-!
PROOF. The statement on the media services is refuted by a packet for a device number that no system has: the count of its discard and the count of the merge
group's packets are one counter (spec/12_services.md R454, spec/18_counters_and_tracing.md R593).
-/
namespace Sys2Proof.Machine

/-- A packet for device 3,145,728: a device number has 10 bits. -/
def strayPkt : Pkt := { body := 3, dev := 3 * 2 ^ 20, queue := 40, declMax := 100 }

/-- The stray packet has arrived whole and waits to be judged as the first of merge group 1. -/
def strayMerge : State :=
  (seqs [.put (.mergeQ [(strayPkt, 1, 0)]), .put (.bodies 3 { bytes := List.replicate 80 5, whole := true, refs := 1 })]).run State.reset

/-- The packet passes, staging discards it for its device number, and each of the two counts. -/
theorem strayMerge_countsTwice {t : State} (h : exec .mergeJudge strayMerge = .next t) : t.counter 15 (3 * 1) = 2 := by
  simp only [exec, execMergeJudge] at h
  rw [command_state h]
  decide +kernel

/-- Refutes O49: its third clause has a merge group's count of passed packets go up by one for a packet of any device number.  A packet for a device that the
system does not have is discarded in staging and counts among the discards for its destination (family 9); for device 3,145,728 that count has the number of
merge group 1's (family 15), which so goes up by two.  A next hop names a device by 10 bits, so the device does not reach `strayMerge`; the clause leaves such
states in. -/
theorem not_mediaServices : ¬ Obligations.MediaServices := by
  intro h
  obtain ⟨-, -, hJudge, -⟩ := h
  obtain ⟨t, ht, -, -, -, -, hCounted, -⟩ := hJudge strayPkt 1 0 strayMerge rfl rfl rfl rfl rfl
  rw [strayMerge_countsTwice ht] at hCounted
  exact absurd hCounted (by decide +kernel)

end Sys2Proof.Machine
end

