-- ==== Sys2Proof/Proofs/TmDieWrites.lean ====
section
/-!
SUPPORT. A master's write of a control or service register, whose page is on the masters' own die, so that it crosses to none (spec/01_architecture.md R28 to R36).
-/
namespace Sys2Proof.Machine

/-! ### A write that does not cross the link -/

/-- Every master is on the TM die. -/
theorem masterSrc_tm {m k : Nat} (h : masterSrc m = some k) : srcDie k = 1 := by
  unfold masterSrc at h
  split_ifs at h
  all_goals obtain rfl := Option.some.inj h
  exacts [rfl, rfl, if_pos (by omega), rfl, rfl]

theorem crossing_tm {page : Nat} (h : dieOf page = 1) (m : Nat) : crossing m page = none := by
  rw [crossing, Option.filter_eq_none_iff]
  intro k hk
  simp [h, masterSrc_tm hk]

theorem hostWrite_tm {m page off : Nat} {data : Word} (h : dieOf page = 1) (s : State) :
    (hostWrite m page off 15 data).run s = (writeWord m page off 15 data).run s := by
  unfold hostWrite hostWrites
  rw [crossing_tm h]
  rfl

/-- A command that is a master's write of a plain register on the TM die leaves what the register's own program leaves after the record. -/
theorem command_tmWrite {i : Instr} {m page off : Nat} {data : Word} {d : RegDecl} {s : State} {E : State → Prop} (hWf : i.wellFormed = true)
    (hTakes : s.takesWrite m page = true) (hDie : dieOf page = 1) (hPlain : PlainReg page off d)
    (hStarts : s.writeRefused m page off data.toNat = false) (hE : ∀ v, s.recorded v → E ((regDo m page off d data).run v)) :
    ∃ t, command i (hostWrite m page off 15 data) s = .next t ∧ E t := by
  refine command_answers hWf ?_
  rw [hostWrite_tm hDie, writeWord_plain hTakes hPlain s.begun.sends_refl hStarts]
  exact hE _ ((State.sends_recorded s.begun.sends_refl).trans (acceptRecord_recorded _ _))

/-- On the pages of the control and service blocks. -/
theorem regDo_control {m page off : Nat} {d : RegDecl} {data : Word} {s : State} (hPage : page ≤ 13) (hOff : 0x200 ≤ off)
    (hStarts : startsWork page off = false ∨ s.rd (BLK_CTRL.ENABLE page) = 1) :
    (regDo m page off d data).run s = (controlWrite m page off (d.merge (s.reg page off) data) data).run s := by
  have hGo : (startsWork page off && s.rd (BLK_CTRL.ENABLE page) == 0) = false := by rcases hStarts with h | h <;> simp [h]
  unfold regDo
  rw [run_look]
  simp only [hGo]
  rw [if_neg (by omega), if_neg (by simp), if_pos hPage]

/-- A field that shares no bit with those that a record writes reads as before it. -/
theorem State.recorded.rd_apart {s v : State} (h : s.recorded v) {f : Fld} (hf : f.off < 65536) (hApart : ∀ g ∈ recFlds, g.off < 65536 ∧ g.apart f) :
    v.rd f = s.rd f := State.framed_rd h.framed f hf hApart

end Sys2Proof.Machine
end

