-- ==== Sys2Proof/Proofs/ServiceWrites.lean ====
section
/-!
PROOF. What the register writes of the recorders, of containment, of the Fatal capture, of snapshots and dumps and of the journal's host ring start
(spec/12_services.md R458, R459, spec/13_host_interface.md R489, spec/17_faults.md R584, R587, spec/18_counters_and_tracing.md R602, R605,
spec/20_presence_seal_journal.md R664).
-/
namespace Sys2Proof.Machine

/-! ### A recorder reads out or replays (R458, R459) -/

theorem recXAt_setF (s : State) (f : Fld) (v r : Nat) : ((setF f v).run s).recXAt r = s.recXAt r := rfl

theorem State.recorded.recXAt {s v : State} (h : s.recorded v) (r : Nat) : v.recXAt r = s.recXAt r := by
  have hSame : s.recX = v.recX := h.onlyIn .recX (by decide)
  rw [State.recXAt, ← hSame]
  rfl

/-- The settings of a recorder's command: its speed and its queue pair. -/
def recSettings (r n : Nat) : Prog := .andThen (setF (SVC_REC.SPEED r) (n / 2 ^ 28 % 2)) (setF (SVC_REC.QPAIR r) (n % 4096))

/-- What the settings of a recorder leave: its BUSY flag, ENABLE of its block and what it holds. -/
theorem recSettings_leaves {r : Nat} (hr : r < 16) (n : Nat) (s : State) :
    ((recSettings r n).run s).rd (SVC_REC.BUSY r) = s.rd (SVC_REC.BUSY r) ∧ ((recSettings r n).run s).rd (BLK_CTRL.ENABLE 13) = s.rd (BLK_CTRL.ENABLE 13) ∧
      ((recSettings r n).run s).recXAt r = s.recXAt r := by
  have hBusy : ∀ g, g = SVC_REC.SPEED r ∨ g = SVC_REC.QPAIR r → (SVC_REC.BUSY r).off < 65536 ∧ g.off < 65536 ∧ g.apart (SVC_REC.BUSY r) := by
    rintro g (rfl | rfl) <;> simp only [SVC_REC.BUSY, SVC_REC.SPEED, SVC_REC.QPAIR, Fld.apart] <;> omega
  have hEn : ∀ g, g = SVC_REC.SPEED r ∨ g = SVC_REC.QPAIR r → (BLK_CTRL.ENABLE 13).off < 65536 ∧ g.off < 65536 ∧ g.apart (BLK_CTRL.ENABLE 13) := by
    rintro g (rfl | rfl) <;> simp only [BLK_CTRL.ENABLE, SVC_REC.SPEED, SVC_REC.QPAIR, Fld.apart] <;> omega
  refine ⟨?_, ?_, rfl⟩
  · exact (rd_setF_apart _ _ (hBusy _ (.inr rfl))).trans (rd_setF_apart _ _ (hBusy _ (.inl rfl)))
  · exact (rd_setF_apart _ _ (hEn _ (.inr rfl))).trans (rd_setF_apart _ _ (hEn _ (.inl rfl)))

theorem rd_recSettings_qpair (r n : Nat) (s : State) : ((recSettings r n).run s).rd (SVC_REC.QPAIR r) = n % 4096 :=
  rd_setF_fits _ ⟨(by decide : 11 < 32), Nat.mod_lt _ (by decide)⟩

/-- A recorder that holds `x` starts a job: 1 to read out, 2 to replay. -/
def RecX.begin (x : RecX) (job mono : Nat) : RecX :=
  let first := match x.items with | i :: _ => i | [] => {}
  { x with job := job, pos := if x.items.isEmpty then x.next else first.id, upto := x.next, at_ := mono, base := first.time }

theorem recCommand_run (r job n : Nat) (s : State) : (recCommand r job n).run s =
    (onlyIf (bitOf n (if job == 1 then 31 else 30) && s.rd (SVC_REC.BUSY r) == 0 && s.rd (BLK_CTRL.ENABLE 13) == 1)
      (.andThen (setF (SVC_REC.BUSY r) 1) (.put (.recX r ((s.recXAt r).begin job s.mono))))).run ((recSettings r n).run s) := by
  unfold recCommand
  rw [run_look]
  rfl

/-- Without its bit, a recorder's command is its settings. -/
theorem recCommand_without {r job n : Nat} (h : bitOf n (if job == 1 then 31 else 30) = false) (s : State) :
    (recCommand r job n).run s = (recSettings r n).run s := by
  rw [recCommand_run]
  exact run_onlyIf_false _ _ (by simp only [h, Bool.false_and])

/-- With its bit, it starts its job at an idle recorder. -/
theorem recCommand_starts {r job n : Nat} {s : State} (hr : r < 16) (hBit : bitOf n (if job == 1 then 31 else 30) = true) (hBusy : s.rd (SVC_REC.BUSY r) = 0)
    (hEn : s.rd (BLK_CTRL.ENABLE 13) = 1) :
    ((recCommand r job n).run s).rd (SVC_REC.BUSY r) = 1 ∧ ((recCommand r job n).run s).recXAt r = (s.recXAt r).begin job s.mono ∧
      ((recCommand r job n).run s).rd (SVC_REC.QPAIR r) = n % 4096 := by
  rw [recCommand_run, run_onlyIf_true _ _ (by simp only [hBit, hBusy, hEn, beq_self_eq_true, Bool.and_self]), run_andThen, run_put]
  refine ⟨?_, ?_, ?_⟩
  · exact (rd_put _ (by simp) _).trans (rd_setF_fits _ (by decide : 29 < 32 ∧ 1 < 2 ^ (29 + 1 - 29)))
  · rw [Act.recX_apply, if_pos rfl]
  · refine (rd_put _ (by simp) _).trans ((rd_setF_apart _ _ ?_).trans (rd_recSettings_qpair r n s))
    simp only [SVC_REC.BUSY, SVC_REC.QPAIR, Fld.apart]
    omega

/-- READOUT first, then REPLAY. -/
theorem controlWrite_recorder {m r : Nat} {v data : Word} (s : State) : (controlWrite m 13 (0x110C + 32 * r) v data).run s =
    (Prog.look fun t => onlyIf (bitOf data.toNat 30 && t.rd (SVC_REC.BUSY r) == 0) (recCommand r 2 data.toNat)).run
      ((recCommand r 1 data.toNat).run s) := by
  have hRec : (0x110C + 32 * r - 0x1100) / 32 = r := by omega
  have hOff : (0x110C + 32 * r == 0x200) = false := beq_false_of_ne (by omega)
  have hPlace : (decide (0x1100 ≤ 0x110C + 32 * r) && (0x110C + 32 * r) % 32 == 0xC) = true := by
    simp only [Bool.and_eq_true, decide_eq_true_eq, beq_iff_eq]
    omega
  unfold controlWrite
  rw [run_look]
  simp only [Nat.reduceBEq, Bool.false_and, Bool.false_eq_true, if_false, beq_self_eq_true, Bool.true_and, hOff, hPlace, if_true, hRec]
  rfl

theorem plainReg_recorder : ∀ r < 16, plainReg 13 (0x110C + 32 * r) 0x10000FFF = true := by decide +kernel

/-- A write of a recorder's commands is its READOUT, then its REPLAY, at an enabled block. -/
theorem command_recorder {i : Instr} {m r : Nat} {data : Word} {s : State} {E : State → Prop} (hWf : i.wellFormed = true) (hr : r < 16)
    (hTakes : s.takesCmd m 13 = true)
    (hE : ∀ v, s.recorded v → v.rd (BLK_CTRL.ENABLE 13) = 1 →
      E ((Prog.look fun t => onlyIf (bitOf data.toNat 30 && t.rd (SVC_REC.BUSY r) == 0) (recCommand r 2 data.toNat)).run ((recCommand r 1 data.toNat).run v))) :
    ∃ t, command i (hostWrite m 13 (0x110C + 32 * r) 15 data) s = .next t ∧ E t := by
  obtain ⟨hTakes, hEn⟩ := takesCmd_takes hTakes
  obtain ⟨d, hPlain, -, -⟩ := plainReg_decl (plainReg_recorder r hr)
  have hStarts : startsWork 13 (0x110C + 32 * r) = false := by simp [startsWork]
  refine command_tmWrite hWf hTakes rfl hPlain ?_ fun v hv => ?_
  · simp [State.writeRefused, hStarts, isQuota]
  · rw [regDo_control (by decide) (by omega) (.inl hStarts), controlWrite_recorder]
    exact hE v hv (hv.enabled (by decide) hEn)

theorem State.recorded.recBusy {s v : State} (h : s.recorded v) {r : Nat} (hr : r < 16) : v.rd (SVC_REC.BUSY r) = s.rd (SVC_REC.BUSY r) := by
  refine h.rd ⟨?_, ?_⟩
  · show 0x110C + 32 * r < 65536
    omega
  · exact (by decide : (13 : Nat) ≠ 2 ∧ (13 : Nat) ≠ 6)

/-- Bits 31 and 30 of a recorder's command, as written. -/
theorem bitOf_recorderWord (data : Word) (n : Nat) :
    bitOf (setFieldOf data 31 30 n).toNat 31 = n.testBit 1 ∧ bitOf (setFieldOf data 31 30 n).toNat 30 = n.testBit 0 := by
  rw [bitOf_toNat, bitOf_toNat, getLsbD_setFieldOf _ _ _ _ _ (by decide), getLsbD_setFieldOf _ _ _ _ _ (by decide)]
  exact ⟨rfl, rfl⟩

/-- The queue pair of a recorder's command, as written. -/
theorem qpair_recorderWord (data : Word) (n : Nat) : (setFieldOf data 31 30 n).toNat % 4096 = data.toNat % 4096 :=
  fieldOf_setFieldOf_disjoint data 11 0 31 30 n (by decide) (.inl (by decide))

theorem recorder_lt {m rc : Nat} (h : (masterOk m && decide (rc < 16)) = true) : rc < 16 := by
  simp only [Bool.and_eq_true, decide_eq_true_eq] at h
  exact h.2

theorem recReadout_starts {m rc : Nat} {data : Word} {s : State} (hWf : Instr.wellFormed (.recReadout m rc data) = true) (hTakes : s.takesCmd m 13 = true)
    (hIdle : s.rd (SVC_REC.BUSY rc) = 0) :
    ∃ t, exec (.recReadout m rc data) s = .next t ∧ t.rd (SVC_REC.BUSY rc) = 1 ∧ (t.recXAt rc).job = 1 ∧ (t.recXAt rc).upto = (s.recXAt rc).next ∧
      t.rd (SVC_REC.QPAIR rc) = data.toNat % 4096 := by
  have hr : rc < 16 := recorder_lt hWf
  obtain ⟨hReadout, hReplay⟩ := bitOf_recorderWord data 2
  simp only [exec, execRecReadout]
  refine command_recorder hWf hr hTakes fun v hv hEn => ?_
  rw [run_look, run_onlyIf_false _ _ (by rw [hReplay]; rfl)]
  obtain ⟨hBusy, hRec, hQpair⟩ := recCommand_starts (job := 1) hr hReadout ((hv.recBusy hr).trans hIdle) hEn
  rw [hBusy, hRec, hQpair, hv.recXAt, qpair_recorderWord]
  exact ⟨rfl, rfl, rfl, rfl⟩

theorem recReplay_starts {m rc : Nat} {data : Word} {s : State} (hWf : Instr.wellFormed (.recReplay m rc data) = true) (hTakes : s.takesCmd m 13 = true)
    (hIdle : s.rd (SVC_REC.BUSY rc) = 0) :
    ∃ t, exec (.recReplay m rc data) s = .next t ∧ t.rd (SVC_REC.BUSY rc) = 1 ∧ (t.recXAt rc).job = 2 ∧ (t.recXAt rc).upto = (s.recXAt rc).next := by
  have hr : rc < 16 := recorder_lt hWf
  obtain ⟨hReadout, hReplay⟩ := bitOf_recorderWord data 1
  simp only [exec, execRecReplay]
  refine command_recorder hWf hr hTakes fun v hv hEn => ?_
  obtain ⟨hBusyKept, hEnKept, hRecKept⟩ := recSettings_leaves hr (setFieldOf data 31 30 1).toNat v
  rw [recCommand_without hReadout]
  have hStill := hBusyKept.trans ((hv.recBusy hr).trans hIdle)
  rw [run_look, run_onlyIf_true _ _ (by rw [hReplay, hStill]; rfl)]
  obtain ⟨hBusy, hRec, -⟩ := recCommand_starts (job := 2) hr hReplay hStill (hEnKept.trans hEn)
  rw [hBusy, hRec, hRecKept, hv.recXAt]
  exact ⟨rfl, rfl, rfl⟩

/-! ### Containment ends (R489) -/

theorem State.recorded.releasable {s v : State} (h : s.recorded v) : v.releasable = s.releasable := by
  have hFn : s.pcieFn = v.pcieFn := h.onlyIn .pcieFn (by decide)
  have hPerst : s.perstLow = v.perstLow := h.onlyIn .perstLow (by decide)
  have hBuf : s.bufBad = v.bufBad := h.onlyIn .bufBad (by decide)
  have hLink : v.rd PCIE_LINK_STAT.DL_UP = s.rd PCIE_LINK_STAT.DL_UP := h.rd_apart (by decide) (by unfold Fld.apart; decide)
  rw [State.releasable, State.releasable, State.pcieFnAt, State.pcieFnAt, hLink, hFn, hPerst, hBuf]

theorem contained_of_rd {s t : State} (h : t.rd PCIE_CONTAIN.CONTAINED = s.rd PCIE_CONTAIN.CONTAINED) : t.contained = s.contained := by
  rw [State.contained, State.contained, h]

theorem recFlds_apart_contained : ∀ g ∈ recFlds, g.off < 65536 ∧ g.apart PCIE_CONTAIN.CONTAINED := by unfold Fld.apart; decide

theorem contained_recordLater (r : JRec) (s : State) : ((recordLater r).run s).contained = s.contained :=
  contained_of_rd (Prog.Keeps.rd (T := []) (keeps_recordLater (List.Subset.refl recPieces) (List.Subset.refl recFlds)) s _ (by decide) recFlds_apart_contained)

theorem contained_refreshInta (s : State) : (refreshInta.run s).contained = s.contained :=
  contained_of_rd (Prog.Keeps.rd (l := irqPieces) (R := [PCIE_LINK_STAT.IN_L1]) (T := [])
    (keeps_refreshInta (by decide) (by decide) (by decide) (by decide)) s _ (by decide) (by unfold Fld.apart; decide))

theorem contained_setF (s : State) {g : Fld} (v : Nat) (h : g.off < 0x200) : ((setF g v).run s).contained = s.contained :=
  contained_of_rd (rd_setF_apart s v ⟨by decide, by omega, .inr (.inl (by show g.off ≠ 0x208; omega))⟩)

theorem contained_closeOpen (i : Nat) (s : State) : ((closeOpen i).run s).contained = s.contained := by
  have hCry : ∀ (g : Fld) (n : Nat) (t : State), g.page = 5 → g.off < 65536 → ((setF g n).run t).contained = t.contained := fun g n t hPage hOff =>
    contained_of_rd (rd_setF_apart t n ⟨by decide, hOff, .inl (by rw [hPage]; decide)⟩)
  unfold closeOpen refreshOpen
  rw [run_look, run_andThen, run_look, run_seqs_cons, run_seqs_cons, run_seqs_cons, run_seqs_nil, hCry _ _ _ rfl (by decide),
    hCry _ _ _ rfl (by decide), contained_setF _ _ (show 0xC < 0x200 by decide)]
  exact contained_of_rd (rd_put _ (by simp) _)

theorem contained_releaseClears (page off kind m : Nat) (s : State) : ((releaseClears page off kind m none).run s).contained = s.contained := by
  unfold releaseClears
  rw [run_look]
  cases s.openAt page kind with
  | none => rfl
  | some i =>
    simp only
    rw [run_onlyIf_true _ _ rfl, run_andThen, contained_recordLater, contained_closeOpen]

/-- A release that the conditions allow ends containment, whatever it clears. -/
theorem containWrite_releases {m n : Nat} {s : State} (hBit : bitOf n 30 = true) (hIn : s.contained = true) (hMay : s.releasable = true) :
    ((containWrite m n).run s).contained = false := by
  unfold containWrite
  rw [run_look, run_onlyIf_true _ _ (by rw [hBit, hIn]; rfl), if_pos hMay, run_seqs_cons, run_seqs_cons,
    run_seqs_cons, run_seqs_cons, run_seqs_nil]
  have hPut : ∀ t : State, ((Prog.put (.inta false)).run t).contained = t.contained := fun _ => rfl
  rw [contained_refreshInta, hPut, contained_releaseClears, State.contained, rd_setF_fits _ (by decide)]
  rfl

theorem plainReg_contain : plainReg 2 0x208 0 = true := by decide +kernel

theorem controlWrite_contain {m : Nat} {v data : Word} (s : State) : (controlWrite m 2 0x208 v data).run s = (containWrite m data.toNat).run s := rfl

theorem containRelease_ends {m : Nat} {data : Word} {s : State} (hWf : Instr.wellFormed (.containRelease m data) = true) (hTakes : s.takesWrite m 2 = true)
    (hIn : s.contained = true) (hMay : s.releasable = true) : ∃ t, exec (.containRelease m data) s = .next t ∧ t.contained = false := by
  obtain ⟨d, hPlain, -, -⟩ := plainReg_decl plainReg_contain
  have hBit : bitOf (setFieldOf data 30 30 1).toNat 30 = true := getLsbD_setBit30 data
  simp only [exec, execContainRelease]
  refine command_tmWrite hWf hTakes rfl hPlain ?_ fun v hv => ?_
  · simp [State.writeRefused, startsWork, hBit, hIn, hMay]
  · rw [regDo_control (by decide) (by decide) (.inl rfl), controlWrite_contain]
    exact containWrite_releases hBit ((contained_of_rd (hv.rd_apart (by decide) recFlds_apart_contained)).trans hIn) (hv.releasable.trans hMay)

/-! ### The Fatal capture (R584) -/

theorem declAt_fatalStat : ∃ d, declAt 5 0x288 = some d ∧ d.shadowed = false ∧ d.readOnly = false ∧ unrecorded 5 0x288 d = true := by
  have hDecl : (declAt 5 0x288).any (fun d => !d.shadowed && !d.readOnly && unrecorded 5 0x288 d) = true := by decide +kernel
  cases hd : declAt 5 0x288 with
  | none => simp [hd] at hDecl
  | some d =>
    simp only [hd, Option.any_some, Bool.and_eq_true, Bool.not_eq_true'] at hDecl
    obtain ⟨⟨hShadow, hRead⟩, hRec⟩ := hDecl
    exact ⟨d, rfl, hShadow, hRead, hRec⟩

/-- The write of the Fatal capture's VALID has no record. -/
theorem command_fatalClear {m : Nat} {s : State} (hWf : Instr.wellFormed (.fatalCaptureClear m) = true) (hTakes : s.takesWrite m 5 = true) :
    exec (.fatalCaptureClear m) s = .next (fatalClear.run s.begun) := by
  obtain ⟨d, hDecl, hShadow, hRead, hRec⟩ := declAt_fatalStat
  obtain ⟨hWrite, hHeld⟩ := writeWord_run_taken (off := 0x288) (data := 1) hTakes rfl s.begun.sends_refl
  have hOne : (oneWrite m 5 0x288 d 1).run s.begun = (regDo m 5 0x288 d 1).run s.begun := by
    unfold oneWrite
    rw [run_look]
    simp [hShadow, hRec]
  have hRun : (hostWrite m 5 0x288 15 1).run s.begun = fatalClear.run s.begun := by
    rw [hostWrite_tm rfl, hWrite, writeNow_run_one hDecl (by decide) hRead (by decide +kernel) hHeld, hOne, regDo_control (by decide) (by decide) (.inl rfl)]
    rfl
  simp only [exec, execFatalCaptureClear]
  exact (command_runs _ _ hWf).trans (congrArg _ hRun)

theorem fatalCaptureClear_clears {m : Nat} {s : State} (hWf : Instr.wellFormed (.fatalCaptureClear m) = true) (hTakes : s.takesWrite m 5 = true)
    (hOff : s.fatalLatch = false) : ∃ t, exec (.fatalCaptureClear m) s = .next t ∧ t.rd CRY_FATAL_STAT.VALID = 0 ∧ t.rd CRY_FATAL_STAT.COUNT = 0 := by
  refine ⟨_, command_fatalClear hWf hTakes, ?_⟩
  unfold fatalClear
  rw [run_look, run_onlyIf_true _ _ (by show (!s.fatalLatch) = true; rw [hOff]; rfl), run_andThen]
  refine ⟨(rd_setF_apart _ _ ⟨by decide, by decide, .inr (.inr (.inr (by decide)))⟩).trans (rd_setF_fits _ (by decide)), rd_setF_fits _ (by decide)⟩

theorem fatalCaptureClear_waits {m : Nat} {s : State} (hWf : Instr.wellFormed (.fatalCaptureClear m) = true) (hTakes : s.takesWrite m 5 = true)
    (hOn : s.fatalLatch = true) :
    ∃ t, exec (.fatalCaptureClear m) s = .next t ∧ t.rd CRY_FATAL_STAT.VALID = s.rd CRY_FATAL_STAT.VALID ∧ t.fatalLatch = true := by
  refine ⟨_, command_fatalClear hWf hTakes, ?_⟩
  unfold fatalClear
  rw [run_look, run_onlyIf_false _ _ (by show (!s.fatalLatch) = false; rw [hOn]; rfl)]
  exact ⟨rfl, hOn⟩

/-! ### Snapshots and dumps (R602, R605) -/

/-- A snapshot that nothing holds up is taken after its delay. -/
theorem snapStart_takes {go : Bool} {after : Nat} {s : State} (hNone : s.snap = none) (hRoom : s.rd CNT_DUMP_HEAD.FULL = 0) :
    ((snapStart go after).run s).snap = some { time := s.ns64 + after, mono := s.mono + after, go := go, mask := s.rd CNT_DUMP_MASK.FAMILY } ∧
      ((snapStart go after).run s).rd CNT_SNAP.BUSY = 1 := by
  unfold snapStart
  rw [run_look, if_neg (by rw [hNone]; decide), if_neg (by rw [hRoom]; decide), run_andThen]
  exact ⟨rfl, rd_setF_fits _ (by decide)⟩

theorem plainReg_snap : plainReg 10 0x218 0 = true := by decide +kernel

theorem controlWrite_snap {m : Nat} {v data : Word} (s : State) :
    (controlWrite m 10 0x218 v data).run s = (onlyIf (bitOf data.toNat 31) (snapStart true 1000)).run s := rfl

theorem snapshotGo_takes {m : Nat} {data : Word} {s : State} (hWf : Instr.wellFormed (.snapshotGo m data) = true) (hTakes : s.takesCmd m 10 = true)
    (hNone : s.snap = none) (hRoom : s.rd CNT_DUMP_HEAD.FULL = 0) :
    ∃ t, exec (.snapshotGo m data) s = .next t ∧
      t.snap = some { time := s.ns64 + 1000, mono := s.mono + 1000, go := true, mask := s.rd CNT_DUMP_MASK.FAMILY } ∧ t.rd CNT_SNAP.BUSY = 1 := by
  obtain ⟨d, hPlain, -, -⟩ := plainReg_decl plainReg_snap
  obtain ⟨hTakes, hEn⟩ := takesCmd_takes hTakes
  have hBit : bitOf (setFieldOf data 31 31 1).toNat 31 = true := getLsbD_setBit31 data
  simp only [exec, execSnapshotGo]
  refine command_tmWrite hWf hTakes rfl hPlain ?_ fun v hv => ?_
  · simp [State.writeRefused, startsWork, hEn, hBit]
  · have hSnap : s.snap = v.snap := hv.onlyIn .snap (by decide)
    have hTime : s.time16 = v.time16 := hv.onlyIn .time16 (by decide)
    have hMono : s.mono16 = v.mono16 := hv.onlyIn .mono16 (by decide)
    have hMask : v.rd CNT_DUMP_MASK.FAMILY = s.rd CNT_DUMP_MASK.FAMILY := hv.rd (by decide)
    have hNs : v.ns64 = s.ns64 := by simp only [State.ns64, State.sec, State.ns, hTime]
    have hNow : v.mono = s.mono := by simp only [State.mono, hMono]
    rw [regDo_control (by decide) (by decide) (.inr (hv.enabled (by decide) hEn)), controlWrite_snap, run_onlyIf_true _ _ hBit, ← hNs, ← hNow, ← hMask]
    exact snapStart_takes (hSnap ▸ hNone) ((hv.rd (by decide)).trans hRoom)

/-- The configuration of a dump that its ring holds and whose base is aligned stands. -/
theorem dumpEnable_stands {s : State} (hFits : dumpSize (s.rd CNT_DUMP_MASK.FAMILY) ≤ s.rd CNT_DUMP_RING.SIZE_MIB * 2 ^ 20)
    (hBase : s.rd CNT_DUMP_BASE_LO.reg % 4096 = 0) : dumpEnable.run s = s := by
  unfold dumpEnable
  rw [run_look, run_onlyIf_false _ _ (by simp only [hFits, hBase, decide_true, beq_self_eq_true, Bool.and_self, Bool.not_true, Bool.and_false])]

theorem plainReg_dumpCfg : plainReg 10 0x200 0xC000FFFF = true := by decide +kernel

theorem controlWrite_dumpCfg {m : Nat} {v data : Word} (s : State) : (controlWrite m 10 0x200 v data).run s =
    (onlyIf (bitOf data.toNat 31 && s.rd CNT_DUMP_CFG.EN == 0) dumpEnable).run ((setReg 10 0x200 v).run s) := rfl

theorem dumpEnable_enables {m : Nat} {data : Word} {s : State} (hWf : Instr.wellFormed (.dumpEnable m data) = true) (hTakes : s.takesWrite m 10 = true)
    (hFits : dumpSize (s.rd CNT_DUMP_MASK.FAMILY) ≤ s.rd CNT_DUMP_RING.SIZE_MIB * 2 ^ 20) (hBase : s.rd CNT_DUMP_BASE_LO.reg % 4096 = 0) :
    ∃ t, exec (.dumpEnable m data) s = .next t ∧ t.rd CNT_DUMP_CFG.EN = 1 := by
  obtain ⟨d, hPlain, hRw, hClear⟩ := plainReg_decl plainReg_dumpCfg
  simp only [exec, execDumpEnable]
  refine command_tmWrite hWf hTakes rfl hPlain ?_ fun v hv => ?_
  · simp [State.writeRefused, startsWork, isQuota]
  · have hKept : ∀ (f : Fld) (w : Word), f.page = 10 ∧ f.off ≠ 0x200 ∧ f.off < 65536 → ((setReg 10 0x200 w).run v).rd f = s.rd f := fun f w hf =>
      (rd_setReg_apart v w ⟨hf.2.2, by decide, .inr hf.2.1⟩).trans (hv.rd ⟨hf.2.2, by rw [hf.1]; decide⟩)
    rw [regDo_control (by decide) (by decide) (.inl rfl), controlWrite_dumpCfg,
      run_onlyIf_leaves (fun u => u.rd CNT_DUMP_CFG.EN) (congrArg (·.rd CNT_DUMP_CFG.EN) (dumpEnable_stands ?_ ?_))]
    · refine (rd_setReg_same v CNT_DUMP_CFG.EN _).trans ((fieldOf_bit _ 31).trans ?_)
      rw [getLsbD_merge (by rw [hRw]; decide) hClear (by decide), getLsbD_setBit31]
      rfl
    · rwa [hKept _ _ (by decide), hKept _ _ (by decide)]
    · rwa [hKept _ _ (by decide)]

/-! ### The journal's host ring (R664) -/

theorem recFlds_apart_hostRing : ∀ f ∈ [JNL_HOST_CFG.EN, JNL_HOST_START_LO.reg, JNL_HOST_START_HI.reg], ∀ g ∈ recFlds, g.off < 65536 ∧ g.apart f := by
  unfold Fld.apart
  decide

/-- Delivery starts at the ring's first index, on its first pass, with the record asked for. -/
theorem jnlHostRise_starts (s : State) : (jnlHostRise.run s).rd JNL_HOST_CFG.EN = s.rd JNL_HOST_CFG.EN ∧ (jnlHostRise.run s).rd JNL_HOST_TAIL.INDEX = 0 ∧
    (jnlHostRise.run s).jnlPhase = true ∧ (jnlHostRise.run s).jnlNext = s.rd JNL_HOST_START_LO.reg + s.rd JNL_HOST_START_HI.reg * 2 ^ 32 := by
  unfold jnlHostRise
  rw [run_look, run_seqs_cons, run_seqs_cons, run_seqs_cons, run_seqs_nil]
  refine ⟨?_, ?_, Act.jnlPhase_apply _ _, ?_⟩
  · exact (rd_put _ (by simp) _).trans ((rd_setF_apart _ _ (by unfold Fld.apart; decide)).trans (rd_put _ (by simp) _))
  · exact (rd_put _ (by simp) _).trans (rd_setF_fits _ (by decide))
  · have hTail : ∀ t : State, ((setF JNL_HOST_TAIL.INDEX 0).run t).jnlNext = t.jnlNext := fun _ => rfl
    have hPhase : ∀ t : State, ((Prog.put (.jnlPhase true)).run t).jnlNext = t.jnlNext := fun _ => rfl
    rw [hPhase, hTail, run_put, Act.jnlNext_apply]

theorem plainReg_hostCfg : plainReg 6 0x210 0x8000001F = true := by decide +kernel

theorem controlWrite_hostCfg {m : Nat} {v data : Word} (s : State) : (controlWrite m 6 0x210 v data).run s =
    (onlyIf (bitOf data.toNat 31 && s.rd JNL_HOST_CFG.EN == 0) jnlHostRise).run ((setReg 6 0x210 v).run s) := rfl

theorem jnlHostEnable_starts {m : Nat} {data : Word} {s : State} (hWf : Instr.wellFormed (.jnlHostEnable m data) = true) (hTakes : s.takesWrite m 6 = true)
    (hOff : s.rd JNL_HOST_CFG.EN = 0) :
    ∃ t, exec (.jnlHostEnable m data) s = .next t ∧ t.rd JNL_HOST_CFG.EN = 1 ∧ t.rd JNL_HOST_TAIL.INDEX = 0 ∧ t.jnlPhase = true ∧
      t.jnlNext = s.rd JNL_HOST_START_LO.reg + s.rd JNL_HOST_START_HI.reg * 2 ^ 32 := by
  obtain ⟨d, hPlain, hRw, hClear⟩ := plainReg_decl plainReg_hostCfg
  have hBit : bitOf (setFieldOf data 31 31 1).toNat 31 = true := getLsbD_setBit31 data
  simp only [exec, execJnlHostEnable]
  refine command_tmWrite hWf hTakes rfl hPlain ?_ fun v hv => ?_
  · simp [State.writeRefused, startsWork, isQuota]
  · have hIdle : v.rd JNL_HOST_CFG.EN = 0 := (hv.rd_apart (by decide) (recFlds_apart_hostRing _ (by simp))).trans hOff
    have hLo : v.rd JNL_HOST_START_LO.reg = s.rd JNL_HOST_START_LO.reg := hv.rd_apart (by decide) (recFlds_apart_hostRing _ (by simp))
    have hHi : v.rd JNL_HOST_START_HI.reg = s.rd JNL_HOST_START_HI.reg := hv.rd_apart (by decide) (recFlds_apart_hostRing _ (by simp))
    rw [regDo_control (by decide) (by decide) (.inl rfl), controlWrite_hostCfg, run_onlyIf_true _ _ (by rw [hBit, hIdle]; rfl)]
    obtain ⟨hEn, hIndex, hPhase, hNext⟩ := jnlHostRise_starts ((setReg 6 0x210 (d.merge (v.reg 6 0x210) (setFieldOf data 31 31 1))).run v)
    refine ⟨hEn.trans ?_, hIndex, hPhase, hNext.trans ?_⟩
    · refine (rd_setReg_same v JNL_HOST_CFG.EN _).trans ((fieldOf_bit _ 31).trans ?_)
      rw [getLsbD_merge (by rw [hRw]; decide) hClear (by decide), getLsbD_setBit31]
      rfl
    · rw [rd_setReg_apart v _ (by decide), rd_setReg_apart v _ (by decide), hLo, hHi]

end Sys2Proof.Machine
end

