-- ==== Sys2Proof/Proofs/MainRestartWrite.lean ====
section
/-!
PROOF. The main core's restart by software (spec/15_start_up.md R536), and the statement on the register writes that start something.
-/
namespace Sys2Proof.Machine

/-! ### A restart of the main core (R536) -/

/-- The fields in which CONTROL's page shows it. -/
def ctlFlds : List Fld := [⟨8, 0x220, 31, 0⟩, ⟨8, 0x224, 31, 0⟩, ⟨8, 0x228, 31, 0⟩, ⟨8, 0x22C, 31, 0⟩, UPD_BOOT.BOOT_SLOT, UPD_BOOT.FALLBACK, UPD_BOOT.TRIAL,
  UPD_SEC.MIN_SVN, UPD_SEC.KEY_VALID, UPD_SEC.KEY_REVOKED, UPD_SNAP_STAT.SNAP0, UPD_SNAP_STAT.SNAP1]

/-- The fields that the boot ROM writes. -/
def bootFlds : List Fld :=
  [ctlFlds, irqFlds 8 19, [DEV_STAT.BOOT_SLOT, DEV_STAT.RECOVERY], [5, 7, 8].map BLK_CTRL.ENABLE, [5, 7, 8].map BLK_STAT.READY].flatten

/-- The other pieces that the boot ROM writes. -/
def bootPieces : List Piece := [.ctl, .erases, .copyArea, .storeQ, .blkUp, .updSlot, .bootAt] ++ irqPieces

/-- The fields that a restart writes beside its own registers and the locks: those of the presence window, of update commands and of the boot ROM. -/
def coreBootFlds : List Fld := [[PPR_STAT.WINDOW_OPEN, PPR_STAT.LEFT_S, UPD_CMD_STAT.BUSY], recFlds, irqFlds 7 16, bootFlds].flatten

/-- The same with the locks of the table windows. -/
def coreRestartFlds : List Fld := coreBootFlds ++ (List.range 258).map TBL_LOCK.reg

/-- The other pieces that a restart writes. -/
def coreRestartPieces : List Piece := [.winEnd, .dieQ, .dieRead, .storeBusy, .updOp, .confirmEnd] ++ recPieces ++ bootPieces

/-- Writes of pieces that are neither the registers nor the tables. -/
theorem keeps_putAmong {ps l : List Piece} {R : List Fld} {T : List Nat} (hps : ps ⊆ l) (hFree : .regs ∉ ps ∧ .tables ∉ ps) {a : Act} (ha : a.piece ∈ ps) :
    (Prog.put a).Keeps l R T := keeps_put (hps ha) (fun h => hFree.1 (h ▸ ha)) (fun h => hFree.2 (h ▸ ha))

theorem keeps_ctlShow (c : Control) : (ctlShow c).Keeps [.ctl] ctlFlds [] := keeps_look fun s => keeps_seqs fun p hp => by
  simp only [List.mem_cons, List.not_mem_nil, or_false] at hp
  rcases hp with rfl | rfl | rfl | rfl | rfl | rfl | rfl | rfl | rfl | rfl | rfl | rfl | rfl
  · exact keeps_put (by simp) (by simp) (by simp)
  iterate 4 exact keeps_setReg (by simp [ctlFlds])
  iterate 8 exact keeps_setF (by simp [ctlFlds])

/-- The core starts from an image. -/
theorem keeps_bootImage (b : Nat) : (Prog.andThen (setF DEV_STAT.BOOT_SLOT b) (setF DEV_STAT.RECOVERY 0)).Keeps bootPieces bootFlds [] :=
  keeps_andThen (keeps_setF (by decide)) (keeps_setF (by decide))

/-- The core starts in recovery, with the blocks that it needs. -/
theorem keeps_bootRecovery : (Prog.andThen (setF DEV_STAT.RECOVERY 1)
    (each [5, 7, 8] (fun p => seqs [.put (.blkUp p true), setF (BLK_CTRL.ENABLE p) 1, setF (BLK_STAT.READY p) 1]))).Keeps bootPieces bootFlds [] := by
  refine keeps_andThen (keeps_setF (by decide)) (keeps_each fun p hp => ?_)
  have hFlds : ∀ p ∈ [5, 7, 8], BLK_CTRL.ENABLE p ∈ bootFlds ∧ BLK_STAT.READY p ∈ bootFlds := by decide
  obtain ⟨hEnable, hReady⟩ := hFlds p hp
  exact keeps_seqs_cons (keeps_put (show Piece.blkUp ∈ bootPieces by decide) (by simp) (by simp))
    (keeps_seqs_cons (keeps_setF hEnable) (keeps_seqs_cons (keeps_setF hReady) keeps_seqs_nil))

theorem keeps_bootRom : bootRom.Keeps bootPieces bootFlds [] := by
  have hPut : ∀ a : Act, a.piece ∈ [Piece.erases, .copyArea, .storeQ, .updSlot, .bootAt] → (Prog.put a).Keeps bootPieces bootFlds [] := fun _ ha =>
    keeps_putAmong (by decide) (by decide) ha
  refine keeps_look fun s => keeps_ite (fun _ => hPut _ (show Piece.bootAt ∈ _ by decide)) fun _ => ?_
  refine keeps_seqs_cons (keeps_onlyIf fun _ => ?_) (keeps_seqs_cons ((keeps_ctlShow _).mono (by decide) (by decide) (List.Subset.refl _))
    (keeps_seqs_cons (keeps_onlyIf fun _ => keeps_raise (by decide) (by decide)) (keeps_seqs_cons ?_
      (keeps_seqs_cons (hPut _ (show Piece.updSlot ∈ _ by decide)) (keeps_seqs_cons (hPut _ (show Piece.bootAt ∈ _ by decide)) keeps_seqs_nil)))))
  · exact keeps_seqs_cons (keeps_look fun _ => hPut _ (show Piece.erases ∈ _ by decide))
      (keeps_seqs_cons (keeps_look fun _ => hPut _ (show Piece.copyArea ∈ _ by decide))
        (keeps_seqs_cons (hPut _ (show Piece.storeQ ∈ _ by decide)) keeps_seqs_nil))
  · split
    · exact keeps_bootImage _
    · exact keeps_bootRecovery

section Restart
variable {l : List Piece} {R : List Fld} {T : List Nat}

theorem keeps_closeWindow {why : Nat} (hEnd : .winEnd ∈ l) (hl : recPieces ⊆ l) (hOpen : PPR_STAT.WINDOW_OPEN ∈ R) (hLeft : PPR_STAT.LEFT_S ∈ R)
    (hRec : recFlds ⊆ R) (hIrq : irqFlds 7 16 ⊆ R) : (closeWindow why).Keeps l R T :=
  keeps_look fun _ => keeps_onlyIf fun _ => keeps_seqs_cons (keeps_setF hOpen) (keeps_seqs_cons (keeps_setF hLeft)
    (keeps_seqs_cons (keeps_put hEnd (by simp) (by simp)) (keeps_seqs_cons (keeps_recordEvent hl hRec)
      (keeps_seqs_cons (keeps_raise (recPieces_irq hl) hIrq) keeps_seqs_nil))))

theorem keeps_releaseMainLocks (h : ∀ p < 258, TBL_LOCK.reg p ∈ R) : releaseMainLocks.Keeps l R T :=
  keeps_each fun p hp => keeps_look fun _ => keeps_onlyIf fun _ => keeps_setReg (h p (List.mem_range.mp hp))

theorem keeps_mainLinkOld (h : [.dieQ, .dieRead, .jnlHeld] ⊆ l) : mainLinkOld.Keeps l R T :=
  keeps_look fun _ => keeps_seqs_cons (keeps_put (h (show Piece.dieQ ∈ _ by simp)) (by simp) (by simp))
    (keeps_seqs_cons (keeps_put (h (show Piece.dieRead ∈ _ by simp)) (by simp) (by simp))
      (keeps_seqs_cons (keeps_put (h (show Piece.jnlHeld ∈ _ by simp)) (by simp) (by simp)) keeps_seqs_nil))

end Restart

/-- What follows a restart's three registers: the core stops and starts again, and what it held ends. -/
def restartRest : Prog := seqs [.put (.blkUp 7 false), .put (.blkUp 8 false), closeWindow 4, releaseMainLocks, mainLinkOld, .put (.storeBusy false),
  .put (.updOp none), setF UPD_CMD_STAT.BUSY 0, .put (.confirmEnd none), bootRom]

theorem keeps_restartRest : restartRest.Keeps coreRestartPieces coreRestartFlds [] := by
  have hPut : ∀ a : Act, a.piece ∈ [Piece.blkUp, .storeBusy, .updOp, .confirmEnd] → (Prog.put a).Keeps coreRestartPieces coreRestartFlds [] := fun _ ha =>
    keeps_putAmong (by decide) (by decide) ha
  have hFlds : ∀ {x : List Fld}, x ⊆ coreBootFlds → x ⊆ coreRestartFlds := fun h _ hf => List.mem_append_left _ (h hf)
  have hFld : ∀ {f : Fld}, f ∈ coreBootFlds → f ∈ coreRestartFlds := fun h => List.mem_append_left _ h
  have hLocks : ∀ p < 258, TBL_LOCK.reg p ∈ coreRestartFlds := fun p hp => List.mem_append_right _ (List.mem_map_of_mem (List.mem_range.mpr hp))
  have hWindow : (closeWindow 4).Keeps coreRestartPieces coreRestartFlds [] := keeps_closeWindow (by decide) (by decide) (hFld (by decide))
    (hFld (by decide)) (hFlds (by decide)) (hFlds (by decide))
  have hBoot : bootRom.Keeps coreRestartPieces coreRestartFlds [] := keeps_bootRom.mono (by decide) (hFlds (by decide)) (List.Subset.refl _)
  unfold restartRest
  refine keeps_seqs fun p hp => ?_
  simp only [List.mem_cons, List.not_mem_nil, or_false] at hp
  rcases hp with rfl | rfl | rfl | rfl | rfl | rfl | rfl | rfl | rfl | rfl
  · exact hPut _ (show Piece.blkUp ∈ _ by simp)
  · exact hPut _ (show Piece.blkUp ∈ _ by simp)
  · exact hWindow
  · exact keeps_releaseMainLocks hLocks
  · exact keeps_mainLinkOld (by decide)
  · exact hPut _ (show Piece.storeBusy ∈ _ by simp)
  · exact hPut _ (show Piece.updOp ∈ _ by simp)
  · exact keeps_setF (hFld (by decide))
  · exact hPut _ (show Piece.confirmEnd ∈ _ by simp)
  · exact hBoot

/-- The fields by which a restart shows itself. -/
def coreStateFlds : List Fld := [DEV_STAT.MAIN_UP, DEV_RESET_CAUSE.RESTART, DEV_RESTARTS.TOTAL]

/-- What the rest of a restart writes is apart from them. -/
theorem coreRestartFlds_apart : ∀ f ∈ coreStateFlds, ∀ g ∈ coreRestartFlds, g.off < 65536 ∧ g.apart f := by
  intro f hf g hg
  rcases List.mem_append.mp hg with hg | hg
  · have hAll : ∀ f ∈ coreStateFlds, ∀ g ∈ coreBootFlds, g.off < 65536 ∧ g.apart f := by
      unfold Fld.apart
      decide
    exact hAll f hf g hg
  · obtain ⟨p, -, rfl⟩ := List.mem_map.mp hg
    have hOff : ∀ f ∈ coreStateFlds, 0x118 ≠ f.off := by decide
    exact ⟨(by decide : 0x118 < 65536), .inr (.inl (hOff f hf))⟩

theorem rd_restartRest {f : Fld} (hf : f ∈ coreStateFlds) (s : State) : (restartRest.run s).rd f = s.rd f :=
  keeps_restartRest.rd s f ((by decide : ∀ f ∈ coreStateFlds, f.off < 65536) f hf) (coreRestartFlds_apart f hf)

/-- A restart of a main core that has been started marks the core down, gives its cause and counts it. -/
theorem warmRestart_restarts {trigger : Nat} {s : State} (hStage : 3 ≤ s.rd DEV_STAT.STAGE) (hTrigger : trigger < 16) (hCount : s.rd DEV_RESTARTS.TOTAL < 100) :
    ((warmRestart trigger).run s).rd DEV_STAT.MAIN_UP = 0 ∧ ((warmRestart trigger).run s).rd DEV_RESET_CAUSE.RESTART = trigger ∧
      ((warmRestart trigger).run s).rd DEV_RESTARTS.TOTAL = s.rd DEV_RESTARTS.TOTAL + 1 := by
  have hRun : (warmRestart trigger).run s = restartRest.run ((bumpF DEV_RESTARTS.TOTAL 1).run
      ((setF DEV_RESET_CAUSE.RESTART trigger).run ((setF DEV_STAT.MAIN_UP 0).run s))) := by
    unfold warmRestart restartRest
    rw [run_look, run_onlyIf_true _ _ (decide_eq_true hStage), run_seqs_cons, run_seqs_cons, run_seqs_cons]
  have hBump : ∀ (f : Fld) (t : State), f.off < 65536 ∧ f.off ≠ 0x210 → ((bumpF DEV_RESTARTS.TOTAL 1).run t).rd f = t.rd f := fun f t hf =>
    rd_setF_apart t _ ⟨hf.1, by decide, .inr (.inl (Ne.symm hf.2))⟩
  rw [hRun, rd_restartRest (by decide), rd_restartRest (by decide), rd_restartRest (by decide)]
  refine ⟨?_, ?_, ?_⟩
  · rw [hBump _ _ (by decide), rd_setF_apart _ _ ⟨by decide, by decide, .inr (.inl (by decide))⟩]
    exact rd_setF_fits _ (by decide)
  · rw [hBump _ _ (by decide)]
    exact rd_setF_fits _ ⟨(by decide : 7 < 32), hTrigger⟩
  · rw [rd_bumpF _ _ (by decide), rd_setF_apart _ _ ⟨by decide, by decide, .inr (.inl (by decide))⟩,
      rd_setF_apart _ _ ⟨by decide, by decide, .inr (.inl (by decide))⟩]
    exact Nat.min_eq_right (by show s.rd DEV_RESTARTS.TOTAL + 1 ≤ 2 ^ 16 - 1; omega)

theorem plainReg_devCtrl : plainReg 1 0x208 0 = true := by decide +kernel

theorem controlWrite_devCtrl {m : Nat} {v data : Word} (s : State) :
    (controlWrite m 1 0x208 v data).run s = (onlyIf (bitOf data.toNat 0) (mainRestartWrite m)).run s := rfl

theorem mainRestart_restarts {m : Nat} {data : Word} {s : State} (hWf : Instr.wellFormed (.mainRestart m data) = true) (hTakes : s.takesWrite m 1 = true)
    (hMaster : m = 0 ∨ m = 0x6000) (hStage : 3 ≤ s.rd DEV_STAT.STAGE) (hCount : s.rd DEV_RESTARTS.TOTAL < 100) :
    ∃ t, exec (.mainRestart m data) s = .next t ∧ t.rd DEV_STAT.MAIN_UP = 0 ∧ t.rd DEV_RESET_CAUSE.RESTART = 1 ∧
      t.rd DEV_RESTARTS.TOTAL = s.rd DEV_RESTARTS.TOTAL + 1 := by
  obtain ⟨d, hPlain, -, -⟩ := plainReg_decl plainReg_devCtrl
  have hBit : bitOf (data ||| 1).toNat 0 = true := by
    rw [bitOf_toNat, BitVec.getLsbD_or]
    exact Bool.or_true _
  have hMay : (m == 0 || m == 0x6000) = true := by simpa using hMaster
  simp only [exec, execMainRestart]
  refine command_tmWrite hWf hTakes rfl hPlain ?_ fun v hv => ?_
  · simp only [State.writeRefused, hBit, hMay]
    simp [startsWork]
  · have hTotal : v.rd DEV_RESTARTS.TOTAL = s.rd DEV_RESTARTS.TOTAL := hv.rd (by decide)
    have hStaged : v.rd DEV_STAT.STAGE = s.rd DEV_STAT.STAGE := hv.rd (by decide)
    rw [regDo_control (by decide) (by decide) (.inl rfl), controlWrite_devCtrl, run_onlyIf_true _ _ hBit, mainRestartWrite, if_pos hMay, ← hTotal]
    exact warmRestart_restarts (hStaged.symm ▸ hStage) (by decide) (hTotal.symm ▸ hCount)

/-- Settles O24, write by write: each is the register's own program, after its record where it has one. -/
theorem serviceRegisterWrites : Obligations.ServiceRegisterWrites := by
  unfold Obligations.ServiceRegisterWrites
  exact ⟨fun _ _ _ _ => recReadout_starts, fun _ _ _ _ => recReplay_starts, fun _ _ _ => containRelease_ends, fun _ _ => fatalCaptureClear_clears,
    fun _ _ => fatalCaptureClear_waits, fun _ _ _ => snapshotGo_takes, fun _ _ _ hWf hTakes _ => dumpEnable_enables hWf hTakes,
    fun _ _ _ => jnlHostEnable_starts, fun _ _ _ => mainRestart_restarts⟩

end Sys2Proof.Machine
end

