-- ==== Sys2Proof/Proofs/CompletionRingRefutations.lean ====
section
/-!
PROOF. The statements on the host interface are refuted by a queue pair whose completion ring is full: a completion is written only when the ring has room, with CQ_HEAD as the
host last wrote it (spec/13_host_interface.md R478).
-/
namespace Sys2Proof.Machine

/-- A LOOKUP read of 100 bytes whose descriptor counts its completion for no interrupt. -/
def lookupRead : TxRead := { idx := 3, desc := [2 ^ 30 + 100, 0, 0, 0, 0x2000, 0, 0, 0] }

/-- Queue pair 5 of PF0 is enabled, with rings of 64, 64 and 128 entries.  The host has read one completion of 128, so that the ring holds 127 and is full; one completion waits for
room and `lookupRead` is in flight. -/
def fullRing : State :=
  (seqs [
    .put (.pcieFn 0 { mse := true, bme := true }),
    setTab 3 0 5 ((((({} : Entry).put QP.EN 1).put QP.STATE 1).put QP.TX_LOG 6).put QP.RX_LOG 6 |>.put QP.CQ_LOG 7),
    .put (.qpx 5 { cqHead := 1, reads := [lookupRead], cqes := [{ idx := 2 }] })]).run State.reset

/-- The next completion of queue pair 5 goes to entry 0. -/
theorem fullRing_tail : (fullRing.qp 5).f QP.CQ_TAIL = 0 := by decide +kernel

/-! ### The completion head moves (R468, R478) -/

/-- With room for one more, the completion that waited is written. -/
theorem dbCqHead_writes {t : State} (h : exec (.dbCqHead 0 false 0 5 2) fullRing = .next t) : (t.qp 5).f QP.CQ_TAIL = 1 := by
  simp only [exec, execDbCqHead] at h
  rw [command_state h]
  decide +kernel

/-- Refutes O50: its clause on DB_CQ_HEAD has no table entry change, whatever waits for room in the completion ring.  In `fullRing` a completion does; the doorbell makes room for it,
so that it is written (R478) and CQ_TAIL in the queue pair's entry goes from 0 to 1. -/
theorem not_doorbellsAndInterrupts : ¬ Obligations.DoorbellsAndInterrupts := by
  intro h
  obtain ⟨-, -, hHead, -⟩ := h
  obtain ⟨t, ht, -, -, -, hTables⟩ := hHead 0 false 0 5 2 5 0 0 fullRing rfl (by decide +kernel) (by decide +kernel)
  have hSame : t.qp 5 = fullRing.qp 5 := by
    simp only [State.qp, State.tab, State.tab?, hTables (tabKey 3 0 5) List.not_mem_nil]
  have hWritten := dbCqHead_writes ht
  rw [hSame, fullRing_tail] at hWritten
  exact absurd hWritten (by decide)

/-! ### A read ends in error (R473, R478) -/

/-- With no room in the ring the read's completion waits. -/
theorem txReadDone_waits {t : State} (h : exec (.txReadDone 5 3 []) fullRing = .next t) : (t.qp 5).f QP.CQ_TAIL = 0 := by
  simp only [exec, execTxReadDone] at h
  rw [command_state h]
  decide +kernel

/-- Refutes O60: its clause on TX_READ_DONE has the completion of a read that ends in error move CQ_TAIL, whatever room the completion ring has.  In `fullRing` it has none: the
completion waits (R478) and CQ_TAIL stays 0, where the clause asks for 1. -/
theorem not_queuePairsAndLink : ¬ Obligations.QueuePairsAndLink := by
  intro h
  obtain ⟨-, -, hDone, -⟩ := h
  obtain ⟨t, ht, -, hTail, -⟩ := hDone 5 3 [] lookupRead [] fullRing rfl (by decide +kernel) rfl (by decide +kernel) (by decide)
  rw [txReadDone_waits ht, fullRing_tail] at hTail
  exact absurd hTail (by decide +kernel)

end Sys2Proof.Machine
end

