-- ==== Sys2Proof/Proofs/FatalLatch.lean ====
section
/-!
PROOF. The Fatal latch (spec/15_start_up.md R517): no write of a program clears it, and of the commands that reset the device only the two power-on resets do.
-/
namespace Sys2Proof.Machine

/-- What a reset of the device, if it goes, leaves after its last program; else what its first program leaves. -/
theorem resetCommand_next {i : Instr} {first last : Prog} {goes : State → Bool} {f : State → State} {s t : State}
    (h : resetCommand i first goes f last s = .next t) :
    t = if goes (first.run s.begun) then last.run (f (first.run s.begun)) else first.run s.begun := by
  unfold resetCommand at h
  split at h
  · exact (Host.Outcome.next.inj h).symm
  · cases h

theorem resetCommand_runs {i : Instr} {first last : Prog} {goes : State → Bool} {f : State → State} {s : State} (hWf : i.wellFormed = true) :
    resetCommand i first goes f last s =
      .next (if goes (first.run s.begun) then last.run (f (first.run s.begun)) else first.run s.begun) := if_pos hWf

/-- A command that may reset the device keeps a latch that is set, if the reset does. -/
theorem latch_resetCommand {i : Instr} {first last : Prog} {goes : State → Bool} {f : State → State} {s t : State}
    (hf : ∀ u : State, (f u).fatalLatch = u.fatalLatch) (h : resetCommand i first goes f last s = .next t) (hs : s.fatalLatch = true) :
    t.fatalLatch = true := by
  have hFirst : (first.run s.begun).fatalLatch = true := Prog.latch_run first s.begun hs
  rw [resetCommand_next h]
  split
  · exact Prog.latch_run last _ ((hf _).trans hFirst)
  · exact hFirst

/-- No command but a power-on reset clears the Fatal latch. -/
theorem latch_exec {i : Instr} {s t : State} (hMain : i ≠ .mainPowerOnReset) (hStandby : i ≠ .standbyPowerOnReset) (h : exec i s = .next t)
    (hs : s.fatalLatch = true) : t.fatalLatch = true := by
  by_cases hReset : ∃ ns, i = .resetNAssert ns
  · obtain ⟨ns, rfl⟩ := hReset
    exact latch_resetCommand (f := fun u => u.restarted (alwaysOnRegs ++ backupRegs)) (fun _ => rfl) (show execResetNAssert ns s = .next t from h) hs
  by_cases hCold : ∃ slot, i = .coldStart slot
  · obtain ⟨slot, rfl⟩ := hCold
    exact latch_resetCommand (f := fun u => { u with mono16 := 0 }) (fun _ => rfl) (show execColdStart slot s = .next t from h) hs
  obtain ⟨p, hRun⟩ := exec_runs s hMain hStandby (not_exists.mp hReset) (not_exists.mp hCold)
  obtain ⟨-, rfl⟩ := command_next (hRun ▸ h)
  exact Prog.latch_run _ s hs

theorem latch_idle {s t : State} (h : idle s = .next t) (hs : s.fatalLatch = true) : t.fatalLatch = true := by
  obtain rfl := Host.Outcome.next.inj h
  exact Prog.latch_run (seqs [.put (.emitted []), .put (.bufBad false), tick, ppsFall, fabricTick, joinTick]) s hs

/-! ### What follows a reset of the device -/

section After
variable {l : List Piece}

theorem only_emit {e : Emit} (h : .emitted ∈ l) : (emit e).Only l := fun _ => h

theorem only_stopLanes (h : .emitted ∈ l) : stopLanes.Only l :=
  ⟨all_each _ _ fun _ _ => only_emit h, all_each _ _ fun _ _ => only_emit h, only_emit h⟩

theorem only_afterRestart {cold : Nat} (hRegs : .regs ∈ l) (hQueue : .fatalQ ∈ l) (hEmit : .emitted ∈ l) : (afterRestart cold).Only l :=
  ⟨only_setF hRegs, only_setF hRegs, only_setF hRegs, only_setF hRegs, only_setF hRegs, fun _ => hQueue, only_stopLanes hEmit⟩

end After

/-- A program that does not write the Fatal latch leaves it. -/
theorem Prog.Only.fatalLatch {p : Prog} {l : List Piece} (h : p.Only l) (hl : .fatalLatch ∉ l) (s : State) : (p.run s).fatalLatch = s.fatalLatch :=
  (h.onlyIn s .fatalLatch hl).symm

/-! ### The three resets of the device -/

/-- What a main power-on reset writes after the reset values stand. -/
def mainPowerOnLast : Prog := .andThen (.put (.supVin12 false)) (afterRestart 1)

/-- What a standby power-on reset writes after the reset values stand. -/
def standbyPowerOnLast : Prog := seqs [.put (.supVsb33 true), setF BKP_STAT.ON_CELL 0, afterRestart 0, each (List.range 48) (fun p => cagePins p false true)]

/-- What RESET_N writes after the reset values stand. -/
def resetNLast : Prog := .andThen (.put (.resetLow true)) (afterRestart 2)

theorem exec_mainPowerOnReset (s : State) :
    exec .mainPowerOnReset s = .next (mainPowerOnLast.run ((releaseFatal.run s.begun).powered (alwaysOnRegs ++ backupRegs))) := by
  simp only [exec, execMainPowerOnReset]
  exact (resetCommand_runs rfl).trans (congrArg _ (if_pos rfl))

theorem exec_standbyPowerOnReset {s : State} (hLow : s.supVsb33 = false) :
    exec .standbyPowerOnReset s = .next (standbyPowerOnLast.run (s.begun.powered backupRegs)) := by
  simp only [exec, execStandbyPowerOnReset]
  refine (resetCommand_runs rfl).trans (congrArg _ (if_pos ?_))
  show (!s.supVsb33) = true
  rw [hLow]
  rfl

theorem exec_resetNAssert {ns : Nat} (hLong : 1000 ≤ ns) (s : State) :
    exec (.resetNAssert ns) s = .next (resetNLast.run (s.begun.restarted (alwaysOnRegs ++ backupRegs))) := by
  simp only [exec, execResetNAssert]
  refine (resetCommand_runs rfl).trans ?_
  rw [run_onlyIf_false _ _ (by simp only [Bool.and_eq_false_imp, decide_eq_true_eq, decide_eq_false_iff_not]; omega), if_pos]
  · rfl
  · simp only [resetNActs, decide_eq_true hLong, Bool.true_or]

/-- A pulse on RESET_N below 100 ns draws no free value and resets nothing. -/
theorem exec_resetNAssert_short {ns : Nat} (hShort : ns < 100) (s : State) : exec (.resetNAssert ns) s = .next s.begun := by
  simp only [exec, execResetNAssert]
  refine (resetCommand_runs rfl).trans ?_
  rw [run_onlyIf_false _ _ (by simp only [Bool.and_eq_false_imp, decide_eq_true_eq, decide_eq_false_iff_not]; omega), if_neg]
  simp only [resetNActs, Bool.or_eq_true, Bool.and_eq_true, decide_eq_true_eq]
  omega

theorem only_mainPowerOnLast : mainPowerOnLast.Only [.supVin12, .regs, .fatalQ, .emitted] :=
  ⟨List.mem_cons_self, only_afterRestart (by decide) (by decide) (by decide)⟩

theorem only_standbyPowerOnLast : standbyPowerOnLast.Only [.supVsb33, .regs, .fatalQ, .emitted] :=
  ⟨List.mem_cons_self, only_setF (by decide), only_afterRestart (by decide) (by decide) (by decide),
    all_each _ _ fun _ _ => ⟨only_emit (by decide), only_emit (by decide)⟩⟩

theorem only_resetNLast : resetNLast.Only [.resetLow, .regs, .fatalQ, .emitted] :=
  ⟨List.mem_cons_self, only_afterRestart (by decide) (by decide) (by decide)⟩

/-- The loss of VSB33 leaves the supply out, with its cell or without. -/
theorem vsb33Loss_loses (vbat : Bool) (s : State) : ∃ t, exec (.vsb33Loss vbat) s = .next t ∧ t.supVsb33 = false := by
  simp only [exec, execVsb33Loss]
  exact ⟨_, command_runs _ s rfl, rfl⟩

/-- A command begins with nothing sent. -/
theorem State.begun_onlyEmitted (s : State) : s.onlyIn s.begun [.emitted] := fun f hf =>
  (Act.emitted []).same_apply s f fun e => hf (e ▸ List.mem_cons_self)

/-- Settles O7: a latch once set is kept by every write, and so by every command but the two that reset the domain it lies in. -/
theorem fatalLatchClearsAtPowerOnOnly : Obligations.FatalLatchClearsAtPowerOnOnly := by
  unfold Obligations.FatalLatchClearsAtPowerOnOnly
  refine ⟨fun _ _ _ => latch_exec, fun s t hNone h => ?_, fun s => ⟨_, exec_mainPowerOnReset s, only_mainPowerOnLast.fatalLatch (by decide) _⟩,
    fun vbat s => ?_, fun ns s hShort => ?_⟩
  · unfold step at h
    rw [hNone] at h
    exact latch_idle h
  · obtain ⟨t, hLoss, hLow⟩ := vsb33Loss_loses vbat s
    exact ⟨t, _, hLoss, exec_standbyPowerOnReset hLow, only_standbyPowerOnLast.fatalLatch (by decide) _⟩
  · exact ⟨s.begun, exec_resetNAssert_short hShort s, s.begun_onlyEmitted⟩

end Sys2Proof.Machine
end

