-- ==== Sys2Proof/Proofs/ResetState.lean ====
section
/-!
PROOF. The state after reset, and that every command answers (spec/15_start_up.md R516; spec/00_scope.md).
-/
namespace Sys2Proof.Machine

/-- A command that may reset the device answers where its operands name units of the device, and is refused by name where they do not. -/
theorem resetCommand_answers (i : Instr) (first last : Prog) (goes : State → Bool) (f : State → State) (s : State) :
    (i.wellFormed = true → ∃ t, resetCommand i first goes f last s = .next t) ∧
    (i.wellFormed = false → resetCommand i first goes f last s = .refused .illFormed) :=
  ⟨fun hWf => ⟨_, resetCommand_runs hWf⟩, fun hWf => if_neg (Bool.not_eq_true _ ▸ hWf)⟩

/-- A command is a program, or one of the four that may reset the device. -/
theorem exec_forms (i : Instr) (s : State) :
    (∃ p, exec i s = command i p s) ∨ ∃ first goes f last, exec i s = resetCommand i first goes f last s := by
  cases i with
  | mainPowerOnReset => exact .inr ⟨_, _, _, _, show execMainPowerOnReset s = _ from rfl⟩
  | standbyPowerOnReset => exact .inr ⟨_, _, _, _, show execStandbyPowerOnReset s = _ from rfl⟩
  | resetNAssert ns => exact .inr ⟨_, _, _, _, show execResetNAssert ns s = _ from rfl⟩
  | coldStart slot => exact .inr ⟨_, _, _, _, show execColdStart slot s = _ from rfl⟩
  | _ => exact .inl ⟨_, rfl⟩

/-- Settles O1: a command either is a program or one of the four that may reset the device, and each of those answers or is refused by its operands
alone. -/
theorem wellFormedCommandsComplete : Obligations.WellFormedCommandsComplete := by
  unfold Obligations.WellFormedCommandsComplete
  have hAll (i : Instr) (s : State) :
      (i.wellFormed = true → ∃ t, exec i s = .next t) ∧ (i.wellFormed = false → exec i s = .refused .illFormed) := by
    obtain ⟨p, hRun⟩ | ⟨first, goes, f, last, hReset⟩ := exec_forms i s
    · rw [hRun]
      exact ⟨fun hWf => ⟨_, command_runs p s hWf⟩, fun hWf => if_neg (Bool.not_eq_true _ ▸ hWf)⟩
    · rw [hReset]
      exact resetCommand_answers i first last goes f s
  exact ⟨fun i s => (hAll i s).1, fun i s => (hAll i s).2⟩

/-- Settles O9: the invariant of the reset state is a law of the state. -/
theorem invariantAtReset : Obligations.InvariantAtReset := ⟨State.reset_inv, rfl⟩

/-- Settles O17: the reset values are those of the tables, each evaluated. -/
theorem registersAfterReset : Obligations.RegistersAfterReset := by
  unfold Obligations.RegistersAfterReset
  refine ⟨?_, ?_, ?_, ?_, ?_, ?_, ?_, ?_, ?_, ?_, ?_, ?_, ?_, ?_, ?_, ?_, ?_, ?_, fun _ _ => rfl⟩ <;> decide +kernel

end Sys2Proof.Machine
end

