-- ==== Sys2Proof/Proofs/SpareRefutation.lean ====
section
/-!
PROOF. The statement on spares and rotations is refuted by the end of a rolling update, which gives the spare core the new SERVICE section (spec/19_update_and_store.md R636).
-/
namespace Sys2Proof.Machine

/-- The eighth core of a rolling update towards slot 0 is done; core 8 is a qualified spare that still holds a section with another tag. -/
def spareOfOldSection : State :=
  (seqs [
    .put (.roll (some (8, 0))),
    setF DEV_STAT.MAIN_UP 1,
    setUnit clsScore 8 UNIT.ROLE 2,
    setUnitX clsScore 8 (fun x => { x with passed := true }),
    .put (.coreTag 8 5)]).run State.reset

/-- The end of the update loads the new section on the spare. -/
theorem spareOfOldSection_updated {t : State} (h : exec .rollingUpdateStep spareOfOldSection = .next t) : t.coreTagAt 8 = 0 := by
  simp only [exec, execRollingUpdateStep] at h
  rw [command_state h]
  decide +kernel

/-- Refutes O54: its last clause has the end of a rolling update change ROLLING and its interrupt alone.  The update ends with the spare on the new section too (R636): in
`spareOfOldSection` the section that core 8 holds changes. -/
theorem not_sparesTestedAndRotated : ¬ Obligations.SparesTestedAndRotated := by
  intro h
  obtain ⟨-, -, -, -, -, -, -, hRolling⟩ := h
  obtain ⟨t, ht, -, -, -, hFramed⟩ :=
    hRolling 8 0 spareOfOldSection rfl rfl (by decide) (by decide +kernel) (by decide +kernel) (by decide +kernel)
  have hKept : spareOfOldSection.coreTag = t.coreTag := hFramed.1 .coreTag (by decide)
  have hTag := spareOfOldSection_updated ht
  simp only [State.coreTagAt, ← hKept] at hTag
  exact absurd hTag (by decide +kernel)

end Sys2Proof.Machine
end

