-- ==== Sys2Proof/Proofs/PresenceRefutation.lean ====
section
/-!
PROOF. The statement on the presence controller is refuted by a clock that is a nanosecond past the second at which its armed value is loaded (spec/20_presence_seal_journal.md R641,
R647).
-/
namespace Sys2Proof.Machine

/-- The real-time clock was armed with 5 s in second 0 and stands 1 ns past second 1. -/
def armedPastSecond : State := { State.reset with rtcArmed := some (5, 0), rtcNs := 1000000001 }

/-- The clock keeps the nanosecond that it is past the second. -/
theorem armedPastSecond_loaded {t : State} (h : exec .rtcSetLoad armedPastSecond = .next t) : t.rtcNs = 5000000001 := by
  simp only [exec, execRtcSetLoad] at h
  rw [command_state h]
  rfl

/-- Refutes O47: its fourth clause has the clock read the armed value with no fraction of a second, however far past the boundary it is loaded.  What has passed since the boundary counts: in
`armedPastSecond` it is 1 ns. -/
theorem not_presenceAndSeal : ¬ Obligations.PresenceAndSeal := by
  intro h
  obtain ⟨-, -, -, hLoad, -⟩ := h
  obtain ⟨t, ht, hRead, -⟩ := hLoad 5 0 armedPastSecond rfl rfl (by decide)
  rw [armedPastSecond_loaded ht] at hRead
  exact absurd hRead (by decide)

end Sys2Proof.Machine
end

