-- ==== Sys2Proof/Proofs/ResetRefutation.lean ====
section
/-!
PROOF. The statement on the resets is refuted by a presence window that is open: every reset of the device closes it (spec/20_presence_seal_journal.md R640), and it shows in PPR_STAT, a
register of the backup domain (R646).
-/
namespace Sys2Proof.Machine

/-- The presence window is open. -/
def windowOpen : State := (setF PPR_STAT.WINDOW_OPEN 1).run State.reset

/-- A main power-on reset closes the presence window. -/
theorem windowOpen_closed {t : State} (h : exec .mainPowerOnReset windowOpen = .next t) : t.rd PPR_STAT.WINDOW_OPEN = 0 := by
  rw [exec_mainPowerOnReset] at h
  obtain rfl := Host.Outcome.next.inj h
  decide +kernel

/-- Refutes O56: its first clause has a main power-on reset keep every register of the backup domain.  PPR_STAT is one of them (R646), and its WINDOW_OPEN clears, as a restart closes the
window (R640). -/
theorem not_resets : ¬ Obligations.Resets := by
  intro h
  obtain ⟨hMain, -⟩ := h
  obtain ⟨t, ht, -, -, -, -, -, -, -, hBackup, -⟩ := hMain windowOpen rfl
  have hKept : t.rd PPR_STAT.WINDOW_OPEN = windowOpen.rd PPR_STAT.WINDOW_OPEN :=
    congrArg (fun w : Word => fieldOf w 31 31) (hBackup (regKey 7 0x204) (by decide))
  rw [windowOpen_closed ht] at hKept
  exact absurd hKept (by decide +kernel)

end Sys2Proof.Machine
end

