-- ==== Sys2Proof/Proofs/FifoRefutations.lean ====
section
/-!
PROOF. Statements on FIFOs that are refuted by one which holds more than it has room for: the crier's log (spec/17_faults.md R581), the trace buffer (spec/18_counters_and_tracing.md R612)
and the records that await persistence (spec/20_presence_seal_journal.md R659).  The device does not reach these states, since its FIFOs stay within their room (`stepKeepsInvariant`); the
clauses leave them in.
-/
namespace Sys2Proof.Machine

/-! ### The crier's log -/

/-- The fault collector is up and its log holds 4,098 messages, two more than it has room for. -/
def logOverfull : State := { (Prog.put (.blkUp 5 true)).run State.reset with cryLog := List.replicate 4098 ({}, 0) }

/-- The main core's read of the oldest message leaves what the log has room for. -/
theorem logOverfull_popped {t : State} (h : exec (.cryLogPop 0x2000) logOverfull = .next t) : t.cryLog = (logOverfull.cryLog.drop 1).take 4096 := by
  rw [command_state (show command (.cryLogPop 0x2000) (hostRead 0x2000 5 0x234 1) logOverfull = .next t from h)]
  rfl

/-- Refutes O52: its fifth clause has a read of CRY_LOG_DATA5 remove one message and no other, in states, too, that hold more messages than the log has room for; a write of the log keeps its
4,096 oldest. -/
theorem not_crierRecords : ¬ Obligations.CrierRecords := by
  intro h
  obtain ⟨-, -, -, -, hPop, -⟩ := h
  obtain ⟨t, ht, hRest, -⟩ := hPop 0x2000 logOverfull rfl (by decide +kernel) (by decide +kernel)
  have hHeld : logOverfull.cryLog.length = 4098 := List.length_replicate
  have hCut := congrArg List.length (hRest.symm.trans (logOverfull_popped ht))
  rw [List.length_take, List.length_drop, hHeld] at hCut
  exact absurd hCut (by decide)

/-! ### The trace buffer -/

/-- The host ring takes trace records, PF0 masters the bus, and 2,050 records wait, two more than the buffer has room for. -/
def bufferOverfull : State :=
  { (seqs [.put (.pcieFn 0 { mse := true, bme := true }), setF TRC_CFG.DMA_EN 1]).run State.reset with
    traceBuf := {} :: List.replicate 2049 {} }

/-- The transfer of the oldest record leaves what the buffer has room for. -/
theorem bufferOverfull_sent {t : State} (h : exec .traceDmaWrite bufferOverfull = .next t) : t.traceBuf.length = 2048 := by
  simp only [exec, execTraceDmaWrite] at h
  rw [command_state h]
  decide +kernel

/-- Refutes O55: its third clause has the transfer of a trace record remove it and no other, in states, too, that hold more records than the buffer has room for; a write of the buffer keeps its
2,048 oldest. -/
theorem not_snapshotsAndTraces : ¬ Obligations.SnapshotsAndTraces := by
  intro h
  obtain ⟨-, -, hWrite, -⟩ := h
  obtain ⟨t, ht, hRest, -⟩ := hWrite {} (List.replicate 2049 {}) _ bufferOverfull rfl rfl rfl (by decide +kernel) (by decide +kernel)
    (by decide +kernel) (by decide +kernel) (by decide +kernel)
  have hCut := bufferOverfull_sent ht
  rw [hRest, List.length_replicate] at hCut
  exact absurd hCut (by decide)

/-! ### The records that await persistence -/

/-- The main core is up, the journal's unit 1 is next, and 61,697 records await persistence, one more than the room for them with a unit's 256. -/
def persistOverfull : State := { (setF DEV_STAT.MAIN_UP 1).run State.reset with jnlUnit := 1, jnlPersist := {} :: List.replicate 61696 {} }

/-- The start of a unit's write leaves what there is room for. -/
theorem persistOverfull_written {t : State} (h : exec (.jnlUnitWrite 0) persistOverfull = .next t) :
    t.jnlPersist = (persistOverfull.jnlPersist.drop 256).take 61440 := by
  rw [command_state (show command (.jnlUnitWrite 0) _ persistOverfull = .next t from h)]
  rfl

/-- Refutes O57: its first clause has the start of a unit's write remove the unit's 256 records and no other, in states, too, where more records await persistence than there is room for; a write of
the ring keeps its 61,440 oldest. -/
theorem not_journalWrites : ¬ Obligations.JournalWrites := by
  intro h
  obtain ⟨hWrite, -⟩ := h
  obtain ⟨t, ht, -, hRest, -⟩ := hWrite 0 persistOverfull rfl (by decide +kernel) rfl (List.cons_ne_nil _ _) (by decide) (by decide)
  have hWaiting : persistOverfull.jnlPersist.length = 61697 := congrArg (· + 1) List.length_replicate
  have hCut := congrArg List.length (hRest.symm.trans (persistOverfull_written ht))
  rw [List.length_take, List.length_drop, hWaiting] at hCut
  exact absurd hCut (by decide)

end Sys2Proof.Machine
end

