-- ==== Sys2Proof/Proofs/UpdateRefutation.lean ====
section
/-!
PROOF. Statements on the download of an image are refuted by a block that brings the first byte of a KEYREC: it is checked as soon as it is there, and an image whose KEYREC names key slot 0 is
rejected (spec/19_update_and_store.md R624, R627).
-/
namespace Sys2Proof.Machine

/-- The first unit of an image whose header has one section, a KEYREC of 98 bytes right behind the unit (at 3,072 bytes of the payload). -/
def keyrecHeader : List Byte := List.replicate 128 0 ++ [4, 0, 0, 0, 0, 12, 0, 0, 98, 0, 0, 0] ++ List.replicate 3956 0

/-- Slot B loads an image of 4 units; its first is there, and the main core asks for the second. -/
def keyrecDue : State :=
  (seqs [
    .put (.blkUp 8 true),
    setF (BLK_CTRL.ENABLE 8) 1,
    .put (.pcieFn 0 { mse := true, bme := true }),
    .put (.ctl { slotB := { st := 1, total := 4 } }),
    .put (.imgUnit 32768 keyrecHeader),
    setF UPD_DL_STAT.RECEIVED 1,
    setF UPD_DL_BLOCK.OFFSET_4K 1,
    setF UPD_DL_BLOCK.LEN_4K 1]).run State.reset

/-- The second unit: its KEYREC names key slot 0, the fused root key. -/
def keyrecBlock : List Byte := List.replicate 4096 0

/-- The image is rejected with result 3, and the record that empties the slot waits for the store. -/
theorem keyrecDue_rejected {t : State} (h : exec (.updBlock 0x2000 0 keyrecBlock 0) keyrecDue = .next t) :
    t.updOp = some { op := 2, result := 3, waits := true } ∧ t.storeQ = [.control {} 0 0] := by
  simp only [exec, execUpdBlock] at h
  rw [command_state h]
  decide +kernel

/-- Refutes O14: its clause on BLOCK has a block that is not the image's first and not its last stored with result 0, whatever it brings.  In `keyrecDue` it brings a KEYREC that names key slot
0, and the command rejects the image (R627, reason 7). -/
theorem not_updateCommands : ¬ Obligations.UpdateCommands := by
  intro h
  obtain ⟨-, -, hBlock, -⟩ := h
  obtain ⟨t, ht, -, -, hDone⟩ := hBlock 0x2000 0 keyrecBlock 0 1 1 1 keyrecDue rfl (by decide +kernel) (.inr rfl) rfl (by decide +kernel)
    (by decide +kernel) (by decide +kernel) (by decide +kernel) (by decide +kernel) rfl rfl (by decide) (by decide) (by decide +kernel) (by decide +kernel)
    (by decide +kernel) (List.length_replicate) (by decide) (by decide +kernel) (by decide)
  rw [(keyrecDue_rejected ht).1] at hDone
  exact absurd hDone (by decide)

/-- Refutes O59: its clause on what BLOCK leaves alone has no record join the store's queue.  The rejection of the image in `keyrecDue` queues the record that empties its slot (R627). -/
theorem not_restartAndStore : ¬ Obligations.RestartAndStore := by
  intro h
  obtain ⟨-, -, -, -, -, -, -, -, -, -, -, -, -, hBlock, -⟩ := h
  obtain ⟨t, ht, hFramed⟩ := hBlock 0x2000 0 keyrecBlock 0 1 1 1 keyrecDue rfl (by decide +kernel) (.inr rfl) rfl (by decide +kernel)
    (by decide +kernel) (by decide +kernel) (by decide +kernel) (by decide +kernel) rfl rfl (by decide) (by decide) (by decide +kernel) (by decide +kernel)
    (by decide +kernel) (List.length_replicate) (by decide) (by decide +kernel) (by decide)
  have hKept : keyrecDue.storeQ = t.storeQ := State.framed_same hFramed .storeQ (by decide)
  rw [(keyrecDue_rejected ht).2] at hKept
  exact absurd hKept (by decide +kernel)

end Sys2Proof.Machine
end

