-- ==== Sys2Proof/Proofs/ReferenceClock.lean ====
section
/-!
PROOF. The reference clock is lost, comes back and appears (spec/21_electrical_and_package.md R676; spec/15_start_up.md R521).
-/
namespace Sys2Proof.Machine

/-- REFCLK is there and shown, and nothing else is written. -/
theorem refclkShown (s : State) :
    let t := (Prog.andThen (.put (.refclk true)) (setF PWR_STAT.REFCLK_OK 1)).run s.begun
    t.refclk = true ∧ t.rd PWR_STAT.REFCLK_OK = 1 ∧ s.framed t [.refclk, .emitted] [PWR_STAT.REFCLK_OK] [] :=
  ⟨rfl, rd_setF_fits _ (by decide), State.framed_trans (begun_framed (by simp) s) (keeps_andThen (keeps_put (by simp) (by simp) (by simp)) (keeps_setF (by simp)) _)⟩

theorem refclkLoss_shows {s : State} (hWf : Instr.wellFormed .refclkLoss = true) (hThere : s.refclk = true) (hRuns : 2 ≤ s.rd DEV_STAT.STAGE) :
    ∃ t, exec .refclkLoss s = .next t ∧ t.refclk = false ∧ t.rd PWR_STAT.REFCLK_OK = 0 ∧ (t.regsAt (regKey 257 0x10)).getLsbD 18 = true ∧
      s.framed t [[.refclk], irqPieces].flatten [[PWR_STAT.REFCLK_OK], irqFlds 257 18].flatten [] := by
  have hRaise : (raise 257 18).Keeps irqPieces (irqFlds 257 18) [] := keeps_raise (List.Subset.refl _) (List.Subset.refl _)
  simp only [exec, execRefclkLoss]
  refine command_answers hWf ?_
  rw [run_look_onlyIf (c := fun u => u.refclk) (s := s.begun) hThere, run_seqs_cons, run_seqs_cons, run_seqs_nil, State.begun_rd,
    run_onlyIf_true _ _ (decide_eq_true hRuns), run_andThen]
  refine ⟨(hRaise.same _ .refclk (by decide)).symm, ?_, getLsbD_raise _ (by decide) (by decide) (by decide), ?_⟩
  · rw [rd_raise _ (by decide), rd_setF_fits _ (by decide)]
  · exact State.framed_trans (begun_framed (by decide) s) (State.framed_trans (keeps_put (by simp) (by simp) (by simp) _)
      (State.framed_trans (keeps_setF (by simp) _) (hRaise.mono (by simp) (by simp) (by simp) _)))

theorem refclkReturn_shows {s : State} (hWf : Instr.wellFormed .refclkReturn = true) (hRuns : 2 ≤ s.rd DEV_STAT.STAGE) (hGone : s.rd PWR_STAT.REFCLK_OK = 0) :
    ∃ t, exec .refclkReturn s = .next t ∧ t.refclk = true ∧ t.rd PWR_STAT.REFCLK_OK = 1 ∧ s.framed t [.refclk, .emitted] [PWR_STAT.REFCLK_OK] [] := by
  simp only [exec, execRefclkReturn]
  refine command_answers hWf ?_
  rw [run_look_onlyIf (by simp [hRuns, hGone])]
  exact refclkShown s

theorem refclkPresent_shows {s : State} (hWf : Instr.wellFormed .refclkPresent = true) (hStage : s.rd DEV_STAT.STAGE = 1) :
    ∃ t, exec .refclkPresent s = .next t ∧ t.refclk = true ∧ t.rd PWR_STAT.REFCLK_OK = 1 ∧ s.framed t [.refclk, .emitted] [PWR_STAT.REFCLK_OK] [] := by
  simp only [exec, execRefclkPresent]
  refine command_answers hWf ?_
  rw [run_look_onlyIf (by simp [hStage]), State.begun_rd, hStage]
  exact refclkShown s

/-- Settles O51: each of the three commands is a write of the clock's presence and, where the stage shows it, of REFCLK_OK. -/
theorem referenceClock : Obligations.ReferenceClock := by
  unfold Obligations.ReferenceClock
  exact ⟨fun _ => refclkLoss_shows, fun _ => refclkReturn_shows, fun _ => refclkPresent_shows⟩

end Sys2Proof.Machine
end

