-- ==== Sys2Proof/Proofs/SlotLatch.lean ====
section
/-!
PROOF. The registers that a reset keeps, the entry of a stage of the start, and the SLOT_ID latch (spec/15_start_up.md R516, R518, R520).
-/
namespace Sys2Proof.Machine

/-! ### Registers over a reset of the device -/

theorem Sp.get_filter_keep {α : Type} {d : Nat → α} {keep : List Nat} {k : Nat} (hk : k ∈ keep) :
    ∀ m : Sp α, Sp.get d (m.filter fun kv => keep.contains kv.1) k = Sp.get d m k
  | [] => rfl
  | (j, v) :: r => by
    have ih := Sp.get_filter_keep (d := d) hk r
    by_cases hj : k = j
    · subst hj
      simp [hk, Sp.get]
    · by_cases hKept : j ∈ keep <;> simpa [hKept, Sp.get, hj] using ih

/-- A reset keeps the registers it names. -/
theorem State.regsAt_restarted (s : State) {keep : List Nat} {k : Nat} (hk : k ∈ keep) : (s.restarted keep).regsAt k = s.regsAt k :=
  Sp.get_filter_keep hk s.regs

theorem State.rd_restarted (s : State) {keep : List Nat} {f : Fld} (hk : regKey f.page f.off ∈ keep) : (s.restarted keep).rd f = s.rd f :=
  congrArg (fun w : Word => fieldOf w f.hi f.lo) (s.regsAt_restarted hk)

/-- The fields that a reset of the device writes after the reset values stand. -/
def afterRestartFlds : List Fld :=
  [PPR_STAT.WINDOW_OPEN, PPR_STAT.LEFT_S, PPR_STAT.JTAG_UNLOCKED, DEV_RESET_CAUSE.RESTART, DEV_RESET_CAUSE.COLD]

theorem keeps_stopLanes {l : List Piece} {R : List Fld} {T : List Nat} (h : .emitted ∈ l) : stopLanes.Keeps l R T :=
  keeps_seqs_cons (keeps_each fun _ _ => keeps_emit h) (keeps_seqs_cons (keeps_each fun _ _ => keeps_emit h) (keeps_seqs_cons (keeps_emit h) keeps_seqs_nil))

theorem keeps_afterRestart (cold : Nat) : (afterRestart cold).Keeps [.fatalQ, .emitted] afterRestartFlds [] :=
  keeps_seqs_cons (keeps_setF (by simp [afterRestartFlds])) (keeps_seqs_cons (keeps_setF (by simp [afterRestartFlds]))
    (keeps_seqs_cons (keeps_setF (by simp [afterRestartFlds])) (keeps_seqs_cons (keeps_setF (by simp [afterRestartFlds]))
    (keeps_seqs_cons (keeps_setF (by simp [afterRestartFlds])) (keeps_seqs_cons (keeps_look fun _ => keeps_put (by simp) (by simp) (by simp))
    (keeps_seqs_cons (keeps_stopLanes (by simp)) keeps_seqs_nil))))))

theorem keeps_resetNLast : resetNLast.Keeps [.resetLow, .fatalQ, .emitted] afterRestartFlds [] :=
  keeps_andThen (keeps_put (by simp) (by simp) (by simp)) ((keeps_afterRestart 2).mono (by simp) (List.Subset.refl _) (by simp))

/-! ### Entering a stage (R520, R528) -/

/-- The fields that the entry of stage `k` writes. -/
def stageEntryFlds (k : Nat) : List Fld := [DEV_STAT.STAGE, DEV_STAGE_TIME.US k] ++ irqFlds 1 16

theorem keeps_enterStage {l : List Piece} {R : List Fld} {T : List Nat} {k : Nat} (hl : irqPieces ⊆ l) (hR : stageEntryFlds k ⊆ R) : (enterStage k).Keeps l R T :=
  keeps_look fun _ => keeps_seqs_cons (keeps_setF (hR (by simp [stageEntryFlds]))) (keeps_seqs_cons (keeps_setF (hR (by simp [stageEntryFlds])))
    (keeps_seqs_cons (keeps_onlyIf fun _ => keeps_raise hl fun _ h => hR (by simp [stageEntryFlds, h])) keeps_seqs_nil))

theorem rd_enterStage (s : State) {k : Nat} (hk : 0 < k ∧ k < 16) : ((enterStage k).run s).rd DEV_STAT.STAGE = k := by
  rw [enterStage, run_look, run_seqs_cons, run_seqs_cons, run_seqs_cons, run_seqs_nil, run_onlyIf_true _ _ (by simp; omega), rd_raise _ (by decide),
    rd_setF_apart _ _ (by simp only [Fld.apart, DEV_STAT.STAGE, DEV_STAGE_TIME.US]; omega), rd_setF_fits _ ⟨by decide, by simp only [DEV_STAT.STAGE]; omega⟩]

theorem getLsbD_enterStage (s : State) {k : Nat} (hk : 0 < k) : (((enterStage k).run s).regsAt (regKey 1 0x10)).getLsbD 16 = true := by
  rw [enterStage, run_look, run_seqs_cons, run_seqs_cons, run_seqs_cons, run_seqs_nil, run_onlyIf_true _ _ (by simp; omega)]
  exact getLsbD_raise _ (by decide) (by decide) (by decide)

/-! ### Stage FUSES (R518, R520 step 2) -/

theorem keeps_blockUp {l : List Piece} {R : List Fld} {T : List Nat} {p : Nat} (hl : .blkUp ∈ l) (hE : BLK_CTRL.ENABLE p ∈ R) (hS : BLK_STAT.READY p ∈ R) :
    (blockUp p).Keeps l R T :=
  keeps_seqs_cons (keeps_put hl (by simp) (by simp)) (keeps_seqs_cons (keeps_setF hE) (keeps_seqs_cons (keeps_setF hS) keeps_seqs_nil))

theorem blkUpAt_blockUp (s : State) (p q : Nat) : ((blockUp p).run s).blkUpAt q = if q = p then true else s.blkUpAt q := Act.blkUp_apply p true s q

/-- Pages brought up are up, and the others as before. -/
theorem blkUpAt_each_blockUp : ∀ (ps : List Nat) (s : State) (q : Nat), ((each ps blockUp).run s).blkUpAt q = (decide (q ∈ ps) || s.blkUpAt q)
  | [], s, q => by simp [each, Prog.run]
  | p :: ps, s, q => by
    rw [each, run_andThen, blkUpAt_each_blockUp ps, blkUpAt_blockUp]
    by_cases hq : q = p <;> simp [hq]

/-- The take of the SLOT_ID latch, where it is due. -/
def slotTaken (s : State) : Prog := onlyIf s.latchDue (seqs [.put (.latchDue false), setF DEV_SLOT.LATCHED s.slotPins, setF FAB_DEV_ID.ID s.slotPins])

/-- What stage FUSES does after the latch: the device's time, the reference clock shown, its entry. -/
def fusesRest (s : State) : Prog := seqs [timeFromRtc, onlyIf s.refclk (setF PWR_STAT.REFCLK_OK 1), enterStage 1]

/-- The fields that the pages brought up and `fusesRest` write. -/
def fusesUpFlds : List Fld := [0, 1, 2, 3].flatMap fun p => [BLK_CTRL.ENABLE p, BLK_STAT.READY p]
def fusesRestFlds : List Fld := [PTP_STAT.SRC_IN_USE, PWR_STAT.REFCLK_OK] ++ stageEntryFlds 1

theorem toFuses_run (s : State) : toFuses.run s = (fusesRest s).run ((slotTaken s).run ((each [0, 1, 2, 3] blockUp).run s)) := by
  rw [toFuses, run_look, run_seqs_cons, run_seqs_cons]
  rfl

theorem keeps_timeFromRtc {l : List Piece} {R : List Fld} {T : List Nat} (hl : .time16 ∈ l) (hR : PTP_STAT.SRC_IN_USE ∈ R) : timeFromRtc.Keeps l R T :=
  keeps_look fun _ => keeps_ite (fun _ => keeps_andThen (keeps_put hl (by simp) (by simp)) (keeps_setF hR))
    fun _ => keeps_andThen (keeps_put hl (by simp) (by simp)) (keeps_setF hR)

theorem keeps_fusesUp : (each [0, 1, 2, 3] blockUp).Keeps [.blkUp] fusesUpFlds [] :=
  keeps_each fun p hp => keeps_blockUp (by simp) (List.mem_flatMap.2 ⟨p, hp, by simp⟩) (List.mem_flatMap.2 ⟨p, hp, by simp⟩)

theorem keeps_fusesRest (s : State) : (fusesRest s).Keeps (.time16 :: irqPieces) fusesRestFlds [] :=
  keeps_seqs_cons (keeps_timeFromRtc (by simp) (by simp [fusesRestFlds])) (keeps_seqs_cons (keeps_onlyIf fun _ => keeps_setF (by simp [fusesRestFlds]))
    (keeps_seqs_cons (keeps_enterStage (by simp) (by simp [fusesRestFlds])) keeps_seqs_nil))

theorem keeps_slotTaken (s : State) : (slotTaken s).Keeps [.latchDue] [DEV_SLOT.LATCHED, FAB_DEV_ID.ID] [] :=
  keeps_onlyIf fun _ => keeps_seqs_cons (keeps_put (by simp) (by simp) (by simp)) (keeps_seqs_cons (keeps_setF (by simp))
    (keeps_seqs_cons (keeps_setF (by simp)) keeps_seqs_nil))

/-- The entry of stage FUSES leaves the latch not due, with the pins in DEV_SLOT and FAB_DEV_ID where it was due. -/
theorem toFuses_latches {s : State} (hPins : s.slotPins < 1024) :
    (toFuses.run s).latchDue = false ∧
    (toFuses.run s).rd DEV_SLOT.LATCHED = (if s.latchDue then s.slotPins else s.rd DEV_SLOT.LATCHED) ∧
    (toFuses.run s).rd FAB_DEV_ID.ID = (if s.latchDue then s.slotPins else s.rd FAB_DEV_ID.ID) := by
  have hUp (f : Fld) (hf : f.off < 65536) (hApart : ∀ g ∈ fusesUpFlds, g.off < 65536 ∧ g.apart f) : ((each [0, 1, 2, 3] blockUp).run s).rd f = s.rd f :=
    keeps_fusesUp.rd s f hf hApart
  have hUpDue : s.latchDue = ((each [0, 1, 2, 3] blockUp).run s).latchDue := keeps_fusesUp.same s .latchDue (by decide)
  have hRest := keeps_fusesRest s
  rw [toFuses_run]
  refine ⟨(hRest.same _ .latchDue (by decide)).symm.trans ?_, (hRest.rd _ _ (by decide) (by unfold Fld.apart; decide)).trans ?_,
    (hRest.rd _ _ (by decide) (by unfold Fld.apart; decide)).trans ?_⟩ <;>
  by_cases hDue : s.latchDue = true
  · rw [slotTaken, run_onlyIf_true _ _ hDue]
    rfl
  · rw [slotTaken, run_onlyIf_false _ _ (by simpa using hDue), ← hUpDue]
    simpa using hDue
  · rw [if_pos hDue, slotTaken, run_onlyIf_true _ _ hDue, run_seqs_cons, run_seqs_cons, run_seqs_cons, run_seqs_nil, rd_setF_apart _ _ (by unfold Fld.apart; decide),
      rd_setF_fits _ ⟨by decide, hPins⟩]
  · rw [if_neg hDue, slotTaken, run_onlyIf_false _ _ (by simpa using hDue), hUp _ (by decide) (by unfold Fld.apart; decide)]
  · rw [if_pos hDue, slotTaken, run_onlyIf_true _ _ hDue, run_seqs_cons, run_seqs_cons, run_seqs_cons, run_seqs_nil, rd_setF_fits _ ⟨by decide, hPins⟩]
  · rw [if_neg hDue, slotTaken, run_onlyIf_false _ _ (by simpa using hDue), hUp _ (by decide) (by unfold Fld.apart; decide)]

/-- STAGE_ADVANCE at stage POWER enters FUSES. -/
theorem stageAdvance_power {ok : Bool} {defects : List Nat} {s : State} (hWf : Instr.wellFormed (.stageAdvance ok defects) = true) (hStarted : s.coldT0.isSome = true)
    (hPower : s.rd DEV_STAT.STAGE = 0) (hRuns : s.stopped = false) : exec (.stageAdvance ok defects) s = .next (toFuses.run s.begun) := by
  simp only [exec, execStageAdvance]
  refine (command_runs _ s hWf).trans (congrArg _ ?_)
  have hStarted' : s.begun.coldT0.isSome = true := hStarted
  have hRuns' : (!s.begun.stopped) = true := by rw [show s.begun.stopped = false from hRuns]; rfl
  change (Prog.look _).run s.begun = _
  rw [run_look_onlyIf (c := fun u => u.coldT0.isSome) hStarted']
  simp only [State.begun_rd, hPower, beq_self_eq_true, if_true]
  exact run_onlyIf_true _ _ hRuns'

/-- Settles O11: the latch is due after a power-on reset alone, the next entry of FUSES takes it, and RESET_N keeps the two registers that show it. -/
theorem slotLatchTakenAtMainPowerOn : Obligations.SlotLatchTakenAtMainPowerOn := by
  unfold Obligations.SlotLatchTakenAtMainPowerOn
  refine ⟨fun s => ⟨_, exec_mainPowerOnReset s, (only_mainPowerOnLast.onlyIn _ .latchDue (by decide)).symm⟩,
    fun ok defects s hWf hStarted hPower hRuns hPins => ⟨_, stageAdvance_power hWf hStarted hPower hRuns, toFuses_latches (s := s.begun) hPins⟩,
    fun ns s _ hLong => ⟨_, exec_resetNAssert hLong s, (keeps_resetNLast.same _ .latchDue (by decide)).symm, ?_, ?_⟩⟩
  · exact (keeps_resetNLast.rd _ _ (by decide) (by unfold Fld.apart; decide)).trans (s.begun.rd_restarted (by decide))
  · exact (keeps_resetNLast.rd _ _ (by decide) (by unfold Fld.apart; decide)).trans (s.begun.rd_restarted (by decide))

end Sys2Proof.Machine
end

