-- ==== Sys2Proof/Proofs/ColdStart.lean ====
section
/-!
PROOF. A cold start and its stages (spec/15_start_up.md R511 to R529).
-/
namespace Sys2Proof.Machine

/-! ### Tools -/

/-- What keeps a frame writes no piece beside it. -/
theorem State.framed.onlyIn {s t : State} {l l' : List Piece} {R : List Fld} {T : List Nat} (h : s.framed t l R T) (hl : .regs :: .tables :: l ⊆ l') : s.onlyIn t l' :=
  fun f hf => h.1 f fun hMem => hf (hl hMem)

theorem State.onlyIn_trans {s t u : State} {l : List Piece} (h : s.onlyIn t l) (h' : t.onlyIn u l) : s.onlyIn u l := fun f hf => State.same_trans (h f hf) (h' f hf)

/-- Programs that each look for something that is nowhere do nothing. -/
theorem run_each_look_skip {α : Type} {c : State → α → Bool} {p : State → α → Prog} {s : State} :
    ∀ as : List α, (∀ a ∈ as, c s a = false) → (each as fun a => .look fun t => onlyIf (c t a) (p t a)).run s = s
  | [], _ => rfl
  | a :: as, h => by
    rw [each, run_andThen, run_look, run_onlyIf_false _ _ (h a List.mem_cons_self)]
    exact run_each_look_skip as fun b hb => h b (List.mem_cons_of_mem _ hb)

/-! ### COLD_START (R511, R520) -/

/-- What a cold start writes, MONO beside. -/
def coldStartLast (slot : Nat) : Prog := .look fun s => seqs [
  .put (.coldT0 (some 0)),
  .put (.supVin12 true),
  .put (.supVsb33 true),
  .put (.resetLow false),
  .put (.slotPins slot),
  setF DEV_SLOT.PINS slot,
  setF DEV_STAT.PWR_GOOD 1,
  setF BKP_STAT.ON_CELL 0,
  onlyIf s.fatalLatch (seqs [setF DEV_STAT.FATAL_LATCHED 1, setF CRY_STAT.FATAL 1, setF FAB_STAT.SAFE 1]),
  enterStage 0]

/-- MONO starts again. -/
def State.monoRestarted (s : State) : State := { s with mono16 := 0 }

theorem State.monoRestarted_onlyIn (s : State) : s.onlyIn s.monoRestarted [.mono16] := fun f hf => by
  cases f with
  | mono16 => exact absurd List.mem_cons_self hf
  | _ => rfl

theorem exec_coldStart {slot : Nat} {s : State} (hWf : Instr.wellFormed (.coldStart slot) = true) (hFirst : s.coldT0 = none) :
    exec (.coldStart slot) s = .next ((coldStartLast slot).run s.begun.monoRestarted) := by
  have hGoes : (Prog.skip.run s.begun).coldT0.isNone = true := by rw [show (Prog.skip.run s.begun).coldT0 = none from hFirst]; rfl
  simp only [exec, execColdStart]
  exact (resetCommand_runs hWf).trans (congrArg _ (if_pos hGoes))

/-- The entry of stage POWER raises nothing. -/
theorem keeps_enterPower {l : List Piece} {R : List Fld} {T : List Nat} (hStage : DEV_STAT.STAGE ∈ R) (hTime : DEV_STAGE_TIME.US 0 ∈ R) : (enterStage 0).Keeps l R T :=
  keeps_look fun _ => keeps_seqs_cons (keeps_setF hStage) (keeps_seqs_cons (keeps_setF hTime)
    (keeps_seqs_cons (keeps_onlyIf fun h => absurd h (by decide)) keeps_seqs_nil))

theorem rd_enterPower (s : State) : ((enterStage 0).run s).rd DEV_STAT.STAGE = 0 := by
  rw [enterStage, run_look, run_seqs_cons, run_seqs_cons, run_seqs_cons, run_seqs_nil, run_onlyIf_false _ _ (by decide), rd_setF_apart _ _ (by unfold Fld.apart; decide),
    rd_setF_fits _ (by decide)]

/-- The fields that a cold start writes. -/
def coldFlds : List Fld := [DEV_SLOT.PINS, DEV_STAT.PWR_GOOD, BKP_STAT.ON_CELL, DEV_STAT.FATAL_LATCHED, CRY_STAT.FATAL, FAB_STAT.SAFE, DEV_STAT.STAGE, DEV_STAGE_TIME.US 0]

/-- The pieces that a cold start writes, MONO beside. -/
def coldPieces : List Piece := [.coldT0, .supVin12, .supVsb33, .resetLow, .slotPins]

theorem keeps_coldStartLast (slot : Nat) : (coldStartLast slot).Keeps coldPieces coldFlds [] := keeps_look fun s => keeps_seqs fun p hp => by
  have hPut : ∀ a : Act, a.piece ∈ coldPieces → (Prog.put a).Keeps coldPieces coldFlds [] := fun _ ha => keeps_putAmong (List.Subset.refl _) (by decide) ha
  simp only [List.mem_cons, List.not_mem_nil, or_false] at hp
  rcases hp with rfl | rfl | rfl | rfl | rfl | rfl | rfl | rfl | rfl | rfl
  · exact hPut _ (show Piece.coldT0 ∈ _ by decide)
  · exact hPut _ (show Piece.supVin12 ∈ _ by decide)
  · exact hPut _ (show Piece.supVsb33 ∈ _ by decide)
  · exact hPut _ (show Piece.resetLow ∈ _ by decide)
  · exact hPut _ (show Piece.slotPins ∈ _ by decide)
  iterate 3 exact keeps_setF (by decide)
  · exact keeps_onlyIf fun _ => keeps_seqs_cons (keeps_setF (by decide)) (keeps_seqs_cons (keeps_setF (by decide)) (keeps_seqs_cons (keeps_setF (by decide)) keeps_seqs_nil))
  · exact keeps_enterPower (by decide) (by decide)

/-- The pins are shown, and a Fatal latch that is set shows in the three status registers. -/
theorem coldStartLast_shows {slot : Nat} {s : State} (hSlot : slot < 1024) :
    let t := (coldStartLast slot).run s
    t.coldT0 = some 0 ∧ t.rd DEV_STAT.STAGE = 0 ∧ t.rd DEV_SLOT.PINS = slot ∧
      (s.fatalLatch = true → t.rd DEV_STAT.FATAL_LATCHED = 1 ∧ t.rd CRY_STAT.FATAL = 1 ∧ t.rd FAB_STAT.SAFE = 1) := by
  have hLast (f : Fld) (u : State) (hf : f.off < 65536) (hApart : ∀ g ∈ [DEV_STAT.STAGE, DEV_STAGE_TIME.US 0], g.off < 65536 ∧ g.apart f) :
      ((enterStage 0).run u).rd f = u.rd f := (keeps_enterPower (l := []) (T := []) (by simp) (by simp)).rd u f hf hApart
  have hShown : (onlyIf s.fatalLatch (seqs [setF DEV_STAT.FATAL_LATCHED 1, setF CRY_STAT.FATAL 1, setF FAB_STAT.SAFE 1])).Keeps []
      [DEV_STAT.FATAL_LATCHED, CRY_STAT.FATAL, FAB_STAT.SAFE] [] :=
    keeps_onlyIf fun _ => keeps_seqs_cons (keeps_setF (by simp)) (keeps_seqs_cons (keeps_setF (by simp)) (keeps_seqs_cons (keeps_setF (by simp)) keeps_seqs_nil))
  rw [coldStartLast, run_look]
  simp only [run_seqs_cons, run_seqs_nil]
  refine ⟨?_, rd_enterPower _, ?_, fun hFatal => ⟨?_, ?_, ?_⟩⟩
  · rw [← (keeps_enterPower (l := []) (R := [DEV_STAT.STAGE, DEV_STAGE_TIME.US 0]) (T := []) (by simp) (by simp)).same _ .coldT0 (by decide),
      ← hShown.same _ .coldT0 (by decide)]
    rfl
  · rw [hLast _ _ (by decide) (by unfold Fld.apart; decide), hShown.rd _ _ (by decide) (by unfold Fld.apart; decide), rd_setF_apart _ _ (by unfold Fld.apart; decide),
      rd_setF_apart _ _ (by unfold Fld.apart; decide), rd_setF_fits _ ⟨by decide, hSlot⟩]
  all_goals rw [hLast _ _ (by decide) (by unfold Fld.apart; decide), run_onlyIf_true _ _ hFatal, run_seqs_cons, run_seqs_cons, run_seqs_cons, run_seqs_nil]
  · rw [rd_setF_apart _ _ (by unfold Fld.apart; decide), rd_setF_apart _ _ (by unfold Fld.apart; decide), rd_setF_fits _ (by decide)]
  · rw [rd_setF_apart _ _ (by unfold Fld.apart; decide), rd_setF_fits _ (by decide)]
  · exact rd_setF_fits _ (by decide)

theorem coldStart_starts {slot : Nat} {s : State} (hWf : Instr.wellFormed (.coldStart slot) = true) (hFirst : s.coldT0 = none) :
    ∃ t, exec (.coldStart slot) s = .next t ∧ t.coldT0 = some 0 ∧ t.mono16 = 0 ∧ t.rd DEV_STAT.STAGE = 0 ∧ t.rd DEV_SLOT.PINS = slot ∧
      t.fatalLatch = s.fatalLatch ∧ (s.fatalLatch = true → t.rd DEV_STAT.FATAL_LATCHED = 1 ∧ t.rd CRY_STAT.FATAL = 1 ∧ t.rd FAB_STAT.SAFE = 1) ∧
      s.framed t [[.mono16, .coldT0, .supVin12, .supVsb33, .resetLow, .slotPins], irqPieces].flatten [DEV_SLOT.PINS, DEV_STAT.PWR_GOOD, BKP_STAT.ON_CELL,
        DEV_STAT.FATAL_LATCHED, CRY_STAT.FATAL, FAB_STAT.SAFE, DEV_STAT.STAGE, DEV_STAGE_TIME.US 0] [] := by
  have hSlot : slot < 1024 := by simpa only [Instr.wellFormed, decide_eq_true_eq] using hWf
  have hKeeps := keeps_coldStartLast slot
  obtain ⟨hT0, hStage, hPins, hFatal⟩ := coldStartLast_shows (s := s.begun.monoRestarted) hSlot
  refine ⟨_, exec_coldStart hWf hFirst, hT0, (hKeeps.same _ .mono16 (by decide)).symm, hStage, hPins, (hKeeps.same _ .fatalLatch (by decide)).symm, hFatal, ?_⟩
  refine State.framed_trans (begun_framed (by decide) s) (State.framed_trans ?_ (hKeeps.mono (by decide) (by decide) (by decide) _))
  exact ⟨fun f hf => s.begun.monoRestarted_onlyIn f fun h => hf (by simp_all), fun _ _ _ => rfl, fun _ _ => rfl⟩

/-! ### RAIL_FAIL (R513, R586) -/

section Only
variable {l : List Piece}

theorem only_setBitF {f : Fld} {b : Nat} {v : Bool} (h : .regs ∈ l) : (setBitF f b v).Only l := fun _ => only_setF h

theorem only_capture {page access space addr master cls kind data : Nat} (h : .regs ∈ l) (hl : irqPieces ⊆ l) :
    (capture page access space addr master cls kind data).Only l := fun _ =>
  all_ite ⟨only_setF h, only_setF h, only_setF h, h, only_setF h, only_setF h, only_setF h, only_setF h, only_raise h hl⟩ ⟨fun _ => only_setF h, only_setF h⟩

theorem only_crossFlit {die chan : Nat} {words : List Nat} (hTx : .dieTx ∈ l) (hRx : .dieRx ∈ l) (hEmit : .emitted ∈ l) : (crossFlit die chan words).Only l := fun _ =>
  all_ite (fun _ => ⟨hTx, hRx, only_emit hEmit, fun _ => all_onlyIf fun _ => only_emit hEmit⟩) fun _ => hTx

end Only

theorem keeps_crossFlit {l : List Piece} {R : List Fld} {T : List Nat} {die chan : Nat} {words : List Nat} (hTx : .dieTx ∈ l) (hRx : .dieRx ∈ l) (hEmit : .emitted ∈ l) :
    (crossFlit die chan words).Keeps l R T := keeps_look fun _ => keeps_ite
  (fun _ => keeps_look fun _ => keeps_seqs_cons (keeps_put hTx (by simp) (by simp)) (keeps_seqs_cons (keeps_put hRx (by simp) (by simp))
    (keeps_seqs_cons (keeps_emit hEmit) (keeps_seqs_cons (keeps_look fun _ => keeps_onlyIf fun _ => keeps_emit hEmit) keeps_seqs_nil))))
  fun _ => keeps_look fun _ => keeps_put hTx (by simp) (by simp)

/-- The safe state as the device shows it, its links beside. -/
def safeShown : Prog := seqs [
  .put .fatalLatch,
  setF DEV_STAT.FATAL_LATCHED 1,
  setF CRY_STAT.FATAL 1,
  setF FAB_STAT.SAFE 1,
  emit (.pin "FATAL_N" false),
  sideband [3],
  each (List.range 48) (fun p => emit (.signal 3 p true))]

theorem keeps_safeShown : safeShown.Keeps [.fatalLatch, .emitted, .dieTx, .dieRx] [DEV_STAT.FATAL_LATCHED, CRY_STAT.FATAL, FAB_STAT.SAFE] [] :=
  keeps_seqs_cons (keeps_put (by simp) (by simp) (by simp)) (keeps_seqs_cons (keeps_setF (by simp)) (keeps_seqs_cons (keeps_setF (by simp))
    (keeps_seqs_cons (keeps_setF (by simp)) (keeps_seqs_cons (keeps_emit (by simp))
    (keeps_seqs_cons (keeps_look fun _ => keeps_onlyIf fun _ => keeps_crossFlit (by simp) (by simp) (by simp))
    (keeps_seqs_cons (keeps_each fun _ _ => keeps_emit (by simp)) keeps_seqs_nil))))))

theorem only_safeShown : safeShown.Only [.fatalLatch, .regs, .emitted, .dieTx, .dieRx] :=
  ⟨show Piece.fatalLatch ∈ _ by decide, only_setF (by decide), only_setF (by decide), only_setF (by decide), only_emit (by decide),
    fun _ => all_onlyIf fun _ => only_crossFlit (by decide) (by decide) (by decide), all_each _ _ fun _ _ => only_emit (by decide)⟩

theorem fatalLatch_safeShown (s : State) : (safeShown.run s).fatalLatch = true := by
  rw [safeShown, run_seqs_cons]
  exact Prog.latch_run _ _ rfl

/-- A link's state lies in a register of its own. -/
theorem linkState_apart {l : Nat} (hl : l < 144) : ∀ g ∈ [DEV_STAT.FATAL_LATCHED, CRY_STAT.FATAL, FAB_STAT.SAFE] ++ errFlds 1,
    g.off < 65536 ∧ g.apart (FLC_LINK_STAT.STATE (l / 12) (l % 12)) := by
  have hPage : ∀ g ∈ [DEV_STAT.FATAL_LATCHED, CRY_STAT.FATAL, FAB_STAT.SAFE] ++ errFlds 1, g.off < 65536 ∧ g.page < 244 := by decide
  intro g hg
  obtain ⟨hOff, hLow⟩ := hPage g hg
  exact ⟨hOff, Or.inl (by simp only [FLC_LINK_STAT.STATE]; omega)⟩

theorem linkState_off (l : Nat) : (FLC_LINK_STAT.STATE (l / 12) (l % 12)).off < 65536 := by
  simp only [FLC_LINK_STAT.STATE]; omega

/-- With every link DISABLED the safe state is what the device shows. -/
theorem safeState_run {s : State} (hLatch : s.fatalLatch = false) (hDown : ∀ l < 144, s.linkState l = 0) : safeState.run s = safeShown.run s := by
  have hLinks : ∀ l ∈ List.range 144, ((safeShown.run s).linkState l != 0) = false := by
    intro l hMem
    have hl := List.mem_range.mp hMem
    have hSame : (safeShown.run s).linkState l = s.linkState l :=
      keeps_safeShown.rd s _ (linkState_off l) fun g hg => linkState_apart hl g (List.mem_append_left _ hg)
    rw [hSame, hDown l hl]
    rfl
  rw [safeState, run_look_onlyIf (c := fun u => !u.fatalLatch) (by rw [hLatch]; rfl)]
  simp only [run_seqs_cons, run_seqs_nil]
  exact run_each_look_skip _ hLinks

/-- What a rail that fails writes before the safe state (R60, R513). -/
def railReported (s : State) : Prog := seqs [
  capture 1 4 2 0 0xE000 4 0x24 0,
  raise 1 3,
  .put (.fatalQ (s.fatalQ ++ [(errorMsg s 1 0 0xE000 4 0x24, s.mono)]))]

theorem keeps_railReported (s : State) : (railReported s).Keeps (.fatalQ :: errPieces) (errFlds 1) [] :=
  keeps_seqs_cons (keeps_capture (by decide) (List.Subset.refl _)) (keeps_seqs_cons (keeps_raise (by decide) (by decide))
    (keeps_seqs_cons (keeps_put (show Piece.fatalQ ∈ _ by decide) (by simp) (by simp)) keeps_seqs_nil))

theorem fatalQ_railReported (s u : State) : ((railReported s).run u).fatalQ = s.fatalQ ++ [(errorMsg s 1 0 0xE000 4 0x24, s.mono)] := by
  rw [railReported, run_seqs_cons, run_seqs_cons, run_seqs_cons, run_seqs_nil]
  rfl

theorem railFail_run {s : State} (hStarted : s.coldT0.isSome = true) (hStage : s.rd DEV_STAT.STAGE = 0) (hRuns : s.stopped = false) (hLatch : s.fatalLatch = false)
    (hDown : ∀ l < 144, s.linkState l = 0) :
    exec .railFail s = .next (safeShown.run ((railReported ((Prog.put (.stopped true)).run s.begun)).run ((Prog.put (.stopped true)).run s.begun))) := by
  have hGoes : (s.begun.coldT0.isSome && s.begun.rd DEV_STAT.STAGE == 0 && !s.begun.stopped) = true := by
    rw [s.begun_rd, hStage, show s.begun.coldT0 = s.coldT0 from rfl, hStarted, show s.begun.stopped = false from hRuns]; rfl
  simp only [exec, execRailFail]
  refine (command_runs _ s rfl).trans (congrArg _ ?_)
  change (Prog.look _).run s.begun = _
  rw [run_look_onlyIf (c := fun u => u.coldT0.isSome && u.rd DEV_STAT.STAGE == 0 && !u.stopped) hGoes, run_andThen]
  generalize hu : (Prog.put (.stopped true)).run s.begun = u
  have hReported := keeps_railReported u
  rw [goFatal, run_look, ← safeState_run]
  · simp only [railReported, run_seqs_cons, run_seqs_nil]
  · exact (hReported.same u .fatalLatch (by decide)).symm.trans (hu ▸ hLatch)
  · intro l hl
    exact (hReported.rd u _ (linkState_off l) fun g hg => linkState_apart hl g (List.mem_append_right _ hg)).trans (hu ▸ hDown l hl)

theorem railFail_stops {s : State} (hStarted : s.coldT0.isSome = true) (hStage : s.rd DEV_STAT.STAGE = 0) (hRuns : s.stopped = false) (hLatch : s.fatalLatch = false)
    (hDown : (List.range 144).all (fun l => s.linkState l == 0) = true) :
    ∃ t, exec .railFail s = .next t ∧ t.stopped ∧ t.fatalLatch ∧ t.rd DEV_STAT.STAGE = 0 ∧
      t.fatalQ = s.fatalQ ++ [(errorMsg s 1 0 0xE000 4 0x24, s.mono)] ∧
      s.onlyIn t [countPieces, [.dieRx, .dieTx, .fatalLatch, .fatalQ, .linkX, .stopped, .unreachAt]].flatten := by
  have hLinks : ∀ l < 144, s.linkState l = 0 := fun l hl => by simpa using List.all_eq_true.mp hDown l (List.mem_range.mpr hl)
  have hReported := keeps_railReported ((Prog.put (.stopped true)).run s.begun)
  have hOnly : (railReported ((Prog.put (.stopped true)).run s.begun)).Only [countPieces, [.fatalQ]].flatten :=
    ⟨only_capture (by decide) (by decide), only_raise (by decide) (by decide), show Piece.fatalQ ∈ _ by decide⟩
  refine ⟨_, railFail_run hStarted hStage hRuns hLatch hLinks, ?_, fatalLatch_safeShown _, ?_, ?_, ?_⟩
  · exact (keeps_safeShown.same _ .stopped (by decide)).symm.trans (hReported.same _ .stopped (by decide)).symm
  · rw [keeps_safeShown.rd _ _ (by decide) (by unfold Fld.apart; decide), hReported.rd _ _ (by decide) (by unfold Fld.apart; decide)]
    exact hStage
  · exact (keeps_safeShown.same _ .fatalQ (by decide)).symm.trans (fatalQ_railReported _ _)
  · refine begun_onlyIn (by decide) (State.onlyIn_trans ?_ (State.onlyIn_trans ((hOnly.mono (by decide)).onlyIn _) ((only_safeShown.mono (by decide)).onlyIn _)))
    exact Prog.Only.onlyIn (p := .put (.stopped true)) (show Piece.stopped ∈ _ by decide) _

end Sys2Proof.Machine
end

