-- ==== Sys2Proof/Proofs/StartStages.lean ====
section
/-!
PROOF. The stages of a start: POWER to FUSES, HELD, FULL, and the boot that tries again (spec/15_start_up.md R518 to R529).
-/
namespace Sys2Proof.Machine

/-- The pieces that a stage of the start may write. -/
def stageStepPieces : List Piece :=
  [hostPieces, linkPieces, [.bkpCopied, .blkUp, .bodies, .bootAt, .bucketPend, .cageX, .confirmEnd, .copyArea, .coreTag, .cryPend,
    .cryQueue, .ctl, .dieDownAt, .erases, .fatalLatch, .fatalQ, .flxHeld, .fresh, .gateX, .genEpoch, .gens, .inQ, .instX, .latchDue, .linkX,
    .macQ, .memX, .millAll, .pegDue, .pegs, .pmX, .qx, .recov, .regs, .rpfTx, .rprEvt, .rxFifo, .rxXoff, .startVal, .storeQ, .tables, .tcFlip,
    .tcamLoad, .time16, .txNow, .unitX, .units, .unreachAt, .updSlot, .xoff]].flatten

/-! ### POWER to FUSES (R518, R520 step 2) -/

theorem onlyIn_toFuses (s : State) : s.onlyIn (toFuses.run s) stageStepPieces := by
  rw [toFuses_run]
  have hUp := (keeps_fusesUp s).onlyIn (l' := stageStepPieces) (by decide)
  have hTaken := fun u => ((keeps_slotTaken s) u).onlyIn (l' := stageStepPieces) (by decide)
  have hRest := fun u => ((keeps_fusesRest s) u).onlyIn (l' := stageStepPieces) (by decide)
  exact State.onlyIn_trans hUp (State.onlyIn_trans (hTaken _) (hRest _))

theorem toFuses_enters (s : State) : (toFuses.run s).rd DEV_STAT.STAGE = 1 ∧ ((toFuses.run s).regsAt (regKey 1 0x10)).getLsbD 16 = true := by
  rw [toFuses_run, fusesRest, run_seqs_cons, run_seqs_cons, run_seqs_cons, run_seqs_nil]
  exact ⟨rd_enterStage _ (by decide), getLsbD_enterStage _ (by decide)⟩

theorem toFuses_brings (s : State) {p : Nat} (hp : p ∈ [0, 1, 2, 3]) : (toFuses.run s).blkUpAt p = true := by
  have hRest : (toFuses.run s).blkUpAt p = ((each [0, 1, 2, 3] blockUp).run s).blkUpAt p := by
    have hTaken := fun u => (keeps_slotTaken s).same u .blkUp (by decide)
    have hRest := fun u => (keeps_fusesRest s).same u .blkUp (by decide)
    rw [toFuses_run]
    exact congrArg (fun m => Sp.get _ m p) ((hTaken _).trans (hRest _)).symm
  rw [hRest, blkUpAt_each_blockUp, decide_eq_true hp, Bool.true_or]

theorem stageAdvance_fuses {ok : Bool} {defects : List Nat} {s : State} (hWf : Instr.wellFormed (.stageAdvance ok defects) = true) (hStarted : s.coldT0.isSome = true)
    (hPower : s.rd DEV_STAT.STAGE = 0) (hRuns : s.stopped = false) (hDue : s.latchDue = true) (hPins : s.slotPins < 1024) :
    ∃ t, exec (.stageAdvance ok defects) s = .next t ∧ t.rd DEV_STAT.STAGE = 1 ∧
      t.blkUpAt 0 = true ∧ t.blkUpAt 1 = true ∧ t.blkUpAt 2 = true ∧ t.blkUpAt 3 = true ∧ t.rd DEV_SLOT.LATCHED = s.slotPins ∧
      t.rd FAB_DEV_ID.ID = s.slotPins ∧ t.latchDue = false ∧ (t.regsAt (regKey 1 0x10)).getLsbD 16 ∧ s.onlyIn t stageStepPieces := by
  obtain ⟨hStage, hBit⟩ := toFuses_enters s.begun
  obtain ⟨hTaken, hLatched, hId⟩ := toFuses_latches (s := s.begun) hPins
  have hBegunDue : s.begun.latchDue = true := hDue
  rw [if_pos hBegunDue] at hLatched hId
  exact ⟨_, stageAdvance_power hWf hStarted hPower hRuns, hStage, toFuses_brings _ (by decide), toFuses_brings _ (by decide), toFuses_brings _ (by decide),
    toFuses_brings _ (by decide), hLatched, hId, hTaken, hBit, begun_onlyIn (by decide) (onlyIn_toFuses _)⟩

/-! ### HELD (R519) -/

/-- What the main core does when it first runs, MAIN_UP beside. -/
def mainStartsRest : Prog := seqs [
  journalStart,
  bkpCopyLog,
  .look fun s => onlyIf (s.rd PPR_STAT.BREACH == 1) breachFault,
  .look fun s => onlyIf (s.rd CRY_FATAL_STAT.VALID == 1)
    (recordLater { mkRecord s 14 0x2000 0 0 0 (s.reg 5 0x270).toNat (s.rd CRY_FATAL_STAT.COUNT) with persist := true }),
  each [0, 1] (fun k => .look fun s => match s.snapSlotAt k with
    | some x => .andThen (setF (UPD_SNAP_JSEQ_LO.JSEQ k) (x.jseq % 2 ^ 32)) (setF (UPD_SNAP_JSEQ_HI.JSEQ k) (x.jseq / 2 ^ 32))
    | none => .skip)]

theorem mainStarts_run (s : State) : mainStarts.run s = mainStartsRest.run ((setF DEV_STAT.MAIN_UP 1).run s) := by
  simp only [mainStarts, mainStartsRest, run_seqs_cons, run_seqs_nil] <;> rfl

/-- The pieces and the fields that the main core's first run may write. -/
def mainStartsPieces : List Piece := [.bkpCopied, .cryQueue, .cryPend] ++ recPieces
def mainStartsFlds : List Fld := recFlds ++ errFlds 7 ++ irqFlds 7 18 ++
  [UPD_SNAP_JSEQ_LO.JSEQ 0, UPD_SNAP_JSEQ_HI.JSEQ 0, UPD_SNAP_JSEQ_LO.JSEQ 1, UPD_SNAP_JSEQ_HI.JSEQ 1]

section Keeps
variable {l : List Piece} {R : List Fld} {T : List Nat}

theorem keeps_journalStart (hl : recPieces ⊆ l) (hR : recFlds ⊆ R) : journalStart.Keeps l R T := keeps_look fun _ =>
  keeps_seqs_cons (keeps_put (hl (show Piece.jnlSeq ∈ _ by decide)) (by simp) (by simp))
    (keeps_seqs_cons (keeps_put (hl (show Piece.jnlPre ∈ _ by decide)) (by simp) (by simp))
      (keeps_seqs_cons (keeps_look fun _ => keeps_numberRecord hl hR) (keeps_seqs_cons (keeps_each fun _ _ => keeps_acceptRecord hl hR) keeps_seqs_nil)))

theorem keeps_bkpCopyLog (hCopied : .bkpCopied ∈ l) (hl : recPieces ⊆ l) (hR : recFlds ⊆ R) : bkpCopyLog.Keeps l R T := keeps_look fun _ =>
  keeps_andThen
    (keeps_each fun _ _ => keeps_look fun _ => keeps_onlyIf fun _ => keeps_andThen (keeps_recordLater hl hR) (keeps_put hCopied (by simp) (by simp)))
    (keeps_onlyIf fun _ => keeps_recordEvent hl hR)

theorem keeps_breachFault (hErr : errPieces ⊆ l) (hErrR : errFlds 7 ⊆ R) (hl : recPieces ⊆ l) (hR : recFlds ⊆ R) (hIrq : irqFlds 7 18 ⊆ R) :
    breachFault.Keeps l R T := keeps_look fun _ =>
  keeps_seqs_cons (keeps_recordEvent hl hR) (keeps_seqs_cons (keeps_report hErr hErrR)
    (keeps_seqs_cons (keeps_raise (recPieces_irq hl) fun _ hx => hErrR (List.mem_append_right _ hx))
      (keeps_seqs_cons (keeps_raise (recPieces_irq hl) hIrq) keeps_seqs_nil)))

end Keeps

theorem keeps_mainStartsRest : mainStartsRest.Keeps mainStartsPieces mainStartsFlds [] := by
  have hShown : ∀ k ∈ [0, 1], UPD_SNAP_JSEQ_LO.JSEQ k ∈ mainStartsFlds ∧ UPD_SNAP_JSEQ_HI.JSEQ k ∈ mainStartsFlds := by decide
  refine keeps_seqs_cons (keeps_journalStart (by decide) (by decide)) (keeps_seqs_cons (keeps_bkpCopyLog (by decide) (by decide) (by decide))
    (keeps_seqs_cons (keeps_look fun _ => keeps_onlyIf fun _ => keeps_breachFault (by decide) (by decide) (by decide) (by decide) (by decide))
      (keeps_seqs_cons (keeps_look fun _ => keeps_onlyIf fun _ => keeps_recordLater (by decide) (by decide))
        (keeps_seqs_cons (keeps_each fun k hk => keeps_look fun s => ?_) keeps_seqs_nil))))
  obtain ⟨hLo, hHi⟩ := hShown k hk
  cases s.snapSlotAt k with
  | none => exact keeps_skip
  | some x => exact keeps_andThen (keeps_setF hLo) (keeps_setF hHi)

/-- The fields that show what faults are open, on the pages `ps`. -/
def openFlds (ps : List Nat) : List Fld := CRY_STAT.OPEN_CONTAINED :: CRY_STAT.OPEN_DEGRADED :: ps.map BLK_STAT.OPEN_CLASS

theorem keeps_refreshOpens (ps : List Nat) : (each ps refreshOpen).Keeps [] (openFlds ps) [] := keeps_each fun p hp => keeps_look fun _ =>
  keeps_seqs_cons (keeps_setF (List.mem_cons_of_mem _ (List.mem_cons_of_mem _ (List.mem_map_of_mem hp))))
    (keeps_seqs_cons (keeps_setF (by simp [openFlds])) (keeps_seqs_cons (keeps_setF (by simp [openFlds])) keeps_seqs_nil))

/-- DEV_STAT lies apart from what shows the open faults. -/
theorem openFlds_mainUp (ps : List Nat) : ∀ g ∈ openFlds ps, g.off < 65536 ∧ g.apart DEV_STAT.MAIN_UP := by
  intro g hg
  rcases List.mem_cons.mp hg with rfl | hg
  · exact ⟨by decide, by unfold Fld.apart; decide⟩
  rcases List.mem_cons.mp hg with rfl | hg
  · exact ⟨by decide, by unfold Fld.apart; decide⟩
  obtain ⟨p, -, rfl⟩ := List.mem_map.mp hg
  exact ⟨by simp [BLK_STAT.OPEN_CLASS], Or.inr (Or.inl (by simp [BLK_STAT.OPEN_CLASS, DEV_STAT.MAIN_UP]))⟩

/-- The pages that come up in HELD. -/
def heldFlds : List Fld := [5, 6, 7, 8].flatMap fun p => [BLK_CTRL.ENABLE p, BLK_STAT.READY p]

theorem keeps_heldUp : (each [5, 6, 7, 8] blockUp).Keeps [.blkUp] heldFlds [] :=
  keeps_each fun p hp => keeps_blockUp (by simp) (List.mem_flatMap.2 ⟨p, hp, by simp⟩) (List.mem_flatMap.2 ⟨p, hp, by simp⟩)

/-- What follows MAIN_UP at the entry of HELD, where `ps` are the pages whose open faults show. -/
def heldRest (ps : List Nat) : Prog := .andThen mainStartsRest (.andThen (each ps refreshOpen) (enterStage 8))

/-- The entry of HELD, with the pages whose open faults show. -/
def toHeldOn (ps : List Nat) : Prog := seqs [each [5, 6, 7, 8] blockUp, mainStarts, each ps refreshOpen, enterStage 8]

theorem toHeld_eq : toHeld = toHeldOn allPages := rfl

theorem toHeldOn_run (ps : List Nat) (s : State) : (toHeldOn ps).run s = (heldRest ps).run ((setF DEV_STAT.MAIN_UP 1).run ((each [5, 6, 7, 8] blockUp).run s)) := by
  rw [toHeldOn, heldRest, run_seqs_cons, run_seqs_cons, run_seqs_cons, run_seqs_cons, run_seqs_nil, run_andThen, run_andThen, mainStarts_run]

/-- The fields that `heldRest` writes. -/
def heldRestFlds (ps : List Nat) : List Fld := mainStartsFlds ++ openFlds ps ++ stageEntryFlds 8

theorem keeps_heldRest (ps : List Nat) : (heldRest ps).Keeps mainStartsPieces (heldRestFlds ps) [] :=
  keeps_andThen (keeps_mainStartsRest.mono (List.Subset.refl _) (fun _ h => List.mem_append_left _ (List.mem_append_left _ h)) (List.Subset.refl _))
    (keeps_andThen ((keeps_refreshOpens ps).mono (List.nil_subset _) (fun _ h => List.mem_append_left _ (List.mem_append_right _ h)) (List.Subset.refl _))
      (keeps_enterStage (by decide) fun _ h => List.mem_append_right _ h))

theorem heldRestFlds_mainUp (ps : List Nat) : ∀ g ∈ heldRestFlds ps, g.off < 65536 ∧ g.apart DEV_STAT.MAIN_UP := by
  have hRest : ∀ g ∈ mainStartsFlds ++ stageEntryFlds 8, g.off < 65536 ∧ g.apart DEV_STAT.MAIN_UP := by unfold Fld.apart; decide
  intro g hg
  rcases List.mem_append.mp hg with hg | hg
  · rcases List.mem_append.mp hg with hg | hg
    · exact hRest g (List.mem_append_left _ hg)
    · exact openFlds_mainUp _ g hg
  · exact hRest g (List.mem_append_right _ hg)

theorem toHeldOn_brings (ps : List Nat) (s : State) {p : Nat} (hp : p ∈ [5, 6, 7, 8]) : ((toHeldOn ps).run s).blkUpAt p = true := by
  have hRest : ((toHeldOn ps).run s).blkUpAt p = ((each [5, 6, 7, 8] blockUp).run s).blkUpAt p := by
    have hKept : ∀ u : State, ((heldRest ps).run u).blkUp = u.blkUp := fun u => ((keeps_heldRest ps).same u .blkUp (by decide)).symm
    have hShown : ∀ u : State, ((setF DEV_STAT.MAIN_UP 1).run u).blkUp = u.blkUp := fun u =>
      ((keeps_setF (l := []) (R := [DEV_STAT.MAIN_UP]) (T := []) List.mem_cons_self).same u .blkUp (by decide)).symm
    rw [toHeldOn_run, State.blkUpAt, hKept, hShown, ← State.blkUpAt]
  rw [hRest, blkUpAt_each_blockUp, decide_eq_true hp, Bool.true_or]

theorem toHeldOn_stage (ps : List Nat) (s : State) : ((toHeldOn ps).run s).rd DEV_STAT.STAGE = 8 := by
  rw [toHeldOn_run, heldRest, run_andThen, run_andThen]
  exact rd_enterStage _ (by decide)

theorem toHeldOn_mainUp (ps : List Nat) (s : State) : ((toHeldOn ps).run s).rd DEV_STAT.MAIN_UP = 1 := by
  rw [toHeldOn_run, (keeps_heldRest ps).rd _ _ (by decide) (heldRestFlds_mainUp ps), rd_setF_fits _ (by decide)]

theorem onlyIn_toHeldOn (ps : List Nat) (s : State) : s.onlyIn ((toHeldOn ps).run s) stageStepPieces := by
  have hUp := (keeps_heldUp s).onlyIn (l' := stageStepPieces) (by decide)
  have hShown : (setF DEV_STAT.MAIN_UP 1).Only stageStepPieces := only_setF (by decide)
  have hRest := fun u => ((keeps_heldRest ps) u).onlyIn (l' := stageStepPieces) (by decide)
  rw [toHeldOn_run]
  exact State.onlyIn_trans hUp (State.onlyIn_trans (hShown.onlyIn _) (hRest _))

/-- With the Fatal latch set the stage that follows MAIN_BOOT is HELD. -/
theorem exec_stageHeld {ok : Bool} {defects : List Nat} {s : State} (hWf : Instr.wellFormed (.stageAdvance ok defects) = true) (hStarted : s.coldT0.isSome = true)
    (hStage : s.rd DEV_STAT.STAGE = 3) (hRecovery : s.rd DEV_STAT.RECOVERY = 0) (hBoot : s.bootAt.isSome = true) (hLatch : s.fatalLatch = true) :
    exec (.stageAdvance ok defects) s = .next ((toHeldOn allPages).run s.begun) := by
  have hGoes : (s.begun.rd DEV_STAT.RECOVERY == 0 && s.begun.bootAt.isSome) = true := by
    rw [s.begun_rd, hRecovery, show s.begun.bootAt = s.bootAt from rfl, hBoot]; rfl
  simp only [exec, execStageAdvance]
  refine (command_runs _ s hWf).trans (congrArg _ ?_)
  change (Prog.look _).run s.begun = _
  rw [run_look_onlyIf (c := fun u => u.coldT0.isSome) (s := s.begun) hStarted]
  simp only [State.begun_rd, hStage, show (3 == 0) = false from rfl, show (3 == 1) = false from rfl, show (3 == 2) = false from rfl, beq_self_eq_true, if_true,
    Bool.false_eq_true, if_false]
  rw [← s.begun_rd]
  exact (run_onlyIf_true _ _ hGoes).trans (congrArg (fun p => Prog.run p s.begun) ((if_pos hLatch).trans toHeld_eq))

theorem stageAdvance_held {ok : Bool} {defects : List Nat} {s : State} (hWf : Instr.wellFormed (.stageAdvance ok defects) = true) (hStarted : s.coldT0.isSome = true)
    (hStage : s.rd DEV_STAT.STAGE = 3) (hRecovery : s.rd DEV_STAT.RECOVERY = 0) (hBoot : s.bootAt.isSome = true) (hLatch : s.fatalLatch = true) :
    ∃ t, exec (.stageAdvance ok defects) s = .next t ∧ t.rd DEV_STAT.STAGE = 8 ∧ t.rd DEV_STAT.MAIN_UP = 1 ∧ t.blkUpAt 5 = true ∧ t.blkUpAt 6 = true ∧
      t.blkUpAt 7 = true ∧ t.blkUpAt 8 = true ∧ t.fatalLatch ∧ s.onlyIn t stageStepPieces := by
  have hUp : ∀ p ∈ [5, 6, 7, 8], ((toHeldOn allPages).run s.begun).blkUpAt p = true := fun p hp => toHeldOn_brings allPages _ hp
  exact ⟨_, exec_stageHeld hWf hStarted hStage hRecovery hBoot hLatch, toHeldOn_stage _ _, toHeldOn_mainUp _ _, hUp 5 (by decide), hUp 6 (by decide),
    hUp 7 (by decide), hUp 8 (by decide), Prog.latch_run _ _ hLatch, begun_onlyIn (by decide) (onlyIn_toHeldOn _ _)⟩

/-! ### FULL (R520 step 9, R527) -/

theorem exec_stageFull {ok : Bool} {defects : List Nat} {s : State} (hWf : Instr.wellFormed (.stageAdvance ok defects) = true) (hStarted : s.coldT0.isSome = true)
    (hStage : s.rd DEV_STAT.STAGE = 6) (hReady : s.fullStart = true) : exec (.stageAdvance ok defects) s = .next (toFull.run s.begun) := by
  have hReady' : s.begun.fullStart = true := hReady
  simp only [exec, execStageAdvance]
  refine (command_runs _ s hWf).trans (congrArg _ ?_)
  change (Prog.look _).run s.begun = _
  rw [run_look_onlyIf (c := fun u => u.coldT0.isSome) (s := s.begun) hStarted]
  simp only [State.begun_rd, hStage, show (6 == 0) = false from rfl, show (6 == 1) = false from rfl, show (6 == 2) = false from rfl, show (6 == 3) = false from rfl,
    show (6 == 4) = false from rfl, show (6 == 5) = false from rfl, beq_self_eq_true, if_true, Bool.false_eq_true, if_false]
  exact run_onlyIf_true _ _ hReady'

/-- The pages whose READY waits for FULL. -/
def fullPages : List Nat := 146 :: (List.range 16).map (fun d => 152 + d)

theorem toFull_run {s : State} (hPegs : s.pegs = []) :
    toFull.run s = (enterStage 7).run ((raise 1 18).run ((setF DEV_STAT.FULL_READY 1).run ((each fullPages fun p => setF (BLK_STAT.READY p) 1).run s))) := by
  rw [toFull, run_look, run_seqs_cons, run_seqs_cons, run_seqs_cons, run_seqs_cons, run_seqs_cons, run_seqs_nil, hPegs]
  rfl

theorem keeps_stageSeven : (enterStage 7).Keeps irqPieces (stageEntryFlds 7) [] := keeps_enterStage (List.Subset.refl _) (List.Subset.refl _)

theorem stageAdvance_full {ok : Bool} {defects : List Nat} {s : State} (hWf : Instr.wellFormed (.stageAdvance ok defects) = true) (hStarted : s.coldT0.isSome = true)
    (hStage : s.rd DEV_STAT.STAGE = 6) (hReady : s.fullStart = true) (hPegs : s.pegs = []) :
    ∃ t, exec (.stageAdvance ok defects) s = .next t ∧ t.rd DEV_STAT.STAGE = 7 ∧ t.rd DEV_STAT.FULL_READY = 1 ∧
      (t.regsAt (regKey 1 0x10)).getLsbD 18 ∧ s.onlyIn t stageStepPieces := by
  have hPages : (each fullPages fun p => setF (BLK_STAT.READY p) 1).Only stageStepPieces := all_each _ _ fun _ _ => only_setF (by decide)
  have hShown : (setF DEV_STAT.FULL_READY 1).Only stageStepPieces := only_setF (by decide)
  have hRaised : (raise 1 18).Only stageStepPieces := only_raise (by decide) (by decide)
  have hStageOnly := fun u => (keeps_stageSeven u).onlyIn (l' := stageStepPieces) (by decide)
  have hKept := fun u => (keeps_stageSeven u).2.1 (regKey 1 0x10) 18 (by unfold Fld.covers; decide)
  refine ⟨_, exec_stageFull hWf hStarted hStage hReady, ?_⟩
  rw [toFull_run (s := s.begun) hPegs]
  refine ⟨rd_enterStage _ (by decide), ?_, ?_, begun_onlyIn (by decide) ?_⟩
  · rw [keeps_stageSeven.rd _ _ (by decide) (by unfold Fld.apart; decide), rd_raise _ (by decide), rd_setF_fits _ (by decide)]
  · rw [hKept]
    exact getLsbD_raise _ (by decide) (by decide) (by decide)
  · exact State.onlyIn_trans (hPages.onlyIn _) (State.onlyIn_trans (hShown.onlyIn _) (State.onlyIn_trans (hRaised.onlyIn _) (hStageOnly _)))

/-! ### The boot that tries again (R524, R632) -/

/-- The pieces that a boot that tries again may write. -/
def bootTimeoutPieces : List Piece := [[.regs, .blkUp, .bootAt, .ctl, .copyArea, .erases, .storeQ, .updSlot], irqPieces].flatten

theorem only_ctlShow (c : Control) : (ctlShow c).Only [.ctl, .regs] := fun s => all_seqs _ fun p hp => by
  simp only [List.mem_cons, List.not_mem_nil, or_false] at hp
  rcases hp with rfl | rfl | rfl | rfl | rfl | rfl | rfl | rfl | rfl | rfl | rfl | rfl | rfl
  · exact List.mem_cons_self
  iterate 4 exact (show Piece.regs ∈ _ by decide)
  iterate 8 exact only_setF (by decide)

theorem only_blockUp {p : Nat} : (blockUp p).Only bootTimeoutPieces := ⟨show Piece.blkUp ∈ _ by decide, only_setF (by decide), only_setF (by decide)⟩

/-- The core in recovery: its blocks come up, and its time runs from now. -/
def bootRecovers (now : Nat) : Prog := seqs [setF DEV_STAT.RECOVERY 1, each [5, 7, 8] blockUp, .put (.updSlot none), .put (.bootAt (some now))]

theorem only_bootRecovers (now : Nat) : (bootRecovers now).Only bootTimeoutPieces :=
  ⟨only_setF (by decide), all_each _ _ fun _ _ => only_blockUp, show Piece.updSlot ∈ _ by decide, show Piece.bootAt ∈ _ by decide⟩

theorem bootRecovers_run (now : Nat) (s : State) : (bootRecovers now).run s = (Prog.put (.bootAt (some now))).run
    ((Prog.put (.updSlot none)).run ((each [5, 7, 8] blockUp).run ((setF DEV_STAT.RECOVERY 1).run s))) := by
  rw [bootRecovers, run_seqs_cons, run_seqs_cons, run_seqs_cons, run_seqs_cons, run_seqs_nil]

theorem ctl_ctlShow (c : Control) (s : State) : ((ctlShow c).run s).ctl = c := by
  rw [ctlShow, run_look, run_seqs_cons]
  refine ((Prog.Only.onlyIn (l := [.regs]) (all_seqs _ fun p hp => ?_) _ .ctl (by decide)).symm).trans rfl
  simp only [List.mem_cons, List.not_mem_nil, or_false] at hp
  rcases hp with rfl | rfl | rfl | rfl | rfl | rfl | rfl | rfl | rfl | rfl | rfl | rfl
  iterate 4 exact (show Piece.regs ∈ _ by decide)
  iterate 8 exact only_setF (by decide)

/-- Where no slot verifies, the boot ROM shows the CONTROL it has chosen and starts the core in recovery. -/
theorem bootRom_recovers {s : State} (hPower : s.rd DEV_STAT.PF_WARN = 0) (hNone : (bootChoose s s.ctl.noPartial 8).2.1 = none) :
    ∃ u : State, s.onlyIn u bootTimeoutPieces ∧ u.ctl = (bootChoose s s.ctl.noPartial 8).1 ∧ bootRom.run s = (bootRecovers s.mono).run u := by
  have hUp : (fun p => seqs [.put (.blkUp p true), setF (BLK_CTRL.ENABLE p) 1, setF (BLK_STAT.READY p) 1]) = blockUp := rfl
  rw [bootRom, run_look]
  generalize bootChoose s s.ctl.noPartial 8 = r at *
  simp only [hPower, show (0 == 1) = false from rfl, Bool.and_false, Bool.false_eq_true, if_false, hNone]
  rw [hUp, run_seqs_cons, run_seqs_cons, run_seqs_cons, run_seqs_cons, run_seqs_cons, run_seqs_cons, run_seqs_nil, run_andThen]
  simp only [bootRecovers_run]
  have hShow : (ctlShow r.1).Only bootTimeoutPieces := (only_ctlShow _).mono (by decide)
  have hRaise : (onlyIf r.2.2 (raise 8 19)).Only bootTimeoutPieces := all_onlyIf fun _ => only_raise (by decide) (by decide)
  have hRaiseCtl : ∀ u : State, ((onlyIf r.2.2 (raise 8 19)).run u).ctl = u.ctl := fun u =>
    ((keeps_onlyIf fun _ => keeps_raise (l := irqPieces) (T := []) (List.Subset.refl _) (List.Subset.refl _)).same u .ctl (by decide)).symm
  refine ⟨_, State.onlyIn_trans (Prog.Only.onlyIn ?_ _) (State.onlyIn_trans (hShow.onlyIn _) (hRaise.onlyIn _)), (hRaiseCtl _).trans (ctl_ctlShow _ _), rfl⟩
  exact all_onlyIf fun _ => ⟨fun _ => show Piece.erases ∈ _ by decide, fun _ => show Piece.copyArea ∈ _ by decide, show Piece.storeQ ∈ _ by decide⟩

/-- The choice among the slots reads nothing of what a step sends out. -/
theorem bootChoose_begun (s : State) : ∀ (n : Nat) (c : Control), bootChoose s.begun c n = bootChoose s c n
  | 0, _ => rfl
  | n + 1, c => by
    have hTag : ∀ b k, s.begun.sectionTagOk b k = s.sectionTagOk b k := fun _ _ => rfl
    simp only [bootChoose, bootChoose_begun s n, hTag]

/-- The fields of the blocks that recovery brings up. -/
def bootUpFlds : List Fld := [5, 7, 8].flatMap fun p => [BLK_CTRL.ENABLE p, BLK_STAT.READY p]

theorem keeps_bootUp : (each [5, 7, 8] blockUp).Keeps [.blkUp] bootUpFlds [] :=
  keeps_each fun p hp => keeps_blockUp (by simp) (List.mem_flatMap.2 ⟨p, hp, by simp⟩) (List.mem_flatMap.2 ⟨p, hp, by simp⟩)

/-- The time of the core's start is set, and no download is under way. -/
theorem bootSet_apply (now : Nat) (u : State) :
    ((Prog.put (.bootAt (some now))).run ((Prog.put (.updSlot none)).run u)).bootAt = some now ∧
    ((Prog.put (.bootAt (some now))).run ((Prog.put (.updSlot none)).run u)).ctl = u.ctl ∧
    (∀ f, ((Prog.put (.bootAt (some now))).run ((Prog.put (.updSlot none)).run u)).rd f = u.rd f) ∧
    ∀ p, ((Prog.put (.bootAt (some now))).run ((Prog.put (.updSlot none)).run u)).blkUpAt p = u.blkUpAt p := ⟨rfl, rfl, fun _ => rfl, fun _ => rfl⟩

theorem bootRecovers_shows (now : Nat) (s : State) :
    ((bootRecovers now).run s).rd DEV_STAT.RECOVERY = 1 ∧ ((bootRecovers now).run s).bootAt = some now ∧
      (∀ p ∈ [5, 7, 8], ((bootRecovers now).run s).blkUpAt p = true) ∧ ((bootRecovers now).run s).ctl = s.ctl := by
  have hSet : ∀ u : State, ((setF DEV_STAT.RECOVERY 1).run u).ctl = u.ctl := fun u =>
    ((only_setF (l := [.regs]) (by decide)).onlyIn u .ctl (by decide)).symm
  have hUp : ∀ u : State, ((each [5, 7, 8] blockUp).run u).ctl = u.ctl := fun u => (keeps_bootUp.same u .ctl (by decide)).symm
  obtain ⟨hAt, hCtl, hRd, hBlk⟩ := bootSet_apply now ((each [5, 7, 8] blockUp).run ((setF DEV_STAT.RECOVERY 1).run s))
  rw [bootRecovers_run]
  refine ⟨?_, hAt, fun p hp => ?_, ?_⟩
  · rw [hRd, keeps_bootUp.rd _ _ (by decide) (by unfold Fld.apart; decide), rd_setF_fits _ (by decide)]
  · rw [hBlk, blkUpAt_each_blockUp, decide_eq_true hp, Bool.true_or]
  · rw [hCtl, hUp, hSet]

theorem mainBootTimeout_recovers {from_ : Nat} {s : State} (hStarted : s.coldT0.isSome = true) (hStage : s.rd DEV_STAT.STAGE = 3) (hRecovery : s.rd DEV_STAT.RECOVERY = 0)
    (hBoot : s.bootAt = some from_) (hLong : s.since from_ 2000000000 = true) (hPower : s.rd DEV_STAT.PF_WARN = 0) (hNone : (bootChoose s s.ctl.noPartial 8).2.1 = none) :
    ∃ t, exec .mainBootTimeout s = .next t ∧ t.rd DEV_STAT.RECOVERY = 1 ∧ t.bootAt = some s.mono ∧ t.blkUpAt 5 = true ∧ t.blkUpAt 7 = true ∧
      t.blkUpAt 8 = true ∧ t.ctl = (bootChoose s s.ctl.noPartial 8).1 ∧ s.onlyIn t bootTimeoutPieces := by
  have hChoice : bootChoose s.begun s.begun.ctl.noPartial 8 = bootChoose s s.ctl.noPartial 8 := bootChoose_begun s 8 _
  obtain ⟨u, hOnly, hCtl, hRun⟩ := bootRom_recovers (s := s.begun) hPower (by rw [hChoice]; exact hNone)
  rw [hChoice] at hCtl
  have hSince : ∀ a n : Nat, s.begun.since a n = s.since a n := fun _ _ => rfl
  have hExec : exec .mainBootTimeout s = .next ((bootRecovers s.begun.mono).run u) := by
    simp only [exec, execMainBootTimeout]
    refine (command_runs _ s rfl).trans (congrArg _ ?_)
    change (Prog.look _).run s.begun = _
    rw [run_look, run_onlyIf_true _ _ ?_, hRun]
    simp only [State.begun_rd, hStage, hRecovery, show s.begun.coldT0 = s.coldT0 from rfl, hStarted, show s.begun.bootAt = some from_ from hBoot, hSince, hLong]
    rfl
  obtain ⟨hShown, hAt, hUp, hKept⟩ := bootRecovers_shows s.begun.mono u
  exact ⟨_, hExec, hShown, hAt, hUp 5 (by decide), hUp 7 (by decide), hUp 8 (by decide), hKept.trans hCtl,
    begun_onlyIn (by decide) (State.onlyIn_trans hOnly ((only_bootRecovers _).onlyIn _))⟩

/-- Settles O30: a cold start, the rail that fails, the stages FUSES, HELD and FULL, and the boot that tries again. -/
theorem coldStart : Obligations.ColdStart := by
  unfold Obligations.ColdStart
  exact ⟨fun _ _ hWf hFirst => coldStart_starts hWf hFirst,
    fun _ _ hStarted hStage hRuns hLatch hDown => railFail_stops hStarted hStage hRuns hLatch hDown,
    fun _ _ _ hWf hStarted hStage hRuns hDue hPins => stageAdvance_fuses hWf hStarted hStage hRuns hDue hPins,
    fun _ _ _ hWf hStarted hStage hRecovery hBoot hLatch => stageAdvance_held hWf hStarted hStage hRecovery hBoot hLatch,
    fun _ _ _ hWf hStarted hStage hReady hPegs => stageAdvance_full hWf hStarted hStage hReady hPegs,
    fun _ _ _ hStarted hStage hRecovery hBoot hLong hPower hNone => mainBootTimeout_recovers hStarted hStage hRecovery hBoot hLong hPower hNone⟩

end Sys2Proof.Machine
end

