-- ==== Sys2Proof/Proofs/ModuleInsertion.lean ====
section
/-!
PROOF. The steps of a module's insertion (spec/15_start_up.md R530 to R532, spec/03_ports_and_framing.md R96 to R98).
-/
namespace Sys2Proof.Machine

/-! ### What the check of a module's media type leaves -/

theorem emitted_each {α : Type} {f : α → Prog} : ∀ {as : List α}, (∀ a ∈ as, (f a).KeepsEmitted) → (each as f).KeepsEmitted
  | [], _ => emitted_skip
  | a :: r, h => emitted_andThen (h a List.mem_cons_self) (emitted_each (as := r) fun b hb => h b (List.mem_cons_of_mem _ hb))

theorem emitted_count (f i n : Nat) : (count f i n).KeepsEmitted := emitted_look fun s => emitted_andThen
  (by
    split
    · exact emitted_onlyIf (emitted_put (by simp))
    · exact emitted_skip)
  (emitted_put (by simp))

theorem emitted_pauseRefresh (p : Nat) : (pauseRefresh p).KeepsEmitted := by
  have hOut : ∀ x, (pauseOut p x).KeepsEmitted := fun _ => emitted_look fun _ => emitted_ite
    (emitted_andThen (emitted_emit _) (emitted_each fun _ _ => emitted_onlyIf (emitted_count _ _ _)))
    (emitted_andThen (emitted_emit _) (emitted_count _ _ _))
  have hSend : ∀ mask time, (pauseSend p mask time).KeepsEmitted := fun _ _ => emitted_look fun _ => emitted_onlyIf
    (emitted_andThen (emitted_ite (emitted_put (by simp)) (hOut _)) (emitted_put (by simp)))
  exact emitted_look fun _ => emitted_andThen (emitted_ite (emitted_put (by simp)) (emitted_onlyIf (hSend _ _))) (emitted_look fun _ => emitted_setF _ _)

theorem emitted_linkRefresh (p : Nat) : (linkRefresh p).KeepsEmitted := emitted_look fun _ => emitted_seqs fun q hq => by
  simp only [List.mem_cons, List.not_mem_nil, or_false] at hq
  rcases hq with rfl | rfl | rfl | rfl | rfl
  · exact emitted_setF _ _
  · exact emitted_onlyIf (emitted_andThen (emitted_setF _ _) (emitted_raise _ _))
  · exact emitted_onlyIf (emitted_andThen (emitted_onlyIf (emitted_put (by simp))) (emitted_put (by simp)))
  · exact emitted_onlyIf (emitted_andThen (emitted_put (by simp))
      (emitted_andThen (emitted_onlyIf (emitted_emit _)) (emitted_onlyIf (emitted_emit _))))
  · exact emitted_onlyIf (emitted_pauseRefresh p)

theorem emitted_mediaCheck (p : Nat) : (mediaCheck p).KeepsEmitted := emitted_look fun _ => emitted_onlyIf (emitted_seqs fun q hq => by
  simp only [List.mem_cons, List.not_mem_nil, or_false] at hq
  rcases hq with rfl | rfl | rfl | rfl | rfl
  · exact emitted_setF _ _
  · exact emitted_raise _ _
  · exact emitted_setF _ _
  · exact emitted_setF _ _
  · exact emitted_linkRefresh p)

theorem cageXAt_mediaCheck (s : State) (p q : Nat) : ((mediaCheck p).run s).cageXAt q = s.cageXAt q :=
  State.same_cageXAt (Prog.Keeps.same (R := [PORT_STAT.CFG_ERR p, PORT_STAT.AN_DONE p, PORT_STAT.LT_DONE p] ++ irqFlds (16 + p) 27 ++ linkFlds p)
    (keeps_mediaCheck (T := []) (List.Subset.refl linkPieces) (by simp) (fun _ h => by simp [h]) fun _ h => by simp [h]) s .cageX (by decide)) q

/-! ### MODULE_INSERT (R530, R532 step 2) -/

theorem moduleInsert_waits {port : Nat} {s : State} (hWf : Instr.wellFormed (.moduleInsert port) = true) (hPresent : s.rd (PORT_CAGE_STAT.PRESENT port) = 0)
    (hManual : s.rd (PORT_CAGE_CTRL.MANUAL port) = 0) (hUp : s.blkUpAt (16 + port) = true) :
    ∃ t, exec (.moduleInsert port) s = .next t ∧ t.rd (PORT_CAGE_STAT.PRESENT port) = 1 ∧ t.rd (PORT_CAGE_STAT.STATE port) = 1 ∧
      (t.cageXAt port).step = 2 ∧ (t.cageXAt port).stepAt = s.mono := by
  have hPort : port < 48 := by simpa only [Instr.wellFormed, decide_eq_true_eq] using hWf
  have hManualBegun : ¬ (s.begun.rd (PORT_CAGE_CTRL.MANUAL port) == 1) = true := by simp [hManual]
  have hUpBegun : s.begun.blkUpAt (16 + port) = true := hUp
  have hStep : (if !s.begun.blkUpAt (16 + port) then 0 else if s.begun.rd (PORT_CAGE_CTRL.MANUAL port) == 0 then 2 else 8) = 2 := by simp [hUpBegun, hManual]
  simp only [exec, execModuleInsert]
  refine command_answers hWf ?_
  rw [run_look_onlyIf (by simp [hPresent]), if_neg hManualBegun, if_neg hManualBegun, hStep]
  iterate 5 rw [run_seqs_cons]
  rw [run_seqs_nil, run_onlyIf_true _ _ hUpBegun, rd_raise _ (by simp only [PORT_CAGE_STAT.PRESENT]; omega), rd_raise _ (by simp only [PORT_CAGE_STAT.STATE]; omega),
    rd_cageStep, rd_cageStep, rd_cagePins, rd_cagePins, cageXAt_raise, cageXAt_cageStep]
  refine ⟨?_, rd_cageState _ (by omega) (by decide), rfl, rfl⟩
  rw [cageState_run, run_onlyIf_false _ _ (by decide), rd_setF_apart _ _ (by simp only [Fld.apart, PORT_CAGE_STAT.PRESENT, PORT_CAGE_STAT.STATE]; omega)]
  exact rd_setF_fits _ (by simp only [PORT_CAGE_STAT.PRESENT]; omega)

/-! ### MODULE_RESET_RELEASE (R532 step 3) -/

theorem moduleResetRelease_polls {port : Nat} {s : State} (hWf : Instr.wellFormed (.moduleResetRelease port) = true) (hStep : (s.cageXAt port).step = 2)
    (hWaited : s.since (s.cageXAt port).stepAt 10000000 = true) :
    ∃ t, exec (.moduleResetRelease port) s = .next t ∧ (t.cageXAt port).step = 3 ∧
      t.emitted = [.pin ("MOD_RESET_N" ++ toString port) true, .pin ("MOD_LPMODE" ++ toString port) true] := by
  have hStepBegun : (s.begun.cageXAt port).step = 2 := hStep
  have hSince : ∀ n : Nat, s.begun.since (s.begun.cageXAt port).stepAt n = s.since (s.cageXAt port).stepAt n := fun _ => rfl
  simp only [exec, execModuleResetRelease]
  refine command_answers hWf ?_
  rw [run_look_onlyIf (by rw [hStepBegun, hSince, hWaited]; rfl), run_andThen, cageXAt_cageStep]
  exact ⟨rfl, rfl⟩

/-! ### MODULE_POLL (R96, R97, R532 step 4) -/

/-- The answer of a CMIS module in low power leads to the check of its power class, with its applications known. -/
theorem modulePoll_knows {port ident rev pwrClass dpMs : Nat} {lowPwr copper : Bool} {apps : List Nat} {s : State}
    (hWf : Instr.wellFormed (.modulePoll port true lowPwr ident rev pwrClass copper apps dpMs) = true) (hStep : (s.cageXAt port).step = 3)
    (hLow : lowPwr = true) (hRev : 0x40 ≤ rev ∧ rev ≤ 0x5F) :
    ∃ x y, y.apps = apps ∧ exec (.modulePoll port true lowPwr ident rev pwrClass copper apps dpMs) s =
      .next ((cagePower port).run ((polled port ident rev pwrClass x y).run s.begun)) := by
  have hStepBegun : (s.begun.cageXAt port).step = 3 := hStep
  have hCmis : (decide (0x40 ≤ rev) && decide (rev ≤ 0x5F)) = true := by simp [hRev]
  subst hLow
  simp only [exec, execModulePoll]
  refine ⟨{ s.begun.cageXAt port with step := 3, nacks := 0 },
    { s.begun.cageXAt port with step := 3, nacks := 0, copper := copper, apps := apps, dpMs := dpMs }, rfl, (command_runs _ s hWf).trans (congrArg _ ?_)⟩
  change (Prog.look _).run s.begun = _
  rw [run_look]
  simp only [hCmis, hStepBegun]
  rw [run_onlyIf_true _ _ (by decide), if_neg (by decide)]
  iterate 5 rw [run_seqs_cons]
  rw [run_seqs_nil, run_onlyIf_false (b := !true) _ _ rfl, run_onlyIf_true (b := true && (true || 3 == 8)) _ _ (by decide)]
  iterate 8 rw [run_seqs_cons]
  rw [run_seqs_nil, if_neg (by decide), polled]
  iterate 11 rw [run_seqs_cons]
  rw [run_seqs_nil, run_skip]

/-- What a polled module's cage shows before the check of its power class. -/
theorem polled_shows {p ident rev pwrClass : Nat} (hp : p < 48) (hIdent : ident < 256) (hRev : rev < 256) (x y : CageX) (s : State) :
    ((polled p ident rev pwrClass x y).run s).rd (PORT_CAGE_STAT.IDENT p) = ident ∧ ((polled p ident rev pwrClass x y).run s).rd (PORT_CAGE_STAT.CMIS_REV p) = rev ∧
      ((polled p ident rev pwrClass x y).run s).cageXAt p = y ∧ .moduleRead p 0 0 128 ∈ ((polled p ident rev pwrClass x y).run s).emitted := by
  unfold polled
  iterate 11 rw [run_seqs_cons]
  rw [run_seqs_nil, cageXAt_mediaCheck]
  refine ⟨?_, ?_, ?_, ?_⟩
  · rw [rd_mediaCheck _ hp (by simp [PORT_CAGE_STAT.IDENT]), rd_put _ (by simp), rd_emit, rd_emit, rd_emit,
      rd_setF_apart _ _ (by simp only [Fld.apart, PORT_CAGE_STAT.IDENT, PORT_CAGE_STAT.PWR_CLASS]; omega),
      rd_setF_apart _ _ (by simp only [Fld.apart, PORT_CAGE_STAT.IDENT, PORT_CAGE_STAT.CMIS_REV]; omega), run_skip, rd_emit]
    exact rd_setF_fits _ (by simp only [PORT_CAGE_STAT.IDENT]; omega)
  · rw [rd_mediaCheck _ hp (by simp [PORT_CAGE_STAT.CMIS_REV]), rd_put _ (by simp), rd_emit, rd_emit, rd_emit,
      rd_setF_apart _ _ (by simp only [Fld.apart, PORT_CAGE_STAT.CMIS_REV, PORT_CAGE_STAT.PWR_CLASS]; omega)]
    exact rd_setF_fits _ (by simp only [PORT_CAGE_STAT.CMIS_REV]; omega)
  · rw [run_put, Act.cageX_apply, if_pos rfl]
  · refine emitted_mediaCheck p _ _ (emitted_put (a := .cageX p y) (by simp) _ _ (emitted_emit _ _ _ (emitted_emit _ _ _ ?_)))
    exact List.mem_append_right _ List.mem_cons_self

theorem modulePoll_powers {port ident rev pwrClass dpMs : Nat} {ack lowPwr copper : Bool} {apps : List Nat} {s : State}
    (hWf : Instr.wellFormed (.modulePoll port ack lowPwr ident rev pwrClass copper apps dpMs) = true) (hStep : (s.cageXAt port).step = 3) (hAck : ack = true)
    (hLow : lowPwr = true) (hFrom : 0x40 ≤ rev) (hTo : rev ≤ 0x5F) (hPower : pwrClass ≤ s.rd (PORT_CAGE_CTRL.PWR_MAX port) + 1) :
    ∃ t, exec (.modulePoll port ack lowPwr ident rev pwrClass copper apps dpMs) s = .next t ∧ t.rd (PORT_CAGE_STAT.IDENT port) = ident ∧
      t.rd (PORT_CAGE_STAT.CMIS_REV port) = rev ∧ t.rd (PORT_CAGE_STAT.PWR_CLASS port) = pwrClass ∧ t.rd (PORT_CAGE_STAT.STATE port) = 7 ∧
      (t.cageXAt port).step = 5 ∧ (t.cageXAt port).apps = apps ∧ .moduleRead port 0 0 128 ∈ t.emitted := by
  subst hAck
  have hBounds : port < 48 ∧ ident < 256 ∧ rev < 256 ∧ pwrClass < 9 := by
    simp only [Instr.wellFormed, Bool.and_eq_true, decide_eq_true_eq] at hWf
    exact ⟨hWf.1.1.1, hWf.1.1.2, hWf.1.2, hWf.2.2⟩
  obtain ⟨hPort, hIdent, hRev, hClass⟩ := hBounds
  obtain ⟨x, y, hApps, hExec⟩ := modulePoll_knows hWf hStep hLow ⟨hFrom, hTo⟩
  obtain ⟨hShownClass, hMax⟩ := polled_power (ident := ident) (rev := rev) hPort (show pwrClass < 16 by omega) x y s.begun
  obtain ⟨hShownIdent, hShownRev, hCage, hRead⟩ := polled_shows (pwrClass := pwrClass) hPort hIdent hRev x y s.begun
  refine ⟨_, hExec, ?_⟩
  rw [cagePower_powers (by rw [hShownClass, hMax]; exact hPower), cageXAt_cageStep]
  generalize (polled port ident rev pwrClass x y).run s.begun = u at *
  have hKept : ∀ f : Fld, f.off < 65536 → (PORT_CAGE_STAT.STATE port).off < 65536 → (PORT_CAGE_STAT.STATE port).apart f →
      ((cageStep port 5).run ((emit (.pin ("MOD_LPMODE" ++ toString port) false)).run ((setF (PORT_CAGE_STAT.STATE port) 7).run u))).rd f = u.rd f := by
    intro f hOff hState hApart
    rw [rd_cageStep, rd_emit, rd_setF_apart _ _ ⟨hOff, hState, hApart⟩]
  refine ⟨(hKept _ ?_ ?_ ?_).trans hShownIdent, (hKept _ ?_ ?_ ?_).trans hShownRev, (hKept _ ?_ ?_ ?_).trans hShownClass, ?_, rfl, ?_, ?_⟩
  iterate 9 (simp only [Fld.apart, PORT_CAGE_STAT.STATE, PORT_CAGE_STAT.IDENT, PORT_CAGE_STAT.CMIS_REV, PORT_CAGE_STAT.PWR_CLASS]; omega)
  · rw [rd_cageStep, rd_emit]
    exact rd_setF_fits _ (by simp only [PORT_CAGE_STAT.STATE]; omega)
  · exact (congrArg CageX.apps (cageXAt_setF u (PORT_CAGE_STAT.STATE port) 7 port)).trans (hCage ▸ hApps)
  · exact emitted_put (a := .cageX port _) (by simp) _ _ (emitted_emit _ _ _ (emitted_setF _ _ _ _ hRead))

/-! ### MODULE_READY and MODULE_DATAPATH_ACTIVATED (R98, R532 steps 6 and 7) -/

theorem moduleReady_selects {port k : Nat} {ack : Bool} {s : State} (hWf : Instr.wellFormed (.moduleReady port ack) = true)
    (hStep : (s.cageXAt port).step = 5) (hAck : ack = true)
    (hApp : indexWhere (fun a => a == 16 * s.cfg (PORT_MODE.MODE port) + modeLanes (s.cfg (PORT_MODE.MODE port))) (s.cageXAt port).apps 0 = some k) (hFits : k < 15) :
    ∃ t, exec (.moduleReady port ack) s = .next t ∧ t.rd (PORT_CAGE_STAT.APPSEL port) = k + 1 ∧ (t.cageXAt port).step = 6 := by
  have hPort : port < 48 := by simpa only [Instr.wellFormed, decide_eq_true_eq] using hWf
  have hStepBegun : (s.begun.cageXAt port).step = 5 := hStep
  have hAppBegun : indexWhere (fun a => a == 16 * s.begun.cfg (PORT_MODE.MODE port) + modeLanes (s.begun.cfg (PORT_MODE.MODE port)))
    (s.begun.cageXAt port).apps 0 = some k := hApp
  have hEmits : ∀ (as : List Nat) (e : Nat → Emit) (u : State), ((each as fun a => emit (e a)).run u).rd (PORT_CAGE_STAT.APPSEL port) = u.rd (PORT_CAGE_STAT.APPSEL port) :=
    fun as e u => (keeps_each (l := [.emitted]) (R := []) (T := []) fun _ _ => keeps_emit (by simp)).rd u _ (by simp only [PORT_CAGE_STAT.APPSEL]; omega) (by simp)
  subst hAck
  simp only [exec, execModuleReady]
  refine command_answers hWf ?_
  rw [run_look_onlyIf (by simp [hStepBegun]), if_neg (by decide), hAppBegun]
  iterate 4 rw [run_seqs_cons]
  rw [run_seqs_nil, rd_cageStep, rd_emit, hEmits, cageXAt_cageStep]
  exact ⟨rd_setF_fits _ (by simp only [PORT_CAGE_STAT.APPSEL]; omega), rfl⟩

theorem moduleDatapathActivated_readies {port : Nat} {s : State} (hWf : Instr.wellFormed (.moduleDatapathActivated port) = true) (hStep : (s.cageXAt port).step = 6) :
    ∃ t, exec (.moduleDatapathActivated port) s = .next t ∧ t.rd (PORT_CAGE_STAT.STATE port) = 2 ∧ (t.cageXAt port).step = 7 := by
  have hPort : port < 48 := by simpa only [Instr.wellFormed, decide_eq_true_eq] using hWf
  have hStepBegun : (s.begun.cageXAt port).step = 6 := hStep
  have hBring : ∀ u : State, ((bringUp port).run u).cageXAt port = u.cageXAt port := fun u =>
    State.same_cageXAt ((keeps_bringUp (l := [.emitted]) (R := []) (T := []) (by simp)).same u .cageX (by decide)) port
  simp only [exec, execModuleDatapathActivated]
  refine command_answers hWf ?_
  rw [run_look_onlyIf (by simp [hStepBegun])]
  iterate 4 rw [run_seqs_cons]
  rw [run_seqs_nil, rd_linkRefresh _ (by omega) (by simp only [Fld.offLink, PORT_CAGE_STAT.STATE]; omega), rd_bringUp _ _ (by simp only [PORT_CAGE_STAT.STATE]; omega),
    rd_cageStep, cageXAt_linkRefresh, hBring, cageXAt_cageStep]
  exact ⟨rd_cageState _ (by omega) (by decide), rfl⟩

/-- Settles O10: each step of the insertion, from the recognised module to the ready cage. -/
theorem moduleInsertion : Obligations.ModuleInsertion := by
  unfold Obligations.ModuleInsertion
  exact ⟨fun _ _ hWf hPresent hManual hUp => moduleInsert_waits hWf hPresent hManual hUp,
    fun _ _ hWf hStep hWaited => moduleResetRelease_polls hWf hStep hWaited,
    fun _ _ _ _ _ _ _ _ _ _ hWf hStep hAck hLow hFrom hTo hPower => modulePoll_powers hWf hStep hAck hLow hFrom hTo hPower,
    fun _ _ _ _ hWf hStep hAck hApp hFits => moduleReady_selects hWf hStep hAck hApp hFits,
    fun _ _ hWf hStep => moduleDatapathActivated_readies hWf hStep⟩

end Sys2Proof.Machine
end

