-- ==== Sys2Proof/Proofs/GatedCommands.lean ====
section
/-!
SUPPORT. A command of the presence, update or repair controller: what the record of its own write leaves, and its presence gate
(spec/20_presence_seal_journal.md R641, R642, R657, R662).
-/
namespace Sys2Proof.Machine

/-! ### Records that await persistence (R662) -/

theorem jnlAwait_of_onlyIn {s t : State} {l : List Piece} (h : s.onlyIn t l) (hl : ∀ f ∈ [Piece.jnlPersist, .jnlWriting, .jnlPre], f ∉ l) : t.jnlAwait = s.jnlAwait := by
  have hPersist : s.jnlPersist = t.jnlPersist := h .jnlPersist (hl _ (by decide))
  have hWriting : s.jnlWriting = t.jnlWriting := h .jnlWriting (hl _ (by decide))
  have hPre : s.jnlPre = t.jnlPre := h .jnlPre (hl _ (by decide))
  rw [State.jnlAwait, State.jnlAwait, hPersist, hWriting, hPre]

theorem jnlAwait_putPersist (u : State) (x : List JRec) :
    ((Prog.put (.jnlPersist x)).run u).jnlAwait ≤ x.length + u.jnlWriting.length + (u.jnlPre.filter (fun r => r.persist)).length := by
  have hTake : (x.take 61440).length ≤ x.length := List.length_take_le' _ _
  have hRun : ((Prog.put (.jnlPersist x)).run u).jnlAwait = (x.take 61440).length + u.jnlWriting.length + (u.jnlPre.filter (fun r => r.persist)).length := rfl
  omega

theorem jnlAwait_putPre (u : State) (x : List JRec) :
    ((Prog.put (.jnlPre x)).run u).jnlAwait ≤ u.jnlPersist.length + u.jnlWriting.length + (x.filter (fun r => r.persist)).length := by
  have hTake : ((x.take 65536).filter (fun r => r.persist)).length ≤ (x.filter (fun r => r.persist)).length := ((List.take_sublist _ _).filter _).length_le
  have hRun : ((Prog.put (.jnlPre x)).run u).jnlAwait = u.jnlPersist.length + u.jnlWriting.length + ((x.take 65536).filter (fun r => r.persist)).length := rfl
  omega

theorem jnlAwait_putHeld (u : State) (x : List Held) : ((Prog.put (.jnlHeld x)).run u).jnlAwait = u.jnlAwait := rfl

/-- What numbering a record writes beside the persisted ring. -/
def numberedPieces : List Piece := [.regs, .jnlSeq, .jnlRecent, .jnlBacklog] ++ irqPieces

/-- A numbered record is at most one more that awaits persistence. -/
theorem jnlAwait_numberRecord (r : JRec) (s : State) : ((numberRecord r).run s).jnlAwait ≤ s.jnlAwait + 1 := by
  let q : Prog := seqs [.put (.jnlSeq (s.jnlSeq + 1)), .put (.jnlRecent (s.jnlSeq % 65536) (some { r with seq := s.jnlSeq })), backlogAdd { r with seq := s.jnlSeq }]
  have hOnly : q.Only numberedPieces :=
    ⟨show Piece.jnlSeq ∈ _ by decide, show Piece.jnlRecent ∈ _ by decide, only_backlogAdd (by decide) (by decide) (by decide)⟩
  have hKept : (q.run s).jnlAwait = s.jnlAwait := jnlAwait_of_onlyIn (hOnly.onlyIn s) (by decide)
  have hWriting : s.jnlWriting = (q.run s).jnlWriting := hOnly.onlyIn s .jnlWriting (by decide)
  have hPre : s.jnlPre = (q.run s).jnlPre := hOnly.onlyIn s .jnlPre (by decide)
  have hRun : (numberRecord r).run s = (onlyIf r.persist (.put (.jnlPersist (s.jnlPersist ++ [{ r with seq := s.jnlSeq }])))).run (q.run s) := by
    rw [numberRecord, run_look]
    simp only [q, run_seqs_cons, run_seqs_nil]
  rw [hRun]
  generalize q.run s = u at *
  cases r.persist with
  | false => exact le_of_eq_of_le hKept (Nat.le_succ _)
  | true =>
    rw [run_onlyIf_true _ _ rfl]
    refine le_trans (jnlAwait_putPersist _ _) ?_
    rw [← hWriting, ← hPre, State.jnlAwait, List.length_append, List.length_singleton]
    omega

/-- An accepted record, with the checkpoint that may follow it, is at most two more. -/
theorem jnlAwait_acceptRecord (r : JRec) (s : State) : ((acceptRecord r).run s).jnlAwait ≤ s.jnlAwait + 2 := by
  have hFirst := jnlAwait_numberRecord r s
  rw [acceptRecord, run_look]
  split
  · refine le_trans (jnlAwait_putPre _ _) ?_
    rw [List.filter_append, List.length_append, State.jnlAwait]
    have := List.length_filter_le (fun r : JRec => r.persist) [r]
    simp only [List.length_singleton] at this
    omega
  · rw [run_andThen, run_look]
    generalize (numberRecord r).run s = u at *
    by_cases hCheck : (u.jnlSeq % 2 ^ 36 == 0) = true
    swap
    · rw [run_onlyIf_false _ _ (by simpa using hCheck)]
      omega
    rw [run_onlyIf_true _ _ hCheck]
    dsimp only
    split
    · have := jnlAwait_numberRecord { kind := 13, origin := 0x2000, persist := true, time := u.ns64, timeValid := u.timeValid } u
      omega
    · rw [jnlAwait_putHeld]
      omega

/-! ### A command written to its register (R52, R56, R641) -/

/-- From `s` to `v` the write of a command register has been recorded: at most two records more await persistence, and before the START record no register has changed. -/
structure State.accepted (s v : State) : Prop where
  recorded : s.recorded v
  await : v.jnlAwait ≤ s.jnlAwait + 2
  regs : s.jnlSeq = 0 → v.regs = s.regs

theorem acceptRecord_accepted (r : JRec) (s : State) : s.accepted ((acceptRecord r).run s.begun) :=
  ⟨(State.sends_recorded s.begun.sends_refl).trans (acceptRecord_recorded _ _), jnlAwait_acceptRecord r s.begun, fun hZero => by
    have hBegun : (s.begun.jnlSeq == 0) = true := by rw [show s.begun.jnlSeq = 0 from hZero]; rfl
    rw [acceptRecord, run_look, if_pos hBegun]
    rfl⟩

/-- A command that is a master's write of a plain register on the TM die leaves what the register's own program leaves after the record. -/
theorem command_tmAccepted {i : Instr} {m page off : Nat} {data : Word} {d : RegDecl} {s : State} {E : State → Prop} (hWf : i.wellFormed = true)
    (hTakes : s.takesWrite m page = true) (hDie : dieOf page = 1) (hPlain : PlainReg page off d)
    (hStarts : s.writeRefused m page off data.toNat = false) (hE : ∀ v, s.accepted v → E ((regDo m page off d data).run v)) :
    ∃ t, command i (hostWrite m page off 15 data) s = .next t ∧ E t := by
  refine command_answers hWf ?_
  rw [hostWrite_tm hDie, writeWord_plain hTakes hPlain s.begun.sends_refl hStarts]
  exact hE _ (acceptRecord_accepted _ s)

/-- From `s` to `v` a command has been recorded and stands in the command register of its page. -/
structure State.commanded (page off : Nat) (s v : State) : Prop where
  rd : ∀ f : Fld, f.off < 65536 → f.page ≠ 2 → f.page ≠ 6 → f.page ≠ page ∨ f.off ≠ off → v.rd f = s.rd f
  onlyIn : s.onlyIn v (.regs :: hostPieces)
  await : v.jnlAwait ≤ s.jnlAwait + 2
  regs : s.jnlSeq = 0 → v.regs.length ≤ s.regs.length + 1

theorem Sp.length_insert {α : Type} (k : Nat) (v : α) : ∀ m : Sp α, (Sp.insert m k v).length = m.length + 1
  | [] => rfl
  | (j, w) :: r => by
    unfold Sp.insert
    split
    · rfl
    · simp only [List.length_cons, Sp.length_insert k v r]

theorem Sp.length_set_le {α : Type} [DecidableEq α] (d : Nat → α) (m : Sp α) (k : Nat) (v : α) : (Sp.set d m k v).length ≤ m.length + 1 := by
  have hDrop : (Sp.drop m k).length ≤ m.length := List.length_filter_le _ _
  unfold Sp.set
  split
  · omega
  · rw [Sp.length_insert]
    omega

theorem State.accepted.commanded {s v : State} (h : s.accepted v) {page off : Nat} (hOff : off < 65536) (w : Word) : s.commanded page off ((setReg page off w).run v) := by
  have hOnly : (setReg page off w).Only (.regs :: hostPieces) := List.mem_cons_self
  have hKeeps : (setReg page off w).Keeps [] [⟨page, off, 31, 0⟩] [] := keeps_setReg List.mem_cons_self
  refine ⟨fun f hf hHost hJnl hNot => ?_, State.onlyIn_trans h.recorded.onlyIn (hOnly.onlyIn v), ?_, fun hZero => ?_⟩
  · refine (hKeeps.rd v f hf fun g hg => ?_).trans (h.recorded.rd ⟨hf, hHost, hJnl⟩)
    obtain rfl := List.mem_singleton.mp hg
    exact ⟨hOff, hNot.elim (fun e => .inl (Ne.symm e)) fun e => .inr (.inl (Ne.symm e))⟩
  · exact h.await
  · rw [← h.regs hZero]
    exact Sp.length_set_le _ _ _ _

/-- The code and the other bits of a command word. -/
theorem fieldOf_withOp {op : Nat} (hOp : op < 16) (data : Word) : fieldOf (withOp op data) 31 28 = op := by
  rw [withOp, fieldOf_setFieldOf _ _ _ _ (by decide)]
  exact Nat.mod_eq_of_lt hOp

theorem opcode_withOp {op : Nat} (hOp : op < 16) (data : Word) : (withOp op data).toNat / 2 ^ 28 = op := by
  have hWord := (withOp op data).isLt
  have hField := fieldOf_withOp hOp data
  rw [fieldOf] at hField
  omega

theorem fieldOf_withOp_low (op : Nat) (data : Word) {hi lo : Nat} (h : hi < 28) : fieldOf (withOp op data) hi lo = fieldOf data hi lo :=
  fieldOf_setFieldOf_disjoint data hi lo 31 28 op (by omega) (.inl h)

/-! ### The presence gate (R641, R642) -/

/-- The gate judges by the records that await persistence and by four fields. -/
theorem gateResult_congr {s v : State} (hRoom : s.jnlAwait < 61440) (hRoom' : v.jnlAwait < 61440) (hWindow : v.rd PPR_STAT.WINDOW_OPEN = s.rd PPR_STAT.WINDOW_OPEN)
    (hBreach : v.rd PPR_STAT.BREACH = s.rd PPR_STAT.BREACH) (hPower : v.rd DEV_STAT.PF_WARN = s.rd DEV_STAT.PF_WARN) (ack : Bool) :
    v.gateResult ack = s.gateResult ack := by
  rw [State.gateResult, State.gateResult, if_neg (show ¬ 61440 ≤ v.jnlAwait by omega), if_neg (show ¬ 61440 ≤ s.jnlAwait by omega), hWindow, hBreach, hPower]

/-- A closed window refuses a gated command. -/
theorem gateResult_closed {s : State} (hRoom : s.jnlAwait < 61440) (hWindow : s.rd PPR_STAT.WINDOW_OPEN = 0) (ack : Bool) : s.gateResult ack = 1 := by
  rw [State.gateResult, if_neg (by omega), if_pos (by rw [hWindow]; rfl)]

/-- With room for its record, a gated command makes it and then, where it is accepted, does its work. -/
theorem gated_run {page m op arg result : Nat} {p : Prog} {s : State} (hRoom : s.jnlAwait < 61440) :
    ∃ r, (gated page m op arg result p).run s = (onlyIf (result == 0) p).run ((recordLater r).run s) := by
  refine ⟨mkRecord s 7 m page 0 (cmdOff page) (op * 2 ^ 28 + result) arg, ?_⟩
  rw [gated, run_look, if_neg (by omega), run_andThen]

/-- A record leaves every field outside the parish register and the host's summary. -/
theorem rd_recordLater (r : JRec) (s : State) {f : Fld} (hf : f.off < 65536) (hPage : f.page ≠ 2 ∧ f.page ≠ 6) : ((recordLater r).run s).rd f = s.rd f :=
  (keeps_recordLater (T := []) (List.Subset.refl recPieces) (List.Subset.refl recFlds)).rd s f hf (recFlds_apart hPage)

/-! ### The gate at a command -/

section Gate
variable {s v : State} {page off : Nat}

/-- A recorded command leaves a register of pages 0 to 10, but the host's and the parish register's pages and the command's own register. -/
theorem State.commanded.gateResult (h : s.commanded page off v) (hRoom : s.jnlAwait < 61430) (hStat : page = 7 ∧ off = 0x208 ∨ page = 8 ∨ page = 9) (ack : Bool) :
    v.gateResult ack = s.gateResult ack := by
  have := h.await
  refine gateResult_congr (by omega) (by omega) (h.rd _ (by decide) (by decide) (by decide) ?_) (h.rd _ (by decide) (by decide) (by decide) ?_)
    (h.rd _ (by decide) (by decide) (by decide) ?_) ack
  all_goals simp only [PPR_STAT.WINDOW_OPEN, PPR_STAT.BREACH, DEV_STAT.PF_WARN]; omega

theorem State.commanded.room (h : s.commanded page off v) (hRoom : s.jnlAwait < 61430) : v.jnlAwait < 61440 := by
  have := h.await
  omega

end Gate

end Sys2Proof.Machine
end

