-- ==== Sys2Proof/Proofs/PresenceCommands.lean ====
section
/-!
PROOF. The presence controller's commands (spec/20_presence_seal_journal.md R640 to R643, R653).
-/
namespace Sys2Proof.Machine

/-! ### A command of the presence controller -/

theorem plainReg_pprCmd : plainReg 7 0x208 0xF0000000 = true := by decide +kernel

theorem controlWrite_pprCmd {m : Nat} {v data : Word} {s : State} (hManager : isManager m = true) (hIdle : s.rd PPR_CMD_STAT.BUSY = 0) :
    (controlWrite m 7 0x208 v data).run s = (pprCmd m (data.toNat / 2 ^ 28)).run ((setReg 7 0x208 v).run s) := by
  unfold controlWrite
  rw [run_look]
  simp only [Nat.reduceBEq, Bool.false_and, Bool.false_eq_true, if_false, beq_self_eq_true, Bool.and_self, if_true, hManager, Bool.not_true, hIdle]
  rw [run_onlyIf_true _ _ rfl, run_andThen]

/-- An idle presence controller takes a manager's command; a gated one needs room for its record. -/
theorem command_ppr {i : Instr} {m op : Nat} {data : Word} {s : State} {E : State → Prop} (hWf : i.wellFormed = true) (hTakes : s.takesCmd m 7 = true)
    (hManager : isManager m = true) (hIdle : s.rd PPR_CMD_STAT.BUSY = 0) (hOp : op < 16) (hRoom : [1, 2, 3].contains op = true → s.jnlAwait < 61430)
    (hE : ∀ v, s.commanded 7 0x208 v → E ((pprCmd m op).run v)) : ∃ t, command i (hostWrite m 7 0x208 15 (withOp op data)) s = .next t ∧ E t := by
  obtain ⟨hTakes, hEn⟩ := takesCmd_takes hTakes
  obtain ⟨d, hPlain, -, -⟩ := plainReg_decl plainReg_pprCmd
  have hFull : s.gatedFull 7 (withOp op data).toNat = false := by
    rw [State.gatedFull, opcode_withOp hOp]
    by_cases hGated : [1, 2, 3].contains op = true
    · have := hRoom hGated
      simp [show ¬ 61440 ≤ s.jnlAwait by omega]
    · rw [Bool.eq_false_iff.mpr hGated]
      simp
  refine command_tmAccepted hWf hTakes rfl hPlain ?_ fun v hv => ?_
  · simp [State.writeRefused, startsWork, hEn, hManager, hIdle, hFull]
  · have hIdle' : v.rd PPR_CMD_STAT.BUSY = 0 := (hv.recorded.rd (by decide)).trans hIdle
    rw [regDo_control (by decide) (by decide) (.inr (hv.recorded.enabled (by decide) hEn)), controlWrite_pprCmd hManager hIdle', opcode_withOp hOp]
    exact hE _ (hv.commanded (by decide) _)

/-! ### The end of a command (R641) -/

/-- The fields that the end of a command writes. -/
def pprDoneFlds : List Fld := [PPR_CMD_STAT.BUSY, PPR_CMD_STAT.RESULT, PPR_CMD_STAT.DONE] ++ irqFlds 7 20

theorem keeps_pprDone (result : Nat) : (pprDone result).Keeps irqPieces pprDoneFlds [] :=
  keeps_seqs_cons (keeps_setF (by decide)) (keeps_seqs_cons (keeps_setF (by decide)) (keeps_seqs_cons (keeps_setF (by decide))
    (keeps_seqs_cons (keeps_raise (List.Subset.refl _) fun _ h => List.mem_append_right _ h) keeps_seqs_nil)))

theorem pprDone_shows {result : Nat} (hResult : result < 256) (s : State) : ((pprDone result).run s).rd PPR_CMD_STAT.RESULT = result ∧
    ((pprDone result).run s).rd PPR_CMD_STAT.DONE = 1 ∧ (((pprDone result).run s).regsAt (regKey 7 0x10)).getLsbD 20 = true := by
  rw [pprDone, run_seqs_cons, run_seqs_cons, run_seqs_cons, run_seqs_cons, run_seqs_nil]
  refine ⟨?_, ?_, getLsbD_raise _ (by decide) (by decide) (by decide)⟩
  · rw [rd_raise _ (by decide), rd_setF_apart _ _ (by unfold Fld.apart; decide), rd_setF_fits _ ⟨by decide, hResult⟩]
  · rw [rd_raise _ (by decide), rd_setF_fits _ (by decide)]

theorem rd_pprDone (result : Nat) (s : State) {f : Fld} (hf : f.off < 65536) (hApart : ∀ g ∈ pprDoneFlds, g.off < 65536 ∧ g.apart f) :
    ((pprDone result).run s).rd f = s.rd f := (keeps_pprDone result).rd s f hf hApart

/-! ### The commands (R640 to R643, R653) -/

theorem pprNop_ends {m : Nat} {data : Word} {s : State} (hWf : Instr.wellFormed (.pprNop m data) = true) (hTakes : s.takesCmd m 7 = true) (hManager : isManager m = true)
    (hIdle : s.rd PPR_CMD_STAT.BUSY = 0) :
    ∃ t, exec (.pprNop m data) s = .next t ∧ t.rd PPR_CMD_STAT.RESULT = 0 ∧ t.rd PPR_CMD_STAT.DONE = 1 ∧ (t.regsAt (regKey 7 0x10)).getLsbD 20 := by
  simp only [exec, execPprNop]
  refine command_ppr hWf hTakes hManager hIdle (by decide) (fun h => absurd h (by decide)) fun v _ => ?_
  have hRun : (pprCmd m 0).run v = (pprDone 0).run v := by
    rw [pprCmd, run_look]
    simp only [Nat.reduceBEq, if_true]
  rw [hRun]
  exact pprDone_shows (by decide) v

/-- What an accepted BREACH_ACK does. -/
def breachAcked : Prog := seqs [setF PPR_STAT.BREACH 0, setF BKP_STAT.LOST 0, recordEvent 9 0x7000 2 0]

theorem breachAcked_shows (s : State) : (breachAcked.run s).rd PPR_STAT.BREACH = 0 ∧ (breachAcked.run s).rd BKP_STAT.LOST = 0 := by
  have hRecord : ∀ (u : State) (f : Fld), f.off < 65536 → f.page ≠ 2 ∧ f.page ≠ 6 → ((recordEvent 9 0x7000 2 0).run u).rd f = u.rd f := fun u f hf hPage =>
    rd_recordLater (mkRecord u 9 0x7000 0 0 0 2 0) u hf hPage
  rw [breachAcked, run_seqs_cons, run_seqs_cons, run_seqs_cons, run_seqs_nil, hRecord _ _ (by decide) (by decide), hRecord _ _ (by decide) (by decide)]
  exact ⟨(rd_setF_apart _ _ (by unfold Fld.apart; decide)).trans (rd_setF_fits _ (by decide)), rd_setF_fits _ (by decide)⟩

theorem pprBreachAck_clears {m : Nat} {data : Word} {s : State} (hWf : Instr.wellFormed (.pprBreachAck m data) = true) (hTakes : s.takesCmd m 7 = true)
    (hManager : isManager m = true) (hIdle : s.rd PPR_CMD_STAT.BUSY = 0) (hGate : s.gateResult true = 0) (hRoom : s.jnlAwait < 61430)
    (hSeal : s.rd PPR_STAT.SEAL_OPEN = 0) :
    ∃ t, exec (.pprBreachAck m data) s = .next t ∧ t.rd PPR_STAT.BREACH = 0 ∧ t.rd BKP_STAT.LOST = 0 ∧ t.rd PPR_CMD_STAT.RESULT = 0 := by
  simp only [exec, execPprBreachAck]
  refine command_ppr hWf hTakes hManager hIdle (by decide) (fun _ => hRoom) fun v hv => ?_
  have hGate' : v.gateResult true = 0 := (hv.gateResult hRoom (by omega) true).trans hGate
  have hSeal' : v.rd PPR_STAT.SEAL_OPEN = 0 := (hv.rd _ (by decide) (by decide) (by decide) (by decide)).trans hSeal
  obtain ⟨r, hGated⟩ := gated_run (page := 7) (m := m) (op := 1) (arg := 0) (result := 0) (p := breachAcked) (hv.room hRoom)
  have hRun : (pprCmd m 1).run v = (pprDone 0).run (breachAcked.run ((recordLater r).run v)) := by
    rw [pprCmd, run_look]
    simp only [Nat.reduceBEq, Bool.false_eq_true, if_false, if_true, hGate', bne_self_eq_false, hSeal']
    rw [run_andThen]
    exact congrArg _ (hGated.trans (run_onlyIf_true _ _ rfl))
  obtain ⟨hBreach, hLost⟩ := breachAcked_shows ((recordLater r).run v)
  rw [hRun, rd_pprDone _ _ (by decide) (by unfold Fld.apart; decide), rd_pprDone _ _ (by decide) (by unfold Fld.apart; decide)]
  exact ⟨hBreach, hLost, (pprDone_shows (by decide) _).1⟩

theorem pprRtcSet_arms {m : Nat} {data : Word} {s : State} (hWf : Instr.wellFormed (.pprRtcSet m data) = true) (hTakes : s.takesCmd m 7 = true)
    (hManager : isManager m = true) (hIdle : s.rd PPR_CMD_STAT.BUSY = 0) (hGate : s.gateResult false = 0) (hRoom : s.jnlAwait < 61430) (hTime : s.timeValid = false) :
    ∃ t, exec (.pprRtcSet m data) s = .next t ∧
      t.rtcArmed = some (s.rd PPR_RTC_SET_LO.SEC + s.rd PPR_RTC_SET_HI.SEC % 65536 * 2 ^ 32, s.rtcSec) ∧ t.rd PPR_CMD_STAT.RESULT = 0 := by
  simp only [exec, execPprRtcSet]
  refine command_ppr hWf hTakes hManager hIdle (by decide) (fun _ => hRoom) fun v hv => ?_
  have hGate' : v.gateResult false = 0 := (hv.gateResult hRoom (by omega) false).trans hGate
  have hTime' : v.timeValid = false := by
    rw [State.timeValid, hv.rd _ (by decide) (by decide) (by decide) (by decide), ← State.timeValid, hTime]
  have hLo : v.rd PPR_RTC_SET_LO.SEC = s.rd PPR_RTC_SET_LO.SEC := hv.rd _ (by decide) (by decide) (by decide) (by decide)
  have hHi : v.rd PPR_RTC_SET_HI.SEC = s.rd PPR_RTC_SET_HI.SEC := hv.rd _ (by decide) (by decide) (by decide) (by decide)
  have hSec : v.rtcSec = s.rtcSec := by
    have hNs : s.rtcNs = v.rtcNs := hv.onlyIn .rtcNs (by decide)
    rw [State.rtcSec, State.rtcSec, hNs]
  let sec := s.rd PPR_RTC_SET_LO.SEC + s.rd PPR_RTC_SET_HI.SEC % 65536 * 2 ^ 32
  obtain ⟨r, hGated⟩ := gated_run (page := 7) (m := m) (op := 2) (arg := sec % 2 ^ 32) (result := 0) (p := .put (.rtcArmed (some (sec, s.rtcSec)))) (hv.room hRoom)
  have hRun : (pprCmd m 2).run v = (pprDone 0).run ((Prog.put (.rtcArmed (some (sec, s.rtcSec)))).run ((recordLater r).run v)) := by
    rw [pprCmd, run_look]
    simp only [Nat.reduceBEq, Bool.false_eq_true, if_false, if_true, hGate', bne_self_eq_false, hTime', hLo, hHi, hSec]
    rw [run_andThen]
    exact congrArg _ (hGated.trans (run_onlyIf_true _ _ rfl))
  rw [hRun]
  exact ⟨((keeps_pprDone 0).same _ .rtcArmed (by decide)).symm, (pprDone_shows (by decide) _).1⟩

/-- JTAG_UNLOCK makes its record, does its work where the gate accepts it, and ends with the gate's result. -/
theorem pprJtagUnlock_run {m : Nat} {v : State} (hRoom : v.jnlAwait < 61440) :
    ∃ r, (pprCmd m 3).run v = (pprDone (v.gateResult false)).run ((onlyIf (v.gateResult false == 0) (setF PPR_STAT.JTAG_UNLOCKED 1)).run ((recordLater r).run v)) := by
  obtain ⟨r, hGated⟩ := gated_run (page := 7) (m := m) (op := 3) (arg := 0) (result := v.gateResult false) (p := setF PPR_STAT.JTAG_UNLOCKED 1) hRoom
  refine ⟨r, ?_⟩
  rw [pprCmd, run_look]
  simp only [Nat.reduceBEq, Bool.false_eq_true, if_false, if_true]
  rw [run_andThen, hGated]

theorem pprJtagUnlock_unlocks {m : Nat} {data : Word} {s : State} (hWf : Instr.wellFormed (.pprJtagUnlock m data) = true) (hTakes : s.takesCmd m 7 = true)
    (hManager : isManager m = true) (hIdle : s.rd PPR_CMD_STAT.BUSY = 0) (hGate : s.gateResult false = 0) (hRoom : s.jnlAwait < 61430) :
    ∃ t, exec (.pprJtagUnlock m data) s = .next t ∧ t.rd PPR_STAT.JTAG_UNLOCKED = 1 ∧ t.reaches 0x6000 ∧ t.rd PPR_CMD_STAT.RESULT = 0 := by
  simp only [exec, execPprJtagUnlock]
  refine command_ppr hWf hTakes hManager hIdle (by decide) (fun _ => hRoom) fun v hv => ?_
  obtain ⟨r, hRun⟩ := pprJtagUnlock_run (m := m) (hv.room hRoom)
  rw [hRun, (hv.gateResult hRoom (by omega) false).trans hGate, run_onlyIf_true (b := 0 == 0) _ _ rfl]
  have hUnlocked : ((pprDone 0).run ((setF PPR_STAT.JTAG_UNLOCKED 1).run ((recordLater r).run v))).rd PPR_STAT.JTAG_UNLOCKED = 1 :=
    (rd_pprDone _ _ (by decide) (by unfold Fld.apart; decide)).trans (rd_setF_fits _ (by decide))
  exact ⟨hUnlocked, by rw [State.reaches, hUnlocked]; rfl, (pprDone_shows (by decide) _).1⟩

theorem pprJtagUnlock_refused {m : Nat} {data : Word} {s : State} (hWf : Instr.wellFormed (.pprJtagUnlock m data) = true) (hTakes : s.takesCmd m 7 = true)
    (hManager : isManager m = true) (hIdle : s.rd PPR_CMD_STAT.BUSY = 0) (hClosed : s.rd PPR_STAT.WINDOW_OPEN = 0) (hRoom : s.jnlAwait < 61430) :
    ∃ t, exec (.pprJtagUnlock m data) s = .next t ∧ t.rd PPR_STAT.JTAG_UNLOCKED = s.rd PPR_STAT.JTAG_UNLOCKED ∧ t.rd PPR_CMD_STAT.RESULT = 1 := by
  simp only [exec, execPprJtagUnlock]
  refine command_ppr hWf hTakes hManager hIdle (by decide) (fun _ => hRoom) fun v hv => ?_
  obtain ⟨r, hRun⟩ := pprJtagUnlock_run (m := m) (hv.room hRoom)
  rw [hRun, hv.gateResult hRoom (by omega) false, gateResult_closed (by omega) hClosed, run_onlyIf_false (b := 1 == 0) _ _ rfl, rd_pprDone _ _ (by decide) (by unfold Fld.apart; decide),
    rd_recordLater _ _ (by decide) (by decide)]
  exact ⟨hv.rd _ (by decide) (by decide) (by decide) (by decide), (pprDone_shows (by decide) _).1⟩

theorem pprJtagLock_locks {m : Nat} {data : Word} {s : State} (hWf : Instr.wellFormed (.pprJtagLock m data) = true) (hTakes : s.takesCmd m 7 = true)
    (hManager : isManager m = true) (hIdle : s.rd PPR_CMD_STAT.BUSY = 0) :
    ∃ t, exec (.pprJtagLock m data) s = .next t ∧ t.rd PPR_STAT.JTAG_UNLOCKED = 0 ∧ t.rd PPR_CMD_STAT.RESULT = 0 := by
  simp only [exec, execPprJtagLock]
  refine command_ppr hWf hTakes hManager hIdle (by decide) (fun h => absurd h (by decide)) fun v _ => ?_
  have hRun : (pprCmd m 4).run v = (pprDone 0).run ((setF PPR_STAT.JTAG_UNLOCKED 0).run v) := by
    rw [pprCmd, run_look]
    simp only [Nat.reduceBEq, Bool.false_eq_true, if_false, if_true]
    rw [run_andThen]
  rw [hRun, rd_pprDone _ _ (by decide) (by unfold Fld.apart; decide), rd_setF_fits _ (by decide)]
  exact ⟨rfl, (pprDone_shows (by decide) _).1⟩

/-- Whatever closes the window, it is closed then. -/
theorem closeWindow_closes (why : Nat) (s : State) : ((closeWindow why).run s).rd PPR_STAT.WINDOW_OPEN = 0 := by
  have hBit : s.rd PPR_STAT.WINDOW_OPEN < 2 := Nat.mod_lt _ (by decide)
  rw [closeWindow, run_look]
  by_cases hOpen : s.rd PPR_STAT.WINDOW_OPEN = 1
  · have hRecord : ∀ u : State, ((recordEvent 6 0x7000 why 0).run u).rd PPR_STAT.WINDOW_OPEN = u.rd PPR_STAT.WINDOW_OPEN := fun u =>
      rd_recordLater (mkRecord u 6 0x7000 0 0 0 why 0) u (by decide) (by decide)
    rw [run_onlyIf_true _ _ (by rw [hOpen]; rfl), run_seqs_cons, run_seqs_cons, run_seqs_cons, run_seqs_cons, run_seqs_cons, run_seqs_nil, rd_raise _ (by decide), hRecord,
      rd_put _ (by simp), rd_setF_apart _ _ (by unfold Fld.apart; decide), rd_setF_fits _ (by decide)]
  · have hShut : s.rd PPR_STAT.WINDOW_OPEN = 0 := by omega
    rw [run_onlyIf_false _ _ (by rw [hShut]; rfl), hShut]

theorem pprClose_closes {m : Nat} {data : Word} {s : State} (hWf : Instr.wellFormed (.pprClose m data) = true) (hTakes : s.takesCmd m 7 = true)
    (hManager : isManager m = true) (hIdle : s.rd PPR_CMD_STAT.BUSY = 0) :
    ∃ t, exec (.pprClose m data) s = .next t ∧ t.rd PPR_STAT.WINDOW_OPEN = 0 ∧ t.rd PPR_CMD_STAT.RESULT = 0 := by
  simp only [exec, execPprClose]
  refine command_ppr hWf hTakes hManager hIdle (by decide) (fun h => absurd h (by decide)) fun v _ => ?_
  have hRun : (pprCmd m 5).run v = (pprDone 0).run ((closeWindow 2).run v) := by
    rw [pprCmd, run_look]
    simp only [Nat.reduceBEq, Bool.false_eq_true, if_false, if_true]
    rw [run_andThen]
  rw [hRun, rd_pprDone _ _ (by decide) (by unfold Fld.apart; decide), closeWindow_closes]
  exact ⟨rfl, (pprDone_shows (by decide) _).1⟩

/-- Settles O22, command by command: a gated one makes its record and ends with the gate's result. -/
theorem presenceCommands : Obligations.PresenceCommands := by
  unfold Obligations.PresenceCommands
  exact ⟨fun _ _ _ hWf hTakes hManager hIdle => pprNop_ends hWf hTakes hManager hIdle,
    fun _ _ _ hWf hTakes hManager hIdle hGate hRoom hSeal => pprBreachAck_clears hWf hTakes hManager hIdle hGate hRoom hSeal,
    fun _ _ _ hWf hTakes hManager hIdle hGate hRoom hTime => pprRtcSet_arms hWf hTakes hManager hIdle hGate hRoom hTime,
    fun _ _ _ hWf hTakes hManager hIdle hGate hRoom => pprJtagUnlock_unlocks hWf hTakes hManager hIdle hGate hRoom,
    fun _ _ _ hWf hTakes hManager hIdle hClosed hRoom => pprJtagUnlock_refused hWf hTakes hManager hIdle hClosed hRoom,
    fun _ _ _ hWf hTakes hManager hIdle => pprJtagLock_locks hWf hTakes hManager hIdle,
    fun _ _ _ hWf hTakes hManager hIdle => pprClose_closes hWf hTakes hManager hIdle⟩

end Sys2Proof.Machine
end

