-- ==== Sys2Proof/Proofs/StoreCommands.lean ====
section
/-!
PROOF. The update's commands that write CONTROL or a snapshot (spec/19_update_and_store.md R625, R629, R637, R638).
-/
namespace Sys2Proof.Machine

/-! ### A command of the update controller -/

theorem plainReg_updCmd : plainReg 8 0x200 0xF303FFFF = true := by decide +kernel

theorem controlWrite_updCmd {m : Nat} {v data : Word} {s : State} (hMaster : m = 0 ∨ m = 0x2000) (hIdle : s.updOp = none) :
    (controlWrite m 8 0x200 v data).run s = (updCmd m data [] 0).run ((setReg 8 0x200 v).run s) := by
  have hMay : (m == 0 || m == 0x2000) = true := by simpa using hMaster
  unfold controlWrite
  rw [run_look]
  simp only [Nat.reduceBEq, Bool.false_and, Bool.false_eq_true, if_false, beq_self_eq_true, Bool.and_self, if_true, hMay, Bool.not_true, hIdle, Option.isNone_none]
  rw [run_onlyIf_true _ _ rfl, run_andThen]

/-- What a command that the update controller has taken finds: its register beside, the state is as it was. -/
structure State.updating (s v : State) : Prop where
  commanded : s.commanded 8 0x200 v
  idle : v.updOp = none

/-- An idle update controller takes a command of PF0 or the main core; one that is gated needs room for its record. -/
theorem command_upd {i : Instr} {m op : Nat} {data : Word} {s : State} {E : State → Prop} (hWf : i.wellFormed = true) (hTakes : s.takesCmd m 8 = true)
    (hMaster : m = 0 ∨ m = 0x2000) (hIdle : s.updOp = none) (hOp : op < 16 ∧ op ≠ 4) (hRoom : op = 8 → s.jnlAwait < 61430)
    (hE : ∀ v, s.updating v → E ((updCmd m (withOp op data) [] 0).run v)) : ∃ t, command i (hostWrite m 8 0x200 15 (withOp op data)) s = .next t ∧ E t := by
  obtain ⟨hTakes, hEn⟩ := takesCmd_takes hTakes
  obtain ⟨d, hPlain, -, -⟩ := plainReg_decl plainReg_updCmd
  have hMay : (m == 0 || m == 0x2000) = true := by simpa using hMaster
  have hFull : s.gatedFull 8 (withOp op data).toNat = false := by
    rw [State.gatedFull, opcode_withOp hOp.1]
    by_cases hGated : op = 8
    · have := hRoom hGated
      simp [show ¬ 61440 ≤ s.jnlAwait by omega]
    · simp [hGated, hOp.2]
  refine command_tmAccepted hWf hTakes rfl hPlain ?_ fun v hv => ?_
  · simp [State.writeRefused, startsWork, hEn, hMay, hIdle, hFull]
  · have hIdle' : v.updOp = none := (hv.recorded.onlyIn .updOp (by decide)).symm.trans hIdle
    rw [regDo_control (by decide) (by decide) (.inr (hv.recorded.enabled (by decide) hEn)), controlWrite_updCmd hMaster hIdle']
    exact hE _ ⟨hv.commanded (by decide) _, hIdle'⟩

section Updating
variable {s v : State}

theorem State.updating.rd (h : s.updating v) {f : Fld} (hf : f.off < 65536 ∧ f.page ≠ 2 ∧ f.page ≠ 6 ∧ (f.page ≠ 8 ∨ f.off ≠ 0x200)) : v.rd f = s.rd f :=
  h.commanded.rd f hf.1 hf.2.1 hf.2.2.1 hf.2.2.2

theorem State.updating.storeQ (h : s.updating v) : v.storeQ = s.storeQ := (h.commanded.onlyIn .storeQ (by decide)).symm

theorem State.updating.ctlNext (h : s.updating v) : v.ctlNext = s.ctlNext := by
  have hCtl : s.ctl = v.ctl := h.commanded.onlyIn .ctl (by decide)
  rw [State.ctlNext, State.ctlNext, h.storeQ, hCtl]

theorem State.updating.updTarget (h : s.updating v) (data : Word) : v.updTarget data = s.updTarget data := by
  have hSlot : s.updSlot = v.updSlot := h.commanded.onlyIn .updSlot (by decide)
  rw [State.updTarget, State.updTarget, h.rd (by decide), h.ctlNext, hSlot]

theorem State.updating.snapSlotAt (h : s.updating v) (k : Nat) : v.snapSlotAt k = s.snapSlotAt k := by
  have hSame : s.snapSlot = v.snapSlot := h.commanded.onlyIn .snapSlot (by decide)
  rw [State.snapSlotAt, ← hSame]
  rfl

end Updating

/-- With no record waiting, CONTROL is as it will be left. -/
theorem State.ctlNext_empty {s : State} (h : s.storeQ = []) : s.ctlNext = s.ctl := by rw [State.ctlNext, h]; rfl

/-- The operation that a taken command runs. -/
theorem updCmd_run {m op : Nat} {data : Word} {v : State} (hOp : op < 16) (hIdle : v.updOp = none)
    (hPower : v.rd DEV_STAT.PF_WARN ≠ 1 ∨ [1, 2, 3, 4, 5, 8, 9, 10, 11].contains op = false) :
    (updCmd m (withOp op data) [] 0).run v = (if op == 0 then updEnds 0 0
      else if op == 1 then updBegin (withOp op data)
      else if op == 2 then updBlock (withOp op data) [] 0
      else if op == 3 then updVerify (withOp op data)
      else if op == 4 then updActivate m (withOp op data)
      else if op == 5 then updConfirm
      else if op == 6 then (if (v.ctlNext.slot v.ctlNext.boot).st == 4 then .andThen revertTrial (updStart { op := 6, waits := true }) else updEnds 6 1)
      else if op == 7 then updControl 7 0 0 (v.ctlNext.setSlot (v.updTarget (withOp op data)) {})
      else if op == 8 then updRevoke m (withOp op data)
      else if op == 9 then updSnapSave
      else if op == 10 then updSnapMark true (withOp op data)
      else if op == 11 then updSnapMark false (withOp op data)
      else updEnds op 1).run v := by
  have hGo : (v.rd DEV_STAT.PF_WARN == 1 && [1, 2, 3, 4, 5, 8, 9, 10, 11].contains op) = false := by
    rcases hPower with h | h
    · rw [beq_false_of_ne h, Bool.false_and]
    · rw [h, Bool.and_false]
  rw [updCmd, run_look]
  simp only [fieldOf_withOp hOp, hIdle, Option.isSome_none, Bool.false_eq_true, if_false, hGo]

/-- A record joins the store's queue and the command runs until it stands. -/
theorem updControl_queues (op after bits : Nat) (c : Control) (s : State) :
    ((updControl op after bits c).run s).storeQ = s.storeQ ++ [.control c bits after] ∧
      ((updControl op after bits c).run s).updOp = some { op := op, waits := true } ∧ ((updControl op after bits c).run s).rd UPD_CMD_STAT.BUSY = 1 := by
  refine ⟨rfl, rfl, ?_⟩
  exact (rd_setF_apart _ _ (by unfold Fld.apart; decide)).trans (rd_setF_fits _ (by decide))

/-! ### ABORT and REVOKE (R625, R629, R641) -/

theorem updAbort_queues {m k : Nat} {data : Word} {s : State} (hWf : Instr.wellFormed (.updAbort m data) = true) (hTakes : s.takesCmd m 8 = true)
    (hMaster : m = 0 ∨ m = 0x2000) (hIdle : s.updOp = none) (hEmpty : s.storeQ = []) (hk : k = s.updTarget data) :
    ∃ t, exec (.updAbort m data) s = .next t ∧ t.storeQ = [.control (s.ctl.setSlot k {}) 0 0] ∧ t.updOp = some { op := 7, waits := true } := by
  simp only [exec, execUpdAbort]
  refine command_upd hWf hTakes hMaster hIdle (by decide) (fun h => absurd h (by decide)) fun v hv => ?_
  have hTarget : v.updTarget (withOp 7 data) = k := by
    rw [hv.updTarget, hk, State.updTarget, State.updTarget, fieldOf_withOp_low _ _ (by decide)]
  have hRun : (updCmd m (withOp 7 data) [] 0).run v = (updControl 7 0 0 (s.ctl.setSlot k {})).run v := by
    rw [updCmd_run (by decide) hv.idle (.inr (by decide)), ← State.ctlNext_empty hEmpty, ← hv.ctlNext, hTarget]
    rfl
  obtain ⟨hQueue, hOp, -⟩ := updControl_queues 7 0 0 (s.ctl.setSlot k {}) v
  rw [hRun, hQueue, hOp, hv.storeQ, hEmpty]
  exact ⟨rfl, rfl⟩

/-- An open gate has no power-fail warning. -/
theorem powered_of_gateResult {s : State} (hGate : s.gateResult false = 0) : s.rd DEV_STAT.PF_WARN ≠ 1 := by
  intro hWarn
  rw [State.gateResult, hWarn] at hGate
  simp only [beq_self_eq_true, if_true] at hGate
  split_ifs at hGate

theorem updRevoke_queues {m k : Nat} {data : Word} {s : State} (hWf : Instr.wellFormed (.updRevoke m data) = true) (hTakes : s.takesCmd m 8 = true)
    (hMaster : m = 0 ∨ m = 0x2000) (hIdle : s.updOp = none) (hEmpty : s.storeQ = []) (hGate : s.gateResult false = 0) (hRoom : s.jnlAwait < 61430)
    (hk : k = fieldOf data 17 16) (hKey : k ≠ 0) :
    ∃ t, exec (.updRevoke m data) s = .next t ∧ t.storeQ = [.control { s.ctl with revoked := withBit s.ctl.revoked k true } 0 0] ∧
      t.updOp = some { op := 8, waits := true } := by
  simp only [exec, execUpdRevoke]
  refine command_upd hWf hTakes hMaster hIdle (by decide) (fun _ => hRoom) fun v hv => ?_
  have hGate' : v.gateResult false = 0 := (hv.commanded.gateResult hRoom (by omega) false).trans hGate
  have hKey' : fieldOf (withOp 8 data) 17 16 = k := (fieldOf_withOp_low _ _ (by decide)).trans hk.symm
  have hCtl : v.ctlNext = s.ctl := hv.ctlNext.trans (State.ctlNext_empty hEmpty)
  obtain ⟨r, hGated⟩ := gated_run (page := 8) (m := m) (op := 8) (arg := k) (result := 0)
    (p := updControl 8 0 0 { s.ctl with revoked := withBit s.ctl.revoked k true }) (hv.commanded.room hRoom)
  have hRun : (updCmd m (withOp 8 data) [] 0).run v = (updControl 8 0 0 { s.ctl with revoked := withBit s.ctl.revoked k true }).run ((recordLater r).run v) := by
    rw [updCmd_run (by decide) hv.idle (.inl (powered_of_gateResult hGate'))]
    simp only [Nat.reduceBEq, Bool.false_eq_true, if_false, if_true]
    rw [updRevoke, run_look]
    simp only [hGate', hKey', hCtl, bne_self_eq_false, Bool.false_eq_true, if_false, beq_false_of_ne hKey]
    rw [run_andThen, run_onlyIf_false (b := false) _ _ rfl]
    exact hGated.trans (run_onlyIf_true _ _ rfl)
  have hQueueKept : ((recordLater r).run v).storeQ = [] := by
    have hSame : v.storeQ = ((recordLater r).run v).storeQ := (keeps_recordLater (T := []) (List.Subset.refl recPieces) (List.Subset.refl recFlds)).same v .storeQ (by decide)
    rw [← hSame, hv.storeQ, hEmpty]
  obtain ⟨hQueue, hOp, -⟩ := updControl_queues 8 0 0 { s.ctl with revoked := withBit s.ctl.revoked k true } ((recordLater r).run v)
  rw [hRun, hQueue, hOp, hQueueKept]
  exact ⟨rfl, rfl⟩

/-! ### Snapshots (R638) -/

/-- A snapshot of a small configuration fits its slot. -/
theorem snapshotNow_fits {s v : State} (hv : s.updating v) (hStart : s.jnlSeq = 0) (hSmall : s.regs.length + s.units.length + s.tables.length < 2 ^ 20) :
    ¬ 320 * 2 ^ 20 < 8 * (v.snapshotNow.regs.length + v.snapshotNow.units.length) + 232 * v.snapshotNow.tables.length := by
  have hUnits : s.units = v.units := hv.commanded.onlyIn .units (by decide)
  have hTables : s.tables = v.tables := hv.commanded.onlyIn .tables (by decide)
  have hRegsLe := hv.commanded.regs hStart
  have hR : v.snapshotNow.regs.length ≤ v.regs.length := by
    simp only [State.snapshotNow, List.length_map]
    exact List.length_filter_le _ _
  have hU : v.snapshotNow.units.length ≤ v.units.length := by
    simp only [State.snapshotNow, List.length_map]
    exact List.length_filter_le _ _
  have hT : v.snapshotNow.tables.length ≤ v.tables.length := List.length_filterMap_le _ _
  rw [← hUnits] at hU
  rw [← hTables] at hT
  omega

theorem updSnapSave_queues {m k : Nat} {data : Word} {s : State} (hWf : Instr.wellFormed (.updSnapSave m data) = true) (hTakes : s.takesCmd m 8 = true)
    (hMaster : m = 0 ∨ m = 0x2000) (hIdle : s.updOp = none) (hPower : s.rd DEV_STAT.PF_WARN = 0) (hStart : s.jnlSeq = 0)
    (hSmall : s.regs.length + s.units.length + s.tables.length < 2 ^ 20) (hk : k = if bitOf s.ctlNext.marked 0 then 1 else 0) :
    ∃ t, exec (.updSnapSave m data) s = .next t ∧ t.storeQ.length = s.storeQ.length + 1 ∧
      (match t.storeQ.getLast? with | some (.snap j _) => j == k | _ => false) ∧ t.updOp = some { op := 9, waits := true } := by
  simp only [exec, execUpdSnapSave]
  refine command_upd hWf hTakes hMaster hIdle (by decide) (fun h => absurd h (by decide)) fun v hv => ?_
  have hPower' : v.rd DEV_STAT.PF_WARN = 0 := (hv.rd (by decide)).trans hPower
  have hRun : (updCmd m (withOp 9 data) [] 0).run v = (Prog.andThen (storePush (.snap k v.snapshotNow)) (updStart { op := 9, waits := true })).run v := by
    rw [updCmd_run (by decide) hv.idle (.inl (by omega))]
    simp only [Nat.reduceBEq, Bool.false_eq_true, if_false, if_true]
    rw [updSnapSave, run_look, hv.ctlNext, ← hk, if_neg (snapshotNow_fits hv hStart hSmall)]
  have hQueue : ((updCmd m (withOp 9 data) [] 0).run v).storeQ = s.storeQ ++ [.snap k v.snapshotNow] := by
    rw [hRun, ← hv.storeQ]
    rfl
  rw [hQueue, List.length_append, List.getLast?_concat]
  exact ⟨rfl, beq_self_eq_true k, by rw [hRun]; rfl⟩

theorem updSnapMark_marks {m k : Nat} {data : Word} {s : State} (hWf : Instr.wellFormed (.updSnapMark m data) = true) (hTakes : s.takesCmd m 8 = true)
    (hMaster : m = 0 ∨ m = 0x2000) (hIdle : s.updOp = none) (hPower : s.rd DEV_STAT.PF_WARN = 0) (hEmpty : s.storeQ = []) (hk : k = fieldOf data 24 24)
    (hHeld : (s.snapSlotAt k).isSome = true) :
    ∃ t, exec (.updSnapMark m data) s = .next t ∧ t.storeQ = [.control { s.ctl with marked := 2 ^ k } 0 0] ∧ t.updOp = some { op := 10, waits := true } := by
  simp only [exec, execUpdSnapMark]
  refine command_upd hWf hTakes hMaster hIdle (by decide) (fun h => absurd h (by decide)) fun v hv => ?_
  have hPower' : v.rd DEV_STAT.PF_WARN = 0 := (hv.rd (by decide)).trans hPower
  have hSlot : fieldOf (withOp 10 data) 24 24 = k := (fieldOf_withOp_low _ _ (by decide)).trans hk.symm
  have hThere : (true && (v.snapSlotAt k).isNone) = false := by
    rw [hv.snapSlotAt, Bool.true_and]
    exact Option.isNone_eq_false_iff.mpr hHeld
  have hRun : (updCmd m (withOp 10 data) [] 0).run v = (updControl 10 0 0 { s.ctl with marked := 2 ^ k }).run v := by
    rw [updCmd_run (by decide) hv.idle (.inl (by omega))]
    simp only [Nat.reduceBEq, Bool.false_eq_true, if_false, if_true]
    rw [updSnapMark, run_look]
    simp only [hSlot, hThere, Bool.false_eq_true, if_false, if_true, hv.ctlNext.trans (State.ctlNext_empty hEmpty)]
  obtain ⟨hQueue, hOp, -⟩ := updControl_queues 10 0 0 { s.ctl with marked := 2 ^ k } v
  rw [hRun, hQueue, hOp, hv.storeQ, hEmpty]
  exact ⟨rfl, rfl⟩

theorem updSnapClear_clears {m k : Nat} {data : Word} {s : State} (hWf : Instr.wellFormed (.updSnapClear m data) = true) (hTakes : s.takesCmd m 8 = true)
    (hMaster : m = 0 ∨ m = 0x2000) (hIdle : s.updOp = none) (hPower : s.rd DEV_STAT.PF_WARN = 0) (hEmpty : s.storeQ = []) (hk : k = fieldOf data 24 24) :
    ∃ t, exec (.updSnapClear m data) s = .next t ∧ t.storeQ = [.control { s.ctl with marked := withBit s.ctl.marked k false } 0 0] ∧ t.rd UPD_CMD_STAT.BUSY = 1 := by
  simp only [exec, execUpdSnapClear]
  refine command_upd hWf hTakes hMaster hIdle (by decide) (fun h => absurd h (by decide)) fun v hv => ?_
  have hPower' : v.rd DEV_STAT.PF_WARN = 0 := (hv.rd (by decide)).trans hPower
  have hSlot : fieldOf (withOp 11 data) 24 24 = k := (fieldOf_withOp_low _ _ (by decide)).trans hk.symm
  have hRun : (updCmd m (withOp 11 data) [] 0).run v = (updControl 11 0 0 { s.ctl with marked := withBit s.ctl.marked k false }).run v := by
    rw [updCmd_run (by decide) hv.idle (.inl (by omega))]
    simp only [Nat.reduceBEq, Bool.false_eq_true, if_false, if_true]
    rw [updSnapMark, run_look]
    simp only [hSlot, Bool.false_and, Bool.false_eq_true, if_false, hv.ctlNext.trans (State.ctlNext_empty hEmpty)]
  obtain ⟨hQueue, -, hBusy⟩ := updControl_queues 11 0 0 { s.ctl with marked := withBit s.ctl.marked k false } v
  rw [hRun, hQueue, hBusy, hv.storeQ, hEmpty]
  exact ⟨rfl, rfl⟩

/-- Settles O28, command by command: each queues its record after the record of its own write. -/
theorem updateAbortAndSnapshots : Obligations.UpdateAbortAndSnapshots := by
  unfold Obligations.UpdateAbortAndSnapshots
  exact ⟨fun _ _ _ _ hWf hTakes hMaster hIdle hEmpty hk => updAbort_queues hWf hTakes hMaster hIdle hEmpty hk,
    fun _ _ _ _ hWf hTakes hMaster hIdle hEmpty hGate hRoom hk hKey => updRevoke_queues hWf hTakes hMaster hIdle hEmpty hGate hRoom hk hKey,
    fun _ _ _ _ hWf hTakes hMaster hIdle hPower hStart hSmall hk => updSnapSave_queues hWf hTakes hMaster hIdle hPower hStart hSmall hk,
    fun _ _ _ _ hWf hTakes hMaster hIdle hPower hEmpty hk hHeld => updSnapMark_marks hWf hTakes hMaster hIdle hPower hEmpty hk hHeld,
    fun _ _ _ _ hWf hTakes hMaster hIdle hPower hEmpty hk => updSnapClear_clears hWf hTakes hMaster hIdle hPower hEmpty hk⟩

end Sys2Proof.Machine
end

