-- ==== Sys2Proof/Proofs/Units.lean ====
section
/-!
SUPPORT. The repair controller's units: what reading a unit's entry gives after a write, and what the shared operations on units leave alone
(spec/16_repair_and_redundancy.md R541, R545 to R547, R552, R565).
-/
namespace Sys2Proof.Machine

/-! ### Fields of an entry's data -/

theorem Entry.f_put {x : EF} (hx : x.region = 1 ∧ x.hi < 512) (e : Entry) (v : Nat) : (e.put x v).f x = v % 2 ^ (x.hi + 1 - x.lo) := by
  obtain ⟨hRegion, hHi⟩ := hx
  simp only [Entry.put, Entry.f, hRegion, Nat.reduceBEq, Bool.false_eq_true, if_false, if_true]
  exact fieldOf_setFieldOf _ _ _ _ hHi

/-- Two fields of an entry's data without a common bit. -/
def EF.apart (x y : EF) : Prop := x.region = 1 ∧ y.region = 1 ∧ y.hi < 512 ∧ (y.hi < x.lo ∨ x.hi < y.lo)

theorem Entry.f_put_apart {x y : EF} (h : x.apart y) (e : Entry) (v : Nat) : (e.put x v).f y = e.f y := by
  obtain ⟨hx, hy, hHi, hApart⟩ := h
  simp only [Entry.put, Entry.f, hx, hy, Nat.reduceBEq, Bool.false_eq_true, if_false, if_true]
  exact fieldOf_setFieldOf_disjoint _ _ _ _ _ _ hHi hApart

/-! ### A unit's entry and what the controller keeps of it -/

theorem unitKey_inj {c u v : Nat} (h : unitKey c u = unitKey c v) : u = v := Nat.add_left_cancel h

theorem tabKey_unitKey_inj {c u v : Nat} (h : tabKey 9 0 (unitKey c u) = tabKey 9 0 (unitKey c v)) : u = v := unitKey_inj (tabKey_inj 9 0 _ _ h)

theorem State.unit_of_tablesAt {s t : State} {c u : Nat} (h : t.tablesAt (tabKey 9 0 (unitKey c u)) = s.tablesAt (tabKey 9 0 (unitKey c u))) (x : EF) :
    t.unit c u x = s.unit c u x := by
  simp only [State.unit, State.tab, State.tab?, h]

theorem State.same_unit {s t : State} (h : s.same t .tables) (c u : Nat) (x : EF) : t.unit c u x = s.unit c u x := by
  have hSame : s.tables = t.tables := h
  refine State.unit_of_tablesAt ?_ x
  rw [State.tablesAt, State.tablesAt, hSame]

theorem State.framed_unit {s t : State} {l : List Piece} {R : List Fld} {T : List Nat} (h : s.framed t l R T) {c u : Nat} (hT : tabKey 9 0 (unitKey c u) ∉ T) (x : EF) :
    t.unit c u x = s.unit c u x := State.unit_of_tablesAt (h.2.2 _ hT) x

theorem State.same_unitXAt {s t : State} (h : s.same t .unitX) (k : Nat) : t.unitXAt k = s.unitXAt k := by
  have hSame : s.unitX = t.unitX := h
  rw [State.unitXAt, State.unitXAt, hSame]

theorem State.same_recovAt {s t : State} (h : s.same t .recov) (c : Nat) : t.recovAt c = s.recovAt c := by
  have hSame : s.recov = t.recov := h
  rw [State.recovAt, State.recovAt, hSame]

theorem State.same_mono {s t : State} (h : s.same t .mono16) : t.mono = s.mono := by
  have hSame : s.mono16 = t.mono16 := h
  rw [State.mono, State.mono, hSame]

/-- The declarations of a unit within a day, by what is kept of the unit and by MONO. -/
theorem State.deadsOf_congr {s t : State} {c u : Nat} (hX : t.unitXAt (unitKey c u) = s.unitXAt (unitKey c u)) (hMono : t.mono = s.mono) : t.deadsOf c u = s.deadsOf c u := by
  have hSince : ∀ a n, t.since a n = s.since a n := fun a n => by rw [State.since, State.since, hMono]
  simp only [State.deadsOf, hX, hSince]

section Congr
variable {s t : State} {c : Nat}

theorem State.qualified_congr (hUnit : ∀ u x, t.unit c u x = s.unit c u x) (hX : ∀ k, t.unitXAt k = s.unitXAt k) (u : Nat) : t.qualified c u = s.qualified c u := by
  simp only [State.qualified, State.role, hUnit, hX]

theorem State.spares_congr (hUnit : ∀ u x, t.unit c u x = s.unit c u x) (hX : ∀ k, t.unitXAt k = s.unitXAt k) : t.spares c = s.spares c := by
  simp only [State.spares, State.qualified_congr hUnit hX]

theorem State.holder_congr (hUnit : ∀ u x, t.unit c u x = s.unit c u x) (l : Nat) : t.holder c l = s.holder c l := by
  simp only [State.holder, State.role, hUnit]

/-- The revert that a home unit may make is decided by its class's units and recoveries. -/
theorem State.revertOf_congr (hUnit : ∀ u x, t.unit c u x = s.unit c u x) (hX : ∀ k, t.unitXAt k = s.unitXAt k) (hRecov : t.recovAt c = s.recovAt c)
    (hMono : t.mono = s.mono) (u : Nat) : t.revertOf c u = s.revertOf c u := by
  have hRole : ∀ v, t.role c v = s.role c v := fun v => hUnit v _
  simp only [State.revertOf, State.recovering, hUnit, hX, hRecov, hMono, hRole, State.qualified_congr hUnit hX, State.holder_congr hUnit] <;> rfl

end Congr

section Reads
variable (s : State) (c u : Nat)

theorem unit_setUnit {x : EF} (hx : x.region = 1 ∧ x.hi < 512) (v : Nat) : ((setUnit c u x v).run s).unit c u x = v % 2 ^ (x.hi + 1 - x.lo) := by
  rw [setUnit, setTabF, run_look, State.unit, tab_setTab, Entry.f_put hx]

theorem unit_setUnit_apart {x y : EF} (h : x.apart y) (v : Nat) : ((setUnit c u x v).run s).unit c u y = s.unit c u y := by
  rw [setUnit, setTabF, run_look, State.unit, tab_setTab, Entry.f_put_apart h, State.unit]

theorem unitXAt_setUnitX (f : UnitX → UnitX) : ((setUnitX c u f).run s).unitXAt (unitKey c u) = f (s.unitXAt (unitKey c u)) := by
  rw [setUnitX, run_look, run_put, Act.unitX_apply, if_pos rfl]

theorem unitXAt_setUnitX_other {w : Nat} (h : w ≠ u) (f : UnitX → UnitX) : ((setUnitX c u f).run s).unitXAt (unitKey c w) = s.unitXAt (unitKey c w) := by
  rw [setUnitX, run_look, run_put, Act.unitX_apply, if_neg fun e => h (unitKey_inj e)]

theorem unitXAt_setRecov (l : List Recov) (k : Nat) : ((setRecov c l).run s).unitXAt k = s.unitXAt k := rfl

theorem recovAt_setRecov (l : List Recov) : ((setRecov c l).run s).recovAt c = l := by
  rw [setRecov, run_put, Act.recov_apply, if_pos rfl]

end Reads

/-! ### What the shared operations on units leave alone -/

section Keeps
variable {l : List Piece} {R : List Fld} {T : List Nat} {c u : Nat}

theorem keeps_setUnit {x : EF} {v : Nat} (h : tabKey 9 0 (unitKey c u) ∈ T) : (setUnit c u x v).Keeps l R T := keeps_setTabF h

theorem keeps_setUnitX {f : UnitX → UnitX} (h : .unitX ∈ l) : (setUnitX c u f).Keeps l R T := keeps_look fun _ => keeps_put h (by simp) (by simp)

theorem keeps_setRecov {rs : List Recov} (h : .recov ∈ l) : (setRecov c rs).Keeps l R T := keeps_put h (by simp) (by simp)

theorem keeps_dropRecov {r : Recov} (h : .recov ∈ l) : (dropRecov c r).Keeps l R T := keeps_look fun _ => keeps_setRecov h

theorem keeps_changeRecov {p : Recov → Bool} {f : Recov → Recov} (h : .recov ∈ l) : (changeRecov c p f).Keeps l R T := keeps_look fun _ => keeps_setRecov h

theorem keeps_rprDone {result : Nat} (h : RPR_CMD_STAT.reg ∈ R) : (rprDone result).Keeps l R T :=
  keeps_seqs_cons (keeps_setF_in h) (keeps_seqs_cons (keeps_setF_in h) (keeps_seqs_cons (keeps_setF_in h) keeps_seqs_nil))

/-- The pieces and fields that an event of the repair controller writes (R552). -/
def unitEventPieces : List Piece := .rprEvt :: irqPieces
def unitEventFlds : List Fld := RPR_EVT_STAT.reg :: irqFlds 9 16 ++ irqFlds 9 17

theorem keeps_rprEvent {kind logical gen detail : Nat} (hl : unitEventPieces ⊆ l) (hR : unitEventFlds ⊆ R) : (rprEvent kind c u logical gen detail).Keeps l R T := by
  have hIrq : irqPieces ⊆ l := List.Subset.trans (List.subset_cons_self _ _) hl
  exact keeps_look fun _ => keeps_andThen
    (keeps_either (fun _ => keeps_put (hl (show Piece.rprEvt ∈ _ by decide)) (by simp) (by simp)) fun _ => keeps_andThen (keeps_setF_in (hR (by decide)))
      (keeps_raise hIrq (List.Subset.trans (by decide) hR)))
    (keeps_raise hIrq (List.Subset.trans (by decide) hR))

/-- The pieces and fields that a change of the peg map writes (R547). -/
def pegPieces : List Piece := [.pegs, .pegDue] ++ errPieces ++ recPieces
def pegFlds : List Fld := RPR_PEG_STAT.reg :: errFlds 9 ++ recFlds

theorem keeps_pegChange {g : Peg} {map : List Peg} (hl : pegPieces ⊆ l) (hR : pegFlds ⊆ R) : (pegChange g map).Keeps l R T :=
  keeps_look fun _ => keeps_seqs_cons (keeps_put (hl (show Piece.pegs ∈ _ by decide)) (by simp) (by simp)) (keeps_seqs_cons (keeps_put (hl (show Piece.pegDue ∈ _ by decide)) (by simp) (by simp))
    (keeps_seqs_cons (keeps_setF_in (hR (by decide)))
      (keeps_seqs_cons (keeps_recordLater (List.Subset.trans (by decide) hl) (List.Subset.trans (by decide) hR)) keeps_seqs_nil)))

theorem keeps_pegAdd {g : Peg} {same : Peg → Bool} (hl : pegPieces ⊆ l) (hR : pegFlds ⊆ R) : (pegAdd g same).Keeps l R T :=
  keeps_look fun _ => keeps_ite
    (fun _ => keeps_andThen (keeps_bumpF_in (hR (by decide))) (keeps_report (List.Subset.trans (by decide) hl) (List.Subset.trans (by decide) hR)))
    fun _ => keeps_pegChange hl hR

theorem keeps_pegRemove {g : Peg} {same : Peg → Bool} (hl : pegPieces ⊆ l) (hR : pegFlds ⊆ R) : (pegRemove g same).Keeps l R T :=
  keeps_look fun _ => keeps_pegChange hl hR

/-- The keys of a class's units. -/
def classKeys (c : Nat) : List Nat := (List.range (classUnits c)).map fun v => tabKey 9 0 (unitKey c v)

theorem mem_classKeys (h : u < classUnits c) : tabKey 9 0 (unitKey c u) ∈ classKeys c := List.mem_map_of_mem (List.mem_range.mpr h)

theorem keeps_dieShow (h : .dieDownAt ∈ l) : dieShow.Keeps l R T := keeps_look fun _ => keeps_onlyIf fun _ => keeps_put h (by simp) (by simp)

theorem keeps_setRole {role : Nat} (hT : tabKey 9 0 (unitKey c u) ∈ T) (hDie : c ≠ clsD2d) : (setRole c u role).Keeps l R T :=
  keeps_seqs_cons (keeps_setUnit hT) (keeps_seqs_cons (keeps_setUnit hT) (keeps_seqs_cons (keeps_setUnit hT)
    (keeps_seqs_cons (keeps_onlyIf fun h => absurd (beq_iff_eq.mp h) hDie) keeps_seqs_nil)))

/-- A unit that stands in a place belongs to its class. -/
theorem State.holder_lt {s : State} {c l v : Nat} (h : s.holder c l = some v) : v < classUnits c := List.mem_range.mp (List.mem_of_find?_eq_some h)

/-- The pieces and fields that the end of a unit's work writes (R546, R547, R565). -/
def unitFailPieces : List Piece := unitEventPieces ++ pegPieces
def unitFailFlds : List Fld := unitEventFlds ++ pegFlds

theorem keeps_failUnit (hl : unitFailPieces ⊆ l) (hR : unitFailFlds ⊆ R) (hT : tabKey 9 0 (unitKey c u) ∈ T) (hClass : classKeys c ⊆ T) (hDie : c ≠ clsD2d) :
    (failUnit c u).Keeps l R T := by
  have hPeg : pegPieces ⊆ l := List.Subset.trans (List.subset_append_right _ _) hl
  have hPegF : pegFlds ⊆ R := List.Subset.trans (List.subset_append_right _ _) hR
  refine keeps_look fun s => keeps_seqs_cons (keeps_setRole hT hDie) (keeps_seqs_cons (keeps_setUnit hT) (keeps_seqs_cons
    (keeps_rprEvent (List.Subset.trans (List.subset_append_left _ _) hl) (List.Subset.trans (List.subset_append_left _ _) hR))
    (keeps_seqs_cons (keeps_pegAdd hPeg hPegF) (keeps_seqs_cons (keeps_onlyIf fun _ => ?_) keeps_seqs_nil))))
  cases hHolder : s.holder c (s.unit c u UNIT.HOME) with
  | none => exact keeps_skip
  | some v =>
    have hv := hClass (mem_classKeys (State.holder_lt hHolder))
    exact keeps_onlyIf fun _ => keeps_seqs_cons (keeps_setUnit hv) (keeps_seqs_cons (keeps_setUnit hv) (keeps_seqs_cons (keeps_pegAdd hPeg hPegF) keeps_seqs_nil))

theorem keeps_quarantine (hl : unitFailPieces ⊆ l) (hX : .unitX ∈ l) (hR : unitFailFlds ⊆ R) (hT : tabKey 9 0 (unitKey c u) ∈ T) (hClass : classKeys c ⊆ T) (hDie : c ≠ clsD2d) :
    (quarantine c u).Keeps l R T := keeps_look fun _ => keeps_ite (fun _ => keeps_failUnit hl hR hT hClass hDie) fun _ => keeps_andThen (keeps_setRole hT hDie) (keeps_setUnitX hX)

end Keeps

theorem unitXAt_setUnit (s : State) (c u : Nat) (x : EF) (v k : Nat) : ((setUnit c u x v).run s).unitXAt k = s.unitXAt k :=
  State.same_unitXAt (Prog.Keeps.same (l := []) (R := []) (T := [_]) (keeps_setUnit List.mem_cons_self) s .unitX (by decide)) k

theorem unitXAt_bumpTabF (s : State) (page table index n k : Nat) (x : EF) : ((bumpTabF page table index x n).run s).unitXAt k = s.unitXAt k :=
  State.same_unitXAt (Prog.Keeps.same (l := []) (R := []) (T := [_]) (keeps_bumpTabF List.mem_cons_self) s .unitX (by decide)) k

/-! ### The roles that these operations give (R545, R565) -/

section Roles
variable (s : State) {c u : Nat}

/-- A program that writes no entry of the unit leaves its fields. -/
theorem Prog.Keeps.unit {p : Prog} {l : List Piece} {R : List Fld} {T : List Nat} (h : p.Keeps l R T) (hT : tabKey 9 0 (unitKey c u) ∉ T) (x : EF) :
    (p.run s).unit c u x = s.unit c u x := State.framed_unit (h s) hT x

/-- A write of one unit leaves the others of its class. -/
theorem unit_setUnit_other {w : Nat} (h : w ≠ u) (x y : EF) (v : Nat) : ((setUnit c u x v).run s).unit c w y = s.unit c w y :=
  Prog.Keeps.unit s (l := []) (R := []) (T := [tabKey 9 0 (unitKey c u)]) (keeps_setUnit List.mem_cons_self) (fun hm => h (tabKey_unitKey_inj (List.mem_singleton.mp hm))) y

theorem role_setRole (role : Nat) (hRole : role < 8) (hDie : c ≠ clsD2d) : ((setRole c u role).run s).role c u = role := by
  rw [setRole, run_seqs_cons, run_seqs_cons, run_seqs_cons, run_seqs_cons, run_seqs_nil, run_onlyIf_false _ _ (beq_eq_false_iff_ne.mpr hDie), State.role,
    unit_setUnit_apart _ _ _ (by unfold EF.apart; decide), unit_setUnit_apart _ _ _ (by unfold EF.apart; decide), unit_setUnit _ _ _ (by decide)]
  exact Nat.mod_eq_of_lt hRole

/-- What follows the writes of the unit itself when it fails: nothing of it changes. -/
theorem role_failUnit (hDie : c ≠ clsD2d) : ((failUnit c u).run s).role c u = 5 := by
  have hEvent : ∀ (w : State) (k l g d : Nat), ((rprEvent k c u l g d).run w).unit c u UNIT.ROLE = w.unit c u UNIT.ROLE := fun w k l g d =>
    Prog.Keeps.unit w (T := []) (keeps_rprEvent (List.Subset.refl _) (List.Subset.refl _)) List.not_mem_nil _
  have hPeg : ∀ (w : State) (g : Peg) (same : Peg → Bool), ((pegAdd g same).run w).unit c u UNIT.ROLE = w.unit c u UNIT.ROLE := fun w g same =>
    Prog.Keeps.unit w (T := []) (keeps_pegAdd (List.Subset.refl _) (List.Subset.refl _)) List.not_mem_nil _
  rw [failUnit, run_look, run_seqs_cons, run_seqs_cons, run_seqs_cons, run_seqs_cons, run_seqs_cons, run_seqs_nil, State.role]
  generalize hw : Prog.run (pegAdd _ _) _ = w
  have hRole : w.unit c u UNIT.ROLE = 5 := by
    rw [← hw, hPeg, hEvent, unit_setUnit_apart _ _ _ (by unfold EF.apart; decide)]
    exact role_setRole s 5 (by decide) hDie
  cases s.unit c u UNIT.HOME_VALID == 1 with
  | false => exact hRole
  | true =>
    rw [run_onlyIf_true _ _ rfl]
    cases s.holder c (s.unit c u UNIT.HOME) with
    | none => exact hRole
    | some v =>
      dsimp only
      by_cases hv : v = u
      · rw [run_onlyIf_false _ _ (by simp [hv]), hRole]
      · rw [run_onlyIf_true _ _ (by simp [hv]), run_seqs_cons, run_seqs_cons, run_seqs_cons, run_seqs_nil, hPeg, unit_setUnit_other _ (Ne.symm hv), unit_setUnit_other _ (Ne.symm hv), hRole]

/-- A unit that was not declared dead too often goes through its reset to the first self-test (R565). -/
theorem run_quarantine (h : (s.deadsOf c u).length < 3) :
    (quarantine c u).run s = (setUnitX c u (fun x => { x with test := 1, passed := false })).run ((setRole c u 3).run s) := by
  rw [quarantine, run_look, if_neg (by omega), run_andThen]

theorem quarantine_tests (hDie : c ≠ clsD2d) (h : (s.deadsOf c u).length < 3) :
    ((quarantine c u).run s).role c u = 3 ∧ (((quarantine c u).run s).unitXAt (unitKey c u)) = { s.unitXAt (unitKey c u) with test := 1, passed := false } := by
  have hKept : s.same ((setRole c u 3).run s) .unitX := State.framed_same (keeps_setRole (l := []) (R := []) (T := [_]) List.mem_cons_self hDie s) .unitX (by decide)
  rw [run_quarantine s h, unitXAt_setUnitX, State.same_unitXAt hKept]
  exact ⟨(Prog.Keeps.unit _ (l := [.unitX]) (R := []) (T := []) (keeps_setUnitX List.mem_cons_self) List.not_mem_nil _).trans (role_setRole s 3 (by decide) hDie), rfl⟩

end Roles

end Sys2Proof.Machine
end

