-- ==== Sys2Proof/Proofs/RepairCommands.lean ====
section
/-!
PROOF. The repair controller's commands, what they do and what they leave alone (spec/16_repair_and_redundancy.md R551, R556, R565, R567;
spec/20_presence_seal_journal.md R641).
-/
namespace Sys2Proof.Machine

/-! ### A command of the repair controller -/

theorem plainReg_rprCmd : plainReg 9 0x204 0xF000077F = true := by decide +kernel

/-- The fields that a taken command writes before its operation. -/
def rprCmdFlds : List Fld := [[RPR_CMD.reg, RPR_CMD_STAT.reg], recFlds].flatten

/-- What the operation of a command that the repair controller has taken finds. -/
structure State.repairing (s v : State) : Prop where
  framed : s.framed v hostPieces rprCmdFlds []
  await : v.jnlAwait ≤ s.jnlAwait + 2
  busy : v.rd RPR_CMD_STAT.BUSY = 1

section Repairing
variable {s v : State}

theorem State.repairing.unit (h : s.repairing v) (c u : Nat) (x : EF) : v.unit c u x = s.unit c u x := State.framed_unit h.framed List.not_mem_nil x

theorem State.repairing.role (h : s.repairing v) (c u : Nat) : v.role c u = s.role c u := h.unit c u _

theorem State.repairing.unitXAt (h : s.repairing v) (k : Nat) : v.unitXAt k = s.unitXAt k := State.same_unitXAt (State.framed_same h.framed .unitX (by decide)) k

theorem State.repairing.recovAt (h : s.repairing v) (c : Nat) : v.recovAt c = s.recovAt c := State.same_recovAt (State.framed_same h.framed .recov (by decide)) c

theorem State.repairing.mono (h : s.repairing v) : v.mono = s.mono := State.same_mono (State.framed_same h.framed .mono16 (by decide))

theorem State.repairing.spares (h : s.repairing v) (c : Nat) : v.spares c = s.spares c := State.spares_congr (h.unit c) h.unitXAt

theorem State.repairing.revertOf (h : s.repairing v) (c u : Nat) : v.revertOf c u = s.revertOf c u :=
  State.revertOf_congr (h.unit c) h.unitXAt (h.recovAt c) h.mono u

theorem State.repairing.gateResult (h : s.repairing v) (hRoom : s.jnlAwait < 61430) : v.gateResult false = s.gateResult false := by
  have := h.await
  exact gateResult_congr (by omega) (by omega) (State.framed_rd h.framed _ (by decide) (by unfold Fld.apart; decide))
    (State.framed_rd h.framed _ (by decide) (by unfold Fld.apart; decide)) (State.framed_rd h.framed _ (by decide) (by unfold Fld.apart; decide)) false

end Repairing

/-- A recorded command of an idle controller runs its operation with BUSY shown. -/
theorem rprCmd_run {m : Nat} {w data : Word} {v : State} (hManager : isManager m = true) (hIdle : v.rd RPR_CMD_STAT.BUSY = 0) :
    (rprCmd m w data).run v = (rprOp m (fieldOf data 31 28) (fieldOf data 10 8) (fieldOf data 6 0)).run
      ((setF RPR_CMD_STAT.DONE 0).run ((setF RPR_CMD_STAT.BUSY 1).run ((setReg 9 0x204 w).run v))) := by
  rw [rprCmd, run_look]
  simp only [hManager, Bool.not_true, Bool.false_eq_true, if_false, hIdle]
  rw [run_onlyIf_true (b := 0 == 0) _ _ rfl, run_seqs_cons, run_seqs_cons, run_seqs_cons, run_seqs_cons, run_seqs_nil]

theorem State.accepted.repairing {s v : State} (h : s.accepted v) (w : Word) :
    s.repairing ((setF RPR_CMD_STAT.DONE 0).run ((setF RPR_CMD_STAT.BUSY 1).run ((setReg 9 0x204 w).run v))) := by
  have hReg : (setReg 9 0x204 w).Keeps hostPieces rprCmdFlds [] := keeps_setReg (show RPR_CMD.reg ∈ rprCmdFlds by decide)
  have hBusy : (setF RPR_CMD_STAT.BUSY 1).Keeps hostPieces rprCmdFlds [] := keeps_setF_in (show RPR_CMD_STAT.reg ∈ rprCmdFlds by decide)
  have hDone : (setF RPR_CMD_STAT.DONE 0).Keeps hostPieces rprCmdFlds [] := keeps_setF_in (show RPR_CMD_STAT.reg ∈ rprCmdFlds by decide)
  refine ⟨State.framed_trans (State.framed_mono h.recorded.framed (List.Subset.refl _) (List.subset_append_right [RPR_CMD.reg, RPR_CMD_STAT.reg] recFlds) (List.Subset.refl _))
    (State.framed_trans (hReg _) (State.framed_trans (hBusy _) (hDone _))), ?_, ?_⟩
  · have hOnly : (seqs [setReg 9 0x204 w, setF RPR_CMD_STAT.BUSY 1, setF RPR_CMD_STAT.DONE 0]).Only [.regs] :=
      ⟨List.mem_cons_self, only_setF List.mem_cons_self, only_setF List.mem_cons_self⟩
    exact le_of_eq_of_le (jnlAwait_of_onlyIn (hOnly.onlyIn v) (by decide)) h.await
  · rw [rd_setF_apart _ _ (by unfold Fld.apart; decide), rd_setF_fits _ (by decide)]

/-- An idle repair controller takes a manager's command; UNRETIRE needs room for its record. -/
theorem command_rpr {i : Instr} {m op : Nat} {data : Word} {s : State} {E : State → Prop} (hWf : i.wellFormed = true) (hTakes : s.takesCmd m 9 = true)
    (hManager : isManager m = true) (hIdle : s.rd RPR_CMD_STAT.BUSY = 0) (hOp : op < 16) (hRoom : op = 4 → s.jnlAwait < 61430)
    (hE : ∀ v, s.repairing v → E ((rprOp m op (fieldOf data 10 8) (fieldOf data 6 0)).run v)) :
    ∃ t, command i (hostWrite m 9 0x204 15 (withOp op data)) s = .next t ∧ E t := by
  obtain ⟨hTakes, hEn⟩ := takesCmd_takes hTakes
  obtain ⟨d, hPlain, -, -⟩ := plainReg_decl plainReg_rprCmd
  have hFull : s.gatedFull 9 (withOp op data).toNat = false := by
    rw [State.gatedFull, opcode_withOp hOp]
    by_cases hGated : op = 4
    · have := hRoom hGated
      simp [show ¬ 61440 ≤ s.jnlAwait by omega]
    · simp [hGated]
  refine command_tmAccepted hWf hTakes rfl hPlain ?_ fun v hv => ?_
  · simp [State.writeRefused, startsWork, hEn, hManager, hIdle, hFull]
  · have hIdle' : v.rd RPR_CMD_STAT.BUSY = 0 := (hv.recorded.rd (by decide)).trans hIdle
    have hControl : ∀ w, (controlWrite m 9 0x204 w (withOp op data)).run v = (rprCmd m w (withOp op data)).run v := fun w => by
      unfold controlWrite
      rw [run_look]
      simp only [Nat.reduceBEq, Bool.false_and, Bool.false_eq_true, if_false, beq_self_eq_true, Bool.and_self, if_true]
    rw [regDo_control (by decide) (by decide) (.inr (hv.recorded.enabled (by decide) hEn)), hControl, rprCmd_run hManager hIdle', fieldOf_withOp hOp,
      fieldOf_withOp_low _ _ (by decide), fieldOf_withOp_low _ _ (by decide)]
    exact hE _ (hv.repairing _)

/-! ### The end of a command and the recoveries that it asks for -/

theorem rprDone_shows {result : Nat} (hResult : result < 256) (s : State) : ((rprDone result).run s).rd RPR_CMD_STAT.BUSY = 0 ∧
    ((rprDone result).run s).rd RPR_CMD_STAT.DONE = 1 ∧ ((rprDone result).run s).rd RPR_CMD_STAT.RESULT = result := by
  rw [rprDone, run_seqs_cons, run_seqs_cons, run_seqs_cons, run_seqs_nil]
  refine ⟨?_, ?_, rd_setF_fits _ ⟨by decide, hResult⟩⟩
  · rw [rd_setF_apart _ _ (by unfold Fld.apart; decide), rd_setF_apart _ _ (by unfold Fld.apart; decide), rd_setF_fits _ (by decide)]
  · rw [rd_setF_apart _ _ (by unfold Fld.apart; decide), rd_setF_fits _ (by decide)]

/-- The end of a command leaves every unit and what is kept of it. -/
theorem role_rprDone (result : Nat) (s : State) (c u : Nat) : ((rprDone result).run s).role c u = s.role c u :=
  Prog.Keeps.unit s (keeps_rprDone (l := []) (R := [_]) (T := []) List.mem_cons_self) List.not_mem_nil _

theorem unitXAt_rprDone (result : Nat) (s : State) (k : Nat) : ((rprDone result).run s).unitXAt k = s.unitXAt k :=
  State.same_unitXAt (State.framed_same (keeps_rprDone (l := []) (R := [_]) (T := []) List.mem_cons_self s) .unitX (by decide)) k

/-- A unit of a class with a spare and no recovery is asked to hand over. -/
theorem run_rprHandover {s v : State} (hv : s.repairing v) {c u : Nat} (after : Nat) (rotated : Bool) (hRecov : s.recovAt c = []) (hSpares : s.spares c ≠ []) :
    (rprHandover c u after rotated).run v =
      (setRecov c [{ logical := s.unit c u UNIT.LOGICAL, old := u, at_ := s.mono, fault := false, after := after, cmd := true }]).run
        ((onlyIf rotated (.put (.rotLast (byClass v.rotLast c u)))).run v) := by
  have hIdle : v.recovering c = false := by rw [State.recovering, hv.recovAt, hRecov]; rfl
  have hSpare : (v.spares c).isEmpty = false := by rw [hv.spares]; simpa using hSpares
  rw [rprHandover, run_look]
  simp only [hIdle, hSpare, Bool.false_eq_true, if_false, hv.unit, hv.mono]
  rw [run_seqs_cons, run_seqs_cons, run_seqs_nil]

/-- BUSY stands while what is asked for is only kept. -/
theorem busy_setRecov (c : Nat) (rs : List Recov) (s : State) : ((setRecov c rs).run s).rd RPR_CMD_STAT.BUSY = s.rd RPR_CMD_STAT.BUSY := rfl

/-! ### The commands (R551, R556, R565, R567, R641) -/

section Commands
variable {m : Nat} {data : Word} {s : State} {c u : Nat}

theorem rprNop_ends (hWf : Instr.wellFormed (.rprNop m data) = true) (hTakes : s.takesCmd m 9 = true) (hManager : isManager m = true)
    (hIdle : s.rd RPR_CMD_STAT.BUSY = 0) :
    ∃ t, exec (.rprNop m data) s = .next t ∧ (t.rd RPR_CMD_STAT.BUSY = 0 ∧ t.rd RPR_CMD_STAT.DONE = 1 ∧ t.rd RPR_CMD_STAT.RESULT = 0) ∧
      s.framed t hostPieces rprCmdFlds [] := by
  simp only [exec, execRprNop]
  refine command_rpr hWf hTakes hManager hIdle (by decide) (fun h => absurd h (by decide)) fun v hv => ?_
  have hRun : (rprOp m 0 (fieldOf data 10 8) (fieldOf data 6 0)).run v = (rprDone 0).run v := rfl
  rw [hRun]
  exact ⟨rprDone_shows (by decide) v, State.framed_trans hv.framed (keeps_rprDone (by decide) v)⟩

theorem rprHandover_asks (hWf : Instr.wellFormed (.rprHandover m data) = true) (hTakes : s.takesCmd m 9 = true) (hManager : isManager m = true)
    (hIdle : s.rd RPR_CMD_STAT.BUSY = 0) (hc : c = fieldOf data 10 8) (hu : u = fieldOf data 6 0) (hClass : c ≤ 5) (hUnit : u < classUnits c) (hRole : s.role c u = 1)
    (hRecov : s.recovAt c = []) (hSpares : s.spares c ≠ []) :
    ∃ t, exec (.rprHandover m data) s = .next t ∧
      (t.recovAt c = [{ logical := s.unit c u UNIT.LOGICAL, old := u, at_ := s.mono, fault := false, after := 1, cmd := true }] ∧ t.rd RPR_CMD_STAT.BUSY = 1) ∧
      s.framed t (.recov :: hostPieces) rprCmdFlds [] := by
  simp only [exec, execRprHandover]
  refine command_rpr hWf hTakes hManager hIdle (by decide) (fun h => absurd h (by decide)) fun v hv => ?_
  have hBad : (decide (classUnits c ≤ u) || decide (5 < c)) = false := by simp; omega
  have hRun : (rprOp m 1 c u).run v = (rprHandover c u 1 false).run v := by
    rw [rprOp, run_look]
    simp [hBad, hv.role, hRole]
  rw [← hc, ← hu, hRun, run_rprHandover hv 1 false hRecov hSpares, run_onlyIf_false _ _ rfl]
  exact ⟨⟨recovAt_setRecov _ _ _, (busy_setRecov _ _ _).trans hv.busy⟩,
    State.framed_trans (State.framed_mono hv.framed (List.subset_cons_self _ _) (List.Subset.refl _) (List.Subset.refl _)) (keeps_setRecov List.mem_cons_self v)⟩

theorem rprTest_asks (hWf : Instr.wellFormed (.rprTest m data) = true) (hTakes : s.takesCmd m 9 = true) (hManager : isManager m = true)
    (hIdle : s.rd RPR_CMD_STAT.BUSY = 0) (hc : c = fieldOf data 10 8) (hu : u = fieldOf data 6 0) (hClass : c < 5) (hUnit : u < classUnits c) (hRole : s.role c u = 1)
    (hRecov : s.recovAt c = []) (hSpares : s.spares c ≠ []) :
    ∃ t, exec (.rprTest m data) s = .next t ∧
      (t.recovAt c = [{ logical := s.unit c u UNIT.LOGICAL, old := u, at_ := s.mono, fault := false, after := 2, cmd := true }] ∧ t.rd RPR_CMD_STAT.BUSY = 1) ∧
      s.framed t (.recov :: .rotLast :: hostPieces) rprCmdFlds [] := by
  simp only [exec, execRprTest]
  refine command_rpr hWf hTakes hManager hIdle (by decide) (fun h => absurd h (by decide)) fun v hv => ?_
  have hBad : (decide (classUnits c ≤ u) || decide (5 < c)) = false := by simp; omega
  have hTcam : (c == clsTcam) = false := beq_eq_false_iff_ne.mpr (Nat.ne_of_lt hClass)
  have hRun : (rprOp m 2 c u).run v = (rprHandover c u 2 true).run v := by
    rw [rprOp, run_look]
    simp [hBad, hv.role, hRole, hTcam]
  rw [← hc, ← hu, hRun, run_rprHandover hv 2 true hRecov hSpares, run_onlyIf_true _ _ rfl]
  refine ⟨⟨recovAt_setRecov _ _ _, (busy_setRecov _ _ _).trans ((rd_put (a := .rotLast _) _ (by simp) _).trans hv.busy)⟩, ?_⟩
  exact State.framed_trans (State.framed_mono hv.framed (by decide) (List.Subset.refl _) (List.Subset.refl _))
    (State.framed_trans (keeps_put (show Piece.rotLast ∈ _ by decide) (by simp) (by simp) v) (keeps_setRecov List.mem_cons_self _))

/-- The pieces and fields that the end of a unit may write beside a taken command's. -/
def retirePieces : List Piece := [[.unitX, .pegs, .pegDue, .rprEvt], errPieces, hostPieces].flatten
def retireFlds : List Fld :=
  [[RPR_CMD.reg, RPR_CMD_STAT.reg, RPR_PEG_STAT.reg, RPR_EVT_STAT.reg], errFlds 9, recFlds, irqFlds 9 16, irqFlds 9 17].flatten

theorem rprCmdFlds_retire : rprCmdFlds ⊆ retireFlds := by decide

theorem unitFailFlds_retire : unitFailFlds ⊆ retireFlds := by decide

theorem State.repairing.retires {v : State} (h : s.repairing v) : s.framed v retirePieces retireFlds (classKeys c) :=
  State.framed_mono h.framed (by decide) rprCmdFlds_retire (List.nil_subset _)

theorem rprRetire_fails (hWf : Instr.wellFormed (.rprRetire m data) = true) (hTakes : s.takesCmd m 9 = true) (hManager : isManager m = true)
    (hIdle : s.rd RPR_CMD_STAT.BUSY = 0) (hc : c = fieldOf data 10 8) (hu : u = fieldOf data 6 0) (hClass : c ≤ 2) (hUnit : u < classUnits c) (hRole : s.role c u = 2)
    (hRecov : s.recovAt c = []) :
    ∃ t, exec (.rprRetire m data) s = .next t ∧ (t.role c u = 5 ∧ t.rd RPR_CMD_STAT.RESULT = 0 ∧ t.rd RPR_CMD_STAT.DONE = 1) ∧
      s.framed t retirePieces retireFlds (classKeys c) := by
  simp only [exec, execRprRetire]
  refine command_rpr hWf hTakes hManager hIdle (by decide) (fun h => absurd h (by decide)) fun v hv => ?_
  have hBad : (decide (classUnits c ≤ u) || decide (5 < c)) = false := by simp; omega
  have hDie : c ≠ clsD2d := by rintro rfl; exact absurd hClass (by decide)
  have hRun : (rprOp m 3 c u).run v = (rprDone 0).run ((failUnit c u).run v) := by
    rw [rprOp, run_look]
    simp [hBad, hv.role, hRole, hv.recovAt, hRecov, run_andThen]
  obtain ⟨-, hDone, hResult⟩ := rprDone_shows (result := 0) (by decide) ((failUnit c u).run v)
  rw [← hc, ← hu, hRun]
  exact ⟨⟨(role_rprDone _ _ _ _).trans (role_failUnit v hDie), hResult, hDone⟩, State.framed_trans hv.retires (State.framed_trans
    (keeps_failUnit (by decide) unitFailFlds_retire (mem_classKeys hUnit) (List.Subset.refl _) hDie v) (keeps_rprDone (by decide) _))⟩

/-- What an accepted UNRETIRE does. -/
def unretired (c u : Nat) : Prog := seqs [
  pegRemove { kind := 1, cls := c, unit := u } (fun g => g.kind == 1 && g.cls == c && g.unit == u), setUnitX c u (fun _ => {}), quarantine c u]

/-- A unit of which nothing is kept goes through its self-test. -/
theorem unretired_tests (hDie : c ≠ clsD2d) (v : State) : ((unretired c u).run v).role c u = 3 ∧ (((unretired c u).run v).unitXAt (unitKey c u)).test = 1 := by
  rw [unretired, run_seqs_cons, run_seqs_cons, run_seqs_cons, run_seqs_nil]
  generalize (pegRemove _ _).run v = w
  have hClear : ((setUnitX c u (fun _ => {})).run w).unitXAt (unitKey c u) = {} := unitXAt_setUnitX w c u _
  have hDeads : (((setUnitX c u (fun _ => {})).run w).deadsOf c u).length < 3 := by rw [State.deadsOf, hClear]; exact Nat.zero_lt_succ _
  obtain ⟨hRole, hX⟩ := quarantine_tests _ hDie hDeads
  exact ⟨hRole, by rw [hX]⟩

theorem keeps_unretired {l : List Piece} {R : List Fld} {T : List Nat} (hl : unitFailPieces ⊆ l) (hX : .unitX ∈ l) (hR : unitFailFlds ⊆ R) (hT : tabKey 9 0 (unitKey c u) ∈ T)
    (hKeys : classKeys c ⊆ T) (hDie : c ≠ clsD2d) : (unretired c u).Keeps l R T :=
  keeps_seqs_cons (keeps_pegRemove (List.Subset.trans (List.subset_append_right _ _) hl) (List.Subset.trans (List.subset_append_right _ _) hR))
    (keeps_seqs_cons (keeps_setUnitX hX) (keeps_seqs_cons (keeps_quarantine hl hX hR hT hKeys hDie) keeps_seqs_nil))

theorem rprUnretire_tests (hWf : Instr.wellFormed (.rprUnretire m data) = true) (hTakes : s.takesCmd m 9 = true) (hManager : isManager m = true)
    (hIdle : s.rd RPR_CMD_STAT.BUSY = 0) (hc : c = fieldOf data 10 8) (hu : u = fieldOf data 6 0) (hClass : c ≤ 2) (hUnit : u < classUnits c) (hRole : s.role c u = 5)
    (hGate : s.gateResult false = 0) (hRoom : s.jnlAwait < 61430) :
    ∃ t, exec (.rprUnretire m data) s = .next t ∧ (t.role c u = 3 ∧ (t.unitXAt (unitKey c u)).test = 1 ∧ t.rd RPR_CMD_STAT.RESULT = 0) ∧
      s.framed t retirePieces retireFlds (classKeys c) := by
  simp only [exec, execRprUnretire]
  refine command_rpr hWf hTakes hManager hIdle (by decide) (fun _ => hRoom) fun v hv => ?_
  have hBad : (decide (classUnits c ≤ u) || decide (5 < c)) = false := by simp; omega
  have hDie : c ≠ clsD2d := by rintro rfl; exact absurd hClass (by decide)
  have hAwait : v.jnlAwait < 61440 := by have := hv.await; omega
  obtain ⟨r, hGated⟩ := gated_run (page := 9) (m := m) (op := 4) (arg := u) (result := 0) (p := unretired c u) hAwait
  have hRun : (rprOp m 4 c u).run v = (rprDone 0).run ((unretired c u).run ((recordLater r).run v)) := by
    rw [rprOp, run_look]
    simp only [Nat.reduceBEq, Nat.reduceLeDiff, Bool.false_eq_true, if_false, if_true, hBad]
    rw [rprUnretire, run_look]
    simp only [hv.gateResult hRoom, hGate, bne_self_eq_false, hv.role, hRole, Bool.false_eq_true, if_false]
    rw [run_andThen]
    exact congrArg _ (hGated.trans (run_onlyIf_true _ _ rfl))
  obtain ⟨-, -, hResult⟩ := rprDone_shows (result := 0) (by decide) ((unretired c u).run ((recordLater r).run v))
  obtain ⟨hTested, hTest⟩ := unretired_tests (c := c) (u := u) hDie ((recordLater r).run v)
  rw [← hc, ← hu, hRun]
  exact ⟨⟨(role_rprDone _ _ _ _).trans hTested, by rw [unitXAt_rprDone, hTest], hResult⟩, State.framed_trans hv.retires
    (State.framed_trans (keeps_recordLater (by decide) (by decide) v) (State.framed_trans
      (keeps_unretired (by decide) (by decide) unitFailFlds_retire (mem_classKeys hUnit) (List.Subset.refl _) hDie _) (keeps_rprDone (by decide) _)))⟩

theorem rprRevert_asks {r : Recov} (hWf : Instr.wellFormed (.rprRevert m data) = true) (hTakes : s.takesCmd m 9 = true) (hManager : isManager m = true)
    (hIdle : s.rd RPR_CMD_STAT.BUSY = 0) (hc : c = fieldOf data 10 8) (hu : u = fieldOf data 6 0) (hClass : c ≤ 5) (hUnit : u < classUnits c) (hRevert : s.revertOf c u = some r) :
    ∃ t, exec (.rprRevert m data) s = .next t ∧ (t.recovAt c = [{ r with cmd := true }] ∧ t.rd RPR_CMD_STAT.BUSY = 1) ∧
      s.framed t (.recov :: hostPieces) rprCmdFlds [] := by
  simp only [exec, execRprRevert]
  refine command_rpr hWf hTakes hManager hIdle (by decide) (fun h => absurd h (by decide)) fun v hv => ?_
  have hBad : (decide (classUnits c ≤ u) || decide (5 < c)) = false := by simp; omega
  have hRun : (rprOp m 5 c u).run v = (setRecov c [{ r with cmd := true }]).run v := by
    rw [rprOp, run_look]
    simp [hBad, hv.revertOf, hRevert]
  rw [← hc, ← hu, hRun]
  exact ⟨⟨recovAt_setRecov _ _ _, (busy_setRecov _ _ _).trans hv.busy⟩,
    State.framed_trans (State.framed_mono hv.framed (List.subset_cons_self _ _) (List.Subset.refl _) (List.Subset.refl _)) (keeps_setRecov List.mem_cons_self v)⟩

end Commands

/-- Settles O18, command by command: each runs its operation after the record of its own write. -/
theorem repairCommands : Obligations.RepairCommands := by
  unfold Obligations.RepairCommands
  refine ⟨?_, ?_, ?_, ?_, ?_, ?_⟩
  · intro m data s hWf hTakes hManager hIdle
    obtain ⟨t, hExec, hEnds, -⟩ := rprNop_ends hWf hTakes hManager hIdle
    exact ⟨t, hExec, hEnds⟩
  · intro m data c u s hWf hTakes hManager hIdle hc hu hClass hUnit hRole hRecov hSpares
    obtain ⟨t, hExec, hAsks, -⟩ := rprHandover_asks hWf hTakes hManager hIdle hc hu hClass hUnit hRole hRecov hSpares
    exact ⟨t, hExec, hAsks⟩
  · intro m data c u s hWf hTakes hManager hIdle hc hu hClass hUnit hRole hRecov hSpares
    obtain ⟨t, hExec, hAsks, -⟩ := rprTest_asks hWf hTakes hManager hIdle hc hu hClass hUnit hRole hRecov hSpares
    exact ⟨t, hExec, hAsks⟩
  · intro m data c u s hWf hTakes hManager hIdle hc hu hClass hUnit hRole hRecov
    obtain ⟨t, hExec, hFails, -⟩ := rprRetire_fails hWf hTakes hManager hIdle hc hu hClass hUnit hRole hRecov
    exact ⟨t, hExec, hFails⟩
  · intro m data c u s hWf hTakes hManager hIdle hc hu hClass hUnit hRole hGate hRoom
    obtain ⟨t, hExec, hTests, -⟩ := rprUnretire_tests hWf hTakes hManager hIdle hc hu hClass hUnit hRole hGate hRoom
    exact ⟨t, hExec, hTests⟩
  · intro m data c u r s hWf hTakes hManager hIdle hc hu hClass hUnit hRevert
    obtain ⟨t, hExec, hAsks, -⟩ := rprRevert_asks hWf hTakes hManager hIdle hc hu hClass hUnit hRevert
    exact ⟨t, hExec, hAsks⟩

end Sys2Proof.Machine
end

