-- ==== Sys2Proof/Proofs/UnitsTaken.lean ====
section
/-!
PROOF. A unit's epoch, its error, its takeover and the bank copy; the spreading of a pipeline's buckets (spec/16_repair_and_redundancy.md R553 to R571).
-/
namespace Sys2Proof.Machine

theorem State.onlyIn_mono {s t : State} {l l' : List Piece} (h : s.onlyIn t l) (hl : l ⊆ l') : s.onlyIn t l' := fun f hf => h f fun hm => hf (hl hm)

/-! ### EPOCH_BOUNDARY and UNIT_ERROR_REPORT (R553, R556) -/

theorem begun_epochImage (s : State) (c u l : Nat) : s.begun.epochImage c u l = s.epochImage c u l := rfl

theorem begun_unit (s : State) (c u : Nat) (x : EF) : s.begun.unit c u x = s.unit c u x := rfl

theorem begun_role (s : State) (c u : Nat) : s.begun.role c u = s.role c u := rfl

theorem epochBoundary_keeps {cls unit : Nat} {s : State} (hWf : Instr.wellFormed (.epochBoundary cls unit true) = true) (hClass : cls ≤ 1) (hRole : s.role cls unit = 1) :
    ∃ t, exec (.epochBoundary cls unit true) s = .next t ∧
      t.scarfAt (unitKey cls (s.unit cls unit UNIT.LOGICAL)) = s.epochImage cls unit (s.unit cls unit UNIT.LOGICAL) ∧ s.framed t [.scarf, .emitted] [] [] := by
  have hGo : (decide (cls ≤ 1) && s.begun.role cls unit == 1) = true := by rw [begun_role, hRole]; simpa using hClass
  simp only [exec, execEpochBoundary]
  refine command_answers hWf ?_
  rw [run_look]
  rw [run_onlyIf_true _ _ hGo, if_pos True.intro, begun_unit, begun_epochImage]
  refine ⟨?_, State.framed_trans (begun_framed (by decide) s) (keeps_put (show Piece.scarf ∈ _ by decide) (by simp) (by simp) _)⟩
  rw [run_put, Act.scarf_apply, if_pos rfl]

theorem unitErrorReport_declares {unit kind word : Nat} {s : State} (hWf : Instr.wellFormed (.unitErrorReport clsLkup unit (kind, word)) = true) (hKind : kind ≠ 0x20)
    (hUnit : unit < classUnits clsLkup) (hRole : s.role clsLkup unit = 1) (hSpare : (s.spareOf clsLkup).isSome = true) (hNone : s.declared = []) :
    ∃ t, exec (.unitErrorReport clsLkup unit (kind, word)) s = .next t ∧ t.declared = [(clsLkup, unit, kind % 1024)] ∧ s.framed t [.declared, .emitted] [] [] := by
  have hCorrected : (clsLkup == clsLkup && kind == 0x020) = false := by rw [beq_false_of_ne hKind, Bool.and_false]
  have hBegun : s.begun.spareOf clsLkup = s.spareOf clsLkup := rfl
  have hStays : (clsLkup == clsLkup && s.begun.role clsLkup unit == 1 && (s.begun.spareOf clsLkup).isNone && (s.begun.inProgress clsLkup).isNone) = false := by
    rw [hBegun, Option.isNone_eq_false_iff.mpr hSpare, Bool.and_false, Bool.false_and]
  have hDeclare : ((s.begun.role clsLkup unit == 1 || s.begun.role clsLkup unit == 2 || s.begun.role clsLkup unit == 3) &&
      !s.begun.declared.any (fun d => d.1 == clsLkup && d.2.1 == unit)) = true := by
    rw [begun_role, hRole, show s.begun.declared = [] from hNone]
    rfl
  simp only [exec, execUnitErrorReport]
  refine command_answers hWf ?_
  rw [run_look]
  rw [run_onlyIf_true _ _ (decide_eq_true hUnit), if_neg (Bool.eq_false_iff.mp hCorrected), run_seqs_cons, run_seqs_cons, run_seqs_cons, run_seqs_nil,
    run_onlyIf_false (b := decide (clsLkup ≤ 2)) _ _ (by decide), run_onlyIf_false _ _ hStays, declareUnit, run_look, run_onlyIf_true _ _ hDeclare, show s.begun.declared = [] from hNone]
  exact ⟨rfl, State.framed_trans (begun_framed (by decide) s) (keeps_put (show Piece.declared ∈ _ by decide) (by simp) (by simp) _)⟩

/-! ### FAULT_TAKEOVER of a unit without a place (R556, R557, R565) -/

/-- A class without a recovery begins none. -/
theorem startNext_idle {s : State} {c : Nat} (h : s.recovAt c = []) : (startNext c).run s = s := by
  rw [startNext, run_look]
  simp only [State.inProgress, h, List.find?_nil, Option.isNone_none]
  rw [run_onlyIf_true _ _ rfl, run_skip]

/-- What comes before the quarantine of a declared service core that has no place. -/
def fencedIdle (u l gen cause : Nat) (s : State) : Prog := seqs [
  .put (.declared []),
  bumpTabF 9 0 (unitKey clsScore u) UNIT.DEAD_COUNT 1,
  setUnitX clsScore u (fun x => { x with deads := s.mono :: s.deadsOf clsScore u, passed := false }),
  setUnit clsScore u UNIT.ROLE 4,
  setUnitX clsScore u (fun x => { x with fencedAt := some s.mono, stale := false }),
  rprEvent 6 clsScore u l gen cause,
  changeRecov clsScore (fun r => r.fault && r.running && r.new == some u) (fun r => { r with new := none, running := false })]

/-- These writes as the takeover makes them, one after another. -/
theorem fencedIdle_run (u l gen cause : Nat) (s t : State) : (fencedIdle u l gen cause s).run t =
    (changeRecov clsScore (fun r => r.fault && r.running && r.new == some u) (fun r => { r with new := none, running := false })).run
      ((rprEvent 6 clsScore u l gen cause).run ((setUnitX clsScore u (fun x => { x with fencedAt := some s.mono, stale := false })).run ((setUnit clsScore u UNIT.ROLE 4).run
        ((setUnitX clsScore u (fun x => { x with deads := s.mono :: s.deadsOf clsScore u, passed := false })).run ((bumpTabF 9 0 (unitKey clsScore u) UNIT.DEAD_COUNT 1).run
          ((Prog.put (.declared [])).run t)))))) := by
  rw [fencedIdle]
  iterate 7 rw [run_seqs_cons]
  rw [run_seqs_nil]

/-- The pieces and fields that a takeover writes beside the units' entries. -/
def takeoverPieces : List Piece := [.declared, .unitX, .recov] ++ unitFailPieces
def takeoverFlds (c : Nat) : List Fld := ⟨9, 0x20C, 8 + c, 8 + c⟩ :: unitFailFlds

theorem unitFailFlds_takeover (c : Nat) : unitFailFlds ⊆ takeoverFlds c := List.subset_cons_self _ _

theorem keeps_takeoverEvent {T : List Nat} (k c u l gen detail x : Nat) : (rprEvent k c u l gen detail).Keeps takeoverPieces (takeoverFlds x) T :=
  keeps_rprEvent (by decide) (List.Subset.trans (by decide) (unitFailFlds_takeover x))

theorem keeps_fencedIdle (u l gen cause : Nat) (s : State) : (fencedIdle u l gen cause s).Keeps takeoverPieces (takeoverFlds clsScore) [tabKey 9 0 (unitKey clsScore u)] :=
  keeps_seqs_cons (keeps_put (show Piece.declared ∈ _ by decide) (by simp) (by simp)) (keeps_seqs_cons (keeps_bumpTabF List.mem_cons_self)
    (keeps_seqs_cons (keeps_setUnitX (by decide)) (keeps_seqs_cons (keeps_setUnit List.mem_cons_self) (keeps_seqs_cons (keeps_setUnitX (by decide))
      (keeps_seqs_cons (keeps_takeoverEvent _ _ _ _ _ _ _) (keeps_seqs_cons (keeps_changeRecov (by decide)) keeps_seqs_nil))))))

theorem fencedIdle_leaves {u : Nat} (l gen cause : Nat) {s : State} (hRecov : s.recovAt clsScore = []) :
    ((fencedIdle u l gen cause s).run s).declared = [] ∧ ((fencedIdle u l gen cause s).run s).recovAt clsScore = [] ∧
      ((fencedIdle u l gen cause s).run s).unitXAt (unitKey clsScore u) =
        { s.unitXAt (unitKey clsScore u) with deads := s.mono :: s.deadsOf clsScore u, passed := false, fencedAt := some s.mono, stale := false } := by
  have hEvent : (rprEvent 6 clsScore u l gen cause).Keeps unitEventPieces unitEventFlds [] := keeps_rprEvent (List.Subset.refl _) (List.Subset.refl _)
  have hMarks : (seqs [bumpTabF 9 0 (unitKey clsScore u) UNIT.DEAD_COUNT 1, setUnitX clsScore u (fun x => { x with deads := s.mono :: s.deadsOf clsScore u, passed := false }),
      setUnit clsScore u UNIT.ROLE 4, setUnitX clsScore u (fun x => { x with fencedAt := some s.mono, stale := false })]).Keeps [.unitX] []
      [tabKey 9 0 (unitKey clsScore u)] :=
    keeps_seqs_cons (keeps_bumpTabF List.mem_cons_self) (keeps_seqs_cons (keeps_setUnitX List.mem_cons_self) (keeps_seqs_cons (keeps_setUnit List.mem_cons_self)
      (keeps_seqs_cons (keeps_setUnitX List.mem_cons_self) keeps_seqs_nil)))
  have hMarked := hMarks ((Prog.put (.declared [])).run s)
  simp only [run_seqs_cons, run_seqs_nil] at hMarked
  rw [fencedIdle_run]
  generalize hBefore : (setUnitX clsScore u (fun x => { x with fencedAt := some s.mono, stale := false })).run _ = w at *
  have hDeclared : w.declared = [] := (State.framed_same hMarked .declared (by decide)).symm
  have hNone : w.recovAt clsScore = [] := (State.same_recovAt (State.framed_same hMarked .recov (by decide)) _).trans hRecov
  have hX : w.unitXAt (unitKey clsScore u) =
      { s.unitXAt (unitKey clsScore u) with deads := s.mono :: s.deadsOf clsScore u, passed := false, fencedAt := some s.mono, stale := false } := by
    rw [← hBefore, unitXAt_setUnitX, unitXAt_setUnit, unitXAt_setUnitX, unitXAt_bumpTabF]
    rfl
  have hEventDeclared := (hEvent.same w .declared (by decide)).symm.trans hDeclared
  have hEventNone := (State.same_recovAt (hEvent.same w .recov (by decide)) clsScore).trans hNone
  have hEventX := (State.same_unitXAt (hEvent.same w .unitX (by decide)) (unitKey clsScore u)).trans hX
  generalize (rprEvent 6 clsScore u l gen cause).run w = z at *
  rw [changeRecov, run_look, hEventNone]
  exact ⟨hEventDeclared, recovAt_setRecov _ _ _, hEventX⟩

/-- A declared service core without a place is fenced, counted and sent to quarantine's self-test. -/
theorem faultTakeover_quarantines {u cause : Nat} {s : State} (hWf : Instr.wellFormed (.faultTakeover clsScore) = true) (hDeclared : s.declared = [(clsScore, u, cause)])
    (hRole : s.role clsScore u = 2) (hRecov : s.recovAt clsScore = []) (hDeads : (s.deadsOf clsScore u).length ≤ 1) :
    ∃ t, exec (.faultTakeover clsScore) s = .next t ∧ t.declared = [] ∧ t.role clsScore u = 3 ∧ (t.unitXAt (unitKey clsScore u)).test = 1 ∧
      (t.unitXAt (unitKey clsScore u)).fencedAt = some s.mono ∧ t.recovAt clsScore = [] ∧ s.onlyIn t (.regs :: .tables :: takeoverPieces) := by
  have hDeclaredBegun : s.begun.declared = [(clsScore, u, cause)] := hDeclared
  have hRecovBegun : s.begun.recovAt clsScore = [] := hRecov
  have hRoleBegun : s.begun.role clsScore u = 2 := hRole
  simp only [exec, execFaultTakeover]
  refine command_answers hWf ?_
  rw [run_look]
  simp only [hDeclaredBegun, List.find?_cons, beq_self_eq_true, hRoleBegun, hRecovBegun, List.filter_nil]
  rw [run_onlyIf_true (b := 2 != 1 || s.begun.genFree clsScore (s.begun.unit clsScore u UNIT.LOGICAL)) _ _ rfl]
  iterate 6 rw [run_seqs_cons]
  rw [run_seqs_nil, if_neg (show ¬ (2 == 1) = true by decide)]
  iterate 3 rw [run_seqs_cons]
  rw [run_seqs_nil]
  iterate 4 rw [run_seqs_cons]
  rw [run_seqs_nil, run_onlyIf_false (b := clsScore == clsD2d) _ _ rfl]
  have hGone : [(clsScore, u, cause)].filter (fun x => !(x.1 == clsScore && x.2.1 == u)) = [] := by simp
  rw [hGone, each, run_skip, ← fencedIdle_run]
  obtain ⟨hNone, hFree, hX⟩ := fencedIdle_leaves (u := u) (s.begun.unit clsScore u UNIT.LOGICAL) (s.begun.unit clsScore u UNIT.GEN) cause hRecovBegun
  have hFrame := keeps_fencedIdle u (s.begun.unit clsScore u UNIT.LOGICAL) (s.begun.unit clsScore u UNIT.GEN) cause s.begun s.begun
  generalize (fencedIdle u _ _ cause s.begun).run s.begun = w at *
  have hMono : w.mono = s.mono := State.same_mono (State.framed_same hFrame .mono16 (by decide))
  have hOld : s.begun.unitXAt (unitKey clsScore u) = s.unitXAt (unitKey clsScore u) := rfl
  have hFew : (w.deadsOf clsScore u).length < 3 := by
    rw [State.deadsOf, hX]
    refine lt_of_le_of_lt (List.length_filter_le _ _) ?_
    rw [List.length_cons]
    exact Nat.lt_succ_of_le (Nat.succ_le_succ hDeads)
  obtain ⟨hTests, hKept⟩ := quarantine_tests w (by decide) hFew
  have hKeeps : (quarantine clsScore u).run w = (seqs [setRole clsScore u 3, setUnitX clsScore u (fun x => { x with test := 1, passed := false })]).run w := run_quarantine w hFew
  have hLast : w.framed ((quarantine clsScore u).run w) [.unitX] [] [tabKey 9 0 (unitKey clsScore u)] := hKeeps ▸
    keeps_seqs_cons (keeps_setRole List.mem_cons_self (by decide)) (keeps_seqs_cons (keeps_setUnitX List.mem_cons_self) keeps_seqs_nil) w
  generalize (quarantine clsScore u).run w = z at *
  have hIdle : z.recovAt clsScore = [] := (State.same_recovAt (State.framed_same hLast .recov (by decide)) _).trans hFree
  rw [startNext_idle hIdle]
  refine ⟨(State.framed_same hLast .declared (by decide)).symm.trans hNone, hTests, ?_, ?_, hIdle, ?_⟩
  · rw [hKept]
  · rw [hKept, hX]; rfl
  · exact State.onlyIn_trans (State.framed.onlyIn (begun_framed (l := takeoverPieces) (R := []) (T := []) (by decide) s) (List.Subset.refl _))
      (State.onlyIn_trans (State.framed.onlyIn hFrame (List.Subset.refl _)) (State.framed.onlyIn hLast (by decide)))

/-! ### The end of a fault recovery (R557, R559, R571) -/

/-- A service core or a lookup bank takes a place: its entry, what is kept of it, and of a bank the peg map's record. -/
theorem takePlace_run {c u l : Nat} {s : State} (hc : c = clsScore ∨ c = clsLkup) (hHome : c ≤ 2 → (s.home c l).isSome = true) :
    (takePlace c u l).run s =
      (onlyIf (c == clsLkup || c == clsTcam) (pegAdd { kind := 3, cls := c, unit := u, detail := l } (fun g => g.kind == 3 && g.cls == c && g.detail == l))).run
        ((setUnitX c u (fun x => { x with back := none, test := 0 })).run ((setUnit c u UNIT.GEN (if c ≤ 2 then s.gensAt (unitKey c l) else 0)).run
          ((setUnit c u UNIT.LOGICAL l).run ((setUnit c u UNIT.ROLE 1).run s)))) := by
  have hDie : (c == clsD2d) = false := by rcases hc with rfl | rfl <;> rfl
  have hNoHome : (decide (c ≤ 2) && (s.home c l).isNone) = false := by
    by_cases hLow : c ≤ 2
    · rw [Option.isNone_eq_false_iff.mpr (hHome hLow), Bool.and_false]
    · rw [decide_eq_false hLow, Bool.false_and]
  rw [takePlace, run_look]
  simp only [hDie, hNoHome, Bool.false_eq_true, if_false]
  iterate 8 rw [run_seqs_cons]
  rw [run_seqs_nil, run_onlyIf_false (b := false) _ _ rfl, run_onlyIf_false (b := false) _ _ rfl, run_onlyIf_false (b := false) _ _ rfl]

/-- What the entry of a unit shows once it has taken a place. -/
theorem takePlace_shows {c u l : Nat} {s : State} (hc : c = clsScore ∨ c = clsLkup) (hHome : c ≤ 2 → (s.home c l).isSome = true) :
    ((takePlace c u l).run s).unit c u UNIT.ROLE = 1 ∧ ((takePlace c u l).run s).unit c u UNIT.LOGICAL = l % 2 ^ (UNIT.LOGICAL.hi + 1 - UNIT.LOGICAL.lo) ∧
      (c = clsLkup → ((takePlace c u l).run s).unit c u UNIT.GEN = 0) := by
  have hLast : ∀ (w : State) (x : EF), ((onlyIf (c == clsLkup || c == clsTcam) (pegAdd { kind := 3, cls := c, unit := u, detail := l }
      (fun g => g.kind == 3 && g.cls == c && g.detail == l))).run ((setUnitX c u (fun x => { x with back := none, test := 0 })).run w)).unit c u x = w.unit c u x := fun w x =>
    (Prog.Keeps.unit _ (T := []) (keeps_onlyIf fun _ => keeps_pegAdd (List.Subset.refl _) (List.Subset.refl _)) List.not_mem_nil x).trans
      (Prog.Keeps.unit w (l := [.unitX]) (R := []) (T := []) (keeps_setUnitX List.mem_cons_self) List.not_mem_nil x)
  rw [takePlace_run hc hHome, hLast, hLast, hLast]
  refine ⟨?_, ?_, ?_⟩
  · rw [unit_setUnit_apart _ _ _ (by unfold EF.apart; decide), unit_setUnit_apart _ _ _ (by unfold EF.apart; decide), unit_setUnit _ _ _ (by decide)]
    rfl
  · rw [unit_setUnit_apart _ _ _ (by unfold EF.apart; decide), unit_setUnit _ _ _ (by decide)]
  · rintro rfl
    rw [unit_setUnit _ _ _ (by decide), if_neg (by decide), Nat.zero_mod]

theorem keeps_takenPlace {c u l : Nat} {s : State} (hc : c = clsScore ∨ c = clsLkup) (hHome : c ≤ 2 → (s.home c l).isSome = true) :
    s.framed ((takePlace c u l).run s) (.unitX :: unitFailPieces) unitFailFlds [tabKey 9 0 (unitKey c u)] := by
  have hKeeps : (seqs [setUnit c u UNIT.ROLE 1, setUnit c u UNIT.LOGICAL l, setUnit c u UNIT.GEN (if c ≤ 2 then s.gensAt (unitKey c l) else 0),
      setUnitX c u (fun x => { x with back := none, test := 0 }), onlyIf (c == clsLkup || c == clsTcam) (pegAdd { kind := 3, cls := c, unit := u, detail := l }
        (fun g => g.kind == 3 && g.cls == c && g.detail == l))]).Keeps (.unitX :: unitFailPieces) unitFailFlds [tabKey 9 0 (unitKey c u)] :=
    keeps_seqs_cons (keeps_setUnit List.mem_cons_self) (keeps_seqs_cons (keeps_setUnit List.mem_cons_self) (keeps_seqs_cons (keeps_setUnit List.mem_cons_self)
      (keeps_seqs_cons (keeps_setUnitX List.mem_cons_self) (keeps_seqs_cons (keeps_onlyIf fun _ => keeps_pegAdd (by decide) (by decide)) keeps_seqs_nil))))
  have hFrame := hKeeps s
  iterate 5 rw [run_seqs_cons] at hFrame
  rw [run_seqs_nil] at hFrame
  rw [takePlace_run hc hHome]
  exact hFrame

/-- The end of a class's only recovery, of which nothing was spread, after its class's unit has taken the place. -/
theorem endFault_run {c u : Nat} {r : Recov} {s : State} (hc : c = clsScore ∨ c = clsLkup) (hRecov : s.recovAt c = [r]) (hOld : r.old ≠ u) (hFull : r.degraded = false)
    (hBuckets : r.buckets = []) : ∃ gen, (endFault c u r).run s = (startNext c).run ((endDegraded c u r.logical).run ((quarantine c r.old).run
      ((rprEvent 3 c u r.logical gen r.cause).run ((bumpTabF 9 0 (unitKey c u) UNIT.TAKEOVERS 1).run ((takePlace c u r.logical).run ((setRecov c []).run s)))))) := by
  have hPipe : (c == clsPipe) = false := by rcases hc with rfl | rfl <;> rfl
  have hSch : (c == clsScheng) = false := by rcases hc with rfl | rfl <;> rfl
  have hDrop : (dropRecov c r).run s = (setRecov c []).run s := by
    rw [dropRecov, run_look, hRecov, List.filter_cons_of_neg (by simp), List.filter_nil]
  have hRestore : ∀ w, (restoreImage c u r.logical).run w = w := fun w => by
    rw [restoreImage, run_look, hPipe, hSch]
    rfl
  have hLeaves : (r.old != u && (!r.degraded || c == clsLkup)) = true := by rw [hFull, bne_iff_ne.mpr hOld]; rfl
  rw [endFault, hBuckets, hSch, hLeaves]
  iterate 10 rw [run_seqs_cons]
  rw [run_seqs_nil, hDrop, hRestore, run_look, run_onlyIf_false (b := false && !r.degraded) _ _ rfl, run_onlyIf_true _ _ rfl, each, run_skip]
  exact ⟨_, rfl⟩

/-- What is kept of another unit stays when a unit takes a place. -/
theorem unitXAt_takePlace_other {c u l w : Nat} {s : State} (hc : c = clsScore ∨ c = clsLkup) (hHome : c ≤ 2 → (s.home c l).isSome = true) (hOther : w ≠ u) :
    ((takePlace c u l).run s).unitXAt (unitKey c w) = s.unitXAt (unitKey c w) := by
  rw [takePlace_run hc hHome, State.same_unitXAt (Prog.Keeps.same (l := pegPieces) (R := pegFlds) (T := [])
    (keeps_onlyIf fun _ => keeps_pegAdd (List.Subset.refl _) (List.Subset.refl _)) _ .unitX (by decide)), unitXAt_setUnitX_other _ _ _ hOther, unitXAt_setUnit, unitXAt_setUnit,
    unitXAt_setUnit]

theorem keeps_endDegraded (c u l : Nat) : (endDegraded c u l).Keeps unitEventPieces (⟨9, 0x20C, 8 + c, 8 + c⟩ :: unitEventFlds) [] :=
  keeps_look fun _ => keeps_onlyIf fun _ => keeps_andThen (keeps_setBitF List.mem_cons_self)
    (keeps_rprEvent (List.Subset.refl _) (List.subset_cons_self _ _))

/-- The pieces that the end of a recovery writes beside registers and entries. -/
def endFaultPieces : List Piece := [.unitX, .recov] ++ unitFailPieces

theorem endFault_ends {c u : Nat} {r : Recov} {s : State} (hc : c = clsScore ∨ c = clsLkup) (hRecov : s.recovAt c = [r]) (hOld : r.old ≠ u) (hFull : r.degraded = false)
    (hBuckets : r.buckets = []) (hHome : c ≤ 2 → (s.home c r.logical).isSome = true) (hDeads : (s.deadsOf c r.old).length < 3) :
    ((endFault c u r).run s).role c u = 1 ∧ ((endFault c u r).run s).unit c u UNIT.LOGICAL = r.logical % 2 ^ (UNIT.LOGICAL.hi + 1 - UNIT.LOGICAL.lo) ∧
      (c = clsLkup → ((endFault c u r).run s).unit c u UNIT.GEN = 0) ∧ ((endFault c u r).run s).role c r.old = 3 ∧ ((endFault c u r).run s).recovAt c = [] ∧
      s.onlyIn ((endFault c u r).run s) (.regs :: .tables :: endFaultPieces) := by
  have hDie : c ≠ clsD2d := by rcases hc with rfl | rfl <;> decide
  obtain ⟨gen, hRun⟩ := endFault_run (u := u) hc hRecov hOld hFull hBuckets
  rw [hRun]
  -- the place, taken with no recovery of the class left
  have hDropped : s.framed ((setRecov c []).run s) [.recov] [] [] := keeps_setRecov List.mem_cons_self s
  have hDroppedX : ∀ k, ((setRecov c []).run s).unitXAt k = s.unitXAt k := fun k => unitXAt_setRecov s c [] k
  have hNone : ((setRecov c []).run s).recovAt c = [] := recovAt_setRecov s c []
  have hHome' : c ≤ 2 → (((setRecov c []).run s).home c r.logical).isSome = true := hHome
  generalize (setRecov c []).run s = s1 at *
  obtain ⟨hRole, hLogical, hGen⟩ := takePlace_shows (u := u) hc hHome'
  have hTaken := keeps_takenPlace (u := u) hc hHome'
  have hTakenX := unitXAt_takePlace_other hc hHome' hOld
  generalize (takePlace c u r.logical).run s1 = s2 at *
  -- its count and its event
  have hCount : ∀ x, UNIT.TAKEOVERS.apart x → ((bumpTabF 9 0 (unitKey c u) UNIT.TAKEOVERS 1).run s2).unit c u x = s2.unit c u x := fun x hx => unit_setUnit_apart s2 c u hx _
  have hCounted : s2.framed ((bumpTabF 9 0 (unitKey c u) UNIT.TAKEOVERS 1).run s2) [] [] [tabKey 9 0 (unitKey c u)] := keeps_bumpTabF List.mem_cons_self s2
  generalize (bumpTabF 9 0 (unitKey c u) UNIT.TAKEOVERS 1).run s2 = s3 at *
  have hEvent : s3.framed ((rprEvent 3 c u r.logical gen r.cause).run s3) unitEventPieces unitEventFlds [] :=
    keeps_rprEvent (List.Subset.refl _) (List.Subset.refl _) s3
  generalize (rprEvent 3 c u r.logical gen r.cause).run s3 = s4 at *
  -- the old unit's quarantine
  have hOldX : s4.unitXAt (unitKey c r.old) = s.unitXAt (unitKey c r.old) :=
    (State.same_unitXAt (State.framed_same hEvent .unitX (by decide)) _).trans ((State.same_unitXAt (State.framed_same hCounted .unitX (by decide)) _).trans
      (hTakenX.trans (hDroppedX _)))
  have hMono : s4.mono = s.mono := (State.same_mono (State.framed_same hEvent .mono16 (by decide))).trans ((State.same_mono (State.framed_same hCounted .mono16 (by decide))).trans
    ((State.same_mono (State.framed_same hTaken .mono16 (by decide))).trans (State.same_mono (State.framed_same hDropped .mono16 (by decide)))))
  have hFew : (s4.deadsOf c r.old).length < 3 := by rw [State.deadsOf_congr hOldX hMono]; exact hDeads
  obtain ⟨hTests, -⟩ := quarantine_tests s4 hDie hFew
  have hQuarantine : s4.framed ((quarantine c r.old).run s4) [.unitX] [] [tabKey 9 0 (unitKey c r.old)] := by
    have hKeeps : (seqs [setRole c r.old 3, setUnitX c r.old (fun x => { x with test := 1, passed := false })]).Keeps [.unitX] [] [tabKey 9 0 (unitKey c r.old)] :=
      keeps_seqs_cons (keeps_setRole List.mem_cons_self hDie) (keeps_seqs_cons (keeps_setUnitX List.mem_cons_self) keeps_seqs_nil)
    rw [run_quarantine s4 hFew]
    exact hKeeps s4
  generalize (quarantine c r.old).run s4 = s5 at *
  have hLast := keeps_endDegraded c u r.logical s5
  generalize (endDegraded c u r.logical).run s5 = s6 at *
  have hUnit : ∀ x, UNIT.TAKEOVERS.apart x → s6.unit c u x = s2.unit c u x := fun x hx => by
    rw [State.framed_unit hLast List.not_mem_nil, State.framed_unit hQuarantine fun h => hOld (tabKey_unitKey_inj (List.mem_singleton.mp h)).symm,
      State.framed_unit hEvent List.not_mem_nil, hCount x hx]
  have hFree : s6.recovAt c = [] := by
    rw [State.same_recovAt (State.framed_same hLast .recov (by decide)), State.same_recovAt (State.framed_same hQuarantine .recov (by decide)),
      State.same_recovAt (State.framed_same hEvent .recov (by decide)), State.same_recovAt (State.framed_same hCounted .recov (by decide)),
      State.same_recovAt (State.framed_same hTaken .recov (by decide)), hNone]
  rw [startNext_idle hFree, State.role, hUnit _ (by unfold EF.apart; decide), hUnit _ (by unfold EF.apart; decide), hUnit _ (by unfold EF.apart; decide)]
  refine ⟨hRole, hLogical, hGen, (State.framed_unit hLast List.not_mem_nil _).trans hTests, hFree, ?_⟩
  exact State.onlyIn_trans (State.framed.onlyIn hDropped (by decide)) (State.onlyIn_trans (State.framed.onlyIn hTaken (by decide)) (State.onlyIn_trans
    (State.framed.onlyIn hCounted (by decide)) (State.onlyIn_trans (State.framed.onlyIn hEvent (by decide)) (State.onlyIn_trans
      (State.framed.onlyIn hQuarantine (by decide)) (State.framed.onlyIn hLast (by decide))))))

theorem State.inProgress_only {s : State} {c : Nat} {r : Recov} (h : s.recovAt c = [r]) (hRuns : r.running = true) : s.inProgress c = some r := by
  rw [State.inProgress, h, List.find?_cons_of_pos hRuns]

theorem takeoverLoadDone_ends {u : Nat} {r : Recov} {s : State} (hWf : Instr.wellFormed (.takeoverLoadDone clsScore) = true) (hRecov : s.recovAt clsScore = [r])
    (hRuns : r.running = true) (hFault : r.fault = true) (hNew : r.new = some u) (hOld : r.old ≠ u) (hFull : r.degraded = false) (hBuckets : r.buckets = [])
    (hHome : (s.home clsScore r.logical).isSome = true) (hDeads : (s.deadsOf clsScore r.old).length < 3) :
    ∃ t, exec (.takeoverLoadDone clsScore) s = .next t ∧ t.role clsScore u = 1 ∧
      t.unit clsScore u UNIT.LOGICAL = r.logical % 2 ^ (UNIT.LOGICAL.hi + 1 - UNIT.LOGICAL.lo) ∧ t.role clsScore r.old = 3 ∧ t.recovAt clsScore = [] ∧
      s.onlyIn t (.regs :: .tables :: endFaultPieces) := by
  have hRecovBegun : s.begun.recovAt clsScore = [r] := hRecov
  have hGo : (r.fault && clsScore != clsLkup && (clsScore != clsTcam || (s.begun.tcamLoadAt r.logical).isNone)) = true := by rw [hFault]; rfl
  simp only [exec, execTakeoverLoadDone]
  refine command_answers hWf ?_
  rw [run_look]
  simp only [State.inProgress_only hRecovBegun hRuns, hNew]
  rw [run_onlyIf_true _ _ hGo]
  obtain ⟨hRole, hLogical, -, hTests, hFree, hOnly⟩ := endFault_ends (u := u) (s := s.begun) (.inl rfl) hRecovBegun hOld hFull hBuckets (fun _ => hHome) hDeads
  exact ⟨hRole, hLogical, hTests, hFree, begun_onlyIn (by decide) hOnly⟩

theorem lkupCopyDone_ends {u : Nat} {r : Recov} {s : State} (hWf : Instr.wellFormed (.lkupCopyDone []) = true) (hRecov : s.recovAt clsLkup = [r])
    (hRuns : r.running = true) (hFault : r.fault = true) (hNew : r.new = some u) (hOld : r.old ≠ u) (hFull : r.degraded = false) (hBuckets : r.buckets = [])
    (hDeads : (s.deadsOf clsLkup r.old).length < 3) :
    ∃ t, exec (.lkupCopyDone []) s = .next t ∧ t.role clsLkup u = 1 ∧ t.unit clsLkup u UNIT.LOGICAL = r.logical % 2 ^ (UNIT.LOGICAL.hi + 1 - UNIT.LOGICAL.lo) ∧
      t.unit clsLkup u UNIT.GEN = 0 ∧ t.recovAt clsLkup = [] ∧ s.onlyIn t (.regs :: .tables :: endFaultPieces) := by
  have hRecovBegun : s.begun.recovAt clsLkup = [r] := hRecov
  simp only [exec, execLkupCopyDone]
  refine command_answers hWf ?_
  rw [run_look]
  simp only [State.inProgress_only hRecovBegun hRuns, hNew]
  rw [run_andThen, each, run_skip, if_pos hFault]
  obtain ⟨hRole, hLogical, hGen, -, hFree, hOnly⟩ := endFault_ends (u := u) (s := s.begun) (.inr rfl) hRecovBegun hOld hFull hBuckets (fun h => absurd h (by decide)) hDeads
  exact ⟨hRole, hLogical, hGen rfl, hFree, begun_onlyIn (by decide) hOnly⟩

/-! ### PIPE_HOLD_SPREAD (R228, R570) -/

section Spread
variable (s : State)

/-- The fields of the distributor that the move of a bucket writes. -/
def bucketFlds (k : Nat) : List Fld := [PIPE_BUCKET.LOGICAL k, PIPE_BUCKET.PEND k, PIPE_DIST_STAT.reg]

theorem keeps_bucketTo (k l : Nat) (counted : Bool) : (bucketTo k l counted).Keeps [.bucketPend] (bucketFlds k) [] :=
  keeps_seqs_cons (keeps_setF List.mem_cons_self) (keeps_seqs_cons (keeps_put List.mem_cons_self (by simp) (by simp)) (keeps_seqs_cons
    (keeps_andThen (keeps_setF (List.mem_cons_of_mem _ List.mem_cons_self))
      (keeps_look fun _ => keeps_setF_in (show PIPE_DIST_STAT.reg ∈ bucketFlds k by simp [bucketFlds])))
    (keeps_seqs_cons (keeps_onlyIf fun _ => keeps_bumpF_in (show PIPE_DIST_STAT.reg ∈ bucketFlds k by simp [bucketFlds])) keeps_seqs_nil)))

/-- The move of a bucket leaves the others in their pipelines. -/
theorem bucketPipe_bucketTo_other {j k : Nat} (hj : j < 256) (hk : k < 256) (h : k ≠ j) (l : Nat) (counted : Bool) :
    ((bucketTo j l counted).run s).bucketPipe k = s.bucketPipe k := by
  rw [State.bucketPipe, State.bucketPipe, (keeps_bucketTo j l counted).rd s _ (by simp only [PIPE_BUCKET.LOGICAL]; omega) fun g hg => ?_]
  simp only [bucketFlds, List.mem_cons, List.not_mem_nil, or_false] at hg
  rcases hg with rfl | rfl | rfl <;> simp only [Fld.apart, PIPE_BUCKET.LOGICAL, PIPE_BUCKET.PEND, PIPE_DIST_STAT.reg] <;> omega

theorem bucketPipe_each_bucketTo {k : Nat} (hk : k < 256) (f : Nat → Nat) : ∀ (js : List Nat) (s : State), (∀ j ∈ js, j < 256 ∧ k ≠ j) →
    ((each js fun j => bucketTo j (f j) true).run s).bucketPipe k = s.bucketPipe k
  | [], _, _ => rfl
  | j :: js, s, h => by
    obtain ⟨hj, hNe⟩ := h j List.mem_cons_self
    exact (bucketPipe_each_bucketTo hk f js _ fun i hi => h i (List.mem_cons_of_mem _ hi)).trans (bucketPipe_bucketTo_other s hj hk hNe _ _)

theorem onlyIn_each_bucketTo (f : Nat → Nat) (js : List Nat) : s.onlyIn ((each js fun j => bucketTo j (f j) true).run s) [.bucketPend, .regs] := by
  have hOnly : (each js fun j => bucketTo j (f j) true).Only [.bucketPend, .regs] := all_each _ _ fun j _ =>
    ⟨only_setF (by decide), show Piece.bucketPend ∈ _ by decide, ⟨only_setF (by decide), fun _ => only_setF (by decide)⟩,
      all_onlyIf fun _ => fun _ => only_setF (by decide)⟩
  exact hOnly.onlyIn s

/-- The spreading of a pipeline's buckets leaves those of the others. -/
theorem spreadBuckets_leaves (l : Nat) : (∀ k, k < 256 → s.bucketPipe k ≠ l → ((spreadBuckets l).run s).bucketPipe k = s.bucketPipe k) ∧
    s.onlyIn ((spreadBuckets l).run s) [.bucketPend, .regs] := by
  rw [spreadBuckets, run_look]
  generalize (List.range 16).filter (fun x => x != l && (s.holder clsPipe x).isSome) = ls
  dsimp only
  cases hNone : ls.isEmpty with
  | true => exact ⟨fun _ _ _ => rfl, fun f _ => s.same_refl f⟩
  | false =>
    rw [run_onlyIf_true (b := !false) _ _ rfl]
    refine ⟨fun k hk hOther => bucketPipe_each_bucketTo hk (fun k => ls.getD (k / 16 % ls.length) 0) _ s fun j hj => ?_,
      onlyIn_each_bucketTo s (fun k => ls.getD (k / 16 % ls.length) 0) _⟩
    obtain ⟨hRange, hOf⟩ := List.mem_filter.mp hj
    exact ⟨List.mem_range.mp hRange, fun e => hOther (e ▸ beq_iff_eq.mp hOf)⟩

end Spread

/-- What a class's only recovery becomes when what is looked for is that recovery. -/
theorem changeRecov_only {s : State} {c : Nat} {p : Recov → Bool} {f : Recov → Recov} {r : Recov} (h : s.recovAt c = [r]) (hp : p r = true) :
    (changeRecov c p f).run s = (setRecov c [f r]).run s := by
  rw [changeRecov, run_look, h]
  simp [List.findIdx_cons, hp]

theorem pipeHoldSpread_spreads {pipe v : Nat} {r : Recov} {s : State} (hWf : Instr.wellFormed (.pipeHoldSpread pipe) = true) (hRecov : s.recovAt clsPipe = [r])
    (hFault : r.fault = true) (hWaits : r.running = false) (hFull : r.degraded = false) (hLogical : r.logical = pipe) (hSince : s.since r.at_ 100000 = true)
    (hHolder : s.holder clsPipe v = some 5) (hv : v < 16) (hOther : v ≠ pipe) (hEmpty : s.inQAt pipe = []) :
    ∃ t, exec (.pipeHoldSpread pipe) s = .next t ∧ t.inQAt pipe = [] ∧ (∀ k, k < 256 → s.bucketPipe k ≠ pipe → t.bucketPipe k = s.bucketPipe k) ∧
      (∀ k, k < 256 → s.bucketPipe k = pipe → ((t.recovAt clsPipe).getD 0 {}).buckets.contains k = true) ∧
      s.onlyIn t [.bucketPend, .emitted, .inQ, .recov, .regs] := by
  have hFind : (s.begun.recovAt clsPipe).find? (fun r => r.fault && !r.running && !r.degraded && r.logical == pipe) = some r := by
    rw [show s.begun.recovAt clsPipe = [r] from hRecov, List.find?_cons_of_pos (by simp [hFault, hWaits, hFull, hLogical])]
  have hEmptyBegun : s.begun.inQAt pipe = [] := hEmpty
  have hOthers : (List.range 16).any (fun x => x != pipe && (s.begun.holder clsPipe x).isSome) = true :=
    List.any_eq_true.mpr ⟨v, List.mem_range.mpr hv, by rw [show s.begun.holder clsPipe v = some 5 from hHolder]; simpa using hOther⟩
  simp only [exec, execPipeHoldSpread]
  refine command_answers hWf ?_
  rw [run_look]
  simp only [hFind]
  have hBegunSince : ∀ a n, s.begun.since a n = s.since a n := fun _ _ => rfl
  rw [run_onlyIf_true _ _ (by rw [hBegunSince]; exact hSince), spreadHeld, run_look]
  simp only [hOthers, if_true, hEmptyBegun]
  iterate 4 rw [run_seqs_cons]
  rw [run_seqs_nil, each, run_skip]
  obtain ⟨hLeft, hOnly⟩ := spreadBuckets_leaves s.begun pipe
  generalize (spreadBuckets pipe).run s.begun = w at *
  have hRecovLeft : w.recovAt clsPipe = [r] := (State.same_recovAt (hOnly .recov (by decide)) _).trans hRecov
  rw [changeRecov_only (s := (Prog.put (.inQ pipe [])).run w) hRecovLeft (by simp [hFault])]
  refine ⟨(Act.inQ_apply pipe [] w pipe).trans (if_pos rfl), hLeft, fun k hk hOf => ?_, ?_⟩
  · rw [recovAt_setRecov]
    have hBegun : s.begun.bucketPipe k = pipe := hOf
    simp [hk, hBegun]
  · exact begun_onlyIn (by decide) (State.onlyIn_trans (State.onlyIn_mono hOnly (by decide)) (Prog.Only.onlyIn (l := [.bucketPend, .emitted, .inQ, .recov, .regs])
      (p := .andThen (.put (.inQ pipe [])) (setRecov clsPipe _)) ⟨show Piece.inQ ∈ _ by decide, show Piece.recov ∈ _ by decide⟩ w))

/-- Settles O42, clause by clause; the frames of the repair controller's commands stand beside their effects. -/
theorem unitsDeclaredAndTaken : Obligations.UnitsDeclaredAndTaken := by
  unfold Obligations.UnitsDeclaredAndTaken
  refine ⟨?_, ?_, ?_, ?_, ?_, ?_, ?_, ?_, ?_, ?_, ?_, ?_⟩
  · rintro cls unit whole s hWf hClass hRole rfl
    exact epochBoundary_keeps hWf hClass hRole
  · rintro cls unit kind word s hWf rfl hKind hUnit hRole hSpare hNone
    exact unitErrorReport_declares hWf hKind hUnit hRole hSpare hNone
  · rintro cls u cause s hWf hDeclared rfl hRole hRecov hDeads
    obtain ⟨t, hNext, hNone, hTests, hTest, hFenced, hFree, hOnly⟩ := faultTakeover_quarantines hWf hDeclared hRole hRecov hDeads
    exact ⟨t, hNext, hNone, hTests, hTest, hFenced, hFree, State.onlyIn_mono hOnly (by decide)⟩
  · rintro cls r u s hWf hRecov hRuns hFault hNew hOld hFull hBuckets rfl hHome hDeads -
    obtain ⟨t, hNext, hRole, hLogical, hTests, hFree, hOnly⟩ := takeoverLoadDone_ends hWf hRecov hRuns hFault hNew hOld hFull hBuckets hHome hDeads
    exact ⟨t, hNext, hRole, hLogical, hTests, hFree, State.onlyIn_mono hOnly (by decide)⟩
  · rintro bad r u s hWf hRecov hRuns hFault hNew hOld hFull hBuckets rfl hDeads
    obtain ⟨t, hNext, hRole, hLogical, hGen, hFree, hOnly⟩ := lkupCopyDone_ends hWf hRecov hRuns hFault hNew hOld hFull hBuckets hDeads
    exact ⟨t, hNext, hRole, hLogical, hGen, hFree, State.onlyIn_mono hOnly (by decide)⟩
  · intro pipe r v s hWf hRecov hFault hWaits hFull hLogical hSince hHolder hv hOther hEmpty
    exact pipeHoldSpread_spreads hWf hRecov hFault hWaits hFull hLogical hSince hHolder hv hOther hEmpty
  · intro m data s hWf hTakes hManager hIdle
    obtain ⟨t, hExec, -, hFrame⟩ := rprNop_ends hWf hTakes hManager hIdle
    exact ⟨t, hExec, hFrame⟩
  · intro m data c u s hWf hTakes hManager hIdle hc hu hClass hUnit hRole hRecov hSpares
    obtain ⟨t, hExec, -, hFrame⟩ := rprHandover_asks hWf hTakes hManager hIdle hc hu hClass hUnit hRole hRecov hSpares
    exact ⟨t, hExec, State.framed_mono hFrame (by decide) (List.Subset.refl _) (List.Subset.refl _)⟩
  · intro m data c u s hWf hTakes hManager hIdle hc hu hClass hUnit hRole hRecov hSpares
    obtain ⟨t, hExec, -, hFrame⟩ := rprTest_asks hWf hTakes hManager hIdle hc hu hClass hUnit hRole hRecov hSpares
    exact ⟨t, hExec, State.framed_mono hFrame (by decide) (List.Subset.refl _) (List.Subset.refl _)⟩
  · intro m data c u s hWf hTakes hManager hIdle hc hu hClass hUnit hRole hRecov
    obtain ⟨t, hExec, -, hFrame⟩ := rprRetire_fails hWf hTakes hManager hIdle hc hu hClass hUnit hRole hRecov
    exact ⟨t, hExec, hFrame⟩
  · intro m data c u s hWf hTakes hManager hIdle hc hu hClass hUnit hRole hGate hRoom
    obtain ⟨t, hExec, -, hFrame⟩ := rprUnretire_tests hWf hTakes hManager hIdle hc hu hClass hUnit hRole hGate hRoom
    exact ⟨t, hExec, hFrame⟩
  · intro m data c u r s hWf hTakes hManager hIdle hc hu hClass hUnit hRevert
    obtain ⟨t, hExec, -, hFrame⟩ := rprRevert_asks hWf hTakes hManager hIdle hc hu hClass hUnit hRevert
    exact ⟨t, hExec, State.framed_mono hFrame (by decide) (List.Subset.refl _) (List.Subset.refl _)⟩

end Sys2Proof.Machine
end

