-- ==== Sys2Proof/Proofs/PlainWrites.lean ====
section
/-!
SUPPORT. Which pieces the shared operations never write: one lemma for each, from its parts. The lemmas say that no table entry, function of the
endpoint, queue pair or instance changes, and that the endpoint's buffers are not marked (spec/13_host_interface.md R488).
-/
namespace Sys2Proof.Machine

/-! ### Programs by the writes they may make, part by part -/

section Combinators
variable {W : Act → Prop} {p q : Prog}

@[simp] theorem all_skip_iff : Prog.skip.All W ↔ True := Iff.rfl

@[simp] theorem all_put_iff {a : Act} : (Prog.put a).All W ↔ W a := Iff.rfl

@[simp] theorem all_andThen_iff : (Prog.andThen p q).All W ↔ p.All W ∧ q.All W := Iff.rfl

@[simp] theorem all_look_iff {f : State → Prog} : (Prog.look f).All W ↔ ∀ s, (f s).All W := Iff.rfl

@[simp] theorem all_seqs_nil_iff : (seqs []).All W ↔ True := Iff.rfl

@[simp] theorem all_seqs_cons_iff {ps : List Prog} : (seqs (p :: ps)).All W ↔ p.All W ∧ (seqs ps).All W := by
  cases ps with
  | nil => exact (and_iff_left trivial).symm
  | cons r rs => exact Iff.rfl

@[simp] theorem all_each_iff {α : Type} {f : α → Prog} {as : List α} : (each as f).All W ↔ ∀ a ∈ as, (f a).All W := by
  induction as with
  | nil => exact ⟨fun _ _ h => absurd h List.not_mem_nil, fun _ => trivial⟩
  | cons a as ih =>
    rw [List.forall_mem_cons, ← ih]
    exact Iff.rfl

@[simp] theorem all_ite_iff {c : Prop} [Decidable c] : (if c then p else q).All W ↔ (c → p.All W) ∧ (¬ c → q.All W) := by
  by_cases h : c
  · simp [h]
  · simp [h]

@[simp] theorem all_onlyIf_iff {b : Bool} : (onlyIf b p).All W ↔ (b = true → p.All W) := by
  cases b with
  | false => exact ⟨fun _ h => absurd h Bool.false_ne_true, fun _ => trivial⟩
  | true => exact ⟨fun h _ => h, fun h => h rfl⟩

@[simp] theorem all_either_iff {b : Bool} : (either b p q).All W ↔ (b = true → p.All W) ∧ (b = false → q.All W) := by
  cases b <;> simp [either]

end Combinators

/-- A write of a piece that holds no table entry, function of the endpoint, queue pair, instance or mark of the endpoint's buffers. -/
def Act.plain (a : Act) : Prop := a.piece ∉ [.tables, .pcieFn, .qpx, .vinst, .bufBad]

@[simp] theorem Act.plain_iff {a : Act} : a.plain ↔ a.piece ≠ .tables ∧ a.piece ≠ .pcieFn ∧ a.piece ≠ .qpx ∧ a.piece ≠ .vinst ∧ a.piece ≠ .bufBad := by
  simp [Act.plain]

theorem Prog.All.same_of_plain {p : Prog} (h : p.All Act.plain) (s : State) {f : Piece} (hf : f ∈ [Piece.tables, .pcieFn, .qpx, .vinst, .bufBad]) : s.same (p.run s) f :=
  Prog.All.keeps (Q := fun t => s.same t f) (fun a t ha ht => State.same_trans ht (a.same_apply t f fun e => ha (e ▸ hf))) h s (s.same_refl f)

/-! ### Registers, counts, interrupts and reports -/

@[simp] theorem plain_draw {k : Nat → Prog} (hk : ∀ n, (k n).All Act.plain) : (draw k).All Act.plain := by simp [draw, hk]

@[simp] theorem plain_setReg (page off : Nat) (v : Word) : (setReg page off v).All Act.plain := by simp [setReg]

@[simp] theorem plain_setF (f : Fld) (v : Nat) : (setF f v).All Act.plain := by simp [setF]

@[simp] theorem plain_bumpF (f : Fld) (n : Nat) : (bumpF f n).All Act.plain := by simp [bumpF]

@[simp] theorem plain_setBitF (f : Fld) (b : Nat) (v : Bool) : (setBitF f b v).All Act.plain := by simp [setBitF]

@[simp] theorem plain_emit (e : Emit) : (emit e).All Act.plain := by simp [emit]

@[simp] theorem plain_count (f i n : Nat) : (count f i n).All Act.plain := by
  simp only [count, all_look_iff]
  intro s
  split <;> simp

@[simp] theorem plain_tmReason (r : Nat) : (tmReason r).All Act.plain := by simp [tmReason]

@[simp] theorem plain_hostWork : hostWork.All Act.plain := by simp [hostWork]

@[simp] theorem plain_hostSend (o : Emit) : (hostSend o).All Act.plain := by simp [hostSend]

@[simp] theorem plain_signalVector (fn vec : Nat) : (signalVector fn vec).All Act.plain := by simp [signalVector]

@[simp] theorem plain_refreshInta : refreshInta.All Act.plain := by simp [refreshInta]

@[simp] theorem plain_refreshIrq (page : Nat) : (refreshIrq page).All Act.plain := by simp [refreshIrq]

@[simp] theorem plain_setIntBits (page : Nat) (bits : Word) : (setIntBits page bits).All Act.plain := by simp [setIntBits]

@[simp] theorem plain_raise (page bit : Nat) : (raise page bit).All Act.plain := by simp [raise]

@[simp] theorem plain_crySend (m : CryMsg) : (crySend m).All Act.plain := by simp [crySend]

@[simp] theorem plain_capture (page access space addr master cls kind data : Nat) : (capture page access space addr master cls kind data).All Act.plain := by simp [capture]

@[simp] theorem plain_reportError (page access space addr master cls kind data : Nat) : (reportError page access space addr master cls kind data).All Act.plain := by simp [reportError]

@[simp] theorem plain_unitError (page kind cls addr : Nat) (unit : Nat) (acc : Nat) : (unitError page kind cls addr unit acc).All Act.plain := by simp [unitError]

@[simp] theorem plain_backlogAdd (r : JRec) : (backlogAdd r).All Act.plain := by simp [backlogAdd]

@[simp] theorem plain_numberRecord (r : JRec) : (numberRecord r).All Act.plain := by simp [numberRecord]

@[simp] theorem plain_acceptRecord (r : JRec) : (acceptRecord r).All Act.plain := by simp [acceptRecord]

@[simp] theorem plain_recordLater (r : JRec) : (recordLater r).All Act.plain := by simp [recordLater]

@[simp] theorem plain_showConfig (fn : Nat) : (showConfig fn).All Act.plain := by simp [showConfig]

/-! ### The die-to-die link and the lower tiers -/

@[simp] theorem plain_sendFlit (die chan : Nat) (words : List Nat) : (sendFlit die chan words).All Act.plain := by simp [sendFlit]

@[simp] theorem plain_alignFollower (die seq : Nat) : (alignFollower die seq).All Act.plain := by simp [alignFollower]

@[simp] theorem plain_passFlit (die chan : Nat) (words : List Nat) : (passFlit die chan words).All Act.plain := by simp [passFlit]

@[simp] theorem plain_crossFlit (die chan : Nat) (words : List Nat) : (crossFlit die chan words).All Act.plain := by simp [crossFlit]

@[simp] theorem plain_sendLinkCell (l sub : Nat) (payload : List Nat) : (sendLinkCell l sub payload).All Act.plain := by simp [sendLinkCell]

@[simp] theorem plain_refreshOpen (page : Nat) : (refreshOpen page).All Act.plain := by simp [refreshOpen]

@[simp] theorem plain_activate (t bank r : Nat) : (activate t bank r).All Act.plain := by simp [activate]

@[simp] theorem plain_rowAccess (t bank row cls : Nat) : (rowAccess t bank row cls).All Act.plain := by
  simp only [rowAccess, all_look_iff]
  intro s
  split <;> simp

@[simp] theorem plain_lateAccess (tier cls c : Nat) : (lateAccess tier cls c).All Act.plain := by
  simp only [lateAccess, all_look_iff]
  intro s
  split <;> simp

@[simp] theorem plain_freeAccess (tier cls : Nat) : (freeAccess tier cls).All Act.plain := by simp [freeAccess]

/-! ### Pauses, bodies, pools and buffers -/

@[simp] theorem plain_showPaused (p : Nat) : (showPaused p).All Act.plain := by simp [showPaused]

@[simp] theorem plain_pauseOut (p : Nat) (x : Nat × Nat) : (pauseOut p x).All Act.plain := by simp [pauseOut]

@[simp] theorem plain_pauseSend (p mask time : Nat) : (pauseSend p mask time).All Act.plain := by simp [pauseSend]

@[simp] theorem plain_setXoff (p mask : Nat) : (setXoff p mask).All Act.plain := by simp [setXoff]

@[simp] theorem plain_setMill (k cause : Nat) (on : Bool) : (setMill k cause on).All Act.plain := by simp [setMill]

@[simp] theorem plain_newBody (b : Body) (k : Nat → Prog) (hk : ∀ i, (k i).All Act.plain) : (newBody b k).All Act.plain := by simp [hk, newBody]

@[simp] theorem plain_refBody (i : Nat) : (refBody i).All Act.plain := by simp [refBody]

@[simp] theorem plain_showPool (t k : Nat) : (showPool t k).All Act.plain := by simp [showPool]

@[simp] theorem plain_wakeRegion (toPool : Bool) : (wakeRegion toPool).All Act.plain := by simp [wakeRegion]

@[simp] theorem plain_moveRegion (t k : Nat) (toPool : Bool) : (moveRegion t k toPool).All Act.plain := by simp [moveRegion]

@[simp] theorem plain_poolTake (t k : Nat) : (poolTake t k).All Act.plain := by simp [poolTake]

@[simp] theorem plain_poolsFill (t : Nat) : (poolsFill t).All Act.plain := by simp [poolsFill]

@[simp] theorem plain_poolReturn (t k step : Nat) : (poolReturn t k step).All Act.plain := by simp [poolReturn]

@[simp] theorem plain_poolGive (t k : Nat) : (poolGive t k).All Act.plain := by simp [poolGive]

@[simp] theorem plain_showUse (t r : Nat) : (showUse t r).All Act.plain := by simp only [showUse, all_look_iff, all_ite_iff, plain_setF, implies_true, and_self]

@[simp] theorem plain_showResv (t : Nat) : (showResv t).All Act.plain := by simp [showResv]

@[simp] theorem plain_setUse (t r v : Nat) : (setUse t r v).All Act.plain := by simp [setUse]

@[simp] theorem plain_takeBuffer (t r n : Nat) : (takeBuffer t r n).All Act.plain := by simp [takeBuffer]

@[simp] theorem plain_giveBuffer (t r size : Nat) : (giveBuffer t r size).All Act.plain := by simp [giveBuffer]

@[simp] theorem plain_lowerGive (t r size : Nat) : (lowerGive t r size).All Act.plain := by simp [lowerGive]

@[simp] theorem plain_reserve (r n : Nat) : (reserve r n).All Act.plain := by simp [reserve]

@[simp] theorem plain_unreserve (r n : Nat) : (unreserve r n).All Act.plain := by simp [unreserve]

@[simp] theorem plain_landBody (i r declared refs : Nat) (k : Nat → Prog) (hk : ∀ i, (k i).All Act.plain) : (landBody i r declared refs k).All Act.plain := by simp [hk, landBody]

@[simp] theorem plain_freeBuffer (id : Nat) : (freeBuffer id).All Act.plain := by simp [freeBuffer]

@[simp] theorem plain_releaseBuffer (id : Nat) : (releaseBuffer id).All Act.plain := by simp [releaseBuffer]

@[simp] theorem plain_bump64 (lo hi : Fld) : (bump64 lo hi).All Act.plain := by simp [bump64]

@[simp] theorem plain_mcOutcome (b : Body) : (mcOutcome b).All Act.plain := by
  rw [mcOutcome]
  split <;> simp

@[simp] theorem plain_derefBody (i : Nat) : (derefBody i).All Act.plain := by simp [derefBody]

@[simp] theorem plain_markLost (p : Pkt) : (markLost p).All Act.plain := by simp [markLost]

@[simp] theorem plain_poisonPkt (p : Pkt) (k : Pkt → Prog) (hk : ∀ p, (k p).All Act.plain) : (poisonPkt p k).All Act.plain := by simp [hk, poisonPkt]

@[simp] theorem plain_xoffRefresh (p : Nat) : (xoffRefresh p).All Act.plain := by simp [xoffRefresh]

/-! ### The cross-connect, the clock and the records for the host -/

@[simp] theorem plain_xcDeliver (d : Nat) (blocks : List Nat) : (xcDeliver d blocks).All Act.plain := by simp [xcDeliver]

@[simp] theorem plain_xcFeed (kind i : Nat) (blocks : List Nat) : (xcFeed kind i blocks).All Act.plain := by simp [xcFeed]

@[simp] theorem plain_clientStep (i : Nat) : (clientStep i).All Act.plain := by simp [clientStep]

@[simp] theorem plain_faultStep (d : Nat) : (faultStep d).All Act.plain := by simp [faultStep]

@[simp] theorem plain_xcTick : xcTick.All Act.plain := by simp [xcTick]

@[simp] theorem plain_tick : tick.All Act.plain := by simp [tick]

@[simp] theorem plain_ppsFall : ppsFall.All Act.plain := by simp [ppsFall]

@[simp] theorem plain_hostDiscard (p : Pkt) (queue reason : Nat) : (hostDiscard p queue reason).All Act.plain := by simp [hostDiscard]

/-! ### Queues that drain -/

@[simp] theorem plain_spillCount (f : Fld) (on : Bool) : (spillCount f on).All Act.plain := by simp [spillCount]

@[simp] theorem plain_grnDrainShow (q : Nat) : (grnDrainShow q).All Act.plain := by simp [grnDrainShow]

@[simp] theorem plain_tierRelease (tier req : Nat) (x : Pkt × Nat × Option Nat) : (tierRelease tier req x).All Act.plain := by
  simp only [tierRelease, all_look_iff]
  intro s
  split
  · simp
  · split <;> simp

@[simp] theorem plain_drainTurn (q : Nat) : (drainTurn q).All Act.plain := by
  simp only [drainTurn, all_look_iff, all_onlyIf_iff]
  intro s _
  split <;> simp

@[simp] theorem plain_drainStep (q : Nat) : (drainStep q).All Act.plain := by simp [drainStep]

/-! ### Cells of the fabric -/

@[simp] theorem plain_sendCell (l type body : Nat) (payload : List Nat) : (sendCell l type body payload).All Act.plain := by simp [sendCell]

@[simp] theorem plain_sendPriv (c : XbCell) : (sendPriv c).All Act.plain := by simp [sendPriv]

@[simp] theorem plain_sendNorm (c : XbCell) : (sendNorm c).All Act.plain := by simp [sendNorm]

@[simp] theorem plain_xbLeave (c : XbCell) : (xbLeave c).All Act.plain := by simp [xbLeave]

@[simp] theorem plain_normDrain (l : Nat) (other : XbCell → Option Nat) : (normDrain l other).All Act.plain := by
  simp only [normDrain, all_look_iff]
  refine fun s => all_onlyIf_iff.mpr fun _ => all_andThen_iff.mpr ⟨by simp, all_each_iff.mpr fun c _ => ?_⟩
  split <;> simp

@[simp] theorem plain_privDrain (l : Nat) (other : XbCell → Option Nat) : (privDrain l other).All Act.plain := by
  simp only [privDrain, all_look_iff]
  refine fun s => all_onlyIf_iff.mpr fun _ => all_andThen_iff.mpr ⟨by simp, all_each_iff.mpr fun c _ => ?_⟩
  split <;> simp

theorem plain_xbClocks : ∀ n, (xbClocks n).All Act.plain
  | 0 => trivial
  | n + 1 => by
    have ih := plain_xbClocks n
    simp [xbClocks, ih]

@[simp] theorem plain_xbRun : xbRun.All Act.plain := by simp [xbRun, plain_xbClocks]

@[simp] theorem plain_xbEnter (c : XbCell) : (xbEnter c).All Act.plain := by simp [xbEnter]

@[simp] theorem plain_spray (stream : Nat) (links : State → List Nat) (k : Nat → Prog) (hk : ∀ l, (k l).All Act.plain) : (spray stream links k).All Act.plain := by
  simp only [spray, all_look_iff]
  intro s
  split <;> simp [hk]

@[simp] theorem plain_ctrlMsg (d : Nat) (priv : Bool) (msg : Nat) (links : State → List Nat) (k : Nat → Prog) (hk : ∀ l, (k l).All Act.plain) : (ctrlMsg d priv msg links k).All Act.plain := by simp [hk, ctrlMsg]

@[simp] theorem plain_stgPort (p : Nat) (g : Bool) : (stgPort p g).All Act.plain := by simp [stgPort]

@[simp] theorem plain_stgChanged (input : Nat) : (stgChanged input).All Act.plain := by simp [stgChanged]

@[simp] theorem plain_stgGive (p : Pkt) : (stgGive p).All Act.plain := by simp [stgGive]

@[simp] theorem plain_stgUnreserve (p : Pkt) : (stgUnreserve p).All Act.plain := by simp [stgUnreserve]

@[simp] theorem plain_stgDiscard (p : Pkt) (reason off : Nat) : (stgDiscard p reason off).All Act.plain := by simp [stgDiscard]

@[simp] theorem plain_dataCell (stream : Nat) (p : Pkt) (first last : Bool) (payload : List Nat) (links : State → List Nat) : (dataCell stream p first last payload links).All Act.plain := by
  simp only [dataCell, all_look_iff]
  intro s
  split <;> simp

@[simp] theorem plain_releaseOne (p : Pkt) (seq : Nat) : (releaseOne p seq).All Act.plain := by simp [releaseOne]

@[simp] theorem plain_mcUnsend (p : Pkt) : (mcUnsend p).All Act.plain := by
  simp only [mcUnsend, all_look_iff]
  intro s
  split <;> simp

@[simp] theorem plain_unsend (p : Pkt) (seq : Nat) (k : Prog) (hk : k.All Act.plain) : (unsend p seq k).All Act.plain := by simp [hk, unsend]

theorem plain_streamSend (stream : Nat) : ∀ ps, (streamSend stream ps).All Act.plain
  | [] => by simp [streamSend]
  | (p, sent, seq) :: ps => by simp [streamSend, plain_streamSend stream ps]

@[simp] theorem plain_pushCells (streams : List Nat) : (pushCells streams).All Act.plain := by simp [pushCells, plain_streamSend]

/-! ### Multicast credit and slots -/

@[simp] theorem plain_mcAckReceive (src msg : Nat) : (mcAckReceive src msg).All Act.plain := by simp [mcAckReceive]

theorem plain_mcReackList (src : Nat) : ∀ ns, (mcReackList src ns).All Act.plain
  | [] => trivial
  | n :: ns => by simp [mcReackList, plain_mcReackList src ns]

@[simp] theorem plain_mcReack (src : Nat) : (mcReack src).All Act.plain := by simp [mcReack, plain_mcReackList]

theorem plain_mcStandUp : ∀ n, (mcStandUp n).All Act.plain
  | 0 => trivial
  | n + 1 => by
    have ih := plain_mcStandUp n
    simp [mcStandUp, ih]

@[simp] theorem plain_mcStand : mcStand.All Act.plain := by simp [mcStand, plain_mcStandUp]

@[simp] theorem plain_mcRetry : mcRetry.All Act.plain := by simp [mcRetry]

@[simp] theorem plain_slotSend (ch : Nat) : (slotSend ch).All Act.plain := by
  simp only [slotSend, all_look_iff]
  intro s
  split <;> simp

@[simp] theorem plain_linkTick : linkTick.All Act.plain := by simp [linkTick]

@[simp] theorem plain_fabricTick : fabricTick.All Act.plain := by simp [fabricTick]

/-! ### Segments that join their queue -/

@[simp] theorem plain_joinHead (q tier : Nat) (y : Pkt × Nat × Option Nat) : (joinHead q tier y).All Act.plain := by
  simp only [joinHead, all_look_iff]
  intro s
  split
  · simp
  · split <;> simp

@[simp] theorem plain_unreserveRead (r : TxRead) : (unreserveRead r).All Act.plain := by simp [unreserveRead]

end Sys2Proof.Machine
end

