-- ==== Sys2Proof/Proofs/IdleStep.lean ====
section
/-!
PROOF. A step runs the command in front, and with none waiting 1 ns passes (log entry 7): nothing that the idle step runs marks the endpoint's
buffers as holding an error (spec/13_host_interface.md R488), because only a containment does.
-/
namespace Sys2Proof.Machine

/-! ### Programs that never mark the endpoint's buffers -/

/-- The write is not of the mark that the endpoint's buffers hold an error. -/
def Act.calm (a : Act) : Prop := a.piece ≠ .bufBad

@[simp] theorem Act.calm_iff {a : Act} : a.calm ↔ a.piece ≠ .bufBad := Iff.rfl

@[simp] theorem Prog.All.calm {p : Prog} (h : p.All Act.plain) : p.All Act.calm := Prog.All.mono (fun _ ha => (Act.plain_iff.mp ha).2.2.2.2) h

theorem Prog.All.bufBad_run {p : Prog} (h : p.All Act.calm) (s : State) : (p.run s).bufBad = s.bufBad :=
  Prog.All.keeps (W := Act.calm) (Q := fun t => t.bufBad = s.bufBad) (fun a t ha ht => (Eq.symm (a.same_apply t .bufBad (Ne.symm ha))).trans ht) h s rfl

@[simp] theorem calm_setTab (page table index : Nat) (e : Entry) : (setTab page table index e).All Act.calm := by simp [setTab]

@[simp] theorem calm_setTabF (page table index : Nat) (x : EF) (v : Nat) : (setTabF page table index x v).All Act.calm := by simp [setTabF]

@[simp] theorem calm_bumpTabF (page table index : Nat) (x : EF) (n : Nat) : (bumpTabF page table index x n).All Act.calm := by simp [bumpTabF]

@[simp] theorem calm_hostPush (qp : Nat) (r : HostRec) : (hostPush qp r).All Act.calm := by
  simp only [hostPush, all_look_iff, all_ite_iff]
  intro s
  cases r.pkt with
  | none => simp
  | some p => cases r.queue <;> simp

@[simp] theorem calm_refusalReport (reason queue colour : Nat) (atIngress : Bool) (other srcPort len : Nat) : (refusalReport reason queue colour atIngress other srcPort len).All Act.calm := by simp [refusalReport]

@[simp] theorem calm_qDiscard (q : Nat) (p : Pkt) (reason : Nat) : (qDiscard q p reason).All Act.calm := by simp [qDiscard]

theorem calm_headFits (q : Nat) : ∀ n, (headFits q n).All Act.calm
  | 0 => trivial
  | n + 1 => by
    have ih := calm_headFits q n
    simp only [headFits, all_look_iff]
    intro s
    split <;> simp [ih]

@[simp] theorem calm_headCheck (q : Nat) : (headCheck q).All Act.calm := by simp [headCheck, calm_headFits]

@[simp] theorem calm_drain (q : Nat) : (drain q).All Act.calm := by simp [drain]

@[simp] theorem calm_readPkt (q tier : Nat) (hdrErr : Bool) (desc payload : List Nat) (i : Nat) (y : Pkt × Nat × Option Nat) : (readPkt q tier hdrErr desc payload i y).All Act.calm := by simp [readPkt]

theorem calm_joinSegments (q : Nat) : ∀ n, (joinSegments q n).All Act.calm
  | 0 => trivial
  | n + 1 => by
    have ih := calm_joinSegments q n
    simp only [joinSegments, all_look_iff]
    intro s
    split <;> simp [ih]

@[simp] theorem calm_joinTick : joinTick.All Act.calm := by simp [joinTick, calm_joinSegments]

/-! ### The step -/

/-- What an idle step runs before the time base's nanosecond. -/
def idleProg : Prog := seqs [.put (.emitted []), .put (.bufBad false), tick, ppsFall, fabricTick, joinTick]

theorem idleProg_bufBad (s : State) : (idleProg.run s).bufBad = false := by
  have hTicks : (seqs [tick, ppsFall, fabricTick, joinTick]).All Act.calm := by simp
  exact (hTicks.bufBad_run _).trans rfl

theorem step_idle {s : State} (h : s.pending = []) : step s = .next { idleProg.run s with mono16 := s.monoNext } := by
  rw [step, h]
  rfl

/-- Settles O3: a step with a command in front is its execution, and an idle step's programs leave the queue, the clock of the step and the endpoint's mark. -/
theorem stepRunsTheFrontCommand : Obligations.StepRunsTheFrontCommand := by
  unfold Obligations.StepRunsTheFrontCommand
  exact ⟨fun _ _ _ => rfl, fun s hIdle => ⟨_, step_idle hIdle, (idleProg.pending_run s).trans hIdle, rfl, idleProg_bufBad s⟩⟩

end Sys2Proof.Machine
end

