-- ==== Sys2Proof/Proofs/VirtualInstances.lean ====
section
/-!
PROOF. Instances are created, quiesced, reset and removed (spec/14_virtual_instances.md R493, R500, R506 to R509).
-/
namespace Sys2Proof.Machine

/-! ### What the work on a queue pair leaves alone -/

/-- The write, if it is of a table entry, is of one whose key satisfies the condition. -/
@[simp] def Act.tabIn (T : Nat → Prop) : Act → Prop
  | .page (.tables k _) => T k
  | _ => True

/-- The write changes neither the entry with the key `k` nor a function of the endpoint nor what is kept of an instance. -/
def Act.leaves (k : Nat) (a : Act) : Prop := a.piece ≠ .pcieFn ∧ a.piece ≠ .vinst ∧ a.tabIn (fun j => j ≠ k)

theorem Act.tabIn_of_piece {T : Nat → Prop} {a : Act} (h : a.piece ≠ .tables) : a.tabIn T := by
  unfold Act.tabIn
  split
  · exact absurd rfl h
  · trivial

@[simp] theorem Prog.All.leaves {k : Nat} {p : Prog} (h : p.All Act.plain) : p.All (Act.leaves k) := Prog.All.mono
  (fun a ha => by
    obtain ⟨hTables, hFn, -, hInst, -⟩ := Act.plain_iff.mp ha
    exact ⟨hFn, hInst, Act.tabIn_of_piece hTables⟩) h

section Leaves
variable {p : Prog} {k : Nat} (h : p.All (Act.leaves k)) (s : State)
include h

theorem Prog.All.tablesAt_run : (p.run s).tablesAt k = s.tablesAt k :=
  Prog.All.keeps (Q := fun t => t.tablesAt k = s.tablesAt k) (fun a t ha ht => by
    obtain ⟨-, -, hTab⟩ := ha
    cases a with
    | page a =>
      cases a with
      | tables j e =>
        rw [show (Act.page (.tables j e)).apply t = (Prog.put (.tables j e)).run t from rfl, tablesAt_put, if_neg (Ne.symm hTab), ht]
      | _ => exact ht
    | _ => exact ht) h s rfl

theorem Prog.All.same_pcieFn_run : s.same (p.run s) .pcieFn :=
  Prog.All.keeps (Q := fun t => s.same t .pcieFn) (fun a t ha ht => State.same_trans ht (a.same_apply t .pcieFn (Ne.symm ha.1))) h s (s.same_refl _)

theorem Prog.All.same_vinst_run : s.same (p.run s) .vinst :=
  Prog.All.keeps (Q := fun t => s.same t .vinst) (fun a t ha ht => State.same_trans ht (a.same_apply t .vinst (Ne.symm ha.2.1))) h s (s.same_refl _)

end Leaves

/-! ### Records, completions and queue pairs (R478, R480, R487, R508) -/

section Work
variable {k : Nat}

@[simp] theorem leaves_setTab {page table index : Nat} {e : Entry} (h : k ≠ tabKey page table index) : (setTab page table index e).All (Act.leaves k) := by
  simp [setTab, Act.leaves, Ne.symm h]

@[simp] theorem leaves_setTabF {page table index v : Nat} {x : EF} (h : k ≠ tabKey page table index) : (setTabF page table index x v).All (Act.leaves k) := by
  simp [setTabF, h]

@[simp] theorem leaves_bumpTabF {page table index n : Nat} {x : EF} (h : k ≠ tabKey page table index) : (bumpTabF page table index x n).All (Act.leaves k) := by
  simp [bumpTabF, h]

@[simp] theorem leaves_recordGone {q reason : Nat} {r : HostRec} {drop : Bool} (h : k ≠ tabKey 3 0 q) : (recordGone q r reason drop).All (Act.leaves k) := by
  rw [recordGone]
  cases r.pkt with
  | none => simp [h]
  | some p => cases r.queue <;> simp [h]

@[simp] theorem leaves_hostDrop {q : Nat} (h : k ≠ tabKey 3 0 q) : (hostDrop q).All (Act.leaves k) := by
  simp [hostDrop, h, Act.leaves]

@[simp] theorem leaves_setQpState {q st : Nat} (h : k ≠ tabKey 3 0 q) : (setQpState q st).All (Act.leaves k) := by
  simp [setQpState, h]

theorem leaves_closeOpen (h : k < tabKey 5 0 0) (i : Nat) : (closeOpen i).All (Act.leaves k) := by
  have hKey : tabKey 5 0 i ≠ k := by
    simp only [tabKey] at h ⊢
    omega
  simp [closeOpen, Act.leaves, hKey]

@[simp] theorem leaves_timeoutCleared {q : Nat} (h : k < tabKey 5 0 0) : (timeoutCleared q).All (Act.leaves k) := by
  simp only [timeoutCleared, all_look_iff]
  intro s
  split
  · simp only [all_onlyIf_iff, releaseClears, all_look_iff]
    intro _ t
    split
    · simp [leaves_closeOpen h]
    · simp
  · simp

@[simp] theorem leaves_qpOff {q : Nat} {keep : Bool} (h : k ≠ tabKey 3 0 q) (hOpen : k < tabKey 5 0 0) : (qpOff q keep).All (Act.leaves k) := by
  simp only [qpOff, all_look_iff, all_seqs_cons_iff, all_seqs_nil_iff, all_each_iff, all_put_iff, and_true]
  exact fun s => ⟨fun r _ => by simp, by simp [h], by simp [Act.leaves], by simp [Act.leaves, Ne.symm h], by simp [hOpen]⟩

end Work

/-! ### Entries of queue pairs and instances -/

theorem tab_of_tablesAt {s t : State} {page table index : Nat} (h : t.tablesAt (tabKey page table index) = s.tablesAt (tabKey page table index)) :
    t.tab page table index = s.tab page table index := by rw [State.tab, State.tab?, h, ← State.tab?, ← State.tab]

theorem tablesAt_plain {p : Prog} (h : p.All Act.plain) (s : State) (k : Nat) : (p.run s).tablesAt k = s.tablesAt k := Prog.All.tablesAt_run h.leaves s

theorem instKey_open {i : Nat} (h : i < 4096) : tabKey 4 0 i < tabKey 5 0 0 := by simp only [tabKey]; omega

theorem qpKey_open {q : Nat} (h : q < 8192) : tabKey 3 0 q < tabKey 5 0 0 := by simp only [tabKey]; omega

theorem instKey_qpKey {i q : Nat} (h : q < 8192) : tabKey 4 0 i ≠ tabKey 3 0 q := by simp only [tabKey]; omega

/-- The queue pairs of an instance stand in the table. -/
theorem instQps_lt {s : State} {i q : Nat} (h : q ∈ s.instQps i) : q < 8192 := by
  obtain ⟨k, hk, rfl⟩ := List.mem_map.mp h
  have hCount : (s.inst i).f INST.QP_COUNT < 2 ^ 8 := fieldOf_lt _ _ _
  have hBase : (s.inst i).f INST.QP_BASE < 2 ^ 12 := fieldOf_lt _ _ _
  have := List.mem_range.mp hk
  omega

theorem instQps_congr {s t : State} {i : Nat} (h : t.inst i = s.inst i) : t.instQps i = s.instQps i := by rw [State.instQps, State.instQps, h]

/-! ### A command of the instances -/

theorem plainReg_virtCmd : plainReg 4 0x200 0xF0000FFF = true := by decide +kernel

/-- What a command on instances that the controller has taken finds. -/
theorem command_virt {i : Instr} {m op : Nat} {data : Word} {s : State} {E : State → Prop} (hWf : i.wellFormed = true) (hTakes : s.takesCmd m 4 = true)
    (hIdle : s.rd VIRT_CMD_STAT.BUSY = 0) (hE : ∀ v, s.onlyIn v (.regs :: hostPieces) → v.rd VIRT_CMD_STAT.BUSY = 0 → E ((virtCmd (withOp op data).toNat).run v)) :
    ∃ t, command i (hostWrite m 4 0x200 15 (withOp op data)) s = .next t ∧ E t := by
  obtain ⟨hTakes, hEn⟩ := takesCmd_takes hTakes
  obtain ⟨d, hPlain, -, -⟩ := plainReg_decl plainReg_virtCmd
  refine command_tmAccepted hWf hTakes rfl hPlain ?_ fun v hv => ?_
  · simp [State.writeRefused, startsWork, hEn, hIdle]
  · have hIdle' : v.rd VIRT_CMD_STAT.BUSY = 0 := (hv.recorded.rd (by decide)).trans hIdle
    have hControl : ∀ w, (controlWrite m 4 0x200 w (withOp op data)).run v = (virtCmd (withOp op data).toNat).run ((setReg 4 0x200 w).run v) := fun w => by
      unfold controlWrite
      rw [run_look]
      simp only [Nat.reduceBEq, Bool.false_and, Bool.false_eq_true, if_false, beq_self_eq_true, Bool.and_self, if_true, hIdle']
      rw [run_onlyIf_true (b := true) _ _ rfl, run_andThen]
    rw [regDo_control (by decide) (by decide) (.inr (hv.recorded.enabled (by decide) hEn)), hControl]
    have hCommanded := hv.commanded (page := 4) (off := 0x200) (by decide) (d.merge (v.reg 4 0x200) (withOp op data))
    exact hE _ hCommanded.onlyIn ((hCommanded.rd _ (by decide) (by decide) (by decide) (by decide)).trans hIdle)

theorem withOp_inst (op : Nat) (data : Word) : (withOp op data).toNat % 4096 = data.toNat % 4096 := by
  have h := fieldOf_withOp_low op data (hi := 11) (lo := 0) (by decide)
  simpa [fieldOf] using h

/-- The operation of a command's code on an instance. -/
def virtOp (i : Nat) : Nat → Prog
  | 0 => virtEnds 0
  | 1 => virtCreate i
  | 2 => virtQuiesce i
  | 3 => virtResume i
  | 4 => virtReset i
  | 5 => virtRemove i
  | _ => virtEnds 1

/-- A taken command runs the operation of its code. -/
theorem virtCmd_run {op : Nat} {data : Word} {v : State} (hOp : op < 16) (hIdle : v.rd VIRT_CMD_STAT.BUSY = 0) :
    (virtCmd (withOp op data).toNat).run v = (virtOp (data.toNat % 4096) op).run v := by
  rw [virtCmd, run_look, opcode_withOp hOp, withOp_inst, hIdle]
  rfl

@[simp] theorem plain_virtEnds (result : Nat) : (virtEnds result).All Act.plain := by simp [virtEnds]

@[simp] theorem plain_virtCount : virtCount.All Act.plain := by simp [virtCount]

theorem virtEnds_shows {result : Nat} (hResult : result < 256) (s : State) :
    ((virtEnds result).run s).rd VIRT_CMD_STAT.DONE = 1 ∧ ((virtEnds result).run s).rd VIRT_CMD_STAT.RESULT = result := by
  rw [virtEnds, run_seqs_cons, run_seqs_cons, run_seqs_cons, run_seqs_nil]
  exact ⟨(rd_setF_apart _ _ (by unfold Fld.apart; decide)).trans (rd_setF_fits _ (by decide)), rd_setF_fits _ ⟨by decide, hResult⟩⟩

/-! ### VIRT_CMD (R500, R506 to R508) -/

section Commands
variable {m : Nat} {data : Word} {s : State}

theorem virtNop_ends (hWf : Instr.wellFormed (.virtNop m data) = true) (hTakes : s.takesCmd m 4 = true) (hIdle : s.rd VIRT_CMD_STAT.BUSY = 0) :
    ∃ t, exec (.virtNop m data) s = .next t ∧ t.rd VIRT_CMD_STAT.DONE = 1 ∧ t.rd VIRT_CMD_STAT.RESULT = 0 := by
  simp only [exec, execVirtNop]
  refine command_virt hWf hTakes hIdle fun v _ hFree => ?_
  rw [virtCmd_run (by decide) hFree, virtOp]
  exact virtEnds_shows (by decide) v

/-- What a taken command finds of the tables and of the instances' other state. -/
theorem inst_of_taken {v : State} (h : s.onlyIn v (.regs :: hostPieces)) (i : Nat) : v.inst i = s.inst i :=
  tab_of_tablesAt (by rw [State.tablesAt, State.tablesAt, show s.tables = v.tables from h .tables (by decide)])

theorem createResult_of_taken {v : State} (h : s.onlyIn v (.regs :: hostPieces)) (i : Nat) : v.createResult i = s.createResult i := by
  have hTables : s.tables = v.tables := h .tables (by decide)
  have hQp : ∀ q, v.qp q = s.qp q := fun q => tab_of_tablesAt (by rw [State.tablesAt, State.tablesAt, hTables])
  have hInstances : v.instances = s.instances := by
    simp only [State.instances, State.tabIndices, inst_of_taken h, hTables]
  simp only [State.createResult, inst_of_taken h, hQp, hInstances]

/-- The entry of a queue pair that an instance gets. -/
def ownedQp (e : Entry) (i : Nat) : Entry := (({} : Entry).put QP.OWNER i).put QP.PASID_EN (b2n (64 ≤ i)) |>.put QP.PASID (if 64 ≤ i then e.f INST.PASID else 0)

theorem ownedQp_owner (e : Entry) {i : Nat} (h : i < 4096) : (ownedQp e i).f QP.OWNER = i := by
  rw [ownedQp, Entry.f_put_apart (by unfold EF.apart; decide), Entry.f_put_apart (by unfold EF.apart; decide), Entry.f_put (by decide)]
  exact Nat.mod_eq_of_lt h

theorem tablesAt_putVinst (u : State) (i : Nat) (x : VInst) (k : Nat) : ((Prog.put (.vinst i x)).run u).tablesAt k = u.tablesAt k := rfl

theorem tablesAt_putQpx (u : State) (i : Nat) (x : QpX) (k : Nat) : ((Prog.put (.qpx i x)).run u).tablesAt k = u.tablesAt k := rfl

theorem tablesAt_setTab (u : State) (page table index : Nat) (e : Entry) (k : Nat) :
    ((setTab page table index e).run u).tablesAt k = if k = tabKey page table index then some e else u.tablesAt k := tablesAt_put _ _ _ _

theorem virtCreate_creates {i : Nat} (hWf : Instr.wellFormed (.virtCreate m data) = true) (hTakes : s.takesCmd m 4 = true) (hIdle : s.rd VIRT_CMD_STAT.BUSY = 0)
    (hi : i = data.toNat % 4096) (hFree : (s.inst i).f INST.STATE = 0) (hPasses : s.createResult i = 0) :
    ∃ t, exec (.virtCreate m data) s = .next t ∧ (t.inst i).f INST.STATE = 1 ∧ (t.inst i).f INST.GEN = 0 ∧ t.rd VIRT_CMD_STAT.RESULT = 0 ∧
      (s.instQps i).all (fun k => (t.qp k).f QP.OWNER == i) = true := by
  have hInst : i < 4096 := hi ▸ Nat.mod_lt _ (by decide)
  simp only [exec, execVirtCreate]
  refine command_virt hWf hTakes hIdle fun v hv hBusy => ?_
  have hEntry := inst_of_taken hv i
  let given : Prog := each (s.instQps i) fun k => .andThen (.put (.qpx k {})) (setTab 3 0 k (ownedQp (s.inst i) i))
  let entry : Entry := ((s.inst i).put INST.GEN 0).put INST.STATE 1
  let w : State := (setTab 4 0 i entry).run (given.run v)
  have hRun : (virtCmd (withOp 1 data).toNat).run v = (virtEnds 0).run (virtCount.run ((Prog.put (.vinst i {})).run w)) := by
    rw [virtCmd_run (by decide) hBusy, ← hi, virtOp, virtCreate, run_look]
    simp only [hEntry, hFree, createResult_of_taken hv, hPasses, instQps_congr hEntry, bne_self_eq_false, Bool.and_false, Bool.false_eq_true, if_false]
    iterate 5 rw [run_seqs_cons]
    rw [run_seqs_nil]
    rfl
  have hTables : ∀ k, ((virtEnds 0).run (virtCount.run ((Prog.put (.vinst i {})).run w))).tablesAt k = w.tablesAt k := fun k => by
    rw [tablesAt_plain (plain_virtEnds 0), tablesAt_plain plain_virtCount, tablesAt_putVinst]
  have hShown : ((virtEnds 0).run (virtCount.run ((Prog.put (.vinst i {})).run w))).inst i = entry := (tab_of_tablesAt (hTables _)).trans (tab_setTab _ _ _ _ _)
  rw [hRun, hShown]
  refine ⟨?_, ?_, (virtEnds_shows (by decide) _).2, List.all_eq_true.mpr fun q hq => beq_iff_eq.mpr ?_⟩
  · rw [Entry.f_put (by decide)]
    rfl
  · rw [Entry.f_put_apart (by unfold EF.apart; decide), Entry.f_put (by decide)]
    rfl
  · have hGiven : (given.run v).tablesAt (tabKey 3 0 q) = some (ownedQp (s.inst i) i) :=
      run_each_establishes (J := fun _ => True) (K := fun u => u.tablesAt (tabKey 3 0 q) = some (ownedQp (s.inst i) i)) (fun _ _ _ => trivial)
        (fun u _ => by rw [run_andThen, tablesAt_setTab, if_pos rfl])
        (fun b u _ hu => by
          rw [run_andThen, tablesAt_setTab, tablesAt_putQpx, hu, ite_self]) trivial (.inl hq)
    have hOwned : w.tablesAt (tabKey 3 0 q) = some (ownedQp (s.inst i) i) :=
      (tablesAt_setTab _ _ _ _ _ _).trans ((if_neg (instKey_qpKey (i := i) (instQps_lt hq)).symm).trans hGiven)
    rw [State.qp, State.tab, State.tab?, hTables, hOwned, Option.getD_some, ownedQp_owner _ hInst]

theorem inst_setInst (u : State) (i st : Nat) {x : EF} (h : INST.STATE.apart x) : (((setInst i st).run u).inst i).f x = (u.inst i).f x := by
  rw [setInst, setTabF, run_look, State.inst, tab_setTab, Entry.f_put_apart h, State.inst]

theorem state_setInst (u : State) (i : Nat) {st : Nat} (h : st < 8) : (((setInst i st).run u).inst i).f INST.STATE = st := by
  rw [setInst, setTabF, run_look, State.inst, tab_setTab, Entry.f_put (by decide)]
  exact Nat.mod_eq_of_lt h

/-- Each queue pair's records go; no instance's entry does. -/
theorem leaves_each_hostDrop {i j : Nat} (u : State) : (each (u.instQps j) hostDrop).All (Act.leaves (tabKey 4 0 i)) :=
  all_each_iff.mpr fun _ hq => leaves_hostDrop (instKey_qpKey (instQps_lt hq))

theorem virtQuiesce_begins {i : Nat} (hWf : Instr.wellFormed (.virtQuiesce m data) = true) (hTakes : s.takesCmd m 4 = true) (hIdle : s.rd VIRT_CMD_STAT.BUSY = 0)
    (hi : i = data.toNat % 4096) (hVf : i ≠ 0) (hActive : (s.inst i).f INST.STATE = 1) :
    ∃ t, exec (.virtQuiesce m data) s = .next t ∧ (t.inst i).f INST.STATE = 2 ∧ (t.vinstAt i).quiesceAt = some s.mono ∧ t.rd VIRT_CMD_STAT.RESULT = 0 := by
  simp only [exec, execVirtQuiesce]
  refine command_virt hWf hTakes hIdle fun v hv hBusy => ?_
  have hGo : (i == 0 || (v.inst i).f INST.STATE != 1) = false := by
    rw [inst_of_taken hv, hActive, beq_eq_false_iff_ne.mpr hVf]
    rfl
  have hRun : (virtCmd (withOp 2 data).toNat).run v = (virtEnds 0).run ((each (v.instQps i) hostDrop).run
      ((Prog.put (.vinst i { v.vinstAt i with quiesceAt := some v.mono })).run ((setInst i 2).run v))) := by
    rw [virtCmd_run (by decide) hBusy, ← hi, virtOp, virtQuiesce, run_look, if_neg (Bool.eq_false_iff.mp hGo)]
    iterate 4 rw [run_seqs_cons]
    rw [run_seqs_nil]
  have hMono : v.mono = s.mono := State.same_mono (hv .mono16 (by decide))
  rw [hRun]
  refine ⟨?_, ?_, (virtEnds_shows (by decide) _).2⟩
  · have hEntry : ∀ w : State, ((virtEnds 0).run ((each (v.instQps i) hostDrop).run w)).inst i = w.inst i := fun w =>
      tab_of_tablesAt ((tablesAt_plain (plain_virtEnds 0) _ _).trans (Prog.All.tablesAt_run (leaves_each_hostDrop v) w))
    rw [hEntry]
    exact state_setInst v i (by decide)
  · have hKept : ∀ w : State, ((virtEnds 0).run ((each (v.instQps i) hostDrop).run w)).vinstAt i = w.vinstAt i := fun w => by
      have hEnds : w.vinst = ((virtEnds 0).run ((each (v.instQps i) hostDrop).run w)).vinst :=
        State.same_trans (f := .vinst) (Prog.All.same_vinst_run (leaves_each_hostDrop (i := i) v) w) (Prog.All.same_vinst_run (k := 0) (plain_virtEnds 0).leaves _)
      rw [State.vinstAt, State.vinstAt, hEnds]
    rw [hKept, run_put, Act.vinst_apply, if_pos rfl, hMono]

theorem virtResume_resumes {i : Nat} (hWf : Instr.wellFormed (.virtResume m data) = true) (hTakes : s.takesCmd m 4 = true) (hIdle : s.rd VIRT_CMD_STAT.BUSY = 0)
    (hi : i = data.toNat % 4096) (hQuiet : (s.inst i).f INST.STATE = 3) :
    ∃ t, exec (.virtResume m data) s = .next t ∧ (t.inst i).f INST.STATE = 1 ∧ t.rd VIRT_CMD_STAT.RESULT = 0 := by
  simp only [exec, execVirtResume]
  refine command_virt hWf hTakes hIdle fun v hv hBusy => ?_
  have hRun : (virtCmd (withOp 3 data).toNat).run v = (virtEnds 0).run ((setInst i 1).run v) := by
    rw [virtCmd_run (by decide) hBusy, ← hi, virtOp, virtResume, run_look, inst_of_taken hv, hQuiet, if_neg (by decide), run_andThen]
  have hEntry : ((virtEnds 0).run ((setInst i 1).run v)).inst i = ((setInst i 1).run v).inst i := tab_of_tablesAt (tablesAt_plain (plain_virtEnds 0) _ _)
  rw [hRun, hEntry]
  exact ⟨state_setInst v i (by decide), (virtEnds_shows (by decide) _).2⟩

/-! ### Queue pairs at their reset values (R508) -/

theorem fieldOf_zero {n : Nat} (hi lo : Nat) : fieldOf (0 : BitVec n) hi lo = 0 := by simp [fieldOf]

theorem Entry.f_empty (x : EF) : ({} : Entry).f x = 0 := by
  unfold Entry.f
  split_ifs <;> exact fieldOf_zero _ _

/-- A queue pair that is turned off is DISABLED. -/
theorem qpOff_disabled {q : Nat} (hq : q < 8192) (keep : Bool) (u : State) : (((qpOff q keep).run u).qp q).f QP.STATE = 0 := by
  rw [qpOff, run_look]
  iterate 5 rw [run_seqs_cons]
  rw [run_seqs_nil]
  have hCleared : ∀ w : State, ((timeoutCleared q).run w).qp q = w.qp q := fun w => tab_of_tablesAt (Prog.All.tablesAt_run (leaves_timeoutCleared (qpKey_open hq)) w)
  rw [hCleared, State.qp, State.tab, State.tab?, tablesAt_put, if_pos rfl]
  generalize (if keep = true then _ else _ : Entry) = e
  by_cases hEmpty : (e == {}) = true
  · rw [if_pos hEmpty, Option.getD_none, Entry.f_empty]
  · rw [if_neg hEmpty, Option.getD_some, Entry.f_put (by decide), Nat.zero_mod]

/-- What RESET does before the instance's generation counts. -/
def instCleared (i : Nat) (qs : List Nat) : Prog := .andThen (each qs fun q => .andThen (hostDrop q) (qpOff q false))
  (onlyIf (i < 64) (each (List.range 64) (fun v => .look fun t => .put (.msix (i * 2048 + v) { t.msixAt (i * 2048 + v) with masked := true, pending := false }))))

theorem instReset_run (i : Nat) (u : State) :
    (instReset i).run u = (setTabF 4 0 i INST.GEN (((u.inst i).f INST.GEN + 1) % 2 ^ 32)).run ((instCleared i (u.instQps i)).run u) := by
  rw [instReset, run_look, run_seqs_cons, run_seqs_cons, run_seqs_cons, run_seqs_nil, instCleared, run_andThen]

theorem leaves_instCleared {i j : Nat} {u : State} (hi : i < 4096) : (instCleared j (u.instQps j)).All (Act.leaves (tabKey 4 0 i)) := by
  refine ⟨all_each_iff.mpr fun q hq => ?_, ?_⟩
  · have hKey := instKey_qpKey (i := i) (instQps_lt hq)
    exact ⟨leaves_hostDrop hKey, leaves_qpOff hKey (instKey_open hi)⟩
  · exact Prog.All.leaves (by simp)

theorem instReset_gen (i : Nat) (u : State) : (((instReset i).run u).inst i).f INST.GEN = ((u.inst i).f INST.GEN + 1) % 2 ^ 32 := by
  rw [instReset_run, setTabF, run_look, State.inst, tab_setTab, Entry.f_put (by decide)]
  exact Nat.mod_mod _ _

/-- A queue pair of the list is DISABLED after all are turned off. -/
theorem instReset_disabled {i q : Nat} {u : State} (hq : q ∈ u.instQps i) : (((instReset i).run u).qp q).f QP.STATE = 0 := by
  have hLt := instQps_lt hq
  have hOff : (((each (u.instQps i) fun q => .andThen (hostDrop q) (qpOff q false)).run u).qp q).f QP.STATE = 0 := by
    refine run_each_establishes (J := fun _ => True) (K := fun t => (t.qp q).f QP.STATE = 0) (fun _ _ _ => trivial) (fun t _ => ?_) (fun b t _ ht => ?_) trivial (.inl hq)
    · rw [run_andThen]
      exact qpOff_disabled hLt false _
    · by_cases hb : b = q
      · subst hb
        rw [run_andThen]
        exact qpOff_disabled hLt false _
      · have hKey : tabKey 3 0 q ≠ tabKey 3 0 b := fun e => hb (tabKey_inj 3 0 _ _ e).symm
        have hLeaves : (Prog.andThen (hostDrop b) (qpOff b false)).All (Act.leaves (tabKey 3 0 q)) := ⟨leaves_hostDrop hKey, leaves_qpOff hKey (qpKey_open hLt)⟩
        rw [State.qp, tab_of_tablesAt (hLeaves.tablesAt_run t)]
        exact ht
  have hMasked : (onlyIf (i < 64) (each (List.range 64) (fun v => .look fun t =>
      .put (.msix (i * 2048 + v) { t.msixAt (i * 2048 + v) with masked := true, pending := false })))).All Act.plain := by simp
  have hGen : ∀ w : State, ((setTabF 4 0 i INST.GEN (((u.inst i).f INST.GEN + 1) % 2 ^ 32)).run w).qp q = w.qp q := fun w =>
    tab_of_tablesAt (Prog.All.tablesAt_run (leaves_setTabF (Ne.symm (instKey_qpKey hLt))) w)
  rw [instReset_run, hGen, instCleared, run_andThen, State.qp, tab_of_tablesAt (tablesAt_plain hMasked _ _)]
  exact hOff

theorem virtReset_resets {i : Nat} (hWf : Instr.wellFormed (.virtReset m data) = true) (hTakes : s.takesCmd m 4 = true) (hIdle : s.rd VIRT_CMD_STAT.BUSY = 0)
    (hi : i = data.toNat % 4096) (hQuiet : (s.inst i).f INST.STATE = 3) :
    ∃ t, exec (.virtReset m data) s = .next t ∧ (t.inst i).f INST.GEN = ((s.inst i).f INST.GEN + 1) % 2 ^ 32 ∧
      (s.instQps i).all (fun k => (t.qp k).f QP.STATE == 0) = true ∧ t.rd VIRT_CMD_STAT.RESULT = 0 := by
  simp only [exec, execVirtReset]
  refine command_virt hWf hTakes hIdle fun v hv hBusy => ?_
  have hEntry := inst_of_taken hv i
  have hRun : (virtCmd (withOp 4 data).toNat).run v = (virtEnds 0).run ((instReset i).run v) := by
    rw [virtCmd_run (by decide) hBusy, ← hi, virtOp, virtReset, run_look, hEntry, hQuiet, if_neg (by decide), run_andThen]
  have hTab : ∀ page index, ((virtEnds 0).run ((instReset i).run v)).tab page 0 index = ((instReset i).run v).tab page 0 index := fun _ _ =>
    tab_of_tablesAt (tablesAt_plain (plain_virtEnds 0) _ _)
  rw [hRun, State.inst, hTab, ← State.inst, instReset_gen, hEntry]
  refine ⟨rfl, List.all_eq_true.mpr fun q hq => beq_iff_eq.mpr ?_, (virtEnds_shows (by decide) _).2⟩
  rw [State.qp, hTab]
  exact instReset_disabled (by rw [instQps_congr hEntry]; exact hq)

theorem virtRemove_frees {i : Nat} (hWf : Instr.wellFormed (.virtRemove m data) = true) (hTakes : s.takesCmd m 4 = true) (hIdle : s.rd VIRT_CMD_STAT.BUSY = 0)
    (hi : i = data.toNat % 4096) (hQuiet : (s.inst i).f INST.STATE = 3) :
    ∃ t, exec (.virtRemove m data) s = .next t ∧ (t.inst i).f INST.STATE = 0 ∧
      (s.instQps i).all (fun k => t.tablesAt (tabKey 3 0 k) == none) = true ∧ t.rd VIRT_CMD_STAT.RESULT = 0 := by
  simp only [exec, execVirtRemove]
  refine command_virt hWf hTakes hIdle fun v hv hBusy => ?_
  have hEntry := inst_of_taken hv i
  let freed : Prog := each (s.instQps i) fun q => .andThen (qpOff q false) (.put (.tables (tabKey 3 0 q) none))
  have hRun : (virtCmd (withOp 5 data).toNat).run v =
      (virtEnds 0).run (virtCount.run ((Prog.put (.vinst i {})).run ((setInst i 0).run (freed.run v)))) := by
    rw [virtCmd_run (by decide) hBusy, ← hi, virtOp, virtRemove, run_look, hEntry, hQuiet, instQps_congr hEntry, if_neg (by decide)]
    iterate 5 rw [run_seqs_cons]
    rw [run_seqs_nil]
  have hTables : ∀ (w : State) k, ((virtEnds 0).run (virtCount.run ((Prog.put (.vinst i {})).run w))).tablesAt k = w.tablesAt k := fun w k => by
    rw [tablesAt_plain (plain_virtEnds 0), tablesAt_plain plain_virtCount, tablesAt_putVinst]
  rw [hRun]
  refine ⟨?_, List.all_eq_true.mpr fun q hq => beq_iff_eq.mpr ?_, (virtEnds_shows (by decide) _).2⟩
  · rw [State.inst, tab_of_tablesAt (hTables _ _)]
    exact state_setInst _ i (by decide)
  · have hLt := instQps_lt hq
    have hFreed : (freed.run v).tablesAt (tabKey 3 0 q) = none := by
      refine run_each_establishes (J := fun _ => True) (K := fun t => t.tablesAt (tabKey 3 0 q) = none) (fun _ _ _ => trivial)
        (fun t _ => by rw [run_andThen, tablesAt_put, if_pos rfl]) (fun b t _ ht => ?_) trivial (.inl hq)
      rw [run_andThen, tablesAt_put]
      by_cases hb : tabKey 3 0 q = tabKey 3 0 b
      · rw [if_pos hb]
      · rw [if_neg hb, Prog.All.tablesAt_run (leaves_qpOff hb (qpKey_open hLt))]
        exact ht
    rw [hTables, setInst, Prog.All.tablesAt_run (leaves_setTabF (Ne.symm (instKey_qpKey hLt)))]
    exact hFreed

end Commands

/-! ### VIRT_QUIESCED and QUIESCE_READ_TIMEOUT (R507) -/

theorem virtQuiesced_quiesced {inst : Nat} {s : State} (hWf : Instr.wellFormed (.virtQuiesced inst) = true) (hQuiescing : (s.inst inst).f INST.STATE = 2)
    (hDone : (s.instQps inst).all (fun q => (s.qpxAt q).reads.isEmpty && (s.qpxAt q).wait.isNone) = true) :
    ∃ t, exec (.virtQuiesced inst) s = .next t ∧ (t.inst inst).f INST.STATE = 3 ∧ (t.regsAt (regKey 4 0x10)).getLsbD 16 = true := by
  have hGo : ((s.begun.inst inst).f INST.STATE == 2 && (s.begun.instQps inst).all (fun q => (s.begun.qpxAt q).reads.isEmpty && (s.begun.qpxAt q).wait.isNone)) = true := by
    rw [Bool.and_eq_true, beq_iff_eq]
    exact ⟨hQuiescing, hDone⟩
  simp only [exec, execVirtQuiesced]
  refine command_answers hWf ?_
  rw [run_look, run_onlyIf_true _ _ hGo, run_andThen, State.inst, tab_of_tablesAt (tablesAt_plain (plain_raise 4 16) _ _)]
  exact ⟨state_setInst _ inst (by decide), getLsbD_raise _ (by decide) (by decide) (by decide)⟩

/-- The reads of a queue pair that are outstanding, and the number that may still be answered late. -/
def State.owed (q : Nat) (s : State) : List TxRead × Nat := ((s.qpxAt q).reads, (s.qpxAt q).late)

/-- The write is not of a queue pair's queues. -/
def Act.offQpx (a : Act) : Prop := a.piece ≠ .qpx

@[simp] theorem Prog.All.offQpx {p : Prog} (h : p.All Act.plain) : p.All Act.offQpx := Prog.All.mono (fun _ ha => (Act.plain_iff.mp ha).2.2.1) h

theorem Prog.All.owed_run {p : Prog} (h : p.All Act.offQpx) (q : Nat) (s : State) : (p.run s).owed q = s.owed q := by
  have hSame : s.qpx = (p.run s).qpx := Prog.All.keeps (Q := fun t => s.same t .qpx) (fun a _ ha ht => State.same_trans ht (a.same_apply _ .qpx (Ne.symm ha))) h s (s.same_refl _)
  rw [State.owed, State.owed, State.qpxAt, State.qpxAt, hSame]

theorem owed_putQpx (q : Nat) (x : QpX) (s : State) : ((Prog.put (.qpx q x)).run s).owed q = (x.reads, x.late) := by
  rw [State.owed, run_put, Act.qpx_apply, if_pos rfl]

@[simp] theorem offQpx_setTabF (page table index v : Nat) (x : EF) : (setTabF page table index x v).All Act.offQpx := by simp [setTabF, setTab, Act.offQpx]

@[simp] theorem offQpx_setQpState (q st : Nat) : (setQpState q st).All Act.offQpx := by simp [setQpState]

@[simp] theorem offQpx_hostDrop (q : Nat) : (hostDrop q).All Act.offQpx := by
  have hGone : ∀ r, (recordGone q r 0xF0 true).All Act.offQpx := fun r => by
    rw [recordGone]
    cases r.pkt with
    | none => simp [bumpTabF]
    | some p => cases r.queue <;> simp [bumpTabF]
  simp [hostDrop, hGone, Act.offQpx]

theorem offQpx_readTimeout (q : Nat) : (readTimeout q).All Act.offQpx := by simp [readTimeout, Act.offQpx]

/-- A completion is counted and may signal; what is outstanding stays. -/
theorem owed_qpCounted (q : Nat) (s : State) : ((qpCounted q).run s).owed q = s.owed q := by
  have hSignal : ∀ u : State, ((qpSignal q).run u).owed q = u.owed q := fun u => by
    rw [qpSignal, run_look, run_seqs_cons, run_seqs_cons, run_seqs_cons, run_seqs_nil, (plain_refreshInta).offQpx.owed_run, (plain_signalVector _ _).offQpx.owed_run, owed_putQpx]
    rfl
  rw [qpCounted, run_look, run_andThen]
  cases ((s.qpxAt q).armed && (decide (max 1 ((s.qp q).f QP.COAL_CNT) ≤ (s.qpxAt q).counted + 1) || (s.qp q).f QP.COAL_US == 0)) with
  | false =>
    rw [run_onlyIf_false _ _ rfl, owed_putQpx]
    rfl
  | true =>
    rw [run_onlyIf_true _ _ rfl, hSignal, owed_putQpx]
    rfl

theorem owed_complete (q : Nat) (c : Cqe) (s : State) : ((complete q c).run s).owed q = s.owed q := by
  have hWrite : ((cqeWrite q c).run s).owed q = s.owed q := by
    rw [cqeWrite, run_look]
    iterate 5 rw [run_seqs_cons]
    rw [run_seqs_nil]
    have hLast : ∀ u : State, ((onlyIf c.int (qpCounted q)).run (hostWork.run u)).owed q = u.owed q := fun u => by
      cases c.int with
      | false => rw [run_onlyIf_false _ _ rfl, (plain_hostWork).offQpx.owed_run]
      | true => rw [run_onlyIf_true _ _ rfl, owed_qpCounted, (plain_hostWork).offQpx.owed_run]
    rw [hLast, owed_putQpx]
    rfl
  rw [complete, run_look]
  cases s.cqFull q with
  | false => exact hWrite
  | true =>
    rw [run_either_true _ _ _ rfl, owed_putQpx]
    rfl

/-- The end of a queue pair's one read: none is outstanding, and one more came late. -/
theorem owed_endRead {q : Nat} {r : TxRead} {s : State} (h : (s.qpxAt q).reads = [r]) : ((endRead q).run s).owed q = ([], (s.qpxAt q).late + 1) := by
  rw [endRead, run_look]
  simp only [h]
  iterate 4 rw [run_seqs_cons]
  rw [run_seqs_nil, (offQpx_readTimeout q).owed_run, txComplete, owed_complete, (plain_unreserveRead r).offQpx.owed_run, owed_putQpx]

theorem quiesceReadTimeout_ends {inst q c : Nat} {r : TxRead} {s : State} (hWf : Instr.wellFormed (.quiesceReadTimeout inst) = true) (hQuiescing : (s.inst inst).f INST.STATE = 2)
    (hBegan : (s.vinstAt inst).quiesceAt = some c) (hSince : s.since c 50000000 = true) (hNever : s.ctoNs = none) (hQps : s.instQps inst = [q])
    (hReads : (s.qpxAt q).reads = [r]) :
    ∃ t, exec (.quiesceReadTimeout inst) s = .next t ∧ (t.qpxAt q).reads = [] ∧ (t.qpxAt q).late = (s.qpxAt q).late + 1 := by
  have hBeganBegun : (s.begun.vinstAt inst).quiesceAt = some c := hBegan
  have hNeverBegun : s.begun.ctoNs = none := hNever
  have hQpsBegun : s.begun.instQps inst = [q] := hQps
  have hReadsBegun : (s.begun.qpxAt q).reads = [r] := hReads
  have hSinceBegun : ∀ a n, s.begun.since a n = s.since a n := fun _ _ => rfl
  have hStateBegun : (s.begun.inst inst).f INST.STATE = 2 := hQuiescing
  simp only [exec, execQuiesceReadTimeout]
  refine command_answers hWf ?_
  rw [run_look]
  simp only [hBeganBegun, hNeverBegun, hStateBegun, hSinceBegun, hSince, hQpsBegun]
  rw [run_onlyIf_true (b := 2 == 2 && true && true) _ _ rfl, each, each, run_andThen, run_skip, hReadsBegun, each, each, run_andThen, run_skip]
  exact Prod.mk.inj (owed_endRead hReadsBegun)

/-! ### VF_FLR and VF_ENABLE_CHANGE (R493, R509) -/

theorem pcieFnAt_leaves {p : Prog} {k : Nat} (h : p.All (Act.leaves k)) (s : State) (n : Nat) : (p.run s).pcieFnAt n = s.pcieFnAt n := by
  have hSame : s.pcieFn = (p.run s).pcieFn := h.same_pcieFn_run s
  rw [State.pcieFnAt, State.pcieFnAt, hSame]

theorem pcieFnAt_instReset {i : Nat} (hi : i < 4096) (s : State) (n : Nat) : ((instReset i).run s).pcieFnAt n = s.pcieFnAt n := by
  rw [instReset_run, pcieFnAt_leaves (leaves_setTabF (k := tabKey 3 0 0) (Ne.symm (instKey_qpKey (by decide)))), pcieFnAt_leaves (leaves_instCleared hi)]

theorem pcieFnAt_putPcieFn (s : State) (n : Nat) (x : PcieFn) (k : Nat) : ((Prog.put (.pcieFn n x)).run s).pcieFnAt k = if k = n then x else s.pcieFnAt k := Act.pcieFn_apply _ _ _ _

theorem pcieFnAt_vfReset {v : Nat} (hv : v < 4096) (s : State) (n : Nat) : ((vfReset v).run s).pcieFnAt n = if n = v then {} else s.pcieFnAt n := by
  rw [vfReset, run_look, run_andThen]
  cases (s.inst v).f INST.STATE != 0 with
  | false => rw [run_onlyIf_false _ _ rfl, pcieFnAt_putPcieFn]
  | true => rw [run_onlyIf_true _ _ rfl, pcieFnAt_instReset hv, pcieFnAt_putPcieFn]

theorem vfFlr_resets {vf : Nat} {s : State} (hWf : Instr.wellFormed (.vfFlr vf) = true) (hEnabled : (s.pcieFnAt 0).vfEnable = true) (hVf : vf ≤ (s.pcieFnAt 0).numVfs)
    (hHeld : (s.inst vf).f INST.STATE ≠ 0) :
    ∃ t, exec (.vfFlr vf) s = .next t ∧ t.pcieFnAt vf = {} ∧ (t.inst vf).f INST.GEN = ((s.inst vf).f INST.GEN + 1) % 2 ^ 32 ∧
      (t.regsAt (regKey 4 0x10)).getLsbD 18 = true := by
  have hRange : 0 < vf ∧ vf < 64 := by simpa [Instr.wellFormed] using hWf
  have hGo : ((s.begun.pcieFnAt 0).vfEnable && vf != 0 && decide (vf ≤ (s.begun.pcieFnAt 0).numVfs)) = true := by
    rw [show s.begun.pcieFnAt 0 = s.pcieFnAt 0 from rfl, hEnabled, decide_eq_true hVf, bne_iff_ne.mpr (by omega)]
    rfl
  have hHeldBegun : ((s.begun.inst vf).f INST.STATE != 0) = true := bne_iff_ne.mpr hHeld
  have hGen : ((Prog.put (.pcieFn vf {})).run s.begun).inst vf = s.inst vf := rfl
  simp only [exec, execVfFlr]
  refine command_answers hWf ?_
  rw [run_look, run_onlyIf_true _ _ hGo, run_andThen, pcieFnAt_leaves (k := 0) (plain_raise 4 18).leaves, pcieFnAt_vfReset (by omega), if_pos rfl, State.inst,
    tab_of_tablesAt (tablesAt_plain (plain_raise 4 18) _ _), ← State.inst]
  refine ⟨rfl, ?_, getLsbD_raise _ (by decide) (by decide) (by decide)⟩
  rw [vfReset, run_look, run_andThen, run_onlyIf_true _ _ hHeldBegun, instReset_gen, hGen]

/-- What each run of a list leaves, all leave. -/
theorem run_each_keeps {α β : Type} {f : α → Prog} (P : State → β) : ∀ {as : List α} (s : State), (∀ a ∈ as, ∀ u, P ((f a).run u) = P u) → P ((each as f).run s) = P s
  | [], _, _ => rfl
  | a :: as, s, h => (run_each_keeps P (as := as) _ fun b hb => h b (List.mem_cons_of_mem _ hb)).trans (h a List.mem_cons_self s)

theorem vfEnableChange_takes {enable : Bool} {num : Nat} {s : State} (hWf : Instr.wellFormed (.vfEnableChange enable num) = true) :
    ∃ t, exec (.vfEnableChange enable num) s = .next t ∧ (t.pcieFnAt 0).vfEnable = enable ∧ (t.pcieFnAt 0).numVfs = min 63 num := by
  have hVf : ∀ {p : Nat → Bool} {v : Nat}, v ∈ ((List.range 63).map (· + 1)).filter p → 0 ≠ v ∧ v < 4096 := fun h => by
    obtain ⟨k, hk, rfl⟩ := List.mem_map.mp (List.mem_filter.mp h).1
    have := List.mem_range.mp hk
    omega
  simp only [exec, execVfEnableChange]
  refine command_answers hWf ?_
  rw [run_look]
  iterate 4 rw [run_seqs_cons]
  rw [run_seqs_nil, run_each_keeps (fun t => t.pcieFnAt 0) _ fun v _ u => pcieFnAt_leaves (k := 0) (plain_showConfig v).leaves u 0,
    run_each_keeps (fun t => t.pcieFnAt 0) _ (by
      intro v hv u
      rw [run_look, pcieFnAt_putPcieFn, if_neg (hVf hv).1]),
    run_each_keeps (fun t => t.pcieFnAt 0) _ fun v hv u => (pcieFnAt_vfReset (hVf hv).2 u 0).trans (if_neg (hVf hv).1), pcieFnAt_putPcieFn, if_pos rfl]
  exact ⟨rfl, rfl⟩

/-- Settles O6, command by command: the work on an instance's queue pairs leaves its entry, and each queue pair's reset values the others leave. -/
theorem virtualInstances : Obligations.VirtualInstances := by
  unfold Obligations.VirtualInstances
  exact ⟨fun _ _ _ hWf hTakes hIdle => virtNop_ends hWf hTakes hIdle,
    fun _ _ _ _ hWf hTakes hIdle hi hFree hPasses => virtCreate_creates hWf hTakes hIdle hi hFree hPasses,
    fun _ _ _ _ hWf hTakes hIdle hi hVf hActive => virtQuiesce_begins hWf hTakes hIdle hi hVf hActive,
    fun _ _ _ _ hWf hTakes hIdle hi hQuiet => virtResume_resumes hWf hTakes hIdle hi hQuiet,
    fun _ _ _ _ hWf hTakes hIdle hi hQuiet => virtReset_resets hWf hTakes hIdle hi hQuiet,
    fun _ _ _ _ hWf hTakes hIdle hi hQuiet => virtRemove_frees hWf hTakes hIdle hi hQuiet,
    fun _ _ hWf hQuiescing hDone => virtQuiesced_quiesced hWf hQuiescing hDone,
    fun _ _ _ _ _ hWf hQuiescing hBegan hSince hNever hQps hReads => quiesceReadTimeout_ends hWf hQuiescing hBegan hSince hNever hQps hReads,
    fun _ _ hWf hEnabled hVf hHeld => vfFlr_resets hWf hEnabled hVf hHeld,
    fun _ _ _ hWf => vfEnableChange_takes hWf⟩

end Sys2Proof.Machine
end
